-- ==== Sys2Proof/Word.lean ====
section
/-! DEFINITION. Word.lean: the byte and word types of the part and the sparse map in which every indexed
collection of state (queues, slots, registers by number, local memory) is held in one canonical form. -/

namespace Sys2Proof

/-- One byte of a buffer, an image or a message. -/
abbrev Byte := BitVec 8

/-- A 64-bit register or Benxis data word (R375, R492). -/
abbrev W64 := BitVec 64

/-- A byte string, first byte first. -/
abbrev Bytes := List Byte

/-- An indexed collection held as plain data: (index, value) pairs. Canonical form: indices strictly rising, and
no pair whose value is the collection's default (`SMap.wf` in Machine/Ops.lean). -/
abbrev SMap (α : Type) := List (Nat × α)

end Sys2Proof
end

