-- ==== Sys2Proof/Machine/Types1.lean ====
section
/-! DEFINITION. Types1.lean: the structures of State for system, plan, life cycle, energy, host interface, queues, records,
paddocks. Each field's line gives its width, the rule that names it, and its reset value; a field with no reset value
stated is 0, false or empty after cold reset because its register table says so. -/

namespace Sys2Proof.Machine

/-! ## System: pins, straps, boot, resets (chapters 02, 04) -/

/-- SY_STRAPS (R44, R45, Table 02.9). -/
structure Straps where
  /-- 1 bit. R44. Sampled at cold boot; 0 before (DESIGN CHOICE, log 6) -/
  nfv0 : Bool := false
  /-- 1 bit. R44. Sampled; 0 before (log 6) -/
  nfv1 : Bool := false
  /-- 2 bits. R44. Sampled; 0 before (log 6) -/
  i3cAddr : Nat := 0
  /-- 1 bit. R44. Sampled; 0 before (log 6) -/
  twinSide : Bool := false
  /-- 1 bit. R44. Sampled; 0 before (log 6) -/
  testEn : Bool := false
  /-- 1 bit. R45. Reset 0 -/
  nf0Mismatch : Bool := false
  /-- 1 bit. R45. Reset 0 -/
  nf1Mismatch : Bool := false
deriving DecidableEq, Repr

/-- Where boot stands between the commands that drive it (R81, R83, R95, R501). -/
inductive BootWait where
  /-- PORST_N low or reset held: no boot in progress (R76) -/
  | inReset
  /-- before step 13, until POWER_FAIL_N has been high for 1 ms (R501) -/
  | powerFail
  /-- step 12, the reserve check of R72 failed (R83) -/
  | reserve
  /-- step 15, the start-up tests failed and repeat (R317) -/
  | random
  /-- a twin part waits for its partner (R95) -/
  | twin
  /-- held in reset, the flush behind it, until XTAL25 or a PLL runs again (R50) -/
  | clock
  /-- boot has ended, with the gate open or in a boot stop -/
  | done
deriving DecidableEq, Repr

/-- What a cold boot meets outside the part (Table 04.4): strap balls, supplies, NAND targets, ADC readings, the random
source's samples, the meshes and the twin partner. -/
structure BootIn where
  /-- the three samples of the strap balls, bits NFV0, NFV1, I3CA0, I3CA1, TWIN_SIDE, TEST_EN (R44) -/
  strap0 : Nat := 0
  strap1 : Nat := 0
  strap2 : Nat := 0
  /-- VDDQ_NFc at 1.2 V (R45) -/
  vddq0Low : Bool := false
  vddq1Low : Bool := false
  /-- both journal banks pass their ECC scan (R188) -/
  banksOk : Bool := true

  /-- answer of each NAND target: 0 none fitted, 1 good, 2 foreign anchor, 3 fully erased, 4 outside Table 21.1 or with no
  readable parameter page (R460, R476) -/
  targets : List Nat := [1, 0, 0, 0, 1, 0, 0, 0]
  /-- page data bytes, spare bytes, page program time in µs, planes, transfer rate in MB/s (R72) -/
  pageData : Nat := 16384
  pageSpare : Nat := 1216
  tProgUs : Nat := 350
  planes : Nat := 2
  rateMBs : Nat := 800
  /-- pages per block, blocks per target, timing mode set (R459, R460) -/
  blockPages : Nat := 256
  blocks : Nat := 1024
  timingMode : Nat := 0
  /-- the calibration readings and the first conversion of HOLDUP_SENSE (R68, R69) -/
  zeroRaw : Nat := 0
  refRaw : Nat := 3200
  code : Nat := 0
  /-- groups passing the start-up tests and the known-answer test (R316) -/
  rngPassed : Nat := 0xFFFF
  kat : Bool := true
  /-- lanes at which the PCIe link trains, 16, 8, 4 or 1, and whether they are reversed (R35) -/
  linkWidth : Nat := 16
  linkReversed : Bool := false
  /-- mesh pairs whose sense follows the pattern (R430) -/
  meshFollow : Nat := 0xF
  /-- the twin partner is present, its term, and whether its plan digest agrees (R94, R95, R200) -/
  partnerPresent : Bool := false
  partnerTerm : Nat := 0
  partnerSame : Bool := true
  /-- tether lanes that complete training (R485) -/
  lanesUp : Nat := 0
deriving DecidableEq, Repr

/-- An image the part has loaded and runs by: what the yardmaster holds of it in SYS (Table 04.3 step 4, R87). -/
structure LoadedImage where
  /-- 48 bytes. its digest -/
  digest : Bytes := []
  /-- 32 bits. floor_version -/
  floor : Nat := 0
  /-- 64 bits. serial, or build number -/
  serial : Nat := 0
  /-- microcode: the image that the control stores and dispatch tables of its kind hold (R348) -/
  store : Bytes := []
  /-- microcode: opcodes and param_sets whose dispatch-table entry is invalid (R351) -/
  invalid : List (Nat × Nat) := []
deriving DecidableEq, Repr

/-- System block: pins, reset causes, boot status (R44, R50, R76, R78, R81, R83). -/
structure Sys where
  /-- 1 bit, ball. R39, R76. Held low at reset -/
  porstN : Bool := false
  /-- 1 bit, ball. R39. DESIGN CHOICE high (log 6) -/
  perstN : Bool := true
  /-- 1 bit, ball, after the filter of R75. DESIGN CHOICE high (log 6) -/
  powerFailN : Bool := true
  /-- 1 bit. R50. XTAL25 running. DESIGN CHOICE running (log 6) -/
  xtal : Bool := true
  /-- 1 bit. R442. Core PLLs locked. DESIGN CHOICE locked (log 6) -/
  pllLocked : Bool := true
  /-- 1 bit. R137. REFCLK present. DESIGN CHOICE present (log 6) -/
  refclk : Bool := true
  /-- 1 bit, ball WAKE_N driven low. R135. Reset not driven (R39) -/
  wakeDriven : Bool := false
  /-- 1 bit, ball TT_HBO. R489. Reset low (R39) -/
  ttHbo : Bool := false
  /-- lanes at which the link trains: 16, 8, 4 or 1. R35. DESIGN CHOICE 16 before training (log 6) -/
  linkWidth : Nat := 16
  /-- 1 bit. the lanes are reversed. R35. DESIGN CHOICE not (log 6) -/
  linkReversed : Bool := false
  /-- Images loaded, by kind, as SYS holds their digests. Table 04.3. Reset none -/
  loaded : SMap LoadedImage := []
  /-- The system firmware image the yardmaster runs. R86. Reset none -/
  firmware : Bytes := []
  /-- SY_STRAPS. R44 -/
  straps : Straps := {}
  /-- 5 bits. SY_BOOT_STATUS.stage, Table 04.15. Reset 0 -/
  stage : Nat := 0
  /-- 3 bits. SY_BOOT_STATUS.state, Table 04.15: 0 booting 1 running 2 TAMPER_HOLD 3 LOCKED 4 BOOT_FAIL 5 SCRAP. Reset 0 -/
  bootState : Nat := 0
  /-- 8 bits. SY_BOOT_STATUS.reason. Reset 0 -/
  reason : Nat := 0
  /-- 4 bits. SY_BOOT_STATUS.fw_slot. Reset 0 -/
  fwSlot : Nat := 0
  /-- 64 bits. Build of the system firmware loaded (R86, R114). DESIGN CHOICE 0 before boot (log 7) -/
  fwBuild : Nat := 0
  /-- Where boot stands. R81, R83, R501. In reset -/
  wait : BootWait := .inReset
  /-- 1 bit. SY_RESET_CAUSE.cold. Reset 1 (Table 04.13) -/
  causeCold : Bool := true
  /-- 1 bit. SY_RESET_CAUSE.warm_sw. Reset 0 -/
  causeWarmSw : Bool := false
  /-- 1 bit. SY_RESET_CAUSE.warm_fatal. Reset 0 -/
  causeWarmFatal : Bool := false
  /-- 1 bit. SY_RESET_CAUSE.warm_apply. Reset 0 -/
  causeWarmApply : Bool := false
  /-- 1 bit. SY_RESET_CAUSE.hif. Reset 0 -/
  causeHif : Bool := false
  /-- 1 bit. SY_RESET_CAUSE.clock_loss. Reset 0 -/
  causeClock : Bool := false
  /-- 32 bits, a mask. SY_RESET_CAUSE.paddock_resets. Reset 0 -/
  paddockResets : Nat := 0
  /-- The cause of a warm reset held during cold boot (R78), as WARM_RESET's operand. None at reset -/
  heldWarm : Option Nat := none
  /-- 1 bit. The part is in deep sleep (R54). Not at reset -/
  deepSleep : Bool := false
  /-- 4 bits. SY_STALL_DEGRADED.kinds (Table 20.15). Reset 0 -/
  degraded : Nat := 0
  /-- 5 bits. SY_PADDOCK_SEL of the PF (Table 23.5). Reset 0 -/
  paddockSel : Nat := 0
  /-- 64 bits. Time base held in the journal banks (R26). DESIGN CHOICE 0 (log 6) -/
  timeJournal : Nat := 0
  /-- 64 bits. Last hayloft time value (R26). DESIGN CHOICE 0 (log 6) -/
  timeHayloft : Nat := 0
  /-- 1 bit. Boundary instruction EXTEST, CLAMP or HIGHZ holds the balls (R484). Reset 0 -/
  boundary : Bool := false
  /-- 8 bits. TAP instruction register (R483). DESIGN CHOICE BYPASS 0xFF (log 6) -/
  tapIr : Nat := 0xFF
  /-- boundary register, in the cell order of the BSDL file (R483). DESIGN CHOICE 0 (log 6) -/
  boundaryReg : Nat := 0
  /-- MBIST has destroyed the SRAM content since cold reset (R481). Reset 0 -/
  mbistRan : Bool := false
deriving DecidableEq, Repr

/-! ## The plan in force (chapters 04, 19, 20) -/

/-- Paddock record, Table 04.9. The plan has one for each present paddock. -/
structure PadRec where
  /-- 1 bit. A record stands in the plan (R89). Reset absent -/
  present : Bool := false
  /-- flags bit 0: pool use. Table 04.9 -/
  poolUse : Bool := false
  /-- flags bit 1: host functions may load Benxis code. Table 04.9 -/
  hostLoad : Bool := false
  /-- flags bit 2: boot code holds extend rights. Table 04.9 -/
  bootExtend : Bool := false
  /-- 16 bits, 0 to 256. Table 04.9 -/
  energyShare : Nat := 0
  /-- 32 bits, 1 to 65,536. Table 04.9 -/
  inflight : Nat := 0
  /-- 64 bits, mask of stalls. Table 04.9 -/
  stallMap : Nat := 0
  /-- 16 bits, mask of cores. Table 04.9 -/
  coreMap : Nat := 0
  /-- 16 bits, 1 to 2,048. Table 04.9 -/
  msixPerVf : Nat := 0
  /-- 32 bits. Table 04.9 -/
  yardCells : Nat := 0
  /-- 16 bits, 64 KiB units. Table 04.9 -/
  cacheUnits : Nat := 0
  /-- 16 bits. Table 04.9 -/
  tkBase : Nat := 0
  /-- 16 bits. Table 04.9 -/
  tkCount : Nat := 0
  /-- 32 bits. Table 04.9 -/
  queueBase : Nat := 0
  /-- 32 bits. Table 04.9 -/
  queueCount : Nat := 0
  /-- 64 bits, mask: bit n binds VF n+1. Table 04.9 -/
  vfMap : Nat := 0
  /-- 512 bits, mask of algorithm numbers. Table 04.9 -/
  permit : Nat := 0
deriving DecidableEq, Repr

/-- Part section, Table 04.8 and Table 03.9. -/
structure PlanPart where
  twin : Bool := false
  /-- 40 to 340 in 0.25 W. Table 03.9. Default 340 -/
  capMax : Nat := 340
  deepSleepEn : Bool := true
  /-- 10 to 60,000 ms. Table 04.8. Default 1,000 -/
  drainMs : Nat := 1000
  /-- 64 bits, mask of pool stalls. Table 04.8 -/
  poolMap : Nat := 0
  /-- µF. Table 03.9; no default, 0 stands for no plan -/
  capUf : Nat := 0
  /-- percent. Table 03.9. Default 10 -/
  deratePct : Nat := 10
  /-- mV. Table 03.9; 0 stands for no plan -/
  vNomMv : Nat := 0
  /-- mV. Table 03.9; 0 stands for no plan -/
  vMinMv : Nat := 0
  /-- ppm. Table 03.9; 0 stands for no plan -/
  divPpm : Nat := 0
  /-- percent. Table 03.9. Default 85 -/
  effPct : Nat := 85
  /-- µJ. Table 03.9. Default 5,000 -/
  guardUj : Nat := 5000
deriving DecidableEq, Repr

/-- Wake policy of one shed (R64): 0 ALWAYS, 1 DEMAND, 2 NEVER. -/
structure ShedPol where
  policy : Nat := 1
  /-- 10 to 1,000,000 µs. R64. Default 1,000 -/
  idleUs : Nat := 1000
deriving DecidableEq, Repr

/-- Escalation section, Table 20.5. -/
structure EscPlan where
  containedUs : Nat := 10000
  fatalUs : Nat := 100
  rotateS : Nat := 60
  /-- 32 bits, mask -/
  override : Nat := 0
  paddockUs : SMap Nat := []
deriving DecidableEq, Repr

/-- Tamper section, Table 19.4: resp is indexed by 6 × (state − 1) + class. -/
structure TamperPlan where
  meshPresent : Nat := 0
  resp : SMap Nat := []
deriving DecidableEq, Repr

/-- Twin section, Table 04.12. -/
structure TwinPlan where
  homeSide : Nat := 0
  hbPeriodUs : Nat := 1000
  partnerTimeoutUs : Nat := 5000
  twinWaitMs : Nat := 1000
  lanesMin : Nat := 1
deriving DecidableEq, Repr

/-- The plan in force (R89). No plan is in force at reset (Table 04.2: reloaded from the hayloft). -/
structure Plan where
  /-- A verified plan is in force -/
  loaded : Bool := false
  part : PlanPart := {}
  /-- Paddock records by paddock number, 0 to 31 -/
  pads : SMap PadRec := []
  /-- Wake policies by shed index -/
  sheds : SMap ShedPol := []
  esc : EscPlan := {}
  tamper : TamperPlan := {}
  twin : Option TwinPlan := none
  /-- 64 bits. Table 04.7 -/
  serial : Nat := 0
  /-- 48 bytes. Table 05.8 -/
  digest : Bytes := []
deriving DecidableEq, Repr

/-- A partial plan past verification (R92). -/
structure PartialPlan where
  paddock : Nat := 0
  record : PadRec := {}
  sheds : List (Nat × ShedPol) := []
  /-- contained_us of the partial escalation section; none when the section is absent (Table 20.5) -/
  containedUs : Option Nat := none
  serial : Nat := 0
  digest : Bytes := []
  /-- the paddock is removed by the partial plan (Table 04.11) -/
  removes : Bool := false
  /-- the image, kept in the hayloft from the switch (R92) -/
  image : Bytes := []
deriving DecidableEq, Repr

/-- PL_ registers and the plan change in progress (Table 04.16, R91 to R93). -/
structure PlanCtl where
  /-- 64 bits. PL_IMG_ADDR. Reset 0 -/
  imgAddr : Nat := 0
  /-- 24 bits. PL_IMG_LEN. Reset 0 -/
  imgLen : Nat := 0
  /-- PL_STATUS.busy. Reset 0 -/
  busy : Bool := false
  /-- PL_STATUS.phase. Reset 0 -/
  phase : Nat := 0
  /-- PL_STATUS.err. Reset 0 -/
  err : Nat := 0
  /-- PL_STATUS.err_offset. Reset 0 -/
  errOffset : Nat := 0
  /-- The partial plan being swapped in (R92) -/
  swap : Option PartialPlan := none
  /-- APPLY is draining (R91) -/
  applying : Bool := false
  /-- Kinds stored by STORE_IMAGE and not yet preferred (R91) -/
  stored : List Nat := []
deriving DecidableEq, Repr

/-! ## Life cycle and debug (chapter 05) -/

/-- One ledger state slot, Table 05.6; the default is the erased slot, every bit 1. -/
structure LedgerSlot where
  /-- 32 bits. Table 05.6 -/
  seq : Nat := 0xFFFFFFFF
  /-- 32 bits. Table 05.6 -/
  epoch : Nat := 0xFFFFFFFF
  /-- 8 bits. Table 05.6 -/
  state : Nat := 0xFF
  /-- 48 bytes. Table 05.6 -/
  ownerDigest : Bytes := List.replicate 48 0xFF#8
  /-- 48 bytes. Table 05.6 -/
  tokenDigest : Bytes := List.replicate 48 0xFF#8
  /-- 32 bits. Table 05.6 -/
  crc : Nat := 0xFFFFFFFF
  /-- 7 bytes. the reserved bytes 0x09 to 0x0F. Table 05.6 -/
  reserved : Bytes := List.replicate 7 0xFF#8
  /-- 12 bytes. the reserved bytes 0x74 to 0x7F. Table 05.6 -/
  reserved2 : Bytes := List.replicate 12 0xFF#8
  /-- 256 bits. R107 -/
  codeword : Nat := 2 ^ 256 - 1
deriving DecidableEq, Repr

/-- A rollback floor record (R110). -/
structure FloorRec where
  /-- floor of every image kind -/
  floors : SMap Nat := []
  /-- 32 bits -/
  seq : Nat := 0
  /-- 32 bits. CRC-32C -/
  crc : Nat := 0
deriving DecidableEq, Repr

/-- A record of debug counters and the owner debug-key digest (Table 05.5). -/
structure DebugRec where
  /-- 48 bytes. owner debug-key digest -/
  digest : Bytes := []
  /-- sessions opened (log entry 7) -/
  count : Nat := 0
  /-- 32 bits -/
  seq : Nat := 0
  /-- 32 bits. CRC-32C -/
  crc : Nat := 0
deriving DecidableEq, Repr

/-- Life-cycle block (R97 to R112). -/
structure LifeCycle where
  /-- The eight state slots (R106). Reset kept; the first state is slot 0 RAW (DESIGN CHOICE, log 7) -/
  slots : SMap LedgerSlot := []
  /-- Rollback floor records in sectors 8 to 11; none for an erased sector (R106, R110). Erased before the first (DESIGN CHOICE, log 7) -/
  floorRecs : SMap (Option FloorRec) := []
  /-- Debug records in sectors 12 to 15 (R106, R115). Sectors 16 to 31 are never written. Erased before the first (DESIGN CHOICE, log 7) -/
  debugRecs : SMap (Option DebugRec) := []
  /-- The ledger has been decoded since cold reset (Table 04.4 step 4). Reset 0 -/
  decoded : Bool := false
  /-- 3 bits. LC_STATUS.state, decoded at boot step 4. DESIGN CHOICE 0 before (log 7) -/
  state : Nat := 0
  /-- 32 bits. LC_STATUS.owner_epoch. DESIGN CHOICE 0 before (log 7) -/
  epoch : Nat := 0
  /-- 48 bytes. Owner plan key digest of the VALID slot (R100) -/
  ownerDigest : Bytes := []
  /-- 32 bits. Ledger sequence number of the VALID slot (R102) -/
  seq : Nat := 0

  /-- Device root and number programmed (R98). Reset absent (RAW, Table 05.1) -/
  rootPresent : Bool := false
  /-- 256 bits, in OTP (R98) -/
  deviceRoot : Bytes := []
  /-- 64 bits. LC_DEVICE_NUMBER (R98) -/
  deviceNumber : Nat := 0
  /-- LC_STATUS.busy. Reset 0 -/
  busy : Bool := false
  /-- LC_STATUS.reset_required. Reset 0 -/
  resetRequired : Bool := false
  /-- 8 bits. LC_STATUS.err. Reset 0 -/
  err : Nat := 0
  /-- Step of Table 05.4 in progress; 0 none -/
  step : Nat := 0
  /-- The token in progress (R103) -/
  token : Bytes := []
  /-- 64 bits. LC_TOKEN_ADDR. Reset 0 -/
  tokenAddr : Nat := 0
  /-- 16 bits. LC_TOKEN_LEN. Reset 0 -/
  tokenLen : Nat := 0
  /-- Owner raw authorisation or clear token bytes read through LC_TOKEN_ADDR (R324, R439) -/
  identity : Bool := false
deriving DecidableEq, Repr

/-- Debug block (R115, R116, Table 05.12). -/
structure Debug where
  /-- The draw number of DB_CHALLENGE's 256 bits; its value is free (R115; Reset Random) -/
  challengeDraw : Nat := 0
  /-- 2 bits. DB_CTRL.scope. Reset 0 -/
  scope : Nat := 0
  /-- 32 bits, mask of paddocks in PADDOCK scope (Table 05.10) -/
  padMask : Nat := 0
deriving DecidableEq, Repr

/-! ## Energy (chapter 03) -/

/-- One meter sample of the planner (R57, R61, R63). -/
structure EnergySample where
  /-- time base of the sample -/
  at_ : Nat := 0
  /-- energy the whole part drew since the sample before, nJ -/
  nj : Nat := 0
  /-- what EN_PADDOCK_ENERGY_p rose by since the sample before, µJ, by paddock -/
  pads : SMap Nat := []
deriving DecidableEq, Repr

/-- Energy planner and meters (R49 to R74). -/
structure Energy where
  /-- 2 bits each of 24. EN_SHED_STATE (Table 03.5). Reset 0b10 for sheds 18 to 23, else 0 -/
  shed : SMap Nat := [(18, 2), (19, 2), (20, 2), (21, 2), (22, 2), (23, 2)]
  /-- 2 bits each of 14. EN_SHED_STEP (Table 03.6). Reset 0 -/
  step : SMap Nat := []
  /-- 64 bits each of 24. EN_SHED_ENERGY_i (Table 03.7). Reset 0 -/
  meter : SMap Nat := []
  /-- 64 bits each of 32. EN_PADDOCK_ENERGY_p (R59). Reset 0 -/
  padEnergy : SMap Nat := []
  /-- nJ metered on each paddock's cores and not yet a whole µJ of its count (R59). Reset 0 -/
  coreNj : SMap Nat := []
  /-- the samples of the last 10 s, newest first (R61, R63). Reset none -/
  samples : List EnergySample := []
  /-- nJ each shed drew in the last sample (R62). Reset 0 -/
  lastNj : SMap Nat := []
  /-- EN_PADDOCK_ENERGY_p at the last sample (R63). Reset 0 -/
  padSeen : SMap Nat := []
  /-- time base at which each shed entered SLEEPING (R53). Reset 0 -/
  sleepFrom : SMap Nat := []
  /-- 10 bits. EN_CAP.cap_qw (Table 03.8). Reset 340 -/
  capQw : Nat := 340
  /-- 14 bits. EN_CAP.window_ms. Reset 1,000 -/
  windowMs : Nat := 1000
  /-- The last cap set over I3C (R60); none before -/
  i3cCap : Option Nat := none
  /-- Sheds the farrier has a wake request for (R65, R453); requests for work follow from the staged jobs. Reset none -/
  wakes : List Nat := []
  /-- EN_STATUS.cap_binding. Reset 0 -/
  capBinding : Bool := false
  /-- The planner withholds granting wakes (R62 action 1) -/
  withholdWakes : Bool := false
  /-- 32 bits, mask of paddocks whose new dispatches are withheld (R62 action 3) -/
  withholdPads : Nat := 0
  /-- 12 bits. EN_HOLDUP.raw_code. Reset 0 -/
  rawCode : Nat := 0
  /-- The last eight corrected conversions, newest first (R68) -/
  convs : List Nat := []
  /-- 16 bits, two's complement. EN_HOLDUP.offset. Reset 0 -/
  offset : Int := 0
  /-- 16 bits. EN_HOLDUP.gain. Reset 0x8000 -/
  gain : Nat := 0x8000
  /-- EN_STATUS.cal_valid. Reset 0 -/
  calValid : Bool := false
  /-- µF × 10^4 (R70). c_meas stored in the hayloft (R70); none stored at reset -/
  cmeas : Option Nat := none
  /-- µF. holdup_cap_uf of the plan under which c_meas was measured (R70). Reset 0 -/
  cmeasCap : Nat := 0
  /-- nJ. the sum of all meters when the flush began (R70). Reset 0 -/
  flushNj : Nat := 0
  /-- codes. the least of the last eight conversions when the flush began (R70). Reset 0 -/
  flushConv : Nat := 0
  /-- 16 bits. EN_FLUSH_COST.rec_nj. Reset 0 -/
  recNj : Nat := 0
  /-- 32 bits. EN_FLUSH_COST.fixed_uj. Reset 0 -/
  fixedUj : Nat := 0
  /-- EN_STATUS.reserve_low. Reset 1 -/
  reserveLow : Bool := true
  /-- EN_STATUS.flush_active. Reset 0 -/
  flushActive : Bool := false
  /-- FK_OVERTEMP holds every stall shed at step 3 (Table 20.3) -/
  overtemp : Bool := false
deriving DecidableEq, Repr

/-! ## Host interface (chapter 06) -/

/-- A write or message the part issues to the host, in order of issue (R125, R131, R144, R153). -/
inductive Emission where
  /-- memory write of bytes by a function -/
  | memWrite (fn addr : Nat) (data : Bytes)
  /-- the zero-length or 4-byte confirming read of R14 and R125 -/
  | confirmRead (fn addr : Nat) (len : Nat)
  /-- the first read of a host buffer or slot, and the retry of R138 -/
  | readRequest (fn addr len : Nat)
  /-- MSI-X message (R131) -/
  | msix (fn vector : Nat)
  /-- PM_PME with PME_Status set (R135) -/
  | pme (fn : Nat)
  /-- LTR message, µs (R134) -/
  | ltr (us : Nat)
  /-- AER report (R138) -/
  | aer (fn : Nat) (code : Nat)
  /-- configuration completion: 0 Successful 1 CRS 2 Unsupported Request, with data (R82, R138) -/
  | cfgReply (fn : Nat) (status : Nat) (data : Nat)
  /-- completion of a BAR read with its bytes -/
  | barReply (fn : Nat) (data : Bytes)
  /-- I3C read data -/
  | i3cReply (data : Bytes)
  /-- tether frame: type, sequence number, payload words -/
  | tether (kind seq : Nat) (payload : List Nat)
  /-- value shifted out of TDO -/
  | tdo (value : Nat)
deriving DecidableEq, Repr

/-- One MSI-X vector with its moderation (Tables 06.9, R131, R132, R136). -/
structure Vec where
  /-- 11 bits. HI_VEC_MOD.cnt_max. Reset 1 -/
  cntMax : Nat := 1
  /-- 10 bits. HI_VEC_MOD.time_us. Reset 8 -/
  timeUs : Nat := 8
  /-- 11 bits. HI_VEC_MOD.pending. Reset 0 -/
  pending : Nat := 0
  /-- HI_VEC_MOD.timer_run. Reset 0 -/
  timerRun : Bool := false
  /-- time base at which the running timer started (R131) -/
  timerFrom : Nat := 0
  /-- MSI-X table mask bit. PRESUMED 1 (PCI: log 8) -/
  mask : Bool := true
  /-- PBA bit (R132). Reset 0 -/
  pba : Bool := false
  /-- wake count of R136. Reset 0 -/
  wakeCount : Nat := 0
  /-- the wake timer of R136 runs -/
  wakeTimer : Bool := false
  /-- a message fell due while the function could issue no request (R126, R135). Reset 0 -/
  due : Bool := false
  /-- an event with HI_EV_MAP wake 1 has counted towards the wake count (R136). Reset 0 -/
  wakeEvent : Bool := false
  /-- 64 bits. MSI-X table message address and 32 bits data, written through the table of R123 -/
  msgAddr : Nat := 0
  /-- 32 bits. MSI-X table message data (R123). PRESUMED 0 (log 8) -/
  msgData : Nat := 0
deriving DecidableEq, Repr

/-- HI_EV_MAP_e, Table 06.10. -/
structure EvMap where
  /-- 11 bits. Reset 0 -/
  vector : Nat := 0
  /-- Reset 0 -/
  en : Bool := false
  /-- Reset 0 -/
  wake : Bool := false
deriving DecidableEq, Repr

/-- Configuration-space fields of a function that only a configuration request reads and writes (Tables 06.1 to 06.3, R138). Where they stand
and what they reset to is PRESUMED (PCI: log 8). -/
structure Cfg where
  /-- Memory Space Enable. 0 -/
  mse : Bool := false
  /-- base addresses of BAR0, BAR2 and BAR4, by BAR number (R123). 0 -/
  bars : SMap Nat := []
  /-- 4 bits. Device Control: error reporting enables. 0 -/
  errEn : Nat := 0
  /-- 4 bits. Device Status: errors detected. 0 -/
  devSta : Nat := 0
  /-- 3 bits. Max Payload Size: 0 for 128 bytes. 0 -/
  mps : Nat := 0
  /-- 3 bits. Max Read Request Size: 2 for 512 bytes. 2 -/
  mrrs : Nat := 2
  /-- Extended Tag Field Enable. 1 -/
  extTag : Bool := true
  /-- 10-Bit Tag Requester Enable. 0 -/
  tag10 : Bool := false
  /-- LTR Mechanism Enable. 0 -/
  ltrEn : Bool := false
  /-- 32 bits. the latencies of the LTR capability. 0 -/
  ltrMax : Nat := 0
  /-- 32 bits each. AER uncorrectable status, mask and severity, correctable status and mask. Severity 0x0046_2030, the others 0 -/
  uncSta : Nat := 0
  uncMask : Nat := 0
  uncSev : Nat := 0x462030
  corSta : Nat := 0
  corMask : Nat := 0
  /-- 5 bits. AER first error pointer. 0 -/
  firstErr : Nat := 0
  /-- ECRC generation and check enabled. 0 (Table 06.1) -/
  ecrcGen : Bool := false
  ecrcChk : Bool := false
deriving DecidableEq, Repr

/-- One PCIe function: configuration state, HI_, QM_ staging, compare unit and selectors (R119 to R138, R299). -/
structure Fn where
  /-- configuration space beyond what follows (Table 06.1) -/
  cfg : Cfg := {}
  /-- VF present by VF Enable and NumVFs (R119); the PF is always present -/
  present : Bool := false
  /-- Bus Master Enable. Reset 0 (Table 06.7) -/
  bme : Bool := false
  /-- 2 bits. 0 D0, 3 D3hot. Reset 0 -/
  dState : Nat := 0
  /-- MSI-X Enable. Reset 0 -/
  msixEn : Bool := false
  /-- MSI-X function mask. PRESUMED 0 (PCI: log 8) -/
  fnMask : Bool := false
  /-- PME_En. PRESUMED 0 (PCI: log 8) -/
  pmeEn : Bool := false
  /-- PME_Status. PRESUMED 0 (log 8) -/
  pmeStatus : Bool := false
  /-- PME_En stood at 1 on entry to D3cold (Table 06.4) -/
  pmeAtCold : Bool := false
  /-- Enable Relaxed Ordering. PRESUMED 1 (PCI: log 8) -/
  relaxed : Bool := true
  /-- ID-Based Ordering. PRESUMED 0 (log 8) -/
  idOrder : Bool := false
  /-- MSI-X table size fixed at VF Enable (R129) -/
  vecSize : Nat := 1
  /-- 16 bits. HI_FN_STATUS.denied_cnt. Reset 0 -/
  denied : Nat := 0
  /-- HI_FN_ERR.cpl_timeout. Reset 0 -/
  errTimeout : Bool := false
  /-- HI_FN_ERR.ur_ca. Reset 0 -/
  errUrCa : Bool := false
  /-- HI_FN_ERR.poisoned. Reset 0 -/
  errPoisoned : Bool := false
  /-- 16 bits. HI_FN_ERR.queue. Reset 0 -/
  errQueue : Nat := 0
  /-- HI_FN_ERR.job. Reset 0 -/
  errJob : Bool := false
  /-- Vectors by number -/
  vecs : SMap Vec := []
  /-- HI_EV_MAP_e by event -/
  evMap : SMap EvMap := []
  /-- 64 bits. QM_QC_RING.base. Reset 0 -/
  qcRing : Nat := 0
  /-- 5 bits. QM_QC_CFG.log2_size. Reset 4 -/
  qcLog2 : Nat := 4
  /-- 11 bits. QM_QC_CFG.vector. Reset 0 -/
  qcVector : Nat := 0
  /-- QM_QC_CFG.wake. Reset 0 -/
  qcWake : Bool := false
  /-- QM_QC_CFG.crc_req. Reset 0 -/
  qcCrcReq : Bool := false
  /-- QM_QC_CFG.irq_en. Reset 1 -/
  qcIrqEn : Bool := true
  /-- QM_QC_SHADOW.en. Reset 0 -/
  qcShadowEn : Bool := false
  /-- QM_QC_SHADOW.addr, 64 bits with bits 3..0 zero. Reset 0 -/
  qcShadowAddr : Nat := 0
  /-- 16 bits. QM_CMD_RESULT.queue. Reset 0 -/
  cmdQueue : Nat := 0
  /-- 4 bits. QM_CMD_RESULT.cmd. Reset 0 -/
  cmdCmd : Nat := 0
  /-- QM_CMD_RESULT.busy. Reset 0 -/
  cmdBusy : Bool := false
  /-- QM_CMD_RESULT.lost. Reset 0 -/
  cmdLost : Bool := false
  /-- 8 bits. QM_CMD_RESULT.result. Reset 0 -/
  cmdResult : Nat := 0
  /-- 16 bits. QM_Q_STAT_SEL. Reset 0 -/
  statSel : Nat := 0
  /-- 64 bytes. DG_CMP_EXPECT. Reset 0 -/
  cmpExpect : Bytes := List.replicate 64 0#8
  /-- 3 bits. DG_CMP_CTRL.slot. Reset 0 -/
  cmpSlot : Nat := 0
  /-- 7 bits. DG_CMP_CTRL.length. Reset 0 -/
  cmpLen : Nat := 0
  /-- DG_CMP_CTRL.go. Reset 0 -/
  cmpGo : Bool := false
  /-- a clear of R301 arrived in the cycle of the go or during the compare (R302) -/
  cmpSpoiled : Bool := false
  /-- 32 bits. DG_CMP_EQ. Reset 0 -/
  cmpEq : BitVec 32 := 0#32
  /-- 32 bits. DG_CMP_NE. Reset 0xFFFF_FFFF -/
  cmpNe : BitVec 32 := 0xFFFFFFFF#32
  /-- 16 bits. TK_SLOT_SEL.index. Reset 0 -/
  tkSel : Nat := 0
  /-- TK_SLOT_SEL.blob. Reset 0 -/
  tkSelBlob : Bool := false
  /-- 64 bits. BX_IMG_ADDR. Reset 0 -/
  bxImgAddr : Nat := 0
  /-- 8 bits. FC_CMD_RESULT. Reset 0 -/
  fcResult : Nat := 0
  /-- 2 bits. HL_LOG_SEL.log. Reset 0 -/
  hlLog : Nat := 0
  /-- 32 bits. HL_LOG_SEL.entry. Reset 0 -/
  hlEntry : Nat := 0
  /-- reads taken of the current log entry, 0 to 3 (Table 21.7) -/
  hlWord : Nat := 0
  /-- 3 bits. LC_CERT_SEL.index. Reset 0 -/
  certSel : Nat := 0
  /-- read offset of LC_CERT_DATA (R112). Reset 0 -/
  certOff : Nat := 0
  /-- latched words of multi-word registers by register offset (R493) -/
  latch : SMap (List W64) := []
deriving DecidableEq, Repr

/-- The PCIe port as a whole (R117, R134, R137). -/
structure Port where
  /-- link up. Reset down -/
  linkUp : Bool := false
  /-- 0 L0, 1 L1, 2 L1.1, 3 L1.2 (R134). Reset 0 -/
  linkState : Nat := 0
  /-- ASPM L1, L1.1, L1.2 enabled by host software. PRESUMED 0 (PCI: log 8) -/
  aspmL1 : Bool := false
  aspmL11 : Bool := false
  aspmL12 : Bool := false
  /-- VF Enable of SR-IOV. PRESUMED 0 (PCI: log 8) -/
  vfEnable : Bool := false
  /-- NumVFs. PRESUMED 0 (PCI: log 8) -/
  numVfs : Nat := 0
  /-- PCI-PM L1.1, L1.2 enabled. PRESUMED 0 (PCI: log 8) -/
  pmL11 : Bool := false
  pmL12 : Bool := false
  /-- SR-IOV: VF Memory Space Enable, ARI Capable Hierarchy, System Page Size, VF BARs by number. PRESUMED 0, 0, 1, 0 (PCI: log 8) -/
  vfMse : Bool := false
  ari : Bool := false
  sysPage : Nat := 1
  vfBars : SMap Nat := []
  /-- the last LTR value sent, µs; 0 none (R134) -/
  ltrUs : Nat := 0
  /-- the two conditions as that message took them: a record live, a queue enabled and not HELD (R134). Reset 0 -/
  ltrLive : Bool := false
  ltrQueue : Bool := false
  /-- doorbells recorded while they cannot be acted on (R55, R78), in arrival order: fn, offset, size, value -/
  doorbells : List (Nat × Nat × Nat × Nat) := []
deriving DecidableEq, Repr

/-! ## Queues, descriptors and records (chapters 07, 08) -/

/-- A pending ENABLE of a DRAINING queue (R159, R161). -/
structure PendEnable where
  base : Nat := 0
  k : Nat := 4
  vector : Nat := 0
  wake : Bool := false
  crcReq : Bool := false
  irqEn : Bool := true
  shadowEn : Bool := false
  shadowAddr : Nat := 0
  index : Nat := 0
  fn : Nat := 0
  doorbell : Option Nat := none
deriving DecidableEq, Repr

/-- A hardware queue (R139 to R163). The default is a DISABLED queue. -/
structure Queue where
  /-- 3 bits. Table 07.11: 0 DISABLED 1 RUNNING 2 HALTED 3 DRAINING 4 PENDING_ENABLE 5 HELD. Reset 0 -/
  state : Nat := 0
  /-- 3 bits. State remembered in HELD. Reset 0 -/
  remembered : Nat := 0
  /-- ring base address, 64 bits (R139) -/
  base : Nat := 0
  /-- log2 of the ring size, 4 to 16 (R139). Reset 4 (Table 07.13) -/
  k : Nat := 4
  vector : Nat := 0
  wake : Bool := false
  crcReq : Bool := false
  irqEn : Bool := true
  shadowEn : Bool := false
  shadowAddr : Nat := 0
  /-- the queue function (R121) -/
  fn : Nat := 0
  /-- a queue of paddock code (R414) -/
  bx : Bool := false
  /-- k+1 bits. Producer index (R140). Reset 0 -/
  p : Nat := 0
  /-- k+1 bits. Accept index (R140). Reset 0 -/
  a : Nat := 0
  /-- k+1 bits. Retire index (R140). Reset 0 -/
  t : Nat := 0
  /-- 16 bits. Generation. Reset 0 -/
  gen : Nat := 0
  /-- 8 bits. QM_Q_ERR.reason. Reset 0 -/
  errReason : Nat := 0
  /-- 8 bits. QM_Q_ERR.detail. Reset 0 -/
  errDetail : Nat := 0
  /-- 17 bits. QM_Q_ERR.index. Reset 0 -/
  errIndex : Nat := 0
  /-- 32 bits. QM_Q_FORGOTTEN. Reset 0 -/
  forgotten : Nat := 0
  /-- 2 bits. QM_Q_STATUS.defer. Reset 0 -/
  defer : Nat := 0
  /-- order of the head's first deferral (R170) -/
  deferOrder : Nat := 0
  /-- the head entry has been deferred at least once (Table 07.8) -/
  headDeferred : Bool := false
  /-- an event that can change the outcome of the deferred head has come (R170). Reset 0 -/
  recheck : Bool := false
  /-- held copies read beyond A, by ring index (R143) -/
  copies : List (Nat × Bytes) := []
  /-- doorbell recorded in HELD (Table 07.3) -/
  heldBell : Option Nat := none
  /-- the cursor shadow is owed a write once the queue function may issue requests (R144). Reset 0 -/
  shadowOwed : Bool := false
  /-- pending ENABLE -/
  pend : Option PendEnable := none
  /-- ring index of the entry whose read failed twice: the queue halts when it comes to be its head (R138, R151). Reset none -/
  fetchFailed : Option Nat := none
  /-- ring index of the entry whose read has failed once and is being retried (R138). Reset none -/
  fetchTried : Option Nat := none
  /-- JN_TWIN_Q.standby. Reset 0 -/
  standby : Bool := false
  /-- JN_TWIN_Q.taken_over. Reset 0 -/
  takenOver : Bool := false
  /-- 17 bits. the last doorbell value recorded in standby, JN_TWIN_Q.recorded_p; none recorded reads 0. Reset none -/
  recordedP : Option Nat := none
  /-- a FORGET has retired its records, and the queue becomes DISABLED when T equals A (R80, R196). Reset 0 -/
  forgetting : Bool := false
  /-- ring entries of a queue of paddock code, by slot (R414): 128 bytes each -/
  ring : SMap Bytes := []
  /-- yard cells of the ring of a queue of paddock code (R414). Reset 0 -/
  ringCells : Nat := 0
  /-- ring slots whose completion's verdict carries SECRET (R386). Reset none -/
  ringSecret : List Nat := []
deriving DecidableEq, Repr

/-- The descriptor fields a record keeps (Tables 07.4, 08.3, R178). -/
structure Desc where
  opcode : Nat := 0
  flags : Nat := 0
  version : Nat := 0
  tag : Nat := 0
  keyRef : Nat := 0
  in0Addr : Nat := 0
  in0Len : Nat := 0
  in1Len : Nat := 0
  in1Addr : Nat := 0
  out0Addr : Nat := 0
  out0Cap : Nat := 0
  out1Cap : Nat := 0
  out1Addr : Nat := 0
  /-- bytes 0x40 to 0x5F -/
  inline : Bytes := List.replicate 32 0#8
  extAddr : Nat := 0
  extLen : Nat := 0
  paramSet : Nat := 0
  crc : Nat := 0
deriving DecidableEq, Repr

/-- Where an accepted job stands (R14, R160, R353, R363). -/
inductive Phase where
  /-- passed the checks, its record being written: counted in n_writing (R73) -/
  | writing
  /-- accepted and staged in the yard -/
  | staged
  /-- running on a stall or engine -/
  | running
  /-- finished; its result waits in the reorder list (R363) -/
  | finished
  /-- its completion word has been issued in this execution; the confirming read is out (R14) -/
  | issued
deriving DecidableEq, Repr

/-- List kinds of the link words of the yard other than free; a ring's cells, for which R361 names no kind, are the model's own (log 115). -/
inductive YardKind where
  | staged
  | context
  | result
  | reorder
  | copy
  | ring
deriving DecidableEq, Repr

/-- A list of the yard: its kind, its owner, the record or queue whose it is, and its cells in order of their links (R361). -/
structure YardList where
  kind : YardKind := .staged
  /-- 6 bits: the paddock -/
  owner : Nat := 0
  /-- accept_seq of the job, or number of the queue -/
  key : Nat := 0
  /-- 17 bits each -/
  cells : List Nat := []
deriving DecidableEq, Repr

/-- What a move saves of a routine in its job's cells (R356, Table 16.4). -/
structure Context where
  /-- 14 bits: the resume address -/
  resumeAt : Nat := 0
  /-- where the safe point lies: segments absorbed, attempts made, rows, windows or leaves done -/
  position : Nat := 0
  /-- draw number of the fresh masks it is saved under (R356); their value is free -/
  maskDraw : Nat := 0
deriving DecidableEq, Repr

/-- An acceptance record (Table 08.3) and the job's yard state. -/
structure Job where
  /-- 64 bits. Table 08.3 -/
  seq : Nat := 0
  /-- 64 bits. Table 08.3 -/
  tAccept : Nat := 0
  /-- 16 bits. Table 08.3 -/
  queue : Nat := 0
  /-- 17 bits. Ring index. Table 08.3 -/
  index : Nat := 0
  /-- queue generation the record belongs to (R161) -/
  gen : Nat := 0
  /-- 8 bits. Table 08.3 -/
  paddock : Nat := 0
  /-- submitted by paddock code (R331) -/
  bx : Bool := false
  /-- opcode, param_set, tag and the residue fields (R178) -/
  desc : Desc := {}
  /-- 8 bits. Capture slot, none for 0xFF. Table 08.3 -/
  capGen : Option Nat := none
  /-- 16 bits. fixed_status. Table 08.3 -/
  fixed : Nat := 0
  /-- rflags deferred. Table 08.3 -/
  deferred : Bool := false
  /-- rflags issued (R179). Table 08.3 -/
  issued : Bool := false
  /-- u64 after the residue fields: leaf index, handle, or index of R248 (R178) -/
  extra : Option Nat := none
  /-- 16 bits. Replay count (R193) -/
  replay : Nat := 0
  phase : Phase := .staged
  /-- the stall running it, in stall_map order -/
  stall : Option Nat := none
  /-- it has been dispatched, or run without a stall, since acceptance (R182). Reset 0 -/
  dispatched : Bool := false
  /-- the routine is past its first commit point (R353) -/
  committed : Bool := false
  /-- the output write has begun (R512) -/
  inOutput : Bool := false
  /-- position of the last checkpoint in the yard (Table 04.2) -/
  checkpoint : Option Nat := none
  /-- the saved context of a move waits in the yard (R356) -/
  context : Option Context := none
  /-- this execution continued from a checkpoint -/
  resumed : Bool := false
  /-- attribute word of the key in key_ref as acceptance read it (R219, R333) -/
  keyWord : Nat := 0
  /-- drain stop requested while running (R160) -/
  stopReq : Bool := false
  /-- the low-prio job has waited 2 ms (R358) -/
  promoted : Bool := false
  /-- cells reserved at dispatch (R360) -/
  cells : Nat := 0
  /-- those of them drawn onto the job's lists (R360) -/
  drawn : Nat := 0
  /-- the status its issued completion carries (R156, R179). Reset none -/
  issuedStatus : Option Nat := none
  /-- result: status word -/
  status : Nat := 0
  out0 : Option Bytes := none
  out1 : Option Bytes := none
  out0Len : Nat := 0
  out1Len : Nat := 0
  /-- 32 bits. Table 07.7 -/
  verdict : Nat := 0
  /-- 16 bits. Table 07.7; 0xFFFF until a stall ran it -/
  stallId : Nat := 0xFFFF
  /-- 32 bits. R58 -/
  energyUj : Nat := 0
  /-- nJ metered so far for the execution in progress (R58) -/
  energyNj : Nat := 0
  /-- times the execution has been given a stall (R58) -/
  legs : Nat := 0
  /-- signing attempts the execution took (R219, R222). Reset 0 -/
  attempts : Nat := 0
  /-- 64 bits. Table 07.7 -/
  tDone : Nat := 0
  /-- digest of a dest 1 or 2 job, taking effect when the completion word is issued (R297) -/
  digest : Bytes := []
  /-- reads of an input tried and failed once (R138) -/
  readFailed : Bool := false
  /-- the execution waits to retry an unreadable input of an issued record (R191) -/
  retrying : Bool := false
  /-- an input word of local memory was SECRET (R386) -/
  secretIn : Bool := false
  /-- bytes copied from a feed FIFO into feed-copy cells (R370) -/
  feedCopy : Option Bytes := none
  /-- detail of the packet-end mismatch found in what was copied, 0 for none (R368, R370). Reset 0 -/
  feedBad : Nat := 0
  /-- a replay of it has not yet finished (Table 08.8) -/
  replaying : Bool := false
  /-- its completion is ready and held: the queue function may not issue requests (R126, R133). Reset 0 -/
  heldCpl : Bool := false
  /-- its acceptance, or its retirement, is with the partner and not yet acknowledged (R29, R196). Reset 0 -/
  sent : Bool := false
  /-- the record retires without a write (R191, R192) -/
  silent : Bool := false
  /-- the job waits for a hayloft write before its completion (R258, R334) -/
  waitHayloft : Bool := false
  /-- a blob key or slot named by it must be loaded first (R341, R342) -/
  waitKey : Bool := false
  /-- EdDSA absorption phase on a hash stall is done (R286) -/
  absorbed : Bool := false
  /-- reason code and index of a refused input, for the diagnostic log (R470). Reset 0 -/
  reason : Nat := 0
  reasonIndex : Nat := 0
deriving DecidableEq, Repr

/-- One capture slot of a paddock (R173, R175). -/
structure CapSlot where
  /-- a generation stands in the slot -/
  drawn : Bool := false
  /-- 256 bits. Capture key -/
  key : Bytes := []
  /-- acceptances served (R175) -/
  served : Nat := 0
  /-- time base when drawn (R175) -/
  drawnAt : Nat := 0
deriving DecidableEq, Repr

/-- DG_RESULT_s and DG_RESULT_INFO_s (Table 13.8). -/
structure ResSlot where
  /-- up to 64 bytes. Reset 0 -/
  data : Bytes := []
  /-- 7 bits. Reset 0 -/
  len : Nat := 0
  /-- Reset 0 -/
  valid : Bool := false
  /-- 8 bits. Reset 0 -/
  paramSet : Nat := 0
  /-- 48 bits. Reset 0 -/
  seqLo : Nat := 0
deriving DecidableEq, Repr

/-- A quote snapshot, 1,600 bytes (R114). -/
structure Snapshot where
  /-- held by the record with this accept_seq -/
  owner : Option Nat := none
  mrs : SMap Bytes := []
  ymrs : SMap Bytes := []
  serial : Nat := 0
  fwBuild : Nat := 0
  planDigest : Bytes := []
deriving DecidableEq, Repr

/-- A diagnostic-log entry (R470). -/
structure Diag where
  time : Nat := 0
  seq : Nat := 0
  queue : Nat := 0
  opcode : Nat := 0
  reason : Nat := 0
  index : Nat := 0
  /-- written to the hayloft (R470) -/
  flushed : Bool := false
deriving DecidableEq, Repr

/-- A CTR_DRBG instance (R321). Its working state is not held as data: each output is a free value. -/
structure Drbg where
  /-- instantiated and serving -/
  live : Bool := false
  /-- generate requests since the last reseed (R321). Reset 0 -/
  requests : Nat := 0
  /-- time base at the last reseed (R321) -/
  seededAt : Nat := 0
  /-- a reseed that fell due has failed (R321) -/
  failed : Bool := false
  /-- the working state Key and V of CTR_DRBG, 32 and 16 bytes; none while not instantiated (R321, R322) -/
  key : Bytes := []
  v : Bytes := []
deriving DecidableEq, Repr

/-- Per-paddock run-time state. -/
structure Pad where
  /-- 16 capture slots (R173) -/
  caps : SMap CapSlot := []
  /-- current capture generation, none for 0xF (Table 08.9). Reset 0xF -/
  curGen : Option Nat := none
  /-- a new generation is due (R175) -/
  genDue : Bool := false
  drbg : Drbg := {}
  /-- 8 result slots (R295) -/
  results : SMap ResSlot := []
  /-- 16 measurement registers, 48 bytes each (R298). Reset 0 -/
  mrs : SMap Bytes := []
  /-- QM_HALT_LOG entries, oldest first, at most 64: queue, reason (R163) -/
  haltLog : List (Nat × Nat) := []
  /-- QM_HALT_LOG.overflow. Reset 0 -/
  haltOverflow : Bool := false
  /-- paused by a partial plan (R92) -/
  paused : Bool := false
  /-- inc_p, the paddock's incarnation (R328). DESIGN CHOICE 0 (log 9) -/
  inc : Nat := 0
  /-- four quote snapshots (R114) -/
  snaps : SMap Snapshot := []
  /-- the diagnostic log, oldest first (R470) -/
  diags : List Diag := []
  /-- a LOAD has ended the extend rights until every core is STOPPED together (R408) -/
  extendLost : Bool := false
  /-- EV_REPLAY_DONE is owed when no record of the paddock is left replaying (R498) -/
  replayOwed : Bool := false
  /-- accept_seq of the job that waits for yard cells (R360): QM_YARD_p.waiting. Reset none -/
  waitFor : Option Nat := none
  /-- contained_us set by a partial plan (Table 20.5) -/
  containedUs : Option Nat := none
  /-- stalls whose muck-out a paddock reset waits for before its replays begin (R79). Reset none -/
  resetStalls : List Nat := []
  /-- a paddock reset waits for the reseed of the paddock's instance before its replays begin (R79). Reset 0 -/
  resetSeed : Bool := false
  /-- bytes of the cache partition that retired rows without a spare have taken from it (R458). Reset 0: kept across resets -/
  cacheLost : Nat := 0
deriving DecidableEq, Repr

end Sys2Proof.Machine
end

