-- ==== Sys2Proof/Machine/Types2.lean ====
section
/-! DEFINITION. Types2.lean: the structures of State for stalls, caches, keys, random source, Benxis cores, faults, tamper,
hayloft, tether and link tests. Each field's line gives width, rule and reset value as in Types1.lean. -/

namespace Sys2Proof.Machine

/-! ## Stalls (chapters 01, 16) -/

/-- The microcode sequencer of a stall (R348 to R350). -/
structure Sequencer where
  /-- 14 bits. Address of the control-store word it issues next -/
  upc : Nat := 0
  /-- return addresses of the calls in progress -/
  stack : List Nat := []
  /-- 7 bits. Loop counter -/
  loop : Nat := 0
  /-- length counter: 64-byte units of in0 that the routine has still to take (log 116) -/
  len : Nat := 0
  /-- outcome flags: rejection-sampler acceptance, ML-DSA attempt, McEliece attempt, RSA candidate (R350) -/
  flags : List Bool := []
  /-- a routine runs -/
  running : Bool := false
deriving DecidableEq, Repr

/-- A stall (Table 16.5, R348 to R373). Stalls are numbered in stall_map order (Table 04.9). -/
structure Stall where
  /-- 3 bits. Table 16.5: 0 OFF 1 IDLE 2 RUNNING 3 MUCKING 4 CLAIMED 5 RETIRED. Reset 0 -/
  state : Nat := 0
  /-- 5 bits. last_paddock. Reset 0 -/
  lastPaddock : Nat := 0
  /-- 1 bit. in_pool. Reset Plan -/
  inPool : Bool := false
  /-- 5 bits. dedicated; none when dedicated to no paddock. Reset Plan -/
  dedicated : Option Nat := none
  /-- 16 bits. muckouts. Reset 0 -/
  muckouts : Nat := 0
  /-- 32 bits. runs. Reset 0 -/
  runs : Nat := 0
  /-- accept_seq of the jobs it runs: one, or up to eight digest and MAC jobs of one paddock (R303) -/
  jobs : List Nat := []
  /-- the stall is unsound (R355) -/
  unsound : Bool := false
  /-- pending requests, sampled at a safe point in this order (R354) -/
  reqFault : Bool := false
  reqStop : Bool := false
  reqClaim : Bool := false
  reqYield : Bool := false
  /-- a job has run on it since its last muck-out (R16, R372). Reset 0 -/
  dirty : Bool := false
  /-- a first muck-out read-back has failed (R373) -/
  muckFailed : Bool := false
  /-- after the muck-out the stall goes to: 0 IDLE, 1 the farrier's self-test, 2 the farrier's pass, 3 SLEEPING shed -/
  muckThen : Nat := 0
  /-- the pool preference for last_paddock has ended (R359) -/
  prefEnded : Bool := false
  /-- a PKE stall owes the 0.6 µs scrub of R288 before its next job -/
  scrubDue : Bool := false
  /-- the local masking source ratchets (R424) -/
  ratchet : Bool := false
  /-- 64 bits. ratchet count (R424) -/
  ratchetCount : Nat := 0
  /-- 32 bytes: the SHAKE128 state of the local source (R424). Reset zero until it is seeded (DESIGN CHOICE, log 10) -/
  source : Bytes := List.replicate 32 0
  /-- control store and dispatch table hold a verified image (R348, R352) -/
  ucodeOk : Bool := false
  /-- 5 bits each. Command FIFO pointers (R365). Reset 0 (DESIGN CHOICE, log 10) -/
  cmdRd : Nat := 0
  cmdWr : Nat := 0
  /-- 5 bits each. Completion FIFO pointers (R365). Reset 0 (DESIGN CHOICE, log 10) -/
  cplRd : Nat := 0
  cplWr : Nat := 0
  /-- mapped in as a spare for its dedicated paddock (R457) -/
  spare : Bool := false
  /-- the staged job a yield has reserved the stall for (R358) -/
  reservedFor : Option Nat := none
  /-- the shed was SLEEPING or OFF and the stall must be mucked out at the first wake (Table 20.9) -/
  muckAtWake : Bool := false
  /-- what its operand memory holds of the keys of the jobs it ran: expanded private keys, until a muck-out (R205, R371). Reset none (DESIGN CHOICE, log 10) -/
  operand : List Bytes := []
  /-- the microcode sequencer (R348, R350) -/
  sequ : Sequencer := {}
  /-- the slot whose next tree it computes as background work (R240) -/
  tree : Option Nat := none
deriving DecidableEq, Repr

/-! ## Public-key cache (chapter 11) -/

/-- One public-key cache entry (R255 to R260), by paddock × 2^32 + index. -/
structure CacheEntry where
  /-- the entry holds space -/
  present : Bool := false
  /-- 23 bits. generation of the index (R256) -/
  gen : Nat := 0
  alg : Nat := 0
  paramSet : Nat := 0
  /-- occupancy in bytes -/
  size : Nat := 0
  sticky : Bool := false
  /-- the key is in place -/
  complete : Bool := false
  /-- accept_seq that last named it (R257) -/
  lastUse : Nat := 0
  /-- an accepted OP_PKC_EVICT names it: the handle no longer resolves (R259) -/
  evicted : Bool := false
  /-- the key bytes -/
  key : Bytes := []
  /-- 64 bytes. tr of an ML-DSA key, in the entry's header (R204, R208) -/
  tr : Bytes := []
  /-- a stateful tree cache of the slot given (R240) -/
  tree : Option Nat := none
  /-- awaiting the background restore (R260) -/
  restoring : Bool := false
  /-- a copy stands in the hayloft (R258) -/
  stored : Bool := false
deriving DecidableEq, Repr

/-! ## Tack room (chapter 15) -/

/-- A tack-room slot (Table 15.14). -/
structure Slot where
  /-- 3 bits. 0 EMPTY 1 PENDING 2 OCCUPIED 3 REVOKED 4 BLOB_LOADED 5 RESTORING 6 LOST. Reset 0 -/
  state : Nat := 0
  /-- 4 bits. Reset 0 -/
  cls : Nat := 0
  /-- 7 bits. Reset 0 -/
  alg : Nat := 0
  /-- 16 bits -/
  paramSet : Nat := 0
  keyLen : Nat := 0
  /-- 23 bits. Reset 0 -/
  gen : Nat := 0
  /-- 64 bits. Reset 0 -/
  attrs : Nat := 0
  /-- 16 bits: parent slot, 0xFFFE the paddock root, 0xFFFF none. Reset 0xFFFF -/
  parent : Nat := 0xFFFF
  /-- depth below the paddock root (R329) -/
  depth : Nat := 0
  /-- generation of the parent slot when the key was made (R345) -/
  parentGen : Nat := 0
  /-- a revocation mark stands (R345) -/
  revoked : Bool := false
  /-- held form of the key -/
  material : Bytes := []
  /-- the blob loaded here (R341) -/
  blob : Option Nat := none
  /-- sealed hayloft copies of channel 0 and 1 readable (R342) -/
  copy0 : Bool := false
  copy1 : Bool := false
  /-- life-cycle state and epoch the copies are sealed under (R342) -/
  sealState : Nat := 0
  sealEpoch : Nat := 0
  /-- restrictions and use: accept_seq that last used a loaded blob key (R341) -/
  lastUse : Nat := 0
deriving DecidableEq, Repr

/-- A registered blob entry (R340). -/
structure BlobEntry where
  present : Bool := false
  paddock : Nat := 0
  /-- 23 bits -/
  gen : Nat := 0
  cls : Nat := 0
  alg : Nat := 0
  paramSet : Nat := 0
  keyLen : Nat := 0
  attrs : Nat := 0
  /-- parent slot: the wrapping key -/
  parent : Nat := 0xFFFF
  /-- generation of the wrapping key's slot at registration (R345) -/
  parentGen : Nat := 0
  /-- depth below the paddock root (R329) -/
  depth : Nat := 0
  /-- the loaded key has been opened (R341) -/
  loaded : Bool := false
  /-- accept_seq that last named it (R341) -/
  lastUse : Nat := 0
  revoked : Bool := false
  /-- registration has completed -/
  ready : Bool := false
  /-- first slot of the loaded key -/
  loadedAt : Option Nat := none
  /-- hayloft copies readable (R341) -/
  copy0 : Bool := false
  copy1 : Bool := false
  bytes : Bytes := []
deriving DecidableEq, Repr

/-- Leaf state of a stateful key, by slot (R236 to R249). -/
structure HbsKey where
  present : Bool := false
  paramSet : Nat := 0
  /-- level codes from the top, inline 0x40 to 0x47 (Table 10.7) -/
  levels : Bytes := []
  batchLog2 : Nat := 0
  lowMark : Nat := 0
  /-- high-water mark H committed in the hayloft (R241) -/
  h : Nat := 0
  /-- next untaken index (R240) -/
  nNext : Nat := 0
  /-- the H a refill in progress writes (R241) -/
  refill : Option Nat := none
  /-- EV_HBS_LOW has been raised (R249) -/
  lowRaised : Bool := false
  /-- for each level below the top, the number of the tree that has been computed ahead of its use, from 1 (R240) -/
  nextTrees : SMap Nat := []
  /-- the first signature after a cold boot pays the subtree rebuild (R240) -/
  rebuildDue : Bool := false
  paddock : Nat := 0
deriving DecidableEq, Repr

/-- Tack room as a whole (R328, R342 to R346, Table 15.12). -/
structure Tack where
  /-- slots by number, 16,384 -/
  slots : SMap Slot := []
  /-- blob entries by index, 65,536 -/
  blobs : SMap BlobEntry := []
  /-- stateful keys by slot -/
  hbs : SMap HbsKey := []
  /-- TK_STATUS.unsealed. Reset 0 -/
  unsealed : Bool := false
  /-- TK_STATUS.restoring. Reset 0 -/
  restoring : Bool := false
  /-- TK_STATUS.hold. Reset 0 -/
  hold : Bool := false
  /-- 32 bits. TK_STATUS.remask_passes. Reset 0 -/
  remask : Nat := 0
  /-- 16 bits. TK_COUNTS.lost. Reset 0 -/
  lost : Nat := 0
  /-- draw number of the two live mask keys (R343) -/
  maskDraw : Nat := 0
  /-- draw number of the slot permutation key (R343) -/
  permDraw : Nat := 0
  /-- the owner root, 64 bytes (Table 15.2); no master reads it -/
  ownerRoot : Bytes := []
  /-- journal seal key (Table 15.2) -/
  jseal : Bytes := []
  /-- mask keys are scrambled and keys unreadable until the next unseal (R344, R436) -/
  scrambled : Bool := false
deriving DecidableEq, Repr

/-! ## Random source (chapter 14) -/

/-- Random bit generator (R311 to R326). -/
structure Rng where
  /-- RN_STATUS.ready. Reset 0 -/
  ready : Bool := false
  /-- RN_STATUS.stopped. Reset 0 -/
  stopped : Bool := false
  /-- RN_STATUS.raw_mode. Reset 0 -/
  rawMode : Bool := false
  /-- RN_STATUS.kat_ok. Reset 0 -/
  katOk : Bool := false
  /-- 16 bits, mask of groups passed and in use: healthy. Reset 0 -/
  healthy : Nat := 0
  /-- 16 bits, mask. RN_STATUS.isolated. Reset 0 -/
  isolated : Nat := 0
  /-- 16 bits, mask. RN_STATUS.retired. Reset 0 -/
  retired : Nat := 0
  /-- 8 bits. RN_STATUS.cmd_err. Reset 0 -/
  cmdErr : Nat := 0
  /-- 16 bits. RN_HEALTH.rct_fails. Reset 0 -/
  rct : Nat := 0
  /-- 16 bits. RN_HEALTH.apt_fails. Reset 0 -/
  apt : Nat := 0
  /-- 32 bits. RN_HEALTH.blocks_discarded. Reset 0 -/
  discarded : Nat := 0
  /-- failed start-up attempts in a row (R317) -/
  attempts : Nat := 0
  /-- blocks in the output store, 0 to 64 (R314). Reset 0 -/
  store : Nat := 0
  /-- requests waiting for blocks, oldest first (R314): 0 to 31 a paddock's reseed, 32 the yardmaster's, 256 + p a capture draw of
  paddock p, 512 + n the local source of stall n, 1024 a remask pass. Reset none -/
  waiting : List Nat := []
  /-- RESTART has started the start-up tests of a stopped source (R320). Reset 0 -/
  restarting : Bool := false
  /-- time base at which raw-sample mode was entered (R325). Reset 0 -/
  rawFrom : Nat := 0
  /-- raw-sample FIFO, at most 512 words (R325) -/
  fifo : List W64 := []
  /-- RN_RAW_STAT.overflow. Reset 0 -/
  overflow : Bool := false
  /-- 5 bits. RN_RAW_STAT.sel. Reset 0 -/
  sel : Nat := 0
  /-- the yardmaster's own instance (R321) -/
  ymDrbg : Drbg := {}
  /-- sixteen yardmaster measurement registers, DG_YMR_m (R298). Reset 0 -/
  ymr : SMap Bytes := []
deriving DecidableEq, Repr

/-! ## Benxis cores (chapters 17, 18) -/

/-- Tagged 64-bit word (R375, R376): the default is 0 with tag POISON. -/
structure TW where
  d : W64 := 0#64
  /-- 4 bits. Table 17.6 -/
  tag : Nat := 0
deriving DecidableEq, Repr

/-- Vector register: 128 bits and a tag (R417). -/
structure VReg where
  d : BitVec 128 := 0#128
  tag : Nat := 0
deriving DecidableEq, Repr

/-- An open memory or feed window (R410, R412). -/
structure Window where
  /-- window number, 0 to 3 -/
  num : Nat := 0
  /-- a feed window, with `base` its FIFO number -/
  feed : Bool := false
  base : Nat := 0
  len : Nat := 0
  write : Bool := false
deriving DecidableEq, Repr

/-- A result in flight in the multiplier or divider (R396). -/
structure UnitOp where
  lo : TW := {}
  hi : TW := {}
deriving DecidableEq, Repr

/-- A WAIT in progress (R413). -/
structure WaitOp where
  queue : Nat := 0
  index : Nat := 0
  rd : Nat := 0
  /-- length of the WAIT instruction in bytes -/
  len : Nat := 0
deriving DecidableEq, Repr

/-- A load in progress (R407 to R409). -/
structure LoadOp where
  /-- 0 BX_BOOT, 1 LOAD, 2 CSTART -/
  source : Nat := 0
  /-- the function whose command it is, or the calling core -/
  sender : Nat := 0
  image : Bytes := []
  /-- started by CSTART from boot code -/
  fromBoot : Bool := false
  /-- the load waits for its shed to wake -/
  waitShed : Bool := false
  /-- a read of its image has failed once (R138) -/
  tried : Bool := false
deriving DecidableEq, Repr

/-- A Benxis application core (R374 to R422). -/
structure Core where
  /-- 2 bits. Table 18.1: 0 STOPPED 1 LOADING 2 RUNNING 3 HALTED. Reset 0 -/
  state : Nat := 0
  /-- w0 to w31. R375. DESIGN CHOICE 0 with POISON before the first start (log 11) -/
  w : SMap TW := []
  /-- v0 to v15. R417 -/
  v : SMap VReg := []
  /-- R375 -/
  mlo : TW := {}
  mhi : TW := {}
  quo : TW := {}
  rem : TW := {}
  /-- R375, R390: tag NAT at start -/
  flg : TW := {}
  /-- R375, R420 -/
  vff : TW := {}
  /-- R375, R397 -/
  dsp : TW := {}
  /-- R375: the PC's data; its tag is always CODE -/
  pc : W64 := 0#64
  /-- local memory, 131,072 tagged words by word index (R376) -/
  mem : SMap TW := []
  /-- multiply in flight (R396) -/
  mul : Option UnitOp := none
  /-- divide in flight (R396) -/
  div : Option UnitOp := none
  /-- return stack on the core, newest first, at most 64 (R398) -/
  rstack : List W64 := []
  /-- spilled entries, newest first (R398) -/
  spill : List W64 := []
  /-- load-image values (Table 18.2) -/
  codeAt : Nat := 0
  codeLen : Nat := 0
  dsLow : Nat := 0
  dsHigh : Nat := 0
  spillAt : Nat := 0
  spillLen : Nat := 0
  /-- trap vector; none for unset -/
  trapVec : Option Nat := none
  /-- BX_TRAP_n.trap_active. Reset 0 -/
  trapActive : Bool := false
  /-- BX_TRAP_n.double. Reset 0 -/
  double : Bool := false
  /-- 8 bits. BX_TRAP_n.last_code. Reset 0 -/
  lastCode : Nat := 0
  /-- 16 bits. BX_TRAP_n.traps. Reset 0 -/
  traps : Nat := 0
  /-- 16 bits. BX_TRAP_n.declass. Reset 0 -/
  declass : Nat := 0
  /-- BX_CORE_STATUS_n.boot. Reset 0 -/
  boot : Bool := false
  /-- BX_CORE_STATUS_n.vec_up. Reset 0 -/
  vecUp : Bool := false
  /-- vec_on of the image (R422) -/
  vecOn : Bool := false
  /-- open windows (R410) -/
  windows : List Window := []
  /-- 8 bits. BX_CORE_STATUS_n.cmd_err. Reset 0 -/
  cmdErr : Nat := 0
  /-- 16 bits. BX_CORE_STATUS_n.loads. Reset 0 -/
  loads : Nat := 0
  /-- a WAIT in progress -/
  waiting : Option WaitOp := none
  /-- a load in progress -/
  loading : Option LoadOp := none
  /-- retired (Table 20.8) -/
  retired : Bool := false
deriving DecidableEq, Repr

/-- One feed FIFO entry (R368, R412). -/
structure FeedEntry where
  data : Bytes := []
  eop : Bool := false
  tag : Nat := 3
deriving DecidableEq, Repr

/-- A feed FIFO, by paddock × 16 + f (R368, R369, Table 16.7). -/
structure Feed where
  entries : List FeedEntry := []
  /-- Reset 0 -/
  stopped : Bool := false
  /-- Reset 1 -/
  atStart : Bool := true
  /-- a DROP has found no end-of-packet flag yet and goes on discarding what is pushed (R369). Reset 0 -/
  dropping : Bool := false
  /-- 16 bits. Reset 0 -/
  dropped : Nat := 0
deriving DecidableEq, Repr

/-! ## Faults (chapter 20) -/

/-- An outstanding fault entry (Table 20.13). -/
structure OutFault where
  source : Nat := 0
  kind : Nat := 0
  /-- 1 contained, 2 fatal -/
  cls : Nat := 1
  charged : Bool := false
  paddock : Nat := 0
  detail : Nat := 0
  acked : Bool := false
  escalated : Bool := false
  /-- the cause still asserts (FC_OUT.live) -/
  live : Bool := false
  /-- 12 bits -/
  repeats : Nat := 0
  /-- time base at which the timer expires; none when stopped (R448) -/
  deadline : Option Nat := none
  /-- a fatal entry that holds the gate (R443) -/
  holdsGate : Bool := false
deriving DecidableEq, Repr

/-- Fault collector and farrier (R440 to R458). -/
structure Faults where
  /-- arrival time and 64-bit message, oldest first, at most 4,096 (R444) -/
  log : List (Nat × Nat) := []
  /-- 16 bits. FC_SUMMARY.dropped. Reset 0 -/
  dropped : Nat := 0
  /-- FC_SUMMARY.severe_lost. Reset 0 -/
  severeLost : Bool := false
  /-- FK_LOG_OVERFLOW raised since the log was last emptied (R444) -/
  overflowed : Bool := false
  /-- outstanding entries by table position, 0 to 255 (R447) -/
  out : SMap (Option OutFault) := []
  /-- leaky-bucket counters by source id (R446). Reset 0 -/
  buckets : SMap Nat := []
  /-- units retired, by source id (Table 20.14) -/
  retired : SMap Bool := []
  /-- 8 bits. FC_OUT_SEL. Reset 0 -/
  outSel : Nat := 0
  /-- 10 bits. FC_BUCKET_SEL. Reset 0 -/
  bucketSel : Nat := 0
  /-- FC_FARRIER.stall; none for 0x3F -/
  claimed : Option Nat := none
  /-- FC_FARRIER.testing. Reset 0 -/
  testing : Bool := false
  /-- 24 bits. FC_FARRIER.passes. Reset 0 -/
  passes : Nat := 0
  /-- 16 bits. FC_FARRIER.fails. Reset 0 -/
  fails : Nat := 0
  /-- stalls overdue (R453) -/
  overdue : List Nat := []
  /-- next stall of the rotation (R453) -/
  nextStall : Nat := 0
  /-- acknowledged or unsound stalls the farrier takes ahead of the rotation (R455) -/
  ahead : List Nat := []
  /-- per-source corrected counts awaiting the hayloft (R445) -/
  corrected : SMap Nat := []
  /-- messages and retirements not yet appended to the hayloft fault log (R445): kind 0 message, 1 retirement -/
  toLog : List (Nat × Nat × Nat) := []
  /-- spare rows taken in the field, by bank source id (R482, R458). Reset 0: kept across resets (log 22) -/
  spareRows : SMap Nat := []
  /-- escalations due at once for want of an outstanding entry (R447). Reset empty -/
  escNow : List OutFault := []
  /-- units whose leaky bucket has reached its threshold (R446): source and row. Reset empty -/
  retireNow : List (Nat × Nat) := []
  /-- EN_STATUS.flush_active held timers: escalations held (R451) -/
  heldExpiry : List (Nat × Nat) := []
deriving DecidableEq, Repr

/-! ## Tamper (chapter 19) -/

/-- Tamper monitor (R429 to R439). -/
structure Tamper where
  /-- TP_STATUS.latched. Reset 0 -/
  latched : Bool := false
  /-- TP_STATUS.response. Reset 0 -/
  response : Nat := 0
  /-- TP_STATUS.tamper_hold. Reset 0 -/
  tamperHold : Bool := false
  /-- TP_STATUS.reset_required. Reset 0 -/
  resetRequired : Bool := false
  /-- TP_STATUS.sleep_scramble. Reset 0 -/
  sleepScramble : Bool := false
  /-- 8 bits. TP_STATUS.cmd_err. Reset 0 -/
  cmdErr : Nat := 0
  /-- 4 bits. TP_STATUS.mesh_pending. Reset 0 -/
  meshPending : Nat := 0
  /-- 4 bits. pairs no longer evaluated (R430) -/
  meshOff : Nat := 0
  /-- 10 bits. TP_ALARM. Reset 0 -/
  alarm : Nat := 0
  /-- 10 bits. TP_LIVE. Reset 0 -/
  live : Nat := 0
  /-- 32 bits. TP_ALARM_COUNT. Reset 0 -/
  count : Nat := 0
  /-- draw number of the 256-bit reserve of R436 -/
  reserveDraw : Nat := 0
  /-- the tamper meshes are driven (R40). Reset not driven: TAMPER_DRV0 to TAMPER_DRV3 low (R39) -/
  meshOn : Bool := false
  /-- draw number of the mesh sequences' seeds (R430) -/
  meshDraw : Nat := 0
deriving DecidableEq, Repr

/-! ## Hayloft (chapter 21) -/

/-- A NAND block's bookkeeping (R471 to R473), by target × 65,536 + block. -/
structure NBlock where
  erase : Nat := 0
  reads : Nat := 0
  bad : Bool := false
  /-- erased and in the pool; a block read holds content -/
  erased : Bool := true
deriving DecidableEq, Repr

/-- A NAND target (Table 21.6), n = 4c + t. -/
structure Target where
  /-- 3 bits. 0 ABSENT 1 ACTIVE 2 FAILED 3 RETIRED 4 FOREIGN 5 FORMATTING. Reset 0 -/
  state : Nat := 0
  /-- Reset 0 -/
  nvDdr3 : Bool := false
  /-- 4 bits. Reset 0 -/
  mode : Nat := 0
  /-- 16 bits. Reset 0 -/
  badBlocks : Nat := 0
  /-- 16 bits. Reset 0 -/
  spares : Nat := 0
  /-- highest erase count. Reset 0 -/
  maxErase : Nat := 0
  /-- its status read failed once (R474) -/
  statusFailed : Bool := false
deriving DecidableEq, Repr

/-- A stored copy of an image (R84): bytes by kind × 4 + slot × 2 + channel. -/
structure ImageCopy where
  bytes : Bytes := []
deriving DecidableEq, Repr

/-- A flush in the flush area (Table 08.4): what it holds. Records, cursors and reservations stand in clear, the capture tables sealed. -/
structure FlushImage where
  present : Bool := false
  /-- commit block on channel 0 and on channel 1 -/
  commit0 : Bool := false
  commit1 : Bool := false
  consumed : Bool := false
  seq : Nat := 0
  jobs : List Job := []
  queues : SMap Queue := []
  /-- stateful-signature reservations: n_next by slot (R176) -/
  reserved : SMap Nat := []
  /-- quote snapshots by paddock (R114) -/
  snaps : SMap (SMap Snapshot) := []
  /-- 12 bytes. nonce of the seal; its value is free -/
  nonce : Bytes := []
  /-- the capture tables and their GCM tag (R184) -/
  sealedCaps : Bytes := []
  /-- the twin term, and what the banks hold of the partner's journal (R196, R200) -/
  term : Nat := 0
  mirror : List Job := []
  mirrorA : SMap Nat := []
  nextSeq : Nat := 0
  time : Nat := 0
deriving DecidableEq, Repr

/-- A hayloft object (R465), by the numbers of Machine/HayloftCmds.lean: slots, blobs, revocation marks, sticky cache entries, tree
caches. -/
structure Obj where
  /-- last committed version -/
  version : Nat := 0
  /-- version readable on each channel -/
  v0 : Nat := 0
  v1 : Nat := 0
  /-- version being written -/
  writing : Option Nat := none
  /-- copies read back so far in this write -/
  ok0 : Bool := false
  ok1 : Bool := false
deriving DecidableEq, Repr

/-- Geometry of the NAND targets in service (R72, R459, R461); 0 before step 8 of cold boot. -/
structure Geometry where
  pageData : Nat := 0
  pageSpare : Nat := 0
  tProgUs : Nat := 0
  planes : Nat := 0
  rateMBs : Nat := 0
  blockPages : Nat := 0
  blocks : Nat := 0
deriving DecidableEq, Repr

/-- The balls of a NAND channel that the part drives (R37). Every operation ends with the bus idle, so that between two commands all but
NFc_WP_N stand as at reset. -/
structure NfBalls where
  /-- 4 bits. NFc_CE3_N to NFc_CE0_N. Reset high -/
  ceN : Nat := 0xF
  /-- NFc_WE_N. Reset high -/
  weN : Bool := true
  /-- NFc_RE_P. Reset high -/
  reP : Bool := true
  /-- NFc_RE_N. Reset low -/
  reN : Bool := false
  /-- NFc_ALE. Reset low -/
  ale : Bool := false
  /-- NFc_CLE. Reset low -/
  cle : Bool := false
  /-- NFc_WP_N. Reset low -/
  wpN : Bool := false
  /-- NFc_DQ and NFc_DQS driven; high impedance when not. Reset not driven -/
  dqDriven : Bool := false
deriving DecidableEq, Repr

/-- The image directory of one channel (R86, R466). -/
structure Directory where
  /-- version; the higher one is used at step 8 of Table 04.4 -/
  version : Nat := 0
  /-- preferred slot by kind -/
  prefer : SMap Nat := []
  /-- kinds whose preferred slot has changed and has not been booted yet (R91) -/
  fresh : List Nat := []
deriving DecidableEq, Repr

/-- Hayloft controller (R459 to R476). -/
structure Hayloft where
  geo : Geometry := {}
  targets : SMap Target := []
  blocks : SMap NBlock := []
  objs : SMap Obj := []
  /-- the six certificates by index, as last committed (R111, R112). None stored before (DESIGN CHOICE, log 7) -/
  certs : SMap Bytes := []
  /-- the certificates being written (R111, R465). Reset none -/
  certsNew : Option (List Bytes) := none
  /-- channel failed (R475) -/
  failed0 : Bool := false
  failed1 : Bool := false
  /-- HL_STATUS.ready. Reset 0 -/
  ready : Bool := false
  /-- HL_STATUS.rebuilding. Reset 0 -/
  rebuilding : Bool := false
  /-- HL_STATUS.space_low. Reset 0 -/
  spaceLow : Bool := false
  /-- HL_STATUS.flush_ready. Reset 0 -/
  flushReady : Bool := false
  /-- HL_STATUS.wp_released. Reset 0 -/
  wpReleased : Bool := false
  /-- 8 bits. HL_STATUS.cmd_err. Reset 0 -/
  cmdErr : Nat := 0
  /-- 32 bits. HL_STATUS.single_copy. Reset 0 -/
  singleCopy : Nat := 0
  /-- image copies; none stored before the first STORE_IMAGE (DESIGN CHOICE, log 7) -/
  images : SMap ImageCopy := []
  /-- the image directories of channel 0 and of channel 1 (R86, R466); version 0, slot A preferred, before the first (DESIGN CHOICE, log 7) -/
  dir0 : Directory := {}
  dir1 : Directory := {}
  /-- balls of channel 0 and of channel 1 (R37) -/
  nf0 : NfBalls := {}
  nf1 : NfBalls := {}
  /-- the newest flush (R188, R467) -/
  flush : FlushImage := {}
  /-- fault log: time, kind 0 message 1 retirement 2 corrected count, value (R470) -/
  faultLog : List (Nat × Nat × Nat) := []
  /-- audit log: time, event, value (R470). Events: 1 life cycle, 2 debug session, 3 tamper trip, 4 CLEAR, 5 plan, 6 raw, 7 straps -/
  auditLog : List (Nat × Nat × Nat) := []
  /-- bound B on accept_seq (R189). Reset 2^28 -/
  boundB : Nat := 2 ^ 28
  /-- retirement map: source ids (R456) -/
  retireMap : List Nat := []
  /-- latest partial plan of each paddock in the hayloft (R92) -/
  partials : SMap Bytes := []
  /-- the partial image written before its switch: paddock and image (R92) -/
  swapImage : Option (Nat × Bytes) := none
  /-- one more than the serial of the last applied plan, by owner epoch; 0 for none (Table 04.10 0x0C) -/
  serials : SMap Nat := []
deriving DecidableEq, Repr

/-! ## Journal (chapter 08) -/

/-- Journal registers and gate (R164 to R200, Tables 08.7 to 08.10). -/
structure Journal where
  /-- JN_STATUS.open. Reset 0 -/
  opened : Bool := false
  /-- JN_STATUS.bank0_ok, bank1_ok. Reset 0 -/
  bank0 : Bool := false
  bank1 : Bool := false
  /-- JN_STATUS.from_flush. Reset 0 -/
  fromFlush : Bool := false
  /-- JN_STATUS.lost. Reset 0 -/
  lost : Bool := false
  /-- JN_STATUS.shutdown_done. Reset 0 -/
  shutdownDone : Bool := false
  /-- 2 bits. JN_STATUS.twin_role: 0 single 1 mirrored 2 alone 3 fenced. Reset 0 -/
  role : Nat := 0
  /-- 32 bits. JN_STATUS.term. Reset 0 -/
  term : Nat := 0
  /-- 64 bits. JN_SEQ.next_seq. Reset 0 -/
  nextSeq : Nat := 0
  /-- journal sequence: writes made (R188) -/
  seq : Nat := 0
  /-- 32 bits. JN_LAST_FLUSH.records. Reset 0 -/
  flushRecords : Nat := 0
  /-- 24 bits. JN_LAST_FLUSH.duration_us. Reset 0 -/
  flushUs : Nat := 0
  /-- 8 bits. JN_LAST_FLUSH.result. Reset 0 -/
  flushResult : Nat := 0
  /-- flush sequence number (Table 08.4) -/
  flushSeq : Nat := 0
  /-- SHUTDOWN is draining (R187) -/
  shutting : Bool := false
  /-- time base when the flush began (JN_LAST_FLUSH.duration_us) -/
  flushFrom : Nat := 0
  /-- the flush has ended and the part waits with AON and JNL powered (step 7 of Table 08.4) -/
  flushWait : Bool := false
  /-- POWER_FAIL_N rose during the flush: what the boot that follows its end meets (R185) -/
  bootAfterFlush : Option BootIn := none
  /-- the banks hold a journal that VDDM has kept (R188) -/
  held : Bool := false
  /-- digest of the paddock record that a switch has put in force, by paddock (R92) -/
  recDigests : SMap Bytes := []
  /-- next order number of first deferral (R170) -/
  deferNext : Nat := 0
  /-- the next queue the round-robin order takes (R168) -/
  rr : Nat := 0
deriving DecidableEq, Repr

/-! ## Tether, twin and link tests (chapters 08, 22) -/

/-- A tether lane (Table 22.8). -/
structure Lane where
  /-- 2 bits. 0 down 1 up 2 FAILED 3 under test. Reset 0 -/
  state : Nat := 0
  /-- 2 bits. Reset 0 -/
  preset : Nat := 0
  /-- 32 bits. Reset 0 -/
  ce : Nat := 0
  retired : Bool := false
deriving DecidableEq, Repr

/-- A tether frame (R486, R487): type of Table 22.6, sequence number, payload words, CRC good. -/
structure Frame where
  kind : Nat := 0
  seq : Nat := 0
  payload : List Nat := []
  crcOk : Bool := true
  /-- lane carrying the failing block -/
  lane : Nat := 0
deriving DecidableEq, Repr

/-- Tether and twin state (R94, R95, R196 to R200, R485 to R489, Table 22.8). -/
structure Tether where
  lanes : SMap Lane := []
  /-- TT_STATUS.link_up. Reset 0 -/
  linkUp : Bool := false
  /-- TT_STATUS.hb_in. Reset 0 -/
  hbIn : Bool := false
  /-- TT_STATUS.retraining. Reset 0 -/
  retraining : Bool := false
  /-- 16 bits. TT_STATUS.retrains. Reset 0 -/
  retrains : Nat := 0
  /-- 32 bits. TT_STATUS.retransmits. Reset 0 -/
  retransmits : Nat := 0
  /-- 32 bits. next sequence number to send -/
  txSeq : Nat := 0
  /-- 32 bits. next sequence number expected -/
  rxSeq : Nat := 0
  /-- frames sent and not acknowledged, oldest first -/
  unacked : List Frame := []
  /-- the partner's live records mirrored here (R196) -/
  mirror : List Job := []
  /-- the partner's queue cursors mirrored here: queue to A (R196) -/
  mirrorA : SMap Nat := []
  /-- capture keys of the partner's live records, by paddock × 16 + slot (R196, R199; log 113) -/
  mirrorCaps : SMap Bytes := []
  /-- stateful H of the partner's keys by slot (R246) -/
  mirrorH : SMap Nat := []
  /-- fewer sound lanes than lanes_min: side A accepts nothing (R198). Reset 0 -/
  split : Bool := false
  /-- the partner is taken as failed (R199) -/
  partnerFailed : Bool := false
  /-- the partner's twin term and plan digest as last received (type 0x05) -/
  partnerTerm : Nat := 0
  partnerSerial : Nat := 0
  partnerPresent : Bool := false
  /-- the plan digests differ: the gate stays closed (R94). Reset 0 -/
  mismatch : Bool := false
  /-- object writes of the partner mirrored (type 0x04): object, version -/
  mirrorObjs : List (Nat × Nat) := []
deriving DecidableEq, Repr

/-- A link test (Table 22.7), by link number. -/
structure LinkTest where
  /-- 3 bits. LK_CTRL.pattern. Reset 0 -/
  pattern : Nat := 0
  /-- 16 bits. LK_CTRL.fixed. Reset 0 -/
  fixed : Nat := 0
  /-- NAND target of the test -/
  target : Nat := 0
  /-- Reset 0 -/
  running : Bool := false
  /-- Reset 0 -/
  locked : Bool := false
  /-- Reset 0 -/
  lost : Bool := false
  /-- 8 bits. Reset 0 -/
  err : Nat := 0
  /-- 64 bits. LK_BITS. Reset 0 -/
  bits : Nat := 0
  /-- 48 bits. LK_ERRS. Reset 0 -/
  errs : Nat := 0
  /-- bits to be inverted that have been injected and not yet seen (R479) -/
  injected : Nat := 0
deriving DecidableEq, Repr

/-- LK_ block. -/
structure Links where
  /-- 7 bits. LK_SEL.link. Reset 0 -/
  sel : Nat := 0
  /-- 3 bits. LK_SEL.target. Reset 0 -/
  selTarget : Nat := 0
  tests : SMap LinkTest := []
deriving DecidableEq, Repr

/-- A scan engine, CR_SCAN_n (R310). -/
structure Scan where
  busy : Bool := false
  paddock : Nat := 0
  /-- 64 KiB segments moved since cold reset -/
  segments : Nat := 0
deriving DecidableEq, Repr

end Sys2Proof.Machine
end

