-- ==== Sys2Proof/Syntax.lean ====
section
/-! DEFINITION. Syntax.lean: the commands of the part, one constructor per row of the table of operations and events
(opcode_table.json), with what arrives with each: the function, the queue or register, the value written, the bytes the
part reads from host memory, or the physical condition that comes about. -/

namespace Sys2Proof

/-- The fields of a Benxis instruction (Tables 17.3, 17.4); the opcode is the command. -/
structure BxFields where
  /-- a prefix parcel is present; its bits [5:0] and [15:8] (R379) -/
  chk : Bool := false
  w32 : Bool := false
  vec : Bool := false
  rd : Nat := 0
  rs1 : Nat := 0
  rs2 : Nat := 0
  i : Bool := false
  isize : Nat := 0
  /-- the immediate, sign-extended to 64 bits (R378) -/
  imm : W64 := 0#64
deriving DecidableEq, Repr

/-- What one execution of a job reads from the buffers its descriptor names. -/
structure OpInput where
  in0 : Bytes := []
  in1 : Bytes := []
  ext : Bytes := []
deriving DecidableEq, Repr

/-- What a planner sample finds since the last one: what each Benxis core has drawn, in nJ, and the active cycles of each job on its stall
(R57 to R59). -/
structure SampleParts where
  /-- core, nJ -/
  cores : List (Nat × Nat) := []
  /-- stall, record, cycles -/
  active : List (Nat × Nat × Nat) := []
deriving DecidableEq, Repr

/-- What a STORE_IMAGE brings: the bytes the part reads, whether the tether finds a partner (R90), and whether it comes over I3C (R83). -/
structure StoreInput where
  image : Bytes := []
  partner : Bool := false
  i3c : Bool := false
deriving DecidableEq, Repr

/-- The commands of the part. -/
inductive Instr where
  /-- COLD_RESET (R76). Power-on, PORST_N low or VDD_AON below its power-on threshold puts the whole part, including AON, into cold reset. -/
  | coldReset (cause : Nat) (vddmKept : Bool)
  /-- PORST_N_RISE (R81). PORST_N rising starts cold boot through the steps of Table 04.4, ending with the gate opening and replay beginning. -/
  | porstNRise (boot : Machine.BootIn)
  /-- BOOT_RESERVE_RECHECK (R83). While boot is held by a failed reserve check, the check of R72 is repeated every 1 s. -/
  | bootReserveRecheck (boot : Machine.BootIn)
  /-- BOOT_POWER_FAIL_WAIT_END (R501). Boot continues before step 13 once POWER_FAIL_N has been high for 1 ms without a break. -/
  | bootPowerFailWaitEnd (boot : Machine.BootIn)
  /-- POWER_FAIL_FLUSH (R183). The filtered falling edge of POWER_FAIL_N stops energy checks and starts the flush of live records, cursors and reservations to the hayloft. -/
  | powerFailFlush
  /-- FLUSH_COMPLETE (R183). The commit block is programmed and the part waits with AON and JNL powered. -/
  | flushComplete (ok0 : Bool) (ok1 : Bool) (deltas : List (Nat × Nat)) (raw0 : Nat) (raw1 : Nat)
  /-- POWER_FAIL_RISE (R185). POWER_FAIL_N rising during or after a flush makes the part boot as after PORST_N once the flush has ended. -/
  | powerFailRise (boot : Machine.BootIn)
  /-- XTAL25_LOSS (R50). XTAL25 stopped for more than 2 µs moves AON timing to the 1 MHz oscillator, reports FK_CLOCK_LOSS, flushes and holds reset. -/
  | xtal25Loss
  /-- XTAL25_RESTORE (R50). When XTAL25 runs again after a loss, the part boots and replays as after power loss. -/
  | xtal25Restore (boot : Machine.BootIn)
  /-- SY_RESET (R78). Writing key 0xA5 to SY_RESET starts a warm reset. -/
  | syReset (fn : Nat) (value : W64)
  /-- WARM_RESET (R78). A warm reset stops stalls and cores, re-verifies firmware, microcode and plan, reseeds DRBGs and replays live records. -/
  | warmReset (cause : Nat)
  /-- SY_PADDOCK_RESET (R79). Writing key 0x5A to SY_PADDOCK_RESET for a tenant resets that paddock and replays its live records. -/
  | syPaddockReset (fn : Nat) (value : W64)
  /-- HOST_INTERFACE_RESET (R80). PERST_N low, hot reset or link down resets the HIF shed and sends every enabled queue to HELD. -/
  | hostInterfaceReset (cause : Nat)
  /-- CONFIG_REQUEST (R82). A PCIe configuration request is answered with retry status before boot step 10, normally afterwards, or from the recovery configuration. -/
  | configRequest (fn : Nat) (write : Bool) (offset : Nat) (value : Nat)
  /-- FUNCTION_LEVEL_RESET (R127). An FLR resets the function's configuration space, MSI-X table and HI_ registers, and sends its queues to HELD. -/
  | functionLevelReset (fn : Nat)
  /-- VF_ENABLE_CLEAR (R128). Clearing VF Enable or lowering NumVFs resets each VF that disappears and sends its queues to HELD. -/
  | vfEnableClear (numVfs : Nat)
  /-- VF_ENABLE (R129). Setting VF Enable makes the VFs appear with their plan bindings and fixes their MSI-X table sizes. -/
  | vfEnable (numVfs : Nat)
  /-- BUS_MASTER_ENABLE_SET (R126). Bus Master Enable returning to 1 releases the held writes in order, then the interrupts they earned. -/
  | busMasterEnableSet (fn : Nat)
  /-- D3HOT_ENTRY (R133). A function entering D3hot holds its writes, and its queues fetch nothing. -/
  | d3hotEntry (fn : Nat)
  /-- D0_RETURN (R136). A function returning to D0 writes every held completion in order, then sends one message per vector with a non-zero count. -/
  | d0Return (fn : Nat)
  /-- MSIX_ENABLE_SET (R132). MSI-X Enable becoming 1 sends one message for each vector whose count is not 0. -/
  | msixEnableSet (fn : Nat)
  /-- VECTOR_UNMASK (R132). Unmasking a vector or function sends the message pending in its PBA and clears count and timer. -/
  | vectorUnmask (fn : Nat) (vector : Option Nat)
  /-- HI_VEC_MOD_WRITE (R132). A write of HI_VEC_MOD_v takes effect at once and sends a message if the new threshold is already met. -/
  | hiVecModWrite (fn : Nat) (vector : Nat) (value : W64) (size : Nat)
  /-- VECTOR_TIMER_EXPIRY (R131). A vector's moderation timer reaching time_us sends one MSI-X message and clears the count. -/
  | vectorTimerExpiry (fn : Nat) (vector : Nat)
  /-- WAKE_COUNT_EXPIRY (R136). A vector's wake count falling due in D3 sets PME_Status and sends PM_PME, or drives WAKE_N, for a wake-capable queue. -/
  | wakeCountExpiry (fn : Nat) (vector : Nat)
  /-- ASPM_L1_ENTRY (R134). After 10 µs with no transaction pending, the link enters ASPM L1, or L1.1 or L1.2 where permitted. -/
  | aspmL1Entry (sub : Nat) (clkreqHigh : Bool)
  /-- REFCLK_LOSS (R137). REFCLK loss beyond 2 µs takes the link down and reports FK_REFCLK_LOSS. -/
  | refclkLoss
  /-- LINK_RETURN (R137). When the link returns after REFCLK loss, the part carries out a host-interface reset. -/
  | linkReturn
  /-- POISONED_WRITE (R138). A poisoned or ECRC-failing write into a BAR is discarded and clears the paddock's digest state. -/
  | poisonedWrite (fn : Nat) (ecrc : Bool)
  /-- BAR_ACCESS_INVALID (R124). A BAR access of wrong size or alignment, or outside an open window, is ignored, counted in denied_cnt and clears digest state. -/
  | barAccessInvalid (fn : Nat) (bar : Nat) (offset : Nat) (size : Nat) (write : Bool)
  /-- BAR4_WINDOW_ACCESS (R411). A host access through an open BAR4 window reads or writes the core's local memory under the tag rules. -/
  | bar4WindowAccess (fn : Nat) (offset : Nat) (write : Bool) (data : Bytes) (len : Nat)
  /-- FEED_WINDOW_WRITE (R412). A host write to a feed FIFO window pushes entries, with end-of-packet at offset 0x8_0000, or is discarded whole. -/
  | feedWindowWrite (fn : Nat) (offset : Nat) (data : Bytes)
  /-- MULTIWORD_READ (R493). A read of word 0 of a multi-word register latches all its words for the reading function. -/
  | multiwordRead (fn : Nat) (offset : Nat) (size : Nat)
  /-- REGISTER_WRITE (R7). A write to a register with no behaviour of its own takes effect according to the field access codes. -/
  | registerWrite (fn : Nat) (offset : Nat) (size : Nat) (value : W64)
  /-- DOORBELL_WRITE (R145). A doorbell write carries a new producer index, which is checked and handled according to the queue state. -/
  | doorbellWrite (fn : Nat) (offset : Nat) (size : Nat) (value : W64)
  /-- DESCRIPTOR_FETCH_DONE (R143). A descriptor read from the ring completes, and its held copy is kept for the gate. -/
  | descriptorFetchDone (queue : Nat) (index : Nat) (data : Bytes)
  /-- HOST_READ_FAIL (R138). A timed-out, UR, CA or poisoned host read is retried once; a second failure halts the queue or completes the job ST_DEVICE_FAULT. -/
  | hostReadFail (queue : Nat) (operand : Option Nat) (core : Option Nat) (kind : Nat)
  /-- GATE_EVALUATE (R11). A head entry is checked for form and plan, key attribute, revocation, entropy, in-flight limit and energy reserve, in that order. -/
  | gateEvaluate (queue : Nat)
  /-- DEFERRED_REEVALUATE (R170). A deferred head is evaluated again on an event that can change its outcome, in order of first deferral. -/
  | deferredReevaluate
  /-- ACCEPT (R164). The second bank write of a record completes; the entry is accepted, A passes it and the record becomes live. -/
  | gateAccept (queue : Nat) (written : Bool)
  /-- REFILL_COMMIT (R241). A refill commits when its copies verify, raising the committed H of the key. -/
  | refillCommit (slot : Nat)
  /-- CAPTURE_GEN_DRAW (R175). The yardmaster draws a new capture generation for a paddock on gate opening, after 2^20 acceptances or 1 s, once a slot is free. -/
  | captureGenDraw (paddock : Nat)
  /-- DISPATCH (R358). A free stall is given the eligible staged job first in prio, t_accept and paddock order, after reserving its yard cells. -/
  | dispatch (stall : Nat)
  /-- LOW_PRIO_PROMOTE (R358). A low-prio job that has waited 2 ms ranks as normal. -/
  | lowPrioPromote (seq : Nat)
  /-- POOL_PREFERENCE_EXPIRY (R359). The preference of a pool stall for its last paddock ends once another paddock's job has waited 50 µs. -/
  | poolPreferenceExpiry (stall : Nat)
  /-- PKE_YIELD_REQUEST (R287). A shorter PKE job waiting 50 µs requests a yield from the running PKE job. -/
  | pkeYieldRequest (stall : Nat)
  /-- DIGEST_YIELD_REQUEST (R304). A job waiting 10 µs for a hash stall whose digest job has run 20 µs requests a yield at the next block boundary. -/
  | digestYieldRequest (stall : Nat)
  /-- MCE_YIELD_REQUEST (R269). An encapsulation or decapsulation waiting 200 µs for a code stall requests a yield from a McEliece key generation. -/
  | mceYieldRequest (stall : Nat)
  /-- STALL_SAFE_POINT (R354). At a safe point, the sequencer acts on the first pending fault, stop, farrier claim or yield request. -/
  | stallSafePoint (stall : Nat) (commit : Bool) (checkpoint : Bool) (output : Bool) (position : Nat)
  /-- COMPLETION_WRITE (R153). Once the reorder-list head has finished, its outputs, completion bytes 0x04–0x3F and then the status word are written. -/
  | completionWrite (queue : Nat)
  /-- RECORD_RETIRE (R14). The confirming read returns; the record is cleared in both banks and T advances. -/
  | recordRetire (queue : Nat)
  /-- ENABLE (R159). ENABLE starts a DISABLED queue at the given index, or sets a DRAINING queue to PENDING_ENABLE. -/
  | qEnable (fn : Nat) (value : W64)
  /-- DISABLE (R160). DISABLE sends the queue to DRAINING, where every accepted entry is ended in acceptance order. -/
  | qDisable (fn : Nat) (value : W64)
  /-- CONTINUE (R159). CONTINUE returns a HALTED queue to RUNNING and reads the entry at A again. -/
  | qContinue (fn : Nat) (value : W64)
  /-- RESUME (R80). RESUME returns a HELD queue to its remembered state and checks its held doorbell. -/
  | qResume (fn : Nat) (value : W64)
  /-- FORGET (R80). FORGET retires a HELD queue's live records without writes, counts them and disables the queue. -/
  | qForget (fn : Nat) (value : W64)
  /-- QUEUE_DRAIN_COMPLETE (R160). When T equals A, a DRAINING queue becomes DISABLED. -/
  | queueDrainComplete (queue : Nat)
  /-- PENDING_ENABLE_SWITCH (R161). When the drain of a PENDING_ENABLE queue completes, the generation increments and the new incarnation runs. -/
  | pendingEnableSwitch (queue : Nat)
  /-- HALT_LOG_READ (R163). A read of QM_HALT_LOG that returns valid 1 removes the oldest logged halt. -/
  | haltLogRead (fn : Nat)
  /-- ENERGY_SAMPLE (R62). Every 10 µs the planner samples the meters and, when R61 would break, withholds wakes, lowers steps and withholds dispatch. -/
  | energySample (deltas : List (Nat × Nat)) (parts : SampleParts)
  /-- EN_CAP_WRITE (R60). Paddock 0 writes the power cap and energy window, which apply within 100 µs. -/
  | enCapWrite (fn : Nat) (value : W64)
  /-- I3C_CAP_SET (R60). An I3C cap set is stored separately and the least of the three caps applies. -/
  | i3cCapSet (capQw : Nat)
  /-- I3C_IDENTITY_READ (R83). An I3C transaction reads identity or certificate data, and wakes the part from deep sleep. -/
  | i3cIdentityRead (index : Nat)
  /-- HOLDUP_ADC_CONVERSION (R68). A HOLDUP_SENSE conversion updates v_bank and E_usable, and may set reserve_low or re-evaluate energy deferrals. -/
  | holdupAdcConversion (raw : Nat)
  /-- ADC_CALIBRATE (R69). At cold reset, every 1 s and on a 10 °C temperature change, the ADC offset and gain are recalibrated. -/
  | adcCalibrate (zeroRaw : Nat) (refRaw : Nat)
  /-- RESERVE_LOW_CLEAR (R74). reserve_low clears once the reserve has covered the live records plus 1,000 µJ for 10 ms. -/
  | reserveLowClear
  /-- SHED_WAKE_GRANT (R65). The planner grants the highest-ranked wake request once the cap headroom covers the shed's step-0 power. -/
  | shedWakeGrant
  /-- SHED_WAKE_DONE (R52). When the wake latency has elapsed, a WAKING shed becomes ON. -/
  | shedWakeDone (shed : Nat)
  /-- SHED_IDLE_TIMEOUT (R52). When an ON shed's idle timeout expires and its off condition holds, the shed enters SLEEPING. -/
  | shedIdleTimeout (shed : Nat)
  /-- SHED_SLEEP_DONE (R52). When the sleep latency has elapsed, a SLEEPING shed becomes OFF. -/
  | shedSleepDone (shed : Nat)
  /-- DEEP_SLEEP_ENTRY (R54). When all the conditions of R54 hold, the part enters deep sleep with only AON powered. -/
  | deepSleepEntry
  /-- DEEP_SLEEP_EXIT (R55). A link wake, PERST_N, I3C, tamper, fault or POWER_FAIL_N trigger runs the deep-sleep exit of Table 03.4. -/
  | deepSleepExit (trigger : Nat)
  /-- TIME_BASE_SAVE (R26). The time base is written to both journal banks at least every 1 ms, and to the hayloft at least every 60 s. -/
  | timeBaseSave (toHayloft : Bool)
  /-- JOURNAL_SCRUB (R180). Every 10 s the journal banks are scrubbed, and corrected errors are rewritten from the other bank. -/
  | journalScrub (bank : Nat) (corrected : Option Nat)
  /-- LOAD_PARTIAL (R92). LOAD_PARTIAL verifies a partial plan and pauses its paddock before the drain and the switch. -/
  | loadPartial (fn : Nat) (image : Bytes)
  /-- PARTIAL_SWITCH (R92). Once the drain completes, one journal write applies the paddock's new values and raises EV_PLAN_CHANGED. -/
  | partialSwitch
  /-- PARTIAL_DRAIN_TIMEOUT (R92). A partial-plan drain exceeding drain_ms abandons the swap with err 0x20. -/
  | partialDrainTimeout
  /-- STORE_IMAGE (R91). STORE_IMAGE writes an image into the non-preferred slot of its kind on both channels and checks it. -/
  | storeImage (fn : Nat) (sent : StoreInput)
  /-- APPLY (R91). APPLY stops acceptance part-wide and waits for no record to be live. -/
  | plApply (fn : Nat) (value : W64)
  /-- APPLY_DRAINED (R91). With no record live, the stored slots are marked preferred and a warm reset loads them. -/
  | plApplyDrained
  /-- APPLY_DRAIN_TIMEOUT (R91). Live records remaining after drain_ms abandon APPLY with err 0x20, and acceptance resumes. -/
  | plApplyDrainTimeout
  /-- ABORT_SWAP (R93). ABORT_SWAP in the pause or drain phase abandons the partial-plan change. -/
  | abortSwap (fn : Nat) (value : W64)
  /-- TRANSITION (R103). TRANSITION checks a life-cycle token, stops acceptance and drains. -/
  | lcTransition (fn : Nat) (token : Bytes)
  /-- LC_DRAINED (R103). With the drain done, stalls are mucked out and the ledger slots are erased and programmed. -/
  | lcDrained
  /-- LC_DRAIN_TIMEOUT (R103). A transition drain exceeding drain_ms abandons the transition with err 0x05. -/
  | lcDrainTimeout
  /-- LEDGER_PROGRAM_DONE (R103). The old slot's erase completes and reset_required is set. -/
  | ledgerProgramDone
  /-- COMPLETE (R109). In LOCKED, COMPLETE with a valid token finishes an interrupted transition, or sets err 0x07. -/
  | lcComplete (fn : Nat) (token : Bytes)
  /-- GEN_IDENTITY (R111). In FACTORY, the identity key pair is derived and its public keys are written out. -/
  | genIdentity (fn : Nat) (value : W64)
  /-- STORE_CERTS (R111). The identity certificate chains are checked and stored mirrored in the hayloft. -/
  | storeCerts (fn : Nat) (certs : List Bytes)
  /-- I3C_TOKEN_MAILBOX (R103). A transition token written through the I3C mailbox starts a transition or COMPLETE. -/
  | i3cTokenMailbox (complete : Bool) (token : Bytes)
  /-- CERT_DATA_READ (R112). A read of LC_CERT_DATA returns the next four bytes of the selected certificate and advances the offset. -/
  | certDataRead (fn : Nat)
  /-- LC_CERT_SEL_WRITE (R112). A write of LC_CERT_SEL selects a certificate and resets the read offset to 0. -/
  | lcCertSelWrite (fn : Nat) (value : W64)
  /-- DBG_TOKEN (R115). A debug token presented through the TAP opens a session in the scope its state permits and redraws the challenge. -/
  | dbgToken (token : Bytes)
  /-- DEBUG_CLOSE (R116). DB_CTRL.close ends the debug session. -/
  | debugClose (fn : Nat) (value : W64)
  /-- SHUTDOWN (R187). SHUTDOWN stops acceptance and waits up to drain_ms for live records to retire. -/
  | jnShutdown (fn : Nat) (value : W64)
  /-- SHUTDOWN_FLUSH (R187). After the drain, or at drain_ms, the remaining live records are flushed and shutdown_done is set. -/
  | shutdownFlush
  /-- TWIN_WAIT_TIMEOUT (R95). With the partner absent for twin_wait_ms at boot, side A opens its gate for both sides, and side B stays closed. -/
  | twinWaitTimeout (boot : Machine.BootIn)
  /-- TWIN_PARTNER_PRESENT (R95). A part finding its partner present re-mirrors its live records, then returns to twin acceptance. -/
  | twinPartnerPresent (term : Nat) (side : Bool)
  /-- TWIN_PARTNER_FAILED (R199). Silence on TT_HBI and the tether for partner_timeout_us makes the side take over the partner's queues and replay its records. -/
  | twinPartnerFailed
  /-- TWIN_LANES_LOST (R198). Fewer sound tether lanes than lanes_min fences side B and stops acceptance on side A. -/
  | twinLanesLost
  /-- TETHER_FRAME_RECEIVE (R486). A tether frame is checked and delivered in sequence, then acknowledged cumulatively or negatively. -/
  | tetherFrameReceive (frame : Machine.Frame)
  /-- TETHER_RETRANSMIT_TIMEOUT (R486). With no acknowledgement for 5 µs, or on a NAK, frames are retransmitted from the first unacknowledged one. -/
  | tetherRetransmitTimeout
  /-- TETHER_LANE_FAIL (R488). A lane failure while the link is up retrains the tether on the remaining sound lanes. -/
  | tetherLaneFail (lane : Nat)
  /-- HEARTBEAT_TOGGLE (R489). TT_HBO toggles once each heartbeat period. -/
  | heartbeatToggle
  /-- FAULT_REPORT (R444). The collector takes a fault message, logs and counts it, takes the kind's immediate action and creates an outstanding entry. -/
  | faultReport (message : W64)
  /-- BUCKET_LEAK (R446). Each leak interval lowers a source's leaky-bucket counter by 1. -/
  | bucketLeak (source : Nat)
  /-- ESCALATION_EXPIRY (R450). An unacknowledged escalation timer expires, retiring a unit or resetting a paddock or the part. -/
  | escalationExpiry (source : Nat) (kind : Nat)
  /-- ACK (R449). FC_CMD ACK stops an outstanding entry's timer, or is refused. -/
  | fcAck (fn : Nat) (value : W64)
  /-- CLEAR (R452). FC_CMD CLEAR clears an acknowledged or escalated outstanding entry once its cause no longer asserts. -/
  | fcClear (fn : Nat) (value : W64)
  /-- FAULT_LOG_READ (R444). A read of FC_LOG_MSG returns the oldest logged message and removes it. -/
  | faultLogRead (fn : Nat)
  /-- FAULT_LOG_APPEND (R445). Contained and fatal messages and retirements are appended to the hayloft fault log within 10 ms; corrected counts every 60 s. -/
  | faultLogAppend
  /-- FARRIER_CLAIM (R453). Every rotate_s × 1,000 ÷ 52 ms the farrier claims the next stall in source-id order. -/
  | farrierClaim
  /-- SELFTEST_DONE (R454). A claimed stall's self-test ends; a pass returns it to IDLE, and a failure reports FK_SELFTEST_FAIL. -/
  | selftestDone (pass : Bool)
  /-- MUCKOUT_DONE (R371). A muck-out's read-back completes; on a non-zero word it is repeated once, then FK_MUCKOUT_FAIL. -/
  | muckoutDone (stall : Nat) (zero : Bool)
  /-- UCODE_RELOAD_DONE (R352). After FK_UCODE_UE, the control store and dispatch table are reloaded from the hayloft image. -/
  | ucodeReloadDone (stall : Nat)
  /-- NEXT_TREE_READY (R240). Background computation of the next lower-level tree of a stateful key completes. -/
  | nextTreeReady (slot : Nat)
  /-- BLOB_LOAD_DONE (R341). A blob key is read from the hayloft, opened and loaded into reserved slots. -/
  | blobLoadDone (seq : Nat) (read0 : Bool) (read1 : Bool)
  /-- TK_RESTORE (R342). Slot material is restored from sealed hayloft copies in the background after the gate opens. -/
  | tkRestore
  /-- STICKY_RESTORE (R260). Sticky cache entries are restored from the hayloft in the background after a cold boot. -/
  | stickyRestore
  /-- REMASK_PASS (R343). Every 100 ms every tack-room cell is rewritten under a freshly drawn mask key. -/
  | remaskPass
  /-- STALL_SOURCE_RESEED (R424). Every 10 ms a stall's local source is reseeded from the output store, or ratchets when that cannot serve. -/
  | stallSourceReseed (stall : Nat)
  /-- RNG_HEALTH_FAIL (R318). A continuous test failure isolates the group, discards its blocks and reports FK_RNG_HEALTH. -/
  | rngHealthFail (group : Nat) (apt : Bool)
  /-- RNG_STARTUP_DONE (R316). The start-up tests end; healthy groups are set, DRBGs are instantiated and ready becomes 1. -/
  | rngStartupDone (passed : Nat) (kat : Bool)
  /-- RNG_STARTUP_RETRY (R317). After a failed start-up, the tests are repeated after 100 ms; a third failure stops the source. -/
  | rngStartupRetry (passed : Nat) (kat : Bool)
  /-- RNG_RETEST (R318). Every 100 ms an isolated group is retested alone and rejoins when it passes. -/
  | rngRetest (group : Nat) (pass : Bool)
  /-- RNG_BLOCK_RELEASE (R313). A conditioned block whose bits passed the health tests is released to the output store. -/
  | rngBlockRelease (groups : Nat)
  /-- DRBG_RESEED (R321). A DRBG instance reseeds after 65,536 requests, after 1 s, or before a capture-key draw. -/
  | drbgReseed (inst : Nat)
  /-- RESTART (R320). RESTART runs the start-up tests over unretired groups, or on the isolated groups while ready. -/
  | rngRestart (fn : Nat) (value : W64)
  /-- RAW_ENTER (R324). RAW_ENTER enters raw-sample mode where the state or an owner authorisation permits. -/
  | rawEnter (fn : Nat) (value : W64) (token : Bytes)
  /-- RAW_EXIT (R326). RAW_EXIT ends raw-sample mode, clears the FIFO and runs the start-up tests. -/
  | rawExit (fn : Nat) (value : W64)
  /-- RN_WORD_READ (R323). A read of RN_WORD is one 7-byte generate request to the paddock's DRBG. -/
  | rnWordRead (fn : Nat)
  /-- RN_RAW_DATA_READ (R325). A read of RN_RAW_DATA drains the next 64 raw bits from the raw-sample FIFO. -/
  | rnRawDataRead (fn : Nat)
  /-- TAMPER_TRIP (R437). A tamper source trips in operation: the alarm latches, work stops and the plan's response acts on the tack room. -/
  | tamperTrip (source : Nat) (high : Bool)
  /-- TAMPER_TRIP_AT_BOOT (R435). A trip before boot step 14 completes stops boot in TAMPER_HOLD. -/
  | tamperTripAtBoot (source : Nat) (high : Bool)
  /-- TAMPER_TRIP_DEEP_SLEEP (R436). A trip in deep sleep overwrites the mask keys with the reserve and starts the deep-sleep exit. -/
  | tamperTripDeepSleep (source : Nat) (high : Bool)
  /-- TAMPER_CLEAR (R439). TP_CMD CLEAR with a valid token clears the latched alarm once no source is live. -/
  | tamperClear (fn : Nat) (value : W64) (token : Bytes)
  /-- DG_CMP_GO (R299). DG_CMP_CTRL with go = 1 starts a 64-cycle constant-time compare of a result slot. -/
  | dgCmpGo (fn : Nat) (offset : Nat) (size : Nat) (value : W64)
  /-- DG_CMP_DONE (R299). The compare ends and sets the doubled flag pair. -/
  | dgCmpDone (fn : Nat)
  /-- DG_CMP_RESET (R300). A write of DG_CMP_EXPECT, or of DG_CMP_CTRL with go = 0, returns the flag pair to no match. -/
  | dgCmpReset (fn : Nat) (offset : Nat) (size : Nat) (value : W64)
  /-- MR_EXTEND_WRITE (R298). An aligned 8-byte write to word 0 of DG_MR_m by a holder of extend rights extends the register. -/
  | mrExtendWrite (master : Nat) (register : Nat) (value : W64)
  /-- NAND_READ_DONE (R462). A NAND read completes, moving or retiring the block by its count of corrected bits. -/
  | nandReadDone (target : Nat) (block : Nat) (corrected : Nat) (uncorrectable : Bool) (lost : Option Nat)
  /-- NAND_STATUS_FAIL (R471). A program or erase status failure retires the block and rewrites the data to a fresh block. -/
  | nandStatusFail (target : Nat) (block : Nat) (erase : Bool)
  /-- NAND_TARGET_TIMEOUT (R474). A target not ready within twice its maximum time, or failing its status read twice, becomes FAILED. -/
  | nandTargetTimeout (target : Nat) (statusRead : Bool)
  /-- HAYLOFT_REBUILD (R475). Single-copy objects are copied from the other channel onto the remaining targets, in priority order. -/
  | hayloftRebuild (channel : Nat)
  /-- OBJECT_WRITE_COMMIT (R465). A mirrored object write commits when its copies have been read back. -/
  | objectWriteCommit (object : Nat) (channel : Nat)
  /-- HAYLOFT_SCRUB (R473). A block is read once in each 7 days, or after 50,000 reads since its last program. -/
  | hayloftScrub (target : Nat) (block : Nat) (corrected : Nat) (uncorrectable : Bool) (lost : Option Nat)
  /-- STATIC_WEAR_LEVEL (R472). When erase counts in a channel differ by more than 2,000, the least-worn block's content is moved. -/
  | staticWearLevel (channel : Nat)
  /-- DIAG_LOG_FLUSH (R470). Diagnostic log entries are written to the hayloft in batches at most 10 ms apart. -/
  | diagLogFlush
  /-- FORMAT (R476). HL_CMD FORMAT formats a FOREIGN target. -/
  | hlFormat (fn : Nat) (value : W64)
  /-- HL_LOG_DATA_READ (R470). A read of HL_LOG_DATA returns the next 8 bytes of the selected log entry and advances after four reads. -/
  | hlLogDataRead (fn : Nat)
  /-- LINK_TEST_START (R477). LK_CTRL.run = 1 starts or restarts a pattern test on the selected link, or is refused. -/
  | linkTestStart (fn : Nat) (value : W64)
  /-- LINK_TEST_STOP (R479). LK_CTRL.run = 0 stops the running pattern test. -/
  | linkTestStop (fn : Nat) (value : W64)
  /-- LINK_TEST_INJECT (R479). LK_CTRL.inject inverts one sent bit. -/
  | linkTestInject (fn : Nat) (value : W64)
  /-- LINK_TEST_END (R480). A power-fail edge, tamper alarm, reset, claim limit or state change ends every running test with err 3. -/
  | linkTestEnd (link : Nat) (cause : Nat)
  /-- EXTEST (R484). EXTEST closes the gate, stops cores and stalls, and hands the covered balls to the boundary chain. -/
  | tapExtest
  /-- CLAMP (R484). CLAMP closes the gate and stops work, as EXTEST does. -/
  | tapClamp
  /-- HIGHZ (R484). HIGHZ closes the gate and stops work, as EXTEST does. -/
  | tapHighz
  /-- MBIST (R481). MBIST runs March C− over every SRAM array and programs repairs into the OTP. -/
  | tapMbist
  /-- IDCODE (R483). IDCODE returns 0xB736_0A9F. -/
  | tapIdcode
  /-- SAMPLE_PRELOAD (R483). SAMPLE/PRELOAD samples or preloads the boundary register. -/
  | tapSamplePreload (preload : Bool) (cells : Nat)
  /-- BYPASS (R483). BYPASS selects the one-bit bypass register. -/
  | tapBypass
  /-- BX_BOOT (R407). BX_BOOT loads an image from host memory into the lowest-numbered core of a paddock. -/
  | bxBoot (fn : Nat) (value : W64) (image : Bytes)
  /-- CORE_LOAD (R407). LOAD of BX_CORE_CMD_n loads a host image into a STOPPED core when the plan permits. -/
  | coreLoad (fn : Nat) (core : Nat) (value : W64) (image : Bytes)
  /-- CORE_STOP (R403). STOP of BX_CORE_CMD_n stops a running core. -/
  | coreStop (fn : Nat) (core : Nat) (value : W64)
  /-- CORE_LOAD_DONE (R408). The image is written and measured into register 0, and the core enters RUNNING. -/
  | coreLoadDone (core : Nat)
  /-- DROP (R369). DROP of BX_FEED_CMD_f discards a STOPPED feed FIFO's entries to the next end-of-packet and returns it to RUNNING. -/
  | feedDrop (fn : Nat) (feed : Nat) (value : W64)
  /-- VECTOR_UNIT_POWER_DOWN (R422). After 10,000 cycles with no VEC instruction, the vector unit powers down, keeping its registers. -/
  | vectorUnitPowerDown (core : Nat)
  /-- NOP (R381). No operation. -/
  | bxNop (core : Nat) (f : BxFields)
  /-- STOP (R403). The STOP instruction stops the core. -/
  | bxStop (core : Nat) (f : BxFields)
  /-- TRAP (R400). TRAP raises a trap with an immediate code from 0x80 to 0xFF. -/
  | bxTrap (core : Nat) (f : BxFields)
  /-- RTT (R401). RTT pops the trap frame, restores FLG and continues at the popped address. -/
  | bxRtt (core : Nat) (f : BxFields)
  /-- FENCE (R381). Fence instruction. -/
  | bxFence (core : Nat) (f : BxFields)
  /-- ADD (R391). Adds modulo 2^64, setting OV or C, and traps under CHK on overflow. -/
  | bxAdd (core : Nat) (f : BxFields)
  /-- SUB (R391). Subtracts modulo 2^64 with the flag and CHK rules of ADD. -/
  | bxSub (core : Nat) (f : BxFields)
  /-- NEG (R391). Negates an INT; the most negative value is kept and sets OV. -/
  | bxNeg (core : Nat) (f : BxFields)
  /-- AND (R383). Bitwise AND under the tag rules. -/
  | bxAnd (core : Nat) (f : BxFields)
  /-- OR (R383). Bitwise OR under the tag rules. -/
  | bxOr (core : Nat) (f : BxFields)
  /-- XOR (R383). Bitwise XOR under the tag rules. -/
  | bxXor (core : Nat) (f : BxFields)
  /-- ANDN (R383). Bitwise AND-NOT under the tag rules. -/
  | bxAndn (core : Nat) (f : BxFields)
  /-- NOT (R383). Bitwise NOT under the tag rules. -/
  | bxNot (core : Nat) (f : BxFields)
  /-- SHL (R392). Shift left by the whole unmasked amount. -/
  | bxShl (core : Nat) (f : BxFields)
  /-- SHR (R392). Logical shift right by the whole unmasked amount. -/
  | bxShr (core : Nat) (f : BxFields)
  /-- SAR (R392). Arithmetic shift right, filling with the sign bit. -/
  | bxSar (core : Nat) (f : BxFields)
  /-- ROL (R392). Rotate left by the amount modulo the width. -/
  | bxRol (core : Nat) (f : BxFields)
  /-- ROR (R392). Rotate right by the amount modulo the width. -/
  | bxRor (core : Nat) (f : BxFields)
  /-- CLZ (R390). Counts leading zeros. -/
  | bxClz (core : Nat) (f : BxFields)
  /-- CTZ (R390). Counts trailing zeros. -/
  | bxCtz (core : Nat) (f : BxFields)
  /-- POPC (R390). Counts set bits. -/
  | bxPopc (core : Nat) (f : BxFields)
  /-- CMP (R390). Sets the flags of rs1 − rs2 and writes no register; a SECRET operand traps. -/
  | bxCmp (core : Nat) (f : BxFields)
  /-- CTEQ (R381). Constant-time equality giving all ones or 0. -/
  | bxCteq (core : Nat) (f : BxFields)
  /-- CTLT (R381). Constant-time less-than giving all ones or 0. -/
  | bxCtlt (core : Nat) (f : BxFields)
  /-- CSEL (R381). Constant-time select of rs1 or rs2 under the rd mask. -/
  | bxCsel (core : Nat) (f : BxFields)
  /-- LD8 (R385). Loads an aligned 8-byte word with its tag. -/
  | bxLd8 (core : Nat) (f : BxFields)
  /-- LD4 (R385). Loads 4 bytes zero-extended, giving the word's tag. -/
  | bxLd4 (core : Nat) (f : BxFields)
  /-- LD4S (R385). Loads 4 bytes sign-extended; with VEC, a first-fault vector load. -/
  | bxLd4s (core : Nat) (f : BxFields)
  /-- LD2 (R385). Loads 2 bytes zero-extended. -/
  | bxLd2 (core : Nat) (f : BxFields)
  /-- LD2S (R385). Loads 2 bytes sign-extended; with VEC, a first-fault vector load. -/
  | bxLd2s (core : Nat) (f : BxFields)
  /-- LD1 (R385). Loads 1 byte zero-extended. -/
  | bxLd1 (core : Nat) (f : BxFields)
  /-- LD1S (R420). Loads 1 byte sign-extended; with VEC, a first-fault vector load that sets VFF. -/
  | bxLd1s (core : Nat) (f : BxFields)
  /-- LEA (R383). Computes an effective address from a PTR base and an index. -/
  | bxLea (core : Nat) (f : BxFields)
  /-- ST8 (R385). Stores an aligned 8-byte word with its tag. -/
  | bxSt8 (core : Nat) (f : BxFields)
  /-- ST4 (R385). Stores 4 bytes under the sub-word tag rules. -/
  | bxSt4 (core : Nat) (f : BxFields)
  /-- ST2 (R385). Stores 2 bytes under the sub-word tag rules. -/
  | bxSt2 (core : Nat) (f : BxFields)
  /-- ST1 (R385). Stores 1 byte under the sub-word tag rules. -/
  | bxSt1 (core : Nat) (f : BxFields)
  /-- PUSH (R397). Decrements DSP and stores the word with its tag, within the stack limits. -/
  | bxPush (core : Nat) (f : BxFields)
  /-- POP (R397). Loads the word with its tag and increments DSP. -/
  | bxPop (core : Nat) (f : BxFields)
  /-- DSADJ (R397). Adjusts DSP within the stack limits. -/
  | bxDsadj (core : Nat) (f : BxFields)
  /-- B (R381). Unconditional relative branch. -/
  | bxB (core : Nat) (f : BxFields)
  /-- BEQ (R381). Branches if Z; SECRET flags trap. -/
  | bxBeq (core : Nat) (f : BxFields)
  /-- BNE (R381). Branches if not Z. -/
  | bxBne (core : Nat) (f : BxFields)
  /-- BLT (R381). Branches if N differs from OV. -/
  | bxBlt (core : Nat) (f : BxFields)
  /-- BGE (R381). Branches if N equals OV. -/
  | bxBge (core : Nat) (f : BxFields)
  /-- BLO (R381). Branches on C, unsigned lower. -/
  | bxBlo (core : Nat) (f : BxFields)
  /-- BHS (R381). Branches on not C, unsigned higher or same. -/
  | bxBhs (core : Nat) (f : BxFields)
  /-- BOV (R381). Branches if OV. -/
  | bxBov (core : Nat) (f : BxFields)
  /-- BDZ (R381). Branches if DZ. -/
  | bxBdz (core : Nat) (f : BxFields)
  /-- CALL (R398). Calls a relative target, pushing the return stack and spilling when full. -/
  | bxCall (core : Nat) (f : BxFields)
  /-- CALLR (R398). Calls a CODE register target. -/
  | bxCallr (core : Nat) (f : BxFields)
  /-- JR (R383). Jumps to a CODE register target. -/
  | bxJr (core : Nat) (f : BxFields)
  /-- RET (R398). Returns through the return stack, refilling from the spill area. -/
  | bxRet (core : Nat) (f : BxFields)
  /-- LEAC (R383). Forms a CODE address. -/
  | bxLeac (core : Nat) (f : BxFields)
  /-- MOV (R383). Copies a register with its tag. -/
  | bxMov (core : Nat) (f : BxFields)
  /-- LI (R384). Loads an immediate as INT. -/
  | bxLi (core : Nat) (f : BxFields)
  /-- LIN (R384). Loads an immediate as NAT. -/
  | bxLin (core : Nat) (f : BxFields)
  /-- LIB (R384). Loads an immediate as BYTES. -/
  | bxLib (core : Nat) (f : BxFields)
  /-- MFS (R375). Reads a special register, waiting for an in-flight unit result. -/
  | bxMfs (core : Nat) (f : BxFields)
  /-- MTS (R375). Writes a special register; PC is refused. -/
  | bxMts (core : Nat) (f : BxFields)
  /-- MUL (R396). Starts a signed multiply whose result lands in MLO and MHI after its latency. -/
  | bxMul (core : Nat) (f : BxFields)
  /-- MULU (R396). Starts an unsigned multiply. -/
  | bxMulu (core : Nat) (f : BxFields)
  /-- DIV (R393). Starts a signed division, with fixed results for zero divisors and overflow. -/
  | bxDiv (core : Nat) (f : BxFields)
  /-- DIVU (R393). Starts an unsigned division. -/
  | bxDivu (core : Nat) (f : BxFields)
  /-- TAGOF (R383). Returns the operand's tag as INT. -/
  | bxTagof (core : Nat) (f : BxFields)
  /-- ASINT (R383). Retags a public value as INT. -/
  | bxAsint (core : Nat) (f : BxFields)
  /-- ASNAT (R383). Retags a value as NAT. -/
  | bxAsnat (core : Nat) (f : BxFields)
  /-- ASBYTES (R383). Retags a public value as BYTES. -/
  | bxAsbytes (core : Nat) (f : BxFields)
  /-- MKPTR (R383). Makes a PTR from a NAT. -/
  | bxMkptr (core : Nat) (f : BxFields)
  /-- MKHANDLE (R383). Makes a HANDLE from a NAT or BYTES value. -/
  | bxMkhandle (core : Nat) (f : BxFields)
  /-- CLASS (R383). Retags a value as SECRET. -/
  | bxClass (core : Nat) (f : BxFields)
  /-- DECLASS (R388). Removes the SECRET tag when the handle's key permits declassification, in 40 cycles. -/
  | bxDeclass (core : Nat) (f : BxFields)
  /-- POISON (R383). Writes a POISON value. -/
  | bxPoison (core : Nat) (f : BxFields)
  /-- RDTIME (R381). Reads the time base as NAT. -/
  | bxRdtime (core : Nat) (f : BxFields)
  /-- QOPEN (R414). Enables a queue of paddock code on yard cells drawn from the quota. -/
  | bxQopen (core : Nat) (f : BxFields)
  /-- QCLOSE (R413). Disables a queue of paddock code. -/
  | bxQclose (core : Nat) (f : BxFields)
  /-- QCTL (R413). Issues CONTINUE, RESUME or FORGET to a queue of paddock code. -/
  | bxQctl (core : Nat) (f : BxFields)
  /-- JSUB (R415). Writes a descriptor at P of a yard ring and advances P. -/
  | bxJsub (core : Nat) (f : BxFields)
  /-- JCPL (R413). Copies an entry's completion if its marker matches. -/
  | bxJcpl (core : Nat) (f : BxFields)
  /-- JSTAT (R413). Returns a queue's P, A, T and state. -/
  | bxJstat (core : Nat) (f : BxFields)
  /-- WAIT (R413). Waits for an entry's marker to match, or for a cycle timeout. -/
  | bxWait (core : Nat) (f : BxFields)
  /-- WAIT_END (R413). A WAIT returns when the marker matches, on timeout, or with NAT 0 on a stop. -/
  | waitEnd (core : Nat) (timeout : Bool)
  /-- FPUT (R412). Pushes one entry into a feed FIFO from Benxis code. -/
  | bxFput (core : Nat) (f : BxFields)
  /-- FSTAT (R413). Returns BX_FEED_STATUS_f. -/
  | bxFstat (core : Nat) (f : BxFields)
  /-- FDROP (R369). Issues DROP on a feed FIFO. -/
  | bxFdrop (core : Nat) (f : BxFields)
  /-- WOPEN (R410). Opens a memory or feed window for the paddock's host functions. -/
  | bxWopen (core : Nat) (f : BxFields)
  /-- WCLOSE (R410). Closes a window. -/
  | bxWclose (core : Nat) (f : BxFields)
  /-- CSTART (R407). Loads and starts another core of the paddock from the caller's memory. -/
  | bxCstart (core : Nat) (f : BxFields)
  /-- CSTOP (R403). Sends a stop request to another core of the paddock. -/
  | bxCstop (core : Nat) (f : BxFields)
  /-- RAND (R413). Returns 8 SECRET bytes from the paddock's DRBG. -/
  | bxRand (core : Nat) (f : BxFields)
  /-- MEXT (R408). Extends a measurement register when the core holds extend rights. -/
  | bxMext (core : Nat) (f : BxFields)
  /-- OP_NOP (R150). A job that passes the gate, reaches no stall and completes ST_OK. -/
  | opNop (seq : Nat) (inp : OpInput)
  /-- OP_ATTEST_QUOTE (R113). Signs a quote of measurement registers and plan state with the identity pair or an attestation key. -/
  | opAttestQuote (seq : Nat) (inp : OpInput)
  /-- OP_MLKEM_KEYGEN (R206). Generates an ML-KEM key, writing the public key and a wrapped seed blob. -/
  | opMlkemKeygen (seq : Nat) (inp : OpInput)
  /-- OP_MLKEM_ENCAPS (R217). Encapsulates to a cached or inline key, inline keys after a fixed validation phase. -/
  | opMlkemEncaps (seq : Nat) (inp : OpInput)
  /-- OP_MLKEM_DECAPS (R216). Decapsulates with implicit rejection. -/
  | opMlkemDecaps (seq : Nat) (inp : OpInput)
  /-- OP_MLDSA_KEYGEN (R206). Generates an ML-DSA key and its wrapped seed blob. -/
  | opMldsaKeygen (seq : Nat) (inp : OpInput)
  /-- OP_MLDSA_SIGN (R219). Signs a formatted message with captured rnd until an attempt succeeds. -/
  | opMldsaSign (seq : Nat) (inp : OpInput)
  /-- OP_MLDSA_VERIFY (R216). Verifies an ML-DSA signature and reports the verdict. -/
  | opMldsaVerify (seq : Nat) (inp : OpInput)
  /-- OP_SLHDSA_KEYGEN (R228). Generates an SLH-DSA key and its blob. -/
  | opSlhdsaKeygen (seq : Nat) (inp : OpInput)
  /-- OP_SLHDSA_SIGN (R233). Signs with SLH-DSA, checkpointing in the s sets. -/
  | opSlhdsaSign (seq : Nat) (inp : OpInput)
  /-- OP_SLHDSA_VERIFY (R230). Verifies an SLH-DSA signature in fixed time. -/
  | opSlhdsaVerify (seq : Nat) (inp : OpInput)
  /-- OP_LMS_KEYGEN (R237). Generates an LMS/HSS key into a stateful slot with its reservation and tree cache. -/
  | opLmsKeygen (seq : Nat) (inp : OpInput)
  /-- OP_LMS_SIGN (R245). Signs with the leaf index in the record. -/
  | opLmsSign (seq : Nat) (inp : OpInput)
  /-- OP_LMS_VERIFY (R250). Verifies an HSS signature. -/
  | opLmsVerify (seq : Nat) (inp : OpInput)
  /-- OP_XMSS_KEYGEN (R237). Generates an XMSS or XMSS^MT key into a stateful slot. -/
  | opXmssKeygen (seq : Nat) (inp : OpInput)
  /-- OP_XMSS_SIGN (R245). Signs with the recorded leaf index. -/
  | opXmssSign (seq : Nat) (inp : OpInput)
  /-- OP_XMSS_VERIFY (R250). Verifies an XMSS or XMSS^MT signature. -/
  | opXmssVerify (seq : Nat) (inp : OpInput)
  /-- OP_HBS_QUERY (R248). Reports a stateful key's leaf state from the record. -/
  | opHbsQuery (seq : Nat) (inp : OpInput)
  /-- OP_MCE_KEYGEN (R266). Generates a Classic McEliece key with checkpointed elimination, streaming the public key. -/
  | opMceKeygen (seq : Nat) (inp : OpInput)
  /-- OP_MCE_ENCAPS (R265). Encapsulates to a McEliece key from a captured seed. -/
  | opMceEncaps (seq : Nat) (inp : OpInput)
  /-- OP_MCE_DECAPS (R264). Decapsulates with implicit rejection in fixed time. -/
  | opMceDecaps (seq : Nat) (inp : OpInput)
  /-- OP_HQC_KEYGEN (R265). Generates an HQC key and its blob. -/
  | opHqcKeygen (seq : Nat) (inp : OpInput)
  /-- OP_HQC_ENCAPS (R263). Encapsulates to an HQC key, inline keys after a validation phase. -/
  | opHqcEncaps (seq : Nat) (inp : OpInput)
  /-- OP_HQC_DECAPS (R264). Decapsulates with implicit rejection. -/
  | opHqcDecaps (seq : Nat) (inp : OpInput)
  /-- OP_PKC_LOAD (R255). Places a verified public key in the paddock's cache and writes its handle. -/
  | opPkcLoad (seq : Nat) (inp : OpInput)
  /-- OP_PKC_EVICT (R259). Evicts a cache entry once no other live record names it. -/
  | opPkcEvict (seq : Nat) (inp : OpInput)
  /-- OP_RSA_KEYGEN (R284). Generates an RSA key from a captured seed, with checkpoints at p and q. -/
  | opRsaKeygen (seq : Nat) (inp : OpInput)
  /-- OP_RSA_SIGN (R278). Signs a digest with PSS or PKCS1-v1_5, blinded and self-checked. -/
  | opRsaSign (seq : Nat) (inp : OpInput)
  /-- OP_RSA_VERIFY (R281). Verifies an RSA signature. -/
  | opRsaVerify (seq : Nat) (inp : OpInput)
  /-- OP_RSA_ENCRYPT (R278). Encrypts with RSA-OAEP. -/
  | opRsaEncrypt (seq : Nat) (inp : OpInput)
  /-- OP_RSA_DECRYPT (R280). Decrypts RSA-OAEP in constant time. -/
  | opRsaDecrypt (seq : Nat) (inp : OpInput)
  /-- OP_ECDSA_KEYGEN (R282). Generates an ECDSA key. -/
  | opEcdsaKeygen (seq : Nat) (inp : OpInput)
  /-- OP_ECDSA_SIGN (R283). Signs with an RFC 6979 nonce, hedged or deterministic. -/
  | opEcdsaSign (seq : Nat) (inp : OpInput)
  /-- OP_ECDSA_VERIFY (R281). Verifies an ECDSA signature. -/
  | opEcdsaVerify (seq : Nat) (inp : OpInput)
  /-- OP_ECDH_KEYGEN (R282). Generates an ECDH key. -/
  | opEcdhKeygen (seq : Nat) (inp : OpInput)
  /-- OP_ECDH_DERIVE (R279). Derives a shared secret with a held key after validating the peer point. -/
  | opEcdhDerive (seq : Nat) (inp : OpInput)
  /-- OP_ECDH_EPHEMERAL (R282). Derives a shared secret with a captured ephemeral scalar. -/
  | opEcdhEphemeral (seq : Nat) (inp : OpInput)
  /-- OP_EDDSA_KEYGEN (R282). Generates an EdDSA key. -/
  | opEddsaKeygen (seq : Nat) (inp : OpInput)
  /-- OP_EDDSA_SIGN (R286). Signs with EdDSA, absorbing pure-mode messages on a hash stall. -/
  | opEddsaSign (seq : Nat) (inp : OpInput)
  /-- OP_EDDSA_VERIFY (R281). Verifies with the cofactored equation. -/
  | opEddsaVerify (seq : Nat) (inp : OpInput)
  /-- OP_XDH_KEYGEN (R282). Generates an X25519 or X448 key. -/
  | opXdhKeygen (seq : Nat) (inp : OpInput)
  /-- OP_XDH_DERIVE (R279). Derives a shared secret after validating the peer u. -/
  | opXdhDerive (seq : Nat) (inp : OpInput)
  /-- OP_XDH_EPHEMERAL (R282). Derives a shared secret with a captured ephemeral scalar. -/
  | opXdhEphemeral (seq : Nat) (inp : OpInput)
  /-- OP_DIGEST (R297). Hashes in0 to out0, a result slot or a measurement-register extend. -/
  | opDigest (seq : Nat) (inp : OpInput)
  /-- OP_HMAC (R294). Computes an HMAC tag. -/
  | opHmac (seq : Nat) (inp : OpInput)
  /-- OP_HMAC_VERIFY (R300). Verifies an HMAC tag in constant time. -/
  | opHmacVerify (seq : Nat) (inp : OpInput)
  /-- OP_KMAC (R294). Computes a KMAC tag. -/
  | opKmac (seq : Nat) (inp : OpInput)
  /-- OP_KMAC_VERIFY (R300). Verifies a KMAC tag in constant time. -/
  | opKmacVerify (seq : Nat) (inp : OpInput)
  /-- OP_CRC (R308). Computes or checks a CRC on a scan engine. -/
  | opCrc (seq : Nat) (inp : OpInput)
  /-- OP_KEY_GENERATE (R337). Generates a key into a slot or a blob. -/
  | opKeyGenerate (seq : Nat) (inp : OpInput)
  /-- OP_KEY_IMPORT (R335). Imports a clear key into a slot or a blob. -/
  | opKeyImport (seq : Nat) (inp : OpInput)
  /-- OP_KEY_UNWRAP (R338). Unwraps an AES-KW or AES-KWP key under a wrapping key. -/
  | opKeyUnwrap (seq : Nat) (inp : OpInput)
  /-- OP_KEY_DERIVE (R329). Derives a child key into a slot. -/
  | opKeyDerive (seq : Nat) (inp : OpInput)
  /-- OP_KEY_EXPORT (R338). Wraps a key out with AES-KW or AES-KWP. -/
  | opKeyExport (seq : Nat) (inp : OpInput)
  /-- OP_BLOB_REGISTER (R340). Registers a wrapped blob and returns its handle. -/
  | opBlobRegister (seq : Nat) (inp : OpInput)
  /-- OP_KEY_RESTRICT (R333). Clears attribute bits of a key. -/
  | opKeyRestrict (seq : Nat) (inp : OpInput)
  /-- OP_KEY_REVOKE (R345). Revokes a key and its descendants in drain or cut mode. -/
  | opKeyRevoke (seq : Nat) (inp : OpInput)
  /-- VDD_AON_POWER_ON (R500). When VDD_AON passes its power-on threshold while PORST_N is already high, cold boot starts 1 ms later as if PORST_N rose. -/
  | vddAonPowerOn (boot : Machine.BootIn)
  /-- PERST_N_DEASSERT (R80). PERST_N rising ends D3cold, releases WAKE_N and lets the link train after a host-interface reset. -/
  | perstNDeassert
  /-- PLL_RELOCK (R442). An unlocked PLL locks again, ending FK_PLL_UNLOCK's live cause and the reset hold handled as R50. -/
  | pllRelock (boot : Machine.BootIn)
  /-- OVERTEMP_END (R442). Die temperature falling below 100 °C releases the step-3 hold of every stall shed and ends FK_OVERTEMP's live cause. -/
  | overtempEnd
  /-- TAMPER_CONDITION_END (R439). A tamper source's condition stops holding, for example a mesh that follows its pattern again, and its TP_LIVE bit clears. -/
  | tamperConditionEnd (source : Nat)
  /-- CHECKER_LOCK (R479). A link-test checker locks after 64 consecutive error-free received bits and starts counting LK_BITS and LK_ERRS. -/
  | checkerLock (link : Nat)
  /-- CHECKER_LOCK_LOST (R479). A locked checker finding 32 or more errors in 256 bits loses lock, sets LK_STAT.lost and stops counting. -/
  | checkerLockLost (link : Nat) (bits : Nat) (errs : Nat)
  /-- DEBUG_HALT (R404). A debug halt in an open session moves a RUNNING Benxis core to HALTED between instructions. -/
  | debugHalt (core : Nat)
  /-- DEBUG_RESUME (R404). Debug resume returns a HALTED core to RUNNING, re-executing the instruction it stopped before. -/
  | debugResume (core : Nat)
  /-- UNIT_RESULT_LAND (R396). A multiply or divide issued earlier lands its result in MLO and MHI, or QUO and REM, after its latency. -/
  | unitResultLand (core : Nat) (divider : Bool)
deriving DecidableEq, Repr

end Sys2Proof
end

