-- ==== Sys2Proof/Config.lean ====
section
/-! DEFINITION. Config.lean: what the manual leaves to a standard or leaves open, as constants with no body.
Nothing can be proved about the value of one of them. -/

namespace Sys2Proof.Config

/-- A value the manual leaves open, or draws from a physical source: the n-th such draw of a run.
Log entry 3. -/
opaque freeValue : Nat → Nat

/-- Output byte `i` of output `which` of an HQC operation, whose algorithm is fixed by an external specification (R251,
R253): algorithm opcode, parameter set, the operand byte strings in order. Log entry 4. -/
opaque cryptoByte : (opcode : Nat) → (paramSet : Nat) → (operands : List Bytes) → (which : Nat) → (i : Nat) → Byte

/-- The P-384 private key that the second half of the identity pair's seeds gives, less 1 and before reduction (R111, R328): the way from the seed is
not given. Log entry 119. -/
opaque identityKey : (seed : Bytes) → Nat

/-- Whether a hybrid Caergeber signature half verifies (R85, R88): context, half (0 ML-DSA-87, 1 ECDSA P-384),
key id, message, signature. Log entry 4. -/
opaque hybridVerify : (context : Bytes) → (half : Nat) → (keyId : Bytes) → (message : Bytes) → (signature : Bytes) → Bool

/-- The number that the low bits of the `i`-th candidate of an RSA prime come from: captured seed, param_set, e, 0 for p and 1 for q, `i`. How the
seed's stream is cut into candidates is not specified (R284). Log entry 4. -/
opaque rsaCandidate : (seed : Bytes) → (paramSet : Nat) → (e : Nat) → (which : Nat) → (i : Nat) → Nat

/-- The number that the base of Miller–Rabin round `k` on a candidate comes from, the candidate named as for `rsaCandidate` (R284). Log entry 4. -/
opaque rsaBase : (seed : Bytes) → (paramSet : Nat) → (e : Nat) → (which : Nat) → (i : Nat) → (k : Nat) → Nat

/-- Byte `i` of SEED ‖ I of a tree below the top of an HSS key, which the part derives in a way not given (R237): key, level, tree. Log entry 4. -/
opaque lowerSeed : (key : Bytes) → (level : Nat) → (tree : Nat) → (i : Nat) → Byte

/-- Byte `i` of the randomizer with which a leaf above the bottom of an HSS key signs the next level's public key (R237, R239): key, level, leaf.
Log entry 4. -/
opaque upperRandomizer : (key : Bytes) → (level : Nat) → (leaf : Nat) → (i : Nat) → Byte

/-- Digest of the Habervo image key fixed in the boot ROM (R85). Log entry 5. -/
opaque habervoImageKeyId : Bytes

/-- Digest of the Habervo provisioning key fixed in the boot ROM (R100). Log entry 5. -/
opaque habervoProvisioningKeyId : Bytes

/-- The microcode builds a system firmware image lists (R86): where the list stands in the image is not given. Log entry 5. -/
opaque firmwareAccepts : (firmware : Bytes) → (kind : Nat) → (build : Nat) → Bool

/-- Whether a device certificate names a public key and a device number (R111): X.509 is an external standard. Log entry 4. -/
opaque certNames : (certificate : Bytes) → (publicKey : Bytes) → (deviceNumber : Nat) → Bool

/-- Bit `step` of the pseudo-random sequence that drives a tamper mesh pair: draw number of the seed, pair (R430). Log entry 3. -/
opaque meshBit : (seed : Nat) → (pair : Nat) → (step : Nat) → Bool

/-- Word `i` of a fault-log or audit-log entry, whose 32-byte layout is not given (R470): log, the entry's fields. Log entry 24. -/
opaque logWord : (log : Nat) → (fields : List Nat) → (i : Nat) → Nat

/-- A read-only status register whose bit positions are not given (CK_ 0 to 3, CR_SCAN_n 4 to 7: chapter 23): register, the conditions it
reports. Log entry 24. -/
opaque statusWord : (register : Nat) → (fields : List Nat) → Nat

/-- The fields of a plan's part section in the order of Table 04.8 and Table 03.9: twin, cap_max, deep_sleep_en, the hold-up
parameters from holdup_cap_uf to guard_uj, drain_ms, pool_map. Where they stand in the section is not given. Log entry 16. -/
opaque partFields : (partSection : Bytes) → List Nat

/-- Policy and idle_us of the stall, Benxis and HLF sheds in the order of Table 03.2, from a plan's shed policy section
(Table 04.8); where they stand is not given. Log entry 16. -/
opaque shedFields : (shedSection : Bytes) → List (Nat × Nat)

/-- Shed, policy and idle_us of each shed a partial plan's shed section changes (R89). Log entry 16. -/
opaque partialSheds : (shedSection : Bytes) → List (Nat × Nat × Nat)

/-- The fields of a plan's twin section in the order of Table 04.12. Log entry 16. -/
opaque twinFields : (twinSection : Bytes) → List Nat

/-- The owner debug-key digest that a plan sets (Table 05.9), by the digest of the plan: no field of Tables 04.8 to 04.12 holds it. Log entry 16. -/
opaque planDebugKey : (planDigest : Bytes) → Bytes

/-- Bits [150:0] of a control-store word (R349): microcode image, address. The layout of a microcode image is not given. Log entry 116. -/
opaque controlWord : (image : Bytes) → (address : Nat) → Nat

/-- The SECDED code over bits [150:0] of a control-store word (Table 16.1), whose matrix is not given. Log entry 116. -/
opaque controlCode : (word : Nat) → Nat

/-- Which input of R350 a value of the cond field selects. Log entry 116. -/
opaque condInput : (cond : Nat) → Nat

/-- The stall opcode that a microcode image maps a descriptor opcode and param_set to (R351). Log entry 116. -/
opaque stallOpcode : (image : Bytes) → (opcode : Nat) → (paramSet : Nat) → Nat

/-- The dispatch-table entry of a stall opcode but for its valid bit (R351). Log entry 116. -/
opaque dispatchEntry : (image : Bytes) → (stallOpcode : Nat) → Nat

/-- Descriptor opcodes and param_sets whose dispatch-table entry a microcode image leaves invalid (R351). Log entry 116. -/
opaque unmapped : (image : Bytes) → List (Nat × Nat)

/-- The cells that a row of a yard bank holds, by their numbers in the bank (Table 20.8). Log entry 22. -/
opaque yardRow : (bank : Nat) → (row : Nat) → List Nat

/-- The 256-byte granules that a row of the public-key cache holds (Table 20.8). Log entry 22. -/
opaque cacheRowGranules : Nat

end Sys2Proof.Config
end

