-- ==== Sys2Proof/Machine/Bytes.lean ====
section
/-! DEFINITION. Bytes.lean: bit fields, little-endian integers (R3, R4), byte slices and CRC-32C (R148). -/

namespace Sys2Proof.Machine

/-- Bits [lo + w − 1 : lo] of a value (R4). -/
def bits (v lo w : Nat) : Nat := (v / 2 ^ lo) % 2 ^ w

/-- Bit `i` of a mask. -/
def hasBit (v i : Nat) : Bool := v.testBit i

/-- A mask with bit `i` set. -/
def setBit (v i : Nat) : Nat := v ||| 2 ^ i

/-- A mask with bit `i` clear. -/
def clearBit (v i : Nat) : Nat := if v.testBit i then v - 2 ^ i else v

/-- How many of bits 0 to n − 1 are set. -/
def countBits (v : Nat) : Nat → Nat
  | 0 => 0
  | n + 1 => countBits v n + (if v.testBit n then 1 else 0)

/-- 1 for true. -/
def b1 (b : Bool) : Nat := if b then 1 else 0

/-- Saturating addition at a field's greatest value. -/
def satAdd (top a b : Nat) : Nat := min top (a + b)

/-- The `n` bytes of an integer, least significant first (R3). -/
def leBytes : Nat → Nat → Bytes
  | 0, _ => []
  | n + 1, v => BitVec.ofNat 8 v :: leBytes n (v / 256)

/-- The integer whose bytes stand least significant first (R3). -/
def leNat : Bytes → Nat
  | [] => 0
  | b :: r => b.toNat + 256 * leNat r

/-- The `n` bytes of an integer, most significant first. -/
def beBytes (n v : Nat) : Bytes := (leBytes n v).reverse

/-- The integer whose bytes stand most significant first. -/
def beNat (b : Bytes) : Nat := leNat b.reverse

/-- `len` bytes from `off`; shorter where the string ends. -/
def slice (b : Bytes) (off len : Nat) : Bytes := (b.drop off).take len

/-- Little-endian fields of a structure held in bytes. -/
def u8 (b : Bytes) (off : Nat) : Nat := leNat (slice b off 1)
def u16 (b : Bytes) (off : Nat) : Nat := leNat (slice b off 2)
def u32 (b : Bytes) (off : Nat) : Nat := leNat (slice b off 4)
def u64 (b : Bytes) (off : Nat) : Nat := leNat (slice b off 8)

/-- Every byte is 0. -/
def allZero (b : Bytes) : Bool := b.all (· == 0#8)

/-- `n` bytes of value 0. -/
def zeros (n : Nat) : Bytes := List.replicate n 0#8

/-- `b` made exactly `n` bytes long, zero-filled at its end. -/
def padTo (n : Nat) (b : Bytes) : Bytes := (b ++ zeros (n - b.length)).take n

/-- `b` with the bytes `d` standing from `off`. -/
def overlay (b : Bytes) (off : Nat) (d : Bytes) : Bytes :=
  padTo off b ++ d ++ b.drop (off + d.length)

/-- The characters of an ASCII string as bytes. -/
def ascii (t : String) : Bytes := t.toList.map (fun c => BitVec.ofNat 8 c.toNat)

/-- Eight steps of a reflected CRC with polynomial `p`. -/
def crcStep (p : Nat) : Nat → Nat → Nat
  | 0, c => c
  | n + 1, c => crcStep p n (if c % 2 = 1 then (c / 2) ^^^ p else c / 2)

/-- A reflected CRC over bytes. -/
def crcRefl (p : Nat) : Nat → Bytes → Nat
  | c, [] => c
  | c, b :: r => crcRefl p (crcStep p 8 (c ^^^ b.toNat)) r

/-- CRC-32C of R148. -/
def crc32c (b : Bytes) : Nat := crcRefl 0x82F63B78 0xFFFFFFFF b ^^^ 0xFFFFFFFF

/-- First `n` bytes of a string given byte by byte. -/
def bytesOf (n : Nat) (f : Nat → Byte) : Bytes := (List.range n).map f

/-- Exclusive or of two strings of one length. -/
def xorBytes (a b : Bytes) : Bytes := List.zipWith (· ^^^ ·) a b

end Sys2Proof.Machine
end

