-- ==== Sys2Proof/Machine/Hash.lean ====
section
/-! DEFINITION. Hash.lean: the digests, MACs and check values of Tables 09.6, 13.1 and 13.6. The manual fixes them by
FIPS 180-4, FIPS 202, FIPS 198-1 and SP 800-185 (R292); log entry 12. -/

namespace Sys2Proof.Machine

/-! ## Keccak (FIPS 202) -/

/-- Round constants of Keccak-f[1600]. -/
def keccakRC : List (BitVec 64) :=
  [0x0000000000000001#64, 0x0000000000008082#64, 0x800000000000808A#64, 0x8000000080008000#64,
   0x000000000000808B#64, 0x0000000080000001#64, 0x8000000080008081#64, 0x8000000000008009#64,
   0x000000000000008A#64, 0x0000000000000088#64, 0x0000000080008009#64, 0x000000008000000A#64,
   0x000000008000808B#64, 0x800000000000008B#64, 0x8000000000008089#64, 0x8000000000008003#64,
   0x8000000000008002#64, 0x8000000000000080#64, 0x000000000000800A#64, 0x800000008000000A#64,
   0x8000000080008081#64, 0x8000000000008080#64, 0x0000000080000001#64, 0x8000000080008008#64]

/-- Rotation of lane x + 5y. -/
def keccakRot : List Nat :=
  [0, 1, 62, 28, 27, 36, 44, 6, 55, 20, 3, 10, 43, 25, 39, 41, 45, 15, 21, 8, 18, 2, 61, 56, 14]

/-- Lane `i` of a state of 25 lanes. -/
def lane (a : List (BitVec 64)) (i : Nat) : BitVec 64 := a.getD i 0#64

/-- One round of Keccak-f[1600]. -/
def keccakRound (a : List (BitVec 64)) (rc : BitVec 64) : List (BitVec 64) :=
  let c := (List.range 5).map fun x => lane a x ^^^ lane a (x + 5) ^^^ lane a (x + 10) ^^^ lane a (x + 15) ^^^ lane a (x + 20)
  let d := (List.range 5).map fun x => lane c ((x + 4) % 5) ^^^ (lane c ((x + 1) % 5)).rotateLeft 1
  let t := (List.range 25).map fun i => lane a i ^^^ lane d (i % 5)
  let b := (List.range 25).map fun i =>
    let x := (i % 5 + 3 * (i / 5)) % 5
    let y := i % 5
    let j := x + 5 * y
    (lane t j).rotateLeft (keccakRot.getD j 0)
  (List.range 25).map fun i =>
    let x := i % 5
    let y := i / 5
    let v := lane b i ^^^ ((~~~ lane b ((x + 1) % 5 + 5 * y)) &&& lane b ((x + 2) % 5 + 5 * y))
    if i = 0 then v ^^^ rc else v

/-- Keccak-f[1600]. -/
def keccakF (a : List (BitVec 64)) : List (BitVec 64) := keccakRC.foldl keccakRound a

/-- Exclusive-or a block into the state. -/
def keccakXorIn (a : List (BitVec 64)) (blk : Bytes) : List (BitVec 64) :=
  (List.range 25).map fun i => lane a i ^^^ BitVec.ofNat 64 (leNat (slice blk (8 * i) 8))

/-- Absorb `n` blocks of `rate` bytes. -/
def keccakAbsorb (rate : Nat) : Nat → List (BitVec 64) → Bytes → List (BitVec 64)
  | 0, a, _ => a
  | n + 1, a, m => keccakAbsorb rate n (keccakF (keccakXorIn a (m.take rate))) (m.drop rate)

/-- The first `rate` bytes of a state. -/
def keccakOut (rate : Nat) (a : List (BitVec 64)) : Bytes := (a.flatMap fun l => leBytes 8 l.toNat).take rate

/-- Squeeze `n` blocks of `rate` bytes. -/
def keccakSqueeze (rate : Nat) : Nat → List (BitVec 64) → Bytes
  | 0, _ => []
  | n + 1, a => keccakOut rate a ++ keccakSqueeze rate n (keccakF a)

/-- The sponge with domain byte `dom`, padded by pad10*1, giving `out` bytes. -/
def keccak (rate dom : Nat) (m : Bytes) (out : Nat) : Bytes :=
  let k := m.length / rate + 1
  let fill := k * rate - m.length
  let tail : Bytes :=
    if fill = 1 then [BitVec.ofNat 8 (dom + 0x80)]
    else BitVec.ofNat 8 dom :: (zeros (fill - 2) ++ [0x80#8])
  let a := keccakAbsorb rate k (List.replicate 25 0#64) (m ++ tail)
  (keccakSqueeze rate ((out + rate - 1) / rate) a).take out

/-- SHA-3 digests and SHAKE (FIPS 202). -/
def sha3_224 (m : Bytes) : Bytes := keccak 144 0x06 m 28
def sha3_256 (m : Bytes) : Bytes := keccak 136 0x06 m 32
def sha3_384 (m : Bytes) : Bytes := keccak 104 0x06 m 48
def sha3_512 (m : Bytes) : Bytes := keccak 72 0x06 m 64
def shake128 (m : Bytes) (n : Nat) : Bytes := keccak 168 0x1F m n
def shake256 (m : Bytes) (n : Nat) : Bytes := keccak 136 0x1F m n

/-! ## KMAC (SP 800-185) -/

/-- Big-endian bytes of a length without leading zero bytes, at least one. -/
def minBytes (v : Nat) : Bytes := beBytes (max 1 ((Nat.log2 v + 8) / 8)) v

/-- left_encode and right_encode of SP 800-185. -/
def leftEncode (v : Nat) : Bytes := BitVec.ofNat 8 (minBytes v).length :: minBytes v
def rightEncode (v : Nat) : Bytes := minBytes v ++ [BitVec.ofNat 8 (minBytes v).length]

/-- encode_string and bytepad of SP 800-185. -/
def encodeString (m : Bytes) : Bytes := leftEncode (8 * m.length) ++ m
def bytepad (m : Bytes) (w : Nat) : Bytes :=
  let z := leftEncode w ++ m
  z ++ zeros ((w - z.length % w) % w)

/-- KMAC with rate `rate`: key, message, output bytes, customisation string. -/
def kmac (rate : Nat) (key m : Bytes) (out : Nat) (cust : Bytes) : Bytes :=
  keccak rate 0x04 (bytepad (encodeString (ascii "KMAC") ++ encodeString cust) rate ++ bytepad (encodeString key) rate ++ m ++
    rightEncode (8 * out)) out

def kmac128 : Bytes → Bytes → Nat → Bytes → Bytes := kmac 168
def kmac256 : Bytes → Bytes → Nat → Bytes → Bytes := kmac 136

/-! ## SHA-2 (FIPS 180-4) -/

/-- The first 80 primes. -/
def primes80 : List Nat := (List.range 410).filter fun n => decide (2 ≤ n) && (List.range n).all fun d => d < 2 || n % d != 0

/-- Integer cube root of `v`, built from bit `n` − 1 downwards. -/
def cbrtBits (v : Nat) : Nat → Nat → Nat
  | 0, r => r
  | n + 1, r => cbrtBits v n (if (r + 2 ^ n) ^ 3 ≤ v then r + 2 ^ n else r)

/-- First 64 bits of the fraction of the cube root and of the square root of a prime. -/
def cbrtFrac (p : Nat) : Nat := cbrtBits (p * 2 ^ 192) 68 0 % 2 ^ 64
def sqrtFrac (p : Nat) : Nat := Nat.sqrt (p * 2 ^ 128) % 2 ^ 64

/-- One of the two SHA-2 shapes: word width, rounds, block bytes, rotations of the four sigma functions. -/
structure Sha2 where
  w : Nat
  rounds : Nat
  s0 : Nat × Nat × Nat
  s1 : Nat × Nat × Nat
  g0 : Nat × Nat × Nat
  g1 : Nat × Nat × Nat

def sha2Small : Sha2 := ⟨32, 64, (2, 13, 22), (6, 11, 25), (7, 18, 3), (17, 19, 10)⟩
def sha2Large : Sha2 := ⟨64, 80, (28, 34, 39), (14, 18, 41), (1, 8, 7), (19, 61, 6)⟩

/-- Cube-root fractions of the first primes. -/
def cbrtTable : List Nat := primes80.map cbrtFrac

/-- Round constants: the cube-root fractions, cut to the word width. -/
def sha2K (h : Sha2) : List (BitVec h.w) := (cbrtTable.take h.rounds).map fun x => BitVec.ofNat h.w (x / 2 ^ (64 - h.w))

def bigSigma (w : Nat) (r : Nat × Nat × Nat) (x : BitVec w) : BitVec w :=
  x.rotateRight r.1 ^^^ x.rotateRight r.2.1 ^^^ x.rotateRight r.2.2
def smallSigma (w : Nat) (r : Nat × Nat × Nat) (x : BitVec w) : BitVec w :=
  x.rotateRight r.1 ^^^ x.rotateRight r.2.1 ^^^ (x >>> r.2.2)

/-- The message schedule, newest word first, extended by `n` words. -/
def sha2Sched (h : Sha2) : Nat → List (BitVec h.w) → List (BitVec h.w)
  | 0, l => l
  | n + 1, l =>
    let at' := fun i => l.getD i 0
    sha2Sched h n ((smallSigma h.w h.g1 (at' 1) + at' 6 + smallSigma h.w h.g0 (at' 14) + at' 15) :: l)

/-- One round: state a to h, constant plus schedule word. -/
def sha2Round (h : Sha2) (v : List (BitVec h.w)) (kw : BitVec h.w) : List (BitVec h.w) :=
  let g := fun i => v.getD i 0
  let t1 := g 7 + bigSigma h.w h.s1 (g 4) + ((g 4 &&& g 5) ^^^ ((~~~ g 4) &&& g 6)) + kw
  let t2 := bigSigma h.w h.s0 (g 0) + ((g 0 &&& g 1) ^^^ (g 0 &&& g 2) ^^^ (g 1 &&& g 2))
  [t1 + t2, g 0, g 1, g 2, g 3 + t1, g 4, g 5, g 6]

/-- Compress `n` blocks. -/
def sha2Blocks (h : Sha2) (ks : List (BitVec h.w)) : Nat → List (BitVec h.w) → Bytes → List (BitVec h.w)
  | 0, v, _ => v
  | n + 1, v, m =>
    let bw := h.w / 8
    let first := (List.range 16).map fun i => BitVec.ofNat h.w (beNat (slice m (i * bw) bw))
    let ws := (sha2Sched h (h.rounds - 16) first.reverse).reverse
    let v' := (List.zipWith (· + ·) ks ws).foldl (sha2Round h) v
    sha2Blocks h ks n (List.zipWith (· + ·) v v') (m.drop (16 * bw))

/-- SHA-2 from an initial state, cut to `out` bytes. -/
def sha2 (h : Sha2) (iv : List Nat) (m : Bytes) (out : Nat) : Bytes :=
  let blk := 2 * h.w
  let lenBytes := h.w / 4
  let n := (m.length + 1 + lenBytes + blk - 1) / blk
  let msg := m ++ [0x80#8] ++ zeros (n * blk - m.length - 1 - lenBytes) ++ beBytes lenBytes (8 * m.length)
  let v := sha2Blocks h (sha2K h) n (iv.map (BitVec.ofNat h.w)) msg
  (v.flatMap fun x => beBytes (h.w / 8) x.toNat).take out

def iv256 : List Nat := (primes80.take 8).map fun p => sqrtFrac p / 2 ^ 32
def iv224 : List Nat := ((primes80.drop 8).take 8).map fun p => sqrtFrac p % 2 ^ 32
def iv512 : List Nat := (primes80.take 8).map sqrtFrac
def iv384 : List Nat := ((primes80.drop 8).take 8).map sqrtFrac
/-- Initial state of SHA-512/t. -/
def iv512t (name : String) : List Nat :=
  let d := sha2 sha2Large (iv512.map fun x => x ^^^ 0xA5A5A5A5A5A5A5A5) (ascii name) 64
  (List.range 8).map fun i => beNat (slice d (8 * i) 8)

def sha224 (m : Bytes) : Bytes := sha2 sha2Small iv224 m 28
def sha256 (m : Bytes) : Bytes := sha2 sha2Small iv256 m 32
def sha384 (m : Bytes) : Bytes := sha2 sha2Large iv384 m 48
def sha512 (m : Bytes) : Bytes := sha2 sha2Large iv512 m 64
def sha512_224 (m : Bytes) : Bytes := sha2 sha2Large (iv512t "SHA-512/224") m 28
def sha512_256 (m : Bytes) : Bytes := sha2 sha2Large (iv512t "SHA-512/256") m 32

/-! ## Digests by ph_id (Table 09.6), HMAC (FIPS 198-1) -/

/-- Digest length in bytes of a ph_id of Table 09.6. -/
def phLen (ph : Nat) : Nat :=
  match ph with
  | 1 => 32 | 2 => 48 | 3 => 64 | 4 => 28 | 5 => 28 | 6 => 32 | 7 => 28 | 8 => 32 | 9 => 48 | 10 => 64 | 11 => 32 | 12 => 64
  | _ => 0

/-- Block length in bytes of the hash of a ph_id (Table 13.7). -/
def phBlock (ph : Nat) : Nat :=
  match ph with
  | 1 => 64 | 2 => 128 | 3 => 128 | 4 => 64 | 5 => 128 | 6 => 128 | 7 => 144 | 8 => 136 | 9 => 104 | 10 => 72 | 11 => 168
  | _ => 136

/-- The digest of a ph_id of Table 09.6; `n` is the output length of the two SHAKEs. -/
def digestOf (ph : Nat) (m : Bytes) (n : Nat) : Bytes :=
  match ph with
  | 1 => sha256 m | 2 => sha384 m | 3 => sha512 m | 4 => sha224 m | 5 => sha512_224 m | 6 => sha512_256 m
  | 7 => sha3_224 m | 8 => sha3_256 m | 9 => sha3_384 m | 10 => sha3_512 m
  | 11 => shake128 m n
  | _ => shake256 m n

/-- HMAC with the hash of a ph_id (FIPS 198-1). -/
def hmac (ph : Nat) (key m : Bytes) : Bytes :=
  let h := fun x => digestOf ph x (phLen ph)
  let b := phBlock ph
  let k := padTo b (if b < key.length then h key else key)
  h (k.map (· ^^^ 0x5C#8) ++ h (k.map (· ^^^ 0x36#8) ++ m))

/-! ## Check values (Table 13.6) -/

/-- One CRC of Table 13.6; a reflected CRC holds its polynomial bit-reversed. -/
structure CrcParam where
  width : Nat
  poly : Nat
  init : Nat
  reflected : Bool
  xorout : Nat

/-- The rows of Table 13.6 by param_set. -/
def crcParam (ps : Nat) : Option CrcParam :=
  match ps with
  | 1 => some ⟨4, 0xEDB88320, 0xFFFFFFFF, true, 0xFFFFFFFF⟩
  | 2 => some ⟨4, 0x82F63B78, 0xFFFFFFFF, true, 0xFFFFFFFF⟩
  | 3 => some ⟨2, 0x1021, 0xFFFF, false, 0⟩
  | 4 => some ⟨8, 0xC96C5795D7870F42, 0xFFFFFFFFFFFFFFFF, true, 0xFFFFFFFFFFFFFFFF⟩
  | _ => none

/-- Eight steps of an unreflected CRC of `w` bits. -/
def crcStepMsb (w p : Nat) : Nat → Nat → Nat
  | 0, c => c
  | n + 1, c => crcStepMsb w p n (if c.testBit (w - 1) then ((c * 2) % 2 ^ w) ^^^ p else (c * 2) % 2 ^ w)

/-- An unreflected CRC over bytes. -/
def crcMsb (w p : Nat) : Nat → Bytes → Nat
  | c, [] => c
  | c, b :: r => crcMsb w p (crcStepMsb w p 8 (c ^^^ (b.toNat * 2 ^ (w - 8)))) r

/-- R308: the value of a CRC over `m`, from its init or continued from `prior`. -/
def crcValue (q : CrcParam) (cont : Bool) (prior : Nat) (m : Bytes) : Nat :=
  let start := if cont then prior ^^^ q.xorout else q.init
  (if q.reflected then crcRefl q.poly start m else crcMsb (8 * q.width) q.poly start m) ^^^ q.xorout

end Sys2Proof.Machine
end

