-- ==== Sys2Proof/Machine/State.lean ====
section
/-! DEFINITION. State.lean: the whole state of the part as plain data, the reasons a step can stop, and the state right
after cold reset. -/

namespace Sys2Proof.Machine

/-- Why a command faults. No command of this part does: the manual describes no stop of the part in which a command has
no effect it states, and a write it does not allow has no effect (R8). -/
inductive Fault where
  /-- Raised by no command; safe. -/
  | never
deriving DecidableEq, Repr

/-- Why a command is refused. -/
inductive Refusal where
  /-- Raised by an arm of `exec` whose command has no meaning yet; safe. -/
  | notModelled (mnemonic : String)
deriving DecidableEq, Repr

/-- The state of the part. -/
structure State where
  /-- 64 bits, ns. The time base (R26). Reset 0 (Table 04.4 step 1 restores it; DESIGN CHOICE, log 6) -/
  time : Nat := 0
  /-- System block, pins and boot (chapters 02, 04) -/
  sys : Sys := {}
  /-- The plan in force (chapter 04) -/
  plan : Plan := {}
  /-- PL_ registers and the plan change in progress (chapter 04) -/
  pl : PlanCtl := {}
  /-- Life cycle and ledger (chapter 05) -/
  lc : LifeCycle := {}
  /-- Debug authorisation (chapter 05) -/
  dbg : Debug := {}
  /-- Energy planner, sheds, hold-up (chapter 03) -/
  en : Energy := {}
  /-- The PCIe port (chapter 06) -/
  port : Port := {}
  /-- Functions: 0 the PF, n the VF n (chapter 06) -/
  fns : SMap Fn := []
  /-- Hardware queues by number (chapter 07) -/
  queues : SMap Queue := []
  /-- Paddock run-time state by number (chapters 08, 13, 14) -/
  pads : SMap Pad := []
  /-- Acceptance records with their jobs, in acceptance order (chapter 08) -/
  jobs : List Job := []
  /-- Journal block and gate (chapter 08) -/
  jn : Journal := {}
  /-- Stalls by source id: lattice 0 to 23, hash 24 to 39, PKE 40 to 47, code 48 to 51 (chapters 01, 16) -/
  stalls : SMap Stall := []
  /-- The yard's lists; a cell on none of them and not retired is free, and zero (R361). Reset none -/
  yard : List YardList := []
  /-- Cells of the yard that are retired (R364). Reset none -/
  yardRetired : List Nat := []
  /-- Public-key cache by paddock × 2^32 + index (chapter 11) -/
  cache : SMap CacheEntry := []
  /-- Tack room (chapter 15) -/
  tk : Tack := {}
  /-- Random source (chapter 14) -/
  rng : Rng := {}
  /-- Benxis application cores by number (chapters 17, 18) -/
  cores : SMap Core := []
  /-- Feed FIFOs by paddock × 16 + f (chapter 16) -/
  feeds : SMap Feed := []
  /-- Fault collector and farrier (chapter 20) -/
  fc : Faults := {}
  /-- Tamper monitor (chapter 19) -/
  tp : Tamper := {}
  /-- Hayloft (chapter 21) -/
  hl : Hayloft := {}
  /-- Tether and twin (chapters 08, 22) -/
  tt : Tether := {}
  /-- Link tests (chapter 22) -/
  lk : Links := {}
  /-- Scan engines of CR_SCAN_n (chapter 13) -/
  scans : SMap Scan := []
  /-- Writes and messages the part has issued, oldest first (R125, R131). Reset empty -/
  out : List Emission := []
  /-- The model's own: draws of `Config.freeValue` made so far. Reset 0 (DESIGN CHOICE, log 3) -/
  freeCtr : Nat := 0
  /-- The commands waiting, first in first out. Reset empty -/
  pending : List Instr := []
deriving DecidableEq, Repr

/-- State slot 0 of an untested die: RAW, sequence number 0, with the CRC and the codeword of Tables 05.6, 05.7 (log entry 7). -/
def rawSlot : LedgerSlot :=
  { seq := 0, epoch := 0, state := 0, ownerDigest := List.replicate 48 0#8, tokenDigest := List.replicate 48 0#8, crc := 0x68F906FB,
    reserved := List.replicate 7 0#8, reserved2 := List.replicate 12 0#8, codeword := 0xA5A55A5A5A5AA5A5A5A55A5A5A5AA5A5A5A55A5A5A5AA5A5A5A55A5A5A5AA5A5 }

/-- The part held in cold reset by PORST_N (R76): every register at the reset value of its table. -/
def State.reset : State :=
  { time := 0, sys := {}, plan := {}, pl := {}, lc := { slots := [(0, rawSlot)] }, dbg := {}, en := {}, port := {}, fns := [], queues := [],
    pads := [], jobs := [], jn := {}, stalls := [], yard := [], yardRetired := [], cache := [], tk := {}, rng := {}, cores := [], feeds := [],
    fc := {}, tp := {}, hl := {}, tt := {}, lk := {}, scans := [], out := [], freeCtr := 0,
    pending := [] }

end Sys2Proof.Machine
end

