-- ==== Sys2Proof/Machine/OpTable.lean ====
section
/-! DEFINITION. OpTable.lean: the operation tables of chapters 05 and 09 to 15: algorithms, operand sizes, descriptor fields,
legal lengths and inline values, captured values, yard floors, and the stall kind each job runs on. -/

namespace Sys2Proof.Machine

/-! ## The descriptor (Table 07.4) -/

/-- The fields of a descriptor held in 128 bytes. -/
def parseDesc (b : Bytes) : Desc :=
  { opcode := u16 b 0x00, flags := u8 b 0x02, version := u8 b 0x03, tag := u32 b 0x04, keyRef := u64 b 0x08,
    in0Addr := u64 b 0x10, in0Len := u32 b 0x18, in1Len := u32 b 0x1C, in1Addr := u64 b 0x20, out0Addr := u64 b 0x28,
    out0Cap := u32 b 0x30, out1Cap := u32 b 0x34, out1Addr := u64 b 0x38, inline := slice b 0x40 32,
    extAddr := u64 b 0x60, extLen := u32 b 0x68, paramSet := u16 b 0x6C, crc := u32 b 0x70 }

/-- Inline byte, u16, u32 and u64 at a descriptor offset from 0x40. -/
def inl8 (d : Desc) (off : Nat) : Nat := u8 d.inline (off - 0x40)
def inl16 (d : Desc) (off : Nat) : Nat := u16 d.inline (off - 0x40)
def inl32 (d : Desc) (off : Nat) : Nat := u32 d.inline (off - 0x40)
def inl64 (d : Desc) (off : Nat) : Nat := u64 d.inline (off - 0x40)

/-! ## Opcodes -/

/-- Every opcode of the operation chapters (Tables 09.2, 10.3, 11.2, 12.2, 13.1, 15.6; R113, R150). -/
def opcodes : List Nat :=
  [0x0000, 0x0E10, 0x0100, 0x0101, 0x0102, 0x0110, 0x0111, 0x0112, 0x0200, 0x0201, 0x0202, 0x0210, 0x0211, 0x0212,
   0x0220, 0x0221, 0x0222, 0x0230, 0x0300, 0x0301, 0x0302, 0x0310, 0x0311, 0x0312, 0x0E00, 0x0E01] ++
  [0x0400, 0x0401, 0x0402, 0x0403, 0x0404, 0x0410, 0x0411, 0x0412, 0x0418, 0x0419, 0x041A, 0x0420, 0x0421, 0x0422,
   0x0428, 0x0429, 0x042A, 0x0500, 0x0510, 0x0511, 0x0518, 0x0519, 0x0520] ++
  [0x0F00, 0x0F01, 0x0F02, 0x0F03, 0x0F04, 0x0F05, 0x0F06, 0x0F07]

/-! ## Algorithms -/

/-- The stateful param_set codes of Table 10.2: family 0 LMS/HSS, 1 XMSS; the algorithm number where the code is defined. -/
def statefulAlg (xmss : Bool) (ps : Nat) : Option Nat :=
  let h := bits ps 12 4
  let d := bits ps 8 4
  let t := bits ps 0 8
  if h < 1 || 4 < h then none
  else if !xmss then if 1 ≤ d ∧ d ≤ 8 ∧ t = 0 then some (39 + h) else none
  else if d = 1 then if t ∈ [10, 16, 20] then some (43 + h) else none
  else if (t, d) ∈ [(20, 2), (20, 4), (40, 2), (40, 4), (40, 8), (60, 3), (60, 6), (60, 12)] then some (47 + h) else none

/-- `base + ps` for a param_set from 1 to `n`. -/
def algFrom (base n ps : Nat) : Option Nat := if 1 ≤ ps ∧ ps ≤ n then some (base + ps) else none

/-- param_set of an RSA modulus (Table 12.1). -/
def rsaSet (ps : Nat) : Bool := decide (0x20 ≤ ps) && decide (ps ≤ 0x40)

/-- The param_sets that an algorithm's own chapter defines (Tables 09.1, 10.1, 10.2, 11.1, 12.1, 13.1). -/
def algHasSet (alg ps : Nat) : Bool :=
  if 16 ≤ alg ∧ alg ≤ 18 then ps + 15 == alg
  else if 20 ≤ alg ∧ alg ≤ 22 then ps + 19 == alg
  else if 24 ≤ alg ∧ alg ≤ 35 then ps + 23 == alg
  else if 40 ≤ alg ∧ alg ≤ 43 then statefulAlg false ps == some alg
  else if 44 ≤ alg ∧ alg ≤ 51 then statefulAlg true ps == some alg
  else if 56 ≤ alg ∧ alg ≤ 65 then ps + 55 == alg
  else if 68 ≤ alg ∧ alg ≤ 70 then ps + 67 == alg
  else if 72 ≤ alg ∧ alg ≤ 74 then rsaSet ps
  else if 76 ≤ alg ∧ alg ≤ 78 then ps + 75 == alg
  else if 80 ≤ alg ∧ alg ≤ 82 then ps + 79 == alg
  else if 84 ≤ alg ∧ alg ≤ 85 then ps + 83 == alg
  else if 86 ≤ alg ∧ alg ≤ 87 then ps + 85 == alg
  else if alg = 88 then 1 ≤ ps ∧ ps ≤ 6
  else if alg = 89 then 7 ≤ ps ∧ ps ≤ 12
  else if alg = 90 then 1 ≤ ps ∧ ps ≤ 10
  else if alg = 91 then 1 ≤ ps ∧ ps ≤ 2
  else if alg = 92 then 1 ≤ ps ∧ ps ≤ 4
  else false

/-- An algorithm number of an operation chapter. -/
def algKnown (alg : Nat) : Bool :=
  (16 ≤ alg ∧ alg ≤ 18) || (20 ≤ alg ∧ alg ≤ 22) || (24 ≤ alg ∧ alg ≤ 35) || (40 ≤ alg ∧ alg ≤ 51) ||
  (56 ≤ alg ∧ alg ≤ 65) || (68 ≤ alg ∧ alg ≤ 70) || (72 ≤ alg ∧ alg ≤ 74) || (76 ≤ alg ∧ alg ≤ 78) ||
  (80 ≤ alg ∧ alg ≤ 82) || (84 ≤ alg ∧ alg ≤ 92)

/-- Algorithms whose public keys OP_PKC_LOAD takes (R255, Table 12.1). -/
def algCacheable (alg : Nat) : Bool :=
  algKnown alg && !(80 ≤ alg && alg ≤ 82) && !(86 ≤ alg && alg ≤ 92)

/-- The algorithm a descriptor names, where its param_set is defined for the opcode; an opcode without an algorithm gives 0.
OP_PKC_LOAD and OP_RSA_KEYGEN name it inline (R255, Table 12.5). -/
def algOf (d : Desc) : Option Nat :=
  let ps := d.paramSet
  match d.opcode with
  | 0x0100 | 0x0101 | 0x0102 => algFrom 15 3 ps
  | 0x0110 | 0x0111 | 0x0112 => algFrom 19 3 ps
  | 0x0200 | 0x0201 | 0x0202 => algFrom 23 12 ps
  | 0x0210 | 0x0211 | 0x0212 => statefulAlg false ps
  | 0x0220 | 0x0221 | 0x0222 => statefulAlg true ps
  | 0x0230 => (statefulAlg false ps).or (statefulAlg true ps)
  | 0x0300 | 0x0301 | 0x0302 => algFrom 55 10 ps
  | 0x0310 | 0x0311 | 0x0312 => algFrom 67 3 ps
  | 0x0E00 => if algHasSet (inl16 d 0x40) ps then some (inl16 d 0x40) else none
  | 0x0400 => if rsaSet ps then some (inl8 d 0x44) else none
  | 0x0401 | 0x0402 => if rsaSet ps then some (72 + inl8 d 0x40) else none
  | 0x0403 | 0x0404 => if rsaSet ps then some 74 else none
  | 0x0410 | 0x0411 | 0x0412 => algFrom 75 3 ps
  | 0x0418 | 0x0419 | 0x041A => algFrom 79 3 ps
  | 0x0420 | 0x0421 | 0x0422 => algFrom 83 2 ps
  | 0x0428 | 0x0429 | 0x042A => algFrom 85 2 ps
  | 0x0500 => if 1 ≤ ps ∧ ps ≤ 6 then some 88 else if 7 ≤ ps ∧ ps ≤ 12 then some 89 else none
  | 0x0510 | 0x0511 => if 1 ≤ ps ∧ ps ≤ 10 then some 90 else none
  | 0x0518 | 0x0519 => if 1 ≤ ps ∧ ps ≤ 2 then some 91 else none
  | 0x0520 => if 1 ≤ ps ∧ ps ≤ 4 then some 92 else none
  | 0x0F00 | 0x0F01 | 0x0F02 | 0x0F03 =>
    let a := inl8 d 0x4D
    if algKnown a then (if algHasSet a ps then some 0 else none) else if ps = 0 then some 0 else none
  | _ => if ps = 0 then some 0 else none

/-- Opcodes a paddock may use whatever its permit_map (R113, R150, R259, R334): their descriptor passes the permit check. -/
def permitFree (op : Nat) : Bool := op == 0x0000 || op == 0x0E01 || op == 0x0E10 || (0x0F00 ≤ op && op ≤ 0x0F07)

/-! ## Sizes -/

/-- Round up to a multiple of 256. -/
def ceil256 (n : Nat) : Nat := (n + 255) / 256 * 256

/-- n of an SLH-DSA param_set and its signature size (Table 10.4). -/
def slhN (ps : Nat) : Nat := if ps ≤ 4 then 16 else if ps ≤ 8 then 24 else 32
def slhSig (ps : Nat) : Nat :=
  match (ps - 1) / 2 with | 0 => 7856 | 1 => 17088 | 2 => 16224 | 3 => 35664 | 4 => 29792 | _ => 49856

/-- n of a stateful param_set (Table 10.2). -/
def hbsN (ps : Nat) : Nat := if bits ps 12 4 ∈ [1, 3] then 32 else 24

/-- Public-key size in bytes (Tables 09.3, 10.4, 10.8, 11.3, 12.3). -/
def pkSize (alg ps : Nat) : Nat :=
  match alg with
  | 16 => 800 | 17 => 1184 | 18 => 1568 | 20 => 1312 | 21 => 1952 | 22 => 2592
  | 56 | 57 => 261120 | 58 | 59 => 524160 | 60 | 61 => 1044992 | 62 | 63 => 1047319 | 64 | 65 => 1357824
  | 68 => 2241 | 69 => 4514 | 70 => 7237
  | 76 | 80 => 65 | 77 | 81 => 97 | 78 | 82 => 133 | 84 => 32 | 85 => 57 | 86 => 32 | 87 => 56
  | _ =>
    if 24 ≤ alg ∧ alg ≤ 35 then 2 * slhN ps
    else if 40 ≤ alg ∧ alg ≤ 43 then 28 + hbsN ps
    else if 44 ≤ alg ∧ alg ≤ 51 then 4 + 2 * hbsN ps
    else if 72 ≤ alg ∧ alg ≤ 74 then 8 * ps + 4
    else 0

/-- LM-OTS chain count (R238). -/
def lmsP (n w : Nat) : Nat :=
  if n = 32 then (match w with | 1 => 265 | 2 => 133 | 4 => 67 | _ => 34)
  else (match w with | 1 => 200 | 2 => 101 | 4 => 51 | _ => 26)

/-- Height and Winternitz width of a level code (Table 10.7). -/
def levelH (c : Byte) : Nat := 5 * bits c.toNat 4 4
def levelW (c : Byte) : Nat := bits c.toNat 0 4

/-- HSS signature size over the levels from the top (Table 10.8). -/
def hssSigLevels (n : Nat) : List Byte → Nat
  | [] => 0
  | [c] => 12 + n * (lmsP n (levelW c) + 1 + levelH c)
  | c :: r => 12 + n * (lmsP n (levelW c) + 1 + levelH c) + 24 + n + hssSigLevels n r

/-- Signature size of a stateful key (Table 10.8). -/
def hbsSig (alg ps : Nat) (levels : Bytes) : Nat :=
  let n := hbsN ps
  let h := bits ps 0 8
  let len := if n = 32 then 67 else 51
  if alg ≤ 43 then 4 + hssSigLevels n (levels.take (bits ps 8 4))
  else if alg ≤ 47 then 4 + n + len * n + h * n
  else (h + 7) / 8 + n + bits ps 8 4 * len * n + h * n

/-- Total leaves of a stateful key (R241). -/
def hbsTotal (alg ps : Nat) (levels : Bytes) : Nat :=
  if alg ≤ 43 then 2 ^ ((levels.take (bits ps 8 4)).map levelH).sum else 2 ^ bits ps 0 8

/-- Heights of the levels or layers of a stateful key. -/
def hbsHeights (alg ps : Nat) (levels : Bytes) : List Nat :=
  if alg ≤ 43 then (levels.take (bits ps 8 4)).map levelH
  else List.replicate (bits ps 8 4) (bits ps 0 8 / bits ps 8 4)

/-- Occupancy of a stateful key's tree cache (R240). -/
def treeSize (alg ps : Nat) (levels : Bytes) : Nat :=
  ceil256 ((hbsHeights alg ps levels).map fun h => 3 * 2 ^ ((h + 1) / 2 + 1) * hbsN ps).sum

/-- Signature size of a stateless algorithm (Tables 09.3, 10.4, 12.3). -/
def sigSize (alg ps : Nat) : Nat :=
  match alg with
  | 20 => 2420 | 21 => 3309 | 22 => 4627 | 76 => 64 | 77 => 96 | 78 => 132 | 84 => 64 | 85 => 114
  | _ => if 24 ≤ alg ∧ alg ≤ 35 then slhSig ps else if 72 ≤ alg ∧ alg ≤ 74 then 8 * ps else 0

/-- Ciphertext size (Tables 09.3, 11.3, 12.3). -/
def ctSize (alg ps : Nat) : Nat :=
  match alg with
  | 16 => 768 | 17 => 1088 | 18 => 1568
  | 56 | 57 => 96 | 58 | 59 => 156 | 60 | 61 => 208 | 62 | 63 => 194 | 64 | 65 => 208
  | 68 => 4433 | 69 => 8978 | 70 => 14421
  | _ => if alg = 74 then 8 * ps else 0

/-- Shared-secret size (Tables 09.3, 11.3, 12.3). -/
def ssSize (alg : Nat) : Nat :=
  match alg with | 80 => 32 | 81 => 48 | 82 => 66 | 86 => 32 | 87 => 56 | _ => 32

/-- Length of the private key as held (Tables 09.3, 10.4, 11.3, 12.3). -/
def heldLen (alg ps : Nat) : Nat :=
  match alg with
  | 16 | 17 | 18 => 64 | 20 | 21 | 22 => 32
  | 68 | 69 | 70 => 32 | 76 | 80 => 32 | 77 | 81 => 48 | 78 | 82 => 66 | 84 => 32 | 85 => 57 | 86 => 32 | 87 => 56
  | _ =>
    if 24 ≤ alg ∧ alg ≤ 35 then 4 * slhN ps
    else if 56 ≤ alg ∧ alg ≤ 65 then 40
    else if 72 ≤ alg ∧ alg ≤ 74 then 20 * ps + 8
    else 0

/-- Cache occupancy of a public key: key and 64-byte header, R² mod n beside an RSA key (R204, R253, R274). -/
def cacheOcc (alg ps : Nat) : Nat :=
  if 72 ≤ alg ∧ alg ≤ 74 then ceil256 (64 + 16 * ps + 4) else ceil256 (64 + pkSize alg ps)

/-- Width of the group order and of the field (R282). -/
def ordWidth (alg : Nat) : Nat := match alg with | 76 | 80 => 32 | 77 | 81 => 48 | 78 | 82 => 66 | 84 => 32 | 86 => 32 | 85 => 57 | _ => 56
def fieldWidth (alg : Nat) : Nat := match alg with | 76 | 80 => 32 | 77 | 81 => 48 | 78 | 82 => 66 | 84 => 32 | 86 => 32 | _ => 56

/-! ## Fields used (Tables 09.4, 10.9, 11.4, 12.4, 13.2, 15.7; R113, R150) -/

/-- Which descriptor fields an opcode uses; `inl` is how many inline bytes from 0x40. -/
structure Fields where
  key : Bool := false
  in0 : Bool := false
  in1 : Bool := false
  out0 : Bool := false
  out1 : Bool := false
  ext : Bool := false
  inl : Nat := 0
  /-- param_set is used -/
  set : Bool := true
deriving DecidableEq, Repr

/-- The fields of a descriptor's opcode, which may depend on its key_ref and mode (R211, R262, R294, R336). -/
def fieldsOf (d : Desc) : Fields :=
  let gen : Fields := { key := true, out0 := true, out1 := true }
  let encaps : Fields := { key := true, in0 := d.keyRef == 0, out0 := true, out1 := true }
  let decaps : Fields := { key := true, in0 := true, out0 := true }
  let sign4 : Fields := { key := true, in0 := true, out0 := true, inl := 4 }
  let vrfy4 : Fields := { key := true, in0 := true, in1 := true, inl := 4 }
  match d.opcode with
  | 0x0000 => { set := false }
  | 0x0100 | 0x0110 | 0x0200 | 0x0300 | 0x0310 | 0x0410 | 0x0418 | 0x0420 | 0x0428 => gen
  | 0x0101 | 0x0301 | 0x0311 => encaps
  | 0x0102 | 0x0302 | 0x0312 | 0x0419 | 0x0429 => decaps
  | 0x0111 | 0x0201 | 0x0421 => { sign4 with ext := true }
  | 0x0112 | 0x0202 | 0x0422 => { vrfy4 with ext := true }
  | 0x0210 | 0x0220 => { key := true, out0 := true, inl := 16 }
  | 0x0211 | 0x0221 => decaps
  | 0x0212 | 0x0222 => { key := true, in0 := true, in1 := true, ext := true }
  | 0x0230 => { key := true, out0 := true }
  | 0x0E00 => { in0 := true, out0 := true, inl := 4 }
  | 0x0E01 => { key := true, set := false }
  | 0x0E10 => { gen with in0 := true, inl := 4, set := false }
  | 0x0400 => { gen with inl := 8 }
  | 0x0401 | 0x0404 | 0x0411 => sign4
  | 0x0402 | 0x0412 => vrfy4
  | 0x0403 => { vrfy4 with out0 := true }
  | 0x041A | 0x042A => { in0 := true, out0 := true, out1 := true }
  | 0x0500 => { in0 := true, out0 := inl8 d 0x40 == 0, inl := 8 }
  | 0x0510 => { key := true, in0 := true, out0 := true, inl := 8 }
  | 0x0518 => { key := true, in0 := true, out0 := true, inl := 8, ext := true }
  | 0x0511 => { key := true, in0 := true, in1 := true, inl := 8 }
  | 0x0519 => { key := true, in0 := true, in1 := true, inl := 8, ext := true }
  | 0x0520 => { in0 := true, out0 := inl8 d 0x40 == 0, inl := 24 }
  | 0x0F00 => { key := inl32 d 0x48 == 0xFFFFFFFF, out0 := true, inl := 16 }
  | 0x0F01 => { key := inl32 d 0x48 == 0xFFFFFFFF, in0 := true, out0 := true, inl := 16 }
  | 0x0F02 | 0x0F03 => { key := true, in0 := true, out0 := true, inl := 16 }
  | 0x0F04 => { key := true, out0 := true, inl := 8 }
  | 0x0F05 => { key := true, in0 := true, out0 := true }
  | 0x0F06 => { key := true, inl := 8 }
  | 0x0F07 => { key := true, inl := 4 }
  | _ => {}

/-- Length in bytes of a record's residue before its trailing u64 (R178; residue columns of the tables of fields). The unused
out0 fields of R294 stay in the residue. -/
def residueLen (d : Desc) : Nat :=
  let f := fieldsOf d
  let o0 := f.out0 || d.opcode == 0x0500 || d.opcode == 0x0520
  let k := f.key || d.opcode == 0x0F00 || d.opcode == 0x0F01
  8 * b1 k + 12 * b1 f.in0 + 12 * b1 f.in1 + 12 * b1 o0 + 12 * b1 f.out1 + f.inl + 12 * b1 f.ext

/-- Records that carry a u64 after their residue fields (Tables 10.9, 11.4, 15.7). -/
def hasExtra (op : Nat) : Bool := op ∈ [0x0211, 0x0221, 0x0230, 0x0E00, 0x0F05]

/-- The mode, ph_id and det bytes of Table 09.5. -/
def mldsaInlineOk (d : Desc) (sign : Bool) : Bool :=
  let mode := inl8 d 0x40
  let ph := inl8 d 0x41
  let det := inl8 d 0x42
  ((mode == 0 && ph == 0) || (mode == 1 && 1 ≤ ph && ph ≤ 12)) && (det == 0 || (det == 1 && sign)) && inl8 d 0x43 == 0

/-- A level code of Table 10.7. -/
def levelOk (c : Byte) : Bool := 1 ≤ bits c.toNat 4 4 && bits c.toNat 4 4 ≤ 5 && levelW c ∈ [1, 2, 4, 8]

/-- Inline values inside their tables: R212, R255, R277, R294, Tables 10.7, 12.5, 13.3; a violation is detail 0x04. -/
def inlineOk (d : Desc) : Bool :=
  let a := inl8 d
  match d.opcode with
  | 0x0111 | 0x0201 => mldsaInlineOk d true
  | 0x0112 | 0x0202 => mldsaInlineOk d false
  | 0x0210 =>
    let l := min 8 (bits d.paramSet 8 4)
    (d.inline.take l).all levelOk && allZero (slice d.inline l (8 - l)) && 4 ≤ a 0x48 && a 0x48 ≤ 16 && allZero (slice d.inline 9 3)
  | 0x0220 => allZero (d.inline.take 8) && 4 ≤ a 0x48 && a 0x48 ≤ 16 && allZero (slice d.inline 9 3)
  | 0x0E00 => algCacheable (inl16 d 0x40) && a 0x42 ≤ 1 && a 0x43 == 0
  | 0x0400 =>
    let e := inl32 d 0x40
    (e == 0 || (65537 ≤ e && e % 2 == 1)) && 72 ≤ a 0x44 && a 0x44 ≤ 74 && allZero (slice d.inline 5 3)
  | 0x0401 | 0x0402 =>
    a 0x40 ≤ 1 && 1 ≤ a 0x41 && a 0x41 ≤ 10 && (if a 0x40 == 0 then a 0x42 ≤ phLen (a 0x41) else a 0x42 == 0) && a 0x43 == 0
  | 0x0403 | 0x0404 => a 0x40 == 0 && 1 ≤ a 0x41 && a 0x41 ≤ 10 && a 0x42 == 0 && a 0x43 == 0
  | 0x0411 => a 0x40 == 0 && 1 ≤ a 0x41 && a 0x41 ≤ 12 && a 0x42 ≤ 1 && a 0x43 == 0
  | 0x0412 => a 0x40 == 0 && 1 ≤ a 0x41 && a 0x41 ≤ 12 && a 0x42 == 0 && a 0x43 == 0
  | 0x0421 | 0x0422 => a 0x40 ≤ 1 && allZero (slice d.inline 1 3)
  | 0x0500 =>
    let dest := a 0x40
    let n := inl32 d 0x44
    dest ≤ 2 && (if dest == 0 then a 0x41 == 0 else if dest == 1 then a 0x41 ≤ 7 else a 0x41 ≤ 15) && inl16 d 0x42 == 0 &&
    (if d.paramSet ∈ [11, 12] then 1 ≤ n && n ≤ (if dest == 0 then 65536 else 64)
     else if 1 ≤ d.paramSet ∧ d.paramSet ≤ 10 then n == 0 else true)
  | 0x0510 | 0x0511 =>
    4 ≤ inl32 d 0x40 && (if 1 ≤ d.paramSet ∧ d.paramSet ≤ 10 then inl32 d 0x40 ≤ phLen d.paramSet else true) && inl32 d 0x44 == 0
  | 0x0518 | 0x0519 => 4 ≤ inl32 d 0x40 && inl32 d 0x40 ≤ 64 && inl32 d 0x44 == 0
  | 0x0520 =>
    let w := match crcParam d.paramSet with | some q => q.width | none => 8
    a 0x40 ≤ 1 && a 0x41 ≤ 1 && allZero (slice d.inline 2 6) &&
    (if a 0x40 == 1 then allZero (slice d.inline (8 + w) (8 - w)) else inl64 d 0x48 == 0) &&
    (if a 0x41 == 1 then allZero (slice d.inline (16 + w) (8 - w)) else inl64 d 0x50 == 0)
  | 0x0F07 => a 0x40 ≤ 1 && allZero (slice d.inline 1 3)
  | _ => true

/-- The pre-hash length in pre-hash mode, else up to 64 MiB (Tables 09.4, 09.6). -/
def msgLenOk (d : Desc) : Bool :=
  if inl8 d 0x40 == 1 then d.in0Len == phLen (inl8 d 0x41) else d.in0Len ≤ 67108864

/-- Class and algorithm pairs of Table 15.1 for a key that can be created here; class 5 and 8 keys are not (R334). -/
def pairOk (cls alg : Nat) : Bool :=
  match cls with
  | 1 | 4 | 7 => alg == 0
  | 2 => (20 ≤ alg && alg ≤ 22) || (24 ≤ alg && alg ≤ 35) || alg ∈ [72, 73, 76, 77, 78, 84, 85]
  | 3 => (16 ≤ alg && alg ≤ 18) || (56 ≤ alg && alg ≤ 65) || (68 ≤ alg && alg ≤ 70) || alg ∈ [74, 80, 81, 82, 86, 87]
  | 6 => alg ∈ [20, 21, 22, 76, 77]
  | _ => false

/-- key_len is the length that Table 15.1 gives for the class and algorithm; a pair it does not have is the gate's to refuse (R336). -/
def keyLenOk (cls alg ps len : Nat) : Bool :=
  match cls with
  | 1 => len == 32
  | 4 => 16 ≤ len && len ≤ 128
  | 7 => len == 32 || len == 64
  | _ => if pairOk cls alg then len == heldLen alg ps else true

/-- Lengths inside the legal ranges of the tables of fields; a violation is detail 0x08. -/
def lengthsOk (d : Desc) (alg : Nat) : Bool :=
  let ps := d.paramSet
  let pk := if d.keyRef == 0 then pkSize alg ps else 0
  match d.opcode with
  | 0x0101 | 0x0301 | 0x0311 => d.keyRef != 0 || d.in0Len == pkSize alg ps
  | 0x0102 | 0x0302 | 0x0312 => d.in0Len == ctSize alg ps
  | 0x0111 | 0x0201 => msgLenOk d && d.extLen ≤ 255
  | 0x0112 | 0x0202 => msgLenOk d && d.extLen ≤ 255 && d.in1Len == sigSize alg ps + pk
  | 0x0210 =>
    let h := ((d.inline.take (bits ps 8 4)).map levelH).sum
    5 ≤ h && h ≤ 64
  | 0x0211 | 0x0221 => d.in0Len ≤ 67108864
  | 0x0212 | 0x0222 => d.in0Len ≤ 67108864 && 1 ≤ d.in1Len && d.in1Len ≤ 131072 && d.extLen == pk
  | 0x0E00 => d.in0Len == pkSize alg ps
  | 0x0E10 => 16 ≤ d.in0Len && d.in0Len ≤ 64
  | 0x0401 | 0x0411 => d.in0Len == phLen (inl8 d 0x41)
  | 0x0404 => d.in0Len == 8 * ps
  | 0x0402 | 0x0412 => d.in0Len == phLen (inl8 d 0x41) && d.in1Len == sigSize alg ps + pk
  | 0x0403 => d.in0Len + 2 * phLen (inl8 d 0x41) + 2 ≤ 8 * ps && d.in1Len == pk
  | 0x0421 => (if inl8 d 0x40 == 1 then d.in0Len == 64 else d.in0Len ≤ 67108864) && (if ps == 1 && inl8 d 0x40 == 0 then d.extLen == 0 else d.extLen ≤ 255)
  | 0x0422 =>
    (if inl8 d 0x40 == 1 then d.in0Len == 64 else d.in0Len ≤ 67108864) &&
    (if ps == 1 && inl8 d 0x40 == 0 then d.extLen == 0 else d.extLen ≤ 255) && d.in1Len == sigSize alg ps + pk
  | 0x0419 | 0x0429 | 0x041A | 0x042A => d.in0Len == pkSize alg ps
  | 0x0518 => d.extLen ≤ 255
  | 0x0511 => d.in1Len == inl32 d 0x40
  | 0x0519 => d.extLen ≤ 255 && d.in1Len == inl32 d 0x40
  | 0x0F00 => keyLenOk (inl8 d 0x4C) (inl8 d 0x4D) ps (inl16 d 0x4E)
  | 0x0F01 => keyLenOk (inl8 d 0x4C) (inl8 d 0x4D) ps (inl16 d 0x4E) && d.in0Len == inl16 d 0x4E
  | 0x0F02 => keyLenOk (inl8 d 0x4C) (inl8 d 0x4D) ps (inl16 d 0x4E) && d.in0Len == (inl16 d 0x4E + 7) / 8 * 8 + 8
  | 0x0F03 => keyLenOk (inl8 d 0x4C) (inl8 d 0x4D) ps (inl16 d 0x4E) && 1 ≤ d.in0Len && d.in0Len ≤ 255
  | 0x0F05 => 96 ≤ d.in0Len && d.in0Len ≤ 1368
  | _ => true

/-! ## Captured values (Tables 09.8, 10.5, 11.7, 12.7; R113, R237, R239, R337) -/

/-- An opcode that generates a key pair and writes a blob to out1. -/
def isKeygen (op : Nat) : Bool := op ∈ [0x0100, 0x0110, 0x0200, 0x0300, 0x0310, 0x0400, 0x0410, 0x0418, 0x0420, 0x0428]

/-- Label, i and length of each value the job captures. -/
def captures (d : Desc) (alg : Nat) : List (Nat × Nat × Nat) :=
  let ps := d.paramSet
  let nonce : List (Nat × Nat × Nat) := [(2, 1, 12)]
  let blind : List (Nat × Nat × Nat) := [(4, 0, 8), (4, 1, fieldWidth alg)]
  match d.opcode with
  | 0x0100 => (2, 0, 64) :: nonce
  | 0x0101 => [(3, 0, 32)]
  | 0x0110 => (2, 0, 32) :: nonce
  | 0x0111 => if inl8 d 0x42 == 0 then [(1, 0, 32)] else []
  | 0x0200 => (2, 0, 3 * slhN ps) :: nonce
  | 0x0201 => if inl8 d 0x42 == 0 then [(1, 0, slhN ps)] else []
  | 0x0210 => [(2, 0, hbsN ps + 16)]
  | 0x0220 => [(2, 0, 3 * hbsN ps)]
  | 0x0211 => [(1, 0, hbsN ps)]
  | 0x0300 => (2, 0, 32) :: nonce
  | 0x0301 => [(3, 0, 32)]
  | 0x0310 => (2, 0, 32) :: nonce
  | 0x0311 => [(3, 0, 8 * (ps + 1) + 16)]
  | 0x0400 => (2, 0, 64) :: nonce
  | 0x0410 | 0x0418 => (2, 0, ordWidth alg + 8) :: (nonce ++ blind)
  | 0x0420 | 0x0428 => (2, 0, heldLen alg ps) :: (nonce ++ blind)
  | 0x0401 => (if inl8 d 0x40 == 0 && inl8 d 0x42 != 0 then [(1, 0, inl8 d 0x42)] else []) ++ [(4, 0, 8 * ps), (4, 1, 16)]
  | 0x0404 => [(4, 0, 8 * ps), (4, 1, 16)]
  | 0x0403 => [(3, 0, phLen (inl8 d 0x41))]
  | 0x0411 => (if inl8 d 0x42 == 0 then [(1, 0, 32)] else []) ++ blind
  | 0x0419 | 0x0429 | 0x0421 => blind
  | 0x041A => (3, 0, ordWidth alg + 8) :: blind
  | 0x042A => (3, 0, heldLen alg ps) :: blind
  | 0x0E10 => [(5, 0, 32), (5, 1, 32)]
  | 0x0F00 => (2, 0, inl16 d 0x4E) :: (if inl32 d 0x48 == 0xFFFFFFFF then nonce else [])
  | 0x0F01 | 0x0F02 => if inl32 d 0x48 == 0xFFFFFFFF then nonce else []
  | _ => []

/-- R171: an entry needs randomness when its chapter lists a capture for its opcode. -/
def needsRandom (d : Desc) (alg : Nat) : Bool := !(captures d alg).isEmpty

/-! ## Where a job runs (Table 01.6, Table 11.13, R286) -/

/-- Stall kind of the job's last step; 0 for a job that reaches no stall. `qk` is the quote's key algorithm, 0 for the identity
pair. -/
def lastKind (d : Desc) (alg : Nat) : Nat :=
  if 0x0100 ≤ d.opcode ∧ d.opcode < 0x0200 then 1
  else if d.opcode = 0x0230 then 0
  else if 0x0200 ≤ d.opcode ∧ d.opcode < 0x0300 then 2
  else if 0x0300 ≤ d.opcode ∧ d.opcode < 0x0400 then 4
  else if 0x0400 ≤ d.opcode ∧ d.opcode < 0x0500 then 3
  else if d.opcode ∈ [0x0500, 0x0510, 0x0511, 0x0518, 0x0519] then 2
  else if d.opcode = 0x0E00 then
    (if alg ≤ 22 then 1 else if alg ≤ 51 then 2 else if alg ≤ 65 then 0 else if alg ≤ 70 then 4 else 3)
  else 0

/-- Pure-mode EdDSA absorbs its message on a hash stall first (R286). -/
def firstKind (d : Desc) (alg : Nat) : Nat :=
  if d.opcode ∈ [0x0421, 0x0422] && inl8 d 0x40 == 0 then 2 else lastKind d alg

/-- Yard floor of an algorithm in cells (Tables 09.10, 10.6, 11.11, 12.10; R240, R306). -/
def yardFloor (alg : Nat) : Nat :=
  match alg with
  | 16 | 17 | 18 => 8 | 20 => 16 | 21 => 20 | 22 => 24
  | 24 | 25 => 32 | 26 | 27 => 68 | 28 | 29 => 65 | 30 | 31 => 141 | 32 | 33 => 118 | 34 | 35 => 196
  | 56 | 57 => 1832 | 58 | 59 => 3332 | 60 | 61 => 5958 | 62 | 63 => 5782 | 64 | 65 => 7180
  | 68 => 22 | 69 => 40 | 70 => 61
  | 72 | 73 | 74 => 48 | 84 | 85 => 12 | 86 | 87 => 4
  | _ => if 40 ≤ alg ∧ alg ≤ 51 then 8 else if (76 ≤ alg ∧ alg ≤ 78) ∨ (80 ≤ alg ∧ alg ≤ 82) then 8
         else if 88 ≤ alg ∧ alg ≤ 92 then 4 else 0

/-- Stall kinds an algorithm needs reachable (R224, R234, R271, R291, R306). -/
def algKinds (alg : Nat) : List Nat :=
  if alg ≤ 22 then [1] else if alg ≤ 51 then [2] else if alg ≤ 70 then [4] else if alg ∈ [84, 85] then [3, 2]
  else if alg ≤ 87 then [3] else if alg ≤ 91 then [2] else []

/-- Output sizes of a job whose input and key are known by their sizes: what out0 and out1 need (R220, R232, R267, R278).
`held` is the length of the key named, `outLen` the recovered or requested length where the opcode's own rule gives it. -/
def outSizes (d : Desc) (alg : Nat) (levels : Bytes) (quoteSig : Nat) : Nat × Nat :=
  let ps := d.paramSet
  if isKeygen d.opcode then (pkSize alg ps, heldLen alg ps + 80)
  else match d.opcode with
  | 0x0101 | 0x0301 | 0x0311 => (ctSize alg ps, 32)
  | 0x0102 | 0x0302 | 0x0312 => (32, 0)
  | 0x0111 | 0x0201 | 0x0401 | 0x0411 | 0x0421 => (sigSize alg ps, 0)
  | 0x0403 => (8 * ps, 0)
  | 0x0404 => (8 * ps - 2 * phLen (inl8 d 0x41) - 2, 0)
  | 0x0210 | 0x0220 => (pkSize alg ps, 0)
  | 0x0211 | 0x0221 => (hbsSig alg ps levels, 0)
  | 0x0230 => (32, 0)
  | 0x0E00 => (8, 0)
  | 0x0E10 => (0xC0 + 48 * countBits (inl32 d 0x40) 32, quoteSig)
  | 0x0419 | 0x0429 => (ssSize alg, 0)
  | 0x041A | 0x042A => (pkSize alg ps, ssSize alg)
  | 0x0500 => if inl8 d 0x40 == 0 then (if ps ∈ [11, 12] then inl32 d 0x44 else phLen ps, 0) else (0, 0)
  | 0x0510 | 0x0518 => (inl32 d 0x40, 0)
  | 0x0520 => if inl8 d 0x40 == 0 then ((match crcParam ps with | some q => q.width | none => 0), 0) else (0, 0)
  | 0x0F00 | 0x0F01 | 0x0F02 => (if inl32 d 0x48 == 0xFFFFFFFF then inl16 d 0x4E + 80 else 8, 0)
  | 0x0F03 => (8, 0)
  | 0x0F05 => (8, 0)
  | _ => (0, 0)

/-- The status and the completed job where an output does not fit: ST_CAPACITY with the sizes needed (R220). -/
def capacityDetail (d : Desc) (need : Nat × Nat) : Nat := b1 (d.out0Cap < need.1) + 2 * b1 (d.out1Cap < need.2)

end Sys2Proof.Machine
end

