-- ==== Sys2Proof/Machine/Sparse.lean ====
section
/-! DEFINITION. Sparse.lean: the operations on the indexed collections of State (queues, slots, registers by number, local
memory), in one canonical form: indices strictly rising, no entry equal to the collection's default. -/

namespace Sys2Proof.Machine

/-- The value at index `k`; the collection's default where nothing is listed. -/
def smGet {α : Type} (d : α) : SMap α → Nat → α
  | [], _ => d
  | (j, v) :: r, k => if j = k then v else smGet d r k

/-- List `v` at index `k`, in index order. -/
def smIns {α : Type} : SMap α → Nat → α → SMap α
  | [], k, v => [(k, v)]
  | (j, w) :: r, k, v =>
    if k < j then (k, v) :: (j, w) :: r else if k = j then (k, v) :: r else (j, w) :: smIns r k v

/-- List nothing at index `k`. -/
def smDel {α : Type} : SMap α → Nat → SMap α
  | [], _ => []
  | (j, w) :: r, k => if j = k then smDel r k else (j, w) :: smDel r k

/-- Write `v` at index `k`, keeping the canonical form: the default is never listed. -/
def smSet {α : Type} [DecidableEq α] (d : α) (m : SMap α) (k : Nat) (v : α) : SMap α :=
  if v = d then smDel m k else smIns m k v

/-- Change the value at index `k`. -/
def smMod {α : Type} [DecidableEq α] (d : α) (m : SMap α) (k : Nat) (f : α → α) : SMap α :=
  smSet d m k (f (smGet d m k))

/-- Change every listed value; an entry that becomes the default is no longer listed. -/
def smMap {α : Type} [DecidableEq α] (d : α) (f : Nat → α → α) : SMap α → SMap α
  | [] => []
  | (k, v) :: r => if f k v = d then smMap d f r else (k, f k v) :: smMap d f r

/-- Every listed index is at least `lo`, indices rise strictly, and no listed value is the default. -/
def smWfFrom {α : Type} [DecidableEq α] (d : α) : Nat → SMap α → Bool
  | _, [] => true
  | lo, (k, v) :: r => decide (lo ≤ k) && decide (v ≠ d) && smWfFrom d (k + 1) r

/-- The canonical form of an indexed collection. -/
def smWf {α : Type} [DecidableEq α] (d : α) (m : SMap α) : Bool := smWfFrom d 0 m

/-- Listed indices, rising. -/
def smKeys {α : Type} (m : SMap α) : List Nat := m.map Prod.fst

end Sys2Proof.Machine
end

