-- ==== Sys2Proof/Machine/Ops.lean ====
section
/-! DEFINITION. Ops.lean: the named operations over State that the meanings share: reading and changing one unit,
issuing writes and messages, interrupts and events, fault reports, queue indices and halts, records and yard cells. -/

namespace Sys2Proof.Machine

/-! ## One unit of State -/

def fnAt (s : State) (n : Nat) : Fn := smGet {} s.fns n
def putFn (s : State) (n : Nat) (f : Fn) : State := { s with fns := smSet {} s.fns n f }
def modFn (s : State) (n : Nat) (g : Fn → Fn) : State := putFn s n (g (fnAt s n))

def qAt (s : State) (q : Nat) : Queue := smGet {} s.queues q
def putQ (s : State) (q : Nat) (x : Queue) : State := { s with queues := smSet {} s.queues q x }
def modQ (s : State) (q : Nat) (g : Queue → Queue) : State := putQ s q (g (qAt s q))

def padAt (s : State) (p : Nat) : Pad := smGet {} s.pads p
def putPad (s : State) (p : Nat) (x : Pad) : State := { s with pads := smSet {} s.pads p x }
def modPad (s : State) (p : Nat) (g : Pad → Pad) : State := putPad s p (g (padAt s p))

def stAt (s : State) (n : Nat) : Stall := smGet {} s.stalls n
def putSt (s : State) (n : Nat) (x : Stall) : State := { s with stalls := smSet {} s.stalls n x }
def modSt (s : State) (n : Nat) (g : Stall → Stall) : State := putSt s n (g (stAt s n))

def coreAt (s : State) (n : Nat) : Core := smGet {} s.cores n
def putCore (s : State) (n : Nat) (x : Core) : State := { s with cores := smSet {} s.cores n x }
def modCore (s : State) (n : Nat) (g : Core → Core) : State := putCore s n (g (coreAt s n))

def feedAt (s : State) (k : Nat) : Feed := smGet {} s.feeds k
def putFeed (s : State) (k : Nat) (x : Feed) : State := { s with feeds := smSet {} s.feeds k x }
def modFeed (s : State) (k : Nat) (g : Feed → Feed) : State := putFeed s k (g (feedAt s k))

def cacheAt (s : State) (k : Nat) : CacheEntry := smGet {} s.cache k
def putCache (s : State) (k : Nat) (x : CacheEntry) : State := { s with cache := smSet {} s.cache k x }
def modCache (s : State) (k : Nat) (g : CacheEntry → CacheEntry) : State := putCache s k (g (cacheAt s k))

def slotAt (s : State) (n : Nat) : Slot := smGet {} s.tk.slots n
def putSlot (s : State) (n : Nat) (x : Slot) : State := { s with tk := { s.tk with slots := smSet {} s.tk.slots n x } }
def modSlot (s : State) (n : Nat) (g : Slot → Slot) : State := putSlot s n (g (slotAt s n))

def blobAt (s : State) (n : Nat) : BlobEntry := smGet {} s.tk.blobs n
def putBlob (s : State) (n : Nat) (x : BlobEntry) : State := { s with tk := { s.tk with blobs := smSet {} s.tk.blobs n x } }
def modBlob (s : State) (n : Nat) (g : BlobEntry → BlobEntry) : State := putBlob s n (g (blobAt s n))

def hbsAt (s : State) (n : Nat) : HbsKey := smGet {} s.tk.hbs n
def putHbs (s : State) (n : Nat) (x : HbsKey) : State := { s with tk := { s.tk with hbs := smSet {} s.tk.hbs n x } }
def modHbs (s : State) (n : Nat) (g : HbsKey → HbsKey) : State := putHbs s n (g (hbsAt s n))

def shedAt (s : State) (i : Nat) : Nat := smGet 0 s.en.shed i
def setShed (s : State) (i v : Nat) : State := { s with en := { s.en with shed := smSet 0 s.en.shed i v } }
def stepAt (s : State) (i : Nat) : Nat := smGet 0 s.en.step i

/-- Sleep latency in ns (Table 03.2). -/
def sleepNs (i : Nat) : Nat := if i < 12 then 4000 else if i < 14 then 6000 else if i < 18 then 5000 else 10000

/-- A shed enters SLEEPING (Table 03.3). -/
def sleepShed (s : State) (i : Nat) : State :=
  setShed { s with en := { s.en with sleepFrom := smSet 0 s.en.sleepFrom i s.time } } i 3

/-- A SLEEPING shed before its switch-off point, 1 µs before the end of the sleep latency: work returns it to ON at once (R53). -/
def returnable (s : State) (i : Nat) : Bool := shedAt s i == 3 && decide (s.time + 1000 < smGet 0 s.en.sleepFrom i + sleepNs i)

/-- Work for a shed appears: a SLEEPING one returns to ON before its switch-off point (Table 03.3, R53). -/
def workFor (s : State) (i : Nat) : State := if returnable s i then setShed s i 2 else s

/-- HIF is off in D3cold, but not in a twin, whose tether port it is (Table 03.2; log 112). -/
def hifOff (s : State) : Bool := !s.sys.perstN && !s.plan.part.twin

/-- YRD, HIF unless D3cold keeps it off, HLF and SYS are ON again and deep sleep is over (R55, Table 03.4); JNL was never off (R9). -/
def endDeepSleep (s : State) : State :=
  if !s.sys.deepSleep then s
  else
    let s1 := ([20, 22, 23] ++ (if hifOff s then [] else [21])).foldl (fun t i => setShed t i 2) s
    { s1 with sys := { s1.sys with deepSleep := false }, tp := { s1.tp with sleepScramble := false } }

/-- The plan's record of a paddock. -/
def padRec (s : State) (p : Nat) : PadRec := smGet {} s.plan.pads p

/-- The plan holds a record for the paddock (Table 23.5). -/
def padPresent (s : State) (p : Nat) : Bool := (padRec s p).present

/-- The present paddocks, in number order. -/
def padsPresent (s : State) : List Nat := (List.range 32).filter (padPresent s)

/-- The paddock a function belongs to: the PF to paddock 0, VF n to the paddock whose vf_map sets bit n − 1 (R119). -/
def padOfFn (s : State) (n : Nat) : Option Nat :=
  if n = 0 then some 0
  else (List.range 32).find? fun p => padPresent s p && hasBit (padRec s p).vfMap (n - 1)

/-- Functions of a paddock, PF first (R494). -/
def fnsOfPad (s : State) (p : Nat) : List Nat := (List.range 65).filter fun n => padOfFn s n == some p

/-- The paddock a queue number belongs to (Table 01.4). -/
def padOfQueue (s : State) (q : Nat) : Option Nat :=
  (List.range 32).find? fun p =>
    padPresent s p && decide ((padRec s p).queueBase ≤ q) && decide (q < (padRec s p).queueBase + (padRec s p).queueCount)

/-- The paddock a tack-room slot number belongs to (Table 01.4). -/
def padOfSlot (s : State) (n : Nat) : Option Nat :=
  (List.range 32).find? fun p =>
    padPresent s p && decide ((padRec s p).tkBase ≤ n) && decide (n < (padRec s p).tkBase + (padRec s p).tkCount)

/-- Queues that State lists. -/
def queueNums (s : State) : List Nat := smKeys s.queues

/-! ## Free values (log entry 3) -/

/-- The next free value and the state with its draw counted. -/
def draw (s : State) : Nat × State := (Config.freeValue s.freeCtr, { s with freeCtr := s.freeCtr + 1 })

/-- The next free value cut to `n` bytes. -/
def drawBytes (s : State) (n : Nat) : Bytes × State := (leBytes n (draw s).1, (draw s).2)

/-! ## Stalls and sheds (R20, Table 16.5) -/

/-- Kind of a stall by source id: 1 lattice, 2 hash, 3 PKE, 4 code (Table 07.7). -/
def stallKind (n : Nat) : Nat := if n < 24 then 1 else if n < 40 then 2 else if n < 48 then 3 else 4

/-- First stall of a kind and count of the kind (Table 01.6). -/
def kindBase (k : Nat) : Nat := match k with | 1 => 0 | 2 => 24 | 3 => 40 | _ => 48
def kindCount (k : Nat) : Nat := match k with | 1 => 24 | 2 => 16 | 3 => 8 | _ => 4
def kindStalls (k : Nat) : List Nat := (List.range (kindCount k)).map (kindBase k + ·)

/-- Guaranteed active stalls of a kind (Table 01.6). -/
def kindGuaranteed (k : Nat) : Nat := match k with | 1 => 20 | 2 => 14 | 3 => 7 | _ => 3

/-- The stall field of a completion (Table 07.7). -/
def stallId (n : Nat) : Nat := stallKind n * 256 + (n - kindBase (stallKind n))

/-- The shed index of a stall (R20, Table 03.2). -/
def stallShed (n : Nat) : Nat :=
  match stallKind n with
  | 1 => n / 4
  | 2 => 6 + (n - 24) / 4
  | 3 => 10 + (n - 40) / 4
  | _ => 12 + (n - 48) / 2

/-- Stalls of a stall shed. -/
def shedStalls (i : Nat) : List Nat := (List.range 52).filter fun n => stallShed n == i

/-- The shed index of a Benxis core (Table 03.2). -/
def coreShed (n : Nat) : Nat := 14 + n / 4

/-- A sound stall: neither retired nor unsound. -/
def stallSound (s : State) (n : Nat) : Bool := (stAt s n).state != 5 && !(stAt s n).unsound

/-- Sound stalls of a kind (R21, R23). -/
def kindSound (s : State) (k : Nat) : Nat := ((kindStalls k).filter (stallSound s)).length

/-- Stalls of a kind that are not retired: an unsound one may still come back (R454). -/
def kindLeft (s : State) (k : Nat) : Nat := ((kindStalls k).filter fun n => (stAt s n).state != 5).length

/-! ## Issuing writes and messages (R125, R126, R133) -/

/-- Something leaves the part. -/
def emit (s : State) (e : Emission) : State := { s with out := s.out ++ [e] }

/-- The banks are frozen and the writes not yet issued are abandoned: a flush runs, or a shutdown has flushed (R183, R187). -/
def frozen (s : State) : Bool := s.en.flushActive || s.jn.shutdownDone

/-- A function may issue memory requests: mastering, in D0, the link not in reset, the side not fenced (R126, R133, R198). -/
def mayIssue (s : State) (n : Nat) : Bool :=
  (fnAt s n).bme && (fnAt s n).dState == 0 && s.sys.perstN && s.port.linkUp && !frozen s && s.jn.role != 3

/-- A memory write of a function; the link leaves L1 first (Table 06.4). -/
def hostWrite (s : State) (n addr : Nat) (d : Bytes) : State :=
  if d.length = 0 then s
  else emit { s with port := { s.port with linkState := 0 } } (.memWrite n addr d)

/-! ## Error reporting (R138, Table 06.5) -/

/-- AER bit of a report: 0 timeout, 1 advisory, 2 uncorrectable internal, 3 corrected internal, 4 poisoned, 5 ECRC, 6 unsupported request;
the bits are PRESUMED (PCI: log 8). -/
def aerBit (code : Nat) : Nat := ([14, 13, 22, 14, 12, 19, 20] : List Nat).getD code 22

/-- Reports that are correctable errors. -/
def aerCor (code : Nat) : Bool := code == 1 || code == 3

/-- An error logged in the AER capability of a function: status, and the first uncorrectable one's pointer (R138). -/
def logAer (c : Cfg) (code : Nat) : Cfg :=
  if aerCor code then { c with corSta := setBit c.corSta (aerBit code), devSta := setBit c.devSta 0 }
  else
    { c with uncSta := setBit c.uncSta (aerBit code), firstErr := if c.uncSta = 0 then aerBit code else c.firstErr,
             devSta := setBit c.devSta (if hasBit c.uncSev (aerBit code) then 2 else 1) }

/-- The function's mask bit of a report. -/
def aerMasked (c : Cfg) (code : Nat) : Bool := hasBit (if aerCor code then c.corMask else c.uncMask) (aerBit code)

/-- An error is logged, and signalled unless masked (R138). -/
def aer (s : State) (n code : Nat) : State :=
  let s1 := modFn s n fun f => { f with cfg := logAer f.cfg code }
  if aerMasked (fnAt s n).cfg code then s1 else emit s1 (.aer n code)

/-! ## Interrupt vectors (R129 to R136) -/

/-- Entries of a function's MSI-X table (R129). -/
def vecTable (s : State) (n : Nat) : Nat := if n = 0 then 2048 else (fnAt s n).vecSize

/-- A vector number beyond the table is taken as vector 0 (R130). -/
def vecNum (s : State) (n v : Nat) : Nat := if v < vecTable s n then v else 0

def vecAt (s : State) (n v : Nat) : Vec := smGet {} (fnAt s n).vecs v
def modVec (s : State) (n v : Nat) (g : Vec → Vec) : State :=
  modFn s n fun f => { f with vecs := smSet {} f.vecs v (g (smGet {} f.vecs v)) }

/-- cnt_max and time_us as they count: 0 is taken as 1 (Table 06.9). -/
def cntMax (x : Vec) : Nat := max 1 x.cntMax
def timeUs (x : Vec) : Nat := max 1 x.timeUs

/-- A message falls due on a vector: sent, or kept in the PBA while masked, or kept until the function may issue it; MSI-X
Enable 0 leaves the count (R131, R132, R126, R135). -/
def dueVec (s : State) (n v : Nat) : State :=
  let f := fnAt s n
  if !f.msixEn then s
  else if f.fnMask || (vecAt s n v).mask then modVec s n v fun x => { x with pba := true, due := false }
  else if !mayIssue s n then modVec s n v fun x => { x with due := true }
  else
    emit (modVec { s with port := { s.port with linkState := 0 } } n v fun x =>
      { x with pending := 0, timerRun := false, pba := false, due := false }) (.msix n v)

/-- One cause on a vector (R131): the first after a message starts the timer; cnt_max causes make a message due. -/
def addCause (s : State) (n v : Nat) : State :=
  let s1 := modVec s n v fun x =>
    { x with pending := satAdd 2047 x.pending 1, timerRun := true, timerFrom := if x.timerRun then x.timerFrom else s.time }
  if cntMax (vecAt s1 n v) ≤ (vecAt s1 n v).pending then dueVec s1 n v else s1

/-- The vector serves a wake-capable queue (R135). -/
def vecWakes (s : State) (n v : Nat) : Bool :=
  s.queues.any fun e => e.2.fn == n && e.2.state != 0 && e.2.wake && vecNum s n e.2.vector == v

/-- A wake count falls due: PM_PME in D3hot, WAKE_N in D3cold, for a wake-capable queue's vector or an event with wake 1;
the counts then restart (R136, Table 06.4). -/
def dueWake (s : State) (n v : Nat) : State :=
  let wakes := vecWakes s n v || (vecAt s n v).wakeEvent
  let s1 := modVec s n v fun x => { x with wakeCount := 0, wakeTimer := false, wakeEvent := false }
  if !wakes then s1
  else if !s.sys.perstN then
    if (fnAt s n).pmeAtCold then { s1 with sys := { s1.sys with wakeDriven := true } } else s1
  else if (fnAt s n).pmeEn then emit (modFn s1 n fun f => { f with pmeStatus := true }) (.pme n)
  else s1

/-- The function sleeps: D3hot, or D3cold while PERST_N is asserted (R133). -/
def fnSleeps (s : State) (n : Nat) : Bool := (fnAt s n).dState != 0 || !s.sys.perstN

/-- A held completion, or an event with wake 1, counts towards the wake count of its vector (R136). -/
def addWake (s : State) (n v : Nat) (event : Bool) : State :=
  if !fnSleeps s n then s
  else
    let s1 := modVec s n v fun x =>
      { x with wakeCount := satAdd 2047 x.wakeCount 1, wakeTimer := true, wakeEvent := x.wakeEvent || event,
               timerFrom := if x.wakeTimer then x.timerFrom else s.time }
    if cntMax (vecAt s1 n v) ≤ (vecAt s1 n v).wakeCount then dueWake s1 n v else s1

/-- Event `e` on one function, where its HI_EV_MAP enables it (R130, R136). -/
def raiseOn (s : State) (e n : Nat) : State :=
  let m := smGet {} (fnAt s n).evMap e
  if !m.en then s
  else
    let v := vecNum s n m.vector
    let s1 := addCause s n v
    if m.wake then addWake s1 n v true else s1

/-- A part-scope event reaches the PF alone (R130). -/
def raisePart (s : State) (e : Nat) : State := raiseOn s e 0

/-- A paddock-scope event reaches every function of the paddock (R130). -/
def raisePad (s : State) (e p : Nat) : State := (fnsOfPad s p).foldl (fun t n => raiseOn t e n) s

/-- A paddock-scope event raised in each present paddock (R498). -/
def raiseEach (s : State) (e : Nat) : State := (padsPresent s).foldl (fun t p => raisePad t e p) s

/-! ## Digest state and the compare unit (R300 to R302) -/

/-- The pair reads "no match"; a compare running ends so (R300, R302). -/
def spoilCompare (f : Fn) : Fn := { f with cmpEq := 0#32, cmpNe := 0xFFFFFFFF#32, cmpSpoiled := f.cmpGo }

/-- The compare unit of a function reset (Table 13.5). -/
def resetCompare (f : Fn) : Fn := { spoilCompare f with cmpExpect := List.replicate 64 0#8 }

/-- The digest state of a paddock cleared (R301). -/
def clearDigests (s : State) (p : Nat) : State :=
  (fnsOfPad s p).foldl (fun t n => modFn t n resetCompare) (modPad s p fun x => { x with results := [] })

/-- Every paddock's digest state cleared (Table 13.5). -/
def clearAllDigests (s : State) : State := (List.range 32).foldl clearDigests s

/-- An access counted in denied_cnt: it also clears the paddock's digest state (R122, R124, Table 13.5). -/
def deny (s : State) (n : Nat) : State :=
  let s1 := modFn s n fun f => { f with denied := satAdd 0xFFFF f.denied 1 }
  match padOfFn s n with
  | none => s1
  | some p => clearDigests s1 p

/-! ## Journal writes and records (R26, R180) -/

/-- A write to both journal banks carries the time base (R26). -/
def journalWrite (s : State) : State :=
  { s with jn := { s.jn with seq := s.jn.seq + 1 }, sys := { s.sys with timeJournal := s.time } }

def isLive (j : Job) : Bool := j.phase != .writing

/-- Live records: accepted and not retired (R14). -/
def liveJobs (s : State) : List Job := s.jobs.filter isLive
def nLive (s : State) : Nat := (liveJobs s).length

/-- Records whose checks have passed and whose journal write is not finished (R73). -/
def nWriting (s : State) : Nat := (s.jobs.filter fun j => !isLive j).length

/-- Live records and records being written of one paddock (R169). -/
def nPad (s : State) (p : Nat) : Nat := (s.jobs.filter fun j => j.paddock == p).length

/-! ## The yard (R360 to R362) -/

/-- Cells of the copy a job has made from its feed FIFO (R370). -/
def copyCells (j : Job) : Nat := ((j.feedCopy.getD []).length + 255) / 256

/-- The list kind of a job's drawn cells: its context or checkpoint, its result as it is written, or its part of the queue's reorder list
(R360, R361, R363). -/
def drawnKind (j : Job) : YardKind := if j.phase == .finished then .reorder else if j.inOutput then .result else .context

/-- The lists of a live job with their lengths: its staged descriptor copy, its feed copy, and the cells drawn from its reservation. -/
def jobLists (j : Job) : List (YardKind × Nat × Nat × Nat) :=
  if !isLive j then []
  else
    ([(.staged, j.paddock, j.seq, b1 (j.phase == .staged && j.fixed == 0)), (.copy, j.paddock, j.seq, copyCells j),
      (drawnKind j, j.paddock, j.seq, j.drawn - copyCells j)] : List (YardKind × Nat × Nat × Nat)).filter fun e => decide (0 < e.2.2.2)

/-- The rings of paddock code, with their lengths (R414). -/
def ringLists (s : State) : List (YardKind × Nat × Nat × Nat) :=
  (queueNums s).filterMap fun q =>
    if (qAt s q).bx && decide (0 < (qAt s q).ringCells) then some (.ring, (padOfQueue s q).getD 0, q, (qAt s q).ringCells) else none

/-- The list that is the same as a wanted one. -/
def sameList (e : YardKind × Nat × Nat × Nat) (x : YardList) : Bool := x.kind == e.1 && x.key == e.2.2.1

/-- The lowest-numbered cells outside a list of them; which free cells are drawn, the spec leaves open (DESIGN CHOICE, log 115). -/
def freeCells (used : List Nat) (n : Nat) : List Nat :=
  ((List.range (min 131072 (used.length + n))).filter fun c => !used.contains c).take n

/-- A wanted list of the yard: the cells it had, fewer, or more of them. -/
def fitList (old : List YardList) (acc : List YardList × List Nat) (e : YardKind × Nat × Nat × Nat) : List YardList × List Nat :=
  let x := (old.find? (sameList e)).getD { kind := e.1, owner := e.2.1, key := e.2.2.1 }
  let more := freeCells acc.2 (e.2.2.2 - x.cells.length)
  (acc.1 ++ [{ x with cells := x.cells.take e.2.2.2 ++ more }], acc.2 ++ more)

/-- The yard's lists brought to what the queues and records hold; the cells of the others return to the free list, zeroed (R361). -/
def fitYard (s : State) : State :=
  let wants := ringLists s ++ s.jobs.flatMap jobLists
  let kept := s.yard.filter fun x => wants.any fun e => sameList e x
  { s with yard := (wants.foldl (fitList kept) ([], s.yardRetired ++ kept.flatMap (·.cells))).1 }

/-- The records changed, and the yard with them. -/
def setJobs (s : State) (l : List Job) : State := fitYard { s with jobs := l }

/-- The list a cell of the yard stands on. -/
def listOfCell (s : State) (c : Nat) : Option YardList := s.yard.find? fun x => x.cells.contains c

/-- The link word of a cell on a list: next cell, owner and list kind (R361). -/
def linkOf (s : State) (c : Nat) : Option (Option Nat × Nat × YardKind) :=
  (listOfCell s c).map fun x => ((x.cells.drop (x.cells.idxOf c + 1)).head?, x.owner, x.kind)

def jobOf (s : State) (seq : Nat) : Option Job := s.jobs.find? fun j => j.seq == seq && isLive j
def modJob (s : State) (seq : Nat) (g : Job → Job) : State :=
  setJobs s (s.jobs.map fun j => if j.seq == seq && isLive j then g j else j)

/-- Live records of one queue's current generation, in acceptance order. -/
def queueJobs (s : State) (q : Nat) : List Job :=
  s.jobs.filter fun j => j.queue == q && isLive j

/-! ## Ring indices (R140) -/

/-- d(x, y) for indices of k + 1 bits. -/
def dist (k x y : Nat) : Nat := (y + (2 ^ (k + 1) - x % 2 ^ (k + 1))) % 2 ^ (k + 1)

/-- The next index. -/
def nextIdx (k x : Nat) : Nat := (x + 1) % 2 ^ (k + 1)

/-- Address of the entry with index i (R139). -/
def entryAddr (x : Queue) (i : Nat) : Nat := x.base + (i % 2 ^ x.k) * 128

/-- The marker byte of an entry (Table 07.7). -/
def markerOf (k i : Nat) : Nat := 0xC0 + (i / 2 ^ k) % 2

/-- The 16 bytes of the cursor shadow (Table 07.2). -/
def shadowBytes (x : Queue) : Bytes :=
  leBytes 4 x.a ++ leBytes 4 x.t ++ leBytes 2 x.gen ++ leBytes 1 x.state ++ leBytes 1 x.errReason ++ leBytes 4 0

/-- The cursor shadow after A, T or the state changed (R144): written when the queue function may issue requests, owed
otherwise. A standby queue's side issues nothing (R197). -/
def writeShadow (s : State) (q : Nat) : State :=
  let x := qAt s q
  if !x.shadowEn || x.bx || x.standby then s
  else if mayIssue s x.fn then hostWrite (modQ s q fun y => { y with shadowOwed := false }) x.fn x.shadowAddr (shadowBytes x)
  else modQ s q fun y => { y with shadowOwed := true }

/-- Shadows owed by the queues of a function, once it may issue requests. -/
def payShadows (s : State) (n : Nat) : State :=
  (queueNums s).foldl (fun t q => if (qAt t q).shadowOwed && (qAt t q).fn == n then writeShadow t q else t) s

/-- A queue leaves any fetching state: held copies are discarded (R143). -/
def dropCopies (x : Queue) : Queue := { x with copies := [], defer := 0, fetchFailed := none, fetchTried := none }

/-- A queue halts (R151, R146, R163): reason latched, EV_QUEUE_HALT raised, halt logged, shadow written. -/
def haltQueue (s : State) (q reason detail index : Nat) : State :=
  let s1 := modQ s q fun x =>
    { dropCopies x with state := 2, errReason := reason, errDetail := detail, errIndex := index }
  let s2 := journalWrite s1
  let s3 := match padOfQueue s q with
    | none => s2
    | some p =>
      raisePad (modPad s2 p fun x =>
        if x.haltLog.length < 64 then { x with haltLog := x.haltLog ++ [(q, reason)] }
        else { x with haltOverflow := true }) 16 p
  writeShadow s3 q

/-- Why a doorbell value is invalid (R146); none when it is valid. The overrun detail is judged first the bits above k. -/
def bellFault (x : Queue) (v : Nat) : Option Nat :=
  if 2 ^ (x.k + 1) ≤ v then some 2
  else if 2 ^ x.k < dist x.k x.t v then some 1
  else if dist x.k x.t v < dist x.k x.t x.p then some 3
  else none

/-! ## Fault messages (R440 to R448) -/

/-- Class of a kind: 0 corrected, 1 contained, 2 fatal (Table 20.3). -/
def faultClass (kind : Nat) : Nat :=
  if kind ∈ [0x01, 0x04, 0x10, 0x12, 0x16, 0x1D, 0x20, 0x25, 0x27] then 0
  else if kind ∈ [0x11, 0x13, 0x14, 0x18, 0x1A, 0x26] then 2
  else 1

/-- A fault message (Table 20.1). -/
def faultMsg (source kind : Nat) (charged : Bool) (pad detail : Nat) : Nat :=
  source * 2 ^ 54 + kind * 2 ^ 48 + faultClass kind * 2 ^ 46 + b1 charged * 2 ^ 45 + pad * 2 ^ 40 + detail

/-- Class bits of a logged message. -/
def msgClass (m : Nat) : Nat := bits m 46 2

/-- The log without its oldest corrected message, if there is one. -/
def dropCorrected : List (Nat × Nat) → Option (List (Nat × Nat))
  | [] => none
  | e :: r => if msgClass e.2 == 0 then some r else (dropCorrected r).map (e :: ·)

/-- One message enters the log of 4,096 (R444). -/
def logOne (c : Faults) (time msg : Nat) : Faults :=
  if c.log.length < 4096 then { c with log := c.log ++ [(time, msg)] }
  else
    let d := { c with dropped := satAdd 0xFFFF c.dropped 1 }
    if msgClass msg == 0 then d
    else match dropCorrected c.log with
      | some l => { d with log := l ++ [(time, msg)] }
      | none => { d with severeLost := true }

/-- A message enters the log; the first drop since the log was last emptied raises FK_LOG_OVERFLOW once (R444). -/
def logMsg (c : Faults) (time msg : Nat) : Faults :=
  let c1 := logOne c time msg
  if c.log.length < 4096 || c1.overflowed then c1
  else logOne { c1 with overflowed := true } time (faultMsg 0x3FF 0x27 false 0 0)

/-- Sources whose unit a leaky bucket can retire or fail, with the kinds it counts, its threshold (Table 20.4, R474); none otherwise. -/
def bucketRule (source kind : Nat) : Option Nat :=
  if source < 0x34 then
    if kind ∈ [0x01, 0x02, 0x03, 0x04, 0x05, 0x06, 0x07, 0x08, 0x09, 0x0C, 0x0D] then some 16 else none
  else if 0x40 ≤ source ∧ source < 0x50 then if kind ∈ [0x0F, 0x10] then some 16 else none
  else if source ∈ [0x80, 0x81] ∨ (0x90 ≤ source ∧ source < 0x98) ∨ source ∈ [0xA0, 0xA8] then
    if kind ∈ [0x01, 0x12] then some 4 else none
  else if 0x180 ≤ source ∧ source < 0x184 then if kind = 0x20 then some 8 else none
  else if 0xC0 ≤ source ∧ source < 0xD0 then if kind = 0x16 then some 3 else none
  else if 0x200 ≤ source ∧ source < 0x208 then if kind = 0x1D ∨ kind = 0x1E then some 64 else none
  else none

/-- A source whose buckets are kept per SRAM row (Table 20.4). -/
def rowSource (source : Nat) : Bool :=
  decide (source ∈ [0x80, 0x81]) || (decide (0x90 ≤ source) && decide (source < 0x98)) || decide (source ∈ [0xA0, 0xA8])

/-- The bucket of a source, or of one row of it (log entry 13). -/
def bucketKey (source detail : Nat) : Nat := if rowSource source then source + 1024 * (detail + 1) else source

/-- R446: a corrected fault adds 1, a contained one 8; at the threshold the unit is to be retired. -/
def countBucket (c : Faults) (source kind detail : Nat) : Faults :=
  match bucketRule source kind with
  | none => c
  | some limit =>
    let k := bucketKey source detail
    let n := smGet 0 c.buckets k + (if faultClass kind == 0 then 1 else 8)
    let c1 := { c with buckets := smSet 0 c.buckets k n }
    if limit ≤ n && !smGet false c.retired k then { c1 with retireNow := c1.retireNow ++ [(source, detail)] } else c1

def outAt (c : Faults) (i : Nat) : Option OutFault := smGet none c.out i

/-- Positions of outstanding entries. -/
def outKeys (c : Faults) : List Nat := smKeys c.out

/-- Position of the outstanding entry of a source and kind. -/
def findOut (c : Faults) (source kind : Nat) : Option Nat :=
  (outKeys c).find? fun i => match outAt c i with
    | some e => e.source == source && e.kind == kind
    | none => false

/-- Outstanding entries of a class. -/
def countOut (c : Faults) (cls : Nat) : Nat :=
  ((outKeys c).filter fun i => match outAt c i with
    | some e => e.cls == cls
    | none => false).length

/-- A free position an entry of this class may use: 16 of the 256 are reserved to fatal faults (R447). -/
def freeOut (c : Faults) (cls : Nat) : Option Nat :=
  if cls == 1 && 240 ≤ countOut c 1 then none
  else (List.range 256).find? fun i => (outAt c i).isNone

/-- Escalation time of an entry in ns (R448, Table 20.5): a partial plan's value of the charged paddock, else the plan's
override, else the part-wide value. -/
def escalationNs (s : State) (cls : Nat) (charged : Bool) (pad : Nat) : Nat :=
  if cls == 2 then s.plan.esc.fatalUs * 1000
  else if !charged then s.plan.esc.containedUs * 1000
  else match (padAt s pad).containedUs with
    | some 0 => s.plan.esc.containedUs * 1000
    | some u => u * 1000
    | none =>
      if hasBit s.plan.esc.override pad then smGet 0 s.plan.esc.paddockUs pad * 1000 else s.plan.esc.containedUs * 1000

/-- Kinds whose cause can persist (Table 20.16): at the report the cause asserts. -/
def persistKind (source kind : Nat) : Bool :=
  decide (kind ∈ [0x18, 0x1A, 0x19, 0x1B, 0x17, 0x22, 0x23, 0x24, 0x13, 0x1C, 0x21, 0x1F]) ||
  (decide (source < 0x34) && decide (kind ∈ [0x02, 0x03, 0x05, 0x06, 0x07, 0x08, 0x09, 0x0D, 0x0C]))

/-- A contained or fatal fault becomes outstanding, or repeats, or finds no entry and escalates at once (R447). -/
def openEntry (s : State) (source kind : Nat) (charged : Bool) (pad detail : Nat) : State :=
  let cls := faultClass kind
  match findOut s.fc source kind with
  | some i =>
    { s with fc := { s.fc with out := smMod none s.fc.out i fun o => o.map fun e =>
        { e with repeats := satAdd 4095 e.repeats 1, live := e.live || persistKind source kind, holdsGate := e.holdsGate || cls == 2 } } }
  | none =>
    let e : OutFault :=
      { source := source, kind := kind, cls := cls, charged := charged, paddock := pad, detail := detail,
        live := persistKind source kind, holdsGate := cls == 2,
        deadline := if kind == 0x18 then none else some (s.time + escalationNs s cls charged pad) }
    match freeOut s.fc cls with
    | none => { s with fc := { s.fc with escNow := s.fc.escNow ++ [e] } }
    | some i =>
      let s1 := { s with fc := { s.fc with out := smSet none s.fc.out i (some e) } }
      if charged then raisePad s1 21 pad else raisePart s1 5

/-- The collector takes one fault message (R440 to R448): log, counting, outstanding entry, events and AER reports. The
actions of Table 20.3 that follow are the reporting unit's. -/
def report (s : State) (source kind : Nat) (charged : Bool) (pad detail : Nat) : State :=
  let cls := faultClass kind
  let msg := faultMsg source kind charged pad detail
  let c := countBucket (logMsg s.fc s.time msg) source kind detail
  let s1 := { s with fc :=
    if cls == 0 then { c with corrected := smMod 0 c.corrected source (· + 1) }
    else { c with toLog := c.toLog ++ [(s.time, 0, msg)] } }
  if cls == 0 then (if kind == 0x25 then aer s1 0 3 else s1)
  else
    let s2 := openEntry s1 source kind charged pad detail
    if cls == 2 then clearAllDigests (aer s2 0 2) else s2

/-- The cause of an outstanding entry asserts no longer (Table 20.16). -/
def causeEnds (s : State) (source kind : Nat) : State :=
  match findOut s.fc source kind with
  | none => s
  | some i => { s with fc := { s.fc with out := smMod none s.fc.out i fun o => o.map fun e => { e with live := false } } }

/-- Every outstanding entry of a kind, whatever its source, is no longer live. -/
def kindEnds (s : State) (kind : Nat) : State :=
  { s with fc := { s.fc with out := smMap none (fun _ o => o.map fun e => if e.kind == kind then { e with live := false } else e) s.fc.out } }

/-- FAULT_N is low while a fatal entry is outstanding, and in BOOT_FAIL (R41, R83). -/
def faultPin (s : State) : Bool := decide (0 < countOut s.fc 2) || s.sys.bootState == 4

/-- A fatal entry holds the gate (R443). -/
def fatalHolds (s : State) : Bool := s.fc.out.any fun e => match e.2 with
  | some o => o.holdsGate
  | none => false

/-! ## The hold-up reserve (R67 to R74) -/

/-- A corrected conversion: offset then gain (R69). -/
def correctCode (s : State) (raw : Nat) : Nat := (((raw : Int) - s.en.offset).toNat * s.en.gain) / 0x8000

/-- The least of the last eight corrected conversions (R68). -/
def minConv (s : State) : Nat := match s.en.convs with
  | [] => 0
  | c :: r => r.foldl min c

/-- v_bank in mV, rounded down (R68). -/
def vBankMv (s : State) : Nat :=
  if s.plan.part.divPpm = 0 then 0 else minConv s * 250000 / s.plan.part.divPpm

/-- c_eff × 10^4 in µF: the derated plan value, or the stored c_meas if that is less (R70). -/
def cEff (s : State) : Nat :=
  let c := s.plan.part.capUf * (100 - s.plan.part.deratePct) * 100
  match s.en.cmeas with
  | none => c
  | some m => min c m

/-- E_usable in µJ as a fraction, at a bank voltage of `num` ÷ `den` mV: η × ½ × c_eff × (v² − v_min²), 0 when v does not
exceed v_min (R71). -/
def usableFrac (s : State) (num den : Nat) : Nat × Nat :=
  (s.plan.part.effPct * cEff s * (num ^ 2 - (s.plan.part.vMinMv * den) ^ 2), 2 * 10 ^ 12 * den ^ 2)

/-- E_usable now: 0 until the first calibration completes and while no plan gives a divider (R68, R69, R71). -/
def usableNow (s : State) : Nat × Nat :=
  if s.en.calValid && s.plan.part.divPpm != 0 then usableFrac s (minConv s * 250000) s.plan.part.divPpm else (0, 1)

/-- E_usable to the nearest µJ (Table 03.13; log entry 14). -/
def usableUj (s : State) : Nat := (2 * (usableNow s).1 + (usableNow s).2) / (2 * (usableNow s).2)

/-- stop_uj: cap_max × 25 µs, cap_max in 0.25 W units; a fraction of a µJ is dropped (R72; DESIGN CHOICE, log 14). -/
def stopUj (s : State) : Nat := s.plan.part.capMax * 25 / 4

/-- E_need(n) + guard in nJ, so that n × rec_nj ÷ 1,000 is exact (R72). -/
def needNj (s : State) (n : Nat) : Nat := (s.en.fixedUj + stopUj s + s.plan.part.guardUj) * 1000 + n * s.en.recNj

/-- E_usable − guard ≥ E_need(n) + `more` µJ, compared exactly (R72 to R74). -/
def coversWith (s : State) (u : Nat × Nat) (n more : Nat) : Bool := decide ((needNj s n + more * 1000) * u.2 ≤ u.1 * 1000)

/-- R72: the plan's bank at its nominal voltage covers 65,536 records. -/
def bankSuffices (s : State) : Bool := coversWith s (usableFrac s s.plan.part.vNomMv 1) 65536 0

/-- R73: the reserve covers n records. -/
def reserveCovers (s : State) (n : Nat) : Bool := coversWith s (usableNow s) n 0

/-- R74: reserve_low is set, with EV_RESERVE_LOW, when the reserve no longer covers the live records. -/
def evalReserve (s : State) : State :=
  if reserveCovers s (nLive s) || s.en.reserveLow then s
  else raisePart { s with en := { s.en with reserveLow := true } } 1

/-! ## LTR (R134) -/

/-- Some queue is enabled and not HELD. -/
def queuesServe (s : State) : Bool := s.queues.any fun e => e.2.state != 0 && e.2.state != 5

/-- 50 µs while any record is live or any queue is enabled and not HELD, 3 ms otherwise. -/
def ltrWanted (s : State) : Nat := if 0 < nLive s || queuesServe s then 50 else 3000

/-- The last message was sent under the two conditions as they stand. -/
def ltrTold (s : State) : Bool :=
  s.port.ltrUs != 0 && s.port.ltrLive == decide (0 < nLive s) && s.port.ltrQueue == queuesServe s

/-- A change of either condition sends a new LTR message, in D3hot as in D0: R133 bars requests, and whether a message is one it does not
say (R134; DESIGN CHOICE, log 111). -/
def updateLtr (s : State) : State :=
  if ltrTold s || !s.port.linkUp then s
  else emit { s with port := { s.port with ltrUs := ltrWanted s, ltrLive := decide (0 < nLive s), ltrQueue := queuesServe s } } (.ltr (ltrWanted s))

/-! ## Pins that follow from State (R39, R134, R430) -/

/-- CLKREQ_N is driven low: the part asks for REFCLK, under PORST_N and unless the link is in L1.1 or L1.2 (R39, R134). -/
def clkreqLow (s : State) : Bool := !s.sys.porstN || decide (s.port.linkState < 2)

/-- TAMPER_DRV of a mesh pair: low while the meshes are not driven, otherwise bit `step` of the pair's pseudo-random sequence (R39, R430). -/
def tamperDrv (s : State) (pair step : Nat) : Bool := s.tp.meshOn && Config.meshBit s.tp.meshDraw pair step

end Sys2Proof.Machine
end

