-- ==== Sys2Proof/Machine/Keys.lean ====
section
/-! DEFINITION. Keys.lean: handles, their resolution at the gate (R330, R331, Table 15.4), the checks of the management
opcodes (R332 to R337), what a record names, and the space that is reserved with the in-flight check (R257, R341). -/

namespace Sys2Proof.Machine

/-! ## Handles (Table 15.3) -/

def hPad (h : Nat) : Nat := bits h 59 5
def hCls (h : Nat) : Nat := bits h 55 4
def hGen (h : Nat) : Nat := bits h 32 23
def hIdx (h : Nat) : Nat := bits h 0 32

/-- A handle from its fields. -/
def mkHandle (pad cls gen idx : Nat) : Nat := pad * 2 ^ 59 + cls * 2 ^ 55 + (gen % 2 ^ 23) * 2 ^ 32 + idx

/-- What the index of a handle names (R330). -/
inductive KeyLoc where
  | slot (n : Nat)
  | root (p : Nat)
  | blob (n : Nat)
deriving DecidableEq, Repr

/-- The place a handle names for a job of paddock `pad`: an index of any other form names none (R330). -/
def keyLoc (pad h : Nat) : Option KeyLoc :=
  let i := hIdx h
  if i < 0x4000 then some (.slot i)
  else if i = 0x40000000 then (if hPad h = pad then some (.root pad) else none)
  else if 0x80000000 ≤ i ∧ i < 0x80010000 then some (.blob (i - 0x80000000))
  else none

/-- Index of a public-key cache entry in State. -/
def cacheKey (pad idx : Nat) : Nat := pad * 2 ^ 32 + idx

/-! ## Keys as the gate sees them -/

/-- The stored description of a key. -/
structure KeyView where
  present : Bool := false
  cls : Nat := 0
  alg : Nat := 0
  paramSet : Nat := 0
  keyLen : Nat := 0
  attrs : Nat := 0
  gen : Nat := 0
  depth : Nat := 0
  revoked : Bool := false
deriving DecidableEq, Repr

/-- Every handle fails: a hold stands, or a life-cycle transition waits for its cold reset (Table 15.10, R104). -/
def tackRefuses (s : State) : Bool := s.tk.hold || s.lc.resetRequired

/-- The attribute word of a paddock root (R332). -/
def rootAttrs : Nat := 0xFFFFFFFF * 2 ^ 16 + 0xF7E

/-- What stands at a place, for a handle whose paddock is `owner`: a slot holds a key in OCCUPIED, REVOKED or RESTORING, inside
the owner's range (Table 15.4 row 3); a blob entry holds one once registered. -/
def viewOf (s : State) (owner : Nat) (l : KeyLoc) : KeyView :=
  match l with
  | .slot n =>
    let x := slotAt s n
    { present := (x.state == 2 || x.state == 3 || x.state == 5) && padOfSlot s n == some owner, cls := x.cls, alg := x.alg,
      paramSet := x.paramSet, keyLen := x.keyLen, attrs := x.attrs, gen := x.gen, depth := x.depth, revoked := x.revoked }
  | .root p =>
    { present := padPresent s p && s.tk.unsealed, cls := 7, keyLen := 64, attrs := rootAttrs, gen := (padAt s p).inc % 2 ^ 23 }
  | .blob n =>
    let x := blobAt s n
    { present := x.present && x.ready && x.paddock == owner, cls := x.cls, alg := x.alg, paramSet := x.paramSet, keyLen := x.keyLen,
      attrs := x.attrs, gen := x.gen, depth := x.depth, revoked := x.revoked }

/-- KDF of the derivation hierarchy (chapter 15). -/
def kdf (k : Bytes) (label : String) (ctx : Bytes) (len : Nat) : Bytes :=
  kmac256 k (ascii label ++ ctx) len (ascii "ZQ7360-KDF")

/-- Paddock root p (Table 15.2). -/
def rootKey (s : State) (p : Nat) : Bytes :=
  kdf s.tk.ownerRoot "PADK" (leBytes 1 p ++ leBytes 4 (padAt s p).inc) 64

/-- The tack-room seal key (Table 15.2). -/
def sealKey (s : State) : Bytes := kdf s.tk.ownerRoot "TSEAL" [] 32

/-- Held form of the key at a place: a loaded blob's stands in its first slot. -/
def keyBytes (s : State) (l : KeyLoc) : Bytes :=
  match l with
  | .slot n => (slotAt s n).material
  | .root p => rootKey s p
  | .blob n => match (blobAt s n).loadedAt with
    | some k => (slotAt s k).material
    | none => []

/-! ## What an opcode asks of its key position (Tables 09.2, 10.3, 11.2, 12.2, 13.2, 15.1, 15.6) -/

/-- Classes the opcode takes in key_ref; an opcode that takes no key gives none. -/
def keyClasses (op : Nat) : List Nat :=
  if isKeygen op then [1]
  else match op with
  | 0x0101 | 0x0112 | 0x0202 | 0x0212 | 0x0222 | 0x0301 | 0x0311 | 0x0E01 | 0x0402 | 0x0403 | 0x0412 | 0x0422 => [8]
  | 0x0102 | 0x0302 | 0x0312 | 0x0404 | 0x0419 | 0x0429 => [3]
  | 0x0111 | 0x0201 | 0x0401 | 0x0411 | 0x0421 => [2]
  | 0x0210 | 0x0211 | 0x0220 | 0x0221 | 0x0230 => [5]
  | 0x0E10 => [6]
  | 0x0510 | 0x0511 | 0x0518 | 0x0519 => [4]
  | 0x0F00 | 0x0F01 | 0x0F02 | 0x0F05 => [1]
  | 0x0F03 => [7]
  | 0x0F04 => [1, 2, 3, 4, 6]
  | 0x0F06 | 0x0F07 => [1, 2, 3, 4, 5, 6, 7]
  | _ => []

/-- key_ref 0 is legal: an inline public key, the identity pair, or a slot target of generate or import. -/
def keyOptional (d : Desc) : Bool :=
  match d.opcode with
  | 0x0101 | 0x0112 | 0x0202 | 0x0212 | 0x0222 | 0x0301 | 0x0311 | 0x0402 | 0x0403 | 0x0412 | 0x0422 | 0x0E10 => true
  | 0x0F00 | 0x0F01 => inl32 d 0x48 != 0xFFFFFFFF
  | _ => false

/-- The attribute bit the operation asks for beside masters and lc: release 9 (R207), export 8, derive 11 (row 7). -/
def needsAttr (op : Nat) : Option Nat :=
  if op ∈ [0x0102, 0x0302, 0x0312, 0x0404, 0x0419, 0x0429] then some 9
  else if op = 0x0F04 then some 8 else if op = 0x0F03 then some 11 else none

/-- Opcodes whose key's algorithm and param_set agree with the descriptor (R209, row 5). -/
def matchesAlg (op : Nat) : Bool :=
  op ∈ [0x0101, 0x0102, 0x0111, 0x0112, 0x0201, 0x0202, 0x0211, 0x0212, 0x0221, 0x0222, 0x0230, 0x0301, 0x0302, 0x0311, 0x0312,
        0x0401, 0x0402, 0x0403, 0x0404, 0x0411, 0x0412, 0x0419, 0x0421, 0x0422, 0x0429, 0x0510, 0x0511, 0x0518, 0x0519]

/-- The lc bit of the present life-cycle state; states outside FACTORY to RETURNED have none (Table 15.5). -/
def lcBit (s : State) : Option Nat := if 1 ≤ s.lc.state ∧ s.lc.state ≤ 4 then some (2 + s.lc.state) else none

/-- The present life-cycle state lets the key be invoked (row 7). -/
def lcAllows (s : State) (attrs : Nat) : Bool := match lcBit s with
  | some b => hasBit attrs b
  | none => false

/-! ## Records and what they name -/

/-- Handles a job names: key_ref where its opcode uses it, and the wrapping key of an export (Table 15.8). -/
def handlesOf (d : Desc) : List Nat :=
  (if (fieldsOf d).key && d.keyRef != 0 then [d.keyRef] else []) ++ (if d.opcode == 0x0F04 then [inl64 d 0x40] else [])

/-- The slot a job creates a key in, if it does (R237, R337). -/
def targetOf (d : Desc) : Option Nat :=
  if d.opcode ∈ [0x0F00, 0x0F01, 0x0F02, 0x0F03] then (if inl32 d 0x48 = 0xFFFFFFFF then none else some (inl32 d 0x48))
  else if d.opcode ∈ [0x0210, 0x0220] then some (hIdx d.keyRef)
  else none

/-- The record names the key at a place, under its present generation (R182, R341). -/
def namesLoc (s : State) (j : Job) (l : KeyLoc) : Bool :=
  (handlesOf j.desc).any fun h => hCls h != 8 && keyLoc j.paddock h == some l && (viewOf s (hPad h) l).gen == hGen h

/-- Some record, live or being written, names the key. -/
def pinned (s : State) (l : KeyLoc) : Bool := s.jobs.any fun j => namesLoc s j l

/-- Live records naming the key (TK_SLOT_INFO.pins). -/
def pinCount (s : State) (l : KeyLoc) : Nat := ((liveJobs s).filter fun j => namesLoc s j l).length

/-- Handle class 8 to the cache entry it names. -/
def cacheOf (pad h : Nat) : Option Nat := if hCls h = 8 && hPad h = pad then some (cacheKey pad (hIdx h)) else none

/-- The record names the cache entry: by key_ref (but an evict's own), by a load's handle, or as a key of its tree (R210, R257,
R259). -/
def namesCache (s : State) (j : Job) (k : Nat) : Bool :=
  let e := cacheAt s k
  match e.tree with
  | some n => namesLoc s j (.slot n) || targetOf j.desc == some n && j.desc.opcode ∈ [0x0210, 0x0220]
  | none =>
    (j.desc.opcode != 0x0E01 && (handlesOf j.desc).any fun h => cacheOf j.paddock h == some k && hGen h == e.gen) ||
    (j.desc.opcode == 0x0E00 && (match j.extra with
      | some h => cacheOf j.paddock h == some k && hGen h == e.gen
      | none => false))

def cachePinned (s : State) (k : Nat) : Bool := s.jobs.any fun j => namesCache s j k

/-- A slot is free as a target: EMPTY, or LOST and named by no live record, in the paddock's range, not the target of a record
being written, and its generation not used up (R337, R346). -/
def freeTarget (s : State) (pad n : Nat) : Bool :=
  let x := slotAt s n
  padOfSlot s n == some pad && decide (x.gen < 0x7FFFFF) &&
  (x.state == 0 || (x.state == 6 && !(s.jobs.any fun j =>
    (handlesOf j.desc).any fun h => hCls h != 8 && hIdx h == n))) &&
  !(s.jobs.any fun j => !isLive j && j.fixed == 0 && targetOf j.desc == some n)

/-! ## Handle resolution (R331, Table 15.4) -/

/-- Rows 1 to 8 for a handle in a position that takes `classes`: 0, or the fixed status. -/
def resolveKey (s : State) (d : Desc) (alg pad : Nat) (bx : Bool) (h : Nat) (classes : List Nat) (main : Bool) : Nat :=
  if tackRefuses s || h = 0 then 0x0401
  else if hCls h = 0 || !(classes.contains (hCls h)) then 0x0504
  else
    let v := match keyLoc pad h with
      | some l => viewOf s (hPad h) l
      | none => {}
    let isBlob := match keyLoc pad h with
      | some (.blob _) => true
      | _ => false
    if hPad h ≠ pad ∧ (!v.present || !hasBit v.attrs (16 + pad)) = true then 0x0502
    else if !v.present || decide (v.gen < hGen h) then (if isBlob then 0x0402 else 0x0401)
    else if hGen h < v.gen then 0x0603
    else if v.cls ≠ hCls h ∨ (main && matchesAlg d.opcode && v.alg != 0 && (v.alg != alg || v.paramSet != d.paramSet)) = true then 0x0504
    else if !hasBit v.attrs (if bx then 1 else 2) then 0x0501
    else if !lcAllows s v.attrs then 0x0503
    else if main && (match needsAttr d.opcode with
        | some b => !hasBit v.attrs b
        | none => false) then 0x0504
    else if v.revoked then 0x0601
    else 0

/-- A cache handle: another paddock's names nothing the submitter may use (R17, row 2); one that names no entry is
ST_KEY_ABSENT, detail 0x03 (R209); a different family or parameter set is ST_KEY_DENIED, detail 0x04. -/
def resolveCache (s : State) (d : Desc) (alg pad h : Nat) : Nat :=
  if tackRefuses s then 0x0401
  else if hPad h ≠ pad then 0x0502
  else
    let e := cacheAt s (cacheKey pad (hIdx h))
    if !e.present || e.tree.isSome || e.evicted || e.gen != hGen h then 0x0403
    else if d.opcode != 0x0E01 && (e.alg != alg || e.paramSet != d.paramSet) then 0x0504
    else 0

/-- The slot of a stateful key generation (R237). -/
def resolveTarget (s : State) (pad h : Nat) : Nat :=
  if tackRefuses s || h = 0 then 0x0401
  else if hCls h ≠ 5 then 0x0504
  else if hPad h ≠ pad || !freeTarget s pad (hIdx h) || (slotAt s (hIdx h)).gen != hGen h then 0x0504
  else 0

/-- Where Table 15.1 lets a key be held: a class 1, 6 or 7 key in a slot only, a form longer than 128 bytes in a blob only. -/
def placeOk (cls len : Nat) (toBlob : Bool) : Bool := if toBlob then cls ∈ [2, 3, 4] else decide (len ≤ 128)

/-- Every attribute bit of a word is set in its parent's (R333); reserved bits are 0 and the world holds the owner (R332). -/
def attrsOk (word parent owner : Nat) : Bool :=
  decide (word &&& (2 ^ 64 - 1 - parent) = 0) && bits word 7 1 == 0 && bits word 12 4 == 0 && bits word 48 16 == 0 &&
  hasBit word (16 + owner)

/-- The parent's attribute word of a key that a management opcode creates (R333). -/
def parentAttrs (s : State) (d : Desc) (pad : Nat) : Nat :=
  if d.keyRef = 0 then rootAttrs
  else match keyLoc pad d.keyRef with
    | some l => (viewOf s (hPad d.keyRef) l).attrs
    | none => 0

/-- Checks of a creating opcode after its key is resolved (R334 to R337, R329). -/
def createCheck (s : State) (d : Desc) (pad : Nat) (bx : Bool) : Nat :=
  let cls := inl8 d 0x4C
  let alg := inl8 d 0x4D
  let toBlob := inl32 d 0x48 == 0xFFFFFFFF
  if d.opcode = 0x0F01 ∧ pad ≠ 0 ∧ bx = false then 0x0501
  else if !pairOk cls alg || !placeOk cls (inl16 d 0x4E) toBlob || (alg != 0 && !hasBit (padRec s pad).permit alg) then 0x0504
  else if !attrsOk (inl64 d 0x40) (parentAttrs s d pad) pad then 0x0504
  else if d.opcode = 0x0F03 ∧ (match keyLoc pad d.keyRef with
      | some l => decide (8 ≤ (viewOf s (hPad d.keyRef) l).depth)
      | none => false) = true then 0x0504
  else if d.opcode = 0x0F03 && toBlob then 0x0504
  else if !toBlob && !freeTarget s pad (inl32 d 0x48) then 0x0504
  else 0

/-- Checks of a restriction (R332, R333) and of a revocation (R345) after the key is resolved. -/
def alterCheck (s : State) (d : Desc) (pad : Nat) : Nat :=
  match keyLoc pad d.keyRef with
  | some (.root _) => 0x0504
  | some l =>
    let v := viewOf s (hPad d.keyRef) l
    if d.opcode = 0x0F06 then (if attrsOk (inl64 d 0x40) v.attrs (hPad d.keyRef) then 0 else 0x0504)
    else if hPad d.keyRef ≠ pad then 0x0501
    else 0
  | none => 0

/-- The identity pair as a quote's key: derivable from FACTORY to RETURNED while the tack room is unsealed (R99); else absent. -/
def identityFault (s : State) : Nat :=
  if !tackRefuses s && s.tk.unsealed && decide (1 ≤ s.lc.state) && decide (s.lc.state ≤ 4) then 0 else 0x0401

/-- The key attribute, presence and revocation steps of R11 for an entry: 0, or the status fixed at the gate (R172). -/
def gateKey (s : State) (d : Desc) (alg pad : Nat) (bx : Bool) : Nat :=
  let first :=
    if !(fieldsOf d).key then 0
    else if d.keyRef = 0 && keyOptional d then (if d.opcode = 0x0E10 then identityFault s else 0)
    else if d.opcode = 0x0210 || d.opcode = 0x0220 then resolveTarget s pad d.keyRef
    else if (keyClasses d.opcode).contains 8 && hCls d.keyRef = 8 then resolveCache s d alg pad d.keyRef
    else resolveKey s d alg pad bx d.keyRef (keyClasses d.opcode) true
  if first ≠ 0 then first
  else
    let second := if d.opcode = 0x0F04 then resolveKey s d alg pad bx (inl64 d 0x40) [1] false else 0
    if second ≠ 0 then second
    else if d.opcode ∈ [0x0F00, 0x0F01, 0x0F02, 0x0F03] then createCheck s d pad bx
    else if d.opcode = 0x0F06 || d.opcode = 0x0F07 then alterCheck s d pad
    else if d.opcode = 0x0500 && inl8 d 0x40 = 2 then
      (if bx && (padRec s pad).bootExtend && !(padAt s pad).extendLost then 0 else 0x0501)
    else 0

/-! ## Slots and blobs come free -/

/-- A slot erased: EMPTY under the next generation, its sealed copy erased (R346). -/
def eraseSlot (s : State) (n : Nat) : State :=
  putSlot s n { gen := min 0x7FFFFF ((slotAt s n).gen + 1), sealEpoch := s.lc.epoch }

/-- A slot LOST under the next generation (R337); the owner epoch stands for that generation's (R346). -/
def lostSlot (s : State) (n : Nat) : Slot := { state := 6, gen := min 0x7FFFFF ((slotAt s n).gen + 1), sealEpoch := s.lc.epoch }

/-- A slot becomes LOST (R337). -/
def loseSlot (s : State) (n : Nat) : State :=
  let s1 := putSlot s n (lostSlot s n)
  { s1 with tk := { s1.tk with lost := satAdd 0xFFFF s1.tk.lost 1, hbs := smSet {} s1.tk.hbs n {} } }

/-- A loaded blob key leaves its slots; the blob entry's generation is unchanged (R341). -/
def unloadBlob (s : State) (b : Nat) : State :=
  let s1 := { s with tk := { s.tk with slots := smMap {} (fun _ x => if x.blob == some b then { gen := x.gen } else x) s.tk.slots } }
  modBlob s1 b fun e => { e with loadedAt := none, loaded := false }

/-- A blob entry removed; the next handle of its index carries the next generation (R256, R346). -/
def removeBlob (s : State) (b : Nat) : State :=
  let s1 := unloadBlob s b
  putBlob s1 b { gen := min 0x7FFFFF ((blobAt s1 b).gen + 1) }

/-- The keys one step below the slots listed. -/
def childSlots (s : State) (l : List Nat) : List Nat :=
  (smKeys s.tk.slots).filter fun n =>
    let x := slotAt s n
    (x.state == 1 || x.state == 2 || x.state == 3 || x.state == 5) && l.any fun p => x.parent == p && x.parentGen == (slotAt s p).gen

/-- A slot and every slot below it (R345); `fuel` bounds the levels. -/
def slotTree (s : State) : Nat → List Nat → List Nat
  | 0, l => l
  | fuel + 1, l =>
    let m := l ++ (childSlots s l).filter fun n => !(l.contains n)
    if m.length = l.length then l else slotTree s fuel m

/-- The slots a revocation of a key reaches: the key's own and its descendants'. -/
def revokedSlots (s : State) (l : KeyLoc) : List Nat := match l with
  | .slot n => slotTree s s.tk.slots.length [n]
  | _ => []

/-- The blob entries it reaches. -/
def revokedBlobs (s : State) (l : KeyLoc) : List Nat :=
  let slots := revokedSlots s l
  (smKeys s.tk.blobs).filter fun b =>
    let e := blobAt s b
    e.present && ((l == .blob b) || slots.any fun n => e.parent == n && e.parentGen == (slotAt s n).gen)

/-- A live revocation still holds the key: its marks are not known to stand in the hayloft (R345, Table 15.11 step 7). -/
def revokeHolds (s : State) (l : KeyLoc) : Bool :=
  (liveJobs s).any fun j => j.desc.opcode == 0x0F07 && j.fixed == 0 && (match keyLoc j.paddock j.desc.keyRef with
    | none => false
    | some k => match l with
      | .slot n => (revokedSlots s k).contains n
      | .blob b => (revokedBlobs s k).contains b
      | .root _ => false)

/-- The live record that created the key in a slot names the slot too: its replay must write the same handle (R156, R337). -/
def beingMade (s : State) (n : Nat) : Bool := (liveJobs s).any fun j => j.fixed == 0 && targetOf j.desc == some n

/-- Revoked keys no record names any more are erased (R346). -/
def releaseRevoked (s : State) : State :=
  let s1 := (smKeys s.tk.blobs).foldl (fun t b =>
    let e := blobAt t b
    if !(e.present && e.revoked) || pinned t (.blob b) then t
    else if revokeHolds t (.blob b) then unloadBlob t b else removeBlob t b) s
  (smKeys s1.tk.slots).foldl (fun t n =>
    let x := slotAt t n
    if x.state == 3 && x.revoked && !pinned t (.slot n) && !revokeHolds t (.slot n) && !beingMade t n then
      eraseSlot { t with tk := { t.tk with hbs := smSet {} t.tk.hbs n {} } } n
    else t) s1

/-! ## The public-key cache (R255 to R260) -/

/-- Entries of one paddock. -/
def cacheKeys (s : State) (pad : Nat) : List Nat :=
  (smKeys s.cache).filter fun k => k / 2 ^ 32 == pad && (cacheAt s k).present

/-- Bytes of the partition in use. -/
def cacheUsed (s : State) (pad : Nat) : Nat := ((cacheKeys s pad).map fun k => (cacheAt s k).size).sum

/-- Bytes of a partition of `units` × 64 KiB, less what retired rows have taken from it (R458). -/
def partBytes (s : State) (pad units : Nat) : Nat := units * 65536 - (padAt s pad).cacheLost

/-- An entry removed; the next handle of its index carries the next generation (R256). -/
def removeCache (s : State) (k : Nat) : State :=
  putCache s k { gen := ((cacheAt s k).gen + 1) % 2 ^ 23 }

/-- What R257 may evict: unpinned, not sticky. -/
def evictable (s : State) (pad : Nat) : List Nat :=
  (cacheKeys s pad).filter fun k => !(cacheAt s k).sticky && !cachePinned s k

/-- The next to go: tree caches after every other entry, then the least recently named (R257). -/
def nextVictim (s : State) (l : List Nat) : Option Nat :=
  let rank := fun k => (b1 (cacheAt s k).tree.isSome) * 2 ^ 64 + (cacheAt s k).lastUse
  match l with
  | [] => none
  | a :: r => some (r.foldl (fun m k => if rank k < rank m then k else m) a)

/-- Evict, least recently named first, until `size` more bytes fit. -/
def evictFor (s : State) (pad size part : Nat) : Nat → State
  | 0 => s
  | fuel + 1 =>
    if cacheUsed s pad + size ≤ part then s
    else match nextVictim s (evictable s pad) with
      | none => s
      | some k => evictFor (removeCache s k) pad size part fuel

/-- R257: room for `size` bytes, evicting only when that suffices; none when it cannot be made. -/
def makeRoom (s : State) (pad size : Nat) : Option State :=
  let part := partBytes s pad (padRec s pad).cacheUnits
  let free := ((evictable s pad).map fun k => (cacheAt s k).size).sum
  if part < cacheUsed s pad + size - free then none
  else some (evictFor s pad size part (s.cache.length + 1))

/-- The lowest free index of a paddock's cache. -/
def freeIndex (s : State) (pad : Nat) : Nat :=
  ((List.range (s.cache.length + 1)).find? fun i => !(cacheAt s (cacheKey pad i)).present).getD 0

/-- R257 with R256: a new entry, empty, and its index. -/
def addCache (s : State) (pad : Nat) (e : CacheEntry) : Option (Nat × State) :=
  match makeRoom s pad e.size with
  | none => none
  | some s1 =>
    let i := freeIndex s1 pad
    let k := cacheKey pad i
    some (i, putCache s1 k { e with present := true, gen := (cacheAt s1 k).gen })

/-! ## Loading a blob key (R341) -/

/-- First slot of a run of `n` consecutive free slots from slot `k`, looking at `fuel` slots. -/
def findRun (s : State) (pad n : Nat) : Nat → Nat → Option Nat
  | 0, _ => none
  | fuel + 1, k => if (List.range n).all fun i => freeTarget s pad (k + i) then some k else findRun s pad n fuel (k + 1)

/-- Loaded blob keys of the paddock no record names, least recently named first. -/
def unpinnedLoaded (s : State) (pad : Nat) : Option Nat :=
  let l := (smKeys s.tk.blobs).filter fun b =>
    (blobAt s b).loadedAt.isSome && (blobAt s b).paddock == pad && !pinned s (.blob b)
  match l with
  | [] => none
  | a :: r => some (r.foldl (fun m b => if (blobAt s b).lastUse < (blobAt s m).lastUse then b else m) a)

/-- A run of free slots, evicting unpinned loaded blob keys while none exists. -/
def runFor (s : State) (pad n : Nat) : Nat → Option (Nat × State)
  | 0 => none
  | fuel + 1 =>
    match findRun s pad n (padRec s pad).tkCount (padRec s pad).tkBase with
    | some k => some (k, s)
    | none => match unpinnedLoaded s pad with
      | none => none
      | some b => runFor (unloadBlob s b) pad n fuel

/-- R341: slots for the key of a registered blob entry; none where the run cannot be made. -/
def reserveBlob (s : State) (b : Nat) : Option State :=
  let e := blobAt s b
  if e.loadedAt.isSome then some s
  else match runFor s e.paddock ((e.keyLen + 127) / 128) (s.tk.blobs.length + 1) with
    | none => none
    | some (k, s1) =>
      let s2 := (List.range ((e.keyLen + 127) / 128)).foldl (fun t i =>
        putSlot t (k + i) { gen := (slotAt t (k + i)).gen, state := 4, cls := e.cls, alg := e.alg, paramSet := e.paramSet, blob := some b }) s1
      some (modBlob s2 b fun x => { x with loadedAt := some k, loaded := false })

/-- A free blob entry (R340). -/
def freeBlob (s : State) : Option Nat :=
  (List.range (min 65536 (s.tk.blobs.length + 1))).find? fun b => !(blobAt s b).present

/-- Blob indices a job's handles name. -/
def blobsOf (pad : Nat) (d : Desc) : List Nat :=
  (handlesOf d).filterMap fun h => if hCls h = 8 then none else match keyLoc pad h with
    | some (.blob b) => some b
    | _ => none

end Sys2Proof.Machine
end

