-- ==== Sys2Proof/Machine/Gate.lean ====
section
/-! DEFINITION. Gate.lean: the evaluation of a head entry at the gate (R11, R12, R143, R151, R168 to R172, R242, R257) and
the commands DESCRIPTOR_FETCH_DONE, GATE_EVALUATE and DEFERRED_REEVALUATE. -/

namespace Sys2Proof.Machine

/-! ## Deferral (R158, R170) -/

/-- An event that can change the outcome of heads deferred with one of these codes: 1 energy, 2 limit, 3 entropy (R170). -/
def recheck (s : State) (codes : List Nat) : State :=
  { s with queues := smMap {} (fun _ x => if codes.contains x.defer then { x with recheck := true } else x) s.queues }

/-- The head entry is deferred: its queue leaves the round-robin order, keeping the order of its first deferral. -/
def deferHead (s : State) (q code : Nat) : State :=
  if (qAt s q).defer != 0 then modQ s q fun x => { x with defer := code, recheck := false, headDeferred := true }
  else
    modQ { s with jn := { s.jn with deferNext := s.jn.deferNext + 1 } } q fun x =>
      { x with defer := code, recheck := false, headDeferred := true, deferOrder := s.jn.deferNext }

/-! ## In-flight limit (R91, R92, R103, R169, R187, R198, R437) -/

/-- Acceptance is stopped for a paddock: its effective in-flight limit is 0. -/
def acceptStopped (s : State) (p : Nat) : Bool :=
  (padAt s p).paused || s.pl.applying || s.jn.shutting || s.jn.shutdownDone || s.lc.step != 0 || s.lc.resetRequired ||
  s.tt.split || (s.tp.latched && s.tp.response != 0)

/-- The effective in-flight limit (Table 08.9). -/
def limitOf (s : State) (p : Nat) : Nat := if acceptStopped s p then 0 else (padRec s p).inflight

/-- R169 for one more entry of the paddock. -/
def limitPasses (s : State) (p : Nat) : Bool := decide (nPad s p + 1 ≤ limitOf s p) && decide (s.jobs.length + 1 ≤ 65536)

/-! ## Entropy (R171, R175) -/

/-- Entries of a paddock whose records are being written under a capture slot: each is an acceptance it will have served (R175). -/
def capWriting (s : State) (p g : Nat) : Nat := (s.jobs.filter fun j => !isLive j && j.paddock == p && j.capGen == some g).length

/-- The capture generation that can serve the paddock's next acceptance (Table 08.9 cap_ok). -/
def servingGen (s : State) (p : Nat) : Option Nat :=
  match (padAt s p).curGen with
  | none => none
  | some g =>
    if (smGet {} (padAt s p).caps g).served + capWriting s p g < 2 ^ 24 && !s.rng.stopped && !(padAt s p).drbg.failed then some g else none

/-! ## The form and plan check (R147 to R151, Table 07.6) -/

/-- Two byte ranges that share a byte. -/
def overlaps (a la b lb : Nat) : Bool := decide (0 < la) && decide (0 < lb) && decide (a < b + lb) && decide (b < a + la)

/-- Input and extension buffers, and output buffers, of a descriptor. -/
def inBufs (d : Desc) : List (Nat × Nat) := [(d.in0Addr, d.in0Len), (d.in1Addr, d.in1Len), (d.extAddr, d.extLen)]
def outBufs (d : Desc) : List (Nat × Nat) := [(d.out0Addr, d.out0Cap), (d.out1Addr, d.out1Cap)]

/-- R149: no address past 2^64, no output over another output, an input, an extension or the ring. -/
def buffersOk (x : Queue) (d : Desc) : Bool :=
  (inBufs d ++ outBufs d).all (fun b => decide (b.2 = 0 ∨ b.1 + b.2 ≤ 2 ^ 64)) &&
  !(overlaps d.out0Addr d.out0Cap d.out1Addr d.out1Cap) &&
  (outBufs d).all (fun o => (inBufs d).all (fun i => !(overlaps o.1 o.2 i.1 i.2)) &&
    (x.bx || !(overlaps o.1 o.2 x.base (2 ^ x.k * 128))))

/-- A paddock address of R416: local memory of a core of the paddock, within its 1 MiB, or a feed FIFO where one may stand. -/
def padAddrOk (s : State) (p a len : Nat) (feedOk : Bool) : Bool :=
  decide (len = 0) ||
  (decide (a < 2 ^ 28) && (if bits a 24 4 = 0 then hasBit (padRec s p).coreMap (bits a 20 4) && decide (bits a 0 20 + len ≤ 2 ^ 20)
    else bits a 24 4 == 1 && feedOk))

/-- R17, R416: every address lies in the paddock's own memory. -/
def padBufsOk (s : State) (p : Nat) (d : Desc) : Bool :=
  padAddrOk s p d.in0Addr d.in0Len true && padAddrOk s p d.in1Addr d.in1Len false && padAddrOk s p d.extAddr d.extLen false &&
  padAddrOk s p d.out0Addr d.out0Cap false && padAddrOk s p d.out1Addr d.out1Cap false

/-- The descriptor with every field its opcode uses set to 0; what is left is reserved or unused (R147). -/
def unusedPart (d : Desc) : Desc :=
  let f := fieldsOf d
  { keyRef := if f.key then 0 else d.keyRef, in0Addr := if f.in0 then 0 else d.in0Addr, in0Len := if f.in0 then 0 else d.in0Len,
    in1Addr := if f.in1 then 0 else d.in1Addr, in1Len := if f.in1 then 0 else d.in1Len,
    out0Addr := if f.out0 then 0 else d.out0Addr, out0Cap := if f.out0 then 0 else d.out0Cap,
    out1Addr := if f.out1 then 0 else d.out1Addr, out1Cap := if f.out1 then 0 else d.out1Cap,
    extAddr := if f.ext then 0 else d.extAddr, extLen := if f.ext then 0 else d.extLen,
    inline := zeros f.inl ++ d.inline.drop f.inl, paramSet := if f.set then 0 else d.paramSet }

/-- The algorithm number the permit check consults, whether or not its param_set is defined (Table 07.6 details 0x06, 0x07). -/
def permitAlg (d : Desc) : Option Nat :=
  match algOf d with
  | some a => some a
  | none => match d.opcode with
    | 0x0E00 => some (inl16 d 0x40)
    | 0x0400 => some (inl8 d 0x44)
    | 0x0401 | 0x0402 => some (72 + inl8 d 0x40)
    | 0x0403 | 0x0404 => some 74
    | 0x0510 | 0x0511 => some 90
    | 0x0518 | 0x0519 => some 91
    | 0x0520 => some 92
    | _ => none

/-- R151: the detail of the first condition of Table 07.6 that the held copy meets; 0 for none. -/
def formCheck (s : State) (x : Queue) (p : Nat) (b : Bytes) : Nat :=
  let d := parseDesc b
  let crcEn := hasBit d.flags 0
  if (crcEn && d.crc != crc32c (slice b 0 0x70)) || (x.crcReq && !crcEn) then 0x02
  else if d.version != 2 then 0x03
  else if 16 ≤ d.flags || bits d.flags 1 2 == 3 || u16 b 0x6E != 0 || !allZero (slice b 0x74 12) || (!crcEn && d.crc != 0) ||
      (opcodes.contains d.opcode && (unusedPart d != {} || !inlineOk d)) then 0x04
  else if !(opcodes.contains d.opcode) then 0x05
  else if !permitFree d.opcode && (match permitAlg d with
      | some a => !hasBit (padRec s p).permit a
      | none => false) then 0x06
  else match algOf d with
  | none => 0x07
  | some alg =>
    if !lengthsOk d alg then 0x08
    else if !x.bx && !buffersOk x d then 0x09
    else if x.bx && !buffersOk { x with base := 0, k := 0 } d then 0x09
    else if x.bx && !padBufsOk s p d then 0x0A
    else 0

/-! ## What is reserved in the step of the in-flight check (Table 01.2) -/

/-- Outcome of the reservations: taken, with what the residue holds after its fields; a fixed status; or no room yet. -/
inductive Reserve where
  | taken (extra : Option Nat) (waitKey : Bool) (s : State)
  | fixed (status : Nat)
  | full

/-- Stateful sign entries of a key whose record is being written: each has taken an index (R242). -/
def leavesWriting (s : State) (slot : Nat) : Nat :=
  (s.jobs.filter fun j => !isLive j && j.fixed == 0 && (j.desc.opcode == 0x0211 || j.desc.opcode == 0x0221) &&
    hIdx j.desc.keyRef == slot).length

/-- Total leaves of the key in a slot (R241). -/
def hbsTotalOf (s : State) (slot : Nat) : Nat :=
  let h := hbsAt s slot
  hbsTotal (slotAt s slot).alg h.paramSet h.levels

/-- Snapshots of the paddock that live quotes hold, with those that quotes being written take (R114). -/
def quotesHeld (s : State) (p : Nat) : Nat :=
  ((List.range 4).filter fun i => (smGet {} (padAt s p).snaps i).owner.isSome).length +
  (s.jobs.filter fun j => !isLive j && j.paddock == p && j.fixed == 0 && j.desc.opcode == 0x0E10).length

/-- Slots for every blob key the job names (R341). -/
def reserveBlobs (s : State) : List Nat → Option State
  | [] => some s
  | b :: r => match reserveBlob s b with
    | none => none
    | some s1 => reserveBlobs s1 r

/-- The reservations of one entry whose checks so far have passed (R114, R240, R242, R243, R257, R340, R341). -/
def reserve (s : State) (d : Desc) (alg p : Nat) : Reserve :=
  match reserveBlobs s (blobsOf p d) with
  | none => .fixed 0x0402
  | some s1 =>
    let wait := (blobsOf p d).any fun b => !(blobAt s1 b).loaded
    match d.opcode with
    | 0x0E00 =>
      match addCache s1 p { alg := alg, paramSet := d.paramSet, size := cacheOcc alg d.paramSet, sticky := hasBit (inl8 d 0x42) 0 } with
      | none => .fixed 0x0403
      | some (i, s2) => .taken (some (mkHandle p 8 (cacheAt s2 (cacheKey p i)).gen i)) wait s2
    | 0x0210 | 0x0220 =>
      match addCache s1 p { alg := alg, paramSet := d.paramSet, size := treeSize alg d.paramSet (slice d.inline 0 8),
                            tree := some (hIdx d.keyRef) } with
      | none => .fixed 0x0403
      | some (_, s2) => .taken none wait s2
    | 0x0211 | 0x0221 =>
      let n := hIdx d.keyRef
      let h := hbsAt s1 n
      if h.nNext = hbsTotalOf s1 n then .fixed 0x0700
      else if h.nNext + leavesWriting s1 n < h.h then .taken none wait s1
      else .full
    | 0x0E10 => if quotesHeld s1 p < 4 then .taken none wait s1 else .full
    | 0x0F05 =>
      match freeBlob s1 with
      | none => .fixed 0x0402
      | some b =>
        .taken (some (mkHandle p 0 (blobAt s1 b).gen (0x80000000 + b))) wait
          (modBlob s1 b fun e => { e with present := true, ready := false, paddock := p })
    | _ => .taken none wait s1

/-! ## One evaluation (R11, R12) -/

/-- The reserve passes the energy check for one more record (R73, R74, R75). -/
def energyPasses (s : State) : Bool :=
  !s.en.reserveLow && !s.en.flushActive && reserveCovers s (nLive s + nWriting s + 1)

/-- The entry has passed: its record is composed and its cost counts in n_writing (R73, R165 step 4). -/
def passEntry (s : State) (q p : Nat) (d : Desc) (cap : Option Nat) (fixed : Nat) (extra : Option Nat) (waitKey : Bool) : State :=
  let x := qAt s q
  let j : Job :=
    { queue := q, index := x.a, gen := x.gen, paddock := p, bx := x.bx, desc := d, capGen := cap, fixed := fixed,
      deferred := x.headDeferred, extra := extra, phase := .writing, waitKey := waitKey }
  modQ { s with jobs := s.jobs ++ [j] } q fun y => { y with defer := 0, recheck := false }

/-- The checks after the key steps: entropy, in-flight limit with its reservations, energy. -/
def gateTail (s : State) (q p : Nat) (d : Desc) (alg key : Nat) : State :=
  let wants := key == 0 && needsRandom d alg
  if wants && !s.rng.stopped && (!s.rng.ready || (servingGen s p).isNone) then deferHead s q 3
  else
    let fixed := if wants && s.rng.stopped then 0x0800 else key
    if !limitPasses s p then deferHead s q 2
    else match (if fixed = 0 then reserve s d alg p else .fixed fixed) with
    | .full => deferHead s q 2
    | .fixed st => if energyPasses s then passEntry s q p d none st none false else deferHead s q 1
    | .taken extra wait s1 =>
      if energyPasses s then passEntry s1 q p d (if wants then servingGen s p else none) 0 extra wait
      else deferHead s q 1

/-- One evaluation of the entry at A, every check taken afresh and in order (R11, R12). -/
def evaluate (s : State) (q : Nat) : State :=
  let x := qAt s q
  match padOfQueue s q with
  | none => s
  | some p =>
    if x.fetchFailed = some x.a then haltQueue s q 0x80 0x01 x.a
    else match x.copies.find? (fun c => c.1 == x.a) with
    | none => s
    | some (_, b) =>
      let detail := formCheck s x p b
      if detail ≠ 0 then haltQueue s q 0x80 detail x.a
      else
        let d := parseDesc b
        let alg := (algOf d).getD 0
        gateTail s q p d alg (gateKey s d alg p x.bx)

/-! ## Which head is evaluated (R168, R170) -/

/-- A head the gate may evaluate: its queue runs here, its copy is held or could not be read, and no entry of it is being
written. -/
def headReady (s : State) (q : Nat) : Bool :=
  let x := qAt s q
  x.state == 1 && !x.standby && decide (0 < dist x.k x.a x.p) &&
  (x.fetchFailed == some x.a || x.copies.any fun c => c.1 == x.a) && !(s.jobs.any fun j => !isLive j && j.queue == q)

/-- The gate takes entries: open, no fatal fault holding it, no flush, the side not fenced, the tether not retraining on a twin
queue, and fewer than eight records being written (R168, R443, R183, R198, R488). -/
def gateRuns (s : State) : Bool :=
  s.jn.opened && !s.sys.deepSleep && !fatalHolds s && !s.en.flushActive && s.jn.role != 3 && !(s.tt.retraining && s.plan.part.twin) &&
  decide (nWriting s < 8)

/-- Queues in the round-robin order with an entry to evaluate. -/
def roundRobin (s : State) : List Nat := (queueNums s).filter fun q => (qAt s q).defer == 0 && headReady s q

/-- The queue the round-robin order takes next. -/
def nextInTurn (s : State) : Option Nat :=
  let l := roundRobin s
  ((l.find? fun q => decide (s.jn.rr ≤ q)).or l.head?)

/-- The earliest-deferred head an event of R170 has come for. -/
def nextDeferred (s : State) : Option Nat :=
  let l := (queueNums s).filter fun q => (qAt s q).defer != 0 && (qAt s q).recheck && headReady s q
  match l with
  | [] => none
  | a :: r => some (r.foldl (fun m q => if (qAt s q).deferOrder < (qAt s m).deferOrder then q else m) a)

/-- The index of the entry read next: entries are read in index order, and the copies held are those from A on (R143). -/
def nextFetch (x : Queue) : Nat := (x.a + x.copies.length) % 2 ^ (x.k + 1)

/-- A read of the next entry is wanted: the queue runs here, the entry stands before P and less than 64 beyond A, and no earlier one has
failed (R143). -/
def fetches (s : State) (x : Queue) : Bool :=
  x.state == 1 && !x.standby && decide (x.copies.length < dist x.k x.a x.p) && decide (x.copies.length < 64) && x.fetchFailed.isNone &&
  (x.bx || (mayIssue s x.fn && !frozen s))

/-- DESCRIPTOR_FETCH_DONE (R143): the descriptor read from the ring is the next in index order, and its copy is held. -/
def execDescriptorFetchDone (queue index : Nat) (data : Bytes) (s : State) : Host.Outcome State Fault Refusal :=
  let x := qAt s queue
  .next (if fetches s x = true ∧ index = nextFetch x then
    modQ s queue fun y => { y with fetchTried := none, copies := y.copies ++ [(index, if x.bx then padTo 128 (smGet [] x.ring (index % 2 ^ x.k)) else data)] }
  else s)

/-- GATE_EVALUATE (R11, R168): the head of the queue whose turn it is; a deferred head that is due goes first (R170). -/
def execGateEvaluate (queue : Nat) (s : State) : Host.Outcome State Fault Refusal :=
  .next (if gateRuns s && (nextDeferred s).isNone && nextInTurn s == some queue then
    evaluate { s with jn := { s.jn with rr := queue + 1 } } queue
  else s)

/-- DEFERRED_REEVALUATE (R170): the earliest-deferred head that an event can have changed is evaluated again. -/
def execDeferredReevaluate (s : State) : Host.Outcome State Fault Refusal :=
  .next (match nextDeferred s with
    | some q => if gateRuns s then evaluate s q else s
    | none => s)

end Sys2Proof.Machine
end

