-- ==== Sys2Proof/Machine/Records.lean ====
section
/-! DEFINITION. Records.lean: the bytes of a descriptor (Table 07.4), of a completion (Tables 07.7, 07.8) and of an acceptance
record with its residue (R177, R178, Table 08.3). -/

namespace Sys2Proof.Machine

/-- The 128 bytes of a descriptor (Table 07.4). -/
def descBytes (d : Desc) : Bytes :=
  leBytes 2 d.opcode ++ leBytes 1 d.flags ++ leBytes 1 d.version ++ leBytes 4 d.tag ++ leBytes 8 d.keyRef ++
  leBytes 8 d.in0Addr ++ leBytes 4 d.in0Len ++ leBytes 4 d.in1Len ++ leBytes 8 d.in1Addr ++ leBytes 8 d.out0Addr ++
  leBytes 4 d.out0Cap ++ leBytes 4 d.out1Cap ++ leBytes 8 d.out1Addr ++ padTo 32 d.inline ++ leBytes 8 d.extAddr ++
  leBytes 4 d.extLen ++ leBytes 2 d.paramSet ++ leBytes 2 0 ++ leBytes 4 d.crc ++ zeros 12

/-- Offset and length of each descriptor field in the residue, ascending (R178). -/
def residueLayout (d : Desc) : List (Nat × Nat) :=
  let f := fieldsOf d
  let on := fun (b : Bool) (l : List (Nat × Nat)) => if b then l else []
  on (f.key || d.opcode == 0x0F00 || d.opcode == 0x0F01) [(0x08, 8)] ++ on f.in0 [(0x10, 8), (0x18, 4)] ++
  on f.in1 [(0x1C, 4), (0x20, 8)] ++ on (f.out0 || d.opcode == 0x0500 || d.opcode == 0x0520) [(0x28, 8), (0x30, 4)] ++
  on f.out1 [(0x34, 4), (0x38, 8)] ++ on (f.inl != 0) [(0x40, f.inl)] ++ on f.ext [(0x60, 8), (0x68, 4)]

/-- The residue of a job: its fields, then the u64 of its opcode (R178). -/
def residue (j : Job) : Bytes :=
  ((residueLayout j.desc).flatMap fun e => slice (descBytes j.desc) e.1 e.2) ++
  (if hasExtra j.desc.opcode then leBytes 8 (j.extra.getD 0) else [])

/-- rflags of a record. -/
def rflags (j : Job) : Nat :=
  bits j.desc.flags 1 2 + 4 * bits j.desc.flags 3 1 + 8 * b1 j.deferred + 16 * b1 j.issued

/-- Bytes 0x00 to 0x5B of a record. -/
def recordBody (j : Job) : Bytes :=
  leBytes 8 j.seq ++ leBytes 8 j.tAccept ++ leBytes 2 j.queue ++ leBytes 2 j.desc.opcode ++ leBytes 2 j.desc.paramSet ++
  leBytes 1 (rflags j) ++ leBytes 1 (j.capGen.getD 0xFF) ++ leBytes 4 j.index ++ leBytes 4 j.desc.tag ++ leBytes 2 j.fixed ++
  leBytes 1 j.paddock ++ leBytes 1 (residue j).length ++ padTo 56 (residue j)

/-- The 96 bytes of an acceptance record (Table 08.3). -/
def recordBytes (j : Job) : Bytes := recordBody j ++ leBytes 4 (crc32c (recordBody j))

/-- Put the pieces of a residue back at their offsets. -/
def placeFields : List (Nat × Nat) → Bytes → Bytes → Bytes
  | [], _, b => b
  | (off, n) :: r, src, b => placeFields r (src.drop n) (overlay b off (src.take n))

/-- The descriptor a replay rebuilds: every field the residue does not hold is 0 (R178). -/
def rebuildDesc (opcode paramSet tag flags : Nat) (res : Bytes) : Desc :=
  let base : Desc := { opcode := opcode, paramSet := paramSet, tag := tag, flags := flags, version := 2 }
  let keyed : Desc := { base with keyRef := u64 res 0 }
  parseDesc (placeFields (residueLayout keyed) res (descBytes base))

/-- A record read back from its 96 bytes; none where its CRC fails. -/
def readRecord (b : Bytes) : Option Job :=
  if b.length = 96 ∧ u32 b 0x5C = crc32c (b.take 0x5C) then
    let fl := u8 b 0x16
    let res := slice b 0x24 (u8 b 0x23)
    let d := rebuildDesc (u16 b 0x12) (u16 b 0x14) (u32 b 0x1C) (2 * bits fl 0 2 + 8 * bits fl 2 1) res
    some { seq := u64 b 0, tAccept := u64 b 8, queue := u16 b 0x10, index := u32 b 0x18 % 2 ^ 17, paddock := u8 b 0x22, desc := d,
           capGen := if u8 b 0x17 = 0xFF then none else some (u8 b 0x17), fixed := u16 b 0x20, deferred := hasBit fl 3,
           issued := hasBit fl 4,
           extra := if hasExtra d.opcode then some (u64 res (res.length - 8)) else none }
  else none

/-- cflags of a completion (Table 07.8). -/
def cflags (j : Job) : Nat := b1 (0 < j.replay) + 2 * b1 j.deferred + 4 * b1 j.resumed

/-- Bytes 0x04 to 0x3F of a completion (Table 07.7). -/
def cplRest (j : Job) : Bytes :=
  leBytes 4 j.desc.tag ++ leBytes 8 j.seq ++ leBytes 4 j.out0Len ++ leBytes 4 j.out1Len ++ leBytes 8 j.tAccept ++
  leBytes 8 j.tDone ++ leBytes 2 j.stallId ++ leBytes 2 j.replay ++ leBytes 4 j.energyUj ++ leBytes 4 j.verdict ++ zeros 12

/-- The word at 0x00 of a completion of a ring of 2^k entries. -/
def cplWord (k : Nat) (j : Job) : Bytes :=
  leBytes 2 j.status ++ leBytes 1 (cflags j) ++ leBytes 1 (0xC0 + (j.index / 2 ^ k) % 2)

end Sys2Proof.Machine
end

