-- ==== Sys2Proof/Machine/Accept.lean ====
section
/-! DEFINITION. Accept.lean: acceptance as one operation (R164, R165 steps 5 to 7, R173, R176, R196): what the journal write of a
record changes, and the refill of a stateful key it can start (R241). -/

namespace Sys2Proof.Machine

/-! ## Fixed statuses -/

/-- A job that ends without running: its fixed status, no stall, no energy (R172). -/
def fixJob (status time : Nat) (j : Job) : Job :=
  { j with fixed := status, status := status, phase := .finished, stallId := 0xFFFF, energyUj := 0, tDone := time, out0 := none,
           out1 := none, out0Len := 0, out1Len := 0, verdict := 0 }

/-- What a job that will not succeed holds is given back: its cache or tree entry, its blob entry, its PENDING slot (R237, R255,
R337, R340). -/
def releaseClaims (s : State) (j : Job) : State :=
  let s1 := match j.desc.opcode with
    | 0x0E00 => match j.extra with
      | some h =>
        let k := cacheKey j.paddock (hIdx h)
        if (cacheAt s k).present && (cacheAt s k).gen == hGen h && !(cacheAt s k).complete then removeCache s k else s
      | none => s
    | 0x0210 | 0x0220 => match (smKeys s.cache).find? fun k => (cacheAt s k).tree == some (hIdx j.desc.keyRef) with
      | some k => removeCache s k
      | none => s
    | 0x0F05 => match j.extra with
      | some h => if (blobAt s (hIdx h - 0x80000000)).ready then s else removeBlob s (hIdx h - 0x80000000)
      | none => s
    | _ => s
  match targetOf j.desc with
  | some n =>
    if (slotAt s1 n).state = 1 then putSlot { s1 with tk := { s1.tk with hbs := smSet {} s1.tk.hbs n {} } } n { gen := (slotAt s1 n).gen } else s1
  | none => s1

/-! ## Refill of a stateful key (R241) -/

/-- Leaves of a key's batch. -/
def batchOf (h : HbsKey) : Nat := 2 ^ h.batchLog2

/-- A refill starts when H − n_next is half the batch or below, H can still rise, and none is in progress. -/
def startRefill (s : State) (n : Nat) : State :=
  let h := hbsAt s n
  let total := hbsTotalOf s n
  if h.present && h.refill.isNone && h.h < total && h.h - h.nNext ≤ batchOf h / 2 then
    modHbs s n fun x => { x with refill := some (min total (h.h + batchOf h)) }
  else s

/-- EV_HBS_LOW, once, when the remaining leaves are at or below low_mark; 0 disables it (R249, Table 10.7). -/
def lowLeaves (s : State) (n : Nat) : State :=
  let h := hbsAt s n
  if h.present && h.lowMark != 0 && !h.lowRaised && hbsTotalOf s n - h.nNext ≤ h.lowMark then
    raisePad (modHbs s n fun x => { x with lowRaised := true }) 20 h.paddock
  else s

/-! ## Revocation in the accepting write (R345) -/

/-- The record names the key at a place or, as its tree says, one below it. -/
def namesAny (s : State) (j : Job) (slots blobs : List Nat) : Bool :=
  (slots.any fun n => namesLoc s j (.slot n)) || (blobs.any fun b => namesLoc s j (.blob b))

/-- The marks of a revocation, with the records a cut fixes: those live and not dispatched, with detail 0x02 (R345, R347). -/
def revoke (s : State) (j : Job) : State :=
  match keyLoc j.paddock j.desc.keyRef with
  | none => s
  | some l =>
    let slots := revokedSlots s l
    let blobs := revokedBlobs s l
    let cutBy := fun (x : Job) => inl8 j.desc 0x40 == 1 && isLive x && x.phase == .staged && !x.dispatched && !x.issued && x.fixed == 0 &&
      x.seq != j.seq && namesAny s x slots blobs
    let s1 := (s.jobs.filter cutBy).foldl releaseClaims s
    let s2 := setJobs s1 (s1.jobs.map fun x => if cutBy x then fixJob 0x0602 s.time x else x)
    let s3 := slots.foldl (fun t n => modSlot t n fun x => { x with revoked := true, state := if x.state = 1 then 1 else 3 }) s2
    blobs.foldl (fun t b => modBlob t b fun x => { x with revoked := true }) s3

/-- Entries whose records are being written when a management job is accepted come after it in acceptance order: one whose key
checks now fail carries that failure, but for a cut, which still fixes what a drain before it left undispatched (R12, R333, R347). -/
def recheckWriting (s : State) : State :=
  let code := fun (x : Job) =>
    if isLive x || x.fixed != 0 || (x.desc.opcode == 0x0F07 && inl8 x.desc 0x40 == 1) then 0
    else gateKey { s with jobs := s.jobs.filter fun y => !(y.queue == x.queue && !isLive y) } x.desc ((algOf x.desc).getD 0) x.paddock x.bx
  let s1 := (s.jobs.filter fun x => code x != 0).foldl releaseClaims s
  { s1 with jobs := s1.jobs.map fun x => if code x = 0 then x else { x with fixed := code x, capGen := none, extra := none } }

/-- What the journal write that accepts OP_KEY_RESTRICT, OP_KEY_REVOKE or OP_PKC_EVICT does at once (R259, R333, R345). -/
def applyManagement (s : State) (j : Job) : State :=
  match j.desc.opcode with
  | 0x0F06 => match keyLoc j.paddock j.desc.keyRef with
    | some (.slot n) => recheckWriting (modSlot s n fun x => { x with attrs := inl64 j.desc 0x40 })
    | some (.blob b) => recheckWriting (modBlob s b fun x => { x with attrs := inl64 j.desc 0x40 })
    | _ => s
  | 0x0F07 => recheckWriting (revoke s j)
  | 0x0E01 => match cacheOf j.paddock j.desc.keyRef with
    | some k =>
      let s1 := recheckWriting (modCache s k fun e => { e with evicted := true })
      if cachePinned s1 k then s1 else removeCache s1 k
    | none => s
  | _ => s

/-! ## Assignment and acceptance -/

/-- The increment of accept_seq: bit 0 is the side in a twin plan (R196). -/
def seqStep (s : State) : Nat := if s.plan.part.twin then 2 else 1

/-- Stateful sign records of a key that hold their index and still wait for the partner's acknowledgement (R29, R176). -/
def leavesPlaced (s : State) (slot : Nat) : Nat :=
  (s.jobs.filter fun j => !isLive j && j.sent && j.fixed == 0 && (j.desc.opcode == 0x0211 || j.desc.opcode == 0x0221) &&
    hIdx j.desc.keyRef == slot).length

/-- The residue's u64 of a job that takes it at acceptance: the leaf index (R176) or the index of R248. -/
def extraOf (s : State) (j : Job) : Option Nat :=
  if j.fixed ≠ 0 then j.extra
  else if j.desc.opcode ∈ [0x0211, 0x0221, 0x0230] then
    some ((hbsAt s (hIdx j.desc.keyRef)).nNext + leavesPlaced s (hIdx j.desc.keyRef))
  else j.extra

/-- Step 5 of Table 08.1: accept_seq, t_accept and the leaf index are assigned; t_accept rises strictly (R27). -/
def assign (s : State) (q : Nat) : State :=
  { s with
    jobs := s.jobs.map fun j =>
      if j.queue == q && !isLive j then { j with seq := s.jn.nextSeq, tAccept := s.time, extra := extraOf s j, keyWord := parentAttrs s j.desc j.paddock } else j
    time := s.time + 1
    jn := { s.jn with nextSeq := s.jn.nextSeq + seqStep s } }

/-- R189: within 2^27 of the bound, the bound rises by 2^28, as often as that takes. The bound holds counts. -/
def raiseBound (s : State) : State :=
  let n := s.jn.nextSeq / seqStep s + 2 ^ 27
  if s.hl.boundB ≤ n then { s with hl := { s.hl with boundB := s.hl.boundB + 2 ^ 28 * ((n - s.hl.boundB) / 2 ^ 28 + 1) } } else s

/-- The capture generation serves one more acceptance; a new one falls due after 2^20 (R175). -/
def serveGen (s : State) (j : Job) : State :=
  match j.capGen with
  | none => s
  | some g => modPad s j.paddock fun p =>
    { p with caps := smMod {} p.caps g fun c => { c with served := c.served + 1 },
             genDue := p.genDue || (p.curGen == some g && 2 ^ 20 ≤ (smGet {} p.caps g).served + 1) }

/-- The keys and cache entries the record names are its most recent use (R257, R341). -/
def markUse (s : State) (j : Job) : State :=
  let s1 := (smKeys s.cache).foldl (fun t k => if namesCache t j k then modCache t k fun e => { e with lastUse := j.seq } else t) s
  (blobsOf j.paddock j.desc).foldl (fun t b => modBlob t b fun e => { e with lastUse := j.seq }) s1

/-- What an accepted record without a fixed status marks: its PENDING slot, its leaf, its management effect, its snapshot. -/
def acceptEffects (s : State) (j : Job) : State :=
  if j.fixed ≠ 0 then s
  else
    let s1 := match targetOf j.desc with
      | some n => modSlot s n fun x => { x with state := 1 }
      | none => s
    let s2 := if j.desc.opcode ∈ [0x0211, 0x0221] then
        let n := hIdx j.desc.keyRef
        lowLeaves (startRefill (modHbs s1 n fun h => { h with nNext := max h.nNext (j.extra.getD h.nNext + 1) }) n) n
      else s1
    let s3 := applyManagement s2 j
    if j.desc.opcode = 0x0E10 then
      let pd := padAt s3 j.paddock
      let i := ((List.range 4).find? fun i => (smGet {} pd.snaps i).owner.isNone).getD 0
      let snap : Snapshot :=
        { owner := some j.seq, mrs := pd.mrs, ymrs := s3.rng.ymr, serial := s3.plan.serial, fwBuild := s3.sys.fwBuild,
          planDigest := s3.plan.digest }
      modPad s3 j.paddock fun p => { p with snaps := smSet {} p.snaps i snap }
    else s3

/-- The record stands in both banks (R164): the entry is accepted in that cycle. -/
def becomeLive (s : State) (q : Nat) : State :=
  match s.jobs.find? fun j => j.queue == q && !isLive j with
  | none => s
  | some j0 =>
    let j := { j0 with phase := .staged, sent := false }
    let j' := if j.fixed = 0 then j else fixJob j.fixed s.time j
    let s1 := journalWrite (setJobs s ((s.jobs.filter fun x => !(x.queue == q && !isLive x)) ++ [j']))
    let s2 := modQ s1 q fun x =>
      { x with a := nextIdx x.k x.a, copies := x.copies.filter fun c => c.1 != j.index, headDeferred := false }
    let s3 := raiseBound (acceptEffects (markUse (serveGen s2 j) j) j)
    evalReserve (updateLtr (writeShadow s3 q))

/-! ## Tether frames sent (R486) -/

/-- A frame goes out under the next sequence number and waits for its acknowledgement. -/
def sendFrame (s : State) (kind : Nat) (payload : List Nat) : State :=
  let n := s.tt.txSeq
  emit { s with tt := { s.tt with txSeq := (n + 1) % 2 ^ 32, unacked := s.tt.unacked ++ [{ kind := kind, seq := n, payload := payload }] } }
    (.tether kind n payload)

/-- Bytes as 64-bit words, least significant byte first. -/
def wordsOf : Nat → Bytes → List Nat
  | 0, _ => []
  | n + 1, b => leNat (b.take 8) :: wordsOf n (b.drop 8)

/-- The part mirrors its records to a partner (Table 08.7 twin_role). -/
def mirrored (s : State) : Bool := s.jn.role == 1

/-- The capture key a record names, sent with it: Table 22.6 names no other frame for the partner's capture tables (DESIGN CHOICE, log 113). -/
def capWords (s : State) (j : Job) : List Nat := match j.capGen with
  | none => []
  | some g => wordsOf 4 (padTo 32 (smGet {} (padAt s j.paddock).caps g).key)

/-- A record as the tether carries it: its 96 bytes, then the capture key it names. -/
def recordFrame (s : State) (j : Job) : List Nat := wordsOf 12 (recordBytes j) ++ capWords s j

/-- An entry whose record is being written is left unconsumed: what it had reserved is given back, and a partner that has the record is told to
drop it. -/
def dropEntry (s : State) (j : Job) : State :=
  let s1 := releaseClaims { s with jobs := s.jobs.filter fun x => !(x.queue == j.queue && !isLive x) } j
  if j.sent && mirrored s then sendFrame s1 0x02 [j.seq, j.queue, j.index] else s1

/-- The record being written on a queue is assigned and, in a twin, sent to the partner; otherwise it becomes live (R29, R196). -/
def acceptEntry (s : State) (q : Nat) : State :=
  let s1 := assign s q
  if mirrored s then
    match s1.jobs.find? fun j => j.queue == q && !isLive j with
    | none => s1
    | some j =>
      sendFrame { s1 with jobs := s1.jobs.map fun x => if x.queue == q && !isLive x then { x with sent := true } else x } 0x01 (recordFrame s1 j)
  else becomeLive s1 q

end Sys2Proof.Machine
end

