-- ==== Sys2Proof/Machine/Access.lean ====
section
/-! DEFINITION. Access.lean: whether a write or read of a register reaches the part (R82, R104, R118, R133, R183): the link up, the
function there and in D0, and boot far enough, or in the recovery configuration of a boot stop. -/

namespace Sys2Proof.Machine

/-- The function is there: the PF always, a VF once VF Enable has made it appear (R117, R128). -/
def fnPresent (s : State) (n : Nat) : Bool := n == 0 || (fnAt s n).present

/-- Requests of the host reach the function's BARs. -/
def reaches (s : State) (n : Nat) : Bool :=
  s.sys.porstN && s.port.linkUp && fnPresent s n && (fnAt s n).dState == 0 && !s.sys.deepSleep && !s.en.flushActive

/-- Every register is served: boot has passed step 10 and has not stopped, and no transition waits for its cold reset (R82, R104). -/
def regsUp (s : State) (n : Nat) : Bool :=
  reaches s n && decide (10 ≤ s.sys.stage) && decide (s.sys.bootState ≤ 1) && !s.lc.resetRequired

/-- The recovery configuration of a boot stop, PF only; after a COMPLETE the part waits for its cold reset (R82, R104). -/
def recoveryUp (s : State) (n : Nat) : Bool := reaches s n && n == 0 && decide (2 ≤ s.sys.bootState) && !s.lc.resetRequired

/-- PL_ registers: also in BOOT_FAIL (R82). -/
def plUp (s : State) (n : Nat) : Bool := n == 0 && (regsUp s n || (recoveryUp s n && s.sys.bootState == 4))

/-- TP_ registers: also in TAMPER_HOLD (R82). -/
def tpUp (s : State) (n : Nat) : Bool := n == 0 && (regsUp s n || (recoveryUp s n && s.sys.bootState == 2))

/-- LC_ registers: also in every boot stop, and after a transition (R82, R104). -/
def lcUp (s : State) (n : Nat) : Bool :=
  reaches s n && ((decide (10 ≤ s.sys.stage) && decide (s.sys.bootState ≤ 1)) || (n == 0 && decide (2 ≤ s.sys.bootState)))

/-- The data of a BAR read leaves; the link leaves L1 (R134). -/
def reply (s : State) (n : Nat) (d : Bytes) : State := emit { s with port := { s.port with linkState := 0 } } (.barReply n d)

/-- The function belongs to paddock 0. -/
def isOwner (s : State) (n : Nat) : Bool := padOfFn s n == some 0

/-- The command field of a register of 4 bits. -/
def cmdOf (v : W64) : Nat := bits v.toNat 0 4

end Sys2Proof.Machine
end

