-- ==== Sys2Proof/Machine/Aes.lean ====
section
/-! DEFINITION. Aes.lean: AES-256 (FIPS 197), AES-256-GCM (SP 800-38D) and AES key wrap (RFC 3394, RFC 5649), which the manual names (R184,
R336, R338, R339); log entry 4. -/

namespace Sys2Proof.Machine

/-! ## GF(2^8) and the S-box -/

/-- Multiplication by x. -/
def xtime (a : Nat) : Nat := if 128 ≤ a then (2 * a) ^^^ 0x11B else 2 * a

/-- Product in GF(2^8), over the `n` low bits of the second factor. -/
def gfMul : Nat → Nat → Nat → Nat
  | 0, _, _ => 0
  | n + 1, a, b => (if b % 2 = 1 then a else 0) ^^^ gfMul n (xtime a) (b / 2)

/-- Power in GF(2^8). -/
def gfPow (a : Nat) : Nat → Nat
  | 0 => 1
  | n + 1 => gfMul 8 (gfPow a n) a

/-- Rotation of a byte to the left. -/
def rotByte (a k : Nat) : Nat := (a * 2 ^ k) % 256 + a / 2 ^ (8 - k)

/-- The inverse, a to the power 254 = 2 + 4 + … + 128, and 0 of 0. -/
def gf8Inv (a : Nat) : Nat :=
  ((List.range 7).foldl (fun (x : Nat × Nat) _ => let b := gfMul 8 x.1 x.1; (b, gfMul 8 x.2 b)) (a, 1)).2

/-- The S-box: the inverse, then the affine map. -/
def sboxOf (a : Nat) : Nat :=
  let i := gf8Inv a
  i ^^^ rotByte i 1 ^^^ rotByte i 2 ^^^ rotByte i 3 ^^^ rotByte i 4 ^^^ 0x63

/-- The byte that row a ÷ 16 and column a mod 16 of a table hold. -/
def tableByte (rows : List Nat) (a : Nat) : Nat := (rows.getD (a / 16) 0 >>> (8 * (15 - a % 16))) % 256

/-- FIPS 197's table of the S-box, a row of 16 bytes in each number: what `sboxOf` gives. -/
def sboxRows : List Nat := [
   0x637C777BF26B6FC53001672BFED7AB76, 0xCA82C97DFA5947F0ADD4A2AF9CA472C0, 0xB7FD9326363FF7CC34A5E5F171D83115,
   0x04C723C31896059A071280E2EB27B275, 0x09832C1A1B6E5AA0523BD6B329E32F84, 0x53D100ED20FCB15B6ACBBE394A4C58CF,
   0xD0EFAAFB434D338545F9027F503C9FA8, 0x51A3408F929D38F5BCB6DA2110FFF3D2, 0xCD0C13EC5F974417C4A77E3D645D1973,
   0x60814FDC222A908846EEB814DE5E0BDB, 0xE0323A0A4906245CC2D3AC629195E479, 0xE7C8376D8DD54EA96C56F4EA657AAE08,
   0xBA78252E1CA6B4C6E8DD741F4BBD8B8A, 0x703EB5664803F60E613557B986C11D9E, 0xE1F8981169D98E949B1E87E9CE5528DF,
   0x8CA1890DBFE6426841992D0FB054BB16]

/-- FIPS 197's table of the inverse S-box. -/
def invSboxRows : List Nat := [
   0x52096AD53036A538BF40A39E81F3D7FB, 0x7CE339829B2FFF87348E4344C4DEE9CB, 0x547B9432A6C2233DEE4C950B42FAC34E,
   0x082EA16628D924B2765BA2496D8BD125, 0x72F8F66486689816D4A45CCC5D65B692, 0x6C704850FDEDB9DA5E154657A78D9D84,
   0x90D8AB008CBCD30AF7E45805B8B34506, 0xD02C1E8FCA3F0F02C1AFBD0301138A6B, 0x3A9111414F67DCEA97F2CFCEF0B4E673,
   0x96AC7422E7AD3585E2F937E81C75DF6E, 0x47F11A711D29C5896FB7620EAA18BE1B, 0xFC563E4BC6D279209ADBC0FE78CD5AF4,
   0x1FDDA8338807C731B11210592780EC5F, 0x60517FA919B54A0D2DE57A9F93C99CEF, 0xA0E03B4DAE2AF5B0C8EBBB3C83539961,
   0x172B047EBA77D626E169146355210C7D]

def sbox (a : Nat) : Nat := tableByte sboxRows a
def invSbox (a : Nat) : Nat := tableByte invSboxRows a

/-! ## The cipher -/

/-- Round key words of a 256-bit key, newest first; `n` words are added. -/
def aesWords : Nat → List (List Nat) → List (List Nat)
  | 0, w => w
  | n + 1, w =>
    let i := w.length
    let t := w.headD []
    let t1 := if i % 8 = 0 then List.zipWith (· ^^^ ·) ((t.drop 1 ++ t.take 1).map sbox) [gfPow 2 (i / 8 - 1), 0, 0, 0]
      else if i % 8 = 4 then t.map sbox else t
    aesWords n (List.zipWith (· ^^^ ·) (w.getD 7 []) t1 :: w)

/-- The 15 round keys of 16 bytes. -/
def aesKeys (key : Bytes) : List (List Nat) :=
  let k := key.map (·.toNat)
  let w := (aesWords 52 ((List.range 8).map fun i => (k.drop (4 * i)).take 4).reverse).reverse
  (List.range 15).map fun r => ((w.drop (4 * r)).take 4).flatten

def addKey (s k : List Nat) : List Nat := List.zipWith (· ^^^ ·) s k

/-- Row r of the state, which stands in columns, is rotated by r. -/
def shiftRows (s : List Nat) : List Nat := (List.range 16).map fun i => s.getD ((i + 4 * (i % 4)) % 16) 0
def invShiftRows (s : List Nat) : List Nat := (List.range 16).map fun i => s.getD ((i + 12 * (i % 4)) % 16) 0

/-- The columns multiplied by a circulant matrix with the first row given. -/
def mixWith (m : List Nat) (s : List Nat) : List Nat :=
  (List.range 16).map fun i =>
    let c := (s.drop (i / 4 * 4)).take 4
    (List.range 4).foldl (fun a k => a ^^^ gfMul 4 (c.getD k 0) (m.getD ((k + 4 - i % 4) % 4) 0)) 0

def mixColumns : List Nat → List Nat := mixWith [2, 3, 1, 1]
def invMixColumns : List Nat → List Nat := mixWith [14, 11, 13, 9]

/-- One block enciphered. -/
def aesEncrypt (keys : List (List Nat)) (b : Bytes) : Bytes :=
  let s0 := addKey (b.map (·.toNat)) (keys.getD 0 [])
  let s1 := ((keys.drop 1).take 13).foldl (fun s k => addKey (mixColumns (shiftRows (s.map sbox))) k) s0
  (addKey (shiftRows (s1.map sbox)) (keys.getD 14 [])).map (BitVec.ofNat 8)

/-- One block deciphered. -/
def aesDecrypt (keys : List (List Nat)) (b : Bytes) : Bytes :=
  let s0 := addKey (b.map (·.toNat)) (keys.getD 14 [])
  let s1 := ((keys.drop 1).take 13).reverse.foldl (fun s k => invMixColumns (addKey ((invShiftRows s).map invSbox) k)) s0
  (addKey ((invShiftRows s1).map invSbox) (keys.getD 0 [])).map (BitVec.ofNat 8)

/-! ## GCM -/

/-- Multiplication in GF(2^128) with the bit order of GHASH; `n` bits of the first factor are left, the most significant first. -/
def ghashMul : Nat → Nat → Nat → Nat → Nat
  | 0, _, _, z => z
  | n + 1, x, v, z => ghashMul n x (if v % 2 = 1 then v / 2 ^^^ 0xE1 * 2 ^ 120 else v / 2) (if x.testBit n then z ^^^ v else z)

/-- GHASH over whole blocks. -/
def ghash (h : Nat) : Nat → Nat → Bytes → Nat
  | 0, y, _ => y
  | n + 1, y, b => ghash h n (ghashMul 128 (y ^^^ beNat (b.take 16)) h 0) (b.drop 16)

/-- Zeros up to a block boundary. -/
def padBlock (b : Bytes) : Bytes := b ++ zeros ((16 - b.length % 16) % 16)

/-- The key stream from a counter on, `n` blocks. -/
def gcmStream (keys : List (List Nat)) (nonce : Bytes) (n : Nat) : Bytes :=
  (List.range n).flatMap fun i => aesEncrypt keys (nonce ++ beBytes 4 (i + 2))

/-- A byte string under the key stream: enciphering and deciphering alike. -/
def gcmCrypt (key nonce d : Bytes) : Bytes := xorBytes d (gcmStream (aesKeys key) nonce ((d.length + 15) / 16))

/-- The 16-byte tag. -/
def gcmTag (key nonce aad c : Bytes) : Bytes :=
  let keys := aesKeys key
  let h := beNat (aesEncrypt keys (zeros 16))
  let m := padBlock aad ++ padBlock c ++ beBytes 8 (8 * aad.length) ++ beBytes 8 (8 * c.length)
  xorBytes (beBytes 16 (ghash h (m.length / 16) 0 m)) (aesEncrypt keys (nonce ++ beBytes 4 1))

/-- AES-256-GCM sealing: the ciphertext, then its tag (R184, R339). -/
def gcmSeal (key nonce aad plain : Bytes) : Bytes :=
  let c := gcmCrypt key nonce plain
  c ++ gcmTag key nonce aad c

/-- AES-256-GCM opening: none where the tag fails (R184, R339). -/
def gcmOpen (key nonce aad sealed : Bytes) : Option Bytes :=
  let c := sealed.take (sealed.length - 16)
  if sealed.drop (sealed.length - 16) = gcmTag key nonce aad c then some (gcmCrypt key nonce c) else none

/-! ## Key wrap -/

/-- One step of wrapping: A and the semiblocks, the step number. -/
def kwStep (keys : List (List Nat)) (n : Nat) (x : Bytes × List Bytes) (t : Nat) : Bytes × List Bytes :=
  let i := t % n
  let b := aesEncrypt keys (x.1 ++ x.2.getD i [])
  (xorBytes (b.take 8) (beBytes 8 (t + 1)), x.2.set i (b.drop 8))

/-- One step of unwrapping. -/
def kwBack (keys : List (List Nat)) (n : Nat) (x : Bytes × List Bytes) (t : Nat) : Bytes × List Bytes :=
  let i := t % n
  let b := aesDecrypt keys (xorBytes x.1 (beBytes 8 (t + 1)) ++ x.2.getD i [])
  (b.take 8, x.2.set i (b.drop 8))

/-- Semiblocks of 8 bytes. -/
def semiblocks (b : Bytes) : List Bytes := (List.range (b.length / 8)).map fun i => slice b (8 * i) 8

/-- The wrapping function under an initial value. -/
def kwWith (keys : List (List Nat)) (iv plain : Bytes) : Bytes :=
  let n := plain.length / 8
  if n = 1 then aesEncrypt keys (iv ++ plain)
  else
    let r := (List.range (6 * n)).foldl (kwStep keys n) (iv, semiblocks plain)
    r.1 ++ r.2.flatten

/-- Its inverse: the initial value found, and the plaintext. -/
def kwOpenWith (keys : List (List Nat)) (c : Bytes) : Bytes × Bytes :=
  let n := c.length / 8 - 1
  if n = 1 then
    let b := aesDecrypt keys c
    (b.take 8, b.drop 8)
  else
    let r := (List.range (6 * n)).reverse.foldl (kwBack keys n) (c.take 8, semiblocks (c.drop 8))
    (r.1, r.2.flatten)

/-- The initial value for a key length: of AES-KW when it is a multiple of 8, of AES-KWP otherwise (R336). -/
def kwIv (len : Nat) : Bytes := if len % 8 = 0 then List.replicate 8 0xA6#8 else beBytes 4 0xA65959A6 ++ beBytes 4 len

/-- A key wrapped. -/
def kwWrap (key plain : Bytes) : Bytes := kwWith (aesKeys key) (kwIv plain.length) (padTo ((plain.length + 7) / 8 * 8) plain)

/-- A key of a length unwrapped, none where the integrity check fails (R338). -/
def kwUnwrap (key c : Bytes) (len : Nat) : Option Bytes :=
  let x := kwOpenWith (aesKeys key) c
  if x.1 = kwIv len ∧ len ≤ x.2.length ∧ allZero (x.2.drop len) = true then some (x.2.take len) else none

end Sys2Proof.Machine
end

