-- ==== Sys2Proof/Machine/CryptoOut.lean ====
section
/-! DEFINITION. CryptoOut.lean: byte strings that the algorithms of HQC give, whose text is not in the manual (R251, R253; log entry 4). -/

namespace Sys2Proof.Machine

/-- `n` bytes of output `which` of an algorithm over its operands. -/
def cryptoOut (opcode paramSet : Nat) (operands : List Bytes) (which n : Nat) : Bytes := bytesOf n (Config.cryptoByte opcode paramSet operands which)

end Sys2Proof.Machine
end

