-- ==== Sys2Proof/Machine/CoreMem.lean ====
section
/-! DEFINITION. CoreMem.lean: tags (Table 17.6) and the tagged words of a core's local memory (R376, R385, R386, R411): whole words,
parts of words, and byte strings read and written across the core's boundary. -/

namespace Sys2Proof.Machine

/-! ## Tags (Table 17.6) -/

def tPoison : Nat := 0
def tInt : Nat := 1
def tNat : Nat := 2
def tBytes : Nat := 3
def tPtr : Nat := 4
def tCode : Nat := 5
def tHandle : Nat := 6
def tSecret : Nat := 7

/-- A tagged value. -/
def mkTW (tag v : Nat) : TW := { d := BitVec.ofNat 64 v, tag := tag }

/-- Word of local memory that holds byte address `a`. -/
def memWord (m : SMap TW) (a : Nat) : TW := smGet {} m (a / 8)

/-- The eight bytes of a word. -/
def twBytes (w : TW) : Bytes := leBytes 8 w.d.toNat

/-- A word with `b` standing from its byte `o`. -/
def twOverlay (w : TW) (o : Nat) (b : Bytes) : W64 := BitVec.ofNat 64 (leNat ((overlay (twBytes w) o b).take 8))

/-- R385: the word after a sub-word store of bytes with a tag, into a word that takes one. -/
def subStore (w : TW) (o : Nat) (b : Bytes) (tag : Nat) : TW :=
  if w.tag = tPoison then { d := twOverlay {} o b, tag := tag }
  else
    { d := twOverlay w o b,
      tag := if tag = w.tag then w.tag else if tag = tSecret ∨ w.tag = tSecret then tSecret else tBytes }

/-- How a write from outside the core treats words tagged CODE, PTR or HANDLE. -/
inductive Guard where
  /-- a host write through BAR4: such a word stays (R411) -/
  | host
  /-- a job's output: a CODE word stays, and a PTR or HANDLE word is replaced only whole (R385, R386) -/
  | job
deriving DecidableEq, Repr

/-- The word cannot be written so. -/
def guarded (g : Guard) (w : TW) (whole : Bool) : Bool :=
  w.tag == tCode || ((w.tag == tPtr || w.tag == tHandle) && (g == .host || !whole))

/-- Write bytes with one tag from an address, word by word; how many words were left unchanged is counted. -/
def memWrite (g : Guard) (tag : Nat) : Nat → SMap TW → Nat → Bytes → SMap TW × Nat
  | 0, m, _, _ => (m, 0)
  | fuel + 1, m, a, b =>
    if b.length = 0 then (m, 0)
    else
      let o := a % 8
      let n := min (8 - o) b.length
      let w := memWord m a
      let stay := guarded g w (n == 8)
      let w' := if n = 8 then { d := BitVec.ofNat 64 (leNat (b.take 8)), tag := tag } else subStore w o (b.take n) tag
      let (m', k) := memWrite g tag fuel (if stay then m else smSet {} m (a / 8) w') (a + n) (b.drop n)
      (m', k + b1 stay)

/-- Bytes of local memory as they stand. -/
def memRead (m : SMap TW) (a n : Nat) : Bytes :=
  bytesOf n fun i => (twBytes (memWord m (a + i))).getD ((a + i) % 8) 0#8

/-- Words that bytes from `a` touch. -/
def wordsTouched (a n : Nat) : List Nat := if n = 0 then [] else (List.range ((a + n - 1) / 8 - a / 8 + 1)).map (a / 8 + ·)

/-- A word among them is SECRET (R386). -/
def memSecret (m : SMap TW) (a n : Nat) : Bool := (wordsTouched a n).any fun i => (smGet {} m i).tag == tSecret

/-- Bytes read by a host: those of a SECRET word read 0 (R386). -/
def memReadHost (m : SMap TW) (a n : Nat) : Bytes :=
  bytesOf n fun i =>
    let w := memWord m (a + i)
    if w.tag = tSecret then 0#8 else (twBytes w).getD ((a + i) % 8) 0#8

end Sys2Proof.Machine
end

