-- ==== Sys2Proof/Machine/Drbg.lean ====
section
/-! DEFINITION. Drbg.lean: the SHAKE256 conditioner and the CTR_DRBG of SP 800-90A with AES-256, without a derivation function (R312, R321). -/

namespace Sys2Proof.Machine

/-- One block of conditioned output: the first 256 bits of SHAKE256 over 2,048 raw bits, which are the source's (R312; log entry 3). -/
def conditioned (s : State) : Bytes × State := (shake256 (drawBytes s 256).1 32, (drawBytes s 256).2)

/-- 384 bits of conditioned output. -/
def seedMaterial (s : State) : Bytes × State :=
  ((conditioned s).1 ++ (conditioned (conditioned s).2).1.take 16, (conditioned (conditioned s).2).2)

/-- `n` blocks of output from counter `v` + 1. -/
def ctrBlocks (keys : List (List Nat)) : Nat → Nat → Bytes
  | 0, _ => []
  | n + 1, v => aesEncrypt keys (beBytes 16 (v + 1)) ++ ctrBlocks keys n (v + 1)

/-- CTR_DRBG_Update from a counter, with 48 bytes of data. -/
def ctrUpdate (x : Drbg) (v : Nat) (d : Bytes) : Drbg :=
  let t := xorBytes (ctrBlocks (aesKeys x.key) 3 v) d
  { x with key := t.take 32, v := t.drop 32 }

/-- The personalisation string: device number, paddock number (0xFF for the yardmaster), owner epoch (R321). -/
def personal (s : State) (num : Nat) : Bytes := padTo 48 (leBytes 8 s.lc.deviceNumber ++ leBytes 1 num ++ leBytes 4 s.lc.epoch)

/-- An instance instantiated, or, where it lives, reseeded, with 384 bits of conditioned output (R321). -/
def seeded (s : State) (num : Nat) (x : Drbg) (e : Bytes) : Drbg :=
  let y := if x.live then ctrUpdate x (beNat x.v) e else ctrUpdate { key := zeros 32, v := zeros 16 } 0 (xorBytes e (personal s num))
  { y with live := true, requests := 0, seededAt := s.time, failed := false }

/-- A paddock's instance is seeded. -/
def seedPad (s : State) (p : Nat) : State :=
  modPad (seedMaterial s).2 p fun x => { x with drbg := seeded s p x.drbg (seedMaterial s).1, resetSeed := false }

/-- The yardmaster's instance is seeded. -/
def seedYm (s : State) : State :=
  let t := (seedMaterial s).2
  { t with rng := { t.rng with ymDrbg := seeded s 0xFF t.rng.ymDrbg (seedMaterial s).1 } }

/-- The output of one generate request of a paddock's instance, `n` bytes. -/
def generated (s : State) (p n : Nat) : Bytes :=
  let x := (padAt s p).drbg
  (ctrBlocks (aesKeys x.key) ((n + 15) / 16) (beNat x.v)).take n

/-- The instance after a generate request of `n` bytes, which is counted. -/
def afterRequest (s : State) (p n : Nat) : State :=
  modPad s p fun x => { x with drbg := { ctrUpdate x.drbg (beNat x.drbg.v + (n + 15) / 16) (zeros 48) with requests := x.drbg.requests + 1 } }

end Sys2Proof.Machine
end

