-- ==== Sys2Proof/Machine/Sources.lean ====
section
/-! DEFINITION. Sources.lean: the random source, the DRBG instances and what they feed (R173, R175, R311 to R326, R424): the outcome of
the start-up tests, the stop of the source, reseeds, capture generations and stall sources. -/

namespace Sys2Proof.Machine

/-- How many groups a mask holds. -/
def groupCount (m : Nat) : Nat := countBits m 16

/-- RN_STATUS.healthy: the groups in use. -/
def healthyGroups (s : State) : Nat := groupCount s.rng.healthy

/-- The yardmaster and its DRBG run: SYS is ON (R322). -/
def sysOn (s : State) : Bool := shedAt s 23 == 2

/-- Blocks are released: the source is ready, not stopped, and not in raw-sample mode (R316, R319, R325). -/
def sourceServes (s : State) : Bool := s.rng.ready && !s.rng.stopped && !s.rng.rawMode && sysOn s

/-- The instances of every present paddock and of the yardmaster seeded as part of the start-up sequence (R316). -/
def reseedAll (s : State) : State :=
  seedYm ((padsPresent s).foldl seedPad s)

/-- Every instance is lost (R322) and serves nothing until it is instantiated afresh. -/
def loseDrbgs (s : State) : State :=
  { s with pads := smMap {} (fun _ x => { x with drbg := {} }) s.pads, rng := { s.rng with ymDrbg := {} } }

/-! ## Capture generations (R173, R175) -/

/-- No record, live or being written, names the capture slot. -/
def capFree (s : State) (p g : Nat) : Bool := !(s.jobs.any fun j => j.paddock == p && j.capGen == some g)

/-- A new generation is drawn into a free slot by an instance just reseeded (R175, R321). -/
def drawNow (s : State) (p : Nat) : State :=
  match (List.range 16).find? (capFree s p) with
  | none => modPad (seedPad s p) p fun x => { x with genDue := true }
  | some g =>
    let s1 := seedPad s p
    recheck (journalWrite (modPad (afterRequest s1 p 32) p fun x =>
      { x with genDue := false, curGen := some g,
               caps := smSet {} x.caps g { drawn := true, key := generated s1 p 32, served := 0, drawnAt := s.time } })) [3]

/-! ## The output store (R314) -/

/-- Blocks of 256 bits a request takes: 384 bits for a reseed, 256 for a stall source or a remask pass (R321, R343, R424). -/
def blocksFor (r : Nat) : Nat := if r < 512 then 2 else 1

/-- A request is served. -/
def serveOne (s : State) (r : Nat) : State :=
  if r < 32 then recheck (seedPad s r) [3]
  else if r < 256 then seedYm s
  else if r < 512 then drawNow s (r - 256)
  else if r < 1024 then
    modSt (conditioned s).2 (r - 512) fun x => { x with ratchet := false, source := (conditioned s).1 }
  else { s with tk := { s.tk with maskDraw := s.freeCtr, remask := (s.tk.remask + 1) % 2 ^ 32 }, freeCtr := s.freeCtr + 1 }

/-- Requests are served in arrival order while blocks last; one that finds the store short waits (R314). -/
def serveStore : Nat → State → State
  | 0, s => s
  | fuel + 1, s => match s.rng.waiting with
    | [] => s
    | r :: l =>
      if sourceServes s && decide (blocksFor r ≤ s.rng.store) then
        serveStore fuel (serveOne { s with rng := { s.rng with waiting := l, store := s.rng.store - blocksFor r } } r)
      else s

/-- A request joins the ones waiting, and those that can be served are. -/
def request (s : State) (r : Nat) : State :=
  if s.rng.waiting.contains r then s
  else serveStore (s.rng.waiting.length + 1) { s with rng := { s.rng with waiting := s.rng.waiting ++ [r] } }

/-- A paddock's instance falls due for a reseed; where the source does not serve, it refuses until it has reseeded (R321). -/
def reseedPad (s : State) (p : Nat) : State :=
  if sourceServes s then request s p else modPad s p fun x => { x with drbg := { x.drbg with failed := true } }

/-- The yardmaster's own instance falls due. -/
def reseedYm (s : State) : State :=
  if sourceServes s then request s 32 else { s with rng := { s.rng with ymDrbg := { s.rng.ymDrbg with failed := true } } }

/-- The reseeds of a warm reset (Table 04.2). -/
def reseedWarm (s : State) : State := reseedYm ((padsPresent s).foldl reseedPad s)

/-- A capture generation is due and is drawn, with prediction resistance; a source that cannot serve it is a failed reseed (R175, R321). -/
def drawGen (s : State) (p : Nat) : State :=
  let s1 := modPad s p fun x => { x with genDue := true }
  if ((List.range 16).find? (capFree s p)).isNone then s1
  else if sourceServes s then request s1 (256 + p)
  else modPad s1 p fun x => { x with drbg := { x.drbg with failed := x.drbg.live && !s.rng.rawMode } }

/-- A paddock's instance serves a generate request; one whose reseed is due or waiting does not (R321). -/
def drbgServes (s : State) (p : Nat) : Bool :=
  let d := (padAt s p).drbg
  sourceServes s && d.live && !d.failed && !s.rng.waiting.contains p

/-- A generate request: the reseed that 65,536 requests or 1 s make due comes first (R321). -/
def dueReseed (s : State) (p : Nat) : State :=
  let d := (padAt s p).drbg
  if d.live && (decide (65536 ≤ d.requests) || decide (d.seededAt + 1000000000 ≤ s.time)) then reseedPad s p else s

/-! ## Stall sources (R424) -/

/-- The state of a local source ratcheted: SHAKE128 over the state and the count of ratchets. -/
def ratcheted (x : Stall) : Bytes := shake128 (x.source ++ leBytes 8 x.ratchetCount) 32

/-- The local source of a stall is seeded from the output store; when that cannot serve it because the source has stopped or is in
raw-sample mode, it ratchets. -/
def seedStall (s : State) (n : Nat) : State :=
  if s.rng.stopped || s.rng.rawMode then modSt s n fun x =>
    { x with ratchet := true, source := ratcheted x, ratchetCount := (x.ratchetCount + 1) % 2 ^ 64 }
  else request s (512 + n)

/-! ## Start-up tests and the stop of the source (R316 to R320) -/

/-- The source stops (R319): no request waits any longer, and a stall source that was waiting for its reseed ratchets (R424). -/
def stopSource (s : State) : State :=
  let s1 := { s with rng := { s.rng with ready := false, stopped := true, waiting := [], attempts := 0, restarting := false } }
  let s2 := (s.rng.waiting.filter fun r => decide (512 ≤ r) && decide (r < 1024)).foldl (fun t r => seedStall t (r - 512)) s1
  recheck (raiseEach (report s2 0x0D0 0x17 false 0 0) 19) [3]

/-- The start-up tests end: `passed` the groups that pass, `kat` the known-answer test (R316). -/
def startupPasses (s : State) (passed : Nat) (kat : Bool) : Bool :=
  kat && decide (8 ≤ groupCount (passed &&& (0xFFFF ^^^ s.rng.retired)))

/-- A success: the groups that passed are healthy, the others isolated, the instances seeded, ready (R316). -/
def sourceReady (s : State) (passed : Nat) : State :=
  let ok := passed &&& (0xFFFF ^^^ s.rng.retired)
  let s1 := { s with rng := { s.rng with healthy := ok, isolated := 0xFFFF ^^^ ok ^^^ (s.rng.retired % 2 ^ 16), ready := true,
                                         stopped := false, katOk := true, attempts := 0, restarting := false } }
  let s2 := recheck (causeEnds (reseedAll s1) 0x0D0 0x17) [3]
  serveStore (s2.rng.waiting.length) s2

/-- The start-up tests with their outcome; a third failure in a row stops the source, and a failed RESTART leaves it stopped (R316, R317,
R320). -/
def runStartup (s : State) (passed : Nat) (kat : Bool) : State :=
  if startupPasses s passed kat then sourceReady s passed
  else if s.rng.restarting then { s with rng := { s.rng with katOk := kat, restarting := false, cmdErr := 3 } }
  else
    let s1 := { s with rng := { s.rng with katOk := kat, attempts := s.rng.attempts + 1 } }
    if 3 ≤ s1.rng.attempts then stopSource s1 else s1

/-- Raw-sample mode ends: FIFO cleared, start-up tests to run. No generation serves while ready is 0 (R171), so none is owed (R326). -/
def endRaw (s : State) : State :=
  if !s.rng.rawMode then s
  else { s with rng := { s.rng with rawMode := false, fifo := [], ready := false, attempts := 0 } }

/-- How many unreleased blocks hold a group's bits depends on when it failed: free, from 0 to 9 with sixteen healthy groups and fewer with
fewer (R313, log entry 3). -/
def discardBlocks (s : State) : State :=
  let d := draw s
  { d.2 with rng := { d.2.rng with discarded := satAdd 0xFFFFFFFF d.2.rng.discarded (d.1 % (healthyGroups s / 2 + 2)) } }

/-- Fewer than 8 healthy groups stop a ready source (R319). -/
def stopIfFew (s : State) : State := if s.rng.ready && decide (healthyGroups s < 8) then stopSource s else s

/-- A group leaves the healthy ones (R318). -/
def isolateGroup (s : State) (g : Nat) : State :=
  if !(s.rng.ready && hasBit s.rng.healthy g) then s
  else
    let s1 := discardBlocks s
    stopIfFew { s1 with rng := { s1.rng with healthy := clearBit s1.rng.healthy g, isolated := setBit s1.rng.isolated g } }

/-- A group is retired: never tested or used again until cold reset (R318, R458). -/
def retireGroup (s : State) (g : Nat) : State :=
  stopIfFew { s with rng := { s.rng with healthy := clearBit s.rng.healthy g, isolated := clearBit s.rng.isolated g,
                                         retired := setBit s.rng.retired g } }

/-! ## Raw samples (R325) -/

/-- 64-bit words sampled by a time since raw-sample mode began: one bit of each selected group every 10 ns. -/
def rawWords (s : State) (time : Nat) : Nat :=
  (time - s.rng.rawFrom) / 10 * (if s.rng.sel = 16 then 16 else 1) / 64

/-- One word of samples, whose value is the source's: it joins the FIFO, or is dropped when 512 are waiting. -/
def pushRaw (s : State) : State :=
  let d := draw s
  if 512 ≤ s.rng.fifo.length then { s with rng := { s.rng with overflow := true } }
  else { d.2 with rng := { d.2.rng with fifo := d.2.rng.fifo ++ [BitVec.ofNat 64 d.1] } }

end Sys2Proof.Machine
end

