-- ==== Sys2Proof/Machine/Checks.lean ====
section
/-! DEFINITION. Checks.lean: the input checks that refuse (R215, R217, R263, R279). The curves are those of FIPS 186-5, RFC 8032 and
RFC 7748, which the manual names; their constants stand here (log entry 12). A check answers a diagnostic reason and index. -/

namespace Sys2Proof.Machine

/-! ## Encapsulation keys (R215, R217, R263) -/

/-- Coefficient `i` of a string of 12-bit coefficients (FIPS 203). -/
def coeff12 (b : Bytes) (i : Nat) : Nat := bits (leNat (slice b (3 * (i / 2)) 3)) (12 * (i % 2)) 12

/-- First index below `n` for which `f` holds. -/
def firstIndex (n : Nat) (f : Nat → Bool) : Option Nat := (List.range n).find? f

/-- R215: a coefficient that is 3,329 or more. -/
def mlkemCheck (ps : Nat) (key : Bytes) : Option (Nat × Nat) :=
  (firstIndex (256 * (ps + 1)) fun i => decide (3329 ≤ coeff12 key i)).map fun i => (0x0101, i)

/-! ## ML-DSA signatures (R216) -/

/-- k, ℓ, bits of a packed coefficient of z, ω, β and the length of c̃ of an ML-DSA param_set (FIPS 204). -/
def mldsaSizes (ps : Nat) : Nat × Nat × Nat × Nat × Nat × Nat :=
  match ps with
  | 1 => (4, 4, 18, 80, 78, 32)
  | 2 => (6, 5, 20, 55, 196, 48)
  | _ => (8, 7, 20, 75, 120, 64)

/-- Every coefficient of z is inside the norm bound γ1 − β. -/
def mldsaNormOk (ps : Nat) (sig : Bytes) : Bool :=
  let (_, l, w, _, beta, c) := mldsaSizes ps
  (List.range (256 * l)).all fun i =>
    let d := bits (leNat (slice sig (c + w * i / 8) 4)) (w * i % 8) w
    decide (beta < d) && decide (d + beta < 2 ^ w)

/-- Positions of one polynomial's hints rise strictly. -/
def risesFrom : Option Nat → List Nat → Bool
  | _, [] => true
  | none, a :: r => risesFrom (some a) r
  | some m, a :: r => decide (m < a) && risesFrom (some a) r

/-- The hint encoding is one that FIPS 204 writes: running counts that do not fall and stay within ω, rising positions, zeros after the last. -/
def mldsaHintOk (ps : Nat) (sig : Bytes) : Bool :=
  let (k, l, w, omega, _, c) := mldsaSizes ps
  let y := sig.drop (c + 32 * w * l)
  let upTo := fun (i : Nat) => if i = 0 then 0 else u8 y (omega + i - 1)
  (List.range k).all (fun i => decide (upTo i ≤ upTo (i + 1)) && decide (upTo (i + 1) ≤ omega) &&
    risesFrom none ((slice y (upTo i) (upTo (i + 1) - upTo i)).map (·.toNat))) &&
  allZero (slice y (upTo k) (omega - upTo k))

/-- Table 11.5, mceliece6960119: the padding bits of each of 1,547 rows of 677 bytes. -/
def mceCheck (key : Bytes) : Option (Nat × Nat) :=
  (firstIndex 1547 fun r => bits (u8 key (677 * r + 676)) 5 3 != 0).map fun r => (0x0301, r)

/-- Table 11.5, HQC: the padding bits of the last byte of s, with which the key ends. -/
def hqcCheck (ps : Nat) (key : Bytes) : Option (Nat × Nat) :=
  let pad := if ps = 2 then 5 else 3
  if bits (u8 key (key.length - 1)) (8 - pad) pad = 0 then none else some (0x0311, 0)

/-! ## Stateful signatures (R238, R239, R250; type codes of RFC 8554, RFC 8391 and SP 800-208, log entry 118) -/

/-- The big-endian 32-bit number at an offset. -/
def be32 (b : Bytes) (i : Nat) : Nat := beNat (slice b i 4)

/-- Height and Winternitz width that an LMS type and an LM-OTS type of a hash code name. -/
def lmsLevel (code lms ots : Nat) : Option (Nat × Nat) :=
  let l := 5 * code
  let o := 4 * code - 3
  if l ≤ lms ∧ lms < l + 5 ∧ o ≤ ots ∧ ots < o + 4 then some (5 * (lms - l + 1), 2 ^ (ots - o)) else none

/-- An HSS signature below its level count parses against the types of the key it is under: at each level the types agree, the leaf exists, and the
lengths come out at the end. -/
def hssParses (code n : Nat) : Nat → Nat → Nat → Bytes → Bool
  | 0, _, _, _ => false
  | l + 1, lms, ots, b => match lmsLevel code lms ots with
    | none => false
    | some (h, w) =>
      let size := 12 + n * (lmsP n w + 1 + h)
      let r := b.drop size
      decide (size ≤ b.length) && be32 b 4 == ots && be32 b (size - 4 - h * n) == lms && decide (be32 b 0 < 2 ^ h) &&
      (if l = 0 then r == [] else decide (24 + n ≤ r.length) && hssParses code n l (be32 r 0) (be32 r 4) (r.drop (24 + n)))

/-- LMS/HSS: level counts, type codes, heights and widths of the public key and the signature agree with param_set and with in1_len. -/
def lmsAgrees (ps : Nat) (pk sig : Bytes) : Bool :=
  let l := bits ps 8 4
  pk.length == 28 + hbsN ps && be32 pk 0 == l && be32 sig 0 + 1 == l &&
  hssParses (bits ps 12 4) (hbsN ps) l (be32 pk 4) (be32 pk 8) (sig.drop 4)

/-- The number of an XMSS^MT (h, d) pair in its standard's tables. -/
def xmssMtIndex (h d : Nat) : Nat :=
  if h = 20 then (if d = 2 then 0 else 1) else if h = 40 then (if d = 2 then 2 else if d = 4 then 3 else 4)
  else (if d = 3 then 5 else if d = 6 then 6 else 7)

/-- The algorithm identifier of an XMSS or XMSS^MT param_set. -/
def xmssOid (ps : Nat) : Nat :=
  let code := bits ps 12 4
  let h := bits ps 0 8
  if bits ps 8 4 = 1 then
    (match code with | 1 => 0x01 | 2 => 0x0D | 3 => 0x10 | _ => 0x13) + (if h = 10 then 0 else if h = 16 then 1 else 2)
  else (match code with | 1 => 0x01 | 2 => 0x21 | 3 => 0x29 | _ => 0x31) + xmssMtIndex h (bits ps 8 4)

/-- XMSS and XMSS^MT: the identifier in the public key, the signature's length and its leaf index agree with param_set. -/
def xmssAgrees (alg ps : Nat) (pk sig : Bytes) : Bool :=
  let h := bits ps 0 8
  pk.length == 4 + 2 * hbsN ps && be32 pk 0 == xmssOid ps && sig.length == hbsSig alg ps [] &&
  decide (beNat (sig.take (if bits ps 8 4 = 1 then 4 else (h + 7) / 8)) < 2 ^ h)

/-! ## RSA (Table 12.6) -/

/-- Odd primes below 1,000. -/
def oddPrimes : List Nat := (List.range 1000).filter fun n => decide (3 ≤ n) && (List.range n).all fun d => d < 2 || n % d != 0

/-- The public key: n in k bytes, then e in 4 bytes, both big-endian (R274). -/
def rsaCheck (ps : Nat) (key : Bytes) : Option (Nat × Nat) :=
  let k := 8 * ps
  let n := beNat (key.take k)
  let e := beNat (slice key k 4)
  if !n.testBit (8 * k - 1) then some (0x0401, 0)
  else if n % 2 = 0 then some (0x0402, 0)
  else if oddPrimes.any fun q => n % q == 0 then some (0x0403, 0)
  else if e % 2 = 0 ∨ e < 65537 then some (0x0404, 0)
  else none

/-- RSA-OAEP ciphertext c against the modulus n. -/
def oaepCheck (n : Nat) (ct : Bytes) : Option (Nat × Nat) :=
  let c := beNat ct
  if c ≤ 1 ∨ n ≤ c + 1 then some (0x0405, 0) else none

/-! ## NIST curves (FIPS 186-5) -/

/-- Prime and coefficient b of P-256, P-384, P-521 by param_set; a is −3. -/
def nistCurve (ps : Nat) : Nat × Nat :=
  match ps with
  | 1 => (2 ^ 256 - 2 ^ 224 + 2 ^ 192 + 2 ^ 96 - 1, 0x5AC635D8AA3A93E7B3EBBD55769886BC651D06B0CC53B0F63BCE3C3E27D2604B)
  | 2 => (2 ^ 384 - 2 ^ 128 - 2 ^ 96 + 2 ^ 32 - 1,
      0xB3312FA7E23EE7E4988E056BE3F82D19181D9C6EFE8141120314088F5013875AC656398D8A2ED19D2A85C8EDD3EC2AEF)
  | _ => (2 ^ 521 - 1,
      0x51953EB9618E1C9A1F929A21A0B68540EEA2DA725B99B315F3B8B489918EF109E156193951EC7E937B1652C0BD3BB1BF073573DF883D2C34F1EF451FD46B503F00)

/-- Order of the group of P-256, P-384, P-521. -/
def nistOrder (ps : Nat) : Nat :=
  match ps with
  | 1 => 0xFFFFFFFF00000000FFFFFFFFFFFFFFFFBCE6FAADA7179E84F3B9CAC2FC632551
  | 2 => 0xFFFFFFFFFFFFFFFFFFFFFFFFFFFFFFFFFFFFFFFFFFFFFFFFC7634D81F4372DDF581A0DB248B0A77AECEC196ACCC52973
  | _ => 2 ^ 521 - 0x5AE79787C40D069948033FEB708F65A2FC44A36477663B851449048E16EC79BF7

/-- An uncompressed point 0x04 ‖ X ‖ Y. -/
def nistCheck (ps : Nat) (key : Bytes) : Option (Nat × Nat) :=
  let (p, b) := nistCurve ps
  let w := (key.length - 1) / 2
  let x := beNat (slice key 1 w)
  let y := beNat (slice key (1 + w) w)
  if u8 key 0 ≠ 4 then some (0x0411, 0)
  else if p ≤ x ∨ p ≤ y then some (0x0412, 0)
  else if (y * y + 3 * x) % p = (x * x * x + b) % p then none
  else some (0x0413, 0)

/-! ## Edwards points (RFC 8032) -/

/-- Power modulo `m`, by the bits of the exponent; `fuel` is at least their number. -/
def powMod (m : Nat) : Nat → Nat → Nat → Nat
  | 0, _, _ => 1 % m
  | fuel + 1, a, e => if e = 0 then 1 % m else
    let h := powMod m fuel (a * a % m) (e / 2)
    if e % 2 = 1 then h * a % m else h

def p25519 : Nat := 2 ^ 255 - 19
def p448 : Nat := 2 ^ 448 - 2 ^ 224 - 1

/-- Order L of the group of Ed25519, Ed448. -/
def edwardsOrder (ps : Nat) : Nat :=
  if ps = 1 then 2 ^ 252 + 27742317777372353535851937790883648493
  else 2 ^ 446 - 13818066809895115352007386748515426880336692474882178609894547503885

/-- d of edwards25519: −121665 ÷ 121666. -/
def d25519 : Nat := (p25519 - 121665) * powMod p25519 256 121666 (p25519 - 2) % p25519

/-- u and v of x² = u ÷ v for a y. -/
def edwardsRatio (ps y : Nat) : Nat × Nat :=
  if ps = 1 then ((y * y + p25519 - 1) % p25519, (d25519 * (y * y) + 1) % p25519)
  else ((y * y + p448 - 1) % p448, ((p448 - 39081) * (y * y) + p448 - 1) % p448)

/-- y of the points whose order divides the cofactor. -/
def smallY (ps : Nat) : List Nat :=
  if ps = 1 then
    let y8 := 0x05FC536D880238B13933C6D305ACDFD5F098EFF289F4C345B027B2C28F95E826
    [0, 1, p25519 - 1, y8, p25519 - y8]
  else [0, 1, p448 - 1]

/-- An encoded point: y, with the sign of x in the top bit. -/
def edwardsCheck (ps : Nat) (key : Bytes) : Option (Nat × Nat) :=
  let p := if ps = 1 then p25519 else p448
  let v := leNat key
  let top := 8 * key.length - 1
  let y := v % 2 ^ top
  let (a, b) := edwardsRatio ps y
  let root := powMod p 512 (a * b % p) ((p - 1) / 2)
  if p ≤ y then some (0x0421, 0)
  else if 1 < root ∨ (a = 0 ∧ v.testBit top = true) then some (0x0422, 0)
  else if (smallY ps).contains y then some (0x0423, 0)
  else none

/-! ## Montgomery values (RFC 7748) -/

/-- u of the two points of order 8 of curve25519. -/
def order8U : List Nat :=
  [325606250916557431795983626356110631294008115727848805560023387167927233504,
   39382357235489614581723060781553021112529911719440698176882885853963445705823]

def montgomeryCheck (ps : Nat) (key : Bytes) : Option (Nat × Nat) :=
  let p := if ps = 1 then p25519 else p448
  let u := if ps = 1 then leNat key % 2 ^ 255 else leNat key
  if p ≤ u then some (0x0431, 0)
  else if u ≤ 1 ∨ u = p - 1 ∨ (ps = 1 ∧ u ∈ order8U) then some (0x0432, 0)
  else none

/-! ## By algorithm -/

/-- What a cache load, or an operation on an inline public key or a peer value, refuses; other families refuse nothing (R216, R230, R239). -/
def keyCheck (alg ps : Nat) (key : Bytes) : Option (Nat × Nat) :=
  if 16 ≤ alg ∧ alg ≤ 18 then mlkemCheck ps key
  else if alg = 62 ∨ alg = 63 then mceCheck key
  else if 68 ≤ alg ∧ alg ≤ 70 then hqcCheck ps key
  else if 72 ≤ alg ∧ alg ≤ 74 then rsaCheck ps key
  else if (76 ≤ alg ∧ alg ≤ 78) ∨ (80 ≤ alg ∧ alg ≤ 82) then nistCheck ps key
  else if alg = 84 ∨ alg = 85 then edwardsCheck ps key
  else if alg = 86 ∨ alg = 87 then montgomeryCheck ps key
  else none

end Sys2Proof.Machine
end

