-- ==== Sys2Proof/Machine/Lattice.lean ====
section
/-! DEFINITION. Lattice.lean: ML-KEM (FIPS 203) and ML-DSA (FIPS 204), which the manual says the part follows in full (chapter 09, R204, R216; log
entry 4). A polynomial is its 256 coefficients modulo q; a vector is a list of polynomials. -/

namespace Sys2Proof.Machine

abbrev Poly := List Nat

/-! ## Polynomials -/

def polyAdd (q : Nat) (a b : Poly) : Poly := List.zipWith (fun x y => (x + y) % q) a b
def polySub (q : Nat) (a b : Poly) : Poly := List.zipWith (fun x y => (x + (q - y % q)) % q) a b
def polyScale (q c : Nat) (a : Poly) : Poly := a.map fun x => c * x % q
def polyZero : Poly := List.replicate 256 0

/-- The low `n` bits of `k` in reverse order. -/
def revBits (n k : Nat) : Nat := ((List.range n).map fun i => if k.testBit i then 2 ^ (n - 1 - i) else 0).sum

/-- The number-theoretic transform from node `k` of its tree of halvings down `d` levels, with the power `z k` of the root at node `k`. -/
def nttFrom (q : Nat) (z : Nat → Nat) : Nat → Nat → Poly → Poly
  | 0, _, f => f
  | d + 1, k, f =>
    let lo := f.take (f.length / 2)
    let t := polyScale q (z k) (f.drop (f.length / 2))
    nttFrom q z d (2 * k) (polyAdd q lo t) ++ nttFrom q z d (2 * k + 1) (polySub q lo t)

/-- Its inverse but for the factor 2 ^ levels, with the inverse power `z k` at node `k`. -/
def nttBack (q : Nat) (z : Nat → Nat) : Nat → Nat → Poly → Poly
  | 0, _, f => f
  | d + 1, k, f =>
    let lo := nttBack q z d (2 * k) (f.take (f.length / 2))
    let hi := nttBack q z d (2 * k + 1) (f.drop (f.length / 2))
    polyAdd q lo hi ++ polyScale q (z k) (polySub q lo hi)

/-- Coefficients packed `d` bits each, the first in the least significant bits. -/
def packNat (d : Nat) : List Nat → Nat
  | [] => 0
  | a :: r => a % 2 ^ d + 2 ^ d * packNat d r

def packBits (d : Nat) (f : List Nat) : Bytes := leBytes (d * f.length / 8) (packNat d f)

/-- `n` fields of `d` bits each. -/
def unpackNat (d : Nat) : Nat → Nat → List Nat
  | 0, _ => []
  | n + 1, v => v % 2 ^ d :: unpackNat d n (v / 2 ^ d)

def unpackBits (d n : Nat) (b : Bytes) : List Nat := unpackNat d n (leNat b)

/-- A polynomial for each number below `n`. -/
def polys (n : Nat) (f : Nat → Poly) : List Poly := (List.range n).map f

/-- A string cut into `n` parts of `w` bytes. -/
def parts (n w : Nat) (b : Bytes) : List Bytes := (List.range n).map fun i => slice b (w * i) w

/-! ## ML-KEM -/

def kemQ : Nat := 3329

/-- 17 raised to the reversed index of a node, and its inverse; 17 has order 256. -/
def kemZeta (k : Nat) : Nat := powMod kemQ 16 17 (revBits 7 k)
def kemZetaInv (k : Nat) : Nat := powMod kemQ 16 17 (256 - revBits 7 k)

def kemNtt : Poly → Poly := nttFrom kemQ kemZeta 7 1
def kemNttInv (f : Poly) : Poly := polyScale kemQ 3303 (nttBack kemQ kemZetaInv 7 1 f)

/-- Products of the pairs of coefficients modulo X² − ζ, from pair `i`. -/
def kemPairs : Nat → Poly → Poly → Poly
  | i, a0 :: a1 :: a, b0 :: b1 :: b =>
    let g := powMod kemQ 16 17 (2 * revBits 7 i + 1)
    (a0 * b0 + a1 * b1 % kemQ * g) % kemQ :: (a0 * b1 + a1 * b0) % kemQ :: kemPairs (i + 1) a b
  | _, _, _ => []

def kemMul : Poly → Poly → Poly := kemPairs 0

/-- The inner product of two vectors. -/
def kemDot (a b : List Poly) : Poly := (List.zipWith kemMul a b).foldl (polyAdd kemQ) polyZero

/-- The candidates below q in a string of 12-bit fields. -/
def kemAccept : Bytes → Poly
  | b0 :: b1 :: b2 :: r =>
    let d1 := b0.toNat + 256 * (b1.toNat % 16)
    let d2 := b1.toNat / 16 + 16 * b2.toNat
    (if d1 < kemQ then [d1] else []) ++ (if d2 < kemQ then [d2] else []) ++ kemAccept r
  | _ => []

/-- SampleNTT; 280 groups of three bytes are the bound of Appendix B of FIPS 203. -/
def kemSample (seed : Bytes) : Poly := (kemAccept (shake128 seed 840)).take 256

/-- SamplePolyCBD of width `eta`. -/
def kemNoise (eta : Nat) (b : Bytes) : Poly :=
  (unpackBits (2 * eta) 256 b).map fun v => (countBits v eta + kemQ - countBits (v / 2 ^ eta) eta) % kemQ

/-- k, η1, d_u and d_v of a param_set. -/
def kemSizes (ps : Nat) : Nat × Nat × Nat × Nat := match ps with | 1 => (2, 3, 10, 4) | 2 => (3, 2, 10, 4) | _ => (4, 2, 11, 5)

/-- Noise polynomial `n` of a seed. -/
def kemNoiseAt (eta : Nat) (seed : Bytes) (n : Nat) : Poly := kemNoise eta (shake256 (seed ++ leBytes 1 n) (64 * eta))

/-- Row `i` of the matrix, or of its transpose. -/
def kemRow (k : Nat) (rho : Bytes) (transposed : Bool) (i : Nat) : List Poly :=
  polys k fun j => kemSample (rho ++ (if transposed then leBytes 1 i ++ leBytes 1 j else leBytes 1 j ++ leBytes 1 i))

/-- K-PKE key generation: the encryption key, and the secret vector in the transformed domain. -/
def kemKeys (ps : Nat) (d : Bytes) : Bytes × List Poly :=
  let (k, eta, _, _) := kemSizes ps
  let g := sha3_512 (d ++ leBytes 1 k)
  let rho := g.take 32
  let sHat := polys k fun i => kemNtt (kemNoiseAt eta (g.drop 32) i)
  let tHat := polys k fun i => polyAdd kemQ (kemDot (kemRow k rho false i) sHat) (kemNtt (kemNoiseAt eta (g.drop 32) (k + i)))
  (tHat.flatMap (packBits 12) ++ rho, sHat)

def compress (d x : Nat) : Nat := (2 * x * 2 ^ d + kemQ) / (2 * kemQ) % 2 ^ d
def decompress (d y : Nat) : Nat := (2 * kemQ * y + 2 ^ d) / 2 ^ (d + 1)

/-- K-PKE encryption of 32 bytes with a seed. -/
def kemEncrypt (ps : Nat) (ek m r : Bytes) : Bytes :=
  let (k, eta, du, dv) := kemSizes ps
  let tHat := (parts k 384 ek).map fun b => (unpackBits 12 256 b).map (· % kemQ)
  let rho := ek.drop (384 * k)
  let yHat := polys k fun i => kemNtt (kemNoiseAt eta r i)
  let u := polys k fun i => polyAdd kemQ (kemNttInv (kemDot (kemRow k rho true i) yHat)) (kemNoiseAt 2 r (k + i))
  let mu := (unpackBits 1 256 m).map (decompress 1)
  let v := polyAdd kemQ (polyAdd kemQ (kemNttInv (kemDot tHat yHat)) (kemNoiseAt 2 r (2 * k))) mu
  u.flatMap (fun f => packBits du (f.map (compress du))) ++ packBits dv (v.map (compress dv))

/-- The expanded decapsulation key of a seed d ‖ z, as FIPS 203 encodes it (R205). -/
def mlkemExpanded (ps : Nat) (seed : Bytes) : Bytes :=
  let x := kemKeys ps (seed.take 32)
  x.2.flatMap (packBits 12) ++ x.1 ++ sha3_256 x.1 ++ seed.drop 32

/-- K-PKE decryption. -/
def kemDecrypt (ps : Nat) (sHat : List Poly) (ct : Bytes) : Bytes :=
  let (k, _, du, dv) := kemSizes ps
  let u := (parts k (32 * du) ct).map fun b => (unpackBits du 256 b).map (decompress du)
  let v := (unpackBits dv 256 (ct.drop (32 * du * k))).map (decompress dv)
  packBits 1 ((polySub kemQ v (kemNttInv (kemDot sHat (u.map kemNtt)))).map (compress 1))

/-- The encapsulation key of a seed d ‖ z (R204). -/
def mlkemPublic (ps : Nat) (seed : Bytes) : Bytes := (kemKeys ps (seed.take 32)).1

/-- Encapsulation: the shared secret and the ciphertext (R208). -/
def mlkemEncaps (ps : Nat) (ek m : Bytes) : Bytes × Bytes :=
  let g := sha3_512 (m ++ sha3_256 ek)
  (g.take 32, kemEncrypt ps ek m (g.drop 32))

/-- Decapsulation with implicit rejection (R216). -/
def mlkemDecaps (ps : Nat) (seed ct : Bytes) : Bytes :=
  let key := kemKeys ps (seed.take 32)
  let again := mlkemEncaps ps key.1 (kemDecrypt ps key.2 ct)
  if again.2 = ct then again.1 else shake256 (seed.drop 32 ++ ct) 32

/-! ## ML-DSA -/

def dsaQ : Nat := 8380417

def dsaZeta (k : Nat) : Nat := powMod dsaQ 16 1753 (revBits 8 k)
def dsaZetaInv (k : Nat) : Nat := powMod dsaQ 16 1753 (512 - revBits 8 k)
def dsaNtt : Poly → Poly := nttFrom dsaQ dsaZeta 8 1
def dsaNttInv (f : Poly) : Poly := polyScale dsaQ 8347681 (nttBack dsaQ dsaZetaInv 8 1 f)
def dsaMul (a b : Poly) : Poly := List.zipWith (fun x y => x * y % dsaQ) a b
def dsaDot (a b : List Poly) : Poly := (List.zipWith dsaMul a b).foldl (polyAdd dsaQ) polyZero

/-- A matrix of the transformed domain times a vector of it, back in the plain domain. -/
def dsaApply (rows : List (List Poly)) (v : List Poly) : List Poly := rows.map fun r => dsaNttInv (dsaDot r v)

/-- η, τ, γ2 of a param_set; γ1 is 2 ^ (w − 1) with w of mldsaSizes. -/
def dsaParams (ps : Nat) : Nat × Nat × Nat :=
  match ps with | 1 => (2, 39, 95232) | 2 => (4, 49, 261888) | _ => (2, 60, 261888)

/-- Candidates of RejNTTPoly: three bytes less the top bit, below q. -/
def dsaAccept : Bytes → Poly
  | b0 :: b1 :: b2 :: r =>
    let v := b0.toNat + 256 * b1.toNat + 65536 * (b2.toNat % 128)
    if v < dsaQ then v :: dsaAccept r else dsaAccept r
  | _ => []

/-- RejNTTPoly; 298 groups are the bound of Appendix C of FIPS 204. -/
def dsaSample (seed : Bytes) : Poly := (dsaAccept (shake128 seed 894)).take 256

def dsaMatrix (ps : Nat) (rho : Bytes) : List (List Poly) :=
  (List.range (mldsaSizes ps).1).map fun r => polys (mldsaSizes ps).2.1 fun c => dsaSample (rho ++ leBytes 1 c ++ leBytes 1 r)

/-- A half byte as a coefficient from −η to η. -/
def dsaHalf (eta z : Nat) : List Nat :=
  if eta = 2 then (if z < 15 then [(dsaQ + 2 - z % 5) % dsaQ] else []) else if z < 9 then [(dsaQ + 4 - z) % dsaQ] else []

/-- RejBoundedPoly; 481 bytes are the bound of Appendix C of FIPS 204. -/
def dsaSmall (eta : Nat) (seed : Bytes) : Poly :=
  ((shake256 seed 481).flatMap fun b => dsaHalf eta (b.toNat % 16) ++ dsaHalf eta (b.toNat / 16)).take 256

/-- A key expanded from its seed ξ (R205): ρ, K, s1, s2 and t. -/
structure DsaKey where
  rho : Bytes := []
  k : Bytes := []
  s1 : List Poly := []
  s2 : List Poly := []
  t : List Poly := []

def dsaExpand (ps : Nat) (seed : Bytes) : DsaKey :=
  let (k, l, _) := mldsaSizes ps
  let g := shake256 (seed ++ leBytes 1 k ++ leBytes 1 l) 128
  let small := fun r => dsaSmall (dsaParams ps).1 (slice g 32 64 ++ leBytes 2 r)
  let s1 := polys l small
  let s2 := polys k fun r => small (l + r)
  { rho := g.take 32, k := g.drop 96, s1 := s1, s2 := s2,
    t := List.zipWith (polyAdd dsaQ) (dsaApply (dsaMatrix ps (g.take 32)) (s1.map dsaNtt)) s2 }

/-- Power2Round: the high part, and the low part modulo q. -/
def dsaHigh13 (r : Nat) : Nat := (r + 4095) / 8192
def dsaLow13 (r : Nat) : Nat := (r + dsaQ - 8192 * dsaHigh13 r) % dsaQ

def dsaPublicOf (x : DsaKey) : Bytes := x.rho ++ x.t.flatMap fun f => packBits 10 (f.map dsaHigh13)

/-- The public key of a seed ξ (R204). -/
def mldsaPublic (ps : Nat) (seed : Bytes) : Bytes := dsaPublicOf (dsaExpand ps seed)

/-- tr of a public key: 64 bytes of SHAKE256 over it (FIPS 204, R208). -/
def mldsaTr (pk : Bytes) : Bytes := shake256 pk 64

/-- The message representative µ of FIPS 204. -/
def mldsaMu (tr m : Bytes) : Bytes := shake256 (tr ++ m) 64

/-- The expanded signing key of a seed ξ, as FIPS 204 encodes it (R205). -/
def mldsaExpanded (ps : Nat) (seed : Bytes) : Bytes :=
  let x := dsaExpand ps seed
  let eta := (dsaParams ps).1
  let small := fun (v : List Poly) => v.flatMap fun f => packBits (if eta = 2 then 3 else 4) (f.map fun r => (eta + dsaQ - r) % dsaQ)
  x.rho ++ x.k ++ mldsaTr (dsaPublicOf x) ++ small x.s1 ++ small x.s2 ++
    x.t.flatMap fun f => packBits 13 (f.map fun r => (4096 + dsaQ - dsaLow13 r) % dsaQ)

/-- Decompose: r1 and r0 modulo q, of r = r1 · 2γ2 + r0. -/
def dsaDecompose (g2 r : Nat) : Nat × Nat :=
  let a := 2 * g2
  let low := if r % a ≤ g2 then r % a else r % a + dsaQ - a
  let high := (r + dsaQ - low) % dsaQ
  if high = dsaQ - 1 then (0, (low + dsaQ - 1) % dsaQ) else (high / a, low)

/-- The distance of a residue from 0. -/
def dsaNorm (r : Nat) : Nat := min r (dsaQ - r)
def dsaBelow (bound : Nat) (v : List Poly) : Bool := v.all fun f => f.all fun x => decide (dsaNorm x < bound)

/-- w1Encode: six bits a coefficient for γ2 95,232, else four. -/
def dsaEncodeHigh (g2 : Nat) (v : List Poly) : Bytes := v.flatMap (packBits (if g2 = 95232 then 6 else 4))

/-- SampleInBall: the signs' bits, the bytes still to draw from and the positions left, 256 − τ upwards. -/
def dsaBall : Nat → Nat → Nat → Bytes → Poly → Poly
  | _, _, _, [], c => c
  | 0, _, _, _, c => c
  | n + 1, i, signs, j :: r, c =>
    if i < j.toNat then dsaBall (n + 1) i signs r c
    else dsaBall n (i + 1) (signs / 2) r ((c.set i (c.getD j.toNat 0)).set j.toNat (if signs % 2 = 1 then dsaQ - 1 else 1))

/-- SampleInBall; 221 bytes of stream are the bound of Appendix C of FIPS 204. -/
def dsaChallenge (ps : Nat) (seed : Bytes) : Poly :=
  let b := shake256 seed 229
  let tau := (dsaParams ps).2.1
  dsaBall tau (256 - tau) (leNat (b.take 8)) (b.drop 8) polyZero

/-- ExpandMask: vector y of counter κ. -/
def dsaMask (ps : Nat) (seed : Bytes) (kappa : Nat) : List Poly :=
  let w := (mldsaSizes ps).2.2.1
  polys (mldsaSizes ps).2.1 fun r =>
    (unpackBits w 256 (shake256 (seed ++ leBytes 2 (kappa + r)) (32 * w))).map fun v => (2 ^ (w - 1) + dsaQ - v) % dsaQ

/-- Indices of a polynomial's hints. -/
def dsaHintsOf (f : List Bool) : List Nat := (List.range 256).filter fun i => f.getD i false

/-- HintBitPack: positions, zeros, running counts. -/
def dsaPackHints (omega : Nat) (h : List (List Bool)) : Bytes :=
  let at_ := h.map dsaHintsOf
  padTo omega (at_.flatMap fun l => l.map (BitVec.ofNat 8)) ++
    (List.range h.length).map fun i => BitVec.ofNat 8 ((at_.take (i + 1)).map (·.length)).sum

/-- HintBitUnpack of a string that mldsaHintOk accepts. -/
def dsaUnpackHints (omega k : Nat) (y : Bytes) : List (List Bool) :=
  let upTo := fun (i : Nat) => if i = 0 then 0 else u8 y (omega + i - 1)
  (List.range k).map fun i => (List.range 256).map fun x => (slice y (upTo i) (upTo (i + 1) - upTo i)).contains (BitVec.ofNat 8 x)

/-- One signing attempt with the mask of counter κ: none where it is rejected. -/
def dsaAttempt (ps : Nat) (x : DsaKey) (rows : List (List Poly)) (mu seed : Bytes) (kappa : Nat) : Option Bytes :=
  let (k, _, w, omega, beta, c) := mldsaSizes ps
  let g2 := (dsaParams ps).2.2
  let y := dsaMask ps seed kappa
  let wv := dsaApply rows (y.map dsaNtt)
  let ct := shake256 (mu ++ dsaEncodeHigh g2 (wv.map fun f => f.map fun r => (dsaDecompose g2 r).1)) c
  let ch := dsaNtt (dsaChallenge ps ct)
  let times := fun (v : List Poly) => v.map fun f => dsaNttInv (dsaMul ch (dsaNtt f))
  let z := List.zipWith (polyAdd dsaQ) y (times x.s1)
  let less := List.zipWith (polySub dsaQ) wv (times x.s2)
  let ct0 := times (x.t.map fun f => f.map dsaLow13)
  let hints := List.zipWith (List.zipWith fun a b => decide ((dsaDecompose g2 ((a + b) % dsaQ)).1 ≠ (dsaDecompose g2 a).1)) less ct0
  if dsaBelow (2 ^ (w - 1) - beta) z && dsaBelow (g2 - beta) (less.map fun f => f.map fun r => (dsaDecompose g2 r).2) && dsaBelow g2 ct0 &&
    decide ((hints.map fun f => (dsaHintsOf f).length).sum ≤ omega) && k == hints.length then
    some (ct ++ z.flatMap (fun f => packBits w (f.map fun r => (2 ^ (w - 1) + dsaQ - r) % dsaQ)) ++ dsaPackHints omega hints)
  else none

/-- The first attempt from counter κ that succeeds, with how many were made; κ counts in two bytes, so `fuel` bounds them. -/
def dsaTry (ps : Nat) (x : DsaKey) (rows : List (List Poly)) (mu seed : Bytes) : Nat → Nat → Nat → Option (Bytes × Nat)
  | 0, _, _ => none
  | fuel + 1, kappa, n => match dsaAttempt ps x rows mu seed kappa with
    | some sig => some (sig, n + 1)
    | none => dsaTry ps x rows mu seed fuel (kappa + (mldsaSizes ps).2.1) (n + 1)

/-- ML-DSA.Sign_internal over M′ with rnd (R218, R219, R222): the signature and the attempts it took. -/
def mldsaSign (ps : Nat) (seed m rnd : Bytes) : Option (Bytes × Nat) :=
  let x := dsaExpand ps seed
  let mu := mldsaMu (mldsaTr (dsaPublicOf x)) m
  dsaTry ps x (dsaMatrix ps x.rho) mu (shake256 (x.k ++ rnd ++ mu) 64) (65536 / (mldsaSizes ps).2.1) 0 0

/-- UseHint. -/
def dsaUseHint (g2 r : Nat) (h : Bool) : Nat :=
  let d := dsaDecompose g2 r
  let m := (dsaQ - 1) / (2 * g2)
  if !h then d.1 else if 0 < d.2 ∧ d.2 ≤ dsaQ / 2 then (d.1 + 1) % m else (d.1 + m - 1) % m

/-- ML-DSA.Verify_internal from µ (R216): decoding, the norm bound, and the commitment hash. -/
def mldsaVerify (ps : Nat) (pk mu sig : Bytes) : Bool :=
  let (k, l, w, omega, _, c) := mldsaSizes ps
  let g2 := (dsaParams ps).2.2
  let z := (parts l (32 * w) (sig.drop c)).map fun b => (unpackBits w 256 b).map fun v => (2 ^ (w - 1) + dsaQ - v) % dsaQ
  let hints := dsaUnpackHints omega k (sig.drop (c + 32 * w * l))
  let t1 := (parts k 320 (pk.drop 32)).map fun b => polyScale dsaQ 8192 (unpackBits 10 256 b)
  let ch := dsaNtt (dsaChallenge ps (sig.take c))
  let zHat := z.map dsaNtt
  let wv := List.zipWith (fun row t => dsaNttInv (polySub dsaQ (dsaDot row zHat) (dsaMul ch (dsaNtt t)))) (dsaMatrix ps (pk.take 32)) t1
  let w1 := List.zipWith (List.zipWith (dsaUseHint g2)) wv hints
  mldsaHintOk ps sig && mldsaNormOk ps sig && sig.take c == shake256 (mu ++ dsaEncodeHigh g2 w1) c

end Sys2Proof.Machine
end

