-- ==== Sys2Proof/Machine/Sequencer.lean ====
section
/-! DEFINITION. Sequencer.lean: a stall's control store, dispatch table and microcode sequencer (R348 to R352): the fields of a word, its
SECDED check, the conditions a word may select, and the word the sequencer issues next. What a word's datapath bits do, the kind's microcode
build defines: outcome flags and length counter are free values (log entry 116). -/

namespace Sys2Proof.Machine

/-! ## Control-store words (Table 16.1) -/

/-- The fields of a control-store word. -/
structure ControlWord where
  /-- [13:0] -/
  next : Nat
  /-- [16:14] -/
  seq : Nat
  /-- [21:17] -/
  cond : Nat
  /-- [22] -/
  safe : Bool
  /-- [23] -/
  commit : Bool
  /-- [24] -/
  ckpt : Bool
  /-- [31:25] -/
  count : Nat
  /-- [142:32] -/
  datapath : Nat
  /-- [150:143] -/
  yard : Nat
  /-- [159:151] -/
  check : Nat
deriving DecidableEq, Repr

/-- The fields of 160 bits. -/
def controlFields (w : Nat) : ControlWord :=
  { next := bits w 0 14, seq := bits w 14 3, cond := bits w 17 5, safe := hasBit w 22, commit := hasBit w 23, ckpt := hasBit w 24,
    count := bits w 25 7, datapath := bits w 32 111, yard := bits w 143 8, check := bits w 151 9 }

/-- A word agrees with its SECDED code. -/
def controlChecks (w : Nat) : Bool := Config.controlCode (bits w 0 151) % 512 == bits w 151 9

/-- One bit of a word inverted. -/
def flipBit (w i : Nat) : Nat := w ^^^ 2 ^ i

/-- What a fetch finds (R352): the word; the word with its single-bit error corrected, to be rewritten; or a double-bit error. -/
inductive ControlFetch where
  | good (w : Nat)
  | corrected (w : Nat)
  | uncorrectable
deriving DecidableEq, Repr

/-- The check of 160 bits read from a control store. -/
def checkControl (w : Nat) : ControlFetch :=
  if controlChecks w then .good w
  else match (List.range 160).find? fun i => controlChecks (flipBit w i) with
    | some i => .corrected (flipBit w i)
    | none => .uncorrectable

/-! ## What the stalls of a kind hold (R348, R351) -/

/-- The microcode image of a stall's kind. -/
def storeOf (s : State) (n : Nat) : LoadedImage := smGet {} s.sys.loaded (stallKind n + 1)

/-- The 160 bits at an address of a stall's control store, as the image wrote them. -/
def controlAt (s : State) (n a : Nat) : Nat :=
  let w := Config.controlWord (storeOf s n).store (a % 2 ^ 14) % 2 ^ 151
  w + (Config.controlCode w % 512) * 2 ^ 151

/-- The 10-bit stall opcode of a descriptor on a stall. -/
def stallOpcode (s : State) (n : Nat) (d : Desc) : Nat := Config.stallOpcode (storeOf s n).store d.opcode d.paramSet % 1024

/-- The 32-bit dispatch-table entry of a descriptor on a stall: start address, valid, long, zeros. -/
def dispatchEntry (s : State) (n : Nat) (d : Desc) : Nat :=
  let e := Config.dispatchEntry (storeOf s n).store (stallOpcode s n d) % 2 ^ 16
  if (storeOf s n).invalid.contains (d.opcode, d.paramSet) then clearBit e 14 else setBit e 14

/-- The entry is valid. -/
def entryValid (s : State) (n : Nat) (d : Desc) : Bool := !(storeOf s n).invalid.contains (d.opcode, d.paramSet)

/-! ## The sequencer (R349, R350) -/

/-- The inputs a cond field can select: loop and length counters at 0, command FIFO empty, completion FIFO full, the pending yield, claim,
stop and fault requests, and the four outcome flags. No other input reaches a condition. -/
def condInputs (x : Stall) : List Bool :=
  [x.sequ.loop == 0, x.sequ.len == 0, x.cmdRd == x.cmdWr, (x.cplWr + 32 - x.cplRd) % 32 == 16, x.reqYield, x.reqClaim, x.reqStop, x.reqFault,
   x.sequ.flags.getD 0 false, x.sequ.flags.getD 1 false, x.sequ.flags.getD 2 false, x.sequ.flags.getD 3 false]

/-- The condition a word selects. -/
def condHolds (x : Stall) (cond : Nat) : Bool := (condInputs x).getD (Config.condInput cond % 12) false

/-- The sequencer after a word; none for seq 7, which is a fault. A return with no call in progress ends the routine, and a loop's body runs
count times (DESIGN CHOICE, log 116). -/
def seqAfter (x : Stall) (w : ControlWord) : Option Sequencer :=
  let q := x.sequ
  let on := { q with upc := (q.upc + 1) % 2 ^ 14 }
  match w.seq with
  | 0 => some on
  | 1 => some { q with upc := w.next }
  | 2 => some (if condHolds x w.cond then { q with upc := w.next } else on)
  | 3 => some { q with upc := w.next, stack := on.upc :: q.stack }
  | 4 => some (match q.stack with
    | [] => { q with running := false }
    | a :: r => { q with upc := a, stack := r })
  | 5 =>
    let left := if q.loop = 0 then w.count else q.loop
    some (if left ≤ 1 then { on with loop := 0 } else { q with upc := w.next, loop := left - 1 })
  | 6 => some { q with running := false }
  | _ => none

/-- The sequencer pauses: the word starts a yard or FIFO transfer and the completion FIFO is full (R348, R367). -/
def seqPauses (x : Stall) (w : ControlWord) : Bool := w.yard != 0 && (x.cplWr + 32 - x.cplRd) % 32 == 16

/-- The sequencer of a stall after its word, with the outcome flags and the length counter that its datapath gives; without a next word it
stops. -/
def seqStepped (y : Stall) (w : ControlWord) (flags : List Bool) (len : Nat) : Sequencer := match seqAfter y w with
  | some q => { q with flags := flags, len := len }
  | none => { y.sequ with running := false }

/-- One stall cycle: one word is issued; outcome flags and length counter become what the datapath makes them, a free value. At seq 7 the
sequencer stops, and the collector's FAULT_REPORT brings FK_UCODE_MAP. -/
def seqCycle (s : State) (n : Nat) : State :=
  let x := stAt s n
  if x.state ≠ 2 ∨ x.sequ.running = false then s
  else
    let w := controlFields (controlAt s n x.sequ.upc)
    if seqPauses x w then s
    else
      let d := draw s
      modSt d.2 n fun y => { y with sequ := seqStepped y w ((List.range 4).map (hasBit d.1)) (bits d.1 4 20) }

/-- A routine starts: at its dispatch-table entry, or at the resume address of a saved context (R351, R356). -/
def startSequencer (s : State) (n : Nat) (j : Job) : Sequencer :=
  { upc := match j.context with
      | some c => c.resumeAt
      | none => bits (dispatchEntry s n j.desc) 0 14,
    len := (j.desc.in0Len + 63) / 64, running := true }

end Sys2Proof.Machine
end

