-- ==== Sys2Proof/Machine/Stalls.lean ====
section
/-! DEFINITION. Stalls.lean: what every stall kind shares (chapter 16): which job a stall may be given (R357 to R360), the yard cells a
job holds, the end of an execution, moves, abandonment, stall failure, muck-out, retirement and spares (R353 to R373, R456, R457). -/

namespace Sys2Proof.Machine

/-! ## What a stall's operand memory holds of a job's key (R205) -/

/-- A lattice private key expanded from its seed: ML-KEM's d ‖ z or ML-DSA's ξ (R205). -/
def expandKey (alg ps : Nat) (seed : Bytes) : Bytes := if alg ≤ 18 then mlkemExpanded ps seed else mldsaExpanded ps seed

/-- Held form of the key a handle of the job names. -/
def heldKey (s : State) (j : Job) (h : Nat) : Bytes := match keyLoc j.paddock h with
  | some l => keyBytes s l
  | none => []

/-- What a job puts into its stall's operand memory of its private key: a lattice key expanded, any other as it is held. -/
def stallOperands (s : State) (j : Job) : List Bytes :=
  let k := heldKey s j j.desc.keyRef
  if k = [] ∨ hCls j.desc.keyRef = 8 then []
  else [if j.desc.opcode = 0x0102 ∨ j.desc.opcode = 0x0111 then expandKey ((algOf j.desc).getD 0) j.desc.paramSet k else k]

/-! ## Which kind of stall a job runs on next -/

/-- The job starts with a hash or lattice phase and ends on a PKE stall (R113, R286). -/
def twoPhase (d : Desc) (alg : Nat) : Bool := firstKind d alg != lastKind d alg || (d.opcode == 0x0E10 && d.keyRef == 0)

/-- Algorithm of a job: a quote's is its key's, ML-DSA-87 before ECDSA P-384 for the identity pair (R113). -/
def jobAlg (s : State) (j : Job) : Nat :=
  if j.desc.opcode = 0x0E10 then
    if j.desc.keyRef = 0 then (if j.absorbed then 77 else 22)
    else match keyLoc j.paddock j.desc.keyRef with
      | some l => (viewOf s (hPad j.desc.keyRef) l).alg
      | none => 0
  else (algOf j.desc).getD 0

/-- Stall kind of the job's next phase; 0 for a job that reaches no stall. -/
def needKind (s : State) (j : Job) : Nat :=
  let a := jobAlg s j
  if j.fixed ≠ 0 then 0
  else if j.desc.opcode = 0x0E10 then (if a ≤ 22 then 1 else 3)
  else if j.absorbed then lastKind j.desc a
  else firstKind j.desc a

/-- A stall that the partial plan being drained takes from its paddock: nothing new is dispatched to it (Table 04.11). -/
def swapRemoves (s : State) (n : Nat) : Bool := match s.pl.swap with
  | some w => (stAt s n).dedicated == some w.paddock && !hasBit w.record.stallMap n
  | none => false

/-- R357: the stalls dedicated to the paddock, and the pool stalls when it has pool use. -/
def mayUse (s : State) (p n : Nat) : Bool :=
  !swapRemoves s n && ((stAt s n).dedicated == some p || ((stAt s n).inPool && (padRec s p).poolUse))

/-- Wake policy of a shed. -/
def shedPolicy (s : State) (i : Nat) : Nat := (smGet {} s.plan.sheds i).policy

/-- A stall the dispatcher may offer jobs to: sound, its shed not in wake policy NEVER (R64, R357). -/
def offered (s : State) (n : Nat) : Bool := stallSound s n && shedPolicy s (stallShed n) != 2

/-! ## Yard cells (R360 to R362, Table 16.6) -/

/-- Cells of the paddock's rings (R414). -/
def ringCellsOf (s : State) (p : Nat) : Nat :=
  ((queueNums s).map fun q => if (qAt s q).bx && padOfQueue s q == some p then (qAt s q).ringCells else 0).sum

/-- Live jobs of a paddock. -/
def padJobs (s : State) (p : Nat) : List Job := (liveJobs s).filter fun j => j.paddock == p

/-- Staged descriptor copies: one cell each (R360). -/
def stagedCells (s : State) (p : Nat) : Nat := ((padJobs s p).filter fun j => j.phase == .staged && j.fixed == 0).length

/-- QM_YARD_p.in_use and reserved. -/
def yardInUse (s : State) (p : Nat) : Nat := ringCellsOf s p + stagedCells s p + ((padJobs s p).map fun j => j.drawn).sum
def yardReserved (s : State) (p : Nat) : Nat := ((padJobs s p).map fun j => j.cells - j.drawn).sum

/-- Cells the paddock's rings and reservations hold against its quota. -/
def yardHeld (s : State) (p : Nat) : Nat := ringCellsOf s p + ((padJobs s p).map fun j => j.cells).sum

/-- The feed FIFO a job of paddock code names as in0 (R368, R416). -/
def feedOf (j : Job) : Option Nat :=
  if j.bx && decide (0 < j.desc.in0Len) && bits j.desc.in0Addr 24 4 == 1 then some (j.paddock * 16 + bits j.desc.in0Addr 20 4) else none

/-- The job has consumed all it will from its feed FIFO: its replays read the feed-copy cells (R368, R370). -/
def feedDone (j : Job) : Bool := j.feedBad != 0 || (match j.feedCopy with
  | some b => b.length == j.desc.in0Len
  | none => false)

/-- Cells the job still needs to reserve: its algorithm's floor, and the cells of what it copies from a feed FIFO (R360, R370). -/
def cellsNeeded (s : State) (j : Job) : Nat :=
  if j.cells ≠ 0 then 0 else yardFloor (jobAlg s j) + (if (feedOf j).isSome then (j.desc.in0Len + 255) / 256 else 0)

/-- The reservation fits the quota (R360, R362). -/
def cellsFit (s : State) (j : Job) : Bool :=
  cellsNeeded s j == 0 || decide (yardHeld s j.paddock + cellsNeeded s j ≤ (padRec s j.paddock).yardCells)

/-- Digest and MAC jobs, of which a hash stall runs up to eight of one paddock at once (R303). -/
def isDigest (d : Desc) : Bool := d.opcode ∈ [0x0500, 0x0510, 0x0511, 0x0518, 0x0519]

/-! ## Safe points and checkpoints of each routine (R221, R233, R237, R268, R286, R304; log entry 117) -/

/-- The routine has safe points before its output write: after each 64 KiB absorbed, at each attempt, leaf group, window, candidate, pivot
group, streamed segment or block. -/
def hasSafePoints (d : Desc) : Bool :=
  match d.opcode with
  | 0x0111 | 0x0201 | 0x0210 | 0x0220 | 0x0300 | 0x0301 | 0x0302 | 0x0400 | 0x0401 | 0x0404 | 0x0E10 => true
  | 0x0112 => decide (65536 ≤ d.in0Len)
  | 0x0410 | 0x0411 | 0x0412 | 0x0418 | 0x0419 | 0x041A | 0x0420 | 0x0421 | 0x0422 | 0x0428 | 0x0429 | 0x042A => true
  | _ => isDigest d

/-- The routine's commit points write checkpoints: s-set SLH-DSA signing, stateful, McEliece and RSA key generation. -/
def writesCheckpoints (d : Desc) : Bool :=
  d.opcode ∈ [0x0210, 0x0220, 0x0300, 0x0400] || (d.opcode == 0x0201 && (d.paramSet - 1) / 2 % 2 == 0)

/-- A yield or claim at a safe point leaves what the job is doing to another stall. -/
def mayPause (j : Job) : Bool := hasSafePoints j.desc

/-! ## Eligibility and order (R16, R357 to R360) -/

/-- The keys a job names can be invoked now: blobs loaded, slots restored (R341, R342). -/
def keysReady (s : State) (j : Job) : Bool :=
  !j.waitKey && (handlesOf j.desc).all fun h =>
    hCls h == 8 || (match keyLoc j.paddock h with
      | some (.slot n) => (slotAt s n).state != 5
      | some (.blob b) => (blobAt s b).loaded
      | _ => true)

/-- The cache entry a job names is in place: not awaiting the restore of R260 or its load's replay. -/
def cacheReady (s : State) (j : Job) : Bool :=
  (handlesOf j.desc).all fun h => match cacheOf j.paddock h with
    | none => true
    | some k => let e := cacheAt s k
      e.evicted || e.complete || !e.present || e.gen != hGen h

/-- The paddock's replays may begin: the stalls that last ran its jobs are mucked out and its instance is reseeded (R79). -/
def replayMayBegin (s : State) (p : Nat) : Bool := (padAt s p).resetStalls.isEmpty && !(padAt s p).resetSeed

/-- A staged job that can be started. -/
def canStart (s : State) (j : Job) : Bool :=
  j.phase == .staged && j.fixed == 0 && (!j.replaying || replayMayBegin s j.paddock) && keysReady s j && cacheReady s j && !j.retrying &&
  (match feedOf j with
    | some f => feedDone j || !(feedAt s f).stopped
    | none => true)

/-- Nothing stops dispatch: no flush, no reset, no alarm, no fencing (R183, R198, R437). -/
def dispatchRuns (s : State) : Bool :=
  !frozen s && s.jn.role != 3 && !s.sys.boundary && !s.tp.tamperHold && !(s.tp.latched && s.tp.response != 0) && decide (13 < s.sys.stage)

/-- Prio class in order: high, normal, low; a promoted low job ranks as normal (R358). -/
def prioRank (j : Job) : Nat :=
  match bits j.desc.flags 1 2 with
  | 1 => 0
  | 2 => if j.promoted then 1 else 2
  | _ => 1

/-- R358: class, t_accept, paddock number. -/
def before (a b : Job) : Bool :=
  if prioRank a ≠ prioRank b then prioRank a < prioRank b
  else if a.tAccept ≠ b.tAccept then a.tAccept < b.tAccept
  else a.paddock < b.paddock

/-- The first job of a list under R358. -/
def firstJob : List Job → Option Job
  | [] => none
  | j :: r => match firstJob r with
    | none => some j
    | some m => if before m j then some m else some j

/-- The job of the paddock that waits for cells, while it is still staged without them (R360). -/
def waitingJob (s : State) (p : Nat) : Option Nat := match (padAt s p).waitFor with
  | none => none
  | some w => match jobOf s w with
    | some j => if j.phase == .staged && j.fixed == 0 && j.cells == 0 then some w else none
    | none => none

/-- No older job of the paddock waits for cells (R360). -/
def notBehind (s : State) (j : Job) : Bool := match waitingJob s j.paddock with
  | some w => decide (j.seq ≤ w)
  | none => true

/-- A stall is free: idle in a shed that is ON, or SLEEPING before its switch-off point (R53). -/
def stallFree (s : State) (n : Nat) : Bool :=
  (stAt s n).state == 1 && offered s n && (shedAt s (stallShed n) == 2 || returnable s (stallShed n))

/-- The dispatcher offers a job first to its paddock's dedicated stalls (R357). -/
def dedicatedFree (s : State) (j : Job) : Bool :=
  (kindStalls (needKind s j)).any fun n => (stAt s n).dedicated == some j.paddock && stallFree s n

/-- Room on a stall for a job: it is free, or runs fewer than eight digest jobs of the same paddock and the job is one (R303). -/
def roomOn (s : State) (n : Nat) (j : Job) : Bool :=
  stallFree s n ||
  (isDigest j.desc && (stAt s n).state == 2 && (stAt s n).tree.isNone && decide ((stAt s n).jobs.length < 8) && !(stAt s n).reqYield && !(stAt s n).reqClaim &&
    !(stAt s n).reqFault && !(stAt s n).reqStop && stallSound s n &&
    (stAt s n).jobs.all fun q => match jobOf s q with
      | some x => isDigest x.desc && x.paddock == j.paddock
      | none => false)

/-- A staged job that the stall may be given now, shares and cell order included (R62, R357, R360). -/
def eligible (s : State) (n : Nat) (j : Job) : Bool :=
  canStart s j && needKind s j == stallKind n && mayUse s j.paddock n && roomOn s n j && notBehind s j &&
  !hasBit s.en.withholdPads j.paddock && ((stAt s n).dedicated == some j.paddock || !dedicatedFree s j)

/-- The jobs a stall may be given. -/
def candidates (s : State) (n : Nat) : List Job := (liveJobs s).filter (eligible s n)

/-- R359: among the jobs of the first class, those of the pool stall's last paddock while its preference lasts. -/
def preferred (s : State) (n : Nat) (l : List Job) : List Job :=
  match firstJob l with
  | none => []
  | some h =>
    let own := l.filter fun j => prioRank j == prioRank h && j.paddock == (stAt s n).lastPaddock
    if (stAt s n).inPool && decide ((stAt s n).runs ≠ 0) && !(stAt s n).prefEnded && !own.isEmpty then own else l

/-- The job the dispatcher gives a stall (R358): first the one whose wait freed it by a yield. -/
def nextJob (s : State) (n : Nat) : Option Job :=
  let l := candidates s n
  match (stAt s n).reservedFor with
  | some q => match l.find? fun j => j.seq == q with
    | some j => some j
    | none => if (liveJobs s).any (fun j => j.seq == q && j.phase == .staged && j.fixed == 0) then none else firstJob (preferred s n l)
  | none => firstJob (preferred s n l)

/-! ## Next trees of stateful keys (R240) -/

/-- Leaves of a key below one tree of a level, counted from the heights of that level and the ones under it. -/
def treeSpan (below : List Nat) : Nat := 2 ^ below.sum

/-- The number of the tree of a level that must be computed next: the tree in use there is half used, and the next one exists and has not
been computed. `below` holds the heights from that level down. -/
def dueTree (h : HbsKey) (total level : Nat) (below : List Nat) : Option Nat :=
  let span := treeSpan below
  let t := h.nNext / span
  if span / 2 ≤ h.nNext % span ∧ (t + 1) * span < total ∧ smGet 0 h.nextTrees level ≠ t + 1 then some (t + 1) else none

/-- The first level below the top whose next tree is due, and that tree's number. -/
def dueLevel (h : HbsKey) (total : Nat) : Nat → List Nat → Option (Nat × Nat)
  | _, [] => none
  | level, a :: r => match dueTree h total level (a :: r) with
    | some t => some (level, t)
    | none => dueLevel h total (level + 1) r

/-- The next tree a stateful key's slot is to have computed. -/
def nextTree (s : State) (n : Nat) : Option (Nat × Nat) :=
  let h := hbsAt s n
  if h.present then dueLevel h (hbsTotalOf s n) 1 ((hbsHeights (slotAt s n).alg h.paramSet h.levels).drop 1) else none

/-- Keys with a tree to compute that no stall computes. -/
def dueKeys (s : State) : List Nat :=
  (smKeys s.tk.hbs).filter fun n => (nextTree s n).isSome && !((List.range 52).any fun k => (stAt s k).tree == some n)

/-- The key whose next tree a hash stall that has no job to run computes (R240). -/
def treeFor (s : State) (k : Nat) : Option Nat :=
  if stallKind k = 2 ∧ stallFree s k = true then (dueKeys s).find? fun n => mayUse s (hbsAt s n).paddock k else none

/-- Sheds to wake for next trees, ranked after work and before the farrier (R65, R240). -/
def treeWakes (s : State) : List (Nat × Nat) :=
  (dueKeys s).flatMap fun n =>
    ((((kindStalls 2).filter fun k => mayUse s (hbsAt s n).paddock k && offered s k).map stallShed).filter fun i => shedAt s i == 0).map fun i =>
      (i, (hbsAt s n).paddock)

/-! ## Wake requests (R65, R66) -/

/-- A job can be served only after a shed wakes: none of its stalls is free in a shed that is ON, and none lies in a WAKING one. -/
def wantsWake (s : State) (j : Job) : Bool :=
  let l := (kindStalls (needKind s j)).filter fun n => mayUse s j.paddock n && offered s n
  canStart s j && decide (needKind s j ≠ 0) && !(l.any fun n => shedAt s (stallShed n) == 1 || stallFree s n)

/-- Sheds that are OFF and hold a stall the job may use. -/
def wakeSheds (s : State) (j : Job) : List Nat :=
  (((kindStalls (needKind s j)).filter fun n => mayUse s j.paddock n && offered s n).map stallShed).filter fun i => shedAt s i == 0

/-- Wake requests for work: shed, with t_accept of the oldest job served and its paddock. -/
def workWakes (s : State) : List (Nat × Nat × Nat) :=
  (liveJobs s).flatMap fun j => if wantsWake s j then (wakeSheds s j).map fun i => (i, j.tAccept, j.paddock) else []

/-! ## Muck-out (R371 to R373) -/

/-- A stall is mucked out or gone: no paddock reset waits for it any longer (R79). -/
def clearReset (s : State) (n : Nat) : State :=
  { s with pads := smMap {} (fun _ (x : Pad) => { x with resetStalls := x.resetStalls.filter (· != n) }) s.pads }

/-- Where a muck-out leads: 0 IDLE, 1 the self-test, 2 IDLE after a passed self-test, 3 the shed's SLEEPING. -/
def startMuck (s : State) (n next : Nat) : State :=
  modSt s n fun x => { x with state := 3, muckThen := next, muckFailed := false, jobs := [], tree := none, sequ := {}, reqFault := false,
                              reqStop := false, reqYield := false }

/-- A stall whose execution ended by abandonment, abort, fault or a move is mucked out; a claim waiting for it is then served. -/
def leaveStall (s : State) (n : Nat) : State :=
  startMuck (modSt s n fun x => { x with reqClaim := false }) n (b1 (stAt s n).reqClaim)

/-! ## The end of an execution -/

/-- What an execution gives: status, outputs, lengths, verdict and, for a digest destination, its digest. -/
structure Result where
  status : Nat := 0
  out0 : Option Bytes := none
  out1 : Option Bytes := none
  len0 : Nat := 0
  len1 : Nat := 0
  verdict : Nat := 0
  digest : Bytes := []
  reason : Nat := 0
  index : Nat := 0
deriving DecidableEq, Repr

/-- Completed with outputs written whole. -/
def okOut (o0 o1 : Bytes) : Result := { out0 := some o0, out1 := some o1, len0 := o0.length, len1 := o1.length }

/-- Completed with a status other than ST_OK: nothing is written (R153). -/
def failWith (status : Nat) : Result := { status := status }

/-- Completed ST_REFUSED_INPUT, with its reason and index for the diagnostic log (R470). -/
def refuseInput (reason index : Nat) : Result := { status := 0x0100, reason := reason, index := index }

/-- The job leaves its stall, whose execution has ended in completion: the stall is IDLE, or goes to a waiting claim (R372). -/
def freeStall (s : State) (n seq : Nat) : State :=
  let s1 := modSt s n fun x =>
    { x with jobs := x.jobs.filter (· != seq), cplWr := (x.cplWr + 1) % 32, cplRd := (x.cplRd + 1) % 32, scrubDue := stallKind n == 3 }
  if !(stAt s1 n).jobs.isEmpty then s1
  else if (stAt s1 n).state ≠ 2 then s1
  else if (stAt s1 n).reqClaim then leaveStall s1 n
  else modSt s1 n fun x => { x with state := 1, sequ := {}, reqFault := false, reqStop := false, reqYield := false }

/-- A stall that lost a job other than by completion is mucked out when it runs nothing any more (R160, R372). -/
def abandonOn (s : State) (n seq : Nat) : State :=
  let s1 := modSt s n fun x => { x with jobs := x.jobs.filter (· != seq) }
  if (stAt s1 n).jobs.isEmpty && (stAt s1 n).state == 2 then leaveStall s1 n else s1

/-- Greatest power of a shed in mW at a clock step (R507, Table 24.8); 0 where the table gives none. -/
def shedPowerMw (i step : Nat) : Nat :=
  if i < 6 then 4400 - 880 * step else if i < 10 then 5600 - 1120 * step else if i < 12 then 4000 - 800 * step
  else if i < 14 then 5000 - 1000 * step else if i < 18 then 1400 else 0

/-- energy_uj of an execution that ends: what the samples have metered for it, and what it drew since the sample before each of its stalls
was left, which is less than 10 µs at the greatest power of a shed and which only the meters know; to the nearest µJ, saturating (R57, R58,
R507; log entries 3, 107). -/
def energyOf (j : Job) (free : Nat) : Nat := min 0xFFFFFFFF ((j.energyNj + free % (j.legs * 56000 + 1) + 500) / 1000)

/-- A result as a later execution of an issued record may give it: the status of its issued completion stays, and outputs go with ST_OK alone
(R156, R179). -/
def keepStatus (j : Job) (r : Result) : Result := match (if j.issued then j.issuedStatus else none) with
  | none => r
  | some st => if st = 0 then { r with status := 0 } else { failWith st with reason := r.reason, index := r.index }

/-- An execution ends with a result, which joins the reorder list (R363), and with its energy (R58). A failed one gives back what the job had
reserved. `completed` says whether the routine ran to its end or was cut short. -/
def endJob (s : State) (seq : Nat) (r0 : Result) (completed : Bool) : State :=
  match jobOf s seq with
  | none => s
  | some j =>
    let r := keepStatus j r0
    let ran := j.stallId != 0xFFFF
    let e := if ran then energyOf j (draw s).1 else 0
    let s1 := if ran then (draw s).2 else s
    let s2 := modJob s1 seq fun x =>
      { x with
        phase := .finished, status := r.status, out0 := r.out0, out1 := r.out1, out0Len := r.len0, out1Len := r.len1,
        verdict := r.verdict, digest := r.digest, reason := r.reason, reasonIndex := r.index, tDone := s.time, energyUj := e, drawn := x.cells, context := none, inOutput := false,
        committed := false, stopReq := false, dispatched := true, replaying := false, stall := none }
    let s3 := if r.status = 0 then s2 else releaseClaims s2 j
    match j.stall with
    | some n => if completed then freeStall s3 n seq else abandonOn s3 n seq
    | none => s3

/-- An execution runs to its end. -/
def finishJob (s : State) (seq : Nat) (r : Result) : State := endJob s seq r true

/-- A job is ended with a status, writing nothing (R160, R437). -/
def abortJob (s : State) (seq status : Nat) : State := endJob s seq (failWith status) false

/-- The job goes back to the yard between its two phases and releases its stall (R286). -/
def nextPhase (s : State) (seq : Nat) : State :=
  match jobOf s seq with
  | none => s
  | some j =>
    let s1 := modJob s seq fun x => { x with phase := .staged, stall := none, absorbed := true, drawn := x.cells, committed := false }
    match j.stall with
    | some n => freeStall s1 n seq
    | none => s1

/-! ## Moves, abandonment and failure (R353 to R356) -/

/-- R356: the context is saved to the job's cells, masked afresh, and the job waits for any stall of its kind that it may use. -/
def moveJob (c : Context) (j : Job) : Job := { j with phase := .staged, stall := none, context := some c, drawn := j.cells }

/-- The routine is abandoned before its first commit point: the job starts again from its start, the count unchanged (R355). -/
def restartJob (j : Job) : Job :=
  { j with phase := .staged, stall := none, context := none, committed := false, inOutput := false, cells := 0, drawn := 0,
           absorbed := false }

/-- A disruption of Table 08.5 replays a live record: from its checkpoint where one stands and may be used, else from acceptance; the
count rises by one (R190, R193). A record with a fixed status has nothing to execute and gets its new t_done at once (R27). -/
def replayJob (now : Nat) (useCkpt : Bool) (j : Job) : Job :=
  let keep := useCkpt && j.checkpoint.isSome
  let base := { j with replay := (j.replay + 1) % 65536, replaying := true, heldCpl := false, stopReq := false,
                       retrying := false, readFailed := false, inOutput := false, context := none, waitHayloft := false, sent := false, stall := none,
                       stallId := 0xFFFF, energyNj := 0, legs := 0 }
  if j.fixed ≠ 0 then { base with phase := .finished, replaying := false, tDone := now }
  else { base with phase := .staged, committed := keep, checkpoint := if keep then j.checkpoint else none,
                   absorbed := keep && j.absorbed, cells := if keep then j.cells else 0, drawn := if keep then j.drawn else 0 }

/-- A job on the stall that its draining queue has asked to stop (R160). -/
def stopsHere (s : State) (q : Nat) : Bool := match jobOf s q with
  | some j => j.stopReq
  | none => false

/-- Every job on a stall, changed; the stall is then mucked out. A job its queue's drain was to stop at the next safe point is not executed
again: it ends aborted (R160). -/
def clearStall (s : State) (n : Nat) (f : Job → Job) : State :=
  let l := (stAt s n).jobs
  let s1 := leaveStall (setJobs s (s.jobs.map fun j => if isLive j && l.contains j.seq then f j else j)) n
  (l.filter (stopsHere s)).foldl (fun t q => abortJob t q 0x0A01) s1

/-- Stall failure (R355, Table 08.5): its jobs replay from the last checkpoint, or from acceptance, on another stall. -/
def stallFail (s : State) (n : Nat) : State :=
  if (stAt s n).jobs.isEmpty && (stAt s n).tree.isNone then s else clearStall s n (replayJob s.time true)

/-- The stall becomes unsound (R355) and its jobs are handled as a stall failure. -/
def makeUnsound (s : State) (n : Nat) : State := modSt (stallFail s n) n fun x => { x with unsound := true }

/-! ## Retirement and spares (R23, R456, R457) -/

/-- SY_STALL_DEGRADED follows the sound stalls of a kind (R23). -/
def evalDegraded (s : State) (kind : Nat) : State :=
  if kindGuaranteed kind + 1 ≤ kindSound s kind || hasBit s.sys.degraded (kind - 1) then s
  else raisePart { s with sys := { s.sys with degraded := setBit s.sys.degraded (kind - 1) } } 2

/-- Jobs of a kind of which no stall is left complete ST_DEVICE_FAULT, detail 0x02 (Table 07.9); a record whose completion was issued keeps it
and retires without a write (R179, R191). -/
def sweepKind (s : State) (kind : Nat) : State :=
  if kindLeft s kind ≠ 0 then s
  else
    let hit := fun (j : Job) => isLive j && j.phase == .staged && j.fixed == 0 && needKind s j == kind
    let s1 := (s.jobs.filter hit).foldl releaseClaims s
    let lose := fun (j : Job) =>
      if !hit j then j
      else if j.issued then { j with phase := .issued, silent := true, replaying := false, cells := 0, drawn := 0 }
      else { fixJob 0 s.time j with status := 0x0C02, cells := 0, drawn := 0 }
    setJobs s1 (s1.jobs.map lose)

/-- A stall the plan assigns to no paddock and to no pool (R15). -/
def isSpare (s : State) (n : Nat) : Bool :=
  !(stAt s n).inPool && (stAt s n).dedicated.isNone && stallSound s n

/-- R457: the spare mapped in for a retired dedicated stall. -/
def spareFor (s : State) (kind : Nat) : Option Nat :=
  let pool := (kindStalls kind).filter fun n => (stAt s n).inPool && stallSound s n
  ((kindStalls kind).find? (isSpare s)).or (if 2 ≤ pool.length then pool.getLast? else none)

/-- The retirement is recorded in the hayloft and raised as EV_UNIT_RETIRED (R445, R456). -/
def recordRetired (s : State) (source : Nat) : State :=
  raisePart { s with fc := { s.fc with retired := smSet false s.fc.retired source true, toLog := s.fc.toLog ++ [(s.time, 1, source)] },
                     hl := { s.hl with retireMap := s.hl.retireMap ++ [source] } } 3

/-- Outstanding entries of a source whose cause ended with the unit's retirement (Table 20.16). -/
def sourceEnds (s : State) (source : Nat) : State :=
  let f := fun (_ : Nat) (o : Option OutFault) => o.map fun e => if e.source == source then { e with live := false } else e
  { s with fc := { s.fc with out := smMap none f s.fc.out } }

/-- A stall is retired (R456, R457): its jobs fail over first (R451), and a spare takes a dedicated stall's place. -/
def retireStall (s : State) (n : Nat) : State :=
  if (stAt s n).state = 5 then s
  else
    let s1 := clearReset (stallFail s n) n
    let ded := (stAt s1 n).dedicated
    let s2 := sourceEnds (recordRetired (modSt s1 n fun x =>
      { x with state := 5, jobs := [], tree := none, sequ := {}, operand := [], unsound := false, inPool := false, dedicated := none, reservedFor := none, reqClaim := false }) n) n
    let s3 := match ded with
      | none => s2
      | some p => match spareFor s2 (stallKind n) with
        | none => s2
        | some k => modSt s2 k fun x => { x with inPool := false, dedicated := some p, spare := true, dirty := true, muckAtWake := true }
    let s4 := if s3.fc.claimed == some n then { s3 with fc := { s3.fc with claimed := none, testing := false } } else s3
    sweepKind (evalDegraded s4 (stallKind n)) (stallKind n)

end Sys2Proof.Machine
end

