-- ==== Sys2Proof/Machine/Complete.lean ====
section
/-! DEFINITION. Complete.lean: a completion's writes and what takes effect with its word (R153, R155, R179, R297, R337), retirement and
what it frees (R14, R114, R170, R181, R259, R346), and the drain of a queue (R160, R192). -/

namespace Sys2Proof.Machine

/-! ## Outputs -/

/-- Outputs that are handles (R386): the handle of a load, of a created slot, of a registered blob. -/
def handleOut (d : Desc) : Bool :=
  d.opcode == 0x0E00 || d.opcode == 0x0F03 || d.opcode == 0x0F05 ||
  (d.opcode ∈ [0x0F00, 0x0F01, 0x0F02] && inl32 d 0x48 != 0xFFFFFFFF)

/-- Outputs that are secrets (R386): shared secrets, decrypted messages and derived secrets. -/
def secretOut0 (d : Desc) : Bool := d.opcode ∈ [0x0102, 0x0302, 0x0312, 0x0404, 0x0419, 0x0429]
def secretOut1 (d : Desc) : Bool := d.opcode ∈ [0x0101, 0x0301, 0x0311, 0x041A, 0x042A]

/-- Tag of an output that paddock code reads (R386). -/
def outTag (j : Job) (second : Bool) : Nat :=
  if j.secretIn then tSecret
  else if (if second then secretOut1 j.desc else secretOut0 j.desc) then tSecret
  else if !second && handleOut j.desc then tHandle
  else tBytes

/-- Bytes into the local memory a paddock address names (R416). -/
def writeLocal (s : State) (addr : Nat) (tag : Nat) (d : Bytes) : State :=
  let n := bits addr 20 4
  modCore s n fun c => { c with mem := (memWrite .job tag (d.length + 1) c.mem (bits addr 0 20) d).1 }

/-- One output buffer: to host memory through the queue function, or to local memory. -/
def writeOutput (s : State) (j : Job) (fn addr : Nat) (second : Bool) (o : Option Bytes) : State :=
  match o with
  | none => s
  | some d => if j.bx then writeLocal s addr (outTag j second) d else hostWrite s fn addr d

/-- Both outputs of a job. -/
def writeOutputs (s : State) (j : Job) : State :=
  let fn := (qAt s j.queue).fn
  writeOutput (writeOutput s j fn j.desc.out0Addr false j.out0) j fn j.desc.out1Addr true j.out1

/-- The completion of an entry: bytes 0x04 to 0x3F, then the word at 0x00, then the confirming read (R14, R125, R152, R153). -/
def writeCompletion (s : State) (j : Job) : State :=
  let x := qAt s j.queue
  if x.bx then
    let i := j.index % 2 ^ x.k
    modQ s j.queue fun y =>
      { y with ring := smSet [] y.ring i (overlay (padTo 128 (smGet [] y.ring i)) 0 (cplWord x.k j ++ cplRest j)),
               ringSecret := if j.secretIn then i :: y.ringSecret.filter (· != i) else y.ringSecret.filter (· != i) }
  else
    let a := entryAddr x j.index
    let f := fnAt s x.fn
    emit (hostWrite (hostWrite s x.fn (a + 4) (cplRest j)) x.fn a (cplWord x.k j)) (.confirmRead x.fn a (if !f.relaxed && f.idOrder then 4 else 0))

/-! ## What takes effect when the word is first issued -/

/-- A measurement register extended (R296). -/
def extendMr (s : State) (p r : Nat) (d : Bytes) : State :=
  modPad s p fun x => { x with mrs := smSet (zeros 48) x.mrs r (sha3_384 (smGet (zeros 48) x.mrs r ++ d)) }

/-- A result slot written (R295): the compare of every function of the paddock that names it reads "no match" (R300). -/
def writeResult (s : State) (p i : Nat) (d : Bytes) (ps seq : Nat) : State :=
  let s1 := modPad s p fun x =>
    { x with results := smSet {} x.results i { data := d, len := d.length, valid := true, paramSet := ps, seqLo := seq % 2 ^ 48 } }
  (fnsOfPad s1 p).foldl (fun t n => modFn t n fun f => if f.cmpSlot == i then spoilCompare f else f) s1

/-- The reason of a ST_REFUSED_INPUT completion joins the paddock's diagnostic log, a ring of 128 KiB of 32-byte entries (R470). -/
def addDiag (s : State) (j : Job) : State :=
  modPad s j.paddock fun x =>
    let l := x.diags ++ [{ time := s.time, seq := j.seq, queue := j.queue, opcode := j.desc.opcode, reason := j.reason, index := j.reasonIndex }]
    { x with diags := l.drop (l.length - 4096) }

/-- R297, R337, R340, R470: the effects of the cycle in which rflags.issued is set. -/
def firstIssue (s : State) (j : Job) : State :=
  let s1 :=
    if j.desc.opcode = 0x0500 ∧ j.status = 0 then
      if inl8 j.desc 0x40 = 1 then writeResult s j.paddock (inl8 j.desc 0x41) j.digest j.desc.paramSet j.seq
      else if inl8 j.desc 0x40 = 2 then extendMr s j.paddock (inl8 j.desc 0x41) j.digest
      else s
    else s
  let s2 := match targetOf j.desc with
    | some n => if j.status = 0 ∧ (slotAt s1 n).state = 1 then
        modSlot s1 n fun x => { x with state := if x.revoked then 3 else 2 }
      else s1
    | none => s1
  let s3 := match j.desc.opcode, j.extra with
    | 0x0F05, some h => if j.status = 0 then modBlob s2 (hIdx h - 0x80000000) fun e => { e with ready := e.present } else s2
    | _, _ => s2
  let s4 := if j.status / 256 = 1 then addDiag s3 j else s3
  journalWrite s4

/-- The queue function may issue this queue's writes: not HELD, not standby, the side not fenced (R80, R126, R197, R198). -/
def mayWrite (s : State) (q : Nat) : Bool :=
  let x := qAt s q
  x.state != 5 && !x.standby && !frozen s && s.jn.role != 3 && (x.bx || mayIssue s x.fn)

/-- The interrupt cause of a completion word (R155). -/
def completionCause (s : State) (j : Job) : State :=
  let x := qAt s j.queue
  if x.bx || !x.irqEn || hasBit j.desc.flags 3 then s else addCause s x.fn (vecNum s x.fn x.vector)

/-- The head of a queue's reorder list (R363): the first live job whose word has not been issued in this execution. -/
def reorderHead (s : State) (q : Nat) : Option Job := (queueJobs s q).find? fun j => j.phase != .issued

/-- The first live job of a queue whose completion is neither issued nor held. -/
def nextToHold (s : State) (q : Nat) : Option Job := (queueJobs s q).find? fun j => j.phase != .issued && !j.heldCpl

/-- A completion whose writes must wait counts towards the wake count of its vector, wake-capable queue or not (R126, R136, Table 06.6). -/
def holdCompletion (s : State) (j : Job) : State :=
  let x := qAt s j.queue
  let s1 := modJob s j.seq fun y => { y with heldCpl := true }
  if x.bx || !x.irqEn || hasBit j.desc.flags 3 then s1 else addWake s1 x.fn (vecNum s1 x.fn x.vector) false

/-- The completion of the reorder list's head (R153, R363): outputs, bytes 0x04 to 0x3F, the word, and its cause. -/
def issueHead (s : State) (j : Job) (cause : Bool) : State :=
  let s1 := if j.status = 0 then writeOutputs s j else s
  let s2 := writeCompletion s1 j
  let s3 := if j.issued then s2 else firstIssue s2 j
  let s4 := modJob s3 j.seq fun y =>
    { y with phase := .issued, issued := true, issuedStatus := some j.status, cells := 0, drawn := 0, checkpoint := none, heldCpl := false }
  let s5 := { s4 with en := { s4.en with padEnergy := smMod 0 s4.en.padEnergy j.paddock (fun e => (e + j.energyUj) % 2 ^ 64) } }
  let s6 := if j.status / 256 = 0x0C then clearDigests s5 j.paddock else s5
  if cause then completionCause s6 j else s6

/-- A job has finished and waits for nothing but its turn. -/
def cplReady (j : Job) : Bool := j.phase == .finished && !j.waitHayloft

/-- The next completion in order is written, or held where the queue may not write (R126). After a flush or a shutdown it is neither (R183,
R187). -/
def completeHead (s : State) (q : Nat) : State :=
  if frozen s then s
  else if mayWrite s q then
    match reorderHead s q with
    | some j => if cplReady j then issueHead s j true else s
    | none => s
  else
    match nextToHold s q with
    | some j => if cplReady j then holdCompletion s j else s
    | none => s

/-- The completions of a queue that are ready, in order; interrupts follow (R126, R136). -/
def issueHeld (s : State) (q : Nat) : Nat → State
  | 0 => s
  | fuel + 1 => match reorderHead s q with
    | none => s
    | some j => if cplReady j && mayWrite s q then issueHeld (issueHead s j false) q fuel else s

/-- The ready completions of several queues, each queue's in acceptance order, each counting its cause after every write (R126). -/
def releaseHeld (s : State) (qs : List Nat) : State :=
  let held := s.jobs.filter fun j => isLive j && cplReady j && qs.contains j.queue
  let s1 := qs.foldl (fun t q => issueHeld t q (t.jobs.length + 1)) s
  held.foldl (fun t j => match jobOf t j.seq with
    | some k => if k.phase == .issued then completionCause t k else t
    | none => t) s1

/-! ## Retirement (R14, R181) -/

/-- Snapshots of retired quotes come free (R114). -/
def freeSnapshots (s : State) (p seq : Nat) : State :=
  modPad s p fun x => { x with snaps := smMap {} (fun _ n => if n.owner == some seq then {} else n) x.snaps }

/-- Entries of the public-key cache whose evict was accepted go with the last other record naming them (R259). -/
def releaseEvicted (s : State) : State :=
  (smKeys s.cache).foldl (fun t k => if (cacheAt t k).evicted && !cachePinned t k then removeCache t k else t) s

/-- A capture generation that fell due with every slot named by a record is drawn in the cycle in which one frees (R175). -/
def drawOnFree (s : State) (j : Job) : State := match j.capGen with
  | none => s
  | some g =>
    if (padAt s j.paddock).genDue && capFree s j.paddock g && ((List.range 16).all fun k => k == g || !capFree s j.paddock k) &&
        !(s.rng.waiting.contains (256 + j.paddock)) then drawGen s j.paddock
    else s

/-- A slot whose last pin went with a record, and which is not a stored key, is as Table 15.14 has it: nothing further (R341). -/
def afterRetire (s : State) (j : Job) : State :=
  let s1 := releaseRevoked (releaseEvicted (freeSnapshots s j.paddock j.seq))
  updateLtr (recheck (drawOnFree s1 j) [1, 2])

/-- The oldest live record of a queue leaves both banks and T passes it (R14, R180, R181). -/
def retireHead (s : State) (q : Nat) : State :=
  match (queueJobs s q).head? with
  | none => s
  | some j =>
    let s1 := journalWrite (setJobs s (s.jobs.filter fun x => !(isLive x && x.seq == j.seq)))
    let s2 := modQ s1 q fun x => { x with t := nextIdx x.k x.t }
    writeShadow (afterRetire s2 j) q

/-- The confirming read of a queue's oldest record has returned: it retires at once, or, in a twin, once the partner has
acknowledged (R14, R196). -/
def retireEntry (s : State) (q : Nat) : State :=
  match (queueJobs s q).head? with
  | none => s
  | some j =>
    if j.phase ≠ .issued ∨ j.sent = true ∨ frozen s = true ∨ s.jn.role = 3 then s
    else if mirrored s then sendFrame (modJob s j.seq fun x => { x with sent := true }) 0x02 [j.seq, q, nextIdx (qAt s q).k (qAt s q).t]
    else retireHead s q

/-! ## Draining (R160, R192) -/

/-- One accepted entry of a draining queue: an issued record retires without a write; one that is finished, or in its output
write, completes with its result; one past another commit point stops at its next safe point; any other is aborted. -/
def drainJob (s : State) (j : Job) : State :=
  if j.phase == .issued || (j.phase == .finished && !j.issued) then s
  else if j.issued then
    let s1 := modJob s j.seq fun x => { x with phase := .issued, silent := true, replaying := false, stall := none, cells := 0, drawn := 0 }
    match j.stall with
    | some n => abandonOn s1 n j.seq
    | none => s1
  else if j.inOutput then s
  else if j.committed && j.phase == .running then
    match j.stall with
    | some n => modSt (modJob s j.seq fun x => { x with stopReq := true }) n fun x => { x with reqStop := true }
    | none => s
  else abortJob s j.seq 0x0A01

/-- Records at the head of a queue that retire without a write do so at once (R191, R192). -/
def retireSilent (s : State) (q : Nat) : Nat → State
  | 0 => s
  | fuel + 1 => match (queueJobs s q).head? with
    | none => s
    | some j => if j.phase == .issued && j.silent && !j.sent then retireSilent (retireEntry s q) q fuel else s

/-- DRAINING ends every accepted entry of the queue in acceptance order (R160). -/
def drainQueue (s : State) (q : Nat) : State :=
  let s1 := (queueJobs s q).foldl drainJob s
  retireSilent s1 q (s1.jobs.length + 1)

/-- The drain is complete when T equals A (R160). -/
def drained (s : State) (q : Nat) : Bool := (qAt s q).t == (qAt s q).a && !(s.jobs.any fun j => j.queue == q)

/-! ## EV_REPLAY_DONE (R498) -/

/-- A record of the paddock has still to be executed again after a disruption. -/
def padReplaying (s : State) (p : Nat) : Bool := s.jobs.any fun j => isLive j && j.paddock == p && j.replaying

/-- The event of each paddock whose replaying field has fallen to 0. -/
def replaysDone (s : State) : State :=
  (smKeys s.pads).foldl (fun t p =>
    if (padAt t p).replayOwed && !padReplaying t p then raisePad (modPad t p fun x => { x with replayOwed := false }) 22 p else t) s

end Sys2Proof.Machine
end

