-- ==== Sys2Proof/Machine/CoreOps.lean ====
section
/-! DEFINITION. CoreOps.lean: stopping, wiping and loading a Benxis core (R401 to R410, Table 18.1), and the extend rights of a
paddock's code (R296, R408). -/

namespace Sys2Proof.Machine

/-- The paddock a core is dedicated to. -/
def padOfCore (s : State) (n : Nat) : Option Nat := (List.range 32).find? fun p => padPresent s p && hasBit (padRec s p).coreMap n

/-- Cores of a paddock. -/
def coresOfPad (s : State) (p : Nat) : List Nat := (List.range 16).filter fun n => hasBit (padRec s p).coreMap n

/-- The rights a LOAD ended return once every core of the paddock is STOPPED (R408). -/
def restoreRights (s : State) (p : Nat) : State :=
  if (coresOfPad s p).all fun n => (coreAt s n).state == 0 then modPad s p fun x => { x with extendLost := false } else s

/-- The paddock's Benxis code holds extend rights (R296, R408). -/
def extendRights (s : State) (p : Nat) : Bool := (padRec s p).bootExtend && !(padAt s p).extendLost

/-- A general register written. -/
def setReg (c : Core) (r : Nat) (v : TW) : Core := { c with w := smSet {} c.w r v }

/-- A WAIT in progress ends with rd := NAT 0 and the core goes past it (R403). -/
def endWait (c : Core) (v : Nat) : Core :=
  match c.waiting with
  | none => c
  | some x => { setReg c x.rd (mkTW tNat v) with pc := c.pc + BitVec.ofNat 64 x.len, waiting := none }

/-- The core enters STOPPED from RUNNING, LOADING or HALTED, with its event (R403, Table 23.7). -/
def stopCore (s : State) (n : Nat) : State :=
  if (coreAt s n).state = 0 then s
  else
    let s1 := modCore s n fun c => { endWait c 0 with state := 0, loading := none }
    match padOfCore s n with
    | some p => restoreRights (raisePad s1 (32 + n) p) p
    | none => s1

/-- Local memory wiped and the windows with it (R376, Table 04.2). -/
def wipeCore (s : State) (n : Nat) : State := modCore s n fun c => { c with mem := [], windows := [], rstack := [], spill := [] }

/-- A Benxis core whose shed is off keeps its counts alone, and a load that waits for the shed (Table 03.2, R407). -/
def coreOff (c : Core) : Core :=
  let o := c.loading.filter (·.waitShed)
  { loads := c.loads, retired := c.retired, cmdErr := c.cmdErr, lastCode := c.lastCode, traps := c.traps, declass := c.declass,
    state := if o.isSome then c.state else 0, loading := o }

/-- A stopped core passes to another paddock, or to none: nothing of the old one's is left on it (R17). -/
def passCore (s : State) (n : Nat) : State := modCore s n fun c => { loads := c.loads, retired := c.retired }

/-! ## Debug sessions' reach (R115, R116) -/

/-- The debug scope in force: OPEN in RAW without a token, once the ledger is decoded, else the session's (Table 05.9). -/
def debugScope (s : State) : Nat := if s.lc.decoded ∧ s.lc.state = 0 then 3 else s.dbg.scope

/-- The open scope reaches a core: PADDOCK only the named paddocks' cores (Table 05.9). -/
def debugReaches (s : State) (n : Nat) : Bool :=
  match debugScope s with
  | 0 => false
  | 2 => match padOfCore s n with
    | some p => hasBit s.dbg.padMask p
    | none => false
  | _ => true

/-- What a debug read of a word of a core's local memory shows: in PADDOCK scope a SECRET word reads 0 with tag POISON (R116). No row of
the table commands such a read (log entry 114). -/
def debugWord (s : State) (n i : Nat) : TW :=
  let x := smGet {} (coreAt s n).mem i
  if !debugReaches s n then {}
  else if debugScope s = 2 ∧ x.tag = tSecret then mkTW tPoison 0
  else x

/-- A debug write of a word of a reached core's local memory (R115, log entry 114). -/
def debugPut (s : State) (n i : Nat) (x : TW) : State :=
  if debugReaches s n then modCore s n fun c => { c with mem := smSet {} c.mem i x } else s

/-! ## Feed FIFOs (R368, R369, R412) -/

/-- Entries discarded by DROP up to and including the next end-of-packet flag: what is left, how many went, whether the flag was met. -/
def dropPacket : List FeedEntry → List FeedEntry × Nat × Bool
  | [] => ([], 0, false)
  | e :: r => if e.eop then (r, 1, true) else let x := dropPacket r; (x.1, x.2.1 + 1, x.2.2)

/-- A FIFO that discards: to the flag, and then RUNNING at a packet start; discarding on while no flag has come. -/
def discardFeed (x : Feed) : Feed :=
  let r := dropPacket x.entries
  { x with entries := r.1, dropped := satAdd 0xFFFF x.dropped r.2.1, stopped := !r.2.2, atStart := r.2.2, dropping := !r.2.2 }

/-- DROP (R369): nothing on a RUNNING FIFO; nothing to discard where the read position stands at a packet start. -/
def dropFeed (x : Feed) : Feed :=
  if !x.stopped then x else if x.atStart then { x with stopped := false } else discardFeed x

/-- Entries pushed; a FIFO that is discarding discards them too. -/
def pushFeed (x : Feed) (l : List FeedEntry) : Feed :=
  let y := { x with entries := x.entries ++ l }
  if x.dropping then discardFeed y else y

/-! ## Load images (R405, R406) -/

/-- Two ranges of local memory share a byte. -/
def areasMeet (a b : Nat × Nat) : Bool := decide (0 < a.2) && decide (0 < b.2) && decide (a.1 < b.1 + b.2) && decide (b.1 < a.1 + a.2)

/-- No two ranges of a list share a byte. -/
def areasApart : List (Nat × Nat) → Bool
  | [] => true
  | a :: r => r.all (fun b => !(areasMeet a b)) && areasApart r

/-- R405: the image is valid. -/
def loadImageOk (b : Bytes) : Bool :=
  let codeAt := u32 b 0x08
  let codeLen := u32 b 0x0C
  let dataAt := u32 b 0x10
  let dataLen := u32 b 0x14
  let entry := u32 b 0x18
  let vec := u32 b 0x1C
  let low := u32 b 0x20
  let high := u32 b 0x24
  let spAt := u32 b 0x28
  let spLen := u32 b 0x2C
  u32 b 0 == 0xB3C51D01 && u16 b 4 == 1 && decide (u16 b 6 ≤ 1) && decide (64 ≤ b.length) && decide (b.length ≤ 2 ^ 20 + 64) &&
  b.length == 64 + codeLen + dataLen && codeAt % 8 == 0 && codeLen % 8 == 0 && dataAt % 8 == 0 && dataLen % 8 == 0 &&
  decide (codeAt + codeLen ≤ 2 ^ 20) && decide (dataAt + dataLen ≤ 2 ^ 20) && decide (codeAt ≤ entry) && decide (entry < codeAt + codeLen) &&
  (vec == 0xFFFFFFFF || (decide (codeAt ≤ vec) && decide (vec < codeAt + codeLen))) && decide (low < high) && low % 8 == 0 && high % 8 == 0 &&
  decide (high ≤ 2 ^ 20) && spLen % 256 == 0 && decide (256 ≤ spLen) && decide (spLen ≤ 65536) && decide (spAt + spLen ≤ 2 ^ 20) &&
  allZero (slice b 0x30 16) && areasApart [(codeAt, codeLen), (dataAt, dataLen), (low, high - low), (spAt, spLen)]

/-- Whole words written with one tag. -/
def fillWords (tag : Nat) : Nat → SMap TW → Nat → Bytes → SMap TW
  | 0, m, _, _ => m
  | n + 1, m, i, b => fillWords tag n (smSet {} m i { d := BitVec.ofNat 64 (leNat (b.take 8)), tag := tag }) (i + 1) (b.drop 8)

/-- The core as its first instruction finds it (R375, R406). -/
def startedCore (old : Core) (b : Bytes) : Core :=
  let codeAt := u32 b 0x08
  let codeLen := u32 b 0x0C
  let dataLen := u32 b 0x14
  let m1 := fillWords tCode (codeLen / 8) [] (codeAt / 8) (slice b 64 codeLen)
  let m2 := fillWords tBytes (dataLen / 8) m1 (u32 b 0x10 / 8) (slice b (64 + codeLen) dataLen)
  { state := 2, flg := { d := 0#64, tag := tNat }, dsp := mkTW tPtr (u32 b 0x24), pc := BitVec.ofNat 64 (u32 b 0x18), mem := m2,
    codeAt := codeAt, codeLen := codeLen, dsLow := u32 b 0x20, dsHigh := u32 b 0x24, spillAt := u32 b 0x28, spillLen := u32 b 0x2C,
    trapVec := if u32 b 0x1C = 0xFFFFFFFF then none else some (u32 b 0x1C), lastCode := old.lastCode, vecOn := hasBit (u16 b 6) 0,
    vecUp := old.vecUp || hasBit (u16 b 6) 0, cmdErr := old.cmdErr, loads := satAdd 0xFFFF old.loads 1, retired := old.retired }

end Sys2Proof.Machine
end

