-- ==== Sys2Proof/Machine/Images.lean ====
section
/-! DEFINITION. Images.lean: the Caergeber container (R84 to R88, Tables 04.6, 04.7), the plan it holds and what makes the yardmaster
refuse it (R67, R89, R90, Tables 04.8 to 04.12), and the choice of a copy (R86). -/

namespace Sys2Proof.Machine

/-! ## The container -/

/-- Image kinds that a slot holds (Table 04.6); a partial plan, 0x11, is not stored so. -/
def slotKinds : List Nat := [0x01, 0x02, 0x03, 0x04, 0x05, 0x10]

/-- Greatest length of a kind (Table 04.6). -/
def kindMax (kind : Nat) : Nat :=
  if kind = 0x01 then 4 * 2 ^ 20 else if kind ≤ 0x05 then 512 * 2 ^ 10 else if kind = 0x10 then 2 ^ 20 else 64 * 2 ^ 10

def imgKind (b : Bytes) : Nat := u16 b 0x006
def imgSerial (b : Bytes) : Nat := u64 b 0x010
def imgFloor (b : Bytes) : Nat := u32 b 0x01C
def imgDigest (b : Bytes) : Bytes := slice b 0x040 48
def sigOffset (b : Bytes) : Nat := u32 b 0x00C

/-- A plan, full or partial. -/
def isPlanKind (kind : Nat) : Bool := kind == 0x10 || kind == 0x11

/-- Entry i of the section table: type, flags, offset, length, CRC (Table 04.7). -/
structure Section where
  kind : Nat
  flags : Nat
  offset : Nat
  length : Nat
  crc : Nat
deriving DecidableEq, Repr

def sectionAt (b : Bytes) (i : Nat) : Section :=
  let o := 0x100 + 16 * i
  { kind := u16 b o, flags := u16 b (o + 2), offset := u32 b (o + 4), length := u32 b (o + 8), crc := u32 b (o + 12) }

def sectionsOf (b : Bytes) : List Section := (List.range (u16 b 0x026)).map (sectionAt b)

/-- The first of a list of conditions that holds, as the byte offset beside it. -/
def firstBad : List (Bool × Nat) → Option Nat
  | [] => none
  | (bad, off) :: r => if bad then some off else firstBad r

/-- A section entry whose flags, place or CRC is wrong (R88). -/
def sectionFault (b : Bytes) (i : Nat) : Option Nat :=
  let x := sectionAt b i
  let o := 0x100 + 16 * i
  firstBad [(x.flags != 0, o + 2), (x.offset % 64 != 0 || x.offset < 0x100 + 16 * u16 b 0x026, o + 4),
    (decide (sigOffset b < x.offset + x.length), o + 8), (x.crc != crc32c (slice b x.offset x.length), o + 12)]

/-- The signature block of R88: algorithm, length, ML-DSA-87 signature, ECDSA P-384 signature, zeros to 4,736 bytes. -/
def sigBlockOk (g : Bytes) : Bool := u16 g 0 == 1 && u16 g 2 == 0 && u32 g 4 == 4723 && allZero (slice g 4731 5) && g.length == 4736

/-- Both halves of a signature block verify over a message (R85, R88). -/
def blockVerifies (context keyId msg g : Bytes) : Bool :=
  sigBlockOk g && Config.hybridVerify context 0 keyId msg (slice g 8 4627) && Config.hybridVerify context 1 keyId msg (slice g 4635 96)

/-- The header is well formed (R85, Table 04.7); the offset of the first field that is not. -/
def headerFault (b : Bytes) : Option Nat :=
  let kind := imgKind b
  (firstBad [
    (u32 b 0 != 0xCAE6B0E5 || b.length < 0x100, 0x000), (u16 b 4 != 3, 0x004), (!(slotKinds.contains kind || kind == 0x11), 0x006),
    (u32 b 8 != b.length || decide (kindMax kind < b.length), 0x008),
    (sigOffset b % 64 != 0 || sigOffset b + 4736 != b.length, 0x00C), (decide (u32 b 0x018 < imgFloor b), 0x01C),
    (!isPlanKind kind && u32 b 0x020 != 0, 0x020),
    (if kind = 0x11 then decide (31 < u8 b 0x024) else u8 b 0x024 != 0xFF, 0x024), (decide (32 ≤ u8 b 0x025), 0x025),
    (u16 b 0x026 == 0 || decide (64 < u16 b 0x026), 0x026), (u8 b 0x030 != 0xB0, 0x030), (!allZero (slice b 0x031 15), 0x031),
    (!allZero (slice b 0x0A0 96), 0x0A0)]).or
  (((List.range (min 64 (u16 b 0x026))).findSome? (sectionFault b)).or
    (if sigBlockOk (b.drop (sigOffset b)) then none else some (sigOffset b)))

/-- The key that must have signed a kind in the current life-cycle state (Table 04.6). -/
def signerKey (s : State) (kind : Nat) : Bytes :=
  if !isPlanKind kind then Config.habervoImageKeyId
  else if s.lc.state = 3 then s.lc.ownerDigest else Config.habervoProvisioningKeyId

/-- What the header's digest covers: the section table, then every section in the table's order (Table 04.7 offset 0x040; log entry 17). -/
def digestInput (b : Bytes) : Bytes :=
  slice b 0x100 (16 * u16 b 0x026) ++ (sectionsOf b).flatMap fun x => slice b x.offset x.length

/-- What a floor record's CRC covers: the floors in the order of Table 04.6 and seq (R110; the layout is a DESIGN CHOICE, log 7). -/
def floorBytes (r : FloorRec) : Bytes := (slotKinds.flatMap fun k => leBytes 4 (smGet 0 r.floors k)) ++ leBytes 4 r.seq

/-- The valid floor record with the highest seq, and its sector (R110). -/
def newestFloor (s : State) : Option (Nat × FloorRec) :=
  ([8, 9, 10, 11] : List Nat).foldl (fun m i => match smGet none s.lc.floorRecs i with
    | some r => if r.crc = crc32c (floorBytes r) ∧ (m.all fun e => decide (e.2.seq < r.seq)) = true then some (i, r) else m
    | none => m) none

/-- The floor of an image kind (R110). -/
def floorOf (s : State) (k : Nat) : Nat := (newestFloor s).elim 0 fun e => smGet 0 e.2.floors k

/-- A new floor record goes into the next of its sectors (R106, R110). -/
def writeFloors (s : State) (floors : SMap Nat) : State :=
  let r : FloorRec := { floors := floors, seq := (newestFloor s).elim 1 fun e => e.2.seq + 1 }
  let i := (newestFloor s).elim 8 fun e => 8 + (e.1 - 8 + 1) % 4
  { s with lc := { s.lc with floorRecs := smSet none s.lc.floorRecs i (some { r with crc := crc32c (floorBytes r) }) } }

/-- What a debug record's CRC covers (Table 05.5; log 7). -/
def debugBytes (r : DebugRec) : Bytes := r.digest ++ leBytes 4 r.count ++ leBytes 4 r.seq

/-- The valid debug record with the highest seq, and its sector. -/
def newestDebug (s : State) : Option (Nat × DebugRec) :=
  ([12, 13, 14, 15] : List Nat).foldl (fun m i => match smGet none s.lc.debugRecs i with
    | some r => if r.crc = crc32c (debugBytes r) ∧ (m.all fun e => decide (e.2.seq < r.seq)) = true then some (i, r) else m
    | none => m) none

/-- The debug record in force: empty before the first. -/
def debugRec (s : State) : DebugRec := (newestDebug s).elim {} Prod.snd

/-- A new debug record goes into the next of its sectors (R106). -/
def writeDebug (s : State) (digest : Bytes) (count : Nat) : State :=
  let r : DebugRec := { digest := digest, count := count, seq := (debugRec s).seq + 1 }
  let i := (newestDebug s).elim 12 fun e => 12 + (e.1 - 12 + 1) % 4
  { s with lc := { s.lc with debugRecs := smSet none s.lc.debugRecs i (some { r with crc := crc32c (debugBytes r) }) } }

/-- A plan put in force in OWNED sets the owner debug-key digest (Table 05.9). -/
def setDebugKey (s : State) (planDigest : Bytes) : State :=
  let k := Config.planDebugKey planDigest
  if s.lc.state = 3 ∧ k ≠ (debugRec s).digest then writeDebug s k (debugRec s).count else s

/-- R85: the offset of the first field that makes a copy invalid. -/
def copyFault (s : State) (b : Bytes) : Option Nat :=
  let kind := imgKind b
  (headerFault b).or
  (firstBad [
    (imgDigest b != sha3_384 (digestInput b), 0x040),
    (slice b 0x070 48 != signerKey s kind || !blockVerifies (ascii "CGB") (slice b 0x070 48) (b.take (sigOffset b)) (b.drop (sigOffset b)), 0x070),
    (decide (u32 b 0x018 < floorOf s kind), 0x018), (!hasBit (u8 b 0x025) s.lc.state, 0x025),
    (u64 b 0x028 != 0 && u64 b 0x028 != s.lc.deviceNumber, 0x028), (isPlanKind kind && u32 b 0x020 != s.lc.epoch, 0x020)])

/-! ## The plan's sections -/

/-- Sections of a type: their offset and bytes. -/
def secsOf (b : Bytes) (t : Nat) : List (Nat × Bytes) :=
  ((sectionsOf b).filter fun x => x.kind == t).map fun x => (x.offset, slice b x.offset x.length)

/-- The first section of a type, or nothing. -/
def secOf (b : Bytes) (t : Nat) : Nat × Bytes := ((secsOf b t).head?).getD (0x100, [])

/-- A paddock record (Table 04.9). -/
def padOfBytes (r : Bytes) : PadRec :=
  let f := u8 r 1
  { present := true, poolUse := hasBit f 0, hostLoad := hasBit f 1, bootExtend := hasBit f 2, energyShare := u16 r 2, inflight := u32 r 4,
    stallMap := u64 r 8, coreMap := u16 r 0x10, msixPerVf := u16 r 0x12, yardCells := u32 r 0x14, cacheUnits := u16 r 0x18,
    tkBase := u16 r 0x1A, tkCount := u16 r 0x1C, queueBase := u32 r 0x20, queueCount := u32 r 0x24, vfMap := u64 r 0x28,
    permit := leNat (slice r 0x30 64) }

/-- The part section (Tables 04.8, 03.9; log entry 16). -/
def partOf (b : Bytes) : PlanPart :=
  let f := fun (i : Nat) => (Config.partFields b).getD i 0
  { twin := f 0 != 0, capMax := f 1, deepSleepEn := f 2 != 0, capUf := f 3, deratePct := f 4, vNomMv := f 5, vMinMv := f 6, divPpm := f 7,
    effPct := f 8, guardUj := f 9, drainMs := f 10, poolMap := f 11 }

/-- Sheds that have a wake policy, in the order of Table 03.2 (R64). -/
def policySheds : List Nat := (List.range 18) ++ [22]

/-- The shed policy section (log entry 16). -/
def shedsOf (b : Bytes) : SMap ShedPol :=
  (List.range 19).foldl (fun m i =>
    let e := (Config.shedFields b).getD i (1, 1000)
    smSet {} m (policySheds.getD i 0) { policy := e.1, idleUs := e.2 }) []

/-- The escalation section (Table 20.5). -/
def escOf (b : Bytes) : EscPlan :=
  { containedUs := u32 b 0, fatalUs := u32 b 4, rotateS := u32 b 8, override := u32 b 12,
    paddockUs := (List.range 32).foldl (fun m p => smSet 0 m p (u32 b (16 + 4 * p))) [] }

/-- The tamper section (Table 19.4). -/
def tamperOf (b : Bytes) : TamperPlan :=
  { meshPresent := u8 b 0, resp := (List.range 24).foldl (fun m i => smSet 0 m i (u8 b (4 + i))) [] }

/-- The twin section (Table 04.12, log entry 16). -/
def twinOf (b : Bytes) : TwinPlan :=
  let f := fun (i : Nat) => (Config.twinFields b).getD i 0
  { homeSide := f 0, hbPeriodUs := f 1, partnerTimeoutUs := f 2, twinWaitMs := f 3, lanesMin := f 4 }

/-- The full plan an image holds (R89). -/
def planOf (b : Bytes) : Plan :=
  { loaded := true, part := partOf (secOf b 1).2,
    pads := (secsOf b 2).foldl (fun m r => smSet {} m (u8 r.2 0 % 32) (padOfBytes r.2)) [],
    sheds := shedsOf (secOf b 3).2, esc := escOf (secOf b 4).2, tamper := tamperOf (secOf b 5).2,
    twin := ((secsOf b 6).head?).map fun r => twinOf r.2, serial := imgSerial b, digest := imgDigest b }

/-! ## What the yardmaster refuses (Table 04.10) -/

/-- Two ranges of numbers that share one. -/
def rangesShare (a la b lb : Nat) : Bool := decide (0 < la) && decide (0 < lb) && decide (a < b + lb) && decide (b < a + la)

/-- Offset within a paddock record of the first resource it shares with another (err 0x02). -/
def sharedField (x y : PadRec) : Option Nat :=
  firstBad [(x.stallMap &&& y.stallMap != 0, 0x08), (x.coreMap &&& y.coreMap != 0, 0x10),
    (rangesShare x.tkBase x.tkCount y.tkBase y.tkCount, 0x1A), (rangesShare x.queueBase x.queueCount y.queueBase y.queueCount, 0x20),
    (x.vfMap &&& y.vfMap != 0, 0x28)]

/-- Ranges and masks of a record beyond the part (err 0x04). -/
def rangeField (x : PadRec) : Option Nat :=
  firstBad [(decide (65536 < x.queueBase + x.queueCount), 0x20), (decide (16384 < x.tkBase + x.tkCount), 0x1A),
    (decide (512 < x.cacheUnits), 0x18)]

/-- The algorithms a record permits. -/
def permitted (x : PadRec) : List Nat := (List.range 512).filter fun a => algKnown a && hasBit x.permit a

/-- An algorithm's yard floor or cache floor is not met (err 0x07; R224, R234, R240, R271, R291, R306). -/
def floorMissed (x : PadRec) (a : Nat) : Bool :=
  decide (x.yardCells < yardFloor a) || (decide (40 ≤ a) && decide (a ≤ 51) && x.cacheUnits == 0)

/-- Every stall of some kind the algorithm needs lies beyond the paddock, or in a NEVER shed (err 0x08). -/
def unreachableAlg (pool : Nat) (sheds : SMap ShedPol) (x : PadRec) (a : Nat) : Bool :=
  (algKinds a).any fun k => (kindStalls k).all fun n =>
    !(hasBit x.stallMap n || (x.poolUse && hasBit pool n)) || (smGet {} sheds (stallShed n)).policy == 2

/-- Reserved fields of a record (err 0x0F). -/
def reservedField (r : Bytes) : Option Nat :=
  firstBad [(decide (8 ≤ u8 r 1), 1), (decide (2 ^ 52 ≤ u64 r 8), 8), (u16 r 0x1E != 0, 0x1E), (!allZero (slice r 0x70 144), 0x70)]

/-- Fields of a record outside their range (err 0x10). -/
def rangedField (r : Bytes) : Option Nat :=
  firstBad [(decide (31 < u8 r 0), 0), (decide (256 < u16 r 2), 2), (u32 r 4 == 0 || decide (65536 < u32 r 4), 4),
    (u16 r 0x12 == 0 || decide (2048 < u16 r 0x12), 0x12)]

/-- R67 and its ranges (err 0x09). -/
def holdupBad (p : PlanPart) : Bool :=
  !(decide (100 ≤ p.capUf) && decide (p.capUf ≤ 1000000) && decide (p.deratePct ≤ 50) && decide (3000 ≤ p.vNomMv) &&
    decide (p.vNomMv ≤ 60000) && decide (1000 ≤ p.vMinMv) && decide (p.vMinMv + 1000 ≤ p.vNomMv) && decide (10000 ≤ p.divPpm) &&
    decide (p.divPpm ≤ 500000) && decide (p.vNomMv * p.divPpm ≤ 1000 * 1000000) && decide (50 ≤ p.effPct) && decide (p.effPct ≤ 98) &&
    decide (1000 ≤ p.guardUj) && decide (p.guardUj ≤ 40000) &&
    decide (3 * 10 ^ 15 ≤ p.effPct * p.capUf * (100 - p.deratePct) * (p.vNomMv ^ 2 - p.vMinMv ^ 2)))

/-- Least and greatest tamper response by state, FACTORY first, and source class (Table 19.5). -/
def respLeast (st cls : Nat) : Nat := match st with | 1 => 1 | 2 => if cls = 1 then 2 else 1 | _ => 0
def respMost (st : Nat) : Nat := if st = 3 then 1 else 3

/-- A response byte outside its limits (err 0x0B): its offset in the section. -/
def tamperField (b : Bytes) : Option Nat :=
  firstBad ((List.range 24).map fun i =>
    (decide (u8 b (4 + i) < respLeast (i / 6) (i % 6)) || decide (respMost (i / 6) < u8 b (4 + i)), 4 + i))

/-- Policies and idle times outside R64 (err 0x10). -/
def shedsBad (m : SMap ShedPol) : Bool := m.any fun e => decide (2 < e.2.policy) || decide (e.2.idleUs < 10) || decide (1000000 < e.2.idleUs)

/-- A timer outside Table 20.5 (err 0x10): its offset in the section. -/
def escField (b : Bytes) : Option Nat :=
  let out := fun (v lo hi : Nat) => decide (v < lo) || decide (hi < v)
  firstBad ([(out (u32 b 0) 1 1000000, 0), (out (u32 b 4) 1 1000000, 4), (out (u32 b 8) 10 3600, 8)] ++
    (List.range 32).map fun p => (hasBit (u32 b 12) p && out (u32 b (16 + 4 * p)) 1 1000000, 16 + 4 * p))

/-- A twin field outside Table 04.12 (err 0x10). -/
def twinBad (t : TwinPlan) : Bool :=
  !(decide (100 ≤ t.hbPeriodUs) && decide (t.hbPeriodUs ≤ 5000) && decide (3 * t.hbPeriodUs ≤ t.partnerTimeoutUs) &&
    decide (t.partnerTimeoutUs ≤ 20 * t.hbPeriodUs) && decide (100 ≤ t.twinWaitMs) && decide (t.twinWaitMs ≤ 60000) &&
    decide (1 ≤ t.lanesMin) && decide (t.lanesMin ≤ 4))

/-- A check over the paddock sections, giving a place in the image. -/
def padCheck (b : Bytes) (f : Bytes → Option Nat) : Option Nat :=
  (secsOf b 2).findSome? fun r => (f r.2).map (r.1 + ·)

/-- err 0x02: each section against those before it, then against the pool. -/
def sharedPlace (pool : Nat) : List (Nat × Bytes) → List (Nat × Bytes) → Option Nat
  | _, [] => none
  | done, (o, r) :: rest =>
    match done.findSome? (fun d => sharedField (padOfBytes d.2) (padOfBytes r)) with
    | some f => some (o + f)
    | none => if (padOfBytes r).stallMap &&& pool != 0 then some (o + 8) else sharedPlace pool (done ++ [(o, r)]) rest

/-- The sections a full plan must hold (Table 04.8); a missing or extra one is charged to section_count (log entry 16). -/
def countsBad (b : Bytes) : Bool :=
  let n := fun t => (secsOf b t).length
  !(n 1 == 1 && decide (1 ≤ n 2) && decide (n 2 ≤ 32) && n 3 == 1 && n 4 == 1 && n 5 == 1 && decide (n 6 ≤ 1)) ||
  (sectionsOf b).any (fun x => x.kind == 0 || decide (6 < x.kind)) || (secsOf b 2).any (fun r => r.2.length != 256)

/-- A condition at a place that may not stand, with its code. -/
def errAt (e : Nat) (o : Option Nat) : Option (Nat × Nat) := o.map fun x => (e, x)

/-- A condition with its code and place. -/
def errIf (e : Nat) (bad : Bool) (o : Nat) : Option (Nat × Nat) := if bad then some (e, o) else none

/-- Conditions 0x02 to 0x08 of Table 04.10, over the paddock records. 0x07 and 0x08 are charged to permit_map: the rule names no field (DESIGN
CHOICE, log 105). -/
def padFaults (b : Bytes) (p : Plan) : List (Option (Nat × Nat)) :=
  let pads := (secsOf b 2).map fun r => padOfBytes r.2
  [errAt 0x02 (sharedPlace p.part.poolMap [] (secsOf b 2)), errIf 0x03 (!(smGet {} p.pads 0).present) (secOf b 2).1,
   errAt 0x04 (padCheck b fun r => rangeField (padOfBytes r)),
   errIf 0x04 (decide (512 < (pads.map (·.cacheUnits)).sum)) ((secOf b 2).1 + 0x18),
   errIf 0x05 (decide (256 < (pads.map (·.energyShare)).sum)) ((secOf b 2).1 + 2),
   errIf 0x06 (decide (126976 < (pads.map (·.yardCells)).sum)) ((secOf b 2).1 + 0x14),
   errAt 0x07 (padCheck b fun r => if (permitted (padOfBytes r)).any (floorMissed (padOfBytes r)) then some 0x30 else none),
   errAt 0x08 (padCheck b fun r =>
     if (permitted (padOfBytes r)).any (unreachableAlg p.part.poolMap p.sheds (padOfBytes r)) then some 0x30 else none)]

/-- Fields of the part section that hold 0 or 1 and nothing else: twin, deep_sleep_en (Table 03.9, Table 04.8). -/
def flagField (b : Bytes) : Bool := decide (1 < (Config.partFields b).getD 0 0) || decide (1 < (Config.partFields b).getD 2 0)

/-- A serial the plans of this owner epoch have passed (err 0x0C). -/
def serialUsed (s : State) (n : Nat) : Bool := decide (n < smGet 0 s.hl.serials s.lc.epoch)

/-- A channel that can be read: no strap mismatch, not failed (R45, R475). -/
def channelUp (s : State) (c : Nat) : Bool :=
  if c = 0 then !s.sys.straps.nf0Mismatch && !s.hl.failed0 else !s.sys.straps.nf1Mismatch && !s.hl.failed1

/-- R28: what every plan leans on and an image cannot bring is gone: no channel is left that could hold the journal's flush area
(err 0x0A; log entry 16). -/
def dependencyGone (s : State) : Bool := !channelUp s 0 && !channelUp s 1

/-- Conditions 0x09 to 0x0D; `partner` says whether the tether finds a partner, and counts at STORE_IMAGE alone. -/
def partFaults (s : State) (b : Bytes) (p : Plan) (store partner : Bool) : List (Option (Nat × Nat)) :=
  [errIf 0x09 (holdupBad p.part) (secOf b 1).1, errIf 0x0A (dependencyGone s) (secOf b 1).1, errAt 0x0B ((tamperField (secOf b 5).2).map ((secOf b 5).1 + ·)),
   errIf 0x0C (store && serialUsed s (imgSerial b)) 0x010,
   errIf 0x0D (p.part.twin != p.twin.isSome || (store && p.part.twin && !partner)) (secOf b 6).1]

/-- Conditions 0x0F and 0x10. -/
def fieldFaults (b : Bytes) (p : Plan) : List (Option (Nat × Nat)) :=
  [errAt 0x0F (padCheck b reservedField), errIf 0x0F (decide (2 ^ 52 ≤ p.part.poolMap)) (secOf b 1).1,
   errIf 0x0F (!allZero (slice (secOf b 5).2 1 3) || !allZero (slice (secOf b 5).2 0x1C 4)) (secOf b 5).1, errIf 0x10 (countsBad b) 0x026,
   errIf 0x10 (decide (p.part.capMax < 40) || decide (340 < p.part.capMax) || decide (p.part.drainMs < 10) ||
     decide (60000 < p.part.drainMs) || flagField (secOf b 1).2) (secOf b 1).1,
   errAt 0x10 (padCheck b rangedField), errIf 0x10 (shedsBad p.sheds) (secOf b 3).1,
   errAt 0x10 ((escField (secOf b 4).2).map ((secOf b 4).1 + ·)), errIf 0x10 (p.twin.any twinBad) (secOf b 6).1]

/-- The first condition of Table 04.10 that a full plan meets, with its byte offset. `store` is the check at STORE_IMAGE, where the
serial must be new and a twin plan needs a partner; a plan chosen at boot has passed it (log entry 16). -/
def planFault (s : State) (b : Bytes) (store partner : Bool) : Option (Nat × Nat) :=
  (errAt 0x01 (copyFault s b)).or
    ((padFaults b (planOf b) ++ partFaults s b (planOf b) store partner ++ fieldFaults b (planOf b)).findSome? id)

/-! ## Copies (R84, R86) -/

/-- Key of a copy: kind, slot, channel. -/
def copyKey (kind slot channel : Nat) : Nat := kind * 4 + slot * 2 + channel

/-- The image directory in use: of the channels that can be read, the one of the higher version (R466). -/
def dirNow (s : State) : Directory :=
  if !channelUp s 0 then s.hl.dir1
  else if !channelUp s 1 then s.hl.dir0
  else if s.hl.dir0.version < s.hl.dir1.version then s.hl.dir1 else s.hl.dir0

/-- A directory rewritten: its next version on channel 0, then on channel 1, where they take writes (R466). -/
def putDir (s : State) (d : Directory) : State :=
  let e := { d with version := (dirNow s).version + 1 }
  { s with hl := { s.hl with dir0 := if channelUp s 0 then e else s.hl.dir0, dir1 := if channelUp s 1 then e else s.hl.dir1 } }

/-- The preferred slot of a kind (R86). -/
def preferredSlot (s : State) (kind : Nat) : Nat := smGet 0 (dirNow s).prefer kind % 2

/-- The copies of a kind in the order of R86: slot and channel. -/
def copyOrder (s : State) (kind : Nat) : List (Nat × Nat) :=
  let p := preferredSlot s kind
  ([(p, 0), (p, 1), (1 - p, 0), (1 - p, 1)] : List (Nat × Nat)).filter fun e => channelUp s e.2

def copyBytes (s : State) (kind slot channel : Nat) : Bytes := (smGet {} s.hl.images (copyKey kind slot channel)).bytes

/-- A copy passes R85, R90 for a plan, and R86's build list for microcode. -/
def copyValid (s : State) (fw : Bytes) (kind : Nat) (b : Bytes) : Bool :=
  imgKind b == kind && (copyFault s b).isNone && (kind != 0x10 || (planFault s b false true).isNone) &&
  (!(2 ≤ kind && kind ≤ 5) || Config.firmwareAccepts fw kind (imgSerial b))

/-- The first valid copy of a kind: slot, channel and bytes (R86). -/
def chooseCopy (s : State) (fw : Bytes) (kind : Nat) : Option (Nat × Nat × Bytes) :=
  ((copyOrder s kind).find? fun e => copyValid s fw kind (copyBytes s kind e.1 e.2)).map fun e => (e.1, e.2, copyBytes s kind e.1 e.2)

/-- The copy of a kind that the part now runs by, as SYS holds it: digest, floor, serial (Table 04.3 step 4). -/
def noteLoaded (s : State) (kind : Nat) (b : Bytes) : State :=
  { s with sys := { s.sys with loaded := smSet {} s.sys.loaded kind {
      digest := imgDigest b, floor := imgFloor b, serial := imgSerial b,
      store := if 2 ≤ kind ∧ kind ≤ 5 then b else [], invalid := if 2 ≤ kind ∧ kind ≤ 5 then Config.unmapped b else [] } } }

/-- The system firmware entered: its build, its slot and channel, and the list of builds it accepts (R86, Table 04.15). -/
def noteFirmware (s : State) (slot ch : Nat) (b : Bytes) : State :=
  noteLoaded { s with sys := { s.sys with fwBuild := imgSerial b, fwSlot := slot + 2 * ch, firmware := b } } 0x01 b

/-- What a plan chosen at boot is refused for: the first condition that the first refused copy meets (R90, Table 04.10). -/
def bootPlanFault (s : State) : Option (Nat × Nat) :=
  ((copyOrder s 0x10).takeWhile fun e => !copyValid s s.sys.firmware 0x10 (copyBytes s 0x10 e.1 e.2)).findSome? fun e =>
    let b := copyBytes s 0x10 e.1 e.2
    if b = [] then none else planFault s b false true

/-- Floors of the kinds in use rise to floor_version once the gate has opened with them (R87, R110). -/
def loadedFloor (s : State) (kind : Nat) : Nat := (smGet {} s.sys.loaded kind).floor

/-- An invalid copy whose mirror is valid is rewritten from it (R86). -/
def mirrorCopies (s : State) : State :=
  let fw := s.sys.firmware
  slotKinds.foldl (fun t k => ([0, 1] : List Nat).foldl (fun u sl =>
    let a := copyBytes u k sl 0
    let b := copyBytes u k sl 1
    let put := fun (v : State) (c : Nat) (d : Bytes) => { v with hl := { v.hl with images := smSet {} v.hl.images (copyKey k sl c) { bytes := d } } }
    if !channelUp u 0 || !channelUp u 1 then u
    else if copyValid s fw k a && !copyValid s fw k b then put u 1 a
    else if copyValid s fw k b && !copyValid s fw k a then put u 0 b
    else u) t) s

end Sys2Proof.Machine
end

