-- ==== Sys2Proof/Machine/Queues.lean ====
section
/-! DEFINITION. Queues.lean: queue states, commands and doorbells (R80, R121, R122, R139 to R146, R158 to R163, Tables 07.3, 07.11,
07.12 to 07.16) and the commands DOORBELL_WRITE, ENABLE, DISABLE, CONTINUE, RESUME, FORGET, QUEUE_DRAIN_COMPLETE,
PENDING_ENABLE_SWITCH, HALT_LOG_READ, COMPLETION_WRITE and RECORD_RETIRE. -/

namespace Sys2Proof.Machine

/-! ## HELD (R80, R143, R159) -/

/-- An enabled queue enters HELD, its state remembered. A HALTED one stays halted behind it and keeps its latched reason: Table 07.15 says the
reason reads while halted, and R158 and the rows of R159 clear it by CONTINUE and DISABLE alone (R158; DESIGN CHOICE, log 112). -/
def holdQueue (s : State) (q : Nat) : State :=
  let x := qAt s q
  if 1 ≤ x.state ∧ x.state ≤ 4 then
    writeShadow (journalWrite (modQ s q fun y => { dropCopies y with state := 5, remembered := y.state, heldBell := none })) q
  else s

/-- The queues of a function enter HELD. -/
def holdFnQueues (s : State) (n : Nat) : State :=
  updateLtr ((queueNums s).foldl (fun t q => if (qAt t q).fn == n && !(qAt t q).bx then holdQueue t q else t) s)

/-! ## Doorbells (R145, R146, Table 07.3) -/

/-- A valid doorbell moves P; an invalid one halts a RUNNING queue with ST_RING_OVERRUN (R146). -/
def ringRunning (s : State) (q v : Nat) : State :=
  match bellFault (qAt s q) v with
  | some d => haltQueue s q 0x81 d (v % 2 ^ 17)
  | none => journalWrite (modQ s q fun x => { x with p := v })

/-- A doorbell on a HALTED queue. -/
def ringHalted (s : State) (q v : Nat) : State :=
  match bellFault (qAt s q) v with
  | some _ => deny s (qAt s q).fn
  | none => journalWrite (modQ s q fun x => { x with p := v })

/-- A doorbell write that has reached queue `q` through function `n`. -/
def takeBell (s : State) (n q v : Nat) : State :=
  let x := qAt s q
  let own := !x.bx && x.fn == n
  if x.state = 5 ∧ x.remembered = 4 then
    (if x.pend.any fun e => e.fn == n then modQ s q fun y => { y with heldBell := some v } else deny s n)
  else if x.state = 4 then
    match x.pend with
    | some e => if e.fn = n then modQ s q fun y => { y with pend := some { e with doorbell := some v } } else deny s n
    | none => deny s n
  else if x.state = 0 || x.state = 3 || !own then deny s n
  else if x.standby then modQ s q fun y => { y with recordedP := some (v % 2 ^ 17) }
  else if x.state = 1 then ringRunning s q v
  else if x.state = 2 then ringHalted s q v
  else modQ s q fun y => { y with heldBell := some v }

/-- The queue whose doorbell stands at a BAR2 offset of a function (R145). -/
def bellQueue (s : State) (n offset : Nat) : Option Nat :=
  match padOfFn s n with
  | none => none
  | some p => if offset / 8 < (padRec s p).queueCount then some ((padRec s p).queueBase + offset / 8) else none

/-- A write into BAR2 that the part can act on now (R122, R124, R497). -/
def bar2Write (s : State) (n offset size v : Nat) : State :=
  if (size ≠ 4 ∧ size ≠ 8) ∨ offset % size ≠ 0 then deny s n
  else match bellQueue s n offset with
  | none => s
  | some q => if offset % 8 = 4 then deny s n else takeBell s n q v

/-- Doorbell writes recorded while they could not be acted on, in arrival order (R55, R78). -/
def runBells (s : State) : State :=
  let l := s.port.doorbells
  l.foldl (fun t (e : Nat × Nat × Nat × Nat) => bar2Write t e.1 e.2.1 e.2.2.1 e.2.2.2) { s with port := { s.port with doorbells := [] } }

/-! ## Commands (R159, Tables 07.12 to 07.14) -/

/-- Why the staged configuration is invalid for ENABLE: k, base alignment, vector, index (result 3). -/
def stagedOk (s : State) (n index : Nat) : Bool :=
  let f := fnAt s n
  decide (4 ≤ f.qcLog2) && decide (f.qcLog2 ≤ 16) && f.qcRing % 4096 == 0 && decide (f.qcVector < vecTable s n) &&
  decide (index < 2 ^ (f.qcLog2 + 1))

/-- This part only records the doorbells of a queue whose home is the other side (R197). -/
def standbyHere (s : State) (q : Nat) : Bool :=
  s.plan.part.twin && s.jn.role == 1 && (match s.plan.twin, padOfQueue s q with
    | some t, some p => hasBit t.homeSide p != s.sys.straps.twinSide
    | _, _ => false)

/-- A queue made RUNNING under a new generation with a configuration, A, T and P at an index (R159, R161). -/
def startQueue (s : State) (q : Nat) (c : PendEnable) : State :=
  let x := qAt s q
  let s1 := journalWrite (putQ s q
    { state := 1, base := c.base, k := c.k, vector := c.vector, wake := c.wake, crcReq := c.crcReq, irqEn := c.irqEn,
      shadowEn := c.shadowEn, shadowAddr := c.shadowAddr, fn := c.fn, p := c.index, a := c.index, t := c.index,
      gen := (x.gen + 1) % 65536, forgotten := x.forgotten, standby := standbyHere s q, takenOver := x.takenOver })
  updateLtr (writeShadow s1 q)

/-- The staging registers of a function as ENABLE snapshots them. -/
def snapshotOf (s : State) (n index : Nat) : PendEnable :=
  let f := fnAt s n
  { base := f.qcRing, k := f.qcLog2, vector := f.qcVector, wake := f.qcWake, crcReq := f.qcCrcReq, irqEn := f.qcIrqEn,
    shadowEn := f.qcShadowEn, shadowAddr := f.qcShadowAddr, index := index, fn := n }

/-- What is left of a DISABLED queue: generation and indices, and, while its last shadow is owed, where that is to be written (R144). -/
def disabledQueue (x : Queue) : Queue :=
  let y : Queue := { gen := x.gen, forgotten := x.forgotten, k := x.k, p := x.p, a := x.a, t := x.t }
  if x.shadowOwed then { y with shadowOwed := true, shadowEn := x.shadowEn, shadowAddr := x.shadowAddr, fn := x.fn } else y

/-- A queue becomes DISABLED: its configuration and its ring cells are given back. -/
def disableQueue (s : State) (q : Nat) : State :=
  let s1 := writeShadow (modQ s q fun y => { dropCopies y with state := 0, errReason := 0, errDetail := 0, errIndex := 0 }) q
  updateLtr (journalWrite (fitYard (putQ s1 q (disabledQueue (qAt s1 q)))))

/-- The result of a command stands in QM_CMD_RESULT (Table 07.14). -/
def setResult (s : State) (n q cmd r : Nat) : State :=
  modFn s n fun f => { f with cmdQueue := q, cmdCmd := cmd, cmdResult := r }

/-- ENABLE through function `n`: result and state (Table 07.11). -/
def cmdEnable (s : State) (n q index : Nat) : Nat × State :=
  let x := qAt s q
  if x.bx || (x.state ≠ 0 && x.state ≠ 3) then (2, s)
  else if !stagedOk s n index then (3, s)
  else if x.state = 0 then (0, startQueue s q (snapshotOf s n index))
  else (0, writeShadow (journalWrite (modQ s q fun y => { y with state := 4, pend := some (snapshotOf s n index) })) q)

/-- An entry of the queue whose record is being written is not accepted any more (R160). -/
def dropHead (s : State) (q : Nat) : State := match s.jobs.find? fun j => j.queue == q && !isLive j with
  | some j => dropEntry s j
  | none => s

/-- DISABLE, after the function has been allowed: RUNNING or HALTED begins to drain; a pending enable is cancelled. -/
def beginDrain (s : State) (q : Nat) : State :=
  let s1 := journalWrite (modQ (dropHead s q) q fun y =>
    { dropCopies y with state := 3, pend := none, errReason := 0, errDetail := 0, errIndex := 0 })
  drainQueue (writeShadow s1 q) q

def cmdDisable (s : State) (n q : Nat) : Nat × State :=
  let x := qAt s q
  let viaPend := match x.pend with
    | some e => e.fn == n
    | none => false
  if x.bx then (2, s)
  else if x.state = 1 ∨ x.state = 2 then (if x.fn = n then (0, beginDrain s q) else (2, s))
  else if x.state = 4 then (if x.fn = n || viaPend then (0, beginDrain s q) else (2, s))
  else (2, s)

/-- CONTINUE: the entry at A is read again and the latched reason clears. -/
def continueQueue (s : State) (q : Nat) : State :=
  writeShadow (journalWrite (modQ s q fun y => { dropCopies y with state := 1, errReason := 0, errDetail := 0, errIndex := 0 })) q

def cmdContinue (s : State) (n q : Nat) : Nat × State :=
  let x := qAt s q
  if x.bx || x.state ≠ 2 || x.fn ≠ n then (2, s) else (0, continueQueue s q)

/-- RESUME: the remembered state, then the held doorbell under that state's row, then the held writes (R80, R126, Table 07.3). -/
def resumeQueue (s : State) (q : Nat) : State :=
  let x := qAt s q
  let s1 := writeShadow (journalWrite (modQ s q fun y => { y with state := y.remembered, remembered := 0, heldBell := none })) q
  let s2 := match x.heldBell with
    | none => s1
    | some v =>
      if x.remembered = 1 then ringRunning s1 q v
      else if x.remembered = 2 then ringHalted s1 q v
      else if x.remembered = 4 then modQ s1 q fun y => { y with pend := y.pend.map fun e => { e with doorbell := some v } }
      else s1
  let s3 := if x.remembered = 3 ∨ x.remembered = 4 then drainQueue s2 q else s2
  updateLtr (releaseHeld s3 [q])

def cmdResume (s : State) (n q : Nat) : Nat × State :=
  let x := qAt s q
  if x.bx || x.state ≠ 5 || x.fn ≠ n then (2, s)
  else if x.forgetting then (2, s)
  else if !(fnAt s n).bme then (4, s)
  else (0, resumeQueue s q)

/-- A forgotten record: it retires without any write, and what it claimed is given back. -/
def forgetJob (s : State) (j : Job) : State :=
  let s1 := releaseClaims (modJob s j.seq fun x =>
    { x with phase := .issued, silent := true, replaying := false, heldCpl := false, stall := none, cells := 0, drawn := 0 }) j
  match j.stall with
  | some n => abandonOn s1 n j.seq
  | none => s1

/-- A queue being forgotten is DISABLED when T equals A. -/
def forgetDone (s : State) (q : Nat) : State := if (qAt s q).forgetting && drained s q then disableQueue s q else s

/-- FORGET: the queue's live records retire without any write and are counted, and with the last of them the queue is disabled; in a twin each
waits for the partner's acknowledgement (R80, R196). An entry still being written is left unconsumed. -/
def forgetQueue (s : State) (q : Nat) : State :=
  let s0 := dropHead s q
  let l := queueJobs s0 q
  let s1 := l.foldl forgetJob (modQ s0 q fun x => { x with forgotten := satAdd 0xFFFFFFFF x.forgotten l.length, pend := none, forgetting := true })
  forgetDone (retireSilent s1 q (s1.jobs.length + 1)) q

def cmdForget (s : State) (n q : Nat) : Nat × State :=
  let x := qAt s q
  if x.bx || x.state ≠ 5 || x.fn ≠ n then (2, s)
  else if !(fnAt s n).bme then (4, s)
  else if x.forgetting then (2, s)
  else (0, forgetQueue s q)

/-- A QM_Q_CTRL write through a function: its queue must be of the function's paddock (R8, result 1). -/
def queueCommand (s : State) (n : Nat) (value : W64) (cmd : Nat) (act : State → Nat → Nat × State) : State :=
  let q := bits value.toNat 0 16
  match padOfFn s n with
  | none => s
  | some p =>
    if !regsUp s n then s
    else if (fnAt s n).cmdBusy then modFn s n fun f => { f with cmdLost := true }
    else if padOfQueue s q ≠ some p then setResult s n q cmd 1
    else setResult (act s q).2 n q cmd (act s q).1

/-! ## Commands of the block -/

/-- DOORBELL_WRITE (R145): recorded while the part is in deep sleep (R55). -/
def execDoorbellWrite (fn offset size : Nat) (value : W64) (s : State) : Host.Outcome State Fault Refusal :=
  let v := if size = 4 then value.toNat % 2 ^ 32 else value.toNat
  .next (if s.sys.deepSleep then { s with port := { s.port with doorbells := s.port.doorbells ++ [(fn, offset, size, v)] } }
         else if regsUp s fn then bar2Write s fn offset size v else s)

/-- ENABLE (R159). -/
def execQEnable (fn : Nat) (value : W64) (s : State) : Host.Outcome State Fault Refusal :=
  .next (queueCommand s fn value 1 fun t q => cmdEnable t fn q (bits value.toNat 20 17))

/-- DISABLE (R160). -/
def execQDisable (fn : Nat) (value : W64) (s : State) : Host.Outcome State Fault Refusal :=
  .next (replaysDone (queueCommand s fn value 2 fun t q => cmdDisable t fn q))

/-- CONTINUE (R159). -/
def execQContinue (fn : Nat) (value : W64) (s : State) : Host.Outcome State Fault Refusal :=
  .next (queueCommand s fn value 3 fun t q => cmdContinue t fn q)

/-- RESUME (R80). -/
def execQResume (fn : Nat) (value : W64) (s : State) : Host.Outcome State Fault Refusal :=
  .next (queueCommand s fn value 4 fun t q => cmdResume t fn q)

/-- FORGET (R80). -/
def execQForget (fn : Nat) (value : W64) (s : State) : Host.Outcome State Fault Refusal :=
  .next (replaysDone (queueCommand s fn value 5 fun t q => cmdForget t fn q))

/-- QUEUE_DRAIN_COMPLETE (R160). -/
def execQueueDrainComplete (queue : Nat) (s : State) : Host.Outcome State Fault Refusal :=
  .next (if (qAt s queue).state = 3 ∧ drained s queue = true then disableQueue s queue else s)

/-- PENDING_ENABLE_SWITCH (R161): the last doorbell recorded, or the ENABLE index, is checked under R146. -/
def execPendingEnableSwitch (queue : Nat) (s : State) : Host.Outcome State Fault Refusal :=
  .next (match (qAt s queue).pend with
    | some e =>
      if (qAt s queue).state = 4 ∧ drained s queue = true then ringRunning (startQueue s queue e) queue (e.doorbell.getD e.index) else s
    | none => s)

/-- HALT_LOG_READ (R163, Table 07.16): a read that returns valid 1 removes the oldest entry. -/
def execHaltLogRead (fn : Nat) (s : State) : Host.Outcome State Fault Refusal :=
  .next (if !regsUp s fn then s
  else match padOfFn s fn with
    | none => reply s fn (zeros 8)
    | some p =>
      let x := padAt s p
      match x.haltLog with
      | [] => reply s fn (leBytes 8 (b1 x.haltOverflow * 2 ^ 25))
      | e :: r => reply (modPad s p fun y => { y with haltLog := r }) fn (leBytes 8 (e.1 + e.2 * 2 ^ 16 + 2 ^ 24 + b1 x.haltOverflow * 2 ^ 25)))

/-- COMPLETION_WRITE (R153, R363). -/
def execCompletionWrite (queue : Nat) (s : State) : Host.Outcome State Fault Refusal :=
  .next (replaysDone (completeHead s queue))

/-- RECORD_RETIRE (R14). -/
def execRecordRetire (queue : Nat) (s : State) : Host.Outcome State Fault Refusal :=
  let s1 := retireEntry s queue
  .next (replaysDone (forgetDone (retireSilent s1 queue (s1.jobs.length + 1)) queue))

end Sys2Proof.Machine
end

