-- ==== Sys2Proof/Machine/Curves.lean ====
section
/-! DEFINITION. Curves.lean: ECDSA and ECDH on the NIST curves (FIPS 186-5, RFC 6979, SEC 1), Ed25519 and Ed448 (RFC 8032), X25519 and X448
(RFC 7748), which the manual names (R274, R278, R281 to R283); log entry 4. -/

namespace Sys2Proof.Machine

/-! ## Arithmetic modulo a prime -/

/-- The inverse modulo a prime. -/
def invMod (p a : Nat) : Nat := powMod p 600 (a % p) (p - 2)

/-- Difference modulo m. -/
def subMod (m a b : Nat) : Nat := (a + (m - b % m)) % m

/-! ## NIST curves -/

/-- A point, none at infinity. -/
abbrev Point := Option (Nat × Nat)

/-- The base point of P-256, P-384, P-521. -/
def nistBase (ps : Nat) : Point :=
  match ps with
  | 1 => some (0x6B17D1F2E12C4247F8BCE6E563A440F277037D812DEB33A0F4A13945D898C296,
      0x4FE342E2FE1A7F9B8EE7EB4A7C0F9E162BCE33576B315ECECBB6406837BF51F5)
  | 2 => some (0xAA87CA22BE8B05378EB1C71EF320AD746E1D3B628BA79B9859F741E082542A385502F25DBF55296C3A545E3872760AB7,
      0x3617DE4A96262C6F5D9E98BF9292DC29F8F41DBD289A147CE9DA3113B5F0B8C00A60B1CE1D7E819D7A431D7C90EA0E5F)
  | _ => some (0xC6858E06B70404E9CD9E3ECB662395B4429C648139053FB521F828AF606B4D3DBAA14B5E77EFE75928FE1DC127A2FFA8DE3348B3C1856A429BF97E7E31C2E5BD66,
      0x11839296A789A3BC0045C8A5FB42C7D1BD998F54449579B446817AFBD17273E662C97EE72995EF42640C550B9013FAD0761353C7086A272C24088BE94769FD16650)

/-- The third point of a line with slope l through two points, mirrored. -/
def chord (p l x1 y1 x2 : Nat) : Point :=
  let x3 := subMod p (l * l) (x1 + x2)
  some (x3, subMod p (l * subMod p x1 x3) y1)

/-- The sum of two points; the coefficient a is −3. -/
def nistAdd (p : Nat) : Point → Point → Point
  | none, b => b
  | a, none => a
  | some (x1, y1), some (x2, y2) =>
    if x1 = x2 then
      if (y1 + y2) % p = 0 then none
      else chord p ((3 * (x1 * x1) + (p - 3)) * invMod p (2 * y1) % p) x1 y1 x2
    else chord p (subMod p y2 y1 * invMod p (subMod p x2 x1) % p) x1 y1 x2

/-- A multiple of a point; `fuel` is at least the number of bits of the scalar. -/
def nistMul (p : Nat) : Nat → Nat → Point → Point
  | 0, _, _ => none
  | fuel + 1, k, a => if k = 0 then none else
    let h := nistMul p fuel (k / 2) (nistAdd p a a)
    if k % 2 = 1 then nistAdd p h a else h

/-- 0x04 ‖ X ‖ Y (R274). -/
def encodePoint (w : Nat) : Point → Bytes
  | none => [0#8]
  | some (x, y) => 0x04#8 :: (beBytes w x ++ beBytes w y)

/-- The point of an uncompressed encoding. -/
def decodePoint (b : Bytes) : Point :=
  let w := (b.length - 1) / 2
  some (beNat (slice b 1 w), beNat (slice b (1 + w) w))

/-- Widths in bytes of the field of P-256, P-384, P-521; of the group order too. -/
def nistWidth (ps : Nat) : Nat := match ps with | 1 => 32 | 2 => 48 | _ => 66

/-- The public point of a private scalar. -/
def nistPublic (ps : Nat) (d : Bytes) : Bytes :=
  encodePoint (nistWidth ps) (nistMul (nistCurve ps).1 600 (beNat d) (nistBase ps))

/-- The shared secret: the x-coordinate, as wide as the field. -/
def ecdhSecret (ps : Nat) (d peer : Bytes) : Bytes :=
  match nistMul (nistCurve ps).1 600 (beNat d) (decodePoint peer) with
  | some (x, _) => beBytes (nistWidth ps) x
  | none => zeros (nistWidth ps)

/-! ## ECDSA (FIPS 186-5), with the nonces of RFC 6979 (R283) -/

/-- Bits of the group order. -/
def orderBits (ps : Nat) : Nat := match ps with | 1 => 256 | 2 => 384 | _ => 521

/-- The leftmost bits of a string, as many as the group order has. -/
def bitsToInt (ps : Nat) (b : Bytes) : Nat := beNat b / 2 ^ (8 * b.length - orderBits ps)

/-- The hash of the nonce generator: SHA-256, SHA-384, SHA-512 (R283). -/
def nonceHash (ps : Nat) : Nat := match ps with | 1 => 1 | 2 => 2 | _ => 3

/-- One update of K and V with data. -/
def drbgUpdate (ph : Nat) (kv : Bytes × Bytes) (mark : Byte) (d : Bytes) : Bytes × Bytes :=
  let k := hmac ph kv.1 (kv.2 ++ [mark] ++ d)
  (k, hmac ph k kv.2)

/-- Output blocks until `n` bytes are had. -/
def drbgBlocks (ph : Nat) : Nat → Bytes × Bytes → Bytes × Bytes
  | 0, kv => ([], kv.2)
  | n + 1, kv =>
    let v := hmac ph kv.1 kv.2
    let r := drbgBlocks ph n (kv.1, v)
    (v ++ r.1, r.2)

/-- r and s for a nonce; none when either is 0. -/
def ecdsaWith (ps d z k : Nat) : Option (Nat × Nat) :=
  let n := nistOrder ps
  match nistMul (nistCurve ps).1 600 k (nistBase ps) with
  | none => none
  | some (x, _) =>
    let r := x % n
    let s := invMod n k * ((z + r * d) % n) % n
    if r = 0 ∨ s = 0 then none else some (r, s)

/-- Nonces are drawn until one serves; `fuel` bounds the draws, which practically never exceed one. -/
def ecdsaTry (ps d z : Nat) : Nat → Bytes × Bytes → Nat × Nat
  | 0, _ => (0, 0)
  | fuel + 1, kv =>
    let ph := nonceHash ps
    let b := drbgBlocks ph ((nistWidth ps + phLen ph - 1) / phLen ph) kv
    let k := bitsToInt ps (b.1.take (nistWidth ps))
    let kv1 := (kv.1, b.2)
    match if 1 ≤ k ∧ k < nistOrder ps then ecdsaWith ps d z k else none with
    | some x => x
    | none => ecdsaTry ps d z fuel (drbgUpdate ph kv1 0#8 [])

/-- The signature r ‖ s of a digest; `more` is the additional input of a hedged nonce, empty for a deterministic one. -/
def ecdsaSign (ps : Nat) (d digest more : Bytes) : Bytes :=
  let ph := nonceHash ps
  let w := nistWidth ps
  let z := bitsToInt ps digest
  let x := d ++ beBytes w (z % nistOrder ps) ++ more
  let kv0 : Bytes × Bytes := (zeros (phLen ph), List.replicate (phLen ph) 1#8)
  let r := ecdsaTry ps (beNat d) z 64 (drbgUpdate ph (drbgUpdate ph kv0 0#8 x) 1#8 x)
  beBytes w r.1 ++ beBytes w r.2

/-- The verdict over a digest (R281). -/
def ecdsaVerify (ps : Nat) (pk digest sig : Bytes) : Bool :=
  let n := nistOrder ps
  let p := (nistCurve ps).1
  let w := sig.length / 2
  let r := beNat (sig.take w)
  let s := beNat (sig.drop w)
  if r = 0 ∨ n ≤ r ∨ s = 0 ∨ n ≤ s then false
  else
    let i := invMod n s
    let q := nistAdd p (nistMul p 600 (bitsToInt ps digest * i % n) (nistBase ps)) (nistMul p 600 (r * i % n) (decodePoint pk))
    match q with
    | some (x, _) => x % n == r
    | none => false

/-! ## Edwards curves (RFC 8032) -/

/-- Field prime, coefficients a and d, and base point of edwards25519 and edwards448. -/
def edP (ps : Nat) : Nat := if ps = 1 then p25519 else p448
def edA (ps : Nat) : Nat := if ps = 1 then p25519 - 1 else 1
def edD (ps : Nat) : Nat := if ps = 1 then d25519 else p448 - 39081
def edBase (ps : Nat) : Nat × Nat :=
  if ps = 1 then (0x216936D3CD6E53FEC0A4E231FDD6DC5C692CC7609525A7B2C9562D608F25D51A,
    0x6666666666666666666666666666666666666666666666666666666666666658)
  else (0x4F1970C66BED0DED221D15A622BF36DA9E146570470F1767EA6DE324A3D3A46412AE1AF72AB66511433B80E18B00938E2626A82BC70CC05E,
    0x693F46716EB6BC248876203756C9C7624BEA73736CA3984087789C1E05A0C2D73AD3FF1CE67C39C4FDBD132C4ED7C8AD9808795BF230FA14)

/-- The sum of two points. -/
def edAdd (ps : Nat) (a b : Nat × Nat) : Nat × Nat :=
  let p := edP ps
  let t := edD ps * (a.1 * b.1 % p * (a.2 * b.2 % p) % p) % p
  ((a.1 * b.2 + a.2 * b.1) % p * invMod p (1 + t) % p, subMod p (a.2 * b.2) (edA ps * (a.1 * b.1)) * invMod p (subMod p 1 t) % p)

/-- A multiple of a point. -/
def edMul (ps : Nat) : Nat → Nat → Nat × Nat → Nat × Nat
  | 0, _, _ => (0, 1)
  | fuel + 1, k, a => if k = 0 then (0, 1) else
    let h := edMul ps fuel (k / 2) (edAdd ps a a)
    if k % 2 = 1 then edAdd ps h a else h

/-- Bytes of a key: 32 or 57. -/
def edWidth (ps : Nat) : Nat := if ps = 1 then 32 else 57

/-- A point encoded: y, with the low bit of x in the top bit. -/
def edEncode (ps : Nat) (a : Nat × Nat) : Bytes := leBytes (edWidth ps) (a.2 + (a.1 % 2) * 2 ^ (8 * edWidth ps - 1))

/-- A square root modulo the field prime, if there is one. -/
def edRoot (ps w : Nat) : Option Nat :=
  let p := edP ps
  let c := if ps = 1 then powMod p 512 w ((p + 3) / 8) else powMod p 512 w ((p + 1) / 4)
  if c * c % p = w % p then some c
  else if ps = 1 then
    let e := c * powMod p 512 2 ((p - 1) / 4) % p
    if e * e % p = w % p then some e else none
  else none

/-- A point decoded. -/
def edDecode (ps : Nat) (b : Bytes) : Option (Nat × Nat) :=
  let p := edP ps
  let top := 8 * edWidth ps - 1
  let y := leNat b % 2 ^ top
  let sign := leNat b / 2 ^ top % 2
  let (u, v) := edwardsRatio ps y
  if p ≤ y then none
  else match edRoot ps (u * invMod p v % p) with
    | none => none
    | some x => if x = 0 ∧ sign = 1 then none else some (if x % 2 = sign then x else p - x, y)

/-- The hash of EdDSA: SHA-512, or SHAKE256 of 114 bytes. -/
def edHash (ps : Nat) (m : Bytes) : Bytes := if ps = 1 then sha512 m else shake256 m 114

/-- The domain prefix: none for pure Ed25519; else the name, the pre-hash flag and the context. -/
def edDomain (ps mode : Nat) (ctx : Bytes) : Bytes :=
  if ps = 1 then
    if mode = 0 then [] else ascii "SigEd25519 no Ed25519 collisions" ++ leBytes 1 mode ++ leBytes 1 ctx.length ++ ctx
  else ascii "SigEd448" ++ leBytes 1 mode ++ leBytes 1 ctx.length ++ ctx

/-- The secret scalar of a seed's hash, its bits cleared and set. -/
def edScalar (ps : Nat) (h : Bytes) : Nat :=
  if ps = 1 then leNat (h.take 32) / 8 * 8 % 2 ^ 254 + 2 ^ 254 else leNat (h.take 57) / 4 * 4 % 2 ^ 447 + 2 ^ 447

/-- The public key of a seed. -/
def edPublic (ps : Nat) (seed : Bytes) : Bytes := edEncode ps (edMul ps 600 (edScalar ps (edHash ps seed)) (edBase ps))

/-- The signature of a message, or in pre-hash mode of its digest. -/
def edSign (ps mode : Nat) (seed ctx m : Bytes) : Bytes :=
  let h := edHash ps seed
  let a := edScalar ps h
  let l := edwardsOrder ps
  let pub := edEncode ps (edMul ps 600 a (edBase ps))
  let r := leNat (edHash ps (edDomain ps mode ctx ++ h.drop (edWidth ps) ++ m)) % l
  let rb := edEncode ps (edMul ps 600 r (edBase ps))
  let k := leNat (edHash ps (edDomain ps mode ctx ++ rb ++ pub ++ m)) % l
  rb ++ leBytes (edWidth ps) ((r + k * a) % l)

/-- The verdict: R decodes, S is below the group order, and the cofactored equation holds (R281). -/
def edVerify (ps mode : Nat) (pk ctx m sig : Bytes) : Bool :=
  let w := edWidth ps
  let s := leNat (sig.drop w)
  let c := if ps = 1 then 8 else 4
  match edDecode ps (sig.take w), edDecode ps pk with
  | some r, some a =>
    let k := leNat (edHash ps (edDomain ps mode ctx ++ sig.take w ++ pk ++ m)) % edwardsOrder ps
    decide (s < edwardsOrder ps) && edMul ps 8 c (edMul ps 600 s (edBase ps)) == edMul ps 8 c (edAdd ps r (edMul ps 600 k a))
  | _, _ => false

/-! ## Montgomery curves (RFC 7748) -/

/-- One step of the ladder for a bit of the scalar: x1, the two points. -/
def ladderStep (p a24 x1 : Nat) (z : Nat × Nat × Nat × Nat) (bit : Bool) : Nat × Nat × Nat × Nat :=
  let (x2, z2, x3, z3) := if bit then (z.2.2.1, z.2.2.2, z.1, z.2.1) else z
  let a := (x2 + z2) % p
  let b := subMod p x2 z2
  let aa := a * a % p
  let bb := b * b % p
  let e := subMod p aa bb
  let da := subMod p x3 z3 * a % p
  let cb := (x3 + z3) % p * b % p
  let u3 := (da + cb) * (da + cb) % p
  let d := subMod p da cb
  let w3 := x1 * (d * d % p) % p
  let u2 := aa * bb % p
  let w2 := e * ((aa + a24 * e) % p) % p
  if bit then (u3, w3, u2, w2) else (u2, w2, u3, w3)

/-- The function X25519 or X448. -/
def montgomery (ps : Nat) (k u : Bytes) : Bytes :=
  let p := edP ps
  let w := if ps = 1 then 32 else 56
  let n := if ps = 1 then leNat k / 8 * 8 % 2 ^ 254 + 2 ^ 254 else leNat k / 4 * 4 % 2 ^ 447 + 2 ^ 447
  let x1 := (if ps = 1 then leNat u % 2 ^ 255 else leNat u) % p
  let r := (List.range 448).reverse.foldl (fun z i => ladderStep p (if ps = 1 then 121665 else 39081) x1 z (n.testBit i)) (1, 0, x1, 1)
  leBytes w (r.1 * invMod p r.2.1 % p)

/-- The public value of a private key. -/
def xPublic (ps : Nat) (k : Bytes) : Bytes := montgomery ps k (leBytes (if ps = 1 then 32 else 56) (if ps = 1 then 9 else 5))

end Sys2Proof.Machine
end

