-- ==== Sys2Proof/Machine/TackOps.lean ====
section
/-! DEFINITION. TackOps.lean: the unseal and restore of the tack room (R328, R342), the tamper actions on it (R344, Table 15.10), and
what they make of records whose keys are gone (R191, R437, R438). -/

namespace Sys2Proof.Machine

/-- The identity pair's seeds (R99, Table 15.2). -/
def identitySeeds (s : State) : Bytes := kdf s.lc.deviceRoot "IDENT" [] 64

/-- The P-384 private key of the identity pair; the way from its seed is not given (log entry 119). -/
def identityScalar (s : State) : Bytes := beBytes 48 (Config.identityKey ((identitySeeds s).drop 32) % (nistOrder 2 - 1) + 1)

/-- The root bank is derived, binding the life-cycle state, the owner epoch and the owner's key digest (R328). -/
def deriveRoots (s : State) : State :=
  let ctx := leBytes 1 s.lc.state ++ leBytes 4 s.lc.epoch
  { s with tk := { s.tk with
    unsealed := true, scrambled := false, jseal := kdf s.lc.deviceRoot "JSEAL" ctx 32,
    ownerRoot := kdf s.lc.deviceRoot "OWNR" (ctx ++ padTo 48 s.lc.ownerDigest) 64 } }

/-- A live record's job is to create the key of this slot (R337). -/
def createsSlot (s : State) (n : Nat) : Bool := s.jobs.any fun j => j.fixed == 0 && targetOf j.desc == some n

/-- The generation a slot goes on from: one used up is usable again under another owner epoch (R346). -/
def genFrom (s : State) (x : Slot) : Nat := if x.sealEpoch = s.lc.epoch then x.gen else x.gen % 0x7FFFFF

/-- A slot as the unseal of a cold boot leaves it (R342, R346): material to be restored where its copies open; EMPTY where they are
sealed under another state or epoch, where it held a loaded blob key, or where no record will fill it. -/
def unsealSlot (s : State) (n : Nat) (x : Slot) : Slot :=
  let sealed := x.sealState == s.lc.state && x.sealEpoch == s.lc.epoch
  if x.state = 2 ∨ x.state = 3 ∨ x.state = 5 then
    (if sealed then { x with state := 5 } else { gen := genFrom s x, sealEpoch := s.lc.epoch })
  else if x.state = 1 ∧ createsSlot s n = true then x
  else { state := if x.state = 6 then 6 else 0, gen := genFrom s x, sealEpoch := s.lc.epoch }

/-- Blob keys named by live records are given slots again, to be loaded before dispatch (R341). -/
def reloadBlobs (s : State) : State :=
  (liveJobs s).foldl (fun t j =>
    (blobsOf j.paddock j.desc).foldl (fun u b =>
      match reserveBlob u b with
      | some v => if (blobAt v b).loaded then v else modJob v j.seq fun x => { x with waitKey := true }
      | none => u) t) s

/-- Step 14 of Table 04.4: roots derived, descriptor table read, new mask and permutation keys (R342, R343). -/
def unsealTack (s : State) : State :=
  let s1 := deriveRoots s
  let s2 := { s1 with tk := { s1.tk with
    slots := smMap {} (unsealSlot s1) s1.tk.slots, blobs := smMap {} (fun _ e => { e with loaded := false, loadedAt := none }) s1.tk.blobs,
    maskDraw := s1.freeCtr, permDraw := s1.freeCtr + 2 }, freeCtr := s1.freeCtr + 3 }
  let s3 := { s2 with tk := { s2.tk with restoring := s2.tk.slots.any fun e => e.2.state == 5 } }
  reloadBlobs s3

/-- A copy of a slot on a channel that can be read. -/
def copyReadable (s : State) (x : Slot) : Bool := (x.copy0 && !s.hl.failed0) || (x.copy1 && !s.hl.failed1)

/-- One slot restored from its sealed copies, or LOST with FK_TK_COPY_LOST when neither channel's opens (R342). -/
def restoreSlot (s : State) (n : Nat) : State :=
  let x := slotAt s n
  if x.state ≠ 5 then s
  else if copyReadable s x then putSlot s n { x with state := if x.revoked then 3 else 2 }
  else report (loseSlot s n) 0x0A8 0x15 false 0 n

/-- A live record that can no longer be executed: an issued one retires without a write, any other is ended with a status (R191). -/
def loseJob (s : State) (j : Job) (status : Nat) : State :=
  if j.issued then
    if j.phase == .issued then s
    else
      let s1 := modJob s j.seq fun x => { x with phase := .issued, silent := true, replaying := false, stall := none, cells := 0, drawn := 0 }
      match j.stall with
      | some n => abandonOn s1 n j.seq
      | none => s1
  else if j.fixed ≠ 0 || j.phase == .finished || j.phase == .writing || j.phase == .issued then s
  else abortJob s j.seq status

/-- Records at the head of every queue that retire without a write do so (R191). -/
def retireSilents (s : State) : State := (queueNums s).foldl (fun t q => retireSilent t q (t.jobs.length + 1)) s

/-- A job that needs key material of the tack room: a handle of any class but 8, or the identity pair (R111). -/
def needsTack (d : Desc) : Bool := ((handlesOf d).any fun h => hCls h != 8) || (d.opcode == 0x0E10 && d.keyRef == 0)

/-- Staged records whose key a tamper response has made unreachable (R438). -/
def loseKeyless (s : State) : State :=
  retireSilents ((s.jobs.filter fun j => isLive j && needsTack j.desc && j.phase == .staged).foldl (fun t j => loseJob t j 0x0B00) s)

/-- Erase working keys (Table 15.10): the mask keys are redrawn, every slot of the 16,384 becomes LOST, the sealed copies go, and the
roots are unreachable until the next unseal. -/
def eraseWorking (s : State) : State :=
  let d := draw s
  { d.2 with tk := { d.2.tk with
    maskDraw := s.freeCtr, unsealed := false, restoring := false, ownerRoot := [],
    slots := (List.range 16384).map (fun n => (n, lostSlot s n)), lost := satAdd 0xFFFF s.tk.lost 16384, hbs := [],
    blobs := smMap {} (fun _ e => { e with loaded := false, loadedAt := none }) s.tk.blobs } }

/-- Erase paddock roots: as above, every inc_p rises and the blob table goes (Table 15.10). -/
def eraseRoots (s : State) : State :=
  let s1 := eraseWorking s
  let s2 := (List.range 32).foldl (fun t p => modPad t p fun x => { x with inc := (x.inc + 1) % 2 ^ 32 }) s1
  (smKeys s2.tk.blobs).foldl (fun t b => if (blobAt t b).present then removeBlob t b else t) s2

/-- Table 15.10: the action of a response. -/
def tackAct (s : State) (resp : Nat) : State :=
  match resp with
  | 0 => s
  | 1 => { s with tk := { s.tk with hold := true } }
  | 2 => eraseWorking s
  | _ => eraseRoots s

/-- R436: a trip in deep sleep overwrites both mask keys and the root bank's mask; the slots must come back from their copies. -/
def scrambleTack (s : State) : State :=
  { s with
    tk := { s.tk with unsealed := false, scrambled := true, ownerRoot := [], maskDraw := s.tp.reserveDraw,
                      slots := smMap {} (fun _ x => if x.state = 2 ∨ x.state = 3 then { x with state := 5 } else if x.state = 4 then { gen := x.gen, sealEpoch := x.sealEpoch } else x) s.tk.slots,
                      blobs := smMap {} (fun _ e => { e with loaded := false, loadedAt := none }) s.tk.blobs },
    pads := smMap {} (fun _ x => { x with caps := [], curGen := none, genDue := true }) s.pads }

/-- The root bank is derived again after R436, where neither a hold nor an erasure stands. -/
def rederive (s : State) : State :=
  if s.tk.scrambled && !s.tk.hold && decide (s.tp.response ≤ 1) then
    let s1 := deriveRoots s
    { s1 with tk := { s1.tk with restoring := s1.tk.slots.any fun e => e.2.state == 5 } }
  else s

end Sys2Proof.Machine
end

