-- ==== Sys2Proof/Machine/Resets.lean ====
section
/-! DEFINITION. Resets.lean: what the warm, paddock, host-interface and function-level resets do (R76 to R80, R93, R105, R127, R128,
R443, Tables 04.1 to 04.3), as operations their commands and the escalations share. -/

namespace Sys2Proof.Machine

/-! ## What every reset but a host-interface reset ends -/

/-- The debug session ends (R116). -/
def endSession (s : State) : State := { s with dbg := { s.dbg with scope := 0, padMask := 0 } }

/-- A link test stops with an err code. What a locked checker counted up to then is known to the link alone, so it is free (R479, log
entry 3). A tether lane goes back to the state the test found it in (Table 22.1). -/
def stopTest (s : State) (n err : Nat) : State :=
  let x := smGet {} s.lk.tests n
  if !x.running then s
  else
    let bits := if x.locked then (draw s).1 else 0
    let s1 := if x.locked then (draw s).2 else s
    let errs := if x.locked then (draw s1).1 else 0
    let s2 := if x.locked then (draw s1).2 else s1
    let y := { x with running := false, locked := false, err := err, bits := (x.bits + bits) % 2 ^ 64, errs := satAdd (2 ^ 48 - 1) x.errs errs }
    let s3 := { s2 with lk := { s2.lk with tests := smSet {} s2.lk.tests n y } }
    if 16 ≤ n ∧ n < 20 then
      { s3 with tt := { s3.tt with lanes := smMod {} s3.tt.lanes (n - 16) fun (l : Lane) => { l with state := if s.plan.part.twin then 2 else 0 } } }
    else s3

/-- Every running link test stops with err 3 (R480). -/
def endTests (s : State) : State := (smKeys s.lk.tests).foldl (fun t n => stopTest t n 3) s

/-- A plan change is abandoned with an err code; nothing changes else (R91 to R93). -/
def abandonSwap (s : State) (err : Nat) : State :=
  match s.pl.swap with
  | some w => modPad { s with pl := { s.pl with swap := none, busy := false, phase := 0, err := err } } w.paddock fun x => { x with paused := false }
  | none => if s.pl.applying then { s with pl := { s.pl with applying := false, busy := false, phase := 0, err := err } } else s

/-- A transition that stops in step 8 leaves the old slot INVALID, as an erase that has not done its work: the ledger decodes as LOCKED, which is
what Table 05.4 gives (R105, R107; log entry 77). -/
def cutErase (x : LifeCycle) : SMap LedgerSlot :=
  smMap {} (fun _ (e : LedgerSlot) => if e.seq = u32 x.token 0x10 then e else { e with codeword := 2 ^ 256 - 1 }) x.slots

/-- A life-cycle transition is abandoned in steps 1 to 4; in step 8 it stops as the last column of Table 05.4 says (R105). -/
def abandonTransition (s : State) : State :=
  if s.lc.step = 0 then s
  else { s with lc := { s.lc with step := 0, busy := false, token := [], slots := if s.lc.step = 8 then cutErase s.lc else s.lc.slots } }

/-- The extend of a yardmaster measurement register (R298). -/
def extendYmr (s : State) (m : Nat) (d : Bytes) : State :=
  { s with rng := { s.rng with ymr := smSet (zeros 48) s.rng.ymr m (sha3_384 (smGet (zeros 48) s.rng.ymr m ++ d)) } }

/-! ## Replays (R190 to R193) -/

/-- Live records of a selection replay; each paddock that has some owes EV_REPLAY_DONE (R498). -/
def replayAll (s : State) (sel : Job → Bool) (useCkpt : Bool) : State :=
  let s1 := setJobs s (s.jobs.map fun j => if isLive j && !j.silent && sel j then replayJob s.time useCkpt j else j)
  { s1 with pads := (padsPresent s1).foldl (fun m p =>
      if padReplaying s1 p then smMod {} m p fun x => { x with replayOwed := true } else m) s1.pads }

/-- Entries whose records were being written and never became live are left unconsumed; what they had reserved is given back. -/
def dropWriting (s : State) : State := (s.jobs.filter fun j => !isLive j).foldl dropEntry s

/-- Draining queues end what they hold under R160 and R192. -/
def redrain (s : State) : State :=
  (queueNums s).foldl (fun t q => if (qAt t q).state = 3 ∨ (qAt t q).state = 4 then drainQueue t q else t) s

/-- A stall mucked out by a reset, unless retired; its requests and its farrier claim end (R372). -/
def resetStall (s : State) (n : Nat) : State :=
  modSt s n fun x =>
    if x.state = 5 then x
    else
      { x with state := if shedAt s (stallShed n) = 2 ∨ shedAt s (stallShed n) = 3 then 1 else 0, jobs := [], tree := none, sequ := {}, operand := [], reqFault := false,
               reqStop := false, reqClaim := false, reqYield := false, dirty := false, muckFailed := false, muckThen := 0, prefEnded := false,
               scrubDue := false, reservedFor := none, muckouts := satAdd 0xFFFF x.muckouts 1 }

/-! ## The warm reset (R78, Table 04.3) -/

/-- Registers of the queue manager, the tack room's and the other units of the sheds a warm reset covers, back at their reset values
(Table 04.1; chapter 00). -/
def warmFn (f : Fn) : Fn :=
  { resetCompare f with
    cmpSlot := 0, cmpLen := 0, cmpGo := false, cmpSpoiled := false, qcRing := 0, qcLog2 := 4, qcVector := 0, qcWake := false, qcCrcReq := false,
    qcIrqEn := true, qcShadowEn := false, qcShadowAddr := 0, cmdQueue := 0, cmdCmd := 0, cmdBusy := false, cmdLost := false, cmdResult := 0,
    statSel := 0, tkSel := 0, tkSelBlob := false, bxImgAddr := 0, hlLog := 0, hlEntry := 0, hlWord := 0, certSel := 0, certOff := 0, latch := [] }

/-- A Benxis core after a warm reset: stopped and wiped, with its loads since cold reset. -/
def warmCore (c : Core) : Core := { loads := c.loads, retired := c.retired }

/-- A paddock's run-time state after a warm reset. -/
def warmPad (x : Pad) : Pad :=
  { x with results := [], mrs := [], haltLog := [], haltOverflow := false, paused := false, extendLost := false, waitFor := none }

/-- Fatal entries whose cause no longer asserts stop holding the gate at step 5 (R443). -/
def releaseGate (s : State) : State :=
  let f := fun (_ : Nat) (o : Option OutFault) => o.map fun e => if e.cls == 2 && !e.live then { e with holdsGate := false } else e
  { s with fc := { s.fc with out := smMap none f s.fc.out } }

/-- The serial of a plan put in force stands as the last applied one of the owner epoch (Table 04.10 0x0C). -/
def noteSerial (s : State) (n : Nat) : State :=
  { s with hl := { s.hl with serials := smMod 0 s.hl.serials s.lc.epoch fun x => max x (n + 1) } }

/-- A plan takes effect: stalls are pooled and dedicated as it says, and retired ones stay so (R15, R89). -/
def applyPlan (s : State) (p : Plan) : State :=
  let s1 := setDebugKey (noteSerial { s with plan := p } p.serial) p.digest
  let s2 := (List.range 52).foldl (fun t n => modSt t n fun x =>
    if x.state = 5 then x
    else { x with inPool := hasBit p.part.poolMap n, dedicated := (List.range 32).find? fun k => hasBit (smGet {} p.pads k).stallMap n, spare := false }) s1
  -- a plan with another holdup_cap_uf discards the stored c_meas (R70)
  if s.en.cmeas.isSome && s.en.cmeasCap != p.part.capUf then { s2 with en := { s2.en with cmeas := none } } else s2

/-- A newly preferred kind is loaded: the slot chosen, or a fall back to the other slot with err 0x21 (R86, R91). A plan that R86 falls
back to is the one in force already, partial plans with it. -/
def loadKind (s : State) (k : Nat) : State :=
  match chooseCopy s (if k = 0x01 then [] else s.sys.firmware) k with
  | none => { s with pl := { s.pl with err := 0x21 } }
  | some (slot, ch, b) =>
    let s1 := if slot = preferredSlot s k then s else { s with pl := { s.pl with err := 0x21 } }
    if k = 0x01 then noteFirmware s1 slot ch b
    else if k = 0x10 then (if imgDigest b = s.plan.digest then s1 else noteLoaded (applyPlan s1 (planOf b)) k b)
    else noteLoaded s1 k b

/-- The directory's kinds that have now been booted. -/
def bootedDir (s : State) : State :=
  { s with hl := { s.hl with dir0 := { s.hl.dir0 with fresh := [] }, dir1 := { s.hl.dir1 with fresh := [] } } }

/-- The copies APPLY has made preferred are loaded, the firmware first; every other kind stays as it is, re-verified by the digest SYS holds
(R77, R86, R91, Table 04.3 step 4). -/
def loadImages (s : State) : State :=
  let fresh := (dirNow s).fresh
  bootedDir ((slotKinds.filter fresh.contains).foldl loadKind s)

/-- Floors of the kinds in use rise to floor_version, all in one record (R87, R110). -/
def raiseFloors (s : State) : State :=
  if slotKinds.all fun k => decide (loadedFloor s k ≤ floorOf s k) then s
  else writeFloors s (slotKinds.foldl (fun m k => smSet 0 m k (max (floorOf s k) (loadedFloor s k))) [])

/-- The cause bit latched for a warm reset: 0 SY_RESET, 1 fatal escalation or lockstep, 2 APPLY (Table 04.13). -/
def warmCause (s : State) (cause : Nat) : State :=
  { s with sys := { s.sys with causeWarmSw := s.sys.causeWarmSw || cause == 0, causeWarmFatal := s.sys.causeWarmFatal || cause == 1,
                               causeWarmApply := s.sys.causeWarmApply || cause == 2, causeCold := false } }

/-- Steps 1 to 3: acceptance stops, stalls and cores stop and are mucked out and wiped, sessions and tests end. -/
def warmStop (s : State) (cause : Nat) : State :=
  let s1 := warmCause (dropWriting { s with jn := { s.jn with opened := false } }) cause
  let s2 := abandonTransition (if cause = 2 then { s1 with pl := { s1.pl with applying := false, busy := false, phase := 0 } } else abandonSwap s1 0x20)
  let s3 := clearAllDigests (endTests (endSession (endRaw s2)))
  let s4 := (List.range 52).foldl resetStall s3
  let s5 := (List.range 16).foldl stopCore s4
  { s5 with
    cores := smMap {} (fun _ c => warmCore c) s5.cores, pads := smMap {} (fun _ x => warmPad x) s5.pads, feeds := [],
    fns := smMap {} (fun _ f => warmFn f) s5.fns, queues := smMap {} (fun _ x => dropCopies x) s5.queues, scans := [],
    fc := { s5.fc with claimed := none, testing := false, ahead := [] }, pl := { s5.pl with imgAddr := 0, imgLen := 0 },
    lc := { s5.lc with tokenAddr := 0, tokenLen := 0 }, lk := { s5.lk with sel := 0, selTarget := 0, tests := [] },
    rng := { s5.rng with ymr := [], cmdErr := 0 } }

/-- The gate may open: no boundary instruction holds it closed (R484) and no transition waits for its cold reset (R104). -/
def gateMayOpen (s : State) : Bool := !s.sys.boundary && !s.lc.resetRequired

/-- Every live record replays after a warm reset (R190). -/
def warmReplay (s : State) : State := redrain ([1, 2, 3, 4].foldl sweepKind (replayAll s (fun _ => true) true))

/-- Step 5 of a warm reset: the gate opens; with new images in force their floors are raised and invalid copies rewritten (R86, R87). -/
def warmOpen (s : State) : State :=
  let s1 := replaysDone (releaseGate { s with jn := { s.jn with opened := gateMayOpen s } })
  runBells (if s1.jn.opened then mirrorCopies (raiseFloors s1) else s1)

/-- An APPLY gives the queues taken over back to their home side, where the partner runs again (R200). -/
def returnQueues (s : State) : State :=
  if s.jn.role ≠ 1 then s
  else { s with queues := smMap {} (fun q (x : Queue) => if x.takenOver then { x with takenOver := false, standby := standbyHere s q } else x) s.queues }

/-- Steps 4 and 5: images re-verified, registers re-extended, DRBGs reseeded, every live record staged to replay, and the gate opens; after an APPLY whose plan's bank does not
cover the worst flush it stays closed until a recheck passes (R72, R83). A stopped source runs its start-up tests again (R320). -/
def warmRestart (s : State) (cause : Nat) : State :=
  let s1 := if cause = 2 then returnQueues (loadImages s) else s
  let s2 := extendYmr s1 0 (smGet {} s1.sys.loaded 0x01).digest
  let s3 := if s2.rng.stopped then causeEnds { s2 with rng := { s2.rng with stopped := false, ready := false, attempts := 0, restarting := false } } 0x0D0 0x17 else reseedWarm s2
  let s4 := warmReplay s3
  if cause = 2 ∧ s4.plan.loaded = true ∧ bankSuffices s4 = false then raisePart { s4 with sys := { s4.sys with wait := .reserve } } 1
  else warmOpen s4

/-- A warm reset; during cold boot it is held until the gate opens, and of several held triggers the first gives the cause that is latched
(R78; DESIGN CHOICE, log 104). A part in a boot stop, in deep sleep or in a flush does not take it. -/
def warmReset (s : State) (cause : Nat) : State :=
  if s.sys.bootState = 1 then
    (if s.sys.deepSleep || s.en.flushActive then s else warmRestart (warmStop s cause) cause)
  else if s.sys.bootState = 0 ∧ 10 ≤ s.sys.stage + 1 ∧ s.sys.porstN = true then
    { s with sys := { s.sys with heldWarm := some (s.sys.heldWarm.getD cause) } }
  else s

/-! ## The paddock reset (R79) -/

/-- A stall that last ran a job of the paddock is mucked out. -/
def muckPadStall (p : Nat) (s : State) (n : Nat) : State :=
  let x := stAt s n
  if x.lastPaddock = p ∧ (x.runs ≠ 0 ∨ x.tree ≠ none) ∧ (x.state = 1 ∨ x.state = 2) then leaveStall s n else s

/-- The reseed of a paddock reset: until it comes, the paddock's replays wait (R79). -/
def reseedReset (s : State) (p : Nat) : State := reseedPad (modPad s p fun x => { x with resetSeed := true }) p

/-- The live records of the paddock replay; before the gate has opened there is nothing to replay yet (R79, R81). -/
def replayPad (s : State) (p : Nat) : State := if s.sys.bootState = 1 then replayAll s (fun j => j.paddock == p) true else s

/-- The swap of this paddock is abandoned before the reset proceeds (R93), and the debug session ends (R116). -/
def beforeReset (s : State) (p : Nat) : State :=
  let s1 := abandonTransition (endSession s)
  match s1.pl.swap with
  | some w => if w.paddock = p then abandonSwap s1 0x20 else s1
  | none => s1

/-- EV_HBS_LOW is raised again for each of a paddock's stateful keys whose condition still holds (R249). -/
def lowAgain (s : State) (p : Nat) : State :=
  ((smKeys s.tk.hbs).filter fun n => (hbsAt s n).paddock == p).foldl (fun t n => lowLeaves (modHbs t n fun x => { x with lowRaised := false }) n) s

/-- A paddock reset (R79): cores stopped and wiped, stalls mucked out, DRBG reseeded, measurement registers cleared, records replayed. The
end of a paused swap is an event for the deferred heads (R170). -/
def paddockReset (s : State) (p : Nat) : State :=
  if p = 0 ∨ 32 ≤ p ∨ padPresent s p = false then s
  else
    let s2 := beforeReset { s with sys := { s.sys with paddockResets := setBit s.sys.paddockResets p } } p
    let s3 := (coresOfPad s2 p).foldl (fun t n => wipeCore (stopCore t n) n) s2
    let s4 := (List.range 52).foldl (muckPadStall p) (replayPad s3 p)
    let mucked := (List.range 52).filter fun n => (stAt s4 n).lastPaddock == p && (stAt s4 n).state == 3
    let s5 := clearDigests (modPad s4 p fun x => { x with mrs := [], genDue := true, extendLost := false, waitFor := none, resetStalls := mucked }) p
    let s6 := drawGen (reseedReset s5 p) p
    recheck (replaysDone (redrain ([1, 2, 3, 4].foldl sweepKind (lowAgain s6 p)))) [2]

/-! ## Function and host-interface resets (R80, R127, R128) -/

/-- A function's configuration space, MSI-X table, HI_ registers and compare unit reset. -/
def resetFnHif (f : Fn) : Fn :=
  { resetCompare f with
    cfg := {}, bme := false, dState := 0, msixEn := false, fnMask := false, pmeEn := false, pmeStatus := false, pmeAtCold := false, relaxed := true,
    idOrder := false, denied := 0, errTimeout := false, errUrCa := false, errPoisoned := false, errQueue := 0, errJob := false, vecs := [], evMap := [] }

/-- One function reset, its queues HELD; as it may issue nothing any more, their shadows are owed (R126, R144). -/
def resetFn (s : State) (n : Nat) : State := holdFnQueues (modFn s n resetFnHif) n

/-- The VFs that disappear are reset (R128). -/
def dropVfs (s : State) (keep : Nat) : State :=
  ((List.range 65).filter fun n => keep < n && (fnAt s n).present).foldl (fun t n => modFn (resetFn t n) n fun f => { f with present := false }) s

/-- The port's configuration fields, all in the PF's configuration space, reset. -/
def resetPort (x : Port) : Port :=
  { linkUp := x.linkUp, linkState := x.linkState, ltrUs := x.ltrUs, ltrLive := x.ltrLive, ltrQueue := x.ltrQueue, doorbells := x.doorbells }

/-- FLR of a function; the PF's also clears VF Enable (R127). -/
def functionReset (s : State) (n : Nat) : State :=
  if n = 0 then
    let s1 := dropVfs s 0
    resetFn { s1 with port := resetPort s1.port } 0
  else resetFn s n

/-- One function in a host-interface reset; under PERST_N it keeps what a wake from D3cold goes by (R136, Table 06.4; log entry 18). -/
def hostResetFn (perst : Bool) (f : Fn) : Fn :=
  let g := resetFnHif f
  if perst then
    { g with pmeAtCold := f.pmeEn || f.pmeAtCold, evMap := f.evMap,
             vecs := smMap {} (fun _ (v : Vec) => { cntMax := v.cntMax, timeUs := v.timeUs, wakeCount := v.wakeCount, wakeTimer := v.wakeTimer,
                                                    timerFrom := if v.wakeTimer then v.timerFrom else 0, wakeEvent := v.wakeEvent }) f.vecs }
  else g

/-- The link trains once PERST_N is high, from step 6 of Table 04.4 or in a boot stop (R82). -/
def linkTrains (s : State) : Bool := s.sys.perstN && s.sys.refclk && s.sys.porstN && (decide (6 ≤ s.sys.stage) || decide (2 ≤ s.sys.bootState))

/-- Lanes of the PCIe port in use: from 0 upward, or, reversed, from 15 downward; none while the link is down (R35). -/
def lanesInUse (s : State) : List Nat :=
  if !s.port.linkUp then [] else (List.range s.sys.linkWidth).map fun i => if s.sys.linkReversed then 15 - i else i

/-- The HIF shed and the PCIe state of every function reset; every enabled queue becomes HELD, and no function may issue its shadow (R80, R144).
In D3cold the shed is off (Table 03.2). -/
def hostReset (s : State) (perst : Bool) : State :=
  let s0 := endTests s
  let s1 := { s0 with fns := smMap {} (fun n x => { hostResetFn perst x with present := x.present && n == 0 }) s0.fns,
                      port := { doorbells := s0.port.doorbells } }
  let s2 := (queueNums s1).foldl holdQueue s1
  let s3 := if hifOff s2 then setShed s2 21 0 else s2
  updateLtr { s3 with sys := { s3.sys with causeHif := true }, port := { s3.port with linkUp := linkTrains s3 } }

end Sys2Proof.Machine
end

