-- ==== Sys2Proof/Machine/Flush.lean ====
section
/-! DEFINITION. Flush.lean: the flush of a power failure or a shutdown (R70, R183 to R187, R467, Table 08.4): what stops, what is written, in
clear and sealed, and the capacitance measured over it. -/

namespace Sys2Proof.Machine

/-! ## What stops (steps 1 to 3) -/

/-- The sum of all meters, nJ (R70). -/
def meterSum (s : State) : Nat := ((List.range 24).map fun i => smGet 0 s.en.meter i).sum

/-- Steps 2 and 3 of Table 08.4: the records being written become live, stalls, cores and the sheds named stop. Writes not yet issued are
abandoned: their records stay live. -/
def stopAll (s : State) (off : List Nat) : State :=
  let s1 := (s.jobs.filter fun j => !isLive j).foldl (fun t j => becomeLive (if j.sent then t else assign t j.queue) j.queue) s
  let s2 := { s1 with jn := { s1.jn with opened := false, flushFrom := s1.time } }
  let s3 := setJobs s2 (s2.jobs.map fun j => if isLive j && j.phase == .running then { j with phase := .staged, stall := none } else j)
  let s4 := (List.range 16).foldl stopCore s3
  { s4 with
    stalls := smMap {} (fun _ (x : Stall) => if x.state = 5 then x else { x with state := 0, jobs := [], tree := none, sequ := {}, operand := [], reqFault := false, reqStop := false, reqClaim := false, reqYield := false }) s4.stalls
    en := { s4.en with shed := off.foldl (fun m i => smSet 0 m i 0) s4.en.shed } }

/-- Sheds of stalls and Benxis cores, and YRD (step 3). -/
def workSheds : List Nat := List.range 18 ++ [20]

/-- Steps 1 to 3 of Table 08.4: energy checks stop, the banks are frozen, stalls, cores and sheds stop, the link with them; the bank and the
meters are noted for R70. -/
def startFlush (s : State) : State :=
  let s1 := stopAll s (workSheds ++ [21])
  let s2 := endTests (endSession { s1 with en := { s1.en with flushActive := true } })
  { s2 with en := { s2.en with flushNj := meterSum s2, flushConv := minConv s2 }, port := { s2.port with linkUp := false } }

/-! ## What is written (steps 4 to 6) -/

/-- A cursor of a queue as a flush writes it: configuration, indices, states, halt latch and generation (Table 08.4, R180). -/
def cursorBytes (q : Nat) (x : Queue) : Bytes :=
  leBytes 2 q ++ leBytes 8 x.base ++ leBytes 1 x.k ++ leBytes 2 x.vector ++
  leBytes 1 (b1 x.wake + 2 * b1 x.crcReq + 4 * b1 x.irqEn + 8 * b1 x.shadowEn + 16 * b1 x.bx) ++ leBytes 8 x.shadowAddr ++ leBytes 1 x.fn ++
  leBytes 4 x.p ++ leBytes 4 x.a ++ leBytes 4 x.t ++ leBytes 2 x.gen ++ leBytes 1 x.state ++ leBytes 1 x.remembered ++ leBytes 1 x.errReason ++
  leBytes 1 x.errDetail ++ leBytes 4 x.errIndex

/-- The additional data of the seal: SHA3-384 of the records, cursors and reservations of the flush (R184). -/
def flushAad (f : FlushImage) : Bytes :=
  sha3_384 ((f.jobs.flatMap recordBytes) ++ (f.mirror.flatMap recordBytes) ++ (f.queues.flatMap fun e => cursorBytes e.1 e.2) ++
    (f.reserved.flatMap fun e => leBytes 2 e.1 ++ leBytes 8 e.2))

/-- One capture slot as the sealed tables hold it: 46 bytes. Bit 6 of the first marks the partner's. -/
def capEntry (p g : Nat) (c : CapSlot) : Bytes :=
  leBytes 1 p ++ leBytes 1 g ++ padTo 32 c.key ++ leBytes 4 c.served ++ leBytes 8 c.drawnAt

/-- The capture tables in the banks: the paddocks' own, then the partner's (R173, R196). -/
def capBytes (s : State) : Bytes :=
  (s.pads.flatMap fun e => (e.2.caps.filter fun c => c.2.drawn).flatMap fun c => capEntry e.1 c.1 c.2) ++
  (s.tt.mirrorCaps.flatMap fun e => capEntry (64 + e.1 / 16) (e.1 % 16) { drawn := true, key := e.2 })

/-- What a flush writes (R184, R189, steps 5 and 6 of Table 08.4), its capture tables sealed under the journal seal key. -/
def flushImage (s : State) (c0 c1 : Bool) (nonce : Bytes) : FlushImage :=
  let f : FlushImage :=
    { present := true, commit0 := c0, commit1 := c1, consumed := false, seq := s.jn.seq, jobs := liveJobs s, queues := s.queues,
      reserved := (s.tk.hbs.filter fun e => e.2.present).map fun e => (e.1, e.2.nNext),
      snaps := (s.pads.filter fun e => !e.2.snaps.isEmpty).map fun e => (e.1, e.2.snaps), nonce := nonce, term := s.jn.term,
      mirror := s.tt.mirror, mirrorA := s.tt.mirrorA, nextSeq := s.jn.nextSeq, time := s.time }
  { f with sealedCaps := gcmSeal s.tk.jseal nonce (flushAad f) (capBytes s) }

/-- Step 6: the commit block stands on the channels named; the flush is complete when it stands on one (R186). -/
def commitFlush (s0 : State) (c0 c1 : Bool) : State :=
  let d := drawBytes s0 12
  let s := d.2
  { s with
    hl := if c0 || c1 then { s.hl with flush := flushImage s c0 c1 d.1 } else s.hl
    jn := { s.jn with flushSeq := s.jn.flushSeq + 1, flushRecords := if c0 || c1 then nLive s else s.jn.flushRecords,
                      flushUs := ((s.time - s.jn.flushFrom) / 1000) % 2 ^ 24, flushResult := if c0 && c1 then 1 else if c0 || c1 then 2 else 3 } }

/-! ## What a restored flush gives back (R188) -/

/-- The capture slots in the bytes of opened tables. -/
def readCaps (s : State) : Nat → Bytes → State
  | 0, _ => s
  | fuel + 1, b =>
    if b.length < 46 then s
    else
      let p := u8 b 0
      let c : CapSlot := { drawn := true, key := slice b 2 32, served := u32 b 0x22, drawnAt := u64 b 0x26 }
      let s1 :=
        if p < 64 then modPad s p fun x => { x with caps := smSet {} x.caps (u8 b 1) c }
        else { s with tt := { s.tt with mirrorCaps := smSet [] s.tt.mirrorCaps ((p - 64) * 16 + u8 b 1) c.key } }
      readCaps s1 fuel (b.drop 46)

/-- The capture tables of the restored flush, opened under the journal seal key; none where the GCM tag fails (R184, R188). -/
def openCaps (s : State) : Option State :=
  let f := s.hl.flush
  (gcmOpen s.tk.jseal f.nonce (flushAad f) f.sealedCaps).map fun b => readCaps s b.length b

/-! ## The capacitance measured (R70) -/

/-- E_flush in nJ: the sum of all meters over the flush (R70). -/
def flushEnergy (s : State) : Nat := meterSum s - s.en.flushNj

/-- The bank fell by 500 mV or more over the flush (R70). -/
def bankFell (s : State) : Bool :=
  decide (500 * s.plan.part.divPpm ≤ (s.en.flushConv - minConv s) * 250000) && s.plan.part.effPct != 0 && s.plan.part.divPpm != 0

/-- c_meas × 10^4 in µF = 2 × E_flush ÷ (η × (v_start² − v_end²)), the voltages those of R68 (R70). -/
def measuredCap (s : State) : Nat :=
  2 * 10 ^ 9 * flushEnergy s * s.plan.part.divPpm ^ 2 / (s.plan.part.effPct * (s.en.flushConv ^ 2 - minConv s ^ 2) * 250000 ^ 2)

/-- c_meas is stored in the hayloft, with the plan's holdup_cap_uf beside it, when the bank fell far enough (R70). -/
def storeCap (s : State) : State :=
  if bankFell s then { s with en := { s.en with cmeas := some (measuredCap s), cmeasCap := s.plan.part.capUf } } else s

end Sys2Proof.Machine
end

