-- ==== Sys2Proof/Machine/Plans.lean ====
section
/-! DEFINITION. Plans.lean: partial plans (R89, R90, R92, Table 04.11): what an image holds, what makes the yardmaster refuse it, when
its drain is over, and the switch. -/

namespace Sys2Proof.Machine

/-- A record of zeros beyond the paddock number removes the paddock (log entry 19). -/
def removalRecord (r : Bytes) : Bool := allZero (r.drop 1)

/-- The partial plan an image holds. -/
def partialOf (b : Bytes) : PartialPlan :=
  let r := (secOf b 2).2
  { paddock := u8 b 0x024, record := if removalRecord r then {} else padOfBytes r,
    sheds := match (secsOf b 3).head? with
      | some x => (Config.partialSheds x.2).map fun e => (e.1, { policy := e.2.1, idleUs := e.2.2 })
      | none => [],
    containedUs := ((secsOf b 4).head?).map fun x => u32 x.2 0, serial := imgSerial b, digest := imgDigest b,
    removes := removalRecord r, image := b }

/-- A partial plan's section counts (R89). -/
def partialCountsBad (b : Bytes) : Bool :=
  let n := fun t => (secsOf b t).length
  !(n 2 == 1 && decide (n 3 ≤ 1) && decide (n 4 ≤ 1)) || (sectionsOf b).any (fun x => !(x.kind ∈ [2, 3, 4])) ||
  (secsOf b 2).any (fun r => r.2.length != 256 || u8 r.2 0 != u8 b 0x024)

/-- The paddock records of the plan with one replaced. -/
def mergedPads (s : State) (w : PartialPlan) : List PadRec :=
  (List.range 32).map fun p => if p = w.paddock then w.record else padRec s p

/-- Records of the other paddocks. -/
def otherPads (s : State) (p : Nat) : List PadRec := ((padsPresent s).filter (· != p)).map (padRec s)

/-- A shed only this paddock uses (Table 04.11): no stall of it is pooled or dedicated to another, no core of it is another's. -/
def shedOwn (s : State) (w : PartialPlan) (i : Nat) : Bool :=
  if i < 14 then (shedStalls i).all fun n => !(stAt s n).inPool && ((stAt s n).dedicated.isNone || (stAt s n).dedicated == some w.paddock)
  else if i < 18 then (otherPads s w.paddock).all fun x => ((List.range 4).all fun k => !hasBit x.coreMap (4 * (i - 14) + k))
  else false

/-- Queues the change takes from the paddock, and those signalling on a VF it takes, that are still enabled (Table 04.11). -/
def queueConflict (s : State) (w : PartialPlan) : Bool :=
  (queueNums s).any fun q =>
    let x := qAt s q
    let kept := decide (w.record.queueBase ≤ q) && decide (q < w.record.queueBase + w.record.queueCount)
    let vfGone := x.fn != 0 && hasBit (padRec s w.paddock).vfMap (x.fn - 1) && !hasBit w.record.vfMap (x.fn - 1)
    padOfQueue s q == some w.paddock && x.state != 0 && (!kept || vfGone)

/-- Slots the change takes from the paddock that are not EMPTY. -/
def slotConflict (s : State) (w : PartialPlan) : Bool :=
  (smKeys s.tk.slots).any fun n =>
    padOfSlot s n == some w.paddock && (slotAt s n).state != 0 && !w.removes &&
    !(decide (w.record.tkBase ≤ n) && decide (n < w.record.tkBase + w.record.tkCount))

/-- Cores the change takes from the paddock that are not stopped. -/
def coreConflict (s : State) (w : PartialPlan) : Bool :=
  (coresOfPad s w.paddock).any fun n => !hasBit w.record.coreMap n && (coreAt s n).state != 0

/-- Offset within the record of the first conflict with the loaded plan (err 0x0E). -/
def partialConflict (s : State) (w : PartialPlan) : Option Nat :=
  let added := fun (n : Nat) => hasBit w.record.stallMap n && (stAt s n).dedicated != some w.paddock
  firstBad [
    (w.removes && (w.paddock == 0 || !padPresent s w.paddock || (s.jobs.any fun j => j.paddock == w.paddock)), 0),
    ((otherPads s w.paddock).any (fun x => (sharedField x w.record).isSome), ((otherPads s w.paddock).findSome? fun x => sharedField x w.record).getD 0),
    ((List.range 52).any (fun n => added n && ((stAt s n).dedicated.isSome || (stAt s n).inPool)), 0x08),
    (coreConflict s w, 0x10), (slotConflict s w, 0x1A),
    (queueConflict s w, 0x20), (w.sheds.any (fun e => !shedOwn s w e.1), 0)]

/-- Conditions 0x04 to 0x10 over a partial plan; a removal has no record to judge. What it shares with another paddock is a conflict with the
loaded plan, 0x0E (DEDUCED, log 105). -/
def partialFaults (s : State) (b : Bytes) (w : PartialPlan) (o : Nat) (sheds : SMap ShedPol) : List (Option (Nat × Nat)) :=
  let record (f : Bytes → Option Nat) : Option Nat := if w.removes then none else padCheck b f
  [errAt 0x04 (record fun r => rangeField (padOfBytes r)),
    errIf 0x04 (decide (512 < ((mergedPads s w).map (·.cacheUnits)).sum)) (o + 0x18),
    errIf 0x05 (decide (256 < ((mergedPads s w).map (·.energyShare)).sum)) (o + 2),
    errIf 0x06 (decide (126976 < ((mergedPads s w).map (·.yardCells)).sum)) (o + 0x14),
    errAt 0x07 (record fun r => if (permitted (padOfBytes r)).any (floorMissed (padOfBytes r)) then some 0x30 else none),
    errAt 0x08 (record fun r =>
      if (permitted (padOfBytes r)).any (unreachableAlg s.plan.part.poolMap sheds (padOfBytes r)) then some 0x30 else none),
    errIf 0x0A (dependencyGone s) (secOf b 2).1, errIf 0x0C (serialUsed s w.serial) 0x010, errAt 0x0E ((partialConflict s w).map (o + ·)),
    errAt 0x0F (record reservedField), errIf 0x10 (partialCountsBad b) 0x026, errAt 0x10 (record rangedField),
    errIf 0x10 (w.sheds.any fun e => decide (2 < e.2.policy) || decide (e.2.idleUs < 10) || decide (1000000 < e.2.idleUs)) (secOf b 3).1,
    errIf 0x10 (w.containedUs.any fun u => decide (1000000 < u)) (secOf b 4).1]

/-- The first condition of Table 04.10 that a partial plan meets, with its byte offset (R90). -/
def partialFault (s : State) (b : Bytes) : Option (Nat × Nat) :=
  let w := partialOf b
  let o := (secOf b 2).1
  let sheds := w.sheds.foldl (fun m e => smSet {} m e.1 e.2) s.plan.sheds
  (errAt 0x01 ((copyFault s b).or (if imgKind b = 0x11 then none else some 0x006))).or
  ((partialFaults s b w o sheds).findSome? id)

/-- The new values of a partial plan in force: its record, its sheds' policies, its timer, its stalls (R92, Table 04.11). -/
def installPartial (s : State) (w : PartialPlan) : State :=
  let pads := smSet {} s.plan.pads w.paddock w.record
  let sheds := w.sheds.foldl (fun m e => smSet {} m e.1 e.2) s.plan.sheds
  let moved := (List.range 16).filter fun n => hasBit (padRec s w.paddock).coreMap n != hasBit w.record.coreMap n
  let s1 := moved.foldl passCore { s with plan := { s.plan with pads := pads, sheds := sheds } }
  let s2 := match w.containedUs with
    | some u => modPad s1 w.paddock fun x => { x with containedUs := some u }
    | none => s1
  (List.range 52).foldl (fun t n => modSt t n fun x =>
    if x.state = 5 then x
    else if hasBit w.record.stallMap n then { x with dedicated := some w.paddock }
    else if x.dedicated = some w.paddock then { x with dedicated := none, spare := false, reservedFor := none }
    else x) s2

/-- The drain of a partial plan is over: no removed stall runs or is being mucked out, and what is pinned fits the new partition. -/
def partialDrained (s : State) (w : PartialPlan) : Bool :=
  ((List.range 52).all fun n => !swapRemoves s n || (stAt s n).state == 0 || (stAt s n).state == 1 || (stAt s n).state == 5) &&
  decide ((((cacheKeys s w.paddock).filter (cachePinned s)).map fun k => (cacheAt s k).size).sum ≤ partBytes s w.paddock w.record.cacheUnits)

/-- Entries beyond a reduced partition are evicted (Table 04.11). -/
def shrinkCache (s : State) (w : PartialPlan) : State :=
  let s1 := evictFor s w.paddock 0 (partBytes s w.paddock w.record.cacheUnits) (s.cache.length + 1)
  ((cacheKeys s1 w.paddock).filter fun k => (cacheAt s1 k).sticky && !cachePinned s1 k).foldl
    (fun t k => if cacheUsed t w.paddock ≤ partBytes t w.paddock w.record.cacheUnits then t else removeCache t k) s1

/-- An entry of the audit log, a ring of 4 MiB of 32-byte entries (R470). -/
def auditAdd (s : State) (event value : Nat) : State :=
  let l := s.hl.auditLog ++ [(s.time, event, value)]
  { s with hl := { s.hl with auditLog := l.drop (l.length - 131072) } }

/-- What goes with a removed paddock: its slots are erased, its stalls mucked out, its meter cleared. -/
def removePaddock (s : State) (p : Nat) : State :=
  let s1 := ((smKeys s.tk.slots).filter fun n => padOfSlot s n == some p && (slotAt s n).state != 0).foldl eraseSlot s
  let s2 := ((List.range 52).filter fun n => (stAt s1 n).dedicated == some p && (stAt s1 n).state == 1).foldl leaveStall s1
  let s3 := ((smKeys s2.tk.blobs).filter fun b => (blobAt s2 b).present && (blobAt s2 b).paddock == p).foldl removeBlob s2
  let s4 := (cacheKeys s3 p).foldl removeCache s3
  { modPad s4 p (fun x => { inc := x.inc, caps := x.caps }) with en := { s4.en with padEnergy := smSet 0 s4.en.padEnergy p 0 } }

/-- A created paddock: a new incarnation, its meter at 0, its instance and a capture generation to be drawn (R175, R328). -/
def createPaddock (s : State) (p : Nat) : State :=
  let s1 := reseedPad (modPad s p fun x => { x with inc := (x.inc + 1) % 2 ^ 32, genDue := true }) p
  { s1 with en := { s1.en with padEnergy := smSet 0 s1.en.padEnergy p 0 } }

/-- Digest of the paddock record of a partial image (R92). -/
def recordDigest (w : PartialPlan) : Bytes := sha3_384 (secOf w.image 2).2

/-- The switch: one journal write, which records the new record's digest and after which the new values stand (R92). -/
def switchPartial (s : State) (w : PartialPlan) : State :=
  let made := !padPresent s w.paddock && !w.removes
  let s1 := if w.removes then removePaddock s w.paddock else shrinkCache s w
  let s2 := installPartial s1 w
  let s3 := if made then drawGen (createPaddock s2 w.paddock) w.paddock else s2
  let s4 := modPad (noteSerial { s3 with
      pl := { s3.pl with swap := none, busy := false, phase := 0 }, jn := { s3.jn with recDigests := smSet [] s3.jn.recDigests w.paddock (recordDigest w) },
      hl := { s3.hl with partials := smSet [] s3.hl.partials w.paddock w.image, swapImage := none } } w.serial)
    w.paddock fun x => { x with paused := false }
  let s5 := raisePad (auditAdd (journalWrite s4) 5 w.paddock) 17 w.paddock
  let kinds := ([1, 2, 3, 4] : List Nat)
  recheck (kinds.foldl sweepKind s5) [2]

/-- At cold boot, the latest partial plan of each paddock that is newer than the full plan and still valid; one whose switch had not come is
not among them (R92; log entry 19). -/
def bootPartials (s : State) : State :=
  (smKeys s.hl.partials).foldl (fun t p =>
    let b := smGet [] t.hl.partials p
    if t.plan.serial < imgSerial b ∧ (copyFault t b).isNone = true then installPartial t (partialOf b) else t) s

end Sys2Proof.Machine
end

