-- ==== Sys2Proof/Machine/Boot.lean ====
section
/-! DEFINITION. Boot.lean: cold reset and cold boot (R76, R77, R81 to R87, R94, R95, R106 to R108, R188, R189, R430, R435, R460, R476,
Tables 04.2, 04.4, 04.5). -/

namespace Sys2Proof.Machine

/-! ## The ledger (R106 to R108) -/

/-- Row index of a state's codeword (Table 05.7). -/
def codewordRow (st : Nat) : Nat := ([0x35, 0x5A, 0x6C, 0x93, 0xA6, 0xC9] : List Nat).getD st 0

/-- The 256-bit codeword of a state: bit j is 1 when r AND j holds an even number of ones (R107). -/
def codewordOf (st : Nat) : Nat :=
  ((List.range 256).map fun j => if countBits (codewordRow st &&& j) 8 % 2 = 0 then 2 ^ j else 0).sum

/-- Bytes 0x00 to 0x6F of a slot record (Table 05.6). -/
def slotBytes (x : LedgerSlot) : Bytes :=
  leBytes 4 x.seq ++ leBytes 4 x.epoch ++ leBytes 1 x.state ++ x.reserved ++ x.ownerDigest ++ x.tokenDigest

/-- R108: 0 ERASED, 1 VALID, 2 INVALID. -/
def slotClass (x : LedgerSlot) : Nat :=
  if x = {} then 0
  else if x.state ≤ 5 ∧ x.codeword = codewordOf x.state ∧ x.crc = crc32c (slotBytes x) then 1 else 2

def ledgerSlot (s : State) (i : Nat) : LedgerSlot := smGet {} s.lc.slots i
/-- The sector of a slot is erased: every bit is 1 (R106). -/
def eraseSector (s : State) (i : Nat) : State := { s with lc := { s.lc with slots := smDel s.lc.slots i } }

/-- Bytes programmed over others: programming only clears bits (R106). -/
def clearBytes (old new : Bytes) : Bytes := List.zipWith (· &&& ·) old new

/-- A slot record programmed into its sector, then its codeword (R106, Table 05.4). -/
def programSlot (s : State) (i : Nat) (x : LedgerSlot) : State :=
  let o := ledgerSlot s i
  let y : LedgerSlot :=
    { seq := o.seq &&& x.seq, epoch := o.epoch &&& x.epoch, state := o.state &&& x.state, ownerDigest := clearBytes o.ownerDigest x.ownerDigest,
      tokenDigest := clearBytes o.tokenDigest x.tokenDigest, crc := o.crc &&& x.crc, reserved := clearBytes o.reserved x.reserved,
      reserved2 := clearBytes o.reserved2 x.reserved2, codeword := o.codeword &&& x.codeword }
  { s with lc := { s.lc with slots := smSet {} s.lc.slots i y } }

/-- Slots of a class. -/
def slotsOf (s : State) (cls : Nat) : List Nat := (List.range 8).filter fun i => slotClass (ledgerSlot s i) == cls

/-- Step 4 of Table 04.4: the life-cycle state the ledger decodes as (R108). -/
def decodeLedger (s : State) : State :=
  match slotsOf s 1, slotsOf s 2 with
  | [i], [] =>
    let x := ledgerSlot s i
    { s with lc := { s.lc with decoded := true, state := x.state, epoch := x.epoch, ownerDigest := x.ownerDigest, seq := x.seq } }
  | [], [] => { s with lc := { s.lc with decoded := true, state := 5, epoch := 0, ownerDigest := [], seq := 0 } }
  | _, _ => { s with lc := { s.lc with decoded := true, state := 7, epoch := 0, ownerDigest := [], seq := 0 } }

/-! ## Alarms (R433 to R435) -/

/-- A trip latches the alarm with a response, which never weakens; it is counted and logged, and the first raises EV_TAMPER (R434). -/
def latchAlarm (s : State) (bit resp : Nat) : State :=
  let s1 := if s.tp.latched then s else raisePart s 4
  auditAdd { s1 with tp := { s1.tp with latched := true, response := max s.tp.response resp, alarm := setBit s1.tp.alarm bit,
                                        count := satAdd 0xFFFFFFFF s1.tp.count 1 } } 3 bit

/-- A boot stop (Table 04.5). The sheds and the link complete their steps (R82). -/
def bootStop (s : State) (st reason : Nat) : State :=
  let s1 := { s with sys := { s.sys with bootState := st, reason := reason, wait := .done } }
  { s1 with port := { s1.port with linkUp := linkTrains s1 } }

/-- A trip before step 14 completes (R433, R435): TAMPER_HOLD, but log only in LOCKED and SCRAP. A part stopped for another reason
stays where it stopped (R83). -/
def bootTamper (s : State) (bit : Nat) : State :=
  if s.sys.bootState = 3 ∨ s.sys.bootState = 5 then latchAlarm s bit 0
  else if s.sys.bootState = 4 then latchAlarm s bit 1
  else bootStop { latchAlarm s bit 1 with tp := { (latchAlarm s bit 1).tp with tamperHold := true } } 2 0

/-! ## Cold reset (R76, R77, Table 04.2) -/

/-- Pins, clocks and time values that a cold reset leaves. -/
def coldSys (x : Sys) (vddm : Bool) : Sys :=
  { linkWidth := x.linkWidth, linkReversed := x.linkReversed, porstN := x.porstN, perstN := x.perstN, powerFailN := x.powerFailN, xtal := x.xtal, pllLocked := x.pllLocked, refclk := x.refclk,
    timeJournal := if vddm then x.timeJournal else 0, timeHayloft := x.timeHayloft }

/-- What the journal block keeps. -/
def coldJournal (x : Journal) (vddm : Bool) : Journal :=
  { term := if vddm then x.term else 0, nextSeq := if vddm then x.nextSeq else 0, seq := if vddm then x.seq else 0,
    flushRecords := x.flushRecords, flushUs := x.flushUs, flushResult := x.flushResult, flushSeq := x.flushSeq, held := vddm && x.held,
    recDigests := x.recDigests }

/-- A queue in the journal's cursors: an enabled one comes back HELD (R162). -/
def coldQueue (x : Queue) : Queue :=
  if x.state = 0 then x
  else { dropCopies x with state := 5, remembered := if x.state = 5 then x.remembered else x.state, heldBell := none, shadowOwed := false,
                           deferOrder := 0, recheck := false }

/-- What stays of a paddock. -/
def coldPad (vddm : Bool) (x : Pad) : Pad :=
  { caps := if vddm then x.caps else [], snaps := if vddm then x.snaps else [], inc := x.inc, diags := x.diags.filter (·.flushed),
    cacheLost := x.cacheLost }

/-- A cache entry where VDDM lapsed: a sticky one in the hayloft is restored later, any other is lost (R260). -/
def lapseEntry (e : CacheEntry) : CacheEntry :=
  if e.present && e.sticky && e.stored && !e.evicted then { e with complete := false, restoring := true, lastUse := 0 }
  else { gen := (e.gen + b1 e.present) % 2 ^ 23 }

/-- A live record as the banks hold it. -/
def coldJob (j : Job) : Job := if j.silent then j else { j with phase := if j.fixed = 0 then .staged else .finished, stall := none, heldCpl := false }

/-- A hayloft as power-off leaves it: content kept, volatile status gone. -/
def coldHayloft (x : Hayloft) : Hayloft :=
  { x with geo := {}, targets := smMap {} (fun _ (t : Target) => { badBlocks := t.badBlocks, spares := t.spares, maxErase := t.maxErase }) x.targets,
           failed0 := false, failed1 := false, ready := false, rebuilding := false, spaceLow := false, flushReady := false,
           wpReleased := false, cmdErr := 0, singleCopy := 0, nf0 := {}, nf1 := {}, certsNew := none,
           objs := smMap {} (fun _ (o : Obj) => { o with writing := none, ok0 := false, ok1 := false }) x.objs }

/-- Everything at its reset value but what Table 04.2 and the memories that outlive a reset keep. A part that goes into reset sends nothing. -/
def coldClear (s0 : State) (vddm : Bool) : State :=
  let s := dropWriting s0
  fitYard { State.reset with
    sys := coldSys s.sys vddm
    lc := { slots := if s.lc.step = 8 then cutErase s.lc else s.lc.slots, floorRecs := s.lc.floorRecs, debugRecs := s.lc.debugRecs,
            rootPresent := s.lc.rootPresent, deviceRoot := s.lc.deviceRoot, deviceNumber := s.lc.deviceNumber, identity := s.lc.identity }
    en := { cmeas := s.en.cmeas, cmeasCap := s.en.cmeasCap }
    dbg := { challengeDraw := s.freeCtr }
    queues := if vddm then smMap {} (fun _ x => coldQueue x) s.queues else []
    pads := smMap {} (fun _ x => coldPad vddm x) s.pads
    jobs := if vddm then s.jobs.map coldJob else []
    yard := if vddm then s.yard else []
    yardRetired := s.yardRetired
    jn := coldJournal s.jn vddm
    cache := if vddm then s.cache else smMap {} (fun _ e => lapseEntry e) s.cache
    fc := { spareRows := s.fc.spareRows }
    tk := { slots := s.tk.slots, blobs := s.tk.blobs, hbs := s.tk.hbs }
    hl := coldHayloft s.hl
    tt := { mirror := if vddm then s.tt.mirror else [], mirrorA := if vddm then s.tt.mirrorA else [],
            mirrorCaps := if vddm then s.tt.mirrorCaps else [], mirrorH := s.tt.mirrorH }
    out := s0.out, freeCtr := s.freeCtr + 1, pending := s.pending }

/-! ## Flush costs (R72) -/

/-- Sectors a page holds (R461). -/
def sectorsPerPage (g : Geometry) : Nat := min (g.pageData / 1024) ((g.pageData + g.pageSpare) / 1158)

/-- Targets in service on a channel. -/
def activeTargets (s : State) (c : Nat) : Nat := ((List.range 4).filter fun t => (smGet {} s.hl.targets (4 * c + t)).state == 1).length

/-- Sector bytes over µs of a channel's flush rate: T × planes × sectors × 1,024 over t_round. -/
def flushRate (s : State) (c : Nat) : Nat × Nat :=
  let g := s.hl.geo
  let t := activeTargets s c
  let page := g.pageData + g.pageSpare
  (t * g.planes * sectorsPerPage g * 1024 * g.rateMBs, max ((g.tProgUs + 12) * g.rateMBs + page) (t * g.planes * page))

/-- The lesser rate of the channels that have not failed. -/
def leastRate (s : State) : Nat × Nat :=
  let a := flushRate s 0
  let b := flushRate s 1
  if s.hl.failed0 then b else if s.hl.failed1 then a else if a.1 * b.2 ≤ b.1 * a.2 then a else b

/-- rec_nj and fixed_uj from the geometry in service. -/
def computeCosts (s : State) : State :=
  let r := leastRate s
  if r.1 = 0 then s
  else { s with en := { s.en with recNj := (96 * 4000 * r.2 + r.1 - 1) / r.1, fixedUj := (4 * (800 * r.1 + 1840000 * r.2) + r.1 - 1) / r.1 } }

/-! ## Calibration and conversions (R68, R69) -/

/-- Offset and gain from the two calibration conversions (log entry 15). -/
def calibrate (s : State) (zeroRaw refRaw : Nat) : State :=
  let span := max 1 (refRaw - zeroRaw)
  { s with en := { s.en with offset := (zeroRaw : Int), gain := min 0xFFFF (3200 * 0x8000 / span), calValid := true } }

/-- One meter reads more, in nJ (R57). -/
def addMeter (s : State) (e : Nat × Nat) : State :=
  { s with en := { s.en with meter := smMod 0 s.en.meter e.1 fun x => (x + e.2) % 2 ^ 64 } }

/-- One conversion joins the last eight. -/
def convert (s : State) (raw : Nat) : State :=
  { s with en := { s.en with rawCode := raw % 4096, convs := (correctCode s (raw % 4096) :: s.en.convs).take 8 } }

/-! ## Steps 8 to 12 -/

/-- A target at boot (R460, R476, R456). -/
def bootTarget (s : State) (b : BootIn) (n : Nat) : State :=
  let code := b.targets.getD n 0
  let t := smGet {} s.hl.targets n
  let held := if n < 4 then s.sys.straps.nf0Mismatch else s.sys.straps.nf1Mismatch
  let strap := if n < 4 then s.sys.straps.nfv0 else s.sys.straps.nfv1
  let fresh := t.spares == 0 && t.badBlocks == 0
  let spares := if fresh then max 16 ((b.blocks * 2 + 99) / 100) else t.spares
  let st := if held || code = 0 then 0 else if code = 4 then 0 else if code = 2 then 4 else if s.hl.retireMap.contains (0x200 + n) then 3 else 1
  let t0 := if st = 0 then t else { t with nvDdr3 := strap, mode := b.timingMode }
  let t1 := { t0 with state := st, spares := if st = 1 then spares else t.spares }
  let s1 := { s with hl := { s.hl with targets := smSet {} s.hl.targets n t1 } }
  if !held && code == 4 then report s1 (0x200 + n) 0x1F false 0 0 else s1

/-- Sector capacity of a channel in bytes, after bad blocks and spares (R463). -/
def channelCapacity (s : State) (c : Nat) : Nat :=
  let g := s.hl.geo
  ((List.range 4).map fun t =>
    let x := smGet {} s.hl.targets (4 * c + t)
    if x.state = 1 then (g.blocks - x.badBlocks - x.spares) * g.blockPages * sectorsPerPage g * 1024 else 0).sum

/-- A channel whose sector capacity is below 448 MiB fails (R463). -/
def channelFails (s : State) (c : Nat) : Bool := decide (channelCapacity s c < 448 * 2 ^ 20)

/-- Step 8: targets identified, directories read. -/
def bootHayloft (s : State) (b : BootIn) : State :=
  let g : Geometry := { pageData := b.pageData, pageSpare := b.pageSpare, tProgUs := b.tProgUs, planes := b.planes, rateMBs := b.rateMBs,
                        blockPages := b.blockPages, blocks := b.blocks }
  let s1 := (List.range 8).foldl (fun t n => bootTarget t b n) { s with hl := { s.hl with geo := g } }
  { s1 with hl := { s1.hl with failed0 := channelFails s1 0, failed1 := channelFails s1 1, ready := true, flushReady := true } }

/-- Retired units stay retired, and a kind they leave short is degraded again (R23, R456). -/
def bootRetired (s : State) : State :=
  let s0 := { s with fc := { s.fc with retired := s.hl.retireMap.foldl (fun m r => smSet false m r true) s.fc.retired } }
  [1, 2, 3, 4].foldl evalDegraded <| s.hl.retireMap.foldl (fun t r =>
    if r < 0x34 then modSt t r fun x => { x with state := 5 }
    else if 0x40 ≤ r ∧ r < 0x50 then modCore t (r - 0x40) fun c => { c with retired := true }
    else if 0xC0 ≤ r ∧ r < 0xD0 then { t with rng := { t.rng with retired := setBit t.rng.retired (r - 0xC0) } }
    else if 0x180 ≤ r ∧ r < 0x184 then
      { t with tt := { t.tt with lanes := smMod {} t.tt.lanes (r - 0x180) fun x => { x with retired := true, state := 2 } } }
    else t) s0

/-- Tether training at step 10 (R485): each lane that completes step 4 is sound. The preset with the fewest errors is the line's, so free
(log entry 3). -/
def trainTether (s : State) (b : BootIn) : State :=
  let s1 := (List.range 4).foldl (fun t n =>
    let d := draw t
    if (smGet {} t.tt.lanes n).retired then t
    else { d.2 with tt := { d.2.tt with lanes := smMod {} d.2.tt.lanes n fun x => { x with state := if hasBit b.lanesUp n then 1 else 2, preset := d.1 % 4 } } }) s
  let failed := (List.range 4).filter fun n => b.partnerPresent && !hasBit b.lanesUp n && !(smGet {} s1.tt.lanes n).retired
  let s2 := failed.foldl (fun t n => report t (0x180 + n) 0x21 false 0 0) s1
  { s2 with tt := { s2.tt with linkUp := b.partnerPresent && decide (b.lanesUp % 16 ≠ 0), partnerPresent := b.partnerPresent,
                               partnerTerm := b.partnerTerm } }

/-- Step 10 in a twin plan: digests exchanged (R94). -/
def bootTwin (s : State) (b : BootIn) : State :=
  if !s.plan.part.twin then s
  else
    let s1 := trainTether s b
    if s1.tt.linkUp && !b.partnerSame then
      report { s1 with pl := { s1.pl with err := 0x0D }, tt := { s1.tt with mismatch := true } } 0x184 0x22 false 0 0
    else s1

/-- Step 10: mesh pairs the plan marks present and that have never followed trip; absent ones are evaluated no longer (R430, R46). -/
def bootMesh (s : State) : Option Nat × State :=
  let bad := (List.range 4).find? fun n => hasBit s.tp.meshPending n && hasBit s.plan.tamper.meshPresent n
  (bad, { s with tp := { s.tp with meshPending := 0, meshOff := 0xF ^^^ (s.plan.tamper.meshPresent % 16) } })

/-! ## Step 13 (R26, R188, R189) -/

/-- Stateful keys resume at their committed H, which starts their refills, and their first signature rebuilds (R240, R241, R244);
EV_HBS_LOW is raised again where its condition holds (R249). -/
def resumeHbs (s : State) : State :=
  let s1 := { s with tk := { s.tk with hbs := smMap {} (fun _ (h : HbsKey) =>
      if h.present then { h with nNext := h.h, refill := none, rebuildDue := true, nextTrees := [], lowRaised := false } else h) s.tk.hbs } }
  (smKeys s1.tk.hbs).foldl (fun t n => lowLeaves (startRefill t n) n) s1

/-- The greater of the next value held and one more than the highest accept_seq held (R189). -/
def resumeSeq (s : State) (next : Nat) : Nat := s.jobs.foldl (fun m j => max m (j.seq + seqStep s)) next

/-- In a twin plan bit 0 of accept_seq is the accepting side (R196). -/
def ownSide (s : State) (n : Nat) : Nat :=
  if s.plan.part.twin && n % 2 != b1 s.sys.straps.twinSide then n + 1 else n

/-- The queues and records of the newest complete flush, read into both banks. -/
def restoreFlush (s : State) : State :=
  let f := s.hl.flush
  let pads := f.snaps.foldl (fun m e => smMod {} m e.1 fun (x : Pad) => { x with snaps := e.2 }) s.pads
  -- the rings of paddock code lie in the yard and are lost with VDDM: nothing unaccepted is left on them (R414)
  let qs := smMap {} (fun _ (x : Queue) => let y := coldQueue x
    if y.bx then { y with p := y.a, ring := [], ringSecret := [] } else y) f.queues
  fitYard { s with jobs := f.jobs.map coldJob, queues := qs, pads := pads, tt := { s.tt with mirror := f.mirror, mirrorA := f.mirrorA },
                   jn := { s.jn with nextSeq := f.nextSeq, seq := f.seq, term := f.term, fromFlush := true },
                   hl := { s.hl with flush := { f with consumed := true } } }

/-- A live record, not an evict, names a cache entry that is gone and that no live load brings back (R260). -/
def lostEntry (s : State) (j : Job) : Bool :=
  let reload := fun (k : Nat) => s.jobs.any fun x => isLive x && x.desc.opcode == 0x0E00 && x.fixed == 0 && (match x.extra with
    | some h => cacheOf x.paddock h == some k
    | none => false)
  j.desc.opcode != 0x0E01 && (handlesOf j.desc).any fun h => match cacheOf j.paddock h with
    | some k => !((cacheAt s k).present && (cacheAt s k).gen == hGen h) && !reload k
    | none => false

/-- Live records whose feed copies, or whose cache entries, went with VDDM (R191, R260, R370). -/
def loseLapsed (s : State) : State :=
  s.jobs.foldl (fun t j => if (feedOf j).isSome then loseJob t j 0x0C01 else if lostEntry s j then loseJob t j 0x0403 else t) s

/-- The time base resumes as boot begins, so that no time shown or stamped is before one shown earlier (R26). -/
def resumeTime (s : State) (banks : Bool) : State :=
  let a := if banks then s.sys.timeJournal else 0
  let b := if s.hl.flush.present then s.hl.flush.time else 0
  let c := if s.sys.timeHayloft = 0 then 0 else s.sys.timeHayloft + 60000000000
  { s with time := max s.time (1 + max a (max b c)) }

/-- Step 13: the banks, else the newest complete flush not consumed, else an empty journal. -/
def recoverJournal (s : State) (b : BootIn) : State :=
  let f := s.hl.flush
  let whole := f.present && (f.commit0 || f.commit1) && !f.consumed
  let banks := s.jn.held && b.banksOk && (!whole || decide (f.seq ≤ s.jn.seq))
  let s1 :=
    if banks then s
    else if whole then restoreFlush s
    else
      report (fitYard { s with jobs := [], queues := [], pads := smMap {} (fun _ (x : Pad) => { x with caps := [], snaps := [] }) s.pads,
                                jn := { s.jn with lost := true, nextSeq := s.hl.boundB * seqStep s + (if s.plan.part.twin then b1 s.sys.straps.twinSide else 0) } })
        0x080 0x14 false 0 0
  let s2 := raiseBound { s1 with jn := { s1.jn with nextSeq := ownSide s1 (resumeSeq s1 s1.jn.nextSeq), held := true, bank0 := true, bank1 := true } }
  resumeHbs (if banks then s2 else loseLapsed s2)

/-! ## Step 16 -/



/-- Loads whose entries went with VDDM are re-created empty under the index and generation of their records (R260). -/
def recreateLoads (s : State) : State :=
  s.jobs.foldl (fun t j => match j.extra with
    | some h =>
      let k := cacheKey j.paddock (hIdx h)
      if j.desc.opcode = 0x0E00 ∧ j.fixed = 0 ∧ ((cacheAt t k).present && (cacheAt t k).gen == hGen h) = false then
        let alg := inl16 j.desc 0x40
        putCache t k { present := true, gen := hGen h, alg := alg, paramSet := j.desc.paramSet, size := cacheOcc alg j.desc.paramSet,
                       sticky := hasBit (inl8 j.desc 0x42) 0, lastUse := j.seq }
      else t
    | none => t) s

/-- Step 16 of Table 04.4: the gate opens and replay begins; a held warm reset is then taken (R78). -/
def openGate (s : State) : State :=
  let s1 := { s with sys := { s.sys with stage := 16, bootState := 1, wait := .done }, jn := { s.jn with opened := gateMayOpen s } }
  let s2 := recreateLoads { s1 with pads := (padsPresent s1).foldl (fun m p => smMod {} m p fun x => { x with genDue := true }) s1.pads }
  let s3 := mirrorCopies (raiseFloors (replayAll s2 (fun _ => true) false))
  let s4 := updateLtr (runBells (replaysDone (redrain ([1, 2, 3, 4].foldl sweepKind (reloadBlobs s3)))))
  match s4.sys.heldWarm with
  | some c => warmReset { s4 with sys := { s4.sys with heldWarm := none } } c
  | none => s4

/-! ## The sequence -/

/-- A side that may not open its gate yet: a twin whose partner has not been met, or whose digest differs (R94, R95). -/
def waitsForPartner (s : State) : Bool := s.plan.part.twin && (s.tt.mismatch || !(s.tt.partnerPresent && s.tt.linkUp))

/-- A part that finds its partner at a higher twin term discards its own journal contents and takes the partner's mirror, which comes over the
tether (R95); the partner goes on fetching every queue (R200). -/
def yieldTerm (s : State) : State :=
  if s.plan.part.twin && s.tt.linkUp && decide (s.jn.term < s.tt.partnerTerm) then
    fitYard { s with jobs := [], jn := { s.jn with term := s.tt.partnerTerm }, tt := { s.tt with mirror := [], mirrorA := [], mirrorCaps := [] },
                     pads := smMap {} (fun _ (x : Pad) => { x with caps := [], curGen := none, snaps := [] }) s.pads,
                     queues := smMap {} (fun _ (x : Queue) => if x.state = 0 then x else { x with standby := true, p := x.a, t := x.a }) s.queues }
  else s

/-- Step 16, unless the partner is waited for. -/
def bootOpen (s : State) : State :=
  if waitsForPartner s then { s with sys := { s.sys with stage := 15, wait := .twin } }
  else
    let s1 := yieldTerm s
    openGate { s1 with jn := { s1.jn with role := if s1.plan.part.twin then 1 else 0 } }

/-- Step 15: the start-up tests, repeated until they pass or the source has stopped (R316, R317, R319). -/
def bootRandom (s : State) (b : BootIn) : State :=
  let s1 := runStartup s b.rngPassed b.kat
  if s1.rng.ready || s1.rng.stopped then bootOpen s1 else { s1 with sys := { s1.sys with wait := .random } }

/-- Step 14: the tack room unseals where the state derives keys, and a restored flush is authenticated by its GCM tag (R97, R188). -/
def bootUnseal (s : State) (b : BootIn) : State :=
  let s1 := if 1 ≤ s.lc.state ∧ s.lc.state ≤ 4 then unsealTack s else s
  match (if s.jn.fromFlush then openCaps s1 else some s1) with
  | none => bootTamper s 9
  | some s2 => bootRandom { s2 with sys := { s2.sys with stage := 14 } } b

/-- Step 13, once POWER_FAIL_N has been high (R501). -/
def bootJournal (s : State) (b : BootIn) : State :=
  if !s.sys.powerFailN then { s with sys := { s.sys with wait := .powerFail } }
  else
    let s1 := recoverJournal s b
    bootUnseal { s1 with sys := { s1.sys with stage := 13 } } b

/-- The first reserve evaluation: reserve_low follows the live records, and EV_RESERVE_LOW with it (R74, Table 04.4). -/
def firstReserve (s : State) : State :=
  let low := !reserveCovers s (nLive s)
  let s1 := { s with en := { s.en with reserveLow := low } }
  if low then raisePart s1 1 else s1

/-- Step 12: the reserve check (R72, R83); a part without a plan has no bank to check (log entry 20). -/
def bootReserve (s : State) (b : BootIn) : State :=
  if s.plan.loaded && !bankSuffices s then raisePart { s with sys := { s.sys with wait := .reserve } } 1
  else
    let s1 := { s with sys := { s.sys with stage := 12 } }
    bootJournal (firstReserve s1) b

/-- Step 11 done and step 12 begun: calibration and flush costs. -/
def bootCalibrate (s : State) (b : BootIn) : State :=
  bootReserve (computeCosts (convert (calibrate s b.zeroRaw b.refRaw) b.code)) b

/-- A kind chosen at boot is noted; where a newly preferred slot has failed, PL_STATUS.err reads 0x21 (R86, R91). -/
def bootKind (s : State) (k : Nat) : State :=
  let s1 := match chooseCopy s (if k = 0x01 then [] else s.sys.firmware) k with
    | some (_, _, b) => noteLoaded s k b
    | none => s
  let fell := (dirNow s).fresh.contains k && (match chooseCopy s (if k = 0x01 then [] else s.sys.firmware) k with
    | some (slot, _, _) => slot != preferredSlot s k
    | none => true)
  if fell then { s1 with pl := { s1.pl with err := 0x21, errOffset := 0 } } else s1

/-- Step 11: the four microcode kinds (R86, R352). -/
def bootMicrocode (s : State) (b : BootIn) : State :=
  let fw := s.sys.firmware
  let ok := fun (k : Nat) => (chooseCopy s fw (k + 1)).isSome
  if s.lc.state ≠ 0 ∧ ([1, 2, 3, 4].all ok) = false then bootStop s 4 4
  else
    let s0 := (([2, 3, 4, 5] : List Nat).filter fun k => ok (k - 1)).foldl bootKind s
    let s1 := (List.range 52).foldl (fun t n => modSt t n fun x => { x with ucodeOk := ok (stallKind n) }) s0
    bootCalibrate (bootedDir { s1 with sys := { s1.sys with stage := 11 } }) b

/-- NFc_WP_N released on the channels that are not held (R37, R45, R466). -/
def releaseWp (s : State) : State :=
  { s with hl := { s.hl with wpReleased := true, nf0 := { s.hl.nf0 with wpN := !s.sys.straps.nf0Mismatch },
                             nf1 := { s.hl.nf1 with wpN := !s.sys.straps.nf1Mismatch } } }

/-- Step 10: the plan (R86, R89, R90, R94), mesh pairs, write protection released. -/
def bootPlan (s : State) (b : BootIn) : State :=
  let s0 := bootRetired s
  let load := fun (t : State) =>
    let m := bootMesh (bootTwin (bootPartials t) b)
    match m.1 with
    | some n => bootTamper m.2 n
    | none => bootMicrocode (releaseWp { m.2 with sys := { m.2.sys with stage := 10 } }) b
  let refused := fun (t : State) => match bootPlanFault t with
    | some e => { t with pl := { t.pl with err := e.1, errOffset := e.2 } }
    | none => t
  match chooseCopy s0 s0.sys.firmware 0x10 with
  | some (_, _, img) => load (bootKind (applyPlan (refused s0) (planOf img)) 0x10)
  | none => if s0.lc.state = 0 then load s0 else bootStop (refused s0) 4 3

/-- Step 9: the system firmware (R86); its digest extends register 0 (R299). -/
def bootFirmware (s : State) (b : BootIn) : State :=
  match chooseCopy s [] 0x01 with
  | some (slot, ch, img) =>
    let s1 := noteFirmware (bootKind s 0x01) slot ch img
    bootPlan (extendYmr { s1 with sys := { s1.sys with stage := 9 } } 0 (imgDigest img)) b
  | none => if s.lc.state = 0 then bootPlan { s with sys := { s.sys with stage := 9 } } b else bootStop s 4 2

/-- Steps 5 to 8: clocks, sheds, link, yardmaster, hayloft; boot waits at step 5 for XTAL25 and at step 6 for the PLLs. -/
def bootSheds (s : State) (b : BootIn) : State :=
  if !s.sys.xtal || !s.sys.pllLocked then { s with sys := { s.sys with wait := .clock } }
  else
    let s1 := { s with sys := { s.sys with stage := 8, linkWidth := b.linkWidth, linkReversed := b.linkReversed, wait := .inReset } }
    bootFirmware (bootHayloft { s1 with port := { s1.port with linkUp := linkTrains s1 } } b) b

/-- Step 4: LOCKED and SCRAP stop boot. TEST_EN in a state that ignores it is recorded (Table 02.8). -/
def bootLedger (s : State) (b : BootIn) : State :=
  let s1 := decodeLedger s
  let s2 := if s1.sys.straps.testEn && decide (s1.lc.state ∉ [0, 1, 4]) then auditAdd s1 7 1 else s1
  if s2.lc.state = 7 then bootStop s2 3 0
  else if s2.lc.state = 5 then bootStop s2 5 0
  else bootSheds { s2 with sys := { s2.sys with stage := 4 } } b

/-- Two of three strap samples (R44). -/
def majority (b : BootIn) (i : Nat) : Bool :=
  decide (2 ≤ b1 (hasBit b.strap0 i) + b1 (hasBit b.strap1 i) + b1 (hasBit b.strap2 i))

/-- Step 2: SY_STRAPS latched; step 3: supply checks (R45). The detail of a mismatch report is the channel, and as both come from the sensor
block's source the second repeats the first (DESIGN CHOICE, log 109). -/
def bootSupply (s : State) (b : BootIn) : State :=
  let bad0 := majority b 0 != b.vddq0Low
  let bad1 := majority b 1 != b.vddq1Low
  let st : Straps := { nfv0 := majority b 0, nfv1 := majority b 1, i3cAddr := b1 (majority b 2) + 2 * b1 (majority b 3),
                       twinSide := majority b 4, testEn := majority b 5, nf0Mismatch := bad0, nf1Mismatch := bad1 }
  let s1 := { s with sys := { s.sys with straps := st, stage := 2 }, tp := { s.tp with meshPending := 0xF ^^^ (b.meshFollow % 16) } }
  let s2 := if bad0 then report s1 0x290 0x1B false 0 0 else s1
  let s3 := if bad1 then report s2 0x290 0x1B false 0 1 else s2
  if bad0 && bad1 then bootStop s3 4 1 else bootLedger { s3 with sys := { s3.sys with stage := 3 } } b

/-- Cold boot from PORST_N rising (R81), or, after a flush or a clock loss, from step 1 (R50, R185). Step 1: the time base resumes (R26) and
the meshes are driven from the first always-on clock, each pair by a sequence of its own (R40, R430). -/
def coldBoot (s : State) (b : BootIn) : State :=
  let s1 := resumeTime s (s.jn.held && b.banksOk)
  bootSupply { s1 with sys := { s1.sys with porstN := true, wait := .inReset, stage := 1 },
                       tp := { s1.tp with meshOn := true, meshDraw := s1.freeCtr }, freeCtr := s1.freeCtr + 1 } b

/-- The boot that follows a flush or a clock loss: the part goes through cold reset with VDDM kept. -/
def reboot (s : State) (b : BootIn) (clock : Bool) : State :=
  let s1 := coldClear s true
  coldBoot { s1 with sys := { s1.sys with causeClock := clock } } b

end Sys2Proof.Machine
end

