-- ==== Sys2Proof/Machine/Settle.lean ====
section
/-! DEFINITION. Settle.lean: what faults do beyond their report: retirement of units (R456 to R458, Table 20.8), the failure of tether
lanes and NAND targets (R474, R475, R488, R198), clock loss (R50), the action of each kind (Table 20.3), escalation (R450, R451), and
the order in which what falls due together is served. -/

namespace Sys2Proof.Machine

/-! ## Tether lanes (R198, R488) -/

def laneAt (s : State) (n : Nat) : Lane := smGet {} s.tt.lanes n
def modLane (s : State) (n : Nat) (f : Lane → Lane) : State := { s with tt := { s.tt with lanes := smMod {} s.tt.lanes n f } }

/-- Sound tether lanes. -/
def soundLanes (s : State) : Nat := ((List.range 4).filter fun n => (laneAt s n).state == 1).length

/-- Fewest lanes of the plan (Table 04.12). -/
def lanesMin (s : State) : Nat := match s.plan.twin with
  | some t => t.lanesMin
  | none => 0

/-- Every stall stops: the executions are abandoned and their jobs start again from their start (R198, R484). -/
def stopStalls (s : State) : State :=
  let s1 := setJobs s (s.jobs.map fun j => if isLive j && j.phase == .running then restartJob j else j)
  (List.range 52).foldl (fun t n => if (stAt t n).state = 2 then leaveStall t n else t) s1

/-- Too few sound lanes in a twin: side B is fenced, side A accepts nothing (R198). -/
def lanesLost (s : State) : State :=
  if !s.plan.part.twin then s
  else if s.sys.straps.twinSide then
    let s1 := stopStalls (dropWriting { s with jn := { s.jn with role := 3 }, tt := { s.tt with linkUp := false, retraining := false } })
    { s1 with sys := { s1.sys with ttHbo := false }, tt := { s1.tt with lanes := smMap {} (fun _ (x : Lane) => { x with state := if x.state = 1 then 0 else x.state }) s1.tt.lanes } }
  else
    let s1 := { s with tt := { s.tt with split := true, linkUp := false, retraining := false } }
    if s1.tt.hbIn then report s1 0x184 0x23 false 0 0 else s1

/-- Frames not acknowledged go out again from the first (R486, R488). -/
def retransmit (s : State) : State :=
  let n := s.tt.unacked.length
  s.tt.unacked.foldl (fun t f => emit t (.tether f.kind f.seq f.payload))
    { s with tt := { s.tt with retransmits := satAdd 0xFFFFFFFF s.tt.retransmits n } }

/-- A lane fails while the link is up: the sides retrain on the others, or R198 applies (R488). -/
def dropLane (s : State) (n : Nat) : State :=
  if 4 ≤ n ∨ (laneAt s n).state ≠ 1 then s
  else
    let s1 := modLane s n fun x => { x with state := 2 }
    if soundLanes s1 = 0 ∨ soundLanes s1 < lanesMin s1 then lanesLost { s1 with tt := { s1.tt with linkUp := decide (soundLanes s1 ≠ 0) } }
    else retransmit { s1 with tt := { s1.tt with retrains := satAdd 0xFFFF s1.tt.retrains 1 } }

/-! ## NAND targets (R474, R475) -/

def targetAt (s : State) (n : Nat) : Target := smGet {} s.hl.targets n
def modTarget (s : State) (n : Nat) (f : Target → Target) : State := { s with hl := { s.hl with targets := smMod {} s.hl.targets n f } }

/-- A channel without a target, or below its least capacity, fails; costs are computed anew in that cycle (R463, R467, R475). -/
def checkChannel (s : State) (c : Nat) : State :=
  let bad := channelFails s c
  let s1 := { s with hl := if c = 0 then { s.hl with failed0 := s.hl.failed0 || bad } else { s.hl with failed1 := s.hl.failed1 || bad } }
  evalReserve (computeCosts s1)

/-- A target fails: nothing more is issued to it, and what it held is single-copy until it is rebuilt (R474, R475; log entry 21). -/
def loseTarget (s : State) (n : Nat) : State :=
  if (targetAt s n).state ≠ 1 then s
  else
    let s1 := checkChannel (modTarget s n fun x => { x with state := 2 }) (n / 4)
    let failed := if n / 4 = 0 then s1.hl.failed0 else s1.hl.failed1
    { s1 with hl := { s1.hl with rebuilding := !failed, flushReady := failed, singleCopy := satAdd 0xFFFFFFFF 0 s1.hl.objs.length } }

/-! ## Retirement (R456, R458, Table 20.8) -/

/-- Spare rows a bank is installed with (Table 22.3), by source id; 0x400 + n stands for the control store of stall n. -/
def installedRows (source : Nat) : Nat :=
  if source < 0x30 ∨ (0x40 ≤ source ∧ source < 0x50) then 8 else if 0x400 ≤ source then 4 else if source ∈ [0x80, 0x81] then 16 else if source = 0xA0 then 256 else if source = 0xA8 then 16 else 32

/-- A journal row repaired or replaced ends the cause of the FK_JOURNAL_UE that names it (Table 20.16). -/
def rowMended (s : State) (source row : Nat) : State :=
  match findOut s.fc source 0x13 with
  | none => s
  | some i => match outAt s.fc i with
    | some e => if e.detail = row then causeEnds s source 0x13 else s
    | none => s

/-- Entries of the cache that go with a row: their loads are replayed in full, and other records that name them end (R260). -/
def loseEntries (s : State) (l : List Nat) : State :=
  let s1 := l.foldl (fun t k => putCache t k (lapseEntry (cacheAt t k))) s
  let reload := fun (j : Job) => isLive j && j.desc.opcode == 0x0E00 && j.fixed == 0 && (match j.extra with
    | some h => match cacheOf j.paddock h with
      | some k => l.contains k && !((cacheAt s1 k).present && (cacheAt s1 k).gen == hGen h)
      | none => false
    | none => false)
  let s2 := (s1.jobs.filter fun j => isLive j && lostEntry s1 j).foldl (fun t j => loseJob t j 0x0403) s1
  let s3 := (s2.jobs.filter reload).foldl (fun t j => modJob (match j.stall with
    | some n => abandonOn t n j.seq
    | none => t) j.seq (replayJob t.time false)) s2
  retireSilents (recreateLoads s3)

/-- A yard row without a spare: its cells leave the pool, and the lists on them take others (Table 20.8; log entry 22). -/
def dropYardRow (s : State) (bank row : Nat) : State :=
  let cells := ((Config.yardRow bank row).map fun c => bank * 16384 + c % 16384).eraseDups
  fitYard { s with yardRetired := (s.yardRetired ++ cells).eraseDups,
                   yard := s.yard.map fun x => { x with cells := x.cells.filter fun c => !cells.contains c } }

/-- A cache row without a spare: its granules leave the partition that holds them, and the entries in them are lost (Table 20.8). Which
partition and which entries those are, the message does not say: they are free (log entry 22). -/
def dropCacheRow (s : State) : State :=
  let d := draw s
  let pads := padsPresent s
  match pads with
  | [] => s
  | p0 :: _ =>
    let p := pads.getD (d.1 % pads.length) p0
    let s1 := modPad d.2 p fun x => { x with cacheLost := x.cacheLost + 256 * Config.cacheRowGranules }
    let pick := (cacheKeys s1 p).foldl (fun (a : List Nat × State) k =>
      ((if (draw a.2).1 % 2 = 1 then a.1 ++ [k] else a.1), (draw a.2).2)) ([], s1)
    loseEntries pick.2 pick.1

/-- A row is retired onto a spare row of its bank; without one it leaves use (Table 20.8; log entry 22). -/
def retireRow (s : State) (source detail : Nat) : State :=
  let used := smGet 0 s.fc.spareRows source
  let key := bucketKey source detail
  if smGet false s.fc.retired key then s else
  let s2 := recordRetired { s with fc := { s.fc with spareRows := smSet 0 s.fc.spareRows source (used + 1) } } key
  if used < installedRows source then (if source ∈ [0x80, 0x81] then rowMended s2 source detail else s2)
  else if source ∈ [0x80, 0x81] then report s2 source 0x13 false 0 detail
  else if source = 0xA8 then report (if (slotAt s2 (detail / 16)).state = 0 then s2 else loseSlot s2 (detail / 16)) source 0x03 false 0 detail
  else if source = 0xA0 then report (dropCacheRow s2) source 0x03 false 0 detail
  else report (dropYardRow s2 (source - 0x90) detail) source 0x03 false 0 detail

/-- A core is retired; the lowest-numbered core of no paddock takes its place (Table 20.8). -/
def retireCore (s : State) (n : Nat) : State :=
  if (coreAt s n).retired then s
  else
    let s1 := recordRetired (modCore (stopCore s n) n fun c => { c with retired := true }) (0x40 + n)
    match padOfCore s1 n, (List.range 16).find? (fun k => (padOfCore s1 k).isNone && !(coreAt s1 k).retired) with
    | some p, some k => { s1 with plan := { s1.plan with pads := smMod {} s1.plan.pads p fun r => { r with coreMap := setBit r.coreMap k } } }
    | _, _ => s1

/-- A unit is retired, by its bucket or by escalation. -/
def retireUnit (s : State) (source detail : Nat) : State :=
  if source < 0x34 then retireStall s source
  else if 0x40 ≤ source ∧ source < 0x50 then retireCore s (source - 0x40)
  else if rowSource source then retireRow s source detail
  else if 0xC0 ≤ source ∧ source < 0xD0 then
    (if hasBit s.rng.retired (source - 0xC0) then s else recordRetired (retireGroup s (source - 0xC0)) source)
  else if 0x180 ≤ source ∧ source < 0x184 then
    let n := source - 0x180
    if (laneAt s n).retired then s
    else
      let s1 := dropLane s n
      sourceEnds (recordRetired (modLane s1 n fun x => { x with retired := true, state := 2 }) source) source
  else if 0x200 ≤ source ∧ source < 0x208 then
    let n := source - 0x200
    if (targetAt s n).state = 3 then s
    else
      let s1 := loseTarget s n
      sourceEnds (recordRetired (modTarget s1 n fun x => { x with state := 3 }) source) source
  else s

/-! ## Escalation (R450, R451, Table 20.6) -/

/-- What an expired timer, or the want of an outstanding entry, does. -/
def escalateUnit (s : State) (source kind : Nat) (charged : Bool) (pad detail : Nat) : State :=
  if faultClass kind = 2 then (if kind = 0x18 then s else warmReset s 1)
  else if 0x40 ≤ source ∧ source < 0x50 then (if charged then paddockReset s pad else s)
  else if rowSource source && !(decide (kind = 0x02) || decide (kind = 0x03)) then s
  else retireUnit s source detail

/-- A leaky bucket has reached its threshold: the unit is retired, but a NAND target fails (R446, R474). -/
def bucketFull (s : State) (source detail : Nat) : State :=
  if 0x200 ≤ source ∧ source < 0x208 then
    (if (targetAt s (source - 0x200)).state = 1 then loseTarget (report s source 0x1F false 0 0) (source - 0x200) else s)
  else retireUnit s source detail

/-- Of the escalations due together: fatal before contained, then the lower source id (R451). -/
def nextDue : List OutFault → Option OutFault
  | [] => none
  | e :: r => match nextDue r with
    | none => some e
    | some m =>
      let key := fun (x : OutFault) => (2 - x.cls) * 1024 + x.source
      if key m < key e then some m else some e

/-- Serve what faults have made due, in order. -/
def settleLoop : Nat → State → State
  | 0, s => s
  | fuel + 1, s =>
    match nextDue s.fc.escNow with
    | some e =>
      let s1 := { s with fc := { s.fc with escNow := s.fc.escNow.erase e } }
      settleLoop fuel (escalateUnit s1 e.source e.kind e.charged e.paddock e.detail)
    | none => match s.fc.retireNow with
      | [] => s
      | e :: r => settleLoop fuel (bucketFull { s with fc := { s.fc with retireNow := r } } e.1 e.2)

/-- The end of a command: what faults have made due is served, then EV_REPLAY_DONE where it is owed. No escalation is taken while a flush
runs (R451). -/
def settle (s : State) : State :=
  if s.en.flushActive then s else replaysDone (settleLoop (s.fc.escNow.length + s.fc.retireNow.length + 8) s)

/-! ## Clock and reference loss (R50, R137) -/

/-- XTAL25, or a PLL, is lost: the fault, then the flush, then reset until it is back. -/
def clockLoss (s : State) (source kind : Nat) : State :=
  let s1 := report s source kind false 0 0
  if s1.sys.porstN && !s1.en.flushActive then startFlush s1 else s1

/-! ## The action of each kind (Table 20.3) -/

/-- A yard cell is lost and retires: the job whose list held it replays from acceptance. Which cell that is, the message does not say: it is free
(R364; log entry 23). -/
def yardLoss (s : State) : State :=
  let cells := s.yard.flatMap (·.cells)
  match cells with
  | [] => s
  | c0 :: _ =>
    let d := draw s
    let c := cells.getD (d.1 % cells.length) c0
    let lists := d.2.yard.filterMap fun x => if x.cells.contains c then (if x.kind = .ring then some { x with cells := x.cells.filter (· != c) } else none) else some x
    let s1 := { d.2 with yardRetired := s.yardRetired ++ [c], yard := lists }
    match (listOfCell s c).bind fun x => if x.kind = .ring then none else jobOf s x.key with
    | none => fitYard s1
    | some j =>
      let s2 := match j.stall with
        | some n => abandonOn s1 n j.seq
        | none => s1
      modJob s2 j.seq (replayJob s2.time false)

/-- Every stall shed to step 3 while the die is hot (Table 20.3). -/
def overtemp (s : State) : State :=
  { s with en := { s.en with overtemp := true, step := (List.range 14).foldl (fun m i => smSet 0 m i 3) s.en.step } }

/-- Kinds that make a stall unsound when reported with its source (R355). -/
def unsoundKind (kind : Nat) : Bool := decide (kind ∈ [0x02, 0x03, 0x05, 0x06, 0x07, 0x08, 0x09, 0x0C, 0x0D])

/-- The action at once of a reported fault. -/
def faultAction (s : State) (source kind detail : Nat) : State :=
  if source < 0x34 then
    if unsoundKind kind then
      let s1 := makeUnsound s source
      if kind = 0x05 then modSt s1 source fun x => { x with ucodeOk := false } else s1
    else if kind = 0x0A ∨ kind = 0x0B then retireStall s source
    else s
  else if rowSource source && (kind == 0x02 || kind == 0x03) then retireRow s source detail
  else match kind with
    | 0x0E => yardLoss s
    | 0x0F => if 0x40 ≤ source ∧ source < 0x50 then stopCore s (source - 0x40) else s
    | 0x11 => warmReset s 1
    | 0x15 => if (slotAt s detail).state = 0 then s else loseSlot s detail
    | 0x16 => if 0xC0 ≤ source ∧ source < 0xD0 then isolateGroup s (source - 0xC0) else s
    | 0x1C => overtemp s
    | 0x1F => if 0x200 ≤ source ∧ source < 0x208 then loseTarget s (source - 0x200) else s
    | 0x20 => if 0x180 ≤ source ∧ source < 0x184 then modLane s (source - 0x180) fun x => { x with ce := satAdd 0xFFFFFFFF x.ce 1 } else s
    | 0x21 => if 0x180 ≤ source ∧ source < 0x184 then dropLane s (source - 0x180) else s
    | _ => s

/-- A fault is reported and its action taken. -/
def raiseFault (s : State) (source kind : Nat) (charged : Bool) (pad detail : Nat) : State :=
  faultAction (report s source kind charged pad detail) source kind detail

end Sys2Proof.Machine
end

