-- ==== Sys2Proof/Machine/BootCmds.lean ====
section
/-! DEFINITION. BootCmds.lean: the commands of resets, boot, power and clocks (R50, R76 to R80, R83, R95, R96, R183, R185, R500, R501). -/

namespace Sys2Proof.Machine

/-- COLD_RESET (R76): PORST_N low or VDD_AON below its threshold; the part is held in reset. -/
def execColdReset (_cause : Nat) (vddmKept : Bool) (s : State) : Host.Outcome State Fault Refusal :=
  let s1 := coldClear s vddmKept
  .next { s1 with sys := { s1.sys with porstN := false } }

/-- PORST_N_RISE (R81). -/
def execPorstNRise (boot : BootIn) (s : State) : Host.Outcome State Fault Refusal :=
  .next (if s.sys.porstN then s else settle (coldBoot s boot))

/-- VDD_AON_POWER_ON (R500): with PORST_N already high, boot starts as if it rose. -/
def execVddAonPowerOn (boot : BootIn) (s : State) : Host.Outcome State Fault Refusal :=
  .next (if s.sys.porstN then s else settle (coldBoot s boot))

/-- BOOT_RESERVE_RECHECK (R83): in cold boot step 12 goes on; after an APPLY's warm reset the gate opens once the check passes. -/
def execBootReserveRecheck (boot : BootIn) (s : State) : Host.Outcome State Fault Refusal :=
  .next (if s.sys.wait ≠ .reserve then s
  else if s.sys.bootState = 0 then settle (bootReserve { s with sys := { s.sys with wait := .inReset } } boot)
  else if s.plan.loaded && !bankSuffices s then s
  else settle (warmOpen { s with sys := { s.sys with wait := .done } }))

/-- BOOT_POWER_FAIL_WAIT_END (R501): POWER_FAIL_N has been high for 1 ms. -/
def execBootPowerFailWaitEnd (boot : BootIn) (s : State) : Host.Outcome State Fault Refusal :=
  .next (if s.sys.wait = .powerFail then settle (bootJournal { s with sys := { s.sys with wait := .inReset, powerFailN := true } } boot) else s)

/-- The banks hold a recovered journal that a flush can save. -/
def canFlush (s : State) : Bool := s.sys.porstN && decide (13 ≤ s.sys.stage) && !s.en.flushActive

/-- POWER_FAIL_FLUSH (R75, R183): before step 13 boot waits instead (R501); a part in deep sleep is awake first (R55). -/
def execPowerFailFlush (s : State) : Host.Outcome State Fault Refusal :=
  let s0 := endDeepSleep s
  let s1 := { s0 with sys := { s0.sys with powerFailN := false } }
  .next (if canFlush s then startFlush s1 else s1)

/-- A flush that XTAL25 or a PLL has caused (R50). -/
def clockFlush (s : State) : Bool := (findOut s.fc 0x281 0x18).isSome || (findOut s.fc 0x280 0x1A).isSome

/-- FLUSH_COMPLETE (R183, R185, R70): the commit blocks stand; the part waits, or boots, or is held until its clock runs. The meters have
counted `deltas` since the last sample, and `raw0` and `raw1` are the bank's last conversions. -/
def execFlushComplete (ok0 ok1 : Bool) (deltas : List (Nat × Nat)) (raw0 raw1 : Nat) (s : State) : Host.Outcome State Fault Refusal :=
  .next (if !s.en.flushActive || s.jn.flushWait then s
  else
    let s0 := convert (convert ((deltas.filter fun e => decide (e.1 < 24)).foldl addMeter s) raw0) raw1
    let s1 := commitFlush s0 (ok0 && !s.hl.failed0) (ok1 && !s.hl.failed1)
    let s2 := storeCap { s1 with jn := { s1.jn with flushWait := true } }
    match s.jn.bootAfterFlush with
    | some b => settle (reboot s2 b (clockFlush s2))
    | none =>
      if s.sys.xtal && s.sys.pllLocked then s2
      else
        let s3 := coldClear s2 true
        { s3 with sys := { s3.sys with wait := .clock } })

/-- POWER_FAIL_RISE (R185). -/
def execPowerFailRise (boot : BootIn) (s : State) : Host.Outcome State Fault Refusal :=
  let s1 := { s with sys := { s.sys with powerFailN := true } }
  .next (if !s.en.flushActive then s1
  else if s.jn.flushWait then settle (reboot s1 boot false)
  else { s1 with jn := { s1.jn with bootAfterFlush := some boot } })

/-- What the loss of a clock does (R50): fault, flush, reset until it runs. A flush that runs already goes on, and a part with nothing to
flush is held in reset at once. -/
def loseClock (s : State) (source kind : Nat) : State :=
  if !s.sys.porstN then s
  else if s.en.flushActive then report s source kind false 0 0
  else if canFlush s then clockLoss (endDeepSleep s) source kind
  else
    let s1 := coldClear (report s source kind false 0 0) true
    { s1 with sys := { s1.sys with wait := .clock } }

/-- XTAL25_LOSS (R50). -/
def execXtal25Loss (s : State) : Host.Outcome State Fault Refusal :=
  .next (if s.sys.xtal then loseClock { s with sys := { s.sys with xtal := false } } 0x281 0x18 else s)

/-- A clock runs again: the part held for it boots (R50); a cold boot that had reached step 5 without its clocks goes on from there. -/
def clockBack (s : State) (boot : BootIn) : State :=
  if s.sys.wait = .clock then
    if s.sys.stage = 0 then settle (coldBoot { s with sys := { s.sys with causeClock := true } } boot)
    else settle (bootSheds s boot)
  else if s.en.flushActive then { s with jn := { s.jn with bootAfterFlush := some boot } }
  else s

/-- XTAL25_RESTORE (R50). -/
def execXtal25Restore (boot : BootIn) (s : State) : Host.Outcome State Fault Refusal :=
  .next (if s.sys.xtal then s else clockBack { s with sys := { s.sys with xtal := true } } boot)

/-- PLL_RELOCK (R442). -/
def execPllRelock (boot : BootIn) (s : State) : Host.Outcome State Fault Refusal :=
  .next (if s.sys.pllLocked then s else clockBack { s with sys := { s.sys with pllLocked := true } } boot)

/-! ## Twin boot (R95, R200) -/

/-- The queues of the other side are served here. -/
def serveBoth (s : State) : State :=
  { s with queues := smMap {} (fun _ (x : Queue) => if x.standby then { x with standby := false, takenOver := true } else x) s.queues }

/-- TWIN_WAIT_TIMEOUT (R95): side A opens its gate for the queues of both sides. -/
def execTwinWaitTimeout (_boot : BootIn) (s : State) : Host.Outcome State Fault Refusal :=
  .next (if s.sys.wait = .twin ∧ s.tt.mismatch = false ∧ s.sys.straps.twinSide = false then
    let s1 := serveBoth s
    settle (openGate { s1 with jn := { s1.jn with role := 2 }, tt := { s1.tt with partnerFailed := true } })
  else s)

/-- Every live record goes over the tether again (R95). -/
def remirror (s : State) : State := (liveJobs s).foldl (fun t j => sendFrame t 0x06 (recordFrame t j)) s

/-- TWIN_PARTNER_PRESENT (R95, R200): a waiting part opens its gate in the twin; one that runs alone mirrors its records first. -/
def execTwinPartnerPresent (term : Nat) (side : Bool) (s : State) : Host.Outcome State Fault Refusal :=
  .next (if s.plan.part.twin = false ∨ side = s.sys.straps.twinSide ∨ s.jn.role = 3 ∨ s.tt.mismatch = true then s
  else
    let s1 := causeEnds { s with tt := { s.tt with partnerPresent := true, partnerTerm := term, linkUp := true, partnerFailed := false } } 0x184 0x24
    if s.sys.wait = .twin then
      let s2 := yieldTerm s1
      settle (openGate { s2 with jn := { s2.jn with role := 1 } })
    else if s.jn.role = 2 then
      let s2 := remirror s1
      { s2 with jn := { s2.jn with role := 1 } }
    else s1)

/-! ## Resets in operation -/

/-- SY_RESET (R78): the PF's register. -/
def execSyReset (fn : Nat) (value : W64) (s : State) : Host.Outcome State Fault Refusal :=
  .next (if fn = 0 ∧ regsUp s fn = true ∧ bits value.toNat 0 8 = 0xA5 then settle (warmReset s 0) else s)

/-- WARM_RESET (R78): 0 software, 1 fatal escalation or lockstep mismatch, 2 APPLY. -/
def execWarmReset (cause : Nat) (s : State) : Host.Outcome State Fault Refusal := .next (settle (warmReset s (min cause 2)))

/-- SY_PADDOCK_RESET (R79, R96). -/
def execSyPaddockReset (fn : Nat) (value : W64) (s : State) : Host.Outcome State Fault Refusal :=
  .next (if fn = 0 ∧ regsUp s fn = true ∧ bits value.toNat 8 8 = 0x5A then settle (paddockReset s (bits value.toNat 0 5)) else s)

end Sys2Proof.Machine
end

