-- ==== Sys2Proof/Machine/BxEncoding.lean ====
section
/-! DEFINITION. BxEncoding.lean: Benxis instructions as bytes (R377 to R381, Tables 17.2 to 17.5, 18.4, 18.6): the fields each opcode uses,
the decoder and the encoder. An opcode is its op byte. -/

namespace Sys2Proof.Machine

/-- The second source an opcode takes. -/
inductive Second where
  | none
  /-- rs2 or an immediate -/
  | either
  /-- rs2 only -/
  | reg
  /-- an immediate only -/
  | imm
deriving DecidableEq, Repr

/-- The fields of the head word an opcode uses, and the prefix flags permitted on it (Tables 17.3, 17.4, 18.6). -/
structure BxForm where
  rd : Bool := false
  rs1 : Bool := false
  second : Second := .none
  chk : Bool := false
  w32 : Bool := false
  vec : Bool := false
deriving DecidableEq, Repr

/-- Map 0, opcodes 0x00 to 0x1B. -/
def formAlu (op : Nat) : Option BxForm :=
  if op = 0x00 ∨ op = 0x01 ∨ op = 0x03 ∨ op = 0x04 then some {}
  else if op = 0x02 then some { second := .imm }
  else if op = 0x08 ∨ op = 0x09 then some { rd := true, rs1 := true, second := .either, chk := true, w32 := true, vec := true }
  else if op = 0x0A then some { rd := true, rs1 := true, chk := true, w32 := true }
  else if 0x0B ≤ op ∧ op ≤ 0x0E then some { rd := true, rs1 := true, second := .either, w32 := true, vec := true }
  else if op = 0x0F then some { rd := true, rs1 := true, w32 := true, vec := true }
  else if 0x10 ≤ op ∧ op ≤ 0x12 then some { rd := true, rs1 := true, second := .either, w32 := true, vec := true }
  else if op = 0x13 ∨ op = 0x14 then some { rd := true, rs1 := true, second := .either, w32 := true }
  else if 0x15 ≤ op ∧ op ≤ 0x17 then some { rd := true, rs1 := true, w32 := true }
  else if op = 0x18 then some { rs1 := true, second := .either, w32 := true }
  else if 0x19 ≤ op ∧ op ≤ 0x1B then some { rd := true, rs1 := true, second := .either, w32 := true, vec := true }
  else none

/-- Map 0, opcodes 0x1C to 0x3F. -/
def formMem (op : Nat) : Option BxForm :=
  if 0x1C ≤ op ∧ op ≤ 0x22 then some { rd := true, rs1 := true, second := .either, vec := true }
  else if op = 0x23 then some { rd := true, rs1 := true, second := .either }
  else if op = 0x24 then some { rd := true, rs1 := true, second := .either, vec := true }
  else if 0x25 ≤ op ∧ op ≤ 0x27 then some { rd := true, rs1 := true, second := .either }
  else if op = 0x28 then some { rs1 := true }
  else if op = 0x29 then some { rd := true }
  else if op = 0x2A then some { second := .either }
  else if 0x2B ≤ op ∧ op ≤ 0x34 then some { second := .imm }
  else if op = 0x35 ∨ op = 0x36 then some { rs1 := true }
  else if op = 0x37 then some {}
  else if op = 0x38 then some { rd := true, second := .imm }
  else if op = 0x39 then some { rd := true, rs1 := true, vec := true }
  else if 0x3A ≤ op ∧ op ≤ 0x3C then some { rd := true, second := .imm }
  else if op = 0x3D ∨ op = 0x3E then some { rd := true, rs1 := true }
  else none

/-- Map 1 (Tables 17.5, 18.4). -/
def formExt (op : Nat) : Option BxForm :=
  if op = 0x40 ∨ op = 0x42 ∨ op = 0x43 then some { rs1 := true, second := .either, chk := true, w32 := true }
  else if op = 0x41 then some { rs1 := true, second := .either, chk := true, w32 := true, vec := true }
  else if 0x50 ≤ op ∧ op ≤ 0x56 then some { rd := true, rs1 := true }
  else if op = 0x57 then some { rd := true, rs1 := true, second := .reg }
  else if op = 0x58 ∨ op = 0x6E ∨ op = 0x70 then some { rd := true }
  else if op ∈ [0x60, 0x62, 0x63, 0x64, 0x66, 0x67, 0x6A, 0x6C] then some { rd := true, rs1 := true, second := .either }
  else if op = 0x6F then some { rd := true, rs1 := true, second := .reg }
  else if op = 0x61 ∨ op = 0x65 ∨ op = 0x68 then some { rd := true, rs1 := true }
  else if op = 0x69 ∨ op = 0x6B ∨ op = 0x6D then some { rs1 := true }
  else none

/-- The form of an op byte; none where it is reserved (R381). -/
def bxForm (op : Nat) : Option BxForm := if op < 0x1C then formAlu op else if op < 0x40 then formMem op else formExt op

/-- The opcodes whose immediate is a branch offset. -/
def isBranch (op : Nat) : Bool := (decide (0x2B ≤ op) && decide (op ≤ 0x34)) || op == 0x38

/-- The vector form exists for these fields (Table 18.6, R417): a vector register number below 16 in every position that names one and
no width bits; MULU on 8- to 32-bit lanes; LD8 and ST8 with an immediate. -/
def vecOk (op : Nat) (f : BxFields) : Bool :=
  if 0x1C ≤ op ∧ op ≤ 0x24 then decide (f.rd < 16) && (if op = 0x1C ∨ op = 0x24 then f.i else decide (f.rs2 < 16))
  else decide (f.rs2 < 16) && (op != 0x41 || !(decide (16 ≤ f.rd) && decide (16 ≤ f.rs1)))

/-- Special-register numbers of MFS and MTS; TRAP's code; an even branch offset (R375, R380, Table 17.5). -/
def operandOk (op : Nat) (f : BxFields) : Bool :=
  (op != 0x3D || decide (f.rs1 ≤ 7)) && (op != 0x3E || decide (f.rd ≤ 6)) && (!isBranch op || f.imm.toNat % 2 == 0) &&
  (op != 0x02 || (decide (0x80 ≤ f.imm.toNat) && decide (f.imm.toNat ≤ 0xFF)))

/-- Immediate control fits the form: R378, Table 17.3. -/
def immOk (k : Second) (f : BxFields) : Bool :=
  if f.i then (k == .either || k == .imm) && f.rs2 == 0 && decide (f.isize < 3)
  else k != .imm && f.isize == 0 && f.imm == 0#64 && (f.rs2 == 0 || k == .either || k == .reg)

/-- R380: the fields of a head word and prefix are legal on the opcode. -/
def bxLegal (op : Nat) (f : BxFields) : Bool := match bxForm op with
  | none => false
  | some x =>
    (x.rd || f.rd == 0 || (f.vec && op == 0x41)) && (x.rs1 || f.rs1 == 0) && immOk x.second f && (x.chk || !f.chk) && (x.w32 || !f.w32) &&
    (x.vec || !f.vec) && (!f.vec || vecOk op f) && operandOk op f

/-- Bytes of an immediate of a size code. -/
def immLen (f : BxFields) : Nat := if f.i && f.isize < 3 then 2 * 2 ^ f.isize else 0

/-- An immediate of 2, 4 or 8 bytes, sign-extended (R378). -/
def readImm (isize : Nat) (b : Bytes) : W64 := match isize with
  | 0 => (BitVec.ofNat 16 (leNat b)).signExtend 64
  | 1 => (BitVec.ofNat 32 (leNat b)).signExtend 64
  | _ => BitVec.ofNat 64 (leNat b)

/-- The prefix parcel of fields with a flag set (Table 17.4). -/
def prefixByte (f : BxFields) : Nat := 0xC0 + b1 f.chk + 2 * b1 f.w32 + 4 * b1 f.vec

def hasPrefix (f : BxFields) : Bool := f.chk || f.w32 || f.vec

/-- The head word (Table 17.3). -/
def headWord (op : Nat) (f : BxFields) : Nat :=
  op + f.rd * 2 ^ 8 + f.rs1 * 2 ^ 13 + f.rs2 * 2 ^ 18 + b1 f.i * 2 ^ 23 + f.isize * 2 ^ 24

/-- An instruction's bytes in ascending address order. -/
def bxEncode (op : Nat) (f : BxFields) : Bytes :=
  (if hasPrefix f then leBytes 2 (prefixByte f) else []) ++ leBytes 4 (headWord op f) ++ leBytes (immLen f) f.imm.toNat

/-- A prefix parcel with a flag set, no reserved bit set, and none after it (R379, R380). -/
def prefixOk (p : Nat) : Bool := p / 64 == 3 && p % 64 != 0 && p % 64 / 8 == 0

/-- Fields of a head word, with a prefix parcel's flags. -/
def headFields (p h : Nat) (imm : Bytes) : BxFields :=
  let i := bits h 23 1 == 1
  { chk := p.testBit 0, w32 := p.testBit 1, vec := p.testBit 2, rd := bits h 8 5, rs1 := bits h 13 5, rs2 := bits h 18 5, i := i,
    isize := bits h 24 2, imm := if i then readImm (bits h 24 2) imm else 0#64 }

/-- Bytes of a prefix parcel at the front, 0 or 2. -/
def prefixLen (b : Bytes) : Nat := if u8 b 0 / 64 = 3 then 2 else 0

/-- The decoder (R377 to R381): op byte, fields and length; none for an illegal instruction. -/
def bxDecode (b : Bytes) : Option (Nat × BxFields × Nat) :=
  let k := prefixLen b
  let p := if k = 2 then u16 b 0 else 0
  let h := u32 b k
  let op := h % 256
  let f := headFields p h (slice b (k + 4) (if bits h 23 1 = 1 then 2 * 2 ^ bits h 24 2 else 0))
  if (k = 0 || prefixOk p) && h / 2 ^ 26 == 0 && bxLegal op f then some (op, f, k + 4 + immLen f) else none

end Sys2Proof.Machine
end

