-- ==== Sys2Proof/Machine/Flags.lean ====
section
/-! DEFINITION. Flags.lean: what the Benxis arithmetic, shift, bit-count, compare, multiply and divide instructions compute, with the
five flags (R390 to R395). Values are unsigned integers below 2^w, w being 64, or 32 under W32 (R395). -/

namespace Sys2Proof.Machine

/-- The width of a scalar operation. -/
def opWidth (w32 : Bool) : Nat := if w32 then 32 else 64

/-- The operand bits an operation works on. -/
def lowBits (w : Nat) (v : W64) : Nat := v.toNat % 2 ^ w

/-- A value read as two's complement. -/
def toSigned (w v : Nat) : Int := if v < 2 ^ (w - 1) then (v : Int) else (v : Int) - 2 ^ w

/-- A number cut to `w` bits. -/
def ofSigned (w : Nat) (i : Int) : Nat := (i % 2 ^ w).toNat

/-- The 64-bit value of a result (R395): INT sign-extended, every other tag zero-extended. -/
def widen (w tag v : Nat) : Nat := if tag = tInt then ofSigned 64 (toSigned w v) else v

/-- The five flags (R390). -/
structure Flags where
  z : Bool := false
  n : Bool := false
  c : Bool := false
  ov : Bool := false
  dz : Bool := false
deriving DecidableEq, Repr

/-- FLG bits [4:0]. -/
def Flags.word (x : Flags) : Nat := b1 x.z + 2 * b1 x.n + 4 * b1 x.c + 8 * b1 x.ov + 16 * b1 x.dz

/-- What an operation gives: its value, its flags, and whether a flag or value is left open by R390 to R395. -/
structure Alu where
  val : Nat := 0
  fl : Flags := {}
  drew : Bool := false
deriving DecidableEq, Repr

/-- Z and N of a result; C, OV and DZ clear (R390). -/
def znFlags (w v : Nat) : Flags := { z := v == 0, n := v.testBit (w - 1) }

/-- Signed overflow of an exact result. -/
def overflows (w : Nat) (r : Int) : Bool := decide (r < -(2 ^ (w - 1))) || decide (2 ^ (w - 1) ≤ r)

/-- How an addition or subtraction sets OV and C by its operands' tags (R391): INT sets OV; NAT and the unsigned compare of BYTES set C;
SECRET sets OV (R394), and a carry out of it sets C or not, which is left open; PTR sets neither. -/
def carryFlags (ta tb : Nat) (carry overflow : Bool) (fresh : Nat) : Bool × Bool × Bool :=
  if ta = tSecret ∨ tb = tSecret then (carry && fresh.testBit 0, overflow, carry)
  else if ta = tInt ∧ tb = tInt then (false, overflow, false)
  else if (ta = tNat ∨ ta = tBytes) ∧ (tb = tNat ∨ tb = tBytes) then (carry, false, false)
  else (false, false, false)

/-- Addition modulo 2^w (R391). -/
def aluAdd (w ta tb a b fresh : Nat) : Alu :=
  let v := (a + b) % 2 ^ w
  let k := carryFlags ta tb (decide (2 ^ w ≤ a + b)) (overflows w (toSigned w a + toSigned w b)) fresh
  { val := v, fl := { znFlags w v with c := k.1, ov := k.2.1 }, drew := k.2.2 }

/-- Subtraction modulo 2^w; C is a borrow (R391). -/
def aluSub (w ta tb a b fresh : Nat) : Alu :=
  let v := (a + 2 ^ w - b) % 2 ^ w
  let k := carryFlags ta tb (decide (a < b)) (overflows w (toSigned w a - toSigned w b)) fresh
  { val := v, fl := { znFlags w v with c := k.1, ov := k.2.1 }, drew := k.2.2 }

/-- NEG: the most negative value is kept and sets OV (R391). -/
def aluNeg (w a : Nat) : Alu :=
  let v := (2 ^ w - a) % 2 ^ w
  { val := v, fl := { znFlags w v with ov := a == 2 ^ (w - 1) } }

/-- Bitwise operations and bit counts: C, OV and DZ clear (R390). -/
def aluBits (w v : Nat) : Alu := { val := v, fl := znFlags w v }

/-- SHL by a whole amount (R392). -/
def aluShl (w a n : Nat) : Alu :=
  let v := if n ≤ w then a * 2 ^ n % 2 ^ w else 0
  { val := v, fl := { znFlags w v with c := decide (1 ≤ n) && decide (n ≤ w) && a.testBit (w - n) } }

/-- SHR (R392). -/
def aluShr (w a n : Nat) : Alu :=
  let v := if n ≤ w then a / 2 ^ n else 0
  { val := v, fl := { znFlags w v with c := decide (1 ≤ n) && decide (n ≤ w) && a.testBit (n - 1) } }

/-- SAR (R392): above the width every bit and C are the sign bit. -/
def aluSar (w a n : Nat) : Alu :=
  let v := ofSigned w (toSigned w a / 2 ^ min n w)
  { val := v, fl := { znFlags w v with c := if n = 0 then false else if n ≤ w then a.testBit (n - 1) else a.testBit (w - 1) } }

/-- Rotate left by an amount modulo the width (R392); its C is left open. -/
def aluRol (w a n fresh : Nat) : Alu :=
  let k := n % w
  let v := (a * 2 ^ k + a / 2 ^ (w - k)) % 2 ^ w
  { val := v, fl := { znFlags w v with c := fresh.testBit 0 }, drew := true }

/-- Rotate right: left by the rest of the width. -/
def aluRor (w a n fresh : Nat) : Alu := aluRol w a (w - n % w) fresh

/-- Leading zeros of `w` bits. -/
def clz (v : Nat) : Nat → Nat
  | 0 => 0
  | k + 1 => if v.testBit k then 0 else 1 + clz v k

/-- Trailing zeros of `w` bits, from bit `k`. -/
def ctz (v k : Nat) : Nat → Nat
  | 0 => 0
  | n + 1 => if v.testBit k then 0 else 1 + ctz v (k + 1) n

/-- A product's low and high halves, each `w` bits (R396). -/
structure Halves where
  lo : Nat := 0
  hi : Nat := 0
  fl : Flags := {}
deriving DecidableEq, Repr

/-- MUL, signed, and MULU; flags from the low half (R390). -/
def mulHalves (w : Nat) (signed : Bool) (a b : Nat) : Halves :=
  let p := if signed then ofSigned (2 * w) (toSigned w a * toSigned w b) else a * b
  { lo := p % 2 ^ w, hi := p / 2 ^ w, fl := znFlags w (p % 2 ^ w) }

/-- DIV and DIVU: quotient and remainder as `w`-bit values, flags from the quotient (R390, R393). -/
def divHalves (w : Nat) (signed : Bool) (a b : Nat) : Halves :=
  if b = 0 then { lo := 2 ^ w - 1, hi := a, fl := { znFlags w (2 ^ w - 1) with dz := true } }
  else if signed then
    if a = 2 ^ (w - 1) ∧ b = 2 ^ w - 1 then { lo := a, hi := 0, fl := { znFlags w a with ov := true } }
    else
      let q := ofSigned w ((toSigned w a).tdiv (toSigned w b))
      { lo := q, hi := ofSigned w ((toSigned w a).tmod (toSigned w b)), fl := znFlags w q }
  else { lo := a / b, hi := a % b, fl := znFlags w (a / b) }

/-- One of the two fixed results of R393. -/
def divFixed (w : Nat) (signed : Bool) (a b : Nat) : Bool := b == 0 || (signed && a == 2 ^ (w - 1) && b == 2 ^ w - 1)

/-- CTLT's order: signed for INT, unsigned for NAT and BYTES; for SECRET the two orders may differ, and then it is left open. -/
def ctLess (w tag a b fresh : Nat) : Bool × Bool :=
  let s := decide (toSigned w a < toSigned w b)
  let u := decide (a < b)
  if tag = tInt then (s, false) else if tag = tSecret ∧ s ≠ u then (fresh.testBit 0, true) else if tag = tSecret then (s, false) else (u, false)

/-- All ones or 0 of `w` bits. -/
def mask01 (w : Nat) (b : Bool) : Nat := if b then 2 ^ w - 1 else 0

/-- CSEL: rs1 where the mask is 1, rs2 where it is 0 (Table 17.5). -/
def cselBits (w m a b : Nat) : Nat := (a &&& m) ||| (b &&& ((2 ^ w - 1) ^^^ m))

/-- ANDN and NOT within `w` bits. -/
def andnBits (w a b : Nat) : Nat := a &&& ((2 ^ w - 1) ^^^ b)

/-! ## Conditions of the branches (Table 17.5) -/

def flagZ (g : Nat) : Bool := g.testBit 0
def flagN (g : Nat) : Bool := g.testBit 1
def flagC (g : Nat) : Bool := g.testBit 2
def flagOv (g : Nat) : Bool := g.testBit 3
def flagDz (g : Nat) : Bool := g.testBit 4

end Sys2Proof.Machine
end

