-- ==== Sys2Proof/Machine/Operands.lean ====
section
/-! DEFINITION. Operands.lean: the operand forms of Benxis instructions and the tag rules of R382 to R384 (Tables 17.6, 17.7). -/

namespace Sys2Proof.Machine

/-- A trap's cause and info words (R399): code, register number, operand position (0 rd, 1 rs1, 2 rs2), info. -/
structure Trap where
  code : Nat := 1
  reg : Nat := 0
  pos : Nat := 0
  info : Nat := 0
deriving DecidableEq, Repr

/-- The cause word of the trap frame. -/
def Trap.cause (t : Trap) : Nat := t.code + t.reg * 2 ^ 8 + t.pos * 2 ^ 13

/-- An operand with the place it comes from. -/
structure Opd where
  x : TW := {}
  reg : Nat := 0
  pos : Nat := 1
deriving DecidableEq, Repr

/-- The trap an operand causes. -/
def Opd.trap (o : Opd) (code : Nat) : Trap := { code := code, reg := o.reg, pos := o.pos }

/-- A general register. -/
def regW (c : Core) (r : Nat) : TW := smGet {} c.w r

def opRd (c : Core) (f : BxFields) : Opd := { x := regW c f.rd, reg := f.rd, pos := 0 }
def opRs1 (c : Core) (f : BxFields) : Opd := { x := regW c f.rs1, reg := f.rs1, pos := 1 }

/-- The second source: rs2, or the immediate under the tag that makes the pair valid (R384). -/
def opRs2 (c : Core) (f : BxFields) (immTag : Nat → Nat) : Opd :=
  if f.i then { x := { d := f.imm, tag := if (regW c f.rs1).tag = tSecret then tInt else immTag (regW c f.rs1).tag }, reg := 0, pos := 2 }
  else { x := regW c f.rs2, reg := f.rs2, pos := 2 }

/-! ## Acceptance by tag (Table 17.7): for tags POISON to SECRET, 0 where the entry is no trap code -/

abbrev Accept := List Nat

def accArith : Accept := [4, 0, 0, 5, 0, 5, 5, 0]
def accNeg : Accept := [4, 0, 5, 5, 5, 5, 5, 0]
def accLogic : Accept := [4, 0, 0, 0, 5, 5, 5, 0]
def accAmount : Accept := [4, 0, 0, 5, 5, 5, 5, 0]
def accCount : Accept := [4, 0, 0, 0, 5, 5, 5, 0]
def accMulS : Accept := [4, 0, 5, 5, 5, 5, 5, 0]
def accMulU : Accept := [4, 5, 0, 5, 5, 5, 5, 0]
def accCmp : Accept := [4, 0, 0, 0, 0, 0, 0, 7]
def accTarget : Accept := [4, 5, 5, 5, 5, 0, 5, 6]
def accBase : Accept := [4, 5, 5, 5, 0, 5, 5, 6]
def accIndex : Accept := [4, 0, 0, 5, 5, 5, 5, 6]
def accSub : Accept := [0, 0, 0, 0, 5, 5, 5, 0]
def accAny : Accept := [0, 0, 0, 0, 0, 0, 0, 0]
def accAsNat : Accept := [4, 0, 0, 0, 0, 0, 0, 0]
def accMkptr : Accept := [4, 5, 0, 5, 5, 5, 5, 6]
def accMkhandle : Accept := [4, 5, 0, 0, 5, 5, 5, 6]
def accDeclassKey : Accept := [4, 5, 5, 5, 5, 5, 0, 6]
def accDeclassValue : Accept := [4, 5, 5, 5, 5, 5, 5, 0]
/-- A conditional branch's FLG; the tags FLG does not carry by R390 answer as the other rows do (DEDUCED, log entry 28). -/
def accFlg : Accept := [4, 5, 0, 5, 5, 5, 5, 6]
/-- Runtime operands named NAT, and named PTR (R413). -/
def accNat : Accept := [4, 5, 0, 5, 5, 5, 5, 6]
def accPtr : Accept := [4, 5, 5, 5, 0, 5, 5, 6]
/-- The value of FPUT (R412). -/
def accFput : Accept := [5, 0, 0, 0, 5, 5, 5, 0]

/-- Entry of a tag. -/
def entry (a : Accept) (t : Nat) : Nat := a.getD t 3

/-- Rule 1 of R384 for one operand: a reserved tag. -/
def reservedTag (o : Opd) : Except Trap Unit := if 8 ≤ o.x.tag then .error (o.trap 3) else .ok ()

/-- One operand against its row of Table 17.7. -/
def check1 (a : Accept) (o : Opd) : Except Trap Unit := do
  reservedTag o
  if entry a o.x.tag ≠ 0 then .error (o.trap (entry a o.x.tag)) else .ok ()

def isPublicRef (t : Nat) : Bool := t == tPtr || t == tCode || t == tHandle

/-- R384: two sources against their rows, with the pairs the group takes; the result's tag. -/
def check2 (ga gb : Accept) (pair : Nat → Nat → Option Nat) (a b : Opd) : Except Trap Nat := do
  reservedTag a
  reservedTag b
  if a.x.tag = tPoison ∧ entry ga 0 ≠ 0 then .error (a.trap (entry ga 0))
  else if b.x.tag = tPoison ∧ entry gb 0 ≠ 0 then .error (b.trap (entry gb 0))
  else if a.x.tag = tSecret ∧ isPublicRef b.x.tag = true then .error (a.trap 6)
  else if b.x.tag = tSecret ∧ isPublicRef a.x.tag = true then .error (b.trap 6)
  else if a.x.tag = tSecret ∨ b.x.tag = tSecret then
    if a.x.tag = tSecret ∧ entry ga 7 ≠ 0 then .error (a.trap (entry ga 7))
    else if b.x.tag = tSecret ∧ entry gb 7 ≠ 0 then .error (b.trap (entry gb 7))
    else .ok tSecret
  else if entry ga a.x.tag ≠ 0 then .error (a.trap (entry ga a.x.tag))
  else if entry gb b.x.tag ≠ 0 then .error (b.trap (entry gb b.x.tag))
  else match pair a.x.tag b.x.tag with
    | some t => .ok t
    | none => .error (b.trap 5)

/-! ## Pairs of public tags (R384 rule 4, Table 17.7) -/

def isInt (t : Nat) : Bool := t == tInt || t == tNat

def pairSame (a b : Nat) : Option Nat := if a = b then some a else none
def pairAdd (a b : Nat) : Option Nat :=
  if a = b then (if a = tPtr then none else some a)
  else if (a = tPtr ∧ isInt b = true) ∨ (b = tPtr ∧ isInt a = true) then some tPtr else none
def pairSub (a b : Nat) : Option Nat :=
  if a = b then (if a = tPtr then some tInt else some a) else if a = tPtr ∧ isInt b = true then some tPtr else none
def pairBits (a b : Nat) : Option Nat :=
  if a = b then some a else if (a = tBytes ∧ isInt b = true) ∨ (b = tBytes ∧ isInt a = true) then some tBytes else none
def pairShift (a b : Nat) : Option Nat := if isInt b then some a else none
def pairAddr (a b : Nat) : Option Nat := if a = tPtr ∧ isInt b = true then some tPtr else none

/-- Tag of an immediate beside rs1 of a tag (R384). -/
def immSame (t : Nat) : Nat := t
def immArith (t : Nat) : Nat := if t = tPtr then tInt else t
def immInt (_ : Nat) : Nat := tInt
def immNat (_ : Nat) : Nat := tNat

/-- Tag of FLG after an instruction with these sources (R390). -/
def flgTag (secret : Bool) : Nat := if secret then tSecret else tNat

/-- An instruction's outcome on its core: the core with the PC still at the instruction, where the PC goes if not to the next
instruction, and whether it used the free value it was given. -/
structure Done where
  core : Core
  next : Option W64 := none
  drew : Bool := false
deriving DecidableEq, Repr

/-- One instruction on one core: it completes in full or traps before changing anything (R374). -/
abbrev BxRes := Except Trap Done

/-- A general register written and nothing else. -/
def wr (c : Core) (r : Nat) (x : TW) : BxRes := .ok { core := { c with w := smSet {} c.w r x } }

/-- A result and its flags written (R390). -/
def wrAlu (c : Core) (r tag w : Nat) (secret : Bool) (a : Alu) : BxRes :=
  .ok { core := { c with w := smSet {} c.w r (mkTW tag (widen w tag a.val)), flg := mkTW (flgTag secret) a.fl.word }, drew := a.drew }

end Sys2Proof.Machine
end

