-- ==== Sys2Proof/Machine/BxOps.lean ====
section
/-! DEFINITION. BxOps.lean: what every Benxis instruction shares: the fetch (R380), the trap entry (R399 to R401), addresses in local memory
(R385, R398), and the run of one instruction on a core (R374). -/

namespace Sys2Proof.Machine

/-! ## Fetch (R377, R380) -/

/-- What a core finds at its PC. -/
inductive Fetch where
  | trap (t : Trap)
  | found (op : Nat) (f : BxFields) (len : Nat)
deriving DecidableEq, Repr

/-- Every word of a range of local memory can be fetched; the trap of the first that cannot. -/
def codeFault (c : Core) (a len : Nat) : Option Trap :=
  if 2 ^ 20 < a + len then some { code := 0x0B, info := max a (2 ^ 20) }
  else ((wordsTouched a len).find? fun i => (smGet {} c.mem i).tag != tCode).map fun i => { code := 0x02, info := max a (8 * i) }

/-- The instruction at the PC, or the trap of its fetch: its words are read as its parts need them. -/
def fetch (c : Core) : Fetch :=
  let a := c.pc.toNat
  match codeFault c a 2 with
  | some t => .trap t
  | none =>
    let k := prefixLen (memRead c.mem a 2)
    match codeFault c a (k + 4) with
    | some t => .trap t
    | none =>
      let h := u32 (memRead c.mem (a + k) 4) 0
      let n := if bits h 23 1 = 1 ∧ bits h 24 2 < 3 then 2 * 2 ^ bits h 24 2 else 0
      match codeFault c a (k + 4 + n) with
      | some t => .trap t
      | none => match bxDecode (memRead c.mem a (k + 4 + n)) with
        | some (op, f, len) => .found op f len
        | none => .trap { code := 0x01 }

/-! ## Addresses (R385, R398) -/

/-- A byte of the range lies in the return stack's spill area. -/
def inSpill (c : Core) (a n : Nat) : Bool := areasMeet (a, n) (c.spillAt, c.spillLen)

/-- Why an access of `n` bytes at an address traps before its word is looked at. -/
def addrFault (c : Core) (a n : Nat) : Option Trap :=
  if a % n ≠ 0 then some { code := 0x0C, info := a }
  else if 2 ^ 20 < a + n || inSpill c a n then some { code := 0x0B, info := a }
  else none

/-- The address of an access, checked. -/
def checkAddr (c : Core) (a n : Nat) : Except Trap Unit := match addrFault c a n with
  | some t => .error t
  | none => .ok ()

/-- A whole word stored, unless a CODE word stands there (R385). -/
def storeWord (c : Core) (a : Nat) (x : TW) : Except Trap Core := do
  checkAddr c a 8
  if (memWord c.mem a).tag = tCode then .error { code := 0x0D, info := a } else .ok { c with mem := smSet {} c.mem (a / 8) x }

/-- A whole word loaded with its tag. -/
def loadWord (c : Core) (a : Nat) : Except Trap TW := do
  checkAddr c a 8
  if 8 ≤ (memWord c.mem a).tag then .error { code := 0x03 } else .ok (memWord c.mem a)

/-! ## Trap entry (R399, R401) -/

/-- The frame as it is pushed: FLG at the lowest address, the instruction's address at the highest. -/
def trapFrame (c : Core) (t : Trap) : List TW := [c.flg, mkTW tNat t.info, mkTW tNat t.cause, { d := c.pc, tag := tCode }]

/-- Words written from an address upwards. -/
def putWords (m : SMap TW) (a : Nat) : List TW → SMap TW
  | [] => m
  | x :: r => putWords (smSet {} m (a / 8) x) (a + 8) r

/-- The frame's four words cannot be pushed: they would cross ds_low, or the words are not ones a push can write. -/
def frameBlocked (c : Core) : Bool :=
  let a := c.dsp.d.toNat
  decide (a < c.dsLow + 32) || a % 8 != 0 || decide (2 ^ 20 < a) || inSpill c (a - 32) 32 ||
  (wordsTouched (a - 32) 32).any fun i => (smGet {} c.mem i).tag == tCode

/-- The trap cannot be taken: the core stops with a double trap. -/
def doubleTrap (c : Core) : Bool := c.trapActive || c.trapVec.isNone || frameBlocked c

/-- The core in its handler. -/
def trappedCore (c : Core) (t : Trap) : Core :=
  let a := c.dsp.d.toNat - 32
  { c with mem := putWords c.mem a (trapFrame c t), dsp := mkTW tPtr a, trapActive := true, pc := BitVec.ofNat 64 (c.trapVec.getD 0),
           lastCode := t.code, traps := satAdd 0xFFFF c.traps 1 }

/-- A trap on a core: the handler is entered, or the core stops with a double trap. -/
def enterTrap (s : State) (n : Nat) (t : Trap) : State :=
  if doubleTrap (coreAt s n) then
    stopCore (modCore s n fun c => { c with double := true, lastCode := t.code, traps := satAdd 0xFFFF c.traps 1 }) n
  else modCore s n fun c => trappedCore c t

/-! ## The run of one instruction (R374, R402) -/

/-- The core takes its next instruction: RUNNING, no WAIT in progress, its shed on; or HALTED with a debug session that reaches it, whose
step this then is (R115; DEDUCED, log entry 114). -/
def coreTakes (s : State) (n : Nat) : Bool :=
  ((coreAt s n).state == 2 || ((coreAt s n).state == 3 && debugReaches s n)) && (coreAt s n).waiting.isNone && shedAt s (coreShed n) == 2 &&
    !s.en.flushActive

/-- A VEC instruction powers the vector unit (R422). -/
def vecPower (c : Core) (f : BxFields) : Core := if f.vec then { c with vecUp := true } else c

/-- Run instruction `op` with fields `f` when it is what the core fetches (log entry 26): nothing happens when it is not; a fetch that
traps, traps. -/
def withFetch (s : State) (n op : Nat) (f : BxFields) (g : Nat → State) : State :=
  if !coreTakes s n then s
  else match fetch (coreAt s n) with
    | .trap t => enterTrap s n t
    | .found op' f' len => if op' = op ∧ f' = f then g len else s

/-- The core after an instruction that completed. -/
def retire (c : Core) (f : BxFields) (len : Nat) (d : Done) : Core :=
  vecPower { d.core with pc := d.next.getD (c.pc + BitVec.ofNat 64 len) } f

/-- An instruction of the core alone. -/
def runCore (s : State) (n op : Nat) (f : BxFields) (g : Core → Nat → Nat → BxRes) : State :=
  withFetch s n op f fun len => match g (coreAt s n) len (Config.freeValue s.freeCtr) with
    | .error t => enterTrap s n t
    | .ok d =>
      let s1 := putCore s n (retire (coreAt s n) f len d)
      if d.drew then { s1 with freeCtr := s1.freeCtr + 1 } else s1

/-- An instruction that reaches beyond its core: what it gives is the state with the PC still at the instruction, and the PC then moves
past it. -/
def runPart (s : State) (n op : Nat) (f : BxFields) (g : State → Core → Except Trap State) : State :=
  withFetch s n op f fun len => match g s (coreAt s n) with
    | .error t => enterTrap s n t
    | .ok s1 => modCore s1 n fun c => { c with pc := c.pc + BitVec.ofNat 64 len }

/-- A result written to rd of a core in a state. -/
def writeRd (s : State) (n r : Nat) (x : TW) : State := modCore s n fun c => setReg c r x

end Sys2Proof.Machine
end

