-- ==== Sys2Proof/Machine/BxVec.lean ====
section
/-! DEFINITION. BxVec.lean: the vector forms of Benxis instructions (R417 to R421, Table 18.6). -/

namespace Sys2Proof.Machine

/-- A vector register. -/
def regV (c : Core) (r : Nat) : VReg := smGet {} c.v (r % 16)

/-- Lane width in bits of a lane-arithmetic form (R417). -/
def laneWidth (f : BxFields) : Nat := 8 * 2 ^ (f.rd / 16 * 2 + f.rs1 / 16)

/-- Lane `i` of `w` bits. -/
def vlane (x : BitVec 128) (w i : Nat) : Nat := x.toNat / 2 ^ (w * i) % 2 ^ w

/-- A register from its lanes of `w` bits. -/
def ofLanes (w : Nat) (l : List Nat) : BitVec 128 := BitVec.ofNat 128 (l.foldr (fun v acc => v % 2 ^ w + 2 ^ w * acc) 0)

/-- A vector register as an operand. -/
def vOpd (c : Core) (r pos : Nat) : Opd := { x := { tag := (regV c r).tag }, reg := r % 16, pos := pos }

/-- Lanes of the second source: a register, or the immediate cut to the lane width in every vlane (R417). -/
def secondLane (c : Core) (f : BxFields) (w i : Nat) : Nat := if f.i then f.imm.toNat % 2 ^ w else vlane (regV c f.rs2).d w i

/-- The second source's tag (R384, R418). -/
def secondOpd (c : Core) (f : BxFields) (immTag : Nat → Nat) : Opd :=
  if f.i then { x := { tag := if (regV c f.rs1).tag = tSecret then tInt else immTag (regV c f.rs1).tag }, reg := 0, pos := 2 } else vOpd c f.rs2 2

/-- A vector register written. Under W32, whose effect on lanes the manual does not give, the register's bits are open (log entry 29). -/
def wrV (c : Core) (f : BxFields) (x : BitVec 128) (tag fresh : Nat) (drew : Bool) : BxRes :=
  .ok { core := { c with v := smSet {} c.v (f.rd % 16) { d := if f.w32 then BitVec.ofNat 128 fresh else x, tag := tag } }, drew := drew || f.w32 }

/-- What a lane operation computes from the operand tags, the lane width, the two lanes and the free value: as the scalar one does. -/
abbrev LaneOp := (tag w a b fresh : Nat) → Alu

/-- A lane operation on two sources (R417, R418): CHK traps where a lane's overflow or carry would (R391), never by a SECRET value (R394). -/
def vecTwo (c : Core) (f : BxFields) (fresh : Nat) (ga gb : Accept) (pair : Nat → Nat → Option Nat) (immTag : Nat → Nat) (g : LaneOp) : BxRes := do
  let tag ← check2 ga gb pair (vOpd c f.rs1 1) (secondOpd c f immTag)
  let w := laneWidth f
  let out := (List.range (128 / w)).map fun i => g tag w (vlane (regV c f.rs1).d w i) (secondLane c f w i) (fresh / 2 ^ i)
  if f.chk && tag != tSecret && out.any (fun a => a.fl.ov || a.fl.c) then .error { code := 0x09 }
  else wrV c f (ofLanes w (out.map (·.val))) tag fresh (tag == tSecret && out.any (·.drew))

/-- NOT and MOV on lanes. -/
def vecNot (c : Core) (f : BxFields) (fresh : Nat) : BxRes := do
  check1 accLogic (vOpd c f.rs1 1)
  wrV c f (~~~(regV c f.rs1).d) (regV c f.rs1).tag fresh false

def vecMov (c : Core) (f : BxFields) (fresh : Nat) : BxRes := do
  check1 [0, 0, 0, 0, 5, 5, 5, 0] (vOpd c f.rs1 1)
  wrV c f (regV c f.rs1).d (regV c f.rs1).tag fresh false

/-- CSEL on lanes: the mask is rd. -/
def vecCsel (c : Core) (f : BxFields) (fresh : Nat) : BxRes := do
  let tag ← check2 accLogic accLogic pairSame (vOpd c f.rs1 1) (secondOpd c f immSame)
  check1 accLogic (vOpd c f.rd 0)
  let w := laneWidth f
  let out := (List.range (128 / w)).map fun i => cselBits w (vlane (regV c f.rd).d w i) (vlane (regV c f.rs1).d w i) (secondLane c f w i)
  wrV c f (ofLanes w out) (if (regV c f.rd).tag = tSecret then tSecret else tag) fresh false

/-! ## Vector loads and stores (R417 to R421) -/

/-- R418: the tag of a register that holds bytes of words with these tags. -/
def combineTags (l : List Nat) : Nat :=
  if l.any (· == tPoison) then tPoison
  else if l.any (· == tSecret) then tSecret
  else match l with
    | [] => tBytes
    | t :: r => if r.all (· == t) then t else tBytes

/-- One element: the bits and the word's tag, or the trap of its scalar load. -/
def loadElement (c : Core) (a n : Nat) : Except Trap (Nat × Nat) := do
  checkAddr c a n
  let x := memWord c.mem a
  if 8 ≤ x.tag then .error { code := 0x03 }
  else if isPublicRef x.tag then .error { code := 0x05 }
  else .ok (leNat (slice (twBytes x) (a % 8) n), x.tag)

/-- Element addresses: contiguous from rs1 + immediate, or gathered by the lanes of v rs2, unsigned. -/
def elementAddrs (c : Core) (f : BxFields) (n : Nat) : List Nat :=
  (List.range (16 / n)).map fun e =>
    if f.i then ((regW c f.rs1).d + f.imm + BitVec.ofNat 64 (e * n)).toNat
    else ((regW c f.rs1).d + BitVec.ofNat 64 (vlane (regV c f.rs2).d (8 * n) e * n)).toNat

/-- Elements in order up to the first fault. -/
def loadElements (c : Core) (n : Nat) : List Nat → List (Nat × Nat) × Option Trap
  | [] => ([], none)
  | a :: r => match loadElement c a n with
    | .error t => ([], some t)
    | .ok x => let rest := loadElements c n r; (x :: rest.1, rest.2)

/-- The base and the index of a vector load against their rows (R419). -/
def vecAddrCheck (c : Core) (f : BxFields) : Except Trap Nat :=
  check2 accBase accIndex pairAddr (opRs1 c f) (if f.i then { x := { tag := tInt }, reg := 0, pos := 2 } else vOpd c f.rs2 2)

/-- A plain vector load: any element's fault is the scalar load's trap (R421). -/
def vecLoad (c : Core) (f : BxFields) (n : Nat) : BxRes := do
  let _ ← vecAddrCheck c f
  let r := loadElements c n (elementAddrs c f n)
  match r.2 with
  | some t => .error t
  | none => .ok { core := { c with v := smSet {} c.v (f.rd % 16) { d := ofLanes (8 * n) (r.1.map Prod.fst), tag := combineTags (r.1.map Prod.snd) } } }

/-- A first-fault vector load (R420). -/
def vecFirstFault (c : Core) (f : BxFields) (n : Nat) : BxRes := do
  let _ ← vecAddrCheck c f
  let l := elementAddrs c f n
  let r := loadElements c n l
  let k := r.1.length
  let old := regV c f.rd
  if k = 0 then .error { code := 0x11, info := l.headD 0 }
  else
    let kept := ((List.range (16 / n)).drop k).map fun i => vlane old.d (8 * n) i
    let tags := r.1.map Prod.snd ++ (if k < 16 / n then [old.tag] else [])
    .ok { core := { c with v := smSet {} c.v (f.rd % 16) { d := ofLanes (8 * n) (r.1.map Prod.fst ++ kept), tag := combineTags tags },
                           vff := mkTW tNat k } }

/-- ST8 of a vector register: 16 bytes, both words taking its tag. -/
def vecStore (c : Core) (f : BxFields) : BxRes := do
  let _ ← check2 accBase accIndex pairAddr (opRs1 c f) { x := { tag := tInt }, reg := 0, pos := 2 }
  let a := ((regW c f.rs1).d + f.imm).toNat
  let x := regV c f.rd
  checkAddr c a 16
  let c1 ← storeWord c a { d := BitVec.ofNat 64 (vlane x.d 64 0), tag := x.tag }
  let c2 ← storeWord c1 (a + 8) { d := BitVec.ofNat 64 (vlane x.d 64 1), tag := x.tag }
  .ok { core := c2 }

end Sys2Proof.Machine
end

