-- ==== Sys2Proof/Machine/BxAlu.lean ====
section
/-! DEFINITION. BxAlu.lean: the arithmetic and logic, shift, bit-count, compare, select, multiply, divide and tag instructions of Benxis
(R383, R384, R388 to R396, Table 17.5 maps 0 and 1). -/

namespace Sys2Proof.Machine

/-- A trap on value under CHK (R391, R394): never by a SECRET operand. -/
def chkTrap (f : BxFields) (tag : Nat) (a : Alu) : Bool := f.chk && tag != tSecret && (a.fl.ov || a.fl.c)

/-- A scalar operation on two sources; the tag of its result, its width and the free value reach what it computes. -/
def scalarTwo (c : Core) (f : BxFields) (fresh : Nat) (ga gb : Accept) (pair : Nat → Nat → Option Nat) (immTag : Nat → Nat)
    (g : (tag w ta tb a b fresh : Nat) → Alu) : BxRes := do
  let x := opRs1 c f
  let y := opRs2 c f immTag
  let tag ← check2 ga gb pair x y
  let w := opWidth f.w32
  let a := g tag w x.x.tag y.x.tag (lowBits w x.x.d) (lowBits w y.x.d) fresh
  if chkTrap f tag a then .error { code := 0x09 } else wrAlu c f.rd tag w (tag == tSecret) a

/-- A PTR result under W32, whose upper half R395 does not give: those bits are open (log entry 29). -/
def ptrUpper (tag w fresh : Nat) (a : Alu) : Alu :=
  if tag = tPtr ∧ w = 32 then { a with val := a.val + 2 ^ 32 * (fresh % 2 ^ 32), drew := true } else a

/-- An operation whose result is one source under a unary group, or a count with a tag of its own. -/
def scalarOne (c : Core) (f : BxFields) (ga : Accept) (tagOf : Nat → Nat) (g : (w a : Nat) → Alu) : BxRes := do
  let x := opRs1 c f
  check1 ga x
  let w := opWidth f.w32
  let a := g w (lowBits w x.x.d)
  let tag := if x.x.tag = tSecret then tSecret else tagOf x.x.tag
  if chkTrap f tag a then .error { code := 0x09 } else wrAlu c f.rd tag w (tag == tSecret) a

/-! ## Arithmetic and logic (R390, R391) -/

def bxAdd (c : Core) (f : BxFields) (fresh : Nat) : BxRes :=
  if f.vec then vecTwo c f fresh accArith accArith pairAdd immArith fun t w a b x => { aluAdd w t t a b x with drew := false }
  else scalarTwo c f fresh accArith accArith pairAdd immArith fun t w ta tb a b x => ptrUpper t w x (aluAdd w ta tb a b x)

def bxSub (c : Core) (f : BxFields) (fresh : Nat) : BxRes :=
  if f.vec then vecTwo c f fresh accArith accArith pairSub immArith fun t w a b x => { aluSub w t t a b x with drew := false }
  else scalarTwo c f fresh accArith accArith pairSub immArith fun t w ta tb a b x => ptrUpper t w x (aluSub w ta tb a b x)

/-- A bitwise operation on two sources. -/
def bxBits (c : Core) (f : BxFields) (fresh : Nat) (g : Nat → Nat → Nat → Nat) : BxRes :=
  if f.vec then vecTwo c f fresh accLogic accLogic pairBits immSame fun _ w a b _ => aluBits w (g w a b)
  else scalarTwo c f fresh accLogic accLogic pairBits immSame fun _ w _ _ a b _ => aluBits w (g w a b)

/-- A shift or rotate: the amount is the whole second source (R392). -/
def bxShift (c : Core) (f : BxFields) (fresh : Nat) (g : Nat → Nat → Nat → Nat → Alu) : BxRes :=
  if f.vec then vecTwo c f fresh accLogic accAmount pairShift immInt fun _ w a b x => g w a b x
  else scalarTwo c f fresh accLogic accAmount pairShift immInt fun _ w _ _ a b x => g w a b x

def execBxAdd (core : Nat) (f : BxFields) (s : State) : Host.Outcome State Fault Refusal := .next (runCore s core 0x08 f fun c _ x => bxAdd c f x)

def execBxSub (core : Nat) (f : BxFields) (s : State) : Host.Outcome State Fault Refusal := .next (runCore s core 0x09 f fun c _ x => bxSub c f x)

def execBxNeg (core : Nat) (f : BxFields) (s : State) : Host.Outcome State Fault Refusal :=
  .next (runCore s core 0x0A f fun c _ _ => scalarOne c f accNeg (fun t => t) aluNeg)

def execBxAnd (core : Nat) (f : BxFields) (s : State) : Host.Outcome State Fault Refusal :=
  .next (runCore s core 0x0B f fun c _ x => bxBits c f x fun _ a b => a &&& b)

def execBxOr (core : Nat) (f : BxFields) (s : State) : Host.Outcome State Fault Refusal :=
  .next (runCore s core 0x0C f fun c _ x => bxBits c f x fun _ a b => a ||| b)

def execBxXor (core : Nat) (f : BxFields) (s : State) : Host.Outcome State Fault Refusal :=
  .next (runCore s core 0x0D f fun c _ x => bxBits c f x fun _ a b => a ^^^ b)

/-- ANDN: rs1 AND NOT the second source. -/
def execBxAndn (core : Nat) (f : BxFields) (s : State) : Host.Outcome State Fault Refusal :=
  .next (runCore s core 0x0E f fun c _ x => bxBits c f x andnBits)

def execBxNot (core : Nat) (f : BxFields) (s : State) : Host.Outcome State Fault Refusal :=
  .next (runCore s core 0x0F f fun c _ x =>
    if f.vec then vecNot c f x else scalarOne c f accLogic (fun t => t) fun w a => aluBits w (andnBits w (2 ^ w - 1) a))

/-! ## Shift and bit count (R392) -/

def execBxShl (core : Nat) (f : BxFields) (s : State) : Host.Outcome State Fault Refusal :=
  .next (runCore s core 0x10 f fun c _ x => bxShift c f x fun w a n _ => aluShl w a n)

def execBxShr (core : Nat) (f : BxFields) (s : State) : Host.Outcome State Fault Refusal :=
  .next (runCore s core 0x11 f fun c _ x => bxShift c f x fun w a n _ => aluShr w a n)

def execBxSar (core : Nat) (f : BxFields) (s : State) : Host.Outcome State Fault Refusal :=
  .next (runCore s core 0x12 f fun c _ x => bxShift c f x fun w a n _ => aluSar w a n)

def execBxRol (core : Nat) (f : BxFields) (s : State) : Host.Outcome State Fault Refusal :=
  .next (runCore s core 0x13 f fun c _ x => bxShift c f x aluRol)

def execBxRor (core : Nat) (f : BxFields) (s : State) : Host.Outcome State Fault Refusal :=
  .next (runCore s core 0x14 f fun c _ x => bxShift c f x aluRor)

def execBxClz (core : Nat) (f : BxFields) (s : State) : Host.Outcome State Fault Refusal :=
  .next (runCore s core 0x15 f fun c _ _ => scalarOne c f accCount (fun _ => tNat) fun w a => aluBits w (clz a w))

def execBxCtz (core : Nat) (f : BxFields) (s : State) : Host.Outcome State Fault Refusal :=
  .next (runCore s core 0x16 f fun c _ _ => scalarOne c f accCount (fun _ => tNat) fun w a => aluBits w (ctz a 0 w))

def execBxPopc (core : Nat) (f : BxFields) (s : State) : Host.Outcome State Fault Refusal :=
  .next (runCore s core 0x17 f fun c _ _ => scalarOne c f accCount (fun _ => tNat) fun w a => aluBits w (countBits a w))

/-! ## Compare and constant-time select -/

/-- CMP: the flags of rs1 − rs2; Z alone for HANDLE and CODE (R390). -/
def bxCmp (c : Core) (f : BxFields) (fresh : Nat) : BxRes := do
  let x := opRs1 c f
  let y := opRs2 c f immSame
  let tag ← check2 accCmp accCmp pairSame x y
  let w := opWidth f.w32
  let r := aluSub w x.x.tag y.x.tag (lowBits w x.x.d) (lowBits w y.x.d) fresh
  let fl : Flags := if tag = tHandle ∨ tag = tCode then { z := r.fl.z } else r.fl
  .ok { core := { c with flg := mkTW tNat fl.word } }

def execBxCmp (core : Nat) (f : BxFields) (s : State) : Host.Outcome State Fault Refusal := .next (runCore s core 0x18 f fun c _ x => bxCmp c f x)

/-- A constant-time instruction writes rd and leaves FLG (R390). -/
def ctWrite (c : Core) (f : BxFields) (tag w v : Nat) (drew : Bool) : BxRes :=
  .ok { core := { c with w := smSet {} c.w f.rd (mkTW tag (widen w tag v)) }, drew := drew }

def bxCteq (c : Core) (f : BxFields) (fresh : Nat) : BxRes :=
  if f.vec then vecTwo c f fresh accLogic accLogic pairSame immSame fun _ w a b _ => { val := mask01 w (a == b) }
  else do
    let x := opRs1 c f
    let y := opRs2 c f immSame
    let tag ← check2 accLogic accLogic pairSame x y
    let w := opWidth f.w32
    ctWrite c f tag w (mask01 w (lowBits w x.x.d == lowBits w y.x.d)) false

def bxCtlt (c : Core) (f : BxFields) (fresh : Nat) : BxRes :=
  if f.vec then
    vecTwo c f fresh accLogic accLogic pairSame immSame fun t w a b x => { val := mask01 w (ctLess w t a b x).1, drew := (ctLess w t a b x).2 }
  else do
    let x := opRs1 c f
    let y := opRs2 c f immSame
    let tag ← check2 accLogic accLogic pairSame x y
    let w := opWidth f.w32
    let r := ctLess w tag (lowBits w x.x.d) (lowBits w y.x.d) fresh
    ctWrite c f tag w (mask01 w r.1) r.2

def bxCsel (c : Core) (f : BxFields) (fresh : Nat) : BxRes :=
  if f.vec then vecCsel c f fresh
  else do
    let x := opRs1 c f
    let y := opRs2 c f immSame
    let tag ← check2 accLogic accLogic pairSame x y
    check1 accLogic (opRd c f)
    let w := opWidth f.w32
    let t := if (regW c f.rd).tag = tSecret then tSecret else tag
    ctWrite c f t w (cselBits w (lowBits w (regW c f.rd).d) (lowBits w x.x.d) (lowBits w y.x.d)) false

def execBxCteq (core : Nat) (f : BxFields) (s : State) : Host.Outcome State Fault Refusal := .next (runCore s core 0x19 f fun c _ x => bxCteq c f x)

def execBxCtlt (core : Nat) (f : BxFields) (s : State) : Host.Outcome State Fault Refusal := .next (runCore s core 0x1A f fun c _ x => bxCtlt c f x)

def execBxCsel (core : Nat) (f : BxFields) (s : State) : Host.Outcome State Fault Refusal := .next (runCore s core 0x1B f fun c _ x => bxCsel c f x)

/-! ## Multiply and divide (R393 to R396) -/

/-- Results of the multiplier that have landed. -/
def landMul (c : Core) : Core := match c.mul with
  | some r => { c with mlo := r.lo, mhi := r.hi, mul := none }
  | none => c

/-- Results of the divider that have landed. -/
def landDiv (c : Core) : Core := match c.div with
  | some r => { c with quo := r.lo, rem := r.hi, div := none }
  | none => c

/-- A product starts: the results land later; an operation the unit is busy with lands first (R396). -/
def startMul (c : Core) (f : BxFields) (ga : Accept) (signed : Bool) : BxRes := do
  let x := opRs1 c f
  let y := opRs2 c f immSame
  let tag ← check2 ga ga pairSame x y
  let w := opWidth f.w32
  let h := mulHalves w signed (lowBits w x.x.d) (lowBits w y.x.d)
  .ok { core := { landMul c with mul := some { lo := mkTW tag (widen w tag h.lo), hi := mkTW tag (widen w tag h.hi) },
                                 flg := mkTW (flgTag (tag == tSecret)) h.fl.word } }

/-- A division starts (R393): under CHK a zero divisor and an overflow trap, never by a SECRET value (R394); the fixed results of DIV are
sign-extended under W32 (R395). -/
def startDiv (c : Core) (f : BxFields) (ga : Accept) (signed : Bool) : BxRes := do
  let x := opRs1 c f
  let y := opRs2 c f immSame
  let tag ← check2 ga ga pairSame x y
  let w := opWidth f.w32
  let a := lowBits w x.x.d
  let b := lowBits w y.x.d
  let h := divHalves w signed a b
  let ext := if signed && divFixed w signed a b then tInt else tag
  if f.chk && tag != tSecret && h.fl.dz then .error { code := 0x0A }
  else if f.chk && tag != tSecret && h.fl.ov then .error { code := 0x09 }
  else
    .ok { core := { landDiv c with div := some { lo := mkTW tag (widen w ext h.lo), hi := mkTW tag (widen w ext h.hi) },
                                   flg := mkTW (flgTag (tag == tSecret)) h.fl.word } }

def execBxMul (core : Nat) (f : BxFields) (s : State) : Host.Outcome State Fault Refusal :=
  .next (runCore s core 0x40 f fun c _ _ => startMul c f accMulS true)

/-- MULU; its vector form gives the low half of each product (Table 18.6). -/
def execBxMulu (core : Nat) (f : BxFields) (s : State) : Host.Outcome State Fault Refusal :=
  .next (runCore s core 0x41 f fun c _ x =>
    if f.vec then vecTwo c f x accMulU accMulU pairSame immSame fun _ w a b _ => { val := a * b % 2 ^ w } else startMul c f accMulU false)

def execBxDiv (core : Nat) (f : BxFields) (s : State) : Host.Outcome State Fault Refusal :=
  .next (runCore s core 0x42 f fun c _ _ => startDiv c f accMulS true)

def execBxDivu (core : Nat) (f : BxFields) (s : State) : Host.Outcome State Fault Refusal :=
  .next (runCore s core 0x43 f fun c _ _ => startDiv c f accMulU false)

/-- UNIT_RESULT_LAND (R396): a product or a quotient in flight lands, whether or not the core still runs. -/
def execUnitResultLand (core : Nat) (divider : Bool) (s : State) : Host.Outcome State Fault Refusal :=
  .next (modCore s core (if divider then landDiv else landMul))

/-! ## Tag instructions (Table 17.7) -/

/-- A retagging of rs1. -/
def retag (c : Core) (f : BxFields) (ga : Accept) (tag : Nat) : BxRes := do
  check1 ga (opRs1 c f)
  wr c f.rd { d := (regW c f.rs1).d, tag := if (regW c f.rs1).tag = tSecret then tSecret else tag }

def execBxTagof (core : Nat) (f : BxFields) (s : State) : Host.Outcome State Fault Refusal :=
  .next (runCore s core 0x50 f fun c _ _ => do
    check1 accAny (opRs1 c f)
    wr c f.rd (mkTW tInt (regW c f.rs1).tag))

def execBxAsint (core : Nat) (f : BxFields) (s : State) : Host.Outcome State Fault Refusal :=
  .next (runCore s core 0x51 f fun c _ _ => retag c f accLogic tInt)

def execBxAsnat (core : Nat) (f : BxFields) (s : State) : Host.Outcome State Fault Refusal :=
  .next (runCore s core 0x52 f fun c _ _ => retag c f accAsNat tNat)

def execBxAsbytes (core : Nat) (f : BxFields) (s : State) : Host.Outcome State Fault Refusal :=
  .next (runCore s core 0x53 f fun c _ _ => retag c f accLogic tBytes)

def execBxMkptr (core : Nat) (f : BxFields) (s : State) : Host.Outcome State Fault Refusal :=
  .next (runCore s core 0x54 f fun c _ _ => retag c f accMkptr tPtr)

def execBxMkhandle (core : Nat) (f : BxFields) (s : State) : Host.Outcome State Fault Refusal :=
  .next (runCore s core 0x55 f fun c _ _ => retag c f accMkhandle tHandle)

def execBxClass (core : Nat) (f : BxFields) (s : State) : Host.Outcome State Fault Refusal :=
  .next (runCore s core 0x56 f fun c _ _ => retag c f accLogic tSecret)

/-- POISON writes rd with tag POISON; its data bits are open (log entry 30). -/
def execBxPoison (core : Nat) (f : BxFields) (s : State) : Host.Outcome State Fault Refusal :=
  .next (runCore s core 0x58 f fun c _ x => .ok { core := { c with w := smSet {} c.w f.rd (mkTW tPoison x) }, drew := true })

end Sys2Proof.Machine
end

