-- ==== Sys2Proof/Machine/BxMove.lean ====
section
/-! DEFINITION. BxMove.lean: the control, load, store, data-stack, branch and move instructions of Benxis, DECLASS and RDTIME (R385, R388,
R389, R396 to R401, Table 17.5). -/

namespace Sys2Proof.Machine

/-! ## Loads, stores and LEA (R383 to R385) -/

/-- The address of a load, store or LEA: rs1 + rs2, or rs1 + immediate. -/
def effAddr (c : Core) (f : BxFields) : Except Trap W64 := do
  let x := opRs1 c f
  let y := opRs2 c f immInt
  let _ ← check2 accBase accIndex pairAddr x y
  .ok (x.x.d + y.x.d)

/-- LD8: the whole word with its tag. -/
def bxLd8 (c : Core) (f : BxFields) : BxRes :=
  if f.vec then vecLoad c f 8
  else do
    let a ← effAddr c f
    let x ← loadWord c a.toNat
    wr c f.rd x

/-- A load of `n` bytes, zero- or sign-extended, under the word's tag. -/
def bxLdSub (c : Core) (f : BxFields) (n : Nat) (signed : Bool) : BxRes :=
  if f.vec then (if signed then vecFirstFault c f n else vecLoad c f n)
  else do
    let a ← effAddr c f
    let x ← loadElement c a.toNat n
    wr c f.rd (mkTW x.2 (if signed then ofSigned 64 (toSigned (8 * n) x.1) else x.1))

/-- ST8: the whole word with its tag. -/
def bxSt8 (c : Core) (f : BxFields) : BxRes :=
  if f.vec then vecStore c f
  else do
    reservedTag (opRd c f)
    let a ← effAddr c f
    let c1 ← storeWord c a.toNat (regW c f.rd)
    .ok { core := c1 }

/-- A store of `n` bytes (R385): no CODE word takes one, nor a PTR or HANDLE word. -/
def bxStSub (c : Core) (f : BxFields) (n : Nat) : BxRes := do
  reservedTag (opRd c f)
  let a ← effAddr c f
  check1 accSub (opRd c f)
  checkAddr c a.toNat n
  let x := memWord c.mem a.toNat
  if x.tag = tCode then .error { code := 0x0D, info := a.toNat }
  else if x.tag = tPtr ∨ x.tag = tHandle then .error { code := 0x05 }
  else
    let y := subStore x (a.toNat % 8) (leBytes n (regW c f.rd).d.toNat) (regW c f.rd).tag
    .ok { core := { c with mem := smSet {} c.mem (a.toNat / 8) y } }

def execBxLd8 (core : Nat) (f : BxFields) (s : State) : Host.Outcome State Fault Refusal := .next (runCore s core 0x1C f fun c _ _ => bxLd8 c f)

def execBxLd4 (core : Nat) (f : BxFields) (s : State) : Host.Outcome State Fault Refusal :=
  .next (runCore s core 0x1D f fun c _ _ => bxLdSub c f 4 false)

def execBxLd4s (core : Nat) (f : BxFields) (s : State) : Host.Outcome State Fault Refusal :=
  .next (runCore s core 0x1E f fun c _ _ => bxLdSub c f 4 true)

def execBxLd2 (core : Nat) (f : BxFields) (s : State) : Host.Outcome State Fault Refusal :=
  .next (runCore s core 0x1F f fun c _ _ => bxLdSub c f 2 false)

def execBxLd2s (core : Nat) (f : BxFields) (s : State) : Host.Outcome State Fault Refusal :=
  .next (runCore s core 0x20 f fun c _ _ => bxLdSub c f 2 true)

def execBxLd1 (core : Nat) (f : BxFields) (s : State) : Host.Outcome State Fault Refusal :=
  .next (runCore s core 0x21 f fun c _ _ => bxLdSub c f 1 false)

def execBxLd1s (core : Nat) (f : BxFields) (s : State) : Host.Outcome State Fault Refusal :=
  .next (runCore s core 0x22 f fun c _ _ => bxLdSub c f 1 true)

def execBxLea (core : Nat) (f : BxFields) (s : State) : Host.Outcome State Fault Refusal :=
  .next (runCore s core 0x23 f fun c _ _ => do
    let a ← effAddr c f
    wr c f.rd { d := a, tag := tPtr })

def execBxSt8 (core : Nat) (f : BxFields) (s : State) : Host.Outcome State Fault Refusal := .next (runCore s core 0x24 f fun c _ _ => bxSt8 c f)

def execBxSt4 (core : Nat) (f : BxFields) (s : State) : Host.Outcome State Fault Refusal :=
  .next (runCore s core 0x25 f fun c _ _ => bxStSub c f 4)

def execBxSt2 (core : Nat) (f : BxFields) (s : State) : Host.Outcome State Fault Refusal :=
  .next (runCore s core 0x26 f fun c _ _ => bxStSub c f 2)

def execBxSt1 (core : Nat) (f : BxFields) (s : State) : Host.Outcome State Fault Refusal :=
  .next (runCore s core 0x27 f fun c _ _ => bxStSub c f 1)

/-! ## The data stack (R397) -/

/-- PUSH of rs1: DSP − 8, then the word with its tag. -/
def bxPush (c : Core) (f : BxFields) : BxRes := do
  reservedTag (opRs1 c f)
  let a := (c.dsp.d - 8).toNat
  if c.dsp.d.toNat < c.dsLow + 8 then .error { code := 0x0E, info := a }
  else
    let c1 ← storeWord c a (regW c f.rs1)
    .ok { core := { c1 with dsp := mkTW tPtr a } }

/-- POP into rd: the word with its tag, then DSP + 8. -/
def bxPop (c : Core) (f : BxFields) : BxRes := do
  let a := c.dsp.d.toNat
  if c.dsHigh < a + 8 then .error { code := 0x0E, info := a + 8 }
  else
    let x ← loadWord c a
    .ok { core := { c with w := smSet {} c.w f.rd x, dsp := mkTW tPtr (a + 8) } }

/-- DSADJ: DSP moves by the second source, an INT or NAT, to ds_high at most. -/
def bxDsadj (c : Core) (f : BxFields) : BxRes := do
  let y : Opd := if f.i then { x := { d := f.imm, tag := tInt }, reg := 0, pos := 2 } else { x := regW c f.rs2, reg := f.rs2, pos := 2 }
  check1 accIndex y
  let a := (c.dsp.d.toNat : Int) + (if y.x.tag = tNat then (y.x.d.toNat : Int) else y.x.d.toInt)
  if (c.dsHigh : Int) < a then .error { code := 0x0E, info := (c.dsp.d + y.x.d).toNat }
  else .ok { core := { c with dsp := { d := c.dsp.d + y.x.d, tag := tPtr } } }

def execBxPush (core : Nat) (f : BxFields) (s : State) : Host.Outcome State Fault Refusal := .next (runCore s core 0x28 f fun c _ _ => bxPush c f)

def execBxPop (core : Nat) (f : BxFields) (s : State) : Host.Outcome State Fault Refusal := .next (runCore s core 0x29 f fun c _ _ => bxPop c f)

def execBxDsadj (core : Nat) (f : BxFields) (s : State) : Host.Outcome State Fault Refusal := .next (runCore s core 0x2A f fun c _ _ => bxDsadj c f)

/-! ## Branches (R380, R381, R398) -/

/-- The address of the next instruction. -/
def nextPc (c : Core) (len : Nat) : W64 := c.pc + BitVec.ofNat 64 len

/-- A jump: an odd target traps (R380). -/
def jump (c : Core) (a : W64) : BxRes := if a.toNat % 2 = 1 then .error { code := 0x0C, info := a.toNat } else .ok { core := c, next := some a }

/-- A conditional branch on FLG (R383). -/
def branchIf (c : Core) (f : BxFields) (len : Nat) (cond : Nat → Bool) : BxRes := do
  check1 accFlg { x := c.flg, reg := 0, pos := 0 }
  if cond c.flg.d.toNat then jump c (nextPc c len + f.imm) else .ok { core := c }

/-- A return address pushed (R398): a full stack first spills its oldest 32 entries; none where the spill area is full too. -/
def pushReturn (c : Core) (a : W64) : Option Core :=
  if c.rstack.length < 64 then some { c with rstack := a :: c.rstack }
  else if (c.spill.length + 32) * 8 ≤ c.spillLen then some { c with rstack := a :: c.rstack.take 32, spill := c.rstack.drop 32 ++ c.spill }
  else none

/-- A return address popped (R398): an empty stack first refills 32 entries. -/
def popReturn (c : Core) : Option (W64 × Core) :=
  match c.rstack with
  | a :: r => some (a, { c with rstack := r })
  | [] => match c.spill.take 32 with
    | [] => none
    | a :: r => some (a, { c with rstack := r, spill := c.spill.drop 32 })

/-- CALL and CALLR. -/
def callTo (c : Core) (len : Nat) (a : W64) : BxRes :=
  if a.toNat % 2 = 1 then .error { code := 0x0C, info := a.toNat }
  else match pushReturn c (nextPc c len) with
    | none => .error { code := 0x0F }
    | some c1 => .ok { core := c1, next := some a }

def bxRet (c : Core) : BxRes := match popReturn c with
  | none => .error { code := 0x10 }
  | some (a, c1) => jump c1 a

def execBxB (core : Nat) (f : BxFields) (s : State) : Host.Outcome State Fault Refusal :=
  .next (runCore s core 0x2B f fun c n _ => jump c (nextPc c n + f.imm))

def execBxBeq (core : Nat) (f : BxFields) (s : State) : Host.Outcome State Fault Refusal :=
  .next (runCore s core 0x2C f fun c n _ => branchIf c f n flagZ)

def execBxBne (core : Nat) (f : BxFields) (s : State) : Host.Outcome State Fault Refusal :=
  .next (runCore s core 0x2D f fun c n _ => branchIf c f n fun g => !flagZ g)

def execBxBlt (core : Nat) (f : BxFields) (s : State) : Host.Outcome State Fault Refusal :=
  .next (runCore s core 0x2E f fun c n _ => branchIf c f n fun g => flagN g != flagOv g)

def execBxBge (core : Nat) (f : BxFields) (s : State) : Host.Outcome State Fault Refusal :=
  .next (runCore s core 0x2F f fun c n _ => branchIf c f n fun g => flagN g == flagOv g)

def execBxBlo (core : Nat) (f : BxFields) (s : State) : Host.Outcome State Fault Refusal :=
  .next (runCore s core 0x30 f fun c n _ => branchIf c f n flagC)

def execBxBhs (core : Nat) (f : BxFields) (s : State) : Host.Outcome State Fault Refusal :=
  .next (runCore s core 0x31 f fun c n _ => branchIf c f n fun g => !flagC g)

def execBxBov (core : Nat) (f : BxFields) (s : State) : Host.Outcome State Fault Refusal :=
  .next (runCore s core 0x32 f fun c n _ => branchIf c f n flagOv)

def execBxBdz (core : Nat) (f : BxFields) (s : State) : Host.Outcome State Fault Refusal :=
  .next (runCore s core 0x33 f fun c n _ => branchIf c f n flagDz)

def execBxCall (core : Nat) (f : BxFields) (s : State) : Host.Outcome State Fault Refusal :=
  .next (runCore s core 0x34 f fun c n _ => callTo c n (nextPc c n + f.imm))

def execBxCallr (core : Nat) (f : BxFields) (s : State) : Host.Outcome State Fault Refusal :=
  .next (runCore s core 0x35 f fun c n _ => do
    check1 accTarget (opRs1 c f)
    callTo c n (regW c f.rs1).d)

def execBxJr (core : Nat) (f : BxFields) (s : State) : Host.Outcome State Fault Refusal :=
  .next (runCore s core 0x36 f fun c _ _ => do
    check1 accTarget (opRs1 c f)
    jump c (regW c f.rs1).d)

def execBxRet (core : Nat) (f : BxFields) (s : State) : Host.Outcome State Fault Refusal := .next (runCore s core 0x37 f fun c _ _ => bxRet c)

/-- LEAC: rd := the code address an offset from the end of the instruction names. -/
def execBxLeac (core : Nat) (f : BxFields) (s : State) : Host.Outcome State Fault Refusal :=
  .next (runCore s core 0x38 f fun c n _ => wr c f.rd { d := nextPc c n + f.imm, tag := tCode })

/-! ## Moves and special registers (R375, R396) -/

/-- MOV, on w or v registers. -/
def execBxMov (core : Nat) (f : BxFields) (s : State) : Host.Outcome State Fault Refusal :=
  .next (runCore s core 0x39 f fun c _ x =>
    if f.vec then vecMov c f x
    else do
      check1 accAny (opRs1 c f)
      wr c f.rd (regW c f.rs1))

def execBxLi (core : Nat) (f : BxFields) (s : State) : Host.Outcome State Fault Refusal :=
  .next (runCore s core 0x3A f fun c _ _ => wr c f.rd { d := f.imm, tag := tInt })

def execBxLin (core : Nat) (f : BxFields) (s : State) : Host.Outcome State Fault Refusal :=
  .next (runCore s core 0x3B f fun c _ _ => wr c f.rd { d := f.imm, tag := tNat })

def execBxLib (core : Nat) (f : BxFields) (s : State) : Host.Outcome State Fault Refusal :=
  .next (runCore s core 0x3C f fun c _ _ => wr c f.rd { d := f.imm, tag := tBytes })

/-- A unit register is read or written only after what is in flight for it has landed (R396). -/
def landFor (c : Core) (r : Nat) : Core := if r < 2 then landMul c else if r < 4 then landDiv c else c

/-- A special register by number (Table 17.1). -/
def readSpecial (c : Core) (r : Nat) : TW :=
  match r with
  | 0 => c.mlo
  | 1 => c.mhi
  | 2 => c.quo
  | 3 => c.rem
  | 4 => c.flg
  | 5 => c.vff
  | 6 => c.dsp
  | _ => { d := c.pc, tag := tCode }

def bxMfs (c : Core) (f : BxFields) : BxRes := do
  let c1 := landFor c f.rs1
  let x := readSpecial c1 f.rs1
  if 8 ≤ x.tag then .error { code := 0x03, reg := f.rs1, pos := 1 } else wr c1 f.rd x

/-- A special register written: FLG keeps bits [4:0] (R390). -/
def writeSpecial (c : Core) (r : Nat) (x : TW) : Core :=
  match r with
  | 0 => { c with mlo := x }
  | 1 => { c with mhi := x }
  | 2 => { c with quo := x }
  | 3 => { c with rem := x }
  | 4 => { c with flg := { x with d := x.d &&& 0x1F#64 } }
  | 5 => { c with vff := x }
  | _ => { c with dsp := x }

/-- MTS: DSP takes an 8-byte aligned PTR only (R397). -/
def bxMts (c : Core) (f : BxFields) : BxRes := do
  check1 accAny (opRs1 c f)
  let x := regW c f.rs1
  if f.rd = 6 ∧ x.tag ≠ tPtr then .error ((opRs1 c f).trap 5)
  else if f.rd = 6 ∧ x.d.toNat % 8 ≠ 0 then .error { code := 0x0C, reg := f.rs1, pos := 1, info := x.d.toNat }
  else .ok { core := writeSpecial (landFor c f.rd) f.rd x }

def execBxMfs (core : Nat) (f : BxFields) (s : State) : Host.Outcome State Fault Refusal := .next (runCore s core 0x3D f fun c _ _ => bxMfs c f)

def execBxMts (core : Nat) (f : BxFields) (s : State) : Host.Outcome State Fault Refusal := .next (runCore s core 0x3E f fun c _ _ => bxMts c f)

/-! ## Control (R399 to R403) -/

def execBxNop (core : Nat) (f : BxFields) (s : State) : Host.Outcome State Fault Refusal :=
  .next (runCore s core 0x00 f fun c _ _ => .ok { core := c })

/-- FENCE: the instructions of a core complete in order (R374), so there is nothing to wait for. -/
def execBxFence (core : Nat) (f : BxFields) (s : State) : Host.Outcome State Fault Refusal :=
  .next (runCore s core 0x04 f fun c _ _ => .ok { core := c })

/-- STOP (R403): the instruction completes, and the core stops. -/
def execBxStop (core : Nat) (f : BxFields) (s : State) : Host.Outcome State Fault Refusal :=
  .next (runPart s core 0x01 f fun t _ => .ok (stopCore t core))

/-- TRAP with its immediate code (R400). -/
def execBxTrap (core : Nat) (f : BxFields) (s : State) : Host.Outcome State Fault Refusal :=
  .next (runCore s core 0x02 f fun _ _ _ => .error { code := f.imm.toNat })

/-- The four words of a frame, and DSP past them; the last is the address. -/
def popFrame (c : Core) : Except Trap (TW × TW × Core) := do
  let a := c.dsp.d.toNat
  if c.dsHigh < a + 32 then .error { code := 0x0E, info := a + 32 }
  else
    let g ← loadWord c a
    let _ ← loadWord c (a + 8)
    let _ ← loadWord c (a + 16)
    let p ← loadWord c (a + 24)
    .ok (g, p, { c with flg := g, trapActive := false, dsp := mkTW tPtr (a + 32) })

/-- RTT (R401): FLG restored, the handler left, and the core at the popped address; an address that is not CODE stops the core. -/
def execBxRtt (core : Nat) (f : BxFields) (s : State) : Host.Outcome State Fault Refusal :=
  .next (withFetch s core 0x03 f fun _ => match popFrame (coreAt s core) with
    | .error t => enterTrap s core t
    | .ok (_, p, c) =>
      if p.tag ≠ tCode then stopCore (modCore s core fun x => { x with double := true }) core
      else if p.d.toNat % 2 = 1 then enterTrap s core { code := 0x0C, info := p.d.toNat }
      else putCore s core { c with pc := p.d })

/-! ## DECLASS and RDTIME -/

/-- A key handle that licenses a DECLASS of a paddock's code (R388, R389, Table 15.4): it resolves for Benxis code and its key's declass
bit is 1. -/
def declassOk (s : State) (p h : Nat) : Bool :=
  resolveKey s {} 0 p true h [1, 2, 3, 4, 5, 6, 7] false == 0 &&
  (match keyLoc p h with
    | some l => hasBit (viewOf s (hPad h) l).attrs 10
    | none => false)

/-- DECLASS (R388): the value loses its SECRET tag under a licence, and the success is counted. -/
def execBxDeclass (core : Nat) (f : BxFields) (s : State) : Host.Outcome State Fault Refusal :=
  .next (runPart s core 0x57 f fun t c => do
    let x := opRs1 c f
    let y := opRs2 c f immSame
    reservedTag x
    reservedTag y
    check1 accDeclassValue x
    check1 accDeclassKey y
    match padOfCore t core with
    | none => .error { code := 0x08 }
    | some p =>
      if declassOk t p y.x.d.toNat then
        .ok (modCore t core fun k => { setReg k f.rd { d := x.x.d, tag := tBytes } with declass := satAdd 0xFFFF k.declass 1 })
      else .error { code := 0x08 })

/-- RDTIME (R381). -/
def execBxRdtime (core : Nat) (f : BxFields) (s : State) : Host.Outcome State Fault Refusal :=
  .next (runCore s core 0x70 f fun c _ _ => wr c f.rd (mkTW tNat s.time))

end Sys2Proof.Machine
end

