-- ==== Sys2Proof/Machine/BxRuntime.lean ====
section
/-! DEFINITION. BxRuntime.lean: the runtime instructions of Table 18.4: rings of paddock code, completions, feed FIFOs, windows, other
cores, random words and measurement (R407 to R416). -/

namespace Sys2Proof.Machine

/-- rs1 and the second source, each with its row; an immediate counts as the NAT it is named (R413). -/
def runtimeTwo (c : Core) (f : BxFields) (ga gb : Accept) : Except Trap (Nat × Nat) := do
  let x := opRs1 c f
  let y := opRs2 c f immNat
  reservedTag x
  reservedTag y
  check1 ga x
  check1 gb y
  .ok (x.x.d.toNat, y.x.d.toNat)

/-- rs1 alone. -/
def runtimeOne (c : Core) (f : BxFields) (ga : Accept) : Except Trap Nat := do
  check1 ga (opRs1 c f)
  .ok (regW c f.rs1).d.toNat

/-- The paddock of a core; a running core is dedicated to one. -/
def corePad (s : State) (n : Nat) : Nat := (padOfCore s n).getD 0

/-- rd := NAT. -/
def natRd (s : State) (n : Nat) (f : BxFields) (v : Nat) : State := writeRd s n f.rd (mkTW tNat v)

/-- rd := NAT of a value the manual does not give (log entry 31). -/
def openRd (s : State) (n : Nat) (f : BxFields) : State := let d := draw s; natRd d.2 n f d.1

/-! ## Rings of paddock code (R414, R415) -/

/-- A queue of the paddock's code. -/
def ownRing (s : State) (p q : Nat) : Bool := padOfQueue s q == some p && (qAt s q).bx

/-- QOPEN's result (R414, Table 07.14 with 5 for a short quota). -/
def qopenResult (s : State) (p q k index : Nat) : Nat :=
  if padOfQueue s q ≠ some p then 1
  else if (qAt s q).state ≠ 0 then 2
  else if k < 4 ∨ 16 < k ∨ 2 ^ (k + 1) ≤ index then 3
  else if (padRec s p).yardCells < yardHeld s p + 2 ^ (k - 1) then 5
  else 0

/-- The queue enabled on yard cells. -/
def openRing (s : State) (q k index : Nat) (crc : Bool) : State :=
  fitYard (modQ (startQueue s q { k := k, crcReq := crc, index := index }) q fun x => { x with bx := true, ringCells := 2 ^ (k - 1) })

/-- QOPEN. -/
def execBxQopen (core : Nat) (f : BxFields) (s : State) : Host.Outcome State Fault Refusal :=
  .next (runPart s core 0x60 f fun t c => do
    let a ← runtimeTwo c f accNat accNat
    let q := bits a.1 0 16
    let k := bits a.1 16 5
    let r := qopenResult t (corePad t core) q k a.2
    .ok (natRd (if r = 0 then openRing t q k a.2 (hasBit a.1 21) else t) core f r))

/-- DISABLE of a queue of paddock code: result and state (R160). -/
def qclose (s : State) (p q : Nat) : Nat × State :=
  if padOfQueue s q ≠ some p then (1, s)
  else if !(qAt s q).bx || !((qAt s q).state == 1 || (qAt s q).state == 2) then (2, s)
  else (0, beginDrain s q)

/-- QCLOSE. -/
def execBxQclose (core : Nat) (f : BxFields) (s : State) : Host.Outcome State Fault Refusal :=
  .next (runPart s core 0x61 f fun t c => do
    let a ← runtimeOne c f accNat
    let r := qclose t (corePad t core) (a % 65536)
    .ok (natRd r.2 core f r.1))

/-- CONTINUE, RESUME and FORGET of a queue of paddock code (Table 07.11). -/
def qctl (s : State) (p q cmd : Nat) : Nat × State :=
  if padOfQueue s q ≠ some p then (1, s)
  else
    let x := qAt s q
    if !x.bx then (2, s)
    else if cmd = 3 ∧ x.state = 2 then (0, continueQueue s q)
    else if cmd = 4 ∧ x.state = 5 then (0, resumeQueue s q)
    else if cmd = 5 ∧ x.state = 5 then (0, forgetQueue s q)
    else (2, s)

/-- QCTL: another code than 3, 4 and 5 does nothing, and its result is open. -/
def execBxQctl (core : Nat) (f : BxFields) (s : State) : Host.Outcome State Fault Refusal :=
  .next (runPart s core 0x62 f fun t c => do
    let a ← runtimeTwo c f accNat accNat
    if a.2 < 3 ∨ 5 < a.2 then .ok (openRd t core f)
    else
      let r := qctl t (corePad t core) (a.1 % 65536) a.2
      .ok (natRd r.2 core f r.1))

/-- Tags a descriptor word may carry (Table 18.5), by word number; NAT for key_ref only when it is 0. -/
def descWordOk (i : Nat) (x : TW) : Bool :=
  if i ∈ [0, 14, 15] then x.tag == tNat || x.tag == tBytes
  else if i = 1 then x.tag == tHandle || (x.tag == tNat && x.d == 0#64)
  else if i ∈ [2, 4, 5, 7, 12] then x.tag == tPtr || x.tag == tNat
  else if i ∈ [3, 6, 13] then x.tag == tInt || x.tag == tNat
  else x.tag == tInt || x.tag == tNat || x.tag == tBytes || x.tag == tHandle

/-- The trap of a descriptor word (R415). -/
def descWordTrap (x : TW) : Trap :=
  { code := if 8 ≤ x.tag then 0x03 else if x.tag = tPoison then 0x04 else if x.tag = tSecret then 0x06 else 0x05 }

/-- The first failing word of a descriptor. -/
def descFault (m : SMap TW) (a : Nat) : Option Trap :=
  ((List.range 16).find? fun i => !descWordOk i (memWord m (a + 8 * i))).map fun i => descWordTrap (memWord m (a + 8 * i))

/-- A descriptor's bytes with each PTR made the caller's paddock address (R416). -/
def ringEntry (core : Nat) (m : SMap TW) (a : Nat) : Bytes :=
  (List.range 16).flatMap fun i =>
    let x := memWord m (a + 8 * i)
    if x.tag = tPtr then leBytes 8 (core * 2 ^ 20 ||| x.d.toNat) else twBytes x

/-- The producer index JSUB works at: the recorded one while the queue is HELD (Table 07.3). -/
def ringP (x : Queue) : Nat := if x.state = 5 then x.heldBell.getD x.p else x.p

/-- One entry produced: the slot written, and P advanced or, in HELD, recorded. -/
def produce (s : State) (q : Nat) (d : Bytes) : State :=
  let x := qAt s q
  let i := ringP x
  let j := nextIdx x.k i
  let s1 := modQ s q fun y =>
    { y with ring := smSet [] y.ring (i % 2 ^ y.k) d, ringSecret := y.ringSecret.filter (· != i % 2 ^ y.k) }
  if x.state = 5 then modQ s1 q fun y => { y with heldBell := some j } else journalWrite (modQ s1 q fun y => { y with p := j })

/-- JSUB (R415): rd is the new P, or all ones when the ring is full; of a queue that takes no entries it is open. -/
def execBxJsub (core : Nat) (f : BxFields) (s : State) : Host.Outcome State Fault Refusal :=
  .next (runPart s core 0x63 f fun t c => do
    let a ← runtimeTwo c f accPtr accNat
    let q := a.2 % 65536
    let x := qAt t q
    if a.1 % 8 ≠ 0 then .error { code := 0x0C, info := a.1 }
    else if 2 ^ 20 < a.1 + 128 || inSpill c a.1 128 then .error { code := 0x0B, info := a.1 }
    else match descFault c.mem a.1 with
      | some e => .error e
      | none =>
        if !ownRing t (corePad t core) q || !(x.state == 1 || x.state == 2 || x.state == 5) then .ok (openRd t core f)
        else if dist x.k x.t (ringP x) = 2 ^ x.k then .ok (natRd t core f (2 ^ 64 - 1))
        else .ok (natRd (produce t q (ringEntry core c.mem a.1)) core f (nextIdx x.k (ringP x))))

/-- The marker of the entry with an index matches (R154). -/
def markerMatches (s : State) (p q index : Nat) : Bool :=
  ownRing s p q && u8 (smGet [] (qAt s q).ring (index % 2 ^ (qAt s q).k)) 3 == markerOf (qAt s q).k index

/-- The eight words of a completion as paddock code reads them (R386). -/
def cplWords (x : Queue) (index : Nat) : List TW :=
  let b := padTo 64 (smGet [] x.ring (index % 2 ^ x.k))
  (List.range 8).map fun i => mkTW (if i = 6 ∧ x.ringSecret.contains (index % 2 ^ x.k) then tSecret else tNat) (u64 b (8 * i))

/-- Words stored one after the other. -/
def storeWords (c : Core) (a : Nat) : List TW → Except Trap Core
  | [] => .ok c
  | x :: r => do
    let c1 ← storeWord c a x
    storeWords c1 (a + 8) r

/-- JCPL. -/
def execBxJcpl (core : Nat) (f : BxFields) (s : State) : Host.Outcome State Fault Refusal :=
  .next (runPart s core 0x64 f fun t c => do
    let a ← runtimeTwo c f accPtr accNat
    let q := bits a.2 0 16
    if markerMatches t (corePad t core) q (bits a.2 16 17) then
      let c1 ← storeWords c a.1 (cplWords (qAt t q) (bits a.2 16 17))
      .ok (natRd (putCore t core c1) core f 1)
    else .ok (natRd t core f 0))

/-- JSTAT: a queue of another paddock reads 0 (R8). -/
def jstatWord (s : State) (p q : Nat) : Nat :=
  if padOfQueue s q = some p then
    let x := qAt s q
    x.p + x.a * 2 ^ 17 + x.t * 2 ^ 34 + x.state * 2 ^ 51
  else 0

def execBxJstat (core : Nat) (f : BxFields) (s : State) : Host.Outcome State Fault Refusal :=
  .next (runPart s core 0x65 f fun t c => do
    let a ← runtimeOne c f accNat
    .ok (natRd t core f (jstatWord t (corePad t core) (a % 65536))))

/-- WAIT: it returns at once where the marker already matches, and otherwise goes on until WAIT_END. -/
def execBxWait (core : Nat) (f : BxFields) (s : State) : Host.Outcome State Fault Refusal :=
  .next (withFetch s core 0x66 f fun len => match runtimeTwo (coreAt s core) f accNat accNat with
    | .error t => enterTrap s core t
    | .ok a =>
      let s1 := modCore s core fun c => { c with waiting := some { queue := bits a.1 0 16, index := bits a.1 16 17, rd := f.rd, len := len } }
      if markerMatches s (corePad s core) (bits a.1 0 16) (bits a.1 16 17) then modCore s1 core fun c => endWait c 1 else s1)

/-- WAIT_END (R413): the marker has matched, or the time is over. -/
def execWaitEnd (core : Nat) (timeout : Bool) (s : State) : Host.Outcome State Fault Refusal :=
  .next (match (coreAt s core).waiting with
    | none => s
    | some x =>
      if timeout then modCore s core fun c => endWait c 0
      else if markerMatches s (corePad s core) x.queue x.index then modCore s core fun c => endWait c 1
      else s)

/-! ## Feed FIFOs (R412) -/

/-- FPUT: one entry of up to 8 bytes, with the value's tag. -/
def execBxFput (core : Nat) (f : BxFields) (s : State) : Host.Outcome State Fault Refusal :=
  .next (runPart s core 0x67 f fun t c => do
    let x := opRs1 c f
    let a ← runtimeTwo c f accFput accNat
    let k := corePad t core * 16 + bits a.2 0 4
    let e : FeedEntry := { data := leBytes (min 8 (bits a.2 4 4 + 1)) a.1, eop := hasBit a.2 8, tag := x.x.tag }
    if 2048 ≤ (feedAt t k).entries.length then .ok (natRd t core f 0)
    else .ok (natRd (modFeed t k fun y => pushFeed y [e]) core f 1))

/-- BX_FEED_STATUS_f (Table 16.7). -/
def feedStatus (x : Feed) : Nat := b1 x.stopped + 2 * b1 x.atStart + x.entries.length * 2 ^ 16 + x.dropped * 2 ^ 32

/-- FSTAT: a number above 15 names no FIFO and reads 0. -/
def execBxFstat (core : Nat) (f : BxFields) (s : State) : Host.Outcome State Fault Refusal :=
  .next (runPart s core 0x68 f fun t c => do
    let a ← runtimeOne c f accNat
    .ok (natRd t core f (if a < 16 then feedStatus (feedAt t (corePad t core * 16 + a)) else 0)))

/-- FDROP (R369). -/
def execBxFdrop (core : Nat) (f : BxFields) (s : State) : Host.Outcome State Fault Refusal :=
  .next (runPart s core 0x69 f fun t c => do
    let a ← runtimeOne c f accNat
    .ok (if a < 16 then modFeed t (corePad t core * 16 + a) dropFeed else t))

/-! ## Windows (R410) -/

/-- Windows that an opening one must not overlap: the core's own onto its memory; any of the paddock's onto the same FIFO. -/
def windowMeets (s : State) (p n : Nat) (w : Window) : Bool :=
  if w.feed then (coresOfPad s p).any fun m => (coreAt s m).windows.any fun x => x.feed && x.base == w.base
  else (coreAt s n).windows.any fun x => !x.feed && areasMeet (x.base, x.len) (w.base, w.len)

/-- The window is one R410 allows. -/
def windowOk (w : Window) : Bool :=
  if w.feed then decide (w.base < 16)
  else w.base % 4096 == 0 && w.len % 4096 == 0 && decide (4096 ≤ w.len) && decide (w.base + w.len ≤ 2 ^ 20)

/-- The lowest window number free. -/
def freeWindow (c : Core) : Option Nat := (List.range 4).find? fun i => !(c.windows.any fun w => w.num == i)

/-- A window opened: its number + 1, or 0 and nothing. -/
def openWindow (s : State) (p n : Nat) (w : Window) : Nat × State :=
  match freeWindow (coreAt s n) with
  | none => (0, s)
  | some i =>
    if windowOk w && !windowMeets s p n w then (i + 1, modCore s n fun c => { c with windows := c.windows ++ [{ w with num := i }] }) else (0, s)

/-- WOPEN: a PTR base, or the NAT number of a FIFO. -/
def execBxWopen (core : Nat) (f : BxFields) (s : State) : Host.Outcome State Fault Refusal :=
  .next (runPart s core 0x6A f fun t c => do
    let y := opRs2 c f immNat
    reservedTag (opRs1 c f)
    check1 accNat y
    let v := y.x.d.toNat
    let a ← runtimeOne c f (if hasBit v 22 then accNat else accPtr)
    let r := openWindow t (corePad t core) core { feed := hasBit v 22, base := a, len := bits v 0 21, write := hasBit v 21 }
    .ok (natRd r.2 core f r.1))

/-- WCLOSE. -/
def execBxWclose (core : Nat) (f : BxFields) (s : State) : Host.Outcome State Fault Refusal :=
  .next (runPart s core 0x6B f fun t c => do
    let a ← runtimeOne c f accNat
    .ok (modCore t core fun k => { k with windows := k.windows.filter fun w => w.num != a }))

/-! ## Other cores (R403, R407) -/

/-- A load begins (R406): local memory wiped and every window closed; it waits while the core's shed is not on. -/
def beginLoad (s : State) (n source sender : Nat) (image : Bytes) (fromBoot : Bool) : State :=
  modCore (wipeCore s n) n fun c =>
    { c with state := 1, cmdErr := 0,
             loading := some { source := source, sender := sender, image := image, fromBoot := fromBoot, waitShed := shedAt s (coreShed n) != 2 } }

/-- The trap of the first word of an image that may not be loaded (Table 18.3). -/
def imageFault (m : SMap TW) (a len : Nat) : Option Trap :=
  ((wordsTouched a len).find? fun i => (smGet {} m i).tag ∈ [tPoison, tPtr, tHandle, tSecret] || 8 ≤ (smGet {} m i).tag).map fun i =>
    { code := if 8 ≤ (smGet {} m i).tag then 0x03 else if (smGet {} m i).tag = tSecret then 0x06 else 0x05 }

/-- A range of the caller's memory that an instruction reads whole. -/
def rangeFault (c : Core) (a len : Nat) : Option Trap :=
  if 2 ^ 20 < a + len ∨ inSpill c a len = true then some { code := 0x0B, info := a } else none

/-- Why CSTART is refused: 0 taken, 1 not permitted, 2 wrong state (R404, R407). -/
def cstartErr (s : State) (p caller n : Nat) : Nat :=
  if n = caller ∨ 16 ≤ n ∨ padOfCore s n ≠ some p ∨ (coreAt s n).retired = true then 1 else if (coreAt s n).state ≠ 0 then 2 else 0

/-- CSTART: the image is taken from the caller's memory; rd is 1 when the load begins. -/
def execBxCstart (core : Nat) (f : BxFields) (s : State) : Host.Outcome State Fault Refusal :=
  .next (runPart s core 0x6C f fun t c => do
    let a ← runtimeTwo c f accPtr accNat
    match rangeFault c a.1 64 with
    | some e => .error e
    | none =>
      let h := memRead c.mem a.1 64
      let len := 64 + u32 h 0x0C + u32 h 0x14
      match rangeFault c a.1 len with
      | some e => .error e
      | none => match imageFault c.mem a.1 len with
        | some e => .error e
        | none =>
          let p := corePad t core
          let e := cstartErr t p core a.2
          if e = 0 then .ok (natRd (beginLoad t a.2 2 core (memRead c.mem a.1 len) c.boot) core f 1)
          else if a.2 < 16 ∧ padOfCore t a.2 = some p then .ok (natRd (modCore t a.2 fun k => { k with cmdErr := e }) core f 0)
          else .ok (natRd t core f 0))

/-- CSTOP: another core of the paddock stops; Table 18.1 lists no stop of a STOPPED core (R404). -/
def execBxCstop (core : Nat) (f : BxFields) (s : State) : Host.Outcome State Fault Refusal :=
  .next (runPart s core 0x6D f fun t c => do
    let a ← runtimeOne c f accNat
    .ok (if a ≠ core ∧ a < 16 ∧ padOfCore t a = padOfCore t core then
      stopCore (modCore t a fun k => { k with cmdErr := if k.state = 0 then 2 else 0 }) a
    else t))

/-! ## Random words and measurement (R296, R321, R323, R408) -/

/-- RAND: 8 bytes of the paddock's instance, SECRET; POISON 0 when it cannot serve. -/
def execBxRand (core : Nat) (f : BxFields) (s : State) : Host.Outcome State Fault Refusal :=
  .next (runPart s core 0x6E f fun t _ =>
    let p := corePad t core
    let t1 := if sourceServes t then dueReseed t p else t
    if drbgServes t1 p then .ok (writeRd (afterRequest t1 p 8) core f.rd (mkTW tSecret (leNat (generated t1 p 8))))
    else .ok (writeRd t1 core f.rd {}))

/-- MEXT: the register extended with 48 bytes, for a core that holds extend rights. -/
def execBxMext (core : Nat) (f : BxFields) (s : State) : Host.Outcome State Fault Refusal :=
  .next (runPart s core 0x6F f fun t c => do
    let a ← runtimeTwo c f accNat accPtr
    match rangeFault c a.2 48 with
    | some e => .error e
    | none =>
      let l := (wordsTouched a.2 48).map fun i => (smGet {} c.mem i).tag
      if l.any (fun x => decide (8 ≤ x)) then .error { code := 0x03 }
      else if l.contains tSecret then .error { code := 0x06 }
      else
        let p := corePad t core
        if a.1 < 16 ∧ extendRights t p = true then .ok (natRd (extendMr t p a.1 (memRead c.mem a.2 48)) core f 1)
        else .ok (natRd t core f 0))

end Sys2Proof.Machine
end

