-- ==== Sys2Proof/Machine/CoreCmds.lean ====
section
/-! DEFINITION. CoreCmds.lean: loading, starting and stopping a core from the host, the end of a load, DROP, and the power-down of a vector
unit (R369, R403 to R409, R422, Tables 18.1, 18.3, 18.8, 18.9). -/

namespace Sys2Proof.Machine

/-- A command of a core refused. -/
def coreErr (s : State) (n e : Nat) : State := modCore s n fun c => { c with cmdErr := e }

/-- The paddock's host functions may load its code (Table 04.9 flags bit 1). -/
def mayLoad (s : State) (p : Nat) : Bool := (padRec s p).hostLoad

/-- A host load of core `n` of paddock `p`: refused with cmd_err 1 or 2, or begun; the image is read from host memory. -/
def hostLoad (s : State) (fn p n source : Nat) (allowed : Bool) (image : Bytes) : State :=
  if !allowed || (coreAt s n).retired || decide (padOfCore s n ≠ some p) then coreErr s n 1
  else if (coreAt s n).state ≠ 0 then coreErr s n 2
  else emit (beginLoad s n source fn image false) (.readRequest fn (fnAt s fn).bxImgAddr image.length)

/-- The core BX_BOOT of a paddock goes to. -/
def lowestCore (s : State) (p : Nat) : Option Nat := (coresOfPad s p).head?

/-- BX_BOOT (R407, Tables 18.3, 18.9): the PF may name any present paddock; another function its own, when flags bit 1 is 1. -/
def execBxBoot (fn : Nat) (value : W64) (image : Bytes) (s : State) : Host.Outcome State Fault Refusal :=
  let p := bits value.toNat 0 5
  .next (if !regsUp s fn || !padPresent s p || (fn != 0 && !(padOfFn s fn == some p && mayLoad s p)) then s
  else match lowestCore s p with
    | none => s
    | some n => hostLoad s fn p n 0 ((coresOfPad s p).all fun m => m == n || (coreAt s m).state == 0) image)

/-- A function of the core's paddock writes BX_CORE_CMD_n (R8). -/
def coreCmdUp (s : State) (fn n : Nat) : Bool := regsUp s fn && decide (n < 16) && (padOfFn s fn).isSome && padOfFn s fn == padOfCore s n

/-- CORE_LOAD: LOAD of BX_CORE_CMD_n. -/
def execCoreLoad (fn core : Nat) (value : W64) (image : Bytes) (s : State) : Host.Outcome State Fault Refusal :=
  .next (match (if coreCmdUp s fn core && cmdOf value == 1 then padOfFn s fn else none) with
    | none => s
    | some p => hostLoad s fn p core 1 (mayLoad s p) image)

/-- CORE_STOP: STOP of BX_CORE_CMD_n, which Table 18.1 lists for a RUNNING and a HALTED core. -/
def execCoreStop (fn core : Nat) (value : W64) (s : State) : Host.Outcome State Fault Refusal :=
  .next (if !(coreCmdUp s fn core && cmdOf value == 2) then s
  else if (coreAt s core).state = 2 ∨ (coreAt s core).state = 3 then stopCore (coreErr s core 0) core
  else coreErr s core 2)

/-- What a load extends register 0 with (R408). -/
def loadMeasure (core source : Nat) (image : Bytes) : Bytes := leBytes 1 core ++ leBytes 1 source ++ zeros 6 ++ sha3_384 image

/-- The load's end: an invalid image leaves the core STOPPED; a valid one is measured, and the core runs. A LOAD ends the extend rights
(R408). -/
def endLoad (s : State) (n p : Nat) (o : LoadOp) : State :=
  if !loadImageOk o.image then stopCore (coreErr s n 3) n
  else
    let s1 := extendMr s p 0 (loadMeasure n o.source o.image)
    let s2 := if o.source = 1 then modPad s1 p fun x => { x with extendLost := true } else s1
    modCore s2 n fun c => { startedCore c o.image with boot := o.source == 0 || (o.source == 2 && o.fromBoot) }

/-- CORE_LOAD_DONE (R408, R409). -/
def execCoreLoadDone (core : Nat) (s : State) : Host.Outcome State Fault Refusal :=
  .next (match (coreAt s core).loading, padOfCore s core with
    | some o, some p => if (coreAt s core).state = 1 ∧ o.waitShed = false then endLoad s core p o else s
    | _, _ => s)

/-- DROP of BX_FEED_CMD_f (R369). -/
def execFeedDrop (fn feed : Nat) (value : W64) (s : State) : Host.Outcome State Fault Refusal :=
  .next (match (if regsUp s fn && decide (feed < 16) && cmdOf value == 1 then padOfFn s fn else none) with
    | none => s
    | some p => modFeed s (p * 16 + feed) dropFeed)

/-- VECTOR_UNIT_POWER_DOWN (R422): not while the image set vec_on. -/
def execVectorUnitPowerDown (core : Nat) (s : State) : Host.Outcome State Fault Refusal :=
  .next (if (coreAt s core).vecOn then s else modCore s core fun c => { c with vecUp := false })

end Sys2Proof.Machine
end

