-- ==== Sys2Proof/Machine/DigestCmds.lean ====
section
/-! DEFINITION. DigestCmds.lean: the compare unit and the measurement registers (R298 to R302). -/

namespace Sys2Proof.Machine

/-- A write reaches a register of the function's paddock. -/
def padUp (s : State) (n : Nat) : Bool := regsUp s n && (padOfFn s n).isSome

/-- A write of 4 or 8 bytes lies within a word of the register at `base` (R124, R492). -/
def wordWrite (base len off size : Nat) : Bool :=
  (size == 4 || size == 8) && off % size == 0 && decide (base ≤ off) && decide (off + size ≤ base + len)

/-- A write of DG_CMP_CTRL: its low four bytes carry every field. -/
def ctrlWrite (off size : Nat) : Bool := off == 0xA340 && (size == 4 || size == 8)

/-- The fields of DG_CMP_CTRL written (Table 13.9). -/
def cmpFields (f : Fn) (v : Nat) : Fn := { f with cmpSlot := bits v 0 3, cmpLen := bits v 4 7 }

/-- DG_CMP_GO (R299): the compare starts, or starts again, and the pair reads "no match" until it ends. -/
def execDgCmpGo (fn offset size : Nat) (value : W64) (s : State) : Host.Outcome State Fault Refusal :=
  .next (if padUp s fn && ctrlWrite offset size && hasBit value.toNat 11 then
    modFn s fn fun f => { cmpFields f value.toNat with cmpGo := true, cmpSpoiled := false, cmpEq := 0#32, cmpNe := 0xFFFFFFFF#32 }
  else s)

/-- The first bytes of the slot and of the expected value agree, and the slot is valid and long enough (R299, Table 13.4). -/
def cmpMatches (s : State) (p : Nat) (f : Fn) : Bool :=
  let x := smGet {} (padAt s p).results f.cmpSlot
  decide (1 ≤ f.cmpLen) && decide (f.cmpLen ≤ 64) && x.valid && decide (f.cmpLen ≤ x.len) && !f.cmpSpoiled &&
  x.data.take f.cmpLen == f.cmpExpect.take f.cmpLen

/-- DG_CMP_DONE (R299): the compare ends and the pair is set. -/
def execDgCmpDone (fn : Nat) (s : State) : Host.Outcome State Fault Refusal :=
  .next (match (if (fnAt s fn).cmpGo then padOfFn s fn else none) with
    | none => s
    | some p =>
      modFn s fn fun f =>
        if cmpMatches s p f then { f with cmpGo := false, cmpSpoiled := false, cmpEq := 0x5A5AA5A5#32, cmpNe := 0xA5A55A5A#32 }
        else { f with cmpGo := false, cmpSpoiled := false, cmpEq := 0#32, cmpNe := 0xFFFFFFFF#32 })

/-- DG_CMP_RESET (R300): a write of DG_CMP_EXPECT, or of DG_CMP_CTRL with go = 0. -/
def execDgCmpReset (fn offset size : Nat) (value : W64) (s : State) : Host.Outcome State Fault Refusal :=
  .next (if !padUp s fn then s
  else if wordWrite 0xA300 64 offset size then
    modFn s fn fun f => { spoilCompare f with cmpExpect := overlay f.cmpExpect (offset - 0xA300) (leBytes size value.toNat) }
  else if ctrlWrite offset size && !hasBit value.toNat 11 then modFn s fn fun f => cmpFields (spoilCompare f) value.toNat
  else s)

/-- MR_EXTEND_WRITE (R296, R298): master 0 to 64 is a host function, which holds no extend rights (R8); 65 + p is the Benxis code of
paddock p. -/
def execMrExtendWrite (master register : Nat) (value : W64) (s : State) : Host.Outcome State Fault Refusal :=
  .next (if 65 ≤ master ∧ master < 97 ∧ extendRights s (master - 65) = true ∧ register < 16 then
    extendMr s (master - 65) register (leBytes 8 value.toNat)
  else s)

end Sys2Proof.Machine
end

