-- ==== Sys2Proof/Machine/EnergyCmds.lean ====
section
/-! DEFINITION. EnergyCmds.lean: the energy planner, the sheds and the hold-up reserve (R49, R51 to R74, R442). -/

namespace Sys2Proof.Machine

/-- The part is awake again: its sheds are ON, the gate works again, the doorbells are taken in arrival order (R55). -/
def leaveDeepSleep (s : State) : State := if !s.sys.deepSleep then s else runBells (endDeepSleep s)

/-! ## Caps and meters (R57 to R63) -/

/-- A cap of 40 to the plan's cap_max (R60). -/
def clampCap (s : State) (v : Nat) : Nat := min (max 40 v) s.plan.part.capMax

/-- The effective cap and its source (R60, Table 03.12): 0 plan, 1 EN_CAP, 2 I3C. -/
def effectiveCap (s : State) : Nat × Nat :=
  let p := s.plan.part.capMax
  let c := s.en.capQw
  let i := s.en.i3cCap.getD p
  let m := min p (min c i)
  (m, if m = p then 0 else if m = c then 1 else 2)

/-- EN_CAP_WRITE (R60, Table 03.8). -/
def execEnCapWrite (fn : Nat) (value : W64) (s : State) : Host.Outcome State Fault Refusal :=
  .next (if fn = 0 ∧ regsUp s fn = true then
    { s with en := { s.en with capQw := clampCap s (bits value.toNat 0 10), windowMs := min (max 1 (bits value.toNat 16 14)) 10000 } }
  else s)

/-- I3C_CAP_SET (R60); an I3C transaction addressed to the part ends deep sleep (R55). A part that waits for its cold reset in LOCKED or after
a transition takes none (R83, R104). -/
def execI3cCapSet (capQw : Nat) (s : State) : Host.Outcome State Fault Refusal :=
  .next (if s.sys.porstN && decide (s.sys.bootState ≤ 1) && !s.lc.resetRequired then
    let s1 := if s.en.flushActive then s else settle (leaveDeepSleep s)
    { s1 with en := { s1.en with i3cCap := some (clampCap s1 capQw) } }
  else s)

/-- A core's metered energy counts for the paddock it is dedicated to, in whole µJ as they come together (R59; log entry 107). -/
def addCore (s : State) (e : Nat × Nat) : State := match padOfCore s e.1 with
  | none => s
  | some p =>
    let n := smGet 0 s.en.coreNj p + e.2
    { s with en := { s.en with padEnergy := smMod 0 s.en.padEnergy p fun x => (x + n / 1000) % 2 ^ 64, coreNj := smSet 0 s.en.coreNj p (n % 1000) } }

/-- What a sample says a shed drew, nJ. -/
def drawnBy (deltas : List (Nat × Nat)) (i : Nat) : Nat := ((deltas.filter fun e => e.1 == i).map Prod.snd).sum

/-- Active cycles of a sample on the stalls of a shed: stall, job, cycles. -/
def shedCycles (active : List (Nat × Nat × Nat)) (i : Nat) : Nat := ((active.filter fun e => stallShed e.1 == i).map fun e => e.2.2).sum

/-- A running job's part of a sample: the shed's energy by its share of the shed's active cycles (R58). -/
def addActive (deltas : List (Nat × Nat)) (active : List (Nat × Nat × Nat)) (s : State) (e : Nat × Nat × Nat) : State :=
  let i := stallShed e.1
  modJob s e.2.1 fun j => if j.phase == .running || j.phase == .staged then
    { j with energyNj := j.energyNj + drawnBy deltas i * e.2.2 / max 1 (shedCycles active i) } else j

/-- The sample joins those of the last 10 s, the longest window (R61, Table 03.8). -/
def addSample (s : State) (deltas : List (Nat × Nat)) : State :=
  let grown := fun (p : Nat) => smGet 0 s.en.padEnergy p - smGet 0 s.en.padSeen p
  let x : EnergySample := { at_ := s.time, nj := (deltas.map Prod.snd).sum, pads := (List.range 32).foldl (fun m p => smSet 0 m p (grown p)) [] }
  { s with en := { s.en with
      samples := x :: s.en.samples.filter fun y => decide (s.time < y.at_ + 10000000000),
      lastNj := (List.range 24).foldl (fun m i => smSet 0 m i (drawnBy deltas i)) [], padSeen := s.en.padEnergy } }

/-- The time between two samples, ns (R57). -/
def samplePeriod : Nat := 10000

/-- Samples that lie in a window of `ns` which ends at the next sample. -/
def windowOf (s : State) (ns : Nat) : List EnergySample := s.en.samples.filter fun x => decide (s.time + samplePeriod < x.at_ + ns)

/-- Energy of the whole part in such a window, nJ. -/
def windowNj (s : State) (ns : Nat) : Nat := ((windowOf s ns).map (·.nj)).sum

/-- What the whole part drew in the last sample, nJ. -/
def lastTotal (s : State) : Nat := match s.en.samples with
  | [] => 0
  | x :: _ => x.nj

/-- The energy window, ns (Table 03.8). -/
def windowNs (s : State) : Nat := s.en.windowMs * 1000000

/-- The next sample, taken to draw what the last drew, would break R61: effective cap × window_ms, or 85 mJ in 1 ms (DESIGN CHOICE, log 106). -/
def wouldBreak (s : State) : Bool :=
  decide ((effectiveCap s).1 * 250000 * s.en.windowMs < windowNj s (windowNs s) + lastTotal s) ||
  decide (85000000 < windowNj s 1000000 + lastTotal s)

/-- Energy of a paddock in the window, µJ (R59, R63). -/
def padWindow (s : State) (p : Nat) : Nat := ((windowOf s (windowNs s)).map fun x => smGet 0 x.pads p).sum

/-- A paddock's guaranteed share over the window, in 1/256 µJ: plan share × effective cap × window (R63). -/
def padShare (s : State) (p : Nat) : Nat := (padRec s p).energyShare * (effectiveCap s).1 * 250 * s.en.windowMs

/-- The paddock has work waiting. -/
def padWaits (s : State) (p : Nat) : Bool := (liveJobs s).any fun j => j.paddock == p && j.phase == .staged && j.fixed == 0

/-- Share that paddocks without work waiting have left unused, in 1/256 µJ (R63). -/
def unusedShare (s : State) : Nat :=
  (((padsPresent s).filter fun p => !padWaits s p).map fun p => padShare s p - 256 * padWindow s p).sum

/-- Share lent to a paddock with work waiting, in proportion to the shares of those that have (R63). -/
def lentShare (s : State) (p : Nat) : Nat :=
  if padWaits s p then unusedShare s * padShare s p / max 1 (((padsPresent s).filter (padWaits s)).map (padShare s)).sum else 0

/-- The paddock is above its energy share over the window, what is lent to it included (R62, R63). -/
def aboveShare (s : State) (p : Nat) : Bool := decide (padShare s p + lentShare s p < 256 * padWindow s p)

/-- The paddock is below its own share (R65). -/
def belowShare (s : State) (p : Nat) : Bool := decide (256 * padWindow s p < padShare s p)

/-- The ON stall shed of highest metered power whose step can still be lowered (R62). -/
def hottest (s : State) : Option Nat :=
  let can := fun i => shedAt s i == 2 && decide (stepAt s i < 3)
  let power := fun i => smGet 0 s.en.lastNj i
  ((List.range 14).filter can).foldl (fun best i => match best with
    | none => some i
    | some b => if power b < power i then some i else some b) none

/-- Clock steps of every stall shed put to one value. -/
def allSteps (s : State) (v : Nat) : SMap Nat := (List.range 14).foldl (fun m i => smSet 0 m i v) s.en.step

/-- One shed's clock step lowered by one. -/
def lowerStep (s : State) (i : Nat) : State := { s with en := { s.en with step := smMod 0 s.en.step i (· + 1) } }

/-- The paddocks above their share, as a mask. -/
def aboveMask (s : State) : Nat := (padsPresent s).foldl (fun m p => if aboveShare s p then setBit m p else m) 0

/-- The planner acts before R61 would break: wakes, then steps, then dispatch of paddocks above their share, one action a sample (R62; log
entry 106). -/
def planDown (s : State) : State :=
  let s1 := { s with en := { s.en with capBinding := true } }
  if !s1.en.withholdWakes then { s1 with en := { s1.en with withholdWakes := true } }
  else match hottest s1 with
    | some i => lowerStep s1 i
    | none => { s1 with en := { s1.en with withholdPads := aboveMask s1 } }

/-- Nothing would break: every action of the planner ends at once (DESIGN CHOICE, log 106); a hot die keeps step 3 (Table 20.3). -/
def planUp (s : State) : State :=
  { s with en := { s.en with capBinding := false, withholdWakes := false, withholdPads := 0, step := allSteps s (if s.en.overtemp then 3 else 0) } }

/-- ENERGY_SAMPLE (R57 to R59, R61 to R63): what each shed and each Benxis core has drawn since the last sample, in nJ, and the active cycles
of each job on its stall. -/
def execEnergySample (deltas : List (Nat × Nat)) (parts : SampleParts) (s : State) : Host.Outcome State Fault Refusal :=
  .next (if !s.sys.porstN then s
  else
    let l := deltas.filter fun e => decide (e.1 < 24)
    let s1 := addSample (parts.cores.foldl addCore (parts.active.foldl (addActive l parts.active) (l.foldl addMeter s))) l
    if s1.sys.deepSleep || s1.en.flushActive then s1 else if wouldBreak s1 then planDown s1 else if s1.en.capBinding then planUp s1 else s1)

/-- OVERTEMP_END (R442). -/
def execOvertempEnd (s : State) : Host.Outcome State Fault Refusal :=
  .next (if s.en.overtemp then kindEnds { s with en := { s.en with overtemp := false, step := allSteps s 0 } } 0x1C else s)

/-! ## The reserve (R68 to R74) -/

/-- HOLDUP_ADC_CONVERSION (R68, R73, R74). -/
def execHoldupAdcConversion (raw : Nat) (s : State) : Host.Outcome State Fault Refusal :=
  .next (if !s.sys.porstN then s
  else
    let s1 := convert s raw
    if s1.en.calValid && decide (12 ≤ s1.sys.stage) then recheck (evalReserve s1) [1] else s1)

/-- ADC_CALIBRATE (R69). -/
def execAdcCalibrate (zeroRaw refRaw : Nat) (s : State) : Host.Outcome State Fault Refusal :=
  .next (if s.sys.porstN then calibrate s zeroRaw refRaw else s)

/-- RESERVE_LOW_CLEAR (R74): the reserve has covered the live records and 1,000 µJ for 10 ms. -/
def execReserveLowClear (s : State) : Host.Outcome State Fault Refusal :=
  .next (if s.en.reserveLow && coversWith s (usableNow s) (nLive s) 1000 then
    recheck { s with en := { s.en with reserveLow := false } } [1]
  else s)

/-! ## Sheds (R51 to R53, R64 to R66) -/

/-- A hayloft operation is queued or in progress: a write, a log entry, a refill (R241), a rebuild (R475), a restore (R260, R342). -/
def hayloftBusy (s : State) : Bool :=
  (s.hl.objs.any fun e => e.2.writing.isSome) || (s.jobs.any fun j => j.waitHayloft) || !s.fc.toLog.isEmpty || s.hl.rebuilding ||
  s.tk.restoring || (s.tk.hbs.any fun e => e.2.refill.isSome) || s.cache.any fun e => e.2.restoring

/-- Of work's wake requests, the one of the oldest job; equal rank goes to the lower shed (R65). -/
def bestWake : List (Nat × Nat × Nat) → Option (Nat × Nat × Nat)
  | [] => none
  | e :: r => match bestWake r with
    | none => some e
    | some m => if m.2.1 < e.2.1 ∨ (m.2.1 = e.2.1 ∧ m.1 < e.1) then some m else some e

/-- A shed that a wake request can be raised for: OFF, and not of policy NEVER (R64). -/
def mayWake (s : State) (i : Nat) : Bool := shedAt s i == 0 && shedPolicy s i != 2

/-- Sheds whose cores wait to be loaded (R407), with the paddock of each. -/
def loadWakes (s : State) : List (Nat × Option Nat) :=
  ((List.range 16).filter fun n => match (coreAt s n).loading with
    | some o => o.waitShed && mayWake s (coreShed n)
    | none => false).map fun n => (coreShed n, padOfCore s n)

/-- Sheds of policy ALWAYS that are not yet ON (R64). -/
def alwaysWakes (s : State) : List Nat :=
  if s.plan.loaded then policySheds.filter fun i => shedPolicy s i == 0 && shedAt s i == 0 else []

/-- The request the planner grants next: of jobs, of loads, of the hayloft, of the policy ALWAYS, of next trees, of the farrier; shed and paddock served
(R64, R65). -/
def nextWake (s : State) : Option (Nat × Option Nat) :=
  match bestWake (workWakes s) with
  | some e => some (e.1, some e.2.2)
  | none => match loadWakes s with
    | e :: _ => some e
    | [] =>
      if mayWake s 22 && hayloftBusy s then some (22, none)
      else match alwaysWakes s with
        | i :: _ => some (i, none)
        | [] => match treeWakes s with
        | e :: _ => some (e.1, some e.2)
        | [] => ((s.en.wakes.filter (mayWake s)).head?).map fun i => (i, none)

/-- Cap headroom in mW: the effective cap less what the last sample drew and less the step-0 power of the sheds still WAKING (R65, R507;
DESIGN CHOICE, log 108). -/
def headroomMw (s : State) : Int :=
  ((effectiveCap s).1 * 250 : Nat) - ((lastTotal s * 1000 / samplePeriod : Nat) : Int) -
    ((((List.range 18).filter fun i => shedAt s i == 1).map fun i => shedPowerMw i 0).sum : Nat)

/-- Room is made for a paddock below its share: the hottest shed's step is lowered, again and again, until what is short is covered
(step 2 of R62, R65, Table 24.8). Gives the state and what is still short, mW. -/
def roomFor : Nat → State → Int → State × Int
  | 0, s, short => (s, short)
  | fuel + 1, s, short =>
    if short ≤ 0 then (s, short)
    else match hottest s with
      | none => (s, short)
      | some i => roomFor fuel (lowerStep s i) (short - (shedPowerMw i (stepAt s i) - shedPowerMw i (stepAt s i + 1) : Nat))

/-- A shed is granted its wake. -/
def grantWake (s : State) (i : Nat) : State := setShed { s with en := { s.en with wakes := s.en.wakes.filter (· != i) } } i 1

/-- What a shed's step-0 power exceeds the headroom by, mW; while the planner withholds wakes there is no headroom (R62, R65). -/
def wakeShort (s : State) (i : Nat) : Int := (shedPowerMw i 0 : Nat) - (if s.en.withholdWakes then min 0 (headroomMw s) else headroomMw s)

/-- The first request is granted when the headroom covers the shed, and, for a paddock below its share, once room has been made (R65). -/
def tryWake (s : State) (i : Nat) (p : Option Nat) : State :=
  if wakeShort s i ≤ 0 ∧ s.en.withholdWakes = false then grantWake s i
  else if p.any (belowShare s) then
    let r := roomFor 42 s (wakeShort s i)
    if r.2 ≤ 0 then grantWake r.1 i else r.1
  else s

/-- SHED_WAKE_GRANT (R62, R65, R507). -/
def execShedWakeGrant (s : State) : Host.Outcome State Fault Refusal :=
  .next (if s.sys.bootState ≠ 1 ∨ s.sys.deepSleep = true ∨ frozen s = true then s
  else match nextWake s with
    | none => s
    | some (i, p) => tryWake s i p)

/-- The stalls of a shed that reaches ON: idle, their local sources seeded, a spare mapped in meanwhile mucked out (R424, Table 20.9). -/
def wakeStall (s : State) (n : Nat) : State :=
  if (stAt s n).state ≠ 0 then s
  else
    let s1 := seedStall (modSt s n fun x => { x with state := 1 }) n
    if (stAt s1 n).muckAtWake then startMuck (modSt s1 n fun x => { x with muckAtWake := false }) n 0 else s1

/-- A shed reaches ON. -/
def shedOn (s : State) (i : Nat) : State :=
  let s1 := setShed s i 2
  if i < 14 then (shedStalls i).foldl wakeStall { s1 with en := { s1.en with step := smSet 0 s1.en.step i (if s1.en.overtemp then 3 else stepAt s1 i) } }
  else if i < 18 then
    (List.range 4).foldl (fun t k => modCore t (4 * (i - 14) + k) fun c => { c with loading := c.loading.map fun o => { o with waitShed := false } }) s1
  else s1

/-- SHED_WAKE_DONE (R52). -/
def execShedWakeDone (shed : Nat) (s : State) : Host.Outcome State Fault Refusal :=
  .next (if shedAt s shed = 1 then shedOn s shed else s)

/-- A stall shed whose stalls are idle is mucked out where it must be, and then sleeps (Table 03.2). -/
def sleepStalls (s : State) (i : Nat) : State :=
  let l := shedStalls i
  if !(l.all fun n => (stAt s n).state == 1 || (stAt s n).state == 5) then s
  else
    let dirty := l.filter fun n => (stAt s n).state == 1 && (stAt s n).dirty
    if dirty.isEmpty then sleepShed s i else dirty.foldl (fun t n => startMuck t n 3) s

/-- SHED_IDLE_TIMEOUT (R52, R64, R66): only sheds of wake policy DEMAND or NEVER sleep. -/
def execShedIdleTimeout (shed : Nat) (s : State) : Host.Outcome State Fault Refusal :=
  .next (if shedAt s shed ≠ 2 ∨ shedPolicy s shed = 0 then s
  else if shed < 14 then sleepStalls s shed
  else if shed < 18 then
    (if (List.range 4).all fun k => (coreAt s (4 * (shed - 14) + k)).state == 0 then sleepShed s shed else s)
  else if shed = 22 ∧ hayloftBusy s = false then sleepShed s shed
  else s)



/-- A shed is OFF: its stalls stand OFF, and a Benxis shed loses core state and local memory. -/
def shedOff (s : State) (i : Nat) : State :=
  let s1 := setShed s i 0
  if i < 14 then (shedStalls i).foldl (fun t n => modSt t n fun x => if x.state = 5 then x else { x with state := 0, operand := [] }) s1
  else if i < 18 then (List.range 4).foldl (fun t k => modCore t (4 * (i - 14) + k) coreOff) s1
  else s1

/-- SHED_SLEEP_DONE (R52). -/
def execShedSleepDone (shed : Nat) (s : State) : Host.Outcome State Fault Refusal :=
  .next (if shedAt s shed = 3 then shedOff s shed else s)

/-! ## Deep sleep (R54, R55, R322) -/

/-- Every function sleeps, or the link is in L1.2. -/
def hostQuiet (s : State) : Bool :=
  s.port.linkState == 3 || (List.range 65).all fun n => !(n == 0 || (fnAt s n).present) || fnSleeps s n

/-- No shed is WAKING, since a granted wake always completes (R53), and no stall is being mucked out or is out for self-test (R66). -/
def shedsQuiet (s : State) : Bool :=
  ((List.range 24).all fun i => shedAt s i != 1) && s.fc.claimed.isNone &&
  ((List.range 52).all fun n => (stAt s n).state == 0 || (stAt s n).state == 1 || (stAt s n).state == 5)

/-- The conditions of R54, and sheds that can go off (R53, R66). -/
def maySleep (s : State) : Bool :=
  s.sys.bootState == 1 && !s.sys.deepSleep && !s.en.flushActive && s.plan.part.deepSleepEn && s.jobs.isEmpty &&
  ((List.range 16).all fun n => (coreAt s n).state == 0) && !hayloftBusy s && hostQuiet s && shedsQuiet s

/-- An idle stall that a job has run on is mucked out before its shed goes off (Table 03.2). -/
def muckIdle (s : State) (n : Nat) : State :=
  modSt s n fun x => if x.state == 1 && x.dirty then { x with dirty := false, muckouts := satAdd 0xFFFF x.muckouts 1 } else x

/-- DEEP_SLEEP_ENTRY (R54): the stalls are mucked out and every shed goes through SLEEPING to OFF but AON and JNL, whose clock alone stops (R9,
Table 03.2; log entry 110); the instances and the source's output go with SYS (R322); the reserve of R436 is drawn. -/
def execDeepSleepEntry (s : State) : Host.Outcome State Fault Refusal :=
  .next (if maySleep s then
    let s1 := (List.range 24).foldl (fun t i => if i = 18 ∨ i = 19 then t else shedOff t i) ((List.range 52).foldl muckIdle s)
    let s2 := loseDrbgs s1
    { s2 with sys := { s2.sys with deepSleep := true },
              rng := { s2.rng with ready := false, store := 0, waiting := [], fifo := [], attempts := 0, restarting := false },
              tp := { s2.tp with reserveDraw := s2.freeCtr }, freeCtr := s2.freeCtr + 1 }
  else s)

/-- DEEP_SLEEP_EXIT (R55): by any of its triggers; 0, a link wake, and 1, a doorbell-capable link return, bring the link to L0 (Table 03.4). -/
def execDeepSleepExit (trigger : Nat) (s : State) : Host.Outcome State Fault Refusal :=
  .next (if s.en.flushActive || !s.sys.deepSleep then s
  else
    let s1 := if trigger ≤ 1 then { s with port := { s.port with linkState := 0 } } else s
    settle (leaveDeepSleep s1))

end Sys2Proof.Machine
end

