-- ==== Sys2Proof/Machine/JournalCmds.lean ====
section
/-! DEFINITION. JournalCmds.lean: the commands ACCEPT, REFILL_COMMIT, NEXT_TREE_READY, CAPTURE_GEN_DRAW, TIME_BASE_SAVE, JOURNAL_SCRUB,
SHUTDOWN and SHUTDOWN_FLUSH (R26, R164 to R167, R175, R180, R187, R240 to R242, R246). -/

namespace Sys2Proof.Machine

/-- A record has become live: a job without a stall of its kind ends at once (Table 07.9). -/
def afterAccept (s : State) : State := settle ([1, 2, 3, 4].foldl sweepKind s)

/-- A record that cannot be written to a bank leaves its entry unconsumed, and the fatal fault stops the gate (R167). Which bank and row
failed is known to the bank alone, so free (log entry 3). -/
def acceptFails (s : State) (j : Job) : State :=
  let d := draw (dropEntry s j)
  raiseFault d.2 (0x080 + d.1 % 2) 0x13 false 0 (d.1 / 2 % 2 ^ 40)

/-- ACCEPT (R164): the second bank write of the record being written ends, or fails after its retry (R167). A fenced side accepts nothing
(R198). -/
def execGateAccept (queue : Nat) (written : Bool) (s : State) : Host.Outcome State Fault Refusal :=
  .next (match s.jobs.find? (fun j => j.queue == queue && !isLive j && !j.sent) with
    | none => s
    | some j =>
      if s.jn.role = 3 then s
      else if written then afterAccept (acceptEntry s queue) else settle (acceptFails s j))

/-- A refill commits: indices below the new H can be placed (R241, R242). -/
def commitRefill (s : State) (n h : Nat) : State :=
  recheck (startRefill (modHbs s n fun x => { x with h := max x.h h, refill := none }) n) [2]

/-- REFILL_COMMIT (R241): in a twin the partner must have verified its copy too (R246). -/
def execRefillCommit (slot : Nat) (s : State) : Host.Outcome State Fault Refusal :=
  .next (match (hbsAt s slot).refill with
    | none => s
    | some h => if mirrored s then sendFrame s 0x03 [slot, h] else commitRefill s slot h)

/-- NEXT_TREE_READY (R240): the stall that computed the tree is free again; its energy is the paddock's, and metered, so a free value. -/
def execNextTreeReady (slot : Nat) (s : State) : Host.Outcome State Fault Refusal :=
  .next (match (List.range 52).find? (fun k => (stAt s k).tree == some slot), nextTree s slot with
    | some k, some (level, t) =>
      let d := draw s
      let s1 := modHbs d.2 slot fun x => { x with nextTrees := smSet 0 x.nextTrees level t }
      let s2 := if (stAt s1 k).reqClaim then leaveStall s1 k else modSt s1 k fun x => { x with state := 1, tree := none }
      recheck { s2 with en := { s2.en with padEnergy := smMod 0 s2.en.padEnergy (hbsAt s slot).paddock fun e => (e + d.1 % 2 ^ 32) % 2 ^ 64 } } [2]
    | some k, none => leaveStall s k
    | none, _ => s)

/-- CAPTURE_GEN_DRAW (R175): a generation is due and is drawn, or stays due until a slot frees. -/
def execCaptureGenDraw (paddock : Nat) (s : State) : Host.Outcome State Fault Refusal :=
  .next (if s.jn.opened && padPresent s paddock then drawGen s paddock else s)

/-- TIME_BASE_SAVE (R26). -/
def execTimeBaseSave (toHayloft : Bool) (s : State) : Host.Outcome State Fault Refusal :=
  .next (if s.sys.stage < 13 ∨ s.en.flushActive = true then s
    else if toHayloft then { s with sys := { s.sys with timeHayloft := s.time } } else journalWrite s)

/-- JOURNAL_SCRUB (R180): a corrected error at a row of a bank is rewritten from the other bank. -/
def execJournalScrub (bank : Nat) (corrected : Option Nat) (s : State) : Host.Outcome State Fault Refusal :=
  .next (match corrected with
    | some row => if bank < 2 ∧ s.jn.held = true then settle (raiseFault (rowMended s (0x080 + bank) row) (0x080 + bank) 0x12 false 0 row) else s
    | none => s)

/-- SHUTDOWN (R187): acceptance stops; paddock 0 only. -/
def execJnShutdown (fn : Nat) (value : W64) (s : State) : Host.Outcome State Fault Refusal :=
  .next (if fn = 0 ∧ regsUp s fn = true ∧ cmdOf value = 1 ∧ s.jn.shutdownDone = false then { s with jn := { s.jn with shutting := true } } else s)

/-- SHUTDOWN_FLUSH (R187): steps 2 to 6 of Table 08.4 on what remains live, and the part accepts nothing more. HIF goes on serving the registers
that show it (DEDUCED, log 113). -/
def execShutdownFlush (s : State) : Host.Outcome State Fault Refusal :=
  .next (if s.jn.shutting && !s.en.flushActive then
    let s1 := commitFlush (stopAll s workSheds) (!s.hl.failed0) (!s.hl.failed1)
    { s1 with jn := { s1.jn with shutting := false, shutdownDone := true } }
  else s)

end Sys2Proof.Machine
end

