-- ==== Sys2Proof/Machine/Mirror.lean ====
section
/-! DEFINITION. Mirror.lean: the numbers of hayloft objects (R465) and what a twin's partner holds of them: an object's content as words of a
tether frame of type 0x03 or 0x04 and its installation on the other side (R246, Table 22.6; the layout is a DESIGN CHOICE, log 113). -/

namespace Sys2Proof.Machine

/-! ## Object numbers (R465) -/

/-- Object numbers: a slot's copy, a blob, the revocation marks, a stateful key with its reservation and tree cache (R237), an image slot, the
certificates of a part, a sticky cache entry. -/
def slotObj (n : Nat) : Nat := 2 ^ 32 + n
def blobObj (b : Nat) : Nat := 2 * 2 ^ 32 + b
def marksObj : Nat := 3 * 2 ^ 32
def hbsObj (n : Nat) : Nat := 4 * 2 ^ 32 + n
def imageObj (kind slot : Nat) : Nat := 5 * 2 ^ 32 + 2 * kind + slot
def certsObj : Nat := 6 * 2 ^ 32
def cacheObj (k : Nat) : Nat := 2 ^ 40 + k

def objAt (s : State) (o : Nat) : Obj := smGet {} s.hl.objs o
def putObj (s : State) (o : Nat) (x : Obj) : State := { s with hl := { s.hl with objs := smSet {} s.hl.objs o x } }

/-- A write of an object begins, or waits for the one in progress to commit (R465): work for HLF (R53). -/
def startWrite (s : State) (o : Nat) : State :=
  let x := objAt s o
  if x.writing.isSome then s else putObj (workFor s 22) o { x with writing := some (x.version + 1), ok0 := false, ok1 := false }

/-- The hayloft takes writes: a channel stands, write protection is released, no flush runs (R45, R466, R475). -/
def hayloftWrites (s : State) : Bool := s.hl.wpReleased && !(s.hl.failed0 && s.hl.failed1) && !s.en.flushActive

/-! ## Content as words -/

/-- A byte string as words, after its length. -/
def lenWords (b : Bytes) : List Nat := b.length :: wordsOf ((b.length + 7) / 8) b

/-- The byte string that `lenWords` gives. -/
def unlenWords (l : List Nat) : Bytes := ((l.drop 1).flatMap (leBytes 8)).take (l.headD 0)

/-- A slot: state, class, algorithm, parameter set, attribute word, place in the tree, held form. -/
def slotWords (x : Slot) : List Nat :=
  [if x.state = 1 then 2 else x.state, x.cls, x.alg, x.paramSet, x.keyLen, x.gen, x.attrs, x.parent, x.depth, x.parentGen, b1 x.revoked] ++ lenWords x.material

def readSlotWords (l : List Nat) : Slot :=
  let w := fun (i : Nat) => l.getD i 0
  { state := w 0, cls := w 1, alg := w 2, paramSet := w 3, keyLen := w 4, gen := w 5, attrs := w 6, parent := w 7, depth := w 8, parentGen := w 9,
    revoked := w 10 == 1, material := unlenWords (l.drop 11) }

/-- A blob entry. -/
def blobWords (x : BlobEntry) : List Nat :=
  [x.paddock, x.gen, x.cls, x.alg, x.paramSet, x.keyLen, x.attrs, x.parent, x.parentGen, x.depth, b1 x.revoked] ++ lenWords x.bytes

def readBlobWords (l : List Nat) : BlobEntry :=
  let w := fun (i : Nat) => l.getD i 0
  { present := true, ready := true, paddock := w 0, gen := w 1, cls := w 2, alg := w 3, paramSet := w 4, keyLen := w 5, attrs := w 6, parent := w 7,
    parentGen := w 8, depth := w 9, revoked := w 10 == 1, bytes := unlenWords (l.drop 11) }

/-- A stateful key: levels, batch, low mark, paddock, then its slot. -/
def hbsWords (x : HbsKey) (k : Slot) : List Nat :=
  [x.paramSet, leNat (x.levels.take 8), x.levels.length, x.batchLog2, x.lowMark, x.paddock] ++ slotWords k

def readHbsWords (l : List Nat) : HbsKey × Slot :=
  let w := fun (i : Nat) => l.getD i 0
  ({ present := true, paramSet := w 0, levels := (leBytes 8 (w 1)).take (w 2), batchLog2 := w 3, lowMark := w 4, paddock := w 5 }, readSlotWords (l.drop 6))

/-- A sticky cache entry. -/
def cacheWords (x : CacheEntry) : List Nat :=
  [x.gen, x.alg, x.paramSet, x.size] ++ lenWords x.key

def readCacheWords (l : List Nat) : CacheEntry :=
  let w := fun (i : Nat) => l.getD i 0
  { present := true, sticky := true, complete := true, stored := true, gen := w 0, alg := w 1, paramSet := w 2, size := w 3, key := unlenWords (l.drop 4) }

/-- The content of an object; a revocation mark is one word, bit 16 set for a blob. An image goes to each part by STORE_IMAGE, the certificates
are a part's own, and neither is a home paddock's. -/
def objWords (s : State) (o : Nat) : List Nat :=
  let n := o % 2 ^ 32
  if 2 ^ 40 ≤ o then cacheWords (cacheAt s (o - 2 ^ 40))
  else match o / 2 ^ 32 with
    | 1 => slotWords (slotAt s n)
    | 2 => blobWords (blobAt s n)
    | 3 => ((smKeys s.tk.slots).filter fun k => (slotAt s k).revoked) ++
        ((smKeys s.tk.blobs).filter fun k => (blobAt s k).revoked).map (2 ^ 16 + ·)
    | 4 => hbsWords (hbsAt s n) (slotAt s n)
    | _ => []

/-! ## Sent and installed -/

/-- A committed write of a home paddock's object goes to the partner: stateful keys in frames of type 0x03, with H, other objects in frames of
type 0x04 (R246, Table 22.6). -/
def sendObject (s : State) (o : Nat) : State :=
  if !mirrored s then s
  else if o / 2 ^ 32 = 4 then sendFrame s 0x03 ([o % 2 ^ 32, (hbsAt s (o % 2 ^ 32)).h] ++ objWords s o)
  else if o / 2 ^ 32 ∈ [5, 6] then s
  else sendFrame s 0x04 ([o, (smGet {} s.hl.objs o).version] ++ objWords s o)

/-- A copy of a slot written on this part too, sealed under its own state and epoch (R246, R342). -/
def installSlot (s : State) (n : Nat) (x : Slot) : State :=
  putSlot s n { x with copy0 := !s.hl.failed0, copy1 := !s.hl.failed1, sealState := s.lc.state, sealEpoch := s.lc.epoch }

/-- A stateful key with its slot and its tree cache, which takes cache space as on the side that made it (R240, R246). -/
def installHbs (s : State) (n : Nat) (l : List Nat) : State :=
  let x := readHbsWords l
  let old := hbsAt s n
  let s1 := putHbs (installSlot s n x.2) n { x.1 with h := old.h, nNext := old.nNext }
  if (smKeys s1.cache).any fun k => (cacheAt s1 k).tree == some n then s1
  else match addCache s1 x.1.paddock { alg := x.2.alg, paramSet := x.1.paramSet, size := treeSize x.2.alg x.1.paramSet x.1.levels, tree := some n,
                                       complete := true } with
    | some r => r.2
    | none => s1

/-- The partner's object, written here. -/
def installObject (s : State) (o : Nat) (l : List Nat) : State :=
  let n := o % 2 ^ 32
  if 2 ^ 40 ≤ o then putCache s (o - 2 ^ 40) (readCacheWords l)
  else match o / 2 ^ 32 with
    | 1 => installSlot s n (readSlotWords l)
    | 2 => putBlob s n { readBlobWords l with copy0 := !s.hl.failed0, copy1 := !s.hl.failed1 }
    | 3 => l.foldl (fun t k => if k < 2 ^ 16 then modSlot t k fun x => { x with revoked := true, state := if x.state = 1 then 1 else 3 }
        else modBlob t (k - 2 ^ 16) fun x => { x with revoked := true }) s
    | _ => s

end Sys2Proof.Machine
end

