-- ==== Sys2Proof/Machine/TetherCmds.lean ====
section
/-! DEFINITION. TetherCmds.lean: the tether and the twin in operation (R29, R94 to R96, R196 to R200, R246, R485 to R489, Table 22.6). -/

namespace Sys2Proof.Machine

/-! ## Acknowledgements (R486) -/

/-- Frames stand before a sequence number, modulo 2^32. -/
def seqBefore (a b : Nat) : Bool := a != b && decide ((b + 2 ^ 32 - a) % 2 ^ 32 < 2 ^ 31)

/-- What the partner's acknowledgement of one frame completes: an acceptance, a retirement, a refill (R29, R196, R246). -/
def frameAcked (s : State) (f : Frame) : State :=
  match f.kind, f.payload with
  | 0x01, w :: _ =>
    (match s.jobs.find? fun j => j.sent && !isLive j && j.seq == w with
      | some j => afterAccept (becomeLive s j.queue)
      | none => s)
  | 0x02, w :: q :: _ =>
    (match (queueJobs s q).head? with
      | some j => if j.sent && j.seq == w then
          let s1 := retireHead s q
          replaysDone (forgetDone (retireSilent s1 q (s1.jobs.length + 1)) q)
        else s
      | none => s)
  | 0x03, n :: h :: _ => if (hbsAt s n).refill = some h then commitRefill s n h else s
  | _, _ => s

/-- Every frame before `n` is acknowledged (R486). -/
def ackUpTo (s : State) (n : Nat) : State :=
  let done := s.tt.unacked.takeWhile fun f => seqBefore f.seq n
  done.foldl frameAcked { s with tt := { s.tt with unacked := s.tt.unacked.drop done.length } }

/-- Unacknowledged frames go out again, charged to a lane (R486). -/
def resend (s : State) (lane : Nat) : State :=
  if s.tt.unacked.isEmpty then s else raiseFault (retransmit s) (0x180 + lane % 4) 0x20 false 0 0

/-- A frame of type 0x07: 1 acknowledges, 0 also asks for retransmission; `lane` carried the failing block. -/
def takeAck (s : State) (f : Frame) : State :=
  let s1 := ackUpTo s f.seq
  if f.payload.headD 1 = 0 then resend s1 (f.payload.getD 1 0) else s1

/-! ## What a delivered frame does (Table 22.6) -/

/-- Words of a payload as bytes. -/
def bytesOfWords (l : List Nat) : Bytes := l.flatMap (leBytes 8)

/-- A count of the partner's is below every count this side gives from now on: the counts are bits 63 to 1 of accept_seq (R189, R196). -/
def raiseCount (s : State) (n : Nat) : State :=
  if s.jn.nextSeq / 2 ≤ n / 2 then raiseBound { s with jn := { s.jn with nextSeq := ownSide s (n / 2 * 2 + 2) } } else s

/-- The capture key that a record brings with it. -/
def takeCap (m : SMap Bytes) (j : Job) (l : List Nat) : SMap Bytes := match j.capGen with
  | some g => if l.isEmpty then m else smSet [] m (j.paddock * 16 + g) (bytesOfWords l)
  | none => m

/-- One of the partner's records, kept in both banks here, with its capture key and its queue's A. -/
def takeRecord (s : State) (l : List Nat) : State :=
  match readRecord (bytesOfWords (l.take 12)) with
  | none => s
  | some j =>
    let s1 := journalWrite (raiseCount s j.seq)
    { s1 with tt := { s1.tt with mirror := (s1.tt.mirror.filter fun x => x.seq != j.seq) ++ [j],
                                 mirrorA := smSet 0 s1.tt.mirrorA j.queue (nextIdx (qAt s1 j.queue).k j.index),
                                 mirrorCaps := takeCap s1.tt.mirrorCaps j (l.drop 12) } }

/-- A stateful key of the partner's: its H, and with a tree cache and slot these too (R246). -/
def takeStateful (s : State) (n h : Nat) (l : List Nat) : State :=
  let s1 := if l.isEmpty then s else installHbs s n l
  { s1 with tt := { s1.tt with mirrorH := smMod 0 s1.tt.mirrorH n fun x => max x h } }

/-- A hayloft object of the partner's, written here. -/
def takeObject (s : State) (o v : Nat) (l : List Nat) : State :=
  let s1 := installObject s o l
  { s1 with tt := { s1.tt with mirrorObjs := (s1.tt.mirrorObjs.filter fun e => e.1 != o) ++ [(o, v)] } }

/-- One of the partner's retirements, with its queue's T. -/
def takeRetirement (s : State) (seq q t : Nat) : State :=
  let s1 := journalWrite { s with tt := { s.tt with mirror := s.tt.mirror.filter fun x => x.seq != seq } }
  if (qAt s1 q).standby then modQ s1 q fun x => { x with t := t } else s1

/-- Plan digest, twin term and side: digests that differ keep the gate closed (R94, R200). -/
def takeDigest (s : State) (term serial : Nat) (digest : List Nat) : State :=
  let s1 := { s with tt := { s.tt with partnerTerm := term, partnerSerial := serial, partnerPresent := true } }
  if bytesOfWords digest = padTo 48 s.plan.digest then s1
  else
    report { s1 with pl := { s1.pl with err := 0x0D }, tt := { s1.tt with mismatch := true }, jn := { s1.jn with opened := false } } 0x184 0x22 false 0 0

/-- A frame is delivered. -/
def deliver (s : State) (f : Frame) : State :=
  match f.kind, f.payload with
  | 0x01, l => takeRecord s l
  | 0x06, l => takeRecord s l
  | 0x02, w :: q :: t :: _ => takeRetirement s w q t
  | 0x03, n :: h :: l => takeStateful s n h l
  | 0x04, o :: v :: l => takeObject s o v l
  | 0x05, t :: n :: d => takeDigest s t n d
  | _, _ => s

/-- The acknowledgement of everything before the next expected frame. -/
def sendAck (s : State) : State := emit s (.tether 0x07 s.tt.rxSeq [1])

/-- The tether carries frames here. -/
def tetherRuns (s : State) : Bool := s.sys.porstN && s.tt.linkUp && s.jn.role != 3 && !s.en.flushActive

/-- TETHER_FRAME_RECEIVE (R486, R487). -/
def execTetherFrameReceive (frame : Frame) (s : State) : Host.Outcome State Fault Refusal :=
  .next (if !tetherRuns s then s
  else if !frame.crcOk then emit s (.tether 0x07 s.tt.rxSeq [0, frame.lane])
  else if frame.kind = 0x07 then settle (takeAck s frame)
  else if frame.seq ≠ s.tt.rxSeq then sendAck s
  else settle (sendAck (deliver { s with tt := { s.tt with rxSeq := (s.tt.rxSeq + 1) % 2 ^ 32 } } frame)))

/-- TETHER_RETRANSMIT_TIMEOUT (R486): which lane carried the block that was lost, no acknowledgement says; it is free among the lanes up
(log entry 3). -/
def execTetherRetransmitTimeout (s : State) : Host.Outcome State Fault Refusal :=
  .next (if tetherRuns s && !s.tt.unacked.isEmpty then
    let d := draw s
    let up := (List.range 4).filter fun n => (laneAt s n).state == 1
    settle (resend d.2 (up.getD (d.1 % up.length) 0))
  else s)

/-- TETHER_LANE_FAIL (R488). -/
def execTetherLaneFail (lane : Nat) (s : State) : Host.Outcome State Fault Refusal :=
  .next (if s.sys.porstN = true ∧ (laneAt s lane).state = 1 ∧ lane < 4 then settle (raiseFault s (0x180 + lane) 0x21 false 0 0) else s)

/-- TWIN_LANES_LOST (R198): fewer sound lanes than lanes_min. -/
def execTwinLanesLost (s : State) : Host.Outcome State Fault Refusal :=
  .next (if s.plan.part.twin = true ∧ s.sys.porstN = true ∧ s.jn.role ≠ 3 ∧ soundLanes s < lanesMin s then settle (lanesLost s) else s)

/-- HEARTBEAT_TOGGLE (R489). -/
def execHeartbeatToggle (s : State) : Host.Outcome State Fault Refusal :=
  .next (if s.sys.porstN = true ∧ 10 ≤ s.sys.stage ∧ s.jn.role ≠ 3 then { s with sys := { s.sys with ttHbo := !s.sys.ttHbo } } else s)

/-! ## Failover (R199) -/

/-- What waits for the partner goes on without it: acceptances, retirements, refills. -/
def dropPartner (s : State) : State := s.tt.unacked.foldl frameAcked { s with tt := { s.tt with unacked := [] } }

/-- Where the capture slot `g` of a partner's paddock stands on this side: under its own number, unless a record here names that slot. -/
def capPlace (s : State) (p g : Nat) : Nat :=
  if capFree s p g then g
  else ((List.range 16).find? fun i => capFree s p i && !(s.tt.mirrorCaps.any fun e => e.1 == p * 16 + i)).getD g

/-- The partner's capture keys stand in this side's tables, so that a replay gives the same bytes (R174, R199); a paddock whose own generation
they replace draws a new one. -/
def adoptCaps (s : State) : State :=
  let place := fun (t : State) (e : Nat × Bytes) =>
    let g := capPlace s (e.1 / 16) (e.1 % 16)
    modPad t (e.1 / 16) fun x =>
      { x with caps := smSet {} x.caps g { drawn := true, key := e.2, drawnAt := s.time }, curGen := if x.curGen = some g then none else x.curGen,
               genDue := x.genDue || x.curGen == some g }
  let s1 := s.tt.mirrorCaps.foldl place s
  { s1 with tt := { s1.tt with mirrorCaps := [] } }

/-- The partner's live records become this side's and replay from acceptance. -/
def adoptRecords (s : State) : State :=
  let adopt := fun (j : Job) =>
    let j1 := { j with gen := (qAt s j.queue).gen, capGen := j.capGen.map (capPlace s j.paddock) }
    if j.fixed = 0 then replayJob s.time false j1 else fixJob j.fixed s.time { j1 with replay := j.replay + 1 }
  let s1 := adoptCaps s
  let s2 := { setJobs s1 (s1.jobs ++ s.tt.mirror.map adopt) with tt := { s1.tt with mirror := [] } }
  replayAll s2 (fun _ => false) false

/-- The partner's home queues are fetched here, from the mirrored A, their recorded doorbells checked (R146, R199). -/
def adoptQueues (s : State) : State :=
  (queueNums s).foldl (fun t q =>
    let x := qAt t q
    if !x.standby then t
    else
      let a := if (s.tt.mirrorA.any fun e => e.1 == q) then smGet 0 s.tt.mirrorA q else x.a
      let t1 := modQ t q fun y => { y with standby := false, takenOver := true, a := a, p := a, heldBell := if x.state = 5 then y.heldBell.or x.recordedP else y.heldBell }
      match x.recordedP with
      | some v => if x.state = 1 then ringRunning t1 q v else t1
      | none => t1) s

/-- The failed side's stateful keys resume at this side's copy of H, which starts their refills (R241, R246). -/
def adoptKeys (s : State) : State :=
  let adopt := fun (h : HbsKey) (n : Nat) => { h with h := max h.h n, nNext := max h.h n, refill := none, rebuildDue := true }
  s.tt.mirrorH.foldl (fun t e => if (hbsAt t e.1).present then startRefill (modHbs t e.1 fun h => adopt h e.2) e.1 else t) s

/-- The side takes its partner as failed and serves both sides' queues alone. -/
def failover (s : State) : State :=
  let s1 := dropPartner { s with jn := { s.jn with role := 2, term := (s.jn.term + 1) % 2 ^ 32 },
                                 tt := { s.tt with partnerFailed := true, partnerPresent := false, hbIn := false, linkUp := false, split := false } }
  let s2 := kindEnds (raiseEach (report (journalWrite s1) 0x184 0x24 false 0 0) 18) 0x23
  recheck (adoptQueues (adoptKeys (adoptRecords s2))) [2]

/-- TWIN_PARTNER_FAILED (R199). -/
def execTwinPartnerFailed (s : State) : Host.Outcome State Fault Refusal :=
  .next (if s.jn.role = 1 ∧ s.sys.bootState = 1 ∧ s.en.flushActive = false then settle ([1, 2, 3, 4].foldl sweepKind (failover s)) else s)

end Sys2Proof.Machine
end

