-- ==== Sys2Proof/Machine/FaultCmds.lean ====
section
/-! DEFINITION. FaultCmds.lean: the fault collector's commands (R440 to R452): messages, bucket leaks, escalation, acknowledgement, clears
and the logs. -/

namespace Sys2Proof.Machine

/-! ## Messages (R440 to R444) -/

/-- Source ids that are sent (Table 20.2). -/
def sourceSent (n : Nat) : Bool :=
  let within := fun (a b : Nat) => decide (a ≤ n) && decide (n ≤ b)
  within 0 0x33 || within 0x40 0x50 || within 0x60 0x77 || within 0x80 0x81 || within 0x90 0x97 || n == 0xA0 || n == 0xA8 || within 0xB0 0xB3 ||
  within 0xC0 0xD0 || within 0xE0 0xE1 || within 0x100 0x141 || within 0x180 0x185 || within 0x200 0x207 || within 0x280 0x282 ||
  within 0x290 0x291 || within 0x2A0 0x2A1 || n == 0x3FF

/-- A message that a source can send: a source and a kind the tables list, and the class of its kind (R440, R442). -/
def messageSent (m : Nat) : Bool :=
  sourceSent (bits m 54 10) && decide (1 ≤ bits m 48 6) && decide (bits m 48 6 ≤ 0x27) && bits m 46 2 == faultClass (bits m 48 6)

/-- A message is taken and the action of its kind follows (Table 20.3). -/
def takeFault (s : State) (source kind : Nat) (charged : Bool) (pad detail : Nat) : State :=
  if s.en.flushActive then report s source kind charged pad detail
  else match kind with
    | 0x17 => if s.rng.stopped then report s source kind charged pad detail else stopSource s
    | 0x18 => loseClock { s with sys := { s.sys with xtal := false } } source kind
    | 0x19 => raiseFault { s with sys := { s.sys with refclk := false }, port := { s.port with linkUp := false, linkState := 0 } } source kind charged pad detail
    | 0x1A => loseClock { s with sys := { s.sys with pllLocked := false } } source kind
    | 0x22 => report { s with tt := { s.tt with mismatch := true }, pl := { s.pl with err := 0x0D } } source kind charged pad detail
    | 0x23 => report { s with tt := { s.tt with split := true } } source kind charged pad detail
    | 0x24 =>
      if s.jn.role = 1 ∧ s.sys.bootState = 1 then [1, 2, 3, 4].foldl sweepKind (failover s) else report s source kind charged pad detail
    | _ => raiseFault s source kind charged pad detail

/-- FAULT_REPORT (R444): a fault report also ends deep sleep (R55). -/
def execFaultReport (message : W64) (s : State) : Host.Outcome State Fault Refusal :=
  let m := message.toNat
  .next (if s.sys.porstN && messageSent m then
    settle (takeFault (leaveDeepSleep s) (bits m 54 10) (bits m 48 6) (hasBit m 45) (bits m 40 5) (bits m 0 40))
  else s)

/-- BUCKET_LEAK (R446): the counter, or the counters of every row of the source, loses 1. -/
def execBucketLeak (source : Nat) (s : State) : Host.Outcome State Fault Refusal :=
  .next { s with fc := { s.fc with buckets := smMap 0 (fun k n => if k % 1024 = source then n - 1 else n) s.fc.buckets } }

/-! ## Escalation (R448 to R451) -/

/-- One outstanding entry changed. -/
def modOut (s : State) (i : Nat) (f : OutFault → OutFault) : State :=
  { s with fc := { s.fc with out := smMod none s.fc.out i fun o => o.map f } }

/-- The outstanding entry of a source and kind, with its position. -/
def outEntry (s : State) (source kind : Nat) : Option (Nat × OutFault) :=
  match findOut s.fc source kind with
  | none => none
  | some i => (outAt s.fc i).map fun e => (i, e)

/-- ESCALATION_EXPIRY (R450): of an entry whose timer runs; held while a flush runs (R451). -/
def execEscalationExpiry (source kind : Nat) (s : State) : Host.Outcome State Fault Refusal :=
  .next (match outEntry s source kind with
    | none => s
    | some (i, e) =>
      if e.acked || e.escalated || e.deadline.isNone then s
      else if s.en.flushActive then
        { s with fc := { s.fc with heldExpiry := s.fc.heldExpiry.filter (· != (source, kind)) ++ [(source, kind)] } }
      else
        settle (escalateUnit (modOut s i fun x => { x with escalated := true, deadline := none }) source kind e.charged e.paddock e.detail))

/-- Who may acknowledge and clear an entry: paddock 0 any, a paddock the contained ones charged to it (R449). -/
def mayAnswer (p : Nat) (e : OutFault) : Bool := p == 0 || (e.cls == 1 && e.charged && e.paddock == p)

/-- FC_CMD_RESULT of a function. -/
def fcAnswer (s : State) (n r : Nat) : State := modFn s n fun f => { f with fcResult := r }

/-- The timer of an entry has expired. -/
def timerPast (s : State) (e : OutFault) : Bool :=
  e.escalated || s.fc.heldExpiry.contains (e.source, e.kind) || (match e.deadline with
    | some d => decide (d ≤ s.time)
    | none => false)

/-- An acknowledgement (R449); a stall acknowledged goes to the farrier ahead of the rotation (R455). -/
def acknowledge (s : State) (n p source kind : Nat) : State :=
  match outEntry s source kind with
  | none => fcAnswer s n 1
  | some (i, e) =>
    if !mayAnswer p e then fcAnswer s n 1
    else if timerPast s e then fcAnswer s n 2
    else
      let s1 := fcAnswer (modOut s i fun x => { x with acked := true, deadline := none }) n 0
      if source < 0x34 ∧ s1.fc.ahead.contains source = false then { s1 with fc := { s1.fc with ahead := s1.fc.ahead ++ [source] } } else s1

/-- A clear (R452). -/
def clearFault (s : State) (n p source kind : Nat) : State :=
  match outEntry s source kind with
  | none => fcAnswer s n 1
  | some (i, e) =>
    if !mayAnswer p e then fcAnswer s n 1
    else if !(e.acked || e.escalated) then fcAnswer s n 4
    else if e.live then fcAnswer s n 3
    else fcAnswer { s with fc := { s.fc with out := smSet none s.fc.out i none } } n 0

/-- A write of FC_CMD with a command (Table 20.12). -/
def fcCommand (s : State) (n : Nat) (v : W64) (cmd : Nat) (f : State → Nat → Nat → Nat → Nat → State) : State :=
  match (if regsUp s n && bits v.toNat 16 4 == cmd then padOfFn s n else none) with
  | none => s
  | some p => f s n p (bits v.toNat 0 10) (bits v.toNat 10 6)

/-- ACK (R449). -/
def execFcAck (fn : Nat) (value : W64) (s : State) : Host.Outcome State Fault Refusal := .next (fcCommand s fn value 1 acknowledge)

/-- CLEAR (R452). -/
def execFcClear (fn : Nat) (value : W64) (s : State) : Host.Outcome State Fault Refusal := .next (fcCommand s fn value 2 clearFault)

/-! ## The logs (R444, R445) -/

/-- FAULT_LOG_READ (Table 20.11): the oldest message is returned and removed; the log is emptied with its last (R444). -/
def execFaultLogRead (fn : Nat) (s : State) : Host.Outcome State Fault Refusal :=
  .next (if !regsUp s fn then s
  else match (if fn = 0 then s.fc.log else []) with
    | [] => reply s fn (zeros 8)
    | e :: r => reply { s with fc := { s.fc with log := r, overflowed := s.fc.overflowed && !r.isEmpty } } fn (leBytes 8 e.2))

/-- Entries of the fault log, a ring of 8 MiB of 32-byte entries (R470). -/
def appendFaults (s : State) (l : List (Nat × Nat × Nat)) : State :=
  let m := s.hl.faultLog ++ l
  { s with hl := { s.hl with faultLog := m.drop (m.length - 262144) } }

/-- FAULT_LOG_APPEND (R445): the messages and retirements that wait, and the corrected counts by source, reach the hayloft. -/
def execFaultLogAppend (s : State) : Host.Outcome State Fault Refusal :=
  .next (if s.hl.wpReleased && !s.en.flushActive && !(s.hl.failed0 && s.hl.failed1) then
    let s1 := appendFaults s (s.fc.toLog ++ s.fc.corrected.map fun e => (s.time, 2, e.1 * 2 ^ 32 + e.2))
    { s1 with fc := { s1.fc with toLog := [], corrected := [] } }
  else s)

end Sys2Proof.Machine
end

