-- ==== Sys2Proof/Machine/HayloftCmds.lean ====
section
/-! DEFINITION. HayloftCmds.lean: the NAND storage (R459 to R476): reads, bad blocks, wear, scrubbing, target failure and rebuild, object
writes, and the logs read through HL_LOG_DATA. -/

namespace Sys2Proof.Machine

/-! ## Objects (R465) -/

/-- The object a job writes before its completion word (R237, R258, R334, R340, R345). -/
def objectOf (j : Job) : Option Nat :=
  if j.desc.opcode = 0x0F05 then j.extra.map fun h => blobObj (hIdx h - 0x80000000)
  else if j.desc.opcode = 0x0F07 then some marksObj
  else if j.desc.opcode = 0x0F06 then (match keyLoc j.paddock j.desc.keyRef with
    | some (.slot n) => some (slotObj n)
    | some (.blob b) => some (blobObj b)
    | _ => none)
  else if j.desc.opcode = 0x0E00 then j.extra.bind fun h => (cacheOf j.paddock h).map cacheObj
  else if j.desc.opcode = 0x0210 ∨ j.desc.opcode = 0x0220 then some (hbsObj (hIdx j.desc.keyRef))
  else (targetOf j.desc).map slotObj

/-- The job's write begins, and its completion waits for it. -/
def awaitWrite (s : State) (j : Job) : State := match objectOf j with
  | none => s
  | some o => startWrite (modJob s j.seq fun x => { x with waitHayloft := true }) o

/-- A copy of an object stands on a channel. -/
def copyStands (s : State) (o c : Nat) : State :=
  if 2 ^ 40 ≤ o then modCache s (o - 2 ^ 40) fun e => { e with stored := true }
  else if o / 2 ^ 32 = 1 ∨ o / 2 ^ 32 = 4 then modSlot s (o % 2 ^ 32) fun x => if c = 0 then { x with copy0 := true } else { x with copy1 := true }
  else if o / 2 ^ 32 = 2 then modBlob s (o % 2 ^ 32) fun x => if c = 0 then { x with copy0 := true } else { x with copy1 := true }
  else s

/-- Jobs whose completion waits for an object, oldest first. -/
def waitersOf (s : State) (o : Nat) : List Job := s.jobs.filter fun j => isLive j && j.waitHayloft && objectOf j == some o

/-- The certificates written stand (R111). -/
def storeCerts (s : State) : State := match s.hl.certsNew with
  | some l => { s with hl := { s.hl with certs := (l.zipIdx).map fun e => (e.2, e.1), certsNew := none } }
  | none => s

/-- The write in progress commits, and in a twin goes to the partner: the first job that waits for it goes on, and the next write of the object
begins. -/
def commitWrite (s : State) (o : Nat) : State :=
  let x := objAt s o
  let v := x.version + 1
  let s0 := if o = certsObj then storeCerts s else s
  let s1 := sendObject (putObj s0 o { version := v, v0 := if x.ok0 then v else x.v0, v1 := if x.ok1 then v else x.v1 }) o
  match waitersOf s1 o with
  | [] => s1
  | j :: r =>
    let s2 := modJob s1 j.seq fun y => { y with waitHayloft := false }
    if r.isEmpty then s2 else startWrite s2 o

/-- A DQ training test holds the channel, and every hayloft operation on it waits (R477, R480). -/
def channelTested (s : State) (c : Nat) : Bool := (smGet {} s.lk.tests (20 + c)).running

/-- OBJECT_WRITE_COMMIT (R465): a channel's copy has been read back; the write commits with both, or with the survivor's. -/
def execObjectWriteCommit (object channel : Nat) (s : State) : Host.Outcome State Fault Refusal :=
  let x := objAt s object
  let dead := fun (c : Nat) => if c = 0 then s.hl.failed0 else s.hl.failed1
  .next (if x.writing.isNone || decide (2 ≤ channel) || dead channel || channelTested s channel || s.en.flushActive then s
  else
    let y := if channel = 0 then { x with ok0 := true } else { x with ok1 := true }
    let s1 := copyStands (putObj s object y) object channel
    if (y.ok0 || s.hl.failed0) && (y.ok1 || s.hl.failed1) then commitWrite s1 object else s1)

/-- An object both of whose copies are uncorrectable is lost; what that means is its own rule's: a slot not restored, a blob not loadable,
an image copy invalid (R462, R86, R341, R342). -/
def loseObject (s : State) (o : Nat) : State :=
  let s1 := putObj s o { objAt s o with v0 := 0, v1 := 0 }
  if 2 ^ 40 ≤ o then modCache s1 (o - 2 ^ 40) fun e => { e with stored := false }
  else if o / 2 ^ 32 = 1 ∨ o / 2 ^ 32 = 4 then modSlot s1 (o % 2 ^ 32) fun x => { x with copy0 := false, copy1 := false }
  else if o / 2 ^ 32 = 2 then modBlob s1 (o % 2 ^ 32) fun x => { x with copy0 := false, copy1 := false }
  else if o = certsObj then { s1 with hl := { s1.hl with certs := [] } }
  else if o / 2 ^ 32 = 5 then
    let k := 2 * (o % 2 ^ 32)
    { s1 with hl := { s1.hl with images := smDel (smDel s1.hl.images k) (k + 1) } }
  else s1

/-! ## Blocks (R471, R472) -/

/-- Block `b` of target `n`. -/
def blockKey (n b : Nat) : Nat := n * 65536 + b
def blockAt (s : State) (k : Nat) : NBlock := smGet {} s.hl.blocks k
def modBlock (s : State) (k : Nat) (f : NBlock → NBlock) : State := { s with hl := { s.hl with blocks := smMod {} s.hl.blocks k f } }

/-- Blocks of a channel's active targets beside the anchors, not bad, for which `f` holds. -/
def channelBlocks (s : State) (c : Nat) (f : NBlock → Bool) : List Nat :=
  ((List.range 4).filter fun t => (targetAt s (4 * c + t)).state == 1).flatMap fun t =>
    (((List.range s.hl.geo.blocks).drop 2).map (blockKey (4 * c + t))).filter fun k => !(blockAt s k).bad && f (blockAt s k)

/-- The block of a list with the lowest erase count. -/
def leastWorn (s : State) : List Nat → Option Nat
  | [] => none
  | k :: r => some (r.foldl (fun m x => if (blockAt s x).erase < (blockAt s m).erase then x else m) k)

/-- The next new block: the erased pool block with the lowest erase count (R472). -/
def freshBlock (s : State) (c : Nat) : Option Nat := leastWorn s (channelBlocks s c fun x => x.erased)

/-- A block is programmed with content. -/
def fillFresh (s : State) (c : Nat) : State := match freshBlock s c with
  | none => s
  | some k => modBlock s k fun x => { x with erased := false, reads := 0 }

/-- A block is erased and returned to the pool. -/
def eraseBlock (s : State) (k : Nat) : State :=
  let n := (blockAt s k).erase + 1
  modTarget (modBlock s k fun _ => { erase := n }) (k / 65536) fun t => { t with maxErase := max t.maxErase n }

/-- Content moves to a fresh block, and the old one is erased (Table 21.2). -/
def moveBlock (s : State) (k : Nat) : State := eraseBlock (fillFresh s (k / 65536 / 4)) k

/-- Room the object store must keep (R464). -/
def storeReserve (s : State) : Nat :=
  136 * 2 ^ 20 + 4 * ((padsPresent s).map fun p => (padRec s p).cacheUnits * 65536).sum

/-- What the object store holds, at the sizes R464 reserves for each object (log entry 21). -/
def storeUsed (s : State) : Nat :=
  256 * ((smKeys s.tk.slots).filter fun n => (slotAt s n).copy0 || (slotAt s n).copy1).length +
  1536 * ((smKeys s.tk.blobs).filter fun b => (blobAt s b).present).length +
  ((smKeys s.cache).map fun k => if (cacheAt s k).stored || (cacheAt s k).tree.isSome then (cacheAt s k).size else 0).sum +
  (s.hl.partials.map fun e => e.2.length).sum

/-- Free space of a channel's object store: what the regions of Table 21.3 leave of its capacity, less its content. -/
def storeFree (s : State) (c : Nat) : Nat := channelCapacity s c - 66 * 2 ^ 20 - storeUsed s

/-- HL_STATUS.space_low, with EV_HAYLOFT_LOW when it becomes 1 (R471). -/
def evalSpace (s : State) : State :=
  let low := (!s.hl.failed0 && decide (storeFree s 0 * 10 < storeReserve s)) || (!s.hl.failed1 && decide (storeFree s 1 * 10 < storeReserve s))
  let s1 := { s with hl := { s.hl with spaceLow := low } }
  if low && !s.hl.spaceLow then raisePart s1 6 else s1

/-- A block is retired and replaced from the spare pool; without a spare the object store shrinks (R471). -/
def retireBlock (s : State) (k : Nat) : State :=
  if (blockAt s k).bad then s
  else
    let s1 := modBlock s k fun x => { x with bad := true, erased := false }
    evalSpace (checkChannel (modTarget s1 (k / 65536) fun t =>
      { t with badBlocks := satAdd 0xFFFF t.badBlocks 1, spares := t.spares - 1 }) (k / 65536 / 4))

/-- A target in service and a usable block of it. -/
def blockServes (s : State) (n b : Nat) : Bool :=
  s.sys.porstN && decide (n < 8) && (targetAt s n).state == 1 && !(blockAt s (blockKey n b)).bad && !channelTested s (n / 4) && !s.en.flushActive

/-- Table 21.2. -/
def readOutcome (s : State) (n b corrected : Nat) (bad : Bool) (lost : Option Nat) : State :=
  let k := blockKey n b
  let s1 := modBlock s k fun x => { x with reads := x.reads + 1, erased := false }
  if bad || decide (72 < corrected) then
    let s2 := raiseFault (fillFresh (retireBlock s1 k) (n / 4)) (0x200 + n) 0x1E false 0 b
    match lost with
    | some o => loseObject s2 o
    | none => s2
  else if 40 ≤ corrected then raiseFault (moveBlock s1 k) (0x200 + n) 0x1D false 0 b
  else s1

/-- NAND_READ_DONE (R462): `lost` names the object whose other copy is uncorrectable too. -/
def execNandReadDone (target block corrected : Nat) (uncorrectable : Bool) (lost : Option Nat) (s : State) : Host.Outcome State Fault Refusal :=
  .next (if blockServes s target block then settle (readOutcome s target block corrected uncorrectable lost) else s)

/-- HAYLOFT_SCRUB (R473): background work, done while no other hayloft operation waits. -/
def execHayloftScrub (target block corrected : Nat) (uncorrectable : Bool) (lost : Option Nat) (s : State) : Host.Outcome State Fault Refusal :=
  .next (if blockServes s target block && !(s.hl.objs.any fun e => e.2.writing.isSome) then
    settle (readOutcome s target block corrected uncorrectable lost)
  else s)

/-- NAND_STATUS_FAIL (R471): the block is retired, and data in flight goes to a fresh block. -/
def execNandStatusFail (target block : Nat) (erase : Bool) (s : State) : Host.Outcome State Fault Refusal :=
  .next (if blockServes s target block then
    let s1 := retireBlock s (blockKey target block)
    settle (raiseFault (if erase then s1 else fillFresh s1 (target / 4)) (0x200 + target) 0x1D false 0 block)
  else s)

/-- Highest and lowest erase count within a channel (R472). -/
def wearSpread (s : State) (c : Nat) : Nat :=
  let l := (channelBlocks s c fun _ => true).map fun k => (blockAt s k).erase
  match l with
  | [] => 0
  | a :: r => r.foldl max a - r.foldl min a

/-- STATIC_WEAR_LEVEL (R472). -/
def execStaticWearLevel (channel : Nat) (s : State) : Host.Outcome State Fault Refusal :=
  .next (if s.sys.porstN && !s.en.flushActive && !channelTested s channel && decide (2000 < wearSpread s channel) then
    (match leastWorn s (channelBlocks s channel fun x => !x.erased) with
      | some k => moveBlock s k
      | none => s)
  else s)

/-! ## Targets (R474 to R476) -/

/-- NAND_TARGET_TIMEOUT (R474): no ready in time, or a status read that fails for the second time. -/
def execNandTargetTimeout (target : Nat) (statusRead : Bool) (s : State) : Host.Outcome State Fault Refusal :=
  .next (if !s.sys.porstN || decide (8 ≤ target) || (targetAt s target).state != 1 || channelTested s (target / 4) || s.en.flushActive then s
  else if statusRead && !(targetAt s target).statusFailed then modTarget s target fun t => { t with statusFailed := true }
  else settle (raiseFault s (0x200 + target) 0x1F false 0 0))

/-- A target being formatted is in service. -/
def formatDone (s : State) (n : Nat) : State :=
  if (targetAt s n).state = 5 then modTarget s n fun t => { t with state := 1 } else s

/-- HAYLOFT_REBUILD (R475): the rebuild of a channel ends, everything in its order copied; a target formatted for it is in service. -/
def execHayloftRebuild (channel : Nat) (s : State) : Host.Outcome State Fault Refusal :=
  .next (if !s.sys.porstN || s.en.flushActive || decide (2 ≤ channel) || channelTested s channel || !s.hl.rebuilding || (if channel = 0 then s.hl.failed0 else s.hl.failed1) then s
  else
    let s1 := (List.range 4).foldl (fun t i => formatDone t (4 * channel + i)) s
    let mend := fun (_ : Nat) (x : Obj) => if channel = 0 then { x with v0 := x.version } else { x with v1 := x.version }
    evalSpace (checkChannel { s1 with hl := { s1.hl with objs := smMap {} mend s1.hl.objs, rebuilding := false, singleCopy := 0, flushReady := true } } channel))

/-- FORMAT (R476): a FOREIGN target is formatted, its factory-bad blocks recorded (how many is the device's, so free: log entry 3), and
rebuilt. -/
def formatTarget (s : State) (n : Nat) : State :=
  let d := draw s
  let g := s.hl.geo
  let x := smGet {} d.2.lk.tests (20 + n / 4)
  let t := if x.running && x.target == n then endTests d.2 else d.2
  let s1 := { t with hl := { t.hl with blocks := t.hl.blocks.filter (fun e => e.1 / 65536 != n), rebuilding := true, cmdErr := 0 } }
  modTarget s1 n fun y =>
    { state := 5, nvDdr3 := y.nvDdr3, mode := y.mode, badBlocks := d.1 % (g.blocks + 1), spares := max 16 ((g.blocks * 2 + 99) / 100) }

/-- FORMAT is written to HL_CMD by the PF (Table 21.7); a test of the target ends (R480). -/
def execHlFormat (fn : Nat) (value : W64) (s : State) : Host.Outcome State Fault Refusal :=
  let n := bits value.toNat 4 3
  .next (if !(fn == 0 && regsUp s fn && cmdOf value == 1) then s
  else if (targetAt s n).state ≠ 4 then { s with hl := { s.hl with cmdErr := 2 } }
  else formatTarget s n)

/-! ## Logs (R470) -/

/-- DIAG_LOG_FLUSH: every paddock's entries not yet written reach the hayloft. -/
def execDiagLogFlush (s : State) : Host.Outcome State Fault Refusal :=
  .next (if s.hl.wpReleased && !s.en.flushActive && !(s.hl.failed0 && s.hl.failed1) then
    { s with pads := smMap {} (fun _ (x : Pad) => { x with diags := x.diags.map fun d => { d with flushed := true } }) s.pads }
  else s)

/-- The 32 bytes of a diagnostic entry. -/
def diagBytes (d : Diag) : Bytes :=
  leBytes 8 d.time ++ leBytes 8 d.seq ++ leBytes 2 d.queue ++ leBytes 2 d.opcode ++ leBytes 2 d.reason ++ leBytes 2 0 ++ leBytes 4 d.index ++ leBytes 4 0

/-- The four words of a fault-log or audit-log entry, whose layout is not given. -/
def logBytes (log : Nat) (e : Nat × Nat × Nat) : Bytes :=
  (List.range 4).flatMap fun i => leBytes 8 (Config.logWord log [e.1, e.2.1, e.2.2] i)

/-- The entry of the log a function has selected: its own paddock's diagnostic log; the fault and audit logs for paddock 0. -/
def logEntry (s : State) (n p : Nat) : Option Bytes :=
  let f := fnAt s n
  match f.hlLog with
  | 0 => (((padAt s p).diags.filter (·.flushed))[f.hlEntry]?).map diagBytes
  | 1 => if p = 0 then (s.hl.faultLog[f.hlEntry]?).map (logBytes 1) else none
  | 2 => if p = 0 then (s.hl.auditLog[f.hlEntry]?).map (logBytes 2) else none
  | _ => none

/-- HL_LOG_DATA_READ (Table 21.7): the next 8 bytes of the entry; after the fourth read the entry advances; 0 beyond the newest. -/
def execHlLogDataRead (fn : Nat) (s : State) : Host.Outcome State Fault Refusal :=
  .next (if !regsUp s fn then s
  else match (padOfFn s fn).bind (logEntry s fn) with
    | none => reply s fn (zeros 8)
    | some b =>
      let w := (fnAt s fn).hlWord
      let s1 := modFn s fn fun f => if w = 3 then { f with hlWord := 0, hlEntry := (f.hlEntry + 1) % 2 ^ 32 } else { f with hlWord := w + 1 }
      reply s1 fn (slice b (8 * w) 8))

end Sys2Proof.Machine
end

