-- ==== Sys2Proof/Machine/HostCmds.lean ====
section
/-! DEFINITION. HostCmds.lean: the PCIe port (chapter 06, R82, R410 to R412): resets of the host interface, configuration requests, bus
mastering, power states, interrupt moderation, the BAR4 windows, and reads of host memory that fail. -/

namespace Sys2Proof.Machine

/-! ## Releasing what waited (R126, R132, R136) -/

/-- Queues whose traffic a function issues. -/
def fnQueues (s : State) (n : Nat) : List Nat := (queueNums s).filter fun q => (qAt s q).fn == n && !(qAt s q).bx

/-- Vectors of a function with a property, in number order. -/
def vecsWith (s : State) (n : Nat) (f : Vec → Bool) : List Nat := (smKeys (fnAt s n).vecs).filter fun v => f (vecAt s n v)

/-- Messages of the vectors with a property fall due. -/
def dueVecs (s : State) (n : Nat) (f : Vec → Bool) : State := (vecsWith s n f).foldl (fun t v => dueVec t n v) s

/-- Bus Master Enable returns to 1: shadows, then held writes in order, then the interrupts they earned (R126). -/
def setBme (s : State) (n : Nat) : State :=
  if (fnAt s n).bme then s
  else
    let s1 := payShadows (modFn s n fun f => { f with bme := true }) n
    dueVecs (releaseHeld s1 (fnQueues s1 n)) n fun v => v.due

/-- Some function's reads and writes reach the part's BARs, whatever boot has reached (R82). -/
def barUp (s : State) (n : Nat) : Bool := regsUp s n || recoveryUp s n || lcUp s n

/-- A completion cause that is counted without falling due (R136: one message for each vector on return to D0). -/
def countCause (s : State) (j : Job) : State :=
  let x := qAt s j.queue
  if x.bx || !x.irqEn || hasBit j.desc.flags 3 then s
  else modVec s x.fn (vecNum s x.fn x.vector) fun v =>
    { v with pending := satAdd 2047 v.pending 1, timerRun := true, timerFrom := if v.timerRun then v.timerFrom else s.time }

/-- Completions of a function that are ready written in acceptance order, their causes counted. -/
def writeHeld (s : State) (n : Nat) : State :=
  let qs := fnQueues s n
  let held := s.jobs.filter fun j => isLive j && cplReady j && qs.contains j.queue
  let s1 := qs.foldl (fun t q => issueHeld t q (t.jobs.length + 1)) s
  held.foldl (fun t j => match jobOf t j.seq with
    | some k => if k.phase == .issued then countCause t k else t
    | none => t) s1

/-- Return to D0 (R133, R136). -/
def wakeFn (s : State) (n : Nat) : State :=
  if (fnAt s n).dState = 0 then s
  else
    let s1 := modFn s n fun f =>
      { f with dState := 0, vecs := smMap {} (fun _ (v : Vec) => { v with wakeCount := 0, wakeTimer := false, wakeEvent := false }) f.vecs }
    dueVecs (writeHeld (payShadows s1 n) n) n fun v => v.pending != 0

/-- Entry to D3hot (R133). -/
def sleepFn (s : State) (n : Nat) : State := modFn s n fun f => { f with dState := 3 }

/-- MSI-X Enable becomes 1 (R132). -/
def setMsix (s : State) (n : Nat) : State :=
  if (fnAt s n).msixEn then s else dueVecs (modFn s n fun f => { f with msixEn := true }) n fun v => v.pending != 0

/-- A vector, or the function, is unmasked (R132). -/
def unmask (s : State) (n : Nat) (v : Option Nat) : State :=
  let s1 := match v with
    | some k => modVec s n k fun x => { x with mask := false }
    | none => modFn s n fun f => { f with fnMask := false }
  if (fnAt s1 n).fnMask then s1 else dueVecs s1 n fun x => x.pba && !x.mask

/-! ## Virtual functions (R119, R128, R129) -/

/-- VF Enable set with NumVFs: the VFs appear in their reset state, their table sizes fixed. -/
def enableVfs (s : State) (k : Nat) : State :=
  if s.port.vfEnable || decide (2 ≤ s.sys.bootState) then s
  else
    let m := min k 64
    (List.range m).foldl (fun t i =>
      let size := match padOfFn t (i + 1) with
        | some p => (padRec t p).msixPerVf
        | none => 1
      modFn t (i + 1) fun f => { f with present := true, vecSize := size }) { s with port := { s.port with vfEnable := true, numVfs := m } }

/-- NumVFs lowered, or VF Enable cleared. -/
def lowerVfs (s : State) (k : Nat) : State :=
  if !s.port.vfEnable || decide (s.port.numVfs ≤ k) then s
  else
    let s1 := dropVfs s k
    { s1 with port := { s1.port with vfEnable := k != 0, numVfs := k } }

/-! ## Configuration space (R82, R117, R118; log entry 8) -/

/-- Header and capability words with fixed values: the PF's. -/
def cfgFixedPf (off : Nat) : Nat :=
  match off with
  | 0x00 => 0x73601FC7
  | 0x08 => 0x108000B0
  | 0x2C => 0x00011FC7
  | 0x34 => 0x40
  | 0x40 => 0xC8035001
  -- Max Payload Size 512, role-based reporting, Function Level Reset
  | 0x74 => 0x10008022
  -- 32.0 GT/s, x16, ASPM L1 with its exit latency of 8 µs
  | 0x7C => 0x00420905
  -- LTR, 10-bit tags as completer and requester
  | 0x94 => 0x00030800
  -- 2.5 to 32.0 GT/s
  | 0x9C => 0x0000003E
  | 0x100 => 0x14820001
  | 0x148 => 0x1501000E
  | 0x1A0 => 0x1D010019
  | 0x1D0 => 0x1E010025
  | 0x1E0 => 0x21010026
  | 0x210 => 0x2401002A
  | 0x240 => 0x29010027
  | 0x290 => 0x2A010018
  | 0x2A0 => 0x0001001E
  -- L1.1 and L1.2, PCI-PM and ASPM, 70 µs from L1.2
  | 0x2A4 => 0x0039001F
  | _ => 0

/-- Bytes a BAR decodes (Table 06.3). -/
def barSize (vf : Bool) (bar : Nat) : Nat :=
  match bar with
  | 0 => if vf then 2 ^ 18 else 2 ^ 24
  | 2 => 2 ^ 19
  | _ => 2 ^ 25

/-- A double word of a 64-bit, non-prefetchable memory BAR, from the first BAR's offset (R123). -/
def readBars (m : SMap Nat) (o : Nat) : Nat :=
  let b := smGet 0 m (o / 8 * 2)
  if o % 8 = 0 then b % 2 ^ 32 + 4 else b / 2 ^ 32

/-- A write of one: bits within the size stay 0. -/
def writeBars (vf : Bool) (m : SMap Nat) (o v : Nat) : SMap Nat :=
  let k := o / 8 * 2
  let b := smGet 0 m k
  let w := if o % 8 = 0 then b / 2 ^ 32 * 2 ^ 32 + v else b % 2 ^ 32 + v * 2 ^ 32
  smSet 0 m k (w / barSize vf k * barSize vf k)

/-- The SR-IOV capability, absent from the recovery configuration. -/
def cfgSriov (s : State) (off : Nat) : Nat :=
  match off with
  | 0x160 => 0x1A010010
  | 0x168 => b1 s.port.vfEnable + b1 s.port.vfMse * 8 + b1 s.port.ari * 16
  | 0x16C => 0x00400040
  | 0x170 => s.port.numVfs
  | 0x174 => 0x00010001
  | 0x178 => 0x73610000
  | 0x17C => 0x7F
  | 0x180 => s.port.sysPage
  | _ => if 0x184 ≤ off ∧ off < 0x19C then readBars s.port.vfBars (off - 0x184) else 0

/-- Words of the AER capability (R138). -/
def cfgAer (c : Cfg) (off : Nat) : Nat :=
  match off with
  | 0x104 => c.uncSta
  | 0x108 => c.uncMask
  | 0x10C => c.uncSev
  | 0x110 => c.corSta
  | 0x114 => c.corMask
  | _ => c.firstErr + 0xA0 + b1 c.ecrcGen * 64 + b1 c.ecrcChk * 256

/-- Link Control and Status: ASPM, and, with the link up, the width it trained at; its rate is the highest (DESIGN CHOICE, log 112). -/
def cfgLink (s : State) : Nat :=
  b1 s.port.aspmL1 * 2 + (if s.port.linkUp then 5 * 2 ^ 16 + s.sys.linkWidth * 2 ^ 20 else 0)

/-- Words that follow the function's state. -/
def cfgLive (s : State) (n off : Nat) : Option Nat :=
  let f := fnAt s n
  let c := f.cfg
  match off with
  | 0x04 => some (b1 (n == 0 && c.mse) * 2 + b1 f.bme * 4 + 0x00100000)
  | 0x44 => some (f.dState + 8 + b1 f.pmeEn * 2 ^ 8 + b1 f.pmeStatus * 2 ^ 15)
  | 0x50 => some (0x7011 + (vecTable s n - 1) * 2 ^ 16 + b1 f.fnMask * 2 ^ 30 + b1 f.msixEn * 2 ^ 31)
  | 0x54 => some (if n = 0 then 0xFF0000 else 0x030000)
  | 0x58 => some (if n = 0 then 0xFF8000 else 0x038000)
  | 0x70 => some 0x00020010
  | 0x78 =>
    some (c.errEn + b1 f.relaxed * 16 + c.mps * 2 ^ 5 + b1 c.extTag * 2 ^ 8 + c.mrrs * 2 ^ 12 + c.devSta * 2 ^ 16)
  | 0x80 => some (if n = 0 then cfgLink s else 0)
  | 0x98 => some (b1 f.idOrder * 2 ^ 8 + b1 c.ltrEn * 2 ^ 10 + b1 c.tag10 * 2 ^ 12)
  | _ =>
    if 0x10 ≤ off ∧ off < 0x28 then some (if n = 0 then readBars c.bars (off - 0x10) else 0)
    else if 0x104 ≤ off ∧ off ≤ 0x118 then some (cfgAer c off)
    else none

/-- A configuration double word (Table 06.2). -/
def cfgRead (s : State) (n off : Nat) : Nat :=
  match cfgLive s n off with
  | some v => v
  | none =>
    if n ≠ 0 then
      (match off with
        | 0x00 => 0xFFFFFFFF
        | 0x148 => 0x0001000E
        | 0x160 => 0
        | k => if k < 0x148 then cfgFixedPf k else 0)
    else if off = 0x150 then (if 2 ≤ s.sys.bootState then 0x1A010003 else 0x16010003)
    else if off = 0x154 then s.lc.deviceNumber % 2 ^ 32
    else if off = 0x158 then s.lc.deviceNumber / 2 ^ 32 % 2 ^ 32
    else if off = 0x294 then (fnAt s 0).cfg.ltrMax
    else if off = 0x2A8 then b1 s.port.pmL12 + b1 s.port.pmL11 * 2 + b1 s.port.aspmL12 * 4 + b1 s.port.aspmL11 * 8
    else if 0x160 ≤ off ∧ off < 0x1A0 then (if 2 ≤ s.sys.bootState then 0 else cfgSriov s off)
    else cfgFixedPf off

/-- The power state a write of PMCSR asks for; D1 and D2 are not supported. -/
def writePmcsr (s : State) (n v : Nat) : State :=
  let s1 := modFn s n fun f => { f with pmeEn := hasBit v 8, pmeStatus := f.pmeStatus && !hasBit v 15 }
  match v % 4 with
  | 0 => wakeFn s1 n
  | 3 => sleepFn s1 n
  | _ => s1

/-- A write of MSI-X Message Control. -/
def writeMsixCtl (s : State) (n v : Nat) : State :=
  let s1 := if hasBit v 30 then modFn s n fun f => { f with fnMask := true } else if (fnAt s n).fnMask then unmask s n none else s
  if hasBit v 31 then setMsix s1 n else modFn s1 n fun f => { f with msixEn := false }

/-- A write of Device Control and Status: a Max Payload Size or Max Read Request Size that is not supported is not taken, No Snoop stays 0, and
a status bit written 1 clears (Table 06.1). -/
def writeDevCtl (f : Fn) (v : Nat) : Fn :=
  let c := f.cfg
  { f with relaxed := hasBit v 4
           cfg := { c with errEn := bits v 0 4, mps := if bits v 5 3 ≤ 2 then bits v 5 3 else c.mps, extTag := hasBit v 8,
                           mrrs := if bits v 12 3 ≤ 5 then bits v 12 3 else c.mrrs,
                           devSta := c.devSta &&& (0xF ^^^ bits v 16 4) } }

/-- A write of an AER word: status bits written 1 clear. -/
def writeAer (c : Cfg) (off v : Nat) : Cfg :=
  let keep := fun (x : Nat) => x &&& ((2 ^ 32 - 1) ^^^ v)
  match off with
  | 0x104 => { c with uncSta := keep c.uncSta }
  | 0x108 => { c with uncMask := v }
  | 0x10C => { c with uncSev := v }
  | 0x110 => { c with corSta := keep c.corSta }
  | 0x114 => { c with corMask := v }
  | _ => { c with ecrcGen := hasBit v 6, ecrcChk := hasBit v 8 }

/-- A write of a word that only configuration reads show. -/
def writePlain (s : State) (n off v : Nat) : State :=
  let cfg := fun (g : Cfg → Cfg) => modFn s n fun f => { f with cfg := g f.cfg }
  if 0x104 ≤ off ∧ off ≤ 0x118 then cfg fun c => writeAer c off v
  else if n ≠ 0 then s
  else if 0x10 ≤ off ∧ off < 0x28 then cfg fun c => { c with bars := writeBars false c.bars (off - 0x10) v }
  else if off = 0x294 then cfg fun c => { c with ltrMax := v }
  else if 2 ≤ s.sys.bootState then s
  else if off = 0x180 then { s with port := { s.port with sysPage := v } }
  else if 0x184 ≤ off ∧ off < 0x19C then { s with port := { s.port with vfBars := writeBars true s.port.vfBars (off - 0x184) v } }
  else s

/-- A write of SR-IOV Control. -/
def writeSriov (s : State) (v : Nat) : State :=
  if 2 ≤ s.sys.bootState then s
  else
    let s1 := { s with port := { s.port with vfMse := hasBit v 3, ari := hasBit v 4 } }
    if hasBit v 0 then enableVfs s1 s1.port.numVfs else lowerVfs s1 0

/-- A configuration write. -/
def cfgWrite (s : State) (n off v : Nat) : State :=
  match off with
  | 0x04 =>
    let s1 := modFn s n fun f => { f with cfg := { f.cfg with mse := hasBit v 1 } }
    if hasBit v 2 then setBme s1 n else modFn s1 n fun f => { f with bme := false }
  | 0x44 => writePmcsr s n v
  | 0x50 => writeMsixCtl s n v
  | 0x78 => if hasBit v 15 then functionReset s n else modFn s n fun f => writeDevCtl f v
  | 0x98 => modFn s n fun f => { f with idOrder := hasBit v 8, cfg := { f.cfg with ltrEn := hasBit v 10, tag10 := hasBit v 12 } }
  | 0x80 => if n = 0 then { s with port := { s.port with aspmL1 := hasBit v 1 } } else s
  | 0x168 => if n ≠ 0 then s else writeSriov s v
  | 0x170 =>
    if n ≠ 0 ∨ 2 ≤ s.sys.bootState then s
    else if s.port.vfEnable then lowerVfs s (v % 2 ^ 16)
    else { s with port := { s.port with numVfs := min 64 (v % 2 ^ 16) } }
  | 0x2A8 =>
    if n = 0 then { s with port := { s.port with pmL12 := hasBit v 0, pmL11 := hasBit v 1, aspmL12 := hasBit v 2, aspmL11 := hasBit v 3 } } else s
  | k => writePlain s n k v

/-- The link is up and the part is awake behind it. -/
def linkServes (s : State) : Bool := s.sys.porstN && s.port.linkUp && !s.sys.deepSleep && !s.en.flushActive

/-- Configuration requests are served: boot has passed step 10, or has stopped (R82). -/
def cfgUp (s : State) : Bool := linkServes s && (decide (10 ≤ s.sys.stage) || decide (2 ≤ s.sys.bootState))

/-- A function whose configuration space a request reaches. -/
def cfgReaches (s : State) (n : Nat) : Bool := cfgUp s && fnPresent s n

/-- CONFIG_REQUEST (R82, R138). -/
def execConfigRequest (fn : Nat) (write : Bool) (offset value : Nat) (s : State) : Host.Outcome State Fault Refusal :=
  .next (if !linkServes s then s
  else if !cfgUp s then emit s (.cfgReply fn 1 0)
  else if !fnPresent s fn then emit (aer s 0 6) (.cfgReply fn 2 0)
  else if write then emit (cfgWrite s fn offset (value % 2 ^ 32)) (.cfgReply fn 0 0)
  else emit s (.cfgReply fn 0 (cfgRead s fn offset)))

/-! ## Resets of functions and of the host interface -/

/-- HOST_INTERFACE_RESET (R80): 0 PERST_N low, 1 hot reset, 2 link down. A change of PERST_N ends deep sleep (R55). -/
def execHostInterfaceReset (cause : Nat) (s : State) : Host.Outcome State Fault Refusal :=
  let s1 := if cause = 0 then { s with sys := { s.sys with perstN := false } } else s
  .next (if !s.sys.porstN || s.en.flushActive then s1
  else
    let s2 := if cause = 0 then endDeepSleep s1 else s1
    let s3 := hostReset s2 (!s2.sys.perstN)
    if s2.sys.deepSleep then s3 else runBells s3)

/-- The link trains: its width and whether its lanes come reversed are free values (R35; log entry 112). -/
def trainLanes (s : State) : State :=
  let d := draw s
  let r := draw d.2
  { r.2 with sys := { r.2.sys with linkWidth := [16, 8, 4, 1].getD (d.1 % 4) 16, linkReversed := r.1 % 2 == 1 } }

/-- PERST_N_DEASSERT (R80, Table 06.4): WAKE_N is released, the HIF shed is ON and the link trains, at the width and with the reversal it finds
(R35). It ends deep sleep (R55). -/
def execPerstNDeassert (s : State) : Host.Outcome State Fault Refusal :=
  let st := trainLanes s
  let s0 := { st with sys := { st.sys with perstN := true, wakeDriven := false } }
  let s1 := if s0.sys.porstN && !s0.en.flushActive then setShed (endDeepSleep s0) 21 2 else s0
  let f := fun (x : Fn) =>
    { x with pmeAtCold := false,
             vecs := smMap {} (fun _ (v : Vec) => { v with wakeCount := 0, wakeTimer := false, wakeEvent := false }) x.vecs }
  .next (if s.sys.perstN then s
  else
    let s2 := updateLtr { s1 with port := { s1.port with linkUp := linkTrains s1 }, fns := smMap {} (fun _ x => f x) s1.fns }
    if s2.sys.porstN && !s2.en.flushActive then runBells s2 else s2)

/-- FUNCTION_LEVEL_RESET (R127). -/
def execFunctionLevelReset (fn : Nat) (s : State) : Host.Outcome State Fault Refusal :=
  .next (if cfgReaches s fn then functionReset s fn else s)

/-- VF_ENABLE (R129). -/
def execVfEnable (numVfs : Nat) (s : State) : Host.Outcome State Fault Refusal :=
  .next (if cfgReaches s 0 then enableVfs s numVfs else s)

/-- VF_ENABLE_CLEAR (R128): NumVFs lowered, 0 where VF Enable is cleared. -/
def execVfEnableClear (numVfs : Nat) (s : State) : Host.Outcome State Fault Refusal :=
  .next (if cfgReaches s 0 then lowerVfs s numVfs else s)

/-! ## Bus mastering, power and interrupts -/

/-- BUS_MASTER_ENABLE_SET (R126). -/
def execBusMasterEnableSet (fn : Nat) (s : State) : Host.Outcome State Fault Refusal :=
  .next (if cfgReaches s fn then setBme s fn else s)

/-- D3HOT_ENTRY (R133). -/
def execD3hotEntry (fn : Nat) (s : State) : Host.Outcome State Fault Refusal :=
  .next (if cfgReaches s fn then sleepFn s fn else s)

/-- D0_RETURN (R136). -/
def execD0Return (fn : Nat) (s : State) : Host.Outcome State Fault Refusal :=
  .next (if cfgReaches s fn then wakeFn s fn else s)

/-- MSIX_ENABLE_SET (R132). -/
def execMsixEnableSet (fn : Nat) (s : State) : Host.Outcome State Fault Refusal :=
  .next (if cfgReaches s fn then setMsix s fn else s)

/-- VECTOR_UNMASK (R132): one vector, through the MSI-X table in BAR0 of a bound function (R120, R123), or the function, through its
configuration space. -/
def execVectorUnmask (fn : Nat) (vector : Option Nat) (s : State) : Host.Outcome State Fault Refusal :=
  .next (match vector with
    | none => if cfgReaches s fn then unmask s fn none else s
    | some v => if regsUp s fn && (padOfFn s fn).isSome && decide (v < vecTable s fn) then unmask s fn (some v) else s)

/-- The threshold of a vector is met by what it holds (R132). -/
def thresholdMet (s : State) (x : Vec) : Bool :=
  x.pending != 0 && (decide (cntMax x ≤ x.pending) || (x.timerRun && decide (x.timerFrom + timeUs x * 1000 ≤ s.time)))

/-- HI_VEC_MOD_WRITE (R132, Table 06.9). -/
def execHiVecModWrite (fn vector : Nat) (value : W64) (size : Nat) (s : State) : Host.Outcome State Fault Refusal :=
  .next (if !regsUp s fn || (padOfFn s fn).isNone || decide (vecTable s fn ≤ vector) then s
  else if size ≠ 4 ∧ size ≠ 8 then deny s fn
  else
    let s1 := modVec s fn vector fun x => { x with cntMax := bits value.toNat 0 11, timeUs := bits value.toNat 16 10 }
    if thresholdMet s1 (vecAt s1 fn vector) then dueVec s1 fn vector else s1)

/-- VECTOR_TIMER_EXPIRY (R131). -/
def execVectorTimerExpiry (fn vector : Nat) (s : State) : Host.Outcome State Fault Refusal :=
  .next (if (vecAt s fn vector).timerRun then dueVec s fn vector else s)

/-- WAKE_COUNT_EXPIRY (R136). -/
def execWakeCountExpiry (fn vector : Nat) (s : State) : Host.Outcome State Fault Refusal :=
  .next (if (vecAt s fn vector).wakeTimer && fnSleeps s fn then dueWake s fn vector else s)

/-- ASPM_L1_ENTRY (R134): 0 L1, 1 L1.1, 2 L1.2; a substate needs CLKREQ_N high. -/
def execAspmL1Entry (sub : Nat) (clkreqHigh : Bool) (s : State) : Host.Outcome State Fault Refusal :=
  let p := s.port
  let st := if sub = 2 ∧ p.aspmL12 = true ∧ clkreqHigh = true then 3 else if 1 ≤ sub ∧ p.aspmL11 = true ∧ clkreqHigh = true then 2 else 1
  .next (if p.linkUp && p.aspmL1 then { s with port := { p with linkState := st } } else s)

/-- REFCLK_LOSS (R137): in L1.1 and L1.2 the clock may stop while CLKREQ_N, which the other end may pull low too, is high: whether
it then does is a free value (log entry 112). -/
def execRefclkLoss (s : State) : Host.Outcome State Fault Refusal :=
  let d := if 2 ≤ s.port.linkState then draw s else (1, s)
  .next (if !s.sys.porstN || !s.sys.refclk then s
  else if d.1 % 2 == 0 then d.2
  else
    let s0 := d.2
    let s1 := { s0 with sys := { s0.sys with refclk := false }, port := { s0.port with linkUp := false, linkState := 0 } }
    if s1.en.flushActive then s1 else settle (raiseFault s1 0x282 0x19 false 0 0))

/-- LINK_RETURN (R137): the link trains again, at the width and with the reversal it finds (R35). -/
def execLinkReturn (s : State) : Host.Outcome State Fault Refusal :=
  .next (if s.sys.refclk then s
  else
    let s0 := trainLanes s
    let s1 := { s0 with sys := { s0.sys with refclk := true } }
    if s1.sys.porstN && !s1.en.flushActive then causeEnds (hostReset s1 (!s1.sys.perstN)) 0x282 0x19 else s1)

/-! ## Accesses of the BARs -/

/-- POISONED_WRITE (R138, Table 13.5): discarded, reported, the paddock's digest state cleared. ECRC is checked once host software has enabled
the check (Table 06.1). -/
def execPoisonedWrite (fn : Nat) (ecrc : Bool) (s : State) : Host.Outcome State Fault Refusal :=
  .next (if !reaches s fn || (ecrc && !(fnAt s fn).cfg.ecrcChk) then s
  else
    let s1 := aer (if ecrc then s else modFn s fn fun f => { f with errPoisoned := true }) fn (if ecrc then 5 else 4)
    match padOfFn s1 fn with
    | some p => clearDigests s1 p
    | none => s1)

/-- An open window of the core that holds a whole range, for reading or writing (R410); no access reaches the spill area (R398). -/
def memWindow (s : State) (core addr len : Nat) (write : Bool) : Bool :=
  !(areasMeet (addr, len) ((coreAt s core).spillAt, (coreAt s core).spillLen)) &&
  (coreAt s core).windows.any fun w => !w.feed && decide (w.base ≤ addr) && decide (addr + len ≤ w.base + w.len) && (!write || w.write)

/-- A feed window of the paddock's code (R412). -/
def feedWindow (s : State) (p f : Nat) (write : Bool) : Bool :=
  (coresOfPad s p).any fun n => (coreAt s n).windows.any fun w => w.feed && w.base == f && (!write || w.write)

/-- A BAR4 access lies in an open window of the function's paddock (R124, R410, R412). -/
def inWindow (s : State) (n off len : Nat) (write : Bool) : Bool :=
  match padOfFn s n with
  | none => false
  | some p =>
    if off < 2 ^ 24 then hasBit (padRec s p).coreMap (off / 2 ^ 20) && memWindow s (off / 2 ^ 20) (off % 2 ^ 20) len write
    else decide (off < 2 ^ 25) && feedWindow s p (off / 2 ^ 20 - 16) write

/-- The access is one R124 does not allow. -/
def accessInvalid (s : State) (n bar off size : Nat) (write : Bool) : Bool :=
  if bar = 4 then !inWindow s n off size write
  else
    (size != 4 && size != 8) || off % size != 0 ||
    (bar == 2 && write && size == 4 && off % 8 == 4 && (match padOfFn s n with
      | some p => decide (off / 8 < (padRec s p).queueCount)
      | none => false))

/-- BAR_ACCESS_INVALID (R124): an access the rule does not allow is ignored and counted, and a read of it answers 0. A read of BAR2 that it
allows answers 0 too (Table 06.3). -/
def execBarAccessInvalid (fn bar offset size : Nat) (write : Bool) (s : State) : Host.Outcome State Fault Refusal :=
  .next (if !barUp s fn then s
  else if !accessInvalid s fn bar offset size write then (if bar = 2 ∧ write = false then reply s fn (zeros size) else s)
  else
    let s1 := deny s fn
    if write then s1 else reply s1 fn (zeros size))

/-- The entries a write of bytes makes (R412). -/
def feedEntries (tag : Nat) (eop : Bool) : Nat → Bytes → List FeedEntry
  | 0, _ => []
  | n + 1, d =>
    if d.length ≤ 8 then [{ data := d, eop := eop, tag := tag }]
    else { data := d.take 8, eop := false, tag := tag } :: feedEntries tag eop n (d.drop 8)

/-- A host write at a feed window: pushed whole or discarded whole (R412). -/
def feedWrite (s : State) (n p off : Nat) (d : Bytes) : State :=
  let k := p * 16 + (off / 2 ^ 20 - 16)
  let o := off % 2 ^ 20
  let l := feedEntries tBytes (o == 0x80000) d.length d
  if (o ≠ 0 ∧ o ≠ 0x80000) ∨ d.length = 0 then s
  else if 2048 < (feedAt s k).entries.length + l.length then deny s n
  else modFeed s k fun x => pushFeed x l

/-- A read at a feed window: 4 bytes at its offset 0 give the fill (R412). -/
def feedRead (s : State) (p off len : Nat) : Bytes :=
  if off % 2 ^ 20 = 0 ∧ len = 4 then leBytes 4 (feedAt s (p * 16 + (off / 2 ^ 20 - 16))).entries.length else zeros len

/-- A host write through a memory window (R385, R411). -/
def windowWrite (s : State) (n core addr : Nat) (d : Bytes) : State :=
  let r := memWrite .host tBytes (d.length + 1) (coreAt s core).mem addr d
  let s1 := modCore s core fun c => { c with mem := r.1 }
  if r.2 = 0 then s1 else deny s1 n

/-- A BAR4 access that no window takes. -/
def outsideWindow (s : State) (n len : Nat) (write : Bool) : State :=
  let s1 := deny s n
  if write then s1 else reply s1 n (zeros len)

/-- A BAR4 access (R124, R410 to R412). -/
def bar4Access (s : State) (n off : Nat) (write : Bool) (d : Bytes) (len : Nat) : State :=
  let size := if write then d.length else len
  if !inWindow s n off size write then outsideWindow s n size write
  else
    let p := (padOfFn s n).getD 0
    if off < 2 ^ 24 then
      if write then windowWrite s n (off / 2 ^ 20) (off % 2 ^ 20) d
      else reply s n (memReadHost (coreAt s (off / 2 ^ 20)).mem (off % 2 ^ 20) len)
    else if write then feedWrite s n p off d
    else reply s n (feedRead s p off len)

/-- BAR4_WINDOW_ACCESS (R411). -/
def execBar4WindowAccess (fn offset : Nat) (write : Bool) (data : Bytes) (len : Nat) (s : State) : Host.Outcome State Fault Refusal :=
  .next (if regsUp s fn then bar4Access s fn offset write data len else s)

/-- FEED_WINDOW_WRITE (R412): `offset` in BAR4. -/
def execFeedWindowWrite (fn offset : Nat) (data : Bytes) (s : State) : Host.Outcome State Fault Refusal :=
  .next (if regsUp s fn then bar4Access s fn offset true data 0 else s)

/-! ## Reads of host memory that fail (R138) -/

/-- The AER report of a failed read. -/
def aerOf (kind : Nat) : Nat := if kind = 0 then 0 else if kind = 1 then 1 else 4

/-- A read of a function has failed: reported, and a poisoned completion noted at once (Tables 06.5, 06.8). -/
def readFails (s : State) (n kind : Nat) : State :=
  aer (if 2 ≤ kind then modFn s n fun f => { f with errPoisoned := true } else s) n (aerOf kind)

/-- The read is tried again as soon as the function may issue a request (R126, R133, R138). -/
def retryRead (s : State) (n addr len : Nat) : State := if mayIssue s n then emit s (.readRequest n addr len) else s

/-- HI_FN_ERR after a second failure: 0 timeout, 1 UR or CA, 2 poisoned. -/
def noteFail (s : State) (n queue : Nat) (job : Bool) (kind : Nat) : State :=
  modFn s n fun f =>
    { f with errTimeout := f.errTimeout || kind == 0, errUrCa := f.errUrCa || kind == 1, errQueue := queue, errJob := job }

/-- The fetch of the descriptor next in index order fails (R138, R143). -/
def fetchFails (s : State) (q kind : Nat) : State :=
  let x := qAt s q
  let i := nextFetch x
  if x.state ≠ 1 ∨ x.bx = true ∨ x.fetchFailed.isSome = true ∨ dist x.k x.a x.p ≤ x.copies.length then s
  else
    let s1 := readFails s x.fn kind
    if x.fetchTried = some i then noteFail (modQ s1 q fun y => { y with fetchTried := none, fetchFailed := some i }) x.fn q false kind
    else retryRead (modQ s1 q fun y => { y with fetchTried := some i }) x.fn (entryAddr x i) 128

/-- An operand read of an accepted job fails (R138, R191). -/
def operandFails (s : State) (q seq kind : Nat) : State :=
  match jobOf s seq with
  | none => s
  | some j =>
    let n := (qAt s q).fn
    if j.queue ≠ q ∨ j.bx = true ∨ j.fixed ≠ 0 ∨ (j.phase ≠ .running ∧ j.phase ≠ .staged) then s
    else
      let s1 := readFails s n kind
      if j.retrying then retryRead s1 n j.desc.in0Addr j.desc.in0Len
      else if !j.readFailed then retryRead (modJob s1 seq fun y => { y with readFailed := true }) n j.desc.in0Addr j.desc.in0Len
      else
        let s2 := noteFail s1 n q true kind
        if j.issued then modJob s2 seq fun y => { y with retrying := true } else finishJob s2 seq (failWith 0x0C01)

/-- The read of a load image fails (R409). -/
def imageFails (s : State) (core kind : Nat) : State :=
  match (coreAt s core).loading with
  | none => s
  | some o =>
    let s1 := readFails s o.sender kind
    if o.source = 2 then s
    else if !o.tried then modCore s1 core fun c => { c with loading := some { o with tried := true } }
    else modCore (stopCore (noteFail s1 o.sender 0 true kind) core) core fun c => { c with cmdErr := 4 }

/-- HOST_READ_FAIL (R138): of a descriptor, of the operand of a job, or of a core's load image. -/
def execHostReadFail (queue : Nat) (operand core : Option Nat) (kind : Nat) (s : State) : Host.Outcome State Fault Refusal :=
  .next (settle (match operand, core with
    | some seq, _ => operandFails s queue seq kind
    | none, some n => imageFails s n kind
    | none, none => fetchFails s queue kind))

end Sys2Proof.Machine
end

