-- ==== Sys2Proof/Machine/LifeCmds.lean ====
section
/-! DEFINITION. LifeCmds.lean: life-cycle transitions, identity and certificates, debug sessions (R97 to R116, Tables 05.2 to 05.12). -/

namespace Sys2Proof.Machine

/-! ## Tokens (R100 to R102) -/

/-- Signer of a block: Habervo's provisioning key or the owner plan key. -/
inductive Signer where
  | habervo
  | owner
deriving DecidableEq, Repr

/-- A permitted transition (Table 05.2): signers, whether the epoch rises, and the owner key digest after: 0 zero, 1 unchanged, 2 from
the token. -/
structure TransRow where
  signers : List Signer
  epochUp : Bool := false
  digest : Nat := 0
deriving DecidableEq, Repr

/-- Table 05.2. -/
def transRow (src dst : Nat) : Option TransRow :=
  match src, dst with
  | 0, 1 => some { signers := [.habervo] }
  | 1, 2 => some { signers := [.habervo] }
  | 2, 3 => some { signers := [.habervo], digest := 2 }
  | 3, 2 => some { signers := [.owner], epochUp := true }
  | 3, 4 => some { signers := [.owner, .habervo], digest := 1 }
  | 2, 4 => some { signers := [.habervo] }
  | 4, 2 => some { signers := [.habervo], epochUp := true }
  | 0, 5 => some { signers := [.habervo], digest := 1 }
  | 1, 5 => some { signers := [.habervo], digest := 1 }
  | 2, 5 => some { signers := [.habervo], digest := 1 }
  | 4, 5 => some { signers := [.habervo], digest := 1 }
  | 3, 5 => some { signers := [.owner], digest := 1 }
  | _, _ => none

def tokFrom (t : Bytes) : Nat := u8 t 0x06
def tokTo (t : Bytes) : Nat := u8 t 0x07
def tokDevice (t : Bytes) : Nat := u64 t 0x08
def tokSeq (t : Bytes) : Nat := u32 t 0x10
def tokEpoch (t : Bytes) : Nat := u32 t 0x14
def tokCount (t : Bytes) : Nat := u8 t 0x18
def tokDigest (t : Bytes) : Bytes := slice t 0x20 48

/-- Signature block i of a token. -/
def tokBlock (t : Bytes) (i : Nat) : Bytes := slice t (128 + 4736 * i) 4736

/-- The token is well formed (R101, Table 05.3). -/
def tokenFormed (t : Bytes) : Bool :=
  u32 t 0 == 0x1C7E0A5D && u16 t 4 == 1 && (tokCount t == 1 || tokCount t == 2) && t.length == 128 + 4736 * tokCount t &&
  allZero (slice t 0x19 7) && allZero (slice t 0x50 48) && (List.range (tokCount t)).all fun i => sigBlockOk (tokBlock t i)

/-- Every block verifies under its signer's key, the owner's among the digests given (R102). -/
def tokenSigned (t : Bytes) (row : TransRow) (owners : List Bytes) : Bool :=
  row.signers.zipIdx.all fun e => match e.1 with
    | .habervo => blockVerifies (ascii "LCT") Config.habervoProvisioningKeyId (t.take 128) (tokBlock t e.2)
    | .owner => owners.any fun k => blockVerifies (ascii "LCT") k (t.take 128) (tokBlock t e.2)

/-- The owner epoch after a transition (Table 05.2): 1 on leaving RAW. -/
def epochAfter (src : Nat) (row : TransRow) (dst epoch : Nat) : Nat := if src = 0 ∧ dst = 1 then 1 else if row.epochUp then epoch + 1 else epoch

/-- The owner key digest after a transition (Table 05.2). -/
def digestAfter (s : State) (t : Bytes) (row : TransRow) : Bytes :=
  match row.digest with
  | 1 => padTo 48 s.lc.ownerDigest
  | 2 => tokDigest t
  | _ => zeros 48

/-- The identity certificates stand stored (R111). -/
def certsStored (s : State) : Bool := (List.range 6).all fun i => smGet [] s.hl.certs i != []

/-- R102: the err code of a token for a transition from the current state; 0 when it is valid. -/
def tokenFault (s : State) (t : Bytes) : Nat :=
  if !tokenFormed t then 1
  else match transRow (tokFrom t) (tokTo t) with
    | none => 3
    | some row =>
      if row.signers.length ≠ tokCount t then 3
      else if !tokenSigned t row [s.lc.ownerDigest] then 2
      else if tokFrom t ≠ s.lc.state ∨ (tokFrom t = 1 ∧ tokTo t = 2 ∧ certsStored s = false) then 3
      else if (tokDevice t ≠ s.lc.deviceNumber ∧ ¬(tokFrom t = 0 ∧ tokTo t = 1)) ∨ tokSeq t ≠ s.lc.seq + 1 ∨
        tokEpoch t ≠ epochAfter (tokFrom t) row (tokTo t) s.lc.epoch then 4
      else if tokDigest t ≠ digestAfter s t row then 1
      else 0

/-! ## The transition sequence (Table 05.4) -/

def lcErr (s : State) (e : Nat) : State := { s with lc := { s.lc with err := e } }

/-- A transition or COMPLETE is in progress (R105). -/
def lcBusy (s : State) : Bool := s.lc.busy || s.lc.step != 0

/-- Steps 1 and 2: the token is checked; acceptance stops, the cores stop, a debug session and raw-sample mode end (R116, R326). -/
def startTransition (s : State) (t : Bytes) : State :=
  if lcBusy s then lcErr s 6
  else if tokenFault s t ≠ 0 then lcErr s (tokenFault s t)
  else
    let s1 := (List.range 16).foldl stopCore (endRaw (endSession s))
    { s1 with lc := { s1.lc with err := 0, busy := true, step := 3, token := t } }

/-- LC commands are served to the PF while the part runs. -/
def lcCmdUp (s : State) (n : Nat) : Bool := n == 0 && regsUp s n

/-- TRANSITION (R103). -/
def execLcTransition (fn : Nat) (token : Bytes) (s : State) : Host.Outcome State Fault Refusal :=
  .next (if lcCmdUp s fn then startTransition s token else s)

/-- The slot a transition programs: the sector after the current one (Table 05.4). -/
def nextSlot (s : State) : Nat := ((slotsOf s 1).headD 0 + 1) % 8

/-- A state slot written by a token, with its CRC and codeword (Tables 05.6, 05.7). -/
def slotFor (t : Bytes) : LedgerSlot :=
  let x : LedgerSlot :=
    { seq := tokSeq t, epoch := tokEpoch t, state := tokTo t, ownerDigest := tokDigest t, tokenDigest := sha3_384 t, crc := 0, reserved := zeros 7, reserved2 := zeros 12,
      codeword := codewordOf (tokTo t) }
  { x with crc := crc32c (slotBytes x) }

/-- The device root is generated and programmed with the device number on leaving RAW for FACTORY (R98). -/
def programRoot (s : State) (t : Bytes) : State :=
  if tokFrom t = 0 ∧ tokTo t = 1 then
    let d := conditioned s
    { d.2 with lc := { d.2.lc with rootPresent := true, deviceRoot := d.1, deviceNumber := tokDevice t } }
  else s

/-- LC_DRAINED: steps 4 to 7 of Table 05.4; the erase of the old sector begins. -/
def execLcDrained (s : State) : Host.Outcome State Fault Refusal :=
  .next (if s.lc.step = 3 ∧ s.jobs = [] then
    let s1 := programRoot ((List.range 52).foldl resetStall s) s.lc.token
    let s2 := programSlot (eraseSector s1 (nextSlot s1)) (nextSlot s1) (slotFor s1.lc.token)
    { s2 with lc := { s2.lc with step := 8 } }
  else s)

/-- LC_DRAIN_TIMEOUT (Table 05.4 step 3): abandoned with err 0x05; acceptance resumes. -/
def execLcDrainTimeout (s : State) : Host.Outcome State Fault Refusal :=
  .next (if s.lc.step = 3 ∧ s.jobs ≠ [] then recheck (lcErr (abandonTransition s) 5) [2] else s)

/-- Step 9: the part waits for PORST_N, its gate closed (R104). -/
def requireReset (s : State) : State :=
  { s with lc := { s.lc with step := 0, busy := false, token := [], resetRequired := true }, jn := { s.jn with opened := false } }

/-- LEDGER_PROGRAM_DONE: step 8 has ended, the old sector is erased (Table 05.4). -/
def execLedgerProgramDone (s : State) : Host.Outcome State Fault Refusal :=
  .next (if s.lc.step = 8 then
    requireReset (auditAdd { s with lc := { s.lc with slots := s.lc.slots.filter fun e => e.2.seq == tokSeq s.lc.token } } 1 (tokTo s.lc.token))
  else s)

/-! ## COMPLETE from LOCKED (R109) -/

/-- Slots that are not ERASED. -/
def usedSlots (s : State) : List Nat := (List.range 8).filter fun i => slotClass (ledgerSlot s i) != 0

/-- The slot passes as the target of a token. -/
def targetOk (s : State) (t : Bytes) (i : Nat) : Bool :=
  let x := ledgerSlot s i
  match slotClass x with
  | 1 => x.state == tokTo t && x.seq == tokSeq t && x.epoch == tokEpoch t && x.ownerDigest == tokDigest t
  | 2 => x.crc == crc32c (slotBytes x) && x.tokenDigest == sha3_384 t
  | _ => match usedSlots s with
    | [k] => i == (k + 1) % 8
    | _ => false

/-- Another slot that may stand beside the target. -/
def besideOk (s : State) (t : Bytes) (i : Nat) : Bool :=
  let x := ledgerSlot s i
  slotClass x == 2 || (slotClass x == 1 && x.state == tokFrom t && x.seq + 1 == tokSeq t)

/-- The target the token completes. -/
def completeTarget (s : State) (t : Bytes) : Option Nat :=
  if 2 < (usedSlots s).length then none
  else (List.range 8).find? fun i => targetOk s t i && ((usedSlots s).filter (· != i)).all (besideOk s t)

/-- A target that is not VALID would be written from the token: epoch and digest are held to Table 05.2, counted from the slot of the interrupted
transition where that is VALID; where it is not, only a digest that the table gives itself can be (R102, R109; log entry 77). -/
def completeRow (s : State) (t : Bytes) (row : TransRow) (i : Nat) : Bool :=
  if slotClass (ledgerSlot s i) = 1 then true
  else match (usedSlots s).find? fun k => k != i && slotClass (ledgerSlot s k) == 1 with
    | some k =>
      let x := ledgerSlot s k
      tokEpoch t == epochAfter (tokFrom t) row (tokTo t) x.epoch &&
        tokDigest t == (if row.digest = 0 then zeros 48 else if row.digest = 1 then x.ownerDigest else tokDigest t)
    | none => row.digest != 0 || tokDigest t == zeros 48

/-- R109: the err code of a token for COMPLETE; 0 when it is valid. -/
def completeFault (s : State) (t : Bytes) : Nat :=
  if !tokenFormed t then 1
  else match transRow (tokFrom t) (tokTo t) with
    | none => 3
    | some row =>
      if row.signers.length ≠ tokCount t then 3
      else if !tokenSigned t row ((usedSlots s).map fun i => (ledgerSlot s i).ownerDigest) then 2
      else if tokDevice t ≠ s.lc.deviceNumber ∧ ¬(s.lc.rootPresent = false ∧ tokFrom t = 0 ∧ tokTo t = 1) then 4
      else match completeTarget s t with
        | none => 7
        | some i => if completeRow s t row i then 0 else 4

/-- COMPLETE's flash operations: the target stands VALID and alone. -/
def completeLedger (s : State) (t : Bytes) : State :=
  match completeTarget s t with
  | none => s
  | some i =>
    let x := if slotClass (ledgerSlot s i) = 1 then ledgerSlot s i else slotFor t
    { s with lc := { s.lc with slots := smSet {} [] i x } }

/-- COMPLETE with a token. -/
def complete (s : State) (t : Bytes) : State :=
  if lcBusy s then lcErr s 6
  else if s.lc.state ≠ 7 then lcErr s 7
  else if completeFault s t ≠ 0 then lcErr s (completeFault s t)
  else requireReset (auditAdd (completeLedger (lcErr (if s.lc.rootPresent then s else programRoot s t) 0) t) 1 (tokTo t))

/-- COMPLETE (R109): in LOCKED through the recovery configuration (R82). -/
def execLcComplete (fn : Nat) (token : Bytes) (s : State) : Host.Outcome State Fault Refusal :=
  .next (if fn = 0 ∧ (regsUp s fn = true ∨ (recoveryUp s fn = true ∧ s.sys.bootState = 3 ∧ s.lc.resetRequired = false)) then complete s token else s)

/-- I3C_TOKEN_MAILBOX (R103, R109): a transition in RAW, FACTORY and RETURNED, COMPLETE in LOCKED. -/
def execI3cTokenMailbox (complete : Bool) (token : Bytes) (s : State) : Host.Outcome State Fault Refusal :=
  .next (if s.sys.porstN = false ∨ s.lc.resetRequired = true ∨ s.en.flushActive = true then s
  else if complete then (if s.sys.bootState = 3 ∨ lcBusy s = true then Sys2Proof.Machine.complete s token else s)
  else if s.sys.bootState = 1 ∧ (s.lc.state = 0 ∨ s.lc.state = 1 ∨ s.lc.state = 4) then startTransition s token
  else s)

/-! ## Identity and certificates (R111, R112) -/

/-- Public keys of the identity pair: ML-DSA-87 as FIPS 204 encodes it, ECDSA P-384 uncompressed (R111). -/
def identityPk (s : State) : Bytes × Bytes :=
  (mldsaPublic 3 ((identitySeeds s).take 32), nistPublic 2 (identityScalar s))

/-- GEN_IDENTITY (R111). -/
def execGenIdentity (fn : Nat) (value : W64) (s : State) : Host.Outcome State Fault Refusal :=
  .next (if lcCmdUp s fn = true ∧ cmdOf value = 3 ∧ s.lc.state = 1 then
    if lcBusy s then lcErr s 6
    else hostWrite (lcErr { s with lc := { s.lc with identity := true } } 0) fn s.lc.tokenAddr ((identityPk s).1 ++ (identityPk s).2)
  else s)

/-- Both device certificates name the derived keys and the device number. -/
def certsMatch (s : State) (l : List Bytes) : Bool :=
  l.length == 6 && l.all (fun c => c != []) && Config.certNames (l.getD 2 []) (identityPk s).1 s.lc.deviceNumber &&
  Config.certNames (l.getD 5 []) (identityPk s).2 s.lc.deviceNumber

/-- STORE_CERTS (R111): the six certificates in the order of LC_CERT_SEL, as read at LC_TOKEN_ADDR, go to the hayloft; they stand once
OBJECT_WRITE_COMMIT has read them back (R465). -/
def execStoreCerts (fn : Nat) (certs : List Bytes) (s : State) : Host.Outcome State Fault Refusal :=
  .next (if lcCmdUp s fn = true ∧ s.lc.state = 1 then
    if lcBusy s then lcErr s 6
    else if s.lc.identity && certsMatch s certs && hayloftWrites s then
      startWrite (lcErr { s with hl := { s.hl with certsNew := some certs } } 0) certsObj
    else s
  else s)

/-- The certificate a function has selected; none in RAW (R112). -/
def certOf (s : State) (i : Nat) : Bytes := if s.lc.state = 0 then [] else smGet [] s.hl.certs i

/-- LC_CERT_SEL_WRITE (Table 05.12). -/
def execLcCertSelWrite (fn : Nat) (value : W64) (s : State) : Host.Outcome State Fault Refusal :=
  .next (if lcUp s fn && (padOfFn s fn).isSome then modFn s fn fun f => { f with certSel := bits value.toNat 0 3, certOff := 0 } else s)

/-- CERT_DATA_READ (R112): the next four bytes, 0 beyond the end; a VF bound to no paddock reads 0 (R120). -/
def execCertDataRead (fn : Nat) (s : State) : Host.Outcome State Fault Refusal :=
  .next (if !lcUp s fn then s
  else if (padOfFn s fn).isNone then reply s fn (zeros 4)
  else
    let f := fnAt s fn
    let c := certOf s f.certSel
    reply (modFn s fn fun x => { x with certOff := if x.certOff < c.length then x.certOff + 4 else x.certOff }) fn (leBytes 4 (u32 c f.certOff)))

/-- LC_STATUS (Table 05.11). -/
def lcStatus (s : State) : Nat :=
  let cls := ((List.range 8).map fun i => slotClass (ledgerSlot s i) * 4 ^ i).sum
  s.lc.state + b1 s.lc.busy * 2 ^ 3 + b1 s.lc.resetRequired * 2 ^ 4 + s.lc.err * 2 ^ 8 + cls * 2 ^ 16 + s.lc.epoch * 2 ^ 32

/-- I3C_IDENTITY_READ (R46, R83, R112): below 6 a certificate, 6 the die temperature the sensor reads, which Table 02.10 keeps readable here, and
any other the device number and LC_STATUS (which index gives which is a DESIGN CHOICE, log 82); it wakes the part from deep sleep. -/
def execI3cIdentityRead (index : Nat) (s : State) : Host.Outcome State Fault Refusal :=
  .next (if s.sys.porstN then
    let d := if index = 6 then draw s else (0, s)
    emit (settle (leaveDeepSleep d.2)) (.i3cReply (if index < 6 then certOf s index else if index = 6 then leBytes 4 d.1
      else leBytes 8 s.lc.deviceNumber ++ leBytes 8 (lcStatus s)))
  else s)

/-! ## Debug sessions (R115, R116) -/

/-- The current challenge: a draw of the random source (log entry 3). -/
def challenge (s : State) : Bytes := leBytes 32 (Config.freeValue s.dbg.challengeDraw)

/-- Keys that may sign a token of a scope in the current state (Table 05.9). -/
def debugKeys (s : State) (scope : Nat) : List Bytes :=
  if scope = 1 ∧ (s.lc.state = 1 ∨ s.lc.state = 2 ∨ s.lc.state = 4) then [Config.habervoProvisioningKeyId]
  else if scope = 2 ∧ s.lc.state = 3 then [(debugRec s).digest, s.lc.ownerDigest]
  else []

/-- The debug token opens a session (R115, Table 05.10). -/
def debugTokenOk (s : State) (t : Bytes) : Bool :=
  t.length == 4864 && u32 t 0 == 0xDB600A11 && u16 t 4 == 1 && u8 t 7 == s.lc.state && u64 t 8 == s.lc.deviceNumber && slice t 0x10 32 == challenge s &&
  allZero (slice t 0x34 76) && (u8 t 6 == 2 || u32 t 0x30 == 0) &&
  (debugKeys s (u8 t 6)).any fun k => blockVerifies (ascii "DBG") k (t.take 128) (t.drop 128)

/-- The part runs behind its debug port. -/
def debugUp (s : State) : Bool :=
  s.sys.porstN && decide (10 ≤ s.sys.stage) && decide (s.sys.bootState ≤ 1) && !s.lc.resetRequired && !s.sys.deepSleep && !s.en.flushActive && lcBusy s == false

/-- DBG_TOKEN (R115, R116): the session opens, register 15 is extended, the audit log written, and a fresh challenge drawn. -/
def execDbgToken (token : Bytes) (s : State) : Host.Outcome State Fault Refusal :=
  .next (if debugUp s && !s.sys.boundary && debugTokenOk s token then
    let s0 := writeDebug s (debugRec s).digest ((debugRec s).count + 1)
    let s1 := auditAdd (extendYmr s0 15 (sha3_384 token)) 2 (u8 token 6)
    { s1 with sys := { s1.sys with tapIr := 0x10 }, dbg := { challengeDraw := s1.freeCtr, scope := u8 token 6, padMask := if u8 token 6 = 2 then u32 token 0x30 else 0 },
              freeCtr := s1.freeCtr + 1 }
  else s)

/-- DEBUG_CLOSE (R116, Table 05.12). -/
def execDebugClose (fn : Nat) (value : W64) (s : State) : Host.Outcome State Fault Refusal :=
  .next (if fn = 0 ∧ regsUp s fn = true ∧ hasBit value.toNat 0 = true then endSession s else s)



/-- DEBUG_HALT (R116, R403). -/
def execDebugHalt (core : Nat) (s : State) : Host.Outcome State Fault Refusal :=
  .next (if debugReaches s core = true ∧ (coreAt s core).state = 2 then modCore s core fun c => { endWait c 0 with state := 3 } else s)

/-- DEBUG_RESUME (Table 18.1). -/
def execDebugResume (core : Nat) (s : State) : Host.Outcome State Fault Refusal :=
  .next (if debugReaches s core = true ∧ (coreAt s core).state = 3 then modCore s core fun c => { c with state := 2 } else s)

end Sys2Proof.Machine
end

