-- ==== Sys2Proof/Machine/LinkCmds.lean ====
section
/-! DEFINITION. LinkCmds.lean: link tests, the test access port and memory self-test (R477 to R484, Tables 22.1 to 22.4, 22.7). -/

namespace Sys2Proof.Machine

/-! ## Link tests (R477 to R480) -/

/-- TEST_EN sampled 1 in RAW, FACTORY or RETURNED (R44). -/
def testMode (s : State) : Bool := s.sys.straps.testEn && decide (s.lc.state ∈ [0, 1, 4])

def testAt (s : State) (n : Nat) : LinkTest := smGet {} s.lk.tests n
def modTest (s : State) (n : Nat) (f : LinkTest → LinkTest) : State := { s with lk := { s.lk with tests := smMod {} s.lk.tests n f } }

/-- Why a link may not be tested now (Table 22.1): 0 it may, 1 not permitted, 2 in service. -/
def linkRefusal (s : State) (n target : Nat) : Nat :=
  if (testAt s n).running then 0
  else if n < 16 then (if testMode s then 0 else 1)
  else if n < 20 then (if !s.plan.part.twin || (laneAt s (n - 16)).state == 2 then 0 else 2)
  else if n < 22 then
    (if target / 4 ≠ n - 20 then 1 else if testMode s || s.sys.bootState == 4 || (targetAt s target).state ∈ [0, 2, 4] then 0 else 2)
  else if 32 ≤ n ∧ n < 84 then (if (stAt s (n - 32)).state = 4 ∨ (stAt s (n - 32)).state = 5 then 0 else 2)
  else 1

/-- The pattern exists on the link (Table 22.2). -/
def patternOk (n pattern : Nat) : Bool := decide (pattern ≤ 4) || (pattern == 5 && (n == 20 || n == 21))

/-- A test starts, or starts again with both counts 0 (R479). -/
def startTest (s : State) (n : Nat) (v : Nat) : State :=
  let s1 := modTest s n fun _ => { pattern := bits v 0 3, fixed := bits v 16 16, target := s.lk.selTarget, running := true }
  if 16 ≤ n ∧ n < 20 then modLane s1 (n - 16) fun x => { x with state := 3 } else s1

/-- LK_CTRL with run 1: refused with err 1 or 2 and no other effect where the link or the pattern may not be tested. -/
def runTest (s : State) (v : Nat) : State :=
  let n := s.lk.sel
  let r := linkRefusal s n s.lk.selTarget
  if r ≠ 0 then modTest s n fun x => { x with err := r }
  else if !patternOk n (bits v 0 3) then modTest s n fun x => { x with err := 1 }
  else startTest s n v

/-- LK_CTRL with run 0. -/
def haltTest (s : State) (v : Nat) : State :=
  let s1 := stopTest s s.lk.sel 0
  modTest s1 s.lk.sel fun x => { x with pattern := bits v 0 3, fixed := bits v 16 16 }

/-- LK_CTRL.inject: one sent bit is inverted. -/
def injectBit (s : State) : State := modTest s s.lk.sel fun x => if x.running then { x with injected := x.injected + 1 } else x

/-- LK_ registers take a write of paddock 0 through the PF. -/
def lkUp (s : State) (n : Nat) : Bool := n == 0 && regsUp s n

/-- LINK_TEST_START (R477, R479): LK_CTRL with run 1, and inject beside it where set. -/
def execLinkTestStart (fn : Nat) (value : W64) (s : State) : Host.Outcome State Fault Refusal :=
  let v := value.toNat
  .next (if lkUp s fn && hasBit v 3 then (if hasBit v 4 then injectBit (runTest s v) else runTest s v) else s)

/-- LINK_TEST_STOP (R479): LK_CTRL with run 0. -/
def execLinkTestStop (fn : Nat) (value : W64) (s : State) : Host.Outcome State Fault Refusal :=
  .next (if lkUp s fn && !hasBit value.toNat 3 then haltTest s value.toNat else s)

/-- LINK_TEST_INJECT (R479): LK_CTRL with inject 1 while a test runs. -/
def execLinkTestInject (fn : Nat) (value : W64) (s : State) : Host.Outcome State Fault Refusal :=
  .next (if lkUp s fn && hasBit value.toNat 4 then injectBit s else s)

/-- LINK_TEST_END (R480): every running test ends. -/
def execLinkTestEnd (_link _cause : Nat) (s : State) : Host.Outcome State Fault Refusal := .next (endTests s)

/-- CHECKER_LOCK (R479). -/
def execCheckerLock (link : Nat) (s : State) : Host.Outcome State Fault Refusal :=
  .next (if (testAt s link).running then modTest s link fun x => { x with locked := true } else s)

/-- CHECKER_LOCK_LOST (R479): what the checker counted while locked joins the counts. -/
def execCheckerLockLost (link bits errs : Nat) (s : State) : Host.Outcome State Fault Refusal :=
  .next (if (testAt s link).running && (testAt s link).locked then
    modTest s link fun x =>
      { x with locked := false, lost := true, injected := 0, bits := (x.bits + bits) % 2 ^ 64, errs := satAdd (2 ^ 48 - 1) x.errs errs }
  else s)

/-! ## The test access port (R483, R484, Tables 05.9, 22.4) -/

/-- EXTEST, CLAMP and HIGHZ are available (Tables 05.9, 22.4). -/
def boundaryOpen (s : State) : Bool :=
  s.sys.porstN && s.lc.decoded && (decide (s.lc.state ∈ [0, 1, 4, 5]) || (s.lc.state == 2 && s.dbg.scope == 1)) && nLive s == 0

/-- The instruction register takes a code, unless a boundary instruction holds the balls until the next PORST_N (R484). -/
def setIr (s : State) (code : Nat) : State := if s.sys.boundary then s else { s with sys := { s.sys with tapIr := code } }

/-- A boundary instruction: the gate closes, cores and stalls stop, and the balls follow the chain (R484). -/
def takeBalls (s : State) (code : Nat) : State :=
  if !boundaryOpen s || s.sys.boundary then s
  else
    let s1 := stopStalls ((List.range 16).foldl stopCore s)
    { s1 with sys := { s1.sys with boundary := true, tapIr := code }, jn := { s1.jn with opened := false } }

/-- EXTEST (R484). -/
def execTapExtest (s : State) : Host.Outcome State Fault Refusal := .next (takeBalls s 0x00)

/-- CLAMP (R484). -/
def execTapClamp (s : State) : Host.Outcome State Fault Refusal := .next (takeBalls s 0x03)

/-- HIGHZ (R484). -/
def execTapHighz (s : State) : Host.Outcome State Fault Refusal := .next (takeBalls s 0x04)

/-- IDCODE (R483). -/
def execTapIdcode (s : State) : Host.Outcome State Fault Refusal := .next (emit (setIr s 0x01) (.tdo 0xB7360A9F))

/-- SAMPLE/PRELOAD (R483): the cells are loaded, or the balls' values leave by TDO; what stands on the balls is free (log entry 3). -/
def execTapSamplePreload (preload : Bool) (cells : Nat) (s : State) : Host.Outcome State Fault Refusal :=
  let s1 := setIr s 0x02
  .next (if s.sys.boundary then s1
    else if preload then { s1 with sys := { s1.sys with boundaryReg := cells } } else emit (draw s1).2 (.tdo (draw s1).1))

/-- BYPASS (R483). -/
def execTapBypass (s : State) : Host.Outcome State Fault Refusal := .next (setIr s 0xFF)

/-! ## Memory self-test (R481, R482) -/

/-- Spare rows taken for failing rows of one bank: how many fail is free, within the rows there are (Table 22.3, log entry 3). -/
def repairBank (s : State) (source : Nat) : State :=
  let used := smGet 0 s.fc.spareRows source
  let d := draw s
  { d.2 with fc := { d.2.fc with spareRows := smSet 0 d.2.fc.spareRows source (used + d.1 % (installedRows source - used + 1)) } }

/-- Every SRAM array loses its content. -/
def wipeArrays (s : State) : State :=
  { s with
    sys := { s.sys with mbistRan := true }
    jobs := [], yard := [], jn := { s.jn with held := false, opened := false }, queues := [], cache := [], feeds := []
    pads := smMap {} (fun _ (x : Pad) => { inc := x.inc, drbg := x.drbg }) s.pads
    tk := { s.tk with slots := [], blobs := [], hbs := [], unsealed := false }
    cores := smMap {} (fun _ (c : Core) => { loads := c.loads, retired := c.retired }) s.cores
    stalls := smMap {} (fun _ (x : Stall) => { x with jobs := [], tree := none, sequ := {}, operand := [], ucodeOk := false, state := if x.state = 5 then 5 else 0 }) s.stalls }

/-- MBIST (R481). -/
def execTapMbist (s : State) : Host.Outcome State Fault Refusal :=
  .next (if s.sys.porstN && testMode s && !s.sys.boundary then
    let banks := [0x80, 0x81, 0x90, 0x91, 0x92, 0x93, 0x94, 0x95, 0x96, 0x97, 0xA0, 0xA8] ++ List.range 52 ++ (List.range 16).map (0x40 + ·) ++
      (List.range 52).map (0x400 + ·)
    banks.foldl repairBank (wipeArrays (setIr s 0x20))
  else s)

end Sys2Proof.Machine
end

