-- ==== Sys2Proof/Machine/McEliece.lean ====
section
/-! DEFINITION. McEliece.lean: Classic McEliece as submitted in its fourth round, without plaintext confirmation (R251, R254, R264 to R266; log
entry 4). A vector of bits is a number, position 0 its least significant bit. -/

namespace Sys2Proof.Machine

/-! ## Parameters and the field -/

/-- m, n and t of a param_set. -/
def mceSet (ps : Nat) : Nat × Nat × Nat :=
  match (ps - 1) / 2 with
  | 0 => (12, 3488, 64) | 1 => (13, 4608, 96) | 2 => (13, 6688, 128) | 3 => (13, 6960, 119) | _ => (13, 8192, 128)

/-- n and t. -/
def mceSizes (ps : Nat) : Nat × Nat := (mceSet ps).2

/-- The f sets, of even param_set, take semi-systematic form. -/
def mceSemi (ps : Nat) : Bool := ps % 2 == 0

/-- Rows of the parity-check matrix. -/
def mceRows (ps : Nat) : Nat := (mceSet ps).1 * (mceSet ps).2.2

/-- The field's polynomial. -/
def gfPoly (m : Nat) : Nat := if m = 12 then 0x1009 else 0x201B

/-- Product in the field of 2 ^ m elements, over the low `k` bits of `b`. -/
def gf2Mul (m a b : Nat) : Nat → Nat
  | 0 => 0
  | k + 1 =>
    let x := 2 * gf2Mul m a (b / 2) k
    let y := if x.testBit m then x ^^^ gfPoly m else x
    if b % 2 = 1 then y ^^^ a else y

def gfMulOf (m a b : Nat) : Nat := gf2Mul m a b m

/-- Power of an element; `fuel` is at least the number of bits of the exponent. -/
def gf2Pow (m a : Nat) : Nat → Nat → Nat
  | 0, _ => 1
  | fuel + 1, e => if e = 0 then 1 else
    let h := gf2Pow m (gfMulOf m a a) fuel (e / 2)
    if e % 2 = 1 then gfMulOf m h a else h

def gfInv (m a : Nat) : Nat := gf2Pow m a (m + 1) (2 ^ m - 2)

/-! ## Polynomials over the field, the lowest coefficient first -/

/-- The value of a polynomial at a point. -/
def gfEval (m x : Nat) : List Nat → Nat
  | [] => 0
  | c :: r => c ^^^ gfMulOf m x (gfEval m x r)

def gfScale (m c : Nat) (a : List Nat) : List Nat := a.map (gfMulOf m c)

/-- Sum; the longer one gives the length. -/
def gfAdd : List Nat → List Nat → List Nat
  | [], b => b
  | a, [] => a
  | x :: a, y :: b => (x ^^^ y) :: gfAdd a b

/-- The polynomial y ^ t less its leading term, which defines the extension of degree t. -/
def mceF (t : Nat) : List Nat :=
  let terms := match t with | 64 => [1, 3] | 96 => [0, 6, 9, 10] | 119 => [0, 8] | _ => [0, 1, 2, 7]
  (List.range t).map fun i => if i ∈ terms then 1 else if i = 0 then 2 else 0

/-- A polynomial below degree t times y. -/
def mceShift (m t : Nat) (a : List Nat) : List Nat :=
  gfAdd (0 :: a.take (t - 1)) (gfScale m (a.getD (t - 1) 0) (mceF t))

/-- Product in the extension. -/
def mceMul (m t : Nat) (a : List Nat) : List Nat → List Nat
  | [] => List.replicate t 0
  | c :: r => gfAdd (gfScale m c a) (mceShift m t (mceMul m t a r))

/-- The first `n` powers of an element. -/
def mcePowers (m t : Nat) (b : List Nat) : Nat → List Nat → List (List Nat)
  | 0, _ => []
  | n + 1, x => x :: mcePowers m t b n (mceMul m t x b)

/-- Gauss–Jordan elimination over the field: rows done, rows left, the column to clear. None where the matrix is singular. -/
def gfSolve (m : Nat) : Nat → Nat → List (List Nat) → List (List Nat) → Option (List (List Nat))
  | 0, _, done, _ => some done
  | n + 1, c, done, rest => match rest.findIdx? fun r => r.getD c 0 != 0 with
    | none => none
    | some i =>
      let p := gfScale m (gfInv m ((rest.getD i []).getD c 0)) (rest.getD i [])
      let clear := fun (r : List Nat) => gfAdd r (gfScale m (r.getD c 0) p)
      gfSolve m n (c + 1) (done.map clear ++ [p]) ((rest.eraseIdx i).map clear)

/-- The monic minimal polynomial of an element of the extension; none where its degree is below t. -/
def mceMinimal (m t : Nat) (b : List Nat) : Option (List Nat) :=
  let pw := mcePowers m t b (t + 1) (1 :: List.replicate (t - 1) 0)
  (gfSolve m t 0 [] ((List.range t).map fun i => pw.map fun p => p.getD i 0)).map fun rows => rows.map (fun r => r.getD t 0) ++ [1]

/-! ## Key generation (R254, R266) -/

/-- The expansion of δ: s, the field ordering's string, the polynomial's string, the next δ. -/
structure MceSeed where
  s : Bytes
  order : Bytes
  poly : Bytes
  next : Bytes

def mceExpand (ps : Nat) (delta : Bytes) : MceSeed :=
  let (m, n, t) := mceSet ps
  let e := shake256 (64#8 :: delta) (n / 8 + 4 * 2 ^ m + 2 * t + 32)
  { s := e.take (n / 8), order := slice e (n / 8) (4 * 2 ^ m), poly := slice e (n / 8 + 4 * 2 ^ m) (2 * t),
    next := e.drop (n / 8 + 4 * 2 ^ m + 2 * t) }

/-- The low `w` bits of a number in reverse order. -/
def reversed (w k : Nat) : Nat := ((List.range w).map fun i => if k.testBit i then 2 ^ (w - 1 - i) else 0).sum

/-- The support: field elements in the order of the string's 32-bit numbers; none where two are equal. -/
def mceOrder (m : Nat) (b : Bytes) : Option (List Nat) :=
  let a := ((List.range (2 ^ m)).map fun i => (u32 b (4 * i), i)).mergeSort fun x y => decide (x.1 < y.1 ∨ (x.1 = y.1 ∧ x.2 ≤ y.2))
  if (a.zip (a.drop 1)).any fun e => e.1.1 == e.2.1 then none else some (a.map fun e => reversed m e.2)

/-- The Goppa polynomial of a string; none where it is not of degree t. -/
def mceGoppa (m t : Nat) (b : Bytes) : Option (List Nat) := mceMinimal m t ((List.range t).map fun j => u16 b (2 * j) % 2 ^ m)

/-- Bit rows of the parity-check matrix of a support and a polynomial. -/
def mceMatrix (m t : Nat) (alpha g : List Nat) : List Nat :=
  let cols := alpha.map fun a => (mcePowersAt m a t (gfInv m (gfEval m a g)))
  (List.range t).flatMap fun i => (List.range m).map fun l =>
    cols.foldr (fun c acc => 2 * acc + (if (c.getD i 0).testBit l then 1 else 0)) 0
where
  /-- `x`, `x` a, `x` a², … -/
  mcePowersAt (m a : Nat) : Nat → Nat → List Nat
    | 0, _ => []
    | n + 1, x => x :: mcePowersAt m a n (gfMulOf m x a)

/-- Reduced row echelon form: rows done with their pivots, rows left. Pivot `i` stands in column `i`, but for the last 32 of a semi-systematic form,
which stand within the 64 columns from there. -/
def mceReduce (semi : Bool) (mt : Nat) : Nat → List (Nat × Nat) → List Nat → Option (List (Nat × Nat))
  | 0, done, _ => some done
  | n + 1, done, rest =>
    let i := done.length
    let cols := if semi && decide (mt ≤ i + 32) then
      (List.range (mt + 32)).filter fun c => decide (mt ≤ c + 32) && done.all fun e => decide (e.2 < c) else [i]
    match cols.find? fun c => rest.any fun r => r.testBit c with
    | none => none
    | some c => match rest.findIdx? fun r => r.testBit c with
      | none => none
      | some k =>
        let p := rest.getD k 0
        let clear := fun (r : Nat) => if r.testBit c then r ^^^ p else r
        mceReduce semi mt n (done.map (fun e => (clear e.1, e.2)) ++ [(p, c)]) ((rest.eraseIdx k).map clear)

/-- Bits `i` and `j` of a number exchanged. -/
def swapBits (v i j : Nat) : Nat := if v.testBit i = v.testBit j then v else v ^^^ (2 ^ i ||| 2 ^ j)

/-- Elements `i` and `j` of a list exchanged. -/
def swapAt (l : List Nat) (i j : Nat) : List Nat := (l.set i (l.getD j 0)).set j (l.getD i 0)

/-- The columns that a semi-systematic form exchanges. -/
def mceSwaps (mt : Nat) (pivots : List Nat) : List (Nat × Nat) := (pivots.drop (mt - 32)).zipIdx.map fun e => (mt - 32 + e.2, e.1)

/-- One attempt: the public key and c; none where δ serves for none. -/
def mceTry (ps : Nat) (delta : Bytes) : Option (Bytes × Nat) :=
  let (m, n, t) := mceSet ps
  let x := mceExpand ps delta
  match mceOrder m x.order, mceGoppa m t x.poly with
  | some alpha, some g => match mceReduce (mceSemi ps) (m * t) (m * t) [] (mceMatrix m t (alpha.take n) g) with
    | none => none
    | some rows =>
      let swaps := mceSwaps (m * t) (rows.map (·.2))
      let row := fun (r : Nat) => if mceSemi ps then swaps.foldl (fun v e => swapBits v e.1 e.2) r else r
      let c := if mceSemi ps then ((swaps.map fun e => 2 ^ (e.2 - (m * t - 32))).sum) else 0xFFFFFFFF
      some (rows.flatMap fun e => leBytes ((n - m * t + 7) / 8) (row e.1 / 2 ^ (m * t)), c)
  | _, _ => none

/-- Key generation from δ: the public key, the held key δ ‖ c, and the attempts; `fuel` bounds them. -/
def mceGenerate (ps : Nat) : Nat → Nat → Bytes → Option (Bytes × Bytes × Nat)
  | 0, _, _ => none
  | fuel + 1, n, delta => match mceTry ps delta with
    | some (pk, c) => some (pk, delta ++ leBytes 8 c, n + 1)
    | none => mceGenerate ps fuel (n + 1) (mceExpand ps delta).next

/-! ## Encapsulation (R265) -/

/-- Positions of one draw of the fixed-weight sampling: none where it is to be repeated. -/
def mceDraw (ps : Nat) (b : Bytes) : Option (List Nat) :=
  let (m, n, t) := mceSet ps
  let d := (((List.range (b.length / 2)).map fun i => u16 b (2 * i) % 2 ^ m).filter fun x => decide (x < n)).take t
  if d.length = t ∧ d.Nodup then some d else none

/-- Bytes of one draw. -/
def mceDrawLen (ps : Nat) : Nat := if 8 < ps then 2 * (mceSet ps).2.2 else 4 * (mceSet ps).2.2

/-- The error vector of a seed, by draws of its SHAKE256 stream; `fuel` bounds them. -/
def mceError (ps : Nat) (seed : Bytes) : Nat → Nat → Option Nat
  | 0, _ => none
  | fuel + 1, i =>
    let w := mceDrawLen ps
    match mceDraw ps ((shake256 seed (w * (i + 1))).drop (w * i)) with
    | some d => some (d.foldl (fun v x => v ||| 2 ^ x) 0)
    | none => mceError ps seed fuel (i + 1)

/-- The syndrome of an error vector under a public key. -/
def mceEncode (ps : Nat) (pk : Bytes) (e : Nat) : Bytes :=
  let mt := mceRows ps
  let w := ((mceSizes ps).1 - mt + 7) / 8
  let high := e / 2 ^ mt
  let bit := fun (i : Nat) => (b1 (e.testBit i) + countBits (leNat (slice pk (w * i) w) &&& high) (8 * w)) % 2
  leBytes ((mt + 7) / 8) ((List.range mt).foldr (fun i acc => 2 * acc + bit i) 0)

/-- H of the specification: 32 bytes of SHAKE256. -/
def mceHash (b : Byte) (v c : Bytes) : Bytes := shake256 (b :: (v ++ c)) 32

/-- The bytes of an error vector. -/
def mceVector (ps e : Nat) : Bytes := leBytes (((mceSizes ps).1 + 7) / 8) e

/-! ## Decapsulation (R254, R264) -/

/-- The connection polynomial of a sequence (Berlekamp and Massey): the sequence so far, newest first; C, B, L, the shift and b. -/
def massey (m : Nat) : List Nat → List Nat → List Nat → List Nat → Nat → Nat → Nat → Nat → List Nat
  | [], _, c, _, _, _, _, _ => c
  | s :: r, seen, c, b, len, shift, bd, n =>
    let d := (List.zipWith (gfMulOf m) c (s :: seen)).foldl (· ^^^ ·) 0
    let next := gfAdd c (List.replicate shift 0 ++ gfScale m (gfMulOf m d (gfInv m bd)) b)
    if d = 0 then massey m r (s :: seen) c b len (shift + 1) bd (n + 1)
    else if 2 * len ≤ n then massey m r (s :: seen) next c (n + 1 - len) 1 d (n + 1)
    else massey m r (s :: seen) next b len (shift + 1) bd (n + 1)

/-- The error vector that a syndrome decodes to: the positions whose support elements are roots of the locator. -/
def mceDecode (ps : Nat) (alpha g : List Nat) (c : Nat) : Nat :=
  let (m, _, t) := mceSet ps
  let terms := ((alpha.take (mceRows ps)).zipIdx.filter fun e => c.testBit e.2).map fun e =>
    let v := gfInv m (gfEval m e.1 g)
    mceMatrix.mcePowersAt m e.1 (2 * t) (gfMulOf m v v)
  let syndrome := terms.foldl gfAdd (List.replicate (2 * t) 0)
  let locator := ((massey m syndrome [] [1] [1] 0 1 1 0 ++ List.replicate (t + 1) 0).take (t + 1)).reverse
  alpha.foldr (fun a acc => 2 * acc + (if gfEval m a locator = 0 then 1 else 0)) 0

/-- The support and polynomial that a held key rebuilds to, with s; none for a key that generation never makes. -/
def mceRebuild (ps : Nat) (key : Bytes) : Option (List Nat × List Nat × Bytes) :=
  let (m, n, t) := mceSet ps
  let x := mceExpand ps (key.take 32)
  let pivots := ((List.range 64).filter fun i => (u64 key 32).testBit i).map fun i => m * t - 32 + i
  match mceOrder m x.order, mceGoppa m t x.poly with
  | some alpha, some g =>
    let swaps := if mceSemi ps then pivots.zipIdx.map fun e => (m * t - 32 + e.2, e.1) else []
    some ((swaps.foldl (fun l e => swapAt l e.1 e.2) alpha).take n, g, x.s)
  | _, _ => none

/-- Decapsulation: H(1, e, C) where decoding gives weight t, the ciphertext re-encodes to itself and its padding bits are 0; H(0, s, C) otherwise. -/
def mceDecaps (ps : Nat) (key ct : Bytes) : Bytes :=
  let mt := mceRows ps
  let c := leNat ct
  match mceRebuild ps key, mceTry ps (key.take 32) with
  | some (alpha, g, s), some (pk, _) =>
    let e := mceDecode ps alpha g (c % 2 ^ mt)
    if c < 2 ^ mt ∧ countBits e (mceSizes ps).1 = (mceSizes ps).2 ∧ mceEncode ps pk e = ct then mceHash 1#8 (mceVector ps e) ct
    else mceHash 0#8 s ct
  | _, _ => mceHash 0#8 (mceExpand ps (key.take 32)).s ct

end Sys2Proof.Machine
end

