-- ==== Sys2Proof/Machine/OpRun.lean ====
section
/-! DEFINITION. OpRun.lean: what every execution of a job shares: when it can end, its captured values (R173), its inputs from host memory,
local memory or a feed FIFO (R138, R368, R370, R386, R416), the capacity check before any input is read (R220), its keys, the blob it
writes (R339), and outputs streamed ahead of the completion (R232, R261). -/

namespace Sys2Proof.Machine

/-! ## When an execution can end -/

/-- The job of this opcode whose execution runs: on a stall, or, where it reaches none, as soon as it could start (R150, R248, R261, R310,
R334). -/
def runningJob (s : State) (seq op : Nat) : Option Job :=
  match jobOf s seq with
  | none => none
  | some j =>
    if j.desc.opcode ≠ op ∨ j.fixed ≠ 0 ∨ s.en.flushActive = true then none
    else if needKind s j = 0 then (if canStart s { j with retrying := false } && dispatchRuns s then some j else none)
    else if j.phase == .running && j.stall.isSome then some j
    else none

/-! ## Captured values -/

/-- v(label, i, len) of R173. -/
def captured (s : State) (j : Job) (label i len : Nat) : Bytes :=
  match j.capGen with
  | none => []
  | some g =>
    shake256 ((smGet {} (padAt s j.paddock).caps g).key ++ leBytes 8 j.seq ++ leBytes 2 label ++ leBytes 2 i) len

/-! ## Scan engines (R303, R310) -/

/-- A stream of `n` bytes through a scan engine; which engine takes it is not given, so free (log entry 3). -/
def scanMove (s : State) (p n : Nat) : State :=
  if n = 0 then s
  else
    let d := draw s
    { d.2 with scans := smMod {} d.2.scans (d.1 % 4) fun x => { x with paddock := p, segments := x.segments + (n + 65535) / 65536 } }

/-! ## Inputs -/

/-- The bytes of a job's inputs. -/
structure OpIn where
  in0 : Bytes := []
  in1 : Bytes := []
  ext : Bytes := []

/-- Local memory a paddock address names (R416). -/
def coreMemOf (s : State) (addr : Nat) : SMap TW := (coreAt s (bits addr 20 4)).mem

/-- One input buffer: from host memory as the command brings it, or from local memory. -/
def inputAt (s : State) (j : Job) (addr len : Nat) (host : Bytes) : Bytes :=
  if j.bx then memRead (coreMemOf s addr) (bits addr 0 20) len else padTo len host

/-- An input word of local memory is SECRET (R386). -/
def inputSecret (s : State) (j : Job) (addr len : Nat) : Bool := j.bx && memSecret (coreMemOf s addr) (bits addr 0 20) len

/-- What a job takes from a feed FIFO: bytes, whether one was SECRET, the entries left, the detail of R368 or 0, and whether the read
position then stands at a packet start. -/
structure Eaten where
  data : Bytes := []
  secret : Bool := false
  left : List FeedEntry := []
  bad : Nat := 0
  atStart : Bool := false

/-- Entries consumed until `n` bytes are had, an end-of-packet flag comes too early, or the entry that holds byte `n` does not end the
packet with it; that entry stays at the read position (R368, R369). -/
def eatFeed : Nat → List FeedEntry → Eaten
  | _, [] => {}
  | n, e :: r =>
    if e.data.length < n then
      if e.eop then { data := e.data, secret := e.tag == tSecret, left := r, bad := 1, atStart := true }
      else
        let x := eatFeed (n - e.data.length) r
        { x with data := e.data ++ x.data, secret := x.secret || e.tag == tSecret }
    else if e.data.length = n ∧ e.eop = true then { data := e.data, secret := e.tag == tSecret, left := r, atStart := true }
    else { left := e :: r, bad := 2 }

/-- The job copies what it can consume from its feed FIFO into feed-copy cells (R370). -/
def takeFeed (s : State) (j : Job) (f : Nat) : State :=
  let x := feedAt s f
  if feedDone j || x.stopped || x.entries.isEmpty then s
  else
    let copy := j.feedCopy.getD []
    let e := eatFeed (j.desc.in0Len - copy.length) x.entries
    modJob (putFeed s f { x with entries := e.left, stopped := e.bad != 0, atStart := e.atStart }) j.seq fun y =>
      { y with feedCopy := some (copy ++ e.data), feedBad := e.bad, secretIn := y.secretIn || e.secret }

/-- The outcome of reading the inputs: the packet has not all come yet; a packet-end mismatch; or the bytes. -/
inductive Inputs where
  | waits
  | bad (detail : Nat)
  | got (i : OpIn)

/-- Inputs that lie in memory. -/
def memInputs (s : State) (j : Job) (inp : OpInput) (in0 : Option Bytes) : OpIn :=
  { in0 := in0.getD (inputAt s j j.desc.in0Addr j.desc.in0Len inp.in0),
    in1 := inputAt s j j.desc.in1Addr j.desc.in1Len inp.in1, ext := inputAt s j j.desc.extAddr j.desc.extLen inp.ext }

/-- The inputs after the feed FIFO, if any, has been read. -/
def readInputs (s : State) (j : Job) (inp : OpInput) : Inputs :=
  match feedOf j with
  | none => .got (memInputs s j inp none)
  | some _ =>
    if j.feedBad ≠ 0 then .bad j.feedBad
    else if feedDone j then .got (memInputs s j inp j.feedCopy)
    else .waits

/-- The reads of an execution: the retry of a failed one is over, and SECRET inputs are noted (R138, R191, R386). -/
def takeInputs (s : State) (j : Job) : State :=
  let d := j.desc
  let sec := ((feedOf j).isNone && inputSecret s j d.in0Addr d.in0Len) || inputSecret s j d.in1Addr d.in1Len || inputSecret s j d.extAddr d.extLen
  let s1 := modJob s j.seq fun x => { x with retrying := false, readFailed := false, secretIn := x.secretIn || sec }
  match feedOf j with
  | none => s1
  | some f => takeFeed s1 { j with secretIn := j.secretIn || sec } f

/-! ## The execution -/

/-- One execution of a job of an opcode: the outputs must fit before any input is read (R220); a job of two phases goes back to the yard
after the first (R113, R286); then `f` gives the result. -/
def execute (s : State) (seq op : Nat) (inp : OpInput) (need : State → Job → Nat × Nat) (f : State → Job → OpIn → State) : State :=
  match runningJob s seq op with
  | none => s
  | some j =>
    let n := need s j
    if capacityDetail j.desc n ≠ 0 then finishJob s seq { status := 0x0300 + capacityDetail j.desc n, len0 := n.1, len1 := n.2 }
    else
      let s1 := takeInputs s j
      match jobOf s1 seq with
      | none => s1
      | some k => match readInputs s1 k inp with
        | .waits => s1
        | .bad d => finishJob s1 seq (failWith (0x0200 + d))
        | .got i => if twoPhase k.desc (jobAlg s1 k) && !k.absorbed then nextPhase s1 seq else f s1 k i

/-- Sizes of Tables 09.3, 10.4, 11.3, 12.3 and the like for the descriptor. -/
def sizesOf (s : State) (j : Job) : Nat × Nat := outSizes j.desc (jobAlg s j) [] 0

/-- The job ends with a result. -/
def ends (s : State) (j : Job) (r : Result) : State := finishJob s j.seq r

/-- A verification's verdict word (Table 07.7). -/
def verdict (ok : Bool) : Result := { verdict := if ok then 0x5A5AA5A5 else 0 }

/-- out0 of a finished job goes to memory ahead of the completion, in segments of up to 64 KiB (R232, R261, R267); a queue function that
may not issue requests leaves it to the completion. -/
def streamOut (s : State) (seq : Nat) : State :=
  match jobOf s seq with
  | none => s
  | some j => match j.out0 with
    | none => s
    | some d =>
      let s1 := scanMove s j.paddock d.length
      if mayWrite s1 j.queue then modJob (writeOutput s1 j (qAt s1 j.queue).fn j.desc.out0Addr false (some d)) seq fun x => { x with out0 := none }
      else s1

/-! ## Keys -/

/-- The private or secret key in key_ref. -/
def jobKey (s : State) (j : Job) : Bytes := heldKey s j j.desc.keyRef

/-- tr of the cached ML-DSA key in key_ref (R208). -/
def cachedTr (s : State) (j : Job) : Bytes := match cacheOf j.paddock j.desc.keyRef with
  | some k => (cacheAt s k).tr
  | none => []

/-- The cached public key in key_ref (R208). -/
def cachedKey (s : State) (j : Job) : Bytes := match cacheOf j.paddock j.desc.keyRef with
  | some k => (cacheAt s k).key
  | none => []


/-- A public key from the cache, or inline and then checked (R208, R217, R263, R279): refused, or the key. -/
def publicKey (s : State) (j : Job) (alg : Nat) (inline : Bytes) (k : Bytes → State) : State :=
  if j.desc.keyRef ≠ 0 then k (cachedKey s j)
  else match keyCheck alg j.desc.paramSet inline with
    | some (reason, i) => ends s j (refuseInput reason i)
    | none => k inline

/-- The signature and the inline public key that follows it in in1 (R208). -/
def splitSig (j : Job) (alg : Nat) (in1 : Bytes) : Bytes × Bytes :=
  (in1.take (sigSize alg j.desc.paramSet), in1.drop (sigSize alg j.desc.paramSet))

/-! ## Blobs (R339) -/

/-- wrap_id of a wrapping key. -/
def wrapId (wk : Bytes) : Bytes := kdf wk "WID" [] 8

/-- Bytes 0x00 to 0x3F of a blob (Table 15.9). -/
def blobHeader (cls alg ps len pad attrs : Nat) (wid : Bytes) (epoch : Nat) (nonce : Bytes) : Bytes :=
  leBytes 4 0x7ACB0B01 ++ leBytes 2 1 ++ leBytes 1 cls ++ leBytes 1 alg ++ leBytes 2 ps ++ leBytes 2 len ++ leBytes 1 pad ++ zeros 3 ++
  leBytes 8 attrs ++ padTo 8 wid ++ leBytes 4 epoch ++ zeros 4 ++ padTo 12 nonce ++ zeros 12

/-- A key sealed under the wrapping key of key_ref, its nonce captured (R206, R337). -/
def sealBlob (s : State) (j : Job) (cls alg ps attrs : Nat) (plain : Bytes) : Bytes :=
  let wk := jobKey s j
  let nonce := captured s j 2 1 12
  let head := blobHeader cls alg ps plain.length j.paddock attrs (wrapId wk) s.lc.epoch nonce
  head ++ gcmSeal wk nonce head plain

/-- What a key-generation opcode of an operation chapter writes: the public key, and the private key's blob, whose word is the wrapping
key's as acceptance read it, with derive cleared (R206, R219, R333). -/
def keyPair (s : State) (j : Job) (cls alg : Nat) (pub priv : Bytes) : Result :=
  okOut pub (sealBlob s j cls alg j.desc.paramSet (clearBit j.keyWord 11) priv)

/-! ## Messages -/

/-- The formatted message M′ of FIPS 204 and FIPS 205 (R213, R214, R229). -/
def formatted (d : Desc) (ctx msg : Bytes) : Bytes :=
  leBytes 1 (inl8 d 0x40) ++ leBytes 1 ctx.length ++ ctx ++
  (if inl8 d 0x40 = 1 then [0x06#8, 0x09#8, 0x60#8, 0x86#8, 0x48#8, 0x01#8, 0x65#8, 0x03#8, 0x04#8, 0x02#8] ++ leBytes 1 (inl8 d 0x41) else []) ++ msg

/-- Bytes an algorithm writes to one of its outputs. -/
def made (j : Job) (operands : List Bytes) (which n : Nat) : Bytes := cryptoOut j.desc.opcode j.desc.paramSet operands which n

/-- An execution that took `n` attempts ends (R219, R266). -/
def endsAfter (s : State) (j : Job) (n : Nat) (r : Result) : State := ends (modJob s j.seq fun x => { x with attempts := n }) j r

end Sys2Proof.Machine
end

