-- ==== Sys2Proof/Machine/OpCode.lean ====
section
/-! DEFINITION. OpCode.lean: Classic McEliece, HQC and the public-key cache load and evict (R251 to R268). Classic McEliece stands in McEliece.lean;
the byte strings of HQC are its specification's (log entry 4). -/

namespace Sys2Proof.Machine

/-! ## Classic McEliece -/

/-- OP_MCE_KEYGEN (R254, R261, R266, R267): attempts from the captured δ until one serves; the public key streams out. -/
def execOpMceKeygen (seq : Nat) (inp : OpInput) (s : State) : Host.Outcome State Fault Refusal :=
  .next (execute s seq 0x0300 inp sizesOf fun t j _ =>
    match mceGenerate j.desc.paramSet 65536 0 (captured t j 2 0 32) with
    | some (pk, held, n) => streamOut (endsAfter t j n (keyPair t j 3 (jobAlg t j) pk held)) seq
    | none => t)

/-- OP_MCE_ENCAPS (R261, R263, R265): an inline or cached key streams in; the seed of the error vector is captured. -/
def execOpMceEncaps (seq : Nat) (inp : OpInput) (s : State) : Host.Outcome State Fault Refusal :=
  .next (execute s seq 0x0301 inp sizesOf fun t0 j i =>
    let t := scanMove t0 j.paddock (pkSize (jobAlg t0 j) j.desc.paramSet)
    publicKey t j (jobAlg t j) i.in0 fun pk =>
      let ps := j.desc.paramSet
      match mceError ps (captured t j 3 0 32) 65536 0 with
      | some e => ends t j (okOut (mceEncode ps pk e) (mceHash 1#8 (mceVector ps e) (mceEncode ps pk e)))
      | none => t)

/-- OP_MCE_DECAPS (R264): a shared secret always. -/
def execOpMceDecaps (seq : Nat) (inp : OpInput) (s : State) : Host.Outcome State Fault Refusal :=
  .next (execute s seq 0x0302 inp sizesOf fun t j i => ends t j (okOut (mceDecaps j.desc.paramSet (jobKey t j) i.in0) []))

/-! ## HQC -/

/-- OP_HQC_KEYGEN (R254, R265): the key is its captured seed. -/
def execOpHqcKeygen (seq : Nat) (inp : OpInput) (s : State) : Host.Outcome State Fault Refusal :=
  .next (execute s seq 0x0310 inp sizesOf fun t j _ =>
    let seed := captured t j 2 0 32
    ends t j (keyPair t j 3 (jobAlg t j) (made j [seed] 0 (sizesOf t j).1) seed))

/-- OP_HQC_ENCAPS (R263, R265): m and the salt are captured. -/
def execOpHqcEncaps (seq : Nat) (inp : OpInput) (s : State) : Host.Outcome State Fault Refusal :=
  .next (execute s seq 0x0311 inp sizesOf fun t j i =>
    publicKey t j (jobAlg t j) i.in0 fun pk =>
      let l := [pk, captured t j 3 0 (8 * (j.desc.paramSet + 1) + 16)]
      ends t j (okOut (made j l 0 (sizesOf t j).1) (made j l 1 32)))

/-- HQC decapsulation: the ciphertext of the re-encryption must match, else the key comes from σ (R264). -/
def hqcDecaps (ps : Nat) (seed ct : Bytes) : Bytes :=
  let m := cryptoOut 0x0312 ps [seed, ct] 1 (8 * (ps + 1)) ++ ct.drop (ct.length - 16)
  let ek := cryptoOut 0x0310 ps [seed] 0 (pkSize (67 + ps) ps)
  if cryptoOut 0x0311 ps [ek, m] 0 (ctSize (67 + ps) ps) = ct then cryptoOut 0x0311 ps [ek, m] 1 32 else cryptoOut 0x0312 ps [seed, ct] 0 32

/-- OP_HQC_DECAPS (R264). -/
def execOpHqcDecaps (seq : Nat) (inp : OpInput) (s : State) : Host.Outcome State Fault Refusal :=
  .next (execute s seq 0x0312 inp sizesOf fun t j i => ends t j (okOut (hqcDecaps j.desc.paramSet (jobKey t j) i.in0) []))

/-! ## The public-key cache (R255 to R259) -/

/-- The entry that the handle names still stands: its index has not come to another generation (R256). -/
def ownEntry (s : State) (k h : Nat) : Bool := (cacheAt s k).present && (cacheAt s k).gen == hGen h

/-- The key placed in its entry, an ML-DSA key with its tr (R208). -/
def placeKey (s : State) (k : Nat) (key : Bytes) : State :=
  modCache s k fun e => { e with complete := true, key := key, tr := if 20 ≤ e.alg ∧ e.alg ≤ 22 then mldsaTr key else [] }

/-- The entry is filled and the handle written; a sticky entry goes to the hayloft before the completion (R256, R258). A replay that finds the
index under another generation writes the handle alone. -/
def fillCache (s : State) (j : Job) (k h : Nat) (key : Bytes) : State :=
  let s1 := if !ownEntry s k h || (cacheAt s k).complete then s else placeKey s k key
  let s2 := ends s1 j (okOut (leBytes 8 h) [])
  if ownEntry s1 k h && (cacheAt s1 k).sticky && !j.issued then awaitWrite s2 j else s2

/-- OP_PKC_LOAD (R208, R255, R256, R261, R263, R279): an entry already complete is not read again. -/
def execOpPkcLoad (seq : Nat) (inp : OpInput) (s : State) : Host.Outcome State Fault Refusal :=
  .next (execute s seq 0x0E00 inp sizesOf fun t0 j i =>
    let h := j.extra.getD 0
    let k := cacheKey j.paddock (hIdx h)
    let alg := jobAlg t0 j
    if ownEntry t0 k h && (cacheAt t0 k).complete then fillCache t0 j k h i.in0
    else
      let t := if 56 ≤ alg ∧ alg ≤ 65 then scanMove t0 j.paddock j.desc.in0Len else t0
      match keyCheck alg j.desc.paramSet i.in0 with
      | some (reason, x) => ends t j (refuseInput reason x)
      | none => fillCache t j k h i.in0)

/-- OP_PKC_EVICT (R259): the entry went, or goes with the last record naming it, by its acceptance. -/
def execOpPkcEvict (seq : Nat) (inp : OpInput) (s : State) : Host.Outcome State Fault Refusal :=
  .next (execute s seq 0x0E01 inp sizesOf fun t j _ => ends t j {})

end Sys2Proof.Machine
end

