-- ==== Sys2Proof/Machine/OpDigest.lean ====
section
/-! DEFINITION. OpDigest.lean: digests, MACs, check values, OP_NOP and the attestation quote (R113, R150, R292 to R310). -/

namespace Sys2Proof.Machine

/-- OP_NOP (R150). -/
def execOpNop (seq : Nat) (inp : OpInput) (s : State) : Host.Outcome State Fault Refusal :=
  .next (execute s seq 0x0000 inp sizesOf fun t j _ => ends t j {})

/-! ## Digests and MACs (R293 to R297, R303) -/

/-- A digest or MAC job's input streams through a scan engine (R303). -/
def streamIn (s : State) (j : Job) : State := scanMove s j.paddock j.desc.in0Len

/-- OP_DIGEST (R295 to R297): to out0, or kept for the cycle in which the completion word is first issued. -/
def execOpDigest (seq : Nat) (inp : OpInput) (s : State) : Host.Outcome State Fault Refusal :=
  .next (execute s seq 0x0500 inp sizesOf fun t j i =>
    let d := digestOf j.desc.paramSet i.in0 (inl32 j.desc 0x44)
    ends (streamIn t j) j (if inl8 j.desc 0x40 = 0 then okOut d [] else { digest := d }))

/-- HMAC truncated to its leftmost bytes (R294). -/
def hmacTag (s : State) (j : Job) (m : Bytes) : Bytes := (hmac j.desc.paramSet (jobKey s j) m).take (inl32 j.desc 0x40)

/-- KMAC with the customisation string S at ext (Tables 13.2, 13.3). -/
def kmacTag (s : State) (j : Job) (i : OpIn) : Bytes :=
  (if j.desc.paramSet = 1 then kmac128 else kmac256) (jobKey s j) i.in0 (inl32 j.desc 0x40) i.ext

/-- OP_HMAC (R294). -/
def execOpHmac (seq : Nat) (inp : OpInput) (s : State) : Host.Outcome State Fault Refusal :=
  .next (execute s seq 0x0510 inp sizesOf fun t j i => ends (streamIn t j) j (okOut (hmacTag t j i.in0) []))

/-- OP_HMAC_VERIFY (R300): ST_OK, the outcome in the verdict word. -/
def execOpHmacVerify (seq : Nat) (inp : OpInput) (s : State) : Host.Outcome State Fault Refusal :=
  .next (execute s seq 0x0511 inp sizesOf fun t j i => ends (streamIn t j) j (verdict (hmacTag t j i.in0 == i.in1)))

/-- OP_KMAC (R294). -/
def execOpKmac (seq : Nat) (inp : OpInput) (s : State) : Host.Outcome State Fault Refusal :=
  .next (execute s seq 0x0518 inp sizesOf fun t j i => ends (streamIn t j) j (okOut (kmacTag t j i) []))

/-- OP_KMAC_VERIFY (R300). -/
def execOpKmacVerify (seq : Nat) (inp : OpInput) (s : State) : Host.Outcome State Fault Refusal :=
  .next (execute s seq 0x0519 inp sizesOf fun t j i => ends (streamIn t j) j (verdict (kmacTag t j i == i.in1)))

/-! ## Check values (R308 to R310) -/

/-- The value of the job's CRC over its input. -/
def crcOf (j : Job) (q : CrcParam) (m : Bytes) : Nat := crcValue q (inl8 j.desc 0x41 == 1) (inl64 j.desc 0x50) m

/-- OP_CRC (R308): computed to out0, or checked against the expected value. -/
def execOpCrc (seq : Nat) (inp : OpInput) (s : State) : Host.Outcome State Fault Refusal :=
  .next (execute s seq 0x0520 inp sizesOf fun t j i =>
    match crcParam j.desc.paramSet with
    | none => t
    | some q =>
      let v := crcOf j q i.in0
      ends (streamIn t j) j (if inl8 j.desc 0x40 = 0 then okOut (leBytes q.width v) []
        else if v = inl64 j.desc 0x48 then {} else failWith 0x0900))

/-! ## Attestation (R111, R113, R114) -/

/-- The snapshot a quote's record holds. -/
def snapOf (s : State) (j : Job) : Snapshot :=
  match (padAt s j.paddock).snaps.find? fun e => e.2.owner == some j.seq with
  | some e => e.2
  | none => {}

/-- The selected registers, ascending: bits 0 to 15 the paddock's, 16 to 31 the yardmaster's. -/
def quoteRegs (x : Snapshot) (mask : Nat) : Bytes :=
  ((List.range 32).filter (hasBit mask)).flatMap fun b => if b < 16 then smGet (zeros 48) x.mrs b else smGet (zeros 48) x.ymrs (b - 16)

/-- The quote body (Table 05.8). -/
def quoteBody (s : State) (j : Job) (nonce : Bytes) : Bytes :=
  let x := snapOf s j
  let mask := inl32 j.desc 0x40
  leBytes 4 0xA77E5701 ++ leBytes 2 1 ++ leBytes 1 j.paddock ++ leBytes 1 s.lc.state ++ leBytes 8 s.lc.deviceNumber ++ leBytes 4 s.lc.epoch ++
  zeros 4 ++ leBytes 8 x.serial ++ leBytes 8 x.fwBuild ++ leBytes 4 mask ++ leBytes 1 nonce.length ++ zeros 3 ++ leBytes 8 j.seq ++
  leBytes 8 j.tAccept ++ padTo 48 x.planDigest ++ padTo 64 nonce ++ zeros 16 ++ quoteRegs x mask

/-- The key in key_ref as stored. -/
def quoteView (s : State) (j : Job) : KeyView := match keyLoc j.paddock j.desc.keyRef with
  | some l => viewOf s (hPad j.desc.keyRef) l
  | none => {}

/-- An ML-DSA signature of a quote body, context "ZQA" (Table 05.8; log entry 119). -/
def quoteDsa (s : State) (j : Job) (ps : Nat) (seed body : Bytes) : Bytes :=
  ((mldsaSign ps seed (leBytes 1 0 ++ leBytes 1 3 ++ ascii "ZQA" ++ body) (captured s j 5 0 32)).map (·.1)).getD []

/-- An ECDSA signature of a quote body, over its digest by the hash of the curve (R283; log entry 119). -/
def quoteEcdsa (s : State) (j : Job) (ps : Nat) (d body : Bytes) : Bytes :=
  ecdsaSign ps d (digestOf (nonceHash ps) body (phLen (nonceHash ps))) (captured s j 5 1 32)

/-- The signature of the identity pair: ML-DSA-87 with context "ZQA", then ECDSA P-384 (R113). -/
def identitySig (s : State) (j : Job) (body : Bytes) : Bytes :=
  let seeds := identitySeeds s
  quoteDsa s j 3 (seeds.take 32) body ++ quoteEcdsa s j 2 (identityScalar s) body

/-- The signature over a quote. -/
def quoteSig (s : State) (j : Job) (body : Bytes) : Bytes :=
  let v := quoteView s j
  if j.desc.keyRef = 0 then identitySig s j body
  else if v.alg ≤ 22 then quoteDsa s j v.paramSet (jobKey s j) body
  else quoteEcdsa s j v.paramSet (jobKey s j) body

/-- Bytes of body and signature. -/
def quoteSizes (s : State) (j : Job) : Nat × Nat :=
  let v := quoteView s j
  outSizes j.desc 0 [] (if j.desc.keyRef = 0 then 4723 else sigSize v.alg v.paramSet)

/-- OP_ATTEST_QUOTE (R113): every field from the record and its snapshot, so a replay writes the same bytes. -/
def execOpAttestQuote (seq : Nat) (inp : OpInput) (s : State) : Host.Outcome State Fault Refusal :=
  .next (execute s seq 0x0E10 inp quoteSizes fun t j i =>
    let body := quoteBody t j i.in0
    ends t j (okOut body (quoteSig t j body)))

end Sys2Proof.Machine
end

