-- ==== Sys2Proof/Machine/HashSig.lean ====
section
/-! DEFINITION. HashSig.lean: SLH-DSA (FIPS 205), LMS/HSS (RFC 8554) and XMSS, XMSS^MT (RFC 8391), with the parameter sets and the private-key
generation of SP 800-208, which the manual says the part follows (chapter 10, R225 to R227, R238; log entry 4). -/

namespace Sys2Proof.Machine

/-! ## Trees and digits -/

/-- The node of height `z` and index `i`, from the leaves and the hash that joins two children into the node of a height and index. -/
def treeNode (leaf : Nat → Bytes) (join : Nat → Nat → Bytes → Bytes → Bytes) : Nat → Nat → Bytes
  | 0, i => leaf i
  | z + 1, i => join (z + 1) i (treeNode leaf join z (2 * i)) (treeNode leaf join z (2 * i + 1))

/-- The siblings on the way from leaf `i` up through `h` levels. -/
def authPath (leaf : Nat → Bytes) (join : Nat → Nat → Bytes → Bytes → Bytes) (h i : Nat) : Bytes :=
  (List.range h).flatMap fun z => treeNode leaf join z (i / 2 ^ z ^^^ 1)

/-- The root that a node of height `z` and index `i` leads to along a path. -/
def climb (join : Nat → Nat → Bytes → Bytes → Bytes) : Nat → Nat → Bytes → List Bytes → Bytes
  | _, _, x, [] => x
  | z, i, x, y :: r => climb join (z + 1) (i / 2) (if i % 2 = 0 then join (z + 1) (i / 2) x y else join (z + 1) (i / 2) y x) r

/-- `n` fields of `w` bits from the most significant end. -/
def digits (w n : Nat) (b : Bytes) : List Nat := (List.range n).map fun i => beNat b / 2 ^ (8 * b.length - w * (i + 1)) % 2 ^ w

/-- The digits of a message and then those of its checksum, `m` fields of `w` bits and `v` more. -/
def checkedDigits (w m v : Nat) (b : Bytes) : List Nat :=
  let d := digits w m b
  let sum := (d.map fun x => 2 ^ w - 1 - x).sum
  d ++ (List.range v).map fun i => sum / 2 ^ (w * (v - 1 - i)) % 2 ^ w

/-- `s` steps of a chain from position `i`. -/
def chainFrom (f : Nat → Bytes → Bytes) : Nat → Nat → Bytes → Bytes
  | 0, _, x => x
  | s + 1, i, x => chainFrom f s (i + 1) (f i x)

/-- Parts of `w` bytes of a string. -/
def cut (w : Nat) (b : Bytes) : List Bytes := (List.range (b.length / w)).map fun i => slice b (w * i) w

/-- MGF1 with a hash of Table 09.6. -/
def mgf1 (ph : Nat) (seed : Bytes) (n : Nat) : Bytes :=
  ((List.range ((n + phLen ph - 1) / phLen ph)).flatMap fun i => digestOf ph (seed ++ beBytes 4 i) (phLen ph)).take n

/-! ## SLH-DSA -/

/-- h, d, h′, a, k and m of a param_set (FIPS 205). -/
structure SlhSet where
  h : Nat
  d : Nat
  hp : Nat
  a : Nat
  k : Nat
  m : Nat

def slhSet (ps : Nat) : SlhSet :=
  match (ps - 1) / 2 with
  | 0 => ⟨63, 7, 9, 12, 14, 30⟩
  | 1 => ⟨66, 22, 3, 6, 33, 34⟩
  | 2 => ⟨63, 7, 9, 14, 17, 39⟩
  | 3 => ⟨66, 22, 3, 8, 33, 42⟩
  | 4 => ⟨64, 8, 8, 14, 22, 47⟩
  | _ => ⟨68, 17, 4, 9, 35, 49⟩

/-- The sets of odd param_set use SHA-2, the others SHAKE (Table 10.1). -/
def slhSha2 (ps : Nat) : Bool := ps % 2 == 1

/-- An address: layer, tree, type and its three words. -/
structure Adrs where
  layer : Nat := 0
  tree : Nat := 0
  ty : Nat := 0
  w1 : Nat := 0
  w2 : Nat := 0
  w3 : Nat := 0

def slhAdrs (ps : Nat) (a : Adrs) : Bytes :=
  (if slhSha2 ps then beBytes 1 a.layer ++ beBytes 8 a.tree ++ beBytes 1 a.ty else beBytes 4 a.layer ++ beBytes 12 a.tree ++ beBytes 4 a.ty) ++
  beBytes 4 a.w1 ++ beBytes 4 a.w2 ++ beBytes 4 a.w3

/-- F and PRF. -/
def slhF (ps : Nat) (seed : Bytes) (a : Adrs) (x : Bytes) : Bytes :=
  let n := slhN ps
  if slhSha2 ps then (sha256 (seed ++ zeros (64 - n) ++ slhAdrs ps a ++ x)).take n else shake256 (seed ++ slhAdrs ps a ++ x) n

/-- H and T. -/
def slhT (ps : Nat) (seed : Bytes) (a : Adrs) (x : Bytes) : Bytes :=
  let n := slhN ps
  if slhSha2 ps && n != 16 then (sha512 (seed ++ zeros (128 - n) ++ slhAdrs ps a ++ x)).take n else slhF ps seed a x

/-- The hash of Hmsg and PRFmsg: SHA-256 at n 16, else SHA-512. -/
def slhPh (ps : Nat) : Nat := if slhN ps = 16 then 1 else 3

def slhMsg (ps : Nat) (r seed root m : Bytes) : Bytes :=
  let len := (slhSet ps).m
  let n := phLen (slhPh ps)
  if slhSha2 ps then mgf1 (slhPh ps) (r ++ seed ++ digestOf (slhPh ps) (r ++ seed ++ root ++ m) n) len else shake256 (r ++ seed ++ root ++ m) len

def slhPrfMsg (ps : Nat) (prf opt m : Bytes) : Bytes :=
  if slhSha2 ps then (hmac (slhPh ps) prf (opt ++ m)).take (slhN ps) else shake256 (prf ++ opt ++ m) (slhN ps)

/-- SK.seed and PK.seed with the param_set. -/
structure SlhKey where
  ps : Nat
  sk : Bytes
  seed : Bytes

/-- The chain function of chain `c` of a key pair's WOTS+ address. -/
def slhStep (x : SlhKey) (a : Adrs) (c : Nat) (i : Nat) (b : Bytes) : Bytes := slhF x.ps x.seed { a with ty := 0, w2 := c, w3 := i } b

/-- The end of every chain, hashed to a WOTS+ public key. -/
def slhWotsPk (x : SlhKey) (a : Adrs) (ends : List Bytes) : Bytes := slhT x.ps x.seed { a with ty := 1, w2 := 0, w3 := 0 } ends.flatten

/-- The secret value of chain `c`. -/
def slhChainKey (x : SlhKey) (a : Adrs) (c : Nat) : Bytes := slhF x.ps x.seed { a with ty := 5, w2 := c, w3 := 0 } x.sk

/-- The public key of key pair `i` of a hypertree layer's tree. -/
def slhLeaf (x : SlhKey) (layer tree i : Nat) : Bytes :=
  let a : Adrs := { layer := layer, tree := tree, w1 := i }
  slhWotsPk x a ((List.range (2 * slhN x.ps + 3)).map fun c => chainFrom (slhStep x a c) 15 0 (slhChainKey x a c))

def slhJoin (x : SlhKey) (layer tree z i : Nat) (l r : Bytes) : Bytes :=
  slhT x.ps x.seed { layer := layer, tree := tree, ty := 2, w2 := z, w3 := i } (l ++ r)

/-- A tree's signature of `m` by key pair `i`. -/
def slhXmssSign (x : SlhKey) (layer tree i : Nat) (m : Bytes) : Bytes :=
  let a : Adrs := { layer := layer, tree := tree, w1 := i }
  ((checkedDigits 4 (2 * slhN x.ps) 3 m).zipIdx.flatMap fun e => chainFrom (slhStep x a e.2) e.1 0 (slhChainKey x a e.2)) ++
  authPath (slhLeaf x layer tree) (slhJoin x layer tree) (slhSet x.ps).hp i

/-- The root a tree's signature of `m` leads to. -/
def slhXmssRoot (x : SlhKey) (layer tree i : Nat) (m sig : Bytes) : Bytes :=
  let n := slhN x.ps
  let a : Adrs := { layer := layer, tree := tree, w1 := i }
  let chains := ((checkedDigits 4 (2 * n) 3 m).zip (cut n sig)).zipIdx.map fun e => chainFrom (slhStep x a e.2) (15 - e.1.1) e.1.1 e.1.2
  climb (slhJoin x layer tree) 0 i (slhWotsPk x a chains) (cut n (sig.drop (n * (2 * n + 3))))

/-- The hypertree's signature, bottom layer first. -/
def slhHyper (x : SlhKey) : Nat → Nat → Nat → Nat → Bytes → Bytes
  | 0, _, _, _, _ => []
  | d + 1, layer, tree, i, m =>
    let hp := (slhSet x.ps).hp
    slhXmssSign x layer tree i m ++
      slhHyper x d (layer + 1) (tree / 2 ^ hp) (tree % 2 ^ hp) (treeNode (slhLeaf x layer tree) (slhJoin x layer tree) hp 0)

/-- The root a hypertree's signature leads to. -/
def slhHyperRoot (x : SlhKey) : Nat → Nat → Nat → Nat → Bytes → Bytes → Bytes
  | 0, _, _, _, m, _ => m
  | d + 1, layer, tree, i, m, sig =>
    let hp := (slhSet x.ps).hp
    let size := slhN x.ps * (2 * slhN x.ps + 3 + hp)
    slhHyperRoot x d (layer + 1) (tree / 2 ^ hp) (tree % 2 ^ hp) (slhXmssRoot x layer tree i m (sig.take size)) (sig.drop size)

/-- The address of a FORS key pair. -/
def forsAdrs (tree i : Nat) : Adrs := { tree := tree, ty := 3, w1 := i }
def forsKey (x : SlhKey) (a : Adrs) (i : Nat) : Bytes := slhF x.ps x.seed { a with ty := 6, w3 := i } x.sk
def forsLeaf (x : SlhKey) (a : Adrs) (i : Nat) : Bytes := slhF x.ps x.seed { a with w3 := i } (forsKey x a i)
def forsJoin (x : SlhKey) (a : Adrs) (z i : Nat) (l r : Bytes) : Bytes := slhT x.ps x.seed { a with w2 := z, w3 := i } (l ++ r)
def forsPk (x : SlhKey) (a : Adrs) (roots : List Bytes) : Bytes := slhT x.ps x.seed { a with ty := 4 } roots.flatten

/-- Tree and leaf of the hypertree that a message digest selects. -/
def slhIndices (ps : Nat) (digest : Bytes) : Nat × Nat :=
  let q := slhSet ps
  let md := (q.k * q.a + 7) / 8
  let t := (q.h - q.hp + 7) / 8
  (beNat (slice digest md t) % 2 ^ (q.h - q.hp), beNat (slice digest (md + t) ((q.hp + 7) / 8)) % 2 ^ q.hp)

/-- FORS tree indices of a digest, each with its tree's number. -/
def forsDigits (ps : Nat) (digest : Bytes) : List (Nat × Nat) :=
  let q := slhSet ps
  (digits q.a q.k (digest.take ((q.k * q.a + 7) / 8))).zipIdx

/-- The root of the whole hypertree (R228, R231). -/
def slhRoot (ps : Nat) (sk seed : Bytes) : Bytes :=
  let x : SlhKey := ⟨ps, sk, seed⟩
  let top := (slhSet ps).d - 1
  treeNode (slhLeaf x top 0) (slhJoin x top 0) (slhSet ps).hp 0

/-- slh_sign_internal with the held key SK.seed ‖ SK.prf ‖ PK.seed ‖ PK.root over M′ (R228, R231). -/
def slhSign (ps : Nat) (key m opt : Bytes) : Bytes :=
  let n := slhN ps
  let q := slhSet ps
  let x : SlhKey := ⟨ps, key.take n, slice key (2 * n) n⟩
  let r := slhPrfMsg ps (slice key n n) opt m
  let digest := slhMsg ps r x.seed (slice key (3 * n) n) m
  let (tree, leaf) := slhIndices ps digest
  let a := forsAdrs tree leaf
  let base := fun (t : Nat) => t * 2 ^ q.a
  let fors := (forsDigits ps digest).flatMap fun e =>
    forsKey x a (base e.2 + e.1) ++ authPath (forsLeaf x a) (forsJoin x a) q.a (base e.2 + e.1)
  let pk := forsPk x a ((List.range q.k).map fun t => treeNode (forsLeaf x a) (forsJoin x a) q.a t)
  r ++ fors ++ slhHyper x q.d 0 tree leaf pk

/-- slh_verify_internal (R230). -/
def slhVerify (ps : Nat) (pub m sig : Bytes) : Bool :=
  let n := slhN ps
  let q := slhSet ps
  let x : SlhKey := ⟨ps, [], pub.take n⟩
  let digest := slhMsg ps (sig.take n) x.seed (pub.drop n) m
  let (tree, leaf) := slhIndices ps digest
  let a := forsAdrs tree leaf
  let roots := (forsDigits ps digest).map fun e =>
    let b := slice sig (n + n * (q.a + 1) * e.2) (n * (q.a + 1))
    let i := e.2 * 2 ^ q.a + e.1
    climb (forsJoin x a) 0 i (slhF ps x.seed { a with w3 := i } (b.take n)) (cut n (b.drop n))
  slhHyperRoot x q.d 0 tree leaf (forsPk x a roots) (sig.drop (n + n * (q.a + 1) * q.k)) == pub.drop n

/-! ## LMS/HSS -/

/-- The hash of a stateful param_set's code (Table 10.2). -/
def hbsHash (ps : Nat) (m : Bytes) : Bytes :=
  if bits ps 12 4 ≤ 2 then (sha256 m).take (hbsN ps) else shake256 m (hbsN ps)

/-- One LMS tree: its param_set, height and Winternitz width, its SEED and I. -/
structure LmsTree where
  ps : Nat
  h : Nat
  w : Nat
  seed : Bytes
  i : Bytes

/-- Chains of message digits and of checksum digits. -/
def lmsChains (x : LmsTree) : Nat × Nat := (8 * hbsN x.ps / x.w, lmsP (hbsN x.ps) x.w - 8 * hbsN x.ps / x.w)

def lmsStep (x : LmsTree) (q c : Nat) (j : Nat) (b : Bytes) : Bytes := hbsHash x.ps (x.i ++ beBytes 4 q ++ beBytes 2 c ++ beBytes 1 j ++ b)

/-- The secret value of chain `c` of leaf `q` (Appendix A of RFC 8554). -/
def lmsChainKey (x : LmsTree) (q c : Nat) : Bytes := lmsStep x q c 0xFF x.seed

/-- The LM-OTS public key from the ends of its chains. -/
def otsKey (x : LmsTree) (q : Nat) (ends : List Bytes) : Bytes := hbsHash x.ps (x.i ++ beBytes 4 q ++ beBytes 2 0x8080 ++ ends.flatten)

/-- A leaf of the tree, from its LM-OTS public key. -/
def lmsLeafOf (x : LmsTree) (q : Nat) (k : Bytes) : Bytes := hbsHash x.ps (x.i ++ beBytes 4 (2 ^ x.h + q) ++ beBytes 2 0x8282 ++ k)

def lmsLeaf (x : LmsTree) (q : Nat) : Bytes :=
  lmsLeafOf x q (otsKey x q ((List.range (lmsP (hbsN x.ps) x.w)).map fun c => chainFrom (lmsStep x q c) (2 ^ x.w - 1) 0 (lmsChainKey x q c)))

def lmsJoin (x : LmsTree) (z i : Nat) (l r : Bytes) : Bytes :=
  hbsHash x.ps (x.i ++ beBytes 4 (2 ^ (x.h - z) + i) ++ beBytes 2 0x8383 ++ l ++ r)

/-- Type codes of a tree and of its LM-OTS (RFC 8554, SP 800-208; log entry 118). -/
def lmsType (x : LmsTree) : Nat := 5 * bits x.ps 12 4 + x.h / 5 - 1
def otsType (x : LmsTree) : Nat := 4 * bits x.ps 12 4 - 3 + Nat.log2 x.w

def lmsPublic (x : LmsTree) : Bytes := beBytes 4 (lmsType x) ++ beBytes 4 (otsType x) ++ x.i ++ treeNode (lmsLeaf x) (lmsJoin x) x.h 0

/-- The digits leaf `q` signs of a message under randomizer `c`. -/
def lmsDigits (x : LmsTree) (q : Nat) (c m : Bytes) : List Nat :=
  checkedDigits x.w (lmsChains x).1 (lmsChains x).2 (hbsHash x.ps (x.i ++ beBytes 4 q ++ beBytes 2 0x8181 ++ c ++ m))

def lmsSignOne (x : LmsTree) (q : Nat) (c m : Bytes) : Bytes :=
  beBytes 4 q ++ beBytes 4 (otsType x) ++ c ++
  ((lmsDigits x q c m).zipIdx.flatMap fun e => chainFrom (lmsStep x q e.2) e.1 0 (lmsChainKey x q e.2)) ++
  beBytes 4 (lmsType x) ++ authPath (lmsLeaf x) (lmsJoin x) x.h q

/-- The trees of an HSS key on the way to a leaf: from the top, each with the leaf that signs. SEED and I below the top, and the randomizer with
which a level signs the public key of the next, follow from the key in a way the manual leaves open (R237). -/
def hssTrees (ps : Nat) (key : Bytes) (levels : List (Nat × Nat)) (leaf : Nat) : List (LmsTree × Nat) :=
  levels.zipIdx.map fun e =>
    let below := ((levels.drop (e.2 + 1)).map (·.1)).sum
    let tree := leaf / 2 ^ (below + e.1.1)
    let s := if e.2 = 0 then key else bytesOf (hbsN ps + 16) (Config.lowerSeed key e.2 tree)
    (⟨ps, e.1.1, e.1.2, s.take (hbsN ps), s.drop (hbsN ps)⟩, leaf / 2 ^ below % 2 ^ e.1.1)

/-- Height and width of each level, from the level codes (Table 10.7). -/
def hssLevels (ps : Nat) (codes : Bytes) : List (Nat × Nat) := (codes.take (bits ps 8 4)).map fun b => (5 * (b.toNat / 16), b.toNat % 16)

/-- The HSS public key (R237, R238). -/
def hssPublic (ps : Nat) (key codes : Bytes) : Bytes :=
  beBytes 4 (bits ps 8 4) ++ (hssTrees ps key (hssLevels ps codes) 0).head?.elim [] fun e => lmsPublic e.1

/-- From the top: each tree signs the public key of the next, the last one the message. -/
def hssChain (c : Bytes) (m : Bytes) (up : Nat → Bytes) : Nat → List (LmsTree × Nat) → Bytes
  | _, [] => []
  | _, [e] => lmsSignOne e.1 e.2 c m
  | l, e :: f :: r => lmsSignOne e.1 e.2 (up l) (lmsPublic f.1) ++ lmsPublic f.1 ++ hssChain c m up (l + 1) (f :: r)

/-- The HSS signature with a leaf and a randomizer (R239, R245). -/
def hssSign (ps : Nat) (key codes : Bytes) (leaf : Nat) (c m : Bytes) : Bytes :=
  let levels := hssLevels ps codes
  let below := fun (l : Nat) => ((levels.drop (l + 1)).map (·.1)).sum
  beBytes 4 (bits ps 8 4 - 1) ++
    hssChain c m (fun l => bytesOf (hbsN ps) (Config.upperRandomizer key l (leaf / 2 ^ below l))) 0 (hssTrees ps key levels leaf)

/-- One LMS signature against a public key, both of which parse (lmsAgrees). -/
def lmsVerifyOne (ps : Nat) (pk m sig : Bytes) : Bool :=
  match lmsLevel (bits ps 12 4) (be32 pk 0) (be32 pk 4) with
  | none => false
  | some (h, w) =>
    let n := hbsN ps
    let x : LmsTree := ⟨ps, h, w, [], slice pk 8 16⟩
    let q := be32 sig 0
    let y := cut n (slice sig (8 + n) (n * lmsP n w))
    let chains := ((lmsDigits x q (slice sig 8 n) m).zip y).zipIdx.map fun e => chainFrom (lmsStep x q e.2) (2 ^ w - 1 - e.1.1) e.1.1 e.1.2
    climb (lmsJoin x) 0 q (lmsLeafOf x q (otsKey x q chains)) (cut n (sig.drop (12 + n * (lmsP n w + 1)))) == pk.drop 24

/-- The levels of an HSS signature in turn. -/
def hssVerifyFrom (ps : Nat) (m : Bytes) : Nat → Bytes → Bytes → Bool
  | 0, _, _ => false
  | l + 1, pk, sig => match lmsLevel (bits ps 12 4) (be32 pk 0) (be32 pk 4) with
    | none => false
    | some (h, w) =>
      let size := 12 + hbsN ps * (lmsP (hbsN ps) w + 1 + h)
      if l = 0 then lmsVerifyOne ps pk m sig
      else
        let next := slice sig size (24 + hbsN ps)
        lmsVerifyOne ps pk next (sig.take size) && hssVerifyFrom ps m l next (sig.drop (size + 24 + hbsN ps))

/-- An HSS signature verifies (R239). -/
def hssVerify (ps : Nat) (pk m sig : Bytes) : Bool := hssVerifyFrom ps m (bits ps 8 4) (pk.drop 4) (sig.drop 4)

/-! ## XMSS and XMSS^MT -/

/-- A keyed hash: 0 F, 1 H, 2 Hmsg, 3 PRF, 4 the PRF of key generation. -/
def xmssHash (ps which : Nat) (key m : Bytes) : Bytes := hbsHash ps (beBytes (if hbsN ps = 32 then 32 else 4) which ++ key ++ m)

/-- The last word of an address is keyAndMask. -/
def xmssAdrs (a : Adrs) (mask : Nat) : Bytes :=
  beBytes 4 a.layer ++ beBytes 8 a.tree ++ beBytes 4 a.ty ++ beBytes 4 a.w1 ++ beBytes 4 a.w2 ++ beBytes 4 a.w3 ++ beBytes 4 mask

/-- A param_set with SK_SEED and PUB_SEED. -/
structure XmssKey where
  ps : Nat
  sk : Bytes
  seed : Bytes

def xmssMask (x : XmssKey) (a : Adrs) (i : Nat) : Bytes := xmssHash x.ps 3 x.seed (xmssAdrs a i)

/-- RAND_HASH. -/
def xmssRand (x : XmssKey) (a : Adrs) (l r : Bytes) : Bytes :=
  xmssHash x.ps 1 (xmssMask x a 0) (xorBytes l (xmssMask x a 1) ++ xorBytes r (xmssMask x a 2))

/-- A step of chain `c` of the one-time key of a leaf. -/
def xmssStep (x : XmssKey) (a : Adrs) (c i : Nat) (b : Bytes) : Bytes :=
  let e := { a with w2 := c, w3 := i }
  xmssHash x.ps 0 (xmssMask x e 0) (xorBytes b (xmssMask x e 1))

/-- The secret value of chain `c` (SP 800-208). -/
def xmssChainKey (x : XmssKey) (a : Adrs) (c : Nat) : Bytes := xmssHash x.ps 4 x.sk (x.seed ++ xmssAdrs { a with w2 := c, w3 := 0 } 0)

/-- One level of an L-tree. -/
def ltreeLevel (x : XmssKey) (a : Adrs) (z : Nat) : Nat → List Bytes → List Bytes
  | i, l :: r :: k => xmssRand x { a with ty := 1, w2 := z, w3 := i } l r :: ltreeLevel x a z (i + 1) k
  | _, k => k

/-- An L-tree: 7 levels bring 67 or 51 chains to one node. -/
def ltree (x : XmssKey) (a : Adrs) : Nat → Nat → List Bytes → Bytes
  | 0, _, k => k.headD []
  | n + 1, z, k => ltree x a n (z + 1) (ltreeLevel x a z 0 k)

/-- Chains of the one-time key. -/
def xmssLen (ps : Nat) : Nat := 2 * hbsN ps + 3

def xmssLeafOf (x : XmssKey) (a : Adrs) (ends : List Bytes) : Bytes := ltree x a 7 0 ends

def xmssLeaf (x : XmssKey) (layer tree i : Nat) : Bytes :=
  let a : Adrs := { layer := layer, tree := tree, w1 := i }
  xmssLeafOf x a ((List.range (xmssLen x.ps)).map fun c => chainFrom (xmssStep x a c) 15 0 (xmssChainKey x a c))

def xmssJoin (x : XmssKey) (layer tree z i : Nat) (l r : Bytes) : Bytes :=
  xmssRand x { layer := layer, tree := tree, ty := 2, w2 := z - 1, w3 := i } l r

/-- Height of one layer's trees. -/
def xmssHeight (ps : Nat) : Nat := bits ps 0 8 / bits ps 8 4

/-- The root of the top layer. -/
def xmssRoot (ps : Nat) (x : XmssKey) : Bytes :=
  treeNode (xmssLeaf x (bits ps 8 4 - 1) 0) (xmssJoin x (bits ps 8 4 - 1) 0) (xmssHeight ps) 0

/-- SK_SEED, SK_PRF and PUB_SEED of the held key (R237). -/
def xmssKeyOf (ps : Nat) (key : Bytes) : XmssKey := ⟨ps, key.take (hbsN ps), key.drop (2 * hbsN ps)⟩

/-- The public key (R237, R238). -/
def xmssPublic (ps : Nat) (key : Bytes) : Bytes :=
  beBytes 4 (xmssOid ps) ++ xmssRoot ps (xmssKeyOf ps key) ++ key.drop (2 * hbsN ps)

/-- One layer's signature. -/
def xmssSignOne (x : XmssKey) (layer tree i : Nat) (m : Bytes) : Bytes :=
  let a : Adrs := { layer := layer, tree := tree, w1 := i }
  ((checkedDigits 4 (2 * hbsN x.ps) 3 m).zipIdx.flatMap fun e => chainFrom (xmssStep x a e.2) e.1 0 (xmssChainKey x a e.2)) ++
  authPath (xmssLeaf x layer tree) (xmssJoin x layer tree) (xmssHeight x.ps) i

/-- Layers from the bottom upwards. -/
def xmssLayers (x : XmssKey) : Nat → Nat → Nat → Bytes → Bytes
  | 0, _, _, _ => []
  | d + 1, layer, idx, m =>
    let h := xmssHeight x.ps
    xmssSignOne x layer (idx / 2 ^ h) (idx % 2 ^ h) m ++
      xmssLayers x d (layer + 1) (idx / 2 ^ h) (treeNode (xmssLeaf x layer (idx / 2 ^ h)) (xmssJoin x layer (idx / 2 ^ h)) h 0)

/-- Bytes of the index in a signature. -/
def xmssIdxLen (ps : Nat) : Nat := if bits ps 8 4 = 1 then 4 else (bits ps 0 8 + 7) / 8

/-- The signature with a leaf; r follows from SK_PRF and the index (R239, R245). -/
def xmssSign (ps : Nat) (key : Bytes) (leaf : Nat) (m : Bytes) : Bytes :=
  let n := hbsN ps
  let x := xmssKeyOf ps key
  let r := xmssHash ps 3 (slice key n n) (beBytes 32 leaf)
  beBytes (xmssIdxLen ps) leaf ++ r ++ xmssLayers x (bits ps 8 4) 0 leaf (xmssHash ps 2 (r ++ xmssRoot ps x ++ beBytes n leaf) m)

/-- The root that the layers of a signature lead to. -/
def xmssClimb (x : XmssKey) : Nat → Nat → Nat → Bytes → Bytes → Bytes
  | 0, _, _, m, _ => m
  | d + 1, layer, idx, m, sig =>
    let n := hbsN x.ps
    let h := xmssHeight x.ps
    let a : Adrs := { layer := layer, tree := idx / 2 ^ h, w1 := idx % 2 ^ h }
    let chains := ((checkedDigits 4 (2 * n) 3 m).zip (cut n sig)).zipIdx.map fun e => chainFrom (xmssStep x a e.2) (15 - e.1.1) e.1.1 e.1.2
    let path := cut n (slice sig (n * xmssLen x.ps) (n * h))
    xmssClimb x d (layer + 1) (idx / 2 ^ h) (climb (xmssJoin x layer (idx / 2 ^ h)) 0 (idx % 2 ^ h) (xmssLeafOf x a chains) path)
      (sig.drop (n * (xmssLen x.ps + h)))

/-- A signature of the right form verifies (R239). -/
def xmssVerify (ps : Nat) (pk m sig : Bytes) : Bool :=
  let n := hbsN ps
  let x : XmssKey := ⟨ps, [], pk.drop (4 + n)⟩
  let il := xmssIdxLen ps
  let idx := beNat (sig.take il)
  let root := slice pk 4 n
  xmssClimb x (bits ps 8 4) 0 idx (xmssHash ps 2 (slice sig il n ++ root ++ beBytes n idx) m) (sig.drop (il + n)) == root

end Sys2Proof.Machine
end

