-- ==== Sys2Proof/Machine/OpHbs.lean ====
section
/-! DEFINITION. OpHbs.lean: LMS/HSS and XMSS, XMSS^MT with their leaf state (R227, R232, R236 to R248). RFC 8554,
RFC 8391 and SP 800-208 stand in HashSig.lean. -/

namespace Sys2Proof.Machine

/-! ## Key generation (R237, R240, R241) -/

/-- Attribute word of a generated stateful key, which no descriptor field gives: both masters of its own paddock, every life-cycle state
(log entry 32). -/
def statefulAttrs (pad : Nat) : Nat := 0x7E + 2 ^ (16 + pad)

/-- The slot, the reservation and the tree cache that a key generation makes; an execution of an issued record makes none (R337). -/
def makeStateful (s : State) (j : Job) (alg : Nat) (seeds : Bytes) : State :=
  let n := hIdx j.desc.keyRef
  let levels := slice j.desc.inline 0 8
  let batch := inl8 j.desc 0x48
  let total := hbsTotal alg j.desc.paramSet levels
  if j.issued then s
  else
    let s1 := modSlot s n fun x =>
      { x with cls := 5, alg := alg, paramSet := j.desc.paramSet, keyLen := seeds.length, attrs := statefulAttrs j.paddock, parent := 0xFFFE,
               depth := 1, material := seeds, sealState := s.lc.state, sealEpoch := s.lc.epoch }
    let s2 := putHbs s1 n { present := true, paramSet := j.desc.paramSet, levels := levels, batchLog2 := batch, lowMark := inl32 j.desc 0x4C,
                            h := min (2 ^ batch) total, paddock := j.paddock }
    { s2 with cache := smMap {} (fun _ (e : CacheEntry) => if e.tree = some n then { e with complete := true } else e) s2.cache }

/-- A key generation ends: public key out, then the hayloft writes that precede its completion. -/
def hbsKeygen (s : State) (j : Job) (seedLen : Nat) (pub : Bytes → Bytes) : State :=
  let seeds := captured s j 2 0 seedLen
  let s1 := makeStateful s j (jobAlg s j) seeds
  let s2 := ends s1 j (okOut (pub seeds) [])
  if j.issued then s2 else awaitWrite s2 j

/-- OP_LMS_KEYGEN (R237, R238): SEED and I captured; the public key is u32 L and the top LMS public key. -/
def execOpLmsKeygen (seq : Nat) (inp : OpInput) (s : State) : Host.Outcome State Fault Refusal :=
  .next (execute s seq 0x0210 inp sizesOf fun t j _ =>
    let n := hbsN j.desc.paramSet
    hbsKeygen t j (n + 16) fun seeds => hssPublic j.desc.paramSet seeds (slice j.desc.inline 0 8))

/-- OP_XMSS_KEYGEN (R237): SK_SEED, SK_PRF and PUB_SEED captured. -/
def execOpXmssKeygen (seq : Nat) (inp : OpInput) (s : State) : Host.Outcome State Fault Refusal :=
  .next (execute s seq 0x0220 inp sizesOf fun t j _ =>
    let n := hbsN j.desc.paramSet
    hbsKeygen t j (3 * n) fun seeds => xmssPublic j.desc.paramSet seeds)

/-! ## Signing (R239, R240, R245) -/

/-- Size of the signature of the key in key_ref (Table 10.8). -/
def hbsSize (s : State) (j : Job) : Nat × Nat := (hbsSig (jobAlg s j) j.desc.paramSet (hbsAt s (hIdx j.desc.keyRef)).levels, 0)

/-- The tree cache of a slot is resident. -/
def treeResident (s : State) (n : Nat) : Bool := s.cache.any fun e => e.2.tree == some n

/-- R240: the tree cache is resident, or is reloaded where the partition has room; none otherwise (log entry 33). -/
def withTree (s : State) (pad n : Nat) : Option State :=
  let x := slotAt s n
  let size := treeSize x.alg x.paramSet (hbsAt s n).levels
  if treeResident s n then some s
  else if partBytes s pad (padRec s pad).cacheUnits < cacheUsed s pad + size then none
  else
    let k := cacheKey pad (freeIndex s pad)
    some (putCache s k { present := true, gen := (cacheAt s k).gen, alg := x.alg, paramSet := x.paramSet, size := size, tree := some n,
                         complete := true })

/-- A signature, from the held key, its levels and the leaf in the record (R176, R245). -/
def hbsSign (s : State) (j : Job) (sign : Bytes → Bytes → Nat → Bytes) : State :=
  let n := hIdx j.desc.keyRef
  match withTree s j.paddock n with
  | none => ends s j (failWith 0x0403)
  | some s1 =>
    let sig := sign (jobKey s1 j) (hbsAt s1 n).levels (j.extra.getD 0)
    streamOut (ends (modHbs s1 n fun h => { h with rebuildDue := false }) j (okOut sig [])) j.seq

/-- OP_LMS_SIGN: the randomizer C is captured (R239). -/
def execOpLmsSign (seq : Nat) (inp : OpInput) (s : State) : Host.Outcome State Fault Refusal :=
  .next (execute s seq 0x0211 inp hbsSize fun t j i => hbsSign t j fun key levels leaf =>
    hssSign j.desc.paramSet key levels leaf (captured t j 1 0 (hbsN j.desc.paramSet)) i.in0)

/-- OP_XMSS_SIGN: r comes from SK_PRF and the index (R239). -/
def execOpXmssSign (seq : Nat) (inp : OpInput) (s : State) : Host.Outcome State Fault Refusal :=
  .next (execute s seq 0x0221 inp hbsSize fun t j i => hbsSign t j fun key _ leaf => xmssSign j.desc.paramSet key leaf i.in0)

/-! ## Verification (R239, R250) -/

/-- The public key of a verification: cached, or at ext. -/
def extKey (s : State) (j : Job) (i : OpIn) : Bytes := if j.desc.keyRef ≠ 0 then cachedKey s j else i.ext

/-- OP_LMS_VERIFY: the public key and the signature agree with param_set, and the signature verifies (R239, R250). -/
def execOpLmsVerify (seq : Nat) (inp : OpInput) (s : State) : Host.Outcome State Fault Refusal :=
  .next (execute s seq 0x0212 inp sizesOf fun t j i =>
    let pk := extKey t j i
    ends t j (verdict (lmsAgrees j.desc.paramSet pk i.in1 && hssVerify j.desc.paramSet pk i.in0 i.in1)))

/-- OP_XMSS_VERIFY: the public key and the signature agree with param_set, and the signature verifies (R239, R250). -/
def execOpXmssVerify (seq : Nat) (inp : OpInput) (s : State) : Host.Outcome State Fault Refusal :=
  .next (execute s seq 0x0222 inp sizesOf fun t j i =>
    let pk := extKey t j i
    ends t j (verdict (xmssAgrees (jobAlg t j) j.desc.paramSet pk i.in1 && xmssVerify j.desc.paramSet pk i.in0 i.in1)))

/-! ## The state report (R248) -/

/-- The 32 bytes of the report, for the index recorded at acceptance. -/
def hbsReport (s : State) (j : Job) : Bytes :=
  let n := hIdx j.desc.keyRef
  let index := j.extra.getD 0
  let total := hbsTotalOf s n
  leBytes 8 index ++ leBytes 8 total ++ leBytes 8 (total - index) ++ leBytes 4 (batchOf (hbsAt s n)) ++ leBytes 2 j.desc.paramSet ++ zeros 2

/-- OP_HBS_QUERY (R248). -/
def execOpHbsQuery (seq : Nat) (inp : OpInput) (s : State) : Host.Outcome State Fault Refusal :=
  .next (execute s seq 0x0230 inp sizesOf fun t j _ => ends t j (okOut (hbsReport t j) []))

end Sys2Proof.Machine
end

