-- ==== Sys2Proof/Machine/OpLattice.lean ====
section
/-! DEFINITION. OpLattice.lean: ML-KEM, ML-DSA and SLH-DSA (R203 to R222, R227 to R233); FIPS 203, FIPS 204 and FIPS 205 stand in Lattice.lean and
HashSig.lean. -/

namespace Sys2Proof.Machine

/-! ## ML-KEM -/

/-- OP_MLKEM_KEYGEN (R205, R206): the key is its captured seed d ‖ z. -/
def execOpMlkemKeygen (seq : Nat) (inp : OpInput) (s : State) : Host.Outcome State Fault Refusal :=
  .next (execute s seq 0x0100 inp sizesOf fun t j _ =>
    let seed := captured t j 2 0 64
    ends t j (keyPair t j 3 (jobAlg t j) (mlkemPublic j.desc.paramSet seed) seed))

/-- OP_MLKEM_ENCAPS (R207, R208, R217): m is captured. -/
def execOpMlkemEncaps (seq : Nat) (inp : OpInput) (s : State) : Host.Outcome State Fault Refusal :=
  .next (execute s seq 0x0101 inp sizesOf fun t j i =>
    publicKey t j (jobAlg t j) i.in0 fun pk =>
      let x := mlkemEncaps j.desc.paramSet pk (captured t j 3 0 32)
      ends t j (okOut x.2 x.1))

/-- OP_MLKEM_DECAPS (R216): implicit rejection, so a shared secret always. -/
def execOpMlkemDecaps (seq : Nat) (inp : OpInput) (s : State) : Host.Outcome State Fault Refusal :=
  .next (execute s seq 0x0102 inp sizesOf fun t j i => ends t j (okOut (mlkemDecaps j.desc.paramSet (jobKey t j) i.in0) []))

/-! ## ML-DSA -/

/-- OP_MLDSA_KEYGEN (R205, R206): the key is its captured seed ξ. -/
def execOpMldsaKeygen (seq : Nat) (inp : OpInput) (s : State) : Host.Outcome State Fault Refusal :=
  .next (execute s seq 0x0110 inp sizesOf fun t j _ =>
    let seed := captured t j 2 0 32
    ends t j (keyPair t j 2 (jobAlg t j) (mldsaPublic j.desc.paramSet seed) seed))

/-- rnd of a signature (R218): captured when hedged, zero bytes when deterministic. -/
def mldsaRnd (s : State) (j : Job) : Bytes := if inl8 j.desc 0x42 = 1 then zeros 32 else captured s j 1 0 32

/-- OP_MLDSA_SIGN (R213, R214, R219, R222): the attempts go on until one succeeds. -/
def execOpMldsaSign (seq : Nat) (inp : OpInput) (s : State) : Host.Outcome State Fault Refusal :=
  .next (execute s seq 0x0111 inp sizesOf fun t j i =>
    match mldsaSign j.desc.paramSet (jobKey t j) (formatted j.desc i.ext i.in0) (mldsaRnd t j) with
    | some (sig, n) => endsAfter t j n (okOut sig [])
    | none => t)

/-- OP_MLDSA_VERIFY (R208, R216): ST_OK in every case, the verdict in its word; a malformed hint or a z beyond its norm bound does not verify. -/
def execOpMldsaVerify (seq : Nat) (inp : OpInput) (s : State) : Host.Outcome State Fault Refusal :=
  .next (execute s seq 0x0112 inp sizesOf fun t j i =>
    let sp := splitSig j (jobAlg t j) i.in1
    let pk := if j.desc.keyRef ≠ 0 then cachedKey t j else sp.2
    let tr := if j.desc.keyRef ≠ 0 then cachedTr t j else mldsaTr sp.2
    ends t j (verdict (mldsaVerify j.desc.paramSet pk (mldsaMu tr (formatted j.desc i.ext i.in0)) sp.1)))

/-! ## SLH-DSA -/

/-- OP_SLHDSA_KEYGEN (R228, R231): SK.seed, SK.prf and PK.seed captured; the public key is PK.seed ‖ PK.root. -/
def execOpSlhdsaKeygen (seq : Nat) (inp : OpInput) (s : State) : Host.Outcome State Fault Refusal :=
  .next (execute s seq 0x0200 inp sizesOf fun t j _ =>
    let n := slhN j.desc.paramSet
    let seeds := captured t j 2 0 (3 * n)
    let root := slhRoot j.desc.paramSet (seeds.take n) (seeds.drop (2 * n))
    ends t j (keyPair t j 2 (jobAlg t j) (seeds.drop (2 * n) ++ root) (seeds ++ root)))

/-- opt_rand (R231): captured when hedged, PK.seed when deterministic. -/
def slhRnd (s : State) (j : Job) : Bytes :=
  let n := slhN j.desc.paramSet
  if inl8 j.desc 0x42 = 1 then slice (jobKey s j) (2 * n) n else captured s j 1 0 n

/-- OP_SLHDSA_SIGN (R229, R231, R232). -/
def execOpSlhdsaSign (seq : Nat) (inp : OpInput) (s : State) : Host.Outcome State Fault Refusal :=
  .next (execute s seq 0x0201 inp sizesOf fun t j i =>
    streamOut (ends t j (okOut (slhSign j.desc.paramSet (jobKey t j) (formatted j.desc i.ext i.in0) (slhRnd t j)) [])) seq)

/-- A verification whose public key has no value check (R230). -/
def slhdsaVerify (s : State) (j : Job) (i : OpIn) : State :=
  let sp := splitSig j (jobAlg s j) i.in1
  let pk := if j.desc.keyRef ≠ 0 then cachedKey s j else sp.2
  ends s j (verdict (slhVerify j.desc.paramSet pk (formatted j.desc i.ext i.in0) sp.1))

/-- OP_SLHDSA_VERIFY (R229, R230). -/
def execOpSlhdsaVerify (seq : Nat) (inp : OpInput) (s : State) : Host.Outcome State Fault Refusal :=
  .next (execute s seq 0x0202 inp sizesOf slhdsaVerify)

end Sys2Proof.Machine
end

