-- ==== Sys2Proof/Machine/Rsa.lean ====
section
/-! DEFINITION. Rsa.lean: RSASSA-PSS, RSASSA-PKCS1-v1_5 and RSAES-OAEP of RFC 8017, as the manual selects them (R272 to R285; log entry 4). -/

namespace Sys2Proof.Machine

/-! ## Keys (R274, R275, R284) -/

/-- Coefficient of `a` in the combination that gives gcd(a, m), modulo `m`; `fuel` bounds the divisions. -/
def inverseFrom (m : Nat) : Nat → Nat → Nat → Nat → Nat → Nat
  | 0, _, _, x, _ => x
  | fuel + 1, a, b, x, y => if b = 0 then x else inverseFrom m fuel b (a % b) y ((x + (m - a / b % m * y % m)) % m)

/-- The inverse of `a` modulo `m`, where there is one. -/
def inverse (m a : Nat) : Nat := inverseFrom m 8192 (a % m) m (1 % m) 0

/-- The held form: e, p, q, d_p, d_q, q_inv. -/
structure RsaKey where
  e : Nat
  p : Nat
  q : Nat
  dp : Nat
  dq : Nat
  qinv : Nat

/-- The `i`-th field of half the modulus's width after e. -/
def rsaField (ps : Nat) (held : Bytes) (i : Nat) : Nat := beNat (slice held (8 + 4 * ps * i) (4 * ps))

def rsaKeyOf (ps : Nat) (held : Bytes) : RsaKey :=
  ⟨beNat (held.take 8), rsaField ps held 0, rsaField ps held 1, rsaField ps held 2, rsaField ps held 3, rsaField ps held 4⟩

def rsaModulus (ps : Nat) (held : Bytes) : Nat := rsaField ps held 0 * rsaField ps held 1

/-- A candidate for a prime of a seed: b ÷ 2 bits with the top two set, odd; how the stream is cut into candidates is not specified (R284). -/
def rsaCandidate (ps : Nat) (seed : Bytes) (e which i : Nat) : Nat :=
  let h := 32 * ps
  3 * 2 ^ (h - 2) + 2 * (Config.rsaCandidate seed ps e which i % 2 ^ (h - 3)) + 1

/-- Squaring `x` at most `fuel` more times modulo `n` gives −1. -/
def reachesMinusOne (n : Nat) : Nat → Nat → Bool
  | 0, _ => false
  | fuel + 1, x => x == n - 1 || reachesMinusOne n fuel (x * x % n)

/-- The odd part of `d`, and how often 2 divides it. -/
def oddPart : Nat → Nat → Nat → Nat × Nat
  | 0, d, k => (d, k)
  | fuel + 1, d, k => if d % 2 = 1 then (d, k) else oddPart fuel (d / 2) (k + 1)

/-- One Miller–Rabin round of FIPS 186-5. -/
def millerRabin (n base : Nat) : Bool :=
  let d := oddPart (Nat.log2 n + 1) (n - 1) 0
  let x := powMod n (Nat.log2 n + 1) base d.1
  x == 1 || reachesMinusOne n d.2 x

/-- Rounds for a prime of 1,024, 1,536 or 2,048 bits (FIPS 186-5's table; log entry 4). -/
def rsaRounds (ps : Nat) : Nat := if ps = 32 then 5 else 4

/-- A candidate is accepted: e has an inverse, and every Miller–Rabin round passes (R284). -/
def rsaProbable (ps : Nat) (seed : Bytes) (e which i : Nat) : Bool :=
  let n := rsaCandidate ps seed e which i
  Nat.gcd e (n - 1) == 1 &&
    (List.range (rsaRounds ps)).all fun k => millerRabin n (Config.rsaBase seed ps e which i k % (n - 3) + 2)

/-- |p − q| > 2^(b/2 − 100) (R284). -/
def rsaApart (ps p q : Nat) : Bool := decide (2 ^ (32 * ps - 100) < p - q) || decide (2 ^ (32 * ps - 100) < q - p)

/-- The first of the candidates that is accepted: p first, and q after it, far enough from p (R284). -/
def rsaPrime (ps : Nat) (seed : Bytes) (e which : Nat) : Nat :=
  let find := fun (w : Nat) (good : Nat → Bool) =>
    rsaCandidate ps seed e w (((List.range (2 ^ 16)).find? fun i => rsaProbable ps seed e w i && good (rsaCandidate ps seed e w i)).getD (2 ^ 16))
  let p := find 0 fun _ => true
  if which = 0 then p else find 1 (rsaApart ps p)

/-- The held form of the key of a seed (R275). -/
def rsaHeld (ps : Nat) (seed : Bytes) (e : Nat) : Bytes :=
  let p := rsaPrime ps seed e 0
  let q := rsaPrime ps seed e 1
  beBytes 8 e ++ [p, q, inverse (p - 1) e, inverse (q - 1) e, inverse p q].flatMap (beBytes (4 * ps))

/-- n in k bytes, then e in 4 bytes (R274). -/
def rsaPublic (ps : Nat) (held : Bytes) : Bytes := beBytes (8 * ps) (rsaModulus ps held) ++ beBytes 4 (beNat (held.take 8))

/-! ## The primitives (R283, R285) -/

/-- The private-key operation by its CRT halves, with base blinding r′ = (r mod (n − 3)) + 2 and exponents d_p + m_p(p − 1) and d_q + m_q(q − 1);
none where s ^ e mod n does not give back the value. -/
def rsaPrivate (x : RsaKey) (r mp mq : Nat) (c : Nat) : Option Nat :=
  let n := x.p * x.q
  let rr := r % (n - 3) + 2
  let bits := Nat.log2 n + 72
  let blinded := c * powMod n 40 rr x.e % n
  let a := powMod x.p bits (blinded % x.p) (x.dp + mp * (x.p - 1))
  let b := powMod x.q bits (blinded % x.q) (x.dq + mq * (x.q - 1))
  let s := (b + x.q * (x.qinv * ((a + x.p - b % x.p) % x.p) % x.p)) * inverse n rr % n
  if powMod n 40 s x.e = c % n then some s else none

/-! ## Encodings (R278) -/

/-- The hash of a ph_id. -/
def hashBy (ph : Nat) (m : Bytes) : Bytes := digestOf ph m (phLen ph)

/-- The DigestInfo prefix of a hash. -/
def digestInfo (ph : Nat) : Bytes :=
  [0x30#8, BitVec.ofNat 8 (17 + phLen ph), 0x30#8, 0x0D#8, 0x06#8, 0x09#8, 0x60#8, 0x86#8, 0x48#8, 0x01#8, 0x65#8, 0x03#8, 0x04#8, 0x02#8,
    BitVec.ofNat 8 ph, 0x05#8, 0x00#8, 0x04#8, BitVec.ofNat 8 (phLen ph)]

/-- EMSA-PKCS1-v1_5 of a digest in `k` bytes. -/
def pkcsEncode (k ph : Nat) (digest : Bytes) : Bytes :=
  let t := digestInfo ph ++ digest
  [0x00#8, 0x01#8] ++ List.replicate (k - t.length - 3) 0xFF#8 ++ [0x00#8] ++ t

/-- The string with its top bit clear. -/
def clearTop : Bytes → Bytes
  | [] => []
  | b :: r => (b &&& 0x7F#8) :: r

def pssHash (ph : Nat) (digest salt : Bytes) : Bytes := hashBy ph (zeros 8 ++ digest ++ salt)

/-- EMSA-PSS of a digest in `k` bytes, one bit short of the modulus. -/
def pssEncode (k ph : Nat) (digest salt : Bytes) : Bytes :=
  let h := pssHash ph digest salt
  let db := zeros (k - salt.length - h.length - 2) ++ [0x01#8] ++ salt
  clearTop (xorBytes db (mgf1 ph h db.length)) ++ h ++ [0xBC#8]

/-- EMSA-PSS verification, with exactly `len` bytes of salt. -/
def pssOk (k ph len : Nat) (digest em : Bytes) : Bool :=
  let hl := phLen ph
  let masked := em.take (k - hl - 1)
  let h := slice em (k - hl - 1) hl
  let db := clearTop (xorBytes masked (mgf1 ph h masked.length))
  let fill := k - hl - len - 2
  em.drop (k - 1) == [0xBC#8] && !(u8 em 0).testBit 7 && allZero (db.take fill) && slice db fill 1 == [0x01#8] &&
  pssHash ph digest (db.drop (fill + 1)) == h

/-- EME-OAEP with the empty label. -/
def oaepEncode (k ph : Nat) (m seed : Bytes) : Bytes :=
  let hl := phLen ph
  let db := hashBy ph [] ++ zeros (k - m.length - 2 * hl - 2) ++ [0x01#8] ++ m
  let masked := xorBytes db (mgf1 ph seed db.length)
  0x00#8 :: (xorBytes seed (mgf1 ph masked hl) ++ masked)

/-- What follows the first byte that is not 0, where that byte is 0x01. -/
def afterOne : Bytes → Option Bytes
  | [] => none
  | b :: r => if b = 0x00#8 then afterOne r else if b = 0x01#8 then some r else none

/-- EME-OAEP decoding; none where it fails (R280). -/
def oaepDecode (k ph : Nat) (em : Bytes) : Option Bytes :=
  let hl := phLen ph
  let masked := em.drop (1 + hl)
  let seed := xorBytes (slice em 1 hl) (mgf1 ph masked hl)
  let db := xorBytes masked (mgf1 ph seed (k - hl - 1))
  if u8 em 0 = 0 ∧ db.take hl = hashBy ph [] then afterOne (db.drop hl) else none

/-! ## The schemes -/

/-- The encoded message of a scheme: 0 PSS, 1 PKCS1-v1_5 (Table 12.5). -/
def rsaEncode (ps scheme ph : Nat) (digest salt : Bytes) : Bytes :=
  if scheme = 0 then pssEncode (8 * ps) ph digest salt else pkcsEncode (8 * ps) ph digest

/-- A signature verifies (R279, R281): s below n, and its encoded message fits. -/
def rsaVerify (ps : Nat) (pk : Bytes) (scheme ph len : Nat) (digest sig : Bytes) : Bool :=
  let k := 8 * ps
  let n := beNat (pk.take k)
  let em := beBytes k (powMod n 40 (beNat sig) (beNat (slice pk k 4)))
  decide (beNat sig < n) && if scheme = 0 then pssOk k ph len digest em else em == pkcsEncode k ph digest

/-- A ciphertext (R278). -/
def rsaEncrypt (ps : Nat) (pk : Bytes) (ph : Nat) (m seed : Bytes) : Bytes :=
  let k := 8 * ps
  beBytes k (powMod (beNat (pk.take k)) 40 (beNat (oaepEncode k ph m seed)) (beNat (slice pk k 4)))

end Sys2Proof.Machine
end

