-- ==== Sys2Proof/Machine/OpPke.lean ====
section
/-! DEFINITION. OpPke.lean: RSA, ECDSA, ECDH, EdDSA and XDH (R272 to R286); the schemes of RFC 8017 stand in Rsa.lean, the curves of FIPS 186-5,
RFC 8032 and RFC 7748 in Curves.lean. -/

namespace Sys2Proof.Machine

/-! ## RSA (R274, R275, R278 to R281, R284, R285) -/

/-- OP_RSA_KEYGEN (R275, R277, R284): the primes follow from the captured seed; e 0 is taken as 65,537. -/
def execOpRsaKeygen (seq : Nat) (inp : OpInput) (s : State) : Host.Outcome State Fault Refusal :=
  .next (execute s seq 0x0400 inp sizesOf fun t j _ =>
    let ps := j.desc.paramSet
    let e := if inl32 j.desc 0x40 = 0 then 65537 else inl32 j.desc 0x40
    let held := rsaHeld ps (captured t j 2 0 64) e
    ends t j (keyPair t j (if jobAlg t j = 74 then 3 else 2) (jobAlg t j) (rsaPublic ps held) held))

/-- A private-key operation with its captured blinding (R282, R283); a failed check of its result is FK_PKE_SELF_CHECK, and nothing is written
(R285). -/
def withPrivate (s : State) (j : Job) (c : Nat) (k : Bytes → State) : State :=
  let ps := j.desc.paramSet
  let m := captured s j 4 1 16
  match rsaPrivate (rsaKeyOf ps (jobKey s j)) (leNat (captured s j 4 0 (8 * ps))) (u64 m 0) (u64 m 8) c with
  | some x => k (beBytes (8 * ps) x)
  | none => settle (raiseFault s (j.stall.getD 0) 0x0C false 0 0)

/-- OP_RSA_SIGN (R277, R278): the PSS salt is captured. -/
def execOpRsaSign (seq : Nat) (inp : OpInput) (s : State) : Host.Outcome State Fault Refusal :=
  .next (execute s seq 0x0401 inp sizesOf fun t j i =>
    let salt := if inl8 j.desc 0x40 = 0 ∧ inl8 j.desc 0x42 ≠ 0 then captured t j 1 0 (inl8 j.desc 0x42) else []
    withPrivate t j (beNat (rsaEncode j.desc.paramSet (inl8 j.desc 0x40) (inl8 j.desc 0x41) i.in0 salt)) fun sig => ends t j (okOut sig []))

/-- OP_RSA_VERIFY (R279, R281). -/
def execOpRsaVerify (seq : Nat) (inp : OpInput) (s : State) : Host.Outcome State Fault Refusal :=
  .next (execute s seq 0x0402 inp sizesOf fun t j i =>
    let sp := splitSig j (jobAlg t j) i.in1
    publicKey t j (jobAlg t j) sp.2 fun pk =>
      ends t j (verdict (rsaVerify j.desc.paramSet pk (inl8 j.desc 0x40) (inl8 j.desc 0x41) (inl8 j.desc 0x42) i.in0 sp.1)))

/-- OP_RSA_ENCRYPT (R278, R279): the OAEP seed is captured. -/
def execOpRsaEncrypt (seq : Nat) (inp : OpInput) (s : State) : Host.Outcome State Fault Refusal :=
  .next (execute s seq 0x0403 inp sizesOf fun t j i =>
    publicKey t j 74 i.in1 fun pk =>
      ends t j (okOut (rsaEncrypt j.desc.paramSet pk (inl8 j.desc 0x41) i.in0 (captured t j 3 0 (phLen (inl8 j.desc 0x41)))) []))

/-- OP_RSA_DECRYPT (R278 to R280): the ciphertext check, then the private-key operation, then the decoding. -/
def execOpRsaDecrypt (seq : Nat) (inp : OpInput) (s : State) : Host.Outcome State Fault Refusal :=
  .next (execute s seq 0x0404 inp sizesOf fun t j i =>
    match oaepCheck (rsaModulus j.desc.paramSet (jobKey t j)) i.in0 with
    | some (reason, x) => ends t j (refuseInput reason x)
    | none => withPrivate t j (beNat i.in0) fun em => match oaepDecode (8 * j.desc.paramSet) (inl8 j.desc 0x41) em with
      | some m => ends t j (okOut m [])
      | none => ends t j (refuseInput 0x0406 0))

/-! ## NIST curves (R274, R279, R281 to R283) -/

/-- A private or ephemeral scalar by the extra-random-bits method of FIPS 186-5 (R282). -/
def nistScalar (alg ps : Nat) (c : Bytes) : Bytes := beBytes (ordWidth alg) (beNat c % (nistOrder ps - 1) + 1)

/-- A NIST-curve key generation. -/
def nistKeygen (cls : Nat) (s : State) (j : Job) (_ : OpIn) : State :=
  let alg := jobAlg s j
  let d := nistScalar alg j.desc.paramSet (captured s j 2 0 (ordWidth alg + 8))
  ends s j (keyPair s j cls alg (nistPublic j.desc.paramSet d) d)

/-- OP_ECDSA_KEYGEN (R282). -/
def execOpEcdsaKeygen (seq : Nat) (inp : OpInput) (s : State) : Host.Outcome State Fault Refusal :=
  .next (execute s seq 0x0410 inp sizesOf (nistKeygen 2))

/-- OP_ECDSA_SIGN (R283): the hedged nonce takes 32 captured bytes, the deterministic one none. -/
def execOpEcdsaSign (seq : Nat) (inp : OpInput) (s : State) : Host.Outcome State Fault Refusal :=
  .next (execute s seq 0x0411 inp sizesOf fun t j i =>
    let more := if inl8 j.desc 0x42 = 1 then [] else captured t j 1 0 32
    ends t j (okOut (ecdsaSign j.desc.paramSet (jobKey t j) i.in0 more) []))

/-- OP_ECDSA_VERIFY (R279, R281). -/
def execOpEcdsaVerify (seq : Nat) (inp : OpInput) (s : State) : Host.Outcome State Fault Refusal :=
  .next (execute s seq 0x0412 inp sizesOf fun t j i =>
    let sp := splitSig j (jobAlg t j) i.in1
    publicKey t j (jobAlg t j) sp.2 fun pk =>
      ends t j (verdict (ecdsaVerify j.desc.paramSet pk i.in0 sp.1)))

/-- OP_ECDH_KEYGEN (R282). -/
def execOpEcdhKeygen (seq : Nat) (inp : OpInput) (s : State) : Host.Outcome State Fault Refusal :=
  .next (execute s seq 0x0418 inp sizesOf (nistKeygen 3))

/-- The shared secret of a private key and a peer's value (R274). -/
def shared (alg ps : Nat) (d peer : Bytes) : Bytes := if alg ≤ 82 then ecdhSecret ps d peer else montgomery ps d peer

/-- An agreement with the held key, after the check of the peer's value (R279). -/
def derive (s : State) (j : Job) (i : OpIn) : State :=
  match keyCheck (jobAlg s j) j.desc.paramSet i.in0 with
  | some (reason, x) => ends s j (refuseInput reason x)
  | none => ends s j (okOut (shared (jobAlg s j) j.desc.paramSet (jobKey s j) i.in0) [])

/-- OP_ECDH_DERIVE (R274, R279). -/
def execOpEcdhDerive (seq : Nat) (inp : OpInput) (s : State) : Host.Outcome State Fault Refusal :=
  .next (execute s seq 0x0419 inp sizesOf derive)

/-- OP_ECDH_EPHEMERAL (R279, R282): the scalar is captured. -/
def execOpEcdhEphemeral (seq : Nat) (inp : OpInput) (s : State) : Host.Outcome State Fault Refusal :=
  .next (execute s seq 0x041A inp sizesOf fun t j i =>
    let alg := jobAlg t j
    match keyCheck alg j.desc.paramSet i.in0 with
    | some (reason, x) => ends t j (refuseInput reason x)
    | none =>
      let d := nistScalar alg j.desc.paramSet (captured t j 3 0 (ordWidth alg + 8))
      ends t j (okOut (nistPublic j.desc.paramSet d) (ecdhSecret j.desc.paramSet d i.in0)))

/-! ## Edwards and Montgomery curves (R274, R279, R281, R282, R286) -/

/-- A key generation whose private key is its captured value. -/
def seedKeygen (cls : Nat) (pub : Nat → Bytes → Bytes) (s : State) (j : Job) (_ : OpIn) : State :=
  let alg := jobAlg s j
  let d := captured s j 2 0 (heldLen alg j.desc.paramSet)
  ends s j (keyPair s j cls alg (pub j.desc.paramSet d) d)

/-- OP_EDDSA_KEYGEN (R275, R282). -/
def execOpEddsaKeygen (seq : Nat) (inp : OpInput) (s : State) : Host.Outcome State Fault Refusal :=
  .next (execute s seq 0x0420 inp sizesOf (seedKeygen 2 edPublic))

/-- OP_EDDSA_SIGN (R286): in pure mode the first execution absorbs the message on a hash stall. -/
def execOpEddsaSign (seq : Nat) (inp : OpInput) (s : State) : Host.Outcome State Fault Refusal :=
  .next (execute s seq 0x0421 inp sizesOf fun t j i =>
    ends t j (okOut (edSign j.desc.paramSet (inl8 j.desc 0x40) (jobKey t j) i.ext i.in0) []))

/-- OP_EDDSA_VERIFY (R279, R281, R286). -/
def execOpEddsaVerify (seq : Nat) (inp : OpInput) (s : State) : Host.Outcome State Fault Refusal :=
  .next (execute s seq 0x0422 inp sizesOf fun t j i =>
    let sp := splitSig j (jobAlg t j) i.in1
    publicKey t j (jobAlg t j) sp.2 fun pk =>
      ends t j (verdict (edVerify j.desc.paramSet (inl8 j.desc 0x40) pk i.ext i.in0 sp.1)))

/-- OP_XDH_KEYGEN (R282). -/
def execOpXdhKeygen (seq : Nat) (inp : OpInput) (s : State) : Host.Outcome State Fault Refusal :=
  .next (execute s seq 0x0428 inp sizesOf (seedKeygen 3 xPublic))

/-- OP_XDH_DERIVE (R274, R279). -/
def execOpXdhDerive (seq : Nat) (inp : OpInput) (s : State) : Host.Outcome State Fault Refusal :=
  .next (execute s seq 0x0429 inp sizesOf derive)

/-- OP_XDH_EPHEMERAL (R279, R282). -/
def execOpXdhEphemeral (seq : Nat) (inp : OpInput) (s : State) : Host.Outcome State Fault Refusal :=
  .next (execute s seq 0x042A inp sizesOf fun t j i =>
    let alg := jobAlg t j
    match keyCheck alg j.desc.paramSet i.in0 with
    | some (reason, x) => ends t j (refuseInput reason x)
    | none =>
      let d := captured t j 3 0 (heldLen alg j.desc.paramSet)
      ends t j (okOut (xPublic j.desc.paramSet d) (montgomery j.desc.paramSet d i.in0)))

end Sys2Proof.Machine
end

