-- ==== Sys2Proof/Machine/OpTack.lean ====
section
/-! DEFINITION. OpTack.lean: the tack-room opcodes (R329, R333 to R340, R345). Their effects at acceptance are Accept.lean's; here is
what their executions write. -/

namespace Sys2Proof.Machine

/-! ## Created keys (R329, R333, R337) -/

/-- The target is a blob to out0 (Table 15.8). -/
def toBlob (d : Desc) : Bool := inl32 d 0x48 == 0xFFFFFFFF

/-- The parent of a created key: a slot with its generation, or the paddock root; with its depth and whether it is revoked. -/
structure Parent where
  slot : Nat := 0xFFFE
  gen : Nat := 0
  depth : Nat := 0
  revoked : Bool := false
deriving DecidableEq, Repr

/-- The key in key_ref as the parent (R333): the paddock root where there is none. -/
def parentOf (s : State) (j : Job) : Parent :=
  match (if j.desc.keyRef = 0 then none else keyLoc j.paddock j.desc.keyRef) with
  | some (.slot n) => { slot := n, gen := (slotAt s n).gen, depth := (slotAt s n).depth, revoked := (slotAt s n).revoked }
  | _ => {}

/-- The key stands in its PENDING slot, with the state it is sealed under (R337, R342); an execution of an issued record writes none. -/
def fillSlot (s : State) (j : Job) (n : Nat) (key : Bytes) : State :=
  let p := parentOf s j
  if j.issued || (slotAt s n).state != 1 then s
  else
    modSlot s n fun x =>
      { x with cls := inl8 j.desc 0x4C, alg := inl8 j.desc 0x4D, paramSet := j.desc.paramSet, keyLen := key.length, attrs := inl64 j.desc 0x40,
               parent := p.slot, parentGen := p.gen, depth := p.depth + 1, revoked := p.revoked, material := key, sealState := s.lc.state,
               sealEpoch := s.lc.epoch }

/-- The handle of the key in a slot. -/
def slotHandle (s : State) (j : Job) (n : Nat) : Bytes := leBytes 8 (mkHandle j.paddock (inl8 j.desc 0x4C) (slotAt s n).gen n)

/-- A created key ends its job: a blob to out0, or the slot, whose sealed copies precede the completion word (R334, R337). -/
def createKey (s : State) (j : Job) (key : Bytes) : State :=
  if toBlob j.desc then
    ends s j (okOut (sealBlob s j (inl8 j.desc 0x4C) (inl8 j.desc 0x4D) j.desc.paramSet (inl64 j.desc 0x40) key) [])
  else
    let n := inl32 j.desc 0x48
    let s1 := ends (fillSlot s j n key) j (okOut (slotHandle s j n) [])
    if j.issued then s1 else awaitWrite s1 j

/-- OP_KEY_GENERATE (R337): the key is a captured value. -/
def execOpKeyGenerate (seq : Nat) (inp : OpInput) (s : State) : Host.Outcome State Fault Refusal :=
  .next (execute s seq 0x0F00 inp sizesOf fun t j _ => createKey t j (captured t j 2 0 (inl16 j.desc 0x4E)))

/-- OP_KEY_IMPORT (R335). -/
def execOpKeyImport (seq : Nat) (inp : OpInput) (s : State) : Host.Outcome State Fault Refusal :=
  .next (execute s seq 0x0F01 inp sizesOf fun t j i => createKey t j i.in0)

/-- OP_KEY_UNWRAP (R338): a failed integrity check writes nothing. -/
def execOpKeyUnwrap (seq : Nat) (inp : OpInput) (s : State) : Host.Outcome State Fault Refusal :=
  .next (execute s seq 0x0F02 inp sizesOf fun t j i =>
    match kwUnwrap (jobKey t j) i.in0 (inl16 j.desc 0x4E) with
    | some key => createKey t j (padTo (inl16 j.desc 0x4E) key)
    | none => ends t j (failWith 0x0402))

/-- R329: the label at in0, then class, algorithm, param_set, key_len and attributes, under the parent. -/
def derivedKey (s : State) (j : Job) (label : Bytes) : Bytes :=
  let ctx := slice j.desc.inline 12 2 ++ leBytes 2 j.desc.paramSet ++ slice j.desc.inline 14 2 ++ slice j.desc.inline 0 8
  kmac256 (jobKey s j) (label ++ ctx) (inl16 j.desc 0x4E) (ascii "ZQ7360-KDF")

/-- OP_KEY_DERIVE (R329). -/
def execOpKeyDerive (seq : Nat) (inp : OpInput) (s : State) : Host.Outcome State Fault Refusal :=
  .next (execute s seq 0x0F03 inp sizesOf fun t j i => createKey t j (derivedKey t j i.in0))

/-! ## Export (R338) -/

/-- Length of a key wrapped with AES-KW or AES-KWP. -/
def wrappedLen (n : Nat) : Nat := (n + 7) / 8 * 8 + 8

def exportSizes (s : State) (j : Job) : Nat × Nat := (wrappedLen (jobKey s j).length, 0)

/-- OP_KEY_EXPORT: the key wrapped under the class 1 key at inline 0x40. -/
def execOpKeyExport (seq : Nat) (inp : OpInput) (s : State) : Host.Outcome State Fault Refusal :=
  .next (execute s seq 0x0F04 inp exportSizes fun t j _ =>
    ends t j (okOut (kwWrap (heldKey t j (inl64 j.desc 0x40)) (jobKey t j)) []))

/-! ## Blob registration (R339, R340) -/

/-- The checks of R340 on a blob of a job. -/
def blobOk (s : State) (j : Job) (b : Bytes) : Bool :=
  let cls := u8 b 6
  let alg := u8 b 7
  let ps := u16 b 8
  let len := u16 b 0x0A
  let wk := jobKey s j
  u32 b 0 == 0x7ACB0B01 && u16 b 4 == 1 && allZero (slice b 0x0D 3) && allZero (slice b 0x24 4) && allZero (slice b 0x34 12) &&
  u8 b 0x0C == j.paddock && u32 b 0x20 == s.lc.epoch &&
  len + 80 == b.length && pairOk cls alg && placeOk cls len true && (if alg == 0 then ps == 0 else algHasSet alg ps) && keyLenOk cls alg ps len &&
  slice b 0x18 8 == wrapId wk && attrsOk (u64 b 0x10) j.keyWord j.paddock &&
  (gcmOpen wk (slice b 0x28 12) (b.take 0x40) (b.drop 0x40)).isSome

/-- The entry of a registered blob (R340, R345). -/
def fillBlob (s : State) (j : Job) (n : Nat) (b : Bytes) : State :=
  let p := parentOf s j
  if j.issued then s
  else
    modBlob s n fun x =>
      { x with present := true, paddock := j.paddock, cls := u8 b 6, alg := u8 b 7, paramSet := u16 b 8, keyLen := u16 b 0x0A, attrs := u64 b 0x10,
               parent := p.slot, parentGen := p.gen, depth := p.depth + 1, revoked := p.revoked, bytes := b }

/-- OP_BLOB_REGISTER (R340): the handle carries the class of the blob's header. -/
def execOpBlobRegister (seq : Nat) (inp : OpInput) (s : State) : Host.Outcome State Fault Refusal :=
  .next (execute s seq 0x0F05 inp sizesOf fun t j i =>
    let h := j.extra.getD 0
    let n := hIdx h - 0x80000000
    if !blobOk t j i.in0 then ends t j (failWith 0x0402)
    else
      let s1 := ends (fillBlob t j n i.in0) j (okOut (leBytes 8 (mkHandle j.paddock (u8 i.in0 6) (hGen h) (hIdx h))) [])
      if j.issued then s1 else awaitWrite s1 j)

/-! ## Restriction and revocation (R333, R345) -/

/-- The job ends once its word or its marks, which its acceptance set, stand in the hayloft. -/
def markJob (s : State) (j : Job) : State := if j.issued then ends s j {} else awaitWrite (ends s j {}) j

/-- OP_KEY_RESTRICT (R333). -/
def execOpKeyRestrict (seq : Nat) (inp : OpInput) (s : State) : Host.Outcome State Fault Refusal :=
  .next (execute s seq 0x0F06 inp sizesOf fun t j _ => markJob t j)

/-- OP_KEY_REVOKE (R345). -/
def execOpKeyRevoke (seq : Nat) (inp : OpInput) (s : State) : Host.Outcome State Fault Refusal :=
  .next (execute s seq 0x0F07 inp sizesOf fun t j _ => markJob t j)

end Sys2Proof.Machine
end

