-- ==== Sys2Proof/Machine/PlanCmds.lean ====
section
/-! DEFINITION. PlanCmds.lean: the commands of PL_CMD and what ends them (R86, R90 to R93, R105, R466, Table 04.16). -/

namespace Sys2Proof.Machine

/-- A plan change or a life-cycle transition is in progress: the command is refused with err 0x22 (R93, R105). -/
def plBusy (s : State) : Bool := s.pl.busy || s.lc.busy || s.lc.step != 0

def plErr (s : State) (err off : Nat) : State := { s with pl := { s.pl with err := err, errOffset := off } }

/-! ## LOAD_PARTIAL and the switch (R92) -/

/-- A stall that leaves the paddock: a running one moves its job at its next safe point, an idle one that is dirty is mucked out. -/
def drainStall (s : State) (n : Nat) : State :=
  if !swapRemoves s n then s
  else if (stAt s n).state = 2 then modSt s n fun x => { x with reqYield := true }
  else if (stAt s n).state = 1 ∧ (stAt s n).dirty = true then leaveStall s n
  else s

/-- Pause and drain begin; the partial image is written to the hayloft before the switch (R92). -/
def beginSwap (s : State) (w : PartialPlan) : State :=
  let s0 := { s with pl := { s.pl with swap := some w, busy := true, phase := 2, err := 0, errOffset := 0 }, hl := { s.hl with swapImage := some (w.paddock, w.image) } }
  let s1 := modPad s0 w.paddock fun x => { x with paused := true }
  (List.range 52).foldl drainStall s1

/-- LOAD_PARTIAL (R92): `image` is what the part reads at PL_IMG_ADDR. -/
def execLoadPartial (fn : Nat) (image : Bytes) (s : State) : Host.Outcome State Fault Refusal :=
  .next (if fn ≠ 0 ∨ regsUp s fn = false then s
  else if plBusy s then plErr s 0x22 0
  else match partialFault s image with
    | some e => plErr s e.1 e.2
    | none => beginSwap s (partialOf image))

/-- PARTIAL_SWITCH (R92): the drain is over. -/
def execPartialSwitch (s : State) : Host.Outcome State Fault Refusal :=
  .next (match s.pl.swap with
    | some w => if partialDrained s w then settle (switchPartial s w) else s
    | none => s)

/-- PARTIAL_DRAIN_TIMEOUT (R92): the old values stand. -/
def execPartialDrainTimeout (s : State) : Host.Outcome State Fault Refusal :=
  .next (if s.pl.swap.isSome then recheck (abandonSwap s 0x20) [2] else s)

/-- ABORT_SWAP (R93): as a drain timeout would. R93 counts an APPLY among the plan changes in progress, so its drain is abandoned too
(DEDUCED, log 104). -/
def execAbortSwap (fn : Nat) (value : W64) (s : State) : Host.Outcome State Fault Refusal :=
  .next (if fn = 0 ∧ regsUp s fn = true ∧ cmdOf value = 4 ∧ (s.pl.swap.isSome ∨ s.pl.applying = true) then recheck (abandonSwap s 0x20) [2] else s)

/-! ## STORE_IMAGE (R86, R91, R466) -/

/-- What R85 and R90 have against an image to be stored. -/
def storeFault (s : State) (b : Bytes) (partner : Bool) : Option (Nat × Nat) :=
  if imgKind b = 0x10 then planFault s b true partner
  else errAt 0x01 ((copyFault s b).or (if imgKind b ∈ slotKinds then none else some 0x006))

/-- The copies of a slot, on every channel that takes writes. -/
def writeCopies (s : State) (kind slot : Nat) (b : Bytes) : State :=
  let put := fun (m : SMap ImageCopy) c => if channelUp s c then smSet {} m (copyKey kind slot c) { bytes := b } else m
  { s with hl := { s.hl with images := put (put s.hl.images 0) 1 } }

/-- A directory that prefers the other slot of each kind, which has then not been booted yet (R466). -/
def flipDir (s : State) (kinds : List Nat) : State :=
  let d := dirNow s
  let flip := fun (m : SMap Nat) k => smSet 0 m k (1 - smGet 0 m k % 2)
  if kinds = [] then s else putDir s { d with prefer := kinds.foldl flip d.prefer, fresh := d.fresh.filter (fun k => !kinds.contains k) ++ kinds }

/-- An image of a kind that has slots is written into the non-preferred slot of both channels; what stood stored there is gone (R91). -/
def writeStored (s : State) (b : Bytes) : State :=
  let kind := imgKind b
  let s1 := writeCopies s kind (1 - preferredSlot s kind) b
  { s1 with pl := { s1.pl with stored := s1.pl.stored.filter (· != kind) } }

/-- The image stored has passed its checks: APPLY will prefer it; in BOOT_FAIL the directory prefers it at once (R91, R466). -/
def acceptStored (s : State) (kind : Nat) : State :=
  if s.sys.bootState = 4 then flipDir s [kind] else { s with pl := { s.pl with stored := s.pl.stored ++ [kind] } }

/-- STORE_IMAGE into the non-preferred slot, checked there under R85 and R90 (R91, R466). An image of no slot's kind, or longer than its
kind's greatest length, has nowhere to go (Table 04.6). In BOOT_FAIL NFc_WP_N is released for the write and driven low again after it. -/
def storeImage (s : State) (b : Bytes) (partner : Bool) : State :=
  let fits := slotKinds.contains (imgKind b) && decide (b.length ≤ kindMax (imgKind b))
  let s1 := plErr (if fits then writeStored s b else s) 0 0
  match storeFault s1 b partner with
  | some e => plErr s1 e.1 e.2
  | none => acceptStored s1 (imgKind b)

/-- STORE_IMAGE (R91): what the part reads at PL_IMG_ADDR; over I3C in BOOT_FAIL
alone (R83, Table 04.5). -/
def execStoreImage (fn : Nat) (sent : StoreInput) (s : State) : Host.Outcome State Fault Refusal :=
  .next (if !(plUp s fn || (sent.i3c && s.sys.porstN && s.sys.bootState == 4)) then s
  else if plBusy s then plErr s 0x22 0
  else storeImage s sent.image sent.partner)

/-! ## APPLY (R91) -/

/-- APPLY (R91): acceptance stops part-wide. While it waits for the live records PL_STATUS.phase shows 2, as a partial plan's drain does
(DESIGN CHOICE, log 104). -/
def execPlApply (fn : Nat) (value : W64) (s : State) : Host.Outcome State Fault Refusal :=
  .next (if fn ≠ 0 ∨ regsUp s fn = false ∨ cmdOf value ≠ 3 then s
  else if plBusy s then plErr s 0x22 0
  else auditAdd { s with pl := { s.pl with applying := true, busy := true, phase := 2, err := 0, errOffset := 0 } } 5 0)

/-- The stored slots become preferred (R91 step 3, R466). -/
def preferStored (s : State) : State :=
  let s1 := flipDir s s.pl.stored
  { s1 with pl := { s1.pl with stored := [] } }

/-- APPLY's drain is over: no record is live (R91). -/
def execPlApplyDrained (s : State) : Host.Outcome State Fault Refusal :=
  .next (if s.pl.applying && s.jobs.isEmpty then settle (warmReset (preferStored s) 2) else s)

/-- APPLY's drain has taken drain_ms: acceptance resumes (R91). -/
def execPlApplyDrainTimeout (s : State) : Host.Outcome State Fault Refusal :=
  .next (if s.pl.applying && !s.jobs.isEmpty then recheck (abandonSwap s 0x20) [2] else s)

end Sys2Proof.Machine
end

