-- ==== Sys2Proof/Machine/Regs.lean ====
section
/-! DEFINITION. Regs.lean: what every register of the map reads (R490 to R496, and the register table of each chapter). -/

namespace Sys2Proof.Machine

/-- Fields of a register: lowest bit, width and value. -/
def fields (l : List (Nat × Nat × Nat)) : Nat := (l.map fun e => (e.2.2 % 2 ^ e.2.1) * 2 ^ e.1).sum

/-- Word `w` of a byte string, 0 beyond its end. -/
def word64 (b : Bytes) (w : Nat) : Nat := u64 b (8 * w)

/-- Queues of a paddock that State lists. -/
def listedQueues (s : State) (p : Nat) : List Nat := (queueNums s).filter fun q => padOfQueue s q == some p

/-- Live records not yet executed again (Table 08.8). -/
def replayPending (s : State) : Nat := ((liveJobs s).filter fun j => j.replaying).length

/-! ## The per-function page (Table 23.1) -/

/-- SY_PADDOCK_STATUS of a paddock (R496, Table 23.5). -/
def paddockStatus (s : State) (p : Nat) : Nat :=
  if !padPresent s p then p
  else
    let qs := (listedQueues s p).map (qAt s)
    let low := s.tk.hbs.any fun e => e.2.present && e.2.paddock == p && decide (hbsTotalOf s e.1 - e.2.nNext ≤ e.2.lowMark)
    let faults := (outKeys s.fc).filter fun i => (outAt s.fc i).any fun e => e.cls == 1 && e.charged && e.paddock == p
    let cores := ((List.range 16).map fun n => if hasBit (padRec s p).coreMap n && (coreAt s n).state == 2 then 2 ^ n else 0).sum
    fields [(0, 5, p), (5, 1, 1), (6, 1, b1 (limitOf s p == 0)), (7, 1, b1 (s.pl.swap.any fun x => x.paddock == p)),
      (8, 1, b1 (qs.any fun x => x.state == 2)), (9, 1, b1 (qs.any fun x => x.state == 5)), (10, 1, b1 (qs.any fun x => x.defer != 0)),
      (11, 1, b1 ((liveJobs s).any fun j => j.paddock == p && j.replaying)), (12, 1, b1 low), (16, 8, faults.length), (32, 16, cores)]

/-- HI_FN_STATUS (Table 06.7): on a VF bound to no paddock the bound field and the paddock read 0 (R120). -/
def fnStatus (s : State) (n : Nat) (pad : Option Nat) : Nat :=
  let f := fnAt s n
  fields [(0, 5, pad.getD 0), (5, 1, b1 pad.isSome), (6, 1, b1 f.bme), (7, 2, f.dState), (9, 1, b1 f.msixEn),
    (10, 1, b1 (s.queues.any fun e => e.2.fn == n && e.2.state == 5)), (16, 16, f.denied), (32, 7, n)]

/-- Event source `e` can reach a function of paddock `p`: a VF has no register of a part-scope event, and no function one of another paddock's
core; a reserved number only stores (R8, R130, R498, Table 06.10). -/
def eventIn (s : State) (n p e : Nat) : Bool :=
  if 1 ≤ e ∧ e ≤ 6 then n == 0 else if 32 ≤ e ∧ e < 48 then padOfCore s (e - 32) == some p else true

/-- SY_ and HI_ registers of the page (Tables 06.7 to 06.10, 23.5). -/
def readSyHi (s : State) (n p off : Nat) : Nat :=
  let f := fnAt s n
  match off with
  | 0x0000 => fields [(0, 16, 0x7360), (16, 8, 0xB0), (24, 1, b1 (n != 0))]
  | 0x0008 => s.time
  | 0x0010 => if n = 0 then s.sys.paddockSel else 0
  | 0x0018 => paddockStatus s (if n = 0 then s.sys.paddockSel else p)
  | 0x1000 => fnStatus s n (some p)
  | 0x1008 => fields [(0, 1, b1 f.errTimeout), (1, 1, b1 f.errUrCa), (2, 1, b1 f.errPoisoned), (16, 16, f.errQueue), (32, 1, b1 f.errJob)]
  | _ =>
    if 0x2008 ≤ off ∧ off < 0x2800 ∧ eventIn s n p ((off - 0x2000) / 8) = true then
      let m := smGet {} f.evMap ((off - 0x2000) / 8)
      fields [(0, 11, m.vector), (15, 1, b1 m.en), (16, 1, b1 m.wake)]
    else if 0x4000 ≤ off ∧ off < 0x8000 ∧ (off - 0x4000) / 8 < vecTable s n then
      let v := vecAt s n ((off - 0x4000) / 8)
      fields [(0, 11, v.cntMax), (16, 10, v.timeUs), (32, 11, if fnSleeps s n then v.wakeCount else v.pending), (43, 1, b1 v.timerRun)]
    else 0

/-- The queue QM_Q_STAT_SEL names, when it is of the function's paddock (R8). -/
def statQueue (s : State) (n p : Nat) : Option Queue :=
  if padOfQueue s (fnAt s n).statSel = some p then some (qAt s (fnAt s n).statSel) else none

/-- QM_, JN_ and EN_ registers of the page (Tables 07.13 to 07.16, 08.9, 08.11, 16.6). QM_HALT_LOG is read by its own command. -/
def readQm (s : State) (n p off : Nat) : Nat :=
  let f := fnAt s n
  let q := statQueue s n p
  match off with
  | 0x8008 => f.qcRing
  | 0x8010 => fields [(0, 5, f.qcLog2), (5, 11, f.qcVector), (16, 1, b1 f.qcWake), (17, 1, b1 f.qcCrcReq), (18, 1, b1 f.qcIrqEn)]
  | 0x8018 => f.qcShadowAddr + b1 f.qcShadowEn
  | 0x8020 => fields [(0, 16, f.cmdQueue), (16, 4, f.cmdCmd), (20, 1, b1 f.cmdBusy), (21, 1, b1 f.cmdLost), (24, 8, f.cmdResult)]
  | 0x8028 => f.statSel
  | 0x8030 => q.elim 0 fun x => fields [(0, 17, x.p), (17, 17, x.a), (34, 17, x.t), (51, 3, x.state), (54, 2, x.defer), (56, 8, x.gen)]
  | 0x8038 => q.elim 0 fun x => fields [(0, 8, x.errReason), (8, 8, x.errDetail), (16, 17, x.errIndex), (48, 16, f.statSel)]
  | 0x8040 => q.elim 0 fun x => x.forgotten
  | 0x8050 =>
    fields [(0, 17, (padRec s p).yardCells), (17, 17, yardInUse s p), (34, 17, yardReserved s p), (51, 1, b1 (padAt s p).waitFor.isSome)]
  | 0x9000 =>
    fields [(0, 17, (padJobs s p).length), (17, 17, limitOf s p), (34, 4, (padAt s p).curGen.getD 15), (38, 1, b1 (servingGen s p).isSome)]
  | 0x9008 => q.elim 0 fun x => fields [(0, 1, b1 x.standby), (1, 1, b1 x.takenOver), (2, 17, x.recordedP.getD 0)]
  | 0x9010 => smGet 0 s.en.padEnergy p
  | _ => 0

/-- Word of a measurement register of 48-byte stride. -/
def mrWord (m : SMap Bytes) (o : Nat) : Nat := if o / 48 < 16 then word64 (smGet (zeros 48) m (o / 48)) (o % 48 / 8) else 0

/-- DG_ registers (Tables 13.8 to 13.10). -/
def readDg (s : State) (n p off : Nat) : Nat :=
  let f := fnAt s n
  let x := padAt s p
  if off < 0xA200 then word64 (smGet {} x.results ((off - 0xA000) / 64)).data ((off - 0xA000) % 64 / 8)
  else if off < 0xA240 then
    let r := smGet {} x.results ((off - 0xA200) / 8)
    fields [(0, 7, r.len), (7, 1, b1 r.valid), (8, 8, r.paramSet), (16, 48, r.seqLo)]
  else if 0xA300 ≤ off ∧ off < 0xA340 then word64 f.cmpExpect ((off - 0xA300) / 8)
  else if off = 0xA340 then fields [(0, 3, f.cmpSlot), (4, 7, f.cmpLen), (11, 1, b1 f.cmpGo)]
  else if off = 0xA348 then f.cmpEq.toNat
  else if off = 0xA350 then f.cmpNe.toNat
  else if 0xA400 ≤ off ∧ off < 0xA700 then mrWord x.mrs (off - 0xA400)
  else if 0xA800 ≤ off ∧ off < 0xAB00 then mrWord s.rng.ymr (off - 0xA800)
  else 0

/-- State of a blob entry as TK_SLOT_INFO shows it (Table 15.14, DEDUCED from the states of a slot: log entry 27). -/
def blobState (e : BlobEntry) : Nat := if !e.present then 0 else if e.revoked then 3 else if !e.ready then 1 else if e.loaded then 4 else 2

/-- TK_SLOT_INFO and TK_SLOT_ATTR of what TK_SLOT_SEL names, of the function's own paddock (Table 15.14, R8). -/
def slotInfo (s : State) (n p : Nat) : Nat × Nat :=
  let f := fnAt s n
  let word := fun (st cls alg gen parent pins : Nat) =>
    fields [(0, 3, st), (3, 4, cls), (7, 7, alg), (16, 23, gen), (40, 16, parent), (56, 8, min 255 pins)]
  if f.tkSelBlob then
    let e := blobAt s f.tkSel
    if e.present && e.paddock == p then (word (blobState e) e.cls e.alg e.gen e.parent (pinCount s (.blob f.tkSel)), e.attrs) else (0, 0)
  else if padOfSlot s f.tkSel = some p then
    let x := slotAt s f.tkSel
    (word x.state x.cls x.alg x.gen x.parent (pinCount s (.slot f.tkSel)), x.attrs)
  else (0, 0)

/-- TK_PADDOCK_p (Table 15.13). -/
def tkPaddock (s : State) (p : Nat) : Nat :=
  let own := s.tk.slots.filter fun e => padOfSlot s e.1 == some p
  let blobs := s.tk.blobs.filter fun e => e.2.present && e.2.paddock == p
  fields [(0, 15, (own.filter fun e => e.2.state == 1 || e.2.state == 2).length), (15, 15, (own.filter fun e => e.2.state == 4).length),
    (30, 17, (blobs.filter fun e => !e.2.revoked).length),
    (47, 16, min 0xFFFF ((own.filter fun e => e.2.state == 3).length + (blobs.filter fun e => e.2.revoked).length))]

/-- A core of the function's paddock (R8). -/
def ownCore (s : State) (p k : Nat) : Option Core := if k < 16 ∧ padOfCore s k = some p then some (coreAt s k) else none

/-- TK_, BX_, FC_, HL_ and LC_ registers of the page (Tables 15.13, 15.14, 16.7, 17.12, 18.7, 18.8, 20.12, 21.7, 05.11, 05.12). RN_WORD,
HL_LOG_DATA and LC_CERT_DATA are read by commands of their own. -/
def readUpper (s : State) (n p off : Nat) : Nat :=
  let f := fnAt s n
  match off with
  | 0xB100 => tkPaddock s p
  | 0xB108 => f.tkSel + b1 f.tkSelBlob * 2 ^ 16
  | 0xB110 => (slotInfo s n p).1
  | 0xB118 => (slotInfo s n p).2
  | 0xC000 => f.bxImgAddr
  | 0xD008 => f.fcResult
  | 0xD100 => f.hlLog + f.hlEntry * 2 ^ 32
  | 0xD200 => lcStatus s
  | 0xD208 => s.lc.deviceNumber
  | 0xD210 => f.certSel + (certOf s f.certSel).length * 2 ^ 16
  | _ =>
    if 0xC180 ≤ off ∧ off < 0xC200 then (ownCore s p ((off - 0xC180) / 8)).elim 0 fun c =>
      fields [(0, 2, c.state), (2, 1, b1 c.boot), (3, 1, b1 c.vecUp), (4, 3, c.windows.length), (8, 8, c.cmdErr), (16, 16, c.loads)]
    else if 0xC200 ≤ off ∧ off < 0xC280 then (ownCore s p ((off - 0xC200) / 8)).elim 0 fun c =>
      fields [(0, 8, c.lastCode), (8, 1, b1 c.trapActive), (9, 1, b1 c.double), (16, 16, c.traps), (32, 16, c.declass)]
    else if 0xC380 ≤ off ∧ off < 0xC400 then
      let x := feedAt s (p * 16 + (off - 0xC380) / 8)
      fields [(0, 1, b1 x.stopped), (1, 1, b1 x.atStart), (16, 12, x.entries.length), (32, 16, x.dropped)]
    else 0

/-! ## The part-wide blocks (Table 23.2) -/

/-- SY_ and PL_ (Tables 02.9, 04.13, 04.15, 04.16, 20.15). -/
def readSyPl (s : State) (off : Nat) : Nat :=
  let y := s.sys
  match off with
  | 0x100000 =>
    fields [(0, 1, b1 y.straps.nfv0), (1, 1, b1 y.straps.nfv1), (2, 2, y.straps.i3cAddr), (4, 1, b1 y.straps.twinSide),
      (5, 1, b1 y.straps.testEn), (6, 1, b1 y.straps.nf0Mismatch), (7, 1, b1 y.straps.nf1Mismatch)]
  | 0x100008 =>
    fields [(0, 1, b1 y.causeCold), (1, 1, b1 y.causeWarmSw), (2, 1, b1 y.causeWarmFatal), (3, 1, b1 y.causeWarmApply), (4, 1, b1 y.causeHif),
      (5, 1, b1 y.causeClock), (16, 32, y.paddockResets)]
  | 0x100020 => fields [(0, 5, y.stage), (5, 3, y.bootState), (8, 8, y.reason), (16, 4, y.fwSlot)]
  | 0x100028 => y.degraded
  | 0x110008 => s.pl.imgAddr
  | 0x110010 => s.pl.imgLen
  | 0x110018 =>
    fields [(0, 1, b1 s.pl.busy), (1, 2, s.pl.phase), (8, 8, s.pl.err), (16, 32, s.pl.errOffset), (48, 16, s.plan.serial)]
  | _ => 0

/-- The effective cap's source, and the other bits of EN_STATUS (Table 03.12). -/
def enStatus (s : State) : Nat :=
  fields [(0, 1, b1 s.en.reserveLow), (1, 1, b1 (s.queues.any fun e => e.2.defer == 1)), (2, 1, b1 s.en.capBinding), (3, 1, b1 s.en.calValid),
    (4, 1, b1 s.en.cmeas.isSome), (5, 1, b1 s.en.flushActive), (6, 2, (effectiveCap s).2)]

/-- JN_ and EN_ (Tables 08.7, 08.8, 08.10, 03.5 to 03.13). -/
def readJnEn (s : State) (off : Nat) : Nat :=
  let j := s.jn
  match off with
  | 0x120000 =>
    fields [(0, 1, b1 j.opened), (1, 1, b1 (replayPending s != 0)), (2, 1, b1 j.bank0), (3, 1, b1 j.bank1), (4, 1, b1 j.fromFlush),
      (5, 1, b1 j.lost), (6, 1, b1 j.shutdownDone), (7, 2, j.role), (16, 32, j.term)]
  | 0x120008 => fields [(0, 17, nLive s), (17, 4, nWriting s), (21, 17, replayPending s)]
  | 0x120010 => j.nextSeq
  | 0x120020 => fields [(0, 32, j.flushRecords), (32, 24, j.flushUs), (56, 8, j.flushResult)]
  | 0x130000 => ((List.range 24).map fun i => shedAt s i * 4 ^ i).sum
  | 0x130008 => ((List.range 14).map fun i => stepAt s i * 4 ^ i).sum
  | 0x130010 => fields [(0, 10, s.en.capQw), (16, 14, s.en.windowMs)]
  | 0x130018 => enStatus s
  | 0x130020 => fields [(0, 32, usableUj s), (32, 32, (needNj s (nLive s) + 500) / 1000)]
  | 0x130028 => fields [(0, 12, s.en.rawCode), (16, 16, vBankMv s), (32, 16, (BitVec.ofInt 16 s.en.offset).toNat), (48, 16, s.en.gain)]
  | 0x130030 => fields [(0, 16, s.en.recNj), (16, 32, s.en.fixedUj), (48, 16, stopUj s)]
  | _ => if 0x130100 ≤ off ∧ off < 0x1301C0 then smGet 0 s.en.meter ((off - 0x130100) / 8) else 0

/-- CK_, TK_, the stall registers and CR_SCAN_n (Tables 15.12, 16.5; chapter 23 for CK_ and CR_, whose layout is not given). -/
def readUnits (s : State) (off : Nat) : Nat :=
  if 0x140000 ≤ off ∧ off < 0x140020 then
    Config.statusWord ((off - 0x140000) / 8) [b1 s.sys.pllLocked, b1 s.sys.xtal, b1 s.sys.refclk, b1 s.tt.linkUp]
  else if off = 0x150000 then fields [(0, 1, b1 s.tk.unsealed), (1, 1, b1 s.tk.restoring), (2, 1, b1 s.tk.hold), (16, 32, s.tk.remask)]
  else if off = 0x150008 then fields [(0, 17, (s.tk.blobs.filter fun e => e.2.present).length), (32, 16, s.tk.lost)]
  else if 0x160000 ≤ off ∧ off < 0x160400 then
    let kind := (off - 0x160000) / 0x100 + 1
    let i := (off - 0x160000) % 0x100 / 8
    if i < kindCount kind then
      let x := stAt s (kindBase kind + i)
      fields [(0, 3, x.state), (3, 5, x.lastPaddock), (8, 1, b1 x.inPool), (9, 5, x.dedicated.getD 0), (16, 16, x.muckouts), (32, 32, x.runs)]
    else 0
  else if 0x170000 ≤ off ∧ off < 0x170020 then
    let k := (off - 0x170000) / 8
    let x := smGet {} s.scans k
    Config.statusWord (4 + k) [b1 x.busy, x.paddock, x.segments]
  else 0

/-- The outstanding entry FC_OUT_SEL names (Table 20.13). -/
def fcOut (s : State) : Nat := match outAt s.fc s.fc.outSel with
  | none => 0
  | some e =>
    fields [(0, 10, e.source), (10, 6, e.kind), (16, 1, 1), (17, 1, b1 e.acked), (18, 1, b1 e.escalated), (19, 1, b1 e.live), (20, 12, e.repeats),
      (32, 20, (e.deadline.elim 0 fun t => (t - s.time) / 1000)), (52, 5, e.paddock), (57, 1, b1 e.charged)]

/-- The greatest counter of a source's buckets, its threshold and whether its unit is retired (Table 20.14; log entry 13). -/
def fcBucket (s : State) : Nat :=
  let src := s.fc.bucketSel
  let mine := s.fc.buckets.filter fun e => e.1 % 1024 == src
  let rule := (List.range 64).filterMap fun k => bucketRule src k
  fields [(0, 8, (mine.map Prod.snd).foldl max 0), (8, 8, rule.headD 0), (16, 1, b1 (s.fc.retired.any fun e => e.1 % 1024 == src && e.2))]

/-- RN_, FC_, LC_, DB_ and TP_ (Tables 14.1, 14.3, 14.5, 20.10 to 20.15, 05.12, 19.7, 19.8). FC_LOG_MSG and RN_RAW_DATA are read by commands
of their own. -/
def readGuards (s : State) (off : Nat) : Nat :=
  let r := s.rng
  let c := s.fc
  let t := s.tp
  match off with
  | 0x180000 =>
    fields [(0, 1, b1 r.ready), (1, 1, b1 r.stopped), (2, 1, b1 r.rawMode), (3, 1, b1 r.katOk), (4, 5, countBits r.healthy 16),
      (16, 16, r.isolated), (32, 16, r.retired), (48, 8, r.cmdErr)]
  | 0x180010 => fields [(0, 16, r.rct), (16, 16, r.apt), (32, 32, r.discarded)]
  | 0x180020 => fields [(0, 10, r.fifo.length), (10, 1, b1 r.overflow), (11, 5, r.sel)]
  | 0x190000 =>
    fields [(0, 13, c.log.length), (13, 1, b1 c.severeLost), (16, 16, c.dropped), (32, 9, countOut c 1), (41, 5, countOut c 2)]
  | 0x190008 => (c.log.head?).elim 0 Prod.fst
  | 0x190018 => c.outSel
  | 0x190020 => fcOut s
  | 0x190028 => c.bucketSel
  | 0x190030 => fcBucket s
  | 0x190038 =>
    fields [(0, 6, c.claimed.getD 0x3F), (6, 1, b1 c.testing), (8, 24, c.passes), (32, 16, c.fails), (48, 16, c.overdue.length)]
  | 0x1A0008 => s.lc.tokenAddr
  | 0x1A0010 => s.lc.tokenLen
  | 0x1B0020 => fields [(1, 2, debugScope s)]
  | 0x1C0000 =>
    fields [(0, 1, b1 t.latched), (1, 2, t.response), (3, 1, b1 t.tamperHold), (4, 1, b1 t.resetRequired),
      (5, 1, b1 (s.stalls.any fun e => e.2.ratchet)), (6, 1, b1 t.sleepScramble), (8, 8, t.cmdErr), (16, 4, t.meshPending)]
  | 0x1C0008 => t.alarm
  | 0x1C0010 => t.live
  | 0x1C0018 => t.count
  | _ => if 0x1B0000 ≤ off ∧ off < 0x1B0020 then word64 (challenge s) ((off - 0x1B0000) / 8) else 0

/-- HL_, TT_ and LK_ (Tables 21.5 to 21.7, 22.7, 22.8). -/
def readStores (s : State) (off : Nat) : Nat :=
  let h := s.hl
  let x := testAt s s.lk.sel
  match off with
  | 0x1D0000 =>
    let bad := (List.range 8).any fun n => (targetAt s n).state == 2 || (targetAt s n).state == 0
    fields [(0, 1, b1 h.ready), (1, 1, b1 (bad || h.failed0 || h.failed1)), (2, 1, b1 h.rebuilding), (3, 1, b1 h.spaceLow), (4, 1, b1 h.flushReady),
      (5, 1, b1 h.wpReleased), (8, 8, h.cmdErr), (16, 32, h.singleCopy)]
  | 0x1E0000 =>
    let up := ((List.range 4).map fun n => if (laneAt s n).state == 1 then 2 ^ n else 0).sum
    fields [(0, 4, up), (4, 1, b1 s.tt.linkUp), (5, 1, b1 s.tt.hbIn), (6, 1, b1 s.tt.retraining), (16, 16, s.tt.retrains), (32, 32, s.tt.retransmits)]
  | 0x1F0000 => fields [(0, 7, s.lk.sel), (7, 3, s.lk.selTarget)]
  | 0x1F0008 => fields [(0, 3, x.pattern), (3, 1, b1 x.running), (16, 16, x.fixed)]
  | 0x1F0010 => fields [(0, 1, b1 x.running), (1, 1, b1 x.locked), (2, 1, b1 x.lost), (8, 8, x.err)]
  | 0x1F0018 => x.bits
  | 0x1F0020 => x.errs
  | _ =>
    if 0x1D0008 ≤ off ∧ off < 0x1D0048 then
      let t := targetAt s ((off - 0x1D0008) / 8)
      fields [(0, 3, t.state), (3, 1, b1 t.nvDdr3), (4, 4, t.mode), (8, 16, t.badBlocks), (24, 16, t.spares), (40, 16, t.maxErase / 16)]
    else if 0x1E0008 ≤ off ∧ off < 0x1E0028 then
      let l := laneAt s ((off - 0x1E0008) / 8)
      fields [(0, 2, l.state), (2, 2, l.preset), (16, 32, l.ce)]
    else 0

/-- Start of a function's MSI-X table in BAR0 (R123). -/
def msixBase (n : Nat) : Nat := if n = 0 then 0xFF0000 else 0x30000

/-- MSI-X table and PBA (R123, R132). -/
def readMsix (s : State) (n off : Nat) : Nat :=
  let o := off - msixBase n
  if o < 0x8000 then
    if vecTable s n ≤ o / 16 then 0
    else
      let v := vecAt s n (o / 16)
      if o % 16 = 0 then v.msgAddr else v.msgData + b1 v.mask * 2 ^ 32
  else
    ((List.range 64).map fun i => if (vecAt s n ((o - 0x8000) * 8 + i)).pba then 2 ^ i else 0).sum

/-- The 64 bits at an 8-byte slot of BAR0 of a function of paddock `p`; an offset that names no register reads 0 (R490). -/
def readReg (s : State) (n p off : Nat) : Nat :=
  if msixBase n ≤ off ∧ off < msixBase n + 0x10000 then readMsix s n off
  else if off < 0x8000 then readSyHi s n p off
  else if off < 0xA000 then readQm s n p off
  else if off < 0xB000 then readDg s n p off
  else if off < 0x100000 then readUpper s n p off
  else if n ≠ 0 then 0
  else if off < 0x120000 then readSyPl s off
  else if off < 0x140000 then readJnEn s off
  else if off < 0x180000 then readUnits s off
  else if off < 0x1D0000 then readGuards s off
  else readStores s off

/-! ## Which offsets answer (R82, R104, R120) -/

/-- Offsets of blocks that a boot stop still serves (R82). -/
def recoverySlot (s : State) (off : Nat) : Bool :=
  off == 0 || off == 0x100020 || (decide (0xD200 ≤ off) && decide (off ≤ 0xD218)) || (decide (0x1A0000 ≤ off) && decide (off < 0x1A0018)) ||
  (decide (0x1B0000 ≤ off) && decide (off < 0x1B0020)) || (s.sys.bootState == 4 && decide (0x110000 ≤ off) && decide (off < 0x110020)) ||
  (s.sys.bootState == 2 && decide (0x1C0000 ≤ off) && decide (off < 0x1C0028))

/-- A read is answered from the map: with every register served, in the recovery configuration, or after a transition the identity,
LC_STATUS and the certificates (R104). -/
def readable (s : State) (n off : Nat) : Bool :=
  regsUp s n || (recoveryUp s n && recoverySlot s off) || (lcUp s n && decide (0xD200 ≤ off) && decide (off ≤ 0xD210))

/-- What a read of an 8-byte slot returns: 0 on an unbound VF (R120) and where no register answers. -/
def readSlot (s : State) (n off : Nat) : Nat := match padOfFn s n with
  | none => if off = 0x1000 then fnStatus s n none else 0
  | some p => if readable s n off then readReg s n p off else 0

end Sys2Proof.Machine
end

