-- ==== Sys2Proof/Machine/RegCmds.lean ====
section
/-! DEFINITION. RegCmds.lean: writes of registers with no behaviour of their own, and reads of registers, the multi-word ones with
their latch (R7, R8, R490 to R494). -/

namespace Sys2Proof.Machine

/-- An access of 4 or 8 naturally aligned bytes (R124). -/
def regAligned (off size : Nat) : Bool := (size == 4 || size == 8) && off % size == 0

/-- The 8-byte slot of an offset. -/
def slotOff (off : Nat) : Nat := off / 8 * 8

/-! ## Writes (R7, R8, R492) -/

/-- A write as it meets a 64-bit slot: its bits in their places, and the bits it covers. -/
structure WVal where
  v : Nat := 0
  mask : Nat := 0
deriving DecidableEq, Repr

/-- The half or halves a write addresses (R492). -/
def wval (off size value : Nat) : WVal :=
  if size = 8 then { v := value, mask := 2 ^ 64 - 1 }
  else if off % 8 = 0 then { v := value % 2 ^ 32, mask := 2 ^ 32 - 1 }
  else { v := value % 2 ^ 32 * 2 ^ 32, mask := (2 ^ 32 - 1) * 2 ^ 32 }

/-- A RW field of `w` bits from `lo` after a write: the field lies whole in one half. -/
def rwField (x : WVal) (lo w old : Nat) : Nat := if hasBit x.mask lo then bits x.v lo w else old

/-- A RW register of 64 bits after a write. -/
def rwReg (x : WVal) (old : Nat) : Nat := (old &&& ((2 ^ 64 - 1) ^^^ x.mask)) ||| (x.v &&& x.mask)

/-- A RW flag. -/
def rwFlag (x : WVal) (lo : Nat) (old : Bool) : Bool := if hasBit x.mask lo then hasBit x.v lo else old

/-- A W1C flag after a write. -/
def w1c (x : WVal) (lo : Nat) (old : Bool) : Bool := old && !hasBit x.v lo

/-- The slot has a WO, W1S or XT field in a register of 64 bits: QM_Q_CTRL, and word 0 of DG_MR_m (Tables 07.12, 13.10). -/
def wideCommand (off : Nat) : Bool := off == 0x8000 || (decide (0xA400 ≤ off) && decide (off < 0xA700) && (off - 0xA400) % 48 == 0)

/-- Function-page registers HI_ (Tables 06.7, 06.8, 06.10, R8, R498). -/
def writeHi (s : State) (f : Fn) (n p off : Nat) (x : WVal) : Fn :=
  match off with
  | 0x1000 => if hasBit x.v 16 then { f with denied := 0 } else f
  | 0x1008 => { f with errTimeout := w1c x 0 f.errTimeout, errUrCa := w1c x 1 f.errUrCa, errPoisoned := w1c x 2 f.errPoisoned }
  | _ =>
    let e := (off - 0x2000) / 8
    if 0x2008 ≤ off ∧ off < 0x2800 ∧ eventIn s n p e = true then
      { f with evMap := smMod {} f.evMap e fun m =>
          { vector := rwField x 0 11 m.vector, en := rwFlag x 15 m.en, wake := rwFlag x 16 m.wake } }
    else f

/-- Staging and selector registers of the page (Tables 07.13 to 07.15, 15.14, 18.7, 21.7). -/
def writeSelectors (f : Fn) (off : Nat) (x : WVal) : Fn :=
  match off with
  | 0x8008 => { f with qcRing := rwReg x f.qcRing }
  | 0x8010 =>
    { f with qcLog2 := rwField x 0 5 f.qcLog2, qcVector := rwField x 5 11 f.qcVector, qcWake := rwFlag x 16 f.qcWake,
             qcCrcReq := rwFlag x 17 f.qcCrcReq, qcIrqEn := rwFlag x 18 f.qcIrqEn }
  | 0x8018 => { f with qcShadowEn := rwFlag x 0 f.qcShadowEn, qcShadowAddr := rwReg x f.qcShadowAddr / 16 * 16 }
  | 0x8020 => { f with cmdLost := w1c x 21 f.cmdLost }
  | 0x8028 => { f with statSel := rwField x 0 16 f.statSel }
  | 0xB108 => { f with tkSel := rwField x 0 16 f.tkSel, tkSelBlob := rwFlag x 16 f.tkSelBlob }
  | 0xC000 => { f with bxImgAddr := rwReg x f.bxImgAddr }
  | 0xD100 =>
    if hasBit x.mask 0 then { f with hlLog := bits x.v 0 2, hlEntry := 0, hlWord := 0 }
    else { f with hlEntry := bits x.v 32 32, hlWord := 0 }
  | _ => f

/-- Registers of the function's paddock: QM_HALT_LOG.overflow and BX_FEED_STATUS_f.dropped (Tables 07.16, 16.7). -/
def writePaddock (s : State) (p off : Nat) (x : WVal) : State :=
  if off = 0x8048 then modPad s p fun a => { a with haltOverflow := w1c x 25 a.haltOverflow }
  else if 0xC380 ≤ off ∧ off < 0xC400 then
    if hasBit x.v 32 then modFeed s (p * 16 + (off - 0xC380) / 8) fun a => { a with dropped := 0 } else s
  else s

/-- Part-wide registers, PF only (Tables 04.13, 04.16, 05.12, 14.5, 20.10, 20.13, 20.14, 22.7, 23.5). -/
def writePart (s : State) (off : Nat) (x : WVal) : State :=
  let y := s.sys
  match off with
  | 0x0010 => { s with sys := { y with paddockSel := rwField x 0 5 y.paddockSel } }
  | 0x100008 =>
    { s with sys := { y with
        causeCold := w1c x 0 y.causeCold, causeWarmSw := w1c x 1 y.causeWarmSw, causeWarmFatal := w1c x 2 y.causeWarmFatal,
        causeWarmApply := w1c x 3 y.causeWarmApply, causeHif := w1c x 4 y.causeHif, causeClock := w1c x 5 y.causeClock,
        paddockResets := y.paddockResets &&& ((2 ^ 32 - 1) ^^^ bits x.v 16 32) } }
  | 0x110008 => { s with pl := { s.pl with imgAddr := rwReg x s.pl.imgAddr } }
  | 0x110010 => { s with pl := { s.pl with imgLen := rwField x 0 24 s.pl.imgLen } }
  | 0x180020 => { s with rng := { s.rng with overflow := w1c x 10 s.rng.overflow } }
  | 0x190000 =>
    { s with fc := { s.fc with severeLost := w1c x 13 s.fc.severeLost, dropped := if hasBit x.v 16 then 0 else s.fc.dropped } }
  | 0x190018 => { s with fc := { s.fc with outSel := rwField x 0 8 s.fc.outSel } }
  | 0x190028 => { s with fc := { s.fc with bucketSel := rwField x 0 10 s.fc.bucketSel } }
  | 0x1A0008 => { s with lc := { s.lc with tokenAddr := rwReg x s.lc.tokenAddr } }
  | 0x1A0010 => { s with lc := { s.lc with tokenLen := rwField x 0 16 s.lc.tokenLen } }
  | 0x1F0000 => { s with lk := { s.lk with sel := rwField x 0 7 s.lk.sel, selTarget := rwField x 7 3 s.lk.selTarget } }
  | 0x1F0010 => if hasBit x.v 2 then modTest s s.lk.sel fun t => { t with lost := false } else s
  | _ => s

/-- The MSI-X table (R123, R132): address, data and mask; a mask that falls unmasks. -/
def writeMsix (s : State) (n off : Nat) (x : WVal) : State :=
  let o := off - msixBase n
  let v := o / 16
  if vecTable s n ≤ v then s
  else if o % 16 = 0 then modVec s n v fun a => { a with msgAddr := rwReg x a.msgAddr }
  else
    let old := vecAt s n v
    let s1 := modVec s n v fun a => { a with msgData := rwField x 0 32 a.msgData, mask := rwFlag x 32 a.mask }
    if old.mask && !(rwFlag x 32 old.mask) then unmask s1 n (some v) else s1

/-- A write to a slot of a function of paddock `p` (R490, Tables 23.1, 23.2). -/
def writeSlot (s : State) (n p off : Nat) (x : WVal) : State :=
  if msixBase n ≤ off ∧ off < msixBase n + 0x8000 then writeMsix s n off x
  else
    let s1 := if n = 0 then writePart s off x else s
    writePaddock (modFn s1 n fun f => writeSelectors (writeHi s1 f n p off x) off x) p off x

/-- A write reaches the map: with every register served, or in the recovery configuration (R82). -/
def writable (s : State) (n off : Nat) : Bool := regsUp s n || (recoveryUp s n && recoverySlot s off)

/-- REGISTER_WRITE (R7, R8, R492): each field after its access code; a 4-byte write to a 64-bit register with a WO, W1S or XT field is
counted. Registers whose write is a command of its own are left to that command. -/
def execRegisterWrite (fn offset size : Nat) (value : W64) (s : State) : Host.Outcome State Fault Refusal :=
  .next (if !writable s fn (slotOff offset) || !regAligned offset size then s
  else match padOfFn s fn with
    | none => s
    | some p =>
      if size = 4 ∧ wideCommand (slotOff offset) = true then deny s fn
      else writeSlot s fn p (slotOff offset) (wval offset size value.toNat))

/-! ## Reads (R492, R493) -/

/-- The multi-word register an 8-byte slot belongs to: its base and its words (R493). -/
def multiword (off : Nat) : Option (Nat × Nat) :=
  if 0xA000 ≤ off ∧ off < 0xA200 then some (off / 64 * 64, 8)
  else if 0xA300 ≤ off ∧ off < 0xA340 then some (0xA300, 8)
  else if 0xA400 ≤ off ∧ off < 0xA700 then some (0xA400 + (off - 0xA400) / 48 * 48, 6)
  else if 0xA800 ≤ off ∧ off < 0xAB00 then some (0xA800 + (off - 0xA800) / 48 * 48, 6)
  else if 0x1B0000 ≤ off ∧ off < 0x1B0020 then some (0x1B0000, 4)
  else none

/-- Registers whose read is a command of its own. -/
def readsAlone (off : Nat) : Bool := decide (off ∈ [0x8048, 0x190010, 0xB000, 0x180018, 0xD108, 0xD218])

/-- A read of word 0 latches every word for the function (R493). -/
def latchWords (s : State) (n base words : Nat) : State :=
  modFn s n fun f => { f with latch := smSet [] f.latch base ((List.range words).map fun w => BitVec.ofNat 64 (readSlot s n (base + 8 * w))) }

/-- The value of a slot as a function reads it: the latched word of a multi-word register, if one is latched. -/
def readLatched (s : State) (n off : Nat) : Nat := match multiword off with
  | none => readSlot s n off
  | some (base, _) => match (smGet [] (fnAt s n).latch base)[(off - base) / 8]? with
    | none => readSlot s n off
    | some w => w.toNat

/-- The bytes of a read: the addressed half, or one sample of the whole (R492). -/
def readBytes (off size v : Nat) : Bytes := if size = 8 then leBytes 8 v else leBytes 4 (bits v (off % 8 * 8) 32)

/-- The function's BAR0 answers reads: boot has passed step 10, or a boot stop has its recovery configuration. -/
def answers (s : State) (n : Nat) : Bool := regsUp s n || recoveryUp s n || lcUp s n

/-- MULTIWORD_READ (R490 to R493): a read of any register but those whose read is a command of its own. -/
def execMultiwordRead (fn offset size : Nat) (s : State) : Host.Outcome State Fault Refusal :=
  .next (if !answers s fn || !regAligned offset size || readsAlone (slotOff offset) then s
  else
    let off := slotOff offset
    let s1 := match multiword off with
      | none => s
      | some (base, words) => if off = base ∧ (padOfFn s fn).isSome ∧ readable s fn off = true then latchWords s fn base words else s
    reply s1 fn (readBytes offset size (readLatched s1 fn off)))

end Sys2Proof.Machine
end

