-- ==== Sys2Proof/Machine/RngCmds.lean ====
section
/-! DEFINITION. RngCmds.lean: the commands of the random source and its registers (R313, R316 to R326). -/

namespace Sys2Proof.Machine

/-! ## Health and start-up tests (R313 to R320) -/

/-- The source is powered and clocked. -/
def rngRuns (s : State) : Bool := s.sys.porstN && sysOn s && !s.en.flushActive && !s.sys.deepSleep

/-- RNG_HEALTH_FAIL (R318): the failure counts; while the source is ready a healthy group is isolated and reported. -/
def execRngHealthFail (group : Nat) (apt : Bool) (s : State) : Host.Outcome State Fault Refusal :=
  .next (if !rngRuns s || decide (16 ≤ group) || hasBit s.rng.retired group then s
  else
    let s1 := { s with rng := if apt then { s.rng with apt := satAdd 0xFFFF s.rng.apt 1 } else { s.rng with rct := satAdd 0xFFFF s.rng.rct 1 } }
    if s1.rng.ready && hasBit s1.rng.healthy group then settle (raiseFault s1 (0xC0 + group) 0x16 false 0 group) else s1)

/-- Start-up tests are in progress: at boot, after deep sleep or raw-sample mode, or by RESTART (R316). -/
def startupPending (s : State) : Bool :=
  rngRuns s && !s.rng.ready && !s.rng.rawMode && (!s.rng.stopped || s.rng.restarting) && (s.sys.wait == .random || s.sys.bootState == 1)

/-- The tests end; a boot that waited for them goes on (R317). -/
def endStartup (s : State) (passed : Nat) (kat : Bool) : State :=
  if !startupPending s then s
  else
    let s1 := runStartup s passed kat
    settle (if s1.sys.wait = .random ∧ (s1.rng.ready || s1.rng.stopped) = true then bootOpen s1 else s1)

/-- RNG_STARTUP_DONE (R316). -/
def execRngStartupDone (passed : Nat) (kat : Bool) (s : State) : Host.Outcome State Fault Refusal := .next (endStartup s passed kat)

/-- RNG_STARTUP_RETRY (R317): a repetition after a failed attempt. -/
def execRngStartupRetry (passed : Nat) (kat : Bool) (s : State) : Host.Outcome State Fault Refusal :=
  .next (if s.rng.attempts = 0 then s else endStartup s passed kat)

/-- RNG_RETEST (R318): an isolated group is tested alone, and rejoins when it passes. -/
def execRngRetest (group : Nat) (pass : Bool) (s : State) : Host.Outcome State Fault Refusal :=
  .next (if rngRuns s && !s.rng.rawMode && hasBit s.rng.isolated group && !hasBit s.rng.retired group && pass then
    { s with rng := { s.rng with isolated := clearBit s.rng.isolated group, healthy := setBit s.rng.healthy group } }
  else s)

/-- RNG_BLOCK_RELEASE (R313, R314): a block of healthy groups' bits joins the store of 64, and waiting requests are served. -/
def execRngBlockRelease (groups : Nat) (s : State) : Host.Outcome State Fault Refusal :=
  .next (if sourceServes s && decide (groups &&& (0xFFFF ^^^ s.rng.healthy) = 0) then
    serveStore (s.rng.waiting.length + 1) { s with rng := { s.rng with store := min 64 (s.rng.store + 1) } }
  else s)

/-- DRBG_RESEED (R321): an instance falls due; 32 is the yardmaster's. -/
def execDrbgReseed (inst : Nat) (s : State) : Host.Outcome State Fault Refusal :=
  .next (if inst = 32 then (if s.rng.ymDrbg.live then reseedYm s else s)
  else if (padAt s inst).drbg.live then reseedPad s inst
  else s)

/-! ## RN_CTRL (R320, R324 to R326) -/

/-- RN_CTRL is written by the PF alone. -/
def rnUp (s : State) (n : Nat) (v : W64) (cmd : Nat) : Bool := n == 0 && regsUp s n && cmdOf v == cmd

def rnErr (s : State) (e : Nat) : State := { s with rng := { s.rng with cmdErr := e } }

/-- RESTART (R320): refused in raw-sample mode; of a ready source it has the isolated groups retested at once; otherwise the start-up
tests begin over the groups not retired. -/
def execRngRestart (fn : Nat) (value : W64) (s : State) : Host.Outcome State Fault Refusal :=
  .next (if !rnUp s fn value 1 then s
  else if s.rng.rawMode then rnErr s 1
  else if s.rng.stopped then { s with rng := { s.rng with cmdErr := 0, restarting := true } }
  else rnErr s 0)

/-- The owner raw authorisation holds (R324). -/
def rawAuthorised (s : State) (t : Bytes) : Bool :=
  t.length == 4864 && u32 t 0 == 0xDB600A11 && u16 t 4 == 1 && u8 t 6 == 0x10 && u8 t 7 == s.lc.state && u64 t 8 == s.lc.deviceNumber &&
  slice t 0x10 32 == challenge s && allZero (slice t 0x30 80) && blockVerifies (ascii "RAW") s.lc.ownerDigest (t.take 128) (t.drop 128)

/-- Raw-sample mode begins (R325); its entry joins the audit log (R470). -/
def enterRaw (s : State) (sel : Nat) : State :=
  let s1 := { s with rng := { s.rng with cmdErr := 0, rawMode := true, ready := false, sel := sel, fifo := [], rawFrom := s.time } }
  recheck (auditAdd s1 6 sel) [3]

/-- RAW_ENTER (R324): in OWNED an authorisation is consumed and the challenge redrawn. -/
def execRawEnter (fn : Nat) (value : W64) (token : Bytes) (s : State) : Host.Outcome State Fault Refusal :=
  let sel := bits value.toNat 4 5
  .next (if !rnUp s fn value 2 then s
  else if 16 < sel ∨ s.rng.rawMode = true then rnErr s 1
  else if s.lc.state = 1 ∨ s.lc.state = 4 then enterRaw s sel
  else if s.lc.state = 3 then
    if rawAuthorised s token then enterRaw { s with dbg := { s.dbg with challengeDraw := s.freeCtr }, freeCtr := s.freeCtr + 1 } sel
    else rnErr s 2
  else rnErr s 1)

/-- RAW_EXIT (R326). -/
def execRawExit (fn : Nat) (value : W64) (s : State) : Host.Outcome State Fault Refusal :=
  .next (if !rnUp s fn value 3 then s
  else if s.rng.rawMode then recheck (endRaw (rnErr s 0)) [3]
  else rnErr s 1)

/-! ## Reads -/

/-- RN_WORD_READ (R323): one generate request of 7 bytes; 0 while the instance does not serve. -/
def execRnWordRead (fn : Nat) (s : State) : Host.Outcome State Fault Refusal :=
  .next (if !regsUp s fn then s
  else match padOfFn s fn with
    | none => reply s fn (zeros 8)
    | some p =>
      let s1 := if sourceServes s then dueReseed s p else s
      if !drbgServes s1 p then reply s1 fn (zeros 8)
      else reply (afterRequest s1 p 7) fn (generated s1 p 7 ++ [0xA5#8]))

/-- RN_RAW_DATA_READ (R325): the earliest word of the FIFO; 0 when it is empty or outside raw-sample mode. -/
def execRnRawDataRead (fn : Nat) (s : State) : Host.Outcome State Fault Refusal :=
  .next (if !regsUp s fn then s
  else match (if fn = 0 ∧ s.rng.rawMode = true then s.rng.fifo else []) with
    | [] => reply s fn (zeros 8)
    | w :: r => reply { s with rng := { s.rng with fifo := r } } fn (leBytes 8 w.toNat))

end Sys2Proof.Machine
end

