-- ==== Sys2Proof/Machine/StallCmds.lean ====
section
/-! DEFINITION. StallCmds.lean: the commands of the dispatcher, the stalls and the farrier (R352 to R360, R371 to R373, R424, R453 to R455,
R269, R287, R304). -/

namespace Sys2Proof.Machine

/-! ## Dispatch (R16, R53, R358, R360) -/

/-- The job starts, or goes on, on the stall. -/
def startJob (s : State) (n : Nat) (j : Job) : State :=
  let s1 := modJob s j.seq fun x =>
    { x with phase := .running, stall := some n, stallId := stallId n, dispatched := true,
             resumed := if x.context.isSome then x.resumed else x.checkpoint.isSome,
             context := none, cells := x.cells + cellsNeeded s j, legs := x.legs + 1 }
  let s2 := modSt s1 n fun x =>
    { x with state := 2, jobs := x.jobs ++ [j.seq], lastPaddock := j.paddock, runs := if j.context.isSome then x.runs else (x.runs + 1) % 2 ^ 32,
             operand := (if x.scrubDue then [] else x.operand) ++ stallOperands s j, sequ := startSequencer s n j, prefEnded := false,
             dirty := true, scrubDue := false, cmdWr := (x.cmdWr + 1) % 32, cmdRd := (x.cmdRd + 1) % 32, reservedFor := none }
  if entryValid s n j.desc then s2 else raiseFault s2 n 0x06 false 0 0

/-- A free hash stall with no job to run computes the next tree of a stateful key; the muck-out R16 asks for comes first (R240). -/
def startTree (s0 : State) (k slot : Nat) : State :=
  let s := workFor s0 (stallShed k)
  let p := (hbsAt s slot).paddock
  if (stAt s k).muckAtWake || ((stAt s k).dirty && (stAt s k).lastPaddock != p) then modSt (startMuck s k 0) k fun x => { x with muckAtWake := false }
  else modSt s k fun x => { x with state := 2, tree := some slot, lastPaddock := p, dirty := true, prefEnded := false }

/-- The stall must be mucked out before this job: another paddock's job ran on it last, or it was mapped in as a spare (R16, R372, R457). -/
def muckBefore (x : Stall) (j : Job) : Bool := x.muckAtWake || (x.dirty && x.lastPaddock != j.paddock)

/-- A free stall is given its job; the muck-out R16 asks for comes first, and a job that finds no cells waits (R360). -/
def dispatch (s : State) (n : Nat) : State :=
  match nextJob s n with
  | none => match (if (stAt s n).reservedFor.isNone then treeFor s n else none) with
    | some k => startTree s n k
    | none => s
  | some j =>
    let s0 := workFor s (stallShed n)
    if !cellsFit s0 j then
      modPad s0 j.paddock fun x => { x with waitFor := some (match waitingJob s0 j.paddock with
        | some w => min w j.seq
        | none => j.seq) }
    else if (stAt s0 n).state = 1 ∧ muckBefore (stAt s0 n) j = true then
      modSt (startMuck s0 n 0) n fun x => { x with reservedFor := some j.seq, muckAtWake := false }
    else startJob s0 n j

/-- DISPATCH (R358). -/
def execDispatch (stall : Nat) (s : State) : Host.Outcome State Fault Refusal :=
  .next (if dispatchRuns s && decide (stall < 52) then dispatch s stall else s)

/-- LOW_PRIO_PROMOTE (R358). -/
def execLowPrioPromote (seq : Nat) (s : State) : Host.Outcome State Fault Refusal :=
  .next (modJob s seq fun j => if j.phase == .staged && bits j.desc.flags 1 2 == 2 then { j with promoted := true } else j)

/-- Staged jobs the stall could run if it were free. -/
def waitingFor (s : State) (n : Nat) : List Job :=
  (liveJobs s).filter fun j => canStart s j && needKind s j == stallKind n && mayUse s j.paddock n && offered s n

/-- POOL_PREFERENCE_EXPIRY (R359): a job of another paddock has waited 50 µs for the stall. -/
def execPoolPreferenceExpiry (stall : Nat) (s : State) : Host.Outcome State Fault Refusal :=
  .next (if (stAt s stall).inPool && (waitingFor s stall).any (fun j => j.paddock != (stAt s stall).lastPaddock) then
    modSt s stall fun x => { x with prefEnded := true }
  else s)

/-! ## Yields (R269, R287, R304) -/

/-- A yield is asked of a running stall for the first waiting job that `ok` admits, of equal or higher prio than what runs. -/
def askYield (s : State) (n : Nat) (ok : Job → Job → Bool) : State :=
  let running := (stAt s n).jobs.filterMap (jobOf s)
  let fits := fun (w : Job) => running.all fun r => decide (prioRank w ≤ prioRank r) && ok r w
  match firstJob ((waitingFor s n).filter fits) with
  | none => s
  | some w =>
    if (stAt s n).state = 2 ∧ running ≠ [] then
      modSt s n fun x => { x with reqYield := true, reservedFor := some w.seq }
    else s

/-- PKE_YIELD_REQUEST (R287): the waiting job is the shorter one and has waited 50 µs. -/
def execPkeYieldRequest (stall : Nat) (s : State) : Host.Outcome State Fault Refusal :=
  .next (if stallKind stall = 3 then askYield s stall fun _ _ => true else s)

/-- DIGEST_YIELD_REQUEST (R304): of digest and MAC jobs. -/
def execDigestYieldRequest (stall : Nat) (s : State) : Host.Outcome State Fault Refusal :=
  .next (if stallKind stall = 2 then askYield s stall fun r _ => isDigest r.desc else s)

/-- MCE_YIELD_REQUEST (R269): a McEliece key generation to an encapsulation or decapsulation. -/
def execMceYieldRequest (stall : Nat) (s : State) : Host.Outcome State Fault Refusal :=
  .next (if stallKind stall = 4 then
    askYield s stall fun r w => r.desc.opcode == 0x0300 && decide (w.desc.opcode ∈ [0x0301, 0x0302, 0x0311, 0x0312])
  else s)

/-! ## Safe points (R353 to R356, Table 16.2) -/

/-- Every job of the stall saves its context, the resume address with it, under fresh masks and goes back to the yard; the stall is mucked out. -/
def moveAway (s : State) (n position : Nat) : State :=
  clearStall (draw s).2 n (moveJob { resumeAt := (stAt s n).sequ.upc, position := position, maskDraw := s.freeCtr })

/-- The first of the pending requests is acted on: fault, stop, claim, yield (R354). -/
def sample (s : State) (n position : Nat) : State :=
  let x := stAt s n
  if x.reqFault then
    let s1 := moveAway s n position
    { s1 with fc := { s1.fc with ahead := s1.fc.ahead ++ [n] } }
  else
    let stop := x.jobs.filter (stopsHere s)
    if x.reqStop && !stop.isEmpty then stop.foldl (fun t q => abortJob t q 0x0A01) s
    else if x.reqClaim || x.reqYield then moveAway s n position
    else s

/-- A job at a safe point of its routine: it may have passed a commit point, written a checkpoint where the routine writes them, or begun its
output write (R353, R233, R268, R286). -/
def markedJob (commit checkpoint output : Bool) (position : Nat) (j : Job) : Job :=
  let ck := checkpoint && writesCheckpoints j.desc
  { j with committed := j.committed || (commit && writesCheckpoints j.desc) || ck || output, inOutput := j.inOutput || output,
           checkpoint := if ck then some position else j.checkpoint, drawn := if ck then j.cells else j.drawn }

/-- The stall stands at a safe point: its routine has one, or begins its output write (R354, Table 16.1). -/
def atSafePoint (s : State) (n : Nat) (output : Bool) : Bool :=
  (stAt s n).state == 2 && (output || (stAt s n).tree.isSome || (stAt s n).jobs.any fun q => (jobOf s q).any mayPause)

/-- STALL_SAFE_POINT (R354). -/
def execStallSafePoint (stall : Nat) (commit checkpoint output : Bool) (position : Nat) (s : State) : Host.Outcome State Fault Refusal :=
  .next (if atSafePoint s stall output then
    let l := (stAt s stall).jobs
    settle (sample (setJobs s (s.jobs.map fun j => if isLive j && l.contains j.seq then markedJob commit checkpoint output position j else j))
      stall position)
  else s)

/-! ## Muck-out (R371 to R373) -/

/-- A passed muck-out: where the stall goes. -/
def muckPassed (s : State) (n : Nat) : State :=
  let s1 := clearReset (modSt s n fun x => { x with muckouts := satAdd 0xFFFF x.muckouts 1, dirty := false, operand := [], muckFailed := false, muckThen := 0 }) n
  match (stAt s n).muckThen with
  | 1 =>
    if s1.fc.claimed == some n then { modSt s1 n (fun x => { x with state := 4 }) with fc := { s1.fc with testing := true } }
    else modSt s1 n fun x => { x with state := 1 }
  | 2 => { modSt s1 n (fun x => { x with state := 1 }) with fc := if s1.fc.claimed == some n then { s1.fc with claimed := none, testing := false } else s1.fc }
  | 3 =>
    let s2 := modSt s1 n fun x => { x with state := 1 }
    if (shedStalls (stallShed n)).all (fun k => (stAt s2 k).state == 1 && !(stAt s2 k).dirty || (stAt s2 k).state == 5) then sleepShed s2 (stallShed n) else s2
  | _ => modSt s1 n fun x => { x with state := 1 }

/-- MUCKOUT_DONE (R371, R373). -/
def execMuckoutDone (stall : Nat) (zero : Bool) (s : State) : Host.Outcome State Fault Refusal :=
  .next (if (stAt s stall).state = 3 then
    settle (if zero then muckPassed s stall
      else if (stAt s stall).muckFailed then raiseFault s stall 0x0A false 0 0
      else modSt s stall fun x => { x with muckFailed := true })
  else s)

/-- UCODE_RELOAD_DONE (R352): the store holds the image again; the stall waits for the farrier's self-test. -/
def execUcodeReloadDone (stall : Nat) (s : State) : Host.Outcome State Fault Refusal :=
  .next (if (stAt s stall).unsound && !(stAt s stall).ucodeOk then
    { modSt s stall (fun x => { x with ucodeOk := true }) with fc := { s.fc with ahead := s.fc.ahead ++ [stall] } }
  else s)

/-! ## The farrier (R453 to R455) -/

/-- The farrier takes a stall: a running one gives it up at its next safe point. -/
def claimStall (s : State) (n : Nat) : State :=
  let s1 := { s with fc := { s.fc with claimed := some n, overdue := s.fc.overdue.filter (· != n), ahead := s.fc.ahead.filter (· != n) } }
  match (stAt s n).state with
  | 1 => startMuck s1 n 1
  | 3 => modSt s1 n fun x => { x with muckThen := 1 }
  | 2 => modSt s1 n fun x => { x with reqClaim := true }
  | _ => s1

/-- The rotation passes over a stall (R453); one whose shed is off is overdue. -/
def skipped (s : State) (n : Nat) : Bool :=
  (stAt s n).state == 5 || shedPolicy s (stallShed n) == 2 || decide (kindSound s (stallKind n) < kindGuaranteed (stallKind n) + 1)

/-- The shed of a stall is not ON: the rotation counts it overdue. -/
def farrierWaits (s : State) (n : Nat) : Bool := shedAt s (stallShed n) != 2

/-- The stalls from the next of the rotation on. -/
def rotation (s : State) : List Nat := (List.range 52).map fun i => (s.fc.nextStall + i) % 52

/-- FARRIER_CLAIM (R453, R455): an acknowledged stall first, then an overdue one whose shed is ON, then the next of the rotation. -/
def execFarrierClaim (s : State) : Host.Outcome State Fault Refusal :=
  .next (if s.fc.claimed.isSome || s.en.flushActive || s.sys.bootState != 1 || s.sys.deepSleep then s
  else
    let first := s.fc.ahead.find? fun n => (stAt s n).state != 5 && (stAt s n).ucodeOk && !farrierWaits s n
    match first.or (s.fc.overdue.find? fun n => !skipped s n && !farrierWaits s n) with
    | some n => claimStall s n
    | none => match (rotation s).find? (fun n => !skipped s n) with
      | none => s
      | some n =>
        let s1 := { s with fc := { s.fc with nextStall := (n + 1) % 52 } }
        if farrierWaits s n then
          { s1 with fc := { s1.fc with overdue := if s1.fc.overdue.contains n then s1.fc.overdue else s1.fc.overdue ++ [n] },
                    en := { s1.en with wakes := if s1.en.wakes.contains (stallShed n) then s1.en.wakes else s1.en.wakes ++ [stallShed n] } }
        else claimStall s1 n)

/-- SELFTEST_DONE (R454): a pass is mucked out again on its way back, anything else retires the stall. -/
def execSelftestDone (pass : Bool) (s : State) : Host.Outcome State Fault Refusal :=
  .next (match s.fc.claimed with
    | none => s
    | some n =>
      if !s.fc.testing || (smGet {} s.lk.tests (32 + n)).running then s
      else
        let s1 := { s with fc := { s.fc with testing := false } }
        if pass then
          let s2 := sourceEnds (modSt s1 n fun x => { x with unsound := false }) n
          startMuck { s2 with fc := { s2.fc with passes := satAdd 0xFFFFFF s2.fc.passes 1 } } n 2
        else settle (raiseFault { s1 with fc := { s1.fc with fails := satAdd 0xFFFF s1.fc.fails 1, claimed := none } } n 0x0B false 0 0))

/-- STALL_SOURCE_RESEED (R424). -/
def execStallSourceReseed (stall : Nat) (s : State) : Host.Outcome State Fault Refusal :=
  .next (if stall < 52 then seedStall s stall else s)

end Sys2Proof.Machine
end

