-- ==== Sys2Proof/Machine/TackCmds.lean ====
section
/-! DEFINITION. TackCmds.lean: the background work of the tack room and the public-key cache (R260, R341 to R343). -/

namespace Sys2Proof.Machine

/-! ## Loading a blob key (R341) -/

/-- The held form inside a registered blob, opened under its wrapping key (R339, R340). -/
def openBlob (s : State) (b : Nat) : Option Bytes :=
  let e := blobAt s b
  gcmOpen (slotAt s e.parent).material (slice e.bytes 0x28 12) (e.bytes.take 0x40) (e.bytes.drop 0x40)

/-- A live job waits for the blob. -/
def waitsBlob (b : Nat) (j : Job) : Bool := isLive j && j.waitKey && (blobsOf j.paddock j.desc).contains b

/-- The key stands in its reserved slots; jobs that waited for it go on. -/
def blobLoaded (s : State) (b k : Nat) (key : Bytes) : State :=
  let s1 := modBlob (modSlot s k fun x => { x with material := key }) b fun e => { e with loaded := true }
  { s1 with jobs := s1.jobs.map fun j => if waitsBlob b j then { j with waitKey := false } else j }

/-- The key cannot be loaded: the jobs that wait end ST_KEY_ABSENT, detail 0x02, and its slots come free (R341, R191). -/
def blobFails (s : State) (b : Nat) : State :=
  unloadBlob (retireSilents ((s.jobs.filter (waitsBlob b)).foldl (fun t j => loseJob t j 0x0402) s)) b

/-- The load of one blob. -/
def loadBlob (s : State) (read0 read1 : Bool) (b : Nat) : State :=
  let e := blobAt s b
  match e.loadedAt with
  | none => s
  | some k =>
    if e.loaded then s
    else if !((read0 && e.copy0 && !s.hl.failed0) || (read1 && e.copy1 && !s.hl.failed1)) then blobFails s b
    else match openBlob s b with
      | some key => blobLoaded s b k key
      | none => blobFails s b

/-- BLOB_LOAD_DONE (R341): the copies that could be read, for the blob a job names. -/
def execBlobLoadDone (seq : Nat) (read0 read1 : Bool) (s : State) : Host.Outcome State Fault Refusal :=
  .next (match jobOf s seq with
    | none => s
    | some j => if j.waitKey && !s.en.flushActive && !tackRefuses s then
        settle ((blobsOf j.paddock j.desc).foldl (fun t b => loadBlob t read0 read1 b) s)
      else s)

/-! ## The restore of slots (R342) -/

/-- A staged job names a slot that the restore has lost. -/
def namesLost (s : State) (j : Job) : Bool :=
  isLive j && j.phase == .staged && j.fixed == 0 && (handlesOf j.desc).any fun h => hCls h != 8 && (match keyLoc j.paddock h with
    | some (.slot n) => (slotAt s n).state == 6
    | _ => false)

/-- Slots to be restored: those that live records name first, then the others, each in ascending order. -/
def restoreOrder (s : State) : List Nat :=
  let l := (smKeys s.tk.slots).filter fun n => (slotAt s n).state == 5
  (l.filter fun n => pinned s (.slot n)) ++ l.filter fun n => !pinned s (.slot n)

/-- TK_RESTORE (R342): every slot restored or lost; a job of a lost one ends ST_KEY_ABSENT, detail 0x01 (log entry 25). -/
def execTkRestore (s : State) : Host.Outcome State Fault Refusal :=
  .next (if s.tk.restoring && s.tk.unsealed && !s.tk.hold && !s.en.flushActive then
    let s1 := (restoreOrder s).foldl restoreSlot s
    let s2 := { s1 with tk := { s1.tk with restoring := false } }
    settle (retireSilents ((s2.jobs.filter (namesLost s2)).foldl (fun t j => loseJob t j 0x0401) s2))
  else s)

/-! ## The restore of sticky cache entries (R260) -/

/-- STICKY_RESTORE (R260): entries come back from the hayloft with their handles unchanged. -/
def execStickyRestore (s : State) : Host.Outcome State Fault Refusal :=
  .next (if s.sys.bootState = 1 ∧ s.en.flushActive = false ∧ (s.hl.failed0 && s.hl.failed1) = false then
    { s with cache := smMap {} (fun _ (e : CacheEntry) => if e.restoring then { e with restoring := false, complete := true } else e) s.cache }
  else s)

/-! ## Remasking (R343) -/

/-- REMASK_PASS (R343): a pass under a freshly drawn mask key, once the output store can serve it (R314). -/
def execRemaskPass (s : State) : Host.Outcome State Fault Refusal :=
  .next (if s.tk.unsealed && sysOn s && !s.rng.stopped && !s.en.flushActive then request s 1024 else s)

end Sys2Proof.Machine
end

