-- ==== Sys2Proof/Machine/TamperCmds.lean ====
section
/-! DEFINITION. TamperCmds.lean: the tamper monitor (R429 to R439, Tables 19.3 to 19.9). -/

namespace Sys2Proof.Machine

/-! ## Trips (R429 to R434) -/

/-- Source class of a source bit (Tables 19.3, 19.4); the journal seal has none. -/
def tamperClass (source : Nat) : Option Nat := if source < 4 then some 0 else if source < 9 then some (source - 3) else none

/-- The response of a source in the present state (R432, R433): source 9 holds; outside FACTORY to RETURNED an alarm is logged only. -/
def responseOf (s : State) (source : Nat) : Nat :=
  match tamperClass source with
  | none => 1
  | some c => if 1 ≤ s.lc.state ∧ s.lc.state ≤ 4 then smGet 0 s.plan.tamper.resp (6 * (s.lc.state - 1) + c) else 0

/-- The source is evaluated: a mesh pair that is pending or that the plan marks absent is not (R430), and an under-voltage in a flush does
not trip (R431). -/
def sourceTrips (s : State) (source : Nat) (high : Bool) : Bool :=
  s.sys.porstN && decide (source < 10) && !hasBit s.tp.meshOff source && !hasBit s.tp.meshPending source &&
  !(source == 5 && !high && s.en.flushActive)

/-- The condition of a source holds; the journal seal is an event (R439). -/
def setLive (s : State) (source : Nat) : State :=
  if source = 9 then s else { s with tp := { s.tp with live := setBit s.tp.live source } }

/-! ## An alarm in operation (R437, R438) -/

/-- Work stops: running jobs end ST_ABORTED_TAMPER, their stalls are mucked out, cores stop, sessions, raw-sample mode and link tests
end, a transition in steps 1 to 4 is abandoned, every paddock's digest state is cleared (Table 19.6 steps 2, 4 and 5, R105, R480). -/
def stopWork (s : State) : State :=
  let s1 := (s.jobs.filter fun j => isLive j && j.phase == .running).foldl (fun t j => loseJob t j 0x0B00) s
  let s2 := (List.range 16).foldl stopCore s1
  clearAllDigests (abandonTransition (endTests (endSession (endRaw s2))))

/-- The effects of Table 19.6 under a response; log only has none. -/
def alarmActs (s : State) (resp : Nat) : State := if resp = 0 then s else retireSilents (tackAct (stopWork s) resp)

/-- A trip in operation: latched, counted and logged; the strongest response so far applies (R434, R437). -/
def tripNow (s : State) (source : Nat) : State :=
  let r := responseOf s source
  alarmActs (setLive (latchAlarm s source r) source) (if r = 0 then 0 else max r s.tp.response)

/-- TAMPER_TRIP (R437): in operation, from step 14 of cold boot on. -/
def execTamperTrip (source : Nat) (high : Bool) (s : State) : Host.Outcome State Fault Refusal :=
  .next (if sourceTrips s source high && decide (14 ≤ s.sys.stage) && decide (s.sys.bootState ≤ 1) && !s.sys.deepSleep then
    settle (tripNow s source)
  else s)

/-- TAMPER_TRIP_AT_BOOT (R433, R435): before step 14 completes, or in a boot stop. -/
def execTamperTripAtBoot (source : Nat) (high : Bool) (s : State) : Host.Outcome State Fault Refusal :=
  .next (if sourceTrips s source high && (decide (s.sys.stage < 14) || decide (2 ≤ s.sys.bootState)) then
    setLive (bootTamper s source) source
  else s)

/-- TAMPER_TRIP_DEEP_SLEEP (R436): the mask keys are overwritten with the reserve, the exit starts, and once SYS is ON the response applies. -/
def execTamperTripDeepSleep (source : Nat) (high : Bool) (s : State) : Host.Outcome State Fault Refusal :=
  .next (if sourceTrips s source high && s.sys.deepSleep then
    let r := responseOf s source
    let s1 := leaveDeepSleep (scrambleTack (setLive (latchAlarm s source r) source))
    let s2 := alarmActs { s1 with tp := { s1.tp with sleepScramble := true } } (if r = 0 then 0 else max r s.tp.response)
    settle (rederive s2)
  else s)

/-- TAMPER_CONDITION_END (R439). -/
def execTamperConditionEnd (source : Nat) (s : State) : Host.Outcome State Fault Refusal :=
  .next { s with tp := { s.tp with live := clearBit s.tp.live source } }

/-! ## CLEAR (R439) -/

/-- The token is well formed: the header of Table 05.10 with scope byte 0x20 and one signature block. -/
def clearFormed (s : State) (t : Bytes) : Bool :=
  t.length == 4864 && u32 t 0 == 0xDB600A11 && u16 t 4 == 1 && u8 t 6 == 0x20 && u8 t 7 == s.lc.state && u64 t 8 == s.lc.deviceNumber &&
  allZero (slice t 0x30 80)

/-- It is signed over the current challenge by the key Table 19.5 names. -/
def clearSigned (s : State) (t : Bytes) : Bool :=
  let key := if s.lc.state = 3 then s.lc.ownerDigest else Config.habervoProvisioningKeyId
  slice t 0x10 32 == challenge s && blockVerifies (ascii "TPC") key (t.take 128) (t.drop 128)

def tpErr (s : State) (e : Nat) : State := { s with tp := { s.tp with cmdErr := e } }

/-- The failed flush of a source 9 trip is consumed and the banks emptied (R439). -/
def dropFlush (s : State) : State :=
  if hasBit s.tp.alarm 9 then
    { s with hl := { s.hl with flush := { s.hl.flush with consumed := true } }, jn := { s.jn with held := false } }
  else s

/-- A latched alarm is cleared: limits return, a hold ends, what waited goes on, and what has lost its key ends (R438, R439). -/
def releaseAlarm (s : State) : State :=
  let erased := decide (2 ≤ s.tp.response)
  let s1 := dropFlush s
  let s2 := auditAdd { s1 with tp := { s1.tp with latched := false, response := 0, alarm := 0, resetRequired := s1.tp.resetRequired || s1.tp.tamperHold },
                               tk := { s1.tk with hold := false } } 4 s.tp.alarm
  rederive (recheck (if erased then loseKeyless s2 else s2) [2])

/-- CLEAR is taken: the token is consumed and the challenge redrawn. -/
def takeClear (s : State) : State :=
  let s1 := tpErr { s with dbg := { s.dbg with challengeDraw := s.freeCtr }, freeCtr := s.freeCtr + 1 } 0
  if s1.tp.latched then releaseAlarm s1 else s1

/-- TAMPER_CLEAR (R439): the token first, then the sources' conditions; in RAW no token is needed. -/
def execTamperClear (fn : Nat) (value : W64) (token : Bytes) (s : State) : Host.Outcome State Fault Refusal :=
  .next (if !(fn == 0 && tpUp s fn && cmdOf value == 1) then s
  else if s.lc.state ≠ 0 ∧ clearFormed s token = false then tpErr s 1
  else if s.lc.state ≠ 0 ∧ clearSigned s token = false then tpErr s 2
  else if s.tp.live ≠ 0 then tpErr s 3
  else settle (takeClear s))

end Sys2Proof.Machine
end

