-- ==== Sys2Proof/Machine/Dispatch.lean ====
section
/-! DEFINITION. Dispatch.lean: one arm per command, each a direct call of its meaning. -/

namespace Sys2Proof.Machine

def exec (i : Instr) (s : State) : Host.Outcome State Fault Refusal :=
  match i with
  | .coldReset cause vddmKept => Sys2Proof.Machine.execColdReset cause vddmKept s
  | .porstNRise boot => Sys2Proof.Machine.execPorstNRise boot s
  | .bootReserveRecheck boot => Sys2Proof.Machine.execBootReserveRecheck boot s
  | .bootPowerFailWaitEnd boot => Sys2Proof.Machine.execBootPowerFailWaitEnd boot s
  | .powerFailFlush => Sys2Proof.Machine.execPowerFailFlush s
  | .flushComplete ok0 ok1 deltas raw0 raw1 => Sys2Proof.Machine.execFlushComplete ok0 ok1 deltas raw0 raw1 s
  | .powerFailRise boot => Sys2Proof.Machine.execPowerFailRise boot s
  | .xtal25Loss => Sys2Proof.Machine.execXtal25Loss s
  | .xtal25Restore boot => Sys2Proof.Machine.execXtal25Restore boot s
  | .syReset fn value => Sys2Proof.Machine.execSyReset fn value s
  | .warmReset cause => Sys2Proof.Machine.execWarmReset cause s
  | .syPaddockReset fn value => Sys2Proof.Machine.execSyPaddockReset fn value s
  | .hostInterfaceReset cause => Sys2Proof.Machine.execHostInterfaceReset cause s
  | .configRequest fn write offset value => Sys2Proof.Machine.execConfigRequest fn write offset value s
  | .functionLevelReset fn => Sys2Proof.Machine.execFunctionLevelReset fn s
  | .vfEnableClear numVfs => Sys2Proof.Machine.execVfEnableClear numVfs s
  | .vfEnable numVfs => Sys2Proof.Machine.execVfEnable numVfs s
  | .busMasterEnableSet fn => Sys2Proof.Machine.execBusMasterEnableSet fn s
  | .d3hotEntry fn => Sys2Proof.Machine.execD3hotEntry fn s
  | .d0Return fn => Sys2Proof.Machine.execD0Return fn s
  | .msixEnableSet fn => Sys2Proof.Machine.execMsixEnableSet fn s
  | .vectorUnmask fn vector => Sys2Proof.Machine.execVectorUnmask fn vector s
  | .hiVecModWrite fn vector value size => Sys2Proof.Machine.execHiVecModWrite fn vector value size s
  | .vectorTimerExpiry fn vector => Sys2Proof.Machine.execVectorTimerExpiry fn vector s
  | .wakeCountExpiry fn vector => Sys2Proof.Machine.execWakeCountExpiry fn vector s
  | .aspmL1Entry sub clkreqHigh => Sys2Proof.Machine.execAspmL1Entry sub clkreqHigh s
  | .refclkLoss => Sys2Proof.Machine.execRefclkLoss s
  | .linkReturn => Sys2Proof.Machine.execLinkReturn s
  | .poisonedWrite fn ecrc => Sys2Proof.Machine.execPoisonedWrite fn ecrc s
  | .barAccessInvalid fn bar offset size write => Sys2Proof.Machine.execBarAccessInvalid fn bar offset size write s
  | .bar4WindowAccess fn offset write data len => Sys2Proof.Machine.execBar4WindowAccess fn offset write data len s
  | .feedWindowWrite fn offset data => Sys2Proof.Machine.execFeedWindowWrite fn offset data s
  | .multiwordRead fn offset size => Sys2Proof.Machine.execMultiwordRead fn offset size s
  | .registerWrite fn offset size value => Sys2Proof.Machine.execRegisterWrite fn offset size value s
  | .doorbellWrite fn offset size value => Sys2Proof.Machine.execDoorbellWrite fn offset size value s
  | .descriptorFetchDone queue index data => Sys2Proof.Machine.execDescriptorFetchDone queue index data s
  | .hostReadFail queue operand core kind => Sys2Proof.Machine.execHostReadFail queue operand core kind s
  | .gateEvaluate queue => Sys2Proof.Machine.execGateEvaluate queue s
  | .deferredReevaluate => Sys2Proof.Machine.execDeferredReevaluate s
  | .gateAccept queue written => Sys2Proof.Machine.execGateAccept queue written s
  | .refillCommit slot => Sys2Proof.Machine.execRefillCommit slot s
  | .captureGenDraw paddock => Sys2Proof.Machine.execCaptureGenDraw paddock s
  | .dispatch stall => Sys2Proof.Machine.execDispatch stall s
  | .lowPrioPromote seq => Sys2Proof.Machine.execLowPrioPromote seq s
  | .poolPreferenceExpiry stall => Sys2Proof.Machine.execPoolPreferenceExpiry stall s
  | .pkeYieldRequest stall => Sys2Proof.Machine.execPkeYieldRequest stall s
  | .digestYieldRequest stall => Sys2Proof.Machine.execDigestYieldRequest stall s
  | .mceYieldRequest stall => Sys2Proof.Machine.execMceYieldRequest stall s
  | .stallSafePoint stall commit checkpoint output position => Sys2Proof.Machine.execStallSafePoint stall commit checkpoint output position s
  | .completionWrite queue => Sys2Proof.Machine.execCompletionWrite queue s
  | .recordRetire queue => Sys2Proof.Machine.execRecordRetire queue s
  | .qEnable fn value => Sys2Proof.Machine.execQEnable fn value s
  | .qDisable fn value => Sys2Proof.Machine.execQDisable fn value s
  | .qContinue fn value => Sys2Proof.Machine.execQContinue fn value s
  | .qResume fn value => Sys2Proof.Machine.execQResume fn value s
  | .qForget fn value => Sys2Proof.Machine.execQForget fn value s
  | .queueDrainComplete queue => Sys2Proof.Machine.execQueueDrainComplete queue s
  | .pendingEnableSwitch queue => Sys2Proof.Machine.execPendingEnableSwitch queue s
  | .haltLogRead fn => Sys2Proof.Machine.execHaltLogRead fn s
  | .energySample deltas parts => Sys2Proof.Machine.execEnergySample deltas parts s
  | .enCapWrite fn value => Sys2Proof.Machine.execEnCapWrite fn value s
  | .i3cCapSet capQw => Sys2Proof.Machine.execI3cCapSet capQw s
  | .i3cIdentityRead index => Sys2Proof.Machine.execI3cIdentityRead index s
  | .holdupAdcConversion raw => Sys2Proof.Machine.execHoldupAdcConversion raw s
  | .adcCalibrate zeroRaw refRaw => Sys2Proof.Machine.execAdcCalibrate zeroRaw refRaw s
  | .reserveLowClear => Sys2Proof.Machine.execReserveLowClear s
  | .shedWakeGrant => Sys2Proof.Machine.execShedWakeGrant s
  | .shedWakeDone shed => Sys2Proof.Machine.execShedWakeDone shed s
  | .shedIdleTimeout shed => Sys2Proof.Machine.execShedIdleTimeout shed s
  | .shedSleepDone shed => Sys2Proof.Machine.execShedSleepDone shed s
  | .deepSleepEntry => Sys2Proof.Machine.execDeepSleepEntry s
  | .deepSleepExit trigger => Sys2Proof.Machine.execDeepSleepExit trigger s
  | .timeBaseSave toHayloft => Sys2Proof.Machine.execTimeBaseSave toHayloft s
  | .journalScrub bank corrected => Sys2Proof.Machine.execJournalScrub bank corrected s
  | .loadPartial fn image => Sys2Proof.Machine.execLoadPartial fn image s
  | .partialSwitch => Sys2Proof.Machine.execPartialSwitch s
  | .partialDrainTimeout => Sys2Proof.Machine.execPartialDrainTimeout s
  | .storeImage fn sent => Sys2Proof.Machine.execStoreImage fn sent s
  | .plApply fn value => Sys2Proof.Machine.execPlApply fn value s
  | .plApplyDrained => Sys2Proof.Machine.execPlApplyDrained s
  | .plApplyDrainTimeout => Sys2Proof.Machine.execPlApplyDrainTimeout s
  | .abortSwap fn value => Sys2Proof.Machine.execAbortSwap fn value s
  | .lcTransition fn token => Sys2Proof.Machine.execLcTransition fn token s
  | .lcDrained => Sys2Proof.Machine.execLcDrained s
  | .lcDrainTimeout => Sys2Proof.Machine.execLcDrainTimeout s
  | .ledgerProgramDone => Sys2Proof.Machine.execLedgerProgramDone s
  | .lcComplete fn token => Sys2Proof.Machine.execLcComplete fn token s
  | .genIdentity fn value => Sys2Proof.Machine.execGenIdentity fn value s
  | .storeCerts fn certs => Sys2Proof.Machine.execStoreCerts fn certs s
  | .i3cTokenMailbox complete token => Sys2Proof.Machine.execI3cTokenMailbox complete token s
  | .certDataRead fn => Sys2Proof.Machine.execCertDataRead fn s
  | .lcCertSelWrite fn value => Sys2Proof.Machine.execLcCertSelWrite fn value s
  | .dbgToken token => Sys2Proof.Machine.execDbgToken token s
  | .debugClose fn value => Sys2Proof.Machine.execDebugClose fn value s
  | .jnShutdown fn value => Sys2Proof.Machine.execJnShutdown fn value s
  | .shutdownFlush => Sys2Proof.Machine.execShutdownFlush s
  | .twinWaitTimeout boot => Sys2Proof.Machine.execTwinWaitTimeout boot s
  | .twinPartnerPresent term side => Sys2Proof.Machine.execTwinPartnerPresent term side s
  | .twinPartnerFailed => Sys2Proof.Machine.execTwinPartnerFailed s
  | .twinLanesLost => Sys2Proof.Machine.execTwinLanesLost s
  | .tetherFrameReceive frame => Sys2Proof.Machine.execTetherFrameReceive frame s
  | .tetherRetransmitTimeout => Sys2Proof.Machine.execTetherRetransmitTimeout s
  | .tetherLaneFail lane => Sys2Proof.Machine.execTetherLaneFail lane s
  | .heartbeatToggle => Sys2Proof.Machine.execHeartbeatToggle s
  | .faultReport message => Sys2Proof.Machine.execFaultReport message s
  | .bucketLeak source => Sys2Proof.Machine.execBucketLeak source s
  | .escalationExpiry source kind => Sys2Proof.Machine.execEscalationExpiry source kind s
  | .fcAck fn value => Sys2Proof.Machine.execFcAck fn value s
  | .fcClear fn value => Sys2Proof.Machine.execFcClear fn value s
  | .faultLogRead fn => Sys2Proof.Machine.execFaultLogRead fn s
  | .faultLogAppend => Sys2Proof.Machine.execFaultLogAppend s
  | .farrierClaim => Sys2Proof.Machine.execFarrierClaim s
  | .selftestDone pass => Sys2Proof.Machine.execSelftestDone pass s
  | .muckoutDone stall zero => Sys2Proof.Machine.execMuckoutDone stall zero s
  | .ucodeReloadDone stall => Sys2Proof.Machine.execUcodeReloadDone stall s
  | .nextTreeReady slot => Sys2Proof.Machine.execNextTreeReady slot s
  | .blobLoadDone seq read0 read1 => Sys2Proof.Machine.execBlobLoadDone seq read0 read1 s
  | .tkRestore => Sys2Proof.Machine.execTkRestore s
  | .stickyRestore => Sys2Proof.Machine.execStickyRestore s
  | .remaskPass => Sys2Proof.Machine.execRemaskPass s
  | .stallSourceReseed stall => Sys2Proof.Machine.execStallSourceReseed stall s
  | .rngHealthFail group apt => Sys2Proof.Machine.execRngHealthFail group apt s
  | .rngStartupDone passed kat => Sys2Proof.Machine.execRngStartupDone passed kat s
  | .rngStartupRetry passed kat => Sys2Proof.Machine.execRngStartupRetry passed kat s
  | .rngRetest group pass => Sys2Proof.Machine.execRngRetest group pass s
  | .rngBlockRelease groups => Sys2Proof.Machine.execRngBlockRelease groups s
  | .drbgReseed inst => Sys2Proof.Machine.execDrbgReseed inst s
  | .rngRestart fn value => Sys2Proof.Machine.execRngRestart fn value s
  | .rawEnter fn value token => Sys2Proof.Machine.execRawEnter fn value token s
  | .rawExit fn value => Sys2Proof.Machine.execRawExit fn value s
  | .rnWordRead fn => Sys2Proof.Machine.execRnWordRead fn s
  | .rnRawDataRead fn => Sys2Proof.Machine.execRnRawDataRead fn s
  | .tamperTrip source high => Sys2Proof.Machine.execTamperTrip source high s
  | .tamperTripAtBoot source high => Sys2Proof.Machine.execTamperTripAtBoot source high s
  | .tamperTripDeepSleep source high => Sys2Proof.Machine.execTamperTripDeepSleep source high s
  | .tamperClear fn value token => Sys2Proof.Machine.execTamperClear fn value token s
  | .dgCmpGo fn offset size value => Sys2Proof.Machine.execDgCmpGo fn offset size value s
  | .dgCmpDone fn => Sys2Proof.Machine.execDgCmpDone fn s
  | .dgCmpReset fn offset size value => Sys2Proof.Machine.execDgCmpReset fn offset size value s
  | .mrExtendWrite master register value => Sys2Proof.Machine.execMrExtendWrite master register value s
  | .nandReadDone target block corrected uncorrectable lost => Sys2Proof.Machine.execNandReadDone target block corrected uncorrectable lost s
  | .nandStatusFail target block erase => Sys2Proof.Machine.execNandStatusFail target block erase s
  | .nandTargetTimeout target statusRead => Sys2Proof.Machine.execNandTargetTimeout target statusRead s
  | .hayloftRebuild channel => Sys2Proof.Machine.execHayloftRebuild channel s
  | .objectWriteCommit object channel => Sys2Proof.Machine.execObjectWriteCommit object channel s
  | .hayloftScrub target block corrected uncorrectable lost => Sys2Proof.Machine.execHayloftScrub target block corrected uncorrectable lost s
  | .staticWearLevel channel => Sys2Proof.Machine.execStaticWearLevel channel s
  | .diagLogFlush => Sys2Proof.Machine.execDiagLogFlush s
  | .hlFormat fn value => Sys2Proof.Machine.execHlFormat fn value s
  | .hlLogDataRead fn => Sys2Proof.Machine.execHlLogDataRead fn s
  | .linkTestStart fn value => Sys2Proof.Machine.execLinkTestStart fn value s
  | .linkTestStop fn value => Sys2Proof.Machine.execLinkTestStop fn value s
  | .linkTestInject fn value => Sys2Proof.Machine.execLinkTestInject fn value s
  | .linkTestEnd link cause => Sys2Proof.Machine.execLinkTestEnd link cause s
  | .tapExtest => Sys2Proof.Machine.execTapExtest s
  | .tapClamp => Sys2Proof.Machine.execTapClamp s
  | .tapHighz => Sys2Proof.Machine.execTapHighz s
  | .tapMbist => Sys2Proof.Machine.execTapMbist s
  | .tapIdcode => Sys2Proof.Machine.execTapIdcode s
  | .tapSamplePreload preload cells => Sys2Proof.Machine.execTapSamplePreload preload cells s
  | .tapBypass => Sys2Proof.Machine.execTapBypass s
  | .bxBoot fn value image => Sys2Proof.Machine.execBxBoot fn value image s
  | .coreLoad fn core value image => Sys2Proof.Machine.execCoreLoad fn core value image s
  | .coreStop fn core value => Sys2Proof.Machine.execCoreStop fn core value s
  | .coreLoadDone core => Sys2Proof.Machine.execCoreLoadDone core s
  | .feedDrop fn feed value => Sys2Proof.Machine.execFeedDrop fn feed value s
  | .vectorUnitPowerDown core => Sys2Proof.Machine.execVectorUnitPowerDown core s
  | .bxNop core f => Sys2Proof.Machine.execBxNop core f s
  | .bxStop core f => Sys2Proof.Machine.execBxStop core f s
  | .bxTrap core f => Sys2Proof.Machine.execBxTrap core f s
  | .bxRtt core f => Sys2Proof.Machine.execBxRtt core f s
  | .bxFence core f => Sys2Proof.Machine.execBxFence core f s
  | .bxAdd core f => Sys2Proof.Machine.execBxAdd core f s
  | .bxSub core f => Sys2Proof.Machine.execBxSub core f s
  | .bxNeg core f => Sys2Proof.Machine.execBxNeg core f s
  | .bxAnd core f => Sys2Proof.Machine.execBxAnd core f s
  | .bxOr core f => Sys2Proof.Machine.execBxOr core f s
  | .bxXor core f => Sys2Proof.Machine.execBxXor core f s
  | .bxAndn core f => Sys2Proof.Machine.execBxAndn core f s
  | .bxNot core f => Sys2Proof.Machine.execBxNot core f s
  | .bxShl core f => Sys2Proof.Machine.execBxShl core f s
  | .bxShr core f => Sys2Proof.Machine.execBxShr core f s
  | .bxSar core f => Sys2Proof.Machine.execBxSar core f s
  | .bxRol core f => Sys2Proof.Machine.execBxRol core f s
  | .bxRor core f => Sys2Proof.Machine.execBxRor core f s
  | .bxClz core f => Sys2Proof.Machine.execBxClz core f s
  | .bxCtz core f => Sys2Proof.Machine.execBxCtz core f s
  | .bxPopc core f => Sys2Proof.Machine.execBxPopc core f s
  | .bxCmp core f => Sys2Proof.Machine.execBxCmp core f s
  | .bxCteq core f => Sys2Proof.Machine.execBxCteq core f s
  | .bxCtlt core f => Sys2Proof.Machine.execBxCtlt core f s
  | .bxCsel core f => Sys2Proof.Machine.execBxCsel core f s
  | .bxLd8 core f => Sys2Proof.Machine.execBxLd8 core f s
  | .bxLd4 core f => Sys2Proof.Machine.execBxLd4 core f s
  | .bxLd4s core f => Sys2Proof.Machine.execBxLd4s core f s
  | .bxLd2 core f => Sys2Proof.Machine.execBxLd2 core f s
  | .bxLd2s core f => Sys2Proof.Machine.execBxLd2s core f s
  | .bxLd1 core f => Sys2Proof.Machine.execBxLd1 core f s
  | .bxLd1s core f => Sys2Proof.Machine.execBxLd1s core f s
  | .bxLea core f => Sys2Proof.Machine.execBxLea core f s
  | .bxSt8 core f => Sys2Proof.Machine.execBxSt8 core f s
  | .bxSt4 core f => Sys2Proof.Machine.execBxSt4 core f s
  | .bxSt2 core f => Sys2Proof.Machine.execBxSt2 core f s
  | .bxSt1 core f => Sys2Proof.Machine.execBxSt1 core f s
  | .bxPush core f => Sys2Proof.Machine.execBxPush core f s
  | .bxPop core f => Sys2Proof.Machine.execBxPop core f s
  | .bxDsadj core f => Sys2Proof.Machine.execBxDsadj core f s
  | .bxB core f => Sys2Proof.Machine.execBxB core f s
  | .bxBeq core f => Sys2Proof.Machine.execBxBeq core f s
  | .bxBne core f => Sys2Proof.Machine.execBxBne core f s
  | .bxBlt core f => Sys2Proof.Machine.execBxBlt core f s
  | .bxBge core f => Sys2Proof.Machine.execBxBge core f s
  | .bxBlo core f => Sys2Proof.Machine.execBxBlo core f s
  | .bxBhs core f => Sys2Proof.Machine.execBxBhs core f s
  | .bxBov core f => Sys2Proof.Machine.execBxBov core f s
  | .bxBdz core f => Sys2Proof.Machine.execBxBdz core f s
  | .bxCall core f => Sys2Proof.Machine.execBxCall core f s
  | .bxCallr core f => Sys2Proof.Machine.execBxCallr core f s
  | .bxJr core f => Sys2Proof.Machine.execBxJr core f s
  | .bxRet core f => Sys2Proof.Machine.execBxRet core f s
  | .bxLeac core f => Sys2Proof.Machine.execBxLeac core f s
  | .bxMov core f => Sys2Proof.Machine.execBxMov core f s
  | .bxLi core f => Sys2Proof.Machine.execBxLi core f s
  | .bxLin core f => Sys2Proof.Machine.execBxLin core f s
  | .bxLib core f => Sys2Proof.Machine.execBxLib core f s
  | .bxMfs core f => Sys2Proof.Machine.execBxMfs core f s
  | .bxMts core f => Sys2Proof.Machine.execBxMts core f s
  | .bxMul core f => Sys2Proof.Machine.execBxMul core f s
  | .bxMulu core f => Sys2Proof.Machine.execBxMulu core f s
  | .bxDiv core f => Sys2Proof.Machine.execBxDiv core f s
  | .bxDivu core f => Sys2Proof.Machine.execBxDivu core f s
  | .bxTagof core f => Sys2Proof.Machine.execBxTagof core f s
  | .bxAsint core f => Sys2Proof.Machine.execBxAsint core f s
  | .bxAsnat core f => Sys2Proof.Machine.execBxAsnat core f s
  | .bxAsbytes core f => Sys2Proof.Machine.execBxAsbytes core f s
  | .bxMkptr core f => Sys2Proof.Machine.execBxMkptr core f s
  | .bxMkhandle core f => Sys2Proof.Machine.execBxMkhandle core f s
  | .bxClass core f => Sys2Proof.Machine.execBxClass core f s
  | .bxDeclass core f => Sys2Proof.Machine.execBxDeclass core f s
  | .bxPoison core f => Sys2Proof.Machine.execBxPoison core f s
  | .bxRdtime core f => Sys2Proof.Machine.execBxRdtime core f s
  | .bxQopen core f => Sys2Proof.Machine.execBxQopen core f s
  | .bxQclose core f => Sys2Proof.Machine.execBxQclose core f s
  | .bxQctl core f => Sys2Proof.Machine.execBxQctl core f s
  | .bxJsub core f => Sys2Proof.Machine.execBxJsub core f s
  | .bxJcpl core f => Sys2Proof.Machine.execBxJcpl core f s
  | .bxJstat core f => Sys2Proof.Machine.execBxJstat core f s
  | .bxWait core f => Sys2Proof.Machine.execBxWait core f s
  | .waitEnd core timeout => Sys2Proof.Machine.execWaitEnd core timeout s
  | .bxFput core f => Sys2Proof.Machine.execBxFput core f s
  | .bxFstat core f => Sys2Proof.Machine.execBxFstat core f s
  | .bxFdrop core f => Sys2Proof.Machine.execBxFdrop core f s
  | .bxWopen core f => Sys2Proof.Machine.execBxWopen core f s
  | .bxWclose core f => Sys2Proof.Machine.execBxWclose core f s
  | .bxCstart core f => Sys2Proof.Machine.execBxCstart core f s
  | .bxCstop core f => Sys2Proof.Machine.execBxCstop core f s
  | .bxRand core f => Sys2Proof.Machine.execBxRand core f s
  | .bxMext core f => Sys2Proof.Machine.execBxMext core f s
  | .opNop seq inp => Sys2Proof.Machine.execOpNop seq inp s
  | .opAttestQuote seq inp => Sys2Proof.Machine.execOpAttestQuote seq inp s
  | .opMlkemKeygen seq inp => Sys2Proof.Machine.execOpMlkemKeygen seq inp s
  | .opMlkemEncaps seq inp => Sys2Proof.Machine.execOpMlkemEncaps seq inp s
  | .opMlkemDecaps seq inp => Sys2Proof.Machine.execOpMlkemDecaps seq inp s
  | .opMldsaKeygen seq inp => Sys2Proof.Machine.execOpMldsaKeygen seq inp s
  | .opMldsaSign seq inp => Sys2Proof.Machine.execOpMldsaSign seq inp s
  | .opMldsaVerify seq inp => Sys2Proof.Machine.execOpMldsaVerify seq inp s
  | .opSlhdsaKeygen seq inp => Sys2Proof.Machine.execOpSlhdsaKeygen seq inp s
  | .opSlhdsaSign seq inp => Sys2Proof.Machine.execOpSlhdsaSign seq inp s
  | .opSlhdsaVerify seq inp => Sys2Proof.Machine.execOpSlhdsaVerify seq inp s
  | .opLmsKeygen seq inp => Sys2Proof.Machine.execOpLmsKeygen seq inp s
  | .opLmsSign seq inp => Sys2Proof.Machine.execOpLmsSign seq inp s
  | .opLmsVerify seq inp => Sys2Proof.Machine.execOpLmsVerify seq inp s
  | .opXmssKeygen seq inp => Sys2Proof.Machine.execOpXmssKeygen seq inp s
  | .opXmssSign seq inp => Sys2Proof.Machine.execOpXmssSign seq inp s
  | .opXmssVerify seq inp => Sys2Proof.Machine.execOpXmssVerify seq inp s
  | .opHbsQuery seq inp => Sys2Proof.Machine.execOpHbsQuery seq inp s
  | .opMceKeygen seq inp => Sys2Proof.Machine.execOpMceKeygen seq inp s
  | .opMceEncaps seq inp => Sys2Proof.Machine.execOpMceEncaps seq inp s
  | .opMceDecaps seq inp => Sys2Proof.Machine.execOpMceDecaps seq inp s
  | .opHqcKeygen seq inp => Sys2Proof.Machine.execOpHqcKeygen seq inp s
  | .opHqcEncaps seq inp => Sys2Proof.Machine.execOpHqcEncaps seq inp s
  | .opHqcDecaps seq inp => Sys2Proof.Machine.execOpHqcDecaps seq inp s
  | .opPkcLoad seq inp => Sys2Proof.Machine.execOpPkcLoad seq inp s
  | .opPkcEvict seq inp => Sys2Proof.Machine.execOpPkcEvict seq inp s
  | .opRsaKeygen seq inp => Sys2Proof.Machine.execOpRsaKeygen seq inp s
  | .opRsaSign seq inp => Sys2Proof.Machine.execOpRsaSign seq inp s
  | .opRsaVerify seq inp => Sys2Proof.Machine.execOpRsaVerify seq inp s
  | .opRsaEncrypt seq inp => Sys2Proof.Machine.execOpRsaEncrypt seq inp s
  | .opRsaDecrypt seq inp => Sys2Proof.Machine.execOpRsaDecrypt seq inp s
  | .opEcdsaKeygen seq inp => Sys2Proof.Machine.execOpEcdsaKeygen seq inp s
  | .opEcdsaSign seq inp => Sys2Proof.Machine.execOpEcdsaSign seq inp s
  | .opEcdsaVerify seq inp => Sys2Proof.Machine.execOpEcdsaVerify seq inp s
  | .opEcdhKeygen seq inp => Sys2Proof.Machine.execOpEcdhKeygen seq inp s
  | .opEcdhDerive seq inp => Sys2Proof.Machine.execOpEcdhDerive seq inp s
  | .opEcdhEphemeral seq inp => Sys2Proof.Machine.execOpEcdhEphemeral seq inp s
  | .opEddsaKeygen seq inp => Sys2Proof.Machine.execOpEddsaKeygen seq inp s
  | .opEddsaSign seq inp => Sys2Proof.Machine.execOpEddsaSign seq inp s
  | .opEddsaVerify seq inp => Sys2Proof.Machine.execOpEddsaVerify seq inp s
  | .opXdhKeygen seq inp => Sys2Proof.Machine.execOpXdhKeygen seq inp s
  | .opXdhDerive seq inp => Sys2Proof.Machine.execOpXdhDerive seq inp s
  | .opXdhEphemeral seq inp => Sys2Proof.Machine.execOpXdhEphemeral seq inp s
  | .opDigest seq inp => Sys2Proof.Machine.execOpDigest seq inp s
  | .opHmac seq inp => Sys2Proof.Machine.execOpHmac seq inp s
  | .opHmacVerify seq inp => Sys2Proof.Machine.execOpHmacVerify seq inp s
  | .opKmac seq inp => Sys2Proof.Machine.execOpKmac seq inp s
  | .opKmacVerify seq inp => Sys2Proof.Machine.execOpKmacVerify seq inp s
  | .opCrc seq inp => Sys2Proof.Machine.execOpCrc seq inp s
  | .opKeyGenerate seq inp => Sys2Proof.Machine.execOpKeyGenerate seq inp s
  | .opKeyImport seq inp => Sys2Proof.Machine.execOpKeyImport seq inp s
  | .opKeyUnwrap seq inp => Sys2Proof.Machine.execOpKeyUnwrap seq inp s
  | .opKeyDerive seq inp => Sys2Proof.Machine.execOpKeyDerive seq inp s
  | .opKeyExport seq inp => Sys2Proof.Machine.execOpKeyExport seq inp s
  | .opBlobRegister seq inp => Sys2Proof.Machine.execOpBlobRegister seq inp s
  | .opKeyRestrict seq inp => Sys2Proof.Machine.execOpKeyRestrict seq inp s
  | .opKeyRevoke seq inp => Sys2Proof.Machine.execOpKeyRevoke seq inp s
  | .vddAonPowerOn boot => Sys2Proof.Machine.execVddAonPowerOn boot s
  | .perstNDeassert => Sys2Proof.Machine.execPerstNDeassert s
  | .pllRelock boot => Sys2Proof.Machine.execPllRelock boot s
  | .overtempEnd => Sys2Proof.Machine.execOvertempEnd s
  | .tamperConditionEnd source => Sys2Proof.Machine.execTamperConditionEnd source s
  | .checkerLock link => Sys2Proof.Machine.execCheckerLock link s
  | .checkerLockLost link bits errs => Sys2Proof.Machine.execCheckerLockLost link bits errs s
  | .debugHalt core => Sys2Proof.Machine.execDebugHalt core s
  | .debugResume core => Sys2Proof.Machine.execDebugResume core s
  | .unitResultLand core divider => Sys2Proof.Machine.execUnitResultLand core divider s

end Sys2Proof.Machine
end

