-- ==== Sys2Proof/Machine/Tick.lean ====
section
/-! DEFINITION. Tick.lean: what the part does when no command is waiting: its time base advances (R26), the sequencers
of running stalls issue their words (R348 to R350), and in raw-sample mode the samples of the time that passes fill the FIFO (R325). -/

namespace Sys2Proof.Machine

/-- The time base advances by 1 ns, or by 1,000 ns from the always-on oscillator in deep sleep or while XTAL25 is stopped
(R26, R50); 64 bits. Log entry 2. -/
def advance (s : State) : State :=
  { s with time := (s.time + (if s.sys.deepSleep || !s.sys.xtal then 1000 else 1)) % 2 ^ 64 }

/-- The sequencer of every stall that runs issues one word; none while the stalls' clocks stand still (log entry 116). -/
def seqTick (s : State) : State :=
  if s.sys.bootState = 1 ∧ s.sys.xtal = true ∧ s.en.flushActive = false then
    (s.stalls.filter fun e => e.2.state == 2 && e.2.sequ.running).foldl (fun t e => seqCycle t e.1) s
  else s

/-- One tick. -/
def tick (s : State) : State :=
  let s1 := seqTick (advance s)
  if s.rng.rawMode && sysOn s && s.sys.xtal && decide (rawWords s s.time < rawWords s s1.time) then pushRaw s1 else s1

end Sys2Proof.Machine
end

