-- ==== Sys2Proof/Safety.lean ====
section
/-! DEFINITION. Safety.lean: what the claims call a run, and what they call a part of the state that a command leaves alone. -/

namespace Sys2Proof

/-- A step of the part from `s` gives `t`. -/
def Steps (s t : Machine.State) : Prop := Machine.step s = .next t

/-- The part reaches `t` from `s` in finitely many steps. -/
inductive Reaches : Machine.State → Machine.State → Prop where
  | refl (s : Machine.State) : Reaches s s
  | tail {s t u : Machine.State} : Reaches s t → Steps t u → Reaches s u

/-- The system block: its registers and fields. -/
inductive SysReg where
  | porstN | perstN | powerFailN | xtal | pllLocked | refclk | wakeDriven | ttHbo | linkWidth | linkReversed | loaded | firmware
  | straps | stage | bootState | reason | fwSlot | fwBuild | wait | causeCold | causeWarmSw | causeWarmFatal | causeWarmApply
  | causeHif | causeClock | paddockResets | heldWarm | deepSleep | degraded | paddockSel | timeJournal | timeHayloft | boundary
  | tapIr | boundaryReg | mbistRan
deriving DecidableEq, Repr

def SysReg.all : List SysReg :=
  [.porstN, .perstN, .powerFailN, .xtal, .pllLocked, .refclk, .wakeDriven, .ttHbo, .linkWidth, .linkReversed, .loaded, .firmware,
   .straps, .stage, .bootState, .reason, .fwSlot, .fwBuild, .wait, .causeCold, .causeWarmSw, .causeWarmFatal, .causeWarmApply,
   .causeHif, .causeClock, .paddockResets, .heldWarm, .deepSleep, .degraded, .paddockSel, .timeJournal, .timeHayloft, .boundary,
   .tapIr, .boundaryReg, .mbistRan]

/-- The register has the same value in both. -/
def SysReg.Same (a b : Machine.Sys) : SysReg → Prop
  | .porstN => b.porstN = a.porstN
  | .perstN => b.perstN = a.perstN
  | .powerFailN => b.powerFailN = a.powerFailN
  | .xtal => b.xtal = a.xtal
  | .pllLocked => b.pllLocked = a.pllLocked
  | .refclk => b.refclk = a.refclk
  | .wakeDriven => b.wakeDriven = a.wakeDriven
  | .ttHbo => b.ttHbo = a.ttHbo
  | .linkWidth => b.linkWidth = a.linkWidth
  | .linkReversed => b.linkReversed = a.linkReversed
  | .loaded => b.loaded = a.loaded
  | .firmware => b.firmware = a.firmware
  | .straps => b.straps = a.straps
  | .stage => b.stage = a.stage
  | .bootState => b.bootState = a.bootState
  | .reason => b.reason = a.reason
  | .fwSlot => b.fwSlot = a.fwSlot
  | .fwBuild => b.fwBuild = a.fwBuild
  | .wait => b.wait = a.wait
  | .causeCold => b.causeCold = a.causeCold
  | .causeWarmSw => b.causeWarmSw = a.causeWarmSw
  | .causeWarmFatal => b.causeWarmFatal = a.causeWarmFatal
  | .causeWarmApply => b.causeWarmApply = a.causeWarmApply
  | .causeHif => b.causeHif = a.causeHif
  | .causeClock => b.causeClock = a.causeClock
  | .paddockResets => b.paddockResets = a.paddockResets
  | .heldWarm => b.heldWarm = a.heldWarm
  | .deepSleep => b.deepSleep = a.deepSleep
  | .degraded => b.degraded = a.degraded
  | .paddockSel => b.paddockSel = a.paddockSel
  | .timeJournal => b.timeJournal = a.timeJournal
  | .timeHayloft => b.timeHayloft = a.timeHayloft
  | .boundary => b.boundary = a.boundary
  | .tapIr => b.tapIr = a.tapIr
  | .boundaryReg => b.boundaryReg = a.boundaryReg
  | .mbistRan => b.mbistRan = a.mbistRan

/-- The plan in force: its registers and fields. -/
inductive PlanReg where
  | loaded | part | pads | sheds | esc | tamper | twin | serial | digest
deriving DecidableEq, Repr

def PlanReg.all : List PlanReg :=
  [.loaded, .part, .pads, .sheds, .esc, .tamper, .twin, .serial, .digest]

/-- The register has the same value in both. -/
def PlanReg.Same (a b : Machine.Plan) : PlanReg → Prop
  | .loaded => b.loaded = a.loaded
  | .part => b.part = a.part
  | .pads => b.pads = a.pads
  | .sheds => b.sheds = a.sheds
  | .esc => b.esc = a.esc
  | .tamper => b.tamper = a.tamper
  | .twin => b.twin = a.twin
  | .serial => b.serial = a.serial
  | .digest => b.digest = a.digest

/-- The PL_ block: its registers and fields. -/
inductive PlReg where
  | imgAddr | imgLen | busy | phase | err | errOffset | swap | applying | stored
deriving DecidableEq, Repr

def PlReg.all : List PlReg :=
  [.imgAddr, .imgLen, .busy, .phase, .err, .errOffset, .swap, .applying, .stored]

/-- The register has the same value in both. -/
def PlReg.Same (a b : Machine.PlanCtl) : PlReg → Prop
  | .imgAddr => b.imgAddr = a.imgAddr
  | .imgLen => b.imgLen = a.imgLen
  | .busy => b.busy = a.busy
  | .phase => b.phase = a.phase
  | .err => b.err = a.err
  | .errOffset => b.errOffset = a.errOffset
  | .swap => b.swap = a.swap
  | .applying => b.applying = a.applying
  | .stored => b.stored = a.stored

/-- The life-cycle block: its registers and fields. -/
inductive LcReg where
  | slots | floorRecs | debugRecs | decoded | state | epoch | ownerDigest | seq | rootPresent | deviceRoot | deviceNumber | busy
  | resetRequired | err | step | token | tokenAddr | tokenLen | identity
deriving DecidableEq, Repr

def LcReg.all : List LcReg :=
  [.slots, .floorRecs, .debugRecs, .decoded, .state, .epoch, .ownerDigest, .seq, .rootPresent, .deviceRoot, .deviceNumber, .busy,
   .resetRequired, .err, .step, .token, .tokenAddr, .tokenLen, .identity]

/-- The register has the same value in both. -/
def LcReg.Same (a b : Machine.LifeCycle) : LcReg → Prop
  | .slots => b.slots = a.slots
  | .floorRecs => b.floorRecs = a.floorRecs
  | .debugRecs => b.debugRecs = a.debugRecs
  | .decoded => b.decoded = a.decoded
  | .state => b.state = a.state
  | .epoch => b.epoch = a.epoch
  | .ownerDigest => b.ownerDigest = a.ownerDigest
  | .seq => b.seq = a.seq
  | .rootPresent => b.rootPresent = a.rootPresent
  | .deviceRoot => b.deviceRoot = a.deviceRoot
  | .deviceNumber => b.deviceNumber = a.deviceNumber
  | .busy => b.busy = a.busy
  | .resetRequired => b.resetRequired = a.resetRequired
  | .err => b.err = a.err
  | .step => b.step = a.step
  | .token => b.token = a.token
  | .tokenAddr => b.tokenAddr = a.tokenAddr
  | .tokenLen => b.tokenLen = a.tokenLen
  | .identity => b.identity = a.identity

/-- The debug block: its registers and fields. -/
inductive DbgReg where
  | challengeDraw | scope | padMask
deriving DecidableEq, Repr

def DbgReg.all : List DbgReg :=
  [.challengeDraw, .scope, .padMask]

/-- The register has the same value in both. -/
def DbgReg.Same (a b : Machine.Debug) : DbgReg → Prop
  | .challengeDraw => b.challengeDraw = a.challengeDraw
  | .scope => b.scope = a.scope
  | .padMask => b.padMask = a.padMask

/-- The energy planner: its registers and fields. -/
inductive EnReg where
  | shed | step | meter | padEnergy | coreNj | samples | lastNj | padSeen | sleepFrom | capQw | windowMs | i3cCap | wakes
  | capBinding | withholdWakes | withholdPads | rawCode | convs | offset | gain | calValid | cmeas | cmeasCap | flushNj
  | flushConv | recNj | fixedUj | reserveLow | flushActive | overtemp
deriving DecidableEq, Repr

def EnReg.all : List EnReg :=
  [.shed, .step, .meter, .padEnergy, .coreNj, .samples, .lastNj, .padSeen, .sleepFrom, .capQw, .windowMs, .i3cCap, .wakes,
   .capBinding, .withholdWakes, .withholdPads, .rawCode, .convs, .offset, .gain, .calValid, .cmeas, .cmeasCap, .flushNj,
   .flushConv, .recNj, .fixedUj, .reserveLow, .flushActive, .overtemp]

/-- The register has the same value in both. -/
def EnReg.Same (a b : Machine.Energy) : EnReg → Prop
  | .shed => b.shed = a.shed
  | .step => b.step = a.step
  | .meter => b.meter = a.meter
  | .padEnergy => b.padEnergy = a.padEnergy
  | .coreNj => b.coreNj = a.coreNj
  | .samples => b.samples = a.samples
  | .lastNj => b.lastNj = a.lastNj
  | .padSeen => b.padSeen = a.padSeen
  | .sleepFrom => b.sleepFrom = a.sleepFrom
  | .capQw => b.capQw = a.capQw
  | .windowMs => b.windowMs = a.windowMs
  | .i3cCap => b.i3cCap = a.i3cCap
  | .wakes => b.wakes = a.wakes
  | .capBinding => b.capBinding = a.capBinding
  | .withholdWakes => b.withholdWakes = a.withholdWakes
  | .withholdPads => b.withholdPads = a.withholdPads
  | .rawCode => b.rawCode = a.rawCode
  | .convs => b.convs = a.convs
  | .offset => b.offset = a.offset
  | .gain => b.gain = a.gain
  | .calValid => b.calValid = a.calValid
  | .cmeas => b.cmeas = a.cmeas
  | .cmeasCap => b.cmeasCap = a.cmeasCap
  | .flushNj => b.flushNj = a.flushNj
  | .flushConv => b.flushConv = a.flushConv
  | .recNj => b.recNj = a.recNj
  | .fixedUj => b.fixedUj = a.fixedUj
  | .reserveLow => b.reserveLow = a.reserveLow
  | .flushActive => b.flushActive = a.flushActive
  | .overtemp => b.overtemp = a.overtemp

/-- The PCIe port: its registers and fields. -/
inductive PortReg where
  | linkUp | linkState | aspmL1 | aspmL11 | aspmL12 | vfEnable | numVfs | pmL11 | pmL12 | vfMse | ari | sysPage | vfBars | ltrUs
  | ltrLive | ltrQueue | doorbells
deriving DecidableEq, Repr

def PortReg.all : List PortReg :=
  [.linkUp, .linkState, .aspmL1, .aspmL11, .aspmL12, .vfEnable, .numVfs, .pmL11, .pmL12, .vfMse, .ari, .sysPage, .vfBars, .ltrUs,
   .ltrLive, .ltrQueue, .doorbells]

/-- The register has the same value in both. -/
def PortReg.Same (a b : Machine.Port) : PortReg → Prop
  | .linkUp => b.linkUp = a.linkUp
  | .linkState => b.linkState = a.linkState
  | .aspmL1 => b.aspmL1 = a.aspmL1
  | .aspmL11 => b.aspmL11 = a.aspmL11
  | .aspmL12 => b.aspmL12 = a.aspmL12
  | .vfEnable => b.vfEnable = a.vfEnable
  | .numVfs => b.numVfs = a.numVfs
  | .pmL11 => b.pmL11 = a.pmL11
  | .pmL12 => b.pmL12 = a.pmL12
  | .vfMse => b.vfMse = a.vfMse
  | .ari => b.ari = a.ari
  | .sysPage => b.sysPage = a.sysPage
  | .vfBars => b.vfBars = a.vfBars
  | .ltrUs => b.ltrUs = a.ltrUs
  | .ltrLive => b.ltrLive = a.ltrLive
  | .ltrQueue => b.ltrQueue = a.ltrQueue
  | .doorbells => b.doorbells = a.doorbells

/-- A PCIe function: its registers and fields. -/
inductive FnReg where
  | cfg | present | bme | dState | msixEn | fnMask | pmeEn | pmeStatus | pmeAtCold | relaxed | idOrder | vecSize | denied
  | errTimeout | errUrCa | errPoisoned | errQueue | errJob | vecs | evMap | qcRing | qcLog2 | qcVector | qcWake | qcCrcReq
  | qcIrqEn | qcShadowEn | qcShadowAddr | cmdQueue | cmdCmd | cmdBusy | cmdLost | cmdResult | statSel | cmpExpect | cmpSlot
  | cmpLen | cmpGo | cmpSpoiled | cmpEq | cmpNe | tkSel | tkSelBlob | bxImgAddr | fcResult | hlLog | hlEntry | hlWord | certSel
  | certOff | latch
deriving DecidableEq, Repr

def FnReg.all : List FnReg :=
  [.cfg, .present, .bme, .dState, .msixEn, .fnMask, .pmeEn, .pmeStatus, .pmeAtCold, .relaxed, .idOrder, .vecSize, .denied,
   .errTimeout, .errUrCa, .errPoisoned, .errQueue, .errJob, .vecs, .evMap, .qcRing, .qcLog2, .qcVector, .qcWake, .qcCrcReq,
   .qcIrqEn, .qcShadowEn, .qcShadowAddr, .cmdQueue, .cmdCmd, .cmdBusy, .cmdLost, .cmdResult, .statSel, .cmpExpect, .cmpSlot,
   .cmpLen, .cmpGo, .cmpSpoiled, .cmpEq, .cmpNe, .tkSel, .tkSelBlob, .bxImgAddr, .fcResult, .hlLog, .hlEntry, .hlWord, .certSel,
   .certOff, .latch]

/-- The register has the same value in both. -/
def FnReg.Same (a b : Machine.Fn) : FnReg → Prop
  | .cfg => b.cfg = a.cfg
  | .present => b.present = a.present
  | .bme => b.bme = a.bme
  | .dState => b.dState = a.dState
  | .msixEn => b.msixEn = a.msixEn
  | .fnMask => b.fnMask = a.fnMask
  | .pmeEn => b.pmeEn = a.pmeEn
  | .pmeStatus => b.pmeStatus = a.pmeStatus
  | .pmeAtCold => b.pmeAtCold = a.pmeAtCold
  | .relaxed => b.relaxed = a.relaxed
  | .idOrder => b.idOrder = a.idOrder
  | .vecSize => b.vecSize = a.vecSize
  | .denied => b.denied = a.denied
  | .errTimeout => b.errTimeout = a.errTimeout
  | .errUrCa => b.errUrCa = a.errUrCa
  | .errPoisoned => b.errPoisoned = a.errPoisoned
  | .errQueue => b.errQueue = a.errQueue
  | .errJob => b.errJob = a.errJob
  | .vecs => b.vecs = a.vecs
  | .evMap => b.evMap = a.evMap
  | .qcRing => b.qcRing = a.qcRing
  | .qcLog2 => b.qcLog2 = a.qcLog2
  | .qcVector => b.qcVector = a.qcVector
  | .qcWake => b.qcWake = a.qcWake
  | .qcCrcReq => b.qcCrcReq = a.qcCrcReq
  | .qcIrqEn => b.qcIrqEn = a.qcIrqEn
  | .qcShadowEn => b.qcShadowEn = a.qcShadowEn
  | .qcShadowAddr => b.qcShadowAddr = a.qcShadowAddr
  | .cmdQueue => b.cmdQueue = a.cmdQueue
  | .cmdCmd => b.cmdCmd = a.cmdCmd
  | .cmdBusy => b.cmdBusy = a.cmdBusy
  | .cmdLost => b.cmdLost = a.cmdLost
  | .cmdResult => b.cmdResult = a.cmdResult
  | .statSel => b.statSel = a.statSel
  | .cmpExpect => b.cmpExpect = a.cmpExpect
  | .cmpSlot => b.cmpSlot = a.cmpSlot
  | .cmpLen => b.cmpLen = a.cmpLen
  | .cmpGo => b.cmpGo = a.cmpGo
  | .cmpSpoiled => b.cmpSpoiled = a.cmpSpoiled
  | .cmpEq => b.cmpEq = a.cmpEq
  | .cmpNe => b.cmpNe = a.cmpNe
  | .tkSel => b.tkSel = a.tkSel
  | .tkSelBlob => b.tkSelBlob = a.tkSelBlob
  | .bxImgAddr => b.bxImgAddr = a.bxImgAddr
  | .fcResult => b.fcResult = a.fcResult
  | .hlLog => b.hlLog = a.hlLog
  | .hlEntry => b.hlEntry = a.hlEntry
  | .hlWord => b.hlWord = a.hlWord
  | .certSel => b.certSel = a.certSel
  | .certOff => b.certOff = a.certOff
  | .latch => b.latch = a.latch

/-- A hardware queue: its registers and fields. -/
inductive QueueReg where
  | state | remembered | base | k | vector | wake | crcReq | irqEn | shadowEn | shadowAddr | fn | bx | p | a | t | gen
  | errReason | errDetail | errIndex | forgotten | defer | deferOrder | headDeferred | recheck | copies | heldBell | shadowOwed
  | pend | fetchFailed | fetchTried | standby | takenOver | recordedP | forgetting | ring | ringCells | ringSecret
deriving DecidableEq, Repr

def QueueReg.all : List QueueReg :=
  [.state, .remembered, .base, .k, .vector, .wake, .crcReq, .irqEn, .shadowEn, .shadowAddr, .fn, .bx, .p, .a, .t, .gen,
   .errReason, .errDetail, .errIndex, .forgotten, .defer, .deferOrder, .headDeferred, .recheck, .copies, .heldBell, .shadowOwed,
   .pend, .fetchFailed, .fetchTried, .standby, .takenOver, .recordedP, .forgetting, .ring, .ringCells, .ringSecret]

/-- The register has the same value in both. -/
def QueueReg.Same (a b : Machine.Queue) : QueueReg → Prop
  | .state => b.state = a.state
  | .remembered => b.remembered = a.remembered
  | .base => b.base = a.base
  | .k => b.k = a.k
  | .vector => b.vector = a.vector
  | .wake => b.wake = a.wake
  | .crcReq => b.crcReq = a.crcReq
  | .irqEn => b.irqEn = a.irqEn
  | .shadowEn => b.shadowEn = a.shadowEn
  | .shadowAddr => b.shadowAddr = a.shadowAddr
  | .fn => b.fn = a.fn
  | .bx => b.bx = a.bx
  | .p => b.p = a.p
  | .a => b.a = a.a
  | .t => b.t = a.t
  | .gen => b.gen = a.gen
  | .errReason => b.errReason = a.errReason
  | .errDetail => b.errDetail = a.errDetail
  | .errIndex => b.errIndex = a.errIndex
  | .forgotten => b.forgotten = a.forgotten
  | .defer => b.defer = a.defer
  | .deferOrder => b.deferOrder = a.deferOrder
  | .headDeferred => b.headDeferred = a.headDeferred
  | .recheck => b.recheck = a.recheck
  | .copies => b.copies = a.copies
  | .heldBell => b.heldBell = a.heldBell
  | .shadowOwed => b.shadowOwed = a.shadowOwed
  | .pend => b.pend = a.pend
  | .fetchFailed => b.fetchFailed = a.fetchFailed
  | .fetchTried => b.fetchTried = a.fetchTried
  | .standby => b.standby = a.standby
  | .takenOver => b.takenOver = a.takenOver
  | .recordedP => b.recordedP = a.recordedP
  | .forgetting => b.forgetting = a.forgetting
  | .ring => b.ring = a.ring
  | .ringCells => b.ringCells = a.ringCells
  | .ringSecret => b.ringSecret = a.ringSecret

/-- A paddock: its registers and fields. -/
inductive PadReg where
  | caps | curGen | genDue | drbg | results | mrs | haltLog | haltOverflow | paused | inc | snaps | diags | extendLost
  | replayOwed | waitFor | containedUs | resetStalls | resetSeed | cacheLost
deriving DecidableEq, Repr

def PadReg.all : List PadReg :=
  [.caps, .curGen, .genDue, .drbg, .results, .mrs, .haltLog, .haltOverflow, .paused, .inc, .snaps, .diags, .extendLost,
   .replayOwed, .waitFor, .containedUs, .resetStalls, .resetSeed, .cacheLost]

/-- The register has the same value in both. -/
def PadReg.Same (a b : Machine.Pad) : PadReg → Prop
  | .caps => b.caps = a.caps
  | .curGen => b.curGen = a.curGen
  | .genDue => b.genDue = a.genDue
  | .drbg => b.drbg = a.drbg
  | .results => b.results = a.results
  | .mrs => b.mrs = a.mrs
  | .haltLog => b.haltLog = a.haltLog
  | .haltOverflow => b.haltOverflow = a.haltOverflow
  | .paused => b.paused = a.paused
  | .inc => b.inc = a.inc
  | .snaps => b.snaps = a.snaps
  | .diags => b.diags = a.diags
  | .extendLost => b.extendLost = a.extendLost
  | .replayOwed => b.replayOwed = a.replayOwed
  | .waitFor => b.waitFor = a.waitFor
  | .containedUs => b.containedUs = a.containedUs
  | .resetStalls => b.resetStalls = a.resetStalls
  | .resetSeed => b.resetSeed = a.resetSeed
  | .cacheLost => b.cacheLost = a.cacheLost

/-- The journal block: its registers and fields. -/
inductive JnReg where
  | opened | bank0 | bank1 | fromFlush | lost | shutdownDone | role | term | nextSeq | seq | flushRecords | flushUs | flushResult
  | flushSeq | shutting | flushFrom | flushWait | bootAfterFlush | held | recDigests | deferNext | rr
deriving DecidableEq, Repr

def JnReg.all : List JnReg :=
  [.opened, .bank0, .bank1, .fromFlush, .lost, .shutdownDone, .role, .term, .nextSeq, .seq, .flushRecords, .flushUs,
   .flushResult, .flushSeq, .shutting, .flushFrom, .flushWait, .bootAfterFlush, .held, .recDigests, .deferNext, .rr]

/-- The register has the same value in both. -/
def JnReg.Same (a b : Machine.Journal) : JnReg → Prop
  | .opened => b.opened = a.opened
  | .bank0 => b.bank0 = a.bank0
  | .bank1 => b.bank1 = a.bank1
  | .fromFlush => b.fromFlush = a.fromFlush
  | .lost => b.lost = a.lost
  | .shutdownDone => b.shutdownDone = a.shutdownDone
  | .role => b.role = a.role
  | .term => b.term = a.term
  | .nextSeq => b.nextSeq = a.nextSeq
  | .seq => b.seq = a.seq
  | .flushRecords => b.flushRecords = a.flushRecords
  | .flushUs => b.flushUs = a.flushUs
  | .flushResult => b.flushResult = a.flushResult
  | .flushSeq => b.flushSeq = a.flushSeq
  | .shutting => b.shutting = a.shutting
  | .flushFrom => b.flushFrom = a.flushFrom
  | .flushWait => b.flushWait = a.flushWait
  | .bootAfterFlush => b.bootAfterFlush = a.bootAfterFlush
  | .held => b.held = a.held
  | .recDigests => b.recDigests = a.recDigests
  | .deferNext => b.deferNext = a.deferNext
  | .rr => b.rr = a.rr

/-- A stall: its registers and fields. -/
inductive StallReg where
  | state | lastPaddock | inPool | dedicated | muckouts | runs | jobs | unsound | reqFault | reqStop | reqClaim | reqYield
  | dirty | muckFailed | muckThen | prefEnded | scrubDue | ratchet | ratchetCount | source | ucodeOk | cmdRd | cmdWr | cplRd
  | cplWr | spare | reservedFor | muckAtWake | operand | sequ | tree
deriving DecidableEq, Repr

def StallReg.all : List StallReg :=
  [.state, .lastPaddock, .inPool, .dedicated, .muckouts, .runs, .jobs, .unsound, .reqFault, .reqStop, .reqClaim, .reqYield,
   .dirty, .muckFailed, .muckThen, .prefEnded, .scrubDue, .ratchet, .ratchetCount, .source, .ucodeOk, .cmdRd, .cmdWr, .cplRd,
   .cplWr, .spare, .reservedFor, .muckAtWake, .operand, .sequ, .tree]

/-- The register has the same value in both. -/
def StallReg.Same (a b : Machine.Stall) : StallReg → Prop
  | .state => b.state = a.state
  | .lastPaddock => b.lastPaddock = a.lastPaddock
  | .inPool => b.inPool = a.inPool
  | .dedicated => b.dedicated = a.dedicated
  | .muckouts => b.muckouts = a.muckouts
  | .runs => b.runs = a.runs
  | .jobs => b.jobs = a.jobs
  | .unsound => b.unsound = a.unsound
  | .reqFault => b.reqFault = a.reqFault
  | .reqStop => b.reqStop = a.reqStop
  | .reqClaim => b.reqClaim = a.reqClaim
  | .reqYield => b.reqYield = a.reqYield
  | .dirty => b.dirty = a.dirty
  | .muckFailed => b.muckFailed = a.muckFailed
  | .muckThen => b.muckThen = a.muckThen
  | .prefEnded => b.prefEnded = a.prefEnded
  | .scrubDue => b.scrubDue = a.scrubDue
  | .ratchet => b.ratchet = a.ratchet
  | .ratchetCount => b.ratchetCount = a.ratchetCount
  | .source => b.source = a.source
  | .ucodeOk => b.ucodeOk = a.ucodeOk
  | .cmdRd => b.cmdRd = a.cmdRd
  | .cmdWr => b.cmdWr = a.cmdWr
  | .cplRd => b.cplRd = a.cplRd
  | .cplWr => b.cplWr = a.cplWr
  | .spare => b.spare = a.spare
  | .reservedFor => b.reservedFor = a.reservedFor
  | .muckAtWake => b.muckAtWake = a.muckAtWake
  | .operand => b.operand = a.operand
  | .sequ => b.sequ = a.sequ
  | .tree => b.tree = a.tree

/-- The tack room: its registers and fields. -/
inductive TkReg where
  | slots | blobs | hbs | unsealed | restoring | hold | remask | lost | maskDraw | permDraw | ownerRoot | jseal | scrambled
deriving DecidableEq, Repr

def TkReg.all : List TkReg :=
  [.slots, .blobs, .hbs, .unsealed, .restoring, .hold, .remask, .lost, .maskDraw, .permDraw, .ownerRoot, .jseal, .scrambled]

/-- The register has the same value in both. -/
def TkReg.Same (a b : Machine.Tack) : TkReg → Prop
  | .slots => b.slots = a.slots
  | .blobs => b.blobs = a.blobs
  | .hbs => b.hbs = a.hbs
  | .unsealed => b.unsealed = a.unsealed
  | .restoring => b.restoring = a.restoring
  | .hold => b.hold = a.hold
  | .remask => b.remask = a.remask
  | .lost => b.lost = a.lost
  | .maskDraw => b.maskDraw = a.maskDraw
  | .permDraw => b.permDraw = a.permDraw
  | .ownerRoot => b.ownerRoot = a.ownerRoot
  | .jseal => b.jseal = a.jseal
  | .scrambled => b.scrambled = a.scrambled

/-- The random source: its registers and fields. -/
inductive RngReg where
  | ready | stopped | rawMode | katOk | healthy | isolated | retired | cmdErr | rct | apt | discarded | attempts | store
  | waiting | restarting | rawFrom | fifo | overflow | sel | ymDrbg | ymr
deriving DecidableEq, Repr

def RngReg.all : List RngReg :=
  [.ready, .stopped, .rawMode, .katOk, .healthy, .isolated, .retired, .cmdErr, .rct, .apt, .discarded, .attempts, .store,
   .waiting, .restarting, .rawFrom, .fifo, .overflow, .sel, .ymDrbg, .ymr]

/-- The register has the same value in both. -/
def RngReg.Same (a b : Machine.Rng) : RngReg → Prop
  | .ready => b.ready = a.ready
  | .stopped => b.stopped = a.stopped
  | .rawMode => b.rawMode = a.rawMode
  | .katOk => b.katOk = a.katOk
  | .healthy => b.healthy = a.healthy
  | .isolated => b.isolated = a.isolated
  | .retired => b.retired = a.retired
  | .cmdErr => b.cmdErr = a.cmdErr
  | .rct => b.rct = a.rct
  | .apt => b.apt = a.apt
  | .discarded => b.discarded = a.discarded
  | .attempts => b.attempts = a.attempts
  | .store => b.store = a.store
  | .waiting => b.waiting = a.waiting
  | .restarting => b.restarting = a.restarting
  | .rawFrom => b.rawFrom = a.rawFrom
  | .fifo => b.fifo = a.fifo
  | .overflow => b.overflow = a.overflow
  | .sel => b.sel = a.sel
  | .ymDrbg => b.ymDrbg = a.ymDrbg
  | .ymr => b.ymr = a.ymr

/-- A Benxis core: its registers and fields. -/
inductive CoreReg where
  | state | w | v | mlo | mhi | quo | rem | flg | vff | dsp | pc | mem | mul | div | rstack | spill | codeAt | codeLen | dsLow
  | dsHigh | spillAt | spillLen | trapVec | trapActive | double | lastCode | traps | declass | boot | vecUp | vecOn | windows
  | cmdErr | loads | waiting | loading | retired
deriving DecidableEq, Repr

def CoreReg.all : List CoreReg :=
  [.state, .w, .v, .mlo, .mhi, .quo, .rem, .flg, .vff, .dsp, .pc, .mem, .mul, .div, .rstack, .spill, .codeAt, .codeLen, .dsLow,
   .dsHigh, .spillAt, .spillLen, .trapVec, .trapActive, .double, .lastCode, .traps, .declass, .boot, .vecUp, .vecOn, .windows,
   .cmdErr, .loads, .waiting, .loading, .retired]

/-- The register has the same value in both. -/
def CoreReg.Same (a b : Machine.Core) : CoreReg → Prop
  | .state => b.state = a.state
  | .w => b.w = a.w
  | .v => b.v = a.v
  | .mlo => b.mlo = a.mlo
  | .mhi => b.mhi = a.mhi
  | .quo => b.quo = a.quo
  | .rem => b.rem = a.rem
  | .flg => b.flg = a.flg
  | .vff => b.vff = a.vff
  | .dsp => b.dsp = a.dsp
  | .pc => b.pc = a.pc
  | .mem => b.mem = a.mem
  | .mul => b.mul = a.mul
  | .div => b.div = a.div
  | .rstack => b.rstack = a.rstack
  | .spill => b.spill = a.spill
  | .codeAt => b.codeAt = a.codeAt
  | .codeLen => b.codeLen = a.codeLen
  | .dsLow => b.dsLow = a.dsLow
  | .dsHigh => b.dsHigh = a.dsHigh
  | .spillAt => b.spillAt = a.spillAt
  | .spillLen => b.spillLen = a.spillLen
  | .trapVec => b.trapVec = a.trapVec
  | .trapActive => b.trapActive = a.trapActive
  | .double => b.double = a.double
  | .lastCode => b.lastCode = a.lastCode
  | .traps => b.traps = a.traps
  | .declass => b.declass = a.declass
  | .boot => b.boot = a.boot
  | .vecUp => b.vecUp = a.vecUp
  | .vecOn => b.vecOn = a.vecOn
  | .windows => b.windows = a.windows
  | .cmdErr => b.cmdErr = a.cmdErr
  | .loads => b.loads = a.loads
  | .waiting => b.waiting = a.waiting
  | .loading => b.loading = a.loading
  | .retired => b.retired = a.retired

/-- The fault collector: its registers and fields. -/
inductive FcReg where
  | log | dropped | severeLost | overflowed | out | buckets | retired | outSel | bucketSel | claimed | testing | passes | fails
  | overdue | nextStall | ahead | corrected | toLog | spareRows | escNow | retireNow | heldExpiry
deriving DecidableEq, Repr

def FcReg.all : List FcReg :=
  [.log, .dropped, .severeLost, .overflowed, .out, .buckets, .retired, .outSel, .bucketSel, .claimed, .testing, .passes, .fails,
   .overdue, .nextStall, .ahead, .corrected, .toLog, .spareRows, .escNow, .retireNow, .heldExpiry]

/-- The register has the same value in both. -/
def FcReg.Same (a b : Machine.Faults) : FcReg → Prop
  | .log => b.log = a.log
  | .dropped => b.dropped = a.dropped
  | .severeLost => b.severeLost = a.severeLost
  | .overflowed => b.overflowed = a.overflowed
  | .out => b.out = a.out
  | .buckets => b.buckets = a.buckets
  | .retired => b.retired = a.retired
  | .outSel => b.outSel = a.outSel
  | .bucketSel => b.bucketSel = a.bucketSel
  | .claimed => b.claimed = a.claimed
  | .testing => b.testing = a.testing
  | .passes => b.passes = a.passes
  | .fails => b.fails = a.fails
  | .overdue => b.overdue = a.overdue
  | .nextStall => b.nextStall = a.nextStall
  | .ahead => b.ahead = a.ahead
  | .corrected => b.corrected = a.corrected
  | .toLog => b.toLog = a.toLog
  | .spareRows => b.spareRows = a.spareRows
  | .escNow => b.escNow = a.escNow
  | .retireNow => b.retireNow = a.retireNow
  | .heldExpiry => b.heldExpiry = a.heldExpiry

/-- The tamper monitor: its registers and fields. -/
inductive TpReg where
  | latched | response | tamperHold | resetRequired | sleepScramble | cmdErr | meshPending | meshOff | alarm | live | count
  | reserveDraw | meshOn | meshDraw
deriving DecidableEq, Repr

def TpReg.all : List TpReg :=
  [.latched, .response, .tamperHold, .resetRequired, .sleepScramble, .cmdErr, .meshPending, .meshOff, .alarm, .live, .count,
   .reserveDraw, .meshOn, .meshDraw]

/-- The register has the same value in both. -/
def TpReg.Same (a b : Machine.Tamper) : TpReg → Prop
  | .latched => b.latched = a.latched
  | .response => b.response = a.response
  | .tamperHold => b.tamperHold = a.tamperHold
  | .resetRequired => b.resetRequired = a.resetRequired
  | .sleepScramble => b.sleepScramble = a.sleepScramble
  | .cmdErr => b.cmdErr = a.cmdErr
  | .meshPending => b.meshPending = a.meshPending
  | .meshOff => b.meshOff = a.meshOff
  | .alarm => b.alarm = a.alarm
  | .live => b.live = a.live
  | .count => b.count = a.count
  | .reserveDraw => b.reserveDraw = a.reserveDraw
  | .meshOn => b.meshOn = a.meshOn
  | .meshDraw => b.meshDraw = a.meshDraw

/-- The hayloft: its registers and fields. -/
inductive HlReg where
  | geo | targets | blocks | objs | certs | certsNew | failed0 | failed1 | ready | rebuilding | spaceLow | flushReady
  | wpReleased | cmdErr | singleCopy | images | dir0 | dir1 | nf0 | nf1 | flush | faultLog | auditLog | boundB | retireMap
  | partials | swapImage | serials
deriving DecidableEq, Repr

def HlReg.all : List HlReg :=
  [.geo, .targets, .blocks, .objs, .certs, .certsNew, .failed0, .failed1, .ready, .rebuilding, .spaceLow, .flushReady,
   .wpReleased, .cmdErr, .singleCopy, .images, .dir0, .dir1, .nf0, .nf1, .flush, .faultLog, .auditLog, .boundB, .retireMap,
   .partials, .swapImage, .serials]

/-- The register has the same value in both. -/
def HlReg.Same (a b : Machine.Hayloft) : HlReg → Prop
  | .geo => b.geo = a.geo
  | .targets => b.targets = a.targets
  | .blocks => b.blocks = a.blocks
  | .objs => b.objs = a.objs
  | .certs => b.certs = a.certs
  | .certsNew => b.certsNew = a.certsNew
  | .failed0 => b.failed0 = a.failed0
  | .failed1 => b.failed1 = a.failed1
  | .ready => b.ready = a.ready
  | .rebuilding => b.rebuilding = a.rebuilding
  | .spaceLow => b.spaceLow = a.spaceLow
  | .flushReady => b.flushReady = a.flushReady
  | .wpReleased => b.wpReleased = a.wpReleased
  | .cmdErr => b.cmdErr = a.cmdErr
  | .singleCopy => b.singleCopy = a.singleCopy
  | .images => b.images = a.images
  | .dir0 => b.dir0 = a.dir0
  | .dir1 => b.dir1 = a.dir1
  | .nf0 => b.nf0 = a.nf0
  | .nf1 => b.nf1 = a.nf1
  | .flush => b.flush = a.flush
  | .faultLog => b.faultLog = a.faultLog
  | .auditLog => b.auditLog = a.auditLog
  | .boundB => b.boundB = a.boundB
  | .retireMap => b.retireMap = a.retireMap
  | .partials => b.partials = a.partials
  | .swapImage => b.swapImage = a.swapImage
  | .serials => b.serials = a.serials

/-- The tether: its registers and fields. -/
inductive TtReg where
  | lanes | linkUp | hbIn | retraining | retrains | retransmits | txSeq | rxSeq | unacked | mirror | mirrorA | mirrorCaps
  | mirrorH | split | partnerFailed | partnerTerm | partnerSerial | partnerPresent | mismatch | mirrorObjs
deriving DecidableEq, Repr

def TtReg.all : List TtReg :=
  [.lanes, .linkUp, .hbIn, .retraining, .retrains, .retransmits, .txSeq, .rxSeq, .unacked, .mirror, .mirrorA, .mirrorCaps,
   .mirrorH, .split, .partnerFailed, .partnerTerm, .partnerSerial, .partnerPresent, .mismatch, .mirrorObjs]

/-- The register has the same value in both. -/
def TtReg.Same (a b : Machine.Tether) : TtReg → Prop
  | .lanes => b.lanes = a.lanes
  | .linkUp => b.linkUp = a.linkUp
  | .hbIn => b.hbIn = a.hbIn
  | .retraining => b.retraining = a.retraining
  | .retrains => b.retrains = a.retrains
  | .retransmits => b.retransmits = a.retransmits
  | .txSeq => b.txSeq = a.txSeq
  | .rxSeq => b.rxSeq = a.rxSeq
  | .unacked => b.unacked = a.unacked
  | .mirror => b.mirror = a.mirror
  | .mirrorA => b.mirrorA = a.mirrorA
  | .mirrorCaps => b.mirrorCaps = a.mirrorCaps
  | .mirrorH => b.mirrorH = a.mirrorH
  | .split => b.split = a.split
  | .partnerFailed => b.partnerFailed = a.partnerFailed
  | .partnerTerm => b.partnerTerm = a.partnerTerm
  | .partnerSerial => b.partnerSerial = a.partnerSerial
  | .partnerPresent => b.partnerPresent = a.partnerPresent
  | .mismatch => b.mismatch = a.mismatch
  | .mirrorObjs => b.mirrorObjs = a.mirrorObjs

/-- The link tests: its registers and fields. -/
inductive LkReg where
  | sel | selTarget | tests
deriving DecidableEq, Repr

def LkReg.all : List LkReg :=
  [.sel, .selTarget, .tests]

/-- The register has the same value in both. -/
def LkReg.Same (a b : Machine.Links) : LkReg → Prop
  | .sel => b.sel = a.sel
  | .selTarget => b.selTarget = a.selTarget
  | .tests => b.tests = a.tests

/-- One register or field of State; of the functions, queues, paddocks, stalls and cores, that register of every one of them. -/
inductive Part where
  | sys (r : SysReg)
  | plan (r : PlanReg)
  | pl (r : PlReg)
  | lc (r : LcReg)
  | dbg (r : DbgReg)
  | en (r : EnReg)
  | port (r : PortReg)
  | fn (r : FnReg)
  | queue (r : QueueReg)
  | pad (r : PadReg)
  | jn (r : JnReg)
  | stall (r : StallReg)
  | tk (r : TkReg)
  | rng (r : RngReg)
  | core (r : CoreReg)
  | fc (r : FcReg)
  | tp (r : TpReg)
  | hl (r : HlReg)
  | tt (r : TtReg)
  | lk (r : LkReg)
  | time | jobs | yard | yardRetired | cache | feeds | scans | out | freeCtr | pending
deriving DecidableEq, Repr

/-- It has the same value in two states. -/
def Part.Same (s t : Machine.State) : Part → Prop
  | .sys r => r.Same s.sys t.sys
  | .plan r => r.Same s.plan t.plan
  | .pl r => r.Same s.pl t.pl
  | .lc r => r.Same s.lc t.lc
  | .dbg r => r.Same s.dbg t.dbg
  | .en r => r.Same s.en t.en
  | .port r => r.Same s.port t.port
  | .fn r => ∀ n, r.Same (Machine.fnAt s n) (Machine.fnAt t n)
  | .queue r => ∀ n, r.Same (Machine.qAt s n) (Machine.qAt t n)
  | .pad r => ∀ n, r.Same (Machine.padAt s n) (Machine.padAt t n)
  | .jn r => r.Same s.jn t.jn
  | .stall r => ∀ n, r.Same (Machine.stAt s n) (Machine.stAt t n)
  | .tk r => r.Same s.tk t.tk
  | .rng r => r.Same s.rng t.rng
  | .core r => ∀ n, r.Same (Machine.coreAt s n) (Machine.coreAt t n)
  | .fc r => r.Same s.fc t.fc
  | .tp r => r.Same s.tp t.tp
  | .hl r => r.Same s.hl t.hl
  | .tt r => r.Same s.tt t.tt
  | .lk r => r.Same s.lk t.lk
  | .time => t.time = s.time
  | .jobs => t.jobs = s.jobs
  | .yard => t.yard = s.yard
  | .yardRetired => t.yardRetired = s.yardRetired
  | .cache => t.cache = s.cache
  | .feeds => t.feeds = s.feeds
  | .scans => t.scans = s.scans
  | .out => t.out = s.out
  | .freeCtr => t.freeCtr = s.freeCtr
  | .pending => t.pending = s.pending

/-- Every register of the system block. -/
def Part.allSys : List Part := SysReg.all.map .sys

/-- Every register of the plan in force. -/
def Part.allPlan : List Part := PlanReg.all.map .plan

/-- Every register of the PL_ block. -/
def Part.allPl : List Part := PlReg.all.map .pl

/-- Every register of the life-cycle block. -/
def Part.allLc : List Part := LcReg.all.map .lc

/-- Every register of the debug block. -/
def Part.allDbg : List Part := DbgReg.all.map .dbg

/-- Every register of the energy planner. -/
def Part.allEn : List Part := EnReg.all.map .en

/-- Every register of the PCIe port. -/
def Part.allPort : List Part := PortReg.all.map .port

/-- Every register of each PCIe function. -/
def Part.allFn : List Part := FnReg.all.map .fn

/-- Every register of each hardware queue. -/
def Part.allQueue : List Part := QueueReg.all.map .queue

/-- Every register of each paddock. -/
def Part.allPad : List Part := PadReg.all.map .pad

/-- Every register of the journal block. -/
def Part.allJn : List Part := JnReg.all.map .jn

/-- Every register of each stall. -/
def Part.allStall : List Part := StallReg.all.map .stall

/-- Every register of the tack room. -/
def Part.allTk : List Part := TkReg.all.map .tk

/-- Every register of the random source. -/
def Part.allRng : List Part := RngReg.all.map .rng

/-- Every register of each Benxis core. -/
def Part.allCore : List Part := CoreReg.all.map .core

/-- Every register of the fault collector. -/
def Part.allFc : List Part := FcReg.all.map .fc

/-- Every register of the tamper monitor. -/
def Part.allTp : List Part := TpReg.all.map .tp

/-- Every register of the hayloft. -/
def Part.allHl : List Part := HlReg.all.map .hl

/-- Every register of the tether. -/
def Part.allTt : List Part := TtReg.all.map .tt

/-- Every register of the link tests. -/
def Part.allLk : List Part := LkReg.all.map .lk

/-- `b` differs from `a` in the listed places at most. -/
structure Keep {R P : Type} (same : R → R → P → Prop) (l : List P) (a b : R) : Prop where
  same : ∀ p, p ∉ l → same a b p

/-- The frame of a command: `t` differs from `s` in the listed registers at most. -/
abbrev Only (l : List Part) (s t : Machine.State) : Prop := Keep Part.Same l s t

/-- The state a command answers; the state before where it answers none. -/
def after (s : Machine.State) : Host.Outcome Machine.State Machine.Fault Machine.Refusal → Machine.State
  | .next t => t
  | .fault _ => s
  | .refused _ => s

/-- The registers that the end of a job may write. -/
def Part.finishJob : List Part :=
  [.stall .state, .stall .jobs, .stall .reqFault, .stall .reqStop, .stall .reqClaim, .stall .reqYield, .stall .muckFailed, .stall
    .muckThen, .stall .scrubDue, .stall .cplRd, .stall .cplWr, .stall .sequ, .stall .tree, .tk .slots, .tk .blobs, .tk .hbs, .jobs,
    .yard, .cache, .freeCtr]

/-- The registers that an instruction on a core may write. -/
def Part.runCore : List Part :=
  (Part.allCore ++ ([.sys .wakeDriven, .port .linkState, .fn .pmeStatus, .fn .vecs, .pad .extendLost, .out, .freeCtr] : List Part))

/-- The registers that a function reset may write. -/
def Part.functionReset : List Part :=
  [.sys .timeJournal, .port .linkState, .port .aspmL1, .port .aspmL11, .port .aspmL12, .port .vfEnable, .port .numVfs, .port
    .pmL11, .port .pmL12, .port .vfMse, .port .ari, .port .sysPage, .port .vfBars, .port .ltrUs, .port .ltrLive, .port .ltrQueue,
    .fn .cfg, .fn .present, .fn .bme, .fn .dState, .fn .msixEn, .fn .fnMask, .fn .pmeEn, .fn .pmeStatus, .fn .pmeAtCold, .fn
    .relaxed, .fn .idOrder, .fn .denied, .fn .errTimeout, .fn .errUrCa, .fn .errPoisoned, .fn .errQueue, .fn .errJob, .fn .vecs,
    .fn .evMap, .fn .cmpExpect, .fn .cmpSpoiled, .fn .cmpEq, .fn .cmpNe, .queue .state, .queue .remembered, .queue .defer, .queue
    .copies, .queue .heldBell, .queue .shadowOwed, .queue .fetchFailed, .queue .fetchTried, .jn .seq, .out]

/-- The registers that a draw of the random source may write. -/
def Part.request : List Part :=
  (Part.allQueue ++ ([.sys .timeJournal, .pad .caps, .pad .curGen, .pad .genDue, .pad .drbg, .pad .resetSeed, .jn .seq, .stall
    .ratchet, .stall .source, .tk .remask, .tk .maskDraw, .rng .store, .rng .waiting, .rng .ymDrbg, .freeCtr] : List Part))

/-- The registers that entries that retire silently may write. -/
def Part.retireSilents : List Part :=
  (Part.request ++ ([.port .linkState, .port .ltrUs, .port .ltrLive, .port .ltrQueue, .pad .snaps, .tk .slots, .tk .blobs, .tk
    .hbs, .tt .txSeq, .tt .unacked, .jobs, .yard, .cache, .out] : List Part))

/-- The registers that a queue in DRAIN may write. -/
def Part.drainQueue : List Part :=
  (Part.retireSilents ++ ([.stall .state, .stall .jobs, .stall .reqFault, .stall .reqStop, .stall .reqClaim, .stall .reqYield,
    .stall .muckFailed, .stall .muckThen, .stall .scrubDue, .stall .cplRd, .stall .cplWr, .stall .sequ, .stall .tree] : List Part))

/-- The registers that what reported faults reach may write. -/
def Part.settle : List Part :=
  (Part.drainQueue ++ Part.allPlan ++ Part.allFn ++ Part.allCore ++ Part.allLk ++ ([.sys .wakeDriven, .sys .ttHbo, .sys .loaded,
    .sys .firmware, .sys .fwSlot, .sys .fwBuild, .sys .wait, .sys .causeCold, .sys .causeWarmSw, .sys .causeWarmFatal, .sys
    .causeWarmApply, .sys .paddockResets, .sys .heldWarm, .sys .degraded, .pl .imgAddr, .pl .imgLen, .pl .busy, .pl .phase, .pl
    .err, .pl .swap, .pl .applying, .lc .slots, .lc .floorRecs, .lc .debugRecs, .lc .busy, .lc .step, .lc .token, .lc .tokenAddr,
    .lc .tokenLen, .dbg .scope, .dbg .padMask, .en .cmeas, .en .recNj, .en .fixedUj, .en .reserveLow, .port .doorbells, .pad
    .results, .pad .mrs, .pad .haltLog, .pad .haltOverflow, .pad .paused, .pad .inc, .pad .diags, .pad .extendLost, .pad
    .replayOwed, .pad .waitFor, .pad .containedUs, .pad .resetStalls, .pad .cacheLost, .jn .opened, .jn .role, .stall .inPool,
    .stall .dedicated, .stall .muckouts, .stall .unsound, .stall .dirty, .stall .prefEnded, .stall .ratchetCount, .stall .spare,
    .stall .reservedFor, .stall .muckAtWake, .stall .operand, .tk .lost, .rng .ready, .rng .stopped, .rng .rawMode, .rng .healthy,
    .rng .isolated, .rng .retired, .rng .cmdErr, .rng .attempts, .rng .restarting, .rng .fifo, .rng .ymr, .fc .log, .fc .dropped,
    .fc .severeLost, .fc .overflowed, .fc .out, .fc .buckets, .fc .retired, .fc .claimed, .fc .testing, .fc .ahead, .fc .corrected,
    .fc .toLog, .fc .spareRows, .fc .escNow, .fc .retireNow, .hl .targets, .hl .failed0, .hl .failed1, .hl .rebuilding, .hl
    .flushReady, .hl .singleCopy, .hl .images, .hl .dir0, .hl .dir1, .hl .retireMap, .hl .serials, .tt .lanes, .tt .linkUp, .tt
    .retraining, .tt .retrains, .tt .retransmits, .tt .split, .yardRetired, .feeds, .scans] : List Part))

/-- The registers that a fault report may write. -/
def Part.raiseFault : List Part :=
  (Part.drainQueue ++ Part.allPlan ++ Part.allFn ++ Part.allCore ++ Part.allLk ++ ([.sys .wakeDriven, .sys .ttHbo, .sys .loaded,
    .sys .firmware, .sys .fwSlot, .sys .fwBuild, .sys .wait, .sys .causeCold, .sys .causeWarmSw, .sys .causeWarmFatal, .sys
    .causeWarmApply, .sys .heldWarm, .sys .degraded, .pl .imgAddr, .pl .imgLen, .pl .busy, .pl .phase, .pl .err, .pl .swap, .pl
    .applying, .lc .slots, .lc .floorRecs, .lc .debugRecs, .lc .busy, .lc .step, .lc .token, .lc .tokenAddr, .lc .tokenLen, .dbg
    .scope, .dbg .padMask, .en .step, .en .cmeas, .en .recNj, .en .fixedUj, .en .reserveLow, .en .overtemp, .port .doorbells, .pad
    .results, .pad .mrs, .pad .haltLog, .pad .haltOverflow, .pad .paused, .pad .inc, .pad .diags, .pad .extendLost, .pad
    .replayOwed, .pad .waitFor, .pad .containedUs, .pad .resetStalls, .pad .cacheLost, .jn .opened, .jn .role, .stall .inPool,
    .stall .dedicated, .stall .muckouts, .stall .unsound, .stall .dirty, .stall .prefEnded, .stall .ratchetCount, .stall .ucodeOk,
    .stall .spare, .stall .reservedFor, .stall .muckAtWake, .stall .operand, .tk .lost, .rng .ready, .rng .stopped, .rng .rawMode,
    .rng .healthy, .rng .isolated, .rng .cmdErr, .rng .discarded, .rng .attempts, .rng .restarting, .rng .fifo, .rng .ymr, .fc
    .log, .fc .dropped, .fc .severeLost, .fc .overflowed, .fc .out, .fc .buckets, .fc .retired, .fc .claimed, .fc .testing, .fc
    .ahead, .fc .corrected, .fc .toLog, .fc .spareRows, .fc .escNow, .fc .retireNow, .hl .targets, .hl .failed0, .hl .failed1, .hl
    .rebuilding, .hl .flushReady, .hl .singleCopy, .hl .images, .hl .dir0, .hl .dir1, .hl .retireMap, .hl .serials, .tt .lanes, .tt
    .linkUp, .tt .retraining, .tt .retrains, .tt .retransmits, .tt .split, .yardRetired, .feeds, .scans] : List Part))

/-- The registers that a fail-over may write. -/
def Part.failover : List Part :=
  (Part.settle ++ ([.jn .term, .hl .boundB, .tt .hbIn, .tt .mirror, .tt .mirrorCaps, .tt .partnerFailed, .tt .partnerPresent] :
    List Part))

/-- The registers that the boot sequence may write. -/
def Part.coldBoot : List Part :=
  (Part.drainQueue ++ Part.allPlan ++ Part.allFn ++ Part.allCore ++ Part.allLk ++ ([.sys .porstN, .sys .wakeDriven, .sys
    .linkWidth, .sys .linkReversed, .sys .loaded, .sys .firmware, .sys .straps, .sys .stage, .sys .bootState, .sys .reason, .sys
    .fwSlot, .sys .fwBuild, .sys .wait, .sys .causeCold, .sys .causeWarmSw, .sys .causeWarmFatal, .sys .causeWarmApply, .sys
    .heldWarm, .sys .degraded, .pl .imgAddr, .pl .imgLen, .pl .busy, .pl .phase, .pl .err, .pl .errOffset, .pl .swap, .pl
    .applying, .lc .slots, .lc .floorRecs, .lc .debugRecs, .lc .decoded, .lc .state, .lc .epoch, .lc .ownerDigest, .lc .seq, .lc
    .busy, .lc .step, .lc .token, .lc .tokenAddr, .lc .tokenLen, .dbg .scope, .dbg .padMask, .en .rawCode, .en .convs, .en .offset,
    .en .gain, .en .calValid, .en .cmeas, .en .recNj, .en .fixedUj, .en .reserveLow, .port .linkUp, .port .doorbells, .pad
    .results, .pad .mrs, .pad .haltLog, .pad .haltOverflow, .pad .paused, .pad .inc, .pad .diags, .pad .extendLost, .pad
    .replayOwed, .pad .waitFor, .pad .containedUs, .pad .resetStalls, .pad .cacheLost, .jn .opened, .jn .bank0, .jn .bank1, .jn
    .fromFlush, .jn .lost, .jn .role, .jn .term, .jn .nextSeq, .jn .held, .stall .inPool, .stall .dedicated, .stall .muckouts,
    .stall .dirty, .stall .prefEnded, .stall .ratchetCount, .stall .ucodeOk, .stall .spare, .stall .reservedFor, .stall .operand,
    .tk .unsealed, .tk .restoring, .tk .permDraw, .tk .ownerRoot, .tk .jseal, .tk .scrambled, .rng .ready, .rng .stopped, .rng
    .rawMode, .rng .katOk, .rng .healthy, .rng .isolated, .rng .retired, .rng .cmdErr, .rng .attempts, .rng .restarting, .rng
    .fifo, .rng .ymr, .fc .log, .fc .dropped, .fc .severeLost, .fc .overflowed, .fc .out, .fc .buckets, .fc .retired, .fc .claimed,
    .fc .testing, .fc .ahead, .fc .corrected, .fc .toLog, .fc .escNow, .fc .retireNow, .tp .latched, .tp .response, .tp
    .tamperHold, .tp .meshPending, .tp .meshOff, .tp .alarm, .tp .count, .tp .meshOn, .tp .meshDraw, .hl .geo, .hl .targets, .hl
    .failed0, .hl .failed1, .hl .ready, .hl .flushReady, .hl .wpReleased, .hl .images, .hl .dir0, .hl .dir1, .hl .nf0, .hl .nf1,
    .hl .flush, .hl .auditLog, .hl .boundB, .hl .serials, .tt .lanes, .tt .linkUp, .tt .mirror, .tt .mirrorA, .tt .mirrorCaps, .tt
    .partnerTerm, .tt .partnerPresent, .tt .mismatch, .time, .feeds, .scans] : List Part))

/-- The registers that what a cold restart reaches may write. -/
def Part.reboot : List Part :=
  (Part.coldBoot ++ ([.sys .perstN, .sys .powerFailN, .sys .xtal, .sys .pllLocked, .sys .refclk, .sys .ttHbo, .sys .causeHif, .sys
    .causeClock, .sys .paddockResets, .sys .deepSleep, .sys .paddockSel, .sys .timeHayloft, .sys .boundary, .sys .tapIr, .sys
    .boundaryReg, .sys .mbistRan, .pl .stored, .lc .rootPresent, .lc .deviceRoot, .lc .deviceNumber, .lc .resetRequired, .lc .err,
    .lc .identity, .dbg .challengeDraw, .en .shed, .en .step, .en .meter, .en .padEnergy, .en .coreNj, .en .samples, .en .lastNj,
    .en .padSeen, .en .sleepFrom, .en .capQw, .en .windowMs, .en .i3cCap, .en .wakes, .en .capBinding, .en .withholdWakes, .en
    .withholdPads, .en .cmeasCap, .en .flushNj, .en .flushConv, .en .flushActive, .en .overtemp, .port .aspmL1, .port .aspmL11,
    .port .aspmL12, .port .vfEnable, .port .numVfs, .port .pmL11, .port .pmL12, .port .vfMse, .port .ari, .port .sysPage, .port
    .vfBars, .jn .shutdownDone, .jn .flushRecords, .jn .flushUs, .jn .flushResult, .jn .flushSeq, .jn .shutting, .jn .flushFrom,
    .jn .flushWait, .jn .bootAfterFlush, .jn .recDigests, .jn .deferNext, .jn .rr, .stall .lastPaddock, .stall .runs, .stall
    .unsound, .stall .cmdRd, .stall .cmdWr, .stall .muckAtWake, .tk .hold, .tk .lost, .rng .rct, .rng .apt, .rng .discarded, .rng
    .rawFrom, .rng .overflow, .rng .sel, .fc .outSel, .fc .bucketSel, .fc .passes, .fc .fails, .fc .overdue, .fc .nextStall, .fc
    .spareRows, .fc .heldExpiry, .tp .resetRequired, .tp .sleepScramble, .tp .cmdErr, .tp .live, .tp .reserveDraw, .hl .blocks, .hl
    .objs, .hl .certs, .hl .certsNew, .hl .rebuilding, .hl .spaceLow, .hl .cmdErr, .hl .singleCopy, .hl .faultLog, .hl .retireMap,
    .hl .partials, .hl .swapImage, .tt .hbIn, .tt .retraining, .tt .retrains, .tt .retransmits, .tt .rxSeq, .tt .mirrorH, .tt
    .split, .tt .partnerFailed, .tt .partnerSerial, .tt .mirrorObjs] : List Part))

/-- The registers that a command may write, its arguments aside. -/
def frameOf : Instr → List Part
  | .coldReset .. => (Part.reboot)
  | .porstNRise .. => (Part.coldBoot ++ ([.sys .ttHbo, .sys .paddockResets, .stall .unsound, .stall .muckAtWake, .tk .lost, .fc
      .spareRows, .hl .rebuilding, .hl .singleCopy, .hl .retireMap, .tt .retraining, .tt .retrains, .tt .retransmits, .tt .split,
      .yardRetired] : List Part))
  | .bootReserveRecheck .. => (Part.settle ++ ([.sys .stage, .sys .bootState, .sys .reason, .port .linkUp, .jn .bank0, .jn .bank1,
      .jn .fromFlush, .jn .lost, .jn .term, .jn .nextSeq, .jn .held, .tk .unsealed, .tk .restoring, .tk .permDraw, .tk .ownerRoot,
      .tk .jseal, .tk .scrambled, .rng .katOk, .tp .latched, .tp .response, .tp .tamperHold, .tp .alarm, .tp .count, .hl .flush,
      .hl .auditLog, .hl .boundB, .tt .mirror, .tt .mirrorA, .tt .mirrorCaps] : List Part))
  | .bootPowerFailWaitEnd .. => (Part.settle ++ ([.sys .powerFailN, .sys .stage, .sys .bootState, .sys .reason, .port .linkUp, .jn
      .bank0, .jn .bank1, .jn .fromFlush, .jn .lost, .jn .term, .jn .nextSeq, .jn .held, .tk .unsealed, .tk .restoring, .tk
      .permDraw, .tk .ownerRoot, .tk .jseal, .tk .scrambled, .rng .katOk, .tp .latched, .tp .response, .tp .tamperHold, .tp .alarm,
      .tp .count, .hl .flush, .hl .auditLog, .hl .boundB, .tt .mirror, .tt .mirrorA, .tt .mirrorCaps] : List Part))
  | .powerFailFlush .. => (Part.finishJob ++ ([.sys .powerFailN, .sys .wakeDriven, .sys .deepSleep, .sys .timeJournal, .dbg .scope,
      .dbg .padMask, .en .shed, .en .flushNj, .en .flushConv, .en .reserveLow, .en .flushActive, .port .linkUp, .port .linkState,
      .port .ltrUs, .port .ltrLive, .port .ltrQueue, .fn .pmeStatus, .fn .vecs, .queue .a, .queue .headDeferred, .queue .copies,
      .queue .shadowOwed, .pad .caps, .pad .genDue, .pad .snaps, .pad .extendLost, .jn .opened, .jn .nextSeq, .jn .seq, .jn
      .flushFrom, .stall .lastPaddock, .stall .inPool, .stall .dedicated, .stall .muckouts, .stall .runs, .stall .unsound, .stall
      .dirty, .stall .prefEnded, .stall .ratchet, .stall .ratchetCount, .stall .source, .stall .ucodeOk, .stall .cmdRd, .stall
      .cmdWr, .stall .spare, .stall .reservedFor, .stall .muckAtWake, .stall .operand, .core .state, .core .w, .core .pc, .core
      .waiting, .core .loading, .tp .sleepScramble, .hl .boundB, .tt .lanes, .lk .tests, .time, .out] : List Part))
  | .flushComplete .. => (Part.reboot ++ ([.yardRetired] : List Part))
  | .powerFailRise .. => (Part.reboot ++ ([.yardRetired] : List Part))
  | .xtal25Loss .. => (Part.reboot)
  | .xtal25Restore .. => (Part.coldBoot ++ ([.sys .xtal, .sys .ttHbo, .sys .causeClock, .sys .paddockResets, .jn .bootAfterFlush,
      .stall .unsound, .stall .muckAtWake, .tk .lost, .fc .spareRows, .hl .rebuilding, .hl .singleCopy, .hl .retireMap, .tt
      .retraining, .tt .retrains, .tt .retransmits, .tt .split, .yardRetired] : List Part))
  | .syReset .. => (Part.settle)
  | .warmReset .. => (Part.settle)
  | .syPaddockReset .. => (Part.settle)
  | .hostInterfaceReset .. => (Part.functionReset ++ ([.sys .perstN, .sys .wakeDriven, .sys .causeHif, .sys .deepSleep, .en .shed,
      .port .linkUp, .port .doorbells, .fn .vecSize, .fn .qcRing, .fn .qcLog2, .fn .qcVector, .fn .qcWake, .fn .qcCrcReq, .fn
      .qcIrqEn, .fn .qcShadowEn, .fn .qcShadowAddr, .fn .cmdQueue, .fn .cmdCmd, .fn .cmdBusy, .fn .cmdLost, .fn .cmdResult, .fn
      .statSel, .fn .cmpSlot, .fn .cmpLen, .fn .cmpGo, .fn .tkSel, .fn .tkSelBlob, .fn .bxImgAddr, .fn .fcResult, .fn .hlLog, .fn
      .hlEntry, .fn .hlWord, .fn .certSel, .fn .certOff, .fn .latch, .queue .p, .queue .errReason, .queue .errDetail, .queue
      .errIndex, .queue .pend, .queue .recordedP, .pad .results, .pad .haltLog, .pad .haltOverflow, .tp .sleepScramble, .tt .lanes,
      .lk .tests, .freeCtr] : List Part))
  | .configRequest .. => (Part.functionReset ++ ([.en .padEnergy, .fn .vecSize, .queue .ring, .queue .ringSecret, .pad .results,
      .pad .mrs, .pad .diags, .tk .slots, .tk .blobs, .core .mem, .jobs, .yard] : List Part))
  | .functionLevelReset .. => (Part.functionReset)
  | .vfEnableClear .. => [.sys .timeJournal, .port .linkState, .port .vfEnable, .port .numVfs, .port .ltrUs, .port .ltrLive, .port
      .ltrQueue, .fn .cfg, .fn .present, .fn .bme, .fn .dState, .fn .msixEn, .fn .fnMask, .fn .pmeEn, .fn .pmeStatus, .fn
      .pmeAtCold, .fn .relaxed, .fn .idOrder, .fn .denied, .fn .errTimeout, .fn .errUrCa, .fn .errPoisoned, .fn .errQueue, .fn
      .errJob, .fn .vecs, .fn .evMap, .fn .cmpExpect, .fn .cmpSpoiled, .fn .cmpEq, .fn .cmpNe, .queue .state, .queue .remembered,
      .queue .defer, .queue .copies, .queue .heldBell, .queue .shadowOwed, .queue .fetchFailed, .queue .fetchTried, .jn .seq, .out]
  | .vfEnable .. => [.port .vfEnable, .port .numVfs, .fn .present, .fn .vecSize]
  | .busMasterEnableSet .. => [.sys .timeJournal, .en .padEnergy, .port .linkState, .fn .bme, .fn .vecs, .fn .cmpExpect, .fn
      .cmpSpoiled, .fn .cmpEq, .fn .cmpNe, .queue .shadowOwed, .queue .ring, .queue .ringSecret, .pad .results, .pad .mrs, .pad
      .diags, .jn .seq, .tk .slots, .tk .blobs, .core .mem, .jobs, .yard, .out]
  | .d3hotEntry .. => [.fn .dState]
  | .d0Return .. => [.sys .timeJournal, .en .padEnergy, .port .linkState, .fn .dState, .fn .vecs, .fn .cmpExpect, .fn .cmpSpoiled,
      .fn .cmpEq, .fn .cmpNe, .queue .shadowOwed, .queue .ring, .queue .ringSecret, .pad .results, .pad .mrs, .pad .diags, .jn
      .seq, .tk .slots, .tk .blobs, .core .mem, .jobs, .yard, .out]
  | .msixEnableSet .. => [.port .linkState, .fn .msixEn, .fn .vecs, .out]
  | .vectorUnmask .. => [.port .linkState, .fn .fnMask, .fn .vecs, .out]
  | .hiVecModWrite .. => [.port .linkState, .fn .denied, .fn .vecs, .fn .cmpExpect, .fn .cmpSpoiled, .fn .cmpEq, .fn .cmpNe, .pad
      .results, .out]
  | .vectorTimerExpiry .. => [.port .linkState, .fn .vecs, .out]
  | .wakeCountExpiry .. => [.sys .wakeDriven, .fn .pmeStatus, .fn .vecs, .out]
  | .aspmL1Entry .. => [.port .linkState]
  | .refclkLoss .. => (Part.raiseFault ++ ([.sys .refclk, .sys .paddockResets, .port .linkUp, .rng .retired] : List Part))
  | .linkReturn .. => (Part.functionReset ++ ([.sys .refclk, .sys .linkWidth, .sys .linkReversed, .sys .causeHif, .en .shed, .port
      .linkUp, .fn .vecSize, .fn .qcRing, .fn .qcLog2, .fn .qcVector, .fn .qcWake, .fn .qcCrcReq, .fn .qcIrqEn, .fn .qcShadowEn,
      .fn .qcShadowAddr, .fn .cmdQueue, .fn .cmdCmd, .fn .cmdBusy, .fn .cmdLost, .fn .cmdResult, .fn .statSel, .fn .cmpSlot, .fn
      .cmpLen, .fn .cmpGo, .fn .tkSel, .fn .tkSelBlob, .fn .bxImgAddr, .fn .fcResult, .fn .hlLog, .fn .hlEntry, .fn .hlWord, .fn
      .certSel, .fn .certOff, .fn .latch, .fc .out, .tt .lanes, .lk .tests, .freeCtr] : List Part))
  | .poisonedWrite .. => [.fn .cfg, .fn .errPoisoned, .fn .cmpExpect, .fn .cmpSpoiled, .fn .cmpEq, .fn .cmpNe, .pad .results, .out]
  | .barAccessInvalid .. => [.port .linkState, .fn .denied, .fn .cmpExpect, .fn .cmpSpoiled, .fn .cmpEq, .fn .cmpNe, .pad .results,
      .out]
  | .bar4WindowAccess .. => [.port .linkState, .fn .denied, .fn .cmpExpect, .fn .cmpSpoiled, .fn .cmpEq, .fn .cmpNe, .pad .results,
      .core .mem, .feeds, .out]
  | .feedWindowWrite .. => [.port .linkState, .fn .denied, .fn .cmpExpect, .fn .cmpSpoiled, .fn .cmpEq, .fn .cmpNe, .pad .results,
      .core .mem, .feeds, .out]
  | .multiwordRead .. => [.port .linkState, .fn .latch, .out]
  | .registerWrite .. => (Part.allLk ++ ([.sys .causeCold, .sys .causeWarmSw, .sys .causeWarmFatal, .sys .causeWarmApply, .sys
      .causeHif, .sys .causeClock, .sys .paddockResets, .sys .paddockSel, .pl .imgAddr, .pl .imgLen, .lc .tokenAddr, .lc .tokenLen,
      .port .linkState, .fn .fnMask, .fn .denied, .fn .errTimeout, .fn .errUrCa, .fn .errPoisoned, .fn .vecs, .fn .evMap, .fn
      .qcRing, .fn .qcLog2, .fn .qcVector, .fn .qcWake, .fn .qcCrcReq, .fn .qcIrqEn, .fn .qcShadowEn, .fn .qcShadowAddr, .fn
      .cmdLost, .fn .statSel, .fn .cmpExpect, .fn .cmpSpoiled, .fn .cmpEq, .fn .cmpNe, .fn .tkSel, .fn .tkSelBlob, .fn .bxImgAddr,
      .fn .hlLog, .fn .hlEntry, .fn .hlWord, .pad .results, .pad .haltOverflow, .rng .overflow, .fc .dropped, .fc .severeLost, .fc
      .outSel, .fc .bucketSel, .feeds, .out] : List Part))
  | .doorbellWrite .. => [.sys .wakeDriven, .sys .timeJournal, .port .linkState, .port .doorbells, .fn .pmeStatus, .fn .denied, .fn
      .vecs, .fn .cmpExpect, .fn .cmpSpoiled, .fn .cmpEq, .fn .cmpNe, .queue .state, .queue .p, .queue .errReason, .queue
      .errDetail, .queue .errIndex, .queue .defer, .queue .copies, .queue .heldBell, .queue .shadowOwed, .queue .pend, .queue
      .fetchFailed, .queue .fetchTried, .queue .recordedP, .pad .results, .pad .haltLog, .pad .haltOverflow, .jn .seq, .out]
  | .descriptorFetchDone .. => [.queue .copies, .queue .fetchTried]
  | .hostReadFail .. => (Part.settle)
  | .gateEvaluate .. => [.sys .wakeDriven, .sys .timeJournal, .port .linkState, .fn .pmeStatus, .fn .vecs, .queue .state, .queue
      .errReason, .queue .errDetail, .queue .errIndex, .queue .defer, .queue .deferOrder, .queue .headDeferred, .queue .recheck,
      .queue .copies, .queue .shadowOwed, .queue .fetchFailed, .queue .fetchTried, .pad .haltLog, .pad .haltOverflow, .jn .seq, .jn
      .deferNext, .jn .rr, .tk .slots, .tk .blobs, .jobs, .cache, .out]
  | .deferredReevaluate .. => [.sys .wakeDriven, .sys .timeJournal, .port .linkState, .fn .pmeStatus, .fn .vecs, .queue .state,
      .queue .errReason, .queue .errDetail, .queue .errIndex, .queue .defer, .queue .deferOrder, .queue .headDeferred, .queue
      .recheck, .queue .copies, .queue .shadowOwed, .queue .fetchFailed, .queue .fetchTried, .pad .haltLog, .pad .haltOverflow, .jn
      .seq, .jn .deferNext, .tk .slots, .tk .blobs, .jobs, .cache, .out]
  | .gateAccept .. => (Part.raiseFault ++ ([.sys .paddockResets, .jn .nextSeq, .rng .retired, .hl .boundB, .time] : List Part))
  | .refillCommit .. => (Part.allQueue ++ ([.tk .hbs, .tt .txSeq, .tt .unacked, .out] : List Part))
  | .captureGenDraw .. => (Part.request)
  | .dispatch .. => (Part.raiseFault ++ ([.en .shed, .stall .lastPaddock, .stall .runs, .stall .cmdRd, .stall .cmdWr] : List Part))
  | .lowPrioPromote .. => [.jobs, .yard]
  | .poolPreferenceExpiry .. => [.stall .prefEnded]
  | .pkeYieldRequest .. => [.stall .reqYield, .stall .reservedFor]
  | .digestYieldRequest .. => [.stall .reqYield, .stall .reservedFor]
  | .mceYieldRequest .. => [.stall .reqYield, .stall .reservedFor]
  | .stallSafePoint .. => (Part.settle)
  | .completionWrite .. => [.sys .wakeDriven, .sys .timeJournal, .en .padEnergy, .port .linkState, .fn .pmeStatus, .fn .vecs, .fn
      .cmpExpect, .fn .cmpSpoiled, .fn .cmpEq, .fn .cmpNe, .queue .ring, .queue .ringSecret, .pad .results, .pad .mrs, .pad .diags,
      .pad .replayOwed, .jn .seq, .tk .slots, .tk .blobs, .core .mem, .jobs, .yard, .out]
  | .recordRetire .. => (Part.retireSilents ++ ([.sys .wakeDriven, .fn .pmeStatus, .fn .vecs, .pad .replayOwed] : List Part))
  | .qEnable .. => [.sys .timeJournal, .port .linkState, .port .ltrUs, .port .ltrLive, .port .ltrQueue, .fn .cmdQueue, .fn .cmdCmd,
      .fn .cmdLost, .fn .cmdResult, .queue .state, .queue .remembered, .queue .base, .queue .k, .queue .vector, .queue .wake,
      .queue .crcReq, .queue .irqEn, .queue .shadowEn, .queue .shadowAddr, .queue .fn, .queue .bx, .queue .p, .queue .a, .queue .t,
      .queue .gen, .queue .errReason, .queue .errDetail, .queue .errIndex, .queue .defer, .queue .deferOrder, .queue .headDeferred,
      .queue .recheck, .queue .copies, .queue .heldBell, .queue .shadowOwed, .queue .pend, .queue .fetchFailed, .queue .fetchTried,
      .queue .standby, .queue .recordedP, .queue .forgetting, .queue .ring, .queue .ringCells, .queue .ringSecret, .jn .seq, .out]
  | .qDisable .. => (Part.drainQueue ++ ([.sys .wakeDriven, .fn .pmeStatus, .fn .vecs, .fn .cmdQueue, .fn .cmdCmd, .fn .cmdLost,
      .fn .cmdResult, .pad .replayOwed] : List Part))
  | .qContinue .. => [.sys .timeJournal, .port .linkState, .fn .cmdQueue, .fn .cmdCmd, .fn .cmdLost, .fn .cmdResult, .queue .state,
      .queue .errReason, .queue .errDetail, .queue .errIndex, .queue .defer, .queue .copies, .queue .shadowOwed, .queue
      .fetchFailed, .queue .fetchTried, .jn .seq, .out]
  | .qResume .. => (Part.drainQueue ++ ([.sys .wakeDriven, .en .padEnergy, .fn .pmeStatus, .fn .denied, .fn .vecs, .fn .cmdQueue,
      .fn .cmdCmd, .fn .cmdLost, .fn .cmdResult, .fn .cmpExpect, .fn .cmpSpoiled, .fn .cmpEq, .fn .cmpNe, .pad .results, .pad .mrs,
      .pad .haltLog, .pad .haltOverflow, .pad .diags, .core .mem] : List Part))
  | .qForget .. => (Part.retireSilents ++ ([.sys .wakeDriven, .fn .pmeStatus, .fn .vecs, .fn .cmdQueue, .fn .cmdCmd, .fn .cmdLost,
      .fn .cmdResult, .pad .replayOwed, .stall .state, .stall .jobs, .stall .reqFault, .stall .reqStop, .stall .reqClaim, .stall
      .reqYield, .stall .muckFailed, .stall .muckThen, .stall .sequ, .stall .tree] : List Part))
  | .queueDrainComplete .. => (Part.allQueue ++ ([.sys .timeJournal, .port .linkState, .port .ltrUs, .port .ltrLive, .port
      .ltrQueue, .jn .seq, .yard, .out] : List Part))
  | .pendingEnableSwitch .. => [.sys .wakeDriven, .sys .timeJournal, .port .linkState, .port .ltrUs, .port .ltrLive, .port
      .ltrQueue, .fn .pmeStatus, .fn .vecs, .queue .state, .queue .remembered, .queue .base, .queue .k, .queue .vector, .queue
      .wake, .queue .crcReq, .queue .irqEn, .queue .shadowEn, .queue .shadowAddr, .queue .fn, .queue .bx, .queue .p, .queue .a,
      .queue .t, .queue .gen, .queue .errReason, .queue .errDetail, .queue .errIndex, .queue .defer, .queue .deferOrder, .queue
      .headDeferred, .queue .recheck, .queue .copies, .queue .heldBell, .queue .shadowOwed, .queue .pend, .queue .fetchFailed,
      .queue .fetchTried, .queue .standby, .queue .recordedP, .queue .forgetting, .queue .ring, .queue .ringCells, .queue
      .ringSecret, .pad .haltLog, .pad .haltOverflow, .jn .seq, .out]
  | .haltLogRead .. => [.port .linkState, .pad .haltLog, .out]
  | .energySample .. => [.en .step, .en .meter, .en .padEnergy, .en .coreNj, .en .samples, .en .lastNj, .en .padSeen, .en
      .capBinding, .en .withholdWakes, .en .withholdPads, .jobs, .yard]
  | .enCapWrite .. => [.en .capQw, .en .windowMs]
  | .i3cCapSet .. => (Part.settle ++ ([.sys .deepSleep, .en .shed, .en .i3cCap, .tp .sleepScramble] : List Part))
  | .i3cIdentityRead .. => (Part.settle ++ ([.sys .deepSleep, .en .shed, .tp .sleepScramble] : List Part))
  | .holdupAdcConversion .. => (Part.allQueue ++ ([.sys .wakeDriven, .en .rawCode, .en .convs, .en .reserveLow, .port .linkState,
      .fn .pmeStatus, .fn .vecs, .out] : List Part))
  | .adcCalibrate .. => [.en .offset, .en .gain, .en .calValid]
  | .reserveLowClear .. => (Part.allQueue ++ ([.en .reserveLow] : List Part))
  | .shedWakeGrant .. => [.en .shed, .en .step, .en .wakes]
  | .shedWakeDone .. => (Part.request ++ ([.en .shed, .en .step, .stall .state, .stall .jobs, .stall .reqFault, .stall .reqStop,
      .stall .reqYield, .stall .muckFailed, .stall .muckThen, .stall .ratchetCount, .stall .muckAtWake, .stall .sequ, .stall .tree,
      .core .loading] : List Part))
  | .shedIdleTimeout .. => [.en .shed, .en .sleepFrom, .stall .state, .stall .jobs, .stall .reqFault, .stall .reqStop, .stall
      .reqYield, .stall .muckFailed, .stall .muckThen, .stall .sequ, .stall .tree]
  | .shedSleepDone .. => [.en .shed, .stall .state, .stall .operand, .core .state, .core .w, .core .v, .core .mlo, .core .mhi,
      .core .quo, .core .rem, .core .flg, .core .vff, .core .dsp, .core .pc, .core .mem, .core .mul, .core .div, .core .rstack,
      .core .spill, .core .codeAt, .core .codeLen, .core .dsLow, .core .dsHigh, .core .spillAt, .core .spillLen, .core .trapVec,
      .core .trapActive, .core .double, .core .boot, .core .vecUp, .core .vecOn, .core .windows, .core .waiting, .core .loading]
  | .deepSleepEntry .. => (Part.allPad ++ ([.sys .deepSleep, .en .shed, .stall .state, .stall .muckouts, .stall .dirty, .stall
      .operand, .rng .ready, .rng .attempts, .rng .store, .rng .waiting, .rng .restarting, .rng .fifo, .rng .ymDrbg, .core .state,
      .core .w, .core .v, .core .mlo, .core .mhi, .core .quo, .core .rem, .core .flg, .core .vff, .core .dsp, .core .pc, .core
      .mem, .core .mul, .core .div, .core .rstack, .core .spill, .core .codeAt, .core .codeLen, .core .dsLow, .core .dsHigh, .core
      .spillAt, .core .spillLen, .core .trapVec, .core .trapActive, .core .double, .core .boot, .core .vecUp, .core .vecOn, .core
      .windows, .core .waiting, .core .loading, .tp .reserveDraw, .freeCtr] : List Part))
  | .deepSleepExit .. => (Part.settle ++ ([.sys .deepSleep, .en .shed, .tp .sleepScramble] : List Part))
  | .timeBaseSave .. => [.sys .timeJournal, .sys .timeHayloft, .jn .seq]
  | .journalScrub .. => (Part.raiseFault ++ ([.sys .paddockResets, .rng .retired] : List Part))
  | .loadPartial .. => [.pl .busy, .pl .phase, .pl .err, .pl .errOffset, .pl .swap, .pad .paused, .stall .state, .stall .jobs,
      .stall .reqFault, .stall .reqStop, .stall .reqClaim, .stall .reqYield, .stall .muckFailed, .stall .muckThen, .stall .sequ,
      .stall .tree, .hl .swapImage]
  | .partialSwitch .. => (Part.settle ++ ([.en .padEnergy, .jn .recDigests, .hl .auditLog, .hl .partials, .hl .swapImage] : List
      Part))
  | .partialDrainTimeout .. => (Part.allQueue ++ ([.pl .busy, .pl .phase, .pl .err, .pl .swap, .pl .applying, .pad .paused] : List
      Part))
  | .storeImage .. => [.pl .err, .pl .errOffset, .pl .stored, .hl .images, .hl .dir0, .hl .dir1]
  | .plApply .. => [.pl .busy, .pl .phase, .pl .err, .pl .errOffset, .pl .applying, .hl .auditLog]
  | .plApplyDrained .. => (Part.settle ++ ([.pl .stored] : List Part))
  | .plApplyDrainTimeout .. => (Part.allQueue ++ ([.pl .busy, .pl .phase, .pl .err, .pl .swap, .pl .applying, .pad .paused] : List
      Part))
  | .abortSwap .. => (Part.allQueue ++ ([.pl .busy, .pl .phase, .pl .err, .pl .swap, .pl .applying, .pad .paused] : List Part))
  | .lcTransition .. => [.sys .wakeDriven, .lc .busy, .lc .err, .lc .step, .lc .token, .dbg .scope, .dbg .padMask, .port
      .linkState, .fn .pmeStatus, .fn .vecs, .pad .extendLost, .rng .ready, .rng .rawMode, .rng .attempts, .rng .fifo, .core
      .state, .core .w, .core .pc, .core .waiting, .core .loading, .out]
  | .lcDrained .. => [.lc .slots, .lc .rootPresent, .lc .deviceRoot, .lc .deviceNumber, .lc .step, .stall .state, .stall .muckouts,
      .stall .jobs, .stall .reqFault, .stall .reqStop, .stall .reqClaim, .stall .reqYield, .stall .dirty, .stall .muckFailed,
      .stall .muckThen, .stall .prefEnded, .stall .scrubDue, .stall .reservedFor, .stall .operand, .stall .sequ, .stall .tree,
      .freeCtr]
  | .lcDrainTimeout .. => (Part.allQueue ++ ([.lc .slots, .lc .busy, .lc .err, .lc .step, .lc .token] : List Part))
  | .ledgerProgramDone .. => [.lc .slots, .lc .busy, .lc .resetRequired, .lc .step, .lc .token, .jn .opened, .hl .auditLog]
  | .lcComplete .. => [.lc .slots, .lc .rootPresent, .lc .deviceRoot, .lc .deviceNumber, .lc .busy, .lc .resetRequired, .lc .err,
      .lc .step, .lc .token, .jn .opened, .hl .auditLog, .freeCtr]
  | .genIdentity .. => [.lc .err, .lc .identity, .port .linkState, .out]
  | .storeCerts .. => [.lc .err, .en .shed, .hl .objs, .hl .certsNew]
  | .i3cTokenMailbox .. => [.sys .wakeDriven, .lc .slots, .lc .rootPresent, .lc .deviceRoot, .lc .deviceNumber, .lc .busy, .lc
      .resetRequired, .lc .err, .lc .step, .lc .token, .dbg .scope, .dbg .padMask, .port .linkState, .fn .pmeStatus, .fn .vecs,
      .pad .extendLost, .jn .opened, .rng .ready, .rng .rawMode, .rng .attempts, .rng .fifo, .core .state, .core .w, .core .pc,
      .core .waiting, .core .loading, .hl .auditLog, .out, .freeCtr]
  | .certDataRead .. => [.port .linkState, .fn .certOff, .out]
  | .lcCertSelWrite .. => [.fn .certSel, .fn .certOff]
  | .dbgToken .. => (Part.allDbg ++ ([.sys .tapIr, .lc .debugRecs, .rng .ymr, .hl .auditLog, .freeCtr] : List Part))
  | .debugClose .. => [.dbg .scope, .dbg .padMask]
  | .jnShutdown .. => [.jn .shutting]
  | .shutdownFlush .. => (Part.finishJob ++ ([.sys .wakeDriven, .sys .timeJournal, .en .shed, .en .reserveLow, .port .linkState,
      .port .ltrUs, .port .ltrLive, .port .ltrQueue, .fn .pmeStatus, .fn .vecs, .queue .a, .queue .headDeferred, .queue .copies,
      .queue .shadowOwed, .pad .caps, .pad .genDue, .pad .snaps, .pad .extendLost, .jn .opened, .jn .shutdownDone, .jn .nextSeq,
      .jn .seq, .jn .flushRecords, .jn .flushUs, .jn .flushResult, .jn .flushSeq, .jn .shutting, .jn .flushFrom, .stall
      .lastPaddock, .stall .inPool, .stall .dedicated, .stall .muckouts, .stall .runs, .stall .unsound, .stall .dirty, .stall
      .prefEnded, .stall .ratchet, .stall .ratchetCount, .stall .source, .stall .ucodeOk, .stall .cmdRd, .stall .cmdWr, .stall
      .spare, .stall .reservedFor, .stall .muckAtWake, .stall .operand, .core .state, .core .w, .core .pc, .core .waiting, .core
      .loading, .hl .flush, .hl .boundB, .time, .out] : List Part))
  | .twinWaitTimeout .. => (Part.settle ++ ([.sys .stage, .sys .bootState, .tt .partnerFailed] : List Part))
  | .twinPartnerPresent .. => (Part.settle ++ ([.sys .stage, .sys .bootState, .jn .term, .tt .mirror, .tt .mirrorA, .tt
      .mirrorCaps, .tt .partnerFailed, .tt .partnerTerm, .tt .partnerPresent] : List Part))
  | .twinPartnerFailed .. => (Part.failover)
  | .twinLanesLost .. => (Part.settle)
  | .tetherFrameReceive .. => (Part.raiseFault ++ ([.sys .paddockResets, .jn .nextSeq, .rng .retired, .hl .boundB, .tt .rxSeq, .tt
      .mirror, .tt .mirrorA, .tt .mirrorCaps, .tt .mirrorH, .tt .partnerTerm, .tt .partnerSerial, .tt .partnerPresent, .tt
      .mismatch, .tt .mirrorObjs] : List Part))
  | .tetherRetransmitTimeout .. => (Part.raiseFault ++ ([.sys .paddockResets, .rng .retired] : List Part))
  | .tetherLaneFail .. => (Part.raiseFault ++ ([.sys .paddockResets, .rng .retired] : List Part))
  | .heartbeatToggle .. => [.sys .ttHbo]
  | .faultReport .. => (Part.reboot ++ ([.yardRetired] : List Part))
  | .bucketLeak .. => [.fc .buckets]
  | .escalationExpiry .. => (Part.settle ++ ([.fc .heldExpiry] : List Part))
  | .fcAck .. => [.fn .fcResult, .fc .out, .fc .ahead]
  | .fcClear .. => [.fn .fcResult, .fc .out]
  | .faultLogRead .. => [.port .linkState, .fc .log, .fc .overflowed, .out]
  | .faultLogAppend .. => [.fc .corrected, .fc .toLog, .hl .faultLog]
  | .farrierClaim .. => [.en .wakes, .stall .state, .stall .jobs, .stall .reqFault, .stall .reqStop, .stall .reqClaim, .stall
      .reqYield, .stall .muckFailed, .stall .muckThen, .stall .sequ, .stall .tree, .fc .claimed, .fc .overdue, .fc .nextStall, .fc
      .ahead]
  | .selftestDone .. => (Part.raiseFault ++ ([.sys .paddockResets, .rng .retired, .fc .passes, .fc .fails] : List Part))
  | .muckoutDone .. => (Part.raiseFault ++ ([.sys .paddockResets, .en .shed, .en .sleepFrom, .rng .retired] : List Part))
  | .ucodeReloadDone .. => [.stall .ucodeOk, .fc .ahead]
  | .nextTreeReady .. => (Part.allQueue ++ ([.en .padEnergy, .stall .state, .stall .jobs, .stall .reqFault, .stall .reqStop, .stall
      .reqClaim, .stall .reqYield, .stall .muckFailed, .stall .muckThen, .stall .sequ, .stall .tree, .tk .hbs, .freeCtr] : List
      Part))
  | .blobLoadDone .. => (Part.settle)
  | .tkRestore .. => (Part.settle ++ ([.tk .restoring] : List Part))
  | .stickyRestore .. => [.cache]
  | .remaskPass .. => (Part.request)
  | .stallSourceReseed .. => (Part.request ++ ([.stall .ratchetCount] : List Part))
  | .rngHealthFail .. => (Part.raiseFault ++ ([.sys .paddockResets, .rng .retired, .rng .rct, .rng .apt] : List Part))
  | .rngStartupDone .. => (Part.settle ++ ([.sys .stage, .sys .bootState, .jn .term, .rng .katOk, .tt .mirror, .tt .mirrorA, .tt
      .mirrorCaps] : List Part))
  | .rngStartupRetry .. => (Part.settle ++ ([.sys .stage, .sys .bootState, .jn .term, .rng .katOk, .tt .mirror, .tt .mirrorA, .tt
      .mirrorCaps] : List Part))
  | .rngRetest .. => [.rng .healthy, .rng .isolated]
  | .rngBlockRelease .. => (Part.request)
  | .drbgReseed .. => (Part.request)
  | .rngRestart .. => [.rng .cmdErr, .rng .restarting]
  | .rawEnter .. => (Part.allQueue ++ ([.dbg .challengeDraw, .rng .ready, .rng .rawMode, .rng .cmdErr, .rng .rawFrom, .rng .fifo,
      .rng .sel, .hl .auditLog, .freeCtr] : List Part))
  | .rawExit .. => (Part.allQueue ++ ([.rng .ready, .rng .rawMode, .rng .cmdErr, .rng .attempts, .rng .fifo] : List Part))
  | .rnWordRead .. => (Part.request ++ ([.port .linkState, .out] : List Part))
  | .rnRawDataRead .. => [.port .linkState, .rng .fifo, .out]
  | .tamperTrip .. => (Part.settle ++ ([.tk .unsealed, .tk .restoring, .tk .hold, .tk .ownerRoot, .tp .latched, .tp .response, .tp
      .alarm, .tp .live, .tp .count, .hl .auditLog] : List Part))
  | .tamperTripAtBoot .. => [.sys .wakeDriven, .sys .bootState, .sys .reason, .sys .wait, .port .linkUp, .port .linkState, .fn
      .pmeStatus, .fn .vecs, .tp .latched, .tp .response, .tp .tamperHold, .tp .alarm, .tp .live, .tp .count, .hl .auditLog, .out]
  | .tamperTripDeepSleep .. => (Part.settle ++ ([.sys .deepSleep, .en .shed, .tk .unsealed, .tk .restoring, .tk .hold, .tk
      .ownerRoot, .tk .jseal, .tk .scrambled, .tp .latched, .tp .response, .tp .sleepScramble, .tp .alarm, .tp .live, .tp .count,
      .hl .auditLog] : List Part))
  | .tamperClear .. => (Part.settle ++ ([.dbg .challengeDraw, .jn .held, .tk .unsealed, .tk .restoring, .tk .hold, .tk .ownerRoot,
      .tk .jseal, .tk .scrambled, .tp .latched, .tp .response, .tp .resetRequired, .tp .cmdErr, .tp .alarm, .hl .flush, .hl
      .auditLog] : List Part))
  | .dgCmpGo .. => [.fn .cmpSlot, .fn .cmpLen, .fn .cmpGo, .fn .cmpSpoiled, .fn .cmpEq, .fn .cmpNe]
  | .dgCmpDone .. => [.fn .cmpGo, .fn .cmpSpoiled, .fn .cmpEq, .fn .cmpNe]
  | .dgCmpReset .. => [.fn .cmpExpect, .fn .cmpSlot, .fn .cmpLen, .fn .cmpSpoiled, .fn .cmpEq, .fn .cmpNe]
  | .mrExtendWrite .. => [.pad .mrs]
  | .nandReadDone .. => (Part.raiseFault ++ ([.sys .paddockResets, .rng .retired, .hl .blocks, .hl .objs, .hl .certs, .hl
      .spaceLow] : List Part))
  | .nandStatusFail .. => (Part.raiseFault ++ ([.sys .paddockResets, .rng .retired, .hl .blocks, .hl .spaceLow] : List Part))
  | .nandTargetTimeout .. => (Part.raiseFault ++ ([.sys .paddockResets, .rng .retired] : List Part))
  | .hayloftRebuild .. => [.sys .wakeDriven, .en .recNj, .en .fixedUj, .en .reserveLow, .port .linkState, .fn .pmeStatus, .fn
      .vecs, .hl .targets, .hl .objs, .hl .failed0, .hl .failed1, .hl .rebuilding, .hl .spaceLow, .hl .flushReady, .hl .singleCopy,
      .out]
  | .objectWriteCommit .. => [.en .shed, .tk .slots, .tk .blobs, .hl .objs, .hl .certs, .hl .certsNew, .tt .txSeq, .tt .unacked,
      .jobs, .yard, .cache, .out]
  | .hayloftScrub .. => (Part.raiseFault ++ ([.sys .paddockResets, .rng .retired, .hl .blocks, .hl .objs, .hl .certs, .hl
      .spaceLow] : List Part))
  | .staticWearLevel .. => [.hl .targets, .hl .blocks]
  | .diagLogFlush .. => (Part.allPad)
  | .hlFormat .. => [.hl .targets, .hl .blocks, .hl .rebuilding, .hl .cmdErr, .tt .lanes, .lk .tests, .freeCtr]
  | .hlLogDataRead .. => [.port .linkState, .fn .hlEntry, .fn .hlWord, .out]
  | .linkTestStart .. => [.tt .lanes, .lk .tests]
  | .linkTestStop .. => [.tt .lanes, .lk .tests, .freeCtr]
  | .linkTestInject .. => [.lk .tests]
  | .linkTestEnd .. => [.tt .lanes, .lk .tests, .freeCtr]
  | .tapExtest .. => [.sys .wakeDriven, .sys .boundary, .sys .tapIr, .port .linkState, .fn .pmeStatus, .fn .vecs, .pad .extendLost,
      .jn .opened, .stall .state, .stall .jobs, .stall .reqFault, .stall .reqStop, .stall .reqClaim, .stall .reqYield, .stall
      .muckFailed, .stall .muckThen, .stall .sequ, .stall .tree, .core .state, .core .w, .core .pc, .core .waiting, .core .loading,
      .jobs, .yard, .out]
  | .tapClamp .. => [.sys .wakeDriven, .sys .boundary, .sys .tapIr, .port .linkState, .fn .pmeStatus, .fn .vecs, .pad .extendLost,
      .jn .opened, .stall .state, .stall .jobs, .stall .reqFault, .stall .reqStop, .stall .reqClaim, .stall .reqYield, .stall
      .muckFailed, .stall .muckThen, .stall .sequ, .stall .tree, .core .state, .core .w, .core .pc, .core .waiting, .core .loading,
      .jobs, .yard, .out]
  | .tapHighz .. => [.sys .wakeDriven, .sys .boundary, .sys .tapIr, .port .linkState, .fn .pmeStatus, .fn .vecs, .pad .extendLost,
      .jn .opened, .stall .state, .stall .jobs, .stall .reqFault, .stall .reqStop, .stall .reqClaim, .stall .reqYield, .stall
      .muckFailed, .stall .muckThen, .stall .sequ, .stall .tree, .core .state, .core .w, .core .pc, .core .waiting, .core .loading,
      .jobs, .yard, .out]
  | .tapMbist .. => (Part.finishJob ++ Part.allQueue ++ Part.allPad ++ Part.allCore ++ ([.sys .tapIr, .sys .mbistRan, .jn .opened,
      .jn .held, .stall .lastPaddock, .stall .inPool, .stall .dedicated, .stall .muckouts, .stall .runs, .stall .unsound, .stall
      .dirty, .stall .prefEnded, .stall .ratchet, .stall .ratchetCount, .stall .source, .stall .ucodeOk, .stall .cmdRd, .stall
      .cmdWr, .stall .spare, .stall .reservedFor, .stall .muckAtWake, .stall .operand, .tk .unsealed, .fc .spareRows, .feeds] :
      List Part))
  | .tapIdcode .. => [.sys .tapIr, .out]
  | .tapSamplePreload .. => [.sys .tapIr, .sys .boundaryReg, .out, .freeCtr]
  | .tapBypass .. => [.sys .tapIr]
  | .bxBoot .. => [.core .state, .core .mem, .core .rstack, .core .spill, .core .windows, .core .cmdErr, .core .loading, .out]
  | .coreLoad .. => [.core .state, .core .mem, .core .rstack, .core .spill, .core .windows, .core .cmdErr, .core .loading, .out]
  | .coreStop .. => [.sys .wakeDriven, .port .linkState, .fn .pmeStatus, .fn .vecs, .pad .extendLost, .core .state, .core .w, .core
      .pc, .core .cmdErr, .core .waiting, .core .loading, .out]
  | .coreLoadDone .. => [.sys .wakeDriven, .port .linkState, .fn .pmeStatus, .fn .vecs, .pad .mrs, .pad .extendLost, .core .state,
      .core .w, .core .v, .core .mlo, .core .mhi, .core .quo, .core .rem, .core .flg, .core .vff, .core .dsp, .core .pc, .core
      .mem, .core .mul, .core .div, .core .rstack, .core .spill, .core .codeAt, .core .codeLen, .core .dsLow, .core .dsHigh, .core
      .spillAt, .core .spillLen, .core .trapVec, .core .trapActive, .core .double, .core .traps, .core .declass, .core .boot, .core
      .vecUp, .core .vecOn, .core .windows, .core .cmdErr, .core .loads, .core .waiting, .core .loading, .out]
  | .feedDrop .. => [.feeds]
  | .vectorUnitPowerDown .. => [.core .vecUp]
  | .bxNop .. => (Part.runCore)
  | .bxStop .. => [.sys .wakeDriven, .port .linkState, .fn .pmeStatus, .fn .vecs, .pad .extendLost, .core .state, .core .w, .core
      .dsp, .core .pc, .core .mem, .core .trapActive, .core .double, .core .lastCode, .core .traps, .core .waiting, .core .loading,
      .out]
  | .bxTrap .. => (Part.runCore)
  | .bxRtt .. => (Part.allCore ++ ([.sys .wakeDriven, .port .linkState, .fn .pmeStatus, .fn .vecs, .pad .extendLost, .out] : List
      Part))
  | .bxFence .. => (Part.runCore)
  | .bxAdd .. => (Part.runCore)
  | .bxSub .. => (Part.runCore)
  | .bxNeg .. => (Part.runCore)
  | .bxAnd .. => (Part.runCore)
  | .bxOr .. => (Part.runCore)
  | .bxXor .. => (Part.runCore)
  | .bxAndn .. => (Part.runCore)
  | .bxNot .. => (Part.runCore)
  | .bxShl .. => (Part.runCore)
  | .bxShr .. => (Part.runCore)
  | .bxSar .. => (Part.runCore)
  | .bxRol .. => (Part.runCore)
  | .bxRor .. => (Part.runCore)
  | .bxClz .. => (Part.runCore)
  | .bxCtz .. => (Part.runCore)
  | .bxPopc .. => (Part.runCore)
  | .bxCmp .. => (Part.runCore)
  | .bxCteq .. => (Part.runCore)
  | .bxCtlt .. => (Part.runCore)
  | .bxCsel .. => (Part.runCore)
  | .bxLd8 .. => (Part.runCore)
  | .bxLd4 .. => (Part.runCore)
  | .bxLd4s .. => (Part.runCore)
  | .bxLd2 .. => (Part.runCore)
  | .bxLd2s .. => (Part.runCore)
  | .bxLd1 .. => (Part.runCore)
  | .bxLd1s .. => (Part.runCore)
  | .bxLea .. => (Part.runCore)
  | .bxSt8 .. => (Part.runCore)
  | .bxSt4 .. => (Part.runCore)
  | .bxSt2 .. => (Part.runCore)
  | .bxSt1 .. => (Part.runCore)
  | .bxPush .. => (Part.runCore)
  | .bxPop .. => (Part.runCore)
  | .bxDsadj .. => (Part.runCore)
  | .bxB .. => (Part.runCore)
  | .bxBeq .. => (Part.runCore)
  | .bxBne .. => (Part.runCore)
  | .bxBlt .. => (Part.runCore)
  | .bxBge .. => (Part.runCore)
  | .bxBlo .. => (Part.runCore)
  | .bxBhs .. => (Part.runCore)
  | .bxBov .. => (Part.runCore)
  | .bxBdz .. => (Part.runCore)
  | .bxCall .. => (Part.runCore)
  | .bxCallr .. => (Part.runCore)
  | .bxJr .. => (Part.runCore)
  | .bxRet .. => (Part.runCore)
  | .bxLeac .. => (Part.runCore)
  | .bxMov .. => (Part.runCore)
  | .bxLi .. => (Part.runCore)
  | .bxLin .. => (Part.runCore)
  | .bxLib .. => (Part.runCore)
  | .bxMfs .. => (Part.runCore)
  | .bxMts .. => (Part.runCore)
  | .bxMul .. => (Part.runCore)
  | .bxMulu .. => (Part.runCore)
  | .bxDiv .. => (Part.runCore)
  | .bxDivu .. => (Part.runCore)
  | .bxTagof .. => (Part.runCore)
  | .bxAsint .. => (Part.runCore)
  | .bxAsnat .. => (Part.runCore)
  | .bxAsbytes .. => (Part.runCore)
  | .bxMkptr .. => (Part.runCore)
  | .bxMkhandle .. => (Part.runCore)
  | .bxClass .. => (Part.runCore)
  | .bxDeclass .. => [.sys .wakeDriven, .port .linkState, .fn .pmeStatus, .fn .vecs, .pad .extendLost, .core .state, .core .w,
      .core .dsp, .core .pc, .core .mem, .core .trapActive, .core .double, .core .lastCode, .core .traps, .core .declass, .core
      .waiting, .core .loading, .out]
  | .bxPoison .. => (Part.runCore)
  | .bxRdtime .. => (Part.runCore)
  | .bxQopen .. => [.sys .wakeDriven, .sys .timeJournal, .port .linkState, .port .ltrUs, .port .ltrLive, .port .ltrQueue, .fn
      .pmeStatus, .fn .vecs, .queue .state, .queue .remembered, .queue .base, .queue .k, .queue .vector, .queue .wake, .queue
      .crcReq, .queue .irqEn, .queue .shadowEn, .queue .shadowAddr, .queue .fn, .queue .bx, .queue .p, .queue .a, .queue .t, .queue
      .gen, .queue .errReason, .queue .errDetail, .queue .errIndex, .queue .defer, .queue .deferOrder, .queue .headDeferred, .queue
      .recheck, .queue .copies, .queue .heldBell, .queue .shadowOwed, .queue .pend, .queue .fetchFailed, .queue .fetchTried, .queue
      .standby, .queue .recordedP, .queue .forgetting, .queue .ring, .queue .ringCells, .queue .ringSecret, .pad .extendLost, .jn
      .seq, .core .state, .core .w, .core .dsp, .core .pc, .core .mem, .core .trapActive, .core .double, .core .lastCode, .core
      .traps, .core .waiting, .core .loading, .yard, .out]
  | .bxQclose .. => (Part.drainQueue ++ ([.sys .wakeDriven, .fn .pmeStatus, .fn .vecs, .pad .extendLost, .core .state, .core .w,
      .core .dsp, .core .pc, .core .mem, .core .trapActive, .core .double, .core .lastCode, .core .traps, .core .waiting, .core
      .loading] : List Part))
  | .bxQctl .. => (Part.drainQueue ++ ([.sys .wakeDriven, .en .padEnergy, .fn .pmeStatus, .fn .denied, .fn .vecs, .fn .cmpExpect,
      .fn .cmpSpoiled, .fn .cmpEq, .fn .cmpNe, .pad .results, .pad .mrs, .pad .haltLog, .pad .haltOverflow, .pad .diags, .pad
      .extendLost, .core .state, .core .w, .core .dsp, .core .pc, .core .mem, .core .trapActive, .core .double, .core .lastCode,
      .core .traps, .core .waiting, .core .loading] : List Part))
  | .bxJsub .. => [.sys .wakeDriven, .sys .timeJournal, .port .linkState, .fn .pmeStatus, .fn .vecs, .queue .p, .queue .heldBell,
      .queue .ring, .queue .ringSecret, .pad .extendLost, .jn .seq, .core .state, .core .w, .core .dsp, .core .pc, .core .mem,
      .core .trapActive, .core .double, .core .lastCode, .core .traps, .core .waiting, .core .loading, .out, .freeCtr]
  | .bxJcpl .. => (Part.allCore ++ ([.sys .wakeDriven, .port .linkState, .fn .pmeStatus, .fn .vecs, .pad .extendLost, .out] : List
      Part))
  | .bxJstat .. => [.sys .wakeDriven, .port .linkState, .fn .pmeStatus, .fn .vecs, .pad .extendLost, .core .state, .core .w, .core
      .dsp, .core .pc, .core .mem, .core .trapActive, .core .double, .core .lastCode, .core .traps, .core .waiting, .core .loading,
      .out]
  | .bxWait .. => [.sys .wakeDriven, .port .linkState, .fn .pmeStatus, .fn .vecs, .pad .extendLost, .core .state, .core .w, .core
      .dsp, .core .pc, .core .mem, .core .trapActive, .core .double, .core .lastCode, .core .traps, .core .waiting, .core .loading,
      .out]
  | .waitEnd .. => [.core .w, .core .pc, .core .waiting]
  | .bxFput .. => [.sys .wakeDriven, .port .linkState, .fn .pmeStatus, .fn .vecs, .pad .extendLost, .core .state, .core .w, .core
      .dsp, .core .pc, .core .mem, .core .trapActive, .core .double, .core .lastCode, .core .traps, .core .waiting, .core .loading,
      .feeds, .out]
  | .bxFstat .. => [.sys .wakeDriven, .port .linkState, .fn .pmeStatus, .fn .vecs, .pad .extendLost, .core .state, .core .w, .core
      .dsp, .core .pc, .core .mem, .core .trapActive, .core .double, .core .lastCode, .core .traps, .core .waiting, .core .loading,
      .out]
  | .bxFdrop .. => [.sys .wakeDriven, .port .linkState, .fn .pmeStatus, .fn .vecs, .pad .extendLost, .core .state, .core .w, .core
      .dsp, .core .pc, .core .mem, .core .trapActive, .core .double, .core .lastCode, .core .traps, .core .waiting, .core .loading,
      .feeds, .out]
  | .bxWopen .. => [.sys .wakeDriven, .port .linkState, .fn .pmeStatus, .fn .vecs, .pad .extendLost, .core .state, .core .w, .core
      .dsp, .core .pc, .core .mem, .core .trapActive, .core .double, .core .lastCode, .core .traps, .core .windows, .core .waiting,
      .core .loading, .out]
  | .bxWclose .. => [.sys .wakeDriven, .port .linkState, .fn .pmeStatus, .fn .vecs, .pad .extendLost, .core .state, .core .w, .core
      .dsp, .core .pc, .core .mem, .core .trapActive, .core .double, .core .lastCode, .core .traps, .core .windows, .core .waiting,
      .core .loading, .out]
  | .bxCstart .. => [.sys .wakeDriven, .port .linkState, .fn .pmeStatus, .fn .vecs, .pad .extendLost, .core .state, .core .w, .core
      .dsp, .core .pc, .core .mem, .core .rstack, .core .spill, .core .trapActive, .core .double, .core .lastCode, .core .traps,
      .core .windows, .core .cmdErr, .core .waiting, .core .loading, .out]
  | .bxCstop .. => [.sys .wakeDriven, .port .linkState, .fn .pmeStatus, .fn .vecs, .pad .extendLost, .core .state, .core .w, .core
      .dsp, .core .pc, .core .mem, .core .trapActive, .core .double, .core .lastCode, .core .traps, .core .cmdErr, .core .waiting,
      .core .loading, .out]
  | .bxRand .. => (Part.request ++ ([.sys .wakeDriven, .port .linkState, .fn .pmeStatus, .fn .vecs, .pad .extendLost, .core .state,
      .core .w, .core .dsp, .core .pc, .core .mem, .core .trapActive, .core .double, .core .lastCode, .core .traps, .core .waiting,
      .core .loading, .out] : List Part))
  | .bxMext .. => [.sys .wakeDriven, .port .linkState, .fn .pmeStatus, .fn .vecs, .pad .mrs, .pad .extendLost, .core .state, .core
      .w, .core .dsp, .core .pc, .core .mem, .core .trapActive, .core .double, .core .lastCode, .core .traps, .core .waiting, .core
      .loading, .out]
  | .opNop .. => (Part.finishJob ++ ([.feeds] : List Part))
  | .opAttestQuote .. => (Part.finishJob ++ ([.feeds] : List Part))
  | .opMlkemKeygen .. => (Part.finishJob ++ ([.feeds] : List Part))
  | .opMlkemEncaps .. => (Part.finishJob ++ ([.feeds] : List Part))
  | .opMlkemDecaps .. => (Part.finishJob ++ ([.feeds] : List Part))
  | .opMldsaKeygen .. => (Part.finishJob ++ ([.feeds] : List Part))
  | .opMldsaSign .. => (Part.finishJob ++ ([.feeds] : List Part))
  | .opMldsaVerify .. => (Part.finishJob ++ ([.feeds] : List Part))
  | .opSlhdsaKeygen .. => (Part.finishJob ++ ([.feeds] : List Part))
  | .opSlhdsaSign .. => (Part.finishJob ++ ([.port .linkState, .core .mem, .feeds, .scans, .out] : List Part))
  | .opSlhdsaVerify .. => (Part.finishJob ++ ([.feeds] : List Part))
  | .opLmsKeygen .. => (Part.finishJob ++ ([.en .shed, .hl .objs, .feeds] : List Part))
  | .opLmsSign .. => (Part.finishJob ++ ([.port .linkState, .core .mem, .feeds, .scans, .out] : List Part))
  | .opLmsVerify .. => (Part.finishJob ++ ([.feeds] : List Part))
  | .opXmssKeygen .. => (Part.finishJob ++ ([.en .shed, .hl .objs, .feeds] : List Part))
  | .opXmssSign .. => (Part.finishJob ++ ([.port .linkState, .core .mem, .feeds, .scans, .out] : List Part))
  | .opXmssVerify .. => (Part.finishJob ++ ([.feeds] : List Part))
  | .opHbsQuery .. => (Part.finishJob ++ ([.feeds] : List Part))
  | .opMceKeygen .. => (Part.finishJob ++ ([.port .linkState, .core .mem, .feeds, .scans, .out] : List Part))
  | .opMceEncaps .. => (Part.finishJob ++ ([.feeds, .scans] : List Part))
  | .opMceDecaps .. => (Part.finishJob ++ ([.feeds] : List Part))
  | .opHqcKeygen .. => (Part.finishJob ++ ([.feeds] : List Part))
  | .opHqcEncaps .. => (Part.finishJob ++ ([.feeds] : List Part))
  | .opHqcDecaps .. => (Part.finishJob ++ ([.feeds] : List Part))
  | .opPkcLoad .. => (Part.finishJob ++ ([.en .shed, .hl .objs, .feeds, .scans] : List Part))
  | .opPkcEvict .. => (Part.finishJob ++ ([.feeds] : List Part))
  | .opRsaKeygen .. => (Part.finishJob ++ ([.feeds] : List Part))
  | .opRsaSign .. => (Part.raiseFault ++ ([.sys .paddockResets, .rng .retired] : List Part))
  | .opRsaVerify .. => (Part.finishJob ++ ([.feeds] : List Part))
  | .opRsaEncrypt .. => (Part.finishJob ++ ([.feeds] : List Part))
  | .opRsaDecrypt .. => (Part.raiseFault ++ ([.sys .paddockResets, .rng .retired] : List Part))
  | .opEcdsaKeygen .. => (Part.finishJob ++ ([.feeds] : List Part))
  | .opEcdsaSign .. => (Part.finishJob ++ ([.feeds] : List Part))
  | .opEcdsaVerify .. => (Part.finishJob ++ ([.feeds] : List Part))
  | .opEcdhKeygen .. => (Part.finishJob ++ ([.feeds] : List Part))
  | .opEcdhDerive .. => (Part.finishJob ++ ([.feeds] : List Part))
  | .opEcdhEphemeral .. => (Part.finishJob ++ ([.feeds] : List Part))
  | .opEddsaKeygen .. => (Part.finishJob ++ ([.feeds] : List Part))
  | .opEddsaSign .. => (Part.finishJob ++ ([.feeds] : List Part))
  | .opEddsaVerify .. => (Part.finishJob ++ ([.feeds] : List Part))
  | .opXdhKeygen .. => (Part.finishJob ++ ([.feeds] : List Part))
  | .opXdhDerive .. => (Part.finishJob ++ ([.feeds] : List Part))
  | .opXdhEphemeral .. => (Part.finishJob ++ ([.feeds] : List Part))
  | .opDigest .. => (Part.finishJob ++ ([.feeds, .scans] : List Part))
  | .opHmac .. => (Part.finishJob ++ ([.feeds, .scans] : List Part))
  | .opHmacVerify .. => (Part.finishJob ++ ([.feeds, .scans] : List Part))
  | .opKmac .. => (Part.finishJob ++ ([.feeds, .scans] : List Part))
  | .opKmacVerify .. => (Part.finishJob ++ ([.feeds, .scans] : List Part))
  | .opCrc .. => (Part.finishJob ++ ([.feeds, .scans] : List Part))
  | .opKeyGenerate .. => (Part.finishJob ++ ([.en .shed, .hl .objs, .feeds] : List Part))
  | .opKeyImport .. => (Part.finishJob ++ ([.en .shed, .hl .objs, .feeds] : List Part))
  | .opKeyUnwrap .. => (Part.finishJob ++ ([.en .shed, .hl .objs, .feeds] : List Part))
  | .opKeyDerive .. => (Part.finishJob ++ ([.en .shed, .hl .objs, .feeds] : List Part))
  | .opKeyExport .. => (Part.finishJob ++ ([.feeds] : List Part))
  | .opBlobRegister .. => (Part.finishJob ++ ([.en .shed, .hl .objs, .feeds] : List Part))
  | .opKeyRestrict .. => (Part.finishJob ++ ([.en .shed, .hl .objs, .feeds] : List Part))
  | .opKeyRevoke .. => (Part.finishJob ++ ([.en .shed, .hl .objs, .feeds] : List Part))
  | .vddAonPowerOn .. => (Part.coldBoot ++ ([.sys .ttHbo, .sys .paddockResets, .stall .unsound, .stall .muckAtWake, .tk .lost, .fc
      .spareRows, .hl .rebuilding, .hl .singleCopy, .hl .retireMap, .tt .retraining, .tt .retrains, .tt .retransmits, .tt .split,
      .yardRetired] : List Part))
  | .perstNDeassert .. => (Part.allFn ++ ([.sys .perstN, .sys .wakeDriven, .sys .linkWidth, .sys .linkReversed, .sys .deepSleep,
      .sys .timeJournal, .en .shed, .port .linkUp, .port .linkState, .port .ltrUs, .port .ltrLive, .port .ltrQueue, .port
      .doorbells, .queue .state, .queue .p, .queue .errReason, .queue .errDetail, .queue .errIndex, .queue .defer, .queue .copies,
      .queue .heldBell, .queue .shadowOwed, .queue .pend, .queue .fetchFailed, .queue .fetchTried, .queue .recordedP, .pad
      .results, .pad .haltLog, .pad .haltOverflow, .jn .seq, .tp .sleepScramble, .out, .freeCtr] : List Part))
  | .pllRelock .. => (Part.coldBoot ++ ([.sys .pllLocked, .sys .ttHbo, .sys .causeClock, .sys .paddockResets, .jn .bootAfterFlush,
      .stall .unsound, .stall .muckAtWake, .tk .lost, .fc .spareRows, .hl .rebuilding, .hl .singleCopy, .hl .retireMap, .tt
      .retraining, .tt .retrains, .tt .retransmits, .tt .split, .yardRetired] : List Part))
  | .overtempEnd .. => [.en .step, .en .overtemp, .fc .out]
  | .tamperConditionEnd .. => [.tp .live]
  | .checkerLock .. => [.lk .tests]
  | .checkerLockLost .. => [.lk .tests]
  | .debugHalt .. => [.core .state, .core .w, .core .pc, .core .waiting]
  | .debugResume .. => [.core .state]
  | .unitResultLand .. => [.core .mlo, .core .mhi, .core .quo, .core .rem, .core .mul, .core .div]

end Sys2Proof
end

