-- ==== Sys2Proof/WellFormed.lean ====
section
/-! DEFINITION. WellFormed.lean: the commands the part can be given. A command is well-formed when each unit it names is one
the part has (R20, R24, R25) and each field fits its width. -/

namespace Sys2Proof

/-- The PF or one of 64 VFs (R119). -/
def fnOk (n : Nat) : Bool := decide (n ≤ 64)
/-- One of 65,536 queues (R25). -/
def queueOk (n : Nat) : Bool := decide (n < 65536)
/-- A ring index, k + 1 bits with k at most 16 (R140). -/
def indexOk (n : Nat) : Bool := decide (n < 131072)
/-- A descriptor is 128 bytes (R25). -/
def descBytesOk (d : Bytes) : Bool := decide (d.length = 128)
/-- One of 52 stalls (R20). -/
def stallOk (n : Nat) : Bool := decide (n < 52)
/-- One of 32 paddocks. -/
def paddockOk (n : Nat) : Bool := decide (n < 32)
/-- One of 24 sheds (Table 03.2). -/
def shedOk (n : Nat) : Bool := decide (n < 24)
/-- A register access of 1, 2, 4 or 8 bytes (R124). -/
def sizeOk (n : Nat) : Bool := n == 1 || n == 2 || n == 4 || n == 8
/-- One of at most 2,048 vectors (R129). -/
def vectorOk (n : Nat) : Bool := decide (n < 2048)
/-- One of 16 application cores (R24). -/
def coreOk (n : Nat) : Bool := decide (n < 16)
/-- One of 16,384 tack-room slots (R24). -/
def slotOk (n : Nat) : Bool := decide (n < 16384)
/-- One of 16 ring-oscillator groups (R311). -/
def groupOk (n : Nat) : Bool := decide (n < 16)
/-- A mask of 16 groups. -/
def groupsOk (n : Nat) : Bool := decide (n < 65536)
/-- One of 8 NAND targets (R459). -/
def targetOk (n : Nat) : Bool := decide (n < 8)
/-- A NAND block number. -/
def blockOk (n : Nat) : Bool := decide (n < 65536)
/-- One of the two channels or banks. -/
def channelOk (n : Nat) : Bool := decide (n < 2)
/-- One of four tether lanes (R485). -/
def laneOk (n : Nat) : Bool := decide (n < 4)
/-- One of 16 feed FIFOs of a paddock (R368). -/
def feedOk (n : Nat) : Bool := decide (n < 16)
/-- A link number of Table 22.1, 7 bits. -/
def linkOk (n : Nat) : Bool := decide (n < 128)
/-- A 64-bit accept_seq (R27). -/
def seqOk (n : Nat) : Bool := decide (n < 2 ^ 64)
/-- One of 16 measurement registers (R298). -/
def registerOk (n : Nat) : Bool := decide (n < 16)
/-- NumVFs, at most 64 (R119). -/
def numVfsOk (n : Nat) : Bool := decide (n ≤ 64)
/-- BAR0, BAR2 or BAR4 (Table 06.2). -/
def barOk (n : Nat) : Bool := n == 0 || n == 2 || n == 4
/-- A 12-bit conversion (R68). -/
def codeOk (n : Nat) : Bool := decide (n < 4096)
/-- A DRBG: 0 to 31 the paddocks', 32 the yardmaster's own (R321). -/
def instOk (n : Nat) : Bool := decide (n < 33)
/-- A fault source id (Table 20.1). -/
def sourceOk (n : Nat) : Bool := decide (n < 1024)
/-- A fault kind (Table 20.1). -/
def kindOk (n : Nat) : Bool := decide (n < 64)
/-- A tamper source number (Table 19.2). -/
def tamperOk (n : Nat) : Bool := decide (n < 10)

/-- The immediate of size code `z` is the sign extension of its 2, 4 or 8 bytes (R378). -/
def immFits (z : Nat) (imm : W64) : Bool :=
  match z with
  | 0 => (imm.setWidth 16).signExtend 64 == imm
  | 1 => (imm.setWidth 32).signExtend 64 == imm
  | 2 => true
  | _ => false

/-- Benxis instruction fields fit Tables 17.3 and 17.4. -/
def fieldsOk (f : BxFields) : Bool :=
  decide (f.rd < 32) && decide (f.rs1 < 32) && decide (f.rs2 < 32) &&
  (if f.i then f.rs2 == 0 && immFits f.isize f.imm else f.isize == 0 && f.imm == 0#64)

/-- A command the part can be given. -/
def Instr.wf : Instr → Bool
  | .coldReset _ _ => true
  | .porstNRise _ => true
  | .bootReserveRecheck _ => true
  | .bootPowerFailWaitEnd _ => true
  | .powerFailFlush => true
  | .flushComplete _ _ deltas raw0 raw1 => deltas.all (fun e => decide (e.1 < 24)) && codeOk raw0 && codeOk raw1
  | .powerFailRise _ => true
  | .xtal25Loss => true
  | .xtal25Restore _ => true
  | .syReset fn _ => fnOk fn
  | .warmReset _ => true
  | .syPaddockReset fn _ => fnOk fn
  | .hostInterfaceReset _ => true
  | .configRequest fn _ _ _ => fnOk fn
  | .functionLevelReset fn => fnOk fn
  | .vfEnableClear numVfs => numVfsOk numVfs
  | .vfEnable numVfs => numVfsOk numVfs
  | .busMasterEnableSet fn => fnOk fn
  | .d3hotEntry fn => fnOk fn
  | .d0Return fn => fnOk fn
  | .msixEnableSet fn => fnOk fn
  | .vectorUnmask fn _ => fnOk fn
  | .hiVecModWrite fn vector _ size => fnOk fn && vectorOk vector && sizeOk size
  | .vectorTimerExpiry fn vector => fnOk fn && vectorOk vector
  | .wakeCountExpiry fn vector => fnOk fn && vectorOk vector
  | .aspmL1Entry _ _ => true
  | .refclkLoss => true
  | .linkReturn => true
  | .poisonedWrite fn _ => fnOk fn
  | .barAccessInvalid fn bar _ size _ => fnOk fn && barOk bar && sizeOk size
  | .bar4WindowAccess fn _ _ _ _ => fnOk fn
  | .feedWindowWrite fn _ _ => fnOk fn
  | .multiwordRead fn _ size => fnOk fn && sizeOk size
  | .registerWrite fn _ size _ => fnOk fn && sizeOk size
  | .doorbellWrite fn _ size _ => fnOk fn && sizeOk size
  | .descriptorFetchDone queue index data => queueOk queue && indexOk index && descBytesOk data
  | .hostReadFail queue _ _ _ => queueOk queue
  | .gateEvaluate queue => queueOk queue
  | .deferredReevaluate => true
  | .gateAccept queue _ => queueOk queue
  | .refillCommit slot => slotOk slot
  | .captureGenDraw paddock => paddockOk paddock
  | .dispatch stall => stallOk stall
  | .lowPrioPromote seq => seqOk seq
  | .poolPreferenceExpiry stall => stallOk stall
  | .pkeYieldRequest stall => stallOk stall
  | .digestYieldRequest stall => stallOk stall
  | .mceYieldRequest stall => stallOk stall
  | .stallSafePoint stall _ _ _ _ => stallOk stall
  | .completionWrite queue => queueOk queue
  | .recordRetire queue => queueOk queue
  | .qEnable fn _ => fnOk fn
  | .qDisable fn _ => fnOk fn
  | .qContinue fn _ => fnOk fn
  | .qResume fn _ => fnOk fn
  | .qForget fn _ => fnOk fn
  | .queueDrainComplete queue => queueOk queue
  | .pendingEnableSwitch queue => queueOk queue
  | .haltLogRead fn => fnOk fn
  | .energySample _ _ => true
  | .enCapWrite fn _ => fnOk fn
  | .i3cCapSet _ => true
  | .i3cIdentityRead _ => true
  | .holdupAdcConversion raw => codeOk raw
  | .adcCalibrate zeroRaw refRaw => codeOk zeroRaw && codeOk refRaw
  | .reserveLowClear => true
  | .shedWakeGrant => true
  | .shedWakeDone shed => shedOk shed
  | .shedIdleTimeout shed => shedOk shed
  | .shedSleepDone shed => shedOk shed
  | .deepSleepEntry => true
  | .deepSleepExit _ => true
  | .timeBaseSave _ => true
  | .journalScrub bank _ => channelOk bank
  | .loadPartial fn _ => fnOk fn
  | .partialSwitch => true
  | .partialDrainTimeout => true
  | .storeImage fn _ => fnOk fn
  | .plApply fn _ => fnOk fn
  | .plApplyDrained => true
  | .plApplyDrainTimeout => true
  | .abortSwap fn _ => fnOk fn
  | .lcTransition fn _ => fnOk fn
  | .lcDrained => true
  | .lcDrainTimeout => true
  | .ledgerProgramDone => true
  | .lcComplete fn _ => fnOk fn
  | .genIdentity fn _ => fnOk fn
  | .storeCerts fn _ => fnOk fn
  | .i3cTokenMailbox _ _ => true
  | .certDataRead fn => fnOk fn
  | .lcCertSelWrite fn _ => fnOk fn
  | .dbgToken _ => true
  | .debugClose fn _ => fnOk fn
  | .jnShutdown fn _ => fnOk fn
  | .shutdownFlush => true
  | .twinWaitTimeout _ => true
  | .twinPartnerPresent _ _ => true
  | .twinPartnerFailed => true
  | .twinLanesLost => true
  | .tetherFrameReceive _ => true
  | .tetherRetransmitTimeout => true
  | .tetherLaneFail lane => laneOk lane
  | .heartbeatToggle => true
  | .faultReport _ => true
  | .bucketLeak source => sourceOk source
  | .escalationExpiry source kind => sourceOk source && kindOk kind
  | .fcAck fn _ => fnOk fn
  | .fcClear fn _ => fnOk fn
  | .faultLogRead fn => fnOk fn
  | .faultLogAppend => true
  | .farrierClaim => true
  | .selftestDone _ => true
  | .muckoutDone stall _ => stallOk stall
  | .ucodeReloadDone stall => stallOk stall
  | .nextTreeReady slot => slotOk slot
  | .blobLoadDone seq _ _ => seqOk seq
  | .tkRestore => true
  | .stickyRestore => true
  | .remaskPass => true
  | .stallSourceReseed stall => stallOk stall
  | .rngHealthFail group _ => groupOk group
  | .rngStartupDone passed _ => groupsOk passed
  | .rngStartupRetry passed _ => groupsOk passed
  | .rngRetest group _ => groupOk group
  | .rngBlockRelease groups => groupsOk groups
  | .drbgReseed inst => instOk inst
  | .rngRestart fn _ => fnOk fn
  | .rawEnter fn _ _ => fnOk fn
  | .rawExit fn _ => fnOk fn
  | .rnWordRead fn => fnOk fn
  | .rnRawDataRead fn => fnOk fn
  | .tamperTrip source _ => tamperOk source
  | .tamperTripAtBoot source _ => tamperOk source
  | .tamperTripDeepSleep source _ => tamperOk source
  | .tamperClear fn _ _ => fnOk fn
  | .dgCmpGo fn _ size _ => fnOk fn && sizeOk size
  | .dgCmpDone fn => fnOk fn
  | .dgCmpReset fn _ size _ => fnOk fn && sizeOk size
  | .mrExtendWrite _ register _ => registerOk register
  | .nandReadDone target block _ _ _ => targetOk target && blockOk block
  | .nandStatusFail target block _ => targetOk target && blockOk block
  | .nandTargetTimeout target _ => targetOk target
  | .hayloftRebuild channel => channelOk channel
  | .objectWriteCommit _ channel => channelOk channel
  | .hayloftScrub target block _ _ _ => targetOk target && blockOk block
  | .staticWearLevel channel => channelOk channel
  | .diagLogFlush => true
  | .hlFormat fn _ => fnOk fn
  | .hlLogDataRead fn => fnOk fn
  | .linkTestStart fn _ => fnOk fn
  | .linkTestStop fn _ => fnOk fn
  | .linkTestInject fn _ => fnOk fn
  | .linkTestEnd link _ => linkOk link
  | .tapExtest => true
  | .tapClamp => true
  | .tapHighz => true
  | .tapMbist => true
  | .tapIdcode => true
  | .tapSamplePreload _ _ => true
  | .tapBypass => true
  | .bxBoot fn _ _ => fnOk fn
  | .coreLoad fn core _ _ => fnOk fn && coreOk core
  | .coreStop fn core _ => fnOk fn && coreOk core
  | .coreLoadDone core => coreOk core
  | .feedDrop fn feed _ => fnOk fn && feedOk feed
  | .vectorUnitPowerDown core => coreOk core
  | .bxNop core f => coreOk core && fieldsOk f
  | .bxStop core f => coreOk core && fieldsOk f
  | .bxTrap core f => coreOk core && fieldsOk f
  | .bxRtt core f => coreOk core && fieldsOk f
  | .bxFence core f => coreOk core && fieldsOk f
  | .bxAdd core f => coreOk core && fieldsOk f
  | .bxSub core f => coreOk core && fieldsOk f
  | .bxNeg core f => coreOk core && fieldsOk f
  | .bxAnd core f => coreOk core && fieldsOk f
  | .bxOr core f => coreOk core && fieldsOk f
  | .bxXor core f => coreOk core && fieldsOk f
  | .bxAndn core f => coreOk core && fieldsOk f
  | .bxNot core f => coreOk core && fieldsOk f
  | .bxShl core f => coreOk core && fieldsOk f
  | .bxShr core f => coreOk core && fieldsOk f
  | .bxSar core f => coreOk core && fieldsOk f
  | .bxRol core f => coreOk core && fieldsOk f
  | .bxRor core f => coreOk core && fieldsOk f
  | .bxClz core f => coreOk core && fieldsOk f
  | .bxCtz core f => coreOk core && fieldsOk f
  | .bxPopc core f => coreOk core && fieldsOk f
  | .bxCmp core f => coreOk core && fieldsOk f
  | .bxCteq core f => coreOk core && fieldsOk f
  | .bxCtlt core f => coreOk core && fieldsOk f
  | .bxCsel core f => coreOk core && fieldsOk f
  | .bxLd8 core f => coreOk core && fieldsOk f
  | .bxLd4 core f => coreOk core && fieldsOk f
  | .bxLd4s core f => coreOk core && fieldsOk f
  | .bxLd2 core f => coreOk core && fieldsOk f
  | .bxLd2s core f => coreOk core && fieldsOk f
  | .bxLd1 core f => coreOk core && fieldsOk f
  | .bxLd1s core f => coreOk core && fieldsOk f
  | .bxLea core f => coreOk core && fieldsOk f
  | .bxSt8 core f => coreOk core && fieldsOk f
  | .bxSt4 core f => coreOk core && fieldsOk f
  | .bxSt2 core f => coreOk core && fieldsOk f
  | .bxSt1 core f => coreOk core && fieldsOk f
  | .bxPush core f => coreOk core && fieldsOk f
  | .bxPop core f => coreOk core && fieldsOk f
  | .bxDsadj core f => coreOk core && fieldsOk f
  | .bxB core f => coreOk core && fieldsOk f
  | .bxBeq core f => coreOk core && fieldsOk f
  | .bxBne core f => coreOk core && fieldsOk f
  | .bxBlt core f => coreOk core && fieldsOk f
  | .bxBge core f => coreOk core && fieldsOk f
  | .bxBlo core f => coreOk core && fieldsOk f
  | .bxBhs core f => coreOk core && fieldsOk f
  | .bxBov core f => coreOk core && fieldsOk f
  | .bxBdz core f => coreOk core && fieldsOk f
  | .bxCall core f => coreOk core && fieldsOk f
  | .bxCallr core f => coreOk core && fieldsOk f
  | .bxJr core f => coreOk core && fieldsOk f
  | .bxRet core f => coreOk core && fieldsOk f
  | .bxLeac core f => coreOk core && fieldsOk f
  | .bxMov core f => coreOk core && fieldsOk f
  | .bxLi core f => coreOk core && fieldsOk f
  | .bxLin core f => coreOk core && fieldsOk f
  | .bxLib core f => coreOk core && fieldsOk f
  | .bxMfs core f => coreOk core && fieldsOk f
  | .bxMts core f => coreOk core && fieldsOk f
  | .bxMul core f => coreOk core && fieldsOk f
  | .bxMulu core f => coreOk core && fieldsOk f
  | .bxDiv core f => coreOk core && fieldsOk f
  | .bxDivu core f => coreOk core && fieldsOk f
  | .bxTagof core f => coreOk core && fieldsOk f
  | .bxAsint core f => coreOk core && fieldsOk f
  | .bxAsnat core f => coreOk core && fieldsOk f
  | .bxAsbytes core f => coreOk core && fieldsOk f
  | .bxMkptr core f => coreOk core && fieldsOk f
  | .bxMkhandle core f => coreOk core && fieldsOk f
  | .bxClass core f => coreOk core && fieldsOk f
  | .bxDeclass core f => coreOk core && fieldsOk f
  | .bxPoison core f => coreOk core && fieldsOk f
  | .bxRdtime core f => coreOk core && fieldsOk f
  | .bxQopen core f => coreOk core && fieldsOk f
  | .bxQclose core f => coreOk core && fieldsOk f
  | .bxQctl core f => coreOk core && fieldsOk f
  | .bxJsub core f => coreOk core && fieldsOk f
  | .bxJcpl core f => coreOk core && fieldsOk f
  | .bxJstat core f => coreOk core && fieldsOk f
  | .bxWait core f => coreOk core && fieldsOk f
  | .waitEnd core _ => coreOk core
  | .bxFput core f => coreOk core && fieldsOk f
  | .bxFstat core f => coreOk core && fieldsOk f
  | .bxFdrop core f => coreOk core && fieldsOk f
  | .bxWopen core f => coreOk core && fieldsOk f
  | .bxWclose core f => coreOk core && fieldsOk f
  | .bxCstart core f => coreOk core && fieldsOk f
  | .bxCstop core f => coreOk core && fieldsOk f
  | .bxRand core f => coreOk core && fieldsOk f
  | .bxMext core f => coreOk core && fieldsOk f
  | .opNop seq _ => seqOk seq
  | .opAttestQuote seq _ => seqOk seq
  | .opMlkemKeygen seq _ => seqOk seq
  | .opMlkemEncaps seq _ => seqOk seq
  | .opMlkemDecaps seq _ => seqOk seq
  | .opMldsaKeygen seq _ => seqOk seq
  | .opMldsaSign seq _ => seqOk seq
  | .opMldsaVerify seq _ => seqOk seq
  | .opSlhdsaKeygen seq _ => seqOk seq
  | .opSlhdsaSign seq _ => seqOk seq
  | .opSlhdsaVerify seq _ => seqOk seq
  | .opLmsKeygen seq _ => seqOk seq
  | .opLmsSign seq _ => seqOk seq
  | .opLmsVerify seq _ => seqOk seq
  | .opXmssKeygen seq _ => seqOk seq
  | .opXmssSign seq _ => seqOk seq
  | .opXmssVerify seq _ => seqOk seq
  | .opHbsQuery seq _ => seqOk seq
  | .opMceKeygen seq _ => seqOk seq
  | .opMceEncaps seq _ => seqOk seq
  | .opMceDecaps seq _ => seqOk seq
  | .opHqcKeygen seq _ => seqOk seq
  | .opHqcEncaps seq _ => seqOk seq
  | .opHqcDecaps seq _ => seqOk seq
  | .opPkcLoad seq _ => seqOk seq
  | .opPkcEvict seq _ => seqOk seq
  | .opRsaKeygen seq _ => seqOk seq
  | .opRsaSign seq _ => seqOk seq
  | .opRsaVerify seq _ => seqOk seq
  | .opRsaEncrypt seq _ => seqOk seq
  | .opRsaDecrypt seq _ => seqOk seq
  | .opEcdsaKeygen seq _ => seqOk seq
  | .opEcdsaSign seq _ => seqOk seq
  | .opEcdsaVerify seq _ => seqOk seq
  | .opEcdhKeygen seq _ => seqOk seq
  | .opEcdhDerive seq _ => seqOk seq
  | .opEcdhEphemeral seq _ => seqOk seq
  | .opEddsaKeygen seq _ => seqOk seq
  | .opEddsaSign seq _ => seqOk seq
  | .opEddsaVerify seq _ => seqOk seq
  | .opXdhKeygen seq _ => seqOk seq
  | .opXdhDerive seq _ => seqOk seq
  | .opXdhEphemeral seq _ => seqOk seq
  | .opDigest seq _ => seqOk seq
  | .opHmac seq _ => seqOk seq
  | .opHmacVerify seq _ => seqOk seq
  | .opKmac seq _ => seqOk seq
  | .opKmacVerify seq _ => seqOk seq
  | .opCrc seq _ => seqOk seq
  | .opKeyGenerate seq _ => seqOk seq
  | .opKeyImport seq _ => seqOk seq
  | .opKeyUnwrap seq _ => seqOk seq
  | .opKeyDerive seq _ => seqOk seq
  | .opKeyExport seq _ => seqOk seq
  | .opBlobRegister seq _ => seqOk seq
  | .opKeyRestrict seq _ => seqOk seq
  | .opKeyRevoke seq _ => seqOk seq
  | .vddAonPowerOn _ => true
  | .perstNDeassert => true
  | .pllRelock _ => true
  | .overtempEnd => true
  | .tamperConditionEnd source => tamperOk source
  | .checkerLock link => linkOk link
  | .checkerLockLost link _ _ => linkOk link
  | .debugHalt core => coreOk core
  | .debugResume core => coreOk core
  | .unitResultLand core _ => coreOk core

end Sys2Proof
end

