-- ==== Sys2Proof/Certificates/Slice0/Obligations.lean ====
section
/-! DEFINITION. Obligations.lean: the statements about the part, and the words they are said in. -/

open Sys2Proof Sys2Proof.Machine

namespace Sys2Proof.Claims

/-- No fault entry stands outstanding and nothing is due to be escalated or retired. -/
def FaultsClear (s : State) : Prop := s.fc.out = [] ∧ s.fc.escNow = [] ∧ s.fc.retireNow = []

/-- Nothing is due to be escalated or retired. -/
def NothingDue (s : State) : Prop := s.fc.escNow = [] ∧ s.fc.retireNow = []

/-- The PF's or a bound VF's registers are served, and it belongs to paddock `p`. -/
def HostAt (s : State) (fn p : Nat) : Prop := regsUp s fn = true ∧ padOfFn s fn = some p

/-- The strap ball and the measured supply of a NAND channel disagree at this boot (R45). -/
def supplyWrong (b : BootIn) (c : Nat) : Bool := majority b c != (if c = 0 then b.vddq0Low else b.vddq1Low)

/-- A boot that meets nothing wrong outside the part: supplies as strapped, no target outside Table 21.1, the start-up tests passed. -/
def CleanBoot (b : BootIn) : Prop :=
  supplyWrong b 0 = false ∧ supplyWrong b 1 = false ∧ (∀ n, b.targets.getD n 0 ≠ 4) ∧ b.kat = true ∧ 8 ≤ groupCount b.rngPassed


/-- A part out of cold reset whose hayloft holds nothing and whose ledger decodes as RAW (log 7), with POWER_FAIL_N high and nothing else in
the way of its boot: no fault, no held warm reset, no boundary instruction. -/
def BlankPart (s : State) : Prop :=
  s.sys.powerFailN = true ∧ s.sys.heldWarm = none ∧ s.sys.boundary = false ∧ s.sys.deepSleep = false ∧ s.sys.bootState = 0 ∧ s.en.flushActive = false ∧
  s.lc.resetRequired = false ∧ (decodeLedger s).lc.state = 0 ∧ s.plan = {} ∧ s.rng = {} ∧ s.fc.out = [] ∧ s.fc.escNow = [] ∧ s.fc.retireNow = [] ∧
  s.fc.buckets = [] ∧ s.jn.fromFlush = false ∧ s.jn.lost = false ∧ s.hl.images = [] ∧ s.hl.partials = [] ∧ s.hl.retireMap = [] ∧ s.hl.flush.present = false

/-- Nothing is due to be served at the end of a command: no escalation or retirement, no EV_REPLAY_DONE owed. -/
def Calm (s : State) : Prop := NothingDue s ∧ ∀ p, (padAt s p).replayOwed = false

/-- A message of the function may leave at once: MSI-X enabled, not masked, and requests may be issued. -/
def MayInterrupt (s : State) (fn v : Nat) : Prop :=
  (fnAt s fn).msixEn = true ∧ (fnAt s fn).fnMask = false ∧ (vecAt s fn v).mask = false ∧ mayIssue s fn = true


/-- A doorbell value R146 accepts: within k + 1 bits, not behind P, and no more than 2^k ahead of T. -/
def BellValid (x : Queue) (v : Nat) : Prop := v < 2 ^ (x.k + 1) ∧ dist x.k x.t x.p ≤ dist x.k x.t v ∧ dist x.k x.t v ≤ 2 ^ x.k

/-- One evaluation at the gate is due: of the queue whose turn it is, or of the deferred head that comes first. `u` is the state it sees. -/
def EvaluatesAt (c : Instr) (s u : State) (q : Nat) : Prop :=
  gateRuns s = true ∧
  ((c = .gateEvaluate q ∧ nextDeferred s = none ∧ nextInTurn s = some q ∧ u = { s with jn := { s.jn with rr := q + 1 } }) ∨
   (c = .deferredReevaluate ∧ nextDeferred s = some q ∧ u = s))

/-- The write of a completed job's output buffers (R153): none of an output not written or empty. -/
def outputWrites (fn : Nat) (j : Job) : List Emission :=
  let one := fun (a : Nat) (o : Option Bytes) => match o with
    | some (b :: d) => [Emission.memWrite fn a (b :: d)]
    | _ => []
  if j.status = 0 then one j.desc.out0Addr j.out0 ++ one j.desc.out1Addr j.out1 else []


/-- Core `n` takes the instruction `op` with fields `f`, of `len` bytes, that stands at its PC (R374, R380). -/
abbrev Runs (s : State) (n op : Nat) (f : BxFields) (len : Nat) : Prop := coreTakes s n = true ∧ fetch (coreAt s n) = .found op f len

/-- `s` with core `n` changed to `c` and past the instruction. -/
def past (s : State) (n : Nat) (f : BxFields) (len : Nat) (c : Core) : State :=
  putCore s n (vecPower { c with pc := (coreAt s n).pc + BitVec.ofNat 64 len } f)

/-- `s` after `k` draws of the model's free value. -/
def drawn (s : State) (k : Nat) : State := { s with freeCtr := s.freeCtr + k }

/-- `c` with a general register written. -/
def withReg (c : Core) (r : Nat) (x : TW) : Core := { c with w := smSet {} c.w r x }

/-- The bits of rs1 and of the second source that an instruction of this width works on. -/
def srcA (c : Core) (f : BxFields) : Nat := (regW c f.rs1).d.toNat % 2 ^ opWidth f.w32
def srcB (c : Core) (f : BxFields) : Nat := (if f.i then f.imm else (regW c f.rs2).d).toNat % 2 ^ opWidth f.w32

/-- The state after an instruction that writes rd and FLG. -/
def aluNext (s : State) (n : Nat) (f : BxFields) (len tag v : Nat) (fl : Flags) : State :=
  past s n f len { withReg (coreAt s n) f.rd (mkTW tag (widen (opWidth f.w32) tag v)) with flg := mkTW (if tag = 7 then 7 else 2) fl.word }

/-- Z and N of a value, with C and OV given (R390). -/
def flagsOf (w v : Nat) (c ov : Bool) : Flags := { z := v == 0, n := v.testBit (w - 1), c := c, ov := ov }

/-- What the tags of two sources make of a carry and a signed overflow (R391, R394): C of NAT and BYTES sources, OV of INT sources and
of any SECRET one; the C that a carry of SECRET sources sets is open. -/
def carryOf (ta tb : Nat) (carry : Bool) : Bool := carry && ((ta == 2 || ta == 3) && (tb == 2 || tb == 3))
def overflowOf (ta tb : Nat) (out : Bool) : Bool := out && (ta == 7 || tb == 7 || (ta == 1 && tb == 1))

/-- A signed value of `w` bits. -/
def fits (w : Nat) (i : Int) : Bool := decide (-(2 ^ (w - 1)) ≤ i) && decide (i < 2 ^ (w - 1))

/-- An addition or subtraction with value `v`, its carry or borrow and its exact signed result: the trap of CHK, or rd and FLG written. -/
def sumNext (s : State) (n : Nat) (f : BxFields) (len tag ta tb v : Nat) (carry : Bool) (exact : Int) (i : Instr) : Prop :=
  let w := opWidth f.w32
  let ov := overflowOf ta tb (!fits w exact)
  let cy := carryOf ta tb carry
  if tag = 7 then
    ∃ x : Bool, ∃ k, exec i s = .next (drawn (aluNext s n f len 7 v (flagsOf w v (carry && x) ov)) k)
  else if f.chk = true ∧ (ov = true ∨ cy = true) then exec i s = .next (enterTrap s n { code := 0x09 })
  else if tag = 4 ∧ w = 32 then ∃ x < 2 ^ 32, exec i s = .next (drawn (aluNext s n f len 4 (v + 2 ^ 32 * x) (flagsOf w v cy ov)) 1)
  else exec i s = .next (aluNext s n f len tag v (flagsOf w v cy ov))


/-- rd of a core as the instruction reads it, cut to its width. -/
def srcD (c : Core) (f : BxFields) : Nat := (regW c f.rd).d.toNat % 2 ^ opWidth f.w32

/-- The state after an instruction that writes rd alone. -/
def rdNext (s : State) (n : Nat) (f : BxFields) (len : Nat) (x : TW) : State := past s n f len (withReg (coreAt s n) f.rd x)

/-- The state after a product or a quotient has started: an operation in flight in its unit lands first (R396). -/
def mulNext (s : State) (n : Nat) (f : BxFields) (len tag : Nat) (lo hi : Nat) (fl : Flags) : State :=
  let c := coreAt s n
  let old : UnitOp := c.mul.getD { lo := c.mlo, hi := c.mhi }
  past s n f len { c with mlo := old.lo, mhi := old.hi, mul := some { lo := mkTW tag lo, hi := mkTW tag hi }, flg := mkTW (if tag = 7 then 7 else 2) fl.word }

def divNext (s : State) (n : Nat) (f : BxFields) (len tag : Nat) (q r : Nat) (fl : Flags) : State :=
  let c := coreAt s n
  let old : UnitOp := c.div.getD { lo := c.quo, hi := c.rem }
  past s n f len { c with quo := old.lo, rem := old.hi, div := some { lo := mkTW tag q, hi := mkTW tag r }, flg := mkTW (if tag = 7 then 7 else 2) fl.word }

/-- A vector instruction has written register `rd % 16`: its tag, and what each of its lanes of `w` bits holds. Under W32 the lanes are open
(log 29). -/
def lanesNext (s : State) (n : Nat) (f : BxFields) (len tag w : Nat) (lane : Nat → Nat → Prop) (i : Instr) : Prop :=
  ∃ r k, exec i s = .next (drawn (past s n f len { coreAt s n with v := smSet {} (coreAt s n).v (f.rd % 16) { d := r, tag := tag } }) k) ∧
    (f.w32 = false → ∀ j < 128 / w, lane j (vlane r w j))

/-- Lanes of the sources of a vector instruction. -/
def laneA (c : Core) (f : BxFields) (w j : Nat) : Nat := vlane (regV c f.rs1).d w j
def laneB (c : Core) (f : BxFields) (w j : Nat) : Nat := if f.i then f.imm.toNat % 2 ^ w else vlane (regV c f.rs2).d w j
def laneD (c : Core) (f : BxFields) (w j : Nat) : Nat := vlane (regV c f.rd).d w j

/-- The byte address of a load, store or LEA. -/
def addrOf (c : Core) (f : BxFields) : W64 := (regW c f.rs1).d + (if f.i then f.imm else (regW c f.rs2).d)

/-- Base and index are ones Table 17.7 takes. -/
abbrev AddrTags (c : Core) (f : BxFields) : Prop := check2 accBase accIndex pairAddr (opRs1 c f) (opRs2 c f immInt) = .ok tPtr

/-- An access of `n` bytes at an address: aligned, inside local memory, clear of the spill area (R385, R398). -/
abbrev Reachable (c : Core) (a n : Nat) : Prop := addrFault c a n = none

/-- A core's data memory with one word replaced. -/
def withWord (c : Core) (a : Nat) (x : TW) : Core := { c with mem := smSet {} c.mem (a / 8) x }

/-- The core goes to `a` in place of the next instruction. -/
def goNext (s : State) (n : Nat) (f : BxFields) (c : Core) (a : W64) : State := putCore s n (vecPower { c with pc := a } f)

/-- A jump of core `n`, changed to `c`, to an address: an odd one traps (R380). -/
def jumpNext (s : State) (n : Nat) (f : BxFields) (c : Core) (a : W64) : State :=
  if a.toNat % 2 = 1 then enterTrap s n { code := 0x0C, info := a.toNat } else goNext s n f c a


/-- The state after a runtime instruction: `t`, with rd of core `n` written and its PC past the instruction. -/
def rdPast (t : State) (n : Nat) (f : BxFields) (len : Nat) (x : TW) : State :=
  modCore (modCore t n fun c => withReg c f.rd x) n fun c => { c with pc := c.pc + BitVec.ofNat 64 len }

/-- The state after a runtime instruction that writes no register of its core. -/
def pcPast (t : State) (n len : Nat) : State := modCore t n fun c => { c with pc := c.pc + BitVec.ofNat 64 len }


/-- The scalar instructions with two sources checked by R384: op byte, instruction, rows of Table 17.7 for rs1 and the second source, the
pairs of rule 4, and the tag an immediate takes. -/
def pairRows (n : Nat) (f : BxFields) : List (Nat × Instr × Accept × Accept × (Nat → Nat → Option Nat) × (Nat → Nat)) :=
  [(0x08, .bxAdd n f, accArith, accArith, pairAdd, immArith), (0x09, .bxSub n f, accArith, accArith, pairSub, immArith),
   (0x0B, .bxAnd n f, accLogic, accLogic, pairBits, immSame), (0x0C, .bxOr n f, accLogic, accLogic, pairBits, immSame),
   (0x0D, .bxXor n f, accLogic, accLogic, pairBits, immSame), (0x0E, .bxAndn n f, accLogic, accLogic, pairBits, immSame),
   (0x10, .bxShl n f, accLogic, accAmount, pairShift, immInt), (0x11, .bxShr n f, accLogic, accAmount, pairShift, immInt),
   (0x12, .bxSar n f, accLogic, accAmount, pairShift, immInt), (0x18, .bxCmp n f, accCmp, accCmp, pairSame, immSame),
   (0x19, .bxCteq n f, accLogic, accLogic, pairSame, immSame), (0x1A, .bxCtlt n f, accLogic, accLogic, pairSame, immSame),
   (0x40, .bxMul n f, accMulS, accMulS, pairSame, immSame), (0x41, .bxMulu n f, accMulU, accMulU, pairSame, immSame),
   (0x42, .bxDiv n f, accMulS, accMulS, pairSame, immSame), (0x43, .bxDivu n f, accMulU, accMulU, pairSame, immSame)]


/-- A job of this opcode whose execution may end now, its inputs in host memory, its absorption done where it has two phases. -/
def Executes (s : State) (op : Nat) (j : Job) : Prop :=
  runningJob s j.seq op = some j ∧ j.bx = false ∧ (twoPhase j.desc (jobAlg s j) = true → j.absorbed = true)

/-- The inputs of a job in host memory, each of the length its descriptor names. -/
def hostIn (j : Job) (inp : OpInput) : OpIn :=
  { in0 := padTo j.desc.in0Len inp.in0, in1 := padTo j.desc.in1Len inp.in1, ext := padTo j.desc.extLen inp.ext }

/-- The record of a job stands finished in `t` with a result, under the status that an issued completion of its already has (R179); the first
output is left out where it has been streamed. -/
def Finished (s t : State) (j : Job) (result : Result) (streamed : Bool) : Prop :=
  let r := keepStatus j result
  ∃ k, jobOf t j.seq = some k ∧ k.phase = .finished ∧ k.status = r.status ∧ k.out0 = (if streamed then none else r.out0) ∧ k.out1 = r.out1 ∧
    k.out0Len = r.len0 ∧ k.out1Len = r.len1 ∧ k.verdict = r.verdict ∧ k.digest = r.digest ∧ k.reason = r.reason ∧ k.reasonIndex = r.index ∧
    k.tDone = s.time ∧ k.desc = j.desc ∧ ∀ x ∈ s.jobs, x.seq ≠ j.seq → x ∈ t.jobs

/-- A command ends the execution of a job with a result. -/
def EndsWith (s : State) (j : Job) (c : Instr) (r : Result) : Prop := ∃ t, exec c s = .next t ∧ Finished s t j r false

/-- A command ends the execution of a job whose first output is streamed ahead of the completion where its function may write (R232, R261). -/
def Streams (s : State) (j : Job) (c : Instr) (o0 o1 : Bytes) : Prop :=
  ∃ t, exec c s = .next t ∧ Finished s t j (okOut o0 o1) (mayWrite s j.queue) ∧
    (mayWrite s j.queue = true → o0 ≠ [] → (keepStatus j (okOut o0 o1)).out0 = some o0 → t.out = s.out ++ [.memWrite (qAt s j.queue).fn j.desc.out0Addr o0])

/-- Every job opcode with its command and what its outputs need (R220). -/
def JobRow (row : Nat × (Nat → OpInput → Instr) × (State → Job → Nat × Nat)) : Prop := row ∈
  [(0x0000, .opNop, sizesOf), (0x0E10, .opAttestQuote, quoteSizes), (0x0100, .opMlkemKeygen, sizesOf), (0x0101, .opMlkemEncaps, sizesOf),
   (0x0102, .opMlkemDecaps, sizesOf), (0x0110, .opMldsaKeygen, sizesOf), (0x0111, .opMldsaSign, sizesOf), (0x0112, .opMldsaVerify, sizesOf),
   (0x0200, .opSlhdsaKeygen, sizesOf), (0x0201, .opSlhdsaSign, sizesOf), (0x0202, .opSlhdsaVerify, sizesOf), (0x0210, .opLmsKeygen, sizesOf),
   (0x0211, .opLmsSign, hbsSize), (0x0212, .opLmsVerify, sizesOf), (0x0220, .opXmssKeygen, sizesOf), (0x0221, .opXmssSign, hbsSize),
   (0x0222, .opXmssVerify, sizesOf), (0x0230, .opHbsQuery, sizesOf), (0x0300, .opMceKeygen, sizesOf), (0x0301, .opMceEncaps, sizesOf),
   (0x0302, .opMceDecaps, sizesOf), (0x0310, .opHqcKeygen, sizesOf), (0x0311, .opHqcEncaps, sizesOf), (0x0312, .opHqcDecaps, sizesOf),
   (0x0E00, .opPkcLoad, sizesOf), (0x0E01, .opPkcEvict, sizesOf)] ++
  [(0x0400, .opRsaKeygen, sizesOf), (0x0401, .opRsaSign, sizesOf), (0x0402, .opRsaVerify, sizesOf), (0x0403, .opRsaEncrypt, sizesOf),
   (0x0404, .opRsaDecrypt, sizesOf), (0x0410, .opEcdsaKeygen, sizesOf), (0x0411, .opEcdsaSign, sizesOf), (0x0412, .opEcdsaVerify, sizesOf),
   (0x0418, .opEcdhKeygen, sizesOf), (0x0419, .opEcdhDerive, sizesOf), (0x041A, .opEcdhEphemeral, sizesOf), (0x0420, .opEddsaKeygen, sizesOf),
   (0x0421, .opEddsaSign, sizesOf), (0x0422, .opEddsaVerify, sizesOf), (0x0428, .opXdhKeygen, sizesOf), (0x0429, .opXdhDerive, sizesOf),
   (0x042A, .opXdhEphemeral, sizesOf)] ++
  [(0x0500, .opDigest, sizesOf), (0x0510, .opHmac, sizesOf), (0x0511, .opHmacVerify, sizesOf), (0x0518, .opKmac, sizesOf),
   (0x0519, .opKmacVerify, sizesOf), (0x0520, .opCrc, sizesOf), (0x0F00, .opKeyGenerate, sizesOf), (0x0F01, .opKeyImport, sizesOf),
   (0x0F02, .opKeyUnwrap, sizesOf), (0x0F03, .opKeyDerive, sizesOf), (0x0F04, .opKeyExport, exportSizes), (0x0F05, .opBlobRegister, sizesOf),
   (0x0F06, .opKeyRestrict, sizesOf), (0x0F07, .opKeyRevoke, sizesOf)]


/-- What stays true of the part: no response without a latched alarm (R434, R439), a boot state of Table 04.15, logs within their rings
(R470), and a device root only once it is programmed (R98). -/
def Sound (s : State) : Prop :=
  (s.tp.latched = false → s.tp.alarm = 0 ∧ s.tp.response = 0) ∧ s.sys.bootState ≤ 5 ∧ s.hl.faultLog.length ≤ 262144 ∧ s.hl.auditLog.length ≤ 131072 ∧
  (s.lc.rootPresent = false → s.lc.deviceRoot = [])

end Sys2Proof.Claims

open Sys2Proof.Claims

/-- A step takes the command at the front of the queue and carries it out with the queue's rest; with nothing waiting, no stall's sequencer
running and no raw samples taken, only time passes (the model's choice, log 2): 1 ns, or 1,000 ns in deep sleep or without XTAL25. -/
def Obligations.StepTakesTheFrontCommand : Prop :=
  ∀ (s : State) (c : Instr) (rest : List Instr),
    (s.pending = c :: rest → step s = exec c { s with pending := rest }) ∧
    (s.pending = [] → s.rng.rawMode = false → (∀ e ∈ s.stalls, e.2.sequ.running = false) → step s =
      .next { s with time := (s.time + if s.sys.deepSleep = true ∨ s.sys.xtal = false then 1000 else 1) % 2 ^ 64 })

/-- Every command answers a next state in every state, leaves the queue of commands to `step`, and changes nothing but the registers its
frame names: of every function, queue, paddock, stall, core and unit, every other register reads as before. -/
def Obligations.CommandsKeepTheirFrames : Prop :=
  ∀ (c : Instr) (s : State), ∃ t, exec c s = .next t ∧ t.pending = s.pending ∧ Only (frameOf c) s t

/-- Every step from a sound state gives a sound one, and no step lowers the rollback floor of an image kind (R110). -/
def Obligations.StepsKeepTheInvariant : Prop :=
  ∀ (s t : State), Steps s t → (Sound s → Sound t) ∧ ∀ k ∈ slotKinds, floorOf s k ≤ floorOf t k

/-- The part right after reset: held in reset with the cold cause alone, its gate closed, its link down, WAKE_N and TT_HBO not driven, no
live record, every queue DISABLED, no core loaded, every compare pair at no match, the random source not ready, no alarm, no outstanding
fault, no command waiting; and it is sound. -/
def Obligations.ResetState : Prop :=
  let s := State.reset
  Sound s ∧ s.sys.porstN = false ∧ s.sys.causeCold = true ∧ s.sys.causeWarmSw = false ∧ s.sys.causeWarmFatal = false ∧ s.sys.causeWarmApply = false ∧
  s.sys.causeHif = false ∧ s.sys.causeClock = false ∧ s.sys.paddockResets = 0 ∧ s.sys.bootState = 0 ∧ s.sys.stage = 0 ∧ s.sys.wakeDriven = false ∧
  s.sys.ttHbo = false ∧ s.time = 0 ∧ s.jn.opened = false ∧ s.jobs = [] ∧ s.port.linkUp = false ∧ s.port.vfEnable = false ∧ s.rng.ready = false ∧
  s.tp.latched = false ∧ s.fc.out = [] ∧ s.fc.log = [] ∧ s.dbg.scope = 0 ∧ s.lc.busy = false ∧ s.pending = [] ∧ s.out = [] ∧
  (∀ q, (qAt s q).state = 0 ∧ (qAt s q).p = 0 ∧ (qAt s q).a = 0 ∧ (qAt s q).t = 0) ∧ (∀ n, (coreAt s n).state = 0 ∧ (coreAt s n).mem = []) ∧
  (∀ n, (fnAt s n).bme = false ∧ (fnAt s n).dState = 0 ∧ (fnAt s n).msixEn = false ∧ (fnAt s n).denied = 0 ∧ (fnAt s n).cmpEq = 0#32 ∧
    (fnAt s n).cmpNe = 0xFFFFFFFF#32 ∧ (n ≠ 0 → (fnAt s n).present = false)) ∧
  (∀ p, (padAt s p).mrs = [] ∧ (padAt s p).results = [] ∧ (padAt s p).haltLog = []) ∧ (∀ n, (stAt s n).state = 0 ∧ (stAt s n).jobs = [])

/-- PORST_N rising, or VDD_AON coming up under a high PORST_N, starts cold boot in a part held in reset (R81, R500): the time base goes on
from no lower than it stood, or than the banks held (R26), and Table 04.5 says where boot stops: at step 3 with both NAND supplies
mismatched; at step 4 in LOCKED and SCRAP, and with two VALID slots or an INVALID one, which reads as LOCKED; at step 9 without a valid system
firmware, but in RAW. FAULT_N is low in BOOT_FAIL. Without XTAL25 or the PLLs boot waits at step 5 (model's choice, log 109). -/
def Obligations.ColdBootStops : Prop :=
  ∀ (b : BootIn) (s : State), ∀ c ∈ [Instr.porstNRise b, Instr.vddAonPowerOn b], s.sys.porstN = false → s.en.flushActive = false → FaultsClear s →
    let stops := fun (st reason stage : Nat) => ∃ t, exec c s = .next t ∧ t.sys.porstN = true ∧ t.sys.bootState = st ∧ t.sys.reason = reason ∧
      t.sys.stage = stage ∧ t.sys.wait = .done ∧ t.jn.opened = s.jn.opened ∧ s.time ≤ t.time ∧ (st = 4 → faultPin t = true)
    let runs := s.sys.xtal = true ∧ s.sys.pllLocked = true
    let fed := (supplyWrong b 0 && supplyWrong b 1) = false
    let lc := (decodeLedger s).lc.state
    (supplyWrong b 0 = true → supplyWrong b 1 = true → stops 4 1 2) ∧
    (fed → lc = 7 → stops 3 0 3) ∧
    (fed → lc = 5 → stops 5 0 3) ∧
    (runs → fed → lc ≠ 7 → lc ≠ 5 → lc ≠ 0 → s.hl.images = [] → stops 4 2 8) ∧
    (¬runs → fed → lc ≠ 7 → lc ≠ 5 → ∃ t, exec c s = .next t ∧ t.sys.porstN = true ∧ t.sys.wait = .clock ∧ t.sys.bootState = s.sys.bootState ∧
      t.sys.stage = 4 ∧ t.lc.state = lc ∧ s.time ≤ t.time) ∧
    (s.jn.held = true → b.banksOk = true → ∃ t, exec c s = .next t ∧ s.sys.timeJournal < t.time)

/-- The boot of a part with an empty hayloft and a RAW die (log 7), with nothing wrong outside it, whatever else it kept through reset: PORST_N or
VDD_AON starts it, and in a part held for a clock the return of that clock does, which is recorded (R50). Every step of Table 04.4
completes: the part runs, its source is ready, its gate is open, and its registers are served where the link is up; where no bank holds the
journal it is empty and reported lost, which holds the gate until it is cleared. -/
def Obligations.FirstBootRuns : Prop :=
  ∀ (b : BootIn) (s : State), CleanBoot b → BlankPart s →
    let boots := fun (c : Instr) => ∃ t, exec c s = .next t ∧ t.sys.porstN = true ∧ t.sys.bootState = 1 ∧ t.sys.stage = 16 ∧ t.sys.wait = .done ∧ t.lc.state = 0 ∧
      t.jn.opened = true ∧ t.jn.lost = !(s.jn.held && b.banksOk) ∧ (t.jn.lost = true → t.jobs = []) ∧ t.rng.ready = true ∧ t.en.calValid = true ∧
      t.port.linkUp = (s.sys.perstN && s.sys.refclk) ∧ fatalHolds t = t.jn.lost ∧
      regsUp t 0 = (s.sys.perstN && s.sys.refclk && (fnAt s 0).dState == 0) ∧ s.time ≤ t.time
    (s.sys.porstN = false → s.sys.xtal = true → s.sys.pllLocked = true → boots (.porstNRise b) ∧ boots (.vddAonPowerOn b)) ∧
    (s.sys.porstN = true → s.sys.wait = .clock → s.sys.stage = 0 →
      (s.sys.xtal = false → s.sys.pllLocked = true → boots (.xtal25Restore b) ∧ ∃ t, exec (.xtal25Restore b) s = .next t ∧ t.sys.xtal = true ∧ t.sys.causeClock = true) ∧
      (s.sys.xtal = true → s.sys.pllLocked = false → boots (.pllRelock b) ∧ ∃ t, exec (.pllRelock b) s = .next t ∧ t.sys.pllLocked = true ∧ t.sys.causeClock = true))

/-- COLD_RESET (R76, R77, Table 04.2): the part is held, its registers at their reset values; the ledger, the tack room's sealed content, the
cache, the hayloft's content and paddock incarnations stay; live records, cursors and captures stay while VDDM does. A transition cut short
in step 8 leaves its old slot INVALID (R105; the model's choice, log 77). -/
def Obligations.ColdResetKeeps : Prop :=
  ∀ (cause : Nat) (kept : Bool) (s : State),
    ∃ t, exec (.coldReset cause kept) s = .next t ∧ t.sys.porstN = false ∧ t.sys.bootState = 0 ∧ t.sys.stage = 0 ∧ t.sys.wait = .inReset ∧ t.sys.causeCold = true ∧
      t.time = 0 ∧ t.plan = {} ∧ t.pl = {} ∧ t.en = { cmeas := s.en.cmeas, cmeasCap := s.en.cmeasCap } ∧ t.fns = [] ∧ t.port = {} ∧ t.stalls = [] ∧ t.cores = [] ∧
      t.feeds = [] ∧ t.rng = {} ∧ t.tp = {} ∧ t.lk = {} ∧ t.scans = [] ∧ t.fc = { spareRows := s.fc.spareRows } ∧ t.dbg.scope = 0 ∧ t.jn.opened = false ∧
      t.lc.slots = (if s.lc.step = 8 then cutErase s.lc else s.lc.slots) ∧ t.lc.floorRecs = s.lc.floorRecs ∧ t.lc.debugRecs = s.lc.debugRecs ∧
      t.lc.deviceRoot = s.lc.deviceRoot ∧ t.hl.certs = s.hl.certs ∧ t.hl.flush = s.hl.flush ∧ t.hl.images = s.hl.images ∧ t.hl.auditLog = s.hl.auditLog ∧
      t.hl.faultLog = s.hl.faultLog ∧ t.hl.retireMap = s.hl.retireMap ∧ t.yardRetired = s.yardRetired ∧ t.pending = s.pending ∧ t.out = s.out ∧
      (kept = false → t.jobs = [] ∧ t.queues = [] ∧ t.jn.held = false ∧ t.jn.nextSeq = 0 ∧ t.sys.timeJournal = 0) ∧
      (kept = true → s.jobs.all isLive = true →
        t.jobs = s.jobs.map coldJob ∧ t.cache = s.cache ∧ t.jn.nextSeq = s.jn.nextSeq ∧ t.jn.term = s.jn.term ∧ t.jn.held = s.jn.held ∧
        t.queues = smMap {} (fun _ x => coldQueue x) s.queues)

/-- The power-fail flush (R70, R183 to R186, Table 08.4): it starts only behind a recovered journal, closes the gate, stops stalls, cores, their
sheds and the link; its end writes the commit blocks and what the banks hold, counts it and records its result, and stores the capacitance it
measured where the bank fell by 500 mV; the part then waits, or boots when POWER_FAIL_N has risen, or is held in reset until its clocks run. A
power failure before step 13 starts no flush; it ends deep sleep all the same (R55). -/
def Obligations.PowerFailFlush : Prop :=
  ∀ (s : State),
    (canFlush s = false → let u := endDeepSleep s
      exec .powerFailFlush s = .next { u with sys := { u.sys with powerFailN := false } }) ∧
    (canFlush s = true →
      ∃ t, exec .powerFailFlush s = .next t ∧ t.en.flushActive = true ∧ t.jn.opened = false ∧ t.sys.powerFailN = false ∧ t.sys.deepSleep = false ∧
        t.port.linkUp = false ∧ t.jn.flushFrom = s.time ∧ (∀ j ∈ t.jobs, j.phase ≠ .running) ∧ (∀ n, (stAt t n).state = 0 ∨ (stAt t n).state = 5) ∧
        (∀ i < 18, shedAt t i = 0) ∧ shedAt t 20 = 0 ∧ shedAt t 21 = 0) ∧
    (∀ ok0 ok1 i nj raw0 raw1, i < 24 → s.en.flushActive = true → s.jn.flushWait = false → s.jn.bootAfterFlush = none →
      let c0 := ok0 && !s.hl.failed0
      let c1 := ok1 && !s.hl.failed1
      let meters := smMod 0 s.en.meter i (fun x => (x + nj) % 2 ^ 64)
      let convs := (correctCode s (raw1 % 4096) :: correctCode s (raw0 % 4096) :: s.en.convs).take 8
      let image := if c0 || c1 then flushImage s c0 c1 (drawBytes s 12).1 else s.hl.flush
      (s.sys.xtal = true → s.sys.pllLocked = true →
        ∃ t, exec (.flushComplete ok0 ok1 [(i, nj)] raw0 raw1) s = .next t ∧ t.jn.flushWait = true ∧ t.jn.flushSeq = s.jn.flushSeq + 1 ∧
          t.jn.flushResult = (if c0 && c1 then 1 else if c0 || c1 then 2 else 3) ∧ t.jn.flushUs = ((s.time - s.jn.flushFrom) / 1000) % 2 ^ 24 ∧
          t.hl.flush = image ∧ t.jn.flushRecords = (if c0 || c1 then nLive s else s.jn.flushRecords) ∧
          t.en.meter = meters ∧ t.en.convs = convs ∧
          (bankFell t = true → t.en.cmeasCap = s.plan.part.capUf ∧ t.en.cmeas = some (2 * 10 ^ 9 * (meterSum t - s.en.flushNj) * s.plan.part.divPpm ^ 2 /
            (s.plan.part.effPct * (s.en.flushConv ^ 2 - minConv t ^ 2) * 250000 ^ 2))) ∧
          (bankFell t = false → t.en.cmeasCap = s.en.cmeasCap ∧ t.en.cmeas = s.en.cmeas)) ∧
      (¬(s.sys.xtal = true ∧ s.sys.pllLocked = true) →
        ∃ t, exec (.flushComplete ok0 ok1 [(i, nj)] raw0 raw1) s = .next t ∧ t.sys.wait = .clock ∧ t.sys.bootState = 0 ∧ t.sys.stage = 0 ∧ t.en.flushActive = false ∧
          t.hl.flush = image ∧ t.jn.flushSeq = s.jn.flushSeq + 1)) ∧
    (∀ b, (s.en.flushActive = false → exec (.powerFailRise b) s = .next { s with sys := { s.sys with powerFailN := true } }) ∧
      (s.en.flushActive = true → s.jn.flushWait = false → exec (.powerFailRise b) s =
        .next { s with sys := { s.sys with powerFailN := true }, jn := { s.jn with bootAfterFlush := some b } }) ∧
      (s.en.flushActive = true → s.jn.flushWait = true → exec (.powerFailRise b) s =
        .next (settle (reboot { s with sys := { s.sys with powerFailN := true } } b false))))

/-- XTAL25 and the core PLLs (R50): a loss is reported; behind a recovered journal it flushes it, with a flush running already that one goes on, and
otherwise the part is held in reset; it stays held until the clock runs again, and the boot that follows records clock_loss, goes through
Table 04.4 from its start, and meets what stands in the way there as any cold boot does; a cold boot that waited for its clocks at step 5 goes on
from there (model's choice, log 109). -/
def Obligations.ClockLossAndReturn : Prop :=
  ∀ (s : State) (b : BootIn),
    (s.sys.xtal = true → s.sys.porstN = true → s.en.flushActive = false → s.sys.stage < 13 →
      ∃ t, exec .xtal25Loss s = .next t ∧ t.sys.xtal = false ∧ t.sys.porstN = true ∧ t.sys.wait = .clock ∧ t.sys.bootState = 0 ∧ t.sys.stage = 0) ∧
    (s.sys.xtal = true → canFlush s = true → FaultsClear s →
      ∃ t, exec .xtal25Loss s = .next t ∧ t.sys.xtal = false ∧ t.en.flushActive = true ∧ t.jn.opened = false ∧ (findOut t.fc 0x281 0x18).isSome = true) ∧
    (s.sys.xtal = true → s.sys.porstN = true → s.en.flushActive = true → FaultsClear s →
      ∃ t, exec .xtal25Loss s = .next t ∧ t.sys.xtal = false ∧ t.en.flushActive = true ∧ t.jobs = s.jobs ∧ (findOut t.fc 0x281 0x18).isSome = true) ∧
    (s.sys.xtal = true → s.sys.porstN = false → exec .xtal25Loss s = .next { s with sys := { s.sys with xtal := false } }) ∧
    (s.sys.xtal = false → exec .xtal25Loss s = .next s) ∧
    (s.sys.wait = .clock → FaultsClear s → s.en.flushActive = false →
      let fed := (supplyWrong b 0 && supplyWrong b 1) = false
      let lc := (decodeLedger s).lc.state
      (s.sys.xtal = false → s.sys.stage = 0 →
        (¬fed → ∃ t, exec (.xtal25Restore b) s = .next t ∧ t.sys.xtal = true ∧ t.sys.causeClock = true ∧ t.sys.bootState = 4 ∧ t.sys.reason = 1) ∧
        (fed → lc = 7 → ∃ t, exec (.xtal25Restore b) s = .next t ∧ t.sys.xtal = true ∧ t.sys.causeClock = true ∧ t.sys.bootState = 3) ∧
        (fed → lc = 5 → ∃ t, exec (.xtal25Restore b) s = .next t ∧ t.sys.xtal = true ∧ t.sys.causeClock = true ∧ t.sys.bootState = 5) ∧
        (fed → lc ≠ 7 → lc ≠ 5 → s.sys.pllLocked = false → ∃ t, exec (.xtal25Restore b) s = .next t ∧ t.sys.xtal = true ∧ t.sys.causeClock = true ∧
          t.sys.wait = .clock ∧ t.sys.stage = 4) ∧
        (fed → lc ≠ 7 → lc ≠ 5 → lc ≠ 0 → s.sys.pllLocked = true → s.hl.images = [] → ∃ t, exec (.xtal25Restore b) s = .next t ∧ t.sys.xtal = true ∧
          t.sys.causeClock = true ∧ t.sys.bootState = 4 ∧ t.sys.reason = 2 ∧ t.sys.stage = 8)) ∧
      (s.sys.xtal = false → s.sys.stage ≠ 0 → s.sys.pllLocked = false → exec (.xtal25Restore b) s = .next (settle { s with sys := { s.sys with xtal := true } })) ∧
      (s.sys.xtal = false → s.sys.stage ≠ 0 → s.sys.pllLocked = true → s.lc.state ≠ 0 → s.hl.images = [] →
        ∃ t, exec (.xtal25Restore b) s = .next t ∧ t.sys.xtal = true ∧ t.sys.causeClock = s.sys.causeClock ∧ t.sys.bootState = 4 ∧ t.sys.reason = 2 ∧ t.sys.stage = 8) ∧
      (s.sys.pllLocked = false → s.sys.stage = 0 → ¬fed →
        ∃ t, exec (.pllRelock b) s = .next t ∧ t.sys.pllLocked = true ∧ t.sys.causeClock = true ∧ t.sys.bootState = 4 ∧ t.sys.reason = 1) ∧
      (s.sys.pllLocked = false → s.sys.stage = 0 → s.sys.xtal = true → fed → lc ≠ 7 → lc ≠ 5 → lc ≠ 0 → s.hl.images = [] →
        ∃ t, exec (.pllRelock b) s = .next t ∧ t.sys.pllLocked = true ∧ t.sys.causeClock = true ∧ t.sys.bootState = 4 ∧ t.sys.reason = 2 ∧ t.sys.stage = 8)) ∧
    (s.sys.wait ≠ .clock → s.en.flushActive = true →
      (s.sys.xtal = false → exec (.xtal25Restore b) s = .next { s with sys := { s.sys with xtal := true }, jn := { s.jn with bootAfterFlush := some b } }) ∧
      (s.sys.pllLocked = false → exec (.pllRelock b) s = .next { s with sys := { s.sys with pllLocked := true }, jn := { s.jn with bootAfterFlush := some b } }))

/-- A warm reset of a running part (R78, Table 04.3): the cause is latched, a plan change, transition, debug session and raw-sample mode end,
cores are stopped and wiped but for their load counts, feeds emptied, measurement registers, result slots and halt logs cleared, compare
pairs at no match; nothing runs, and the gate opens again unless a boundary instruction or a transition that waits for its cold reset keeps it
closed (R104, R484), or, after an APPLY, the bank does not cover the worst flush (R72, R83). SY_RESET with key 0xA5 is the software one; any
other value does nothing. During cold boot a warm reset is held until the gate opens, and the first cause held stands (model's choice, log
104). -/
def Obligations.WarmReset : Prop :=
  ∀ (s : State), NothingDue s →
    (∀ cause, s.sys.bootState = 1 → s.sys.deepSleep = false → s.en.flushActive = false →
      ∃ t, exec (.warmReset cause) s = .next t ∧ t.sys.causeCold = false ∧ t.sys.bootState = 1 ∧
        (min cause 2 ≠ 2 → t.jn.opened = gateMayOpen s) ∧
        (min cause 2 = 2 → (dirNow s).fresh = [] → s.plan.loaded = false ∨ bankSuffices s = true → t.jn.opened = gateMayOpen s) ∧
        (min cause 2 = 2 → (dirNow s).fresh = [] → s.plan.loaded = true → bankSuffices s = false → t.jn.opened = false ∧ t.sys.wait = .reserve) ∧
        (min cause 2 = 0 → t.sys.causeWarmSw = true) ∧ (min cause 2 = 1 → t.sys.causeWarmFatal = true) ∧ (min cause 2 = 2 → t.sys.causeWarmApply = true) ∧
        t.dbg.scope = 0 ∧ t.rng.rawMode = false ∧ t.lc.step = 0 ∧ t.lc.busy = (if s.lc.step = 0 then s.lc.busy else false) ∧
        (min cause 2 ≠ 2 → t.pl.swap = none) ∧ t.feeds = [] ∧ t.scans = [] ∧
        (smWf {} s.cores = true → ∀ n, coreAt t n = { loads := (coreAt s n).loads, retired := (coreAt s n).retired }) ∧
        (∀ p, (padAt t p).mrs = [] ∧ (padAt t p).results = []) ∧
        (∀ n, (fnAt t n).cmpEq = 0#32 ∧ (fnAt t n).cmpNe = 0xFFFFFFFF#32) ∧ (∀ j ∈ t.jobs, j.silent = false → j.phase ≠ .running)) ∧
    (∀ v, regsUp s 0 = true → bits v.toNat 0 8 = 0xA5 → exec (.syReset 0 v) s = exec (.warmReset 0) s) ∧
    (∀ v, regsUp s 0 = true → s.sys.bootState = 1 → bits v.toNat 0 8 = 0xA5 →
      ∃ t, exec (.syReset 0 v) s = .next t ∧ t.sys.causeWarmSw = true ∧ t.sys.causeCold = false ∧ t.sys.bootState = 1 ∧ t.jn.opened = gateMayOpen s ∧
        t.dbg.scope = 0 ∧ t.pl.swap = none ∧ t.feeds = [] ∧ ∀ j ∈ t.jobs, j.silent = false → j.phase ≠ .running) ∧
    (∀ fn v, bits v.toNat 0 8 ≠ 0xA5 ∨ fn ≠ 0 → exec (.syReset fn v) s = .next s) ∧
    (∀ cause, s.sys.bootState = 0 → 9 ≤ s.sys.stage → s.sys.porstN = true → s.en.flushActive = false → (∀ p, (padAt s p).replayOwed = false) →
      exec (.warmReset cause) s = .next { s with sys := { s.sys with heldWarm := some (s.sys.heldWarm.getD (min cause 2)) } })

/-- SY_PADDOCK_RESET with key 0x5A (R79, R96, R116): a present paddock other than 0 has its cores stopped and wiped and its measurement registers
cleared, none of its jobs runs, its bit is latched and the debug session ends; the cores and measurement registers of the other paddocks stay;
paddock 0, an absent one and a wrong key do nothing. -/
def Obligations.PaddockReset : Prop :=
  ∀ (s : State) (v : W64), let p := bits v.toNat 0 5
    (regsUp s 0 = true → NothingDue s → bits v.toNat 8 8 = 0x5A → p ≠ 0 → padPresent s p = true →
      ∃ t, exec (.syPaddockReset 0 v) s = .next t ∧ hasBit t.sys.paddockResets p = true ∧ (padAt t p).mrs = [] ∧ t.dbg.scope = 0 ∧
        (∀ n ∈ coresOfPad s p, (coreAt t n).state = 0 ∧ (coreAt t n).mem = [] ∧ (coreAt t n).windows = []) ∧
        (∀ n, n ∉ coresOfPad s p → coreAt t n = coreAt s n) ∧ (∀ q, q ≠ p → (padAt t q).mrs = (padAt s q).mrs) ∧
        (s.sys.bootState = 1 → ∀ j ∈ t.jobs, j.paddock = p → j.silent = false → j.phase ≠ .running)) ∧
    (NothingDue s → (∀ q, (padAt s q).replayOwed = false) → regsUp s 0 = true → bits v.toNat 8 8 = 0x5A →
      (p = 0 ∨ padPresent s p = false) → exec (.syPaddockReset 0 v) s = .next s) ∧
    (∀ fn, fn ≠ 0 ∨ bits v.toNat 8 8 ≠ 0x5A → exec (.syPaddockReset fn v) s = .next s)

/-- The host interface and its functions reset (R35, R51, R80, R127, R137, Table 04.2): a host-interface reset holds every enabled queue, takes the
link down or retrains it, resets every function and removes the VFs, and PERST_N low switches the HIF shed off but in a twin; PERST_N high
trains the link at the width it finds, switches the shed on and releases WAKE_N; FLR resets one function and holds its queues; losing REFCLK,
but in L1.1 and L1.2 with CLKREQ_N high, takes the link down and reports FK_REFCLK_LOST, and its return resets the interface. -/
def Obligations.HostInterfaceResets : Prop :=
  ∀ (s : State),
    (∀ cause, s.sys.porstN = true → s.en.flushActive = false →
      ∃ t, exec (.hostInterfaceReset cause) s = .next t ∧ t.sys.causeHif = true ∧ t.sys.perstN = (cause != 0 && s.sys.perstN) ∧
        t.port.linkUp = (cause != 0 && linkTrains s) ∧ t.port.vfEnable = false ∧ t.port.numVfs = 0 ∧
        (cause = 0 → s.plan.part.twin = false → shedAt t 21 = 0) ∧
        (∀ q, (qAt s q).state = 0 → qAt t q = qAt s q) ∧ (∀ q, (qAt s q).state ∈ [1, 2, 3, 4] → (qAt t q).state = 5 ∧ (qAt t q).remembered = (qAt s q).state) ∧
        (∀ n, (fnAt t n).bme = false ∧ (fnAt t n).dState = 0 ∧ (fnAt t n).msixEn = false ∧ (n ≠ 0 → (fnAt t n).present = false))) ∧
    (s.sys.perstN = false → ∃ t, exec .perstNDeassert s = .next t ∧ t.sys.perstN = true ∧ t.sys.wakeDriven = false ∧
      t.sys.linkWidth ∈ [16, 8, 4, 1] ∧ (s.sys.porstN = true → s.en.flushActive = false → shedAt t 21 = 2) ∧
      t.port.linkUp = (s.sys.refclk && s.sys.porstN && (decide (6 ≤ s.sys.stage) || decide (2 ≤ s.sys.bootState)))) ∧
    (∀ fn, cfgReaches s fn = true →
      ∃ t, exec (.functionLevelReset fn) s = .next t ∧ (fnAt t fn).bme = false ∧ (fnAt t fn).dState = 0 ∧ (fnAt t fn).denied = 0 ∧
        (fnAt t fn).vecs = [] ∧ (fnAt t fn).evMap = [] ∧ (fnAt t fn).cmpEq = 0#32 ∧ (fnAt t fn).cfg = {} ∧
        (∀ q, (qAt s q).fn = fn → (qAt s q).bx = false → (qAt s q).state ∈ [1, 2, 3, 4] → (qAt t q).state = 5) ∧
        (fn = 0 → t.port.vfEnable = false ∧ t.port.aspmL1 = false ∧ ∀ n, 0 < n → n < 65 → (fnAt t n).present = false) ∧
        (fn ≠ 0 → ∀ n, n ≠ fn → fnAt t n = fnAt s n)) ∧
    (s.sys.porstN = true → s.sys.refclk = true → s.port.linkState < 2 ∨ Config.freeValue s.freeCtr % 2 = 1 → s.en.flushActive = false → FaultsClear s →
      ∃ t, exec .refclkLoss s = .next t ∧ t.sys.refclk = false ∧ t.port.linkUp = false ∧ (findOut t.fc 0x282 0x19).isSome = true) ∧
    (s.sys.porstN = true → s.sys.refclk = true → 2 ≤ s.port.linkState → Config.freeValue s.freeCtr % 2 = 0 →
      exec .refclkLoss s = .next { s with freeCtr := s.freeCtr + 1 }) ∧
    (s.sys.refclk = false → s.sys.porstN = true → s.en.flushActive = false →
      ∃ t, exec .linkReturn s = .next t ∧ t.sys.refclk = true ∧ t.sys.causeHif = true ∧ t.sys.linkWidth ∈ [16, 8, 4, 1] ∧
        t.port.linkUp = (s.sys.perstN && (decide (6 ≤ s.sys.stage) || decide (2 ≤ s.sys.bootState))) ∧
        (∀ q, (qAt s q).state ∈ [1, 2, 3, 4] → (qAt t q).state = 5))

/-- Boot's waits end (R72, R83, R95, R200, R501): the reserve check is repeated and boot, or the gate after an APPLY, stays behind it while the
bank does not suffice, and goes on once it does; POWER_FAIL_N high for 1 ms lets step 13 recover the journal into both banks; side A opens its
gate for the queues of both sides when its partner does not come, and a waiting side opens it as one of two, yielding to a partner of a higher
term, when it does. -/
def Obligations.BootWaitsEnd : Prop :=
  ∀ (b : BootIn) (s : State), s.en.flushActive = false → NothingDue s →
    (s.sys.wait = .reserve → s.plan.loaded = true → bankSuffices s = false →
      ∃ t, exec (.bootReserveRecheck b) s = .next t ∧ t.sys.wait = .reserve ∧ t.sys.bootState = s.sys.bootState ∧ t.sys.stage = s.sys.stage) ∧
    (s.sys.wait = .reserve → s.sys.bootState = 0 → bankSuffices s = true → s.sys.powerFailN = false →
      ∃ t, exec (.bootReserveRecheck b) s = .next t ∧ t.sys.wait = .powerFail ∧ t.sys.stage = 12 ∧ t.en.reserveLow = !reserveCovers s (nLive s)) ∧
    (s.sys.wait = .reserve → s.sys.bootState = 1 → bankSuffices s = true →
      ∃ t, exec (.bootReserveRecheck b) s = .next t ∧ t.sys.wait = .done ∧ t.jn.opened = gateMayOpen s) ∧
    (s.sys.wait = .powerFail → s.jn.held = true → s.jn.fromFlush = false → b.banksOk = true → s.hl.flush.present = false → s.rng = {} → b.kat = false →
      ∃ t, exec (.bootPowerFailWaitEnd b) s = .next t ∧ t.sys.powerFailN = true ∧ t.sys.stage = 14 ∧ t.sys.wait = .random ∧
        t.rng.attempts = 1 ∧ t.jn.held = true ∧ t.jn.bank0 = true ∧ t.jn.bank1 = true ∧ t.jn.lost = s.jn.lost ∧ t.time = s.time) ∧
    (s.sys.wait = .twin → s.tt.mismatch = false → s.sys.straps.twinSide = false → s.sys.heldWarm = none →
      ∃ t, exec (.twinWaitTimeout b) s = .next t ∧ t.sys.bootState = 1 ∧ t.sys.stage = 16 ∧ t.jn.opened = gateMayOpen s ∧ t.jn.role = 2 ∧ t.tt.partnerFailed = true) ∧
    (∀ term side, s.sys.wait = .twin → s.plan.part.twin = true → side ≠ s.sys.straps.twinSide → s.jn.role ≠ 3 → s.tt.mismatch = false → s.sys.heldWarm = none →
      ∃ t, exec (.twinPartnerPresent term side) s = .next t ∧ t.sys.bootState = 1 ∧ t.sys.stage = 16 ∧ t.jn.opened = gateMayOpen s ∧ t.jn.role = 1 ∧
        t.jn.term = max s.jn.term term ∧ t.tt.partnerPresent = true ∧ (s.jn.term < term → t.jobs = []))

/-- Configuration requests (R35, R82, R117, R123, R138): none is answered without a link; before step 10 each gets CRS; an absent function an
Unsupported Request, logged in the PF's AER capability; a read gets its word, vendor and device 0x7360_1FC7 of the PF among them, and the
width the link trained at; a write of Command, a BAR, PMCSR, MSI-X Control and Initiate Function Level Reset acts and is answered. Words of the
PCI-family layout are presumed (model's choice, log 8). -/
def Obligations.ConfigurationRequests : Prop :=
  ∀ (s : State) (fn off v : Nat) (wr : Bool),
    let ok := fun (t : State) (d : Nat) => emit t (.cfgReply fn 0 d)
    (linkServes s = false → exec (.configRequest fn wr off v) s = .next s) ∧
    (linkServes s = true → cfgUp s = false → exec (.configRequest fn wr off v) s = .next (emit s (.cfgReply fn 1 0))) ∧
    (cfgUp s = true → fnPresent s fn = false → exec (.configRequest fn wr off v) s = .next (emit (aer s 0 6) (.cfgReply fn 2 0))) ∧
    (cfgReaches s fn = true →
      exec (.configRequest fn false off v) s = .next (ok s (cfgRead s fn off)) ∧
      (fn = 0 → exec (.configRequest fn false 0x00 v) s = .next (ok s 0x73601FC7)) ∧
      exec (.configRequest fn false 0x04 v) s = .next (ok s (b1 (fn == 0 && (fnAt s fn).cfg.mse) * 2 + b1 (fnAt s fn).bme * 4 + 0x00100000)) ∧
      (fn = 0 → exec (.configRequest fn false 0x80 v) s = .next (ok s (b1 s.port.aspmL1 * 2 + (5 * 2 ^ 16 + s.sys.linkWidth * 2 ^ 20)))) ∧
      (fn = 0 → ∃ t, exec (.configRequest fn true 0x10 0xFFFFFFFF) s = .next (ok t 0) ∧ cfgRead t 0 0x10 = 0xFF000004) ∧
      (hasBit (v % 2 ^ 32) 2 = false → exec (.configRequest fn true 0x04 v) s =
        .next (ok (modFn (modFn s fn fun f => { f with cfg := { f.cfg with mse := hasBit (v % 2 ^ 32) 1 } }) fn fun f => { f with bme := false }) 0)) ∧
      (hasBit (v % 2 ^ 32) 15 = true → exec (.configRequest fn true 0x78 v) s = .next (ok (functionReset s fn) 0)) ∧
      (v % 2 ^ 32 % 4 = 3 → ∃ t, exec (.configRequest fn true 0x44 v) s = .next (ok t 0) ∧ (fnAt t fn).dState = 3 ∧
        (fnAt t fn).pmeEn = hasBit (v % 2 ^ 32) 8 ∧ (fnAt t fn).pmeStatus = ((fnAt s fn).pmeStatus && !hasBit (v % 2 ^ 32) 15)) ∧
      (hasBit (v % 2 ^ 32) 30 = true → hasBit (v % 2 ^ 32) 31 = false → ∃ t, exec (.configRequest fn true 0x50 v) s = .next (ok t 0) ∧
        (fnAt t fn).fnMask = true ∧ (fnAt t fn).msixEn = false))

/-- Functions come, go and sleep (R126 to R129, R132, R133, R136): VF Enable makes min(NumVFs, 64) VFs appear with the table sizes of their
paddocks, lowering it takes the higher ones away; Bus Master Enable, D3hot, D0 and MSI-X Enable set what they name; on return to D0 the wake
counts are cleared. -/
def Obligations.FunctionsComeAndSleep : Prop :=
  ∀ (s : State) (fn : Nat),
    (∀ k, cfgReaches s 0 = true → s.port.vfEnable = false → s.sys.bootState ≤ 1 →
      ∃ t, exec (.vfEnable k) s = .next t ∧ t.port = { s.port with vfEnable := true, numVfs := min k 64 } ∧
        (∀ n, 1 ≤ n → n ≤ min k 64 → (fnAt t n).present = true ∧ (fnAt t n).vecSize = (match padOfFn s n with | some p => (padRec s p).msixPerVf | none => 1)) ∧
        (∀ n, n = 0 ∨ min k 64 < n → fnAt t n = fnAt s n)) ∧
    (∀ k, cfgReaches s 0 = true → s.port.vfEnable = true → k < s.port.numVfs →
      ∃ t, exec (.vfEnableClear k) s = .next t ∧ t.port.vfEnable = (k != 0) ∧ t.port.numVfs = k ∧ (∀ n, k < n → n < 65 → (fnAt t n).present = false) ∧
        (∀ n, n ≤ k → fnAt t n = fnAt s n) ∧
        (∀ q, k < (qAt s q).fn → (qAt s q).fn < 65 → (fnAt s (qAt s q).fn).present = true → (qAt s q).bx = false → (qAt s q).state ∈ [1, 2, 3, 4] → (qAt t q).state = 5)) ∧
    (cfgReaches s fn = true →
      (∃ t, exec (.busMasterEnableSet fn) s = .next t ∧ (fnAt t fn).bme = true) ∧
      exec (.d3hotEntry fn) s = .next (modFn s fn fun f => { f with dState := 3 }) ∧
      (∃ t, exec (.d0Return fn) s = .next t ∧ (fnAt t fn).dState = 0 ∧
        ((fnAt s fn).dState ≠ 0 → s.sys.perstN = true → ∀ v, (vecAt t fn v).wakeCount = 0 ∧ (vecAt t fn v).wakeTimer = false ∧ (vecAt t fn v).wakeEvent = false)) ∧
      (∃ t, exec (.msixEnableSet fn) s = .next t ∧ (fnAt t fn).msixEn = true))

/-- Interrupt messages (R131, R132, R134, R136, Table 06.9): unmasking sends what the PBA holds; a moderation write sets count and time, and sends
at once what already meets them; an expired timer sends, or sets the PBA bit of a masked vector; an expired wake count in D3hot raises
PM_PME for an event with wake 1. A write of another size than 4 or 8 bytes is counted. -/
def Obligations.InterruptMessages : Prop :=
  ∀ (s : State) (fn v : Nat),
    let sent := fun (t : State) => t.out = s.out ++ [.msix fn v] ∧ (vecAt t fn v).pending = 0 ∧ (vecAt t fn v).timerRun = false ∧ (vecAt t fn v).pba = false
    (regsUp s fn = true → (padOfFn s fn).isSome = true → v < vecTable s fn → (fnAt s fn).fnMask = false → ∃ t, exec (.vectorUnmask fn (some v)) s = .next t ∧ (vecAt t fn v).mask = false ∧
      (smWf {} (fnAt s fn).vecs = true → (∀ w, w ≠ v → (vecAt s fn w).pba = false) → (vecAt s fn v).pba = true → (fnAt s fn).msixEn = true → mayIssue s fn = true → sent t)) ∧
    (cfgReaches s fn = true → ∃ t, exec (.vectorUnmask fn none) s = .next t ∧ (fnAt t fn).fnMask = false) ∧
    (∀ (x : W64) (size : Nat) (p : Nat), HostAt s fn p → v < vecTable s fn → size = 4 ∨ size = 8 →
      let m := modVec s fn v fun y => { y with cntMax := bits x.toNat 0 11, timeUs := bits x.toNat 16 10 }
      (thresholdMet m (vecAt m fn v) = false → exec (.hiVecModWrite fn v x size) s = .next m) ∧
      (thresholdMet m (vecAt m fn v) = true → MayInterrupt s fn v → ∃ t, exec (.hiVecModWrite fn v x size) s = .next t ∧ sent t ∧
        (vecAt t fn v).cntMax = bits x.toNat 0 11)) ∧
    (∀ (x : W64) (size : Nat) (p : Nat), HostAt s fn p → v < vecTable s fn → size ≠ 4 → size ≠ 8 → exec (.hiVecModWrite fn v x size) s = .next (deny s fn)) ∧
    ((vecAt s fn v).timerRun = true → MayInterrupt s fn v → ∃ t, exec (.vectorTimerExpiry fn v) s = .next t ∧ sent t) ∧
    ((vecAt s fn v).timerRun = true → (fnAt s fn).msixEn = true → (vecAt s fn v).mask = true →
      exec (.vectorTimerExpiry fn v) s = .next (modVec s fn v fun x => { x with pba := true, due := false })) ∧
    ((vecAt s fn v).wakeTimer = true → (fnAt s fn).dState ≠ 0 → s.sys.perstN = true → (vecAt s fn v).wakeEvent = true → (fnAt s fn).pmeEn = true →
      ∃ t, exec (.wakeCountExpiry fn v) s = .next t ∧ t.out = s.out ++ [.pme fn] ∧ (fnAt t fn).pmeStatus = true ∧ (vecAt t fn v).wakeCount = 0 ∧
        (vecAt t fn v).wakeEvent = false) ∧
    (∀ sub clk, s.port.linkUp = true → s.port.aspmL1 = true → exec (.aspmL1Entry sub clk) s = .next { s with port := { s.port with linkState :=
      if sub = 2 ∧ s.port.aspmL12 = true ∧ clk = true then 3 else if 1 ≤ sub ∧ s.port.aspmL11 = true ∧ clk = true then 2 else 1 } })

/-- Accesses of BAR0, BAR2 and BAR4 (R7, R8, R120, R122, R124, R138, R410 to R412, R492, R493): registers read and written by whole or half,
a misaligned size and a register no one names changing nothing; no register of another paddock's core; a multi-word register latched by the read of its first word; accesses not
allowed counted, reading 0; memory windows and feed windows of BAR4; poisoned writes, and, once it is checked, writes with an ECRC error, dropped with the paddock's digest state. -/
def Obligations.BarAccesses : Prop :=
  ∀ (s : State) (fn p : Nat), HostAt s fn p →
    (∀ off size v, regAligned off size = false → exec (.registerWrite fn off size v) s = .next s) ∧
    (∀ v : W64, exec (.registerWrite fn 0x8008 8 v) s = .next (modFn s fn fun f => { f with qcRing := v.toNat })) ∧
    (∀ v : W64, exec (.registerWrite fn 0x8008 4 v) s = .next (modFn s fn fun f => { f with qcRing := f.qcRing % 2 ^ 64 / 2 ^ 32 * 2 ^ 32 + v.toNat % 2 ^ 32 })) ∧
    (∀ v : W64, exec (.registerWrite fn 0x1008 8 v) s = .next (modFn s fn fun f =>
      { f with errTimeout := f.errTimeout && !hasBit v.toNat 0, errUrCa := f.errUrCa && !hasBit v.toNat 1, errPoisoned := f.errPoisoned && !hasBit v.toNat 2 })) ∧
    (∀ (v : W64) (k : Nat), k < 16 → padOfCore s k ≠ some p → (∃ t, exec (.registerWrite fn (0x2000 + 8 * (32 + k)) 8 v) s = .next t ∧ (fnAt t fn).evMap = (fnAt s fn).evMap) ∧
      exec (.multiwordRead fn (0x2000 + 8 * (32 + k)) 8) s = .next (reply s fn (zeros 8))) ∧
    (∀ v : W64, fn ≠ 0 → ∃ t, exec (.registerWrite fn 0x100008 8 v) s = .next t ∧ t.sys = s.sys ∧ t.pl = s.pl) ∧
    (∀ v : W64, fn = 0 → ∃ t, exec (.registerWrite fn 0x100008 8 v) s = .next t ∧ t.sys.causeCold = (s.sys.causeCold && !hasBit v.toNat 0) ∧
      t.sys.paddockResets = s.sys.paddockResets &&& ((2 ^ 32 - 1) ^^^ bits v.toNat 16 32)) ∧
    (∀ v : W64, exec (.registerWrite fn 0x8000 4 v) s = .next (deny s fn)) ∧
    (exec (.multiwordRead fn 0x8008 8) s = .next (reply s fn (leBytes 8 (fnAt s fn).qcRing))) ∧
    (exec (.multiwordRead fn 0x800C 4) s = .next (reply s fn (leBytes 4 (bits (fnAt s fn).qcRing 32 32)))) ∧
    (exec (.multiwordRead fn 0x0008 8) s = .next (reply s fn (leBytes 8 s.time))) ∧
    (fn ≠ 0 → exec (.multiwordRead fn 0x120010 8) s = .next (reply s fn (zeros 8))) ∧
    (∀ r < 8, ∃ t, exec (.multiwordRead fn (0xA000 + 64 * r) 8) s = .next t ∧
      t.out = s.out ++ [.barReply fn (leBytes 8 (word64 (smGet {} (padAt s p).results r).data 0))] ∧
      ∀ w, 1 ≤ w → w < 8 → readLatched t fn (0xA000 + 64 * r + 8 * w) = word64 (smGet {} (padAt s p).results r).data w) ∧
    (∀ bar off size wr, accessInvalid s fn bar off size wr = true →
      exec (.barAccessInvalid fn bar off size wr) s = .next (if wr = true then deny s fn else reply (deny s fn) fn (zeros size))) ∧
    (∀ off size, accessInvalid s fn 2 off size false = false → exec (.barAccessInvalid fn 2 off size false) s = .next (reply s fn (zeros size))) ∧
    (∀ n a d, hasBit (padRec s p).coreMap n = true → n < 16 → a < 2 ^ 20 → memWindow s n a d.length true = true →
      (memWrite .host tBytes (d.length + 1) (coreAt s n).mem a d).2 = 0 →
      exec (.bar4WindowAccess fn (n * 2 ^ 20 + a) true d 0) s = .next (modCore s n fun c => { c with mem := (memWrite .host tBytes (d.length + 1) c.mem a d).1 })) ∧
    (∀ n a len, hasBit (padRec s p).coreMap n = true → n < 16 → a < 2 ^ 20 → memWindow s n a len false = true →
      exec (.bar4WindowAccess fn (n * 2 ^ 20 + a) false [] len) s = .next (reply s fn (memReadHost (coreAt s n).mem a len))) ∧
    (∀ off len, inWindow s fn off len false = false → exec (.bar4WindowAccess fn off false [] len) s = .next (reply (deny s fn) fn (zeros len))) ∧
    (∀ f d, f < 16 → feedWindow s p f true = true → 0 < d.length → d.length ≤ 8 → (feedAt s (p * 16 + f)).entries.length < 2048 →
      (exec (.feedWindowWrite fn ((16 + f) * 2 ^ 20) d) s = .next (modFeed s (p * 16 + f) fun x => pushFeed x [{ data := d, eop := false, tag := tBytes }]) ∧
       exec (.feedWindowWrite fn ((16 + f) * 2 ^ 20 + 0x80000) d) s = .next (modFeed s (p * 16 + f) fun x => pushFeed x [{ data := d, eop := true, tag := tBytes }]))) ∧
    (∀ f d, f < 16 → feedWindow s p f true = true → 0 < d.length → d.length ≤ 8 → 2048 ≤ (feedAt s (p * 16 + f)).entries.length →
      exec (.feedWindowWrite fn ((16 + f) * 2 ^ 20) d) s = .next (deny s fn)) ∧
    (∀ ecrc, (ecrc = true → (fnAt s fn).cfg.ecrcChk = true) → ∃ t, exec (.poisonedWrite fn ecrc) s = .next t ∧
      (aerMasked (fnAt s fn).cfg (if ecrc then 5 else 4) = false → t.out = s.out ++ [.aer fn (if ecrc then 5 else 4)]) ∧ (fnAt t fn).errPoisoned = ((fnAt s fn).errPoisoned || !ecrc) ∧ (padAt t p).results = [] ∧ (padAt t p).mrs = (padAt s p).mrs ∧
      (fn < 65 → (fnAt t fn).cmpEq = 0#32))

/-- A read of host memory that fails (R126, R133, R138): the first failure is logged in AER, and the read tried again once the function may issue a
request; the second is noted in HI_FN_ERR, and halts the queue's fetch at that entry, ends the job ST_DEVICE_FAULT detail 0x01 (an issued record
goes on retrying, R191), or ends the load with cmd_err 4. A poisoned completion is noted at once. -/
def Obligations.FailedHostReads : Prop :=
  ∀ (s : State) (q kind : Nat), Calm s → s.en.flushActive = false →
    let x := qAt s q
    let fn := x.fn
    let i := nextFetch x
    (x.state = 1 → x.bx = false → x.fetchFailed = none → x.copies.length < dist x.k x.a x.p →
      (x.fetchTried ≠ some i → ∃ t, exec (.hostReadFail q none none kind) s = .next t ∧ qAt t q = { x with fetchTried := some i } ∧
        (2 ≤ kind → (fnAt t fn).errPoisoned = true) ∧
        (aerMasked (fnAt s fn).cfg (aerOf kind) = false → t.out = s.out ++ [.aer fn (aerOf kind)] ++ (if mayIssue s fn then [.readRequest fn (entryAddr x i) 128] else []))) ∧
      (x.fetchTried = some i → ∃ t, exec (.hostReadFail q none none kind) s = .next t ∧ qAt t q = { x with fetchTried := none, fetchFailed := some i } ∧
        (aerMasked (fnAt s fn).cfg (aerOf kind) = false → t.out = s.out ++ [.aer fn (aerOf kind)]) ∧ (fnAt t fn).errQueue = q ∧ (fnAt t fn).errJob = false ∧
        (kind = 0 → (fnAt t fn).errTimeout = true) ∧ (kind = 1 → (fnAt t fn).errUrCa = true) ∧ (2 ≤ kind → (fnAt t fn).errPoisoned = true))) ∧
    (∀ seq j, jobOf s seq = some j → j.queue = q → j.bx = false → j.fixed = 0 → j.phase = .running ∨ j.phase = .staged → j.retrying = false →
      (j.readFailed = false → exec (.hostReadFail q (some seq) none kind) s =
        .next (retryRead (modJob (readFails s fn kind) seq fun y => { y with readFailed := true }) fn j.desc.in0Addr j.desc.in0Len)) ∧
      (j.readFailed = true → j.issued = true → ∃ t, exec (.hostReadFail q (some seq) none kind) s = .next t ∧ jobOf t seq = some { j with retrying := true } ∧
        (fnAt t fn).errJob = true) ∧
      (j.readFailed = true → j.issued = false → ∃ t k, exec (.hostReadFail q (some seq) none kind) s = .next t ∧ jobOf t seq = some k ∧
        k.phase = .finished ∧ k.status = 0x0C01 ∧ k.out0 = none ∧ k.out1 = none ∧ (fnAt t fn).errJob = true ∧ (fnAt t fn).errQueue = q)) ∧
    (∀ n o, (coreAt s n).loading = some o → o.source ≠ 2 → (coreAt s n).state ≠ 0 →
      (o.tried = false → exec (.hostReadFail q none (some n) kind) s =
        .next (modCore (readFails s o.sender kind) n fun c => { c with loading := some { o with tried := true } })) ∧
      (o.tried = true → ∃ t, exec (.hostReadFail q none (some n) kind) s = .next t ∧ (coreAt t n).state = 0 ∧ (coreAt t n).loading = none ∧
        (coreAt t n).cmdErr = 4))

/-- A doorbell write (R122, R145, R146, Table 07.3): on a RUNNING queue a valid value becomes P and an invalid one halts it ST_RING_OVERRUN
with the detail of R146; on a HALTED queue a valid one becomes P and an invalid one is counted; HELD and standby queues record
it, a PENDING_ENABLE queue keeps it for its ENABLE, also while HELD; a DISABLED or DRAINING queue, or one of another function, counts it. In deep sleep it is
recorded (R55). -/
def Obligations.DoorbellMovesP : Prop :=
  ∀ (s : State) (fn p q off size : Nat) (value : W64),
    let x := qAt s q
    let v := if size = 4 then value.toNat % 2 ^ 32 else value.toNat
    let moved := journalWrite (modQ s q fun y => { y with p := v })
    (s.sys.deepSleep = true → exec (.doorbellWrite fn off size value) s =
      .next { s with port := { s.port with doorbells := s.port.doorbells ++ [(fn, off, size, v)] } }) ∧
    (HostAt s fn p → size = 4 ∨ size = 8 → off % 8 = 0 → bellQueue s fn off = some q →
      (x.bx = false → x.fn = fn →
        (x.standby = false → x.state = 1 → BellValid x v → exec (.doorbellWrite fn off size value) s = .next moved) ∧
        (x.standby = false → x.state = 1 → ¬BellValid x v → ∃ t, exec (.doorbellWrite fn off size value) s = .next t ∧ (qAt t q).state = 2 ∧
          (qAt t q).errReason = 0x81 ∧
          (qAt t q).errDetail = (if 2 ^ (x.k + 1) ≤ v then 2 else if 2 ^ x.k < dist x.k x.t v then 1 else 3) ∧ (qAt t q).errIndex = v % 2 ^ 17 ∧
          (qAt t q).p = x.p ∧ (qAt t q).copies = [] ∧ t.jobs = s.jobs) ∧
        (x.standby = false → x.state = 2 → BellValid x v → exec (.doorbellWrite fn off size value) s = .next moved) ∧
        (x.standby = false → x.state = 2 → ¬BellValid x v → exec (.doorbellWrite fn off size value) s = .next (deny s fn)) ∧
        (x.standby = false → x.state = 5 → x.remembered ≠ 4 → exec (.doorbellWrite fn off size value) s = .next (modQ s q fun y => { y with heldBell := some v })) ∧
        (x.standby = true → x.state = 1 ∨ x.state = 2 ∨ (x.state = 5 ∧ x.remembered ≠ 4) →
          exec (.doorbellWrite fn off size value) s = .next (modQ s q fun y => { y with recordedP := some (v % 2 ^ 17) }))) ∧
      (x.state = 5 → x.remembered = 4 → (x.pend.any fun e => e.fn == fn) = true →
        exec (.doorbellWrite fn off size value) s = .next (modQ s q fun y => { y with heldBell := some v })) ∧
      (∀ e, x.state = 4 → x.pend = some e → e.fn = fn →
        exec (.doorbellWrite fn off size value) s = .next (modQ s q fun y => { y with pend := some { e with doorbell := some v } })) ∧
      (x.state = 0 ∨ x.state = 3 ∨ (x.state ≠ 4 ∧ ¬(x.state = 5 ∧ x.remembered = 4) ∧ (x.bx = true ∨ x.fn ≠ fn)) ∨
        ((x.state = 4 ∨ (x.state = 5 ∧ x.remembered = 4)) ∧ ∀ e, x.pend = some e → e.fn ≠ fn) →
        exec (.doorbellWrite fn off size value) s = .next (deny s fn)))

/-- Descriptor copies and the gate (R11, R12, R143, R151, R164, R168 to R172): the copy next in index order, between A and P and at most 64 ahead,
is kept, and no other; an evaluation
of a head that cannot be read or fails the form and plan check halts the queue with ST_DESC_INVALID and its detail, accepting nothing; one
that fails entropy, limit or energy defers it, code 3, 2 or 1; one that passes, and one whose key checks fail with a status, has its record
composed and written, in the state of that one step. -/
def Obligations.GateEvaluatesInOrder : Prop :=
  (∀ (s : State) (q i : Nat) (d : List Byte), let x := qAt s q
    (x.state = 1 → x.bx = false → mayIssue s x.fn = true → x.standby = false → x.copies.length < dist x.k x.a x.p → x.copies.length < 64 →
      x.fetchFailed = none → i = (x.a + x.copies.length) % 2 ^ (x.k + 1) →
      exec (.descriptorFetchDone q i d) s = .next (modQ s q fun y => { y with fetchTried := none, copies := y.copies ++ [(i, d)] })) ∧
    (i ≠ (x.a + x.copies.length) % 2 ^ (x.k + 1) → exec (.descriptorFetchDone q i d) s = .next s)) ∧
  ∀ (s u : State) (q p : Nat) (c : Instr), EvaluatesAt c s u q → padOfQueue s q = some p →
    let x := qAt s q
    let halted := fun (detail : Nat) => ∃ t, exec c s = .next t ∧ (qAt t q).state = 2 ∧ (qAt t q).errReason = 0x80 ∧ (qAt t q).errDetail = detail ∧
      (qAt t q).errIndex = x.a ∧ (qAt t q).a = x.a ∧ t.jobs = s.jobs
    let deferred := fun (code : Nat) => ∃ t, exec c s = .next t ∧ (qAt t q).defer = code ∧ (qAt t q).headDeferred = true ∧ (qAt t q).a = x.a ∧ t.jobs = s.jobs
    (x.fetchFailed = some x.a → halted 1) ∧
    (∀ b, x.fetchFailed ≠ some x.a → (x.copies.find? fun k => k.1 == x.a) = some (x.a, b) →
      let d := parseDesc b
      let alg := (algOf d).getD 0
      let key := gateKey u d alg p x.bx
      let wants := key == 0 && needsRandom d alg
      let fixed := if wants && s.rng.stopped then 0x0800 else key
      let record := fun (extra : Option Nat) (wait : Bool) =>
        ({ queue := q, index := x.a, gen := x.gen, paddock := p, bx := x.bx, desc := d,
           capGen := if wants && fixed == 0 then servingGen u p else none, fixed := fixed, deferred := x.headDeferred,
           extra := extra, phase := .writing, waitKey := wait } : Job)
      (formCheck u x p b ≠ 0 → halted (formCheck u x p b)) ∧
      (formCheck u x p b = 0 →
        (wants = true → s.rng.stopped = false → s.rng.ready = false ∨ servingGen u p = none → deferred 3) ∧
        ((wants = true → s.rng.stopped = true ∨ (s.rng.ready = true ∧ servingGen u p ≠ none)) →
          (limitPasses u p = false → deferred 2) ∧
          (limitPasses u p = true → fixed ≠ 0 → energyPasses u = false → deferred 1) ∧
          (limitPasses u p = true → fixed ≠ 0 → energyPasses u = true → ∃ t, exec c s = .next t ∧ t.jobs = s.jobs ++ [record none false] ∧
            (qAt t q).defer = 0 ∧ (qAt t q).a = x.a) ∧
          (∀ extra wait v, limitPasses u p = true → fixed = 0 → reserve u d alg p = .taken extra wait v → energyPasses u = true → v.jobs = s.jobs → qAt v q = x →
            ∃ t, exec c s = .next t ∧ t.jobs = s.jobs ++ [record extra wait] ∧ (qAt t q).defer = 0 ∧ (qAt t q).a = x.a))))

/-- ACCEPT (R14, R27, R164, R167, R196): the record whose writes have ended becomes live under the next accept_seq and the time base, which
then rises; A passes its entry; a record with a fixed status is finished at once. A mirrored part sends the record to its partner instead.
A record that cannot be written leaves its entry where it is and FK_JOURNAL_UE holding the gate. A fenced side accepts nothing (R198). -/
def Obligations.AcceptanceIsTheJournalWrite : Prop :=
  ∀ (s : State) (q : Nat) (j : Job), Calm s → s.en.flushActive = false → j ∈ s.jobs → j.queue = q → j.phase = .writing → j.sent = false → j.issued = false →
    (∀ k ∈ s.jobs, k.queue = q → k.phase = .writing → k = j) →
    (s.jn.role = 3 → ∀ w, exec (.gateAccept q w) s = .next s) ∧
    (s.jn.role ≠ 1 → s.jn.role ≠ 3 → ∃ t, exec (.gateAccept q true) s = .next t ∧ t.jn.nextSeq = s.jn.nextSeq + seqStep s ∧ t.time = s.time + 1 ∧
      (qAt t q).a = nextIdx (qAt s q).k (qAt s q).a ∧ (∀ k ∈ t.jobs, k.queue = q → k.phase ≠ .writing) ∧
      ∃ k ∈ t.jobs, k.seq = s.jn.nextSeq ∧ k.tAccept = s.time ∧ k.queue = q ∧ k.index = j.index ∧ k.desc = j.desc ∧ k.phase ≠ .writing ∧
        (j.fixed ≠ 0 → k.phase = .finished ∧ k.status = j.fixed ∧ k.stallId = 0xFFFF ∧ k.tDone = s.time + 1)) ∧
    (s.jn.role = 1 → ∃ t, exec (.gateAccept q true) s = .next t ∧ (qAt t q).a = (qAt s q).a ∧ t.jn.nextSeq = s.jn.nextSeq + seqStep s ∧
      t.out = s.out ++ [.tether 0x01 s.tt.txSeq
        (recordFrame s { j with seq := s.jn.nextSeq, tAccept := s.time, extra := extraOf s j, keyWord := parentAttrs s j.desc j.paddock })]) ∧
    (FaultsClear s → s.jn.role ≠ 3 → ∃ t, exec (.gateAccept q false) s = .next t ∧ (qAt t q).a = (qAt s q).a ∧ t.jn.nextSeq = s.jn.nextSeq ∧
      (∀ k ∈ t.jobs, k.queue = q → k.phase ≠ .writing) ∧ fatalHolds t = true ∧ (∃ b < 2, (findOut t.fc (0x80 + b) 0x13).isSome = true))

/-- Queue commands (R80, R159 to R163, Tables 07.11 to 07.14): result and state of ENABLE, DISABLE, CONTINUE, RESUME and FORGET through the
queue's function; a queue of another paddock answers 1, a state that does not allow the command or another function 2, an invalid staged
configuration 3, a function that may not master 4. -/
def Obligations.QueueCommands : Prop :=
  ∀ (s : State) (fn p : Nat) (v : W64), HostAt s fn p → (fnAt s fn).cmdBusy = false →
    let q := bits v.toNat 0 16
    let x := qAt s q
    let f := fnAt s fn
    let idx := bits v.toNat 20 17
    let answered := fun (t : State) (cmd r : Nat) => (fnAt t fn).cmdQueue = q ∧ (fnAt t fn).cmdCmd = cmd ∧ (fnAt t fn).cmdResult = r
    (padOfQueue s q ≠ some p → exec (.qEnable fn v) s = .next (setResult s fn q 1 1) ∧ exec (.qContinue fn v) s = .next (setResult s fn q 3 1) ∧
      exec (.qResume fn v) s = .next (setResult s fn q 4 1)) ∧
    (padOfQueue s q = some p → x.bx = false →
      (x.state = 0 → stagedOk s fn idx = true → ∃ t, exec (.qEnable fn v) s = .next t ∧ answered t 1 0 ∧ (qAt t q).state = 1 ∧ (qAt t q).base = f.qcRing ∧
        (qAt t q).k = f.qcLog2 ∧ (qAt t q).vector = f.qcVector ∧ (qAt t q).wake = f.qcWake ∧ (qAt t q).crcReq = f.qcCrcReq ∧ (qAt t q).irqEn = f.qcIrqEn ∧
        (qAt t q).fn = fn ∧ (qAt t q).p = idx ∧ (qAt t q).a = idx ∧ (qAt t q).t = idx ∧ (qAt t q).gen = (x.gen + 1) % 65536) ∧
      (x.state = 3 → stagedOk s fn idx = true → ∃ t, exec (.qEnable fn v) s = .next t ∧ answered t 1 0 ∧ (qAt t q).state = 4 ∧
        (qAt t q).pend = some (snapshotOf s fn idx)) ∧
      (x.state = 0 ∨ x.state = 3 → stagedOk s fn idx = false → exec (.qEnable fn v) s = .next (setResult s fn q 1 3)) ∧
      (x.state ≠ 0 → x.state ≠ 3 → exec (.qEnable fn v) s = .next (setResult s fn q 1 2)) ∧
      (x.state = 1 ∨ x.state = 2 → x.fn = fn → ∃ t, exec (.qDisable fn v) s = .next t ∧ answered t 2 0 ∧ (qAt t q).state = 3 ∧ (qAt t q).copies = []) ∧
      (x.state = 2 → x.fn = fn → ∃ t, exec (.qContinue fn v) s = .next t ∧ answered t 3 0 ∧ (qAt t q).state = 1 ∧ (qAt t q).errReason = 0 ∧ (qAt t q).copies = [] ∧
        (qAt t q).a = x.a) ∧
      (x.state ≠ 2 ∨ x.fn ≠ fn → exec (.qContinue fn v) s = .next (setResult s fn q 3 2)) ∧
      (x.state = 5 → x.fn = fn → x.forgetting = false → f.bme = false → exec (.qResume fn v) s = .next (setResult s fn q 4 4)) ∧
      (x.state = 5 → x.fn = fn → x.forgetting = false → f.bme = true → x.heldBell = none → x.remembered = 1 ∨ x.remembered = 2 → ∃ t, exec (.qResume fn v) s = .next t ∧
        answered t 4 0 ∧ (qAt t q).state = x.remembered ∧ (qAt t q).remembered = 0) ∧
      (x.state = 5 → x.fn = fn → x.forgetting = true → exec (.qResume fn v) s = .next (setResult s fn q 4 2)) ∧
      (x.state = 5 → x.fn = fn → x.forgetting = false → f.bme = true → smWf {} s.queues = true → s.jn.role ≠ 1 → s.jn.role ≠ 3 → s.jn.shutdownDone = false →
        (∀ j ∈ s.jobs, j.queue = q → j.phase ≠ .writing ∧ j.sent = false) → ((queueJobs s q).map (·.seq)).Nodup →
        x.t < 2 ^ (x.k + 1) → x.a = (x.t + (queueJobs s q).length) % 2 ^ (x.k + 1) → ∃ t, exec (.qForget fn v) s = .next t ∧
        answered t 5 0 ∧ (qAt t q).state = 0 ∧ (qAt t q).forgotten = satAdd 0xFFFFFFFF x.forgotten (queueJobs s q).length ∧ (∀ j ∈ t.jobs, j.queue ≠ q)))

/-- Queues in operation (R14, R125, R152, R153, R160, R161, R163, R295, R296, R363): the completion of the reorder list's head is issued as its
outputs, bytes 0x04 to 0x3F, the word and the confirming read, in that order, a digest taking effect with it, or is held where the queue may
not write; the oldest record whose confirming read returned retires and T passes it; a drained queue is disabled, or switches to its pending
ENABLE; reading the halt log returns and removes its oldest entry. -/
def Obligations.CompletionRetirementAndDrain : Prop :=
  ∀ (s : State) (q : Nat), let x := qAt s q
    (∀ j, reorderHead s q = some j → jobOf s j.seq = some j → j.queue = q → j.phase = .finished → j.waitHayloft = false →
      (mayWrite s q = true → x.bx = false → j.bx = false → ∃ t k more, exec (.completionWrite q) s = .next t ∧ jobOf t j.seq = some k ∧ k.phase = .issued ∧ k.issued = true ∧
        t.out = s.out ++ outputWrites x.fn j ++ [.memWrite x.fn (entryAddr x j.index + 4) (cplRest j), .memWrite x.fn (entryAddr x j.index) (cplWord x.k j),
          .confirmRead x.fn (entryAddr x j.index) (if !(fnAt s x.fn).relaxed && (fnAt s x.fn).idOrder then 4 else 0)] ++ more ∧
        (j.issued = false → j.desc.opcode = 0x0500 → j.status = 0 → inl8 j.desc 0x40 = 1 →
          (smGet {} (padAt t j.paddock).results (inl8 j.desc 0x41)).data = j.digest ∧ (smGet {} (padAt t j.paddock).results (inl8 j.desc 0x41)).valid = true) ∧
        (j.issued = false → j.desc.opcode = 0x0500 → j.status = 0 → inl8 j.desc 0x40 = 2 → smGet (zeros 48) (padAt t j.paddock).mrs (inl8 j.desc 0x41) =
          sha3_384 (smGet (zeros 48) (padAt s j.paddock).mrs (inl8 j.desc 0x41) ++ j.digest))) ∧
      (mayWrite s q = false → frozen s = false → Calm s → j.heldCpl = false → fnSleeps s x.fn = false →
        exec (.completionWrite q) s = .next (modJob s j.seq fun y => { y with heldCpl := true }))) ∧
    (∀ j, (queueJobs s q).head? = some j → j.phase = .issued → j.sent = false → frozen s = false → smWf {} s.queues = true →
      (s.jn.role ≠ 1 → s.jn.role ≠ 3 → (∀ k ∈ queueJobs s q, k.silent = false) → ∃ t, exec (.recordRetire q) s = .next t ∧ (qAt t q).t = nextIdx x.k x.t ∧
        (∀ k ∈ t.jobs, isLive k = true → k.seq ≠ j.seq) ∧ (∀ k ∈ s.jobs, k.seq ≠ j.seq → k ∈ t.jobs)) ∧
      (s.jn.role = 1 → Calm s → ∃ t, exec (.recordRetire q) s = .next t ∧ (qAt t q).t = x.t ∧
        t.out = s.out ++ [.tether 0x02 s.tt.txSeq [j.seq, q, nextIdx x.k x.t]])) ∧
    (x.state = 3 → x.t = x.a → (∀ j ∈ s.jobs, j.queue ≠ q) → ∃ t, exec (.queueDrainComplete q) s = .next t ∧ (qAt t q).state = 0 ∧ (qAt t q).gen = x.gen ∧
      (qAt t q).forgotten = x.forgotten ∧ (qAt t q).base = 0) ∧
    (∀ e, x.state = 4 → x.pend = some e → x.t = x.a → (∀ j ∈ s.jobs, j.queue ≠ q) → ∃ t, exec (.pendingEnableSwitch q) s = .next t ∧
      (qAt t q).base = e.base ∧ (qAt t q).k = e.k ∧ (qAt t q).fn = e.fn ∧ (qAt t q).a = e.index ∧ (qAt t q).t = e.index ∧ (qAt t q).gen = (x.gen + 1) % 65536 ∧
      (BellValid { k := e.k, t := e.index, p := e.index } (e.doorbell.getD e.index) → (qAt t q).state = 1 ∧ (qAt t q).p = e.doorbell.getD e.index) ∧
      (¬BellValid { k := e.k, t := e.index, p := e.index } (e.doorbell.getD e.index) → (qAt t q).state = 2 ∧ (qAt t q).errReason = 0x81)) ∧
    (∀ fn p, HostAt s fn p →
      (∀ e r, (padAt s p).haltLog = e :: r → exec (.haltLogRead fn) s = .next (reply (modPad s p fun y => { y with haltLog := r }) fn
        (leBytes 8 (e.1 + e.2 * 2 ^ 16 + 2 ^ 24 + b1 (padAt s p).haltOverflow * 2 ^ 25)))) ∧
      ((padAt s p).haltLog = [] → exec (.haltLogRead fn) s = .next (reply s fn (leBytes 8 (b1 (padAt s p).haltOverflow * 2 ^ 25)))))

/-- The dispatcher (R16, R53, R240, R269, R287, R303, R304, R353, R357 to R360): a stall that may be given a job starts it, its shed ON again, unless
another paddock's job ran there last, which a muck-out clears first, or the paddock has no cells for it, which it waits for; a free hash stall
without a job computes a stateful key's next tree; a waiting low-prio job is promoted; the
preference of a pool stall for its last paddock ends; a yield of PKE, digest or McEliece jobs is asked of a running stall for the first
waiting job it may serve. -/
def Obligations.DispatchPromotesAndYields : Prop :=
  ∀ (s : State) (n : Nat),
    (∀ j, dispatchRuns s = true → n < 52 → nextJob s n = some j → jobOf s j.seq = some j →
      (cellsFit s j = true → entryValid s n j.desc = true → ¬((stAt s n).state = 1 ∧ muckBefore (stAt s n) j = true) → ∃ t k, exec (.dispatch n) s = .next t ∧ jobOf t j.seq = some k ∧
        k.phase = .running ∧ k.stall = some n ∧ k.stallId = stallId n ∧ k.dispatched = true ∧ k.cells = j.cells + cellsNeeded s j ∧
        (stAt t n).state = 2 ∧ (stAt t n).jobs = (stAt s n).jobs ++ [j.seq] ∧ (stAt t n).lastPaddock = j.paddock ∧ (stAt t n).dirty = true ∧
        ((stAt s n).state = 1 → shedAt t (stallShed n) = 2) ∧ (∀ m, m ≠ n → stAt t m = stAt s m)) ∧
      (cellsFit s j = true → (stAt s n).state = 1 → muckBefore (stAt s n) j = true → ∃ t, exec (.dispatch n) s = .next t ∧ (stAt t n).state = 3 ∧
        (stAt t n).reservedFor = some j.seq ∧ t.jobs = s.jobs) ∧
      (cellsFit s j = false → ∃ t, exec (.dispatch n) s = .next t ∧ (padAt t j.paddock).waitFor.isSome = true ∧ t.jobs = s.jobs ∧ t.stalls = s.stalls)) ∧
    (∀ k, dispatchRuns s = true → n < 52 → nextJob s n = none → (stAt s n).reservedFor = none → treeFor s n = some k → (stAt s n).muckAtWake = false →
      (stAt s n).dirty = false ∨ (stAt s n).lastPaddock = (hbsAt s k).paddock →
      ∃ t, exec (.dispatch n) s = .next t ∧ (stAt t n).state = 2 ∧ (stAt t n).tree = some k ∧ (stAt t n).dirty = true ∧ t.jobs = s.jobs) ∧
    (∀ seq j, jobOf s seq = some j → ∃ t, exec (.lowPrioPromote seq) s = .next t ∧
      jobOf t seq = some (if j.phase = .staged ∧ bits j.desc.flags 1 2 = 2 then { j with promoted := true } else j)) ∧
    ((stAt s n).inPool = true → (∃ j ∈ waitingFor s n, j.paddock ≠ (stAt s n).lastPaddock) →
      exec (.poolPreferenceExpiry n) s = .next (modSt s n fun x => { x with prefEnded := true })) ∧
    (∀ r ∈ ([(3, .pkeYieldRequest n, fun _ _ => true), (2, .digestYieldRequest n, fun r _ => isDigest r.desc),
        (4, .mceYieldRequest n, fun r w => r.desc.opcode == 0x0300 && decide (w.desc.opcode ∈ [0x0301, 0x0302, 0x0311, 0x0312]))] :
        List (Nat × Instr × (Job → Job → Bool))),
      let running := (stAt s n).jobs.filterMap (jobOf s)
      let fits := fun (w : Job) => running.all fun x => decide (prioRank w ≤ prioRank x) && r.2.2 x w
      ∀ w, stallKind n = r.1 → (stAt s n).state = 2 → running ≠ [] → firstJob ((waitingFor s n).filter fits) = some w →
        exec r.2.1 s = .next (modSt s n fun x => { x with reqYield := true, reservedFor := some w.seq }))

/-- Safe points, muck-outs, the farrier and the local sources (R221, R233, R268, R286, R304, R354 to R356, R371 to R373, R424, R453 to R455): at a
safe point, which only a routine that has them reaches before its output write, the pending requests are served, fault first, then stop, then
claim and yield, and a move saves a context; a clean muck-out leads on, and a second dirty one retires the stall; a
claimed stall is mucked out, tested, and mucked out again or retired; a source is reseeded from the store or ratchets. -/
def Obligations.StallsServeRequestsAndAreTested : Prop :=
  ∀ (s : State) (n : Nat), Calm s → s.en.flushActive = false →
    let x := stAt s n
    let mine := fun (j : Job) => isLive j && x.jobs.contains j.seq
    (∀ cm ck op pos, atSafePoint s n op = true →
      let mark := markedJob cm ck op pos
      (x.reqFault = false → x.reqStop = false → x.reqClaim = false → x.reqYield = false →
        exec (.stallSafePoint n cm ck op pos) s = .next (setJobs s (s.jobs.map fun j => if mine j then mark j else j))) ∧
      (x.reqFault = true ∨ x.reqClaim = true ∨ x.reqYield = true → (∀ j ∈ s.jobs, mine j = true → j.stopReq = false) →
        let c : Context := { resumeAt := x.sequ.upc, position := pos, maskDraw := s.freeCtr }
        ∃ t, exec (.stallSafePoint n cm ck op pos) s = .next t ∧ t.jobs = (s.jobs.map fun j => if mine j then moveJob c (mark j) else j) ∧
          (stAt t n).state = 3 ∧ (stAt t n).jobs = [] ∧ (stAt t n).reqClaim = false ∧ (stAt t n).muckThen = b1 x.reqClaim ∧
          t.fc.ahead = (if x.reqFault then s.fc.ahead ++ [n] else s.fc.ahead)) ∧
      (∀ j, x.reqFault = false → x.reqStop = true → x.jobs = [j.seq] → jobOf s j.seq = some j → j.stopReq = true → j.inOutput = false → op = false →
        j.issuedStatus = none → ∃ t k, exec (.stallSafePoint n cm ck op pos) s = .next t ∧ jobOf t j.seq = some k ∧ k.phase = .finished ∧ k.status = 0x0A01)) ∧
    (atSafePoint s n false = false → ∀ cm ck pos, exec (.stallSafePoint n cm ck false pos) s = .next s) ∧
    (x.state = 3 →
      (x.muckThen = 0 → ∃ t, exec (.muckoutDone n true) s = .next t ∧ (stAt t n).state = 1 ∧ (stAt t n).dirty = false ∧ (stAt t n).muckFailed = false ∧
        (stAt t n).muckouts = satAdd 0xFFFF x.muckouts 1 ∧ t.jobs = s.jobs) ∧
      (x.muckThen = 1 → s.fc.claimed = some n → ∃ t, exec (.muckoutDone n true) s = .next t ∧ (stAt t n).state = 4 ∧ t.fc.testing = true) ∧
      (x.muckThen = 2 → s.fc.claimed = some n → ∃ t, exec (.muckoutDone n true) s = .next t ∧ (stAt t n).state = 1 ∧ t.fc.claimed = none) ∧
      (x.muckFailed = false → exec (.muckoutDone n false) s = .next (modSt s n fun y => { y with muckFailed := true })) ∧
      (x.muckFailed = true → n < 52 → FaultsClear s → ∃ t, exec (.muckoutDone n false) s = .next t ∧ (stAt t n).state = 5 ∧ smGet false t.fc.retired n = true)) ∧
    (x.unsound = true → x.ucodeOk = false → ∃ t, exec (.ucodeReloadDone n) s = .next t ∧ stAt t n = { x with ucodeOk := true } ∧ t.fc.ahead = s.fc.ahead ++ [n]) ∧
    (s.fc.claimed = none → s.sys.bootState = 1 → s.sys.deepSleep = false → s.fc.ahead = [n] → x.ucodeOk = true → shedAt s (stallShed n) = 2 →
      (x.state = 1 → ∃ t, exec .farrierClaim s = .next t ∧ t.fc.claimed = some n ∧ t.fc.ahead = [] ∧ (stAt t n).state = 3 ∧ (stAt t n).muckThen = 1) ∧
      (x.state = 2 → ∃ t, exec .farrierClaim s = .next t ∧ t.fc.claimed = some n ∧ stAt t n = { x with reqClaim := true })) ∧
    (s.fc.claimed = none → s.sys.bootState = 1 → s.sys.deepSleep = false → s.fc.ahead = [] → s.fc.overdue = [] → s.fc.nextStall = n → n < 52 →
      skipped s n = false → farrierWaits s n = false → x.state = 1 →
      ∃ t, exec .farrierClaim s = .next t ∧ t.fc.claimed = some n ∧ t.fc.nextStall = (n + 1) % 52 ∧ (stAt t n).state = 3 ∧ (stAt t n).muckThen = 1) ∧
    (s.fc.claimed = some n → s.fc.testing = true → n < 52 → (smGet {} s.lk.tests (32 + n)).running = false →
      (∃ t, exec (.selftestDone true) s = .next t ∧ (stAt t n).unsound = false ∧ (stAt t n).state = 3 ∧ (stAt t n).muckThen = 2 ∧
        t.fc.passes = satAdd 0xFFFFFF s.fc.passes 1 ∧ t.fc.testing = false) ∧
      (FaultsClear s → x.state ≠ 5 → ∃ t, exec (.selftestDone false) s = .next t ∧ (stAt t n).state = 5 ∧ t.fc.fails = satAdd 0xFFFF s.fc.fails 1 ∧ t.fc.claimed = none)) ∧
    (n < 52 →
      (s.rng.stopped = true ∨ s.rng.rawMode = true → exec (.stallSourceReseed n) s =
        .next (modSt s n fun y => { y with ratchet := true, source := shake128 (y.source ++ leBytes 8 y.ratchetCount) 32, ratchetCount := (y.ratchetCount + 1) % 2 ^ 64 })) ∧
      (sourceServes s = true → s.rng.waiting = [] → 1 ≤ s.rng.store → ∃ t, exec (.stallSourceReseed n) s = .next t ∧ (stAt t n).ratchet = false ∧
        (stAt t n).source = shake256 (drawBytes s 256).1 32 ∧ t.rng.store = s.rng.store - 1) ∧
      (s.rng.stopped = false → s.rng.rawMode = false → s.rng.waiting = [] → s.rng.store = 0 →
        exec (.stallSourceReseed n) s = .next { s with rng := { s.rng with waiting := [512 + n] } }))

/-- Caps, meters and the reserve (R57 to R63, R68 to R74, Tables 03.8, 03.12): EN_CAP and the I3C cap are clamped to 40 and the plan's cap, and the
effective cap is the least; a sample adds to each shed's meter, to the energy of the paddock a core is dedicated to, and to that of a job by
its active cycles; where the window or 85 mJ in 1 ms would break the planner withholds wakes, then lowers the hottest stall shed's clock
step, then withholds the paddocks above their share, and it lets go where nothing would (that the next sample is taken to draw what the last
did, and that all ends at once, is the model's choice, log 106); a conversion joins the last eight and may set reserve_low, which clears once
the reserve covers the live records and 1,000 µJ more. -/
def Obligations.EnergyCapsMetersAndReserve : Prop :=
  ∀ (s : State),
    (∀ v : W64, regsUp s 0 = true → exec (.enCapWrite 0 v) s = .next { s with en := { s.en with
      capQw := min (max 40 (bits v.toNat 0 10)) s.plan.part.capMax, windowMs := min (max 1 (bits v.toNat 16 14)) 10000 } }) ∧
    (∀ fn v, fn ≠ 0 → exec (.enCapWrite fn v) s = .next s) ∧
    (∀ c, s.sys.porstN = true → s.sys.bootState ≤ 1 → s.lc.resetRequired = false → NothingDue s →
      ∃ t, exec (.i3cCapSet c) s = .next t ∧ t.en.i3cCap = some (min (max 40 c) s.plan.part.capMax) ∧ (s.en.flushActive = false → t.sys.deepSleep = false) ∧
      (effectiveCap t).1 = min s.plan.part.capMax (min s.en.capQw (min (max 40 c) s.plan.part.capMax))) ∧
    (∀ c, 2 ≤ s.sys.bootState ∨ s.lc.resetRequired = true → exec (.i3cCapSet c) s = .next s) ∧
    (s.sys.porstN = true →
      (∀ i nj, i < 24 → ∃ t, exec (.energySample [(i, nj)] {}) s = .next t ∧ t.en.meter = smMod 0 s.en.meter i (fun x => (x + nj) % 2 ^ 64) ∧
        t.en.padEnergy = s.en.padEnergy ∧ t.jobs = s.jobs) ∧
      (∀ n p nj, padOfCore s n = some p → ∃ t, exec (.energySample [] { cores := [(n, nj)] }) s = .next t ∧ t.en.meter = s.en.meter ∧
        smGet 0 t.en.padEnergy p = (smGet 0 s.en.padEnergy p + (smGet 0 s.en.coreNj p + nj) / 1000) % 2 ^ 64 ∧
        ∀ q, q ≠ p → smGet 0 t.en.padEnergy q = smGet 0 s.en.padEnergy q) ∧
      (∀ n seq j nj cyc, n < 52 → jobOf s seq = some j → j.phase = .running → 0 < cyc → ∃ t, exec (.energySample [(stallShed n, nj)] { active := [(n, seq, cyc)] }) s = .next t ∧
        jobOf t seq = some { j with energyNj := j.energyNj + nj })) ∧
    (s.sys.porstN = true → s.sys.deepSleep = false → s.en.flushActive = false → s.en.samples = [] → 1 ≤ s.en.windowMs → ∀ i nj, i < 24 →
      let breaks := (effectiveCap s).1 * 250000 * s.en.windowMs < 2 * nj ∨ 85000000 < 2 * nj
      (breaks → ∃ t, exec (.energySample [(i, nj)] {}) s = .next t ∧ t.en.capBinding = true ∧
        (s.en.withholdWakes = false → t.en.withholdWakes = true ∧ t.en.step = s.en.step ∧ t.en.withholdPads = s.en.withholdPads) ∧
        (s.en.withholdWakes = true → (∃ i < 14, shedAt s i = 2 ∧ stepAt s i < 3) → ∃ i < 14, shedAt s i = 2 ∧ stepAt t i = stepAt s i + 1 ∧
          ∀ k, k ≠ i → stepAt t k = stepAt s k) ∧
        (s.en.withholdWakes = true → (∀ i < 14, shedAt s i = 2 → 3 ≤ stepAt s i) → t.en.step = s.en.step ∧
          ∀ p < 32, hasBit t.en.withholdPads p = (padPresent s p && aboveShare t p))) ∧
      (¬breaks → s.en.capBinding = true → ∃ t, exec (.energySample [(i, nj)] {}) s = .next t ∧ t.en.capBinding = false ∧ t.en.withholdWakes = false ∧
        t.en.withholdPads = 0 ∧ ∀ i < 14, stepAt t i = if s.en.overtemp then 3 else 0) ∧
      (¬breaks → s.en.capBinding = false → ∃ t, exec (.energySample [(i, nj)] {}) s = .next t ∧ t.en.capBinding = false ∧ t.en.step = s.en.step ∧
        t.en.withholdWakes = s.en.withholdWakes)) ∧
    (s.en.overtemp = true → ∃ t, exec .overtempEnd s = .next t ∧ t.en.overtemp = false ∧ (∀ i < 14, stepAt t i = 0) ∧
      (∀ i e, outAt t.fc i = some e → e.kind = 0x1C → e.live = false)) ∧
    (∀ raw, s.sys.porstN = true → ∃ t, exec (.holdupAdcConversion raw) s = .next t ∧ t.en.rawCode = raw % 4096 ∧
      t.en.convs = (correctCode s (raw % 4096) :: s.en.convs).take 8 ∧ (s.en.calValid = false ∨ s.sys.stage < 12 → t.en.reserveLow = s.en.reserveLow) ∧
      (s.en.calValid = true → 12 ≤ s.sys.stage → t.en.reserveLow = (s.en.reserveLow || !reserveCovers t (nLive t)))) ∧
    (∀ z r, s.sys.porstN = true → exec (.adcCalibrate z r) s = .next { s with en := { s.en with
      offset := (z : Int), gain := min 0xFFFF (3200 * 0x8000 / max 1 (r - z)), calValid := true } }) ∧
    (s.en.reserveLow = true → coversWith s (usableNow s) (nLive s) 1000 = true → ∃ t, exec .reserveLowClear s = .next t ∧ t.en.reserveLow = false ∧
      (smWf {} s.queues = true → ∀ q, (qAt t q).recheck = ((qAt s q).recheck || (qAt s q).defer == 1))) ∧
    (s.en.reserveLow = true → coversWith s (usableNow s) (nLive s) 1000 = false → exec .reserveLowClear s = .next s)

/-- Sheds and deep sleep (R9, R51 to R55, R62, R64 to R66, R322, R507, Tables 03.2, 24.8): the request that ranks first is granted, one at a time, when
the headroom covers the shed's step-0 power (how headroom is counted is the model's choice, log 108), and for a paddock below its share steps are
lowered to make room; a waking shed reaches ON with its stalls idle; an idle DEMAND or NEVER shed sleeps once its stalls are clean, and OFF
loses cores and local memory; deep sleep leaves AON and JNL alone on, takes the random instances and the store, and any exit brings YRD,
HIF, HLF and SYS back. -/
def Obligations.ShedsAndDeepSleep : Prop :=
  ∀ (s : State) (i : Nat),
    (s.sys.bootState = 1 → s.sys.deepSleep = false → frozen s = false → ∀ p, nextWake s = some (i, p) →
      let power : Nat := if i < 6 then 4400 else if i < 10 then 5600 else if i < 12 then 4000 else if i < 14 then 5000 else if i < 18 then 1400 else 0
      (s.en.withholdWakes = false → (power : Int) ≤ headroomMw s →
        ∃ t, exec .shedWakeGrant s = .next t ∧ shedAt t i = 1 ∧ i ∉ t.en.wakes ∧ ∀ k, k ≠ i → shedAt t k = shedAt s k) ∧
      (s.en.withholdWakes = true ∨ headroomMw s < (power : Int) → (∀ q, p = some q → belowShare s q = false) → exec .shedWakeGrant s = .next s) ∧
      (∃ t, exec .shedWakeGrant s = .next t ∧ (shedAt t i = 1 ∨ shedAt t i = shedAt s i) ∧ (∀ k, k ≠ i → shedAt t k = shedAt s k) ∧
        ∀ k, stepAt s k ≤ stepAt t k)) ∧
    (shedAt s i = 1 → i < 24 → ∃ t, exec (.shedWakeDone i) s = .next t ∧ shedAt t i = 2 ∧
      (∀ n < 52, i < 14 → stallShed n = i → (stAt s n).state = 0 → (stAt s n).muckAtWake = false → (stAt t n).state = 1) ∧
      (∀ n < 52, i < 14 → stallShed n = i → (stAt s n).state = 0 → (stAt s n).muckAtWake = true → (stAt t n).state = 3 ∧ (stAt t n).muckAtWake = false) ∧
      (∀ n < 16, 14 ≤ i → i < 18 → coreShed n = i → (coreAt t n).loading = (coreAt s n).loading.map fun o => { o with waitShed := false })) ∧
    (shedAt s i = 2 → shedPolicy s i ≠ 0 →
      (i < 14 → (∀ n ∈ shedStalls i, (stAt s n).state = 5 ∨ ((stAt s n).state = 1 ∧ (stAt s n).dirty = false)) → exec (.shedIdleTimeout i) s = .next (sleepShed s i)) ∧
      (i < 14 → (∀ n ∈ shedStalls i, (stAt s n).state = 1 ∨ (stAt s n).state = 5) → (∃ n ∈ shedStalls i, (stAt s n).state = 1 ∧ (stAt s n).dirty = true) →
        ∃ t, exec (.shedIdleTimeout i) s = .next t ∧ shedAt t i = 2 ∧ ∀ n ∈ shedStalls i, (stAt s n).state = 1 → (stAt s n).dirty = true →
          (stAt t n).state = 3 ∧ (stAt t n).muckThen = 3) ∧
      (i < 14 → (∃ n ∈ shedStalls i, (stAt s n).state ≠ 1 ∧ (stAt s n).state ≠ 5) → exec (.shedIdleTimeout i) s = .next s) ∧
      (14 ≤ i → i < 18 → (∀ k < 4, (coreAt s (4 * (i - 14) + k)).state = 0) → exec (.shedIdleTimeout i) s = .next (sleepShed s i)) ∧
      (i = 22 → hayloftBusy s = false → exec (.shedIdleTimeout i) s = .next (sleepShed s i))) ∧
    (shedPolicy s i = 0 → exec (.shedIdleTimeout i) s = .next s) ∧
    (shedAt s i = 3 → ∃ t, exec (.shedSleepDone i) s = .next t ∧ shedAt t i = 0 ∧
      (∀ n < 52, i < 14 → stallShed n = i → (stAt s n).state ≠ 5 → (stAt t n).state = 0) ∧
      (∀ n < 16, coreShed n = i → (coreAt t n).mem = [] ∧ (coreAt t n).w = [] ∧ (coreAt t n).loads = (coreAt s n).loads ∧ (coreAt t n).traps = (coreAt s n).traps)) ∧
    (maySleep s = true → ∃ t, exec .deepSleepEntry s = .next t ∧ t.sys.deepSleep = true ∧ t.rng.ready = false ∧ t.rng.store = 0 ∧ t.rng.ymDrbg.live = false ∧
      (∀ p, (padAt t p).drbg.live = false) ∧ (∀ k < 24, k ≠ 18 → k ≠ 19 → shedAt t k = 0) ∧ shedAt t 18 = shedAt s 18 ∧ shedAt t 19 = shedAt s 19 ∧
      (∀ n < 52, (stAt s n).state = 1 → (stAt t n).dirty = false) ∧ t.jobs = s.jobs) ∧
    (maySleep s = false → exec .deepSleepEntry s = .next s) ∧
    (∀ g, s.sys.deepSleep = true → s.en.flushActive = false → NothingDue s → ∃ t, exec (.deepSleepExit g) s = .next t ∧ t.sys.deepSleep = false ∧
      (∀ k ∈ [20, 22, 23], shedAt t k = 2) ∧ (s.sys.perstN = true ∨ s.plan.part.twin = true → shedAt t 21 = 2) ∧ t.port.doorbells = [] ∧
      (∀ k < 20, shedAt t k = shedAt s k))

/-- The journal's upkeep (R26, R175, R180, R187, R240 to R242): a refill raises the committed H of its key, or is first sent to the partner;
the next tree of a key is computed by the stall that was given it, which is then free; a generation is drawn into the lowest free slot, or
stays due; the time base reaches the hayloft or both banks; scrubbing counts a corrected row, and the fourth error retires it; SHUTDOWN stops
acceptance, and its flush stops what runs and writes what is live. -/
def Obligations.JournalUpkeep : Prop :=
  ∀ (s : State),
    (∀ n h, (hbsAt s n).refill = some h → s.jn.role ≠ 1 →
      ∃ t, exec (.refillCommit n) s = .next t ∧ (hbsAt t n).h = max (hbsAt s n).h h ∧ t.jobs = s.jobs ∧ ∀ m, m ≠ n → hbsAt t m = hbsAt s m) ∧
    (∀ n h, (hbsAt s n).refill = some h → s.jn.role = 1 →
      ∃ t, exec (.refillCommit n) s = .next t ∧ t.tk = s.tk ∧ t.out = s.out ++ [.tether 0x03 s.tt.txSeq [n, h]]) ∧
    (∀ n k level x, ((List.range 52).find? fun k => (stAt s k).tree == some n) = some k → nextTree s n = some (level, x) →
      ∃ t, exec (.nextTreeReady n) s = .next t ∧ smGet 0 (hbsAt t n).nextTrees level = x ∧ (∀ m, m ≠ n → hbsAt t m = hbsAt s m) ∧ t.jobs = s.jobs ∧
        (stAt t k).tree = none ∧ ((stAt s k).reqClaim = false → (stAt t k).state = 1) ∧ ((stAt s k).reqClaim = true → (stAt t k).state = 3)) ∧
    (∀ n, ((List.range 52).find? fun k => (stAt s k).tree == some n) = none → exec (.nextTreeReady n) s = .next s) ∧
    (∀ p, s.jn.opened = true → p < 32 → padPresent s p = true →
      (∀ g, (List.range 16).find? (capFree s p) = some g → sourceServes s = true → 2 ≤ s.rng.store → s.rng.waiting = [] →
        ∃ t key, exec (.captureGenDraw p) s = .next t ∧ (padAt t p).curGen = some g ∧ (padAt t p).genDue = false ∧ t.rng.store = s.rng.store - 2 ∧
          smGet {} (padAt t p).caps g = { drawn := true, key := key, served := 0, drawnAt := s.time } ∧ (padAt t p).drbg.requests = 1 ∧
          (padAt t p).drbg.live = true ∧ ∀ k, k ≠ g → smGet {} (padAt t p).caps k = smGet {} (padAt s p).caps k) ∧
      ((List.range 16).find? (capFree s p) = none → exec (.captureGenDraw p) s = .next (modPad s p fun x => { x with genDue := true }))) ∧
    (13 ≤ s.sys.stage → s.en.flushActive = false →
      exec (.timeBaseSave true) s = .next { s with sys := { s.sys with timeHayloft := s.time } } ∧
      exec (.timeBaseSave false) s = .next { s with jn := { s.jn with seq := s.jn.seq + 1 }, sys := { s.sys with timeJournal := s.time } }) ∧
    (∀ b row, b < 2 → s.jn.held = true → Calm s → s.en.flushActive = false →
      let key := 0x80 + b + 1024 * (row + 1)
      (smGet 0 s.fc.buckets key + 1 < 4 → ∃ t, exec (.journalScrub b (some row)) s = .next t ∧ smGet 0 t.fc.buckets key = smGet 0 s.fc.buckets key + 1 ∧
        smGet 0 t.fc.corrected (0x80 + b) = smGet 0 s.fc.corrected (0x80 + b) + 1 ∧ t.jn = s.jn ∧ t.jobs = s.jobs) ∧
      (smGet 0 s.fc.buckets key = 3 → smGet false s.fc.retired key = false → smGet 0 s.fc.spareRows (0x80 + b) < 16 →
        ∃ t, exec (.journalScrub b (some row)) s = .next t ∧ smGet false t.fc.retired key = true ∧
          smGet 0 t.fc.spareRows (0x80 + b) = smGet 0 s.fc.spareRows (0x80 + b) + 1)) ∧
    (∀ b, exec (.journalScrub b none) s = .next s) ∧
    (regsUp s 0 = true → s.jn.shutdownDone = false → exec (.jnShutdown 0 1#64) s = .next { s with jn := { s.jn with shutting := true } }) ∧
    (s.jn.shutting = true → s.en.flushActive = false →
      let c0 := !s.hl.failed0
      let c1 := !s.hl.failed1
      ∃ t nonce, exec .shutdownFlush s = .next t ∧ t.jn.shutdownDone = true ∧ t.jn.shutting = false ∧ t.jn.opened = false ∧ t.jn.flushSeq = s.jn.flushSeq + 1 ∧
        t.jn.flushResult = (if c0 && c1 then 1 else if c0 || c1 then 2 else 3) ∧ (∀ j ∈ t.jobs, j.phase ≠ .running) ∧
        (∀ n, (stAt t n).state = 0 ∨ (stAt t n).state = 5) ∧ (∀ i < 18, shedAt t i = 0) ∧ (∀ p, limitOf t p = 0) ∧
        t.hl.flush = (if c0 || c1 then flushImage (stopAll s workSheds) c0 c1 nonce else s.hl.flush))

/-- The tether and the twin (R95, R96, R196 to R200, R246, R486 to R489): a frame in order is acted on and acknowledged, one out of order or
in error only answered; an acknowledgement frees what waited for it; lost acknowledgements resend, charged to a lane; a lane's failure, too
few lanes, and the failure of the partner, whose records, queues and keys this side then serves; the heartbeat. -/
def Obligations.TwinAndTether : Prop :=
  ∀ (s : State),
    (tetherRuns s = true → ∀ f : Frame,
      (f.crcOk = false → exec (.tetherFrameReceive f) s = .next (emit s (.tether 0x07 s.tt.rxSeq [0, f.lane]))) ∧
      (f.crcOk = true → f.kind ≠ 0x07 → f.seq ≠ s.tt.rxSeq → exec (.tetherFrameReceive f) s = .next (emit s (.tether 0x07 s.tt.rxSeq [1]))) ∧
      (f.crcOk = true → f.seq = s.tt.rxSeq → Calm s → FaultsClear s →
        let got := fun (t : State) => t.tt.rxSeq = (s.tt.rxSeq + 1) % 2 ^ 32 ∧ t.out = s.out ++ [.tether 0x07 ((s.tt.rxSeq + 1) % 2 ^ 32) [1]]
        (∀ j, f.kind = 0x01 ∨ f.kind = 0x06 → readRecord (bytesOfWords (f.payload.take 12)) = some j → ∃ t, exec (.tetherFrameReceive f) s = .next t ∧ got t ∧
          j ∈ t.tt.mirror ∧ (∀ x ∈ t.tt.mirror, x.seq = j.seq → x = j) ∧ j.seq < t.jn.nextSeq ∧ t.jobs = s.jobs) ∧
        (∀ w q a, f.kind = 0x02 → f.payload = [w, q, a] → ∃ t, exec (.tetherFrameReceive f) s = .next t ∧ got t ∧
          (∀ x ∈ t.tt.mirror, x.seq ≠ w) ∧ ((qAt s q).standby = true → (qAt t q).t = a)) ∧
        (∀ n h, f.kind = 0x03 → f.payload = [n, h] → ∃ t, exec (.tetherFrameReceive f) s = .next t ∧ got t ∧
          smGet 0 t.tt.mirrorH n = max (smGet 0 s.tt.mirrorH n) h) ∧
        (∀ o v l, f.kind = 0x04 → f.payload = o :: v :: l → ∃ t, exec (.tetherFrameReceive f) s = .next t ∧ got t ∧ (o, v) ∈ t.tt.mirrorObjs) ∧
        (∀ term n d, f.kind = 0x05 → f.payload = term :: n :: d → bytesOfWords d = padTo 48 s.plan.digest →
          ∃ t, exec (.tetherFrameReceive f) s = .next t ∧ got t ∧ t.tt.partnerTerm = term ∧ t.tt.partnerPresent = true ∧ t.jn = s.jn) ∧
        (∀ term n d, f.kind = 0x05 → f.payload = term :: n :: d → bytesOfWords d ≠ padTo 48 s.plan.digest →
          ∃ t, exec (.tetherFrameReceive f) s = .next t ∧ t.tt.mismatch = true ∧ t.jn.opened = false ∧ t.pl.err = 0x0D ∧ (findOut t.fc 0x184 0x22).isSome = true)) ∧
      (∀ g n h, f.crcOk = true → f.kind = 0x07 → f.payload = [1] → s.tt.unacked = [g] → seqBefore g.seq f.seq = true → g.kind = 0x03 → g.payload = [n, h] →
        (hbsAt s n).refill = some h → Calm s → ∃ t, exec (.tetherFrameReceive f) s = .next t ∧ t.tt.unacked = [] ∧ (hbsAt t n).h = max (hbsAt s n).h h)) ∧
    (tetherRuns s = true → s.tt.unacked ≠ [] → Calm s → (∀ n < 4, smGet 0 s.fc.buckets (0x180 + n) < 7) →
      ∃ t, exec .tetherRetransmitTimeout s = .next t ∧ t.out = s.out ++ s.tt.unacked.map (fun f => .tether f.kind f.seq f.payload) ∧
        t.tt.unacked = s.tt.unacked ∧ t.tt.retransmits = satAdd 0xFFFFFFFF s.tt.retransmits s.tt.unacked.length) ∧
    (∀ n < 4, s.sys.porstN = true → (laneAt s n).state = 1 → FaultsClear s → smWf {} s.tt.lanes = true →
      ∃ t, exec (.tetherLaneFail n) s = .next t ∧ (laneAt t n).state = 2 ∧ (findOut t.fc (0x180 + n) 0x21).isSome = true ∧
        (2 ≤ soundLanes s → lanesMin s < soundLanes s → t.tt.retrains = satAdd 0xFFFF s.tt.retrains 1 ∧ t.jn = s.jn)) ∧
    (s.plan.part.twin = true → s.sys.porstN = true → s.jn.role ≠ 3 → soundLanes s < lanesMin s → FaultsClear s →
      ∃ t, exec .twinLanesLost s = .next t ∧ t.tt.linkUp = false ∧
        (s.sys.straps.twinSide = false → t.tt.split = true ∧ ∀ p, limitOf t p = 0) ∧
        (s.sys.straps.twinSide = true → t.jn.role = 3 ∧ t.sys.ttHbo = false ∧ ∀ j ∈ t.jobs, j.phase ≠ .running)) ∧
    (s.sys.porstN = true → 10 ≤ s.sys.stage → s.jn.role ≠ 3 → exec .heartbeatToggle s = .next { s with sys := { s.sys with ttHbo := !s.sys.ttHbo } }) ∧
    (s.jn.role = 1 → s.sys.bootState = 1 → s.en.flushActive = false → FaultsClear s → s.tt.unacked = [] → smWf {} s.queues = true →
      ∃ t, exec .twinPartnerFailed s = .next t ∧ t.jn.role = 2 ∧ t.jn.term = (s.jn.term + 1) % 2 ^ 32 ∧ t.tt.partnerFailed = true ∧
        (findOut t.fc 0x184 0x24).isSome = true ∧ t.tt.mirror = [] ∧
        (∀ j ∈ s.tt.mirror, ∃ k ∈ t.jobs, k.seq = j.seq ∧ k.queue = j.queue ∧ k.desc = j.desc) ∧
        (∀ q, (qAt s q).standby = true → (qAt t q).standby = false ∧ (qAt t q).takenOver = true))

/-- Scalar ADD, SUB, NEG, AND, OR, XOR, ANDN and NOT complete on every pair of sources their tag rows accept: rd takes the result under the
result's tag, FLG its five flags, the PC moves past, nothing else changes; a CHK form traps with 0x09 on overflow or carry. The upper half
of a PTR result under W32 and the C of a SECRET carry are open (model's choice, log 29 and R394). -/
def Obligations.BenxisArithmeticWritesRdAndFlags : Prop :=
  ∀ (s : State) (n : Nat) (f : BxFields) (len : Nat), f.vec = false →
    let c := coreAt s n
    let w := opWidth f.w32
    let a := srcA c f
    let b := srcB c f
    let x := opRs1 c f
    let y := opRs2 c f immArith
    let z := opRs2 c f immSame
    (∀ tag, Runs s n 0x08 f len → check2 accArith accArith pairAdd x y = .ok tag →
      sumNext s n f len tag x.x.tag y.x.tag ((a + b) % 2 ^ w) (decide (2 ^ w ≤ a + b)) (toSigned w a + toSigned w b) (.bxAdd n f)) ∧
    (∀ tag, Runs s n 0x09 f len → check2 accArith accArith pairSub x y = .ok tag →
      sumNext s n f len tag x.x.tag y.x.tag ((a + 2 ^ w - b) % 2 ^ w) (decide (a < b)) (toSigned w a - toSigned w b) (.bxSub n f)) ∧
    (Runs s n 0x0A f len → check1 accNeg x = .ok () →
      (if f.chk = true ∧ x.x.tag ≠ 7 ∧ a = 2 ^ (w - 1) then exec (.bxNeg n f) s = .next (enterTrap s n { code := 0x09 })
       else exec (.bxNeg n f) s = .next (aluNext s n f len x.x.tag ((2 ^ w - a) % 2 ^ w) (flagsOf w ((2 ^ w - a) % 2 ^ w) false (a == 2 ^ (w - 1)))))) ∧
    (∀ tag, check2 accLogic accLogic pairBits x z = .ok tag → f.chk = false →
      (Runs s n 0x0B f len → exec (.bxAnd n f) s = .next (aluNext s n f len tag (a &&& b) (flagsOf w (a &&& b) false false))) ∧
      (Runs s n 0x0C f len → exec (.bxOr n f) s = .next (aluNext s n f len tag (a ||| b) (flagsOf w (a ||| b) false false))) ∧
      (Runs s n 0x0D f len → exec (.bxXor n f) s = .next (aluNext s n f len tag (a ^^^ b) (flagsOf w (a ^^^ b) false false))) ∧
      (Runs s n 0x0E f len → exec (.bxAndn n f) s =
        .next (aluNext s n f len tag (a &&& ((2 ^ w - 1) ^^^ b)) (flagsOf w (a &&& ((2 ^ w - 1) ^^^ b)) false false)))) ∧
    (Runs s n 0x0F f len → check1 accLogic x = .ok () →
      exec (.bxNot n f) s = .next (aluNext s n f len x.x.tag ((2 ^ w - 1) &&& ((2 ^ w - 1) ^^^ a)) (flagsOf w ((2 ^ w - 1) &&& ((2 ^ w - 1) ^^^ a)) false false)))

/-- Shifts, rotates and bit counts (R392): the value for every amount, C, and FLG; the C of a rotate is open (model's reading of R392).
CMP writes FLG and no register, from rs1 less the second source; CTEQ, CTLT and CSEL write rd and leave FLG. A CTLT of SECRET values
on which the signed and the unsigned order differ is open (model's choice, log 28). -/
def Obligations.BenxisShiftsCountsCompareSelect : Prop :=
  (
    ∀ (s : State) (n : Nat) (f : BxFields) (len : Nat), f.vec = false →
      let c := coreAt s n
      let w := opWidth f.w32
      let a := srcA c f
      let k := srcB c f
      let x := opRs1 c f
      (∀ tag, f.chk = false → check2 accLogic accAmount pairShift x (opRs2 c f immInt) = .ok tag →
        (Runs s n 0x10 f len → let v := if k ≤ w then a * 2 ^ k % 2 ^ w else 0
          exec (.bxShl n f) s = .next (aluNext s n f len tag v (flagsOf w v (decide (1 ≤ k) && decide (k ≤ w) && a.testBit (w - k)) false))) ∧
        (Runs s n 0x11 f len → let v := if k ≤ w then a / 2 ^ k else 0
          exec (.bxShr n f) s = .next (aluNext s n f len tag v (flagsOf w v (decide (1 ≤ k) && decide (k ≤ w) && a.testBit (k - 1)) false))) ∧
        (Runs s n 0x12 f len → let v := ofSigned w (toSigned w a / 2 ^ min k w)
          exec (.bxSar n f) s = .next (aluNext s n f len tag v (flagsOf w v (if k = 0 then false else a.testBit (min k w - 1)) false))) ∧
        (Runs s n 0x13 f len → let v := (a * 2 ^ (k % w) + a / 2 ^ (w - k % w)) % 2 ^ w
          ∃ b, exec (.bxRol n f) s = .next (drawn (aluNext s n f len tag v (flagsOf w v b false)) 1)) ∧
        (Runs s n 0x14 f len → let r := (w - k % w) % w
          let v := (a * 2 ^ r + a / 2 ^ (w - r)) % 2 ^ w
          ∃ b, exec (.bxRor n f) s = .next (drawn (aluNext s n f len tag v (flagsOf w v b false)) 1))) ∧
      (f.chk = false → check1 accCount x = .ok () →
        let tag := if x.x.tag = 7 then 7 else 2
        (Runs s n 0x15 f len → ∃ z, exec (.bxClz n f) s = .next (aluNext s n f len tag z (flagsOf w z false false)) ∧ z ≤ w ∧
          a < 2 ^ (w - z) ∧ (z < w → a.testBit (w - 1 - z) = true)) ∧
        (Runs s n 0x16 f len → ∃ z, exec (.bxCtz n f) s = .next (aluNext s n f len tag z (flagsOf w z false false)) ∧ z ≤ w ∧
          a % 2 ^ z = 0 ∧ (z < w → a.testBit z = true)) ∧
        (Runs s n 0x17 f len → exec (.bxPopc n f) s = .next (aluNext s n f len tag ((List.range w).countP fun j => a.testBit j)
          (flagsOf w ((List.range w).countP fun j => a.testBit j) false false))))) ∧
  (
    ∀ (s : State) (n : Nat) (f : BxFields) (len : Nat), f.vec = false →
      let c := coreAt s n
      let w := opWidth f.w32
      let a := srcA c f
      let b := srcB c f
      let x := opRs1 c f
      let y := opRs2 c f immSame
      let v := (a + 2 ^ w - b) % 2 ^ w
      (∀ tag, Runs s n 0x18 f len → check2 accCmp accCmp pairSame x y = .ok tag →
        exec (.bxCmp n f) s = .next (past s n f len { c with flg := mkTW 2 (if tag = 5 ∨ tag = 6 then b1 (v == 0) else
          (flagsOf w v (carryOf x.x.tag y.x.tag (decide (a < b))) (overflowOf x.x.tag y.x.tag (!fits w (toSigned w a - toSigned w b)))).word) })) ∧
      (∀ tag, check2 accLogic accLogic pairSame x y = .ok tag →
        (Runs s n 0x19 f len → exec (.bxCteq n f) s = .next (rdNext s n f len (mkTW tag (widen w tag (if a = b then 2 ^ w - 1 else 0))))) ∧
        (Runs s n 0x1A f len →
          ∃ lt k, (tag = 1 → (lt ↔ toSigned w a < toSigned w b)) ∧ (tag = 2 ∨ tag = 3 → (lt ↔ a < b)) ∧
            (tag = 7 → ((a < b) ↔ toSigned w a < toSigned w b) → (lt ↔ a < b)) ∧ (tag ≠ 7 → k = 0) ∧
            exec (.bxCtlt n f) s = .next (drawn (rdNext s n f len (mkTW tag (widen w tag (if lt = true then 2 ^ w - 1 else 0)))) k)) ∧
        (Runs s n 0x1B f len → check1 accLogic (opRd c f) = .ok () →
          let t := if (regW c f.rd).tag = 7 then 7 else tag
          let m := srcD c f
          exec (.bxCsel n f) s = .next (rdNext s n f len (mkTW t (widen w t ((a &&& m) ||| (b &&& ((2 ^ w - 1) ^^^ m)))))))))

/-- MUL, MULU, DIV and DIVU start their unit, with FLG from the low half or the quotient; the fixed results of a zero divisor and of the
most negative value divided by -1; CHK traps; the results land in MLO and MHI, or QUO and REM, by UNIT_RESULT_LAND. -/
def Obligations.BenxisMultiplyAndDivide : Prop :=
  ∀ (s : State) (n : Nat) (f : BxFields) (len : Nat), f.vec = false →
    let c := coreAt s n
    let w := opWidth f.w32
    let a := srcA c f
    let b := srcB c f
    let x := opRs1 c f
    let y := opRs2 c f immSame
    (∀ tag, Runs s n 0x40 f len → check2 accMulS accMulS pairSame x y = .ok tag →
      let p := ofSigned (2 * w) (toSigned w a * toSigned w b)
      exec (.bxMul n f) s = .next (mulNext s n f len tag (widen w tag (p % 2 ^ w)) (widen w tag (p / 2 ^ w)) (flagsOf w (p % 2 ^ w) false false))) ∧
    (∀ tag, Runs s n 0x41 f len → check2 accMulU accMulU pairSame x y = .ok tag →
      exec (.bxMulu n f) s = .next (mulNext s n f len tag (widen w tag (a * b % 2 ^ w)) (widen w tag (a * b / 2 ^ w)) (flagsOf w (a * b % 2 ^ w) false false))) ∧
    (∀ tag, Runs s n 0x42 f len → check2 accMulS accMulS pairSame x y = .ok tag →
      let q := ofSigned w ((toSigned w a).tdiv (toSigned w b))
      let r := ofSigned w ((toSigned w a).tmod (toSigned w b))
      let least := ofSigned 64 (-(2 ^ (w - 1) : Int))
      if b = 0 then
        exec (.bxDiv n f) s = .next (if f.chk = true ∧ tag ≠ 7 then enterTrap s n { code := 0x0A }
          else divNext s n f len tag (2 ^ 64 - 1) (ofSigned 64 (toSigned w a)) { flagsOf w (2 ^ w - 1) false false with dz := true })
      else if a = 2 ^ (w - 1) ∧ b = 2 ^ w - 1 then
        exec (.bxDiv n f) s = .next (if f.chk = true ∧ tag ≠ 7 then enterTrap s n { code := 0x09 }
          else divNext s n f len tag least 0 (flagsOf w a false true))
      else exec (.bxDiv n f) s = .next (divNext s n f len tag (widen w tag q) (widen w tag r) (flagsOf w q false false))) ∧
    (∀ tag, Runs s n 0x43 f len → check2 accMulU accMulU pairSame x y = .ok tag →
      if b = 0 then
        exec (.bxDivu n f) s = .next (if f.chk = true ∧ tag ≠ 7 then enterTrap s n { code := 0x0A }
          else divNext s n f len tag (2 ^ w - 1) a { flagsOf w (2 ^ w - 1) false false with dz := true })
      else exec (.bxDivu n f) s = .next (divNext s n f len tag (a / b) (a % b) (flagsOf w (a / b) false false))) ∧
    (∀ r, c.mul = some r → exec (.unitResultLand n false) s = .next (putCore s n { c with mlo := r.lo, mhi := r.hi, mul := none })) ∧
    (∀ r, c.div = some r → exec (.unitResultLand n true) s = .next (putCore s n { c with quo := r.lo, rem := r.hi, div := none }))

/-- The vector forms of ADD, SUB, the logic group, the shifts, CTEQ, CTLT, CSEL, MULU, NOT and MOV: register rd takes the result tag, and every
lane the lane operation's value (R417, R418). Under CHK an overflowing or carrying lane traps with 0x09 (R391). Under W32 the lanes are open
(model's choice, log 29).
Vector loads and the vector ST8: a plain load whose elements all load writes them with the tag of R418; a first-fault load keeps the old
lanes from its first fault on and counts the others in VFF (R420), and traps with 0x11 when the first element faults; ST8 stores 16 bytes
as two words of the register's tag. -/
def Obligations.BenxisVectorForms : Prop :=
  (
    ∀ (s : State) (n : Nat) (f : BxFields) (len : Nat), f.vec = true →
      let c := coreAt s n
      let w := laneWidth f
      let A := laneA c f w
      let B := laneB c f w
      let x := vOpd c f.rs1 1
      let calm := fun tag : Nat => f.chk = false ∨ tag = 7
      w ∈ [8, 16, 32, 64] →
      (∀ tag, check2 accArith accArith pairAdd x (secondOpd c f immArith) = .ok tag → Runs s n 0x08 f len →
        (calm tag → lanesNext s n f len tag w (fun j v => v = (A j + B j) % 2 ^ w) (.bxAdd n f)) ∧
        (f.chk = true → (tag = 1 ∧ ∃ j < 128 / w, fits w (toSigned w (A j) + toSigned w (B j)) = false) ∨
          (tag = 2 ∨ tag = 3) ∧ (∃ j < 128 / w, 2 ^ w ≤ A j + B j) → exec (.bxAdd n f) s = .next (enterTrap s n { code := 0x09 }))) ∧
      (∀ tag, check2 accArith accArith pairSub x (secondOpd c f immArith) = .ok tag → Runs s n 0x09 f len →
        (calm tag → lanesNext s n f len tag w (fun j v => v = (A j + 2 ^ w - B j) % 2 ^ w) (.bxSub n f)) ∧
        (f.chk = true → (tag = 1 ∧ ∃ j < 128 / w, fits w (toSigned w (A j) - toSigned w (B j)) = false) ∨
          (tag = 2 ∨ tag = 3) ∧ (∃ j < 128 / w, A j < B j) → exec (.bxSub n f) s = .next (enterTrap s n { code := 0x09 }))) ∧
      (∀ tag, check2 accLogic accLogic pairBits x (secondOpd c f immSame) = .ok tag → f.chk = false →
        (Runs s n 0x0B f len → lanesNext s n f len tag w (fun j v => v = A j &&& B j) (.bxAnd n f)) ∧
        (Runs s n 0x0C f len → lanesNext s n f len tag w (fun j v => v = A j ||| B j) (.bxOr n f)) ∧
        (Runs s n 0x0D f len → lanesNext s n f len tag w (fun j v => v = A j ^^^ B j) (.bxXor n f)) ∧
        (Runs s n 0x0E f len → lanesNext s n f len tag w (fun j v => v = A j &&& ((2 ^ w - 1) ^^^ B j)) (.bxAndn n f))) ∧
      (∀ tag, check2 accLogic accAmount pairShift x (secondOpd c f immInt) = .ok tag → f.chk = false →
        (Runs s n 0x10 f len → lanesNext s n f len tag w (fun j v => v = if B j ≤ w then A j * 2 ^ B j % 2 ^ w else 0) (.bxShl n f)) ∧
        (Runs s n 0x11 f len → lanesNext s n f len tag w (fun j v => v = if B j ≤ w then A j / 2 ^ B j else 0) (.bxShr n f)) ∧
        (Runs s n 0x12 f len → lanesNext s n f len tag w (fun j v => v = ofSigned w (toSigned w (A j) / 2 ^ min (B j) w)) (.bxSar n f))) ∧
      (∀ tag, check2 accLogic accLogic pairSame x (secondOpd c f immSame) = .ok tag → f.chk = false →
        (Runs s n 0x19 f len → lanesNext s n f len tag w (fun j v => v = if A j = B j then 2 ^ w - 1 else 0) (.bxCteq n f)) ∧
        (Runs s n 0x1A f len → lanesNext s n f len tag w (fun j v => (v = 2 ^ w - 1 ∨ v = 0) ∧
          (tag = 1 → (v = 2 ^ w - 1 ↔ toSigned w (A j) < toSigned w (B j))) ∧ (tag = 2 ∨ tag = 3 → (v = 2 ^ w - 1 ↔ A j < B j))) (.bxCtlt n f)) ∧
        (Runs s n 0x1B f len → check1 accLogic (vOpd c f.rd 0) = .ok () →
          lanesNext s n f len (if (regV c f.rd).tag = 7 then 7 else tag) w
            (fun j v => v = (A j &&& laneD c f w j) ||| (B j &&& ((2 ^ w - 1) ^^^ laneD c f w j))) (.bxCsel n f))) ∧
      (∀ tag, check2 accMulU accMulU pairSame x (secondOpd c f immSame) = .ok tag → f.chk = false → Runs s n 0x41 f len →
        lanesNext s n f len tag w (fun j v => v = A j * B j % 2 ^ w) (.bxMulu n f)) ∧
      (Runs s n 0x0F f len → check1 accLogic x = .ok () → f.w32 = false →
        exec (.bxNot n f) s = .next (past s n f len { c with v := smSet {} c.v (f.rd % 16) { d := ~~~(regV c f.rs1).d, tag := (regV c f.rs1).tag } })) ∧
      (Runs s n 0x39 f len → check1 accSub x = .ok () → f.w32 = false →
        exec (.bxMov n f) s = .next (past s n f len { c with v := smSet {} c.v (f.rd % 16) (regV c f.rs1) }))) ∧
  (
    ∀ (s : State) (n : Nat) (f : BxFields) (len : Nat), f.vec = true →
      let c := coreAt s n
      (vecAddrCheck c f = .ok tPtr →
        (∀ size l i, loadElements c size (elementAddrs c f size) = (l, none) →
          ((size, i) = (8, .bxLd8 n f) ∧ Runs s n 0x1C f len ∨ (size, i) = (4, .bxLd4 n f) ∧ Runs s n 0x1D f len ∨
            (size, i) = (2, .bxLd2 n f) ∧ Runs s n 0x1F f len ∨ (size, i) = (1, .bxLd1 n f) ∧ Runs s n 0x21 f len) →
          exec i s = .next (past s n f len
            { c with v := smSet {} c.v (f.rd % 16) { d := ofLanes (8 * size) (l.map Prod.fst), tag := combineTags (l.map Prod.snd) } })) ∧
        (∀ size l e i, loadElements c size (elementAddrs c f size) = (l, e) →
          ((size, i) = (4, .bxLd4s n f) ∧ Runs s n 0x1E f len ∨ (size, i) = (2, .bxLd2s n f) ∧ Runs s n 0x20 f len ∨
            (size, i) = (1, .bxLd1s n f) ∧ Runs s n 0x22 f len) →
          if l = [] then exec i s = .next (enterTrap s n { code := 0x11, info := (elementAddrs c f size).headD 0 })
          else
            ∃ r, exec i s = .next (past s n f len { c with
                v := smSet {} c.v (f.rd % 16)
                  { d := r, tag := combineTags (l.map Prod.snd ++ (if l.length < 16 / size then [(regV c f.rd).tag] else [])) },
                vff := mkTW 2 l.length }) ∧
              ∀ j < 16 / size, vlane r (8 * size) j = if j < l.length then (l.getD j (0, 0)).1 % 2 ^ (8 * size) else laneD c f (8 * size) j)) ∧
      (Runs s n 0x24 f len → check2 accBase accIndex pairAddr (opRs1 c f) { x := { tag := 1 }, reg := 0, pos := 2 } = .ok tPtr →
        let a := ((regW c f.rs1).d + f.imm).toNat
        let x := regV c f.rd
        Reachable c a 16 → Reachable c a 8 → Reachable c (a + 8) 8 → (memWord c.mem a).tag ≠ 5 → (memWord c.mem (a + 8)).tag ≠ 5 →
        exec (.bxSt8 n f) s = .next (past s n f len
          (withWord (withWord c a (mkTW x.tag (vlane x.d 64 0))) (a + 8) (mkTW x.tag (vlane x.d 64 1))))))

/-- The tag instructions: TAGOF reads the tag as an INT; the others write rs1's data under the tag they name, SECRET staying SECRET; POISON
writes the POISON tag over open data (model's choice, log 30); RDTIME reads the time base; DECLASS takes the SECRET tag off under a licence,
counting it, and traps with 0x08 without one. FLG stays (R390). -/
def Obligations.BenxisTagsDeclassAndTime : Prop :=
  ∀ (s : State) (n : Nat) (f : BxFields) (len : Nat), f.vec = false →
    let c := coreAt s n
    let x := regW c f.rs1
    let keep := fun t : Nat => if x.tag = 7 then 7 else t
    (Runs s n 0x50 f len → x.tag < 8 → exec (.bxTagof n f) s = .next (rdNext s n f len (mkTW 1 x.tag))) ∧
    (check1 accLogic (opRs1 c f) = .ok () →
      (Runs s n 0x51 f len → exec (.bxAsint n f) s = .next (rdNext s n f len { d := x.d, tag := keep 1 })) ∧
      (Runs s n 0x53 f len → exec (.bxAsbytes n f) s = .next (rdNext s n f len { d := x.d, tag := keep 3 })) ∧
      (Runs s n 0x56 f len → exec (.bxClass n f) s = .next (rdNext s n f len { d := x.d, tag := 7 }))) ∧
    (Runs s n 0x52 f len → check1 accAsNat (opRs1 c f) = .ok () →
      exec (.bxAsnat n f) s = .next (rdNext s n f len { d := x.d, tag := keep 2 })) ∧
    (Runs s n 0x54 f len → x.tag = 2 → exec (.bxMkptr n f) s = .next (rdNext s n f len { d := x.d, tag := 4 })) ∧
    (Runs s n 0x55 f len → x.tag = 2 ∨ x.tag = 3 → exec (.bxMkhandle n f) s = .next (rdNext s n f len { d := x.d, tag := 6 })) ∧
    (Runs s n 0x58 f len → ∃ v, exec (.bxPoison n f) s = .next (drawn (rdNext s n f len (mkTW 0 v)) 1)) ∧
    (Runs s n 0x70 f len → exec (.bxRdtime n f) s = .next (rdNext s n f len (mkTW 2 s.time))) ∧
    (∀ p, Runs s n 0x57 f len → x.tag = 7 → (regW c f.rs2).tag = 6 → f.i = false → padOfCore s n = some p →
      exec (.bxDeclass n f) s = .next (if declassOk s p (regW c f.rs2).d.toNat = true
        then pcPast (modCore s n fun k => { withReg k f.rd { d := x.d, tag := 3 } with declass := satAdd 0xFFFF k.declass 1 }) n len
        else enterTrap s n { code := 0x08 }))

/-- Loads, LEA and stores of one core's local memory: the word or its part loaded, sign- or zero-extended, under its tag; a store replaces
the word it addresses and no other (R385).
The data stack, the moves and the special registers: PUSH, POP and DSADJ with their limit traps (R397); MOV, LI, LIN, LIB and LEAC;
MFS and MTS of each special register, a unit register only after what is in flight for it has landed (R396), FLG keeping bits [4:0]. -/
def Obligations.BenxisMemoryStackAndMoves : Prop :=
  (
    ∀ (s : State) (n : Nat) (f : BxFields) (len : Nat), f.vec = false →
      let c := coreAt s n
      let a := (addrOf c f).toNat
      let word := memWord c.mem a
      let y := regW c f.rd
      let part := fun k : Nat => leNat (slice (twBytes word) (a % 8) k)
      AddrTags c f →
      (Runs s n 0x23 f len → exec (.bxLea n f) s = .next (rdNext s n f len { d := addrOf c f, tag := 4 })) ∧
      (Runs s n 0x1C f len → Reachable c a 8 → word.tag < 8 → exec (.bxLd8 n f) s = .next (rdNext s n f len word)) ∧
      (word.tag < 8 → isPublicRef word.tag = false →
        (Runs s n 0x1D f len → Reachable c a 4 → exec (.bxLd4 n f) s = .next (rdNext s n f len (mkTW word.tag (part 4)))) ∧
        (Runs s n 0x1E f len → Reachable c a 4 → exec (.bxLd4s n f) s = .next (rdNext s n f len (mkTW word.tag (ofSigned 64 (toSigned 32 (part 4)))))) ∧
        (Runs s n 0x1F f len → Reachable c a 2 → exec (.bxLd2 n f) s = .next (rdNext s n f len (mkTW word.tag (part 2)))) ∧
        (Runs s n 0x20 f len → Reachable c a 2 → exec (.bxLd2s n f) s = .next (rdNext s n f len (mkTW word.tag (ofSigned 64 (toSigned 16 (part 2)))))) ∧
        (Runs s n 0x21 f len → Reachable c a 1 → exec (.bxLd1 n f) s = .next (rdNext s n f len (mkTW word.tag (part 1)))) ∧
        (Runs s n 0x22 f len → Reachable c a 1 → exec (.bxLd1s n f) s = .next (rdNext s n f len (mkTW word.tag (ofSigned 64 (toSigned 8 (part 1))))))) ∧
      (Runs s n 0x24 f len → y.tag < 8 → Reachable c a 8 → word.tag ≠ 5 → exec (.bxSt8 n f) s = .next (past s n f len (withWord c a y))) ∧
      (check1 accSub (opRd c f) = .ok () → isPublicRef word.tag = false →
        let put := fun k : Nat => past s n f len (withWord c a (subStore word (a % 8) (leBytes k y.d.toNat) y.tag))
        (Runs s n 0x25 f len → Reachable c a 4 → exec (.bxSt4 n f) s = .next (put 4)) ∧
        (Runs s n 0x26 f len → Reachable c a 2 → exec (.bxSt2 n f) s = .next (put 2)) ∧
        (Runs s n 0x27 f len → Reachable c a 1 → exec (.bxSt1 n f) s = .next (put 1)))) ∧
  (
    ∀ (s : State) (n : Nat) (f : BxFields) (len : Nat), f.vec = false →
      let c := coreAt s n
      let d := c.dsp.d.toNat
      let x := regW c f.rs1
      let next := c.pc + BitVec.ofNat 64 len
      let m : UnitOp := c.mul.getD { lo := c.mlo, hi := c.mhi }
      let q : UnitOp := c.div.getD { lo := c.quo, hi := c.rem }
      (Runs s n 0x28 f len → x.tag < 8 →
        (d < c.dsLow + 8 → exec (.bxPush n f) s = .next (enterTrap s n { code := 0x0E, info := (c.dsp.d - 8).toNat })) ∧
        (c.dsLow + 8 ≤ d → Reachable c (d - 8) 8 → (memWord c.mem (d - 8)).tag ≠ 5 →
          exec (.bxPush n f) s = .next (past s n f len { withWord c (d - 8) x with dsp := mkTW 4 (d - 8) }))) ∧
      (Runs s n 0x29 f len →
        (c.dsHigh < d + 8 → exec (.bxPop n f) s = .next (enterTrap s n { code := 0x0E, info := d + 8 })) ∧
        (d + 8 ≤ c.dsHigh → Reachable c d 8 → (memWord c.mem d).tag < 8 →
          exec (.bxPop n f) s = .next (past s n f len { withReg c f.rd (memWord c.mem d) with dsp := mkTW 4 (d + 8) }))) ∧
      (Runs s n 0x2A f len → f.i = true →
        exec (.bxDsadj n f) s = .next (if (c.dsHigh : Int) < d + f.imm.toInt then enterTrap s n { code := 0x0E, info := (c.dsp.d + f.imm).toNat }
          else past s n f len { c with dsp := { d := c.dsp.d + f.imm, tag := 4 } })) ∧
      (Runs s n 0x2A f len → f.i = false → (regW c f.rs2).tag = 1 ∨ (regW c f.rs2).tag = 2 →
        let y := (regW c f.rs2).d
        exec (.bxDsadj n f) s = .next (if (c.dsHigh : Int) < d + (if (regW c f.rs2).tag = 2 then (y.toNat : Int) else y.toInt)
          then enterTrap s n { code := 0x0E, info := (c.dsp.d + y).toNat } else past s n f len { c with dsp := { d := c.dsp.d + y, tag := 4 } })) ∧
      (Runs s n 0x39 f len → x.tag < 8 → exec (.bxMov n f) s = .next (rdNext s n f len x)) ∧
      (Runs s n 0x3A f len → exec (.bxLi n f) s = .next (rdNext s n f len { d := f.imm, tag := 1 })) ∧
      (Runs s n 0x3B f len → exec (.bxLin n f) s = .next (rdNext s n f len { d := f.imm, tag := 2 })) ∧
      (Runs s n 0x3C f len → exec (.bxLib n f) s = .next (rdNext s n f len { d := f.imm, tag := 3 })) ∧
      (Runs s n 0x38 f len → exec (.bxLeac n f) s = .next (rdNext s n f len { d := next + f.imm, tag := 5 })) ∧
      (Runs s n 0x3D f len →
        (f.rs1 = 7 → exec (.bxMfs n f) s = .next (rdNext s n f len { d := c.pc, tag := 5 })) ∧
        (f.rs1 = 6 → c.dsp.tag < 8 → exec (.bxMfs n f) s = .next (rdNext s n f len c.dsp)) ∧
        (f.rs1 = 5 → c.vff.tag < 8 → exec (.bxMfs n f) s = .next (rdNext s n f len c.vff)) ∧
        (f.rs1 = 4 → c.flg.tag < 8 → exec (.bxMfs n f) s = .next (rdNext s n f len c.flg)) ∧
        (f.rs1 < 2 → m.lo.tag < 8 → m.hi.tag < 8 → exec (.bxMfs n f) s =
          .next (past s n f len (withReg { c with mlo := m.lo, mhi := m.hi, mul := none } f.rd (if f.rs1 = 0 then m.lo else m.hi)))) ∧
        (2 ≤ f.rs1 → f.rs1 < 4 → q.lo.tag < 8 → q.hi.tag < 8 → exec (.bxMfs n f) s =
          .next (past s n f len (withReg { c with quo := q.lo, rem := q.hi, div := none } f.rd (if f.rs1 = 2 then q.lo else q.hi))))) ∧
      (Runs s n 0x3E f len → x.tag < 8 →
        (f.rd = 4 → exec (.bxMts n f) s = .next (past s n f len { c with flg := { d := x.d &&& 0x1F#64, tag := x.tag } })) ∧
        (f.rd = 5 → exec (.bxMts n f) s = .next (past s n f len { c with vff := x })) ∧
        (f.rd = 6 → exec (.bxMts n f) s = .next (if x.tag ≠ 4 then enterTrap s n { code := 5, reg := f.rs1, pos := 1 }
          else if x.d.toNat % 8 ≠ 0 then enterTrap s n { code := 0x0C, reg := f.rs1, pos := 1, info := x.d.toNat }
          else past s n f len { c with dsp := x })) ∧
        (f.rd = 0 → exec (.bxMts n f) s = .next (past s n f len { c with mlo := x, mhi := m.hi, mul := none })) ∧
        (f.rd = 1 → exec (.bxMts n f) s = .next (past s n f len { c with mlo := m.lo, mhi := x, mul := none })) ∧
        (f.rd = 2 → exec (.bxMts n f) s = .next (past s n f len { c with quo := x, rem := q.hi, div := none })) ∧
        (f.rd = 3 → exec (.bxMts n f) s = .next (past s n f len { c with quo := q.lo, rem := x, div := none }))))

/-- Branches, calls and returns: a conditional branch goes to the end of the instruction plus its offset when its condition on FLG holds
(R381); CALL pushes the return address, spilling the oldest 32 entries of a full stack, and traps with 0x0F when the spill area is full
too; RET pops it, and traps with 0x10 when both are empty (R398). An odd target traps with 0x0C (R380). -/
def Obligations.BenxisBranchesCallsReturns : Prop :=
  ∀ (s : State) (n : Nat) (f : BxFields) (len : Nat), f.vec = false →
    let c := coreAt s n
    let next := c.pc + BitVec.ofNat 64 len
    let dest := next + f.imm
    let z := c.flg.d.toNat.testBit 0
    let neg := c.flg.d.toNat.testBit 1
    let cy := c.flg.d.toNat.testBit 2
    let ov := c.flg.d.toNat.testBit 3
    let dz := c.flg.d.toNat.testBit 4
    let go := fun b : Bool => if b then jumpNext s n f c dest else past s n f len c
    (Runs s n 0x2B f len → exec (.bxB n f) s = .next (jumpNext s n f c dest)) ∧
    (c.flg.tag = 2 →
      (Runs s n 0x2C f len → exec (.bxBeq n f) s = .next (go z)) ∧ (Runs s n 0x2D f len → exec (.bxBne n f) s = .next (go (!z))) ∧
      (Runs s n 0x2E f len → exec (.bxBlt n f) s = .next (go (neg != ov))) ∧ (Runs s n 0x2F f len → exec (.bxBge n f) s = .next (go (neg == ov))) ∧
      (Runs s n 0x30 f len → exec (.bxBlo n f) s = .next (go cy)) ∧ (Runs s n 0x31 f len → exec (.bxBhs n f) s = .next (go (!cy))) ∧
      (Runs s n 0x32 f len → exec (.bxBov n f) s = .next (go ov)) ∧ (Runs s n 0x33 f len → exec (.bxBdz n f) s = .next (go dz))) ∧
    (∀ i target, (i = .bxCall n f ∧ Runs s n 0x34 f len ∧ target = dest ∨
        i = .bxCallr n f ∧ Runs s n 0x35 f len ∧ (regW c f.rs1).tag = 5 ∧ target = (regW c f.rs1).d) → target.toNat % 2 = 0 →
      exec i s = .next (
        if c.rstack.length < 64 then goNext s n f { c with rstack := next :: c.rstack } target
        else if (c.spill.length + 32) * 8 ≤ c.spillLen
          then goNext s n f { c with rstack := next :: c.rstack.take 32, spill := c.rstack.drop 32 ++ c.spill } target
        else enterTrap s n { code := 0x0F })) ∧
    (Runs s n 0x36 f len → (regW c f.rs1).tag = 5 → exec (.bxJr n f) s = .next (jumpNext s n f c (regW c f.rs1).d)) ∧
    (Runs s n 0x37 f len →
      (∀ a r, c.rstack = a :: r → exec (.bxRet n f) s = .next (jumpNext s n f { c with rstack := r } a)) ∧
      (∀ a r, c.rstack = [] → c.spill.take 32 = a :: r →
        exec (.bxRet n f) s = .next (jumpNext s n f { c with rstack := r, spill := c.spill.drop 32 } a)) ∧
      (c.rstack = [] → c.spill = [] → exec (.bxRet n f) s = .next (enterTrap s n { code := 0x10 })))

/-- Control: NOP and FENCE only advance the PC; STOP advances it and leaves the core STOPPED; RTT pops FLG and the address, and leaves the
handler; a popped address that is not CODE stops the core with double 1 (R401). -/
def Obligations.BenxisControl : Prop :=
  ∀ (s : State) (n : Nat) (f : BxFields) (len : Nat), f.vec = false →
    let c := coreAt s n
    let d := c.dsp.d.toNat
    (Runs s n 0x00 f len → exec (.bxNop n f) s = .next (past s n f len c)) ∧
    (Runs s n 0x04 f len → exec (.bxFence n f) s = .next (past s n f len c)) ∧
    (Runs s n 0x01 f len → ∃ t, exec (.bxStop n f) s = .next t ∧ (coreAt t n).state = 0 ∧ (coreAt t n).pc = c.pc + BitVec.ofNat 64 len ∧
      (coreAt t n).mem = c.mem ∧ (coreAt t n).w = c.w ∧ (coreAt t n).windows = c.windows) ∧
    (Runs s n 0x03 f len → d + 32 ≤ c.dsHigh → (∀ k < 4, Reachable c (d + 8 * k) 8 ∧ (memWord c.mem (d + 8 * k)).tag < 8) →
      let g := memWord c.mem d
      let p := memWord c.mem (d + 24)
      (p.tag = 5 → p.d.toNat % 2 = 0 →
        exec (.bxRtt n f) s = .next (putCore s n { c with flg := g, trapActive := false, dsp := mkTW 4 (d + 32), pc := p.d })) ∧
      (p.tag ≠ 5 → ∃ t, exec (.bxRtt n f) s = .next t ∧ (coreAt t n).state = 0 ∧ (coreAt t n).double = true))

/-- R399, R400, R401: TRAP enters the handler: the address of the instruction, the cause, the info word and FLG are pushed, trap_active is
set, last_code and traps are updated, and the core goes on at its trap vector; the memory below and above the frame, and every other
register, stays. A trap taken in a handler, or with no vector, or whose frame cannot be pushed, stops the core with double 1. -/
def Obligations.BenxisTrapEntersHandler : Prop :=
  ∀ (s : State) (n : Nat) (f : BxFields) (len : Nat), Runs s n 0x02 f len →
    let c := coreAt s n
    let d := c.dsp.d.toNat
    (∀ v, c.trapActive = false → c.trapVec = some v → frameBlocked c = false →
      ∃ m, exec (.bxTrap n f) s = .next (putCore s n { c with
          mem := m, dsp := mkTW 4 (d - 32), trapActive := true, pc := BitVec.ofNat 64 v, lastCode := f.imm.toNat,
          traps := satAdd 0xFFFF c.traps 1 }) ∧
        memWord m (d - 8) = { d := c.pc, tag := 5 } ∧ memWord m (d - 16) = mkTW 2 f.imm.toNat ∧ memWord m (d - 24) = mkTW 2 0 ∧
        memWord m (d - 32) = c.flg ∧ ∀ a, a < d - 32 ∨ d ≤ a → memWord m a = memWord c.mem a) ∧
    (c.trapActive = true ∨ c.trapVec = none ∨ frameBlocked c = true →
      ∃ t, exec (.bxTrap n f) s = .next t ∧ (coreAt t n).state = 0 ∧ (coreAt t n).double = true ∧ (coreAt t n).lastCode = f.imm.toNat ∧
        (coreAt t n).traps = satAdd 0xFFFF c.traps 1 ∧ (coreAt t n).mem = c.mem ∧ (coreAt t n).w = c.w)

/-- Rings of paddock code, part one (R414): QOPEN enables the queue on yard cells with P, A and T at the index, or refuses with the code of
Table 07.14; QCLOSE drains it; QCTL continues a HALTED and resumes a HELD queue; JSTAT reads its cursors and state. -/
def Obligations.BenxisRingControl : Prop :=
  ∀ (s : State) (n : Nat) (f : BxFields) (len : Nat),
    let c := coreAt s n
    let p := corePad s n
    (∀ a b, Runs s n 0x60 f len → runtimeTwo c f accNat accNat = .ok (a, b) →
      let q := bits a 0 16
      let k := bits a 16 5
      let refuse := fun r : Nat => exec (.bxQopen n f) s = .next (rdPast s n f len (mkTW 2 r))
      (padOfQueue s q ≠ some p → refuse 1) ∧
      (padOfQueue s q = some p → (qAt s q).state ≠ 0 → refuse 2) ∧
      (padOfQueue s q = some p → (qAt s q).state = 0 → k < 4 ∨ 16 < k ∨ 2 ^ (k + 1) ≤ b → refuse 3) ∧
      (padOfQueue s q = some p → (qAt s q).state = 0 → 4 ≤ k → k ≤ 16 → b < 2 ^ (k + 1) →
        ((padRec s p).yardCells < yardHeld s p + 2 ^ (k - 1) → refuse 5) ∧
        (yardHeld s p + 2 ^ (k - 1) ≤ (padRec s p).yardCells →
          ∃ t, exec (.bxQopen n f) s = .next t ∧ regW (coreAt t n) f.rd = mkTW 2 0 ∧ (coreAt t n).pc = c.pc + BitVec.ofNat 64 len ∧
            (qAt t q).state = 1 ∧ (qAt t q).bx = true ∧ (qAt t q).k = k ∧ (qAt t q).p = b ∧ (qAt t q).a = b ∧ (qAt t q).t = b ∧
            (qAt t q).gen = ((qAt s q).gen + 1) % 65536 ∧ (qAt t q).ringCells = 2 ^ (k - 1) ∧ ∀ r ≠ q, qAt t r = qAt s r))) ∧
    (∀ a, Runs s n 0x61 f len → runtimeOne c f accNat = .ok a →
      let q := a % 65536
      (padOfQueue s q ≠ some p → exec (.bxQclose n f) s = .next (rdPast s n f len (mkTW 2 1))) ∧
      (padOfQueue s q = some p → ((qAt s q).bx = false ∨ (qAt s q).state ≠ 1 ∧ (qAt s q).state ≠ 2) →
        exec (.bxQclose n f) s = .next (rdPast s n f len (mkTW 2 2))) ∧
      (ownRing s p q = true → (qAt s q).state = 1 ∨ (qAt s q).state = 2 →
        exec (.bxQclose n f) s = .next (rdPast (beginDrain s q) n f len (mkTW 2 0)))) ∧
    (∀ a b, Runs s n 0x62 f len → runtimeTwo c f accNat accNat = .ok (a, b) → 3 ≤ b → b ≤ 5 →
      let q := a % 65536
      (padOfQueue s q ≠ some p → exec (.bxQctl n f) s = .next (rdPast s n f len (mkTW 2 1))) ∧
      (padOfQueue s q = some p → (qAt s q).bx = false → exec (.bxQctl n f) s = .next (rdPast s n f len (mkTW 2 2))) ∧
      (ownRing s p q = true →
        (b = 3 → (qAt s q).state = 2 → exec (.bxQctl n f) s = .next (rdPast (continueQueue s q) n f len (mkTW 2 0))) ∧
        (b = 4 → (qAt s q).state = 5 → exec (.bxQctl n f) s = .next (rdPast (resumeQueue s q) n f len (mkTW 2 0))) ∧
        (b = 5 → (qAt s q).state = 5 → exec (.bxQctl n f) s = .next (rdPast (forgetQueue s q) n f len (mkTW 2 0))) ∧
        ((qAt s q).state ≠ (if b = 3 then 2 else 5) → exec (.bxQctl n f) s = .next (rdPast s n f len (mkTW 2 2))))) ∧
    (∀ a, Runs s n 0x65 f len → runtimeOne c f accNat = .ok a →
      let x := qAt s (a % 65536)
      exec (.bxJstat n f) s = .next (rdPast s n f len
        (mkTW 2 (if padOfQueue s (a % 65536) = some p then x.p + x.a * 2 ^ 17 + x.t * 2 ^ 34 + x.state * 2 ^ 51 else 0))))

/-- Rings of paddock code, part two (R413 to R416): JSUB copies the sixteen descriptor words into the slot at P, a PTR as a paddock address, and
moves P, or answers all ones for a full ring; JCPL stores the eight words of a matching completion; WAIT returns NAT 1 at once when the
marker matches and else waits; WAIT_END ends it with 1 on a match and 0 on a timeout.
Feed FIFOs and windows from paddock code (R369, R410, R412): FPUT appends one entry to a FIFO with room and answers 1, else 0; FSTAT reads the
FIFO's status word; FDROP drops a packet; WOPEN opens the lowest free window where R410 allows it; WCLOSE closes one. -/
def Obligations.BenxisRingUseFeedsAndWindows : Prop :=
  (
    ∀ (s : State) (n : Nat) (f : BxFields) (len : Nat),
      let c := coreAt s n
      let p := corePad s n
      (∀ a b, Runs s n 0x63 f len → runtimeTwo c f accPtr accNat = .ok (a, b) → a % 8 = 0 → a + 128 ≤ 2 ^ 20 → inSpill c a 128 = false →
        let q := b % 65536
        let x := qAt s q
        (∀ t, descFault c.mem a = some t → exec (.bxJsub n f) s = .next (enterTrap s n t)) ∧
        (descFault c.mem a = none → ownRing s p q = true → x.state = 1 ∨ x.state = 2 →
          (dist x.k x.t x.p = 2 ^ x.k → exec (.bxJsub n f) s = .next (rdPast s n f len (mkTW 2 (2 ^ 64 - 1)))) ∧
          (dist x.k x.t x.p ≠ 2 ^ x.k →
            ∃ t, exec (.bxJsub n f) s = .next t ∧ regW (coreAt t n) f.rd = mkTW 2 ((x.p + 1) % 2 ^ (x.k + 1)) ∧
              (qAt t q).p = (x.p + 1) % 2 ^ (x.k + 1) ∧ smGet [] (qAt t q).ring (x.p % 2 ^ x.k) = ringEntry n c.mem a ∧
              (qAt t q).a = x.a ∧ (qAt t q).t = x.t ∧ (∀ j, j ≠ x.p % 2 ^ x.k → smGet [] (qAt t q).ring j = smGet [] x.ring j) ∧
              ∀ r ≠ q, qAt t r = qAt s r)) ∧
        (descFault c.mem a = none → ownRing s p q = true → x.state = 5 → dist x.k x.t (x.heldBell.getD x.p) ≠ 2 ^ x.k →
          ∃ t, exec (.bxJsub n f) s = .next t ∧ (qAt t q).p = x.p ∧ (qAt t q).heldBell = some ((x.heldBell.getD x.p + 1) % 2 ^ (x.k + 1)) ∧
            regW (coreAt t n) f.rd = mkTW 2 ((x.heldBell.getD x.p + 1) % 2 ^ (x.k + 1)))) ∧
      (∀ a b, Runs s n 0x64 f len → runtimeTwo c f accPtr accNat = .ok (a, b) →
        let q := bits b 0 16
        let i := bits b 16 17
        (markerMatches s p q i = false → exec (.bxJcpl n f) s = .next (rdPast s n f len (mkTW 2 0))) ∧
        (∀ c1, markerMatches s p q i = true → storeWords c a (cplWords (qAt s q) i) = .ok c1 →
          exec (.bxJcpl n f) s = .next (rdPast (putCore s n c1) n f len (mkTW 2 1))) ∧
        (∀ t, markerMatches s p q i = true → storeWords c a (cplWords (qAt s q) i) = .error t → exec (.bxJcpl n f) s = .next (enterTrap s n t))) ∧
      (∀ a b, Runs s n 0x66 f len → runtimeTwo c f accNat accNat = .ok (a, b) →
        (markerMatches s p (bits a 0 16) (bits a 16 17) = true →
          ∃ t, exec (.bxWait n f) s = .next t ∧ regW (coreAt t n) f.rd = mkTW 2 1 ∧ (coreAt t n).pc = c.pc + BitVec.ofNat 64 len ∧
            (coreAt t n).waiting = none) ∧
        (markerMatches s p (bits a 0 16) (bits a 16 17) = false →
          exec (.bxWait n f) s = .next (modCore s n fun x => { x with waiting := some { queue := bits a 0 16, index := bits a 16 17, rd := f.rd, len := len } }))) ∧
      (∀ x, c.waiting = some x →
        let out := fun v : Nat => Host.Outcome.next (putCore s n { withReg c x.rd (mkTW 2 v) with pc := c.pc + BitVec.ofNat 64 x.len, waiting := none })
        exec (.waitEnd n true) s = out 0 ∧ (markerMatches s p x.queue x.index = true → exec (.waitEnd n false) s = out 1) ∧
        (markerMatches s p x.queue x.index = false → exec (.waitEnd n false) s = .next s))) ∧
  (
    ∀ (s : State) (n : Nat) (f : BxFields) (len : Nat),
      let c := coreAt s n
      let p := corePad s n
      (∀ a b, Runs s n 0x67 f len → runtimeTwo c f accFput accNat = .ok (a, b) →
        let k := p * 16 + bits b 0 4
        (2048 ≤ (feedAt s k).entries.length → exec (.bxFput n f) s = .next (rdPast s n f len (mkTW 2 0))) ∧
        ((feedAt s k).entries.length < 2048 →
          let e : FeedEntry := { data := leBytes (min 8 (bits b 4 4 + 1)) a, eop := b.testBit 8, tag := (regW c f.rs1).tag }
          let push := fun y : Feed => { y with entries := y.entries ++ [e] }
          exec (.bxFput n f) s = .next (rdPast (modFeed s k fun y => if y.dropping then discardFeed (push y) else push y) n f len (mkTW 2 1)))) ∧
      (∀ a, Runs s n 0x68 f len → runtimeOne c f accNat = .ok a →
        let x := feedAt s (p * 16 + a)
        exec (.bxFstat n f) s = .next (rdPast s n f len
          (mkTW 2 (if a < 16 then b1 x.stopped + 2 * b1 x.atStart + x.entries.length * 2 ^ 16 + x.dropped * 2 ^ 32 else 0)))) ∧
      (∀ a, Runs s n 0x69 f len → runtimeOne c f accNat = .ok a →
        exec (.bxFdrop n f) s = .next (pcPast (if a < 16 then modFeed s (p * 16 + a) dropFeed else s) n len)) ∧
      (Runs s n 0x6A f len → check1 accNat (opRs2 c f immNat) = .ok () →
        let v := (opRs2 c f immNat).x.d.toNat
        let a := (regW c f.rs1).d.toNat
        (freeWindow c = none → (regW c f.rs1).tag = (if v.testBit 22 then 2 else 4) → exec (.bxWopen n f) s = .next (rdPast s n f len (mkTW 2 0))) ∧
        (∀ i, freeWindow c = some i → (regW c f.rs1).tag = 4 → v.testBit 22 = false →
          let w : Window := { num := i, feed := false, base := a, len := bits v 0 21, write := v.testBit 21 }
          exec (.bxWopen n f) s = .next (
            if w.base % 4096 = 0 ∧ w.len % 4096 = 0 ∧ 4096 ≤ w.len ∧ w.base + w.len ≤ 2 ^ 20 ∧
                ∀ x ∈ c.windows, x.feed = false → areasMeet (x.base, x.len) (w.base, w.len) = false
            then rdPast (modCore s n fun k => { k with windows := k.windows ++ [w] }) n f len (mkTW 2 (i + 1))
            else rdPast s n f len (mkTW 2 0))) ∧
        (∀ i, freeWindow c = some i → (regW c f.rs1).tag = 2 → v.testBit 22 = true →
          let w : Window := { num := i, feed := true, base := a, len := bits v 0 21, write := v.testBit 21 }
          exec (.bxWopen n f) s = .next (
            if a < 16 ∧ windowMeets s p n { w with num := 0 } = false
            then rdPast (modCore s n fun k => { k with windows := k.windows ++ [w] }) n f len (mkTW 2 (i + 1))
            else rdPast s n f len (mkTW 2 0)))) ∧
      (∀ a, Runs s n 0x6B f len → runtimeOne c f accNat = .ok a →
        exec (.bxWclose n f) s = .next (pcPast (modCore s n fun k => { k with windows := k.windows.filter fun w => w.num != a }) n len)))

/-- Other cores, random words and measurement from paddock code: CSTART loads another STOPPED core of the paddock from the caller's memory, and
answers 1, or 0 where it may not; CSTOP stops one; RAND writes the first 8 bytes of the paddock's CTR_DRBG as SECRET, after a reseed that is due; MEXT extends a
measurement register for a core with extend rights (R296, R403, R407, R323, R408). -/
def Obligations.BenxisCoresRandomAndMeasurement : Prop :=
  ∀ (s : State) (n : Nat) (f : BxFields) (len : Nat),
    let c := coreAt s n
    let p := corePad s n
    (∀ a b, Runs s n 0x6C f len → runtimeTwo c f accPtr accNat = .ok (a, b) →
      let size := 64 + u32 (memRead c.mem a 64) 0x0C + u32 (memRead c.mem a 64) 0x14
      rangeFault c a 64 = none → rangeFault c a size = none → imageFault c.mem a size = none →
      (b ≠ n → b < 16 → padOfCore s b = some p → (coreAt s b).retired = false → (coreAt s b).state = 0 →
        exec (.bxCstart n f) s = .next (rdPast (beginLoad s b 2 n (memRead c.mem a size) c.boot) n f len (mkTW 2 1))) ∧
      (b < 16 → padOfCore s b = some p → b = n ∨ (coreAt s b).retired = true →
        exec (.bxCstart n f) s = .next (rdPast (modCore s b fun k => { k with cmdErr := 1 }) n f len (mkTW 2 0))) ∧
      (b ≠ n → b < 16 → padOfCore s b = some p → (coreAt s b).retired = false → (coreAt s b).state ≠ 0 →
        exec (.bxCstart n f) s = .next (rdPast (modCore s b fun k => { k with cmdErr := 2 }) n f len (mkTW 2 0))) ∧
      (16 ≤ b → exec (.bxCstart n f) s = .next (rdPast s n f len (mkTW 2 0))) ∧
      (b < 16 → padOfCore s b ≠ some p → exec (.bxCstart n f) s = .next (rdPast s n f len (mkTW 2 0)))) ∧
    (∀ a, Runs s n 0x6D f len → runtimeOne c f accNat = .ok a →
      let refused := modCore s a fun k => { k with cmdErr := 2 }
      let stopped := stopCore (modCore s a fun k => { k with cmdErr := 0 }) a
      exec (.bxCstop n f) s = .next (pcPast (if a ≠ n ∧ a < 16 ∧ padOfCore s a = padOfCore s n then
        (if (coreAt s a).state = 0 then refused else stopped) else s) n len)) ∧
    (Runs s n 0x6E f len → let t := if sourceServes s = true then dueReseed s p else s
      (drbgServes t p = true → exec (.bxRand n f) s = .next (rdPast (afterRequest t p 8) n f len
        (mkTW 7 (leNat ((ctrBlocks (aesKeys (padAt t p).drbg.key) 1 (beNat (padAt t p).drbg.v)).take 8))))) ∧
      (drbgServes t p = false → exec (.bxRand n f) s = .next (rdPast t n f len {}))) ∧
    (∀ a b, Runs s n 0x6F f len → runtimeTwo c f accNat accPtr = .ok (a, b) → rangeFault c b 48 = none →
      (∀ i ∈ wordsTouched b 48, (smGet {} c.mem i).tag < 7) →
      exec (.bxMext n f) s = .next (if a < 16 ∧ extendRights s p = true then rdPast (extendMr s p a (memRead c.mem b 48)) n f len (mkTW 2 1)
        else rdPast s n f len (mkTW 2 0)))

/-- Every encoding of Tables 17.2 to 17.4 reads back: the decoder takes the encoder's bytes of legal fields, whatever stands behind them, to
the same opcode and fields, and to their length. -/
def Obligations.BenxisDecodeOfEncode : Prop :=
  ∀ (op : Nat) (f : BxFields) (rest : List Byte), bxLegal op f = true → fieldsOk f = true →
    bxDecode (bxEncode op f ++ rest) = some (op, f, (bxEncode op f).length)

/-- Every instruction that decodes has one spelling: its fields are legal (R380), and the encoder gives back the bytes it was read from. -/
def Obligations.BenxisEncodeOfDecode : Prop :=
  ∀ (b : List Byte) (op : Nat) (f : BxFields) (len : Nat), bxDecode b = some (op, f, len) → len ≤ b.length →
    bxLegal op f = true ∧ fieldsOk f = true ∧ bxEncode op f = b.take len

/-- R384: two sources that its rules reject trap before anything is written: a reserved tag with 0x03, POISON with 0x04, SECRET beside a PTR,
CODE or HANDLE with 0x06, and two public tags that neither agree nor form a listed pair with 0x05. -/
def Obligations.BenxisRejectedSourcesTrap : Prop :=
  ∀ (s : State) (n : Nat) (f : BxFields) (len : Nat), f.vec = false → ∀ r ∈ pairRows n f, Runs s n r.1 f len →
    let c := coreAt s n
    let x := opRs1 c f
    let y := opRs2 c f r.2.2.2.2.2
    let go := check2 r.2.2.1 r.2.2.2.1 r.2.2.2.2.1 x y
    let traps := fun (o : Opd) (code : Nat) => exec r.2.1 s = .next (enterTrap s n { code := code, reg := o.reg, pos := o.pos })
    (∀ t, go = .error t → exec r.2.1 s = .next (enterTrap s n t)) ∧
    (8 ≤ x.x.tag → traps x 3) ∧ (x.x.tag < 8 → 8 ≤ y.x.tag → traps y 3) ∧
    (x.x.tag = 0 → y.x.tag < 8 → traps x 4) ∧ (0 < x.x.tag → x.x.tag < 8 → y.x.tag = 0 → traps y 4) ∧
    (x.x.tag = 7 → y.x.tag = 4 ∨ y.x.tag = 5 ∨ y.x.tag = 6 → traps x 6) ∧ (x.x.tag = 4 ∨ x.x.tag = 5 ∨ x.x.tag = 6 → y.x.tag = 7 → traps y 6) ∧
    (0 < x.x.tag → x.x.tag < 7 → 0 < y.x.tag → y.x.tag < 7 → entry r.2.2.1 x.x.tag = 0 → entry r.2.2.2.1 y.x.tag = 0 →
      r.2.2.2.2.1 x.x.tag y.x.tag = none → traps y 5)

/-- Loading, running, halting and stopping a core from outside (Tables 18.1, 18.3): BX_BOOT and LOAD begin a load of a STOPPED core, reading
the image from host memory; the load's end writes code, data and registers, measures the image into register 0 and runs the core, or
refuses an invalid image with cmd_err 3; STOP stops; debug halt and resume; DROP; the vector unit powers down unless vec_on. -/
def Obligations.CoreLoadRunStop : Prop :=
  ∀ (s : State) (fn n : Nat) (v : W64) (img : List Byte),
    let c := coreAt s n
    let begun := fun (m source : Nat) => emit (beginLoad s m source fn img false) (.readRequest fn (fnAt s fn).bxImgAddr img.length)
    (∀ p, regsUp s fn = true → p = bits v.toNat 0 5 → padPresent s p = true → (fn = 0 ∨ padOfFn s fn = some p ∧ (padRec s p).hostLoad = true) →
      (coresOfPad s p).head? = some n → padOfCore s n = some p → c.retired = false → (∀ m ∈ coresOfPad s p, (coreAt s m).state = 0) →
      exec (.bxBoot fn v img) s = .next (begun n 0)) ∧
    (∀ p, coreCmdUp s fn n = true → bits v.toNat 0 4 = 1 → padOfFn s fn = some p → (padRec s p).hostLoad = true → c.retired = false → c.state = 0 →
      exec (.coreLoad fn n v img) s = .next (begun n 1)) ∧
    (∀ o p, c.loading = some o → padOfCore s n = some p → c.state = 1 → o.waitShed = false → loadImageOk o.image = true →
      ∃ t, exec (.coreLoadDone n) s = .next t ∧
        coreAt t n = { startedCore c o.image with boot := o.source == 0 || (o.source == 2 && o.fromBoot) } ∧
        smGet (zeros 48) (padAt t p).mrs 0 =
          sha3_384 (smGet (zeros 48) (padAt s p).mrs 0 ++ (leBytes 1 n ++ leBytes 1 o.source ++ zeros 6 ++ sha3_384 o.image)) ∧
        (padAt t p).extendLost = ((padAt s p).extendLost || o.source == 1)) ∧
    (∀ o p, c.loading = some o → padOfCore s n = some p → c.state = 1 → o.waitShed = false → loadImageOk o.image = false →
      ∃ t, exec (.coreLoadDone n) s = .next t ∧ (coreAt t n).state = 0 ∧ (coreAt t n).cmdErr = 3 ∧ (coreAt t n).loading = none) ∧
    (coreCmdUp s fn n = true → bits v.toNat 0 4 = 2 →
      (c.state = 2 ∨ c.state = 3 → ∃ t, exec (.coreStop fn n v) s = .next t ∧ (coreAt t n).state = 0 ∧ (coreAt t n).cmdErr = 0 ∧
        (coreAt t n).mem = c.mem ∧ (coreAt t n).windows = c.windows) ∧
      (c.state ≠ 2 → c.state ≠ 3 → exec (.coreStop fn n v) s = .next (modCore s n fun k => { k with cmdErr := 2 }))) ∧
    (debugReaches s n = true → c.state = 2 → exec (.debugHalt n) s = .next (modCore s n fun k => { endWait k 0 with state := 3 })) ∧
    (debugReaches s n = true → c.state = 3 → exec (.debugResume n) s = .next (modCore s n fun k => { k with state := 2 })) ∧
    (∀ p k, regsUp s fn = true → k < 16 → bits v.toNat 0 4 = 1 → padOfFn s fn = some p →
      exec (.feedDrop fn k v) s = .next (modFeed s (p * 16 + k) dropFeed)) ∧
    (c.vecOn = false → exec (.vectorUnitPowerDown n) s = .next (modCore s n fun k => { k with vecUp := false })) ∧
    (c.vecOn = true → exec (.vectorUnitPowerDown n) s = .next s)

/-- Every job (R220): a command for a job that does not run changes nothing; outputs that do not fit end it ST_CAPACITY with the lengths
needed, before any input is read. -/
def Obligations.JobsRunOrLackRoom : Prop :=
  ∀ (s : State) (j : Job) (inp : OpInput), ∀ row, JobRow row →
    (∀ seq, runningJob s seq row.1 = none → exec (row.2.1 seq inp) s = .next s) ∧
    (∀ d n, runningJob s j.seq row.1 = some j → row.2.2 s j = n → capacityDetail j.desc n = d → d ≠ 0 →
      EndsWith s j (row.2.1 j.seq inp) { status := 0x0300 + d, len0 := n.1, len1 := n.2 })

/-- Key generation (R205, R206, R228, R237, R254, R261, R266, R275, R277, R282): the private key follows from the values captured at acceptance,
the public key of FIPS 203, FIPS 204, FIPS 205, Classic McEliece, RFC 8017, FIPS 186-5, RFC 8032 or RFC 7748 goes to out0 and the wrapped private key
to out1; a stateful key fills its slot, its reservation begins with one batch, and its completion waits for the hayloft. HQC's bytes are
opaque (log 4). -/
def Obligations.KeyGenerationJobs : Prop :=
  ∀ (s : State) (j : Job) (inp : OpInput),
    let cap := captured s j
    let ps := j.desc.paramSet
    let alg := (algOf j.desc).getD 0
    let pk := pkSize alg ps
    let fits := capacityDetail j.desc (pk, heldLen alg ps + 80) = 0
    let nist := nistScalar alg ps (cap 2 0 (ordWidth alg + 8))
    let seed := cap 2 0 (heldLen alg ps)
    let e := if inl32 j.desc 0x40 = 0 then 65537 else inl32 j.desc 0x40
    let rsa := rsaHeld ps (cap 2 0 64) e
    let slh := cap 2 0 (3 * slhN ps)
    let root := slhRoot ps (slh.take (slhN ps)) (slh.drop (2 * slhN ps))
    let levels := slice j.desc.inline 0 8
    (∀ row ∈ [(0x0100, Instr.opMlkemKeygen, keyPair s j 3 alg (mlkemPublic ps (cap 2 0 64)) (cap 2 0 64)),
        (0x0110, .opMldsaKeygen, keyPair s j 2 alg (mldsaPublic ps (cap 2 0 32)) (cap 2 0 32)),
        (0x0200, .opSlhdsaKeygen, keyPair s j 2 alg (slh.drop (2 * slhN ps) ++ root) (slh ++ root)),
        (0x0310, .opHqcKeygen, keyPair s j 3 alg (made j [cap 2 0 32] 0 pk) (cap 2 0 32)),
        (0x0400, .opRsaKeygen, keyPair s j (if alg = 74 then 3 else 2) alg (rsaPublic ps rsa) rsa),
        (0x0410, .opEcdsaKeygen, keyPair s j 2 alg (nistPublic ps nist) nist), (0x0418, .opEcdhKeygen, keyPair s j 3 alg (nistPublic ps nist) nist),
        (0x0420, .opEddsaKeygen, keyPair s j 2 alg (edPublic ps seed) seed), (0x0428, .opXdhKeygen, keyPair s j 3 alg (xPublic ps seed) seed)],
      Executes s row.1 j → fits → EndsWith s j (row.2.1 j.seq inp) row.2.2) ∧
    (∀ pub held n, Executes s 0x0300 j → fits → mceGenerate ps 65536 0 (cap 2 0 32) = some (pub, held, n) →
      Streams s j (.opMceKeygen j.seq inp) pub (sealBlob s j 3 alg ps (clearBit j.keyWord 11) held)) ∧
    (∀ row ∈ [(0x0210, Instr.opLmsKeygen, cap 2 0 (hbsN ps + 16), hssPublic ps (cap 2 0 (hbsN ps + 16)) levels),
        (0x0220, .opXmssKeygen, cap 2 0 (3 * hbsN ps), xmssPublic ps (cap 2 0 (3 * hbsN ps)))],
      Executes s row.1 j → capacityDetail j.desc (pk, 0) = 0 → j.issued = false →
      let n := hIdx j.desc.keyRef
      ∃ t, exec (row.2.1 j.seq inp) s = .next t ∧ Finished s t j (okOut row.2.2.2 []) false ∧ ((jobOf t j.seq).map (·.waitHayloft)) = some true ∧
        (slotAt t n).cls = 5 ∧ (slotAt t n).alg = alg ∧ (slotAt t n).material = row.2.2.1 ∧ (slotAt t n).attrs = statefulAttrs j.paddock ∧
        hbsAt t n = { present := true, paramSet := ps, levels := levels, batchLog2 := inl8 j.desc 0x48, lowMark := inl32 j.desc 0x4C,
                      h := min (2 ^ inl8 j.desc 0x48) (hbsTotal alg ps levels), paddock := j.paddock })

/-- Encapsulation, agreement, encryption, signing and verification (R207, R208, R213 to R219, R227 to R233, R239 to R245, R248, R261 to R265,
R274 to R286): operands in the order of their chapters, values captured at acceptance, an inline public key checked first and refused
with its reason, a verdict with ST_OK always, a failed self-check of an RSA result a stall fault. HQC's bytes are opaque (log 4). -/
def Obligations.PublicKeyJobs : Prop :=
  ∀ (s : State) (j : Job) (inp : OpInput),
    let cap := captured s j
    let d := j.desc
    let ps := d.paramSet
    let alg := (algOf d).getD 0
    let i := hostIn j inp
    let sig := i.in1.take (sigSize alg ps)
    let inline1 := i.in1.drop (sigSize alg ps)
    let fits := capacityDetail d (outSizes d alg [] 0) = 0
    let keyed := fun (inlineKey : Bytes) => if d.keyRef ≠ 0 then cachedKey s j else inlineKey
    let sound := fun (a : Nat) (inlineKey : Bytes) => d.keyRef ≠ 0 ∨ keyCheck a ps inlineKey = none
    let m := formatted d i.ext i.in0
    let held := jobKey s j
    let kem := mlkemEncaps ps (keyed i.in0) (cap 3 0 32)
    let hqc := [keyed i.in0, cap 3 0 (8 * (ps + 1) + 16)]
    let nist := nistScalar alg ps (cap 3 0 (ordWidth alg + 8))
    let xdh := cap 3 0 (heldLen alg ps)
    let salt := if inl8 d 0x40 = 0 ∧ inl8 d 0x42 ≠ 0 then cap 1 0 (inl8 d 0x42) else []
    let rsaDoes := rsaPrivate (rsaKeyOf ps held) (leNat (cap 4 0 (8 * ps))) (u64 (cap 4 1 16) 0) (u64 (cap 4 1 16) 8)
    let selfCheck := fun (c : Instr) => exec c s = .next (settle (raiseFault (takeInputs s j) (j.stall.getD 0) 0x0C false 0 0))
    let decoded := fun em => oaepDecode (8 * ps) (inl8 d 0x41) (beBytes (8 * ps) em)
    (∀ row ∈ [(0x0101, Instr.opMlkemEncaps, alg, i.in0, okOut kem.2 kem.1), (0x0311, .opHqcEncaps, alg, i.in0, okOut (made j hqc 0 (outSizes d alg [] 0).1) (made j hqc 1 32)),
        (0x0402, .opRsaVerify, alg, inline1, verdict (rsaVerify ps (keyed inline1) (inl8 d 0x40) (inl8 d 0x41) (inl8 d 0x42) i.in0 sig)),
        (0x0403, .opRsaEncrypt, 74, i.in1, okOut (rsaEncrypt ps (keyed i.in1) (inl8 d 0x41) i.in0 (cap 3 0 (phLen (inl8 d 0x41)))) []),
        (0x0412, .opEcdsaVerify, alg, inline1, verdict (ecdsaVerify ps (keyed inline1) i.in0 sig)),
        (0x0422, .opEddsaVerify, alg, inline1, verdict (edVerify ps (inl8 d 0x40) (keyed inline1) i.ext i.in0 sig))],
      Executes s row.1 j → fits →
        (sound row.2.2.1 row.2.2.2.1 → EndsWith s j (row.2.1 j.seq inp) row.2.2.2.2) ∧
        (∀ reason x, d.keyRef = 0 → keyCheck row.2.2.1 ps row.2.2.2.1 = some (reason, x) → EndsWith s j (row.2.1 j.seq inp) (refuseInput reason x))) ∧
    (Executes s 0x0301 j → fits →
      (∀ e, sound alg i.in0 → mceError ps (cap 3 0 32) 65536 0 = some e → EndsWith s j (.opMceEncaps j.seq inp)
        (okOut (mceEncode ps (keyed i.in0) e) (mceHash 1#8 (mceVector ps e) (mceEncode ps (keyed i.in0) e)))) ∧
      (∀ reason x, d.keyRef = 0 → keyCheck alg ps i.in0 = some (reason, x) → EndsWith s j (.opMceEncaps j.seq inp) (refuseInput reason x))) ∧
    (∀ row ∈ [(0x0102, Instr.opMlkemDecaps, okOut (mlkemDecaps ps held i.in0) []), (0x0302, .opMceDecaps, okOut (mceDecaps ps held i.in0) []),
        (0x0312, .opHqcDecaps, okOut (hqcDecaps ps held i.in0) []),
        (0x0112, .opMldsaVerify, verdict (mldsaVerify ps (keyed inline1) (mldsaMu (if d.keyRef ≠ 0 then cachedTr s j else mldsaTr inline1) m) sig)),
        (0x0202, .opSlhdsaVerify, verdict (slhVerify ps (keyed inline1) m sig)),
        (0x0212, .opLmsVerify, verdict (lmsAgrees ps (keyed i.ext) i.in1 && hssVerify ps (keyed i.ext) i.in0 i.in1)),
        (0x0222, .opXmssVerify, verdict (xmssAgrees alg ps (keyed i.ext) i.in1 && xmssVerify ps (keyed i.ext) i.in0 i.in1)),
        (0x0230, .opHbsQuery, okOut (hbsReport s j) []),
        (0x0411, .opEcdsaSign, okOut (ecdsaSign ps held i.in0 (if inl8 d 0x42 = 1 then [] else cap 1 0 32)) []),
        (0x0421, .opEddsaSign, okOut (edSign ps (inl8 d 0x40) held i.ext i.in0) [])],
      Executes s row.1 j → fits → EndsWith s j (row.2.1 j.seq inp) row.2.2) ∧
    (∀ out n, Executes s 0x0111 j → fits → mldsaSign ps held m (if inl8 d 0x42 = 1 then zeros 32 else cap 1 0 32) = some (out, n) →
      EndsWith s j (.opMldsaSign j.seq inp) (okOut out [])) ∧
    (∀ row ∈ [(0x0419, Instr.opEcdhDerive, okOut (shared alg ps held i.in0) []), (0x0429, .opXdhDerive, okOut (shared alg ps held i.in0) []),
        (0x041A, .opEcdhEphemeral, okOut (nistPublic ps nist) (ecdhSecret ps nist i.in0)),
        (0x042A, .opXdhEphemeral, okOut (xPublic ps xdh) (montgomery ps xdh i.in0))],
      Executes s row.1 j → fits →
        (keyCheck alg ps i.in0 = none → EndsWith s j (row.2.1 j.seq inp) row.2.2) ∧
        (∀ reason x, keyCheck alg ps i.in0 = some (reason, x) → EndsWith s j (row.2.1 j.seq inp) (refuseInput reason x))) ∧
    (Executes s 0x0401 j → fits → let c := beNat (rsaEncode ps (inl8 d 0x40) (inl8 d 0x41) i.in0 salt)
      (∀ x, rsaDoes c = some x → EndsWith s j (.opRsaSign j.seq inp) (okOut (beBytes (8 * ps) x) [])) ∧
      (rsaDoes c = none → selfCheck (.opRsaSign j.seq inp))) ∧
    (Executes s 0x0404 j → fits → let ok := oaepCheck (rsaModulus ps held) i.in0 = none
      (∀ em out, ok → rsaDoes (beNat i.in0) = some em → decoded em = some out → EndsWith s j (.opRsaDecrypt j.seq inp) (okOut out [])) ∧
      (∀ em, ok → rsaDoes (beNat i.in0) = some em → decoded em = none → EndsWith s j (.opRsaDecrypt j.seq inp) (refuseInput 0x0406 0)) ∧
      (ok → rsaDoes (beNat i.in0) = none → selfCheck (.opRsaDecrypt j.seq inp)) ∧
      (∀ reason x, oaepCheck (rsaModulus ps held) i.in0 = some (reason, x) → EndsWith s j (.opRsaDecrypt j.seq inp) (refuseInput reason x))) ∧
    (Executes s 0x0201 j → fits →
      Streams s j (.opSlhdsaSign j.seq inp) (slhSign ps held m (if inl8 d 0x42 = 1 then slice held (2 * slhN ps) (slhN ps) else cap 1 0 (slhN ps))) []) ∧
    (let levels := (hbsAt s (hIdx d.keyRef)).levels
     ∀ row ∈ [(0x0211, Instr.opLmsSign, hssSign ps held levels (j.extra.getD 0) (cap 1 0 (hbsN ps)) i.in0),
        (0x0221, .opXmssSign, xmssSign ps held (j.extra.getD 0) i.in0)], Executes s row.1 j → capacityDetail d (hbsSize s j) = 0 →
      let n := hIdx d.keyRef
      ((withTree s j.paddock n).isSome = true → Streams s j (row.2.1 j.seq inp) row.2.2 []) ∧
      (withTree s j.paddock n = none → EndsWith s j (row.2.1 j.seq inp) (failWith 0x0403))) ∧
    (∀ row ∈ [(0x0421, Instr.opEddsaSign), (0x0422, .opEddsaVerify)], runningJob s j.seq row.1 = some j → j.bx = false → inl8 d 0x40 = 0 → j.absorbed = false → fits →
      ∃ t k, exec (row.2 j.seq inp) s = .next t ∧ jobOf t j.seq = some k ∧ k.phase = .staged ∧ k.absorbed = true ∧ k.stall = none)

/-- Digests, MACs, check values, OP_NOP and quotes (R111, R113, R150, R294 to R297, R300, R303, R308 to R310, R368): a digest to out0 or kept
for its slot or register; a MAC made or judged; a CRC computed, or a mismatch ST_CHECK_MISMATCH; a quote of body and signature; a packet
of a feed FIFO taken whole, or ended with the detail of R368. -/
def Obligations.DigestJobs : Prop :=
  ∀ (s : State) (j : Job) (inp : OpInput),
    let d := j.desc
    let i := hostIn j inp
    let fits := capacityDetail d (outSizes d ((algOf d).getD 0) [] 0) = 0
    let hashed := fun (x : Bytes) => digestOf d.paramSet x (inl32 d 0x44)
    let held := jobKey s j
    let tag := (hmac d.paramSet held i.in0).take (inl32 d 0x40)
    let kmac := (if d.paramSet = 1 then kmac128 else kmac256) held i.in0 (inl32 d 0x40) i.ext
    (∀ row ∈ [(0x0000, Instr.opNop, ({} : Result)), (0x0500, .opDigest, if inl8 d 0x40 = 0 then okOut (hashed i.in0) [] else { digest := hashed i.in0 }),
        (0x0510, .opHmac, okOut tag []), (0x0511, .opHmacVerify, verdict (tag == i.in1)), (0x0518, .opKmac, okOut kmac []),
        (0x0519, .opKmacVerify, verdict (kmac == i.in1))],
      Executes s row.1 j → fits → EndsWith s j (row.2.1 j.seq inp) row.2.2) ∧
    (∀ q, Executes s 0x0520 j → fits → crcParam d.paramSet = some q →
      let v := crcValue q (inl8 d 0x41 == 1) (inl64 d 0x50) i.in0
      (inl8 d 0x40 = 0 → EndsWith s j (.opCrc j.seq inp) (okOut (leBytes q.width v) [])) ∧
      (inl8 d 0x40 ≠ 0 → v = inl64 d 0x48 → EndsWith s j (.opCrc j.seq inp) {}) ∧
      (inl8 d 0x40 ≠ 0 → v ≠ inl64 d 0x48 → EndsWith s j (.opCrc j.seq inp) (failWith 0x0900))) ∧
    (Executes s 0x0E10 j → capacityDetail d (quoteSizes s j) = 0 →
      EndsWith s j (.opAttestQuote j.seq inp) (okOut (quoteBody s j i.in0) (quoteSig s j (quoteBody s j i.in0)))) ∧
    (runningJob s j.seq 0x0E10 = some j → j.bx = false → d.keyRef = 0 → j.absorbed = false → capacityDetail d (quoteSizes s j) = 0 →
      ∃ t k, exec (.opAttestQuote j.seq inp) s = .next t ∧ jobOf t j.seq = some k ∧ k.phase = .staged ∧ k.absorbed = true ∧ k.stall = none) ∧
    (∀ f e r, runningJob s j.seq 0x0500 = some j → feedOf j = some f → (feedAt s f).entries = e :: r → (feedAt s f).stopped = false →
      j.feedCopy = none → j.feedBad = 0 → inl8 d 0x40 = 0 → fits →
      (e.eop = true → e.data.length = d.in0Len → ∃ t, exec (.opDigest j.seq inp) s = .next t ∧ Finished s t j (okOut (hashed e.data) []) false ∧
        (feedAt t f).entries = r ∧ (feedAt t f).stopped = false) ∧
      (e.eop = true → e.data.length < d.in0Len → ∃ t, exec (.opDigest j.seq inp) s = .next t ∧ Finished s t j (failWith 0x0201) false ∧
        (feedAt t f).entries = r ∧ (feedAt t f).stopped = true) ∧
      (e.eop = false → d.in0Len ≤ e.data.length → ∃ t, exec (.opDigest j.seq inp) s = .next t ∧ Finished s t j (failWith 0x0202) false ∧
        (feedAt t f).entries = e :: r ∧ (feedAt t f).stopped = true))

/-- Keys, blobs and the public-key cache (R206, R208, R255 to R259, R329, R333 to R340, R345): a created key leaves as a blob or fills its
PENDING slot and answers its handle, its completion waiting for the hayloft; a failed unwrap or blob check writes nothing; a load checks
and fills its entry where the entry is still its own; what acceptance did already ends at once, after its hayloft write. -/
def Obligations.KeyAndCacheJobs : Prop :=
  ∀ (s : State) (j : Job) (inp : OpInput),
    let d := j.desc
    let i := hostIn j inp
    let fits := capacityDetail d (outSizes d ((algOf d).getD 0) [] 0) = 0
    let n := inl32 d 0x48
    let cls := inl8 d 0x4C
    let waits := fun (t : State) => ((jobOf t j.seq).map (·.waitHayloft)) = some true
    let creates := fun (c : Instr) (key : Bytes) =>
      (n = 0xFFFFFFFF → EndsWith s j c (okOut (sealBlob s j cls (inl8 d 0x4D) d.paramSet (inl64 d 0x40) key) [])) ∧
      (n < 65536 → j.issued = false → (slotAt s n).state = 1 → ∃ t, exec c s = .next t ∧
        Finished s t j (okOut (leBytes 8 (mkHandle j.paddock cls (slotAt s n).gen n)) []) false ∧ waits t ∧
        slotAt t n = { slotAt s n with
          cls := cls, alg := inl8 d 0x4D, paramSet := d.paramSet, keyLen := key.length, attrs := inl64 d 0x40, parent := (parentOf s j).slot
          parentGen := (parentOf s j).gen, depth := (parentOf s j).depth + 1, revoked := (parentOf s j).revoked, material := key
          sealState := s.lc.state, sealEpoch := s.lc.epoch } ∧ ∀ m, m ≠ n → slotAt t m = slotAt s m)
    (∀ row ∈ [(0x0F00, Instr.opKeyGenerate, captured s j 2 0 (inl16 d 0x4E)), (0x0F01, .opKeyImport, i.in0), (0x0F03, .opKeyDerive, derivedKey s j i.in0)],
      Executes s row.1 j → fits → creates (row.2.1 j.seq inp) row.2.2) ∧
    (Executes s 0x0F02 j → fits →
      (∀ key, kwUnwrap (jobKey s j) i.in0 (inl16 d 0x4E) = some key → creates (.opKeyUnwrap j.seq inp) (padTo (inl16 d 0x4E) key)) ∧
      (kwUnwrap (jobKey s j) i.in0 (inl16 d 0x4E) = none → EndsWith s j (.opKeyUnwrap j.seq inp) (failWith 0x0402))) ∧
    (Executes s 0x0F04 j → capacityDetail d (exportSizes s j) = 0 → EndsWith s j (.opKeyExport j.seq inp)
      (okOut (kwWrap (heldKey s j (inl64 d 0x40)) (jobKey s j)) [])) ∧
    (∀ h, Executes s 0x0F05 j → fits → j.extra = some h → j.issued = false →
      let b := hIdx h - 0x80000000
      (blobOk s j i.in0 = false → EndsWith s j (.opBlobRegister j.seq inp) (failWith 0x0402)) ∧
      (blobOk s j i.in0 = true → ∃ t, exec (.opBlobRegister j.seq inp) s = .next t ∧ waits t ∧
        Finished s t j (okOut (leBytes 8 (mkHandle j.paddock (u8 i.in0 6) (hGen h) (hIdx h))) []) false ∧ (blobAt t b).present = true ∧
        (blobAt t b).bytes = i.in0 ∧ (blobAt t b).attrs = u64 i.in0 0x10 ∧ (blobAt t b).depth = (parentOf s j).depth + 1)) ∧
    (∀ row ∈ [(0x0F06, Instr.opKeyRestrict), (0x0F07, .opKeyRevoke)], Executes s row.1 j →
      ∃ t, exec (row.2 j.seq inp) s = .next t ∧ Finished s t j {} false ∧ (j.issued = false → objectOf j ≠ none → waits t)) ∧
    (Executes s 0x0E01 j → EndsWith s j (.opPkcEvict j.seq inp) {}) ∧
    (∀ h, Executes s 0x0E00 j → fits → j.extra = some h →
      let k := cacheKey j.paddock (hIdx h)
      let alg := (algOf d).getD 0
      let standing := ownEntry s k h = true ∧ (cacheAt s k).complete = true
      (standing → EndsWith s j (.opPkcLoad j.seq inp) (okOut (leBytes 8 h) [])) ∧
      (¬standing → keyCheck alg d.paramSet i.in0 = none → ∃ t, exec (.opPkcLoad j.seq inp) s = .next t ∧ Finished s t j (okOut (leBytes 8 h) []) false ∧
        (ownEntry s k h = true → cacheAt t k = { cacheAt s k with
          complete := true, key := i.in0, tr := if 20 ≤ (cacheAt s k).alg ∧ (cacheAt s k).alg ≤ 22 then mldsaTr i.in0 else [] } ∧
          ((cacheAt s k).sticky = true → j.issued = false → objectOf j ≠ none → waits t)) ∧
        (ownEntry s k h = false → cacheAt t k = cacheAt s k)) ∧
      (∀ reason x, ¬standing → keyCheck alg d.paramSet i.in0 = some (reason, x) →
        EndsWith s j (.opPkcLoad j.seq inp) (refuseInput reason x)))

/-- Plan changes (R86, R90 to R93, R466): a partial plan that fails a check of Table 04.10 leaves its err and offset and changes nothing else; a
valid one pauses its paddock and drains, and its switch puts the paddock's record in force with its digest in the journal, an audit entry and
its image kept; a drain timeout or ABORT_SWAP leaves the old values with err 0x20 (for an APPLY the model's reading, log 104); STORE_IMAGE writes
the slot that is not preferred, then checks it there; APPLY drains the part (phase 2 is the model's choice, log 104), and its end makes the stored
slots preferred and warm-resets. A change in progress refuses another with err 0x22. -/
def Obligations.PlanChanges : Prop :=
  ∀ (s : State) (img : List Byte), let w := partialOf img
    (regsUp s 0 = true →
      (plBusy s = true → exec (.loadPartial 0 img) s = .next { s with pl := { s.pl with err := 0x22, errOffset := 0 } }) ∧
      (∀ e o, plBusy s = false → partialFault s img = some (e, o) → exec (.loadPartial 0 img) s = .next { s with pl := { s.pl with err := e, errOffset := o } }) ∧
      (plBusy s = false → partialFault s img = none → ∃ t, exec (.loadPartial 0 img) s = .next t ∧ t.pl.swap = some w ∧ t.pl.busy = true ∧ t.pl.phase = 2 ∧
        t.pl.err = 0 ∧ (padAt t w.paddock).paused = true ∧ t.plan = s.plan ∧ limitOf t w.paddock = 0)) ∧
    (∀ x, s.pl.swap = some x → partialDrained s x = true → NothingDue s → s.en.flushActive = false → ∃ t, exec .partialSwitch s = .next t ∧ t.pl.swap = none ∧
      t.pl.busy = false ∧ smGet {} t.plan.pads x.paddock = x.record ∧ (∀ q, q ≠ x.paddock → smGet {} t.plan.pads q = smGet {} s.plan.pads q) ∧
      (padAt t x.paddock).paused = false ∧ smGet [] t.hl.partials x.paddock = x.image ∧ smGet [] t.jn.recDigests x.paddock = recordDigest x ∧
      smGet 0 t.hl.serials s.lc.epoch = max (smGet 0 s.hl.serials s.lc.epoch) (x.serial + 1) ∧ t.hl.auditLog.getLast? = some (s.time, 5, x.paddock)) ∧
    (∀ x, s.pl.swap = some x → partialDrained s x = false → exec .partialSwitch s = .next s) ∧
    (∀ x, s.pl.swap = some x → ∀ c ∈ [(Instr.partialDrainTimeout, true), (Instr.abortSwap 0 4#64, regsUp s 0)], c.2 = true → ∃ t, exec c.1 s = .next t ∧
      t.pl.swap = none ∧ t.pl.busy = false ∧ t.pl.phase = 0 ∧ t.pl.err = 0x20 ∧ (padAt t x.paddock).paused = false ∧ t.plan = s.plan) ∧
    (∀ partner i3c, plUp s 0 = true ∨ (i3c = true ∧ s.sys.porstN = true ∧ s.sys.bootState = 4) →
      let k := imgKind img
      let slot := 1 - preferredSlot s k
      let fits := k ∈ slotKinds ∧ img.length ≤ kindMax k
      let written := fun (t : State) => (∀ c < 2, channelUp s c = true → copyBytes t k slot c = img) ∧
        ∀ c < 2, copyBytes t k (1 - slot) c = copyBytes s k (1 - slot) c
      (plBusy s = true → exec (.storeImage 0 { image := img, partner := partner, i3c := i3c }) s = .next { s with pl := { s.pl with err := 0x22, errOffset := 0 } }) ∧
      (∀ e o, plBusy s = false → storeFault s img partner = some (e, o) → ∃ t, exec (.storeImage 0 { image := img, partner := partner, i3c := i3c }) s = .next t ∧ t.pl.err = e ∧
        t.pl.errOffset = o ∧ t.hl.dir0 = s.hl.dir0 ∧ t.hl.dir1 = s.hl.dir1 ∧ (fits → written t ∧ k ∉ t.pl.stored) ∧ (¬fits → t.hl = s.hl)) ∧
      (plBusy s = false → storeFault s img partner = none → ∃ t, exec (.storeImage 0 { image := img, partner := partner, i3c := i3c }) s = .next t ∧ t.pl.err = 0 ∧ written t ∧
        (s.sys.bootState = 4 → channelUp s 0 = true ∨ channelUp s 1 = true → preferredSlot t k = slot) ∧
        (s.sys.bootState ≠ 4 → t.hl.dir0 = s.hl.dir0 ∧ t.hl.dir1 = s.hl.dir1 ∧ k ∈ t.pl.stored))) ∧
    (regsUp s 0 = true → plBusy s = false → ∃ t, exec (.plApply 0 3#64) s = .next t ∧ t.pl.applying = true ∧ t.pl.busy = true ∧ t.pl.phase = 2 ∧ t.pl.err = 0 ∧
      (∀ p, limitOf t p = 0)) ∧
    (s.pl.applying = true → s.jobs = [] → s.sys.bootState = 1 → s.sys.deepSleep = false → s.en.flushActive = false → NothingDue s →
      ∃ t, exec .plApplyDrained s = .next t ∧ t.pl.applying = false ∧ t.pl.busy = false ∧ t.sys.causeWarmApply = true ∧ t.pl.stored = [] ∧
        (s.pl.stored = [] → (dirNow s).fresh = [] → s.plan.loaded = false ∨ bankSuffices s = true → t.jn.opened = gateMayOpen s) ∧
        ∀ k, s.pl.stored = [k] → channelUp s 0 = true ∨ channelUp s 1 = true → preferredSlot t k = 1 - preferredSlot s k) ∧
    (∀ c ∈ [(Instr.plApplyDrainTimeout, true), (Instr.abortSwap 0 4#64, regsUp s 0)], c.2 = true → s.pl.swap = none → s.pl.applying = true → s.jobs ≠ [] →
      ∃ t, exec c.1 s = .next t ∧ t.pl.applying = false ∧ t.pl.busy = false ∧ t.pl.err = 0x20 ∧ t.plan = s.plan ∧ ∀ j ∈ s.jobs, ∃ i ∈ t.jobs, i.seq = j.seq)

/-- Life-cycle transitions (R97 to R105, R109, Tables 05.2 to 05.4): a valid token stops cores, session and raw-sample mode and starts the
drain; its end programs the next state slot, and on leaving RAW for FACTORY the device root and number; the erase of the old slot ends in
reset_required with the gate closed; a drain timeout abandons with err 5; an invalid token leaves its err alone; COMPLETE in LOCKED leaves
one slot, the token's, with err 7 in every other state. -/
def Obligations.LifeCycleTransitions : Prop :=
  ∀ (s : State) (tok : List Byte),
    let begun := fun (t : State) => t.lc.step = 3 ∧ t.lc.busy = true ∧ t.lc.token = tok ∧ t.lc.err = 0 ∧ t.dbg.scope = 0 ∧ t.rng.rawMode = false ∧
      (∀ n < 16, (coreAt t n).state = 0) ∧ t.lc.state = s.lc.state ∧ t.lc.slots = s.lc.slots ∧ (∀ p, limitOf t p = 0)
    (∀ c ∈ [(Instr.lcTransition 0 tok, regsUp s 0),
        (Instr.i3cTokenMailbox false tok, s.sys.porstN && !s.lc.resetRequired && !s.en.flushActive && s.sys.bootState == 1 && decide (s.lc.state ∈ [0, 1, 4]))],
      c.2 = true →
      (lcBusy s = false → tokenFault s tok = 0 → ∃ t, exec c.1 s = .next t ∧ begun t) ∧
      (lcBusy s = false → tokenFault s tok ≠ 0 → exec c.1 s = .next { s with lc := { s.lc with err := tokenFault s tok } }) ∧
      (lcBusy s = true → exec c.1 s = .next { s with lc := { s.lc with err := 6 } })) ∧
    (s.lc.step = 3 → s.jobs = [] → ∃ t, exec .lcDrained s = .next t ∧ t.lc.step = 8 ∧ ledgerSlot t (nextSlot s) = slotFor s.lc.token ∧
      (∀ i, i ≠ nextSlot s → ledgerSlot t i = ledgerSlot s i) ∧
      (tokFrom s.lc.token = 0 ∧ tokTo s.lc.token = 1 → t.lc.rootPresent = true ∧ t.lc.deviceNumber = tokDevice s.lc.token ∧
        t.lc.deviceRoot = shake256 (leBytes 256 (Config.freeValue s.freeCtr)) 32) ∧
      (¬(tokFrom s.lc.token = 0 ∧ tokTo s.lc.token = 1) → t.lc.deviceRoot = s.lc.deviceRoot ∧ t.lc.deviceNumber = s.lc.deviceNumber)) ∧
    (s.lc.step = 3 → s.jobs ≠ [] → ∃ t, exec .lcDrainTimeout s = .next t ∧ t.lc.step = 0 ∧ t.lc.busy = false ∧ t.lc.err = 5 ∧ t.lc.token = [] ∧
      t.lc.slots = s.lc.slots ∧ t.lc.state = s.lc.state) ∧
    (s.lc.step = 8 → ∃ t, exec .ledgerProgramDone s = .next t ∧ t.lc.step = 0 ∧ t.lc.resetRequired = true ∧ t.jn.opened = false ∧ regsUp t 0 = false ∧
      t.lc.slots = (s.lc.slots.filter fun e => e.2.seq == tokSeq s.lc.token) ∧ t.hl.auditLog.getLast? = some (s.time, 1, tokTo s.lc.token)) ∧
    (∀ c ∈ [(Instr.lcComplete 0 tok, recoveryUp s 0 && s.sys.bootState == 3 && !s.lc.resetRequired),
        (Instr.i3cTokenMailbox true tok, s.sys.porstN && !s.lc.resetRequired && !s.en.flushActive && s.sys.bootState == 3)],
      c.2 = true →
      (lcBusy s = true → exec c.1 s = .next { s with lc := { s.lc with err := 6 } }) ∧
      (lcBusy s = false → s.lc.state = 7 →
      (∀ i, completeFault s tok = 0 → completeTarget s tok = some i → ∃ t, exec c.1 s = .next t ∧ t.lc.resetRequired = true ∧ t.lc.err = 0 ∧
        (∀ k, k ≠ i → ledgerSlot t k = {}) ∧ (slotClass (ledgerSlot s i) = 1 → ledgerSlot t i = ledgerSlot s i) ∧
        (slotClass (ledgerSlot s i) ≠ 1 → ledgerSlot t i = slotFor tok)) ∧
      (completeFault s tok ≠ 0 → exec c.1 s = .next { s with lc := { s.lc with err := completeFault s tok } }))) ∧
    (regsUp s 0 = true → lcBusy s = false → s.lc.state ≠ 7 → exec (.lcComplete 0 tok) s = .next { s with lc := { s.lc with err := 7 } })

/-- Identity, certificates and debug sessions (R46, R111, R112, R115, R116, Table 05.12): GEN_IDENTITY in FACTORY writes both public keys to host
memory; STORE_CERTS starts the object write of six certificates that name them; LC_CERT_DATA reads on by four bytes, 0 beyond the end; I3C
reads a certificate, the die temperature, or the device number with LC_STATUS (which index gives which is the model's choice, log 82); a debug
token that holds opens its scope, extends register 15, is logged, counted and redraws the challenge, and one that does not changes nothing;
close ends the session. -/
def Obligations.IdentityAndDebug : Prop :=
  ∀ (s : State),
    (regsUp s 0 = true → s.lc.state = 1 → lcBusy s = false → (identityPk s).1 ++ (identityPk s).2 ≠ [] →
      ∃ t, exec (.genIdentity 0 3#64) s = .next t ∧ t.lc.identity = true ∧ t.lc.err = 0 ∧
        t.out = s.out ++ [.memWrite 0 s.lc.tokenAddr ((identityPk s).1 ++ (identityPk s).2)]) ∧
    (∀ certs, regsUp s 0 = true → s.lc.state = 1 →
      (lcBusy s = false → s.lc.identity = true → certsMatch s certs = true → hayloftWrites s = true → ∃ t, exec (.storeCerts 0 certs) s = .next t ∧
        t.lc.err = 0 ∧ t.hl.certsNew = some certs ∧ t.hl.certs = s.hl.certs ∧ (objAt t certsObj).writing.isSome = true) ∧
      (lcBusy s = true → exec (.storeCerts 0 certs) s = .next { s with lc := { s.lc with err := 6 } }) ∧
      (lcBusy s = false → s.lc.identity = false ∨ certsMatch s certs = false ∨ hayloftWrites s = false → exec (.storeCerts 0 certs) s = .next s)) ∧
    (∀ fn v, lcUp s fn = true →
      ((padOfFn s fn).isSome = true → exec (.lcCertSelWrite fn v) s = .next (modFn s fn fun f => { f with certSel := bits v.toNat 0 3, certOff := 0 })) ∧
      (padOfFn s fn = none → exec (.lcCertSelWrite fn v) s = .next s ∧ exec (.certDataRead fn) s = .next (reply s fn (zeros 4)))) ∧
    (∀ fn, lcUp s fn = true → (padOfFn s fn).isSome = true →
      let f := fnAt s fn
      let c := if s.lc.state = 0 then [] else smGet [] s.hl.certs f.certSel
      ∃ t, exec (.certDataRead fn) s = .next t ∧ t.out = s.out ++ [.barReply fn (leBytes 4 (u32 c f.certOff))] ∧
        fnAt t fn = { f with certOff := if f.certOff < c.length then f.certOff + 4 else f.certOff }) ∧
    (∀ i, s.sys.porstN = true → s.sys.deepSleep = false → Calm s →
      exec (.i3cIdentityRead i) s = .next (emit (if i = 6 then { s with freeCtr := s.freeCtr + 1 } else s) (.i3cReply
      (if i < 6 then (if s.lc.state = 0 then [] else smGet [] s.hl.certs i) else if i = 6 then leBytes 4 (Config.freeValue s.freeCtr)
       else leBytes 8 s.lc.deviceNumber ++ leBytes 8 (lcStatus s))))) ∧
    (∀ tok, debugUp s = true → s.sys.boundary = false →
      (debugTokenOk s tok = true → ∃ t, exec (.dbgToken tok) s = .next t ∧ t.dbg.scope = u8 tok 6 ∧ t.dbg.challengeDraw = s.freeCtr ∧
        t.dbg.padMask = (if u8 tok 6 = 2 then u32 tok 0x30 else 0) ∧ t.hl.auditLog.getLast? = some (s.time, 2, u8 tok 6) ∧
        (debugRec t).count = (debugRec s).count + 1 ∧ (debugRec t).digest = (debugRec s).digest ∧
        smGet (zeros 48) t.rng.ymr 15 = sha3_384 (smGet (zeros 48) s.rng.ymr 15 ++ sha3_384 tok)) ∧
      (debugTokenOk s tok = false → exec (.dbgToken tok) s = .next s)) ∧
    (∀ tok, debugTokenOk s tok = true → s.lc.state = 1 ∨ s.lc.state = 2 ∨ s.lc.state = 4 → u8 tok 6 = 1) ∧
    (regsUp s 0 = true → exec (.debugClose 0 1#64) s = .next { s with dbg := { s.dbg with scope := 0, padMask := 0 } })

/-- The random source (R313 to R326): passing start-up tests make it ready, seed every instance and end a waiting boot; three failures in a
row stop it; a failing group is isolated and counted, an isolated one rejoins; blocks join a store of 64; reseeds, RESTART, raw-sample mode
and the reads of RN_WORD and RN_RAW_DATA. -/
def Obligations.RandomSource : Prop :=
  ∀ (s : State),
    (∀ passed kat, startupPending s = true → NothingDue s → s.sys.wait ≠ .random →
      let ok := passed &&& (0xFFFF ^^^ s.rng.retired)
      ∀ c ∈ [Instr.rngStartupDone passed kat, Instr.rngStartupRetry passed kat], (c = Instr.rngStartupRetry passed kat → s.rng.attempts ≠ 0) →
        (kat = true → 8 ≤ groupCount ok → ∃ t, exec c s = .next t ∧ t.rng.ready = true ∧ t.rng.healthy = ok ∧ t.rng.attempts = 0 ∧ t.rng.stopped = false ∧
          (∀ p < 32, padPresent s p = true → (padAt t p).drbg.live = true)) ∧
        (kat = false ∨ groupCount ok < 8 → s.rng.restarting = true → exec c s = .next (settle { s with rng := { s.rng with katOk := kat, restarting := false, cmdErr := 3 } })) ∧
        (kat = false ∨ groupCount ok < 8 → s.rng.restarting = false → s.rng.attempts < 2 → ∃ t, exec c s = .next t ∧ t.rng.attempts = s.rng.attempts + 1 ∧
          t.rng.ready = false ∧ t.rng.stopped = s.rng.stopped) ∧
        (kat = false ∨ groupCount ok < 8 → s.rng.restarting = false → 2 ≤ s.rng.attempts → FaultsClear s → ∃ t, exec c s = .next t ∧ t.rng.stopped = true ∧
          t.rng.ready = false ∧ (findOut t.fc 0x0D0 0x17).isSome = true)) ∧
    (∀ g apt, g < 16 → rngRuns s = true → hasBit s.rng.retired g = false →
      (s.rng.ready = false ∨ hasBit s.rng.healthy g = false → exec (.rngHealthFail g apt) s = .next { s with rng :=
        (if apt then { s.rng with apt := satAdd 0xFFFF s.rng.apt 1 } else { s.rng with rct := satAdd 0xFFFF s.rng.rct 1 }) }) ∧
      (s.rng.ready = true → hasBit s.rng.healthy g = true → Calm s → smGet 0 s.fc.buckets (0xC0 + g) < 2 → 8 < healthyGroups s →
        ∃ t, exec (.rngHealthFail g apt) s = .next t ∧ hasBit t.rng.healthy g = false ∧ hasBit t.rng.isolated g = true ∧ t.rng.ready = true ∧
          (apt = true → t.rng.apt = satAdd 0xFFFF s.rng.apt 1) ∧ (apt = false → t.rng.rct = satAdd 0xFFFF s.rng.rct 1))) ∧
    (∀ g, g < 16 → rngRuns s = true → s.rng.rawMode = false → hasBit s.rng.isolated g = true → hasBit s.rng.retired g = false →
      exec (.rngRetest g true) s = .next { s with rng := { s.rng with isolated := clearBit s.rng.isolated g, healthy := setBit s.rng.healthy g } } ∧
      exec (.rngRetest g false) s = .next s) ∧
    (∀ m, sourceServes s = true → m &&& (0xFFFF ^^^ s.rng.healthy) = 0 → s.rng.waiting = [] →
      exec (.rngBlockRelease m) s = .next { s with rng := { s.rng with store := min 64 (s.rng.store + 1) } }) ∧
    (∀ p < 32, (padAt s p).drbg.live = true →
      (sourceServes s = true → 2 ≤ s.rng.store → s.rng.waiting = [] → ∃ t, exec (.drbgReseed p) s = .next t ∧
        (padAt t p).drbg = seeded s p (padAt s p).drbg (seedMaterial s).1 ∧ t.rng.store = s.rng.store - 2) ∧
      (sourceServes s = false → ∃ t, exec (.drbgReseed p) s = .next t ∧ (padAt t p).drbg = { (padAt s p).drbg with failed := true })) ∧
    (∀ v : W64, regsUp s 0 = true →
      (bits v.toNat 0 4 = 1 → s.rng.rawMode = true → exec (.rngRestart 0 v) s = .next { s with rng := { s.rng with cmdErr := 1 } }) ∧
      (bits v.toNat 0 4 = 1 → s.rng.rawMode = false → exec (.rngRestart 0 v) s =
        .next { s with rng := { s.rng with cmdErr := 0, restarting := s.rng.stopped || s.rng.restarting } }) ∧
      (∀ tok, bits v.toNat 0 4 = 2 → bits v.toNat 4 5 ≤ 16 → s.rng.rawMode = false →
        (s.lc.state = 1 ∨ s.lc.state = 4 ∨ (s.lc.state = 3 ∧ rawAuthorised s tok = true) → ∃ t, exec (.rawEnter 0 v tok) s = .next t ∧ t.rng.rawMode = true ∧
          t.rng.ready = false ∧ t.rng.sel = bits v.toNat 4 5 ∧ t.rng.fifo = [] ∧ t.hl.auditLog.getLast? = some (s.time, 6, bits v.toNat 4 5) ∧
          (s.lc.state = 3 → t.dbg.challengeDraw = s.freeCtr)) ∧
        (s.lc.state = 3 → rawAuthorised s tok = false → exec (.rawEnter 0 v tok) s = .next { s with rng := { s.rng with cmdErr := 2 } }) ∧
        (s.lc.state = 0 ∨ s.lc.state = 2 → exec (.rawEnter 0 v tok) s = .next { s with rng := { s.rng with cmdErr := 1 } })) ∧
      (bits v.toNat 0 4 = 3 → s.rng.rawMode = true → ∃ t, exec (.rawExit 0 v) s = .next t ∧ t.rng.rawMode = false ∧ t.rng.fifo = [] ∧ t.rng.ready = false ∧
        t.rng.attempts = 0 ∧ t.rng.cmdErr = 0)) ∧
    (∀ fn p, HostAt s fn p →
      (sourceServes s = true → let t := dueReseed s p
        (drbgServes t p = true → exec (.rnWordRead fn) s = .next (reply (afterRequest t p 7) fn
          ((ctrBlocks (aesKeys (padAt t p).drbg.key) 1 (beNat (padAt t p).drbg.v)).take 7 ++ [0xA5#8]))) ∧
        (drbgServes t p = false → exec (.rnWordRead fn) s = .next (reply t fn (zeros 8)))) ∧
      (sourceServes s = false → exec (.rnWordRead fn) s = .next (reply s fn (zeros 8)))) ∧
    (∀ fn, regsUp s fn = true →
      (∀ w r, fn = 0 → s.rng.rawMode = true → s.rng.fifo = w :: r →
        exec (.rnRawDataRead fn) s = .next (reply { s with rng := { s.rng with fifo := r } } fn (leBytes 8 w.toNat))) ∧
      (fn ≠ 0 ∨ s.rng.rawMode = false ∨ s.rng.fifo = [] → exec (.rnRawDataRead fn) s = .next (reply s fn (zeros 8))))

/-- The tamper monitor (R429 to R439, Tables 19.3 to 19.9): a trip is latched, counted, logged and its response, the strongest so far,
applied: acceptance stops, running jobs end ST_ABORTED_TAMPER, cores stop, the tack room holds or erases; before step 14 it stops the boot;
in deep sleep the mask keys are overwritten; CLEAR needs a formed and signed token and no live condition, in this order. -/
def Obligations.TamperMonitor : Prop :=
  ∀ (s : State),
    (∀ src high, sourceTrips s src high = true → s.en.flushActive = false → NothingDue s →
      let latched := fun (t : State) => t.tp.latched = true ∧ hasBit t.tp.alarm src = true ∧ t.tp.count = satAdd 0xFFFFFFFF s.tp.count 1 ∧
        (src ≠ 9 → hasBit t.tp.live src = true)
      (14 ≤ s.sys.stage → s.sys.bootState ≤ 1 → s.sys.deepSleep = false →
        (responseOf s src = 0 → ∃ t, exec (.tamperTrip src high) s = .next t ∧ latched t ∧ t.tk = s.tk ∧ t.jobs = s.jobs ∧ t.cores = s.cores) ∧
        (responseOf s src ≠ 0 → ∃ t, exec (.tamperTrip src high) s = .next t ∧ latched t ∧ t.tp.response = max s.tp.response (responseOf s src) ∧
          (∀ p, limitOf t p = 0) ∧ (∀ n < 16, (coreAt t n).state = 0) ∧ t.dbg.scope = 0 ∧ t.rng.rawMode = false ∧ t.lc.step = 0 ∧
          (t.tp.response = 1 → t.tk.hold = true) ∧
          (2 ≤ t.tp.response → t.tk.unsealed = false ∧ t.tk.ownerRoot = [] ∧
            (smWf {} s.tk.slots = true → ∀ n, (slotAt s n).state ∈ [2, 3, 4, 5] → (slotAt t n).state ∉ [2, 3, 4, 5] ∧ (slotAt t n).material = [])) ∧
          (3 ≤ t.tp.response → (∀ b, (blobAt t b).present = false) ∧ ∀ p < 32, (padAt t p).inc = ((padAt s p).inc + 1) % 2 ^ 32))) ∧
      (s.sys.stage < 14 → s.sys.bootState ≤ 2 → ∃ t, exec (.tamperTripAtBoot src high) s = .next t ∧ latched t ∧ t.sys.bootState = 2 ∧ t.tp.tamperHold = true ∧
        t.tp.response = max s.tp.response 1) ∧
      (s.sys.bootState = 3 ∨ s.sys.bootState = 5 → ∃ t, exec (.tamperTripAtBoot src high) s = .next t ∧ latched t ∧ t.sys.bootState = s.sys.bootState ∧
        t.tp.response = s.tp.response) ∧
      (s.sys.deepSleep = true → s.port.doorbells = [] → ∃ t, exec (.tamperTripDeepSleep src high) s = .next t ∧ latched t ∧ t.sys.deepSleep = false ∧
        (s.tp.response = 0 → responseOf s src = 0 → s.tk.hold = false → t.tk.maskDraw = s.tp.reserveDraw ∧ t.tk.unsealed = true))) ∧
    (∀ src, exec (.tamperConditionEnd src) s = .next { s with tp := { s.tp with live := clearBit s.tp.live src } }) ∧
    (∀ tok, tpUp s 0 = true →
      let err := fun (e : Nat) => Host.Outcome.next { s with tp := { s.tp with cmdErr := e } }
      (s.lc.state ≠ 0 → clearFormed s tok = false → exec (.tamperClear 0 1#64 tok) s = err 1) ∧
      (s.lc.state ≠ 0 → clearFormed s tok = true → clearSigned s tok = false → exec (.tamperClear 0 1#64 tok) s = err 2) ∧
      (s.lc.state = 0 ∨ (clearFormed s tok = true ∧ clearSigned s tok = true) →
        (s.tp.live ≠ 0 → exec (.tamperClear 0 1#64 tok) s = err 3) ∧
        (s.tp.live = 0 → NothingDue s → ∃ t, exec (.tamperClear 0 1#64 tok) s = .next t ∧ t.tp.cmdErr = 0 ∧ t.tp.latched = false ∧
          t.dbg.challengeDraw = s.freeCtr ∧ (s.tp.latched = true → t.tp.response = 0 ∧ t.tp.alarm = 0 ∧ t.tk.hold = false ∧
            t.tp.resetRequired = (s.tp.resetRequired || s.tp.tamperHold) ∧ t.hl.auditLog.getLast? = some (s.time, 4, s.tp.alarm)))))

/-- The fault collector (R440 to R452, Tables 20.1, 20.3 to 20.6, 20.11, 20.12): a message joins the log and its bucket; a corrected one is
counted by source, a contained or fatal one becomes outstanding with its timer, a fatal one holding the gate and clearing digest state;
buckets leak; an expired timer escalates, retires a stall, or waits for the flush; ACK stops the timer; CLEAR needs an end of the cause; the
log is read from its oldest message, and what waits reaches the hayloft. -/
def Obligations.FaultCollector : Prop :=
  ∀ (s : State),
    (∀ m : W64, s.sys.porstN = true → s.sys.deepSleep = false → s.en.flushActive = false → messageSent m.toNat = true → Calm s → FaultsClear s →
      s.fc.log.length < 4096 →
      let src := bits m.toNat 54 10
      let kind := bits m.toNat 48 6
      (∀ lim, bucketRule src kind = some lim → smGet 0 s.fc.buckets (bucketKey src (bits m.toNat 0 40)) + 8 < lim) →
      (kind ∈ [0x01, 0x04, 0x10, 0x1D, 0x27] → ∃ t, exec (.faultReport m) s = .next t ∧ t.fc.log = s.fc.log ++ [(s.time, m.toNat)] ∧ t.fc.out = [] ∧
        smGet 0 t.fc.corrected src = smGet 0 s.fc.corrected src + 1 ∧ t.jobs = s.jobs) ∧
      (kind ∈ [0x13, 0x14, 0x26] → ∃ t, exec (.faultReport m) s = .next t ∧ t.fc.log = s.fc.log ++ [(s.time, m.toNat)] ∧ fatalHolds t = true ∧
        faultPin t = true ∧ (∃ e, outEntry t src kind = some (0, e) ∧ e.deadline = some (s.time + s.plan.esc.fatalUs * 1000) ∧ e.acked = false) ∧
        (∀ n < 65, (fnAt t n).cmpNe = if (padOfFn s n).isSome then 0xFFFFFFFF#32 else (fnAt s n).cmpNe)) ∧
      (src < 0x34 → unsoundKind kind = true → faultClass kind = 1 → ∃ t, exec (.faultReport m) s = .next t ∧ (stAt t src).unsound = true ∧
        (findOut t.fc src kind).isSome = true ∧ fatalHolds t = false)) ∧
    (∀ source, smWf 0 s.fc.buckets = true → ∃ t, exec (.bucketLeak source) s = .next t ∧ t.fc.out = s.fc.out ∧
      ∀ k, smGet 0 t.fc.buckets k = if k % 1024 = source then smGet 0 s.fc.buckets k - 1 else smGet 0 s.fc.buckets k) ∧
    (∀ src kind i e, outEntry s src kind = some (i, e) →
      let c := Instr.escalationExpiry src kind
      (e.acked = true ∨ e.escalated = true ∨ e.deadline = none → exec c s = .next s) ∧
      (e.acked = false → e.escalated = false → e.deadline.isSome = true →
        (s.en.flushActive = true → ∃ t, exec c s = .next t ∧ (src, kind) ∈ t.fc.heldExpiry ∧ t.fc.out = s.fc.out) ∧
        (s.en.flushActive = false → NothingDue s →
          (faultClass kind ≠ 2 → src < 0x34 → ∃ t, exec c s = .next t ∧ (stAt t src).state = 5) ∧
          (faultClass kind = 2 → kind ≠ 0x18 → s.sys.bootState = 1 → s.sys.deepSleep = false → ∃ t, exec c s = .next t ∧ t.sys.causeWarmFatal = true ∧
            t.sys.causeCold = false)))) ∧
    (∀ fn p src kind, HostAt s fn p → src < 1024 → kind < 64 →
      let v := fun (cmd : Nat) => BitVec.ofNat 64 (src + kind * 2 ^ 10 + cmd * 2 ^ 16)
      let answered := fun (t : State) (r : Nat) => (fnAt t fn).fcResult = r
      (outEntry s src kind = none → exec (.fcAck fn (v 1)) s = .next (fcAnswer s fn 1) ∧ exec (.fcClear fn (v 2)) s = .next (fcAnswer s fn 1)) ∧
      (∀ i e, outEntry s src kind = some (i, e) →
        (mayAnswer p e = false → exec (.fcAck fn (v 1)) s = .next (fcAnswer s fn 1) ∧ exec (.fcClear fn (v 2)) s = .next (fcAnswer s fn 1)) ∧
        (mayAnswer p e = true →
          (timerPast s e = true → exec (.fcAck fn (v 1)) s = .next (fcAnswer s fn 2)) ∧
          (timerPast s e = false → ∃ t, exec (.fcAck fn (v 1)) s = .next t ∧ answered t 0 ∧ outAt t.fc i = some { e with acked := true, deadline := none } ∧
            (src < 0x34 → src ∈ t.fc.ahead)) ∧
          (e.acked = false → e.escalated = false → exec (.fcClear fn (v 2)) s = .next (fcAnswer s fn 4)) ∧
          (e.acked = true ∨ e.escalated = true → e.live = true → exec (.fcClear fn (v 2)) s = .next (fcAnswer s fn 3)) ∧
          (e.acked = true ∨ e.escalated = true → e.live = false → ∃ t, exec (.fcClear fn (v 2)) s = .next t ∧ answered t 0 ∧ outAt t.fc i = none ∧
            (∀ k, k ≠ i → outAt t.fc k = outAt s.fc k))))) ∧
    (∀ fn, regsUp s fn = true →
      (∀ e r, fn = 0 → s.fc.log = e :: r → exec (.faultLogRead fn) s =
        .next (reply { s with fc := { s.fc with log := r, overflowed := s.fc.overflowed && !r.isEmpty } } fn (leBytes 8 e.2))) ∧
      (fn ≠ 0 ∨ s.fc.log = [] → exec (.faultLogRead fn) s = .next (reply s fn (zeros 8)))) ∧
    (s.hl.wpReleased = true → s.en.flushActive = false → s.hl.failed0 = false ∨ s.hl.failed1 = false → s.hl.faultLog.length + s.fc.toLog.length + s.fc.corrected.length ≤ 262144 →
      ∃ t, exec .faultLogAppend s = .next t ∧ t.fc.toLog = [] ∧ t.fc.corrected = [] ∧
        t.hl.faultLog = s.hl.faultLog ++ s.fc.toLog ++ s.fc.corrected.map fun e => (s.time, 2, e.1 * 2 ^ 32 + e.2))

/-- The hayloft (R462, R465, R470 to R476, Tables 21.2, 21.7): a read within 39 corrected bits is counted, one of 40 to 72 moves its block and
reports it, one beyond retires it; a failed status retires the block; a target that does not answer fails; wear levelling moves the least
worn block; an object commits once both copies, or the survivor's, are read back; a DQ training test holds its channel; rebuild and FORMAT;
the diagnostic log and the log reads. -/
def Obligations.HayloftUpkeep : Prop :=
  ∀ (s : State), Calm s → s.en.flushActive = false →
    (∀ n b cor bad lost, blockServes s n b = true → b < 65536 →
      (∀ e ∈ s.hl.objs, e.2.writing = none) →
      ∀ c ∈ [Instr.nandReadDone n b cor bad lost, Instr.hayloftScrub n b cor bad lost],
        let key := blockKey n b
        (bad = false → cor < 40 → exec c s = .next (modBlock s key fun x => { x with reads := x.reads + 1, erased := false })) ∧
        (bad = false → 40 ≤ cor → cor ≤ 72 → smGet 0 s.fc.buckets (0x200 + n) < 63 → ∃ t, exec c s = .next t ∧
          blockAt t key = { erase := (blockAt s key).erase + 1 } ∧ smGet 0 t.fc.corrected (0x200 + n) = smGet 0 s.fc.corrected (0x200 + n) + 1 ∧ t.jobs = s.jobs) ∧
        (bad = true ∨ 72 < cor → smGet 0 s.fc.buckets (0x200 + n) < 56 → FaultsClear s → ∃ t, exec c s = .next t ∧ (blockAt t key).bad = true ∧
          (targetAt t n).badBlocks = satAdd 0xFFFF (targetAt s n).badBlocks 1 ∧ (findOut t.fc (0x200 + n) 0x1E).isSome = true ∧
          (∀ o, lost = some o → (objAt t o).v0 = 0 ∧ (objAt t o).v1 = 0))) ∧
    (∀ n b erase, blockServes s n b = true → b < 65536 → smGet 0 s.fc.buckets (0x200 + n) < 63 →
      ∃ t, exec (.nandStatusFail n b erase) s = .next t ∧ (blockAt t (blockKey n b)).bad = true ∧ (targetAt t n).spares = (targetAt s n).spares - 1 ∧
        smGet 0 t.fc.corrected (0x200 + n) = smGet 0 s.fc.corrected (0x200 + n) + 1) ∧
    (∀ n st, s.sys.porstN = true → n < 8 → (targetAt s n).state = 1 → channelTested s (n / 4) = false →
      (st = true → (targetAt s n).statusFailed = false → exec (.nandTargetTimeout n st) s = .next (modTarget s n fun t => { t with statusFailed := true })) ∧
      (st = false ∨ (targetAt s n).statusFailed = true → FaultsClear s → ∃ t, exec (.nandTargetTimeout n st) s = .next t ∧ (targetAt t n).state = 2 ∧
        (findOut t.fc (0x200 + n) 0x1F).isSome = true ∧ (∀ m, m ≠ n → targetAt t m = targetAt s m))) ∧
    (∀ c, s.sys.porstN = true → wearSpread s c ≤ 2000 → exec (.staticWearLevel c) s = .next s) ∧
    (∀ c k, s.sys.porstN = true → channelTested s c = false → 2000 < wearSpread s c → leastWorn s (channelBlocks s c fun x => !x.erased) = some k →
      ∃ t, exec (.staticWearLevel c) s = .next t ∧ blockAt t k = { erase := (blockAt s k).erase + 1 } ∧ t.jobs = s.jobs) ∧
    (∀ o c, (objAt s o).writing.isSome = true → c < 2 → (if c = 0 then s.hl.failed0 else s.hl.failed1) = false → channelTested s c = false →
      let x := objAt s o
      let other := if c = 0 then x.ok1 || s.hl.failed1 else x.ok0 || s.hl.failed0
      (other = false → ∃ t, exec (.objectWriteCommit o c) s = .next t ∧ (objAt t o).version = x.version ∧ (objAt t o).writing = x.writing ∧ t.jobs = s.jobs) ∧
      (other = true → waitersOf s o = [] → ∃ t, exec (.objectWriteCommit o c) s = .next t ∧ (objAt t o).version = x.version + 1 ∧ (objAt t o).writing = none ∧
        (if c = 0 then (objAt t o).v0 else (objAt t o).v1) = x.version + 1)) ∧
    (∀ c < 2, s.sys.porstN = true → s.hl.rebuilding = true → channelTested s c = false → (if c = 0 then s.hl.failed0 else s.hl.failed1) = false → smWf {} s.hl.objs = true →
      ∃ t, exec (.hayloftRebuild c) s = .next t ∧ t.hl.rebuilding = false ∧ t.hl.singleCopy = 0 ∧ t.hl.flushReady = true ∧
        (∀ n, n / 4 = c → (targetAt s n).state = 5 → (targetAt t n).state = 1) ∧
        ∀ o, (if c = 0 then (objAt t o).v0 else (objAt t o).v1) = (objAt s o).version) ∧
    (∀ o c, channelTested s c = true → exec (.objectWriteCommit o c) s = .next s ∧ exec (.hayloftRebuild c) s = .next s ∧
      exec (.staticWearLevel c) s = .next s ∧ ∀ n, n / 4 = c → ∀ b cor bad lost, exec (.nandReadDone n b cor bad lost) s = .next s) ∧
    (∀ v : W64, regsUp s 0 = true → bits v.toNat 0 4 = 1 →
      let n := bits v.toNat 4 3
      ((targetAt s n).state ≠ 4 → exec (.hlFormat 0 v) s = .next { s with hl := { s.hl with cmdErr := 2 } }) ∧
      ((targetAt s n).state = 4 → ∃ t, exec (.hlFormat 0 v) s = .next t ∧ (targetAt t n).state = 5 ∧ t.hl.rebuilding = true ∧ t.hl.cmdErr = 0 ∧
        (targetAt t n).badBlocks ≤ s.hl.geo.blocks ∧ ∀ m, m ≠ n → targetAt t m = targetAt s m)) ∧
    (s.hl.wpReleased = true → s.hl.failed0 = false ∨ s.hl.failed1 = false → smWf {} s.pads = true →
      ∃ t, exec .diagLogFlush s = .next t ∧ ∀ p, (padAt t p).diags = (padAt s p).diags.map fun d => { d with flushed := true }) ∧
    (∀ fn p, HostAt s fn p →
      (logEntry s fn p = none → exec (.hlLogDataRead fn) s = .next (reply s fn (zeros 8))) ∧
      (∀ b, logEntry s fn p = some b → ∃ t, exec (.hlLogDataRead fn) s = .next t ∧ t.out = s.out ++ [.barReply fn (slice b (8 * (fnAt s fn).hlWord) 8)] ∧
        ((fnAt s fn).hlWord = 3 → (fnAt t fn).hlWord = 0 ∧ (fnAt t fn).hlEntry = ((fnAt s fn).hlEntry + 1) % 2 ^ 32) ∧
        ((fnAt s fn).hlWord ≠ 3 → (fnAt t fn).hlWord = (fnAt s fn).hlWord + 1 ∧ (fnAt t fn).hlEntry = (fnAt s fn).hlEntry)))

/-- Link tests and the test access port (R477 to R484, Tables 22.1 to 22.4): a test starts with both counts 0 where the link and its pattern
may be tested, and else only leaves its err; inject counts on a running test; lock and its loss join the counts; run 0 and the end of test
mode stop it; EXTEST, CLAMP and HIGHZ take the balls, close the gate and stop cores and stalls; IDCODE reads 0xB7360A9F; MBIST wipes. -/
def Obligations.LinksAndTestPort : Prop :=
  ∀ (s : State), let n := s.lk.sel
    (∀ v : W64, regsUp s 0 = true →
      (hasBit v.toNat 3 = true → linkRefusal s n s.lk.selTarget = 0 → patternOk n (bits v.toNat 0 3) = true →
        ∃ t, exec (.linkTestStart 0 v) s = .next t ∧ testAt t n = {
            pattern := bits v.toNat 0 3, fixed := bits v.toNat 16 16, target := s.lk.selTarget, running := true
            injected := if hasBit v.toNat 4 then 1 else 0 } ∧ (∀ m, m ≠ n → testAt t m = testAt s m) ∧
          (16 ≤ n → n < 20 → (laneAt t (n - 16)).state = 3)) ∧
      (hasBit v.toNat 3 = true → hasBit v.toNat 4 = false → linkRefusal s n s.lk.selTarget ≠ 0 →
        ∃ t, exec (.linkTestStart 0 v) s = .next t ∧ testAt t n = { testAt s n with err := linkRefusal s n s.lk.selTarget }) ∧
      (hasBit v.toNat 3 = true → hasBit v.toNat 4 = false → linkRefusal s n s.lk.selTarget = 0 → patternOk n (bits v.toNat 0 3) = false →
        ∃ t, exec (.linkTestStart 0 v) s = .next t ∧ testAt t n = { testAt s n with err := 1 }) ∧
      (hasBit v.toNat 3 = false → ∃ t, exec (.linkTestStop 0 v) s = .next t ∧ (testAt t n).running = false ∧ (testAt t n).pattern = bits v.toNat 0 3 ∧
        ((testAt s n).running = true → (testAt s n).locked = false → (testAt t n).bits = (testAt s n).bits % 2 ^ 64 ∧ (testAt t n).err = 0)) ∧
      (hasBit v.toNat 4 = true → (testAt s n).running = true → ∃ t, exec (.linkTestInject 0 v) s = .next t ∧
        testAt t n = { testAt s n with injected := (testAt s n).injected + 1 })) ∧
    (∀ l cause, ∃ t, exec (.linkTestEnd l cause) s = .next t ∧ (∀ m, (testAt t m).running = false) ∧ (∀ m, (testAt s m).running = true → (testAt t m).err = 3) ∧
      t.jobs = s.jobs) ∧
    (∀ l, (testAt s l).running = true →
      (∃ t, exec (.checkerLock l) s = .next t ∧ testAt t l = { testAt s l with locked := true }) ∧
      (∀ b e, (testAt s l).locked = true → ∃ t, exec (.checkerLockLost l b e) s = .next t ∧ (testAt t l).locked = false ∧ (testAt t l).lost = true ∧
        (testAt t l).bits = ((testAt s l).bits + b) % 2 ^ 64 ∧ (testAt t l).errs = satAdd (2 ^ 48 - 1) (testAt s l).errs e)) ∧
    (∀ e ∈ [(Instr.tapExtest, 0x00), (Instr.tapClamp, 0x03), (Instr.tapHighz, 0x04)],
      (boundaryOpen s = true → s.sys.boundary = false → ∃ t, exec e.1 s = .next t ∧ t.sys.boundary = true ∧ t.sys.tapIr = e.2 ∧ t.jn.opened = false ∧
        (∀ c < 16, (coreAt t c).state = 0) ∧ (∀ j ∈ t.jobs, isLive j = true → j.phase ≠ .running)) ∧
      (boundaryOpen s = false ∨ s.sys.boundary = true → exec e.1 s = .next s)) ∧
    (s.sys.boundary = true → exec .tapIdcode s = .next (emit s (.tdo 0xB7360A9F)) ∧ exec .tapBypass s = .next s ∧ exec .tapMbist s = .next s ∧
      ∀ pre cells, exec (.tapSamplePreload pre cells) s = .next s) ∧
    (s.sys.boundary = false →
      exec .tapIdcode s = .next (emit { s with sys := { s.sys with tapIr := 0x01 } } (.tdo 0xB7360A9F)) ∧
      exec .tapBypass s = .next { s with sys := { s.sys with tapIr := 0xFF } } ∧
      (∀ cells, exec (.tapSamplePreload true cells) s = .next { s with sys := { s.sys with tapIr := 0x02, boundaryReg := cells } }) ∧
      (∀ cells, exec (.tapSamplePreload false cells) s = .next (emit { drawn s 1 with sys := { s.sys with tapIr := 0x02 } } (.tdo (Config.freeValue s.freeCtr)))) ∧
      (s.sys.porstN = true → testMode s = true → ∃ t, exec .tapMbist s = .next t ∧ t.sys.mbistRan = true ∧ t.jobs = [] ∧ t.queues = [] ∧ t.cache = [] ∧ t.yard = [] ∧
        t.tk.slots = [] ∧ t.jn.opened = false ∧ (∀ c, (coreAt t c).mem = []) ∧
        (∀ b, smGet 0 s.fc.spareRows b ≤ smGet 0 t.fc.spareRows b ∧
          (smGet 0 s.fc.spareRows b ≤ installedRows b → smGet 0 t.fc.spareRows b ≤ installedRows b)))) ∧
    (testMode s = false → exec .tapMbist s = .next s)

/-- The compare unit and the measurement registers (R298 to R300, Tables 13.4, 13.9): a compare started reads "no match" until it ends; it
ends in the matching pair exactly where the slot is valid, long enough and agrees; a write of the expected value or of the control without
go gives "no match" and spoils a compare that runs; an extend needs the Benxis code of a paddock with extend rights. -/
def Obligations.CompareAndMeasure : Prop :=
  ∀ (s : State) (fn p : Nat),
    (HostAt s fn p →
      (∀ (v : W64) (size : Nat), size = 4 ∨ size = 8 →
        (hasBit v.toNat 11 = true → ∃ t, exec (.dgCmpGo fn 0xA340 size v) s = .next t ∧ (fnAt t fn).cmpGo = true ∧ (fnAt t fn).cmpEq = 0#32 ∧
          (fnAt t fn).cmpNe = 0xFFFFFFFF#32 ∧ (fnAt t fn).cmpSlot = bits v.toNat 0 3 ∧ (fnAt t fn).cmpLen = bits v.toNat 4 7 ∧ (fnAt t fn).cmpSpoiled = false ∧
          ∀ n, n ≠ fn → fnAt t n = fnAt s n) ∧
        (hasBit v.toNat 11 = false → ∃ t, exec (.dgCmpReset fn 0xA340 size v) s = .next t ∧ (fnAt t fn).cmpEq = 0#32 ∧ (fnAt t fn).cmpNe = 0xFFFFFFFF#32 ∧
          (fnAt t fn).cmpSlot = bits v.toNat 0 3 ∧ (fnAt t fn).cmpSpoiled = (fnAt s fn).cmpGo)) ∧
      (∀ (v : W64) (k : Nat), k < 8 → (fnAt s fn).cmpExpect.length = 64 → ∃ t, exec (.dgCmpReset fn (0xA300 + 8 * k) 8 v) s = .next t ∧
        slice (fnAt t fn).cmpExpect (8 * k) 8 = leBytes 8 v.toNat ∧ (∀ m < 8, m ≠ k → slice (fnAt t fn).cmpExpect (8 * m) 8 = slice (fnAt s fn).cmpExpect (8 * m) 8) ∧
        (fnAt t fn).cmpEq = 0#32 ∧ (fnAt t fn).cmpSpoiled = (fnAt s fn).cmpGo)) ∧
    ((fnAt s fn).cmpGo = true → padOfFn s fn = some p →
      let f := fnAt s fn
      let x := smGet {} (padAt s p).results f.cmpSlot
      let same := 1 ≤ f.cmpLen ∧ f.cmpLen ≤ 64 ∧ x.valid = true ∧ f.cmpLen ≤ x.len ∧ x.data.take f.cmpLen = f.cmpExpect.take f.cmpLen
      ∃ t, exec (.dgCmpDone fn) s = .next t ∧ (fnAt t fn).cmpGo = false ∧
        (same ∧ f.cmpSpoiled = false → (fnAt t fn).cmpEq = 0x5A5AA5A5#32 ∧ (fnAt t fn).cmpNe = 0xA5A55A5A#32) ∧
        (¬same ∨ f.cmpSpoiled = true → (fnAt t fn).cmpEq = 0#32 ∧ (fnAt t fn).cmpNe = 0xFFFFFFFF#32)) ∧
    (∀ (m r : Nat) (v : W64),
      (m < 65 → exec (.mrExtendWrite m r v) s = .next s) ∧
      (p < 32 → r < 16 → extendRights s p = true → ∃ t, exec (.mrExtendWrite (65 + p) r v) s = .next t ∧
        smGet (zeros 48) (padAt t p).mrs r = sha3_384 (smGet (zeros 48) (padAt s p).mrs r ++ leBytes 8 v.toNat) ∧
        (∀ k, k ≠ r → smGet (zeros 48) (padAt t p).mrs k = smGet (zeros 48) (padAt s p).mrs k) ∧ ∀ q, q ≠ p → padAt t q = padAt s q) ∧
      (p < 32 → extendRights s p = false → exec (.mrExtendWrite (65 + p) r v) s = .next s))

/-- The tack room and the cache in the background (R191, R260, R341 to R343): a blob key that can be read and opened stands in its slots and
its jobs go on, one that cannot ends them ST_KEY_ABSENT detail 0x02; the restore returns every slot with a readable copy and loses the
others; sticky entries come back; a remask pass counts and draws a new mask. -/
def Obligations.TackBackground : Prop :=
  ∀ (s : State), NothingDue s → s.en.flushActive = false →
    (∀ seq j b k, jobOf s seq = some j → j.waitKey = true → tackRefuses s = false → blobsOf j.paddock j.desc = [b] → (blobAt s b).loadedAt = some k →
      (blobAt s b).loaded = false →
      let e := blobAt s b
      let readable := fun (r0 r1 : Bool) => (r0 && e.copy0 && !s.hl.failed0) || (r1 && e.copy1 && !s.hl.failed1)
      (∀ r0 r1 key, readable r0 r1 = true → openBlob s b = some key → ∃ t, exec (.blobLoadDone seq r0 r1) s = .next t ∧ (blobAt t b).loaded = true ∧
        (slotAt t k).material = key ∧ ∀ x ∈ t.jobs, isLive x = true → b ∈ blobsOf x.paddock x.desc → x.waitKey = false) ∧
      (∀ r0 r1, readable r0 r1 = false ∨ openBlob s b = none → j.issued = false → j.fixed = 0 → j.phase = .staged → j.desc.opcode ≠ 0x0F05 →
        (∀ x ∈ s.jobs, waitsBlob b x = true → x = j) → s.jobs.Nodup → (∀ x ∈ s.jobs, x.silent = false) →
        ∃ t x, exec (.blobLoadDone seq r0 r1) s = .next t ∧ jobOf t seq = some x ∧ x.phase = .finished ∧ x.status = 0x0402 ∧ (blobAt t b).loadedAt = none)) ∧
    (s.tk.restoring = true → s.tk.unsealed = true → s.tk.hold = false → smWf {} s.tk.slots = true →
      ∃ t, exec .tkRestore s = .next t ∧ t.tk.restoring = false ∧
        (s.jobs = [] → ∀ n, (slotAt s n).state = 5 →
          (copyReadable s (slotAt s n) = true → slotAt t n = { slotAt s n with state := if (slotAt s n).revoked then 3 else 2 }) ∧
          (copyReadable s (slotAt s n) = false → slotAt t n = { state := 6, gen := min 0x7FFFFF ((slotAt s n).gen + 1) })) ∧
        (s.jobs = [] → ∀ n, (slotAt s n).state ≠ 5 → slotAt t n = slotAt s n)) ∧
    (s.sys.bootState = 1 → s.hl.failed0 = false ∨ s.hl.failed1 = false → smWf {} s.cache = true →
      ∃ t, exec .stickyRestore s = .next t ∧ ∀ k, cacheAt t k = if (cacheAt s k).restoring then { cacheAt s k with restoring := false, complete := true } else cacheAt s k) ∧
    (s.tk.unsealed = true → sourceServes s = true → s.rng.waiting = [] → 1 ≤ s.rng.store →
      ∃ t, exec .remaskPass s = .next t ∧ t.tk.remask = (s.tk.remask + 1) % 2 ^ 32 ∧ t.tk.maskDraw = s.freeCtr ∧ t.tk.slots = s.tk.slots ∧
        t.rng.store = s.rng.store - 1) ∧
    (s.tk.unsealed = false → exec .remaskPass s = .next s)
end

