-- ==== Sys2Proof/Laws/Sparse.lean ====
section
/-! SUPPORT. Sparse.lean: the laws of the indexed collections: read after write, and the canonical form. -/

namespace Sys2Proof.Machine

open Sys2Proof

variable {α : Type} (d : α)

theorem smGet_smIns (m : SMap α) (k j : Nat) (v : α) : smGet d (smIns m k v) j = if j = k then v else smGet d m j := by
  induction m with
  | nil => simp [smIns, smGet, eq_comm]
  | cons e r ih =>
    obtain ⟨i, w⟩ := e
    simp only [smIns]
    split
    · simp [smGet, eq_comm]
    · split
      · next h => subst h; by_cases hj : k = j <;> simp [smGet, hj, eq_comm]
      · next h1 h2 =>
        by_cases hj : i = j
        · have : j ≠ k := fun e => h2 (by omega)
          simp [smGet, hj, this]
        · simp [smGet, hj, ih]

theorem smGet_smDel (m : SMap α) (k j : Nat) : smGet d (smDel m k) j = if j = k then d else smGet d m j := by
  induction m with
  | nil => simp [smDel, smGet]
  | cons e r ih =>
    obtain ⟨i, w⟩ := e
    simp only [smDel]
    split
    · next h => subst h; rw [ih]; by_cases hj : j = i <;> simp [smGet, hj, eq_comm]
    · next h =>
      by_cases hj : i = j
      · have : j ≠ k := fun e => h (by omega)
        simp [smGet, hj, this]
      · simp [smGet, hj, ih]

/-- Read after write: the value written at its index, and every other index as it was. -/
theorem smGet_smSet [DecidableEq α] (m : SMap α) (k j : Nat) (v : α) : smGet d (smSet d m k v) j = if j = k then v else smGet d m j := by
  unfold smSet
  split
  · next h => rw [smGet_smDel, h]
  · exact smGet_smIns d m k j v

@[simp] theorem smGet_smSet_self [DecidableEq α] (m : SMap α) (k : Nat) (v : α) : smGet d (smSet d m k v) k = v := by simp [smGet_smSet]

theorem smGet_smMod [DecidableEq α] (m : SMap α) (k j : Nat) (f : α → α) :
    smGet d (smMod d m k f) j = if j = k then f (smGet d m k) else smGet d m j := smGet_smSet d m k j _

/-! ## The canonical form -/

theorem smWfFrom_mono [DecidableEq α] {m : SMap α} {a b : Nat} (h : smWfFrom d b m = true) (hab : a ≤ b) : smWfFrom d a m = true := by
  cases m with
  | nil => rfl
  | cons e r =>
    obtain ⟨k, v⟩ := e
    simp only [smWfFrom, Bool.and_eq_true, decide_eq_true_eq] at h ⊢
    exact ⟨⟨by omega, h.1.2⟩, h.2⟩

theorem smWfFrom_smIns [DecidableEq α] {m : SMap α} {lo k : Nat} {v : α} (h : smWfFrom d lo m = true) (hk : lo ≤ k) (hv : v ≠ d) :
    smWfFrom d lo (smIns m k v) = true := by
  induction m generalizing lo with
  | nil => simp [smIns, smWfFrom, hk, hv]
  | cons e r ih =>
    obtain ⟨i, w⟩ := e
    simp only [smWfFrom, Bool.and_eq_true, decide_eq_true_eq] at h
    simp only [smIns]
    split
    · next hlt => simp only [smWfFrom, Bool.and_eq_true, decide_eq_true_eq]; exact ⟨⟨hk, hv⟩, ⟨by omega, h.1.2⟩, h.2⟩
    · split
      · next e => subst e; simp only [smWfFrom, Bool.and_eq_true, decide_eq_true_eq]; exact ⟨⟨hk, hv⟩, h.2⟩
      · next h1 h2 =>
        simp only [smWfFrom, Bool.and_eq_true, decide_eq_true_eq]
        exact ⟨h.1, ih h.2 (by omega)⟩

theorem smWfFrom_smDel [DecidableEq α] {m : SMap α} {lo k : Nat} (h : smWfFrom d lo m = true) : smWfFrom d lo (smDel m k) = true := by
  induction m generalizing lo with
  | nil => rfl
  | cons e r ih =>
    obtain ⟨i, w⟩ := e
    simp only [smWfFrom, Bool.and_eq_true, decide_eq_true_eq] at h
    simp only [smDel]
    split
    · exact smWfFrom_mono d (ih h.2) (by omega)
    · simp only [smWfFrom, Bool.and_eq_true, decide_eq_true_eq]; exact ⟨h.1, ih h.2⟩

/-- A write keeps the canonical form. -/
theorem smWf_smSet [DecidableEq α] {m : SMap α} (k : Nat) (v : α) (h : smWf d m = true) : smWf d (smSet d m k v) = true := by
  unfold smSet
  split
  · exact smWfFrom_smDel d h
  · next hv => exact smWfFrom_smIns d h (Nat.zero_le k) hv

theorem smWf_smMod [DecidableEq α] {m : SMap α} (k : Nat) (f : α → α) (h : smWf d m = true) : smWf d (smMod d m k f) = true :=
  smWf_smSet d k _ h

theorem smWfFrom_smMap [DecidableEq α] (f : Nat → α → α) {m : SMap α} {lo : Nat} (h : smWfFrom d lo m = true) :
    smWfFrom d lo (smMap d f m) = true := by
  induction m generalizing lo with
  | nil => rfl
  | cons e r ih =>
    obtain ⟨i, w⟩ := e
    simp only [smWfFrom, Bool.and_eq_true, decide_eq_true_eq] at h
    simp only [smMap]
    split
    · exact smWfFrom_mono d (ih h.2) (by omega)
    · next hv => simp only [smWfFrom, Bool.and_eq_true, decide_eq_true_eq]; exact ⟨⟨h.1.1, hv⟩, ih h.2⟩

theorem smWf_smMap [DecidableEq α] (f : Nat → α → α) {m : SMap α} (h : smWf d m = true) : smWf d (smMap d f m) = true :=
  smWfFrom_smMap d f h

theorem smWf_nil [DecidableEq α] : smWf d ([] : SMap α) = true := rfl

end Sys2Proof.Machine
end

