-- ==== Sys2Proof/Laws/State.lean ====
section
/-! SUPPORT. State.lean: what each named update of State leaves as it was, one lemma for each field, and reading a unit after
writing one. -/

namespace Sys2Proof.Machine

open Sys2Proof

/-! ## putFn -/

@[simp] theorem putFn_time (s : State) (n : Nat) (x : Fn) : (putFn s n x).time = s.time := rfl
@[simp] theorem putFn_sys (s : State) (n : Nat) (x : Fn) : (putFn s n x).sys = s.sys := rfl
@[simp] theorem putFn_plan (s : State) (n : Nat) (x : Fn) : (putFn s n x).plan = s.plan := rfl
@[simp] theorem putFn_pl (s : State) (n : Nat) (x : Fn) : (putFn s n x).pl = s.pl := rfl
@[simp] theorem putFn_lc (s : State) (n : Nat) (x : Fn) : (putFn s n x).lc = s.lc := rfl
@[simp] theorem putFn_dbg (s : State) (n : Nat) (x : Fn) : (putFn s n x).dbg = s.dbg := rfl
@[simp] theorem putFn_en (s : State) (n : Nat) (x : Fn) : (putFn s n x).en = s.en := rfl
@[simp] theorem putFn_port (s : State) (n : Nat) (x : Fn) : (putFn s n x).port = s.port := rfl
@[simp] theorem putFn_queues (s : State) (n : Nat) (x : Fn) : (putFn s n x).queues = s.queues := rfl
@[simp] theorem putFn_pads (s : State) (n : Nat) (x : Fn) : (putFn s n x).pads = s.pads := rfl
@[simp] theorem putFn_jobs (s : State) (n : Nat) (x : Fn) : (putFn s n x).jobs = s.jobs := rfl
@[simp] theorem putFn_jn (s : State) (n : Nat) (x : Fn) : (putFn s n x).jn = s.jn := rfl
@[simp] theorem putFn_stalls (s : State) (n : Nat) (x : Fn) : (putFn s n x).stalls = s.stalls := rfl
@[simp] theorem putFn_yard (s : State) (n : Nat) (x : Fn) : (putFn s n x).yard = s.yard := rfl
@[simp] theorem putFn_yardRetired (s : State) (n : Nat) (x : Fn) : (putFn s n x).yardRetired = s.yardRetired := rfl
@[simp] theorem putFn_cache (s : State) (n : Nat) (x : Fn) : (putFn s n x).cache = s.cache := rfl
@[simp] theorem putFn_tk (s : State) (n : Nat) (x : Fn) : (putFn s n x).tk = s.tk := rfl
@[simp] theorem putFn_rng (s : State) (n : Nat) (x : Fn) : (putFn s n x).rng = s.rng := rfl
@[simp] theorem putFn_cores (s : State) (n : Nat) (x : Fn) : (putFn s n x).cores = s.cores := rfl
@[simp] theorem putFn_feeds (s : State) (n : Nat) (x : Fn) : (putFn s n x).feeds = s.feeds := rfl
@[simp] theorem putFn_fc (s : State) (n : Nat) (x : Fn) : (putFn s n x).fc = s.fc := rfl
@[simp] theorem putFn_tp (s : State) (n : Nat) (x : Fn) : (putFn s n x).tp = s.tp := rfl
@[simp] theorem putFn_hl (s : State) (n : Nat) (x : Fn) : (putFn s n x).hl = s.hl := rfl
@[simp] theorem putFn_tt (s : State) (n : Nat) (x : Fn) : (putFn s n x).tt = s.tt := rfl
@[simp] theorem putFn_lk (s : State) (n : Nat) (x : Fn) : (putFn s n x).lk = s.lk := rfl
@[simp] theorem putFn_scans (s : State) (n : Nat) (x : Fn) : (putFn s n x).scans = s.scans := rfl
@[simp] theorem putFn_out (s : State) (n : Nat) (x : Fn) : (putFn s n x).out = s.out := rfl
@[simp] theorem putFn_freeCtr (s : State) (n : Nat) (x : Fn) : (putFn s n x).freeCtr = s.freeCtr := rfl
@[simp] theorem putFn_pending (s : State) (n : Nat) (x : Fn) : (putFn s n x).pending = s.pending := rfl

/-! ## modFn -/

@[simp] theorem modFn_time (s : State) (n : Nat) (g : Fn → Fn) : (modFn s n g).time = s.time := rfl
@[simp] theorem modFn_sys (s : State) (n : Nat) (g : Fn → Fn) : (modFn s n g).sys = s.sys := rfl
@[simp] theorem modFn_plan (s : State) (n : Nat) (g : Fn → Fn) : (modFn s n g).plan = s.plan := rfl
@[simp] theorem modFn_pl (s : State) (n : Nat) (g : Fn → Fn) : (modFn s n g).pl = s.pl := rfl
@[simp] theorem modFn_lc (s : State) (n : Nat) (g : Fn → Fn) : (modFn s n g).lc = s.lc := rfl
@[simp] theorem modFn_dbg (s : State) (n : Nat) (g : Fn → Fn) : (modFn s n g).dbg = s.dbg := rfl
@[simp] theorem modFn_en (s : State) (n : Nat) (g : Fn → Fn) : (modFn s n g).en = s.en := rfl
@[simp] theorem modFn_port (s : State) (n : Nat) (g : Fn → Fn) : (modFn s n g).port = s.port := rfl
@[simp] theorem modFn_queues (s : State) (n : Nat) (g : Fn → Fn) : (modFn s n g).queues = s.queues := rfl
@[simp] theorem modFn_pads (s : State) (n : Nat) (g : Fn → Fn) : (modFn s n g).pads = s.pads := rfl
@[simp] theorem modFn_jobs (s : State) (n : Nat) (g : Fn → Fn) : (modFn s n g).jobs = s.jobs := rfl
@[simp] theorem modFn_jn (s : State) (n : Nat) (g : Fn → Fn) : (modFn s n g).jn = s.jn := rfl
@[simp] theorem modFn_stalls (s : State) (n : Nat) (g : Fn → Fn) : (modFn s n g).stalls = s.stalls := rfl
@[simp] theorem modFn_yard (s : State) (n : Nat) (g : Fn → Fn) : (modFn s n g).yard = s.yard := rfl
@[simp] theorem modFn_yardRetired (s : State) (n : Nat) (g : Fn → Fn) : (modFn s n g).yardRetired = s.yardRetired := rfl
@[simp] theorem modFn_cache (s : State) (n : Nat) (g : Fn → Fn) : (modFn s n g).cache = s.cache := rfl
@[simp] theorem modFn_tk (s : State) (n : Nat) (g : Fn → Fn) : (modFn s n g).tk = s.tk := rfl
@[simp] theorem modFn_rng (s : State) (n : Nat) (g : Fn → Fn) : (modFn s n g).rng = s.rng := rfl
@[simp] theorem modFn_cores (s : State) (n : Nat) (g : Fn → Fn) : (modFn s n g).cores = s.cores := rfl
@[simp] theorem modFn_feeds (s : State) (n : Nat) (g : Fn → Fn) : (modFn s n g).feeds = s.feeds := rfl
@[simp] theorem modFn_fc (s : State) (n : Nat) (g : Fn → Fn) : (modFn s n g).fc = s.fc := rfl
@[simp] theorem modFn_tp (s : State) (n : Nat) (g : Fn → Fn) : (modFn s n g).tp = s.tp := rfl
@[simp] theorem modFn_hl (s : State) (n : Nat) (g : Fn → Fn) : (modFn s n g).hl = s.hl := rfl
@[simp] theorem modFn_tt (s : State) (n : Nat) (g : Fn → Fn) : (modFn s n g).tt = s.tt := rfl
@[simp] theorem modFn_lk (s : State) (n : Nat) (g : Fn → Fn) : (modFn s n g).lk = s.lk := rfl
@[simp] theorem modFn_scans (s : State) (n : Nat) (g : Fn → Fn) : (modFn s n g).scans = s.scans := rfl
@[simp] theorem modFn_out (s : State) (n : Nat) (g : Fn → Fn) : (modFn s n g).out = s.out := rfl
@[simp] theorem modFn_freeCtr (s : State) (n : Nat) (g : Fn → Fn) : (modFn s n g).freeCtr = s.freeCtr := rfl
@[simp] theorem modFn_pending (s : State) (n : Nat) (g : Fn → Fn) : (modFn s n g).pending = s.pending := rfl

/-! ## putQ -/

@[simp] theorem putQ_time (s : State) (n : Nat) (x : Queue) : (putQ s n x).time = s.time := rfl
@[simp] theorem putQ_sys (s : State) (n : Nat) (x : Queue) : (putQ s n x).sys = s.sys := rfl
@[simp] theorem putQ_plan (s : State) (n : Nat) (x : Queue) : (putQ s n x).plan = s.plan := rfl
@[simp] theorem putQ_pl (s : State) (n : Nat) (x : Queue) : (putQ s n x).pl = s.pl := rfl
@[simp] theorem putQ_lc (s : State) (n : Nat) (x : Queue) : (putQ s n x).lc = s.lc := rfl
@[simp] theorem putQ_dbg (s : State) (n : Nat) (x : Queue) : (putQ s n x).dbg = s.dbg := rfl
@[simp] theorem putQ_en (s : State) (n : Nat) (x : Queue) : (putQ s n x).en = s.en := rfl
@[simp] theorem putQ_port (s : State) (n : Nat) (x : Queue) : (putQ s n x).port = s.port := rfl
@[simp] theorem putQ_fns (s : State) (n : Nat) (x : Queue) : (putQ s n x).fns = s.fns := rfl
@[simp] theorem putQ_pads (s : State) (n : Nat) (x : Queue) : (putQ s n x).pads = s.pads := rfl
@[simp] theorem putQ_jobs (s : State) (n : Nat) (x : Queue) : (putQ s n x).jobs = s.jobs := rfl
@[simp] theorem putQ_jn (s : State) (n : Nat) (x : Queue) : (putQ s n x).jn = s.jn := rfl
@[simp] theorem putQ_stalls (s : State) (n : Nat) (x : Queue) : (putQ s n x).stalls = s.stalls := rfl
@[simp] theorem putQ_yard (s : State) (n : Nat) (x : Queue) : (putQ s n x).yard = s.yard := rfl
@[simp] theorem putQ_yardRetired (s : State) (n : Nat) (x : Queue) : (putQ s n x).yardRetired = s.yardRetired := rfl
@[simp] theorem putQ_cache (s : State) (n : Nat) (x : Queue) : (putQ s n x).cache = s.cache := rfl
@[simp] theorem putQ_tk (s : State) (n : Nat) (x : Queue) : (putQ s n x).tk = s.tk := rfl
@[simp] theorem putQ_rng (s : State) (n : Nat) (x : Queue) : (putQ s n x).rng = s.rng := rfl
@[simp] theorem putQ_cores (s : State) (n : Nat) (x : Queue) : (putQ s n x).cores = s.cores := rfl
@[simp] theorem putQ_feeds (s : State) (n : Nat) (x : Queue) : (putQ s n x).feeds = s.feeds := rfl
@[simp] theorem putQ_fc (s : State) (n : Nat) (x : Queue) : (putQ s n x).fc = s.fc := rfl
@[simp] theorem putQ_tp (s : State) (n : Nat) (x : Queue) : (putQ s n x).tp = s.tp := rfl
@[simp] theorem putQ_hl (s : State) (n : Nat) (x : Queue) : (putQ s n x).hl = s.hl := rfl
@[simp] theorem putQ_tt (s : State) (n : Nat) (x : Queue) : (putQ s n x).tt = s.tt := rfl
@[simp] theorem putQ_lk (s : State) (n : Nat) (x : Queue) : (putQ s n x).lk = s.lk := rfl
@[simp] theorem putQ_scans (s : State) (n : Nat) (x : Queue) : (putQ s n x).scans = s.scans := rfl
@[simp] theorem putQ_out (s : State) (n : Nat) (x : Queue) : (putQ s n x).out = s.out := rfl
@[simp] theorem putQ_freeCtr (s : State) (n : Nat) (x : Queue) : (putQ s n x).freeCtr = s.freeCtr := rfl
@[simp] theorem putQ_pending (s : State) (n : Nat) (x : Queue) : (putQ s n x).pending = s.pending := rfl

/-! ## modQ -/

@[simp] theorem modQ_time (s : State) (n : Nat) (g : Queue → Queue) : (modQ s n g).time = s.time := rfl
@[simp] theorem modQ_sys (s : State) (n : Nat) (g : Queue → Queue) : (modQ s n g).sys = s.sys := rfl
@[simp] theorem modQ_plan (s : State) (n : Nat) (g : Queue → Queue) : (modQ s n g).plan = s.plan := rfl
@[simp] theorem modQ_pl (s : State) (n : Nat) (g : Queue → Queue) : (modQ s n g).pl = s.pl := rfl
@[simp] theorem modQ_lc (s : State) (n : Nat) (g : Queue → Queue) : (modQ s n g).lc = s.lc := rfl
@[simp] theorem modQ_dbg (s : State) (n : Nat) (g : Queue → Queue) : (modQ s n g).dbg = s.dbg := rfl
@[simp] theorem modQ_en (s : State) (n : Nat) (g : Queue → Queue) : (modQ s n g).en = s.en := rfl
@[simp] theorem modQ_port (s : State) (n : Nat) (g : Queue → Queue) : (modQ s n g).port = s.port := rfl
@[simp] theorem modQ_fns (s : State) (n : Nat) (g : Queue → Queue) : (modQ s n g).fns = s.fns := rfl
@[simp] theorem modQ_pads (s : State) (n : Nat) (g : Queue → Queue) : (modQ s n g).pads = s.pads := rfl
@[simp] theorem modQ_jobs (s : State) (n : Nat) (g : Queue → Queue) : (modQ s n g).jobs = s.jobs := rfl
@[simp] theorem modQ_jn (s : State) (n : Nat) (g : Queue → Queue) : (modQ s n g).jn = s.jn := rfl
@[simp] theorem modQ_stalls (s : State) (n : Nat) (g : Queue → Queue) : (modQ s n g).stalls = s.stalls := rfl
@[simp] theorem modQ_yard (s : State) (n : Nat) (g : Queue → Queue) : (modQ s n g).yard = s.yard := rfl
@[simp] theorem modQ_yardRetired (s : State) (n : Nat) (g : Queue → Queue) : (modQ s n g).yardRetired = s.yardRetired := rfl
@[simp] theorem modQ_cache (s : State) (n : Nat) (g : Queue → Queue) : (modQ s n g).cache = s.cache := rfl
@[simp] theorem modQ_tk (s : State) (n : Nat) (g : Queue → Queue) : (modQ s n g).tk = s.tk := rfl
@[simp] theorem modQ_rng (s : State) (n : Nat) (g : Queue → Queue) : (modQ s n g).rng = s.rng := rfl
@[simp] theorem modQ_cores (s : State) (n : Nat) (g : Queue → Queue) : (modQ s n g).cores = s.cores := rfl
@[simp] theorem modQ_feeds (s : State) (n : Nat) (g : Queue → Queue) : (modQ s n g).feeds = s.feeds := rfl
@[simp] theorem modQ_fc (s : State) (n : Nat) (g : Queue → Queue) : (modQ s n g).fc = s.fc := rfl
@[simp] theorem modQ_tp (s : State) (n : Nat) (g : Queue → Queue) : (modQ s n g).tp = s.tp := rfl
@[simp] theorem modQ_hl (s : State) (n : Nat) (g : Queue → Queue) : (modQ s n g).hl = s.hl := rfl
@[simp] theorem modQ_tt (s : State) (n : Nat) (g : Queue → Queue) : (modQ s n g).tt = s.tt := rfl
@[simp] theorem modQ_lk (s : State) (n : Nat) (g : Queue → Queue) : (modQ s n g).lk = s.lk := rfl
@[simp] theorem modQ_scans (s : State) (n : Nat) (g : Queue → Queue) : (modQ s n g).scans = s.scans := rfl
@[simp] theorem modQ_out (s : State) (n : Nat) (g : Queue → Queue) : (modQ s n g).out = s.out := rfl
@[simp] theorem modQ_freeCtr (s : State) (n : Nat) (g : Queue → Queue) : (modQ s n g).freeCtr = s.freeCtr := rfl
@[simp] theorem modQ_pending (s : State) (n : Nat) (g : Queue → Queue) : (modQ s n g).pending = s.pending := rfl

/-! ## putPad -/

@[simp] theorem putPad_time (s : State) (n : Nat) (x : Pad) : (putPad s n x).time = s.time := rfl
@[simp] theorem putPad_sys (s : State) (n : Nat) (x : Pad) : (putPad s n x).sys = s.sys := rfl
@[simp] theorem putPad_plan (s : State) (n : Nat) (x : Pad) : (putPad s n x).plan = s.plan := rfl
@[simp] theorem putPad_pl (s : State) (n : Nat) (x : Pad) : (putPad s n x).pl = s.pl := rfl
@[simp] theorem putPad_lc (s : State) (n : Nat) (x : Pad) : (putPad s n x).lc = s.lc := rfl
@[simp] theorem putPad_dbg (s : State) (n : Nat) (x : Pad) : (putPad s n x).dbg = s.dbg := rfl
@[simp] theorem putPad_en (s : State) (n : Nat) (x : Pad) : (putPad s n x).en = s.en := rfl
@[simp] theorem putPad_port (s : State) (n : Nat) (x : Pad) : (putPad s n x).port = s.port := rfl
@[simp] theorem putPad_fns (s : State) (n : Nat) (x : Pad) : (putPad s n x).fns = s.fns := rfl
@[simp] theorem putPad_queues (s : State) (n : Nat) (x : Pad) : (putPad s n x).queues = s.queues := rfl
@[simp] theorem putPad_jobs (s : State) (n : Nat) (x : Pad) : (putPad s n x).jobs = s.jobs := rfl
@[simp] theorem putPad_jn (s : State) (n : Nat) (x : Pad) : (putPad s n x).jn = s.jn := rfl
@[simp] theorem putPad_stalls (s : State) (n : Nat) (x : Pad) : (putPad s n x).stalls = s.stalls := rfl
@[simp] theorem putPad_yard (s : State) (n : Nat) (x : Pad) : (putPad s n x).yard = s.yard := rfl
@[simp] theorem putPad_yardRetired (s : State) (n : Nat) (x : Pad) : (putPad s n x).yardRetired = s.yardRetired := rfl
@[simp] theorem putPad_cache (s : State) (n : Nat) (x : Pad) : (putPad s n x).cache = s.cache := rfl
@[simp] theorem putPad_tk (s : State) (n : Nat) (x : Pad) : (putPad s n x).tk = s.tk := rfl
@[simp] theorem putPad_rng (s : State) (n : Nat) (x : Pad) : (putPad s n x).rng = s.rng := rfl
@[simp] theorem putPad_cores (s : State) (n : Nat) (x : Pad) : (putPad s n x).cores = s.cores := rfl
@[simp] theorem putPad_feeds (s : State) (n : Nat) (x : Pad) : (putPad s n x).feeds = s.feeds := rfl
@[simp] theorem putPad_fc (s : State) (n : Nat) (x : Pad) : (putPad s n x).fc = s.fc := rfl
@[simp] theorem putPad_tp (s : State) (n : Nat) (x : Pad) : (putPad s n x).tp = s.tp := rfl
@[simp] theorem putPad_hl (s : State) (n : Nat) (x : Pad) : (putPad s n x).hl = s.hl := rfl
@[simp] theorem putPad_tt (s : State) (n : Nat) (x : Pad) : (putPad s n x).tt = s.tt := rfl
@[simp] theorem putPad_lk (s : State) (n : Nat) (x : Pad) : (putPad s n x).lk = s.lk := rfl
@[simp] theorem putPad_scans (s : State) (n : Nat) (x : Pad) : (putPad s n x).scans = s.scans := rfl
@[simp] theorem putPad_out (s : State) (n : Nat) (x : Pad) : (putPad s n x).out = s.out := rfl
@[simp] theorem putPad_freeCtr (s : State) (n : Nat) (x : Pad) : (putPad s n x).freeCtr = s.freeCtr := rfl
@[simp] theorem putPad_pending (s : State) (n : Nat) (x : Pad) : (putPad s n x).pending = s.pending := rfl

/-! ## modPad -/

@[simp] theorem modPad_time (s : State) (n : Nat) (g : Pad → Pad) : (modPad s n g).time = s.time := rfl
@[simp] theorem modPad_sys (s : State) (n : Nat) (g : Pad → Pad) : (modPad s n g).sys = s.sys := rfl
@[simp] theorem modPad_plan (s : State) (n : Nat) (g : Pad → Pad) : (modPad s n g).plan = s.plan := rfl
@[simp] theorem modPad_pl (s : State) (n : Nat) (g : Pad → Pad) : (modPad s n g).pl = s.pl := rfl
@[simp] theorem modPad_lc (s : State) (n : Nat) (g : Pad → Pad) : (modPad s n g).lc = s.lc := rfl
@[simp] theorem modPad_dbg (s : State) (n : Nat) (g : Pad → Pad) : (modPad s n g).dbg = s.dbg := rfl
@[simp] theorem modPad_en (s : State) (n : Nat) (g : Pad → Pad) : (modPad s n g).en = s.en := rfl
@[simp] theorem modPad_port (s : State) (n : Nat) (g : Pad → Pad) : (modPad s n g).port = s.port := rfl
@[simp] theorem modPad_fns (s : State) (n : Nat) (g : Pad → Pad) : (modPad s n g).fns = s.fns := rfl
@[simp] theorem modPad_queues (s : State) (n : Nat) (g : Pad → Pad) : (modPad s n g).queues = s.queues := rfl
@[simp] theorem modPad_jobs (s : State) (n : Nat) (g : Pad → Pad) : (modPad s n g).jobs = s.jobs := rfl
@[simp] theorem modPad_jn (s : State) (n : Nat) (g : Pad → Pad) : (modPad s n g).jn = s.jn := rfl
@[simp] theorem modPad_stalls (s : State) (n : Nat) (g : Pad → Pad) : (modPad s n g).stalls = s.stalls := rfl
@[simp] theorem modPad_yard (s : State) (n : Nat) (g : Pad → Pad) : (modPad s n g).yard = s.yard := rfl
@[simp] theorem modPad_yardRetired (s : State) (n : Nat) (g : Pad → Pad) : (modPad s n g).yardRetired = s.yardRetired := rfl
@[simp] theorem modPad_cache (s : State) (n : Nat) (g : Pad → Pad) : (modPad s n g).cache = s.cache := rfl
@[simp] theorem modPad_tk (s : State) (n : Nat) (g : Pad → Pad) : (modPad s n g).tk = s.tk := rfl
@[simp] theorem modPad_rng (s : State) (n : Nat) (g : Pad → Pad) : (modPad s n g).rng = s.rng := rfl
@[simp] theorem modPad_cores (s : State) (n : Nat) (g : Pad → Pad) : (modPad s n g).cores = s.cores := rfl
@[simp] theorem modPad_feeds (s : State) (n : Nat) (g : Pad → Pad) : (modPad s n g).feeds = s.feeds := rfl
@[simp] theorem modPad_fc (s : State) (n : Nat) (g : Pad → Pad) : (modPad s n g).fc = s.fc := rfl
@[simp] theorem modPad_tp (s : State) (n : Nat) (g : Pad → Pad) : (modPad s n g).tp = s.tp := rfl
@[simp] theorem modPad_hl (s : State) (n : Nat) (g : Pad → Pad) : (modPad s n g).hl = s.hl := rfl
@[simp] theorem modPad_tt (s : State) (n : Nat) (g : Pad → Pad) : (modPad s n g).tt = s.tt := rfl
@[simp] theorem modPad_lk (s : State) (n : Nat) (g : Pad → Pad) : (modPad s n g).lk = s.lk := rfl
@[simp] theorem modPad_scans (s : State) (n : Nat) (g : Pad → Pad) : (modPad s n g).scans = s.scans := rfl
@[simp] theorem modPad_out (s : State) (n : Nat) (g : Pad → Pad) : (modPad s n g).out = s.out := rfl
@[simp] theorem modPad_freeCtr (s : State) (n : Nat) (g : Pad → Pad) : (modPad s n g).freeCtr = s.freeCtr := rfl
@[simp] theorem modPad_pending (s : State) (n : Nat) (g : Pad → Pad) : (modPad s n g).pending = s.pending := rfl

/-! ## putSt -/

@[simp] theorem putSt_time (s : State) (n : Nat) (x : Stall) : (putSt s n x).time = s.time := rfl
@[simp] theorem putSt_sys (s : State) (n : Nat) (x : Stall) : (putSt s n x).sys = s.sys := rfl
@[simp] theorem putSt_plan (s : State) (n : Nat) (x : Stall) : (putSt s n x).plan = s.plan := rfl
@[simp] theorem putSt_pl (s : State) (n : Nat) (x : Stall) : (putSt s n x).pl = s.pl := rfl
@[simp] theorem putSt_lc (s : State) (n : Nat) (x : Stall) : (putSt s n x).lc = s.lc := rfl
@[simp] theorem putSt_dbg (s : State) (n : Nat) (x : Stall) : (putSt s n x).dbg = s.dbg := rfl
@[simp] theorem putSt_en (s : State) (n : Nat) (x : Stall) : (putSt s n x).en = s.en := rfl
@[simp] theorem putSt_port (s : State) (n : Nat) (x : Stall) : (putSt s n x).port = s.port := rfl
@[simp] theorem putSt_fns (s : State) (n : Nat) (x : Stall) : (putSt s n x).fns = s.fns := rfl
@[simp] theorem putSt_queues (s : State) (n : Nat) (x : Stall) : (putSt s n x).queues = s.queues := rfl
@[simp] theorem putSt_pads (s : State) (n : Nat) (x : Stall) : (putSt s n x).pads = s.pads := rfl
@[simp] theorem putSt_jobs (s : State) (n : Nat) (x : Stall) : (putSt s n x).jobs = s.jobs := rfl
@[simp] theorem putSt_jn (s : State) (n : Nat) (x : Stall) : (putSt s n x).jn = s.jn := rfl
@[simp] theorem putSt_yard (s : State) (n : Nat) (x : Stall) : (putSt s n x).yard = s.yard := rfl
@[simp] theorem putSt_yardRetired (s : State) (n : Nat) (x : Stall) : (putSt s n x).yardRetired = s.yardRetired := rfl
@[simp] theorem putSt_cache (s : State) (n : Nat) (x : Stall) : (putSt s n x).cache = s.cache := rfl
@[simp] theorem putSt_tk (s : State) (n : Nat) (x : Stall) : (putSt s n x).tk = s.tk := rfl
@[simp] theorem putSt_rng (s : State) (n : Nat) (x : Stall) : (putSt s n x).rng = s.rng := rfl
@[simp] theorem putSt_cores (s : State) (n : Nat) (x : Stall) : (putSt s n x).cores = s.cores := rfl
@[simp] theorem putSt_feeds (s : State) (n : Nat) (x : Stall) : (putSt s n x).feeds = s.feeds := rfl
@[simp] theorem putSt_fc (s : State) (n : Nat) (x : Stall) : (putSt s n x).fc = s.fc := rfl
@[simp] theorem putSt_tp (s : State) (n : Nat) (x : Stall) : (putSt s n x).tp = s.tp := rfl
@[simp] theorem putSt_hl (s : State) (n : Nat) (x : Stall) : (putSt s n x).hl = s.hl := rfl
@[simp] theorem putSt_tt (s : State) (n : Nat) (x : Stall) : (putSt s n x).tt = s.tt := rfl
@[simp] theorem putSt_lk (s : State) (n : Nat) (x : Stall) : (putSt s n x).lk = s.lk := rfl
@[simp] theorem putSt_scans (s : State) (n : Nat) (x : Stall) : (putSt s n x).scans = s.scans := rfl
@[simp] theorem putSt_out (s : State) (n : Nat) (x : Stall) : (putSt s n x).out = s.out := rfl
@[simp] theorem putSt_freeCtr (s : State) (n : Nat) (x : Stall) : (putSt s n x).freeCtr = s.freeCtr := rfl
@[simp] theorem putSt_pending (s : State) (n : Nat) (x : Stall) : (putSt s n x).pending = s.pending := rfl

/-! ## modSt -/

@[simp] theorem modSt_time (s : State) (n : Nat) (g : Stall → Stall) : (modSt s n g).time = s.time := rfl
@[simp] theorem modSt_sys (s : State) (n : Nat) (g : Stall → Stall) : (modSt s n g).sys = s.sys := rfl
@[simp] theorem modSt_plan (s : State) (n : Nat) (g : Stall → Stall) : (modSt s n g).plan = s.plan := rfl
@[simp] theorem modSt_pl (s : State) (n : Nat) (g : Stall → Stall) : (modSt s n g).pl = s.pl := rfl
@[simp] theorem modSt_lc (s : State) (n : Nat) (g : Stall → Stall) : (modSt s n g).lc = s.lc := rfl
@[simp] theorem modSt_dbg (s : State) (n : Nat) (g : Stall → Stall) : (modSt s n g).dbg = s.dbg := rfl
@[simp] theorem modSt_en (s : State) (n : Nat) (g : Stall → Stall) : (modSt s n g).en = s.en := rfl
@[simp] theorem modSt_port (s : State) (n : Nat) (g : Stall → Stall) : (modSt s n g).port = s.port := rfl
@[simp] theorem modSt_fns (s : State) (n : Nat) (g : Stall → Stall) : (modSt s n g).fns = s.fns := rfl
@[simp] theorem modSt_queues (s : State) (n : Nat) (g : Stall → Stall) : (modSt s n g).queues = s.queues := rfl
@[simp] theorem modSt_pads (s : State) (n : Nat) (g : Stall → Stall) : (modSt s n g).pads = s.pads := rfl
@[simp] theorem modSt_jobs (s : State) (n : Nat) (g : Stall → Stall) : (modSt s n g).jobs = s.jobs := rfl
@[simp] theorem modSt_jn (s : State) (n : Nat) (g : Stall → Stall) : (modSt s n g).jn = s.jn := rfl
@[simp] theorem modSt_yard (s : State) (n : Nat) (g : Stall → Stall) : (modSt s n g).yard = s.yard := rfl
@[simp] theorem modSt_yardRetired (s : State) (n : Nat) (g : Stall → Stall) : (modSt s n g).yardRetired = s.yardRetired := rfl
@[simp] theorem modSt_cache (s : State) (n : Nat) (g : Stall → Stall) : (modSt s n g).cache = s.cache := rfl
@[simp] theorem modSt_tk (s : State) (n : Nat) (g : Stall → Stall) : (modSt s n g).tk = s.tk := rfl
@[simp] theorem modSt_rng (s : State) (n : Nat) (g : Stall → Stall) : (modSt s n g).rng = s.rng := rfl
@[simp] theorem modSt_cores (s : State) (n : Nat) (g : Stall → Stall) : (modSt s n g).cores = s.cores := rfl
@[simp] theorem modSt_feeds (s : State) (n : Nat) (g : Stall → Stall) : (modSt s n g).feeds = s.feeds := rfl
@[simp] theorem modSt_fc (s : State) (n : Nat) (g : Stall → Stall) : (modSt s n g).fc = s.fc := rfl
@[simp] theorem modSt_tp (s : State) (n : Nat) (g : Stall → Stall) : (modSt s n g).tp = s.tp := rfl
@[simp] theorem modSt_hl (s : State) (n : Nat) (g : Stall → Stall) : (modSt s n g).hl = s.hl := rfl
@[simp] theorem modSt_tt (s : State) (n : Nat) (g : Stall → Stall) : (modSt s n g).tt = s.tt := rfl
@[simp] theorem modSt_lk (s : State) (n : Nat) (g : Stall → Stall) : (modSt s n g).lk = s.lk := rfl
@[simp] theorem modSt_scans (s : State) (n : Nat) (g : Stall → Stall) : (modSt s n g).scans = s.scans := rfl
@[simp] theorem modSt_out (s : State) (n : Nat) (g : Stall → Stall) : (modSt s n g).out = s.out := rfl
@[simp] theorem modSt_freeCtr (s : State) (n : Nat) (g : Stall → Stall) : (modSt s n g).freeCtr = s.freeCtr := rfl
@[simp] theorem modSt_pending (s : State) (n : Nat) (g : Stall → Stall) : (modSt s n g).pending = s.pending := rfl

/-! ## putCore -/

@[simp] theorem putCore_time (s : State) (n : Nat) (x : Core) : (putCore s n x).time = s.time := rfl
@[simp] theorem putCore_sys (s : State) (n : Nat) (x : Core) : (putCore s n x).sys = s.sys := rfl
@[simp] theorem putCore_plan (s : State) (n : Nat) (x : Core) : (putCore s n x).plan = s.plan := rfl
@[simp] theorem putCore_pl (s : State) (n : Nat) (x : Core) : (putCore s n x).pl = s.pl := rfl
@[simp] theorem putCore_lc (s : State) (n : Nat) (x : Core) : (putCore s n x).lc = s.lc := rfl
@[simp] theorem putCore_dbg (s : State) (n : Nat) (x : Core) : (putCore s n x).dbg = s.dbg := rfl
@[simp] theorem putCore_en (s : State) (n : Nat) (x : Core) : (putCore s n x).en = s.en := rfl
@[simp] theorem putCore_port (s : State) (n : Nat) (x : Core) : (putCore s n x).port = s.port := rfl
@[simp] theorem putCore_fns (s : State) (n : Nat) (x : Core) : (putCore s n x).fns = s.fns := rfl
@[simp] theorem putCore_queues (s : State) (n : Nat) (x : Core) : (putCore s n x).queues = s.queues := rfl
@[simp] theorem putCore_pads (s : State) (n : Nat) (x : Core) : (putCore s n x).pads = s.pads := rfl
@[simp] theorem putCore_jobs (s : State) (n : Nat) (x : Core) : (putCore s n x).jobs = s.jobs := rfl
@[simp] theorem putCore_jn (s : State) (n : Nat) (x : Core) : (putCore s n x).jn = s.jn := rfl
@[simp] theorem putCore_stalls (s : State) (n : Nat) (x : Core) : (putCore s n x).stalls = s.stalls := rfl
@[simp] theorem putCore_yard (s : State) (n : Nat) (x : Core) : (putCore s n x).yard = s.yard := rfl
@[simp] theorem putCore_yardRetired (s : State) (n : Nat) (x : Core) : (putCore s n x).yardRetired = s.yardRetired := rfl
@[simp] theorem putCore_cache (s : State) (n : Nat) (x : Core) : (putCore s n x).cache = s.cache := rfl
@[simp] theorem putCore_tk (s : State) (n : Nat) (x : Core) : (putCore s n x).tk = s.tk := rfl
@[simp] theorem putCore_rng (s : State) (n : Nat) (x : Core) : (putCore s n x).rng = s.rng := rfl
@[simp] theorem putCore_feeds (s : State) (n : Nat) (x : Core) : (putCore s n x).feeds = s.feeds := rfl
@[simp] theorem putCore_fc (s : State) (n : Nat) (x : Core) : (putCore s n x).fc = s.fc := rfl
@[simp] theorem putCore_tp (s : State) (n : Nat) (x : Core) : (putCore s n x).tp = s.tp := rfl
@[simp] theorem putCore_hl (s : State) (n : Nat) (x : Core) : (putCore s n x).hl = s.hl := rfl
@[simp] theorem putCore_tt (s : State) (n : Nat) (x : Core) : (putCore s n x).tt = s.tt := rfl
@[simp] theorem putCore_lk (s : State) (n : Nat) (x : Core) : (putCore s n x).lk = s.lk := rfl
@[simp] theorem putCore_scans (s : State) (n : Nat) (x : Core) : (putCore s n x).scans = s.scans := rfl
@[simp] theorem putCore_out (s : State) (n : Nat) (x : Core) : (putCore s n x).out = s.out := rfl
@[simp] theorem putCore_freeCtr (s : State) (n : Nat) (x : Core) : (putCore s n x).freeCtr = s.freeCtr := rfl
@[simp] theorem putCore_pending (s : State) (n : Nat) (x : Core) : (putCore s n x).pending = s.pending := rfl

/-! ## modCore -/

@[simp] theorem modCore_time (s : State) (n : Nat) (g : Core → Core) : (modCore s n g).time = s.time := rfl
@[simp] theorem modCore_sys (s : State) (n : Nat) (g : Core → Core) : (modCore s n g).sys = s.sys := rfl
@[simp] theorem modCore_plan (s : State) (n : Nat) (g : Core → Core) : (modCore s n g).plan = s.plan := rfl
@[simp] theorem modCore_pl (s : State) (n : Nat) (g : Core → Core) : (modCore s n g).pl = s.pl := rfl
@[simp] theorem modCore_lc (s : State) (n : Nat) (g : Core → Core) : (modCore s n g).lc = s.lc := rfl
@[simp] theorem modCore_dbg (s : State) (n : Nat) (g : Core → Core) : (modCore s n g).dbg = s.dbg := rfl
@[simp] theorem modCore_en (s : State) (n : Nat) (g : Core → Core) : (modCore s n g).en = s.en := rfl
@[simp] theorem modCore_port (s : State) (n : Nat) (g : Core → Core) : (modCore s n g).port = s.port := rfl
@[simp] theorem modCore_fns (s : State) (n : Nat) (g : Core → Core) : (modCore s n g).fns = s.fns := rfl
@[simp] theorem modCore_queues (s : State) (n : Nat) (g : Core → Core) : (modCore s n g).queues = s.queues := rfl
@[simp] theorem modCore_pads (s : State) (n : Nat) (g : Core → Core) : (modCore s n g).pads = s.pads := rfl
@[simp] theorem modCore_jobs (s : State) (n : Nat) (g : Core → Core) : (modCore s n g).jobs = s.jobs := rfl
@[simp] theorem modCore_jn (s : State) (n : Nat) (g : Core → Core) : (modCore s n g).jn = s.jn := rfl
@[simp] theorem modCore_stalls (s : State) (n : Nat) (g : Core → Core) : (modCore s n g).stalls = s.stalls := rfl
@[simp] theorem modCore_yard (s : State) (n : Nat) (g : Core → Core) : (modCore s n g).yard = s.yard := rfl
@[simp] theorem modCore_yardRetired (s : State) (n : Nat) (g : Core → Core) : (modCore s n g).yardRetired = s.yardRetired := rfl
@[simp] theorem modCore_cache (s : State) (n : Nat) (g : Core → Core) : (modCore s n g).cache = s.cache := rfl
@[simp] theorem modCore_tk (s : State) (n : Nat) (g : Core → Core) : (modCore s n g).tk = s.tk := rfl
@[simp] theorem modCore_rng (s : State) (n : Nat) (g : Core → Core) : (modCore s n g).rng = s.rng := rfl
@[simp] theorem modCore_feeds (s : State) (n : Nat) (g : Core → Core) : (modCore s n g).feeds = s.feeds := rfl
@[simp] theorem modCore_fc (s : State) (n : Nat) (g : Core → Core) : (modCore s n g).fc = s.fc := rfl
@[simp] theorem modCore_tp (s : State) (n : Nat) (g : Core → Core) : (modCore s n g).tp = s.tp := rfl
@[simp] theorem modCore_hl (s : State) (n : Nat) (g : Core → Core) : (modCore s n g).hl = s.hl := rfl
@[simp] theorem modCore_tt (s : State) (n : Nat) (g : Core → Core) : (modCore s n g).tt = s.tt := rfl
@[simp] theorem modCore_lk (s : State) (n : Nat) (g : Core → Core) : (modCore s n g).lk = s.lk := rfl
@[simp] theorem modCore_scans (s : State) (n : Nat) (g : Core → Core) : (modCore s n g).scans = s.scans := rfl
@[simp] theorem modCore_out (s : State) (n : Nat) (g : Core → Core) : (modCore s n g).out = s.out := rfl
@[simp] theorem modCore_freeCtr (s : State) (n : Nat) (g : Core → Core) : (modCore s n g).freeCtr = s.freeCtr := rfl
@[simp] theorem modCore_pending (s : State) (n : Nat) (g : Core → Core) : (modCore s n g).pending = s.pending := rfl

/-! ## putFeed -/

@[simp] theorem putFeed_time (s : State) (n : Nat) (x : Feed) : (putFeed s n x).time = s.time := rfl
@[simp] theorem putFeed_sys (s : State) (n : Nat) (x : Feed) : (putFeed s n x).sys = s.sys := rfl
@[simp] theorem putFeed_plan (s : State) (n : Nat) (x : Feed) : (putFeed s n x).plan = s.plan := rfl
@[simp] theorem putFeed_pl (s : State) (n : Nat) (x : Feed) : (putFeed s n x).pl = s.pl := rfl
@[simp] theorem putFeed_lc (s : State) (n : Nat) (x : Feed) : (putFeed s n x).lc = s.lc := rfl
@[simp] theorem putFeed_dbg (s : State) (n : Nat) (x : Feed) : (putFeed s n x).dbg = s.dbg := rfl
@[simp] theorem putFeed_en (s : State) (n : Nat) (x : Feed) : (putFeed s n x).en = s.en := rfl
@[simp] theorem putFeed_port (s : State) (n : Nat) (x : Feed) : (putFeed s n x).port = s.port := rfl
@[simp] theorem putFeed_fns (s : State) (n : Nat) (x : Feed) : (putFeed s n x).fns = s.fns := rfl
@[simp] theorem putFeed_queues (s : State) (n : Nat) (x : Feed) : (putFeed s n x).queues = s.queues := rfl
@[simp] theorem putFeed_pads (s : State) (n : Nat) (x : Feed) : (putFeed s n x).pads = s.pads := rfl
@[simp] theorem putFeed_jobs (s : State) (n : Nat) (x : Feed) : (putFeed s n x).jobs = s.jobs := rfl
@[simp] theorem putFeed_jn (s : State) (n : Nat) (x : Feed) : (putFeed s n x).jn = s.jn := rfl
@[simp] theorem putFeed_stalls (s : State) (n : Nat) (x : Feed) : (putFeed s n x).stalls = s.stalls := rfl
@[simp] theorem putFeed_yard (s : State) (n : Nat) (x : Feed) : (putFeed s n x).yard = s.yard := rfl
@[simp] theorem putFeed_yardRetired (s : State) (n : Nat) (x : Feed) : (putFeed s n x).yardRetired = s.yardRetired := rfl
@[simp] theorem putFeed_cache (s : State) (n : Nat) (x : Feed) : (putFeed s n x).cache = s.cache := rfl
@[simp] theorem putFeed_tk (s : State) (n : Nat) (x : Feed) : (putFeed s n x).tk = s.tk := rfl
@[simp] theorem putFeed_rng (s : State) (n : Nat) (x : Feed) : (putFeed s n x).rng = s.rng := rfl
@[simp] theorem putFeed_cores (s : State) (n : Nat) (x : Feed) : (putFeed s n x).cores = s.cores := rfl
@[simp] theorem putFeed_fc (s : State) (n : Nat) (x : Feed) : (putFeed s n x).fc = s.fc := rfl
@[simp] theorem putFeed_tp (s : State) (n : Nat) (x : Feed) : (putFeed s n x).tp = s.tp := rfl
@[simp] theorem putFeed_hl (s : State) (n : Nat) (x : Feed) : (putFeed s n x).hl = s.hl := rfl
@[simp] theorem putFeed_tt (s : State) (n : Nat) (x : Feed) : (putFeed s n x).tt = s.tt := rfl
@[simp] theorem putFeed_lk (s : State) (n : Nat) (x : Feed) : (putFeed s n x).lk = s.lk := rfl
@[simp] theorem putFeed_scans (s : State) (n : Nat) (x : Feed) : (putFeed s n x).scans = s.scans := rfl
@[simp] theorem putFeed_out (s : State) (n : Nat) (x : Feed) : (putFeed s n x).out = s.out := rfl
@[simp] theorem putFeed_freeCtr (s : State) (n : Nat) (x : Feed) : (putFeed s n x).freeCtr = s.freeCtr := rfl
@[simp] theorem putFeed_pending (s : State) (n : Nat) (x : Feed) : (putFeed s n x).pending = s.pending := rfl

/-! ## modFeed -/

@[simp] theorem modFeed_time (s : State) (n : Nat) (g : Feed → Feed) : (modFeed s n g).time = s.time := rfl
@[simp] theorem modFeed_sys (s : State) (n : Nat) (g : Feed → Feed) : (modFeed s n g).sys = s.sys := rfl
@[simp] theorem modFeed_plan (s : State) (n : Nat) (g : Feed → Feed) : (modFeed s n g).plan = s.plan := rfl
@[simp] theorem modFeed_pl (s : State) (n : Nat) (g : Feed → Feed) : (modFeed s n g).pl = s.pl := rfl
@[simp] theorem modFeed_lc (s : State) (n : Nat) (g : Feed → Feed) : (modFeed s n g).lc = s.lc := rfl
@[simp] theorem modFeed_dbg (s : State) (n : Nat) (g : Feed → Feed) : (modFeed s n g).dbg = s.dbg := rfl
@[simp] theorem modFeed_en (s : State) (n : Nat) (g : Feed → Feed) : (modFeed s n g).en = s.en := rfl
@[simp] theorem modFeed_port (s : State) (n : Nat) (g : Feed → Feed) : (modFeed s n g).port = s.port := rfl
@[simp] theorem modFeed_fns (s : State) (n : Nat) (g : Feed → Feed) : (modFeed s n g).fns = s.fns := rfl
@[simp] theorem modFeed_queues (s : State) (n : Nat) (g : Feed → Feed) : (modFeed s n g).queues = s.queues := rfl
@[simp] theorem modFeed_pads (s : State) (n : Nat) (g : Feed → Feed) : (modFeed s n g).pads = s.pads := rfl
@[simp] theorem modFeed_jobs (s : State) (n : Nat) (g : Feed → Feed) : (modFeed s n g).jobs = s.jobs := rfl
@[simp] theorem modFeed_jn (s : State) (n : Nat) (g : Feed → Feed) : (modFeed s n g).jn = s.jn := rfl
@[simp] theorem modFeed_stalls (s : State) (n : Nat) (g : Feed → Feed) : (modFeed s n g).stalls = s.stalls := rfl
@[simp] theorem modFeed_yard (s : State) (n : Nat) (g : Feed → Feed) : (modFeed s n g).yard = s.yard := rfl
@[simp] theorem modFeed_yardRetired (s : State) (n : Nat) (g : Feed → Feed) : (modFeed s n g).yardRetired = s.yardRetired := rfl
@[simp] theorem modFeed_cache (s : State) (n : Nat) (g : Feed → Feed) : (modFeed s n g).cache = s.cache := rfl
@[simp] theorem modFeed_tk (s : State) (n : Nat) (g : Feed → Feed) : (modFeed s n g).tk = s.tk := rfl
@[simp] theorem modFeed_rng (s : State) (n : Nat) (g : Feed → Feed) : (modFeed s n g).rng = s.rng := rfl
@[simp] theorem modFeed_cores (s : State) (n : Nat) (g : Feed → Feed) : (modFeed s n g).cores = s.cores := rfl
@[simp] theorem modFeed_fc (s : State) (n : Nat) (g : Feed → Feed) : (modFeed s n g).fc = s.fc := rfl
@[simp] theorem modFeed_tp (s : State) (n : Nat) (g : Feed → Feed) : (modFeed s n g).tp = s.tp := rfl
@[simp] theorem modFeed_hl (s : State) (n : Nat) (g : Feed → Feed) : (modFeed s n g).hl = s.hl := rfl
@[simp] theorem modFeed_tt (s : State) (n : Nat) (g : Feed → Feed) : (modFeed s n g).tt = s.tt := rfl
@[simp] theorem modFeed_lk (s : State) (n : Nat) (g : Feed → Feed) : (modFeed s n g).lk = s.lk := rfl
@[simp] theorem modFeed_scans (s : State) (n : Nat) (g : Feed → Feed) : (modFeed s n g).scans = s.scans := rfl
@[simp] theorem modFeed_out (s : State) (n : Nat) (g : Feed → Feed) : (modFeed s n g).out = s.out := rfl
@[simp] theorem modFeed_freeCtr (s : State) (n : Nat) (g : Feed → Feed) : (modFeed s n g).freeCtr = s.freeCtr := rfl
@[simp] theorem modFeed_pending (s : State) (n : Nat) (g : Feed → Feed) : (modFeed s n g).pending = s.pending := rfl

/-! ## putCache -/

@[simp] theorem putCache_time (s : State) (n : Nat) (x : CacheEntry) : (putCache s n x).time = s.time := rfl
@[simp] theorem putCache_sys (s : State) (n : Nat) (x : CacheEntry) : (putCache s n x).sys = s.sys := rfl
@[simp] theorem putCache_plan (s : State) (n : Nat) (x : CacheEntry) : (putCache s n x).plan = s.plan := rfl
@[simp] theorem putCache_pl (s : State) (n : Nat) (x : CacheEntry) : (putCache s n x).pl = s.pl := rfl
@[simp] theorem putCache_lc (s : State) (n : Nat) (x : CacheEntry) : (putCache s n x).lc = s.lc := rfl
@[simp] theorem putCache_dbg (s : State) (n : Nat) (x : CacheEntry) : (putCache s n x).dbg = s.dbg := rfl
@[simp] theorem putCache_en (s : State) (n : Nat) (x : CacheEntry) : (putCache s n x).en = s.en := rfl
@[simp] theorem putCache_port (s : State) (n : Nat) (x : CacheEntry) : (putCache s n x).port = s.port := rfl
@[simp] theorem putCache_fns (s : State) (n : Nat) (x : CacheEntry) : (putCache s n x).fns = s.fns := rfl
@[simp] theorem putCache_queues (s : State) (n : Nat) (x : CacheEntry) : (putCache s n x).queues = s.queues := rfl
@[simp] theorem putCache_pads (s : State) (n : Nat) (x : CacheEntry) : (putCache s n x).pads = s.pads := rfl
@[simp] theorem putCache_jobs (s : State) (n : Nat) (x : CacheEntry) : (putCache s n x).jobs = s.jobs := rfl
@[simp] theorem putCache_jn (s : State) (n : Nat) (x : CacheEntry) : (putCache s n x).jn = s.jn := rfl
@[simp] theorem putCache_stalls (s : State) (n : Nat) (x : CacheEntry) : (putCache s n x).stalls = s.stalls := rfl
@[simp] theorem putCache_yard (s : State) (n : Nat) (x : CacheEntry) : (putCache s n x).yard = s.yard := rfl
@[simp] theorem putCache_yardRetired (s : State) (n : Nat) (x : CacheEntry) : (putCache s n x).yardRetired = s.yardRetired := rfl
@[simp] theorem putCache_tk (s : State) (n : Nat) (x : CacheEntry) : (putCache s n x).tk = s.tk := rfl
@[simp] theorem putCache_rng (s : State) (n : Nat) (x : CacheEntry) : (putCache s n x).rng = s.rng := rfl
@[simp] theorem putCache_cores (s : State) (n : Nat) (x : CacheEntry) : (putCache s n x).cores = s.cores := rfl
@[simp] theorem putCache_feeds (s : State) (n : Nat) (x : CacheEntry) : (putCache s n x).feeds = s.feeds := rfl
@[simp] theorem putCache_fc (s : State) (n : Nat) (x : CacheEntry) : (putCache s n x).fc = s.fc := rfl
@[simp] theorem putCache_tp (s : State) (n : Nat) (x : CacheEntry) : (putCache s n x).tp = s.tp := rfl
@[simp] theorem putCache_hl (s : State) (n : Nat) (x : CacheEntry) : (putCache s n x).hl = s.hl := rfl
@[simp] theorem putCache_tt (s : State) (n : Nat) (x : CacheEntry) : (putCache s n x).tt = s.tt := rfl
@[simp] theorem putCache_lk (s : State) (n : Nat) (x : CacheEntry) : (putCache s n x).lk = s.lk := rfl
@[simp] theorem putCache_scans (s : State) (n : Nat) (x : CacheEntry) : (putCache s n x).scans = s.scans := rfl
@[simp] theorem putCache_out (s : State) (n : Nat) (x : CacheEntry) : (putCache s n x).out = s.out := rfl
@[simp] theorem putCache_freeCtr (s : State) (n : Nat) (x : CacheEntry) : (putCache s n x).freeCtr = s.freeCtr := rfl
@[simp] theorem putCache_pending (s : State) (n : Nat) (x : CacheEntry) : (putCache s n x).pending = s.pending := rfl

/-! ## modCache -/

@[simp] theorem modCache_time (s : State) (n : Nat) (g : CacheEntry → CacheEntry) : (modCache s n g).time = s.time := rfl
@[simp] theorem modCache_sys (s : State) (n : Nat) (g : CacheEntry → CacheEntry) : (modCache s n g).sys = s.sys := rfl
@[simp] theorem modCache_plan (s : State) (n : Nat) (g : CacheEntry → CacheEntry) : (modCache s n g).plan = s.plan := rfl
@[simp] theorem modCache_pl (s : State) (n : Nat) (g : CacheEntry → CacheEntry) : (modCache s n g).pl = s.pl := rfl
@[simp] theorem modCache_lc (s : State) (n : Nat) (g : CacheEntry → CacheEntry) : (modCache s n g).lc = s.lc := rfl
@[simp] theorem modCache_dbg (s : State) (n : Nat) (g : CacheEntry → CacheEntry) : (modCache s n g).dbg = s.dbg := rfl
@[simp] theorem modCache_en (s : State) (n : Nat) (g : CacheEntry → CacheEntry) : (modCache s n g).en = s.en := rfl
@[simp] theorem modCache_port (s : State) (n : Nat) (g : CacheEntry → CacheEntry) : (modCache s n g).port = s.port := rfl
@[simp] theorem modCache_fns (s : State) (n : Nat) (g : CacheEntry → CacheEntry) : (modCache s n g).fns = s.fns := rfl
@[simp] theorem modCache_queues (s : State) (n : Nat) (g : CacheEntry → CacheEntry) : (modCache s n g).queues = s.queues := rfl
@[simp] theorem modCache_pads (s : State) (n : Nat) (g : CacheEntry → CacheEntry) : (modCache s n g).pads = s.pads := rfl
@[simp] theorem modCache_jobs (s : State) (n : Nat) (g : CacheEntry → CacheEntry) : (modCache s n g).jobs = s.jobs := rfl
@[simp] theorem modCache_jn (s : State) (n : Nat) (g : CacheEntry → CacheEntry) : (modCache s n g).jn = s.jn := rfl
@[simp] theorem modCache_stalls (s : State) (n : Nat) (g : CacheEntry → CacheEntry) : (modCache s n g).stalls = s.stalls := rfl
@[simp] theorem modCache_yard (s : State) (n : Nat) (g : CacheEntry → CacheEntry) : (modCache s n g).yard = s.yard := rfl
@[simp] theorem modCache_yardRetired (s : State) (n : Nat) (g : CacheEntry → CacheEntry) : (modCache s n g).yardRetired = s.yardRetired := rfl
@[simp] theorem modCache_tk (s : State) (n : Nat) (g : CacheEntry → CacheEntry) : (modCache s n g).tk = s.tk := rfl
@[simp] theorem modCache_rng (s : State) (n : Nat) (g : CacheEntry → CacheEntry) : (modCache s n g).rng = s.rng := rfl
@[simp] theorem modCache_cores (s : State) (n : Nat) (g : CacheEntry → CacheEntry) : (modCache s n g).cores = s.cores := rfl
@[simp] theorem modCache_feeds (s : State) (n : Nat) (g : CacheEntry → CacheEntry) : (modCache s n g).feeds = s.feeds := rfl
@[simp] theorem modCache_fc (s : State) (n : Nat) (g : CacheEntry → CacheEntry) : (modCache s n g).fc = s.fc := rfl
@[simp] theorem modCache_tp (s : State) (n : Nat) (g : CacheEntry → CacheEntry) : (modCache s n g).tp = s.tp := rfl
@[simp] theorem modCache_hl (s : State) (n : Nat) (g : CacheEntry → CacheEntry) : (modCache s n g).hl = s.hl := rfl
@[simp] theorem modCache_tt (s : State) (n : Nat) (g : CacheEntry → CacheEntry) : (modCache s n g).tt = s.tt := rfl
@[simp] theorem modCache_lk (s : State) (n : Nat) (g : CacheEntry → CacheEntry) : (modCache s n g).lk = s.lk := rfl
@[simp] theorem modCache_scans (s : State) (n : Nat) (g : CacheEntry → CacheEntry) : (modCache s n g).scans = s.scans := rfl
@[simp] theorem modCache_out (s : State) (n : Nat) (g : CacheEntry → CacheEntry) : (modCache s n g).out = s.out := rfl
@[simp] theorem modCache_freeCtr (s : State) (n : Nat) (g : CacheEntry → CacheEntry) : (modCache s n g).freeCtr = s.freeCtr := rfl
@[simp] theorem modCache_pending (s : State) (n : Nat) (g : CacheEntry → CacheEntry) : (modCache s n g).pending = s.pending := rfl

/-! ## putSlot -/

@[simp] theorem putSlot_time (s : State) (n : Nat) (x : Slot) : (putSlot s n x).time = s.time := rfl
@[simp] theorem putSlot_sys (s : State) (n : Nat) (x : Slot) : (putSlot s n x).sys = s.sys := rfl
@[simp] theorem putSlot_plan (s : State) (n : Nat) (x : Slot) : (putSlot s n x).plan = s.plan := rfl
@[simp] theorem putSlot_pl (s : State) (n : Nat) (x : Slot) : (putSlot s n x).pl = s.pl := rfl
@[simp] theorem putSlot_lc (s : State) (n : Nat) (x : Slot) : (putSlot s n x).lc = s.lc := rfl
@[simp] theorem putSlot_dbg (s : State) (n : Nat) (x : Slot) : (putSlot s n x).dbg = s.dbg := rfl
@[simp] theorem putSlot_en (s : State) (n : Nat) (x : Slot) : (putSlot s n x).en = s.en := rfl
@[simp] theorem putSlot_port (s : State) (n : Nat) (x : Slot) : (putSlot s n x).port = s.port := rfl
@[simp] theorem putSlot_fns (s : State) (n : Nat) (x : Slot) : (putSlot s n x).fns = s.fns := rfl
@[simp] theorem putSlot_queues (s : State) (n : Nat) (x : Slot) : (putSlot s n x).queues = s.queues := rfl
@[simp] theorem putSlot_pads (s : State) (n : Nat) (x : Slot) : (putSlot s n x).pads = s.pads := rfl
@[simp] theorem putSlot_jobs (s : State) (n : Nat) (x : Slot) : (putSlot s n x).jobs = s.jobs := rfl
@[simp] theorem putSlot_jn (s : State) (n : Nat) (x : Slot) : (putSlot s n x).jn = s.jn := rfl
@[simp] theorem putSlot_stalls (s : State) (n : Nat) (x : Slot) : (putSlot s n x).stalls = s.stalls := rfl
@[simp] theorem putSlot_yard (s : State) (n : Nat) (x : Slot) : (putSlot s n x).yard = s.yard := rfl
@[simp] theorem putSlot_yardRetired (s : State) (n : Nat) (x : Slot) : (putSlot s n x).yardRetired = s.yardRetired := rfl
@[simp] theorem putSlot_cache (s : State) (n : Nat) (x : Slot) : (putSlot s n x).cache = s.cache := rfl
@[simp] theorem putSlot_rng (s : State) (n : Nat) (x : Slot) : (putSlot s n x).rng = s.rng := rfl
@[simp] theorem putSlot_cores (s : State) (n : Nat) (x : Slot) : (putSlot s n x).cores = s.cores := rfl
@[simp] theorem putSlot_feeds (s : State) (n : Nat) (x : Slot) : (putSlot s n x).feeds = s.feeds := rfl
@[simp] theorem putSlot_fc (s : State) (n : Nat) (x : Slot) : (putSlot s n x).fc = s.fc := rfl
@[simp] theorem putSlot_tp (s : State) (n : Nat) (x : Slot) : (putSlot s n x).tp = s.tp := rfl
@[simp] theorem putSlot_hl (s : State) (n : Nat) (x : Slot) : (putSlot s n x).hl = s.hl := rfl
@[simp] theorem putSlot_tt (s : State) (n : Nat) (x : Slot) : (putSlot s n x).tt = s.tt := rfl
@[simp] theorem putSlot_lk (s : State) (n : Nat) (x : Slot) : (putSlot s n x).lk = s.lk := rfl
@[simp] theorem putSlot_scans (s : State) (n : Nat) (x : Slot) : (putSlot s n x).scans = s.scans := rfl
@[simp] theorem putSlot_out (s : State) (n : Nat) (x : Slot) : (putSlot s n x).out = s.out := rfl
@[simp] theorem putSlot_freeCtr (s : State) (n : Nat) (x : Slot) : (putSlot s n x).freeCtr = s.freeCtr := rfl
@[simp] theorem putSlot_pending (s : State) (n : Nat) (x : Slot) : (putSlot s n x).pending = s.pending := rfl

/-! ## modSlot -/

@[simp] theorem modSlot_time (s : State) (n : Nat) (g : Slot → Slot) : (modSlot s n g).time = s.time := rfl
@[simp] theorem modSlot_sys (s : State) (n : Nat) (g : Slot → Slot) : (modSlot s n g).sys = s.sys := rfl
@[simp] theorem modSlot_plan (s : State) (n : Nat) (g : Slot → Slot) : (modSlot s n g).plan = s.plan := rfl
@[simp] theorem modSlot_pl (s : State) (n : Nat) (g : Slot → Slot) : (modSlot s n g).pl = s.pl := rfl
@[simp] theorem modSlot_lc (s : State) (n : Nat) (g : Slot → Slot) : (modSlot s n g).lc = s.lc := rfl
@[simp] theorem modSlot_dbg (s : State) (n : Nat) (g : Slot → Slot) : (modSlot s n g).dbg = s.dbg := rfl
@[simp] theorem modSlot_en (s : State) (n : Nat) (g : Slot → Slot) : (modSlot s n g).en = s.en := rfl
@[simp] theorem modSlot_port (s : State) (n : Nat) (g : Slot → Slot) : (modSlot s n g).port = s.port := rfl
@[simp] theorem modSlot_fns (s : State) (n : Nat) (g : Slot → Slot) : (modSlot s n g).fns = s.fns := rfl
@[simp] theorem modSlot_queues (s : State) (n : Nat) (g : Slot → Slot) : (modSlot s n g).queues = s.queues := rfl
@[simp] theorem modSlot_pads (s : State) (n : Nat) (g : Slot → Slot) : (modSlot s n g).pads = s.pads := rfl
@[simp] theorem modSlot_jobs (s : State) (n : Nat) (g : Slot → Slot) : (modSlot s n g).jobs = s.jobs := rfl
@[simp] theorem modSlot_jn (s : State) (n : Nat) (g : Slot → Slot) : (modSlot s n g).jn = s.jn := rfl
@[simp] theorem modSlot_stalls (s : State) (n : Nat) (g : Slot → Slot) : (modSlot s n g).stalls = s.stalls := rfl
@[simp] theorem modSlot_yard (s : State) (n : Nat) (g : Slot → Slot) : (modSlot s n g).yard = s.yard := rfl
@[simp] theorem modSlot_yardRetired (s : State) (n : Nat) (g : Slot → Slot) : (modSlot s n g).yardRetired = s.yardRetired := rfl
@[simp] theorem modSlot_cache (s : State) (n : Nat) (g : Slot → Slot) : (modSlot s n g).cache = s.cache := rfl
@[simp] theorem modSlot_rng (s : State) (n : Nat) (g : Slot → Slot) : (modSlot s n g).rng = s.rng := rfl
@[simp] theorem modSlot_cores (s : State) (n : Nat) (g : Slot → Slot) : (modSlot s n g).cores = s.cores := rfl
@[simp] theorem modSlot_feeds (s : State) (n : Nat) (g : Slot → Slot) : (modSlot s n g).feeds = s.feeds := rfl
@[simp] theorem modSlot_fc (s : State) (n : Nat) (g : Slot → Slot) : (modSlot s n g).fc = s.fc := rfl
@[simp] theorem modSlot_tp (s : State) (n : Nat) (g : Slot → Slot) : (modSlot s n g).tp = s.tp := rfl
@[simp] theorem modSlot_hl (s : State) (n : Nat) (g : Slot → Slot) : (modSlot s n g).hl = s.hl := rfl
@[simp] theorem modSlot_tt (s : State) (n : Nat) (g : Slot → Slot) : (modSlot s n g).tt = s.tt := rfl
@[simp] theorem modSlot_lk (s : State) (n : Nat) (g : Slot → Slot) : (modSlot s n g).lk = s.lk := rfl
@[simp] theorem modSlot_scans (s : State) (n : Nat) (g : Slot → Slot) : (modSlot s n g).scans = s.scans := rfl
@[simp] theorem modSlot_out (s : State) (n : Nat) (g : Slot → Slot) : (modSlot s n g).out = s.out := rfl
@[simp] theorem modSlot_freeCtr (s : State) (n : Nat) (g : Slot → Slot) : (modSlot s n g).freeCtr = s.freeCtr := rfl
@[simp] theorem modSlot_pending (s : State) (n : Nat) (g : Slot → Slot) : (modSlot s n g).pending = s.pending := rfl

/-! ## putBlob -/

@[simp] theorem putBlob_time (s : State) (n : Nat) (x : BlobEntry) : (putBlob s n x).time = s.time := rfl
@[simp] theorem putBlob_sys (s : State) (n : Nat) (x : BlobEntry) : (putBlob s n x).sys = s.sys := rfl
@[simp] theorem putBlob_plan (s : State) (n : Nat) (x : BlobEntry) : (putBlob s n x).plan = s.plan := rfl
@[simp] theorem putBlob_pl (s : State) (n : Nat) (x : BlobEntry) : (putBlob s n x).pl = s.pl := rfl
@[simp] theorem putBlob_lc (s : State) (n : Nat) (x : BlobEntry) : (putBlob s n x).lc = s.lc := rfl
@[simp] theorem putBlob_dbg (s : State) (n : Nat) (x : BlobEntry) : (putBlob s n x).dbg = s.dbg := rfl
@[simp] theorem putBlob_en (s : State) (n : Nat) (x : BlobEntry) : (putBlob s n x).en = s.en := rfl
@[simp] theorem putBlob_port (s : State) (n : Nat) (x : BlobEntry) : (putBlob s n x).port = s.port := rfl
@[simp] theorem putBlob_fns (s : State) (n : Nat) (x : BlobEntry) : (putBlob s n x).fns = s.fns := rfl
@[simp] theorem putBlob_queues (s : State) (n : Nat) (x : BlobEntry) : (putBlob s n x).queues = s.queues := rfl
@[simp] theorem putBlob_pads (s : State) (n : Nat) (x : BlobEntry) : (putBlob s n x).pads = s.pads := rfl
@[simp] theorem putBlob_jobs (s : State) (n : Nat) (x : BlobEntry) : (putBlob s n x).jobs = s.jobs := rfl
@[simp] theorem putBlob_jn (s : State) (n : Nat) (x : BlobEntry) : (putBlob s n x).jn = s.jn := rfl
@[simp] theorem putBlob_stalls (s : State) (n : Nat) (x : BlobEntry) : (putBlob s n x).stalls = s.stalls := rfl
@[simp] theorem putBlob_yard (s : State) (n : Nat) (x : BlobEntry) : (putBlob s n x).yard = s.yard := rfl
@[simp] theorem putBlob_yardRetired (s : State) (n : Nat) (x : BlobEntry) : (putBlob s n x).yardRetired = s.yardRetired := rfl
@[simp] theorem putBlob_cache (s : State) (n : Nat) (x : BlobEntry) : (putBlob s n x).cache = s.cache := rfl
@[simp] theorem putBlob_rng (s : State) (n : Nat) (x : BlobEntry) : (putBlob s n x).rng = s.rng := rfl
@[simp] theorem putBlob_cores (s : State) (n : Nat) (x : BlobEntry) : (putBlob s n x).cores = s.cores := rfl
@[simp] theorem putBlob_feeds (s : State) (n : Nat) (x : BlobEntry) : (putBlob s n x).feeds = s.feeds := rfl
@[simp] theorem putBlob_fc (s : State) (n : Nat) (x : BlobEntry) : (putBlob s n x).fc = s.fc := rfl
@[simp] theorem putBlob_tp (s : State) (n : Nat) (x : BlobEntry) : (putBlob s n x).tp = s.tp := rfl
@[simp] theorem putBlob_hl (s : State) (n : Nat) (x : BlobEntry) : (putBlob s n x).hl = s.hl := rfl
@[simp] theorem putBlob_tt (s : State) (n : Nat) (x : BlobEntry) : (putBlob s n x).tt = s.tt := rfl
@[simp] theorem putBlob_lk (s : State) (n : Nat) (x : BlobEntry) : (putBlob s n x).lk = s.lk := rfl
@[simp] theorem putBlob_scans (s : State) (n : Nat) (x : BlobEntry) : (putBlob s n x).scans = s.scans := rfl
@[simp] theorem putBlob_out (s : State) (n : Nat) (x : BlobEntry) : (putBlob s n x).out = s.out := rfl
@[simp] theorem putBlob_freeCtr (s : State) (n : Nat) (x : BlobEntry) : (putBlob s n x).freeCtr = s.freeCtr := rfl
@[simp] theorem putBlob_pending (s : State) (n : Nat) (x : BlobEntry) : (putBlob s n x).pending = s.pending := rfl

/-! ## modBlob -/

@[simp] theorem modBlob_time (s : State) (n : Nat) (g : BlobEntry → BlobEntry) : (modBlob s n g).time = s.time := rfl
@[simp] theorem modBlob_sys (s : State) (n : Nat) (g : BlobEntry → BlobEntry) : (modBlob s n g).sys = s.sys := rfl
@[simp] theorem modBlob_plan (s : State) (n : Nat) (g : BlobEntry → BlobEntry) : (modBlob s n g).plan = s.plan := rfl
@[simp] theorem modBlob_pl (s : State) (n : Nat) (g : BlobEntry → BlobEntry) : (modBlob s n g).pl = s.pl := rfl
@[simp] theorem modBlob_lc (s : State) (n : Nat) (g : BlobEntry → BlobEntry) : (modBlob s n g).lc = s.lc := rfl
@[simp] theorem modBlob_dbg (s : State) (n : Nat) (g : BlobEntry → BlobEntry) : (modBlob s n g).dbg = s.dbg := rfl
@[simp] theorem modBlob_en (s : State) (n : Nat) (g : BlobEntry → BlobEntry) : (modBlob s n g).en = s.en := rfl
@[simp] theorem modBlob_port (s : State) (n : Nat) (g : BlobEntry → BlobEntry) : (modBlob s n g).port = s.port := rfl
@[simp] theorem modBlob_fns (s : State) (n : Nat) (g : BlobEntry → BlobEntry) : (modBlob s n g).fns = s.fns := rfl
@[simp] theorem modBlob_queues (s : State) (n : Nat) (g : BlobEntry → BlobEntry) : (modBlob s n g).queues = s.queues := rfl
@[simp] theorem modBlob_pads (s : State) (n : Nat) (g : BlobEntry → BlobEntry) : (modBlob s n g).pads = s.pads := rfl
@[simp] theorem modBlob_jobs (s : State) (n : Nat) (g : BlobEntry → BlobEntry) : (modBlob s n g).jobs = s.jobs := rfl
@[simp] theorem modBlob_jn (s : State) (n : Nat) (g : BlobEntry → BlobEntry) : (modBlob s n g).jn = s.jn := rfl
@[simp] theorem modBlob_stalls (s : State) (n : Nat) (g : BlobEntry → BlobEntry) : (modBlob s n g).stalls = s.stalls := rfl
@[simp] theorem modBlob_yard (s : State) (n : Nat) (g : BlobEntry → BlobEntry) : (modBlob s n g).yard = s.yard := rfl
@[simp] theorem modBlob_yardRetired (s : State) (n : Nat) (g : BlobEntry → BlobEntry) : (modBlob s n g).yardRetired = s.yardRetired := rfl
@[simp] theorem modBlob_cache (s : State) (n : Nat) (g : BlobEntry → BlobEntry) : (modBlob s n g).cache = s.cache := rfl
@[simp] theorem modBlob_rng (s : State) (n : Nat) (g : BlobEntry → BlobEntry) : (modBlob s n g).rng = s.rng := rfl
@[simp] theorem modBlob_cores (s : State) (n : Nat) (g : BlobEntry → BlobEntry) : (modBlob s n g).cores = s.cores := rfl
@[simp] theorem modBlob_feeds (s : State) (n : Nat) (g : BlobEntry → BlobEntry) : (modBlob s n g).feeds = s.feeds := rfl
@[simp] theorem modBlob_fc (s : State) (n : Nat) (g : BlobEntry → BlobEntry) : (modBlob s n g).fc = s.fc := rfl
@[simp] theorem modBlob_tp (s : State) (n : Nat) (g : BlobEntry → BlobEntry) : (modBlob s n g).tp = s.tp := rfl
@[simp] theorem modBlob_hl (s : State) (n : Nat) (g : BlobEntry → BlobEntry) : (modBlob s n g).hl = s.hl := rfl
@[simp] theorem modBlob_tt (s : State) (n : Nat) (g : BlobEntry → BlobEntry) : (modBlob s n g).tt = s.tt := rfl
@[simp] theorem modBlob_lk (s : State) (n : Nat) (g : BlobEntry → BlobEntry) : (modBlob s n g).lk = s.lk := rfl
@[simp] theorem modBlob_scans (s : State) (n : Nat) (g : BlobEntry → BlobEntry) : (modBlob s n g).scans = s.scans := rfl
@[simp] theorem modBlob_out (s : State) (n : Nat) (g : BlobEntry → BlobEntry) : (modBlob s n g).out = s.out := rfl
@[simp] theorem modBlob_freeCtr (s : State) (n : Nat) (g : BlobEntry → BlobEntry) : (modBlob s n g).freeCtr = s.freeCtr := rfl
@[simp] theorem modBlob_pending (s : State) (n : Nat) (g : BlobEntry → BlobEntry) : (modBlob s n g).pending = s.pending := rfl

/-! ## putHbs -/

@[simp] theorem putHbs_time (s : State) (n : Nat) (x : HbsKey) : (putHbs s n x).time = s.time := rfl
@[simp] theorem putHbs_sys (s : State) (n : Nat) (x : HbsKey) : (putHbs s n x).sys = s.sys := rfl
@[simp] theorem putHbs_plan (s : State) (n : Nat) (x : HbsKey) : (putHbs s n x).plan = s.plan := rfl
@[simp] theorem putHbs_pl (s : State) (n : Nat) (x : HbsKey) : (putHbs s n x).pl = s.pl := rfl
@[simp] theorem putHbs_lc (s : State) (n : Nat) (x : HbsKey) : (putHbs s n x).lc = s.lc := rfl
@[simp] theorem putHbs_dbg (s : State) (n : Nat) (x : HbsKey) : (putHbs s n x).dbg = s.dbg := rfl
@[simp] theorem putHbs_en (s : State) (n : Nat) (x : HbsKey) : (putHbs s n x).en = s.en := rfl
@[simp] theorem putHbs_port (s : State) (n : Nat) (x : HbsKey) : (putHbs s n x).port = s.port := rfl
@[simp] theorem putHbs_fns (s : State) (n : Nat) (x : HbsKey) : (putHbs s n x).fns = s.fns := rfl
@[simp] theorem putHbs_queues (s : State) (n : Nat) (x : HbsKey) : (putHbs s n x).queues = s.queues := rfl
@[simp] theorem putHbs_pads (s : State) (n : Nat) (x : HbsKey) : (putHbs s n x).pads = s.pads := rfl
@[simp] theorem putHbs_jobs (s : State) (n : Nat) (x : HbsKey) : (putHbs s n x).jobs = s.jobs := rfl
@[simp] theorem putHbs_jn (s : State) (n : Nat) (x : HbsKey) : (putHbs s n x).jn = s.jn := rfl
@[simp] theorem putHbs_stalls (s : State) (n : Nat) (x : HbsKey) : (putHbs s n x).stalls = s.stalls := rfl
@[simp] theorem putHbs_yard (s : State) (n : Nat) (x : HbsKey) : (putHbs s n x).yard = s.yard := rfl
@[simp] theorem putHbs_yardRetired (s : State) (n : Nat) (x : HbsKey) : (putHbs s n x).yardRetired = s.yardRetired := rfl
@[simp] theorem putHbs_cache (s : State) (n : Nat) (x : HbsKey) : (putHbs s n x).cache = s.cache := rfl
@[simp] theorem putHbs_rng (s : State) (n : Nat) (x : HbsKey) : (putHbs s n x).rng = s.rng := rfl
@[simp] theorem putHbs_cores (s : State) (n : Nat) (x : HbsKey) : (putHbs s n x).cores = s.cores := rfl
@[simp] theorem putHbs_feeds (s : State) (n : Nat) (x : HbsKey) : (putHbs s n x).feeds = s.feeds := rfl
@[simp] theorem putHbs_fc (s : State) (n : Nat) (x : HbsKey) : (putHbs s n x).fc = s.fc := rfl
@[simp] theorem putHbs_tp (s : State) (n : Nat) (x : HbsKey) : (putHbs s n x).tp = s.tp := rfl
@[simp] theorem putHbs_hl (s : State) (n : Nat) (x : HbsKey) : (putHbs s n x).hl = s.hl := rfl
@[simp] theorem putHbs_tt (s : State) (n : Nat) (x : HbsKey) : (putHbs s n x).tt = s.tt := rfl
@[simp] theorem putHbs_lk (s : State) (n : Nat) (x : HbsKey) : (putHbs s n x).lk = s.lk := rfl
@[simp] theorem putHbs_scans (s : State) (n : Nat) (x : HbsKey) : (putHbs s n x).scans = s.scans := rfl
@[simp] theorem putHbs_out (s : State) (n : Nat) (x : HbsKey) : (putHbs s n x).out = s.out := rfl
@[simp] theorem putHbs_freeCtr (s : State) (n : Nat) (x : HbsKey) : (putHbs s n x).freeCtr = s.freeCtr := rfl
@[simp] theorem putHbs_pending (s : State) (n : Nat) (x : HbsKey) : (putHbs s n x).pending = s.pending := rfl

/-! ## modHbs -/

@[simp] theorem modHbs_time (s : State) (n : Nat) (g : HbsKey → HbsKey) : (modHbs s n g).time = s.time := rfl
@[simp] theorem modHbs_sys (s : State) (n : Nat) (g : HbsKey → HbsKey) : (modHbs s n g).sys = s.sys := rfl
@[simp] theorem modHbs_plan (s : State) (n : Nat) (g : HbsKey → HbsKey) : (modHbs s n g).plan = s.plan := rfl
@[simp] theorem modHbs_pl (s : State) (n : Nat) (g : HbsKey → HbsKey) : (modHbs s n g).pl = s.pl := rfl
@[simp] theorem modHbs_lc (s : State) (n : Nat) (g : HbsKey → HbsKey) : (modHbs s n g).lc = s.lc := rfl
@[simp] theorem modHbs_dbg (s : State) (n : Nat) (g : HbsKey → HbsKey) : (modHbs s n g).dbg = s.dbg := rfl
@[simp] theorem modHbs_en (s : State) (n : Nat) (g : HbsKey → HbsKey) : (modHbs s n g).en = s.en := rfl
@[simp] theorem modHbs_port (s : State) (n : Nat) (g : HbsKey → HbsKey) : (modHbs s n g).port = s.port := rfl
@[simp] theorem modHbs_fns (s : State) (n : Nat) (g : HbsKey → HbsKey) : (modHbs s n g).fns = s.fns := rfl
@[simp] theorem modHbs_queues (s : State) (n : Nat) (g : HbsKey → HbsKey) : (modHbs s n g).queues = s.queues := rfl
@[simp] theorem modHbs_pads (s : State) (n : Nat) (g : HbsKey → HbsKey) : (modHbs s n g).pads = s.pads := rfl
@[simp] theorem modHbs_jobs (s : State) (n : Nat) (g : HbsKey → HbsKey) : (modHbs s n g).jobs = s.jobs := rfl
@[simp] theorem modHbs_jn (s : State) (n : Nat) (g : HbsKey → HbsKey) : (modHbs s n g).jn = s.jn := rfl
@[simp] theorem modHbs_stalls (s : State) (n : Nat) (g : HbsKey → HbsKey) : (modHbs s n g).stalls = s.stalls := rfl
@[simp] theorem modHbs_yard (s : State) (n : Nat) (g : HbsKey → HbsKey) : (modHbs s n g).yard = s.yard := rfl
@[simp] theorem modHbs_yardRetired (s : State) (n : Nat) (g : HbsKey → HbsKey) : (modHbs s n g).yardRetired = s.yardRetired := rfl
@[simp] theorem modHbs_cache (s : State) (n : Nat) (g : HbsKey → HbsKey) : (modHbs s n g).cache = s.cache := rfl
@[simp] theorem modHbs_rng (s : State) (n : Nat) (g : HbsKey → HbsKey) : (modHbs s n g).rng = s.rng := rfl
@[simp] theorem modHbs_cores (s : State) (n : Nat) (g : HbsKey → HbsKey) : (modHbs s n g).cores = s.cores := rfl
@[simp] theorem modHbs_feeds (s : State) (n : Nat) (g : HbsKey → HbsKey) : (modHbs s n g).feeds = s.feeds := rfl
@[simp] theorem modHbs_fc (s : State) (n : Nat) (g : HbsKey → HbsKey) : (modHbs s n g).fc = s.fc := rfl
@[simp] theorem modHbs_tp (s : State) (n : Nat) (g : HbsKey → HbsKey) : (modHbs s n g).tp = s.tp := rfl
@[simp] theorem modHbs_hl (s : State) (n : Nat) (g : HbsKey → HbsKey) : (modHbs s n g).hl = s.hl := rfl
@[simp] theorem modHbs_tt (s : State) (n : Nat) (g : HbsKey → HbsKey) : (modHbs s n g).tt = s.tt := rfl
@[simp] theorem modHbs_lk (s : State) (n : Nat) (g : HbsKey → HbsKey) : (modHbs s n g).lk = s.lk := rfl
@[simp] theorem modHbs_scans (s : State) (n : Nat) (g : HbsKey → HbsKey) : (modHbs s n g).scans = s.scans := rfl
@[simp] theorem modHbs_out (s : State) (n : Nat) (g : HbsKey → HbsKey) : (modHbs s n g).out = s.out := rfl
@[simp] theorem modHbs_freeCtr (s : State) (n : Nat) (g : HbsKey → HbsKey) : (modHbs s n g).freeCtr = s.freeCtr := rfl
@[simp] theorem modHbs_pending (s : State) (n : Nat) (g : HbsKey → HbsKey) : (modHbs s n g).pending = s.pending := rfl

/-! ## setShed -/

@[simp] theorem setShed_time (s : State) (i v : Nat) : (setShed s i v).time = s.time := rfl
@[simp] theorem setShed_sys (s : State) (i v : Nat) : (setShed s i v).sys = s.sys := rfl
@[simp] theorem setShed_plan (s : State) (i v : Nat) : (setShed s i v).plan = s.plan := rfl
@[simp] theorem setShed_pl (s : State) (i v : Nat) : (setShed s i v).pl = s.pl := rfl
@[simp] theorem setShed_lc (s : State) (i v : Nat) : (setShed s i v).lc = s.lc := rfl
@[simp] theorem setShed_dbg (s : State) (i v : Nat) : (setShed s i v).dbg = s.dbg := rfl
@[simp] theorem setShed_port (s : State) (i v : Nat) : (setShed s i v).port = s.port := rfl
@[simp] theorem setShed_fns (s : State) (i v : Nat) : (setShed s i v).fns = s.fns := rfl
@[simp] theorem setShed_queues (s : State) (i v : Nat) : (setShed s i v).queues = s.queues := rfl
@[simp] theorem setShed_pads (s : State) (i v : Nat) : (setShed s i v).pads = s.pads := rfl
@[simp] theorem setShed_jobs (s : State) (i v : Nat) : (setShed s i v).jobs = s.jobs := rfl
@[simp] theorem setShed_jn (s : State) (i v : Nat) : (setShed s i v).jn = s.jn := rfl
@[simp] theorem setShed_stalls (s : State) (i v : Nat) : (setShed s i v).stalls = s.stalls := rfl
@[simp] theorem setShed_yard (s : State) (i v : Nat) : (setShed s i v).yard = s.yard := rfl
@[simp] theorem setShed_yardRetired (s : State) (i v : Nat) : (setShed s i v).yardRetired = s.yardRetired := rfl
@[simp] theorem setShed_cache (s : State) (i v : Nat) : (setShed s i v).cache = s.cache := rfl
@[simp] theorem setShed_tk (s : State) (i v : Nat) : (setShed s i v).tk = s.tk := rfl
@[simp] theorem setShed_rng (s : State) (i v : Nat) : (setShed s i v).rng = s.rng := rfl
@[simp] theorem setShed_cores (s : State) (i v : Nat) : (setShed s i v).cores = s.cores := rfl
@[simp] theorem setShed_feeds (s : State) (i v : Nat) : (setShed s i v).feeds = s.feeds := rfl
@[simp] theorem setShed_fc (s : State) (i v : Nat) : (setShed s i v).fc = s.fc := rfl
@[simp] theorem setShed_tp (s : State) (i v : Nat) : (setShed s i v).tp = s.tp := rfl
@[simp] theorem setShed_hl (s : State) (i v : Nat) : (setShed s i v).hl = s.hl := rfl
@[simp] theorem setShed_tt (s : State) (i v : Nat) : (setShed s i v).tt = s.tt := rfl
@[simp] theorem setShed_lk (s : State) (i v : Nat) : (setShed s i v).lk = s.lk := rfl
@[simp] theorem setShed_scans (s : State) (i v : Nat) : (setShed s i v).scans = s.scans := rfl
@[simp] theorem setShed_out (s : State) (i v : Nat) : (setShed s i v).out = s.out := rfl
@[simp] theorem setShed_freeCtr (s : State) (i v : Nat) : (setShed s i v).freeCtr = s.freeCtr := rfl
@[simp] theorem setShed_pending (s : State) (i v : Nat) : (setShed s i v).pending = s.pending := rfl

/-! ## emit -/

@[simp] theorem emit_time (s : State) (e : Emission) : (emit s e).time = s.time := rfl
@[simp] theorem emit_sys (s : State) (e : Emission) : (emit s e).sys = s.sys := rfl
@[simp] theorem emit_plan (s : State) (e : Emission) : (emit s e).plan = s.plan := rfl
@[simp] theorem emit_pl (s : State) (e : Emission) : (emit s e).pl = s.pl := rfl
@[simp] theorem emit_lc (s : State) (e : Emission) : (emit s e).lc = s.lc := rfl
@[simp] theorem emit_dbg (s : State) (e : Emission) : (emit s e).dbg = s.dbg := rfl
@[simp] theorem emit_en (s : State) (e : Emission) : (emit s e).en = s.en := rfl
@[simp] theorem emit_port (s : State) (e : Emission) : (emit s e).port = s.port := rfl
@[simp] theorem emit_fns (s : State) (e : Emission) : (emit s e).fns = s.fns := rfl
@[simp] theorem emit_queues (s : State) (e : Emission) : (emit s e).queues = s.queues := rfl
@[simp] theorem emit_pads (s : State) (e : Emission) : (emit s e).pads = s.pads := rfl
@[simp] theorem emit_jobs (s : State) (e : Emission) : (emit s e).jobs = s.jobs := rfl
@[simp] theorem emit_jn (s : State) (e : Emission) : (emit s e).jn = s.jn := rfl
@[simp] theorem emit_stalls (s : State) (e : Emission) : (emit s e).stalls = s.stalls := rfl
@[simp] theorem emit_yard (s : State) (e : Emission) : (emit s e).yard = s.yard := rfl
@[simp] theorem emit_yardRetired (s : State) (e : Emission) : (emit s e).yardRetired = s.yardRetired := rfl
@[simp] theorem emit_cache (s : State) (e : Emission) : (emit s e).cache = s.cache := rfl
@[simp] theorem emit_tk (s : State) (e : Emission) : (emit s e).tk = s.tk := rfl
@[simp] theorem emit_rng (s : State) (e : Emission) : (emit s e).rng = s.rng := rfl
@[simp] theorem emit_cores (s : State) (e : Emission) : (emit s e).cores = s.cores := rfl
@[simp] theorem emit_feeds (s : State) (e : Emission) : (emit s e).feeds = s.feeds := rfl
@[simp] theorem emit_fc (s : State) (e : Emission) : (emit s e).fc = s.fc := rfl
@[simp] theorem emit_tp (s : State) (e : Emission) : (emit s e).tp = s.tp := rfl
@[simp] theorem emit_hl (s : State) (e : Emission) : (emit s e).hl = s.hl := rfl
@[simp] theorem emit_tt (s : State) (e : Emission) : (emit s e).tt = s.tt := rfl
@[simp] theorem emit_lk (s : State) (e : Emission) : (emit s e).lk = s.lk := rfl
@[simp] theorem emit_scans (s : State) (e : Emission) : (emit s e).scans = s.scans := rfl
@[simp] theorem emit_freeCtr (s : State) (e : Emission) : (emit s e).freeCtr = s.freeCtr := rfl
@[simp] theorem emit_pending (s : State) (e : Emission) : (emit s e).pending = s.pending := rfl

/-! ## Reading one unit after a write -/

theorem fnAt_putFn (s : State) (n m : Nat) (x : Fn) : fnAt (putFn s n x) m = if m = n then x else fnAt s m := smGet_smSet _ _ _ _ _
@[simp] theorem fnAt_putFn_self (s : State) (n : Nat) (x : Fn) : fnAt (putFn s n x) n = x := smGet_smSet_self _ _ _ _
@[simp] theorem fnAt_modFn_self (s : State) (n : Nat) (g : Fn → Fn) : fnAt (modFn s n g) n = g (fnAt s n) := smGet_smSet_self _ _ _ _
theorem qAt_putQ (s : State) (n m : Nat) (x : Queue) : qAt (putQ s n x) m = if m = n then x else qAt s m := smGet_smSet _ _ _ _ _
@[simp] theorem qAt_putQ_self (s : State) (n : Nat) (x : Queue) : qAt (putQ s n x) n = x := smGet_smSet_self _ _ _ _
@[simp] theorem qAt_modQ_self (s : State) (n : Nat) (g : Queue → Queue) : qAt (modQ s n g) n = g (qAt s n) := smGet_smSet_self _ _ _ _
theorem padAt_putPad (s : State) (n m : Nat) (x : Pad) : padAt (putPad s n x) m = if m = n then x else padAt s m := smGet_smSet _ _ _ _ _
@[simp] theorem padAt_putPad_self (s : State) (n : Nat) (x : Pad) : padAt (putPad s n x) n = x := smGet_smSet_self _ _ _ _
@[simp] theorem padAt_modPad_self (s : State) (n : Nat) (g : Pad → Pad) : padAt (modPad s n g) n = g (padAt s n) := smGet_smSet_self _ _ _ _
theorem stAt_putSt (s : State) (n m : Nat) (x : Stall) : stAt (putSt s n x) m = if m = n then x else stAt s m := smGet_smSet _ _ _ _ _
@[simp] theorem stAt_putSt_self (s : State) (n : Nat) (x : Stall) : stAt (putSt s n x) n = x := smGet_smSet_self _ _ _ _
@[simp] theorem stAt_modSt_self (s : State) (n : Nat) (g : Stall → Stall) : stAt (modSt s n g) n = g (stAt s n) := smGet_smSet_self _ _ _ _
theorem coreAt_putCore (s : State) (n m : Nat) (x : Core) : coreAt (putCore s n x) m = if m = n then x else coreAt s m := smGet_smSet _ _ _ _ _
@[simp] theorem coreAt_putCore_self (s : State) (n : Nat) (x : Core) : coreAt (putCore s n x) n = x := smGet_smSet_self _ _ _ _
@[simp] theorem coreAt_modCore_self (s : State) (n : Nat) (g : Core → Core) : coreAt (modCore s n g) n = g (coreAt s n) := smGet_smSet_self _ _ _ _
theorem feedAt_putFeed (s : State) (n m : Nat) (x : Feed) : feedAt (putFeed s n x) m = if m = n then x else feedAt s m := smGet_smSet _ _ _ _ _
@[simp] theorem feedAt_putFeed_self (s : State) (n : Nat) (x : Feed) : feedAt (putFeed s n x) n = x := smGet_smSet_self _ _ _ _
@[simp] theorem feedAt_modFeed_self (s : State) (n : Nat) (g : Feed → Feed) : feedAt (modFeed s n g) n = g (feedAt s n) := smGet_smSet_self _ _ _ _
theorem cacheAt_putCache (s : State) (n m : Nat) (x : CacheEntry) : cacheAt (putCache s n x) m = if m = n then x else cacheAt s m := smGet_smSet _ _ _ _ _
@[simp] theorem cacheAt_putCache_self (s : State) (n : Nat) (x : CacheEntry) : cacheAt (putCache s n x) n = x := smGet_smSet_self _ _ _ _
@[simp] theorem cacheAt_modCache_self (s : State) (n : Nat) (g : CacheEntry → CacheEntry) : cacheAt (modCache s n g) n = g (cacheAt s n) := smGet_smSet_self _ _ _ _
theorem slotAt_putSlot (s : State) (n m : Nat) (x : Slot) : slotAt (putSlot s n x) m = if m = n then x else slotAt s m := smGet_smSet _ _ _ _ _
@[simp] theorem slotAt_putSlot_self (s : State) (n : Nat) (x : Slot) : slotAt (putSlot s n x) n = x := smGet_smSet_self _ _ _ _
@[simp] theorem slotAt_modSlot_self (s : State) (n : Nat) (g : Slot → Slot) : slotAt (modSlot s n g) n = g (slotAt s n) := smGet_smSet_self _ _ _ _
theorem blobAt_putBlob (s : State) (n m : Nat) (x : BlobEntry) : blobAt (putBlob s n x) m = if m = n then x else blobAt s m := smGet_smSet _ _ _ _ _
@[simp] theorem blobAt_putBlob_self (s : State) (n : Nat) (x : BlobEntry) : blobAt (putBlob s n x) n = x := smGet_smSet_self _ _ _ _
@[simp] theorem blobAt_modBlob_self (s : State) (n : Nat) (g : BlobEntry → BlobEntry) : blobAt (modBlob s n g) n = g (blobAt s n) := smGet_smSet_self _ _ _ _
theorem hbsAt_putHbs (s : State) (n m : Nat) (x : HbsKey) : hbsAt (putHbs s n x) m = if m = n then x else hbsAt s m := smGet_smSet _ _ _ _ _
@[simp] theorem hbsAt_putHbs_self (s : State) (n : Nat) (x : HbsKey) : hbsAt (putHbs s n x) n = x := smGet_smSet_self _ _ _ _
@[simp] theorem hbsAt_modHbs_self (s : State) (n : Nat) (g : HbsKey → HbsKey) : hbsAt (modHbs s n g) n = g (hbsAt s n) := smGet_smSet_self _ _ _ _
theorem shedAt_setShed (s : State) (i j v : Nat) : shedAt (setShed s i v) j = if j = i then v else shedAt s j := smGet_smSet _ _ _ _ _

/-! ## Reading a unit after a write of another kind -/

@[simp] theorem fnAt_putQ (s : State) (n : Nat) (x : Queue) (m : Nat) : fnAt (putQ s n x) m = fnAt s m := rfl
@[simp] theorem fnAt_modQ (s : State) (n : Nat) (g : Queue → Queue) (m : Nat) : fnAt (modQ s n g) m = fnAt s m := rfl
@[simp] theorem fnAt_putPad (s : State) (n : Nat) (x : Pad) (m : Nat) : fnAt (putPad s n x) m = fnAt s m := rfl
@[simp] theorem fnAt_modPad (s : State) (n : Nat) (g : Pad → Pad) (m : Nat) : fnAt (modPad s n g) m = fnAt s m := rfl
@[simp] theorem fnAt_putSt (s : State) (n : Nat) (x : Stall) (m : Nat) : fnAt (putSt s n x) m = fnAt s m := rfl
@[simp] theorem fnAt_modSt (s : State) (n : Nat) (g : Stall → Stall) (m : Nat) : fnAt (modSt s n g) m = fnAt s m := rfl
@[simp] theorem fnAt_putCore (s : State) (n : Nat) (x : Core) (m : Nat) : fnAt (putCore s n x) m = fnAt s m := rfl
@[simp] theorem fnAt_modCore (s : State) (n : Nat) (g : Core → Core) (m : Nat) : fnAt (modCore s n g) m = fnAt s m := rfl
@[simp] theorem fnAt_putFeed (s : State) (n : Nat) (x : Feed) (m : Nat) : fnAt (putFeed s n x) m = fnAt s m := rfl
@[simp] theorem fnAt_modFeed (s : State) (n : Nat) (g : Feed → Feed) (m : Nat) : fnAt (modFeed s n g) m = fnAt s m := rfl
@[simp] theorem fnAt_putCache (s : State) (n : Nat) (x : CacheEntry) (m : Nat) : fnAt (putCache s n x) m = fnAt s m := rfl
@[simp] theorem fnAt_modCache (s : State) (n : Nat) (g : CacheEntry → CacheEntry) (m : Nat) : fnAt (modCache s n g) m = fnAt s m := rfl
@[simp] theorem fnAt_putSlot (s : State) (n : Nat) (x : Slot) (m : Nat) : fnAt (putSlot s n x) m = fnAt s m := rfl
@[simp] theorem fnAt_modSlot (s : State) (n : Nat) (g : Slot → Slot) (m : Nat) : fnAt (modSlot s n g) m = fnAt s m := rfl
@[simp] theorem fnAt_putBlob (s : State) (n : Nat) (x : BlobEntry) (m : Nat) : fnAt (putBlob s n x) m = fnAt s m := rfl
@[simp] theorem fnAt_modBlob (s : State) (n : Nat) (g : BlobEntry → BlobEntry) (m : Nat) : fnAt (modBlob s n g) m = fnAt s m := rfl
@[simp] theorem fnAt_putHbs (s : State) (n : Nat) (x : HbsKey) (m : Nat) : fnAt (putHbs s n x) m = fnAt s m := rfl
@[simp] theorem fnAt_modHbs (s : State) (n : Nat) (g : HbsKey → HbsKey) (m : Nat) : fnAt (modHbs s n g) m = fnAt s m := rfl
@[simp] theorem fnAt_setShed (s : State) (i v : Nat) (m : Nat) : fnAt (setShed s i v) m = fnAt s m := rfl
@[simp] theorem fnAt_emit (s : State) (e : Emission) (m : Nat) : fnAt (emit s e) m = fnAt s m := rfl
@[simp] theorem qAt_putFn (s : State) (n : Nat) (x : Fn) (m : Nat) : qAt (putFn s n x) m = qAt s m := rfl
@[simp] theorem qAt_modFn (s : State) (n : Nat) (g : Fn → Fn) (m : Nat) : qAt (modFn s n g) m = qAt s m := rfl
@[simp] theorem qAt_putPad (s : State) (n : Nat) (x : Pad) (m : Nat) : qAt (putPad s n x) m = qAt s m := rfl
@[simp] theorem qAt_modPad (s : State) (n : Nat) (g : Pad → Pad) (m : Nat) : qAt (modPad s n g) m = qAt s m := rfl
@[simp] theorem qAt_putSt (s : State) (n : Nat) (x : Stall) (m : Nat) : qAt (putSt s n x) m = qAt s m := rfl
@[simp] theorem qAt_modSt (s : State) (n : Nat) (g : Stall → Stall) (m : Nat) : qAt (modSt s n g) m = qAt s m := rfl
@[simp] theorem qAt_putCore (s : State) (n : Nat) (x : Core) (m : Nat) : qAt (putCore s n x) m = qAt s m := rfl
@[simp] theorem qAt_modCore (s : State) (n : Nat) (g : Core → Core) (m : Nat) : qAt (modCore s n g) m = qAt s m := rfl
@[simp] theorem qAt_putFeed (s : State) (n : Nat) (x : Feed) (m : Nat) : qAt (putFeed s n x) m = qAt s m := rfl
@[simp] theorem qAt_modFeed (s : State) (n : Nat) (g : Feed → Feed) (m : Nat) : qAt (modFeed s n g) m = qAt s m := rfl
@[simp] theorem qAt_putCache (s : State) (n : Nat) (x : CacheEntry) (m : Nat) : qAt (putCache s n x) m = qAt s m := rfl
@[simp] theorem qAt_modCache (s : State) (n : Nat) (g : CacheEntry → CacheEntry) (m : Nat) : qAt (modCache s n g) m = qAt s m := rfl
@[simp] theorem qAt_putSlot (s : State) (n : Nat) (x : Slot) (m : Nat) : qAt (putSlot s n x) m = qAt s m := rfl
@[simp] theorem qAt_modSlot (s : State) (n : Nat) (g : Slot → Slot) (m : Nat) : qAt (modSlot s n g) m = qAt s m := rfl
@[simp] theorem qAt_putBlob (s : State) (n : Nat) (x : BlobEntry) (m : Nat) : qAt (putBlob s n x) m = qAt s m := rfl
@[simp] theorem qAt_modBlob (s : State) (n : Nat) (g : BlobEntry → BlobEntry) (m : Nat) : qAt (modBlob s n g) m = qAt s m := rfl
@[simp] theorem qAt_putHbs (s : State) (n : Nat) (x : HbsKey) (m : Nat) : qAt (putHbs s n x) m = qAt s m := rfl
@[simp] theorem qAt_modHbs (s : State) (n : Nat) (g : HbsKey → HbsKey) (m : Nat) : qAt (modHbs s n g) m = qAt s m := rfl
@[simp] theorem qAt_setShed (s : State) (i v : Nat) (m : Nat) : qAt (setShed s i v) m = qAt s m := rfl
@[simp] theorem qAt_emit (s : State) (e : Emission) (m : Nat) : qAt (emit s e) m = qAt s m := rfl
@[simp] theorem padAt_putFn (s : State) (n : Nat) (x : Fn) (m : Nat) : padAt (putFn s n x) m = padAt s m := rfl
@[simp] theorem padAt_modFn (s : State) (n : Nat) (g : Fn → Fn) (m : Nat) : padAt (modFn s n g) m = padAt s m := rfl
@[simp] theorem padAt_putQ (s : State) (n : Nat) (x : Queue) (m : Nat) : padAt (putQ s n x) m = padAt s m := rfl
@[simp] theorem padAt_modQ (s : State) (n : Nat) (g : Queue → Queue) (m : Nat) : padAt (modQ s n g) m = padAt s m := rfl
@[simp] theorem padAt_putSt (s : State) (n : Nat) (x : Stall) (m : Nat) : padAt (putSt s n x) m = padAt s m := rfl
@[simp] theorem padAt_modSt (s : State) (n : Nat) (g : Stall → Stall) (m : Nat) : padAt (modSt s n g) m = padAt s m := rfl
@[simp] theorem padAt_putCore (s : State) (n : Nat) (x : Core) (m : Nat) : padAt (putCore s n x) m = padAt s m := rfl
@[simp] theorem padAt_modCore (s : State) (n : Nat) (g : Core → Core) (m : Nat) : padAt (modCore s n g) m = padAt s m := rfl
@[simp] theorem padAt_putFeed (s : State) (n : Nat) (x : Feed) (m : Nat) : padAt (putFeed s n x) m = padAt s m := rfl
@[simp] theorem padAt_modFeed (s : State) (n : Nat) (g : Feed → Feed) (m : Nat) : padAt (modFeed s n g) m = padAt s m := rfl
@[simp] theorem padAt_putCache (s : State) (n : Nat) (x : CacheEntry) (m : Nat) : padAt (putCache s n x) m = padAt s m := rfl
@[simp] theorem padAt_modCache (s : State) (n : Nat) (g : CacheEntry → CacheEntry) (m : Nat) : padAt (modCache s n g) m = padAt s m := rfl
@[simp] theorem padAt_putSlot (s : State) (n : Nat) (x : Slot) (m : Nat) : padAt (putSlot s n x) m = padAt s m := rfl
@[simp] theorem padAt_modSlot (s : State) (n : Nat) (g : Slot → Slot) (m : Nat) : padAt (modSlot s n g) m = padAt s m := rfl
@[simp] theorem padAt_putBlob (s : State) (n : Nat) (x : BlobEntry) (m : Nat) : padAt (putBlob s n x) m = padAt s m := rfl
@[simp] theorem padAt_modBlob (s : State) (n : Nat) (g : BlobEntry → BlobEntry) (m : Nat) : padAt (modBlob s n g) m = padAt s m := rfl
@[simp] theorem padAt_putHbs (s : State) (n : Nat) (x : HbsKey) (m : Nat) : padAt (putHbs s n x) m = padAt s m := rfl
@[simp] theorem padAt_modHbs (s : State) (n : Nat) (g : HbsKey → HbsKey) (m : Nat) : padAt (modHbs s n g) m = padAt s m := rfl
@[simp] theorem padAt_setShed (s : State) (i v : Nat) (m : Nat) : padAt (setShed s i v) m = padAt s m := rfl
@[simp] theorem padAt_emit (s : State) (e : Emission) (m : Nat) : padAt (emit s e) m = padAt s m := rfl
@[simp] theorem stAt_putFn (s : State) (n : Nat) (x : Fn) (m : Nat) : stAt (putFn s n x) m = stAt s m := rfl
@[simp] theorem stAt_modFn (s : State) (n : Nat) (g : Fn → Fn) (m : Nat) : stAt (modFn s n g) m = stAt s m := rfl
@[simp] theorem stAt_putQ (s : State) (n : Nat) (x : Queue) (m : Nat) : stAt (putQ s n x) m = stAt s m := rfl
@[simp] theorem stAt_modQ (s : State) (n : Nat) (g : Queue → Queue) (m : Nat) : stAt (modQ s n g) m = stAt s m := rfl
@[simp] theorem stAt_putPad (s : State) (n : Nat) (x : Pad) (m : Nat) : stAt (putPad s n x) m = stAt s m := rfl
@[simp] theorem stAt_modPad (s : State) (n : Nat) (g : Pad → Pad) (m : Nat) : stAt (modPad s n g) m = stAt s m := rfl
@[simp] theorem stAt_putCore (s : State) (n : Nat) (x : Core) (m : Nat) : stAt (putCore s n x) m = stAt s m := rfl
@[simp] theorem stAt_modCore (s : State) (n : Nat) (g : Core → Core) (m : Nat) : stAt (modCore s n g) m = stAt s m := rfl
@[simp] theorem stAt_putFeed (s : State) (n : Nat) (x : Feed) (m : Nat) : stAt (putFeed s n x) m = stAt s m := rfl
@[simp] theorem stAt_modFeed (s : State) (n : Nat) (g : Feed → Feed) (m : Nat) : stAt (modFeed s n g) m = stAt s m := rfl
@[simp] theorem stAt_putCache (s : State) (n : Nat) (x : CacheEntry) (m : Nat) : stAt (putCache s n x) m = stAt s m := rfl
@[simp] theorem stAt_modCache (s : State) (n : Nat) (g : CacheEntry → CacheEntry) (m : Nat) : stAt (modCache s n g) m = stAt s m := rfl
@[simp] theorem stAt_putSlot (s : State) (n : Nat) (x : Slot) (m : Nat) : stAt (putSlot s n x) m = stAt s m := rfl
@[simp] theorem stAt_modSlot (s : State) (n : Nat) (g : Slot → Slot) (m : Nat) : stAt (modSlot s n g) m = stAt s m := rfl
@[simp] theorem stAt_putBlob (s : State) (n : Nat) (x : BlobEntry) (m : Nat) : stAt (putBlob s n x) m = stAt s m := rfl
@[simp] theorem stAt_modBlob (s : State) (n : Nat) (g : BlobEntry → BlobEntry) (m : Nat) : stAt (modBlob s n g) m = stAt s m := rfl
@[simp] theorem stAt_putHbs (s : State) (n : Nat) (x : HbsKey) (m : Nat) : stAt (putHbs s n x) m = stAt s m := rfl
@[simp] theorem stAt_modHbs (s : State) (n : Nat) (g : HbsKey → HbsKey) (m : Nat) : stAt (modHbs s n g) m = stAt s m := rfl
@[simp] theorem stAt_setShed (s : State) (i v : Nat) (m : Nat) : stAt (setShed s i v) m = stAt s m := rfl
@[simp] theorem stAt_emit (s : State) (e : Emission) (m : Nat) : stAt (emit s e) m = stAt s m := rfl
@[simp] theorem coreAt_putFn (s : State) (n : Nat) (x : Fn) (m : Nat) : coreAt (putFn s n x) m = coreAt s m := rfl
@[simp] theorem coreAt_modFn (s : State) (n : Nat) (g : Fn → Fn) (m : Nat) : coreAt (modFn s n g) m = coreAt s m := rfl
@[simp] theorem coreAt_putQ (s : State) (n : Nat) (x : Queue) (m : Nat) : coreAt (putQ s n x) m = coreAt s m := rfl
@[simp] theorem coreAt_modQ (s : State) (n : Nat) (g : Queue → Queue) (m : Nat) : coreAt (modQ s n g) m = coreAt s m := rfl
@[simp] theorem coreAt_putPad (s : State) (n : Nat) (x : Pad) (m : Nat) : coreAt (putPad s n x) m = coreAt s m := rfl
@[simp] theorem coreAt_modPad (s : State) (n : Nat) (g : Pad → Pad) (m : Nat) : coreAt (modPad s n g) m = coreAt s m := rfl
@[simp] theorem coreAt_putSt (s : State) (n : Nat) (x : Stall) (m : Nat) : coreAt (putSt s n x) m = coreAt s m := rfl
@[simp] theorem coreAt_modSt (s : State) (n : Nat) (g : Stall → Stall) (m : Nat) : coreAt (modSt s n g) m = coreAt s m := rfl
@[simp] theorem coreAt_putFeed (s : State) (n : Nat) (x : Feed) (m : Nat) : coreAt (putFeed s n x) m = coreAt s m := rfl
@[simp] theorem coreAt_modFeed (s : State) (n : Nat) (g : Feed → Feed) (m : Nat) : coreAt (modFeed s n g) m = coreAt s m := rfl
@[simp] theorem coreAt_putCache (s : State) (n : Nat) (x : CacheEntry) (m : Nat) : coreAt (putCache s n x) m = coreAt s m := rfl
@[simp] theorem coreAt_modCache (s : State) (n : Nat) (g : CacheEntry → CacheEntry) (m : Nat) : coreAt (modCache s n g) m = coreAt s m := rfl
@[simp] theorem coreAt_putSlot (s : State) (n : Nat) (x : Slot) (m : Nat) : coreAt (putSlot s n x) m = coreAt s m := rfl
@[simp] theorem coreAt_modSlot (s : State) (n : Nat) (g : Slot → Slot) (m : Nat) : coreAt (modSlot s n g) m = coreAt s m := rfl
@[simp] theorem coreAt_putBlob (s : State) (n : Nat) (x : BlobEntry) (m : Nat) : coreAt (putBlob s n x) m = coreAt s m := rfl
@[simp] theorem coreAt_modBlob (s : State) (n : Nat) (g : BlobEntry → BlobEntry) (m : Nat) : coreAt (modBlob s n g) m = coreAt s m := rfl
@[simp] theorem coreAt_putHbs (s : State) (n : Nat) (x : HbsKey) (m : Nat) : coreAt (putHbs s n x) m = coreAt s m := rfl
@[simp] theorem coreAt_modHbs (s : State) (n : Nat) (g : HbsKey → HbsKey) (m : Nat) : coreAt (modHbs s n g) m = coreAt s m := rfl
@[simp] theorem coreAt_setShed (s : State) (i v : Nat) (m : Nat) : coreAt (setShed s i v) m = coreAt s m := rfl
@[simp] theorem coreAt_emit (s : State) (e : Emission) (m : Nat) : coreAt (emit s e) m = coreAt s m := rfl
@[simp] theorem feedAt_putFn (s : State) (n : Nat) (x : Fn) (m : Nat) : feedAt (putFn s n x) m = feedAt s m := rfl
@[simp] theorem feedAt_modFn (s : State) (n : Nat) (g : Fn → Fn) (m : Nat) : feedAt (modFn s n g) m = feedAt s m := rfl
@[simp] theorem feedAt_putQ (s : State) (n : Nat) (x : Queue) (m : Nat) : feedAt (putQ s n x) m = feedAt s m := rfl
@[simp] theorem feedAt_modQ (s : State) (n : Nat) (g : Queue → Queue) (m : Nat) : feedAt (modQ s n g) m = feedAt s m := rfl
@[simp] theorem feedAt_putPad (s : State) (n : Nat) (x : Pad) (m : Nat) : feedAt (putPad s n x) m = feedAt s m := rfl
@[simp] theorem feedAt_modPad (s : State) (n : Nat) (g : Pad → Pad) (m : Nat) : feedAt (modPad s n g) m = feedAt s m := rfl
@[simp] theorem feedAt_putSt (s : State) (n : Nat) (x : Stall) (m : Nat) : feedAt (putSt s n x) m = feedAt s m := rfl
@[simp] theorem feedAt_modSt (s : State) (n : Nat) (g : Stall → Stall) (m : Nat) : feedAt (modSt s n g) m = feedAt s m := rfl
@[simp] theorem feedAt_putCore (s : State) (n : Nat) (x : Core) (m : Nat) : feedAt (putCore s n x) m = feedAt s m := rfl
@[simp] theorem feedAt_modCore (s : State) (n : Nat) (g : Core → Core) (m : Nat) : feedAt (modCore s n g) m = feedAt s m := rfl
@[simp] theorem feedAt_putCache (s : State) (n : Nat) (x : CacheEntry) (m : Nat) : feedAt (putCache s n x) m = feedAt s m := rfl
@[simp] theorem feedAt_modCache (s : State) (n : Nat) (g : CacheEntry → CacheEntry) (m : Nat) : feedAt (modCache s n g) m = feedAt s m := rfl
@[simp] theorem feedAt_putSlot (s : State) (n : Nat) (x : Slot) (m : Nat) : feedAt (putSlot s n x) m = feedAt s m := rfl
@[simp] theorem feedAt_modSlot (s : State) (n : Nat) (g : Slot → Slot) (m : Nat) : feedAt (modSlot s n g) m = feedAt s m := rfl
@[simp] theorem feedAt_putBlob (s : State) (n : Nat) (x : BlobEntry) (m : Nat) : feedAt (putBlob s n x) m = feedAt s m := rfl
@[simp] theorem feedAt_modBlob (s : State) (n : Nat) (g : BlobEntry → BlobEntry) (m : Nat) : feedAt (modBlob s n g) m = feedAt s m := rfl
@[simp] theorem feedAt_putHbs (s : State) (n : Nat) (x : HbsKey) (m : Nat) : feedAt (putHbs s n x) m = feedAt s m := rfl
@[simp] theorem feedAt_modHbs (s : State) (n : Nat) (g : HbsKey → HbsKey) (m : Nat) : feedAt (modHbs s n g) m = feedAt s m := rfl
@[simp] theorem feedAt_setShed (s : State) (i v : Nat) (m : Nat) : feedAt (setShed s i v) m = feedAt s m := rfl
@[simp] theorem feedAt_emit (s : State) (e : Emission) (m : Nat) : feedAt (emit s e) m = feedAt s m := rfl
@[simp] theorem cacheAt_putFn (s : State) (n : Nat) (x : Fn) (m : Nat) : cacheAt (putFn s n x) m = cacheAt s m := rfl
@[simp] theorem cacheAt_modFn (s : State) (n : Nat) (g : Fn → Fn) (m : Nat) : cacheAt (modFn s n g) m = cacheAt s m := rfl
@[simp] theorem cacheAt_putQ (s : State) (n : Nat) (x : Queue) (m : Nat) : cacheAt (putQ s n x) m = cacheAt s m := rfl
@[simp] theorem cacheAt_modQ (s : State) (n : Nat) (g : Queue → Queue) (m : Nat) : cacheAt (modQ s n g) m = cacheAt s m := rfl
@[simp] theorem cacheAt_putPad (s : State) (n : Nat) (x : Pad) (m : Nat) : cacheAt (putPad s n x) m = cacheAt s m := rfl
@[simp] theorem cacheAt_modPad (s : State) (n : Nat) (g : Pad → Pad) (m : Nat) : cacheAt (modPad s n g) m = cacheAt s m := rfl
@[simp] theorem cacheAt_putSt (s : State) (n : Nat) (x : Stall) (m : Nat) : cacheAt (putSt s n x) m = cacheAt s m := rfl
@[simp] theorem cacheAt_modSt (s : State) (n : Nat) (g : Stall → Stall) (m : Nat) : cacheAt (modSt s n g) m = cacheAt s m := rfl
@[simp] theorem cacheAt_putCore (s : State) (n : Nat) (x : Core) (m : Nat) : cacheAt (putCore s n x) m = cacheAt s m := rfl
@[simp] theorem cacheAt_modCore (s : State) (n : Nat) (g : Core → Core) (m : Nat) : cacheAt (modCore s n g) m = cacheAt s m := rfl
@[simp] theorem cacheAt_putFeed (s : State) (n : Nat) (x : Feed) (m : Nat) : cacheAt (putFeed s n x) m = cacheAt s m := rfl
@[simp] theorem cacheAt_modFeed (s : State) (n : Nat) (g : Feed → Feed) (m : Nat) : cacheAt (modFeed s n g) m = cacheAt s m := rfl
@[simp] theorem cacheAt_putSlot (s : State) (n : Nat) (x : Slot) (m : Nat) : cacheAt (putSlot s n x) m = cacheAt s m := rfl
@[simp] theorem cacheAt_modSlot (s : State) (n : Nat) (g : Slot → Slot) (m : Nat) : cacheAt (modSlot s n g) m = cacheAt s m := rfl
@[simp] theorem cacheAt_putBlob (s : State) (n : Nat) (x : BlobEntry) (m : Nat) : cacheAt (putBlob s n x) m = cacheAt s m := rfl
@[simp] theorem cacheAt_modBlob (s : State) (n : Nat) (g : BlobEntry → BlobEntry) (m : Nat) : cacheAt (modBlob s n g) m = cacheAt s m := rfl
@[simp] theorem cacheAt_putHbs (s : State) (n : Nat) (x : HbsKey) (m : Nat) : cacheAt (putHbs s n x) m = cacheAt s m := rfl
@[simp] theorem cacheAt_modHbs (s : State) (n : Nat) (g : HbsKey → HbsKey) (m : Nat) : cacheAt (modHbs s n g) m = cacheAt s m := rfl
@[simp] theorem cacheAt_setShed (s : State) (i v : Nat) (m : Nat) : cacheAt (setShed s i v) m = cacheAt s m := rfl
@[simp] theorem cacheAt_emit (s : State) (e : Emission) (m : Nat) : cacheAt (emit s e) m = cacheAt s m := rfl
@[simp] theorem slotAt_putFn (s : State) (n : Nat) (x : Fn) (m : Nat) : slotAt (putFn s n x) m = slotAt s m := rfl
@[simp] theorem slotAt_modFn (s : State) (n : Nat) (g : Fn → Fn) (m : Nat) : slotAt (modFn s n g) m = slotAt s m := rfl
@[simp] theorem slotAt_putQ (s : State) (n : Nat) (x : Queue) (m : Nat) : slotAt (putQ s n x) m = slotAt s m := rfl
@[simp] theorem slotAt_modQ (s : State) (n : Nat) (g : Queue → Queue) (m : Nat) : slotAt (modQ s n g) m = slotAt s m := rfl
@[simp] theorem slotAt_putPad (s : State) (n : Nat) (x : Pad) (m : Nat) : slotAt (putPad s n x) m = slotAt s m := rfl
@[simp] theorem slotAt_modPad (s : State) (n : Nat) (g : Pad → Pad) (m : Nat) : slotAt (modPad s n g) m = slotAt s m := rfl
@[simp] theorem slotAt_putSt (s : State) (n : Nat) (x : Stall) (m : Nat) : slotAt (putSt s n x) m = slotAt s m := rfl
@[simp] theorem slotAt_modSt (s : State) (n : Nat) (g : Stall → Stall) (m : Nat) : slotAt (modSt s n g) m = slotAt s m := rfl
@[simp] theorem slotAt_putCore (s : State) (n : Nat) (x : Core) (m : Nat) : slotAt (putCore s n x) m = slotAt s m := rfl
@[simp] theorem slotAt_modCore (s : State) (n : Nat) (g : Core → Core) (m : Nat) : slotAt (modCore s n g) m = slotAt s m := rfl
@[simp] theorem slotAt_putFeed (s : State) (n : Nat) (x : Feed) (m : Nat) : slotAt (putFeed s n x) m = slotAt s m := rfl
@[simp] theorem slotAt_modFeed (s : State) (n : Nat) (g : Feed → Feed) (m : Nat) : slotAt (modFeed s n g) m = slotAt s m := rfl
@[simp] theorem slotAt_putCache (s : State) (n : Nat) (x : CacheEntry) (m : Nat) : slotAt (putCache s n x) m = slotAt s m := rfl
@[simp] theorem slotAt_modCache (s : State) (n : Nat) (g : CacheEntry → CacheEntry) (m : Nat) : slotAt (modCache s n g) m = slotAt s m := rfl
@[simp] theorem slotAt_putBlob (s : State) (n : Nat) (x : BlobEntry) (m : Nat) : slotAt (putBlob s n x) m = slotAt s m := rfl
@[simp] theorem slotAt_modBlob (s : State) (n : Nat) (g : BlobEntry → BlobEntry) (m : Nat) : slotAt (modBlob s n g) m = slotAt s m := rfl
@[simp] theorem slotAt_putHbs (s : State) (n : Nat) (x : HbsKey) (m : Nat) : slotAt (putHbs s n x) m = slotAt s m := rfl
@[simp] theorem slotAt_modHbs (s : State) (n : Nat) (g : HbsKey → HbsKey) (m : Nat) : slotAt (modHbs s n g) m = slotAt s m := rfl
@[simp] theorem slotAt_setShed (s : State) (i v : Nat) (m : Nat) : slotAt (setShed s i v) m = slotAt s m := rfl
@[simp] theorem slotAt_emit (s : State) (e : Emission) (m : Nat) : slotAt (emit s e) m = slotAt s m := rfl
@[simp] theorem blobAt_putFn (s : State) (n : Nat) (x : Fn) (m : Nat) : blobAt (putFn s n x) m = blobAt s m := rfl
@[simp] theorem blobAt_modFn (s : State) (n : Nat) (g : Fn → Fn) (m : Nat) : blobAt (modFn s n g) m = blobAt s m := rfl
@[simp] theorem blobAt_putQ (s : State) (n : Nat) (x : Queue) (m : Nat) : blobAt (putQ s n x) m = blobAt s m := rfl
@[simp] theorem blobAt_modQ (s : State) (n : Nat) (g : Queue → Queue) (m : Nat) : blobAt (modQ s n g) m = blobAt s m := rfl
@[simp] theorem blobAt_putPad (s : State) (n : Nat) (x : Pad) (m : Nat) : blobAt (putPad s n x) m = blobAt s m := rfl
@[simp] theorem blobAt_modPad (s : State) (n : Nat) (g : Pad → Pad) (m : Nat) : blobAt (modPad s n g) m = blobAt s m := rfl
@[simp] theorem blobAt_putSt (s : State) (n : Nat) (x : Stall) (m : Nat) : blobAt (putSt s n x) m = blobAt s m := rfl
@[simp] theorem blobAt_modSt (s : State) (n : Nat) (g : Stall → Stall) (m : Nat) : blobAt (modSt s n g) m = blobAt s m := rfl
@[simp] theorem blobAt_putCore (s : State) (n : Nat) (x : Core) (m : Nat) : blobAt (putCore s n x) m = blobAt s m := rfl
@[simp] theorem blobAt_modCore (s : State) (n : Nat) (g : Core → Core) (m : Nat) : blobAt (modCore s n g) m = blobAt s m := rfl
@[simp] theorem blobAt_putFeed (s : State) (n : Nat) (x : Feed) (m : Nat) : blobAt (putFeed s n x) m = blobAt s m := rfl
@[simp] theorem blobAt_modFeed (s : State) (n : Nat) (g : Feed → Feed) (m : Nat) : blobAt (modFeed s n g) m = blobAt s m := rfl
@[simp] theorem blobAt_putCache (s : State) (n : Nat) (x : CacheEntry) (m : Nat) : blobAt (putCache s n x) m = blobAt s m := rfl
@[simp] theorem blobAt_modCache (s : State) (n : Nat) (g : CacheEntry → CacheEntry) (m : Nat) : blobAt (modCache s n g) m = blobAt s m := rfl
@[simp] theorem blobAt_putSlot (s : State) (n : Nat) (x : Slot) (m : Nat) : blobAt (putSlot s n x) m = blobAt s m := rfl
@[simp] theorem blobAt_modSlot (s : State) (n : Nat) (g : Slot → Slot) (m : Nat) : blobAt (modSlot s n g) m = blobAt s m := rfl
@[simp] theorem blobAt_putHbs (s : State) (n : Nat) (x : HbsKey) (m : Nat) : blobAt (putHbs s n x) m = blobAt s m := rfl
@[simp] theorem blobAt_modHbs (s : State) (n : Nat) (g : HbsKey → HbsKey) (m : Nat) : blobAt (modHbs s n g) m = blobAt s m := rfl
@[simp] theorem blobAt_setShed (s : State) (i v : Nat) (m : Nat) : blobAt (setShed s i v) m = blobAt s m := rfl
@[simp] theorem blobAt_emit (s : State) (e : Emission) (m : Nat) : blobAt (emit s e) m = blobAt s m := rfl
@[simp] theorem hbsAt_putFn (s : State) (n : Nat) (x : Fn) (m : Nat) : hbsAt (putFn s n x) m = hbsAt s m := rfl
@[simp] theorem hbsAt_modFn (s : State) (n : Nat) (g : Fn → Fn) (m : Nat) : hbsAt (modFn s n g) m = hbsAt s m := rfl
@[simp] theorem hbsAt_putQ (s : State) (n : Nat) (x : Queue) (m : Nat) : hbsAt (putQ s n x) m = hbsAt s m := rfl
@[simp] theorem hbsAt_modQ (s : State) (n : Nat) (g : Queue → Queue) (m : Nat) : hbsAt (modQ s n g) m = hbsAt s m := rfl
@[simp] theorem hbsAt_putPad (s : State) (n : Nat) (x : Pad) (m : Nat) : hbsAt (putPad s n x) m = hbsAt s m := rfl
@[simp] theorem hbsAt_modPad (s : State) (n : Nat) (g : Pad → Pad) (m : Nat) : hbsAt (modPad s n g) m = hbsAt s m := rfl
@[simp] theorem hbsAt_putSt (s : State) (n : Nat) (x : Stall) (m : Nat) : hbsAt (putSt s n x) m = hbsAt s m := rfl
@[simp] theorem hbsAt_modSt (s : State) (n : Nat) (g : Stall → Stall) (m : Nat) : hbsAt (modSt s n g) m = hbsAt s m := rfl
@[simp] theorem hbsAt_putCore (s : State) (n : Nat) (x : Core) (m : Nat) : hbsAt (putCore s n x) m = hbsAt s m := rfl
@[simp] theorem hbsAt_modCore (s : State) (n : Nat) (g : Core → Core) (m : Nat) : hbsAt (modCore s n g) m = hbsAt s m := rfl
@[simp] theorem hbsAt_putFeed (s : State) (n : Nat) (x : Feed) (m : Nat) : hbsAt (putFeed s n x) m = hbsAt s m := rfl
@[simp] theorem hbsAt_modFeed (s : State) (n : Nat) (g : Feed → Feed) (m : Nat) : hbsAt (modFeed s n g) m = hbsAt s m := rfl
@[simp] theorem hbsAt_putCache (s : State) (n : Nat) (x : CacheEntry) (m : Nat) : hbsAt (putCache s n x) m = hbsAt s m := rfl
@[simp] theorem hbsAt_modCache (s : State) (n : Nat) (g : CacheEntry → CacheEntry) (m : Nat) : hbsAt (modCache s n g) m = hbsAt s m := rfl
@[simp] theorem hbsAt_putSlot (s : State) (n : Nat) (x : Slot) (m : Nat) : hbsAt (putSlot s n x) m = hbsAt s m := rfl
@[simp] theorem hbsAt_modSlot (s : State) (n : Nat) (g : Slot → Slot) (m : Nat) : hbsAt (modSlot s n g) m = hbsAt s m := rfl
@[simp] theorem hbsAt_putBlob (s : State) (n : Nat) (x : BlobEntry) (m : Nat) : hbsAt (putBlob s n x) m = hbsAt s m := rfl
@[simp] theorem hbsAt_modBlob (s : State) (n : Nat) (g : BlobEntry → BlobEntry) (m : Nat) : hbsAt (modBlob s n g) m = hbsAt s m := rfl
@[simp] theorem hbsAt_setShed (s : State) (i v : Nat) (m : Nat) : hbsAt (setShed s i v) m = hbsAt s m := rfl
@[simp] theorem hbsAt_emit (s : State) (e : Emission) (m : Nat) : hbsAt (emit s e) m = hbsAt s m := rfl

/-! ## A change of every listed unit -/

theorem smGet_below {α : Type} [DecidableEq α] {d : α} {m : SMap α} {lo k : Nat} (h : smWfFrom d lo m = true) (hk : k < lo) : smGet d m k = d := by
  induction m generalizing lo with
  | nil => rfl
  | cons e r ih =>
    obtain ⟨i, w⟩ := e
    simp only [smWfFrom, Bool.and_eq_true, decide_eq_true_eq] at h
    have : i ≠ k := by omega
    simp only [smGet, this, if_false]
    exact ih h.2 (by omega)

theorem smGet_smMap_from {α : Type} [DecidableEq α] {d : α} {f : Nat → α → α} (hf : ∀ k, f k d = d) {m : SMap α} {lo : Nat} (k : Nat)
    (h : smWfFrom d lo m = true) : smGet d (smMap d f m) k = f k (smGet d m k) := by
  induction m generalizing lo with
  | nil => exact (hf k).symm
  | cons e r ih =>
    obtain ⟨i, w⟩ := e
    simp only [smWfFrom, Bool.and_eq_true, decide_eq_true_eq] at h
    simp only [smMap]
    by_cases hik : i = k
    · subst hik
      have hb : smGet d r i = d := smGet_below h.2 (by omega)
      split
      · next hd => rw [ih h.2, hb, hf]; simp [smGet, hd]
      · simp [smGet]
    · split
      · rw [ih h.2]; simp [smGet, hik]
      · simp only [smGet, hik, if_false]; exact ih h.2

/-- In a canonical collection, a change of every listed unit changes each unit as told. -/
theorem smGet_smMap {α : Type} [DecidableEq α] {d : α} {f : Nat → α → α} (hf : ∀ k, f k d = d) {m : SMap α} (k : Nat) (h : smWf d m = true) :
    smGet d (smMap d f m) k = f k (smGet d m k) := smGet_smMap_from hf k h

end Sys2Proof.Machine
end

