-- ==== Sys2Proof/Laws/Benxis.lean ====
section
/-! SUPPORT. Benxis.lean: what running one instruction of a core answers, once for all instructions. -/

namespace Sys2Proof.Machine

open Sys2Proof

@[simp] theorem opRs1_x (c : Core) (f : BxFields) : (opRs1 c f).x = regW c f.rs1 := rfl
@[simp] theorem opRs2_d (c : Core) (f : BxFields) (g : Nat → Nat) : (opRs2 c f g).x.d = if f.i then f.imm else (regW c f.rs2).d := by
  unfold opRs2; split <;> rfl
/-- What an instruction of the core alone answers. -/
def doneState (s : State) (n : Nat) (f : BxFields) (len : Nat) : BxRes → State
  | .error t => enterTrap s n t
  | .ok d => if d.drew then { putCore s n (retire (coreAt s n) f len d) with freeCtr := s.freeCtr + 1 } else putCore s n (retire (coreAt s n) f len d)
theorem runCore_eq {s : State} {n op len : Nat} {f : BxFields} {g : Core → Nat → Nat → BxRes}
    (h1 : coreTakes s n = true) (h2 : fetch (coreAt s n) = .found op f len) :
    runCore s n op f g = doneState s n f len (g (coreAt s n) len (Config.freeValue s.freeCtr)) := by
  unfold runCore withFetch
  rw [h1, h2]
  simp only [Bool.not_true, Bool.false_eq_true, if_false, and_self, if_true]
  cases g (coreAt s n) len (Config.freeValue s.freeCtr) <;> rfl
theorem withFetch_found {s : State} {n op len : Nat} {f : BxFields} {g : Nat → State} (h1 : coreTakes s n = true)
    (h2 : fetch (coreAt s n) = .found op f len) : withFetch s n op f g = g len := by
  unfold withFetch
  rw [h1, h2]
  simp
end Sys2Proof.Machine
end

