-- ==== Sys2Proof/Laws/CoreMem.lean ====
section
/-! SUPPORT. CoreMem.lean: the local memory of a core, the addressed memory of the part: its canonical form (words in rising order, none
listed that reads as an unlisted word does), that every operation that writes it keeps that form, and read after write. -/

namespace Sys2Proof.Machine

open Sys2Proof

/-- The canonical form of a local memory. -/
abbrev Memory.wf (m : SMap TW) : Bool := smWf {} m

theorem memory_wf_reset : ∀ n, Memory.wf (coreAt State.reset n).mem = true := fun _ => rfl

theorem memory_wf_write {m : SMap TW} (k : Nat) (v : TW) (h : Memory.wf m = true) : Memory.wf (smSet {} m k v) = true := smWf_smSet {} k v h

/-- A string of bytes written from outside the core keeps the form. -/
theorem memWrite_wf (g : Guard) (tag fuel : Nat) {m : SMap TW} (a : Nat) (b : Bytes) (h : Memory.wf m = true) :
    Memory.wf (memWrite g tag fuel m a b).1 = true := by
  induction fuel generalizing m a b with
  | zero => exact h
  | succ fuel ih =>
    unfold memWrite
    split
    · exact h
    · apply ih
      split
      · exact h
      · exact smWf_smSet _ _ _ h

/-- The words of a trap frame keep the form. -/
theorem putWords_wf {m : SMap TW} (a : Nat) (l : List TW) (h : Memory.wf m = true) : Memory.wf (putWords m a l) = true := by
  induction l generalizing m a with
  | nil => exact h
  | cons x r ih => exact ih _ (smWf_smSet _ _ _ h)

/-- A whole-word store by the core keeps the form. -/
theorem storeWord_wf {c c' : Core} {a : Nat} {x : TW} (h : Memory.wf c.mem = true) (hs : storeWord c a x = .ok c') : Memory.wf c'.mem = true := by
  unfold storeWord at hs
  cases hc : checkAddr c a 8 with
  | error t => simp [hc, bind, Except.bind] at hs
  | ok u =>
    simp only [hc, bind, Except.bind] at hs
    split at hs
    · cases hs
    · cases hs
      exact smWf_smSet _ _ _ h

/-- A loaded core's words are listed in the canonical form. -/
theorem fillWords_wf (tag n : Nat) {m : SMap TW} (i : Nat) (b : Bytes) (h : Memory.wf m = true) : Memory.wf (fillWords tag n m i b) = true := by
  induction n generalizing m i b with
  | zero => exact h
  | succ n ih => exact ih _ _ (smWf_smSet _ _ _ h)

/-- Reading one word after a write of one. -/
theorem memWord_write (m : SMap TW) (k : Nat) (v : TW) (a : Nat) : memWord (smSet {} m k v) a = if a / 8 = k then v else memWord m a :=
  smGet_smSet _ _ _ _ _

end Sys2Proof.Machine
end

