-- ==== Sys2Proof/Laws/Only.lean ====
section
/-! SUPPORT. Only.lean: how frames compose. -/

namespace Sys2Proof

open Machine (State)

/-! ## What has the same value is an equivalence -/

theorem SysReg.same_refl (a : Machine.Sys) (r : SysReg) : r.Same a a := by cases r <;> rfl

theorem SysReg.same_trans {a b c : Machine.Sys} {r : SysReg} (h : r.Same a b) (g : r.Same b c) : r.Same a c := by
  cases r <;> exact Eq.trans g h

theorem PlanReg.same_refl (a : Machine.Plan) (r : PlanReg) : r.Same a a := by cases r <;> rfl

theorem PlanReg.same_trans {a b c : Machine.Plan} {r : PlanReg} (h : r.Same a b) (g : r.Same b c) : r.Same a c := by
  cases r <;> exact Eq.trans g h

theorem PlReg.same_refl (a : Machine.PlanCtl) (r : PlReg) : r.Same a a := by cases r <;> rfl

theorem PlReg.same_trans {a b c : Machine.PlanCtl} {r : PlReg} (h : r.Same a b) (g : r.Same b c) : r.Same a c := by
  cases r <;> exact Eq.trans g h

theorem LcReg.same_refl (a : Machine.LifeCycle) (r : LcReg) : r.Same a a := by cases r <;> rfl

theorem LcReg.same_trans {a b c : Machine.LifeCycle} {r : LcReg} (h : r.Same a b) (g : r.Same b c) : r.Same a c := by
  cases r <;> exact Eq.trans g h

theorem DbgReg.same_refl (a : Machine.Debug) (r : DbgReg) : r.Same a a := by cases r <;> rfl

theorem DbgReg.same_trans {a b c : Machine.Debug} {r : DbgReg} (h : r.Same a b) (g : r.Same b c) : r.Same a c := by
  cases r <;> exact Eq.trans g h

theorem EnReg.same_refl (a : Machine.Energy) (r : EnReg) : r.Same a a := by cases r <;> rfl

theorem EnReg.same_trans {a b c : Machine.Energy} {r : EnReg} (h : r.Same a b) (g : r.Same b c) : r.Same a c := by
  cases r <;> exact Eq.trans g h

theorem PortReg.same_refl (a : Machine.Port) (r : PortReg) : r.Same a a := by cases r <;> rfl

theorem PortReg.same_trans {a b c : Machine.Port} {r : PortReg} (h : r.Same a b) (g : r.Same b c) : r.Same a c := by
  cases r <;> exact Eq.trans g h

theorem FnReg.same_refl (a : Machine.Fn) (r : FnReg) : r.Same a a := by cases r <;> rfl

theorem FnReg.same_trans {a b c : Machine.Fn} {r : FnReg} (h : r.Same a b) (g : r.Same b c) : r.Same a c := by
  cases r <;> exact Eq.trans g h

theorem QueueReg.same_refl (a : Machine.Queue) (r : QueueReg) : r.Same a a := by cases r <;> rfl

theorem QueueReg.same_trans {a b c : Machine.Queue} {r : QueueReg} (h : r.Same a b) (g : r.Same b c) : r.Same a c := by
  cases r <;> exact Eq.trans g h

theorem PadReg.same_refl (a : Machine.Pad) (r : PadReg) : r.Same a a := by cases r <;> rfl

theorem PadReg.same_trans {a b c : Machine.Pad} {r : PadReg} (h : r.Same a b) (g : r.Same b c) : r.Same a c := by
  cases r <;> exact Eq.trans g h

theorem JnReg.same_refl (a : Machine.Journal) (r : JnReg) : r.Same a a := by cases r <;> rfl

theorem JnReg.same_trans {a b c : Machine.Journal} {r : JnReg} (h : r.Same a b) (g : r.Same b c) : r.Same a c := by
  cases r <;> exact Eq.trans g h

theorem StallReg.same_refl (a : Machine.Stall) (r : StallReg) : r.Same a a := by cases r <;> rfl

theorem StallReg.same_trans {a b c : Machine.Stall} {r : StallReg} (h : r.Same a b) (g : r.Same b c) : r.Same a c := by
  cases r <;> exact Eq.trans g h

theorem TkReg.same_refl (a : Machine.Tack) (r : TkReg) : r.Same a a := by cases r <;> rfl

theorem TkReg.same_trans {a b c : Machine.Tack} {r : TkReg} (h : r.Same a b) (g : r.Same b c) : r.Same a c := by
  cases r <;> exact Eq.trans g h

theorem RngReg.same_refl (a : Machine.Rng) (r : RngReg) : r.Same a a := by cases r <;> rfl

theorem RngReg.same_trans {a b c : Machine.Rng} {r : RngReg} (h : r.Same a b) (g : r.Same b c) : r.Same a c := by
  cases r <;> exact Eq.trans g h

theorem CoreReg.same_refl (a : Machine.Core) (r : CoreReg) : r.Same a a := by cases r <;> rfl

theorem CoreReg.same_trans {a b c : Machine.Core} {r : CoreReg} (h : r.Same a b) (g : r.Same b c) : r.Same a c := by
  cases r <;> exact Eq.trans g h

theorem FcReg.same_refl (a : Machine.Faults) (r : FcReg) : r.Same a a := by cases r <;> rfl

theorem FcReg.same_trans {a b c : Machine.Faults} {r : FcReg} (h : r.Same a b) (g : r.Same b c) : r.Same a c := by
  cases r <;> exact Eq.trans g h

theorem TpReg.same_refl (a : Machine.Tamper) (r : TpReg) : r.Same a a := by cases r <;> rfl

theorem TpReg.same_trans {a b c : Machine.Tamper} {r : TpReg} (h : r.Same a b) (g : r.Same b c) : r.Same a c := by
  cases r <;> exact Eq.trans g h

theorem HlReg.same_refl (a : Machine.Hayloft) (r : HlReg) : r.Same a a := by cases r <;> rfl

theorem HlReg.same_trans {a b c : Machine.Hayloft} {r : HlReg} (h : r.Same a b) (g : r.Same b c) : r.Same a c := by
  cases r <;> exact Eq.trans g h

theorem TtReg.same_refl (a : Machine.Tether) (r : TtReg) : r.Same a a := by cases r <;> rfl

theorem TtReg.same_trans {a b c : Machine.Tether} {r : TtReg} (h : r.Same a b) (g : r.Same b c) : r.Same a c := by
  cases r <;> exact Eq.trans g h

theorem LkReg.same_refl (a : Machine.Links) (r : LkReg) : r.Same a a := by cases r <;> rfl

theorem LkReg.same_trans {a b c : Machine.Links} {r : LkReg} (h : r.Same a b) (g : r.Same b c) : r.Same a c := by
  cases r <;> exact Eq.trans g h

theorem Part.same_refl (s : State) (p : Part) : p.Same s s := by
  cases p
  case sys r => exact r.same_refl _
  case plan r => exact r.same_refl _
  case pl r => exact r.same_refl _
  case lc r => exact r.same_refl _
  case dbg r => exact r.same_refl _
  case en r => exact r.same_refl _
  case port r => exact r.same_refl _
  case fn r => exact fun _ => r.same_refl _
  case queue r => exact fun _ => r.same_refl _
  case pad r => exact fun _ => r.same_refl _
  case jn r => exact r.same_refl _
  case stall r => exact fun _ => r.same_refl _
  case tk r => exact r.same_refl _
  case rng r => exact r.same_refl _
  case core r => exact fun _ => r.same_refl _
  case fc r => exact r.same_refl _
  case tp r => exact r.same_refl _
  case hl r => exact r.same_refl _
  case tt r => exact r.same_refl _
  case lk r => exact r.same_refl _
  all_goals rfl

theorem Part.same_trans {s t u : State} {p : Part} (h : p.Same s t) (g : p.Same t u) : p.Same s u := by
  cases p
  case sys r => exact SysReg.same_trans h g
  case plan r => exact PlanReg.same_trans h g
  case pl r => exact PlReg.same_trans h g
  case lc r => exact LcReg.same_trans h g
  case dbg r => exact DbgReg.same_trans h g
  case en r => exact EnReg.same_trans h g
  case port r => exact PortReg.same_trans h g
  case fn r => exact fun n => FnReg.same_trans (h n) (g n)
  case queue r => exact fun n => QueueReg.same_trans (h n) (g n)
  case pad r => exact fun n => PadReg.same_trans (h n) (g n)
  case jn r => exact JnReg.same_trans h g
  case stall r => exact fun n => StallReg.same_trans (h n) (g n)
  case tk r => exact TkReg.same_trans h g
  case rng r => exact RngReg.same_trans h g
  case core r => exact fun n => CoreReg.same_trans (h n) (g n)
  case fc r => exact FcReg.same_trans h g
  case tp r => exact TpReg.same_trans h g
  case hl r => exact HlReg.same_trans h g
  case tt r => exact TtReg.same_trans h g
  case lk r => exact LkReg.same_trans h g
  all_goals exact Eq.trans g h

/-! ## Frames as numbers: one bit for each register, so that inclusion is one equation -/

/-- Every register of State. -/
def Part.all : List Part :=
  List.flatten
    [Part.allSys, Part.allPlan, Part.allPl, Part.allLc, Part.allDbg, Part.allEn, Part.allPort, Part.allFn, Part.allQueue,
     Part.allPad, Part.allJn, Part.allStall, Part.allTk, Part.allRng, Part.allCore, Part.allFc, Part.allTp, Part.allHl,
     Part.allTt, Part.allLk, [.time, .jobs, .yard, .yardRetired, .cache, .feeds, .scans, .out, .freeCtr, .pending]]

/-- The place of a register in that list. -/
def Part.bit : Part → Nat
  | .sys r => 0 + r.ctorIdx
  | .plan r => 36 + r.ctorIdx
  | .pl r => 45 + r.ctorIdx
  | .lc r => 54 + r.ctorIdx
  | .dbg r => 73 + r.ctorIdx
  | .en r => 76 + r.ctorIdx
  | .port r => 106 + r.ctorIdx
  | .fn r => 123 + r.ctorIdx
  | .queue r => 174 + r.ctorIdx
  | .pad r => 211 + r.ctorIdx
  | .jn r => 230 + r.ctorIdx
  | .stall r => 252 + r.ctorIdx
  | .tk r => 283 + r.ctorIdx
  | .rng r => 296 + r.ctorIdx
  | .core r => 317 + r.ctorIdx
  | .fc r => 354 + r.ctorIdx
  | .tp r => 376 + r.ctorIdx
  | .hl r => 390 + r.ctorIdx
  | .tt r => 418 + r.ctorIdx
  | .lk r => 438 + r.ctorIdx
  | .time => 441
  | .jobs => 442
  | .yard => 443
  | .yardRetired => 444
  | .cache => 445
  | .feeds => 446
  | .scans => 447
  | .out => 448
  | .freeCtr => 449
  | .pending => 450

theorem SysReg.mem_all (r : SysReg) : r ∈ SysReg.all := by cases r <;> decide

theorem PlanReg.mem_all (r : PlanReg) : r ∈ PlanReg.all := by cases r <;> decide

theorem PlReg.mem_all (r : PlReg) : r ∈ PlReg.all := by cases r <;> decide

theorem LcReg.mem_all (r : LcReg) : r ∈ LcReg.all := by cases r <;> decide

theorem DbgReg.mem_all (r : DbgReg) : r ∈ DbgReg.all := by cases r <;> decide

theorem EnReg.mem_all (r : EnReg) : r ∈ EnReg.all := by cases r <;> decide

theorem PortReg.mem_all (r : PortReg) : r ∈ PortReg.all := by cases r <;> decide

theorem FnReg.mem_all (r : FnReg) : r ∈ FnReg.all := by cases r <;> decide

theorem QueueReg.mem_all (r : QueueReg) : r ∈ QueueReg.all := by cases r <;> decide

theorem PadReg.mem_all (r : PadReg) : r ∈ PadReg.all := by cases r <;> decide

theorem JnReg.mem_all (r : JnReg) : r ∈ JnReg.all := by cases r <;> decide

theorem StallReg.mem_all (r : StallReg) : r ∈ StallReg.all := by cases r <;> decide

theorem TkReg.mem_all (r : TkReg) : r ∈ TkReg.all := by cases r <;> decide

theorem RngReg.mem_all (r : RngReg) : r ∈ RngReg.all := by cases r <;> decide

theorem CoreReg.mem_all (r : CoreReg) : r ∈ CoreReg.all := by cases r <;> decide

theorem FcReg.mem_all (r : FcReg) : r ∈ FcReg.all := by cases r <;> decide

theorem TpReg.mem_all (r : TpReg) : r ∈ TpReg.all := by cases r <;> decide

theorem HlReg.mem_all (r : HlReg) : r ∈ HlReg.all := by cases r <;> decide

theorem TtReg.mem_all (r : TtReg) : r ∈ TtReg.all := by cases r <;> decide

theorem LkReg.mem_all (r : LkReg) : r ∈ LkReg.all := by cases r <;> decide

theorem Part.mem_all (p : Part) : p ∈ Part.all := by
  cases p
  case sys r => exact List.mem_flatten.mpr ⟨_, .head _, List.mem_map.mpr ⟨r, r.mem_all, rfl⟩⟩
  case plan r => exact List.mem_flatten.mpr ⟨_, .tail _ (.head _), List.mem_map.mpr ⟨r, r.mem_all, rfl⟩⟩
  case pl r => exact List.mem_flatten.mpr ⟨_, .tail _ (.tail _ (.head _)), List.mem_map.mpr ⟨r, r.mem_all, rfl⟩⟩
  case lc r => exact List.mem_flatten.mpr ⟨_, .tail _ (.tail _ (.tail _ (.head _))), List.mem_map.mpr ⟨r, r.mem_all, rfl⟩⟩
  case dbg r => exact List.mem_flatten.mpr ⟨_, .tail _ (.tail _ (.tail _ (.tail _ (.head _)))), List.mem_map.mpr ⟨r, r.mem_all, rfl⟩⟩
  case en r => exact List.mem_flatten.mpr ⟨_, .tail _ (.tail _ (.tail _ (.tail _ (.tail _ (.head _))))), List.mem_map.mpr ⟨r, r.mem_all, rfl⟩⟩
  case port r => exact List.mem_flatten.mpr ⟨_, .tail _ (.tail _ (.tail _ (.tail _ (.tail _ (.tail _ (.head _)))))), List.mem_map.mpr ⟨r, r.mem_all, rfl⟩⟩
  case fn r => exact List.mem_flatten.mpr ⟨_, .tail _ (.tail _ (.tail _ (.tail _ (.tail _ (.tail _ (.tail _ (.head _))))))), List.mem_map.mpr ⟨r, r.mem_all, rfl⟩⟩
  case queue r => exact List.mem_flatten.mpr ⟨_, .tail _ (.tail _ (.tail _ (.tail _ (.tail _ (.tail _ (.tail _ (.tail _ (.head _)))))))), List.mem_map.mpr ⟨r, r.mem_all, rfl⟩⟩
  case pad r => exact List.mem_flatten.mpr ⟨_, .tail _ (.tail _ (.tail _ (.tail _ (.tail _ (.tail _ (.tail _ (.tail _ (.tail _ (.head _))))))))), List.mem_map.mpr ⟨r, r.mem_all, rfl⟩⟩
  case jn r => exact List.mem_flatten.mpr ⟨_, .tail _ (.tail _ (.tail _ (.tail _ (.tail _ (.tail _ (.tail _ (.tail _ (.tail _ (.tail _ (.head _)))))))))), List.mem_map.mpr ⟨r, r.mem_all, rfl⟩⟩
  case stall r => exact List.mem_flatten.mpr ⟨_, .tail _ (.tail _ (.tail _ (.tail _ (.tail _ (.tail _ (.tail _ (.tail _ (.tail _ (.tail _ (.tail _ (.head _))))))))))), List.mem_map.mpr ⟨r, r.mem_all, rfl⟩⟩
  case tk r => exact List.mem_flatten.mpr ⟨_, .tail _ (.tail _ (.tail _ (.tail _ (.tail _ (.tail _ (.tail _ (.tail _ (.tail _ (.tail _ (.tail _ (.tail _ (.head _)))))))))))), List.mem_map.mpr ⟨r, r.mem_all, rfl⟩⟩
  case rng r => exact List.mem_flatten.mpr ⟨_, .tail _ (.tail _ (.tail _ (.tail _ (.tail _ (.tail _ (.tail _ (.tail _ (.tail _ (.tail _ (.tail _ (.tail _ (.tail _ (.head _))))))))))))), List.mem_map.mpr ⟨r, r.mem_all, rfl⟩⟩
  case core r => exact List.mem_flatten.mpr ⟨_, .tail _ (.tail _ (.tail _ (.tail _ (.tail _ (.tail _ (.tail _ (.tail _ (.tail _ (.tail _ (.tail _ (.tail _ (.tail _ (.tail _ (.head _)))))))))))))), List.mem_map.mpr ⟨r, r.mem_all, rfl⟩⟩
  case fc r => exact List.mem_flatten.mpr ⟨_, .tail _ (.tail _ (.tail _ (.tail _ (.tail _ (.tail _ (.tail _ (.tail _ (.tail _ (.tail _ (.tail _ (.tail _ (.tail _ (.tail _ (.tail _ (.head _))))))))))))))), List.mem_map.mpr ⟨r, r.mem_all, rfl⟩⟩
  case tp r => exact List.mem_flatten.mpr ⟨_, .tail _ (.tail _ (.tail _ (.tail _ (.tail _ (.tail _ (.tail _ (.tail _ (.tail _ (.tail _ (.tail _ (.tail _ (.tail _ (.tail _ (.tail _ (.tail _ (.head _)))))))))))))))), List.mem_map.mpr ⟨r, r.mem_all, rfl⟩⟩
  case hl r => exact List.mem_flatten.mpr ⟨_, .tail _ (.tail _ (.tail _ (.tail _ (.tail _ (.tail _ (.tail _ (.tail _ (.tail _ (.tail _ (.tail _ (.tail _ (.tail _ (.tail _ (.tail _ (.tail _ (.tail _ (.head _))))))))))))))))), List.mem_map.mpr ⟨r, r.mem_all, rfl⟩⟩
  case tt r => exact List.mem_flatten.mpr ⟨_, .tail _ (.tail _ (.tail _ (.tail _ (.tail _ (.tail _ (.tail _ (.tail _ (.tail _ (.tail _ (.tail _ (.tail _ (.tail _ (.tail _ (.tail _ (.tail _ (.tail _ (.tail _ (.head _)))))))))))))))))), List.mem_map.mpr ⟨r, r.mem_all, rfl⟩⟩
  case lk r => exact List.mem_flatten.mpr ⟨_, .tail _ (.tail _ (.tail _ (.tail _ (.tail _ (.tail _ (.tail _ (.tail _ (.tail _ (.tail _ (.tail _ (.tail _ (.tail _ (.tail _ (.tail _ (.tail _ (.tail _ (.tail _ (.tail _ (.head _))))))))))))))))))), List.mem_map.mpr ⟨r, r.mem_all, rfl⟩⟩
  case time => exact List.mem_flatten.mpr ⟨_, .tail _ (.tail _ (.tail _ (.tail _ (.tail _ (.tail _ (.tail _ (.tail _ (.tail _ (.tail _ (.tail _ (.tail _ (.tail _ (.tail _ (.tail _ (.tail _ (.tail _ (.tail _ (.tail _ (.tail _ (.head _)))))))))))))))))))), .head _⟩
  case jobs => exact List.mem_flatten.mpr ⟨_, .tail _ (.tail _ (.tail _ (.tail _ (.tail _ (.tail _ (.tail _ (.tail _ (.tail _ (.tail _ (.tail _ (.tail _ (.tail _ (.tail _ (.tail _ (.tail _ (.tail _ (.tail _ (.tail _ (.tail _ (.head _)))))))))))))))))))), .tail _ (.head _)⟩
  case yard => exact List.mem_flatten.mpr ⟨_, .tail _ (.tail _ (.tail _ (.tail _ (.tail _ (.tail _ (.tail _ (.tail _ (.tail _ (.tail _ (.tail _ (.tail _ (.tail _ (.tail _ (.tail _ (.tail _ (.tail _ (.tail _ (.tail _ (.tail _ (.head _)))))))))))))))))))), .tail _ (.tail _ (.head _))⟩
  case yardRetired => exact List.mem_flatten.mpr ⟨_, .tail _ (.tail _ (.tail _ (.tail _ (.tail _ (.tail _ (.tail _ (.tail _ (.tail _ (.tail _ (.tail _ (.tail _ (.tail _ (.tail _ (.tail _ (.tail _ (.tail _ (.tail _ (.tail _ (.tail _ (.head _)))))))))))))))))))), .tail _ (.tail _ (.tail _ (.head _)))⟩
  case cache => exact List.mem_flatten.mpr ⟨_, .tail _ (.tail _ (.tail _ (.tail _ (.tail _ (.tail _ (.tail _ (.tail _ (.tail _ (.tail _ (.tail _ (.tail _ (.tail _ (.tail _ (.tail _ (.tail _ (.tail _ (.tail _ (.tail _ (.tail _ (.head _)))))))))))))))))))), .tail _ (.tail _ (.tail _ (.tail _ (.head _))))⟩
  case feeds => exact List.mem_flatten.mpr ⟨_, .tail _ (.tail _ (.tail _ (.tail _ (.tail _ (.tail _ (.tail _ (.tail _ (.tail _ (.tail _ (.tail _ (.tail _ (.tail _ (.tail _ (.tail _ (.tail _ (.tail _ (.tail _ (.tail _ (.tail _ (.head _)))))))))))))))))))), .tail _ (.tail _ (.tail _ (.tail _ (.tail _ (.head _)))))⟩
  case scans => exact List.mem_flatten.mpr ⟨_, .tail _ (.tail _ (.tail _ (.tail _ (.tail _ (.tail _ (.tail _ (.tail _ (.tail _ (.tail _ (.tail _ (.tail _ (.tail _ (.tail _ (.tail _ (.tail _ (.tail _ (.tail _ (.tail _ (.tail _ (.head _)))))))))))))))))))), .tail _ (.tail _ (.tail _ (.tail _ (.tail _ (.tail _ (.head _))))))⟩
  case out => exact List.mem_flatten.mpr ⟨_, .tail _ (.tail _ (.tail _ (.tail _ (.tail _ (.tail _ (.tail _ (.tail _ (.tail _ (.tail _ (.tail _ (.tail _ (.tail _ (.tail _ (.tail _ (.tail _ (.tail _ (.tail _ (.tail _ (.tail _ (.head _)))))))))))))))))))), .tail _ (.tail _ (.tail _ (.tail _ (.tail _ (.tail _ (.tail _ (.head _)))))))⟩
  case freeCtr => exact List.mem_flatten.mpr ⟨_, .tail _ (.tail _ (.tail _ (.tail _ (.tail _ (.tail _ (.tail _ (.tail _ (.tail _ (.tail _ (.tail _ (.tail _ (.tail _ (.tail _ (.tail _ (.tail _ (.tail _ (.tail _ (.tail _ (.tail _ (.head _)))))))))))))))))))), .tail _ (.tail _ (.tail _ (.tail _ (.tail _ (.tail _ (.tail _ (.tail _ (.head _))))))))⟩
  case pending => exact List.mem_flatten.mpr ⟨_, .tail _ (.tail _ (.tail _ (.tail _ (.tail _ (.tail _ (.tail _ (.tail _ (.tail _ (.tail _ (.tail _ (.tail _ (.tail _ (.tail _ (.tail _ (.tail _ (.tail _ (.tail _ (.tail _ (.tail _ (.head _)))))))))))))))))))), .tail _ (.tail _ (.tail _ (.tail _ (.tail _ (.tail _ (.tail _ (.tail _ (.tail _ (.head _)))))))))⟩

theorem Part.bits_all : Part.all.map Part.bit = List.range 451 := by decide +kernel

theorem Part.bit_inj {p q : Part} (h : p.bit = q.bit) : p = q :=
  List.inj_on_of_nodup_map (Part.bits_all ▸ List.nodup_range) p.mem_all q.mem_all h

/-- The bits of a list of registers. -/
def maskOf (l : List Part) : Nat := l.foldr (fun p m => 2 ^ p.bit ||| m) 0

theorem maskOf_testBit (l : List Part) (n : Nat) : (maskOf l).testBit n = true ↔ ∃ p ∈ l, p.bit = n := by
  induction l with
  | nil => simp [maskOf]
  | cons a r ih =>
    have : maskOf (a :: r) = 2 ^ a.bit ||| maskOf r := rfl
    rw [this, Nat.testBit_or, Bool.or_eq_true, ih]
    simp [Nat.testBit_two_pow]

/-- Every register of `l` is one of `k`. -/
def within (l k : List Part) : Bool := maskOf l &&& maskOf k == maskOf l

theorem within_mem {l k : List Part} (h : within l k = true) {p : Part} (hp : p ∈ l) : p ∈ k := by
  have h1 : (maskOf l).testBit p.bit = true := (maskOf_testBit l _).mpr ⟨p, hp, rfl⟩
  have h2 := congrArg (Nat.testBit · p.bit) (beq_iff_eq.mp h)
  simp only [Nat.testBit_and, h1, Bool.true_and] at h2
  obtain ⟨q, hq, e⟩ := (maskOf_testBit k _).mp h2
  exact Part.bit_inj e ▸ hq

/-! ## Frames compose -/

section
variable {R P : Type} {same : R → R → P → Prop} {l k : List P} {a b c : R}

theorem Keep.trans' (tr : ∀ {a b c : R} {p : P}, same a b p → same b c p → same a c p) (h : Keep same k a b) (g : Keep same k b c) :
    Keep same k a c :=
  ⟨fun p hp => tr (h.same p hp) (g.same p hp)⟩

/-- A frame of everything. -/
theorem Keep.of_all (h : ∀ p, p ∈ k) : Keep same k a b := ⟨fun p hp => absurd (h p) hp⟩

end

theorem Only.refl (k : List Part) (s : State) : Only k s s := ⟨fun p _ => Part.same_refl s p⟩

theorem Only.trans {k : List Part} {s t u : State} (h : Only k s t) (g : Only k t u) : Only k s u := Keep.trans' Part.same_trans h g

theorem Only.mono {l k : List Part} {s t : State} (h : Only l s t) (hl : within l k = true) : Only k s t :=
  ⟨fun p hp => h.same p fun hh => hp (within_mem hl hh)⟩

/-- One operation after others. -/
theorem Only.then {l k : List Part} {s t u : State} (g : Only l t u) (hl : within l k = true) (h : Only k s t) : Only k s u :=
  h.trans (g.mono hl)

/-- A fold of operations that each keep the frame. -/
theorem Only.foldl {α : Type} {k : List Part} {s t : State} {f : State → α → State} (l : List α) (hf : ∀ t x, Only k t (f t x))
    (h : Only k s t) : Only k s (l.foldl f t) := by
  induction l generalizing t with
  | nil => exact h
  | cons x r ih => exact ih (h.trans (hf t x))

/-- A fold of operations on a state beside a value. -/
theorem Only.foldl_snd {α β : Type} {k : List Part} {s : State} {f : β × State → α → β × State} (l : List α) {a : β × State}
    (hf : ∀ a x, Only k a.2 (f a x).2) (h : Only k s a.2) : Only k s (l.foldl f a).2 := by
  induction l generalizing a with
  | nil => exact h
  | cons x r ih => exact ih (h.trans (hf a x))

/-- The frame of a command that answers. -/
theorem Only.of_after {k : List Part} {s t : State} {o : Host.Outcome State Machine.Fault Machine.Refusal} (h : Only k s (after s o))
    (ho : o = .next t) : Only k s t := by
  subst ho; exact h

/-! ## The registers of one unit in a frame of State -/

def Part.sys? : Part → Option SysReg
  | .sys r => some r
  | _ => none

theorem SysReg.not_mem {k : List Part} {r : SysReg} (h : Part.sys r ∉ k) : r ∉ k.filterMap Part.sys? := fun hm => by
  obtain ⟨q, hq, e⟩ := List.mem_filterMap.mp hm
  cases q <;> simp_all [Part.sys?]

theorem SysReg.refl (l : List SysReg) (a : Machine.Sys) : Keep SysReg.Same l a a := ⟨fun r _ => r.same_refl a⟩

theorem SysReg.then {l k : List SysReg} {a b c : Machine.Sys} (g : Keep SysReg.Same l b c) (hl : l.all (fun r => k.contains r) = true)
    (h : Keep SysReg.Same k a b) : Keep SysReg.Same k a c :=
  ⟨fun r hr => SysReg.same_trans (h.same r hr) (g.same r fun hh => hr (by simpa using List.all_eq_true.mp hl r hh))⟩

theorem SysReg.foldl {α : Type} {k : List SysReg} {a b : Machine.Sys} {f : Machine.Sys → α → Machine.Sys} (l : List α)
    (hf : ∀ b x, Keep SysReg.Same k b (f b x)) (h : Keep SysReg.Same k a b) : Keep SysReg.Same k a (l.foldl f b) := by
  induction l generalizing b with
  | nil => exact h
  | cons x r ih => exact ih (Keep.trans' SysReg.same_trans h (hf b x))

theorem SysReg.of_all {l : List SysReg} {a b : Machine.Sys} (h : SysReg.all.all (fun r => l.contains r) = true) : Keep SysReg.Same l a b :=
  Keep.of_all fun r => by
    simpa using List.all_eq_true.mp h r r.mem_all

def Part.plan? : Part → Option PlanReg
  | .plan r => some r
  | _ => none

theorem PlanReg.not_mem {k : List Part} {r : PlanReg} (h : Part.plan r ∉ k) : r ∉ k.filterMap Part.plan? := fun hm => by
  obtain ⟨q, hq, e⟩ := List.mem_filterMap.mp hm
  cases q <;> simp_all [Part.plan?]

theorem PlanReg.refl (l : List PlanReg) (a : Machine.Plan) : Keep PlanReg.Same l a a := ⟨fun r _ => r.same_refl a⟩

theorem PlanReg.then {l k : List PlanReg} {a b c : Machine.Plan} (g : Keep PlanReg.Same l b c) (hl : l.all (fun r => k.contains r) = true)
    (h : Keep PlanReg.Same k a b) : Keep PlanReg.Same k a c :=
  ⟨fun r hr => PlanReg.same_trans (h.same r hr) (g.same r fun hh => hr (by simpa using List.all_eq_true.mp hl r hh))⟩

theorem PlanReg.foldl {α : Type} {k : List PlanReg} {a b : Machine.Plan} {f : Machine.Plan → α → Machine.Plan} (l : List α)
    (hf : ∀ b x, Keep PlanReg.Same k b (f b x)) (h : Keep PlanReg.Same k a b) : Keep PlanReg.Same k a (l.foldl f b) := by
  induction l generalizing b with
  | nil => exact h
  | cons x r ih => exact ih (Keep.trans' PlanReg.same_trans h (hf b x))

theorem PlanReg.of_all {l : List PlanReg} {a b : Machine.Plan} (h : PlanReg.all.all (fun r => l.contains r) = true) : Keep PlanReg.Same l a b :=
  Keep.of_all fun r => by
    simpa using List.all_eq_true.mp h r r.mem_all

def Part.pl? : Part → Option PlReg
  | .pl r => some r
  | _ => none

theorem PlReg.not_mem {k : List Part} {r : PlReg} (h : Part.pl r ∉ k) : r ∉ k.filterMap Part.pl? := fun hm => by
  obtain ⟨q, hq, e⟩ := List.mem_filterMap.mp hm
  cases q <;> simp_all [Part.pl?]

theorem PlReg.refl (l : List PlReg) (a : Machine.PlanCtl) : Keep PlReg.Same l a a := ⟨fun r _ => r.same_refl a⟩

theorem PlReg.then {l k : List PlReg} {a b c : Machine.PlanCtl} (g : Keep PlReg.Same l b c) (hl : l.all (fun r => k.contains r) = true)
    (h : Keep PlReg.Same k a b) : Keep PlReg.Same k a c :=
  ⟨fun r hr => PlReg.same_trans (h.same r hr) (g.same r fun hh => hr (by simpa using List.all_eq_true.mp hl r hh))⟩

theorem PlReg.foldl {α : Type} {k : List PlReg} {a b : Machine.PlanCtl} {f : Machine.PlanCtl → α → Machine.PlanCtl} (l : List α)
    (hf : ∀ b x, Keep PlReg.Same k b (f b x)) (h : Keep PlReg.Same k a b) : Keep PlReg.Same k a (l.foldl f b) := by
  induction l generalizing b with
  | nil => exact h
  | cons x r ih => exact ih (Keep.trans' PlReg.same_trans h (hf b x))

theorem PlReg.of_all {l : List PlReg} {a b : Machine.PlanCtl} (h : PlReg.all.all (fun r => l.contains r) = true) : Keep PlReg.Same l a b :=
  Keep.of_all fun r => by
    simpa using List.all_eq_true.mp h r r.mem_all

def Part.lc? : Part → Option LcReg
  | .lc r => some r
  | _ => none

theorem LcReg.not_mem {k : List Part} {r : LcReg} (h : Part.lc r ∉ k) : r ∉ k.filterMap Part.lc? := fun hm => by
  obtain ⟨q, hq, e⟩ := List.mem_filterMap.mp hm
  cases q <;> simp_all [Part.lc?]

theorem LcReg.refl (l : List LcReg) (a : Machine.LifeCycle) : Keep LcReg.Same l a a := ⟨fun r _ => r.same_refl a⟩

theorem LcReg.then {l k : List LcReg} {a b c : Machine.LifeCycle} (g : Keep LcReg.Same l b c) (hl : l.all (fun r => k.contains r) = true)
    (h : Keep LcReg.Same k a b) : Keep LcReg.Same k a c :=
  ⟨fun r hr => LcReg.same_trans (h.same r hr) (g.same r fun hh => hr (by simpa using List.all_eq_true.mp hl r hh))⟩

theorem LcReg.foldl {α : Type} {k : List LcReg} {a b : Machine.LifeCycle} {f : Machine.LifeCycle → α → Machine.LifeCycle} (l : List α)
    (hf : ∀ b x, Keep LcReg.Same k b (f b x)) (h : Keep LcReg.Same k a b) : Keep LcReg.Same k a (l.foldl f b) := by
  induction l generalizing b with
  | nil => exact h
  | cons x r ih => exact ih (Keep.trans' LcReg.same_trans h (hf b x))

theorem LcReg.of_all {l : List LcReg} {a b : Machine.LifeCycle} (h : LcReg.all.all (fun r => l.contains r) = true) : Keep LcReg.Same l a b :=
  Keep.of_all fun r => by
    simpa using List.all_eq_true.mp h r r.mem_all

def Part.dbg? : Part → Option DbgReg
  | .dbg r => some r
  | _ => none

theorem DbgReg.not_mem {k : List Part} {r : DbgReg} (h : Part.dbg r ∉ k) : r ∉ k.filterMap Part.dbg? := fun hm => by
  obtain ⟨q, hq, e⟩ := List.mem_filterMap.mp hm
  cases q <;> simp_all [Part.dbg?]

theorem DbgReg.refl (l : List DbgReg) (a : Machine.Debug) : Keep DbgReg.Same l a a := ⟨fun r _ => r.same_refl a⟩

theorem DbgReg.then {l k : List DbgReg} {a b c : Machine.Debug} (g : Keep DbgReg.Same l b c) (hl : l.all (fun r => k.contains r) = true)
    (h : Keep DbgReg.Same k a b) : Keep DbgReg.Same k a c :=
  ⟨fun r hr => DbgReg.same_trans (h.same r hr) (g.same r fun hh => hr (by simpa using List.all_eq_true.mp hl r hh))⟩

theorem DbgReg.foldl {α : Type} {k : List DbgReg} {a b : Machine.Debug} {f : Machine.Debug → α → Machine.Debug} (l : List α)
    (hf : ∀ b x, Keep DbgReg.Same k b (f b x)) (h : Keep DbgReg.Same k a b) : Keep DbgReg.Same k a (l.foldl f b) := by
  induction l generalizing b with
  | nil => exact h
  | cons x r ih => exact ih (Keep.trans' DbgReg.same_trans h (hf b x))

theorem DbgReg.of_all {l : List DbgReg} {a b : Machine.Debug} (h : DbgReg.all.all (fun r => l.contains r) = true) : Keep DbgReg.Same l a b :=
  Keep.of_all fun r => by
    simpa using List.all_eq_true.mp h r r.mem_all

def Part.en? : Part → Option EnReg
  | .en r => some r
  | _ => none

theorem EnReg.not_mem {k : List Part} {r : EnReg} (h : Part.en r ∉ k) : r ∉ k.filterMap Part.en? := fun hm => by
  obtain ⟨q, hq, e⟩ := List.mem_filterMap.mp hm
  cases q <;> simp_all [Part.en?]

theorem EnReg.refl (l : List EnReg) (a : Machine.Energy) : Keep EnReg.Same l a a := ⟨fun r _ => r.same_refl a⟩

theorem EnReg.then {l k : List EnReg} {a b c : Machine.Energy} (g : Keep EnReg.Same l b c) (hl : l.all (fun r => k.contains r) = true)
    (h : Keep EnReg.Same k a b) : Keep EnReg.Same k a c :=
  ⟨fun r hr => EnReg.same_trans (h.same r hr) (g.same r fun hh => hr (by simpa using List.all_eq_true.mp hl r hh))⟩

theorem EnReg.foldl {α : Type} {k : List EnReg} {a b : Machine.Energy} {f : Machine.Energy → α → Machine.Energy} (l : List α)
    (hf : ∀ b x, Keep EnReg.Same k b (f b x)) (h : Keep EnReg.Same k a b) : Keep EnReg.Same k a (l.foldl f b) := by
  induction l generalizing b with
  | nil => exact h
  | cons x r ih => exact ih (Keep.trans' EnReg.same_trans h (hf b x))

theorem EnReg.of_all {l : List EnReg} {a b : Machine.Energy} (h : EnReg.all.all (fun r => l.contains r) = true) : Keep EnReg.Same l a b :=
  Keep.of_all fun r => by
    simpa using List.all_eq_true.mp h r r.mem_all

def Part.port? : Part → Option PortReg
  | .port r => some r
  | _ => none

theorem PortReg.not_mem {k : List Part} {r : PortReg} (h : Part.port r ∉ k) : r ∉ k.filterMap Part.port? := fun hm => by
  obtain ⟨q, hq, e⟩ := List.mem_filterMap.mp hm
  cases q <;> simp_all [Part.port?]

theorem PortReg.refl (l : List PortReg) (a : Machine.Port) : Keep PortReg.Same l a a := ⟨fun r _ => r.same_refl a⟩

theorem PortReg.then {l k : List PortReg} {a b c : Machine.Port} (g : Keep PortReg.Same l b c) (hl : l.all (fun r => k.contains r) = true)
    (h : Keep PortReg.Same k a b) : Keep PortReg.Same k a c :=
  ⟨fun r hr => PortReg.same_trans (h.same r hr) (g.same r fun hh => hr (by simpa using List.all_eq_true.mp hl r hh))⟩

theorem PortReg.foldl {α : Type} {k : List PortReg} {a b : Machine.Port} {f : Machine.Port → α → Machine.Port} (l : List α)
    (hf : ∀ b x, Keep PortReg.Same k b (f b x)) (h : Keep PortReg.Same k a b) : Keep PortReg.Same k a (l.foldl f b) := by
  induction l generalizing b with
  | nil => exact h
  | cons x r ih => exact ih (Keep.trans' PortReg.same_trans h (hf b x))

theorem PortReg.of_all {l : List PortReg} {a b : Machine.Port} (h : PortReg.all.all (fun r => l.contains r) = true) : Keep PortReg.Same l a b :=
  Keep.of_all fun r => by
    simpa using List.all_eq_true.mp h r r.mem_all

def Part.fn? : Part → Option FnReg
  | .fn r => some r
  | _ => none

theorem FnReg.not_mem {k : List Part} {r : FnReg} (h : Part.fn r ∉ k) : r ∉ k.filterMap Part.fn? := fun hm => by
  obtain ⟨q, hq, e⟩ := List.mem_filterMap.mp hm
  cases q <;> simp_all [Part.fn?]

theorem FnReg.refl (l : List FnReg) (a : Machine.Fn) : Keep FnReg.Same l a a := ⟨fun r _ => r.same_refl a⟩

theorem FnReg.then {l k : List FnReg} {a b c : Machine.Fn} (g : Keep FnReg.Same l b c) (hl : l.all (fun r => k.contains r) = true)
    (h : Keep FnReg.Same k a b) : Keep FnReg.Same k a c :=
  ⟨fun r hr => FnReg.same_trans (h.same r hr) (g.same r fun hh => hr (by simpa using List.all_eq_true.mp hl r hh))⟩

theorem FnReg.foldl {α : Type} {k : List FnReg} {a b : Machine.Fn} {f : Machine.Fn → α → Machine.Fn} (l : List α)
    (hf : ∀ b x, Keep FnReg.Same k b (f b x)) (h : Keep FnReg.Same k a b) : Keep FnReg.Same k a (l.foldl f b) := by
  induction l generalizing b with
  | nil => exact h
  | cons x r ih => exact ih (Keep.trans' FnReg.same_trans h (hf b x))

theorem FnReg.of_all {l : List FnReg} {a b : Machine.Fn} (h : FnReg.all.all (fun r => l.contains r) = true) : Keep FnReg.Same l a b :=
  Keep.of_all fun r => by
    simpa using List.all_eq_true.mp h r r.mem_all

def Part.queue? : Part → Option QueueReg
  | .queue r => some r
  | _ => none

theorem QueueReg.not_mem {k : List Part} {r : QueueReg} (h : Part.queue r ∉ k) : r ∉ k.filterMap Part.queue? := fun hm => by
  obtain ⟨q, hq, e⟩ := List.mem_filterMap.mp hm
  cases q <;> simp_all [Part.queue?]

theorem QueueReg.refl (l : List QueueReg) (a : Machine.Queue) : Keep QueueReg.Same l a a := ⟨fun r _ => r.same_refl a⟩

theorem QueueReg.then {l k : List QueueReg} {a b c : Machine.Queue} (g : Keep QueueReg.Same l b c) (hl : l.all (fun r => k.contains r) = true)
    (h : Keep QueueReg.Same k a b) : Keep QueueReg.Same k a c :=
  ⟨fun r hr => QueueReg.same_trans (h.same r hr) (g.same r fun hh => hr (by simpa using List.all_eq_true.mp hl r hh))⟩

theorem QueueReg.foldl {α : Type} {k : List QueueReg} {a b : Machine.Queue} {f : Machine.Queue → α → Machine.Queue} (l : List α)
    (hf : ∀ b x, Keep QueueReg.Same k b (f b x)) (h : Keep QueueReg.Same k a b) : Keep QueueReg.Same k a (l.foldl f b) := by
  induction l generalizing b with
  | nil => exact h
  | cons x r ih => exact ih (Keep.trans' QueueReg.same_trans h (hf b x))

theorem QueueReg.of_all {l : List QueueReg} {a b : Machine.Queue} (h : QueueReg.all.all (fun r => l.contains r) = true) : Keep QueueReg.Same l a b :=
  Keep.of_all fun r => by
    simpa using List.all_eq_true.mp h r r.mem_all

def Part.pad? : Part → Option PadReg
  | .pad r => some r
  | _ => none

theorem PadReg.not_mem {k : List Part} {r : PadReg} (h : Part.pad r ∉ k) : r ∉ k.filterMap Part.pad? := fun hm => by
  obtain ⟨q, hq, e⟩ := List.mem_filterMap.mp hm
  cases q <;> simp_all [Part.pad?]

theorem PadReg.refl (l : List PadReg) (a : Machine.Pad) : Keep PadReg.Same l a a := ⟨fun r _ => r.same_refl a⟩

theorem PadReg.then {l k : List PadReg} {a b c : Machine.Pad} (g : Keep PadReg.Same l b c) (hl : l.all (fun r => k.contains r) = true)
    (h : Keep PadReg.Same k a b) : Keep PadReg.Same k a c :=
  ⟨fun r hr => PadReg.same_trans (h.same r hr) (g.same r fun hh => hr (by simpa using List.all_eq_true.mp hl r hh))⟩

theorem PadReg.foldl {α : Type} {k : List PadReg} {a b : Machine.Pad} {f : Machine.Pad → α → Machine.Pad} (l : List α)
    (hf : ∀ b x, Keep PadReg.Same k b (f b x)) (h : Keep PadReg.Same k a b) : Keep PadReg.Same k a (l.foldl f b) := by
  induction l generalizing b with
  | nil => exact h
  | cons x r ih => exact ih (Keep.trans' PadReg.same_trans h (hf b x))

theorem PadReg.of_all {l : List PadReg} {a b : Machine.Pad} (h : PadReg.all.all (fun r => l.contains r) = true) : Keep PadReg.Same l a b :=
  Keep.of_all fun r => by
    simpa using List.all_eq_true.mp h r r.mem_all

def Part.jn? : Part → Option JnReg
  | .jn r => some r
  | _ => none

theorem JnReg.not_mem {k : List Part} {r : JnReg} (h : Part.jn r ∉ k) : r ∉ k.filterMap Part.jn? := fun hm => by
  obtain ⟨q, hq, e⟩ := List.mem_filterMap.mp hm
  cases q <;> simp_all [Part.jn?]

theorem JnReg.refl (l : List JnReg) (a : Machine.Journal) : Keep JnReg.Same l a a := ⟨fun r _ => r.same_refl a⟩

theorem JnReg.then {l k : List JnReg} {a b c : Machine.Journal} (g : Keep JnReg.Same l b c) (hl : l.all (fun r => k.contains r) = true)
    (h : Keep JnReg.Same k a b) : Keep JnReg.Same k a c :=
  ⟨fun r hr => JnReg.same_trans (h.same r hr) (g.same r fun hh => hr (by simpa using List.all_eq_true.mp hl r hh))⟩

theorem JnReg.foldl {α : Type} {k : List JnReg} {a b : Machine.Journal} {f : Machine.Journal → α → Machine.Journal} (l : List α)
    (hf : ∀ b x, Keep JnReg.Same k b (f b x)) (h : Keep JnReg.Same k a b) : Keep JnReg.Same k a (l.foldl f b) := by
  induction l generalizing b with
  | nil => exact h
  | cons x r ih => exact ih (Keep.trans' JnReg.same_trans h (hf b x))

theorem JnReg.of_all {l : List JnReg} {a b : Machine.Journal} (h : JnReg.all.all (fun r => l.contains r) = true) : Keep JnReg.Same l a b :=
  Keep.of_all fun r => by
    simpa using List.all_eq_true.mp h r r.mem_all

def Part.stall? : Part → Option StallReg
  | .stall r => some r
  | _ => none

theorem StallReg.not_mem {k : List Part} {r : StallReg} (h : Part.stall r ∉ k) : r ∉ k.filterMap Part.stall? := fun hm => by
  obtain ⟨q, hq, e⟩ := List.mem_filterMap.mp hm
  cases q <;> simp_all [Part.stall?]

theorem StallReg.refl (l : List StallReg) (a : Machine.Stall) : Keep StallReg.Same l a a := ⟨fun r _ => r.same_refl a⟩

theorem StallReg.then {l k : List StallReg} {a b c : Machine.Stall} (g : Keep StallReg.Same l b c) (hl : l.all (fun r => k.contains r) = true)
    (h : Keep StallReg.Same k a b) : Keep StallReg.Same k a c :=
  ⟨fun r hr => StallReg.same_trans (h.same r hr) (g.same r fun hh => hr (by simpa using List.all_eq_true.mp hl r hh))⟩

theorem StallReg.foldl {α : Type} {k : List StallReg} {a b : Machine.Stall} {f : Machine.Stall → α → Machine.Stall} (l : List α)
    (hf : ∀ b x, Keep StallReg.Same k b (f b x)) (h : Keep StallReg.Same k a b) : Keep StallReg.Same k a (l.foldl f b) := by
  induction l generalizing b with
  | nil => exact h
  | cons x r ih => exact ih (Keep.trans' StallReg.same_trans h (hf b x))

theorem StallReg.of_all {l : List StallReg} {a b : Machine.Stall} (h : StallReg.all.all (fun r => l.contains r) = true) : Keep StallReg.Same l a b :=
  Keep.of_all fun r => by
    simpa using List.all_eq_true.mp h r r.mem_all

def Part.tk? : Part → Option TkReg
  | .tk r => some r
  | _ => none

theorem TkReg.not_mem {k : List Part} {r : TkReg} (h : Part.tk r ∉ k) : r ∉ k.filterMap Part.tk? := fun hm => by
  obtain ⟨q, hq, e⟩ := List.mem_filterMap.mp hm
  cases q <;> simp_all [Part.tk?]

theorem TkReg.refl (l : List TkReg) (a : Machine.Tack) : Keep TkReg.Same l a a := ⟨fun r _ => r.same_refl a⟩

theorem TkReg.then {l k : List TkReg} {a b c : Machine.Tack} (g : Keep TkReg.Same l b c) (hl : l.all (fun r => k.contains r) = true)
    (h : Keep TkReg.Same k a b) : Keep TkReg.Same k a c :=
  ⟨fun r hr => TkReg.same_trans (h.same r hr) (g.same r fun hh => hr (by simpa using List.all_eq_true.mp hl r hh))⟩

theorem TkReg.foldl {α : Type} {k : List TkReg} {a b : Machine.Tack} {f : Machine.Tack → α → Machine.Tack} (l : List α)
    (hf : ∀ b x, Keep TkReg.Same k b (f b x)) (h : Keep TkReg.Same k a b) : Keep TkReg.Same k a (l.foldl f b) := by
  induction l generalizing b with
  | nil => exact h
  | cons x r ih => exact ih (Keep.trans' TkReg.same_trans h (hf b x))

theorem TkReg.of_all {l : List TkReg} {a b : Machine.Tack} (h : TkReg.all.all (fun r => l.contains r) = true) : Keep TkReg.Same l a b :=
  Keep.of_all fun r => by
    simpa using List.all_eq_true.mp h r r.mem_all

def Part.rng? : Part → Option RngReg
  | .rng r => some r
  | _ => none

theorem RngReg.not_mem {k : List Part} {r : RngReg} (h : Part.rng r ∉ k) : r ∉ k.filterMap Part.rng? := fun hm => by
  obtain ⟨q, hq, e⟩ := List.mem_filterMap.mp hm
  cases q <;> simp_all [Part.rng?]

theorem RngReg.refl (l : List RngReg) (a : Machine.Rng) : Keep RngReg.Same l a a := ⟨fun r _ => r.same_refl a⟩

theorem RngReg.then {l k : List RngReg} {a b c : Machine.Rng} (g : Keep RngReg.Same l b c) (hl : l.all (fun r => k.contains r) = true)
    (h : Keep RngReg.Same k a b) : Keep RngReg.Same k a c :=
  ⟨fun r hr => RngReg.same_trans (h.same r hr) (g.same r fun hh => hr (by simpa using List.all_eq_true.mp hl r hh))⟩

theorem RngReg.foldl {α : Type} {k : List RngReg} {a b : Machine.Rng} {f : Machine.Rng → α → Machine.Rng} (l : List α)
    (hf : ∀ b x, Keep RngReg.Same k b (f b x)) (h : Keep RngReg.Same k a b) : Keep RngReg.Same k a (l.foldl f b) := by
  induction l generalizing b with
  | nil => exact h
  | cons x r ih => exact ih (Keep.trans' RngReg.same_trans h (hf b x))

theorem RngReg.of_all {l : List RngReg} {a b : Machine.Rng} (h : RngReg.all.all (fun r => l.contains r) = true) : Keep RngReg.Same l a b :=
  Keep.of_all fun r => by
    simpa using List.all_eq_true.mp h r r.mem_all

def Part.core? : Part → Option CoreReg
  | .core r => some r
  | _ => none

theorem CoreReg.not_mem {k : List Part} {r : CoreReg} (h : Part.core r ∉ k) : r ∉ k.filterMap Part.core? := fun hm => by
  obtain ⟨q, hq, e⟩ := List.mem_filterMap.mp hm
  cases q <;> simp_all [Part.core?]

theorem CoreReg.refl (l : List CoreReg) (a : Machine.Core) : Keep CoreReg.Same l a a := ⟨fun r _ => r.same_refl a⟩

theorem CoreReg.then {l k : List CoreReg} {a b c : Machine.Core} (g : Keep CoreReg.Same l b c) (hl : l.all (fun r => k.contains r) = true)
    (h : Keep CoreReg.Same k a b) : Keep CoreReg.Same k a c :=
  ⟨fun r hr => CoreReg.same_trans (h.same r hr) (g.same r fun hh => hr (by simpa using List.all_eq_true.mp hl r hh))⟩

theorem CoreReg.foldl {α : Type} {k : List CoreReg} {a b : Machine.Core} {f : Machine.Core → α → Machine.Core} (l : List α)
    (hf : ∀ b x, Keep CoreReg.Same k b (f b x)) (h : Keep CoreReg.Same k a b) : Keep CoreReg.Same k a (l.foldl f b) := by
  induction l generalizing b with
  | nil => exact h
  | cons x r ih => exact ih (Keep.trans' CoreReg.same_trans h (hf b x))

theorem CoreReg.of_all {l : List CoreReg} {a b : Machine.Core} (h : CoreReg.all.all (fun r => l.contains r) = true) : Keep CoreReg.Same l a b :=
  Keep.of_all fun r => by
    simpa using List.all_eq_true.mp h r r.mem_all

def Part.fc? : Part → Option FcReg
  | .fc r => some r
  | _ => none

theorem FcReg.not_mem {k : List Part} {r : FcReg} (h : Part.fc r ∉ k) : r ∉ k.filterMap Part.fc? := fun hm => by
  obtain ⟨q, hq, e⟩ := List.mem_filterMap.mp hm
  cases q <;> simp_all [Part.fc?]

theorem FcReg.refl (l : List FcReg) (a : Machine.Faults) : Keep FcReg.Same l a a := ⟨fun r _ => r.same_refl a⟩

theorem FcReg.then {l k : List FcReg} {a b c : Machine.Faults} (g : Keep FcReg.Same l b c) (hl : l.all (fun r => k.contains r) = true)
    (h : Keep FcReg.Same k a b) : Keep FcReg.Same k a c :=
  ⟨fun r hr => FcReg.same_trans (h.same r hr) (g.same r fun hh => hr (by simpa using List.all_eq_true.mp hl r hh))⟩

theorem FcReg.foldl {α : Type} {k : List FcReg} {a b : Machine.Faults} {f : Machine.Faults → α → Machine.Faults} (l : List α)
    (hf : ∀ b x, Keep FcReg.Same k b (f b x)) (h : Keep FcReg.Same k a b) : Keep FcReg.Same k a (l.foldl f b) := by
  induction l generalizing b with
  | nil => exact h
  | cons x r ih => exact ih (Keep.trans' FcReg.same_trans h (hf b x))

theorem FcReg.of_all {l : List FcReg} {a b : Machine.Faults} (h : FcReg.all.all (fun r => l.contains r) = true) : Keep FcReg.Same l a b :=
  Keep.of_all fun r => by
    simpa using List.all_eq_true.mp h r r.mem_all

def Part.tp? : Part → Option TpReg
  | .tp r => some r
  | _ => none

theorem TpReg.not_mem {k : List Part} {r : TpReg} (h : Part.tp r ∉ k) : r ∉ k.filterMap Part.tp? := fun hm => by
  obtain ⟨q, hq, e⟩ := List.mem_filterMap.mp hm
  cases q <;> simp_all [Part.tp?]

theorem TpReg.refl (l : List TpReg) (a : Machine.Tamper) : Keep TpReg.Same l a a := ⟨fun r _ => r.same_refl a⟩

theorem TpReg.then {l k : List TpReg} {a b c : Machine.Tamper} (g : Keep TpReg.Same l b c) (hl : l.all (fun r => k.contains r) = true)
    (h : Keep TpReg.Same k a b) : Keep TpReg.Same k a c :=
  ⟨fun r hr => TpReg.same_trans (h.same r hr) (g.same r fun hh => hr (by simpa using List.all_eq_true.mp hl r hh))⟩

theorem TpReg.foldl {α : Type} {k : List TpReg} {a b : Machine.Tamper} {f : Machine.Tamper → α → Machine.Tamper} (l : List α)
    (hf : ∀ b x, Keep TpReg.Same k b (f b x)) (h : Keep TpReg.Same k a b) : Keep TpReg.Same k a (l.foldl f b) := by
  induction l generalizing b with
  | nil => exact h
  | cons x r ih => exact ih (Keep.trans' TpReg.same_trans h (hf b x))

theorem TpReg.of_all {l : List TpReg} {a b : Machine.Tamper} (h : TpReg.all.all (fun r => l.contains r) = true) : Keep TpReg.Same l a b :=
  Keep.of_all fun r => by
    simpa using List.all_eq_true.mp h r r.mem_all

def Part.hl? : Part → Option HlReg
  | .hl r => some r
  | _ => none

theorem HlReg.not_mem {k : List Part} {r : HlReg} (h : Part.hl r ∉ k) : r ∉ k.filterMap Part.hl? := fun hm => by
  obtain ⟨q, hq, e⟩ := List.mem_filterMap.mp hm
  cases q <;> simp_all [Part.hl?]

theorem HlReg.refl (l : List HlReg) (a : Machine.Hayloft) : Keep HlReg.Same l a a := ⟨fun r _ => r.same_refl a⟩

theorem HlReg.then {l k : List HlReg} {a b c : Machine.Hayloft} (g : Keep HlReg.Same l b c) (hl : l.all (fun r => k.contains r) = true)
    (h : Keep HlReg.Same k a b) : Keep HlReg.Same k a c :=
  ⟨fun r hr => HlReg.same_trans (h.same r hr) (g.same r fun hh => hr (by simpa using List.all_eq_true.mp hl r hh))⟩

theorem HlReg.foldl {α : Type} {k : List HlReg} {a b : Machine.Hayloft} {f : Machine.Hayloft → α → Machine.Hayloft} (l : List α)
    (hf : ∀ b x, Keep HlReg.Same k b (f b x)) (h : Keep HlReg.Same k a b) : Keep HlReg.Same k a (l.foldl f b) := by
  induction l generalizing b with
  | nil => exact h
  | cons x r ih => exact ih (Keep.trans' HlReg.same_trans h (hf b x))

theorem HlReg.of_all {l : List HlReg} {a b : Machine.Hayloft} (h : HlReg.all.all (fun r => l.contains r) = true) : Keep HlReg.Same l a b :=
  Keep.of_all fun r => by
    simpa using List.all_eq_true.mp h r r.mem_all

def Part.tt? : Part → Option TtReg
  | .tt r => some r
  | _ => none

theorem TtReg.not_mem {k : List Part} {r : TtReg} (h : Part.tt r ∉ k) : r ∉ k.filterMap Part.tt? := fun hm => by
  obtain ⟨q, hq, e⟩ := List.mem_filterMap.mp hm
  cases q <;> simp_all [Part.tt?]

theorem TtReg.refl (l : List TtReg) (a : Machine.Tether) : Keep TtReg.Same l a a := ⟨fun r _ => r.same_refl a⟩

theorem TtReg.then {l k : List TtReg} {a b c : Machine.Tether} (g : Keep TtReg.Same l b c) (hl : l.all (fun r => k.contains r) = true)
    (h : Keep TtReg.Same k a b) : Keep TtReg.Same k a c :=
  ⟨fun r hr => TtReg.same_trans (h.same r hr) (g.same r fun hh => hr (by simpa using List.all_eq_true.mp hl r hh))⟩

theorem TtReg.foldl {α : Type} {k : List TtReg} {a b : Machine.Tether} {f : Machine.Tether → α → Machine.Tether} (l : List α)
    (hf : ∀ b x, Keep TtReg.Same k b (f b x)) (h : Keep TtReg.Same k a b) : Keep TtReg.Same k a (l.foldl f b) := by
  induction l generalizing b with
  | nil => exact h
  | cons x r ih => exact ih (Keep.trans' TtReg.same_trans h (hf b x))

theorem TtReg.of_all {l : List TtReg} {a b : Machine.Tether} (h : TtReg.all.all (fun r => l.contains r) = true) : Keep TtReg.Same l a b :=
  Keep.of_all fun r => by
    simpa using List.all_eq_true.mp h r r.mem_all

def Part.lk? : Part → Option LkReg
  | .lk r => some r
  | _ => none

theorem LkReg.not_mem {k : List Part} {r : LkReg} (h : Part.lk r ∉ k) : r ∉ k.filterMap Part.lk? := fun hm => by
  obtain ⟨q, hq, e⟩ := List.mem_filterMap.mp hm
  cases q <;> simp_all [Part.lk?]

theorem LkReg.refl (l : List LkReg) (a : Machine.Links) : Keep LkReg.Same l a a := ⟨fun r _ => r.same_refl a⟩

theorem LkReg.then {l k : List LkReg} {a b c : Machine.Links} (g : Keep LkReg.Same l b c) (hl : l.all (fun r => k.contains r) = true)
    (h : Keep LkReg.Same k a b) : Keep LkReg.Same k a c :=
  ⟨fun r hr => LkReg.same_trans (h.same r hr) (g.same r fun hh => hr (by simpa using List.all_eq_true.mp hl r hh))⟩

theorem LkReg.foldl {α : Type} {k : List LkReg} {a b : Machine.Links} {f : Machine.Links → α → Machine.Links} (l : List α)
    (hf : ∀ b x, Keep LkReg.Same k b (f b x)) (h : Keep LkReg.Same k a b) : Keep LkReg.Same k a (l.foldl f b) := by
  induction l generalizing b with
  | nil => exact h
  | cons x r ih => exact ih (Keep.trans' LkReg.same_trans h (hf b x))

theorem LkReg.of_all {l : List LkReg} {a b : Machine.Links} (h : LkReg.all.all (fun r => l.contains r) = true) : Keep LkReg.Same l a b :=
  Keep.of_all fun r => by
    simpa using List.all_eq_true.mp h r r.mem_all

/-! ## Answers that may hold no state -/

/-- The frame of an operation that may answer a state. -/
structure SomeOnly (k : List Part) (s : State) (o : Option State) : Prop where
  get : ∀ {r}, o = some r → Only k s r

theorem SomeOnly.none (k : List Part) (s : State) : SomeOnly k s .none := ⟨fun h => nomatch h⟩

theorem SomeOnly.some {k : List Part} {s t : State} (h : Only k s t) : SomeOnly k s (.some t) :=
  ⟨fun e => Option.some.inj e ▸ h⟩

/-- The frame of an operation that may answer a state with a value. -/
structure PairOnly {α : Type} (k : List Part) (s : State) (o : Option (α × State)) : Prop where
  get : ∀ {r}, o = some r → Only k s r.2

theorem PairOnly.none {α : Type} (k : List Part) (s : State) : PairOnly (α := α) k s .none := ⟨fun h => nomatch h⟩

theorem PairOnly.some {α : Type} {k : List Part} {s t : State} {a : α} (h : Only k s t) : PairOnly k s (.some (a, t)) :=
  ⟨fun e => Option.some.inj e ▸ h⟩

/-- The frame of an operation that may trap instead. -/
structure OkOnly {ε : Type} (k : List Part) (s : State) (o : Except ε State) : Prop where
  get : ∀ {r}, o = .ok r → Only k s r

theorem OkOnly.error {ε : Type} (k : List Part) (s : State) (e : ε) : OkOnly k s (.error e) := ⟨fun h => nomatch h⟩

theorem OkOnly.ok {ε : Type} {k : List Part} {s t : State} (h : Only k s t) : OkOnly (ε := ε) k s (.ok t) :=
  ⟨fun e => Except.ok.inj e ▸ h⟩

theorem OkOnly.bind {ε α : Type} {k : List Part} {s : State} {x : Except ε α} {f : α → Except ε State}
    (h : ∀ a, OkOnly k s (f a)) : OkOnly k s (x >>= f) :=
  ⟨fun e => by
    cases x with
    | error _ => exact nomatch e
    | ok a => exact (h a).get e⟩

end Sys2Proof
end

