-- ==== Sys2Proof/Laws/Units.lean ====
section
/-! SUPPORT. Units.lean: the frame of a change of one unit of State, of some registers of a unit, and of some fields of State. -/

open Sys2Proof

namespace Sys2Proof.Machine

theorem putFn_in {k : List Part} {s t : State} {n : Nat} {x : Fn} (h : Keep FnReg.Same (k.filterMap Part.fn?) (fnAt t n) x)
    (hs : Only k s t) : Only k s (putFn t n x) := by
  refine hs.trans ⟨fun p hp => ?_⟩
  cases p
  case fn r =>
    intro m
    rw [fnAt_putFn]
    split
    · next e => exact e ▸ h.same r (FnReg.not_mem hp)
    · exact r.same_refl _
  case sys r => exact r.same_refl _
  case plan r => exact r.same_refl _
  case pl r => exact r.same_refl _
  case lc r => exact r.same_refl _
  case dbg r => exact r.same_refl _
  case en r => exact r.same_refl _
  case port r => exact r.same_refl _
  case queue r => exact fun _ => r.same_refl _
  case pad r => exact fun _ => r.same_refl _
  case jn r => exact r.same_refl _
  case stall r => exact fun _ => r.same_refl _
  case tk r => exact r.same_refl _
  case rng r => exact r.same_refl _
  case core r => exact fun _ => r.same_refl _
  case fc r => exact r.same_refl _
  case tp r => exact r.same_refl _
  case hl r => exact r.same_refl _
  case tt r => exact r.same_refl _
  case lk r => exact r.same_refl _
  all_goals rfl

theorem modFn_in {k : List Part} {s t : State} {n : Nat} {g : Fn → Fn}
    (h : Keep FnReg.Same (k.filterMap Part.fn?) (fnAt t n) (g (fnAt t n))) (hs : Only k s t) : Only k s (modFn t n g) :=
  putFn_in h hs

theorem putQ_in {k : List Part} {s t : State} {n : Nat} {x : Queue} (h : Keep QueueReg.Same (k.filterMap Part.queue?) (qAt t n) x)
    (hs : Only k s t) : Only k s (putQ t n x) := by
  refine hs.trans ⟨fun p hp => ?_⟩
  cases p
  case queue r =>
    intro m
    rw [qAt_putQ]
    split
    · next e => exact e ▸ h.same r (QueueReg.not_mem hp)
    · exact r.same_refl _
  case sys r => exact r.same_refl _
  case plan r => exact r.same_refl _
  case pl r => exact r.same_refl _
  case lc r => exact r.same_refl _
  case dbg r => exact r.same_refl _
  case en r => exact r.same_refl _
  case port r => exact r.same_refl _
  case fn r => exact fun _ => r.same_refl _
  case pad r => exact fun _ => r.same_refl _
  case jn r => exact r.same_refl _
  case stall r => exact fun _ => r.same_refl _
  case tk r => exact r.same_refl _
  case rng r => exact r.same_refl _
  case core r => exact fun _ => r.same_refl _
  case fc r => exact r.same_refl _
  case tp r => exact r.same_refl _
  case hl r => exact r.same_refl _
  case tt r => exact r.same_refl _
  case lk r => exact r.same_refl _
  all_goals rfl

theorem modQ_in {k : List Part} {s t : State} {n : Nat} {g : Queue → Queue}
    (h : Keep QueueReg.Same (k.filterMap Part.queue?) (qAt t n) (g (qAt t n))) (hs : Only k s t) : Only k s (modQ t n g) :=
  putQ_in h hs

theorem putPad_in {k : List Part} {s t : State} {n : Nat} {x : Pad} (h : Keep PadReg.Same (k.filterMap Part.pad?) (padAt t n) x)
    (hs : Only k s t) : Only k s (putPad t n x) := by
  refine hs.trans ⟨fun p hp => ?_⟩
  cases p
  case pad r =>
    intro m
    rw [padAt_putPad]
    split
    · next e => exact e ▸ h.same r (PadReg.not_mem hp)
    · exact r.same_refl _
  case sys r => exact r.same_refl _
  case plan r => exact r.same_refl _
  case pl r => exact r.same_refl _
  case lc r => exact r.same_refl _
  case dbg r => exact r.same_refl _
  case en r => exact r.same_refl _
  case port r => exact r.same_refl _
  case fn r => exact fun _ => r.same_refl _
  case queue r => exact fun _ => r.same_refl _
  case jn r => exact r.same_refl _
  case stall r => exact fun _ => r.same_refl _
  case tk r => exact r.same_refl _
  case rng r => exact r.same_refl _
  case core r => exact fun _ => r.same_refl _
  case fc r => exact r.same_refl _
  case tp r => exact r.same_refl _
  case hl r => exact r.same_refl _
  case tt r => exact r.same_refl _
  case lk r => exact r.same_refl _
  all_goals rfl

theorem modPad_in {k : List Part} {s t : State} {n : Nat} {g : Pad → Pad}
    (h : Keep PadReg.Same (k.filterMap Part.pad?) (padAt t n) (g (padAt t n))) (hs : Only k s t) : Only k s (modPad t n g) :=
  putPad_in h hs

theorem putSt_in {k : List Part} {s t : State} {n : Nat} {x : Stall} (h : Keep StallReg.Same (k.filterMap Part.stall?) (stAt t n) x)
    (hs : Only k s t) : Only k s (putSt t n x) := by
  refine hs.trans ⟨fun p hp => ?_⟩
  cases p
  case stall r =>
    intro m
    rw [stAt_putSt]
    split
    · next e => exact e ▸ h.same r (StallReg.not_mem hp)
    · exact r.same_refl _
  case sys r => exact r.same_refl _
  case plan r => exact r.same_refl _
  case pl r => exact r.same_refl _
  case lc r => exact r.same_refl _
  case dbg r => exact r.same_refl _
  case en r => exact r.same_refl _
  case port r => exact r.same_refl _
  case fn r => exact fun _ => r.same_refl _
  case queue r => exact fun _ => r.same_refl _
  case pad r => exact fun _ => r.same_refl _
  case jn r => exact r.same_refl _
  case tk r => exact r.same_refl _
  case rng r => exact r.same_refl _
  case core r => exact fun _ => r.same_refl _
  case fc r => exact r.same_refl _
  case tp r => exact r.same_refl _
  case hl r => exact r.same_refl _
  case tt r => exact r.same_refl _
  case lk r => exact r.same_refl _
  all_goals rfl

theorem modSt_in {k : List Part} {s t : State} {n : Nat} {g : Stall → Stall}
    (h : Keep StallReg.Same (k.filterMap Part.stall?) (stAt t n) (g (stAt t n))) (hs : Only k s t) : Only k s (modSt t n g) :=
  putSt_in h hs

theorem putCore_in {k : List Part} {s t : State} {n : Nat} {x : Core} (h : Keep CoreReg.Same (k.filterMap Part.core?) (coreAt t n) x)
    (hs : Only k s t) : Only k s (putCore t n x) := by
  refine hs.trans ⟨fun p hp => ?_⟩
  cases p
  case core r =>
    intro m
    rw [coreAt_putCore]
    split
    · next e => exact e ▸ h.same r (CoreReg.not_mem hp)
    · exact r.same_refl _
  case sys r => exact r.same_refl _
  case plan r => exact r.same_refl _
  case pl r => exact r.same_refl _
  case lc r => exact r.same_refl _
  case dbg r => exact r.same_refl _
  case en r => exact r.same_refl _
  case port r => exact r.same_refl _
  case fn r => exact fun _ => r.same_refl _
  case queue r => exact fun _ => r.same_refl _
  case pad r => exact fun _ => r.same_refl _
  case jn r => exact r.same_refl _
  case stall r => exact fun _ => r.same_refl _
  case tk r => exact r.same_refl _
  case rng r => exact r.same_refl _
  case fc r => exact r.same_refl _
  case tp r => exact r.same_refl _
  case hl r => exact r.same_refl _
  case tt r => exact r.same_refl _
  case lk r => exact r.same_refl _
  all_goals rfl

theorem modCore_in {k : List Part} {s t : State} {n : Nat} {g : Core → Core}
    (h : Keep CoreReg.Same (k.filterMap Part.core?) (coreAt t n) (g (coreAt t n))) (hs : Only k s t) : Only k s (modCore t n g) :=
  putCore_in h hs

/-! ## Some registers of a unit -/

theorem Core.set_boot {l : List CoreReg} {a x : Core} {v0 : Bool} (hl : [CoreReg.boot].all (fun r => l.contains r) = true)
    (h : Keep CoreReg.Same l a x) : Keep CoreReg.Same l a { x with boot := v0 } :=
  CoreReg.then ⟨fun r hr => by cases r <;> first | rfl | exact absurd (by decide) hr⟩ hl h

theorem Core.set_cmdErr {l : List CoreReg} {a x : Core} {v0 : Nat} (hl : [CoreReg.cmdErr].all (fun r => l.contains r) = true)
    (h : Keep CoreReg.Same l a x) : Keep CoreReg.Same l a { x with cmdErr := v0 } :=
  CoreReg.then ⟨fun r hr => by cases r <;> first | rfl | exact absurd (by decide) hr⟩ hl h

theorem Core.set_declass {l : List CoreReg} {a x : Core} {v0 : Nat} (hl : [CoreReg.declass].all (fun r => l.contains r) = true)
    (h : Keep CoreReg.Same l a x) : Keep CoreReg.Same l a { x with declass := v0 } :=
  CoreReg.then ⟨fun r hr => by cases r <;> first | rfl | exact absurd (by decide) hr⟩ hl h

theorem Core.set_double {l : List CoreReg} {a x : Core} {v0 : Bool} (hl : [CoreReg.double].all (fun r => l.contains r) = true)
    (h : Keep CoreReg.Same l a x) : Keep CoreReg.Same l a { x with double := v0 } :=
  CoreReg.then ⟨fun r hr => by cases r <;> first | rfl | exact absurd (by decide) hr⟩ hl h

theorem Core.set_double_lastCode_traps {l : List CoreReg} {a x : Core} {v0 : Bool} {v1 : Nat} {v2 : Nat} (hl : [CoreReg.double, CoreReg.lastCode, CoreReg.traps].all (fun r => l.contains r) = true)
    (h : Keep CoreReg.Same l a x) : Keep CoreReg.Same l a { x with double := v0, lastCode := v1, traps := v2 } :=
  CoreReg.then ⟨fun r hr => by cases r <;> first | rfl | exact absurd (by decide) hr⟩ hl h

theorem Core.set_dsp {l : List CoreReg} {a x : Core} {v0 : TW} (hl : [CoreReg.dsp].all (fun r => l.contains r) = true)
    (h : Keep CoreReg.Same l a x) : Keep CoreReg.Same l a { x with dsp := v0 } :=
  CoreReg.then ⟨fun r hr => by cases r <;> first | rfl | exact absurd (by decide) hr⟩ hl h

theorem Core.set_dsp_pc_mem_trapActive_lastCode_traps {l : List CoreReg} {a x : Core} {v0 : TW} {v1 : W64} {v2 : SMap TW} {v3 : Bool} {v4 : Nat} {v5 : Nat} (hl : [CoreReg.dsp, CoreReg.pc, CoreReg.mem, CoreReg.trapActive, CoreReg.lastCode, CoreReg.traps].all (fun r => l.contains r) = true)
    (h : Keep CoreReg.Same l a x) : Keep CoreReg.Same l a { x with dsp := v0, pc := v1, mem := v2, trapActive := v3, lastCode := v4, traps := v5 } :=
  CoreReg.then ⟨fun r hr => by cases r <;> first | rfl | exact absurd (by decide) hr⟩ hl h

theorem Core.set_flg {l : List CoreReg} {a x : Core} {v0 : TW} (hl : [CoreReg.flg].all (fun r => l.contains r) = true)
    (h : Keep CoreReg.Same l a x) : Keep CoreReg.Same l a { x with flg := v0 } :=
  CoreReg.then ⟨fun r hr => by cases r <;> first | rfl | exact absurd (by decide) hr⟩ hl h

theorem Core.set_loading {l : List CoreReg} {a x : Core} {v0 : Option LoadOp} (hl : [CoreReg.loading].all (fun r => l.contains r) = true)
    (h : Keep CoreReg.Same l a x) : Keep CoreReg.Same l a { x with loading := v0 } :=
  CoreReg.then ⟨fun r hr => by cases r <;> first | rfl | exact absurd (by decide) hr⟩ hl h

theorem Core.set_mem {l : List CoreReg} {a x : Core} {v0 : SMap TW} (hl : [CoreReg.mem].all (fun r => l.contains r) = true)
    (h : Keep CoreReg.Same l a x) : Keep CoreReg.Same l a { x with mem := v0 } :=
  CoreReg.then ⟨fun r hr => by cases r <;> first | rfl | exact absurd (by decide) hr⟩ hl h

theorem Core.set_mem_rstack_spill_windows {l : List CoreReg} {a x : Core} {v0 : SMap TW} {v1 : List W64} {v2 : List W64} {v3 : List Window} (hl : [CoreReg.mem, CoreReg.rstack, CoreReg.spill, CoreReg.windows].all (fun r => l.contains r) = true)
    (h : Keep CoreReg.Same l a x) : Keep CoreReg.Same l a { x with mem := v0, rstack := v1, spill := v2, windows := v3 } :=
  CoreReg.then ⟨fun r hr => by cases r <;> first | rfl | exact absurd (by decide) hr⟩ hl h

theorem Core.set_mhi {l : List CoreReg} {a x : Core} {v0 : TW} (hl : [CoreReg.mhi].all (fun r => l.contains r) = true)
    (h : Keep CoreReg.Same l a x) : Keep CoreReg.Same l a { x with mhi := v0 } :=
  CoreReg.then ⟨fun r hr => by cases r <;> first | rfl | exact absurd (by decide) hr⟩ hl h

theorem Core.set_mlo {l : List CoreReg} {a x : Core} {v0 : TW} (hl : [CoreReg.mlo].all (fun r => l.contains r) = true)
    (h : Keep CoreReg.Same l a x) : Keep CoreReg.Same l a { x with mlo := v0 } :=
  CoreReg.then ⟨fun r hr => by cases r <;> first | rfl | exact absurd (by decide) hr⟩ hl h

theorem Core.set_mlo_mhi_mul {l : List CoreReg} {a x : Core} {v0 : TW} {v1 : TW} {v2 : Option UnitOp} (hl : [CoreReg.mlo, CoreReg.mhi, CoreReg.mul].all (fun r => l.contains r) = true)
    (h : Keep CoreReg.Same l a x) : Keep CoreReg.Same l a { x with mlo := v0, mhi := v1, mul := v2 } :=
  CoreReg.then ⟨fun r hr => by cases r <;> first | rfl | exact absurd (by decide) hr⟩ hl h

theorem Core.set_pc {l : List CoreReg} {a x : Core} {v0 : W64} (hl : [CoreReg.pc].all (fun r => l.contains r) = true)
    (h : Keep CoreReg.Same l a x) : Keep CoreReg.Same l a { x with pc := v0 } :=
  CoreReg.then ⟨fun r hr => by cases r <;> first | rfl | exact absurd (by decide) hr⟩ hl h

theorem Core.set_pc_waiting {l : List CoreReg} {a x : Core} {v0 : W64} {v1 : Option WaitOp} (hl : [CoreReg.pc, CoreReg.waiting].all (fun r => l.contains r) = true)
    (h : Keep CoreReg.Same l a x) : Keep CoreReg.Same l a { x with pc := v0, waiting := v1 } :=
  CoreReg.then ⟨fun r hr => by cases r <;> first | rfl | exact absurd (by decide) hr⟩ hl h

theorem Core.set_quo {l : List CoreReg} {a x : Core} {v0 : TW} (hl : [CoreReg.quo].all (fun r => l.contains r) = true)
    (h : Keep CoreReg.Same l a x) : Keep CoreReg.Same l a { x with quo := v0 } :=
  CoreReg.then ⟨fun r hr => by cases r <;> first | rfl | exact absurd (by decide) hr⟩ hl h

theorem Core.set_quo_rem_div {l : List CoreReg} {a x : Core} {v0 : TW} {v1 : TW} {v2 : Option UnitOp} (hl : [CoreReg.quo, CoreReg.rem, CoreReg.div].all (fun r => l.contains r) = true)
    (h : Keep CoreReg.Same l a x) : Keep CoreReg.Same l a { x with quo := v0, rem := v1, div := v2 } :=
  CoreReg.then ⟨fun r hr => by cases r <;> first | rfl | exact absurd (by decide) hr⟩ hl h

theorem Core.set_rem {l : List CoreReg} {a x : Core} {v0 : TW} (hl : [CoreReg.rem].all (fun r => l.contains r) = true)
    (h : Keep CoreReg.Same l a x) : Keep CoreReg.Same l a { x with rem := v0 } :=
  CoreReg.then ⟨fun r hr => by cases r <;> first | rfl | exact absurd (by decide) hr⟩ hl h

theorem Core.set_retired {l : List CoreReg} {a x : Core} {v0 : Bool} (hl : [CoreReg.retired].all (fun r => l.contains r) = true)
    (h : Keep CoreReg.Same l a x) : Keep CoreReg.Same l a { x with retired := v0 } :=
  CoreReg.then ⟨fun r hr => by cases r <;> first | rfl | exact absurd (by decide) hr⟩ hl h

theorem Core.set_state {l : List CoreReg} {a x : Core} {v0 : Nat} (hl : [CoreReg.state].all (fun r => l.contains r) = true)
    (h : Keep CoreReg.Same l a x) : Keep CoreReg.Same l a { x with state := v0 } :=
  CoreReg.then ⟨fun r hr => by cases r <;> first | rfl | exact absurd (by decide) hr⟩ hl h

theorem Core.set_state_cmdErr_loading {l : List CoreReg} {a x : Core} {v0 : Nat} {v1 : Nat} {v2 : Option LoadOp} (hl : [CoreReg.state, CoreReg.cmdErr, CoreReg.loading].all (fun r => l.contains r) = true)
    (h : Keep CoreReg.Same l a x) : Keep CoreReg.Same l a { x with state := v0, cmdErr := v1, loading := v2 } :=
  CoreReg.then ⟨fun r hr => by cases r <;> first | rfl | exact absurd (by decide) hr⟩ hl h

theorem Core.set_state_loading {l : List CoreReg} {a x : Core} {v0 : Nat} {v1 : Option LoadOp} (hl : [CoreReg.state, CoreReg.loading].all (fun r => l.contains r) = true)
    (h : Keep CoreReg.Same l a x) : Keep CoreReg.Same l a { x with state := v0, loading := v1 } :=
  CoreReg.then ⟨fun r hr => by cases r <;> first | rfl | exact absurd (by decide) hr⟩ hl h

theorem Core.set_state_w_v_mlo_mhi_quo_rem_flg_vff_dsp_pc_mem_mul_div_rstack_spill_codeAt_codeLen_dsLow_dsHigh_spillAt_spillLen_trapVec_trapActive_double_boot_vecUp_vecOn_windows_waiting_loading {l : List CoreReg} {a x : Core} {v0 : Nat} {v1 : SMap TW} {v2 : SMap VReg} {v3 : TW} {v4 : TW} {v5 : TW} {v6 : TW} {v7 : TW} {v8 : TW} {v9 : TW} {v10 : W64} {v11 : SMap TW} {v12 : Option UnitOp} {v13 : Option UnitOp} {v14 : List W64} {v15 : List W64} {v16 : Nat} {v17 : Nat} {v18 : Nat} {v19 : Nat} {v20 : Nat} {v21 : Nat} {v22 : Option Nat} {v23 : Bool} {v24 : Bool} {v25 : Bool} {v26 : Bool} {v27 : Bool} {v28 : List Window} {v29 : Option WaitOp} {v30 : Option LoadOp} (hl : [CoreReg.state, CoreReg.w, CoreReg.v, CoreReg.mlo, CoreReg.mhi, CoreReg.quo, CoreReg.rem, CoreReg.flg, CoreReg.vff, CoreReg.dsp, CoreReg.pc, CoreReg.mem, CoreReg.mul, CoreReg.div, CoreReg.rstack, CoreReg.spill, CoreReg.codeAt, CoreReg.codeLen, CoreReg.dsLow, CoreReg.dsHigh, CoreReg.spillAt, CoreReg.spillLen, CoreReg.trapVec, CoreReg.trapActive, CoreReg.double, CoreReg.boot, CoreReg.vecUp, CoreReg.vecOn, CoreReg.windows, CoreReg.waiting, CoreReg.loading].all (fun r => l.contains r) = true)
    (h : Keep CoreReg.Same l a x) : Keep CoreReg.Same l a { x with state := v0, w := v1, v := v2, mlo := v3, mhi := v4, quo := v5, rem := v6, flg := v7, vff := v8, dsp := v9, pc := v10, mem := v11, mul := v12, div := v13, rstack := v14, spill := v15, codeAt := v16, codeLen := v17, dsLow := v18, dsHigh := v19, spillAt := v20, spillLen := v21, trapVec := v22, trapActive := v23, double := v24, boot := v25, vecUp := v26, vecOn := v27, windows := v28, waiting := v29, loading := v30 } :=
  CoreReg.then ⟨fun r hr => by cases r <;> first | rfl | exact absurd (by decide) hr⟩ hl h

theorem Core.set_state_w_v_mlo_mhi_quo_rem_flg_vff_dsp_pc_mem_mul_div_rstack_spill_codeAt_codeLen_dsLow_dsHigh_spillAt_spillLen_trapVec_trapActive_double_lastCode_traps_declass_boot_vecUp_vecOn_windows_cmdErr_waiting_loading {l : List CoreReg} {a x : Core} {v0 : Nat} {v1 : SMap TW} {v2 : SMap VReg} {v3 : TW} {v4 : TW} {v5 : TW} {v6 : TW} {v7 : TW} {v8 : TW} {v9 : TW} {v10 : W64} {v11 : SMap TW} {v12 : Option UnitOp} {v13 : Option UnitOp} {v14 : List W64} {v15 : List W64} {v16 : Nat} {v17 : Nat} {v18 : Nat} {v19 : Nat} {v20 : Nat} {v21 : Nat} {v22 : Option Nat} {v23 : Bool} {v24 : Bool} {v25 : Nat} {v26 : Nat} {v27 : Nat} {v28 : Bool} {v29 : Bool} {v30 : Bool} {v31 : List Window} {v32 : Nat} {v33 : Option WaitOp} {v34 : Option LoadOp} (hl : [CoreReg.state, CoreReg.w, CoreReg.v, CoreReg.mlo, CoreReg.mhi, CoreReg.quo, CoreReg.rem, CoreReg.flg, CoreReg.vff, CoreReg.dsp, CoreReg.pc, CoreReg.mem, CoreReg.mul, CoreReg.div, CoreReg.rstack, CoreReg.spill, CoreReg.codeAt, CoreReg.codeLen, CoreReg.dsLow, CoreReg.dsHigh, CoreReg.spillAt, CoreReg.spillLen, CoreReg.trapVec, CoreReg.trapActive, CoreReg.double, CoreReg.lastCode, CoreReg.traps, CoreReg.declass, CoreReg.boot, CoreReg.vecUp, CoreReg.vecOn, CoreReg.windows, CoreReg.cmdErr, CoreReg.waiting, CoreReg.loading].all (fun r => l.contains r) = true)
    (h : Keep CoreReg.Same l a x) : Keep CoreReg.Same l a { x with state := v0, w := v1, v := v2, mlo := v3, mhi := v4, quo := v5, rem := v6, flg := v7, vff := v8, dsp := v9, pc := v10, mem := v11, mul := v12, div := v13, rstack := v14, spill := v15, codeAt := v16, codeLen := v17, dsLow := v18, dsHigh := v19, spillAt := v20, spillLen := v21, trapVec := v22, trapActive := v23, double := v24, lastCode := v25, traps := v26, declass := v27, boot := v28, vecUp := v29, vecOn := v30, windows := v31, cmdErr := v32, waiting := v33, loading := v34 } :=
  CoreReg.then ⟨fun r hr => by cases r <;> first | rfl | exact absurd (by decide) hr⟩ hl h

theorem Core.set_state_w_v_mlo_mhi_quo_rem_flg_vff_dsp_pc_mem_mul_div_rstack_spill_codeAt_codeLen_dsLow_dsHigh_spillAt_spillLen_trapVec_trapActive_double_traps_declass_boot_vecUp_vecOn_windows_loads_waiting_loading {l : List CoreReg} {a x : Core} {v0 : Nat} {v1 : SMap TW} {v2 : SMap VReg} {v3 : TW} {v4 : TW} {v5 : TW} {v6 : TW} {v7 : TW} {v8 : TW} {v9 : TW} {v10 : W64} {v11 : SMap TW} {v12 : Option UnitOp} {v13 : Option UnitOp} {v14 : List W64} {v15 : List W64} {v16 : Nat} {v17 : Nat} {v18 : Nat} {v19 : Nat} {v20 : Nat} {v21 : Nat} {v22 : Option Nat} {v23 : Bool} {v24 : Bool} {v25 : Nat} {v26 : Nat} {v27 : Bool} {v28 : Bool} {v29 : Bool} {v30 : List Window} {v31 : Nat} {v32 : Option WaitOp} {v33 : Option LoadOp} (hl : [CoreReg.state, CoreReg.w, CoreReg.v, CoreReg.mlo, CoreReg.mhi, CoreReg.quo, CoreReg.rem, CoreReg.flg, CoreReg.vff, CoreReg.dsp, CoreReg.pc, CoreReg.mem, CoreReg.mul, CoreReg.div, CoreReg.rstack, CoreReg.spill, CoreReg.codeAt, CoreReg.codeLen, CoreReg.dsLow, CoreReg.dsHigh, CoreReg.spillAt, CoreReg.spillLen, CoreReg.trapVec, CoreReg.trapActive, CoreReg.double, CoreReg.traps, CoreReg.declass, CoreReg.boot, CoreReg.vecUp, CoreReg.vecOn, CoreReg.windows, CoreReg.loads, CoreReg.waiting, CoreReg.loading].all (fun r => l.contains r) = true)
    (h : Keep CoreReg.Same l a x) : Keep CoreReg.Same l a { x with state := v0, w := v1, v := v2, mlo := v3, mhi := v4, quo := v5, rem := v6, flg := v7, vff := v8, dsp := v9, pc := v10, mem := v11, mul := v12, div := v13, rstack := v14, spill := v15, codeAt := v16, codeLen := v17, dsLow := v18, dsHigh := v19, spillAt := v20, spillLen := v21, trapVec := v22, trapActive := v23, double := v24, traps := v25, declass := v26, boot := v27, vecUp := v28, vecOn := v29, windows := v30, loads := v31, waiting := v32, loading := v33 } :=
  CoreReg.then ⟨fun r hr => by cases r <;> first | rfl | exact absurd (by decide) hr⟩ hl h

theorem Core.set_vecUp {l : List CoreReg} {a x : Core} {v0 : Bool} (hl : [CoreReg.vecUp].all (fun r => l.contains r) = true)
    (h : Keep CoreReg.Same l a x) : Keep CoreReg.Same l a { x with vecUp := v0 } :=
  CoreReg.then ⟨fun r hr => by cases r <;> first | rfl | exact absurd (by decide) hr⟩ hl h

theorem Core.set_vff {l : List CoreReg} {a x : Core} {v0 : TW} (hl : [CoreReg.vff].all (fun r => l.contains r) = true)
    (h : Keep CoreReg.Same l a x) : Keep CoreReg.Same l a { x with vff := v0 } :=
  CoreReg.then ⟨fun r hr => by cases r <;> first | rfl | exact absurd (by decide) hr⟩ hl h

theorem Core.set_w {l : List CoreReg} {a x : Core} {v0 : SMap TW} (hl : [CoreReg.w].all (fun r => l.contains r) = true)
    (h : Keep CoreReg.Same l a x) : Keep CoreReg.Same l a { x with w := v0 } :=
  CoreReg.then ⟨fun r hr => by cases r <;> first | rfl | exact absurd (by decide) hr⟩ hl h

theorem Core.set_waiting {l : List CoreReg} {a x : Core} {v0 : Option WaitOp} (hl : [CoreReg.waiting].all (fun r => l.contains r) = true)
    (h : Keep CoreReg.Same l a x) : Keep CoreReg.Same l a { x with waiting := v0 } :=
  CoreReg.then ⟨fun r hr => by cases r <;> first | rfl | exact absurd (by decide) hr⟩ hl h

theorem Core.set_windows {l : List CoreReg} {a x : Core} {v0 : List Window} (hl : [CoreReg.windows].all (fun r => l.contains r) = true)
    (h : Keep CoreReg.Same l a x) : Keep CoreReg.Same l a { x with windows := v0 } :=
  CoreReg.then ⟨fun r hr => by cases r <;> first | rfl | exact absurd (by decide) hr⟩ hl h

theorem Debug.set_challengeDraw {l : List DbgReg} {a x : Debug} {v0 : Nat} (hl : [DbgReg.challengeDraw].all (fun r => l.contains r) = true)
    (h : Keep DbgReg.Same l a x) : Keep DbgReg.Same l a { x with challengeDraw := v0 } :=
  DbgReg.then ⟨fun r hr => by cases r <;> first | rfl | exact absurd (by decide) hr⟩ hl h

theorem Debug.set_scope_padMask {l : List DbgReg} {a x : Debug} {v0 : Nat} {v1 : Nat} (hl : [DbgReg.scope, DbgReg.padMask].all (fun r => l.contains r) = true)
    (h : Keep DbgReg.Same l a x) : Keep DbgReg.Same l a { x with scope := v0, padMask := v1 } :=
  DbgReg.then ⟨fun r hr => by cases r <;> first | rfl | exact absurd (by decide) hr⟩ hl h

theorem Energy.set_capBinding {l : List EnReg} {a x : Energy} {v0 : Bool} (hl : [EnReg.capBinding].all (fun r => l.contains r) = true)
    (h : Keep EnReg.Same l a x) : Keep EnReg.Same l a { x with capBinding := v0 } :=
  EnReg.then ⟨fun r hr => by cases r <;> first | rfl | exact absurd (by decide) hr⟩ hl h

theorem Energy.set_capQw_windowMs {l : List EnReg} {a x : Energy} {v0 : Nat} {v1 : Nat} (hl : [EnReg.capQw, EnReg.windowMs].all (fun r => l.contains r) = true)
    (h : Keep EnReg.Same l a x) : Keep EnReg.Same l a { x with capQw := v0, windowMs := v1 } :=
  EnReg.then ⟨fun r hr => by cases r <;> first | rfl | exact absurd (by decide) hr⟩ hl h

theorem Energy.set_cmeas {l : List EnReg} {a x : Energy} {v0 : Option Nat} (hl : [EnReg.cmeas].all (fun r => l.contains r) = true)
    (h : Keep EnReg.Same l a x) : Keep EnReg.Same l a { x with cmeas := v0 } :=
  EnReg.then ⟨fun r hr => by cases r <;> first | rfl | exact absurd (by decide) hr⟩ hl h

theorem Energy.set_cmeas_cmeasCap {l : List EnReg} {a x : Energy} {v0 : Option Nat} {v1 : Nat} (hl : [EnReg.cmeas, EnReg.cmeasCap].all (fun r => l.contains r) = true)
    (h : Keep EnReg.Same l a x) : Keep EnReg.Same l a { x with cmeas := v0, cmeasCap := v1 } :=
  EnReg.then ⟨fun r hr => by cases r <;> first | rfl | exact absurd (by decide) hr⟩ hl h

theorem Energy.set_flushActive {l : List EnReg} {a x : Energy} {v0 : Bool} (hl : [EnReg.flushActive].all (fun r => l.contains r) = true)
    (h : Keep EnReg.Same l a x) : Keep EnReg.Same l a { x with flushActive := v0 } :=
  EnReg.then ⟨fun r hr => by cases r <;> first | rfl | exact absurd (by decide) hr⟩ hl h

theorem Energy.set_flushNj_flushConv {l : List EnReg} {a x : Energy} {v0 : Nat} {v1 : Nat} (hl : [EnReg.flushNj, EnReg.flushConv].all (fun r => l.contains r) = true)
    (h : Keep EnReg.Same l a x) : Keep EnReg.Same l a { x with flushNj := v0, flushConv := v1 } :=
  EnReg.then ⟨fun r hr => by cases r <;> first | rfl | exact absurd (by decide) hr⟩ hl h

theorem Energy.set_i3cCap {l : List EnReg} {a x : Energy} {v0 : Option Nat} (hl : [EnReg.i3cCap].all (fun r => l.contains r) = true)
    (h : Keep EnReg.Same l a x) : Keep EnReg.Same l a { x with i3cCap := v0 } :=
  EnReg.then ⟨fun r hr => by cases r <;> first | rfl | exact absurd (by decide) hr⟩ hl h

theorem Energy.set_meter {l : List EnReg} {a x : Energy} {v0 : SMap Nat} (hl : [EnReg.meter].all (fun r => l.contains r) = true)
    (h : Keep EnReg.Same l a x) : Keep EnReg.Same l a { x with meter := v0 } :=
  EnReg.then ⟨fun r hr => by cases r <;> first | rfl | exact absurd (by decide) hr⟩ hl h

theorem Energy.set_offset_gain_calValid {l : List EnReg} {a x : Energy} {v0 : Int} {v1 : Nat} {v2 : Bool} (hl : [EnReg.offset, EnReg.gain, EnReg.calValid].all (fun r => l.contains r) = true)
    (h : Keep EnReg.Same l a x) : Keep EnReg.Same l a { x with offset := v0, gain := v1, calValid := v2 } :=
  EnReg.then ⟨fun r hr => by cases r <;> first | rfl | exact absurd (by decide) hr⟩ hl h

theorem Energy.set_padEnergy {l : List EnReg} {a x : Energy} {v0 : SMap Nat} (hl : [EnReg.padEnergy].all (fun r => l.contains r) = true)
    (h : Keep EnReg.Same l a x) : Keep EnReg.Same l a { x with padEnergy := v0 } :=
  EnReg.then ⟨fun r hr => by cases r <;> first | rfl | exact absurd (by decide) hr⟩ hl h

theorem Energy.set_padEnergy_coreNj {l : List EnReg} {a x : Energy} {v0 : SMap Nat} {v1 : SMap Nat} (hl : [EnReg.padEnergy, EnReg.coreNj].all (fun r => l.contains r) = true)
    (h : Keep EnReg.Same l a x) : Keep EnReg.Same l a { x with padEnergy := v0, coreNj := v1 } :=
  EnReg.then ⟨fun r hr => by cases r <;> first | rfl | exact absurd (by decide) hr⟩ hl h

theorem Energy.set_rawCode_convs {l : List EnReg} {a x : Energy} {v0 : Nat} {v1 : List Nat} (hl : [EnReg.rawCode, EnReg.convs].all (fun r => l.contains r) = true)
    (h : Keep EnReg.Same l a x) : Keep EnReg.Same l a { x with rawCode := v0, convs := v1 } :=
  EnReg.then ⟨fun r hr => by cases r <;> first | rfl | exact absurd (by decide) hr⟩ hl h

theorem Energy.set_recNj_fixedUj {l : List EnReg} {a x : Energy} {v0 : Nat} {v1 : Nat} (hl : [EnReg.recNj, EnReg.fixedUj].all (fun r => l.contains r) = true)
    (h : Keep EnReg.Same l a x) : Keep EnReg.Same l a { x with recNj := v0, fixedUj := v1 } :=
  EnReg.then ⟨fun r hr => by cases r <;> first | rfl | exact absurd (by decide) hr⟩ hl h

theorem Energy.set_reserveLow {l : List EnReg} {a x : Energy} {v0 : Bool} (hl : [EnReg.reserveLow].all (fun r => l.contains r) = true)
    (h : Keep EnReg.Same l a x) : Keep EnReg.Same l a { x with reserveLow := v0 } :=
  EnReg.then ⟨fun r hr => by cases r <;> first | rfl | exact absurd (by decide) hr⟩ hl h

theorem Energy.set_samples_lastNj_padSeen {l : List EnReg} {a x : Energy} {v0 : List EnergySample} {v1 : SMap Nat} {v2 : SMap Nat} (hl : [EnReg.samples, EnReg.lastNj, EnReg.padSeen].all (fun r => l.contains r) = true)
    (h : Keep EnReg.Same l a x) : Keep EnReg.Same l a { x with samples := v0, lastNj := v1, padSeen := v2 } :=
  EnReg.then ⟨fun r hr => by cases r <;> first | rfl | exact absurd (by decide) hr⟩ hl h

theorem Energy.set_shed {l : List EnReg} {a x : Energy} {v0 : SMap Nat} (hl : [EnReg.shed].all (fun r => l.contains r) = true)
    (h : Keep EnReg.Same l a x) : Keep EnReg.Same l a { x with shed := v0 } :=
  EnReg.then ⟨fun r hr => by cases r <;> first | rfl | exact absurd (by decide) hr⟩ hl h

theorem Energy.set_shed_step_meter_padEnergy_coreNj_samples_lastNj_padSeen_sleepFrom_capQw_windowMs_i3cCap_wakes_capBinding_withholdWakes_withholdPads_rawCode_convs_offset_gain_calValid_flushNj_flushConv_recNj_fixedUj_reserveLow_flushActive_overtemp {l : List EnReg} {a x : Energy} {v0 : SMap Nat} {v1 : SMap Nat} {v2 : SMap Nat} {v3 : SMap Nat} {v4 : SMap Nat} {v5 : List EnergySample} {v6 : SMap Nat} {v7 : SMap Nat} {v8 : SMap Nat} {v9 : Nat} {v10 : Nat} {v11 : Option Nat} {v12 : List Nat} {v13 : Bool} {v14 : Bool} {v15 : Nat} {v16 : Nat} {v17 : List Nat} {v18 : Int} {v19 : Nat} {v20 : Bool} {v21 : Nat} {v22 : Nat} {v23 : Nat} {v24 : Nat} {v25 : Bool} {v26 : Bool} {v27 : Bool} (hl : [EnReg.shed, EnReg.step, EnReg.meter, EnReg.padEnergy, EnReg.coreNj, EnReg.samples, EnReg.lastNj, EnReg.padSeen, EnReg.sleepFrom, EnReg.capQw, EnReg.windowMs, EnReg.i3cCap, EnReg.wakes, EnReg.capBinding, EnReg.withholdWakes, EnReg.withholdPads, EnReg.rawCode, EnReg.convs, EnReg.offset, EnReg.gain, EnReg.calValid, EnReg.flushNj, EnReg.flushConv, EnReg.recNj, EnReg.fixedUj, EnReg.reserveLow, EnReg.flushActive, EnReg.overtemp].all (fun r => l.contains r) = true)
    (h : Keep EnReg.Same l a x) : Keep EnReg.Same l a { x with shed := v0, step := v1, meter := v2, padEnergy := v3, coreNj := v4, samples := v5, lastNj := v6, padSeen := v7, sleepFrom := v8, capQw := v9, windowMs := v10, i3cCap := v11, wakes := v12, capBinding := v13, withholdWakes := v14, withholdPads := v15, rawCode := v16, convs := v17, offset := v18, gain := v19, calValid := v20, flushNj := v21, flushConv := v22, recNj := v23, fixedUj := v24, reserveLow := v25, flushActive := v26, overtemp := v27 } :=
  EnReg.then ⟨fun r hr => by cases r <;> first | rfl | exact absurd (by decide) hr⟩ hl h

theorem Energy.set_sleepFrom {l : List EnReg} {a x : Energy} {v0 : SMap Nat} (hl : [EnReg.sleepFrom].all (fun r => l.contains r) = true)
    (h : Keep EnReg.Same l a x) : Keep EnReg.Same l a { x with sleepFrom := v0 } :=
  EnReg.then ⟨fun r hr => by cases r <;> first | rfl | exact absurd (by decide) hr⟩ hl h

theorem Energy.set_step {l : List EnReg} {a x : Energy} {v0 : SMap Nat} (hl : [EnReg.step].all (fun r => l.contains r) = true)
    (h : Keep EnReg.Same l a x) : Keep EnReg.Same l a { x with step := v0 } :=
  EnReg.then ⟨fun r hr => by cases r <;> first | rfl | exact absurd (by decide) hr⟩ hl h

theorem Energy.set_step_capBinding_withholdWakes_withholdPads {l : List EnReg} {a x : Energy} {v0 : SMap Nat} {v1 : Bool} {v2 : Bool} {v3 : Nat} (hl : [EnReg.step, EnReg.capBinding, EnReg.withholdWakes, EnReg.withholdPads].all (fun r => l.contains r) = true)
    (h : Keep EnReg.Same l a x) : Keep EnReg.Same l a { x with step := v0, capBinding := v1, withholdWakes := v2, withholdPads := v3 } :=
  EnReg.then ⟨fun r hr => by cases r <;> first | rfl | exact absurd (by decide) hr⟩ hl h

theorem Energy.set_step_overtemp {l : List EnReg} {a x : Energy} {v0 : SMap Nat} {v1 : Bool} (hl : [EnReg.step, EnReg.overtemp].all (fun r => l.contains r) = true)
    (h : Keep EnReg.Same l a x) : Keep EnReg.Same l a { x with step := v0, overtemp := v1 } :=
  EnReg.then ⟨fun r hr => by cases r <;> first | rfl | exact absurd (by decide) hr⟩ hl h

theorem Energy.set_wakes {l : List EnReg} {a x : Energy} {v0 : List Nat} (hl : [EnReg.wakes].all (fun r => l.contains r) = true)
    (h : Keep EnReg.Same l a x) : Keep EnReg.Same l a { x with wakes := v0 } :=
  EnReg.then ⟨fun r hr => by cases r <;> first | rfl | exact absurd (by decide) hr⟩ hl h

theorem Energy.set_withholdPads {l : List EnReg} {a x : Energy} {v0 : Nat} (hl : [EnReg.withholdPads].all (fun r => l.contains r) = true)
    (h : Keep EnReg.Same l a x) : Keep EnReg.Same l a { x with withholdPads := v0 } :=
  EnReg.then ⟨fun r hr => by cases r <;> first | rfl | exact absurd (by decide) hr⟩ hl h

theorem Energy.set_withholdWakes {l : List EnReg} {a x : Energy} {v0 : Bool} (hl : [EnReg.withholdWakes].all (fun r => l.contains r) = true)
    (h : Keep EnReg.Same l a x) : Keep EnReg.Same l a { x with withholdWakes := v0 } :=
  EnReg.then ⟨fun r hr => by cases r <;> first | rfl | exact absurd (by decide) hr⟩ hl h

theorem Faults.set_ahead {l : List FcReg} {a x : Faults} {v0 : List Nat} (hl : [FcReg.ahead].all (fun r => l.contains r) = true)
    (h : Keep FcReg.Same l a x) : Keep FcReg.Same l a { x with ahead := v0 } :=
  FcReg.then ⟨fun r hr => by cases r <;> first | rfl | exact absurd (by decide) hr⟩ hl h

theorem Faults.set_bucketSel {l : List FcReg} {a x : Faults} {v0 : Nat} (hl : [FcReg.bucketSel].all (fun r => l.contains r) = true)
    (h : Keep FcReg.Same l a x) : Keep FcReg.Same l a { x with bucketSel := v0 } :=
  FcReg.then ⟨fun r hr => by cases r <;> first | rfl | exact absurd (by decide) hr⟩ hl h

theorem Faults.set_buckets {l : List FcReg} {a x : Faults} {v0 : SMap Nat} (hl : [FcReg.buckets].all (fun r => l.contains r) = true)
    (h : Keep FcReg.Same l a x) : Keep FcReg.Same l a { x with buckets := v0 } :=
  FcReg.then ⟨fun r hr => by cases r <;> first | rfl | exact absurd (by decide) hr⟩ hl h

theorem Faults.set_claimed_fails {l : List FcReg} {a x : Faults} {v0 : Option Nat} {v1 : Nat} (hl : [FcReg.claimed, FcReg.fails].all (fun r => l.contains r) = true)
    (h : Keep FcReg.Same l a x) : Keep FcReg.Same l a { x with claimed := v0, fails := v1 } :=
  FcReg.then ⟨fun r hr => by cases r <;> first | rfl | exact absurd (by decide) hr⟩ hl h

theorem Faults.set_claimed_overdue_ahead {l : List FcReg} {a x : Faults} {v0 : Option Nat} {v1 : List Nat} {v2 : List Nat} (hl : [FcReg.claimed, FcReg.overdue, FcReg.ahead].all (fun r => l.contains r) = true)
    (h : Keep FcReg.Same l a x) : Keep FcReg.Same l a { x with claimed := v0, overdue := v1, ahead := v2 } :=
  FcReg.then ⟨fun r hr => by cases r <;> first | rfl | exact absurd (by decide) hr⟩ hl h

theorem Faults.set_claimed_testing {l : List FcReg} {a x : Faults} {v0 : Option Nat} {v1 : Bool} (hl : [FcReg.claimed, FcReg.testing].all (fun r => l.contains r) = true)
    (h : Keep FcReg.Same l a x) : Keep FcReg.Same l a { x with claimed := v0, testing := v1 } :=
  FcReg.then ⟨fun r hr => by cases r <;> first | rfl | exact absurd (by decide) hr⟩ hl h

theorem Faults.set_claimed_testing_ahead {l : List FcReg} {a x : Faults} {v0 : Option Nat} {v1 : Bool} {v2 : List Nat} (hl : [FcReg.claimed, FcReg.testing, FcReg.ahead].all (fun r => l.contains r) = true)
    (h : Keep FcReg.Same l a x) : Keep FcReg.Same l a { x with claimed := v0, testing := v1, ahead := v2 } :=
  FcReg.then ⟨fun r hr => by cases r <;> first | rfl | exact absurd (by decide) hr⟩ hl h

theorem Faults.set_corrected {l : List FcReg} {a x : Faults} {v0 : SMap Nat} (hl : [FcReg.corrected].all (fun r => l.contains r) = true)
    (h : Keep FcReg.Same l a x) : Keep FcReg.Same l a { x with corrected := v0 } :=
  FcReg.then ⟨fun r hr => by cases r <;> first | rfl | exact absurd (by decide) hr⟩ hl h

theorem Faults.set_corrected_toLog {l : List FcReg} {a x : Faults} {v0 : SMap Nat} {v1 : List (Nat × Nat × Nat)} (hl : [FcReg.corrected, FcReg.toLog].all (fun r => l.contains r) = true)
    (h : Keep FcReg.Same l a x) : Keep FcReg.Same l a { x with corrected := v0, toLog := v1 } :=
  FcReg.then ⟨fun r hr => by cases r <;> first | rfl | exact absurd (by decide) hr⟩ hl h

theorem Faults.set_dropped {l : List FcReg} {a x : Faults} {v0 : Nat} (hl : [FcReg.dropped].all (fun r => l.contains r) = true)
    (h : Keep FcReg.Same l a x) : Keep FcReg.Same l a { x with dropped := v0 } :=
  FcReg.then ⟨fun r hr => by cases r <;> first | rfl | exact absurd (by decide) hr⟩ hl h

theorem Faults.set_dropped_severeLost {l : List FcReg} {a x : Faults} {v0 : Nat} {v1 : Bool} (hl : [FcReg.dropped, FcReg.severeLost].all (fun r => l.contains r) = true)
    (h : Keep FcReg.Same l a x) : Keep FcReg.Same l a { x with dropped := v0, severeLost := v1 } :=
  FcReg.then ⟨fun r hr => by cases r <;> first | rfl | exact absurd (by decide) hr⟩ hl h

theorem Faults.set_escNow {l : List FcReg} {a x : Faults} {v0 : List OutFault} (hl : [FcReg.escNow].all (fun r => l.contains r) = true)
    (h : Keep FcReg.Same l a x) : Keep FcReg.Same l a { x with escNow := v0 } :=
  FcReg.then ⟨fun r hr => by cases r <;> first | rfl | exact absurd (by decide) hr⟩ hl h

theorem Faults.set_heldExpiry {l : List FcReg} {a x : Faults} {v0 : List (Nat × Nat)} (hl : [FcReg.heldExpiry].all (fun r => l.contains r) = true)
    (h : Keep FcReg.Same l a x) : Keep FcReg.Same l a { x with heldExpiry := v0 } :=
  FcReg.then ⟨fun r hr => by cases r <;> first | rfl | exact absurd (by decide) hr⟩ hl h

theorem Faults.set_log {l : List FcReg} {a x : Faults} {v0 : List (Nat × Nat)} (hl : [FcReg.log].all (fun r => l.contains r) = true)
    (h : Keep FcReg.Same l a x) : Keep FcReg.Same l a { x with log := v0 } :=
  FcReg.then ⟨fun r hr => by cases r <;> first | rfl | exact absurd (by decide) hr⟩ hl h

theorem Faults.set_log_dropped_severeLost_overflowed_out_buckets_retired_outSel_bucketSel_claimed_testing_passes_fails_overdue_nextStall_ahead_corrected_toLog_escNow_retireNow_heldExpiry {l : List FcReg} {a x : Faults} {v0 : List (Nat × Nat)} {v1 : Nat} {v2 : Bool} {v3 : Bool} {v4 : SMap (Option OutFault)} {v5 : SMap Nat} {v6 : SMap Bool} {v7 : Nat} {v8 : Nat} {v9 : Option Nat} {v10 : Bool} {v11 : Nat} {v12 : Nat} {v13 : List Nat} {v14 : Nat} {v15 : List Nat} {v16 : SMap Nat} {v17 : List (Nat × Nat × Nat)} {v18 : List OutFault} {v19 : List (Nat × Nat)} {v20 : List (Nat × Nat)} (hl : [FcReg.log, FcReg.dropped, FcReg.severeLost, FcReg.overflowed, FcReg.out, FcReg.buckets, FcReg.retired, FcReg.outSel, FcReg.bucketSel, FcReg.claimed, FcReg.testing, FcReg.passes, FcReg.fails, FcReg.overdue, FcReg.nextStall, FcReg.ahead, FcReg.corrected, FcReg.toLog, FcReg.escNow, FcReg.retireNow, FcReg.heldExpiry].all (fun r => l.contains r) = true)
    (h : Keep FcReg.Same l a x) : Keep FcReg.Same l a { x with log := v0, dropped := v1, severeLost := v2, overflowed := v3, out := v4, buckets := v5, retired := v6, outSel := v7, bucketSel := v8, claimed := v9, testing := v10, passes := v11, fails := v12, overdue := v13, nextStall := v14, ahead := v15, corrected := v16, toLog := v17, escNow := v18, retireNow := v19, heldExpiry := v20 } :=
  FcReg.then ⟨fun r hr => by cases r <;> first | rfl | exact absurd (by decide) hr⟩ hl h

theorem Faults.set_log_overflowed {l : List FcReg} {a x : Faults} {v0 : List (Nat × Nat)} {v1 : Bool} (hl : [FcReg.log, FcReg.overflowed].all (fun r => l.contains r) = true)
    (h : Keep FcReg.Same l a x) : Keep FcReg.Same l a { x with log := v0, overflowed := v1 } :=
  FcReg.then ⟨fun r hr => by cases r <;> first | rfl | exact absurd (by decide) hr⟩ hl h

theorem Faults.set_nextStall {l : List FcReg} {a x : Faults} {v0 : Nat} (hl : [FcReg.nextStall].all (fun r => l.contains r) = true)
    (h : Keep FcReg.Same l a x) : Keep FcReg.Same l a { x with nextStall := v0 } :=
  FcReg.then ⟨fun r hr => by cases r <;> first | rfl | exact absurd (by decide) hr⟩ hl h

theorem Faults.set_out {l : List FcReg} {a x : Faults} {v0 : SMap (Option OutFault)} (hl : [FcReg.out].all (fun r => l.contains r) = true)
    (h : Keep FcReg.Same l a x) : Keep FcReg.Same l a { x with out := v0 } :=
  FcReg.then ⟨fun r hr => by cases r <;> first | rfl | exact absurd (by decide) hr⟩ hl h

theorem Faults.set_outSel {l : List FcReg} {a x : Faults} {v0 : Nat} (hl : [FcReg.outSel].all (fun r => l.contains r) = true)
    (h : Keep FcReg.Same l a x) : Keep FcReg.Same l a { x with outSel := v0 } :=
  FcReg.then ⟨fun r hr => by cases r <;> first | rfl | exact absurd (by decide) hr⟩ hl h

theorem Faults.set_overdue {l : List FcReg} {a x : Faults} {v0 : List Nat} (hl : [FcReg.overdue].all (fun r => l.contains r) = true)
    (h : Keep FcReg.Same l a x) : Keep FcReg.Same l a { x with overdue := v0 } :=
  FcReg.then ⟨fun r hr => by cases r <;> first | rfl | exact absurd (by decide) hr⟩ hl h

theorem Faults.set_overflowed {l : List FcReg} {a x : Faults} {v0 : Bool} (hl : [FcReg.overflowed].all (fun r => l.contains r) = true)
    (h : Keep FcReg.Same l a x) : Keep FcReg.Same l a { x with overflowed := v0 } :=
  FcReg.then ⟨fun r hr => by cases r <;> first | rfl | exact absurd (by decide) hr⟩ hl h

theorem Faults.set_passes {l : List FcReg} {a x : Faults} {v0 : Nat} (hl : [FcReg.passes].all (fun r => l.contains r) = true)
    (h : Keep FcReg.Same l a x) : Keep FcReg.Same l a { x with passes := v0 } :=
  FcReg.then ⟨fun r hr => by cases r <;> first | rfl | exact absurd (by decide) hr⟩ hl h

theorem Faults.set_retireNow {l : List FcReg} {a x : Faults} {v0 : List (Nat × Nat)} (hl : [FcReg.retireNow].all (fun r => l.contains r) = true)
    (h : Keep FcReg.Same l a x) : Keep FcReg.Same l a { x with retireNow := v0 } :=
  FcReg.then ⟨fun r hr => by cases r <;> first | rfl | exact absurd (by decide) hr⟩ hl h

theorem Faults.set_retired {l : List FcReg} {a x : Faults} {v0 : SMap Bool} (hl : [FcReg.retired].all (fun r => l.contains r) = true)
    (h : Keep FcReg.Same l a x) : Keep FcReg.Same l a { x with retired := v0 } :=
  FcReg.then ⟨fun r hr => by cases r <;> first | rfl | exact absurd (by decide) hr⟩ hl h

theorem Faults.set_retired_toLog {l : List FcReg} {a x : Faults} {v0 : SMap Bool} {v1 : List (Nat × Nat × Nat)} (hl : [FcReg.retired, FcReg.toLog].all (fun r => l.contains r) = true)
    (h : Keep FcReg.Same l a x) : Keep FcReg.Same l a { x with retired := v0, toLog := v1 } :=
  FcReg.then ⟨fun r hr => by cases r <;> first | rfl | exact absurd (by decide) hr⟩ hl h

theorem Faults.set_severeLost {l : List FcReg} {a x : Faults} {v0 : Bool} (hl : [FcReg.severeLost].all (fun r => l.contains r) = true)
    (h : Keep FcReg.Same l a x) : Keep FcReg.Same l a { x with severeLost := v0 } :=
  FcReg.then ⟨fun r hr => by cases r <;> first | rfl | exact absurd (by decide) hr⟩ hl h

theorem Faults.set_spareRows {l : List FcReg} {a x : Faults} {v0 : SMap Nat} (hl : [FcReg.spareRows].all (fun r => l.contains r) = true)
    (h : Keep FcReg.Same l a x) : Keep FcReg.Same l a { x with spareRows := v0 } :=
  FcReg.then ⟨fun r hr => by cases r <;> first | rfl | exact absurd (by decide) hr⟩ hl h

theorem Faults.set_testing {l : List FcReg} {a x : Faults} {v0 : Bool} (hl : [FcReg.testing].all (fun r => l.contains r) = true)
    (h : Keep FcReg.Same l a x) : Keep FcReg.Same l a { x with testing := v0 } :=
  FcReg.then ⟨fun r hr => by cases r <;> first | rfl | exact absurd (by decide) hr⟩ hl h

theorem Faults.set_toLog {l : List FcReg} {a x : Faults} {v0 : List (Nat × Nat × Nat)} (hl : [FcReg.toLog].all (fun r => l.contains r) = true)
    (h : Keep FcReg.Same l a x) : Keep FcReg.Same l a { x with toLog := v0 } :=
  FcReg.then ⟨fun r hr => by cases r <;> first | rfl | exact absurd (by decide) hr⟩ hl h

theorem Fn.set_bme {l : List FnReg} {a x : Fn} {v0 : Bool} (hl : [FnReg.bme].all (fun r => l.contains r) = true)
    (h : Keep FnReg.Same l a x) : Keep FnReg.Same l a { x with bme := v0 } :=
  FnReg.then ⟨fun r hr => by cases r <;> first | rfl | exact absurd (by decide) hr⟩ hl h

theorem Fn.set_bxImgAddr {l : List FnReg} {a x : Fn} {v0 : Nat} (hl : [FnReg.bxImgAddr].all (fun r => l.contains r) = true)
    (h : Keep FnReg.Same l a x) : Keep FnReg.Same l a { x with bxImgAddr := v0 } :=
  FnReg.then ⟨fun r hr => by cases r <;> first | rfl | exact absurd (by decide) hr⟩ hl h

theorem Fn.set_certOff {l : List FnReg} {a x : Fn} {v0 : Nat} (hl : [FnReg.certOff].all (fun r => l.contains r) = true)
    (h : Keep FnReg.Same l a x) : Keep FnReg.Same l a { x with certOff := v0 } :=
  FnReg.then ⟨fun r hr => by cases r <;> first | rfl | exact absurd (by decide) hr⟩ hl h

theorem Fn.set_certSel_certOff {l : List FnReg} {a x : Fn} {v0 : Nat} {v1 : Nat} (hl : [FnReg.certSel, FnReg.certOff].all (fun r => l.contains r) = true)
    (h : Keep FnReg.Same l a x) : Keep FnReg.Same l a { x with certSel := v0, certOff := v1 } :=
  FnReg.then ⟨fun r hr => by cases r <;> first | rfl | exact absurd (by decide) hr⟩ hl h

theorem Fn.set_cfg {l : List FnReg} {a x : Fn} {v0 : Cfg} (hl : [FnReg.cfg].all (fun r => l.contains r) = true)
    (h : Keep FnReg.Same l a x) : Keep FnReg.Same l a { x with cfg := v0 } :=
  FnReg.then ⟨fun r hr => by cases r <;> first | rfl | exact absurd (by decide) hr⟩ hl h

theorem Fn.set_cfg_bme_dState_msixEn_fnMask_pmeEn_pmeStatus_pmeAtCold_relaxed_idOrder_denied_errTimeout_errUrCa_errPoisoned_errQueue_errJob_vecs_evMap {l : List FnReg} {a x : Fn} {v0 : Cfg} {v1 : Bool} {v2 : Nat} {v3 : Bool} {v4 : Bool} {v5 : Bool} {v6 : Bool} {v7 : Bool} {v8 : Bool} {v9 : Bool} {v10 : Nat} {v11 : Bool} {v12 : Bool} {v13 : Bool} {v14 : Nat} {v15 : Bool} {v16 : SMap Vec} {v17 : SMap EvMap} (hl : [FnReg.cfg, FnReg.bme, FnReg.dState, FnReg.msixEn, FnReg.fnMask, FnReg.pmeEn, FnReg.pmeStatus, FnReg.pmeAtCold, FnReg.relaxed, FnReg.idOrder, FnReg.denied, FnReg.errTimeout, FnReg.errUrCa, FnReg.errPoisoned, FnReg.errQueue, FnReg.errJob, FnReg.vecs, FnReg.evMap].all (fun r => l.contains r) = true)
    (h : Keep FnReg.Same l a x) : Keep FnReg.Same l a { x with cfg := v0, bme := v1, dState := v2, msixEn := v3, fnMask := v4, pmeEn := v5, pmeStatus := v6, pmeAtCold := v7, relaxed := v8, idOrder := v9, denied := v10, errTimeout := v11, errUrCa := v12, errPoisoned := v13, errQueue := v14, errJob := v15, vecs := v16, evMap := v17 } :=
  FnReg.then ⟨fun r hr => by cases r <;> first | rfl | exact absurd (by decide) hr⟩ hl h

theorem Fn.set_cfg_idOrder {l : List FnReg} {a x : Fn} {v0 : Cfg} {v1 : Bool} (hl : [FnReg.cfg, FnReg.idOrder].all (fun r => l.contains r) = true)
    (h : Keep FnReg.Same l a x) : Keep FnReg.Same l a { x with cfg := v0, idOrder := v1 } :=
  FnReg.then ⟨fun r hr => by cases r <;> first | rfl | exact absurd (by decide) hr⟩ hl h

theorem Fn.set_cfg_relaxed {l : List FnReg} {a x : Fn} {v0 : Cfg} {v1 : Bool} (hl : [FnReg.cfg, FnReg.relaxed].all (fun r => l.contains r) = true)
    (h : Keep FnReg.Same l a x) : Keep FnReg.Same l a { x with cfg := v0, relaxed := v1 } :=
  FnReg.then ⟨fun r hr => by cases r <;> first | rfl | exact absurd (by decide) hr⟩ hl h

theorem Fn.set_cmdLost {l : List FnReg} {a x : Fn} {v0 : Bool} (hl : [FnReg.cmdLost].all (fun r => l.contains r) = true)
    (h : Keep FnReg.Same l a x) : Keep FnReg.Same l a { x with cmdLost := v0 } :=
  FnReg.then ⟨fun r hr => by cases r <;> first | rfl | exact absurd (by decide) hr⟩ hl h

theorem Fn.set_cmdQueue_cmdCmd_cmdResult {l : List FnReg} {a x : Fn} {v0 : Nat} {v1 : Nat} {v2 : Nat} (hl : [FnReg.cmdQueue, FnReg.cmdCmd, FnReg.cmdResult].all (fun r => l.contains r) = true)
    (h : Keep FnReg.Same l a x) : Keep FnReg.Same l a { x with cmdQueue := v0, cmdCmd := v1, cmdResult := v2 } :=
  FnReg.then ⟨fun r hr => by cases r <;> first | rfl | exact absurd (by decide) hr⟩ hl h

theorem Fn.set_cmpExpect {l : List FnReg} {a x : Fn} {v0 : Bytes} (hl : [FnReg.cmpExpect].all (fun r => l.contains r) = true)
    (h : Keep FnReg.Same l a x) : Keep FnReg.Same l a { x with cmpExpect := v0 } :=
  FnReg.then ⟨fun r hr => by cases r <;> first | rfl | exact absurd (by decide) hr⟩ hl h

theorem Fn.set_cmpGo_cmpSpoiled_cmpEq_cmpNe {l : List FnReg} {a x : Fn} {v0 : Bool} {v1 : Bool} {v2 : BitVec 32} {v3 : BitVec 32} (hl : [FnReg.cmpGo, FnReg.cmpSpoiled, FnReg.cmpEq, FnReg.cmpNe].all (fun r => l.contains r) = true)
    (h : Keep FnReg.Same l a x) : Keep FnReg.Same l a { x with cmpGo := v0, cmpSpoiled := v1, cmpEq := v2, cmpNe := v3 } :=
  FnReg.then ⟨fun r hr => by cases r <;> first | rfl | exact absurd (by decide) hr⟩ hl h

theorem Fn.set_cmpSlot_cmpLen {l : List FnReg} {a x : Fn} {v0 : Nat} {v1 : Nat} (hl : [FnReg.cmpSlot, FnReg.cmpLen].all (fun r => l.contains r) = true)
    (h : Keep FnReg.Same l a x) : Keep FnReg.Same l a { x with cmpSlot := v0, cmpLen := v1 } :=
  FnReg.then ⟨fun r hr => by cases r <;> first | rfl | exact absurd (by decide) hr⟩ hl h

theorem Fn.set_cmpSpoiled_cmpEq_cmpNe {l : List FnReg} {a x : Fn} {v0 : Bool} {v1 : BitVec 32} {v2 : BitVec 32} (hl : [FnReg.cmpSpoiled, FnReg.cmpEq, FnReg.cmpNe].all (fun r => l.contains r) = true)
    (h : Keep FnReg.Same l a x) : Keep FnReg.Same l a { x with cmpSpoiled := v0, cmpEq := v1, cmpNe := v2 } :=
  FnReg.then ⟨fun r hr => by cases r <;> first | rfl | exact absurd (by decide) hr⟩ hl h

theorem Fn.set_dState {l : List FnReg} {a x : Fn} {v0 : Nat} (hl : [FnReg.dState].all (fun r => l.contains r) = true)
    (h : Keep FnReg.Same l a x) : Keep FnReg.Same l a { x with dState := v0 } :=
  FnReg.then ⟨fun r hr => by cases r <;> first | rfl | exact absurd (by decide) hr⟩ hl h

theorem Fn.set_dState_vecs {l : List FnReg} {a x : Fn} {v0 : Nat} {v1 : SMap Vec} (hl : [FnReg.dState, FnReg.vecs].all (fun r => l.contains r) = true)
    (h : Keep FnReg.Same l a x) : Keep FnReg.Same l a { x with dState := v0, vecs := v1 } :=
  FnReg.then ⟨fun r hr => by cases r <;> first | rfl | exact absurd (by decide) hr⟩ hl h

theorem Fn.set_denied {l : List FnReg} {a x : Fn} {v0 : Nat} (hl : [FnReg.denied].all (fun r => l.contains r) = true)
    (h : Keep FnReg.Same l a x) : Keep FnReg.Same l a { x with denied := v0 } :=
  FnReg.then ⟨fun r hr => by cases r <;> first | rfl | exact absurd (by decide) hr⟩ hl h

theorem Fn.set_errPoisoned {l : List FnReg} {a x : Fn} {v0 : Bool} (hl : [FnReg.errPoisoned].all (fun r => l.contains r) = true)
    (h : Keep FnReg.Same l a x) : Keep FnReg.Same l a { x with errPoisoned := v0 } :=
  FnReg.then ⟨fun r hr => by cases r <;> first | rfl | exact absurd (by decide) hr⟩ hl h

theorem Fn.set_errTimeout_errUrCa_errPoisoned {l : List FnReg} {a x : Fn} {v0 : Bool} {v1 : Bool} {v2 : Bool} (hl : [FnReg.errTimeout, FnReg.errUrCa, FnReg.errPoisoned].all (fun r => l.contains r) = true)
    (h : Keep FnReg.Same l a x) : Keep FnReg.Same l a { x with errTimeout := v0, errUrCa := v1, errPoisoned := v2 } :=
  FnReg.then ⟨fun r hr => by cases r <;> first | rfl | exact absurd (by decide) hr⟩ hl h

theorem Fn.set_errTimeout_errUrCa_errQueue_errJob {l : List FnReg} {a x : Fn} {v0 : Bool} {v1 : Bool} {v2 : Nat} {v3 : Bool} (hl : [FnReg.errTimeout, FnReg.errUrCa, FnReg.errQueue, FnReg.errJob].all (fun r => l.contains r) = true)
    (h : Keep FnReg.Same l a x) : Keep FnReg.Same l a { x with errTimeout := v0, errUrCa := v1, errQueue := v2, errJob := v3 } :=
  FnReg.then ⟨fun r hr => by cases r <;> first | rfl | exact absurd (by decide) hr⟩ hl h

theorem Fn.set_evMap {l : List FnReg} {a x : Fn} {v0 : SMap EvMap} (hl : [FnReg.evMap].all (fun r => l.contains r) = true)
    (h : Keep FnReg.Same l a x) : Keep FnReg.Same l a { x with evMap := v0 } :=
  FnReg.then ⟨fun r hr => by cases r <;> first | rfl | exact absurd (by decide) hr⟩ hl h

theorem Fn.set_fcResult {l : List FnReg} {a x : Fn} {v0 : Nat} (hl : [FnReg.fcResult].all (fun r => l.contains r) = true)
    (h : Keep FnReg.Same l a x) : Keep FnReg.Same l a { x with fcResult := v0 } :=
  FnReg.then ⟨fun r hr => by cases r <;> first | rfl | exact absurd (by decide) hr⟩ hl h

theorem Fn.set_fnMask {l : List FnReg} {a x : Fn} {v0 : Bool} (hl : [FnReg.fnMask].all (fun r => l.contains r) = true)
    (h : Keep FnReg.Same l a x) : Keep FnReg.Same l a { x with fnMask := v0 } :=
  FnReg.then ⟨fun r hr => by cases r <;> first | rfl | exact absurd (by decide) hr⟩ hl h

theorem Fn.set_hlEntry_hlWord {l : List FnReg} {a x : Fn} {v0 : Nat} {v1 : Nat} (hl : [FnReg.hlEntry, FnReg.hlWord].all (fun r => l.contains r) = true)
    (h : Keep FnReg.Same l a x) : Keep FnReg.Same l a { x with hlEntry := v0, hlWord := v1 } :=
  FnReg.then ⟨fun r hr => by cases r <;> first | rfl | exact absurd (by decide) hr⟩ hl h

theorem Fn.set_hlLog_hlEntry_hlWord {l : List FnReg} {a x : Fn} {v0 : Nat} {v1 : Nat} {v2 : Nat} (hl : [FnReg.hlLog, FnReg.hlEntry, FnReg.hlWord].all (fun r => l.contains r) = true)
    (h : Keep FnReg.Same l a x) : Keep FnReg.Same l a { x with hlLog := v0, hlEntry := v1, hlWord := v2 } :=
  FnReg.then ⟨fun r hr => by cases r <;> first | rfl | exact absurd (by decide) hr⟩ hl h

theorem Fn.set_hlWord {l : List FnReg} {a x : Fn} {v0 : Nat} (hl : [FnReg.hlWord].all (fun r => l.contains r) = true)
    (h : Keep FnReg.Same l a x) : Keep FnReg.Same l a { x with hlWord := v0 } :=
  FnReg.then ⟨fun r hr => by cases r <;> first | rfl | exact absurd (by decide) hr⟩ hl h

theorem Fn.set_latch {l : List FnReg} {a x : Fn} {v0 : SMap (List W64)} (hl : [FnReg.latch].all (fun r => l.contains r) = true)
    (h : Keep FnReg.Same l a x) : Keep FnReg.Same l a { x with latch := v0 } :=
  FnReg.then ⟨fun r hr => by cases r <;> first | rfl | exact absurd (by decide) hr⟩ hl h

theorem Fn.set_msixEn {l : List FnReg} {a x : Fn} {v0 : Bool} (hl : [FnReg.msixEn].all (fun r => l.contains r) = true)
    (h : Keep FnReg.Same l a x) : Keep FnReg.Same l a { x with msixEn := v0 } :=
  FnReg.then ⟨fun r hr => by cases r <;> first | rfl | exact absurd (by decide) hr⟩ hl h

theorem Fn.set_pmeAtCold_vecs {l : List FnReg} {a x : Fn} {v0 : Bool} {v1 : SMap Vec} (hl : [FnReg.pmeAtCold, FnReg.vecs].all (fun r => l.contains r) = true)
    (h : Keep FnReg.Same l a x) : Keep FnReg.Same l a { x with pmeAtCold := v0, vecs := v1 } :=
  FnReg.then ⟨fun r hr => by cases r <;> first | rfl | exact absurd (by decide) hr⟩ hl h

theorem Fn.set_pmeEn_pmeStatus {l : List FnReg} {a x : Fn} {v0 : Bool} {v1 : Bool} (hl : [FnReg.pmeEn, FnReg.pmeStatus].all (fun r => l.contains r) = true)
    (h : Keep FnReg.Same l a x) : Keep FnReg.Same l a { x with pmeEn := v0, pmeStatus := v1 } :=
  FnReg.then ⟨fun r hr => by cases r <;> first | rfl | exact absurd (by decide) hr⟩ hl h

theorem Fn.set_pmeStatus {l : List FnReg} {a x : Fn} {v0 : Bool} (hl : [FnReg.pmeStatus].all (fun r => l.contains r) = true)
    (h : Keep FnReg.Same l a x) : Keep FnReg.Same l a { x with pmeStatus := v0 } :=
  FnReg.then ⟨fun r hr => by cases r <;> first | rfl | exact absurd (by decide) hr⟩ hl h

theorem Fn.set_present {l : List FnReg} {a x : Fn} {v0 : Bool} (hl : [FnReg.present].all (fun r => l.contains r) = true)
    (h : Keep FnReg.Same l a x) : Keep FnReg.Same l a { x with present := v0 } :=
  FnReg.then ⟨fun r hr => by cases r <;> first | rfl | exact absurd (by decide) hr⟩ hl h

theorem Fn.set_present_vecSize {l : List FnReg} {a x : Fn} {v0 : Bool} {v1 : Nat} (hl : [FnReg.present, FnReg.vecSize].all (fun r => l.contains r) = true)
    (h : Keep FnReg.Same l a x) : Keep FnReg.Same l a { x with present := v0, vecSize := v1 } :=
  FnReg.then ⟨fun r hr => by cases r <;> first | rfl | exact absurd (by decide) hr⟩ hl h

theorem Fn.set_qcLog2_qcVector_qcWake_qcCrcReq_qcIrqEn {l : List FnReg} {a x : Fn} {v0 : Nat} {v1 : Nat} {v2 : Bool} {v3 : Bool} {v4 : Bool} (hl : [FnReg.qcLog2, FnReg.qcVector, FnReg.qcWake, FnReg.qcCrcReq, FnReg.qcIrqEn].all (fun r => l.contains r) = true)
    (h : Keep FnReg.Same l a x) : Keep FnReg.Same l a { x with qcLog2 := v0, qcVector := v1, qcWake := v2, qcCrcReq := v3, qcIrqEn := v4 } :=
  FnReg.then ⟨fun r hr => by cases r <;> first | rfl | exact absurd (by decide) hr⟩ hl h

theorem Fn.set_qcRing {l : List FnReg} {a x : Fn} {v0 : Nat} (hl : [FnReg.qcRing].all (fun r => l.contains r) = true)
    (h : Keep FnReg.Same l a x) : Keep FnReg.Same l a { x with qcRing := v0 } :=
  FnReg.then ⟨fun r hr => by cases r <;> first | rfl | exact absurd (by decide) hr⟩ hl h

theorem Fn.set_qcRing_qcLog2_qcVector_qcWake_qcCrcReq_qcIrqEn_qcShadowEn_qcShadowAddr_cmdQueue_cmdCmd_cmdBusy_cmdLost_cmdResult_statSel_cmpSlot_cmpLen_cmpGo_cmpSpoiled_tkSel_tkSelBlob_bxImgAddr_hlLog_hlEntry_hlWord_certSel_certOff_latch {l : List FnReg} {a x : Fn} {v0 : Nat} {v1 : Nat} {v2 : Nat} {v3 : Bool} {v4 : Bool} {v5 : Bool} {v6 : Bool} {v7 : Nat} {v8 : Nat} {v9 : Nat} {v10 : Bool} {v11 : Bool} {v12 : Nat} {v13 : Nat} {v14 : Nat} {v15 : Nat} {v16 : Bool} {v17 : Bool} {v18 : Nat} {v19 : Bool} {v20 : Nat} {v21 : Nat} {v22 : Nat} {v23 : Nat} {v24 : Nat} {v25 : Nat} {v26 : SMap (List W64)} (hl : [FnReg.qcRing, FnReg.qcLog2, FnReg.qcVector, FnReg.qcWake, FnReg.qcCrcReq, FnReg.qcIrqEn, FnReg.qcShadowEn, FnReg.qcShadowAddr, FnReg.cmdQueue, FnReg.cmdCmd, FnReg.cmdBusy, FnReg.cmdLost, FnReg.cmdResult, FnReg.statSel, FnReg.cmpSlot, FnReg.cmpLen, FnReg.cmpGo, FnReg.cmpSpoiled, FnReg.tkSel, FnReg.tkSelBlob, FnReg.bxImgAddr, FnReg.hlLog, FnReg.hlEntry, FnReg.hlWord, FnReg.certSel, FnReg.certOff, FnReg.latch].all (fun r => l.contains r) = true)
    (h : Keep FnReg.Same l a x) : Keep FnReg.Same l a { x with qcRing := v0, qcLog2 := v1, qcVector := v2, qcWake := v3, qcCrcReq := v4, qcIrqEn := v5, qcShadowEn := v6, qcShadowAddr := v7, cmdQueue := v8, cmdCmd := v9, cmdBusy := v10, cmdLost := v11, cmdResult := v12, statSel := v13, cmpSlot := v14, cmpLen := v15, cmpGo := v16, cmpSpoiled := v17, tkSel := v18, tkSelBlob := v19, bxImgAddr := v20, hlLog := v21, hlEntry := v22, hlWord := v23, certSel := v24, certOff := v25, latch := v26 } :=
  FnReg.then ⟨fun r hr => by cases r <;> first | rfl | exact absurd (by decide) hr⟩ hl h

theorem Fn.set_qcShadowEn_qcShadowAddr {l : List FnReg} {a x : Fn} {v0 : Bool} {v1 : Nat} (hl : [FnReg.qcShadowEn, FnReg.qcShadowAddr].all (fun r => l.contains r) = true)
    (h : Keep FnReg.Same l a x) : Keep FnReg.Same l a { x with qcShadowEn := v0, qcShadowAddr := v1 } :=
  FnReg.then ⟨fun r hr => by cases r <;> first | rfl | exact absurd (by decide) hr⟩ hl h

theorem Fn.set_statSel {l : List FnReg} {a x : Fn} {v0 : Nat} (hl : [FnReg.statSel].all (fun r => l.contains r) = true)
    (h : Keep FnReg.Same l a x) : Keep FnReg.Same l a { x with statSel := v0 } :=
  FnReg.then ⟨fun r hr => by cases r <;> first | rfl | exact absurd (by decide) hr⟩ hl h

theorem Fn.set_tkSel_tkSelBlob {l : List FnReg} {a x : Fn} {v0 : Nat} {v1 : Bool} (hl : [FnReg.tkSel, FnReg.tkSelBlob].all (fun r => l.contains r) = true)
    (h : Keep FnReg.Same l a x) : Keep FnReg.Same l a { x with tkSel := v0, tkSelBlob := v1 } :=
  FnReg.then ⟨fun r hr => by cases r <;> first | rfl | exact absurd (by decide) hr⟩ hl h

theorem Fn.set_vecs {l : List FnReg} {a x : Fn} {v0 : SMap Vec} (hl : [FnReg.vecs].all (fun r => l.contains r) = true)
    (h : Keep FnReg.Same l a x) : Keep FnReg.Same l a { x with vecs := v0 } :=
  FnReg.then ⟨fun r hr => by cases r <;> first | rfl | exact absurd (by decide) hr⟩ hl h

theorem Hayloft.set_auditLog {l : List HlReg} {a x : Hayloft} {v0 : List (Nat × Nat × Nat)} (hl : [HlReg.auditLog].all (fun r => l.contains r) = true)
    (h : Keep HlReg.Same l a x) : Keep HlReg.Same l a { x with auditLog := v0 } :=
  HlReg.then ⟨fun r hr => by cases r <;> first | rfl | exact absurd (by decide) hr⟩ hl h

theorem Hayloft.set_blocks {l : List HlReg} {a x : Hayloft} {v0 : SMap NBlock} (hl : [HlReg.blocks].all (fun r => l.contains r) = true)
    (h : Keep HlReg.Same l a x) : Keep HlReg.Same l a { x with blocks := v0 } :=
  HlReg.then ⟨fun r hr => by cases r <;> first | rfl | exact absurd (by decide) hr⟩ hl h

theorem Hayloft.set_blocks_rebuilding_cmdErr {l : List HlReg} {a x : Hayloft} {v0 : SMap NBlock} {v1 : Bool} {v2 : Nat} (hl : [HlReg.blocks, HlReg.rebuilding, HlReg.cmdErr].all (fun r => l.contains r) = true)
    (h : Keep HlReg.Same l a x) : Keep HlReg.Same l a { x with blocks := v0, rebuilding := v1, cmdErr := v2 } :=
  HlReg.then ⟨fun r hr => by cases r <;> first | rfl | exact absurd (by decide) hr⟩ hl h

theorem Hayloft.set_boundB {l : List HlReg} {a x : Hayloft} {v0 : Nat} (hl : [HlReg.boundB].all (fun r => l.contains r) = true)
    (h : Keep HlReg.Same l a x) : Keep HlReg.Same l a { x with boundB := v0 } :=
  HlReg.then ⟨fun r hr => by cases r <;> first | rfl | exact absurd (by decide) hr⟩ hl h

theorem Hayloft.set_certs {l : List HlReg} {a x : Hayloft} {v0 : SMap Bytes} (hl : [HlReg.certs].all (fun r => l.contains r) = true)
    (h : Keep HlReg.Same l a x) : Keep HlReg.Same l a { x with certs := v0 } :=
  HlReg.then ⟨fun r hr => by cases r <;> first | rfl | exact absurd (by decide) hr⟩ hl h

theorem Hayloft.set_certs_certsNew {l : List HlReg} {a x : Hayloft} {v0 : SMap Bytes} {v1 : Option (List Bytes)} (hl : [HlReg.certs, HlReg.certsNew].all (fun r => l.contains r) = true)
    (h : Keep HlReg.Same l a x) : Keep HlReg.Same l a { x with certs := v0, certsNew := v1 } :=
  HlReg.then ⟨fun r hr => by cases r <;> first | rfl | exact absurd (by decide) hr⟩ hl h

theorem Hayloft.set_certsNew {l : List HlReg} {a x : Hayloft} {v0 : Option (List Bytes)} (hl : [HlReg.certsNew].all (fun r => l.contains r) = true)
    (h : Keep HlReg.Same l a x) : Keep HlReg.Same l a { x with certsNew := v0 } :=
  HlReg.then ⟨fun r hr => by cases r <;> first | rfl | exact absurd (by decide) hr⟩ hl h

theorem Hayloft.set_cmdErr {l : List HlReg} {a x : Hayloft} {v0 : Nat} (hl : [HlReg.cmdErr].all (fun r => l.contains r) = true)
    (h : Keep HlReg.Same l a x) : Keep HlReg.Same l a { x with cmdErr := v0 } :=
  HlReg.then ⟨fun r hr => by cases r <;> first | rfl | exact absurd (by decide) hr⟩ hl h

theorem Hayloft.set_dir0_dir1 {l : List HlReg} {a x : Hayloft} {v0 : Directory} {v1 : Directory} (hl : [HlReg.dir0, HlReg.dir1].all (fun r => l.contains r) = true)
    (h : Keep HlReg.Same l a x) : Keep HlReg.Same l a { x with dir0 := v0, dir1 := v1 } :=
  HlReg.then ⟨fun r hr => by cases r <;> first | rfl | exact absurd (by decide) hr⟩ hl h

theorem Hayloft.set_failed0 {l : List HlReg} {a x : Hayloft} {v0 : Bool} (hl : [HlReg.failed0].all (fun r => l.contains r) = true)
    (h : Keep HlReg.Same l a x) : Keep HlReg.Same l a { x with failed0 := v0 } :=
  HlReg.then ⟨fun r hr => by cases r <;> first | rfl | exact absurd (by decide) hr⟩ hl h

theorem Hayloft.set_failed0_failed1_ready_flushReady {l : List HlReg} {a x : Hayloft} {v0 : Bool} {v1 : Bool} {v2 : Bool} {v3 : Bool} (hl : [HlReg.failed0, HlReg.failed1, HlReg.ready, HlReg.flushReady].all (fun r => l.contains r) = true)
    (h : Keep HlReg.Same l a x) : Keep HlReg.Same l a { x with failed0 := v0, failed1 := v1, ready := v2, flushReady := v3 } :=
  HlReg.then ⟨fun r hr => by cases r <;> first | rfl | exact absurd (by decide) hr⟩ hl h

theorem Hayloft.set_failed1 {l : List HlReg} {a x : Hayloft} {v0 : Bool} (hl : [HlReg.failed1].all (fun r => l.contains r) = true)
    (h : Keep HlReg.Same l a x) : Keep HlReg.Same l a { x with failed1 := v0 } :=
  HlReg.then ⟨fun r hr => by cases r <;> first | rfl | exact absurd (by decide) hr⟩ hl h

theorem Hayloft.set_faultLog {l : List HlReg} {a x : Hayloft} {v0 : List (Nat × Nat × Nat)} (hl : [HlReg.faultLog].all (fun r => l.contains r) = true)
    (h : Keep HlReg.Same l a x) : Keep HlReg.Same l a { x with faultLog := v0 } :=
  HlReg.then ⟨fun r hr => by cases r <;> first | rfl | exact absurd (by decide) hr⟩ hl h

theorem Hayloft.set_flush {l : List HlReg} {a x : Hayloft} {v0 : FlushImage} (hl : [HlReg.flush].all (fun r => l.contains r) = true)
    (h : Keep HlReg.Same l a x) : Keep HlReg.Same l a { x with flush := v0 } :=
  HlReg.then ⟨fun r hr => by cases r <;> first | rfl | exact absurd (by decide) hr⟩ hl h

theorem Hayloft.set_geo {l : List HlReg} {a x : Hayloft} {v0 : Geometry} (hl : [HlReg.geo].all (fun r => l.contains r) = true)
    (h : Keep HlReg.Same l a x) : Keep HlReg.Same l a { x with geo := v0 } :=
  HlReg.then ⟨fun r hr => by cases r <;> first | rfl | exact absurd (by decide) hr⟩ hl h

theorem Hayloft.set_geo_targets_objs_certsNew_failed0_failed1_ready_rebuilding_spaceLow_flushReady_wpReleased_cmdErr_singleCopy_nf0_nf1 {l : List HlReg} {a x : Hayloft} {v0 : Geometry} {v1 : SMap Target} {v2 : SMap Obj} {v3 : Option (List Bytes)} {v4 : Bool} {v5 : Bool} {v6 : Bool} {v7 : Bool} {v8 : Bool} {v9 : Bool} {v10 : Bool} {v11 : Nat} {v12 : Nat} {v13 : NfBalls} {v14 : NfBalls} (hl : [HlReg.geo, HlReg.targets, HlReg.objs, HlReg.certsNew, HlReg.failed0, HlReg.failed1, HlReg.ready, HlReg.rebuilding, HlReg.spaceLow, HlReg.flushReady, HlReg.wpReleased, HlReg.cmdErr, HlReg.singleCopy, HlReg.nf0, HlReg.nf1].all (fun r => l.contains r) = true)
    (h : Keep HlReg.Same l a x) : Keep HlReg.Same l a { x with geo := v0, targets := v1, objs := v2, certsNew := v3, failed0 := v4, failed1 := v5, ready := v6, rebuilding := v7, spaceLow := v8, flushReady := v9, wpReleased := v10, cmdErr := v11, singleCopy := v12, nf0 := v13, nf1 := v14 } :=
  HlReg.then ⟨fun r hr => by cases r <;> first | rfl | exact absurd (by decide) hr⟩ hl h

theorem Hayloft.set_images {l : List HlReg} {a x : Hayloft} {v0 : SMap ImageCopy} (hl : [HlReg.images].all (fun r => l.contains r) = true)
    (h : Keep HlReg.Same l a x) : Keep HlReg.Same l a { x with images := v0 } :=
  HlReg.then ⟨fun r hr => by cases r <;> first | rfl | exact absurd (by decide) hr⟩ hl h

theorem Hayloft.set_objs {l : List HlReg} {a x : Hayloft} {v0 : SMap Obj} (hl : [HlReg.objs].all (fun r => l.contains r) = true)
    (h : Keep HlReg.Same l a x) : Keep HlReg.Same l a { x with objs := v0 } :=
  HlReg.then ⟨fun r hr => by cases r <;> first | rfl | exact absurd (by decide) hr⟩ hl h

theorem Hayloft.set_objs_rebuilding_flushReady_singleCopy {l : List HlReg} {a x : Hayloft} {v0 : SMap Obj} {v1 : Bool} {v2 : Bool} {v3 : Nat} (hl : [HlReg.objs, HlReg.rebuilding, HlReg.flushReady, HlReg.singleCopy].all (fun r => l.contains r) = true)
    (h : Keep HlReg.Same l a x) : Keep HlReg.Same l a { x with objs := v0, rebuilding := v1, flushReady := v2, singleCopy := v3 } :=
  HlReg.then ⟨fun r hr => by cases r <;> first | rfl | exact absurd (by decide) hr⟩ hl h

theorem Hayloft.set_partials_swapImage {l : List HlReg} {a x : Hayloft} {v0 : SMap Bytes} {v1 : Option (Nat × Bytes)} (hl : [HlReg.partials, HlReg.swapImage].all (fun r => l.contains r) = true)
    (h : Keep HlReg.Same l a x) : Keep HlReg.Same l a { x with partials := v0, swapImage := v1 } :=
  HlReg.then ⟨fun r hr => by cases r <;> first | rfl | exact absurd (by decide) hr⟩ hl h

theorem Hayloft.set_rebuilding_flushReady_singleCopy {l : List HlReg} {a x : Hayloft} {v0 : Bool} {v1 : Bool} {v2 : Nat} (hl : [HlReg.rebuilding, HlReg.flushReady, HlReg.singleCopy].all (fun r => l.contains r) = true)
    (h : Keep HlReg.Same l a x) : Keep HlReg.Same l a { x with rebuilding := v0, flushReady := v1, singleCopy := v2 } :=
  HlReg.then ⟨fun r hr => by cases r <;> first | rfl | exact absurd (by decide) hr⟩ hl h

theorem Hayloft.set_retireMap {l : List HlReg} {a x : Hayloft} {v0 : List Nat} (hl : [HlReg.retireMap].all (fun r => l.contains r) = true)
    (h : Keep HlReg.Same l a x) : Keep HlReg.Same l a { x with retireMap := v0 } :=
  HlReg.then ⟨fun r hr => by cases r <;> first | rfl | exact absurd (by decide) hr⟩ hl h

theorem Hayloft.set_serials {l : List HlReg} {a x : Hayloft} {v0 : SMap Nat} (hl : [HlReg.serials].all (fun r => l.contains r) = true)
    (h : Keep HlReg.Same l a x) : Keep HlReg.Same l a { x with serials := v0 } :=
  HlReg.then ⟨fun r hr => by cases r <;> first | rfl | exact absurd (by decide) hr⟩ hl h

theorem Hayloft.set_spaceLow {l : List HlReg} {a x : Hayloft} {v0 : Bool} (hl : [HlReg.spaceLow].all (fun r => l.contains r) = true)
    (h : Keep HlReg.Same l a x) : Keep HlReg.Same l a { x with spaceLow := v0 } :=
  HlReg.then ⟨fun r hr => by cases r <;> first | rfl | exact absurd (by decide) hr⟩ hl h

theorem Hayloft.set_swapImage {l : List HlReg} {a x : Hayloft} {v0 : Option (Nat × Bytes)} (hl : [HlReg.swapImage].all (fun r => l.contains r) = true)
    (h : Keep HlReg.Same l a x) : Keep HlReg.Same l a { x with swapImage := v0 } :=
  HlReg.then ⟨fun r hr => by cases r <;> first | rfl | exact absurd (by decide) hr⟩ hl h

theorem Hayloft.set_targets {l : List HlReg} {a x : Hayloft} {v0 : SMap Target} (hl : [HlReg.targets].all (fun r => l.contains r) = true)
    (h : Keep HlReg.Same l a x) : Keep HlReg.Same l a { x with targets := v0 } :=
  HlReg.then ⟨fun r hr => by cases r <;> first | rfl | exact absurd (by decide) hr⟩ hl h

theorem Hayloft.set_wpReleased_nf0_nf1 {l : List HlReg} {a x : Hayloft} {v0 : Bool} {v1 : NfBalls} {v2 : NfBalls} (hl : [HlReg.wpReleased, HlReg.nf0, HlReg.nf1].all (fun r => l.contains r) = true)
    (h : Keep HlReg.Same l a x) : Keep HlReg.Same l a { x with wpReleased := v0, nf0 := v1, nf1 := v2 } :=
  HlReg.then ⟨fun r hr => by cases r <;> first | rfl | exact absurd (by decide) hr⟩ hl h

theorem Journal.set_bank0_bank1_nextSeq_held {l : List JnReg} {a x : Journal} {v0 : Bool} {v1 : Bool} {v2 : Nat} {v3 : Bool} (hl : [JnReg.bank0, JnReg.bank1, JnReg.nextSeq, JnReg.held].all (fun r => l.contains r) = true)
    (h : Keep JnReg.Same l a x) : Keep JnReg.Same l a { x with bank0 := v0, bank1 := v1, nextSeq := v2, held := v3 } :=
  JnReg.then ⟨fun r hr => by cases r <;> first | rfl | exact absurd (by decide) hr⟩ hl h

theorem Journal.set_bootAfterFlush {l : List JnReg} {a x : Journal} {v0 : Option BootIn} (hl : [JnReg.bootAfterFlush].all (fun r => l.contains r) = true)
    (h : Keep JnReg.Same l a x) : Keep JnReg.Same l a { x with bootAfterFlush := v0 } :=
  JnReg.then ⟨fun r hr => by cases r <;> first | rfl | exact absurd (by decide) hr⟩ hl h

theorem Journal.set_deferNext {l : List JnReg} {a x : Journal} {v0 : Nat} (hl : [JnReg.deferNext].all (fun r => l.contains r) = true)
    (h : Keep JnReg.Same l a x) : Keep JnReg.Same l a { x with deferNext := v0 } :=
  JnReg.then ⟨fun r hr => by cases r <;> first | rfl | exact absurd (by decide) hr⟩ hl h

theorem Journal.set_flushRecords_flushUs_flushResult_flushSeq {l : List JnReg} {a x : Journal} {v0 : Nat} {v1 : Nat} {v2 : Nat} {v3 : Nat} (hl : [JnReg.flushRecords, JnReg.flushUs, JnReg.flushResult, JnReg.flushSeq].all (fun r => l.contains r) = true)
    (h : Keep JnReg.Same l a x) : Keep JnReg.Same l a { x with flushRecords := v0, flushUs := v1, flushResult := v2, flushSeq := v3 } :=
  JnReg.then ⟨fun r hr => by cases r <;> first | rfl | exact absurd (by decide) hr⟩ hl h

theorem Journal.set_flushWait {l : List JnReg} {a x : Journal} {v0 : Bool} (hl : [JnReg.flushWait].all (fun r => l.contains r) = true)
    (h : Keep JnReg.Same l a x) : Keep JnReg.Same l a { x with flushWait := v0 } :=
  JnReg.then ⟨fun r hr => by cases r <;> first | rfl | exact absurd (by decide) hr⟩ hl h

theorem Journal.set_fromFlush_term_nextSeq_seq {l : List JnReg} {a x : Journal} {v0 : Bool} {v1 : Nat} {v2 : Nat} {v3 : Nat} (hl : [JnReg.fromFlush, JnReg.term, JnReg.nextSeq, JnReg.seq].all (fun r => l.contains r) = true)
    (h : Keep JnReg.Same l a x) : Keep JnReg.Same l a { x with fromFlush := v0, term := v1, nextSeq := v2, seq := v3 } :=
  JnReg.then ⟨fun r hr => by cases r <;> first | rfl | exact absurd (by decide) hr⟩ hl h

theorem Journal.set_held {l : List JnReg} {a x : Journal} {v0 : Bool} (hl : [JnReg.held].all (fun r => l.contains r) = true)
    (h : Keep JnReg.Same l a x) : Keep JnReg.Same l a { x with held := v0 } :=
  JnReg.then ⟨fun r hr => by cases r <;> first | rfl | exact absurd (by decide) hr⟩ hl h

theorem Journal.set_lost_nextSeq {l : List JnReg} {a x : Journal} {v0 : Bool} {v1 : Nat} (hl : [JnReg.lost, JnReg.nextSeq].all (fun r => l.contains r) = true)
    (h : Keep JnReg.Same l a x) : Keep JnReg.Same l a { x with lost := v0, nextSeq := v1 } :=
  JnReg.then ⟨fun r hr => by cases r <;> first | rfl | exact absurd (by decide) hr⟩ hl h

theorem Journal.set_nextSeq {l : List JnReg} {a x : Journal} {v0 : Nat} (hl : [JnReg.nextSeq].all (fun r => l.contains r) = true)
    (h : Keep JnReg.Same l a x) : Keep JnReg.Same l a { x with nextSeq := v0 } :=
  JnReg.then ⟨fun r hr => by cases r <;> first | rfl | exact absurd (by decide) hr⟩ hl h

theorem Journal.set_opened {l : List JnReg} {a x : Journal} {v0 : Bool} (hl : [JnReg.opened].all (fun r => l.contains r) = true)
    (h : Keep JnReg.Same l a x) : Keep JnReg.Same l a { x with opened := v0 } :=
  JnReg.then ⟨fun r hr => by cases r <;> first | rfl | exact absurd (by decide) hr⟩ hl h

theorem Journal.set_opened_bank0_bank1_fromFlush_lost_shutdownDone_role_term_nextSeq_seq_shutting_flushFrom_flushWait_bootAfterFlush_held_deferNext_rr {l : List JnReg} {a x : Journal} {v0 : Bool} {v1 : Bool} {v2 : Bool} {v3 : Bool} {v4 : Bool} {v5 : Bool} {v6 : Nat} {v7 : Nat} {v8 : Nat} {v9 : Nat} {v10 : Bool} {v11 : Nat} {v12 : Bool} {v13 : Option BootIn} {v14 : Bool} {v15 : Nat} {v16 : Nat} (hl : [JnReg.opened, JnReg.bank0, JnReg.bank1, JnReg.fromFlush, JnReg.lost, JnReg.shutdownDone, JnReg.role, JnReg.term, JnReg.nextSeq, JnReg.seq, JnReg.shutting, JnReg.flushFrom, JnReg.flushWait, JnReg.bootAfterFlush, JnReg.held, JnReg.deferNext, JnReg.rr].all (fun r => l.contains r) = true)
    (h : Keep JnReg.Same l a x) : Keep JnReg.Same l a { x with opened := v0, bank0 := v1, bank1 := v2, fromFlush := v3, lost := v4, shutdownDone := v5, role := v6, term := v7, nextSeq := v8, seq := v9, shutting := v10, flushFrom := v11, flushWait := v12, bootAfterFlush := v13, held := v14, deferNext := v15, rr := v16 } :=
  JnReg.then ⟨fun r hr => by cases r <;> first | rfl | exact absurd (by decide) hr⟩ hl h

theorem Journal.set_opened_flushFrom {l : List JnReg} {a x : Journal} {v0 : Bool} {v1 : Nat} (hl : [JnReg.opened, JnReg.flushFrom].all (fun r => l.contains r) = true)
    (h : Keep JnReg.Same l a x) : Keep JnReg.Same l a { x with opened := v0, flushFrom := v1 } :=
  JnReg.then ⟨fun r hr => by cases r <;> first | rfl | exact absurd (by decide) hr⟩ hl h

theorem Journal.set_opened_held {l : List JnReg} {a x : Journal} {v0 : Bool} {v1 : Bool} (hl : [JnReg.opened, JnReg.held].all (fun r => l.contains r) = true)
    (h : Keep JnReg.Same l a x) : Keep JnReg.Same l a { x with opened := v0, held := v1 } :=
  JnReg.then ⟨fun r hr => by cases r <;> first | rfl | exact absurd (by decide) hr⟩ hl h

theorem Journal.set_recDigests {l : List JnReg} {a x : Journal} {v0 : SMap Bytes} (hl : [JnReg.recDigests].all (fun r => l.contains r) = true)
    (h : Keep JnReg.Same l a x) : Keep JnReg.Same l a { x with recDigests := v0 } :=
  JnReg.then ⟨fun r hr => by cases r <;> first | rfl | exact absurd (by decide) hr⟩ hl h

theorem Journal.set_role {l : List JnReg} {a x : Journal} {v0 : Nat} (hl : [JnReg.role].all (fun r => l.contains r) = true)
    (h : Keep JnReg.Same l a x) : Keep JnReg.Same l a { x with role := v0 } :=
  JnReg.then ⟨fun r hr => by cases r <;> first | rfl | exact absurd (by decide) hr⟩ hl h

theorem Journal.set_role_term {l : List JnReg} {a x : Journal} {v0 : Nat} {v1 : Nat} (hl : [JnReg.role, JnReg.term].all (fun r => l.contains r) = true)
    (h : Keep JnReg.Same l a x) : Keep JnReg.Same l a { x with role := v0, term := v1 } :=
  JnReg.then ⟨fun r hr => by cases r <;> first | rfl | exact absurd (by decide) hr⟩ hl h

theorem Journal.set_rr {l : List JnReg} {a x : Journal} {v0 : Nat} (hl : [JnReg.rr].all (fun r => l.contains r) = true)
    (h : Keep JnReg.Same l a x) : Keep JnReg.Same l a { x with rr := v0 } :=
  JnReg.then ⟨fun r hr => by cases r <;> first | rfl | exact absurd (by decide) hr⟩ hl h

theorem Journal.set_seq {l : List JnReg} {a x : Journal} {v0 : Nat} (hl : [JnReg.seq].all (fun r => l.contains r) = true)
    (h : Keep JnReg.Same l a x) : Keep JnReg.Same l a { x with seq := v0 } :=
  JnReg.then ⟨fun r hr => by cases r <;> first | rfl | exact absurd (by decide) hr⟩ hl h

theorem Journal.set_shutdownDone_shutting {l : List JnReg} {a x : Journal} {v0 : Bool} {v1 : Bool} (hl : [JnReg.shutdownDone, JnReg.shutting].all (fun r => l.contains r) = true)
    (h : Keep JnReg.Same l a x) : Keep JnReg.Same l a { x with shutdownDone := v0, shutting := v1 } :=
  JnReg.then ⟨fun r hr => by cases r <;> first | rfl | exact absurd (by decide) hr⟩ hl h

theorem Journal.set_shutting {l : List JnReg} {a x : Journal} {v0 : Bool} (hl : [JnReg.shutting].all (fun r => l.contains r) = true)
    (h : Keep JnReg.Same l a x) : Keep JnReg.Same l a { x with shutting := v0 } :=
  JnReg.then ⟨fun r hr => by cases r <;> first | rfl | exact absurd (by decide) hr⟩ hl h

theorem Journal.set_term {l : List JnReg} {a x : Journal} {v0 : Nat} (hl : [JnReg.term].all (fun r => l.contains r) = true)
    (h : Keep JnReg.Same l a x) : Keep JnReg.Same l a { x with term := v0 } :=
  JnReg.then ⟨fun r hr => by cases r <;> first | rfl | exact absurd (by decide) hr⟩ hl h

theorem LifeCycle.set_busy_err_step_token {l : List LcReg} {a x : LifeCycle} {v0 : Bool} {v1 : Nat} {v2 : Nat} {v3 : Bytes} (hl : [LcReg.busy, LcReg.err, LcReg.step, LcReg.token].all (fun r => l.contains r) = true)
    (h : Keep LcReg.Same l a x) : Keep LcReg.Same l a { x with busy := v0, err := v1, step := v2, token := v3 } :=
  LcReg.then ⟨fun r hr => by cases r <;> first | rfl | exact absurd (by decide) hr⟩ hl h

theorem LifeCycle.set_busy_resetRequired_step_token {l : List LcReg} {a x : LifeCycle} {v0 : Bool} {v1 : Bool} {v2 : Nat} {v3 : Bytes} (hl : [LcReg.busy, LcReg.resetRequired, LcReg.step, LcReg.token].all (fun r => l.contains r) = true)
    (h : Keep LcReg.Same l a x) : Keep LcReg.Same l a { x with busy := v0, resetRequired := v1, step := v2, token := v3 } :=
  LcReg.then ⟨fun r hr => by cases r <;> first | rfl | exact absurd (by decide) hr⟩ hl h

theorem LifeCycle.set_debugRecs {l : List LcReg} {a x : LifeCycle} {v0 : SMap (Option DebugRec)} (hl : [LcReg.debugRecs].all (fun r => l.contains r) = true)
    (h : Keep LcReg.Same l a x) : Keep LcReg.Same l a { x with debugRecs := v0 } :=
  LcReg.then ⟨fun r hr => by cases r <;> first | rfl | exact absurd (by decide) hr⟩ hl h

theorem LifeCycle.set_decoded_state_epoch_ownerDigest_seq {l : List LcReg} {a x : LifeCycle} {v0 : Bool} {v1 : Nat} {v2 : Nat} {v3 : Bytes} {v4 : Nat} (hl : [LcReg.decoded, LcReg.state, LcReg.epoch, LcReg.ownerDigest, LcReg.seq].all (fun r => l.contains r) = true)
    (h : Keep LcReg.Same l a x) : Keep LcReg.Same l a { x with decoded := v0, state := v1, epoch := v2, ownerDigest := v3, seq := v4 } :=
  LcReg.then ⟨fun r hr => by cases r <;> first | rfl | exact absurd (by decide) hr⟩ hl h

theorem LifeCycle.set_err {l : List LcReg} {a x : LifeCycle} {v0 : Nat} (hl : [LcReg.err].all (fun r => l.contains r) = true)
    (h : Keep LcReg.Same l a x) : Keep LcReg.Same l a { x with err := v0 } :=
  LcReg.then ⟨fun r hr => by cases r <;> first | rfl | exact absurd (by decide) hr⟩ hl h

theorem LifeCycle.set_floorRecs {l : List LcReg} {a x : LifeCycle} {v0 : SMap (Option FloorRec)} (hl : [LcReg.floorRecs].all (fun r => l.contains r) = true)
    (h : Keep LcReg.Same l a x) : Keep LcReg.Same l a { x with floorRecs := v0 } :=
  LcReg.then ⟨fun r hr => by cases r <;> first | rfl | exact absurd (by decide) hr⟩ hl h

theorem LifeCycle.set_identity {l : List LcReg} {a x : LifeCycle} {v0 : Bool} (hl : [LcReg.identity].all (fun r => l.contains r) = true)
    (h : Keep LcReg.Same l a x) : Keep LcReg.Same l a { x with identity := v0 } :=
  LcReg.then ⟨fun r hr => by cases r <;> first | rfl | exact absurd (by decide) hr⟩ hl h

theorem LifeCycle.set_rootPresent_deviceRoot_deviceNumber {l : List LcReg} {a x : LifeCycle} {v0 : Bool} {v1 : Bytes} {v2 : Nat} (hl : [LcReg.rootPresent, LcReg.deviceRoot, LcReg.deviceNumber].all (fun r => l.contains r) = true)
    (h : Keep LcReg.Same l a x) : Keep LcReg.Same l a { x with rootPresent := v0, deviceRoot := v1, deviceNumber := v2 } :=
  LcReg.then ⟨fun r hr => by cases r <;> first | rfl | exact absurd (by decide) hr⟩ hl h

theorem LifeCycle.set_slots {l : List LcReg} {a x : LifeCycle} {v0 : SMap LedgerSlot} (hl : [LcReg.slots].all (fun r => l.contains r) = true)
    (h : Keep LcReg.Same l a x) : Keep LcReg.Same l a { x with slots := v0 } :=
  LcReg.then ⟨fun r hr => by cases r <;> first | rfl | exact absurd (by decide) hr⟩ hl h

theorem LifeCycle.set_slots_busy_step_token {l : List LcReg} {a x : LifeCycle} {v0 : SMap LedgerSlot} {v1 : Bool} {v2 : Nat} {v3 : Bytes} (hl : [LcReg.slots, LcReg.busy, LcReg.step, LcReg.token].all (fun r => l.contains r) = true)
    (h : Keep LcReg.Same l a x) : Keep LcReg.Same l a { x with slots := v0, busy := v1, step := v2, token := v3 } :=
  LcReg.then ⟨fun r hr => by cases r <;> first | rfl | exact absurd (by decide) hr⟩ hl h

theorem LifeCycle.set_slots_decoded_state_epoch_ownerDigest_seq_busy_resetRequired_err_step_token_tokenAddr_tokenLen {l : List LcReg} {a x : LifeCycle} {v0 : SMap LedgerSlot} {v1 : Bool} {v2 : Nat} {v3 : Nat} {v4 : Bytes} {v5 : Nat} {v6 : Bool} {v7 : Bool} {v8 : Nat} {v9 : Nat} {v10 : Bytes} {v11 : Nat} {v12 : Nat} (hl : [LcReg.slots, LcReg.decoded, LcReg.state, LcReg.epoch, LcReg.ownerDigest, LcReg.seq, LcReg.busy, LcReg.resetRequired, LcReg.err, LcReg.step, LcReg.token, LcReg.tokenAddr, LcReg.tokenLen].all (fun r => l.contains r) = true)
    (h : Keep LcReg.Same l a x) : Keep LcReg.Same l a { x with slots := v0, decoded := v1, state := v2, epoch := v3, ownerDigest := v4, seq := v5, busy := v6, resetRequired := v7, err := v8, step := v9, token := v10, tokenAddr := v11, tokenLen := v12 } :=
  LcReg.then ⟨fun r hr => by cases r <;> first | rfl | exact absurd (by decide) hr⟩ hl h

theorem LifeCycle.set_step {l : List LcReg} {a x : LifeCycle} {v0 : Nat} (hl : [LcReg.step].all (fun r => l.contains r) = true)
    (h : Keep LcReg.Same l a x) : Keep LcReg.Same l a { x with step := v0 } :=
  LcReg.then ⟨fun r hr => by cases r <;> first | rfl | exact absurd (by decide) hr⟩ hl h

theorem LifeCycle.set_tokenAddr {l : List LcReg} {a x : LifeCycle} {v0 : Nat} (hl : [LcReg.tokenAddr].all (fun r => l.contains r) = true)
    (h : Keep LcReg.Same l a x) : Keep LcReg.Same l a { x with tokenAddr := v0 } :=
  LcReg.then ⟨fun r hr => by cases r <;> first | rfl | exact absurd (by decide) hr⟩ hl h

theorem LifeCycle.set_tokenAddr_tokenLen {l : List LcReg} {a x : LifeCycle} {v0 : Nat} {v1 : Nat} (hl : [LcReg.tokenAddr, LcReg.tokenLen].all (fun r => l.contains r) = true)
    (h : Keep LcReg.Same l a x) : Keep LcReg.Same l a { x with tokenAddr := v0, tokenLen := v1 } :=
  LcReg.then ⟨fun r hr => by cases r <;> first | rfl | exact absurd (by decide) hr⟩ hl h

theorem LifeCycle.set_tokenLen {l : List LcReg} {a x : LifeCycle} {v0 : Nat} (hl : [LcReg.tokenLen].all (fun r => l.contains r) = true)
    (h : Keep LcReg.Same l a x) : Keep LcReg.Same l a { x with tokenLen := v0 } :=
  LcReg.then ⟨fun r hr => by cases r <;> first | rfl | exact absurd (by decide) hr⟩ hl h

theorem Links.set_sel_selTarget {l : List LkReg} {a x : Links} {v0 : Nat} {v1 : Nat} (hl : [LkReg.sel, LkReg.selTarget].all (fun r => l.contains r) = true)
    (h : Keep LkReg.Same l a x) : Keep LkReg.Same l a { x with sel := v0, selTarget := v1 } :=
  LkReg.then ⟨fun r hr => by cases r <;> first | rfl | exact absurd (by decide) hr⟩ hl h

theorem Links.set_tests {l : List LkReg} {a x : Links} {v0 : SMap LinkTest} (hl : [LkReg.tests].all (fun r => l.contains r) = true)
    (h : Keep LkReg.Same l a x) : Keep LkReg.Same l a { x with tests := v0 } :=
  LkReg.then ⟨fun r hr => by cases r <;> first | rfl | exact absurd (by decide) hr⟩ hl h

theorem Pad.set_cacheLost {l : List PadReg} {a x : Pad} {v0 : Nat} (hl : [PadReg.cacheLost].all (fun r => l.contains r) = true)
    (h : Keep PadReg.Same l a x) : Keep PadReg.Same l a { x with cacheLost := v0 } :=
  PadReg.then ⟨fun r hr => by cases r <;> first | rfl | exact absurd (by decide) hr⟩ hl h

theorem Pad.set_caps {l : List PadReg} {a x : Pad} {v0 : SMap CapSlot} (hl : [PadReg.caps].all (fun r => l.contains r) = true)
    (h : Keep PadReg.Same l a x) : Keep PadReg.Same l a { x with caps := v0 } :=
  PadReg.then ⟨fun r hr => by cases r <;> first | rfl | exact absurd (by decide) hr⟩ hl h

theorem Pad.set_caps_curGen_genDue {l : List PadReg} {a x : Pad} {v0 : SMap CapSlot} {v1 : Option Nat} {v2 : Bool} (hl : [PadReg.caps, PadReg.curGen, PadReg.genDue].all (fun r => l.contains r) = true)
    (h : Keep PadReg.Same l a x) : Keep PadReg.Same l a { x with caps := v0, curGen := v1, genDue := v2 } :=
  PadReg.then ⟨fun r hr => by cases r <;> first | rfl | exact absurd (by decide) hr⟩ hl h

theorem Pad.set_caps_curGen_genDue_drbg_results_mrs_haltLog_haltOverflow_paused_snaps_diags_extendLost_replayOwed_waitFor_containedUs_resetStalls_resetSeed {l : List PadReg} {a x : Pad} {v0 : SMap CapSlot} {v1 : Option Nat} {v2 : Bool} {v3 : Drbg} {v4 : SMap ResSlot} {v5 : SMap Bytes} {v6 : List (Nat × Nat)} {v7 : Bool} {v8 : Bool} {v9 : SMap Snapshot} {v10 : List Diag} {v11 : Bool} {v12 : Bool} {v13 : Option Nat} {v14 : Option Nat} {v15 : List Nat} {v16 : Bool} (hl : [PadReg.caps, PadReg.curGen, PadReg.genDue, PadReg.drbg, PadReg.results, PadReg.mrs, PadReg.haltLog, PadReg.haltOverflow, PadReg.paused, PadReg.snaps, PadReg.diags, PadReg.extendLost, PadReg.replayOwed, PadReg.waitFor, PadReg.containedUs, PadReg.resetStalls, PadReg.resetSeed].all (fun r => l.contains r) = true)
    (h : Keep PadReg.Same l a x) : Keep PadReg.Same l a { x with caps := v0, curGen := v1, genDue := v2, drbg := v3, results := v4, mrs := v5, haltLog := v6, haltOverflow := v7, paused := v8, snaps := v9, diags := v10, extendLost := v11, replayOwed := v12, waitFor := v13, containedUs := v14, resetStalls := v15, resetSeed := v16 } :=
  PadReg.then ⟨fun r hr => by cases r <;> first | rfl | exact absurd (by decide) hr⟩ hl h

theorem Pad.set_caps_curGen_genDue_results_mrs_haltLog_haltOverflow_paused_snaps_diags_extendLost_replayOwed_waitFor_containedUs_resetStalls_resetSeed_cacheLost {l : List PadReg} {a x : Pad} {v0 : SMap CapSlot} {v1 : Option Nat} {v2 : Bool} {v3 : SMap ResSlot} {v4 : SMap Bytes} {v5 : List (Nat × Nat)} {v6 : Bool} {v7 : Bool} {v8 : SMap Snapshot} {v9 : List Diag} {v10 : Bool} {v11 : Bool} {v12 : Option Nat} {v13 : Option Nat} {v14 : List Nat} {v15 : Bool} {v16 : Nat} (hl : [PadReg.caps, PadReg.curGen, PadReg.genDue, PadReg.results, PadReg.mrs, PadReg.haltLog, PadReg.haltOverflow, PadReg.paused, PadReg.snaps, PadReg.diags, PadReg.extendLost, PadReg.replayOwed, PadReg.waitFor, PadReg.containedUs, PadReg.resetStalls, PadReg.resetSeed, PadReg.cacheLost].all (fun r => l.contains r) = true)
    (h : Keep PadReg.Same l a x) : Keep PadReg.Same l a { x with caps := v0, curGen := v1, genDue := v2, results := v3, mrs := v4, haltLog := v5, haltOverflow := v6, paused := v7, snaps := v8, diags := v9, extendLost := v10, replayOwed := v11, waitFor := v12, containedUs := v13, resetStalls := v14, resetSeed := v15, cacheLost := v16 } :=
  PadReg.then ⟨fun r hr => by cases r <;> first | rfl | exact absurd (by decide) hr⟩ hl h

theorem Pad.set_caps_curGen_snaps {l : List PadReg} {a x : Pad} {v0 : SMap CapSlot} {v1 : Option Nat} {v2 : SMap Snapshot} (hl : [PadReg.caps, PadReg.curGen, PadReg.snaps].all (fun r => l.contains r) = true)
    (h : Keep PadReg.Same l a x) : Keep PadReg.Same l a { x with caps := v0, curGen := v1, snaps := v2 } :=
  PadReg.then ⟨fun r hr => by cases r <;> first | rfl | exact absurd (by decide) hr⟩ hl h

theorem Pad.set_caps_genDue {l : List PadReg} {a x : Pad} {v0 : SMap CapSlot} {v1 : Bool} (hl : [PadReg.caps, PadReg.genDue].all (fun r => l.contains r) = true)
    (h : Keep PadReg.Same l a x) : Keep PadReg.Same l a { x with caps := v0, genDue := v1 } :=
  PadReg.then ⟨fun r hr => by cases r <;> first | rfl | exact absurd (by decide) hr⟩ hl h

theorem Pad.set_caps_snaps {l : List PadReg} {a x : Pad} {v0 : SMap CapSlot} {v1 : SMap Snapshot} (hl : [PadReg.caps, PadReg.snaps].all (fun r => l.contains r) = true)
    (h : Keep PadReg.Same l a x) : Keep PadReg.Same l a { x with caps := v0, snaps := v1 } :=
  PadReg.then ⟨fun r hr => by cases r <;> first | rfl | exact absurd (by decide) hr⟩ hl h

theorem Pad.set_containedUs {l : List PadReg} {a x : Pad} {v0 : Option Nat} (hl : [PadReg.containedUs].all (fun r => l.contains r) = true)
    (h : Keep PadReg.Same l a x) : Keep PadReg.Same l a { x with containedUs := v0 } :=
  PadReg.then ⟨fun r hr => by cases r <;> first | rfl | exact absurd (by decide) hr⟩ hl h

theorem Pad.set_curGen_genDue_drbg_results_mrs_haltLog_haltOverflow_paused_snaps_diags_extendLost_replayOwed_waitFor_containedUs_resetStalls_resetSeed_cacheLost {l : List PadReg} {a x : Pad} {v0 : Option Nat} {v1 : Bool} {v2 : Drbg} {v3 : SMap ResSlot} {v4 : SMap Bytes} {v5 : List (Nat × Nat)} {v6 : Bool} {v7 : Bool} {v8 : SMap Snapshot} {v9 : List Diag} {v10 : Bool} {v11 : Bool} {v12 : Option Nat} {v13 : Option Nat} {v14 : List Nat} {v15 : Bool} {v16 : Nat} (hl : [PadReg.curGen, PadReg.genDue, PadReg.drbg, PadReg.results, PadReg.mrs, PadReg.haltLog, PadReg.haltOverflow, PadReg.paused, PadReg.snaps, PadReg.diags, PadReg.extendLost, PadReg.replayOwed, PadReg.waitFor, PadReg.containedUs, PadReg.resetStalls, PadReg.resetSeed, PadReg.cacheLost].all (fun r => l.contains r) = true)
    (h : Keep PadReg.Same l a x) : Keep PadReg.Same l a { x with curGen := v0, genDue := v1, drbg := v2, results := v3, mrs := v4, haltLog := v5, haltOverflow := v6, paused := v7, snaps := v8, diags := v9, extendLost := v10, replayOwed := v11, waitFor := v12, containedUs := v13, resetStalls := v14, resetSeed := v15, cacheLost := v16 } :=
  PadReg.then ⟨fun r hr => by cases r <;> first | rfl | exact absurd (by decide) hr⟩ hl h

theorem Pad.set_diags {l : List PadReg} {a x : Pad} {v0 : List Diag} (hl : [PadReg.diags].all (fun r => l.contains r) = true)
    (h : Keep PadReg.Same l a x) : Keep PadReg.Same l a { x with diags := v0 } :=
  PadReg.then ⟨fun r hr => by cases r <;> first | rfl | exact absurd (by decide) hr⟩ hl h

theorem Pad.set_drbg {l : List PadReg} {a x : Pad} {v0 : Drbg} (hl : [PadReg.drbg].all (fun r => l.contains r) = true)
    (h : Keep PadReg.Same l a x) : Keep PadReg.Same l a { x with drbg := v0 } :=
  PadReg.then ⟨fun r hr => by cases r <;> first | rfl | exact absurd (by decide) hr⟩ hl h

theorem Pad.set_drbg_resetSeed {l : List PadReg} {a x : Pad} {v0 : Drbg} {v1 : Bool} (hl : [PadReg.drbg, PadReg.resetSeed].all (fun r => l.contains r) = true)
    (h : Keep PadReg.Same l a x) : Keep PadReg.Same l a { x with drbg := v0, resetSeed := v1 } :=
  PadReg.then ⟨fun r hr => by cases r <;> first | rfl | exact absurd (by decide) hr⟩ hl h

theorem Pad.set_extendLost {l : List PadReg} {a x : Pad} {v0 : Bool} (hl : [PadReg.extendLost].all (fun r => l.contains r) = true)
    (h : Keep PadReg.Same l a x) : Keep PadReg.Same l a { x with extendLost := v0 } :=
  PadReg.then ⟨fun r hr => by cases r <;> first | rfl | exact absurd (by decide) hr⟩ hl h

theorem Pad.set_genDue {l : List PadReg} {a x : Pad} {v0 : Bool} (hl : [PadReg.genDue].all (fun r => l.contains r) = true)
    (h : Keep PadReg.Same l a x) : Keep PadReg.Same l a { x with genDue := v0 } :=
  PadReg.then ⟨fun r hr => by cases r <;> first | rfl | exact absurd (by decide) hr⟩ hl h

theorem Pad.set_genDue_inc {l : List PadReg} {a x : Pad} {v0 : Bool} {v1 : Nat} (hl : [PadReg.genDue, PadReg.inc].all (fun r => l.contains r) = true)
    (h : Keep PadReg.Same l a x) : Keep PadReg.Same l a { x with genDue := v0, inc := v1 } :=
  PadReg.then ⟨fun r hr => by cases r <;> first | rfl | exact absurd (by decide) hr⟩ hl h

theorem Pad.set_genDue_mrs_extendLost_waitFor_resetStalls {l : List PadReg} {a x : Pad} {v0 : Bool} {v1 : SMap Bytes} {v2 : Bool} {v3 : Option Nat} {v4 : List Nat} (hl : [PadReg.genDue, PadReg.mrs, PadReg.extendLost, PadReg.waitFor, PadReg.resetStalls].all (fun r => l.contains r) = true)
    (h : Keep PadReg.Same l a x) : Keep PadReg.Same l a { x with genDue := v0, mrs := v1, extendLost := v2, waitFor := v3, resetStalls := v4 } :=
  PadReg.then ⟨fun r hr => by cases r <;> first | rfl | exact absurd (by decide) hr⟩ hl h

theorem Pad.set_haltLog {l : List PadReg} {a x : Pad} {v0 : List (Nat × Nat)} (hl : [PadReg.haltLog].all (fun r => l.contains r) = true)
    (h : Keep PadReg.Same l a x) : Keep PadReg.Same l a { x with haltLog := v0 } :=
  PadReg.then ⟨fun r hr => by cases r <;> first | rfl | exact absurd (by decide) hr⟩ hl h

theorem Pad.set_haltOverflow {l : List PadReg} {a x : Pad} {v0 : Bool} (hl : [PadReg.haltOverflow].all (fun r => l.contains r) = true)
    (h : Keep PadReg.Same l a x) : Keep PadReg.Same l a { x with haltOverflow := v0 } :=
  PadReg.then ⟨fun r hr => by cases r <;> first | rfl | exact absurd (by decide) hr⟩ hl h

theorem Pad.set_inc {l : List PadReg} {a x : Pad} {v0 : Nat} (hl : [PadReg.inc].all (fun r => l.contains r) = true)
    (h : Keep PadReg.Same l a x) : Keep PadReg.Same l a { x with inc := v0 } :=
  PadReg.then ⟨fun r hr => by cases r <;> first | rfl | exact absurd (by decide) hr⟩ hl h

theorem Pad.set_mrs {l : List PadReg} {a x : Pad} {v0 : SMap Bytes} (hl : [PadReg.mrs].all (fun r => l.contains r) = true)
    (h : Keep PadReg.Same l a x) : Keep PadReg.Same l a { x with mrs := v0 } :=
  PadReg.then ⟨fun r hr => by cases r <;> first | rfl | exact absurd (by decide) hr⟩ hl h

theorem Pad.set_paused {l : List PadReg} {a x : Pad} {v0 : Bool} (hl : [PadReg.paused].all (fun r => l.contains r) = true)
    (h : Keep PadReg.Same l a x) : Keep PadReg.Same l a { x with paused := v0 } :=
  PadReg.then ⟨fun r hr => by cases r <;> first | rfl | exact absurd (by decide) hr⟩ hl h

theorem Pad.set_replayOwed {l : List PadReg} {a x : Pad} {v0 : Bool} (hl : [PadReg.replayOwed].all (fun r => l.contains r) = true)
    (h : Keep PadReg.Same l a x) : Keep PadReg.Same l a { x with replayOwed := v0 } :=
  PadReg.then ⟨fun r hr => by cases r <;> first | rfl | exact absurd (by decide) hr⟩ hl h

theorem Pad.set_resetSeed {l : List PadReg} {a x : Pad} {v0 : Bool} (hl : [PadReg.resetSeed].all (fun r => l.contains r) = true)
    (h : Keep PadReg.Same l a x) : Keep PadReg.Same l a { x with resetSeed := v0 } :=
  PadReg.then ⟨fun r hr => by cases r <;> first | rfl | exact absurd (by decide) hr⟩ hl h

theorem Pad.set_resetStalls {l : List PadReg} {a x : Pad} {v0 : List Nat} (hl : [PadReg.resetStalls].all (fun r => l.contains r) = true)
    (h : Keep PadReg.Same l a x) : Keep PadReg.Same l a { x with resetStalls := v0 } :=
  PadReg.then ⟨fun r hr => by cases r <;> first | rfl | exact absurd (by decide) hr⟩ hl h

theorem Pad.set_results {l : List PadReg} {a x : Pad} {v0 : SMap ResSlot} (hl : [PadReg.results].all (fun r => l.contains r) = true)
    (h : Keep PadReg.Same l a x) : Keep PadReg.Same l a { x with results := v0 } :=
  PadReg.then ⟨fun r hr => by cases r <;> first | rfl | exact absurd (by decide) hr⟩ hl h

theorem Pad.set_results_mrs_haltLog_haltOverflow_paused_extendLost_waitFor {l : List PadReg} {a x : Pad} {v0 : SMap ResSlot} {v1 : SMap Bytes} {v2 : List (Nat × Nat)} {v3 : Bool} {v4 : Bool} {v5 : Bool} {v6 : Option Nat} (hl : [PadReg.results, PadReg.mrs, PadReg.haltLog, PadReg.haltOverflow, PadReg.paused, PadReg.extendLost, PadReg.waitFor].all (fun r => l.contains r) = true)
    (h : Keep PadReg.Same l a x) : Keep PadReg.Same l a { x with results := v0, mrs := v1, haltLog := v2, haltOverflow := v3, paused := v4, extendLost := v5, waitFor := v6 } :=
  PadReg.then ⟨fun r hr => by cases r <;> first | rfl | exact absurd (by decide) hr⟩ hl h

theorem Pad.set_snaps {l : List PadReg} {a x : Pad} {v0 : SMap Snapshot} (hl : [PadReg.snaps].all (fun r => l.contains r) = true)
    (h : Keep PadReg.Same l a x) : Keep PadReg.Same l a { x with snaps := v0 } :=
  PadReg.then ⟨fun r hr => by cases r <;> first | rfl | exact absurd (by decide) hr⟩ hl h

theorem Pad.set_waitFor {l : List PadReg} {a x : Pad} {v0 : Option Nat} (hl : [PadReg.waitFor].all (fun r => l.contains r) = true)
    (h : Keep PadReg.Same l a x) : Keep PadReg.Same l a { x with waitFor := v0 } :=
  PadReg.then ⟨fun r hr => by cases r <;> first | rfl | exact absurd (by decide) hr⟩ hl h

theorem Plan.set_pads {l : List PlanReg} {a x : Plan} {v0 : SMap PadRec} (hl : [PlanReg.pads].all (fun r => l.contains r) = true)
    (h : Keep PlanReg.Same l a x) : Keep PlanReg.Same l a { x with pads := v0 } :=
  PlanReg.then ⟨fun r hr => by cases r <;> first | rfl | exact absurd (by decide) hr⟩ hl h

theorem Plan.set_pads_sheds {l : List PlanReg} {a x : Plan} {v0 : SMap PadRec} {v1 : SMap ShedPol} (hl : [PlanReg.pads, PlanReg.sheds].all (fun r => l.contains r) = true)
    (h : Keep PlanReg.Same l a x) : Keep PlanReg.Same l a { x with pads := v0, sheds := v1 } :=
  PlanReg.then ⟨fun r hr => by cases r <;> first | rfl | exact absurd (by decide) hr⟩ hl h

theorem PlanCtl.set_busy_phase_applying {l : List PlReg} {a x : PlanCtl} {v0 : Bool} {v1 : Nat} {v2 : Bool} (hl : [PlReg.busy, PlReg.phase, PlReg.applying].all (fun r => l.contains r) = true)
    (h : Keep PlReg.Same l a x) : Keep PlReg.Same l a { x with busy := v0, phase := v1, applying := v2 } :=
  PlReg.then ⟨fun r hr => by cases r <;> first | rfl | exact absurd (by decide) hr⟩ hl h

theorem PlanCtl.set_busy_phase_err_applying {l : List PlReg} {a x : PlanCtl} {v0 : Bool} {v1 : Nat} {v2 : Nat} {v3 : Bool} (hl : [PlReg.busy, PlReg.phase, PlReg.err, PlReg.applying].all (fun r => l.contains r) = true)
    (h : Keep PlReg.Same l a x) : Keep PlReg.Same l a { x with busy := v0, phase := v1, err := v2, applying := v3 } :=
  PlReg.then ⟨fun r hr => by cases r <;> first | rfl | exact absurd (by decide) hr⟩ hl h

theorem PlanCtl.set_busy_phase_err_errOffset_applying {l : List PlReg} {a x : PlanCtl} {v0 : Bool} {v1 : Nat} {v2 : Nat} {v3 : Nat} {v4 : Bool} (hl : [PlReg.busy, PlReg.phase, PlReg.err, PlReg.errOffset, PlReg.applying].all (fun r => l.contains r) = true)
    (h : Keep PlReg.Same l a x) : Keep PlReg.Same l a { x with busy := v0, phase := v1, err := v2, errOffset := v3, applying := v4 } :=
  PlReg.then ⟨fun r hr => by cases r <;> first | rfl | exact absurd (by decide) hr⟩ hl h

theorem PlanCtl.set_busy_phase_err_errOffset_swap {l : List PlReg} {a x : PlanCtl} {v0 : Bool} {v1 : Nat} {v2 : Nat} {v3 : Nat} {v4 : Option PartialPlan} (hl : [PlReg.busy, PlReg.phase, PlReg.err, PlReg.errOffset, PlReg.swap].all (fun r => l.contains r) = true)
    (h : Keep PlReg.Same l a x) : Keep PlReg.Same l a { x with busy := v0, phase := v1, err := v2, errOffset := v3, swap := v4 } :=
  PlReg.then ⟨fun r hr => by cases r <;> first | rfl | exact absurd (by decide) hr⟩ hl h

theorem PlanCtl.set_busy_phase_err_swap {l : List PlReg} {a x : PlanCtl} {v0 : Bool} {v1 : Nat} {v2 : Nat} {v3 : Option PartialPlan} (hl : [PlReg.busy, PlReg.phase, PlReg.err, PlReg.swap].all (fun r => l.contains r) = true)
    (h : Keep PlReg.Same l a x) : Keep PlReg.Same l a { x with busy := v0, phase := v1, err := v2, swap := v3 } :=
  PlReg.then ⟨fun r hr => by cases r <;> first | rfl | exact absurd (by decide) hr⟩ hl h

theorem PlanCtl.set_busy_phase_swap {l : List PlReg} {a x : PlanCtl} {v0 : Bool} {v1 : Nat} {v2 : Option PartialPlan} (hl : [PlReg.busy, PlReg.phase, PlReg.swap].all (fun r => l.contains r) = true)
    (h : Keep PlReg.Same l a x) : Keep PlReg.Same l a { x with busy := v0, phase := v1, swap := v2 } :=
  PlReg.then ⟨fun r hr => by cases r <;> first | rfl | exact absurd (by decide) hr⟩ hl h

theorem PlanCtl.set_err {l : List PlReg} {a x : PlanCtl} {v0 : Nat} (hl : [PlReg.err].all (fun r => l.contains r) = true)
    (h : Keep PlReg.Same l a x) : Keep PlReg.Same l a { x with err := v0 } :=
  PlReg.then ⟨fun r hr => by cases r <;> first | rfl | exact absurd (by decide) hr⟩ hl h

theorem PlanCtl.set_err_errOffset {l : List PlReg} {a x : PlanCtl} {v0 : Nat} {v1 : Nat} (hl : [PlReg.err, PlReg.errOffset].all (fun r => l.contains r) = true)
    (h : Keep PlReg.Same l a x) : Keep PlReg.Same l a { x with err := v0, errOffset := v1 } :=
  PlReg.then ⟨fun r hr => by cases r <;> first | rfl | exact absurd (by decide) hr⟩ hl h

theorem PlanCtl.set_imgAddr {l : List PlReg} {a x : PlanCtl} {v0 : Nat} (hl : [PlReg.imgAddr].all (fun r => l.contains r) = true)
    (h : Keep PlReg.Same l a x) : Keep PlReg.Same l a { x with imgAddr := v0 } :=
  PlReg.then ⟨fun r hr => by cases r <;> first | rfl | exact absurd (by decide) hr⟩ hl h

theorem PlanCtl.set_imgAddr_imgLen {l : List PlReg} {a x : PlanCtl} {v0 : Nat} {v1 : Nat} (hl : [PlReg.imgAddr, PlReg.imgLen].all (fun r => l.contains r) = true)
    (h : Keep PlReg.Same l a x) : Keep PlReg.Same l a { x with imgAddr := v0, imgLen := v1 } :=
  PlReg.then ⟨fun r hr => by cases r <;> first | rfl | exact absurd (by decide) hr⟩ hl h

theorem PlanCtl.set_imgLen {l : List PlReg} {a x : PlanCtl} {v0 : Nat} (hl : [PlReg.imgLen].all (fun r => l.contains r) = true)
    (h : Keep PlReg.Same l a x) : Keep PlReg.Same l a { x with imgLen := v0 } :=
  PlReg.then ⟨fun r hr => by cases r <;> first | rfl | exact absurd (by decide) hr⟩ hl h

theorem PlanCtl.set_stored {l : List PlReg} {a x : PlanCtl} {v0 : List Nat} (hl : [PlReg.stored].all (fun r => l.contains r) = true)
    (h : Keep PlReg.Same l a x) : Keep PlReg.Same l a { x with stored := v0 } :=
  PlReg.then ⟨fun r hr => by cases r <;> first | rfl | exact absurd (by decide) hr⟩ hl h

theorem Port.set_aspmL1 {l : List PortReg} {a x : Port} {v0 : Bool} (hl : [PortReg.aspmL1].all (fun r => l.contains r) = true)
    (h : Keep PortReg.Same l a x) : Keep PortReg.Same l a { x with aspmL1 := v0 } :=
  PortReg.then ⟨fun r hr => by cases r <;> first | rfl | exact absurd (by decide) hr⟩ hl h

theorem Port.set_aspmL1_aspmL11_aspmL12_vfEnable_numVfs_pmL11_pmL12_vfMse_ari_sysPage_vfBars {l : List PortReg} {a x : Port} {v0 : Bool} {v1 : Bool} {v2 : Bool} {v3 : Bool} {v4 : Nat} {v5 : Bool} {v6 : Bool} {v7 : Bool} {v8 : Bool} {v9 : Nat} {v10 : SMap Nat} (hl : [PortReg.aspmL1, PortReg.aspmL11, PortReg.aspmL12, PortReg.vfEnable, PortReg.numVfs, PortReg.pmL11, PortReg.pmL12, PortReg.vfMse, PortReg.ari, PortReg.sysPage, PortReg.vfBars].all (fun r => l.contains r) = true)
    (h : Keep PortReg.Same l a x) : Keep PortReg.Same l a { x with aspmL1 := v0, aspmL11 := v1, aspmL12 := v2, vfEnable := v3, numVfs := v4, pmL11 := v5, pmL12 := v6, vfMse := v7, ari := v8, sysPage := v9, vfBars := v10 } :=
  PortReg.then ⟨fun r hr => by cases r <;> first | rfl | exact absurd (by decide) hr⟩ hl h

theorem Port.set_aspmL11_aspmL12_pmL11_pmL12 {l : List PortReg} {a x : Port} {v0 : Bool} {v1 : Bool} {v2 : Bool} {v3 : Bool} (hl : [PortReg.aspmL11, PortReg.aspmL12, PortReg.pmL11, PortReg.pmL12].all (fun r => l.contains r) = true)
    (h : Keep PortReg.Same l a x) : Keep PortReg.Same l a { x with aspmL11 := v0, aspmL12 := v1, pmL11 := v2, pmL12 := v3 } :=
  PortReg.then ⟨fun r hr => by cases r <;> first | rfl | exact absurd (by decide) hr⟩ hl h

theorem Port.set_doorbells {l : List PortReg} {a x : Port} {v0 : List (Nat × Nat × Nat × Nat)} (hl : [PortReg.doorbells].all (fun r => l.contains r) = true)
    (h : Keep PortReg.Same l a x) : Keep PortReg.Same l a { x with doorbells := v0 } :=
  PortReg.then ⟨fun r hr => by cases r <;> first | rfl | exact absurd (by decide) hr⟩ hl h

theorem Port.set_linkState {l : List PortReg} {a x : Port} {v0 : Nat} (hl : [PortReg.linkState].all (fun r => l.contains r) = true)
    (h : Keep PortReg.Same l a x) : Keep PortReg.Same l a { x with linkState := v0 } :=
  PortReg.then ⟨fun r hr => by cases r <;> first | rfl | exact absurd (by decide) hr⟩ hl h

theorem Port.set_linkUp {l : List PortReg} {a x : Port} {v0 : Bool} (hl : [PortReg.linkUp].all (fun r => l.contains r) = true)
    (h : Keep PortReg.Same l a x) : Keep PortReg.Same l a { x with linkUp := v0 } :=
  PortReg.then ⟨fun r hr => by cases r <;> first | rfl | exact absurd (by decide) hr⟩ hl h

theorem Port.set_linkUp_linkState {l : List PortReg} {a x : Port} {v0 : Bool} {v1 : Nat} (hl : [PortReg.linkUp, PortReg.linkState].all (fun r => l.contains r) = true)
    (h : Keep PortReg.Same l a x) : Keep PortReg.Same l a { x with linkUp := v0, linkState := v1 } :=
  PortReg.then ⟨fun r hr => by cases r <;> first | rfl | exact absurd (by decide) hr⟩ hl h

theorem Port.set_linkUp_linkState_aspmL1_aspmL11_aspmL12_vfEnable_numVfs_pmL11_pmL12_vfMse_ari_sysPage_vfBars_ltrUs_ltrLive_ltrQueue {l : List PortReg} {a x : Port} {v0 : Bool} {v1 : Nat} {v2 : Bool} {v3 : Bool} {v4 : Bool} {v5 : Bool} {v6 : Nat} {v7 : Bool} {v8 : Bool} {v9 : Bool} {v10 : Bool} {v11 : Nat} {v12 : SMap Nat} {v13 : Nat} {v14 : Bool} {v15 : Bool} (hl : [PortReg.linkUp, PortReg.linkState, PortReg.aspmL1, PortReg.aspmL11, PortReg.aspmL12, PortReg.vfEnable, PortReg.numVfs, PortReg.pmL11, PortReg.pmL12, PortReg.vfMse, PortReg.ari, PortReg.sysPage, PortReg.vfBars, PortReg.ltrUs, PortReg.ltrLive, PortReg.ltrQueue].all (fun r => l.contains r) = true)
    (h : Keep PortReg.Same l a x) : Keep PortReg.Same l a { x with linkUp := v0, linkState := v1, aspmL1 := v2, aspmL11 := v3, aspmL12 := v4, vfEnable := v5, numVfs := v6, pmL11 := v7, pmL12 := v8, vfMse := v9, ari := v10, sysPage := v11, vfBars := v12, ltrUs := v13, ltrLive := v14, ltrQueue := v15 } :=
  PortReg.then ⟨fun r hr => by cases r <;> first | rfl | exact absurd (by decide) hr⟩ hl h

theorem Port.set_ltrUs_ltrLive_ltrQueue {l : List PortReg} {a x : Port} {v0 : Nat} {v1 : Bool} {v2 : Bool} (hl : [PortReg.ltrUs, PortReg.ltrLive, PortReg.ltrQueue].all (fun r => l.contains r) = true)
    (h : Keep PortReg.Same l a x) : Keep PortReg.Same l a { x with ltrUs := v0, ltrLive := v1, ltrQueue := v2 } :=
  PortReg.then ⟨fun r hr => by cases r <;> first | rfl | exact absurd (by decide) hr⟩ hl h

theorem Port.set_numVfs {l : List PortReg} {a x : Port} {v0 : Nat} (hl : [PortReg.numVfs].all (fun r => l.contains r) = true)
    (h : Keep PortReg.Same l a x) : Keep PortReg.Same l a { x with numVfs := v0 } :=
  PortReg.then ⟨fun r hr => by cases r <;> first | rfl | exact absurd (by decide) hr⟩ hl h

theorem Port.set_sysPage {l : List PortReg} {a x : Port} {v0 : Nat} (hl : [PortReg.sysPage].all (fun r => l.contains r) = true)
    (h : Keep PortReg.Same l a x) : Keep PortReg.Same l a { x with sysPage := v0 } :=
  PortReg.then ⟨fun r hr => by cases r <;> first | rfl | exact absurd (by decide) hr⟩ hl h

theorem Port.set_vfBars {l : List PortReg} {a x : Port} {v0 : SMap Nat} (hl : [PortReg.vfBars].all (fun r => l.contains r) = true)
    (h : Keep PortReg.Same l a x) : Keep PortReg.Same l a { x with vfBars := v0 } :=
  PortReg.then ⟨fun r hr => by cases r <;> first | rfl | exact absurd (by decide) hr⟩ hl h

theorem Port.set_vfEnable_numVfs {l : List PortReg} {a x : Port} {v0 : Bool} {v1 : Nat} (hl : [PortReg.vfEnable, PortReg.numVfs].all (fun r => l.contains r) = true)
    (h : Keep PortReg.Same l a x) : Keep PortReg.Same l a { x with vfEnable := v0, numVfs := v1 } :=
  PortReg.then ⟨fun r hr => by cases r <;> first | rfl | exact absurd (by decide) hr⟩ hl h

theorem Port.set_vfMse_ari {l : List PortReg} {a x : Port} {v0 : Bool} {v1 : Bool} (hl : [PortReg.vfMse, PortReg.ari].all (fun r => l.contains r) = true)
    (h : Keep PortReg.Same l a x) : Keep PortReg.Same l a { x with vfMse := v0, ari := v1 } :=
  PortReg.then ⟨fun r hr => by cases r <;> first | rfl | exact absurd (by decide) hr⟩ hl h

theorem Queue.set_a_headDeferred_copies {l : List QueueReg} {a x : Queue} {v0 : Nat} {v1 : Bool} {v2 : List (Nat × Bytes)} (hl : [QueueReg.a, QueueReg.headDeferred, QueueReg.copies].all (fun r => l.contains r) = true)
    (h : Keep QueueReg.Same l a x) : Keep QueueReg.Same l a { x with a := v0, headDeferred := v1, copies := v2 } :=
  QueueReg.then ⟨fun r hr => by cases r <;> first | rfl | exact absurd (by decide) hr⟩ hl h

theorem Queue.set_bx_ringCells {l : List QueueReg} {a x : Queue} {v0 : Bool} {v1 : Nat} (hl : [QueueReg.bx, QueueReg.ringCells].all (fun r => l.contains r) = true)
    (h : Keep QueueReg.Same l a x) : Keep QueueReg.Same l a { x with bx := v0, ringCells := v1 } :=
  QueueReg.then ⟨fun r hr => by cases r <;> first | rfl | exact absurd (by decide) hr⟩ hl h

theorem Queue.set_copies_fetchTried {l : List QueueReg} {a x : Queue} {v0 : List (Nat × Bytes)} {v1 : Option Nat} (hl : [QueueReg.copies, QueueReg.fetchTried].all (fun r => l.contains r) = true)
    (h : Keep QueueReg.Same l a x) : Keep QueueReg.Same l a { x with copies := v0, fetchTried := v1 } :=
  QueueReg.then ⟨fun r hr => by cases r <;> first | rfl | exact absurd (by decide) hr⟩ hl h

theorem Queue.set_defer_copies_fetchFailed_fetchTried {l : List QueueReg} {a x : Queue} {v0 : Nat} {v1 : List (Nat × Bytes)} {v2 : Option Nat} {v3 : Option Nat} (hl : [QueueReg.defer, QueueReg.copies, QueueReg.fetchFailed, QueueReg.fetchTried].all (fun r => l.contains r) = true)
    (h : Keep QueueReg.Same l a x) : Keep QueueReg.Same l a { x with defer := v0, copies := v1, fetchFailed := v2, fetchTried := v3 } :=
  QueueReg.then ⟨fun r hr => by cases r <;> first | rfl | exact absurd (by decide) hr⟩ hl h

theorem Queue.set_defer_deferOrder_headDeferred_recheck {l : List QueueReg} {a x : Queue} {v0 : Nat} {v1 : Nat} {v2 : Bool} {v3 : Bool} (hl : [QueueReg.defer, QueueReg.deferOrder, QueueReg.headDeferred, QueueReg.recheck].all (fun r => l.contains r) = true)
    (h : Keep QueueReg.Same l a x) : Keep QueueReg.Same l a { x with defer := v0, deferOrder := v1, headDeferred := v2, recheck := v3 } :=
  QueueReg.then ⟨fun r hr => by cases r <;> first | rfl | exact absurd (by decide) hr⟩ hl h

theorem Queue.set_defer_headDeferred_recheck {l : List QueueReg} {a x : Queue} {v0 : Nat} {v1 : Bool} {v2 : Bool} (hl : [QueueReg.defer, QueueReg.headDeferred, QueueReg.recheck].all (fun r => l.contains r) = true)
    (h : Keep QueueReg.Same l a x) : Keep QueueReg.Same l a { x with defer := v0, headDeferred := v1, recheck := v2 } :=
  QueueReg.then ⟨fun r hr => by cases r <;> first | rfl | exact absurd (by decide) hr⟩ hl h

theorem Queue.set_defer_recheck {l : List QueueReg} {a x : Queue} {v0 : Nat} {v1 : Bool} (hl : [QueueReg.defer, QueueReg.recheck].all (fun r => l.contains r) = true)
    (h : Keep QueueReg.Same l a x) : Keep QueueReg.Same l a { x with defer := v0, recheck := v1 } :=
  QueueReg.then ⟨fun r hr => by cases r <;> first | rfl | exact absurd (by decide) hr⟩ hl h

theorem Queue.set_fetchFailed_fetchTried {l : List QueueReg} {a x : Queue} {v0 : Option Nat} {v1 : Option Nat} (hl : [QueueReg.fetchFailed, QueueReg.fetchTried].all (fun r => l.contains r) = true)
    (h : Keep QueueReg.Same l a x) : Keep QueueReg.Same l a { x with fetchFailed := v0, fetchTried := v1 } :=
  QueueReg.then ⟨fun r hr => by cases r <;> first | rfl | exact absurd (by decide) hr⟩ hl h

theorem Queue.set_fetchTried {l : List QueueReg} {a x : Queue} {v0 : Option Nat} (hl : [QueueReg.fetchTried].all (fun r => l.contains r) = true)
    (h : Keep QueueReg.Same l a x) : Keep QueueReg.Same l a { x with fetchTried := v0 } :=
  QueueReg.then ⟨fun r hr => by cases r <;> first | rfl | exact absurd (by decide) hr⟩ hl h

theorem Queue.set_forgotten_pend_forgetting {l : List QueueReg} {a x : Queue} {v0 : Nat} {v1 : Option PendEnable} {v2 : Bool} (hl : [QueueReg.forgotten, QueueReg.pend, QueueReg.forgetting].all (fun r => l.contains r) = true)
    (h : Keep QueueReg.Same l a x) : Keep QueueReg.Same l a { x with forgotten := v0, pend := v1, forgetting := v2 } :=
  QueueReg.then ⟨fun r hr => by cases r <;> first | rfl | exact absurd (by decide) hr⟩ hl h

theorem Queue.set_heldBell {l : List QueueReg} {a x : Queue} {v0 : Option Nat} (hl : [QueueReg.heldBell].all (fun r => l.contains r) = true)
    (h : Keep QueueReg.Same l a x) : Keep QueueReg.Same l a { x with heldBell := v0 } :=
  QueueReg.then ⟨fun r hr => by cases r <;> first | rfl | exact absurd (by decide) hr⟩ hl h

theorem Queue.set_p {l : List QueueReg} {a x : Queue} {v0 : Nat} (hl : [QueueReg.p].all (fun r => l.contains r) = true)
    (h : Keep QueueReg.Same l a x) : Keep QueueReg.Same l a { x with p := v0 } :=
  QueueReg.then ⟨fun r hr => by cases r <;> first | rfl | exact absurd (by decide) hr⟩ hl h

theorem Queue.set_p_a_heldBell_standby_takenOver {l : List QueueReg} {a x : Queue} {v0 : Nat} {v1 : Nat} {v2 : Option Nat} {v3 : Bool} {v4 : Bool} (hl : [QueueReg.p, QueueReg.a, QueueReg.heldBell, QueueReg.standby, QueueReg.takenOver].all (fun r => l.contains r) = true)
    (h : Keep QueueReg.Same l a x) : Keep QueueReg.Same l a { x with p := v0, a := v1, heldBell := v2, standby := v3, takenOver := v4 } :=
  QueueReg.then ⟨fun r hr => by cases r <;> first | rfl | exact absurd (by decide) hr⟩ hl h

theorem Queue.set_p_ring_ringSecret {l : List QueueReg} {a x : Queue} {v0 : Nat} {v1 : SMap Bytes} {v2 : List Nat} (hl : [QueueReg.p, QueueReg.ring, QueueReg.ringSecret].all (fun r => l.contains r) = true)
    (h : Keep QueueReg.Same l a x) : Keep QueueReg.Same l a { x with p := v0, ring := v1, ringSecret := v2 } :=
  QueueReg.then ⟨fun r hr => by cases r <;> first | rfl | exact absurd (by decide) hr⟩ hl h

theorem Queue.set_p_t_standby {l : List QueueReg} {a x : Queue} {v0 : Nat} {v1 : Nat} {v2 : Bool} (hl : [QueueReg.p, QueueReg.t, QueueReg.standby].all (fun r => l.contains r) = true)
    (h : Keep QueueReg.Same l a x) : Keep QueueReg.Same l a { x with p := v0, t := v1, standby := v2 } :=
  QueueReg.then ⟨fun r hr => by cases r <;> first | rfl | exact absurd (by decide) hr⟩ hl h

theorem Queue.set_pend {l : List QueueReg} {a x : Queue} {v0 : Option PendEnable} (hl : [QueueReg.pend].all (fun r => l.contains r) = true)
    (h : Keep QueueReg.Same l a x) : Keep QueueReg.Same l a { x with pend := v0 } :=
  QueueReg.then ⟨fun r hr => by cases r <;> first | rfl | exact absurd (by decide) hr⟩ hl h

theorem Queue.set_recheck {l : List QueueReg} {a x : Queue} {v0 : Bool} (hl : [QueueReg.recheck].all (fun r => l.contains r) = true)
    (h : Keep QueueReg.Same l a x) : Keep QueueReg.Same l a { x with recheck := v0 } :=
  QueueReg.then ⟨fun r hr => by cases r <;> first | rfl | exact absurd (by decide) hr⟩ hl h

theorem Queue.set_recordedP {l : List QueueReg} {a x : Queue} {v0 : Option Nat} (hl : [QueueReg.recordedP].all (fun r => l.contains r) = true)
    (h : Keep QueueReg.Same l a x) : Keep QueueReg.Same l a { x with recordedP := v0 } :=
  QueueReg.then ⟨fun r hr => by cases r <;> first | rfl | exact absurd (by decide) hr⟩ hl h

theorem Queue.set_ring_ringSecret {l : List QueueReg} {a x : Queue} {v0 : SMap Bytes} {v1 : List Nat} (hl : [QueueReg.ring, QueueReg.ringSecret].all (fun r => l.contains r) = true)
    (h : Keep QueueReg.Same l a x) : Keep QueueReg.Same l a { x with ring := v0, ringSecret := v1 } :=
  QueueReg.then ⟨fun r hr => by cases r <;> first | rfl | exact absurd (by decide) hr⟩ hl h

theorem Queue.set_shadowOwed {l : List QueueReg} {a x : Queue} {v0 : Bool} (hl : [QueueReg.shadowOwed].all (fun r => l.contains r) = true)
    (h : Keep QueueReg.Same l a x) : Keep QueueReg.Same l a { x with shadowOwed := v0 } :=
  QueueReg.then ⟨fun r hr => by cases r <;> first | rfl | exact absurd (by decide) hr⟩ hl h

theorem Queue.set_standby_takenOver {l : List QueueReg} {a x : Queue} {v0 : Bool} {v1 : Bool} (hl : [QueueReg.standby, QueueReg.takenOver].all (fun r => l.contains r) = true)
    (h : Keep QueueReg.Same l a x) : Keep QueueReg.Same l a { x with standby := v0, takenOver := v1 } :=
  QueueReg.then ⟨fun r hr => by cases r <;> first | rfl | exact absurd (by decide) hr⟩ hl h

theorem Queue.set_state_errReason_errDetail_errIndex {l : List QueueReg} {a x : Queue} {v0 : Nat} {v1 : Nat} {v2 : Nat} {v3 : Nat} (hl : [QueueReg.state, QueueReg.errReason, QueueReg.errDetail, QueueReg.errIndex].all (fun r => l.contains r) = true)
    (h : Keep QueueReg.Same l a x) : Keep QueueReg.Same l a { x with state := v0, errReason := v1, errDetail := v2, errIndex := v3 } :=
  QueueReg.then ⟨fun r hr => by cases r <;> first | rfl | exact absurd (by decide) hr⟩ hl h

theorem Queue.set_state_errReason_errDetail_errIndex_pend {l : List QueueReg} {a x : Queue} {v0 : Nat} {v1 : Nat} {v2 : Nat} {v3 : Nat} {v4 : Option PendEnable} (hl : [QueueReg.state, QueueReg.errReason, QueueReg.errDetail, QueueReg.errIndex, QueueReg.pend].all (fun r => l.contains r) = true)
    (h : Keep QueueReg.Same l a x) : Keep QueueReg.Same l a { x with state := v0, errReason := v1, errDetail := v2, errIndex := v3, pend := v4 } :=
  QueueReg.then ⟨fun r hr => by cases r <;> first | rfl | exact absurd (by decide) hr⟩ hl h

theorem Queue.set_state_pend {l : List QueueReg} {a x : Queue} {v0 : Nat} {v1 : Option PendEnable} (hl : [QueueReg.state, QueueReg.pend].all (fun r => l.contains r) = true)
    (h : Keep QueueReg.Same l a x) : Keep QueueReg.Same l a { x with state := v0, pend := v1 } :=
  QueueReg.then ⟨fun r hr => by cases r <;> first | rfl | exact absurd (by decide) hr⟩ hl h

theorem Queue.set_state_remembered_base_k_vector_wake_crcReq_irqEn_shadowEn_shadowAddr_fn_bx_p_a_t_gen_errReason_errDetail_errIndex_defer_deferOrder_headDeferred_recheck_copies_heldBell_shadowOwed_pend_fetchFailed_fetchTried_standby_recordedP_forgetting_ring_ringCells_ringSecret {l : List QueueReg} {a x : Queue} {v0 : Nat} {v1 : Nat} {v2 : Nat} {v3 : Nat} {v4 : Nat} {v5 : Bool} {v6 : Bool} {v7 : Bool} {v8 : Bool} {v9 : Nat} {v10 : Nat} {v11 : Bool} {v12 : Nat} {v13 : Nat} {v14 : Nat} {v15 : Nat} {v16 : Nat} {v17 : Nat} {v18 : Nat} {v19 : Nat} {v20 : Nat} {v21 : Bool} {v22 : Bool} {v23 : List (Nat × Bytes)} {v24 : Option Nat} {v25 : Bool} {v26 : Option PendEnable} {v27 : Option Nat} {v28 : Option Nat} {v29 : Bool} {v30 : Option Nat} {v31 : Bool} {v32 : SMap Bytes} {v33 : Nat} {v34 : List Nat} (hl : [QueueReg.state, QueueReg.remembered, QueueReg.base, QueueReg.k, QueueReg.vector, QueueReg.wake, QueueReg.crcReq, QueueReg.irqEn, QueueReg.shadowEn, QueueReg.shadowAddr, QueueReg.fn, QueueReg.bx, QueueReg.p, QueueReg.a, QueueReg.t, QueueReg.gen, QueueReg.errReason, QueueReg.errDetail, QueueReg.errIndex, QueueReg.defer, QueueReg.deferOrder, QueueReg.headDeferred, QueueReg.recheck, QueueReg.copies, QueueReg.heldBell, QueueReg.shadowOwed, QueueReg.pend, QueueReg.fetchFailed, QueueReg.fetchTried, QueueReg.standby, QueueReg.recordedP, QueueReg.forgetting, QueueReg.ring, QueueReg.ringCells, QueueReg.ringSecret].all (fun r => l.contains r) = true)
    (h : Keep QueueReg.Same l a x) : Keep QueueReg.Same l a { x with state := v0, remembered := v1, base := v2, k := v3, vector := v4, wake := v5, crcReq := v6, irqEn := v7, shadowEn := v8, shadowAddr := v9, fn := v10, bx := v11, p := v12, a := v13, t := v14, gen := v15, errReason := v16, errDetail := v17, errIndex := v18, defer := v19, deferOrder := v20, headDeferred := v21, recheck := v22, copies := v23, heldBell := v24, shadowOwed := v25, pend := v26, fetchFailed := v27, fetchTried := v28, standby := v29, recordedP := v30, forgetting := v31, ring := v32, ringCells := v33, ringSecret := v34 } :=
  QueueReg.then ⟨fun r hr => by cases r <;> first | rfl | exact absurd (by decide) hr⟩ hl h

theorem Queue.set_state_remembered_base_vector_wake_crcReq_irqEn_shadowEn_shadowAddr_fn_bx_errReason_errDetail_errIndex_defer_deferOrder_headDeferred_recheck_copies_heldBell_shadowOwed_pend_fetchFailed_fetchTried_standby_takenOver_recordedP_forgetting_ring_ringCells_ringSecret {l : List QueueReg} {a x : Queue} {v0 : Nat} {v1 : Nat} {v2 : Nat} {v3 : Nat} {v4 : Bool} {v5 : Bool} {v6 : Bool} {v7 : Bool} {v8 : Nat} {v9 : Nat} {v10 : Bool} {v11 : Nat} {v12 : Nat} {v13 : Nat} {v14 : Nat} {v15 : Nat} {v16 : Bool} {v17 : Bool} {v18 : List (Nat × Bytes)} {v19 : Option Nat} {v20 : Bool} {v21 : Option PendEnable} {v22 : Option Nat} {v23 : Option Nat} {v24 : Bool} {v25 : Bool} {v26 : Option Nat} {v27 : Bool} {v28 : SMap Bytes} {v29 : Nat} {v30 : List Nat} (hl : [QueueReg.state, QueueReg.remembered, QueueReg.base, QueueReg.vector, QueueReg.wake, QueueReg.crcReq, QueueReg.irqEn, QueueReg.shadowEn, QueueReg.shadowAddr, QueueReg.fn, QueueReg.bx, QueueReg.errReason, QueueReg.errDetail, QueueReg.errIndex, QueueReg.defer, QueueReg.deferOrder, QueueReg.headDeferred, QueueReg.recheck, QueueReg.copies, QueueReg.heldBell, QueueReg.shadowOwed, QueueReg.pend, QueueReg.fetchFailed, QueueReg.fetchTried, QueueReg.standby, QueueReg.takenOver, QueueReg.recordedP, QueueReg.forgetting, QueueReg.ring, QueueReg.ringCells, QueueReg.ringSecret].all (fun r => l.contains r) = true)
    (h : Keep QueueReg.Same l a x) : Keep QueueReg.Same l a { x with state := v0, remembered := v1, base := v2, vector := v3, wake := v4, crcReq := v5, irqEn := v6, shadowEn := v7, shadowAddr := v8, fn := v9, bx := v10, errReason := v11, errDetail := v12, errIndex := v13, defer := v14, deferOrder := v15, headDeferred := v16, recheck := v17, copies := v18, heldBell := v19, shadowOwed := v20, pend := v21, fetchFailed := v22, fetchTried := v23, standby := v24, takenOver := v25, recordedP := v26, forgetting := v27, ring := v28, ringCells := v29, ringSecret := v30 } :=
  QueueReg.then ⟨fun r hr => by cases r <;> first | rfl | exact absurd (by decide) hr⟩ hl h

theorem Queue.set_state_remembered_deferOrder_recheck_heldBell_shadowOwed {l : List QueueReg} {a x : Queue} {v0 : Nat} {v1 : Nat} {v2 : Nat} {v3 : Bool} {v4 : Option Nat} {v5 : Bool} (hl : [QueueReg.state, QueueReg.remembered, QueueReg.deferOrder, QueueReg.recheck, QueueReg.heldBell, QueueReg.shadowOwed].all (fun r => l.contains r) = true)
    (h : Keep QueueReg.Same l a x) : Keep QueueReg.Same l a { x with state := v0, remembered := v1, deferOrder := v2, recheck := v3, heldBell := v4, shadowOwed := v5 } :=
  QueueReg.then ⟨fun r hr => by cases r <;> first | rfl | exact absurd (by decide) hr⟩ hl h

theorem Queue.set_state_remembered_heldBell {l : List QueueReg} {a x : Queue} {v0 : Nat} {v1 : Nat} {v2 : Option Nat} (hl : [QueueReg.state, QueueReg.remembered, QueueReg.heldBell].all (fun r => l.contains r) = true)
    (h : Keep QueueReg.Same l a x) : Keep QueueReg.Same l a { x with state := v0, remembered := v1, heldBell := v2 } :=
  QueueReg.then ⟨fun r hr => by cases r <;> first | rfl | exact absurd (by decide) hr⟩ hl h

theorem Queue.set_t {l : List QueueReg} {a x : Queue} {v0 : Nat} (hl : [QueueReg.t].all (fun r => l.contains r) = true)
    (h : Keep QueueReg.Same l a x) : Keep QueueReg.Same l a { x with t := v0 } :=
  QueueReg.then ⟨fun r hr => by cases r <;> first | rfl | exact absurd (by decide) hr⟩ hl h

theorem Rng.set_apt {l : List RngReg} {a x : Rng} {v0 : Nat} (hl : [RngReg.apt].all (fun r => l.contains r) = true)
    (h : Keep RngReg.Same l a x) : Keep RngReg.Same l a { x with apt := v0 } :=
  RngReg.then ⟨fun r hr => by cases r <;> first | rfl | exact absurd (by decide) hr⟩ hl h

theorem Rng.set_cmdErr {l : List RngReg} {a x : Rng} {v0 : Nat} (hl : [RngReg.cmdErr].all (fun r => l.contains r) = true)
    (h : Keep RngReg.Same l a x) : Keep RngReg.Same l a { x with cmdErr := v0 } :=
  RngReg.then ⟨fun r hr => by cases r <;> first | rfl | exact absurd (by decide) hr⟩ hl h

theorem Rng.set_cmdErr_restarting {l : List RngReg} {a x : Rng} {v0 : Nat} {v1 : Bool} (hl : [RngReg.cmdErr, RngReg.restarting].all (fun r => l.contains r) = true)
    (h : Keep RngReg.Same l a x) : Keep RngReg.Same l a { x with cmdErr := v0, restarting := v1 } :=
  RngReg.then ⟨fun r hr => by cases r <;> first | rfl | exact absurd (by decide) hr⟩ hl h

theorem Rng.set_cmdErr_ymr {l : List RngReg} {a x : Rng} {v0 : Nat} {v1 : SMap Bytes} (hl : [RngReg.cmdErr, RngReg.ymr].all (fun r => l.contains r) = true)
    (h : Keep RngReg.Same l a x) : Keep RngReg.Same l a { x with cmdErr := v0, ymr := v1 } :=
  RngReg.then ⟨fun r hr => by cases r <;> first | rfl | exact absurd (by decide) hr⟩ hl h

theorem Rng.set_discarded {l : List RngReg} {a x : Rng} {v0 : Nat} (hl : [RngReg.discarded].all (fun r => l.contains r) = true)
    (h : Keep RngReg.Same l a x) : Keep RngReg.Same l a { x with discarded := v0 } :=
  RngReg.then ⟨fun r hr => by cases r <;> first | rfl | exact absurd (by decide) hr⟩ hl h

theorem Rng.set_fifo {l : List RngReg} {a x : Rng} {v0 : List W64} (hl : [RngReg.fifo].all (fun r => l.contains r) = true)
    (h : Keep RngReg.Same l a x) : Keep RngReg.Same l a { x with fifo := v0 } :=
  RngReg.then ⟨fun r hr => by cases r <;> first | rfl | exact absurd (by decide) hr⟩ hl h

theorem Rng.set_healthy_isolated {l : List RngReg} {a x : Rng} {v0 : Nat} {v1 : Nat} (hl : [RngReg.healthy, RngReg.isolated].all (fun r => l.contains r) = true)
    (h : Keep RngReg.Same l a x) : Keep RngReg.Same l a { x with healthy := v0, isolated := v1 } :=
  RngReg.then ⟨fun r hr => by cases r <;> first | rfl | exact absurd (by decide) hr⟩ hl h

theorem Rng.set_healthy_isolated_retired {l : List RngReg} {a x : Rng} {v0 : Nat} {v1 : Nat} {v2 : Nat} (hl : [RngReg.healthy, RngReg.isolated, RngReg.retired].all (fun r => l.contains r) = true)
    (h : Keep RngReg.Same l a x) : Keep RngReg.Same l a { x with healthy := v0, isolated := v1, retired := v2 } :=
  RngReg.then ⟨fun r hr => by cases r <;> first | rfl | exact absurd (by decide) hr⟩ hl h

theorem Rng.set_katOk_attempts {l : List RngReg} {a x : Rng} {v0 : Bool} {v1 : Nat} (hl : [RngReg.katOk, RngReg.attempts].all (fun r => l.contains r) = true)
    (h : Keep RngReg.Same l a x) : Keep RngReg.Same l a { x with katOk := v0, attempts := v1 } :=
  RngReg.then ⟨fun r hr => by cases r <;> first | rfl | exact absurd (by decide) hr⟩ hl h

theorem Rng.set_katOk_cmdErr_restarting {l : List RngReg} {a x : Rng} {v0 : Bool} {v1 : Nat} {v2 : Bool} (hl : [RngReg.katOk, RngReg.cmdErr, RngReg.restarting].all (fun r => l.contains r) = true)
    (h : Keep RngReg.Same l a x) : Keep RngReg.Same l a { x with katOk := v0, cmdErr := v1, restarting := v2 } :=
  RngReg.then ⟨fun r hr => by cases r <;> first | rfl | exact absurd (by decide) hr⟩ hl h

theorem Rng.set_overflow {l : List RngReg} {a x : Rng} {v0 : Bool} (hl : [RngReg.overflow].all (fun r => l.contains r) = true)
    (h : Keep RngReg.Same l a x) : Keep RngReg.Same l a { x with overflow := v0 } :=
  RngReg.then ⟨fun r hr => by cases r <;> first | rfl | exact absurd (by decide) hr⟩ hl h

theorem Rng.set_rct {l : List RngReg} {a x : Rng} {v0 : Nat} (hl : [RngReg.rct].all (fun r => l.contains r) = true)
    (h : Keep RngReg.Same l a x) : Keep RngReg.Same l a { x with rct := v0 } :=
  RngReg.then ⟨fun r hr => by cases r <;> first | rfl | exact absurd (by decide) hr⟩ hl h

theorem Rng.set_ready_attempts_store_waiting_restarting_fifo {l : List RngReg} {a x : Rng} {v0 : Bool} {v1 : Nat} {v2 : Nat} {v3 : List Nat} {v4 : Bool} {v5 : List W64} (hl : [RngReg.ready, RngReg.attempts, RngReg.store, RngReg.waiting, RngReg.restarting, RngReg.fifo].all (fun r => l.contains r) = true)
    (h : Keep RngReg.Same l a x) : Keep RngReg.Same l a { x with ready := v0, attempts := v1, store := v2, waiting := v3, restarting := v4, fifo := v5 } :=
  RngReg.then ⟨fun r hr => by cases r <;> first | rfl | exact absurd (by decide) hr⟩ hl h

theorem Rng.set_ready_rawMode_attempts_fifo {l : List RngReg} {a x : Rng} {v0 : Bool} {v1 : Bool} {v2 : Nat} {v3 : List W64} (hl : [RngReg.ready, RngReg.rawMode, RngReg.attempts, RngReg.fifo].all (fun r => l.contains r) = true)
    (h : Keep RngReg.Same l a x) : Keep RngReg.Same l a { x with ready := v0, rawMode := v1, attempts := v2, fifo := v3 } :=
  RngReg.then ⟨fun r hr => by cases r <;> first | rfl | exact absurd (by decide) hr⟩ hl h

theorem Rng.set_ready_rawMode_cmdErr_rawFrom_fifo_sel {l : List RngReg} {a x : Rng} {v0 : Bool} {v1 : Bool} {v2 : Nat} {v3 : Nat} {v4 : List W64} {v5 : Nat} (hl : [RngReg.ready, RngReg.rawMode, RngReg.cmdErr, RngReg.rawFrom, RngReg.fifo, RngReg.sel].all (fun r => l.contains r) = true)
    (h : Keep RngReg.Same l a x) : Keep RngReg.Same l a { x with ready := v0, rawMode := v1, cmdErr := v2, rawFrom := v3, fifo := v4, sel := v5 } :=
  RngReg.then ⟨fun r hr => by cases r <;> first | rfl | exact absurd (by decide) hr⟩ hl h

theorem Rng.set_ready_stopped_attempts_restarting {l : List RngReg} {a x : Rng} {v0 : Bool} {v1 : Bool} {v2 : Nat} {v3 : Bool} (hl : [RngReg.ready, RngReg.stopped, RngReg.attempts, RngReg.restarting].all (fun r => l.contains r) = true)
    (h : Keep RngReg.Same l a x) : Keep RngReg.Same l a { x with ready := v0, stopped := v1, attempts := v2, restarting := v3 } :=
  RngReg.then ⟨fun r hr => by cases r <;> first | rfl | exact absurd (by decide) hr⟩ hl h

theorem Rng.set_ready_stopped_attempts_waiting_restarting {l : List RngReg} {a x : Rng} {v0 : Bool} {v1 : Bool} {v2 : Nat} {v3 : List Nat} {v4 : Bool} (hl : [RngReg.ready, RngReg.stopped, RngReg.attempts, RngReg.waiting, RngReg.restarting].all (fun r => l.contains r) = true)
    (h : Keep RngReg.Same l a x) : Keep RngReg.Same l a { x with ready := v0, stopped := v1, attempts := v2, waiting := v3, restarting := v4 } :=
  RngReg.then ⟨fun r hr => by cases r <;> first | rfl | exact absurd (by decide) hr⟩ hl h

theorem Rng.set_ready_stopped_katOk_healthy_isolated_attempts_restarting {l : List RngReg} {a x : Rng} {v0 : Bool} {v1 : Bool} {v2 : Bool} {v3 : Nat} {v4 : Nat} {v5 : Nat} {v6 : Bool} (hl : [RngReg.ready, RngReg.stopped, RngReg.katOk, RngReg.healthy, RngReg.isolated, RngReg.attempts, RngReg.restarting].all (fun r => l.contains r) = true)
    (h : Keep RngReg.Same l a x) : Keep RngReg.Same l a { x with ready := v0, stopped := v1, katOk := v2, healthy := v3, isolated := v4, attempts := v5, restarting := v6 } :=
  RngReg.then ⟨fun r hr => by cases r <;> first | rfl | exact absurd (by decide) hr⟩ hl h

theorem Rng.set_retired {l : List RngReg} {a x : Rng} {v0 : Nat} (hl : [RngReg.retired].all (fun r => l.contains r) = true)
    (h : Keep RngReg.Same l a x) : Keep RngReg.Same l a { x with retired := v0 } :=
  RngReg.then ⟨fun r hr => by cases r <;> first | rfl | exact absurd (by decide) hr⟩ hl h

theorem Rng.set_store {l : List RngReg} {a x : Rng} {v0 : Nat} (hl : [RngReg.store].all (fun r => l.contains r) = true)
    (h : Keep RngReg.Same l a x) : Keep RngReg.Same l a { x with store := v0 } :=
  RngReg.then ⟨fun r hr => by cases r <;> first | rfl | exact absurd (by decide) hr⟩ hl h

theorem Rng.set_store_waiting {l : List RngReg} {a x : Rng} {v0 : Nat} {v1 : List Nat} (hl : [RngReg.store, RngReg.waiting].all (fun r => l.contains r) = true)
    (h : Keep RngReg.Same l a x) : Keep RngReg.Same l a { x with store := v0, waiting := v1 } :=
  RngReg.then ⟨fun r hr => by cases r <;> first | rfl | exact absurd (by decide) hr⟩ hl h

theorem Rng.set_waiting {l : List RngReg} {a x : Rng} {v0 : List Nat} (hl : [RngReg.waiting].all (fun r => l.contains r) = true)
    (h : Keep RngReg.Same l a x) : Keep RngReg.Same l a { x with waiting := v0 } :=
  RngReg.then ⟨fun r hr => by cases r <;> first | rfl | exact absurd (by decide) hr⟩ hl h

theorem Rng.set_ymDrbg {l : List RngReg} {a x : Rng} {v0 : Drbg} (hl : [RngReg.ymDrbg].all (fun r => l.contains r) = true)
    (h : Keep RngReg.Same l a x) : Keep RngReg.Same l a { x with ymDrbg := v0 } :=
  RngReg.then ⟨fun r hr => by cases r <;> first | rfl | exact absurd (by decide) hr⟩ hl h

theorem Rng.set_ymr {l : List RngReg} {a x : Rng} {v0 : SMap Bytes} (hl : [RngReg.ymr].all (fun r => l.contains r) = true)
    (h : Keep RngReg.Same l a x) : Keep RngReg.Same l a { x with ymr := v0 } :=
  RngReg.then ⟨fun r hr => by cases r <;> first | rfl | exact absurd (by decide) hr⟩ hl h

theorem Stall.set_dedicated {l : List StallReg} {a x : Stall} {v0 : Option Nat} (hl : [StallReg.dedicated].all (fun r => l.contains r) = true)
    (h : Keep StallReg.Same l a x) : Keep StallReg.Same l a { x with dedicated := v0 } :=
  StallReg.then ⟨fun r hr => by cases r <;> first | rfl | exact absurd (by decide) hr⟩ hl h

theorem Stall.set_dedicated_spare_reservedFor {l : List StallReg} {a x : Stall} {v0 : Option Nat} {v1 : Bool} {v2 : Option Nat} (hl : [StallReg.dedicated, StallReg.spare, StallReg.reservedFor].all (fun r => l.contains r) = true)
    (h : Keep StallReg.Same l a x) : Keep StallReg.Same l a { x with dedicated := v0, spare := v1, reservedFor := v2 } :=
  StallReg.then ⟨fun r hr => by cases r <;> first | rfl | exact absurd (by decide) hr⟩ hl h

theorem Stall.set_inPool_dedicated_dirty_spare_muckAtWake {l : List StallReg} {a x : Stall} {v0 : Bool} {v1 : Option Nat} {v2 : Bool} {v3 : Bool} {v4 : Bool} (hl : [StallReg.inPool, StallReg.dedicated, StallReg.dirty, StallReg.spare, StallReg.muckAtWake].all (fun r => l.contains r) = true)
    (h : Keep StallReg.Same l a x) : Keep StallReg.Same l a { x with inPool := v0, dedicated := v1, dirty := v2, spare := v3, muckAtWake := v4 } :=
  StallReg.then ⟨fun r hr => by cases r <;> first | rfl | exact absurd (by decide) hr⟩ hl h

theorem Stall.set_inPool_dedicated_spare {l : List StallReg} {a x : Stall} {v0 : Bool} {v1 : Option Nat} {v2 : Bool} (hl : [StallReg.inPool, StallReg.dedicated, StallReg.spare].all (fun r => l.contains r) = true)
    (h : Keep StallReg.Same l a x) : Keep StallReg.Same l a { x with inPool := v0, dedicated := v1, spare := v2 } :=
  StallReg.then ⟨fun r hr => by cases r <;> first | rfl | exact absurd (by decide) hr⟩ hl h

theorem Stall.set_jobs {l : List StallReg} {a x : Stall} {v0 : List Nat} (hl : [StallReg.jobs].all (fun r => l.contains r) = true)
    (h : Keep StallReg.Same l a x) : Keep StallReg.Same l a { x with jobs := v0 } :=
  StallReg.then ⟨fun r hr => by cases r <;> first | rfl | exact absurd (by decide) hr⟩ hl h

theorem Stall.set_jobs_scrubDue_cplRd_cplWr {l : List StallReg} {a x : Stall} {v0 : List Nat} {v1 : Bool} {v2 : Nat} {v3 : Nat} (hl : [StallReg.jobs, StallReg.scrubDue, StallReg.cplRd, StallReg.cplWr].all (fun r => l.contains r) = true)
    (h : Keep StallReg.Same l a x) : Keep StallReg.Same l a { x with jobs := v0, scrubDue := v1, cplRd := v2, cplWr := v3 } :=
  StallReg.then ⟨fun r hr => by cases r <;> first | rfl | exact absurd (by decide) hr⟩ hl h

theorem Stall.set_muckAtWake {l : List StallReg} {a x : Stall} {v0 : Bool} (hl : [StallReg.muckAtWake].all (fun r => l.contains r) = true)
    (h : Keep StallReg.Same l a x) : Keep StallReg.Same l a { x with muckAtWake := v0 } :=
  StallReg.then ⟨fun r hr => by cases r <;> first | rfl | exact absurd (by decide) hr⟩ hl h

theorem Stall.set_muckFailed {l : List StallReg} {a x : Stall} {v0 : Bool} (hl : [StallReg.muckFailed].all (fun r => l.contains r) = true)
    (h : Keep StallReg.Same l a x) : Keep StallReg.Same l a { x with muckFailed := v0 } :=
  StallReg.then ⟨fun r hr => by cases r <;> first | rfl | exact absurd (by decide) hr⟩ hl h

theorem Stall.set_muckThen {l : List StallReg} {a x : Stall} {v0 : Nat} (hl : [StallReg.muckThen].all (fun r => l.contains r) = true)
    (h : Keep StallReg.Same l a x) : Keep StallReg.Same l a { x with muckThen := v0 } :=
  StallReg.then ⟨fun r hr => by cases r <;> first | rfl | exact absurd (by decide) hr⟩ hl h

theorem Stall.set_muckouts_dirty {l : List StallReg} {a x : Stall} {v0 : Nat} {v1 : Bool} (hl : [StallReg.muckouts, StallReg.dirty].all (fun r => l.contains r) = true)
    (h : Keep StallReg.Same l a x) : Keep StallReg.Same l a { x with muckouts := v0, dirty := v1 } :=
  StallReg.then ⟨fun r hr => by cases r <;> first | rfl | exact absurd (by decide) hr⟩ hl h

theorem Stall.set_muckouts_dirty_muckFailed_muckThen_operand {l : List StallReg} {a x : Stall} {v0 : Nat} {v1 : Bool} {v2 : Bool} {v3 : Nat} {v4 : List Bytes} (hl : [StallReg.muckouts, StallReg.dirty, StallReg.muckFailed, StallReg.muckThen, StallReg.operand].all (fun r => l.contains r) = true)
    (h : Keep StallReg.Same l a x) : Keep StallReg.Same l a { x with muckouts := v0, dirty := v1, muckFailed := v2, muckThen := v3, operand := v4 } :=
  StallReg.then ⟨fun r hr => by cases r <;> first | rfl | exact absurd (by decide) hr⟩ hl h

theorem Stall.set_prefEnded {l : List StallReg} {a x : Stall} {v0 : Bool} (hl : [StallReg.prefEnded].all (fun r => l.contains r) = true)
    (h : Keep StallReg.Same l a x) : Keep StallReg.Same l a { x with prefEnded := v0 } :=
  StallReg.then ⟨fun r hr => by cases r <;> first | rfl | exact absurd (by decide) hr⟩ hl h

theorem Stall.set_ratchet_ratchetCount_source {l : List StallReg} {a x : Stall} {v0 : Bool} {v1 : Nat} {v2 : Bytes} (hl : [StallReg.ratchet, StallReg.ratchetCount, StallReg.source].all (fun r => l.contains r) = true)
    (h : Keep StallReg.Same l a x) : Keep StallReg.Same l a { x with ratchet := v0, ratchetCount := v1, source := v2 } :=
  StallReg.then ⟨fun r hr => by cases r <;> first | rfl | exact absurd (by decide) hr⟩ hl h

theorem Stall.set_ratchet_source {l : List StallReg} {a x : Stall} {v0 : Bool} {v1 : Bytes} (hl : [StallReg.ratchet, StallReg.source].all (fun r => l.contains r) = true)
    (h : Keep StallReg.Same l a x) : Keep StallReg.Same l a { x with ratchet := v0, source := v1 } :=
  StallReg.then ⟨fun r hr => by cases r <;> first | rfl | exact absurd (by decide) hr⟩ hl h

theorem Stall.set_reqClaim {l : List StallReg} {a x : Stall} {v0 : Bool} (hl : [StallReg.reqClaim].all (fun r => l.contains r) = true)
    (h : Keep StallReg.Same l a x) : Keep StallReg.Same l a { x with reqClaim := v0 } :=
  StallReg.then ⟨fun r hr => by cases r <;> first | rfl | exact absurd (by decide) hr⟩ hl h

theorem Stall.set_reqStop {l : List StallReg} {a x : Stall} {v0 : Bool} (hl : [StallReg.reqStop].all (fun r => l.contains r) = true)
    (h : Keep StallReg.Same l a x) : Keep StallReg.Same l a { x with reqStop := v0 } :=
  StallReg.then ⟨fun r hr => by cases r <;> first | rfl | exact absurd (by decide) hr⟩ hl h

theorem Stall.set_reqYield {l : List StallReg} {a x : Stall} {v0 : Bool} (hl : [StallReg.reqYield].all (fun r => l.contains r) = true)
    (h : Keep StallReg.Same l a x) : Keep StallReg.Same l a { x with reqYield := v0 } :=
  StallReg.then ⟨fun r hr => by cases r <;> first | rfl | exact absurd (by decide) hr⟩ hl h

theorem Stall.set_reqYield_reservedFor {l : List StallReg} {a x : Stall} {v0 : Bool} {v1 : Option Nat} (hl : [StallReg.reqYield, StallReg.reservedFor].all (fun r => l.contains r) = true)
    (h : Keep StallReg.Same l a x) : Keep StallReg.Same l a { x with reqYield := v0, reservedFor := v1 } :=
  StallReg.then ⟨fun r hr => by cases r <;> first | rfl | exact absurd (by decide) hr⟩ hl h

theorem Stall.set_reservedFor_muckAtWake {l : List StallReg} {a x : Stall} {v0 : Option Nat} {v1 : Bool} (hl : [StallReg.reservedFor, StallReg.muckAtWake].all (fun r => l.contains r) = true)
    (h : Keep StallReg.Same l a x) : Keep StallReg.Same l a { x with reservedFor := v0, muckAtWake := v1 } :=
  StallReg.then ⟨fun r hr => by cases r <;> first | rfl | exact absurd (by decide) hr⟩ hl h

theorem Stall.set_sequ {l : List StallReg} {a x : Stall} {v0 : Sequencer} (hl : [StallReg.sequ].all (fun r => l.contains r) = true)
    (h : Keep StallReg.Same l a x) : Keep StallReg.Same l a { x with sequ := v0 } :=
  StallReg.then ⟨fun r hr => by cases r <;> first | rfl | exact absurd (by decide) hr⟩ hl h

theorem Stall.set_state {l : List StallReg} {a x : Stall} {v0 : Nat} (hl : [StallReg.state].all (fun r => l.contains r) = true)
    (h : Keep StallReg.Same l a x) : Keep StallReg.Same l a { x with state := v0 } :=
  StallReg.then ⟨fun r hr => by cases r <;> first | rfl | exact absurd (by decide) hr⟩ hl h

theorem Stall.set_state_inPool_dedicated_jobs_unsound_reqClaim_reservedFor_operand_sequ_tree {l : List StallReg} {a x : Stall} {v0 : Nat} {v1 : Bool} {v2 : Option Nat} {v3 : List Nat} {v4 : Bool} {v5 : Bool} {v6 : Option Nat} {v7 : List Bytes} {v8 : Sequencer} {v9 : Option Nat} (hl : [StallReg.state, StallReg.inPool, StallReg.dedicated, StallReg.jobs, StallReg.unsound, StallReg.reqClaim, StallReg.reservedFor, StallReg.operand, StallReg.sequ, StallReg.tree].all (fun r => l.contains r) = true)
    (h : Keep StallReg.Same l a x) : Keep StallReg.Same l a { x with state := v0, inPool := v1, dedicated := v2, jobs := v3, unsound := v4, reqClaim := v5, reservedFor := v6, operand := v7, sequ := v8, tree := v9 } :=
  StallReg.then ⟨fun r hr => by cases r <;> first | rfl | exact absurd (by decide) hr⟩ hl h

theorem Stall.set_state_jobs_reqFault_reqStop_reqClaim_reqYield_operand_sequ_tree {l : List StallReg} {a x : Stall} {v0 : Nat} {v1 : List Nat} {v2 : Bool} {v3 : Bool} {v4 : Bool} {v5 : Bool} {v6 : List Bytes} {v7 : Sequencer} {v8 : Option Nat} (hl : [StallReg.state, StallReg.jobs, StallReg.reqFault, StallReg.reqStop, StallReg.reqClaim, StallReg.reqYield, StallReg.operand, StallReg.sequ, StallReg.tree].all (fun r => l.contains r) = true)
    (h : Keep StallReg.Same l a x) : Keep StallReg.Same l a { x with state := v0, jobs := v1, reqFault := v2, reqStop := v3, reqClaim := v4, reqYield := v5, operand := v6, sequ := v7, tree := v8 } :=
  StallReg.then ⟨fun r hr => by cases r <;> first | rfl | exact absurd (by decide) hr⟩ hl h

theorem Stall.set_state_jobs_reqFault_reqStop_reqYield_muckFailed_muckThen_sequ_tree {l : List StallReg} {a x : Stall} {v0 : Nat} {v1 : List Nat} {v2 : Bool} {v3 : Bool} {v4 : Bool} {v5 : Bool} {v6 : Nat} {v7 : Sequencer} {v8 : Option Nat} (hl : [StallReg.state, StallReg.jobs, StallReg.reqFault, StallReg.reqStop, StallReg.reqYield, StallReg.muckFailed, StallReg.muckThen, StallReg.sequ, StallReg.tree].all (fun r => l.contains r) = true)
    (h : Keep StallReg.Same l a x) : Keep StallReg.Same l a { x with state := v0, jobs := v1, reqFault := v2, reqStop := v3, reqYield := v4, muckFailed := v5, muckThen := v6, sequ := v7, tree := v8 } :=
  StallReg.then ⟨fun r hr => by cases r <;> first | rfl | exact absurd (by decide) hr⟩ hl h

theorem Stall.set_state_jobs_ucodeOk_operand_sequ_tree {l : List StallReg} {a x : Stall} {v0 : Nat} {v1 : List Nat} {v2 : Bool} {v3 : List Bytes} {v4 : Sequencer} {v5 : Option Nat} (hl : [StallReg.state, StallReg.jobs, StallReg.ucodeOk, StallReg.operand, StallReg.sequ, StallReg.tree].all (fun r => l.contains r) = true)
    (h : Keep StallReg.Same l a x) : Keep StallReg.Same l a { x with state := v0, jobs := v1, ucodeOk := v2, operand := v3, sequ := v4, tree := v5 } :=
  StallReg.then ⟨fun r hr => by cases r <;> first | rfl | exact absurd (by decide) hr⟩ hl h

theorem Stall.set_state_lastPaddock_dirty_prefEnded_tree {l : List StallReg} {a x : Stall} {v0 : Nat} {v1 : Nat} {v2 : Bool} {v3 : Bool} {v4 : Option Nat} (hl : [StallReg.state, StallReg.lastPaddock, StallReg.dirty, StallReg.prefEnded, StallReg.tree].all (fun r => l.contains r) = true)
    (h : Keep StallReg.Same l a x) : Keep StallReg.Same l a { x with state := v0, lastPaddock := v1, dirty := v2, prefEnded := v3, tree := v4 } :=
  StallReg.then ⟨fun r hr => by cases r <;> first | rfl | exact absurd (by decide) hr⟩ hl h

theorem Stall.set_state_lastPaddock_runs_jobs_dirty_prefEnded_scrubDue_cmdRd_cmdWr_reservedFor_operand_sequ {l : List StallReg} {a x : Stall} {v0 : Nat} {v1 : Nat} {v2 : Nat} {v3 : List Nat} {v4 : Bool} {v5 : Bool} {v6 : Bool} {v7 : Nat} {v8 : Nat} {v9 : Option Nat} {v10 : List Bytes} {v11 : Sequencer} (hl : [StallReg.state, StallReg.lastPaddock, StallReg.runs, StallReg.jobs, StallReg.dirty, StallReg.prefEnded, StallReg.scrubDue, StallReg.cmdRd, StallReg.cmdWr, StallReg.reservedFor, StallReg.operand, StallReg.sequ].all (fun r => l.contains r) = true)
    (h : Keep StallReg.Same l a x) : Keep StallReg.Same l a { x with state := v0, lastPaddock := v1, runs := v2, jobs := v3, dirty := v4, prefEnded := v5, scrubDue := v6, cmdRd := v7, cmdWr := v8, reservedFor := v9, operand := v10, sequ := v11 } :=
  StallReg.then ⟨fun r hr => by cases r <;> first | rfl | exact absurd (by decide) hr⟩ hl h

theorem Stall.set_state_muckouts_jobs_reqFault_reqStop_reqClaim_reqYield_dirty_muckFailed_muckThen_prefEnded_scrubDue_reservedFor_operand_sequ_tree {l : List StallReg} {a x : Stall} {v0 : Nat} {v1 : Nat} {v2 : List Nat} {v3 : Bool} {v4 : Bool} {v5 : Bool} {v6 : Bool} {v7 : Bool} {v8 : Bool} {v9 : Nat} {v10 : Bool} {v11 : Bool} {v12 : Option Nat} {v13 : List Bytes} {v14 : Sequencer} {v15 : Option Nat} (hl : [StallReg.state, StallReg.muckouts, StallReg.jobs, StallReg.reqFault, StallReg.reqStop, StallReg.reqClaim, StallReg.reqYield, StallReg.dirty, StallReg.muckFailed, StallReg.muckThen, StallReg.prefEnded, StallReg.scrubDue, StallReg.reservedFor, StallReg.operand, StallReg.sequ, StallReg.tree].all (fun r => l.contains r) = true)
    (h : Keep StallReg.Same l a x) : Keep StallReg.Same l a { x with state := v0, muckouts := v1, jobs := v2, reqFault := v3, reqStop := v4, reqClaim := v5, reqYield := v6, dirty := v7, muckFailed := v8, muckThen := v9, prefEnded := v10, scrubDue := v11, reservedFor := v12, operand := v13, sequ := v14, tree := v15 } :=
  StallReg.then ⟨fun r hr => by cases r <;> first | rfl | exact absurd (by decide) hr⟩ hl h

theorem Stall.set_state_operand {l : List StallReg} {a x : Stall} {v0 : Nat} {v1 : List Bytes} (hl : [StallReg.state, StallReg.operand].all (fun r => l.contains r) = true)
    (h : Keep StallReg.Same l a x) : Keep StallReg.Same l a { x with state := v0, operand := v1 } :=
  StallReg.then ⟨fun r hr => by cases r <;> first | rfl | exact absurd (by decide) hr⟩ hl h

theorem Stall.set_state_reqFault_reqStop_reqYield_sequ {l : List StallReg} {a x : Stall} {v0 : Nat} {v1 : Bool} {v2 : Bool} {v3 : Bool} {v4 : Sequencer} (hl : [StallReg.state, StallReg.reqFault, StallReg.reqStop, StallReg.reqYield, StallReg.sequ].all (fun r => l.contains r) = true)
    (h : Keep StallReg.Same l a x) : Keep StallReg.Same l a { x with state := v0, reqFault := v1, reqStop := v2, reqYield := v3, sequ := v4 } :=
  StallReg.then ⟨fun r hr => by cases r <;> first | rfl | exact absurd (by decide) hr⟩ hl h

theorem Stall.set_state_tree {l : List StallReg} {a x : Stall} {v0 : Nat} {v1 : Option Nat} (hl : [StallReg.state, StallReg.tree].all (fun r => l.contains r) = true)
    (h : Keep StallReg.Same l a x) : Keep StallReg.Same l a { x with state := v0, tree := v1 } :=
  StallReg.then ⟨fun r hr => by cases r <;> first | rfl | exact absurd (by decide) hr⟩ hl h

theorem Stall.set_ucodeOk {l : List StallReg} {a x : Stall} {v0 : Bool} (hl : [StallReg.ucodeOk].all (fun r => l.contains r) = true)
    (h : Keep StallReg.Same l a x) : Keep StallReg.Same l a { x with ucodeOk := v0 } :=
  StallReg.then ⟨fun r hr => by cases r <;> first | rfl | exact absurd (by decide) hr⟩ hl h

theorem Stall.set_unsound {l : List StallReg} {a x : Stall} {v0 : Bool} (hl : [StallReg.unsound].all (fun r => l.contains r) = true)
    (h : Keep StallReg.Same l a x) : Keep StallReg.Same l a { x with unsound := v0 } :=
  StallReg.then ⟨fun r hr => by cases r <;> first | rfl | exact absurd (by decide) hr⟩ hl h

theorem Sys.set_bootState_reason_wait {l : List SysReg} {a x : Sys} {v0 : Nat} {v1 : Nat} {v2 : BootWait} (hl : [SysReg.bootState, SysReg.reason, SysReg.wait].all (fun r => l.contains r) = true)
    (h : Keep SysReg.Same l a x) : Keep SysReg.Same l a { x with bootState := v0, reason := v1, wait := v2 } :=
  SysReg.then ⟨fun r hr => by cases r <;> first | rfl | exact absurd (by decide) hr⟩ hl h

theorem Sys.set_boundary_tapIr {l : List SysReg} {a x : Sys} {v0 : Bool} {v1 : Nat} (hl : [SysReg.boundary, SysReg.tapIr].all (fun r => l.contains r) = true)
    (h : Keep SysReg.Same l a x) : Keep SysReg.Same l a { x with boundary := v0, tapIr := v1 } :=
  SysReg.then ⟨fun r hr => by cases r <;> first | rfl | exact absurd (by decide) hr⟩ hl h

theorem Sys.set_boundaryReg {l : List SysReg} {a x : Sys} {v0 : Nat} (hl : [SysReg.boundaryReg].all (fun r => l.contains r) = true)
    (h : Keep SysReg.Same l a x) : Keep SysReg.Same l a { x with boundaryReg := v0 } :=
  SysReg.then ⟨fun r hr => by cases r <;> first | rfl | exact absurd (by decide) hr⟩ hl h

theorem Sys.set_causeClock {l : List SysReg} {a x : Sys} {v0 : Bool} (hl : [SysReg.causeClock].all (fun r => l.contains r) = true)
    (h : Keep SysReg.Same l a x) : Keep SysReg.Same l a { x with causeClock := v0 } :=
  SysReg.then ⟨fun r hr => by cases r <;> first | rfl | exact absurd (by decide) hr⟩ hl h

theorem Sys.set_causeCold_causeWarmSw_causeWarmFatal_causeWarmApply {l : List SysReg} {a x : Sys} {v0 : Bool} {v1 : Bool} {v2 : Bool} {v3 : Bool} (hl : [SysReg.causeCold, SysReg.causeWarmSw, SysReg.causeWarmFatal, SysReg.causeWarmApply].all (fun r => l.contains r) = true)
    (h : Keep SysReg.Same l a x) : Keep SysReg.Same l a { x with causeCold := v0, causeWarmSw := v1, causeWarmFatal := v2, causeWarmApply := v3 } :=
  SysReg.then ⟨fun r hr => by cases r <;> first | rfl | exact absurd (by decide) hr⟩ hl h

theorem Sys.set_causeCold_causeWarmSw_causeWarmFatal_causeWarmApply_causeHif_causeClock_paddockResets {l : List SysReg} {a x : Sys} {v0 : Bool} {v1 : Bool} {v2 : Bool} {v3 : Bool} {v4 : Bool} {v5 : Bool} {v6 : Nat} (hl : [SysReg.causeCold, SysReg.causeWarmSw, SysReg.causeWarmFatal, SysReg.causeWarmApply, SysReg.causeHif, SysReg.causeClock, SysReg.paddockResets].all (fun r => l.contains r) = true)
    (h : Keep SysReg.Same l a x) : Keep SysReg.Same l a { x with causeCold := v0, causeWarmSw := v1, causeWarmFatal := v2, causeWarmApply := v3, causeHif := v4, causeClock := v5, paddockResets := v6 } :=
  SysReg.then ⟨fun r hr => by cases r <;> first | rfl | exact absurd (by decide) hr⟩ hl h

theorem Sys.set_causeHif {l : List SysReg} {a x : Sys} {v0 : Bool} (hl : [SysReg.causeHif].all (fun r => l.contains r) = true)
    (h : Keep SysReg.Same l a x) : Keep SysReg.Same l a { x with causeHif := v0 } :=
  SysReg.then ⟨fun r hr => by cases r <;> first | rfl | exact absurd (by decide) hr⟩ hl h

theorem Sys.set_deepSleep {l : List SysReg} {a x : Sys} {v0 : Bool} (hl : [SysReg.deepSleep].all (fun r => l.contains r) = true)
    (h : Keep SysReg.Same l a x) : Keep SysReg.Same l a { x with deepSleep := v0 } :=
  SysReg.then ⟨fun r hr => by cases r <;> first | rfl | exact absurd (by decide) hr⟩ hl h

theorem Sys.set_degraded {l : List SysReg} {a x : Sys} {v0 : Nat} (hl : [SysReg.degraded].all (fun r => l.contains r) = true)
    (h : Keep SysReg.Same l a x) : Keep SysReg.Same l a { x with degraded := v0 } :=
  SysReg.then ⟨fun r hr => by cases r <;> first | rfl | exact absurd (by decide) hr⟩ hl h

theorem Sys.set_firmware_fwSlot_fwBuild {l : List SysReg} {a x : Sys} {v0 : Bytes} {v1 : Nat} {v2 : Nat} (hl : [SysReg.firmware, SysReg.fwSlot, SysReg.fwBuild].all (fun r => l.contains r) = true)
    (h : Keep SysReg.Same l a x) : Keep SysReg.Same l a { x with firmware := v0, fwSlot := v1, fwBuild := v2 } :=
  SysReg.then ⟨fun r hr => by cases r <;> first | rfl | exact absurd (by decide) hr⟩ hl h

theorem Sys.set_heldWarm {l : List SysReg} {a x : Sys} {v0 : Option Nat} (hl : [SysReg.heldWarm].all (fun r => l.contains r) = true)
    (h : Keep SysReg.Same l a x) : Keep SysReg.Same l a { x with heldWarm := v0 } :=
  SysReg.then ⟨fun r hr => by cases r <;> first | rfl | exact absurd (by decide) hr⟩ hl h

theorem Sys.set_linkWidth_linkReversed {l : List SysReg} {a x : Sys} {v0 : Nat} {v1 : Bool} (hl : [SysReg.linkWidth, SysReg.linkReversed].all (fun r => l.contains r) = true)
    (h : Keep SysReg.Same l a x) : Keep SysReg.Same l a { x with linkWidth := v0, linkReversed := v1 } :=
  SysReg.then ⟨fun r hr => by cases r <;> first | rfl | exact absurd (by decide) hr⟩ hl h

theorem Sys.set_linkWidth_linkReversed_stage_wait {l : List SysReg} {a x : Sys} {v0 : Nat} {v1 : Bool} {v2 : Nat} {v3 : BootWait} (hl : [SysReg.linkWidth, SysReg.linkReversed, SysReg.stage, SysReg.wait].all (fun r => l.contains r) = true)
    (h : Keep SysReg.Same l a x) : Keep SysReg.Same l a { x with linkWidth := v0, linkReversed := v1, stage := v2, wait := v3 } :=
  SysReg.then ⟨fun r hr => by cases r <;> first | rfl | exact absurd (by decide) hr⟩ hl h

theorem Sys.set_loaded {l : List SysReg} {a x : Sys} {v0 : SMap LoadedImage} (hl : [SysReg.loaded].all (fun r => l.contains r) = true)
    (h : Keep SysReg.Same l a x) : Keep SysReg.Same l a { x with loaded := v0 } :=
  SysReg.then ⟨fun r hr => by cases r <;> first | rfl | exact absurd (by decide) hr⟩ hl h

theorem Sys.set_mbistRan {l : List SysReg} {a x : Sys} {v0 : Bool} (hl : [SysReg.mbistRan].all (fun r => l.contains r) = true)
    (h : Keep SysReg.Same l a x) : Keep SysReg.Same l a { x with mbistRan := v0 } :=
  SysReg.then ⟨fun r hr => by cases r <;> first | rfl | exact absurd (by decide) hr⟩ hl h

theorem Sys.set_paddockResets {l : List SysReg} {a x : Sys} {v0 : Nat} (hl : [SysReg.paddockResets].all (fun r => l.contains r) = true)
    (h : Keep SysReg.Same l a x) : Keep SysReg.Same l a { x with paddockResets := v0 } :=
  SysReg.then ⟨fun r hr => by cases r <;> first | rfl | exact absurd (by decide) hr⟩ hl h

theorem Sys.set_paddockSel {l : List SysReg} {a x : Sys} {v0 : Nat} (hl : [SysReg.paddockSel].all (fun r => l.contains r) = true)
    (h : Keep SysReg.Same l a x) : Keep SysReg.Same l a { x with paddockSel := v0 } :=
  SysReg.then ⟨fun r hr => by cases r <;> first | rfl | exact absurd (by decide) hr⟩ hl h

theorem Sys.set_perstN {l : List SysReg} {a x : Sys} {v0 : Bool} (hl : [SysReg.perstN].all (fun r => l.contains r) = true)
    (h : Keep SysReg.Same l a x) : Keep SysReg.Same l a { x with perstN := v0 } :=
  SysReg.then ⟨fun r hr => by cases r <;> first | rfl | exact absurd (by decide) hr⟩ hl h

theorem Sys.set_perstN_wakeDriven {l : List SysReg} {a x : Sys} {v0 : Bool} {v1 : Bool} (hl : [SysReg.perstN, SysReg.wakeDriven].all (fun r => l.contains r) = true)
    (h : Keep SysReg.Same l a x) : Keep SysReg.Same l a { x with perstN := v0, wakeDriven := v1 } :=
  SysReg.then ⟨fun r hr => by cases r <;> first | rfl | exact absurd (by decide) hr⟩ hl h

theorem Sys.set_pllLocked {l : List SysReg} {a x : Sys} {v0 : Bool} (hl : [SysReg.pllLocked].all (fun r => l.contains r) = true)
    (h : Keep SysReg.Same l a x) : Keep SysReg.Same l a { x with pllLocked := v0 } :=
  SysReg.then ⟨fun r hr => by cases r <;> first | rfl | exact absurd (by decide) hr⟩ hl h

theorem Sys.set_porstN {l : List SysReg} {a x : Sys} {v0 : Bool} (hl : [SysReg.porstN].all (fun r => l.contains r) = true)
    (h : Keep SysReg.Same l a x) : Keep SysReg.Same l a { x with porstN := v0 } :=
  SysReg.then ⟨fun r hr => by cases r <;> first | rfl | exact absurd (by decide) hr⟩ hl h

theorem Sys.set_porstN_stage_wait {l : List SysReg} {a x : Sys} {v0 : Bool} {v1 : Nat} {v2 : BootWait} (hl : [SysReg.porstN, SysReg.stage, SysReg.wait].all (fun r => l.contains r) = true)
    (h : Keep SysReg.Same l a x) : Keep SysReg.Same l a { x with porstN := v0, stage := v1, wait := v2 } :=
  SysReg.then ⟨fun r hr => by cases r <;> first | rfl | exact absurd (by decide) hr⟩ hl h

theorem Sys.set_powerFailN {l : List SysReg} {a x : Sys} {v0 : Bool} (hl : [SysReg.powerFailN].all (fun r => l.contains r) = true)
    (h : Keep SysReg.Same l a x) : Keep SysReg.Same l a { x with powerFailN := v0 } :=
  SysReg.then ⟨fun r hr => by cases r <;> first | rfl | exact absurd (by decide) hr⟩ hl h

theorem Sys.set_powerFailN_wait {l : List SysReg} {a x : Sys} {v0 : Bool} {v1 : BootWait} (hl : [SysReg.powerFailN, SysReg.wait].all (fun r => l.contains r) = true)
    (h : Keep SysReg.Same l a x) : Keep SysReg.Same l a { x with powerFailN := v0, wait := v1 } :=
  SysReg.then ⟨fun r hr => by cases r <;> first | rfl | exact absurd (by decide) hr⟩ hl h

theorem Sys.set_refclk {l : List SysReg} {a x : Sys} {v0 : Bool} (hl : [SysReg.refclk].all (fun r => l.contains r) = true)
    (h : Keep SysReg.Same l a x) : Keep SysReg.Same l a { x with refclk := v0 } :=
  SysReg.then ⟨fun r hr => by cases r <;> first | rfl | exact absurd (by decide) hr⟩ hl h

theorem Sys.set_stage {l : List SysReg} {a x : Sys} {v0 : Nat} (hl : [SysReg.stage].all (fun r => l.contains r) = true)
    (h : Keep SysReg.Same l a x) : Keep SysReg.Same l a { x with stage := v0 } :=
  SysReg.then ⟨fun r hr => by cases r <;> first | rfl | exact absurd (by decide) hr⟩ hl h

theorem Sys.set_stage_bootState_wait {l : List SysReg} {a x : Sys} {v0 : Nat} {v1 : Nat} {v2 : BootWait} (hl : [SysReg.stage, SysReg.bootState, SysReg.wait].all (fun r => l.contains r) = true)
    (h : Keep SysReg.Same l a x) : Keep SysReg.Same l a { x with stage := v0, bootState := v1, wait := v2 } :=
  SysReg.then ⟨fun r hr => by cases r <;> first | rfl | exact absurd (by decide) hr⟩ hl h

theorem Sys.set_stage_wait {l : List SysReg} {a x : Sys} {v0 : Nat} {v1 : BootWait} (hl : [SysReg.stage, SysReg.wait].all (fun r => l.contains r) = true)
    (h : Keep SysReg.Same l a x) : Keep SysReg.Same l a { x with stage := v0, wait := v1 } :=
  SysReg.then ⟨fun r hr => by cases r <;> first | rfl | exact absurd (by decide) hr⟩ hl h

theorem Sys.set_straps_stage {l : List SysReg} {a x : Sys} {v0 : Straps} {v1 : Nat} (hl : [SysReg.straps, SysReg.stage].all (fun r => l.contains r) = true)
    (h : Keep SysReg.Same l a x) : Keep SysReg.Same l a { x with straps := v0, stage := v1 } :=
  SysReg.then ⟨fun r hr => by cases r <;> first | rfl | exact absurd (by decide) hr⟩ hl h

theorem Sys.set_tapIr {l : List SysReg} {a x : Sys} {v0 : Nat} (hl : [SysReg.tapIr].all (fun r => l.contains r) = true)
    (h : Keep SysReg.Same l a x) : Keep SysReg.Same l a { x with tapIr := v0 } :=
  SysReg.then ⟨fun r hr => by cases r <;> first | rfl | exact absurd (by decide) hr⟩ hl h

theorem Sys.set_timeHayloft {l : List SysReg} {a x : Sys} {v0 : Nat} (hl : [SysReg.timeHayloft].all (fun r => l.contains r) = true)
    (h : Keep SysReg.Same l a x) : Keep SysReg.Same l a { x with timeHayloft := v0 } :=
  SysReg.then ⟨fun r hr => by cases r <;> first | rfl | exact absurd (by decide) hr⟩ hl h

theorem Sys.set_timeJournal {l : List SysReg} {a x : Sys} {v0 : Nat} (hl : [SysReg.timeJournal].all (fun r => l.contains r) = true)
    (h : Keep SysReg.Same l a x) : Keep SysReg.Same l a { x with timeJournal := v0 } :=
  SysReg.then ⟨fun r hr => by cases r <;> first | rfl | exact absurd (by decide) hr⟩ hl h

theorem Sys.set_ttHbo {l : List SysReg} {a x : Sys} {v0 : Bool} (hl : [SysReg.ttHbo].all (fun r => l.contains r) = true)
    (h : Keep SysReg.Same l a x) : Keep SysReg.Same l a { x with ttHbo := v0 } :=
  SysReg.then ⟨fun r hr => by cases r <;> first | rfl | exact absurd (by decide) hr⟩ hl h

theorem Sys.set_wait {l : List SysReg} {a x : Sys} {v0 : BootWait} (hl : [SysReg.wait].all (fun r => l.contains r) = true)
    (h : Keep SysReg.Same l a x) : Keep SysReg.Same l a { x with wait := v0 } :=
  SysReg.then ⟨fun r hr => by cases r <;> first | rfl | exact absurd (by decide) hr⟩ hl h

theorem Sys.set_wakeDriven {l : List SysReg} {a x : Sys} {v0 : Bool} (hl : [SysReg.wakeDriven].all (fun r => l.contains r) = true)
    (h : Keep SysReg.Same l a x) : Keep SysReg.Same l a { x with wakeDriven := v0 } :=
  SysReg.then ⟨fun r hr => by cases r <;> first | rfl | exact absurd (by decide) hr⟩ hl h

theorem Sys.set_wakeDriven_ttHbo_loaded_firmware_straps_stage_bootState_reason_fwSlot_fwBuild_wait_causeCold_causeWarmSw_causeWarmFatal_causeWarmApply_causeHif_causeClock_paddockResets_heldWarm_deepSleep_degraded_paddockSel_timeJournal_boundary_tapIr_boundaryReg_mbistRan {l : List SysReg} {a x : Sys} {v0 : Bool} {v1 : Bool} {v2 : SMap LoadedImage} {v3 : Bytes} {v4 : Straps} {v5 : Nat} {v6 : Nat} {v7 : Nat} {v8 : Nat} {v9 : Nat} {v10 : BootWait} {v11 : Bool} {v12 : Bool} {v13 : Bool} {v14 : Bool} {v15 : Bool} {v16 : Bool} {v17 : Nat} {v18 : Option Nat} {v19 : Bool} {v20 : Nat} {v21 : Nat} {v22 : Nat} {v23 : Bool} {v24 : Nat} {v25 : Nat} {v26 : Bool} (hl : [SysReg.wakeDriven, SysReg.ttHbo, SysReg.loaded, SysReg.firmware, SysReg.straps, SysReg.stage, SysReg.bootState, SysReg.reason, SysReg.fwSlot, SysReg.fwBuild, SysReg.wait, SysReg.causeCold, SysReg.causeWarmSw, SysReg.causeWarmFatal, SysReg.causeWarmApply, SysReg.causeHif, SysReg.causeClock, SysReg.paddockResets, SysReg.heldWarm, SysReg.deepSleep, SysReg.degraded, SysReg.paddockSel, SysReg.timeJournal, SysReg.boundary, SysReg.tapIr, SysReg.boundaryReg, SysReg.mbistRan].all (fun r => l.contains r) = true)
    (h : Keep SysReg.Same l a x) : Keep SysReg.Same l a { x with wakeDriven := v0, ttHbo := v1, loaded := v2, firmware := v3, straps := v4, stage := v5, bootState := v6, reason := v7, fwSlot := v8, fwBuild := v9, wait := v10, causeCold := v11, causeWarmSw := v12, causeWarmFatal := v13, causeWarmApply := v14, causeHif := v15, causeClock := v16, paddockResets := v17, heldWarm := v18, deepSleep := v19, degraded := v20, paddockSel := v21, timeJournal := v22, boundary := v23, tapIr := v24, boundaryReg := v25, mbistRan := v26 } :=
  SysReg.then ⟨fun r hr => by cases r <;> first | rfl | exact absurd (by decide) hr⟩ hl h

theorem Sys.set_xtal {l : List SysReg} {a x : Sys} {v0 : Bool} (hl : [SysReg.xtal].all (fun r => l.contains r) = true)
    (h : Keep SysReg.Same l a x) : Keep SysReg.Same l a { x with xtal := v0 } :=
  SysReg.then ⟨fun r hr => by cases r <;> first | rfl | exact absurd (by decide) hr⟩ hl h

theorem Tack.set_blobs {l : List TkReg} {a x : Tack} {v0 : SMap BlobEntry} (hl : [TkReg.blobs].all (fun r => l.contains r) = true)
    (h : Keep TkReg.Same l a x) : Keep TkReg.Same l a { x with blobs := v0 } :=
  TkReg.then ⟨fun r hr => by cases r <;> first | rfl | exact absurd (by decide) hr⟩ hl h

theorem Tack.set_hbs {l : List TkReg} {a x : Tack} {v0 : SMap HbsKey} (hl : [TkReg.hbs].all (fun r => l.contains r) = true)
    (h : Keep TkReg.Same l a x) : Keep TkReg.Same l a { x with hbs := v0 } :=
  TkReg.then ⟨fun r hr => by cases r <;> first | rfl | exact absurd (by decide) hr⟩ hl h

theorem Tack.set_hbs_lost {l : List TkReg} {a x : Tack} {v0 : SMap HbsKey} {v1 : Nat} (hl : [TkReg.hbs, TkReg.lost].all (fun r => l.contains r) = true)
    (h : Keep TkReg.Same l a x) : Keep TkReg.Same l a { x with hbs := v0, lost := v1 } :=
  TkReg.then ⟨fun r hr => by cases r <;> first | rfl | exact absurd (by decide) hr⟩ hl h

theorem Tack.set_hold {l : List TkReg} {a x : Tack} {v0 : Bool} (hl : [TkReg.hold].all (fun r => l.contains r) = true)
    (h : Keep TkReg.Same l a x) : Keep TkReg.Same l a { x with hold := v0 } :=
  TkReg.then ⟨fun r hr => by cases r <;> first | rfl | exact absurd (by decide) hr⟩ hl h

theorem Tack.set_remask_maskDraw {l : List TkReg} {a x : Tack} {v0 : Nat} {v1 : Nat} (hl : [TkReg.remask, TkReg.maskDraw].all (fun r => l.contains r) = true)
    (h : Keep TkReg.Same l a x) : Keep TkReg.Same l a { x with remask := v0, maskDraw := v1 } :=
  TkReg.then ⟨fun r hr => by cases r <;> first | rfl | exact absurd (by decide) hr⟩ hl h

theorem Tack.set_restoring {l : List TkReg} {a x : Tack} {v0 : Bool} (hl : [TkReg.restoring].all (fun r => l.contains r) = true)
    (h : Keep TkReg.Same l a x) : Keep TkReg.Same l a { x with restoring := v0 } :=
  TkReg.then ⟨fun r hr => by cases r <;> first | rfl | exact absurd (by decide) hr⟩ hl h

theorem Tack.set_slots {l : List TkReg} {a x : Tack} {v0 : SMap Slot} (hl : [TkReg.slots].all (fun r => l.contains r) = true)
    (h : Keep TkReg.Same l a x) : Keep TkReg.Same l a { x with slots := v0 } :=
  TkReg.then ⟨fun r hr => by cases r <;> first | rfl | exact absurd (by decide) hr⟩ hl h

theorem Tack.set_slots_blobs_hbs_unsealed {l : List TkReg} {a x : Tack} {v0 : SMap Slot} {v1 : SMap BlobEntry} {v2 : SMap HbsKey} {v3 : Bool} (hl : [TkReg.slots, TkReg.blobs, TkReg.hbs, TkReg.unsealed].all (fun r => l.contains r) = true)
    (h : Keep TkReg.Same l a x) : Keep TkReg.Same l a { x with slots := v0, blobs := v1, hbs := v2, unsealed := v3 } :=
  TkReg.then ⟨fun r hr => by cases r <;> first | rfl | exact absurd (by decide) hr⟩ hl h

theorem Tack.set_slots_blobs_hbs_unsealed_restoring_lost_maskDraw_ownerRoot {l : List TkReg} {a x : Tack} {v0 : SMap Slot} {v1 : SMap BlobEntry} {v2 : SMap HbsKey} {v3 : Bool} {v4 : Bool} {v5 : Nat} {v6 : Nat} {v7 : Bytes} (hl : [TkReg.slots, TkReg.blobs, TkReg.hbs, TkReg.unsealed, TkReg.restoring, TkReg.lost, TkReg.maskDraw, TkReg.ownerRoot].all (fun r => l.contains r) = true)
    (h : Keep TkReg.Same l a x) : Keep TkReg.Same l a { x with slots := v0, blobs := v1, hbs := v2, unsealed := v3, restoring := v4, lost := v5, maskDraw := v6, ownerRoot := v7 } :=
  TkReg.then ⟨fun r hr => by cases r <;> first | rfl | exact absurd (by decide) hr⟩ hl h

theorem Tack.set_slots_blobs_maskDraw_permDraw {l : List TkReg} {a x : Tack} {v0 : SMap Slot} {v1 : SMap BlobEntry} {v2 : Nat} {v3 : Nat} (hl : [TkReg.slots, TkReg.blobs, TkReg.maskDraw, TkReg.permDraw].all (fun r => l.contains r) = true)
    (h : Keep TkReg.Same l a x) : Keep TkReg.Same l a { x with slots := v0, blobs := v1, maskDraw := v2, permDraw := v3 } :=
  TkReg.then ⟨fun r hr => by cases r <;> first | rfl | exact absurd (by decide) hr⟩ hl h

theorem Tack.set_slots_blobs_unsealed_maskDraw_ownerRoot_scrambled {l : List TkReg} {a x : Tack} {v0 : SMap Slot} {v1 : SMap BlobEntry} {v2 : Bool} {v3 : Nat} {v4 : Bytes} {v5 : Bool} (hl : [TkReg.slots, TkReg.blobs, TkReg.unsealed, TkReg.maskDraw, TkReg.ownerRoot, TkReg.scrambled].all (fun r => l.contains r) = true)
    (h : Keep TkReg.Same l a x) : Keep TkReg.Same l a { x with slots := v0, blobs := v1, unsealed := v2, maskDraw := v3, ownerRoot := v4, scrambled := v5 } :=
  TkReg.then ⟨fun r hr => by cases r <;> first | rfl | exact absurd (by decide) hr⟩ hl h

theorem Tack.set_unsealed_ownerRoot_jseal_scrambled {l : List TkReg} {a x : Tack} {v0 : Bool} {v1 : Bytes} {v2 : Bytes} {v3 : Bool} (hl : [TkReg.unsealed, TkReg.ownerRoot, TkReg.jseal, TkReg.scrambled].all (fun r => l.contains r) = true)
    (h : Keep TkReg.Same l a x) : Keep TkReg.Same l a { x with unsealed := v0, ownerRoot := v1, jseal := v2, scrambled := v3 } :=
  TkReg.then ⟨fun r hr => by cases r <;> first | rfl | exact absurd (by decide) hr⟩ hl h

theorem Tack.set_unsealed_restoring_hold_remask_lost_maskDraw_permDraw_ownerRoot_jseal_scrambled {l : List TkReg} {a x : Tack} {v0 : Bool} {v1 : Bool} {v2 : Bool} {v3 : Nat} {v4 : Nat} {v5 : Nat} {v6 : Nat} {v7 : Bytes} {v8 : Bytes} {v9 : Bool} (hl : [TkReg.unsealed, TkReg.restoring, TkReg.hold, TkReg.remask, TkReg.lost, TkReg.maskDraw, TkReg.permDraw, TkReg.ownerRoot, TkReg.jseal, TkReg.scrambled].all (fun r => l.contains r) = true)
    (h : Keep TkReg.Same l a x) : Keep TkReg.Same l a { x with unsealed := v0, restoring := v1, hold := v2, remask := v3, lost := v4, maskDraw := v5, permDraw := v6, ownerRoot := v7, jseal := v8, scrambled := v9 } :=
  TkReg.then ⟨fun r hr => by cases r <;> first | rfl | exact absurd (by decide) hr⟩ hl h

theorem Tamper.set_cmdErr {l : List TpReg} {a x : Tamper} {v0 : Nat} (hl : [TpReg.cmdErr].all (fun r => l.contains r) = true)
    (h : Keep TpReg.Same l a x) : Keep TpReg.Same l a { x with cmdErr := v0 } :=
  TpReg.then ⟨fun r hr => by cases r <;> first | rfl | exact absurd (by decide) hr⟩ hl h

theorem Tamper.set_latched_response_alarm_count {l : List TpReg} {a x : Tamper} {v0 : Bool} {v1 : Nat} {v2 : Nat} {v3 : Nat} (hl : [TpReg.latched, TpReg.response, TpReg.alarm, TpReg.count].all (fun r => l.contains r) = true)
    (h : Keep TpReg.Same l a x) : Keep TpReg.Same l a { x with latched := v0, response := v1, alarm := v2, count := v3 } :=
  TpReg.then ⟨fun r hr => by cases r <;> first | rfl | exact absurd (by decide) hr⟩ hl h

theorem Tamper.set_latched_response_resetRequired_alarm {l : List TpReg} {a x : Tamper} {v0 : Bool} {v1 : Nat} {v2 : Bool} {v3 : Nat} (hl : [TpReg.latched, TpReg.response, TpReg.resetRequired, TpReg.alarm].all (fun r => l.contains r) = true)
    (h : Keep TpReg.Same l a x) : Keep TpReg.Same l a { x with latched := v0, response := v1, resetRequired := v2, alarm := v3 } :=
  TpReg.then ⟨fun r hr => by cases r <;> first | rfl | exact absurd (by decide) hr⟩ hl h

theorem Tamper.set_live {l : List TpReg} {a x : Tamper} {v0 : Nat} (hl : [TpReg.live].all (fun r => l.contains r) = true)
    (h : Keep TpReg.Same l a x) : Keep TpReg.Same l a { x with live := v0 } :=
  TpReg.then ⟨fun r hr => by cases r <;> first | rfl | exact absurd (by decide) hr⟩ hl h

theorem Tamper.set_meshOn_meshDraw {l : List TpReg} {a x : Tamper} {v0 : Bool} {v1 : Nat} (hl : [TpReg.meshOn, TpReg.meshDraw].all (fun r => l.contains r) = true)
    (h : Keep TpReg.Same l a x) : Keep TpReg.Same l a { x with meshOn := v0, meshDraw := v1 } :=
  TpReg.then ⟨fun r hr => by cases r <;> first | rfl | exact absurd (by decide) hr⟩ hl h

theorem Tamper.set_meshPending {l : List TpReg} {a x : Tamper} {v0 : Nat} (hl : [TpReg.meshPending].all (fun r => l.contains r) = true)
    (h : Keep TpReg.Same l a x) : Keep TpReg.Same l a { x with meshPending := v0 } :=
  TpReg.then ⟨fun r hr => by cases r <;> first | rfl | exact absurd (by decide) hr⟩ hl h

theorem Tamper.set_meshPending_meshOff {l : List TpReg} {a x : Tamper} {v0 : Nat} {v1 : Nat} (hl : [TpReg.meshPending, TpReg.meshOff].all (fun r => l.contains r) = true)
    (h : Keep TpReg.Same l a x) : Keep TpReg.Same l a { x with meshPending := v0, meshOff := v1 } :=
  TpReg.then ⟨fun r hr => by cases r <;> first | rfl | exact absurd (by decide) hr⟩ hl h

theorem Tamper.set_reserveDraw {l : List TpReg} {a x : Tamper} {v0 : Nat} (hl : [TpReg.reserveDraw].all (fun r => l.contains r) = true)
    (h : Keep TpReg.Same l a x) : Keep TpReg.Same l a { x with reserveDraw := v0 } :=
  TpReg.then ⟨fun r hr => by cases r <;> first | rfl | exact absurd (by decide) hr⟩ hl h

theorem Tamper.set_sleepScramble {l : List TpReg} {a x : Tamper} {v0 : Bool} (hl : [TpReg.sleepScramble].all (fun r => l.contains r) = true)
    (h : Keep TpReg.Same l a x) : Keep TpReg.Same l a { x with sleepScramble := v0 } :=
  TpReg.then ⟨fun r hr => by cases r <;> first | rfl | exact absurd (by decide) hr⟩ hl h

theorem Tamper.set_tamperHold {l : List TpReg} {a x : Tamper} {v0 : Bool} (hl : [TpReg.tamperHold].all (fun r => l.contains r) = true)
    (h : Keep TpReg.Same l a x) : Keep TpReg.Same l a { x with tamperHold := v0 } :=
  TpReg.then ⟨fun r hr => by cases r <;> first | rfl | exact absurd (by decide) hr⟩ hl h

theorem Tether.set_lanes {l : List TtReg} {a x : Tether} {v0 : SMap Lane} (hl : [TtReg.lanes].all (fun r => l.contains r) = true)
    (h : Keep TtReg.Same l a x) : Keep TtReg.Same l a { x with lanes := v0 } :=
  TtReg.then ⟨fun r hr => by cases r <;> first | rfl | exact absurd (by decide) hr⟩ hl h

theorem Tether.set_lanes_linkUp_hbIn_retraining_retrains_retransmits_txSeq_rxSeq_unacked_mirror_mirrorA_mirrorCaps_split_partnerFailed_partnerTerm_partnerSerial_partnerPresent_mismatch_mirrorObjs {l : List TtReg} {a x : Tether} {v0 : SMap Lane} {v1 : Bool} {v2 : Bool} {v3 : Bool} {v4 : Nat} {v5 : Nat} {v6 : Nat} {v7 : Nat} {v8 : List Frame} {v9 : List Job} {v10 : SMap Nat} {v11 : SMap Bytes} {v12 : Bool} {v13 : Bool} {v14 : Nat} {v15 : Nat} {v16 : Bool} {v17 : Bool} {v18 : List (Nat × Nat)} (hl : [TtReg.lanes, TtReg.linkUp, TtReg.hbIn, TtReg.retraining, TtReg.retrains, TtReg.retransmits, TtReg.txSeq, TtReg.rxSeq, TtReg.unacked, TtReg.mirror, TtReg.mirrorA, TtReg.mirrorCaps, TtReg.split, TtReg.partnerFailed, TtReg.partnerTerm, TtReg.partnerSerial, TtReg.partnerPresent, TtReg.mismatch, TtReg.mirrorObjs].all (fun r => l.contains r) = true)
    (h : Keep TtReg.Same l a x) : Keep TtReg.Same l a { x with lanes := v0, linkUp := v1, hbIn := v2, retraining := v3, retrains := v4, retransmits := v5, txSeq := v6, rxSeq := v7, unacked := v8, mirror := v9, mirrorA := v10, mirrorCaps := v11, split := v12, partnerFailed := v13, partnerTerm := v14, partnerSerial := v15, partnerPresent := v16, mismatch := v17, mirrorObjs := v18 } :=
  TtReg.then ⟨fun r hr => by cases r <;> first | rfl | exact absurd (by decide) hr⟩ hl h

theorem Tether.set_linkUp {l : List TtReg} {a x : Tether} {v0 : Bool} (hl : [TtReg.linkUp].all (fun r => l.contains r) = true)
    (h : Keep TtReg.Same l a x) : Keep TtReg.Same l a { x with linkUp := v0 } :=
  TtReg.then ⟨fun r hr => by cases r <;> first | rfl | exact absurd (by decide) hr⟩ hl h

theorem Tether.set_linkUp_hbIn_split_partnerFailed_partnerPresent {l : List TtReg} {a x : Tether} {v0 : Bool} {v1 : Bool} {v2 : Bool} {v3 : Bool} {v4 : Bool} (hl : [TtReg.linkUp, TtReg.hbIn, TtReg.split, TtReg.partnerFailed, TtReg.partnerPresent].all (fun r => l.contains r) = true)
    (h : Keep TtReg.Same l a x) : Keep TtReg.Same l a { x with linkUp := v0, hbIn := v1, split := v2, partnerFailed := v3, partnerPresent := v4 } :=
  TtReg.then ⟨fun r hr => by cases r <;> first | rfl | exact absurd (by decide) hr⟩ hl h

theorem Tether.set_linkUp_partnerFailed_partnerTerm_partnerPresent {l : List TtReg} {a x : Tether} {v0 : Bool} {v1 : Bool} {v2 : Nat} {v3 : Bool} (hl : [TtReg.linkUp, TtReg.partnerFailed, TtReg.partnerTerm, TtReg.partnerPresent].all (fun r => l.contains r) = true)
    (h : Keep TtReg.Same l a x) : Keep TtReg.Same l a { x with linkUp := v0, partnerFailed := v1, partnerTerm := v2, partnerPresent := v3 } :=
  TtReg.then ⟨fun r hr => by cases r <;> first | rfl | exact absurd (by decide) hr⟩ hl h

theorem Tether.set_linkUp_partnerTerm_partnerPresent {l : List TtReg} {a x : Tether} {v0 : Bool} {v1 : Nat} {v2 : Bool} (hl : [TtReg.linkUp, TtReg.partnerTerm, TtReg.partnerPresent].all (fun r => l.contains r) = true)
    (h : Keep TtReg.Same l a x) : Keep TtReg.Same l a { x with linkUp := v0, partnerTerm := v1, partnerPresent := v2 } :=
  TtReg.then ⟨fun r hr => by cases r <;> first | rfl | exact absurd (by decide) hr⟩ hl h

theorem Tether.set_linkUp_retraining {l : List TtReg} {a x : Tether} {v0 : Bool} {v1 : Bool} (hl : [TtReg.linkUp, TtReg.retraining].all (fun r => l.contains r) = true)
    (h : Keep TtReg.Same l a x) : Keep TtReg.Same l a { x with linkUp := v0, retraining := v1 } :=
  TtReg.then ⟨fun r hr => by cases r <;> first | rfl | exact absurd (by decide) hr⟩ hl h

theorem Tether.set_linkUp_retraining_split {l : List TtReg} {a x : Tether} {v0 : Bool} {v1 : Bool} {v2 : Bool} (hl : [TtReg.linkUp, TtReg.retraining, TtReg.split].all (fun r => l.contains r) = true)
    (h : Keep TtReg.Same l a x) : Keep TtReg.Same l a { x with linkUp := v0, retraining := v1, split := v2 } :=
  TtReg.then ⟨fun r hr => by cases r <;> first | rfl | exact absurd (by decide) hr⟩ hl h

theorem Tether.set_mirror {l : List TtReg} {a x : Tether} {v0 : List Job} (hl : [TtReg.mirror].all (fun r => l.contains r) = true)
    (h : Keep TtReg.Same l a x) : Keep TtReg.Same l a { x with mirror := v0 } :=
  TtReg.then ⟨fun r hr => by cases r <;> first | rfl | exact absurd (by decide) hr⟩ hl h

theorem Tether.set_mirror_mirrorA {l : List TtReg} {a x : Tether} {v0 : List Job} {v1 : SMap Nat} (hl : [TtReg.mirror, TtReg.mirrorA].all (fun r => l.contains r) = true)
    (h : Keep TtReg.Same l a x) : Keep TtReg.Same l a { x with mirror := v0, mirrorA := v1 } :=
  TtReg.then ⟨fun r hr => by cases r <;> first | rfl | exact absurd (by decide) hr⟩ hl h

theorem Tether.set_mirror_mirrorA_mirrorCaps {l : List TtReg} {a x : Tether} {v0 : List Job} {v1 : SMap Nat} {v2 : SMap Bytes} (hl : [TtReg.mirror, TtReg.mirrorA, TtReg.mirrorCaps].all (fun r => l.contains r) = true)
    (h : Keep TtReg.Same l a x) : Keep TtReg.Same l a { x with mirror := v0, mirrorA := v1, mirrorCaps := v2 } :=
  TtReg.then ⟨fun r hr => by cases r <;> first | rfl | exact absurd (by decide) hr⟩ hl h

theorem Tether.set_mirrorCaps {l : List TtReg} {a x : Tether} {v0 : SMap Bytes} (hl : [TtReg.mirrorCaps].all (fun r => l.contains r) = true)
    (h : Keep TtReg.Same l a x) : Keep TtReg.Same l a { x with mirrorCaps := v0 } :=
  TtReg.then ⟨fun r hr => by cases r <;> first | rfl | exact absurd (by decide) hr⟩ hl h

theorem Tether.set_mirrorH {l : List TtReg} {a x : Tether} {v0 : SMap Nat} (hl : [TtReg.mirrorH].all (fun r => l.contains r) = true)
    (h : Keep TtReg.Same l a x) : Keep TtReg.Same l a { x with mirrorH := v0 } :=
  TtReg.then ⟨fun r hr => by cases r <;> first | rfl | exact absurd (by decide) hr⟩ hl h

theorem Tether.set_mirrorObjs {l : List TtReg} {a x : Tether} {v0 : List (Nat × Nat)} (hl : [TtReg.mirrorObjs].all (fun r => l.contains r) = true)
    (h : Keep TtReg.Same l a x) : Keep TtReg.Same l a { x with mirrorObjs := v0 } :=
  TtReg.then ⟨fun r hr => by cases r <;> first | rfl | exact absurd (by decide) hr⟩ hl h

theorem Tether.set_mismatch {l : List TtReg} {a x : Tether} {v0 : Bool} (hl : [TtReg.mismatch].all (fun r => l.contains r) = true)
    (h : Keep TtReg.Same l a x) : Keep TtReg.Same l a { x with mismatch := v0 } :=
  TtReg.then ⟨fun r hr => by cases r <;> first | rfl | exact absurd (by decide) hr⟩ hl h

theorem Tether.set_partnerFailed {l : List TtReg} {a x : Tether} {v0 : Bool} (hl : [TtReg.partnerFailed].all (fun r => l.contains r) = true)
    (h : Keep TtReg.Same l a x) : Keep TtReg.Same l a { x with partnerFailed := v0 } :=
  TtReg.then ⟨fun r hr => by cases r <;> first | rfl | exact absurd (by decide) hr⟩ hl h

theorem Tether.set_partnerTerm_partnerSerial_partnerPresent {l : List TtReg} {a x : Tether} {v0 : Nat} {v1 : Nat} {v2 : Bool} (hl : [TtReg.partnerTerm, TtReg.partnerSerial, TtReg.partnerPresent].all (fun r => l.contains r) = true)
    (h : Keep TtReg.Same l a x) : Keep TtReg.Same l a { x with partnerTerm := v0, partnerSerial := v1, partnerPresent := v2 } :=
  TtReg.then ⟨fun r hr => by cases r <;> first | rfl | exact absurd (by decide) hr⟩ hl h

theorem Tether.set_retrains {l : List TtReg} {a x : Tether} {v0 : Nat} (hl : [TtReg.retrains].all (fun r => l.contains r) = true)
    (h : Keep TtReg.Same l a x) : Keep TtReg.Same l a { x with retrains := v0 } :=
  TtReg.then ⟨fun r hr => by cases r <;> first | rfl | exact absurd (by decide) hr⟩ hl h

theorem Tether.set_retransmits {l : List TtReg} {a x : Tether} {v0 : Nat} (hl : [TtReg.retransmits].all (fun r => l.contains r) = true)
    (h : Keep TtReg.Same l a x) : Keep TtReg.Same l a { x with retransmits := v0 } :=
  TtReg.then ⟨fun r hr => by cases r <;> first | rfl | exact absurd (by decide) hr⟩ hl h

theorem Tether.set_rxSeq {l : List TtReg} {a x : Tether} {v0 : Nat} (hl : [TtReg.rxSeq].all (fun r => l.contains r) = true)
    (h : Keep TtReg.Same l a x) : Keep TtReg.Same l a { x with rxSeq := v0 } :=
  TtReg.then ⟨fun r hr => by cases r <;> first | rfl | exact absurd (by decide) hr⟩ hl h

theorem Tether.set_split {l : List TtReg} {a x : Tether} {v0 : Bool} (hl : [TtReg.split].all (fun r => l.contains r) = true)
    (h : Keep TtReg.Same l a x) : Keep TtReg.Same l a { x with split := v0 } :=
  TtReg.then ⟨fun r hr => by cases r <;> first | rfl | exact absurd (by decide) hr⟩ hl h

theorem Tether.set_txSeq_unacked {l : List TtReg} {a x : Tether} {v0 : Nat} {v1 : List Frame} (hl : [TtReg.txSeq, TtReg.unacked].all (fun r => l.contains r) = true)
    (h : Keep TtReg.Same l a x) : Keep TtReg.Same l a { x with txSeq := v0, unacked := v1 } :=
  TtReg.then ⟨fun r hr => by cases r <;> first | rfl | exact absurd (by decide) hr⟩ hl h

theorem Tether.set_unacked {l : List TtReg} {a x : Tether} {v0 : List Frame} (hl : [TtReg.unacked].all (fun r => l.contains r) = true)
    (h : Keep TtReg.Same l a x) : Keep TtReg.Same l a { x with unacked := v0 } :=
  TtReg.then ⟨fun r hr => by cases r <;> first | rfl | exact absurd (by decide) hr⟩ hl h

/-! ## Some fields of State -/

theorem put_cache {k : List Part} {s x : State} {v0 : SMap CacheEntry}
    (h0 : k.contains .cache = true) (h : Only k s x) :
    Only k s { x with cache := v0 } := by
  refine h.trans ⟨fun p hp => ?_⟩
  cases p
  case cache => exact absurd (by simpa using h0) hp
  case sys r => exact r.same_refl _
  case plan r => exact r.same_refl _
  case pl r => exact r.same_refl _
  case lc r => exact r.same_refl _
  case dbg r => exact r.same_refl _
  case en r => exact r.same_refl _
  case port r => exact r.same_refl _
  case fn r => exact fun _ => r.same_refl _
  case queue r => exact fun _ => r.same_refl _
  case pad r => exact fun _ => r.same_refl _
  case jn r => exact r.same_refl _
  case stall r => exact fun _ => r.same_refl _
  case tk r => exact r.same_refl _
  case rng r => exact r.same_refl _
  case core r => exact fun _ => r.same_refl _
  case fc r => exact r.same_refl _
  case tp r => exact r.same_refl _
  case hl r => exact r.same_refl _
  case tt r => exact r.same_refl _
  case lk r => exact r.same_refl _
  all_goals rfl

theorem put_cores {k : List Part} {s x : State} {v0 : SMap Core}
    (h0 : CoreReg.all.all (fun r => (k.filterMap Part.core?).contains r) = true) (h : Only k s x) :
    Only k s { x with cores := v0 } := by
  refine h.trans ⟨fun p hp => ?_⟩
  cases p
  case core r => exact absurd (by simpa using List.all_eq_true.mp h0 r r.mem_all) (CoreReg.not_mem hp)
  case sys r => exact r.same_refl _
  case plan r => exact r.same_refl _
  case pl r => exact r.same_refl _
  case lc r => exact r.same_refl _
  case dbg r => exact r.same_refl _
  case en r => exact r.same_refl _
  case port r => exact r.same_refl _
  case fn r => exact fun _ => r.same_refl _
  case queue r => exact fun _ => r.same_refl _
  case pad r => exact fun _ => r.same_refl _
  case jn r => exact r.same_refl _
  case stall r => exact fun _ => r.same_refl _
  case tk r => exact r.same_refl _
  case rng r => exact r.same_refl _
  case fc r => exact r.same_refl _
  case tp r => exact r.same_refl _
  case hl r => exact r.same_refl _
  case tt r => exact r.same_refl _
  case lk r => exact r.same_refl _
  all_goals rfl

theorem put_dbg {k : List Part} {s x : State} {v0 : Debug}
    (h0 : Keep DbgReg.Same (k.filterMap Part.dbg?) x.dbg v0) (h : Only k s x) :
    Only k s { x with dbg := v0 } := by
  refine h.trans ⟨fun p hp => ?_⟩
  cases p
  case dbg r => exact h0.same r (DbgReg.not_mem hp)
  case sys r => exact r.same_refl _
  case plan r => exact r.same_refl _
  case pl r => exact r.same_refl _
  case lc r => exact r.same_refl _
  case en r => exact r.same_refl _
  case port r => exact r.same_refl _
  case fn r => exact fun _ => r.same_refl _
  case queue r => exact fun _ => r.same_refl _
  case pad r => exact fun _ => r.same_refl _
  case jn r => exact r.same_refl _
  case stall r => exact fun _ => r.same_refl _
  case tk r => exact r.same_refl _
  case rng r => exact r.same_refl _
  case core r => exact fun _ => r.same_refl _
  case fc r => exact r.same_refl _
  case tp r => exact r.same_refl _
  case hl r => exact r.same_refl _
  case tt r => exact r.same_refl _
  case lk r => exact r.same_refl _
  all_goals rfl

theorem put_dbg_freeCtr {k : List Part} {s x : State} {v0 : Debug} {v1 : Nat}
    (h0 : Keep DbgReg.Same (k.filterMap Part.dbg?) x.dbg v0)
    (h1 : k.contains .freeCtr = true) (h : Only k s x) :
    Only k s { x with dbg := v0, freeCtr := v1 } := by
  refine h.trans ⟨fun p hp => ?_⟩
  cases p
  case dbg r => exact h0.same r (DbgReg.not_mem hp)
  case freeCtr => exact absurd (by simpa using h1) hp
  case sys r => exact r.same_refl _
  case plan r => exact r.same_refl _
  case pl r => exact r.same_refl _
  case lc r => exact r.same_refl _
  case en r => exact r.same_refl _
  case port r => exact r.same_refl _
  case fn r => exact fun _ => r.same_refl _
  case queue r => exact fun _ => r.same_refl _
  case pad r => exact fun _ => r.same_refl _
  case jn r => exact r.same_refl _
  case stall r => exact fun _ => r.same_refl _
  case tk r => exact r.same_refl _
  case rng r => exact r.same_refl _
  case core r => exact fun _ => r.same_refl _
  case fc r => exact r.same_refl _
  case tp r => exact r.same_refl _
  case hl r => exact r.same_refl _
  case tt r => exact r.same_refl _
  case lk r => exact r.same_refl _
  all_goals rfl

theorem put_en {k : List Part} {s x : State} {v0 : Energy}
    (h0 : Keep EnReg.Same (k.filterMap Part.en?) x.en v0) (h : Only k s x) :
    Only k s { x with en := v0 } := by
  refine h.trans ⟨fun p hp => ?_⟩
  cases p
  case en r => exact h0.same r (EnReg.not_mem hp)
  case sys r => exact r.same_refl _
  case plan r => exact r.same_refl _
  case pl r => exact r.same_refl _
  case lc r => exact r.same_refl _
  case dbg r => exact r.same_refl _
  case port r => exact r.same_refl _
  case fn r => exact fun _ => r.same_refl _
  case queue r => exact fun _ => r.same_refl _
  case pad r => exact fun _ => r.same_refl _
  case jn r => exact r.same_refl _
  case stall r => exact fun _ => r.same_refl _
  case tk r => exact r.same_refl _
  case rng r => exact r.same_refl _
  case core r => exact fun _ => r.same_refl _
  case fc r => exact r.same_refl _
  case tp r => exact r.same_refl _
  case hl r => exact r.same_refl _
  case tt r => exact r.same_refl _
  case lk r => exact r.same_refl _
  all_goals rfl

theorem put_en_fc {k : List Part} {s x : State} {v0 : Energy} {v1 : Faults}
    (h0 : Keep EnReg.Same (k.filterMap Part.en?) x.en v0)
    (h1 : Keep FcReg.Same (k.filterMap Part.fc?) x.fc v1) (h : Only k s x) :
    Only k s { x with en := v0, fc := v1 } := by
  refine h.trans ⟨fun p hp => ?_⟩
  cases p
  case en r => exact h0.same r (EnReg.not_mem hp)
  case fc r => exact h1.same r (FcReg.not_mem hp)
  case sys r => exact r.same_refl _
  case plan r => exact r.same_refl _
  case pl r => exact r.same_refl _
  case lc r => exact r.same_refl _
  case dbg r => exact r.same_refl _
  case port r => exact r.same_refl _
  case fn r => exact fun _ => r.same_refl _
  case queue r => exact fun _ => r.same_refl _
  case pad r => exact fun _ => r.same_refl _
  case jn r => exact r.same_refl _
  case stall r => exact fun _ => r.same_refl _
  case tk r => exact r.same_refl _
  case rng r => exact r.same_refl _
  case core r => exact fun _ => r.same_refl _
  case tp r => exact r.same_refl _
  case hl r => exact r.same_refl _
  case tt r => exact r.same_refl _
  case lk r => exact r.same_refl _
  all_goals rfl

theorem put_en_port {k : List Part} {s x : State} {v0 : Energy} {v1 : Port}
    (h0 : Keep EnReg.Same (k.filterMap Part.en?) x.en v0)
    (h1 : Keep PortReg.Same (k.filterMap Part.port?) x.port v1) (h : Only k s x) :
    Only k s { x with en := v0, port := v1 } := by
  refine h.trans ⟨fun p hp => ?_⟩
  cases p
  case en r => exact h0.same r (EnReg.not_mem hp)
  case port r => exact h1.same r (PortReg.not_mem hp)
  case sys r => exact r.same_refl _
  case plan r => exact r.same_refl _
  case pl r => exact r.same_refl _
  case lc r => exact r.same_refl _
  case dbg r => exact r.same_refl _
  case fn r => exact fun _ => r.same_refl _
  case queue r => exact fun _ => r.same_refl _
  case pad r => exact fun _ => r.same_refl _
  case jn r => exact r.same_refl _
  case stall r => exact fun _ => r.same_refl _
  case tk r => exact r.same_refl _
  case rng r => exact r.same_refl _
  case core r => exact fun _ => r.same_refl _
  case fc r => exact r.same_refl _
  case tp r => exact r.same_refl _
  case hl r => exact r.same_refl _
  case tt r => exact r.same_refl _
  case lk r => exact r.same_refl _
  all_goals rfl

theorem put_en_stalls {k : List Part} {s x : State} {v0 : Energy} {v1 : SMap Stall}
    (h0 : Keep EnReg.Same (k.filterMap Part.en?) x.en v0)
    (h1 : StallReg.all.all (fun r => (k.filterMap Part.stall?).contains r) = true) (h : Only k s x) :
    Only k s { x with en := v0, stalls := v1 } := by
  refine h.trans ⟨fun p hp => ?_⟩
  cases p
  case en r => exact h0.same r (EnReg.not_mem hp)
  case stall r => exact absurd (by simpa using List.all_eq_true.mp h1 r r.mem_all) (StallReg.not_mem hp)
  case sys r => exact r.same_refl _
  case plan r => exact r.same_refl _
  case pl r => exact r.same_refl _
  case lc r => exact r.same_refl _
  case dbg r => exact r.same_refl _
  case port r => exact r.same_refl _
  case fn r => exact fun _ => r.same_refl _
  case queue r => exact fun _ => r.same_refl _
  case pad r => exact fun _ => r.same_refl _
  case jn r => exact r.same_refl _
  case tk r => exact r.same_refl _
  case rng r => exact r.same_refl _
  case core r => exact fun _ => r.same_refl _
  case fc r => exact r.same_refl _
  case tp r => exact r.same_refl _
  case hl r => exact r.same_refl _
  case tt r => exact r.same_refl _
  case lk r => exact r.same_refl _
  all_goals rfl

theorem put_fc {k : List Part} {s x : State} {v0 : Faults}
    (h0 : Keep FcReg.Same (k.filterMap Part.fc?) x.fc v0) (h : Only k s x) :
    Only k s { x with fc := v0 } := by
  refine h.trans ⟨fun p hp => ?_⟩
  cases p
  case fc r => exact h0.same r (FcReg.not_mem hp)
  case sys r => exact r.same_refl _
  case plan r => exact r.same_refl _
  case pl r => exact r.same_refl _
  case lc r => exact r.same_refl _
  case dbg r => exact r.same_refl _
  case en r => exact r.same_refl _
  case port r => exact r.same_refl _
  case fn r => exact fun _ => r.same_refl _
  case queue r => exact fun _ => r.same_refl _
  case pad r => exact fun _ => r.same_refl _
  case jn r => exact r.same_refl _
  case stall r => exact fun _ => r.same_refl _
  case tk r => exact r.same_refl _
  case rng r => exact r.same_refl _
  case core r => exact fun _ => r.same_refl _
  case tp r => exact r.same_refl _
  case hl r => exact r.same_refl _
  case tt r => exact r.same_refl _
  case lk r => exact r.same_refl _
  all_goals rfl

theorem put_fc_hl {k : List Part} {s x : State} {v0 : Faults} {v1 : Hayloft}
    (h0 : Keep FcReg.Same (k.filterMap Part.fc?) x.fc v0)
    (h1 : Keep HlReg.Same (k.filterMap Part.hl?) x.hl v1) (h : Only k s x) :
    Only k s { x with fc := v0, hl := v1 } := by
  refine h.trans ⟨fun p hp => ?_⟩
  cases p
  case fc r => exact h0.same r (FcReg.not_mem hp)
  case hl r => exact h1.same r (HlReg.not_mem hp)
  case sys r => exact r.same_refl _
  case plan r => exact r.same_refl _
  case pl r => exact r.same_refl _
  case lc r => exact r.same_refl _
  case dbg r => exact r.same_refl _
  case en r => exact r.same_refl _
  case port r => exact r.same_refl _
  case fn r => exact fun _ => r.same_refl _
  case queue r => exact fun _ => r.same_refl _
  case pad r => exact fun _ => r.same_refl _
  case jn r => exact r.same_refl _
  case stall r => exact fun _ => r.same_refl _
  case tk r => exact r.same_refl _
  case rng r => exact r.same_refl _
  case core r => exact fun _ => r.same_refl _
  case tp r => exact r.same_refl _
  case tt r => exact r.same_refl _
  case lk r => exact r.same_refl _
  all_goals rfl

theorem put_feeds {k : List Part} {s x : State} {v0 : SMap Feed}
    (h0 : k.contains .feeds = true) (h : Only k s x) :
    Only k s { x with feeds := v0 } := by
  refine h.trans ⟨fun p hp => ?_⟩
  cases p
  case feeds => exact absurd (by simpa using h0) hp
  case sys r => exact r.same_refl _
  case plan r => exact r.same_refl _
  case pl r => exact r.same_refl _
  case lc r => exact r.same_refl _
  case dbg r => exact r.same_refl _
  case en r => exact r.same_refl _
  case port r => exact r.same_refl _
  case fn r => exact fun _ => r.same_refl _
  case queue r => exact fun _ => r.same_refl _
  case pad r => exact fun _ => r.same_refl _
  case jn r => exact r.same_refl _
  case stall r => exact fun _ => r.same_refl _
  case tk r => exact r.same_refl _
  case rng r => exact r.same_refl _
  case core r => exact fun _ => r.same_refl _
  case fc r => exact r.same_refl _
  case tp r => exact r.same_refl _
  case hl r => exact r.same_refl _
  case tt r => exact r.same_refl _
  case lk r => exact r.same_refl _
  all_goals rfl

theorem put_fns {k : List Part} {s x : State} {v0 : SMap Fn}
    (h0 : FnReg.all.all (fun r => (k.filterMap Part.fn?).contains r) = true) (h : Only k s x) :
    Only k s { x with fns := v0 } := by
  refine h.trans ⟨fun p hp => ?_⟩
  cases p
  case fn r => exact absurd (by simpa using List.all_eq_true.mp h0 r r.mem_all) (FnReg.not_mem hp)
  case sys r => exact r.same_refl _
  case plan r => exact r.same_refl _
  case pl r => exact r.same_refl _
  case lc r => exact r.same_refl _
  case dbg r => exact r.same_refl _
  case en r => exact r.same_refl _
  case port r => exact r.same_refl _
  case queue r => exact fun _ => r.same_refl _
  case pad r => exact fun _ => r.same_refl _
  case jn r => exact r.same_refl _
  case stall r => exact fun _ => r.same_refl _
  case tk r => exact r.same_refl _
  case rng r => exact r.same_refl _
  case core r => exact fun _ => r.same_refl _
  case fc r => exact r.same_refl _
  case tp r => exact r.same_refl _
  case hl r => exact r.same_refl _
  case tt r => exact r.same_refl _
  case lk r => exact r.same_refl _
  all_goals rfl

theorem put_freeCtr {k : List Part} {s x : State} {v0 : Nat}
    (h0 : k.contains .freeCtr = true) (h : Only k s x) :
    Only k s { x with freeCtr := v0 } := by
  refine h.trans ⟨fun p hp => ?_⟩
  cases p
  case freeCtr => exact absurd (by simpa using h0) hp
  case sys r => exact r.same_refl _
  case plan r => exact r.same_refl _
  case pl r => exact r.same_refl _
  case lc r => exact r.same_refl _
  case dbg r => exact r.same_refl _
  case en r => exact r.same_refl _
  case port r => exact r.same_refl _
  case fn r => exact fun _ => r.same_refl _
  case queue r => exact fun _ => r.same_refl _
  case pad r => exact fun _ => r.same_refl _
  case jn r => exact r.same_refl _
  case stall r => exact fun _ => r.same_refl _
  case tk r => exact r.same_refl _
  case rng r => exact r.same_refl _
  case core r => exact fun _ => r.same_refl _
  case fc r => exact r.same_refl _
  case tp r => exact r.same_refl _
  case hl r => exact r.same_refl _
  case tt r => exact r.same_refl _
  case lk r => exact r.same_refl _
  all_goals rfl

theorem put_hl {k : List Part} {s x : State} {v0 : Hayloft}
    (h0 : Keep HlReg.Same (k.filterMap Part.hl?) x.hl v0) (h : Only k s x) :
    Only k s { x with hl := v0 } := by
  refine h.trans ⟨fun p hp => ?_⟩
  cases p
  case hl r => exact h0.same r (HlReg.not_mem hp)
  case sys r => exact r.same_refl _
  case plan r => exact r.same_refl _
  case pl r => exact r.same_refl _
  case lc r => exact r.same_refl _
  case dbg r => exact r.same_refl _
  case en r => exact r.same_refl _
  case port r => exact r.same_refl _
  case fn r => exact fun _ => r.same_refl _
  case queue r => exact fun _ => r.same_refl _
  case pad r => exact fun _ => r.same_refl _
  case jn r => exact r.same_refl _
  case stall r => exact fun _ => r.same_refl _
  case tk r => exact r.same_refl _
  case rng r => exact r.same_refl _
  case core r => exact fun _ => r.same_refl _
  case fc r => exact r.same_refl _
  case tp r => exact r.same_refl _
  case tt r => exact r.same_refl _
  case lk r => exact r.same_refl _
  all_goals rfl

theorem put_jn {k : List Part} {s x : State} {v0 : Journal}
    (h0 : Keep JnReg.Same (k.filterMap Part.jn?) x.jn v0) (h : Only k s x) :
    Only k s { x with jn := v0 } := by
  refine h.trans ⟨fun p hp => ?_⟩
  cases p
  case jn r => exact h0.same r (JnReg.not_mem hp)
  case sys r => exact r.same_refl _
  case plan r => exact r.same_refl _
  case pl r => exact r.same_refl _
  case lc r => exact r.same_refl _
  case dbg r => exact r.same_refl _
  case en r => exact r.same_refl _
  case port r => exact r.same_refl _
  case fn r => exact fun _ => r.same_refl _
  case queue r => exact fun _ => r.same_refl _
  case pad r => exact fun _ => r.same_refl _
  case stall r => exact fun _ => r.same_refl _
  case tk r => exact r.same_refl _
  case rng r => exact r.same_refl _
  case core r => exact fun _ => r.same_refl _
  case fc r => exact r.same_refl _
  case tp r => exact r.same_refl _
  case hl r => exact r.same_refl _
  case tt r => exact r.same_refl _
  case lk r => exact r.same_refl _
  all_goals rfl

theorem put_jn_hl {k : List Part} {s x : State} {v0 : Journal} {v1 : Hayloft}
    (h0 : Keep JnReg.Same (k.filterMap Part.jn?) x.jn v0)
    (h1 : Keep HlReg.Same (k.filterMap Part.hl?) x.hl v1) (h : Only k s x) :
    Only k s { x with jn := v0, hl := v1 } := by
  refine h.trans ⟨fun p hp => ?_⟩
  cases p
  case jn r => exact h0.same r (JnReg.not_mem hp)
  case hl r => exact h1.same r (HlReg.not_mem hp)
  case sys r => exact r.same_refl _
  case plan r => exact r.same_refl _
  case pl r => exact r.same_refl _
  case lc r => exact r.same_refl _
  case dbg r => exact r.same_refl _
  case en r => exact r.same_refl _
  case port r => exact r.same_refl _
  case fn r => exact fun _ => r.same_refl _
  case queue r => exact fun _ => r.same_refl _
  case pad r => exact fun _ => r.same_refl _
  case stall r => exact fun _ => r.same_refl _
  case tk r => exact r.same_refl _
  case rng r => exact r.same_refl _
  case core r => exact fun _ => r.same_refl _
  case fc r => exact r.same_refl _
  case tp r => exact r.same_refl _
  case tt r => exact r.same_refl _
  case lk r => exact r.same_refl _
  all_goals rfl

theorem put_jn_tt {k : List Part} {s x : State} {v0 : Journal} {v1 : Tether}
    (h0 : Keep JnReg.Same (k.filterMap Part.jn?) x.jn v0)
    (h1 : Keep TtReg.Same (k.filterMap Part.tt?) x.tt v1) (h : Only k s x) :
    Only k s { x with jn := v0, tt := v1 } := by
  refine h.trans ⟨fun p hp => ?_⟩
  cases p
  case jn r => exact h0.same r (JnReg.not_mem hp)
  case tt r => exact h1.same r (TtReg.not_mem hp)
  case sys r => exact r.same_refl _
  case plan r => exact r.same_refl _
  case pl r => exact r.same_refl _
  case lc r => exact r.same_refl _
  case dbg r => exact r.same_refl _
  case en r => exact r.same_refl _
  case port r => exact r.same_refl _
  case fn r => exact fun _ => r.same_refl _
  case queue r => exact fun _ => r.same_refl _
  case pad r => exact fun _ => r.same_refl _
  case stall r => exact fun _ => r.same_refl _
  case tk r => exact r.same_refl _
  case rng r => exact r.same_refl _
  case core r => exact fun _ => r.same_refl _
  case fc r => exact r.same_refl _
  case tp r => exact r.same_refl _
  case hl r => exact r.same_refl _
  case lk r => exact r.same_refl _
  all_goals rfl

theorem put_jobs {k : List Part} {s x : State} {v0 : List Job}
    (h0 : k.contains .jobs = true) (h : Only k s x) :
    Only k s { x with jobs := v0 } := by
  refine h.trans ⟨fun p hp => ?_⟩
  cases p
  case jobs => exact absurd (by simpa using h0) hp
  case sys r => exact r.same_refl _
  case plan r => exact r.same_refl _
  case pl r => exact r.same_refl _
  case lc r => exact r.same_refl _
  case dbg r => exact r.same_refl _
  case en r => exact r.same_refl _
  case port r => exact r.same_refl _
  case fn r => exact fun _ => r.same_refl _
  case queue r => exact fun _ => r.same_refl _
  case pad r => exact fun _ => r.same_refl _
  case jn r => exact r.same_refl _
  case stall r => exact fun _ => r.same_refl _
  case tk r => exact r.same_refl _
  case rng r => exact r.same_refl _
  case core r => exact fun _ => r.same_refl _
  case fc r => exact r.same_refl _
  case tp r => exact r.same_refl _
  case hl r => exact r.same_refl _
  case tt r => exact r.same_refl _
  case lk r => exact r.same_refl _
  all_goals rfl

theorem put_lc {k : List Part} {s x : State} {v0 : LifeCycle}
    (h0 : Keep LcReg.Same (k.filterMap Part.lc?) x.lc v0) (h : Only k s x) :
    Only k s { x with lc := v0 } := by
  refine h.trans ⟨fun p hp => ?_⟩
  cases p
  case lc r => exact h0.same r (LcReg.not_mem hp)
  case sys r => exact r.same_refl _
  case plan r => exact r.same_refl _
  case pl r => exact r.same_refl _
  case dbg r => exact r.same_refl _
  case en r => exact r.same_refl _
  case port r => exact r.same_refl _
  case fn r => exact fun _ => r.same_refl _
  case queue r => exact fun _ => r.same_refl _
  case pad r => exact fun _ => r.same_refl _
  case jn r => exact r.same_refl _
  case stall r => exact fun _ => r.same_refl _
  case tk r => exact r.same_refl _
  case rng r => exact r.same_refl _
  case core r => exact fun _ => r.same_refl _
  case fc r => exact r.same_refl _
  case tp r => exact r.same_refl _
  case hl r => exact r.same_refl _
  case tt r => exact r.same_refl _
  case lk r => exact r.same_refl _
  all_goals rfl

theorem put_lc_jn {k : List Part} {s x : State} {v0 : LifeCycle} {v1 : Journal}
    (h0 : Keep LcReg.Same (k.filterMap Part.lc?) x.lc v0)
    (h1 : Keep JnReg.Same (k.filterMap Part.jn?) x.jn v1) (h : Only k s x) :
    Only k s { x with lc := v0, jn := v1 } := by
  refine h.trans ⟨fun p hp => ?_⟩
  cases p
  case lc r => exact h0.same r (LcReg.not_mem hp)
  case jn r => exact h1.same r (JnReg.not_mem hp)
  case sys r => exact r.same_refl _
  case plan r => exact r.same_refl _
  case pl r => exact r.same_refl _
  case dbg r => exact r.same_refl _
  case en r => exact r.same_refl _
  case port r => exact r.same_refl _
  case fn r => exact fun _ => r.same_refl _
  case queue r => exact fun _ => r.same_refl _
  case pad r => exact fun _ => r.same_refl _
  case stall r => exact fun _ => r.same_refl _
  case tk r => exact r.same_refl _
  case rng r => exact r.same_refl _
  case core r => exact fun _ => r.same_refl _
  case fc r => exact r.same_refl _
  case tp r => exact r.same_refl _
  case hl r => exact r.same_refl _
  case tt r => exact r.same_refl _
  case lk r => exact r.same_refl _
  all_goals rfl

theorem put_lk {k : List Part} {s x : State} {v0 : Links}
    (h0 : Keep LkReg.Same (k.filterMap Part.lk?) x.lk v0) (h : Only k s x) :
    Only k s { x with lk := v0 } := by
  refine h.trans ⟨fun p hp => ?_⟩
  cases p
  case lk r => exact h0.same r (LkReg.not_mem hp)
  case sys r => exact r.same_refl _
  case plan r => exact r.same_refl _
  case pl r => exact r.same_refl _
  case lc r => exact r.same_refl _
  case dbg r => exact r.same_refl _
  case en r => exact r.same_refl _
  case port r => exact r.same_refl _
  case fn r => exact fun _ => r.same_refl _
  case queue r => exact fun _ => r.same_refl _
  case pad r => exact fun _ => r.same_refl _
  case jn r => exact r.same_refl _
  case stall r => exact fun _ => r.same_refl _
  case tk r => exact r.same_refl _
  case rng r => exact r.same_refl _
  case core r => exact fun _ => r.same_refl _
  case fc r => exact r.same_refl _
  case tp r => exact r.same_refl _
  case hl r => exact r.same_refl _
  case tt r => exact r.same_refl _
  all_goals rfl

theorem put_out {k : List Part} {s x : State} {v0 : List Emission}
    (h0 : k.contains .out = true) (h : Only k s x) :
    Only k s { x with out := v0 } := by
  refine h.trans ⟨fun p hp => ?_⟩
  cases p
  case out => exact absurd (by simpa using h0) hp
  case sys r => exact r.same_refl _
  case plan r => exact r.same_refl _
  case pl r => exact r.same_refl _
  case lc r => exact r.same_refl _
  case dbg r => exact r.same_refl _
  case en r => exact r.same_refl _
  case port r => exact r.same_refl _
  case fn r => exact fun _ => r.same_refl _
  case queue r => exact fun _ => r.same_refl _
  case pad r => exact fun _ => r.same_refl _
  case jn r => exact r.same_refl _
  case stall r => exact fun _ => r.same_refl _
  case tk r => exact r.same_refl _
  case rng r => exact r.same_refl _
  case core r => exact fun _ => r.same_refl _
  case fc r => exact r.same_refl _
  case tp r => exact r.same_refl _
  case hl r => exact r.same_refl _
  case tt r => exact r.same_refl _
  case lk r => exact r.same_refl _
  all_goals rfl

theorem put_pads {k : List Part} {s x : State} {v0 : SMap Pad}
    (h0 : PadReg.all.all (fun r => (k.filterMap Part.pad?).contains r) = true) (h : Only k s x) :
    Only k s { x with pads := v0 } := by
  refine h.trans ⟨fun p hp => ?_⟩
  cases p
  case pad r => exact absurd (by simpa using List.all_eq_true.mp h0 r r.mem_all) (PadReg.not_mem hp)
  case sys r => exact r.same_refl _
  case plan r => exact r.same_refl _
  case pl r => exact r.same_refl _
  case lc r => exact r.same_refl _
  case dbg r => exact r.same_refl _
  case en r => exact r.same_refl _
  case port r => exact r.same_refl _
  case fn r => exact fun _ => r.same_refl _
  case queue r => exact fun _ => r.same_refl _
  case jn r => exact r.same_refl _
  case stall r => exact fun _ => r.same_refl _
  case tk r => exact r.same_refl _
  case rng r => exact r.same_refl _
  case core r => exact fun _ => r.same_refl _
  case fc r => exact r.same_refl _
  case tp r => exact r.same_refl _
  case hl r => exact r.same_refl _
  case tt r => exact r.same_refl _
  case lk r => exact r.same_refl _
  all_goals rfl

theorem put_pads_rng {k : List Part} {s x : State} {v0 : SMap Pad} {v1 : Rng}
    (h0 : PadReg.all.all (fun r => (k.filterMap Part.pad?).contains r) = true)
    (h1 : Keep RngReg.Same (k.filterMap Part.rng?) x.rng v1) (h : Only k s x) :
    Only k s { x with pads := v0, rng := v1 } := by
  refine h.trans ⟨fun p hp => ?_⟩
  cases p
  case pad r => exact absurd (by simpa using List.all_eq_true.mp h0 r r.mem_all) (PadReg.not_mem hp)
  case rng r => exact h1.same r (RngReg.not_mem hp)
  case sys r => exact r.same_refl _
  case plan r => exact r.same_refl _
  case pl r => exact r.same_refl _
  case lc r => exact r.same_refl _
  case dbg r => exact r.same_refl _
  case en r => exact r.same_refl _
  case port r => exact r.same_refl _
  case fn r => exact fun _ => r.same_refl _
  case queue r => exact fun _ => r.same_refl _
  case jn r => exact r.same_refl _
  case stall r => exact fun _ => r.same_refl _
  case tk r => exact r.same_refl _
  case core r => exact fun _ => r.same_refl _
  case fc r => exact r.same_refl _
  case tp r => exact r.same_refl _
  case hl r => exact r.same_refl _
  case tt r => exact r.same_refl _
  case lk r => exact r.same_refl _
  all_goals rfl

theorem put_pads_tk {k : List Part} {s x : State} {v0 : SMap Pad} {v1 : Tack}
    (h0 : PadReg.all.all (fun r => (k.filterMap Part.pad?).contains r) = true)
    (h1 : Keep TkReg.Same (k.filterMap Part.tk?) x.tk v1) (h : Only k s x) :
    Only k s { x with pads := v0, tk := v1 } := by
  refine h.trans ⟨fun p hp => ?_⟩
  cases p
  case pad r => exact absurd (by simpa using List.all_eq_true.mp h0 r r.mem_all) (PadReg.not_mem hp)
  case tk r => exact h1.same r (TkReg.not_mem hp)
  case sys r => exact r.same_refl _
  case plan r => exact r.same_refl _
  case pl r => exact r.same_refl _
  case lc r => exact r.same_refl _
  case dbg r => exact r.same_refl _
  case en r => exact r.same_refl _
  case port r => exact r.same_refl _
  case fn r => exact fun _ => r.same_refl _
  case queue r => exact fun _ => r.same_refl _
  case jn r => exact r.same_refl _
  case stall r => exact fun _ => r.same_refl _
  case rng r => exact r.same_refl _
  case core r => exact fun _ => r.same_refl _
  case fc r => exact r.same_refl _
  case tp r => exact r.same_refl _
  case hl r => exact r.same_refl _
  case tt r => exact r.same_refl _
  case lk r => exact r.same_refl _
  all_goals rfl

theorem put_pending {k : List Part} {s x : State} {v0 : List Instr}
    (h0 : k.contains .pending = true) (h : Only k s x) :
    Only k s { x with pending := v0 } := by
  refine h.trans ⟨fun p hp => ?_⟩
  cases p
  case pending => exact absurd (by simpa using h0) hp
  case sys r => exact r.same_refl _
  case plan r => exact r.same_refl _
  case pl r => exact r.same_refl _
  case lc r => exact r.same_refl _
  case dbg r => exact r.same_refl _
  case en r => exact r.same_refl _
  case port r => exact r.same_refl _
  case fn r => exact fun _ => r.same_refl _
  case queue r => exact fun _ => r.same_refl _
  case pad r => exact fun _ => r.same_refl _
  case jn r => exact r.same_refl _
  case stall r => exact fun _ => r.same_refl _
  case tk r => exact r.same_refl _
  case rng r => exact r.same_refl _
  case core r => exact fun _ => r.same_refl _
  case fc r => exact r.same_refl _
  case tp r => exact r.same_refl _
  case hl r => exact r.same_refl _
  case tt r => exact r.same_refl _
  case lk r => exact r.same_refl _
  all_goals rfl

theorem put_pl {k : List Part} {s x : State} {v0 : PlanCtl}
    (h0 : Keep PlReg.Same (k.filterMap Part.pl?) x.pl v0) (h : Only k s x) :
    Only k s { x with pl := v0 } := by
  refine h.trans ⟨fun p hp => ?_⟩
  cases p
  case pl r => exact h0.same r (PlReg.not_mem hp)
  case sys r => exact r.same_refl _
  case plan r => exact r.same_refl _
  case lc r => exact r.same_refl _
  case dbg r => exact r.same_refl _
  case en r => exact r.same_refl _
  case port r => exact r.same_refl _
  case fn r => exact fun _ => r.same_refl _
  case queue r => exact fun _ => r.same_refl _
  case pad r => exact fun _ => r.same_refl _
  case jn r => exact r.same_refl _
  case stall r => exact fun _ => r.same_refl _
  case tk r => exact r.same_refl _
  case rng r => exact r.same_refl _
  case core r => exact fun _ => r.same_refl _
  case fc r => exact r.same_refl _
  case tp r => exact r.same_refl _
  case hl r => exact r.same_refl _
  case tt r => exact r.same_refl _
  case lk r => exact r.same_refl _
  all_goals rfl

theorem put_pl_hl {k : List Part} {s x : State} {v0 : PlanCtl} {v1 : Hayloft}
    (h0 : Keep PlReg.Same (k.filterMap Part.pl?) x.pl v0)
    (h1 : Keep HlReg.Same (k.filterMap Part.hl?) x.hl v1) (h : Only k s x) :
    Only k s { x with pl := v0, hl := v1 } := by
  refine h.trans ⟨fun p hp => ?_⟩
  cases p
  case pl r => exact h0.same r (PlReg.not_mem hp)
  case hl r => exact h1.same r (HlReg.not_mem hp)
  case sys r => exact r.same_refl _
  case plan r => exact r.same_refl _
  case lc r => exact r.same_refl _
  case dbg r => exact r.same_refl _
  case en r => exact r.same_refl _
  case port r => exact r.same_refl _
  case fn r => exact fun _ => r.same_refl _
  case queue r => exact fun _ => r.same_refl _
  case pad r => exact fun _ => r.same_refl _
  case jn r => exact r.same_refl _
  case stall r => exact fun _ => r.same_refl _
  case tk r => exact r.same_refl _
  case rng r => exact r.same_refl _
  case core r => exact fun _ => r.same_refl _
  case fc r => exact r.same_refl _
  case tp r => exact r.same_refl _
  case tt r => exact r.same_refl _
  case lk r => exact r.same_refl _
  all_goals rfl

theorem put_pl_jn_hl {k : List Part} {s x : State} {v0 : PlanCtl} {v1 : Journal} {v2 : Hayloft}
    (h0 : Keep PlReg.Same (k.filterMap Part.pl?) x.pl v0)
    (h1 : Keep JnReg.Same (k.filterMap Part.jn?) x.jn v1)
    (h2 : Keep HlReg.Same (k.filterMap Part.hl?) x.hl v2) (h : Only k s x) :
    Only k s { x with pl := v0, jn := v1, hl := v2 } := by
  refine h.trans ⟨fun p hp => ?_⟩
  cases p
  case pl r => exact h0.same r (PlReg.not_mem hp)
  case jn r => exact h1.same r (JnReg.not_mem hp)
  case hl r => exact h2.same r (HlReg.not_mem hp)
  case sys r => exact r.same_refl _
  case plan r => exact r.same_refl _
  case lc r => exact r.same_refl _
  case dbg r => exact r.same_refl _
  case en r => exact r.same_refl _
  case port r => exact r.same_refl _
  case fn r => exact fun _ => r.same_refl _
  case queue r => exact fun _ => r.same_refl _
  case pad r => exact fun _ => r.same_refl _
  case stall r => exact fun _ => r.same_refl _
  case tk r => exact r.same_refl _
  case rng r => exact r.same_refl _
  case core r => exact fun _ => r.same_refl _
  case fc r => exact r.same_refl _
  case tp r => exact r.same_refl _
  case tt r => exact r.same_refl _
  case lk r => exact r.same_refl _
  all_goals rfl

theorem put_pl_jn_tt {k : List Part} {s x : State} {v0 : PlanCtl} {v1 : Journal} {v2 : Tether}
    (h0 : Keep PlReg.Same (k.filterMap Part.pl?) x.pl v0)
    (h1 : Keep JnReg.Same (k.filterMap Part.jn?) x.jn v1)
    (h2 : Keep TtReg.Same (k.filterMap Part.tt?) x.tt v2) (h : Only k s x) :
    Only k s { x with pl := v0, jn := v1, tt := v2 } := by
  refine h.trans ⟨fun p hp => ?_⟩
  cases p
  case pl r => exact h0.same r (PlReg.not_mem hp)
  case jn r => exact h1.same r (JnReg.not_mem hp)
  case tt r => exact h2.same r (TtReg.not_mem hp)
  case sys r => exact r.same_refl _
  case plan r => exact r.same_refl _
  case lc r => exact r.same_refl _
  case dbg r => exact r.same_refl _
  case en r => exact r.same_refl _
  case port r => exact r.same_refl _
  case fn r => exact fun _ => r.same_refl _
  case queue r => exact fun _ => r.same_refl _
  case pad r => exact fun _ => r.same_refl _
  case stall r => exact fun _ => r.same_refl _
  case tk r => exact r.same_refl _
  case rng r => exact r.same_refl _
  case core r => exact fun _ => r.same_refl _
  case fc r => exact r.same_refl _
  case tp r => exact r.same_refl _
  case hl r => exact r.same_refl _
  case lk r => exact r.same_refl _
  all_goals rfl

theorem put_pl_lc_fns_queues_pads_rng_cores_feeds_fc_lk_scans {k : List Part} {s x : State} {v0 : PlanCtl} {v1 : LifeCycle} {v2 : SMap Fn} {v3 : SMap Queue} {v4 : SMap Pad} {v5 : Rng} {v6 : SMap Core} {v7 : SMap Feed} {v8 : Faults} {v9 : Links} {v10 : SMap Scan}
    (h0 : Keep PlReg.Same (k.filterMap Part.pl?) x.pl v0)
    (h1 : Keep LcReg.Same (k.filterMap Part.lc?) x.lc v1)
    (h2 : FnReg.all.all (fun r => (k.filterMap Part.fn?).contains r) = true)
    (h3 : QueueReg.all.all (fun r => (k.filterMap Part.queue?).contains r) = true)
    (h4 : PadReg.all.all (fun r => (k.filterMap Part.pad?).contains r) = true)
    (h5 : Keep RngReg.Same (k.filterMap Part.rng?) x.rng v5)
    (h6 : CoreReg.all.all (fun r => (k.filterMap Part.core?).contains r) = true)
    (h7 : k.contains .feeds = true)
    (h8 : Keep FcReg.Same (k.filterMap Part.fc?) x.fc v8)
    (h9 : Keep LkReg.Same (k.filterMap Part.lk?) x.lk v9)
    (h10 : k.contains .scans = true) (h : Only k s x) :
    Only k s { x with pl := v0, lc := v1, fns := v2, queues := v3, pads := v4, rng := v5, cores := v6, feeds := v7, fc := v8, lk := v9, scans := v10 } := by
  refine h.trans ⟨fun p hp => ?_⟩
  cases p
  case pl r => exact h0.same r (PlReg.not_mem hp)
  case lc r => exact h1.same r (LcReg.not_mem hp)
  case fn r => exact absurd (by simpa using List.all_eq_true.mp h2 r r.mem_all) (FnReg.not_mem hp)
  case queue r => exact absurd (by simpa using List.all_eq_true.mp h3 r r.mem_all) (QueueReg.not_mem hp)
  case pad r => exact absurd (by simpa using List.all_eq_true.mp h4 r r.mem_all) (PadReg.not_mem hp)
  case rng r => exact h5.same r (RngReg.not_mem hp)
  case core r => exact absurd (by simpa using List.all_eq_true.mp h6 r r.mem_all) (CoreReg.not_mem hp)
  case feeds => exact absurd (by simpa using h7) hp
  case fc r => exact h8.same r (FcReg.not_mem hp)
  case lk r => exact h9.same r (LkReg.not_mem hp)
  case scans => exact absurd (by simpa using h10) hp
  case sys r => exact r.same_refl _
  case plan r => exact r.same_refl _
  case dbg r => exact r.same_refl _
  case en r => exact r.same_refl _
  case port r => exact r.same_refl _
  case jn r => exact r.same_refl _
  case stall r => exact fun _ => r.same_refl _
  case tk r => exact r.same_refl _
  case tp r => exact r.same_refl _
  case hl r => exact r.same_refl _
  case tt r => exact r.same_refl _
  all_goals rfl

theorem put_pl_tt {k : List Part} {s x : State} {v0 : PlanCtl} {v1 : Tether}
    (h0 : Keep PlReg.Same (k.filterMap Part.pl?) x.pl v0)
    (h1 : Keep TtReg.Same (k.filterMap Part.tt?) x.tt v1) (h : Only k s x) :
    Only k s { x with pl := v0, tt := v1 } := by
  refine h.trans ⟨fun p hp => ?_⟩
  cases p
  case pl r => exact h0.same r (PlReg.not_mem hp)
  case tt r => exact h1.same r (TtReg.not_mem hp)
  case sys r => exact r.same_refl _
  case plan r => exact r.same_refl _
  case lc r => exact r.same_refl _
  case dbg r => exact r.same_refl _
  case en r => exact r.same_refl _
  case port r => exact r.same_refl _
  case fn r => exact fun _ => r.same_refl _
  case queue r => exact fun _ => r.same_refl _
  case pad r => exact fun _ => r.same_refl _
  case jn r => exact r.same_refl _
  case stall r => exact fun _ => r.same_refl _
  case tk r => exact r.same_refl _
  case rng r => exact r.same_refl _
  case core r => exact fun _ => r.same_refl _
  case fc r => exact r.same_refl _
  case tp r => exact r.same_refl _
  case hl r => exact r.same_refl _
  case lk r => exact r.same_refl _
  all_goals rfl

theorem put_plan {k : List Part} {s x : State} {v0 : Plan}
    (h0 : Keep PlanReg.Same (k.filterMap Part.plan?) x.plan v0) (h : Only k s x) :
    Only k s { x with plan := v0 } := by
  refine h.trans ⟨fun p hp => ?_⟩
  cases p
  case plan r => exact h0.same r (PlanReg.not_mem hp)
  case sys r => exact r.same_refl _
  case pl r => exact r.same_refl _
  case lc r => exact r.same_refl _
  case dbg r => exact r.same_refl _
  case en r => exact r.same_refl _
  case port r => exact r.same_refl _
  case fn r => exact fun _ => r.same_refl _
  case queue r => exact fun _ => r.same_refl _
  case pad r => exact fun _ => r.same_refl _
  case jn r => exact r.same_refl _
  case stall r => exact fun _ => r.same_refl _
  case tk r => exact r.same_refl _
  case rng r => exact r.same_refl _
  case core r => exact fun _ => r.same_refl _
  case fc r => exact r.same_refl _
  case tp r => exact r.same_refl _
  case hl r => exact r.same_refl _
  case tt r => exact r.same_refl _
  case lk r => exact r.same_refl _
  all_goals rfl

theorem put_port {k : List Part} {s x : State} {v0 : Port}
    (h0 : Keep PortReg.Same (k.filterMap Part.port?) x.port v0) (h : Only k s x) :
    Only k s { x with port := v0 } := by
  refine h.trans ⟨fun p hp => ?_⟩
  cases p
  case port r => exact h0.same r (PortReg.not_mem hp)
  case sys r => exact r.same_refl _
  case plan r => exact r.same_refl _
  case pl r => exact r.same_refl _
  case lc r => exact r.same_refl _
  case dbg r => exact r.same_refl _
  case en r => exact r.same_refl _
  case fn r => exact fun _ => r.same_refl _
  case queue r => exact fun _ => r.same_refl _
  case pad r => exact fun _ => r.same_refl _
  case jn r => exact r.same_refl _
  case stall r => exact fun _ => r.same_refl _
  case tk r => exact r.same_refl _
  case rng r => exact r.same_refl _
  case core r => exact fun _ => r.same_refl _
  case fc r => exact r.same_refl _
  case tp r => exact r.same_refl _
  case hl r => exact r.same_refl _
  case tt r => exact r.same_refl _
  case lk r => exact r.same_refl _
  all_goals rfl

theorem put_port_fns {k : List Part} {s x : State} {v0 : Port} {v1 : SMap Fn}
    (h0 : Keep PortReg.Same (k.filterMap Part.port?) x.port v0)
    (h1 : FnReg.all.all (fun r => (k.filterMap Part.fn?).contains r) = true) (h : Only k s x) :
    Only k s { x with port := v0, fns := v1 } := by
  refine h.trans ⟨fun p hp => ?_⟩
  cases p
  case port r => exact h0.same r (PortReg.not_mem hp)
  case fn r => exact absurd (by simpa using List.all_eq_true.mp h1 r r.mem_all) (FnReg.not_mem hp)
  case sys r => exact r.same_refl _
  case plan r => exact r.same_refl _
  case pl r => exact r.same_refl _
  case lc r => exact r.same_refl _
  case dbg r => exact r.same_refl _
  case en r => exact r.same_refl _
  case queue r => exact fun _ => r.same_refl _
  case pad r => exact fun _ => r.same_refl _
  case jn r => exact r.same_refl _
  case stall r => exact fun _ => r.same_refl _
  case tk r => exact r.same_refl _
  case rng r => exact r.same_refl _
  case core r => exact fun _ => r.same_refl _
  case fc r => exact r.same_refl _
  case tp r => exact r.same_refl _
  case hl r => exact r.same_refl _
  case tt r => exact r.same_refl _
  case lk r => exact r.same_refl _
  all_goals rfl

theorem put_queues {k : List Part} {s x : State} {v0 : SMap Queue}
    (h0 : QueueReg.all.all (fun r => (k.filterMap Part.queue?).contains r) = true) (h : Only k s x) :
    Only k s { x with queues := v0 } := by
  refine h.trans ⟨fun p hp => ?_⟩
  cases p
  case queue r => exact absurd (by simpa using List.all_eq_true.mp h0 r r.mem_all) (QueueReg.not_mem hp)
  case sys r => exact r.same_refl _
  case plan r => exact r.same_refl _
  case pl r => exact r.same_refl _
  case lc r => exact r.same_refl _
  case dbg r => exact r.same_refl _
  case en r => exact r.same_refl _
  case port r => exact r.same_refl _
  case fn r => exact fun _ => r.same_refl _
  case pad r => exact fun _ => r.same_refl _
  case jn r => exact r.same_refl _
  case stall r => exact fun _ => r.same_refl _
  case tk r => exact r.same_refl _
  case rng r => exact r.same_refl _
  case core r => exact fun _ => r.same_refl _
  case fc r => exact r.same_refl _
  case tp r => exact r.same_refl _
  case hl r => exact r.same_refl _
  case tt r => exact r.same_refl _
  case lk r => exact r.same_refl _
  all_goals rfl

theorem put_queues_pads_jobs_jn {k : List Part} {s x : State} {v0 : SMap Queue} {v1 : SMap Pad} {v2 : List Job} {v3 : Journal}
    (h0 : QueueReg.all.all (fun r => (k.filterMap Part.queue?).contains r) = true)
    (h1 : PadReg.all.all (fun r => (k.filterMap Part.pad?).contains r) = true)
    (h2 : k.contains .jobs = true)
    (h3 : Keep JnReg.Same (k.filterMap Part.jn?) x.jn v3) (h : Only k s x) :
    Only k s { x with queues := v0, pads := v1, jobs := v2, jn := v3 } := by
  refine h.trans ⟨fun p hp => ?_⟩
  cases p
  case queue r => exact absurd (by simpa using List.all_eq_true.mp h0 r r.mem_all) (QueueReg.not_mem hp)
  case pad r => exact absurd (by simpa using List.all_eq_true.mp h1 r r.mem_all) (PadReg.not_mem hp)
  case jobs => exact absurd (by simpa using h2) hp
  case jn r => exact h3.same r (JnReg.not_mem hp)
  case sys r => exact r.same_refl _
  case plan r => exact r.same_refl _
  case pl r => exact r.same_refl _
  case lc r => exact r.same_refl _
  case dbg r => exact r.same_refl _
  case en r => exact r.same_refl _
  case port r => exact r.same_refl _
  case fn r => exact fun _ => r.same_refl _
  case stall r => exact fun _ => r.same_refl _
  case tk r => exact r.same_refl _
  case rng r => exact r.same_refl _
  case core r => exact fun _ => r.same_refl _
  case fc r => exact r.same_refl _
  case tp r => exact r.same_refl _
  case hl r => exact r.same_refl _
  case tt r => exact r.same_refl _
  case lk r => exact r.same_refl _
  all_goals rfl

theorem put_queues_pads_jobs_jn_hl_tt {k : List Part} {s x : State} {v0 : SMap Queue} {v1 : SMap Pad} {v2 : List Job} {v3 : Journal} {v4 : Hayloft} {v5 : Tether}
    (h0 : QueueReg.all.all (fun r => (k.filterMap Part.queue?).contains r) = true)
    (h1 : PadReg.all.all (fun r => (k.filterMap Part.pad?).contains r) = true)
    (h2 : k.contains .jobs = true)
    (h3 : Keep JnReg.Same (k.filterMap Part.jn?) x.jn v3)
    (h4 : Keep HlReg.Same (k.filterMap Part.hl?) x.hl v4)
    (h5 : Keep TtReg.Same (k.filterMap Part.tt?) x.tt v5) (h : Only k s x) :
    Only k s { x with queues := v0, pads := v1, jobs := v2, jn := v3, hl := v4, tt := v5 } := by
  refine h.trans ⟨fun p hp => ?_⟩
  cases p
  case queue r => exact absurd (by simpa using List.all_eq_true.mp h0 r r.mem_all) (QueueReg.not_mem hp)
  case pad r => exact absurd (by simpa using List.all_eq_true.mp h1 r r.mem_all) (PadReg.not_mem hp)
  case jobs => exact absurd (by simpa using h2) hp
  case jn r => exact h3.same r (JnReg.not_mem hp)
  case hl r => exact h4.same r (HlReg.not_mem hp)
  case tt r => exact h5.same r (TtReg.not_mem hp)
  case sys r => exact r.same_refl _
  case plan r => exact r.same_refl _
  case pl r => exact r.same_refl _
  case lc r => exact r.same_refl _
  case dbg r => exact r.same_refl _
  case en r => exact r.same_refl _
  case port r => exact r.same_refl _
  case fn r => exact fun _ => r.same_refl _
  case stall r => exact fun _ => r.same_refl _
  case tk r => exact r.same_refl _
  case rng r => exact r.same_refl _
  case core r => exact fun _ => r.same_refl _
  case fc r => exact r.same_refl _
  case tp r => exact r.same_refl _
  case lk r => exact r.same_refl _
  all_goals rfl

theorem put_queues_pads_jobs_jn_tt {k : List Part} {s x : State} {v0 : SMap Queue} {v1 : SMap Pad} {v2 : List Job} {v3 : Journal} {v4 : Tether}
    (h0 : QueueReg.all.all (fun r => (k.filterMap Part.queue?).contains r) = true)
    (h1 : PadReg.all.all (fun r => (k.filterMap Part.pad?).contains r) = true)
    (h2 : k.contains .jobs = true)
    (h3 : Keep JnReg.Same (k.filterMap Part.jn?) x.jn v3)
    (h4 : Keep TtReg.Same (k.filterMap Part.tt?) x.tt v4) (h : Only k s x) :
    Only k s { x with queues := v0, pads := v1, jobs := v2, jn := v3, tt := v4 } := by
  refine h.trans ⟨fun p hp => ?_⟩
  cases p
  case queue r => exact absurd (by simpa using List.all_eq_true.mp h0 r r.mem_all) (QueueReg.not_mem hp)
  case pad r => exact absurd (by simpa using List.all_eq_true.mp h1 r r.mem_all) (PadReg.not_mem hp)
  case jobs => exact absurd (by simpa using h2) hp
  case jn r => exact h3.same r (JnReg.not_mem hp)
  case tt r => exact h4.same r (TtReg.not_mem hp)
  case sys r => exact r.same_refl _
  case plan r => exact r.same_refl _
  case pl r => exact r.same_refl _
  case lc r => exact r.same_refl _
  case dbg r => exact r.same_refl _
  case en r => exact r.same_refl _
  case port r => exact r.same_refl _
  case fn r => exact fun _ => r.same_refl _
  case stall r => exact fun _ => r.same_refl _
  case tk r => exact r.same_refl _
  case rng r => exact r.same_refl _
  case core r => exact fun _ => r.same_refl _
  case fc r => exact r.same_refl _
  case tp r => exact r.same_refl _
  case hl r => exact r.same_refl _
  case lk r => exact r.same_refl _
  all_goals rfl

theorem put_rng {k : List Part} {s x : State} {v0 : Rng}
    (h0 : Keep RngReg.Same (k.filterMap Part.rng?) x.rng v0) (h : Only k s x) :
    Only k s { x with rng := v0 } := by
  refine h.trans ⟨fun p hp => ?_⟩
  cases p
  case rng r => exact h0.same r (RngReg.not_mem hp)
  case sys r => exact r.same_refl _
  case plan r => exact r.same_refl _
  case pl r => exact r.same_refl _
  case lc r => exact r.same_refl _
  case dbg r => exact r.same_refl _
  case en r => exact r.same_refl _
  case port r => exact r.same_refl _
  case fn r => exact fun _ => r.same_refl _
  case queue r => exact fun _ => r.same_refl _
  case pad r => exact fun _ => r.same_refl _
  case jn r => exact r.same_refl _
  case stall r => exact fun _ => r.same_refl _
  case tk r => exact r.same_refl _
  case core r => exact fun _ => r.same_refl _
  case fc r => exact r.same_refl _
  case tp r => exact r.same_refl _
  case hl r => exact r.same_refl _
  case tt r => exact r.same_refl _
  case lk r => exact r.same_refl _
  all_goals rfl

theorem put_scans {k : List Part} {s x : State} {v0 : SMap Scan}
    (h0 : k.contains .scans = true) (h : Only k s x) :
    Only k s { x with scans := v0 } := by
  refine h.trans ⟨fun p hp => ?_⟩
  cases p
  case scans => exact absurd (by simpa using h0) hp
  case sys r => exact r.same_refl _
  case plan r => exact r.same_refl _
  case pl r => exact r.same_refl _
  case lc r => exact r.same_refl _
  case dbg r => exact r.same_refl _
  case en r => exact r.same_refl _
  case port r => exact r.same_refl _
  case fn r => exact fun _ => r.same_refl _
  case queue r => exact fun _ => r.same_refl _
  case pad r => exact fun _ => r.same_refl _
  case jn r => exact r.same_refl _
  case stall r => exact fun _ => r.same_refl _
  case tk r => exact r.same_refl _
  case rng r => exact r.same_refl _
  case core r => exact fun _ => r.same_refl _
  case fc r => exact r.same_refl _
  case tp r => exact r.same_refl _
  case hl r => exact r.same_refl _
  case tt r => exact r.same_refl _
  case lk r => exact r.same_refl _
  all_goals rfl

theorem put_stalls {k : List Part} {s x : State} {v0 : SMap Stall}
    (h0 : StallReg.all.all (fun r => (k.filterMap Part.stall?).contains r) = true) (h : Only k s x) :
    Only k s { x with stalls := v0 } := by
  refine h.trans ⟨fun p hp => ?_⟩
  cases p
  case stall r => exact absurd (by simpa using List.all_eq_true.mp h0 r r.mem_all) (StallReg.not_mem hp)
  case sys r => exact r.same_refl _
  case plan r => exact r.same_refl _
  case pl r => exact r.same_refl _
  case lc r => exact r.same_refl _
  case dbg r => exact r.same_refl _
  case en r => exact r.same_refl _
  case port r => exact r.same_refl _
  case fn r => exact fun _ => r.same_refl _
  case queue r => exact fun _ => r.same_refl _
  case pad r => exact fun _ => r.same_refl _
  case jn r => exact r.same_refl _
  case tk r => exact r.same_refl _
  case rng r => exact r.same_refl _
  case core r => exact fun _ => r.same_refl _
  case fc r => exact r.same_refl _
  case tp r => exact r.same_refl _
  case hl r => exact r.same_refl _
  case tt r => exact r.same_refl _
  case lk r => exact r.same_refl _
  all_goals rfl

theorem put_sys {k : List Part} {s x : State} {v0 : Sys}
    (h0 : Keep SysReg.Same (k.filterMap Part.sys?) x.sys v0) (h : Only k s x) :
    Only k s { x with sys := v0 } := by
  refine h.trans ⟨fun p hp => ?_⟩
  cases p
  case sys r => exact h0.same r (SysReg.not_mem hp)
  case plan r => exact r.same_refl _
  case pl r => exact r.same_refl _
  case lc r => exact r.same_refl _
  case dbg r => exact r.same_refl _
  case en r => exact r.same_refl _
  case port r => exact r.same_refl _
  case fn r => exact fun _ => r.same_refl _
  case queue r => exact fun _ => r.same_refl _
  case pad r => exact fun _ => r.same_refl _
  case jn r => exact r.same_refl _
  case stall r => exact fun _ => r.same_refl _
  case tk r => exact r.same_refl _
  case rng r => exact r.same_refl _
  case core r => exact fun _ => r.same_refl _
  case fc r => exact r.same_refl _
  case tp r => exact r.same_refl _
  case hl r => exact r.same_refl _
  case tt r => exact r.same_refl _
  case lk r => exact r.same_refl _
  all_goals rfl

theorem put_sys_dbg_freeCtr {k : List Part} {s x : State} {v0 : Sys} {v1 : Debug} {v2 : Nat}
    (h0 : Keep SysReg.Same (k.filterMap Part.sys?) x.sys v0)
    (h1 : Keep DbgReg.Same (k.filterMap Part.dbg?) x.dbg v1)
    (h2 : k.contains .freeCtr = true) (h : Only k s x) :
    Only k s { x with sys := v0, dbg := v1, freeCtr := v2 } := by
  refine h.trans ⟨fun p hp => ?_⟩
  cases p
  case sys r => exact h0.same r (SysReg.not_mem hp)
  case dbg r => exact h1.same r (DbgReg.not_mem hp)
  case freeCtr => exact absurd (by simpa using h2) hp
  case plan r => exact r.same_refl _
  case pl r => exact r.same_refl _
  case lc r => exact r.same_refl _
  case en r => exact r.same_refl _
  case port r => exact r.same_refl _
  case fn r => exact fun _ => r.same_refl _
  case queue r => exact fun _ => r.same_refl _
  case pad r => exact fun _ => r.same_refl _
  case jn r => exact r.same_refl _
  case stall r => exact fun _ => r.same_refl _
  case tk r => exact r.same_refl _
  case rng r => exact r.same_refl _
  case core r => exact fun _ => r.same_refl _
  case fc r => exact r.same_refl _
  case tp r => exact r.same_refl _
  case hl r => exact r.same_refl _
  case tt r => exact r.same_refl _
  case lk r => exact r.same_refl _
  all_goals rfl

theorem put_sys_jn {k : List Part} {s x : State} {v0 : Sys} {v1 : Journal}
    (h0 : Keep SysReg.Same (k.filterMap Part.sys?) x.sys v0)
    (h1 : Keep JnReg.Same (k.filterMap Part.jn?) x.jn v1) (h : Only k s x) :
    Only k s { x with sys := v0, jn := v1 } := by
  refine h.trans ⟨fun p hp => ?_⟩
  cases p
  case sys r => exact h0.same r (SysReg.not_mem hp)
  case jn r => exact h1.same r (JnReg.not_mem hp)
  case plan r => exact r.same_refl _
  case pl r => exact r.same_refl _
  case lc r => exact r.same_refl _
  case dbg r => exact r.same_refl _
  case en r => exact r.same_refl _
  case port r => exact r.same_refl _
  case fn r => exact fun _ => r.same_refl _
  case queue r => exact fun _ => r.same_refl _
  case pad r => exact fun _ => r.same_refl _
  case stall r => exact fun _ => r.same_refl _
  case tk r => exact r.same_refl _
  case rng r => exact r.same_refl _
  case core r => exact fun _ => r.same_refl _
  case fc r => exact r.same_refl _
  case tp r => exact r.same_refl _
  case hl r => exact r.same_refl _
  case tt r => exact r.same_refl _
  case lk r => exact r.same_refl _
  all_goals rfl

theorem put_sys_lc_dbg_en_queues_pads_jobs_jn_yard_cache_tk_fc_hl_tt_freeCtr {k : List Part} {s x : State} {v0 : Sys} {v1 : LifeCycle} {v2 : Debug} {v3 : Energy} {v4 : SMap Queue} {v5 : SMap Pad} {v6 : List Job} {v7 : Journal} {v8 : List YardList} {v9 : SMap CacheEntry} {v10 : Tack} {v11 : Faults} {v12 : Hayloft} {v13 : Tether} {v14 : Nat}
    (h0 : Keep SysReg.Same (k.filterMap Part.sys?) x.sys v0)
    (h1 : Keep LcReg.Same (k.filterMap Part.lc?) x.lc v1)
    (h2 : Keep DbgReg.Same (k.filterMap Part.dbg?) x.dbg v2)
    (h3 : Keep EnReg.Same (k.filterMap Part.en?) x.en v3)
    (h4 : QueueReg.all.all (fun r => (k.filterMap Part.queue?).contains r) = true)
    (h5 : PadReg.all.all (fun r => (k.filterMap Part.pad?).contains r) = true)
    (h6 : k.contains .jobs = true)
    (h7 : Keep JnReg.Same (k.filterMap Part.jn?) x.jn v7)
    (h8 : k.contains .yard = true)
    (h9 : k.contains .cache = true)
    (h10 : Keep TkReg.Same (k.filterMap Part.tk?) x.tk v10)
    (h11 : Keep FcReg.Same (k.filterMap Part.fc?) x.fc v11)
    (h12 : Keep HlReg.Same (k.filterMap Part.hl?) x.hl v12)
    (h13 : Keep TtReg.Same (k.filterMap Part.tt?) x.tt v13)
    (h14 : k.contains .freeCtr = true) (h : Only k s x) :
    Only k s { x with sys := v0, lc := v1, dbg := v2, en := v3, queues := v4, pads := v5, jobs := v6, jn := v7, yard := v8, cache := v9, tk := v10, fc := v11, hl := v12, tt := v13, freeCtr := v14 } := by
  refine h.trans ⟨fun p hp => ?_⟩
  cases p
  case sys r => exact h0.same r (SysReg.not_mem hp)
  case lc r => exact h1.same r (LcReg.not_mem hp)
  case dbg r => exact h2.same r (DbgReg.not_mem hp)
  case en r => exact h3.same r (EnReg.not_mem hp)
  case queue r => exact absurd (by simpa using List.all_eq_true.mp h4 r r.mem_all) (QueueReg.not_mem hp)
  case pad r => exact absurd (by simpa using List.all_eq_true.mp h5 r r.mem_all) (PadReg.not_mem hp)
  case jobs => exact absurd (by simpa using h6) hp
  case jn r => exact h7.same r (JnReg.not_mem hp)
  case yard => exact absurd (by simpa using h8) hp
  case cache => exact absurd (by simpa using h9) hp
  case tk r => exact h10.same r (TkReg.not_mem hp)
  case fc r => exact h11.same r (FcReg.not_mem hp)
  case hl r => exact h12.same r (HlReg.not_mem hp)
  case tt r => exact h13.same r (TtReg.not_mem hp)
  case freeCtr => exact absurd (by simpa using h14) hp
  case plan r => exact r.same_refl _
  case pl r => exact r.same_refl _
  case port r => exact r.same_refl _
  case fn r => exact fun _ => r.same_refl _
  case stall r => exact fun _ => r.same_refl _
  case rng r => exact r.same_refl _
  case core r => exact fun _ => r.same_refl _
  case tp r => exact r.same_refl _
  case lk r => exact r.same_refl _
  all_goals rfl

theorem put_sys_port {k : List Part} {s x : State} {v0 : Sys} {v1 : Port}
    (h0 : Keep SysReg.Same (k.filterMap Part.sys?) x.sys v0)
    (h1 : Keep PortReg.Same (k.filterMap Part.port?) x.port v1) (h : Only k s x) :
    Only k s { x with sys := v0, port := v1 } := by
  refine h.trans ⟨fun p hp => ?_⟩
  cases p
  case sys r => exact h0.same r (SysReg.not_mem hp)
  case port r => exact h1.same r (PortReg.not_mem hp)
  case plan r => exact r.same_refl _
  case pl r => exact r.same_refl _
  case lc r => exact r.same_refl _
  case dbg r => exact r.same_refl _
  case en r => exact r.same_refl _
  case fn r => exact fun _ => r.same_refl _
  case queue r => exact fun _ => r.same_refl _
  case pad r => exact fun _ => r.same_refl _
  case jn r => exact r.same_refl _
  case stall r => exact fun _ => r.same_refl _
  case tk r => exact r.same_refl _
  case rng r => exact r.same_refl _
  case core r => exact fun _ => r.same_refl _
  case fc r => exact r.same_refl _
  case tp r => exact r.same_refl _
  case hl r => exact r.same_refl _
  case tt r => exact r.same_refl _
  case lk r => exact r.same_refl _
  all_goals rfl

theorem put_sys_queues_pads_jobs_jn_stalls_yard_cache_tk_cores_feeds {k : List Part} {s x : State} {v0 : Sys} {v1 : SMap Queue} {v2 : SMap Pad} {v3 : List Job} {v4 : Journal} {v5 : SMap Stall} {v6 : List YardList} {v7 : SMap CacheEntry} {v8 : Tack} {v9 : SMap Core} {v10 : SMap Feed}
    (h0 : Keep SysReg.Same (k.filterMap Part.sys?) x.sys v0)
    (h1 : QueueReg.all.all (fun r => (k.filterMap Part.queue?).contains r) = true)
    (h2 : PadReg.all.all (fun r => (k.filterMap Part.pad?).contains r) = true)
    (h3 : k.contains .jobs = true)
    (h4 : Keep JnReg.Same (k.filterMap Part.jn?) x.jn v4)
    (h5 : StallReg.all.all (fun r => (k.filterMap Part.stall?).contains r) = true)
    (h6 : k.contains .yard = true)
    (h7 : k.contains .cache = true)
    (h8 : Keep TkReg.Same (k.filterMap Part.tk?) x.tk v8)
    (h9 : CoreReg.all.all (fun r => (k.filterMap Part.core?).contains r) = true)
    (h10 : k.contains .feeds = true) (h : Only k s x) :
    Only k s { x with sys := v0, queues := v1, pads := v2, jobs := v3, jn := v4, stalls := v5, yard := v6, cache := v7, tk := v8, cores := v9, feeds := v10 } := by
  refine h.trans ⟨fun p hp => ?_⟩
  cases p
  case sys r => exact h0.same r (SysReg.not_mem hp)
  case queue r => exact absurd (by simpa using List.all_eq_true.mp h1 r r.mem_all) (QueueReg.not_mem hp)
  case pad r => exact absurd (by simpa using List.all_eq_true.mp h2 r r.mem_all) (PadReg.not_mem hp)
  case jobs => exact absurd (by simpa using h3) hp
  case jn r => exact h4.same r (JnReg.not_mem hp)
  case stall r => exact absurd (by simpa using List.all_eq_true.mp h5 r r.mem_all) (StallReg.not_mem hp)
  case yard => exact absurd (by simpa using h6) hp
  case cache => exact absurd (by simpa using h7) hp
  case tk r => exact h8.same r (TkReg.not_mem hp)
  case core r => exact absurd (by simpa using List.all_eq_true.mp h9 r r.mem_all) (CoreReg.not_mem hp)
  case feeds => exact absurd (by simpa using h10) hp
  case plan r => exact r.same_refl _
  case pl r => exact r.same_refl _
  case lc r => exact r.same_refl _
  case dbg r => exact r.same_refl _
  case en r => exact r.same_refl _
  case port r => exact r.same_refl _
  case fn r => exact fun _ => r.same_refl _
  case rng r => exact r.same_refl _
  case fc r => exact r.same_refl _
  case tp r => exact r.same_refl _
  case hl r => exact r.same_refl _
  case tt r => exact r.same_refl _
  case lk r => exact r.same_refl _
  all_goals rfl

theorem put_sys_rng_tp_freeCtr {k : List Part} {s x : State} {v0 : Sys} {v1 : Rng} {v2 : Tamper} {v3 : Nat}
    (h0 : Keep SysReg.Same (k.filterMap Part.sys?) x.sys v0)
    (h1 : Keep RngReg.Same (k.filterMap Part.rng?) x.rng v1)
    (h2 : Keep TpReg.Same (k.filterMap Part.tp?) x.tp v2)
    (h3 : k.contains .freeCtr = true) (h : Only k s x) :
    Only k s { x with sys := v0, rng := v1, tp := v2, freeCtr := v3 } := by
  refine h.trans ⟨fun p hp => ?_⟩
  cases p
  case sys r => exact h0.same r (SysReg.not_mem hp)
  case rng r => exact h1.same r (RngReg.not_mem hp)
  case tp r => exact h2.same r (TpReg.not_mem hp)
  case freeCtr => exact absurd (by simpa using h3) hp
  case plan r => exact r.same_refl _
  case pl r => exact r.same_refl _
  case lc r => exact r.same_refl _
  case dbg r => exact r.same_refl _
  case en r => exact r.same_refl _
  case port r => exact r.same_refl _
  case fn r => exact fun _ => r.same_refl _
  case queue r => exact fun _ => r.same_refl _
  case pad r => exact fun _ => r.same_refl _
  case jn r => exact r.same_refl _
  case stall r => exact fun _ => r.same_refl _
  case tk r => exact r.same_refl _
  case core r => exact fun _ => r.same_refl _
  case fc r => exact r.same_refl _
  case hl r => exact r.same_refl _
  case tt r => exact r.same_refl _
  case lk r => exact r.same_refl _
  all_goals rfl

theorem put_sys_tp {k : List Part} {s x : State} {v0 : Sys} {v1 : Tamper}
    (h0 : Keep SysReg.Same (k.filterMap Part.sys?) x.sys v0)
    (h1 : Keep TpReg.Same (k.filterMap Part.tp?) x.tp v1) (h : Only k s x) :
    Only k s { x with sys := v0, tp := v1 } := by
  refine h.trans ⟨fun p hp => ?_⟩
  cases p
  case sys r => exact h0.same r (SysReg.not_mem hp)
  case tp r => exact h1.same r (TpReg.not_mem hp)
  case plan r => exact r.same_refl _
  case pl r => exact r.same_refl _
  case lc r => exact r.same_refl _
  case dbg r => exact r.same_refl _
  case en r => exact r.same_refl _
  case port r => exact r.same_refl _
  case fn r => exact fun _ => r.same_refl _
  case queue r => exact fun _ => r.same_refl _
  case pad r => exact fun _ => r.same_refl _
  case jn r => exact r.same_refl _
  case stall r => exact fun _ => r.same_refl _
  case tk r => exact r.same_refl _
  case rng r => exact r.same_refl _
  case core r => exact fun _ => r.same_refl _
  case fc r => exact r.same_refl _
  case hl r => exact r.same_refl _
  case tt r => exact r.same_refl _
  case lk r => exact r.same_refl _
  all_goals rfl

theorem put_sys_tp_freeCtr {k : List Part} {s x : State} {v0 : Sys} {v1 : Tamper} {v2 : Nat}
    (h0 : Keep SysReg.Same (k.filterMap Part.sys?) x.sys v0)
    (h1 : Keep TpReg.Same (k.filterMap Part.tp?) x.tp v1)
    (h2 : k.contains .freeCtr = true) (h : Only k s x) :
    Only k s { x with sys := v0, tp := v1, freeCtr := v2 } := by
  refine h.trans ⟨fun p hp => ?_⟩
  cases p
  case sys r => exact h0.same r (SysReg.not_mem hp)
  case tp r => exact h1.same r (TpReg.not_mem hp)
  case freeCtr => exact absurd (by simpa using h2) hp
  case plan r => exact r.same_refl _
  case pl r => exact r.same_refl _
  case lc r => exact r.same_refl _
  case dbg r => exact r.same_refl _
  case en r => exact r.same_refl _
  case port r => exact r.same_refl _
  case fn r => exact fun _ => r.same_refl _
  case queue r => exact fun _ => r.same_refl _
  case pad r => exact fun _ => r.same_refl _
  case jn r => exact r.same_refl _
  case stall r => exact fun _ => r.same_refl _
  case tk r => exact r.same_refl _
  case rng r => exact r.same_refl _
  case core r => exact fun _ => r.same_refl _
  case fc r => exact r.same_refl _
  case hl r => exact r.same_refl _
  case tt r => exact r.same_refl _
  case lk r => exact r.same_refl _
  all_goals rfl

theorem put_sys_tt {k : List Part} {s x : State} {v0 : Sys} {v1 : Tether}
    (h0 : Keep SysReg.Same (k.filterMap Part.sys?) x.sys v0)
    (h1 : Keep TtReg.Same (k.filterMap Part.tt?) x.tt v1) (h : Only k s x) :
    Only k s { x with sys := v0, tt := v1 } := by
  refine h.trans ⟨fun p hp => ?_⟩
  cases p
  case sys r => exact h0.same r (SysReg.not_mem hp)
  case tt r => exact h1.same r (TtReg.not_mem hp)
  case plan r => exact r.same_refl _
  case pl r => exact r.same_refl _
  case lc r => exact r.same_refl _
  case dbg r => exact r.same_refl _
  case en r => exact r.same_refl _
  case port r => exact r.same_refl _
  case fn r => exact fun _ => r.same_refl _
  case queue r => exact fun _ => r.same_refl _
  case pad r => exact fun _ => r.same_refl _
  case jn r => exact r.same_refl _
  case stall r => exact fun _ => r.same_refl _
  case tk r => exact r.same_refl _
  case rng r => exact r.same_refl _
  case core r => exact fun _ => r.same_refl _
  case fc r => exact r.same_refl _
  case tp r => exact r.same_refl _
  case hl r => exact r.same_refl _
  case lk r => exact r.same_refl _
  all_goals rfl

theorem put_time {k : List Part} {s x : State} {v0 : Nat}
    (h0 : k.contains .time = true) (h : Only k s x) :
    Only k s { x with time := v0 } := by
  refine h.trans ⟨fun p hp => ?_⟩
  cases p
  case time => exact absurd (by simpa using h0) hp
  case sys r => exact r.same_refl _
  case plan r => exact r.same_refl _
  case pl r => exact r.same_refl _
  case lc r => exact r.same_refl _
  case dbg r => exact r.same_refl _
  case en r => exact r.same_refl _
  case port r => exact r.same_refl _
  case fn r => exact fun _ => r.same_refl _
  case queue r => exact fun _ => r.same_refl _
  case pad r => exact fun _ => r.same_refl _
  case jn r => exact r.same_refl _
  case stall r => exact fun _ => r.same_refl _
  case tk r => exact r.same_refl _
  case rng r => exact r.same_refl _
  case core r => exact fun _ => r.same_refl _
  case fc r => exact r.same_refl _
  case tp r => exact r.same_refl _
  case hl r => exact r.same_refl _
  case tt r => exact r.same_refl _
  case lk r => exact r.same_refl _
  all_goals rfl

theorem put_time_jobs_jn {k : List Part} {s x : State} {v0 : Nat} {v1 : List Job} {v2 : Journal}
    (h0 : k.contains .time = true)
    (h1 : k.contains .jobs = true)
    (h2 : Keep JnReg.Same (k.filterMap Part.jn?) x.jn v2) (h : Only k s x) :
    Only k s { x with time := v0, jobs := v1, jn := v2 } := by
  refine h.trans ⟨fun p hp => ?_⟩
  cases p
  case time => exact absurd (by simpa using h0) hp
  case jobs => exact absurd (by simpa using h1) hp
  case jn r => exact h2.same r (JnReg.not_mem hp)
  case sys r => exact r.same_refl _
  case plan r => exact r.same_refl _
  case pl r => exact r.same_refl _
  case lc r => exact r.same_refl _
  case dbg r => exact r.same_refl _
  case en r => exact r.same_refl _
  case port r => exact r.same_refl _
  case fn r => exact fun _ => r.same_refl _
  case queue r => exact fun _ => r.same_refl _
  case pad r => exact fun _ => r.same_refl _
  case stall r => exact fun _ => r.same_refl _
  case tk r => exact r.same_refl _
  case rng r => exact r.same_refl _
  case core r => exact fun _ => r.same_refl _
  case fc r => exact r.same_refl _
  case tp r => exact r.same_refl _
  case hl r => exact r.same_refl _
  case tt r => exact r.same_refl _
  case lk r => exact r.same_refl _
  all_goals rfl

theorem put_tk {k : List Part} {s x : State} {v0 : Tack}
    (h0 : Keep TkReg.Same (k.filterMap Part.tk?) x.tk v0) (h : Only k s x) :
    Only k s { x with tk := v0 } := by
  refine h.trans ⟨fun p hp => ?_⟩
  cases p
  case tk r => exact h0.same r (TkReg.not_mem hp)
  case sys r => exact r.same_refl _
  case plan r => exact r.same_refl _
  case pl r => exact r.same_refl _
  case lc r => exact r.same_refl _
  case dbg r => exact r.same_refl _
  case en r => exact r.same_refl _
  case port r => exact r.same_refl _
  case fn r => exact fun _ => r.same_refl _
  case queue r => exact fun _ => r.same_refl _
  case pad r => exact fun _ => r.same_refl _
  case jn r => exact r.same_refl _
  case stall r => exact fun _ => r.same_refl _
  case rng r => exact r.same_refl _
  case core r => exact fun _ => r.same_refl _
  case fc r => exact r.same_refl _
  case tp r => exact r.same_refl _
  case hl r => exact r.same_refl _
  case tt r => exact r.same_refl _
  case lk r => exact r.same_refl _
  all_goals rfl

theorem put_tk_freeCtr {k : List Part} {s x : State} {v0 : Tack} {v1 : Nat}
    (h0 : Keep TkReg.Same (k.filterMap Part.tk?) x.tk v0)
    (h1 : k.contains .freeCtr = true) (h : Only k s x) :
    Only k s { x with tk := v0, freeCtr := v1 } := by
  refine h.trans ⟨fun p hp => ?_⟩
  cases p
  case tk r => exact h0.same r (TkReg.not_mem hp)
  case freeCtr => exact absurd (by simpa using h1) hp
  case sys r => exact r.same_refl _
  case plan r => exact r.same_refl _
  case pl r => exact r.same_refl _
  case lc r => exact r.same_refl _
  case dbg r => exact r.same_refl _
  case en r => exact r.same_refl _
  case port r => exact r.same_refl _
  case fn r => exact fun _ => r.same_refl _
  case queue r => exact fun _ => r.same_refl _
  case pad r => exact fun _ => r.same_refl _
  case jn r => exact r.same_refl _
  case stall r => exact fun _ => r.same_refl _
  case rng r => exact r.same_refl _
  case core r => exact fun _ => r.same_refl _
  case fc r => exact r.same_refl _
  case tp r => exact r.same_refl _
  case hl r => exact r.same_refl _
  case tt r => exact r.same_refl _
  case lk r => exact r.same_refl _
  all_goals rfl

theorem put_tk_tp {k : List Part} {s x : State} {v0 : Tack} {v1 : Tamper}
    (h0 : Keep TkReg.Same (k.filterMap Part.tk?) x.tk v0)
    (h1 : Keep TpReg.Same (k.filterMap Part.tp?) x.tp v1) (h : Only k s x) :
    Only k s { x with tk := v0, tp := v1 } := by
  refine h.trans ⟨fun p hp => ?_⟩
  cases p
  case tk r => exact h0.same r (TkReg.not_mem hp)
  case tp r => exact h1.same r (TpReg.not_mem hp)
  case sys r => exact r.same_refl _
  case plan r => exact r.same_refl _
  case pl r => exact r.same_refl _
  case lc r => exact r.same_refl _
  case dbg r => exact r.same_refl _
  case en r => exact r.same_refl _
  case port r => exact r.same_refl _
  case fn r => exact fun _ => r.same_refl _
  case queue r => exact fun _ => r.same_refl _
  case pad r => exact fun _ => r.same_refl _
  case jn r => exact r.same_refl _
  case stall r => exact fun _ => r.same_refl _
  case rng r => exact r.same_refl _
  case core r => exact fun _ => r.same_refl _
  case fc r => exact r.same_refl _
  case hl r => exact r.same_refl _
  case tt r => exact r.same_refl _
  case lk r => exact r.same_refl _
  all_goals rfl

theorem put_tp {k : List Part} {s x : State} {v0 : Tamper}
    (h0 : Keep TpReg.Same (k.filterMap Part.tp?) x.tp v0) (h : Only k s x) :
    Only k s { x with tp := v0 } := by
  refine h.trans ⟨fun p hp => ?_⟩
  cases p
  case tp r => exact h0.same r (TpReg.not_mem hp)
  case sys r => exact r.same_refl _
  case plan r => exact r.same_refl _
  case pl r => exact r.same_refl _
  case lc r => exact r.same_refl _
  case dbg r => exact r.same_refl _
  case en r => exact r.same_refl _
  case port r => exact r.same_refl _
  case fn r => exact fun _ => r.same_refl _
  case queue r => exact fun _ => r.same_refl _
  case pad r => exact fun _ => r.same_refl _
  case jn r => exact r.same_refl _
  case stall r => exact fun _ => r.same_refl _
  case tk r => exact r.same_refl _
  case rng r => exact r.same_refl _
  case core r => exact fun _ => r.same_refl _
  case fc r => exact r.same_refl _
  case hl r => exact r.same_refl _
  case tt r => exact r.same_refl _
  case lk r => exact r.same_refl _
  all_goals rfl

theorem put_tt {k : List Part} {s x : State} {v0 : Tether}
    (h0 : Keep TtReg.Same (k.filterMap Part.tt?) x.tt v0) (h : Only k s x) :
    Only k s { x with tt := v0 } := by
  refine h.trans ⟨fun p hp => ?_⟩
  cases p
  case tt r => exact h0.same r (TtReg.not_mem hp)
  case sys r => exact r.same_refl _
  case plan r => exact r.same_refl _
  case pl r => exact r.same_refl _
  case lc r => exact r.same_refl _
  case dbg r => exact r.same_refl _
  case en r => exact r.same_refl _
  case port r => exact r.same_refl _
  case fn r => exact fun _ => r.same_refl _
  case queue r => exact fun _ => r.same_refl _
  case pad r => exact fun _ => r.same_refl _
  case jn r => exact r.same_refl _
  case stall r => exact fun _ => r.same_refl _
  case tk r => exact r.same_refl _
  case rng r => exact r.same_refl _
  case core r => exact fun _ => r.same_refl _
  case fc r => exact r.same_refl _
  case tp r => exact r.same_refl _
  case hl r => exact r.same_refl _
  case lk r => exact r.same_refl _
  all_goals rfl

theorem put_yard {k : List Part} {s x : State} {v0 : List YardList}
    (h0 : k.contains .yard = true) (h : Only k s x) :
    Only k s { x with yard := v0 } := by
  refine h.trans ⟨fun p hp => ?_⟩
  cases p
  case yard => exact absurd (by simpa using h0) hp
  case sys r => exact r.same_refl _
  case plan r => exact r.same_refl _
  case pl r => exact r.same_refl _
  case lc r => exact r.same_refl _
  case dbg r => exact r.same_refl _
  case en r => exact r.same_refl _
  case port r => exact r.same_refl _
  case fn r => exact fun _ => r.same_refl _
  case queue r => exact fun _ => r.same_refl _
  case pad r => exact fun _ => r.same_refl _
  case jn r => exact r.same_refl _
  case stall r => exact fun _ => r.same_refl _
  case tk r => exact r.same_refl _
  case rng r => exact r.same_refl _
  case core r => exact fun _ => r.same_refl _
  case fc r => exact r.same_refl _
  case tp r => exact r.same_refl _
  case hl r => exact r.same_refl _
  case tt r => exact r.same_refl _
  case lk r => exact r.same_refl _
  all_goals rfl

theorem put_yard_yardRetired {k : List Part} {s x : State} {v0 : List YardList} {v1 : List Nat}
    (h0 : k.contains .yard = true)
    (h1 : k.contains .yardRetired = true) (h : Only k s x) :
    Only k s { x with yard := v0, yardRetired := v1 } := by
  refine h.trans ⟨fun p hp => ?_⟩
  cases p
  case yard => exact absurd (by simpa using h0) hp
  case yardRetired => exact absurd (by simpa using h1) hp
  case sys r => exact r.same_refl _
  case plan r => exact r.same_refl _
  case pl r => exact r.same_refl _
  case lc r => exact r.same_refl _
  case dbg r => exact r.same_refl _
  case en r => exact r.same_refl _
  case port r => exact r.same_refl _
  case fn r => exact fun _ => r.same_refl _
  case queue r => exact fun _ => r.same_refl _
  case pad r => exact fun _ => r.same_refl _
  case jn r => exact r.same_refl _
  case stall r => exact fun _ => r.same_refl _
  case tk r => exact r.same_refl _
  case rng r => exact r.same_refl _
  case core r => exact fun _ => r.same_refl _
  case fc r => exact r.same_refl _
  case tp r => exact r.same_refl _
  case hl r => exact r.same_refl _
  case tt r => exact r.same_refl _
  case lk r => exact r.same_refl _
  all_goals rfl

end Sys2Proof.Machine
end

