-- ==== Sys2Proof/Laws/OnlyOps.lean ====
section
/-! SUPPORT. OnlyOps.lean: frames: which registers each operation of State may change, of the operations of Machine/Ops.lean. -/

set_option Elab.async false

open Sys2Proof

namespace Sys2Proof.Machine

theorem emit_only (s : State) (e : Emission) : Only [.out] s (emit s e) := by
  unfold emit
  try dsimp -proj only
  refine put_out ?_ ?_
  · decide +kernel
  · exact Only.refl _ _

theorem hostWrite_only (s : State) (n : ℕ) (addr : ℕ) (d : Bytes) : Only [.port .linkState, .out] s (hostWrite s n addr d) := by
  unfold hostWrite
  try dsimp -proj only
  split
  · exact Only.refl _ _
  · refine Only.then (emit_only ..) (by decide +kernel) ?_
    refine put_port ?_ ?_
    · refine Port.set_linkState (by decide +kernel) ?_
      exact PortReg.refl _ _
    · exact Only.refl _ _

theorem writeShadow_only (s : State) (q : ℕ) : Only [.port .linkState, .queue .shadowOwed, .out] s (writeShadow s q) := by
  unfold writeShadow
  try dsimp -proj only
  split
  · exact Only.refl _ _
  · split
    · refine Only.then (hostWrite_only ..) (by decide +kernel) ?_
      refine modQ_in ?_ ?_
      · refine Queue.set_shadowOwed (by decide +kernel) ?_
        exact QueueReg.refl _ _
      · exact Only.refl _ _
    · refine modQ_in ?_ ?_
      · refine Queue.set_shadowOwed (by decide +kernel) ?_
        exact QueueReg.refl _ _
      · exact Only.refl _ _

theorem dropCopies_only (x : Queue) : Keep QueueReg.Same [.defer, .copies, .fetchFailed, .fetchTried] x (dropCopies x) := by
  unfold dropCopies
  try dsimp -proj only
  refine Queue.set_defer_copies_fetchFailed_fetchTried (by decide +kernel) ?_
  exact QueueReg.refl _ _

theorem updateLtr_only (s : State) : Only [.port .ltrUs, .port .ltrLive, .port .ltrQueue, .out] s (updateLtr s) := by
  unfold updateLtr
  try dsimp -proj only
  split
  · exact Only.refl _ _
  · refine Only.then (emit_only ..) (by decide +kernel) ?_
    refine put_port ?_ ?_
    · refine Port.set_ltrUs_ltrLive_ltrQueue (by decide +kernel) ?_
      exact PortReg.refl _ _
    · exact Only.refl _ _

theorem journalWrite_only (s : State) : Only [.sys .timeJournal, .jn .seq] s (journalWrite s) := by
  unfold journalWrite
  try dsimp -proj only
  refine put_sys_jn ?_ ?_ ?_
  · refine Sys.set_timeJournal (by decide +kernel) ?_
    exact SysReg.refl _ _
  · refine Journal.set_seq (by decide +kernel) ?_
    exact JnReg.refl _ _
  · exact Only.refl _ _

theorem fitYard_only (s : State) : Only [.yard] s (fitYard s) := by
  unfold fitYard
  try dsimp -proj only
  refine put_yard ?_ ?_
  · decide +kernel
  · exact Only.refl _ _

theorem spoilCompare_only (f : Fn) : Keep FnReg.Same [.cmpSpoiled, .cmpEq, .cmpNe] f (spoilCompare f) := by
  unfold spoilCompare
  try dsimp -proj only
  refine Fn.set_cmpSpoiled_cmpEq_cmpNe (by decide +kernel) ?_
  exact FnReg.refl _ _

theorem resetCompare_only (f : Fn) : Keep FnReg.Same [.cmpExpect, .cmpSpoiled, .cmpEq, .cmpNe] f (resetCompare f) := by
  unfold resetCompare
  try dsimp -proj only
  refine Fn.set_cmpExpect (by decide +kernel) ?_
  refine FnReg.then (spoilCompare_only ..) (by decide +kernel) ?_
  exact FnReg.refl _ _

theorem clearDigests_only (s : State) (p : ℕ) : Only [.fn .cmpExpect, .fn .cmpSpoiled, .fn .cmpEq, .fn .cmpNe, .pad .results] s (clearDigests s p) := by
  unfold clearDigests
  try dsimp -proj only
  refine Only.foldl _ (fun t x => ?_) ?_
  · refine modFn_in ?_ ?_
    · refine FnReg.then (resetCompare_only ..) (by decide +kernel) ?_
      exact FnReg.refl _ _
    · exact Only.refl _ _
  · refine modPad_in ?_ ?_
    · refine Pad.set_results (by decide +kernel) ?_
      exact PadReg.refl _ _
    · exact Only.refl _ _

theorem deny_only (s : State) (n : ℕ) : Only [.fn .denied, .fn .cmpExpect, .fn .cmpSpoiled, .fn .cmpEq, .fn .cmpNe, .pad .results] s (deny s n) := by
  unfold deny
  try dsimp -proj only
  split
  · refine modFn_in ?_ ?_
    · refine Fn.set_denied (by decide +kernel) ?_
      exact FnReg.refl _ _
    · exact Only.refl _ _
  · refine Only.then (clearDigests_only ..) (by decide +kernel) ?_
    refine modFn_in ?_ ?_
    · refine Fn.set_denied (by decide +kernel) ?_
      exact FnReg.refl _ _
    · exact Only.refl _ _

theorem modVec_only (s : State) (n : ℕ) (v : ℕ) (g : Vec → Vec) : Only [.fn .vecs] s (modVec s n v g) := by
  unfold modVec
  try dsimp -proj only
  refine modFn_in ?_ ?_
  · refine Fn.set_vecs (by decide +kernel) ?_
    exact FnReg.refl _ _
  · exact Only.refl _ _

theorem dueVec_only (s : State) (n : ℕ) (v : ℕ) : Only [.port .linkState, .fn .vecs, .out] s (dueVec s n v) := by
  unfold dueVec
  try dsimp -proj only
  split
  · exact Only.refl _ _
  · split
    · refine Only.then (modVec_only ..) (by decide +kernel) ?_
      exact Only.refl _ _
    · split
      · refine Only.then (modVec_only ..) (by decide +kernel) ?_
        exact Only.refl _ _
      · refine Only.then (emit_only ..) (by decide +kernel) ?_
        refine Only.then (modVec_only ..) (by decide +kernel) ?_
        refine put_port ?_ ?_
        · refine Port.set_linkState (by decide +kernel) ?_
          exact PortReg.refl _ _
        · exact Only.refl _ _

theorem draw_only (s : State) : Only [.freeCtr] s (draw s).2 := by
  unfold draw
  try dsimp -proj only
  dsimp only
  refine put_freeCtr ?_ ?_
  · decide +kernel
  · exact Only.refl _ _

theorem addCause_only (s : State) (n : ℕ) (v : ℕ) : Only [.port .linkState, .fn .vecs, .out] s (addCause s n v) := by
  unfold addCause
  try dsimp -proj only
  split
  · refine Only.then (dueVec_only ..) (by decide +kernel) ?_
    refine Only.then (modVec_only ..) (by decide +kernel) ?_
    exact Only.refl _ _
  · refine Only.then (modVec_only ..) (by decide +kernel) ?_
    exact Only.refl _ _

theorem dueWake_only (s : State) (n : ℕ) (v : ℕ) : Only [.sys .wakeDriven, .fn .pmeStatus, .fn .vecs, .out] s (dueWake s n v) := by
  unfold dueWake
  try dsimp -proj only
  split
  · refine Only.then (modVec_only ..) (by decide +kernel) ?_
    exact Only.refl _ _
  · split
    · split
      · refine put_sys ?_ ?_
        · refine Sys.set_wakeDriven (by decide +kernel) ?_
          exact SysReg.refl _ _
        · refine Only.then (modVec_only ..) (by decide +kernel) ?_
          exact Only.refl _ _
      · refine Only.then (modVec_only ..) (by decide +kernel) ?_
        exact Only.refl _ _
    · split
      · refine Only.then (emit_only ..) (by decide +kernel) ?_
        refine modFn_in ?_ ?_
        · refine Fn.set_pmeStatus (by decide +kernel) ?_
          exact FnReg.refl _ _
        · refine Only.then (modVec_only ..) (by decide +kernel) ?_
          exact Only.refl _ _
      · refine Only.then (modVec_only ..) (by decide +kernel) ?_
        exact Only.refl _ _

theorem addWake_only (s : State) (n : ℕ) (v : ℕ) (event : Bool) : Only [.sys .wakeDriven, .fn .pmeStatus, .fn .vecs, .out] s (addWake s n v event) := by
  unfold addWake
  try dsimp -proj only
  split
  · exact Only.refl _ _
  · split
    · refine Only.then (dueWake_only ..) (by decide +kernel) ?_
      refine Only.then (modVec_only ..) (by decide +kernel) ?_
      exact Only.refl _ _
    · refine Only.then (modVec_only ..) (by decide +kernel) ?_
      exact Only.refl _ _

theorem raiseOn_only (s : State) (e : ℕ) (n : ℕ) : Only [.sys .wakeDriven, .port .linkState, .fn .pmeStatus, .fn .vecs, .out] s (raiseOn s e n) := by
  unfold raiseOn
  try dsimp -proj only
  split
  · exact Only.refl _ _
  · split
    · refine Only.then (addWake_only ..) (by decide +kernel) ?_
      refine Only.then (addCause_only ..) (by decide +kernel) ?_
      exact Only.refl _ _
    · refine Only.then (addCause_only ..) (by decide +kernel) ?_
      exact Only.refl _ _

theorem raisePad_only (s : State) (e : ℕ) (p : ℕ) : Only [.sys .wakeDriven, .port .linkState, .fn .pmeStatus, .fn .vecs, .out] s (raisePad s e p) := by
  unfold raisePad
  try dsimp -proj only
  refine Only.foldl _ (fun t x => ?_) ?_
  · refine Only.then (raiseOn_only ..) (by decide +kernel) ?_
    exact Only.refl _ _
  · exact Only.refl _ _

theorem causeEnds_only (s : State) (source : ℕ) (kind : ℕ) : Only [.fc .out] s (causeEnds s source kind) := by
  unfold causeEnds
  try dsimp -proj only
  split
  · exact Only.refl _ _
  · refine put_fc ?_ ?_
    · refine Faults.set_out (by decide +kernel) ?_
      exact FcReg.refl _ _
    · exact Only.refl _ _

theorem drawBytes_only (s : State) (n : ℕ) : Only [.freeCtr] s (drawBytes s n).2 := by
  unfold drawBytes
  try dsimp -proj only
  dsimp only
  refine Only.then (draw_only ..) (by decide +kernel) ?_
  exact Only.refl _ _

theorem setJobs_only (s : State) (l : List Job) : Only [.jobs, .yard] s (setJobs s l) := by
  unfold setJobs
  try dsimp -proj only
  refine Only.then (fitYard_only ..) (by decide +kernel) ?_
  refine put_jobs ?_ ?_
  · decide +kernel
  · exact Only.refl _ _

theorem modJob_only (s : State) (seq : ℕ) (g : Job → Job) : Only [.jobs, .yard] s (modJob s seq g) := by
  unfold modJob
  try dsimp -proj only
  refine Only.then (setJobs_only ..) (by decide +kernel) ?_
  exact Only.refl _ _

theorem putCache_only (s : State) (k : ℕ) (x : CacheEntry) : Only [.cache] s (putCache s k x) := by
  unfold putCache
  try dsimp -proj only
  refine put_cache ?_ ?_
  · decide +kernel
  · exact Only.refl _ _

theorem putBlob_only (s : State) (n : ℕ) (x : BlobEntry) : Only [.tk .blobs] s (putBlob s n x) := by
  unfold putBlob
  try dsimp -proj only
  refine put_tk ?_ ?_
  · refine Tack.set_blobs (by decide +kernel) ?_
    exact TkReg.refl _ _
  · exact Only.refl _ _

theorem modBlob_only (s : State) (n : ℕ) (g : BlobEntry → BlobEntry) : Only [.tk .blobs] s (modBlob s n g) := by
  unfold modBlob
  try dsimp -proj only
  refine Only.then (putBlob_only ..) (by decide +kernel) ?_
  exact Only.refl _ _

theorem putSlot_only (s : State) (n : ℕ) (x : Slot) : Only [.tk .slots] s (putSlot s n x) := by
  unfold putSlot
  try dsimp -proj only
  refine put_tk ?_ ?_
  · refine Tack.set_slots (by decide +kernel) ?_
    exact TkReg.refl _ _
  · exact Only.refl _ _

theorem raisePart_only (s : State) (e : ℕ) : Only [.sys .wakeDriven, .port .linkState, .fn .pmeStatus, .fn .vecs, .out] s (raisePart s e) := by
  unfold raisePart
  try dsimp -proj only
  refine Only.then (raiseOn_only ..) (by decide +kernel) ?_
  exact Only.refl _ _

theorem haltQueue_only (s : State) (q : ℕ) (reason : ℕ) (detail : ℕ) (index : ℕ) : Only [.sys .wakeDriven, .sys .timeJournal, .port .linkState, .fn .pmeStatus, .fn .vecs, .queue .state, .queue .errReason, .queue .errDetail, .queue .errIndex, .queue .defer, .queue .copies, .queue .shadowOwed, .queue .fetchFailed, .queue .fetchTried, .pad .haltLog, .pad .haltOverflow, .jn .seq, .out] s (haltQueue s q reason detail index) := by
  unfold haltQueue
  try dsimp -proj only
  refine Only.then (writeShadow_only ..) (by decide +kernel) ?_
  split
  · refine Only.then (journalWrite_only ..) (by decide +kernel) ?_
    refine modQ_in ?_ ?_
    · refine Queue.set_state_errReason_errDetail_errIndex (by decide +kernel) ?_
      refine QueueReg.then (dropCopies_only ..) (by decide +kernel) ?_
      exact QueueReg.refl _ _
    · exact Only.refl _ _
  · refine Only.then (raisePad_only ..) (by decide +kernel) ?_
    refine modPad_in ?_ ?_
    · split
      · refine Pad.set_haltLog (by decide +kernel) ?_
        exact PadReg.refl _ _
      · refine Pad.set_haltOverflow (by decide +kernel) ?_
        exact PadReg.refl _ _
    · refine Only.then (journalWrite_only ..) (by decide +kernel) ?_
      refine modQ_in ?_ ?_
      · refine Queue.set_state_errReason_errDetail_errIndex (by decide +kernel) ?_
        refine QueueReg.then (dropCopies_only ..) (by decide +kernel) ?_
        exact QueueReg.refl _ _
      · exact Only.refl _ _

theorem clearAllDigests_only (s : State) : Only [.fn .cmpExpect, .fn .cmpSpoiled, .fn .cmpEq, .fn .cmpNe, .pad .results] s (clearAllDigests s) := by
  unfold clearAllDigests
  try dsimp -proj only
  refine Only.foldl _ (fun t x => ?_) ?_
  · refine Only.then (clearDigests_only ..) (by decide +kernel) ?_
    exact Only.refl _ _
  · exact Only.refl _ _

theorem putHbs_only (s : State) (n : ℕ) (x : HbsKey) : Only [.tk .hbs] s (putHbs s n x) := by
  unfold putHbs
  try dsimp -proj only
  refine put_tk ?_ ?_
  · refine Tack.set_hbs (by decide +kernel) ?_
    exact TkReg.refl _ _
  · exact Only.refl _ _

theorem modHbs_only (s : State) (n : ℕ) (g : HbsKey → HbsKey) : Only [.tk .hbs] s (modHbs s n g) := by
  unfold modHbs
  try dsimp -proj only
  refine Only.then (putHbs_only ..) (by decide +kernel) ?_
  exact Only.refl _ _

theorem countBucket_only (c : Faults) (source : ℕ) (kind : ℕ) (detail : ℕ) : Keep FcReg.Same [.buckets, .retireNow] c (countBucket c source kind detail) := by
  unfold countBucket
  try dsimp -proj only
  split
  · exact FcReg.refl _ _
  · split
    · split
      · refine Faults.set_retireNow (by decide +kernel) ?_
        refine Faults.set_buckets (by decide +kernel) ?_
        exact FcReg.refl _ _
      · refine Faults.set_buckets (by decide +kernel) ?_
        exact FcReg.refl _ _
    · split
      · refine Faults.set_retireNow (by decide +kernel) ?_
        refine Faults.set_buckets (by decide +kernel) ?_
        exact FcReg.refl _ _
      · refine Faults.set_buckets (by decide +kernel) ?_
        exact FcReg.refl _ _

theorem logOne_only (c : Faults) (time : ℕ) (msg : ℕ) : Keep FcReg.Same [.log, .dropped, .severeLost] c (logOne c time msg) := by
  unfold logOne
  try dsimp -proj only
  split
  · refine Faults.set_log (by decide +kernel) ?_
    exact FcReg.refl _ _
  · split
    · refine Faults.set_dropped (by decide +kernel) ?_
      exact FcReg.refl _ _
    · split
      · refine Faults.set_log (by decide +kernel) ?_
        refine Faults.set_dropped (by decide +kernel) ?_
        exact FcReg.refl _ _
      · refine Faults.set_severeLost (by decide +kernel) ?_
        refine Faults.set_dropped (by decide +kernel) ?_
        exact FcReg.refl _ _

theorem logMsg_only (c : Faults) (time : ℕ) (msg : ℕ) : Keep FcReg.Same [.log, .dropped, .severeLost, .overflowed] c (logMsg c time msg) := by
  unfold logMsg
  try dsimp -proj only
  split
  · refine FcReg.then (logOne_only ..) (by decide +kernel) ?_
    exact FcReg.refl _ _
  · refine FcReg.then (logOne_only ..) (by decide +kernel) ?_
    refine Faults.set_overflowed (by decide +kernel) ?_
    refine FcReg.then (logOne_only ..) (by decide +kernel) ?_
    exact FcReg.refl _ _

theorem aer_only (s : State) (n : ℕ) (code : ℕ) : Only [.fn .cfg, .out] s (aer s n code) := by
  unfold aer
  try dsimp -proj only
  split
  · refine modFn_in ?_ ?_
    · refine Fn.set_cfg (by decide +kernel) ?_
      exact FnReg.refl _ _
    · exact Only.refl _ _
  · refine Only.then (emit_only ..) (by decide +kernel) ?_
    refine modFn_in ?_ ?_
    · refine Fn.set_cfg (by decide +kernel) ?_
      exact FnReg.refl _ _
    · exact Only.refl _ _

theorem openEntry_only (s : State) (source : ℕ) (kind : ℕ) (charged : Bool) (pad : ℕ) (detail : ℕ) : Only [.sys .wakeDriven, .port .linkState, .fn .pmeStatus, .fn .vecs, .fc .out, .fc .escNow, .out] s (openEntry s source kind charged pad detail) := by
  unfold openEntry
  try dsimp -proj only
  split
  · refine put_fc ?_ ?_
    · refine Faults.set_out (by decide +kernel) ?_
      exact FcReg.refl _ _
    · exact Only.refl _ _
  · split
    · refine put_fc ?_ ?_
      · refine Faults.set_escNow (by decide +kernel) ?_
        exact FcReg.refl _ _
      · exact Only.refl _ _
    · split
      · refine Only.then (raisePad_only ..) (by decide +kernel) ?_
        refine put_fc ?_ ?_
        · refine Faults.set_out (by decide +kernel) ?_
          exact FcReg.refl _ _
        · exact Only.refl _ _
      · refine Only.then (raisePart_only ..) (by decide +kernel) ?_
        refine put_fc ?_ ?_
        · refine Faults.set_out (by decide +kernel) ?_
          exact FcReg.refl _ _
        · exact Only.refl _ _

theorem report_only (s : State) (source : ℕ) (kind : ℕ) (charged : Bool) (pad : ℕ) (detail : ℕ) : Only [.sys .wakeDriven, .port .linkState, .fn .cfg, .fn .pmeStatus, .fn .vecs, .fn .cmpExpect, .fn .cmpSpoiled, .fn .cmpEq, .fn .cmpNe, .pad .results, .fc .log, .fc .dropped, .fc .severeLost, .fc .overflowed, .fc .out, .fc .buckets, .fc .corrected, .fc .toLog, .fc .escNow, .fc .retireNow, .out] s (report s source kind charged pad detail) := by
  unfold report
  try dsimp -proj only
  split
  · split
    · refine Only.then (aer_only ..) (by decide +kernel) ?_
      refine put_fc ?_ ?_
      · refine Faults.set_corrected (by decide +kernel) ?_
        refine FcReg.then (countBucket_only ..) (by decide +kernel) ?_
        refine FcReg.then (logMsg_only ..) (by decide +kernel) ?_
        exact FcReg.refl _ _
      · exact Only.refl _ _
    · refine put_fc ?_ ?_
      · refine Faults.set_corrected (by decide +kernel) ?_
        refine FcReg.then (countBucket_only ..) (by decide +kernel) ?_
        refine FcReg.then (logMsg_only ..) (by decide +kernel) ?_
        exact FcReg.refl _ _
      · exact Only.refl _ _
  · split
    · refine Only.then (clearAllDigests_only ..) (by decide +kernel) ?_
      refine Only.then (aer_only ..) (by decide +kernel) ?_
      refine Only.then (openEntry_only ..) (by decide +kernel) ?_
      refine put_fc ?_ ?_
      · refine Faults.set_toLog (by decide +kernel) ?_
        refine FcReg.then (countBucket_only ..) (by decide +kernel) ?_
        refine FcReg.then (logMsg_only ..) (by decide +kernel) ?_
        exact FcReg.refl _ _
      · exact Only.refl _ _
    · refine Only.then (openEntry_only ..) (by decide +kernel) ?_
      refine put_fc ?_ ?_
      · refine Faults.set_toLog (by decide +kernel) ?_
        refine FcReg.then (countBucket_only ..) (by decide +kernel) ?_
        refine FcReg.then (logMsg_only ..) (by decide +kernel) ?_
        exact FcReg.refl _ _
      · exact Only.refl _ _

theorem raiseEach_only (s : State) (e : ℕ) : Only [.sys .wakeDriven, .port .linkState, .fn .pmeStatus, .fn .vecs, .out] s (raiseEach s e) := by
  unfold raiseEach
  try dsimp -proj only
  refine Only.foldl _ (fun t x => ?_) ?_
  · refine Only.then (raisePad_only ..) (by decide +kernel) ?_
    exact Only.refl _ _
  · exact Only.refl _ _

theorem evalReserve_only (s : State) : Only [.sys .wakeDriven, .en .reserveLow, .port .linkState, .fn .pmeStatus, .fn .vecs, .out] s (evalReserve s) := by
  unfold evalReserve
  try dsimp -proj only
  split
  · exact Only.refl _ _
  · refine Only.then (raisePart_only ..) (by decide +kernel) ?_
    refine put_en ?_ ?_
    · refine Energy.set_reserveLow (by decide +kernel) ?_
      exact EnReg.refl _ _
    · exact Only.refl _ _

theorem setShed_only (s : State) (i : ℕ) (v : ℕ) : Only [.en .shed] s (setShed s i v) := by
  unfold setShed
  try dsimp -proj only
  refine put_en ?_ ?_
  · refine Energy.set_shed (by decide +kernel) ?_
    exact EnReg.refl _ _
  · exact Only.refl _ _

theorem endDeepSleep_only (s : State) : Only [.sys .deepSleep, .en .shed, .tp .sleepScramble] s (endDeepSleep s) := by
  unfold endDeepSleep
  try dsimp -proj only
  split
  · exact Only.refl _ _
  · refine put_sys_tp ?_ ?_ ?_
    · refine Sys.set_deepSleep (by decide +kernel) ?_
      exact SysReg.refl _ _
    · refine Tamper.set_sleepScramble (by decide +kernel) ?_
      exact TpReg.refl _ _
    · refine Only.foldl _ (fun t x => ?_) ?_
      · refine Only.then (setShed_only ..) (by decide +kernel) ?_
        exact Only.refl _ _
      · exact Only.refl _ _

theorem modSlot_only (s : State) (n : ℕ) (g : Slot → Slot) : Only [.tk .slots] s (modSlot s n g) := by
  unfold modSlot
  try dsimp -proj only
  refine Only.then (putSlot_only ..) (by decide +kernel) ?_
  exact Only.refl _ _

theorem payShadows_only (s : State) (n : ℕ) : Only [.port .linkState, .queue .shadowOwed, .out] s (payShadows s n) := by
  unfold payShadows
  try dsimp -proj only
  refine Only.foldl _ (fun t x => ?_) ?_
  · split
    · refine Only.then (writeShadow_only ..) (by decide +kernel) ?_
      exact Only.refl _ _
    · exact Only.refl _ _
  · exact Only.refl _ _

theorem putFeed_only (s : State) (k : ℕ) (x : Feed) : Only [.feeds] s (putFeed s k x) := by
  unfold putFeed
  try dsimp -proj only
  refine put_feeds ?_ ?_
  · decide +kernel
  · exact Only.refl _ _

theorem modCache_only (s : State) (k : ℕ) (g : CacheEntry → CacheEntry) : Only [.cache] s (modCache s k g) := by
  unfold modCache
  try dsimp -proj only
  refine Only.then (putCache_only ..) (by decide +kernel) ?_
  exact Only.refl _ _

theorem workFor_only (s : State) (i : ℕ) : Only [.en .shed] s (workFor s i) := by
  unfold workFor
  try dsimp -proj only
  split
  · refine Only.then (setShed_only ..) (by decide +kernel) ?_
    exact Only.refl _ _
  · exact Only.refl _ _

theorem modFeed_only (s : State) (k : ℕ) (g : Feed → Feed) : Only [.feeds] s (modFeed s k g) := by
  unfold modFeed
  try dsimp -proj only
  refine Only.then (putFeed_only ..) (by decide +kernel) ?_
  exact Only.refl _ _

theorem kindEnds_only (s : State) (kind : ℕ) : Only [.fc .out] s (kindEnds s kind) := by
  unfold kindEnds
  try dsimp -proj only
  refine put_fc ?_ ?_
  · refine Faults.set_out (by decide +kernel) ?_
    exact FcReg.refl _ _
  · exact Only.refl _ _

theorem sleepShed_only (s : State) (i : ℕ) : Only [.en .shed, .en .sleepFrom] s (sleepShed s i) := by
  unfold sleepShed
  try dsimp -proj only
  refine Only.then (setShed_only ..) (by decide +kernel) ?_
  refine put_en ?_ ?_
  · refine Energy.set_sleepFrom (by decide +kernel) ?_
    exact EnReg.refl _ _
  · exact Only.refl _ _

end Sys2Proof.Machine
end

