-- ==== Sys2Proof/Laws/OnlyQueues.lean ====
section
/-! SUPPORT. OnlyQueues.lean: frames: which registers each operation of State may change, of acceptance, stalls, completion and queues. -/

set_option Elab.async false

open Sys2Proof

namespace Sys2Proof.Machine

theorem disabledQueue_only (x : Queue) : Keep QueueReg.Same [.state, .remembered, .base, .vector, .wake, .crcReq, .irqEn, .shadowEn, .shadowAddr, .fn, .bx, .errReason, .errDetail, .errIndex, .defer, .deferOrder, .headDeferred, .recheck, .copies, .heldBell, .shadowOwed, .pend, .fetchFailed, .fetchTried, .standby, .takenOver, .recordedP, .forgetting, .ring, .ringCells, .ringSecret] x (disabledQueue x) := by
  unfold disabledQueue
  dsimp only
  split <;> exact ⟨fun r hr => by cases r <;> first | rfl | exact absurd (by decide) hr⟩

theorem disableQueue_only (s : State) (q : ℕ) : Only (Part.allQueue ++ ([.sys .timeJournal, .port .linkState, .port .ltrUs, .port .ltrLive, .port .ltrQueue, .jn .seq, .yard, .out] : List Part)) s (disableQueue s q) := by
  unfold disableQueue
  try dsimp -proj only
  refine Only.then (updateLtr_only ..) (by decide +kernel) ?_
  refine Only.then (journalWrite_only ..) (by decide +kernel) ?_
  refine Only.then (fitYard_only ..) (by decide +kernel) ?_
  refine putQ_in ?_ ?_
  · refine QueueReg.then (disabledQueue_only ..) (by decide +kernel) ?_
    exact QueueReg.refl _ _
  · refine Only.then (writeShadow_only ..) (by decide +kernel) ?_
    refine modQ_in ?_ ?_
    · refine Queue.set_state_errReason_errDetail_errIndex (by decide +kernel) ?_
      refine QueueReg.then (dropCopies_only ..) (by decide +kernel) ?_
      exact QueueReg.refl _ _
    · exact Only.refl _ _

theorem replaysDone_only (s : State) : Only [.sys .wakeDriven, .port .linkState, .fn .pmeStatus, .fn .vecs, .pad .replayOwed, .out] s (replaysDone s) := by
  unfold replaysDone
  try dsimp -proj only
  refine Only.foldl _ (fun t x => ?_) ?_
  · split
    · refine Only.then (raisePad_only ..) (by decide +kernel) ?_
      refine modPad_in ?_ ?_
      · refine Pad.set_replayOwed (by decide +kernel) ?_
        exact PadReg.refl _ _
      · exact Only.refl _ _
    · exact Only.refl _ _
  · exact Only.refl _ _

theorem noteLoaded_only (s : State) (kind : ℕ) (b : Bytes) : Only [.sys .loaded] s (noteLoaded s kind b) := by
  unfold noteLoaded
  try dsimp -proj only
  refine put_sys ?_ ?_
  · refine Sys.set_loaded (by decide +kernel) ?_
    exact SysReg.refl _ _
  · exact Only.refl _ _

theorem noteFirmware_only (s : State) (slot : ℕ) (ch : ℕ) (b : Bytes) : Only [.sys .loaded, .sys .firmware, .sys .fwSlot, .sys .fwBuild] s (noteFirmware s slot ch b) := by
  unfold noteFirmware
  try dsimp -proj only
  refine Only.then (noteLoaded_only ..) (by decide +kernel) ?_
  refine put_sys ?_ ?_
  · refine Sys.set_firmware_fwSlot_fwBuild (by decide +kernel) ?_
    exact SysReg.refl _ _
  · exact Only.refl _ _

theorem writeDebug_only (s : State) (digest : Bytes) (count : ℕ) : Only [.lc .debugRecs] s (writeDebug s digest count) := by
  unfold writeDebug
  try dsimp -proj only
  refine put_lc ?_ ?_
  · refine LifeCycle.set_debugRecs (by decide +kernel) ?_
    exact LcReg.refl _ _
  · exact Only.refl _ _

theorem setDebugKey_only (s : State) (planDigest : Bytes) : Only [.lc .debugRecs] s (setDebugKey s planDigest) := by
  unfold setDebugKey
  try dsimp -proj only
  split
  · refine Only.then (writeDebug_only ..) (by decide +kernel) ?_
    exact Only.refl _ _
  · exact Only.refl _ _

theorem recheck_only (s : State) (codes : List ℕ) : Only (Part.allQueue) s (recheck s codes) := by
  unfold recheck
  try dsimp -proj only
  refine put_queues ?_ ?_
  · decide +kernel
  · exact Only.refl _ _

theorem conditioned_only (s : State) : Only [.freeCtr] s (conditioned s).2 := by
  unfold conditioned
  try dsimp -proj only
  dsimp only
  refine Only.then (drawBytes_only ..) (by decide +kernel) ?_
  exact Only.refl _ _

theorem seedMaterial_only (s : State) : Only [.freeCtr] s (seedMaterial s).2 := by
  unfold seedMaterial
  try dsimp -proj only
  dsimp only
  refine Only.then (conditioned_only ..) (by decide +kernel) ?_
  refine Only.then (conditioned_only ..) (by decide +kernel) ?_
  exact Only.refl _ _

theorem seedPad_only (s : State) (p : ℕ) : Only [.pad .drbg, .pad .resetSeed, .freeCtr] s (seedPad s p) := by
  unfold seedPad
  try dsimp -proj only
  refine modPad_in ?_ ?_
  · refine Pad.set_drbg_resetSeed (by decide +kernel) ?_
    exact PadReg.refl _ _
  · refine Only.then (seedMaterial_only ..) (by decide +kernel) ?_
    exact Only.refl _ _

theorem seedYm_only (s : State) : Only [.rng .ymDrbg, .freeCtr] s (seedYm s) := by
  unfold seedYm
  try dsimp -proj only
  refine put_rng ?_ ?_
  · refine Rng.set_ymDrbg (by decide +kernel) ?_
    exact RngReg.refl _ _
  · refine Only.then (seedMaterial_only ..) (by decide +kernel) ?_
    exact Only.refl _ _

theorem afterRequest_only (s : State) (p : ℕ) (n : ℕ) : Only [.pad .drbg] s (afterRequest s p n) := by
  unfold afterRequest
  try dsimp -proj only
  refine modPad_in ?_ ?_
  · refine Pad.set_drbg (by decide +kernel) ?_
    exact PadReg.refl _ _
  · exact Only.refl _ _

theorem drawNow_only (s : State) (p : ℕ) : Only (Part.allQueue ++ ([.sys .timeJournal, .pad .caps, .pad .curGen, .pad .genDue, .pad .drbg, .pad .resetSeed, .jn .seq, .freeCtr] : List Part)) s (drawNow s p) := by
  unfold drawNow
  try dsimp -proj only
  split
  · refine modPad_in ?_ ?_
    · refine Pad.set_genDue (by decide +kernel) ?_
      exact PadReg.refl _ _
    · refine Only.then (seedPad_only ..) (by decide +kernel) ?_
      exact Only.refl _ _
  · refine Only.then (recheck_only ..) (by decide +kernel) ?_
    refine Only.then (journalWrite_only ..) (by decide +kernel) ?_
    refine modPad_in ?_ ?_
    · refine Pad.set_caps_curGen_genDue (by decide +kernel) ?_
      exact PadReg.refl _ _
    · refine Only.then (afterRequest_only ..) (by decide +kernel) ?_
      refine Only.then (seedPad_only ..) (by decide +kernel) ?_
      exact Only.refl _ _

theorem serveOne_only (s : State) (r : ℕ) : Only (Part.allQueue ++ ([.sys .timeJournal, .pad .caps, .pad .curGen, .pad .genDue, .pad .drbg, .pad .resetSeed, .jn .seq, .stall .ratchet, .stall .source, .tk .remask, .tk .maskDraw, .rng .ymDrbg, .freeCtr] : List Part)) s (serveOne s r) := by
  unfold serveOne
  try dsimp -proj only
  split
  · refine Only.then (recheck_only ..) (by decide +kernel) ?_
    refine Only.then (seedPad_only ..) (by decide +kernel) ?_
    exact Only.refl _ _
  · split
    · refine Only.then (seedYm_only ..) (by decide +kernel) ?_
      exact Only.refl _ _
    · split
      · refine Only.then (drawNow_only ..) (by decide +kernel) ?_
        exact Only.refl _ _
      · split
        · refine modSt_in ?_ ?_
          · refine Stall.set_ratchet_source (by decide +kernel) ?_
            exact StallReg.refl _ _
          · refine Only.then (conditioned_only ..) (by decide +kernel) ?_
            exact Only.refl _ _
        · refine put_tk_freeCtr ?_ ?_ ?_
          · refine Tack.set_remask_maskDraw (by decide +kernel) ?_
            exact TkReg.refl _ _
          · decide +kernel
          · exact Only.refl _ _

theorem serveStore_only (n : ℕ) (s : State) : Only (Part.request) s (serveStore n s) := by
  induction n generalizing s with
  | zero => exact Only.refl _ _
  | succ n ih =>
    unfold serveStore
    split
    · exact Only.refl _ _
    · split
      · refine Only.then (ih ..) (by decide +kernel) ?_
        refine Only.then (serveOne_only ..) (by decide +kernel) ?_
        refine put_rng ?_ ?_
        · dsimp -proj only
          refine Rng.set_store_waiting (by decide +kernel) ?_
          exact RngReg.refl _ _
        · exact Only.refl _ _
      · exact Only.refl _ _

theorem request_only (s : State) (r : ℕ) : Only (Part.request) s (request s r) := by
  unfold request
  try dsimp -proj only
  split
  · exact Only.refl _ _
  · refine Only.then (serveStore_only ..) (by decide +kernel) ?_
    refine put_rng ?_ ?_
    · refine Rng.set_waiting (by decide +kernel) ?_
      exact RngReg.refl _ _
    · exact Only.refl _ _

theorem reseedYm_only (s : State) : Only (Part.request) s (reseedYm s) := by
  unfold reseedYm
  try dsimp -proj only
  split
  · refine Only.then (request_only ..) (by decide +kernel) ?_
    exact Only.refl _ _
  · refine put_rng ?_ ?_
    · refine Rng.set_ymDrbg (by decide +kernel) ?_
      exact RngReg.refl _ _
    · exact Only.refl _ _

theorem reseedPad_only (s : State) (p : ℕ) : Only (Part.request) s (reseedPad s p) := by
  unfold reseedPad
  try dsimp -proj only
  split
  · refine Only.then (request_only ..) (by decide +kernel) ?_
    exact Only.refl _ _
  · refine modPad_in ?_ ?_
    · refine Pad.set_drbg (by decide +kernel) ?_
      exact PadReg.refl _ _
    · exact Only.refl _ _

theorem reseedWarm_only (s : State) : Only (Part.request) s (reseedWarm s) := by
  unfold reseedWarm
  try dsimp -proj only
  refine Only.then (reseedYm_only ..) (by decide +kernel) ?_
  refine Only.foldl _ (fun t x => ?_) ?_
  · refine Only.then (reseedPad_only ..) (by decide +kernel) ?_
    exact Only.refl _ _
  · exact Only.refl _ _

theorem startMuck_only (s : State) (n : ℕ) (next : ℕ) : Only [.stall .state, .stall .jobs, .stall .reqFault, .stall .reqStop, .stall .reqYield, .stall .muckFailed, .stall .muckThen, .stall .sequ, .stall .tree] s (startMuck s n next) := by
  unfold startMuck
  try dsimp -proj only
  refine modSt_in ?_ ?_
  · refine Stall.set_state_jobs_reqFault_reqStop_reqYield_muckFailed_muckThen_sequ_tree (by decide +kernel) ?_
    exact StallReg.refl _ _
  · exact Only.refl _ _

theorem leaveStall_only (s : State) (n : ℕ) : Only [.stall .state, .stall .jobs, .stall .reqFault, .stall .reqStop, .stall .reqClaim, .stall .reqYield, .stall .muckFailed, .stall .muckThen, .stall .sequ, .stall .tree] s (leaveStall s n) := by
  unfold leaveStall
  try dsimp -proj only
  refine Only.then (startMuck_only ..) (by decide +kernel) ?_
  refine modSt_in ?_ ?_
  · refine Stall.set_reqClaim (by decide +kernel) ?_
    exact StallReg.refl _ _
  · exact Only.refl _ _

theorem abandonOn_only (s : State) (n : ℕ) (seq : ℕ) : Only [.stall .state, .stall .jobs, .stall .reqFault, .stall .reqStop, .stall .reqClaim, .stall .reqYield, .stall .muckFailed, .stall .muckThen, .stall .sequ, .stall .tree] s (abandonOn s n seq) := by
  unfold abandonOn
  try dsimp -proj only
  split
  · refine Only.then (leaveStall_only ..) (by decide +kernel) ?_
    refine modSt_in ?_ ?_
    · refine Stall.set_jobs (by decide +kernel) ?_
      exact StallReg.refl _ _
    · exact Only.refl _ _
  · refine modSt_in ?_ ?_
    · refine Stall.set_jobs (by decide +kernel) ?_
      exact StallReg.refl _ _
    · exact Only.refl _ _

theorem removeCache_only (s : State) (k : ℕ) : Only [.cache] s (removeCache s k) := by
  unfold removeCache
  try dsimp -proj only
  refine Only.then (putCache_only ..) (by decide +kernel) ?_
  exact Only.refl _ _

theorem unloadBlob_only (s : State) (b : ℕ) : Only [.tk .slots, .tk .blobs] s (unloadBlob s b) := by
  unfold unloadBlob
  try dsimp -proj only
  refine Only.then (modBlob_only ..) (by decide +kernel) ?_
  refine put_tk ?_ ?_
  · refine Tack.set_slots (by decide +kernel) ?_
    exact TkReg.refl _ _
  · exact Only.refl _ _

theorem removeBlob_only (s : State) (b : ℕ) : Only [.tk .slots, .tk .blobs] s (removeBlob s b) := by
  unfold removeBlob
  try dsimp -proj only
  refine Only.then (putBlob_only ..) (by decide +kernel) ?_
  refine Only.then (unloadBlob_only ..) (by decide +kernel) ?_
  exact Only.refl _ _

theorem releaseClaims_only (s : State) (j : Job) : Only [.tk .slots, .tk .blobs, .tk .hbs, .cache] s (releaseClaims s j) := by
  unfold releaseClaims
  try dsimp -proj only
  split
  · split
    · split
      · split
        · split
          · refine Only.then (putSlot_only ..) (by decide +kernel) ?_
            refine put_tk ?_ ?_
            · refine Tack.set_hbs (by decide +kernel) ?_
              exact TkReg.refl _ _
            · refine Only.then (removeCache_only ..) (by decide +kernel) ?_
              exact Only.refl _ _
          · refine Only.then (removeCache_only ..) (by decide +kernel) ?_
            exact Only.refl _ _
        · split
          · refine Only.then (putSlot_only ..) (by decide +kernel) ?_
            refine put_tk ?_ ?_
            · refine Tack.set_hbs (by decide +kernel) ?_
              exact TkReg.refl _ _
            · exact Only.refl _ _
          · exact Only.refl _ _
      · split
        · refine Only.then (putSlot_only ..) (by decide +kernel) ?_
          refine put_tk ?_ ?_
          · refine Tack.set_hbs (by decide +kernel) ?_
            exact TkReg.refl _ _
          · exact Only.refl _ _
        · exact Only.refl _ _
    · split
      · split
        · refine Only.then (putSlot_only ..) (by decide +kernel) ?_
          refine put_tk ?_ ?_
          · refine Tack.set_hbs (by decide +kernel) ?_
            exact TkReg.refl _ _
          · refine Only.then (removeCache_only ..) (by decide +kernel) ?_
            exact Only.refl _ _
        · refine Only.then (removeCache_only ..) (by decide +kernel) ?_
          exact Only.refl _ _
      · split
        · refine Only.then (putSlot_only ..) (by decide +kernel) ?_
          refine put_tk ?_ ?_
          · refine Tack.set_hbs (by decide +kernel) ?_
            exact TkReg.refl _ _
          · exact Only.refl _ _
        · exact Only.refl _ _
    · split
      · split
        · refine Only.then (putSlot_only ..) (by decide +kernel) ?_
          refine put_tk ?_ ?_
          · refine Tack.set_hbs (by decide +kernel) ?_
            exact TkReg.refl _ _
          · refine Only.then (removeCache_only ..) (by decide +kernel) ?_
            exact Only.refl _ _
        · refine Only.then (removeCache_only ..) (by decide +kernel) ?_
          exact Only.refl _ _
      · split
        · refine Only.then (putSlot_only ..) (by decide +kernel) ?_
          refine put_tk ?_ ?_
          · refine Tack.set_hbs (by decide +kernel) ?_
            exact TkReg.refl _ _
          · exact Only.refl _ _
        · exact Only.refl _ _
    · split
      · split
        · split
          · refine Only.then (putSlot_only ..) (by decide +kernel) ?_
            refine put_tk ?_ ?_
            · refine Tack.set_hbs (by decide +kernel) ?_
              exact TkReg.refl _ _
            · exact Only.refl _ _
          · exact Only.refl _ _
        · split
          · refine Only.then (putSlot_only ..) (by decide +kernel) ?_
            refine put_tk ?_ ?_
            · refine Tack.set_hbs (by decide +kernel) ?_
              exact TkReg.refl _ _
            · refine Only.then (removeBlob_only ..) (by decide +kernel) ?_
              exact Only.refl _ _
          · refine Only.then (removeBlob_only ..) (by decide +kernel) ?_
            exact Only.refl _ _
      · split
        · refine Only.then (putSlot_only ..) (by decide +kernel) ?_
          refine put_tk ?_ ?_
          · refine Tack.set_hbs (by decide +kernel) ?_
            exact TkReg.refl _ _
          · exact Only.refl _ _
        · exact Only.refl _ _
    · split
      · refine Only.then (putSlot_only ..) (by decide +kernel) ?_
        refine put_tk ?_ ?_
        · refine Tack.set_hbs (by decide +kernel) ?_
          exact TkReg.refl _ _
        · exact Only.refl _ _
      · exact Only.refl _ _
  · split
    · split
      · split
        · refine Only.then (removeCache_only ..) (by decide +kernel) ?_
          exact Only.refl _ _
        · exact Only.refl _ _
      · exact Only.refl _ _
    · split
      · refine Only.then (removeCache_only ..) (by decide +kernel) ?_
        exact Only.refl _ _
      · exact Only.refl _ _
    · split
      · refine Only.then (removeCache_only ..) (by decide +kernel) ?_
        exact Only.refl _ _
      · exact Only.refl _ _
    · split
      · split
        · exact Only.refl _ _
        · refine Only.then (removeBlob_only ..) (by decide +kernel) ?_
          exact Only.refl _ _
      · exact Only.refl _ _
    · exact Only.refl _ _

theorem freeStall_only (s : State) (n : ℕ) (seq : ℕ) : Only [.stall .state, .stall .jobs, .stall .reqFault, .stall .reqStop, .stall .reqClaim, .stall .reqYield, .stall .muckFailed, .stall .muckThen, .stall .scrubDue, .stall .cplRd, .stall .cplWr, .stall .sequ, .stall .tree] s (freeStall s n seq) := by
  unfold freeStall
  try dsimp -proj only
  split
  · refine modSt_in ?_ ?_
    · refine Stall.set_jobs_scrubDue_cplRd_cplWr (by decide +kernel) ?_
      exact StallReg.refl _ _
    · exact Only.refl _ _
  · split
    · refine modSt_in ?_ ?_
      · refine Stall.set_jobs_scrubDue_cplRd_cplWr (by decide +kernel) ?_
        exact StallReg.refl _ _
      · exact Only.refl _ _
    · split
      · refine Only.then (leaveStall_only ..) (by decide +kernel) ?_
        refine modSt_in ?_ ?_
        · refine Stall.set_jobs_scrubDue_cplRd_cplWr (by decide +kernel) ?_
          exact StallReg.refl _ _
        · exact Only.refl _ _
      · refine modSt_in ?_ ?_
        · refine Stall.set_state_reqFault_reqStop_reqYield_sequ (by decide +kernel) ?_
          exact StallReg.refl _ _
        · refine modSt_in ?_ ?_
          · refine Stall.set_jobs_scrubDue_cplRd_cplWr (by decide +kernel) ?_
            exact StallReg.refl _ _
          · exact Only.refl _ _

theorem endJob_only (s : State) (seq : ℕ) (r0 : Result) (completed : Bool) : Only (Part.finishJob) s (endJob s seq r0 completed) := by
  unfold endJob
  try dsimp -proj only
  split
  · exact Only.refl _ _
  · split
    · split
      · refine Only.then (freeStall_only ..) (by decide +kernel) ?_
        split
        · refine Only.then (modJob_only ..) (by decide +kernel) ?_
          split
          · refine Only.then (draw_only ..) (by decide +kernel) ?_
            exact Only.refl _ _
          · exact Only.refl _ _
        · refine Only.then (releaseClaims_only ..) (by decide +kernel) ?_
          refine Only.then (modJob_only ..) (by decide +kernel) ?_
          split
          · refine Only.then (draw_only ..) (by decide +kernel) ?_
            exact Only.refl _ _
          · exact Only.refl _ _
      · refine Only.then (abandonOn_only ..) (by decide +kernel) ?_
        split
        · refine Only.then (modJob_only ..) (by decide +kernel) ?_
          split
          · refine Only.then (draw_only ..) (by decide +kernel) ?_
            exact Only.refl _ _
          · exact Only.refl _ _
        · refine Only.then (releaseClaims_only ..) (by decide +kernel) ?_
          refine Only.then (modJob_only ..) (by decide +kernel) ?_
          split
          · refine Only.then (draw_only ..) (by decide +kernel) ?_
            exact Only.refl _ _
          · exact Only.refl _ _
    · split
      · refine Only.then (modJob_only ..) (by decide +kernel) ?_
        split
        · refine Only.then (draw_only ..) (by decide +kernel) ?_
          exact Only.refl _ _
        · exact Only.refl _ _
      · refine Only.then (releaseClaims_only ..) (by decide +kernel) ?_
        refine Only.then (modJob_only ..) (by decide +kernel) ?_
        split
        · refine Only.then (draw_only ..) (by decide +kernel) ?_
          exact Only.refl _ _
        · exact Only.refl _ _

theorem abortJob_only (s : State) (seq : ℕ) (status : ℕ) : Only (Part.finishJob) s (abortJob s seq status) := by
  unfold abortJob
  try dsimp -proj only
  refine Only.then (endJob_only ..) (by decide +kernel) ?_
  exact Only.refl _ _

theorem drainJob_only (s : State) (j : Job) : Only (Part.finishJob) s (drainJob s j) := by
  unfold drainJob
  try dsimp -proj only
  split
  · exact Only.refl _ _
  · split
    · split
      · refine Only.then (abandonOn_only ..) (by decide +kernel) ?_
        refine Only.then (modJob_only ..) (by decide +kernel) ?_
        exact Only.refl _ _
      · refine Only.then (modJob_only ..) (by decide +kernel) ?_
        exact Only.refl _ _
    · split
      · exact Only.refl _ _
      · split
        · split
          · refine modSt_in ?_ ?_
            · refine Stall.set_reqStop (by decide +kernel) ?_
              exact StallReg.refl _ _
            · refine Only.then (modJob_only ..) (by decide +kernel) ?_
              exact Only.refl _ _
          · exact Only.refl _ _
        · refine Only.then (abortJob_only ..) (by decide +kernel) ?_
          exact Only.refl _ _

theorem sendFrame_only (s : State) (kind : ℕ) (payload : List ℕ) : Only [.tt .txSeq, .tt .unacked, .out] s (sendFrame s kind payload) := by
  unfold sendFrame
  try dsimp -proj only
  refine Only.then (emit_only ..) (by decide +kernel) ?_
  refine put_tt ?_ ?_
  · refine Tether.set_txSeq_unacked (by decide +kernel) ?_
    exact TtReg.refl _ _
  · exact Only.refl _ _

theorem eraseSlot_only (s : State) (n : ℕ) : Only [.tk .slots] s (eraseSlot s n) := by
  unfold eraseSlot
  try dsimp -proj only
  refine Only.then (putSlot_only ..) (by decide +kernel) ?_
  exact Only.refl _ _

theorem releaseRevoked_only (s : State) : Only [.tk .slots, .tk .blobs, .tk .hbs] s (releaseRevoked s) := by
  unfold releaseRevoked
  try dsimp -proj only
  refine Only.foldl _ (fun t x => ?_) ?_
  · split
    · refine Only.then (eraseSlot_only ..) (by decide +kernel) ?_
      refine put_tk ?_ ?_
      · refine Tack.set_hbs (by decide +kernel) ?_
        exact TkReg.refl _ _
      · exact Only.refl _ _
    · exact Only.refl _ _
  · refine Only.foldl _ (fun t x => ?_) ?_
    · split
      · exact Only.refl _ _
      · split
        · refine Only.then (unloadBlob_only ..) (by decide +kernel) ?_
          exact Only.refl _ _
        · refine Only.then (removeBlob_only ..) (by decide +kernel) ?_
          exact Only.refl _ _
    · exact Only.refl _ _

theorem releaseEvicted_only (s : State) : Only [.cache] s (releaseEvicted s) := by
  unfold releaseEvicted
  try dsimp -proj only
  refine Only.foldl _ (fun t x => ?_) ?_
  · split
    · refine Only.then (removeCache_only ..) (by decide +kernel) ?_
      exact Only.refl _ _
    · exact Only.refl _ _
  · exact Only.refl _ _

theorem freeSnapshots_only (s : State) (p : ℕ) (seq : ℕ) : Only [.pad .snaps] s (freeSnapshots s p seq) := by
  unfold freeSnapshots
  try dsimp -proj only
  refine modPad_in ?_ ?_
  · refine Pad.set_snaps (by decide +kernel) ?_
    exact PadReg.refl _ _
  · exact Only.refl _ _

theorem drawGen_only (s : State) (p : ℕ) : Only (Part.request) s (drawGen s p) := by
  unfold drawGen
  try dsimp -proj only
  split
  · refine modPad_in ?_ ?_
    · refine Pad.set_genDue (by decide +kernel) ?_
      exact PadReg.refl _ _
    · exact Only.refl _ _
  · split
    · refine Only.then (request_only ..) (by decide +kernel) ?_
      refine modPad_in ?_ ?_
      · refine Pad.set_genDue (by decide +kernel) ?_
        exact PadReg.refl _ _
      · exact Only.refl _ _
    · refine modPad_in ?_ ?_
      · refine Pad.set_drbg (by decide +kernel) ?_
        exact PadReg.refl _ _
      · refine modPad_in ?_ ?_
        · refine Pad.set_genDue (by decide +kernel) ?_
          exact PadReg.refl _ _
        · exact Only.refl _ _

theorem drawOnFree_only (s : State) (j : Job) : Only (Part.request) s (drawOnFree s j) := by
  unfold drawOnFree
  try dsimp -proj only
  split
  · exact Only.refl _ _
  · split
    · refine Only.then (drawGen_only ..) (by decide +kernel) ?_
      exact Only.refl _ _
    · exact Only.refl _ _

theorem afterRetire_only (s : State) (j : Job) : Only (Part.request ++ ([.port .ltrUs, .port .ltrLive, .port .ltrQueue, .pad .snaps, .tk .slots, .tk .blobs, .tk .hbs, .cache, .out] : List Part)) s (afterRetire s j) := by
  unfold afterRetire
  try dsimp -proj only
  refine Only.then (updateLtr_only ..) (by decide +kernel) ?_
  refine Only.then (recheck_only ..) (by decide +kernel) ?_
  refine Only.then (drawOnFree_only ..) (by decide +kernel) ?_
  refine Only.then (releaseRevoked_only ..) (by decide +kernel) ?_
  refine Only.then (releaseEvicted_only ..) (by decide +kernel) ?_
  refine Only.then (freeSnapshots_only ..) (by decide +kernel) ?_
  exact Only.refl _ _

theorem retireHead_only (s : State) (q : ℕ) : Only (Part.request ++ ([.port .linkState, .port .ltrUs, .port .ltrLive, .port .ltrQueue, .pad .snaps, .tk .slots, .tk .blobs, .tk .hbs, .jobs, .yard, .cache, .out] : List Part)) s (retireHead s q) := by
  unfold retireHead
  try dsimp -proj only
  split
  · exact Only.refl _ _
  · refine Only.then (writeShadow_only ..) (by decide +kernel) ?_
    refine Only.then (afterRetire_only ..) (by decide +kernel) ?_
    refine modQ_in ?_ ?_
    · refine Queue.set_t (by decide +kernel) ?_
      exact QueueReg.refl _ _
    · refine Only.then (journalWrite_only ..) (by decide +kernel) ?_
      refine Only.then (setJobs_only ..) (by decide +kernel) ?_
      exact Only.refl _ _

theorem retireEntry_only (s : State) (q : ℕ) : Only (Part.retireSilents) s (retireEntry s q) := by
  unfold retireEntry
  try dsimp -proj only
  split
  · exact Only.refl _ _
  · split
    · exact Only.refl _ _
    · split
      · refine Only.then (sendFrame_only ..) (by decide +kernel) ?_
        refine Only.then (modJob_only ..) (by decide +kernel) ?_
        exact Only.refl _ _
      · refine Only.then (retireHead_only ..) (by decide +kernel) ?_
        exact Only.refl _ _

theorem retireSilent_only (s : State) (q n : ℕ) : Only (Part.retireSilents) s (retireSilent s q n) := by
  induction n generalizing s with
  | zero => exact Only.refl _ _
  | succ n ih =>
    unfold retireSilent
    split
    · exact Only.refl _ _
    · split
      · refine Only.then (ih ..) (by decide +kernel) ?_
        refine Only.then (retireEntry_only ..) (by decide +kernel) ?_
        exact Only.refl _ _
      · exact Only.refl _ _

theorem drainQueue_only (s : State) (q : ℕ) : Only (Part.drainQueue) s (drainQueue s q) := by
  unfold drainQueue
  try dsimp -proj only
  refine Only.then (retireSilent_only ..) (by decide +kernel) ?_
  refine Only.foldl _ (fun t x => ?_) ?_
  · refine Only.then (drainJob_only ..) (by decide +kernel) ?_
    exact Only.refl _ _
  · exact Only.refl _ _

theorem sweepKind_only (s : State) (kind : ℕ) : Only [.tk .slots, .tk .blobs, .tk .hbs, .jobs, .yard, .cache] s (sweepKind s kind) := by
  unfold sweepKind
  try dsimp -proj only
  split
  · exact Only.refl _ _
  · refine Only.then (setJobs_only ..) (by decide +kernel) ?_
    refine Only.foldl _ (fun t x => ?_) ?_
    · refine Only.then (releaseClaims_only ..) (by decide +kernel) ?_
      exact Only.refl _ _
    · exact Only.refl _ _

theorem ringRunning_only (s : State) (q : ℕ) (v : ℕ) : Only [.sys .wakeDriven, .sys .timeJournal, .port .linkState, .fn .pmeStatus, .fn .vecs, .queue .state, .queue .p, .queue .errReason, .queue .errDetail, .queue .errIndex, .queue .defer, .queue .copies, .queue .shadowOwed, .queue .fetchFailed, .queue .fetchTried, .pad .haltLog, .pad .haltOverflow, .jn .seq, .out] s (ringRunning s q v) := by
  unfold ringRunning
  try dsimp -proj only
  split
  · refine Only.then (haltQueue_only ..) (by decide +kernel) ?_
    exact Only.refl _ _
  · refine Only.then (journalWrite_only ..) (by decide +kernel) ?_
    refine modQ_in ?_ ?_
    · refine Queue.set_p (by decide +kernel) ?_
      exact QueueReg.refl _ _
    · exact Only.refl _ _

theorem ringHalted_only (s : State) (q : ℕ) (v : ℕ) : Only [.sys .timeJournal, .fn .denied, .fn .cmpExpect, .fn .cmpSpoiled, .fn .cmpEq, .fn .cmpNe, .queue .p, .pad .results, .jn .seq] s (ringHalted s q v) := by
  unfold ringHalted
  try dsimp -proj only
  split
  · refine Only.then (deny_only ..) (by decide +kernel) ?_
    exact Only.refl _ _
  · refine Only.then (journalWrite_only ..) (by decide +kernel) ?_
    refine modQ_in ?_ ?_
    · refine Queue.set_p (by decide +kernel) ?_
      exact QueueReg.refl _ _
    · exact Only.refl _ _

theorem takeBell_only (s : State) (n : ℕ) (q : ℕ) (v : ℕ) : Only [.sys .wakeDriven, .sys .timeJournal, .port .linkState, .fn .pmeStatus, .fn .denied, .fn .vecs, .fn .cmpExpect, .fn .cmpSpoiled, .fn .cmpEq, .fn .cmpNe, .queue .state, .queue .p, .queue .errReason, .queue .errDetail, .queue .errIndex, .queue .defer, .queue .copies, .queue .heldBell, .queue .shadowOwed, .queue .pend, .queue .fetchFailed, .queue .fetchTried, .queue .recordedP, .pad .results, .pad .haltLog, .pad .haltOverflow, .jn .seq, .out] s (takeBell s n q v) := by
  unfold takeBell
  try dsimp -proj only
  split
  · split
    · refine modQ_in ?_ ?_
      · refine Queue.set_heldBell (by decide +kernel) ?_
        exact QueueReg.refl _ _
      · exact Only.refl _ _
    · refine Only.then (deny_only ..) (by decide +kernel) ?_
      exact Only.refl _ _
  · split
    · split
      · split
        · refine modQ_in ?_ ?_
          · refine Queue.set_pend (by decide +kernel) ?_
            exact QueueReg.refl _ _
          · exact Only.refl _ _
        · refine Only.then (deny_only ..) (by decide +kernel) ?_
          exact Only.refl _ _
      · refine Only.then (deny_only ..) (by decide +kernel) ?_
        exact Only.refl _ _
    · split
      · refine Only.then (deny_only ..) (by decide +kernel) ?_
        exact Only.refl _ _
      · split
        · refine modQ_in ?_ ?_
          · refine Queue.set_recordedP (by decide +kernel) ?_
            exact QueueReg.refl _ _
          · exact Only.refl _ _
        · split
          · refine Only.then (ringRunning_only ..) (by decide +kernel) ?_
            exact Only.refl _ _
          · split
            · refine Only.then (ringHalted_only ..) (by decide +kernel) ?_
              exact Only.refl _ _
            · refine modQ_in ?_ ?_
              · refine Queue.set_heldBell (by decide +kernel) ?_
                exact QueueReg.refl _ _
              · exact Only.refl _ _

theorem bar2Write_only (s : State) (n : ℕ) (offset : ℕ) (size : ℕ) (v : ℕ) : Only [.sys .wakeDriven, .sys .timeJournal, .port .linkState, .fn .pmeStatus, .fn .denied, .fn .vecs, .fn .cmpExpect, .fn .cmpSpoiled, .fn .cmpEq, .fn .cmpNe, .queue .state, .queue .p, .queue .errReason, .queue .errDetail, .queue .errIndex, .queue .defer, .queue .copies, .queue .heldBell, .queue .shadowOwed, .queue .pend, .queue .fetchFailed, .queue .fetchTried, .queue .recordedP, .pad .results, .pad .haltLog, .pad .haltOverflow, .jn .seq, .out] s (bar2Write s n offset size v) := by
  unfold bar2Write
  try dsimp -proj only
  split
  · refine Only.then (deny_only ..) (by decide +kernel) ?_
    exact Only.refl _ _
  · split
    · exact Only.refl _ _
    · split
      · refine Only.then (deny_only ..) (by decide +kernel) ?_
        exact Only.refl _ _
      · refine Only.then (takeBell_only ..) (by decide +kernel) ?_
        exact Only.refl _ _

theorem runBells_only (s : State) : Only [.sys .wakeDriven, .sys .timeJournal, .port .linkState, .port .doorbells, .fn .pmeStatus, .fn .denied, .fn .vecs, .fn .cmpExpect, .fn .cmpSpoiled, .fn .cmpEq, .fn .cmpNe, .queue .state, .queue .p, .queue .errReason, .queue .errDetail, .queue .errIndex, .queue .defer, .queue .copies, .queue .heldBell, .queue .shadowOwed, .queue .pend, .queue .fetchFailed, .queue .fetchTried, .queue .recordedP, .pad .results, .pad .haltLog, .pad .haltOverflow, .jn .seq, .out] s (runBells s) := by
  unfold runBells
  try dsimp -proj only
  refine Only.foldl _ (fun t x => ?_) ?_
  · refine Only.then (bar2Write_only ..) (by decide +kernel) ?_
    exact Only.refl _ _
  · refine put_port ?_ ?_
    · refine Port.set_doorbells (by decide +kernel) ?_
      exact PortReg.refl _ _
    · exact Only.refl _ _

theorem mirrorCopies_only (s : State) : Only [.hl .images] s (mirrorCopies s) := by
  unfold mirrorCopies
  try dsimp -proj only
  refine Only.foldl _ (fun t x => ?_) ?_
  · refine Only.foldl _ (fun t x => ?_) ?_
    · split
      · exact Only.refl _ _
      · split
        · refine put_hl ?_ ?_
          · refine Hayloft.set_images (by decide +kernel) ?_
            exact HlReg.refl _ _
          · exact Only.refl _ _
        · split
          · refine put_hl ?_ ?_
            · refine Hayloft.set_images (by decide +kernel) ?_
              exact HlReg.refl _ _
            · exact Only.refl _ _
          · exact Only.refl _ _
    · exact Only.refl _ _
  · exact Only.refl _ _

theorem writeFloors_only (s : State) (floors : SMap ℕ) : Only [.lc .floorRecs] s (writeFloors s floors) := by
  unfold writeFloors
  try dsimp -proj only
  refine put_lc ?_ ?_
  · refine LifeCycle.set_floorRecs (by decide +kernel) ?_
    exact LcReg.refl _ _
  · exact Only.refl _ _

theorem dropEntry_only (s : State) (j : Job) : Only [.tk .slots, .tk .blobs, .tk .hbs, .tt .txSeq, .tt .unacked, .jobs, .cache, .out] s (dropEntry s j) := by
  unfold dropEntry
  try dsimp -proj only
  split
  · refine Only.then (sendFrame_only ..) (by decide +kernel) ?_
    refine Only.then (releaseClaims_only ..) (by decide +kernel) ?_
    refine put_jobs ?_ ?_
    · decide +kernel
    · exact Only.refl _ _
  · refine Only.then (releaseClaims_only ..) (by decide +kernel) ?_
    refine put_jobs ?_ ?_
    · decide +kernel
    · exact Only.refl _ _

theorem endRaw_only (s : State) : Only [.rng .ready, .rng .rawMode, .rng .attempts, .rng .fifo] s (endRaw s) := by
  unfold endRaw
  try dsimp -proj only
  split
  · exact Only.refl _ _
  · refine put_rng ?_ ?_
    · refine Rng.set_ready_rawMode_attempts_fifo (by decide +kernel) ?_
      exact RngReg.refl _ _
    · exact Only.refl _ _

theorem lowLeaves_only (s : State) (n : ℕ) : Only [.sys .wakeDriven, .port .linkState, .fn .pmeStatus, .fn .vecs, .tk .hbs, .out] s (lowLeaves s n) := by
  unfold lowLeaves
  try dsimp -proj only
  split
  · refine Only.then (raisePad_only ..) (by decide +kernel) ?_
    refine Only.then (modHbs_only ..) (by decide +kernel) ?_
    exact Only.refl _ _
  · exact Only.refl _ _

theorem clearReset_only (s : State) (n : ℕ) : Only (Part.allPad) s (clearReset s n) := by
  unfold clearReset
  try dsimp -proj only
  refine put_pads ?_ ?_
  · decide +kernel
  · exact Only.refl _ _

theorem clearStall_only (s : State) (n : ℕ) (f : Job → Job) : Only (Part.finishJob) s (clearStall s n f) := by
  unfold clearStall
  try dsimp -proj only
  refine Only.foldl _ (fun t x => ?_) ?_
  · refine Only.then (abortJob_only ..) (by decide +kernel) ?_
    exact Only.refl _ _
  · refine Only.then (leaveStall_only ..) (by decide +kernel) ?_
    refine Only.then (setJobs_only ..) (by decide +kernel) ?_
    exact Only.refl _ _

theorem stallFail_only (s : State) (n : ℕ) : Only (Part.finishJob) s (stallFail s n) := by
  unfold stallFail
  try dsimp -proj only
  split
  · exact Only.refl _ _
  · refine Only.then (clearStall_only ..) (by decide +kernel) ?_
    exact Only.refl _ _

theorem sourceEnds_only (s : State) (source : ℕ) : Only [.fc .out] s (sourceEnds s source) := by
  unfold sourceEnds
  try dsimp -proj only
  refine put_fc ?_ ?_
  · refine Faults.set_out (by decide +kernel) ?_
    exact FcReg.refl _ _
  · exact Only.refl _ _

theorem recordRetired_only (s : State) (source : ℕ) : Only [.sys .wakeDriven, .port .linkState, .fn .pmeStatus, .fn .vecs, .fc .retired, .fc .toLog, .hl .retireMap, .out] s (recordRetired s source) := by
  unfold recordRetired
  try dsimp -proj only
  refine Only.then (raisePart_only ..) (by decide +kernel) ?_
  refine put_fc_hl ?_ ?_ ?_
  · refine Faults.set_retired_toLog (by decide +kernel) ?_
    exact FcReg.refl _ _
  · refine Hayloft.set_retireMap (by decide +kernel) ?_
    exact HlReg.refl _ _
  · exact Only.refl _ _

theorem evalDegraded_only (s : State) (kind : ℕ) : Only [.sys .wakeDriven, .sys .degraded, .port .linkState, .fn .pmeStatus, .fn .vecs, .out] s (evalDegraded s kind) := by
  unfold evalDegraded
  try dsimp -proj only
  split
  · exact Only.refl _ _
  · refine Only.then (raisePart_only ..) (by decide +kernel) ?_
    refine put_sys ?_ ?_
    · refine Sys.set_degraded (by decide +kernel) ?_
      exact SysReg.refl _ _
    · exact Only.refl _ _

theorem retireStall_only (s : State) (n : ℕ) : Only (Part.finishJob ++ Part.allPad ++ ([.sys .wakeDriven, .sys .degraded, .port .linkState, .fn .pmeStatus, .fn .vecs, .stall .inPool, .stall .dedicated, .stall .unsound, .stall .dirty, .stall .spare, .stall .reservedFor, .stall .muckAtWake, .stall .operand, .fc .out, .fc .retired, .fc .claimed, .fc .testing, .fc .toLog, .hl .retireMap, .out] : List Part)) s (retireStall s n) := by
  unfold retireStall
  try dsimp -proj only
  split
  · exact Only.refl _ _
  · refine Only.then (sweepKind_only ..) (by decide +kernel) ?_
    refine Only.then (evalDegraded_only ..) (by decide +kernel) ?_
    split
    · split
      · refine put_fc ?_ ?_
        · refine Faults.set_claimed_testing (by decide +kernel) ?_
          exact FcReg.refl _ _
        · refine Only.then (sourceEnds_only ..) (by decide +kernel) ?_
          refine Only.then (recordRetired_only ..) (by decide +kernel) ?_
          refine modSt_in ?_ ?_
          · refine Stall.set_state_inPool_dedicated_jobs_unsound_reqClaim_reservedFor_operand_sequ_tree (by decide +kernel) ?_
            exact StallReg.refl _ _
          · refine Only.then (clearReset_only ..) (by decide +kernel) ?_
            refine Only.then (stallFail_only ..) (by decide +kernel) ?_
            exact Only.refl _ _
      · refine Only.then (sourceEnds_only ..) (by decide +kernel) ?_
        refine Only.then (recordRetired_only ..) (by decide +kernel) ?_
        refine modSt_in ?_ ?_
        · refine Stall.set_state_inPool_dedicated_jobs_unsound_reqClaim_reservedFor_operand_sequ_tree (by decide +kernel) ?_
          exact StallReg.refl _ _
        · refine Only.then (clearReset_only ..) (by decide +kernel) ?_
          refine Only.then (stallFail_only ..) (by decide +kernel) ?_
          exact Only.refl _ _
    · split
      · split
        · refine put_fc ?_ ?_
          · refine Faults.set_claimed_testing (by decide +kernel) ?_
            exact FcReg.refl _ _
          · refine Only.then (sourceEnds_only ..) (by decide +kernel) ?_
            refine Only.then (recordRetired_only ..) (by decide +kernel) ?_
            refine modSt_in ?_ ?_
            · refine Stall.set_state_inPool_dedicated_jobs_unsound_reqClaim_reservedFor_operand_sequ_tree (by decide +kernel) ?_
              exact StallReg.refl _ _
            · refine Only.then (clearReset_only ..) (by decide +kernel) ?_
              refine Only.then (stallFail_only ..) (by decide +kernel) ?_
              exact Only.refl _ _
        · refine Only.then (sourceEnds_only ..) (by decide +kernel) ?_
          refine Only.then (recordRetired_only ..) (by decide +kernel) ?_
          refine modSt_in ?_ ?_
          · refine Stall.set_state_inPool_dedicated_jobs_unsound_reqClaim_reservedFor_operand_sequ_tree (by decide +kernel) ?_
            exact StallReg.refl _ _
          · refine Only.then (clearReset_only ..) (by decide +kernel) ?_
            refine Only.then (stallFail_only ..) (by decide +kernel) ?_
            exact Only.refl _ _
      · split
        · refine put_fc ?_ ?_
          · refine Faults.set_claimed_testing (by decide +kernel) ?_
            exact FcReg.refl _ _
          · refine modSt_in ?_ ?_
            · refine Stall.set_inPool_dedicated_dirty_spare_muckAtWake (by decide +kernel) ?_
              exact StallReg.refl _ _
            · refine Only.then (sourceEnds_only ..) (by decide +kernel) ?_
              refine Only.then (recordRetired_only ..) (by decide +kernel) ?_
              refine modSt_in ?_ ?_
              · refine Stall.set_state_inPool_dedicated_jobs_unsound_reqClaim_reservedFor_operand_sequ_tree (by decide +kernel) ?_
                exact StallReg.refl _ _
              · refine Only.then (clearReset_only ..) (by decide +kernel) ?_
                refine Only.then (stallFail_only ..) (by decide +kernel) ?_
                exact Only.refl _ _
        · refine modSt_in ?_ ?_
          · refine Stall.set_inPool_dedicated_dirty_spare_muckAtWake (by decide +kernel) ?_
            exact StallReg.refl _ _
          · refine Only.then (sourceEnds_only ..) (by decide +kernel) ?_
            refine Only.then (recordRetired_only ..) (by decide +kernel) ?_
            refine modSt_in ?_ ?_
            · refine Stall.set_state_inPool_dedicated_jobs_unsound_reqClaim_reservedFor_operand_sequ_tree (by decide +kernel) ?_
              exact StallReg.refl _ _
            · refine Only.then (clearReset_only ..) (by decide +kernel) ?_
              refine Only.then (stallFail_only ..) (by decide +kernel) ?_
              exact Only.refl _ _

theorem loseSlot_only (s : State) (n : ℕ) : Only [.tk .slots, .tk .hbs, .tk .lost] s (loseSlot s n) := by
  unfold loseSlot
  try dsimp -proj only
  refine put_tk ?_ ?_
  · refine Tack.set_hbs_lost (by decide +kernel) ?_
    exact TkReg.refl _ _
  · refine Only.then (putSlot_only ..) (by decide +kernel) ?_
    exact Only.refl _ _

theorem seedStall_only (s : State) (n : ℕ) : Only (Part.request ++ ([.stall .ratchetCount] : List Part)) s (seedStall s n) := by
  unfold seedStall
  try dsimp -proj only
  split
  · refine modSt_in ?_ ?_
    · refine Stall.set_ratchet_ratchetCount_source (by decide +kernel) ?_
      exact StallReg.refl _ _
    · exact Only.refl _ _
  · refine Only.then (request_only ..) (by decide +kernel) ?_
    exact Only.refl _ _

theorem stopSource_only (s : State) : Only (Part.request ++ ([.sys .wakeDriven, .port .linkState, .fn .cfg, .fn .pmeStatus, .fn .vecs, .fn .cmpExpect, .fn .cmpSpoiled, .fn .cmpEq, .fn .cmpNe, .pad .results, .stall .ratchetCount, .rng .ready, .rng .stopped, .rng .attempts, .rng .restarting, .fc .log, .fc .dropped, .fc .severeLost, .fc .overflowed, .fc .out, .fc .buckets, .fc .corrected, .fc .toLog, .fc .escNow, .fc .retireNow, .out] : List Part)) s (stopSource s) := by
  unfold stopSource
  try dsimp -proj only
  refine Only.then (recheck_only ..) (by decide +kernel) ?_
  refine Only.then (raiseEach_only ..) (by decide +kernel) ?_
  refine Only.then (report_only ..) (by decide +kernel) ?_
  refine Only.foldl _ (fun t x => ?_) ?_
  · refine Only.then (seedStall_only ..) (by decide +kernel) ?_
    exact Only.refl _ _
  · refine put_rng ?_ ?_
    · refine Rng.set_ready_stopped_attempts_waiting_restarting (by decide +kernel) ?_
      exact RngReg.refl _ _
    · exact Only.refl _ _

theorem stopIfFew_only (s : State) : Only (Part.request ++ ([.sys .wakeDriven, .port .linkState, .fn .cfg, .fn .pmeStatus, .fn .vecs, .fn .cmpExpect, .fn .cmpSpoiled, .fn .cmpEq, .fn .cmpNe, .pad .results, .stall .ratchetCount, .rng .ready, .rng .stopped, .rng .attempts, .rng .restarting, .fc .log, .fc .dropped, .fc .severeLost, .fc .overflowed, .fc .out, .fc .buckets, .fc .corrected, .fc .toLog, .fc .escNow, .fc .retireNow, .out] : List Part)) s (stopIfFew s) := by
  unfold stopIfFew
  try dsimp -proj only
  split
  · refine Only.then (stopSource_only ..) (by decide +kernel) ?_
    exact Only.refl _ _
  · exact Only.refl _ _

theorem retireGroup_only (s : State) (g : ℕ) : Only (Part.request ++ ([.sys .wakeDriven, .port .linkState, .fn .cfg, .fn .pmeStatus, .fn .vecs, .fn .cmpExpect, .fn .cmpSpoiled, .fn .cmpEq, .fn .cmpNe, .pad .results, .stall .ratchetCount, .rng .ready, .rng .stopped, .rng .healthy, .rng .isolated, .rng .retired, .rng .attempts, .rng .restarting, .fc .log, .fc .dropped, .fc .severeLost, .fc .overflowed, .fc .out, .fc .buckets, .fc .corrected, .fc .toLog, .fc .escNow, .fc .retireNow, .out] : List Part)) s (retireGroup s g) := by
  unfold retireGroup
  try dsimp -proj only
  refine Only.then (stopIfFew_only ..) (by decide +kernel) ?_
  refine put_rng ?_ ?_
  · refine Rng.set_healthy_isolated_retired (by decide +kernel) ?_
    exact RngReg.refl _ _
  · exact Only.refl _ _

theorem makeUnsound_only (s : State) (n : ℕ) : Only (Part.finishJob ++ ([.stall .unsound] : List Part)) s (makeUnsound s n) := by
  unfold makeUnsound
  try dsimp -proj only
  refine modSt_in ?_ ?_
  · refine Stall.set_unsound (by decide +kernel) ?_
    exact StallReg.refl _ _
  · refine Only.then (stallFail_only ..) (by decide +kernel) ?_
    exact Only.refl _ _

theorem discardBlocks_only (s : State) : Only [.rng .discarded, .freeCtr] s (discardBlocks s) := by
  unfold discardBlocks
  try dsimp -proj only
  refine put_rng ?_ ?_
  · refine Rng.set_discarded (by decide +kernel) ?_
    exact RngReg.refl _ _
  · refine Only.then (draw_only ..) (by decide +kernel) ?_
    exact Only.refl _ _

theorem isolateGroup_only (s : State) (g : ℕ) : Only (Part.request ++ ([.sys .wakeDriven, .port .linkState, .fn .cfg, .fn .pmeStatus, .fn .vecs, .fn .cmpExpect, .fn .cmpSpoiled, .fn .cmpEq, .fn .cmpNe, .pad .results, .stall .ratchetCount, .rng .ready, .rng .stopped, .rng .healthy, .rng .isolated, .rng .discarded, .rng .attempts, .rng .restarting, .fc .log, .fc .dropped, .fc .severeLost, .fc .overflowed, .fc .out, .fc .buckets, .fc .corrected, .fc .toLog, .fc .escNow, .fc .retireNow, .out] : List Part)) s (isolateGroup s g) := by
  unfold isolateGroup
  try dsimp -proj only
  split
  · exact Only.refl _ _
  · refine Only.then (stopIfFew_only ..) (by decide +kernel) ?_
    refine put_rng ?_ ?_
    · refine Rng.set_healthy_isolated (by decide +kernel) ?_
      exact RngReg.refl _ _
    · refine Only.then (discardBlocks_only ..) (by decide +kernel) ?_
      exact Only.refl _ _

theorem runFor_only (s : State) (pad m n : ℕ) : PairOnly [.tk .slots, .tk .blobs] s (runFor s pad m n) := by
  induction n generalizing s with
  | zero => exact PairOnly.none ..
  | succ n ih =>
    unfold runFor
    split
    · refine PairOnly.some ?_
      exact Only.refl _ _
    · split
      · exact PairOnly.none ..
      · refine ⟨fun h => Only.then ((ih ..).get h) (by decide +kernel) ?_⟩
        refine Only.then (unloadBlob_only ..) (by decide +kernel) ?_
        exact Only.refl _ _

theorem reserveBlob_only (s : State) (b : ℕ) : SomeOnly [.tk .slots, .tk .blobs] s (reserveBlob s b) := by
  unfold reserveBlob
  try dsimp -proj only
  split
  · refine SomeOnly.some ?_
    exact Only.refl _ _
  · split
    · exact SomeOnly.none ..
    · refine SomeOnly.some ?_
      refine Only.then (modBlob_only ..) (by decide +kernel) ?_
      refine Only.foldl _ (fun t x => ?_) ?_
      · refine Only.then (putSlot_only ..) (by decide +kernel) ?_
        exact Only.refl _ _
      · refine Only.then ((runFor_only ..).get ‹_›) (by decide +kernel) ?_
        exact Only.refl _ _

theorem execDescriptorFetchDone_only (queue : ℕ) (index : ℕ) (data : Bytes) (s : State) : Only [.queue .copies, .queue .fetchTried] s (after s (execDescriptorFetchDone queue index data s)) := by
  unfold execDescriptorFetchDone
  dsimp -proj only [after]
  split
  · refine modQ_in ?_ ?_
    · refine Queue.set_copies_fetchTried (by decide +kernel) ?_
      exact QueueReg.refl _ _
    · exact Only.refl _ _
  · exact Only.refl _ _

theorem reseedAll_only (s : State) : Only [.pad .drbg, .pad .resetSeed, .rng .ymDrbg, .freeCtr] s (reseedAll s) := by
  unfold reseedAll
  try dsimp -proj only
  refine Only.then (seedYm_only ..) (by decide +kernel) ?_
  refine Only.foldl _ (fun t x => ?_) ?_
  · refine Only.then (seedPad_only ..) (by decide +kernel) ?_
    exact Only.refl _ _
  · exact Only.refl _ _

theorem sourceReady_only (s : State) (passed : ℕ) : Only (Part.request ++ ([.rng .ready, .rng .stopped, .rng .katOk, .rng .healthy, .rng .isolated, .rng .attempts, .rng .restarting, .fc .out] : List Part)) s (sourceReady s passed) := by
  unfold sourceReady
  try dsimp -proj only
  refine Only.then (serveStore_only ..) (by decide +kernel) ?_
  refine Only.then (recheck_only ..) (by decide +kernel) ?_
  refine Only.then (causeEnds_only ..) (by decide +kernel) ?_
  refine Only.then (reseedAll_only ..) (by decide +kernel) ?_
  refine put_rng ?_ ?_
  · refine Rng.set_ready_stopped_katOk_healthy_isolated_attempts_restarting (by decide +kernel) ?_
    exact RngReg.refl _ _
  · exact Only.refl _ _

theorem runStartup_only (s : State) (passed : ℕ) (kat : Bool) : Only (Part.request ++ ([.sys .wakeDriven, .port .linkState, .fn .cfg, .fn .pmeStatus, .fn .vecs, .fn .cmpExpect, .fn .cmpSpoiled, .fn .cmpEq, .fn .cmpNe, .pad .results, .stall .ratchetCount, .rng .ready, .rng .stopped, .rng .katOk, .rng .healthy, .rng .isolated, .rng .cmdErr, .rng .attempts, .rng .restarting, .fc .log, .fc .dropped, .fc .severeLost, .fc .overflowed, .fc .out, .fc .buckets, .fc .corrected, .fc .toLog, .fc .escNow, .fc .retireNow, .out] : List Part)) s (runStartup s passed kat) := by
  unfold runStartup
  try dsimp -proj only
  split
  · refine Only.then (sourceReady_only ..) (by decide +kernel) ?_
    exact Only.refl _ _
  · split
    · refine put_rng ?_ ?_
      · refine Rng.set_katOk_cmdErr_restarting (by decide +kernel) ?_
        exact RngReg.refl _ _
      · exact Only.refl _ _
    · split
      · refine Only.then (stopSource_only ..) (by decide +kernel) ?_
        refine put_rng ?_ ?_
        · refine Rng.set_katOk_attempts (by decide +kernel) ?_
          exact RngReg.refl _ _
        · exact Only.refl _ _
      · refine put_rng ?_ ?_
        · refine Rng.set_katOk_attempts (by decide +kernel) ?_
          exact RngReg.refl _ _
        · exact Only.refl _ _

theorem extendMr_only (s : State) (p : ℕ) (r : ℕ) (d : Bytes) : Only [.pad .mrs] s (extendMr s p r d) := by
  unfold extendMr
  try dsimp -proj only
  refine modPad_in ?_ ?_
  · refine Pad.set_mrs (by decide +kernel) ?_
    exact PadReg.refl _ _
  · exact Only.refl _ _

theorem finishJob_only (s : State) (seq : ℕ) (r : Result) : Only (Part.finishJob) s (finishJob s seq r) := by
  unfold finishJob
  try dsimp -proj only
  refine Only.then (endJob_only ..) (by decide +kernel) ?_
  exact Only.refl _ _

theorem nextPhase_only (s : State) (seq : ℕ) : Only [.stall .state, .stall .jobs, .stall .reqFault, .stall .reqStop, .stall .reqClaim, .stall .reqYield, .stall .muckFailed, .stall .muckThen, .stall .scrubDue, .stall .cplRd, .stall .cplWr, .stall .sequ, .stall .tree, .jobs, .yard] s (nextPhase s seq) := by
  unfold nextPhase
  try dsimp -proj only
  split
  · exact Only.refl _ _
  · split
    · refine Only.then (freeStall_only ..) (by decide +kernel) ?_
      refine Only.then (modJob_only ..) (by decide +kernel) ?_
      exact Only.refl _ _
    · refine Only.then (modJob_only ..) (by decide +kernel) ?_
      exact Only.refl _ _

theorem raiseBound_only (s : State) : Only [.hl .boundB] s (raiseBound s) := by
  unfold raiseBound
  try dsimp -proj only
  split
  · refine put_hl ?_ ?_
    · refine Hayloft.set_boundB (by decide +kernel) ?_
      exact HlReg.refl _ _
    · exact Only.refl _ _
  · exact Only.refl _ _

theorem startRefill_only (s : State) (n : ℕ) : Only [.tk .hbs] s (startRefill s n) := by
  unfold startRefill
  try dsimp -proj only
  split
  · refine Only.then (modHbs_only ..) (by decide +kernel) ?_
    exact Only.refl _ _
  · exact Only.refl _ _

theorem recheckWriting_only (s : State) : Only [.tk .slots, .tk .blobs, .tk .hbs, .jobs, .cache] s (recheckWriting s) := by
  unfold recheckWriting
  try dsimp -proj only
  refine put_jobs ?_ ?_
  · decide +kernel
  · refine Only.foldl _ (fun t x => ?_) ?_
    · refine Only.then (releaseClaims_only ..) (by decide +kernel) ?_
      exact Only.refl _ _
    · exact Only.refl _ _

theorem revoke_only (s : State) (j : Job) : Only [.tk .slots, .tk .blobs, .tk .hbs, .jobs, .yard, .cache] s (revoke s j) := by
  unfold revoke
  try dsimp -proj only
  split
  · exact Only.refl _ _
  · refine Only.foldl _ (fun t x => ?_) ?_
    · refine Only.then (modBlob_only ..) (by decide +kernel) ?_
      exact Only.refl _ _
    · refine Only.foldl _ (fun t x => ?_) ?_
      · refine Only.then (modSlot_only ..) (by decide +kernel) ?_
        exact Only.refl _ _
      · refine Only.then (setJobs_only ..) (by decide +kernel) ?_
        refine Only.foldl _ (fun t x => ?_) ?_
        · refine Only.then (releaseClaims_only ..) (by decide +kernel) ?_
          exact Only.refl _ _
        · exact Only.refl _ _

theorem applyManagement_only (s : State) (j : Job) : Only [.tk .slots, .tk .blobs, .tk .hbs, .jobs, .yard, .cache] s (applyManagement s j) := by
  unfold applyManagement
  try dsimp -proj only
  split
  · split
    · refine Only.then (recheckWriting_only ..) (by decide +kernel) ?_
      refine Only.then (modSlot_only ..) (by decide +kernel) ?_
      exact Only.refl _ _
    · refine Only.then (recheckWriting_only ..) (by decide +kernel) ?_
      refine Only.then (modBlob_only ..) (by decide +kernel) ?_
      exact Only.refl _ _
    · exact Only.refl _ _
  · refine Only.then (recheckWriting_only ..) (by decide +kernel) ?_
    refine Only.then (revoke_only ..) (by decide +kernel) ?_
    exact Only.refl _ _
  · split
    · split
      · refine Only.then (recheckWriting_only ..) (by decide +kernel) ?_
        refine Only.then (modCache_only ..) (by decide +kernel) ?_
        exact Only.refl _ _
      · refine Only.then (removeCache_only ..) (by decide +kernel) ?_
        refine Only.then (recheckWriting_only ..) (by decide +kernel) ?_
        refine Only.then (modCache_only ..) (by decide +kernel) ?_
        exact Only.refl _ _
    · exact Only.refl _ _
  · exact Only.refl _ _

theorem acceptEffects_only (s : State) (j : Job) : Only [.sys .wakeDriven, .port .linkState, .fn .pmeStatus, .fn .vecs, .pad .snaps, .tk .slots, .tk .blobs, .tk .hbs, .jobs, .yard, .cache, .out] s (acceptEffects s j) := by
  unfold acceptEffects
  try dsimp -proj only
  split
  · exact Only.refl _ _
  · split
    · refine modPad_in ?_ ?_
      · refine Pad.set_snaps (by decide +kernel) ?_
        exact PadReg.refl _ _
      · refine Only.then (applyManagement_only ..) (by decide +kernel) ?_
        split
        · refine Only.then (lowLeaves_only ..) (by decide +kernel) ?_
          refine Only.then (startRefill_only ..) (by decide +kernel) ?_
          refine Only.then (modHbs_only ..) (by decide +kernel) ?_
          split
          · refine Only.then (modSlot_only ..) (by decide +kernel) ?_
            exact Only.refl _ _
          · exact Only.refl _ _
        · split
          · refine Only.then (modSlot_only ..) (by decide +kernel) ?_
            exact Only.refl _ _
          · exact Only.refl _ _
    · refine Only.then (applyManagement_only ..) (by decide +kernel) ?_
      split
      · refine Only.then (lowLeaves_only ..) (by decide +kernel) ?_
        refine Only.then (startRefill_only ..) (by decide +kernel) ?_
        refine Only.then (modHbs_only ..) (by decide +kernel) ?_
        split
        · refine Only.then (modSlot_only ..) (by decide +kernel) ?_
          exact Only.refl _ _
        · exact Only.refl _ _
      · split
        · refine Only.then (modSlot_only ..) (by decide +kernel) ?_
          exact Only.refl _ _
        · exact Only.refl _ _

theorem markUse_only (s : State) (j : Job) : Only [.tk .blobs, .cache] s (markUse s j) := by
  unfold markUse
  try dsimp -proj only
  refine Only.foldl _ (fun t x => ?_) ?_
  · refine Only.then (modBlob_only ..) (by decide +kernel) ?_
    exact Only.refl _ _
  · refine Only.foldl _ (fun t x => ?_) ?_
    · split
      · refine Only.then (modCache_only ..) (by decide +kernel) ?_
        exact Only.refl _ _
      · exact Only.refl _ _
    · exact Only.refl _ _

theorem serveGen_only (s : State) (j : Job) : Only [.pad .caps, .pad .genDue] s (serveGen s j) := by
  unfold serveGen
  try dsimp -proj only
  split
  · exact Only.refl _ _
  · refine modPad_in ?_ ?_
    · refine Pad.set_caps_genDue (by decide +kernel) ?_
      exact PadReg.refl _ _
    · exact Only.refl _ _

theorem becomeLive_only (s : State) (q : ℕ) : Only [.sys .wakeDriven, .sys .timeJournal, .en .reserveLow, .port .linkState, .port .ltrUs, .port .ltrLive, .port .ltrQueue, .fn .pmeStatus, .fn .vecs, .queue .a, .queue .headDeferred, .queue .copies, .queue .shadowOwed, .pad .caps, .pad .genDue, .pad .snaps, .jn .seq, .tk .slots, .tk .blobs, .tk .hbs, .hl .boundB, .jobs, .yard, .cache, .out] s (becomeLive s q) := by
  unfold becomeLive
  try dsimp -proj only
  split
  · exact Only.refl _ _
  · refine Only.then (evalReserve_only ..) (by decide +kernel) ?_
    refine Only.then (updateLtr_only ..) (by decide +kernel) ?_
    refine Only.then (writeShadow_only ..) (by decide +kernel) ?_
    refine Only.then (raiseBound_only ..) (by decide +kernel) ?_
    refine Only.then (acceptEffects_only ..) (by decide +kernel) ?_
    refine Only.then (markUse_only ..) (by decide +kernel) ?_
    refine Only.then (serveGen_only ..) (by decide +kernel) ?_
    refine modQ_in ?_ ?_
    · refine Queue.set_a_headDeferred_copies (by decide +kernel) ?_
      exact QueueReg.refl _ _
    · refine Only.then (journalWrite_only ..) (by decide +kernel) ?_
      refine Only.then (setJobs_only ..) (by decide +kernel) ?_
      exact Only.refl _ _

theorem assign_only (s : State) (q : ℕ) : Only [.jn .nextSeq, .time, .jobs] s (assign s q) := by
  unfold assign
  try dsimp -proj only
  refine put_time_jobs_jn ?_ ?_ ?_ ?_
  · decide +kernel
  · decide +kernel
  · refine Journal.set_nextSeq (by decide +kernel) ?_
    exact JnReg.refl _ _
  · exact Only.refl _ _

theorem dropHead_only (s : State) (q : ℕ) : Only [.tk .slots, .tk .blobs, .tk .hbs, .tt .txSeq, .tt .unacked, .jobs, .cache, .out] s (dropHead s q) := by
  unfold dropHead
  try dsimp -proj only
  split
  · refine Only.then (dropEntry_only ..) (by decide +kernel) ?_
    exact Only.refl _ _
  · exact Only.refl _ _

theorem beginDrain_only (s : State) (q : ℕ) : Only (Part.drainQueue) s (beginDrain s q) := by
  unfold beginDrain
  try dsimp -proj only
  refine Only.then (drainQueue_only ..) (by decide +kernel) ?_
  refine Only.then (writeShadow_only ..) (by decide +kernel) ?_
  refine Only.then (journalWrite_only ..) (by decide +kernel) ?_
  refine modQ_in ?_ ?_
  · refine Queue.set_state_errReason_errDetail_errIndex_pend (by decide +kernel) ?_
    refine QueueReg.then (dropCopies_only ..) (by decide +kernel) ?_
    exact QueueReg.refl _ _
  · refine Only.then (dropHead_only ..) (by decide +kernel) ?_
    exact Only.refl _ _

theorem cmdDisable_only (s : State) (n : ℕ) (q : ℕ) : Only (Part.drainQueue) s (cmdDisable s n q).2 := by
  unfold cmdDisable
  try dsimp -proj only
  split
  · dsimp only
    exact Only.refl _ _
  · split
    · split
      · dsimp only
        refine Only.then (beginDrain_only ..) (by decide +kernel) ?_
        exact Only.refl _ _
      · dsimp only
        exact Only.refl _ _
    · split
      · split
        · split
          · dsimp only
            refine Only.then (beginDrain_only ..) (by decide +kernel) ?_
            exact Only.refl _ _
          · dsimp only
            exact Only.refl _ _
        · split
          · dsimp only
            refine Only.then (beginDrain_only ..) (by decide +kernel) ?_
            exact Only.refl _ _
          · dsimp only
            exact Only.refl _ _
      · dsimp only
        exact Only.refl _ _

theorem writeLocal_only (s : State) (addr : ℕ) (tag : ℕ) (d : Bytes) : Only [.core .mem] s (writeLocal s addr tag d) := by
  unfold writeLocal
  try dsimp -proj only
  refine modCore_in ?_ ?_
  · refine Core.set_mem (by decide +kernel) ?_
    exact CoreReg.refl _ _
  · exact Only.refl _ _

theorem writeOutput_only (s : State) (j : Job) (fn : ℕ) (addr : ℕ) (second : Bool) (o : Option Bytes) : Only [.port .linkState, .core .mem, .out] s (writeOutput s j fn addr second o) := by
  unfold writeOutput
  try dsimp -proj only
  split
  · exact Only.refl _ _
  · split
    · refine Only.then (writeLocal_only ..) (by decide +kernel) ?_
      exact Only.refl _ _
    · refine Only.then (hostWrite_only ..) (by decide +kernel) ?_
      exact Only.refl _ _

theorem holdQueue_only (s : State) (q : ℕ) : Only [.sys .timeJournal, .port .linkState, .queue .state, .queue .remembered, .queue .defer, .queue .copies, .queue .heldBell, .queue .shadowOwed, .queue .fetchFailed, .queue .fetchTried, .jn .seq, .out] s (holdQueue s q) := by
  unfold holdQueue
  try dsimp -proj only
  split
  · refine Only.then (writeShadow_only ..) (by decide +kernel) ?_
    refine Only.then (journalWrite_only ..) (by decide +kernel) ?_
    refine modQ_in ?_ ?_
    · refine Queue.set_state_remembered_heldBell (by decide +kernel) ?_
      refine QueueReg.then (dropCopies_only ..) (by decide +kernel) ?_
      exact QueueReg.refl _ _
    · exact Only.refl _ _
  · exact Only.refl _ _

theorem writeOutputs_only (s : State) (j : Job) : Only [.port .linkState, .core .mem, .out] s (writeOutputs s j) := by
  unfold writeOutputs
  try dsimp -proj only
  refine Only.then (writeOutput_only ..) (by decide +kernel) ?_
  refine Only.then (writeOutput_only ..) (by decide +kernel) ?_
  exact Only.refl _ _

theorem writeCompletion_only (s : State) (j : Job) : Only [.port .linkState, .queue .ring, .queue .ringSecret, .out] s (writeCompletion s j) := by
  unfold writeCompletion
  try dsimp -proj only
  split
  · refine modQ_in ?_ ?_
    · refine Queue.set_ring_ringSecret (by decide +kernel) ?_
      exact QueueReg.refl _ _
    · exact Only.refl _ _
  · refine Only.then (emit_only ..) (by decide +kernel) ?_
    refine Only.then (hostWrite_only ..) (by decide +kernel) ?_
    refine Only.then (hostWrite_only ..) (by decide +kernel) ?_
    exact Only.refl _ _

theorem writeResult_only (s : State) (p : ℕ) (i : ℕ) (d : Bytes) (ps : ℕ) (seq : ℕ) : Only [.fn .cmpSpoiled, .fn .cmpEq, .fn .cmpNe, .pad .results] s (writeResult s p i d ps seq) := by
  unfold writeResult
  try dsimp -proj only
  refine Only.foldl _ (fun t x => ?_) ?_
  · refine modFn_in ?_ ?_
    · split
      · refine FnReg.then (spoilCompare_only ..) (by decide +kernel) ?_
        exact FnReg.refl _ _
      · exact FnReg.refl _ _
    · exact Only.refl _ _
  · refine modPad_in ?_ ?_
    · refine Pad.set_results (by decide +kernel) ?_
      exact PadReg.refl _ _
    · exact Only.refl _ _

theorem addDiag_only (s : State) (j : Job) : Only [.pad .diags] s (addDiag s j) := by
  unfold addDiag
  try dsimp -proj only
  refine modPad_in ?_ ?_
  · refine Pad.set_diags (by decide +kernel) ?_
    exact PadReg.refl _ _
  · exact Only.refl _ _

theorem firstIssue_only (s : State) (j : Job) : Only [.sys .timeJournal, .fn .cmpSpoiled, .fn .cmpEq, .fn .cmpNe, .pad .results, .pad .mrs, .pad .diags, .jn .seq, .tk .slots, .tk .blobs] s (firstIssue s j) := by
  unfold firstIssue
  try dsimp -proj only
  refine Only.then (journalWrite_only ..) (by decide +kernel) ?_
  split
  · refine Only.then (addDiag_only ..) (by decide +kernel) ?_
    split
    · split
      · refine Only.then (modBlob_only ..) (by decide +kernel) ?_
        split
        · split
          · split
            · split
              · refine Only.then (modSlot_only ..) (by decide +kernel) ?_
                refine Only.then (writeResult_only ..) (by decide +kernel) ?_
                exact Only.refl _ _
              · refine Only.then (writeResult_only ..) (by decide +kernel) ?_
                exact Only.refl _ _
            · split
              · split
                · refine Only.then (modSlot_only ..) (by decide +kernel) ?_
                  refine Only.then (extendMr_only ..) (by decide +kernel) ?_
                  exact Only.refl _ _
                · refine Only.then (extendMr_only ..) (by decide +kernel) ?_
                  exact Only.refl _ _
              · split
                · refine Only.then (modSlot_only ..) (by decide +kernel) ?_
                  exact Only.refl _ _
                · exact Only.refl _ _
          · split
            · refine Only.then (modSlot_only ..) (by decide +kernel) ?_
              exact Only.refl _ _
            · exact Only.refl _ _
        · split
          · split
            · refine Only.then (writeResult_only ..) (by decide +kernel) ?_
              exact Only.refl _ _
            · split
              · refine Only.then (extendMr_only ..) (by decide +kernel) ?_
                exact Only.refl _ _
              · exact Only.refl _ _
          · exact Only.refl _ _
      · split
        · split
          · split
            · split
              · refine Only.then (modSlot_only ..) (by decide +kernel) ?_
                refine Only.then (writeResult_only ..) (by decide +kernel) ?_
                exact Only.refl _ _
              · refine Only.then (writeResult_only ..) (by decide +kernel) ?_
                exact Only.refl _ _
            · split
              · split
                · refine Only.then (modSlot_only ..) (by decide +kernel) ?_
                  refine Only.then (extendMr_only ..) (by decide +kernel) ?_
                  exact Only.refl _ _
                · refine Only.then (extendMr_only ..) (by decide +kernel) ?_
                  exact Only.refl _ _
              · split
                · refine Only.then (modSlot_only ..) (by decide +kernel) ?_
                  exact Only.refl _ _
                · exact Only.refl _ _
          · split
            · refine Only.then (modSlot_only ..) (by decide +kernel) ?_
              exact Only.refl _ _
            · exact Only.refl _ _
        · split
          · split
            · refine Only.then (writeResult_only ..) (by decide +kernel) ?_
              exact Only.refl _ _
            · split
              · refine Only.then (extendMr_only ..) (by decide +kernel) ?_
                exact Only.refl _ _
              · exact Only.refl _ _
          · exact Only.refl _ _
    · split
      · split
        · split
          · split
            · refine Only.then (modSlot_only ..) (by decide +kernel) ?_
              refine Only.then (writeResult_only ..) (by decide +kernel) ?_
              exact Only.refl _ _
            · refine Only.then (writeResult_only ..) (by decide +kernel) ?_
              exact Only.refl _ _
          · split
            · split
              · refine Only.then (modSlot_only ..) (by decide +kernel) ?_
                refine Only.then (extendMr_only ..) (by decide +kernel) ?_
                exact Only.refl _ _
              · refine Only.then (extendMr_only ..) (by decide +kernel) ?_
                exact Only.refl _ _
            · split
              · refine Only.then (modSlot_only ..) (by decide +kernel) ?_
                exact Only.refl _ _
              · exact Only.refl _ _
        · split
          · refine Only.then (modSlot_only ..) (by decide +kernel) ?_
            exact Only.refl _ _
          · exact Only.refl _ _
      · split
        · split
          · refine Only.then (writeResult_only ..) (by decide +kernel) ?_
            exact Only.refl _ _
          · split
            · refine Only.then (extendMr_only ..) (by decide +kernel) ?_
              exact Only.refl _ _
            · exact Only.refl _ _
        · exact Only.refl _ _
  · split
    · split
      · refine Only.then (modBlob_only ..) (by decide +kernel) ?_
        split
        · split
          · split
            · split
              · refine Only.then (modSlot_only ..) (by decide +kernel) ?_
                refine Only.then (writeResult_only ..) (by decide +kernel) ?_
                exact Only.refl _ _
              · refine Only.then (writeResult_only ..) (by decide +kernel) ?_
                exact Only.refl _ _
            · split
              · split
                · refine Only.then (modSlot_only ..) (by decide +kernel) ?_
                  refine Only.then (extendMr_only ..) (by decide +kernel) ?_
                  exact Only.refl _ _
                · refine Only.then (extendMr_only ..) (by decide +kernel) ?_
                  exact Only.refl _ _
              · split
                · refine Only.then (modSlot_only ..) (by decide +kernel) ?_
                  exact Only.refl _ _
                · exact Only.refl _ _
          · split
            · refine Only.then (modSlot_only ..) (by decide +kernel) ?_
              exact Only.refl _ _
            · exact Only.refl _ _
        · split
          · split
            · refine Only.then (writeResult_only ..) (by decide +kernel) ?_
              exact Only.refl _ _
            · split
              · refine Only.then (extendMr_only ..) (by decide +kernel) ?_
                exact Only.refl _ _
              · exact Only.refl _ _
          · exact Only.refl _ _
      · split
        · split
          · split
            · split
              · refine Only.then (modSlot_only ..) (by decide +kernel) ?_
                refine Only.then (writeResult_only ..) (by decide +kernel) ?_
                exact Only.refl _ _
              · refine Only.then (writeResult_only ..) (by decide +kernel) ?_
                exact Only.refl _ _
            · split
              · split
                · refine Only.then (modSlot_only ..) (by decide +kernel) ?_
                  refine Only.then (extendMr_only ..) (by decide +kernel) ?_
                  exact Only.refl _ _
                · refine Only.then (extendMr_only ..) (by decide +kernel) ?_
                  exact Only.refl _ _
              · split
                · refine Only.then (modSlot_only ..) (by decide +kernel) ?_
                  exact Only.refl _ _
                · exact Only.refl _ _
          · split
            · refine Only.then (modSlot_only ..) (by decide +kernel) ?_
              exact Only.refl _ _
            · exact Only.refl _ _
        · split
          · split
            · refine Only.then (writeResult_only ..) (by decide +kernel) ?_
              exact Only.refl _ _
            · split
              · refine Only.then (extendMr_only ..) (by decide +kernel) ?_
                exact Only.refl _ _
              · exact Only.refl _ _
          · exact Only.refl _ _
    · split
      · split
        · split
          · split
            · refine Only.then (modSlot_only ..) (by decide +kernel) ?_
              refine Only.then (writeResult_only ..) (by decide +kernel) ?_
              exact Only.refl _ _
            · refine Only.then (writeResult_only ..) (by decide +kernel) ?_
              exact Only.refl _ _
          · split
            · split
              · refine Only.then (modSlot_only ..) (by decide +kernel) ?_
                refine Only.then (extendMr_only ..) (by decide +kernel) ?_
                exact Only.refl _ _
              · refine Only.then (extendMr_only ..) (by decide +kernel) ?_
                exact Only.refl _ _
            · split
              · refine Only.then (modSlot_only ..) (by decide +kernel) ?_
                exact Only.refl _ _
              · exact Only.refl _ _
        · split
          · refine Only.then (modSlot_only ..) (by decide +kernel) ?_
            exact Only.refl _ _
          · exact Only.refl _ _
      · split
        · split
          · refine Only.then (writeResult_only ..) (by decide +kernel) ?_
            exact Only.refl _ _
          · split
            · refine Only.then (extendMr_only ..) (by decide +kernel) ?_
              exact Only.refl _ _
            · exact Only.refl _ _
        · exact Only.refl _ _

theorem completionCause_only (s : State) (j : Job) : Only [.port .linkState, .fn .vecs, .out] s (completionCause s j) := by
  unfold completionCause
  try dsimp -proj only
  split
  · exact Only.refl _ _
  · refine Only.then (addCause_only ..) (by decide +kernel) ?_
    exact Only.refl _ _

theorem issueHead_only (s : State) (j : Job) (cause : Bool) : Only [.sys .timeJournal, .en .padEnergy, .port .linkState, .fn .vecs, .fn .cmpExpect, .fn .cmpSpoiled, .fn .cmpEq, .fn .cmpNe, .queue .ring, .queue .ringSecret, .pad .results, .pad .mrs, .pad .diags, .jn .seq, .tk .slots, .tk .blobs, .core .mem, .jobs, .yard, .out] s (issueHead s j cause) := by
  unfold issueHead
  try dsimp -proj only
  split
  · refine Only.then (completionCause_only ..) (by decide +kernel) ?_
    split
    · refine Only.then (clearDigests_only ..) (by decide +kernel) ?_
      refine put_en ?_ ?_
      · refine Energy.set_padEnergy (by decide +kernel) ?_
        exact EnReg.refl _ _
      · refine Only.then (modJob_only ..) (by decide +kernel) ?_
        split
        · refine Only.then (writeCompletion_only ..) (by decide +kernel) ?_
          split
          · refine Only.then (writeOutputs_only ..) (by decide +kernel) ?_
            exact Only.refl _ _
          · exact Only.refl _ _
        · refine Only.then (firstIssue_only ..) (by decide +kernel) ?_
          refine Only.then (writeCompletion_only ..) (by decide +kernel) ?_
          split
          · refine Only.then (writeOutputs_only ..) (by decide +kernel) ?_
            exact Only.refl _ _
          · exact Only.refl _ _
    · refine put_en ?_ ?_
      · refine Energy.set_padEnergy (by decide +kernel) ?_
        exact EnReg.refl _ _
      · refine Only.then (modJob_only ..) (by decide +kernel) ?_
        split
        · refine Only.then (writeCompletion_only ..) (by decide +kernel) ?_
          split
          · refine Only.then (writeOutputs_only ..) (by decide +kernel) ?_
            exact Only.refl _ _
          · exact Only.refl _ _
        · refine Only.then (firstIssue_only ..) (by decide +kernel) ?_
          refine Only.then (writeCompletion_only ..) (by decide +kernel) ?_
          split
          · refine Only.then (writeOutputs_only ..) (by decide +kernel) ?_
            exact Only.refl _ _
          · exact Only.refl _ _
  · split
    · refine Only.then (clearDigests_only ..) (by decide +kernel) ?_
      refine put_en ?_ ?_
      · refine Energy.set_padEnergy (by decide +kernel) ?_
        exact EnReg.refl _ _
      · refine Only.then (modJob_only ..) (by decide +kernel) ?_
        split
        · refine Only.then (writeCompletion_only ..) (by decide +kernel) ?_
          split
          · refine Only.then (writeOutputs_only ..) (by decide +kernel) ?_
            exact Only.refl _ _
          · exact Only.refl _ _
        · refine Only.then (firstIssue_only ..) (by decide +kernel) ?_
          refine Only.then (writeCompletion_only ..) (by decide +kernel) ?_
          split
          · refine Only.then (writeOutputs_only ..) (by decide +kernel) ?_
            exact Only.refl _ _
          · exact Only.refl _ _
    · refine put_en ?_ ?_
      · refine Energy.set_padEnergy (by decide +kernel) ?_
        exact EnReg.refl _ _
      · refine Only.then (modJob_only ..) (by decide +kernel) ?_
        split
        · refine Only.then (writeCompletion_only ..) (by decide +kernel) ?_
          split
          · refine Only.then (writeOutputs_only ..) (by decide +kernel) ?_
            exact Only.refl _ _
          · exact Only.refl _ _
        · refine Only.then (firstIssue_only ..) (by decide +kernel) ?_
          refine Only.then (writeCompletion_only ..) (by decide +kernel) ?_
          split
          · refine Only.then (writeOutputs_only ..) (by decide +kernel) ?_
            exact Only.refl _ _
          · exact Only.refl _ _

theorem issueHeld_only (s : State) (q n : ℕ) : Only [.sys .timeJournal, .en .padEnergy, .port .linkState, .fn .vecs, .fn .cmpExpect, .fn .cmpSpoiled, .fn .cmpEq, .fn .cmpNe, .queue .ring, .queue .ringSecret, .pad .results, .pad .mrs, .pad .diags, .jn .seq, .tk .slots, .tk .blobs, .core .mem, .jobs, .yard, .out] s (issueHeld s q n) := by
  induction n generalizing s with
  | zero => exact Only.refl _ _
  | succ n ih =>
    unfold issueHeld
    split
    · exact Only.refl _ _
    · split
      · refine Only.then (ih ..) (by decide +kernel) ?_
        refine Only.then (issueHead_only ..) (by decide +kernel) ?_
        exact Only.refl _ _
      · exact Only.refl _ _

theorem releaseHeld_only (s : State) (qs : List ℕ) : Only [.sys .timeJournal, .en .padEnergy, .port .linkState, .fn .vecs, .fn .cmpExpect, .fn .cmpSpoiled, .fn .cmpEq, .fn .cmpNe, .queue .ring, .queue .ringSecret, .pad .results, .pad .mrs, .pad .diags, .jn .seq, .tk .slots, .tk .blobs, .core .mem, .jobs, .yard, .out] s (releaseHeld s qs) := by
  unfold releaseHeld
  try dsimp -proj only
  refine Only.foldl _ (fun t x => ?_) ?_
  · split
    · split
      · refine Only.then (completionCause_only ..) (by decide +kernel) ?_
        exact Only.refl _ _
      · exact Only.refl _ _
    · exact Only.refl _ _
  · refine Only.foldl _ (fun t x => ?_) ?_
    · refine Only.then (issueHeld_only ..) (by decide +kernel) ?_
      exact Only.refl _ _
    · exact Only.refl _ _

theorem resumeQueue_only (s : State) (q : ℕ) : Only (Part.drainQueue ++ ([.sys .wakeDriven, .en .padEnergy, .fn .pmeStatus, .fn .denied, .fn .vecs, .fn .cmpExpect, .fn .cmpSpoiled, .fn .cmpEq, .fn .cmpNe, .pad .results, .pad .mrs, .pad .haltLog, .pad .haltOverflow, .pad .diags, .core .mem] : List Part)) s (resumeQueue s q) := by
  unfold resumeQueue
  try dsimp -proj only
  refine Only.then (updateLtr_only ..) (by decide +kernel) ?_
  refine Only.then (releaseHeld_only ..) (by decide +kernel) ?_
  split
  · refine Only.then (drainQueue_only ..) (by decide +kernel) ?_
    split
    · refine Only.then (writeShadow_only ..) (by decide +kernel) ?_
      refine Only.then (journalWrite_only ..) (by decide +kernel) ?_
      refine modQ_in ?_ ?_
      · refine Queue.set_state_remembered_heldBell (by decide +kernel) ?_
        exact QueueReg.refl _ _
      · exact Only.refl _ _
    · split
      · refine Only.then (ringRunning_only ..) (by decide +kernel) ?_
        refine Only.then (writeShadow_only ..) (by decide +kernel) ?_
        refine Only.then (journalWrite_only ..) (by decide +kernel) ?_
        refine modQ_in ?_ ?_
        · refine Queue.set_state_remembered_heldBell (by decide +kernel) ?_
          exact QueueReg.refl _ _
        · exact Only.refl _ _
      · split
        · refine Only.then (ringHalted_only ..) (by decide +kernel) ?_
          refine Only.then (writeShadow_only ..) (by decide +kernel) ?_
          refine Only.then (journalWrite_only ..) (by decide +kernel) ?_
          refine modQ_in ?_ ?_
          · refine Queue.set_state_remembered_heldBell (by decide +kernel) ?_
            exact QueueReg.refl _ _
          · exact Only.refl _ _
        · split
          · refine modQ_in ?_ ?_
            · refine Queue.set_pend (by decide +kernel) ?_
              exact QueueReg.refl _ _
            · refine Only.then (writeShadow_only ..) (by decide +kernel) ?_
              refine Only.then (journalWrite_only ..) (by decide +kernel) ?_
              refine modQ_in ?_ ?_
              · refine Queue.set_state_remembered_heldBell (by decide +kernel) ?_
                exact QueueReg.refl _ _
              · exact Only.refl _ _
          · refine Only.then (writeShadow_only ..) (by decide +kernel) ?_
            refine Only.then (journalWrite_only ..) (by decide +kernel) ?_
            refine modQ_in ?_ ?_
            · refine Queue.set_state_remembered_heldBell (by decide +kernel) ?_
              exact QueueReg.refl _ _
            · exact Only.refl _ _
  · split
    · refine Only.then (writeShadow_only ..) (by decide +kernel) ?_
      refine Only.then (journalWrite_only ..) (by decide +kernel) ?_
      refine modQ_in ?_ ?_
      · refine Queue.set_state_remembered_heldBell (by decide +kernel) ?_
        exact QueueReg.refl _ _
      · exact Only.refl _ _
    · split
      · refine Only.then (ringRunning_only ..) (by decide +kernel) ?_
        refine Only.then (writeShadow_only ..) (by decide +kernel) ?_
        refine Only.then (journalWrite_only ..) (by decide +kernel) ?_
        refine modQ_in ?_ ?_
        · refine Queue.set_state_remembered_heldBell (by decide +kernel) ?_
          exact QueueReg.refl _ _
        · exact Only.refl _ _
      · split
        · refine Only.then (ringHalted_only ..) (by decide +kernel) ?_
          refine Only.then (writeShadow_only ..) (by decide +kernel) ?_
          refine Only.then (journalWrite_only ..) (by decide +kernel) ?_
          refine modQ_in ?_ ?_
          · refine Queue.set_state_remembered_heldBell (by decide +kernel) ?_
            exact QueueReg.refl _ _
          · exact Only.refl _ _
        · split
          · refine modQ_in ?_ ?_
            · refine Queue.set_pend (by decide +kernel) ?_
              exact QueueReg.refl _ _
            · refine Only.then (writeShadow_only ..) (by decide +kernel) ?_
              refine Only.then (journalWrite_only ..) (by decide +kernel) ?_
              refine modQ_in ?_ ?_
              · refine Queue.set_state_remembered_heldBell (by decide +kernel) ?_
                exact QueueReg.refl _ _
              · exact Only.refl _ _
          · refine Only.then (writeShadow_only ..) (by decide +kernel) ?_
            refine Only.then (journalWrite_only ..) (by decide +kernel) ?_
            refine modQ_in ?_ ?_
            · refine Queue.set_state_remembered_heldBell (by decide +kernel) ?_
              exact QueueReg.refl _ _
            · exact Only.refl _ _

theorem cmdResume_only (s : State) (n : ℕ) (q : ℕ) : Only (Part.drainQueue ++ ([.sys .wakeDriven, .en .padEnergy, .fn .pmeStatus, .fn .denied, .fn .vecs, .fn .cmpExpect, .fn .cmpSpoiled, .fn .cmpEq, .fn .cmpNe, .pad .results, .pad .mrs, .pad .haltLog, .pad .haltOverflow, .pad .diags, .core .mem] : List Part)) s (cmdResume s n q).2 := by
  unfold cmdResume
  try dsimp -proj only
  split
  · dsimp only
    exact Only.refl _ _
  · split
    · dsimp only
      exact Only.refl _ _
    · split
      · dsimp only
        exact Only.refl _ _
      · dsimp only
        refine Only.then (resumeQueue_only ..) (by decide +kernel) ?_
        exact Only.refl _ _

theorem deferHead_only (s : State) (q : ℕ) (code : ℕ) : Only [.queue .defer, .queue .deferOrder, .queue .headDeferred, .queue .recheck, .jn .deferNext] s (deferHead s q code) := by
  unfold deferHead
  try dsimp -proj only
  split
  · refine modQ_in ?_ ?_
    · refine Queue.set_defer_headDeferred_recheck (by decide +kernel) ?_
      exact QueueReg.refl _ _
    · exact Only.refl _ _
  · refine modQ_in ?_ ?_
    · refine Queue.set_defer_deferOrder_headDeferred_recheck (by decide +kernel) ?_
      exact QueueReg.refl _ _
    · refine put_jn ?_ ?_
      · refine Journal.set_deferNext (by decide +kernel) ?_
        exact JnReg.refl _ _
      · exact Only.refl _ _

theorem reserveBlobs_only (s : State) (l : List ℕ) : SomeOnly [.tk .slots, .tk .blobs] s (reserveBlobs s l) := by
  induction l generalizing s with
  | nil => exact SomeOnly.some (Only.refl _ _)
  | cons b r ih =>
    unfold reserveBlobs
    split
    · exact SomeOnly.none ..
    · rename_i s1 h
      exact ⟨fun e => ((ih s1).get e).then (by decide +kernel) ((reserveBlob_only s b).get h)⟩

theorem evictFor_only (s : State) (pad size part n : ℕ) : Only [.cache] s (evictFor s pad size part n) := by
  induction n generalizing s with
  | zero => exact Only.refl _ _
  | succ n ih =>
    unfold evictFor
    split
    · exact Only.refl _ _
    · split
      · exact Only.refl _ _
      · refine Only.then (ih ..) (by decide +kernel) ?_
        refine Only.then (removeCache_only ..) (by decide +kernel) ?_
        exact Only.refl _ _

theorem makeRoom_only (s : State) (pad : ℕ) (size : ℕ) : SomeOnly [.cache] s (makeRoom s pad size) := by
  unfold makeRoom
  try dsimp -proj only
  split
  · exact SomeOnly.none ..
  · refine SomeOnly.some ?_
    refine Only.then (evictFor_only ..) (by decide +kernel) ?_
    exact Only.refl _ _

theorem addCache_only (s : State) (pad : ℕ) (e : CacheEntry) : PairOnly [.cache] s (addCache s pad e) := by
  unfold addCache
  try dsimp -proj only
  split
  · exact PairOnly.none ..
  · refine PairOnly.some ?_
    refine Only.then (putCache_only ..) (by decide +kernel) ?_
    refine Only.then ((makeRoom_only ..).get ‹_›) (by decide +kernel) ?_
    exact Only.refl _ _

theorem reserve_only {s : State} {d : Desc} {alg p : ℕ} {e : Option ℕ} {w : Bool} {t : State} (h : reserve s d alg p = .taken e w t) :
    Only [.tk .slots, .tk .blobs, .cache] s t := by
  unfold reserve at h
  split at h
  · cases h
  · rename_i s1 h1
    have h2 : Only [.tk .slots, .tk .blobs, .cache] s s1 := ((reserveBlobs_only s (blobsOf p d)).get h1).mono (by decide +kernel)
    dsimp only at h
    split at h <;> (try split at h) <;> (try split at h) <;> cases h <;>
      first
      | exact h2
      | (rename_i hc; exact ((addCache_only ..).get hc).then (by decide +kernel) h2)
      | exact (modBlob_only ..).then (by decide +kernel) h2

theorem passEntry_only (s : State) (q : ℕ) (p : ℕ) (d : Desc) (cap : Option ℕ) (fixed : ℕ) (extra : Option ℕ) (waitKey : Bool) : Only [.queue .defer, .queue .recheck, .jobs] s (passEntry s q p d cap fixed extra waitKey) := by
  unfold passEntry
  try dsimp -proj only
  refine modQ_in ?_ ?_
  · refine Queue.set_defer_recheck (by decide +kernel) ?_
    exact QueueReg.refl _ _
  · refine put_jobs ?_ ?_
    · decide +kernel
    · exact Only.refl _ _

theorem gateTail_only (s : State) (q p : ℕ) (d : Desc) (alg key : ℕ) : Only [.queue .defer, .queue .deferOrder, .queue .headDeferred, .queue .recheck, .jn .deferNext, .tk .slots, .tk .blobs, .jobs, .cache] s (gateTail s q p d alg key) := by
  have hr : ∀ {st e w t}, (if st = 0 then reserve s d alg p else .fixed st) = .taken e w t → Only [.queue .defer, .queue .deferOrder, .queue .headDeferred, .queue .recheck, .jn .deferNext, .tk .slots, .tk .blobs, .jobs, .cache] s t := by
    intro st e w t h
    split at h
    · exact (reserve_only h).mono (by decide +kernel)
    · cases h
  unfold gateTail
  dsimp -proj only
  split
  · exact (deferHead_only ..).then (by decide +kernel) (Only.refl _ _)
  · split
    · exact (deferHead_only ..).then (by decide +kernel) (Only.refl _ _)
    · split
      · exact (deferHead_only ..).then (by decide +kernel) (Only.refl _ _)
      · split
        · exact (passEntry_only ..).then (by decide +kernel) (Only.refl _ _)
        · exact (deferHead_only ..).then (by decide +kernel) (Only.refl _ _)
      · rename_i h
        split
        · exact (passEntry_only ..).then (by decide +kernel) (hr h)
        · exact (deferHead_only ..).then (by decide +kernel) (Only.refl _ _)

theorem evaluate_only (s : State) (q : ℕ) : Only [.sys .wakeDriven, .sys .timeJournal, .port .linkState, .fn .pmeStatus, .fn .vecs, .queue .state, .queue .errReason, .queue .errDetail, .queue .errIndex, .queue .defer, .queue .deferOrder, .queue .headDeferred, .queue .recheck, .queue .copies, .queue .shadowOwed, .queue .fetchFailed, .queue .fetchTried, .pad .haltLog, .pad .haltOverflow, .jn .seq, .jn .deferNext, .tk .slots, .tk .blobs, .jobs, .cache, .out] s (evaluate s q) := by
  unfold evaluate
  try dsimp -proj only
  split
  · exact Only.refl _ _
  · split
    · refine Only.then (haltQueue_only ..) (by decide +kernel) ?_
      exact Only.refl _ _
    · split
      · exact Only.refl _ _
      · split
        · refine Only.then (haltQueue_only ..) (by decide +kernel) ?_
          exact Only.refl _ _
        · refine Only.then (gateTail_only ..) (by decide +kernel) ?_
          exact Only.refl _ _

theorem acceptEntry_only (s : State) (q : ℕ) : Only [.sys .wakeDriven, .sys .timeJournal, .en .reserveLow, .port .linkState, .port .ltrUs, .port .ltrLive, .port .ltrQueue, .fn .pmeStatus, .fn .vecs, .queue .a, .queue .headDeferred, .queue .copies, .queue .shadowOwed, .pad .caps, .pad .genDue, .pad .snaps, .jn .nextSeq, .jn .seq, .tk .slots, .tk .blobs, .tk .hbs, .hl .boundB, .tt .txSeq, .tt .unacked, .time, .jobs, .yard, .cache, .out] s (acceptEntry s q) := by
  unfold acceptEntry
  try dsimp -proj only
  split
  · split
    · refine Only.then (assign_only ..) (by decide +kernel) ?_
      exact Only.refl _ _
    · refine Only.then (sendFrame_only ..) (by decide +kernel) ?_
      refine put_jobs ?_ ?_
      · decide +kernel
      · refine Only.then (assign_only ..) (by decide +kernel) ?_
        exact Only.refl _ _
  · refine Only.then (becomeLive_only ..) (by decide +kernel) ?_
    refine Only.then (assign_only ..) (by decide +kernel) ?_
    exact Only.refl _ _

theorem reply_only (s : State) (n : ℕ) (d : Bytes) : Only [.port .linkState, .out] s (reply s n d) := by
  unfold reply
  try dsimp -proj only
  refine Only.then (emit_only ..) (by decide +kernel) ?_
  refine put_port ?_ ?_
  · refine Port.set_linkState (by decide +kernel) ?_
    exact PortReg.refl _ _
  · exact Only.refl _ _

theorem execQueueDrainComplete_only (queue : ℕ) (s : State) : Only (Part.allQueue ++ ([.sys .timeJournal, .port .linkState, .port .ltrUs, .port .ltrLive, .port .ltrQueue, .jn .seq, .yard, .out] : List Part)) s (after s (execQueueDrainComplete queue s)) := by
  unfold execQueueDrainComplete
  dsimp -proj only [after]
  split
  · refine Only.then (disableQueue_only ..) (by decide +kernel) ?_
    exact Only.refl _ _
  · exact Only.refl _ _

theorem dueReseed_only (s : State) (p : ℕ) : Only (Part.request) s (dueReseed s p) := by
  unfold dueReseed
  try dsimp -proj only
  split
  · refine Only.then (reseedPad_only ..) (by decide +kernel) ?_
    exact Only.refl _ _
  · exact Only.refl _ _

theorem holdFnQueues_only (s : State) (n : ℕ) : Only [.sys .timeJournal, .port .linkState, .port .ltrUs, .port .ltrLive, .port .ltrQueue, .queue .state, .queue .remembered, .queue .defer, .queue .copies, .queue .heldBell, .queue .shadowOwed, .queue .fetchFailed, .queue .fetchTried, .jn .seq, .out] s (holdFnQueues s n) := by
  unfold holdFnQueues
  try dsimp -proj only
  refine Only.then (updateLtr_only ..) (by decide +kernel) ?_
  refine Only.foldl _ (fun t x => ?_) ?_
  · split
    · refine Only.then (holdQueue_only ..) (by decide +kernel) ?_
      exact Only.refl _ _
    · exact Only.refl _ _
  · exact Only.refl _ _

theorem pushRaw_only (s : State) : Only [.rng .fifo, .rng .overflow, .freeCtr] s (pushRaw s) := by
  unfold pushRaw
  try dsimp -proj only
  split
  · refine put_rng ?_ ?_
    · refine Rng.set_overflow (by decide +kernel) ?_
      exact RngReg.refl _ _
    · exact Only.refl _ _
  · refine put_rng ?_ ?_
    · refine Rng.set_fifo (by decide +kernel) ?_
      exact RngReg.refl _ _
    · refine Only.then (draw_only ..) (by decide +kernel) ?_
      exact Only.refl _ _

theorem execGateEvaluate_only (queue : ℕ) (s : State) : Only [.sys .wakeDriven, .sys .timeJournal, .port .linkState, .fn .pmeStatus, .fn .vecs, .queue .state, .queue .errReason, .queue .errDetail, .queue .errIndex, .queue .defer, .queue .deferOrder, .queue .headDeferred, .queue .recheck, .queue .copies, .queue .shadowOwed, .queue .fetchFailed, .queue .fetchTried, .pad .haltLog, .pad .haltOverflow, .jn .seq, .jn .deferNext, .jn .rr, .tk .slots, .tk .blobs, .jobs, .cache, .out] s (after s (execGateEvaluate queue s)) := by
  unfold execGateEvaluate
  dsimp -proj only [after]
  split
  · refine Only.then (evaluate_only ..) (by decide +kernel) ?_
    refine put_jn ?_ ?_
    · refine Journal.set_rr (by decide +kernel) ?_
      exact JnReg.refl _ _
    · exact Only.refl _ _
  · exact Only.refl _ _

theorem putDir_only (s : State) (d : Directory) : Only [.hl .dir0, .hl .dir1] s (putDir s d) := by
  unfold putDir
  try dsimp -proj only
  refine put_hl ?_ ?_
  · refine Hayloft.set_dir0_dir1 (by decide +kernel) ?_
    exact HlReg.refl _ _
  · exact Only.refl _ _

theorem startQueue_only (s : State) (q : ℕ) (c : PendEnable) : Only [.sys .timeJournal, .port .linkState, .port .ltrUs, .port .ltrLive, .port .ltrQueue, .queue .state, .queue .remembered, .queue .base, .queue .k, .queue .vector, .queue .wake, .queue .crcReq, .queue .irqEn, .queue .shadowEn, .queue .shadowAddr, .queue .fn, .queue .bx, .queue .p, .queue .a, .queue .t, .queue .gen, .queue .errReason, .queue .errDetail, .queue .errIndex, .queue .defer, .queue .deferOrder, .queue .headDeferred, .queue .recheck, .queue .copies, .queue .heldBell, .queue .shadowOwed, .queue .pend, .queue .fetchFailed, .queue .fetchTried, .queue .standby, .queue .recordedP, .queue .forgetting, .queue .ring, .queue .ringCells, .queue .ringSecret, .jn .seq, .out] s (startQueue s q c) := by
  unfold startQueue
  try dsimp -proj only
  refine Only.then (updateLtr_only ..) (by decide +kernel) ?_
  refine Only.then (writeShadow_only ..) (by decide +kernel) ?_
  refine Only.then (journalWrite_only ..) (by decide +kernel) ?_
  refine putQ_in ?_ ?_
  · refine Queue.set_state_remembered_base_k_vector_wake_crcReq_irqEn_shadowEn_shadowAddr_fn_bx_p_a_t_gen_errReason_errDetail_errIndex_defer_deferOrder_headDeferred_recheck_copies_heldBell_shadowOwed_pend_fetchFailed_fetchTried_standby_recordedP_forgetting_ring_ringCells_ringSecret (by decide +kernel) ?_
    exact QueueReg.refl _ _
  · exact Only.refl _ _

theorem cmdEnable_only (s : State) (n : ℕ) (q : ℕ) (index : ℕ) : Only [.sys .timeJournal, .port .linkState, .port .ltrUs, .port .ltrLive, .port .ltrQueue, .queue .state, .queue .remembered, .queue .base, .queue .k, .queue .vector, .queue .wake, .queue .crcReq, .queue .irqEn, .queue .shadowEn, .queue .shadowAddr, .queue .fn, .queue .bx, .queue .p, .queue .a, .queue .t, .queue .gen, .queue .errReason, .queue .errDetail, .queue .errIndex, .queue .defer, .queue .deferOrder, .queue .headDeferred, .queue .recheck, .queue .copies, .queue .heldBell, .queue .shadowOwed, .queue .pend, .queue .fetchFailed, .queue .fetchTried, .queue .standby, .queue .recordedP, .queue .forgetting, .queue .ring, .queue .ringCells, .queue .ringSecret, .jn .seq, .out] s (cmdEnable s n q index).2 := by
  unfold cmdEnable
  try dsimp -proj only
  split
  · dsimp only
    exact Only.refl _ _
  · split
    · dsimp only
      exact Only.refl _ _
    · split
      · dsimp only
        refine Only.then (startQueue_only ..) (by decide +kernel) ?_
        exact Only.refl _ _
      · dsimp only
        refine Only.then (writeShadow_only ..) (by decide +kernel) ?_
        refine Only.then (journalWrite_only ..) (by decide +kernel) ?_
        refine modQ_in ?_ ?_
        · refine Queue.set_state_pend (by decide +kernel) ?_
          exact QueueReg.refl _ _
        · exact Only.refl _ _

theorem execPendingEnableSwitch_only (queue : ℕ) (s : State) : Only [.sys .wakeDriven, .sys .timeJournal, .port .linkState, .port .ltrUs, .port .ltrLive, .port .ltrQueue, .fn .pmeStatus, .fn .vecs, .queue .state, .queue .remembered, .queue .base, .queue .k, .queue .vector, .queue .wake, .queue .crcReq, .queue .irqEn, .queue .shadowEn, .queue .shadowAddr, .queue .fn, .queue .bx, .queue .p, .queue .a, .queue .t, .queue .gen, .queue .errReason, .queue .errDetail, .queue .errIndex, .queue .defer, .queue .deferOrder, .queue .headDeferred, .queue .recheck, .queue .copies, .queue .heldBell, .queue .shadowOwed, .queue .pend, .queue .fetchFailed, .queue .fetchTried, .queue .standby, .queue .recordedP, .queue .forgetting, .queue .ring, .queue .ringCells, .queue .ringSecret, .pad .haltLog, .pad .haltOverflow, .jn .seq, .out] s (after s (execPendingEnableSwitch queue s)) := by
  unfold execPendingEnableSwitch
  dsimp -proj only [after]
  split
  · split
    · refine Only.then (ringRunning_only ..) (by decide +kernel) ?_
      refine Only.then (startQueue_only ..) (by decide +kernel) ?_
      exact Only.refl _ _
    · exact Only.refl _ _
  · exact Only.refl _ _

theorem forgetDone_only (s : State) (q : ℕ) : Only (Part.allQueue ++ ([.sys .timeJournal, .port .linkState, .port .ltrUs, .port .ltrLive, .port .ltrQueue, .jn .seq, .yard, .out] : List Part)) s (forgetDone s q) := by
  unfold forgetDone
  try dsimp -proj only
  split
  · refine Only.then (disableQueue_only ..) (by decide +kernel) ?_
    exact Only.refl _ _
  · exact Only.refl _ _

theorem execRecordRetire_only (queue : ℕ) (s : State) : Only (Part.retireSilents ++ ([.sys .wakeDriven, .fn .pmeStatus, .fn .vecs, .pad .replayOwed] : List Part)) s (after s (execRecordRetire queue s)) := by
  unfold execRecordRetire
  dsimp -proj only [after]
  refine Only.then (replaysDone_only ..) (by decide +kernel) ?_
  refine Only.then (forgetDone_only ..) (by decide +kernel) ?_
  refine Only.then (retireSilent_only ..) (by decide +kernel) ?_
  refine Only.then (retireEntry_only ..) (by decide +kernel) ?_
  exact Only.refl _ _

theorem holdCompletion_only (s : State) (j : Job) : Only [.sys .wakeDriven, .fn .pmeStatus, .fn .vecs, .jobs, .yard, .out] s (holdCompletion s j) := by
  unfold holdCompletion
  try dsimp -proj only
  split
  · refine Only.then (modJob_only ..) (by decide +kernel) ?_
    exact Only.refl _ _
  · refine Only.then (addWake_only ..) (by decide +kernel) ?_
    refine Only.then (modJob_only ..) (by decide +kernel) ?_
    exact Only.refl _ _

theorem execDoorbellWrite_only (fn : ℕ) (offset : ℕ) (size : ℕ) (value : W64) (s : State) : Only [.sys .wakeDriven, .sys .timeJournal, .port .linkState, .port .doorbells, .fn .pmeStatus, .fn .denied, .fn .vecs, .fn .cmpExpect, .fn .cmpSpoiled, .fn .cmpEq, .fn .cmpNe, .queue .state, .queue .p, .queue .errReason, .queue .errDetail, .queue .errIndex, .queue .defer, .queue .copies, .queue .heldBell, .queue .shadowOwed, .queue .pend, .queue .fetchFailed, .queue .fetchTried, .queue .recordedP, .pad .results, .pad .haltLog, .pad .haltOverflow, .jn .seq, .out] s (after s (execDoorbellWrite fn offset size value s)) := by
  unfold execDoorbellWrite
  dsimp -proj only [after]
  split
  · refine put_port ?_ ?_
    · refine Port.set_doorbells (by decide +kernel) ?_
      exact PortReg.refl _ _
    · exact Only.refl _ _
  · split
    · refine Only.then (bar2Write_only ..) (by decide +kernel) ?_
      exact Only.refl _ _
    · exact Only.refl _ _

theorem execDeferredReevaluate_only (s : State) : Only [.sys .wakeDriven, .sys .timeJournal, .port .linkState, .fn .pmeStatus, .fn .vecs, .queue .state, .queue .errReason, .queue .errDetail, .queue .errIndex, .queue .defer, .queue .deferOrder, .queue .headDeferred, .queue .recheck, .queue .copies, .queue .shadowOwed, .queue .fetchFailed, .queue .fetchTried, .pad .haltLog, .pad .haltOverflow, .jn .seq, .jn .deferNext, .tk .slots, .tk .blobs, .jobs, .cache, .out] s (after s (execDeferredReevaluate s)) := by
  unfold execDeferredReevaluate
  dsimp -proj only [after]
  split
  · split
    · refine Only.then (evaluate_only ..) (by decide +kernel) ?_
      exact Only.refl _ _
    · exact Only.refl _ _
  · exact Only.refl _ _

theorem completeHead_only (s : State) (q : ℕ) : Only [.sys .wakeDriven, .sys .timeJournal, .en .padEnergy, .port .linkState, .fn .pmeStatus, .fn .vecs, .fn .cmpExpect, .fn .cmpSpoiled, .fn .cmpEq, .fn .cmpNe, .queue .ring, .queue .ringSecret, .pad .results, .pad .mrs, .pad .diags, .jn .seq, .tk .slots, .tk .blobs, .core .mem, .jobs, .yard, .out] s (completeHead s q) := by
  unfold completeHead
  try dsimp -proj only
  split
  · exact Only.refl _ _
  · split
    · split
      · split
        · refine Only.then (issueHead_only ..) (by decide +kernel) ?_
          exact Only.refl _ _
        · exact Only.refl _ _
      · exact Only.refl _ _
    · split
      · split
        · refine Only.then (holdCompletion_only ..) (by decide +kernel) ?_
          exact Only.refl _ _
        · exact Only.refl _ _
      · exact Only.refl _ _

theorem execCompletionWrite_only (queue : ℕ) (s : State) : Only [.sys .wakeDriven, .sys .timeJournal, .en .padEnergy, .port .linkState, .fn .pmeStatus, .fn .vecs, .fn .cmpExpect, .fn .cmpSpoiled, .fn .cmpEq, .fn .cmpNe, .queue .ring, .queue .ringSecret, .pad .results, .pad .mrs, .pad .diags, .pad .replayOwed, .jn .seq, .tk .slots, .tk .blobs, .core .mem, .jobs, .yard, .out] s (after s (execCompletionWrite queue s)) := by
  unfold execCompletionWrite
  dsimp -proj only [after]
  refine Only.then (replaysDone_only ..) (by decide +kernel) ?_
  refine Only.then (completeHead_only ..) (by decide +kernel) ?_
  exact Only.refl _ _

theorem setResult_only (s : State) (n : ℕ) (q : ℕ) (cmd : ℕ) (r : ℕ) : Only [.fn .cmdQueue, .fn .cmdCmd, .fn .cmdResult] s (setResult s n q cmd r) := by
  unfold setResult
  try dsimp -proj only
  refine modFn_in ?_ ?_
  · refine Fn.set_cmdQueue_cmdCmd_cmdResult (by decide +kernel) ?_
    exact FnReg.refl _ _
  · exact Only.refl _ _

theorem queueCommand_only {k : List Part} {s : State} {n cmd : ℕ} {value : W64} {act : State → ℕ → ℕ × State}
    (hk : within [.fn .cmdQueue, .fn .cmdCmd, .fn .cmdResult, .fn .cmdLost] k = true) (hf : ∀ t q, Only k t (act t q).2) : Only k s (queueCommand s n value cmd act) := by
  unfold queueCommand
  dsimp -proj only
  split
  · exact Only.refl _ _
  · split
    · exact Only.refl _ _
    · split
      · have hl : Only [.fn .cmdLost] s (modFn s n fun f => { f with cmdLost := true }) :=
          modFn_in (Fn.set_cmdLost (by decide +kernel) (FnReg.refl _ _)) (Only.refl _ _)
        exact (hl.mono (by decide +kernel)).mono hk
      · split
        · exact ((setResult_only ..).mono (by decide +kernel)).mono hk
        · exact (hf _ _).trans (((setResult_only ..).mono (by decide +kernel)).mono hk)

theorem execQEnable_only (fn : ℕ) (value : W64) (s : State) : Only [.sys .timeJournal, .port .linkState, .port .ltrUs, .port .ltrLive, .port .ltrQueue, .fn .cmdQueue, .fn .cmdCmd, .fn .cmdLost, .fn .cmdResult, .queue .state, .queue .remembered, .queue .base, .queue .k, .queue .vector, .queue .wake, .queue .crcReq, .queue .irqEn, .queue .shadowEn, .queue .shadowAddr, .queue .fn, .queue .bx, .queue .p, .queue .a, .queue .t, .queue .gen, .queue .errReason, .queue .errDetail, .queue .errIndex, .queue .defer, .queue .deferOrder, .queue .headDeferred, .queue .recheck, .queue .copies, .queue .heldBell, .queue .shadowOwed, .queue .pend, .queue .fetchFailed, .queue .fetchTried, .queue .standby, .queue .recordedP, .queue .forgetting, .queue .ring, .queue .ringCells, .queue .ringSecret, .jn .seq, .out] s (after s (execQEnable fn value s)) := by
  unfold execQEnable
  dsimp -proj only [after]
  refine queueCommand_only (by decide +kernel) ?_
  intro _ _
  refine Only.then (cmdEnable_only ..) (by decide +kernel) ?_
  exact Only.refl _ _

theorem execQDisable_only (fn : ℕ) (value : W64) (s : State) : Only (Part.drainQueue ++ ([.sys .wakeDriven, .fn .pmeStatus, .fn .vecs, .fn .cmdQueue, .fn .cmdCmd, .fn .cmdLost, .fn .cmdResult, .pad .replayOwed] : List Part)) s (after s (execQDisable fn value s)) := by
  unfold execQDisable
  dsimp -proj only [after]
  refine Only.then (replaysDone_only ..) (by decide +kernel) ?_
  refine queueCommand_only (by decide +kernel) ?_
  intro _ _
  refine Only.then (cmdDisable_only ..) (by decide +kernel) ?_
  exact Only.refl _ _

theorem continueQueue_only (s : State) (q : ℕ) : Only [.sys .timeJournal, .port .linkState, .queue .state, .queue .errReason, .queue .errDetail, .queue .errIndex, .queue .defer, .queue .copies, .queue .shadowOwed, .queue .fetchFailed, .queue .fetchTried, .jn .seq, .out] s (continueQueue s q) := by
  unfold continueQueue
  try dsimp -proj only
  refine Only.then (writeShadow_only ..) (by decide +kernel) ?_
  refine Only.then (journalWrite_only ..) (by decide +kernel) ?_
  refine modQ_in ?_ ?_
  · refine Queue.set_state_errReason_errDetail_errIndex (by decide +kernel) ?_
    refine QueueReg.then (dropCopies_only ..) (by decide +kernel) ?_
    exact QueueReg.refl _ _
  · exact Only.refl _ _

theorem cmdContinue_only (s : State) (n : ℕ) (q : ℕ) : Only [.sys .timeJournal, .port .linkState, .queue .state, .queue .errReason, .queue .errDetail, .queue .errIndex, .queue .defer, .queue .copies, .queue .shadowOwed, .queue .fetchFailed, .queue .fetchTried, .jn .seq, .out] s (cmdContinue s n q).2 := by
  unfold cmdContinue
  try dsimp -proj only
  split
  · dsimp only
    exact Only.refl _ _
  · dsimp only
    refine Only.then (continueQueue_only ..) (by decide +kernel) ?_
    exact Only.refl _ _

theorem execQContinue_only (fn : ℕ) (value : W64) (s : State) : Only [.sys .timeJournal, .port .linkState, .fn .cmdQueue, .fn .cmdCmd, .fn .cmdLost, .fn .cmdResult, .queue .state, .queue .errReason, .queue .errDetail, .queue .errIndex, .queue .defer, .queue .copies, .queue .shadowOwed, .queue .fetchFailed, .queue .fetchTried, .jn .seq, .out] s (after s (execQContinue fn value s)) := by
  unfold execQContinue
  dsimp -proj only [after]
  refine queueCommand_only (by decide +kernel) ?_
  intro _ _
  refine Only.then (cmdContinue_only ..) (by decide +kernel) ?_
  exact Only.refl _ _

theorem execQResume_only (fn : ℕ) (value : W64) (s : State) : Only (Part.drainQueue ++ ([.sys .wakeDriven, .en .padEnergy, .fn .pmeStatus, .fn .denied, .fn .vecs, .fn .cmdQueue, .fn .cmdCmd, .fn .cmdLost, .fn .cmdResult, .fn .cmpExpect, .fn .cmpSpoiled, .fn .cmpEq, .fn .cmpNe, .pad .results, .pad .mrs, .pad .haltLog, .pad .haltOverflow, .pad .diags, .core .mem] : List Part)) s (after s (execQResume fn value s)) := by
  unfold execQResume
  dsimp -proj only [after]
  refine queueCommand_only (by decide +kernel) ?_
  intro _ _
  refine Only.then (cmdResume_only ..) (by decide +kernel) ?_
  exact Only.refl _ _

theorem forgetJob_only (s : State) (j : Job) : Only [.stall .state, .stall .jobs, .stall .reqFault, .stall .reqStop, .stall .reqClaim, .stall .reqYield, .stall .muckFailed, .stall .muckThen, .stall .sequ, .stall .tree, .tk .slots, .tk .blobs, .tk .hbs, .jobs, .yard, .cache] s (forgetJob s j) := by
  unfold forgetJob
  try dsimp -proj only
  split
  · refine Only.then (abandonOn_only ..) (by decide +kernel) ?_
    refine Only.then (releaseClaims_only ..) (by decide +kernel) ?_
    refine Only.then (modJob_only ..) (by decide +kernel) ?_
    exact Only.refl _ _
  · refine Only.then (releaseClaims_only ..) (by decide +kernel) ?_
    refine Only.then (modJob_only ..) (by decide +kernel) ?_
    exact Only.refl _ _

theorem forgetQueue_only (s : State) (q : ℕ) : Only (Part.retireSilents ++ ([.stall .state, .stall .jobs, .stall .reqFault, .stall .reqStop, .stall .reqClaim, .stall .reqYield, .stall .muckFailed, .stall .muckThen, .stall .sequ, .stall .tree] : List Part)) s (forgetQueue s q) := by
  unfold forgetQueue
  try dsimp -proj only
  refine Only.then (forgetDone_only ..) (by decide +kernel) ?_
  refine Only.then (retireSilent_only ..) (by decide +kernel) ?_
  refine Only.foldl _ (fun t x => ?_) ?_
  · refine Only.then (forgetJob_only ..) (by decide +kernel) ?_
    exact Only.refl _ _
  · refine modQ_in ?_ ?_
    · refine Queue.set_forgotten_pend_forgetting (by decide +kernel) ?_
      exact QueueReg.refl _ _
    · refine Only.then (dropHead_only ..) (by decide +kernel) ?_
      exact Only.refl _ _

theorem cmdForget_only (s : State) (n : ℕ) (q : ℕ) : Only (Part.retireSilents ++ ([.stall .state, .stall .jobs, .stall .reqFault, .stall .reqStop, .stall .reqClaim, .stall .reqYield, .stall .muckFailed, .stall .muckThen, .stall .sequ, .stall .tree] : List Part)) s (cmdForget s n q).2 := by
  unfold cmdForget
  try dsimp -proj only
  split
  · dsimp only
    exact Only.refl _ _
  · split
    · dsimp only
      exact Only.refl _ _
    · split
      · dsimp only
        exact Only.refl _ _
      · dsimp only
        refine Only.then (forgetQueue_only ..) (by decide +kernel) ?_
        exact Only.refl _ _

theorem execQForget_only (fn : ℕ) (value : W64) (s : State) : Only (Part.retireSilents ++ ([.sys .wakeDriven, .fn .pmeStatus, .fn .vecs, .fn .cmdQueue, .fn .cmdCmd, .fn .cmdLost, .fn .cmdResult, .pad .replayOwed, .stall .state, .stall .jobs, .stall .reqFault, .stall .reqStop, .stall .reqClaim, .stall .reqYield, .stall .muckFailed, .stall .muckThen, .stall .sequ, .stall .tree] : List Part)) s (after s (execQForget fn value s)) := by
  unfold execQForget
  dsimp -proj only [after]
  refine Only.then (replaysDone_only ..) (by decide +kernel) ?_
  refine queueCommand_only (by decide +kernel) ?_
  intro _ _
  refine Only.then (cmdForget_only ..) (by decide +kernel) ?_
  exact Only.refl _ _

theorem execHaltLogRead_only (fn : ℕ) (s : State) : Only [.port .linkState, .pad .haltLog, .out] s (after s (execHaltLogRead fn s)) := by
  unfold execHaltLogRead
  dsimp -proj only [after]
  split
  · exact Only.refl _ _
  · split
    · refine Only.then (reply_only ..) (by decide +kernel) ?_
      exact Only.refl _ _
    · split
      · refine Only.then (reply_only ..) (by decide +kernel) ?_
        exact Only.refl _ _
      · refine Only.then (reply_only ..) (by decide +kernel) ?_
        refine modPad_in ?_ ?_
        · refine Pad.set_haltLog (by decide +kernel) ?_
          exact PadReg.refl _ _
        · exact Only.refl _ _

theorem loseDrbgs_only (s : State) : Only (Part.allPad ++ ([.rng .ymDrbg] : List Part)) s (loseDrbgs s) := by
  unfold loseDrbgs
  try dsimp -proj only
  refine put_pads_rng ?_ ?_ ?_
  · decide +kernel
  · refine Rng.set_ymDrbg (by decide +kernel) ?_
    exact RngReg.refl _ _
  · exact Only.refl _ _

end Sys2Proof.Machine
end

