-- ==== Sys2Proof/Laws/OnlyUnits.lean ====
section
/-! SUPPORT. OnlyUnits.lean: frames: which registers each operation of State may change, of the random source, cores, tack room, resets, plans, boot, and what faults do. -/

set_option Elab.async false

open Sys2Proof

namespace Sys2Proof.Machine

theorem returnQueues_only (s : State) : Only (Part.allQueue) s (returnQueues s) := by
  unfold returnQueues
  try dsimp -proj only
  split
  · exact Only.refl _ _
  · refine put_queues ?_ ?_
    · decide +kernel
    · exact Only.refl _ _

theorem bootedDir_only (s : State) : Only [.hl .dir0, .hl .dir1] s (bootedDir s) := by
  unfold bootedDir
  try dsimp -proj only
  refine put_hl ?_ ?_
  · refine Hayloft.set_dir0_dir1 (by decide +kernel) ?_
    exact HlReg.refl _ _
  · exact Only.refl _ _

theorem noteSerial_only (s : State) (n : ℕ) : Only [.hl .serials] s (noteSerial s n) := by
  unfold noteSerial
  try dsimp -proj only
  refine put_hl ?_ ?_
  · refine Hayloft.set_serials (by decide +kernel) ?_
    exact HlReg.refl _ _
  · exact Only.refl _ _

theorem applyPlan_only (s : State) (p : Plan) : Only (Part.allPlan ++ ([.lc .debugRecs, .en .cmeas, .stall .inPool, .stall .dedicated, .stall .spare, .hl .serials] : List Part)) s (applyPlan s p) := by
  unfold applyPlan
  try dsimp -proj only
  split
  · refine put_en ?_ ?_
    · refine Energy.set_cmeas (by decide +kernel) ?_
      exact EnReg.refl _ _
    · refine Only.foldl _ (fun t x => ?_) ?_
      · refine modSt_in ?_ ?_
        · split
          · exact StallReg.refl _ _
          · refine Stall.set_inPool_dedicated_spare (by decide +kernel) ?_
            exact StallReg.refl _ _
        · exact Only.refl _ _
      · refine Only.then (setDebugKey_only ..) (by decide +kernel) ?_
        refine Only.then (noteSerial_only ..) (by decide +kernel) ?_
        refine put_plan ?_ ?_
        · exact PlanReg.of_all (by decide +kernel)
        · exact Only.refl _ _
  · refine Only.foldl _ (fun t x => ?_) ?_
    · refine modSt_in ?_ ?_
      · split
        · exact StallReg.refl _ _
        · refine Stall.set_inPool_dedicated_spare (by decide +kernel) ?_
          exact StallReg.refl _ _
      · exact Only.refl _ _
    · refine Only.then (setDebugKey_only ..) (by decide +kernel) ?_
      refine Only.then (noteSerial_only ..) (by decide +kernel) ?_
      refine put_plan ?_ ?_
      · exact PlanReg.of_all (by decide +kernel)
      · exact Only.refl _ _

theorem loadKind_only (s : State) (k : ℕ) : Only (Part.allPlan ++ ([.sys .loaded, .sys .firmware, .sys .fwSlot, .sys .fwBuild, .pl .err, .lc .debugRecs, .en .cmeas, .stall .inPool, .stall .dedicated, .stall .spare, .hl .serials] : List Part)) s (loadKind s k) := by
  unfold loadKind
  try dsimp -proj only
  split
  · refine put_pl ?_ ?_
    · refine PlanCtl.set_err (by decide +kernel) ?_
      exact PlReg.refl _ _
    · exact Only.refl _ _
  · split
    · refine Only.then (noteFirmware_only ..) (by decide +kernel) ?_
      split
      · exact Only.refl _ _
      · refine put_pl ?_ ?_
        · refine PlanCtl.set_err (by decide +kernel) ?_
          exact PlReg.refl _ _
        · exact Only.refl _ _
    · split
      · split
        · split
          · exact Only.refl _ _
          · refine put_pl ?_ ?_
            · refine PlanCtl.set_err (by decide +kernel) ?_
              exact PlReg.refl _ _
            · exact Only.refl _ _
        · refine Only.then (noteLoaded_only ..) (by decide +kernel) ?_
          refine Only.then (applyPlan_only ..) (by decide +kernel) ?_
          split
          · exact Only.refl _ _
          · refine put_pl ?_ ?_
            · refine PlanCtl.set_err (by decide +kernel) ?_
              exact PlReg.refl _ _
            · exact Only.refl _ _
      · refine Only.then (noteLoaded_only ..) (by decide +kernel) ?_
        split
        · exact Only.refl _ _
        · refine put_pl ?_ ?_
          · refine PlanCtl.set_err (by decide +kernel) ?_
            exact PlReg.refl _ _
          · exact Only.refl _ _

theorem loadImages_only (s : State) : Only (Part.allPlan ++ ([.sys .loaded, .sys .firmware, .sys .fwSlot, .sys .fwBuild, .pl .err, .lc .debugRecs, .en .cmeas, .stall .inPool, .stall .dedicated, .stall .spare, .hl .dir0, .hl .dir1, .hl .serials] : List Part)) s (loadImages s) := by
  unfold loadImages
  try dsimp -proj only
  refine Only.then (bootedDir_only ..) (by decide +kernel) ?_
  refine Only.foldl _ (fun t x => ?_) ?_
  · refine Only.then (loadKind_only ..) (by decide +kernel) ?_
    exact Only.refl _ _
  · exact Only.refl _ _

theorem extendYmr_only (s : State) (m : ℕ) (d : Bytes) : Only [.rng .ymr] s (extendYmr s m d) := by
  unfold extendYmr
  try dsimp -proj only
  refine put_rng ?_ ?_
  · refine Rng.set_ymr (by decide +kernel) ?_
    exact RngReg.refl _ _
  · exact Only.refl _ _

theorem redrain_only (s : State) : Only (Part.drainQueue) s (redrain s) := by
  unfold redrain
  try dsimp -proj only
  refine Only.foldl _ (fun t x => ?_) ?_
  · split
    · refine Only.then (drainQueue_only ..) (by decide +kernel) ?_
      exact Only.refl _ _
    · exact Only.refl _ _
  · exact Only.refl _ _

theorem replayAll_only (s : State) (sel : Job → Bool) (useCkpt : Bool) : Only (Part.allPad ++ ([.jobs, .yard] : List Part)) s (replayAll s sel useCkpt) := by
  unfold replayAll
  try dsimp -proj only
  refine put_pads ?_ ?_
  · decide +kernel
  · refine Only.then (setJobs_only ..) (by decide +kernel) ?_
    exact Only.refl _ _

theorem warmReplay_only (s : State) : Only (Part.drainQueue ++ ([.pad .results, .pad .mrs, .pad .haltLog, .pad .haltOverflow, .pad .paused, .pad .inc, .pad .diags, .pad .extendLost, .pad .replayOwed, .pad .waitFor, .pad .containedUs, .pad .resetStalls, .pad .cacheLost] : List Part)) s (warmReplay s) := by
  unfold warmReplay
  try dsimp -proj only
  refine Only.then (redrain_only ..) (by decide +kernel) ?_
  refine Only.foldl _ (fun t x => ?_) ?_
  · refine Only.then (sweepKind_only ..) (by decide +kernel) ?_
    exact Only.refl _ _
  · refine Only.then (replayAll_only ..) (by decide +kernel) ?_
    exact Only.refl _ _

theorem releaseGate_only (s : State) : Only [.fc .out] s (releaseGate s) := by
  unfold releaseGate
  try dsimp -proj only
  refine put_fc ?_ ?_
  · refine Faults.set_out (by decide +kernel) ?_
    exact FcReg.refl _ _
  · exact Only.refl _ _

theorem raiseFloors_only (s : State) : Only [.lc .floorRecs] s (raiseFloors s) := by
  unfold raiseFloors
  try dsimp -proj only
  split
  · exact Only.refl _ _
  · refine Only.then (writeFloors_only ..) (by decide +kernel) ?_
    exact Only.refl _ _

theorem warmOpen_only (s : State) : Only [.sys .wakeDriven, .sys .timeJournal, .lc .floorRecs, .port .linkState, .port .doorbells, .fn .pmeStatus, .fn .denied, .fn .vecs, .fn .cmpExpect, .fn .cmpSpoiled, .fn .cmpEq, .fn .cmpNe, .queue .state, .queue .p, .queue .errReason, .queue .errDetail, .queue .errIndex, .queue .defer, .queue .copies, .queue .heldBell, .queue .shadowOwed, .queue .pend, .queue .fetchFailed, .queue .fetchTried, .queue .recordedP, .pad .results, .pad .haltLog, .pad .haltOverflow, .pad .replayOwed, .jn .opened, .jn .seq, .fc .out, .hl .images, .out] s (warmOpen s) := by
  unfold warmOpen
  try dsimp -proj only
  refine Only.then (runBells_only ..) (by decide +kernel) ?_
  split
  · refine Only.then (mirrorCopies_only ..) (by decide +kernel) ?_
    refine Only.then (raiseFloors_only ..) (by decide +kernel) ?_
    refine Only.then (replaysDone_only ..) (by decide +kernel) ?_
    refine Only.then (releaseGate_only ..) (by decide +kernel) ?_
    refine put_jn ?_ ?_
    · refine Journal.set_opened (by decide +kernel) ?_
      exact JnReg.refl _ _
    · exact Only.refl _ _
  · refine Only.then (replaysDone_only ..) (by decide +kernel) ?_
    refine Only.then (releaseGate_only ..) (by decide +kernel) ?_
    refine put_jn ?_ ?_
    · refine Journal.set_opened (by decide +kernel) ?_
      exact JnReg.refl _ _
    · exact Only.refl _ _

theorem warmRestart_only (s : State) (cause : ℕ) : Only (Part.drainQueue ++ Part.allPlan ++ ([.sys .wakeDriven, .sys .loaded, .sys .firmware, .sys .fwSlot, .sys .fwBuild, .sys .wait, .pl .err, .lc .floorRecs, .lc .debugRecs, .en .cmeas, .port .doorbells, .fn .pmeStatus, .fn .denied, .fn .vecs, .fn .cmpExpect, .fn .cmpSpoiled, .fn .cmpEq, .fn .cmpNe, .pad .results, .pad .mrs, .pad .haltLog, .pad .haltOverflow, .pad .paused, .pad .inc, .pad .diags, .pad .extendLost, .pad .replayOwed, .pad .waitFor, .pad .containedUs, .pad .resetStalls, .pad .cacheLost, .jn .opened, .stall .inPool, .stall .dedicated, .stall .spare, .rng .ready, .rng .stopped, .rng .attempts, .rng .restarting, .rng .ymr, .fc .out, .hl .images, .hl .dir0, .hl .dir1, .hl .serials] : List Part)) s (warmRestart s cause) := by
  unfold warmRestart
  try dsimp -proj only
  split
  · split
    · split
      · refine Only.then (raisePart_only ..) (by decide +kernel) ?_
        refine put_sys ?_ ?_
        · refine Sys.set_wait (by decide +kernel) ?_
          exact SysReg.refl _ _
        · refine Only.then (warmReplay_only ..) (by decide +kernel) ?_
          refine Only.then (causeEnds_only ..) (by decide +kernel) ?_
          refine put_rng ?_ ?_
          · refine Rng.set_ready_stopped_attempts_restarting (by decide +kernel) ?_
            exact RngReg.refl _ _
          · refine Only.then (extendYmr_only ..) (by decide +kernel) ?_
            refine Only.then (returnQueues_only ..) (by decide +kernel) ?_
            refine Only.then (loadImages_only ..) (by decide +kernel) ?_
            exact Only.refl _ _
      · refine Only.then (warmOpen_only ..) (by decide +kernel) ?_
        refine Only.then (warmReplay_only ..) (by decide +kernel) ?_
        refine Only.then (causeEnds_only ..) (by decide +kernel) ?_
        refine put_rng ?_ ?_
        · refine Rng.set_ready_stopped_attempts_restarting (by decide +kernel) ?_
          exact RngReg.refl _ _
        · refine Only.then (extendYmr_only ..) (by decide +kernel) ?_
          refine Only.then (returnQueues_only ..) (by decide +kernel) ?_
          refine Only.then (loadImages_only ..) (by decide +kernel) ?_
          exact Only.refl _ _
    · split
      · refine Only.then (raisePart_only ..) (by decide +kernel) ?_
        refine put_sys ?_ ?_
        · refine Sys.set_wait (by decide +kernel) ?_
          exact SysReg.refl _ _
        · refine Only.then (warmReplay_only ..) (by decide +kernel) ?_
          refine Only.then (reseedWarm_only ..) (by decide +kernel) ?_
          refine Only.then (extendYmr_only ..) (by decide +kernel) ?_
          refine Only.then (returnQueues_only ..) (by decide +kernel) ?_
          refine Only.then (loadImages_only ..) (by decide +kernel) ?_
          exact Only.refl _ _
      · refine Only.then (warmOpen_only ..) (by decide +kernel) ?_
        refine Only.then (warmReplay_only ..) (by decide +kernel) ?_
        refine Only.then (reseedWarm_only ..) (by decide +kernel) ?_
        refine Only.then (extendYmr_only ..) (by decide +kernel) ?_
        refine Only.then (returnQueues_only ..) (by decide +kernel) ?_
        refine Only.then (loadImages_only ..) (by decide +kernel) ?_
        exact Only.refl _ _
  · split
    · split
      · refine Only.then (raisePart_only ..) (by decide +kernel) ?_
        refine put_sys ?_ ?_
        · refine Sys.set_wait (by decide +kernel) ?_
          exact SysReg.refl _ _
        · refine Only.then (warmReplay_only ..) (by decide +kernel) ?_
          refine Only.then (causeEnds_only ..) (by decide +kernel) ?_
          refine put_rng ?_ ?_
          · refine Rng.set_ready_stopped_attempts_restarting (by decide +kernel) ?_
            exact RngReg.refl _ _
          · refine Only.then (extendYmr_only ..) (by decide +kernel) ?_
            exact Only.refl _ _
      · refine Only.then (warmOpen_only ..) (by decide +kernel) ?_
        refine Only.then (warmReplay_only ..) (by decide +kernel) ?_
        refine Only.then (causeEnds_only ..) (by decide +kernel) ?_
        refine put_rng ?_ ?_
        · refine Rng.set_ready_stopped_attempts_restarting (by decide +kernel) ?_
          exact RngReg.refl _ _
        · refine Only.then (extendYmr_only ..) (by decide +kernel) ?_
          exact Only.refl _ _
    · split
      · refine Only.then (raisePart_only ..) (by decide +kernel) ?_
        refine put_sys ?_ ?_
        · refine Sys.set_wait (by decide +kernel) ?_
          exact SysReg.refl _ _
        · refine Only.then (warmReplay_only ..) (by decide +kernel) ?_
          refine Only.then (reseedWarm_only ..) (by decide +kernel) ?_
          refine Only.then (extendYmr_only ..) (by decide +kernel) ?_
          exact Only.refl _ _
      · refine Only.then (warmOpen_only ..) (by decide +kernel) ?_
        refine Only.then (warmReplay_only ..) (by decide +kernel) ?_
        refine Only.then (reseedWarm_only ..) (by decide +kernel) ?_
        refine Only.then (extendYmr_only ..) (by decide +kernel) ?_
        exact Only.refl _ _

theorem warmCause_only (s : State) (cause : ℕ) : Only [.sys .causeCold, .sys .causeWarmSw, .sys .causeWarmFatal, .sys .causeWarmApply] s (warmCause s cause) := by
  unfold warmCause
  try dsimp -proj only
  refine put_sys ?_ ?_
  · refine Sys.set_causeCold_causeWarmSw_causeWarmFatal_causeWarmApply (by decide +kernel) ?_
    exact SysReg.refl _ _
  · exact Only.refl _ _

theorem dropWriting_only (s : State) : Only [.tk .slots, .tk .blobs, .tk .hbs, .tt .txSeq, .tt .unacked, .jobs, .cache, .out] s (dropWriting s) := by
  unfold dropWriting
  try dsimp -proj only
  refine Only.foldl _ (fun t x => ?_) ?_
  · refine Only.then (dropEntry_only ..) (by decide +kernel) ?_
    exact Only.refl _ _
  · exact Only.refl _ _

theorem abandonTransition_only (s : State) : Only [.lc .slots, .lc .busy, .lc .step, .lc .token] s (abandonTransition s) := by
  unfold abandonTransition
  try dsimp -proj only
  split
  · exact Only.refl _ _
  · refine put_lc ?_ ?_
    · refine LifeCycle.set_slots_busy_step_token (by decide +kernel) ?_
      exact LcReg.refl _ _
    · exact Only.refl _ _

theorem abandonSwap_only (s : State) (err : ℕ) : Only [.pl .busy, .pl .phase, .pl .err, .pl .swap, .pl .applying, .pad .paused] s (abandonSwap s err) := by
  unfold abandonSwap
  try dsimp -proj only
  split
  · refine modPad_in ?_ ?_
    · refine Pad.set_paused (by decide +kernel) ?_
      exact PadReg.refl _ _
    · refine put_pl ?_ ?_
      · refine PlanCtl.set_busy_phase_err_swap (by decide +kernel) ?_
        exact PlReg.refl _ _
      · exact Only.refl _ _
  · split
    · refine put_pl ?_ ?_
      · refine PlanCtl.set_busy_phase_err_applying (by decide +kernel) ?_
        exact PlReg.refl _ _
      · exact Only.refl _ _
    · exact Only.refl _ _

theorem stopTest_only (s : State) (n : ℕ) (err : ℕ) : Only [.tt .lanes, .lk .tests, .freeCtr] s (stopTest s n err) := by
  unfold stopTest
  try dsimp -proj only
  split
  · exact Only.refl _ _
  · split
    · refine put_tt ?_ ?_
      · refine Tether.set_lanes (by decide +kernel) ?_
        exact TtReg.refl _ _
      · refine put_lk ?_ ?_
        · refine Links.set_tests (by decide +kernel) ?_
          exact LkReg.refl _ _
        · split
          · refine Only.then (draw_only ..) (by decide +kernel) ?_
            refine Only.then (draw_only ..) (by decide +kernel) ?_
            exact Only.refl _ _
          · exact Only.refl _ _
    · refine put_lk ?_ ?_
      · refine Links.set_tests (by decide +kernel) ?_
        exact LkReg.refl _ _
      · split
        · refine Only.then (draw_only ..) (by decide +kernel) ?_
          refine Only.then (draw_only ..) (by decide +kernel) ?_
          exact Only.refl _ _
        · exact Only.refl _ _

theorem endTests_only (s : State) : Only [.tt .lanes, .lk .tests, .freeCtr] s (endTests s) := by
  unfold endTests
  try dsimp -proj only
  refine Only.foldl _ (fun t x => ?_) ?_
  · refine Only.then (stopTest_only ..) (by decide +kernel) ?_
    exact Only.refl _ _
  · exact Only.refl _ _

theorem endSession_only (s : State) : Only [.dbg .scope, .dbg .padMask] s (endSession s) := by
  unfold endSession
  try dsimp -proj only
  refine put_dbg ?_ ?_
  · refine Debug.set_scope_padMask (by decide +kernel) ?_
    exact DbgReg.refl _ _
  · exact Only.refl _ _

theorem resetStall_only (s : State) (n : ℕ) : Only [.stall .state, .stall .muckouts, .stall .jobs, .stall .reqFault, .stall .reqStop, .stall .reqClaim, .stall .reqYield, .stall .dirty, .stall .muckFailed, .stall .muckThen, .stall .prefEnded, .stall .scrubDue, .stall .reservedFor, .stall .operand, .stall .sequ, .stall .tree] s (resetStall s n) := by
  unfold resetStall
  try dsimp -proj only
  refine modSt_in ?_ ?_
  · split
    · exact StallReg.refl _ _
    · refine Stall.set_state_muckouts_jobs_reqFault_reqStop_reqClaim_reqYield_dirty_muckFailed_muckThen_prefEnded_scrubDue_reservedFor_operand_sequ_tree (by decide +kernel) ?_
      exact StallReg.refl _ _
  · exact Only.refl _ _

theorem setReg_only (c : Core) (r : ℕ) (v : TW) : Keep CoreReg.Same [.w] c (setReg c r v) := by
  unfold setReg
  try dsimp -proj only
  refine Core.set_w (by decide +kernel) ?_
  exact CoreReg.refl _ _

theorem endWait_only (c : Core) (v : ℕ) : Keep CoreReg.Same [.w, .pc, .waiting] c (endWait c v) := by
  unfold endWait
  try dsimp -proj only
  split
  · exact CoreReg.refl _ _
  · refine Core.set_pc_waiting (by decide +kernel) ?_
    refine CoreReg.then (setReg_only ..) (by decide +kernel) ?_
    exact CoreReg.refl _ _

theorem restoreRights_only (s : State) (p : ℕ) : Only [.pad .extendLost] s (restoreRights s p) := by
  unfold restoreRights
  try dsimp -proj only
  split
  · refine modPad_in ?_ ?_
    · refine Pad.set_extendLost (by decide +kernel) ?_
      exact PadReg.refl _ _
    · exact Only.refl _ _
  · exact Only.refl _ _

theorem stopCore_only (s : State) (n : ℕ) : Only [.sys .wakeDriven, .port .linkState, .fn .pmeStatus, .fn .vecs, .pad .extendLost, .core .state, .core .w, .core .pc, .core .waiting, .core .loading, .out] s (stopCore s n) := by
  unfold stopCore
  try dsimp -proj only
  split
  · exact Only.refl _ _
  · split
    · refine Only.then (restoreRights_only ..) (by decide +kernel) ?_
      refine Only.then (raisePad_only ..) (by decide +kernel) ?_
      refine modCore_in ?_ ?_
      · refine Core.set_state_loading (by decide +kernel) ?_
        refine CoreReg.then (endWait_only ..) (by decide +kernel) ?_
        exact CoreReg.refl _ _
      · exact Only.refl _ _
    · refine modCore_in ?_ ?_
      · refine Core.set_state_loading (by decide +kernel) ?_
        refine CoreReg.then (endWait_only ..) (by decide +kernel) ?_
        exact CoreReg.refl _ _
      · exact Only.refl _ _

theorem warmFn_only (f : Fn) : Keep FnReg.Same [.qcRing, .qcLog2, .qcVector, .qcWake, .qcCrcReq, .qcIrqEn, .qcShadowEn, .qcShadowAddr, .cmdQueue, .cmdCmd, .cmdBusy, .cmdLost, .cmdResult, .statSel, .cmpExpect, .cmpSlot, .cmpLen, .cmpGo, .cmpSpoiled, .cmpEq, .cmpNe, .tkSel, .tkSelBlob, .bxImgAddr, .hlLog, .hlEntry, .hlWord, .certSel, .certOff, .latch] f (warmFn f) := by
  unfold warmFn
  try dsimp -proj only
  refine Fn.set_qcRing_qcLog2_qcVector_qcWake_qcCrcReq_qcIrqEn_qcShadowEn_qcShadowAddr_cmdQueue_cmdCmd_cmdBusy_cmdLost_cmdResult_statSel_cmpSlot_cmpLen_cmpGo_cmpSpoiled_tkSel_tkSelBlob_bxImgAddr_hlLog_hlEntry_hlWord_certSel_certOff_latch (by decide +kernel) ?_
  refine FnReg.then (resetCompare_only ..) (by decide +kernel) ?_
  exact FnReg.refl _ _

theorem warmPad_only (x : Pad) : Keep PadReg.Same [.results, .mrs, .haltLog, .haltOverflow, .paused, .extendLost, .waitFor] x (warmPad x) := by
  unfold warmPad
  try dsimp -proj only
  refine Pad.set_results_mrs_haltLog_haltOverflow_paused_extendLost_waitFor (by decide +kernel) ?_
  exact PadReg.refl _ _

theorem warmCore_only (c : Core) : Keep CoreReg.Same [.state, .w, .v, .mlo, .mhi, .quo, .rem, .flg, .vff, .dsp, .pc, .mem, .mul, .div, .rstack, .spill, .codeAt, .codeLen, .dsLow, .dsHigh, .spillAt, .spillLen, .trapVec, .trapActive, .double, .lastCode, .traps, .declass, .boot, .vecUp, .vecOn, .windows, .cmdErr, .waiting, .loading] c (warmCore c) := by
  unfold warmCore
  try dsimp -proj only
  refine Core.set_state_w_v_mlo_mhi_quo_rem_flg_vff_dsp_pc_mem_mul_div_rstack_spill_codeAt_codeLen_dsLow_dsHigh_spillAt_spillLen_trapVec_trapActive_double_lastCode_traps_declass_boot_vecUp_vecOn_windows_cmdErr_waiting_loading (by decide +kernel) ?_
  exact CoreReg.refl _ _

theorem warmStop_only (s : State) (cause : ℕ) : Only (Part.runCore ++ Part.allQueue ++ Part.allLk ++ ([.sys .causeCold, .sys .causeWarmSw, .sys .causeWarmFatal, .sys .causeWarmApply, .pl .imgAddr, .pl .imgLen, .pl .busy, .pl .phase, .pl .err, .pl .swap, .pl .applying, .lc .slots, .lc .busy, .lc .step, .lc .token, .lc .tokenAddr, .lc .tokenLen, .dbg .scope, .dbg .padMask, .fn .cfg, .fn .present, .fn .bme, .fn .dState, .fn .msixEn, .fn .fnMask, .fn .pmeEn, .fn .pmeAtCold, .fn .relaxed, .fn .idOrder, .fn .vecSize, .fn .denied, .fn .errTimeout, .fn .errUrCa, .fn .errPoisoned, .fn .errQueue, .fn .errJob, .fn .evMap, .fn .qcRing, .fn .qcLog2, .fn .qcVector, .fn .qcWake, .fn .qcCrcReq, .fn .qcIrqEn, .fn .qcShadowEn, .fn .qcShadowAddr, .fn .cmdQueue, .fn .cmdCmd, .fn .cmdBusy, .fn .cmdLost, .fn .cmdResult, .fn .statSel, .fn .cmpExpect, .fn .cmpSlot, .fn .cmpLen, .fn .cmpGo, .fn .cmpSpoiled, .fn .cmpEq, .fn .cmpNe, .fn .tkSel, .fn .tkSelBlob, .fn .bxImgAddr, .fn .fcResult, .fn .hlLog, .fn .hlEntry, .fn .hlWord, .fn .certSel, .fn .certOff, .fn .latch, .pad .caps, .pad .curGen, .pad .genDue, .pad .drbg, .pad .results, .pad .mrs, .pad .haltLog, .pad .haltOverflow, .pad .paused, .pad .inc, .pad .snaps, .pad .diags, .pad .replayOwed, .pad .waitFor, .pad .containedUs, .pad .resetStalls, .pad .resetSeed, .pad .cacheLost, .jn .opened, .stall .state, .stall .muckouts, .stall .jobs, .stall .reqFault, .stall .reqStop, .stall .reqClaim, .stall .reqYield, .stall .dirty, .stall .muckFailed, .stall .muckThen, .stall .prefEnded, .stall .scrubDue, .stall .reservedFor, .stall .operand, .stall .sequ, .stall .tree, .tk .slots, .tk .blobs, .tk .hbs, .rng .ready, .rng .rawMode, .rng .cmdErr, .rng .attempts, .rng .fifo, .rng .ymr, .fc .claimed, .fc .testing, .fc .ahead, .tt .lanes, .tt .txSeq, .tt .unacked, .jobs, .cache, .feeds, .scans] : List Part)) s (warmStop s cause) := by
  unfold warmStop
  try dsimp -proj only
  refine put_pl_lc_fns_queues_pads_rng_cores_feeds_fc_lk_scans ?_ ?_ ?_ ?_ ?_ ?_ ?_ ?_ ?_ ?_ ?_ ?_
  · refine PlanCtl.set_imgAddr_imgLen (by decide +kernel) ?_
    exact PlReg.refl _ _
  · refine LifeCycle.set_tokenAddr_tokenLen (by decide +kernel) ?_
    exact LcReg.refl _ _
  · decide +kernel
  · decide +kernel
  · decide +kernel
  · refine Rng.set_cmdErr_ymr (by decide +kernel) ?_
    exact RngReg.refl _ _
  · decide +kernel
  · decide +kernel
  · refine Faults.set_claimed_testing_ahead (by decide +kernel) ?_
    exact FcReg.refl _ _
  · exact LkReg.of_all (by decide +kernel)
  · decide +kernel
  · refine Only.foldl _ (fun t x => ?_) ?_
    · refine Only.then (stopCore_only ..) (by decide +kernel) ?_
      exact Only.refl _ _
    · refine Only.foldl _ (fun t x => ?_) ?_
      · refine Only.then (resetStall_only ..) (by decide +kernel) ?_
        exact Only.refl _ _
      · refine Only.then (clearAllDigests_only ..) (by decide +kernel) ?_
        refine Only.then (endTests_only ..) (by decide +kernel) ?_
        refine Only.then (endSession_only ..) (by decide +kernel) ?_
        refine Only.then (endRaw_only ..) (by decide +kernel) ?_
        refine Only.then (abandonTransition_only ..) (by decide +kernel) ?_
        split
        · refine put_pl ?_ ?_
          · refine PlanCtl.set_busy_phase_applying (by decide +kernel) ?_
            exact PlReg.refl _ _
          · refine Only.then (warmCause_only ..) (by decide +kernel) ?_
            refine Only.then (dropWriting_only ..) (by decide +kernel) ?_
            refine put_jn ?_ ?_
            · refine Journal.set_opened (by decide +kernel) ?_
              exact JnReg.refl _ _
            · exact Only.refl _ _
        · refine Only.then (abandonSwap_only ..) (by decide +kernel) ?_
          refine Only.then (warmCause_only ..) (by decide +kernel) ?_
          refine Only.then (dropWriting_only ..) (by decide +kernel) ?_
          refine put_jn ?_ ?_
          · refine Journal.set_opened (by decide +kernel) ?_
            exact JnReg.refl _ _
          · exact Only.refl _ _

theorem warmReset_only (s : State) (cause : ℕ) : Only (Part.drainQueue ++ Part.allPlan ++ Part.allFn ++ Part.allCore ++ Part.allLk ++ ([.sys .wakeDriven, .sys .loaded, .sys .firmware, .sys .fwSlot, .sys .fwBuild, .sys .wait, .sys .causeCold, .sys .causeWarmSw, .sys .causeWarmFatal, .sys .causeWarmApply, .sys .heldWarm, .pl .imgAddr, .pl .imgLen, .pl .busy, .pl .phase, .pl .err, .pl .swap, .pl .applying, .lc .slots, .lc .floorRecs, .lc .debugRecs, .lc .busy, .lc .step, .lc .token, .lc .tokenAddr, .lc .tokenLen, .dbg .scope, .dbg .padMask, .en .cmeas, .port .doorbells, .pad .results, .pad .mrs, .pad .haltLog, .pad .haltOverflow, .pad .paused, .pad .inc, .pad .diags, .pad .extendLost, .pad .replayOwed, .pad .waitFor, .pad .containedUs, .pad .resetStalls, .pad .cacheLost, .jn .opened, .stall .inPool, .stall .dedicated, .stall .muckouts, .stall .dirty, .stall .prefEnded, .stall .spare, .stall .reservedFor, .stall .operand, .rng .ready, .rng .stopped, .rng .rawMode, .rng .cmdErr, .rng .attempts, .rng .restarting, .rng .fifo, .rng .ymr, .fc .out, .fc .claimed, .fc .testing, .fc .ahead, .hl .images, .hl .dir0, .hl .dir1, .hl .serials, .tt .lanes, .feeds, .scans] : List Part)) s (warmReset s cause) := by
  unfold warmReset
  try dsimp -proj only
  split
  · split
    · exact Only.refl _ _
    · refine Only.then (warmRestart_only ..) (by decide +kernel) ?_
      refine Only.then (warmStop_only ..) (by decide +kernel) ?_
      exact Only.refl _ _
  · split
    · refine put_sys ?_ ?_
      · refine Sys.set_heldWarm (by decide +kernel) ?_
        exact SysReg.refl _ _
      · exact Only.refl _ _
    · exact Only.refl _ _

theorem beforeReset_only (s : State) (p : ℕ) : Only [.pl .busy, .pl .phase, .pl .err, .pl .swap, .pl .applying, .lc .slots, .lc .busy, .lc .step, .lc .token, .dbg .scope, .dbg .padMask, .pad .paused] s (beforeReset s p) := by
  unfold beforeReset
  try dsimp -proj only
  split
  · split
    · refine Only.then (abandonSwap_only ..) (by decide +kernel) ?_
      refine Only.then (abandonTransition_only ..) (by decide +kernel) ?_
      refine Only.then (endSession_only ..) (by decide +kernel) ?_
      exact Only.refl _ _
    · refine Only.then (abandonTransition_only ..) (by decide +kernel) ?_
      refine Only.then (endSession_only ..) (by decide +kernel) ?_
      exact Only.refl _ _
  · refine Only.then (abandonTransition_only ..) (by decide +kernel) ?_
    refine Only.then (endSession_only ..) (by decide +kernel) ?_
    exact Only.refl _ _

theorem wipeCore_only (s : State) (n : ℕ) : Only [.core .mem, .core .rstack, .core .spill, .core .windows] s (wipeCore s n) := by
  unfold wipeCore
  try dsimp -proj only
  refine modCore_in ?_ ?_
  · refine Core.set_mem_rstack_spill_windows (by decide +kernel) ?_
    exact CoreReg.refl _ _
  · exact Only.refl _ _

theorem muckPadStall_only (p : ℕ) (s : State) (n : ℕ) : Only [.stall .state, .stall .jobs, .stall .reqFault, .stall .reqStop, .stall .reqClaim, .stall .reqYield, .stall .muckFailed, .stall .muckThen, .stall .sequ, .stall .tree] s (muckPadStall p s n) := by
  unfold muckPadStall
  try dsimp -proj only
  split
  · refine Only.then (leaveStall_only ..) (by decide +kernel) ?_
    exact Only.refl _ _
  · exact Only.refl _ _

theorem replayPad_only (s : State) (p : ℕ) : Only (Part.allPad ++ ([.jobs, .yard] : List Part)) s (replayPad s p) := by
  unfold replayPad
  try dsimp -proj only
  split
  · refine Only.then (replayAll_only ..) (by decide +kernel) ?_
    exact Only.refl _ _
  · exact Only.refl _ _

theorem reseedReset_only (s : State) (p : ℕ) : Only (Part.request) s (reseedReset s p) := by
  unfold reseedReset
  try dsimp -proj only
  refine Only.then (reseedPad_only ..) (by decide +kernel) ?_
  refine modPad_in ?_ ?_
  · refine Pad.set_resetSeed (by decide +kernel) ?_
    exact PadReg.refl _ _
  · exact Only.refl _ _

theorem lowAgain_only (s : State) (p : ℕ) : Only [.sys .wakeDriven, .port .linkState, .fn .pmeStatus, .fn .vecs, .tk .hbs, .out] s (lowAgain s p) := by
  unfold lowAgain
  try dsimp -proj only
  refine Only.foldl _ (fun t x => ?_) ?_
  · refine Only.then (lowLeaves_only ..) (by decide +kernel) ?_
    refine Only.then (modHbs_only ..) (by decide +kernel) ?_
    exact Only.refl _ _
  · exact Only.refl _ _

theorem paddockReset_only (s : State) (p : ℕ) : Only (Part.drainQueue ++ ([.sys .wakeDriven, .sys .paddockResets, .pl .busy, .pl .phase, .pl .err, .pl .swap, .pl .applying, .lc .slots, .lc .busy, .lc .step, .lc .token, .dbg .scope, .dbg .padMask, .fn .pmeStatus, .fn .vecs, .fn .cmpExpect, .fn .cmpSpoiled, .fn .cmpEq, .fn .cmpNe, .pad .results, .pad .mrs, .pad .haltLog, .pad .haltOverflow, .pad .paused, .pad .inc, .pad .diags, .pad .extendLost, .pad .replayOwed, .pad .waitFor, .pad .containedUs, .pad .resetStalls, .pad .cacheLost, .core .state, .core .w, .core .pc, .core .mem, .core .rstack, .core .spill, .core .windows, .core .waiting, .core .loading] : List Part)) s (paddockReset s p) := by
  unfold paddockReset
  try dsimp -proj only
  split
  · exact Only.refl _ _
  · refine Only.then (recheck_only ..) (by decide +kernel) ?_
    refine Only.then (replaysDone_only ..) (by decide +kernel) ?_
    refine Only.then (redrain_only ..) (by decide +kernel) ?_
    refine Only.foldl _ (fun t x => ?_) ?_
    · refine Only.then (sweepKind_only ..) (by decide +kernel) ?_
      exact Only.refl _ _
    · refine Only.then (lowAgain_only ..) (by decide +kernel) ?_
      refine Only.then (drawGen_only ..) (by decide +kernel) ?_
      refine Only.then (reseedReset_only ..) (by decide +kernel) ?_
      refine Only.then (clearDigests_only ..) (by decide +kernel) ?_
      refine modPad_in ?_ ?_
      · refine Pad.set_genDue_mrs_extendLost_waitFor_resetStalls (by decide +kernel) ?_
        exact PadReg.refl _ _
      · refine Only.foldl _ (fun t x => ?_) ?_
        · refine Only.then (muckPadStall_only ..) (by decide +kernel) ?_
          exact Only.refl _ _
        · refine Only.then (replayPad_only ..) (by decide +kernel) ?_
          refine Only.foldl _ (fun t x => ?_) ?_
          · refine Only.then (wipeCore_only ..) (by decide +kernel) ?_
            refine Only.then (stopCore_only ..) (by decide +kernel) ?_
            exact Only.refl _ _
          · refine Only.then (beforeReset_only ..) (by decide +kernel) ?_
            refine put_sys ?_ ?_
            · refine Sys.set_paddockResets (by decide +kernel) ?_
              exact SysReg.refl _ _
            · exact Only.refl _ _

theorem retireCore_only (s : State) (n : ℕ) : Only [.sys .wakeDriven, .plan .pads, .port .linkState, .fn .pmeStatus, .fn .vecs, .pad .extendLost, .core .state, .core .w, .core .pc, .core .waiting, .core .loading, .core .retired, .fc .retired, .fc .toLog, .hl .retireMap, .out] s (retireCore s n) := by
  unfold retireCore
  try dsimp -proj only
  split
  · exact Only.refl _ _
  · split
    · refine put_plan ?_ ?_
      · refine Plan.set_pads (by decide +kernel) ?_
        exact PlanReg.refl _ _
      · refine Only.then (recordRetired_only ..) (by decide +kernel) ?_
        refine modCore_in ?_ ?_
        · refine Core.set_retired (by decide +kernel) ?_
          exact CoreReg.refl _ _
        · refine Only.then (stopCore_only ..) (by decide +kernel) ?_
          exact Only.refl _ _
    · refine Only.then (recordRetired_only ..) (by decide +kernel) ?_
      refine modCore_in ?_ ?_
      · refine Core.set_retired (by decide +kernel) ?_
        exact CoreReg.refl _ _
      · refine Only.then (stopCore_only ..) (by decide +kernel) ?_
        exact Only.refl _ _

theorem rowMended_only (s : State) (source : ℕ) (row : ℕ) : Only [.fc .out] s (rowMended s source row) := by
  unfold rowMended
  try dsimp -proj only
  split
  · exact Only.refl _ _
  · split
    · split
      · refine Only.then (causeEnds_only ..) (by decide +kernel) ?_
        exact Only.refl _ _
      · exact Only.refl _ _
    · exact Only.refl _ _

theorem loseJob_only (s : State) (j : Job) (status : ℕ) : Only (Part.finishJob) s (loseJob s j status) := by
  unfold loseJob
  try dsimp -proj only
  split
  · split
    · exact Only.refl _ _
    · split
      · refine Only.then (abandonOn_only ..) (by decide +kernel) ?_
        refine Only.then (modJob_only ..) (by decide +kernel) ?_
        exact Only.refl _ _
      · refine Only.then (modJob_only ..) (by decide +kernel) ?_
        exact Only.refl _ _
  · split
    · exact Only.refl _ _
    · refine Only.then (abortJob_only ..) (by decide +kernel) ?_
      exact Only.refl _ _

theorem retireSilents_only (s : State) : Only (Part.retireSilents) s (retireSilents s) := by
  unfold retireSilents
  try dsimp -proj only
  refine Only.foldl _ (fun t x => ?_) ?_
  · refine Only.then (retireSilent_only ..) (by decide +kernel) ?_
    exact Only.refl _ _
  · exact Only.refl _ _

theorem recreateLoads_only (s : State) : Only [.cache] s (recreateLoads s) := by
  unfold recreateLoads
  try dsimp -proj only
  refine Only.foldl _ (fun t x => ?_) ?_
  · split
    · split
      · refine Only.then (putCache_only ..) (by decide +kernel) ?_
        exact Only.refl _ _
      · exact Only.refl _ _
    · exact Only.refl _ _
  · exact Only.refl _ _

theorem loseEntries_only (s : State) (l : List ℕ) : Only (Part.drainQueue) s (loseEntries s l) := by
  unfold loseEntries
  try dsimp -proj only
  refine Only.then (retireSilents_only ..) (by decide +kernel) ?_
  refine Only.then (recreateLoads_only ..) (by decide +kernel) ?_
  refine Only.foldl _ (fun t x => ?_) ?_
  · refine Only.then (modJob_only ..) (by decide +kernel) ?_
    split
    · refine Only.then (abandonOn_only ..) (by decide +kernel) ?_
      exact Only.refl _ _
    · exact Only.refl _ _
  · refine Only.foldl _ (fun t x => ?_) ?_
    · refine Only.then (loseJob_only ..) (by decide +kernel) ?_
      exact Only.refl _ _
    · refine Only.foldl _ (fun t x => ?_) ?_
      · refine Only.then (putCache_only ..) (by decide +kernel) ?_
        exact Only.refl _ _
      · exact Only.refl _ _

theorem dropCacheRow_only (s : State) : Only (Part.drainQueue ++ ([.pad .cacheLost] : List Part)) s (dropCacheRow s) := by
  unfold dropCacheRow
  dsimp -proj only
  split
  · exact Only.refl _ _
  · refine Only.then (loseEntries_only ..) (by decide +kernel) ?_
    refine Only.foldl_snd _ (fun a x => ?_) ?_
    · dsimp only
      exact Only.then (draw_only ..) (by decide +kernel) (Only.refl _ _)
    · dsimp only
      refine modPad_in ?_ ?_
      · exact Pad.set_cacheLost (by decide +kernel) (PadReg.refl _ _)
      · exact Only.then (draw_only ..) (by decide +kernel) (Only.refl _ _)

theorem dropYardRow_only (s : State) (bank : ℕ) (row : ℕ) : Only [.yard, .yardRetired] s (dropYardRow s bank row) := by
  unfold dropYardRow
  try dsimp -proj only
  refine Only.then (fitYard_only ..) (by decide +kernel) ?_
  refine put_yard_yardRetired ?_ ?_ ?_
  · decide +kernel
  · decide +kernel
  · exact Only.refl _ _

theorem retireRow_only (s : State) (source : ℕ) (detail : ℕ) : Only (Part.drainQueue ++ ([.sys .wakeDriven, .fn .cfg, .fn .pmeStatus, .fn .vecs, .fn .cmpExpect, .fn .cmpSpoiled, .fn .cmpEq, .fn .cmpNe, .pad .results, .pad .cacheLost, .tk .lost, .fc .log, .fc .dropped, .fc .severeLost, .fc .overflowed, .fc .out, .fc .buckets, .fc .retired, .fc .corrected, .fc .toLog, .fc .spareRows, .fc .escNow, .fc .retireNow, .hl .retireMap, .yardRetired] : List Part)) s (retireRow s source detail) := by
  unfold retireRow
  try dsimp -proj only
  split
  · exact Only.refl _ _
  · split
    · split
      · refine Only.then (rowMended_only ..) (by decide +kernel) ?_
        refine Only.then (recordRetired_only ..) (by decide +kernel) ?_
        refine put_fc ?_ ?_
        · refine Faults.set_spareRows (by decide +kernel) ?_
          exact FcReg.refl _ _
        · exact Only.refl _ _
      · refine Only.then (recordRetired_only ..) (by decide +kernel) ?_
        refine put_fc ?_ ?_
        · refine Faults.set_spareRows (by decide +kernel) ?_
          exact FcReg.refl _ _
        · exact Only.refl _ _
    · split
      · refine Only.then (report_only ..) (by decide +kernel) ?_
        refine Only.then (recordRetired_only ..) (by decide +kernel) ?_
        refine put_fc ?_ ?_
        · refine Faults.set_spareRows (by decide +kernel) ?_
          exact FcReg.refl _ _
        · exact Only.refl _ _
      · split
        · refine Only.then (report_only ..) (by decide +kernel) ?_
          split
          · refine Only.then (recordRetired_only ..) (by decide +kernel) ?_
            refine put_fc ?_ ?_
            · refine Faults.set_spareRows (by decide +kernel) ?_
              exact FcReg.refl _ _
            · exact Only.refl _ _
          · refine Only.then (loseSlot_only ..) (by decide +kernel) ?_
            refine Only.then (recordRetired_only ..) (by decide +kernel) ?_
            refine put_fc ?_ ?_
            · refine Faults.set_spareRows (by decide +kernel) ?_
              exact FcReg.refl _ _
            · exact Only.refl _ _
        · split
          · refine Only.then (report_only ..) (by decide +kernel) ?_
            refine Only.then (dropCacheRow_only ..) (by decide +kernel) ?_
            refine Only.then (recordRetired_only ..) (by decide +kernel) ?_
            refine put_fc ?_ ?_
            · refine Faults.set_spareRows (by decide +kernel) ?_
              exact FcReg.refl _ _
            · exact Only.refl _ _
          · refine Only.then (report_only ..) (by decide +kernel) ?_
            refine Only.then (dropYardRow_only ..) (by decide +kernel) ?_
            refine Only.then (recordRetired_only ..) (by decide +kernel) ?_
            refine put_fc ?_ ?_
            · refine Faults.set_spareRows (by decide +kernel) ?_
              exact FcReg.refl _ _
            · exact Only.refl _ _

theorem modLane_only (s : State) (n : ℕ) (f : Lane → Lane) : Only [.tt .lanes] s (modLane s n f) := by
  unfold modLane
  try dsimp -proj only
  refine put_tt ?_ ?_
  · refine Tether.set_lanes (by decide +kernel) ?_
    exact TtReg.refl _ _
  · exact Only.refl _ _

theorem stopStalls_only (s : State) : Only [.stall .state, .stall .jobs, .stall .reqFault, .stall .reqStop, .stall .reqClaim, .stall .reqYield, .stall .muckFailed, .stall .muckThen, .stall .sequ, .stall .tree, .jobs, .yard] s (stopStalls s) := by
  unfold stopStalls
  try dsimp -proj only
  refine Only.foldl _ (fun t x => ?_) ?_
  · split
    · refine Only.then (leaveStall_only ..) (by decide +kernel) ?_
      exact Only.refl _ _
    · exact Only.refl _ _
  · refine Only.then (setJobs_only ..) (by decide +kernel) ?_
    exact Only.refl _ _

theorem lanesLost_only (s : State) : Only [.sys .wakeDriven, .sys .ttHbo, .port .linkState, .fn .cfg, .fn .pmeStatus, .fn .vecs, .fn .cmpExpect, .fn .cmpSpoiled, .fn .cmpEq, .fn .cmpNe, .pad .results, .jn .role, .stall .state, .stall .jobs, .stall .reqFault, .stall .reqStop, .stall .reqClaim, .stall .reqYield, .stall .muckFailed, .stall .muckThen, .stall .sequ, .stall .tree, .tk .slots, .tk .blobs, .tk .hbs, .fc .log, .fc .dropped, .fc .severeLost, .fc .overflowed, .fc .out, .fc .buckets, .fc .corrected, .fc .toLog, .fc .escNow, .fc .retireNow, .tt .lanes, .tt .linkUp, .tt .retraining, .tt .txSeq, .tt .unacked, .tt .split, .jobs, .yard, .cache, .out] s (lanesLost s) := by
  unfold lanesLost
  try dsimp -proj only
  split
  · exact Only.refl _ _
  · split
    · refine put_sys_tt ?_ ?_ ?_
      · refine Sys.set_ttHbo (by decide +kernel) ?_
        exact SysReg.refl _ _
      · refine Tether.set_lanes (by decide +kernel) ?_
        exact TtReg.refl _ _
      · refine Only.then (stopStalls_only ..) (by decide +kernel) ?_
        refine Only.then (dropWriting_only ..) (by decide +kernel) ?_
        refine put_jn_tt ?_ ?_ ?_
        · refine Journal.set_role (by decide +kernel) ?_
          exact JnReg.refl _ _
        · refine Tether.set_linkUp_retraining (by decide +kernel) ?_
          exact TtReg.refl _ _
        · exact Only.refl _ _
    · split
      · refine Only.then (report_only ..) (by decide +kernel) ?_
        refine put_tt ?_ ?_
        · refine Tether.set_linkUp_retraining_split (by decide +kernel) ?_
          exact TtReg.refl _ _
        · exact Only.refl _ _
      · refine put_tt ?_ ?_
        · refine Tether.set_linkUp_retraining_split (by decide +kernel) ?_
          exact TtReg.refl _ _
        · exact Only.refl _ _

theorem retransmit_only (s : State) : Only [.tt .retransmits, .out] s (retransmit s) := by
  unfold retransmit
  try dsimp -proj only
  refine Only.foldl _ (fun t x => ?_) ?_
  · refine Only.then (emit_only ..) (by decide +kernel) ?_
    exact Only.refl _ _
  · refine put_tt ?_ ?_
    · refine Tether.set_retransmits (by decide +kernel) ?_
      exact TtReg.refl _ _
    · exact Only.refl _ _

theorem dropLane_only (s : State) (n : ℕ) : Only [.sys .wakeDriven, .sys .ttHbo, .port .linkState, .fn .cfg, .fn .pmeStatus, .fn .vecs, .fn .cmpExpect, .fn .cmpSpoiled, .fn .cmpEq, .fn .cmpNe, .pad .results, .jn .role, .stall .state, .stall .jobs, .stall .reqFault, .stall .reqStop, .stall .reqClaim, .stall .reqYield, .stall .muckFailed, .stall .muckThen, .stall .sequ, .stall .tree, .tk .slots, .tk .blobs, .tk .hbs, .fc .log, .fc .dropped, .fc .severeLost, .fc .overflowed, .fc .out, .fc .buckets, .fc .corrected, .fc .toLog, .fc .escNow, .fc .retireNow, .tt .lanes, .tt .linkUp, .tt .retraining, .tt .retrains, .tt .retransmits, .tt .txSeq, .tt .unacked, .tt .split, .jobs, .yard, .cache, .out] s (dropLane s n) := by
  unfold dropLane
  try dsimp -proj only
  split
  · exact Only.refl _ _
  · split
    · refine Only.then (lanesLost_only ..) (by decide +kernel) ?_
      refine put_tt ?_ ?_
      · refine Tether.set_linkUp (by decide +kernel) ?_
        exact TtReg.refl _ _
      · refine Only.then (modLane_only ..) (by decide +kernel) ?_
        exact Only.refl _ _
    · refine Only.then (retransmit_only ..) (by decide +kernel) ?_
      refine put_tt ?_ ?_
      · refine Tether.set_retrains (by decide +kernel) ?_
        exact TtReg.refl _ _
      · refine Only.then (modLane_only ..) (by decide +kernel) ?_
        exact Only.refl _ _

theorem computeCosts_only (s : State) : Only [.en .recNj, .en .fixedUj] s (computeCosts s) := by
  unfold computeCosts
  try dsimp -proj only
  split
  · exact Only.refl _ _
  · refine put_en ?_ ?_
    · refine Energy.set_recNj_fixedUj (by decide +kernel) ?_
      exact EnReg.refl _ _
    · exact Only.refl _ _

theorem checkChannel_only (s : State) (c : ℕ) : Only [.sys .wakeDriven, .en .recNj, .en .fixedUj, .en .reserveLow, .port .linkState, .fn .pmeStatus, .fn .vecs, .hl .failed0, .hl .failed1, .out] s (checkChannel s c) := by
  unfold checkChannel
  try dsimp -proj only
  refine Only.then (evalReserve_only ..) (by decide +kernel) ?_
  refine Only.then (computeCosts_only ..) (by decide +kernel) ?_
  refine put_hl ?_ ?_
  · split
    · refine Hayloft.set_failed0 (by decide +kernel) ?_
      exact HlReg.refl _ _
    · refine Hayloft.set_failed1 (by decide +kernel) ?_
      exact HlReg.refl _ _
  · exact Only.refl _ _

theorem modTarget_only (s : State) (n : ℕ) (f : Target → Target) : Only [.hl .targets] s (modTarget s n f) := by
  unfold modTarget
  try dsimp -proj only
  refine put_hl ?_ ?_
  · refine Hayloft.set_targets (by decide +kernel) ?_
    exact HlReg.refl _ _
  · exact Only.refl _ _

theorem loseTarget_only (s : State) (n : ℕ) : Only [.sys .wakeDriven, .en .recNj, .en .fixedUj, .en .reserveLow, .port .linkState, .fn .pmeStatus, .fn .vecs, .hl .targets, .hl .failed0, .hl .failed1, .hl .rebuilding, .hl .flushReady, .hl .singleCopy, .out] s (loseTarget s n) := by
  unfold loseTarget
  try dsimp -proj only
  split
  · exact Only.refl _ _
  · refine put_hl ?_ ?_
    · refine Hayloft.set_rebuilding_flushReady_singleCopy (by decide +kernel) ?_
      exact HlReg.refl _ _
    · refine Only.then (checkChannel_only ..) (by decide +kernel) ?_
      refine Only.then (modTarget_only ..) (by decide +kernel) ?_
      exact Only.refl _ _

theorem retireUnit_only (s : State) (source : ℕ) (detail : ℕ) : Only (Part.drainQueue ++ ([.sys .wakeDriven, .sys .ttHbo, .sys .degraded, .plan .pads, .en .recNj, .en .fixedUj, .en .reserveLow, .fn .cfg, .fn .pmeStatus, .fn .vecs, .fn .cmpExpect, .fn .cmpSpoiled, .fn .cmpEq, .fn .cmpNe, .pad .results, .pad .mrs, .pad .haltLog, .pad .haltOverflow, .pad .paused, .pad .inc, .pad .diags, .pad .extendLost, .pad .replayOwed, .pad .waitFor, .pad .containedUs, .pad .resetStalls, .pad .cacheLost, .jn .role, .stall .inPool, .stall .dedicated, .stall .unsound, .stall .dirty, .stall .ratchetCount, .stall .spare, .stall .reservedFor, .stall .muckAtWake, .stall .operand, .tk .lost, .rng .ready, .rng .stopped, .rng .healthy, .rng .isolated, .rng .retired, .rng .attempts, .rng .restarting, .core .state, .core .w, .core .pc, .core .waiting, .core .loading, .core .retired, .fc .log, .fc .dropped, .fc .severeLost, .fc .overflowed, .fc .out, .fc .buckets, .fc .retired, .fc .claimed, .fc .testing, .fc .corrected, .fc .toLog, .fc .spareRows, .fc .escNow, .fc .retireNow, .hl .targets, .hl .failed0, .hl .failed1, .hl .rebuilding, .hl .flushReady, .hl .singleCopy, .hl .retireMap, .tt .lanes, .tt .linkUp, .tt .retraining, .tt .retrains, .tt .retransmits, .tt .split, .yardRetired] : List Part)) s (retireUnit s source detail) := by
  unfold retireUnit
  try dsimp -proj only
  split
  · refine Only.then (retireStall_only ..) (by decide +kernel) ?_
    exact Only.refl _ _
  · split
    · refine Only.then (retireCore_only ..) (by decide +kernel) ?_
      exact Only.refl _ _
    · split
      · refine Only.then (retireRow_only ..) (by decide +kernel) ?_
        exact Only.refl _ _
      · split
        · split
          · exact Only.refl _ _
          · refine Only.then (recordRetired_only ..) (by decide +kernel) ?_
            refine Only.then (retireGroup_only ..) (by decide +kernel) ?_
            exact Only.refl _ _
        · split
          · split
            · exact Only.refl _ _
            · refine Only.then (sourceEnds_only ..) (by decide +kernel) ?_
              refine Only.then (recordRetired_only ..) (by decide +kernel) ?_
              refine Only.then (modLane_only ..) (by decide +kernel) ?_
              refine Only.then (dropLane_only ..) (by decide +kernel) ?_
              exact Only.refl _ _
          · split
            · split
              · exact Only.refl _ _
              · refine Only.then (sourceEnds_only ..) (by decide +kernel) ?_
                refine Only.then (recordRetired_only ..) (by decide +kernel) ?_
                refine Only.then (modTarget_only ..) (by decide +kernel) ?_
                refine Only.then (loseTarget_only ..) (by decide +kernel) ?_
                exact Only.refl _ _
            · exact Only.refl _ _

theorem escalateUnit_only (s : State) (source : ℕ) (kind : ℕ) (charged : Bool) (pad : ℕ) (detail : ℕ) : Only (Part.settle) s (escalateUnit s source kind charged pad detail) := by
  unfold escalateUnit
  try dsimp -proj only
  split
  · split
    · exact Only.refl _ _
    · refine Only.then (warmReset_only ..) (by decide +kernel) ?_
      exact Only.refl _ _
  · split
    · split
      · refine Only.then (paddockReset_only ..) (by decide +kernel) ?_
        exact Only.refl _ _
      · exact Only.refl _ _
    · split
      · exact Only.refl _ _
      · refine Only.then (retireUnit_only ..) (by decide +kernel) ?_
        exact Only.refl _ _

theorem bucketFull_only (s : State) (source : ℕ) (detail : ℕ) : Only (Part.drainQueue ++ ([.sys .wakeDriven, .sys .ttHbo, .sys .degraded, .plan .pads, .en .recNj, .en .fixedUj, .en .reserveLow, .fn .cfg, .fn .pmeStatus, .fn .vecs, .fn .cmpExpect, .fn .cmpSpoiled, .fn .cmpEq, .fn .cmpNe, .pad .results, .pad .mrs, .pad .haltLog, .pad .haltOverflow, .pad .paused, .pad .inc, .pad .diags, .pad .extendLost, .pad .replayOwed, .pad .waitFor, .pad .containedUs, .pad .resetStalls, .pad .cacheLost, .jn .role, .stall .inPool, .stall .dedicated, .stall .unsound, .stall .dirty, .stall .ratchetCount, .stall .spare, .stall .reservedFor, .stall .muckAtWake, .stall .operand, .tk .lost, .rng .ready, .rng .stopped, .rng .healthy, .rng .isolated, .rng .retired, .rng .attempts, .rng .restarting, .core .state, .core .w, .core .pc, .core .waiting, .core .loading, .core .retired, .fc .log, .fc .dropped, .fc .severeLost, .fc .overflowed, .fc .out, .fc .buckets, .fc .retired, .fc .claimed, .fc .testing, .fc .corrected, .fc .toLog, .fc .spareRows, .fc .escNow, .fc .retireNow, .hl .targets, .hl .failed0, .hl .failed1, .hl .rebuilding, .hl .flushReady, .hl .singleCopy, .hl .retireMap, .tt .lanes, .tt .linkUp, .tt .retraining, .tt .retrains, .tt .retransmits, .tt .split, .yardRetired] : List Part)) s (bucketFull s source detail) := by
  unfold bucketFull
  try dsimp -proj only
  split
  · split
    · refine Only.then (loseTarget_only ..) (by decide +kernel) ?_
      refine Only.then (report_only ..) (by decide +kernel) ?_
      exact Only.refl _ _
    · exact Only.refl _ _
  · refine Only.then (retireUnit_only ..) (by decide +kernel) ?_
    exact Only.refl _ _

theorem settleLoop_only (n : ℕ) (s : State) : Only (Part.settle) s (settleLoop n s) := by
  induction n generalizing s with
  | zero => exact Only.refl _ _
  | succ n ih =>
    unfold settleLoop
    split
    · dsimp -proj only
      refine Only.then (ih ..) (by decide +kernel) ?_
      refine Only.then (escalateUnit_only ..) (by decide +kernel) ?_
      refine put_fc ?_ ?_
      · refine Faults.set_escNow (by decide +kernel) ?_
        exact FcReg.refl _ _
      · exact Only.refl _ _
    · split
      · exact Only.refl _ _
      · refine Only.then (ih ..) (by decide +kernel) ?_
        refine Only.then (bucketFull_only ..) (by decide +kernel) ?_
        refine put_fc ?_ ?_
        · dsimp -proj only
          refine Faults.set_retireNow (by decide +kernel) ?_
          exact FcReg.refl _ _
        · exact Only.refl _ _

theorem settle_only (s : State) : Only (Part.settle) s (settle s) := by
  unfold settle
  try dsimp -proj only
  split
  · exact Only.refl _ _
  · refine Only.then (replaysDone_only ..) (by decide +kernel) ?_
    refine Only.then (settleLoop_only ..) (by decide +kernel) ?_
    exact Only.refl _ _

theorem yardLoss_only (s : State) : Only [.stall .state, .stall .jobs, .stall .reqFault, .stall .reqStop, .stall .reqClaim, .stall .reqYield, .stall .muckFailed, .stall .muckThen, .stall .sequ, .stall .tree, .jobs, .yard, .yardRetired, .freeCtr] s (yardLoss s) := by
  unfold yardLoss
  try dsimp -proj only
  split
  · exact Only.refl _ _
  · split
    · refine Only.then (fitYard_only ..) (by decide +kernel) ?_
      refine put_yard_yardRetired ?_ ?_ ?_
      · decide +kernel
      · decide +kernel
      · refine Only.then (draw_only ..) (by decide +kernel) ?_
        exact Only.refl _ _
    · refine Only.then (modJob_only ..) (by decide +kernel) ?_
      split
      · refine Only.then (abandonOn_only ..) (by decide +kernel) ?_
        refine put_yard_yardRetired ?_ ?_ ?_
        · decide +kernel
        · decide +kernel
        · refine Only.then (draw_only ..) (by decide +kernel) ?_
          exact Only.refl _ _
      · refine put_yard_yardRetired ?_ ?_ ?_
        · decide +kernel
        · decide +kernel
        · refine Only.then (draw_only ..) (by decide +kernel) ?_
          exact Only.refl _ _

theorem overtemp_only (s : State) : Only [.en .step, .en .overtemp] s (overtemp s) := by
  unfold overtemp
  try dsimp -proj only
  refine put_en ?_ ?_
  · refine Energy.set_step_overtemp (by decide +kernel) ?_
    exact EnReg.refl _ _
  · exact Only.refl _ _

theorem faultAction_only (s : State) (source : ℕ) (kind : ℕ) (detail : ℕ) : Only (Part.raiseFault) s (faultAction s source kind detail) := by
  unfold faultAction
  try dsimp -proj only
  split
  · split
    · split
      · refine modSt_in ?_ ?_
        · refine Stall.set_ucodeOk (by decide +kernel) ?_
          exact StallReg.refl _ _
        · refine Only.then (makeUnsound_only ..) (by decide +kernel) ?_
          exact Only.refl _ _
      · refine Only.then (makeUnsound_only ..) (by decide +kernel) ?_
        exact Only.refl _ _
    · split
      · refine Only.then (retireStall_only ..) (by decide +kernel) ?_
        exact Only.refl _ _
      · exact Only.refl _ _
  · split
    · refine Only.then (retireRow_only ..) (by decide +kernel) ?_
      exact Only.refl _ _
    · split
      · refine Only.then (yardLoss_only ..) (by decide +kernel) ?_
        exact Only.refl _ _
      · split
        · refine Only.then (stopCore_only ..) (by decide +kernel) ?_
          exact Only.refl _ _
        · exact Only.refl _ _
      · refine Only.then (warmReset_only ..) (by decide +kernel) ?_
        exact Only.refl _ _
      · split
        · exact Only.refl _ _
        · refine Only.then (loseSlot_only ..) (by decide +kernel) ?_
          exact Only.refl _ _
      · split
        · refine Only.then (isolateGroup_only ..) (by decide +kernel) ?_
          exact Only.refl _ _
        · exact Only.refl _ _
      · refine Only.then (overtemp_only ..) (by decide +kernel) ?_
        exact Only.refl _ _
      · split
        · refine Only.then (loseTarget_only ..) (by decide +kernel) ?_
          exact Only.refl _ _
        · exact Only.refl _ _
      · split
        · refine Only.then (modLane_only ..) (by decide +kernel) ?_
          exact Only.refl _ _
        · exact Only.refl _ _
      · split
        · refine Only.then (dropLane_only ..) (by decide +kernel) ?_
          exact Only.refl _ _
        · exact Only.refl _ _
      · exact Only.refl _ _

theorem raiseFault_only (s : State) (source : ℕ) (kind : ℕ) (charged : Bool) (pad : ℕ) (detail : ℕ) : Only (Part.raiseFault) s (raiseFault s source kind charged pad detail) := by
  unfold raiseFault
  try dsimp -proj only
  refine Only.then (faultAction_only ..) (by decide +kernel) ?_
  refine Only.then (report_only ..) (by decide +kernel) ?_
  exact Only.refl _ _

theorem auditAdd_only (s : State) (event : ℕ) (value : ℕ) : Only [.hl .auditLog] s (auditAdd s event value) := by
  unfold auditAdd
  try dsimp -proj only
  refine put_hl ?_ ?_
  · refine Hayloft.set_auditLog (by decide +kernel) ?_
    exact HlReg.refl _ _
  · exact Only.refl _ _

theorem deriveRoots_only (s : State) : Only [.tk .unsealed, .tk .ownerRoot, .tk .jseal, .tk .scrambled] s (deriveRoots s) := by
  unfold deriveRoots
  try dsimp -proj only
  refine put_tk ?_ ?_
  · refine Tack.set_unsealed_ownerRoot_jseal_scrambled (by decide +kernel) ?_
    exact TkReg.refl _ _
  · exact Only.refl _ _

theorem rederive_only (s : State) : Only [.tk .unsealed, .tk .restoring, .tk .ownerRoot, .tk .jseal, .tk .scrambled] s (rederive s) := by
  unfold rederive
  try dsimp -proj only
  split
  · refine put_tk ?_ ?_
    · refine Tack.set_restoring (by decide +kernel) ?_
      exact TkReg.refl _ _
    · refine Only.then (deriveRoots_only ..) (by decide +kernel) ?_
      exact Only.refl _ _
  · exact Only.refl _ _

theorem loseKeyless_only (s : State) : Only (Part.drainQueue) s (loseKeyless s) := by
  unfold loseKeyless
  try dsimp -proj only
  refine Only.then (retireSilents_only ..) (by decide +kernel) ?_
  refine Only.foldl _ (fun t x => ?_) ?_
  · refine Only.then (loseJob_only ..) (by decide +kernel) ?_
    exact Only.refl _ _
  · exact Only.refl _ _

theorem yieldTerm_only (s : State) : Only (Part.allQueue ++ Part.allPad ++ ([.jn .term, .tt .mirror, .tt .mirrorA, .tt .mirrorCaps, .jobs, .yard] : List Part)) s (yieldTerm s) := by
  unfold yieldTerm
  try dsimp -proj only
  split
  · refine Only.then (fitYard_only ..) (by decide +kernel) ?_
    refine put_queues_pads_jobs_jn_tt ?_ ?_ ?_ ?_ ?_ ?_
    · decide +kernel
    · decide +kernel
    · decide +kernel
    · refine Journal.set_term (by decide +kernel) ?_
      exact JnReg.refl _ _
    · refine Tether.set_mirror_mirrorA_mirrorCaps (by decide +kernel) ?_
      exact TtReg.refl _ _
    · exact Only.refl _ _
  · exact Only.refl _ _

theorem reloadBlobs_only (s : State) : Only [.tk .slots, .tk .blobs, .jobs, .yard] s (reloadBlobs s) := by
  unfold reloadBlobs
  try dsimp -proj only
  refine Only.foldl _ (fun t x => ?_) ?_
  · refine Only.foldl _ (fun t x => ?_) ?_
    · split
      · split
        · refine Only.then ((reserveBlob_only ..).get ‹_›) (by decide +kernel) ?_
          exact Only.refl _ _
        · refine Only.then (modJob_only ..) (by decide +kernel) ?_
          refine Only.then ((reserveBlob_only ..).get ‹_›) (by decide +kernel) ?_
          exact Only.refl _ _
      · exact Only.refl _ _
    · exact Only.refl _ _
  · exact Only.refl _ _

theorem openGate_only (s : State) : Only (Part.drainQueue ++ Part.allPlan ++ Part.allFn ++ Part.allCore ++ Part.allLk ++ ([.sys .wakeDriven, .sys .loaded, .sys .firmware, .sys .stage, .sys .bootState, .sys .fwSlot, .sys .fwBuild, .sys .wait, .sys .causeCold, .sys .causeWarmSw, .sys .causeWarmFatal, .sys .causeWarmApply, .sys .heldWarm, .pl .imgAddr, .pl .imgLen, .pl .busy, .pl .phase, .pl .err, .pl .swap, .pl .applying, .lc .slots, .lc .floorRecs, .lc .debugRecs, .lc .busy, .lc .step, .lc .token, .lc .tokenAddr, .lc .tokenLen, .dbg .scope, .dbg .padMask, .en .cmeas, .port .doorbells, .pad .results, .pad .mrs, .pad .haltLog, .pad .haltOverflow, .pad .paused, .pad .inc, .pad .diags, .pad .extendLost, .pad .replayOwed, .pad .waitFor, .pad .containedUs, .pad .resetStalls, .pad .cacheLost, .jn .opened, .stall .inPool, .stall .dedicated, .stall .muckouts, .stall .dirty, .stall .prefEnded, .stall .spare, .stall .reservedFor, .stall .operand, .rng .ready, .rng .stopped, .rng .rawMode, .rng .cmdErr, .rng .attempts, .rng .restarting, .rng .fifo, .rng .ymr, .fc .out, .fc .claimed, .fc .testing, .fc .ahead, .hl .images, .hl .dir0, .hl .dir1, .hl .serials, .tt .lanes, .feeds, .scans] : List Part)) s (openGate s) := by
  unfold openGate
  try dsimp -proj only
  split
  · refine Only.then (warmReset_only ..) (by decide +kernel) ?_
    refine put_sys ?_ ?_
    · refine Sys.set_heldWarm (by decide +kernel) ?_
      exact SysReg.refl _ _
    · refine Only.then (updateLtr_only ..) (by decide +kernel) ?_
      refine Only.then (runBells_only ..) (by decide +kernel) ?_
      refine Only.then (replaysDone_only ..) (by decide +kernel) ?_
      refine Only.then (redrain_only ..) (by decide +kernel) ?_
      refine Only.foldl _ (fun t x => ?_) ?_
      · refine Only.then (sweepKind_only ..) (by decide +kernel) ?_
        exact Only.refl _ _
      · refine Only.then (reloadBlobs_only ..) (by decide +kernel) ?_
        refine Only.then (mirrorCopies_only ..) (by decide +kernel) ?_
        refine Only.then (raiseFloors_only ..) (by decide +kernel) ?_
        refine Only.then (replayAll_only ..) (by decide +kernel) ?_
        refine Only.then (recreateLoads_only ..) (by decide +kernel) ?_
        refine put_pads ?_ ?_
        · decide +kernel
        · refine put_sys_jn ?_ ?_ ?_
          · refine Sys.set_stage_bootState_wait (by decide +kernel) ?_
            exact SysReg.refl _ _
          · refine Journal.set_opened (by decide +kernel) ?_
            exact JnReg.refl _ _
          · exact Only.refl _ _
  · refine Only.then (updateLtr_only ..) (by decide +kernel) ?_
    refine Only.then (runBells_only ..) (by decide +kernel) ?_
    refine Only.then (replaysDone_only ..) (by decide +kernel) ?_
    refine Only.then (redrain_only ..) (by decide +kernel) ?_
    refine Only.foldl _ (fun t x => ?_) ?_
    · refine Only.then (sweepKind_only ..) (by decide +kernel) ?_
      exact Only.refl _ _
    · refine Only.then (reloadBlobs_only ..) (by decide +kernel) ?_
      refine Only.then (mirrorCopies_only ..) (by decide +kernel) ?_
      refine Only.then (raiseFloors_only ..) (by decide +kernel) ?_
      refine Only.then (replayAll_only ..) (by decide +kernel) ?_
      refine Only.then (recreateLoads_only ..) (by decide +kernel) ?_
      refine put_pads ?_ ?_
      · decide +kernel
      · refine put_sys_jn ?_ ?_ ?_
        · refine Sys.set_stage_bootState_wait (by decide +kernel) ?_
          exact SysReg.refl _ _
        · refine Journal.set_opened (by decide +kernel) ?_
          exact JnReg.refl _ _
        · exact Only.refl _ _

theorem bootOpen_only (s : State) : Only (Part.drainQueue ++ Part.allPlan ++ Part.allFn ++ Part.allCore ++ Part.allLk ++ ([.sys .wakeDriven, .sys .loaded, .sys .firmware, .sys .stage, .sys .bootState, .sys .fwSlot, .sys .fwBuild, .sys .wait, .sys .causeCold, .sys .causeWarmSw, .sys .causeWarmFatal, .sys .causeWarmApply, .sys .heldWarm, .pl .imgAddr, .pl .imgLen, .pl .busy, .pl .phase, .pl .err, .pl .swap, .pl .applying, .lc .slots, .lc .floorRecs, .lc .debugRecs, .lc .busy, .lc .step, .lc .token, .lc .tokenAddr, .lc .tokenLen, .dbg .scope, .dbg .padMask, .en .cmeas, .port .doorbells, .pad .results, .pad .mrs, .pad .haltLog, .pad .haltOverflow, .pad .paused, .pad .inc, .pad .diags, .pad .extendLost, .pad .replayOwed, .pad .waitFor, .pad .containedUs, .pad .resetStalls, .pad .cacheLost, .jn .opened, .jn .role, .jn .term, .stall .inPool, .stall .dedicated, .stall .muckouts, .stall .dirty, .stall .prefEnded, .stall .spare, .stall .reservedFor, .stall .operand, .rng .ready, .rng .stopped, .rng .rawMode, .rng .cmdErr, .rng .attempts, .rng .restarting, .rng .fifo, .rng .ymr, .fc .out, .fc .claimed, .fc .testing, .fc .ahead, .hl .images, .hl .dir0, .hl .dir1, .hl .serials, .tt .lanes, .tt .mirror, .tt .mirrorA, .tt .mirrorCaps, .feeds, .scans] : List Part)) s (bootOpen s) := by
  unfold bootOpen
  try dsimp -proj only
  split
  · refine put_sys ?_ ?_
    · refine Sys.set_stage_wait (by decide +kernel) ?_
      exact SysReg.refl _ _
    · exact Only.refl _ _
  · refine Only.then (openGate_only ..) (by decide +kernel) ?_
    refine put_jn ?_ ?_
    · refine Journal.set_role (by decide +kernel) ?_
      exact JnReg.refl _ _
    · refine Only.then (yieldTerm_only ..) (by decide +kernel) ?_
      exact Only.refl _ _

theorem installSlot_only (s : State) (n : ℕ) (x : Slot) : Only [.tk .slots] s (installSlot s n x) := by
  unfold installSlot
  try dsimp -proj only
  refine Only.then (putSlot_only ..) (by decide +kernel) ?_
  exact Only.refl _ _

theorem installObject_only (s : State) (o : ℕ) (l : List ℕ) : Only [.tk .slots, .tk .blobs, .cache] s (installObject s o l) := by
  unfold installObject
  try dsimp -proj only
  split
  · refine Only.then (putCache_only ..) (by decide +kernel) ?_
    exact Only.refl _ _
  · split
    · refine Only.then (installSlot_only ..) (by decide +kernel) ?_
      exact Only.refl _ _
    · refine Only.then (putBlob_only ..) (by decide +kernel) ?_
      exact Only.refl _ _
    · refine Only.foldl _ (fun t x => ?_) ?_
      · split
        · refine Only.then (modSlot_only ..) (by decide +kernel) ?_
          exact Only.refl _ _
        · refine Only.then (modBlob_only ..) (by decide +kernel) ?_
          exact Only.refl _ _
      · exact Only.refl _ _
    · exact Only.refl _ _

theorem bootStop_only (s : State) (st : ℕ) (reason : ℕ) : Only [.sys .bootState, .sys .reason, .sys .wait, .port .linkUp] s (bootStop s st reason) := by
  unfold bootStop
  try dsimp -proj only
  refine put_port ?_ ?_
  · refine Port.set_linkUp (by decide +kernel) ?_
    exact PortReg.refl _ _
  · refine put_sys ?_ ?_
    · refine Sys.set_bootState_reason_wait (by decide +kernel) ?_
      exact SysReg.refl _ _
    · exact Only.refl _ _

theorem startedCore_only (old : Core) (b : Bytes) : Keep CoreReg.Same [.state, .w, .v, .mlo, .mhi, .quo, .rem, .flg, .vff, .dsp, .pc, .mem, .mul, .div, .rstack, .spill, .codeAt, .codeLen, .dsLow, .dsHigh, .spillAt, .spillLen, .trapVec, .trapActive, .double, .traps, .declass, .boot, .vecUp, .vecOn, .windows, .loads, .waiting, .loading] old (startedCore old b) := by
  unfold startedCore
  try dsimp -proj only
  refine Core.set_state_w_v_mlo_mhi_quo_rem_flg_vff_dsp_pc_mem_mul_div_rstack_spill_codeAt_codeLen_dsLow_dsHigh_spillAt_spillLen_trapVec_trapActive_double_traps_declass_boot_vecUp_vecOn_windows_loads_waiting_loading (by decide +kernel) ?_
  exact CoreReg.refl _ _

theorem decodeLedger_only (s : State) : Only [.lc .decoded, .lc .state, .lc .epoch, .lc .ownerDigest, .lc .seq] s (decodeLedger s) := by
  unfold decodeLedger
  try dsimp -proj only
  split
  · refine put_lc ?_ ?_
    · refine LifeCycle.set_decoded_state_epoch_ownerDigest_seq (by decide +kernel) ?_
      exact LcReg.refl _ _
    · exact Only.refl _ _
  · refine put_lc ?_ ?_
    · refine LifeCycle.set_decoded_state_epoch_ownerDigest_seq (by decide +kernel) ?_
      exact LcReg.refl _ _
    · exact Only.refl _ _
  · refine put_lc ?_ ?_
    · refine LifeCycle.set_decoded_state_epoch_ownerDigest_seq (by decide +kernel) ?_
      exact LcReg.refl _ _
    · exact Only.refl _ _

theorem stopAll_only (s : State) (off : List ℕ) : Only (Part.allStall ++ ([.sys .wakeDriven, .sys .timeJournal, .en .shed, .en .reserveLow, .port .linkState, .port .ltrUs, .port .ltrLive, .port .ltrQueue, .fn .pmeStatus, .fn .vecs, .queue .a, .queue .headDeferred, .queue .copies, .queue .shadowOwed, .pad .caps, .pad .genDue, .pad .snaps, .pad .extendLost, .jn .opened, .jn .nextSeq, .jn .seq, .jn .flushFrom, .tk .slots, .tk .blobs, .tk .hbs, .core .state, .core .w, .core .pc, .core .waiting, .core .loading, .hl .boundB, .time, .jobs, .yard, .cache, .out] : List Part)) s (stopAll s off) := by
  unfold stopAll
  try dsimp -proj only
  refine put_en_stalls ?_ ?_ ?_
  · refine Energy.set_shed (by decide +kernel) ?_
    exact EnReg.refl _ _
  · decide +kernel
  · refine Only.foldl _ (fun t x => ?_) ?_
    · refine Only.then (stopCore_only ..) (by decide +kernel) ?_
      exact Only.refl _ _
    · refine Only.then (setJobs_only ..) (by decide +kernel) ?_
      refine put_jn ?_ ?_
      · refine Journal.set_opened_flushFrom (by decide +kernel) ?_
        exact JnReg.refl _ _
      · refine Only.foldl _ (fun t x => ?_) ?_
        · refine Only.then (becomeLive_only ..) (by decide +kernel) ?_
          split
          · exact Only.refl _ _
          · refine Only.then (assign_only ..) (by decide +kernel) ?_
            exact Only.refl _ _
        · exact Only.refl _ _

theorem startFlush_only (s : State) : Only (Part.finishJob ++ ([.sys .wakeDriven, .sys .timeJournal, .dbg .scope, .dbg .padMask, .en .shed, .en .flushNj, .en .flushConv, .en .reserveLow, .en .flushActive, .port .linkUp, .port .linkState, .port .ltrUs, .port .ltrLive, .port .ltrQueue, .fn .pmeStatus, .fn .vecs, .queue .a, .queue .headDeferred, .queue .copies, .queue .shadowOwed, .pad .caps, .pad .genDue, .pad .snaps, .pad .extendLost, .jn .opened, .jn .nextSeq, .jn .seq, .jn .flushFrom, .stall .lastPaddock, .stall .inPool, .stall .dedicated, .stall .muckouts, .stall .runs, .stall .unsound, .stall .dirty, .stall .prefEnded, .stall .ratchet, .stall .ratchetCount, .stall .source, .stall .ucodeOk, .stall .cmdRd, .stall .cmdWr, .stall .spare, .stall .reservedFor, .stall .muckAtWake, .stall .operand, .core .state, .core .w, .core .pc, .core .waiting, .core .loading, .hl .boundB, .tt .lanes, .lk .tests, .time, .out] : List Part)) s (startFlush s) := by
  unfold startFlush
  try dsimp -proj only
  refine put_en_port ?_ ?_ ?_
  · refine Energy.set_flushNj_flushConv (by decide +kernel) ?_
    exact EnReg.refl _ _
  · refine Port.set_linkUp (by decide +kernel) ?_
    exact PortReg.refl _ _
  · refine Only.then (endTests_only ..) (by decide +kernel) ?_
    refine Only.then (endSession_only ..) (by decide +kernel) ?_
    refine put_en ?_ ?_
    · refine Energy.set_flushActive (by decide +kernel) ?_
      exact EnReg.refl _ _
    · refine Only.then (stopAll_only ..) (by decide +kernel) ?_
      exact Only.refl _ _

theorem bootKind_only (s : State) (k : ℕ) : Only [.sys .loaded, .pl .err, .pl .errOffset] s (bootKind s k) := by
  unfold bootKind
  try dsimp -proj only
  split
  · split
    · refine put_pl ?_ ?_
      · refine PlanCtl.set_err_errOffset (by decide +kernel) ?_
        exact PlReg.refl _ _
      · refine Only.then (noteLoaded_only ..) (by decide +kernel) ?_
        exact Only.refl _ _
    · refine Only.then (noteLoaded_only ..) (by decide +kernel) ?_
      exact Only.refl _ _
  · split
    · refine put_pl ?_ ?_
      · refine PlanCtl.set_err_errOffset (by decide +kernel) ?_
        exact PlReg.refl _ _
      · exact Only.refl _ _
    · exact Only.refl _ _

theorem bootRetired_only (s : State) : Only [.sys .wakeDriven, .sys .degraded, .port .linkState, .fn .pmeStatus, .fn .vecs, .stall .state, .rng .retired, .core .retired, .fc .retired, .tt .lanes, .out] s (bootRetired s) := by
  unfold bootRetired
  try dsimp -proj only
  refine Only.foldl _ (fun t x => ?_) ?_
  · refine Only.then (evalDegraded_only ..) (by decide +kernel) ?_
    exact Only.refl _ _
  · refine Only.foldl _ (fun t x => ?_) ?_
    · split
      · refine modSt_in ?_ ?_
        · refine Stall.set_state (by decide +kernel) ?_
          exact StallReg.refl _ _
        · exact Only.refl _ _
      · split
        · refine modCore_in ?_ ?_
          · refine Core.set_retired (by decide +kernel) ?_
            exact CoreReg.refl _ _
          · exact Only.refl _ _
        · split
          · refine put_rng ?_ ?_
            · refine Rng.set_retired (by decide +kernel) ?_
              exact RngReg.refl _ _
            · exact Only.refl _ _
          · split
            · refine put_tt ?_ ?_
              · refine Tether.set_lanes (by decide +kernel) ?_
                exact TtReg.refl _ _
              · exact Only.refl _ _
            · exact Only.refl _ _
    · refine put_fc ?_ ?_
      · refine Faults.set_retired (by decide +kernel) ?_
        exact FcReg.refl _ _
      · exact Only.refl _ _

theorem bootMesh_only (s : State) : Only [.tp .meshPending, .tp .meshOff] s (bootMesh s).2 := by
  unfold bootMesh
  try dsimp -proj only
  dsimp only
  refine put_tp ?_ ?_
  · refine Tamper.set_meshPending_meshOff (by decide +kernel) ?_
    exact TpReg.refl _ _
  · exact Only.refl _ _

theorem trainTether_only (s : State) (b : BootIn) : Only [.sys .wakeDriven, .port .linkState, .fn .cfg, .fn .pmeStatus, .fn .vecs, .fn .cmpExpect, .fn .cmpSpoiled, .fn .cmpEq, .fn .cmpNe, .pad .results, .fc .log, .fc .dropped, .fc .severeLost, .fc .overflowed, .fc .out, .fc .buckets, .fc .corrected, .fc .toLog, .fc .escNow, .fc .retireNow, .tt .lanes, .tt .linkUp, .tt .partnerTerm, .tt .partnerPresent, .out, .freeCtr] s (trainTether s b) := by
  unfold trainTether
  try dsimp -proj only
  refine put_tt ?_ ?_
  · refine Tether.set_linkUp_partnerTerm_partnerPresent (by decide +kernel) ?_
    exact TtReg.refl _ _
  · refine Only.foldl _ (fun t x => ?_) ?_
    · refine Only.then (report_only ..) (by decide +kernel) ?_
      exact Only.refl _ _
    · refine Only.foldl _ (fun t x => ?_) ?_
      · split
        · exact Only.refl _ _
        · refine put_tt ?_ ?_
          · refine Tether.set_lanes (by decide +kernel) ?_
            exact TtReg.refl _ _
          · refine Only.then (draw_only ..) (by decide +kernel) ?_
            exact Only.refl _ _
      · exact Only.refl _ _

theorem bootTwin_only (s : State) (b : BootIn) : Only [.sys .wakeDriven, .pl .err, .port .linkState, .fn .cfg, .fn .pmeStatus, .fn .vecs, .fn .cmpExpect, .fn .cmpSpoiled, .fn .cmpEq, .fn .cmpNe, .pad .results, .fc .log, .fc .dropped, .fc .severeLost, .fc .overflowed, .fc .out, .fc .buckets, .fc .corrected, .fc .toLog, .fc .escNow, .fc .retireNow, .tt .lanes, .tt .linkUp, .tt .partnerTerm, .tt .partnerPresent, .tt .mismatch, .out, .freeCtr] s (bootTwin s b) := by
  unfold bootTwin
  try dsimp -proj only
  split
  · exact Only.refl _ _
  · split
    · refine Only.then (report_only ..) (by decide +kernel) ?_
      refine put_pl_tt ?_ ?_ ?_
      · refine PlanCtl.set_err (by decide +kernel) ?_
        exact PlReg.refl _ _
      · refine Tether.set_mismatch (by decide +kernel) ?_
        exact TtReg.refl _ _
      · refine Only.then (trainTether_only ..) (by decide +kernel) ?_
        exact Only.refl _ _
    · refine Only.then (trainTether_only ..) (by decide +kernel) ?_
      exact Only.refl _ _

theorem passCore_only (s : State) (n : ℕ) : Only [.core .state, .core .w, .core .v, .core .mlo, .core .mhi, .core .quo, .core .rem, .core .flg, .core .vff, .core .dsp, .core .pc, .core .mem, .core .mul, .core .div, .core .rstack, .core .spill, .core .codeAt, .core .codeLen, .core .dsLow, .core .dsHigh, .core .spillAt, .core .spillLen, .core .trapVec, .core .trapActive, .core .double, .core .lastCode, .core .traps, .core .declass, .core .boot, .core .vecUp, .core .vecOn, .core .windows, .core .cmdErr, .core .waiting, .core .loading] s (passCore s n) := by
  unfold passCore
  try dsimp -proj only
  refine modCore_in ?_ ?_
  · refine Core.set_state_w_v_mlo_mhi_quo_rem_flg_vff_dsp_pc_mem_mul_div_rstack_spill_codeAt_codeLen_dsLow_dsHigh_spillAt_spillLen_trapVec_trapActive_double_lastCode_traps_declass_boot_vecUp_vecOn_windows_cmdErr_waiting_loading (by decide +kernel) ?_
    exact CoreReg.refl _ _
  · exact Only.refl _ _

theorem installPartial_only (s : State) (w : PartialPlan) : Only [.plan .pads, .plan .sheds, .pad .containedUs, .stall .dedicated, .stall .spare, .stall .reservedFor, .core .state, .core .w, .core .v, .core .mlo, .core .mhi, .core .quo, .core .rem, .core .flg, .core .vff, .core .dsp, .core .pc, .core .mem, .core .mul, .core .div, .core .rstack, .core .spill, .core .codeAt, .core .codeLen, .core .dsLow, .core .dsHigh, .core .spillAt, .core .spillLen, .core .trapVec, .core .trapActive, .core .double, .core .lastCode, .core .traps, .core .declass, .core .boot, .core .vecUp, .core .vecOn, .core .windows, .core .cmdErr, .core .waiting, .core .loading] s (installPartial s w) := by
  unfold installPartial
  try dsimp -proj only
  refine Only.foldl _ (fun t x => ?_) ?_
  · refine modSt_in ?_ ?_
    · split
      · exact StallReg.refl _ _
      · split
        · refine Stall.set_dedicated (by decide +kernel) ?_
          exact StallReg.refl _ _
        · split
          · refine Stall.set_dedicated_spare_reservedFor (by decide +kernel) ?_
            exact StallReg.refl _ _
          · exact StallReg.refl _ _
    · exact Only.refl _ _
  · split
    · refine modPad_in ?_ ?_
      · refine Pad.set_containedUs (by decide +kernel) ?_
        exact PadReg.refl _ _
      · refine Only.foldl _ (fun t x => ?_) ?_
        · refine Only.then (passCore_only ..) (by decide +kernel) ?_
          exact Only.refl _ _
        · refine put_plan ?_ ?_
          · refine Plan.set_pads_sheds (by decide +kernel) ?_
            exact PlanReg.refl _ _
          · exact Only.refl _ _
    · refine Only.foldl _ (fun t x => ?_) ?_
      · refine Only.then (passCore_only ..) (by decide +kernel) ?_
        exact Only.refl _ _
      · refine put_plan ?_ ?_
        · refine Plan.set_pads_sheds (by decide +kernel) ?_
          exact PlanReg.refl _ _
        · exact Only.refl _ _

theorem bootPartials_only (s : State) : Only [.plan .pads, .plan .sheds, .pad .containedUs, .stall .dedicated, .stall .spare, .stall .reservedFor, .core .state, .core .w, .core .v, .core .mlo, .core .mhi, .core .quo, .core .rem, .core .flg, .core .vff, .core .dsp, .core .pc, .core .mem, .core .mul, .core .div, .core .rstack, .core .spill, .core .codeAt, .core .codeLen, .core .dsLow, .core .dsHigh, .core .spillAt, .core .spillLen, .core .trapVec, .core .trapActive, .core .double, .core .lastCode, .core .traps, .core .declass, .core .boot, .core .vecUp, .core .vecOn, .core .windows, .core .cmdErr, .core .waiting, .core .loading] s (bootPartials s) := by
  unfold bootPartials
  try dsimp -proj only
  refine Only.foldl _ (fun t x => ?_) ?_
  · split
    · refine Only.then (installPartial_only ..) (by decide +kernel) ?_
      exact Only.refl _ _
    · exact Only.refl _ _
  · exact Only.refl _ _

theorem latchAlarm_only (s : State) (bit : ℕ) (resp : ℕ) : Only [.sys .wakeDriven, .port .linkState, .fn .pmeStatus, .fn .vecs, .tp .latched, .tp .response, .tp .alarm, .tp .count, .hl .auditLog, .out] s (latchAlarm s bit resp) := by
  unfold latchAlarm
  try dsimp -proj only
  refine Only.then (auditAdd_only ..) (by decide +kernel) ?_
  refine put_tp ?_ ?_
  · refine Tamper.set_latched_response_alarm_count (by decide +kernel) ?_
    exact TpReg.refl _ _
  · split
    · exact Only.refl _ _
    · refine Only.then (raisePart_only ..) (by decide +kernel) ?_
      exact Only.refl _ _

theorem bootTamper_only (s : State) (bit : ℕ) : Only [.sys .wakeDriven, .sys .bootState, .sys .reason, .sys .wait, .port .linkUp, .port .linkState, .fn .pmeStatus, .fn .vecs, .tp .latched, .tp .response, .tp .tamperHold, .tp .alarm, .tp .count, .hl .auditLog, .out] s (bootTamper s bit) := by
  unfold bootTamper
  try dsimp -proj only
  split
  · refine Only.then (latchAlarm_only ..) (by decide +kernel) ?_
    exact Only.refl _ _
  · split
    · refine Only.then (latchAlarm_only ..) (by decide +kernel) ?_
      exact Only.refl _ _
    · refine Only.then (bootStop_only ..) (by decide +kernel) ?_
      refine put_tp ?_ ?_
      · refine Tamper.set_tamperHold (by decide +kernel) ?_
        exact TpReg.refl _ _
      · refine Only.then (latchAlarm_only ..) (by decide +kernel) ?_
        exact Only.refl _ _

theorem coldQueue_only (x : Queue) : Keep QueueReg.Same [.state, .remembered, .defer, .deferOrder, .recheck, .copies, .heldBell, .shadowOwed, .fetchFailed, .fetchTried] x (coldQueue x) := by
  unfold coldQueue
  try dsimp -proj only
  split
  · exact QueueReg.refl _ _
  · refine Queue.set_state_remembered_deferOrder_recheck_heldBell_shadowOwed (by decide +kernel) ?_
    refine QueueReg.then (dropCopies_only ..) (by decide +kernel) ?_
    exact QueueReg.refl _ _

theorem restoreFlush_only (s : State) : Only (Part.allQueue ++ Part.allPad ++ ([.jn .fromFlush, .jn .term, .jn .nextSeq, .jn .seq, .hl .flush, .tt .mirror, .tt .mirrorA, .jobs, .yard] : List Part)) s (restoreFlush s) := by
  unfold restoreFlush
  try dsimp -proj only
  refine Only.then (fitYard_only ..) (by decide +kernel) ?_
  refine put_queues_pads_jobs_jn_hl_tt ?_ ?_ ?_ ?_ ?_ ?_ ?_
  · decide +kernel
  · decide +kernel
  · decide +kernel
  · refine Journal.set_fromFlush_term_nextSeq_seq (by decide +kernel) ?_
    exact JnReg.refl _ _
  · refine Hayloft.set_flush (by decide +kernel) ?_
    exact HlReg.refl _ _
  · refine Tether.set_mirror_mirrorA (by decide +kernel) ?_
    exact TtReg.refl _ _
  · exact Only.refl _ _

theorem resumeHbs_only (s : State) : Only [.sys .wakeDriven, .port .linkState, .fn .pmeStatus, .fn .vecs, .tk .hbs, .out] s (resumeHbs s) := by
  unfold resumeHbs
  try dsimp -proj only
  refine Only.foldl _ (fun t x => ?_) ?_
  · refine Only.then (lowLeaves_only ..) (by decide +kernel) ?_
    refine Only.then (startRefill_only ..) (by decide +kernel) ?_
    exact Only.refl _ _
  · refine put_tk ?_ ?_
    · refine Tack.set_hbs (by decide +kernel) ?_
      exact TkReg.refl _ _
    · exact Only.refl _ _

theorem loseLapsed_only (s : State) : Only (Part.finishJob) s (loseLapsed s) := by
  unfold loseLapsed
  try dsimp -proj only
  refine Only.foldl _ (fun t x => ?_) ?_
  · split
    · refine Only.then (loseJob_only ..) (by decide +kernel) ?_
      exact Only.refl _ _
    · split
      · refine Only.then (loseJob_only ..) (by decide +kernel) ?_
        exact Only.refl _ _
      · exact Only.refl _ _
  · exact Only.refl _ _

theorem recoverJournal_only (s : State) (b : BootIn) : Only (Part.finishJob ++ Part.allQueue ++ Part.allPad ++ ([.sys .wakeDriven, .port .linkState, .fn .cfg, .fn .pmeStatus, .fn .vecs, .fn .cmpExpect, .fn .cmpSpoiled, .fn .cmpEq, .fn .cmpNe, .jn .bank0, .jn .bank1, .jn .fromFlush, .jn .lost, .jn .term, .jn .nextSeq, .jn .seq, .jn .held, .fc .log, .fc .dropped, .fc .severeLost, .fc .overflowed, .fc .out, .fc .buckets, .fc .corrected, .fc .toLog, .fc .escNow, .fc .retireNow, .hl .flush, .hl .boundB, .tt .mirror, .tt .mirrorA, .out] : List Part)) s (recoverJournal s b) := by
  unfold recoverJournal
  try dsimp -proj only
  refine Only.then (resumeHbs_only ..) (by decide +kernel) ?_
  split
  · refine Only.then (raiseBound_only ..) (by decide +kernel) ?_
    refine put_jn ?_ ?_
    · refine Journal.set_bank0_bank1_nextSeq_held (by decide +kernel) ?_
      exact JnReg.refl _ _
    · exact Only.refl _ _
  · refine Only.then (loseLapsed_only ..) (by decide +kernel) ?_
    refine Only.then (raiseBound_only ..) (by decide +kernel) ?_
    refine put_jn ?_ ?_
    · refine Journal.set_bank0_bank1_nextSeq_held (by decide +kernel) ?_
      exact JnReg.refl _ _
    · split
      · refine Only.then (restoreFlush_only ..) (by decide +kernel) ?_
        exact Only.refl _ _
      · refine Only.then (report_only ..) (by decide +kernel) ?_
        refine Only.then (fitYard_only ..) (by decide +kernel) ?_
        refine put_queues_pads_jobs_jn ?_ ?_ ?_ ?_ ?_
        · decide +kernel
        · decide +kernel
        · decide +kernel
        · refine Journal.set_lost_nextSeq (by decide +kernel) ?_
          exact JnReg.refl _ _
        · exact Only.refl _ _

theorem unsealTack_only (s : State) : Only [.tk .slots, .tk .blobs, .tk .unsealed, .tk .restoring, .tk .maskDraw, .tk .permDraw, .tk .ownerRoot, .tk .jseal, .tk .scrambled, .jobs, .yard, .freeCtr] s (unsealTack s) := by
  unfold unsealTack
  try dsimp -proj only
  refine Only.then (reloadBlobs_only ..) (by decide +kernel) ?_
  refine put_tk ?_ ?_
  · refine Tack.set_restoring (by decide +kernel) ?_
    exact TkReg.refl _ _
  · refine put_tk_freeCtr ?_ ?_ ?_
    · refine Tack.set_slots_blobs_maskDraw_permDraw (by decide +kernel) ?_
      exact TkReg.refl _ _
    · decide +kernel
    · refine Only.then (deriveRoots_only ..) (by decide +kernel) ?_
      exact Only.refl _ _

theorem readCaps_only (s : State) (n : ℕ) (b : Bytes) : Only [.pad .caps, .tt .mirrorCaps] s (readCaps s n b) := by
  induction n generalizing s b with
  | zero => exact Only.refl _ _
  | succ n ih =>
    unfold readCaps
    split
    · exact Only.refl _ _
    · refine Only.trans ?_ (ih _ _)
      dsimp -proj only
      split
      · exact modPad_in (Pad.set_caps (by decide +kernel) (PadReg.refl _ _)) (Only.refl _ _)
      · exact put_tt (Tether.set_mirrorCaps (by decide +kernel) (TtReg.refl _ _)) (Only.refl _ _)

theorem openCaps_only (s : State) : SomeOnly [.pad .caps, .tt .mirrorCaps] s (openCaps s) :=
  ⟨fun h => by
    obtain ⟨b, _, rfl⟩ := Option.map_eq_some_iff.mp h
    exact readCaps_only ..⟩

theorem bootRandom_only (s : State) (b : BootIn) : Only (Part.drainQueue ++ Part.allPlan ++ Part.allFn ++ Part.allCore ++ Part.allLk ++ ([.sys .wakeDriven, .sys .loaded, .sys .firmware, .sys .stage, .sys .bootState, .sys .fwSlot, .sys .fwBuild, .sys .wait, .sys .causeCold, .sys .causeWarmSw, .sys .causeWarmFatal, .sys .causeWarmApply, .sys .heldWarm, .pl .imgAddr, .pl .imgLen, .pl .busy, .pl .phase, .pl .err, .pl .swap, .pl .applying, .lc .slots, .lc .floorRecs, .lc .debugRecs, .lc .busy, .lc .step, .lc .token, .lc .tokenAddr, .lc .tokenLen, .dbg .scope, .dbg .padMask, .en .cmeas, .port .doorbells, .pad .results, .pad .mrs, .pad .haltLog, .pad .haltOverflow, .pad .paused, .pad .inc, .pad .diags, .pad .extendLost, .pad .replayOwed, .pad .waitFor, .pad .containedUs, .pad .resetStalls, .pad .cacheLost, .jn .opened, .jn .role, .jn .term, .stall .inPool, .stall .dedicated, .stall .muckouts, .stall .dirty, .stall .prefEnded, .stall .ratchetCount, .stall .spare, .stall .reservedFor, .stall .operand, .rng .ready, .rng .stopped, .rng .rawMode, .rng .katOk, .rng .healthy, .rng .isolated, .rng .cmdErr, .rng .attempts, .rng .restarting, .rng .fifo, .rng .ymr, .fc .log, .fc .dropped, .fc .severeLost, .fc .overflowed, .fc .out, .fc .buckets, .fc .claimed, .fc .testing, .fc .ahead, .fc .corrected, .fc .toLog, .fc .escNow, .fc .retireNow, .hl .images, .hl .dir0, .hl .dir1, .hl .serials, .tt .lanes, .tt .mirror, .tt .mirrorA, .tt .mirrorCaps, .feeds, .scans] : List Part)) s (bootRandom s b) := by
  unfold bootRandom
  try dsimp -proj only
  split
  · refine Only.then (bootOpen_only ..) (by decide +kernel) ?_
    refine Only.then (runStartup_only ..) (by decide +kernel) ?_
    exact Only.refl _ _
  · refine put_sys ?_ ?_
    · refine Sys.set_wait (by decide +kernel) ?_
      exact SysReg.refl _ _
    · refine Only.then (runStartup_only ..) (by decide +kernel) ?_
      exact Only.refl _ _

theorem bootUnseal_only (s : State) (b : BootIn) : Only (Part.drainQueue ++ Part.allPlan ++ Part.allFn ++ Part.allCore ++ Part.allLk ++ ([.sys .wakeDriven, .sys .loaded, .sys .firmware, .sys .stage, .sys .bootState, .sys .reason, .sys .fwSlot, .sys .fwBuild, .sys .wait, .sys .causeCold, .sys .causeWarmSw, .sys .causeWarmFatal, .sys .causeWarmApply, .sys .heldWarm, .pl .imgAddr, .pl .imgLen, .pl .busy, .pl .phase, .pl .err, .pl .swap, .pl .applying, .lc .slots, .lc .floorRecs, .lc .debugRecs, .lc .busy, .lc .step, .lc .token, .lc .tokenAddr, .lc .tokenLen, .dbg .scope, .dbg .padMask, .en .cmeas, .port .linkUp, .port .doorbells, .pad .results, .pad .mrs, .pad .haltLog, .pad .haltOverflow, .pad .paused, .pad .inc, .pad .diags, .pad .extendLost, .pad .replayOwed, .pad .waitFor, .pad .containedUs, .pad .resetStalls, .pad .cacheLost, .jn .opened, .jn .role, .jn .term, .stall .inPool, .stall .dedicated, .stall .muckouts, .stall .dirty, .stall .prefEnded, .stall .ratchetCount, .stall .spare, .stall .reservedFor, .stall .operand, .tk .unsealed, .tk .restoring, .tk .permDraw, .tk .ownerRoot, .tk .jseal, .tk .scrambled, .rng .ready, .rng .stopped, .rng .rawMode, .rng .katOk, .rng .healthy, .rng .isolated, .rng .cmdErr, .rng .attempts, .rng .restarting, .rng .fifo, .rng .ymr, .fc .log, .fc .dropped, .fc .severeLost, .fc .overflowed, .fc .out, .fc .buckets, .fc .claimed, .fc .testing, .fc .ahead, .fc .corrected, .fc .toLog, .fc .escNow, .fc .retireNow, .tp .latched, .tp .response, .tp .tamperHold, .tp .alarm, .tp .count, .hl .images, .hl .dir0, .hl .dir1, .hl .auditLog, .hl .serials, .tt .lanes, .tt .mirror, .tt .mirrorA, .tt .mirrorCaps, .feeds, .scans] : List Part)) s (bootUnseal s b) := by
  have h1 : Only (Part.drainQueue ++ Part.allPlan ++ Part.allFn ++ Part.allCore ++ Part.allLk ++ ([.sys .wakeDriven, .sys .loaded, .sys .firmware, .sys .stage, .sys .bootState, .sys .reason, .sys .fwSlot, .sys .fwBuild, .sys .wait, .sys .causeCold, .sys .causeWarmSw, .sys .causeWarmFatal, .sys .causeWarmApply, .sys .heldWarm, .pl .imgAddr, .pl .imgLen, .pl .busy, .pl .phase, .pl .err, .pl .swap, .pl .applying, .lc .slots, .lc .floorRecs, .lc .debugRecs, .lc .busy, .lc .step, .lc .token, .lc .tokenAddr, .lc .tokenLen, .dbg .scope, .dbg .padMask, .en .cmeas, .port .linkUp, .port .doorbells, .pad .results, .pad .mrs, .pad .haltLog, .pad .haltOverflow, .pad .paused, .pad .inc, .pad .diags, .pad .extendLost, .pad .replayOwed, .pad .waitFor, .pad .containedUs, .pad .resetStalls, .pad .cacheLost, .jn .opened, .jn .role, .jn .term, .stall .inPool, .stall .dedicated, .stall .muckouts, .stall .dirty, .stall .prefEnded, .stall .ratchetCount, .stall .spare, .stall .reservedFor, .stall .operand, .tk .unsealed, .tk .restoring, .tk .permDraw, .tk .ownerRoot, .tk .jseal, .tk .scrambled, .rng .ready, .rng .stopped, .rng .rawMode, .rng .katOk, .rng .healthy, .rng .isolated, .rng .cmdErr, .rng .attempts, .rng .restarting, .rng .fifo, .rng .ymr, .fc .log, .fc .dropped, .fc .severeLost, .fc .overflowed, .fc .out, .fc .buckets, .fc .claimed, .fc .testing, .fc .ahead, .fc .corrected, .fc .toLog, .fc .escNow, .fc .retireNow, .tp .latched, .tp .response, .tp .tamperHold, .tp .alarm, .tp .count, .hl .images, .hl .dir0, .hl .dir1, .hl .auditLog, .hl .serials, .tt .lanes, .tt .mirror, .tt .mirrorA, .tt .mirrorCaps, .feeds, .scans] : List Part)) s (if 1 ≤ s.lc.state ∧ s.lc.state ≤ 4 then unsealTack s else s) := by
    split
    · exact Only.then (unsealTack_only ..) (by decide +kernel) (Only.refl _ _)
    · exact Only.refl _ _
  unfold bootUnseal
  dsimp -proj only
  split
  · exact Only.then (bootTamper_only ..) (by decide +kernel) (Only.refl _ _)
  · rename_i s2 h
    refine Only.then (bootRandom_only ..) (by decide +kernel) ?_
    refine put_sys (Sys.set_stage (by decide +kernel) (SysReg.refl _ _)) ?_
    split at h
    · exact Only.then ((openCaps_only _).get h) (by decide +kernel) h1
    · exact Option.some.inj h ▸ h1

theorem bootJournal_only (s : State) (b : BootIn) : Only (Part.drainQueue ++ Part.allPlan ++ Part.allFn ++ Part.allCore ++ Part.allLk ++ ([.sys .wakeDriven, .sys .loaded, .sys .firmware, .sys .stage, .sys .bootState, .sys .reason, .sys .fwSlot, .sys .fwBuild, .sys .wait, .sys .causeCold, .sys .causeWarmSw, .sys .causeWarmFatal, .sys .causeWarmApply, .sys .heldWarm, .pl .imgAddr, .pl .imgLen, .pl .busy, .pl .phase, .pl .err, .pl .swap, .pl .applying, .lc .slots, .lc .floorRecs, .lc .debugRecs, .lc .busy, .lc .step, .lc .token, .lc .tokenAddr, .lc .tokenLen, .dbg .scope, .dbg .padMask, .en .cmeas, .port .linkUp, .port .doorbells, .pad .results, .pad .mrs, .pad .haltLog, .pad .haltOverflow, .pad .paused, .pad .inc, .pad .diags, .pad .extendLost, .pad .replayOwed, .pad .waitFor, .pad .containedUs, .pad .resetStalls, .pad .cacheLost, .jn .opened, .jn .bank0, .jn .bank1, .jn .fromFlush, .jn .lost, .jn .role, .jn .term, .jn .nextSeq, .jn .held, .stall .inPool, .stall .dedicated, .stall .muckouts, .stall .dirty, .stall .prefEnded, .stall .ratchetCount, .stall .spare, .stall .reservedFor, .stall .operand, .tk .unsealed, .tk .restoring, .tk .permDraw, .tk .ownerRoot, .tk .jseal, .tk .scrambled, .rng .ready, .rng .stopped, .rng .rawMode, .rng .katOk, .rng .healthy, .rng .isolated, .rng .cmdErr, .rng .attempts, .rng .restarting, .rng .fifo, .rng .ymr, .fc .log, .fc .dropped, .fc .severeLost, .fc .overflowed, .fc .out, .fc .buckets, .fc .claimed, .fc .testing, .fc .ahead, .fc .corrected, .fc .toLog, .fc .escNow, .fc .retireNow, .tp .latched, .tp .response, .tp .tamperHold, .tp .alarm, .tp .count, .hl .images, .hl .dir0, .hl .dir1, .hl .flush, .hl .auditLog, .hl .boundB, .hl .serials, .tt .lanes, .tt .mirror, .tt .mirrorA, .tt .mirrorCaps, .feeds, .scans] : List Part)) s (bootJournal s b) := by
  unfold bootJournal
  try dsimp -proj only
  split
  · refine put_sys ?_ ?_
    · refine Sys.set_wait (by decide +kernel) ?_
      exact SysReg.refl _ _
    · exact Only.refl _ _
  · refine Only.then (bootUnseal_only ..) (by decide +kernel) ?_
    refine put_sys ?_ ?_
    · refine Sys.set_stage (by decide +kernel) ?_
      exact SysReg.refl _ _
    · refine Only.then (recoverJournal_only ..) (by decide +kernel) ?_
      exact Only.refl _ _

theorem firstReserve_only (s : State) : Only [.sys .wakeDriven, .en .reserveLow, .port .linkState, .fn .pmeStatus, .fn .vecs, .out] s (firstReserve s) := by
  unfold firstReserve
  try dsimp -proj only
  split
  · refine Only.then (raisePart_only ..) (by decide +kernel) ?_
    refine put_en ?_ ?_
    · refine Energy.set_reserveLow (by decide +kernel) ?_
      exact EnReg.refl _ _
    · exact Only.refl _ _
  · refine put_en ?_ ?_
    · refine Energy.set_reserveLow (by decide +kernel) ?_
      exact EnReg.refl _ _
    · exact Only.refl _ _

theorem bootReserve_only (s : State) (b : BootIn) : Only (Part.drainQueue ++ Part.allPlan ++ Part.allFn ++ Part.allCore ++ Part.allLk ++ ([.sys .wakeDriven, .sys .loaded, .sys .firmware, .sys .stage, .sys .bootState, .sys .reason, .sys .fwSlot, .sys .fwBuild, .sys .wait, .sys .causeCold, .sys .causeWarmSw, .sys .causeWarmFatal, .sys .causeWarmApply, .sys .heldWarm, .pl .imgAddr, .pl .imgLen, .pl .busy, .pl .phase, .pl .err, .pl .swap, .pl .applying, .lc .slots, .lc .floorRecs, .lc .debugRecs, .lc .busy, .lc .step, .lc .token, .lc .tokenAddr, .lc .tokenLen, .dbg .scope, .dbg .padMask, .en .cmeas, .en .reserveLow, .port .linkUp, .port .doorbells, .pad .results, .pad .mrs, .pad .haltLog, .pad .haltOverflow, .pad .paused, .pad .inc, .pad .diags, .pad .extendLost, .pad .replayOwed, .pad .waitFor, .pad .containedUs, .pad .resetStalls, .pad .cacheLost, .jn .opened, .jn .bank0, .jn .bank1, .jn .fromFlush, .jn .lost, .jn .role, .jn .term, .jn .nextSeq, .jn .held, .stall .inPool, .stall .dedicated, .stall .muckouts, .stall .dirty, .stall .prefEnded, .stall .ratchetCount, .stall .spare, .stall .reservedFor, .stall .operand, .tk .unsealed, .tk .restoring, .tk .permDraw, .tk .ownerRoot, .tk .jseal, .tk .scrambled, .rng .ready, .rng .stopped, .rng .rawMode, .rng .katOk, .rng .healthy, .rng .isolated, .rng .cmdErr, .rng .attempts, .rng .restarting, .rng .fifo, .rng .ymr, .fc .log, .fc .dropped, .fc .severeLost, .fc .overflowed, .fc .out, .fc .buckets, .fc .claimed, .fc .testing, .fc .ahead, .fc .corrected, .fc .toLog, .fc .escNow, .fc .retireNow, .tp .latched, .tp .response, .tp .tamperHold, .tp .alarm, .tp .count, .hl .images, .hl .dir0, .hl .dir1, .hl .flush, .hl .auditLog, .hl .boundB, .hl .serials, .tt .lanes, .tt .mirror, .tt .mirrorA, .tt .mirrorCaps, .feeds, .scans] : List Part)) s (bootReserve s b) := by
  unfold bootReserve
  try dsimp -proj only
  split
  · refine Only.then (raisePart_only ..) (by decide +kernel) ?_
    refine put_sys ?_ ?_
    · refine Sys.set_wait (by decide +kernel) ?_
      exact SysReg.refl _ _
    · exact Only.refl _ _
  · refine Only.then (bootJournal_only ..) (by decide +kernel) ?_
    refine Only.then (firstReserve_only ..) (by decide +kernel) ?_
    refine put_sys ?_ ?_
    · refine Sys.set_stage (by decide +kernel) ?_
      exact SysReg.refl _ _
    · exact Only.refl _ _

theorem convert_only (s : State) (raw : ℕ) : Only [.en .rawCode, .en .convs] s (convert s raw) := by
  unfold convert
  try dsimp -proj only
  refine put_en ?_ ?_
  · refine Energy.set_rawCode_convs (by decide +kernel) ?_
    exact EnReg.refl _ _
  · exact Only.refl _ _

theorem calibrate_only (s : State) (zeroRaw : ℕ) (refRaw : ℕ) : Only [.en .offset, .en .gain, .en .calValid] s (calibrate s zeroRaw refRaw) := by
  unfold calibrate
  try dsimp -proj only
  refine put_en ?_ ?_
  · refine Energy.set_offset_gain_calValid (by decide +kernel) ?_
    exact EnReg.refl _ _
  · exact Only.refl _ _

theorem bootCalibrate_only (s : State) (b : BootIn) : Only (Part.drainQueue ++ Part.allPlan ++ Part.allFn ++ Part.allCore ++ Part.allLk ++ ([.sys .wakeDriven, .sys .loaded, .sys .firmware, .sys .stage, .sys .bootState, .sys .reason, .sys .fwSlot, .sys .fwBuild, .sys .wait, .sys .causeCold, .sys .causeWarmSw, .sys .causeWarmFatal, .sys .causeWarmApply, .sys .heldWarm, .pl .imgAddr, .pl .imgLen, .pl .busy, .pl .phase, .pl .err, .pl .swap, .pl .applying, .lc .slots, .lc .floorRecs, .lc .debugRecs, .lc .busy, .lc .step, .lc .token, .lc .tokenAddr, .lc .tokenLen, .dbg .scope, .dbg .padMask, .en .rawCode, .en .convs, .en .offset, .en .gain, .en .calValid, .en .cmeas, .en .recNj, .en .fixedUj, .en .reserveLow, .port .linkUp, .port .doorbells, .pad .results, .pad .mrs, .pad .haltLog, .pad .haltOverflow, .pad .paused, .pad .inc, .pad .diags, .pad .extendLost, .pad .replayOwed, .pad .waitFor, .pad .containedUs, .pad .resetStalls, .pad .cacheLost, .jn .opened, .jn .bank0, .jn .bank1, .jn .fromFlush, .jn .lost, .jn .role, .jn .term, .jn .nextSeq, .jn .held, .stall .inPool, .stall .dedicated, .stall .muckouts, .stall .dirty, .stall .prefEnded, .stall .ratchetCount, .stall .spare, .stall .reservedFor, .stall .operand, .tk .unsealed, .tk .restoring, .tk .permDraw, .tk .ownerRoot, .tk .jseal, .tk .scrambled, .rng .ready, .rng .stopped, .rng .rawMode, .rng .katOk, .rng .healthy, .rng .isolated, .rng .cmdErr, .rng .attempts, .rng .restarting, .rng .fifo, .rng .ymr, .fc .log, .fc .dropped, .fc .severeLost, .fc .overflowed, .fc .out, .fc .buckets, .fc .claimed, .fc .testing, .fc .ahead, .fc .corrected, .fc .toLog, .fc .escNow, .fc .retireNow, .tp .latched, .tp .response, .tp .tamperHold, .tp .alarm, .tp .count, .hl .images, .hl .dir0, .hl .dir1, .hl .flush, .hl .auditLog, .hl .boundB, .hl .serials, .tt .lanes, .tt .mirror, .tt .mirrorA, .tt .mirrorCaps, .feeds, .scans] : List Part)) s (bootCalibrate s b) := by
  unfold bootCalibrate
  try dsimp -proj only
  refine Only.then (bootReserve_only ..) (by decide +kernel) ?_
  refine Only.then (computeCosts_only ..) (by decide +kernel) ?_
  refine Only.then (convert_only ..) (by decide +kernel) ?_
  refine Only.then (calibrate_only ..) (by decide +kernel) ?_
  exact Only.refl _ _

theorem bootMicrocode_only (s : State) (b : BootIn) : Only (Part.drainQueue ++ Part.allPlan ++ Part.allFn ++ Part.allCore ++ Part.allLk ++ ([.sys .wakeDriven, .sys .loaded, .sys .firmware, .sys .stage, .sys .bootState, .sys .reason, .sys .fwSlot, .sys .fwBuild, .sys .wait, .sys .causeCold, .sys .causeWarmSw, .sys .causeWarmFatal, .sys .causeWarmApply, .sys .heldWarm, .pl .imgAddr, .pl .imgLen, .pl .busy, .pl .phase, .pl .err, .pl .errOffset, .pl .swap, .pl .applying, .lc .slots, .lc .floorRecs, .lc .debugRecs, .lc .busy, .lc .step, .lc .token, .lc .tokenAddr, .lc .tokenLen, .dbg .scope, .dbg .padMask, .en .rawCode, .en .convs, .en .offset, .en .gain, .en .calValid, .en .cmeas, .en .recNj, .en .fixedUj, .en .reserveLow, .port .linkUp, .port .doorbells, .pad .results, .pad .mrs, .pad .haltLog, .pad .haltOverflow, .pad .paused, .pad .inc, .pad .diags, .pad .extendLost, .pad .replayOwed, .pad .waitFor, .pad .containedUs, .pad .resetStalls, .pad .cacheLost, .jn .opened, .jn .bank0, .jn .bank1, .jn .fromFlush, .jn .lost, .jn .role, .jn .term, .jn .nextSeq, .jn .held, .stall .inPool, .stall .dedicated, .stall .muckouts, .stall .dirty, .stall .prefEnded, .stall .ratchetCount, .stall .ucodeOk, .stall .spare, .stall .reservedFor, .stall .operand, .tk .unsealed, .tk .restoring, .tk .permDraw, .tk .ownerRoot, .tk .jseal, .tk .scrambled, .rng .ready, .rng .stopped, .rng .rawMode, .rng .katOk, .rng .healthy, .rng .isolated, .rng .cmdErr, .rng .attempts, .rng .restarting, .rng .fifo, .rng .ymr, .fc .log, .fc .dropped, .fc .severeLost, .fc .overflowed, .fc .out, .fc .buckets, .fc .claimed, .fc .testing, .fc .ahead, .fc .corrected, .fc .toLog, .fc .escNow, .fc .retireNow, .tp .latched, .tp .response, .tp .tamperHold, .tp .alarm, .tp .count, .hl .images, .hl .dir0, .hl .dir1, .hl .flush, .hl .auditLog, .hl .boundB, .hl .serials, .tt .lanes, .tt .mirror, .tt .mirrorA, .tt .mirrorCaps, .feeds, .scans] : List Part)) s (bootMicrocode s b) := by
  unfold bootMicrocode
  try dsimp -proj only
  split
  · refine Only.then (bootStop_only ..) (by decide +kernel) ?_
    exact Only.refl _ _
  · refine Only.then (bootCalibrate_only ..) (by decide +kernel) ?_
    refine Only.then (bootedDir_only ..) (by decide +kernel) ?_
    refine put_sys ?_ ?_
    · refine Sys.set_stage (by decide +kernel) ?_
      exact SysReg.refl _ _
    · refine Only.foldl _ (fun t x => ?_) ?_
      · refine modSt_in ?_ ?_
        · refine Stall.set_ucodeOk (by decide +kernel) ?_
          exact StallReg.refl _ _
        · exact Only.refl _ _
      · refine Only.foldl _ (fun t x => ?_) ?_
        · refine Only.then (bootKind_only ..) (by decide +kernel) ?_
          exact Only.refl _ _
        · exact Only.refl _ _

theorem releaseWp_only (s : State) : Only [.hl .wpReleased, .hl .nf0, .hl .nf1] s (releaseWp s) := by
  unfold releaseWp
  try dsimp -proj only
  refine put_hl ?_ ?_
  · refine Hayloft.set_wpReleased_nf0_nf1 (by decide +kernel) ?_
    exact HlReg.refl _ _
  · exact Only.refl _ _

theorem bootPlan_only (s : State) (b : BootIn) : Only (Part.drainQueue ++ Part.allPlan ++ Part.allFn ++ Part.allCore ++ Part.allLk ++ ([.sys .wakeDriven, .sys .loaded, .sys .firmware, .sys .stage, .sys .bootState, .sys .reason, .sys .fwSlot, .sys .fwBuild, .sys .wait, .sys .causeCold, .sys .causeWarmSw, .sys .causeWarmFatal, .sys .causeWarmApply, .sys .heldWarm, .sys .degraded, .pl .imgAddr, .pl .imgLen, .pl .busy, .pl .phase, .pl .err, .pl .errOffset, .pl .swap, .pl .applying, .lc .slots, .lc .floorRecs, .lc .debugRecs, .lc .busy, .lc .step, .lc .token, .lc .tokenAddr, .lc .tokenLen, .dbg .scope, .dbg .padMask, .en .rawCode, .en .convs, .en .offset, .en .gain, .en .calValid, .en .cmeas, .en .recNj, .en .fixedUj, .en .reserveLow, .port .linkUp, .port .doorbells, .pad .results, .pad .mrs, .pad .haltLog, .pad .haltOverflow, .pad .paused, .pad .inc, .pad .diags, .pad .extendLost, .pad .replayOwed, .pad .waitFor, .pad .containedUs, .pad .resetStalls, .pad .cacheLost, .jn .opened, .jn .bank0, .jn .bank1, .jn .fromFlush, .jn .lost, .jn .role, .jn .term, .jn .nextSeq, .jn .held, .stall .inPool, .stall .dedicated, .stall .muckouts, .stall .dirty, .stall .prefEnded, .stall .ratchetCount, .stall .ucodeOk, .stall .spare, .stall .reservedFor, .stall .operand, .tk .unsealed, .tk .restoring, .tk .permDraw, .tk .ownerRoot, .tk .jseal, .tk .scrambled, .rng .ready, .rng .stopped, .rng .rawMode, .rng .katOk, .rng .healthy, .rng .isolated, .rng .retired, .rng .cmdErr, .rng .attempts, .rng .restarting, .rng .fifo, .rng .ymr, .fc .log, .fc .dropped, .fc .severeLost, .fc .overflowed, .fc .out, .fc .buckets, .fc .retired, .fc .claimed, .fc .testing, .fc .ahead, .fc .corrected, .fc .toLog, .fc .escNow, .fc .retireNow, .tp .latched, .tp .response, .tp .tamperHold, .tp .meshPending, .tp .meshOff, .tp .alarm, .tp .count, .hl .wpReleased, .hl .images, .hl .dir0, .hl .dir1, .hl .nf0, .hl .nf1, .hl .flush, .hl .auditLog, .hl .boundB, .hl .serials, .tt .lanes, .tt .linkUp, .tt .mirror, .tt .mirrorA, .tt .mirrorCaps, .tt .partnerTerm, .tt .partnerPresent, .tt .mismatch, .feeds, .scans] : List Part)) s (bootPlan s b) := by
  unfold bootPlan
  try dsimp -proj only
  split
  · split
    · refine Only.then (bootTamper_only ..) (by decide +kernel) ?_
      refine Only.then (bootMesh_only ..) (by decide +kernel) ?_
      refine Only.then (bootTwin_only ..) (by decide +kernel) ?_
      refine Only.then (bootPartials_only ..) (by decide +kernel) ?_
      refine Only.then (bootKind_only ..) (by decide +kernel) ?_
      refine Only.then (applyPlan_only ..) (by decide +kernel) ?_
      split
      · refine put_pl ?_ ?_
        · refine PlanCtl.set_err_errOffset (by decide +kernel) ?_
          exact PlReg.refl _ _
        · refine Only.then (bootRetired_only ..) (by decide +kernel) ?_
          exact Only.refl _ _
      · refine Only.then (bootRetired_only ..) (by decide +kernel) ?_
        exact Only.refl _ _
    · refine Only.then (bootMicrocode_only ..) (by decide +kernel) ?_
      refine Only.then (releaseWp_only ..) (by decide +kernel) ?_
      refine put_sys ?_ ?_
      · refine Sys.set_stage (by decide +kernel) ?_
        exact SysReg.refl _ _
      · refine Only.then (bootMesh_only ..) (by decide +kernel) ?_
        refine Only.then (bootTwin_only ..) (by decide +kernel) ?_
        refine Only.then (bootPartials_only ..) (by decide +kernel) ?_
        refine Only.then (bootKind_only ..) (by decide +kernel) ?_
        refine Only.then (applyPlan_only ..) (by decide +kernel) ?_
        split
        · refine put_pl ?_ ?_
          · refine PlanCtl.set_err_errOffset (by decide +kernel) ?_
            exact PlReg.refl _ _
          · refine Only.then (bootRetired_only ..) (by decide +kernel) ?_
            exact Only.refl _ _
        · refine Only.then (bootRetired_only ..) (by decide +kernel) ?_
          exact Only.refl _ _
  · split
    · split
      · refine Only.then (bootTamper_only ..) (by decide +kernel) ?_
        refine Only.then (bootMesh_only ..) (by decide +kernel) ?_
        refine Only.then (bootTwin_only ..) (by decide +kernel) ?_
        refine Only.then (bootPartials_only ..) (by decide +kernel) ?_
        refine Only.then (bootRetired_only ..) (by decide +kernel) ?_
        exact Only.refl _ _
      · refine Only.then (bootMicrocode_only ..) (by decide +kernel) ?_
        refine Only.then (releaseWp_only ..) (by decide +kernel) ?_
        refine put_sys ?_ ?_
        · refine Sys.set_stage (by decide +kernel) ?_
          exact SysReg.refl _ _
        · refine Only.then (bootMesh_only ..) (by decide +kernel) ?_
          refine Only.then (bootTwin_only ..) (by decide +kernel) ?_
          refine Only.then (bootPartials_only ..) (by decide +kernel) ?_
          refine Only.then (bootRetired_only ..) (by decide +kernel) ?_
          exact Only.refl _ _
    · refine Only.then (bootStop_only ..) (by decide +kernel) ?_
      split
      · refine put_pl ?_ ?_
        · refine PlanCtl.set_err_errOffset (by decide +kernel) ?_
          exact PlReg.refl _ _
        · refine Only.then (bootRetired_only ..) (by decide +kernel) ?_
          exact Only.refl _ _
      · refine Only.then (bootRetired_only ..) (by decide +kernel) ?_
        exact Only.refl _ _

theorem bootFirmware_only (s : State) (b : BootIn) : Only (Part.drainQueue ++ Part.allPlan ++ Part.allFn ++ Part.allCore ++ Part.allLk ++ ([.sys .wakeDriven, .sys .loaded, .sys .firmware, .sys .stage, .sys .bootState, .sys .reason, .sys .fwSlot, .sys .fwBuild, .sys .wait, .sys .causeCold, .sys .causeWarmSw, .sys .causeWarmFatal, .sys .causeWarmApply, .sys .heldWarm, .sys .degraded, .pl .imgAddr, .pl .imgLen, .pl .busy, .pl .phase, .pl .err, .pl .errOffset, .pl .swap, .pl .applying, .lc .slots, .lc .floorRecs, .lc .debugRecs, .lc .busy, .lc .step, .lc .token, .lc .tokenAddr, .lc .tokenLen, .dbg .scope, .dbg .padMask, .en .rawCode, .en .convs, .en .offset, .en .gain, .en .calValid, .en .cmeas, .en .recNj, .en .fixedUj, .en .reserveLow, .port .linkUp, .port .doorbells, .pad .results, .pad .mrs, .pad .haltLog, .pad .haltOverflow, .pad .paused, .pad .inc, .pad .diags, .pad .extendLost, .pad .replayOwed, .pad .waitFor, .pad .containedUs, .pad .resetStalls, .pad .cacheLost, .jn .opened, .jn .bank0, .jn .bank1, .jn .fromFlush, .jn .lost, .jn .role, .jn .term, .jn .nextSeq, .jn .held, .stall .inPool, .stall .dedicated, .stall .muckouts, .stall .dirty, .stall .prefEnded, .stall .ratchetCount, .stall .ucodeOk, .stall .spare, .stall .reservedFor, .stall .operand, .tk .unsealed, .tk .restoring, .tk .permDraw, .tk .ownerRoot, .tk .jseal, .tk .scrambled, .rng .ready, .rng .stopped, .rng .rawMode, .rng .katOk, .rng .healthy, .rng .isolated, .rng .retired, .rng .cmdErr, .rng .attempts, .rng .restarting, .rng .fifo, .rng .ymr, .fc .log, .fc .dropped, .fc .severeLost, .fc .overflowed, .fc .out, .fc .buckets, .fc .retired, .fc .claimed, .fc .testing, .fc .ahead, .fc .corrected, .fc .toLog, .fc .escNow, .fc .retireNow, .tp .latched, .tp .response, .tp .tamperHold, .tp .meshPending, .tp .meshOff, .tp .alarm, .tp .count, .hl .wpReleased, .hl .images, .hl .dir0, .hl .dir1, .hl .nf0, .hl .nf1, .hl .flush, .hl .auditLog, .hl .boundB, .hl .serials, .tt .lanes, .tt .linkUp, .tt .mirror, .tt .mirrorA, .tt .mirrorCaps, .tt .partnerTerm, .tt .partnerPresent, .tt .mismatch, .feeds, .scans] : List Part)) s (bootFirmware s b) := by
  unfold bootFirmware
  try dsimp -proj only
  split
  · refine Only.then (bootPlan_only ..) (by decide +kernel) ?_
    refine Only.then (extendYmr_only ..) (by decide +kernel) ?_
    refine put_sys ?_ ?_
    · refine Sys.set_stage (by decide +kernel) ?_
      exact SysReg.refl _ _
    · refine Only.then (noteFirmware_only ..) (by decide +kernel) ?_
      refine Only.then (bootKind_only ..) (by decide +kernel) ?_
      exact Only.refl _ _
  · split
    · refine Only.then (bootPlan_only ..) (by decide +kernel) ?_
      refine put_sys ?_ ?_
      · refine Sys.set_stage (by decide +kernel) ?_
        exact SysReg.refl _ _
      · exact Only.refl _ _
    · refine Only.then (bootStop_only ..) (by decide +kernel) ?_
      exact Only.refl _ _

theorem bootTarget_only (s : State) (b : BootIn) (n : ℕ) : Only [.sys .wakeDriven, .port .linkState, .fn .cfg, .fn .pmeStatus, .fn .vecs, .fn .cmpExpect, .fn .cmpSpoiled, .fn .cmpEq, .fn .cmpNe, .pad .results, .fc .log, .fc .dropped, .fc .severeLost, .fc .overflowed, .fc .out, .fc .buckets, .fc .corrected, .fc .toLog, .fc .escNow, .fc .retireNow, .hl .targets, .out] s (bootTarget s b n) := by
  unfold bootTarget
  try dsimp -proj only
  split
  · split
    · refine Only.then (report_only ..) (by decide +kernel) ?_
      refine put_hl ?_ ?_
      · refine Hayloft.set_targets (by decide +kernel) ?_
        exact HlReg.refl _ _
      · exact Only.refl _ _
    · refine put_hl ?_ ?_
      · refine Hayloft.set_targets (by decide +kernel) ?_
        exact HlReg.refl _ _
      · exact Only.refl _ _
  · split
    · refine Only.then (report_only ..) (by decide +kernel) ?_
      refine put_hl ?_ ?_
      · refine Hayloft.set_targets (by decide +kernel) ?_
        exact HlReg.refl _ _
      · exact Only.refl _ _
    · refine put_hl ?_ ?_
      · refine Hayloft.set_targets (by decide +kernel) ?_
        exact HlReg.refl _ _
      · exact Only.refl _ _

theorem bootHayloft_only (s : State) (b : BootIn) : Only [.sys .wakeDriven, .port .linkState, .fn .cfg, .fn .pmeStatus, .fn .vecs, .fn .cmpExpect, .fn .cmpSpoiled, .fn .cmpEq, .fn .cmpNe, .pad .results, .fc .log, .fc .dropped, .fc .severeLost, .fc .overflowed, .fc .out, .fc .buckets, .fc .corrected, .fc .toLog, .fc .escNow, .fc .retireNow, .hl .geo, .hl .targets, .hl .failed0, .hl .failed1, .hl .ready, .hl .flushReady, .out] s (bootHayloft s b) := by
  unfold bootHayloft
  try dsimp -proj only
  refine put_hl ?_ ?_
  · refine Hayloft.set_failed0_failed1_ready_flushReady (by decide +kernel) ?_
    exact HlReg.refl _ _
  · refine Only.foldl _ (fun t x => ?_) ?_
    · refine Only.then (bootTarget_only ..) (by decide +kernel) ?_
      exact Only.refl _ _
    · refine put_hl ?_ ?_
      · refine Hayloft.set_geo (by decide +kernel) ?_
        exact HlReg.refl _ _
      · exact Only.refl _ _

theorem bootSheds_only (s : State) (b : BootIn) : Only (Part.drainQueue ++ Part.allPlan ++ Part.allFn ++ Part.allCore ++ Part.allLk ++ ([.sys .wakeDriven, .sys .linkWidth, .sys .linkReversed, .sys .loaded, .sys .firmware, .sys .stage, .sys .bootState, .sys .reason, .sys .fwSlot, .sys .fwBuild, .sys .wait, .sys .causeCold, .sys .causeWarmSw, .sys .causeWarmFatal, .sys .causeWarmApply, .sys .heldWarm, .sys .degraded, .pl .imgAddr, .pl .imgLen, .pl .busy, .pl .phase, .pl .err, .pl .errOffset, .pl .swap, .pl .applying, .lc .slots, .lc .floorRecs, .lc .debugRecs, .lc .busy, .lc .step, .lc .token, .lc .tokenAddr, .lc .tokenLen, .dbg .scope, .dbg .padMask, .en .rawCode, .en .convs, .en .offset, .en .gain, .en .calValid, .en .cmeas, .en .recNj, .en .fixedUj, .en .reserveLow, .port .linkUp, .port .doorbells, .pad .results, .pad .mrs, .pad .haltLog, .pad .haltOverflow, .pad .paused, .pad .inc, .pad .diags, .pad .extendLost, .pad .replayOwed, .pad .waitFor, .pad .containedUs, .pad .resetStalls, .pad .cacheLost, .jn .opened, .jn .bank0, .jn .bank1, .jn .fromFlush, .jn .lost, .jn .role, .jn .term, .jn .nextSeq, .jn .held, .stall .inPool, .stall .dedicated, .stall .muckouts, .stall .dirty, .stall .prefEnded, .stall .ratchetCount, .stall .ucodeOk, .stall .spare, .stall .reservedFor, .stall .operand, .tk .unsealed, .tk .restoring, .tk .permDraw, .tk .ownerRoot, .tk .jseal, .tk .scrambled, .rng .ready, .rng .stopped, .rng .rawMode, .rng .katOk, .rng .healthy, .rng .isolated, .rng .retired, .rng .cmdErr, .rng .attempts, .rng .restarting, .rng .fifo, .rng .ymr, .fc .log, .fc .dropped, .fc .severeLost, .fc .overflowed, .fc .out, .fc .buckets, .fc .retired, .fc .claimed, .fc .testing, .fc .ahead, .fc .corrected, .fc .toLog, .fc .escNow, .fc .retireNow, .tp .latched, .tp .response, .tp .tamperHold, .tp .meshPending, .tp .meshOff, .tp .alarm, .tp .count, .hl .geo, .hl .targets, .hl .failed0, .hl .failed1, .hl .ready, .hl .flushReady, .hl .wpReleased, .hl .images, .hl .dir0, .hl .dir1, .hl .nf0, .hl .nf1, .hl .flush, .hl .auditLog, .hl .boundB, .hl .serials, .tt .lanes, .tt .linkUp, .tt .mirror, .tt .mirrorA, .tt .mirrorCaps, .tt .partnerTerm, .tt .partnerPresent, .tt .mismatch, .feeds, .scans] : List Part)) s (bootSheds s b) := by
  unfold bootSheds
  try dsimp -proj only
  split
  · refine put_sys ?_ ?_
    · refine Sys.set_wait (by decide +kernel) ?_
      exact SysReg.refl _ _
    · exact Only.refl _ _
  · refine Only.then (bootFirmware_only ..) (by decide +kernel) ?_
    refine Only.then (bootHayloft_only ..) (by decide +kernel) ?_
    refine put_port ?_ ?_
    · refine Port.set_linkUp (by decide +kernel) ?_
      exact PortReg.refl _ _
    · refine put_sys ?_ ?_
      · refine Sys.set_linkWidth_linkReversed_stage_wait (by decide +kernel) ?_
        exact SysReg.refl _ _
      · exact Only.refl _ _

theorem scrambleTack_only (s : State) : Only (Part.allPad ++ ([.tk .slots, .tk .blobs, .tk .unsealed, .tk .maskDraw, .tk .ownerRoot, .tk .scrambled] : List Part)) s (scrambleTack s) := by
  unfold scrambleTack
  try dsimp -proj only
  refine put_pads_tk ?_ ?_ ?_
  · decide +kernel
  · refine Tack.set_slots_blobs_unsealed_maskDraw_ownerRoot_scrambled (by decide +kernel) ?_
    exact TkReg.refl _ _
  · exact Only.refl _ _

theorem eraseWorking_only (s : State) : Only [.tk .slots, .tk .blobs, .tk .hbs, .tk .unsealed, .tk .restoring, .tk .lost, .tk .maskDraw, .tk .ownerRoot, .freeCtr] s (eraseWorking s) := by
  unfold eraseWorking
  try dsimp -proj only
  refine put_tk ?_ ?_
  · refine Tack.set_slots_blobs_hbs_unsealed_restoring_lost_maskDraw_ownerRoot (by decide +kernel) ?_
    exact TkReg.refl _ _
  · refine Only.then (draw_only ..) (by decide +kernel) ?_
    exact Only.refl _ _

theorem eraseRoots_only (s : State) : Only [.pad .inc, .tk .slots, .tk .blobs, .tk .hbs, .tk .unsealed, .tk .restoring, .tk .lost, .tk .maskDraw, .tk .ownerRoot, .freeCtr] s (eraseRoots s) := by
  unfold eraseRoots
  try dsimp -proj only
  refine Only.foldl _ (fun t x => ?_) ?_
  · split
    · refine Only.then (removeBlob_only ..) (by decide +kernel) ?_
      exact Only.refl _ _
    · exact Only.refl _ _
  · refine Only.foldl _ (fun t x => ?_) ?_
    · refine modPad_in ?_ ?_
      · refine Pad.set_inc (by decide +kernel) ?_
        exact PadReg.refl _ _
      · exact Only.refl _ _
    · refine Only.then (eraseWorking_only ..) (by decide +kernel) ?_
      exact Only.refl _ _

theorem tackAct_only (s : State) (resp : ℕ) : Only [.pad .inc, .tk .slots, .tk .blobs, .tk .hbs, .tk .unsealed, .tk .restoring, .tk .hold, .tk .lost, .tk .maskDraw, .tk .ownerRoot, .freeCtr] s (tackAct s resp) := by
  unfold tackAct
  try dsimp -proj only
  split
  · exact Only.refl _ _
  · refine put_tk ?_ ?_
    · refine Tack.set_hold (by decide +kernel) ?_
      exact TkReg.refl _ _
    · exact Only.refl _ _
  · refine Only.then (eraseWorking_only ..) (by decide +kernel) ?_
    exact Only.refl _ _
  · refine Only.then (eraseRoots_only ..) (by decide +kernel) ?_
    exact Only.refl _ _

theorem resetFnHif_only (f : Fn) : Keep FnReg.Same [.cfg, .bme, .dState, .msixEn, .fnMask, .pmeEn, .pmeStatus, .pmeAtCold, .relaxed, .idOrder, .denied, .errTimeout, .errUrCa, .errPoisoned, .errQueue, .errJob, .vecs, .evMap, .cmpExpect, .cmpSpoiled, .cmpEq, .cmpNe] f (resetFnHif f) := by
  unfold resetFnHif
  try dsimp -proj only
  refine Fn.set_cfg_bme_dState_msixEn_fnMask_pmeEn_pmeStatus_pmeAtCold_relaxed_idOrder_denied_errTimeout_errUrCa_errPoisoned_errQueue_errJob_vecs_evMap (by decide +kernel) ?_
  refine FnReg.then (resetCompare_only ..) (by decide +kernel) ?_
  exact FnReg.refl _ _

theorem hostResetFn_only (perst : Bool) (f : Fn) : Keep FnReg.Same [.cfg, .bme, .dState, .msixEn, .fnMask, .pmeEn, .pmeStatus, .pmeAtCold, .relaxed, .idOrder, .denied, .errTimeout, .errUrCa, .errPoisoned, .errQueue, .errJob, .vecs, .evMap, .cmpExpect, .cmpSpoiled, .cmpEq, .cmpNe] f (hostResetFn perst f) := by
  unfold hostResetFn
  dsimp -proj only
  split
  · exact FnReg.then (b := resetFnHif f) (l := [.pmeAtCold, .evMap, .vecs])
      ⟨fun r hr => by cases r <;> first | rfl | exact absurd (by decide) hr⟩ (by decide +kernel) (FnReg.then (resetFnHif_only f) (by decide +kernel) (FnReg.refl _ _))
  · exact FnReg.then (resetFnHif_only f) (by decide +kernel) (FnReg.refl _ _)

theorem hostReset_only (s : State) (perst : Bool) : Only (Part.functionReset ++ ([.sys .causeHif, .en .shed, .port .linkUp, .fn .vecSize, .fn .qcRing, .fn .qcLog2, .fn .qcVector, .fn .qcWake, .fn .qcCrcReq, .fn .qcIrqEn, .fn .qcShadowEn, .fn .qcShadowAddr, .fn .cmdQueue, .fn .cmdCmd, .fn .cmdBusy, .fn .cmdLost, .fn .cmdResult, .fn .statSel, .fn .cmpSlot, .fn .cmpLen, .fn .cmpGo, .fn .tkSel, .fn .tkSelBlob, .fn .bxImgAddr, .fn .fcResult, .fn .hlLog, .fn .hlEntry, .fn .hlWord, .fn .certSel, .fn .certOff, .fn .latch, .tt .lanes, .lk .tests, .freeCtr] : List Part)) s (hostReset s perst) := by
  unfold hostReset
  try dsimp -proj only
  refine Only.then (updateLtr_only ..) (by decide +kernel) ?_
  refine put_sys_port ?_ ?_ ?_
  · refine Sys.set_causeHif (by decide +kernel) ?_
    exact SysReg.refl _ _
  · refine Port.set_linkUp (by decide +kernel) ?_
    exact PortReg.refl _ _
  · split
    · refine Only.then (setShed_only ..) (by decide +kernel) ?_
      refine Only.foldl _ (fun t x => ?_) ?_
      · refine Only.then (holdQueue_only ..) (by decide +kernel) ?_
        exact Only.refl _ _
      · refine put_port_fns ?_ ?_ ?_
        · refine Port.set_linkUp_linkState_aspmL1_aspmL11_aspmL12_vfEnable_numVfs_pmL11_pmL12_vfMse_ari_sysPage_vfBars_ltrUs_ltrLive_ltrQueue (by decide +kernel) ?_
          exact PortReg.refl _ _
        · decide +kernel
        · refine Only.then (endTests_only ..) (by decide +kernel) ?_
          exact Only.refl _ _
    · refine Only.foldl _ (fun t x => ?_) ?_
      · refine Only.then (holdQueue_only ..) (by decide +kernel) ?_
        exact Only.refl _ _
      · refine put_port_fns ?_ ?_ ?_
        · refine Port.set_linkUp_linkState_aspmL1_aspmL11_aspmL12_vfEnable_numVfs_pmL11_pmL12_vfMse_ari_sysPage_vfBars_ltrUs_ltrLive_ltrQueue (by decide +kernel) ?_
          exact PortReg.refl _ _
        · decide +kernel
        · refine Only.then (endTests_only ..) (by decide +kernel) ?_
          exact Only.refl _ _

theorem eraseSector_only (s : State) (i : ℕ) : Only [.lc .slots] s (eraseSector s i) := by
  unfold eraseSector
  try dsimp -proj only
  refine put_lc ?_ ?_
  · refine LifeCycle.set_slots (by decide +kernel) ?_
    exact LcReg.refl _ _
  · exact Only.refl _ _

theorem putObj_only (s : State) (o : ℕ) (x : Obj) : Only [.hl .objs] s (putObj s o x) := by
  unfold putObj
  try dsimp -proj only
  refine put_hl ?_ ?_
  · refine Hayloft.set_objs (by decide +kernel) ?_
    exact HlReg.refl _ _
  · exact Only.refl _ _

theorem startWrite_only (s : State) (o : ℕ) : Only [.en .shed, .hl .objs] s (startWrite s o) := by
  unfold startWrite
  try dsimp -proj only
  split
  · exact Only.refl _ _
  · refine Only.then (putObj_only ..) (by decide +kernel) ?_
    refine Only.then (workFor_only ..) (by decide +kernel) ?_
    exact Only.refl _ _

theorem resumeTime_only (s : State) (banks : Bool) : Only [.time] s (resumeTime s banks) := by
  unfold resumeTime
  try dsimp -proj only
  refine put_time ?_ ?_
  · decide +kernel
  · exact Only.refl _ _

theorem bootLedger_only (s : State) (b : BootIn) : Only (Part.drainQueue ++ Part.allPlan ++ Part.allFn ++ Part.allCore ++ Part.allLk ++ ([.sys .wakeDriven, .sys .linkWidth, .sys .linkReversed, .sys .loaded, .sys .firmware, .sys .stage, .sys .bootState, .sys .reason, .sys .fwSlot, .sys .fwBuild, .sys .wait, .sys .causeCold, .sys .causeWarmSw, .sys .causeWarmFatal, .sys .causeWarmApply, .sys .heldWarm, .sys .degraded, .pl .imgAddr, .pl .imgLen, .pl .busy, .pl .phase, .pl .err, .pl .errOffset, .pl .swap, .pl .applying, .lc .slots, .lc .floorRecs, .lc .debugRecs, .lc .decoded, .lc .state, .lc .epoch, .lc .ownerDigest, .lc .seq, .lc .busy, .lc .step, .lc .token, .lc .tokenAddr, .lc .tokenLen, .dbg .scope, .dbg .padMask, .en .rawCode, .en .convs, .en .offset, .en .gain, .en .calValid, .en .cmeas, .en .recNj, .en .fixedUj, .en .reserveLow, .port .linkUp, .port .doorbells, .pad .results, .pad .mrs, .pad .haltLog, .pad .haltOverflow, .pad .paused, .pad .inc, .pad .diags, .pad .extendLost, .pad .replayOwed, .pad .waitFor, .pad .containedUs, .pad .resetStalls, .pad .cacheLost, .jn .opened, .jn .bank0, .jn .bank1, .jn .fromFlush, .jn .lost, .jn .role, .jn .term, .jn .nextSeq, .jn .held, .stall .inPool, .stall .dedicated, .stall .muckouts, .stall .dirty, .stall .prefEnded, .stall .ratchetCount, .stall .ucodeOk, .stall .spare, .stall .reservedFor, .stall .operand, .tk .unsealed, .tk .restoring, .tk .permDraw, .tk .ownerRoot, .tk .jseal, .tk .scrambled, .rng .ready, .rng .stopped, .rng .rawMode, .rng .katOk, .rng .healthy, .rng .isolated, .rng .retired, .rng .cmdErr, .rng .attempts, .rng .restarting, .rng .fifo, .rng .ymr, .fc .log, .fc .dropped, .fc .severeLost, .fc .overflowed, .fc .out, .fc .buckets, .fc .retired, .fc .claimed, .fc .testing, .fc .ahead, .fc .corrected, .fc .toLog, .fc .escNow, .fc .retireNow, .tp .latched, .tp .response, .tp .tamperHold, .tp .meshPending, .tp .meshOff, .tp .alarm, .tp .count, .hl .geo, .hl .targets, .hl .failed0, .hl .failed1, .hl .ready, .hl .flushReady, .hl .wpReleased, .hl .images, .hl .dir0, .hl .dir1, .hl .nf0, .hl .nf1, .hl .flush, .hl .auditLog, .hl .boundB, .hl .serials, .tt .lanes, .tt .linkUp, .tt .mirror, .tt .mirrorA, .tt .mirrorCaps, .tt .partnerTerm, .tt .partnerPresent, .tt .mismatch, .feeds, .scans] : List Part)) s (bootLedger s b) := by
  unfold bootLedger
  try dsimp -proj only
  split
  · split
    · refine Only.then (bootStop_only ..) (by decide +kernel) ?_
      refine Only.then (auditAdd_only ..) (by decide +kernel) ?_
      refine Only.then (decodeLedger_only ..) (by decide +kernel) ?_
      exact Only.refl _ _
    · split
      · refine Only.then (bootStop_only ..) (by decide +kernel) ?_
        refine Only.then (auditAdd_only ..) (by decide +kernel) ?_
        refine Only.then (decodeLedger_only ..) (by decide +kernel) ?_
        exact Only.refl _ _
      · refine Only.then (bootSheds_only ..) (by decide +kernel) ?_
        refine put_sys ?_ ?_
        · refine Sys.set_stage (by decide +kernel) ?_
          exact SysReg.refl _ _
        · refine Only.then (auditAdd_only ..) (by decide +kernel) ?_
          refine Only.then (decodeLedger_only ..) (by decide +kernel) ?_
          exact Only.refl _ _
  · split
    · refine Only.then (bootStop_only ..) (by decide +kernel) ?_
      refine Only.then (decodeLedger_only ..) (by decide +kernel) ?_
      exact Only.refl _ _
    · split
      · refine Only.then (bootStop_only ..) (by decide +kernel) ?_
        refine Only.then (decodeLedger_only ..) (by decide +kernel) ?_
        exact Only.refl _ _
      · refine Only.then (bootSheds_only ..) (by decide +kernel) ?_
        refine put_sys ?_ ?_
        · refine Sys.set_stage (by decide +kernel) ?_
          exact SysReg.refl _ _
        · refine Only.then (decodeLedger_only ..) (by decide +kernel) ?_
          exact Only.refl _ _

theorem bootSupply_only (s : State) (b : BootIn) : Only (Part.drainQueue ++ Part.allPlan ++ Part.allFn ++ Part.allCore ++ Part.allLk ++ ([.sys .wakeDriven, .sys .linkWidth, .sys .linkReversed, .sys .loaded, .sys .firmware, .sys .straps, .sys .stage, .sys .bootState, .sys .reason, .sys .fwSlot, .sys .fwBuild, .sys .wait, .sys .causeCold, .sys .causeWarmSw, .sys .causeWarmFatal, .sys .causeWarmApply, .sys .heldWarm, .sys .degraded, .pl .imgAddr, .pl .imgLen, .pl .busy, .pl .phase, .pl .err, .pl .errOffset, .pl .swap, .pl .applying, .lc .slots, .lc .floorRecs, .lc .debugRecs, .lc .decoded, .lc .state, .lc .epoch, .lc .ownerDigest, .lc .seq, .lc .busy, .lc .step, .lc .token, .lc .tokenAddr, .lc .tokenLen, .dbg .scope, .dbg .padMask, .en .rawCode, .en .convs, .en .offset, .en .gain, .en .calValid, .en .cmeas, .en .recNj, .en .fixedUj, .en .reserveLow, .port .linkUp, .port .doorbells, .pad .results, .pad .mrs, .pad .haltLog, .pad .haltOverflow, .pad .paused, .pad .inc, .pad .diags, .pad .extendLost, .pad .replayOwed, .pad .waitFor, .pad .containedUs, .pad .resetStalls, .pad .cacheLost, .jn .opened, .jn .bank0, .jn .bank1, .jn .fromFlush, .jn .lost, .jn .role, .jn .term, .jn .nextSeq, .jn .held, .stall .inPool, .stall .dedicated, .stall .muckouts, .stall .dirty, .stall .prefEnded, .stall .ratchetCount, .stall .ucodeOk, .stall .spare, .stall .reservedFor, .stall .operand, .tk .unsealed, .tk .restoring, .tk .permDraw, .tk .ownerRoot, .tk .jseal, .tk .scrambled, .rng .ready, .rng .stopped, .rng .rawMode, .rng .katOk, .rng .healthy, .rng .isolated, .rng .retired, .rng .cmdErr, .rng .attempts, .rng .restarting, .rng .fifo, .rng .ymr, .fc .log, .fc .dropped, .fc .severeLost, .fc .overflowed, .fc .out, .fc .buckets, .fc .retired, .fc .claimed, .fc .testing, .fc .ahead, .fc .corrected, .fc .toLog, .fc .escNow, .fc .retireNow, .tp .latched, .tp .response, .tp .tamperHold, .tp .meshPending, .tp .meshOff, .tp .alarm, .tp .count, .hl .geo, .hl .targets, .hl .failed0, .hl .failed1, .hl .ready, .hl .flushReady, .hl .wpReleased, .hl .images, .hl .dir0, .hl .dir1, .hl .nf0, .hl .nf1, .hl .flush, .hl .auditLog, .hl .boundB, .hl .serials, .tt .lanes, .tt .linkUp, .tt .mirror, .tt .mirrorA, .tt .mirrorCaps, .tt .partnerTerm, .tt .partnerPresent, .tt .mismatch, .feeds, .scans] : List Part)) s (bootSupply s b) := by
  unfold bootSupply
  try dsimp -proj only
  split
  · refine Only.then (bootStop_only ..) (by decide +kernel) ?_
    split
    · refine Only.then (report_only ..) (by decide +kernel) ?_
      split
      · refine Only.then (report_only ..) (by decide +kernel) ?_
        refine put_sys_tp ?_ ?_ ?_
        · refine Sys.set_straps_stage (by decide +kernel) ?_
          exact SysReg.refl _ _
        · refine Tamper.set_meshPending (by decide +kernel) ?_
          exact TpReg.refl _ _
        · exact Only.refl _ _
      · refine put_sys_tp ?_ ?_ ?_
        · refine Sys.set_straps_stage (by decide +kernel) ?_
          exact SysReg.refl _ _
        · refine Tamper.set_meshPending (by decide +kernel) ?_
          exact TpReg.refl _ _
        · exact Only.refl _ _
    · split
      · refine Only.then (report_only ..) (by decide +kernel) ?_
        refine put_sys_tp ?_ ?_ ?_
        · refine Sys.set_straps_stage (by decide +kernel) ?_
          exact SysReg.refl _ _
        · refine Tamper.set_meshPending (by decide +kernel) ?_
          exact TpReg.refl _ _
        · exact Only.refl _ _
      · refine put_sys_tp ?_ ?_ ?_
        · refine Sys.set_straps_stage (by decide +kernel) ?_
          exact SysReg.refl _ _
        · refine Tamper.set_meshPending (by decide +kernel) ?_
          exact TpReg.refl _ _
        · exact Only.refl _ _
  · refine Only.then (bootLedger_only ..) (by decide +kernel) ?_
    refine put_sys ?_ ?_
    · refine Sys.set_stage (by decide +kernel) ?_
      exact SysReg.refl _ _
    · split
      · refine Only.then (report_only ..) (by decide +kernel) ?_
        split
        · refine Only.then (report_only ..) (by decide +kernel) ?_
          refine put_sys_tp ?_ ?_ ?_
          · refine Sys.set_straps_stage (by decide +kernel) ?_
            exact SysReg.refl _ _
          · refine Tamper.set_meshPending (by decide +kernel) ?_
            exact TpReg.refl _ _
          · exact Only.refl _ _
        · refine put_sys_tp ?_ ?_ ?_
          · refine Sys.set_straps_stage (by decide +kernel) ?_
            exact SysReg.refl _ _
          · refine Tamper.set_meshPending (by decide +kernel) ?_
            exact TpReg.refl _ _
          · exact Only.refl _ _
      · split
        · refine Only.then (report_only ..) (by decide +kernel) ?_
          refine put_sys_tp ?_ ?_ ?_
          · refine Sys.set_straps_stage (by decide +kernel) ?_
            exact SysReg.refl _ _
          · refine Tamper.set_meshPending (by decide +kernel) ?_
            exact TpReg.refl _ _
          · exact Only.refl _ _
        · refine put_sys_tp ?_ ?_ ?_
          · refine Sys.set_straps_stage (by decide +kernel) ?_
            exact SysReg.refl _ _
          · refine Tamper.set_meshPending (by decide +kernel) ?_
            exact TpReg.refl _ _
          · exact Only.refl _ _

theorem coldBoot_only (s : State) (b : BootIn) : Only (Part.coldBoot) s (coldBoot s b) := by
  unfold coldBoot
  try dsimp -proj only
  refine Only.then (bootSupply_only ..) (by decide +kernel) ?_
  refine put_sys_tp_freeCtr ?_ ?_ ?_ ?_
  · refine Sys.set_porstN_stage_wait (by decide +kernel) ?_
    exact SysReg.refl _ _
  · refine Tamper.set_meshOn_meshDraw (by decide +kernel) ?_
    exact TpReg.refl _ _
  · decide +kernel
  · refine Only.then (resumeTime_only ..) (by decide +kernel) ?_
    exact Only.refl _ _

theorem restoreSlot_only (s : State) (n : ℕ) : Only [.sys .wakeDriven, .port .linkState, .fn .cfg, .fn .pmeStatus, .fn .vecs, .fn .cmpExpect, .fn .cmpSpoiled, .fn .cmpEq, .fn .cmpNe, .pad .results, .tk .slots, .tk .hbs, .tk .lost, .fc .log, .fc .dropped, .fc .severeLost, .fc .overflowed, .fc .out, .fc .buckets, .fc .corrected, .fc .toLog, .fc .escNow, .fc .retireNow, .out] s (restoreSlot s n) := by
  unfold restoreSlot
  try dsimp -proj only
  split
  · exact Only.refl _ _
  · split
    · refine Only.then (putSlot_only ..) (by decide +kernel) ?_
      exact Only.refl _ _
    · refine Only.then (report_only ..) (by decide +kernel) ?_
      refine Only.then (loseSlot_only ..) (by decide +kernel) ?_
      exact Only.refl _ _

theorem commitFlush_only (s0 : State) (c0 : Bool) (c1 : Bool) : Only [.jn .flushRecords, .jn .flushUs, .jn .flushResult, .jn .flushSeq, .hl .flush, .freeCtr] s0 (commitFlush s0 c0 c1) := by
  unfold commitFlush
  try dsimp -proj only
  refine put_jn_hl ?_ ?_ ?_
  · refine Journal.set_flushRecords_flushUs_flushResult_flushSeq (by decide +kernel) ?_
    exact JnReg.refl _ _
  · split
    · refine Hayloft.set_flush (by decide +kernel) ?_
      exact HlReg.refl _ _
    · exact HlReg.refl _ _
  · refine Only.then (drawBytes_only ..) (by decide +kernel) ?_
    exact Only.refl _ _

theorem addMeter_only (s : State) (e : ℕ × ℕ) : Only [.en .meter] s (addMeter s e) := by
  unfold addMeter
  try dsimp -proj only
  refine put_en ?_ ?_
  · refine Energy.set_meter (by decide +kernel) ?_
    exact EnReg.refl _ _
  · exact Only.refl _ _

theorem resetFn_only (s : State) (n : ℕ) : Only [.sys .timeJournal, .port .linkState, .port .ltrUs, .port .ltrLive, .port .ltrQueue, .fn .cfg, .fn .bme, .fn .dState, .fn .msixEn, .fn .fnMask, .fn .pmeEn, .fn .pmeStatus, .fn .pmeAtCold, .fn .relaxed, .fn .idOrder, .fn .denied, .fn .errTimeout, .fn .errUrCa, .fn .errPoisoned, .fn .errQueue, .fn .errJob, .fn .vecs, .fn .evMap, .fn .cmpExpect, .fn .cmpSpoiled, .fn .cmpEq, .fn .cmpNe, .queue .state, .queue .remembered, .queue .defer, .queue .copies, .queue .heldBell, .queue .shadowOwed, .queue .fetchFailed, .queue .fetchTried, .jn .seq, .out] s (resetFn s n) := by
  unfold resetFn
  try dsimp -proj only
  refine Only.then (holdFnQueues_only ..) (by decide +kernel) ?_
  refine modFn_in ?_ ?_
  · refine FnReg.then (resetFnHif_only ..) (by decide +kernel) ?_
    exact FnReg.refl _ _
  · exact Only.refl _ _

theorem dropVfs_only (s : State) (keep : ℕ) : Only [.sys .timeJournal, .port .linkState, .port .ltrUs, .port .ltrLive, .port .ltrQueue, .fn .cfg, .fn .present, .fn .bme, .fn .dState, .fn .msixEn, .fn .fnMask, .fn .pmeEn, .fn .pmeStatus, .fn .pmeAtCold, .fn .relaxed, .fn .idOrder, .fn .denied, .fn .errTimeout, .fn .errUrCa, .fn .errPoisoned, .fn .errQueue, .fn .errJob, .fn .vecs, .fn .evMap, .fn .cmpExpect, .fn .cmpSpoiled, .fn .cmpEq, .fn .cmpNe, .queue .state, .queue .remembered, .queue .defer, .queue .copies, .queue .heldBell, .queue .shadowOwed, .queue .fetchFailed, .queue .fetchTried, .jn .seq, .out] s (dropVfs s keep) := by
  unfold dropVfs
  try dsimp -proj only
  refine Only.foldl _ (fun t x => ?_) ?_
  · refine modFn_in ?_ ?_
    · refine Fn.set_present (by decide +kernel) ?_
      exact FnReg.refl _ _
    · refine Only.then (resetFn_only ..) (by decide +kernel) ?_
      exact Only.refl _ _
  · exact Only.refl _ _

theorem resetPort_only (x : Port) : Keep PortReg.Same [.aspmL1, .aspmL11, .aspmL12, .vfEnable, .numVfs, .pmL11, .pmL12, .vfMse, .ari, .sysPage, .vfBars] x (resetPort x) := by
  unfold resetPort
  try dsimp -proj only
  refine Port.set_aspmL1_aspmL11_aspmL12_vfEnable_numVfs_pmL11_pmL12_vfMse_ari_sysPage_vfBars (by decide +kernel) ?_
  exact PortReg.refl _ _

theorem coldSys_only (x : Sys) (vddm : Bool) : Keep SysReg.Same [.wakeDriven, .ttHbo, .loaded, .firmware, .straps, .stage, .bootState, .reason, .fwSlot, .fwBuild, .wait, .causeCold, .causeWarmSw, .causeWarmFatal, .causeWarmApply, .causeHif, .causeClock, .paddockResets, .heldWarm, .deepSleep, .degraded, .paddockSel, .timeJournal, .boundary, .tapIr, .boundaryReg, .mbistRan] x (coldSys x vddm) := by
  unfold coldSys
  try dsimp -proj only
  refine Sys.set_wakeDriven_ttHbo_loaded_firmware_straps_stage_bootState_reason_fwSlot_fwBuild_wait_causeCold_causeWarmSw_causeWarmFatal_causeWarmApply_causeHif_causeClock_paddockResets_heldWarm_deepSleep_degraded_paddockSel_timeJournal_boundary_tapIr_boundaryReg_mbistRan (by decide +kernel) ?_
  exact SysReg.refl _ _

theorem coldPad_only (vddm : Bool) (x : Pad) : Keep PadReg.Same [.caps, .curGen, .genDue, .drbg, .results, .mrs, .haltLog, .haltOverflow, .paused, .snaps, .diags, .extendLost, .replayOwed, .waitFor, .containedUs, .resetStalls, .resetSeed] x (coldPad vddm x) := by
  unfold coldPad
  try dsimp -proj only
  refine Pad.set_caps_curGen_genDue_drbg_results_mrs_haltLog_haltOverflow_paused_snaps_diags_extendLost_replayOwed_waitFor_containedUs_resetStalls_resetSeed (by decide +kernel) ?_
  exact PadReg.refl _ _

theorem coldJournal_only (x : Journal) (vddm : Bool) : Keep JnReg.Same [.opened, .bank0, .bank1, .fromFlush, .lost, .shutdownDone, .role, .term, .nextSeq, .seq, .shutting, .flushFrom, .flushWait, .bootAfterFlush, .held, .deferNext, .rr] x (coldJournal x vddm) := by
  unfold coldJournal
  try dsimp -proj only
  refine Journal.set_opened_bank0_bank1_fromFlush_lost_shutdownDone_role_term_nextSeq_seq_shutting_flushFrom_flushWait_bootAfterFlush_held_deferNext_rr (by decide +kernel) ?_
  exact JnReg.refl _ _

theorem coldHayloft_only (x : Hayloft) : Keep HlReg.Same [.geo, .targets, .objs, .certsNew, .failed0, .failed1, .ready, .rebuilding, .spaceLow, .flushReady, .wpReleased, .cmdErr, .singleCopy, .nf0, .nf1] x (coldHayloft x) := by
  unfold coldHayloft
  try dsimp -proj only
  refine Hayloft.set_geo_targets_objs_certsNew_failed0_failed1_ready_rebuilding_spaceLow_flushReady_wpReleased_cmdErr_singleCopy_nf0_nf1 (by decide +kernel) ?_
  exact HlReg.refl _ _

theorem coldClear_only (s : State) (vddm : Bool) : Only (Part.reboot) s (coldClear s vddm) := by
  have h := dropWriting_only s
  have hm : ∀ p, p ≠ .yardRetired → p ≠ .pending → p ∈ (Part.reboot) := fun p h1 h2 =>
    within_mem (l := Part.all.filter fun p => decide (p ≠ .yardRetired ∧ p ≠ .pending)) (by decide +kernel) (by simp [p.mem_all, h1, h2])
  refine ⟨fun p hp => ?_⟩
  by_cases h1 : p = .yardRetired
  · exact h1 ▸ h.same .yardRetired (by decide +kernel)
  · by_cases h2 : p = .pending
    · exact h2 ▸ h.same .pending (by decide +kernel)
    · exact absurd (hm p h1 h2) hp

theorem reboot_only (s : State) (b : BootIn) (clock : Bool) : Only (Part.reboot) s (reboot s b clock) := by
  unfold reboot
  try dsimp -proj only
  refine Only.then (coldBoot_only ..) (by decide +kernel) ?_
  refine put_sys ?_ ?_
  · refine Sys.set_causeClock (by decide +kernel) ?_
    exact SysReg.refl _ _
  · refine Only.then (coldClear_only ..) (by decide +kernel) ?_
    exact Only.refl _ _

theorem programSlot_only (s : State) (i : ℕ) (x : LedgerSlot) : Only [.lc .slots] s (programSlot s i x) := by
  unfold programSlot
  try dsimp -proj only
  refine put_lc ?_ ?_
  · refine LifeCycle.set_slots (by decide +kernel) ?_
    exact LcReg.refl _ _
  · exact Only.refl _ _

theorem seqCycle_only (s : State) (n : ℕ) : Only [.stall .sequ, .freeCtr] s (seqCycle s n) := by
  unfold seqCycle
  try dsimp -proj only
  split
  · exact Only.refl _ _
  · split
    · exact Only.refl _ _
    · refine modSt_in ?_ ?_
      · refine Stall.set_sequ (by decide +kernel) ?_
        exact StallReg.refl _ _
      · refine Only.then (draw_only ..) (by decide +kernel) ?_
        exact Only.refl _ _

theorem seqTick_only (s : State) : Only [.stall .sequ, .freeCtr] s (seqTick s) := by
  unfold seqTick
  try dsimp -proj only
  split
  · refine Only.foldl _ (fun t x => ?_) ?_
    · refine Only.then (seqCycle_only ..) (by decide +kernel) ?_
      exact Only.refl _ _
    · exact Only.refl _ _
  · exact Only.refl _ _

theorem advance_only (s : State) : Only [.time] s (advance s) := by
  unfold advance
  try dsimp -proj only
  refine put_time ?_ ?_
  · decide +kernel
  · exact Only.refl _ _

theorem tick_only (s : State) : Only [.stall .sequ, .rng .fifo, .rng .overflow, .time, .freeCtr] s (tick s) := by
  unfold tick
  try dsimp -proj only
  split
  · refine Only.then (pushRaw_only ..) (by decide +kernel) ?_
    refine Only.then (seqTick_only ..) (by decide +kernel) ?_
    refine Only.then (advance_only ..) (by decide +kernel) ?_
    exact Only.refl _ _
  · refine Only.then (seqTick_only ..) (by decide +kernel) ?_
    refine Only.then (advance_only ..) (by decide +kernel) ?_
    exact Only.refl _ _

theorem installHbs_only (s : State) (n : ℕ) (l : List ℕ) : Only [.tk .slots, .tk .hbs, .cache] s (installHbs s n l) := by
  unfold installHbs
  try dsimp -proj only
  split
  · refine Only.then (putHbs_only ..) (by decide +kernel) ?_
    refine Only.then (installSlot_only ..) (by decide +kernel) ?_
    exact Only.refl _ _
  · split
    · refine Only.then ((addCache_only ..).get ‹_›) (by decide +kernel) ?_
      refine Only.then (putHbs_only ..) (by decide +kernel) ?_
      refine Only.then (installSlot_only ..) (by decide +kernel) ?_
      exact Only.refl _ _
    · refine Only.then (putHbs_only ..) (by decide +kernel) ?_
      refine Only.then (installSlot_only ..) (by decide +kernel) ?_
      exact Only.refl _ _

theorem storeCap_only (s : State) : Only [.en .cmeas, .en .cmeasCap] s (storeCap s) := by
  unfold storeCap
  try dsimp -proj only
  split
  · refine put_en ?_ ?_
    · refine Energy.set_cmeas_cmeasCap (by decide +kernel) ?_
      exact EnReg.refl _ _
    · exact Only.refl _ _
  · exact Only.refl _ _

theorem sendObject_only (s : State) (o : ℕ) : Only [.tt .txSeq, .tt .unacked, .out] s (sendObject s o) := by
  unfold sendObject
  try dsimp -proj only
  split
  · exact Only.refl _ _
  · split
    · refine Only.then (sendFrame_only ..) (by decide +kernel) ?_
      exact Only.refl _ _
    · split
      · exact Only.refl _ _
      · refine Only.then (sendFrame_only ..) (by decide +kernel) ?_
        exact Only.refl _ _

theorem clockLoss_only (s : State) (source : ℕ) (kind : ℕ) : Only (Part.finishJob ++ ([.sys .wakeDriven, .sys .timeJournal, .dbg .scope, .dbg .padMask, .en .shed, .en .flushNj, .en .flushConv, .en .reserveLow, .en .flushActive, .port .linkUp, .port .linkState, .port .ltrUs, .port .ltrLive, .port .ltrQueue, .fn .cfg, .fn .pmeStatus, .fn .vecs, .fn .cmpExpect, .fn .cmpSpoiled, .fn .cmpEq, .fn .cmpNe, .queue .a, .queue .headDeferred, .queue .copies, .queue .shadowOwed, .pad .caps, .pad .genDue, .pad .results, .pad .snaps, .pad .extendLost, .jn .opened, .jn .nextSeq, .jn .seq, .jn .flushFrom, .stall .lastPaddock, .stall .inPool, .stall .dedicated, .stall .muckouts, .stall .runs, .stall .unsound, .stall .dirty, .stall .prefEnded, .stall .ratchet, .stall .ratchetCount, .stall .source, .stall .ucodeOk, .stall .cmdRd, .stall .cmdWr, .stall .spare, .stall .reservedFor, .stall .muckAtWake, .stall .operand, .core .state, .core .w, .core .pc, .core .waiting, .core .loading, .fc .log, .fc .dropped, .fc .severeLost, .fc .overflowed, .fc .out, .fc .buckets, .fc .corrected, .fc .toLog, .fc .escNow, .fc .retireNow, .hl .boundB, .tt .lanes, .lk .tests, .time, .out] : List Part)) s (clockLoss s source kind) := by
  unfold clockLoss
  try dsimp -proj only
  split
  · refine Only.then (startFlush_only ..) (by decide +kernel) ?_
    refine Only.then (report_only ..) (by decide +kernel) ?_
    exact Only.refl _ _
  · refine Only.then (report_only ..) (by decide +kernel) ?_
    exact Only.refl _ _

theorem debugPut_only (s : State) (n : ℕ) (i : ℕ) (x : TW) : Only [.core .mem] s (debugPut s n i x) := by
  unfold debugPut
  try dsimp -proj only
  split
  · refine modCore_in ?_ ?_
    · refine Core.set_mem (by decide +kernel) ?_
      exact CoreReg.refl _ _
    · exact Only.refl _ _
  · exact Only.refl _ _

theorem functionReset_only (s : State) (n : ℕ) : Only (Part.functionReset) s (functionReset s n) := by
  unfold functionReset
  try dsimp -proj only
  split
  · refine Only.then (resetFn_only ..) (by decide +kernel) ?_
    refine put_port ?_ ?_
    · refine PortReg.then (resetPort_only ..) (by decide +kernel) ?_
      exact PortReg.refl _ _
    · refine Only.then (dropVfs_only ..) (by decide +kernel) ?_
      exact Only.refl _ _
  · refine Only.then (resetFn_only ..) (by decide +kernel) ?_
    exact Only.refl _ _

theorem coreOff_only (c : Core) : Keep CoreReg.Same [.state, .w, .v, .mlo, .mhi, .quo, .rem, .flg, .vff, .dsp, .pc, .mem, .mul, .div, .rstack, .spill, .codeAt, .codeLen, .dsLow, .dsHigh, .spillAt, .spillLen, .trapVec, .trapActive, .double, .boot, .vecUp, .vecOn, .windows, .waiting, .loading] c (coreOff c) := by
  unfold coreOff
  try dsimp -proj only
  refine Core.set_state_w_v_mlo_mhi_quo_rem_flg_vff_dsp_pc_mem_mul_div_rstack_spill_codeAt_codeLen_dsLow_dsHigh_spillAt_spillLen_trapVec_trapActive_double_boot_vecUp_vecOn_windows_waiting_loading (by decide +kernel) ?_
  exact CoreReg.refl _ _

theorem removePaddock_only (s : State) (p : ℕ) : Only [.en .padEnergy, .pad .curGen, .pad .genDue, .pad .drbg, .pad .results, .pad .mrs, .pad .haltLog, .pad .haltOverflow, .pad .paused, .pad .snaps, .pad .diags, .pad .extendLost, .pad .replayOwed, .pad .waitFor, .pad .containedUs, .pad .resetStalls, .pad .resetSeed, .pad .cacheLost, .stall .state, .stall .jobs, .stall .reqFault, .stall .reqStop, .stall .reqClaim, .stall .reqYield, .stall .muckFailed, .stall .muckThen, .stall .sequ, .stall .tree, .tk .slots, .tk .blobs, .cache] s (removePaddock s p) := by
  unfold removePaddock
  try dsimp -proj only
  refine put_en ?_ ?_
  · refine Energy.set_padEnergy (by decide +kernel) ?_
    exact EnReg.refl _ _
  · refine modPad_in ?_ ?_
    · refine Pad.set_curGen_genDue_drbg_results_mrs_haltLog_haltOverflow_paused_snaps_diags_extendLost_replayOwed_waitFor_containedUs_resetStalls_resetSeed_cacheLost (by decide +kernel) ?_
      exact PadReg.refl _ _
    · refine Only.foldl _ (fun t x => ?_) ?_
      · refine Only.then (removeCache_only ..) (by decide +kernel) ?_
        exact Only.refl _ _
      · refine Only.foldl _ (fun t x => ?_) ?_
        · refine Only.then (removeBlob_only ..) (by decide +kernel) ?_
          exact Only.refl _ _
        · refine Only.foldl _ (fun t x => ?_) ?_
          · refine Only.then (leaveStall_only ..) (by decide +kernel) ?_
            exact Only.refl _ _
          · refine Only.foldl _ (fun t x => ?_) ?_
            · refine Only.then (eraseSlot_only ..) (by decide +kernel) ?_
              exact Only.refl _ _
            · exact Only.refl _ _

theorem shrinkCache_only (s : State) (w : PartialPlan) : Only [.cache] s (shrinkCache s w) := by
  unfold shrinkCache
  try dsimp -proj only
  refine Only.foldl _ (fun t x => ?_) ?_
  · split
    · exact Only.refl _ _
    · refine Only.then (removeCache_only ..) (by decide +kernel) ?_
      exact Only.refl _ _
  · refine Only.then (evictFor_only ..) (by decide +kernel) ?_
    exact Only.refl _ _

theorem createPaddock_only (s : State) (p : ℕ) : Only (Part.request ++ ([.en .padEnergy, .pad .inc] : List Part)) s (createPaddock s p) := by
  unfold createPaddock
  try dsimp -proj only
  refine put_en ?_ ?_
  · refine Energy.set_padEnergy (by decide +kernel) ?_
    exact EnReg.refl _ _
  · refine Only.then (reseedPad_only ..) (by decide +kernel) ?_
    refine modPad_in ?_ ?_
    · refine Pad.set_genDue_inc (by decide +kernel) ?_
      exact PadReg.refl _ _
    · exact Only.refl _ _

theorem switchPartial_only (s : State) (w : PartialPlan) : Only (Part.request ++ ([.sys .wakeDriven, .plan .pads, .plan .sheds, .pl .busy, .pl .phase, .pl .swap, .en .padEnergy, .port .linkState, .fn .pmeStatus, .fn .vecs, .pad .results, .pad .mrs, .pad .haltLog, .pad .haltOverflow, .pad .paused, .pad .inc, .pad .snaps, .pad .diags, .pad .extendLost, .pad .replayOwed, .pad .waitFor, .pad .containedUs, .pad .resetStalls, .pad .cacheLost, .jn .recDigests, .stall .state, .stall .dedicated, .stall .jobs, .stall .reqFault, .stall .reqStop, .stall .reqClaim, .stall .reqYield, .stall .muckFailed, .stall .muckThen, .stall .spare, .stall .reservedFor, .stall .sequ, .stall .tree, .tk .slots, .tk .blobs, .tk .hbs, .core .state, .core .w, .core .v, .core .mlo, .core .mhi, .core .quo, .core .rem, .core .flg, .core .vff, .core .dsp, .core .pc, .core .mem, .core .mul, .core .div, .core .rstack, .core .spill, .core .codeAt, .core .codeLen, .core .dsLow, .core .dsHigh, .core .spillAt, .core .spillLen, .core .trapVec, .core .trapActive, .core .double, .core .lastCode, .core .traps, .core .declass, .core .boot, .core .vecUp, .core .vecOn, .core .windows, .core .cmdErr, .core .waiting, .core .loading, .hl .auditLog, .hl .partials, .hl .swapImage, .hl .serials, .jobs, .yard, .cache, .out] : List Part)) s (switchPartial s w) := by
  unfold switchPartial
  try dsimp -proj only
  refine Only.then (recheck_only ..) (by decide +kernel) ?_
  refine Only.foldl _ (fun t x => ?_) ?_
  · refine Only.then (sweepKind_only ..) (by decide +kernel) ?_
    exact Only.refl _ _
  · refine Only.then (raisePad_only ..) (by decide +kernel) ?_
    refine Only.then (auditAdd_only ..) (by decide +kernel) ?_
    refine Only.then (journalWrite_only ..) (by decide +kernel) ?_
    refine modPad_in ?_ ?_
    · refine Pad.set_paused (by decide +kernel) ?_
      exact PadReg.refl _ _
    · refine Only.then (noteSerial_only ..) (by decide +kernel) ?_
      refine put_pl_jn_hl ?_ ?_ ?_ ?_
      · refine PlanCtl.set_busy_phase_swap (by decide +kernel) ?_
        exact PlReg.refl _ _
      · refine Journal.set_recDigests (by decide +kernel) ?_
        exact JnReg.refl _ _
      · refine Hayloft.set_partials_swapImage (by decide +kernel) ?_
        exact HlReg.refl _ _
      · split
        · refine Only.then (drawGen_only ..) (by decide +kernel) ?_
          refine Only.then (createPaddock_only ..) (by decide +kernel) ?_
          refine Only.then (installPartial_only ..) (by decide +kernel) ?_
          split
          · refine Only.then (removePaddock_only ..) (by decide +kernel) ?_
            exact Only.refl _ _
          · refine Only.then (shrinkCache_only ..) (by decide +kernel) ?_
            exact Only.refl _ _
        · refine Only.then (installPartial_only ..) (by decide +kernel) ?_
          split
          · refine Only.then (removePaddock_only ..) (by decide +kernel) ?_
            exact Only.refl _ _
          · refine Only.then (shrinkCache_only ..) (by decide +kernel) ?_
            exact Only.refl _ _

end Sys2Proof.Machine
end

