-- ==== Sys2Proof/Laws/OnlyHost.lean ====
section
/-! SUPPORT. OnlyHost.lean: frames: which registers each operation of State may change, of the commands of the host interface, registers, system, energy, plan, life cycle and links. -/

set_option Elab.async false

open Sys2Proof

namespace Sys2Proof.Machine

theorem execHiVecModWrite_only (fn : ℕ) (vector : ℕ) (value : W64) (size : ℕ) (s : State) : Only [.port .linkState, .fn .denied, .fn .vecs, .fn .cmpExpect, .fn .cmpSpoiled, .fn .cmpEq, .fn .cmpNe, .pad .results, .out] s (after s (execHiVecModWrite fn vector value size s)) := by
  unfold execHiVecModWrite
  dsimp -proj only [after]
  split
  · exact Only.refl _ _
  · split
    · refine Only.then (deny_only ..) (by decide +kernel) ?_
      exact Only.refl _ _
    · split
      · refine Only.then (dueVec_only ..) (by decide +kernel) ?_
        refine Only.then (modVec_only ..) (by decide +kernel) ?_
        exact Only.refl _ _
      · refine Only.then (modVec_only ..) (by decide +kernel) ?_
        exact Only.refl _ _

theorem execRefclkLoss_only (s : State) : Only (Part.raiseFault ++ ([.sys .refclk, .sys .paddockResets, .port .linkUp, .rng .retired] : List Part)) s (after s (execRefclkLoss s)) := by
  unfold execRefclkLoss
  dsimp -proj only [after]
  split
  · exact Only.refl _ _
  · split
    · split
      · refine Only.then (draw_only ..) (by decide +kernel) ?_
        exact Only.refl _ _
      · split
        · refine put_sys_port ?_ ?_ ?_
          · refine Sys.set_refclk (by decide +kernel) ?_
            exact SysReg.refl _ _
          · refine Port.set_linkUp_linkState (by decide +kernel) ?_
            exact PortReg.refl _ _
          · refine Only.then (draw_only ..) (by decide +kernel) ?_
            exact Only.refl _ _
        · refine Only.then (settle_only ..) (by decide +kernel) ?_
          refine Only.then (raiseFault_only ..) (by decide +kernel) ?_
          refine put_sys_port ?_ ?_ ?_
          · refine Sys.set_refclk (by decide +kernel) ?_
            exact SysReg.refl _ _
          · refine Port.set_linkUp_linkState (by decide +kernel) ?_
            exact PortReg.refl _ _
          · refine Only.then (draw_only ..) (by decide +kernel) ?_
            exact Only.refl _ _
    · split
      · dsimp only
        exact Only.refl _ _
      · split
        · refine put_sys_port ?_ ?_ ?_
          · refine Sys.set_refclk (by decide +kernel) ?_
            exact SysReg.refl _ _
          · refine Port.set_linkUp_linkState (by decide +kernel) ?_
            exact PortReg.refl _ _
          · dsimp only
            exact Only.refl _ _
        · refine Only.then (settle_only ..) (by decide +kernel) ?_
          refine Only.then (raiseFault_only ..) (by decide +kernel) ?_
          refine put_sys_port ?_ ?_ ?_
          · refine Sys.set_refclk (by decide +kernel) ?_
            exact SysReg.refl _ _
          · refine Port.set_linkUp_linkState (by decide +kernel) ?_
            exact PortReg.refl _ _
          · dsimp only
            exact Only.refl _ _

theorem remirror_only (s : State) : Only [.tt .txSeq, .tt .unacked, .out] s (remirror s) := by
  unfold remirror
  try dsimp -proj only
  refine Only.foldl _ (fun t x => ?_) ?_
  · refine Only.then (sendFrame_only ..) (by decide +kernel) ?_
    exact Only.refl _ _
  · exact Only.refl _ _

theorem execTwinPartnerPresent_only (term : ℕ) (side : Bool) (s : State) : Only (Part.settle ++ ([.sys .stage, .sys .bootState, .jn .term, .tt .mirror, .tt .mirrorA, .tt .mirrorCaps, .tt .partnerFailed, .tt .partnerTerm, .tt .partnerPresent] : List Part)) s (after s (execTwinPartnerPresent term side s)) := by
  unfold execTwinPartnerPresent
  dsimp -proj only [after]
  split
  · exact Only.refl _ _
  · split
    · refine Only.then (settle_only ..) (by decide +kernel) ?_
      refine Only.then (openGate_only ..) (by decide +kernel) ?_
      refine put_jn ?_ ?_
      · refine Journal.set_role (by decide +kernel) ?_
        exact JnReg.refl _ _
      · refine Only.then (yieldTerm_only ..) (by decide +kernel) ?_
        refine Only.then (causeEnds_only ..) (by decide +kernel) ?_
        refine put_tt ?_ ?_
        · refine Tether.set_linkUp_partnerFailed_partnerTerm_partnerPresent (by decide +kernel) ?_
          exact TtReg.refl _ _
        · exact Only.refl _ _
    · split
      · refine put_jn ?_ ?_
        · refine Journal.set_role (by decide +kernel) ?_
          exact JnReg.refl _ _
        · refine Only.then (remirror_only ..) (by decide +kernel) ?_
          refine Only.then (causeEnds_only ..) (by decide +kernel) ?_
          refine put_tt ?_ ?_
          · refine Tether.set_linkUp_partnerFailed_partnerTerm_partnerPresent (by decide +kernel) ?_
            exact TtReg.refl _ _
          · exact Only.refl _ _
      · refine Only.then (causeEnds_only ..) (by decide +kernel) ?_
        refine put_tt ?_ ?_
        · refine Tether.set_linkUp_partnerFailed_partnerTerm_partnerPresent (by decide +kernel) ?_
          exact TtReg.refl _ _
        · exact Only.refl _ _

theorem leaveDeepSleep_only (s : State) : Only [.sys .wakeDriven, .sys .deepSleep, .sys .timeJournal, .en .shed, .port .linkState, .port .doorbells, .fn .pmeStatus, .fn .denied, .fn .vecs, .fn .cmpExpect, .fn .cmpSpoiled, .fn .cmpEq, .fn .cmpNe, .queue .state, .queue .p, .queue .errReason, .queue .errDetail, .queue .errIndex, .queue .defer, .queue .copies, .queue .heldBell, .queue .shadowOwed, .queue .pend, .queue .fetchFailed, .queue .fetchTried, .queue .recordedP, .pad .results, .pad .haltLog, .pad .haltOverflow, .jn .seq, .tp .sleepScramble, .out] s (leaveDeepSleep s) := by
  unfold leaveDeepSleep
  try dsimp -proj only
  split
  · exact Only.refl _ _
  · refine Only.then (runBells_only ..) (by decide +kernel) ?_
    refine Only.then (endDeepSleep_only ..) (by decide +kernel) ?_
    exact Only.refl _ _

theorem execI3cCapSet_only (capQw : ℕ) (s : State) : Only (Part.settle ++ ([.sys .deepSleep, .en .shed, .en .i3cCap, .tp .sleepScramble] : List Part)) s (after s (execI3cCapSet capQw s)) := by
  unfold execI3cCapSet
  dsimp -proj only [after]
  split
  · refine put_en ?_ ?_
    · refine Energy.set_i3cCap (by decide +kernel) ?_
      exact EnReg.refl _ _
    · split
      · exact Only.refl _ _
      · refine Only.then (settle_only ..) (by decide +kernel) ?_
        refine Only.then (leaveDeepSleep_only ..) (by decide +kernel) ?_
        exact Only.refl _ _
  · exact Only.refl _ _

theorem takeObject_only (s : State) (o : ℕ) (v : ℕ) (l : List ℕ) : Only [.tk .slots, .tk .blobs, .tt .mirrorObjs, .cache] s (takeObject s o v l) := by
  unfold takeObject
  try dsimp -proj only
  refine put_tt ?_ ?_
  · refine Tether.set_mirrorObjs (by decide +kernel) ?_
    exact TtReg.refl _ _
  · refine Only.then (installObject_only ..) (by decide +kernel) ?_
    exact Only.refl _ _

theorem modTest_only (s : State) (n : ℕ) (f : LinkTest → LinkTest) : Only [.lk .tests] s (modTest s n f) := by
  unfold modTest
  try dsimp -proj only
  refine put_lk ?_ ?_
  · refine Links.set_tests (by decide +kernel) ?_
    exact LkReg.refl _ _
  · exact Only.refl _ _

theorem startTest_only (s : State) (n : ℕ) (v : ℕ) : Only [.tt .lanes, .lk .tests] s (startTest s n v) := by
  unfold startTest
  try dsimp -proj only
  split
  · refine Only.then (modLane_only ..) (by decide +kernel) ?_
    refine Only.then (modTest_only ..) (by decide +kernel) ?_
    exact Only.refl _ _
  · refine Only.then (modTest_only ..) (by decide +kernel) ?_
    exact Only.refl _ _

theorem runTest_only (s : State) (v : ℕ) : Only [.tt .lanes, .lk .tests] s (runTest s v) := by
  unfold runTest
  try dsimp -proj only
  split
  · refine Only.then (modTest_only ..) (by decide +kernel) ?_
    exact Only.refl _ _
  · split
    · refine Only.then (modTest_only ..) (by decide +kernel) ?_
      exact Only.refl _ _
    · refine Only.then (startTest_only ..) (by decide +kernel) ?_
      exact Only.refl _ _

theorem countCause_only (s : State) (j : Job) : Only [.fn .vecs] s (countCause s j) := by
  unfold countCause
  try dsimp -proj only
  split
  · exact Only.refl _ _
  · refine Only.then (modVec_only ..) (by decide +kernel) ?_
    exact Only.refl _ _

theorem readFails_only (s : State) (n : ℕ) (kind : ℕ) : Only [.fn .cfg, .fn .errPoisoned, .out] s (readFails s n kind) := by
  unfold readFails
  try dsimp -proj only
  refine Only.then (aer_only ..) (by decide +kernel) ?_
  split
  · refine modFn_in ?_ ?_
    · refine Fn.set_errPoisoned (by decide +kernel) ?_
      exact FnReg.refl _ _
    · exact Only.refl _ _
  · exact Only.refl _ _

theorem noteFail_only (s : State) (n : ℕ) (queue : ℕ) (job : Bool) (kind : ℕ) : Only [.fn .errTimeout, .fn .errUrCa, .fn .errQueue, .fn .errJob] s (noteFail s n queue job kind) := by
  unfold noteFail
  try dsimp -proj only
  refine modFn_in ?_ ?_
  · refine Fn.set_errTimeout_errUrCa_errQueue_errJob (by decide +kernel) ?_
    exact FnReg.refl _ _
  · exact Only.refl _ _

theorem imageFails_only (s : State) (core : ℕ) (kind : ℕ) : Only [.sys .wakeDriven, .port .linkState, .fn .cfg, .fn .pmeStatus, .fn .errTimeout, .fn .errUrCa, .fn .errPoisoned, .fn .errQueue, .fn .errJob, .fn .vecs, .pad .extendLost, .core .state, .core .w, .core .pc, .core .cmdErr, .core .waiting, .core .loading, .out] s (imageFails s core kind) := by
  unfold imageFails
  try dsimp -proj only
  split
  · exact Only.refl _ _
  · split
    · exact Only.refl _ _
    · split
      · refine modCore_in ?_ ?_
        · refine Core.set_loading (by decide +kernel) ?_
          exact CoreReg.refl _ _
        · refine Only.then (readFails_only ..) (by decide +kernel) ?_
          exact Only.refl _ _
      · refine modCore_in ?_ ?_
        · refine Core.set_cmdErr (by decide +kernel) ?_
          exact CoreReg.refl _ _
        · refine Only.then (stopCore_only ..) (by decide +kernel) ?_
          refine Only.then (noteFail_only ..) (by decide +kernel) ?_
          refine Only.then (readFails_only ..) (by decide +kernel) ?_
          exact Only.refl _ _

theorem execSyReset_only (fn : ℕ) (value : W64) (s : State) : Only (Part.settle) s (after s (execSyReset fn value s)) := by
  unfold execSyReset
  dsimp -proj only [after]
  split
  · refine Only.then (settle_only ..) (by decide +kernel) ?_
    refine Only.then (warmReset_only ..) (by decide +kernel) ?_
    exact Only.refl _ _
  · exact Only.refl _ _

theorem completeLedger_only (s : State) (t : Bytes) : Only [.lc .slots] s (completeLedger s t) := by
  unfold completeLedger
  try dsimp -proj only
  split
  · exact Only.refl _ _
  · refine put_lc ?_ ?_
    · refine LifeCycle.set_slots (by decide +kernel) ?_
      exact LcReg.refl _ _
    · exact Only.refl _ _

theorem retryRead_only (s : State) (n : ℕ) (addr : ℕ) (len : ℕ) : Only [.out] s (retryRead s n addr len) := by
  unfold retryRead
  try dsimp -proj only
  split
  · refine Only.then (emit_only ..) (by decide +kernel) ?_
    exact Only.refl _ _
  · exact Only.refl _ _

theorem resend_only (s : State) (lane : ℕ) : Only (Part.raiseFault) s (resend s lane) := by
  unfold resend
  try dsimp -proj only
  split
  · exact Only.refl _ _
  · refine Only.then (raiseFault_only ..) (by decide +kernel) ?_
    refine Only.then (retransmit_only ..) (by decide +kernel) ?_
    exact Only.refl _ _

theorem execTetherRetransmitTimeout_only (s : State) : Only (Part.raiseFault ++ ([.sys .paddockResets, .rng .retired] : List Part)) s (after s (execTetherRetransmitTimeout s)) := by
  unfold execTetherRetransmitTimeout
  dsimp -proj only [after]
  split
  · refine Only.then (settle_only ..) (by decide +kernel) ?_
    refine Only.then (resend_only ..) (by decide +kernel) ?_
    refine Only.then (draw_only ..) (by decide +kernel) ?_
    exact Only.refl _ _
  · exact Only.refl _ _

theorem commitRefill_only (s : State) (n : ℕ) (h : ℕ) : Only (Part.allQueue ++ ([.tk .hbs] : List Part)) s (commitRefill s n h) := by
  unfold commitRefill
  try dsimp -proj only
  refine Only.then (recheck_only ..) (by decide +kernel) ?_
  refine Only.then (startRefill_only ..) (by decide +kernel) ?_
  refine Only.then (modHbs_only ..) (by decide +kernel) ?_
  exact Only.refl _ _

theorem execRefillCommit_only (slot : ℕ) (s : State) : Only (Part.allQueue ++ ([.tk .hbs, .tt .txSeq, .tt .unacked, .out] : List Part)) s (after s (execRefillCommit slot s)) := by
  unfold execRefillCommit
  dsimp -proj only [after]
  split
  · exact Only.refl _ _
  · split
    · refine Only.then (sendFrame_only ..) (by decide +kernel) ?_
      exact Only.refl _ _
    · refine Only.then (commitRefill_only ..) (by decide +kernel) ?_
      exact Only.refl _ _

theorem execPoolPreferenceExpiry_only (stall : ℕ) (s : State) : Only [.stall .prefEnded] s (after s (execPoolPreferenceExpiry stall s)) := by
  unfold execPoolPreferenceExpiry
  dsimp -proj only [after]
  split
  · refine modSt_in ?_ ?_
    · refine Stall.set_prefEnded (by decide +kernel) ?_
      exact StallReg.refl _ _
    · exact Only.refl _ _
  · exact Only.refl _ _

theorem execPowerFailFlush_only (s : State) : Only (Part.finishJob ++ ([.sys .powerFailN, .sys .wakeDriven, .sys .deepSleep, .sys .timeJournal, .dbg .scope, .dbg .padMask, .en .shed, .en .flushNj, .en .flushConv, .en .reserveLow, .en .flushActive, .port .linkUp, .port .linkState, .port .ltrUs, .port .ltrLive, .port .ltrQueue, .fn .pmeStatus, .fn .vecs, .queue .a, .queue .headDeferred, .queue .copies, .queue .shadowOwed, .pad .caps, .pad .genDue, .pad .snaps, .pad .extendLost, .jn .opened, .jn .nextSeq, .jn .seq, .jn .flushFrom, .stall .lastPaddock, .stall .inPool, .stall .dedicated, .stall .muckouts, .stall .runs, .stall .unsound, .stall .dirty, .stall .prefEnded, .stall .ratchet, .stall .ratchetCount, .stall .source, .stall .ucodeOk, .stall .cmdRd, .stall .cmdWr, .stall .spare, .stall .reservedFor, .stall .muckAtWake, .stall .operand, .core .state, .core .w, .core .pc, .core .waiting, .core .loading, .tp .sleepScramble, .hl .boundB, .tt .lanes, .lk .tests, .time, .out] : List Part)) s (after s (execPowerFailFlush s)) := by
  unfold execPowerFailFlush
  dsimp -proj only [after]
  split
  · refine Only.then (startFlush_only ..) (by decide +kernel) ?_
    refine put_sys ?_ ?_
    · refine Sys.set_powerFailN (by decide +kernel) ?_
      exact SysReg.refl _ _
    · refine Only.then (endDeepSleep_only ..) (by decide +kernel) ?_
      exact Only.refl _ _
  · refine put_sys ?_ ?_
    · refine Sys.set_powerFailN (by decide +kernel) ?_
      exact SysReg.refl _ _
    · refine Only.then (endDeepSleep_only ..) (by decide +kernel) ?_
      exact Only.refl _ _

theorem takeDigest_only (s : State) (term : ℕ) (serial : ℕ) (digest : List ℕ) : Only [.sys .wakeDriven, .pl .err, .port .linkState, .fn .cfg, .fn .pmeStatus, .fn .vecs, .fn .cmpExpect, .fn .cmpSpoiled, .fn .cmpEq, .fn .cmpNe, .pad .results, .jn .opened, .fc .log, .fc .dropped, .fc .severeLost, .fc .overflowed, .fc .out, .fc .buckets, .fc .corrected, .fc .toLog, .fc .escNow, .fc .retireNow, .tt .partnerTerm, .tt .partnerSerial, .tt .partnerPresent, .tt .mismatch, .out] s (takeDigest s term serial digest) := by
  unfold takeDigest
  try dsimp -proj only
  split
  · refine put_tt ?_ ?_
    · refine Tether.set_partnerTerm_partnerSerial_partnerPresent (by decide +kernel) ?_
      exact TtReg.refl _ _
    · exact Only.refl _ _
  · refine Only.then (report_only ..) (by decide +kernel) ?_
    refine put_pl_jn_tt ?_ ?_ ?_ ?_
    · refine PlanCtl.set_err (by decide +kernel) ?_
      exact PlReg.refl _ _
    · refine Journal.set_opened (by decide +kernel) ?_
      exact JnReg.refl _ _
    · refine Tether.set_mismatch (by decide +kernel) ?_
      exact TtReg.refl _ _
    · refine put_tt ?_ ?_
      · refine Tether.set_partnerTerm_partnerSerial_partnerPresent (by decide +kernel) ?_
        exact TtReg.refl _ _
      · exact Only.refl _ _

theorem dueVecs_only (s : State) (n : ℕ) (f : Vec → Bool) : Only [.port .linkState, .fn .vecs, .out] s (dueVecs s n f) := by
  unfold dueVecs
  try dsimp -proj only
  refine Only.foldl _ (fun t x => ?_) ?_
  · refine Only.then (dueVec_only ..) (by decide +kernel) ?_
    exact Only.refl _ _
  · exact Only.refl _ _

theorem writeHeld_only (s : State) (n : ℕ) : Only [.sys .timeJournal, .en .padEnergy, .port .linkState, .fn .vecs, .fn .cmpExpect, .fn .cmpSpoiled, .fn .cmpEq, .fn .cmpNe, .queue .ring, .queue .ringSecret, .pad .results, .pad .mrs, .pad .diags, .jn .seq, .tk .slots, .tk .blobs, .core .mem, .jobs, .yard, .out] s (writeHeld s n) := by
  unfold writeHeld
  try dsimp -proj only
  refine Only.foldl _ (fun t x => ?_) ?_
  · split
    · split
      · refine Only.then (countCause_only ..) (by decide +kernel) ?_
        exact Only.refl _ _
      · exact Only.refl _ _
    · exact Only.refl _ _
  · refine Only.foldl _ (fun t x => ?_) ?_
    · refine Only.then (issueHeld_only ..) (by decide +kernel) ?_
      exact Only.refl _ _
    · exact Only.refl _ _

theorem wakeFn_only (s : State) (n : ℕ) : Only [.sys .timeJournal, .en .padEnergy, .port .linkState, .fn .dState, .fn .vecs, .fn .cmpExpect, .fn .cmpSpoiled, .fn .cmpEq, .fn .cmpNe, .queue .shadowOwed, .queue .ring, .queue .ringSecret, .pad .results, .pad .mrs, .pad .diags, .jn .seq, .tk .slots, .tk .blobs, .core .mem, .jobs, .yard, .out] s (wakeFn s n) := by
  unfold wakeFn
  try dsimp -proj only
  split
  · exact Only.refl _ _
  · refine Only.then (dueVecs_only ..) (by decide +kernel) ?_
    refine Only.then (writeHeld_only ..) (by decide +kernel) ?_
    refine Only.then (payShadows_only ..) (by decide +kernel) ?_
    refine modFn_in ?_ ?_
    · refine Fn.set_dState_vecs (by decide +kernel) ?_
      exact FnReg.refl _ _
    · exact Only.refl _ _

theorem execDbgToken_only (token : Bytes) (s : State) : Only (Part.allDbg ++ ([.sys .tapIr, .lc .debugRecs, .rng .ymr, .hl .auditLog, .freeCtr] : List Part)) s (after s (execDbgToken token s)) := by
  unfold execDbgToken
  dsimp -proj only [after]
  split
  · refine put_sys_dbg_freeCtr ?_ ?_ ?_ ?_
    · refine Sys.set_tapIr (by decide +kernel) ?_
      exact SysReg.refl _ _
    · exact DbgReg.of_all (by decide +kernel)
    · decide +kernel
    · refine Only.then (auditAdd_only ..) (by decide +kernel) ?_
      refine Only.then (extendYmr_only ..) (by decide +kernel) ?_
      refine Only.then (writeDebug_only ..) (by decide +kernel) ?_
      exact Only.refl _ _
  · exact Only.refl _ _

theorem execAspmL1Entry_only (sub : ℕ) (clkreqHigh : Bool) (s : State) : Only [.port .linkState] s (after s (execAspmL1Entry sub clkreqHigh s)) := by
  unfold execAspmL1Entry
  dsimp -proj only [after]
  split
  · refine put_port ?_ ?_
    · refine Port.set_linkState (by decide +kernel) ?_
      exact PortReg.refl _ _
    · exact Only.refl _ _
  · exact Only.refl _ _

theorem afterAccept_only (s : State) : Only (Part.settle) s (afterAccept s) := by
  unfold afterAccept
  try dsimp -proj only
  refine Only.then (settle_only ..) (by decide +kernel) ?_
  refine Only.foldl _ (fun t x => ?_) ?_
  · refine Only.then (sweepKind_only ..) (by decide +kernel) ?_
    exact Only.refl _ _
  · exact Only.refl _ _

theorem acceptFails_only (s : State) (j : Job) : Only (Part.raiseFault) s (acceptFails s j) := by
  unfold acceptFails
  try dsimp -proj only
  refine Only.then (raiseFault_only ..) (by decide +kernel) ?_
  refine Only.then (draw_only ..) (by decide +kernel) ?_
  refine Only.then (dropEntry_only ..) (by decide +kernel) ?_
  exact Only.refl _ _

theorem execGateAccept_only (queue : ℕ) (written : Bool) (s : State) : Only (Part.raiseFault ++ ([.sys .paddockResets, .jn .nextSeq, .rng .retired, .hl .boundB, .time] : List Part)) s (after s (execGateAccept queue written s)) := by
  unfold execGateAccept
  dsimp -proj only [after]
  split
  · exact Only.refl _ _
  · split
    · exact Only.refl _ _
    · split
      · refine Only.then (afterAccept_only ..) (by decide +kernel) ?_
        refine Only.then (acceptEntry_only ..) (by decide +kernel) ?_
        exact Only.refl _ _
      · refine Only.then (settle_only ..) (by decide +kernel) ?_
        refine Only.then (acceptFails_only ..) (by decide +kernel) ?_
        exact Only.refl _ _

theorem clockBack_only (s : State) (boot : BootIn) : Only (Part.coldBoot ++ ([.sys .ttHbo, .sys .causeClock, .sys .paddockResets, .jn .bootAfterFlush, .stall .unsound, .stall .muckAtWake, .tk .lost, .fc .spareRows, .hl .rebuilding, .hl .singleCopy, .hl .retireMap, .tt .retraining, .tt .retrains, .tt .retransmits, .tt .split, .yardRetired] : List Part)) s (clockBack s boot) := by
  unfold clockBack
  try dsimp -proj only
  split
  · split
    · refine Only.then (settle_only ..) (by decide +kernel) ?_
      refine Only.then (coldBoot_only ..) (by decide +kernel) ?_
      refine put_sys ?_ ?_
      · refine Sys.set_causeClock (by decide +kernel) ?_
        exact SysReg.refl _ _
      · exact Only.refl _ _
    · refine Only.then (settle_only ..) (by decide +kernel) ?_
      refine Only.then (bootSheds_only ..) (by decide +kernel) ?_
      exact Only.refl _ _
  · split
    · refine put_jn ?_ ?_
      · refine Journal.set_bootAfterFlush (by decide +kernel) ?_
        exact JnReg.refl _ _
      · exact Only.refl _ _
    · exact Only.refl _ _

theorem execPllRelock_only (boot : BootIn) (s : State) : Only (Part.coldBoot ++ ([.sys .pllLocked, .sys .ttHbo, .sys .causeClock, .sys .paddockResets, .jn .bootAfterFlush, .stall .unsound, .stall .muckAtWake, .tk .lost, .fc .spareRows, .hl .rebuilding, .hl .singleCopy, .hl .retireMap, .tt .retraining, .tt .retrains, .tt .retransmits, .tt .split, .yardRetired] : List Part)) s (after s (execPllRelock boot s)) := by
  unfold execPllRelock
  dsimp -proj only [after]
  split
  · exact Only.refl _ _
  · refine Only.then (clockBack_only ..) (by decide +kernel) ?_
    refine put_sys ?_ ?_
    · refine Sys.set_pllLocked (by decide +kernel) ?_
      exact SysReg.refl _ _
    · exact Only.refl _ _

theorem outsideWindow_only (s : State) (n : ℕ) (len : ℕ) (write : Bool) : Only [.port .linkState, .fn .denied, .fn .cmpExpect, .fn .cmpSpoiled, .fn .cmpEq, .fn .cmpNe, .pad .results, .out] s (outsideWindow s n len write) := by
  unfold outsideWindow
  try dsimp -proj only
  split
  · refine Only.then (deny_only ..) (by decide +kernel) ?_
    exact Only.refl _ _
  · refine Only.then (reply_only ..) (by decide +kernel) ?_
    refine Only.then (deny_only ..) (by decide +kernel) ?_
    exact Only.refl _ _

theorem windowWrite_only (s : State) (n : ℕ) (core : ℕ) (addr : ℕ) (d : Bytes) : Only [.fn .denied, .fn .cmpExpect, .fn .cmpSpoiled, .fn .cmpEq, .fn .cmpNe, .pad .results, .core .mem] s (windowWrite s n core addr d) := by
  unfold windowWrite
  try dsimp -proj only
  split
  · refine modCore_in ?_ ?_
    · refine Core.set_mem (by decide +kernel) ?_
      exact CoreReg.refl _ _
    · exact Only.refl _ _
  · refine Only.then (deny_only ..) (by decide +kernel) ?_
    refine modCore_in ?_ ?_
    · refine Core.set_mem (by decide +kernel) ?_
      exact CoreReg.refl _ _
    · exact Only.refl _ _

theorem feedWrite_only (s : State) (n : ℕ) (p : ℕ) (off : ℕ) (d : Bytes) : Only [.fn .denied, .fn .cmpExpect, .fn .cmpSpoiled, .fn .cmpEq, .fn .cmpNe, .pad .results, .feeds] s (feedWrite s n p off d) := by
  unfold feedWrite
  try dsimp -proj only
  split
  · exact Only.refl _ _
  · split
    · refine Only.then (deny_only ..) (by decide +kernel) ?_
      exact Only.refl _ _
    · refine Only.then (modFeed_only ..) (by decide +kernel) ?_
      exact Only.refl _ _

theorem bar4Access_only (s : State) (n : ℕ) (off : ℕ) (write : Bool) (d : Bytes) (len : ℕ) : Only [.port .linkState, .fn .denied, .fn .cmpExpect, .fn .cmpSpoiled, .fn .cmpEq, .fn .cmpNe, .pad .results, .core .mem, .feeds, .out] s (bar4Access s n off write d len) := by
  unfold bar4Access
  try dsimp -proj only
  split
  · split
    · refine Only.then (outsideWindow_only ..) (by decide +kernel) ?_
      exact Only.refl _ _
    · split
      · refine Only.then (windowWrite_only ..) (by decide +kernel) ?_
        exact Only.refl _ _
      · refine Only.then (feedWrite_only ..) (by decide +kernel) ?_
        exact Only.refl _ _
  · split
    · refine Only.then (outsideWindow_only ..) (by decide +kernel) ?_
      exact Only.refl _ _
    · split
      · refine Only.then (reply_only ..) (by decide +kernel) ?_
        exact Only.refl _ _
      · refine Only.then (reply_only ..) (by decide +kernel) ?_
        exact Only.refl _ _

theorem execBar4WindowAccess_only (fn : ℕ) (offset : ℕ) (write : Bool) (data : Bytes) (len : ℕ) (s : State) : Only [.port .linkState, .fn .denied, .fn .cmpExpect, .fn .cmpSpoiled, .fn .cmpEq, .fn .cmpNe, .pad .results, .core .mem, .feeds, .out] s (after s (execBar4WindowAccess fn offset write data len s)) := by
  unfold execBar4WindowAccess
  dsimp -proj only [after]
  split
  · refine Only.then (bar4Access_only ..) (by decide +kernel) ?_
    exact Only.refl _ _
  · exact Only.refl _ _

theorem execPartialDrainTimeout_only (s : State) : Only (Part.allQueue ++ ([.pl .busy, .pl .phase, .pl .err, .pl .swap, .pl .applying, .pad .paused] : List Part)) s (after s (execPartialDrainTimeout s)) := by
  unfold execPartialDrainTimeout
  dsimp -proj only [after]
  split
  · refine Only.then (recheck_only ..) (by decide +kernel) ?_
    refine Only.then (abandonSwap_only ..) (by decide +kernel) ?_
    exact Only.refl _ _
  · exact Only.refl _ _

theorem addSample_only (s : State) (deltas : List (ℕ × ℕ)) : Only [.en .samples, .en .lastNj, .en .padSeen] s (addSample s deltas) := by
  unfold addSample
  try dsimp -proj only
  refine put_en ?_ ?_
  · refine Energy.set_samples_lastNj_padSeen (by decide +kernel) ?_
    exact EnReg.refl _ _
  · exact Only.refl _ _

theorem addCore_only (s : State) (e : ℕ × ℕ) : Only [.en .padEnergy, .en .coreNj] s (addCore s e) := by
  unfold addCore
  try dsimp -proj only
  split
  · exact Only.refl _ _
  · refine put_en ?_ ?_
    · refine Energy.set_padEnergy_coreNj (by decide +kernel) ?_
      exact EnReg.refl _ _
    · exact Only.refl _ _

theorem addActive_only (deltas : List (ℕ × ℕ)) (active : List (ℕ × ℕ × ℕ)) (s : State) (e : ℕ × ℕ × ℕ) : Only [.jobs, .yard] s (addActive deltas active s e) := by
  unfold addActive
  try dsimp -proj only
  refine Only.then (modJob_only ..) (by decide +kernel) ?_
  exact Only.refl _ _

theorem lowerStep_only (s : State) (i : ℕ) : Only [.en .step] s (lowerStep s i) := by
  unfold lowerStep
  try dsimp -proj only
  refine put_en ?_ ?_
  · refine Energy.set_step (by decide +kernel) ?_
    exact EnReg.refl _ _
  · exact Only.refl _ _

theorem planDown_only (s : State) : Only [.en .step, .en .capBinding, .en .withholdWakes, .en .withholdPads] s (planDown s) := by
  unfold planDown
  try dsimp -proj only
  split
  · refine put_en ?_ ?_
    · refine Energy.set_withholdWakes (by decide +kernel) ?_
      exact EnReg.refl _ _
    · refine put_en ?_ ?_
      · refine Energy.set_capBinding (by decide +kernel) ?_
        exact EnReg.refl _ _
      · exact Only.refl _ _
  · split
    · refine Only.then (lowerStep_only ..) (by decide +kernel) ?_
      refine put_en ?_ ?_
      · refine Energy.set_capBinding (by decide +kernel) ?_
        exact EnReg.refl _ _
      · exact Only.refl _ _
    · refine put_en ?_ ?_
      · refine Energy.set_withholdPads (by decide +kernel) ?_
        exact EnReg.refl _ _
      · refine put_en ?_ ?_
        · refine Energy.set_capBinding (by decide +kernel) ?_
          exact EnReg.refl _ _
        · exact Only.refl _ _

theorem planUp_only (s : State) : Only [.en .step, .en .capBinding, .en .withholdWakes, .en .withholdPads] s (planUp s) := by
  unfold planUp
  try dsimp -proj only
  refine put_en ?_ ?_
  · refine Energy.set_step_capBinding_withholdWakes_withholdPads (by decide +kernel) ?_
    exact EnReg.refl _ _
  · exact Only.refl _ _

theorem execEnergySample_only (deltas : List (ℕ × ℕ)) (parts : SampleParts) (s : State) : Only [.en .step, .en .meter, .en .padEnergy, .en .coreNj, .en .samples, .en .lastNj, .en .padSeen, .en .capBinding, .en .withholdWakes, .en .withholdPads, .jobs, .yard] s (after s (execEnergySample deltas parts s)) := by
  unfold execEnergySample
  dsimp -proj only [after]
  split
  · exact Only.refl _ _
  · split
    · refine Only.then (addSample_only ..) (by decide +kernel) ?_
      refine Only.foldl _ (fun t x => ?_) ?_
      · refine Only.then (addCore_only ..) (by decide +kernel) ?_
        exact Only.refl _ _
      · refine Only.foldl _ (fun t x => ?_) ?_
        · refine Only.then (addActive_only ..) (by decide +kernel) ?_
          exact Only.refl _ _
        · refine Only.foldl _ (fun t x => ?_) ?_
          · refine Only.then (addMeter_only ..) (by decide +kernel) ?_
            exact Only.refl _ _
          · exact Only.refl _ _
    · split
      · refine Only.then (planDown_only ..) (by decide +kernel) ?_
        refine Only.then (addSample_only ..) (by decide +kernel) ?_
        refine Only.foldl _ (fun t x => ?_) ?_
        · refine Only.then (addCore_only ..) (by decide +kernel) ?_
          exact Only.refl _ _
        · refine Only.foldl _ (fun t x => ?_) ?_
          · refine Only.then (addActive_only ..) (by decide +kernel) ?_
            exact Only.refl _ _
          · refine Only.foldl _ (fun t x => ?_) ?_
            · refine Only.then (addMeter_only ..) (by decide +kernel) ?_
              exact Only.refl _ _
            · exact Only.refl _ _
      · split
        · refine Only.then (planUp_only ..) (by decide +kernel) ?_
          refine Only.then (addSample_only ..) (by decide +kernel) ?_
          refine Only.foldl _ (fun t x => ?_) ?_
          · refine Only.then (addCore_only ..) (by decide +kernel) ?_
            exact Only.refl _ _
          · refine Only.foldl _ (fun t x => ?_) ?_
            · refine Only.then (addActive_only ..) (by decide +kernel) ?_
              exact Only.refl _ _
            · refine Only.foldl _ (fun t x => ?_) ?_
              · refine Only.then (addMeter_only ..) (by decide +kernel) ?_
                exact Only.refl _ _
              · exact Only.refl _ _
        · refine Only.then (addSample_only ..) (by decide +kernel) ?_
          refine Only.foldl _ (fun t x => ?_) ?_
          · refine Only.then (addCore_only ..) (by decide +kernel) ?_
            exact Only.refl _ _
          · refine Only.foldl _ (fun t x => ?_) ?_
            · refine Only.then (addActive_only ..) (by decide +kernel) ?_
              exact Only.refl _ _
            · refine Only.foldl _ (fun t x => ?_) ?_
              · refine Only.then (addMeter_only ..) (by decide +kernel) ?_
                exact Only.refl _ _
              · exact Only.refl _ _

theorem execBarAccessInvalid_only (fn : ℕ) (bar : ℕ) (offset : ℕ) (size : ℕ) (write : Bool) (s : State) : Only [.port .linkState, .fn .denied, .fn .cmpExpect, .fn .cmpSpoiled, .fn .cmpEq, .fn .cmpNe, .pad .results, .out] s (after s (execBarAccessInvalid fn bar offset size write s)) := by
  unfold execBarAccessInvalid
  dsimp -proj only [after]
  split
  · exact Only.refl _ _
  · split
    · split
      · refine Only.then (reply_only ..) (by decide +kernel) ?_
        exact Only.refl _ _
      · exact Only.refl _ _
    · split
      · refine Only.then (deny_only ..) (by decide +kernel) ?_
        exact Only.refl _ _
      · refine Only.then (reply_only ..) (by decide +kernel) ?_
        refine Only.then (deny_only ..) (by decide +kernel) ?_
        exact Only.refl _ _

theorem execCheckerLockLost_only (link : ℕ) (bits : ℕ) (errs : ℕ) (s : State) : Only [.lk .tests] s (after s (execCheckerLockLost link bits errs s)) := by
  unfold execCheckerLockLost
  dsimp -proj only [after]
  split
  · refine Only.then (modTest_only ..) (by decide +kernel) ?_
    exact Only.refl _ _
  · exact Only.refl _ _

theorem grantWake_only (s : State) (i : ℕ) : Only [.en .shed, .en .wakes] s (grantWake s i) := by
  unfold grantWake
  try dsimp -proj only
  refine Only.then (setShed_only ..) (by decide +kernel) ?_
  refine put_en ?_ ?_
  · refine Energy.set_wakes (by decide +kernel) ?_
    exact EnReg.refl _ _
  · exact Only.refl _ _

theorem roomFor_only (n : ℕ) (s : State) (k : ℤ) : Only [.en .step] s (roomFor n s k).1 := by
  induction n generalizing s k with
  | zero => exact Only.refl _ _
  | succ n ih =>
    unfold roomFor
    split
    · exact Only.refl _ _
    · split
      · exact Only.refl _ _
      · exact Only.trans (Only.then (lowerStep_only ..) (by decide +kernel) (Only.refl _ _)) (ih _ _)

theorem tryWake_only (s : State) (i : ℕ) (p : Option ℕ) : Only [.en .shed, .en .step, .en .wakes] s (tryWake s i p) := by
  unfold tryWake
  split
  · exact Only.then (grantWake_only ..) (by decide +kernel) (Only.refl _ _)
  · split
    · dsimp only
      split
      · exact Only.then (grantWake_only ..) (by decide +kernel) (Only.then (roomFor_only ..) (by decide +kernel) (Only.refl _ _))
      · exact Only.then (roomFor_only ..) (by decide +kernel) (Only.refl _ _)
    · exact Only.refl _ _

theorem enableVfs_only (s : State) (k : ℕ) : Only [.port .vfEnable, .port .numVfs, .fn .present, .fn .vecSize] s (enableVfs s k) := by
  unfold enableVfs
  try dsimp -proj only
  split
  · exact Only.refl _ _
  · refine Only.foldl _ (fun t x => ?_) ?_
    · refine modFn_in ?_ ?_
      · refine Fn.set_present_vecSize (by decide +kernel) ?_
        exact FnReg.refl _ _
      · exact Only.refl _ _
    · refine put_port ?_ ?_
      · refine Port.set_vfEnable_numVfs (by decide +kernel) ?_
        exact PortReg.refl _ _
      · exact Only.refl _ _

theorem lowerVfs_only (s : State) (k : ℕ) : Only [.sys .timeJournal, .port .linkState, .port .vfEnable, .port .numVfs, .port .ltrUs, .port .ltrLive, .port .ltrQueue, .fn .cfg, .fn .present, .fn .bme, .fn .dState, .fn .msixEn, .fn .fnMask, .fn .pmeEn, .fn .pmeStatus, .fn .pmeAtCold, .fn .relaxed, .fn .idOrder, .fn .denied, .fn .errTimeout, .fn .errUrCa, .fn .errPoisoned, .fn .errQueue, .fn .errJob, .fn .vecs, .fn .evMap, .fn .cmpExpect, .fn .cmpSpoiled, .fn .cmpEq, .fn .cmpNe, .queue .state, .queue .remembered, .queue .defer, .queue .copies, .queue .heldBell, .queue .shadowOwed, .queue .fetchFailed, .queue .fetchTried, .jn .seq, .out] s (lowerVfs s k) := by
  unfold lowerVfs
  try dsimp -proj only
  split
  · exact Only.refl _ _
  · refine put_port ?_ ?_
    · refine Port.set_vfEnable_numVfs (by decide +kernel) ?_
      exact PortReg.refl _ _
    · refine Only.then (dropVfs_only ..) (by decide +kernel) ?_
      exact Only.refl _ _

theorem writeSriov_only (s : State) (v : ℕ) : Only [.sys .timeJournal, .port .linkState, .port .vfEnable, .port .numVfs, .port .vfMse, .port .ari, .port .ltrUs, .port .ltrLive, .port .ltrQueue, .fn .cfg, .fn .present, .fn .bme, .fn .dState, .fn .msixEn, .fn .fnMask, .fn .pmeEn, .fn .pmeStatus, .fn .pmeAtCold, .fn .relaxed, .fn .idOrder, .fn .vecSize, .fn .denied, .fn .errTimeout, .fn .errUrCa, .fn .errPoisoned, .fn .errQueue, .fn .errJob, .fn .vecs, .fn .evMap, .fn .cmpExpect, .fn .cmpSpoiled, .fn .cmpEq, .fn .cmpNe, .queue .state, .queue .remembered, .queue .defer, .queue .copies, .queue .heldBell, .queue .shadowOwed, .queue .fetchFailed, .queue .fetchTried, .jn .seq, .out] s (writeSriov s v) := by
  unfold writeSriov
  try dsimp -proj only
  split
  · exact Only.refl _ _
  · split
    · refine Only.then (enableVfs_only ..) (by decide +kernel) ?_
      refine put_port ?_ ?_
      · refine Port.set_vfMse_ari (by decide +kernel) ?_
        exact PortReg.refl _ _
      · exact Only.refl _ _
    · refine Only.then (lowerVfs_only ..) (by decide +kernel) ?_
      refine put_port ?_ ?_
      · refine Port.set_vfMse_ari (by decide +kernel) ?_
        exact PortReg.refl _ _
      · exact Only.refl _ _

theorem programRoot_only (s : State) (t : Bytes) : Only [.lc .rootPresent, .lc .deviceRoot, .lc .deviceNumber, .freeCtr] s (programRoot s t) := by
  unfold programRoot
  try dsimp -proj only
  split
  · refine put_lc ?_ ?_
    · refine LifeCycle.set_rootPresent_deviceRoot_deviceNumber (by decide +kernel) ?_
      exact LcReg.refl _ _
    · refine Only.then (conditioned_only ..) (by decide +kernel) ?_
      exact Only.refl _ _
  · exact Only.refl _ _

theorem execLcDrained_only (s : State) : Only [.lc .slots, .lc .rootPresent, .lc .deviceRoot, .lc .deviceNumber, .lc .step, .stall .state, .stall .muckouts, .stall .jobs, .stall .reqFault, .stall .reqStop, .stall .reqClaim, .stall .reqYield, .stall .dirty, .stall .muckFailed, .stall .muckThen, .stall .prefEnded, .stall .scrubDue, .stall .reservedFor, .stall .operand, .stall .sequ, .stall .tree, .freeCtr] s (after s (execLcDrained s)) := by
  unfold execLcDrained
  dsimp -proj only [after]
  split
  · refine put_lc ?_ ?_
    · refine LifeCycle.set_step (by decide +kernel) ?_
      exact LcReg.refl _ _
    · refine Only.then (programSlot_only ..) (by decide +kernel) ?_
      refine Only.then (eraseSector_only ..) (by decide +kernel) ?_
      refine Only.then (programRoot_only ..) (by decide +kernel) ?_
      refine Only.foldl _ (fun t x => ?_) ?_
      · refine Only.then (resetStall_only ..) (by decide +kernel) ?_
        exact Only.refl _ _
      · exact Only.refl _ _
  · exact Only.refl _ _

theorem plErr_only (s : State) (err : ℕ) (off : ℕ) : Only [.pl .err, .pl .errOffset] s (plErr s err off) := by
  unfold plErr
  try dsimp -proj only
  refine put_pl ?_ ?_
  · refine PlanCtl.set_err_errOffset (by decide +kernel) ?_
    exact PlReg.refl _ _
  · exact Only.refl _ _

theorem sendAck_only (s : State) : Only [.out] s (sendAck s) := by
  unfold sendAck
  try dsimp -proj only
  refine Only.then (emit_only ..) (by decide +kernel) ?_
  exact Only.refl _ _

theorem setIr_only (s : State) (code : ℕ) : Only [.sys .tapIr] s (setIr s code) := by
  unfold setIr
  try dsimp -proj only
  split
  · exact Only.refl _ _
  · refine put_sys ?_ ?_
    · refine Sys.set_tapIr (by decide +kernel) ?_
      exact SysReg.refl _ _
    · exact Only.refl _ _

theorem execTapIdcode_only (s : State) : Only [.sys .tapIr, .out] s (after s (execTapIdcode s)) := by
  unfold execTapIdcode
  dsimp -proj only [after]
  refine Only.then (emit_only ..) (by decide +kernel) ?_
  refine Only.then (setIr_only ..) (by decide +kernel) ?_
  exact Only.refl _ _

theorem setMsix_only (s : State) (n : ℕ) : Only [.port .linkState, .fn .msixEn, .fn .vecs, .out] s (setMsix s n) := by
  unfold setMsix
  try dsimp -proj only
  split
  · exact Only.refl _ _
  · refine Only.then (dueVecs_only ..) (by decide +kernel) ?_
    refine modFn_in ?_ ?_
    · refine Fn.set_msixEn (by decide +kernel) ?_
      exact FnReg.refl _ _
    · exact Only.refl _ _

theorem raiseCount_only (s : State) (n : ℕ) : Only [.jn .nextSeq, .hl .boundB] s (raiseCount s n) := by
  unfold raiseCount
  try dsimp -proj only
  split
  · refine Only.then (raiseBound_only ..) (by decide +kernel) ?_
    refine put_jn ?_ ?_
    · refine Journal.set_nextSeq (by decide +kernel) ?_
      exact JnReg.refl _ _
    · exact Only.refl _ _
  · exact Only.refl _ _

theorem takeRecord_only (s : State) (l : List ℕ) : Only [.sys .timeJournal, .jn .nextSeq, .jn .seq, .hl .boundB, .tt .mirror, .tt .mirrorA, .tt .mirrorCaps] s (takeRecord s l) := by
  unfold takeRecord
  try dsimp -proj only
  split
  · exact Only.refl _ _
  · refine put_tt ?_ ?_
    · refine Tether.set_mirror_mirrorA_mirrorCaps (by decide +kernel) ?_
      exact TtReg.refl _ _
    · refine Only.then (journalWrite_only ..) (by decide +kernel) ?_
      refine Only.then (raiseCount_only ..) (by decide +kernel) ?_
      exact Only.refl _ _

theorem takeRetirement_only (s : State) (seq : ℕ) (q : ℕ) (t : ℕ) : Only [.sys .timeJournal, .queue .t, .jn .seq, .tt .mirror] s (takeRetirement s seq q t) := by
  unfold takeRetirement
  try dsimp -proj only
  split
  · refine modQ_in ?_ ?_
    · refine Queue.set_t (by decide +kernel) ?_
      exact QueueReg.refl _ _
    · refine Only.then (journalWrite_only ..) (by decide +kernel) ?_
      refine put_tt ?_ ?_
      · refine Tether.set_mirror (by decide +kernel) ?_
        exact TtReg.refl _ _
      · exact Only.refl _ _
  · refine Only.then (journalWrite_only ..) (by decide +kernel) ?_
    refine put_tt ?_ ?_
    · refine Tether.set_mirror (by decide +kernel) ?_
      exact TtReg.refl _ _
    · exact Only.refl _ _

theorem takeStateful_only (s : State) (n : ℕ) (h : ℕ) (l : List ℕ) : Only [.tk .slots, .tk .hbs, .tt .mirrorH, .cache] s (takeStateful s n h l) := by
  unfold takeStateful
  try dsimp -proj only
  refine put_tt ?_ ?_
  · refine Tether.set_mirrorH (by decide +kernel) ?_
    exact TtReg.refl _ _
  · split
    · exact Only.refl _ _
    · refine Only.then (installHbs_only ..) (by decide +kernel) ?_
      exact Only.refl _ _

theorem deliver_only (s : State) (f : Frame) : Only [.sys .wakeDriven, .sys .timeJournal, .pl .err, .port .linkState, .fn .cfg, .fn .pmeStatus, .fn .vecs, .fn .cmpExpect, .fn .cmpSpoiled, .fn .cmpEq, .fn .cmpNe, .queue .t, .pad .results, .jn .opened, .jn .nextSeq, .jn .seq, .tk .slots, .tk .blobs, .tk .hbs, .fc .log, .fc .dropped, .fc .severeLost, .fc .overflowed, .fc .out, .fc .buckets, .fc .corrected, .fc .toLog, .fc .escNow, .fc .retireNow, .hl .boundB, .tt .mirror, .tt .mirrorA, .tt .mirrorCaps, .tt .mirrorH, .tt .partnerTerm, .tt .partnerSerial, .tt .partnerPresent, .tt .mismatch, .tt .mirrorObjs, .cache, .out] s (deliver s f) := by
  unfold deliver
  try dsimp -proj only
  split
  · refine Only.then (takeRecord_only ..) (by decide +kernel) ?_
    exact Only.refl _ _
  · refine Only.then (takeRecord_only ..) (by decide +kernel) ?_
    exact Only.refl _ _
  · refine Only.then (takeRetirement_only ..) (by decide +kernel) ?_
    exact Only.refl _ _
  · refine Only.then (takeStateful_only ..) (by decide +kernel) ?_
    exact Only.refl _ _
  · refine Only.then (takeObject_only ..) (by decide +kernel) ?_
    exact Only.refl _ _
  · refine Only.then (takeDigest_only ..) (by decide +kernel) ?_
    exact Only.refl _ _
  · exact Only.refl _ _

theorem takeBalls_only (s : State) (code : ℕ) : Only [.sys .wakeDriven, .sys .boundary, .sys .tapIr, .port .linkState, .fn .pmeStatus, .fn .vecs, .pad .extendLost, .jn .opened, .stall .state, .stall .jobs, .stall .reqFault, .stall .reqStop, .stall .reqClaim, .stall .reqYield, .stall .muckFailed, .stall .muckThen, .stall .sequ, .stall .tree, .core .state, .core .w, .core .pc, .core .waiting, .core .loading, .jobs, .yard, .out] s (takeBalls s code) := by
  unfold takeBalls
  try dsimp -proj only
  split
  · exact Only.refl _ _
  · refine put_sys_jn ?_ ?_ ?_
    · refine Sys.set_boundary_tapIr (by decide +kernel) ?_
      exact SysReg.refl _ _
    · refine Journal.set_opened (by decide +kernel) ?_
      exact JnReg.refl _ _
    · refine Only.then (stopStalls_only ..) (by decide +kernel) ?_
      refine Only.foldl _ (fun t x => ?_) ?_
      · refine Only.then (stopCore_only ..) (by decide +kernel) ?_
        exact Only.refl _ _
      · exact Only.refl _ _

theorem execTapClamp_only (s : State) : Only [.sys .wakeDriven, .sys .boundary, .sys .tapIr, .port .linkState, .fn .pmeStatus, .fn .vecs, .pad .extendLost, .jn .opened, .stall .state, .stall .jobs, .stall .reqFault, .stall .reqStop, .stall .reqClaim, .stall .reqYield, .stall .muckFailed, .stall .muckThen, .stall .sequ, .stall .tree, .core .state, .core .w, .core .pc, .core .waiting, .core .loading, .jobs, .yard, .out] s (after s (execTapClamp s)) := by
  unfold execTapClamp
  dsimp -proj only [after]
  refine Only.then (takeBalls_only ..) (by decide +kernel) ?_
  exact Only.refl _ _

theorem execHeartbeatToggle_only (s : State) : Only [.sys .ttHbo] s (after s (execHeartbeatToggle s)) := by
  unfold execHeartbeatToggle
  dsimp -proj only [after]
  split
  · refine put_sys ?_ ?_
    · refine Sys.set_ttHbo (by decide +kernel) ?_
      exact SysReg.refl _ _
    · exact Only.refl _ _
  · exact Only.refl _ _

theorem execFlushComplete_only (ok0 : Bool) (ok1 : Bool) (deltas : List (ℕ × ℕ)) (raw0 : ℕ) (raw1 : ℕ) (s : State) : Only (Part.reboot ++ ([.yardRetired] : List Part)) s (after s (execFlushComplete ok0 ok1 deltas raw0 raw1 s)) := by
  unfold execFlushComplete
  dsimp -proj only [after]
  split
  · exact Only.refl _ _
  · split
    · refine Only.then (settle_only ..) (by decide +kernel) ?_
      refine Only.then (reboot_only ..) (by decide +kernel) ?_
      refine Only.then (storeCap_only ..) (by decide +kernel) ?_
      refine put_jn ?_ ?_
      · refine Journal.set_flushWait (by decide +kernel) ?_
        exact JnReg.refl _ _
      · refine Only.then (commitFlush_only ..) (by decide +kernel) ?_
        refine Only.then (convert_only ..) (by decide +kernel) ?_
        refine Only.then (convert_only ..) (by decide +kernel) ?_
        refine Only.foldl _ (fun t x => ?_) ?_
        · refine Only.then (addMeter_only ..) (by decide +kernel) ?_
          exact Only.refl _ _
        · exact Only.refl _ _
    · split
      · refine Only.then (storeCap_only ..) (by decide +kernel) ?_
        refine put_jn ?_ ?_
        · refine Journal.set_flushWait (by decide +kernel) ?_
          exact JnReg.refl _ _
        · refine Only.then (commitFlush_only ..) (by decide +kernel) ?_
          refine Only.then (convert_only ..) (by decide +kernel) ?_
          refine Only.then (convert_only ..) (by decide +kernel) ?_
          refine Only.foldl _ (fun t x => ?_) ?_
          · refine Only.then (addMeter_only ..) (by decide +kernel) ?_
            exact Only.refl _ _
          · exact Only.refl _ _
      · refine put_sys ?_ ?_
        · refine Sys.set_wait (by decide +kernel) ?_
          exact SysReg.refl _ _
        · refine Only.then (coldClear_only ..) (by decide +kernel) ?_
          refine Only.then (storeCap_only ..) (by decide +kernel) ?_
          refine put_jn ?_ ?_
          · refine Journal.set_flushWait (by decide +kernel) ?_
            exact JnReg.refl _ _
          · refine Only.then (commitFlush_only ..) (by decide +kernel) ?_
            refine Only.then (convert_only ..) (by decide +kernel) ?_
            refine Only.then (convert_only ..) (by decide +kernel) ?_
            refine Only.foldl _ (fun t x => ?_) ?_
            · refine Only.then (addMeter_only ..) (by decide +kernel) ?_
              exact Only.refl _ _
            · exact Only.refl _ _

theorem repairBank_only (s : State) (source : ℕ) : Only [.fc .spareRows, .freeCtr] s (repairBank s source) := by
  unfold repairBank
  try dsimp -proj only
  refine put_fc ?_ ?_
  · refine Faults.set_spareRows (by decide +kernel) ?_
    exact FcReg.refl _ _
  · refine Only.then (draw_only ..) (by decide +kernel) ?_
    exact Only.refl _ _

theorem wipeArrays_only (s : State) : Only (Part.allQueue ++ Part.allPad ++ Part.allStall ++ Part.allCore ++ ([.sys .mbistRan, .jn .opened, .jn .held, .tk .slots, .tk .blobs, .tk .hbs, .tk .unsealed, .jobs, .yard, .cache, .feeds] : List Part)) s (wipeArrays s) := by
  unfold wipeArrays
  try dsimp -proj only
  refine put_sys_queues_pads_jobs_jn_stalls_yard_cache_tk_cores_feeds ?_ ?_ ?_ ?_ ?_ ?_ ?_ ?_ ?_ ?_ ?_ ?_
  · refine Sys.set_mbistRan (by decide +kernel) ?_
    exact SysReg.refl _ _
  · decide +kernel
  · decide +kernel
  · decide +kernel
  · refine Journal.set_opened_held (by decide +kernel) ?_
    exact JnReg.refl _ _
  · decide +kernel
  · decide +kernel
  · decide +kernel
  · refine Tack.set_slots_blobs_hbs_unsealed (by decide +kernel) ?_
    exact TkReg.refl _ _
  · decide +kernel
  · decide +kernel
  · exact Only.refl _ _

theorem execTapMbist_only (s : State) : Only (Part.finishJob ++ Part.allQueue ++ Part.allPad ++ Part.allCore ++ ([.sys .tapIr, .sys .mbistRan, .jn .opened, .jn .held, .stall .lastPaddock, .stall .inPool, .stall .dedicated, .stall .muckouts, .stall .runs, .stall .unsound, .stall .dirty, .stall .prefEnded, .stall .ratchet, .stall .ratchetCount, .stall .source, .stall .ucodeOk, .stall .cmdRd, .stall .cmdWr, .stall .spare, .stall .reservedFor, .stall .muckAtWake, .stall .operand, .tk .unsealed, .fc .spareRows, .feeds] : List Part)) s (after s (execTapMbist s)) := by
  unfold execTapMbist
  dsimp -proj only [after]
  split
  · refine Only.foldl _ (fun t x => ?_) ?_
    · refine Only.then (repairBank_only ..) (by decide +kernel) ?_
      exact Only.refl _ _
    · refine Only.then (wipeArrays_only ..) (by decide +kernel) ?_
      refine Only.then (setIr_only ..) (by decide +kernel) ?_
      exact Only.refl _ _
  · exact Only.refl _ _

theorem trainLanes_only (s : State) : Only [.sys .linkWidth, .sys .linkReversed, .freeCtr] s (trainLanes s) := by
  unfold trainLanes
  try dsimp -proj only
  refine put_sys ?_ ?_
  · refine Sys.set_linkWidth_linkReversed (by decide +kernel) ?_
    exact SysReg.refl _ _
  · refine Only.then (draw_only ..) (by decide +kernel) ?_
    refine Only.then (draw_only ..) (by decide +kernel) ?_
    exact Only.refl _ _

theorem execPerstNDeassert_only (s : State) : Only (Part.allFn ++ ([.sys .perstN, .sys .wakeDriven, .sys .linkWidth, .sys .linkReversed, .sys .deepSleep, .sys .timeJournal, .en .shed, .port .linkUp, .port .linkState, .port .ltrUs, .port .ltrLive, .port .ltrQueue, .port .doorbells, .queue .state, .queue .p, .queue .errReason, .queue .errDetail, .queue .errIndex, .queue .defer, .queue .copies, .queue .heldBell, .queue .shadowOwed, .queue .pend, .queue .fetchFailed, .queue .fetchTried, .queue .recordedP, .pad .results, .pad .haltLog, .pad .haltOverflow, .jn .seq, .tp .sleepScramble, .out, .freeCtr] : List Part)) s (after s (execPerstNDeassert s)) := by
  unfold execPerstNDeassert
  dsimp -proj only [after]
  split
  · exact Only.refl _ _
  · split
    · split
      · refine Only.then (runBells_only ..) (by decide +kernel) ?_
        refine Only.then (updateLtr_only ..) (by decide +kernel) ?_
        refine put_port_fns ?_ ?_ ?_
        · refine Port.set_linkUp (by decide +kernel) ?_
          exact PortReg.refl _ _
        · decide +kernel
        · refine Only.then (setShed_only ..) (by decide +kernel) ?_
          refine Only.then (endDeepSleep_only ..) (by decide +kernel) ?_
          refine put_sys ?_ ?_
          · refine Sys.set_perstN_wakeDriven (by decide +kernel) ?_
            exact SysReg.refl _ _
          · refine Only.then (trainLanes_only ..) (by decide +kernel) ?_
            exact Only.refl _ _
      · refine Only.then (updateLtr_only ..) (by decide +kernel) ?_
        refine put_port_fns ?_ ?_ ?_
        · refine Port.set_linkUp (by decide +kernel) ?_
          exact PortReg.refl _ _
        · decide +kernel
        · refine Only.then (setShed_only ..) (by decide +kernel) ?_
          refine Only.then (endDeepSleep_only ..) (by decide +kernel) ?_
          refine put_sys ?_ ?_
          · refine Sys.set_perstN_wakeDriven (by decide +kernel) ?_
            exact SysReg.refl _ _
          · refine Only.then (trainLanes_only ..) (by decide +kernel) ?_
            exact Only.refl _ _
    · split
      · refine Only.then (runBells_only ..) (by decide +kernel) ?_
        refine Only.then (updateLtr_only ..) (by decide +kernel) ?_
        refine put_port_fns ?_ ?_ ?_
        · refine Port.set_linkUp (by decide +kernel) ?_
          exact PortReg.refl _ _
        · decide +kernel
        · refine put_sys ?_ ?_
          · refine Sys.set_perstN_wakeDriven (by decide +kernel) ?_
            exact SysReg.refl _ _
          · refine Only.then (trainLanes_only ..) (by decide +kernel) ?_
            exact Only.refl _ _
      · refine Only.then (updateLtr_only ..) (by decide +kernel) ?_
        refine put_port_fns ?_ ?_ ?_
        · refine Port.set_linkUp (by decide +kernel) ?_
          exact PortReg.refl _ _
        · decide +kernel
        · refine put_sys ?_ ?_
          · refine Sys.set_perstN_wakeDriven (by decide +kernel) ?_
            exact SysReg.refl _ _
          · refine Only.then (trainLanes_only ..) (by decide +kernel) ?_
            exact Only.refl _ _

theorem writeCopies_only (s : State) (kind : ℕ) (slot : ℕ) (b : Bytes) : Only [.hl .images] s (writeCopies s kind slot b) := by
  unfold writeCopies
  try dsimp -proj only
  refine put_hl ?_ ?_
  · refine Hayloft.set_images (by decide +kernel) ?_
    exact HlReg.refl _ _
  · exact Only.refl _ _

theorem writeStored_only (s : State) (b : Bytes) : Only [.pl .stored, .hl .images] s (writeStored s b) := by
  unfold writeStored
  try dsimp -proj only
  refine put_pl ?_ ?_
  · refine PlanCtl.set_stored (by decide +kernel) ?_
    exact PlReg.refl _ _
  · refine Only.then (writeCopies_only ..) (by decide +kernel) ?_
    exact Only.refl _ _

theorem flipDir_only (s : State) (kinds : List ℕ) : Only [.hl .dir0, .hl .dir1] s (flipDir s kinds) := by
  unfold flipDir
  try dsimp -proj only
  split
  · exact Only.refl _ _
  · refine Only.then (putDir_only ..) (by decide +kernel) ?_
    exact Only.refl _ _

theorem acceptStored_only (s : State) (kind : ℕ) : Only [.pl .stored, .hl .dir0, .hl .dir1] s (acceptStored s kind) := by
  unfold acceptStored
  try dsimp -proj only
  split
  · refine Only.then (flipDir_only ..) (by decide +kernel) ?_
    exact Only.refl _ _
  · refine put_pl ?_ ?_
    · refine PlanCtl.set_stored (by decide +kernel) ?_
      exact PlReg.refl _ _
    · exact Only.refl _ _

theorem storeImage_only (s : State) (b : Bytes) (partner : Bool) : Only [.pl .err, .pl .errOffset, .pl .stored, .hl .images, .hl .dir0, .hl .dir1] s (storeImage s b partner) := by
  unfold storeImage
  try dsimp -proj only
  split
  · refine Only.then (plErr_only ..) (by decide +kernel) ?_
    refine Only.then (plErr_only ..) (by decide +kernel) ?_
    split
    · refine Only.then (writeStored_only ..) (by decide +kernel) ?_
      exact Only.refl _ _
    · exact Only.refl _ _
  · refine Only.then (acceptStored_only ..) (by decide +kernel) ?_
    refine Only.then (plErr_only ..) (by decide +kernel) ?_
    split
    · refine Only.then (writeStored_only ..) (by decide +kernel) ?_
      exact Only.refl _ _
    · exact Only.refl _ _

theorem operandFails_only (s : State) (q : ℕ) (seq : ℕ) (kind : ℕ) : Only (Part.finishJob ++ ([.fn .cfg, .fn .errTimeout, .fn .errUrCa, .fn .errPoisoned, .fn .errQueue, .fn .errJob, .out] : List Part)) s (operandFails s q seq kind) := by
  unfold operandFails
  try dsimp -proj only
  split
  · exact Only.refl _ _
  · split
    · exact Only.refl _ _
    · split
      · refine Only.then (retryRead_only ..) (by decide +kernel) ?_
        refine Only.then (readFails_only ..) (by decide +kernel) ?_
        exact Only.refl _ _
      · split
        · refine Only.then (retryRead_only ..) (by decide +kernel) ?_
          refine Only.then (modJob_only ..) (by decide +kernel) ?_
          refine Only.then (readFails_only ..) (by decide +kernel) ?_
          exact Only.refl _ _
        · split
          · refine Only.then (modJob_only ..) (by decide +kernel) ?_
            refine Only.then (noteFail_only ..) (by decide +kernel) ?_
            refine Only.then (readFails_only ..) (by decide +kernel) ?_
            exact Only.refl _ _
          · refine Only.then (finishJob_only ..) (by decide +kernel) ?_
            refine Only.then (noteFail_only ..) (by decide +kernel) ?_
            refine Only.then (readFails_only ..) (by decide +kernel) ?_
            exact Only.refl _ _

theorem fetchFails_only (s : State) (q : ℕ) (kind : ℕ) : Only [.fn .cfg, .fn .errTimeout, .fn .errUrCa, .fn .errPoisoned, .fn .errQueue, .fn .errJob, .queue .fetchFailed, .queue .fetchTried, .out] s (fetchFails s q kind) := by
  unfold fetchFails
  try dsimp -proj only
  split
  · exact Only.refl _ _
  · split
    · refine Only.then (noteFail_only ..) (by decide +kernel) ?_
      refine modQ_in ?_ ?_
      · refine Queue.set_fetchFailed_fetchTried (by decide +kernel) ?_
        exact QueueReg.refl _ _
      · refine Only.then (readFails_only ..) (by decide +kernel) ?_
        exact Only.refl _ _
    · refine Only.then (retryRead_only ..) (by decide +kernel) ?_
      refine modQ_in ?_ ?_
      · refine Queue.set_fetchTried (by decide +kernel) ?_
        exact QueueReg.refl _ _
      · refine Only.then (readFails_only ..) (by decide +kernel) ?_
        exact Only.refl _ _

theorem execHostReadFail_only (queue : ℕ) (operand : Option ℕ) (core : Option ℕ) (kind : ℕ) (s : State) : Only (Part.settle) s (after s (execHostReadFail queue operand core kind s)) := by
  unfold execHostReadFail
  dsimp -proj only [after]
  refine Only.then (settle_only ..) (by decide +kernel) ?_
  split
  · refine Only.then (operandFails_only ..) (by decide +kernel) ?_
    exact Only.refl _ _
  · refine Only.then (imageFails_only ..) (by decide +kernel) ?_
    exact Only.refl _ _
  · refine Only.then (fetchFails_only ..) (by decide +kernel) ?_
    exact Only.refl _ _

theorem execJnShutdown_only (fn : ℕ) (value : W64) (s : State) : Only [.jn .shutting] s (after s (execJnShutdown fn value s)) := by
  unfold execJnShutdown
  dsimp -proj only [after]
  split
  · refine put_jn ?_ ?_
    · refine Journal.set_shutting (by decide +kernel) ?_
      exact JnReg.refl _ _
    · exact Only.refl _ _
  · exact Only.refl _ _

theorem setBme_only (s : State) (n : ℕ) : Only [.sys .timeJournal, .en .padEnergy, .port .linkState, .fn .bme, .fn .vecs, .fn .cmpExpect, .fn .cmpSpoiled, .fn .cmpEq, .fn .cmpNe, .queue .shadowOwed, .queue .ring, .queue .ringSecret, .pad .results, .pad .mrs, .pad .diags, .jn .seq, .tk .slots, .tk .blobs, .core .mem, .jobs, .yard, .out] s (setBme s n) := by
  unfold setBme
  try dsimp -proj only
  split
  · exact Only.refl _ _
  · refine Only.then (dueVecs_only ..) (by decide +kernel) ?_
    refine Only.then (releaseHeld_only ..) (by decide +kernel) ?_
    refine Only.then (payShadows_only ..) (by decide +kernel) ?_
    refine modFn_in ?_ ?_
    · refine Fn.set_bme (by decide +kernel) ?_
      exact FnReg.refl _ _
    · exact Only.refl _ _

theorem execBusMasterEnableSet_only (fn : ℕ) (s : State) : Only [.sys .timeJournal, .en .padEnergy, .port .linkState, .fn .bme, .fn .vecs, .fn .cmpExpect, .fn .cmpSpoiled, .fn .cmpEq, .fn .cmpNe, .queue .shadowOwed, .queue .ring, .queue .ringSecret, .pad .results, .pad .mrs, .pad .diags, .jn .seq, .tk .slots, .tk .blobs, .core .mem, .jobs, .yard, .out] s (after s (execBusMasterEnableSet fn s)) := by
  unfold execBusMasterEnableSet
  dsimp -proj only [after]
  split
  · refine Only.then (setBme_only ..) (by decide +kernel) ?_
    exact Only.refl _ _
  · exact Only.refl _ _

theorem startTree_only (s0 : State) (k : ℕ) (slot : ℕ) : Only [.en .shed, .stall .state, .stall .lastPaddock, .stall .jobs, .stall .reqFault, .stall .reqStop, .stall .reqYield, .stall .dirty, .stall .muckFailed, .stall .muckThen, .stall .prefEnded, .stall .muckAtWake, .stall .sequ, .stall .tree] s0 (startTree s0 k slot) := by
  unfold startTree
  try dsimp -proj only
  split
  · refine modSt_in ?_ ?_
    · refine Stall.set_muckAtWake (by decide +kernel) ?_
      exact StallReg.refl _ _
    · refine Only.then (startMuck_only ..) (by decide +kernel) ?_
      refine Only.then (workFor_only ..) (by decide +kernel) ?_
      exact Only.refl _ _
  · refine modSt_in ?_ ?_
    · refine Stall.set_state_lastPaddock_dirty_prefEnded_tree (by decide +kernel) ?_
      exact StallReg.refl _ _
    · refine Only.then (workFor_only ..) (by decide +kernel) ?_
      exact Only.refl _ _

theorem writePlain_only (s : State) (n : ℕ) (off : ℕ) (v : ℕ) : Only [.port .sysPage, .port .vfBars, .fn .cfg] s (writePlain s n off v) := by
  unfold writePlain
  try dsimp -proj only
  split
  · refine modFn_in ?_ ?_
    · refine Fn.set_cfg (by decide +kernel) ?_
      exact FnReg.refl _ _
    · exact Only.refl _ _
  · split
    · exact Only.refl _ _
    · split
      · refine modFn_in ?_ ?_
        · refine Fn.set_cfg (by decide +kernel) ?_
          exact FnReg.refl _ _
        · exact Only.refl _ _
      · split
        · refine modFn_in ?_ ?_
          · refine Fn.set_cfg (by decide +kernel) ?_
            exact FnReg.refl _ _
          · exact Only.refl _ _
        · split
          · exact Only.refl _ _
          · split
            · refine put_port ?_ ?_
              · refine Port.set_sysPage (by decide +kernel) ?_
                exact PortReg.refl _ _
              · exact Only.refl _ _
            · split
              · refine put_port ?_ ?_
                · refine Port.set_vfBars (by decide +kernel) ?_
                  exact PortReg.refl _ _
                · exact Only.refl _ _
              · exact Only.refl _ _

theorem execNextTreeReady_only (slot : ℕ) (s : State) : Only (Part.allQueue ++ ([.en .padEnergy, .stall .state, .stall .jobs, .stall .reqFault, .stall .reqStop, .stall .reqClaim, .stall .reqYield, .stall .muckFailed, .stall .muckThen, .stall .sequ, .stall .tree, .tk .hbs, .freeCtr] : List Part)) s (after s (execNextTreeReady slot s)) := by
  unfold execNextTreeReady
  dsimp -proj only [after]
  split
  · refine Only.then (recheck_only ..) (by decide +kernel) ?_
    refine put_en ?_ ?_
    · refine Energy.set_padEnergy (by decide +kernel) ?_
      exact EnReg.refl _ _
    · split
      · refine Only.then (leaveStall_only ..) (by decide +kernel) ?_
        refine Only.then (modHbs_only ..) (by decide +kernel) ?_
        refine Only.then (draw_only ..) (by decide +kernel) ?_
        exact Only.refl _ _
      · refine modSt_in ?_ ?_
        · refine Stall.set_state_tree (by decide +kernel) ?_
          exact StallReg.refl _ _
        · refine Only.then (modHbs_only ..) (by decide +kernel) ?_
          refine Only.then (draw_only ..) (by decide +kernel) ?_
          exact Only.refl _ _
  · refine Only.then (leaveStall_only ..) (by decide +kernel) ?_
    exact Only.refl _ _
  · exact Only.refl _ _

theorem execPorstNRise_only (boot : BootIn) (s : State) : Only (Part.coldBoot ++ ([.sys .ttHbo, .sys .paddockResets, .stall .unsound, .stall .muckAtWake, .tk .lost, .fc .spareRows, .hl .rebuilding, .hl .singleCopy, .hl .retireMap, .tt .retraining, .tt .retrains, .tt .retransmits, .tt .split, .yardRetired] : List Part)) s (after s (execPorstNRise boot s)) := by
  unfold execPorstNRise
  dsimp -proj only [after]
  split
  · exact Only.refl _ _
  · refine Only.then (settle_only ..) (by decide +kernel) ?_
    refine Only.then (coldBoot_only ..) (by decide +kernel) ?_
    exact Only.refl _ _

theorem execTetherLaneFail_only (lane : ℕ) (s : State) : Only (Part.raiseFault ++ ([.sys .paddockResets, .rng .retired] : List Part)) s (after s (execTetherLaneFail lane s)) := by
  unfold execTetherLaneFail
  dsimp -proj only [after]
  split
  · refine Only.then (settle_only ..) (by decide +kernel) ?_
    refine Only.then (raiseFault_only ..) (by decide +kernel) ?_
    exact Only.refl _ _
  · exact Only.refl _ _

theorem execAdcCalibrate_only (zeroRaw : ℕ) (refRaw : ℕ) (s : State) : Only [.en .offset, .en .gain, .en .calValid] s (after s (execAdcCalibrate zeroRaw refRaw s)) := by
  unfold execAdcCalibrate
  dsimp -proj only [after]
  split
  · refine Only.then (calibrate_only ..) (by decide +kernel) ?_
    exact Only.refl _ _
  · exact Only.refl _ _

theorem execTapBypass_only (s : State) : Only [.sys .tapIr] s (after s (execTapBypass s)) := by
  unfold execTapBypass
  dsimp -proj only [after]
  refine Only.then (setIr_only ..) (by decide +kernel) ?_
  exact Only.refl _ _

theorem claimStall_only (s : State) (n : ℕ) : Only [.stall .state, .stall .jobs, .stall .reqFault, .stall .reqStop, .stall .reqClaim, .stall .reqYield, .stall .muckFailed, .stall .muckThen, .stall .sequ, .stall .tree, .fc .claimed, .fc .overdue, .fc .ahead] s (claimStall s n) := by
  unfold claimStall
  try dsimp -proj only
  split
  · refine Only.then (startMuck_only ..) (by decide +kernel) ?_
    refine put_fc ?_ ?_
    · refine Faults.set_claimed_overdue_ahead (by decide +kernel) ?_
      exact FcReg.refl _ _
    · exact Only.refl _ _
  · refine modSt_in ?_ ?_
    · refine Stall.set_muckThen (by decide +kernel) ?_
      exact StallReg.refl _ _
    · refine put_fc ?_ ?_
      · refine Faults.set_claimed_overdue_ahead (by decide +kernel) ?_
        exact FcReg.refl _ _
      · exact Only.refl _ _
  · refine modSt_in ?_ ?_
    · refine Stall.set_reqClaim (by decide +kernel) ?_
      exact StallReg.refl _ _
    · refine put_fc ?_ ?_
      · refine Faults.set_claimed_overdue_ahead (by decide +kernel) ?_
        exact FcReg.refl _ _
      · exact Only.refl _ _
  · refine put_fc ?_ ?_
    · refine Faults.set_claimed_overdue_ahead (by decide +kernel) ?_
      exact FcReg.refl _ _
    · exact Only.refl _ _

theorem execStoreImage_only (fn : ℕ) (sent : StoreInput) (s : State) : Only [.pl .err, .pl .errOffset, .pl .stored, .hl .images, .hl .dir0, .hl .dir1] s (after s (execStoreImage fn sent s)) := by
  unfold execStoreImage
  dsimp -proj only [after]
  split
  · exact Only.refl _ _
  · split
    · refine Only.then (plErr_only ..) (by decide +kernel) ?_
      exact Only.refl _ _
    · refine Only.then (storeImage_only ..) (by decide +kernel) ?_
      exact Only.refl _ _

theorem execPlApplyDrainTimeout_only (s : State) : Only (Part.allQueue ++ ([.pl .busy, .pl .phase, .pl .err, .pl .swap, .pl .applying, .pad .paused] : List Part)) s (after s (execPlApplyDrainTimeout s)) := by
  unfold execPlApplyDrainTimeout
  dsimp -proj only [after]
  split
  · refine Only.then (recheck_only ..) (by decide +kernel) ?_
    refine Only.then (abandonSwap_only ..) (by decide +kernel) ?_
    exact Only.refl _ _
  · exact Only.refl _ _

theorem drainStall_only (s : State) (n : ℕ) : Only [.stall .state, .stall .jobs, .stall .reqFault, .stall .reqStop, .stall .reqClaim, .stall .reqYield, .stall .muckFailed, .stall .muckThen, .stall .sequ, .stall .tree] s (drainStall s n) := by
  unfold drainStall
  try dsimp -proj only
  split
  · exact Only.refl _ _
  · split
    · refine modSt_in ?_ ?_
      · refine Stall.set_reqYield (by decide +kernel) ?_
        exact StallReg.refl _ _
      · exact Only.refl _ _
    · split
      · refine Only.then (leaveStall_only ..) (by decide +kernel) ?_
        exact Only.refl _ _
      · exact Only.refl _ _

theorem beginSwap_only (s : State) (w : PartialPlan) : Only [.pl .busy, .pl .phase, .pl .err, .pl .errOffset, .pl .swap, .pad .paused, .stall .state, .stall .jobs, .stall .reqFault, .stall .reqStop, .stall .reqClaim, .stall .reqYield, .stall .muckFailed, .stall .muckThen, .stall .sequ, .stall .tree, .hl .swapImage] s (beginSwap s w) := by
  unfold beginSwap
  try dsimp -proj only
  refine Only.foldl _ (fun t x => ?_) ?_
  · refine Only.then (drainStall_only ..) (by decide +kernel) ?_
    exact Only.refl _ _
  · refine modPad_in ?_ ?_
    · refine Pad.set_paused (by decide +kernel) ?_
      exact PadReg.refl _ _
    · refine put_pl_hl ?_ ?_ ?_
      · refine PlanCtl.set_busy_phase_err_errOffset_swap (by decide +kernel) ?_
        exact PlReg.refl _ _
      · refine Hayloft.set_swapImage (by decide +kernel) ?_
        exact HlReg.refl _ _
      · exact Only.refl _ _

theorem frameAcked_only (s : State) (f : Frame) : Only (Part.settle ++ ([.hl .boundB] : List Part)) s (frameAcked s f) := by
  unfold frameAcked
  try dsimp -proj only
  split
  · split
    · refine Only.then (afterAccept_only ..) (by decide +kernel) ?_
      refine Only.then (becomeLive_only ..) (by decide +kernel) ?_
      exact Only.refl _ _
    · exact Only.refl _ _
  · split
    · split
      · refine Only.then (replaysDone_only ..) (by decide +kernel) ?_
        refine Only.then (forgetDone_only ..) (by decide +kernel) ?_
        refine Only.then (retireSilent_only ..) (by decide +kernel) ?_
        refine Only.then (retireHead_only ..) (by decide +kernel) ?_
        exact Only.refl _ _
      · exact Only.refl _ _
    · exact Only.refl _ _
  · split
    · refine Only.then (commitRefill_only ..) (by decide +kernel) ?_
      exact Only.refl _ _
    · exact Only.refl _ _
  · exact Only.refl _ _

theorem dropPartner_only (s : State) : Only (Part.settle ++ ([.hl .boundB] : List Part)) s (dropPartner s) := by
  unfold dropPartner
  try dsimp -proj only
  refine Only.foldl _ (fun t x => ?_) ?_
  · refine Only.then (frameAcked_only ..) (by decide +kernel) ?_
    exact Only.refl _ _
  · refine put_tt ?_ ?_
    · refine Tether.set_unacked (by decide +kernel) ?_
      exact TtReg.refl _ _
    · exact Only.refl _ _

theorem unmask_only (s : State) (n : ℕ) (v : Option ℕ) : Only [.port .linkState, .fn .fnMask, .fn .vecs, .out] s (unmask s n v) := by
  unfold unmask
  try dsimp -proj only
  split
  · split
    · refine Only.then (modVec_only ..) (by decide +kernel) ?_
      exact Only.refl _ _
    · refine Only.then (dueVecs_only ..) (by decide +kernel) ?_
      refine Only.then (modVec_only ..) (by decide +kernel) ?_
      exact Only.refl _ _
  · split
    · refine modFn_in ?_ ?_
      · refine Fn.set_fnMask (by decide +kernel) ?_
        exact FnReg.refl _ _
      · exact Only.refl _ _
    · refine Only.then (dueVecs_only ..) (by decide +kernel) ?_
      refine modFn_in ?_ ?_
      · refine Fn.set_fnMask (by decide +kernel) ?_
        exact FnReg.refl _ _
      · exact Only.refl _ _

theorem writeMsix_only (s : State) (n : ℕ) (off : ℕ) (x : WVal) : Only [.port .linkState, .fn .fnMask, .fn .vecs, .out] s (writeMsix s n off x) := by
  unfold writeMsix
  try dsimp -proj only
  split
  · exact Only.refl _ _
  · split
    · refine Only.then (modVec_only ..) (by decide +kernel) ?_
      exact Only.refl _ _
    · split
      · refine Only.then (unmask_only ..) (by decide +kernel) ?_
        refine Only.then (modVec_only ..) (by decide +kernel) ?_
        exact Only.refl _ _
      · refine Only.then (modVec_only ..) (by decide +kernel) ?_
        exact Only.refl _ _

theorem execLcCertSelWrite_only (fn : ℕ) (value : W64) (s : State) : Only [.fn .certSel, .fn .certOff] s (after s (execLcCertSelWrite fn value s)) := by
  unfold execLcCertSelWrite
  dsimp -proj only [after]
  split
  · refine modFn_in ?_ ?_
    · refine Fn.set_certSel_certOff (by decide +kernel) ?_
      exact FnReg.refl _ _
    · exact Only.refl _ _
  · exact Only.refl _ _

theorem execLowPrioPromote_only (seq : ℕ) (s : State) : Only [.jobs, .yard] s (after s (execLowPrioPromote seq s)) := by
  unfold execLowPrioPromote
  dsimp -proj only [after]
  refine Only.then (modJob_only ..) (by decide +kernel) ?_
  exact Only.refl _ _

theorem execWakeCountExpiry_only (fn : ℕ) (vector : ℕ) (s : State) : Only [.sys .wakeDriven, .fn .pmeStatus, .fn .vecs, .out] s (after s (execWakeCountExpiry fn vector s)) := by
  unfold execWakeCountExpiry
  dsimp -proj only [after]
  split
  · refine Only.then (dueWake_only ..) (by decide +kernel) ?_
    exact Only.refl _ _
  · exact Only.refl _ _

theorem execColdReset_only (_cause : ℕ) (vddmKept : Bool) (s : State) : Only (Part.reboot) s (after s (execColdReset _cause vddmKept s)) := by
  unfold execColdReset
  dsimp -proj only [after]
  refine put_sys ?_ ?_
  · refine Sys.set_porstN (by decide +kernel) ?_
    exact SysReg.refl _ _
  · refine Only.then (coldClear_only ..) (by decide +kernel) ?_
    exact Only.refl _ _

theorem execBootReserveRecheck_only (boot : BootIn) (s : State) : Only (Part.settle ++ ([.sys .stage, .sys .bootState, .sys .reason, .port .linkUp, .jn .bank0, .jn .bank1, .jn .fromFlush, .jn .lost, .jn .term, .jn .nextSeq, .jn .held, .tk .unsealed, .tk .restoring, .tk .permDraw, .tk .ownerRoot, .tk .jseal, .tk .scrambled, .rng .katOk, .tp .latched, .tp .response, .tp .tamperHold, .tp .alarm, .tp .count, .hl .flush, .hl .auditLog, .hl .boundB, .tt .mirror, .tt .mirrorA, .tt .mirrorCaps] : List Part)) s (after s (execBootReserveRecheck boot s)) := by
  unfold execBootReserveRecheck
  dsimp -proj only [after]
  split
  · exact Only.refl _ _
  · split
    · refine Only.then (settle_only ..) (by decide +kernel) ?_
      refine Only.then (bootReserve_only ..) (by decide +kernel) ?_
      refine put_sys ?_ ?_
      · refine Sys.set_wait (by decide +kernel) ?_
        exact SysReg.refl _ _
      · exact Only.refl _ _
    · split
      · exact Only.refl _ _
      · refine Only.then (settle_only ..) (by decide +kernel) ?_
        refine Only.then (warmOpen_only ..) (by decide +kernel) ?_
        refine put_sys ?_ ?_
        · refine Sys.set_wait (by decide +kernel) ?_
          exact SysReg.refl _ _
        · exact Only.refl _ _

theorem execBootPowerFailWaitEnd_only (boot : BootIn) (s : State) : Only (Part.settle ++ ([.sys .powerFailN, .sys .stage, .sys .bootState, .sys .reason, .port .linkUp, .jn .bank0, .jn .bank1, .jn .fromFlush, .jn .lost, .jn .term, .jn .nextSeq, .jn .held, .tk .unsealed, .tk .restoring, .tk .permDraw, .tk .ownerRoot, .tk .jseal, .tk .scrambled, .rng .katOk, .tp .latched, .tp .response, .tp .tamperHold, .tp .alarm, .tp .count, .hl .flush, .hl .auditLog, .hl .boundB, .tt .mirror, .tt .mirrorA, .tt .mirrorCaps] : List Part)) s (after s (execBootPowerFailWaitEnd boot s)) := by
  unfold execBootPowerFailWaitEnd
  dsimp -proj only [after]
  split
  · refine Only.then (settle_only ..) (by decide +kernel) ?_
    refine Only.then (bootJournal_only ..) (by decide +kernel) ?_
    refine put_sys ?_ ?_
    · refine Sys.set_powerFailN_wait (by decide +kernel) ?_
      exact SysReg.refl _ _
    · exact Only.refl _ _
  · exact Only.refl _ _

theorem execPowerFailRise_only (boot : BootIn) (s : State) : Only (Part.reboot ++ ([.yardRetired] : List Part)) s (after s (execPowerFailRise boot s)) := by
  unfold execPowerFailRise
  dsimp -proj only [after]
  split
  · refine put_sys ?_ ?_
    · refine Sys.set_powerFailN (by decide +kernel) ?_
      exact SysReg.refl _ _
    · exact Only.refl _ _
  · split
    · refine Only.then (settle_only ..) (by decide +kernel) ?_
      refine Only.then (reboot_only ..) (by decide +kernel) ?_
      refine put_sys ?_ ?_
      · refine Sys.set_powerFailN (by decide +kernel) ?_
        exact SysReg.refl _ _
      · exact Only.refl _ _
    · refine put_jn ?_ ?_
      · refine Journal.set_bootAfterFlush (by decide +kernel) ?_
        exact JnReg.refl _ _
      · refine put_sys ?_ ?_
        · refine Sys.set_powerFailN (by decide +kernel) ?_
          exact SysReg.refl _ _
        · exact Only.refl _ _

theorem loseClock_only (s : State) (source : ℕ) (kind : ℕ) : Only (Part.reboot) s (loseClock s source kind) := by
  unfold loseClock
  try dsimp -proj only
  split
  · exact Only.refl _ _
  · split
    · refine Only.then (report_only ..) (by decide +kernel) ?_
      exact Only.refl _ _
    · split
      · refine Only.then (clockLoss_only ..) (by decide +kernel) ?_
        refine Only.then (endDeepSleep_only ..) (by decide +kernel) ?_
        exact Only.refl _ _
      · refine put_sys ?_ ?_
        · refine Sys.set_wait (by decide +kernel) ?_
          exact SysReg.refl _ _
        · refine Only.then (coldClear_only ..) (by decide +kernel) ?_
          refine Only.then (report_only ..) (by decide +kernel) ?_
          exact Only.refl _ _

theorem execXtal25Loss_only (s : State) : Only (Part.reboot) s (after s (execXtal25Loss s)) := by
  unfold execXtal25Loss
  dsimp -proj only [after]
  split
  · refine Only.then (loseClock_only ..) (by decide +kernel) ?_
    refine put_sys ?_ ?_
    · refine Sys.set_xtal (by decide +kernel) ?_
      exact SysReg.refl _ _
    · exact Only.refl _ _
  · exact Only.refl _ _

theorem execXtal25Restore_only (boot : BootIn) (s : State) : Only (Part.coldBoot ++ ([.sys .xtal, .sys .ttHbo, .sys .causeClock, .sys .paddockResets, .jn .bootAfterFlush, .stall .unsound, .stall .muckAtWake, .tk .lost, .fc .spareRows, .hl .rebuilding, .hl .singleCopy, .hl .retireMap, .tt .retraining, .tt .retrains, .tt .retransmits, .tt .split, .yardRetired] : List Part)) s (after s (execXtal25Restore boot s)) := by
  unfold execXtal25Restore
  dsimp -proj only [after]
  split
  · exact Only.refl _ _
  · refine Only.then (clockBack_only ..) (by decide +kernel) ?_
    refine put_sys ?_ ?_
    · refine Sys.set_xtal (by decide +kernel) ?_
      exact SysReg.refl _ _
    · exact Only.refl _ _

theorem execWarmReset_only (cause : ℕ) (s : State) : Only (Part.settle) s (after s (execWarmReset cause s)) := by
  unfold execWarmReset
  dsimp -proj only [after]
  refine Only.then (settle_only ..) (by decide +kernel) ?_
  refine Only.then (warmReset_only ..) (by decide +kernel) ?_
  exact Only.refl _ _

theorem execSyPaddockReset_only (fn : ℕ) (value : W64) (s : State) : Only (Part.settle) s (after s (execSyPaddockReset fn value s)) := by
  unfold execSyPaddockReset
  dsimp -proj only [after]
  split
  · refine Only.then (settle_only ..) (by decide +kernel) ?_
    refine Only.then (paddockReset_only ..) (by decide +kernel) ?_
    exact Only.refl _ _
  · exact Only.refl _ _

theorem execHostInterfaceReset_only (cause : ℕ) (s : State) : Only (Part.functionReset ++ ([.sys .perstN, .sys .wakeDriven, .sys .causeHif, .sys .deepSleep, .en .shed, .port .linkUp, .port .doorbells, .fn .vecSize, .fn .qcRing, .fn .qcLog2, .fn .qcVector, .fn .qcWake, .fn .qcCrcReq, .fn .qcIrqEn, .fn .qcShadowEn, .fn .qcShadowAddr, .fn .cmdQueue, .fn .cmdCmd, .fn .cmdBusy, .fn .cmdLost, .fn .cmdResult, .fn .statSel, .fn .cmpSlot, .fn .cmpLen, .fn .cmpGo, .fn .tkSel, .fn .tkSelBlob, .fn .bxImgAddr, .fn .fcResult, .fn .hlLog, .fn .hlEntry, .fn .hlWord, .fn .certSel, .fn .certOff, .fn .latch, .queue .p, .queue .errReason, .queue .errDetail, .queue .errIndex, .queue .pend, .queue .recordedP, .pad .results, .pad .haltLog, .pad .haltOverflow, .tp .sleepScramble, .tt .lanes, .lk .tests, .freeCtr] : List Part)) s (after s (execHostInterfaceReset cause s)) := by
  unfold execHostInterfaceReset
  dsimp -proj only [after]
  split
  · split
    · refine put_sys ?_ ?_
      · refine Sys.set_perstN (by decide +kernel) ?_
        exact SysReg.refl _ _
      · exact Only.refl _ _
    · exact Only.refl _ _
  · split
    · split
      · refine Only.then (hostReset_only ..) (by decide +kernel) ?_
        refine Only.then (endDeepSleep_only ..) (by decide +kernel) ?_
        refine put_sys ?_ ?_
        · refine Sys.set_perstN (by decide +kernel) ?_
          exact SysReg.refl _ _
        · exact Only.refl _ _
      · refine Only.then (runBells_only ..) (by decide +kernel) ?_
        refine Only.then (hostReset_only ..) (by decide +kernel) ?_
        refine Only.then (endDeepSleep_only ..) (by decide +kernel) ?_
        refine put_sys ?_ ?_
        · refine Sys.set_perstN (by decide +kernel) ?_
          exact SysReg.refl _ _
        · exact Only.refl _ _
    · split
      · refine Only.then (hostReset_only ..) (by decide +kernel) ?_
        exact Only.refl _ _
      · refine Only.then (runBells_only ..) (by decide +kernel) ?_
        refine Only.then (hostReset_only ..) (by decide +kernel) ?_
        exact Only.refl _ _

theorem sleepFn_only (s : State) (n : ℕ) : Only [.fn .dState] s (sleepFn s n) := by
  unfold sleepFn
  try dsimp -proj only
  refine modFn_in ?_ ?_
  · refine Fn.set_dState (by decide +kernel) ?_
    exact FnReg.refl _ _
  · exact Only.refl _ _

theorem writePmcsr_only (s : State) (n : ℕ) (v : ℕ) : Only [.sys .timeJournal, .en .padEnergy, .port .linkState, .fn .dState, .fn .pmeEn, .fn .pmeStatus, .fn .vecs, .fn .cmpExpect, .fn .cmpSpoiled, .fn .cmpEq, .fn .cmpNe, .queue .shadowOwed, .queue .ring, .queue .ringSecret, .pad .results, .pad .mrs, .pad .diags, .jn .seq, .tk .slots, .tk .blobs, .core .mem, .jobs, .yard, .out] s (writePmcsr s n v) := by
  unfold writePmcsr
  try dsimp -proj only
  split
  · refine Only.then (wakeFn_only ..) (by decide +kernel) ?_
    refine modFn_in ?_ ?_
    · refine Fn.set_pmeEn_pmeStatus (by decide +kernel) ?_
      exact FnReg.refl _ _
    · exact Only.refl _ _
  · refine Only.then (sleepFn_only ..) (by decide +kernel) ?_
    refine modFn_in ?_ ?_
    · refine Fn.set_pmeEn_pmeStatus (by decide +kernel) ?_
      exact FnReg.refl _ _
    · exact Only.refl _ _
  · refine modFn_in ?_ ?_
    · refine Fn.set_pmeEn_pmeStatus (by decide +kernel) ?_
      exact FnReg.refl _ _
    · exact Only.refl _ _

theorem writeMsixCtl_only (s : State) (n : ℕ) (v : ℕ) : Only [.port .linkState, .fn .msixEn, .fn .fnMask, .fn .vecs, .out] s (writeMsixCtl s n v) := by
  unfold writeMsixCtl
  try dsimp -proj only
  split
  · refine Only.then (setMsix_only ..) (by decide +kernel) ?_
    split
    · refine modFn_in ?_ ?_
      · refine Fn.set_fnMask (by decide +kernel) ?_
        exact FnReg.refl _ _
      · exact Only.refl _ _
    · split
      · refine Only.then (unmask_only ..) (by decide +kernel) ?_
        exact Only.refl _ _
      · exact Only.refl _ _
  · refine modFn_in ?_ ?_
    · refine Fn.set_msixEn (by decide +kernel) ?_
      exact FnReg.refl _ _
    · split
      · refine modFn_in ?_ ?_
        · refine Fn.set_fnMask (by decide +kernel) ?_
          exact FnReg.refl _ _
        · exact Only.refl _ _
      · split
        · refine Only.then (unmask_only ..) (by decide +kernel) ?_
          exact Only.refl _ _
        · exact Only.refl _ _

theorem writeDevCtl_only (f : Fn) (v : ℕ) : Keep FnReg.Same [.cfg, .relaxed] f (writeDevCtl f v) := by
  unfold writeDevCtl
  try dsimp -proj only
  refine Fn.set_cfg_relaxed (by decide +kernel) ?_
  exact FnReg.refl _ _

theorem cfgWrite_only (s : State) (n : ℕ) (off : ℕ) (v : ℕ) : Only (Part.functionReset ++ ([.en .padEnergy, .fn .vecSize, .queue .ring, .queue .ringSecret, .pad .results, .pad .mrs, .pad .diags, .tk .slots, .tk .blobs, .core .mem, .jobs, .yard] : List Part)) s (cfgWrite s n off v) := by
  unfold cfgWrite
  try dsimp -proj only
  split
  · split
    · refine Only.then (setBme_only ..) (by decide +kernel) ?_
      refine modFn_in ?_ ?_
      · refine Fn.set_cfg (by decide +kernel) ?_
        exact FnReg.refl _ _
      · exact Only.refl _ _
    · refine modFn_in ?_ ?_
      · refine Fn.set_bme (by decide +kernel) ?_
        exact FnReg.refl _ _
      · refine modFn_in ?_ ?_
        · refine Fn.set_cfg (by decide +kernel) ?_
          exact FnReg.refl _ _
        · exact Only.refl _ _
  · refine Only.then (writePmcsr_only ..) (by decide +kernel) ?_
    exact Only.refl _ _
  · refine Only.then (writeMsixCtl_only ..) (by decide +kernel) ?_
    exact Only.refl _ _
  · split
    · refine Only.then (functionReset_only ..) (by decide +kernel) ?_
      exact Only.refl _ _
    · refine modFn_in ?_ ?_
      · refine FnReg.then (writeDevCtl_only ..) (by decide +kernel) ?_
        exact FnReg.refl _ _
      · exact Only.refl _ _
  · refine modFn_in ?_ ?_
    · refine Fn.set_cfg_idOrder (by decide +kernel) ?_
      exact FnReg.refl _ _
    · exact Only.refl _ _
  · split
    · refine put_port ?_ ?_
      · refine Port.set_aspmL1 (by decide +kernel) ?_
        exact PortReg.refl _ _
      · exact Only.refl _ _
    · exact Only.refl _ _
  · split
    · exact Only.refl _ _
    · refine Only.then (writeSriov_only ..) (by decide +kernel) ?_
      exact Only.refl _ _
  · split
    · exact Only.refl _ _
    · split
      · refine Only.then (lowerVfs_only ..) (by decide +kernel) ?_
        exact Only.refl _ _
      · refine put_port ?_ ?_
        · refine Port.set_numVfs (by decide +kernel) ?_
          exact PortReg.refl _ _
        · exact Only.refl _ _
  · split
    · refine put_port ?_ ?_
      · refine Port.set_aspmL11_aspmL12_pmL11_pmL12 (by decide +kernel) ?_
        exact PortReg.refl _ _
      · exact Only.refl _ _
    · exact Only.refl _ _
  · refine Only.then (writePlain_only ..) (by decide +kernel) ?_
    exact Only.refl _ _

theorem execConfigRequest_only (fn : ℕ) (write : Bool) (offset : ℕ) (value : ℕ) (s : State) : Only (Part.functionReset ++ ([.en .padEnergy, .fn .vecSize, .queue .ring, .queue .ringSecret, .pad .results, .pad .mrs, .pad .diags, .tk .slots, .tk .blobs, .core .mem, .jobs, .yard] : List Part)) s (after s (execConfigRequest fn write offset value s)) := by
  unfold execConfigRequest
  dsimp -proj only [after]
  split
  · exact Only.refl _ _
  · split
    · refine Only.then (emit_only ..) (by decide +kernel) ?_
      exact Only.refl _ _
    · split
      · refine Only.then (emit_only ..) (by decide +kernel) ?_
        refine Only.then (aer_only ..) (by decide +kernel) ?_
        exact Only.refl _ _
      · split
        · refine Only.then (emit_only ..) (by decide +kernel) ?_
          refine Only.then (cfgWrite_only ..) (by decide +kernel) ?_
          exact Only.refl _ _
        · refine Only.then (emit_only ..) (by decide +kernel) ?_
          exact Only.refl _ _

theorem execFunctionLevelReset_only (fn : ℕ) (s : State) : Only (Part.functionReset) s (after s (execFunctionLevelReset fn s)) := by
  unfold execFunctionLevelReset
  dsimp -proj only [after]
  split
  · refine Only.then (functionReset_only ..) (by decide +kernel) ?_
    exact Only.refl _ _
  · exact Only.refl _ _

theorem execVfEnableClear_only (numVfs : ℕ) (s : State) : Only [.sys .timeJournal, .port .linkState, .port .vfEnable, .port .numVfs, .port .ltrUs, .port .ltrLive, .port .ltrQueue, .fn .cfg, .fn .present, .fn .bme, .fn .dState, .fn .msixEn, .fn .fnMask, .fn .pmeEn, .fn .pmeStatus, .fn .pmeAtCold, .fn .relaxed, .fn .idOrder, .fn .denied, .fn .errTimeout, .fn .errUrCa, .fn .errPoisoned, .fn .errQueue, .fn .errJob, .fn .vecs, .fn .evMap, .fn .cmpExpect, .fn .cmpSpoiled, .fn .cmpEq, .fn .cmpNe, .queue .state, .queue .remembered, .queue .defer, .queue .copies, .queue .heldBell, .queue .shadowOwed, .queue .fetchFailed, .queue .fetchTried, .jn .seq, .out] s (after s (execVfEnableClear numVfs s)) := by
  unfold execVfEnableClear
  dsimp -proj only [after]
  split
  · refine Only.then (lowerVfs_only ..) (by decide +kernel) ?_
    exact Only.refl _ _
  · exact Only.refl _ _

theorem execVfEnable_only (numVfs : ℕ) (s : State) : Only [.port .vfEnable, .port .numVfs, .fn .present, .fn .vecSize] s (after s (execVfEnable numVfs s)) := by
  unfold execVfEnable
  dsimp -proj only [after]
  split
  · refine Only.then (enableVfs_only ..) (by decide +kernel) ?_
    exact Only.refl _ _
  · exact Only.refl _ _

theorem execD3hotEntry_only (fn : ℕ) (s : State) : Only [.fn .dState] s (after s (execD3hotEntry fn s)) := by
  unfold execD3hotEntry
  dsimp -proj only [after]
  split
  · refine Only.then (sleepFn_only ..) (by decide +kernel) ?_
    exact Only.refl _ _
  · exact Only.refl _ _

theorem execD0Return_only (fn : ℕ) (s : State) : Only [.sys .timeJournal, .en .padEnergy, .port .linkState, .fn .dState, .fn .vecs, .fn .cmpExpect, .fn .cmpSpoiled, .fn .cmpEq, .fn .cmpNe, .queue .shadowOwed, .queue .ring, .queue .ringSecret, .pad .results, .pad .mrs, .pad .diags, .jn .seq, .tk .slots, .tk .blobs, .core .mem, .jobs, .yard, .out] s (after s (execD0Return fn s)) := by
  unfold execD0Return
  dsimp -proj only [after]
  split
  · refine Only.then (wakeFn_only ..) (by decide +kernel) ?_
    exact Only.refl _ _
  · exact Only.refl _ _

theorem execMsixEnableSet_only (fn : ℕ) (s : State) : Only [.port .linkState, .fn .msixEn, .fn .vecs, .out] s (after s (execMsixEnableSet fn s)) := by
  unfold execMsixEnableSet
  dsimp -proj only [after]
  split
  · refine Only.then (setMsix_only ..) (by decide +kernel) ?_
    exact Only.refl _ _
  · exact Only.refl _ _

theorem execVectorUnmask_only (fn : ℕ) (vector : Option ℕ) (s : State) : Only [.port .linkState, .fn .fnMask, .fn .vecs, .out] s (after s (execVectorUnmask fn vector s)) := by
  unfold execVectorUnmask
  dsimp -proj only [after]
  split
  · split
    · refine Only.then (unmask_only ..) (by decide +kernel) ?_
      exact Only.refl _ _
    · exact Only.refl _ _
  · split
    · refine Only.then (unmask_only ..) (by decide +kernel) ?_
      exact Only.refl _ _
    · exact Only.refl _ _

theorem execVectorTimerExpiry_only (fn : ℕ) (vector : ℕ) (s : State) : Only [.port .linkState, .fn .vecs, .out] s (after s (execVectorTimerExpiry fn vector s)) := by
  unfold execVectorTimerExpiry
  dsimp -proj only [after]
  split
  · refine Only.then (dueVec_only ..) (by decide +kernel) ?_
    exact Only.refl _ _
  · exact Only.refl _ _

theorem execLinkReturn_only (s : State) : Only (Part.functionReset ++ ([.sys .refclk, .sys .linkWidth, .sys .linkReversed, .sys .causeHif, .en .shed, .port .linkUp, .fn .vecSize, .fn .qcRing, .fn .qcLog2, .fn .qcVector, .fn .qcWake, .fn .qcCrcReq, .fn .qcIrqEn, .fn .qcShadowEn, .fn .qcShadowAddr, .fn .cmdQueue, .fn .cmdCmd, .fn .cmdBusy, .fn .cmdLost, .fn .cmdResult, .fn .statSel, .fn .cmpSlot, .fn .cmpLen, .fn .cmpGo, .fn .tkSel, .fn .tkSelBlob, .fn .bxImgAddr, .fn .fcResult, .fn .hlLog, .fn .hlEntry, .fn .hlWord, .fn .certSel, .fn .certOff, .fn .latch, .fc .out, .tt .lanes, .lk .tests, .freeCtr] : List Part)) s (after s (execLinkReturn s)) := by
  unfold execLinkReturn
  dsimp -proj only [after]
  split
  · exact Only.refl _ _
  · split
    · refine Only.then (causeEnds_only ..) (by decide +kernel) ?_
      refine Only.then (hostReset_only ..) (by decide +kernel) ?_
      refine put_sys ?_ ?_
      · refine Sys.set_refclk (by decide +kernel) ?_
        exact SysReg.refl _ _
      · refine Only.then (trainLanes_only ..) (by decide +kernel) ?_
        exact Only.refl _ _
    · refine put_sys ?_ ?_
      · refine Sys.set_refclk (by decide +kernel) ?_
        exact SysReg.refl _ _
      · refine Only.then (trainLanes_only ..) (by decide +kernel) ?_
        exact Only.refl _ _

theorem execPoisonedWrite_only (fn : ℕ) (ecrc : Bool) (s : State) : Only [.fn .cfg, .fn .errPoisoned, .fn .cmpExpect, .fn .cmpSpoiled, .fn .cmpEq, .fn .cmpNe, .pad .results, .out] s (after s (execPoisonedWrite fn ecrc s)) := by
  unfold execPoisonedWrite
  dsimp -proj only [after]
  split
  · exact Only.refl _ _
  · split
    · refine Only.then (clearDigests_only ..) (by decide +kernel) ?_
      refine Only.then (aer_only ..) (by decide +kernel) ?_
      split
      · exact Only.refl _ _
      · refine modFn_in ?_ ?_
        · refine Fn.set_errPoisoned (by decide +kernel) ?_
          exact FnReg.refl _ _
        · exact Only.refl _ _
    · refine Only.then (aer_only ..) (by decide +kernel) ?_
      split
      · exact Only.refl _ _
      · refine modFn_in ?_ ?_
        · refine Fn.set_errPoisoned (by decide +kernel) ?_
          exact FnReg.refl _ _
        · exact Only.refl _ _

theorem execFeedWindowWrite_only (fn : ℕ) (offset : ℕ) (data : Bytes) (s : State) : Only [.port .linkState, .fn .denied, .fn .cmpExpect, .fn .cmpSpoiled, .fn .cmpEq, .fn .cmpNe, .pad .results, .core .mem, .feeds, .out] s (after s (execFeedWindowWrite fn offset data s)) := by
  unfold execFeedWindowWrite
  dsimp -proj only [after]
  split
  · refine Only.then (bar4Access_only ..) (by decide +kernel) ?_
    exact Only.refl _ _
  · exact Only.refl _ _

theorem latchWords_only (s : State) (n : ℕ) (base : ℕ) (words : ℕ) : Only [.fn .latch] s (latchWords s n base words) := by
  unfold latchWords
  try dsimp -proj only
  refine modFn_in ?_ ?_
  · refine Fn.set_latch (by decide +kernel) ?_
    exact FnReg.refl _ _
  · exact Only.refl _ _

theorem execMultiwordRead_only (fn : ℕ) (offset : ℕ) (size : ℕ) (s : State) : Only [.port .linkState, .fn .latch, .out] s (after s (execMultiwordRead fn offset size s)) := by
  unfold execMultiwordRead
  dsimp -proj only [after]
  split
  · exact Only.refl _ _
  · refine Only.then (reply_only ..) (by decide +kernel) ?_
    split
    · exact Only.refl _ _
    · split
      · refine Only.then (latchWords_only ..) (by decide +kernel) ?_
        exact Only.refl _ _
      · exact Only.refl _ _

theorem writePart_only (s : State) (off : ℕ) (x : WVal) : Only (Part.allLk ++ ([.sys .causeCold, .sys .causeWarmSw, .sys .causeWarmFatal, .sys .causeWarmApply, .sys .causeHif, .sys .causeClock, .sys .paddockResets, .sys .paddockSel, .pl .imgAddr, .pl .imgLen, .lc .tokenAddr, .lc .tokenLen, .rng .overflow, .fc .dropped, .fc .severeLost, .fc .outSel, .fc .bucketSel] : List Part)) s (writePart s off x) := by
  unfold writePart
  try dsimp -proj only
  split
  · refine put_sys ?_ ?_
    · refine Sys.set_paddockSel (by decide +kernel) ?_
      exact SysReg.refl _ _
    · exact Only.refl _ _
  · refine put_sys ?_ ?_
    · refine Sys.set_causeCold_causeWarmSw_causeWarmFatal_causeWarmApply_causeHif_causeClock_paddockResets (by decide +kernel) ?_
      exact SysReg.refl _ _
    · exact Only.refl _ _
  · refine put_pl ?_ ?_
    · refine PlanCtl.set_imgAddr (by decide +kernel) ?_
      exact PlReg.refl _ _
    · exact Only.refl _ _
  · refine put_pl ?_ ?_
    · refine PlanCtl.set_imgLen (by decide +kernel) ?_
      exact PlReg.refl _ _
    · exact Only.refl _ _
  · refine put_rng ?_ ?_
    · refine Rng.set_overflow (by decide +kernel) ?_
      exact RngReg.refl _ _
    · exact Only.refl _ _
  · refine put_fc ?_ ?_
    · refine Faults.set_dropped_severeLost (by decide +kernel) ?_
      exact FcReg.refl _ _
    · exact Only.refl _ _
  · refine put_fc ?_ ?_
    · refine Faults.set_outSel (by decide +kernel) ?_
      exact FcReg.refl _ _
    · exact Only.refl _ _
  · refine put_fc ?_ ?_
    · refine Faults.set_bucketSel (by decide +kernel) ?_
      exact FcReg.refl _ _
    · exact Only.refl _ _
  · refine put_lc ?_ ?_
    · refine LifeCycle.set_tokenAddr (by decide +kernel) ?_
      exact LcReg.refl _ _
    · exact Only.refl _ _
  · refine put_lc ?_ ?_
    · refine LifeCycle.set_tokenLen (by decide +kernel) ?_
      exact LcReg.refl _ _
    · exact Only.refl _ _
  · refine put_lk ?_ ?_
    · refine Links.set_sel_selTarget (by decide +kernel) ?_
      exact LkReg.refl _ _
    · exact Only.refl _ _
  · split
    · refine Only.then (modTest_only ..) (by decide +kernel) ?_
      exact Only.refl _ _
    · exact Only.refl _ _
  · exact Only.refl _ _

theorem writePaddock_only (s : State) (p : ℕ) (off : ℕ) (x : WVal) : Only [.pad .haltOverflow, .feeds] s (writePaddock s p off x) := by
  unfold writePaddock
  try dsimp -proj only
  split
  · refine modPad_in ?_ ?_
    · refine Pad.set_haltOverflow (by decide +kernel) ?_
      exact PadReg.refl _ _
    · exact Only.refl _ _
  · split
    · split
      · refine Only.then (modFeed_only ..) (by decide +kernel) ?_
        exact Only.refl _ _
      · exact Only.refl _ _
    · exact Only.refl _ _

theorem writeSelectors_only (f : Fn) (off : ℕ) (x : WVal) : Keep FnReg.Same [.qcRing, .qcLog2, .qcVector, .qcWake, .qcCrcReq, .qcIrqEn, .qcShadowEn, .qcShadowAddr, .cmdLost, .statSel, .tkSel, .tkSelBlob, .bxImgAddr, .hlLog, .hlEntry, .hlWord] f (writeSelectors f off x) := by
  unfold writeSelectors
  try dsimp -proj only
  split
  · refine Fn.set_qcRing (by decide +kernel) ?_
    exact FnReg.refl _ _
  · refine Fn.set_qcLog2_qcVector_qcWake_qcCrcReq_qcIrqEn (by decide +kernel) ?_
    exact FnReg.refl _ _
  · refine Fn.set_qcShadowEn_qcShadowAddr (by decide +kernel) ?_
    exact FnReg.refl _ _
  · refine Fn.set_cmdLost (by decide +kernel) ?_
    exact FnReg.refl _ _
  · refine Fn.set_statSel (by decide +kernel) ?_
    exact FnReg.refl _ _
  · refine Fn.set_tkSel_tkSelBlob (by decide +kernel) ?_
    exact FnReg.refl _ _
  · refine Fn.set_bxImgAddr (by decide +kernel) ?_
    exact FnReg.refl _ _
  · split
    · refine Fn.set_hlLog_hlEntry_hlWord (by decide +kernel) ?_
      exact FnReg.refl _ _
    · refine Fn.set_hlEntry_hlWord (by decide +kernel) ?_
      exact FnReg.refl _ _
  · exact FnReg.refl _ _

theorem writeHi_only (s : State) (f : Fn) (n : ℕ) (p : ℕ) (off : ℕ) (x : WVal) : Keep FnReg.Same [.denied, .errTimeout, .errUrCa, .errPoisoned, .evMap] f (writeHi s f n p off x) := by
  unfold writeHi
  try dsimp -proj only
  split
  · split
    · refine Fn.set_denied (by decide +kernel) ?_
      exact FnReg.refl _ _
    · exact FnReg.refl _ _
  · refine Fn.set_errTimeout_errUrCa_errPoisoned (by decide +kernel) ?_
    exact FnReg.refl _ _
  · split
    · refine Fn.set_evMap (by decide +kernel) ?_
      exact FnReg.refl _ _
    · exact FnReg.refl _ _

theorem writeSlot_only (s : State) (n : ℕ) (p : ℕ) (off : ℕ) (x : WVal) : Only (Part.allLk ++ ([.sys .causeCold, .sys .causeWarmSw, .sys .causeWarmFatal, .sys .causeWarmApply, .sys .causeHif, .sys .causeClock, .sys .paddockResets, .sys .paddockSel, .pl .imgAddr, .pl .imgLen, .lc .tokenAddr, .lc .tokenLen, .port .linkState, .fn .fnMask, .fn .denied, .fn .errTimeout, .fn .errUrCa, .fn .errPoisoned, .fn .vecs, .fn .evMap, .fn .qcRing, .fn .qcLog2, .fn .qcVector, .fn .qcWake, .fn .qcCrcReq, .fn .qcIrqEn, .fn .qcShadowEn, .fn .qcShadowAddr, .fn .cmdLost, .fn .statSel, .fn .tkSel, .fn .tkSelBlob, .fn .bxImgAddr, .fn .hlLog, .fn .hlEntry, .fn .hlWord, .pad .haltOverflow, .rng .overflow, .fc .dropped, .fc .severeLost, .fc .outSel, .fc .bucketSel, .feeds, .out] : List Part)) s (writeSlot s n p off x) := by
  unfold writeSlot
  try dsimp -proj only
  split
  · refine Only.then (writeMsix_only ..) (by decide +kernel) ?_
    exact Only.refl _ _
  · refine Only.then (writePaddock_only ..) (by decide +kernel) ?_
    refine modFn_in ?_ ?_
    · refine FnReg.then (writeSelectors_only ..) (by decide +kernel) ?_
      refine FnReg.then (writeHi_only ..) (by decide +kernel) ?_
      exact FnReg.refl _ _
    · split
      · refine Only.then (writePart_only ..) (by decide +kernel) ?_
        exact Only.refl _ _
      · exact Only.refl _ _

theorem execRegisterWrite_only (fn : ℕ) (offset : ℕ) (size : ℕ) (value : W64) (s : State) : Only (Part.allLk ++ ([.sys .causeCold, .sys .causeWarmSw, .sys .causeWarmFatal, .sys .causeWarmApply, .sys .causeHif, .sys .causeClock, .sys .paddockResets, .sys .paddockSel, .pl .imgAddr, .pl .imgLen, .lc .tokenAddr, .lc .tokenLen, .port .linkState, .fn .fnMask, .fn .denied, .fn .errTimeout, .fn .errUrCa, .fn .errPoisoned, .fn .vecs, .fn .evMap, .fn .qcRing, .fn .qcLog2, .fn .qcVector, .fn .qcWake, .fn .qcCrcReq, .fn .qcIrqEn, .fn .qcShadowEn, .fn .qcShadowAddr, .fn .cmdLost, .fn .statSel, .fn .cmpExpect, .fn .cmpSpoiled, .fn .cmpEq, .fn .cmpNe, .fn .tkSel, .fn .tkSelBlob, .fn .bxImgAddr, .fn .hlLog, .fn .hlEntry, .fn .hlWord, .pad .results, .pad .haltOverflow, .rng .overflow, .fc .dropped, .fc .severeLost, .fc .outSel, .fc .bucketSel, .feeds, .out] : List Part)) s (after s (execRegisterWrite fn offset size value s)) := by
  unfold execRegisterWrite
  dsimp -proj only [after]
  split
  · exact Only.refl _ _
  · split
    · exact Only.refl _ _
    · split
      · refine Only.then (deny_only ..) (by decide +kernel) ?_
        exact Only.refl _ _
      · refine Only.then (writeSlot_only ..) (by decide +kernel) ?_
        exact Only.refl _ _

theorem execCaptureGenDraw_only (paddock : ℕ) (s : State) : Only (Part.request) s (after s (execCaptureGenDraw paddock s)) := by
  unfold execCaptureGenDraw
  dsimp -proj only [after]
  split
  · refine Only.then (drawGen_only ..) (by decide +kernel) ?_
    exact Only.refl _ _
  · exact Only.refl _ _

theorem startJob_only (s : State) (n : ℕ) (j : Job) : Only (Part.raiseFault ++ ([.stall .lastPaddock, .stall .runs, .stall .cmdRd, .stall .cmdWr] : List Part)) s (startJob s n j) := by
  unfold startJob
  try dsimp -proj only
  split
  · refine modSt_in ?_ ?_
    · refine Stall.set_state_lastPaddock_runs_jobs_dirty_prefEnded_scrubDue_cmdRd_cmdWr_reservedFor_operand_sequ (by decide +kernel) ?_
      exact StallReg.refl _ _
    · refine Only.then (modJob_only ..) (by decide +kernel) ?_
      exact Only.refl _ _
  · refine Only.then (raiseFault_only ..) (by decide +kernel) ?_
    refine modSt_in ?_ ?_
    · refine Stall.set_state_lastPaddock_runs_jobs_dirty_prefEnded_scrubDue_cmdRd_cmdWr_reservedFor_operand_sequ (by decide +kernel) ?_
      exact StallReg.refl _ _
    · refine Only.then (modJob_only ..) (by decide +kernel) ?_
      exact Only.refl _ _

theorem dispatch_only (s : State) (n : ℕ) : Only (Part.raiseFault ++ ([.en .shed, .stall .lastPaddock, .stall .runs, .stall .cmdRd, .stall .cmdWr] : List Part)) s (dispatch s n) := by
  unfold dispatch
  try dsimp -proj only
  split
  · split
    · refine Only.then (startTree_only ..) (by decide +kernel) ?_
      exact Only.refl _ _
    · exact Only.refl _ _
  · split
    · refine modPad_in ?_ ?_
      · refine Pad.set_waitFor (by decide +kernel) ?_
        exact PadReg.refl _ _
      · refine Only.then (workFor_only ..) (by decide +kernel) ?_
        exact Only.refl _ _
    · split
      · refine modSt_in ?_ ?_
        · refine Stall.set_reservedFor_muckAtWake (by decide +kernel) ?_
          exact StallReg.refl _ _
        · refine Only.then (startMuck_only ..) (by decide +kernel) ?_
          refine Only.then (workFor_only ..) (by decide +kernel) ?_
          exact Only.refl _ _
      · refine Only.then (startJob_only ..) (by decide +kernel) ?_
        refine Only.then (workFor_only ..) (by decide +kernel) ?_
        exact Only.refl _ _

theorem execDispatch_only (stall : ℕ) (s : State) : Only (Part.raiseFault ++ ([.en .shed, .stall .lastPaddock, .stall .runs, .stall .cmdRd, .stall .cmdWr] : List Part)) s (after s (execDispatch stall s)) := by
  unfold execDispatch
  dsimp -proj only [after]
  split
  · refine Only.then (dispatch_only ..) (by decide +kernel) ?_
    exact Only.refl _ _
  · exact Only.refl _ _

theorem askYield_only (s : State) (n : ℕ) (ok : Job → Job → Bool) : Only [.stall .reqYield, .stall .reservedFor] s (askYield s n ok) := by
  unfold askYield
  try dsimp -proj only
  split
  · exact Only.refl _ _
  · split
    · refine modSt_in ?_ ?_
      · refine Stall.set_reqYield_reservedFor (by decide +kernel) ?_
        exact StallReg.refl _ _
      · exact Only.refl _ _
    · exact Only.refl _ _

theorem execPkeYieldRequest_only (stall : ℕ) (s : State) : Only [.stall .reqYield, .stall .reservedFor] s (after s (execPkeYieldRequest stall s)) := by
  unfold execPkeYieldRequest
  dsimp -proj only [after]
  split
  · refine Only.then (askYield_only ..) (by decide +kernel) ?_
    exact Only.refl _ _
  · exact Only.refl _ _

theorem execDigestYieldRequest_only (stall : ℕ) (s : State) : Only [.stall .reqYield, .stall .reservedFor] s (after s (execDigestYieldRequest stall s)) := by
  unfold execDigestYieldRequest
  dsimp -proj only [after]
  split
  · refine Only.then (askYield_only ..) (by decide +kernel) ?_
    exact Only.refl _ _
  · exact Only.refl _ _

theorem execMceYieldRequest_only (stall : ℕ) (s : State) : Only [.stall .reqYield, .stall .reservedFor] s (after s (execMceYieldRequest stall s)) := by
  unfold execMceYieldRequest
  dsimp -proj only [after]
  split
  · refine Only.then (askYield_only ..) (by decide +kernel) ?_
    exact Only.refl _ _
  · exact Only.refl _ _

theorem moveAway_only (s : State) (n : ℕ) (position : ℕ) : Only (Part.finishJob) s (moveAway s n position) := by
  unfold moveAway
  try dsimp -proj only
  refine Only.then (clearStall_only ..) (by decide +kernel) ?_
  refine Only.then (draw_only ..) (by decide +kernel) ?_
  exact Only.refl _ _

theorem sample_only (s : State) (n : ℕ) (position : ℕ) : Only (Part.finishJob ++ ([.fc .ahead] : List Part)) s (sample s n position) := by
  unfold sample
  try dsimp -proj only
  split
  · refine put_fc ?_ ?_
    · refine Faults.set_ahead (by decide +kernel) ?_
      exact FcReg.refl _ _
    · refine Only.then (moveAway_only ..) (by decide +kernel) ?_
      exact Only.refl _ _
  · split
    · refine Only.foldl _ (fun t x => ?_) ?_
      · refine Only.then (abortJob_only ..) (by decide +kernel) ?_
        exact Only.refl _ _
      · exact Only.refl _ _
    · split
      · refine Only.then (moveAway_only ..) (by decide +kernel) ?_
        exact Only.refl _ _
      · exact Only.refl _ _

theorem execStallSafePoint_only (stall : ℕ) (commit : Bool) (checkpoint : Bool) (output : Bool) (position : ℕ) (s : State) : Only (Part.settle) s (after s (execStallSafePoint stall commit checkpoint output position s)) := by
  unfold execStallSafePoint
  dsimp -proj only [after]
  split
  · refine Only.then (settle_only ..) (by decide +kernel) ?_
    refine Only.then (sample_only ..) (by decide +kernel) ?_
    refine Only.then (setJobs_only ..) (by decide +kernel) ?_
    exact Only.refl _ _
  · exact Only.refl _ _

theorem execEnCapWrite_only (fn : ℕ) (value : W64) (s : State) : Only [.en .capQw, .en .windowMs] s (after s (execEnCapWrite fn value s)) := by
  unfold execEnCapWrite
  dsimp -proj only [after]
  split
  · refine put_en ?_ ?_
    · refine Energy.set_capQw_windowMs (by decide +kernel) ?_
      exact EnReg.refl _ _
    · exact Only.refl _ _
  · exact Only.refl _ _

theorem execI3cIdentityRead_only (index : ℕ) (s : State) : Only (Part.settle ++ ([.sys .deepSleep, .en .shed, .tp .sleepScramble] : List Part)) s (after s (execI3cIdentityRead index s)) := by
  unfold execI3cIdentityRead
  dsimp -proj only [after]
  split
  · refine Only.then (emit_only ..) (by decide +kernel) ?_
    refine Only.then (settle_only ..) (by decide +kernel) ?_
    refine Only.then (leaveDeepSleep_only ..) (by decide +kernel) ?_
    split
    · refine Only.then (draw_only ..) (by decide +kernel) ?_
      exact Only.refl _ _
    · dsimp only
      exact Only.refl _ _
  · exact Only.refl _ _

theorem execHoldupAdcConversion_only (raw : ℕ) (s : State) : Only (Part.allQueue ++ ([.sys .wakeDriven, .en .rawCode, .en .convs, .en .reserveLow, .port .linkState, .fn .pmeStatus, .fn .vecs, .out] : List Part)) s (after s (execHoldupAdcConversion raw s)) := by
  unfold execHoldupAdcConversion
  dsimp -proj only [after]
  split
  · exact Only.refl _ _
  · split
    · refine Only.then (recheck_only ..) (by decide +kernel) ?_
      refine Only.then (evalReserve_only ..) (by decide +kernel) ?_
      refine Only.then (convert_only ..) (by decide +kernel) ?_
      exact Only.refl _ _
    · refine Only.then (convert_only ..) (by decide +kernel) ?_
      exact Only.refl _ _

theorem execReserveLowClear_only (s : State) : Only (Part.allQueue ++ ([.en .reserveLow] : List Part)) s (after s (execReserveLowClear s)) := by
  unfold execReserveLowClear
  dsimp -proj only [after]
  split
  · refine Only.then (recheck_only ..) (by decide +kernel) ?_
    refine put_en ?_ ?_
    · refine Energy.set_reserveLow (by decide +kernel) ?_
      exact EnReg.refl _ _
    · exact Only.refl _ _
  · exact Only.refl _ _

theorem execShedWakeGrant_only (s : State) : Only [.en .shed, .en .step, .en .wakes] s (after s (execShedWakeGrant s)) := by
  unfold execShedWakeGrant
  dsimp -proj only [after]
  split
  · exact Only.refl _ _
  · split
    · exact Only.refl _ _
    · refine Only.then (tryWake_only ..) (by decide +kernel) ?_
      exact Only.refl _ _

theorem wakeStall_only (s : State) (n : ℕ) : Only (Part.request ++ ([.stall .state, .stall .jobs, .stall .reqFault, .stall .reqStop, .stall .reqYield, .stall .muckFailed, .stall .muckThen, .stall .ratchetCount, .stall .muckAtWake, .stall .sequ, .stall .tree] : List Part)) s (wakeStall s n) := by
  unfold wakeStall
  try dsimp -proj only
  split
  · exact Only.refl _ _
  · split
    · refine Only.then (startMuck_only ..) (by decide +kernel) ?_
      refine modSt_in ?_ ?_
      · refine Stall.set_muckAtWake (by decide +kernel) ?_
        exact StallReg.refl _ _
      · refine Only.then (seedStall_only ..) (by decide +kernel) ?_
        refine modSt_in ?_ ?_
        · refine Stall.set_state (by decide +kernel) ?_
          exact StallReg.refl _ _
        · exact Only.refl _ _
    · refine Only.then (seedStall_only ..) (by decide +kernel) ?_
      refine modSt_in ?_ ?_
      · refine Stall.set_state (by decide +kernel) ?_
        exact StallReg.refl _ _
      · exact Only.refl _ _

theorem shedOn_only (s : State) (i : ℕ) : Only (Part.request ++ ([.en .shed, .en .step, .stall .state, .stall .jobs, .stall .reqFault, .stall .reqStop, .stall .reqYield, .stall .muckFailed, .stall .muckThen, .stall .ratchetCount, .stall .muckAtWake, .stall .sequ, .stall .tree, .core .loading] : List Part)) s (shedOn s i) := by
  unfold shedOn
  try dsimp -proj only
  split
  · refine Only.foldl _ (fun t x => ?_) ?_
    · refine Only.then (wakeStall_only ..) (by decide +kernel) ?_
      exact Only.refl _ _
    · refine put_en ?_ ?_
      · refine Energy.set_step (by decide +kernel) ?_
        exact EnReg.refl _ _
      · refine Only.then (setShed_only ..) (by decide +kernel) ?_
        exact Only.refl _ _
  · split
    · refine Only.foldl _ (fun t x => ?_) ?_
      · refine modCore_in ?_ ?_
        · refine Core.set_loading (by decide +kernel) ?_
          exact CoreReg.refl _ _
        · exact Only.refl _ _
      · refine Only.then (setShed_only ..) (by decide +kernel) ?_
        exact Only.refl _ _
    · refine Only.then (setShed_only ..) (by decide +kernel) ?_
      exact Only.refl _ _

theorem execShedWakeDone_only (shed : ℕ) (s : State) : Only (Part.request ++ ([.en .shed, .en .step, .stall .state, .stall .jobs, .stall .reqFault, .stall .reqStop, .stall .reqYield, .stall .muckFailed, .stall .muckThen, .stall .ratchetCount, .stall .muckAtWake, .stall .sequ, .stall .tree, .core .loading] : List Part)) s (after s (execShedWakeDone shed s)) := by
  unfold execShedWakeDone
  dsimp -proj only [after]
  split
  · refine Only.then (shedOn_only ..) (by decide +kernel) ?_
    exact Only.refl _ _
  · exact Only.refl _ _

theorem sleepStalls_only (s : State) (i : ℕ) : Only [.en .shed, .en .sleepFrom, .stall .state, .stall .jobs, .stall .reqFault, .stall .reqStop, .stall .reqYield, .stall .muckFailed, .stall .muckThen, .stall .sequ, .stall .tree] s (sleepStalls s i) := by
  unfold sleepStalls
  try dsimp -proj only
  split
  · exact Only.refl _ _
  · split
    · refine Only.then (sleepShed_only ..) (by decide +kernel) ?_
      exact Only.refl _ _
    · refine Only.foldl _ (fun t x => ?_) ?_
      · refine Only.then (startMuck_only ..) (by decide +kernel) ?_
        exact Only.refl _ _
      · exact Only.refl _ _

theorem execShedIdleTimeout_only (shed : ℕ) (s : State) : Only [.en .shed, .en .sleepFrom, .stall .state, .stall .jobs, .stall .reqFault, .stall .reqStop, .stall .reqYield, .stall .muckFailed, .stall .muckThen, .stall .sequ, .stall .tree] s (after s (execShedIdleTimeout shed s)) := by
  unfold execShedIdleTimeout
  dsimp -proj only [after]
  split
  · exact Only.refl _ _
  · split
    · refine Only.then (sleepStalls_only ..) (by decide +kernel) ?_
      exact Only.refl _ _
    · split
      · split
        · refine Only.then (sleepShed_only ..) (by decide +kernel) ?_
          exact Only.refl _ _
        · exact Only.refl _ _
      · split
        · refine Only.then (sleepShed_only ..) (by decide +kernel) ?_
          exact Only.refl _ _
        · exact Only.refl _ _

theorem shedOff_only (s : State) (i : ℕ) : Only [.en .shed, .stall .state, .stall .operand, .core .state, .core .w, .core .v, .core .mlo, .core .mhi, .core .quo, .core .rem, .core .flg, .core .vff, .core .dsp, .core .pc, .core .mem, .core .mul, .core .div, .core .rstack, .core .spill, .core .codeAt, .core .codeLen, .core .dsLow, .core .dsHigh, .core .spillAt, .core .spillLen, .core .trapVec, .core .trapActive, .core .double, .core .boot, .core .vecUp, .core .vecOn, .core .windows, .core .waiting, .core .loading] s (shedOff s i) := by
  unfold shedOff
  try dsimp -proj only
  split
  · refine Only.foldl _ (fun t x => ?_) ?_
    · refine modSt_in ?_ ?_
      · split
        · exact StallReg.refl _ _
        · refine Stall.set_state_operand (by decide +kernel) ?_
          exact StallReg.refl _ _
      · exact Only.refl _ _
    · refine Only.then (setShed_only ..) (by decide +kernel) ?_
      exact Only.refl _ _
  · split
    · refine Only.foldl _ (fun t x => ?_) ?_
      · refine modCore_in ?_ ?_
        · refine CoreReg.then (coreOff_only ..) (by decide +kernel) ?_
          exact CoreReg.refl _ _
        · exact Only.refl _ _
      · refine Only.then (setShed_only ..) (by decide +kernel) ?_
        exact Only.refl _ _
    · refine Only.then (setShed_only ..) (by decide +kernel) ?_
      exact Only.refl _ _

theorem execShedSleepDone_only (shed : ℕ) (s : State) : Only [.en .shed, .stall .state, .stall .operand, .core .state, .core .w, .core .v, .core .mlo, .core .mhi, .core .quo, .core .rem, .core .flg, .core .vff, .core .dsp, .core .pc, .core .mem, .core .mul, .core .div, .core .rstack, .core .spill, .core .codeAt, .core .codeLen, .core .dsLow, .core .dsHigh, .core .spillAt, .core .spillLen, .core .trapVec, .core .trapActive, .core .double, .core .boot, .core .vecUp, .core .vecOn, .core .windows, .core .waiting, .core .loading] s (after s (execShedSleepDone shed s)) := by
  unfold execShedSleepDone
  dsimp -proj only [after]
  split
  · refine Only.then (shedOff_only ..) (by decide +kernel) ?_
    exact Only.refl _ _
  · exact Only.refl _ _

theorem muckIdle_only (s : State) (n : ℕ) : Only [.stall .muckouts, .stall .dirty] s (muckIdle s n) := by
  unfold muckIdle
  try dsimp -proj only
  refine modSt_in ?_ ?_
  · split
    · refine Stall.set_muckouts_dirty (by decide +kernel) ?_
      exact StallReg.refl _ _
    · exact StallReg.refl _ _
  · exact Only.refl _ _

theorem execDeepSleepEntry_only (s : State) : Only (Part.allPad ++ ([.sys .deepSleep, .en .shed, .stall .state, .stall .muckouts, .stall .dirty, .stall .operand, .rng .ready, .rng .attempts, .rng .store, .rng .waiting, .rng .restarting, .rng .fifo, .rng .ymDrbg, .core .state, .core .w, .core .v, .core .mlo, .core .mhi, .core .quo, .core .rem, .core .flg, .core .vff, .core .dsp, .core .pc, .core .mem, .core .mul, .core .div, .core .rstack, .core .spill, .core .codeAt, .core .codeLen, .core .dsLow, .core .dsHigh, .core .spillAt, .core .spillLen, .core .trapVec, .core .trapActive, .core .double, .core .boot, .core .vecUp, .core .vecOn, .core .windows, .core .waiting, .core .loading, .tp .reserveDraw, .freeCtr] : List Part)) s (after s (execDeepSleepEntry s)) := by
  unfold execDeepSleepEntry
  dsimp -proj only [after]
  split
  · refine put_sys_rng_tp_freeCtr ?_ ?_ ?_ ?_ ?_
    · refine Sys.set_deepSleep (by decide +kernel) ?_
      exact SysReg.refl _ _
    · refine Rng.set_ready_attempts_store_waiting_restarting_fifo (by decide +kernel) ?_
      exact RngReg.refl _ _
    · refine Tamper.set_reserveDraw (by decide +kernel) ?_
      exact TpReg.refl _ _
    · decide +kernel
    · refine Only.then (loseDrbgs_only ..) (by decide +kernel) ?_
      refine Only.foldl _ (fun t x => ?_) ?_
      · split
        · exact Only.refl _ _
        · refine Only.then (shedOff_only ..) (by decide +kernel) ?_
          exact Only.refl _ _
      · refine Only.foldl _ (fun t x => ?_) ?_
        · refine Only.then (muckIdle_only ..) (by decide +kernel) ?_
          exact Only.refl _ _
        · exact Only.refl _ _
  · exact Only.refl _ _

theorem execDeepSleepExit_only (trigger : ℕ) (s : State) : Only (Part.settle ++ ([.sys .deepSleep, .en .shed, .tp .sleepScramble] : List Part)) s (after s (execDeepSleepExit trigger s)) := by
  unfold execDeepSleepExit
  dsimp -proj only [after]
  split
  · exact Only.refl _ _
  · refine Only.then (settle_only ..) (by decide +kernel) ?_
    refine Only.then (leaveDeepSleep_only ..) (by decide +kernel) ?_
    split
    · refine put_port ?_ ?_
      · refine Port.set_linkState (by decide +kernel) ?_
        exact PortReg.refl _ _
      · exact Only.refl _ _
    · exact Only.refl _ _

theorem execTimeBaseSave_only (toHayloft : Bool) (s : State) : Only [.sys .timeJournal, .sys .timeHayloft, .jn .seq] s (after s (execTimeBaseSave toHayloft s)) := by
  unfold execTimeBaseSave
  dsimp -proj only [after]
  split
  · exact Only.refl _ _
  · split
    · refine put_sys ?_ ?_
      · refine Sys.set_timeHayloft (by decide +kernel) ?_
        exact SysReg.refl _ _
      · exact Only.refl _ _
    · refine Only.then (journalWrite_only ..) (by decide +kernel) ?_
      exact Only.refl _ _

theorem execJournalScrub_only (bank : ℕ) (corrected : Option ℕ) (s : State) : Only (Part.raiseFault ++ ([.sys .paddockResets, .rng .retired] : List Part)) s (after s (execJournalScrub bank corrected s)) := by
  unfold execJournalScrub
  dsimp -proj only [after]
  split
  · split
    · refine Only.then (settle_only ..) (by decide +kernel) ?_
      refine Only.then (raiseFault_only ..) (by decide +kernel) ?_
      refine Only.then (rowMended_only ..) (by decide +kernel) ?_
      exact Only.refl _ _
    · exact Only.refl _ _
  · exact Only.refl _ _

theorem execLoadPartial_only (fn : ℕ) (image : Bytes) (s : State) : Only [.pl .busy, .pl .phase, .pl .err, .pl .errOffset, .pl .swap, .pad .paused, .stall .state, .stall .jobs, .stall .reqFault, .stall .reqStop, .stall .reqClaim, .stall .reqYield, .stall .muckFailed, .stall .muckThen, .stall .sequ, .stall .tree, .hl .swapImage] s (after s (execLoadPartial fn image s)) := by
  unfold execLoadPartial
  dsimp -proj only [after]
  split
  · exact Only.refl _ _
  · split
    · refine Only.then (plErr_only ..) (by decide +kernel) ?_
      exact Only.refl _ _
    · split
      · refine Only.then (plErr_only ..) (by decide +kernel) ?_
        exact Only.refl _ _
      · refine Only.then (beginSwap_only ..) (by decide +kernel) ?_
        exact Only.refl _ _

theorem execPartialSwitch_only (s : State) : Only (Part.settle ++ ([.en .padEnergy, .jn .recDigests, .hl .auditLog, .hl .partials, .hl .swapImage] : List Part)) s (after s (execPartialSwitch s)) := by
  unfold execPartialSwitch
  dsimp -proj only [after]
  split
  · split
    · refine Only.then (settle_only ..) (by decide +kernel) ?_
      refine Only.then (switchPartial_only ..) (by decide +kernel) ?_
      exact Only.refl _ _
    · exact Only.refl _ _
  · exact Only.refl _ _

theorem execPlApply_only (fn : ℕ) (value : W64) (s : State) : Only [.pl .busy, .pl .phase, .pl .err, .pl .errOffset, .pl .applying, .hl .auditLog] s (after s (execPlApply fn value s)) := by
  unfold execPlApply
  dsimp -proj only [after]
  split
  · exact Only.refl _ _
  · split
    · refine Only.then (plErr_only ..) (by decide +kernel) ?_
      exact Only.refl _ _
    · refine Only.then (auditAdd_only ..) (by decide +kernel) ?_
      refine put_pl ?_ ?_
      · refine PlanCtl.set_busy_phase_err_errOffset_applying (by decide +kernel) ?_
        exact PlReg.refl _ _
      · exact Only.refl _ _

theorem preferStored_only (s : State) : Only [.pl .stored, .hl .dir0, .hl .dir1] s (preferStored s) := by
  unfold preferStored
  try dsimp -proj only
  refine put_pl ?_ ?_
  · refine PlanCtl.set_stored (by decide +kernel) ?_
    exact PlReg.refl _ _
  · refine Only.then (flipDir_only ..) (by decide +kernel) ?_
    exact Only.refl _ _

theorem execPlApplyDrained_only (s : State) : Only (Part.settle ++ ([.pl .stored] : List Part)) s (after s (execPlApplyDrained s)) := by
  unfold execPlApplyDrained
  dsimp -proj only [after]
  split
  · refine Only.then (settle_only ..) (by decide +kernel) ?_
    refine Only.then (warmReset_only ..) (by decide +kernel) ?_
    refine Only.then (preferStored_only ..) (by decide +kernel) ?_
    exact Only.refl _ _
  · exact Only.refl _ _

theorem execAbortSwap_only (fn : ℕ) (value : W64) (s : State) : Only (Part.allQueue ++ ([.pl .busy, .pl .phase, .pl .err, .pl .swap, .pl .applying, .pad .paused] : List Part)) s (after s (execAbortSwap fn value s)) := by
  unfold execAbortSwap
  dsimp -proj only [after]
  split
  · refine Only.then (recheck_only ..) (by decide +kernel) ?_
    refine Only.then (abandonSwap_only ..) (by decide +kernel) ?_
    exact Only.refl _ _
  · exact Only.refl _ _

theorem lcErr_only (s : State) (e : ℕ) : Only [.lc .err] s (lcErr s e) := by
  unfold lcErr
  try dsimp -proj only
  refine put_lc ?_ ?_
  · refine LifeCycle.set_err (by decide +kernel) ?_
    exact LcReg.refl _ _
  · exact Only.refl _ _

theorem startTransition_only (s : State) (t : Bytes) : Only [.sys .wakeDriven, .lc .busy, .lc .err, .lc .step, .lc .token, .dbg .scope, .dbg .padMask, .port .linkState, .fn .pmeStatus, .fn .vecs, .pad .extendLost, .rng .ready, .rng .rawMode, .rng .attempts, .rng .fifo, .core .state, .core .w, .core .pc, .core .waiting, .core .loading, .out] s (startTransition s t) := by
  unfold startTransition
  try dsimp -proj only
  split
  · refine Only.then (lcErr_only ..) (by decide +kernel) ?_
    exact Only.refl _ _
  · split
    · refine Only.then (lcErr_only ..) (by decide +kernel) ?_
      exact Only.refl _ _
    · refine put_lc ?_ ?_
      · refine LifeCycle.set_busy_err_step_token (by decide +kernel) ?_
        exact LcReg.refl _ _
      · refine Only.foldl _ (fun t x => ?_) ?_
        · refine Only.then (stopCore_only ..) (by decide +kernel) ?_
          exact Only.refl _ _
        · refine Only.then (endRaw_only ..) (by decide +kernel) ?_
          refine Only.then (endSession_only ..) (by decide +kernel) ?_
          exact Only.refl _ _

theorem execLcTransition_only (fn : ℕ) (token : Bytes) (s : State) : Only [.sys .wakeDriven, .lc .busy, .lc .err, .lc .step, .lc .token, .dbg .scope, .dbg .padMask, .port .linkState, .fn .pmeStatus, .fn .vecs, .pad .extendLost, .rng .ready, .rng .rawMode, .rng .attempts, .rng .fifo, .core .state, .core .w, .core .pc, .core .waiting, .core .loading, .out] s (after s (execLcTransition fn token s)) := by
  unfold execLcTransition
  dsimp -proj only [after]
  split
  · refine Only.then (startTransition_only ..) (by decide +kernel) ?_
    exact Only.refl _ _
  · exact Only.refl _ _

theorem execLcDrainTimeout_only (s : State) : Only (Part.allQueue ++ ([.lc .slots, .lc .busy, .lc .err, .lc .step, .lc .token] : List Part)) s (after s (execLcDrainTimeout s)) := by
  unfold execLcDrainTimeout
  dsimp -proj only [after]
  split
  · refine Only.then (recheck_only ..) (by decide +kernel) ?_
    refine Only.then (lcErr_only ..) (by decide +kernel) ?_
    refine Only.then (abandonTransition_only ..) (by decide +kernel) ?_
    exact Only.refl _ _
  · exact Only.refl _ _

theorem requireReset_only (s : State) : Only [.lc .busy, .lc .resetRequired, .lc .step, .lc .token, .jn .opened] s (requireReset s) := by
  unfold requireReset
  try dsimp -proj only
  refine put_lc_jn ?_ ?_ ?_
  · refine LifeCycle.set_busy_resetRequired_step_token (by decide +kernel) ?_
    exact LcReg.refl _ _
  · refine Journal.set_opened (by decide +kernel) ?_
    exact JnReg.refl _ _
  · exact Only.refl _ _

theorem execLedgerProgramDone_only (s : State) : Only [.lc .slots, .lc .busy, .lc .resetRequired, .lc .step, .lc .token, .jn .opened, .hl .auditLog] s (after s (execLedgerProgramDone s)) := by
  unfold execLedgerProgramDone
  dsimp -proj only [after]
  split
  · refine Only.then (requireReset_only ..) (by decide +kernel) ?_
    refine Only.then (auditAdd_only ..) (by decide +kernel) ?_
    refine put_lc ?_ ?_
    · refine LifeCycle.set_slots (by decide +kernel) ?_
      exact LcReg.refl _ _
    · exact Only.refl _ _
  · exact Only.refl _ _

theorem complete_only (s : State) (t : Bytes) : Only [.lc .slots, .lc .rootPresent, .lc .deviceRoot, .lc .deviceNumber, .lc .busy, .lc .resetRequired, .lc .err, .lc .step, .lc .token, .jn .opened, .hl .auditLog, .freeCtr] s (complete s t) := by
  unfold complete
  try dsimp -proj only
  split
  · refine Only.then (lcErr_only ..) (by decide +kernel) ?_
    exact Only.refl _ _
  · split
    · refine Only.then (lcErr_only ..) (by decide +kernel) ?_
      exact Only.refl _ _
    · split
      · refine Only.then (lcErr_only ..) (by decide +kernel) ?_
        exact Only.refl _ _
      · refine Only.then (requireReset_only ..) (by decide +kernel) ?_
        refine Only.then (auditAdd_only ..) (by decide +kernel) ?_
        refine Only.then (completeLedger_only ..) (by decide +kernel) ?_
        refine Only.then (lcErr_only ..) (by decide +kernel) ?_
        split
        · exact Only.refl _ _
        · refine Only.then (programRoot_only ..) (by decide +kernel) ?_
          exact Only.refl _ _

theorem execLcComplete_only (fn : ℕ) (token : Bytes) (s : State) : Only [.lc .slots, .lc .rootPresent, .lc .deviceRoot, .lc .deviceNumber, .lc .busy, .lc .resetRequired, .lc .err, .lc .step, .lc .token, .jn .opened, .hl .auditLog, .freeCtr] s (after s (execLcComplete fn token s)) := by
  unfold execLcComplete
  dsimp -proj only [after]
  split
  · refine Only.then (complete_only ..) (by decide +kernel) ?_
    exact Only.refl _ _
  · exact Only.refl _ _

theorem execGenIdentity_only (fn : ℕ) (value : W64) (s : State) : Only [.lc .err, .lc .identity, .port .linkState, .out] s (after s (execGenIdentity fn value s)) := by
  unfold execGenIdentity
  dsimp -proj only [after]
  split
  · split
    · refine Only.then (lcErr_only ..) (by decide +kernel) ?_
      exact Only.refl _ _
    · refine Only.then (hostWrite_only ..) (by decide +kernel) ?_
      refine Only.then (lcErr_only ..) (by decide +kernel) ?_
      refine put_lc ?_ ?_
      · refine LifeCycle.set_identity (by decide +kernel) ?_
        exact LcReg.refl _ _
      · exact Only.refl _ _
  · exact Only.refl _ _

theorem execStoreCerts_only (fn : ℕ) (certs : List Bytes) (s : State) : Only [.lc .err, .en .shed, .hl .objs, .hl .certsNew] s (after s (execStoreCerts fn certs s)) := by
  unfold execStoreCerts
  dsimp -proj only [after]
  split
  · split
    · refine Only.then (lcErr_only ..) (by decide +kernel) ?_
      exact Only.refl _ _
    · split
      · refine Only.then (startWrite_only ..) (by decide +kernel) ?_
        refine Only.then (lcErr_only ..) (by decide +kernel) ?_
        refine put_hl ?_ ?_
        · refine Hayloft.set_certsNew (by decide +kernel) ?_
          exact HlReg.refl _ _
        · exact Only.refl _ _
      · exact Only.refl _ _
  · exact Only.refl _ _

theorem execI3cTokenMailbox_only (complete : Bool) (token : Bytes) (s : State) : Only [.sys .wakeDriven, .lc .slots, .lc .rootPresent, .lc .deviceRoot, .lc .deviceNumber, .lc .busy, .lc .resetRequired, .lc .err, .lc .step, .lc .token, .dbg .scope, .dbg .padMask, .port .linkState, .fn .pmeStatus, .fn .vecs, .pad .extendLost, .jn .opened, .rng .ready, .rng .rawMode, .rng .attempts, .rng .fifo, .core .state, .core .w, .core .pc, .core .waiting, .core .loading, .hl .auditLog, .out, .freeCtr] s (after s (execI3cTokenMailbox complete token s)) := by
  unfold execI3cTokenMailbox
  dsimp -proj only [after]
  split
  · exact Only.refl _ _
  · split
    · split
      · refine Only.then (complete_only ..) (by decide +kernel) ?_
        exact Only.refl _ _
      · exact Only.refl _ _
    · split
      · refine Only.then (startTransition_only ..) (by decide +kernel) ?_
        exact Only.refl _ _
      · exact Only.refl _ _

theorem execCertDataRead_only (fn : ℕ) (s : State) : Only [.port .linkState, .fn .certOff, .out] s (after s (execCertDataRead fn s)) := by
  unfold execCertDataRead
  dsimp -proj only [after]
  split
  · exact Only.refl _ _
  · split
    · refine Only.then (reply_only ..) (by decide +kernel) ?_
      exact Only.refl _ _
    · refine Only.then (reply_only ..) (by decide +kernel) ?_
      refine modFn_in ?_ ?_
      · refine Fn.set_certOff (by decide +kernel) ?_
        exact FnReg.refl _ _
      · exact Only.refl _ _

theorem execDebugClose_only (fn : ℕ) (value : W64) (s : State) : Only [.dbg .scope, .dbg .padMask] s (after s (execDebugClose fn value s)) := by
  unfold execDebugClose
  dsimp -proj only [after]
  split
  · refine Only.then (endSession_only ..) (by decide +kernel) ?_
    exact Only.refl _ _
  · exact Only.refl _ _

theorem execShutdownFlush_only (s : State) : Only (Part.finishJob ++ ([.sys .wakeDriven, .sys .timeJournal, .en .shed, .en .reserveLow, .port .linkState, .port .ltrUs, .port .ltrLive, .port .ltrQueue, .fn .pmeStatus, .fn .vecs, .queue .a, .queue .headDeferred, .queue .copies, .queue .shadowOwed, .pad .caps, .pad .genDue, .pad .snaps, .pad .extendLost, .jn .opened, .jn .shutdownDone, .jn .nextSeq, .jn .seq, .jn .flushRecords, .jn .flushUs, .jn .flushResult, .jn .flushSeq, .jn .shutting, .jn .flushFrom, .stall .lastPaddock, .stall .inPool, .stall .dedicated, .stall .muckouts, .stall .runs, .stall .unsound, .stall .dirty, .stall .prefEnded, .stall .ratchet, .stall .ratchetCount, .stall .source, .stall .ucodeOk, .stall .cmdRd, .stall .cmdWr, .stall .spare, .stall .reservedFor, .stall .muckAtWake, .stall .operand, .core .state, .core .w, .core .pc, .core .waiting, .core .loading, .hl .flush, .hl .boundB, .time, .out] : List Part)) s (after s (execShutdownFlush s)) := by
  unfold execShutdownFlush
  dsimp -proj only [after]
  split
  · refine put_jn ?_ ?_
    · refine Journal.set_shutdownDone_shutting (by decide +kernel) ?_
      exact JnReg.refl _ _
    · refine Only.then (commitFlush_only ..) (by decide +kernel) ?_
      refine Only.then (stopAll_only ..) (by decide +kernel) ?_
      exact Only.refl _ _
  · exact Only.refl _ _

theorem serveBoth_only (s : State) : Only (Part.allQueue) s (serveBoth s) := by
  unfold serveBoth
  try dsimp -proj only
  refine put_queues ?_ ?_
  · decide +kernel
  · exact Only.refl _ _

theorem execTwinWaitTimeout_only (_boot : BootIn) (s : State) : Only (Part.settle ++ ([.sys .stage, .sys .bootState, .tt .partnerFailed] : List Part)) s (after s (execTwinWaitTimeout _boot s)) := by
  unfold execTwinWaitTimeout
  dsimp -proj only [after]
  split
  · refine Only.then (settle_only ..) (by decide +kernel) ?_
    refine Only.then (openGate_only ..) (by decide +kernel) ?_
    refine put_jn_tt ?_ ?_ ?_
    · refine Journal.set_role (by decide +kernel) ?_
      exact JnReg.refl _ _
    · refine Tether.set_partnerFailed (by decide +kernel) ?_
      exact TtReg.refl _ _
    · refine Only.then (serveBoth_only ..) (by decide +kernel) ?_
      exact Only.refl _ _
  · exact Only.refl _ _

theorem adoptQueues_only (s : State) : Only [.sys .wakeDriven, .sys .timeJournal, .port .linkState, .fn .pmeStatus, .fn .vecs, .queue .state, .queue .p, .queue .a, .queue .errReason, .queue .errDetail, .queue .errIndex, .queue .defer, .queue .copies, .queue .heldBell, .queue .shadowOwed, .queue .fetchFailed, .queue .fetchTried, .queue .standby, .queue .takenOver, .pad .haltLog, .pad .haltOverflow, .jn .seq, .out] s (adoptQueues s) := by
  unfold adoptQueues
  try dsimp -proj only
  refine Only.foldl _ (fun t x => ?_) ?_
  · split
    · exact Only.refl _ _
    · split
      · split
        · refine Only.then (ringRunning_only ..) (by decide +kernel) ?_
          refine modQ_in ?_ ?_
          · refine Queue.set_p_a_heldBell_standby_takenOver (by decide +kernel) ?_
            exact QueueReg.refl _ _
          · exact Only.refl _ _
        · refine modQ_in ?_ ?_
          · refine Queue.set_p_a_heldBell_standby_takenOver (by decide +kernel) ?_
            exact QueueReg.refl _ _
          · exact Only.refl _ _
      · refine modQ_in ?_ ?_
        · refine Queue.set_p_a_heldBell_standby_takenOver (by decide +kernel) ?_
          exact QueueReg.refl _ _
        · exact Only.refl _ _
  · exact Only.refl _ _

theorem adoptKeys_only (s : State) : Only [.tk .hbs] s (adoptKeys s) := by
  unfold adoptKeys
  try dsimp -proj only
  refine Only.foldl _ (fun t x => ?_) ?_
  · split
    · refine Only.then (startRefill_only ..) (by decide +kernel) ?_
      refine Only.then (modHbs_only ..) (by decide +kernel) ?_
      exact Only.refl _ _
    · exact Only.refl _ _
  · exact Only.refl _ _

theorem adoptCaps_only (s : State) : Only [.pad .caps, .pad .curGen, .pad .genDue, .tt .mirrorCaps] s (adoptCaps s) := by
  unfold adoptCaps
  try dsimp -proj only
  refine put_tt ?_ ?_
  · refine Tether.set_mirrorCaps (by decide +kernel) ?_
    exact TtReg.refl _ _
  · refine Only.foldl _ (fun t x => ?_) ?_
    · refine modPad_in ?_ ?_
      · refine Pad.set_caps_curGen_genDue (by decide +kernel) ?_
        exact PadReg.refl _ _
      · exact Only.refl _ _
    · exact Only.refl _ _

theorem adoptRecords_only (s : State) : Only (Part.allPad ++ ([.tt .mirror, .tt .mirrorCaps, .jobs, .yard] : List Part)) s (adoptRecords s) := by
  unfold adoptRecords
  try dsimp -proj only
  refine Only.then (replayAll_only ..) (by decide +kernel) ?_
  refine put_tt ?_ ?_
  · refine Tether.set_mirror (by decide +kernel) ?_
    exact TtReg.refl _ _
  · refine Only.then (setJobs_only ..) (by decide +kernel) ?_
    refine Only.then (adoptCaps_only ..) (by decide +kernel) ?_
    exact Only.refl _ _

theorem failover_only (s : State) : Only (Part.failover) s (failover s) := by
  unfold failover
  try dsimp -proj only
  refine Only.then (recheck_only ..) (by decide +kernel) ?_
  refine Only.then (adoptQueues_only ..) (by decide +kernel) ?_
  refine Only.then (adoptKeys_only ..) (by decide +kernel) ?_
  refine Only.then (adoptRecords_only ..) (by decide +kernel) ?_
  refine Only.then (kindEnds_only ..) (by decide +kernel) ?_
  refine Only.then (raiseEach_only ..) (by decide +kernel) ?_
  refine Only.then (report_only ..) (by decide +kernel) ?_
  refine Only.then (journalWrite_only ..) (by decide +kernel) ?_
  refine Only.then (dropPartner_only ..) (by decide +kernel) ?_
  refine put_jn_tt ?_ ?_ ?_
  · refine Journal.set_role_term (by decide +kernel) ?_
    exact JnReg.refl _ _
  · refine Tether.set_linkUp_hbIn_split_partnerFailed_partnerPresent (by decide +kernel) ?_
    exact TtReg.refl _ _
  · exact Only.refl _ _

theorem execTwinPartnerFailed_only (s : State) : Only (Part.failover) s (after s (execTwinPartnerFailed s)) := by
  unfold execTwinPartnerFailed
  dsimp -proj only [after]
  split
  · refine Only.then (settle_only ..) (by decide +kernel) ?_
    refine Only.foldl _ (fun t x => ?_) ?_
    · refine Only.then (sweepKind_only ..) (by decide +kernel) ?_
      exact Only.refl _ _
    · refine Only.then (failover_only ..) (by decide +kernel) ?_
      exact Only.refl _ _
  · exact Only.refl _ _

theorem execTwinLanesLost_only (s : State) : Only (Part.settle) s (after s (execTwinLanesLost s)) := by
  unfold execTwinLanesLost
  dsimp -proj only [after]
  split
  · refine Only.then (settle_only ..) (by decide +kernel) ?_
    refine Only.then (lanesLost_only ..) (by decide +kernel) ?_
    exact Only.refl _ _
  · exact Only.refl _ _

theorem ackUpTo_only (s : State) (n : ℕ) : Only (Part.settle ++ ([.hl .boundB] : List Part)) s (ackUpTo s n) := by
  unfold ackUpTo
  try dsimp -proj only
  refine Only.foldl _ (fun t x => ?_) ?_
  · refine Only.then (frameAcked_only ..) (by decide +kernel) ?_
    exact Only.refl _ _
  · refine put_tt ?_ ?_
    · refine Tether.set_unacked (by decide +kernel) ?_
      exact TtReg.refl _ _
    · exact Only.refl _ _

theorem takeAck_only (s : State) (f : Frame) : Only (Part.raiseFault ++ ([.sys .paddockResets, .rng .retired, .hl .boundB] : List Part)) s (takeAck s f) := by
  unfold takeAck
  try dsimp -proj only
  split
  · refine Only.then (resend_only ..) (by decide +kernel) ?_
    refine Only.then (ackUpTo_only ..) (by decide +kernel) ?_
    exact Only.refl _ _
  · refine Only.then (ackUpTo_only ..) (by decide +kernel) ?_
    exact Only.refl _ _

theorem execTetherFrameReceive_only (frame : Frame) (s : State) : Only (Part.raiseFault ++ ([.sys .paddockResets, .jn .nextSeq, .rng .retired, .hl .boundB, .tt .rxSeq, .tt .mirror, .tt .mirrorA, .tt .mirrorCaps, .tt .mirrorH, .tt .partnerTerm, .tt .partnerSerial, .tt .partnerPresent, .tt .mismatch, .tt .mirrorObjs] : List Part)) s (after s (execTetherFrameReceive frame s)) := by
  unfold execTetherFrameReceive
  dsimp -proj only [after]
  split
  · exact Only.refl _ _
  · split
    · refine Only.then (emit_only ..) (by decide +kernel) ?_
      exact Only.refl _ _
    · split
      · refine Only.then (settle_only ..) (by decide +kernel) ?_
        refine Only.then (takeAck_only ..) (by decide +kernel) ?_
        exact Only.refl _ _
      · split
        · refine Only.then (sendAck_only ..) (by decide +kernel) ?_
          exact Only.refl _ _
        · refine Only.then (settle_only ..) (by decide +kernel) ?_
          refine Only.then (sendAck_only ..) (by decide +kernel) ?_
          refine Only.then (deliver_only ..) (by decide +kernel) ?_
          refine put_tt ?_ ?_
          · refine Tether.set_rxSeq (by decide +kernel) ?_
            exact TtReg.refl _ _
          · exact Only.refl _ _

theorem execFarrierClaim_only (s : State) : Only [.en .wakes, .stall .state, .stall .jobs, .stall .reqFault, .stall .reqStop, .stall .reqClaim, .stall .reqYield, .stall .muckFailed, .stall .muckThen, .stall .sequ, .stall .tree, .fc .claimed, .fc .overdue, .fc .nextStall, .fc .ahead] s (after s (execFarrierClaim s)) := by
  unfold execFarrierClaim
  dsimp -proj only [after]
  split
  · exact Only.refl _ _
  · split
    · refine Only.then (claimStall_only ..) (by decide +kernel) ?_
      exact Only.refl _ _
    · split
      · exact Only.refl _ _
      · split
        · refine put_en_fc ?_ ?_ ?_
          · refine Energy.set_wakes (by decide +kernel) ?_
            exact EnReg.refl _ _
          · refine Faults.set_overdue (by decide +kernel) ?_
            exact FcReg.refl _ _
          · refine put_fc ?_ ?_
            · refine Faults.set_nextStall (by decide +kernel) ?_
              exact FcReg.refl _ _
            · exact Only.refl _ _
        · refine Only.then (claimStall_only ..) (by decide +kernel) ?_
          refine put_fc ?_ ?_
          · refine Faults.set_nextStall (by decide +kernel) ?_
            exact FcReg.refl _ _
          · exact Only.refl _ _

theorem execSelftestDone_only (pass : Bool) (s : State) : Only (Part.raiseFault ++ ([.sys .paddockResets, .rng .retired, .fc .passes, .fc .fails] : List Part)) s (after s (execSelftestDone pass s)) := by
  unfold execSelftestDone
  dsimp -proj only [after]
  split
  · exact Only.refl _ _
  · split
    · exact Only.refl _ _
    · split
      · refine Only.then (startMuck_only ..) (by decide +kernel) ?_
        refine put_fc ?_ ?_
        · refine Faults.set_passes (by decide +kernel) ?_
          exact FcReg.refl _ _
        · refine Only.then (sourceEnds_only ..) (by decide +kernel) ?_
          refine modSt_in ?_ ?_
          · refine Stall.set_unsound (by decide +kernel) ?_
            exact StallReg.refl _ _
          · refine put_fc ?_ ?_
            · refine Faults.set_testing (by decide +kernel) ?_
              exact FcReg.refl _ _
            · exact Only.refl _ _
      · refine Only.then (settle_only ..) (by decide +kernel) ?_
        refine Only.then (raiseFault_only ..) (by decide +kernel) ?_
        refine put_fc ?_ ?_
        · refine Faults.set_claimed_fails (by decide +kernel) ?_
          exact FcReg.refl _ _
        · refine put_fc ?_ ?_
          · refine Faults.set_testing (by decide +kernel) ?_
            exact FcReg.refl _ _
          · exact Only.refl _ _

theorem muckPassed_only (s : State) (n : ℕ) : Only (Part.allPad ++ ([.en .shed, .en .sleepFrom, .stall .state, .stall .muckouts, .stall .dirty, .stall .muckFailed, .stall .muckThen, .stall .operand, .fc .claimed, .fc .testing] : List Part)) s (muckPassed s n) := by
  unfold muckPassed
  try dsimp -proj only
  split
  · split
    · refine put_fc ?_ ?_
      · refine Faults.set_testing (by decide +kernel) ?_
        exact FcReg.refl _ _
      · refine modSt_in ?_ ?_
        · refine Stall.set_state (by decide +kernel) ?_
          exact StallReg.refl _ _
        · refine Only.then (clearReset_only ..) (by decide +kernel) ?_
          refine modSt_in ?_ ?_
          · refine Stall.set_muckouts_dirty_muckFailed_muckThen_operand (by decide +kernel) ?_
            exact StallReg.refl _ _
          · exact Only.refl _ _
    · refine modSt_in ?_ ?_
      · refine Stall.set_state (by decide +kernel) ?_
        exact StallReg.refl _ _
      · refine Only.then (clearReset_only ..) (by decide +kernel) ?_
        refine modSt_in ?_ ?_
        · refine Stall.set_muckouts_dirty_muckFailed_muckThen_operand (by decide +kernel) ?_
          exact StallReg.refl _ _
        · exact Only.refl _ _
  · refine put_fc ?_ ?_
    · split
      · refine Faults.set_claimed_testing (by decide +kernel) ?_
        exact FcReg.refl _ _
      · exact FcReg.refl _ _
    · refine modSt_in ?_ ?_
      · refine Stall.set_state (by decide +kernel) ?_
        exact StallReg.refl _ _
      · refine Only.then (clearReset_only ..) (by decide +kernel) ?_
        refine modSt_in ?_ ?_
        · refine Stall.set_muckouts_dirty_muckFailed_muckThen_operand (by decide +kernel) ?_
          exact StallReg.refl _ _
        · exact Only.refl _ _
  · split
    · refine Only.then (sleepShed_only ..) (by decide +kernel) ?_
      refine modSt_in ?_ ?_
      · refine Stall.set_state (by decide +kernel) ?_
        exact StallReg.refl _ _
      · refine Only.then (clearReset_only ..) (by decide +kernel) ?_
        refine modSt_in ?_ ?_
        · refine Stall.set_muckouts_dirty_muckFailed_muckThen_operand (by decide +kernel) ?_
          exact StallReg.refl _ _
        · exact Only.refl _ _
    · refine modSt_in ?_ ?_
      · refine Stall.set_state (by decide +kernel) ?_
        exact StallReg.refl _ _
      · refine Only.then (clearReset_only ..) (by decide +kernel) ?_
        refine modSt_in ?_ ?_
        · refine Stall.set_muckouts_dirty_muckFailed_muckThen_operand (by decide +kernel) ?_
          exact StallReg.refl _ _
        · exact Only.refl _ _
  · refine modSt_in ?_ ?_
    · refine Stall.set_state (by decide +kernel) ?_
      exact StallReg.refl _ _
    · refine Only.then (clearReset_only ..) (by decide +kernel) ?_
      refine modSt_in ?_ ?_
      · refine Stall.set_muckouts_dirty_muckFailed_muckThen_operand (by decide +kernel) ?_
        exact StallReg.refl _ _
      · exact Only.refl _ _

theorem execMuckoutDone_only (stall : ℕ) (zero : Bool) (s : State) : Only (Part.raiseFault ++ ([.sys .paddockResets, .en .shed, .en .sleepFrom, .rng .retired] : List Part)) s (after s (execMuckoutDone stall zero s)) := by
  unfold execMuckoutDone
  dsimp -proj only [after]
  split
  · refine Only.then (settle_only ..) (by decide +kernel) ?_
    split
    · refine Only.then (muckPassed_only ..) (by decide +kernel) ?_
      exact Only.refl _ _
    · split
      · refine Only.then (raiseFault_only ..) (by decide +kernel) ?_
        exact Only.refl _ _
      · refine modSt_in ?_ ?_
        · refine Stall.set_muckFailed (by decide +kernel) ?_
          exact StallReg.refl _ _
        · exact Only.refl _ _
  · exact Only.refl _ _

theorem execUcodeReloadDone_only (stall : ℕ) (s : State) : Only [.stall .ucodeOk, .fc .ahead] s (after s (execUcodeReloadDone stall s)) := by
  unfold execUcodeReloadDone
  dsimp -proj only [after]
  split
  · refine put_fc ?_ ?_
    · refine Faults.set_ahead (by decide +kernel) ?_
      exact FcReg.refl _ _
    · refine modSt_in ?_ ?_
      · refine Stall.set_ucodeOk (by decide +kernel) ?_
        exact StallReg.refl _ _
      · exact Only.refl _ _
  · exact Only.refl _ _

theorem execStallSourceReseed_only (stall : ℕ) (s : State) : Only (Part.request ++ ([.stall .ratchetCount] : List Part)) s (after s (execStallSourceReseed stall s)) := by
  unfold execStallSourceReseed
  dsimp -proj only [after]
  split
  · refine Only.then (seedStall_only ..) (by decide +kernel) ?_
    exact Only.refl _ _
  · exact Only.refl _ _

theorem injectBit_only (s : State) : Only [.lk .tests] s (injectBit s) := by
  unfold injectBit
  try dsimp -proj only
  refine Only.then (modTest_only ..) (by decide +kernel) ?_
  exact Only.refl _ _

theorem execLinkTestStart_only (fn : ℕ) (value : W64) (s : State) : Only [.tt .lanes, .lk .tests] s (after s (execLinkTestStart fn value s)) := by
  unfold execLinkTestStart
  dsimp -proj only [after]
  split
  · split
    · refine Only.then (injectBit_only ..) (by decide +kernel) ?_
      refine Only.then (runTest_only ..) (by decide +kernel) ?_
      exact Only.refl _ _
    · refine Only.then (runTest_only ..) (by decide +kernel) ?_
      exact Only.refl _ _
  · exact Only.refl _ _

theorem haltTest_only (s : State) (v : ℕ) : Only [.tt .lanes, .lk .tests, .freeCtr] s (haltTest s v) := by
  unfold haltTest
  try dsimp -proj only
  refine Only.then (modTest_only ..) (by decide +kernel) ?_
  refine Only.then (stopTest_only ..) (by decide +kernel) ?_
  exact Only.refl _ _

theorem execLinkTestStop_only (fn : ℕ) (value : W64) (s : State) : Only [.tt .lanes, .lk .tests, .freeCtr] s (after s (execLinkTestStop fn value s)) := by
  unfold execLinkTestStop
  dsimp -proj only [after]
  split
  · refine Only.then (haltTest_only ..) (by decide +kernel) ?_
    exact Only.refl _ _
  · exact Only.refl _ _

theorem execLinkTestInject_only (fn : ℕ) (value : W64) (s : State) : Only [.lk .tests] s (after s (execLinkTestInject fn value s)) := by
  unfold execLinkTestInject
  dsimp -proj only [after]
  split
  · refine Only.then (injectBit_only ..) (by decide +kernel) ?_
    exact Only.refl _ _
  · exact Only.refl _ _

theorem execLinkTestEnd_only (_link : ℕ) (_cause : ℕ) (s : State) : Only [.tt .lanes, .lk .tests, .freeCtr] s (after s (execLinkTestEnd _link _cause s)) := by
  unfold execLinkTestEnd
  dsimp -proj only [after]
  refine Only.then (endTests_only ..) (by decide +kernel) ?_
  exact Only.refl _ _

theorem execTapExtest_only (s : State) : Only [.sys .wakeDriven, .sys .boundary, .sys .tapIr, .port .linkState, .fn .pmeStatus, .fn .vecs, .pad .extendLost, .jn .opened, .stall .state, .stall .jobs, .stall .reqFault, .stall .reqStop, .stall .reqClaim, .stall .reqYield, .stall .muckFailed, .stall .muckThen, .stall .sequ, .stall .tree, .core .state, .core .w, .core .pc, .core .waiting, .core .loading, .jobs, .yard, .out] s (after s (execTapExtest s)) := by
  unfold execTapExtest
  dsimp -proj only [after]
  refine Only.then (takeBalls_only ..) (by decide +kernel) ?_
  exact Only.refl _ _

theorem execTapHighz_only (s : State) : Only [.sys .wakeDriven, .sys .boundary, .sys .tapIr, .port .linkState, .fn .pmeStatus, .fn .vecs, .pad .extendLost, .jn .opened, .stall .state, .stall .jobs, .stall .reqFault, .stall .reqStop, .stall .reqClaim, .stall .reqYield, .stall .muckFailed, .stall .muckThen, .stall .sequ, .stall .tree, .core .state, .core .w, .core .pc, .core .waiting, .core .loading, .jobs, .yard, .out] s (after s (execTapHighz s)) := by
  unfold execTapHighz
  dsimp -proj only [after]
  refine Only.then (takeBalls_only ..) (by decide +kernel) ?_
  exact Only.refl _ _

theorem execTapSamplePreload_only (preload : Bool) (cells : ℕ) (s : State) : Only [.sys .tapIr, .sys .boundaryReg, .out, .freeCtr] s (after s (execTapSamplePreload preload cells s)) := by
  unfold execTapSamplePreload
  dsimp -proj only [after]
  split
  · refine Only.then (setIr_only ..) (by decide +kernel) ?_
    exact Only.refl _ _
  · split
    · refine put_sys ?_ ?_
      · refine Sys.set_boundaryReg (by decide +kernel) ?_
        exact SysReg.refl _ _
      · refine Only.then (setIr_only ..) (by decide +kernel) ?_
        exact Only.refl _ _
    · refine Only.then (emit_only ..) (by decide +kernel) ?_
      refine Only.then (draw_only ..) (by decide +kernel) ?_
      refine Only.then (setIr_only ..) (by decide +kernel) ?_
      exact Only.refl _ _

theorem execVddAonPowerOn_only (boot : BootIn) (s : State) : Only (Part.coldBoot ++ ([.sys .ttHbo, .sys .paddockResets, .stall .unsound, .stall .muckAtWake, .tk .lost, .fc .spareRows, .hl .rebuilding, .hl .singleCopy, .hl .retireMap, .tt .retraining, .tt .retrains, .tt .retransmits, .tt .split, .yardRetired] : List Part)) s (after s (execVddAonPowerOn boot s)) := by
  unfold execVddAonPowerOn
  dsimp -proj only [after]
  split
  · exact Only.refl _ _
  · refine Only.then (settle_only ..) (by decide +kernel) ?_
    refine Only.then (coldBoot_only ..) (by decide +kernel) ?_
    exact Only.refl _ _

theorem execOvertempEnd_only (s : State) : Only [.en .step, .en .overtemp, .fc .out] s (after s (execOvertempEnd s)) := by
  unfold execOvertempEnd
  dsimp -proj only [after]
  split
  · refine Only.then (kindEnds_only ..) (by decide +kernel) ?_
    refine put_en ?_ ?_
    · refine Energy.set_step_overtemp (by decide +kernel) ?_
      exact EnReg.refl _ _
    · exact Only.refl _ _
  · exact Only.refl _ _

theorem execCheckerLock_only (link : ℕ) (s : State) : Only [.lk .tests] s (after s (execCheckerLock link s)) := by
  unfold execCheckerLock
  dsimp -proj only [after]
  split
  · refine Only.then (modTest_only ..) (by decide +kernel) ?_
    exact Only.refl _ _
  · exact Only.refl _ _

theorem execDebugHalt_only (core : ℕ) (s : State) : Only [.core .state, .core .w, .core .pc, .core .waiting] s (after s (execDebugHalt core s)) := by
  unfold execDebugHalt
  dsimp -proj only [after]
  split
  · refine modCore_in ?_ ?_
    · refine Core.set_state (by decide +kernel) ?_
      refine CoreReg.then (endWait_only ..) (by decide +kernel) ?_
      exact CoreReg.refl _ _
    · exact Only.refl _ _
  · exact Only.refl _ _

theorem execDebugResume_only (core : ℕ) (s : State) : Only [.core .state] s (after s (execDebugResume core s)) := by
  unfold execDebugResume
  dsimp -proj only [after]
  split
  · refine modCore_in ?_ ?_
    · refine Core.set_state (by decide +kernel) ?_
      exact CoreReg.refl _ _
    · exact Only.refl _ _
  · exact Only.refl _ _

end Sys2Proof.Machine
end

