-- ==== Sys2Proof/Laws/OnlyBenxis.lean ====
section
/-! SUPPORT. OnlyBenxis.lean: frames: which registers each operation of State may change, of the Benxis instructions. -/

set_option Elab.async false

open Sys2Proof

namespace Sys2Proof.Machine

theorem trappedCore_only (c : Core) (t : Trap) : Keep CoreReg.Same [.dsp, .pc, .mem, .trapActive, .lastCode, .traps] c (trappedCore c t) := by
  unfold trappedCore
  try dsimp -proj only
  refine Core.set_dsp_pc_mem_trapActive_lastCode_traps (by decide +kernel) ?_
  exact CoreReg.refl _ _

theorem enterTrap_only (s : State) (n : ℕ) (t : Trap) : Only [.sys .wakeDriven, .port .linkState, .fn .pmeStatus, .fn .vecs, .pad .extendLost, .core .state, .core .w, .core .dsp, .core .pc, .core .mem, .core .trapActive, .core .double, .core .lastCode, .core .traps, .core .waiting, .core .loading, .out] s (enterTrap s n t) := by
  unfold enterTrap
  try dsimp -proj only
  split
  · refine Only.then (stopCore_only ..) (by decide +kernel) ?_
    refine modCore_in ?_ ?_
    · refine Core.set_double_lastCode_traps (by decide +kernel) ?_
      exact CoreReg.refl _ _
    · exact Only.refl _ _
  · refine modCore_in ?_ ?_
    · refine CoreReg.then (trappedCore_only ..) (by decide +kernel) ?_
      exact CoreReg.refl _ _
    · exact Only.refl _ _

theorem withFetch_only {k : List Part} {s : State} {n op : ℕ} {f : BxFields} {g : ℕ → State}
    (hk : within [.sys .wakeDriven, .port .linkState, .fn .pmeStatus, .fn .vecs, .pad .extendLost, .core .state, .core .w, .core .dsp, .core .pc, .core .mem, .core .trapActive, .core .double, .core .lastCode, .core .traps, .core .waiting, .core .loading, .out] k = true) (hg : ∀ len, Only k s (g len)) : Only k s (withFetch s n op f g) := by
  unfold withFetch
  split
  · exact Only.refl _ _
  · split
    · exact Only.then (enterTrap_only ..) hk (Only.refl _ _)
    · split
      · exact hg _
      · exact Only.refl _ _

theorem vecPower_only (c : Core) (f : BxFields) : Keep CoreReg.Same [.vecUp] c (vecPower c f) := by
  unfold vecPower
  try dsimp -proj only
  split
  · refine Core.set_vecUp (by decide +kernel) ?_
    exact CoreReg.refl _ _
  · exact CoreReg.refl _ _

theorem retire_only (c : Core) (f : BxFields) (len : ℕ) (d : Done) : Keep CoreReg.Same CoreReg.all c (retire c f len d) := by
  unfold retire
  try dsimp -proj only
  refine CoreReg.then (vecPower_only ..) (by decide +kernel) ?_
  refine Core.set_pc (by decide +kernel) ?_
  exact CoreReg.of_all (by decide +kernel)

theorem runCore_only (s : State) (n op : ℕ) (f : BxFields) (g : Core → ℕ → ℕ → BxRes) : Only (Part.runCore) s (runCore s n op f g) := by
  refine withFetch_only (by decide +kernel) fun len => ?_
  split
  · exact Only.then (enterTrap_only ..) (by decide +kernel) (Only.refl _ _)
  · dsimp -proj only
    split
    · exact put_freeCtr (by decide +kernel) (putCore_in (CoreReg.of_all (by decide +kernel)) (Only.refl _ _))
    · exact putCore_in (CoreReg.of_all (by decide +kernel)) (Only.refl _ _)

theorem execBxBov_only (core : ℕ) (f : BxFields) (s : State) : Only (Part.runCore) s (after s (execBxBov core f s)) := by
  unfold execBxBov
  dsimp -proj only [after]
  refine Only.then (runCore_only ..) (by decide +kernel) ?_
  exact Only.refl _ _

theorem execBxRor_only (core : ℕ) (f : BxFields) (s : State) : Only (Part.runCore) s (after s (execBxRor core f s)) := by
  unfold execBxRor
  dsimp -proj only [after]
  refine Only.then (runCore_only ..) (by decide +kernel) ?_
  exact Only.refl _ _

theorem execBxLd8_only (core : ℕ) (f : BxFields) (s : State) : Only (Part.runCore) s (after s (execBxLd8 core f s)) := by
  unfold execBxLd8
  dsimp -proj only [after]
  refine Only.then (runCore_only ..) (by decide +kernel) ?_
  exact Only.refl _ _

theorem execBxMkptr_only (core : ℕ) (f : BxFields) (s : State) : Only (Part.runCore) s (after s (execBxMkptr core f s)) := by
  unfold execBxMkptr
  dsimp -proj only [after]
  refine Only.then (runCore_only ..) (by decide +kernel) ?_
  exact Only.refl _ _

theorem execBxRtt_only (core : ℕ) (f : BxFields) (s : State) : Only (Part.allCore ++ ([.sys .wakeDriven, .port .linkState, .fn .pmeStatus, .fn .vecs, .pad .extendLost, .out] : List Part)) s (after s (execBxRtt core f s)) := by
  unfold execBxRtt
  dsimp -proj only [after]
  refine withFetch_only (by decide +kernel) ?_
  intro _
  split
  · refine Only.then (enterTrap_only ..) (by decide +kernel) ?_
    exact Only.refl _ _
  · split
    · refine Only.then (stopCore_only ..) (by decide +kernel) ?_
      refine modCore_in ?_ ?_
      · refine Core.set_double (by decide +kernel) ?_
        exact CoreReg.refl _ _
      · exact Only.refl _ _
    · split
      · refine Only.then (enterTrap_only ..) (by decide +kernel) ?_
        exact Only.refl _ _
      · refine putCore_in ?_ ?_
        · refine Core.set_pc (by decide +kernel) ?_
          exact CoreReg.of_all (by decide +kernel)
        · exact Only.refl _ _

theorem execBxShr_only (core : ℕ) (f : BxFields) (s : State) : Only (Part.runCore) s (after s (execBxShr core f s)) := by
  unfold execBxShr
  dsimp -proj only [after]
  refine Only.then (runCore_only ..) (by decide +kernel) ?_
  exact Only.refl _ _

theorem writeSpecial_only (c : Core) (r : ℕ) (x : TW) : Keep CoreReg.Same [.mlo, .mhi, .quo, .rem, .flg, .vff, .dsp] c (writeSpecial c r x) := by
  unfold writeSpecial
  try dsimp -proj only
  split
  · refine Core.set_mlo (by decide +kernel) ?_
    exact CoreReg.refl _ _
  · refine Core.set_mhi (by decide +kernel) ?_
    exact CoreReg.refl _ _
  · refine Core.set_quo (by decide +kernel) ?_
    exact CoreReg.refl _ _
  · refine Core.set_rem (by decide +kernel) ?_
    exact CoreReg.refl _ _
  · refine Core.set_flg (by decide +kernel) ?_
    exact CoreReg.refl _ _
  · refine Core.set_vff (by decide +kernel) ?_
    exact CoreReg.refl _ _
  · refine Core.set_dsp (by decide +kernel) ?_
    exact CoreReg.refl _ _

theorem execBxAsbytes_only (core : ℕ) (f : BxFields) (s : State) : Only (Part.runCore) s (after s (execBxAsbytes core f s)) := by
  unfold execBxAsbytes
  dsimp -proj only [after]
  refine Only.then (runCore_only ..) (by decide +kernel) ?_
  exact Only.refl _ _

theorem execBxMulu_only (core : ℕ) (f : BxFields) (s : State) : Only (Part.runCore) s (after s (execBxMulu core f s)) := by
  unfold execBxMulu
  dsimp -proj only [after]
  refine Only.then (runCore_only ..) (by decide +kernel) ?_
  exact Only.refl _ _

theorem runPart_only {k : List Part} {s : State} {n op : ℕ} {f : BxFields} {g : State → Core → Except Trap State}
    (hk : within [.sys .wakeDriven, .port .linkState, .fn .pmeStatus, .fn .vecs, .pad .extendLost, .core .state, .core .w, .core .dsp, .core .pc, .core .mem, .core .trapActive, .core .double, .core .lastCode, .core .traps, .core .waiting, .core .loading, .out] k = true) (hg : ∀ t c, OkOnly k t (g t c)) : Only k s (runPart s n op f g) := by
  refine withFetch_only hk fun len => ?_
  split
  · exact Only.then (enterTrap_only ..) hk (Only.refl _ _)
  · rename_i h
    have hp : Part.core .pc ∈ k := within_mem hk (by decide +kernel)
    exact modCore_in (Core.set_pc (by simpa [Part.core?] using ⟨_, hp, rfl⟩) (CoreReg.refl _ _)) ((hg _ _).get h)

theorem writeRd_only (s : State) (n : ℕ) (r : ℕ) (x : TW) : Only [.core .w] s (writeRd s n r x) := by
  unfold writeRd
  try dsimp -proj only
  refine modCore_in ?_ ?_
  · refine CoreReg.then (setReg_only ..) (by decide +kernel) ?_
    exact CoreReg.refl _ _
  · exact Only.refl _ _

theorem execBxRand_only (core : ℕ) (f : BxFields) (s : State) : Only (Part.request ++ ([.sys .wakeDriven, .port .linkState, .fn .pmeStatus, .fn .vecs, .pad .extendLost, .core .state, .core .w, .core .dsp, .core .pc, .core .mem, .core .trapActive, .core .double, .core .lastCode, .core .traps, .core .waiting, .core .loading, .out] : List Part)) s (after s (execBxRand core f s)) := by
  unfold execBxRand
  dsimp -proj only [after]
  refine runPart_only (by decide +kernel) ?_
  intro _ _
  split
  · split
    · refine OkOnly.ok ?_
      refine Only.then (writeRd_only ..) (by decide +kernel) ?_
      refine Only.then (afterRequest_only ..) (by decide +kernel) ?_
      refine Only.then (dueReseed_only ..) (by decide +kernel) ?_
      exact Only.refl _ _
    · refine OkOnly.ok ?_
      refine Only.then (writeRd_only ..) (by decide +kernel) ?_
      refine Only.then (dueReseed_only ..) (by decide +kernel) ?_
      exact Only.refl _ _
  · split
    · refine OkOnly.ok ?_
      refine Only.then (writeRd_only ..) (by decide +kernel) ?_
      refine Only.then (afterRequest_only ..) (by decide +kernel) ?_
      exact Only.refl _ _
    · refine OkOnly.ok ?_
      refine Only.then (writeRd_only ..) (by decide +kernel) ?_
      exact Only.refl _ _

theorem execBxPopc_only (core : ℕ) (f : BxFields) (s : State) : Only (Part.runCore) s (after s (execBxPopc core f s)) := by
  unfold execBxPopc
  dsimp -proj only [after]
  refine Only.then (runCore_only ..) (by decide +kernel) ?_
  exact Only.refl _ _

theorem execBxJr_only (core : ℕ) (f : BxFields) (s : State) : Only (Part.runCore) s (after s (execBxJr core f s)) := by
  unfold execBxJr
  dsimp -proj only [after]
  refine Only.then (runCore_only ..) (by decide +kernel) ?_
  exact Only.refl _ _

theorem execBxMfs_only (core : ℕ) (f : BxFields) (s : State) : Only (Part.runCore) s (after s (execBxMfs core f s)) := by
  unfold execBxMfs
  dsimp -proj only [after]
  refine Only.then (runCore_only ..) (by decide +kernel) ?_
  exact Only.refl _ _

theorem execBxFdrop_only (core : ℕ) (f : BxFields) (s : State) : Only [.sys .wakeDriven, .port .linkState, .fn .pmeStatus, .fn .vecs, .pad .extendLost, .core .state, .core .w, .core .dsp, .core .pc, .core .mem, .core .trapActive, .core .double, .core .lastCode, .core .traps, .core .waiting, .core .loading, .feeds, .out] s (after s (execBxFdrop core f s)) := by
  unfold execBxFdrop
  dsimp -proj only [after]
  refine runPart_only (by decide +kernel) ?_
  intro _ _
  refine OkOnly.bind fun a => ?_
  refine OkOnly.ok ?_
  split
  · refine Only.then (modFeed_only ..) (by decide +kernel) ?_
    exact Only.refl _ _
  · exact Only.refl _ _

theorem execBxAnd_only (core : ℕ) (f : BxFields) (s : State) : Only (Part.runCore) s (after s (execBxAnd core f s)) := by
  unfold execBxAnd
  dsimp -proj only [after]
  refine Only.then (runCore_only ..) (by decide +kernel) ?_
  exact Only.refl _ _

theorem beginLoad_only (s : State) (n : ℕ) (source : ℕ) (sender : ℕ) (image : Bytes) (fromBoot : Bool) : Only [.core .state, .core .mem, .core .rstack, .core .spill, .core .windows, .core .cmdErr, .core .loading] s (beginLoad s n source sender image fromBoot) := by
  unfold beginLoad
  try dsimp -proj only
  refine modCore_in ?_ ?_
  · refine Core.set_state_cmdErr_loading (by decide +kernel) ?_
    exact CoreReg.refl _ _
  · refine Only.then (wipeCore_only ..) (by decide +kernel) ?_
    exact Only.refl _ _

theorem execBxBhs_only (core : ℕ) (f : BxFields) (s : State) : Only (Part.runCore) s (after s (execBxBhs core f s)) := by
  unfold execBxBhs
  dsimp -proj only [after]
  refine Only.then (runCore_only ..) (by decide +kernel) ?_
  exact Only.refl _ _

theorem execBxAndn_only (core : ℕ) (f : BxFields) (s : State) : Only (Part.runCore) s (after s (execBxAndn core f s)) := by
  unfold execBxAndn
  dsimp -proj only [after]
  refine Only.then (runCore_only ..) (by decide +kernel) ?_
  exact Only.refl _ _

theorem execBxStop_only (core : ℕ) (f : BxFields) (s : State) : Only [.sys .wakeDriven, .port .linkState, .fn .pmeStatus, .fn .vecs, .pad .extendLost, .core .state, .core .w, .core .dsp, .core .pc, .core .mem, .core .trapActive, .core .double, .core .lastCode, .core .traps, .core .waiting, .core .loading, .out] s (after s (execBxStop core f s)) := by
  unfold execBxStop
  dsimp -proj only [after]
  refine runPart_only (by decide +kernel) ?_
  intro _ _
  refine OkOnly.ok ?_
  refine Only.then (stopCore_only ..) (by decide +kernel) ?_
  exact Only.refl _ _

theorem execBxCstop_only (core : ℕ) (f : BxFields) (s : State) : Only [.sys .wakeDriven, .port .linkState, .fn .pmeStatus, .fn .vecs, .pad .extendLost, .core .state, .core .w, .core .dsp, .core .pc, .core .mem, .core .trapActive, .core .double, .core .lastCode, .core .traps, .core .cmdErr, .core .waiting, .core .loading, .out] s (after s (execBxCstop core f s)) := by
  unfold execBxCstop
  dsimp -proj only [after]
  refine runPart_only (by decide +kernel) ?_
  intro _ _
  refine OkOnly.bind fun a => ?_
  refine OkOnly.ok ?_
  split
  · refine Only.then (stopCore_only ..) (by decide +kernel) ?_
    refine modCore_in ?_ ?_
    · refine Core.set_cmdErr (by decide +kernel) ?_
      exact CoreReg.refl _ _
    · exact Only.refl _ _
  · exact Only.refl _ _

theorem execBxBlo_only (core : ℕ) (f : BxFields) (s : State) : Only (Part.runCore) s (after s (execBxBlo core f s)) := by
  unfold execBxBlo
  dsimp -proj only [after]
  refine Only.then (runCore_only ..) (by decide +kernel) ?_
  exact Only.refl _ _

theorem execBxPop_only (core : ℕ) (f : BxFields) (s : State) : Only (Part.runCore) s (after s (execBxPop core f s)) := by
  unfold execBxPop
  dsimp -proj only [after]
  refine Only.then (runCore_only ..) (by decide +kernel) ?_
  exact Only.refl _ _

theorem execBxBne_only (core : ℕ) (f : BxFields) (s : State) : Only (Part.runCore) s (after s (execBxBne core f s)) := by
  unfold execBxBne
  dsimp -proj only [after]
  refine Only.then (runCore_only ..) (by decide +kernel) ?_
  exact Only.refl _ _

theorem landDiv_only (c : Core) : Keep CoreReg.Same [.quo, .rem, .div] c (landDiv c) := by
  unfold landDiv
  try dsimp -proj only
  split
  · refine Core.set_quo_rem_div (by decide +kernel) ?_
    exact CoreReg.refl _ _
  · exact CoreReg.refl _ _

theorem execBxAdd_only (core : ℕ) (f : BxFields) (s : State) : Only (Part.runCore) s (after s (execBxAdd core f s)) := by
  unfold execBxAdd
  dsimp -proj only [after]
  refine Only.then (runCore_only ..) (by decide +kernel) ?_
  exact Only.refl _ _

theorem execBxClass_only (core : ℕ) (f : BxFields) (s : State) : Only (Part.runCore) s (after s (execBxClass core f s)) := by
  unfold execBxClass
  dsimp -proj only [after]
  refine Only.then (runCore_only ..) (by decide +kernel) ?_
  exact Only.refl _ _

theorem natRd_only (s : State) (n : ℕ) (f : BxFields) (v : ℕ) : Only [.core .w] s (natRd s n f v) := by
  unfold natRd
  try dsimp -proj only
  refine Only.then (writeRd_only ..) (by decide +kernel) ?_
  exact Only.refl _ _

theorem execBxJstat_only (core : ℕ) (f : BxFields) (s : State) : Only [.sys .wakeDriven, .port .linkState, .fn .pmeStatus, .fn .vecs, .pad .extendLost, .core .state, .core .w, .core .dsp, .core .pc, .core .mem, .core .trapActive, .core .double, .core .lastCode, .core .traps, .core .waiting, .core .loading, .out] s (after s (execBxJstat core f s)) := by
  unfold execBxJstat
  dsimp -proj only [after]
  refine runPart_only (by decide +kernel) ?_
  intro _ _
  refine OkOnly.bind fun a => ?_
  refine OkOnly.ok ?_
  refine Only.then (natRd_only ..) (by decide +kernel) ?_
  exact Only.refl _ _

theorem execBxB_only (core : ℕ) (f : BxFields) (s : State) : Only (Part.runCore) s (after s (execBxB core f s)) := by
  unfold execBxB
  dsimp -proj only [after]
  refine Only.then (runCore_only ..) (by decide +kernel) ?_
  exact Only.refl _ _

theorem execBxMov_only (core : ℕ) (f : BxFields) (s : State) : Only (Part.runCore) s (after s (execBxMov core f s)) := by
  unfold execBxMov
  dsimp -proj only [after]
  refine Only.then (runCore_only ..) (by decide +kernel) ?_
  exact Only.refl _ _

theorem execBxNop_only (core : ℕ) (f : BxFields) (s : State) : Only (Part.runCore) s (after s (execBxNop core f s)) := by
  unfold execBxNop
  dsimp -proj only [after]
  refine Only.then (runCore_only ..) (by decide +kernel) ?_
  exact Only.refl _ _

theorem execBxTrap_only (core : ℕ) (f : BxFields) (s : State) : Only (Part.runCore) s (after s (execBxTrap core f s)) := by
  unfold execBxTrap
  dsimp -proj only [after]
  refine Only.then (runCore_only ..) (by decide +kernel) ?_
  exact Only.refl _ _

theorem execBxFence_only (core : ℕ) (f : BxFields) (s : State) : Only (Part.runCore) s (after s (execBxFence core f s)) := by
  unfold execBxFence
  dsimp -proj only [after]
  refine Only.then (runCore_only ..) (by decide +kernel) ?_
  exact Only.refl _ _

theorem execBxSub_only (core : ℕ) (f : BxFields) (s : State) : Only (Part.runCore) s (after s (execBxSub core f s)) := by
  unfold execBxSub
  dsimp -proj only [after]
  refine Only.then (runCore_only ..) (by decide +kernel) ?_
  exact Only.refl _ _

theorem execBxNeg_only (core : ℕ) (f : BxFields) (s : State) : Only (Part.runCore) s (after s (execBxNeg core f s)) := by
  unfold execBxNeg
  dsimp -proj only [after]
  refine Only.then (runCore_only ..) (by decide +kernel) ?_
  exact Only.refl _ _

theorem execBxOr_only (core : ℕ) (f : BxFields) (s : State) : Only (Part.runCore) s (after s (execBxOr core f s)) := by
  unfold execBxOr
  dsimp -proj only [after]
  refine Only.then (runCore_only ..) (by decide +kernel) ?_
  exact Only.refl _ _

theorem execBxXor_only (core : ℕ) (f : BxFields) (s : State) : Only (Part.runCore) s (after s (execBxXor core f s)) := by
  unfold execBxXor
  dsimp -proj only [after]
  refine Only.then (runCore_only ..) (by decide +kernel) ?_
  exact Only.refl _ _

theorem execBxNot_only (core : ℕ) (f : BxFields) (s : State) : Only (Part.runCore) s (after s (execBxNot core f s)) := by
  unfold execBxNot
  dsimp -proj only [after]
  refine Only.then (runCore_only ..) (by decide +kernel) ?_
  exact Only.refl _ _

theorem execBxShl_only (core : ℕ) (f : BxFields) (s : State) : Only (Part.runCore) s (after s (execBxShl core f s)) := by
  unfold execBxShl
  dsimp -proj only [after]
  refine Only.then (runCore_only ..) (by decide +kernel) ?_
  exact Only.refl _ _

theorem execBxSar_only (core : ℕ) (f : BxFields) (s : State) : Only (Part.runCore) s (after s (execBxSar core f s)) := by
  unfold execBxSar
  dsimp -proj only [after]
  refine Only.then (runCore_only ..) (by decide +kernel) ?_
  exact Only.refl _ _

theorem execBxRol_only (core : ℕ) (f : BxFields) (s : State) : Only (Part.runCore) s (after s (execBxRol core f s)) := by
  unfold execBxRol
  dsimp -proj only [after]
  refine Only.then (runCore_only ..) (by decide +kernel) ?_
  exact Only.refl _ _

theorem execBxClz_only (core : ℕ) (f : BxFields) (s : State) : Only (Part.runCore) s (after s (execBxClz core f s)) := by
  unfold execBxClz
  dsimp -proj only [after]
  refine Only.then (runCore_only ..) (by decide +kernel) ?_
  exact Only.refl _ _

theorem execBxCtz_only (core : ℕ) (f : BxFields) (s : State) : Only (Part.runCore) s (after s (execBxCtz core f s)) := by
  unfold execBxCtz
  dsimp -proj only [after]
  refine Only.then (runCore_only ..) (by decide +kernel) ?_
  exact Only.refl _ _

theorem execBxCmp_only (core : ℕ) (f : BxFields) (s : State) : Only (Part.runCore) s (after s (execBxCmp core f s)) := by
  unfold execBxCmp
  dsimp -proj only [after]
  refine Only.then (runCore_only ..) (by decide +kernel) ?_
  exact Only.refl _ _

theorem execBxCteq_only (core : ℕ) (f : BxFields) (s : State) : Only (Part.runCore) s (after s (execBxCteq core f s)) := by
  unfold execBxCteq
  dsimp -proj only [after]
  refine Only.then (runCore_only ..) (by decide +kernel) ?_
  exact Only.refl _ _

theorem execBxCtlt_only (core : ℕ) (f : BxFields) (s : State) : Only (Part.runCore) s (after s (execBxCtlt core f s)) := by
  unfold execBxCtlt
  dsimp -proj only [after]
  refine Only.then (runCore_only ..) (by decide +kernel) ?_
  exact Only.refl _ _

theorem execBxCsel_only (core : ℕ) (f : BxFields) (s : State) : Only (Part.runCore) s (after s (execBxCsel core f s)) := by
  unfold execBxCsel
  dsimp -proj only [after]
  refine Only.then (runCore_only ..) (by decide +kernel) ?_
  exact Only.refl _ _

theorem execBxLd4_only (core : ℕ) (f : BxFields) (s : State) : Only (Part.runCore) s (after s (execBxLd4 core f s)) := by
  unfold execBxLd4
  dsimp -proj only [after]
  refine Only.then (runCore_only ..) (by decide +kernel) ?_
  exact Only.refl _ _

theorem execBxLd4s_only (core : ℕ) (f : BxFields) (s : State) : Only (Part.runCore) s (after s (execBxLd4s core f s)) := by
  unfold execBxLd4s
  dsimp -proj only [after]
  refine Only.then (runCore_only ..) (by decide +kernel) ?_
  exact Only.refl _ _

theorem execBxLd2_only (core : ℕ) (f : BxFields) (s : State) : Only (Part.runCore) s (after s (execBxLd2 core f s)) := by
  unfold execBxLd2
  dsimp -proj only [after]
  refine Only.then (runCore_only ..) (by decide +kernel) ?_
  exact Only.refl _ _

theorem execBxLd2s_only (core : ℕ) (f : BxFields) (s : State) : Only (Part.runCore) s (after s (execBxLd2s core f s)) := by
  unfold execBxLd2s
  dsimp -proj only [after]
  refine Only.then (runCore_only ..) (by decide +kernel) ?_
  exact Only.refl _ _

theorem execBxLd1_only (core : ℕ) (f : BxFields) (s : State) : Only (Part.runCore) s (after s (execBxLd1 core f s)) := by
  unfold execBxLd1
  dsimp -proj only [after]
  refine Only.then (runCore_only ..) (by decide +kernel) ?_
  exact Only.refl _ _

theorem execBxLd1s_only (core : ℕ) (f : BxFields) (s : State) : Only (Part.runCore) s (after s (execBxLd1s core f s)) := by
  unfold execBxLd1s
  dsimp -proj only [after]
  refine Only.then (runCore_only ..) (by decide +kernel) ?_
  exact Only.refl _ _

theorem execBxLea_only (core : ℕ) (f : BxFields) (s : State) : Only (Part.runCore) s (after s (execBxLea core f s)) := by
  unfold execBxLea
  dsimp -proj only [after]
  refine Only.then (runCore_only ..) (by decide +kernel) ?_
  exact Only.refl _ _

theorem execBxSt8_only (core : ℕ) (f : BxFields) (s : State) : Only (Part.runCore) s (after s (execBxSt8 core f s)) := by
  unfold execBxSt8
  dsimp -proj only [after]
  refine Only.then (runCore_only ..) (by decide +kernel) ?_
  exact Only.refl _ _

theorem execBxSt4_only (core : ℕ) (f : BxFields) (s : State) : Only (Part.runCore) s (after s (execBxSt4 core f s)) := by
  unfold execBxSt4
  dsimp -proj only [after]
  refine Only.then (runCore_only ..) (by decide +kernel) ?_
  exact Only.refl _ _

theorem execBxSt2_only (core : ℕ) (f : BxFields) (s : State) : Only (Part.runCore) s (after s (execBxSt2 core f s)) := by
  unfold execBxSt2
  dsimp -proj only [after]
  refine Only.then (runCore_only ..) (by decide +kernel) ?_
  exact Only.refl _ _

theorem execBxSt1_only (core : ℕ) (f : BxFields) (s : State) : Only (Part.runCore) s (after s (execBxSt1 core f s)) := by
  unfold execBxSt1
  dsimp -proj only [after]
  refine Only.then (runCore_only ..) (by decide +kernel) ?_
  exact Only.refl _ _

theorem execBxPush_only (core : ℕ) (f : BxFields) (s : State) : Only (Part.runCore) s (after s (execBxPush core f s)) := by
  unfold execBxPush
  dsimp -proj only [after]
  refine Only.then (runCore_only ..) (by decide +kernel) ?_
  exact Only.refl _ _

theorem execBxDsadj_only (core : ℕ) (f : BxFields) (s : State) : Only (Part.runCore) s (after s (execBxDsadj core f s)) := by
  unfold execBxDsadj
  dsimp -proj only [after]
  refine Only.then (runCore_only ..) (by decide +kernel) ?_
  exact Only.refl _ _

theorem execBxBeq_only (core : ℕ) (f : BxFields) (s : State) : Only (Part.runCore) s (after s (execBxBeq core f s)) := by
  unfold execBxBeq
  dsimp -proj only [after]
  refine Only.then (runCore_only ..) (by decide +kernel) ?_
  exact Only.refl _ _

theorem execBxBlt_only (core : ℕ) (f : BxFields) (s : State) : Only (Part.runCore) s (after s (execBxBlt core f s)) := by
  unfold execBxBlt
  dsimp -proj only [after]
  refine Only.then (runCore_only ..) (by decide +kernel) ?_
  exact Only.refl _ _

theorem execBxBge_only (core : ℕ) (f : BxFields) (s : State) : Only (Part.runCore) s (after s (execBxBge core f s)) := by
  unfold execBxBge
  dsimp -proj only [after]
  refine Only.then (runCore_only ..) (by decide +kernel) ?_
  exact Only.refl _ _

theorem execBxBdz_only (core : ℕ) (f : BxFields) (s : State) : Only (Part.runCore) s (after s (execBxBdz core f s)) := by
  unfold execBxBdz
  dsimp -proj only [after]
  refine Only.then (runCore_only ..) (by decide +kernel) ?_
  exact Only.refl _ _

theorem execBxCall_only (core : ℕ) (f : BxFields) (s : State) : Only (Part.runCore) s (after s (execBxCall core f s)) := by
  unfold execBxCall
  dsimp -proj only [after]
  refine Only.then (runCore_only ..) (by decide +kernel) ?_
  exact Only.refl _ _

theorem execBxCallr_only (core : ℕ) (f : BxFields) (s : State) : Only (Part.runCore) s (after s (execBxCallr core f s)) := by
  unfold execBxCallr
  dsimp -proj only [after]
  refine Only.then (runCore_only ..) (by decide +kernel) ?_
  exact Only.refl _ _

theorem execBxRet_only (core : ℕ) (f : BxFields) (s : State) : Only (Part.runCore) s (after s (execBxRet core f s)) := by
  unfold execBxRet
  dsimp -proj only [after]
  refine Only.then (runCore_only ..) (by decide +kernel) ?_
  exact Only.refl _ _

theorem execBxLeac_only (core : ℕ) (f : BxFields) (s : State) : Only (Part.runCore) s (after s (execBxLeac core f s)) := by
  unfold execBxLeac
  dsimp -proj only [after]
  refine Only.then (runCore_only ..) (by decide +kernel) ?_
  exact Only.refl _ _

theorem execBxLi_only (core : ℕ) (f : BxFields) (s : State) : Only (Part.runCore) s (after s (execBxLi core f s)) := by
  unfold execBxLi
  dsimp -proj only [after]
  refine Only.then (runCore_only ..) (by decide +kernel) ?_
  exact Only.refl _ _

theorem execBxLin_only (core : ℕ) (f : BxFields) (s : State) : Only (Part.runCore) s (after s (execBxLin core f s)) := by
  unfold execBxLin
  dsimp -proj only [after]
  refine Only.then (runCore_only ..) (by decide +kernel) ?_
  exact Only.refl _ _

theorem execBxLib_only (core : ℕ) (f : BxFields) (s : State) : Only (Part.runCore) s (after s (execBxLib core f s)) := by
  unfold execBxLib
  dsimp -proj only [after]
  refine Only.then (runCore_only ..) (by decide +kernel) ?_
  exact Only.refl _ _

theorem execBxMts_only (core : ℕ) (f : BxFields) (s : State) : Only (Part.runCore) s (after s (execBxMts core f s)) := by
  unfold execBxMts
  dsimp -proj only [after]
  refine Only.then (runCore_only ..) (by decide +kernel) ?_
  exact Only.refl _ _

theorem execBxMul_only (core : ℕ) (f : BxFields) (s : State) : Only (Part.runCore) s (after s (execBxMul core f s)) := by
  unfold execBxMul
  dsimp -proj only [after]
  refine Only.then (runCore_only ..) (by decide +kernel) ?_
  exact Only.refl _ _

theorem execBxDiv_only (core : ℕ) (f : BxFields) (s : State) : Only (Part.runCore) s (after s (execBxDiv core f s)) := by
  unfold execBxDiv
  dsimp -proj only [after]
  refine Only.then (runCore_only ..) (by decide +kernel) ?_
  exact Only.refl _ _

theorem execBxDivu_only (core : ℕ) (f : BxFields) (s : State) : Only (Part.runCore) s (after s (execBxDivu core f s)) := by
  unfold execBxDivu
  dsimp -proj only [after]
  refine Only.then (runCore_only ..) (by decide +kernel) ?_
  exact Only.refl _ _

theorem execBxTagof_only (core : ℕ) (f : BxFields) (s : State) : Only (Part.runCore) s (after s (execBxTagof core f s)) := by
  unfold execBxTagof
  dsimp -proj only [after]
  refine Only.then (runCore_only ..) (by decide +kernel) ?_
  exact Only.refl _ _

theorem execBxAsint_only (core : ℕ) (f : BxFields) (s : State) : Only (Part.runCore) s (after s (execBxAsint core f s)) := by
  unfold execBxAsint
  dsimp -proj only [after]
  refine Only.then (runCore_only ..) (by decide +kernel) ?_
  exact Only.refl _ _

theorem execBxAsnat_only (core : ℕ) (f : BxFields) (s : State) : Only (Part.runCore) s (after s (execBxAsnat core f s)) := by
  unfold execBxAsnat
  dsimp -proj only [after]
  refine Only.then (runCore_only ..) (by decide +kernel) ?_
  exact Only.refl _ _

theorem execBxMkhandle_only (core : ℕ) (f : BxFields) (s : State) : Only (Part.runCore) s (after s (execBxMkhandle core f s)) := by
  unfold execBxMkhandle
  dsimp -proj only [after]
  refine Only.then (runCore_only ..) (by decide +kernel) ?_
  exact Only.refl _ _

theorem execBxDeclass_only (core : ℕ) (f : BxFields) (s : State) : Only [.sys .wakeDriven, .port .linkState, .fn .pmeStatus, .fn .vecs, .pad .extendLost, .core .state, .core .w, .core .dsp, .core .pc, .core .mem, .core .trapActive, .core .double, .core .lastCode, .core .traps, .core .declass, .core .waiting, .core .loading, .out] s (after s (execBxDeclass core f s)) := by
  unfold execBxDeclass
  dsimp -proj only [after]
  refine runPart_only (by decide +kernel) ?_
  intro _ _
  refine OkOnly.bind fun a => ?_
  refine OkOnly.bind fun a => ?_
  refine OkOnly.bind fun a => ?_
  refine OkOnly.bind fun a => ?_
  split
  · exact OkOnly.error ..
  · split
    · refine OkOnly.ok ?_
      refine modCore_in ?_ ?_
      · refine Core.set_declass (by decide +kernel) ?_
        refine CoreReg.then (setReg_only ..) (by decide +kernel) ?_
        exact CoreReg.refl _ _
      · exact Only.refl _ _
    · exact OkOnly.error ..

theorem execBxPoison_only (core : ℕ) (f : BxFields) (s : State) : Only (Part.runCore) s (after s (execBxPoison core f s)) := by
  unfold execBxPoison
  dsimp -proj only [after]
  refine Only.then (runCore_only ..) (by decide +kernel) ?_
  exact Only.refl _ _

theorem execBxRdtime_only (core : ℕ) (f : BxFields) (s : State) : Only (Part.runCore) s (after s (execBxRdtime core f s)) := by
  unfold execBxRdtime
  dsimp -proj only [after]
  refine Only.then (runCore_only ..) (by decide +kernel) ?_
  exact Only.refl _ _

theorem openRing_only (s : State) (q : ℕ) (k : ℕ) (index : ℕ) (crc : Bool) : Only [.sys .timeJournal, .port .linkState, .port .ltrUs, .port .ltrLive, .port .ltrQueue, .queue .state, .queue .remembered, .queue .base, .queue .k, .queue .vector, .queue .wake, .queue .crcReq, .queue .irqEn, .queue .shadowEn, .queue .shadowAddr, .queue .fn, .queue .bx, .queue .p, .queue .a, .queue .t, .queue .gen, .queue .errReason, .queue .errDetail, .queue .errIndex, .queue .defer, .queue .deferOrder, .queue .headDeferred, .queue .recheck, .queue .copies, .queue .heldBell, .queue .shadowOwed, .queue .pend, .queue .fetchFailed, .queue .fetchTried, .queue .standby, .queue .recordedP, .queue .forgetting, .queue .ring, .queue .ringCells, .queue .ringSecret, .jn .seq, .yard, .out] s (openRing s q k index crc) := by
  unfold openRing
  try dsimp -proj only
  refine Only.then (fitYard_only ..) (by decide +kernel) ?_
  refine modQ_in ?_ ?_
  · refine Queue.set_bx_ringCells (by decide +kernel) ?_
    exact QueueReg.refl _ _
  · refine Only.then (startQueue_only ..) (by decide +kernel) ?_
    exact Only.refl _ _

theorem execBxQopen_only (core : ℕ) (f : BxFields) (s : State) : Only [.sys .wakeDriven, .sys .timeJournal, .port .linkState, .port .ltrUs, .port .ltrLive, .port .ltrQueue, .fn .pmeStatus, .fn .vecs, .queue .state, .queue .remembered, .queue .base, .queue .k, .queue .vector, .queue .wake, .queue .crcReq, .queue .irqEn, .queue .shadowEn, .queue .shadowAddr, .queue .fn, .queue .bx, .queue .p, .queue .a, .queue .t, .queue .gen, .queue .errReason, .queue .errDetail, .queue .errIndex, .queue .defer, .queue .deferOrder, .queue .headDeferred, .queue .recheck, .queue .copies, .queue .heldBell, .queue .shadowOwed, .queue .pend, .queue .fetchFailed, .queue .fetchTried, .queue .standby, .queue .recordedP, .queue .forgetting, .queue .ring, .queue .ringCells, .queue .ringSecret, .pad .extendLost, .jn .seq, .core .state, .core .w, .core .dsp, .core .pc, .core .mem, .core .trapActive, .core .double, .core .lastCode, .core .traps, .core .waiting, .core .loading, .yard, .out] s (after s (execBxQopen core f s)) := by
  unfold execBxQopen
  dsimp -proj only [after]
  refine runPart_only (by decide +kernel) ?_
  intro _ _
  refine OkOnly.bind fun a => ?_
  refine OkOnly.ok ?_
  refine Only.then (natRd_only ..) (by decide +kernel) ?_
  split
  · refine Only.then (openRing_only ..) (by decide +kernel) ?_
    exact Only.refl _ _
  · exact Only.refl _ _

theorem qclose_only (s : State) (p : ℕ) (q : ℕ) : Only (Part.drainQueue) s (qclose s p q).2 := by
  unfold qclose
  try dsimp -proj only
  split
  · dsimp only
    exact Only.refl _ _
  · split
    · dsimp only
      exact Only.refl _ _
    · dsimp only
      refine Only.then (beginDrain_only ..) (by decide +kernel) ?_
      exact Only.refl _ _

theorem execBxQclose_only (core : ℕ) (f : BxFields) (s : State) : Only (Part.drainQueue ++ ([.sys .wakeDriven, .fn .pmeStatus, .fn .vecs, .pad .extendLost, .core .state, .core .w, .core .dsp, .core .pc, .core .mem, .core .trapActive, .core .double, .core .lastCode, .core .traps, .core .waiting, .core .loading] : List Part)) s (after s (execBxQclose core f s)) := by
  unfold execBxQclose
  dsimp -proj only [after]
  refine runPart_only (by decide +kernel) ?_
  intro _ _
  refine OkOnly.bind fun a => ?_
  refine OkOnly.ok ?_
  refine Only.then (natRd_only ..) (by decide +kernel) ?_
  refine Only.then (qclose_only ..) (by decide +kernel) ?_
  exact Only.refl _ _

theorem openRd_only (s : State) (n : ℕ) (f : BxFields) : Only [.core .w, .freeCtr] s (openRd s n f) := by
  unfold openRd
  try dsimp -proj only
  refine Only.then (natRd_only ..) (by decide +kernel) ?_
  refine Only.then (draw_only ..) (by decide +kernel) ?_
  exact Only.refl _ _

theorem qctl_only (s : State) (p : ℕ) (q : ℕ) (cmd : ℕ) : Only (Part.drainQueue ++ ([.sys .wakeDriven, .en .padEnergy, .fn .pmeStatus, .fn .denied, .fn .vecs, .fn .cmpExpect, .fn .cmpSpoiled, .fn .cmpEq, .fn .cmpNe, .pad .results, .pad .mrs, .pad .haltLog, .pad .haltOverflow, .pad .diags, .core .mem] : List Part)) s (qctl s p q cmd).2 := by
  unfold qctl
  try dsimp -proj only
  split
  · dsimp only
    exact Only.refl _ _
  · split
    · dsimp only
      exact Only.refl _ _
    · split
      · dsimp only
        refine Only.then (continueQueue_only ..) (by decide +kernel) ?_
        exact Only.refl _ _
      · split
        · dsimp only
          refine Only.then (resumeQueue_only ..) (by decide +kernel) ?_
          exact Only.refl _ _
        · split
          · dsimp only
            refine Only.then (forgetQueue_only ..) (by decide +kernel) ?_
            exact Only.refl _ _
          · dsimp only
            exact Only.refl _ _

theorem execBxQctl_only (core : ℕ) (f : BxFields) (s : State) : Only (Part.drainQueue ++ ([.sys .wakeDriven, .en .padEnergy, .fn .pmeStatus, .fn .denied, .fn .vecs, .fn .cmpExpect, .fn .cmpSpoiled, .fn .cmpEq, .fn .cmpNe, .pad .results, .pad .mrs, .pad .haltLog, .pad .haltOverflow, .pad .diags, .pad .extendLost, .core .state, .core .w, .core .dsp, .core .pc, .core .mem, .core .trapActive, .core .double, .core .lastCode, .core .traps, .core .waiting, .core .loading] : List Part)) s (after s (execBxQctl core f s)) := by
  unfold execBxQctl
  dsimp -proj only [after]
  refine runPart_only (by decide +kernel) ?_
  intro _ _
  refine OkOnly.bind fun a => ?_
  split
  · refine OkOnly.ok ?_
    refine Only.then (openRd_only ..) (by decide +kernel) ?_
    exact Only.refl _ _
  · refine OkOnly.ok ?_
    refine Only.then (natRd_only ..) (by decide +kernel) ?_
    refine Only.then (qctl_only ..) (by decide +kernel) ?_
    exact Only.refl _ _

theorem produce_only (s : State) (q : ℕ) (d : Bytes) : Only [.sys .timeJournal, .queue .p, .queue .heldBell, .queue .ring, .queue .ringSecret, .jn .seq] s (produce s q d) := by
  unfold produce
  try dsimp -proj only
  split
  · refine modQ_in ?_ ?_
    · refine Queue.set_heldBell (by decide +kernel) ?_
      exact QueueReg.refl _ _
    · refine modQ_in ?_ ?_
      · refine Queue.set_ring_ringSecret (by decide +kernel) ?_
        exact QueueReg.refl _ _
      · exact Only.refl _ _
  · refine Only.then (journalWrite_only ..) (by decide +kernel) ?_
    refine modQ_in ?_ ?_
    · refine Queue.set_p (by decide +kernel) ?_
      exact QueueReg.refl _ _
    · refine modQ_in ?_ ?_
      · refine Queue.set_ring_ringSecret (by decide +kernel) ?_
        exact QueueReg.refl _ _
      · exact Only.refl _ _

theorem execBxJsub_only (core : ℕ) (f : BxFields) (s : State) : Only [.sys .wakeDriven, .sys .timeJournal, .port .linkState, .fn .pmeStatus, .fn .vecs, .queue .p, .queue .heldBell, .queue .ring, .queue .ringSecret, .pad .extendLost, .jn .seq, .core .state, .core .w, .core .dsp, .core .pc, .core .mem, .core .trapActive, .core .double, .core .lastCode, .core .traps, .core .waiting, .core .loading, .out, .freeCtr] s (after s (execBxJsub core f s)) := by
  unfold execBxJsub
  dsimp -proj only [after]
  refine runPart_only (by decide +kernel) ?_
  intro _ _
  refine OkOnly.bind fun a => ?_
  split
  · exact OkOnly.error ..
  · split
    · exact OkOnly.error ..
    · split
      · exact OkOnly.error ..
      · split
        · refine OkOnly.ok ?_
          refine Only.then (openRd_only ..) (by decide +kernel) ?_
          exact Only.refl _ _
        · split
          · refine OkOnly.ok ?_
            refine Only.then (natRd_only ..) (by decide +kernel) ?_
            exact Only.refl _ _
          · refine OkOnly.ok ?_
            refine Only.then (natRd_only ..) (by decide +kernel) ?_
            refine Only.then (produce_only ..) (by decide +kernel) ?_
            exact Only.refl _ _

theorem execBxJcpl_only (core : ℕ) (f : BxFields) (s : State) : Only (Part.allCore ++ ([.sys .wakeDriven, .port .linkState, .fn .pmeStatus, .fn .vecs, .pad .extendLost, .out] : List Part)) s (after s (execBxJcpl core f s)) := by
  unfold execBxJcpl
  dsimp -proj only [after]
  refine runPart_only (by decide +kernel) ?_
  intro _ _
  refine OkOnly.bind fun a => ?_
  split
  · refine OkOnly.bind fun a => ?_
    refine OkOnly.ok ?_
    refine Only.then (natRd_only ..) (by decide +kernel) ?_
    refine putCore_in ?_ ?_
    · exact CoreReg.of_all (by decide +kernel)
    · exact Only.refl _ _
  · refine OkOnly.ok ?_
    refine Only.then (natRd_only ..) (by decide +kernel) ?_
    exact Only.refl _ _

theorem execBxWait_only (core : ℕ) (f : BxFields) (s : State) : Only [.sys .wakeDriven, .port .linkState, .fn .pmeStatus, .fn .vecs, .pad .extendLost, .core .state, .core .w, .core .dsp, .core .pc, .core .mem, .core .trapActive, .core .double, .core .lastCode, .core .traps, .core .waiting, .core .loading, .out] s (after s (execBxWait core f s)) := by
  unfold execBxWait
  dsimp -proj only [after]
  refine withFetch_only (by decide +kernel) ?_
  intro _
  split
  · refine Only.then (enterTrap_only ..) (by decide +kernel) ?_
    exact Only.refl _ _
  · split
    · refine modCore_in ?_ ?_
      · refine CoreReg.then (endWait_only ..) (by decide +kernel) ?_
        exact CoreReg.refl _ _
      · refine modCore_in ?_ ?_
        · refine Core.set_waiting (by decide +kernel) ?_
          exact CoreReg.refl _ _
        · exact Only.refl _ _
    · refine modCore_in ?_ ?_
      · refine Core.set_waiting (by decide +kernel) ?_
        exact CoreReg.refl _ _
      · exact Only.refl _ _

theorem execWaitEnd_only (core : ℕ) (timeout : Bool) (s : State) : Only [.core .w, .core .pc, .core .waiting] s (after s (execWaitEnd core timeout s)) := by
  unfold execWaitEnd
  dsimp -proj only [after]
  split
  · exact Only.refl _ _
  · split
    · refine modCore_in ?_ ?_
      · refine CoreReg.then (endWait_only ..) (by decide +kernel) ?_
        exact CoreReg.refl _ _
      · exact Only.refl _ _
    · split
      · refine modCore_in ?_ ?_
        · refine CoreReg.then (endWait_only ..) (by decide +kernel) ?_
          exact CoreReg.refl _ _
        · exact Only.refl _ _
      · exact Only.refl _ _

theorem execBxFput_only (core : ℕ) (f : BxFields) (s : State) : Only [.sys .wakeDriven, .port .linkState, .fn .pmeStatus, .fn .vecs, .pad .extendLost, .core .state, .core .w, .core .dsp, .core .pc, .core .mem, .core .trapActive, .core .double, .core .lastCode, .core .traps, .core .waiting, .core .loading, .feeds, .out] s (after s (execBxFput core f s)) := by
  unfold execBxFput
  dsimp -proj only [after]
  refine runPart_only (by decide +kernel) ?_
  intro _ _
  refine OkOnly.bind fun a => ?_
  split
  · refine OkOnly.ok ?_
    refine Only.then (natRd_only ..) (by decide +kernel) ?_
    exact Only.refl _ _
  · refine OkOnly.ok ?_
    refine Only.then (natRd_only ..) (by decide +kernel) ?_
    refine Only.then (modFeed_only ..) (by decide +kernel) ?_
    exact Only.refl _ _

theorem execBxFstat_only (core : ℕ) (f : BxFields) (s : State) : Only [.sys .wakeDriven, .port .linkState, .fn .pmeStatus, .fn .vecs, .pad .extendLost, .core .state, .core .w, .core .dsp, .core .pc, .core .mem, .core .trapActive, .core .double, .core .lastCode, .core .traps, .core .waiting, .core .loading, .out] s (after s (execBxFstat core f s)) := by
  unfold execBxFstat
  dsimp -proj only [after]
  refine runPart_only (by decide +kernel) ?_
  intro _ _
  refine OkOnly.bind fun a => ?_
  refine OkOnly.ok ?_
  refine Only.then (natRd_only ..) (by decide +kernel) ?_
  exact Only.refl _ _

theorem openWindow_only (s : State) (p : ℕ) (n : ℕ) (w : Window) : Only [.core .windows] s (openWindow s p n w).2 := by
  unfold openWindow
  try dsimp -proj only
  split
  · dsimp only
    exact Only.refl _ _
  · split
    · dsimp only
      refine modCore_in ?_ ?_
      · refine Core.set_windows (by decide +kernel) ?_
        exact CoreReg.refl _ _
      · exact Only.refl _ _
    · dsimp only
      exact Only.refl _ _

theorem execBxWopen_only (core : ℕ) (f : BxFields) (s : State) : Only [.sys .wakeDriven, .port .linkState, .fn .pmeStatus, .fn .vecs, .pad .extendLost, .core .state, .core .w, .core .dsp, .core .pc, .core .mem, .core .trapActive, .core .double, .core .lastCode, .core .traps, .core .windows, .core .waiting, .core .loading, .out] s (after s (execBxWopen core f s)) := by
  unfold execBxWopen
  dsimp -proj only [after]
  refine runPart_only (by decide +kernel) ?_
  intro _ _
  refine OkOnly.bind fun a => ?_
  refine OkOnly.bind fun a => ?_
  refine OkOnly.bind fun a => ?_
  refine OkOnly.ok ?_
  refine Only.then (natRd_only ..) (by decide +kernel) ?_
  refine Only.then (openWindow_only ..) (by decide +kernel) ?_
  exact Only.refl _ _

theorem execBxWclose_only (core : ℕ) (f : BxFields) (s : State) : Only [.sys .wakeDriven, .port .linkState, .fn .pmeStatus, .fn .vecs, .pad .extendLost, .core .state, .core .w, .core .dsp, .core .pc, .core .mem, .core .trapActive, .core .double, .core .lastCode, .core .traps, .core .windows, .core .waiting, .core .loading, .out] s (after s (execBxWclose core f s)) := by
  unfold execBxWclose
  dsimp -proj only [after]
  refine runPart_only (by decide +kernel) ?_
  intro _ _
  refine OkOnly.bind fun a => ?_
  refine OkOnly.ok ?_
  refine modCore_in ?_ ?_
  · refine Core.set_windows (by decide +kernel) ?_
    exact CoreReg.refl _ _
  · exact Only.refl _ _

theorem execBxCstart_only (core : ℕ) (f : BxFields) (s : State) : Only [.sys .wakeDriven, .port .linkState, .fn .pmeStatus, .fn .vecs, .pad .extendLost, .core .state, .core .w, .core .dsp, .core .pc, .core .mem, .core .rstack, .core .spill, .core .trapActive, .core .double, .core .lastCode, .core .traps, .core .windows, .core .cmdErr, .core .waiting, .core .loading, .out] s (after s (execBxCstart core f s)) := by
  unfold execBxCstart
  dsimp -proj only [after]
  refine runPart_only (by decide +kernel) ?_
  intro _ _
  refine OkOnly.bind fun a => ?_
  split
  · exact OkOnly.error ..
  · split
    · exact OkOnly.error ..
    · split
      · exact OkOnly.error ..
      · split
        · refine OkOnly.ok ?_
          refine Only.then (natRd_only ..) (by decide +kernel) ?_
          refine Only.then (beginLoad_only ..) (by decide +kernel) ?_
          exact Only.refl _ _
        · split
          · refine OkOnly.ok ?_
            refine Only.then (natRd_only ..) (by decide +kernel) ?_
            refine modCore_in ?_ ?_
            · refine Core.set_cmdErr (by decide +kernel) ?_
              exact CoreReg.refl _ _
            · exact Only.refl _ _
          · refine OkOnly.ok ?_
            refine Only.then (natRd_only ..) (by decide +kernel) ?_
            exact Only.refl _ _

theorem execBxMext_only (core : ℕ) (f : BxFields) (s : State) : Only [.sys .wakeDriven, .port .linkState, .fn .pmeStatus, .fn .vecs, .pad .mrs, .pad .extendLost, .core .state, .core .w, .core .dsp, .core .pc, .core .mem, .core .trapActive, .core .double, .core .lastCode, .core .traps, .core .waiting, .core .loading, .out] s (after s (execBxMext core f s)) := by
  unfold execBxMext
  dsimp -proj only [after]
  refine runPart_only (by decide +kernel) ?_
  intro _ _
  refine OkOnly.bind fun a => ?_
  split
  · exact OkOnly.error ..
  · split
    · exact OkOnly.error ..
    · split
      · exact OkOnly.error ..
      · split
        · refine OkOnly.ok ?_
          refine Only.then (natRd_only ..) (by decide +kernel) ?_
          refine Only.then (extendMr_only ..) (by decide +kernel) ?_
          exact Only.refl _ _
        · refine OkOnly.ok ?_
          refine Only.then (natRd_only ..) (by decide +kernel) ?_
          exact Only.refl _ _

theorem landMul_only (c : Core) : Keep CoreReg.Same [.mlo, .mhi, .mul] c (landMul c) := by
  unfold landMul
  try dsimp -proj only
  split
  · refine Core.set_mlo_mhi_mul (by decide +kernel) ?_
    exact CoreReg.refl _ _
  · exact CoreReg.refl _ _

theorem execUnitResultLand_only (core : ℕ) (divider : Bool) (s : State) : Only [.core .mlo, .core .mhi, .core .quo, .core .rem, .core .mul, .core .div] s (after s (execUnitResultLand core divider s)) := by
  unfold execUnitResultLand
  dsimp -proj only [after]
  refine modCore_in ?_ ?_
  · split
    · refine CoreReg.then (landDiv_only ..) (by decide +kernel) ?_
      exact CoreReg.refl _ _
    · refine CoreReg.then (landMul_only ..) (by decide +kernel) ?_
      exact CoreReg.refl _ _
  · exact Only.refl _ _

theorem landFor_only (c : Core) (r : ℕ) : Keep CoreReg.Same [.mlo, .mhi, .quo, .rem, .mul, .div] c (landFor c r) := by
  unfold landFor
  try dsimp -proj only
  split
  · refine CoreReg.then (landMul_only ..) (by decide +kernel) ?_
    exact CoreReg.refl _ _
  · split
    · refine CoreReg.then (landDiv_only ..) (by decide +kernel) ?_
      exact CoreReg.refl _ _
    · exact CoreReg.refl _ _

end Sys2Proof.Machine
end

