-- ==== Sys2Proof/Laws/OnlyParts.lean ====
section
/-! SUPPORT. OnlyParts.lean: frames: which registers each operation of State may change, of the commands of faults, random source, tamper, digests, hayloft, tack room and cores. -/

set_option Elab.async false

open Sys2Proof

namespace Sys2Proof.Machine

theorem dropFlush_only (s : State) : Only [.jn .held, .hl .flush] s (dropFlush s) := by
  unfold dropFlush
  try dsimp -proj only
  split
  · refine put_jn_hl ?_ ?_ ?_
    · refine Journal.set_held (by decide +kernel) ?_
      exact JnReg.refl _ _
    · refine Hayloft.set_flush (by decide +kernel) ?_
      exact HlReg.refl _ _
    · exact Only.refl _ _
  · exact Only.refl _ _

theorem releaseAlarm_only (s : State) : Only (Part.drainQueue ++ ([.jn .held, .tk .unsealed, .tk .restoring, .tk .hold, .tk .ownerRoot, .tk .jseal, .tk .scrambled, .tp .latched, .tp .response, .tp .resetRequired, .tp .alarm, .hl .flush, .hl .auditLog] : List Part)) s (releaseAlarm s) := by
  unfold releaseAlarm
  try dsimp -proj only
  refine Only.then (rederive_only ..) (by decide +kernel) ?_
  refine Only.then (recheck_only ..) (by decide +kernel) ?_
  split
  · refine Only.then (loseKeyless_only ..) (by decide +kernel) ?_
    refine Only.then (auditAdd_only ..) (by decide +kernel) ?_
    refine put_tk_tp ?_ ?_ ?_
    · refine Tack.set_hold (by decide +kernel) ?_
      exact TkReg.refl _ _
    · refine Tamper.set_latched_response_resetRequired_alarm (by decide +kernel) ?_
      exact TpReg.refl _ _
    · refine Only.then (dropFlush_only ..) (by decide +kernel) ?_
      exact Only.refl _ _
  · refine Only.then (auditAdd_only ..) (by decide +kernel) ?_
    refine put_tk_tp ?_ ?_ ?_
    · refine Tack.set_hold (by decide +kernel) ?_
      exact TkReg.refl _ _
    · refine Tamper.set_latched_response_resetRequired_alarm (by decide +kernel) ?_
      exact TpReg.refl _ _
    · refine Only.then (dropFlush_only ..) (by decide +kernel) ?_
      exact Only.refl _ _

theorem endStartup_only (s : State) (passed : ℕ) (kat : Bool) : Only (Part.settle ++ ([.sys .stage, .sys .bootState, .jn .term, .rng .katOk, .tt .mirror, .tt .mirrorA, .tt .mirrorCaps] : List Part)) s (endStartup s passed kat) := by
  unfold endStartup
  try dsimp -proj only
  split
  · exact Only.refl _ _
  · refine Only.then (settle_only ..) (by decide +kernel) ?_
    split
    · refine Only.then (bootOpen_only ..) (by decide +kernel) ?_
      refine Only.then (runStartup_only ..) (by decide +kernel) ?_
      exact Only.refl _ _
    · refine Only.then (runStartup_only ..) (by decide +kernel) ?_
      exact Only.refl _ _

theorem coreErr_only (s : State) (n : ℕ) (e : ℕ) : Only [.core .cmdErr] s (coreErr s n e) := by
  unfold coreErr
  try dsimp -proj only
  refine modCore_in ?_ ?_
  · refine Core.set_cmdErr (by decide +kernel) ?_
    exact CoreReg.refl _ _
  · exact Only.refl _ _

theorem endLoad_only (s : State) (n : ℕ) (p : ℕ) (o : LoadOp) : Only [.sys .wakeDriven, .port .linkState, .fn .pmeStatus, .fn .vecs, .pad .mrs, .pad .extendLost, .core .state, .core .w, .core .v, .core .mlo, .core .mhi, .core .quo, .core .rem, .core .flg, .core .vff, .core .dsp, .core .pc, .core .mem, .core .mul, .core .div, .core .rstack, .core .spill, .core .codeAt, .core .codeLen, .core .dsLow, .core .dsHigh, .core .spillAt, .core .spillLen, .core .trapVec, .core .trapActive, .core .double, .core .traps, .core .declass, .core .boot, .core .vecUp, .core .vecOn, .core .windows, .core .cmdErr, .core .loads, .core .waiting, .core .loading, .out] s (endLoad s n p o) := by
  unfold endLoad
  try dsimp -proj only
  split
  · refine Only.then (stopCore_only ..) (by decide +kernel) ?_
    refine Only.then (coreErr_only ..) (by decide +kernel) ?_
    exact Only.refl _ _
  · refine modCore_in ?_ ?_
    · refine Core.set_boot (by decide +kernel) ?_
      refine CoreReg.then (startedCore_only ..) (by decide +kernel) ?_
      exact CoreReg.refl _ _
    · split
      · refine modPad_in ?_ ?_
        · refine Pad.set_extendLost (by decide +kernel) ?_
          exact PadReg.refl _ _
        · refine Only.then (extendMr_only ..) (by decide +kernel) ?_
          exact Only.refl _ _
      · refine Only.then (extendMr_only ..) (by decide +kernel) ?_
        exact Only.refl _ _

theorem execCoreLoadDone_only (core : ℕ) (s : State) : Only [.sys .wakeDriven, .port .linkState, .fn .pmeStatus, .fn .vecs, .pad .mrs, .pad .extendLost, .core .state, .core .w, .core .v, .core .mlo, .core .mhi, .core .quo, .core .rem, .core .flg, .core .vff, .core .dsp, .core .pc, .core .mem, .core .mul, .core .div, .core .rstack, .core .spill, .core .codeAt, .core .codeLen, .core .dsLow, .core .dsHigh, .core .spillAt, .core .spillLen, .core .trapVec, .core .trapActive, .core .double, .core .traps, .core .declass, .core .boot, .core .vecUp, .core .vecOn, .core .windows, .core .cmdErr, .core .loads, .core .waiting, .core .loading, .out] s (after s (execCoreLoadDone core s)) := by
  unfold execCoreLoadDone
  dsimp -proj only [after]
  split
  · split
    · refine Only.then (endLoad_only ..) (by decide +kernel) ?_
      exact Only.refl _ _
    · exact Only.refl _ _
  · exact Only.refl _ _

theorem setLive_only (s : State) (source : ℕ) : Only [.tp .live] s (setLive s source) := by
  unfold setLive
  try dsimp -proj only
  split
  · exact Only.refl _ _
  · refine put_tp ?_ ?_
    · refine Tamper.set_live (by decide +kernel) ?_
      exact TpReg.refl _ _
    · exact Only.refl _ _

theorem stopWork_only (s : State) : Only (Part.finishJob ++ ([.sys .wakeDriven, .lc .slots, .lc .busy, .lc .step, .lc .token, .dbg .scope, .dbg .padMask, .port .linkState, .fn .pmeStatus, .fn .vecs, .fn .cmpExpect, .fn .cmpSpoiled, .fn .cmpEq, .fn .cmpNe, .pad .results, .pad .extendLost, .rng .ready, .rng .rawMode, .rng .attempts, .rng .fifo, .core .state, .core .w, .core .pc, .core .waiting, .core .loading, .tt .lanes, .lk .tests, .out] : List Part)) s (stopWork s) := by
  unfold stopWork
  try dsimp -proj only
  refine Only.then (clearAllDigests_only ..) (by decide +kernel) ?_
  refine Only.then (abandonTransition_only ..) (by decide +kernel) ?_
  refine Only.then (endTests_only ..) (by decide +kernel) ?_
  refine Only.then (endSession_only ..) (by decide +kernel) ?_
  refine Only.then (endRaw_only ..) (by decide +kernel) ?_
  refine Only.foldl _ (fun t x => ?_) ?_
  · refine Only.then (stopCore_only ..) (by decide +kernel) ?_
    exact Only.refl _ _
  · refine Only.foldl _ (fun t x => ?_) ?_
    · refine Only.then (loseJob_only ..) (by decide +kernel) ?_
      exact Only.refl _ _
    · exact Only.refl _ _

theorem alarmActs_only (s : State) (resp : ℕ) : Only (Part.drainQueue ++ ([.sys .wakeDriven, .lc .slots, .lc .busy, .lc .step, .lc .token, .dbg .scope, .dbg .padMask, .fn .pmeStatus, .fn .vecs, .fn .cmpExpect, .fn .cmpSpoiled, .fn .cmpEq, .fn .cmpNe, .pad .results, .pad .inc, .pad .extendLost, .tk .unsealed, .tk .restoring, .tk .hold, .tk .lost, .tk .ownerRoot, .rng .ready, .rng .rawMode, .rng .attempts, .rng .fifo, .core .state, .core .w, .core .pc, .core .waiting, .core .loading, .tt .lanes, .lk .tests] : List Part)) s (alarmActs s resp) := by
  unfold alarmActs
  try dsimp -proj only
  split
  · exact Only.refl _ _
  · refine Only.then (retireSilents_only ..) (by decide +kernel) ?_
    refine Only.then (tackAct_only ..) (by decide +kernel) ?_
    refine Only.then (stopWork_only ..) (by decide +kernel) ?_
    exact Only.refl _ _

theorem execTamperTripDeepSleep_only (source : ℕ) (high : Bool) (s : State) : Only (Part.settle ++ ([.sys .deepSleep, .en .shed, .tk .unsealed, .tk .restoring, .tk .hold, .tk .ownerRoot, .tk .jseal, .tk .scrambled, .tp .latched, .tp .response, .tp .sleepScramble, .tp .alarm, .tp .live, .tp .count, .hl .auditLog] : List Part)) s (after s (execTamperTripDeepSleep source high s)) := by
  unfold execTamperTripDeepSleep
  dsimp -proj only [after]
  split
  · refine Only.then (settle_only ..) (by decide +kernel) ?_
    refine Only.then (rederive_only ..) (by decide +kernel) ?_
    refine Only.then (alarmActs_only ..) (by decide +kernel) ?_
    refine put_tp ?_ ?_
    · refine Tamper.set_sleepScramble (by decide +kernel) ?_
      exact TpReg.refl _ _
    · refine Only.then (leaveDeepSleep_only ..) (by decide +kernel) ?_
      refine Only.then (scrambleTack_only ..) (by decide +kernel) ?_
      refine Only.then (setLive_only ..) (by decide +kernel) ?_
      refine Only.then (latchAlarm_only ..) (by decide +kernel) ?_
      exact Only.refl _ _
  · exact Only.refl _ _

theorem tpErr_only (s : State) (e : ℕ) : Only [.tp .cmdErr] s (tpErr s e) := by
  unfold tpErr
  try dsimp -proj only
  refine put_tp ?_ ?_
  · refine Tamper.set_cmdErr (by decide +kernel) ?_
    exact TpReg.refl _ _
  · exact Only.refl _ _

theorem takeClear_only (s : State) : Only (Part.drainQueue ++ ([.dbg .challengeDraw, .jn .held, .tk .unsealed, .tk .restoring, .tk .hold, .tk .ownerRoot, .tk .jseal, .tk .scrambled, .tp .latched, .tp .response, .tp .resetRequired, .tp .cmdErr, .tp .alarm, .hl .flush, .hl .auditLog] : List Part)) s (takeClear s) := by
  unfold takeClear
  try dsimp -proj only
  split
  · refine Only.then (releaseAlarm_only ..) (by decide +kernel) ?_
    refine Only.then (tpErr_only ..) (by decide +kernel) ?_
    refine put_dbg_freeCtr ?_ ?_ ?_
    · refine Debug.set_challengeDraw (by decide +kernel) ?_
      exact DbgReg.refl _ _
    · decide +kernel
    · exact Only.refl _ _
  · refine Only.then (tpErr_only ..) (by decide +kernel) ?_
    refine put_dbg_freeCtr ?_ ?_ ?_
    · refine Debug.set_challengeDraw (by decide +kernel) ?_
      exact DbgReg.refl _ _
    · decide +kernel
    · exact Only.refl _ _

theorem rnErr_only (s : State) (e : ℕ) : Only [.rng .cmdErr] s (rnErr s e) := by
  unfold rnErr
  try dsimp -proj only
  refine put_rng ?_ ?_
  · refine Rng.set_cmdErr (by decide +kernel) ?_
    exact RngReg.refl _ _
  · exact Only.refl _ _

theorem execRngRestart_only (fn : ℕ) (value : W64) (s : State) : Only [.rng .cmdErr, .rng .restarting] s (after s (execRngRestart fn value s)) := by
  unfold execRngRestart
  dsimp -proj only [after]
  split
  · exact Only.refl _ _
  · split
    · refine Only.then (rnErr_only ..) (by decide +kernel) ?_
      exact Only.refl _ _
    · split
      · refine put_rng ?_ ?_
        · refine Rng.set_cmdErr_restarting (by decide +kernel) ?_
          exact RngReg.refl _ _
        · exact Only.refl _ _
      · refine Only.then (rnErr_only ..) (by decide +kernel) ?_
        exact Only.refl _ _

theorem formatTarget_only (s : State) (n : ℕ) : Only [.hl .targets, .hl .blocks, .hl .rebuilding, .hl .cmdErr, .tt .lanes, .lk .tests, .freeCtr] s (formatTarget s n) := by
  unfold formatTarget
  try dsimp -proj only
  refine Only.then (modTarget_only ..) (by decide +kernel) ?_
  refine put_hl ?_ ?_
  · refine Hayloft.set_blocks_rebuilding_cmdErr (by decide +kernel) ?_
    exact HlReg.refl _ _
  · split
    · refine Only.then (endTests_only ..) (by decide +kernel) ?_
      refine Only.then (draw_only ..) (by decide +kernel) ?_
      exact Only.refl _ _
    · refine Only.then (draw_only ..) (by decide +kernel) ?_
      exact Only.refl _ _

theorem blobFails_only (s : State) (b : ℕ) : Only (Part.drainQueue) s (blobFails s b) := by
  unfold blobFails
  try dsimp -proj only
  refine Only.then (unloadBlob_only ..) (by decide +kernel) ?_
  refine Only.then (retireSilents_only ..) (by decide +kernel) ?_
  refine Only.foldl _ (fun t x => ?_) ?_
  · refine Only.then (loseJob_only ..) (by decide +kernel) ?_
    exact Only.refl _ _
  · exact Only.refl _ _

theorem awaitWrite_only (s : State) (j : Job) : Only [.en .shed, .hl .objs, .jobs, .yard] s (awaitWrite s j) := by
  unfold awaitWrite
  try dsimp -proj only
  split
  · exact Only.refl _ _
  · refine Only.then (startWrite_only ..) (by decide +kernel) ?_
    refine Only.then (modJob_only ..) (by decide +kernel) ?_
    exact Only.refl _ _

theorem execTkRestore_only (s : State) : Only (Part.settle ++ ([.tk .restoring] : List Part)) s (after s (execTkRestore s)) := by
  unfold execTkRestore
  dsimp -proj only [after]
  split
  · refine Only.then (settle_only ..) (by decide +kernel) ?_
    refine Only.then (retireSilents_only ..) (by decide +kernel) ?_
    refine Only.foldl _ (fun t x => ?_) ?_
    · refine Only.then (loseJob_only ..) (by decide +kernel) ?_
      exact Only.refl _ _
    · refine put_tk ?_ ?_
      · refine Tack.set_restoring (by decide +kernel) ?_
        exact TkReg.refl _ _
      · refine Only.foldl _ (fun t x => ?_) ?_
        · refine Only.then (restoreSlot_only ..) (by decide +kernel) ?_
          exact Only.refl _ _
        · exact Only.refl _ _
  · exact Only.refl _ _

theorem execRemaskPass_only (s : State) : Only (Part.request) s (after s (execRemaskPass s)) := by
  unfold execRemaskPass
  dsimp -proj only [after]
  split
  · refine Only.then (request_only ..) (by decide +kernel) ?_
    exact Only.refl _ _
  · exact Only.refl _ _

theorem modBlock_only (s : State) (k : ℕ) (f : NBlock → NBlock) : Only [.hl .blocks] s (modBlock s k f) := by
  unfold modBlock
  try dsimp -proj only
  refine put_hl ?_ ?_
  · refine Hayloft.set_blocks (by decide +kernel) ?_
    exact HlReg.refl _ _
  · exact Only.refl _ _

theorem fillFresh_only (s : State) (c : ℕ) : Only [.hl .blocks] s (fillFresh s c) := by
  unfold fillFresh
  try dsimp -proj only
  split
  · exact Only.refl _ _
  · refine Only.then (modBlock_only ..) (by decide +kernel) ?_
    exact Only.refl _ _

theorem evalSpace_only (s : State) : Only [.sys .wakeDriven, .port .linkState, .fn .pmeStatus, .fn .vecs, .hl .spaceLow, .out] s (evalSpace s) := by
  unfold evalSpace
  try dsimp -proj only
  split
  · refine Only.then (raisePart_only ..) (by decide +kernel) ?_
    refine put_hl ?_ ?_
    · refine Hayloft.set_spaceLow (by decide +kernel) ?_
      exact HlReg.refl _ _
    · exact Only.refl _ _
  · refine put_hl ?_ ?_
    · refine Hayloft.set_spaceLow (by decide +kernel) ?_
      exact HlReg.refl _ _
    · exact Only.refl _ _

theorem retireBlock_only (s : State) (k : ℕ) : Only [.sys .wakeDriven, .en .recNj, .en .fixedUj, .en .reserveLow, .port .linkState, .fn .pmeStatus, .fn .vecs, .hl .targets, .hl .blocks, .hl .failed0, .hl .failed1, .hl .spaceLow, .out] s (retireBlock s k) := by
  unfold retireBlock
  try dsimp -proj only
  split
  · exact Only.refl _ _
  · refine Only.then (evalSpace_only ..) (by decide +kernel) ?_
    refine Only.then (checkChannel_only ..) (by decide +kernel) ?_
    refine Only.then (modTarget_only ..) (by decide +kernel) ?_
    refine Only.then (modBlock_only ..) (by decide +kernel) ?_
    exact Only.refl _ _

theorem loseObject_only (s : State) (o : ℕ) : Only [.tk .slots, .tk .blobs, .hl .objs, .hl .certs, .hl .images, .cache] s (loseObject s o) := by
  unfold loseObject
  try dsimp -proj only
  split
  · refine Only.then (modCache_only ..) (by decide +kernel) ?_
    refine Only.then (putObj_only ..) (by decide +kernel) ?_
    exact Only.refl _ _
  · split
    · refine Only.then (modSlot_only ..) (by decide +kernel) ?_
      refine Only.then (putObj_only ..) (by decide +kernel) ?_
      exact Only.refl _ _
    · split
      · refine Only.then (modBlob_only ..) (by decide +kernel) ?_
        refine Only.then (putObj_only ..) (by decide +kernel) ?_
        exact Only.refl _ _
      · split
        · refine put_hl ?_ ?_
          · refine Hayloft.set_certs (by decide +kernel) ?_
            exact HlReg.refl _ _
          · refine Only.then (putObj_only ..) (by decide +kernel) ?_
            exact Only.refl _ _
        · split
          · refine put_hl ?_ ?_
            · refine Hayloft.set_images (by decide +kernel) ?_
              exact HlReg.refl _ _
            · refine Only.then (putObj_only ..) (by decide +kernel) ?_
              exact Only.refl _ _
          · refine Only.then (putObj_only ..) (by decide +kernel) ?_
            exact Only.refl _ _

theorem eraseBlock_only (s : State) (k : ℕ) : Only [.hl .targets, .hl .blocks] s (eraseBlock s k) := by
  unfold eraseBlock
  try dsimp -proj only
  refine Only.then (modTarget_only ..) (by decide +kernel) ?_
  refine Only.then (modBlock_only ..) (by decide +kernel) ?_
  exact Only.refl _ _

theorem moveBlock_only (s : State) (k : ℕ) : Only [.hl .targets, .hl .blocks] s (moveBlock s k) := by
  unfold moveBlock
  try dsimp -proj only
  refine Only.then (eraseBlock_only ..) (by decide +kernel) ?_
  refine Only.then (fillFresh_only ..) (by decide +kernel) ?_
  exact Only.refl _ _

theorem readOutcome_only (s : State) (n : ℕ) (b : ℕ) (corrected : ℕ) (bad : Bool) (lost : Option ℕ) : Only (Part.raiseFault ++ ([.hl .blocks, .hl .objs, .hl .certs, .hl .spaceLow] : List Part)) s (readOutcome s n b corrected bad lost) := by
  unfold readOutcome
  try dsimp -proj only
  split
  · split
    · refine Only.then (loseObject_only ..) (by decide +kernel) ?_
      refine Only.then (raiseFault_only ..) (by decide +kernel) ?_
      refine Only.then (fillFresh_only ..) (by decide +kernel) ?_
      refine Only.then (retireBlock_only ..) (by decide +kernel) ?_
      refine Only.then (modBlock_only ..) (by decide +kernel) ?_
      exact Only.refl _ _
    · refine Only.then (raiseFault_only ..) (by decide +kernel) ?_
      refine Only.then (fillFresh_only ..) (by decide +kernel) ?_
      refine Only.then (retireBlock_only ..) (by decide +kernel) ?_
      refine Only.then (modBlock_only ..) (by decide +kernel) ?_
      exact Only.refl _ _
  · split
    · refine Only.then (raiseFault_only ..) (by decide +kernel) ?_
      refine Only.then (moveBlock_only ..) (by decide +kernel) ?_
      refine Only.then (modBlock_only ..) (by decide +kernel) ?_
      exact Only.refl _ _
    · refine Only.then (modBlock_only ..) (by decide +kernel) ?_
      exact Only.refl _ _

theorem execHayloftScrub_only (target : ℕ) (block : ℕ) (corrected : ℕ) (uncorrectable : Bool) (lost : Option ℕ) (s : State) : Only (Part.raiseFault ++ ([.sys .paddockResets, .rng .retired, .hl .blocks, .hl .objs, .hl .certs, .hl .spaceLow] : List Part)) s (after s (execHayloftScrub target block corrected uncorrectable lost s)) := by
  unfold execHayloftScrub
  dsimp -proj only [after]
  split
  · refine Only.then (settle_only ..) (by decide +kernel) ?_
    refine Only.then (readOutcome_only ..) (by decide +kernel) ?_
    exact Only.refl _ _
  · exact Only.refl _ _

theorem formatDone_only (s : State) (n : ℕ) : Only [.hl .targets] s (formatDone s n) := by
  unfold formatDone
  try dsimp -proj only
  split
  · refine Only.then (modTarget_only ..) (by decide +kernel) ?_
    exact Only.refl _ _
  · exact Only.refl _ _

theorem execHayloftRebuild_only (channel : ℕ) (s : State) : Only [.sys .wakeDriven, .en .recNj, .en .fixedUj, .en .reserveLow, .port .linkState, .fn .pmeStatus, .fn .vecs, .hl .targets, .hl .objs, .hl .failed0, .hl .failed1, .hl .rebuilding, .hl .spaceLow, .hl .flushReady, .hl .singleCopy, .out] s (after s (execHayloftRebuild channel s)) := by
  unfold execHayloftRebuild
  dsimp -proj only [after]
  split
  · split
    · exact Only.refl _ _
    · refine Only.then (evalSpace_only ..) (by decide +kernel) ?_
      refine Only.then (checkChannel_only ..) (by decide +kernel) ?_
      refine put_hl ?_ ?_
      · refine Hayloft.set_objs_rebuilding_flushReady_singleCopy (by decide +kernel) ?_
        exact HlReg.refl _ _
      · refine Only.foldl _ (fun t x => ?_) ?_
        · refine Only.then (formatDone_only ..) (by decide +kernel) ?_
          exact Only.refl _ _
        · exact Only.refl _ _
  · split
    · exact Only.refl _ _
    · refine Only.then (evalSpace_only ..) (by decide +kernel) ?_
      refine Only.then (checkChannel_only ..) (by decide +kernel) ?_
      refine put_hl ?_ ?_
      · refine Hayloft.set_objs_rebuilding_flushReady_singleCopy (by decide +kernel) ?_
        exact HlReg.refl _ _
      · refine Only.foldl _ (fun t x => ?_) ?_
        · refine Only.then (formatDone_only ..) (by decide +kernel) ?_
          exact Only.refl _ _
        · exact Only.refl _ _

theorem execDrbgReseed_only (inst : ℕ) (s : State) : Only (Part.request) s (after s (execDrbgReseed inst s)) := by
  unfold execDrbgReseed
  dsimp -proj only [after]
  split
  · split
    · refine Only.then (reseedYm_only ..) (by decide +kernel) ?_
      exact Only.refl _ _
    · exact Only.refl _ _
  · split
    · refine Only.then (reseedPad_only ..) (by decide +kernel) ?_
      exact Only.refl _ _
    · exact Only.refl _ _

theorem blobLoaded_only (s : State) (b : ℕ) (k : ℕ) (key : Bytes) : Only [.tk .slots, .tk .blobs, .jobs] s (blobLoaded s b k key) := by
  unfold blobLoaded
  try dsimp -proj only
  refine put_jobs ?_ ?_
  · decide +kernel
  · refine Only.then (modBlob_only ..) (by decide +kernel) ?_
    refine Only.then (modSlot_only ..) (by decide +kernel) ?_
    exact Only.refl _ _

theorem loadBlob_only (s : State) (read0 : Bool) (read1 : Bool) (b : ℕ) : Only (Part.drainQueue) s (loadBlob s read0 read1 b) := by
  unfold loadBlob
  try dsimp -proj only
  split
  · exact Only.refl _ _
  · split
    · exact Only.refl _ _
    · split
      · refine Only.then (blobFails_only ..) (by decide +kernel) ?_
        exact Only.refl _ _
      · split
        · refine Only.then (blobLoaded_only ..) (by decide +kernel) ?_
          exact Only.refl _ _
        · refine Only.then (blobFails_only ..) (by decide +kernel) ?_
          exact Only.refl _ _

theorem execBlobLoadDone_only (seq : ℕ) (read0 : Bool) (read1 : Bool) (s : State) : Only (Part.settle) s (after s (execBlobLoadDone seq read0 read1 s)) := by
  unfold execBlobLoadDone
  dsimp -proj only [after]
  split
  · exact Only.refl _ _
  · split
    · refine Only.then (settle_only ..) (by decide +kernel) ?_
      refine Only.foldl _ (fun t x => ?_) ?_
      · refine Only.then (loadBlob_only ..) (by decide +kernel) ?_
        exact Only.refl _ _
      · exact Only.refl _ _
    · exact Only.refl _ _

theorem copyStands_only (s : State) (o : ℕ) (c : ℕ) : Only [.tk .slots, .tk .blobs, .cache] s (copyStands s o c) := by
  unfold copyStands
  try dsimp -proj only
  split
  · refine Only.then (modCache_only ..) (by decide +kernel) ?_
    exact Only.refl _ _
  · split
    · refine Only.then (modSlot_only ..) (by decide +kernel) ?_
      exact Only.refl _ _
    · split
      · refine Only.then (modBlob_only ..) (by decide +kernel) ?_
        exact Only.refl _ _
      · exact Only.refl _ _

theorem storeCerts_only (s : State) : Only [.hl .certs, .hl .certsNew] s (storeCerts s) := by
  unfold storeCerts
  try dsimp -proj only
  split
  · refine put_hl ?_ ?_
    · refine Hayloft.set_certs_certsNew (by decide +kernel) ?_
      exact HlReg.refl _ _
    · exact Only.refl _ _
  · exact Only.refl _ _

theorem commitWrite_only (s : State) (o : ℕ) : Only [.en .shed, .hl .objs, .hl .certs, .hl .certsNew, .tt .txSeq, .tt .unacked, .jobs, .yard, .out] s (commitWrite s o) := by
  unfold commitWrite
  try dsimp -proj only
  split
  · refine Only.then (sendObject_only ..) (by decide +kernel) ?_
    refine Only.then (putObj_only ..) (by decide +kernel) ?_
    split
    · refine Only.then (storeCerts_only ..) (by decide +kernel) ?_
      exact Only.refl _ _
    · exact Only.refl _ _
  · split
    · refine Only.then (modJob_only ..) (by decide +kernel) ?_
      refine Only.then (sendObject_only ..) (by decide +kernel) ?_
      refine Only.then (putObj_only ..) (by decide +kernel) ?_
      split
      · refine Only.then (storeCerts_only ..) (by decide +kernel) ?_
        exact Only.refl _ _
      · exact Only.refl _ _
    · refine Only.then (startWrite_only ..) (by decide +kernel) ?_
      refine Only.then (modJob_only ..) (by decide +kernel) ?_
      refine Only.then (sendObject_only ..) (by decide +kernel) ?_
      refine Only.then (putObj_only ..) (by decide +kernel) ?_
      split
      · refine Only.then (storeCerts_only ..) (by decide +kernel) ?_
        exact Only.refl _ _
      · exact Only.refl _ _

theorem execObjectWriteCommit_only (object : ℕ) (channel : ℕ) (s : State) : Only [.en .shed, .tk .slots, .tk .blobs, .hl .objs, .hl .certs, .hl .certsNew, .tt .txSeq, .tt .unacked, .jobs, .yard, .cache, .out] s (after s (execObjectWriteCommit object channel s)) := by
  unfold execObjectWriteCommit
  dsimp -proj only [after]
  split
  · split
    · exact Only.refl _ _
    · split
      · refine Only.then (commitWrite_only ..) (by decide +kernel) ?_
        refine Only.then (copyStands_only ..) (by decide +kernel) ?_
        refine Only.then (putObj_only ..) (by decide +kernel) ?_
        exact Only.refl _ _
      · refine Only.then (copyStands_only ..) (by decide +kernel) ?_
        refine Only.then (putObj_only ..) (by decide +kernel) ?_
        exact Only.refl _ _
  · split
    · exact Only.refl _ _
    · split
      · refine Only.then (commitWrite_only ..) (by decide +kernel) ?_
        refine Only.then (copyStands_only ..) (by decide +kernel) ?_
        refine Only.then (putObj_only ..) (by decide +kernel) ?_
        exact Only.refl _ _
      · refine Only.then (copyStands_only ..) (by decide +kernel) ?_
        refine Only.then (putObj_only ..) (by decide +kernel) ?_
        exact Only.refl _ _

theorem tripNow_only (s : State) (source : ℕ) : Only (Part.drainQueue ++ ([.sys .wakeDriven, .lc .slots, .lc .busy, .lc .step, .lc .token, .dbg .scope, .dbg .padMask, .fn .pmeStatus, .fn .vecs, .fn .cmpExpect, .fn .cmpSpoiled, .fn .cmpEq, .fn .cmpNe, .pad .results, .pad .inc, .pad .extendLost, .tk .unsealed, .tk .restoring, .tk .hold, .tk .lost, .tk .ownerRoot, .rng .ready, .rng .rawMode, .rng .attempts, .rng .fifo, .core .state, .core .w, .core .pc, .core .waiting, .core .loading, .tp .latched, .tp .response, .tp .alarm, .tp .live, .tp .count, .hl .auditLog, .tt .lanes, .lk .tests] : List Part)) s (tripNow s source) := by
  unfold tripNow
  try dsimp -proj only
  refine Only.then (alarmActs_only ..) (by decide +kernel) ?_
  refine Only.then (setLive_only ..) (by decide +kernel) ?_
  refine Only.then (latchAlarm_only ..) (by decide +kernel) ?_
  exact Only.refl _ _

theorem execTamperTrip_only (source : ℕ) (high : Bool) (s : State) : Only (Part.settle ++ ([.tk .unsealed, .tk .restoring, .tk .hold, .tk .ownerRoot, .tp .latched, .tp .response, .tp .alarm, .tp .live, .tp .count, .hl .auditLog] : List Part)) s (after s (execTamperTrip source high s)) := by
  unfold execTamperTrip
  dsimp -proj only [after]
  split
  · refine Only.then (settle_only ..) (by decide +kernel) ?_
    refine Only.then (tripNow_only ..) (by decide +kernel) ?_
    exact Only.refl _ _
  · exact Only.refl _ _

theorem hostLoad_only (s : State) (fn : ℕ) (p : ℕ) (n : ℕ) (source : ℕ) (allowed : Bool) (image : Bytes) : Only [.core .state, .core .mem, .core .rstack, .core .spill, .core .windows, .core .cmdErr, .core .loading, .out] s (hostLoad s fn p n source allowed image) := by
  unfold hostLoad
  try dsimp -proj only
  split
  · refine Only.then (coreErr_only ..) (by decide +kernel) ?_
    exact Only.refl _ _
  · split
    · refine Only.then (coreErr_only ..) (by decide +kernel) ?_
      exact Only.refl _ _
    · refine Only.then (emit_only ..) (by decide +kernel) ?_
      refine Only.then (beginLoad_only ..) (by decide +kernel) ?_
      exact Only.refl _ _

theorem execCoreLoad_only (fn : ℕ) (core : ℕ) (value : W64) (image : Bytes) (s : State) : Only [.core .state, .core .mem, .core .rstack, .core .spill, .core .windows, .core .cmdErr, .core .loading, .out] s (after s (execCoreLoad fn core value image s)) := by
  unfold execCoreLoad
  dsimp -proj only [after]
  split
  · exact Only.refl _ _
  · refine Only.then (hostLoad_only ..) (by decide +kernel) ?_
    exact Only.refl _ _

theorem enterRaw_only (s : State) (sel : ℕ) : Only (Part.allQueue ++ ([.rng .ready, .rng .rawMode, .rng .cmdErr, .rng .rawFrom, .rng .fifo, .rng .sel, .hl .auditLog] : List Part)) s (enterRaw s sel) := by
  unfold enterRaw
  try dsimp -proj only
  refine Only.then (recheck_only ..) (by decide +kernel) ?_
  refine Only.then (auditAdd_only ..) (by decide +kernel) ?_
  refine put_rng ?_ ?_
  · refine Rng.set_ready_rawMode_cmdErr_rawFrom_fifo_sel (by decide +kernel) ?_
    exact RngReg.refl _ _
  · exact Only.refl _ _

theorem execRawExit_only (fn : ℕ) (value : W64) (s : State) : Only (Part.allQueue ++ ([.rng .ready, .rng .rawMode, .rng .cmdErr, .rng .attempts, .rng .fifo] : List Part)) s (after s (execRawExit fn value s)) := by
  unfold execRawExit
  dsimp -proj only [after]
  split
  · exact Only.refl _ _
  · split
    · refine Only.then (recheck_only ..) (by decide +kernel) ?_
      refine Only.then (endRaw_only ..) (by decide +kernel) ?_
      refine Only.then (rnErr_only ..) (by decide +kernel) ?_
      exact Only.refl _ _
    · refine Only.then (rnErr_only ..) (by decide +kernel) ?_
      exact Only.refl _ _

theorem execBucketLeak_only (source : ℕ) (s : State) : Only [.fc .buckets] s (after s (execBucketLeak source s)) := by
  unfold execBucketLeak
  dsimp -proj only [after]
  refine put_fc ?_ ?_
  · refine Faults.set_buckets (by decide +kernel) ?_
    exact FcReg.refl _ _
  · exact Only.refl _ _

theorem execVectorUnitPowerDown_only (core : ℕ) (s : State) : Only [.core .vecUp] s (after s (execVectorUnitPowerDown core s)) := by
  unfold execVectorUnitPowerDown
  dsimp -proj only [after]
  split
  · exact Only.refl _ _
  · refine modCore_in ?_ ?_
    · refine Core.set_vecUp (by decide +kernel) ?_
      exact CoreReg.refl _ _
    · exact Only.refl _ _

theorem cmpFields_only (f : Fn) (v : ℕ) : Keep FnReg.Same [.cmpSlot, .cmpLen] f (cmpFields f v) := by
  unfold cmpFields
  try dsimp -proj only
  refine Fn.set_cmpSlot_cmpLen (by decide +kernel) ?_
  exact FnReg.refl _ _

theorem execDgCmpReset_only (fn : ℕ) (offset : ℕ) (size : ℕ) (value : W64) (s : State) : Only [.fn .cmpExpect, .fn .cmpSlot, .fn .cmpLen, .fn .cmpSpoiled, .fn .cmpEq, .fn .cmpNe] s (after s (execDgCmpReset fn offset size value s)) := by
  unfold execDgCmpReset
  dsimp -proj only [after]
  split
  · exact Only.refl _ _
  · split
    · refine modFn_in ?_ ?_
      · refine Fn.set_cmpExpect (by decide +kernel) ?_
        refine FnReg.then (spoilCompare_only ..) (by decide +kernel) ?_
        exact FnReg.refl _ _
      · exact Only.refl _ _
    · split
      · refine modFn_in ?_ ?_
        · refine FnReg.then (cmpFields_only ..) (by decide +kernel) ?_
          refine FnReg.then (spoilCompare_only ..) (by decide +kernel) ?_
          exact FnReg.refl _ _
        · exact Only.refl _ _
      · exact Only.refl _ _

theorem takeFault_only (s : State) (source : ℕ) (kind : ℕ) (charged : Bool) (pad : ℕ) (detail : ℕ) : Only (Part.reboot ++ ([.yardRetired] : List Part)) s (takeFault s source kind charged pad detail) := by
  unfold takeFault
  try dsimp -proj only
  split
  · refine Only.then (report_only ..) (by decide +kernel) ?_
    exact Only.refl _ _
  · split
    · split
      · refine Only.then (report_only ..) (by decide +kernel) ?_
        exact Only.refl _ _
      · refine Only.then (stopSource_only ..) (by decide +kernel) ?_
        exact Only.refl _ _
    · refine Only.then (loseClock_only ..) (by decide +kernel) ?_
      refine put_sys ?_ ?_
      · refine Sys.set_xtal (by decide +kernel) ?_
        exact SysReg.refl _ _
      · exact Only.refl _ _
    · refine Only.then (raiseFault_only ..) (by decide +kernel) ?_
      refine put_sys_port ?_ ?_ ?_
      · refine Sys.set_refclk (by decide +kernel) ?_
        exact SysReg.refl _ _
      · refine Port.set_linkUp_linkState (by decide +kernel) ?_
        exact PortReg.refl _ _
      · exact Only.refl _ _
    · refine Only.then (loseClock_only ..) (by decide +kernel) ?_
      refine put_sys ?_ ?_
      · refine Sys.set_pllLocked (by decide +kernel) ?_
        exact SysReg.refl _ _
      · exact Only.refl _ _
    · refine Only.then (report_only ..) (by decide +kernel) ?_
      refine put_pl_tt ?_ ?_ ?_
      · refine PlanCtl.set_err (by decide +kernel) ?_
        exact PlReg.refl _ _
      · refine Tether.set_mismatch (by decide +kernel) ?_
        exact TtReg.refl _ _
      · exact Only.refl _ _
    · refine Only.then (report_only ..) (by decide +kernel) ?_
      refine put_tt ?_ ?_
      · refine Tether.set_split (by decide +kernel) ?_
        exact TtReg.refl _ _
      · exact Only.refl _ _
    · split
      · refine Only.foldl _ (fun t x => ?_) ?_
        · refine Only.then (sweepKind_only ..) (by decide +kernel) ?_
          exact Only.refl _ _
        · refine Only.then (failover_only ..) (by decide +kernel) ?_
          exact Only.refl _ _
      · refine Only.then (report_only ..) (by decide +kernel) ?_
        exact Only.refl _ _
    · refine Only.then (raiseFault_only ..) (by decide +kernel) ?_
      exact Only.refl _ _

theorem execFaultReport_only (message : W64) (s : State) : Only (Part.reboot ++ ([.yardRetired] : List Part)) s (after s (execFaultReport message s)) := by
  unfold execFaultReport
  dsimp -proj only [after]
  split
  · refine Only.then (settle_only ..) (by decide +kernel) ?_
    refine Only.then (takeFault_only ..) (by decide +kernel) ?_
    refine Only.then (leaveDeepSleep_only ..) (by decide +kernel) ?_
    exact Only.refl _ _
  · exact Only.refl _ _

theorem modOut_only (s : State) (i : ℕ) (f : OutFault → OutFault) : Only [.fc .out] s (modOut s i f) := by
  unfold modOut
  try dsimp -proj only
  refine put_fc ?_ ?_
  · refine Faults.set_out (by decide +kernel) ?_
    exact FcReg.refl _ _
  · exact Only.refl _ _

theorem execEscalationExpiry_only (source : ℕ) (kind : ℕ) (s : State) : Only (Part.settle ++ ([.fc .heldExpiry] : List Part)) s (after s (execEscalationExpiry source kind s)) := by
  unfold execEscalationExpiry
  dsimp -proj only [after]
  split
  · exact Only.refl _ _
  · split
    · exact Only.refl _ _
    · split
      · refine put_fc ?_ ?_
        · refine Faults.set_heldExpiry (by decide +kernel) ?_
          exact FcReg.refl _ _
        · exact Only.refl _ _
      · refine Only.then (settle_only ..) (by decide +kernel) ?_
        refine Only.then (escalateUnit_only ..) (by decide +kernel) ?_
        refine Only.then (modOut_only ..) (by decide +kernel) ?_
        exact Only.refl _ _

theorem fcCommand_only {k : List Part} {s : State} {n cmd : ℕ} {v : W64} {f : State → ℕ → ℕ → ℕ → ℕ → State}
    (_ : within [] k = true) (hf : ∀ t a b c d, Only k t (f t a b c d)) : Only k s (fcCommand s n v cmd f) := by
  unfold fcCommand
  split
  · exact Only.refl _ _
  · exact hf _ _ _ _ _

theorem fcAnswer_only (s : State) (n : ℕ) (r : ℕ) : Only [.fn .fcResult] s (fcAnswer s n r) := by
  unfold fcAnswer
  try dsimp -proj only
  refine modFn_in ?_ ?_
  · refine Fn.set_fcResult (by decide +kernel) ?_
    exact FnReg.refl _ _
  · exact Only.refl _ _

theorem acknowledge_only (s : State) (n : ℕ) (p : ℕ) (source : ℕ) (kind : ℕ) : Only [.fn .fcResult, .fc .out, .fc .ahead] s (acknowledge s n p source kind) := by
  unfold acknowledge
  try dsimp -proj only
  split
  · refine Only.then (fcAnswer_only ..) (by decide +kernel) ?_
    exact Only.refl _ _
  · split
    · refine Only.then (fcAnswer_only ..) (by decide +kernel) ?_
      exact Only.refl _ _
    · split
      · refine Only.then (fcAnswer_only ..) (by decide +kernel) ?_
        exact Only.refl _ _
      · split
        · refine put_fc ?_ ?_
          · refine Faults.set_ahead (by decide +kernel) ?_
            exact FcReg.refl _ _
          · refine Only.then (fcAnswer_only ..) (by decide +kernel) ?_
            refine Only.then (modOut_only ..) (by decide +kernel) ?_
            exact Only.refl _ _
        · refine Only.then (fcAnswer_only ..) (by decide +kernel) ?_
          refine Only.then (modOut_only ..) (by decide +kernel) ?_
          exact Only.refl _ _

theorem execFcAck_only (fn : ℕ) (value : W64) (s : State) : Only [.fn .fcResult, .fc .out, .fc .ahead] s (after s (execFcAck fn value s)) := by
  unfold execFcAck
  dsimp -proj only [after]
  refine fcCommand_only (by decide +kernel) ?_
  intro _ _ _ _ _
  refine Only.then (acknowledge_only ..) (by decide +kernel) ?_
  exact Only.refl _ _

theorem clearFault_only (s : State) (n : ℕ) (p : ℕ) (source : ℕ) (kind : ℕ) : Only [.fn .fcResult, .fc .out] s (clearFault s n p source kind) := by
  unfold clearFault
  try dsimp -proj only
  split
  · refine Only.then (fcAnswer_only ..) (by decide +kernel) ?_
    exact Only.refl _ _
  · split
    · refine Only.then (fcAnswer_only ..) (by decide +kernel) ?_
      exact Only.refl _ _
    · split
      · refine Only.then (fcAnswer_only ..) (by decide +kernel) ?_
        exact Only.refl _ _
      · split
        · refine Only.then (fcAnswer_only ..) (by decide +kernel) ?_
          exact Only.refl _ _
        · refine Only.then (fcAnswer_only ..) (by decide +kernel) ?_
          refine put_fc ?_ ?_
          · refine Faults.set_out (by decide +kernel) ?_
            exact FcReg.refl _ _
          · exact Only.refl _ _

theorem execFcClear_only (fn : ℕ) (value : W64) (s : State) : Only [.fn .fcResult, .fc .out] s (after s (execFcClear fn value s)) := by
  unfold execFcClear
  dsimp -proj only [after]
  refine fcCommand_only (by decide +kernel) ?_
  intro _ _ _ _ _
  refine Only.then (clearFault_only ..) (by decide +kernel) ?_
  exact Only.refl _ _

theorem execFaultLogRead_only (fn : ℕ) (s : State) : Only [.port .linkState, .fc .log, .fc .overflowed, .out] s (after s (execFaultLogRead fn s)) := by
  unfold execFaultLogRead
  dsimp -proj only [after]
  split
  · exact Only.refl _ _
  · split
    · refine Only.then (reply_only ..) (by decide +kernel) ?_
      exact Only.refl _ _
    · refine Only.then (reply_only ..) (by decide +kernel) ?_
      refine put_fc ?_ ?_
      · refine Faults.set_log_overflowed (by decide +kernel) ?_
        exact FcReg.refl _ _
      · exact Only.refl _ _

theorem appendFaults_only (s : State) (l : List (ℕ × ℕ × ℕ)) : Only [.hl .faultLog] s (appendFaults s l) := by
  unfold appendFaults
  try dsimp -proj only
  refine put_hl ?_ ?_
  · refine Hayloft.set_faultLog (by decide +kernel) ?_
    exact HlReg.refl _ _
  · exact Only.refl _ _

theorem execFaultLogAppend_only (s : State) : Only [.fc .corrected, .fc .toLog, .hl .faultLog] s (after s (execFaultLogAppend s)) := by
  unfold execFaultLogAppend
  dsimp -proj only [after]
  split
  · refine put_fc ?_ ?_
    · refine Faults.set_corrected_toLog (by decide +kernel) ?_
      exact FcReg.refl _ _
    · refine Only.then (appendFaults_only ..) (by decide +kernel) ?_
      exact Only.refl _ _
  · exact Only.refl _ _

theorem execStickyRestore_only (s : State) : Only [.cache] s (after s (execStickyRestore s)) := by
  unfold execStickyRestore
  dsimp -proj only [after]
  split
  · refine put_cache ?_ ?_
    · decide +kernel
    · exact Only.refl _ _
  · exact Only.refl _ _

theorem execRngHealthFail_only (group : ℕ) (apt : Bool) (s : State) : Only (Part.raiseFault ++ ([.sys .paddockResets, .rng .retired, .rng .rct, .rng .apt] : List Part)) s (after s (execRngHealthFail group apt s)) := by
  unfold execRngHealthFail
  dsimp -proj only [after]
  split
  · exact Only.refl _ _
  · split
    · split
      · refine Only.then (settle_only ..) (by decide +kernel) ?_
        refine Only.then (raiseFault_only ..) (by decide +kernel) ?_
        refine put_rng ?_ ?_
        · refine Rng.set_apt (by decide +kernel) ?_
          exact RngReg.refl _ _
        · exact Only.refl _ _
      · refine put_rng ?_ ?_
        · refine Rng.set_apt (by decide +kernel) ?_
          exact RngReg.refl _ _
        · exact Only.refl _ _
    · split
      · refine Only.then (settle_only ..) (by decide +kernel) ?_
        refine Only.then (raiseFault_only ..) (by decide +kernel) ?_
        refine put_rng ?_ ?_
        · refine Rng.set_rct (by decide +kernel) ?_
          exact RngReg.refl _ _
        · exact Only.refl _ _
      · refine put_rng ?_ ?_
        · refine Rng.set_rct (by decide +kernel) ?_
          exact RngReg.refl _ _
        · exact Only.refl _ _

theorem execRngStartupDone_only (passed : ℕ) (kat : Bool) (s : State) : Only (Part.settle ++ ([.sys .stage, .sys .bootState, .jn .term, .rng .katOk, .tt .mirror, .tt .mirrorA, .tt .mirrorCaps] : List Part)) s (after s (execRngStartupDone passed kat s)) := by
  unfold execRngStartupDone
  dsimp -proj only [after]
  refine Only.then (endStartup_only ..) (by decide +kernel) ?_
  exact Only.refl _ _

theorem execRngStartupRetry_only (passed : ℕ) (kat : Bool) (s : State) : Only (Part.settle ++ ([.sys .stage, .sys .bootState, .jn .term, .rng .katOk, .tt .mirror, .tt .mirrorA, .tt .mirrorCaps] : List Part)) s (after s (execRngStartupRetry passed kat s)) := by
  unfold execRngStartupRetry
  dsimp -proj only [after]
  split
  · exact Only.refl _ _
  · refine Only.then (endStartup_only ..) (by decide +kernel) ?_
    exact Only.refl _ _

theorem execRngRetest_only (group : ℕ) (pass : Bool) (s : State) : Only [.rng .healthy, .rng .isolated] s (after s (execRngRetest group pass s)) := by
  unfold execRngRetest
  dsimp -proj only [after]
  split
  · refine put_rng ?_ ?_
    · refine Rng.set_healthy_isolated (by decide +kernel) ?_
      exact RngReg.refl _ _
    · exact Only.refl _ _
  · exact Only.refl _ _

theorem execRngBlockRelease_only (groups : ℕ) (s : State) : Only (Part.request) s (after s (execRngBlockRelease groups s)) := by
  unfold execRngBlockRelease
  dsimp -proj only [after]
  split
  · refine Only.then (serveStore_only ..) (by decide +kernel) ?_
    refine put_rng ?_ ?_
    · refine Rng.set_store (by decide +kernel) ?_
      exact RngReg.refl _ _
    · exact Only.refl _ _
  · exact Only.refl _ _

theorem execRawEnter_only (fn : ℕ) (value : W64) (token : Bytes) (s : State) : Only (Part.allQueue ++ ([.dbg .challengeDraw, .rng .ready, .rng .rawMode, .rng .cmdErr, .rng .rawFrom, .rng .fifo, .rng .sel, .hl .auditLog, .freeCtr] : List Part)) s (after s (execRawEnter fn value token s)) := by
  unfold execRawEnter
  dsimp -proj only [after]
  split
  · exact Only.refl _ _
  · split
    · refine Only.then (rnErr_only ..) (by decide +kernel) ?_
      exact Only.refl _ _
    · split
      · refine Only.then (enterRaw_only ..) (by decide +kernel) ?_
        exact Only.refl _ _
      · split
        · split
          · refine Only.then (enterRaw_only ..) (by decide +kernel) ?_
            refine put_dbg_freeCtr ?_ ?_ ?_
            · refine Debug.set_challengeDraw (by decide +kernel) ?_
              exact DbgReg.refl _ _
            · decide +kernel
            · exact Only.refl _ _
          · refine Only.then (rnErr_only ..) (by decide +kernel) ?_
            exact Only.refl _ _
        · refine Only.then (rnErr_only ..) (by decide +kernel) ?_
          exact Only.refl _ _

theorem execRnWordRead_only (fn : ℕ) (s : State) : Only (Part.request ++ ([.port .linkState, .out] : List Part)) s (after s (execRnWordRead fn s)) := by
  unfold execRnWordRead
  dsimp -proj only [after]
  split
  · exact Only.refl _ _
  · split
    · refine Only.then (reply_only ..) (by decide +kernel) ?_
      exact Only.refl _ _
    · split
      · split
        · refine Only.then (reply_only ..) (by decide +kernel) ?_
          refine Only.then (dueReseed_only ..) (by decide +kernel) ?_
          exact Only.refl _ _
        · refine Only.then (reply_only ..) (by decide +kernel) ?_
          refine Only.then (afterRequest_only ..) (by decide +kernel) ?_
          refine Only.then (dueReseed_only ..) (by decide +kernel) ?_
          exact Only.refl _ _
      · split
        · refine Only.then (reply_only ..) (by decide +kernel) ?_
          exact Only.refl _ _
        · refine Only.then (reply_only ..) (by decide +kernel) ?_
          refine Only.then (afterRequest_only ..) (by decide +kernel) ?_
          exact Only.refl _ _

theorem execRnRawDataRead_only (fn : ℕ) (s : State) : Only [.port .linkState, .rng .fifo, .out] s (after s (execRnRawDataRead fn s)) := by
  unfold execRnRawDataRead
  dsimp -proj only [after]
  split
  · exact Only.refl _ _
  · split
    · refine Only.then (reply_only ..) (by decide +kernel) ?_
      exact Only.refl _ _
    · refine Only.then (reply_only ..) (by decide +kernel) ?_
      refine put_rng ?_ ?_
      · refine Rng.set_fifo (by decide +kernel) ?_
        exact RngReg.refl _ _
      · exact Only.refl _ _

theorem execTamperTripAtBoot_only (source : ℕ) (high : Bool) (s : State) : Only [.sys .wakeDriven, .sys .bootState, .sys .reason, .sys .wait, .port .linkUp, .port .linkState, .fn .pmeStatus, .fn .vecs, .tp .latched, .tp .response, .tp .tamperHold, .tp .alarm, .tp .live, .tp .count, .hl .auditLog, .out] s (after s (execTamperTripAtBoot source high s)) := by
  unfold execTamperTripAtBoot
  dsimp -proj only [after]
  split
  · refine Only.then (setLive_only ..) (by decide +kernel) ?_
    refine Only.then (bootTamper_only ..) (by decide +kernel) ?_
    exact Only.refl _ _
  · exact Only.refl _ _

theorem execTamperClear_only (fn : ℕ) (value : W64) (token : Bytes) (s : State) : Only (Part.settle ++ ([.dbg .challengeDraw, .jn .held, .tk .unsealed, .tk .restoring, .tk .hold, .tk .ownerRoot, .tk .jseal, .tk .scrambled, .tp .latched, .tp .response, .tp .resetRequired, .tp .cmdErr, .tp .alarm, .hl .flush, .hl .auditLog] : List Part)) s (after s (execTamperClear fn value token s)) := by
  unfold execTamperClear
  dsimp -proj only [after]
  split
  · exact Only.refl _ _
  · split
    · refine Only.then (tpErr_only ..) (by decide +kernel) ?_
      exact Only.refl _ _
    · split
      · refine Only.then (tpErr_only ..) (by decide +kernel) ?_
        exact Only.refl _ _
      · split
        · refine Only.then (tpErr_only ..) (by decide +kernel) ?_
          exact Only.refl _ _
        · refine Only.then (settle_only ..) (by decide +kernel) ?_
          refine Only.then (takeClear_only ..) (by decide +kernel) ?_
          exact Only.refl _ _

theorem execDgCmpGo_only (fn : ℕ) (offset : ℕ) (size : ℕ) (value : W64) (s : State) : Only [.fn .cmpSlot, .fn .cmpLen, .fn .cmpGo, .fn .cmpSpoiled, .fn .cmpEq, .fn .cmpNe] s (after s (execDgCmpGo fn offset size value s)) := by
  unfold execDgCmpGo
  dsimp -proj only [after]
  split
  · refine modFn_in ?_ ?_
    · refine Fn.set_cmpGo_cmpSpoiled_cmpEq_cmpNe (by decide +kernel) ?_
      refine FnReg.then (cmpFields_only ..) (by decide +kernel) ?_
      exact FnReg.refl _ _
    · exact Only.refl _ _
  · exact Only.refl _ _

theorem execDgCmpDone_only (fn : ℕ) (s : State) : Only [.fn .cmpGo, .fn .cmpSpoiled, .fn .cmpEq, .fn .cmpNe] s (after s (execDgCmpDone fn s)) := by
  unfold execDgCmpDone
  dsimp -proj only [after]
  split
  · exact Only.refl _ _
  · refine modFn_in ?_ ?_
    · split
      · refine Fn.set_cmpGo_cmpSpoiled_cmpEq_cmpNe (by decide +kernel) ?_
        exact FnReg.refl _ _
      · refine Fn.set_cmpGo_cmpSpoiled_cmpEq_cmpNe (by decide +kernel) ?_
        exact FnReg.refl _ _
    · exact Only.refl _ _

theorem execMrExtendWrite_only (master : ℕ) (register : ℕ) (value : W64) (s : State) : Only [.pad .mrs] s (after s (execMrExtendWrite master register value s)) := by
  unfold execMrExtendWrite
  dsimp -proj only [after]
  split
  · refine Only.then (extendMr_only ..) (by decide +kernel) ?_
    exact Only.refl _ _
  · exact Only.refl _ _

theorem execNandReadDone_only (target : ℕ) (block : ℕ) (corrected : ℕ) (uncorrectable : Bool) (lost : Option ℕ) (s : State) : Only (Part.raiseFault ++ ([.sys .paddockResets, .rng .retired, .hl .blocks, .hl .objs, .hl .certs, .hl .spaceLow] : List Part)) s (after s (execNandReadDone target block corrected uncorrectable lost s)) := by
  unfold execNandReadDone
  dsimp -proj only [after]
  split
  · refine Only.then (settle_only ..) (by decide +kernel) ?_
    refine Only.then (readOutcome_only ..) (by decide +kernel) ?_
    exact Only.refl _ _
  · exact Only.refl _ _

theorem execNandStatusFail_only (target : ℕ) (block : ℕ) (erase : Bool) (s : State) : Only (Part.raiseFault ++ ([.sys .paddockResets, .rng .retired, .hl .blocks, .hl .spaceLow] : List Part)) s (after s (execNandStatusFail target block erase s)) := by
  unfold execNandStatusFail
  dsimp -proj only [after]
  split
  · refine Only.then (settle_only ..) (by decide +kernel) ?_
    refine Only.then (raiseFault_only ..) (by decide +kernel) ?_
    split
    · refine Only.then (retireBlock_only ..) (by decide +kernel) ?_
      exact Only.refl _ _
    · refine Only.then (fillFresh_only ..) (by decide +kernel) ?_
      refine Only.then (retireBlock_only ..) (by decide +kernel) ?_
      exact Only.refl _ _
  · exact Only.refl _ _

theorem execNandTargetTimeout_only (target : ℕ) (statusRead : Bool) (s : State) : Only (Part.raiseFault ++ ([.sys .paddockResets, .rng .retired] : List Part)) s (after s (execNandTargetTimeout target statusRead s)) := by
  unfold execNandTargetTimeout
  dsimp -proj only [after]
  split
  · exact Only.refl _ _
  · split
    · refine Only.then (modTarget_only ..) (by decide +kernel) ?_
      exact Only.refl _ _
    · refine Only.then (settle_only ..) (by decide +kernel) ?_
      refine Only.then (raiseFault_only ..) (by decide +kernel) ?_
      exact Only.refl _ _

theorem execStaticWearLevel_only (channel : ℕ) (s : State) : Only [.hl .targets, .hl .blocks] s (after s (execStaticWearLevel channel s)) := by
  unfold execStaticWearLevel
  dsimp -proj only [after]
  split
  · split
    · refine Only.then (moveBlock_only ..) (by decide +kernel) ?_
      exact Only.refl _ _
    · exact Only.refl _ _
  · exact Only.refl _ _

theorem execDiagLogFlush_only (s : State) : Only (Part.allPad) s (after s (execDiagLogFlush s)) := by
  unfold execDiagLogFlush
  dsimp -proj only [after]
  split
  · refine put_pads ?_ ?_
    · decide +kernel
    · exact Only.refl _ _
  · exact Only.refl _ _

theorem execHlFormat_only (fn : ℕ) (value : W64) (s : State) : Only [.hl .targets, .hl .blocks, .hl .rebuilding, .hl .cmdErr, .tt .lanes, .lk .tests, .freeCtr] s (after s (execHlFormat fn value s)) := by
  unfold execHlFormat
  dsimp -proj only [after]
  split
  · exact Only.refl _ _
  · split
    · refine put_hl ?_ ?_
      · refine Hayloft.set_cmdErr (by decide +kernel) ?_
        exact HlReg.refl _ _
      · exact Only.refl _ _
    · refine Only.then (formatTarget_only ..) (by decide +kernel) ?_
      exact Only.refl _ _

theorem execHlLogDataRead_only (fn : ℕ) (s : State) : Only [.port .linkState, .fn .hlEntry, .fn .hlWord, .out] s (after s (execHlLogDataRead fn s)) := by
  unfold execHlLogDataRead
  dsimp -proj only [after]
  split
  · exact Only.refl _ _
  · split
    · refine Only.then (reply_only ..) (by decide +kernel) ?_
      exact Only.refl _ _
    · refine Only.then (reply_only ..) (by decide +kernel) ?_
      refine modFn_in ?_ ?_
      · split
        · refine Fn.set_hlEntry_hlWord (by decide +kernel) ?_
          exact FnReg.refl _ _
        · refine Fn.set_hlWord (by decide +kernel) ?_
          exact FnReg.refl _ _
      · exact Only.refl _ _

theorem execBxBoot_only (fn : ℕ) (value : W64) (image : Bytes) (s : State) : Only [.core .state, .core .mem, .core .rstack, .core .spill, .core .windows, .core .cmdErr, .core .loading, .out] s (after s (execBxBoot fn value image s)) := by
  unfold execBxBoot
  dsimp -proj only [after]
  split
  · exact Only.refl _ _
  · split
    · exact Only.refl _ _
    · refine Only.then (hostLoad_only ..) (by decide +kernel) ?_
      exact Only.refl _ _

theorem execCoreStop_only (fn : ℕ) (core : ℕ) (value : W64) (s : State) : Only [.sys .wakeDriven, .port .linkState, .fn .pmeStatus, .fn .vecs, .pad .extendLost, .core .state, .core .w, .core .pc, .core .cmdErr, .core .waiting, .core .loading, .out] s (after s (execCoreStop fn core value s)) := by
  unfold execCoreStop
  dsimp -proj only [after]
  split
  · exact Only.refl _ _
  · split
    · refine Only.then (stopCore_only ..) (by decide +kernel) ?_
      refine Only.then (coreErr_only ..) (by decide +kernel) ?_
      exact Only.refl _ _
    · refine Only.then (coreErr_only ..) (by decide +kernel) ?_
      exact Only.refl _ _

theorem execFeedDrop_only (fn : ℕ) (feed : ℕ) (value : W64) (s : State) : Only [.feeds] s (after s (execFeedDrop fn feed value s)) := by
  unfold execFeedDrop
  dsimp -proj only [after]
  split
  · exact Only.refl _ _
  · refine Only.then (modFeed_only ..) (by decide +kernel) ?_
    exact Only.refl _ _

theorem execTamperConditionEnd_only (source : ℕ) (s : State) : Only [.tp .live] s (after s (execTamperConditionEnd source s)) := by
  unfold execTamperConditionEnd
  dsimp -proj only [after]
  refine put_tp ?_ ?_
  · refine Tamper.set_live (by decide +kernel) ?_
    exact TpReg.refl _ _
  · exact Only.refl _ _

end Sys2Proof.Machine
end

