-- ==== Sys2Proof/Laws/OnlyJobs.lean ====
section
/-! SUPPORT. OnlyJobs.lean: frames: which registers each operation of State may change, of the jobs. -/

set_option Elab.async false

open Sys2Proof

namespace Sys2Proof.Machine

theorem scanMove_only (s : State) (p : ℕ) (n : ℕ) : Only [.scans, .freeCtr] s (scanMove s p n) := by
  unfold scanMove
  try dsimp -proj only
  split
  · exact Only.refl _ _
  · refine put_scans ?_ ?_
    · decide +kernel
    · refine Only.then (draw_only ..) (by decide +kernel) ?_
      exact Only.refl _ _

theorem streamIn_only (s : State) (j : Job) : Only [.scans, .freeCtr] s (streamIn s j) := by
  unfold streamIn
  try dsimp -proj only
  refine Only.then (scanMove_only ..) (by decide +kernel) ?_
  exact Only.refl _ _

theorem takeFeed_only (s : State) (j : Job) (f : ℕ) : Only [.jobs, .yard, .feeds] s (takeFeed s j f) := by
  unfold takeFeed
  try dsimp -proj only
  split
  · exact Only.refl _ _
  · refine Only.then (modJob_only ..) (by decide +kernel) ?_
    refine Only.then (putFeed_only ..) (by decide +kernel) ?_
    exact Only.refl _ _

theorem takeInputs_only (s : State) (j : Job) : Only [.jobs, .yard, .feeds] s (takeInputs s j) := by
  unfold takeInputs
  try dsimp -proj only
  split
  · refine Only.then (modJob_only ..) (by decide +kernel) ?_
    exact Only.refl _ _
  · refine Only.then (takeFeed_only ..) (by decide +kernel) ?_
    refine Only.then (modJob_only ..) (by decide +kernel) ?_
    exact Only.refl _ _

theorem execute_only {k : List Part} {s : State} {seq op : ℕ} {inp : OpInput} {need : State → Job → ℕ × ℕ} {f : State → Job → OpIn → State}
    (hk : within (Part.finishJob ++ ([.feeds] : List Part)) k = true) (hf : ∀ t j i, Only k t (f t j i)) : Only k s (execute s seq op inp need f) := by
  have he : Only k s s := Only.refl _ _
  have hm : ∀ {l : List Part} {t u : State}, Only l t u → within l (Part.finishJob ++ ([.feeds] : List Part)) = true → Only k t u := fun h hl =>
    (h.mono hl).mono hk
  have ht : ∀ {t u v : State}, Only k t u → Only k u v → Only k t v := fun a b => Only.trans a b
  unfold execute
  split
  · exact he
  · dsimp -proj only
    split
    · exact hm (finishJob_only ..) (by decide +kernel)
    · split
      · exact hm (takeInputs_only ..) (by decide +kernel)
      · split
        · exact hm (takeInputs_only ..) (by decide +kernel)
        · exact ht (hm (takeInputs_only ..) (by decide +kernel)) (hm (finishJob_only ..) (by decide +kernel))
        · split
          · exact ht (hm (takeInputs_only ..) (by decide +kernel)) (hm (nextPhase_only ..) (by decide +kernel))
          · exact ht (hm (takeInputs_only ..) (by decide +kernel)) (hf _ _ _)

theorem ends_only (s : State) (j : Job) (r : Result) : Only (Part.finishJob) s (ends s j r) := by
  unfold ends
  try dsimp -proj only
  refine Only.then (finishJob_only ..) (by decide +kernel) ?_
  exact Only.refl _ _

theorem publicKey_only {k : List Part} {s t : State} {j : Job} {alg : ℕ} {inline : Bytes} {f : Bytes → State}
    (hk : within (Part.finishJob) k = true) (h : Only k t s) (hf : ∀ b, Only k t (f b)) : Only k t (publicKey s j alg inline f) := by
  unfold publicKey
  split
  · exact hf _
  · split
    · exact Only.then (ends_only ..) hk h
    · exact hf _

theorem execOpEcdsaVerify_only (seq : ℕ) (inp : OpInput) (s : State) : Only (Part.finishJob ++ ([.feeds] : List Part)) s (after s (execOpEcdsaVerify seq inp s)) := by
  unfold execOpEcdsaVerify
  dsimp -proj only [after]
  refine execute_only (by decide +kernel) ?_
  intro _ _ _
  refine publicKey_only (by decide +kernel) ?_ ?_
  · exact Only.refl _ _
  · intro _
    refine Only.then (ends_only ..) (by decide +kernel) ?_
    exact Only.refl _ _

theorem withPrivate_only {k : List Part} {s t : State} {j : Job} {c : ℕ} {f : Bytes → State}
    (hk : within (Part.raiseFault ++ ([.sys .paddockResets, .rng .retired] : List Part)) k = true) (h : Only k t s) (hf : ∀ b, Only k t (f b)) : Only k t (withPrivate s j c f) := by
  unfold withPrivate
  dsimp -proj only
  split
  · exact hf _
  · exact h.trans ((Only.then (settle_only ..) (by decide +kernel) (Only.then (raiseFault_only ..) (by decide +kernel) (Only.refl (Part.raiseFault ++ ([.sys .paddockResets, .rng .retired] : List Part)) _))).mono hk)

theorem streamOut_only (s : State) (seq : ℕ) : Only [.port .linkState, .core .mem, .jobs, .yard, .scans, .out, .freeCtr] s (streamOut s seq) := by
  unfold streamOut
  try dsimp -proj only
  split
  · exact Only.refl _ _
  · split
    · exact Only.refl _ _
    · split
      · refine Only.then (modJob_only ..) (by decide +kernel) ?_
        refine Only.then (writeOutput_only ..) (by decide +kernel) ?_
        refine Only.then (scanMove_only ..) (by decide +kernel) ?_
        exact Only.refl _ _
      · refine Only.then (scanMove_only ..) (by decide +kernel) ?_
        exact Only.refl _ _

theorem endsAfter_only (s : State) (j : Job) (n : ℕ) (r : Result) : Only (Part.finishJob) s (endsAfter s j n r) := by
  unfold endsAfter
  try dsimp -proj only
  refine Only.then (ends_only ..) (by decide +kernel) ?_
  refine Only.then (modJob_only ..) (by decide +kernel) ?_
  exact Only.refl _ _

theorem execOpMceKeygen_only (seq : ℕ) (inp : OpInput) (s : State) : Only (Part.finishJob ++ ([.port .linkState, .core .mem, .feeds, .scans, .out] : List Part)) s (after s (execOpMceKeygen seq inp s)) := by
  unfold execOpMceKeygen
  dsimp -proj only [after]
  refine execute_only (by decide +kernel) ?_
  intro _ _ _
  split
  · refine Only.then (streamOut_only ..) (by decide +kernel) ?_
    refine Only.then (endsAfter_only ..) (by decide +kernel) ?_
    exact Only.refl _ _
  · exact Only.refl _ _

theorem placeKey_only (s : State) (k : ℕ) (key : Bytes) : Only [.cache] s (placeKey s k key) := by
  unfold placeKey
  try dsimp -proj only
  refine Only.then (modCache_only ..) (by decide +kernel) ?_
  exact Only.refl _ _

theorem fillCache_only (s : State) (j : Job) (k : ℕ) (h : ℕ) (key : Bytes) : Only (Part.finishJob ++ ([.en .shed, .hl .objs] : List Part)) s (fillCache s j k h key) := by
  unfold fillCache
  try dsimp -proj only
  split
  · split
    · refine Only.then (awaitWrite_only ..) (by decide +kernel) ?_
      refine Only.then (ends_only ..) (by decide +kernel) ?_
      exact Only.refl _ _
    · refine Only.then (ends_only ..) (by decide +kernel) ?_
      exact Only.refl _ _
  · split
    · refine Only.then (awaitWrite_only ..) (by decide +kernel) ?_
      refine Only.then (ends_only ..) (by decide +kernel) ?_
      refine Only.then (placeKey_only ..) (by decide +kernel) ?_
      exact Only.refl _ _
    · refine Only.then (ends_only ..) (by decide +kernel) ?_
      refine Only.then (placeKey_only ..) (by decide +kernel) ?_
      exact Only.refl _ _

theorem execOpPkcLoad_only (seq : ℕ) (inp : OpInput) (s : State) : Only (Part.finishJob ++ ([.en .shed, .hl .objs, .feeds, .scans] : List Part)) s (after s (execOpPkcLoad seq inp s)) := by
  unfold execOpPkcLoad
  dsimp -proj only [after]
  refine execute_only (by decide +kernel) ?_
  intro _ _ _
  split
  · refine Only.then (fillCache_only ..) (by decide +kernel) ?_
    exact Only.refl _ _
  · split
    · refine Only.then (ends_only ..) (by decide +kernel) ?_
      split
      · refine Only.then (scanMove_only ..) (by decide +kernel) ?_
        exact Only.refl _ _
      · exact Only.refl _ _
    · refine Only.then (fillCache_only ..) (by decide +kernel) ?_
      split
      · refine Only.then (scanMove_only ..) (by decide +kernel) ?_
        exact Only.refl _ _
      · exact Only.refl _ _

theorem execOpMldsaVerify_only (seq : ℕ) (inp : OpInput) (s : State) : Only (Part.finishJob ++ ([.feeds] : List Part)) s (after s (execOpMldsaVerify seq inp s)) := by
  unfold execOpMldsaVerify
  dsimp -proj only [after]
  refine execute_only (by decide +kernel) ?_
  intro _ _ _
  refine Only.then (ends_only ..) (by decide +kernel) ?_
  exact Only.refl _ _

theorem execOpEcdhEphemeral_only (seq : ℕ) (inp : OpInput) (s : State) : Only (Part.finishJob ++ ([.feeds] : List Part)) s (after s (execOpEcdhEphemeral seq inp s)) := by
  unfold execOpEcdhEphemeral
  dsimp -proj only [after]
  refine execute_only (by decide +kernel) ?_
  intro _ _ _
  split
  · refine Only.then (ends_only ..) (by decide +kernel) ?_
    exact Only.refl _ _
  · refine Only.then (ends_only ..) (by decide +kernel) ?_
    exact Only.refl _ _

theorem execOpLmsVerify_only (seq : ℕ) (inp : OpInput) (s : State) : Only (Part.finishJob ++ ([.feeds] : List Part)) s (after s (execOpLmsVerify seq inp s)) := by
  unfold execOpLmsVerify
  dsimp -proj only [after]
  refine execute_only (by decide +kernel) ?_
  intro _ _ _
  refine Only.then (ends_only ..) (by decide +kernel) ?_
  exact Only.refl _ _

theorem execOpHqcKeygen_only (seq : ℕ) (inp : OpInput) (s : State) : Only (Part.finishJob ++ ([.feeds] : List Part)) s (after s (execOpHqcKeygen seq inp s)) := by
  unfold execOpHqcKeygen
  dsimp -proj only [after]
  refine execute_only (by decide +kernel) ?_
  intro _ _ _
  refine Only.then (ends_only ..) (by decide +kernel) ?_
  exact Only.refl _ _

theorem execOpNop_only (seq : ℕ) (inp : OpInput) (s : State) : Only (Part.finishJob ++ ([.feeds] : List Part)) s (after s (execOpNop seq inp s)) := by
  unfold execOpNop
  dsimp -proj only [after]
  refine execute_only (by decide +kernel) ?_
  intro _ _ _
  refine Only.then (ends_only ..) (by decide +kernel) ?_
  exact Only.refl _ _

theorem withTree_only (s : State) (pad : ℕ) (n : ℕ) : SomeOnly [.cache] s (withTree s pad n) := by
  unfold withTree
  try dsimp -proj only
  split
  · refine SomeOnly.some ?_
    exact Only.refl _ _
  · split
    · exact SomeOnly.none ..
    · refine SomeOnly.some ?_
      refine Only.then (putCache_only ..) (by decide +kernel) ?_
      exact Only.refl _ _

theorem hbsSign_only (s : State) (j : Job) (sign : Bytes → Bytes → ℕ → Bytes) : Only (Part.finishJob ++ ([.port .linkState, .core .mem, .scans, .out] : List Part)) s (hbsSign s j sign) := by
  unfold hbsSign
  try dsimp -proj only
  split
  · refine Only.then (ends_only ..) (by decide +kernel) ?_
    exact Only.refl _ _
  · refine Only.then (streamOut_only ..) (by decide +kernel) ?_
    refine Only.then (ends_only ..) (by decide +kernel) ?_
    refine Only.then (modHbs_only ..) (by decide +kernel) ?_
    refine Only.then ((withTree_only ..).get ‹_›) (by decide +kernel) ?_
    exact Only.refl _ _

theorem makeStateful_only (s : State) (j : Job) (alg : ℕ) (seeds : Bytes) : Only [.tk .slots, .tk .hbs, .cache] s (makeStateful s j alg seeds) := by
  unfold makeStateful
  try dsimp -proj only
  split
  · exact Only.refl _ _
  · refine put_cache ?_ ?_
    · decide +kernel
    · refine Only.then (putHbs_only ..) (by decide +kernel) ?_
      refine Only.then (modSlot_only ..) (by decide +kernel) ?_
      exact Only.refl _ _

theorem hbsKeygen_only (s : State) (j : Job) (seedLen : ℕ) (pub : Bytes → Bytes) : Only (Part.finishJob ++ ([.en .shed, .hl .objs] : List Part)) s (hbsKeygen s j seedLen pub) := by
  unfold hbsKeygen
  try dsimp -proj only
  split
  · refine Only.then (ends_only ..) (by decide +kernel) ?_
    refine Only.then (makeStateful_only ..) (by decide +kernel) ?_
    exact Only.refl _ _
  · refine Only.then (awaitWrite_only ..) (by decide +kernel) ?_
    refine Only.then (ends_only ..) (by decide +kernel) ?_
    refine Only.then (makeStateful_only ..) (by decide +kernel) ?_
    exact Only.refl _ _

theorem execOpXmssKeygen_only (seq : ℕ) (inp : OpInput) (s : State) : Only (Part.finishJob ++ ([.en .shed, .hl .objs, .feeds] : List Part)) s (after s (execOpXmssKeygen seq inp s)) := by
  unfold execOpXmssKeygen
  dsimp -proj only [after]
  refine execute_only (by decide +kernel) ?_
  intro _ _ _
  refine Only.then (hbsKeygen_only ..) (by decide +kernel) ?_
  exact Only.refl _ _

theorem execOpHqcDecaps_only (seq : ℕ) (inp : OpInput) (s : State) : Only (Part.finishJob ++ ([.feeds] : List Part)) s (after s (execOpHqcDecaps seq inp s)) := by
  unfold execOpHqcDecaps
  dsimp -proj only [after]
  refine execute_only (by decide +kernel) ?_
  intro _ _ _
  refine Only.then (ends_only ..) (by decide +kernel) ?_
  exact Only.refl _ _

theorem execOpLmsKeygen_only (seq : ℕ) (inp : OpInput) (s : State) : Only (Part.finishJob ++ ([.en .shed, .hl .objs, .feeds] : List Part)) s (after s (execOpLmsKeygen seq inp s)) := by
  unfold execOpLmsKeygen
  dsimp -proj only [after]
  refine execute_only (by decide +kernel) ?_
  intro _ _ _
  refine Only.then (hbsKeygen_only ..) (by decide +kernel) ?_
  exact Only.refl _ _

theorem execOpPkcEvict_only (seq : ℕ) (inp : OpInput) (s : State) : Only (Part.finishJob ++ ([.feeds] : List Part)) s (after s (execOpPkcEvict seq inp s)) := by
  unfold execOpPkcEvict
  dsimp -proj only [after]
  refine execute_only (by decide +kernel) ?_
  intro _ _ _
  refine Only.then (ends_only ..) (by decide +kernel) ?_
  exact Only.refl _ _

theorem nistKeygen_only (cls : ℕ) (s : State) (j : Job) (x3 : OpIn) : Only (Part.finishJob) s (nistKeygen cls s j x3) := by
  unfold nistKeygen
  try dsimp -proj only
  refine Only.then (ends_only ..) (by decide +kernel) ?_
  exact Only.refl _ _

theorem execOpRsaEncrypt_only (seq : ℕ) (inp : OpInput) (s : State) : Only (Part.finishJob ++ ([.feeds] : List Part)) s (after s (execOpRsaEncrypt seq inp s)) := by
  unfold execOpRsaEncrypt
  dsimp -proj only [after]
  refine execute_only (by decide +kernel) ?_
  intro _ _ _
  refine publicKey_only (by decide +kernel) ?_ ?_
  · exact Only.refl _ _
  · intro _
    refine Only.then (ends_only ..) (by decide +kernel) ?_
    exact Only.refl _ _

theorem execOpKmacVerify_only (seq : ℕ) (inp : OpInput) (s : State) : Only (Part.finishJob ++ ([.feeds, .scans] : List Part)) s (after s (execOpKmacVerify seq inp s)) := by
  unfold execOpKmacVerify
  dsimp -proj only [after]
  refine execute_only (by decide +kernel) ?_
  intro _ _ _
  refine Only.then (ends_only ..) (by decide +kernel) ?_
  refine Only.then (streamIn_only ..) (by decide +kernel) ?_
  exact Only.refl _ _

theorem execOpSlhdsaSign_only (seq : ℕ) (inp : OpInput) (s : State) : Only (Part.finishJob ++ ([.port .linkState, .core .mem, .feeds, .scans, .out] : List Part)) s (after s (execOpSlhdsaSign seq inp s)) := by
  unfold execOpSlhdsaSign
  dsimp -proj only [after]
  refine execute_only (by decide +kernel) ?_
  intro _ _ _
  refine Only.then (streamOut_only ..) (by decide +kernel) ?_
  refine Only.then (ends_only ..) (by decide +kernel) ?_
  exact Only.refl _ _

theorem execOpMlkemKeygen_only (seq : ℕ) (inp : OpInput) (s : State) : Only (Part.finishJob ++ ([.feeds] : List Part)) s (after s (execOpMlkemKeygen seq inp s)) := by
  unfold execOpMlkemKeygen
  dsimp -proj only [after]
  refine execute_only (by decide +kernel) ?_
  intro _ _ _
  refine Only.then (ends_only ..) (by decide +kernel) ?_
  exact Only.refl _ _

theorem execOpXmssVerify_only (seq : ℕ) (inp : OpInput) (s : State) : Only (Part.finishJob ++ ([.feeds] : List Part)) s (after s (execOpXmssVerify seq inp s)) := by
  unfold execOpXmssVerify
  dsimp -proj only [after]
  refine execute_only (by decide +kernel) ?_
  intro _ _ _
  refine Only.then (ends_only ..) (by decide +kernel) ?_
  exact Only.refl _ _

theorem fillBlob_only (s : State) (j : Job) (n : ℕ) (b : Bytes) : Only [.tk .blobs] s (fillBlob s j n b) := by
  unfold fillBlob
  try dsimp -proj only
  split
  · exact Only.refl _ _
  · refine Only.then (modBlob_only ..) (by decide +kernel) ?_
    exact Only.refl _ _

theorem execOpKeyExport_only (seq : ℕ) (inp : OpInput) (s : State) : Only (Part.finishJob ++ ([.feeds] : List Part)) s (after s (execOpKeyExport seq inp s)) := by
  unfold execOpKeyExport
  dsimp -proj only [after]
  refine execute_only (by decide +kernel) ?_
  intro _ _ _
  refine Only.then (ends_only ..) (by decide +kernel) ?_
  exact Only.refl _ _

theorem execOpEcdsaSign_only (seq : ℕ) (inp : OpInput) (s : State) : Only (Part.finishJob ++ ([.feeds] : List Part)) s (after s (execOpEcdsaSign seq inp s)) := by
  unfold execOpEcdsaSign
  dsimp -proj only [after]
  refine execute_only (by decide +kernel) ?_
  intro _ _ _
  refine Only.then (ends_only ..) (by decide +kernel) ?_
  exact Only.refl _ _

theorem derive_only (s : State) (j : Job) (i : OpIn) : Only (Part.finishJob) s (derive s j i) := by
  unfold derive
  try dsimp -proj only
  split
  · refine Only.then (ends_only ..) (by decide +kernel) ?_
    exact Only.refl _ _
  · refine Only.then (ends_only ..) (by decide +kernel) ?_
    exact Only.refl _ _

theorem execOpHmac_only (seq : ℕ) (inp : OpInput) (s : State) : Only (Part.finishJob ++ ([.feeds, .scans] : List Part)) s (after s (execOpHmac seq inp s)) := by
  unfold execOpHmac
  dsimp -proj only [after]
  refine execute_only (by decide +kernel) ?_
  intro _ _ _
  refine Only.then (ends_only ..) (by decide +kernel) ?_
  refine Only.then (streamIn_only ..) (by decide +kernel) ?_
  exact Only.refl _ _

theorem execOpAttestQuote_only (seq : ℕ) (inp : OpInput) (s : State) : Only (Part.finishJob ++ ([.feeds] : List Part)) s (after s (execOpAttestQuote seq inp s)) := by
  unfold execOpAttestQuote
  dsimp -proj only [after]
  refine execute_only (by decide +kernel) ?_
  intro _ _ _
  refine Only.then (ends_only ..) (by decide +kernel) ?_
  exact Only.refl _ _

theorem execOpMlkemEncaps_only (seq : ℕ) (inp : OpInput) (s : State) : Only (Part.finishJob ++ ([.feeds] : List Part)) s (after s (execOpMlkemEncaps seq inp s)) := by
  unfold execOpMlkemEncaps
  dsimp -proj only [after]
  refine execute_only (by decide +kernel) ?_
  intro _ _ _
  refine publicKey_only (by decide +kernel) ?_ ?_
  · exact Only.refl _ _
  · intro _
    refine Only.then (ends_only ..) (by decide +kernel) ?_
    exact Only.refl _ _

theorem execOpMlkemDecaps_only (seq : ℕ) (inp : OpInput) (s : State) : Only (Part.finishJob ++ ([.feeds] : List Part)) s (after s (execOpMlkemDecaps seq inp s)) := by
  unfold execOpMlkemDecaps
  dsimp -proj only [after]
  refine execute_only (by decide +kernel) ?_
  intro _ _ _
  refine Only.then (ends_only ..) (by decide +kernel) ?_
  exact Only.refl _ _

theorem execOpMldsaKeygen_only (seq : ℕ) (inp : OpInput) (s : State) : Only (Part.finishJob ++ ([.feeds] : List Part)) s (after s (execOpMldsaKeygen seq inp s)) := by
  unfold execOpMldsaKeygen
  dsimp -proj only [after]
  refine execute_only (by decide +kernel) ?_
  intro _ _ _
  refine Only.then (ends_only ..) (by decide +kernel) ?_
  exact Only.refl _ _

theorem execOpMldsaSign_only (seq : ℕ) (inp : OpInput) (s : State) : Only (Part.finishJob ++ ([.feeds] : List Part)) s (after s (execOpMldsaSign seq inp s)) := by
  unfold execOpMldsaSign
  dsimp -proj only [after]
  refine execute_only (by decide +kernel) ?_
  intro _ _ _
  split
  · refine Only.then (endsAfter_only ..) (by decide +kernel) ?_
    exact Only.refl _ _
  · exact Only.refl _ _

theorem execOpSlhdsaKeygen_only (seq : ℕ) (inp : OpInput) (s : State) : Only (Part.finishJob ++ ([.feeds] : List Part)) s (after s (execOpSlhdsaKeygen seq inp s)) := by
  unfold execOpSlhdsaKeygen
  dsimp -proj only [after]
  refine execute_only (by decide +kernel) ?_
  intro _ _ _
  refine Only.then (ends_only ..) (by decide +kernel) ?_
  exact Only.refl _ _

theorem slhdsaVerify_only (s : State) (j : Job) (i : OpIn) : Only (Part.finishJob) s (slhdsaVerify s j i) := by
  unfold slhdsaVerify
  try dsimp -proj only
  refine Only.then (ends_only ..) (by decide +kernel) ?_
  exact Only.refl _ _

theorem execOpSlhdsaVerify_only (seq : ℕ) (inp : OpInput) (s : State) : Only (Part.finishJob ++ ([.feeds] : List Part)) s (after s (execOpSlhdsaVerify seq inp s)) := by
  unfold execOpSlhdsaVerify
  dsimp -proj only [after]
  refine execute_only (by decide +kernel) ?_
  intro _ _ _
  refine Only.then (slhdsaVerify_only ..) (by decide +kernel) ?_
  exact Only.refl _ _

theorem execOpLmsSign_only (seq : ℕ) (inp : OpInput) (s : State) : Only (Part.finishJob ++ ([.port .linkState, .core .mem, .feeds, .scans, .out] : List Part)) s (after s (execOpLmsSign seq inp s)) := by
  unfold execOpLmsSign
  dsimp -proj only [after]
  refine execute_only (by decide +kernel) ?_
  intro _ _ _
  refine Only.then (hbsSign_only ..) (by decide +kernel) ?_
  exact Only.refl _ _

theorem execOpXmssSign_only (seq : ℕ) (inp : OpInput) (s : State) : Only (Part.finishJob ++ ([.port .linkState, .core .mem, .feeds, .scans, .out] : List Part)) s (after s (execOpXmssSign seq inp s)) := by
  unfold execOpXmssSign
  dsimp -proj only [after]
  refine execute_only (by decide +kernel) ?_
  intro _ _ _
  refine Only.then (hbsSign_only ..) (by decide +kernel) ?_
  exact Only.refl _ _

theorem execOpHbsQuery_only (seq : ℕ) (inp : OpInput) (s : State) : Only (Part.finishJob ++ ([.feeds] : List Part)) s (after s (execOpHbsQuery seq inp s)) := by
  unfold execOpHbsQuery
  dsimp -proj only [after]
  refine execute_only (by decide +kernel) ?_
  intro _ _ _
  refine Only.then (ends_only ..) (by decide +kernel) ?_
  exact Only.refl _ _

theorem execOpMceEncaps_only (seq : ℕ) (inp : OpInput) (s : State) : Only (Part.finishJob ++ ([.feeds, .scans] : List Part)) s (after s (execOpMceEncaps seq inp s)) := by
  unfold execOpMceEncaps
  dsimp -proj only [after]
  refine execute_only (by decide +kernel) ?_
  intro _ _ _
  refine publicKey_only (by decide +kernel) ?_ ?_
  · refine Only.then (scanMove_only ..) (by decide +kernel) ?_
    exact Only.refl _ _
  · intro _
    split
    · refine Only.then (ends_only ..) (by decide +kernel) ?_
      refine Only.then (scanMove_only ..) (by decide +kernel) ?_
      exact Only.refl _ _
    · refine Only.then (scanMove_only ..) (by decide +kernel) ?_
      exact Only.refl _ _

theorem execOpMceDecaps_only (seq : ℕ) (inp : OpInput) (s : State) : Only (Part.finishJob ++ ([.feeds] : List Part)) s (after s (execOpMceDecaps seq inp s)) := by
  unfold execOpMceDecaps
  dsimp -proj only [after]
  refine execute_only (by decide +kernel) ?_
  intro _ _ _
  refine Only.then (ends_only ..) (by decide +kernel) ?_
  exact Only.refl _ _

theorem execOpHqcEncaps_only (seq : ℕ) (inp : OpInput) (s : State) : Only (Part.finishJob ++ ([.feeds] : List Part)) s (after s (execOpHqcEncaps seq inp s)) := by
  unfold execOpHqcEncaps
  dsimp -proj only [after]
  refine execute_only (by decide +kernel) ?_
  intro _ _ _
  refine publicKey_only (by decide +kernel) ?_ ?_
  · exact Only.refl _ _
  · intro _
    refine Only.then (ends_only ..) (by decide +kernel) ?_
    exact Only.refl _ _

theorem execOpRsaKeygen_only (seq : ℕ) (inp : OpInput) (s : State) : Only (Part.finishJob ++ ([.feeds] : List Part)) s (after s (execOpRsaKeygen seq inp s)) := by
  unfold execOpRsaKeygen
  dsimp -proj only [after]
  refine execute_only (by decide +kernel) ?_
  intro _ _ _
  refine Only.then (ends_only ..) (by decide +kernel) ?_
  exact Only.refl _ _

theorem execOpRsaSign_only (seq : ℕ) (inp : OpInput) (s : State) : Only (Part.raiseFault ++ ([.sys .paddockResets, .rng .retired] : List Part)) s (after s (execOpRsaSign seq inp s)) := by
  unfold execOpRsaSign
  dsimp -proj only [after]
  refine execute_only (by decide +kernel) ?_
  intro _ _ _
  refine withPrivate_only (by decide +kernel) ?_ ?_
  · exact Only.refl _ _
  · intro _
    refine Only.then (ends_only ..) (by decide +kernel) ?_
    exact Only.refl _ _

theorem execOpRsaVerify_only (seq : ℕ) (inp : OpInput) (s : State) : Only (Part.finishJob ++ ([.feeds] : List Part)) s (after s (execOpRsaVerify seq inp s)) := by
  unfold execOpRsaVerify
  dsimp -proj only [after]
  refine execute_only (by decide +kernel) ?_
  intro _ _ _
  refine publicKey_only (by decide +kernel) ?_ ?_
  · exact Only.refl _ _
  · intro _
    refine Only.then (ends_only ..) (by decide +kernel) ?_
    exact Only.refl _ _

theorem execOpRsaDecrypt_only (seq : ℕ) (inp : OpInput) (s : State) : Only (Part.raiseFault ++ ([.sys .paddockResets, .rng .retired] : List Part)) s (after s (execOpRsaDecrypt seq inp s)) := by
  unfold execOpRsaDecrypt
  dsimp -proj only [after]
  refine execute_only (by decide +kernel) ?_
  intro _ _ _
  split
  · refine Only.then (ends_only ..) (by decide +kernel) ?_
    exact Only.refl _ _
  · refine withPrivate_only (by decide +kernel) ?_ ?_
    · exact Only.refl _ _
    · intro _
      split
      · refine Only.then (ends_only ..) (by decide +kernel) ?_
        exact Only.refl _ _
      · refine Only.then (ends_only ..) (by decide +kernel) ?_
        exact Only.refl _ _

theorem execOpEcdsaKeygen_only (seq : ℕ) (inp : OpInput) (s : State) : Only (Part.finishJob ++ ([.feeds] : List Part)) s (after s (execOpEcdsaKeygen seq inp s)) := by
  unfold execOpEcdsaKeygen
  dsimp -proj only [after]
  refine execute_only (by decide +kernel) ?_
  intro _ _ _
  refine Only.then (nistKeygen_only ..) (by decide +kernel) ?_
  exact Only.refl _ _

theorem execOpEcdhKeygen_only (seq : ℕ) (inp : OpInput) (s : State) : Only (Part.finishJob ++ ([.feeds] : List Part)) s (after s (execOpEcdhKeygen seq inp s)) := by
  unfold execOpEcdhKeygen
  dsimp -proj only [after]
  refine execute_only (by decide +kernel) ?_
  intro _ _ _
  refine Only.then (nistKeygen_only ..) (by decide +kernel) ?_
  exact Only.refl _ _

theorem execOpEcdhDerive_only (seq : ℕ) (inp : OpInput) (s : State) : Only (Part.finishJob ++ ([.feeds] : List Part)) s (after s (execOpEcdhDerive seq inp s)) := by
  unfold execOpEcdhDerive
  dsimp -proj only [after]
  refine execute_only (by decide +kernel) ?_
  intro _ _ _
  refine Only.then (derive_only ..) (by decide +kernel) ?_
  exact Only.refl _ _

theorem seedKeygen_only (cls : ℕ) (pub : ℕ → Bytes → Bytes) (s : State) (j : Job) (x4 : OpIn) : Only (Part.finishJob) s (seedKeygen cls pub s j x4) := by
  unfold seedKeygen
  try dsimp -proj only
  refine Only.then (ends_only ..) (by decide +kernel) ?_
  exact Only.refl _ _

theorem execOpEddsaKeygen_only (seq : ℕ) (inp : OpInput) (s : State) : Only (Part.finishJob ++ ([.feeds] : List Part)) s (after s (execOpEddsaKeygen seq inp s)) := by
  unfold execOpEddsaKeygen
  dsimp -proj only [after]
  refine execute_only (by decide +kernel) ?_
  intro _ _ _
  refine Only.then (seedKeygen_only ..) (by decide +kernel) ?_
  exact Only.refl _ _

theorem execOpEddsaSign_only (seq : ℕ) (inp : OpInput) (s : State) : Only (Part.finishJob ++ ([.feeds] : List Part)) s (after s (execOpEddsaSign seq inp s)) := by
  unfold execOpEddsaSign
  dsimp -proj only [after]
  refine execute_only (by decide +kernel) ?_
  intro _ _ _
  refine Only.then (ends_only ..) (by decide +kernel) ?_
  exact Only.refl _ _

theorem execOpEddsaVerify_only (seq : ℕ) (inp : OpInput) (s : State) : Only (Part.finishJob ++ ([.feeds] : List Part)) s (after s (execOpEddsaVerify seq inp s)) := by
  unfold execOpEddsaVerify
  dsimp -proj only [after]
  refine execute_only (by decide +kernel) ?_
  intro _ _ _
  refine publicKey_only (by decide +kernel) ?_ ?_
  · exact Only.refl _ _
  · intro _
    refine Only.then (ends_only ..) (by decide +kernel) ?_
    exact Only.refl _ _

theorem execOpXdhKeygen_only (seq : ℕ) (inp : OpInput) (s : State) : Only (Part.finishJob ++ ([.feeds] : List Part)) s (after s (execOpXdhKeygen seq inp s)) := by
  unfold execOpXdhKeygen
  dsimp -proj only [after]
  refine execute_only (by decide +kernel) ?_
  intro _ _ _
  refine Only.then (seedKeygen_only ..) (by decide +kernel) ?_
  exact Only.refl _ _

theorem execOpXdhDerive_only (seq : ℕ) (inp : OpInput) (s : State) : Only (Part.finishJob ++ ([.feeds] : List Part)) s (after s (execOpXdhDerive seq inp s)) := by
  unfold execOpXdhDerive
  dsimp -proj only [after]
  refine execute_only (by decide +kernel) ?_
  intro _ _ _
  refine Only.then (derive_only ..) (by decide +kernel) ?_
  exact Only.refl _ _

theorem execOpXdhEphemeral_only (seq : ℕ) (inp : OpInput) (s : State) : Only (Part.finishJob ++ ([.feeds] : List Part)) s (after s (execOpXdhEphemeral seq inp s)) := by
  unfold execOpXdhEphemeral
  dsimp -proj only [after]
  refine execute_only (by decide +kernel) ?_
  intro _ _ _
  split
  · refine Only.then (ends_only ..) (by decide +kernel) ?_
    exact Only.refl _ _
  · refine Only.then (ends_only ..) (by decide +kernel) ?_
    exact Only.refl _ _

theorem execOpDigest_only (seq : ℕ) (inp : OpInput) (s : State) : Only (Part.finishJob ++ ([.feeds, .scans] : List Part)) s (after s (execOpDigest seq inp s)) := by
  unfold execOpDigest
  dsimp -proj only [after]
  refine execute_only (by decide +kernel) ?_
  intro _ _ _
  refine Only.then (ends_only ..) (by decide +kernel) ?_
  refine Only.then (streamIn_only ..) (by decide +kernel) ?_
  exact Only.refl _ _

theorem execOpHmacVerify_only (seq : ℕ) (inp : OpInput) (s : State) : Only (Part.finishJob ++ ([.feeds, .scans] : List Part)) s (after s (execOpHmacVerify seq inp s)) := by
  unfold execOpHmacVerify
  dsimp -proj only [after]
  refine execute_only (by decide +kernel) ?_
  intro _ _ _
  refine Only.then (ends_only ..) (by decide +kernel) ?_
  refine Only.then (streamIn_only ..) (by decide +kernel) ?_
  exact Only.refl _ _

theorem execOpKmac_only (seq : ℕ) (inp : OpInput) (s : State) : Only (Part.finishJob ++ ([.feeds, .scans] : List Part)) s (after s (execOpKmac seq inp s)) := by
  unfold execOpKmac
  dsimp -proj only [after]
  refine execute_only (by decide +kernel) ?_
  intro _ _ _
  refine Only.then (ends_only ..) (by decide +kernel) ?_
  refine Only.then (streamIn_only ..) (by decide +kernel) ?_
  exact Only.refl _ _

theorem execOpCrc_only (seq : ℕ) (inp : OpInput) (s : State) : Only (Part.finishJob ++ ([.feeds, .scans] : List Part)) s (after s (execOpCrc seq inp s)) := by
  unfold execOpCrc
  dsimp -proj only [after]
  refine execute_only (by decide +kernel) ?_
  intro _ _ _
  split
  · exact Only.refl _ _
  · refine Only.then (ends_only ..) (by decide +kernel) ?_
    refine Only.then (streamIn_only ..) (by decide +kernel) ?_
    exact Only.refl _ _

theorem fillSlot_only (s : State) (j : Job) (n : ℕ) (key : Bytes) : Only [.tk .slots] s (fillSlot s j n key) := by
  unfold fillSlot
  try dsimp -proj only
  split
  · exact Only.refl _ _
  · refine Only.then (modSlot_only ..) (by decide +kernel) ?_
    exact Only.refl _ _

theorem createKey_only (s : State) (j : Job) (key : Bytes) : Only (Part.finishJob ++ ([.en .shed, .hl .objs] : List Part)) s (createKey s j key) := by
  unfold createKey
  try dsimp -proj only
  split
  · refine Only.then (ends_only ..) (by decide +kernel) ?_
    exact Only.refl _ _
  · split
    · refine Only.then (ends_only ..) (by decide +kernel) ?_
      refine Only.then (fillSlot_only ..) (by decide +kernel) ?_
      exact Only.refl _ _
    · refine Only.then (awaitWrite_only ..) (by decide +kernel) ?_
      refine Only.then (ends_only ..) (by decide +kernel) ?_
      refine Only.then (fillSlot_only ..) (by decide +kernel) ?_
      exact Only.refl _ _

theorem execOpKeyGenerate_only (seq : ℕ) (inp : OpInput) (s : State) : Only (Part.finishJob ++ ([.en .shed, .hl .objs, .feeds] : List Part)) s (after s (execOpKeyGenerate seq inp s)) := by
  unfold execOpKeyGenerate
  dsimp -proj only [after]
  refine execute_only (by decide +kernel) ?_
  intro _ _ _
  refine Only.then (createKey_only ..) (by decide +kernel) ?_
  exact Only.refl _ _

theorem execOpKeyImport_only (seq : ℕ) (inp : OpInput) (s : State) : Only (Part.finishJob ++ ([.en .shed, .hl .objs, .feeds] : List Part)) s (after s (execOpKeyImport seq inp s)) := by
  unfold execOpKeyImport
  dsimp -proj only [after]
  refine execute_only (by decide +kernel) ?_
  intro _ _ _
  refine Only.then (createKey_only ..) (by decide +kernel) ?_
  exact Only.refl _ _

theorem execOpKeyUnwrap_only (seq : ℕ) (inp : OpInput) (s : State) : Only (Part.finishJob ++ ([.en .shed, .hl .objs, .feeds] : List Part)) s (after s (execOpKeyUnwrap seq inp s)) := by
  unfold execOpKeyUnwrap
  dsimp -proj only [after]
  refine execute_only (by decide +kernel) ?_
  intro _ _ _
  split
  · refine Only.then (createKey_only ..) (by decide +kernel) ?_
    exact Only.refl _ _
  · refine Only.then (ends_only ..) (by decide +kernel) ?_
    exact Only.refl _ _

theorem execOpKeyDerive_only (seq : ℕ) (inp : OpInput) (s : State) : Only (Part.finishJob ++ ([.en .shed, .hl .objs, .feeds] : List Part)) s (after s (execOpKeyDerive seq inp s)) := by
  unfold execOpKeyDerive
  dsimp -proj only [after]
  refine execute_only (by decide +kernel) ?_
  intro _ _ _
  refine Only.then (createKey_only ..) (by decide +kernel) ?_
  exact Only.refl _ _

theorem execOpBlobRegister_only (seq : ℕ) (inp : OpInput) (s : State) : Only (Part.finishJob ++ ([.en .shed, .hl .objs, .feeds] : List Part)) s (after s (execOpBlobRegister seq inp s)) := by
  unfold execOpBlobRegister
  dsimp -proj only [after]
  refine execute_only (by decide +kernel) ?_
  intro _ _ _
  split
  · refine Only.then (ends_only ..) (by decide +kernel) ?_
    exact Only.refl _ _
  · split
    · refine Only.then (ends_only ..) (by decide +kernel) ?_
      refine Only.then (fillBlob_only ..) (by decide +kernel) ?_
      exact Only.refl _ _
    · refine Only.then (awaitWrite_only ..) (by decide +kernel) ?_
      refine Only.then (ends_only ..) (by decide +kernel) ?_
      refine Only.then (fillBlob_only ..) (by decide +kernel) ?_
      exact Only.refl _ _

theorem markJob_only (s : State) (j : Job) : Only (Part.finishJob ++ ([.en .shed, .hl .objs] : List Part)) s (markJob s j) := by
  unfold markJob
  try dsimp -proj only
  split
  · refine Only.then (ends_only ..) (by decide +kernel) ?_
    exact Only.refl _ _
  · refine Only.then (awaitWrite_only ..) (by decide +kernel) ?_
    refine Only.then (ends_only ..) (by decide +kernel) ?_
    exact Only.refl _ _

theorem execOpKeyRestrict_only (seq : ℕ) (inp : OpInput) (s : State) : Only (Part.finishJob ++ ([.en .shed, .hl .objs, .feeds] : List Part)) s (after s (execOpKeyRestrict seq inp s)) := by
  unfold execOpKeyRestrict
  dsimp -proj only [after]
  refine execute_only (by decide +kernel) ?_
  intro _ _ _
  refine Only.then (markJob_only ..) (by decide +kernel) ?_
  exact Only.refl _ _

theorem execOpKeyRevoke_only (seq : ℕ) (inp : OpInput) (s : State) : Only (Part.finishJob ++ ([.en .shed, .hl .objs, .feeds] : List Part)) s (after s (execOpKeyRevoke seq inp s)) := by
  unfold execOpKeyRevoke
  dsimp -proj only [after]
  refine execute_only (by decide +kernel) ?_
  intro _ _ _
  refine Only.then (markJob_only ..) (by decide +kernel) ?_
  exact Only.refl _ _

end Sys2Proof.Machine
end

