-- ==== Sys2Proof/Tests/Slice0.lean ====
section
/-! SUPPORT. Slice0.lean: tests of the model. Each theorem is about one step on a small state, or shows that the hypotheses of a statement
can be met together. -/

set_option Elab.async false

namespace Sys2Proof.Tests

open Sys2Proof Sys2Proof.Machine Sys2Proof.Claims

/-! ## Small states -/

/-- What every listed unit and an unlisted one satisfy, every unit does. -/
theorem smGet_all {α : Type} {d : α} {m : SMap α} {P : α → Prop} (hd : P d) (h : ∀ e ∈ m, P e.2) (k : Nat) : P (smGet d m k) := by
  induction m with
  | nil => exact hd
  | cons e r ih =>
    obtain ⟨j, v⟩ := e
    simp only [smGet]
    split
    · exact h (j, v) (.head _)
    · exact ih fun x hx => h x (.tail _ hx)

/-- Paddock 2's record: VF 1, cores 3 to 5, stall L00, queues 8 to 11, slots 100 to 131, one cache unit. -/
def pad2 : PadRec :=
  { present := true, poolUse := true, hostLoad := true, energyShare := 64, inflight := 16, stallMap := 1, coreMap := 0x38, msixPerVf := 4, yardCells := 4096,
    cacheUnits := 1, tkBase := 100, tkCount := 32, queueBase := 8, queueCount := 4, vfMap := 1, permit := 0xFFFFFFFF }

/-- Paddock 0's record: queues 0 to 3, slots 0 to 31. -/
def pad0 : PadRec :=
  { present := true, energyShare := 64, inflight := 16, msixPerVf := 4, yardCells := 4096, tkBase := 0, tkCount := 32, queueBase := 0, queueCount := 4, permit := 0xFFFFFFFF }

/-- A part that runs with two paddocks, its gate open, the PF and VF 1 mastering, every shed ON. -/
def up : State :=
  { sys := { porstN := true, bootState := 1, stage := 16, wait := .done }, port := { linkUp := true },
    fns := [(0, { present := true, bme := true, msixEn := true, vecs := [(0, { mask := false })] }),
            (1, { present := true, bme := true, msixEn := true, vecs := [(0, { mask := false })] })],
    plan := { loaded := true, part := { capUf := 47000, vNomMv := 12000, vMinMv := 6000, divPpm := 50000 }, pads := [(0, pad0), (2, pad2)] }, jn := { opened := true, bank0 := true, bank1 := true, held := true, fromFlush := false },
    en := { shed := (List.range 24).map fun i => (i, 2), convs := [2400], calValid := true, reserveLow := false }, tk := { unsealed := true },
    rng := { ready := true, katOk := true, healthy := 0xFFFF, store := 64 } }

theorem up_calm : Calm up := ⟨⟨rfl, rfl⟩, fun _ => rfl⟩

/-- A part held in reset. -/
def held : State := State.reset

/-! ## Boot and resets -/

/-- A boot in which both strap balls read low and both supplies measure otherwise. -/
def wrongSupply : BootIn := { vddq0Low := true, vddq1Low := true }

/-- The first state with slot 0 of another life-cycle state. -/
def heldAs (st : Nat) : State := { held with lc := { slots := [(0, { rawSlot with state := st, codeword := codewordOf st, crc := crc32c (slotBytes { rawSlot with state := st }) })] } }

theorem test_wit_ColdBootStops :
    (∀ s ∈ [held, heldAs 2], s.sys.porstN = false ∧ s.en.flushActive = false ∧ s.fc.out = [] ∧ s.fc.escNow = [] ∧ s.fc.retireNow = [] ∧
      s.sys.xtal = true ∧ s.sys.pllLocked = true) ∧
    supplyWrong wrongSupply 0 = true ∧ supplyWrong wrongSupply 1 = true ∧ supplyWrong {} 0 = false ∧
    (decodeLedger { held with lc := { slots := [(0, rawSlot), (1, rawSlot)] } }).lc.state = 7 ∧ (decodeLedger (heldAs 5)).lc.state = 5 ∧ (decodeLedger (heldAs 2)).lc.state = 2 ∧
    (heldAs 2).hl.images = [] := by decide +kernel

theorem test_wit_ColdBootStops_targets : ∀ n, ({} : BootIn).targets.getD n 0 ≠ 4 := by
  intro n
  match n with
  | 0 | 1 | 2 | 3 | 4 | 5 | 6 | 7 => decide
  | n + 8 => simp

theorem test_wit_FirstBootRuns : CleanBoot {} := ⟨by decide, by decide, test_wit_ColdBootStops_targets, by decide, by decide +kernel⟩

theorem test_wit_FirstBootRuns_blank : BlankPart held ∧ BlankPart { held with sys := { porstN := true, xtal := false, wait := .clock } } ∧
    BlankPart { held with sys := { porstN := true, pllLocked := false, wait := .clock } } := by unfold BlankPart; decide +kernel

theorem test_wit_ColdBootStops_waits :
    (∀ e ∈ [(false, true), (true, false)], let s : State := { held with sys := { xtal := e.1, pllLocked := e.2 } }
      s.sys.porstN = false ∧ ¬(s.sys.xtal = true ∧ s.sys.pllLocked = true) ∧ (decodeLedger s).lc.state ≠ 7 ∧ (decodeLedger s).lc.state ≠ 5 ∧ FaultsClear s) ∧
    (let s : State := { held with jn := { held := true } }; s.jn.held = true ∧ FaultsClear s ∧ ({} : BootIn).banksOk = true) := by unfold FaultsClear; decide +kernel

theorem test_wit_ColdResetKeeps : up.jobs.all isLive = true ∧ ({ up with jobs := [{ phase := .running }, {}] } : State).jobs.all isLive = true := by decide

/-- The part of `up` in a power-fail flush. -/
def flushing (wait : Bool) : State := { up with en := { up.en with flushActive := true }, jn := { up.jn with flushWait := wait } }

theorem test_wit_PowerFailFlush :
    canFlush held = false ∧ canFlush up = true ∧ ({ up with jobs := [{ phase := .running, stall := some 0 }] } : State).jobs.all isLive = true ∧
    (let s := flushing false; s.en.flushActive = true ∧ s.jn.flushWait = false ∧ s.jn.bootAfterFlush = none ∧ s.sys.xtal = true ∧ s.sys.pllLocked = true ∧
      s.plan.part.effPct ≠ 0) ∧ 7000 + 500 ≤ 7500 ∧ 7499 < 7000 + 500 ∧ (flushing true).jn.flushWait = true := by decide +kernel

theorem test_wit_PowerFailFlush_capacitance :
    bankFell (flushing false) = false ∧
    (let s : State := { flushing false with en := { up.en with flushActive := true, flushConv := 2400, convs := [1200] } }
     bankFell s = true ∧ s.en.flushActive = true ∧ s.jn.flushWait = false ∧ s.jn.bootAfterFlush = none ∧ s.sys.xtal = true ∧ s.sys.pllLocked = true) ∧
    (let s : State := { flushing false with sys := { up.sys with xtal := false } }; ¬(s.sys.xtal = true ∧ s.sys.pllLocked = true) ∧ s.jn.bootAfterFlush = none) := by
  decide +kernel

/-- Held for a clock. -/
def clockHeld (xtal pll : Bool) : State := { held with sys := { porstN := true, xtal := xtal, pllLocked := pll, wait := .clock } }

theorem test_wit_ClockLossAndReturn :
    (let s : State := { up with sys := { up.sys with stage := 12 } }; s.sys.xtal = true ∧ s.sys.porstN = true ∧ s.en.flushActive = false ∧ s.sys.stage < 13) ∧
    (up.sys.xtal = true ∧ canFlush up = true ∧ up.fc.out = [] ∧ up.jobs.all isLive = true) ∧ (held.sys.xtal = true ∧ held.sys.porstN = false) ∧
    (∀ e ∈ [(false, true), (false, false), (true, false)], (clockHeld e.1 e.2).sys.wait = .clock ∧ (clockHeld e.1 e.2).fc.out = [] ∧
      (clockHeld e.1 e.2).en.flushActive = false ∧ (clockHeld e.1 e.2).sys.xtal = e.1 ∧ (clockHeld e.1 e.2).sys.pllLocked = e.2) ∧
    (let s : State := { flushing false with sys := { up.sys with xtal := false, pllLocked := false } }; s.sys.wait ≠ .clock ∧ s.en.flushActive = true ∧ s.sys.xtal = false ∧ s.sys.pllLocked = false) := by decide +kernel

theorem test_wit_ClockLossAndReturn_states :
    (let s := flushing false; s.sys.xtal = true ∧ s.sys.porstN = true ∧ s.en.flushActive = true ∧ FaultsClear s) ∧ FaultsClear up ∧
    (∀ st ∈ [0, 2, 5], let s : State := { heldAs st with sys := { porstN := true, xtal := false, wait := .clock } }
      s.sys.wait = .clock ∧ s.sys.stage = 0 ∧ s.sys.xtal = false ∧ s.sys.pllLocked = true ∧ FaultsClear s ∧ s.en.flushActive = false ∧ (decodeLedger s).lc.state = st ∧
      s.hl.images = []) ∧
    (let s : State := { held with sys := { porstN := true, xtal := false, wait := .clock, stage := 4 }, lc := { state := 2 } }
     s.sys.wait = .clock ∧ s.sys.stage ≠ 0 ∧ s.sys.pllLocked = true ∧ s.lc.state ≠ 0 ∧ s.hl.images = [] ∧ FaultsClear s) ∧
    (let s : State := { held with sys := { porstN := true, xtal := false, pllLocked := false, wait := .clock, stage := 4 } }
     s.sys.wait = .clock ∧ s.sys.stage ≠ 0 ∧ s.sys.pllLocked = false ∧ FaultsClear s) ∧
    (let s : State := { heldAs 2 with sys := { porstN := true, pllLocked := false, wait := .clock } }
     s.sys.wait = .clock ∧ s.sys.stage = 0 ∧ s.sys.xtal = true ∧ s.sys.pllLocked = false ∧ (decodeLedger s).lc.state = 2 ∧ FaultsClear s) := by
  unfold FaultsClear; decide +kernel

theorem test_wit_WarmReset_apply :
    (dirNow up).fresh = [] ∧ up.plan.loaded = true ∧ bankSuffices up = true ∧ up.sys.bootState = 1 ∧ gateMayOpen up = true ∧
    (let s : State := { up with plan := { loaded := true } }; (dirNow s).fresh = [] ∧ s.plan.loaded = true ∧ bankSuffices s = false) ∧
    (let s : State := { up with plan := {} }; (dirNow s).fresh = [] ∧ s.plan.loaded = false) := by decide +kernel

theorem test_wit_WarmReset_held : let s : State := { held with sys := { porstN := true, stage := 9 } }
    s.en.flushActive = false ∧ s.sys.bootState = 0 ∧ 9 ≤ s.sys.stage ∧ s.sys.porstN = true ∧ NothingDue s ∧ ∀ p, (padAt s p).replayOwed = false :=
  ⟨rfl, rfl, by decide, rfl, ⟨rfl, rfl⟩, fun _ => rfl⟩

theorem test_wit_WarmReset :
    (up.fc.escNow = [] ∧ up.fc.retireNow = [] ∧ up.sys.bootState = 1 ∧ up.sys.deepSleep = false ∧ up.en.flushActive = false ∧
      smWf {} ({ up with cores := [(3, { state := 2 })] } : State).cores = true ∧ min 0 2 = 0 ∧ min 1 2 = 1 ∧ min 5 2 = 2) ∧
    (regsUp up 0 = true ∧ bits (0xA5#64).toNat 0 8 = 0xA5 ∧ bits (0xA4#64).toNat 0 8 ≠ 0xA5) ∧
    (let s : State := { held with sys := { porstN := true, stage := 9 } }; s.sys.bootState = 0 ∧ 9 ≤ s.sys.stage ∧ s.sys.porstN = true) := by decide +kernel

theorem test_wit_PaddockReset :
    (regsUp up 0 = true ∧ up.sys.bootState = 1 ∧ bits (0x5A02#64).toNat 8 8 = 0x5A ∧ bits (0x5A02#64).toNat 0 5 = 2 ∧ padPresent up 2 = true ∧
      bits (0x5A00#64).toNat 0 5 = 0 ∧ bits (0x5A1F#64).toNat 0 5 = 31 ∧ padPresent up 31 = false ∧ bits (0x5B02#64).toNat 8 8 ≠ 0x5A) ∧
    NothingDue up ∧ ∀ q, (padAt up q).replayOwed = false := ⟨by decide +kernel, ⟨rfl, rfl⟩, fun _ => rfl⟩

theorem test_wit_HostInterfaceResets :
    (up.sys.porstN = true ∧ up.en.flushActive = false ∧ (∀ st ∈ [1, 2, 3, 4], (qAt { up with queues := [(8, { state := st })] } 8).state ∈ [1, 2, 3, 4]) ∧
      (qAt up 8).state = 0) ∧
    (let s : State := { up with sys := { up.sys with perstN := false } }; s.sys.perstN = false) ∧
    (cfgReaches up 0 = true ∧ cfgReaches up 1 = true ∧
      (let x := qAt { up with queues := [(8, { state := 1, fn := 1 })] } 8; x.fn = 1 ∧ x.bx = false ∧ x.state ∈ [1, 2, 3, 4])) ∧
    (up.sys.refclk = true ∧ up.port.linkState < 2 ∧ up.fc.out = []) ∧ 2 ≤ ({ up with port := { linkUp := true, linkState := 2 } } : State).port.linkState ∧
    (let s : State := { up with sys := { up.sys with refclk := false } }; s.sys.refclk = false ∧ s.sys.porstN = true ∧ s.en.flushActive = false) := by
  decide +kernel

theorem test_wit_HostInterfaceResets_twin :
    up.plan.part.twin = false ∧ (let s : State := { up with port := { linkUp := true, linkState := 2 } }; s.sys.refclk = true ∧ FaultsClear s ∧ s.en.flushActive = false) ∧
    (let s : State := { up with sys := { up.sys with perstN := false } }; s.sys.porstN = true ∧ s.en.flushActive = false) := by
  unfold FaultsClear; decide +kernel

/-- Boot waiting. -/
def waiting (w : BootWait) : State := { up with sys := { up.sys with bootState := 0, stage := 11, wait := w }, jn := { held := true }, rng := {} }

theorem test_wit_BootWaitsEnd :
    (∀ w ∈ [BootWait.reserve, .powerFail, .twin], (waiting w).en.flushActive = false ∧ (waiting w).fc.escNow = [] ∧ (waiting w).fc.retireNow = [] ∧
      (waiting w).sys.wait = w) ∧
    (let s : State := { waiting .reserve with plan := { loaded := true } }; s.plan.loaded = true ∧ bankSuffices s = false ∧ s.sys.wait = .reserve) ∧
    (let s : State := { waiting .reserve with sys := { (waiting .reserve).sys with powerFailN := false } }; bankSuffices s = true ∧ s.sys.powerFailN = false ∧ s.sys.wait = .reserve) ∧
    (let s := waiting .powerFail; s.jn.held = true ∧ s.jn.fromFlush = false ∧ ({} : BootIn).banksOk = true ∧ s.hl.flush.present = false ∧ s.rng = {} ∧
      ({ kat := false } : BootIn).kat = false) ∧
    (let s := waiting .twin; s.tt.mismatch = false ∧ s.sys.straps.twinSide = false ∧ s.sys.heldWarm = none) ∧
    (let s : State := { waiting .twin with plan := { loaded := true, part := { twin := true } } }; s.sys.wait = .twin ∧ s.plan.part.twin = true ∧ true ≠ s.sys.straps.twinSide ∧ s.jn.role ≠ 3 ∧ s.tt.mismatch = false ∧ s.sys.heldWarm = none ∧
      s.jn.term < 1) := by decide +kernel

theorem test_wit_BootWaitsEnd_gate : let s : State := { up with sys := { up.sys with wait := .reserve } }
    s.sys.wait = .reserve ∧ s.sys.bootState = 1 ∧ bankSuffices s = true ∧ s.en.flushActive = false ∧ NothingDue s := by unfold NothingDue; decide +kernel

/-! ## Host interface -/

/-- `up` with one function's fields changed. -/
def upFn (n : Nat) (g : Fn → Fn) : State := modFn up n g

/-- `up` with a vector of VF 1. -/
def upVec (x : Vec) (g : Fn → Fn) : State := upFn 1 fun f => g { f with vecs := [(0, x)] }

theorem test_wit_ConfigurationRequests :
    linkServes { up with port := {} } = false ∧
    (let s : State := { up with sys := { porstN := true, stage := 9 } }; linkServes s = true ∧ cfgUp s = false) ∧
    (cfgUp up = true ∧ fnPresent up 2 = false) ∧ cfgReaches up 0 = true ∧ cfgReaches up 1 = true ∧
    (hasBit (3 % 2 ^ 32) 2 = false ∧ 0x103 % 2 ^ 32 % 4 = 3 ∧ hasBit (0x40000000 % 2 ^ 32) 30 = true ∧ hasBit (0x40000000 % 2 ^ 32) 31 = false) := by
  decide +kernel

theorem test_wit_FunctionsComeAndSleep :
    (cfgReaches up 0 = true ∧ up.port.vfEnable = false ∧ up.sys.bootState ≤ 1 ∧ min 65 64 = 64 ∧ min 1 64 = 1) ∧
    (let s : State := { up with port := { linkUp := true, vfEnable := true, numVfs := 1 }, queues := [(8, { state := 1, fn := 1 })] }
     cfgReaches s 0 = true ∧ s.port.vfEnable = true ∧ 0 < s.port.numVfs ∧ 0 < (qAt s 8).fn ∧ (qAt s 8).fn < 65 ∧ (fnAt s 1).present = true ∧
       (qAt s 8).bx = false ∧ (qAt s 8).state ∈ [1, 2, 3, 4]) ∧
    (cfgReaches (upFn 1 fun f => { f with dState := 3 }) 1 = true ∧ (fnAt (upFn 1 fun f => { f with dState := 3 }) 1).dState ≠ 0) := by decide +kernel

theorem test_wit_InterruptMessages :
    (let s := upVec { mask := true, pba := true } id; cfgReaches s 1 = true ∧ (fnAt s 1).fnMask = false ∧ smWf {} (fnAt s 1).vecs = true ∧
      (vecAt s 1 0).pba = true ∧ (fnAt s 1).msixEn = true ∧ mayIssue s 1 = true) ∧
    (regsUp up 1 = true ∧ padOfFn up 1 = some 2 ∧ 0 < vecTable up 1) ∧
    (thresholdMet (upVec { mask := false, pending := 1, cntMax := 2, timeUs := 8 } id) { mask := false, pending := 1, cntMax := 2, timeUs := 8 } = false) ∧
    (let s := upVec { mask := false, pending := 3, cntMax := 9 } id
     let m := modVec s 1 0 fun y => { y with cntMax := bits (0x80002#64).toNat 0 11, timeUs := bits (0x80002#64).toNat 16 10 }
     thresholdMet m (vecAt m 1 0) = true ∧ (fnAt s 1).msixEn = true ∧ (fnAt s 1).fnMask = false ∧ (vecAt s 1 0).mask = false ∧ mayIssue s 1 = true) ∧
    (let s := upVec { mask := false, timerRun := true } id; (vecAt s 1 0).timerRun = true ∧ (vecAt s 1 0).mask = false ∧ (fnAt s 1).msixEn = true) ∧
    (let s := upVec { mask := true, timerRun := true } id; (vecAt s 1 0).timerRun = true ∧ (vecAt s 1 0).mask = true ∧ (fnAt s 1).msixEn = true) ∧
    (let s := upVec { wakeTimer := true, wakeEvent := true } fun f => { f with dState := 3, pmeEn := true }
     (vecAt s 1 0).wakeTimer = true ∧ (fnAt s 1).dState ≠ 0 ∧ s.sys.perstN = true ∧ (vecAt s 1 0).wakeEvent = true ∧ (fnAt s 1).pmeEn = true) ∧
    (let s : State := { up with port := { linkUp := true, aspmL1 := true } }; s.port.linkUp = true ∧ s.port.aspmL1 = true) := by decide +kernel

theorem test_wit_InterruptMessages_others : ∀ w, w ≠ 0 → (vecAt (upVec { mask := true, pba := true } id) 1 w).pba = false := by
  intro w hw
  show (smGet {} [(0, ({ mask := true, pba := true } : Vec))] w).pba = false
  simp [smGet, Ne.symm hw]

/-- Core 3 with a window onto the 4 KiB at 0x1000, and a feed window of FIFO 0. -/
def windowed : State := { up with cores := [(3, { state := 2, windows := [{ num := 0, base := 0x1000, len := 0x1000, write := true },
  { num := 1, feed := true, base := 0, len := 0x1000, write := true }] })] }

theorem test_wit_BarAccesses :
    (∀ e ∈ [(0, 0), (1, 2)], regsUp up e.1 = true ∧ padOfFn up e.1 = some e.2) ∧ (∀ e ∈ [(0, 0), (1, 2)], regsUp windowed e.1 = true ∧ padOfFn windowed e.1 = some e.2) ∧
    (∀ e ∈ [(0x8008, 2), (0x800A, 8), (0x8009, 4), (0x8008, 16)], regAligned e.1 e.2 = false) ∧ (1 : Nat) ≠ 0 ∧ (0 : Nat) < 8 ∧ (7 : Nat) < 8 ∧
    accessInvalid up 1 0 0x8008 2 true = true ∧ accessInvalid up 1 0 0x8008 2 false = true ∧
    (hasBit (padRec windowed 2).coreMap 3 = true ∧ memWindow windowed 3 0x1000 4 true = true ∧ memWindow windowed 3 0x1FFC 4 true = true ∧
      memWindow windowed 3 0x1FFD 4 true = false ∧ (memWrite .host tBytes 5 (coreAt windowed 3).mem 0x1000 [1#8, 2#8, 3#8, 4#8]).2 = 0 ∧
      memWindow windowed 3 0x1000 8 false = true) ∧
    inWindow windowed 1 0x300000 8 false = false ∧
    (feedWindow windowed 2 0 true = true ∧ (feedAt windowed 32).entries.length < 2048) ∧
    (let s : State := { windowed with feeds := [(32, { entries := List.replicate 2048 {} })] }; feedWindow s 2 0 true = true ∧ 2048 ≤ (feedAt s 32).entries.length) := by
  decide +kernel

theorem test_wit_BarAccesses_checks :
    (2 : Nat) < 16 ∧ padOfCore up 2 ≠ some 2 ∧ accessInvalid up 1 2 0 8 false = false ∧ aerMasked (fnAt up 1).cfg 4 = false ∧ (1 : Nat) < 65 ∧
    (fnAt (upFn 1 fun f => { f with cfg := { f.cfg with ecrcChk := true } }) 1).cfg.ecrcChk = true ∧ hasBit (0xA0000000 % 2 ^ 32) 15 = false ∧
    hasBit (0x8000 % 2 ^ 32) 15 = true := by decide +kernel

/-- `up` with queue 8 of VF 1 enabled, and a job of it. -/
def oneJob (j : Job) : State := { up with queues := [(8, { state := 1, fn := 1, p := 3, a := 1 })], jobs := [{ j with seq := 5, queue := 8, paddock := 2 }] }

theorem test_wit_FailedHostReads :
    (∀ b ∈ [none, some 1], let s : State := { up with queues := [(8, { state := 1, fn := 1, p := 3, a := 1, fetchTried := b })] }
      (qAt s 8).state = 1 ∧ (qAt s 8).bx = false ∧ (qAt s 8).fetchTried = b ∧ nextFetch (qAt s 8) = 1 ∧ (qAt s 8).fetchFailed = none ∧
      (qAt s 8).copies.length < dist (qAt s 8).k (qAt s 8).a (qAt s 8).p ∧ s.en.flushActive = false ∧
      aerMasked (fnAt s 1).cfg (aerOf 0) = false) ∧
    (∀ e ∈ [(false, false), (true, true), (true, false)], let s := oneJob { phase := .running, readFailed := e.1, issued := e.2 }
      jobOf s 5 = some { seq := 5, queue := 8, paddock := 2, phase := .running, readFailed := e.1, issued := e.2 } ∧ s.en.flushActive = false) ∧
    (∀ b, let s : State := { up with cores := [(3, { state := 1, loading := some { source := 1, tried := b } })] }
      (coreAt s 3).loading = some { source := 1, tried := b } ∧ (coreAt s 3).state ≠ 0) := by decide +kernel

theorem test_wit_FailedHostReads_calm (j : Job) : Calm (oneJob j) := ⟨⟨rfl, rfl⟩, fun _ => rfl⟩

/-! ## Queues and the gate -/

/-- `up` with queue 8 of VF 1 as given. -/
def upQ (x : Queue) : State := { up with queues := smSet {} [] 8 x }

/-- A running queue of VF 1 with entries 1 and 2 and a copy of entry 1. -/
def headQ (b : Bytes) : Queue := { state := 1, fn := 1, p := 3, a := 1, copies := [(1, b)] }

def nop : Desc := { version := 2 }

/-- An encapsulation, which needs randomness. -/
def encaps : Desc :=
  { opcode := 0x0101, version := 2, paramSet := 1, in0Addr := 0x1000, in0Len := 800, out0Addr := 0x4000, out0Cap := 768, out1Addr := 0x5000, out1Cap := 32 }

theorem test_wit_DoorbellMovesP :
    ({ up with sys := { up.sys with deepSleep := true } } : State).sys.deepSleep = true ∧
    (∀ x ∈ [({ state := 1, fn := 1, p := 3 } : Queue), { state := 2, fn := 1, p := 3 }, { state := 5, fn := 1 }, { state := 1, fn := 1, standby := true },
        { state := 2, fn := 1, standby := true }, { state := 4, pend := some { fn := 1 } }, {}, { state := 3, fn := 1 }, { state := 1, fn := 0 }, { state := 1, fn := 1, bx := true },
        { state := 4, pend := some { fn := 0 } }],
      regsUp (upQ x) 1 = true ∧ padOfFn (upQ x) 1 = some 2 ∧ bellQueue (upQ x) 1 0 = some 8 ∧ qAt (upQ x) 8 = x) ∧ 0 % 8 = 0 := by decide +kernel

theorem test_wit_DoorbellMovesP_held :
    (∀ x ∈ [({ state := 5, fn := 0, remembered := 4, pend := some { fn := 1 } } : Queue), { state := 5, fn := 1, remembered := 4, pend := some { fn := 0 } },
        { state := 5, fn := 1, remembered := 1 }, { state := 5, fn := 1, remembered := 1, standby := true }],
      regsUp (upQ x) 1 = true ∧ padOfFn (upQ x) 1 = some 2 ∧ bellQueue (upQ x) 1 0 = some 8 ∧ qAt (upQ x) 8 = x) ∧
    ((some { fn := 1 } : Option PendEnable).any fun e => e.fn == 1) = true ∧ (∀ e, some ({ fn := 0 } : PendEnable) = some e → e.fn ≠ 1) := by
  refine ⟨by decide +kernel, rfl, fun e h => ?_⟩
  cases h
  decide

theorem test_wit_DoorbellMovesP_values :
    BellValid { state := 1, k := 4, p := 3 } 16 ∧ ¬BellValid { state := 1, k := 4, p := 3 } 17 ∧ ¬BellValid { state := 1, k := 4, p := 3 } 2 := by
  unfold BellValid; decide

/-- `up` with queue 8 at the gate, holding a copy of an entry. -/
def atGate (b : Bytes) (g : State → State) : State := g (upQ (headQ b))

theorem test_wit_GateEvaluatesInOrder :
    (let s := upQ { headQ [] with copies := [] }; (qAt s 8).state = 1 ∧ (qAt s 8).bx = false ∧ mayIssue s 1 = true ∧ (qAt s 8).standby = false ∧
      dist 4 1 1 < dist 4 1 3 ∧ dist 4 1 2 < dist 4 1 3 ∧ dist 4 1 2 < 64 ∧ (qAt s 8).copies = []) ∧
    (∀ b ∈ [descBytes nop, descBytes encaps, []], let s := atGate b id; gateRuns s = true ∧ nextDeferred s = none ∧ nextInTurn s = some 8 ∧
      padOfQueue s 8 = some 2 ∧ (qAt s 8).fetchFailed ≠ some (qAt s 8).a ∧ ((qAt s 8).copies.find? fun k => k.1 == (qAt s 8).a) = some (1, b)) ∧
    (let s := upQ { headQ [] with defer := 2, recheck := true, headDeferred := true }; gateRuns s = true ∧ nextDeferred s = some 8) ∧
    (qAt (upQ { headQ [] with fetchFailed := some 1 }) 8).fetchFailed = some 1 ∧ (headQ []).a = 1 ∧ nextInTurn (upQ { headQ [] with fetchFailed := some 1 }) = some 8 ∧
    formCheck up (headQ []) 2 [] ≠ 0 ∧ formCheck up (headQ []) 2 (descBytes nop) = 0 ∧ formCheck up (headQ []) 2 (descBytes encaps) = 0 ∧
    parseDesc (descBytes encaps) = encaps ∧ algOf encaps = some 16 ∧ needsRandom encaps 16 = true ∧ gateKey up encaps 16 2 false = 0 := by decide +kernel

theorem test_wit_GateEvaluatesInOrder_tail :
    (let s := atGate (descBytes encaps) id; s.rng.stopped = false ∧ servingGen s 2 = none) ∧
    (let s := atGate (descBytes encaps) fun s => { s with rng := { s.rng with stopped := true, ready := false } }; s.rng.stopped = true ∧
      limitPasses s 2 = true ∧ energyPasses s = true ∧ gateRuns s = true) ∧
    (let s := atGate (descBytes encaps) fun s => modPad s 2 fun x => { x with caps := [(0, { drawn := true })], curGen := some 0 }
      ; s.rng.ready = true ∧ servingGen s 2 = some 0 ∧ limitPasses s 2 = true ∧ energyPasses s = true) ∧
    needsRandom nop ((algOf nop).getD 0) = false ∧ gateKey up nop ((algOf nop).getD 0) 2 false = 0 ∧
    gateKey up { encaps with opcode := 0x0102, keyRef := 0 } 16 2 false ≠ 0 ∧
    (let s := atGate (descBytes nop) fun s => { s with pl := { s.pl with applying := true } }; limitPasses s 2 = false ∧ gateRuns s = true) ∧
    (let s := atGate (descBytes nop) fun s => { s with en := { s.en with reserveLow := true } }; limitPasses s 2 = true ∧ energyPasses s = false) := by decide +kernel

theorem test_wit_GateEvaluatesInOrder_taken : let s := atGate (descBytes nop) id
    reserve s nop 0 2 = .taken none false s ∧ s.jobs = [] ∧ energyPasses s = true ∧ limitPasses s 2 = true := ⟨rfl, rfl, by decide +kernel, by decide +kernel⟩

/-- `up` with a job of queue 8 being written. -/
def writing (fixed role : Nat) : State :=
  { up with queues := [(8, headQ [])], jobs := [{ queue := 8, index := 1, paddock := 2, phase := .writing, fixed := fixed }], jn := { up.jn with role := role } }

theorem test_wit_AcceptanceIsTheJournalWrite :
    ∀ e ∈ [(0, 0), (0x0401, 0), (0, 1)], let s := writing e.1 e.2
      let j : Job := { queue := 8, index := 1, paddock := 2, phase := .writing, fixed := e.1 }
      s.en.flushActive = false ∧ j ∈ s.jobs ∧ j.queue = 8 ∧ j.phase = .writing ∧ j.sent = false ∧ j.issued = false ∧
      (∀ k ∈ s.jobs, k.queue = 8 → k.phase = .writing → k = j) ∧ s.jn.role = e.2 ∧ (qAt s 8).state = 1 ∧ s.fc.out = [] := by decide +kernel

theorem test_wit_AcceptanceIsTheJournalWrite_calm (f r : Nat) : Calm (writing f r) ∧ FaultsClear (writing f r) := ⟨⟨⟨rfl, rfl⟩, fun _ => rfl⟩, rfl, rfl, rfl⟩

theorem test_wit_AcceptanceIsTheJournalWrite_fenced : (writing 0 3).jn.role = 3 ∧ (writing 0 3).en.flushActive = false := ⟨rfl, rfl⟩

/-- `upQ` with the PF's and VF 1's staged queue set up. -/
def staged (x : Queue) (g : Fn → Fn) : State := modFn (upQ x) 1 fun f => g { f with qcRing := 0x10000, qcLog2 := 4, qcVector := 0 }

theorem test_wit_QueueCommands :
    (∀ x ∈ [({} : Queue), { state := 3, fn := 1 }, { state := 1, fn := 1 }, { state := 2, fn := 1 }, { state := 5, fn := 1, remembered := 1 },
        { state := 5, fn := 1, remembered := 2 }, { state := 4 }], let s := staged x id
      regsUp s 1 = true ∧ padOfFn s 1 = some 2 ∧ (fnAt s 1).cmdBusy = false ∧ padOfQueue s 8 = some 2 ∧ padOfQueue s 12 ≠ some 2 ∧ (qAt s 8) = x ∧
      stagedOk s 1 31 = true ∧ stagedOk s 1 32 = false ∧ (fnAt s 1).bme = true ∧ smWf {} s.queues = true ∧ s.jobs = [] ∧ (qAt s 8).heldBell = none ∧
      (qAt s 8).bx = false) ∧
    (fnAt (staged { state := 5, fn := 1 } fun f => { f with bme := false }) 1).bme = false ∧
    bits (0x1F00008#64).toNat 0 16 = 8 ∧ bits (0x1F00008#64).toNat 20 17 = 31 ∧ bits (0x2000008#64).toNat 20 17 = 32 ∧ bits (12#64).toNat 0 16 = 12 := by decide +kernel

theorem test_wit_QueueCommands_forget :
    (let s := staged { state := 5, fn := 1, forgetting := true } id; (qAt s 8).state = 5 ∧ (qAt s 8).fn = 1 ∧ (qAt s 8).forgetting = true) ∧
    (let s : State := { staged { state := 5, fn := 1, a := 1 } id with jobs := [{ seq := 5, queue := 8, paddock := 2 }] }
     (qAt s 8).forgetting = false ∧ (fnAt s 1).bme = true ∧ smWf {} s.queues = true ∧ s.jn.role = 0 ∧ s.jn.shutdownDone = false ∧
     (∀ j ∈ s.jobs, j.queue = 8 → j.phase ≠ .writing ∧ j.sent = false) ∧ ((queueJobs s 8).map (·.seq)).Nodup ∧ (qAt s 8).t < 2 ^ ((qAt s 8).k + 1) ∧
     (qAt s 8).a = ((qAt s 8).t + (queueJobs s 8).length) % 2 ^ ((qAt s 8).k + 1)) := by decide +kernel

/-- `up` with queue 8 running and one job of it. -/
def withJob (x : Queue) (j : Job) : State := { up with queues := [(8, x)], jobs := [{ j with seq := 5, queue := 8, paddock := 2, index := 1 }] }

theorem test_wit_CompletionRetirementAndDrain :
    (∀ d ∈ [nop, { nop with opcode := 0x0500, inline := [1#8, 3#8] ++ zeros 30 }, { nop with opcode := 0x0500, inline := [2#8, 15#8] ++ zeros 30 }],
      let j : Job := { seq := 5, queue := 8, paddock := 2, index := 1, phase := .finished, desc := d }
      let s := withJob { headQ [] with a := 2 } { phase := .finished, desc := d }
      reorderHead s 8 = some j ∧ jobOf s j.seq = some j ∧ j.waitHayloft = false ∧ mayWrite s 8 = true ∧ (qAt s 8).bx = false ∧ j.bx = false ∧ j.issued = false ∧
      (d.opcode = 0x0500 → (inl8 d 0x40 = 1 ∧ inl8 d 0x41 = 3) ∨ (inl8 d 0x40 = 2 ∧ inl8 d 0x41 = 15))) ∧
    (let s := withJob { headQ [] with a := 2, state := 5 } { phase := .finished }; mayWrite s 8 = false ∧ (qAt s 8).wake = false) ∧
    (∀ r ∈ [0, 1], let s : State := { withJob { headQ [] with a := 2 } { phase := .issued } with jn := { up.jn with role := r } }
      (queueJobs s 8).head? = some { seq := 5, queue := 8, paddock := 2, index := 1, phase := .issued } ∧ s.en.flushActive = false ∧ smWf {} s.queues = true ∧
      (∀ k ∈ queueJobs s 8, k.silent = false) ∧ s.jn.role = r) ∧
    (let s := upQ { state := 3, a := 4, t := 4 }; (qAt s 8).state = 3 ∧ (qAt s 8).t = (qAt s 8).a ∧ ∀ j ∈ s.jobs, j.queue ≠ 8) ∧
    (let e : PendEnable := { k := 4, index := 5, doorbell := some 7, fn := 1 }
     let s := upQ { state := 4, a := 4, t := 4, pend := some e }; (qAt s 8).state = 4 ∧ (qAt s 8).pend = some e ∧ (qAt s 8).t = (qAt s 8).a ∧ ∀ j ∈ s.jobs, j.queue ≠ 8) ∧
    (let s : State := { up with pads := [(2, { haltLog := [(8, 0x81)] })] }; regsUp s 1 = true ∧ padOfFn s 1 = some 2 ∧ (padAt s 2).haltLog = [(8, 0x81)]) ∧
    (padAt up 2).haltLog = [] := by decide +kernel

theorem test_wit_CompletionRetirementAndDrain_held : let s := withJob { headQ [] with a := 2, state := 5 } { phase := .finished }
    frozen s = false ∧ fnSleeps s 1 = false ∧ Calm s ∧ reorderHead s 8 = some { seq := 5, queue := 8, paddock := 2, index := 1, phase := .finished } :=
  ⟨by decide +kernel, by decide +kernel, ⟨⟨rfl, rfl⟩, fun _ => rfl⟩, by decide +kernel⟩

theorem test_wit_CompletionRetirementAndDrain_bells :
    BellValid { k := 4, t := 5, p := 5 } 7 ∧ BellValid { k := 4, t := 5, p := 5 } 21 ∧ ¬BellValid { k := 4, t := 5, p := 5 } 22 := by unfold BellValid; decide

/-! ## Stalls, energy and sheds -/

/-- A staged encapsulation of paddock 2 as a record of queue 8. -/
def stagedJob : Job := { seq := 5, queue := 8, paddock := 2, index := 1, desc := encaps, capGen := some 0 }

/-- `up` with that job staged and lattice stall L00, dedicated to paddock 2, as given. -/
def atStall (x : Stall) (j : Job) : State :=
  { up with queues := [(8, headQ [])], jobs := [j], stalls := [(0, { x with dedicated := some 2 })],
            pads := [(2, { caps := [(0, { drawn := true })], curGen := some 0 })] }

/-- A pool stall that runs job 6, with job 5 waiting for it. -/
def yields (n : Nat) (run wait : Desc) : State :=
  { up with jobs := [{ stagedJob with capGen := none, desc := wait }, { stagedJob with seq := 6, desc := run, phase := .running, stall := some n }],
            stalls := [(n, { state := 2, inPool := true, jobs := [6] })] }

/-- Descriptors of a PKE, a digest and a McEliece job. -/
def ecVerify : Desc := { opcode := 0x0412, paramSet := 1 }
def digest : Desc := { opcode := 0x0500, paramSet := 1 }
def mceEncaps : Desc := { opcode := 0x0301, paramSet := 1 }
def mceKeygen : Desc := { opcode := 0x0300, paramSet := 1 }

theorem test_wit_DispatchPromotesAndYields :
    (∀ x ∈ [({ state := 1 } : Stall), { state := 0 }, { state := 1, lastPaddock := 3, dirty := true }], let s := atStall x stagedJob
      dispatchRuns s = true ∧ (x.state = 1 → nextJob s 0 = some stagedJob) ∧ jobOf s 5 = some stagedJob ∧ cellsFit s stagedJob = true) ∧
    muckBefore { state := 1, lastPaddock := 3, dirty := true } stagedJob = true ∧ muckBefore { state := 1 } stagedJob = false ∧
    (let s : State := { atStall { state := 1 } stagedJob with plan := { up.plan with pads := [(2, { pad2 with yardCells := 1 })] } };
      nextJob s 0 = some stagedJob ∧ cellsFit s stagedJob = false) ∧
    (let s := atStall { state := 2, inPool := true, lastPaddock := 7 } stagedJob; (stAt s 0).inPool = true ∧ ∃ j ∈ waitingFor s 0, j.paddock ≠ (stAt s 0).lastPaddock) ∧
    (∀ e ∈ [(40, 3, ecVerify, ecVerify), (24, 2, digest, digest), (48, 4, mceKeygen, mceEncaps)], let s := yields e.1 e.2.2.1 e.2.2.2
      stallKind e.1 = e.2.1 ∧ (stAt s e.1).state = 2 ∧ (stAt s e.1).jobs.filterMap (jobOf s) ≠ [] ∧ (waitingFor s e.1).map (·.seq) = [5] ∧
      ((stAt s e.1).jobs.filterMap (jobOf s)).all (fun r => decide (prioRank { stagedJob with desc := e.2.2.2 } ≤ prioRank r)) = true) := by decide +kernel

/-- `up` with one running job on stall 0. -/
def running0 (x : Stall) (j : Job) : State :=
  atStall { x with state := 2, jobs := [5] } { j with seq := 5, queue := 8, paddock := 2, phase := .running, stall := some 0 }

theorem test_wit_StallsServeRequestsAndAreTested_calm (x : Stall) (j : Job) : Calm (atStall x j) ∧ Calm (running0 x j) ∧ FaultsClear (atStall x j) :=
  ⟨⟨⟨rfl, rfl⟩, fun p => by unfold padAt; simp only [atStall, smGet]; split <;> rfl⟩,
    ⟨⟨rfl, rfl⟩, fun p => by unfold padAt; simp only [running0, atStall, smGet]; split <;> rfl⟩, rfl, rfl, rfl⟩

/-- `up` with an XMSS^MT key of two levels of height 10, half of its first tree used, and hash stall H00 as given. -/
def treeKey (x : Stall) : State :=
  { up with tk := { unsealed := true, slots := [(100, { state := 2, cls := 5, alg := 44 })]
                    hbs := [(100, { present := true, h := 600, nNext := 512, paramSet := 20 + 2 * 256, batchLog2 := 5, paddock := 2 })] }
            stalls := [(24, { x with inPool := true })] }

theorem test_wit_DispatchPromotesAndYields_trees :
    (let s := treeKey { state := 1 }; dispatchRuns s = true ∧ nextJob s 24 = none ∧ (stAt s 24).reservedFor = none ∧ treeFor s 24 = some 100 ∧
      (stAt s 24).muckAtWake = false ∧ (stAt s 24).dirty = false ∧ nextTree s 100 = some (1, 1)) ∧
    (∀ b, let s := treeKey { state := 2, tree := some 100, reqClaim := b }
      ((List.range 52).find? fun k => (stAt s k).tree == some 100) = some 24 ∧ nextTree s 100 = some (1, 1) ∧ (stAt s 24).reqClaim = b) ∧
    ((List.range 52).find? fun k => (stAt up k).tree == some 100) = none ∧ entryValid (atStall { state := 1 } stagedJob) 0 stagedJob.desc = true := by decide +kernel

/-- A running McEliece key generation, whose routine has safe points, and an encapsulation, whose routine has none before its output. -/
theorem test_wit_StallsServeRequestsAndAreTested_points :
    (∀ x ∈ [({} : Stall), { reqFault := true }, { reqClaim := true }, { reqYield := true }], atSafePoint (running0 x {}) 0 true = true) ∧
    (let s := running0 { reqStop := true } { desc := { opcode := 0x0300, paramSet := 1 }, stopReq := true }
     ∃ j, jobOf s 5 = some j ∧ atSafePoint s 0 false = true ∧ (stAt s 0).reqFault = false ∧ (stAt s 0).reqStop = true ∧ (stAt s 0).jobs = [j.seq] ∧ j.stopReq = true ∧
       j.inOutput = false ∧ j.issuedStatus = none) ∧
    atSafePoint (running0 {} { desc := encaps }) 0 false = false := by
  refine ⟨by decide +kernel, ⟨_, rfl, ?_⟩, by decide +kernel⟩
  decide +kernel

theorem test_wit_StallsServeRequestsAndAreTested :
    (∀ x ∈ [({} : Stall), { reqFault := true }, { reqClaim := true }, { reqYield := true }, { reqStop := true }], let s := running0 x { stopReq := x.reqStop }
      s.en.flushActive = false ∧ (stAt s 0).state = 2 ∧ (stAt s 0).jobs = [5] ∧
      jobOf s 5 = some { seq := 5, queue := 8, paddock := 2, phase := .running, stall := some 0, stopReq := x.reqStop }) ∧
    (∀ k ∈ [0, 1, 2], ∀ b, let s : State := { atStall { state := 3, muckThen := k, muckFailed := b } stagedJob with fc := { claimed := some 0 } };
      (stAt s 0).state = 3 ∧ (stAt s 0).muckThen = k ∧ (stAt s 0).muckFailed = b ∧ s.fc.claimed = some 0 ∧ 0 < 52) ∧
    (let s := atStall { unsound := true, ucodeOk := false } stagedJob; (stAt s 0).unsound = true ∧ (stAt s 0).ucodeOk = false) ∧
    (∀ st ∈ [1, 2], let s : State := { atStall { state := st, ucodeOk := true } stagedJob with fc := { ahead := [0] } }; s.fc.claimed = none ∧ s.sys.bootState = 1 ∧
      s.sys.deepSleep = false ∧ s.fc.ahead = [0] ∧ (stAt s 0).ucodeOk = true ∧ shedAt s (stallShed 0) = 2 ∧ (stAt s 0).state = st) ∧
    (let s := atStall { state := 1 } stagedJob; s.fc.claimed = none ∧ s.fc.ahead = [] ∧ s.fc.overdue = [] ∧ s.fc.nextStall = 0 ∧ skipped s 0 = false ∧
      farrierWaits s 0 = false ∧ (stAt s 0).state = 1) ∧
    (let s : State := { atStall { state := 4 } stagedJob with fc := { claimed := some 0, testing := true } }; s.fc.claimed = some 0 ∧ s.fc.testing = true ∧
      (smGet {} s.lk.tests 32).running = false ∧ (stAt s 0).state ≠ 5 ∧ s.fc.out = []) ∧
    ({ up with rng := { stopped := true } } : State).rng.stopped = true ∧ (sourceServes up = true ∧ up.rng.waiting = [] ∧ 1 ≤ up.rng.store) ∧
    (let s : State := { up with rng := { up.rng with store := 0 } }; s.rng.stopped = false ∧ s.rng.rawMode = false ∧ s.rng.waiting = [] ∧ s.rng.store = 0) := by
  decide +kernel

/-- `up` with changed energy state. -/
def upEn (g : Energy → Energy) : State := { up with en := g up.en }

theorem test_wit_EnergyCapsMetersAndReserve :
    (regsUp up 0 = true ∧ up.sys.porstN = true ∧ up.sys.deepSleep = false ∧ up.en.flushActive = false ∧ up.en.capBinding = false ∧ up.en.withholdWakes = false) ∧
    (let s := upEn fun e => { e with withholdWakes := true, step := (List.range 14).map fun i => (i, 3) }; s.en.withholdWakes = true ∧
      ∀ i < 14, shedAt s i = 2 → 3 ≤ stepAt s i) ∧
    (let s := upEn fun e => { e with withholdWakes := true, step := [(0, 2)] }; s.en.withholdWakes = true ∧ ∃ i < 14, shedAt s i = 2 ∧ stepAt s i < 3) ∧
    (∀ b, let s := upEn fun e => { e with capBinding := true, overtemp := b }; s.en.capBinding = true ∧ s.en.overtemp = b) ∧
    ((upEn fun e => { e with calValid := false }).en.calValid = false ∧ up.en.calValid = true ∧ up.sys.bootState = 1) ∧
    (let s : State := { (upEn fun e => { e with reserveLow := true }) with queues := [(8, { headQ [] with defer := 1 })] };
     s.en.reserveLow = true ∧ coversWith s (usableNow s) (nLive s) 1000 = true ∧ smWf {} s.queues = true) ∧
    (let s := upEn fun e => { e with reserveLow := true, convs := [0] }; s.en.reserveLow = true ∧ coversWith s (usableNow s) (nLive s) 1000 = false) := by
  decide +kernel

theorem test_wit_EnergyCapsMetersAndReserve_samples :
    up.en.samples = [] ∧ 1 ≤ up.en.windowMs ∧ up.lc.resetRequired = false ∧ NothingDue up ∧ padOfCore up 3 = some 2 ∧
    (let nj := 42500001; (effectiveCap up).1 * 250000 * up.en.windowMs < 2 * nj ∨ 85000000 < 2 * nj) ∧
    ¬((effectiveCap up).1 * 250000 * up.en.windowMs < 2 * 1000 ∨ 85000000 < 2 * 1000) ∧
    (let s := running0 {} {}; ∃ j, jobOf s 5 = some j ∧ j.phase = .running) ∧ ({ up with lc := { resetRequired := true } } : State).lc.resetRequired = true := by
  refine ⟨rfl, by decide +kernel, rfl, ⟨rfl, rfl⟩, by decide +kernel, by decide +kernel, by decide +kernel, ⟨_, rfl, rfl⟩, rfl⟩

/-- `up` with shed `i` in a state. -/
def upShed (i v : Nat) : State := upEn fun e => { e with shed := smSet 0 e.shed i v }

/-- A part that may enter deep sleep. -/
def quiet : State := { up with fns := [(0, { dState := 3 })] }

theorem test_wit_ShedsAndDeepSleep_headroom :
    (let s : State := { atStall {} stagedJob with en := { up.en with shed := [(18, 2), (19, 2)] } }; frozen s = false ∧ nextWake s = some (0, some 2) ∧
      (4400 : Int) ≤ headroomMw s ∧ s.en.withholdWakes = false) ∧
    (∀ b, let s : State := { up with en := { up.en with shed := [(18, 2), (19, 2)], withholdWakes := b, samples := [{ nj := 1000000 }] }
                                     plan := { up.plan with pads := [(0, pad0), (2, { pad2 with energyShare := 0 })] }
                                     cores := [(3, { state := 1, loading := some { waitShed := true } })] }
      frozen s = false ∧ nextWake s = some (14, some 2) ∧ headroomMw s < (1400 : Int) ∧ belowShare s 2 = false ∧ s.en.withholdWakes = b) := by decide +kernel

theorem test_wit_ShedsAndDeepSleep :
    (∀ b, let s : State := { atStall {} stagedJob with en := { up.en with shed := [(18, 2), (19, 2)], withholdWakes := b } };
      s.sys.bootState = 1 ∧ s.sys.deepSleep = false ∧ s.en.flushActive = false ∧ s.en.withholdWakes = b ∧ nextWake s = some (0, some 2)) ∧
    (let s : State := { up with en := { up.en with shed := [(18, 2), (19, 2)], withholdWakes := true }, cores := [(3, { state := 1, loading := some { waitShed := true } })] };
     nextWake s = some (14, some 2) ∧ s.en.withholdWakes = true) ∧
    (∀ i ∈ [0, 13, 14, 17, 22, 23], shedAt (upShed i 1) i = 1 ∧ shedAt (upShed i 3) i = 3 ∧ shedAt up i = 2 ∧ i < 24) ∧
    (stallShed 0 = 0 ∧ coreShed 3 = 14 ∧ (∀ b, (stAt (atStall { muckAtWake := b } stagedJob) 0).muckAtWake = b ∧ (stAt (atStall { muckAtWake := b } stagedJob) 0).state = 0)) ∧
    ((∀ i ∈ [0, 14, 22], shedPolicy up i ≠ 0) ∧ shedPolicy { up with plan := { up.plan with sheds := [(0, { policy := 0 })] } } 0 = 0) ∧
    (let s : State := { up with stalls := (List.range 4).map fun n => (n, { state := 1 }) }; ∀ n ∈ shedStalls 0, (stAt s n).state = 5 ∨ ((stAt s n).state = 1 ∧ (stAt s n).dirty = false)) ∧
    (let s : State := { up with stalls := (List.range 4).map fun n => (n, { state := 1, dirty := true }) };
     (∀ n ∈ shedStalls 0, (stAt s n).state = 1 ∨ (stAt s n).state = 5) ∧ ∃ n ∈ shedStalls 0, (stAt s n).state = 1 ∧ (stAt s n).dirty = true) ∧
    (∃ n ∈ shedStalls 0, (stAt up n).state ≠ 1 ∧ (stAt up n).state ≠ 5) ∧ (∀ k < 4, (coreAt up (4 * (14 - 14) + k)).state = 0) ∧
    (hayloftBusy up = false ∧ maySleep quiet = true ∧ maySleep up = false) ∧
    (let s : State := { up with sys := { up.sys with deepSleep := true } }; s.sys.deepSleep = true ∧ s.en.flushActive = false ∧ s.fc.escNow = [] ∧ s.fc.retireNow = []) := by
  decide +kernel

/-! ## Journal, tether, random source, tamper, faults -/

/-- `up` with a stateful key in slot 100. -/
def keyed (r : Option Nat) (role : Nat) : State := { up with tk := { unsealed := true, hbs := [(100, { present := true, h := 32, refill := r })] }, jn := { up.jn with role := role } }

/-- Every capture slot of paddock 2 named by a live record. -/
def fullCaps : State := { up with jobs := (List.range 16).map fun g => { seq := g, queue := 8, paddock := 2, capGen := some g } }

theorem test_wit_JournalUpkeep :
    (∀ r ∈ [0, 1], (hbsAt (keyed (some 64) r) 100).refill = some 64 ∧ (keyed (some 64) r).jn.role = r ∧ (hbsAt (keyed (some 64) r) 100).present = true) ∧
    (up.jn.opened = true ∧ padPresent up 2 = true ∧ (List.range 16).find? (capFree up 2) = some 0 ∧ sourceServes up = true ∧ 2 ≤ up.rng.store ∧ up.rng.waiting = []) ∧
    (fullCaps.jn.opened = true ∧ padPresent fullCaps 2 = true ∧ (List.range 16).find? (capFree fullCaps 2) = none) ∧
    (13 ≤ up.sys.stage ∧ up.en.flushActive = false) ∧
    (∀ n ∈ [2, 3], let s : State := { up with fc := { buckets := [(0x80 + 1 + 1024 * (7 + 1), n)] } }; s.jn.held = true ∧ smGet 0 s.fc.buckets (0x80 + 1 + 1024 * (7 + 1)) = n ∧
      smGet false s.fc.retired (0x80 + 1 + 1024 * (7 + 1)) = false ∧ smGet 0 s.fc.spareRows (0x80 + 1) < 16) ∧ 2 + 1 < 4 ∧
    (regsUp up 0 = true ∧ up.jn.shutdownDone = false) ∧
    (let s : State := { up with jn := { up.jn with shutting := true }, jobs := [{}] }; s.jn.shutting = true ∧ s.en.flushActive = false ∧ s.jobs.all isLive = true) := by
  decide +kernel

/-- A part of a twin with its link up. -/
def twin (role : Nat) (sideB : Bool) (lanes : Nat) (g : Tether → Tether) : State :=
  { up with sys := { up.sys with straps := { twinSide := sideB } }, plan := { up.plan with part := { up.plan.part with twin := true }, twin := some { lanesMin := 2 } },
            jn := { up.jn with role := role }, tt := g { linkUp := true, lanes := (List.range lanes).map fun i => (i, { state := 1 }) } }

theorem twin_calm (r : Nat) (b : Bool) (n : Nat) (g : Tether → Tether) : Calm (twin r b n g) ∧ FaultsClear (twin r b n g) := ⟨⟨⟨rfl, rfl⟩, fun _ => rfl⟩, rfl, rfl, rfl⟩

/-- The record of an accepted OP_NOP. -/
def nopRecord : Bytes := recordBytes { seq := 9, queue := 8, paddock := 2, desc := nop }

theorem test_wit_TwinAndTether :
    (let s := twin 1 false 4 id; tetherRuns s = true ∧ s.tt.rxSeq = 0) ∧
    (readRecord (bytesOfWords (wordsOf 12 nopRecord))).isSome = true ∧
    bytesOfWords (wordsOf 6 (padTo 48 (twin 1 false 4 id).plan.digest)) = padTo 48 (twin 1 false 4 id).plan.digest ∧
    bytesOfWords [1] ≠ padTo 48 (twin 1 false 4 id).plan.digest ∧
    (let g : Machine.Frame := { kind := 0x03, seq := 4, payload := [100, 64] }
     let s := { twin 1 false 4 (fun t => { t with unacked := [g] }) with tk := (keyed (some 64) 1).tk }
     s.tt.unacked = [g] ∧ seqBefore 4 5 = true ∧ (hbsAt s 100).refill = some 64 ∧ tetherRuns s = true ∧ ∀ n < 4, smGet 0 s.fc.buckets (0x180 + n) < 7) ∧
    (let s := twin 1 false 4 id; s.sys.porstN = true ∧ (laneAt s 3).state = 1 ∧ smWf {} s.tt.lanes = true ∧ 2 ≤ soundLanes s ∧ lanesMin s < soundLanes s) ∧
    (∀ b, let s := twin 1 b 1 id; s.plan.part.twin = true ∧ s.sys.porstN = true ∧ s.jn.role ≠ 3 ∧ soundLanes s < lanesMin s ∧ s.sys.straps.twinSide = b) ∧
    (let s := twin 1 false 4 id; 10 ≤ s.sys.stage ∧ s.jn.role = 1 ∧ s.sys.bootState = 1 ∧ s.en.flushActive = false ∧ s.tt.unacked = [] ∧ smWf {} s.queues = true) ∧
    (let s : State := { twin 1 false 4 (fun t => { t with mirror := [{ seq := 9, queue := 300 }] }) with queues := [(300, { state := 1, standby := true })] }
     ; (qAt s 300).standby = true ∧ s.tt.mirror ≠ []) := by decide +kernel

/-- `up` with changed random-source state. -/
def upRng (g : Rng → Rng) : State := { up with rng := g up.rng }

theorem test_wit_RandomSource :
    (∀ a ∈ [0, 1, 2], ∀ b, let s := upRng fun _ => { attempts := a, restarting := b }; startupPending s = true ∧ s.sys.wait ≠ .random ∧ s.rng.attempts = a ∧ s.rng.restarting = b) ∧
    (8 ≤ groupCount (0xFFFF &&& (0xFFFF ^^^ 0)) ∧ groupCount (0x7F &&& (0xFFFF ^^^ 0)) < 8) ∧
    (rngRuns up = true ∧ hasBit up.rng.retired 15 = false ∧ up.rng.ready = true ∧ hasBit up.rng.healthy 15 = true ∧ smGet 0 up.fc.buckets (0xC0 + 15) < 2 ∧ 8 < healthyGroups up) ∧
    hasBit (upRng fun r => { r with healthy := 0x7FFF }).rng.healthy 15 = false ∧
    (let s := upRng fun r => { r with isolated := 2 }; rngRuns s = true ∧ s.rng.rawMode = false ∧ hasBit s.rng.isolated 1 = true ∧ hasBit s.rng.retired 1 = false) ∧
    (sourceServes up = true ∧ 3 &&& (0xFFFF ^^^ up.rng.healthy) = 0 ∧ up.rng.waiting = []) ∧
    (let s : State := { up with pads := [(2, { drbg := { live := true } })] }
     ; (padAt s 2).drbg.live = true ∧ sourceServes s = true ∧ 2 ≤ s.rng.store ∧ drbgServes s 2 = true ∧ dueReseed s 2 = s ∧ regsUp s 1 = true ∧ padOfFn s 1 = some 2) ∧
    (let s : State := { (upRng fun r => { r with ready := false }) with pads := [(2, { drbg := { live := true } })] }
     ; sourceServes s = false ∧ (padAt s 2).drbg.live = true ∧ regsUp s 1 = true) ∧
    (regsUp up 0 = true ∧ bits (1#64).toNat 0 4 = 1 ∧ bits (0x102#64).toNat 0 4 = 2 ∧ bits (0x102#64).toNat 4 5 = 16 ∧ bits (3#64).toNat 0 4 = 3) ∧
    (upRng fun r => { r with rawMode := true, fifo := [5#64] }).rng.rawMode = true ∧ (upRng fun r => { r with stopped := true }).rng.stopped = true ∧
    (∀ st ∈ [0, 1, 2, 3, 4], let s : State := { up with lc := { state := st } }; regsUp s 0 = true ∧ s.rng.rawMode = false ∧ s.lc.state = st ∧ rawAuthorised s [] = false) := by
  decide +kernel


/-- A signature block whose lengths are right. -/
def block : Bytes := leBytes 2 1 ++ leBytes 2 0 ++ leBytes 4 4723 ++ zeros 4728

/-- The header of a token as Tables 05.10 and 19.9 lay it out, over a challenge: scope or kind, and state. -/
def tokenHeader (k st : Nat) (c : Bytes) : Bytes :=
  leBytes 4 0xDB600A11 ++ leBytes 2 1 ++ leBytes 1 k ++ leBytes 1 st ++ leBytes 8 0 ++ c ++ zeros 80

def signedToken (k st : Nat) (c g : Bytes) : Bytes := tokenHeader k st c ++ g

theorem block_length : block.length = 4736 := by
  unfold block zeros
  rw [List.length_append, List.length_replicate]; rfl

theorem block_ok : sigBlockOk block = true := by
  have h : ∀ n, slice (leBytes 2 1 ++ leBytes 2 0 ++ leBytes 4 4723 ++ zeros n) 4731 5 = slice (zeros n) 4723 5 := by
    intro n
    simp [slice, leBytes]
  have h' : ∀ n, allZero (slice (zeros n) 4723 5) = true := by
    intro n
    simp [allZero, slice, zeros, List.drop_replicate, List.take_replicate]
  have p : ∀ n, u32 (leBytes 2 1 ++ leBytes 2 0 ++ leBytes 4 4723 ++ zeros n) 4 = 4723 ∧ u16 (leBytes 2 1 ++ leBytes 2 0 ++ leBytes 4 4723 ++ zeros n) 0 = 1 ∧
      u16 (leBytes 2 1 ++ leBytes 2 0 ++ leBytes 4 4723 ++ zeros n) 2 = 0 := by
    intro n
    simp [u32, u16, slice, leBytes, leNat]
  have hb : ∃ n, block = leBytes 2 1 ++ leBytes 2 0 ++ leBytes 4 4723 ++ zeros n := ⟨4728, rfl⟩
  have hl := block_length
  generalize block = g at *
  obtain ⟨n, rfl⟩ := hb
  unfold sigBlockOk
  rw [h, h', (p n).1, (p n).2.1, (p n).2.2, hl]
  decide

theorem block_signed (h : Config.hybridVerify = fun _ _ _ _ _ => true) (c k m : Bytes) : blockVerifies c k m block = true := by
  unfold blockVerifies; rw [block_ok, h]; rfl

/-- What a signed token's parts are, whatever the challenge in it and the block after it. -/
theorem signedToken_parts (k st : Nat) (c g : Bytes) (hc : c.length = 32) (hg : g.length = 4736) :
    (signedToken k st c g).length = 4864 ∧ slice (signedToken k st c g) 0x10 32 = c ∧ (signedToken k st c g).drop 128 = g ∧
    slice (signedToken k st c g) 0x30 80 = zeros 80 ∧ u32 (signedToken k st c g) 0 = 0xDB600A11 ∧ u16 (signedToken k st c g) 4 = 1 ∧
    u8 (signedToken k st c g) 6 = k % 256 ∧ u8 (signedToken k st c g) 7 = st % 256 ∧ u64 (signedToken k st c g) 8 = 0 ∧
    allZero (slice (signedToken k st c g) 0x34 76) = true ∧ u32 (signedToken k st c g) 0x30 = 0 := by
  have hd : (tokenHeader k st c).length = 128 := by simp [tokenHeader, leBytes, zeros, hc]
  have lift : ∀ o n, o + n ≤ 128 → slice (signedToken k st c g) o n = slice (tokenHeader k st c) o n := by
    intro o n h
    simp only [slice, signedToken]
    rw [List.drop_append_of_le_length (by omega), List.take_append_of_le_length (by simp; omega)]
  unfold u8 u16 u32 u64
  rw [lift _ _ (by decide), lift _ _ (by decide), lift _ _ (by decide), lift _ _ (by decide), lift _ _ (by decide), lift _ _ (by decide), lift _ _ (by decide),
    lift _ _ (by decide), lift _ _ (by decide)]
  refine ⟨by simp [signedToken, hd, hg], ?_, List.drop_left' hd, ?_⟩
  · match c, hc with
    | [_, _, _, _, _, _, _, _, _, _, _, _, _, _, _, _, _, _, _, _, _, _, _, _, _, _, _, _, _, _, _, _], _ => rfl
  · match c, hc with
    | [_, _, _, _, _, _, _, _, _, _, _, _, _, _, _, _, _, _, _, _, _, _, _, _, _, _, _, _, _, _, _, _], _ =>
      refine ⟨rfl, ?_, ?_, ?_, ?_, ?_, ?_, ?_⟩ <;> simp [tokenHeader, slice, leNat, leBytes, zeros, allZero]

theorem challenge_length (s : State) : (challenge s).length = 32 := rfl

/-- The token that opens a debug session in FACTORY, the one that starts raw-sample mode in SEALED, and the one that clears an alarm. -/
theorem test_wit_tokens (s : State) (h : Config.hybridVerify = fun _ _ _ _ _ => true) (hd : s.lc.deviceNumber = 0) :
    (s.lc.state = 1 → debugTokenOk s (signedToken 1 1 (challenge s) block) = true) ∧ (s.lc.state = 3 → rawAuthorised s (signedToken 0x10 3 (challenge s) block) = true) ∧
    (s.lc.state = 3 → clearFormed s (signedToken 0x20 3 (challenge s) block) = true ∧ clearSigned s (signedToken 0x20 3 (challenge s) block) = true) := by
  have p := fun k st => signedToken_parts k st (challenge s) block (challenge_length s) block_length
  have z80 : allZero (zeros 80) = true := by decide
  refine ⟨fun hs => ?_, fun hs => ?_, fun hs => ⟨?_, ?_⟩⟩
  · obtain ⟨a, b, c, d, e, f, g, i, j, z, u⟩ := p 1 1
    generalize signedToken 1 1 (challenge s) block = tok at *
    simp [debugTokenOk, a, b, c, e, f, g, i, j, z, u, hs, hd, debugKeys, block_signed h]
  · obtain ⟨a, b, c, d, e, f, g, i, j, z, u⟩ := p 0x10 3
    generalize signedToken 0x10 3 (challenge s) block = tok at *
    simp [rawAuthorised, a, b, c, d, e, f, g, i, j, hs, hd, z80, block_signed h]
  · obtain ⟨a, b, c, d, e, f, g, i, j, z, u⟩ := p 0x20 3
    generalize signedToken 0x20 3 (challenge s) block = tok at *
    simp [clearFormed, a, d, e, f, g, i, j, hs, hd, z80]
  · obtain ⟨a, b, c, d, e, f, g, i, j, z, u⟩ := p 0x20 3
    generalize signedToken 0x20 3 (challenge s) block = tok at *
    simp [clearSigned, b, c, hs, block_signed h]

/-- `up` in a life-cycle state, class 0 and 1 sources with the given response in SEALED. -/
def tampered (st resp alarm : Nat) (g : State → State) : State :=
  g { up with lc := { state := st }, tp := { latched := alarm != 0, alarm := alarm }, plan := { up.plan with tamper := { resp := [(12, resp), (13, resp), (14, resp), (15, resp), (16, resp), (17, resp)] } } }

theorem test_wit_TamperMonitor :
    (∀ r ∈ [0, 1, 2, 3], let s := tampered 3 r 0 id; sourceTrips s 4 false = true ∧ s.en.flushActive = false ∧ s.fc.escNow = [] ∧ s.fc.retireNow = [] ∧ 14 ≤ s.sys.stage ∧
      s.sys.bootState ≤ 1 ∧ s.sys.deepSleep = false ∧ responseOf s 4 = r) ∧
    (let s : State := { tampered 3 1 0 id with tk := { up.tk with slots := [(100, { state := 2 })] } }; smWf {} s.tk.slots = true ∧ (slotAt s 100).state = 2) ∧
    (let s := tampered 3 1 0 fun s => { s with sys := { s.sys with stage := 13, bootState := 0 } }; sourceTrips s 4 false = true ∧ s.sys.stage < 14 ∧ s.sys.bootState ≤ 2) ∧
    (∀ b ∈ [3, 5], let s := tampered 3 1 0 fun s => { s with sys := { s.sys with bootState := b } }; sourceTrips s 4 false = true ∧ s.sys.bootState = b) ∧
    (let s := tampered 3 0 0 fun s => { s with sys := { s.sys with deepSleep := true } }; sourceTrips s 4 false = true ∧ s.sys.deepSleep = true ∧ s.port.doorbells = [] ∧
      s.tp.response = 0 ∧ responseOf s 4 = 0 ∧ s.tk.hold = false) ∧
    (let s := tampered 3 1 16 id; tpUp s 0 = true ∧ s.lc.state ≠ 0 ∧ clearFormed s [] = false ∧ s.tp.live = 0 ∧ s.tp.latched = true) ∧
    (∀ l ∈ [0, 16], let s := tampered 0 1 16 fun s => { s with tp := { s.tp with live := l } }; tpUp s 0 = true ∧ s.lc.state = 0 ∧ s.tp.live = l ∧ s.fc.escNow = [] ∧ s.fc.retireNow = []) := by
  decide +kernel

/-- The token forms that CLEAR tells apart: formed and unsigned, and formed and signed. -/
theorem test_wit_clear :
    (let s := tampered 3 1 16 id; tpUp s 0 = true ∧ s.lc.state = 3 ∧ s.lc.deviceNumber = 0) ∧
    (Config.hybridVerify = (fun _ _ _ _ _ => false) → ∀ (s : State) tok, clearSigned s tok = false) := by
  refine ⟨by decide +kernel, fun h s tok => ?_⟩
  simp [clearSigned, blockVerifies, h]

/-- `up` with one outstanding entry of paddock 2 from stall 0. -/
def faulted (e : OutFault) (g : Faults → Faults) : State := { up with time := 5, fc := g { out := [(0, some e)] } }

def stallFault : OutFault := { source := 0, kind := 0x02, cls := 1, charged := true, paddock := 2, deadline := some 6 }

theorem test_wit_FaultCollector :
    (up.sys.porstN = true ∧ up.sys.deepSleep = false ∧ up.en.flushActive = false ∧ up.fc.out = [] ∧ up.fc.escNow = [] ∧ up.fc.retireNow = [] ∧ up.fc.log.length < 4096) ∧
    (∀ e ∈ [(0x33, 0x01), (0x33, 0x04), (0x40, 0x10), (0x200, 0x1D), (0x28, 0x04)], messageSent (e.1 * 2 ^ 54 + e.2 * 2 ^ 48) = true ∧ bits (e.1 * 2 ^ 54 + e.2 * 2 ^ 48) 54 10 = e.1 ∧
      bits (e.1 * 2 ^ 54 + e.2 * 2 ^ 48) 48 6 = e.2 ∧ ∀ lim ∈ bucketRule e.1 e.2, smGet 0 up.fc.buckets (bucketKey e.1 0) + 8 < lim) ∧
    (∀ e ∈ [(0x80, 0x13), (0x81, 0x14)], messageSent (e.1 * 2 ^ 54 + e.2 * 2 ^ 48 + 2 * 2 ^ 46) = true ∧ bucketRule e.1 e.2 = none) ∧
    (messageSent (0x33 * 2 ^ 54 + 0x02 * 2 ^ 48 + 2 ^ 46) = true ∧ unsoundKind 0x02 = true ∧ faultClass 0x02 = 1) ∧
    smWf 0 ({ up with fc := { buckets := [(5, 3), (5 + 1024, 2)] } } : State).fc.buckets = true ∧
    (∀ e ∈ [stallFault, { stallFault with acked := true, deadline := none }, { stallFault with escalated := true }, { stallFault with live := true, acked := true }, { stallFault with deadline := some 5 }],
      let s := faulted e id; outEntry s 0 2 = some (0, e) ∧ s.fc.escNow = [] ∧ s.fc.retireNow = [] ∧ regsUp s 0 = true ∧ padOfFn s 0 = some 0 ∧ regsUp s 1 = true ∧ padOfFn s 1 = some 2 ∧ mayAnswer 2 e = true ∧ mayAnswer 0 e = true) ∧
    (let s : State := { faulted stallFault id with en := { up.en with flushActive := true } }; outEntry s 0 2 = some (0, stallFault) ∧ s.en.flushActive = true) ∧
    (∀ e : OutFault, e = { source := 0x80, kind := 0x13, cls := 2, deadline := some 9 } → let s := faulted e id; outEntry s 0x80 0x13 = some (0, e) ∧ faultClass 0x13 = 2 ∧
      mayAnswer 2 e = false ∧ mayAnswer 0 e = true) ∧
    timerPast (faulted stallFault id) stallFault = false ∧ timerPast (faulted stallFault id) { stallFault with deadline := some 5 } = true ∧
    outEntry up 0 2 = none ∧ regsUp up 1 = true ∧ (faulted stallFault fun f => { f with log := [(1, 2)] }).fc.log = [(1, 2)] ∧
    (let s : State := { up with hl := { wpReleased := true }, fc := { toLog := [(1, 0, 2)], corrected := [(5, 3)] } }
     ; s.hl.wpReleased = true ∧ s.hl.failed0 = false ∧ s.hl.faultLog.length + s.fc.toLog.length + s.fc.corrected.length ≤ 262144) := by
  refine ⟨by decide +kernel, by decide +kernel, by decide +kernel, by decide +kernel, by decide +kernel, by decide +kernel, by decide +kernel, ?_, by decide +kernel⟩
  rintro e rfl
  decide +kernel

/-- `up` with a hayloft whose targets 0 and 4 are in service and whose blocks hold content. -/
def stored (g : Hayloft → Hayloft) : State :=
  { up with hl := g { geo := { blocks := 4 }, wpReleased := true, targets := [(0, { state := 1, spares := 9 }), (1, { state := 5 }), (2, { state := 4 }), (4, { state := 1 })],
                      blocks := [(2, { erased := false }), (3, { erased := false, erase := 2001 })] } }

theorem stored_calm (g : Hayloft → Hayloft) : Calm (stored g) ∧ FaultsClear (stored g) := ⟨⟨⟨rfl, rfl⟩, fun _ => rfl⟩, rfl, rfl, rfl⟩

theorem test_wit_HayloftUpkeep :
    (let s := stored id; s.en.flushActive = false ∧ blockServes s 0 2 = true ∧ (∀ e ∈ s.hl.objs, e.2.writing = none) ∧ smGet 0 s.fc.buckets 0x200 < 56 ∧
      (targetAt s 0).state = 1 ∧ (targetAt s 0).statusFailed = false ) ∧
    (targetAt (stored fun h => { h with targets := [(0, { state := 1, statusFailed := true })] }) 0).statusFailed = true ∧
    (wearSpread (stored id) 0 = 2001 ∧ wearSpread (stored id) 1 ≤ 2000 ∧ leastWorn (stored id) (channelBlocks (stored id) 0 fun x => !x.erased) = some 2) ∧
    (∀ ok, let s := stored fun h => { h with objs := [(100, { writing := some 1, ok1 := ok })] }; (objAt s 100).writing.isSome = true ∧ s.hl.failed0 = false ∧
      ((objAt s 100).ok1 || s.hl.failed1) = ok ∧ waitersOf s 100 = []) ∧
    (let s := stored fun h => { h with rebuilding := true }; s.hl.rebuilding = true ∧ s.hl.failed0 = false ∧ smWf {} s.hl.objs = true ∧ (targetAt s 1).state = 5) ∧
    (regsUp (stored id) 0 = true ∧ bits (0x21#64).toNat 0 4 = 1 ∧ (targetAt (stored id) 2).state = 4 ∧ (targetAt (stored id) 0).state ≠ 4) ∧
    smWf {} (stored id).pads = true ∧
    (let s : State := { modFn (stored fun h => { h with auditLog := [(1, 4, 0)] }) 0 fun f => { f with hlLog := 2, hlWord := 3 } with hl := (stored fun h => { h with auditLog := [(1, 4, 0)] }).hl }
     ; regsUp s 0 = true ∧ padOfFn s 0 = some 0 ∧ (logEntry s 0 0).isSome = true ∧ (fnAt s 0).hlWord = 3 ∧ regsUp s 1 = true ∧ padOfFn s 1 = some 2 ∧ logEntry s 1 2 = none) := by
  refine ⟨by decide +kernel, by decide +kernel, by decide +kernel, by decide +kernel, by decide +kernel, by decide +kernel, by decide +kernel, by decide +kernel⟩

theorem test_wit_HayloftUpkeep_tested :
    channelTested (stored id) 0 = false ∧ channelTested (stored id) 1 = false ∧
    (∀ c ∈ [0, 1], channelTested { stored id with lk := { tests := [(20 + c, { running := true })] } } c = true) := by decide +kernel

/-- `up` with a link selected and a strap of test mode. -/
def linked (sel tgt st : Nat) (ten : Bool) (tests : SMap LinkTest) : State :=
  { up with sys := { up.sys with straps := { testEn := ten } }, lc := { state := st, decoded := true }, lk := { sel := sel, selTarget := tgt, tests := tests } }

theorem test_wit_LinksAndTestPort :
    (∀ e ∈ [(0, 0), (15, 0), (20, 3), (21, 4)], let s := linked e.1 e.2 1 true []; regsUp s 0 = true ∧ linkRefusal s s.lk.sel s.lk.selTarget = 0) ∧
    (let s : State := { linked 19 0 3 false [] with tt := { lanes := [(3, { state := 2 })] }, plan := (twin 1 false 1 id).plan }
     ; linkRefusal s 19 0 = 0) ∧
    (let s : State := { linked 83 0 3 false [] with stalls := [(51, { state := 4 })] }; linkRefusal s 83 0 = 0) ∧
    (∀ e ∈ [(0, 0, 1), (20, 4, 1), (32, 0, 2), (127, 0, 1)], let s := linked e.1 e.2.1 3 false []; linkRefusal s e.1 e.2.1 = e.2.2) ∧
    (hasBit (0x8#64).toNat 3 = true ∧ hasBit (0x8#64).toNat 4 = false ∧ patternOk 0 (bits (0xC#64).toNat 0 3) = true ∧ patternOk 0 (bits (0xD#64).toNat 0 3) = false ∧
      patternOk 21 5 = true ∧ hasBit (0x10#64).toNat 3 = false ∧ hasBit (0x10#64).toNat 4 = true) ∧
    (∀ l, let s := linked 7 0 1 true [(7, { running := true, locked := l })]; (testAt s 7).running = true ∧ (testAt s 7).locked = l) ∧
    (boundaryOpen (linked 0 0 1 false []) = true ∧ (linked 0 0 1 false []).sys.boundary = false ∧ boundaryOpen (linked 0 0 3 false []) = false) ∧
    testMode (linked 0 0 4 true []) = true ∧ testMode (linked 0 0 3 true []) = false := by
  decide +kernel

theorem test_wit_LinksAndTestPort_held : ({ up with sys := { up.sys with boundary := true } } : State).sys.boundary = true ∧
    testMode { linked 0 0 4 true [] with sys := { porstN := true, straps := { testEn := true } } } = true ∧
    smGet 0 up.fc.spareRows 0x80 ≤ installedRows 0x80 := by decide +kernel

/-- `up` with VF 1's compare unit set and paddock 2's result slot 7. -/
def compared (f : Fn) (x : ResSlot) (ext : Bool) : State :=
  { up with fns := [(1, { f with present := true, bme := true })], pads := [(2, { results := [(7, x)] })],
            plan := { up.plan with pads := [(2, { pad2 with bootExtend := ext })] } }

theorem test_wit_CompareAndMeasure :
    (regsUp up 1 = true ∧ padOfFn up 1 = some 2 ∧ hasBit (0x800#64).toNat 11 = true ∧ hasBit (0x7FF#64).toNat 11 = false ∧ (fnAt up 1).cmpExpect.length = 64) ∧
    (∀ n ∈ [1, 64], ∀ b, let s := compared { cmpGo := true, cmpSlot := 7, cmpLen := n, cmpSpoiled := b } { valid := true, len := 64, data := zeros 64 } true
      ; let f := fnAt s 1; let x := smGet {} (padAt s 2).results f.cmpSlot
      ; (fnAt s 1).cmpGo = true ∧ padOfFn s 1 = some 2 ∧ 1 ≤ f.cmpLen ∧ f.cmpLen ≤ 64 ∧ x.valid = true ∧ f.cmpLen ≤ x.len ∧
        x.data.take f.cmpLen = f.cmpExpect.take f.cmpLen ∧ f.cmpSpoiled = b) ∧
    extendRights (compared {} {} true) 2 = true ∧ extendRights (compared {} {} false) 2 = false := by decide +kernel

/-- `up` with job 5 waiting for blob 3, whose key is to stand in slot 120. -/
def blobWait : State :=
  { up with tk := { unsealed := true, blobs := [(3, { present := true, paddock := 2, gen := 1, loadedAt := some 120, copy0 := true })] },
            jobs := [{ seq := 5, queue := 8, paddock := 2, waitKey := true, phase := .staged, desc := { opcode := 0x0302, keyRef := 2 * 2 ^ 59 + 1 * 2 ^ 55 + 2 ^ 32 + (2 ^ 31 + 3) } }] }

theorem test_wit_TackBackground :
    (let s := blobWait; s.fc.escNow = [] ∧ s.fc.retireNow = [] ∧ s.en.flushActive = false ∧ (jobOf s 5).isSome = true ∧ tackRefuses s = false ∧ (blobAt s 3).loadedAt = some 120 ∧
      (blobAt s 3).loaded = false ∧ (∀ j ∈ s.jobs, j.waitKey = true ∧ blobsOf j.paddock j.desc = [3] ∧ j.issued = false ∧ j.fixed = 0 ∧ j.phase = .staged ∧ j.silent = false) ∧
      s.jobs.Nodup ∧ (blobAt s 3).copy0 = true ∧ s.hl.failed0 = false) ∧
    (let s : State := { up with tk := { unsealed := true, restoring := true, slots := [(100, { state := 5, copy0 := true }), (101, { state := 5 }), (102, { state := 2 })] } }
     ; s.tk.restoring = true ∧ s.tk.hold = false ∧ smWf {} s.tk.slots = true ∧ s.jobs = [] ∧ copyReadable s (slotAt s 100) = true ∧ copyReadable s (slotAt s 101) = false) ∧
    (let s : State := { up with cache := [(5, { restoring := true })] }; s.sys.bootState = 1 ∧ s.hl.failed0 = false ∧ smWf {} s.cache = true) ∧
    (up.tk.unsealed = true ∧ sourceServes up = true ∧ up.rng.waiting = [] ∧ 1 ≤ up.rng.store) ∧ State.reset.tk.unsealed = false := by decide +kernel

/-- `blobWait` with a blob sealed under the parent in slot 100, or one whose tag is of another nonce. -/
def blobSealed (nonce : Bytes) : State :=
  { blobWait with tk := { unsealed := true, slots := [(100, { state := 2, material := zeros 32 })]
                          blobs := [(3, { present := true, paddock := 2, gen := 1, loadedAt := some 120, copy0 := true, parent := 100
                                          bytes := zeros 64 ++ gcmSeal (zeros 32) nonce (zeros 64) (zeros 16) })] } }

theorem test_wit_openBlob : openBlob (blobSealed (zeros 12)) 3 = some (zeros 16) ∧ openBlob (blobSealed (leBytes 12 1)) 3 = none := by decide +kernel

/-! ## Jobs -/

/-- A running job of an opcode, its absorption done, with room for every output. -/
def runJob (op ps : Nat) (d : Desc → Desc) : Job :=
  { seq := 5, queue := 8, paddock := 2, index := 1, phase := .running, stall := some 0, absorbed := true,
    desc := d { opcode := op, paramSet := ps, version := 2, out0Cap := 2 ^ 24 - 1, out1Cap := 2 ^ 24 - 1 } }

/-- `up` with that job running on stall 0, or ready in the tack room. -/
def runs (j : Job) (g : State → State) : State :=
  g { up with queues := [(8, { state := 1, fn := 1, p := 3, a := 1 })], jobs := [{ j with phase := if needKind up j = 0 then .staged else .running, stall := if needKind up j = 0 then none else some 0 }],
              stalls := [(0, { state := 2, jobs := [5] })] }

/-- The job of that state, of this opcode, may end now, with the capacity detail given. -/
def mayEnd (s : State) (op : Nat) (size : State → Job → Nat × Nat) (cap : Nat) : Bool :=
  match runningJob s 5 op with
  | none => false
  | some j => !j.bx && (!twoPhase j.desc (jobAlg s j) || j.absorbed) && capacityDetail j.desc (size s j) == cap && !j.issued

theorem mayEnd_executes {s : State} {op cap : Nat} {size : State → Job → Nat × Nat} (h : mayEnd s op size cap = true) :
    ∃ j, j.seq = 5 ∧ Executes s op j ∧ capacityDetail j.desc (size s j) = cap ∧ j.issued = false := by
  unfold mayEnd at h
  split at h
  · cases h
  · rename_i j hj
    simp only [Bool.and_eq_true, Bool.or_eq_true, Bool.not_eq_true', beq_iff_eq] at h
    have q : j.seq = 5 := by
      unfold runningJob jobOf at hj
      split at hj
      · cases hj
      · rename_i k hk
        have := List.find?_some hk
        simp only [Bool.and_eq_true, beq_iff_eq] at this
        split at hj
        · cases hj
        · split at hj
          · split at hj <;> cases hj
            exact this.1
          · split at hj <;> cases hj
            exact this.1
    obtain ⟨⟨⟨b, t⟩, c⟩, i⟩ := h
    exact ⟨j, q, ⟨q ▸ hj, b, fun e => by rcases t with t | t; · rw [t] at e; cases e
                                         · exact t⟩, c, i⟩

/-- Every opcode with a parameter set of its own. -/
def jobOps : List (Nat × Nat) :=
  [(0x0000, 0), (0x0100, 1), (0x0101, 3), (0x0102, 2), (0x0110, 1), (0x0111, 3), (0x0112, 2), (0x0200, 1), (0x0201, 12), (0x0202, 6), (0x0210, 0x55), (0x0211, 0x55),
   (0x0212, 0x55), (0x0220, 1), (0x0221, 1), (0x0222, 1), (0x0230, 0x55), (0x0300, 1), (0x0301, 10), (0x0302, 7), (0x0310, 1), (0x0311, 3), (0x0312, 2),
   (0x0E01, 0), (0x0400, 32), (0x0401, 64), (0x0402, 32), (0x0403, 32), (0x0404, 64), (0x0410, 1), (0x0411, 3), (0x0412, 2), (0x0418, 1),
   (0x0419, 3), (0x041A, 2), (0x0420, 1), (0x0421, 2), (0x0422, 1), (0x0428, 1), (0x0429, 2), (0x042A, 1), (0x0500, 1), (0x0510, 1), (0x0511, 1), (0x0518, 1),
   (0x0519, 2), (0x0520, 1), (0x0F00, 0), (0x0F01, 0), (0x0F02, 0), (0x0F03, 0), (0x0F06, 0), (0x0F07, 0), (0x0E00, 1)]

theorem test_wit_JobsRunOrLackRoom_KeyGenerationJobs_PublicKeyJobs_DigestJobs_KeyAndCacheJobs : jobOps.all (fun r => mayEnd (runs (runJob r.1 r.2 id) id) r.1 sizesOf 0) = true := by decide +kernel

theorem test_wit_JobsRunOrLackRoom_sizes : ∀ r ∈ [(0x0211, hbsSize), (0x0221, hbsSize), (0x0E10, quoteSizes), (0x0F04, exportSizes)],
    mayEnd (runs (runJob r.1 0x55 id) id) r.1 r.2 0 = true ∧ (∃ op ∈ [0x0101], mayEnd (runs (runJob op 1 fun d => { d with out0Cap := 0 }) id) op sizesOf 1 = true) ∧
    mayEnd (runs (runJob 0x0101 1 fun d => { d with out1Cap := 31 }) id) 0x0101 sizesOf 2 = true ∧
    mayEnd (runs (runJob 0x0101 1 fun d => { d with out0Cap := 767, out1Cap := 31 }) id) 0x0101 sizesOf 3 = true := by decide +kernel

/-- No job runs: every job command leaves the state. -/
theorem test_wit_JobsRunOrLackRoom_none : ∀ r ∈ jobOps, runningJob up 5 r.1 = none := by decide +kernel

/-- `up` whose slot 100 is PENDING, blob entry 3 reserved, cache entry 7 reserved, with a stateful key in slot 101 and its tree cache. -/
def keysAt (tree : Bool) : State :=
  { up with tk := { up.tk with slots := [(100, { state := 1, gen := 4 }), (101, { state := 2, cls := 5, alg := 40 })], hbs := [(101, { present := true, paramSet := 0x55 })] }
            cache := [(2 * 2 ^ 32 + 7, { present := true, gen := 1, complete := tree, tree := if tree then some 101 else none })] }

theorem test_wit_KeyAndCacheJobs_PublicKeyJobs :
    ((slotAt (keysAt true) 100).state = 1 ∧ (slotAt (keysAt true) 100).gen = 4) ∧
    (treeResident (keysAt true) 101 = true ∧ (let s : State := { keysAt false with plan := { up.plan with pads := [] }, cache := [(2 * 2 ^ 32 + 7, { present := true, size := 1 })] }
     ; withTree s 2 101 = none)) ∧
    (cacheKey 2 7 = 2 * 2 ^ 32 + 7 ∧ (cacheAt (keysAt true) (cacheKey 2 7)).complete = true ∧ (cacheAt (keysAt false) (cacheKey 2 7)).complete = false) ∧
    (keyCheck 16 1 (zeros 800) = none ∧ (keyCheck 16 1 (List.replicate 800 0xFF#8)).isSome = true ∧ (keyCheck 76 1 (zeros 65)).isSome = true ∧
      keyCheck 86 1 (leBytes 32 9) = none ∧ (keyCheck 86 1 (zeros 32)).isSome = true) ∧
    (oaepCheck 100 [5#8] = none ∧ (oaepCheck 100 [1#8]).isSome = true ∧ (oaepCheck 100 [99#8]).isSome = true) ∧
    (let j : Job := runJob 0x0511 1 fun d => { d with in1Len := 4 }; (hostIn j {}).in1 = zeros 4) ∧
    (crcParam 1).isSome = true ∧ crcValue ⟨4, 0xEDB88320, 0xFFFFFFFF, true, 0xFFFFFFFF⟩ true 0 [] = 0 := by decide +kernel

theorem test_wit_KeyAndCacheJobs_unwrap :
    kwUnwrap (zeros 32) (kwWrap (zeros 32) (leBytes 16 7)) 16 = some (leBytes 16 7) := by decide +kernel

theorem test_wit_KeyAndCacheJobs_unwrap_none : kwUnwrap (zeros 32) (zeros 24) 16 = none := by decide +kernel

/-- The S-box is the inverse in GF(2^8) under the affine map, and its inverse table is its inverse (FIPS 197). -/
theorem test_sbox : (List.range 256).all (fun a => sbox a == sboxOf a && invSbox (sbox a) == a) = true := by decide +kernel

/-- AES-256 as FIPS 197 appendix C.3 gives it. -/
theorem test_aes256 : aesEncrypt (aesKeys ((List.range 32).map (BitVec.ofNat 8))) ((List.range 16).map fun i => BitVec.ofNat 8 (17 * i)) =
    [0x8E#8, 0xA2#8, 0xB7#8, 0xCA#8, 0x51#8, 0x67#8, 0x45#8, 0xBF#8, 0xEA#8, 0xFC#8, 0x49#8, 0x90#8, 0x4B#8, 0x49#8, 0x60#8, 0x89#8] := by decide +kernel

/-- The private-key operation of a toy key gives the value whose power is c, and none where an exponent is wrong; OAEP decodes what was encoded; an error
vector is drawn. -/
theorem test_wit_PublicKeyJobs_rsa :
    rsaPrivate ⟨17, 61, 53, 53, 49, 38⟩ 10 1 1 65 = some 588 ∧ rsaPrivate ⟨17, 61, 53, 52, 49, 38⟩ 10 1 1 65 = none ∧
    oaepDecode 128 1 (oaepEncode 128 1 [7#8] (zeros 32)) = some [7#8] ∧ oaepDecode 128 1 (zeros 128) = none ∧
    (mceError 1 (zeros 32) 65536 0).isSome = true := by decide +kernel

/-- A cache entry of another load than handle `h` names, and one of its own, which is complete or waits for its load. -/
theorem test_wit_KeyAndCacheJobs_entries : let h := mkHandle 2 8 1 7
    (∀ b, ownEntry (keysAt b) (cacheKey 2 (hIdx h)) h = true ∧ (cacheAt (keysAt b) (cacheKey 2 (hIdx h))).complete = b) ∧
    ownEntry (keysAt true) (cacheKey 2 7) (mkHandle 2 8 2 7) = false ∧ blobOk up (runJob 0x0F05 0 id) (zeros 80) = false ∧
    mayEnd (runs (runJob 0x0F05 0 id) id) 0x0F05 sizesOf 0 = true := by decide +kernel

/-- A digest job of Benxis whose input is the feed FIFO 0 of paddock 2. -/
def fed (e : FeedEntry) : State :=
  { runs { runJob 0x0500 1 (fun d => { d with in0Len := 4, in0Addr := 2 ^ 24 }) with bx := true } id with feeds := [(32, { entries := [e] })] }

theorem test_wit_DigestJobs_feeds : ∀ e ∈ [({ data := zeros 4, eop := true } : FeedEntry), { data := zeros 3, eop := true }, { data := zeros 4, eop := false }],
    (match runningJob (fed e) 5 0x0500 with
     | none => false
     | some j => j.seq == 5 && feedOf j == some 32 && j.feedCopy.isNone && j.feedBad == 0 && inl8 j.desc 0x40 == 0 && capacityDetail j.desc (outSizes j.desc ((algOf j.desc).getD 0) [] 0) == 0
         && j.desc.in0Len == 4) = true ∧
    (feedAt (fed e) 32).entries = [e] ∧ (feedAt (fed e) 32).stopped = false := by decide +kernel

/-- Jobs of two phases before their first has ended. -/
theorem test_wit_PublicKeyJobs_absorb : ∀ op ∈ [0x0421, 0x0422, 0x0E10],
    (match runningJob (runs { runJob op 1 id with absorbed := false } id) 5 op with
     | none => false
     | some j => j.seq == 5 && !j.bx && !j.absorbed && inl8 j.desc 0x40 == 0 && j.desc.keyRef == 0 && capacityDetail j.desc (if op = 0x0E10 then quoteSizes up j else sizesOf up j) == 0) = true := by
  decide +kernel

/-! ## Plan, life cycle, identity -/

/-- A partial plan being swapped in for paddock 2. -/
def swapping (jobs : List Job) : State := { up with pl := { swap := some { paddock := 2, record := pad2, serial := 9 }, busy := true, phase := 2 }, jobs := jobs }

theorem test_wit_PlanChanges :
    (regsUp up 0 = true ∧ plBusy up = false ∧ plBusy (swapping []) = true ∧ (partialFault up []).isSome = true) ∧
    (partialDrained (swapping []) { paddock := 2, record := pad2, serial := 9 } = true ∧ (swapping []).fc.escNow = [] ∧ (swapping []).fc.retireNow = [] ∧
      regsUp (swapping []) 0 = true) ∧
    (let w : PartialPlan := { paddock := 2, record := { pad2 with stallMap := 0 } }
     ; let s : State := { up with pl := { swap := some w }, stalls := [(0, { state := 2, dedicated := some 2 })] }
     ; s.pl.swap = some w ∧ partialDrained s w = false) ∧
    (plUp up 0 = true ∧ ∀ p, (storeFault up [] p).isSome = true) ∧
    (let s : State := { up with pl := { applying := true, busy := true, stored := [0x10] } }
     ; s.pl.applying = true ∧ s.jobs = [] ∧ s.sys.bootState = 1 ∧ s.sys.deepSleep = false ∧ s.en.flushActive = false ∧ s.pl.swap = none ∧ s.pl.stored = [0x10]) ∧
    (let s : State := { up with pl := { applying := true }, jobs := [{}] }; s.jobs ≠ [] ∧ s.pl.swap = none) := by decide +kernel

theorem test_wit_PlanChanges_store :
    (let s : State := { up with sys := { up.sys with bootState := 4, reason := 2 } }; s.sys.porstN = true ∧ s.sys.bootState = 4 ∧ plBusy s = false ∧
      channelUp s 0 = true) ∧
    (let s : State := { up with pl := { applying := true, busy := true } }; s.pl.stored = [] ∧ (dirNow s).fresh = [] ∧ bankSuffices s = true ∧ s.jobs = [] ∧ NothingDue s) ∧
    channelUp up 0 = true ∧ NothingDue (swapping []) := by unfold NothingDue; decide +kernel

/-- `up` in a life-cycle state and step. -/
def lifeAt (st step : Nat) (g : State → State) : State := g { up with lc := { slots := [(0, { rawSlot with state := st })], state := st, step := step } }

/-- LOCKED with two used slots. -/
def lockedPart : State := { up with sys := { up.sys with bootState := 3 }, lc := { state := 7, slots := [(0, { rawSlot with state := 1 }), (1, { rawSlot with state := 2 })] } }

theorem test_wit_LifeCycleTransitions :
    (∀ st ∈ [0, 1, 4], let s := lifeAt st 0 id; regsUp s 0 = true ∧ lcBusy s = false ∧ tokenFault s [] ≠ 0 ∧
      (s.sys.porstN && !s.lc.resetRequired && !s.en.flushActive && s.sys.bootState == 1 && decide (s.lc.state ∈ [0, 1, 4])) = true) ∧
    lcBusy (lifeAt 1 3 id) = true ∧
    (let s := lifeAt 0 3 id; s.lc.step = 3 ∧ s.jobs = []) ∧ (let s := lifeAt 0 3 fun s => { s with jobs := [{}] }; s.lc.step = 3 ∧ s.jobs ≠ []) ∧
    (lifeAt 1 8 id).lc.step = 8 ∧
    (let s := lockedPart; (recoveryUp s 0 && s.sys.bootState == 3 && !s.lc.resetRequired) = true ∧ (s.sys.porstN && !s.lc.resetRequired && !s.en.flushActive && s.sys.bootState == 3) = true ∧
      lcBusy s = false ∧ s.lc.state = 7 ∧ completeFault s [] ≠ 0) := by decide +kernel

theorem test_wit_IdentityAndDebug :
    (let s := lifeAt 1 0 id; regsUp s 0 = true ∧ s.lc.state = 1 ∧ lcBusy s = false ∧ s.lc.identity = false ∧ lcUp s 1 = true ∧ lcUp s 0 = true ∧
      s.sys.porstN = true ∧ s.sys.deepSleep = false ∧ debugUp s = true ∧ s.sys.boundary = false ∧ debugTokenOk s [] = false) ∧
    (lifeAt 1 0 fun s => { s with lc := { s.lc with identity := true } }).lc.identity = true := by decide +kernel

theorem test_wit_IdentityAndDebug_certs (h : Config.certNames = fun _ _ _ => true) : certsMatch (lifeAt 1 0 id) (List.replicate 6 [1#8]) = true := by
  simp [certsMatch, h, List.replicate]

theorem test_wit_IdentityAndDebug_store : hayloftWrites { lifeAt 1 0 id with hl := { wpReleased := true } } = true ∧
    lcBusy { lifeAt 1 0 id with lc := { state := 1, busy := true } } = true ∧ padOfFn (lifeAt 1 0 id) 1 = some 2 ∧ padOfFn (lifeAt 1 0 id) 2 = none ∧
    lcUp { lifeAt 1 0 id with fns := [(2, { present := true })] } 2 = true := by decide +kernel

theorem test_wit_IdentityAndDebug_keys (s : State) : (identityPk s).1 ++ (identityPk s).2 ≠ [] := by
  have h (w : Nat) (p : Point) : encodePoint w p ≠ [] := by cases p <;> simp [encodePoint]
  simp [identityPk, nistPublic, h]

theorem test_wit_IdentityAndDebug_calm : Calm (lifeAt 1 0 id) := ⟨⟨rfl, rfl⟩, fun _ => rfl⟩

/-! ## Signed containers -/

theorem slice_left {a g : Bytes} {o n : Nat} (h : o + n ≤ a.length) : slice (a ++ g) o n = slice a o n := by
  simp only [slice]
  rw [List.drop_append_of_le_length (by omega), List.take_append_of_le_length (by simp; omega)]

/-- A life-cycle token from RAW to FACTORY for device 7 (Table 05.3), before its block. -/
def factoryHead : Bytes :=
  leBytes 4 0x1C7E0A5D ++ leBytes 2 1 ++ leBytes 1 0 ++ leBytes 1 1 ++ leBytes 8 7 ++ leBytes 4 1 ++ leBytes 4 1 ++ leBytes 1 1 ++ zeros 7 ++ zeros 48 ++ zeros 48

theorem factory_parts (g : Bytes) (hg : g.length = 4736) :
    (factoryHead ++ g).length = 4864 ∧ u32 (factoryHead ++ g) 0 = 0x1C7E0A5D ∧ u16 (factoryHead ++ g) 4 = 1 ∧ tokFrom (factoryHead ++ g) = 0 ∧ tokTo (factoryHead ++ g) = 1 ∧
    tokDevice (factoryHead ++ g) = 7 ∧ tokSeq (factoryHead ++ g) = 1 ∧ tokEpoch (factoryHead ++ g) = 1 ∧ tokCount (factoryHead ++ g) = 1 ∧
    slice (factoryHead ++ g) 0x19 7 = zeros 7 ∧ slice (factoryHead ++ g) 0x50 48 = zeros 48 ∧ tokDigest (factoryHead ++ g) = zeros 48 ∧ tokBlock (factoryHead ++ g) 0 = g := by
  have hl : factoryHead.length = 128 := by decide +kernel
  have lift : ∀ o n, o + n ≤ 128 → slice (factoryHead ++ g) o n = slice factoryHead o n := fun o n h => slice_left (hl ▸ h)
  refine ⟨by rw [List.length_append, hl, hg], ?_, ?_, ?_, ?_, ?_, ?_, ?_, ?_, ?_, ?_, ?_, ?_⟩
  rotate_right 1
  · simp only [tokBlock, slice]
    rw [List.drop_left' (by rw [hl])]
    exact List.take_of_length_le (by rw [hg])
  all_goals
    try simp only [u32, u16, tokFrom, tokTo, tokDevice, tokSeq, tokEpoch, tokCount, tokDigest, u8, u64]
    rw [lift _ _ (by decide)]
    decide +kernel

/-- A die that has left the ledger's first state: slot 0 RAW, slot 1 FACTORY with sequence number 1 and epoch 1. -/
def halfMoved : State :=
  let x : LedgerSlot := { rawSlot with seq := 1, epoch := 1, state := 1, codeword := codewordOf 1 }
  { up with sys := { up.sys with bootState := 3 }, lc := { state := 7, slots := [(0, rawSlot), (1, { x with crc := crc32c (slotBytes x) })] } }

theorem halfMoved_slots : usedSlots halfMoved = [0, 1] ∧ (∀ i < 2, slotClass (ledgerSlot halfMoved i) = 1) ∧ (ledgerSlot halfMoved 0).state = 0 ∧ (ledgerSlot halfMoved 0).seq = 0 ∧
    (ledgerSlot halfMoved 1).state = 1 ∧ (ledgerSlot halfMoved 1).seq = 1 ∧ (ledgerSlot halfMoved 1).epoch = 1 ∧ (ledgerSlot halfMoved 1).ownerDigest = zeros 48 ∧
    halfMoved.lc.rootPresent = false := by decide +kernel

/-- The transition RAW to FACTORY is valid, and COMPLETE finishes it, where its signature verifies. -/
theorem test_wit_lifeToken (h : Config.hybridVerify = fun _ _ _ _ _ => true) :
    tokenFault (lifeAt 0 0 id) (factoryHead ++ block) = 0 ∧ completeFault halfMoved (factoryHead ++ block) = 0 ∧ completeTarget halfMoved (factoryHead ++ block) = some 1 := by
  obtain ⟨a, b, c, d, e, f, g, i, j, k, l, m, n⟩ := factory_parts block block_length
  generalize factoryHead ++ block = t at *
  have z7 : allZero (zeros 7) = true := by decide
  have z48 : allZero (zeros 48) = true := by decide
  have formed : tokenFormed t = true := by simp [tokenFormed, a, b, c, j, k, l, n, z7, z48, block_ok]
  have row : transRow (tokFrom t) (tokTo t) = some { signers := [.habervo] } := by rw [d, e]; rfl
  have signed : ∀ l, tokenSigned t { signers := [.habervo] } l = true := by intro l; simp [tokenSigned, block_signed h, n]
  obtain ⟨q1, q2, q3, q4, q5, q6, q7, q8, q9⟩ := halfMoved_slots
  have c0 := q2 0 (by decide)
  have c1 := q2 1 (by decide)
  have target : completeTarget halfMoved t = some 1 := by
    have t0 : Machine.targetOk halfMoved t 0 = false := by simp [Machine.targetOk, c0, q3, e]
    have t1 : Machine.targetOk halfMoved t 1 = true := by simp [Machine.targetOk, c1, q5, q6, q7, q8, e, g, i, m]
    have b0 : besideOk halfMoved t 0 = true := by simp [besideOk, c0, q3, q4, d, g]
    have r : List.range 8 = [0, 1, 2, 3, 4, 5, 6, 7] := by decide
    simp [completeTarget, q1, r, List.find?, t0, t1, b0]
  refine ⟨?_, ?_, target⟩
  · have s1 : (lifeAt 0 0 id).lc.seq = 0 := rfl
    have s2 : (lifeAt 0 0 id).lc.state = 0 := rfl
    have r01 : transRow 0 1 = some { signers := [.habervo] } := rfl
    have s3 : (lifeAt 0 0 id).lc.ownerDigest = [] := rfl
    simp [tokenFault, formed, signed, j, d, e, g, i, m, s1, s2, s3, epochAfter, digestAfter, r01]
  · have r01 : transRow 0 1 = some { signers := [.habervo] } := rfl
    simp [completeFault, formed, signed, j, q9, target, completeRow, c1, d, e, r01]

/-- The bytes of an image before its block (Table 04.7): header, one section entry, padding, one section of a multiple of 64 bytes. -/
def imageHead (kind serial pad owner sec crc : Nat) (key content : Bytes) : Bytes :=
  let entry := leBytes 2 sec ++ leBytes 2 0 ++ leBytes 4 0x140 ++ leBytes 4 content.length ++ leBytes 4 crc
  let rest := entry ++ zeros 48 ++ content
  let digest := sha3_384 (entry ++ content)
  leBytes 4 0xCAE6B0E5 ++ leBytes 2 3 ++ leBytes 2 kind ++ leBytes 4 (0x140 + content.length + 4736) ++ leBytes 4 (0x140 + content.length) ++ leBytes 8 serial ++
  leBytes 4 1 ++ leBytes 4 1 ++ leBytes 4 0 ++ leBytes 1 pad ++ leBytes 1 owner ++ leBytes 2 1 ++ leBytes 8 0 ++ leBytes 1 0xB0 ++ zeros 15 ++ digest ++ key ++ zeros 96 ++ rest

/-- Every field of the container and its digest, read from the bytes before the block. -/
def headFacts (a : Bytes) (kind pad sec len crc : Nat) (content key : Bytes) : Bool :=
  a.length == 0x140 + len && u32 a 0 == 0xCAE6B0E5 && u16 a 4 == 3 && u16 a 6 == kind && u32 a 8 == 0x140 + len + 4736 && u32 a 0xC == 0x140 + len && u32 a 0x18 == 1 &&
  u32 a 0x1C == 1 && u32 a 0x20 == 0 && u8 a 0x24 == pad && u8 a 0x25 == 8 && u16 a 0x26 == 1 && u64 a 0x28 == 0 && u8 a 0x30 == 0xB0 && allZero (slice a 0x31 15) &&
  slice a 0x40 48 == sha3_384 (slice a 0x100 16 ++ slice a 0x140 len) && slice a 0x70 48 == key && allZero (slice a 0xA0 96) &&
  u16 a 0x100 == sec && u16 a 0x102 == 0 && u32 a 0x104 == 0x140 && u32 a 0x108 == len && u32 a 0x10C == crc && slice a 0x140 len == content

/-- A signed image whose fields are right has no fault (R85). -/
theorem image_valid (h : Config.hybridVerify = fun _ _ _ _ _ => true) (s : State) (a : Bytes) (kind pad sec len : Nat) (content key : Bytes)
    (hf : headFacts a kind pad sec len (crc32c content) content key = true) (hl : len % 64 = 0) (hl0 : len ≤ 1024) (hp : if kind = 0x11 then pad ≤ 31 else pad = 0xFF)
    (hk : kind = 0x11 ∨ kind = 0x01) (hs : s.lc.state = 3) (hkey : key = signerKey s kind) (hfl : floorOf s kind ≤ 1) (he : s.lc.epoch = 0) :
    copyFault s (a ++ block) = none ∧ sectionsOf (a ++ block) = [{ kind := sec, flags := 0, offset := 0x140, length := len, crc := crc32c content }] ∧
    slice (a ++ block) 0x140 len = content ∧ imgKind (a ++ block) = kind ∧ u8 (a ++ block) 0x024 = pad ∧ imgSerial (a ++ block) = u64 a 0x10 := by
  simp only [headFacts, Bool.and_eq_true, beq_iff_eq] at hf
  obtain ⟨⟨⟨⟨⟨⟨⟨⟨⟨⟨⟨⟨⟨⟨⟨⟨⟨⟨⟨⟨⟨⟨⟨l, f0⟩, f4⟩, f6⟩, f8⟩, fc⟩, f18⟩, f1c⟩, f20⟩, f24⟩, f25⟩, f26⟩, f28⟩, f30⟩, f31⟩, f40⟩, f70⟩, fa0⟩, g0⟩, g2⟩, g4⟩, g8⟩, gc⟩, gs⟩ := hf
  have lift : ∀ o n, o + n ≤ 0x140 + len → slice (a ++ block) o n = slice a o n := fun o n h => slice_left (l ▸ h)
  have hb := block_length
  have l32 : ∀ o, o + 4 ≤ 0x140 → u32 (a ++ block) o = u32 a o := fun o h => by simp only [u32]; rw [lift _ _ (by omega)]
  have l16 : ∀ o, o + 2 ≤ 0x140 → u16 (a ++ block) o = u16 a o := fun o h => by simp only [u16]; rw [lift _ _ (by omega)]
  have l8 : ∀ o, o + 1 ≤ 0x140 → u8 (a ++ block) o = u8 a o := fun o h => by simp only [u8]; rw [lift _ _ (by omega)]
  have l64 : ∀ o, o + 8 ≤ 0x140 → u64 (a ++ block) o = u64 a o := fun o h => by simp only [u64]; rw [lift _ _ (by omega)]
  have so : sigOffset (a ++ block) = 0x140 + len := by rw [sigOffset, l32 _ (by decide), fc]
  have dr : (a ++ block).drop (0x140 + len) = block := List.drop_left' l
  have ln : (a ++ block).length = 0x140 + len + 4736 := by rw [List.length_append, l, hb]
  have sec1 : sectionsOf (a ++ block) = [{ kind := sec, flags := 0, offset := 0x140, length := len, crc := crc32c content }] := by
    unfold sectionsOf
    rw [l16 _ (by decide), f26]
    simp only [List.range_one, List.map_cons, List.map_nil, sectionAt]
    rw [l16 _ (by decide), l16 _ (by decide), l32 _ (by decide), l32 _ (by decide), l32 _ (by decide), g0, g2, g4, g8, gc]
  have ct : slice (a ++ block) 0x140 len = content := by rw [lift _ _ (by omega), gs]
  have k6 : imgKind (a ++ block) = kind := by rw [imgKind, l16 _ (by decide), f6]
  refine ⟨?_, sec1, ct, k6, by rw [l8 _ (by decide), f24], by rw [imgSerial, l64 _ (by decide)]⟩
  have sat : sectionAt (a ++ block) 0 = { kind := sec, flags := 0, offset := 0x140, length := len, crc := crc32c content } := by
    have := sec1
    unfold sectionsOf at this
    rw [l16 _ (by decide), f26] at this
    simpa using this
  have sf : sectionFault (a ++ block) 0 = none := by
    simp only [sectionFault, sat, so, ct]
    rw [l16 _ (by decide), f26]
    simp [firstBad]
  have hd : headerFault (a ++ block) = none := by
    unfold headerFault
    rw [k6, so, dr, ln, l32 _ (by decide), l16 _ (by decide), l32 _ (by decide), l32 _ (by decide), l32 _ (by decide), l8 _ (by decide), l8 _ (by decide), l16 _ (by decide),
      l8 _ (by decide), lift _ _ (by omega), lift _ _ (by omega), imgFloor, l32 _ (by decide), f0, f4, f8, f18, f1c, f20, f24, f25, f26, f30, f31, fa0, block_ok]
    have km : 0x140 + len + 4736 ≤ kindMax kind := by rcases hk with rfl | rfl <;> simp [kindMax] <;> omega
    have r1 : List.range (min 64 1) = [0] := by decide
    rw [r1]
    have km' : ¬ kindMax kind < 0x140 + len + 4736 := by omega
    rcases hk with rfl | rfl <;> simp [firstBad, sf, slotKinds, isPlanKind, km'] at hp ⊢ <;>
      rw [if_neg (by omega), if_pos (by omega)]
    · exact if_neg (by omega)
    · exact if_pos hp
  have di : digestInput (a ++ block) = slice a 0x100 16 ++ slice a 0x140 len := by
    rw [digestInput, sec1, l16 _ (by decide), f26, lift _ _ (by omega)]
    simp [ct, gs]
  unfold copyFault
  rw [hd, k6, so, dr, imgDigest, di, lift _ _ (by omega), lift _ _ (by omega), l32 _ (by decide), l8 _ (by decide), l64 _ (by decide), l32 _ (by decide),
    f40, f70, f18, f25, f28, f20, block_signed h]
  dsimp only
  rw [← hkey, hs, he]
  have t3 : Nat.testBit 8 3 = true := by decide
  have nf : ¬ 1 < floorOf s kind := by omega
  simp [firstBad, nf, hasBit, t3]

/-- `up` in OWNED, the owner's key of 48 zero bytes. -/
def owned : State := { up with lc := { state := 3, ownerDigest := zeros 48 } }

/-- A firmware image of 64 bytes, before its block. -/
def firmware : Bytes := imageHead 0x01 1 0xFF 8 1 (crc32c (zeros 64)) (zeros 48) (zeros 64)

theorem firmware_facts : headFacts firmware 0x01 0xFF 1 64 (crc32c (zeros 64)) (zeros 64) (zeros 48) = true := by decide +kernel

theorem test_wit_storeImage (h : Config.hybridVerify = fun _ _ _ _ _ => true) (hk : Config.habervoImageKeyId = zeros 48) :
    plUp owned 0 = true ∧ plBusy owned = false ∧ storeFault owned (firmware ++ block) false = none := by
  have v := image_valid h owned firmware 0x01 0xFF 1 64 (zeros 64) (zeros 48) firmware_facts rfl (by decide) (by decide) (by decide) rfl (by rw [signerKey, hk]; rfl) (by decide) rfl
  obtain ⟨a, -, -, d, -⟩ := v
  generalize firmware ++ block = img at *
  refine ⟨by decide +kernel, by decide +kernel, ?_⟩
  unfold storeFault
  rw [d, a]
  simp [slotKinds, errAt]

/-- Paddock 2's record in bytes (Table 04.9): its stalls, cores, queues and slots as `pad2` has them, ML-KEM permitted to none. -/
def recordOfPad2 : Bytes :=
  leBytes 1 2 ++ leBytes 1 3 ++ leBytes 2 64 ++ leBytes 4 16 ++ leBytes 8 0 ++ leBytes 2 0x38 ++ leBytes 2 4 ++ leBytes 4 4096 ++ leBytes 2 1 ++ leBytes 2 100 ++ leBytes 2 32 ++ zeros 2 ++
  leBytes 4 8 ++ leBytes 4 4 ++ leBytes 8 1 ++ zeros 64 ++ zeros 144

def partialPlan : Bytes := imageHead 0x11 9 2 8 2 1632383717 (zeros 48) recordOfPad2

theorem crcRefl_append (p : Nat) (a b : Bytes) : ∀ c, crcRefl p c (a ++ b) = crcRefl p (crcRefl p c a) b := by
  induction a with
  | nil => intro c; rfl
  | cons x r ih => intro c; exact ih _

theorem crc_piece0 : crcRefl 0x82F63B78 0xFFFFFFFF (recordOfPad2.take 64) = 3390657541 := by decide +kernel
theorem crc_piece1 : crcRefl 0x82F63B78 3390657541 (slice recordOfPad2 64 64) = 1427679002 := by decide +kernel
theorem crc_piece2 : crcRefl 0x82F63B78 1427679002 (slice recordOfPad2 128 64) = 1836892986 := by decide +kernel
theorem crc_piece3 : crcRefl 0x82F63B78 1836892986 (slice recordOfPad2 192 64) = 2662583578 := by decide +kernel
theorem record_pieces : recordOfPad2 = recordOfPad2.take 64 ++ slice recordOfPad2 64 64 ++ slice recordOfPad2 128 64 ++ slice recordOfPad2 192 64 := by decide +kernel

theorem crc_join {m a b c d : Bytes} {x y z w : Nat} (e : m = a ++ b ++ c ++ d) (ha : crcRefl 0x82F63B78 0xFFFFFFFF a = x) (hb : crcRefl 0x82F63B78 x b = y)
    (hc : crcRefl 0x82F63B78 y c = z) (hd : crcRefl 0x82F63B78 z d = w) : crc32c m = w ^^^ 0xFFFFFFFF := by
  rw [crc32c, e, crcRefl_append, crcRefl_append, crcRefl_append, ha, hb, hc, hd]

theorem crc_record : crc32c recordOfPad2 = 1632383717 := crc_join record_pieces crc_piece0 crc_piece1 crc_piece2 crc_piece3

theorem partial_facts : headFacts partialPlan 0x11 2 2 256 1632383717 recordOfPad2 (zeros 48) = true := by decide +kernel

theorem partial_checks :
    let w : PartialPlan := { paddock := 2, record := padOfBytes recordOfPad2, serial := 9 }
    rangeField (padOfBytes recordOfPad2) = none ∧ ((mergedPads owned w).map (·.cacheUnits)).sum ≤ 512 ∧ ((mergedPads owned w).map (·.energyShare)).sum ≤ 256 ∧ ((mergedPads owned w).map (·.yardCells)).sum ≤ 126976 ∧
    (permitted (padOfBytes recordOfPad2)).any (floorMissed (padOfBytes recordOfPad2)) = false ∧
    (permitted (padOfBytes recordOfPad2)).any (unreachableAlg owned.plan.part.poolMap owned.plan.sheds (padOfBytes recordOfPad2)) = false ∧ serialUsed owned 9 = false ∧ dependencyGone owned = false ∧
    partialConflict owned w = none ∧ reservedField recordOfPad2 = none ∧ rangedField recordOfPad2 = none := by
  decide +kernel

theorem test_wit_loadPartial (h : Config.hybridVerify = fun _ _ _ _ _ => true) :
    regsUp owned 0 = true ∧ plBusy owned = false ∧ partialFault owned (partialPlan ++ block) = none := by
  have v := image_valid h owned partialPlan 0x11 2 2 256 recordOfPad2 (zeros 48) (crc_record ▸ partial_facts) rfl (by decide) (by decide) (by decide) rfl rfl (by decide) rfl
  refine ⟨by decide +kernel, by decide +kernel, ?_⟩
  obtain ⟨a, b, c, d, e, f⟩ := v
  have ser : u64 partialPlan 0x10 = 9 := by decide +kernel
  rw [ser] at f
  generalize partialPlan ++ block = img at *
  have s2 : secsOf img 2 = [(0x140, recordOfPad2)] := by simp [secsOf, b, c]
  have s3 : secsOf img 3 = [] := by simp [secsOf, b]
  have s4 : secsOf img 4 = [] := by simp [secsOf, b]
  have r : removalRecord recordOfPad2 = false := by decide +kernel
  have w : partialOf img = { paddock := 2, record := padOfBytes recordOfPad2, serial := 9, digest := imgDigest img, image := img } := by
    simp [partialOf, secOf, s2, s3, s4, r, e, f]
  have cb : partialCountsBad img = false := by
    have u : u8 recordOfPad2 0 = 2 := by decide +kernel
    have l : recordOfPad2.length = 256 := by decide +kernel
    simp [partialCountsBad, s2, s3, s4, b, e, u, l]
  have pc : ∀ f : Bytes → Option Nat, padCheck img f = (f recordOfPad2).map (0x140 + ·) := by
    intro f
    simp only [padCheck, s2, List.findSome?]
    cases f recordOfPad2 <;> rfl
  have m : mergedPads owned { paddock := 2, record := padOfBytes recordOfPad2, serial := 9, digest := imgDigest img, image := img } =
      mergedPads owned { paddock := 2, record := padOfBytes recordOfPad2, serial := 9 } := rfl
  have p : partialConflict owned { paddock := 2, record := padOfBytes recordOfPad2, serial := 9, digest := imgDigest img, image := img } =
      partialConflict owned { paddock := 2, record := padOfBytes recordOfPad2, serial := 9 } := rfl
  obtain ⟨q4, q0, q5, q6, q7, q8, qc, qd, qe, qf, q10⟩ := partial_checks
  simp only [List.any_eq_false, Bool.not_eq_true] at q7 q8
  simp [partialFault, partialFaults, a, d, w, cb, pc, secOf, s2, m, p, errAt, errIf, q4, q0, q5, q6, qc, qd, qe, qf, q10]
  exact ⟨q7, q8⟩

/-! ## Benxis -/

/-- Core 3 of paddock 2, running at 0x1000 the instruction whose bytes the encoder gives; W1, W2 INT, W3, W4 NAT, W5, W6 BYTES, W7 PTR 0x2000,
W8 HANDLE, W9, W10 SECRET, W11 CODE 0x1100, W12 POISON, W13 INT 0. -/
def bxAt (op : Nat) (f : BxFields) (g : Core → Core) : State :=
  { up with cores := [(3, g {
      state := 2, pc := 0x1000, codeAt := 0x1000, codeLen := 24, mem := fillWords tCode 3 [] 0x200 (padTo 24 (bxEncode op f)),
      dsLow := 0x3000, dsHigh := 0x4000, dsp := mkTW tPtr 0x3800, flg := mkTW tNat 0, spillAt := 0x8000, spillLen := 0x100,
      w := [(1, mkTW 1 5), (2, mkTW 1 7), (3, mkTW 2 5), (4, mkTW 2 7), (5, mkTW 3 5), (6, mkTW 3 7), (7, mkTW 4 0x2000), (8, mkTW 6 9), (9, mkTW 7 5), (10, mkTW 7 7),
            (11, mkTW 5 0x1100)],
      v := [(1, { d := 5, tag := 1 }), (2, { d := 7, tag := 1 }), (3, { d := 5, tag := 2 }), (4, { d := 7, tag := 2 }), (7, { d := 5, tag := 3 }), (9, { d := 5, tag := 7 })] })] }

/-- The core takes that instruction. -/
def taken (s : State) (op : Nat) (f : BxFields) : Bool :=
  coreTakes s 3 && (match fetch (coreAt s 3) with
    | .found o g n => o == op && g == f && n == (bxEncode op f).length
    | .trap _ => false)

theorem taken_runs {s : State} {op : Nat} {f : BxFields} (h : taken s op f = true) : Runs s 3 op f (bxEncode op f).length := by
  unfold taken at h
  split at h
  · rename_i hf
    simp only [Bool.and_eq_true, beq_iff_eq] at h
    obtain ⟨a, ⟨rfl, rfl⟩, rfl⟩ := h
    exact ⟨a, hf⟩
  · simp at h

/-- What a tag check answers. -/
def isTag (t : Nat) : Except Trap Nat → Bool
  | .ok x => x == t
  | .error _ => false
def isOk {α : Type} : Except Trap α → Bool
  | .ok _ => true
  | .error _ => false

/-- Two registers and a destination. -/
def r3 (rd a b : Nat) : BxFields := { rd := rd, rs1 := a, rs2 := b }
/-- An immediate in its place. -/
def ri (rd a : Nat) (v : W64) : BxFields := { rd := rd, rs1 := a, i := true, isize := 0, imm := v }

/-- The instruction with two sources is taken and its check answers `t`. -/
def pairIs (op : Nat) (f : BxFields) (ga gb : Accept) (p : Nat → Nat → Option Nat) (imm : Nat → Nat) (t : Nat) : Bool :=
  let s := bxAt op f id
  taken s op f && isTag t (check2 ga gb p (opRs1 (coreAt s 3) f) (opRs2 (coreAt s 3) f imm))

def oneIs (op : Nat) (f : BxFields) (g : Accept) : Bool :=
  let s := bxAt op f id
  taken s op f && isOk (check1 g (opRs1 (coreAt s 3) f))

theorem test_wit_BenxisArithmeticWritesRdAndFlags :
    (∀ e ∈ [(r3 14 1 2, 1), (r3 14 3 4, 2), (r3 14 9 10, 7), (r3 14 7 1, 4), (ri 14 1 4, 1), ({ r3 14 1 2 with chk := true }, 1), ({ r3 14 3 4 with w32 := true }, 2),
      ({ r3 14 7 1 with w32 := true }, 4)], pairIs 0x08 e.1 accArith accArith pairAdd immArith e.2 = true) ∧
    (∀ e ∈ [(r3 14 1 2, 1), (r3 14 3 4, 2), (r3 14 9 10, 7), (r3 14 7 1, 4), (ri 14 1 4, 1), ({ r3 14 3 4 with chk := true }, 2)], pairIs 0x09 e.1 accArith accArith pairSub immArith e.2 = true) ∧
    oneIs 0x0A (r3 14 1 0) accNeg = true ∧ oneIs 0x0A { r3 14 1 0 with chk := true } accNeg = true ∧
    (∀ op ∈ [0x0B, 0x0C, 0x0D, 0x0E], ∀ e ∈ [(r3 14 1 2, 1), (r3 14 5 6, 3), (r3 14 9 10, 7), (ri 14 3 4, 2)], pairIs op e.1 accLogic accLogic pairBits immSame e.2 = true) ∧
    oneIs 0x0F (r3 14 3 0) accLogic = true := by decide +kernel

theorem test_wit_BenxisShiftsCountsCompareSelect :
    (∀ op ∈ [0x10, 0x11, 0x12, 0x13, 0x14], ∀ e ∈ [(r3 14 1 2, 1), (r3 14 3 4, 2), (r3 14 9 10, 7), (ri 14 3 64, 2), (ri 14 3 0, 2)], pairIs op e.1 accLogic accAmount pairShift immInt e.2 = true) ∧
    (∀ op ∈ [0x15, 0x16, 0x17], ∀ a ∈ [3, 9], oneIs op (r3 14 a 0) accCount = true) ∧
    (∀ e ∈ [(r3 0 1 2, 1), (r3 0 3 4, 2), (r3 0 8 8, 6), (r3 0 11 11, 5)], pairIs 0x18 e.1 accCmp accCmp pairSame immSame e.2 = true) ∧
    (∀ op ∈ [0x19, 0x1A, 0x1B], ∀ e ∈ [(r3 1 1 2, 1), (r3 1 3 4, 2), (r3 1 9 10, 7)], pairIs op e.1 accLogic accLogic pairSame immSame e.2 = true) ∧
    isOk (check1 accLogic (opRd (coreAt (bxAt 0x1B (r3 1 1 2) id) 3) (r3 1 1 2))) = true := by decide +kernel

/-- A core with operations in flight in both units. -/
def busyUnits : State := bxAt 0x00 {} fun c => { c with mul := some {}, div := some {} }

theorem test_wit_BenxisMultiplyAndDivide :
    (∀ op ∈ [0x40, 0x42], ∀ e ∈ [(r3 14 1 2, 1), (r3 14 9 10, 7), (ri 14 1 0, 1), (ri 14 1 (-1#64), 1), ({ ri 14 1 0 with chk := op == 0x42 }, 1)], pairIs op { e.1 with rd := 0 } accMulS accMulS pairSame immSame e.2 = true) ∧
    (∀ op ∈ [0x41, 0x43], ∀ e ∈ [(r3 14 3 4, 2), (r3 14 9 10, 7), (ri 14 3 0, 2)], pairIs op { e.1 with rd := 0 } accMulU accMulU pairSame immSame e.2 = true) ∧
    (coreAt busyUnits 3).mul = some {} ∧ (coreAt busyUnits 3).div = some {} := by decide +kernel

/-- A vector instruction of lanes of `8 · 2 ^ ls` bits. -/
def vf (ls rd a b : Nat) : BxFields := { vec := true, rd := rd + 16 * (ls / 2), rs1 := a + 16 * (ls % 2), rs2 := b }

def vecIs (op : Nat) (f : BxFields) (ga gb : Accept) (p : Nat → Nat → Option Nat) (imm : Nat → Nat) (t : Nat) : Bool :=
  let s := bxAt op f id
  taken s op f && f.vec && decide (laneWidth f ∈ [8, 16, 32, 64]) && isTag t (check2 ga gb p (vOpd (coreAt s 3) f.rs1 1) (secondOpd (coreAt s 3) f imm))

theorem test_wit_BenxisVectorForms :
    (∀ ls < 4, vecIs 0x08 (vf ls 1 1 2) accArith accArith pairAdd immArith 1 = true ∧ vecIs 0x09 (vf ls 1 3 4) accArith accArith pairSub immArith 2 = true ∧
      (∀ op ∈ [0x0B, 0x0C, 0x0D, 0x0E], vecIs op (vf ls 1 1 2) accLogic accLogic pairBits immSame 1 = true) ∧
      (∀ op ∈ [0x10, 0x11, 0x12], vecIs op (vf ls 1 1 2) accLogic accAmount pairShift immInt 1 = true) ∧
      (∀ op ∈ [0x19, 0x1A, 0x1B], vecIs op (vf ls 1 1 2) accLogic accLogic pairSame immSame 1 = true)) ∧
    (∀ f ∈ [{ vf 0 1 1 1 with chk := true }], vecIs 0x08 f accArith accArith pairAdd immArith 1 = true) ∧
    (∀ f ∈ [{ vf 0 1 3 4 with chk := true }], vecIs 0x09 f accArith accArith pairSub immArith 2 = true ∧
      laneA (coreAt (bxAt 0x09 f id) 3) f 8 0 < laneB (coreAt (bxAt 0x09 f id) 3) f 8 0) ∧
    (∀ ls ∈ [0, 1, 2], vecIs 0x41 (vf ls 1 3 4) accMulU accMulU pairSame immSame 2 = true) ∧
    (∀ op ∈ [0x0F, 0x39], let f : BxFields := { vec := true, rd := 1, rs1 := 3 }; let s := bxAt op f id; taken s op f = true ∧ isOk (check1 accLogic (vOpd (coreAt s 3) f.rs1 1)) = true ∧
      isOk (check1 accSub (vOpd (coreAt s 3) f.rs1 1)) = true) := by decide +kernel

/-- A vector load from W7 + W13. -/
def vl (rd : Nat) : BxFields := { vec := true, rd := rd, rs1 := 7, i := true, isize := 0, imm := 8 }

/-- A core whose data at 0x2000 are 48 bytes under BYTES. -/
def withData (op : Nat) (f : BxFields) : State := bxAt op f fun c => { c with mem := fillWords 3 6 c.mem 0x400 (leBytes 48 0x1122334455667788) }

theorem test_wit_BenxisVectorForms_loads :
    (∀ e ∈ [(0x1C, 8), (0x1D, 4), (0x1F, 2), (0x21, 1)], let s := withData e.1 (vl 1); taken s e.1 (vl 1) = true ∧ isTag 4 (vecAddrCheck (coreAt s 3) (vl 1)) = true ∧
      (loadElements (coreAt s 3) e.2 (elementAddrs (coreAt s 3) (vl 1) e.2)).2.isNone = true) ∧
    (∀ e ∈ [(0x1E, 4), (0x20, 2), (0x22, 1)], taken (withData e.1 (vl 1)) e.1 (vl 1) = true ∧
      let f := { vl 1 with imm := 2 ^ 20 - 0x2000 - 8 }; let g := { vl 1 with imm := 2 ^ 20 - 0x2000 }
      ; (loadElements (coreAt (withData e.1 f) 3) e.2 (elementAddrs (coreAt (withData e.1 f) 3) f e.2)).1.length = 8 / e.2 ∧
        (loadElements (coreAt (withData e.1 g) 3) e.2 (elementAddrs (coreAt (withData e.1 g) 3) g e.2)).1 = []) ∧
    (let f := { vl 1 with imm := 16 }; let s := withData 0x24 f; let c := coreAt s 3; let a := ((regW c f.rs1).d + f.imm).toNat
     ; taken s 0x24 f = true ∧ isTag 4 (check2 accBase accIndex pairAddr (opRs1 c f) { x := { tag := 1 }, reg := 0, pos := 2 }) = true ∧
       (addrFault c a 16).isNone = true ∧ (addrFault c a 8).isNone = true ∧ (addrFault c (a + 8) 8).isNone = true ∧ (memWord c.mem a).tag ≠ 5 ∧ (memWord c.mem (a + 8)).tag ≠ 5) := by
  decide +kernel

/-- A key of class 7 in slot 101 of paddock 2, with the licence of DECLASS or without. -/
def licensed (b : Bool) : State := { bxAt 0x57 (r3 14 9 8) id with tk := { up.tk with slots := [(101, { state := 2, cls := 7, attrs := if b then 2 ^ 10 else 0 })] } }

theorem test_wit_BenxisTagsDeclassAndTime :
    (∀ op ∈ [0x50, 0x51, 0x52, 0x53, 0x56, 0x58, 0x70], taken (bxAt op (if op ∈ [0x58, 0x70] then r3 14 0 0 else r3 14 9 0) id) op (if op ∈ [0x58, 0x70] then r3 14 0 0 else r3 14 9 0) = true) ∧
    (∀ a ∈ [1, 3, 5, 9], isOk (check1 accLogic (opRs1 (coreAt (bxAt 0x51 (r3 14 a 0) id) 3) (r3 14 a 0))) = true) ∧
    (∀ a ∈ [3, 9], isOk (check1 accAsNat (opRs1 (coreAt (bxAt 0x52 (r3 14 a 0) id) 3) (r3 14 a 0))) = true) ∧
    taken (bxAt 0x54 (r3 14 3 0) id) 0x54 (r3 14 3 0) = true ∧ taken (bxAt 0x55 (r3 14 5 0) id) 0x55 (r3 14 5 0) = true ∧
    (∀ b, taken (licensed b) 0x57 (r3 14 9 8) = true ∧ padOfCore (licensed b) 3 = some 2 ∧ (regW (coreAt (licensed b) 3) 9).tag = 7 ∧ (regW (coreAt (licensed b) 3) 8).tag = 6) ∧
    declassOk up 2 0 = false := by decide +kernel

theorem test_wit_BenxisMemoryStackAndMoves :
    (∀ op ∈ [0x23, 0x1C, 0x1D, 0x1E, 0x1F, 0x20, 0x21, 0x22, 0x24, 0x25, 0x26, 0x27], let f := ri 5 7 8; let s := withData op f; let c := coreAt s 3; let a := (addrOf c f).toNat
      ; taken s op f = true ∧ isTag 4 (check2 accBase accIndex pairAddr (opRs1 c f) (opRs2 c f immInt)) = true ∧ (∀ k ∈ [1, 2, 4, 8], (addrFault c a k).isNone = true) ∧
        (memWord c.mem a).tag < 8 ∧ isPublicRef (memWord c.mem a).tag = false ∧ (regW c f.rd).tag < 8 ∧ (memWord c.mem a).tag ≠ 5 ∧ isOk (check1 accSub (opRd c f)) = true) := by
  decide +kernel

theorem test_wit_BenxisMemoryStackAndMoves_stack :
    (∀ d ∈ [0x3000, 0x3008, 0x4000], let s := bxAt 0x28 (r3 0 1 0) fun c => { c with dsp := mkTW 4 d }; let c := coreAt s 3; taken s 0x28 (r3 0 1 0) = true ∧ (regW c 1).tag < 8 ∧
      (decide (c.dsp.d.toNat < c.dsLow + 8) = (d == 0x3000)) ∧ (d ≠ 0x3000 → (addrFault c (d - 8) 8).isNone = true ∧ (memWord c.mem (d - 8)).tag ≠ 5)) ∧
    (∀ d ∈ [0x4000, 0x3FF8], let s := bxAt 0x29 (r3 14 0 0) fun c => { c with dsp := mkTW 4 d }; let c := coreAt s 3; taken s 0x29 (r3 14 0 0) = true ∧
      (decide (c.dsHigh < c.dsp.d.toNat + 8) = (d == 0x4000)) ∧ (d ≠ 0x4000 → (addrFault c d 8).isNone = true ∧ (memWord c.mem d).tag < 8)) ∧
    taken (bxAt 0x2A (ri 0 0 8) id) 0x2A (ri 0 0 8) = true ∧ taken (bxAt 0x2A (r3 0 0 2) id) 0x2A (r3 0 0 2) = true ∧
    (∀ e ∈ [(0x39, r3 14 1 0), (0x3A, ri 14 0 5), (0x3B, ri 14 0 5), (0x3C, ri 14 0 5), (0x38, ri 14 0 8)], taken (bxAt e.1 e.2 id) e.1 e.2 = true) ∧
    (∀ r < 8, taken (bxAt 0x3D (r3 14 r 0) id) 0x3D (r3 14 r 0) = true) ∧ (∀ r < 7, taken (bxAt 0x3E (r3 r 7 0) id) 0x3E (r3 r 7 0) = true) ∧
    (let c := coreAt (bxAt 0x3D (r3 14 6 0) id) 3; c.dsp.tag < 8 ∧ c.vff.tag < 8 ∧ c.flg.tag < 8 ∧ c.mlo.tag < 8 ∧ c.mul = none) := by decide +kernel

theorem test_wit_BenxisBranchesCallsReturns : ∀ op ∈ [0x2B, 0x2C, 0x2D, 0x2E, 0x2F, 0x30, 0x31, 0x32, 0x33, 0x34],
    taken (bxAt op (ri 0 0 8) id) op (ri 0 0 8) = true ∧ (coreAt (bxAt op (ri 0 0 8) id) 3).flg.tag = 2 := by decide +kernel

theorem test_wit_BenxisBranchesCallsReturns_back : taken (bxAt 0x34 (ri 0 0 0xFFFFFFFFFFFFFFF8#64) id) 0x34 (ri 0 0 0xFFFFFFFFFFFFFFF8#64) = true := by decide +kernel

theorem test_wit_BenxisBranchesCallsReturns_reg : (∀ e ∈ [(0x35, r3 0 11 0), (0x36, r3 0 11 0), (0x37, ({} : BxFields))], taken (bxAt e.1 e.2 id) e.1 e.2 = true) ∧
    (regW (coreAt (bxAt 0x35 (r3 0 11 0) id) 3) 11).tag = 5 ∧ (regW (coreAt (bxAt 0x35 (r3 0 11 0) id) 3) 11).d = 0x1100 := by decide +kernel

/-- A RET or CALL with `a` addresses on the return stack and `b` spilled. -/
def stacked (a b : Nat) : State := bxAt 0x37 {} fun c => { c with rstack := List.replicate a 8, spill := List.replicate b 8 }

theorem test_wit_BenxisBranchesCallsReturns_stack : ∀ k ∈ [(63, 0), (64, 0), (64, 1), (0, 0), (0, 32)], taken (stacked k.1 k.2) 0x37 {} = true ∧ (coreAt (stacked k.1 k.2) 3).rstack.length = k.1 ∧
    (decide (((coreAt (stacked k.1 k.2) 3).spill.length + 32) * 8 ≤ (coreAt (stacked k.1 k.2) 3).spillLen) = (k.2 == 0)) := by decide +kernel

/-- A trap frame on the data stack: FLG, info, cause, and the address under `tag`. -/
def inHandler (tag : Nat) : State := bxAt 0x03 {} fun c => { c with trapActive := true, dsp := mkTW 4 0x3000, mem := smSet {} c.mem 0x603 { d := 0x1004, tag := tag } }

/-- TRAP with a code of its own, its handler at 0x1010. -/
def trapAt (v : Option Nat) (act : Bool) (d : Nat) : State := bxAt 0x02 (ri 0 0 0x80) fun c => { c with trapVec := v, trapActive := act, dsp := mkTW 4 d }

theorem test_wit_BenxisControl_BenxisTrapEntersHandler :
    (∀ op ∈ [0x00, 0x04, 0x01], taken (bxAt op {} id) op {} = true) ∧
    (∀ t ∈ [5, 3], let s := inHandler t; let c := coreAt s 3; taken s 0x03 {} = true ∧ c.dsp.d.toNat + 32 ≤ c.dsHigh ∧
      (∀ k < 4, (addrFault c (c.dsp.d.toNat + 8 * k) 8).isNone = true ∧ (memWord c.mem (c.dsp.d.toNat + 8 * k)).tag < 8) ∧ (memWord c.mem (c.dsp.d.toNat + 24)).tag = t ∧
      (memWord c.mem (c.dsp.d.toNat + 24)).d.toNat % 2 = 0) ∧
    (∀ e ∈ [(some 0x1010, false, 0x3020, false), (some 0x1010, true, 0x3800, false), (none, false, 0x3800, false), (some 0x1010, false, 0x3018, true)],
      let s := trapAt e.1 e.2.1 e.2.2.1; taken s 0x02 (ri 0 0 0x80) = true ∧ (coreAt s 3).trapVec = e.1 ∧ (coreAt s 3).trapActive = e.2.1 ∧ frameBlocked (coreAt s 3) = e.2.2.2) := by
  decide +kernel

/-- Core 3 with paddock 2's ring queue 8 in a state, `n` submissions ahead of the retire index. -/
def ringAt (op : Nat) (f : BxFields) (st : Nat) (n : Nat) (w : SMap TW) : State :=
  { bxAt op f (fun c => { c with w := w ++ c.w }) with queues := [(8, { state := st, bx := true, k := 4, p := n, ring := [(0, zeros 64)] })] }

theorem test_wit_BenxisRingControl :
    (∀ e ∈ [(4 * 65536, 1, 1, 0), (8 + 4 * 65536, 1, 2, 0), (8 + 3 * 65536, 0, 3, 0), (8 + 17 * 65536, 0, 3, 0), (8 + 4 * 65536, 0, 0, 31)],
      let f := r3 14 0 1; let s := { ringAt 0x60 f e.2.1 0 [(0, mkTW 2 e.1)] with plan := up.plan }; let c := coreAt { s with cores := [(3, { coreAt s 3 with w := [(0, mkTW 2 e.1), (1, mkTW 2 e.2.2.2)] })] } 3
      ; taken s 0x60 f = true ∧ (match runtimeTwo c f accNat accNat with
          | .ok x => x == (e.1, e.2.2.2) && qopenResult s 2 (bits x.1 0 16) (bits x.1 16 5) x.2 == e.2.2.1
          | .error _ => false) = true) ∧
    (∀ st ∈ [0, 1, 2], let f := r3 14 0 0; let s := ringAt 0x61 f st 0 [(0, mkTW 2 8)]; taken s 0x61 f = true ∧ isOk (runtimeOne (coreAt s 3) f accNat) = true ∧ ownRing s 2 8 = true ∧
      corePad s 3 = 2 ∧ (qAt s 8).state = st) ∧
    (∀ e ∈ [(3, 2), (4, 5), (5, 5), (3, 1)], let f := ri 14 0 (BitVec.ofNat 64 e.1); let s := ringAt 0x62 f e.2 0 [(0, mkTW 2 8)]; taken s 0x62 f = true ∧
      isOk (runtimeTwo (coreAt s 3) f accNat accNat) = true ∧ ownRing s 2 8 = true ∧ (qAt s 8).state = e.2) ∧
    (let f := r3 14 0 0; let s := ringAt 0x65 f 1 0 [(0, mkTW 2 8)]; taken s 0x65 f = true ∧ isOk (runtimeOne (coreAt s 3) f accNat) = true) := by decide +kernel

/-- A core with a descriptor of NAT words at 0x2000. -/
def descAt (st n : Nat) : State :=
  let s := ringAt 0x63 (ri 14 7 8) st n []
  modCore s 3 fun c => { c with mem := fillWords 2 16 c.mem 0x400 [] }

theorem test_wit_BenxisRingUseFeedsAndWindows :
    (∀ n ∈ [0, 16], let s := descAt 1 n; let c := coreAt s 3; taken s 0x63 (ri 14 7 8) = true ∧ (match runtimeTwo c (ri 14 7 8) accPtr accNat with
        | .ok x => x == (0x2000, 8)
        | .error _ => false) = true ∧ 0x2000 + 128 ≤ 2 ^ 20 ∧ inSpill c 0x2000 128 = false ∧ descFault c.mem 0x2000 = none ∧ ownRing s 2 8 = true ∧
        decide (dist (qAt s 8).k (qAt s 8).t (qAt s 8).p = 2 ^ (qAt s 8).k) = (n == 16)) ∧
    (descFault (coreAt (ringAt 0x63 (ri 14 7 8) 1 0 []) 3).mem 0x2000).isSome = true ∧
    (∀ m ∈ [0, 1], let f := ri 14 7 8; let s := ringAt 0x64 f 1 0 []; let s := modQ s 8 fun x => { x with ring := [(0, [0#8, 0#8, 0#8, BitVec.ofNat 8 (markerOf 4 0 + m)] ++ zeros 60)] }
      ; let c := coreAt s 3; taken s 0x64 f = true ∧ isOk (runtimeTwo c f accPtr accNat) = true ∧ markerMatches s 2 8 0 = (m == 0) ∧ isOk (storeWords c 0x2000 (cplWords (qAt s 8) 0)) = true) ∧
    (let f := r3 14 0 1; let s := ringAt 0x66 f 1 0 [(0, mkTW 2 8), (1, mkTW 2 5)]; taken s 0x66 f = true ∧ isOk (runtimeTwo (coreAt s 3) f accNat accNat) = true) ∧
    (let s := modCore (ringAt 0x66 (r3 14 0 1) 1 0 []) 3 fun c => { c with waiting := some { queue := 8, rd := 14, len := 4 } }; (coreAt s 3).waiting = some { queue := 8, rd := 14, len := 4 }) := by
  decide +kernel

theorem test_wit_BenxisRing_yard :
    (let f := r3 14 0 1; let s := ringAt 0x60 f 0 0 [(0, mkTW 2 (8 + 16 * 65536))]; taken s 0x60 f = true ∧ (padRec s 2).yardCells < yardHeld s 2 + 2 ^ 15 ∧
      yardHeld s 2 + 2 ^ 3 ≤ (padRec s 2).yardCells) ∧
    (let s := descAt 5 1; let c := coreAt s 3; taken s 0x63 (ri 14 7 8) = true ∧ descFault c.mem 0x2000 = none ∧ ownRing s 2 8 = true ∧ (qAt s 8).state = 5 ∧
      dist (qAt s 8).k (qAt s 8).t ((qAt s 8).heldBell.getD (qAt s 8).p) ≠ 2 ^ (qAt s 8).k) := by decide +kernel

theorem test_wit_BenxisRingUseFeedsAndWindows_feeds :
    (∀ n ∈ [0, 2048], let f := r3 14 5 3; let s : State := { bxAt 0x67 f id with feeds := [(2 * 16 + 5, { entries := List.replicate n {} })] }; taken s 0x67 f = true ∧
      isOk (runtimeTwo (coreAt s 3) f accFput accNat) = true ∧ (feedAt s 37).entries.length = n) ∧
    (∀ op ∈ [0x68, 0x69, 0x6B], let f := if op = 0x68 then r3 14 3 0 else r3 0 3 0; taken (bxAt op f id) op f = true ∧ isOk (runtimeOne (coreAt (bxAt op f id) 3) f accNat) = true) ∧
    (let f := r3 14 7 3; let s := bxAt 0x6A f id; taken s 0x6A f = true ∧ isOk (check1 accNat (opRs2 (coreAt s 3) f immNat)) = true ∧ freeWindow (coreAt s 3) = some 0 ∧
      (regW (coreAt s 3) 7).tag = 4 ∧ ((opRs2 (coreAt s 3) f immNat).x.d.toNat.testBit 22 = false)) ∧
    (let f := r3 14 3 0; let s := bxAt 0x6A f fun c => { c with w := [(3, mkTW 2 5), (0, mkTW 2 (2 ^ 22))] }; taken s 0x6A f = true ∧ freeWindow (coreAt s 3) = some 0 ∧ (regW (coreAt s 3) 3).tag = 2 ∧
      ((opRs2 (coreAt s 3) f immNat).x.d.toNat.testBit 22 = true)) ∧
    freeWindow { windows := (List.range 16).map fun i => { num := i } } = none := by decide +kernel

/-- Core 3 with a load image of 64 bytes at 0x2000; the other core in a state. -/
def cstartAt (b : Nat) (st : Nat) (ret : Bool) : State :=
  let f := r3 14 7 0
  let s := bxAt 0x6C f fun c => { c with w := [(0, mkTW 2 b), (7, mkTW 4 0x2000)], mem := fillWords 2 8 c.mem 0x400 [] }
  { s with cores := s.cores ++ [(4, { state := st, retired := ret })] }

theorem test_wit_BenxisCoresRandomAndMeasurement :
    (∀ e ∈ [(4, 0, false), (3, 0, false), (4, 0, true), (4, 2, false), (16, 0, false), (6, 0, false)], let s := cstartAt e.1 e.2.1 e.2.2; let c := coreAt s 3
      ; taken s 0x6C (r3 14 7 0) = true ∧ (match runtimeTwo c (r3 14 7 0) accPtr accNat with
          | .ok x => x == (0x2000, e.1)
          | .error _ => false) = true ∧
        (rangeFault c 0x2000 64).isNone = true ∧ (imageFault c.mem 0x2000 (64 + u32 (memRead c.mem 0x2000 64) 0x0C + u32 (memRead c.mem 0x2000 64) 0x14)).isNone = true ∧
        (decide (padOfCore s e.1 = some 2) = decide (e.1 < 6)) ∧ (coreAt s 4).state = e.2.1 ∧ (coreAt s 4).retired = e.2.2) ∧
    (let f := r3 0 3 0; taken (bxAt 0x6D f id) 0x6D f = true ∧ isOk (runtimeOne (coreAt (bxAt 0x6D f id) 3) f accNat) = true) ∧
    (∀ l, let f := r3 14 0 0; let s : State := { bxAt 0x6E f id with pads := [(2, { drbg := { live := l } })] }; taken s 0x6E f = true ∧ dueReseed s 2 = s ∧ drbgServes s 2 = l) ∧
    (let f := r3 14 3 7; let s := bxAt 0x6F f id; let c := coreAt s 3; taken s 0x6F f = true ∧ isOk (runtimeTwo c f accNat accPtr) = true ∧ (rangeFault c 0x2000 48).isNone = true ∧
      ∀ i ∈ wordsTouched 0x2000 48, (smGet {} c.mem i).tag < 7) := by decide +kernel

theorem test_wit_BenxisRejectedSourcesTrap :
    ∀ r ∈ pairRows 3 {}, ∀ e ∈ [(12, 3), (3, 12), (9, 7), (7, 9), (1, 3)], taken (bxAt r.1 { r3 0 e.1 e.2 with chk := false } id) r.1 (r3 0 e.1 e.2) = true ∧
      (e = (1, 3) → r.1 ∈ [0x08, 0x09, 0x18, 0x19] → let c := coreAt (bxAt r.1 (r3 0 1 3) id) 3
        ; isOk (check2 r.2.2.1 r.2.2.2.1 r.2.2.2.2.1 (opRs1 c (r3 0 1 3)) (opRs2 c (r3 0 1 3) r.2.2.2.2.2)) = false) := by decide +kernel

theorem test_wit_BenxisRejectedSourcesTrap_reserved : (regW (coreAt (bxAt 0x08 (r3 0 1 2) fun c => { c with w := [(1, { d := 5, tag := 9 })] }) 3) 1).tag = 9 := by decide

theorem test_wit_BenxisDecodeOfEncode_BenxisEncodeOfDecode : bxLegal 0x08 (r3 1 2 3) = true ∧ fieldsOk (r3 1 2 3) = true ∧
    bxDecode (bxEncode 0x08 (r3 1 2 3)) = some (0x08, r3 1 2 3, 4) ∧ (bxEncode 0x08 (r3 1 2 3)).length = 4 := by decide +kernel

/-- A core image with eight bytes of code at 0x1000 (Table 18.1), or one that ends early. -/
def coreImage (ok : Bool) : Bytes :=
  leBytes 4 0xB3C51D01 ++ leBytes 2 1 ++ leBytes 2 0 ++ leBytes 4 0x1000 ++ leBytes 4 8 ++ leBytes 4 0x2000 ++ leBytes 4 0 ++ leBytes 4 0x1000 ++ leBytes 4 0xFFFFFFFF ++
  leBytes 4 0x3000 ++ leBytes 4 0x4000 ++ leBytes 4 0x8000 ++ leBytes 4 0x100 ++ zeros 16 ++ zeros (if ok then 8 else 7)

/-- `up` with core 3 loading that image, or in a state of its own. -/
def loadingCore (ok : Bool) : State := { up with cores := [(3, { state := 1, loading := some { source := 1, sender := 1, image := coreImage ok } })] }
def coreIn (st : Nat) (vecOn : Bool) : State := { up with cores := [(3, { state := st, vecOn := vecOn })], dbg := { scope := 1 } }

theorem test_wit_CoreLoadRunStop :
    (regsUp up 1 = true ∧ bits (2#64).toNat 0 5 = 2 ∧ padPresent up 2 = true ∧ padOfFn up 1 = some 2 ∧ (padRec up 2).hostLoad = true ∧ (coresOfPad up 2).head? = some 3 ∧
      padOfCore up 3 = some 2 ∧ (∀ m ∈ coresOfPad up 2, (coreAt up m).state = 0 ∧ (coreAt up m).retired = false) ∧ regsUp up 0 = true) ∧
    (coreCmdUp up 1 3 = true ∧ bits (1#64).toNat 0 4 = 1 ∧ bits (2#64).toNat 0 4 = 2) ∧
    (∀ b, ((coreAt (loadingCore b) 3).loading.any fun o => !o.waitShed && loadImageOk o.image == b) = true ∧ (coreAt (loadingCore b) 3).state = 1) ∧
    (∀ st ∈ [0, 2, 3], coreCmdUp (coreIn st false) 1 3 = true ∧ (coreAt (coreIn st false) 3).state = st ∧ debugReaches (coreIn st false) 3 = true) ∧
    (∀ b, (coreAt (coreIn 0 b) 3).vecOn = b) := by decide +kernel

/-! ## Every step -/

theorem test_wit_StepTakesTheFrontCommand : ({ up with pending := [.deepSleepEntry] } : State).pending = [.deepSleepEntry] ∧ up.pending = [] ∧ up.rng.rawMode = false := ⟨rfl, rfl, rfl⟩

/-- The steps a state takes: the idle one from reset, whose states are sound. -/
theorem test_wit_StepsKeepTheInvariant : ∃ t, Steps State.reset t := ⟨_, rfl⟩

/-! ## The manual's worked examples -/

/-- The core of the example of Table 17.11, at an instruction. -/
def edge (bytes : Bytes) (g : Core → Core) : State :=
  { up with cores := [(3, g {
      state := 2, pc := 0x1000, codeAt := 0x1000, codeLen := 8, mem := fillWords tCode 1 [] 0x200 (padTo 8 bytes), dsLow := 0x3000, dsHigh := 0x4000, dsp := mkTW 4 0x3800,
      trapVec := some 0x1004, w := [(1, mkTW 4 0x2000), (4, mkTW 1 0xFFFFFFFF80000000), (5, mkTW 1 0xFFFFFFFFFFFFFFFF), (6, mkTW 7 0), (8, mkTW 1 0x8000000000000000),
        (9, mkTW 1 0x8000000000000000)] })] }

/-- Core 3 after a command. -/
def coreAfter (o : Host.Outcome State Fault Refusal) : Core := match o with
  | .next t => coreAt t 3
  | _ => {}

def bytesOfHex (l : List Nat) : Bytes := l.map (BitVec.ofNat 8)

/-- The fields of the example's instructions. -/
def divW45 (chk : Bool) (r : Nat) : BxFields := { chk := chk, w32 := true, rs1 := 4, rs2 := r }

/-- Table 17.11: the bytes decode to the instructions beside them. -/
theorem test_table_17_11_bytes :
    bxDecode (bytesOfHex [0xC2, 0x00, 0x42, 0x80, 0x14, 0x00]) = some (0x42, divW45 false 5, 6) ∧
    bxDecode (bytesOfHex [0xC3, 0x00, 0x42, 0x80, 0x14, 0x00]) = some (0x42, divW45 true 5, 6) ∧
    bxDecode (bytesOfHex [0xC3, 0x00, 0x42, 0x80, 0x18, 0x00]) = some (0x42, divW45 true 6, 6) ∧
    bxDecode (bytesOfHex [0x33, 0x00, 0x80, 0x00, 0x08, 0x00]) = some (0x33, { i := true, imm := 8 }, 6) ∧
    bxDecode (bytesOfHex [0x12, 0x07, 0x81, 0x00, 0x46, 0x00]) = some (0x12, { rd := 7, rs1 := 8, i := true, imm := 70 }, 6) ∧
    bxDecode (bytesOfHex [0x0A, 0x29, 0x01, 0x00]) = some (0x0A, { rd := 9, rs1 := 9 }, 4) ∧
    bxDecode (bytesOfHex [0x08, 0x23, 0x80, 0x00, 0xE8, 0x03]) = some (0x08, { rd := 3, rs1 := 1, i := true, imm := 1000 }, 6) := by decide +kernel

/-- Row 1 of Table 17.11: the quotient, the remainder and FLG. -/
theorem test_table_17_11_div :
    let c := coreAfter (exec (.bxDiv 3 (divW45 false 5)) (edge (bytesOfHex [0xC2, 0x00, 0x42, 0x80, 0x14, 0x00]) id))
    c.div = some { lo := mkTW 1 0xFFFFFFFF80000000, hi := mkTW 1 0 } ∧ c.flg = mkTW 2 0x0A ∧ c.pc = 0x1006 := by decide +kernel

/-- Row 2: with CHK it traps with 0x09. -/
theorem test_table_17_11_chk :
    let c := coreAfter (exec (.bxDiv 3 (divW45 true 5)) (edge (bytesOfHex [0xC3, 0x00, 0x42, 0x80, 0x14, 0x00]) id))
    c.lastCode = 0x09 ∧ c.trapActive = true ∧ memWord c.mem 0x37F0 = mkTW 2 0x09 ∧ c.pc = 0x1004 := by decide +kernel

/-- Row 3: a SECRET zero divisor does not trap. -/
theorem test_table_17_11_secret :
    let c := coreAfter (exec (.bxDiv 3 (divW45 true 6)) (edge (bytesOfHex [0xC3, 0x00, 0x42, 0x80, 0x18, 0x00]) id))
    c.div = some { lo := mkTW 7 0xFFFFFFFFFFFFFFFF, hi := mkTW 7 0xFFFFFFFF80000000 } ∧ c.flg = mkTW 7 0x12 := by decide +kernel

/-- Row 4: a branch on SECRET flags traps with 0x06. -/
theorem test_table_17_11_branch :
    (coreAfter (exec (.bxBdz 3 { i := true, imm := 8 }) (edge (bytesOfHex [0x33, 0x00, 0x80, 0x00, 0x08, 0x00]) fun c => { c with flg := mkTW 7 0x12 }))).lastCode = 0x06 := by
  decide +kernel

/-- Rows 5 to 7: SAR beyond the width, NEG of the most negative value, ADD to a PTR. -/
theorem test_table_17_11_rest :
    (let c := coreAfter (exec (.bxSar 3 { rd := 7, rs1 := 8, i := true, imm := 70 }) (edge (bytesOfHex [0x12, 0x07, 0x81, 0x00, 0x46, 0x00]) id))
     ; regW c 7 = mkTW 1 0xFFFFFFFFFFFFFFFF ∧ c.flg = mkTW 2 0x06) ∧
    (let c := coreAfter (exec (.bxNeg 3 { rd := 9, rs1 := 9 }) (edge (bytesOfHex [0x0A, 0x29, 0x01, 0x00]) id)); regW c 9 = mkTW 1 0x8000000000000000 ∧ c.flg = mkTW 2 0x0A) ∧
    regW (coreAfter (exec (.bxAdd 3 { rd := 3, rs1 := 1, i := true, imm := 1000 }) (edge (bytesOfHex [0x08, 0x23, 0x80, 0x00, 0xE8, 0x03]) id))) 3 = mkTW 4 0x23E8 := by
  decide +kernel

/-- The example of chapter 18: VEC LD1S v7, w10, v4 loads four lanes and stops at the end of local memory. -/
theorem test_example_18_ld1s :
    let f : BxFields := { vec := true, rd := 7, rs1 := 10, rs2 := 4 }
    let s := edge (bytesOfHex [0xC4, 0x00, 0x22, 0x47, 0x11, 0x00]) fun c => { c with
      w := [(10, mkTW 4 0xFFFC0)], v := [(4, { d := 0x4018100800, tag := 2 }), (7, { d := 0xAAAAAAAAAA, tag := 3 })], mem := fillWords 3 4 c.mem 0x1FFF8 (leBytes 32 0x55) }
    let c := coreAfter (exec (.bxLd1s 3 f) s)
    bxDecode (bytesOfHex [0xC4, 0x00, 0x22, 0x47, 0x11, 0x00]) = some (0x22, f, 6) ∧ c.vff = mkTW 2 4 ∧ (regV c 7).tag = 3 ∧ (regV c 7).d = 0xAA00000055 := by decide +kernel

/-- The example of chapter 03: the bank at 9,600 mV holds 84,773 µJ, and 42,873 records need as much with the guard. -/
theorem test_example_03_reserve :
    let s : State := { up with plan := { up.plan with part := { capUf := 3300, vNomMv := 12000, vMinMv := 5000, divPpm := 80000 } }, en := { up.en with convs := List.replicate 8 3072 } }
    let u := computeCosts { s with hl := { s.hl with geo := { pageData := 16384, tProgUs := 350, pageSpare := 1216, planes := 2, rateMBs := 800 }, targets := (List.range 8).map fun n => (n, { state := 1 }) } }
    ; usableUj s = 84773 ∧ (needNj u 42873 + 500) / 1000 = 84773 ∧ needNj u 0 / 1000 = 28325 + 5000 := by decide +kernel

/-- The example of chapter 07: marker 0xC0 for entry 0x012 of a ring of 2^8 entries. -/
theorem test_example_07_marker : markerOf 8 0x012 = 0xC0 ∧ markerOf 8 0x112 = 0xC1 := by decide

/-- The example of chapter 00: one entry between index 0x3FF and 0x400 of a ring of 2^10. -/
theorem test_example_00_ring : dist 10 0x3FF 0x400 = 1 := by decide

/-- "abc" under SHA-384 and SHA3-256 (FIPS 180-4, FIPS 202). -/
theorem test_sha :
    beNat (sha384 (ascii "abc")) = 0xCB00753F45A35E8BB5A03D699AC65007272C32AB0EDED1631A8B605A43FF5BED8086072BA1E7CC2358BAECA134C825A7 ∧
    beNat (sha256 (ascii "abc")) = 0xBA7816BF8F01CFEA414140DE5DAE2223B00361A396177A9CB410FF61F20015AD := by decide +kernel
theorem test_sha3 : beNat (keccak 136 0x06 (ascii "abc") 32) = 0x3A985DA74FE225B2045C172D6BD390BD855F086E3E9D525B46BFE24511431532 := by decide +kernel

/-- CRC-32C of "123456789". -/
theorem test_crc32c : crc32c (ascii "123456789") = 0xE3069283 := by decide +kernel

/-! ## Well-formedness: every check refuses an ill-formed term -/

theorem test_wf_refuses : ∀ c ∈ [Instr.syReset 65 0, .gateEvaluate 65536, .descriptorFetchDone 0 131072 (zeros 128), .descriptorFetchDone 0 0 (zeros 127), .dispatch 52,
    .captureGenDraw 32, .shedWakeDone 24, .registerWrite 0 0 3 0, .vectorTimerExpiry 0 2048, .coreLoad 0 16 0 [], .refillCommit 16384, .rngHealthFail 16 false,
    .rngStartupDone 65536 true, .nandReadDone 8 0 0 false none, .nandReadDone 0 65536 0 false none, .journalScrub 2 none, .tetherLaneFail 4, .feedDrop 0 16 0, .linkTestEnd 128 0,
    .lowPrioPromote (2 ^ 64), .mrExtendWrite 0 16 0, .vfEnableClear 65, .barAccessInvalid 0 1 0 4 false, .holdupAdcConversion 4096, .drbgReseed 33, .bucketLeak 1024,
    .escalationExpiry 0 64, .tamperTrip 10 false], c.wf = false := by decide +kernel

theorem test_wf_fields : ∀ f ∈ [({ rd := 32 } : BxFields), { rs1 := 32 }, { rs2 := 32 }, { i := true, rs2 := 1 }, { i := true, isize := 0, imm := 0x8000 }, { i := true, isize := 3 },
    { isize := 1 }, { imm := 1 }], (Instr.bxNop 0 f).wf = false := by decide

theorem test_wf_accepts : ∀ c ∈ [Instr.syReset 64 0, .gateEvaluate 65535, .descriptorFetchDone 65535 131071 (zeros 128), .dispatch 51, .coreLoad 0 15 0 [], .tamperTrip 9 false,
    .bxNop 15 { rd := 31, i := true, isize := 0, imm := 0x7FFF }], c.wf = true := by decide +kernel

/-- No row of the table has bits: no word spells a command, and the queue stays. -/
theorem test_decodeTableWord : decodeTableWord 16 0 = none ∧ (up.withFetchWord 16 0) = up := by decide
end Sys2Proof.Tests
end

section
/-! PROOF. The doorbell write (R122, R145, R146, Table 07.3): what it does in each state of the queue it reaches (O19). -/

namespace Sys2Proof.Doorbell

open Sys2Proof Sys2Proof.Machine Sys2Proof.Claims

/-! ## A halted queue -/

/-- A queue as a halt leaves it, but for its cursor shadow. -/
def halted (reason detail index : Nat) (x : Queue) : Queue :=
  { dropCopies x with state := 2, errReason := reason, errDetail := detail, errIndex := index }

/-- What follows once the queue itself is halted (the journal, the halt log, EV_QUEUE_HALT, the shadow) changes no register of a queue but
whether its shadow is owed. -/
theorem haltQueue_only_after_halted (s : State) (q reason detail index : Nat) :
    Only [.sys .wakeDriven, .sys .timeJournal, .port .linkState, .fn .pmeStatus, .fn .vecs, .queue .shadowOwed, .pad .haltLog,
      .pad .haltOverflow, .jn .seq, .out] (modQ s q (halted reason detail index)) (haltQueue s q reason detail index) := by
  have hj := journalWrite_only (modQ s q (halted reason detail index))
  unfold haltQueue
  refine Only.then (writeShadow_only ..) (by decide +kernel) ?_
  split
  next => exact hj.mono (by decide +kernel)
  next =>
    refine Only.then (raisePad_only ..) (by decide +kernel) (modPad_in ?_ (hj.mono (by decide +kernel)))
    split
    · exact Pad.set_haltLog (by decide +kernel) (PadReg.refl _ _)
    · exact Pad.set_haltOverflow (by decide +kernel) (PadReg.refl _ _)

/-- A queue that halts latches the reason, its detail and the index, and keeps P and every record. -/
theorem haltQueue_latches (s : State) (q reason detail index : Nat) :
    let t := haltQueue s q reason detail index
    (qAt t q).state = 2 ∧ (qAt t q).errReason = reason ∧ (qAt t q).errDetail = detail ∧ (qAt t q).errIndex = index ∧
      (qAt t q).p = (qAt s q).p ∧ (qAt t q).copies = [] ∧ t.jobs = s.jobs := by
  have hq := qAt_modQ_self s q (halted reason detail index)
  have h := haltQueue_only_after_halted s q reason detail index
  have kept (r : QueueReg) (hr : r ≠ .shadowOwed) :
      r.Same (halted reason detail index (qAt s q)) (qAt (haltQueue s q reason detail index) q) :=
    hq ▸ h.same (.queue r) (by simpa using hr) q
  exact ⟨kept .state (by decide), kept .errReason (by decide), kept .errDetail (by decide), kept .errIndex (by decide),
    kept .p (by decide), kept .copies (by decide), h.same .jobs (by decide)⟩

/-! ## The check of a doorbell value (R146) -/

/-- The detail of an invalid doorbell value, the bits above bit k judged first, then a ring over-full, then a P that moves back. -/
theorem bellFault_of_not_valid {x : Queue} {v : Nat} (h : ¬BellValid x v) :
    bellFault x v = some (if 2 ^ (x.k + 1) ≤ v then 2 else if 2 ^ x.k < dist x.k x.t v then 1 else 3) := by
  unfold BellValid at h
  unfold bellFault
  split
  · rfl
  next hbits =>
    split
    · rfl
    next hfull =>
      have hback : dist x.k x.t v < dist x.k x.t x.p := by omega
      rw [if_pos hback]

theorem bellFault_of_valid {x : Queue} {v : Nat} (h : BellValid x v) : bellFault x v = none := by
  obtain ⟨hbits, hback, hfull⟩ := h
  rw [bellFault, if_neg hbits.not_ge, if_neg hfull.not_gt, if_neg hback.not_gt]

theorem ringRunning_valid {s : State} {q v : Nat} (h : BellValid (qAt s q) v) :
    ringRunning s q v = journalWrite (modQ s q fun y => { y with p := v }) := by
  rw [ringRunning, bellFault_of_valid h]

theorem ringRunning_not_valid {s : State} {q v : Nat} (h : ¬BellValid (qAt s q) v) :
    ringRunning s q v = haltQueue s q 0x81
      (if 2 ^ ((qAt s q).k + 1) ≤ v then 2 else if 2 ^ (qAt s q).k < dist (qAt s q).k (qAt s q).t v then 1 else 3) (v % 2 ^ 17) := by
  rw [ringRunning, bellFault_of_not_valid h]

theorem ringHalted_valid {s : State} {q v : Nat} (h : BellValid (qAt s q) v) :
    ringHalted s q v = journalWrite (modQ s q fun y => { y with p := v }) := by
  rw [ringHalted, bellFault_of_valid h]

theorem ringHalted_not_valid {s : State} {q v : Nat} (h : ¬BellValid (qAt s q) v) : ringHalted s q v = deny s (qAt s q).fn := by
  rw [ringHalted, bellFault_of_not_valid h]

/-! ## A doorbell that has reached its queue (Table 07.3) -/

/-- The state in which only the function that issued the pending ENABLE is heard: PENDING_ENABLE, held or not. -/
def PendingState (x : Queue) : Prop := x.state = 4 ∨ (x.state = 5 ∧ x.remembered = 4)

section
variable {s : State} {n q v : Nat}

theorem takeBell_standby (hbx : (qAt s q).bx = false) (hfn : (qAt s q).fn = n) (hsb : (qAt s q).standby = true)
    (hst : (qAt s q).state = 1 ∨ (qAt s q).state = 2 ∨ ((qAt s q).state = 5 ∧ (qAt s q).remembered ≠ 4)) :
    takeBell s n q v = modQ s q fun y => { y with recordedP := some (v % 2 ^ 17) } := by
  rcases hst with h | h | ⟨h, hr⟩
  · simp [takeBell, h, hbx, hfn, hsb]
  · simp [takeBell, h, hbx, hfn, hsb]
  · simp [takeBell, h, hr, hbx, hfn, hsb]

theorem takeBell_running (hbx : (qAt s q).bx = false) (hfn : (qAt s q).fn = n) (hsb : (qAt s q).standby = false)
    (h1 : (qAt s q).state = 1) : takeBell s n q v = ringRunning s q v := by
  simp [takeBell, h1, hbx, hfn, hsb]

theorem takeBell_halted (hbx : (qAt s q).bx = false) (hfn : (qAt s q).fn = n) (hsb : (qAt s q).standby = false)
    (h2 : (qAt s q).state = 2) : takeBell s n q v = ringHalted s q v := by
  simp [takeBell, h2, hbx, hfn, hsb]

theorem takeBell_held (hbx : (qAt s q).bx = false) (hfn : (qAt s q).fn = n) (hsb : (qAt s q).standby = false)
    (h5 : (qAt s q).state = 5) (hr : (qAt s q).remembered ≠ 4) :
    takeBell s n q v = modQ s q fun y => { y with heldBell := some v } := by
  simp [takeBell, h5, hr, hbx, hfn, hsb]

theorem takeBell_held_pending (h5 : (qAt s q).state = 5) (h4 : (qAt s q).remembered = 4)
    (hp : ((qAt s q).pend.any fun e => e.fn == n) = true) :
    takeBell s n q v = modQ s q fun y => { y with heldBell := some v } := by
  rw [takeBell, if_pos ⟨h5, h4⟩, if_pos hp]

theorem takeBell_pending {e : PendEnable} (h4 : (qAt s q).state = 4) (hp : (qAt s q).pend = some e) (he : e.fn = n) :
    takeBell s n q v = modQ s q fun y => { y with pend := some { e with doorbell := some v } } := by
  simp [takeBell, h4, hp, he]

/-- DISABLED and DRAINING hear no doorbell. -/
theorem takeBell_closed (h : (qAt s q).state = 0 ∨ (qAt s q).state = 3) : takeBell s n q v = deny s n := by
  rcases h with h | h <;> simp [takeBell, h]

/-- Outside PENDING_ENABLE only the queue function is heard. -/
theorem takeBell_foreign (hst : ¬PendingState (qAt s q)) (h : (qAt s q).bx = true ∨ (qAt s q).fn ≠ n) :
    takeBell s n q v = deny s n := by
  unfold PendingState at hst
  obtain ⟨h4, h54⟩ := not_or.mp hst
  rcases h with h | h <;> simp [takeBell, h4, h54, h]

/-- In PENDING_ENABLE only the function that issued it is heard. -/
theorem takeBell_pending_foreign (hst : PendingState (qAt s q)) (h : ∀ e, (qAt s q).pend = some e → e.fn ≠ n) :
    takeBell s n q v = deny s n := by
  cases hp : (qAt s q).pend with
  | none =>
    rcases hst with h4 | ⟨h5, h4⟩
    · simp [takeBell, h4, hp]
    · simp [takeBell, h5, h4, hp]
  | some e =>
    have he : e.fn ≠ n := h e hp
    rcases hst with h4 | ⟨h5, h4⟩
    · simp [takeBell, h4, hp, he]
    · simp [takeBell, h5, h4, hp, he]

end

/-! ## The command -/

/-- The value that a doorbell write of 4 or 8 bytes carries. -/
def carried (size : Nat) (value : W64) : Nat := if size = 4 then value.toNat % 2 ^ 32 else value.toNat

theorem exec_doorbellWrite (s : State) (fn off size : Nat) (value : W64) :
    exec (.doorbellWrite fn off size value) s =
      .next (if s.sys.deepSleep then
          { s with port := { s.port with doorbells := s.port.doorbells ++ [(fn, off, size, carried size value)] } }
        else if regsUp s fn then bar2Write s fn off size (carried size value) else s) := rfl

/-- While a function's registers are served the part is not in deep sleep. -/
theorem not_deepSleep_of_regsUp {s : State} {fn : Nat} (h : regsUp s fn = true) : s.sys.deepSleep = false := by
  simp only [regsUp, reaches, Bool.and_eq_true, Bool.not_eq_true'] at h
  tauto

/-- In deep sleep the write is recorded (R55). -/
theorem exec_doorbellWrite_of_deepSleep {s : State} (fn off size : Nat) (value : W64) (h : s.sys.deepSleep = true) :
    exec (.doorbellWrite fn off size value) s =
      .next { s with port := { s.port with doorbells := s.port.doorbells ++ [(fn, off, size, carried size value)] } } := by
  rw [exec_doorbellWrite, if_pos h]

/-- A write of 4 or 8 bytes at a doorbell's own offset is for the doorbell's queue. -/
theorem bar2Write_of_bellQueue {s : State} {fn off size q : Nat} (v : Nat) (hsize : size = 4 ∨ size = 8) (hoff : off % 8 = 0)
    (hq : bellQueue s fn off = some q) : bar2Write s fn off size v = takeBell s fn q v := by
  have haligned : ¬((size ≠ 4 ∧ size ≠ 8) ∨ off % size ≠ 0) := by
    rcases hsize with rfl | rfl <;> omega
  have hlower : off % 8 ≠ 4 := by omega
  simp only [bar2Write, if_neg haligned, hq, if_neg hlower]

/-- Where the function's registers are served, such a write reaches the queue. -/
theorem exec_doorbellWrite_of_bellQueue {s : State} {fn p off size q : Nat} (value : W64) (hat : HostAt s fn p)
    (hsize : size = 4 ∨ size = 8) (hoff : off % 8 = 0) (hq : bellQueue s fn off = some q) :
    exec (.doorbellWrite fn off size value) s = .next (takeBell s fn q (carried size value)) := by
  obtain ⟨hup, -⟩ := hat
  have hawake : ¬s.sys.deepSleep = true := by simp [not_deepSleep_of_regsUp hup]
  rw [exec_doorbellWrite, if_neg hawake, if_pos hup, bar2Write_of_bellQueue _ hsize hoff hq]

/-! ## Table 07.3 -/

/-- Settles O19: the write either is recorded in deep sleep or reaches the queue, and there each state has its own law of `takeBell`. -/
theorem doorbellMovesP : Obligations.DoorbellMovesP := by
  intro s fn p q off size value x v moved
  refine ⟨exec_doorbellWrite_of_deepSleep fn off size value, fun hat hsize hoff hq => ?_⟩
  have hexec : exec (.doorbellWrite fn off size value) s = .next (takeBell s fn q v) :=
    exec_doorbellWrite_of_bellQueue value hat hsize hoff hq
  rw [hexec]
  refine ⟨fun hbx hfn => ?own, ?heldPending, ?pending, ?denied⟩
  case own =>
    refine ⟨fun hsb h1 hv => ?runningValid, fun hsb h1 hv => ?runningNotValid, fun hsb h2 hv => ?haltedValid,
      fun hsb h2 hv => ?haltedNotValid, fun hsb h5 hr => ?held, fun hsb hst => ?standby⟩
    case runningValid => rw [takeBell_running hbx hfn hsb h1, ringRunning_valid hv]
    case runningNotValid =>
      refine ⟨_, rfl, ?_⟩
      rw [takeBell_running hbx hfn hsb h1, ringRunning_not_valid hv]
      exact haltQueue_latches ..
    case haltedValid => rw [takeBell_halted hbx hfn hsb h2, ringHalted_valid hv]
    case haltedNotValid => rw [takeBell_halted hbx hfn hsb h2, ringHalted_not_valid hv, hfn]
    case held => rw [takeBell_held hbx hfn hsb h5 hr]
    case standby => rw [takeBell_standby hbx hfn hsb hst]
  case heldPending => exact fun h5 h4 hp => by rw [takeBell_held_pending h5 h4 hp]
  case pending => exact fun e h4 hp he => by rw [takeBell_pending h4 hp he]
  case denied =>
    rintro (h | h | ⟨h4, h54, h⟩ | ⟨hst, h⟩)
    · rw [takeBell_closed (.inl h)]
    · rw [takeBell_closed (.inr h)]
    · rw [takeBell_foreign (not_or.mpr ⟨h4, h54⟩) h]
    · rw [takeBell_pending_foreign hst h]

end Sys2Proof.Doorbell
end

section
/-! SUPPORT. The run of a scalar Benxis instruction: what R384 lets pass, and what an operation on one or two sources lands (R390, R391). -/

namespace Sys2Proof.ScalarOps

open Sys2Proof Sys2Proof.Machine Sys2Proof.Claims

/-! ## What R384 lets pass -/

/-- A pair of sources that R384 takes: with a SECRET source the result is SECRET; two public ones pass their rows and make a pair. -/
theorem check2_ok {ga gb : Accept} {pair : Nat → Nat → Option Nat} {x y : Opd} {tag : Nat} (h : check2 ga gb pair x y = .ok tag) :
    ((x.x.tag = 7 ∨ y.x.tag = 7) ∧ tag = 7 ∧ (x.x.tag = 7 → entry ga 7 = 0) ∧ (y.x.tag = 7 → entry gb 7 = 0)) ∨
    (x.x.tag ≠ 7 ∧ y.x.tag ≠ 7 ∧ entry ga x.x.tag = 0 ∧ entry gb y.x.tag = 0 ∧ pair x.x.tag y.x.tag = some tag) := by
  simp only [check2, reservedTag, tSecret, bind, Except.bind] at h
  split at h
  next => cases h
  next =>
    split at h
    next => cases h
    next => grind

/-- Where no public pair gives SECRET, the result is SECRET exactly when a source is (R384). -/
theorem secret_iff_of_check2 {ga gb : Accept} {pair : Nat → Nat → Option Nat} {x y : Opd} {tag : Nat} (h : check2 ga gb pair x y = .ok tag)
    (hpair : ∀ ta tb, ta ≠ 7 → pair ta tb ≠ some 7) : tag = 7 ↔ x.x.tag = 7 ∨ y.x.tag = 7 := by
  rcases check2_ok h with ⟨hsec, htag, -⟩ | ⟨hx, hy, -, -, hp⟩
  · exact iff_of_true htag hsec
  · refine iff_of_false (fun htag => hpair _ _ hx (htag ▸ hp)) ?_
    rintro (h7 | h7)
    · exact hx h7
    · exact hy h7

theorem pairAdd_ne_secret (ta tb : Nat) (ha : ta ≠ 7) : pairAdd ta tb ≠ some 7 := by
  unfold pairAdd; grind [tPtr]

theorem pairSub_ne_secret (ta tb : Nat) (ha : ta ≠ 7) : pairSub ta tb ≠ some 7 := by
  unfold pairSub; grind [tPtr, tInt]

/-! ## The bits of the two sources -/

section
variable {c : Core} {f : BxFields}

theorem lowBits_opRs1 : lowBits (opWidth f.w32) (opRs1 c f).x.d = srcA c f := rfl

theorem lowBits_opRs2 (imm : Nat → Nat) : lowBits (opWidth f.w32) (opRs2 c f imm).x.d = srcB c f := by
  rw [opRs2_d]
  rfl

theorem srcA_lt (c : Core) (f : BxFields) : srcA c f < 2 ^ opWidth f.w32 := Nat.mod_lt _ (Nat.two_pow_pos _)

end

/-! ## What an operation lands -/

section
variable {s : State} {n op len tag fresh : Nat} {f : BxFields}

/-- An instruction of the core alone that is taken answers what its operation makes of the core. -/
theorem exec_of_runs {i : Instr} {g : Core → Nat → Nat → BxRes} (hr : Runs s n op f len) (hi : exec i s = .next (runCore s n op f g)) :
    exec i s = .next (doneState s n f len (g (coreAt s n) len (Config.freeValue s.freeCtr))) := by
  obtain ⟨htakes, hfetch⟩ := hr
  rw [hi, runCore_eq htakes hfetch]

/-- What an outcome under a result tag makes of the state: the trap of CHK (R391), or rd and FLG written, and the free value used or not. -/
def landed (s : State) (n : Nat) (f : BxFields) (len tag : Nat) (a : Alu) : State :=
  if chkTrap f tag a then enterTrap s n { code := 0x09 } else drawn (aluNext s n f len tag a.val a.fl) (b1 a.drew)

theorem flgTag_secret (tag : Nat) : flgTag (tag == tSecret) = if tag = 7 then 7 else 2 := by
  simp [flgTag, tSecret, tNat]

/-- A core that completes its instruction moves past it. -/
theorem doneState_ok (c : Core) (drew : Bool) :
    doneState s n f len (.ok { core := c, drew := drew }) = drawn (past s n f len c) (b1 drew) := by
  cases drew <;> rfl

theorem doneState_wrAlu (a : Alu) :
    doneState s n f len (if chkTrap f tag a then .error { code := 0x09 } else wrAlu (coreAt s n) f.rd tag (opWidth f.w32) (tag == tSecret) a) =
      landed s n f len tag a := by
  unfold landed
  split
  · rfl
  · rw [wrAlu, doneState_ok, flgTag_secret]
    rfl

/-- A scalar operation lands on the bits of its two sources. -/
theorem doneState_scalarTwo {ga gb : Accept} {pair : Nat → Nat → Option Nat} {imm : Nat → Nat}
    (g : (tag w ta tb a b fresh : Nat) → Alu) (hc : check2 ga gb pair (opRs1 (coreAt s n) f) (opRs2 (coreAt s n) f imm) = .ok tag) :
    doneState s n f len (scalarTwo (coreAt s n) f fresh ga gb pair imm g) =
      landed s n f len tag (g tag (opWidth f.w32) (opRs1 (coreAt s n) f).x.tag (opRs2 (coreAt s n) f imm).x.tag
        (srcA (coreAt s n) f) (srcB (coreAt s n) f) fresh) := by
  simp only [← doneState_wrAlu, scalarTwo, hc, lowBits_opRs1, lowBits_opRs2]
  rfl

/-- A scalar operation lands on the bits of its one source. -/
theorem doneState_scalarOne {ga : Accept} {tagOf : Nat → Nat} (g : (w a : Nat) → Alu)
    (hc : check1 ga (opRs1 (coreAt s n) f) = .ok ()) :
    doneState s n f len (scalarOne (coreAt s n) f ga tagOf g) =
      landed s n f len (if (opRs1 (coreAt s n) f).x.tag = 7 then 7 else tagOf (opRs1 (coreAt s n) f).x.tag)
        (g (opWidth f.w32) (srcA (coreAt s n) f)) := by
  rw [← doneState_wrAlu, scalarOne, hc]
  rfl

theorem landed_of_trap {a : Alu} (h : chkTrap f tag a = true) : landed s n f len tag a = enterTrap s n { code := 0x09 } := if_pos h

theorem landed_of_not_trap {a : Alu} (h : chkTrap f tag a = false) :
    landed s n f len tag a = drawn (aluNext s n f len tag a.val a.fl) (b1 a.drew) := by
  rw [landed, h]
  rfl

theorem landed_of_not_chk (a : Alu) (h : f.chk = false) :
    landed s n f len tag a = drawn (aluNext s n f len tag a.val a.fl) (b1 a.drew) :=
  landed_of_not_trap (by simp [chkTrap, h])

/-- An operation that clears C and OV traps in no form (R390). -/
theorem landed_aluBits (v : Nat) :
    landed s n f len tag (aluBits (opWidth f.w32) v) = aluNext s n f len tag v (flagsOf (opWidth f.w32) v false false) :=
  landed_of_not_trap (by simp [chkTrap, aluBits, znFlags])

end

end Sys2Proof.ScalarOps
end

section
/-! PROOF. Scalar ADD, SUB, NEG and the logic group (R390, R391, R394): rd, FLG and the CHK trap (O30). -/

namespace Sys2Proof.ScalarOps

open Sys2Proof Sys2Proof.Machine Sys2Proof.Claims

/-! ## ADD and SUB -/

/-- ADD and SUB alike: a value, with the carry or borrow and the exact signed result that its flags come from (R391). -/
def sumAlu (w ta tb v : Nat) (carry : Bool) (exact : Int) (fresh : Nat) : Alu :=
  let k := carryFlags ta tb carry (overflows w exact) fresh
  { val := v, fl := { znFlags w v with c := k.1, ov := k.2.1 }, drew := k.2.2 }

theorem aluAdd_eq (w ta tb a b fresh : Nat) :
    aluAdd w ta tb a b fresh = sumAlu w ta tb ((a + b) % 2 ^ w) (decide (2 ^ w ≤ a + b)) (toSigned w a + toSigned w b) fresh := rfl

theorem aluSub_eq (w ta tb a b fresh : Nat) :
    aluSub w ta tb a b fresh = sumAlu w ta tb ((a + 2 ^ w - b) % 2 ^ w) (decide (a < b)) (toSigned w a - toSigned w b) fresh := rfl

theorem overflows_eq (w : Nat) (r : Int) : overflows w r = !fits w r := by
  simp only [overflows, fits, Bool.not_and, ← decide_not, not_le, not_lt]

/-- A SECRET sum has its OV as it is, and its C open where there is a carry (R394). -/
theorem sumAlu_secret {w ta tb : Nat} (v : Nat) (carry : Bool) (exact : Int) (fresh : Nat) (h : ta = 7 ∨ tb = 7) :
    sumAlu w ta tb v carry exact fresh =
      { val := v, fl := flagsOf w v (carry && fresh.testBit 0) (overflowOf ta tb (!fits w exact)), drew := carry } := by
  have hany : (ta == 7 || tb == 7 || (ta == 1 && tb == 1)) = true := by
    rcases h with h | h <;> simp [h]
  simp [sumAlu, carryFlags, tSecret, h, overflows_eq, overflowOf, hany, flagsOf, znFlags]

/-- A public sum has OV of INT sources, C of NAT and BYTES ones, and neither of others (R391). -/
theorem carryFlags_public {ta tb : Nat} (carry overflow : Bool) (fresh : Nat) (ha : ta ≠ 7) (hb : tb ≠ 7) :
    carryFlags ta tb carry overflow fresh = (carryOf ta tb carry, overflowOf ta tb overflow, false) := by
  have hpublic : ¬(ta = tSecret ∨ tb = tSecret) := not_or.mpr ⟨ha, hb⟩
  rw [carryFlags, if_neg hpublic]
  by_cases hint : ta = tInt ∧ tb = tInt
  · obtain ⟨rfl, rfl⟩ := hint
    simp [carryOf, overflowOf, tInt]
  · rw [if_neg hint]
    have hov : overflowOf ta tb overflow = false := by grind [overflowOf, tInt]
    by_cases hcount : (ta = tNat ∨ ta = tBytes) ∧ (tb = tNat ∨ tb = tBytes)
    · have hcarry : carryOf ta tb carry = carry := by grind [carryOf, tNat, tBytes]
      rw [if_pos hcount, hov, hcarry]
    · have hcarry : carryOf ta tb carry = false := by grind [carryOf, tNat, tBytes]
      rw [if_neg hcount, hov, hcarry]

theorem sumAlu_public {w ta tb : Nat} (v : Nat) (carry : Bool) (exact : Int) (fresh : Nat) (ha : ta ≠ 7) (hb : tb ≠ 7) :
    sumAlu w ta tb v carry exact fresh =
      { val := v, fl := flagsOf w v (carryOf ta tb carry) (overflowOf ta tb (!fits w exact)), drew := false } := by
  rw [sumAlu, overflows_eq, carryFlags_public _ _ _ ha hb]
  rfl

/-! The upper half of a PTR under W32 is open (R395). -/

theorem ptrUpper_of_ptr {tag w : Nat} (fresh : Nat) (a : Alu) (h : tag = 4 ∧ w = 32) :
    ptrUpper tag w fresh a = { a with val := a.val + 2 ^ 32 * (fresh % 2 ^ 32), drew := true } := if_pos h

theorem ptrUpper_of_not {tag w : Nat} (fresh : Nat) (a : Alu) (h : ¬(tag = 4 ∧ w = 32)) : ptrUpper tag w fresh a = a := if_neg h

@[simp] theorem ptrUpper_fl (tag w fresh : Nat) (a : Alu) : (ptrUpper tag w fresh a).fl = a.fl := by
  unfold ptrUpper
  split <;> rfl

section
variable {s : State} {n len tag ta tb v fresh : Nat} {f : BxFields} {carry : Bool} {exact : Int} {i : Instr}

/-- What a sum lands is what `sumNext` says of it: a SECRET one never traps (R394); the upper half of a PTR under W32 is open (R395). -/
theorem sumNext_of_landed (hsec : tag = 7 ↔ ta = 7 ∨ tb = 7)
    (hx : exec i s = .next (landed s n f len tag
      (ptrUpper tag (opWidth f.w32) fresh (sumAlu (opWidth f.w32) ta tb v carry exact fresh)))) :
    sumNext s n f len tag ta tb v carry exact i := by
  unfold sumNext
  by_cases htag : tag = 7
  · rw [ptrUpper_of_not _ _ (by omega), sumAlu_secret _ _ _ _ (hsec.mp htag),
      landed_of_not_trap (by simp [chkTrap, htag, tSecret]), htag] at hx
    rw [if_pos htag]
    exact ⟨_, _, hx⟩
  · obtain ⟨ha, hb⟩ := not_or.mp (mt hsec.mpr htag)
    rw [sumAlu_public _ _ _ _ ha hb] at hx
    rw [if_neg htag]
    split
    next htrap => rwa [landed_of_trap (by simpa [chkTrap, flagsOf, tSecret, htag] using htrap)] at hx
    next hgo =>
      rw [landed_of_not_trap (by simpa [chkTrap, flagsOf, tSecret, htag] using hgo)] at hx
      split
      next hptr =>
        obtain ⟨rfl, hw⟩ := hptr
        rw [ptrUpper_of_ptr _ _ ⟨rfl, hw⟩] at hx
        exact ⟨_, Nat.mod_lt _ (by decide), hx⟩
      next hplain => rwa [ptrUpper_of_not _ _ hplain] at hx

end

/-! ## The scalar forms -/

section
variable {c : Core} {f : BxFields} (fresh : Nat) (hv : f.vec = false)
include hv

theorem bxAdd_scalar : bxAdd c f fresh =
    scalarTwo c f fresh accArith accArith pairAdd immArith fun t w ta tb a b x => ptrUpper t w x (aluAdd w ta tb a b x) := by
  rw [bxAdd, hv]
  rfl

theorem bxSub_scalar : bxSub c f fresh =
    scalarTwo c f fresh accArith accArith pairSub immArith fun t w ta tb a b x => ptrUpper t w x (aluSub w ta tb a b x) := by
  rw [bxSub, hv]
  rfl

theorem bxBits_scalar (g : Nat → Nat → Nat → Nat) : bxBits c f fresh g =
    scalarTwo c f fresh accLogic accLogic pairBits immSame fun _ w _ _ a b _ => aluBits w (g w a b) := by
  rw [bxBits, hv]
  rfl

end

/-- A bitwise instruction of two sources writes its value, with C and OV clear. -/
theorem exec_bits {s : State} {n op len tag : Nat} {f : BxFields} {i : Instr} (g : Nat → Nat → Nat → Nat) (hv : f.vec = false)
    (hr : Runs s n op f len)
    (hc : check2 accLogic accLogic pairBits (opRs1 (coreAt s n) f) (opRs2 (coreAt s n) f immSame) = .ok tag)
    (hi : exec i s = .next (runCore s n op f fun c _ x => bxBits c f x g)) :
    let v := g (opWidth f.w32) (srcA (coreAt s n) f) (srcB (coreAt s n) f)
    exec i s = .next (aluNext s n f len tag v (flagsOf (opWidth f.w32) v false false)) := by
  rw [exec_of_runs hr hi, bxBits_scalar _ hv, doneState_scalarTwo _ hc, landed_aluBits]

/-- NEG of the most negative value sets OV, and a CHK form then traps (R391). -/
theorem landed_aluNeg {s : State} {n len tag a : Nat} {f : BxFields} :
    let w := opWidth f.w32
    landed s n f len tag (aluNeg w a) =
      if f.chk = true ∧ tag ≠ 7 ∧ a = 2 ^ (w - 1) then enterTrap s n { code := 0x09 }
      else aluNext s n f len tag ((2 ^ w - a) % 2 ^ w) (flagsOf w ((2 ^ w - a) % 2 ^ w) false (a == 2 ^ (w - 1))) := by
  intro w
  split
  next htrap => exact landed_of_trap (by simpa [chkTrap, aluNeg, znFlags, tSecret, and_assoc] using htrap)
  next hgo => exact landed_of_not_trap (by simpa [chkTrap, aluNeg, znFlags, tSecret, and_assoc] using hgo)

/-- Settles O30: each instruction runs its scalar operation, and what that lands is read off its flags. -/
theorem benxisArithmeticWritesRdAndFlags : Obligations.BenxisArithmeticWritesRdAndFlags := by
  intro s n f len hv c w a b x y z
  have unary (t : Nat) : (if t = 7 then 7 else t) = t := by split <;> omega
  refine ⟨fun tag hr hc => ?add, fun tag hr hc => ?sub, fun hr hc => ?neg, fun tag hc _ => ?logic, fun hr hc => ?not⟩
  case add =>
    refine sumNext_of_landed (fresh := Config.freeValue s.freeCtr) (secret_iff_of_check2 hc pairAdd_ne_secret) ?_
    rw [exec_of_runs hr rfl, bxAdd_scalar _ hv, doneState_scalarTwo _ hc, aluAdd_eq]
  case sub =>
    refine sumNext_of_landed (fresh := Config.freeValue s.freeCtr) (secret_iff_of_check2 hc pairSub_ne_secret) ?_
    rw [exec_of_runs hr rfl, bxSub_scalar _ hv, doneState_scalarTwo _ hc, aluSub_eq]
  case neg =>
    rw [exec_of_runs hr rfl, doneState_scalarOne _ hc, unary, landed_aluNeg]
    split <;> rfl
  case logic =>
    exact ⟨fun hr => exec_bits (fun _ a b => a &&& b) hv hr hc rfl, fun hr => exec_bits (fun _ a b => a ||| b) hv hr hc rfl,
      fun hr => exec_bits (fun _ a b => a ^^^ b) hv hr hc rfl, fun hr => exec_bits andnBits hv hr hc rfl⟩
  case not =>
    rw [exec_of_runs hr rfl, hv, if_neg Bool.false_ne_true, doneState_scalarOne _ hc, unary, landed_aluBits]
    rfl

end Sys2Proof.ScalarOps
end

section
/-! PROOF. Scalar shifts, rotates, bit counts, CMP, CTEQ, CTLT and CSEL (R390, R392, R394): values, C, and what is written (O31). -/

namespace Sys2Proof.ScalarOps

open Sys2Proof Sys2Proof.Machine Sys2Proof.Claims

/-! ## Bit counts -/

theorem clz_le (v k : Nat) : clz v k ≤ k := by
  induction k with
  | zero => exact Nat.le_refl 0
  | succ k ih =>
    rw [clz]
    split <;> omega

/-- The leading zeros are zeros. -/
theorem lt_two_pow_sub_clz {v k : Nat} (h : v < 2 ^ k) : v < 2 ^ (k - clz v k) := by
  induction k with
  | zero => exact h
  | succ k ih =>
    rw [clz]
    split
    next => exact h
    next htop =>
      have hk : v < 2 ^ k := by
        refine Nat.lt_pow_two_of_testBit v fun j hj => ?_
        rcases Nat.eq_or_lt_of_le hj with rfl | hlt
        · simpa using htop
        · exact Nat.testBit_lt_two_pow (h.trans_le (Nat.pow_le_pow_right (by decide) hlt))
      rw [Nat.add_comm 1, Nat.add_sub_add_right]
      exact ih hk

/-- The bit below the leading zeros is set. -/
theorem testBit_clz {v k : Nat} (h : clz v k < k) : v.testBit (k - 1 - clz v k) = true := by
  induction k with
  | zero => exact absurd h (Nat.not_lt_zero _)
  | succ k ih =>
    rw [clz] at h ⊢
    split at h
    next htop => simp [htop]
    next htop =>
      rw [if_neg htop, show k + 1 - 1 - (1 + clz v k) = k - 1 - clz v k by omega]
      exact ih (by omega)

theorem ctz_le (v k n : Nat) : ctz v k n ≤ n := by
  induction n generalizing k with
  | zero => exact Nat.le_refl 0
  | succ n ih =>
    have := ih (k + 1)
    rw [ctz]
    split <;> omega

/-- The trailing zeros from bit `k` are zeros. -/
theorem testBit_of_lt_ctz {v k n j : Nat} (hk : k ≤ j) (hj : j < k + ctz v k n) : v.testBit j = false := by
  induction n generalizing k with
  | zero => exact absurd hj (by simpa [ctz] using hk)
  | succ n ih =>
    rw [ctz] at hj
    split at hj
    next => omega
    next hbit =>
      rcases Nat.eq_or_lt_of_le hk with rfl | hlt
      · simpa using hbit
      · exact ih (k := k + 1) hlt (by omega)

/-- The bit above the trailing zeros is set. -/
theorem testBit_ctz {v k n : Nat} (h : ctz v k n < n) : v.testBit (k + ctz v k n) = true := by
  induction n generalizing k with
  | zero => exact absurd h (Nat.not_lt_zero _)
  | succ n ih =>
    rw [ctz] at h ⊢
    split at h
    next hbit => rwa [if_pos hbit]
    next hbit =>
      rw [if_neg hbit, ← Nat.add_assoc]
      exact ih (by omega)

theorem mod_two_pow_ctz (v n : Nat) : v % 2 ^ ctz v 0 n = 0 := by
  refine Nat.eq_of_testBit_eq fun j => ?_
  rw [Nat.testBit_mod_two_pow, Nat.zero_testBit, Bool.and_eq_false_iff, decide_eq_false_iff_not]
  by_cases hj : j < ctz v 0 n
  · exact .inr (testBit_of_lt_ctz (n := n) (Nat.zero_le j) (by omega))
  · exact .inl hj

theorem countBits_eq_countP (v n : Nat) : countBits v n = (List.range n).countP fun j => v.testBit j := by
  induction n with
  | zero => rfl
  | succ n ih => rw [countBits, ih, List.range_succ, List.countP_append, List.countP_singleton]

/-! ## Shifts and rotates -/

/-- Above the width the C of SAR is the sign bit, as at the width (R392). -/
theorem aluSar_eq (w a k : Nat) :
    aluSar w a k =
      let v := ofSigned w (toSigned w a / 2 ^ min k w)
      { val := v, fl := flagsOf w v (if k = 0 then false else a.testBit (min k w - 1)) false } := by
  have hc : (if k ≤ w then a.testBit (k - 1) else a.testBit (w - 1)) = a.testBit (min k w - 1) := by
    split
    next h => rw [Nat.min_eq_left h]
    next h => rw [Nat.min_eq_right (by omega)]
  rw [aluSar, hc]
  rfl

section
variable {s : State} {n op len tag : Nat} {f : BxFields} {i : Instr}

/-- A shift or rotate lands on rs1 and the whole amount; without CHK it completes. -/
theorem exec_shift (g : Nat → Nat → Nat → Nat → Alu) (hv : f.vec = false) (hchk : f.chk = false) (hr : Runs s n op f len)
    (hc : check2 accLogic accAmount pairShift (opRs1 (coreAt s n) f) (opRs2 (coreAt s n) f immInt) = .ok tag)
    (hi : exec i s = .next (runCore s n op f fun c _ x => bxShift c f x g)) :
    let a := g (opWidth f.w32) (srcA (coreAt s n) f) (srcB (coreAt s n) f) (Config.freeValue s.freeCtr)
    exec i s = .next (drawn (aluNext s n f len tag a.val a.fl) (b1 a.drew)) := by
  rw [exec_of_runs hr hi, bxShift, if_neg (by simp [hv]), doneState_scalarTwo _ hc, landed_of_not_chk _ hchk]

/-- A bit count is a NAT, or SECRET of a SECRET source. -/
theorem exec_count (g : (w a : Nat) → Nat) (hr : Runs s n op f len) (hc : check1 accCount (opRs1 (coreAt s n) f) = .ok ())
    (hi : exec i s = .next (runCore s n op f fun c _ _ => scalarOne c f accCount (fun _ => tNat) fun w a => aluBits w (g w a))) :
    let v := g (opWidth f.w32) (srcA (coreAt s n) f)
    exec i s = .next (aluNext s n f len (if (opRs1 (coreAt s n) f).x.tag = 7 then 7 else 2) v (flagsOf (opWidth f.w32) v false false)) := by
  rw [exec_of_runs hr hi, doneState_scalarOne _ hc, landed_aluBits]
  rfl

end

/-! ## CMP and the constant-time instructions -/

/-- CMP takes no SECRET source: its row traps on one. -/
theorem public_of_accCmp {x y : Opd} {tag : Nat} (h : check2 accCmp accCmp pairSame x y = .ok tag) : x.x.tag ≠ 7 ∧ y.x.tag ≠ 7 := by
  rcases check2_ok h with ⟨hsec, -, hx, hy⟩ | ⟨hx, hy, -⟩
  · exact absurd hsec (not_or.mpr ⟨fun h7 => absurd (hx h7) (by decide), fun h7 => absurd (hy h7) (by decide)⟩)
  · exact ⟨hx, hy⟩

section
variable {c : Core} {f : BxFields} {tag : Nat} (fresh : Nat)

/-- CMP writes FLG alone: Z of a HANDLE or CODE comparison, the five flags of the others (R390). -/
theorem bxCmp_ok (hc : check2 accCmp accCmp pairSame (opRs1 c f) (opRs2 c f immSame) = .ok tag) :
    let w := opWidth f.w32
    let a := srcA c f
    let b := srcB c f
    let ta := (opRs1 c f).x.tag
    let tb := (opRs2 c f immSame).x.tag
    let v := (a + 2 ^ w - b) % 2 ^ w
    bxCmp c f fresh = .ok { core := { c with flg := mkTW 2 (if tag = 5 ∨ tag = 6 then b1 (v == 0) else
      (flagsOf w v (carryOf ta tb (decide (a < b))) (overflowOf ta tb (!fits w (toSigned w a - toSigned w b)))).word) } } := by
  intro w a b ta tb v
  obtain ⟨ha, hb⟩ := public_of_accCmp hc
  have hword (x : Flags) : (if tag = tHandle ∨ tag = tCode then { z := x.z } else x : Flags).word =
      if tag = 5 ∨ tag = 6 then b1 x.z else x.word := by
    simp only [tHandle, tCode, or_comm (a := tag = 6)]
    split <;> rfl
  simp only [bxCmp, hc, lowBits_opRs2, aluSub_eq, sumAlu_public _ _ _ _ ha hb]
  exact congrArg (fun g => (.ok { core := { c with flg := mkTW 2 g } } : BxRes)) (hword _)

/-- CTEQ is all ones where the sources are equal. -/
theorem bxCteq_ok (hv : f.vec = false) (hc : check2 accLogic accLogic pairSame (opRs1 c f) (opRs2 c f immSame) = .ok tag) :
    bxCteq c f fresh = ctWrite c f tag (opWidth f.w32) (mask01 (opWidth f.w32) (srcA c f == srcB c f)) false := by
  simp only [bxCteq, hv, Bool.false_eq_true, if_false, hc, lowBits_opRs2]
  rfl

/-- CTLT is all ones where rs1 is the less in the order of the tag. -/
theorem bxCtlt_ok (hv : f.vec = false) (hc : check2 accLogic accLogic pairSame (opRs1 c f) (opRs2 c f immSame) = .ok tag) :
    let r := ctLess (opWidth f.w32) tag (srcA c f) (srcB c f) fresh
    bxCtlt c f fresh = ctWrite c f tag (opWidth f.w32) (mask01 (opWidth f.w32) r.1) r.2 := by
  simp only [bxCtlt, hv, Bool.false_eq_true, if_false, hc, lowBits_opRs2]
  rfl

/-- CSEL takes bits by the mask in rd, and is SECRET under a SECRET mask. -/
theorem bxCsel_ok (hv : f.vec = false) (hc : check2 accLogic accLogic pairSame (opRs1 c f) (opRs2 c f immSame) = .ok tag)
    (hm : check1 accLogic (opRd c f) = .ok ()) :
    bxCsel c f fresh = ctWrite c f (if (regW c f.rd).tag = 7 then 7 else tag) (opWidth f.w32)
      (cselBits (opWidth f.w32) (srcD c f) (srcA c f) (srcB c f)) false := by
  simp only [bxCsel, hv, Bool.false_eq_true, if_false, hc, hm, lowBits_opRs2]
  rfl

end

/-- A constant-time instruction writes rd alone. -/
theorem doneState_ctWrite {s : State} {n len tag : Nat} {f : BxFields} (w v : Nat) (drew : Bool) :
    doneState s n f len (ctWrite (coreAt s n) f tag w v drew) = drawn (rdNext s n f len (mkTW tag (widen w tag v))) (b1 drew) :=
  doneState_ok _ _

/-- The order of CTLT: signed of INT, unsigned of NAT and BYTES; of SECRET values both, where they agree (log 28). -/
theorem ctLess_order (w tag a b fresh : Nat) :
    let r := ctLess w tag a b fresh
    (tag = 1 → (r.1 ↔ toSigned w a < toSigned w b)) ∧ (tag = 2 ∨ tag = 3 → (r.1 ↔ a < b)) ∧
      (tag = 7 → (a < b ↔ toSigned w a < toSigned w b) → (r.1 ↔ a < b)) ∧ (tag ≠ 7 → r.2 = false) := by
  refine ⟨fun h => ?_, fun h => ?_, fun h heq => ?_, fun h => ?_⟩
  · simp [ctLess, h, tInt]
  · rcases h with h | h <;> simp [ctLess, h, tInt, tSecret]
  · simp [ctLess, h, tInt, tSecret, heq]
  · simp only [ctLess, tSecret, h, false_and, if_false]
    split <;> rfl

/-- Settles O31: each instruction runs its operation; what it lands is the law of its value. -/
theorem benxisShiftsCountsCompareSelect : Obligations.BenxisShiftsCountsCompareSelect := by
  refine ⟨fun s n f len hv => ?shifts, fun s n f len hv => ?compares⟩
  case shifts =>
    refine ⟨fun tag hchk hc => ⟨?shl, ?shr, ?sar, ?rol, ?ror⟩, fun _ hc => ⟨?clz, ?ctz, ?popc⟩⟩
    case shl => exact fun hr => exec_shift (fun w a k _ => aluShl w a k) hv hchk hr hc rfl
    case shr => exact fun hr => exec_shift (fun w a k _ => aluShr w a k) hv hchk hr hc rfl
    case sar =>
      intro hr
      have h := exec_shift (i := .bxSar n f) (fun w a k _ => aluSar w a k) hv hchk hr hc rfl
      simp only [aluSar_eq] at h
      exact h
    case rol => exact fun hr => ⟨_, exec_shift aluRol hv hchk hr hc rfl⟩
    case ror => exact fun hr => ⟨_, exec_shift aluRor hv hchk hr hc rfl⟩
    case clz =>
      exact fun hr => ⟨_, exec_count (fun w a => clz a w) hr hc rfl, clz_le _ _, lt_two_pow_sub_clz (srcA_lt _ f), testBit_clz⟩
    case ctz =>
      refine fun hr => ⟨_, exec_count (fun w a => ctz a 0 w) hr hc rfl, ctz_le _ _ _, mod_two_pow_ctz _ _, fun h => ?_⟩
      simpa using testBit_ctz h
    case popc =>
      intro hr
      have h := exec_count (i := .bxPopc n f) (fun w a => countBits a w) hr hc rfl
      simp only [countBits_eq_countP] at h
      exact h
  case compares =>
    refine ⟨fun tag hr hc => ?cmp, fun tag hc => ⟨?cteq, ?ctlt, ?csel⟩⟩
    case cmp =>
      rw [exec_of_runs hr rfl, bxCmp_ok _ hc, doneState_ok]
      rfl
    case cteq =>
      intro hr
      rw [exec_of_runs hr rfl, bxCteq_ok _ hv hc, doneState_ctWrite, mask01]
      simp only [beq_iff_eq]
      rfl
    case ctlt =>
      intro hr
      obtain ⟨hint, hnat, hsecret, hdrew⟩ := ctLess_order (opWidth f.w32) tag (srcA (coreAt s n) f) (srcB (coreAt s n) f)
        (Config.freeValue s.freeCtr)
      refine ⟨_, _, hint, hnat, hsecret, fun h => congrArg b1 (hdrew h), ?_⟩
      rw [exec_of_runs hr rfl, bxCtlt_ok _ hv hc, doneState_ctWrite]
      simp only [mask01, eq_iff_iff, iff_true]
    case csel =>
      intro hr hm
      rw [exec_of_runs hr rfl, bxCsel_ok _ hv hc hm, doneState_ctWrite]
      rfl

end Sys2Proof.ScalarOps
end

section
/-! PROOF. MUL, MULU, DIV and DIVU (R390, R393 to R396): what starts in the units, the fixed results, and their landing (O32). -/

namespace Sys2Proof.ScalarOps

open Sys2Proof Sys2Proof.Machine Sys2Proof.Claims

/-! ## The 64-bit values of the fixed results (R393, R395) -/

/-- Every tag but INT is zero-extended. -/
theorem widen_of_ne_int {tag : Nat} (w v : Nat) (h : tag ≠ 1) : widen w tag v = v := if_neg h

theorem widen_allOnes (w32 : Bool) : widen (opWidth w32) tInt (2 ^ opWidth w32 - 1) = 2 ^ 64 - 1 := by
  cases w32 <;> decide

theorem widen_least (w32 : Bool) :
    widen (opWidth w32) tInt (2 ^ (opWidth w32 - 1)) = ofSigned 64 (-(2 ^ (opWidth w32 - 1) : Int)) := by
  cases w32 <;> decide

theorem widen_zero (w32 : Bool) : widen (opWidth w32) tInt 0 = 0 := by
  cases w32 <;> decide

/-- A pair of multiplier or divider sources that are not INT gives no INT. -/
theorem ne_int_of_accMulU {x y : Opd} {tag : Nat} (h : check2 accMulU accMulU pairSame x y = .ok tag) : tag ≠ 1 := by
  rcases check2_ok h with ⟨-, h7, -⟩ | ⟨-, -, hx, -, hpair⟩
  · omega
  · obtain ⟨-, rfl⟩ : x.x.tag = y.x.tag ∧ x.x.tag = tag := by simpa [pairSame] using hpair
    intro hint
    rw [hint] at hx
    exact absurd hx (by decide)

/-! ## What starts -/

/-- An operation in flight in the multiplier lands before the next one starts (R396). -/
theorem landMul_with (c : Core) (r : UnitOp) (g : TW) :
    { landMul c with mul := some r, flg := g } =
      { c with mlo := (c.mul.getD { lo := c.mlo, hi := c.mhi }).lo, mhi := (c.mul.getD { lo := c.mlo, hi := c.mhi }).hi,
               mul := some r, flg := g } := by
  unfold landMul
  cases c.mul <;> rfl

theorem landDiv_with (c : Core) (r : UnitOp) (g : TW) :
    { landDiv c with div := some r, flg := g } =
      { c with quo := (c.div.getD { lo := c.quo, hi := c.rem }).lo, rem := (c.div.getD { lo := c.quo, hi := c.rem }).hi,
               div := some r, flg := g } := by
  unfold landDiv
  cases c.div <;> rfl

/-- What a division answers: the traps of CHK, for a zero divisor and for an overflow, or its start under the extension of its results. -/
def quotientNext (s : State) (n : Nat) (f : BxFields) (len tag ext : Nat) (h : Halves) : State :=
  if (f.chk = true ∧ tag ≠ 7) ∧ h.fl.dz = true then enterTrap s n { code := 0x0A }
  else if (f.chk = true ∧ tag ≠ 7) ∧ h.fl.ov = true then enterTrap s n { code := 0x09 }
  else divNext s n f len tag (widen (opWidth f.w32) ext h.lo) (widen (opWidth f.w32) ext h.hi) h.fl

section
variable {s : State} {n len tag : Nat} {f : BxFields} {ga : Accept}

theorem doneState_startMul (signed : Bool)
    (hc : check2 ga ga pairSame (opRs1 (coreAt s n) f) (opRs2 (coreAt s n) f immSame) = .ok tag) :
    let w := opWidth f.w32
    let h := mulHalves w signed (srcA (coreAt s n) f) (srcB (coreAt s n) f)
    doneState s n f len (startMul (coreAt s n) f ga signed) = mulNext s n f len tag (widen w tag h.lo) (widen w tag h.hi) h.fl := by
  intro w h
  have hstart : startMul (coreAt s n) f ga signed = .ok { core := { landMul (coreAt s n) with
      mul := some { lo := mkTW tag (widen w tag h.lo), hi := mkTW tag (widen w tag h.hi) },
      flg := mkTW (flgTag (tag == tSecret)) h.fl.word } } := by
    simp only [startMul, hc, lowBits_opRs1, lowBits_opRs2]
    rfl
  rw [hstart, doneState_ok, landMul_with, flgTag_secret]
  rfl

theorem doneState_startDiv (signed : Bool)
    (hc : check2 ga ga pairSame (opRs1 (coreAt s n) f) (opRs2 (coreAt s n) f immSame) = .ok tag) :
    let w := opWidth f.w32
    let a := srcA (coreAt s n) f
    let b := srcB (coreAt s n) f
    doneState s n f len (startDiv (coreAt s n) f ga signed) =
      quotientNext s n f len tag (if signed && divFixed w signed a b then tInt else tag) (divHalves w signed a b) := by
  have hchk (v : Bool) : (f.chk && tag != tSecret && v) = true ↔ (f.chk = true ∧ tag ≠ 7) ∧ v = true := by simp [tSecret]
  simp only [startDiv, hc, lowBits_opRs1, lowBits_opRs2, quotientNext, bind, Except.bind, apply_ite (doneState s n f len), doneState_ok,
    landDiv_with, flgTag_secret, hchk]
  rfl

/-- A zero divisor traps with 0x0A under CHK, never by a SECRET value (R393, R394). -/
theorem quotientNext_of_dz {ext : Nat} {h : Halves} (hdz : h.fl.dz = true) :
    quotientNext s n f len tag ext h = if f.chk = true ∧ tag ≠ 7 then enterTrap s n { code := 0x0A }
      else divNext s n f len tag (widen (opWidth f.w32) ext h.lo) (widen (opWidth f.w32) ext h.hi) h.fl := by
  rw [quotientNext]
  by_cases htrap : f.chk = true ∧ tag ≠ 7
  · rw [if_pos ⟨htrap, hdz⟩, if_pos htrap]
  · rw [if_neg (htrap ·.1), if_neg (htrap ·.1), if_neg htrap]

theorem quotientNext_of_ov {ext : Nat} {h : Halves} (hdz : h.fl.dz = false) (hov : h.fl.ov = true) :
    quotientNext s n f len tag ext h = if f.chk = true ∧ tag ≠ 7 then enterTrap s n { code := 0x09 }
      else divNext s n f len tag (widen (opWidth f.w32) ext h.lo) (widen (opWidth f.w32) ext h.hi) h.fl := by
  rw [quotientNext, if_neg (by simp [hdz])]
  by_cases htrap : f.chk = true ∧ tag ≠ 7
  · rw [if_pos ⟨htrap, hov⟩, if_pos htrap]
  · rw [if_neg (htrap ·.1), if_neg htrap]

theorem quotientNext_of_plain {ext : Nat} {h : Halves} (hdz : h.fl.dz = false) (hov : h.fl.ov = false) :
    quotientNext s n f len tag ext h =
      divNext s n f len tag (widen (opWidth f.w32) ext h.lo) (widen (opWidth f.w32) ext h.hi) h.fl := by
  simp [quotientNext, hdz, hov]

end

/-! ## Quotients and remainders (R393) -/

/-- A zero divisor gives all ones and the dividend, and sets DZ. -/
theorem divHalves_zero (w : Nat) (signed : Bool) (a : Nat) :
    divHalves w signed a 0 = { lo := 2 ^ w - 1, hi := a, fl := { flagsOf w (2 ^ w - 1) false false with dz := true } } := rfl

theorem divHalves_unsigned {w a b : Nat} (hb : b ≠ 0) :
    divHalves w false a b = { lo := a / b, hi := a % b, fl := flagsOf w (a / b) false false } := by
  rw [divHalves, if_neg hb]
  rfl

/-- The most negative value divided by -1 gives itself and 0, and sets OV. -/
theorem divHalves_overflow {w a b : Nat} (hb : b ≠ 0) (h : a = 2 ^ (w - 1) ∧ b = 2 ^ w - 1) :
    divHalves w true a b = { lo := a, hi := 0, fl := flagsOf w a false true } := by
  rw [divHalves, if_neg hb, if_pos rfl, if_pos h]
  rfl

theorem divHalves_signed {w a b : Nat} (hb : b ≠ 0) (h : ¬(a = 2 ^ (w - 1) ∧ b = 2 ^ w - 1)) :
    let q := ofSigned w ((toSigned w a).tdiv (toSigned w b))
    divHalves w true a b = { lo := q, hi := ofSigned w ((toSigned w a).tmod (toSigned w b)), fl := flagsOf w q false false } := by
  rw [divHalves, if_neg hb, if_pos rfl, if_neg h]
  rfl

/-- Settles O32: the product or quotient starts in its unit, each case of a division by its own law; a landing moves the results. -/
theorem benxisMultiplyAndDivide : Obligations.BenxisMultiplyAndDivide := by
  intro s n f len hv c w a b x y
  refine ⟨fun tag hr hc => ?mul, fun tag hr hc => ?mulu, fun tag hr hc => ?div, fun tag hr hc => ?divu, fun r hr => ?landMul,
    fun r hr => ?landDiv⟩
  case mul =>
    rw [exec_of_runs hr rfl, doneState_startMul _ hc]
    rfl
  case mulu =>
    rw [exec_of_runs hr rfl, if_neg (by simp [hv]), doneState_startMul _ hc]
    rfl
  case div =>
    have hexec : exec (.bxDiv n f) s =
        .next (quotientNext s n f len tag (if divFixed w true a b then tInt else tag) (divHalves w true a b)) := by
      rw [exec_of_runs hr rfl, doneState_startDiv _ hc]
      rfl
    intro q r least
    rw [hexec]
    split
    next hb =>
      have hfixed : divFixed w true a b = true := by simp [divFixed, hb]
      rw [hfixed, hb, divHalves_zero, quotientNext_of_dz rfl, if_pos rfl, widen_allOnes]
      rfl
    next hb =>
      split
      next hov =>
        have hfixed : divFixed w true a b = true := by simp [divFixed, hov]
        rw [hfixed, divHalves_overflow hb hov, quotientNext_of_ov rfl rfl, if_pos rfl, widen_zero]
        simp only [hov.1, w, widen_least]
        rfl
      next hov =>
        have hfixed : divFixed w true a b = false := by simpa [divFixed, hb] using hov
        rw [hfixed, divHalves_signed hb hov, quotientNext_of_plain rfl rfl]
        rfl
  case divu =>
    have hexec : exec (.bxDivu n f) s = .next (quotientNext s n f len tag tag (divHalves w false a b)) := by
      rw [exec_of_runs hr rfl, doneState_startDiv _ hc]
      rfl
    have htag : tag ≠ 1 := ne_int_of_accMulU hc
    rw [hexec]
    split
    next hb => rw [hb, divHalves_zero, quotientNext_of_dz rfl, widen_of_ne_int _ _ htag, widen_of_ne_int _ _ htag]
    next hb => rw [divHalves_unsigned hb, quotientNext_of_plain rfl rfl, widen_of_ne_int _ _ htag, widen_of_ne_int _ _ htag]
  case landMul =>
    have hland : landMul c = { c with mlo := r.lo, mhi := r.hi, mul := none } := by rw [landMul, hr]
    rw [← hland]
    rfl
  case landDiv =>
    have hland : landDiv c = { c with quo := r.lo, rem := r.hi, div := none } := by rw [landDiv, hr]
    rw [← hland]
    rfl

end Sys2Proof.ScalarOps
end

section
/-! The proofs of this sitting. Each is elaborated before the next begins: proofs that wait for the kernel (`decide +kernel`) would else hold a thread
each, and the threads' stacks the memory of the whole build. -/
set_option Elab.async false

section
/-! SUPPORT. Byte strings: little-endian integers read back, and slices of a string written piece by piece (R3, R4). -/

namespace Sys2Proof.ByteStrings

open Sys2Proof Sys2Proof.Machine

@[simp] theorem length_leBytes (n v : Nat) : (leBytes n v).length = n := by
  induction n generalizing v with
  | zero => rfl
  | succ n ih => simp [leBytes, ih]

theorem leNat_leBytes (n v : Nat) : leNat (leBytes n v) = v % 256 ^ n := by
  induction n generalizing v with
  | zero => simp [leBytes, leNat, Nat.mod_one]
  | succ n ih =>
    have hsplit : v % (256 * 256 ^ n) = v % 256 + 256 * (v / 256 % 256 ^ n) := Nat.mod_mul
    simp [leBytes, leNat, ih, Nat.pow_succ', hsplit]

theorem leNat_lt (b : Bytes) : leNat b < 256 ^ b.length := by
  induction b with
  | nil => simp [leNat]
  | cons x r ih =>
    have hx : x.toNat < 256 := x.isLt
    simp only [leNat, List.length_cons, Nat.pow_succ']
    omega

theorem leBytes_leNat (b : Bytes) : leBytes b.length (leNat b) = b := by
  induction b with
  | nil => rfl
  | cons x r ih =>
    have hx : x.toNat < 256 := x.isLt
    have hlow : BitVec.ofNat 8 (leNat (x :: r)) = x := by
      apply BitVec.eq_of_toNat_eq
      simp only [leNat, BitVec.toNat_ofNat]
      omega
    have hhigh : leNat (x :: r) / 256 = leNat r := by
      simp only [leNat]
      omega
    rw [List.length_cons, leBytes, hlow, hhigh, ih]

theorem slice_append_right (a b : Bytes) (off n : Nat) : slice (a ++ b) (a.length + off) n = slice b off n := by
  have hgone : a.drop (a.length + off) = [] := List.drop_eq_nil_of_le (by omega)
  simp [slice, List.drop_append, hgone]

theorem slice_append_left {a : Bytes} (b : Bytes) {n : Nat} (h : n ≤ a.length) : slice (a ++ b) 0 n = a.take n := by
  simp [slice, List.take_append_of_le_length h]

theorem slice_zero (b : Bytes) (n : Nat) : slice b 0 n = b.take n := rfl

end Sys2Proof.ByteStrings
end

section
/-! PROOF. The Benxis encoding: the decoder and the encoder undo each other (R377 to R381, Tables 17.2 to 17.4; O42, O43). -/

namespace Sys2Proof.BxEncoding

open Sys2Proof Sys2Proof.Machine Sys2Proof.ByteStrings

/-! ## The pieces of an encoding -/

/-- The op bytes of the three maps stand below 0x71, so none looks like a leading parcel. -/
theorem op_lt_of_legal {op : Nat} {f : BxFields} (h : bxLegal op f = true) : op < 0x71 := by
  by_contra hop
  have hnone : bxForm op = none := by
    simp only [bxForm, formExt, List.mem_cons, List.not_mem_nil, or_false]
    repeat rw [if_neg (by omega)]
  simp [bxLegal, hnone] at h

theorem b1_le (b : Bool) : b1 b ≤ 1 := by cases b <;> decide

theorem prefixByte_lt (f : BxFields) : prefixByte f < 200 := by
  have hc := b1_le f.chk
  have hw := b1_le f.w32
  have hv := b1_le f.vec
  simp only [prefixByte]
  omega

/-- The two bytes in front of an encoding, if any. -/
def prefixBytes (f : BxFields) : Bytes := if hasPrefix f then leBytes 2 (prefixByte f) else []

/-- The parcel that the decoder finds in front: 0 for none. -/
def prefixWord (f : BxFields) : Nat := if hasPrefix f then prefixByte f else 0

theorem bxEncode_eq (op : Nat) (f : BxFields) :
    bxEncode op f = prefixBytes f ++ (leBytes 4 (headWord op f) ++ leBytes (immLen f) f.imm.toNat) := by
  simp [bxEncode, prefixBytes]

theorem u8_of_leBytes (n v : Nat) (rest : Bytes) : u8 (leBytes (n + 1) v ++ rest) 0 = v % 256 := by
  simp [u8, slice, leBytes, leNat]

/-- In front of a head word that does not look like a parcel the decoder finds the parcel that the encoder put there. -/
theorem parcel_found {op h : Nat} (f : BxFields) (rest : Bytes) (hlow : h % 256 = op) (hop : op < 0x71) :
    let b := prefixBytes f ++ (leBytes 4 h ++ rest)
    prefixLen b = (prefixBytes f).length ∧ (if prefixLen b = 2 then u16 b 0 else 0) = prefixWord f := by
  have hlt := prefixByte_lt f
  by_cases hp : hasPrefix f
  · have hge : 192 ≤ prefixByte f := by simp [prefixByte]; omega
    have hu8 : u8 (leBytes 2 (prefixByte f) ++ (leBytes 4 h ++ rest)) 0 = prefixByte f := by
      rw [u8_of_leBytes]; omega
    have hu16 : u16 (leBytes 2 (prefixByte f) ++ (leBytes 4 h ++ rest)) 0 = prefixByte f := by
      rw [u16, slice_append_left _ (by simp), List.take_of_length_le (by simp), leNat_leBytes]; omega
    have hlen : prefixByte f / 64 = 3 := by omega
    simp [prefixBytes, prefixWord, hp, prefixLen, hu8, hu16, hlen]
  · have hu8 : u8 (leBytes 4 h ++ rest) 0 = op := by rw [u8_of_leBytes, hlow]
    have hlen : op / 64 ≠ 3 := by omega
    simp [prefixBytes, prefixWord, hp, prefixLen, hu8, hlen]

theorem head_found (pre rest : Bytes) (h : Nat) : u32 (pre ++ (leBytes 4 h ++ rest)) pre.length = h % 2 ^ 32 := by
  have hs := slice_append_right pre (leBytes 4 h ++ rest) 0 4
  rw [Nat.add_zero] at hs
  rw [u32, hs, slice_append_left _ (by simp), List.take_of_length_le (by simp), leNat_leBytes]
  norm_num

theorem imm_found (pre imm rest : Bytes) (h : Nat) :
    slice (pre ++ (leBytes 4 h ++ (imm ++ rest))) (pre.length + 4) imm.length = imm := by
  have h4 : (leBytes 4 h).length = 4 := length_leBytes 4 h
  rw [slice_append_right]
  have hs := slice_append_right (leBytes 4 h) (imm ++ rest) 0 imm.length
  rw [Nat.add_zero, h4] at hs
  rw [hs, slice_append_left _ le_rfl, List.take_length]

/-! ## The head word -/

/-- The fields of a head word stand side by side below bit 26. -/
structure HeadBits (op h : Nat) (f : BxFields) : Prop where
  low : h % 256 = op
  rd : bits h 8 5 = f.rd
  rs1 : bits h 13 5 = f.rs1
  rs2 : bits h 18 5 = f.rs2
  i : bits h 23 1 = b1 f.i
  isize : bits h 24 2 = f.isize
  top : h / 2 ^ 26 = 0

theorem headWord_bits {op : Nat} {f : BxFields} (hop : op < 0x71) (h1 : f.rd < 32) (h2 : f.rs1 < 32) (h3 : f.rs2 < 32) (h4 : f.isize < 4) :
    HeadBits op (headWord op f) f := by
  have hi := b1_le f.i
  constructor <;> simp only [headWord, bits] <;> omega

/-- A head word is the sum of its fields. -/
theorem headWord_of_bits {op h : Nat} {f : BxFields} (H : HeadBits op h f) : headWord op f = h := by
  obtain ⟨h1, h2, h3, h4, h5, h6, h7⟩ := H
  simp only [headWord, ← h1, ← h2, ← h3, ← h4, ← h5, ← h6, bits]
  omega

/-! ## The immediate (R378) -/

/-- Code and presence of the immediate agree with the fields. -/
theorem isize_lt_of_fits {z : Nat} {imm : W64} (h : immFits z imm = true) : z < 3 := by
  unfold immFits at h
  split at h
  · decide
  · decide
  · decide
  · exact absurd h Bool.false_ne_true

theorem readImm_leBytes {z : Nat} {imm : W64} (h : immFits z imm = true) : readImm z (leBytes (2 * 2 ^ z) imm.toNat) = imm := by
  have hz := isize_lt_of_fits h
  interval_cases z
  · have hv : BitVec.ofNat 16 (leNat (leBytes 2 imm.toNat)) = imm.setWidth 16 := by
      apply BitVec.eq_of_toNat_eq
      simp [leNat_leBytes]
    simpa [readImm, immFits, hv] using h
  · have hv : BitVec.ofNat 32 (leNat (leBytes 4 imm.toNat)) = imm.setWidth 32 := by
      apply BitVec.eq_of_toNat_eq
      simp [leNat_leBytes]
    simpa [readImm, immFits, hv] using h
  · apply BitVec.eq_of_toNat_eq
    have hlt := imm.isLt
    simp [readImm, leNat_leBytes]
    omega

theorem setWidth_signExtend {n : Nat} (x : BitVec n) (h : n ≤ 64) : (x.signExtend 64).setWidth n = x := by
  ext i hi
  have h64 : i < 64 := by omega
  rw [BitVec.getElem_setWidth, BitVec.getLsbD_eq_getElem h64, BitVec.getElem_signExtend, dif_pos hi]

theorem immFits_readImm {z : Nat} (b : Bytes) (hz : z < 3) : immFits z (readImm z b) = true := by
  interval_cases z <;> simp [immFits, readImm, setWidth_signExtend]

theorem leBytes_mod (n v : Nat) : leBytes n (v % 256 ^ n) = leBytes n v := by
  have h := leBytes_leNat (leBytes n v)
  rwa [length_leBytes, leNat_leBytes] at h

/-- The immediate read from bytes of its own length is written back as these bytes. -/
theorem leBytes_readImm {z : Nat} {b : Bytes} (hz : z < 3) (hb : b.length = 2 * 2 ^ z) : leBytes (2 * 2 ^ z) (readImm z b).toNat = b := by
  have hsame : (readImm z b).toNat % 256 ^ b.length = leNat b := by
    have hlt := leNat_lt b
    rw [hb] at hlt ⊢
    interval_cases z
    · have h := congrArg BitVec.toNat (setWidth_signExtend (BitVec.ofNat 16 (leNat b)) (by omega))
      simp only [BitVec.toNat_setWidth, BitVec.toNat_ofNat] at h
      norm_num at h hlt ⊢
      simpa [readImm, Nat.mod_eq_of_lt hlt] using h
    · have h := congrArg BitVec.toNat (setWidth_signExtend (BitVec.ofNat 32 (leNat b)) (by omega))
      simp only [BitVec.toNat_setWidth, BitVec.toNat_ofNat] at h
      norm_num at h hlt ⊢
      simpa [readImm, Nat.mod_eq_of_lt hlt] using h
    · norm_num at hlt ⊢
      simpa [readImm] using hlt
  rw [← hb, ← leBytes_mod, hsame, leBytes_leNat]

/-! ## Decoding what was encoded -/

theorem testBit_prefixWord (f : BxFields) :
    (prefixWord f).testBit 0 = f.chk ∧ (prefixWord f).testBit 1 = f.w32 ∧ (prefixWord f).testBit 2 = f.vec := by
  unfold prefixWord hasPrefix prefixByte
  cases f.chk <;> cases f.w32 <;> cases f.vec <;> decide

theorem prefixOk_prefixByte {f : BxFields} (h : hasPrefix f = true) : prefixOk (prefixByte f) = true := by
  revert h
  unfold hasPrefix prefixByte
  cases f.chk <;> cases f.w32 <;> cases f.vec <;> decide

/-- The bytes of the immediate that the decoder reads for a head word are those the encoder writes. -/
theorem immLen_of_fits {f : BxFields} (h : f.i = true → f.isize < 3) : (if b1 f.i = 1 then 2 * 2 ^ f.isize else 0) = immLen f := by
  cases hi : f.i with
  | false => simp [immLen, hi, b1]
  | true => simp [immLen, hi, b1, h hi]

/-- What `fieldsOk` says of each field. -/
theorem fieldsOk_iff {f : BxFields} : fieldsOk f = true ↔ f.rd < 32 ∧ f.rs1 < 32 ∧ f.rs2 < 32 ∧
    (f.i = true → f.rs2 = 0 ∧ immFits f.isize f.imm = true) ∧ (f.i = false → f.isize = 0 ∧ f.imm = 0#64) := by
  cases hi : f.i <;> simp [fieldsOk, hi, and_assoc]

theorem headFields_eq {op : Nat} {f : BxFields} (hbits : HeadBits op (headWord op f) f) (hf : fieldsOk f = true) :
    headFields (prefixWord f) (headWord op f) (leBytes (immLen f) f.imm.toNat) = f := by
  obtain ⟨hchk, hw32, hvec⟩ := testBit_prefixWord f
  obtain ⟨-, -, -, himm, hnone⟩ := fieldsOk_iff.mp hf
  obtain ⟨-, hrd, hrs1, hrs2, hi, hisize, -⟩ := hbits
  have hib : (b1 f.i == 1) = f.i := by cases f.i <;> rfl
  have hval : (if f.i = true then readImm f.isize (leBytes (immLen f) f.imm.toNat) else 0#64) = f.imm := by
    split
    next h1 =>
      obtain ⟨-, hfits⟩ := himm h1
      have hz := isize_lt_of_fits hfits
      simpa [immLen, h1, hz] using readImm_leBytes hfits
    next h0 => exact (hnone (by simpa using h0)).2.symm
  simp only [headFields, hchk, hw32, hvec, hrd, hrs1, hrs2, hi, hisize, hib, hval]

/-- Settles O42: each piece of an encoding is found where the encoder put it. -/
theorem benxisDecodeOfEncode : Obligations.BenxisDecodeOfEncode := by
  intro op f rest hlegal hf
  have hop := op_lt_of_legal hlegal
  obtain ⟨h1, h2, h3, himm, hnone⟩ := fieldsOk_iff.mp hf
  have hisize : f.i = true → f.isize < 3 := fun h => isize_lt_of_fits (himm h).2
  have h4 : f.isize < 4 := by
    cases hi : f.i with
    | false => simp [(hnone hi).1]
    | true => have := hisize hi; omega
  have hbits := headWord_bits hop h1 h2 h3 h4
  have hlow := hbits.low
  have htop := hbits.top
  obtain ⟨hlen, hword⟩ := parcel_found (h := headWord op f) f (leBytes (immLen f) f.imm.toNat ++ rest) hlow hop
  have hhead := head_found (prefixBytes f) (leBytes (immLen f) f.imm.toNat ++ rest) (headWord op f)
  rw [Nat.mod_eq_of_lt (by omega)] at hhead
  have himmBytes := imm_found (prefixBytes f) (leBytes (immLen f) f.imm.toNat) rest (headWord op f)
  rw [length_leBytes] at himmBytes
  have hok : ((decide ((prefixBytes f).length = 0) || prefixOk (prefixWord f))) = true := by
    by_cases hp : hasPrefix f = true
    · simp [prefixWord, hp, prefixOk_prefixByte hp]
    · simp [prefixBytes, hp]
  have hassoc : bxEncode op f ++ rest = prefixBytes f ++ (leBytes 4 (headWord op f) ++ (leBytes (immLen f) f.imm.toNat ++ rest)) := by
    simp [bxEncode_eq]
  rw [hassoc, bxDecode, hword, hlen, hhead, hbits.i, hbits.isize, immLen_of_fits hisize, himmBytes, headFields_eq hbits hf, hlow]
  rw [if_pos (by rw [hok, htop, hlegal]; rfl)]
  simp [bxEncode_eq, Nat.add_assoc]

/-! ## Encoding what was decoded -/

theorem eq_of_prefixOk {p : Nat} (h : prefixOk p = true) : 192 < p ∧ p < 200 := by
  simp only [prefixOk, Bool.and_eq_true, beq_iff_eq, bne_iff_ne] at h
  omega

/-- A parcel that the decoder takes is the one its flags spell. -/
theorem prefixBytes_headFields {p h : Nat} {b imm : Bytes} (hp : prefixOk p = true) (hb : b.length = 2) (hval : leNat b = p) :
    prefixBytes (headFields p h imm) = b := by
  have hspell : hasPrefix (headFields p h imm) = true ∧ prefixByte (headFields p h imm) = p := by
    obtain ⟨hlow, hhigh⟩ := eq_of_prefixOk hp
    interval_cases p <;> exact ⟨rfl, rfl⟩
  obtain ⟨hhas, hbyte⟩ := hspell
  rw [prefixBytes, if_pos hhas, hbyte, ← hval, ← hb, leBytes_leNat]

theorem prefixBytes_headFields_none (h : Nat) (imm : Bytes) : prefixBytes (headFields 0 h imm) = [] := by
  simp [prefixBytes, hasPrefix, headFields]

theorem headBits_headFields (p : Nat) {h : Nat} (imm : Bytes) (htop : h / 2 ^ 26 = 0) : HeadBits (h % 256) h (headFields p h imm) where
  low := rfl
  rd := rfl
  rs1 := rfl
  rs2 := rfl
  i := by
    have hbit : bits h 23 1 < 2 := Nat.mod_lt _ (by omega)
    simp only [headFields]
    interval_cases bits h 23 1 <;> rfl
  isize := rfl
  top := htop

/-- What a legal immediate control says (R378). -/
theorem immOk_of_legal {op : Nat} {f : BxFields} (h : bxLegal op f = true) :
    (f.i = true → f.rs2 = 0 ∧ f.isize < 3) ∧ (f.i = false → f.isize = 0 ∧ f.imm = 0#64) := by
  unfold bxLegal at h
  split at h
  next => simp at h
  next x hx =>
    simp only [Bool.and_eq_true] at h
    obtain ⟨⟨⟨⟨⟨⟨-, himm⟩, -⟩, -⟩, -⟩, -⟩, -⟩ := h
    cases hi : f.i <;> simp [immOk, hi] at himm ⊢ <;> tauto

/-- The bytes of an instruction: the parcel, the head word, the immediate. -/
theorem take_eq_pieces (b : Bytes) (k n : Nat) : b.take (k + 4 + n) = b.take k ++ (slice b k 4 ++ slice b (k + 4) n) := by
  simp [slice, List.take_add, List.append_assoc]

/-- What an answer of the decoder says of the bytes. -/
theorem bxDecode_some {b : Bytes} {op len : Nat} {f : BxFields} (h : bxDecode b = some (op, f, len)) :
    let k := prefixLen b
    let p := if k = 2 then u16 b 0 else 0
    let w := u32 b k
    (k = 0 ∨ prefixOk p = true) ∧ w / 2 ^ 26 = 0 ∧ bxLegal op f = true ∧ op = w % 256 ∧ len = k + 4 + immLen f ∧
      f = headFields p w (slice b (k + 4) (if bits w 23 1 = 1 then 2 * 2 ^ bits w 24 2 else 0)) := by
  simp only [bxDecode, Option.ite_none_right_eq_some, Option.some.injEq, Prod.mk.injEq] at h
  obtain ⟨hok, rfl, rfl, rfl⟩ := h
  simp only [Bool.and_eq_true, Bool.or_eq_true, decide_eq_true_eq, beq_iff_eq] at hok
  obtain ⟨⟨hpre, htop⟩, hlegal⟩ := hok
  exact ⟨hpre, htop, hlegal, rfl, rfl, rfl⟩

/-- The immediate that was read is written back. -/
theorem leBytes_imm {f : BxFields} {b : Bytes} (hlen : b.length = immLen f) (hi : f.i = true → f.isize < 3 ∧ f.imm = readImm f.isize b) :
    leBytes (immLen f) f.imm.toNat = b := by
  cases hcase : f.i with
  | false =>
    have h0 : immLen f = 0 := by simp [immLen, hcase]
    rw [h0] at hlen ⊢
    simpa [leBytes] using (List.eq_nil_of_length_eq_zero hlen).symm
  | true =>
    obtain ⟨hz, hread⟩ := hi hcase
    have hn : immLen f = 2 * 2 ^ f.isize := by simp [immLen, hcase, hz]
    rw [hn] at hlen ⊢
    rw [hread, leBytes_readImm hz hlen]

/-- Settles O43: each piece of the bytes is what the encoder writes for the fields read from it. -/
theorem benxisEncodeOfDecode : Obligations.BenxisEncodeOfDecode := by
  intro b op f len hdec hlen
  obtain ⟨hpre, htop, hlegal, hop, hsum, hf⟩ := bxDecode_some hdec
  have hk : prefixLen b = 0 ∨ prefixLen b = 2 := by unfold prefixLen; split <;> simp
  generalize prefixLen b = k at *
  generalize hp : (if k = 2 then u16 b 0 else 0) = p at *
  generalize hw : u32 b k = w at *
  have hbits : HeadBits op w f := by
    rw [hop, hf]
    exact headBits_headFields p _ htop
  obtain ⟨himm, hnoimm⟩ := immOk_of_legal hlegal
  have hread : slice b (k + 4) (if bits w 23 1 = 1 then 2 * 2 ^ bits w 24 2 else 0) = slice b (k + 4) (immLen f) := by
    rw [hbits.i, hbits.isize, immLen_of_fits fun h => (himm h).2]
  rw [hread] at hf
  have hval : f.i = true → f.imm = readImm f.isize (slice b (k + 4) (immLen f)) := fun h => by
    have hi := hbits.i
    simp only [h, b1, if_true] at hi
    have hval := congrArg BxFields.imm hf
    simp only [headFields, hi, hbits.isize] at hval
    simpa using hval
  refine ⟨hlegal, ?_, ?_⟩
  · refine fieldsOk_iff.mpr ⟨?_, ?_, ?_, fun h => ⟨(himm h).1, ?_⟩, hnoimm⟩
    · exact hbits.rd ▸ Nat.mod_lt _ (by omega)
    · exact hbits.rs1 ▸ Nat.mod_lt _ (by omega)
    · exact hbits.rs2 ▸ Nat.mod_lt _ (by omega)
    · exact hval h ▸ immFits_readImm _ (himm h).2
  · rw [bxEncode_eq, hsum, take_eq_pieces]
    congr 1
    · rcases hk with rfl | rfl
      · rw [← hp] at hf
        rw [hf]
        simpa using prefixBytes_headFields_none ..
      · rw [hf]
        refine prefixBytes_headFields (hpre.resolve_left (by omega)) (by simp; omega) ?_
        simpa [u16, slice] using hp
    · congr 1
      · have hl : (slice b k 4).length = 4 := by simp [slice]; omega
        have hb := leBytes_leNat (slice b k 4)
        rw [headWord_of_bits hbits, ← hw, u32]
        rwa [hl] at hb
      · refine leBytes_imm (by simp [slice]; omega) fun h => ⟨(himm h).2, hval h⟩

end Sys2Proof.BxEncoding
end

section
/-! PROOF. Every command answers a next state within its frame (O2): the frames of the single commands, put together. -/

namespace Sys2Proof.Frames

open Sys2Proof Sys2Proof.Machine Sys2Proof.Claims

theorem exec_answers (c : Instr) (s : State) : ∃ t, exec c s = .next t := by
  cases c <;> exact ⟨_, rfl⟩

/-- Each command writes within its frame. -/
theorem exec_only (c : Instr) (s : State) : Only (frameOf c) s (after s (exec c s)) := by
  cases c with
  | coldReset cause vddmKept => exact execColdReset_only cause vddmKept s
  | porstNRise => exact execPorstNRise_only ..
  | bootReserveRecheck => exact execBootReserveRecheck_only ..
  | bootPowerFailWaitEnd => exact execBootPowerFailWaitEnd_only ..
  | powerFailFlush => exact execPowerFailFlush_only ..
  | flushComplete => exact execFlushComplete_only ..
  | powerFailRise => exact execPowerFailRise_only ..
  | xtal25Loss => exact execXtal25Loss_only ..
  | xtal25Restore => exact execXtal25Restore_only ..
  | syReset => exact execSyReset_only ..
  | warmReset => exact execWarmReset_only ..
  | syPaddockReset => exact execSyPaddockReset_only ..
  | hostInterfaceReset => exact execHostInterfaceReset_only ..
  | configRequest => exact execConfigRequest_only ..
  | functionLevelReset => exact execFunctionLevelReset_only ..
  | vfEnableClear => exact execVfEnableClear_only ..
  | vfEnable => exact execVfEnable_only ..
  | busMasterEnableSet => exact execBusMasterEnableSet_only ..
  | d3hotEntry => exact execD3hotEntry_only ..
  | d0Return => exact execD0Return_only ..
  | msixEnableSet => exact execMsixEnableSet_only ..
  | vectorUnmask => exact execVectorUnmask_only ..
  | hiVecModWrite => exact execHiVecModWrite_only ..
  | vectorTimerExpiry => exact execVectorTimerExpiry_only ..
  | wakeCountExpiry => exact execWakeCountExpiry_only ..
  | aspmL1Entry => exact execAspmL1Entry_only ..
  | refclkLoss => exact execRefclkLoss_only ..
  | linkReturn => exact execLinkReturn_only ..
  | poisonedWrite => exact execPoisonedWrite_only ..
  | barAccessInvalid => exact execBarAccessInvalid_only ..
  | bar4WindowAccess => exact execBar4WindowAccess_only ..
  | feedWindowWrite => exact execFeedWindowWrite_only ..
  | multiwordRead => exact execMultiwordRead_only ..
  | registerWrite => exact execRegisterWrite_only ..
  | doorbellWrite => exact execDoorbellWrite_only ..
  | descriptorFetchDone => exact execDescriptorFetchDone_only ..
  | hostReadFail => exact execHostReadFail_only ..
  | gateEvaluate => exact execGateEvaluate_only ..
  | deferredReevaluate => exact execDeferredReevaluate_only ..
  | gateAccept => exact execGateAccept_only ..
  | refillCommit => exact execRefillCommit_only ..
  | captureGenDraw => exact execCaptureGenDraw_only ..
  | dispatch => exact execDispatch_only ..
  | lowPrioPromote => exact execLowPrioPromote_only ..
  | poolPreferenceExpiry => exact execPoolPreferenceExpiry_only ..
  | pkeYieldRequest => exact execPkeYieldRequest_only ..
  | digestYieldRequest => exact execDigestYieldRequest_only ..
  | mceYieldRequest => exact execMceYieldRequest_only ..
  | stallSafePoint => exact execStallSafePoint_only ..
  | completionWrite => exact execCompletionWrite_only ..
  | recordRetire => exact execRecordRetire_only ..
  | qEnable => exact execQEnable_only ..
  | qDisable => exact execQDisable_only ..
  | qContinue => exact execQContinue_only ..
  | qResume => exact execQResume_only ..
  | qForget => exact execQForget_only ..
  | queueDrainComplete => exact execQueueDrainComplete_only ..
  | pendingEnableSwitch => exact execPendingEnableSwitch_only ..
  | haltLogRead => exact execHaltLogRead_only ..
  | energySample => exact execEnergySample_only ..
  | enCapWrite => exact execEnCapWrite_only ..
  | i3cCapSet => exact execI3cCapSet_only ..
  | i3cIdentityRead => exact execI3cIdentityRead_only ..
  | holdupAdcConversion => exact execHoldupAdcConversion_only ..
  | adcCalibrate => exact execAdcCalibrate_only ..
  | reserveLowClear => exact execReserveLowClear_only ..
  | shedWakeGrant => exact execShedWakeGrant_only ..
  | shedWakeDone => exact execShedWakeDone_only ..
  | shedIdleTimeout => exact execShedIdleTimeout_only ..
  | shedSleepDone => exact execShedSleepDone_only ..
  | deepSleepEntry => exact execDeepSleepEntry_only ..
  | deepSleepExit => exact execDeepSleepExit_only ..
  | timeBaseSave => exact execTimeBaseSave_only ..
  | journalScrub => exact execJournalScrub_only ..
  | loadPartial => exact execLoadPartial_only ..
  | partialSwitch => exact execPartialSwitch_only ..
  | partialDrainTimeout => exact execPartialDrainTimeout_only ..
  | storeImage => exact execStoreImage_only ..
  | plApply => exact execPlApply_only ..
  | plApplyDrained => exact execPlApplyDrained_only ..
  | plApplyDrainTimeout => exact execPlApplyDrainTimeout_only ..
  | abortSwap => exact execAbortSwap_only ..
  | lcTransition => exact execLcTransition_only ..
  | lcDrained => exact execLcDrained_only ..
  | lcDrainTimeout => exact execLcDrainTimeout_only ..
  | ledgerProgramDone => exact execLedgerProgramDone_only ..
  | lcComplete => exact execLcComplete_only ..
  | genIdentity => exact execGenIdentity_only ..
  | storeCerts => exact execStoreCerts_only ..
  | i3cTokenMailbox => exact execI3cTokenMailbox_only ..
  | certDataRead => exact execCertDataRead_only ..
  | lcCertSelWrite => exact execLcCertSelWrite_only ..
  | dbgToken => exact execDbgToken_only ..
  | debugClose => exact execDebugClose_only ..
  | jnShutdown => exact execJnShutdown_only ..
  | shutdownFlush => exact execShutdownFlush_only ..
  | twinWaitTimeout boot => exact execTwinWaitTimeout_only boot s
  | twinPartnerPresent => exact execTwinPartnerPresent_only ..
  | twinPartnerFailed => exact execTwinPartnerFailed_only ..
  | twinLanesLost => exact execTwinLanesLost_only ..
  | tetherFrameReceive => exact execTetherFrameReceive_only ..
  | tetherRetransmitTimeout => exact execTetherRetransmitTimeout_only ..
  | tetherLaneFail => exact execTetherLaneFail_only ..
  | heartbeatToggle => exact execHeartbeatToggle_only ..
  | faultReport => exact execFaultReport_only ..
  | bucketLeak => exact execBucketLeak_only ..
  | escalationExpiry => exact execEscalationExpiry_only ..
  | fcAck => exact execFcAck_only ..
  | fcClear => exact execFcClear_only ..
  | faultLogRead => exact execFaultLogRead_only ..
  | faultLogAppend => exact execFaultLogAppend_only ..
  | farrierClaim => exact execFarrierClaim_only ..
  | selftestDone => exact execSelftestDone_only ..
  | muckoutDone => exact execMuckoutDone_only ..
  | ucodeReloadDone => exact execUcodeReloadDone_only ..
  | nextTreeReady => exact execNextTreeReady_only ..
  | blobLoadDone => exact execBlobLoadDone_only ..
  | tkRestore => exact execTkRestore_only ..
  | stickyRestore => exact execStickyRestore_only ..
  | remaskPass => exact execRemaskPass_only ..
  | stallSourceReseed => exact execStallSourceReseed_only ..
  | rngHealthFail => exact execRngHealthFail_only ..
  | rngStartupDone => exact execRngStartupDone_only ..
  | rngStartupRetry => exact execRngStartupRetry_only ..
  | rngRetest => exact execRngRetest_only ..
  | rngBlockRelease => exact execRngBlockRelease_only ..
  | drbgReseed => exact execDrbgReseed_only ..
  | rngRestart => exact execRngRestart_only ..
  | rawEnter => exact execRawEnter_only ..
  | rawExit => exact execRawExit_only ..
  | rnWordRead => exact execRnWordRead_only ..
  | rnRawDataRead => exact execRnRawDataRead_only ..
  | tamperTrip => exact execTamperTrip_only ..
  | tamperTripAtBoot => exact execTamperTripAtBoot_only ..
  | tamperTripDeepSleep => exact execTamperTripDeepSleep_only ..
  | tamperClear => exact execTamperClear_only ..
  | dgCmpGo => exact execDgCmpGo_only ..
  | dgCmpDone => exact execDgCmpDone_only ..
  | dgCmpReset => exact execDgCmpReset_only ..
  | mrExtendWrite => exact execMrExtendWrite_only ..
  | nandReadDone => exact execNandReadDone_only ..
  | nandStatusFail => exact execNandStatusFail_only ..
  | nandTargetTimeout => exact execNandTargetTimeout_only ..
  | hayloftRebuild => exact execHayloftRebuild_only ..
  | objectWriteCommit => exact execObjectWriteCommit_only ..
  | hayloftScrub => exact execHayloftScrub_only ..
  | staticWearLevel => exact execStaticWearLevel_only ..
  | diagLogFlush => exact execDiagLogFlush_only ..
  | hlFormat => exact execHlFormat_only ..
  | hlLogDataRead => exact execHlLogDataRead_only ..
  | linkTestStart => exact execLinkTestStart_only ..
  | linkTestStop => exact execLinkTestStop_only ..
  | linkTestInject => exact execLinkTestInject_only ..
  | linkTestEnd link cause => exact execLinkTestEnd_only link cause s
  | tapExtest => exact execTapExtest_only ..
  | tapClamp => exact execTapClamp_only ..
  | tapHighz => exact execTapHighz_only ..
  | tapMbist => exact execTapMbist_only ..
  | tapIdcode => exact execTapIdcode_only ..
  | tapSamplePreload => exact execTapSamplePreload_only ..
  | tapBypass => exact execTapBypass_only ..
  | bxBoot => exact execBxBoot_only ..
  | coreLoad => exact execCoreLoad_only ..
  | coreStop => exact execCoreStop_only ..
  | coreLoadDone => exact execCoreLoadDone_only ..
  | feedDrop => exact execFeedDrop_only ..
  | vectorUnitPowerDown => exact execVectorUnitPowerDown_only ..
  | bxNop => exact execBxNop_only ..
  | bxStop => exact execBxStop_only ..
  | bxTrap => exact execBxTrap_only ..
  | bxRtt => exact execBxRtt_only ..
  | bxFence => exact execBxFence_only ..
  | bxAdd => exact execBxAdd_only ..
  | bxSub => exact execBxSub_only ..
  | bxNeg => exact execBxNeg_only ..
  | bxAnd => exact execBxAnd_only ..
  | bxOr => exact execBxOr_only ..
  | bxXor => exact execBxXor_only ..
  | bxAndn => exact execBxAndn_only ..
  | bxNot => exact execBxNot_only ..
  | bxShl => exact execBxShl_only ..
  | bxShr => exact execBxShr_only ..
  | bxSar => exact execBxSar_only ..
  | bxRol => exact execBxRol_only ..
  | bxRor => exact execBxRor_only ..
  | bxClz => exact execBxClz_only ..
  | bxCtz => exact execBxCtz_only ..
  | bxPopc => exact execBxPopc_only ..
  | bxCmp => exact execBxCmp_only ..
  | bxCteq => exact execBxCteq_only ..
  | bxCtlt => exact execBxCtlt_only ..
  | bxCsel => exact execBxCsel_only ..
  | bxLd8 => exact execBxLd8_only ..
  | bxLd4 => exact execBxLd4_only ..
  | bxLd4s => exact execBxLd4s_only ..
  | bxLd2 => exact execBxLd2_only ..
  | bxLd2s => exact execBxLd2s_only ..
  | bxLd1 => exact execBxLd1_only ..
  | bxLd1s => exact execBxLd1s_only ..
  | bxLea => exact execBxLea_only ..
  | bxSt8 => exact execBxSt8_only ..
  | bxSt4 => exact execBxSt4_only ..
  | bxSt2 => exact execBxSt2_only ..
  | bxSt1 => exact execBxSt1_only ..
  | bxPush => exact execBxPush_only ..
  | bxPop => exact execBxPop_only ..
  | bxDsadj => exact execBxDsadj_only ..
  | bxB => exact execBxB_only ..
  | bxBeq => exact execBxBeq_only ..
  | bxBne => exact execBxBne_only ..
  | bxBlt => exact execBxBlt_only ..
  | bxBge => exact execBxBge_only ..
  | bxBlo => exact execBxBlo_only ..
  | bxBhs => exact execBxBhs_only ..
  | bxBov => exact execBxBov_only ..
  | bxBdz => exact execBxBdz_only ..
  | bxCall => exact execBxCall_only ..
  | bxCallr => exact execBxCallr_only ..
  | bxJr => exact execBxJr_only ..
  | bxRet => exact execBxRet_only ..
  | bxLeac => exact execBxLeac_only ..
  | bxMov => exact execBxMov_only ..
  | bxLi => exact execBxLi_only ..
  | bxLin => exact execBxLin_only ..
  | bxLib => exact execBxLib_only ..
  | bxMfs => exact execBxMfs_only ..
  | bxMts => exact execBxMts_only ..
  | bxMul => exact execBxMul_only ..
  | bxMulu => exact execBxMulu_only ..
  | bxDiv => exact execBxDiv_only ..
  | bxDivu => exact execBxDivu_only ..
  | bxTagof => exact execBxTagof_only ..
  | bxAsint => exact execBxAsint_only ..
  | bxAsnat => exact execBxAsnat_only ..
  | bxAsbytes => exact execBxAsbytes_only ..
  | bxMkptr => exact execBxMkptr_only ..
  | bxMkhandle => exact execBxMkhandle_only ..
  | bxClass => exact execBxClass_only ..
  | bxDeclass => exact execBxDeclass_only ..
  | bxPoison => exact execBxPoison_only ..
  | bxRdtime => exact execBxRdtime_only ..
  | bxQopen => exact execBxQopen_only ..
  | bxQclose => exact execBxQclose_only ..
  | bxQctl => exact execBxQctl_only ..
  | bxJsub => exact execBxJsub_only ..
  | bxJcpl => exact execBxJcpl_only ..
  | bxJstat => exact execBxJstat_only ..
  | bxWait => exact execBxWait_only ..
  | waitEnd => exact execWaitEnd_only ..
  | bxFput => exact execBxFput_only ..
  | bxFstat => exact execBxFstat_only ..
  | bxFdrop => exact execBxFdrop_only ..
  | bxWopen => exact execBxWopen_only ..
  | bxWclose => exact execBxWclose_only ..
  | bxCstart => exact execBxCstart_only ..
  | bxCstop => exact execBxCstop_only ..
  | bxRand => exact execBxRand_only ..
  | bxMext => exact execBxMext_only ..
  | opNop => exact execOpNop_only ..
  | opAttestQuote => exact execOpAttestQuote_only ..
  | opMlkemKeygen => exact execOpMlkemKeygen_only ..
  | opMlkemEncaps => exact execOpMlkemEncaps_only ..
  | opMlkemDecaps => exact execOpMlkemDecaps_only ..
  | opMldsaKeygen => exact execOpMldsaKeygen_only ..
  | opMldsaSign => exact execOpMldsaSign_only ..
  | opMldsaVerify => exact execOpMldsaVerify_only ..
  | opSlhdsaKeygen => exact execOpSlhdsaKeygen_only ..
  | opSlhdsaSign => exact execOpSlhdsaSign_only ..
  | opSlhdsaVerify => exact execOpSlhdsaVerify_only ..
  | opLmsKeygen => exact execOpLmsKeygen_only ..
  | opLmsSign => exact execOpLmsSign_only ..
  | opLmsVerify => exact execOpLmsVerify_only ..
  | opXmssKeygen => exact execOpXmssKeygen_only ..
  | opXmssSign => exact execOpXmssSign_only ..
  | opXmssVerify => exact execOpXmssVerify_only ..
  | opHbsQuery => exact execOpHbsQuery_only ..
  | opMceKeygen => exact execOpMceKeygen_only ..
  | opMceEncaps => exact execOpMceEncaps_only ..
  | opMceDecaps => exact execOpMceDecaps_only ..
  | opHqcKeygen => exact execOpHqcKeygen_only ..
  | opHqcEncaps => exact execOpHqcEncaps_only ..
  | opHqcDecaps => exact execOpHqcDecaps_only ..
  | opPkcLoad => exact execOpPkcLoad_only ..
  | opPkcEvict => exact execOpPkcEvict_only ..
  | opRsaKeygen => exact execOpRsaKeygen_only ..
  | opRsaSign => exact execOpRsaSign_only ..
  | opRsaVerify => exact execOpRsaVerify_only ..
  | opRsaEncrypt => exact execOpRsaEncrypt_only ..
  | opRsaDecrypt => exact execOpRsaDecrypt_only ..
  | opEcdsaKeygen => exact execOpEcdsaKeygen_only ..
  | opEcdsaSign => exact execOpEcdsaSign_only ..
  | opEcdsaVerify => exact execOpEcdsaVerify_only ..
  | opEcdhKeygen => exact execOpEcdhKeygen_only ..
  | opEcdhDerive => exact execOpEcdhDerive_only ..
  | opEcdhEphemeral => exact execOpEcdhEphemeral_only ..
  | opEddsaKeygen => exact execOpEddsaKeygen_only ..
  | opEddsaSign => exact execOpEddsaSign_only ..
  | opEddsaVerify => exact execOpEddsaVerify_only ..
  | opXdhKeygen => exact execOpXdhKeygen_only ..
  | opXdhDerive => exact execOpXdhDerive_only ..
  | opXdhEphemeral => exact execOpXdhEphemeral_only ..
  | opDigest => exact execOpDigest_only ..
  | opHmac => exact execOpHmac_only ..
  | opHmacVerify => exact execOpHmacVerify_only ..
  | opKmac => exact execOpKmac_only ..
  | opKmacVerify => exact execOpKmacVerify_only ..
  | opCrc => exact execOpCrc_only ..
  | opKeyGenerate => exact execOpKeyGenerate_only ..
  | opKeyImport => exact execOpKeyImport_only ..
  | opKeyUnwrap => exact execOpKeyUnwrap_only ..
  | opKeyDerive => exact execOpKeyDerive_only ..
  | opKeyExport => exact execOpKeyExport_only ..
  | opBlobRegister => exact execOpBlobRegister_only ..
  | opKeyRestrict => exact execOpKeyRestrict_only ..
  | opKeyRevoke => exact execOpKeyRevoke_only ..
  | vddAonPowerOn => exact execVddAonPowerOn_only ..
  | perstNDeassert => exact execPerstNDeassert_only ..
  | pllRelock => exact execPllRelock_only ..
  | overtempEnd => exact execOvertempEnd_only ..
  | tamperConditionEnd => exact execTamperConditionEnd_only ..
  | checkerLock => exact execCheckerLock_only ..
  | checkerLockLost => exact execCheckerLockLost_only ..
  | debugHalt => exact execDebugHalt_only ..
  | debugResume => exact execDebugResume_only ..
  | unitResultLand => exact execUnitResultLand_only ..

/-- No frame names the queue of commands. -/
theorem pending_not_mem_frameOf (c : Instr) : Part.pending ∉ frameOf c := by
  cases c <;> dsimp only [frameOf] <;> decide +kernel

theorem exec_pending {c : Instr} {s t : State} (h : exec c s = .next t) : t.pending = s.pending := by
  have hframe := exec_only c s
  rw [h] at hframe
  exact hframe.same .pending (pending_not_mem_frameOf c)

/-- Settles O2: each command's own frame, which never holds the queue. -/
theorem commandsKeepTheirFrames : Obligations.CommandsKeepTheirFrames := by
  intro c s
  obtain ⟨t, ht⟩ := exec_answers c s
  have hframe := exec_only c s
  rw [ht] at hframe
  exact ⟨t, ht, exec_pending ht, hframe⟩

end Sys2Proof.Frames
end

section
/-! SUPPORT. What a sound part carries through each operation: soundness, and rollback floors that never fall (R110). -/

set_option Elab.async false

namespace Sys2Proof.Floors

open Sys2Proof Sys2Proof.Machine Sys2Proof.Claims

/-! ## The registers that soundness and the floors read -/

/-- The values that `Sound` and `floorOf` read. -/
structure Vital where
  latched : Bool
  alarm : Nat
  response : Nat
  bootState : Nat
  faultLog : List (Nat × Nat × Nat)
  auditLog : List (Nat × Nat × Nat)
  rootPresent : Bool
  deviceRoot : Bytes
  floorRecs : SMap (Option FloorRec)

def vital (s : State) : Vital :=
  { latched := s.tp.latched, alarm := s.tp.alarm, response := s.tp.response, bootState := s.sys.bootState, faultLog := s.hl.faultLog,
    auditLog := s.hl.auditLog, rootPresent := s.lc.rootPresent, deviceRoot := s.lc.deviceRoot, floorRecs := s.lc.floorRecs }

/-- The parts of a frame that hold them. -/
def vitalParts : List Part :=
  [.tp .latched, .tp .alarm, .tp .response, .sys .bootState, .hl .faultLog, .hl .auditLog, .lc .rootPresent, .lc .deviceRoot, .lc .floorRecs]

/-- `t` is sound where `s` is, and no image kind's floor is lower. -/
structure Carries (s t : State) : Prop where
  sound : Sound s → Sound t
  floors : ∀ k ∈ slotKinds, floorOf s k ≤ floorOf t k

theorem Carries.refl (s : State) : Carries s s := ⟨id, fun _ _ => le_rfl⟩

theorem Carries.trans {s t u : State} (h : Carries s t) (g : Carries t u) : Carries s u :=
  ⟨g.sound ∘ h.sound, fun k hk => (h.floors k hk).trans (g.floors k hk)⟩

/-- An operation that carries what is vital ends a chain of them. -/
theorem Carries.then {s t u : State} (g : Carries t u) (h : Carries s t) : Carries s u := h.trans g

theorem floorOf_congr {s t : State} (h : t.lc.floorRecs = s.lc.floorRecs) (k : Nat) : floorOf t k = floorOf s k := by
  simp [floorOf, newestFloor, h]

/-- Each clause of soundness by itself, and the floor records left as they are. -/
theorem Carries.of_clauses {s t : State}
    (htp : (s.tp.latched = false → s.tp.alarm = 0 ∧ s.tp.response = 0) → t.tp.latched = false → t.tp.alarm = 0 ∧ t.tp.response = 0)
    (hboot : s.sys.bootState ≤ 5 → t.sys.bootState ≤ 5) (hfault : s.hl.faultLog.length ≤ 262144 → t.hl.faultLog.length ≤ 262144)
    (haudit : s.hl.auditLog.length ≤ 131072 → t.hl.auditLog.length ≤ 131072)
    (hroot : (s.lc.rootPresent = false → s.lc.deviceRoot = []) → t.lc.rootPresent = false → t.lc.deviceRoot = [])
    (hrecs : t.lc.floorRecs = s.lc.floorRecs) : Carries s t where
  sound := fun ⟨h1, h2, h3, h4, h5⟩ => ⟨htp h1, hboot h2, hfault h3, haudit h4, hroot h5⟩
  floors := fun k _ => (floorOf_congr hrecs k).ge

theorem Carries.of_vital {s t : State} (h : vital t = vital s) : Carries s t := by
  simp only [vital, Vital.mk.injEq] at h
  obtain ⟨h1, h2, h3, h4, h5, h6, h7, h8, h9⟩ := h
  refine Carries.of_clauses ?_ ?_ ?_ ?_ ?_ h9 <;> simp only [h1, h2, h3, h4, h5, h6, h7, h8, imp_self]

/-- An update of other registers. -/
theorem Carries.set {s t u : State} (hv : vital u = vital t) (h : Carries s t) : Carries s u := h.trans (Carries.of_vital hv)

theorem vital_of_only {l : List Part} {s t : State} (h : Only l s t) (hl : l.all (fun p => !vitalParts.contains p) = true) : vital t = vital s := by
  have hkept : ∀ p ∈ vitalParts, p.Same s t := fun p hp => h.same p fun hmem => by
    have hout := List.all_eq_true.mp hl p hmem
    simp [hp] at hout
  simp only [vital, Vital.mk.injEq]
  exact ⟨hkept (.tp .latched) (by decide), hkept (.tp .alarm) (by decide), hkept (.tp .response) (by decide), hkept (.sys .bootState) (by decide),
    hkept (.hl .faultLog) (by decide), hkept (.hl .auditLog) (by decide), hkept (.lc .rootPresent) (by decide),
    hkept (.lc .deviceRoot) (by decide), hkept (.lc .floorRecs) (by decide)⟩

/-- An operation whose frame holds nothing vital. -/
theorem Carries.of_only {l : List Part} {s t : State} (h : Only l s t) (hl : l.all (fun p => !vitalParts.contains p) = true) : Carries s t :=
  Carries.of_vital (vital_of_only h hl)

theorem Carries.keep {l : List Part} {s t u : State} (g : Only l t u) (hl : l.all (fun p => !vitalParts.contains p) = true) (h : Carries s t) :
    Carries s u := h.trans (Carries.of_only g hl)

theorem Carries.foldl {α : Type} {s t : State} {f : State → α → State} (l : List α) (hf : ∀ t x, Carries t (f t x)) (h : Carries s t) :
    Carries s (l.foldl f t) := by
  induction l generalizing t with
  | nil => exact h
  | cons x r ih => exact ih (h.trans (hf t x))

theorem length_drop_overflow {α : Type} (l : List α) (n : Nat) : (l.drop (l.length - n)).length ≤ n := by
  rw [List.length_drop]
  omega

/-- A log that stays within its ring (R470). -/
theorem Carries.auditLog {s : State} {l : List (Nat × Nat × Nat)} (h : l.length ≤ 131072) :
    Carries s { s with hl := { s.hl with auditLog := l } } := Carries.of_clauses id id id (fun _ => h) id rfl

theorem Carries.faultLog {s : State} {l : List (Nat × Nat × Nat)} (h : l.length ≤ 262144) :
    Carries s { s with hl := { s.hl with faultLog := l } } := Carries.of_clauses id id (fun _ => h) id id rfl

theorem modPad_carries {s x : State} {n : Nat} {g : Pad → Pad} (h : Carries s x) : Carries s (modPad x n g) := h.trans (Carries.of_vital rfl)

theorem modSt_carries {s x : State} {n : Nat} {g : Stall → Stall} (h : Carries s x) : Carries s (modSt x n g) := h.trans (Carries.of_vital rfl)

theorem put_dbg_freeCtr_carries {s x : State} {v0 : Debug} {v1 : Nat} (h : Carries s x) :
    Carries s { x with dbg := v0, freeCtr := v1 } := h.trans (Carries.of_vital rfl)

theorem put_en_carries {s x : State} {v0 : Energy} (h : Carries s x) :
    Carries s { x with en := v0 } := h.trans (Carries.of_vital rfl)

theorem put_fc_carries {s x : State} {v0 : Faults} (h : Carries s x) :
    Carries s { x with fc := v0 } := h.trans (Carries.of_vital rfl)

theorem put_jn_carries {s x : State} {v0 : Journal} (h : Carries s x) :
    Carries s { x with jn := v0 } := h.trans (Carries.of_vital rfl)

theorem put_jn_tt_carries {s x : State} {v0 : Journal} {v1 : Tether} (h : Carries s x) :
    Carries s { x with jn := v0, tt := v1 } := h.trans (Carries.of_vital rfl)

theorem put_lc_carries {s x : State} {v0 : LifeCycle} (h0a : v0.rootPresent = x.lc.rootPresent) (h0b : v0.deviceRoot = x.lc.deviceRoot) (h0c : v0.floorRecs = x.lc.floorRecs) (h : Carries s x) :
   Carries s { x with lc := v0 } := h.set (by simp [vital, h0a, h0b, h0c])

theorem put_pads_carries {s x : State} {v0 : SMap Pad} (h : Carries s x) :
    Carries s { x with pads := v0 } := h.trans (Carries.of_vital rfl)

theorem put_pl_carries {s x : State} {v0 : PlanCtl} (h : Carries s x) :
    Carries s { x with pl := v0 } := h.trans (Carries.of_vital rfl)

theorem put_pl_jn_hl_carries {s x : State} {v0 : PlanCtl} {v1 : Journal} {v2 : Hayloft} (h2a : v2.faultLog = x.hl.faultLog) (h2b : v2.auditLog = x.hl.auditLog) (h : Carries s x) :
   Carries s { x with pl := v0, jn := v1, hl := v2 } := h.set (by simp [vital, h2a, h2b])

theorem put_pl_tt_carries {s x : State} {v0 : PlanCtl} {v1 : Tether} (h : Carries s x) :
    Carries s { x with pl := v0, tt := v1 } := h.trans (Carries.of_vital rfl)

theorem put_port_carries {s x : State} {v0 : Port} (h : Carries s x) :
    Carries s { x with port := v0 } := h.trans (Carries.of_vital rfl)

theorem put_rng_carries {s x : State} {v0 : Rng} (h : Carries s x) :
    Carries s { x with rng := v0 } := h.trans (Carries.of_vital rfl)

theorem put_sys_carries {s x : State} {v0 : Sys} (h0a : v0.bootState = x.sys.bootState) (h : Carries s x) :
   Carries s { x with sys := v0 } := h.set (by simp [vital, h0a])

theorem put_sys_dbg_freeCtr_carries {s x : State} {v0 : Sys} {v1 : Debug} {v2 : Nat} (h0a : v0.bootState = x.sys.bootState) (h : Carries s x) :
   Carries s { x with sys := v0, dbg := v1, freeCtr := v2 } := h.set (by simp [vital, h0a])

theorem put_sys_port_carries {s x : State} {v0 : Sys} {v1 : Port} (h0a : v0.bootState = x.sys.bootState) (h : Carries s x) :
   Carries s { x with sys := v0, port := v1 } := h.set (by simp [vital, h0a])

theorem put_sys_tp_carries {s x : State} {v0 : Sys} {v1 : Tamper} (h0a : v0.bootState = x.sys.bootState) (h1a : v1.latched = x.tp.latched) (h1b : v1.alarm = x.tp.alarm) (h1c : v1.response = x.tp.response) (h : Carries s x) :
   Carries s { x with sys := v0, tp := v1 } := h.set (by simp [vital, h0a, h1a, h1b, h1c])

theorem put_sys_tp_freeCtr_carries {s x : State} {v0 : Sys} {v1 : Tamper} {v2 : Nat} (h0a : v0.bootState = x.sys.bootState) (h1a : v1.latched = x.tp.latched) (h1b : v1.alarm = x.tp.alarm) (h1c : v1.response = x.tp.response) (h : Carries s x) :
   Carries s { x with sys := v0, tp := v1, freeCtr := v2 } := h.set (by simp [vital, h0a, h1a, h1b, h1c])

theorem put_tk_carries {s x : State} {v0 : Tack} (h : Carries s x) :
    Carries s { x with tk := v0 } := h.trans (Carries.of_vital rfl)

theorem put_tp_carries {s x : State} {v0 : Tamper} (h0a : v0.latched = x.tp.latched) (h0b : v0.alarm = x.tp.alarm) (h0c : v0.response = x.tp.response) (h : Carries s x) :
   Carries s { x with tp := v0 } := h.set (by simp [vital, h0a, h0b, h0c])

theorem put_tt_carries {s x : State} {v0 : Tether} (h : Carries s x) :
    Carries s { x with tt := v0 } := h.trans (Carries.of_vital rfl)

/-! ## The floor records (R110) -/

/-- Sector `i` holds the record `r`, and its CRC vouches for it. -/
def ValidAt (m : SMap (Option FloorRec)) (i : Nat) (r : FloorRec) : Prop := smGet none m i = some r ∧ r.crc = crc32c (floorBytes r)

/-- The newer of a record found so far and the one of sector `i`. -/
def newer (m : SMap (Option FloorRec)) (best : Option (Nat × FloorRec)) (i : Nat) : Option (Nat × FloorRec) :=
  match smGet none m i with
  | some r => if r.crc = crc32c (floorBytes r) ∧ (best.all fun e => decide (e.2.seq < r.seq)) = true then some (i, r) else best
  | none => best

theorem newestFloor_eq (s : State) : newestFloor s = ([8, 9, 10, 11] : List Nat).foldl (newer s.lc.floorRecs) none := rfl

theorem newer_cases (m : SMap (Option FloorRec)) (best : Option (Nat × FloorRec)) (i : Nat) :
    newer m best i = best ∨ ∃ r, ValidAt m i r ∧ newer m best i = some (i, r) ∧ ∀ e, best = some e → e.2.seq < r.seq := by
  unfold newer
  split
  next r hr =>
    split
    next h => exact .inr ⟨r, ⟨hr, h.1⟩, rfl, fun e he => by simpa [he] using h.2⟩
    next => exact .inl rfl
  next => exact .inl rfl

theorem newer_of_valid {m : SMap (Option FloorRec)} {i : Nat} {r : FloorRec} (h : ValidAt m i r) (best : Option (Nat × FloorRec)) :
    ∃ e, newer m best i = some e ∧ r.seq ≤ e.2.seq := by
  obtain ⟨hr, hcrc⟩ := h
  cases best with
  | none => exact ⟨(i, r), by simp [newer, hr, hcrc], le_rfl⟩
  | some e =>
    by_cases hlt : e.2.seq < r.seq
    · exact ⟨(i, r), by simp [newer, hr, hcrc, hlt], le_rfl⟩
    · exact ⟨e, by simp [newer, hr, hlt], by omega⟩

/-- What a search finds is where it looked, or was found before. -/
theorem valid_of_search {m : SMap (Option FloorRec)} (l : List Nat) {best : Option (Nat × FloorRec)} {j : Nat} {r : FloorRec}
    (h : l.foldl (newer m) best = some (j, r)) : ValidAt m j r ∨ best = some (j, r) := by
  induction l generalizing best with
  | nil => exact .inr h
  | cons i l ih =>
    rcases ih h with hv | hbest
    · exact .inl hv
    · rcases newer_cases m best i with hold | ⟨x, hx, hnew, -⟩
      · exact .inr (hold ▸ hbest)
      · rw [hnew] at hbest
        cases hbest
        exact .inl hx

theorem mem_of_search {m : SMap (Option FloorRec)} (l : List Nat) {best : Option (Nat × FloorRec)} {j : Nat} {r : FloorRec}
    (h : l.foldl (newer m) best = some (j, r)) (hbest : best ≠ some (j, r)) : j ∈ l := by
  induction l generalizing best with
  | nil => exact absurd h hbest
  | cons i l ih =>
    by_cases hnext : newer m best i = some (j, r)
    · rcases newer_cases m best i with hold | ⟨x, -, hnew, -⟩
      · exact absurd (hold ▸ hnext) hbest
      · rw [hnew] at hnext
        cases hnext
        exact List.mem_cons_self
    · exact List.mem_cons_of_mem _ (ih h hnext)

theorem search_mono {m : SMap (Option FloorRec)} (l : List Nat) (e : Nat × FloorRec) :
    ∃ e', l.foldl (newer m) (some e) = some e' ∧ e.2.seq ≤ e'.2.seq := by
  induction l generalizing e with
  | nil => exact ⟨e, rfl, le_rfl⟩
  | cons i l ih =>
    rcases newer_cases m (some e) i with hold | ⟨x, -, hnew, hlt⟩
    · simpa [hold] using ih e
    · obtain ⟨e', he', hle⟩ := ih (i, x)
      exact ⟨e', by simpa [hnew] using he', (hlt e rfl).le.trans hle⟩

/-- Every valid record of the sectors searched is no newer than what is found. -/
theorem search_newest {m : SMap (Option FloorRec)} {l : List Nat} {j : Nat} {r : FloorRec} (hj : j ∈ l) (hr : ValidAt m j r)
    (best : Option (Nat × FloorRec)) : ∃ e, l.foldl (newer m) best = some e ∧ r.seq ≤ e.2.seq := by
  induction l generalizing best with
  | nil => simp at hj
  | cons i l ih =>
    rcases List.mem_cons.mp hj with rfl | hmem
    · obtain ⟨e, he, hle⟩ := newer_of_valid hr best
      obtain ⟨e', he', hle'⟩ := search_mono (m := m) l e
      exact ⟨e', by simpa [he] using he', hle.trans hle'⟩
    · exact ih hmem _

/-- The record that writeFloors makes. -/
def freshRec (s : State) (floors : SMap Nat) : FloorRec :=
  let r : FloorRec := { floors := floors, seq := (newestFloor s).elim 1 fun e => e.2.seq + 1 }
  { r with crc := crc32c (floorBytes r) }

/-- The sector it goes to. -/
def freshSector (s : State) : Nat := (newestFloor s).elim 8 fun e => 8 + (e.1 - 8 + 1) % 4

theorem writeFloors_recs (s : State) (floors : SMap Nat) :
    (writeFloors s floors).lc.floorRecs = smSet none s.lc.floorRecs (freshSector s) (some (freshRec s floors)) := rfl

theorem freshSector_mem (s : State) : freshSector s ∈ ([8, 9, 10, 11] : List Nat) := by
  unfold freshSector
  cases newestFloor s with
  | none => simp
  | some e =>
    have hmod : (e.1 - 8 + 1) % 4 < 4 := Nat.mod_lt _ (by omega)
    simp only [Option.elim_some, List.mem_cons, List.not_mem_nil, or_false]
    omega

/-- No record that is valid before is as new as the one written. -/
theorem seq_lt_freshRec {s : State} {j : Nat} {r : FloorRec} (floors : SMap Nat) (hj : j ∈ ([8, 9, 10, 11] : List Nat))
    (hr : ValidAt s.lc.floorRecs j r) : r.seq < (freshRec s floors).seq := by
  obtain ⟨e, he, hle⟩ := search_newest hj hr none
  rw [← newestFloor_eq] at he
  simp only [freshRec, he, Option.elim_some]
  omega

/-- The record written is the one in force (R110). -/
theorem newestFloor_writeFloors (s : State) (floors : SMap Nat) :
    newestFloor (writeFloors s floors) = some (freshSector s, freshRec s floors) := by
  have hfresh : ValidAt (writeFloors s floors).lc.floorRecs (freshSector s) (freshRec s floors) := by
    refine ⟨?_, rfl⟩
    rw [writeFloors_recs, smGet_smSet_self]
  obtain ⟨⟨j, r⟩, hfound, hle⟩ := search_newest (freshSector_mem s) hfresh none
  rw [newestFloor_eq, hfound]
  have hvalid := (valid_of_search _ hfound).resolve_right (by simp)
  have hj : j ∈ ([8, 9, 10, 11] : List Nat) := mem_of_search _ hfound (by simp)
  obtain ⟨hget, hcrc⟩ := hvalid
  rw [writeFloors_recs, smGet_smSet] at hget
  split at hget
  next hsame => rw [hsame, Option.some.inj hget]
  next =>
    have hlt := seq_lt_freshRec floors hj ⟨hget, hcrc⟩
    exact absurd hle (by simpa using hlt)

theorem floorOf_writeFloors (s : State) (floors : SMap Nat) (k : Nat) : floorOf (writeFloors s floors) k = smGet 0 floors k := by
  simp [floorOf, newestFloor_writeFloors, freshRec]

theorem smGet_foldl_smSet (v : Nat → Nat) (l : List Nat) (m : SMap Nat) (k : Nat) :
    smGet 0 (l.foldl (fun m k => smSet 0 m k (v k)) m) k = if k ∈ l then v k else smGet 0 m k := by
  induction l generalizing m with
  | nil => simp
  | cons i l ih =>
    rw [List.foldl_cons, ih, smGet_smSet]
    by_cases hl : k ∈ l
    · simp [hl]
    · by_cases hi : k = i
      · simp [hi]
      · simp [hl, hi]

/-! ## The operations, each by what it calls -/


theorem raiseFloors_carries (s : State) : Carries s (raiseFloors s) := by
  unfold raiseFloors
  split
  · exact Carries.refl _
  · refine ⟨id, fun k hk => ?_⟩
    rw [floorOf_writeFloors, smGet_foldl_smSet, if_pos hk]
    exact le_max_left _ _

theorem warmOpen_carries (s : State) : Carries s (warmOpen s) := by
  unfold warmOpen
  dsimp -proj only
  refine Carries.keep (runBells_only ..) (by decide +kernel) ?_
  split
  · refine Carries.keep (mirrorCopies_only ..) (by decide +kernel) ?_
    refine Carries.then (raiseFloors_carries ..) ?_
    refine Carries.keep (replaysDone_only ..) (by decide +kernel) ?_
    refine Carries.keep (releaseGate_only ..) (by decide +kernel) ?_
    refine put_jn_carries ?_
    exact Carries.refl _
  · refine Carries.keep (replaysDone_only ..) (by decide +kernel) ?_
    refine Carries.keep (releaseGate_only ..) (by decide +kernel) ?_
    refine put_jn_carries ?_
    exact Carries.refl _

theorem warmRestart_carries (s : State) (cause : ℕ) : Carries s (warmRestart s cause) := by
  unfold warmRestart
  dsimp -proj only
  split
  · split
    · split
      · refine Carries.keep (raisePart_only ..) (by decide +kernel) ?_
        refine put_sys_carries (by with_reducible rfl) ?_
        refine Carries.keep (warmReplay_only ..) (by decide +kernel) ?_
        refine Carries.keep (causeEnds_only ..) (by decide +kernel) ?_
        refine put_rng_carries ?_
        refine Carries.keep (extendYmr_only ..) (by decide +kernel) ?_
        refine Carries.keep (returnQueues_only ..) (by decide +kernel) ?_
        refine Carries.keep (loadImages_only ..) (by decide +kernel) ?_
        exact Carries.refl _
      · refine Carries.then (warmOpen_carries ..) ?_
        refine Carries.keep (warmReplay_only ..) (by decide +kernel) ?_
        refine Carries.keep (causeEnds_only ..) (by decide +kernel) ?_
        refine put_rng_carries ?_
        refine Carries.keep (extendYmr_only ..) (by decide +kernel) ?_
        refine Carries.keep (returnQueues_only ..) (by decide +kernel) ?_
        refine Carries.keep (loadImages_only ..) (by decide +kernel) ?_
        exact Carries.refl _
    · split
      · refine Carries.keep (raisePart_only ..) (by decide +kernel) ?_
        refine put_sys_carries (by with_reducible rfl) ?_
        refine Carries.keep (warmReplay_only ..) (by decide +kernel) ?_
        refine Carries.keep (reseedWarm_only ..) (by decide +kernel) ?_
        refine Carries.keep (extendYmr_only ..) (by decide +kernel) ?_
        refine Carries.keep (returnQueues_only ..) (by decide +kernel) ?_
        refine Carries.keep (loadImages_only ..) (by decide +kernel) ?_
        exact Carries.refl _
      · refine Carries.then (warmOpen_carries ..) ?_
        refine Carries.keep (warmReplay_only ..) (by decide +kernel) ?_
        refine Carries.keep (reseedWarm_only ..) (by decide +kernel) ?_
        refine Carries.keep (extendYmr_only ..) (by decide +kernel) ?_
        refine Carries.keep (returnQueues_only ..) (by decide +kernel) ?_
        refine Carries.keep (loadImages_only ..) (by decide +kernel) ?_
        exact Carries.refl _
  · split
    · split
      · refine Carries.keep (raisePart_only ..) (by decide +kernel) ?_
        refine put_sys_carries (by with_reducible rfl) ?_
        refine Carries.keep (warmReplay_only ..) (by decide +kernel) ?_
        refine Carries.keep (causeEnds_only ..) (by decide +kernel) ?_
        refine put_rng_carries ?_
        refine Carries.keep (extendYmr_only ..) (by decide +kernel) ?_
        exact Carries.refl _
      · refine Carries.then (warmOpen_carries ..) ?_
        refine Carries.keep (warmReplay_only ..) (by decide +kernel) ?_
        refine Carries.keep (causeEnds_only ..) (by decide +kernel) ?_
        refine put_rng_carries ?_
        refine Carries.keep (extendYmr_only ..) (by decide +kernel) ?_
        exact Carries.refl _
    · split
      · refine Carries.keep (raisePart_only ..) (by decide +kernel) ?_
        refine put_sys_carries (by with_reducible rfl) ?_
        refine Carries.keep (warmReplay_only ..) (by decide +kernel) ?_
        refine Carries.keep (reseedWarm_only ..) (by decide +kernel) ?_
        refine Carries.keep (extendYmr_only ..) (by decide +kernel) ?_
        exact Carries.refl _
      · refine Carries.then (warmOpen_carries ..) ?_
        refine Carries.keep (warmReplay_only ..) (by decide +kernel) ?_
        refine Carries.keep (reseedWarm_only ..) (by decide +kernel) ?_
        refine Carries.keep (extendYmr_only ..) (by decide +kernel) ?_
        exact Carries.refl _

theorem warmReset_carries (s : State) (cause : ℕ) : Carries s (warmReset s cause) := by
  unfold warmReset
  dsimp -proj only
  split
  · split
    · exact Carries.refl _
    · refine Carries.then (warmRestart_carries ..) ?_
      refine Carries.keep (warmStop_only ..) (by decide +kernel) ?_
      exact Carries.refl _
  · split
    · refine put_sys_carries (by with_reducible rfl) ?_
      exact Carries.refl _
    · exact Carries.refl _

theorem escalateUnit_carries (s : State) (source : ℕ) (kind : ℕ) (charged : Bool) (pad : ℕ) (detail : ℕ) : Carries s (escalateUnit s source kind charged pad detail) := by
  unfold escalateUnit
  split
  · split
    · exact Carries.refl _
    · refine Carries.then (warmReset_carries ..) ?_
      exact Carries.refl _
  · split
    · split
      · refine Carries.keep (paddockReset_only ..) (by decide +kernel) ?_
        exact Carries.refl _
      · exact Carries.refl _
    · split
      · exact Carries.refl _
      · refine Carries.keep (retireUnit_only ..) (by decide +kernel) ?_
        exact Carries.refl _

theorem settleLoop_carries (n : ℕ) (s : State) : Carries s (settleLoop n s) := by
  induction n generalizing s with
  | zero =>
    exact Carries.refl _
  | succ n ih =>
    unfold settleLoop
    split
    · dsimp -proj only
      refine Carries.then (ih ..) ?_
      refine Carries.then (escalateUnit_carries ..) ?_
      refine put_fc_carries ?_
      exact Carries.refl _
    · split
      · exact Carries.refl _
      · refine Carries.then (ih ..) ?_
        refine Carries.keep (bucketFull_only ..) (by decide +kernel) ?_
        refine put_fc_carries ?_
        exact Carries.refl _

theorem settle_carries (s : State) : Carries s (settle s) := by
  unfold settle
  split
  · exact Carries.refl _
  · refine Carries.keep (replaysDone_only ..) (by decide +kernel) ?_
    refine Carries.then (settleLoop_carries ..) ?_
    exact Carries.refl _

theorem faultAction_carries (s : State) (source : ℕ) (kind : ℕ) (detail : ℕ) : Carries s (faultAction s source kind detail) := by
  unfold faultAction
  dsimp -proj only
  split
  · split
    · split
      · refine modSt_carries ?_
        refine Carries.keep (makeUnsound_only ..) (by decide +kernel) ?_
        exact Carries.refl _
      · refine Carries.keep (makeUnsound_only ..) (by decide +kernel) ?_
        exact Carries.refl _
    · split
      · refine Carries.keep (retireStall_only ..) (by decide +kernel) ?_
        exact Carries.refl _
      · exact Carries.refl _
  · split
    · refine Carries.keep (retireRow_only ..) (by decide +kernel) ?_
      exact Carries.refl _
    · split
      · refine Carries.keep (yardLoss_only ..) (by decide +kernel) ?_
        exact Carries.refl _
      · split
        · refine Carries.keep (stopCore_only ..) (by decide +kernel) ?_
          exact Carries.refl _
        · exact Carries.refl _
      · refine Carries.then (warmReset_carries ..) ?_
        exact Carries.refl _
      · split
        · exact Carries.refl _
        · refine Carries.keep (loseSlot_only ..) (by decide +kernel) ?_
          exact Carries.refl _
      · split
        · refine Carries.keep (isolateGroup_only ..) (by decide +kernel) ?_
          exact Carries.refl _
        · exact Carries.refl _
      · refine Carries.keep (overtemp_only ..) (by decide +kernel) ?_
        exact Carries.refl _
      · split
        · refine Carries.keep (loseTarget_only ..) (by decide +kernel) ?_
          exact Carries.refl _
        · exact Carries.refl _
      · split
        · refine Carries.keep (modLane_only ..) (by decide +kernel) ?_
          exact Carries.refl _
        · exact Carries.refl _
      · split
        · refine Carries.keep (dropLane_only ..) (by decide +kernel) ?_
          exact Carries.refl _
        · exact Carries.refl _
      · exact Carries.refl _

theorem raiseFault_carries (s : State) (source : ℕ) (kind : ℕ) (charged : Bool) (pad : ℕ) (detail : ℕ) : Carries s (raiseFault s source kind charged pad detail) := by
  unfold raiseFault
  refine Carries.then (faultAction_carries ..) ?_
  refine Carries.keep (report_only ..) (by decide +kernel) ?_
  exact Carries.refl _

theorem auditAdd_carries (s : State) (event : ℕ) (value : ℕ) : Carries s (auditAdd s event value) :=
  Carries.auditLog (length_drop_overflow ..)

theorem opensGate_carries {s x : State} {v0 : Sys} {v1 : Journal} (hopen : v0.bootState = 1) (h : Carries s x) :
    Carries s { x with sys := v0, jn := v1 } :=
  h.trans (Carries.of_clauses id (fun _ => hopen.le.trans (by omega)) id id id rfl)

theorem openGate_carries (s : State) : Carries s (openGate s) := by
  unfold openGate
  dsimp -proj only
  split
  · refine Carries.then (warmReset_carries ..) ?_
    refine put_sys_carries (by with_reducible rfl) ?_
    refine Carries.keep (updateLtr_only ..) (by decide +kernel) ?_
    refine Carries.keep (runBells_only ..) (by decide +kernel) ?_
    refine Carries.keep (replaysDone_only ..) (by decide +kernel) ?_
    refine Carries.keep (redrain_only ..) (by decide +kernel) ?_
    refine Carries.foldl _ (fun t x => ?_) ?_
    · refine Carries.keep (sweepKind_only ..) (by decide +kernel) ?_
      exact Carries.refl _
    · refine Carries.keep (reloadBlobs_only ..) (by decide +kernel) ?_
      refine Carries.keep (mirrorCopies_only ..) (by decide +kernel) ?_
      refine Carries.then (raiseFloors_carries ..) ?_
      refine Carries.keep (replayAll_only ..) (by decide +kernel) ?_
      refine Carries.keep (recreateLoads_only ..) (by decide +kernel) ?_
      refine put_pads_carries ?_
      refine opensGate_carries (by with_reducible rfl) ?_
      exact Carries.refl _
  · refine Carries.keep (updateLtr_only ..) (by decide +kernel) ?_
    refine Carries.keep (runBells_only ..) (by decide +kernel) ?_
    refine Carries.keep (replaysDone_only ..) (by decide +kernel) ?_
    refine Carries.keep (redrain_only ..) (by decide +kernel) ?_
    refine Carries.foldl _ (fun t x => ?_) ?_
    · refine Carries.keep (sweepKind_only ..) (by decide +kernel) ?_
      exact Carries.refl _
    · refine Carries.keep (reloadBlobs_only ..) (by decide +kernel) ?_
      refine Carries.keep (mirrorCopies_only ..) (by decide +kernel) ?_
      refine Carries.then (raiseFloors_carries ..) ?_
      refine Carries.keep (replayAll_only ..) (by decide +kernel) ?_
      refine Carries.keep (recreateLoads_only ..) (by decide +kernel) ?_
      refine put_pads_carries ?_
      refine opensGate_carries (by with_reducible rfl) ?_
      exact Carries.refl _

theorem bootOpen_carries (s : State) : Carries s (bootOpen s) := by
  unfold bootOpen
  dsimp -proj only
  split
  · refine put_sys_carries (by with_reducible rfl) ?_
    exact Carries.refl _
  · refine Carries.then (openGate_carries ..) ?_
    refine put_jn_carries ?_
    refine Carries.keep (yieldTerm_only ..) (by decide +kernel) ?_
    exact Carries.refl _

/-- A boot stop names one of the states of Table 04.15. -/
theorem bootStop_carries {s : State} {st : ℕ} {reason : ℕ} (hst : st ≤ 5) : Carries s (bootStop s st reason) :=
  Carries.of_clauses id (fun _ => hst) id id id rfl

theorem latchAlarm_carries (s : State) (bit : ℕ) (resp : ℕ) : Carries s (latchAlarm s bit resp) := by
  have latched (u : State) (x : Tamper) (hx : x.latched = true) : Carries u { u with tp := x } :=
    Carries.of_clauses (fun _ h => by simp [hx] at h) id id id id rfl
  unfold latchAlarm
  dsimp -proj only
  refine Carries.then (auditAdd_carries ..) ?_
  refine Carries.then (latched _ _ rfl) ?_
  split
  · exact Carries.refl _
  · exact Carries.keep (raisePart_only ..) (by decide +kernel) (Carries.refl _)

theorem bootTamper_carries (s : State) (bit : ℕ) : Carries s (bootTamper s bit) := by
  unfold bootTamper
  dsimp -proj only
  split
  · refine Carries.then (latchAlarm_carries ..) ?_
    exact Carries.refl _
  · split
    · refine Carries.then (latchAlarm_carries ..) ?_
      exact Carries.refl _
    · refine Carries.then (bootStop_carries (by decide) ..) ?_
      refine put_tp_carries (by with_reducible rfl) (by with_reducible rfl) (by with_reducible rfl) ?_
      refine Carries.then (latchAlarm_carries ..) ?_
      exact Carries.refl _

theorem openCaps_carries (s : State) : SomeOnly [.pad .caps, .tt .mirrorCaps] s (openCaps s) :=
  ⟨fun h => by
    obtain ⟨b, _, rfl⟩ := Option.map_eq_some_iff.mp h
    exact readCaps_only ..⟩

theorem bootRandom_only (s : State) (b : BootIn) : Carries s (bootRandom s b) := by
  unfold bootRandom
  dsimp -proj only
  split
  · refine Carries.then (bootOpen_carries ..) ?_
    refine Carries.keep (runStartup_only ..) (by decide +kernel) ?_
    exact Carries.refl _
  · refine put_sys_carries (by with_reducible rfl) ?_
    refine Carries.keep (runStartup_only ..) (by decide +kernel) ?_
    exact Carries.refl _

theorem bootRandom_carries (s : State) (b : BootIn) : Carries s (bootRandom s b) := by
  unfold bootRandom
  dsimp -proj only
  split
  · refine Carries.then (bootOpen_carries ..) ?_
    exact Carries.keep (runStartup_only ..) (by decide +kernel) (Carries.refl _)
  · refine put_sys_carries (by with_reducible rfl) ?_
    exact Carries.keep (runStartup_only ..) (by decide +kernel) (Carries.refl _)

theorem bootUnseal_carries (s : State) (b : BootIn) : Carries s (bootUnseal s b) := by
  have unsealed : Carries s (if 1 ≤ s.lc.state ∧ s.lc.state ≤ 4 then unsealTack s else s) := by
    split
    · exact Carries.of_only (unsealTack_only ..) (by decide +kernel)
    · exact Carries.refl _
  unfold bootUnseal
  dsimp -proj only
  split
  · exact bootTamper_carries ..
  · rename_i s2 h
    refine Carries.then (bootRandom_carries ..) ?_
    refine put_sys_carries (by with_reducible rfl) ?_
    split at h
    · exact Carries.keep ((openCaps_only _).get h) (by decide +kernel) unsealed
    · exact Option.some.inj h ▸ unsealed


theorem bootJournal_carries (s : State) (b : BootIn) : Carries s (bootJournal s b) := by
  unfold bootJournal
  dsimp -proj only
  split
  · refine put_sys_carries (by with_reducible rfl) ?_
    exact Carries.refl _
  · refine Carries.then (bootUnseal_carries ..) ?_
    refine put_sys_carries (by with_reducible rfl) ?_
    refine Carries.keep (recoverJournal_only ..) (by decide +kernel) ?_
    exact Carries.refl _

theorem bootReserve_carries (s : State) (b : BootIn) : Carries s (bootReserve s b) := by
  unfold bootReserve
  dsimp -proj only
  split
  · refine Carries.keep (raisePart_only ..) (by decide +kernel) ?_
    refine put_sys_carries (by with_reducible rfl) ?_
    exact Carries.refl _
  · refine Carries.then (bootJournal_carries ..) ?_
    refine Carries.keep (firstReserve_only ..) (by decide +kernel) ?_
    refine put_sys_carries (by with_reducible rfl) ?_
    exact Carries.refl _

theorem bootCalibrate_carries (s : State) (b : BootIn) : Carries s (bootCalibrate s b) := by
  unfold bootCalibrate
  refine Carries.then (bootReserve_carries ..) ?_
  refine Carries.keep (computeCosts_only ..) (by decide +kernel) ?_
  refine Carries.keep (convert_only ..) (by decide +kernel) ?_
  refine Carries.keep (calibrate_only ..) (by decide +kernel) ?_
  exact Carries.refl _

theorem bootMicrocode_carries (s : State) (b : BootIn) : Carries s (bootMicrocode s b) := by
  unfold bootMicrocode
  dsimp -proj only
  split
  · refine Carries.then (bootStop_carries (by decide) ..) ?_
    exact Carries.refl _
  · refine Carries.then (bootCalibrate_carries ..) ?_
    refine Carries.keep (bootedDir_only ..) (by decide +kernel) ?_
    refine put_sys_carries (by with_reducible rfl) ?_
    refine Carries.foldl _ (fun t x => ?_) ?_
    · refine modSt_carries ?_
      exact Carries.refl _
    · refine Carries.foldl _ (fun t x => ?_) ?_
      · refine Carries.keep (bootKind_only ..) (by decide +kernel) ?_
        exact Carries.refl _
      · exact Carries.refl _

theorem bootPlan_carries (s : State) (b : BootIn) : Carries s (bootPlan s b) := by
  unfold bootPlan
  dsimp -proj only
  split
  · split
    · refine Carries.then (bootTamper_carries ..) ?_
      refine Carries.keep (bootMesh_only ..) (by decide +kernel) ?_
      refine Carries.keep (bootTwin_only ..) (by decide +kernel) ?_
      refine Carries.keep (bootPartials_only ..) (by decide +kernel) ?_
      refine Carries.keep (bootKind_only ..) (by decide +kernel) ?_
      refine Carries.keep (applyPlan_only ..) (by decide +kernel) ?_
      split
      · refine put_pl_carries ?_
        refine Carries.keep (bootRetired_only ..) (by decide +kernel) ?_
        exact Carries.refl _
      · refine Carries.keep (bootRetired_only ..) (by decide +kernel) ?_
        exact Carries.refl _
    · refine Carries.then (bootMicrocode_carries ..) ?_
      refine Carries.keep (releaseWp_only ..) (by decide +kernel) ?_
      refine put_sys_carries (by with_reducible rfl) ?_
      refine Carries.keep (bootMesh_only ..) (by decide +kernel) ?_
      refine Carries.keep (bootTwin_only ..) (by decide +kernel) ?_
      refine Carries.keep (bootPartials_only ..) (by decide +kernel) ?_
      refine Carries.keep (bootKind_only ..) (by decide +kernel) ?_
      refine Carries.keep (applyPlan_only ..) (by decide +kernel) ?_
      split
      · refine put_pl_carries ?_
        refine Carries.keep (bootRetired_only ..) (by decide +kernel) ?_
        exact Carries.refl _
      · refine Carries.keep (bootRetired_only ..) (by decide +kernel) ?_
        exact Carries.refl _
  · split
    · split
      · refine Carries.then (bootTamper_carries ..) ?_
        refine Carries.keep (bootMesh_only ..) (by decide +kernel) ?_
        refine Carries.keep (bootTwin_only ..) (by decide +kernel) ?_
        refine Carries.keep (bootPartials_only ..) (by decide +kernel) ?_
        refine Carries.keep (bootRetired_only ..) (by decide +kernel) ?_
        exact Carries.refl _
      · refine Carries.then (bootMicrocode_carries ..) ?_
        refine Carries.keep (releaseWp_only ..) (by decide +kernel) ?_
        refine put_sys_carries (by with_reducible rfl) ?_
        refine Carries.keep (bootMesh_only ..) (by decide +kernel) ?_
        refine Carries.keep (bootTwin_only ..) (by decide +kernel) ?_
        refine Carries.keep (bootPartials_only ..) (by decide +kernel) ?_
        refine Carries.keep (bootRetired_only ..) (by decide +kernel) ?_
        exact Carries.refl _
    · refine Carries.then (bootStop_carries (by decide) ..) ?_
      split
      · refine put_pl_carries ?_
        refine Carries.keep (bootRetired_only ..) (by decide +kernel) ?_
        exact Carries.refl _
      · refine Carries.keep (bootRetired_only ..) (by decide +kernel) ?_
        exact Carries.refl _

theorem bootFirmware_carries (s : State) (b : BootIn) : Carries s (bootFirmware s b) := by
  unfold bootFirmware
  dsimp -proj only
  split
  · refine Carries.then (bootPlan_carries ..) ?_
    refine Carries.keep (extendYmr_only ..) (by decide +kernel) ?_
    refine put_sys_carries (by with_reducible rfl) ?_
    refine Carries.keep (noteFirmware_only ..) (by decide +kernel) ?_
    refine Carries.keep (bootKind_only ..) (by decide +kernel) ?_
    exact Carries.refl _
  · split
    · refine Carries.then (bootPlan_carries ..) ?_
      refine put_sys_carries (by with_reducible rfl) ?_
      exact Carries.refl _
    · refine Carries.then (bootStop_carries (by decide) ..) ?_
      exact Carries.refl _

theorem bootSheds_carries (s : State) (b : BootIn) : Carries s (bootSheds s b) := by
  unfold bootSheds
  dsimp -proj only
  split
  · refine put_sys_carries (by with_reducible rfl) ?_
    exact Carries.refl _
  · refine Carries.then (bootFirmware_carries ..) ?_
    refine Carries.keep (bootHayloft_only ..) (by decide +kernel) ?_
    refine put_port_carries ?_
    refine put_sys_carries (by with_reducible rfl) ?_
    exact Carries.refl _

theorem bootLedger_carries (s : State) (b : BootIn) : Carries s (bootLedger s b) := by
  unfold bootLedger
  dsimp -proj only
  split
  · split
    · refine Carries.then (bootStop_carries (by decide) ..) ?_
      refine Carries.then (auditAdd_carries ..) ?_
      refine Carries.keep (decodeLedger_only ..) (by decide +kernel) ?_
      exact Carries.refl _
    · split
      · refine Carries.then (bootStop_carries (by decide) ..) ?_
        refine Carries.then (auditAdd_carries ..) ?_
        refine Carries.keep (decodeLedger_only ..) (by decide +kernel) ?_
        exact Carries.refl _
      · refine Carries.then (bootSheds_carries ..) ?_
        refine put_sys_carries (by with_reducible rfl) ?_
        refine Carries.then (auditAdd_carries ..) ?_
        refine Carries.keep (decodeLedger_only ..) (by decide +kernel) ?_
        exact Carries.refl _
  · split
    · refine Carries.then (bootStop_carries (by decide) ..) ?_
      refine Carries.keep (decodeLedger_only ..) (by decide +kernel) ?_
      exact Carries.refl _
    · split
      · refine Carries.then (bootStop_carries (by decide) ..) ?_
        refine Carries.keep (decodeLedger_only ..) (by decide +kernel) ?_
        exact Carries.refl _
      · refine Carries.then (bootSheds_carries ..) ?_
        refine put_sys_carries (by with_reducible rfl) ?_
        refine Carries.keep (decodeLedger_only ..) (by decide +kernel) ?_
        exact Carries.refl _

theorem bootSupply_carries (s : State) (b : BootIn) : Carries s (bootSupply s b) := by
  unfold bootSupply
  dsimp -proj only
  split
  · refine Carries.then (bootStop_carries (by decide) ..) ?_
    split
    · refine Carries.keep (report_only ..) (by decide +kernel) ?_
      split
      · refine Carries.keep (report_only ..) (by decide +kernel) ?_
        refine put_sys_tp_carries (by with_reducible rfl) (by with_reducible rfl) (by with_reducible rfl) (by with_reducible rfl) ?_
        exact Carries.refl _
      · refine put_sys_tp_carries (by with_reducible rfl) (by with_reducible rfl) (by with_reducible rfl) (by with_reducible rfl) ?_
        exact Carries.refl _
    · split
      · refine Carries.keep (report_only ..) (by decide +kernel) ?_
        refine put_sys_tp_carries (by with_reducible rfl) (by with_reducible rfl) (by with_reducible rfl) (by with_reducible rfl) ?_
        exact Carries.refl _
      · refine put_sys_tp_carries (by with_reducible rfl) (by with_reducible rfl) (by with_reducible rfl) (by with_reducible rfl) ?_
        exact Carries.refl _
  · refine Carries.then (bootLedger_carries ..) ?_
    refine put_sys_carries (by with_reducible rfl) ?_
    split
    · refine Carries.keep (report_only ..) (by decide +kernel) ?_
      split
      · refine Carries.keep (report_only ..) (by decide +kernel) ?_
        refine put_sys_tp_carries (by with_reducible rfl) (by with_reducible rfl) (by with_reducible rfl) (by with_reducible rfl) ?_
        exact Carries.refl _
      · refine put_sys_tp_carries (by with_reducible rfl) (by with_reducible rfl) (by with_reducible rfl) (by with_reducible rfl) ?_
        exact Carries.refl _
    · split
      · refine Carries.keep (report_only ..) (by decide +kernel) ?_
        refine put_sys_tp_carries (by with_reducible rfl) (by with_reducible rfl) (by with_reducible rfl) (by with_reducible rfl) ?_
        exact Carries.refl _
      · refine put_sys_tp_carries (by with_reducible rfl) (by with_reducible rfl) (by with_reducible rfl) (by with_reducible rfl) ?_
        exact Carries.refl _

theorem coldBoot_carries (s : State) (b : BootIn) : Carries s (coldBoot s b) := by
  unfold coldBoot
  dsimp -proj only
  refine Carries.then (bootSupply_carries ..) ?_
  refine put_sys_tp_freeCtr_carries (by with_reducible rfl) (by with_reducible rfl) (by with_reducible rfl) (by with_reducible rfl) ?_
  refine Carries.keep (resumeTime_only ..) (by decide +kernel) ?_
  exact Carries.refl _

/-- A part whose registers are all at reset but for what is kept is sound where the part before was. -/
theorem coldClear_carries (s : State) (vddm : Bool) : Carries s (coldClear s vddm) := by
  have hkept : Carries s (dropWriting s) := Carries.of_only (dropWriting_only ..) (by decide +kernel)
  unfold coldClear
  dsimp -proj only
  refine Carries.keep (fitYard_only ..) (by decide +kernel) (hkept.trans ?_)
  exact Carries.of_clauses (fun _ _ => ⟨rfl, rfl⟩) (fun _ => Nat.zero_le _) id id id rfl

theorem reboot_carries (s : State) (b : BootIn) (clock : Bool) : Carries s (reboot s b clock) := by
  unfold reboot
  dsimp -proj only
  refine Carries.then (coldBoot_carries ..) ?_
  refine put_sys_carries (by with_reducible rfl) ?_
  refine Carries.then (coldClear_carries ..) ?_
  exact Carries.refl _

theorem switchPartial_carries (s : State) (w : PartialPlan) : Carries s (switchPartial s w) := by
  unfold switchPartial
  dsimp -proj only
  refine Carries.keep (recheck_only ..) (by decide +kernel) ?_
  refine Carries.foldl _ (fun t x => ?_) ?_
  · refine Carries.keep (sweepKind_only ..) (by decide +kernel) ?_
    exact Carries.refl _
  · refine Carries.keep (raisePad_only ..) (by decide +kernel) ?_
    refine Carries.then (auditAdd_carries ..) ?_
    refine Carries.keep (journalWrite_only ..) (by decide +kernel) ?_
    refine modPad_carries ?_
    refine Carries.keep (noteSerial_only ..) (by decide +kernel) ?_
    refine put_pl_jn_hl_carries (by with_reducible rfl) (by with_reducible rfl) ?_
    split
    · refine Carries.keep (drawGen_only ..) (by decide +kernel) ?_
      refine Carries.keep (createPaddock_only ..) (by decide +kernel) ?_
      refine Carries.keep (installPartial_only ..) (by decide +kernel) ?_
      split
      · refine Carries.keep (removePaddock_only ..) (by decide +kernel) ?_
        exact Carries.refl _
      · refine Carries.keep (shrinkCache_only ..) (by decide +kernel) ?_
        exact Carries.refl _
    · refine Carries.keep (installPartial_only ..) (by decide +kernel) ?_
      split
      · refine Carries.keep (removePaddock_only ..) (by decide +kernel) ?_
        exact Carries.refl _
      · refine Carries.keep (shrinkCache_only ..) (by decide +kernel) ?_
        exact Carries.refl _

theorem execRefclkLoss_carries (s : State) : Carries s (after s (execRefclkLoss s)) := by
  unfold execRefclkLoss
  dsimp -proj only [after]
  split
  · exact Carries.refl _
  · split
    · split
      · refine Carries.keep (draw_only ..) (by decide +kernel) ?_
        exact Carries.refl _
      · split
        · refine put_sys_port_carries (by with_reducible rfl) ?_
          refine Carries.keep (draw_only ..) (by decide +kernel) ?_
          exact Carries.refl _
        · refine Carries.then (settle_carries ..) ?_
          refine Carries.then (raiseFault_carries ..) ?_
          refine put_sys_port_carries (by with_reducible rfl) ?_
          refine Carries.keep (draw_only ..) (by decide +kernel) ?_
          exact Carries.refl _
    · split
      · dsimp only
        exact Carries.refl _
      · split
        · refine put_sys_port_carries (by with_reducible rfl) ?_
          dsimp only
          exact Carries.refl _
        · refine Carries.then (settle_carries ..) ?_
          refine Carries.then (raiseFault_carries ..) ?_
          refine put_sys_port_carries (by with_reducible rfl) ?_
          dsimp only
          exact Carries.refl _

theorem execTwinPartnerPresent_carries (term : ℕ) (side : Bool) (s : State) : Carries s (after s (execTwinPartnerPresent term side s)) := by
  unfold execTwinPartnerPresent
  dsimp -proj only [after]
  split
  · exact Carries.refl _
  · split
    · refine Carries.then (settle_carries ..) ?_
      refine Carries.then (openGate_carries ..) ?_
      refine put_jn_carries ?_
      refine Carries.keep (yieldTerm_only ..) (by decide +kernel) ?_
      refine Carries.keep (causeEnds_only ..) (by decide +kernel) ?_
      refine put_tt_carries ?_
      exact Carries.refl _
    · split
      · refine put_jn_carries ?_
        refine Carries.keep (remirror_only ..) (by decide +kernel) ?_
        refine Carries.keep (causeEnds_only ..) (by decide +kernel) ?_
        refine put_tt_carries ?_
        exact Carries.refl _
      · refine Carries.keep (causeEnds_only ..) (by decide +kernel) ?_
        refine put_tt_carries ?_
        exact Carries.refl _

theorem execI3cCapSet_carries (capQw : ℕ) (s : State) : Carries s (after s (execI3cCapSet capQw s)) := by
  unfold execI3cCapSet
  dsimp -proj only [after]
  split
  · refine put_en_carries ?_
    split
    · exact Carries.refl _
    · refine Carries.then (settle_carries ..) ?_
      refine Carries.keep (leaveDeepSleep_only ..) (by decide +kernel) ?_
      exact Carries.refl _
  · exact Carries.refl _

theorem execSyReset_carries (fn : ℕ) (value : W64) (s : State) : Carries s (after s (execSyReset fn value s)) := by
  unfold execSyReset
  dsimp -proj only [after]
  split
  · refine Carries.then (settle_carries ..) ?_
    refine Carries.then (warmReset_carries ..) ?_
    exact Carries.refl _
  · exact Carries.refl _

theorem resend_carries (s : State) (lane : ℕ) : Carries s (resend s lane) := by
  unfold resend
  split
  · exact Carries.refl _
  · refine Carries.then (raiseFault_carries ..) ?_
    refine Carries.keep (retransmit_only ..) (by decide +kernel) ?_
    exact Carries.refl _

theorem execTetherRetransmitTimeout_carries (s : State) : Carries s (after s (execTetherRetransmitTimeout s)) := by
  unfold execTetherRetransmitTimeout
  dsimp -proj only [after]
  split
  · refine Carries.then (settle_carries ..) ?_
    refine Carries.then (resend_carries ..) ?_
    refine Carries.keep (draw_only ..) (by decide +kernel) ?_
    exact Carries.refl _
  · exact Carries.refl _

theorem execDbgToken_carries (token : Bytes) (s : State) : Carries s (after s (execDbgToken token s)) := by
  unfold execDbgToken
  dsimp -proj only [after]
  split
  · refine put_sys_dbg_freeCtr_carries (by with_reducible rfl) ?_
    refine Carries.then (auditAdd_carries ..) ?_
    refine Carries.keep (extendYmr_only ..) (by decide +kernel) ?_
    refine Carries.keep (writeDebug_only ..) (by decide +kernel) ?_
    exact Carries.refl _
  · exact Carries.refl _

theorem afterAccept_carries (s : State) : Carries s (afterAccept s) := by
  unfold afterAccept
  refine Carries.then (settle_carries ..) ?_
  refine Carries.foldl _ (fun t x => ?_) ?_
  · refine Carries.keep (sweepKind_only ..) (by decide +kernel) ?_
    exact Carries.refl _
  · exact Carries.refl _

theorem acceptFails_carries (s : State) (j : Job) : Carries s (acceptFails s j) := by
  unfold acceptFails
  dsimp -proj only
  refine Carries.then (raiseFault_carries ..) ?_
  refine Carries.keep (draw_only ..) (by decide +kernel) ?_
  refine Carries.keep (dropEntry_only ..) (by decide +kernel) ?_
  exact Carries.refl _

theorem execGateAccept_carries (queue : ℕ) (written : Bool) (s : State) : Carries s (after s (execGateAccept queue written s)) := by
  unfold execGateAccept
  dsimp -proj only [after]
  split
  · exact Carries.refl _
  · split
    · exact Carries.refl _
    · split
      · refine Carries.then (afterAccept_carries ..) ?_
        refine Carries.keep (acceptEntry_only ..) (by decide +kernel) ?_
        exact Carries.refl _
      · refine Carries.then (settle_carries ..) ?_
        refine Carries.then (acceptFails_carries ..) ?_
        exact Carries.refl _

theorem clockBack_carries (s : State) (boot : BootIn) : Carries s (clockBack s boot) := by
  unfold clockBack
  dsimp -proj only
  split
  · split
    · refine Carries.then (settle_carries ..) ?_
      refine Carries.then (coldBoot_carries ..) ?_
      refine put_sys_carries (by with_reducible rfl) ?_
      exact Carries.refl _
    · refine Carries.then (settle_carries ..) ?_
      refine Carries.then (bootSheds_carries ..) ?_
      exact Carries.refl _
  · split
    · refine put_jn_carries ?_
      exact Carries.refl _
    · exact Carries.refl _

theorem execPllRelock_carries (boot : BootIn) (s : State) : Carries s (after s (execPllRelock boot s)) := by
  unfold execPllRelock
  dsimp -proj only [after]
  split
  · exact Carries.refl _
  · refine Carries.then (clockBack_carries ..) ?_
    refine put_sys_carries (by with_reducible rfl) ?_
    exact Carries.refl _

theorem programRoot_carries (s : State) (t : Bytes) : Carries s (programRoot s t) := by
  unfold programRoot
  split
  · refine Carries.then (t := (conditioned s).2) (Carries.of_clauses id id id id (fun _ h => nomatch h) rfl) ?_
    exact Carries.of_only (conditioned_only ..) (by decide +kernel)
  · exact Carries.refl _

theorem execLcDrained_carries (s : State) : Carries s (after s (execLcDrained s)) := by
  unfold execLcDrained
  dsimp -proj only [after]
  split
  · refine put_lc_carries (by with_reducible rfl) (by with_reducible rfl) (by with_reducible rfl) ?_
    refine Carries.keep (programSlot_only ..) (by decide +kernel) ?_
    refine Carries.keep (eraseSector_only ..) (by decide +kernel) ?_
    refine Carries.then (programRoot_carries ..) ?_
    refine Carries.foldl _ (fun t x => ?_) ?_
    · refine Carries.keep (resetStall_only ..) (by decide +kernel) ?_
      exact Carries.refl _
    · exact Carries.refl _
  · exact Carries.refl _

theorem execFlushComplete_carries (ok0 : Bool) (ok1 : Bool) (deltas : List (ℕ × ℕ)) (raw0 : ℕ) (raw1 : ℕ) (s : State) : Carries s (after s (execFlushComplete ok0 ok1 deltas raw0 raw1 s)) := by
  unfold execFlushComplete
  dsimp -proj only [after]
  split
  · exact Carries.refl _
  · split
    · refine Carries.then (settle_carries ..) ?_
      refine Carries.then (reboot_carries ..) ?_
      refine Carries.keep (storeCap_only ..) (by decide +kernel) ?_
      refine put_jn_carries ?_
      refine Carries.keep (commitFlush_only ..) (by decide +kernel) ?_
      refine Carries.keep (convert_only ..) (by decide +kernel) ?_
      refine Carries.keep (convert_only ..) (by decide +kernel) ?_
      refine Carries.foldl _ (fun t x => ?_) ?_
      · refine Carries.keep (addMeter_only ..) (by decide +kernel) ?_
        exact Carries.refl _
      · exact Carries.refl _
    · split
      · refine Carries.keep (storeCap_only ..) (by decide +kernel) ?_
        refine put_jn_carries ?_
        refine Carries.keep (commitFlush_only ..) (by decide +kernel) ?_
        refine Carries.keep (convert_only ..) (by decide +kernel) ?_
        refine Carries.keep (convert_only ..) (by decide +kernel) ?_
        refine Carries.foldl _ (fun t x => ?_) ?_
        · refine Carries.keep (addMeter_only ..) (by decide +kernel) ?_
          exact Carries.refl _
        · exact Carries.refl _
      · refine put_sys_carries (by with_reducible rfl) ?_
        refine Carries.then (coldClear_carries ..) ?_
        refine Carries.keep (storeCap_only ..) (by decide +kernel) ?_
        refine put_jn_carries ?_
        refine Carries.keep (commitFlush_only ..) (by decide +kernel) ?_
        refine Carries.keep (convert_only ..) (by decide +kernel) ?_
        refine Carries.keep (convert_only ..) (by decide +kernel) ?_
        refine Carries.foldl _ (fun t x => ?_) ?_
        · refine Carries.keep (addMeter_only ..) (by decide +kernel) ?_
          exact Carries.refl _
        · exact Carries.refl _

theorem execHostReadFail_carries (queue : ℕ) (operand : Option ℕ) (core : Option ℕ) (kind : ℕ) (s : State) : Carries s (after s (execHostReadFail queue operand core kind s)) := by
  unfold execHostReadFail
  dsimp -proj only [after]
  refine Carries.then (settle_carries ..) ?_
  split
  · refine Carries.keep (operandFails_only ..) (by decide +kernel) ?_
    exact Carries.refl _
  · refine Carries.keep (imageFails_only ..) (by decide +kernel) ?_
    exact Carries.refl _
  · refine Carries.keep (fetchFails_only ..) (by decide +kernel) ?_
    exact Carries.refl _

theorem execPorstNRise_carries (boot : BootIn) (s : State) : Carries s (after s (execPorstNRise boot s)) := by
  unfold execPorstNRise
  dsimp -proj only [after]
  split
  · exact Carries.refl _
  · refine Carries.then (settle_carries ..) ?_
    refine Carries.then (coldBoot_carries ..) ?_
    exact Carries.refl _

theorem execTetherLaneFail_carries (lane : ℕ) (s : State) : Carries s (after s (execTetherLaneFail lane s)) := by
  unfold execTetherLaneFail
  dsimp -proj only [after]
  split
  · refine Carries.then (settle_carries ..) ?_
    refine Carries.then (raiseFault_carries ..) ?_
    exact Carries.refl _
  · exact Carries.refl _

theorem frameAcked_carries (s : State) (f : Frame) : Carries s (frameAcked s f) := by
  unfold frameAcked
  dsimp -proj only
  split
  · split
    · refine Carries.then (afterAccept_carries ..) ?_
      refine Carries.keep (becomeLive_only ..) (by decide +kernel) ?_
      exact Carries.refl _
    · exact Carries.refl _
  · split
    · split
      · refine Carries.keep (replaysDone_only ..) (by decide +kernel) ?_
        refine Carries.keep (forgetDone_only ..) (by decide +kernel) ?_
        refine Carries.keep (retireSilent_only ..) (by decide +kernel) ?_
        refine Carries.keep (retireHead_only ..) (by decide +kernel) ?_
        exact Carries.refl _
      · exact Carries.refl _
    · exact Carries.refl _
  · split
    · refine Carries.keep (commitRefill_only ..) (by decide +kernel) ?_
      exact Carries.refl _
    · exact Carries.refl _
  · exact Carries.refl _

theorem dropPartner_carries (s : State) : Carries s (dropPartner s) := by
  unfold dropPartner
  dsimp -proj only
  refine Carries.foldl _ (fun t x => ?_) ?_
  · refine Carries.then (frameAcked_carries ..) ?_
    exact Carries.refl _
  · refine put_tt_carries ?_
    exact Carries.refl _

theorem execColdReset_carries (_cause : ℕ) (vddmKept : Bool) (s : State) : Carries s (after s (execColdReset _cause vddmKept s)) := by
  unfold execColdReset
  dsimp -proj only [after]
  refine put_sys_carries (by with_reducible rfl) ?_
  refine Carries.then (coldClear_carries ..) ?_
  exact Carries.refl _

theorem execBootReserveRecheck_carries (boot : BootIn) (s : State) : Carries s (after s (execBootReserveRecheck boot s)) := by
  unfold execBootReserveRecheck
  dsimp -proj only [after]
  split
  · exact Carries.refl _
  · split
    · refine Carries.then (settle_carries ..) ?_
      refine Carries.then (bootReserve_carries ..) ?_
      refine put_sys_carries (by with_reducible rfl) ?_
      exact Carries.refl _
    · split
      · exact Carries.refl _
      · refine Carries.then (settle_carries ..) ?_
        refine Carries.then (warmOpen_carries ..) ?_
        refine put_sys_carries (by with_reducible rfl) ?_
        exact Carries.refl _

theorem execBootPowerFailWaitEnd_carries (boot : BootIn) (s : State) : Carries s (after s (execBootPowerFailWaitEnd boot s)) := by
  unfold execBootPowerFailWaitEnd
  dsimp -proj only [after]
  split
  · refine Carries.then (settle_carries ..) ?_
    refine Carries.then (bootJournal_carries ..) ?_
    refine put_sys_carries (by with_reducible rfl) ?_
    exact Carries.refl _
  · exact Carries.refl _

theorem execPowerFailRise_carries (boot : BootIn) (s : State) : Carries s (after s (execPowerFailRise boot s)) := by
  unfold execPowerFailRise
  dsimp -proj only [after]
  split
  · refine put_sys_carries (by with_reducible rfl) ?_
    exact Carries.refl _
  · split
    · refine Carries.then (settle_carries ..) ?_
      refine Carries.then (reboot_carries ..) ?_
      refine put_sys_carries (by with_reducible rfl) ?_
      exact Carries.refl _
    · refine put_jn_carries ?_
      refine put_sys_carries (by with_reducible rfl) ?_
      exact Carries.refl _

theorem loseClock_carries (s : State) (source : ℕ) (kind : ℕ) : Carries s (loseClock s source kind) := by
  unfold loseClock
  dsimp -proj only
  split
  · exact Carries.refl _
  · split
    · refine Carries.keep (report_only ..) (by decide +kernel) ?_
      exact Carries.refl _
    · split
      · refine Carries.keep (clockLoss_only ..) (by decide +kernel) ?_
        refine Carries.keep (endDeepSleep_only ..) (by decide +kernel) ?_
        exact Carries.refl _
      · refine put_sys_carries (by with_reducible rfl) ?_
        refine Carries.then (coldClear_carries ..) ?_
        refine Carries.keep (report_only ..) (by decide +kernel) ?_
        exact Carries.refl _

theorem execXtal25Loss_carries (s : State) : Carries s (after s (execXtal25Loss s)) := by
  unfold execXtal25Loss
  dsimp -proj only [after]
  split
  · refine Carries.then (loseClock_carries ..) ?_
    refine put_sys_carries (by with_reducible rfl) ?_
    exact Carries.refl _
  · exact Carries.refl _

theorem execXtal25Restore_carries (boot : BootIn) (s : State) : Carries s (after s (execXtal25Restore boot s)) := by
  unfold execXtal25Restore
  dsimp -proj only [after]
  split
  · exact Carries.refl _
  · refine Carries.then (clockBack_carries ..) ?_
    refine put_sys_carries (by with_reducible rfl) ?_
    exact Carries.refl _

theorem execWarmReset_carries (cause : ℕ) (s : State) : Carries s (after s (execWarmReset cause s)) := by
  unfold execWarmReset
  dsimp -proj only [after]
  refine Carries.then (settle_carries ..) ?_
  refine Carries.then (warmReset_carries ..) ?_
  exact Carries.refl _

theorem execSyPaddockReset_carries (fn : ℕ) (value : W64) (s : State) : Carries s (after s (execSyPaddockReset fn value s)) := by
  unfold execSyPaddockReset
  dsimp -proj only [after]
  split
  · refine Carries.then (settle_carries ..) ?_
    refine Carries.keep (paddockReset_only ..) (by decide +kernel) ?_
    exact Carries.refl _
  · exact Carries.refl _

theorem startJob_carries (s : State) (n : ℕ) (j : Job) : Carries s (startJob s n j) := by
  unfold startJob
  dsimp -proj only
  split
  · refine modSt_carries ?_
    refine Carries.keep (modJob_only ..) (by decide +kernel) ?_
    exact Carries.refl _
  · refine Carries.then (raiseFault_carries ..) ?_
    refine modSt_carries ?_
    refine Carries.keep (modJob_only ..) (by decide +kernel) ?_
    exact Carries.refl _

theorem dispatch_carries (s : State) (n : ℕ) : Carries s (dispatch s n) := by
  unfold dispatch
  dsimp -proj only
  split
  · split
    · refine Carries.keep (startTree_only ..) (by decide +kernel) ?_
      exact Carries.refl _
    · exact Carries.refl _
  · split
    · refine modPad_carries ?_
      refine Carries.keep (workFor_only ..) (by decide +kernel) ?_
      exact Carries.refl _
    · split
      · refine modSt_carries ?_
        refine Carries.keep (startMuck_only ..) (by decide +kernel) ?_
        refine Carries.keep (workFor_only ..) (by decide +kernel) ?_
        exact Carries.refl _
      · refine Carries.then (startJob_carries ..) ?_
        refine Carries.keep (workFor_only ..) (by decide +kernel) ?_
        exact Carries.refl _

theorem execDispatch_carries (stall : ℕ) (s : State) : Carries s (after s (execDispatch stall s)) := by
  unfold execDispatch
  dsimp -proj only [after]
  split
  · refine Carries.then (dispatch_carries ..) ?_
    exact Carries.refl _
  · exact Carries.refl _

theorem execStallSafePoint_carries (stall : ℕ) (commit : Bool) (checkpoint : Bool) (output : Bool) (position : ℕ) (s : State) : Carries s (after s (execStallSafePoint stall commit checkpoint output position s)) := by
  unfold execStallSafePoint
  dsimp -proj only [after]
  split
  · refine Carries.then (settle_carries ..) ?_
    refine Carries.keep (sample_only ..) (by decide +kernel) ?_
    refine Carries.keep (setJobs_only ..) (by decide +kernel) ?_
    exact Carries.refl _
  · exact Carries.refl _

theorem execI3cIdentityRead_carries (index : ℕ) (s : State) : Carries s (after s (execI3cIdentityRead index s)) := by
  unfold execI3cIdentityRead
  dsimp -proj only [after]
  split
  · refine Carries.keep (emit_only ..) (by decide +kernel) ?_
    refine Carries.then (settle_carries ..) ?_
    refine Carries.keep (leaveDeepSleep_only ..) (by decide +kernel) ?_
    split
    · refine Carries.keep (draw_only ..) (by decide +kernel) ?_
      exact Carries.refl _
    · dsimp only
      exact Carries.refl _
  · exact Carries.refl _

theorem execDeepSleepExit_carries (trigger : ℕ) (s : State) : Carries s (after s (execDeepSleepExit trigger s)) := by
  unfold execDeepSleepExit
  dsimp -proj only [after]
  split
  · exact Carries.refl _
  · refine Carries.then (settle_carries ..) ?_
    refine Carries.keep (leaveDeepSleep_only ..) (by decide +kernel) ?_
    split
    · refine put_port_carries ?_
      exact Carries.refl _
    · exact Carries.refl _

theorem execJournalScrub_carries (bank : ℕ) (corrected : Option ℕ) (s : State) : Carries s (after s (execJournalScrub bank corrected s)) := by
  unfold execJournalScrub
  dsimp -proj only [after]
  split
  · split
    · refine Carries.then (settle_carries ..) ?_
      refine Carries.then (raiseFault_carries ..) ?_
      refine Carries.keep (rowMended_only ..) (by decide +kernel) ?_
      exact Carries.refl _
    · exact Carries.refl _
  · exact Carries.refl _

theorem execPartialSwitch_carries (s : State) : Carries s (after s (execPartialSwitch s)) := by
  unfold execPartialSwitch
  dsimp -proj only [after]
  split
  · split
    · refine Carries.then (settle_carries ..) ?_
      refine Carries.then (switchPartial_carries ..) ?_
      exact Carries.refl _
    · exact Carries.refl _
  · exact Carries.refl _

theorem execPlApply_carries (fn : ℕ) (value : W64) (s : State) : Carries s (after s (execPlApply fn value s)) := by
  unfold execPlApply
  dsimp -proj only [after]
  split
  · exact Carries.refl _
  · split
    · refine Carries.keep (plErr_only ..) (by decide +kernel) ?_
      exact Carries.refl _
    · refine Carries.then (auditAdd_carries ..) ?_
      refine put_pl_carries ?_
      exact Carries.refl _

theorem execPlApplyDrained_carries (s : State) : Carries s (after s (execPlApplyDrained s)) := by
  unfold execPlApplyDrained
  dsimp -proj only [after]
  split
  · refine Carries.then (settle_carries ..) ?_
    refine Carries.then (warmReset_carries ..) ?_
    refine Carries.keep (preferStored_only ..) (by decide +kernel) ?_
    exact Carries.refl _
  · exact Carries.refl _

theorem execLedgerProgramDone_carries (s : State) : Carries s (after s (execLedgerProgramDone s)) := by
  unfold execLedgerProgramDone
  dsimp -proj only [after]
  split
  · refine Carries.keep (requireReset_only ..) (by decide +kernel) ?_
    refine Carries.then (auditAdd_carries ..) ?_
    refine put_lc_carries (by with_reducible rfl) (by with_reducible rfl) (by with_reducible rfl) ?_
    exact Carries.refl _
  · exact Carries.refl _

theorem complete_carries (s : State) (t : Bytes) : Carries s (complete s t) := by
  unfold complete
  split
  · refine Carries.keep (lcErr_only ..) (by decide +kernel) ?_
    exact Carries.refl _
  · split
    · refine Carries.keep (lcErr_only ..) (by decide +kernel) ?_
      exact Carries.refl _
    · split
      · refine Carries.keep (lcErr_only ..) (by decide +kernel) ?_
        exact Carries.refl _
      · refine Carries.keep (requireReset_only ..) (by decide +kernel) ?_
        refine Carries.then (auditAdd_carries ..) ?_
        refine Carries.keep (completeLedger_only ..) (by decide +kernel) ?_
        refine Carries.keep (lcErr_only ..) (by decide +kernel) ?_
        split
        · exact Carries.refl _
        · refine Carries.then (programRoot_carries ..) ?_
          exact Carries.refl _

theorem execLcComplete_carries (fn : ℕ) (token : Bytes) (s : State) : Carries s (after s (execLcComplete fn token s)) := by
  unfold execLcComplete
  dsimp -proj only [after]
  split
  · refine Carries.then (complete_carries ..) ?_
    exact Carries.refl _
  · exact Carries.refl _

theorem execI3cTokenMailbox_carries (complete : Bool) (token : Bytes) (s : State) : Carries s (after s (execI3cTokenMailbox complete token s)) := by
  unfold execI3cTokenMailbox
  dsimp -proj only [after]
  split
  · exact Carries.refl _
  · split
    · split
      · refine Carries.then (complete_carries ..) ?_
        exact Carries.refl _
      · exact Carries.refl _
    · split
      · refine Carries.keep (startTransition_only ..) (by decide +kernel) ?_
        exact Carries.refl _
      · exact Carries.refl _

theorem execTwinWaitTimeout_carries (_boot : BootIn) (s : State) : Carries s (after s (execTwinWaitTimeout _boot s)) := by
  unfold execTwinWaitTimeout
  dsimp -proj only [after]
  split
  · refine Carries.then (settle_carries ..) ?_
    refine Carries.then (openGate_carries ..) ?_
    refine put_jn_tt_carries ?_
    refine Carries.keep (serveBoth_only ..) (by decide +kernel) ?_
    exact Carries.refl _
  · exact Carries.refl _

theorem failover_carries (s : State) : Carries s (failover s) := by
  unfold failover
  dsimp -proj only
  refine Carries.keep (recheck_only ..) (by decide +kernel) ?_
  refine Carries.keep (adoptQueues_only ..) (by decide +kernel) ?_
  refine Carries.keep (adoptKeys_only ..) (by decide +kernel) ?_
  refine Carries.keep (adoptRecords_only ..) (by decide +kernel) ?_
  refine Carries.keep (kindEnds_only ..) (by decide +kernel) ?_
  refine Carries.keep (raiseEach_only ..) (by decide +kernel) ?_
  refine Carries.keep (report_only ..) (by decide +kernel) ?_
  refine Carries.keep (journalWrite_only ..) (by decide +kernel) ?_
  refine Carries.then (dropPartner_carries ..) ?_
  refine put_jn_tt_carries ?_
  exact Carries.refl _

theorem execTwinPartnerFailed_carries (s : State) : Carries s (after s (execTwinPartnerFailed s)) := by
  unfold execTwinPartnerFailed
  dsimp -proj only [after]
  split
  · refine Carries.then (settle_carries ..) ?_
    refine Carries.foldl _ (fun t x => ?_) ?_
    · refine Carries.keep (sweepKind_only ..) (by decide +kernel) ?_
      exact Carries.refl _
    · refine Carries.then (failover_carries ..) ?_
      exact Carries.refl _
  · exact Carries.refl _

theorem execTwinLanesLost_carries (s : State) : Carries s (after s (execTwinLanesLost s)) := by
  unfold execTwinLanesLost
  dsimp -proj only [after]
  split
  · refine Carries.then (settle_carries ..) ?_
    refine Carries.keep (lanesLost_only ..) (by decide +kernel) ?_
    exact Carries.refl _
  · exact Carries.refl _

theorem ackUpTo_carries (s : State) (n : ℕ) : Carries s (ackUpTo s n) := by
  unfold ackUpTo
  dsimp -proj only
  refine Carries.foldl _ (fun t x => ?_) ?_
  · refine Carries.then (frameAcked_carries ..) ?_
    exact Carries.refl _
  · refine put_tt_carries ?_
    exact Carries.refl _

theorem takeAck_carries (s : State) (f : Frame) : Carries s (takeAck s f) := by
  unfold takeAck
  dsimp -proj only
  split
  · refine Carries.then (resend_carries ..) ?_
    refine Carries.then (ackUpTo_carries ..) ?_
    exact Carries.refl _
  · refine Carries.then (ackUpTo_carries ..) ?_
    exact Carries.refl _

theorem execTetherFrameReceive_carries (frame : Frame) (s : State) : Carries s (after s (execTetherFrameReceive frame s)) := by
  unfold execTetherFrameReceive
  dsimp -proj only [after]
  split
  · exact Carries.refl _
  · split
    · refine Carries.keep (emit_only ..) (by decide +kernel) ?_
      exact Carries.refl _
    · split
      · refine Carries.then (settle_carries ..) ?_
        refine Carries.then (takeAck_carries ..) ?_
        exact Carries.refl _
      · split
        · refine Carries.keep (sendAck_only ..) (by decide +kernel) ?_
          exact Carries.refl _
        · refine Carries.then (settle_carries ..) ?_
          refine Carries.keep (sendAck_only ..) (by decide +kernel) ?_
          refine Carries.keep (deliver_only ..) (by decide +kernel) ?_
          refine put_tt_carries ?_
          exact Carries.refl _

theorem execSelftestDone_carries (pass : Bool) (s : State) : Carries s (after s (execSelftestDone pass s)) := by
  unfold execSelftestDone
  dsimp -proj only [after]
  split
  · exact Carries.refl _
  · split
    · exact Carries.refl _
    · split
      · refine Carries.keep (startMuck_only ..) (by decide +kernel) ?_
        refine put_fc_carries ?_
        refine Carries.keep (sourceEnds_only ..) (by decide +kernel) ?_
        refine modSt_carries ?_
        refine put_fc_carries ?_
        exact Carries.refl _
      · refine Carries.then (settle_carries ..) ?_
        refine Carries.then (raiseFault_carries ..) ?_
        refine put_fc_carries ?_
        refine put_fc_carries ?_
        exact Carries.refl _

theorem execMuckoutDone_carries (stall : ℕ) (zero : Bool) (s : State) : Carries s (after s (execMuckoutDone stall zero s)) := by
  unfold execMuckoutDone
  dsimp -proj only [after]
  split
  · refine Carries.then (settle_carries ..) ?_
    split
    · refine Carries.keep (muckPassed_only ..) (by decide +kernel) ?_
      exact Carries.refl _
    · split
      · refine Carries.then (raiseFault_carries ..) ?_
        exact Carries.refl _
      · refine modSt_carries ?_
        exact Carries.refl _
  · exact Carries.refl _

theorem execVddAonPowerOn_carries (boot : BootIn) (s : State) : Carries s (after s (execVddAonPowerOn boot s)) := by
  unfold execVddAonPowerOn
  dsimp -proj only [after]
  split
  · exact Carries.refl _
  · refine Carries.then (settle_carries ..) ?_
    refine Carries.then (coldBoot_carries ..) ?_
    exact Carries.refl _

theorem releasesAlarm_carries {s x : State} {v0 : Tack} {v1 : Tamper} (halarm : v1.alarm = 0) (hresponse : v1.response = 0)
    (h : Carries s x) : Carries s { x with tk := v0, tp := v1 } :=
  h.trans (Carries.of_clauses (fun _ _ => ⟨halarm, hresponse⟩) id id id id rfl)

theorem releaseAlarm_carries (s : State) : Carries s (releaseAlarm s) := by
  unfold releaseAlarm
  dsimp -proj only
  refine Carries.keep (rederive_only ..) (by decide +kernel) ?_
  refine Carries.keep (recheck_only ..) (by decide +kernel) ?_
  split
  · refine Carries.keep (loseKeyless_only ..) (by decide +kernel) ?_
    refine Carries.then (auditAdd_carries ..) ?_
    refine releasesAlarm_carries (by with_reducible rfl) (by rfl) ?_
    refine Carries.keep (dropFlush_only ..) (by decide +kernel) ?_
    exact Carries.refl _
  · refine Carries.then (auditAdd_carries ..) ?_
    refine releasesAlarm_carries (by with_reducible rfl) (by rfl) ?_
    refine Carries.keep (dropFlush_only ..) (by decide +kernel) ?_
    exact Carries.refl _

theorem endStartup_carries (s : State) (passed : ℕ) (kat : Bool) : Carries s (endStartup s passed kat) := by
  unfold endStartup
  dsimp -proj only
  split
  · exact Carries.refl _
  · refine Carries.then (settle_carries ..) ?_
    split
    · refine Carries.then (bootOpen_carries ..) ?_
      refine Carries.keep (runStartup_only ..) (by decide +kernel) ?_
      exact Carries.refl _
    · refine Carries.keep (runStartup_only ..) (by decide +kernel) ?_
      exact Carries.refl _

theorem execTamperTripDeepSleep_carries (source : ℕ) (high : Bool) (s : State) : Carries s (after s (execTamperTripDeepSleep source high s)) := by
  unfold execTamperTripDeepSleep
  dsimp -proj only [after]
  split
  · refine Carries.then (settle_carries ..) ?_
    refine Carries.keep (rederive_only ..) (by decide +kernel) ?_
    refine Carries.keep (alarmActs_only ..) (by decide +kernel) ?_
    refine put_tp_carries (by with_reducible rfl) (by with_reducible rfl) (by with_reducible rfl) ?_
    refine Carries.keep (leaveDeepSleep_only ..) (by decide +kernel) ?_
    refine Carries.keep (scrambleTack_only ..) (by decide +kernel) ?_
    refine Carries.keep (setLive_only ..) (by decide +kernel) ?_
    refine Carries.then (latchAlarm_carries ..) ?_
    exact Carries.refl _
  · exact Carries.refl _

theorem takeClear_carries (s : State) : Carries s (takeClear s) := by
  unfold takeClear
  dsimp -proj only
  split
  · refine Carries.then (releaseAlarm_carries ..) ?_
    refine Carries.keep (tpErr_only ..) (by decide +kernel) ?_
    refine put_dbg_freeCtr_carries ?_
    exact Carries.refl _
  · refine Carries.keep (tpErr_only ..) (by decide +kernel) ?_
    refine put_dbg_freeCtr_carries ?_
    exact Carries.refl _

theorem execTkRestore_carries (s : State) : Carries s (after s (execTkRestore s)) := by
  unfold execTkRestore
  dsimp -proj only [after]
  split
  · refine Carries.then (settle_carries ..) ?_
    refine Carries.keep (retireSilents_only ..) (by decide +kernel) ?_
    refine Carries.foldl _ (fun t x => ?_) ?_
    · refine Carries.keep (loseJob_only ..) (by decide +kernel) ?_
      exact Carries.refl _
    · refine put_tk_carries ?_
      refine Carries.foldl _ (fun t x => ?_) ?_
      · refine Carries.keep (restoreSlot_only ..) (by decide +kernel) ?_
        exact Carries.refl _
      · exact Carries.refl _
  · exact Carries.refl _

theorem readOutcome_carries (s : State) (n : ℕ) (b : ℕ) (corrected : ℕ) (bad : Bool) (lost : Option ℕ) : Carries s (readOutcome s n b corrected bad lost) := by
  unfold readOutcome
  dsimp -proj only
  split
  · split
    · refine Carries.keep (loseObject_only ..) (by decide +kernel) ?_
      refine Carries.then (raiseFault_carries ..) ?_
      refine Carries.keep (fillFresh_only ..) (by decide +kernel) ?_
      refine Carries.keep (retireBlock_only ..) (by decide +kernel) ?_
      refine Carries.keep (modBlock_only ..) (by decide +kernel) ?_
      exact Carries.refl _
    · refine Carries.then (raiseFault_carries ..) ?_
      refine Carries.keep (fillFresh_only ..) (by decide +kernel) ?_
      refine Carries.keep (retireBlock_only ..) (by decide +kernel) ?_
      refine Carries.keep (modBlock_only ..) (by decide +kernel) ?_
      exact Carries.refl _
  · split
    · refine Carries.then (raiseFault_carries ..) ?_
      refine Carries.keep (moveBlock_only ..) (by decide +kernel) ?_
      refine Carries.keep (modBlock_only ..) (by decide +kernel) ?_
      exact Carries.refl _
    · refine Carries.keep (modBlock_only ..) (by decide +kernel) ?_
      exact Carries.refl _

theorem execHayloftScrub_carries (target : ℕ) (block : ℕ) (corrected : ℕ) (uncorrectable : Bool) (lost : Option ℕ) (s : State) : Carries s (after s (execHayloftScrub target block corrected uncorrectable lost s)) := by
  unfold execHayloftScrub
  dsimp -proj only [after]
  split
  · refine Carries.then (settle_carries ..) ?_
    refine Carries.then (readOutcome_carries ..) ?_
    exact Carries.refl _
  · exact Carries.refl _

theorem execBlobLoadDone_carries (seq : ℕ) (read0 : Bool) (read1 : Bool) (s : State) : Carries s (after s (execBlobLoadDone seq read0 read1 s)) := by
  unfold execBlobLoadDone
  dsimp -proj only [after]
  split
  · exact Carries.refl _
  · split
    · refine Carries.then (settle_carries ..) ?_
      refine Carries.foldl _ (fun t x => ?_) ?_
      · refine Carries.keep (loadBlob_only ..) (by decide +kernel) ?_
        exact Carries.refl _
      · exact Carries.refl _
    · exact Carries.refl _

theorem tripNow_carries (s : State) (source : ℕ) : Carries s (tripNow s source) := by
  unfold tripNow
  dsimp -proj only
  refine Carries.keep (alarmActs_only ..) (by decide +kernel) ?_
  refine Carries.keep (setLive_only ..) (by decide +kernel) ?_
  refine Carries.then (latchAlarm_carries ..) ?_
  exact Carries.refl _

theorem execTamperTrip_carries (source : ℕ) (high : Bool) (s : State) : Carries s (after s (execTamperTrip source high s)) := by
  unfold execTamperTrip
  dsimp -proj only [after]
  split
  · refine Carries.then (settle_carries ..) ?_
    refine Carries.then (tripNow_carries ..) ?_
    exact Carries.refl _
  · exact Carries.refl _

theorem enterRaw_carries (s : State) (sel : ℕ) : Carries s (enterRaw s sel) := by
  unfold enterRaw
  dsimp -proj only
  refine Carries.keep (recheck_only ..) (by decide +kernel) ?_
  refine Carries.then (auditAdd_carries ..) ?_
  refine put_rng_carries ?_
  exact Carries.refl _

theorem takeFault_carries (s : State) (source : ℕ) (kind : ℕ) (charged : Bool) (pad : ℕ) (detail : ℕ) : Carries s (takeFault s source kind charged pad detail) := by
  unfold takeFault
  dsimp -proj only
  split
  · refine Carries.keep (report_only ..) (by decide +kernel) ?_
    exact Carries.refl _
  · split
    · split
      · refine Carries.keep (report_only ..) (by decide +kernel) ?_
        exact Carries.refl _
      · refine Carries.keep (stopSource_only ..) (by decide +kernel) ?_
        exact Carries.refl _
    · refine Carries.then (loseClock_carries ..) ?_
      refine put_sys_carries (by with_reducible rfl) ?_
      exact Carries.refl _
    · refine Carries.then (raiseFault_carries ..) ?_
      refine put_sys_port_carries (by with_reducible rfl) ?_
      exact Carries.refl _
    · refine Carries.then (loseClock_carries ..) ?_
      refine put_sys_carries (by with_reducible rfl) ?_
      exact Carries.refl _
    · refine Carries.keep (report_only ..) (by decide +kernel) ?_
      refine put_pl_tt_carries ?_
      exact Carries.refl _
    · refine Carries.keep (report_only ..) (by decide +kernel) ?_
      refine put_tt_carries ?_
      exact Carries.refl _
    · split
      · refine Carries.foldl _ (fun t x => ?_) ?_
        · refine Carries.keep (sweepKind_only ..) (by decide +kernel) ?_
          exact Carries.refl _
        · refine Carries.then (failover_carries ..) ?_
          exact Carries.refl _
      · refine Carries.keep (report_only ..) (by decide +kernel) ?_
        exact Carries.refl _
    · refine Carries.then (raiseFault_carries ..) ?_
      exact Carries.refl _

theorem execFaultReport_carries (message : W64) (s : State) : Carries s (after s (execFaultReport message s)) := by
  unfold execFaultReport
  dsimp -proj only [after]
  split
  · refine Carries.then (settle_carries ..) ?_
    refine Carries.then (takeFault_carries ..) ?_
    refine Carries.keep (leaveDeepSleep_only ..) (by decide +kernel) ?_
    exact Carries.refl _
  · exact Carries.refl _

theorem execEscalationExpiry_carries (source : ℕ) (kind : ℕ) (s : State) : Carries s (after s (execEscalationExpiry source kind s)) := by
  unfold execEscalationExpiry
  dsimp -proj only [after]
  split
  · exact Carries.refl _
  · split
    · exact Carries.refl _
    · split
      · refine put_fc_carries ?_
        exact Carries.refl _
      · refine Carries.then (settle_carries ..) ?_
        refine Carries.then (escalateUnit_carries ..) ?_
        refine Carries.keep (modOut_only ..) (by decide +kernel) ?_
        exact Carries.refl _

theorem appendFaults_carries (s : State) (l : List (ℕ × ℕ × ℕ)) : Carries s (appendFaults s l) :=
  Carries.faultLog (length_drop_overflow ..)

theorem execFaultLogAppend_carries (s : State) : Carries s (after s (execFaultLogAppend s)) := by
  unfold execFaultLogAppend
  dsimp -proj only [after]
  split
  · refine put_fc_carries ?_
    refine Carries.then (appendFaults_carries ..) ?_
    exact Carries.refl _
  · exact Carries.refl _

theorem execRngHealthFail_carries (group : ℕ) (apt : Bool) (s : State) : Carries s (after s (execRngHealthFail group apt s)) := by
  unfold execRngHealthFail
  dsimp -proj only [after]
  split
  · exact Carries.refl _
  · split
    · split
      · refine Carries.then (settle_carries ..) ?_
        refine Carries.then (raiseFault_carries ..) ?_
        refine put_rng_carries ?_
        exact Carries.refl _
      · refine put_rng_carries ?_
        exact Carries.refl _
    · split
      · refine Carries.then (settle_carries ..) ?_
        refine Carries.then (raiseFault_carries ..) ?_
        refine put_rng_carries ?_
        exact Carries.refl _
      · refine put_rng_carries ?_
        exact Carries.refl _

theorem execRngStartupDone_carries (passed : ℕ) (kat : Bool) (s : State) : Carries s (after s (execRngStartupDone passed kat s)) := by
  unfold execRngStartupDone
  dsimp -proj only [after]
  refine Carries.then (endStartup_carries ..) ?_
  exact Carries.refl _

theorem execRngStartupRetry_carries (passed : ℕ) (kat : Bool) (s : State) : Carries s (after s (execRngStartupRetry passed kat s)) := by
  unfold execRngStartupRetry
  dsimp -proj only [after]
  split
  · exact Carries.refl _
  · refine Carries.then (endStartup_carries ..) ?_
    exact Carries.refl _

theorem execRawEnter_carries (fn : ℕ) (value : W64) (token : Bytes) (s : State) : Carries s (after s (execRawEnter fn value token s)) := by
  unfold execRawEnter
  dsimp -proj only [after]
  split
  · exact Carries.refl _
  · split
    · refine Carries.keep (rnErr_only ..) (by decide +kernel) ?_
      exact Carries.refl _
    · split
      · refine Carries.then (enterRaw_carries ..) ?_
        exact Carries.refl _
      · split
        · split
          · refine Carries.then (enterRaw_carries ..) ?_
            refine put_dbg_freeCtr_carries ?_
            exact Carries.refl _
          · refine Carries.keep (rnErr_only ..) (by decide +kernel) ?_
            exact Carries.refl _
        · refine Carries.keep (rnErr_only ..) (by decide +kernel) ?_
          exact Carries.refl _

theorem execTamperTripAtBoot_carries (source : ℕ) (high : Bool) (s : State) : Carries s (after s (execTamperTripAtBoot source high s)) := by
  unfold execTamperTripAtBoot
  dsimp -proj only [after]
  split
  · refine Carries.keep (setLive_only ..) (by decide +kernel) ?_
    refine Carries.then (bootTamper_carries ..) ?_
    exact Carries.refl _
  · exact Carries.refl _

theorem execTamperClear_carries (fn : ℕ) (value : W64) (token : Bytes) (s : State) : Carries s (after s (execTamperClear fn value token s)) := by
  unfold execTamperClear
  dsimp -proj only [after]
  split
  · exact Carries.refl _
  · split
    · refine Carries.keep (tpErr_only ..) (by decide +kernel) ?_
      exact Carries.refl _
    · split
      · refine Carries.keep (tpErr_only ..) (by decide +kernel) ?_
        exact Carries.refl _
      · split
        · refine Carries.keep (tpErr_only ..) (by decide +kernel) ?_
          exact Carries.refl _
        · refine Carries.then (settle_carries ..) ?_
          refine Carries.then (takeClear_carries ..) ?_
          exact Carries.refl _

theorem execNandReadDone_carries (target : ℕ) (block : ℕ) (corrected : ℕ) (uncorrectable : Bool) (lost : Option ℕ) (s : State) : Carries s (after s (execNandReadDone target block corrected uncorrectable lost s)) := by
  unfold execNandReadDone
  dsimp -proj only [after]
  split
  · refine Carries.then (settle_carries ..) ?_
    refine Carries.then (readOutcome_carries ..) ?_
    exact Carries.refl _
  · exact Carries.refl _

theorem execNandStatusFail_carries (target : ℕ) (block : ℕ) (erase : Bool) (s : State) : Carries s (after s (execNandStatusFail target block erase s)) := by
  unfold execNandStatusFail
  dsimp -proj only [after]
  split
  · refine Carries.then (settle_carries ..) ?_
    refine Carries.then (raiseFault_carries ..) ?_
    split
    · refine Carries.keep (retireBlock_only ..) (by decide +kernel) ?_
      exact Carries.refl _
    · refine Carries.keep (fillFresh_only ..) (by decide +kernel) ?_
      refine Carries.keep (retireBlock_only ..) (by decide +kernel) ?_
      exact Carries.refl _
  · exact Carries.refl _

theorem execNandTargetTimeout_carries (target : ℕ) (statusRead : Bool) (s : State) : Carries s (after s (execNandTargetTimeout target statusRead s)) := by
  unfold execNandTargetTimeout
  dsimp -proj only [after]
  split
  · exact Carries.refl _
  · split
    · refine Carries.keep (modTarget_only ..) (by decide +kernel) ?_
      exact Carries.refl _
    · refine Carries.then (settle_carries ..) ?_
      refine Carries.then (raiseFault_carries ..) ?_
      exact Carries.refl _

theorem execute_carries {s : State} {seq op : ℕ} {inp : OpInput} {need : State → Job → ℕ × ℕ} {f : State → Job → OpIn → State}
    (hf : ∀ t j i, Carries t (f t j i)) : Carries s (execute s seq op inp need f) := by
  have taken (j : Job) : Carries s (takeInputs s j) := Carries.of_only (takeInputs_only ..) (by decide +kernel)
  have finished (t : State) (r : Result) : Carries t (finishJob t seq r) := Carries.of_only (finishJob_only ..) (by decide +kernel)
  unfold execute
  split
  · exact Carries.refl _
  · dsimp -proj only
    split
    · exact finished ..
    · split
      · exact taken _
      · split
        · exact taken _
        · exact (taken _).trans (finished ..)
        · split
          · exact Carries.keep (nextPhase_only ..) (by decide +kernel) (taken _)
          · exact (taken _).trans (hf ..)

theorem withPrivate_carries {s t : State} {j : Job} {c : ℕ} {f : Bytes → State} (h : Carries t s) (hf : ∀ b, Carries t (f b)) :
    Carries t (withPrivate s j c f) := by
  unfold withPrivate
  dsimp -proj only
  split
  · exact hf _
  · exact h.trans ((settle_carries _).then (raiseFault_carries ..))

theorem execOpRsaSign_carries (seq : ℕ) (inp : OpInput) (s : State) : Carries s (after s (execOpRsaSign seq inp s)) := by
  unfold execOpRsaSign
  dsimp -proj only [after]
  refine execute_carries ?_
  intro _ _ _
  refine withPrivate_carries ?_ ?_
  · exact Carries.refl _
  · intro _
    refine Carries.keep (ends_only ..) (by decide +kernel) ?_
    exact Carries.refl _

theorem execOpRsaDecrypt_carries (seq : ℕ) (inp : OpInput) (s : State) : Carries s (after s (execOpRsaDecrypt seq inp s)) := by
  unfold execOpRsaDecrypt
  dsimp -proj only [after]
  refine execute_carries ?_
  intro _ _ _
  split
  · refine Carries.keep (ends_only ..) (by decide +kernel) ?_
    exact Carries.refl _
  · refine withPrivate_carries ?_ ?_
    · exact Carries.refl _
    · intro _
      split
      · refine Carries.keep (ends_only ..) (by decide +kernel) ?_
        exact Carries.refl _
      · refine Carries.keep (ends_only ..) (by decide +kernel) ?_
        exact Carries.refl _


/-! ## A step -/

/-- Each command carries what is vital. -/
theorem exec_carries (c : Instr) (s : State) : Carries s (after s (exec c s)) := by
  cases c with
  | coldReset cause vddmKept => exact execColdReset_carries cause vddmKept s
  | porstNRise => exact execPorstNRise_carries ..
  | bootReserveRecheck => exact execBootReserveRecheck_carries ..
  | bootPowerFailWaitEnd => exact execBootPowerFailWaitEnd_carries ..
  | powerFailFlush => exact Carries.of_only (execPowerFailFlush_only ..) (by decide +kernel)
  | flushComplete => exact execFlushComplete_carries ..
  | powerFailRise => exact execPowerFailRise_carries ..
  | xtal25Loss => exact execXtal25Loss_carries ..
  | xtal25Restore => exact execXtal25Restore_carries ..
  | syReset => exact execSyReset_carries ..
  | warmReset => exact execWarmReset_carries ..
  | syPaddockReset => exact execSyPaddockReset_carries ..
  | hostInterfaceReset => exact Carries.of_only (execHostInterfaceReset_only ..) (by decide +kernel)
  | configRequest => exact Carries.of_only (execConfigRequest_only ..) (by decide +kernel)
  | functionLevelReset => exact Carries.of_only (execFunctionLevelReset_only ..) (by decide +kernel)
  | vfEnableClear => exact Carries.of_only (execVfEnableClear_only ..) (by decide +kernel)
  | vfEnable => exact Carries.of_only (execVfEnable_only ..) (by decide +kernel)
  | busMasterEnableSet => exact Carries.of_only (execBusMasterEnableSet_only ..) (by decide +kernel)
  | d3hotEntry => exact Carries.of_only (execD3hotEntry_only ..) (by decide +kernel)
  | d0Return => exact Carries.of_only (execD0Return_only ..) (by decide +kernel)
  | msixEnableSet => exact Carries.of_only (execMsixEnableSet_only ..) (by decide +kernel)
  | vectorUnmask => exact Carries.of_only (execVectorUnmask_only ..) (by decide +kernel)
  | hiVecModWrite => exact Carries.of_only (execHiVecModWrite_only ..) (by decide +kernel)
  | vectorTimerExpiry => exact Carries.of_only (execVectorTimerExpiry_only ..) (by decide +kernel)
  | wakeCountExpiry => exact Carries.of_only (execWakeCountExpiry_only ..) (by decide +kernel)
  | aspmL1Entry => exact Carries.of_only (execAspmL1Entry_only ..) (by decide +kernel)
  | refclkLoss => exact execRefclkLoss_carries ..
  | linkReturn => exact Carries.of_only (execLinkReturn_only ..) (by decide +kernel)
  | poisonedWrite => exact Carries.of_only (execPoisonedWrite_only ..) (by decide +kernel)
  | barAccessInvalid => exact Carries.of_only (execBarAccessInvalid_only ..) (by decide +kernel)
  | bar4WindowAccess => exact Carries.of_only (execBar4WindowAccess_only ..) (by decide +kernel)
  | feedWindowWrite => exact Carries.of_only (execFeedWindowWrite_only ..) (by decide +kernel)
  | multiwordRead => exact Carries.of_only (execMultiwordRead_only ..) (by decide +kernel)
  | registerWrite => exact Carries.of_only (execRegisterWrite_only ..) (by decide +kernel)
  | doorbellWrite => exact Carries.of_only (execDoorbellWrite_only ..) (by decide +kernel)
  | descriptorFetchDone => exact Carries.of_only (execDescriptorFetchDone_only ..) (by decide +kernel)
  | hostReadFail => exact execHostReadFail_carries ..
  | gateEvaluate => exact Carries.of_only (execGateEvaluate_only ..) (by decide +kernel)
  | deferredReevaluate => exact Carries.of_only (execDeferredReevaluate_only ..) (by decide +kernel)
  | gateAccept => exact execGateAccept_carries ..
  | refillCommit => exact Carries.of_only (execRefillCommit_only ..) (by decide +kernel)
  | captureGenDraw => exact Carries.of_only (execCaptureGenDraw_only ..) (by decide +kernel)
  | dispatch => exact execDispatch_carries ..
  | lowPrioPromote => exact Carries.of_only (execLowPrioPromote_only ..) (by decide +kernel)
  | poolPreferenceExpiry => exact Carries.of_only (execPoolPreferenceExpiry_only ..) (by decide +kernel)
  | pkeYieldRequest => exact Carries.of_only (execPkeYieldRequest_only ..) (by decide +kernel)
  | digestYieldRequest => exact Carries.of_only (execDigestYieldRequest_only ..) (by decide +kernel)
  | mceYieldRequest => exact Carries.of_only (execMceYieldRequest_only ..) (by decide +kernel)
  | stallSafePoint => exact execStallSafePoint_carries ..
  | completionWrite => exact Carries.of_only (execCompletionWrite_only ..) (by decide +kernel)
  | recordRetire => exact Carries.of_only (execRecordRetire_only ..) (by decide +kernel)
  | qEnable => exact Carries.of_only (execQEnable_only ..) (by decide +kernel)
  | qDisable => exact Carries.of_only (execQDisable_only ..) (by decide +kernel)
  | qContinue => exact Carries.of_only (execQContinue_only ..) (by decide +kernel)
  | qResume => exact Carries.of_only (execQResume_only ..) (by decide +kernel)
  | qForget => exact Carries.of_only (execQForget_only ..) (by decide +kernel)
  | queueDrainComplete => exact Carries.of_only (execQueueDrainComplete_only ..) (by decide +kernel)
  | pendingEnableSwitch => exact Carries.of_only (execPendingEnableSwitch_only ..) (by decide +kernel)
  | haltLogRead => exact Carries.of_only (execHaltLogRead_only ..) (by decide +kernel)
  | energySample => exact Carries.of_only (execEnergySample_only ..) (by decide +kernel)
  | enCapWrite => exact Carries.of_only (execEnCapWrite_only ..) (by decide +kernel)
  | i3cCapSet => exact execI3cCapSet_carries ..
  | i3cIdentityRead => exact execI3cIdentityRead_carries ..
  | holdupAdcConversion => exact Carries.of_only (execHoldupAdcConversion_only ..) (by decide +kernel)
  | adcCalibrate => exact Carries.of_only (execAdcCalibrate_only ..) (by decide +kernel)
  | reserveLowClear => exact Carries.of_only (execReserveLowClear_only ..) (by decide +kernel)
  | shedWakeGrant => exact Carries.of_only (execShedWakeGrant_only ..) (by decide +kernel)
  | shedWakeDone => exact Carries.of_only (execShedWakeDone_only ..) (by decide +kernel)
  | shedIdleTimeout => exact Carries.of_only (execShedIdleTimeout_only ..) (by decide +kernel)
  | shedSleepDone => exact Carries.of_only (execShedSleepDone_only ..) (by decide +kernel)
  | deepSleepEntry => exact Carries.of_only (execDeepSleepEntry_only ..) (by decide +kernel)
  | deepSleepExit => exact execDeepSleepExit_carries ..
  | timeBaseSave => exact Carries.of_only (execTimeBaseSave_only ..) (by decide +kernel)
  | journalScrub => exact execJournalScrub_carries ..
  | loadPartial => exact Carries.of_only (execLoadPartial_only ..) (by decide +kernel)
  | partialSwitch => exact execPartialSwitch_carries ..
  | partialDrainTimeout => exact Carries.of_only (execPartialDrainTimeout_only ..) (by decide +kernel)
  | storeImage => exact Carries.of_only (execStoreImage_only ..) (by decide +kernel)
  | plApply => exact execPlApply_carries ..
  | plApplyDrained => exact execPlApplyDrained_carries ..
  | plApplyDrainTimeout => exact Carries.of_only (execPlApplyDrainTimeout_only ..) (by decide +kernel)
  | abortSwap => exact Carries.of_only (execAbortSwap_only ..) (by decide +kernel)
  | lcTransition => exact Carries.of_only (execLcTransition_only ..) (by decide +kernel)
  | lcDrained => exact execLcDrained_carries ..
  | lcDrainTimeout => exact Carries.of_only (execLcDrainTimeout_only ..) (by decide +kernel)
  | ledgerProgramDone => exact execLedgerProgramDone_carries ..
  | lcComplete => exact execLcComplete_carries ..
  | genIdentity => exact Carries.of_only (execGenIdentity_only ..) (by decide +kernel)
  | storeCerts => exact Carries.of_only (execStoreCerts_only ..) (by decide +kernel)
  | i3cTokenMailbox => exact execI3cTokenMailbox_carries ..
  | certDataRead => exact Carries.of_only (execCertDataRead_only ..) (by decide +kernel)
  | lcCertSelWrite => exact Carries.of_only (execLcCertSelWrite_only ..) (by decide +kernel)
  | dbgToken => exact execDbgToken_carries ..
  | debugClose => exact Carries.of_only (execDebugClose_only ..) (by decide +kernel)
  | jnShutdown => exact Carries.of_only (execJnShutdown_only ..) (by decide +kernel)
  | shutdownFlush => exact Carries.of_only (execShutdownFlush_only ..) (by decide +kernel)
  | twinWaitTimeout boot => exact execTwinWaitTimeout_carries boot s
  | twinPartnerPresent => exact execTwinPartnerPresent_carries ..
  | twinPartnerFailed => exact execTwinPartnerFailed_carries ..
  | twinLanesLost => exact execTwinLanesLost_carries ..
  | tetherFrameReceive => exact execTetherFrameReceive_carries ..
  | tetherRetransmitTimeout => exact execTetherRetransmitTimeout_carries ..
  | tetherLaneFail => exact execTetherLaneFail_carries ..
  | heartbeatToggle => exact Carries.of_only (execHeartbeatToggle_only ..) (by decide +kernel)
  | faultReport => exact execFaultReport_carries ..
  | bucketLeak => exact Carries.of_only (execBucketLeak_only ..) (by decide +kernel)
  | escalationExpiry => exact execEscalationExpiry_carries ..
  | fcAck => exact Carries.of_only (execFcAck_only ..) (by decide +kernel)
  | fcClear => exact Carries.of_only (execFcClear_only ..) (by decide +kernel)
  | faultLogRead => exact Carries.of_only (execFaultLogRead_only ..) (by decide +kernel)
  | faultLogAppend => exact execFaultLogAppend_carries ..
  | farrierClaim => exact Carries.of_only (execFarrierClaim_only ..) (by decide +kernel)
  | selftestDone => exact execSelftestDone_carries ..
  | muckoutDone => exact execMuckoutDone_carries ..
  | ucodeReloadDone => exact Carries.of_only (execUcodeReloadDone_only ..) (by decide +kernel)
  | nextTreeReady => exact Carries.of_only (execNextTreeReady_only ..) (by decide +kernel)
  | blobLoadDone => exact execBlobLoadDone_carries ..
  | tkRestore => exact execTkRestore_carries ..
  | stickyRestore => exact Carries.of_only (execStickyRestore_only ..) (by decide +kernel)
  | remaskPass => exact Carries.of_only (execRemaskPass_only ..) (by decide +kernel)
  | stallSourceReseed => exact Carries.of_only (execStallSourceReseed_only ..) (by decide +kernel)
  | rngHealthFail => exact execRngHealthFail_carries ..
  | rngStartupDone => exact execRngStartupDone_carries ..
  | rngStartupRetry => exact execRngStartupRetry_carries ..
  | rngRetest => exact Carries.of_only (execRngRetest_only ..) (by decide +kernel)
  | rngBlockRelease => exact Carries.of_only (execRngBlockRelease_only ..) (by decide +kernel)
  | drbgReseed => exact Carries.of_only (execDrbgReseed_only ..) (by decide +kernel)
  | rngRestart => exact Carries.of_only (execRngRestart_only ..) (by decide +kernel)
  | rawEnter => exact execRawEnter_carries ..
  | rawExit => exact Carries.of_only (execRawExit_only ..) (by decide +kernel)
  | rnWordRead => exact Carries.of_only (execRnWordRead_only ..) (by decide +kernel)
  | rnRawDataRead => exact Carries.of_only (execRnRawDataRead_only ..) (by decide +kernel)
  | tamperTrip => exact execTamperTrip_carries ..
  | tamperTripAtBoot => exact execTamperTripAtBoot_carries ..
  | tamperTripDeepSleep => exact execTamperTripDeepSleep_carries ..
  | tamperClear => exact execTamperClear_carries ..
  | dgCmpGo => exact Carries.of_only (execDgCmpGo_only ..) (by decide +kernel)
  | dgCmpDone => exact Carries.of_only (execDgCmpDone_only ..) (by decide +kernel)
  | dgCmpReset => exact Carries.of_only (execDgCmpReset_only ..) (by decide +kernel)
  | mrExtendWrite => exact Carries.of_only (execMrExtendWrite_only ..) (by decide +kernel)
  | nandReadDone => exact execNandReadDone_carries ..
  | nandStatusFail => exact execNandStatusFail_carries ..
  | nandTargetTimeout => exact execNandTargetTimeout_carries ..
  | hayloftRebuild => exact Carries.of_only (execHayloftRebuild_only ..) (by decide +kernel)
  | objectWriteCommit => exact Carries.of_only (execObjectWriteCommit_only ..) (by decide +kernel)
  | hayloftScrub => exact execHayloftScrub_carries ..
  | staticWearLevel => exact Carries.of_only (execStaticWearLevel_only ..) (by decide +kernel)
  | diagLogFlush => exact Carries.of_only (execDiagLogFlush_only ..) (by decide +kernel)
  | hlFormat => exact Carries.of_only (execHlFormat_only ..) (by decide +kernel)
  | hlLogDataRead => exact Carries.of_only (execHlLogDataRead_only ..) (by decide +kernel)
  | linkTestStart => exact Carries.of_only (execLinkTestStart_only ..) (by decide +kernel)
  | linkTestStop => exact Carries.of_only (execLinkTestStop_only ..) (by decide +kernel)
  | linkTestInject => exact Carries.of_only (execLinkTestInject_only ..) (by decide +kernel)
  | linkTestEnd link cause => exact Carries.of_only (execLinkTestEnd_only link cause s) (by decide +kernel)
  | tapExtest => exact Carries.of_only (execTapExtest_only ..) (by decide +kernel)
  | tapClamp => exact Carries.of_only (execTapClamp_only ..) (by decide +kernel)
  | tapHighz => exact Carries.of_only (execTapHighz_only ..) (by decide +kernel)
  | tapMbist => exact Carries.of_only (execTapMbist_only ..) (by decide +kernel)
  | tapIdcode => exact Carries.of_only (execTapIdcode_only ..) (by decide +kernel)
  | tapSamplePreload => exact Carries.of_only (execTapSamplePreload_only ..) (by decide +kernel)
  | tapBypass => exact Carries.of_only (execTapBypass_only ..) (by decide +kernel)
  | bxBoot => exact Carries.of_only (execBxBoot_only ..) (by decide +kernel)
  | coreLoad => exact Carries.of_only (execCoreLoad_only ..) (by decide +kernel)
  | coreStop => exact Carries.of_only (execCoreStop_only ..) (by decide +kernel)
  | coreLoadDone => exact Carries.of_only (execCoreLoadDone_only ..) (by decide +kernel)
  | feedDrop => exact Carries.of_only (execFeedDrop_only ..) (by decide +kernel)
  | vectorUnitPowerDown => exact Carries.of_only (execVectorUnitPowerDown_only ..) (by decide +kernel)
  | bxNop => exact Carries.of_only (execBxNop_only ..) (by decide +kernel)
  | bxStop => exact Carries.of_only (execBxStop_only ..) (by decide +kernel)
  | bxTrap => exact Carries.of_only (execBxTrap_only ..) (by decide +kernel)
  | bxRtt => exact Carries.of_only (execBxRtt_only ..) (by decide +kernel)
  | bxFence => exact Carries.of_only (execBxFence_only ..) (by decide +kernel)
  | bxAdd => exact Carries.of_only (execBxAdd_only ..) (by decide +kernel)
  | bxSub => exact Carries.of_only (execBxSub_only ..) (by decide +kernel)
  | bxNeg => exact Carries.of_only (execBxNeg_only ..) (by decide +kernel)
  | bxAnd => exact Carries.of_only (execBxAnd_only ..) (by decide +kernel)
  | bxOr => exact Carries.of_only (execBxOr_only ..) (by decide +kernel)
  | bxXor => exact Carries.of_only (execBxXor_only ..) (by decide +kernel)
  | bxAndn => exact Carries.of_only (execBxAndn_only ..) (by decide +kernel)
  | bxNot => exact Carries.of_only (execBxNot_only ..) (by decide +kernel)
  | bxShl => exact Carries.of_only (execBxShl_only ..) (by decide +kernel)
  | bxShr => exact Carries.of_only (execBxShr_only ..) (by decide +kernel)
  | bxSar => exact Carries.of_only (execBxSar_only ..) (by decide +kernel)
  | bxRol => exact Carries.of_only (execBxRol_only ..) (by decide +kernel)
  | bxRor => exact Carries.of_only (execBxRor_only ..) (by decide +kernel)
  | bxClz => exact Carries.of_only (execBxClz_only ..) (by decide +kernel)
  | bxCtz => exact Carries.of_only (execBxCtz_only ..) (by decide +kernel)
  | bxPopc => exact Carries.of_only (execBxPopc_only ..) (by decide +kernel)
  | bxCmp => exact Carries.of_only (execBxCmp_only ..) (by decide +kernel)
  | bxCteq => exact Carries.of_only (execBxCteq_only ..) (by decide +kernel)
  | bxCtlt => exact Carries.of_only (execBxCtlt_only ..) (by decide +kernel)
  | bxCsel => exact Carries.of_only (execBxCsel_only ..) (by decide +kernel)
  | bxLd8 => exact Carries.of_only (execBxLd8_only ..) (by decide +kernel)
  | bxLd4 => exact Carries.of_only (execBxLd4_only ..) (by decide +kernel)
  | bxLd4s => exact Carries.of_only (execBxLd4s_only ..) (by decide +kernel)
  | bxLd2 => exact Carries.of_only (execBxLd2_only ..) (by decide +kernel)
  | bxLd2s => exact Carries.of_only (execBxLd2s_only ..) (by decide +kernel)
  | bxLd1 => exact Carries.of_only (execBxLd1_only ..) (by decide +kernel)
  | bxLd1s => exact Carries.of_only (execBxLd1s_only ..) (by decide +kernel)
  | bxLea => exact Carries.of_only (execBxLea_only ..) (by decide +kernel)
  | bxSt8 => exact Carries.of_only (execBxSt8_only ..) (by decide +kernel)
  | bxSt4 => exact Carries.of_only (execBxSt4_only ..) (by decide +kernel)
  | bxSt2 => exact Carries.of_only (execBxSt2_only ..) (by decide +kernel)
  | bxSt1 => exact Carries.of_only (execBxSt1_only ..) (by decide +kernel)
  | bxPush => exact Carries.of_only (execBxPush_only ..) (by decide +kernel)
  | bxPop => exact Carries.of_only (execBxPop_only ..) (by decide +kernel)
  | bxDsadj => exact Carries.of_only (execBxDsadj_only ..) (by decide +kernel)
  | bxB => exact Carries.of_only (execBxB_only ..) (by decide +kernel)
  | bxBeq => exact Carries.of_only (execBxBeq_only ..) (by decide +kernel)
  | bxBne => exact Carries.of_only (execBxBne_only ..) (by decide +kernel)
  | bxBlt => exact Carries.of_only (execBxBlt_only ..) (by decide +kernel)
  | bxBge => exact Carries.of_only (execBxBge_only ..) (by decide +kernel)
  | bxBlo => exact Carries.of_only (execBxBlo_only ..) (by decide +kernel)
  | bxBhs => exact Carries.of_only (execBxBhs_only ..) (by decide +kernel)
  | bxBov => exact Carries.of_only (execBxBov_only ..) (by decide +kernel)
  | bxBdz => exact Carries.of_only (execBxBdz_only ..) (by decide +kernel)
  | bxCall => exact Carries.of_only (execBxCall_only ..) (by decide +kernel)
  | bxCallr => exact Carries.of_only (execBxCallr_only ..) (by decide +kernel)
  | bxJr => exact Carries.of_only (execBxJr_only ..) (by decide +kernel)
  | bxRet => exact Carries.of_only (execBxRet_only ..) (by decide +kernel)
  | bxLeac => exact Carries.of_only (execBxLeac_only ..) (by decide +kernel)
  | bxMov => exact Carries.of_only (execBxMov_only ..) (by decide +kernel)
  | bxLi => exact Carries.of_only (execBxLi_only ..) (by decide +kernel)
  | bxLin => exact Carries.of_only (execBxLin_only ..) (by decide +kernel)
  | bxLib => exact Carries.of_only (execBxLib_only ..) (by decide +kernel)
  | bxMfs => exact Carries.of_only (execBxMfs_only ..) (by decide +kernel)
  | bxMts => exact Carries.of_only (execBxMts_only ..) (by decide +kernel)
  | bxMul => exact Carries.of_only (execBxMul_only ..) (by decide +kernel)
  | bxMulu => exact Carries.of_only (execBxMulu_only ..) (by decide +kernel)
  | bxDiv => exact Carries.of_only (execBxDiv_only ..) (by decide +kernel)
  | bxDivu => exact Carries.of_only (execBxDivu_only ..) (by decide +kernel)
  | bxTagof => exact Carries.of_only (execBxTagof_only ..) (by decide +kernel)
  | bxAsint => exact Carries.of_only (execBxAsint_only ..) (by decide +kernel)
  | bxAsnat => exact Carries.of_only (execBxAsnat_only ..) (by decide +kernel)
  | bxAsbytes => exact Carries.of_only (execBxAsbytes_only ..) (by decide +kernel)
  | bxMkptr => exact Carries.of_only (execBxMkptr_only ..) (by decide +kernel)
  | bxMkhandle => exact Carries.of_only (execBxMkhandle_only ..) (by decide +kernel)
  | bxClass => exact Carries.of_only (execBxClass_only ..) (by decide +kernel)
  | bxDeclass => exact Carries.of_only (execBxDeclass_only ..) (by decide +kernel)
  | bxPoison => exact Carries.of_only (execBxPoison_only ..) (by decide +kernel)
  | bxRdtime => exact Carries.of_only (execBxRdtime_only ..) (by decide +kernel)
  | bxQopen => exact Carries.of_only (execBxQopen_only ..) (by decide +kernel)
  | bxQclose => exact Carries.of_only (execBxQclose_only ..) (by decide +kernel)
  | bxQctl => exact Carries.of_only (execBxQctl_only ..) (by decide +kernel)
  | bxJsub => exact Carries.of_only (execBxJsub_only ..) (by decide +kernel)
  | bxJcpl => exact Carries.of_only (execBxJcpl_only ..) (by decide +kernel)
  | bxJstat => exact Carries.of_only (execBxJstat_only ..) (by decide +kernel)
  | bxWait => exact Carries.of_only (execBxWait_only ..) (by decide +kernel)
  | waitEnd => exact Carries.of_only (execWaitEnd_only ..) (by decide +kernel)
  | bxFput => exact Carries.of_only (execBxFput_only ..) (by decide +kernel)
  | bxFstat => exact Carries.of_only (execBxFstat_only ..) (by decide +kernel)
  | bxFdrop => exact Carries.of_only (execBxFdrop_only ..) (by decide +kernel)
  | bxWopen => exact Carries.of_only (execBxWopen_only ..) (by decide +kernel)
  | bxWclose => exact Carries.of_only (execBxWclose_only ..) (by decide +kernel)
  | bxCstart => exact Carries.of_only (execBxCstart_only ..) (by decide +kernel)
  | bxCstop => exact Carries.of_only (execBxCstop_only ..) (by decide +kernel)
  | bxRand => exact Carries.of_only (execBxRand_only ..) (by decide +kernel)
  | bxMext => exact Carries.of_only (execBxMext_only ..) (by decide +kernel)
  | opNop => exact Carries.of_only (execOpNop_only ..) (by decide +kernel)
  | opAttestQuote => exact Carries.of_only (execOpAttestQuote_only ..) (by decide +kernel)
  | opMlkemKeygen => exact Carries.of_only (execOpMlkemKeygen_only ..) (by decide +kernel)
  | opMlkemEncaps => exact Carries.of_only (execOpMlkemEncaps_only ..) (by decide +kernel)
  | opMlkemDecaps => exact Carries.of_only (execOpMlkemDecaps_only ..) (by decide +kernel)
  | opMldsaKeygen => exact Carries.of_only (execOpMldsaKeygen_only ..) (by decide +kernel)
  | opMldsaSign => exact Carries.of_only (execOpMldsaSign_only ..) (by decide +kernel)
  | opMldsaVerify => exact Carries.of_only (execOpMldsaVerify_only ..) (by decide +kernel)
  | opSlhdsaKeygen => exact Carries.of_only (execOpSlhdsaKeygen_only ..) (by decide +kernel)
  | opSlhdsaSign => exact Carries.of_only (execOpSlhdsaSign_only ..) (by decide +kernel)
  | opSlhdsaVerify => exact Carries.of_only (execOpSlhdsaVerify_only ..) (by decide +kernel)
  | opLmsKeygen => exact Carries.of_only (execOpLmsKeygen_only ..) (by decide +kernel)
  | opLmsSign => exact Carries.of_only (execOpLmsSign_only ..) (by decide +kernel)
  | opLmsVerify => exact Carries.of_only (execOpLmsVerify_only ..) (by decide +kernel)
  | opXmssKeygen => exact Carries.of_only (execOpXmssKeygen_only ..) (by decide +kernel)
  | opXmssSign => exact Carries.of_only (execOpXmssSign_only ..) (by decide +kernel)
  | opXmssVerify => exact Carries.of_only (execOpXmssVerify_only ..) (by decide +kernel)
  | opHbsQuery => exact Carries.of_only (execOpHbsQuery_only ..) (by decide +kernel)
  | opMceKeygen => exact Carries.of_only (execOpMceKeygen_only ..) (by decide +kernel)
  | opMceEncaps => exact Carries.of_only (execOpMceEncaps_only ..) (by decide +kernel)
  | opMceDecaps => exact Carries.of_only (execOpMceDecaps_only ..) (by decide +kernel)
  | opHqcKeygen => exact Carries.of_only (execOpHqcKeygen_only ..) (by decide +kernel)
  | opHqcEncaps => exact Carries.of_only (execOpHqcEncaps_only ..) (by decide +kernel)
  | opHqcDecaps => exact Carries.of_only (execOpHqcDecaps_only ..) (by decide +kernel)
  | opPkcLoad => exact Carries.of_only (execOpPkcLoad_only ..) (by decide +kernel)
  | opPkcEvict => exact Carries.of_only (execOpPkcEvict_only ..) (by decide +kernel)
  | opRsaKeygen => exact Carries.of_only (execOpRsaKeygen_only ..) (by decide +kernel)
  | opRsaSign => exact execOpRsaSign_carries ..
  | opRsaVerify => exact Carries.of_only (execOpRsaVerify_only ..) (by decide +kernel)
  | opRsaEncrypt => exact Carries.of_only (execOpRsaEncrypt_only ..) (by decide +kernel)
  | opRsaDecrypt => exact execOpRsaDecrypt_carries ..
  | opEcdsaKeygen => exact Carries.of_only (execOpEcdsaKeygen_only ..) (by decide +kernel)
  | opEcdsaSign => exact Carries.of_only (execOpEcdsaSign_only ..) (by decide +kernel)
  | opEcdsaVerify => exact Carries.of_only (execOpEcdsaVerify_only ..) (by decide +kernel)
  | opEcdhKeygen => exact Carries.of_only (execOpEcdhKeygen_only ..) (by decide +kernel)
  | opEcdhDerive => exact Carries.of_only (execOpEcdhDerive_only ..) (by decide +kernel)
  | opEcdhEphemeral => exact Carries.of_only (execOpEcdhEphemeral_only ..) (by decide +kernel)
  | opEddsaKeygen => exact Carries.of_only (execOpEddsaKeygen_only ..) (by decide +kernel)
  | opEddsaSign => exact Carries.of_only (execOpEddsaSign_only ..) (by decide +kernel)
  | opEddsaVerify => exact Carries.of_only (execOpEddsaVerify_only ..) (by decide +kernel)
  | opXdhKeygen => exact Carries.of_only (execOpXdhKeygen_only ..) (by decide +kernel)
  | opXdhDerive => exact Carries.of_only (execOpXdhDerive_only ..) (by decide +kernel)
  | opXdhEphemeral => exact Carries.of_only (execOpXdhEphemeral_only ..) (by decide +kernel)
  | opDigest => exact Carries.of_only (execOpDigest_only ..) (by decide +kernel)
  | opHmac => exact Carries.of_only (execOpHmac_only ..) (by decide +kernel)
  | opHmacVerify => exact Carries.of_only (execOpHmacVerify_only ..) (by decide +kernel)
  | opKmac => exact Carries.of_only (execOpKmac_only ..) (by decide +kernel)
  | opKmacVerify => exact Carries.of_only (execOpKmacVerify_only ..) (by decide +kernel)
  | opCrc => exact Carries.of_only (execOpCrc_only ..) (by decide +kernel)
  | opKeyGenerate => exact Carries.of_only (execOpKeyGenerate_only ..) (by decide +kernel)
  | opKeyImport => exact Carries.of_only (execOpKeyImport_only ..) (by decide +kernel)
  | opKeyUnwrap => exact Carries.of_only (execOpKeyUnwrap_only ..) (by decide +kernel)
  | opKeyDerive => exact Carries.of_only (execOpKeyDerive_only ..) (by decide +kernel)
  | opKeyExport => exact Carries.of_only (execOpKeyExport_only ..) (by decide +kernel)
  | opBlobRegister => exact Carries.of_only (execOpBlobRegister_only ..) (by decide +kernel)
  | opKeyRestrict => exact Carries.of_only (execOpKeyRestrict_only ..) (by decide +kernel)
  | opKeyRevoke => exact Carries.of_only (execOpKeyRevoke_only ..) (by decide +kernel)
  | vddAonPowerOn => exact execVddAonPowerOn_carries ..
  | perstNDeassert => exact Carries.of_only (execPerstNDeassert_only ..) (by decide +kernel)
  | pllRelock => exact execPllRelock_carries ..
  | overtempEnd => exact Carries.of_only (execOvertempEnd_only ..) (by decide +kernel)
  | tamperConditionEnd => exact Carries.of_only (execTamperConditionEnd_only ..) (by decide +kernel)
  | checkerLock => exact Carries.of_only (execCheckerLock_only ..) (by decide +kernel)
  | checkerLockLost => exact Carries.of_only (execCheckerLockLost_only ..) (by decide +kernel)
  | debugHalt => exact Carries.of_only (execDebugHalt_only ..) (by decide +kernel)
  | debugResume => exact Carries.of_only (execDebugResume_only ..) (by decide +kernel)
  | unitResultLand => exact Carries.of_only (execUnitResultLand_only ..) (by decide +kernel)

theorem tick_carries (s : State) : Carries s (tick s) := Carries.of_only (tick_only s) (by decide +kernel)

theorem step_carries {s t : State} (h : step s = .next t) : Carries s t := by
  unfold step at h
  split at h
  next =>
    cases h
    exact tick_carries s
  next c rest hp =>
    have taken : Carries s { s with pending := rest } := Carries.of_vital rfl
    have run := exec_carries c { s with pending := rest }
    rw [h] at run
    exact taken.trans run

end Sys2Proof.Floors
end

section
/-! PROOF. Soundness and the rollback floors along every step (O3). -/

namespace Sys2Proof.Floors

open Sys2Proof Sys2Proof.Machine Sys2Proof.Claims

/-- Settles O3: a step carries soundness and floors, whatever command it takes. -/
theorem stepsKeepTheInvariant : Obligations.StepsKeepTheInvariant := fun _ _ h =>
  ⟨(step_carries h).sound, (step_carries h).floors⟩

end Sys2Proof.Floors
end

section
/-! PROOF. What a step takes, and the state after reset (O1, O4). -/

namespace Sys2Proof.StepReset

open Sys2Proof Sys2Proof.Machine Sys2Proof.Claims

/-- With no sequencer running none issues a word. -/
theorem seqTick_of_idle {s : State} (h : ∀ e ∈ s.stalls, e.2.sequ.running = false) : seqTick s = s := by
  unfold seqTick
  split
  · have hnone : (s.stalls.filter fun e => e.2.state == 2 && e.2.sequ.running) = [] :=
      List.filter_eq_nil_iff.mpr fun e he => by simp [h e he]
    rw [hnone, List.foldl_nil]
  · rfl

theorem tick_of_idle {s : State} (hraw : s.rng.rawMode = false) (h : ∀ e ∈ s.stalls, e.2.sequ.running = false) : tick s = advance s := by
  have hidle : seqTick (advance s) = advance s := seqTick_of_idle (s := advance s) h
  simp only [tick, hidle, hraw, Bool.false_and, Bool.false_eq_true, if_false]

theorem advance_eq (s : State) :
    advance s = { s with time := (s.time + if s.sys.deepSleep = true ∨ s.sys.xtal = false then 1000 else 1) % 2 ^ 64 } := by
  simp [advance]

/-- Settles O1: the two cases of `step`. -/
theorem stepTakesTheFrontCommand : Obligations.StepTakesTheFrontCommand := by
  intro s c rest
  refine ⟨fun hp => ?_, fun hp hraw hidle => ?_⟩
  · simp only [step, hp]
  · have hstep : step s = .next (tick s) := by simp only [step, hp]
    rw [hstep, tick_of_idle hraw hidle, advance_eq]

/-- Settles O4: each register of the state after reset, read from its default. -/
theorem resetState : Obligations.ResetState := by
  dsimp only [Obligations.ResetState]
  refine ⟨?sound, rfl, rfl, rfl, rfl, rfl, rfl, rfl, rfl, rfl, rfl, rfl, rfl, rfl, rfl, rfl, rfl, rfl, rfl, rfl, rfl, rfl, rfl, rfl, rfl,
    rfl, ?queues, ?cores, ?functions, ?paddocks, ?stalls⟩
  case sound => exact ⟨fun _ => ⟨rfl, rfl⟩, Nat.zero_le _, Nat.zero_le _, Nat.zero_le _, fun _ => rfl⟩
  case queues => exact fun _ => ⟨rfl, rfl, rfl, rfl⟩
  case cores => exact fun _ => ⟨rfl, rfl⟩
  case functions => exact fun _ => ⟨rfl, rfl, rfl, rfl, rfl, rfl, fun _ => rfl⟩
  case paddocks => exact fun _ => ⟨rfl, rfl, rfl⟩
  case stalls => exact fun _ => ⟨rfl, rfl⟩

end Sys2Proof.StepReset
end

section
/-! SUPPORT. What a frame says of whole units: a unit none of whose registers a frame names is the same after. -/

namespace Sys2Proof.Frames

open Sys2Proof Sys2Proof.Machine

theorem SysReg.eq_of_same {a b : Machine.Sys} (h : ∀ r, SysReg.Same a b r) : b = a := by
  cases a
  cases b
  simp only [Sys.mk.injEq]
  exact ⟨h .porstN, h .perstN, h .powerFailN, h .xtal, h .pllLocked, h .refclk, h .wakeDriven, h .ttHbo, h .linkWidth, h .linkReversed, h
    .loaded, h .firmware, h .straps, h .stage, h .bootState, h .reason, h .fwSlot, h .fwBuild, h .wait, h .causeCold, h .causeWarmSw,
    h .causeWarmFatal, h .causeWarmApply, h .causeHif, h .causeClock, h .paddockResets, h .heldWarm, h .deepSleep, h .degraded, h
    .paddockSel, h .timeJournal, h .timeHayloft, h .boundary, h .tapIr, h .boundaryReg, h .mbistRan⟩

theorem sys_of_only {l : List Part} {s t : State} (h : Only l s t) (hl : (SysReg.all.any fun r => l.contains (.sys r)) = false) :
    t.sys = s.sys :=
  SysReg.eq_of_same fun r => h.same (.sys r) (by simpa using List.any_eq_false.mp hl r r.mem_all)

theorem PlanReg.eq_of_same {a b : Machine.Plan} (h : ∀ r, PlanReg.Same a b r) : b = a := by
  cases a
  cases b
  simp only [Plan.mk.injEq]
  exact ⟨h .loaded, h .part, h .pads, h .sheds, h .esc, h .tamper, h .twin, h .serial, h .digest⟩

theorem plan_of_only {l : List Part} {s t : State} (h : Only l s t) (hl : (PlanReg.all.any fun r => l.contains (.plan r)) = false) :
    t.plan = s.plan :=
  PlanReg.eq_of_same fun r => h.same (.plan r) (by simpa using List.any_eq_false.mp hl r r.mem_all)

theorem PlReg.eq_of_same {a b : Machine.PlanCtl} (h : ∀ r, PlReg.Same a b r) : b = a := by
  cases a
  cases b
  simp only [PlanCtl.mk.injEq]
  exact ⟨h .imgAddr, h .imgLen, h .busy, h .phase, h .err, h .errOffset, h .swap, h .applying, h .stored⟩

theorem pl_of_only {l : List Part} {s t : State} (h : Only l s t) (hl : (PlReg.all.any fun r => l.contains (.pl r)) = false) :
    t.pl = s.pl :=
  PlReg.eq_of_same fun r => h.same (.pl r) (by simpa using List.any_eq_false.mp hl r r.mem_all)

theorem LcReg.eq_of_same {a b : Machine.LifeCycle} (h : ∀ r, LcReg.Same a b r) : b = a := by
  cases a
  cases b
  simp only [LifeCycle.mk.injEq]
  exact ⟨h .slots, h .floorRecs, h .debugRecs, h .decoded, h .state, h .epoch, h .ownerDigest, h .seq, h .rootPresent, h .deviceRoot, h
    .deviceNumber, h .busy, h .resetRequired, h .err, h .step, h .token, h .tokenAddr, h .tokenLen, h .identity⟩

theorem lc_of_only {l : List Part} {s t : State} (h : Only l s t) (hl : (LcReg.all.any fun r => l.contains (.lc r)) = false) :
    t.lc = s.lc :=
  LcReg.eq_of_same fun r => h.same (.lc r) (by simpa using List.any_eq_false.mp hl r r.mem_all)

theorem DbgReg.eq_of_same {a b : Machine.Debug} (h : ∀ r, DbgReg.Same a b r) : b = a := by
  cases a
  cases b
  simp only [Debug.mk.injEq]
  exact ⟨h .challengeDraw, h .scope, h .padMask⟩

theorem dbg_of_only {l : List Part} {s t : State} (h : Only l s t) (hl : (DbgReg.all.any fun r => l.contains (.dbg r)) = false) :
    t.dbg = s.dbg :=
  DbgReg.eq_of_same fun r => h.same (.dbg r) (by simpa using List.any_eq_false.mp hl r r.mem_all)

theorem EnReg.eq_of_same {a b : Machine.Energy} (h : ∀ r, EnReg.Same a b r) : b = a := by
  cases a
  cases b
  simp only [Energy.mk.injEq]
  exact ⟨h .shed, h .step, h .meter, h .padEnergy, h .coreNj, h .samples, h .lastNj, h .padSeen, h .sleepFrom, h .capQw, h .windowMs, h
    .i3cCap, h .wakes, h .capBinding, h .withholdWakes, h .withholdPads, h .rawCode, h .convs, h .offset, h .gain, h .calValid, h
    .cmeas, h .cmeasCap, h .flushNj, h .flushConv, h .recNj, h .fixedUj, h .reserveLow, h .flushActive, h .overtemp⟩

theorem en_of_only {l : List Part} {s t : State} (h : Only l s t) (hl : (EnReg.all.any fun r => l.contains (.en r)) = false) :
    t.en = s.en :=
  EnReg.eq_of_same fun r => h.same (.en r) (by simpa using List.any_eq_false.mp hl r r.mem_all)

theorem PortReg.eq_of_same {a b : Machine.Port} (h : ∀ r, PortReg.Same a b r) : b = a := by
  cases a
  cases b
  simp only [Port.mk.injEq]
  exact ⟨h .linkUp, h .linkState, h .aspmL1, h .aspmL11, h .aspmL12, h .vfEnable, h .numVfs, h .pmL11, h .pmL12, h .vfMse, h .ari, h
    .sysPage, h .vfBars, h .ltrUs, h .ltrLive, h .ltrQueue, h .doorbells⟩

theorem port_of_only {l : List Part} {s t : State} (h : Only l s t) (hl : (PortReg.all.any fun r => l.contains (.port r)) = false) :
    t.port = s.port :=
  PortReg.eq_of_same fun r => h.same (.port r) (by simpa using List.any_eq_false.mp hl r r.mem_all)

theorem FnReg.eq_of_same {a b : Machine.Fn} (h : ∀ r, FnReg.Same a b r) : b = a := by
  cases a
  cases b
  simp only [Fn.mk.injEq]
  exact ⟨h .cfg, h .present, h .bme, h .dState, h .msixEn, h .fnMask, h .pmeEn, h .pmeStatus, h .pmeAtCold, h .relaxed, h .idOrder, h
    .vecSize, h .denied, h .errTimeout, h .errUrCa, h .errPoisoned, h .errQueue, h .errJob, h .vecs, h .evMap, h .qcRing, h .qcLog2, h
    .qcVector, h .qcWake, h .qcCrcReq, h .qcIrqEn, h .qcShadowEn, h .qcShadowAddr, h .cmdQueue, h .cmdCmd, h .cmdBusy, h .cmdLost, h
    .cmdResult, h .statSel, h .cmpExpect, h .cmpSlot, h .cmpLen, h .cmpGo, h .cmpSpoiled, h .cmpEq, h .cmpNe, h .tkSel, h .tkSelBlob,
    h .bxImgAddr, h .fcResult, h .hlLog, h .hlEntry, h .hlWord, h .certSel, h .certOff, h .latch⟩

theorem fnAt_of_only {l : List Part} {s t : State} (h : Only l s t) (hl : (FnReg.all.any fun r => l.contains (.fn r)) = false) (n : Nat) :
    fnAt t n = fnAt s n :=
  FnReg.eq_of_same fun r => h.same (.fn r) (by simpa using List.any_eq_false.mp hl r r.mem_all) n

theorem QueueReg.eq_of_same {a b : Machine.Queue} (h : ∀ r, QueueReg.Same a b r) : b = a := by
  cases a
  cases b
  simp only [Queue.mk.injEq]
  exact ⟨h .state, h .remembered, h .base, h .k, h .vector, h .wake, h .crcReq, h .irqEn, h .shadowEn, h .shadowAddr, h .fn, h .bx, h .p, h
    .a, h .t, h .gen, h .errReason, h .errDetail, h .errIndex, h .forgotten, h .defer, h .deferOrder, h .headDeferred, h .recheck, h
    .copies, h .heldBell, h .shadowOwed, h .pend, h .fetchFailed, h .fetchTried, h .standby, h .takenOver, h .recordedP, h
    .forgetting, h .ring, h .ringCells, h .ringSecret⟩

theorem qAt_of_only {l : List Part} {s t : State} (h : Only l s t) (hl : (QueueReg.all.any fun r => l.contains (.queue r)) = false) (n : Nat) :
    qAt t n = qAt s n :=
  QueueReg.eq_of_same fun r => h.same (.queue r) (by simpa using List.any_eq_false.mp hl r r.mem_all) n

theorem PadReg.eq_of_same {a b : Machine.Pad} (h : ∀ r, PadReg.Same a b r) : b = a := by
  cases a
  cases b
  simp only [Pad.mk.injEq]
  exact ⟨h .caps, h .curGen, h .genDue, h .drbg, h .results, h .mrs, h .haltLog, h .haltOverflow, h .paused, h .inc, h .snaps, h .diags, h
    .extendLost, h .replayOwed, h .waitFor, h .containedUs, h .resetStalls, h .resetSeed, h .cacheLost⟩

theorem padAt_of_only {l : List Part} {s t : State} (h : Only l s t) (hl : (PadReg.all.any fun r => l.contains (.pad r)) = false) (n : Nat) :
    padAt t n = padAt s n :=
  PadReg.eq_of_same fun r => h.same (.pad r) (by simpa using List.any_eq_false.mp hl r r.mem_all) n

theorem JnReg.eq_of_same {a b : Machine.Journal} (h : ∀ r, JnReg.Same a b r) : b = a := by
  cases a
  cases b
  simp only [Journal.mk.injEq]
  exact ⟨h .opened, h .bank0, h .bank1, h .fromFlush, h .lost, h .shutdownDone, h .role, h .term, h .nextSeq, h .seq, h .flushRecords, h
    .flushUs, h .flushResult, h .flushSeq, h .shutting, h .flushFrom, h .flushWait, h .bootAfterFlush, h .held, h .recDigests, h
    .deferNext, h .rr⟩

theorem jn_of_only {l : List Part} {s t : State} (h : Only l s t) (hl : (JnReg.all.any fun r => l.contains (.jn r)) = false) :
    t.jn = s.jn :=
  JnReg.eq_of_same fun r => h.same (.jn r) (by simpa using List.any_eq_false.mp hl r r.mem_all)

theorem StallReg.eq_of_same {a b : Machine.Stall} (h : ∀ r, StallReg.Same a b r) : b = a := by
  cases a
  cases b
  simp only [Stall.mk.injEq]
  exact ⟨h .state, h .lastPaddock, h .inPool, h .dedicated, h .muckouts, h .runs, h .jobs, h .unsound, h .reqFault, h .reqStop, h
    .reqClaim, h .reqYield, h .dirty, h .muckFailed, h .muckThen, h .prefEnded, h .scrubDue, h .ratchet, h .ratchetCount, h .source, h
    .ucodeOk, h .cmdRd, h .cmdWr, h .cplRd, h .cplWr, h .spare, h .reservedFor, h .muckAtWake, h .operand, h .sequ, h .tree⟩

theorem stAt_of_only {l : List Part} {s t : State} (h : Only l s t) (hl : (StallReg.all.any fun r => l.contains (.stall r)) = false) (n : Nat) :
    stAt t n = stAt s n :=
  StallReg.eq_of_same fun r => h.same (.stall r) (by simpa using List.any_eq_false.mp hl r r.mem_all) n

theorem TkReg.eq_of_same {a b : Machine.Tack} (h : ∀ r, TkReg.Same a b r) : b = a := by
  cases a
  cases b
  simp only [Tack.mk.injEq]
  exact ⟨h .slots, h .blobs, h .hbs, h .unsealed, h .restoring, h .hold, h .remask, h .lost, h .maskDraw, h .permDraw, h .ownerRoot, h
    .jseal, h .scrambled⟩

theorem tk_of_only {l : List Part} {s t : State} (h : Only l s t) (hl : (TkReg.all.any fun r => l.contains (.tk r)) = false) :
    t.tk = s.tk :=
  TkReg.eq_of_same fun r => h.same (.tk r) (by simpa using List.any_eq_false.mp hl r r.mem_all)

theorem RngReg.eq_of_same {a b : Machine.Rng} (h : ∀ r, RngReg.Same a b r) : b = a := by
  cases a
  cases b
  simp only [Rng.mk.injEq]
  exact ⟨h .ready, h .stopped, h .rawMode, h .katOk, h .healthy, h .isolated, h .retired, h .cmdErr, h .rct, h .apt, h .discarded, h
    .attempts, h .store, h .waiting, h .restarting, h .rawFrom, h .fifo, h .overflow, h .sel, h .ymDrbg, h .ymr⟩

theorem rng_of_only {l : List Part} {s t : State} (h : Only l s t) (hl : (RngReg.all.any fun r => l.contains (.rng r)) = false) :
    t.rng = s.rng :=
  RngReg.eq_of_same fun r => h.same (.rng r) (by simpa using List.any_eq_false.mp hl r r.mem_all)

theorem CoreReg.eq_of_same {a b : Machine.Core} (h : ∀ r, CoreReg.Same a b r) : b = a := by
  cases a
  cases b
  simp only [Core.mk.injEq]
  exact ⟨h .state, h .w, h .v, h .mlo, h .mhi, h .quo, h .rem, h .flg, h .vff, h .dsp, h .pc, h .mem, h .mul, h .div, h .rstack, h .spill,
    h .codeAt, h .codeLen, h .dsLow, h .dsHigh, h .spillAt, h .spillLen, h .trapVec, h .trapActive, h .double, h .lastCode, h .traps,
    h .declass, h .boot, h .vecUp, h .vecOn, h .windows, h .cmdErr, h .loads, h .waiting, h .loading, h .retired⟩

theorem coreAt_of_only {l : List Part} {s t : State} (h : Only l s t) (hl : (CoreReg.all.any fun r => l.contains (.core r)) = false) (n : Nat) :
    coreAt t n = coreAt s n :=
  CoreReg.eq_of_same fun r => h.same (.core r) (by simpa using List.any_eq_false.mp hl r r.mem_all) n

theorem FcReg.eq_of_same {a b : Machine.Faults} (h : ∀ r, FcReg.Same a b r) : b = a := by
  cases a
  cases b
  simp only [Faults.mk.injEq]
  exact ⟨h .log, h .dropped, h .severeLost, h .overflowed, h .out, h .buckets, h .retired, h .outSel, h .bucketSel, h .claimed, h .testing,
    h .passes, h .fails, h .overdue, h .nextStall, h .ahead, h .corrected, h .toLog, h .spareRows, h .escNow, h .retireNow, h
    .heldExpiry⟩

theorem fc_of_only {l : List Part} {s t : State} (h : Only l s t) (hl : (FcReg.all.any fun r => l.contains (.fc r)) = false) :
    t.fc = s.fc :=
  FcReg.eq_of_same fun r => h.same (.fc r) (by simpa using List.any_eq_false.mp hl r r.mem_all)

theorem TpReg.eq_of_same {a b : Machine.Tamper} (h : ∀ r, TpReg.Same a b r) : b = a := by
  cases a
  cases b
  simp only [Tamper.mk.injEq]
  exact ⟨h .latched, h .response, h .tamperHold, h .resetRequired, h .sleepScramble, h .cmdErr, h .meshPending, h .meshOff, h .alarm, h
    .live, h .count, h .reserveDraw, h .meshOn, h .meshDraw⟩

theorem tp_of_only {l : List Part} {s t : State} (h : Only l s t) (hl : (TpReg.all.any fun r => l.contains (.tp r)) = false) :
    t.tp = s.tp :=
  TpReg.eq_of_same fun r => h.same (.tp r) (by simpa using List.any_eq_false.mp hl r r.mem_all)

theorem HlReg.eq_of_same {a b : Machine.Hayloft} (h : ∀ r, HlReg.Same a b r) : b = a := by
  cases a
  cases b
  simp only [Hayloft.mk.injEq]
  exact ⟨h .geo, h .targets, h .blocks, h .objs, h .certs, h .certsNew, h .failed0, h .failed1, h .ready, h .rebuilding, h .spaceLow, h
    .flushReady, h .wpReleased, h .cmdErr, h .singleCopy, h .images, h .dir0, h .dir1, h .nf0, h .nf1, h .flush, h .faultLog, h
    .auditLog, h .boundB, h .retireMap, h .partials, h .swapImage, h .serials⟩

theorem hl_of_only {l : List Part} {s t : State} (h : Only l s t) (hl : (HlReg.all.any fun r => l.contains (.hl r)) = false) :
    t.hl = s.hl :=
  HlReg.eq_of_same fun r => h.same (.hl r) (by simpa using List.any_eq_false.mp hl r r.mem_all)

theorem TtReg.eq_of_same {a b : Machine.Tether} (h : ∀ r, TtReg.Same a b r) : b = a := by
  cases a
  cases b
  simp only [Tether.mk.injEq]
  exact ⟨h .lanes, h .linkUp, h .hbIn, h .retraining, h .retrains, h .retransmits, h .txSeq, h .rxSeq, h .unacked, h .mirror, h .mirrorA, h
    .mirrorCaps, h .mirrorH, h .split, h .partnerFailed, h .partnerTerm, h .partnerSerial, h .partnerPresent, h .mismatch, h
    .mirrorObjs⟩

theorem tt_of_only {l : List Part} {s t : State} (h : Only l s t) (hl : (TtReg.all.any fun r => l.contains (.tt r)) = false) :
    t.tt = s.tt :=
  TtReg.eq_of_same fun r => h.same (.tt r) (by simpa using List.any_eq_false.mp hl r r.mem_all)

theorem LkReg.eq_of_same {a b : Machine.Links} (h : ∀ r, LkReg.Same a b r) : b = a := by
  cases a
  cases b
  simp only [Links.mk.injEq]
  exact ⟨h .sel, h .selTarget, h .tests⟩

theorem lk_of_only {l : List Part} {s t : State} (h : Only l s t) (hl : (LkReg.all.any fun r => l.contains (.lk r)) = false) :
    t.lk = s.lk :=
  LkReg.eq_of_same fun r => h.same (.lk r) (by simpa using List.any_eq_false.mp hl r r.mem_all)

end Sys2Proof.Frames
end

section
/-! SUPPORT. Outcomes of an instruction on its core, and what stopping a core does (R374, R403). -/

namespace Sys2Proof.ScalarOps

open Sys2Proof Sys2Proof.Machine Sys2Proof.Claims Sys2Proof.Frames

section
variable {s : State} {n op len : Nat} {f : BxFields}

theorem doneState_core (c : Core) : doneState s n f len (.ok { core := c }) = past s n f len c := doneState_ok c false

theorem doneState_goes (c : Core) (a : W64) : doneState s n f len (.ok { core := c, next := some a }) = goNext s n f c a := rfl

theorem doneState_wr (r : Nat) (x : TW) : doneState s n f len (wr (coreAt s n) r x) = past s n f len (withReg (coreAt s n) r x) :=
  doneState_core _

theorem doneState_error (t : Trap) : doneState s n f len (.error t) = enterTrap s n t := rfl

/-- A jump goes to an even address, and traps at an odd one (R380). -/
theorem doneState_jump (c : Core) (a : W64) : doneState s n f len (jump c a) = jumpNext s n f c a := by
  unfold jump jumpNext
  split <;> rfl

theorem vecPower_scalar (c : Core) (h : f.vec = false) : vecPower c f = c := by simp [vecPower, h]

/-- A core that takes an instruction runs or is halted, and waits for nothing. -/
theorem running_of_takes (h : coreTakes s n = true) : (coreAt s n).state ≠ 0 ∧ (coreAt s n).waiting = none := by
  simp only [coreTakes, Bool.and_eq_true, Bool.or_eq_true, beq_iff_eq, Option.isNone_iff_eq_none] at h
  obtain ⟨⟨⟨hstate, hwait⟩, -⟩, -⟩ := h
  exact ⟨by omega, hwait⟩

end

/-! ## Stopping a core (R403) -/

/-- The event and the extend rights that follow a stop change no core. -/
theorem coreAt_stopCore {s : State} {n : Nat} (h : (coreAt s n).state ≠ 0) :
    coreAt (stopCore s n) n = { endWait (coreAt s n) 0 with state := 0, loading := none } := by
  have rights (u : State) (p : Nat) : coreAt (restoreRights u p) n = coreAt u n := coreAt_of_only (restoreRights_only ..) (by decide +kernel) n
  have event (u : State) (p : Nat) : coreAt (raisePad u (32 + n) p) n = coreAt u n := coreAt_of_only (raisePad_only ..) (by decide +kernel) n
  unfold stopCore
  rw [if_neg h]
  dsimp only
  split
  · rw [rights, event, coreAt_modCore_self]
  · exact coreAt_modCore_self ..

theorem endWait_of_none {c : Core} (v : Nat) (h : c.waiting = none) : endWait c v = c := by simp [endWait, h]

/-- A stopped core that waited for nothing keeps all but its state. -/
theorem coreAt_stopCore_of_idle {s : State} {n : Nat} (h : (coreAt s n).state ≠ 0) (hw : (coreAt s n).waiting = none) :
    coreAt (stopCore s n) n = { coreAt s n with state := 0, loading := none } := by
  rw [coreAt_stopCore h, endWait_of_none 0 hw]

end Sys2Proof.ScalarOps
end

section
/-! PROOF. NOP, FENCE, STOP and RTT; TRAP; branches, calls and returns (R380, R397 to R403; O36, O37, O38). -/

namespace Sys2Proof.ScalarOps

open Sys2Proof Sys2Proof.Machine Sys2Proof.Claims

/-! ## Control -/

theorem runPart_ok {s u : State} {n op len : Nat} {f : BxFields} {g : State → Core → Except Trap State} (hr : Runs s n op f len)
    (hg : g s (coreAt s n) = .ok u) : runPart s n op f g = pcPast u n len := by
  obtain ⟨htakes, hfetch⟩ := hr
  rw [runPart, withFetch_found htakes hfetch, hg]
  rfl

theorem runPart_error {s : State} {n op len : Nat} {f : BxFields} {g : State → Core → Except Trap State} {t : Trap} (hr : Runs s n op f len)
    (hg : g s (coreAt s n) = .error t) : runPart s n op f g = enterTrap s n t := by
  obtain ⟨htakes, hfetch⟩ := hr
  rw [runPart, withFetch_found htakes hfetch, hg]

/-- A word of local memory that can be reached loads with its tag (R385). -/
theorem loadWord_ok {c : Core} {a : Nat} (hreach : Reachable c a 8) (htag : (memWord c.mem a).tag < 8) : loadWord c a = .ok (memWord c.mem a) := by
  have hlegal : ¬8 ≤ (memWord c.mem a).tag := by omega
  have haddr : checkAddr c a 8 = .ok () := by rw [checkAddr, hreach]
  simp only [loadWord, haddr, if_neg hlegal, bind, Except.bind]

/-- The frame that RTT pops (R401). -/
theorem popFrame_ok {c : Core} (hroom : c.dsp.d.toNat + 32 ≤ c.dsHigh)
    (hwords : ∀ k < 4, Reachable c (c.dsp.d.toNat + 8 * k) 8 ∧ (memWord c.mem (c.dsp.d.toNat + 8 * k)).tag < 8) :
    popFrame c = .ok (memWord c.mem c.dsp.d.toNat, memWord c.mem (c.dsp.d.toNat + 24),
      { c with flg := memWord c.mem c.dsp.d.toNat, trapActive := false, dsp := mkTW tPtr (c.dsp.d.toNat + 32) }) := by
  have hload (k : Nat) (hk : k < 4) := loadWord_ok (hwords k hk).1 (hwords k hk).2
  have h0 := hload 0 (by omega)
  have h1 := hload 1 (by omega)
  have h2 := hload 2 (by omega)
  have h3 := hload 3 (by omega)
  simp only [Nat.mul_zero, Nat.add_zero, Nat.mul_one] at h0 h1
  rw [popFrame]
  simp only [if_neg (show ¬c.dsHigh < c.dsp.d.toNat + 32 by omega), h0, h1, h2, h3, bind, Except.bind]

/-- Settles O37: each instruction by what it makes of its core. -/
theorem benxisControl : Obligations.BenxisControl := by
  intro s n f len hv c d
  refine ⟨fun hr => ?nop, fun hr => ?fence, fun hr => ?stop, fun hr hroom hwords => ?rtt⟩
  case nop => rw [exec_of_runs hr rfl, doneState_core]
  case fence => rw [exec_of_runs hr rfl, doneState_core]
  case stop =>
    obtain ⟨hstate, hwait⟩ := running_of_takes hr.1
    have hexec : exec (.bxStop n f) s = .next (pcPast (stopCore s n) n len) := congrArg Host.Outcome.next (runPart_ok hr rfl)
    have hcore := coreAt_stopCore_of_idle hstate hwait
    refine ⟨_, hexec, ?_⟩
    rw [pcPast, coreAt_modCore_self, hcore]
    exact ⟨rfl, rfl, rfl, rfl, rfl⟩
  case rtt =>
    obtain ⟨hstate, hwait⟩ := running_of_takes hr.1
    have hexec : exec (.bxRtt n f) s = .next (if (memWord c.mem (d + 24)).tag ≠ tCode then stopCore (modCore s n fun x => { x with double := true }) n
        else if (memWord c.mem (d + 24)).d.toNat % 2 = 1 then enterTrap s n { code := 0x0C, info := (memWord c.mem (d + 24)).d.toNat }
        else putCore s n { c with flg := memWord c.mem d, trapActive := false, dsp := mkTW tPtr (d + 32), pc := (memWord c.mem (d + 24)).d }) := by
      have hrun : exec (.bxRtt n f) s = .next (withFetch s n 0x03 f _) := rfl
      rw [hrun, withFetch_found hr.1 hr.2]
      rw [popFrame_ok hroom hwords]
    refine ⟨fun htag heven => ?_, fun htag => ⟨_, hexec.trans (congrArg _ (if_pos htag)), ?_⟩⟩
    · rw [hexec, if_neg (by simp [htag, tCode]), if_neg (by omega)]
      rfl
    · have hrunning : (coreAt (modCore s n fun x => { x with double := true }) n).state ≠ 0 := by simpa using hstate
      rw [coreAt_stopCore_of_idle hrunning (by simpa using hwait)]
      simp

/-! ## TRAP -/

/-- The frame's words stand one above the other below DSP, and no other word changes (R399). -/
theorem memWord_putWords_frame {m : SMap TW} {a : Nat} (w x y z : TW) (ha : a % 8 = 0) (b : Nat) :
    memWord (putWords m a [w, x, y, z]) b =
      if b / 8 = a / 8 then w else if b / 8 = a / 8 + 1 then x else if b / 8 = a / 8 + 2 then y else if b / 8 = a / 8 + 3 then z
      else memWord m b := by
  have h1 : (a + 8) / 8 = a / 8 + 1 := by omega
  have h2 : (a + 8 + 8) / 8 = a / 8 + 2 := by omega
  have h3 : (a + 8 + 8 + 8) / 8 = a / 8 + 3 := by omega
  simp only [putWords, memWord, smGet_smSet, h1, h2, h3]
  grind

/-- A trap that can be taken enters the handler (R399). -/
theorem enterTrap_taken {s : State} {n v : Nat} (t : Trap) (hout : (coreAt s n).trapActive = false) (hvec : (coreAt s n).trapVec = some v)
    (hfree : frameBlocked (coreAt s n) = false) : enterTrap s n t = putCore s n (trappedCore (coreAt s n) t) := by
  have hdouble : doubleTrap (coreAt s n) = false := by simp [doubleTrap, hout, hvec, hfree]
  rw [enterTrap, hdouble]
  rfl

/-- A trap that cannot be taken stops the core with a double trap (R401). -/
theorem coreAt_enterTrap_double {s : State} {n : Nat} (t : Trap) (hd : doubleTrap (coreAt s n) = true) (hstate : (coreAt s n).state ≠ 0)
    (hwait : (coreAt s n).waiting = none) : coreAt (enterTrap s n t) n =
      { coreAt s n with double := true, lastCode := t.code, traps := satAdd 0xFFFF (coreAt s n).traps 1, state := 0, loading := none } := by
  rw [enterTrap, if_pos hd, coreAt_stopCore_of_idle (by simpa using hstate) (by simpa using hwait), coreAt_modCore_self]

theorem trappedCore_eq {c : Core} {v : Nat} (t : Trap) (hvec : c.trapVec = some v) : trappedCore c t =
    { c with mem := putWords c.mem (c.dsp.d.toNat - 32) (trapFrame c t), dsp := mkTW 4 (c.dsp.d.toNat - 32), trapActive := true,
             pc := BitVec.ofNat 64 v, lastCode := t.code, traps := satAdd 0xFFFF c.traps 1 } := by
  rw [trappedCore, hvec]
  rfl

/-- Settles O38: TRAP takes the trap of its code, which enters the handler or stops the core. -/
theorem benxisTrapEntersHandler : Obligations.BenxisTrapEntersHandler := by
  intro s n f len hr
  dsimp only
  obtain ⟨hstate, hwait⟩ := running_of_takes hr.1
  have hexec : exec (.bxTrap n f) s = .next (enterTrap s n { code := f.imm.toNat }) := by rw [exec_of_runs hr rfl, doneState_error]
  refine ⟨fun v hout hvec hfree => ?handler, fun hblocked => ?double⟩
  case handler =>
    rw [enterTrap_taken _ hout hvec hfree, trappedCore_eq _ hvec] at hexec
    refine ⟨_, hexec, ?_⟩
    simp only [frameBlocked, Bool.or_eq_false_iff, decide_eq_false_iff_not, bne_eq_false_iff_eq] at hfree
    obtain ⟨⟨⟨⟨hlow, halign⟩, -⟩, -⟩, -⟩ := hfree
    generalize coreAt s n = c at *
    generalize c.dsp.d.toNat = d at *
    have hd : 32 ≤ d := by omega
    have frame (b : Nat) := memWord_putWords_frame (m := c.mem) (a := d - 32) c.flg (mkTW tNat 0) (mkTW tNat f.imm.toNat)
      { d := c.pc, tag := tCode } (by omega) b
    have hframe : trapFrame c { code := f.imm.toNat } = [c.flg, mkTW tNat 0, mkTW tNat f.imm.toNat, { d := c.pc, tag := tCode }] := by
      simp [trapFrame, Trap.cause]
    rw [hframe]
    refine ⟨?_, ?_, ?_, ?_, fun a ha => ?_⟩
    all_goals rw [frame]
    · rw [if_neg (by omega), if_neg (by omega), if_neg (by omega), if_pos (by omega)]
      rfl
    · rw [if_neg (by omega), if_neg (by omega), if_pos (by omega)]
      rfl
    · rw [if_neg (by omega), if_pos (by omega)]
      rfl
    · rw [if_pos (by omega)]
    · repeat rw [if_neg (by omega)]
  case double =>
    have hdouble : doubleTrap (coreAt s n) = true := by
      rcases hblocked with h | h | h <;> simp [doubleTrap, h]
    have hcore := coreAt_enterTrap_double { code := f.imm.toNat } hdouble hstate hwait
    refine ⟨_, hexec, ?_⟩
    rw [hcore]
    exact ⟨rfl, rfl, rfl, rfl, rfl, rfl⟩

/-! ## Branches, calls and returns -/

section
variable {s : State} {n op len : Nat} {f : BxFields}

theorem check1_flg {x : TW} (h : x.tag = 2) : check1 accFlg { x := x, reg := 0, pos := 0 } = .ok () := by
  simp [check1, reservedTag, h, entry, accFlg, bind, Except.bind]

theorem check1_target (h : (regW (coreAt s n) f.rs1).tag = 5) : check1 accTarget (opRs1 (coreAt s n) f) = .ok () := by
  simp [check1, reservedTag, opRs1, h, entry, accTarget, bind, Except.bind]

/-- A conditional branch on a public FLG (R383). -/
theorem doneState_branchIf (cond : Nat → Bool) (h : (coreAt s n).flg.tag = 2) :
    doneState s n f len (branchIf (coreAt s n) f len cond) =
      if cond (coreAt s n).flg.d.toNat then jumpNext s n f (coreAt s n) (nextPc (coreAt s n) len + f.imm) else past s n f len (coreAt s n) := by
  simp only [branchIf, check1_flg h, bind, Except.bind]
  split
  · exact doneState_jump ..
  · exact doneState_core ..

/-- CALL to an even address: the return address pushed, the oldest entries spilled, or the trap of a full spill area (R398). -/
theorem doneState_callTo (a : W64) (heven : a.toNat % 2 = 0) :
    doneState s n f len (callTo (coreAt s n) len a) =
      if (coreAt s n).rstack.length < 64 then goNext s n f { coreAt s n with rstack := nextPc (coreAt s n) len :: (coreAt s n).rstack } a
      else if ((coreAt s n).spill.length + 32) * 8 ≤ (coreAt s n).spillLen
        then goNext s n f { coreAt s n with rstack := nextPc (coreAt s n) len :: (coreAt s n).rstack.take 32,
                                            spill := (coreAt s n).rstack.drop 32 ++ (coreAt s n).spill } a
      else enterTrap s n { code := 0x0F } := by
  rw [callTo, if_neg (by omega), pushReturn]
  split_ifs <;> rfl

theorem doneState_ret_stack {a : W64} {r : List W64} (h : (coreAt s n).rstack = a :: r) :
    doneState s n f len (bxRet (coreAt s n)) = jumpNext s n f { coreAt s n with rstack := r } a := by
  simp only [bxRet, popReturn, h]
  exact doneState_jump ..

theorem doneState_ret_spill {a : W64} {r : List W64} (h : (coreAt s n).rstack = []) (hs : (coreAt s n).spill.take 32 = a :: r) :
    doneState s n f len (bxRet (coreAt s n)) =
      jumpNext s n f { coreAt s n with rstack := r, spill := (coreAt s n).spill.drop 32 } a := by
  rw [bxRet, popReturn, h, hs]
  exact doneState_jump ..

theorem doneState_ret_empty (h : (coreAt s n).rstack = []) (hs : (coreAt s n).spill = []) :
    doneState s n f len (bxRet (coreAt s n)) = enterTrap s n { code := 0x10 } := by
  rw [bxRet, popReturn, h, hs]
  rfl

end

/-- Settles O36: each instruction runs its jump, branch, call or return. -/
theorem benxisBranchesCallsReturns : Obligations.BenxisBranchesCallsReturns := by
  intro s n f len hv
  dsimp only
  refine ⟨fun hr => ?b, fun hflg => ?conditional, fun i target hi heven => ?call, fun hr htag => ?jr, fun hr => ?ret⟩
  case b => rw [exec_of_runs hr rfl, doneState_jump]; rfl
  case conditional =>
    have branch {op : Nat} {i : Instr} (cond : Nat → Bool) (hr : Runs s n op f len)
        (hi : exec i s = .next (runCore s n op f fun c m _ => branchIf c f m cond)) :
        exec i s = .next (if cond (coreAt s n).flg.d.toNat then jumpNext s n f (coreAt s n) ((coreAt s n).pc + BitVec.ofNat 64 len + f.imm)
          else past s n f len (coreAt s n)) := by
      rw [exec_of_runs hr hi, doneState_branchIf cond hflg]
      rfl
    exact ⟨fun hr => branch flagZ hr rfl, fun hr => branch (fun g => !flagZ g) hr rfl,
      fun hr => branch (fun g => flagN g != flagOv g) hr rfl, fun hr => branch (fun g => flagN g == flagOv g) hr rfl,
      fun hr => branch flagC hr rfl, fun hr => branch (fun g => !flagC g) hr rfl, fun hr => branch flagOv hr rfl, fun hr => branch flagDz hr rfl⟩
  case call =>
    rcases hi with ⟨rfl, hr, rfl⟩ | ⟨rfl, hr, htag, rfl⟩
    · rw [exec_of_runs hr rfl]
      exact congrArg _ (doneState_callTo _ heven)
    · rw [exec_of_runs hr rfl, check1_target htag]
      exact congrArg _ (doneState_callTo _ heven)
  case jr =>
    rw [exec_of_runs hr rfl, check1_target htag]
    exact congrArg _ (doneState_jump ..)
  case ret =>
    refine ⟨fun a r h => ?_, fun a r h hs => ?_, fun h hs => ?_⟩
    · rw [exec_of_runs hr rfl, doneState_ret_stack h]
    · rw [exec_of_runs hr rfl, doneState_ret_spill h hs]
    · rw [exec_of_runs hr rfl, doneState_ret_empty h hs]

end Sys2Proof.ScalarOps
end

section
/-! PROOF. Two sources that the tag rules reject (R384; O44); the tag instructions, POISON, RDTIME and DECLASS (Table 17.7; O34). -/

namespace Sys2Proof.ScalarOps

open Sys2Proof Sys2Proof.Machine Sys2Proof.Claims

/-! ## What R384 rejects, in the order of its rules -/

section
variable {ga gb : Accept} {pair : Nat → Nat → Option Nat} {x y : Opd}

theorem check2_reserved_left (hx : 8 ≤ x.x.tag) : check2 ga gb pair x y = .error (x.trap 3) := by
  simp [check2, reservedTag, hx, bind, Except.bind]

theorem check2_reserved_right (hx : x.x.tag < 8) (hy : 8 ≤ y.x.tag) : check2 ga gb pair x y = .error (y.trap 3) := by
  simp [check2, reservedTag, not_le.mpr hx, hy, bind, Except.bind]

/-- The rules behind rule 1, of two tags that are not reserved. -/
theorem check2_of_tags (hx : x.x.tag < 8) (hy : y.x.tag < 8) : check2 ga gb pair x y =
    if x.x.tag = 0 ∧ entry ga 0 ≠ 0 then .error (x.trap (entry ga 0))
    else if y.x.tag = 0 ∧ entry gb 0 ≠ 0 then .error (y.trap (entry gb 0))
    else if x.x.tag = 7 ∧ isPublicRef y.x.tag = true then .error (x.trap 6)
    else if y.x.tag = 7 ∧ isPublicRef x.x.tag = true then .error (y.trap 6)
    else if x.x.tag = 7 ∨ y.x.tag = 7 then
      if x.x.tag = 7 ∧ entry ga 7 ≠ 0 then .error (x.trap (entry ga 7))
      else if y.x.tag = 7 ∧ entry gb 7 ≠ 0 then .error (y.trap (entry gb 7))
      else .ok 7
    else if entry ga x.x.tag ≠ 0 then .error (x.trap (entry ga x.x.tag))
    else if entry gb y.x.tag ≠ 0 then .error (y.trap (entry gb y.x.tag))
    else match pair x.x.tag y.x.tag with
      | some t => .ok t
      | none => .error (y.trap 5) := by
  simp only [check2, reservedTag, if_neg (not_le.mpr hx), if_neg (not_le.mpr hy)]
  rfl

theorem check2_poison_left (hga : entry ga 0 = 4) (hx : x.x.tag = 0) (hy : y.x.tag < 8) : check2 ga gb pair x y = .error (x.trap 4) := by
  rw [check2_of_tags (by omega) hy, if_pos (by simp [hx, hga]), hga]

theorem check2_poison_right (hgb : entry gb 0 = 4) (hx : 0 < x.x.tag) (hx8 : x.x.tag < 8) (hy : y.x.tag = 0) :
    check2 ga gb pair x y = .error (y.trap 4) := by
  rw [check2_of_tags hx8 (by omega), if_neg (by omega), if_pos (by simp [hy, hgb]), hgb]

theorem isPublicRef_of {t : Nat} (h : t = 4 ∨ t = 5 ∨ t = 6) : isPublicRef t = true := by
  rcases h with rfl | rfl | rfl <;> rfl

theorem check2_secret_left (hx : x.x.tag = 7) (hy : y.x.tag = 4 ∨ y.x.tag = 5 ∨ y.x.tag = 6) : check2 ga gb pair x y = .error (x.trap 6) := by
  rw [check2_of_tags (by omega) (by omega), if_neg (by omega), if_neg (by omega), if_pos ⟨hx, isPublicRef_of hy⟩]

theorem check2_secret_right (hx : x.x.tag = 4 ∨ x.x.tag = 5 ∨ x.x.tag = 6) (hy : y.x.tag = 7) : check2 ga gb pair x y = .error (y.trap 6) := by
  rw [check2_of_tags (by omega) (by omega), if_neg (by omega), if_neg (by omega), if_neg (by omega), if_pos ⟨hy, isPublicRef_of hx⟩]

/-- Two public tags that their rows take and that make no pair (R384 rule 4). -/
theorem check2_no_pair (hx : 0 < x.x.tag) (hx7 : x.x.tag < 7) (hy : 0 < y.x.tag) (hy7 : y.x.tag < 7) (hga : entry ga x.x.tag = 0)
    (hgb : entry gb y.x.tag = 0) (hp : pair x.x.tag y.x.tag = none) : check2 ga gb pair x y = .error (y.trap 5) := by
  rw [check2_of_tags (by omega) (by omega), if_neg (by omega), if_neg (by omega), if_neg (by omega), if_neg (by omega), if_neg (by omega),
    if_neg (not_not.mpr hga), if_neg (not_not.mpr hgb), hp]

end

/-! ## What a rejected instruction does -/

/-- Every row of the pairs traps on POISON with 0x04. -/
theorem poison_of_pairRows {n : Nat} {f : BxFields} : ∀ r ∈ pairRows n f, entry r.2.2.1 0 = 4 ∧ entry r.2.2.2.1 0 = 4 := by
  simp [pairRows, entry, accArith, accLogic, accAmount, accCmp, accMulS, accMulU]

section
variable {s : State} {n len fresh : Nat} {f : BxFields} {ga gb : Accept} {pair : Nat → Nat → Option Nat} {imm : Nat → Nat} {t : Trap} {c : Core}

theorem scalarTwo_error (g : (tag w ta tb a b fresh : Nat) → Alu) (hc : check2 ga gb pair (opRs1 c f) (opRs2 c f imm) = .error t) :
    scalarTwo c f fresh ga gb pair imm g = .error t := by
  rw [scalarTwo, hc]
  rfl

theorem startMul_error {signed : Bool} (hc : check2 ga ga pairSame (opRs1 c f) (opRs2 c f immSame) = .error t) :
    startMul c f ga signed = .error t := by
  rw [startMul, hc]
  rfl

theorem startDiv_error {signed : Bool} (hc : check2 ga ga pairSame (opRs1 c f) (opRs2 c f immSame) = .error t) :
    startDiv c f ga signed = .error t := by
  rw [startDiv, hc]
  rfl

theorem bxShift_scalar (hv : f.vec = false) (g : Nat → Nat → Nat → Nat → Alu) : bxShift c f fresh g =
    scalarTwo c f fresh accLogic accAmount pairShift immInt fun _ w _ _ a b x => g w a b x := by
  rw [bxShift, hv]
  rfl

/-- An instruction whose operation ends in a trap enters the handler with it. -/
theorem exec_of_error {op : Nat} {i : Instr} {g : Core → Nat → Nat → BxRes} (hr : Runs s n op f len) (hi : exec i s = .next (runCore s n op f g))
    (hg : g (coreAt s n) len (Config.freeValue s.freeCtr) = .error t) : exec i s = .next (enterTrap s n t) := by
  rw [exec_of_runs hr hi, hg, doneState_error]

/-- Two sources that R384 rejects trap with what it answers, in every instruction of the pairs. -/
theorem exec_of_rejected (hv : f.vec = false) : ∀ r ∈ pairRows n f, Runs s n r.1 f len →
    check2 r.2.2.1 r.2.2.2.1 r.2.2.2.2.1 (opRs1 (coreAt s n) f) (opRs2 (coreAt s n) f r.2.2.2.2.2) = .error t →
    exec r.2.1 s = .next (enterTrap s n t) := by
  simp only [pairRows, List.forall_mem_cons, List.not_mem_nil, false_imp_iff, implies_true, and_true]
  refine ⟨?add, ?sub, ?and, ?or, ?xor, ?andn, ?shl, ?shr, ?sar, ?cmp, ?cteq, ?ctlt, ?mul, ?mulu, ?div, ?divu⟩ <;> intro hr hc
  case add => exact exec_of_error hr rfl (by rw [bxAdd_scalar _ hv, scalarTwo_error _ hc])
  case sub => exact exec_of_error hr rfl (by rw [bxSub_scalar _ hv, scalarTwo_error _ hc])
  case and | or | xor | andn => exact exec_of_error hr rfl (by rw [bxBits_scalar _ hv, scalarTwo_error _ hc])
  case shl | shr | sar => exact exec_of_error hr rfl (by rw [bxShift_scalar hv, scalarTwo_error _ hc])
  case cmp => exact exec_of_error hr rfl (by rw [bxCmp, hc]; rfl)
  case cteq | ctlt => exact exec_of_error hr rfl (by simp [bxCteq, bxCtlt, hv, hc, bind, Except.bind])
  case mul => exact exec_of_error hr rfl (startMul_error hc)
  case mulu => exact exec_of_error hr rfl (by rw [hv]; exact startMul_error hc)
  case div | divu => exact exec_of_error hr rfl (startDiv_error hc)

end

/-- Settles O44: an instruction of the pairs traps with what the rules of R384 answer, one case each. -/
theorem benxisRejectedSourcesTrap : Obligations.BenxisRejectedSourcesTrap := by
  intro s n f len hv r hrow hr
  dsimp only
  obtain ⟨hga, hgb⟩ := poison_of_pairRows r hrow
  have rejected (t : Trap) := exec_of_rejected (t := t) hv r hrow hr
  exact ⟨rejected, fun hx => rejected _ (check2_reserved_left hx), fun hx hy => rejected _ (check2_reserved_right hx hy),
    fun hx hy => rejected _ (check2_poison_left hga hx hy), fun hx hx8 hy => rejected _ (check2_poison_right hgb hx hx8 hy),
    fun hx hy => rejected _ (check2_secret_left hx hy), fun hx hy => rejected _ (check2_secret_right hx hy),
    fun hx hx7 hy hy7 ha hb hp => rejected _ (check2_no_pair hx hx7 hy hy7 ha hb hp)⟩

/-! ## Tag instructions -/

section
variable {s : State} {n op len : Nat} {f : BxFields}

theorem check1_of_entry {a : Accept} {o : Opd} (h8 : o.x.tag < 8) (he : entry a o.x.tag = 0) : check1 a o = .ok () := by
  simp [check1, reservedTag, not_le.mpr h8, he, bind, Except.bind]

/-- The row of TAGOF and the moves takes every tag that is not reserved. -/
theorem check1_any {o : Opd} (h8 : o.x.tag < 8) : check1 accAny o = .ok () := by
  refine check1_of_entry h8 ?_
  generalize o.x.tag = t at h8
  interval_cases t <;> rfl

/-- A retagging that its row takes writes rs1's data under the tag it names, and SECRET under SECRET (Table 17.7). -/
theorem exec_retag {i : Instr} {ga : Accept} {tag : Nat} (hr : Runs s n op f len)
    (hi : exec i s = .next (runCore s n op f fun c _ _ => retag c f ga tag)) (hc : check1 ga (opRs1 (coreAt s n) f) = .ok ()) :
    exec i s = .next (rdNext s n f len { d := (regW (coreAt s n) f.rs1).d, tag := if (regW (coreAt s n) f.rs1).tag = 7 then 7 else tag }) := by
  rw [exec_of_runs hr hi, retag, hc]
  exact congrArg _ (doneState_wr ..)

/-- A retagging whose row takes no SECRET writes the tag it names. -/
theorem exec_retag_public {i : Instr} {ga : Accept} {tag : Nat} (hr : Runs s n op f len)
    (hi : exec i s = .next (runCore s n op f fun c _ _ => retag c f ga tag)) (h7 : (regW (coreAt s n) f.rs1).tag < 7)
    (he : entry ga (regW (coreAt s n) f.rs1).tag = 0) : exec i s = .next (rdNext s n f len { d := (regW (coreAt s n) f.rs1).d, tag := tag }) := by
  rw [exec_retag hr hi (check1_of_entry (o := opRs1 (coreAt s n) f) (by change (regW _ _).tag < 8; omega) he), if_neg (by omega)]

/-- DECLASS of a SECRET value by a HANDLE (R388): the licence decides. -/
theorem exec_declass {p : Nat} (hr : Runs s n 0x57 f len) (hx : (regW (coreAt s n) f.rs1).tag = 7) (hy : (regW (coreAt s n) f.rs2).tag = 6)
    (hi : f.i = false) (hp : padOfCore s n = some p) :
    exec (.bxDeclass n f) s = .next (if declassOk s p (regW (coreAt s n) f.rs2).d.toNat = true
      then pcPast (modCore s n fun k => { withReg k f.rd { d := (regW (coreAt s n) f.rs1).d, tag := 3 } with declass := satAdd 0xFFFF k.declass 1 }) n len
      else enterTrap s n { code := 0x08 }) := by
  have hopd : opRs2 (coreAt s n) f immSame = { x := regW (coreAt s n) f.rs2, reg := f.rs2, pos := 2 } := by simp [opRs2, hi]
  have hresX : reservedTag (opRs1 (coreAt s n) f) = .ok () := by simp [reservedTag, opRs1, hx]
  have hresY : reservedTag { x := regW (coreAt s n) f.rs2, reg := f.rs2, pos := 2 } = .ok () := by simp [reservedTag, hy]
  have hvalue : check1 accDeclassValue (opRs1 (coreAt s n) f) = .ok () := check1_of_entry (by simp [opRs1, hx]) (by simp [opRs1, hx, entry, accDeclassValue])
  have hkey : check1 accDeclassKey { x := regW (coreAt s n) f.rs2, reg := f.rs2, pos := 2 } = .ok () :=
    check1_of_entry (by simp [hy]) (by simp [hy, entry, accDeclassKey])
  split
  next hlicence =>
    refine congrArg Host.Outcome.next (runPart_ok hr ?_)
    simp only [hopd, hresX, hresY, hvalue, hkey, hp, hlicence, bind, Except.bind]
    rfl
  next hnone =>
    refine congrArg Host.Outcome.next (runPart_error hr ?_)
    simp only [hopd, hresX, hresY, hvalue, hkey, hp, hnone, bind, Except.bind]
    rfl

end

/-- Settles O34: each instruction by the value it writes to rd, and DECLASS by its licence. -/
theorem benxisTagsDeclassAndTime : Obligations.BenxisTagsDeclassAndTime := by
  intro s n f len _
  dsimp only
  refine ⟨fun hr htag => ?tagof, fun hc => ⟨fun hr => exec_retag hr rfl hc, fun hr => exec_retag hr rfl hc, fun hr => ?secret⟩,
    fun hr hc => exec_retag hr rfl hc, fun hr htag => ?mkptr, fun hr htag => ?mkhandle, fun hr => ?poison, fun hr => ?rdtime,
    fun p hr hx hy hi hp => exec_declass hr hx hy hi hp⟩
  case tagof =>
    have hany : check1 accAny (opRs1 (coreAt s n) f) = .ok () := check1_any htag
    rw [exec_of_runs hr rfl, hany]
    exact congrArg _ (doneState_wr ..)
  case secret => simpa [tSecret] using exec_retag (i := .bxClass n f) hr rfl hc
  case mkptr => exact exec_retag_public hr rfl (by omega) (by rw [htag]; rfl)
  case mkhandle => exact exec_retag_public hr rfl (by omega) (by rcases htag with h | h <;> rw [h] <;> rfl)
  case poison => exact ⟨_, by rw [exec_of_runs hr rfl, doneState_ok]; rfl⟩
  case rdtime => rw [exec_of_runs hr rfl, doneState_wr]; rfl

end Sys2Proof.ScalarOps
end

section
/-! PROOF. Loads, stores and LEA, the data stack, moves and special registers (R383 to R385, R396, R397; O35). -/

namespace Sys2Proof.ScalarOps

open Sys2Proof Sys2Proof.Machine Sys2Proof.Claims

/-! ## Instructions that complete on their core -/

section
variable {s : State} {n op len : Nat} {f : BxFields} {i : Instr} {g : Core → Nat → Nat → BxRes}

/-- An instruction that completes with a core and draws nothing moves past itself with that core. -/
theorem exec_of_core {c : Core} (hr : Runs s n op f len) (hi : exec i s = .next (runCore s n op f g))
    (hg : g (coreAt s n) len (Config.freeValue s.freeCtr) = .ok { core := c }) : exec i s = .next (past s n f len c) := by
  rw [exec_of_runs hr hi, hg, doneState_core]

/-- An instruction that writes rd alone. -/
theorem exec_of_wr {x : TW} (hr : Runs s n op f len) (hi : exec i s = .next (runCore s n op f g))
    (hg : g (coreAt s n) len (Config.freeValue s.freeCtr) = wr (coreAt s n) f.rd x) : exec i s = .next (rdNext s n f len x) :=
  exec_of_core hr hi hg

end

/-! ## Local memory (R385, R398) -/

section
variable {c : Core} {f : BxFields} {a k : Nat}

theorem checkAddr_ok (h : Reachable c a k) : checkAddr c a k = .ok () := by rw [checkAddr, h]

theorem effAddr_ok (h : AddrTags c f) : effAddr c f = .ok (addrOf c f) := by
  simp only [effAddr, show check2 accBase accIndex pairAddr (opRs1 c f) (opRs2 c f immInt) = .ok tPtr from h, opRs2_d]
  rfl

theorem storeWord_ok (x : TW) (hreach : Reachable c a 8) (hcode : (memWord c.mem a).tag ≠ 5) : storeWord c a x = .ok (withWord c a x) := by
  simp only [storeWord, checkAddr_ok hreach, tCode, hcode, if_false, bind, Except.bind]
  rfl

/-- A part of a word that is no PTR, CODE or HANDLE loads with the word's tag. -/
theorem loadElement_ok (hreach : Reachable c a k) (h8 : (memWord c.mem a).tag < 8) (href : isPublicRef (memWord c.mem a).tag = false) :
    loadElement c a k = .ok (leNat (slice (twBytes (memWord c.mem a)) (a % 8) k), (memWord c.mem a).tag) := by
  simp only [loadElement, checkAddr_ok hreach, if_neg (not_le.mpr h8), href]
  rfl

theorem not_ref {t : Nat} (h : isPublicRef t = false) : t ≠ 4 ∧ t ≠ 5 ∧ t ≠ 6 := by
  simpa [isPublicRef, tPtr, tCode, tHandle, and_assoc] using h

theorem reservedTag_ok {o : Opd} (h : o.x.tag < 8) : reservedTag o = .ok () := if_neg (not_le.mpr h)

theorem lt_eight_of_check1 {ga : Accept} {o : Opd} (h : check1 ga o = .ok ()) : o.x.tag < 8 := by
  by_contra hge
  simp [check1, reservedTag, not_lt.mp hge, bind, Except.bind] at h

variable (hv : f.vec = false) (ht : AddrTags c f)
include hv ht

theorem bxLd8_ok (hreach : Reachable c (addrOf c f).toNat 8) (h8 : (memWord c.mem (addrOf c f).toNat).tag < 8) :
    bxLd8 c f = wr c f.rd (memWord c.mem (addrOf c f).toNat) := by
  simp [bxLd8, hv, effAddr_ok ht, loadWord_ok hreach h8, bind, Except.bind]

theorem bxLdSub_ok (signed : Bool) (hreach : Reachable c (addrOf c f).toNat k) (h8 : (memWord c.mem (addrOf c f).toNat).tag < 8)
    (href : isPublicRef (memWord c.mem (addrOf c f).toNat).tag = false) :
    let part := leNat (slice (twBytes (memWord c.mem (addrOf c f).toNat)) ((addrOf c f).toNat % 8) k)
    bxLdSub c f k signed = wr c f.rd (mkTW (memWord c.mem (addrOf c f).toNat).tag (if signed then ofSigned 64 (toSigned (8 * k) part) else part)) := by
  simp [bxLdSub, hv, effAddr_ok ht, loadElement_ok hreach h8 href, bind, Except.bind]

theorem bxSt8_ok (hreach : Reachable c (addrOf c f).toNat 8) (h8 : (regW c f.rd).tag < 8) (hcode : (memWord c.mem (addrOf c f).toNat).tag ≠ 5) :
    bxSt8 c f = .ok { core := withWord c (addrOf c f).toNat (regW c f.rd) } := by
  simp [bxSt8, hv, reservedTag_ok (o := opRd c f) h8, effAddr_ok ht, storeWord_ok _ hreach hcode, bind, Except.bind]

omit hv in
theorem bxStSub_ok (hreach : Reachable c (addrOf c f).toNat k) (hrd : check1 accSub (opRd c f) = .ok ())
    (href : isPublicRef (memWord c.mem (addrOf c f).toNat).tag = false) :
    bxStSub c f k = .ok { core := (withWord c (addrOf c f).toNat
      (subStore (memWord c.mem (addrOf c f).toNat) ((addrOf c f).toNat % 8) (leBytes k (regW c f.rd).d.toNat) (regW c f.rd).tag)) } := by
  obtain ⟨h4, h5, h6⟩ := not_ref href
  have hmixed : ¬((memWord c.mem (addrOf c f).toNat).tag = 4 ∨ (memWord c.mem (addrOf c f).toNat).tag = 6) := not_or.mpr ⟨h4, h6⟩
  simp only [bxStSub, reservedTag_ok (lt_eight_of_check1 hrd), effAddr_ok ht, hrd, checkAddr_ok hreach, tCode, tPtr, tHandle, h5, hmixed, if_false, bind, Except.bind]
  rfl

end

/-! ## The data stack (R397) -/

section
variable {c : Core} {f : BxFields}

theorem push_addr (h : 8 ≤ c.dsp.d.toNat) : (c.dsp.d - 8).toNat = c.dsp.d.toNat - 8 := by bv_omega

theorem bxPush_limit (h8 : (regW c f.rs1).tag < 8) (h : c.dsp.d.toNat < c.dsLow + 8) :
    bxPush c f = .error { code := 0x0E, info := (c.dsp.d - 8).toNat } := by
  simp [bxPush, reservedTag_ok (o := opRs1 c f) h8, h, bind, Except.bind]

theorem bxPush_ok (h8 : (regW c f.rs1).tag < 8) (h : c.dsLow + 8 ≤ c.dsp.d.toNat) (hreach : Reachable c (c.dsp.d.toNat - 8) 8)
    (hcode : (memWord c.mem (c.dsp.d.toNat - 8)).tag ≠ 5) :
    bxPush c f = .ok { core := { withWord c (c.dsp.d.toNat - 8) (regW c f.rs1) with dsp := mkTW 4 (c.dsp.d.toNat - 8) } } := by
  simp only [bxPush, reservedTag_ok (o := opRs1 c f) h8, push_addr (by omega : 8 ≤ c.dsp.d.toNat), if_neg (not_lt.mpr h), storeWord_ok _ hreach hcode]
  rfl

theorem bxPop_limit (h : c.dsHigh < c.dsp.d.toNat + 8) : bxPop c f = .error { code := 0x0E, info := c.dsp.d.toNat + 8 } := if_pos h

theorem bxPop_ok (h : c.dsp.d.toNat + 8 ≤ c.dsHigh) (hreach : Reachable c c.dsp.d.toNat 8) (h8 : (memWord c.mem c.dsp.d.toNat).tag < 8) :
    bxPop c f = .ok { core := { withReg c f.rd (memWord c.mem c.dsp.d.toNat) with dsp := mkTW 4 (c.dsp.d.toNat + 8) } } := by
  simp only [bxPop, if_neg (not_lt.mpr h), loadWord_ok hreach h8]
  rfl

/-- DSADJ by an operand its row takes: to ds_high at most. -/
def dsadjBy (c : Core) (y : TW) : BxRes :=
  if (c.dsHigh : Int) < c.dsp.d.toNat + (if y.tag = 2 then (y.d.toNat : Int) else y.d.toInt) then .error { code := 0x0E, info := (c.dsp.d + y.d).toNat }
  else .ok { core := { c with dsp := { d := c.dsp.d + y.d, tag := 4 } } }

theorem bxDsadj_imm (h : f.i = true) : bxDsadj c f = dsadjBy c { d := f.imm, tag := 1 } := by
  rw [bxDsadj]
  simp only [h, if_true]
  rfl

theorem bxDsadj_reg (h : f.i = false) (ht : (regW c f.rs2).tag = 1 ∨ (regW c f.rs2).tag = 2) : bxDsadj c f = dsadjBy c (regW c f.rs2) := by
  have hrow : check1 accIndex { x := regW c f.rs2, reg := f.rs2, pos := 2 } = .ok () := by
    rcases ht with h | h <;> exact check1_of_entry (by simp [h]) (by simp [h, entry, accIndex])
  simp only [bxDsadj, h, Bool.false_eq_true, if_false, hrow]
  rfl

theorem doneState_dsadjBy {s : State} {n len : Nat} (y : TW) : doneState s n f len (dsadjBy (coreAt s n) y) =
    if ((coreAt s n).dsHigh : Int) < (coreAt s n).dsp.d.toNat + (if y.tag = 2 then (y.d.toNat : Int) else y.d.toInt)
      then enterTrap s n { code := 0x0E, info := ((coreAt s n).dsp.d + y.d).toNat }
      else past s n f len { coreAt s n with dsp := { d := (coreAt s n).dsp.d + y.d, tag := 4 } } := by
  rw [dsadjBy, apply_ite (doneState s n f len), doneState_core, doneState_error]

end

/-! ## Special registers (R396) -/

section
variable {c : Core} {f : BxFields}

theorem landMul_eq (c : Core) : landMul c =
    { c with mlo := (c.mul.getD { lo := c.mlo, hi := c.mhi }).lo, mhi := (c.mul.getD { lo := c.mlo, hi := c.mhi }).hi, mul := none } := by
  rw [landMul]
  split
  next h => rw [h]; rfl
  next h =>
    rcases c
    subst h
    rfl

theorem landDiv_eq (c : Core) : landDiv c =
    { c with quo := (c.div.getD { lo := c.quo, hi := c.rem }).lo, rem := (c.div.getD { lo := c.quo, hi := c.rem }).hi, div := none } := by
  rw [landDiv]
  split
  next h => rw [h]; rfl
  next h =>
    rcases c
    subst h
    rfl

theorem landFor_mul {r : Nat} (h : r < 2) : landFor c r = landMul c := if_pos h

theorem landFor_div {r : Nat} (h2 : 2 ≤ r) (h4 : r < 4) : landFor c r = landDiv c := by rw [landFor, if_neg (by omega), if_pos h4]

theorem landFor_plain {r : Nat} (h : 4 ≤ r) : landFor c r = c := by rw [landFor, if_neg (by omega), if_neg (by omega)]

theorem bxMfs_ok {c₁ : Core} {x : TW} (hland : landFor c f.rs1 = c₁) (hx : readSpecial c₁ f.rs1 = x) (h8 : x.tag < 8) :
    bxMfs c f = .ok { core := withReg c₁ f.rd x } := by
  rw [bxMfs, hland, hx, if_neg (not_le.mpr h8)]
  rfl

theorem bxMts_ok (h8 : (regW c f.rs1).tag < 8) (h6 : f.rd ≠ 6) :
    bxMts c f = .ok { core := writeSpecial (landFor c f.rd) f.rd (regW c f.rs1) } := by
  simp [bxMts, check1_any (o := opRs1 c f) h8, h6, bind, Except.bind]

theorem bxMts_dsp (h8 : (regW c f.rs1).tag < 8) (h6 : f.rd = 6) : bxMts c f =
    if (regW c f.rs1).tag ≠ 4 then .error { code := 5, reg := f.rs1, pos := 1 }
    else if (regW c f.rs1).d.toNat % 8 ≠ 0 then .error { code := 0x0C, reg := f.rs1, pos := 1, info := (regW c f.rs1).d.toNat }
    else .ok { core := { c with dsp := regW c f.rs1 } } := by
  simp only [bxMts, check1_any (o := opRs1 c f) h8, h6, true_and]
  rfl

end

/-- Settles O35: each instruction by what it makes of its core. -/
theorem benxisMemoryStackAndMoves : Obligations.BenxisMemoryStackAndMoves := by
  refine ⟨fun s n f len hv => ?memory, fun s n f len hv => ?others⟩
  case memory =>
    intro c a word y part ht
    have load {op k : Nat} {i : Instr} (signed : Bool) (h8 : word.tag < 8) (href : isPublicRef word.tag = false) (hr : Runs s n op f len)
        (hreach : Reachable c a k) (hi : exec i s = .next (runCore s n op f fun c _ _ => bxLdSub c f k signed)) :
        exec i s = .next (rdNext s n f len (mkTW word.tag (if signed then ofSigned 64 (toSigned (8 * k) (part k)) else part k))) :=
      exec_of_wr hr hi (bxLdSub_ok hv ht signed hreach h8 href)
    have store {op k : Nat} {i : Instr} (hrd : check1 accSub (opRd c f) = .ok ()) (href : isPublicRef word.tag = false) (hr : Runs s n op f len)
        (hreach : Reachable c a k) (hi : exec i s = .next (runCore s n op f fun c _ _ => bxStSub c f k)) :
        exec i s = .next (past s n f len (withWord c a (subStore word (a % 8) (leBytes k y.d.toNat) y.tag))) :=
      exec_of_core hr hi (bxStSub_ok ht hreach hrd href)
    refine ⟨fun hr => ?lea, fun hr hreach h8 => exec_of_wr hr rfl (bxLd8_ok hv ht hreach h8), fun h8 href => ?loads,
      fun hr h8 hreach hcode => exec_of_core hr rfl (bxSt8_ok hv ht hreach h8 hcode), fun hrd href => ?stores⟩
    case lea => exact exec_of_wr hr rfl (by rw [effAddr_ok ht]; rfl)
    case loads =>
      exact ⟨fun hr h => load false h8 href hr h rfl, fun hr h => load true h8 href hr h rfl, fun hr h => load false h8 href hr h rfl,
        fun hr h => load true h8 href hr h rfl, fun hr h => load false h8 href hr h rfl, fun hr h => load true h8 href hr h rfl⟩
    case stores => exact ⟨fun hr h => store hrd href hr h rfl, fun hr h => store hrd href hr h rfl, fun hr h => store hrd href hr h rfl⟩
  case others =>
    intro c d x next m q
    refine ⟨fun hr h8 => ⟨fun h => ?pushLimit, fun h hreach hcode => ?push⟩, fun hr => ⟨fun h => ?popLimit, fun h hreach h8 => ?pop⟩,
      fun hr hi => ?adjImm, fun hr hi ht => ?adjReg, fun hr h8 => ?mov, fun hr => exec_of_wr hr rfl rfl, fun hr => exec_of_wr hr rfl rfl,
      fun hr => exec_of_wr hr rfl rfl, fun hr => exec_of_wr hr rfl rfl, fun hr => ?mfs, fun hr h8 => ?mts⟩
    case pushLimit => exact exec_of_error hr rfl (bxPush_limit h8 h)
    case push => exact exec_of_core hr rfl (bxPush_ok h8 h hreach hcode)
    case popLimit => exact exec_of_error hr rfl (bxPop_limit h)
    case pop => exact exec_of_core hr rfl (bxPop_ok h hreach h8)
    case adjImm => rw [exec_of_runs hr rfl, bxDsadj_imm hi, doneState_dsadjBy]; rfl
    case adjReg => rw [exec_of_runs hr rfl, bxDsadj_reg hi ht, doneState_dsadjBy]
    case mov =>
      refine exec_of_wr hr rfl ?_
      simp only [hv, Bool.false_eq_true, if_false, check1_any (o := opRs1 (coreAt s n) f) h8]
      rfl
    case mfs =>
      have read {c₁ : Core} {v : TW} (hland : landFor c f.rs1 = c₁) (hv : readSpecial c₁ f.rs1 = v) (h8 : v.tag < 8) :
          exec (.bxMfs n f) s = .next (past s n f len (withReg c₁ f.rd v)) := exec_of_core hr rfl (bxMfs_ok hland hv h8)
      refine ⟨fun h => ?_, fun h h8 => ?_, fun h h8 => ?_, fun h h8 => ?_, fun h hlo hhi => ?_, fun h2 h4 hlo hhi => ?_⟩
      · exact read (landFor_plain (by omega)) (by rw [h]; rfl) (by simp)
      · exact read (landFor_plain (by omega)) (by rw [h]; rfl) h8
      · exact read (landFor_plain (by omega)) (by rw [h]; rfl) h8
      · exact read (landFor_plain (by omega)) (by rw [h]; rfl) h8
      · rcases (by omega : f.rs1 = 0 ∨ f.rs1 = 1) with h0 | h1
        · exact read ((landFor_mul h).trans (landMul_eq c)) (by rw [h0]; rfl) (by rw [h0]; exact hlo)
        · exact read ((landFor_mul h).trans (landMul_eq c)) (by rw [h1]; rfl) (by rw [h1]; exact hhi)
      · rcases (by omega : f.rs1 = 2 ∨ f.rs1 = 3) with h0 | h1
        · exact read ((landFor_div h2 h4).trans (landDiv_eq c)) (by rw [h0]; rfl) (by rw [h0]; exact hlo)
        · exact read ((landFor_div h2 h4).trans (landDiv_eq c)) (by rw [h1]; rfl) (by rw [h1]; exact hhi)
    case mts =>
      have write (h6 : f.rd ≠ 6) : exec (.bxMts n f) s = .next (past s n f len (writeSpecial (landFor c f.rd) f.rd x)) :=
        exec_of_core hr rfl (bxMts_ok h8 h6)
      refine ⟨fun h => ?_, fun h => ?_, fun h => ?_, fun h => ?_, fun h => ?_, fun h => ?_, fun h => ?_⟩
      · rw [write (by omega), landFor_plain (by omega), h]; rfl
      · rw [write (by omega), landFor_plain (by omega), h]; rfl
      · rw [exec_of_runs hr rfl, bxMts_dsp h8 h]
        simp only [apply_ite (doneState s n f len), doneState_core, doneState_error]
        rfl
      · rw [write (by omega), landFor_mul (by omega), h, landMul_eq]; rfl
      · rw [write (by omega), landFor_mul (by omega), h, landMul_eq]; rfl
      · rw [write (by omega), landFor_div (by omega) (by omega), h, landDiv_eq]; rfl
      · rw [write (by omega), landFor_div (by omega) (by omega), h, landDiv_eq]; rfl

end Sys2Proof.ScalarOps
end

section
/-! PROOF. The vector forms: lanes, plain and first-fault loads, and the 16-byte store (R417 to R421; O33). -/

namespace Sys2Proof.ScalarOps

open Sys2Proof Sys2Proof.Machine Sys2Proof.Claims

/-! ## Lanes -/

theorem vlane_lt (x : BitVec 128) (w i : Nat) : vlane x w i < 2 ^ w := Nat.mod_lt _ (Nat.two_pow_pos _)

theorem laneA_lt (c : Core) (f : BxFields) (w j : Nat) : laneA c f w j < 2 ^ w := vlane_lt ..

theorem laneB_lt (c : Core) (f : BxFields) (w j : Nat) : laneB c f w j < 2 ^ w := by
  unfold laneB
  split
  · exact Nat.mod_lt _ (Nat.two_pow_pos _)
  · exact vlane_lt ..

theorem laneD_lt (c : Core) (f : BxFields) (w j : Nat) : laneD c f w j < 2 ^ w := vlane_lt ..

/-- The number whose digits of `w` bits are the lanes. -/
def lanesNat (w : Nat) (l : List Nat) : Nat := l.foldr (fun v acc => v % 2 ^ w + 2 ^ w * acc) 0

theorem lanesNat_lt (w : Nat) (l : List Nat) : lanesNat w l < 2 ^ (w * l.length) := by
  induction l with
  | nil => simp [lanesNat]
  | cons v r ih =>
    have hv : v % 2 ^ w < 2 ^ w := Nat.mod_lt _ (Nat.two_pow_pos _)
    have hr : 2 ^ w * (lanesNat w r + 1) ≤ 2 ^ w * 2 ^ (w * r.length) := Nat.mul_le_mul_left _ ih
    rw [List.length_cons, Nat.mul_succ, Nat.pow_add, Nat.mul_comm (2 ^ (w * r.length))]
    change v % 2 ^ w + 2 ^ w * lanesNat w r < _
    rw [Nat.mul_succ] at hr
    omega

theorem lanesNat_digit (w : Nat) (l : List Nat) (j : Nat) : lanesNat w l / 2 ^ (w * j) % 2 ^ w = l.getD j 0 % 2 ^ w := by
  induction l generalizing j with
  | nil => simp [lanesNat]
  | cons v r ih =>
    have hv : v % 2 ^ w < 2 ^ w := Nat.mod_lt _ (Nat.two_pow_pos _)
    change (v % 2 ^ w + 2 ^ w * lanesNat w r) / 2 ^ (w * j) % 2 ^ w = _
    cases j with
    | zero => simp
    | succ k =>
      have hrest : (v % 2 ^ w + 2 ^ w * lanesNat w r) / 2 ^ w = lanesNat w r := by
        rw [Nat.add_mul_div_left _ _ (Nat.two_pow_pos _), Nat.div_eq_of_lt hv, Nat.zero_add]
      rw [Nat.mul_succ, Nat.add_comm (w * k), Nat.pow_add, ← Nat.div_div_eq_div_mul, hrest, ih]
      rfl

/-- A register made from lanes holds them. -/
theorem vlane_ofLanes {w : Nat} {l : List Nat} (h : w * l.length ≤ 128) (j : Nat) : vlane (ofLanes w l) w j = l.getD j 0 % 2 ^ w := by
  have hlt : lanesNat w l < 2 ^ 128 := lt_of_lt_of_le (lanesNat_lt w l) (Nat.pow_le_pow_right (by omega) h)
  have hnat : (ofLanes w l).toNat = lanesNat w l := Nat.mod_eq_of_lt hlt
  rw [vlane, hnat, lanesNat_digit]

theorem vlane_ofLanes_range {w j : Nat} (g : Nat → Nat) (h : j < 128 / w) :
    vlane (ofLanes w ((List.range (128 / w)).map g)) w j = g j % 2 ^ w := by
  rw [vlane_ofLanes (by simpa using Nat.mul_div_le 128 w)]
  simp [List.getD_eq_getElem?_getD, h]

/-! ## Lane operations on two sources -/

section
variable {s : State} {n op len tag w : Nat} {f : BxFields} {i : Instr} {g : Core → Nat → Nat → BxRes} {lane : Nat → Nat → Prop}

/-- A vector register written: under W32 its bits are open (log 29). -/
theorem doneState_wrV (x : BitVec 128) (fresh : Nat) (drew : Bool) :
    doneState s n f len (wrV (coreAt s n) f x tag fresh drew) =
      drawn (past s n f len { coreAt s n with v := smSet {} (coreAt s n).v (f.rd % 16) { d := if f.w32 then BitVec.ofNat 128 fresh else x, tag := tag } })
        (b1 (drew || f.w32)) := doneState_ok ..

/-- What writes a register lane by lane, in the words of the statement. -/
theorem lanesNext_of_wrV {x : BitVec 128} {drew : Bool} (hr : Runs s n op f len) (hi : exec i s = .next (runCore s n op f g))
    (hg : g (coreAt s n) len (Config.freeValue s.freeCtr) = wrV (coreAt s n) f x tag (Config.freeValue s.freeCtr) drew)
    (hlane : ∀ j < 128 / w, lane j (vlane x w j)) : lanesNext s n f len tag w lane i := by
  refine ⟨_, _, (exec_of_runs hr hi).trans (congrArg _ (hg ▸ doneState_wrV ..)), fun hw32 j hj => ?_⟩
  rw [hw32]
  exact hlane j hj

variable {ga gb : Accept} {pair : Nat → Nat → Option Nat} {imm : Nat → Nat} {lop : LaneOp}

/-- The lanes' outcomes of an operation on two sources. -/
def laneOuts (c : Core) (f : BxFields) (tag fresh : Nat) (lop : LaneOp) : List Alu :=
  (List.range (128 / laneWidth f)).map fun j =>
    lop tag (laneWidth f) (laneA c f (laneWidth f) j) (laneB c f (laneWidth f) j) (fresh / 2 ^ j)

theorem vecTwo_eq {c : Core} (fresh : Nat) (hc : check2 ga gb pair (vOpd c f.rs1 1) (secondOpd c f imm) = .ok tag) :
    vecTwo c f fresh ga gb pair imm lop =
      if f.chk && tag != tSecret && (laneOuts c f tag fresh lop).any (fun a => a.fl.ov || a.fl.c) then .error { code := 0x09 }
      else wrV c f (ofLanes (laneWidth f) ((laneOuts c f tag fresh lop).map (·.val))) tag fresh
        (tag == tSecret && (laneOuts c f tag fresh lop).any (·.drew)) := by
  rw [vecTwo, hc]
  rfl

/-- An operation that CHK does not stop writes every lane with the lane operation's value. -/
theorem lanesNext_of_vecTwo (hr : Runs s n op f len) (hi : exec i s = .next (runCore s n op f g))
    (hg : g (coreAt s n) len (Config.freeValue s.freeCtr) = vecTwo (coreAt s n) f (Config.freeValue s.freeCtr) ga gb pair imm lop)
    (hc : check2 ga gb pair (vOpd (coreAt s n) f.rs1 1) (secondOpd (coreAt s n) f imm) = .ok tag) (hcalm : f.chk = false ∨ tag = 7)
    (hlane : ∀ j x, lane j ((lop tag (laneWidth f) (laneA (coreAt s n) f (laneWidth f) j) (laneB (coreAt s n) f (laneWidth f) j) x).val
      % 2 ^ laneWidth f)) :
    lanesNext s n f len tag (laneWidth f) lane i := by
  have hgo : ¬((f.chk && tag != tSecret && (laneOuts (coreAt s n) f tag (Config.freeValue s.freeCtr) lop).any (fun a => a.fl.ov || a.fl.c)) = true) := by
    rcases hcalm with h | h <;> simp [h, tSecret]
  rw [vecTwo_eq _ hc, if_neg hgo] at hg
  refine lanesNext_of_wrV hr hi hg fun j hj => ?_
  rw [laneOuts, List.map_map, vlane_ofLanes_range _ hj]
  exact hlane j _

/-- Under CHK a lane with OV or C traps (R391, R417). -/
theorem exec_vecTwo_trap (hr : Runs s n op f len) (hi : exec i s = .next (runCore s n op f g))
    (hg : g (coreAt s n) len (Config.freeValue s.freeCtr) = vecTwo (coreAt s n) f (Config.freeValue s.freeCtr) ga gb pair imm lop)
    (hc : check2 ga gb pair (vOpd (coreAt s n) f.rs1 1) (secondOpd (coreAt s n) f imm) = .ok tag) (hchk : f.chk = true) (htag : tag ≠ 7)
    {j : Nat} (hj : j < 128 / laneWidth f)
    (hflag : ∀ x, let a := lop tag (laneWidth f) (laneA (coreAt s n) f (laneWidth f) j) (laneB (coreAt s n) f (laneWidth f) j) x
      (a.fl.ov || a.fl.c) = true) : exec i s = .next (enterTrap s n { code := 0x09 }) := by
  have hany : (laneOuts (coreAt s n) f tag (Config.freeValue s.freeCtr) lop).any (fun a => a.fl.ov || a.fl.c) = true :=
    List.any_eq_true.mpr ⟨_, List.mem_map.mpr ⟨j, List.mem_range.mpr hj, rfl⟩, hflag _⟩
  refine exec_of_error hr hi ?_
  rw [hg, vecTwo_eq _ hc, hany, hchk, if_pos (by simp [tSecret, htag])]

end

/-! ## The lane operations -/

theorem ofSigned_lt (w : Nat) (i : Int) : ofSigned w i < 2 ^ w := by
  have hpos : (0 : Int) < 2 ^ w := by positivity
  have hlt : i % 2 ^ w < 2 ^ w := Int.emod_lt_of_pos _ hpos
  have hnonneg : 0 ≤ i % 2 ^ w := Int.emod_nonneg _ hpos.ne'
  rw [ofSigned]
  zify
  rwa [Int.toNat_of_nonneg hnonneg]

theorem mask01_lt (w : Nat) (b : Bool) : mask01 w b < 2 ^ w := by
  have hpos := Nat.two_pow_pos w
  unfold mask01
  split <;> omega

theorem allOnes_ne_zero {w : Nat} (h : 0 < w) : 2 ^ w - 1 ≠ 0 := by
  have hpow : 2 ^ 1 ≤ 2 ^ w := Nat.pow_le_pow_right (by omega) h
  omega

theorem mask01_eq_ones {w : Nat} {b : Bool} (h : 0 < w) : mask01 w b = 2 ^ w - 1 ↔ b = true := by
  have hne := allOnes_ne_zero h
  cases b
  · simpa [mask01] using hne.symm
  · simp [mask01]

theorem aluShl_lt {w a k : Nat} : (aluShl w a k).val < 2 ^ w := by
  simp only [aluShl]
  split
  · exact Nat.mod_lt _ (Nat.two_pow_pos _)
  · exact Nat.two_pow_pos _

theorem aluShr_lt {w a k : Nat} (h : a < 2 ^ w) : (aluShr w a k).val < 2 ^ w := by
  simp only [aluShr]
  split
  · exact lt_of_le_of_lt (Nat.div_le_self ..) h
  · exact Nat.two_pow_pos _

/-- A sum of INT lanes that does not fit sets OV, one of NAT or BYTES lanes with a carry sets C. -/
theorem sumAlu_flag {w tag v : Nat} {carry : Bool} {exact : Int} (x : Nat)
    (h : tag = 1 ∧ fits w exact = false ∨ (tag = 2 ∨ tag = 3) ∧ carry = true) :
    ((sumAlu w tag tag v carry exact x).fl.ov || (sumAlu w tag tag v carry exact x).fl.c) = true := by
  have htag : tag ≠ 7 := by omega
  rw [sumAlu_public _ _ _ _ htag htag]
  rcases h with ⟨rfl, hfit⟩ | ⟨h2 | h3, rfl⟩
  · simp [flagsOf, overflowOf, hfit]
  · simp [flagsOf, carryOf, h2]
  · simp [flagsOf, carryOf, h3]

section
variable {c : Core} {f : BxFields} (fresh : Nat) (hv : f.vec = true)
include hv

theorem bxAdd_vec : bxAdd c f fresh =
    vecTwo c f fresh accArith accArith pairAdd immArith fun t w a b x => { aluAdd w t t a b x with drew := false } := if_pos hv

theorem bxSub_vec : bxSub c f fresh =
    vecTwo c f fresh accArith accArith pairSub immArith fun t w a b x => { aluSub w t t a b x with drew := false } := if_pos hv

theorem bxBits_vec (g : Nat → Nat → Nat → Nat) : bxBits c f fresh g =
    vecTwo c f fresh accLogic accLogic pairBits immSame fun _ w a b _ => aluBits w (g w a b) := if_pos hv

theorem bxShift_vec (g : Nat → Nat → Nat → Nat → Alu) : bxShift c f fresh g =
    vecTwo c f fresh accLogic accAmount pairShift immInt fun _ w a b x => g w a b x := if_pos hv

end

/-! ## Vector loads and the 16-byte store -/

theorem loadElements_length_le {c : Core} {k : Nat} (l : List Nat) : (loadElements c k l).1.length ≤ l.length := by
  induction l with
  | nil => simp [loadElements]
  | cons a r ih =>
    rw [loadElements]
    split
    · simp
    · simpa using ih

section
variable {c : Core} {f : BxFields} {size : Nat} {l : List (Nat × Nat)} (haddr : vecAddrCheck c f = .ok tPtr)
include haddr

theorem vecLoad_ok (hl : loadElements c size (elementAddrs c f size) = (l, none)) : vecLoad c f size = .ok { core := { c with
    v := smSet {} c.v (f.rd % 16) { d := ofLanes (8 * size) (l.map Prod.fst), tag := combineTags (l.map Prod.snd) } } } := by
  rw [vecLoad, haddr, hl]
  rfl

theorem vecFirstFault_none {e : Option Trap} (hl : loadElements c size (elementAddrs c f size) = ([], e)) :
    vecFirstFault c f size = .error { code := 0x11, info := (elementAddrs c f size).headD 0 } := by
  simp only [vecFirstFault, haddr, hl, bind, Except.bind]
  rfl

/-- The lanes that a first-fault load leaves: the elements that loaded, then the old ones. -/
def faultLanes (c : Core) (f : BxFields) (size : Nat) (l : List (Nat × Nat)) : List Nat :=
  l.map Prod.fst ++ ((List.range (16 / size)).drop l.length).map fun j => laneD c f (8 * size) j

theorem vecFirstFault_ok {e : Option Trap} (hl : loadElements c size (elementAddrs c f size) = (l, e)) (hne : l ≠ []) :
    vecFirstFault c f size = .ok { core := { c with
      v := smSet {} c.v (f.rd % 16) { d := ofLanes (8 * size) (faultLanes c f size l),
                                      tag := combineTags (l.map Prod.snd ++ (if l.length < 16 / size then [(regV c f.rd).tag] else [])) },
      vff := mkTW 2 l.length } } := by
  have hlen : l.length ≠ 0 := by simpa using hne
  simp only [vecFirstFault, haddr, hl, bind, Except.bind]
  exact if_neg hlen

end

theorem vlane_faultLanes {c : Core} {f : BxFields} {size j : Nat} {l : List (Nat × Nat)} (hlen : l.length ≤ 16 / size)
    (hsize : 8 * size * (16 / size) ≤ 128) (hj : j < 16 / size) :
    vlane (ofLanes (8 * size) (faultLanes c f size l)) (8 * size) j =
      if j < l.length then (l.getD j (0, 0)).1 % 2 ^ (8 * size) else laneD c f (8 * size) j := by
  have hlength : (faultLanes c f size l).length = 16 / size := by simp [faultLanes, hlen]
  rw [vlane_ofLanes (by rw [hlength]; exact hsize), faultLanes]
  split
  next h => simp [List.getD_eq_getElem?_getD, List.getElem?_append_left, h]
  next h =>
    have hkept : l.length + (j - l.length) = j := by omega
    have hrange : j - l.length < 16 / size - l.length := by omega
    simp only [List.getD_eq_getElem?_getD]
    rw [List.getElem?_append_right (by simpa using h)]
    simp [hkept, hj]
    exact Nat.mod_eq_of_lt (vlane_lt ..)

/-- The 16-byte store writes the register's halves as two words of its tag. -/
theorem vecStore_ok {c : Core} {f : BxFields} {a : Nat} {x : VReg}
    (hbase : check2 accBase accIndex pairAddr (opRs1 c f) { x := { tag := 1 }, reg := 0, pos := 2 } = .ok tPtr)
    (ha : ((regW c f.rs1).d + f.imm).toNat = a) (hx : regV c f.rd = x) (h16 : Reachable c a 16) (hlow : Reachable c a 8)
    (hhigh : Reachable c (a + 8) 8) (hcode : (memWord c.mem a).tag ≠ 5) (hcode' : (memWord c.mem (a + 8)).tag ≠ 5) :
    vecStore c f = .ok { core := withWord (withWord c a (mkTW x.tag (vlane x.d 64 0))) (a + 8) (mkTW x.tag (vlane x.d 64 1)) } := by
  have hother : memWord (withWord c a (mkTW x.tag (vlane x.d 64 0))).mem (a + 8) = memWord c.mem (a + 8) := by
    rw [memWord, withWord, smGet_smSet, if_neg (by omega)]
    rfl
  have hfirst : storeWord c a { d := BitVec.ofNat 64 (vlane x.d 64 0), tag := x.tag } = .ok (withWord c a (mkTW x.tag (vlane x.d 64 0))) :=
    storeWord_ok _ hlow hcode
  have hsecond : storeWord (withWord c a (mkTW x.tag (vlane x.d 64 0))) (a + 8) { d := BitVec.ofNat 64 (vlane x.d 64 1), tag := x.tag } =
      .ok (withWord (withWord c a (mkTW x.tag (vlane x.d 64 0))) (a + 8) (mkTW x.tag (vlane x.d 64 1))) :=
    storeWord_ok _ hhigh (hother ▸ hcode')
  simp only [vecStore, tInt, hbase, ha, hx, checkAddr_ok h16, hfirst, hsecond, bind, Except.bind]

section
variable {s : State} {n len tag : Nat} {f : BxFields} (hv : f.vec = true)
include hv

theorem lanesNext_bits {op : Nat} {i : Instr} (g : Nat → Nat → Nat → Nat) (hchk : f.chk = false)
    (hlt : ∀ w a b, a < 2 ^ w → b < 2 ^ w → g w a b < 2 ^ w)
    (hc : check2 accLogic accLogic pairBits (vOpd (coreAt s n) f.rs1 1) (secondOpd (coreAt s n) f immSame) = .ok tag) (hr : Runs s n op f len)
    (hi : exec i s = .next (runCore s n op f fun c _ x => bxBits c f x g)) :
    lanesNext s n f len tag (laneWidth f)
      (fun j v => v = g (laneWidth f) (laneA (coreAt s n) f (laneWidth f) j) (laneB (coreAt s n) f (laneWidth f) j)) i :=
  lanesNext_of_vecTwo hr hi (bxBits_vec _ hv g) hc (.inl hchk) fun j _ => Nat.mod_eq_of_lt (hlt _ _ _ (laneA_lt _ _ _ j) (laneB_lt ..))

theorem lanesNext_shift {op : Nat} {i : Instr} (g : Nat → Nat → Nat → Alu) (hchk : f.chk = false)
    (hlt : ∀ w a b, a < 2 ^ w → (g w a b).val < 2 ^ w)
    (hc : check2 accLogic accAmount pairShift (vOpd (coreAt s n) f.rs1 1) (secondOpd (coreAt s n) f immInt) = .ok tag) (hr : Runs s n op f len)
    (hi : exec i s = .next (runCore s n op f fun c _ x => bxShift c f x fun w a k _ => g w a k)) :
    lanesNext s n f len tag (laneWidth f)
      (fun j v => v = (g (laneWidth f) (laneA (coreAt s n) f (laneWidth f) j) (laneB (coreAt s n) f (laneWidth f) j)).val) i :=
  lanesNext_of_vecTwo hr hi (bxShift_vec _ hv _) hc (.inl hchk) fun j _ => Nat.mod_eq_of_lt (hlt _ _ _ (laneA_lt _ _ _ j))

/-- CTLT on lanes: all ones or 0, in the order of the tag. -/
theorem lanesNext_ctlt (hw : 0 < laneWidth f) (hchk : f.chk = false)
    (hc : check2 accLogic accLogic pairSame (vOpd (coreAt s n) f.rs1 1) (secondOpd (coreAt s n) f immSame) = .ok tag) (hr : Runs s n 0x1A f len) :
    let w := laneWidth f
    lanesNext s n f len tag w (fun j v => (v = 2 ^ w - 1 ∨ v = 0) ∧
      (tag = 1 → (v = 2 ^ w - 1 ↔ toSigned w (laneA (coreAt s n) f w j) < toSigned w (laneB (coreAt s n) f w j))) ∧
      (tag = 2 ∨ tag = 3 → (v = 2 ^ w - 1 ↔ laneA (coreAt s n) f w j < laneB (coreAt s n) f w j))) (.bxCtlt n f) := by
  intro w
  refine lanesNext_of_vecTwo (g := fun c _ x => bxCtlt c f x) hr rfl (if_pos hv) hc (.inl hchk) fun j x => ?_
  obtain ⟨hint, hnat, -⟩ := ctLess_order w tag (laneA (coreAt s n) f w j) (laneB (coreAt s n) f w j) x
  rw [Nat.mod_eq_of_lt (mask01_lt ..)]
  refine ⟨?_, fun h => (mask01_eq_ones hw).trans (hint h), fun h => (mask01_eq_ones hw).trans (hnat h)⟩
  unfold mask01
  split
  · exact .inl rfl
  · exact .inr rfl

theorem lanesNext_csel (hc : check2 accLogic accLogic pairSame (vOpd (coreAt s n) f.rs1 1) (secondOpd (coreAt s n) f immSame) = .ok tag)
    (hr : Runs s n 0x1B f len) (hm : check1 accLogic (vOpd (coreAt s n) f.rd 0) = .ok ()) :
    let w := laneWidth f
    lanesNext s n f len (if (regV (coreAt s n) f.rd).tag = 7 then 7 else tag) w (fun j v =>
      v = (laneA (coreAt s n) f w j &&& laneD (coreAt s n) f w j) |||
        (laneB (coreAt s n) f w j &&& ((2 ^ w - 1) ^^^ laneD (coreAt s n) f w j))) (.bxCsel n f) := by
  intro w
  have hcsel : bxCsel (coreAt s n) f (Config.freeValue s.freeCtr) = wrV (coreAt s n) f
      (ofLanes w ((List.range (128 / w)).map fun j => cselBits w (laneD (coreAt s n) f w j) (laneA (coreAt s n) f w j) (laneB (coreAt s n) f w j)))
      (if (regV (coreAt s n) f.rd).tag = tSecret then tSecret else tag) (Config.freeValue s.freeCtr) false := by
    rw [bxCsel, if_pos hv, vecCsel, hc]
    simp only [hm, bind, Except.bind]
    rfl
  refine lanesNext_of_wrV (g := fun c _ x => bxCsel c f x) hr rfl hcsel fun j hj => ?_
  rw [vlane_ofLanes_range _ hj]
  exact Nat.mod_eq_of_lt (Nat.or_lt_two_pow (Nat.and_lt_two_pow _ (laneD_lt ..)) (lt_of_le_of_lt Nat.and_le_left (laneB_lt ..)))

end

/-- Settles O33: the lane forms by their lane operations, the loads by what their elements load, the store by its two words. -/
theorem benxisVectorForms : Obligations.BenxisVectorForms := by
  refine ⟨fun s n f len hv => ?lanes, fun s n f len hv => ?memory⟩
  case lanes =>
    intro c w A B x calm hw
    have hpos : 0 < w := by
      simp only [List.mem_cons, List.not_mem_nil, or_false] at hw
      omega
    refine ⟨fun tag hc hr => ⟨fun hcalm => ?add, fun hchk htrap => ?addTrap⟩, fun tag hc hr => ⟨fun hcalm => ?sub, fun hchk htrap => ?subTrap⟩,
      fun tag hc hchk => ?logic, fun tag hc hchk => ?shifts, fun tag hc hchk => ⟨fun hr => ?cteq, lanesNext_ctlt hv hpos hchk hc, lanesNext_csel hv hc⟩,
      fun tag hc hchk hr => ?mulu, fun hr hx hw32 => ?not, fun hr hx hw32 => ?mov⟩
    case add => exact lanesNext_of_vecTwo hr rfl (bxAdd_vec _ hv) hc hcalm fun j x => Nat.mod_mod ..
    case addTrap =>
      rcases htrap with ⟨htag, j, hj, h⟩ | ⟨htag, j, hj, h⟩
      · exact exec_vecTwo_trap hr rfl (bxAdd_vec _ hv) hc hchk (by omega) hj fun x => sumAlu_flag x (.inl ⟨htag, h⟩)
      · exact exec_vecTwo_trap hr rfl (bxAdd_vec _ hv) hc hchk (by omega) hj fun x => sumAlu_flag x (.inr ⟨htag, decide_eq_true h⟩)
    case sub => exact lanesNext_of_vecTwo hr rfl (bxSub_vec _ hv) hc hcalm fun j x => Nat.mod_mod ..
    case subTrap =>
      rcases htrap with ⟨htag, j, hj, h⟩ | ⟨htag, j, hj, h⟩
      · exact exec_vecTwo_trap hr rfl (bxSub_vec _ hv) hc hchk (by omega) hj fun x => sumAlu_flag x (.inl ⟨htag, h⟩)
      · exact exec_vecTwo_trap hr rfl (bxSub_vec _ hv) hc hchk (by omega) hj fun x => sumAlu_flag x (.inr ⟨htag, decide_eq_true h⟩)
    case logic =>
      have and_lt {w a b : Nat} (h : a < 2 ^ w) : a &&& b < 2 ^ w := lt_of_le_of_lt Nat.and_le_left h
      exact ⟨fun hr => lanesNext_bits hv (fun _ a b => a &&& b) hchk (fun _ _ _ ha _ => and_lt ha) hc hr rfl,
        fun hr => lanesNext_bits hv (fun _ a b => a ||| b) hchk (fun _ _ _ ha hb => Nat.or_lt_two_pow ha hb) hc hr rfl,
        fun hr => lanesNext_bits hv (fun _ a b => a ^^^ b) hchk (fun _ _ _ ha hb => Nat.xor_lt_two_pow ha hb) hc hr rfl,
        fun hr => lanesNext_bits hv andnBits hchk (fun _ _ _ ha _ => and_lt ha) hc hr rfl⟩
    case shifts =>
      exact ⟨fun hr => lanesNext_shift hv aluShl hchk (fun _ _ _ _ => aluShl_lt) hc hr rfl,
        fun hr => lanesNext_shift hv aluShr hchk (fun _ _ _ ha => aluShr_lt ha) hc hr rfl,
        fun hr => lanesNext_shift hv aluSar hchk (fun _ _ _ _ => ofSigned_lt ..) hc hr rfl⟩
    case cteq =>
      refine lanesNext_of_vecTwo (g := fun c _ x => bxCteq c f x) hr rfl (if_pos hv) hc (.inl hchk) fun j x => ?_
      rw [Nat.mod_eq_of_lt (mask01_lt ..), mask01]
      simp only [beq_iff_eq]
      rfl
    case mulu =>
      exact lanesNext_of_vecTwo (g := fun c _ x => if f.vec then vecTwo c f x accMulU accMulU pairSame immSame fun _ w a b _ =>
        { val := a * b % 2 ^ w } else startMul c f accMulU false) hr rfl (if_pos hv) hc (.inl hchk) fun j x => Nat.mod_mod ..
    case not =>
      refine exec_of_core hr rfl ?_
      rw [if_pos hv, vecNot, hx, wrV, hw32]
      rfl
    case mov =>
      refine exec_of_core hr rfl ?_
      rw [if_pos hv, vecMov, wrV, hw32]
      rw [show check1 [0, 0, 0, 0, 5, 5, 5, 0] (vOpd (coreAt s n) f.rs1 1) = .ok () from hx]
      rfl
  case memory =>
    intro c
    refine ⟨fun haddr => ⟨fun size l i hl hi => ?plain, fun size l e i hl hi => ?firstFault⟩, fun hr hbase => ?store⟩
    case plain =>
      have load {op : Nat} (hr : Runs s n op f len) (hi : ∃ g : Core → Nat → Nat → BxRes,
          exec i s = .next (runCore s n op f g) ∧ g c len (Config.freeValue s.freeCtr) = vecLoad c f size) : exec i s = .next (past s n f len
            { c with v := smSet {} c.v (f.rd % 16) { d := ofLanes (8 * size) (l.map Prod.fst), tag := combineTags (l.map Prod.snd) } }) := by
        obtain ⟨g, hi, hg⟩ := hi
        exact exec_of_core hr hi (hg.trans (vecLoad_ok haddr hl))
      have sub (k : Nat) : bxLdSub c f k false = vecLoad c f k := if_pos hv
      rcases hi with ⟨heq, hr⟩ | ⟨heq, hr⟩ | ⟨heq, hr⟩ | ⟨heq, hr⟩ <;> obtain ⟨rfl, rfl⟩ := Prod.mk.inj heq
      · exact load hr ⟨_, rfl, if_pos hv⟩
      · exact load hr ⟨_, rfl, sub 4⟩
      · exact load hr ⟨_, rfl, sub 2⟩
      · exact load hr ⟨_, rfl, sub 1⟩
    case firstFault =>
      have sub (k : Nat) : bxLdSub c f k true = vecFirstFault c f k := if_pos hv
      have load {op : Nat} (hsize : 8 * size * (16 / size) ≤ 128) (hr : Runs s n op f len)
          (hi : exec i s = .next (runCore s n op f fun c _ _ => bxLdSub c f size true)) :
          if l = [] then exec i s = .next (enterTrap s n { code := 0x11, info := (elementAddrs c f size).headD 0 })
          else ∃ r, exec i s = .next (past s n f len { c with
                v := smSet {} c.v (f.rd % 16)
                  { d := r, tag := combineTags (l.map Prod.snd ++ (if l.length < 16 / size then [(regV c f.rd).tag] else [])) },
                vff := mkTW 2 l.length }) ∧
              ∀ j < 16 / size, vlane r (8 * size) j = if j < l.length then (l.getD j (0, 0)).1 % 2 ^ (8 * size) else laneD c f (8 * size) j := by
        split
        next hnil => exact exec_of_error hr hi ((sub size).trans (vecFirstFault_none haddr (hnil ▸ hl)))
        next hne =>
          have hlen : l.length ≤ 16 / size := by
            have h := loadElements_length_le (c := c) (k := size) (elementAddrs c f size)
            rw [hl] at h
            simpa [elementAddrs] using h
          exact ⟨_, exec_of_core hr hi ((sub size).trans (vecFirstFault_ok haddr hl hne)), fun j hj => vlane_faultLanes hlen hsize hj⟩
      rcases hi with ⟨heq, hr⟩ | ⟨heq, hr⟩ | ⟨heq, hr⟩ <;> obtain ⟨rfl, rfl⟩ := Prod.mk.inj heq
      · exact load (by decide) hr rfl
      · exact load (by decide) hr rfl
      · exact load (by decide) hr rfl
    case store =>
      intro a x h16 hlow hhigh hcode hcode'
      exact exec_of_core hr rfl ((if_pos hv).trans (vecStore_ok hbase rfl rfl h16 hlow hhigh hcode hcode'))

end Sys2Proof.ScalarOps
end

section
/-! PROOF. Rings of paddock code: QOPEN, QCLOSE, QCTL and JSTAT (R414; O39). -/

namespace Sys2Proof.ScalarOps

open Sys2Proof Sys2Proof.Machine Sys2Proof.Claims Sys2Proof.Frames

section
variable {s t : State} {n op len a b v : Nat} {f : BxFields} {i : Instr} {g : State → Core → Except Trap State}

/-- A runtime instruction that completes with a NAT in rd. -/
theorem exec_of_natRd (hr : Runs s n op f len) (hi : exec i s = .next (runPart s n op f g)) (hg : g s (coreAt s n) = .ok (natRd t n f v)) :
    exec i s = .next (rdPast t n f len (mkTW 2 v)) := by
  rw [hi, runPart_ok hr hg]
  rfl

/-- A runtime instruction that completes and writes no register. -/
theorem exec_of_part (hr : Runs s n op f len) (hi : exec i s = .next (runPart s n op f g)) (hg : g s (coreAt s n) = .ok t) :
    exec i s = .next (pcPast t n len) := by
  rw [hi, runPart_ok hr hg]

theorem exec_of_part_error {e : Trap} (hr : Runs s n op f len) (hi : exec i s = .next (runPart s n op f g)) (hg : g s (coreAt s n) = .error e) :
    exec i s = .next (enterTrap s n e) := by
  rw [hi, runPart_error hr hg]

/-! What a runtime instruction leaves in its core. -/

theorem coreAt_rdPast (x : TW) : coreAt (rdPast t n f len x) n =
    { withReg (coreAt t n) f.rd x with pc := (coreAt t n).pc + BitVec.ofNat 64 len } := by
  simp only [rdPast, coreAt_modCore_self]
  rfl

theorem regW_rdPast (x : TW) : regW (coreAt (rdPast t n f len x) n) f.rd = x := by
  simp [coreAt_rdPast, regW, withReg]

@[simp] theorem qAt_rdPast (x : TW) (q : Nat) : qAt (rdPast t n f len x) q = qAt t q := rfl

end

/-! ## A queue opened on yard cells -/

theorem writeShadow_off {s : State} {q : Nat} (h : (qAt s q).shadowEn = false) : writeShadow s q = s := by simp [writeShadow, h]

/-- The queue that an ENABLE starts (R157). -/
def startedQueue (s : State) (q : Nat) (c : PendEnable) : Queue :=
  { state := 1, base := c.base, k := c.k, vector := c.vector, wake := c.wake, crcReq := c.crcReq, irqEn := c.irqEn,
    shadowEn := c.shadowEn, shadowAddr := c.shadowAddr, fn := c.fn, p := c.index, a := c.index, t := c.index,
    gen := ((qAt s q).gen + 1) % 65536, forgotten := (qAt s q).forgotten, standby := standbyHere s q, takenOver := (qAt s q).takenOver }

theorem startQueue_eq (s : State) (q : Nat) (c : PendEnable) :
    startQueue s q c = updateLtr (writeShadow (journalWrite (putQ s q (startedQueue s q c))) q) := rfl

/-- Without a shadow a start changes its own queue alone. -/
theorem qAt_startQueue_unshadowed {s : State} {q : Nat} {c : PendEnable} (h : c.shadowEn = false) (r : Nat) :
    qAt (startQueue s q c) r = qAt (putQ s q (startedQueue s q c)) r := by
  have hoff : (qAt (journalWrite (putQ s q (startedQueue s q c))) q).shadowEn = false := by
    rw [qAt_of_only (journalWrite_only _) (by decide +kernel), qAt_putQ_self]
    exact h
  rw [startQueue_eq, writeShadow_off hoff, qAt_of_only (updateLtr_only _) (by decide +kernel), qAt_of_only (journalWrite_only _) (by decide +kernel)]

theorem coreAt_openRing (s : State) (q k index : Nat) (crc : Bool) (n : Nat) : coreAt (openRing s q k index crc) n = coreAt s n := by
  rw [openRing, coreAt_of_only (fitYard_only _) (by decide +kernel), coreAt_modQ, coreAt_of_only (startQueue_only ..) (by decide +kernel)]

theorem qAt_openRing_self (s : State) (q k index : Nat) (crc : Bool) : qAt (openRing s q k index crc) q =
    { startedQueue s q { k := k, crcReq := crc, index := index } with bx := true, ringCells := 2 ^ (k - 1) } := by
  rw [openRing, qAt_of_only (fitYard_only _) (by decide +kernel), qAt_modQ_self, qAt_startQueue_unshadowed rfl, qAt_putQ_self]

theorem qAt_openRing_other {s : State} {q k index : Nat} {crc : Bool} {r : Nat} (h : r ≠ q) : qAt (openRing s q k index crc) r = qAt s r := by
  rw [openRing, qAt_of_only (fitYard_only _) (by decide +kernel), modQ, qAt_putQ, if_neg h, qAt_startQueue_unshadowed rfl, qAt_putQ,
    if_neg h]

/-! ## The instructions -/

section
variable {s : State} {n len a b : Nat} {f : BxFields}

theorem exec_qopen (hr : Runs s n 0x60 f len) (h : runtimeTwo (coreAt s n) f accNat accNat = .ok (a, b)) :
    let r := qopenResult s (corePad s n) (bits a 0 16) (bits a 16 5) b
    exec (.bxQopen n f) s =
      .next (rdPast (if r = 0 then openRing s (bits a 0 16) (bits a 16 5) b (hasBit a 21) else s) n f len (mkTW 2 r)) :=
  exec_of_natRd hr rfl (by rw [h]; rfl)

theorem exec_qclose (hr : Runs s n 0x61 f len) (h : runtimeOne (coreAt s n) f accNat = .ok a) :
    exec (.bxQclose n f) s =
      .next (rdPast (qclose s (corePad s n) (a % 65536)).2 n f len (mkTW 2 (qclose s (corePad s n) (a % 65536)).1)) :=
  exec_of_natRd hr rfl (by rw [h]; rfl)

theorem exec_qctl (hr : Runs s n 0x62 f len) (h : runtimeTwo (coreAt s n) f accNat accNat = .ok (a, b)) (h3 : 3 ≤ b) (h5 : b ≤ 5) :
    exec (.bxQctl n f) s =
      .next (rdPast (qctl s (corePad s n) (a % 65536) b).2 n f len (mkTW 2 (qctl s (corePad s n) (a % 65536) b).1)) := by
  refine exec_of_natRd hr rfl ?_
  rw [h]
  exact if_neg (by omega)

end

theorem ownRing_iff {s : State} {p q : Nat} : ownRing s p q = true ↔ padOfQueue s q = some p ∧ (qAt s q).bx = true := by
  simp [ownRing]

/-- Settles O39: each instruction by its result and what it makes of the queue. -/
theorem benxisRingControl : Obligations.BenxisRingControl := by
  intro s n f len
  dsimp only
  refine ⟨fun a b hr h => ?qopen, fun a hr h => ?qclose, fun a b hr h h3 h5 => ?qctl, fun a hr h => ?jstat⟩
  case qopen =>
    have hexec := exec_qopen hr h
    dsimp only at hexec
    generalize bits a 0 16 = q at *
    generalize bits a 16 5 = k at *
    generalize corePad s n = p at *
    have refused {r : Nat} (hres : qopenResult s p q k b = r) (hne : r ≠ 0) : exec (.bxQopen n f) s = .next (rdPast s n f len (mkTW 2 r)) := by
      rw [hexec, hres, if_neg hne]
    refine ⟨fun hp => refused (if_pos hp) (by decide), fun hp hst => ?_, fun hp hst hk => ?_, fun hp hst h4 h16 hb => ⟨fun hq => ?_, fun hq => ?_⟩⟩
    · exact refused (by rw [qopenResult, if_neg (not_not.mpr hp), if_pos hst]) (by decide)
    · exact refused (by rw [qopenResult, if_neg (not_not.mpr hp), if_neg (not_not.mpr hst), if_pos hk]) (by decide)
    · exact refused (by rw [qopenResult, if_neg (not_not.mpr hp), if_neg (not_not.mpr hst), if_neg (by omega), if_pos hq]) (by decide)
    · have hres : qopenResult s p q k b = 0 := by
        rw [qopenResult, if_neg (not_not.mpr hp), if_neg (not_not.mpr hst), if_neg (by omega), if_neg (by omega)]
      rw [hres, if_pos rfl] at hexec
      refine ⟨_, hexec, regW_rdPast _, ?_, ?_⟩
      · rw [coreAt_rdPast, coreAt_openRing]
      · rw [qAt_rdPast, qAt_openRing_self]
        exact ⟨rfl, rfl, rfl, rfl, rfl, rfl, rfl, rfl, fun r hrq => (qAt_rdPast _ r).trans (qAt_openRing_other hrq)⟩
  case qclose =>
    have hexec := exec_qclose hr h
    refine ⟨fun hp => ?_, fun hp hst => ?_, fun hown hst => ?_⟩
    · rw [hexec, qclose, if_pos hp]
    · rw [hexec, qclose, if_neg (not_not.mpr hp), if_pos (by rcases hst with hbx | hst <;> simp [*])]
    · obtain ⟨hp, hbx⟩ := ownRing_iff.mp hown
      rw [hexec, qclose, if_neg (not_not.mpr hp), if_neg (by rcases hst with hst | hst <;> simp [*])]
  case qctl =>
    have hexec := exec_qctl hr h h3 h5
    refine ⟨fun hp => ?_, fun hp hbx => ?_, fun hown => ?_⟩
    · rw [hexec, qctl, if_pos hp]
    · rw [hexec, qctl, if_neg (not_not.mpr hp)]
      simp [hbx]
    · obtain ⟨hp, hbx⟩ := ownRing_iff.mp hown
      have hctl : qctl s (corePad s n) (a % 65536) b = if b = 3 ∧ (qAt s (a % 65536)).state = 2 then (0, continueQueue s (a % 65536))
          else if b = 4 ∧ (qAt s (a % 65536)).state = 5 then (0, resumeQueue s (a % 65536))
          else if b = 5 ∧ (qAt s (a % 65536)).state = 5 then (0, forgetQueue s (a % 65536)) else (2, s) := by
        rw [qctl, if_neg (not_not.mpr hp)]
        simp [hbx]
      rw [hexec, hctl]
      refine ⟨fun hb hst => ?_, fun hb hst => ?_, fun hb hst => ?_, fun hst => ?_⟩
      · rw [if_pos ⟨hb, hst⟩]
      · rw [if_neg (by omega), if_pos ⟨hb, hst⟩]
      · rw [if_neg (by omega), if_neg (by omega), if_pos ⟨hb, hst⟩]
      · rw [if_neg (by grind), if_neg (by grind), if_neg (by grind)]
  case jstat => exact exec_of_natRd hr rfl (by rw [h]; rfl)

end Sys2Proof.ScalarOps
end

section
/-! PROOF. JSUB, JCPL, WAIT, feed FIFOs and windows from paddock code (R410, R412, R413, R415; O40). -/

namespace Sys2Proof.ScalarOps

open Sys2Proof Sys2Proof.Machine Sys2Proof.Claims Sys2Proof.Frames

/-! ## One entry produced -/

/-- A queue with a descriptor in a slot of its ring. -/
def slotWritten (x : Queue) (i : Nat) (d : Bytes) : Queue :=
  { x with ring := smSet [] x.ring i d, ringSecret := x.ringSecret.filter (· != i) }

section
variable {s : State} {q : Nat} {d : Bytes}

theorem ringP_held (h : (qAt s q).state = 5) : ringP (qAt s q) = (qAt s q).heldBell.getD (qAt s q).p := if_pos h

theorem ringP_serving (h : (qAt s q).state ≠ 5) : ringP (qAt s q) = (qAt s q).p := if_neg h

theorem produce_serving (h : (qAt s q).state ≠ 5) : produce s q d =
    journalWrite (modQ (modQ s q fun y => slotWritten y ((qAt s q).p % 2 ^ y.k) d) q fun y => { y with p := nextIdx (qAt s q).k (qAt s q).p }) := by
  simp only [produce, if_neg h, ringP_serving h]
  rfl

theorem produce_held (h : (qAt s q).state = 5) : produce s q d =
    modQ (modQ s q fun y => slotWritten y ((qAt s q).heldBell.getD (qAt s q).p % 2 ^ y.k) d) q
      fun y => { y with heldBell := some (nextIdx (qAt s q).k ((qAt s q).heldBell.getD (qAt s q).p)) } := by
  simp only [produce, if_pos h, ringP_held h]
  rfl

/-- An entry produced while the queue serves is written at P, and P goes on. -/
theorem qAt_produce_serving (h : (qAt s q).state ≠ 5) : qAt (produce s q d) q =
    { slotWritten (qAt s q) ((qAt s q).p % 2 ^ (qAt s q).k) d with p := nextIdx (qAt s q).k (qAt s q).p } := by
  rw [produce_serving h, qAt_of_only (journalWrite_only _) (by decide +kernel), qAt_modQ_self, qAt_modQ_self]

/-- While the queue is HELD the index is recorded (Table 07.3). -/
theorem qAt_produce_held (h : (qAt s q).state = 5) : qAt (produce s q d) q =
    { slotWritten (qAt s q) ((qAt s q).heldBell.getD (qAt s q).p % 2 ^ (qAt s q).k) d with
      heldBell := some (nextIdx (qAt s q).k ((qAt s q).heldBell.getD (qAt s q).p)) } := by
  rw [produce_held h, qAt_modQ_self, qAt_modQ_self]

theorem qAt_produce_other {r : Nat} (h : (qAt s q).state ≠ 5) (hrq : r ≠ q) : qAt (produce s q d) r = qAt s r := by
  rw [produce_serving h, qAt_of_only (journalWrite_only _) (by decide +kernel), modQ, qAt_putQ, if_neg hrq, modQ, qAt_putQ, if_neg hrq]

end

/-! ## JSUB, JCPL and WAIT -/

section
variable {s : State} {n len a b : Nat} {f : BxFields}

section
variable (hr : Runs s n 0x63 f len) (h : runtimeTwo (coreAt s n) f accPtr accNat = .ok (a, b)) (halign : a % 8 = 0) (hroom : a + 128 ≤ 2 ^ 20)
  (hspill : inSpill (coreAt s n) a 128 = false)
include hr h halign hroom hspill

theorem exec_jsub_fault {t : Trap} (hf : descFault (coreAt s n).mem a = some t) : exec (.bxJsub n f) s = .next (enterTrap s n t) := by
  refine exec_of_part_error hr rfl ?_
  have hin : ¬2 ^ 20 < a + 128 := by omega
  simp only [h, bind, Except.bind, halign, decide_eq_false hin, hspill, hf]
  rfl

/-- JSUB into a ring of the paddock's code: full, or one entry produced. -/
theorem exec_jsub (hf : descFault (coreAt s n).mem a = none) (hown : ownRing s (corePad s n) (b % 65536) = true)
    (hstate : (qAt s (b % 65536)).state = 1 ∨ (qAt s (b % 65536)).state = 2 ∨ (qAt s (b % 65536)).state = 5) :
    let x := qAt s (b % 65536)
    exec (.bxJsub n f) s = .next (if dist x.k x.t (ringP x) = 2 ^ x.k then rdPast s n f len (mkTW 2 (2 ^ 64 - 1))
      else rdPast (produce s (b % 65536) (ringEntry n (coreAt s n).mem a)) n f len (mkTW 2 (nextIdx x.k (ringP x)))) := by
  intro x
  have hin : ¬2 ^ 20 < a + 128 := by omega
  have htakes : (!ownRing s (corePad s n) (b % 65536) ||
      !((qAt s (b % 65536)).state == 1 || (qAt s (b % 65536)).state == 2 || (qAt s (b % 65536)).state == 5)) = false := by
    rcases hstate with h | h | h <;> simp [hown, h]
  split
  next hfull =>
    refine exec_of_natRd hr rfl ?_
    simp only [h, bind, Except.bind, halign, decide_eq_false hin, hspill, hf, htakes]
    exact if_pos hfull
  next hfree =>
    refine exec_of_natRd hr rfl ?_
    simp only [h, bind, Except.bind, halign, decide_eq_false hin, hspill, hf, htakes]
    exact if_neg hfree

end

section
variable (hr : Runs s n 0x64 f len) (h : runtimeTwo (coreAt s n) f accPtr accNat = .ok (a, b))
include hr h

theorem exec_jcpl_none (hm : markerMatches s (corePad s n) (bits b 0 16) (bits b 16 17) = false) :
    exec (.bxJcpl n f) s = .next (rdPast s n f len (mkTW 2 0)) := by
  refine exec_of_natRd hr rfl ?_
  simp only [h, bind, Except.bind, hm]
  rfl

theorem exec_jcpl {c : Core} (hm : markerMatches s (corePad s n) (bits b 0 16) (bits b 16 17) = true)
    (hc : storeWords (coreAt s n) a (cplWords (qAt s (bits b 0 16)) (bits b 16 17)) = .ok c) :
    exec (.bxJcpl n f) s = .next (rdPast (putCore s n c) n f len (mkTW 2 1)) := by
  refine exec_of_natRd hr rfl ?_
  simp only [h, bind, Except.bind, hm, hc]
  rfl

theorem exec_jcpl_fault {t : Trap} (hm : markerMatches s (corePad s n) (bits b 0 16) (bits b 16 17) = true)
    (hc : storeWords (coreAt s n) a (cplWords (qAt s (bits b 0 16)) (bits b 16 17)) = .error t) :
    exec (.bxJcpl n f) s = .next (enterTrap s n t) := by
  refine exec_of_part_error hr rfl ?_
  simp only [h, bind, Except.bind, hm, hc]
  rfl

end

/-- A core that WAITs for a marker. -/
def waitsFor (c : Core) (a rd len : Nat) : Core := { c with waiting := some { queue := bits a 0 16, index := bits a 16 17, rd := rd, len := len } }

/-- WAIT: the core waits, and where the marker matches already the wait ends at once. -/
theorem exec_wait (hr : Runs s n 0x66 f len) (h : runtimeTwo (coreAt s n) f accNat accNat = .ok (a, b)) :
    exec (.bxWait n f) s = .next (if markerMatches s (corePad s n) (bits a 0 16) (bits a 16 17)
      then modCore (modCore s n fun x => waitsFor x a f.rd len) n fun c => endWait c 1 else modCore s n fun x => waitsFor x a f.rd len) := by
  have hrun : exec (.bxWait n f) s = .next (withFetch s n 0x66 f _) := rfl
  rw [hrun, withFetch_found hr.1 hr.2, h]
  rfl

theorem endWait_some {c : Core} {w : WaitOp} (v : Nat) (h : c.waiting = some w) :
    endWait c v = { withReg c w.rd (mkTW 2 v) with pc := c.pc + BitVec.ofNat 64 w.len, waiting := none } := by
  rw [endWait, h]
  rfl

end

/-! ## Windows -/

section
variable {s : State} {n len p : Nat} {f : BxFields}

theorem openWindow_none {w : Window} (h : freeWindow (coreAt s n) = none) : openWindow s p n w = (0, s) := by rw [openWindow, h]

theorem openWindow_some {i : Nat} {w : Window} (h : freeWindow (coreAt s n) = some i) : openWindow s p n w =
    if windowOk w && !windowMeets s p n w then (i + 1, modCore s n fun c => { c with windows := c.windows ++ [{ w with num := i }] }) else (0, s) := by
  rw [openWindow, h]

/-- A window onto the core's memory opens where R410 allows it. -/
theorem memory_window_iff {w : Window} (h : w.feed = false) : (windowOk w && !windowMeets s p n w) = true ↔
    w.base % 4096 = 0 ∧ w.len % 4096 = 0 ∧ 4096 ≤ w.len ∧ w.base + w.len ≤ 2 ^ 20 ∧
      ∀ x ∈ (coreAt s n).windows, x.feed = false → areasMeet (x.base, x.len) (w.base, w.len) = false := by
  simp [windowOk, windowMeets, h, and_assoc]

theorem feed_window_iff {w : Window} (h : w.feed = true) : (windowOk w && !windowMeets s p n w) = true ↔ w.base < 16 ∧ windowMeets s p n w = false := by
  simp [windowOk, h]

/-- The window that a WOPEN names. -/
def namedWindow (c : Core) (f : BxFields) : Window :=
  let v := (opRs2 c f immNat).x.d.toNat
  { feed := v.testBit 22, base := (regW c f.rs1).d.toNat, len := bits v 0 21, write := v.testBit 21 }

/-- WOPEN of operands its rows take: what opening the window gives. -/
theorem exec_wopen (hr : Runs s n 0x6A f len) (h2 : check1 accNat (opRs2 (coreAt s n) f immNat) = .ok ())
    (h1 : (regW (coreAt s n) f.rs1).tag = if (opRs2 (coreAt s n) f immNat).x.d.toNat.testBit 22 then 2 else 4) :
    let r := openWindow s (corePad s n) n (namedWindow (coreAt s n) f)
    exec (.bxWopen n f) s = .next (rdPast r.2 n f len (mkTW 2 r.1)) := by
  have hres : reservedTag (opRs1 (coreAt s n) f) = .ok () := reservedTag_ok (by change (regW _ _).tag < 8; rw [h1]; split <;> decide)
  have hrow : runtimeOne (coreAt s n) f (if hasBit (opRs2 (coreAt s n) f immNat).x.d.toNat 22 then accNat else accPtr) =
      .ok (regW (coreAt s n) f.rs1).d.toNat := by
    have hcheck : check1 (if hasBit (opRs2 (coreAt s n) f immNat).x.d.toNat 22 then accNat else accPtr) (opRs1 (coreAt s n) f) = .ok () := by
      refine check1_of_entry ?_ ?_
      · change (regW _ _).tag < 8
        rw [h1]
        split <;> decide
      · change entry _ (regW _ _).tag = 0
        rw [h1, hasBit]
        split <;> rfl
    rw [runtimeOne, hcheck]
    rfl
  refine exec_of_natRd hr rfl ?_
  simp only [hres, h2, hrow, bind, Except.bind]
  rfl

/-- With a window number free, a WOPEN that R410 allows adds its window and answers its number and 1. -/
theorem exec_wopen_some {i : Nat} (hr : Runs s n 0x6A f len) (h2 : check1 accNat (opRs2 (coreAt s n) f immNat) = .ok ())
    (h1 : (regW (coreAt s n) f.rs1).tag = if (opRs2 (coreAt s n) f immNat).x.d.toNat.testBit 22 then 2 else 4)
    (hfree : freeWindow (coreAt s n) = some i) :
    exec (.bxWopen n f) s = .next (
      if (windowOk (namedWindow (coreAt s n) f) && !windowMeets s (corePad s n) n (namedWindow (coreAt s n) f)) = true
      then rdPast (modCore s n fun k => { k with windows := k.windows ++ [{ namedWindow (coreAt s n) f with num := i }] }) n f len (mkTW 2 (i + 1))
      else rdPast s n f len (mkTW 2 0)) := by
  rw [exec_wopen hr h2 h1, openWindow_some hfree]
  split <;> rfl

theorem exec_wopen_memory {i : Nat} (hr : Runs s n 0x6A f len) (h2 : check1 accNat (opRs2 (coreAt s n) f immNat) = .ok ())
    (hfree : freeWindow (coreAt s n) = some i) (htag : (regW (coreAt s n) f.rs1).tag = 4)
    (hv : (opRs2 (coreAt s n) f immNat).x.d.toNat.testBit 22 = false) :
    let w : Window := { namedWindow (coreAt s n) f with num := i, feed := false }
    exec (.bxWopen n f) s = .next (
      if w.base % 4096 = 0 ∧ w.len % 4096 = 0 ∧ 4096 ≤ w.len ∧ w.base + w.len ≤ 2 ^ 20 ∧
          ∀ x ∈ (coreAt s n).windows, x.feed = false → areasMeet (x.base, x.len) (w.base, w.len) = false
      then rdPast (modCore s n fun k => { k with windows := k.windows ++ [w] }) n f len (mkTW 2 (i + 1))
      else rdPast s n f len (mkTW 2 0)) := by
  rw [exec_wopen_some hr h2 (by rw [hv]; exact htag) hfree, namedWindow, hv]
  exact congrArg Host.Outcome.next (if_congr (memory_window_iff rfl) rfl rfl)

theorem exec_wopen_feed {i : Nat} (hr : Runs s n 0x6A f len) (h2 : check1 accNat (opRs2 (coreAt s n) f immNat) = .ok ())
    (hfree : freeWindow (coreAt s n) = some i) (htag : (regW (coreAt s n) f.rs1).tag = 2)
    (hv : (opRs2 (coreAt s n) f immNat).x.d.toNat.testBit 22 = true) :
    let w : Window := { namedWindow (coreAt s n) f with num := i, feed := true }
    exec (.bxWopen n f) s = .next (
      if w.base < 16 ∧ windowMeets s (corePad s n) n { w with num := 0 } = false
      then rdPast (modCore s n fun k => { k with windows := k.windows ++ [w] }) n f len (mkTW 2 (i + 1))
      else rdPast s n f len (mkTW 2 0)) := by
  rw [exec_wopen_some hr h2 (by rw [hv]; exact htag) hfree, namedWindow, hv]
  exact congrArg Host.Outcome.next (if_congr (feed_window_iff rfl) rfl rfl)

end

/-- Settles O40: each instruction by its result and what it makes of queue, FIFO or core. -/
theorem benxisRingUseFeedsAndWindows : Obligations.BenxisRingUseFeedsAndWindows := by
  refine ⟨fun s n f len => ?rings, fun s n f len => ?feeds⟩
  case rings =>
    dsimp only
    refine ⟨fun a b hr h halign hroom hspill => ⟨fun t hf => exec_jsub_fault hr h halign hroom hspill hf, fun hf hown hst => ?serving,
        fun hf hown hst hfree => ?held⟩,
      fun a b hr h => ⟨exec_jcpl_none hr h, fun c => exec_jcpl hr h, fun t => exec_jcpl_fault hr h⟩,
      fun a b hr h => ⟨fun hm => ?marker, fun hm => ?waits⟩, fun x hx => ⟨?timeout, fun hm => ?matched, fun hm => ?unmatched⟩⟩
    case serving =>
      have hst5 : (qAt s (b % 65536)).state ≠ 5 := by omega
      have hexec := exec_jsub hr h halign hroom hspill hf hown (by omega)
      dsimp only at hexec
      rw [ringP_serving hst5] at hexec
      refine ⟨fun hfull => by rw [hexec, if_pos hfull], fun hfree => ?_⟩
      rw [if_neg hfree] at hexec
      refine ⟨_, hexec, regW_rdPast _, ?_⟩
      rw [qAt_rdPast, qAt_produce_serving hst5]
      exact ⟨rfl, smGet_smSet_self .., rfl, rfl, fun j hj => (smGet_smSet ..).trans (if_neg hj),
        fun r hrq => (qAt_rdPast ..).trans (qAt_produce_other hst5 hrq)⟩
    case held =>
      have hexec := exec_jsub hr h halign hroom hspill hf hown (by omega)
      dsimp only at hexec
      rw [ringP_held hst, if_neg hfree] at hexec
      refine ⟨_, hexec, ?_⟩
      rw [regW_rdPast, qAt_rdPast, qAt_produce_held hst]
      exact ⟨rfl, rfl, rfl⟩
    case marker =>
      have hexec := exec_wait hr h
      rw [hm, if_pos rfl] at hexec
      refine ⟨_, hexec, ?_⟩
      rw [coreAt_modCore_self, coreAt_modCore_self, endWait_some 1 rfl]
      exact ⟨smGet_smSet_self ({} : TW) (coreAt s n).w f.rd (mkTW 2 1), rfl, rfl⟩
    case waits =>
      have hexec := exec_wait hr h
      rw [hm] at hexec
      exact hexec
    case timeout =>
      have hexec : exec (.waitEnd n true) s = execWaitEnd n true s := rfl
      rw [hexec, execWaitEnd, hx]
      exact congrArg (fun c => Host.Outcome.next (putCore s n c)) (endWait_some 0 hx)
    case matched =>
      have hexec : exec (.waitEnd n false) s = execWaitEnd n false s := rfl
      rw [hexec, execWaitEnd, hx]
      simp only [hm]
      exact congrArg (fun c => Host.Outcome.next (putCore s n c)) (endWait_some 1 hx)
    case unmatched =>
      have hexec : exec (.waitEnd n false) s = execWaitEnd n false s := rfl
      rw [hexec, execWaitEnd, hx]
      simp only [hm]
      rfl
  case feeds =>
    dsimp only
    refine ⟨fun a b hr h => ⟨fun hfull => ?full, fun hroom => ?put⟩, fun a hr h => exec_of_natRd hr rfl (by rw [h]; rfl),
      fun a hr h => exec_of_part hr rfl (by rw [h]; rfl), fun hr h2 => ⟨fun hfree htag => ?noWindow, fun i hfree htag hv => ?memory,
        fun i hfree htag hv => ?feed⟩, fun a hr h => exec_of_part hr rfl (by rw [h]; rfl)⟩
    case full =>
      refine exec_of_natRd hr rfl ?_
      simp only [h, bind, Except.bind]
      exact if_pos hfull
    case put =>
      refine exec_of_natRd hr rfl ?_
      simp only [h, bind, Except.bind]
      exact if_neg (by omega)
    case noWindow => rw [exec_wopen hr h2 htag, openWindow_none hfree]
    case memory => exact exec_wopen_memory hr h2 hfree htag hv
    case feed => exact exec_wopen_feed hr h2 hfree htag hv

end Sys2Proof.ScalarOps
end

section
/-! PROOF. CSTART, CSTOP, RAND and MEXT from paddock code (R296, R321, R403, R404, R407, R408; O41). -/

namespace Sys2Proof.ScalarOps

open Sys2Proof Sys2Proof.Machine Sys2Proof.Claims

section
variable {s : State} {n len a b : Nat} {f : BxFields}

/-! ## CSTART -/

section
variable (hr : Runs s n 0x6C f len) (h : runtimeTwo (coreAt s n) f accPtr accNat = .ok (a, b)) {size : Nat}
  (hsize : 64 + u32 (memRead (coreAt s n).mem a 64) 0x0C + u32 (memRead (coreAt s n).mem a 64) 0x14 = size)
  (hhead : rangeFault (coreAt s n) a 64 = none) (hrange : rangeFault (coreAt s n) a size = none)
  (himage : imageFault (coreAt s n).mem a size = none)
include hr h hsize hhead hrange himage

/-- CSTART of an image that can be read: begun, or refused with its code in the core it names, or with nothing. -/
theorem exec_cstart : exec (.bxCstart n f) s = .next (
    if cstartErr s (corePad s n) n b = 0 then
      rdPast (beginLoad s b 2 n (memRead (coreAt s n).mem a size) (coreAt s n).boot) n f len (mkTW 2 1)
    else if b < 16 ∧ padOfCore s b = some (corePad s n) then
      rdPast (modCore s b fun k => { k with cmdErr := cstartErr s (corePad s n) n b }) n f len (mkTW 2 0)
    else rdPast s n f len (mkTW 2 0)) := by
  have run {t : State} {v : Nat} (hg : (if cstartErr s (corePad s n) n b = 0 then
        (.ok (natRd (beginLoad s b 2 n (memRead (coreAt s n).mem a size) (coreAt s n).boot) n f 1) : Except Trap State)
      else if b < 16 ∧ padOfCore s b = some (corePad s n) then
        .ok (natRd (modCore s b fun k => { k with cmdErr := cstartErr s (corePad s n) n b }) n f 0)
      else .ok (natRd s n f 0)) = .ok (natRd t n f v)) : exec (.bxCstart n f) s = .next (rdPast t n f len (mkTW 2 v)) := by
    refine exec_of_natRd hr rfl ?_
    simp only [h, bind, Except.bind, hhead, hsize, hrange, himage]
    exact hg
  split
  next h0 => exact run (if_pos h0)
  next h0 =>
    split
    next hown => exact run ((if_neg h0).trans (if_pos hown))
    next hown => exact run ((if_neg h0).trans (if_neg hown))

end

section
variable {p caller m : Nat}

theorem cstartErr_taken (hne : m ≠ caller) (h16 : m < 16) (hp : padOfCore s m = some p) (hret : (coreAt s m).retired = false)
    (hst : (coreAt s m).state = 0) : cstartErr s p caller m = 0 := by simp [cstartErr, hne, h16, hp, hret, hst]

theorem cstartErr_not_permitted (h : m = caller ∨ 16 ≤ m ∨ padOfCore s m ≠ some p ∨ (coreAt s m).retired = true) : cstartErr s p caller m = 1 :=
  if_pos h

theorem cstartErr_wrong_state (hne : m ≠ caller) (h16 : m < 16) (hp : padOfCore s m = some p) (hret : (coreAt s m).retired = false)
    (hst : (coreAt s m).state ≠ 0) : cstartErr s p caller m = 2 := by simp [cstartErr, hne, h16, hp, hret, hst]

end

/-! ## CSTOP -/

theorem exec_cstop (hr : Runs s n 0x6D f len) (h : runtimeOne (coreAt s n) f accNat = .ok a) :
    exec (.bxCstop n f) s = .next (pcPast (if a ≠ n ∧ a < 16 ∧ padOfCore s a = padOfCore s n then
      stopCore (modCore s a fun k => { k with cmdErr := if k.state = 0 then 2 else 0 }) a else s) n len) :=
  exec_of_part hr rfl (by rw [h]; rfl)

/-- A core that CSTOP names: a STOPPED one is told so, another stops (R404). -/
theorem cstop_core : stopCore (modCore s a fun k => { k with cmdErr := if k.state = 0 then 2 else 0 }) a =
    if (coreAt s a).state = 0 then modCore s a fun k => { k with cmdErr := 2 } else stopCore (modCore s a fun k => { k with cmdErr := 0 }) a := by
  split
  next h0 =>
    have hmod : (modCore s a fun k => { k with cmdErr := if k.state = 0 then 2 else 0 }) = modCore s a fun k => { k with cmdErr := 2 } := by
      rw [modCore, if_pos h0]
      rfl
    rw [hmod, stopCore, coreAt_modCore_self, if_pos h0]
  next h0 =>
    have hmod : (modCore s a fun k => { k with cmdErr := if k.state = 0 then 2 else 0 }) = modCore s a fun k => { k with cmdErr := 0 } := by
      rw [modCore, if_neg h0]
      rfl
    rw [hmod]

/-! ## RAND -/

theorem rand_serves {t : State} (hr : Runs s n 0x6E f len) (ht : (if sourceServes s then dueReseed s (corePad s n) else s) = t)
    (hd : drbgServes t (corePad s n) = true) : exec (.bxRand n f) s = .next (rdPast (afterRequest t (corePad s n) 8) n f len
      (mkTW 7 (leNat ((ctrBlocks (aesKeys (padAt t (corePad s n)).drbg.key) 1 (beNat (padAt t (corePad s n)).drbg.v)).take 8)))) := by
  refine congrArg Host.Outcome.next (runPart_ok hr ?_)
  simp only [ht, hd]
  rfl

theorem rand_fails {t : State} (hr : Runs s n 0x6E f len) (ht : (if sourceServes s then dueReseed s (corePad s n) else s) = t)
    (hd : drbgServes t (corePad s n) = false) : exec (.bxRand n f) s = .next (rdPast t n f len {}) := by
  refine congrArg Host.Outcome.next (runPart_ok hr ?_)
  simp only [ht, hd]
  rfl

/-! ## MEXT -/

theorem exec_mext (hr : Runs s n 0x6F f len) (h : runtimeTwo (coreAt s n) f accNat accPtr = .ok (a, b)) (hrange : rangeFault (coreAt s n) b 48 = none)
    (htags : ∀ i ∈ wordsTouched b 48, (smGet {} (coreAt s n).mem i).tag < 7) :
    exec (.bxMext n f) s = .next (if a < 16 ∧ extendRights s (corePad s n) = true
      then rdPast (extendMr s (corePad s n) a (memRead (coreAt s n).mem b 48)) n f len (mkTW 2 1) else rdPast s n f len (mkTW 2 0)) := by
  have hres : ((wordsTouched b 48).map fun i => (smGet {} (coreAt s n).mem i).tag).any (fun x => decide (8 ≤ x)) = false := by
    simp only [List.any_map, List.any_eq_false, Function.comp, decide_eq_true_eq]
    exact fun i hi => by have := htags i hi; omega
  have hsec : ((wordsTouched b 48).map fun i => (smGet {} (coreAt s n).mem i).tag).contains tSecret = false := by
    rw [← Bool.not_eq_true, List.contains_iff_mem, List.mem_map]
    rintro ⟨i, hi, h7⟩
    have := htags i hi
    simp only [tSecret] at h7
    omega
  split
  next hright =>
    refine exec_of_natRd hr rfl ?_
    simp only [h, bind, Except.bind, hrange, hres, hsec]
    exact if_pos hright
  next hright =>
    refine exec_of_natRd hr rfl ?_
    simp only [h, bind, Except.bind, hrange, hres, hsec]
    exact if_neg hright

end

/-- Settles O41: each instruction by its result and what it makes of the core it names, the generator or the register. -/
theorem benxisCoresRandomAndMeasurement : Obligations.BenxisCoresRandomAndMeasurement := by
  intro s n f len
  dsimp only
  refine ⟨fun a b hr h hhead hrange himage => ?cstart, fun a hr h => ?cstop, fun hr => ⟨rand_serves hr rfl, rand_fails hr rfl⟩,
    fun a b hr h hrange htags => exec_mext hr h hrange htags⟩
  case cstart =>
    have hexec := exec_cstart hr h rfl hhead hrange himage
    refine ⟨fun hne h16 hp hret hst => ?_, fun h16 hp hrefused => ?_, fun hne h16 hp hret hst => ?_, fun h16 => ?_, fun h16 hp => ?_⟩
    · rw [hexec, if_pos (cstartErr_taken hne h16 hp hret hst)]
    · have herr := cstartErr_not_permitted (s := s) (p := corePad s n) (caller := n) (m := b) 
        (hrefused.imp_right fun hret => .inr (.inr hret))
      rw [hexec, herr, if_neg (by decide), if_pos ⟨h16, hp⟩]
    · have herr := cstartErr_wrong_state hne h16 hp hret hst
      rw [hexec, herr, if_neg (by decide), if_pos ⟨h16, hp⟩]
    · have herr := cstartErr_not_permitted (s := s) (p := corePad s n) (caller := n) (m := b) (.inr (.inl h16))
      rw [hexec, herr, if_neg (by decide), if_neg (by omega)]
    · have herr := cstartErr_not_permitted (s := s) (p := corePad s n) (caller := n) (m := b) (.inr (.inr (.inl hp)))
      rw [hexec, herr, if_neg (by decide), if_neg (fun hown => hp hown.2)]
  case cstop => rw [exec_cstop hr h, cstop_core]

end Sys2Proof.ScalarOps
end

section
/-! PROOF. Loading, starting, stopping, halting and powering a core from outside (R369, R403 to R409, R422; O45). -/

namespace Sys2Proof.CoreCmds

open Sys2Proof Sys2Proof.Machine Sys2Proof.Claims Sys2Proof.Frames Sys2Proof.ScalarOps

section
variable {s : State} {fn n p : Nat} {v : W64} {img : List Byte}

/-! ## Loads begin -/

/-- A load that is permitted of a STOPPED core of the paddock begins, and its image is read from host memory (R406, R407). -/
theorem hostLoad_begins {source : Nat} (hp : padOfCore s n = some p) (hret : (coreAt s n).retired = false) (hst : (coreAt s n).state = 0) :
    hostLoad s fn p n source true img = emit (beginLoad s n source fn img false) (.readRequest fn (fnAt s fn).bxImgAddr img.length) := by
  simp [hostLoad, hret, hp, hst]

theorem exec_bxBoot (hup : regsUp s fn = true) (hv : p = bits v.toNat 0 5) (hpres : padPresent s p = true)
    (hfn : fn = 0 ∨ padOfFn s fn = some p ∧ (padRec s p).hostLoad = true) (hhead : (coresOfPad s p).head? = some n) :
    exec (.bxBoot fn v img) s = .next (hostLoad s fn p n 0 ((coresOfPad s p).all fun m => m == n || (coreAt s m).state == 0) img) := by
  have hmay : (fn != 0 && !(padOfFn s fn == some p && mayLoad s p)) = false := by
    rcases hfn with h | ⟨hpad, hload⟩
    · simp [h]
    · simp [hpad, mayLoad, hload]
  have hexec : exec (.bxBoot fn v img) s = execBxBoot fn v img s := rfl
  simp only [hexec, execBxBoot, ← hv, hup, hpres, hmay, lowestCore, hhead]
  rfl

theorem exec_coreLoad (hup : coreCmdUp s fn n = true) (hcmd : bits v.toNat 0 4 = 1) (hp : padOfFn s fn = some p) :
    exec (.coreLoad fn n v img) s = .next (hostLoad s fn p n 1 (mayLoad s p) img) := by
  have hexec : exec (.coreLoad fn n v img) s = execCoreLoad fn n v img s := rfl
  simp [hexec, execCoreLoad, cmdOf, hup, hcmd, hp]

/-- The core of a paddock whose functions reach its commands is the paddock's. -/
theorem padOfCore_of_coreCmdUp (h : coreCmdUp s fn n = true) : padOfCore s n = padOfFn s fn := by
  simp only [coreCmdUp, Bool.and_eq_true, beq_iff_eq] at h
  exact h.2.symm

/-! ## Loads end -/

theorem exec_coreLoadDone {o : LoadOp} (ho : (coreAt s n).loading = some o) (hp : padOfCore s n = some p) (hst : (coreAt s n).state = 1)
    (hshed : o.waitShed = false) : exec (.coreLoadDone n) s = .next (endLoad s n p o) := by
  have hexec : exec (.coreLoadDone n) s = execCoreLoadDone n s := rfl
  simp only [hexec, execCoreLoadDone, ho, hp, hst, hshed]
  rfl

/-- The paddock as a valid load leaves it: register 0 extended, and after a LOAD its extend rights ended (R408). -/
def measuredPad (s : State) (n p : Nat) (o : LoadOp) : State :=
  let s1 := extendMr s p 0 (loadMeasure n o.source o.image)
  if o.source = 1 then modPad s1 p fun x => { x with extendLost := true } else s1

theorem endLoad_valid {o : LoadOp} (h : loadImageOk o.image = true) : endLoad s n p o = modCore (measuredPad s n p o) n fun c =>
    { startedCore c o.image with boot := o.source == 0 || (o.source == 2 && o.fromBoot) } := by
  rw [endLoad, h]
  rfl

theorem coreAt_measuredPad (o : LoadOp) (m : Nat) : coreAt (measuredPad s n p o) m = coreAt s m := by
  unfold measuredPad
  split <;> rfl

theorem padAt_measuredPad_mr (o : LoadOp) : smGet (zeros 48) (padAt (measuredPad s n p o) p).mrs 0 =
    sha3_384 (smGet (zeros 48) (padAt s p).mrs 0 ++ loadMeasure n o.source o.image) := by
  unfold measuredPad
  split
  · rw [padAt_modPad_self, extendMr, padAt_modPad_self]
    exact smGet_smSet_self ..
  · rw [extendMr, padAt_modPad_self]
    exact smGet_smSet_self ..

theorem padAt_measuredPad_extendLost (o : LoadOp) :
    (padAt (measuredPad s n p o) p).extendLost = ((padAt s p).extendLost || o.source == 1) := by
  unfold measuredPad
  split
  next h => rw [padAt_modPad_self, h, Bool.or_comm]; rfl
  next h => rw [extendMr, padAt_modPad_self, beq_false_of_ne h, Bool.or_false]

theorem endLoad_invalid {o : LoadOp} (h : loadImageOk o.image = false) : endLoad s n p o = stopCore (coreErr s n 3) n := by
  rw [endLoad, h]
  rfl

/-! ## Stops -/

/-- A core that stops keeps its memory, its windows and the result of its command (R403). -/
theorem coreAt_stopCore_coreErr {e : Nat} (h : (coreAt s n).state ≠ 0) : coreAt (stopCore (coreErr s n e) n) n =
    { endWait { coreAt s n with cmdErr := e } 0 with state := 0, loading := none } := by
  have hcore : coreAt (coreErr s n e) n = { coreAt s n with cmdErr := e } := coreAt_modCore_self ..
  rw [coreAt_stopCore (by rwa [hcore]), hcore]

theorem endWait_keeps (c : Core) (x : Nat) : (endWait c x).cmdErr = c.cmdErr ∧ (endWait c x).mem = c.mem ∧ (endWait c x).windows = c.windows := by
  unfold endWait
  split <;> exact ⟨rfl, rfl, rfl⟩

theorem exec_coreStop (hup : coreCmdUp s fn n = true) (hcmd : bits v.toNat 0 4 = 2) : exec (.coreStop fn n v) s =
    .next (if (coreAt s n).state = 2 ∨ (coreAt s n).state = 3 then stopCore (coreErr s n 0) n else coreErr s n 2) := by
  have hexec : exec (.coreStop fn n v) s = execCoreStop fn n v s := rfl
  simp [hexec, execCoreStop, cmdOf, hup, hcmd]

end

/-- Settles O45: each command by what it makes of the core. -/
theorem coreLoadRunStop : Obligations.CoreLoadRunStop := by
  intro s fn n v img
  dsimp only
  refine ⟨fun p hup hv hpres hfn hhead hp hret hstopped => ?boot, fun p hup hcmd hp hload hret hst => ?load,
    fun o p ho hp hst hshed hvalid => ?runs, fun o p ho hp hst hshed hinvalid => ?refused, fun hup hcmd => ⟨fun hst => ?stops, fun h2 h3 => ?noStop⟩,
    fun hdbg hst => congrArg Host.Outcome.next (if_pos ⟨hdbg, hst⟩), fun hdbg hst => congrArg Host.Outcome.next (if_pos ⟨hdbg, hst⟩),
    fun p k hup hk hcmd hp => ?drop, fun hon => congrArg Host.Outcome.next (if_neg (by simp [hon])), fun hon => congrArg Host.Outcome.next (if_pos hon)⟩
  case boot =>
    have hall : ((coresOfPad s p).all fun m => m == n || (coreAt s m).state == 0) = true :=
      List.all_eq_true.mpr fun m hm => by simp [hstopped m hm]
    rw [exec_bxBoot hup hv hpres hfn hhead, hall, hostLoad_begins hp hret (hstopped n (List.mem_of_mem_head? hhead))]
  case load =>
    rw [exec_coreLoad hup hcmd hp, mayLoad, hload, hostLoad_begins ((padOfCore_of_coreCmdUp hup).trans hp) hret hst]
  case runs =>
    refine ⟨_, exec_coreLoadDone ho hp hst hshed, ?_⟩
    rw [endLoad_valid hvalid, coreAt_modCore_self, coreAt_measuredPad, padAt_modCore, padAt_measuredPad_mr, padAt_measuredPad_extendLost]
    exact ⟨rfl, rfl, rfl⟩
  case refused =>
    refine ⟨_, exec_coreLoadDone ho hp hst hshed, ?_⟩
    rw [endLoad_invalid hinvalid, coreAt_stopCore_coreErr (by omega)]
    exact ⟨rfl, (endWait_keeps _ 0).1, rfl⟩
  case stops =>
    refine ⟨_, (exec_coreStop hup hcmd).trans (congrArg _ (if_pos hst)), ?_⟩
    rw [coreAt_stopCore_coreErr (by omega)]
    obtain ⟨herr, hmem, hwin⟩ := endWait_keeps { coreAt s n with cmdErr := 0 } 0
    exact ⟨rfl, herr, hmem, hwin⟩
  case noStop => rw [exec_coreStop hup hcmd, if_neg (not_or.mpr ⟨h2, h3⟩), coreErr]
  case drop =>
    have hexec : exec (.feedDrop fn k v) s = execFeedDrop fn k v s := rfl
    simp [hexec, execFeedDrop, cmdOf, hup, hk, hcmd, hp]

end Sys2Proof.CoreCmds
end

section
/-! SUPPORT. A field of a byte string overwritten. -/

namespace Sys2Proof.ByteStrings

open Sys2Proof Sys2Proof.Machine

theorem padTo_of_le {n : Nat} {b : Bytes} (h : n ≤ b.length) : padTo n b = b.take n := by
  simp [padTo, zeros, Nat.sub_eq_zero_of_le h]

/-- A field written within a byte string is what stands there. -/
theorem slice_overlay_self {b d : Bytes} {off : Nat} (h : off + d.length ≤ b.length) : slice (overlay b off d) off d.length = d := by
  have hoff : (b.take off).length = off := by simp; omega
  have hshape : overlay b off d = b.take off ++ (d ++ b.drop (off + d.length)) := by
    rw [overlay, padTo_of_le (by omega), List.append_assoc]
  have hslice := slice_append_right (b.take off) (d ++ b.drop (off + d.length)) 0 d.length
  rw [hoff, Nat.add_zero] at hslice
  rw [hshape, hslice, slice_append_left _ le_rfl, List.take_length]

theorem getElem?_overlay {b d : Bytes} {off i : Nat} (h : off + d.length ≤ b.length) (hi : i < off ∨ off + d.length ≤ i) :
    (overlay b off d)[i]? = b[i]? := by
  have hoff : (b.take off).length = off := by simp; omega
  rw [overlay, padTo_of_le (by omega), List.append_assoc]
  rcases hi with hlt | hge
  · rw [List.getElem?_append_left (by omega), List.getElem?_take_of_lt hlt]
  · rw [List.getElem?_append_right (by omega), List.getElem?_append_right (by omega), List.getElem?_drop]
    congr 1
    omega

/-- A field beside the one written stays. -/
theorem slice_overlay_other {b d : Bytes} {off o n : Nat} (h : off + d.length ≤ b.length) (ho : o + n ≤ off ∨ off + d.length ≤ o) :
    slice (overlay b off d) o n = slice b o n := by
  refine List.ext_getElem? fun i => ?_
  simp only [slice, List.getElem?_take, List.getElem?_drop]
  split
  · exact getElem?_overlay h (by omega)
  · rfl

end Sys2Proof.ByteStrings
end

section
/-! PROOF. The compare unit and register extends (R298 to R302; O59). -/

namespace Sys2Proof.Compare

open Sys2Proof Sys2Proof.Machine Sys2Proof.Claims Sys2Proof.ByteStrings

section
variable {s : State} {fn p : Nat} {v : W64} {size : Nat}

theorem padUp_of_hostAt (h : HostAt s fn p) : padUp s fn = true := by
  obtain ⟨hup, hpad⟩ := h
  simp [padUp, hup, hpad]

theorem fnAt_modFn_other {g : Fn → Fn} {n : Nat} (h : n ≠ fn) : fnAt (modFn s fn g) n = fnAt s n := by rw [modFn, fnAt_putFn, if_neg h]

theorem exec_dgCmpGo (h : HostAt s fn p) (hsize : size = 4 ∨ size = 8) (hgo : hasBit v.toNat 11 = true) :
    exec (.dgCmpGo fn 0xA340 size v) s = .next (modFn s fn fun f =>
      { cmpFields f v.toNat with cmpGo := true, cmpSpoiled := false, cmpEq := 0#32, cmpNe := 0xFFFFFFFF#32 }) := by
  refine congrArg Host.Outcome.next (if_pos ?_)
  rcases hsize with rfl | rfl <;> simp [padUp_of_hostAt h, ctrlWrite, hgo]

/-- A write of the control without go spoils the compare and takes the fields (R300). -/
theorem exec_dgCmpReset_ctrl (h : HostAt s fn p) (hsize : size = 4 ∨ size = 8) (hgo : hasBit v.toNat 11 = false) :
    exec (.dgCmpReset fn 0xA340 size v) s = .next (modFn s fn fun f => cmpFields (spoilCompare f) v.toNat) := by
  have hexec : exec (.dgCmpReset fn 0xA340 size v) s = execDgCmpReset fn 0xA340 size v s := rfl
  have hword : wordWrite 0xA300 64 0xA340 size = false := by rcases hsize with rfl | rfl <;> rfl
  have hctrl : ctrlWrite 0xA340 size = true := by rcases hsize with rfl | rfl <;> rfl
  simp [hexec, execDgCmpReset, padUp_of_hostAt h, hword, hctrl, hgo]

theorem exec_dgCmpReset_expect {k : Nat} (h : HostAt s fn p) (hk : k < 8) :
    exec (.dgCmpReset fn (0xA300 + 8 * k) 8 v) s =
      .next (modFn s fn fun f => { spoilCompare f with cmpExpect := overlay f.cmpExpect (8 * k) (leBytes 8 v.toNat) }) := by
  have hexec : exec (.dgCmpReset fn (0xA300 + 8 * k) 8 v) s = execDgCmpReset fn (0xA300 + 8 * k) 8 v s := rfl
  have hword : wordWrite 0xA300 64 (0xA300 + 8 * k) 8 = true := by
    simp [wordWrite]
    omega
  simp [hexec, execDgCmpReset, padUp_of_hostAt h, hword]

theorem exec_dgCmpDone (hgo : (fnAt s fn).cmpGo = true) (hp : padOfFn s fn = some p) : exec (.dgCmpDone fn) s = .next (modFn s fn fun f =>
    if cmpMatches s p f then { f with cmpGo := false, cmpSpoiled := false, cmpEq := 0x5A5AA5A5#32, cmpNe := 0xA5A55A5A#32 }
    else { f with cmpGo := false, cmpSpoiled := false, cmpEq := 0#32, cmpNe := 0xFFFFFFFF#32 }) := by
  have hexec : exec (.dgCmpDone fn) s = execDgCmpDone fn s := rfl
  simp [hexec, execDgCmpDone, hgo, hp]

/-- The result slot and the expected value agree as R299 asks. -/
theorem cmpMatches_iff {f : Fn} : cmpMatches s p f = true ↔
    let x := smGet {} (padAt s p).results f.cmpSlot
    (1 ≤ f.cmpLen ∧ f.cmpLen ≤ 64 ∧ x.valid = true ∧ f.cmpLen ≤ x.len ∧ x.data.take f.cmpLen = f.cmpExpect.take f.cmpLen) ∧ f.cmpSpoiled = false := by
  simp only [cmpMatches, Bool.and_eq_true, decide_eq_true_eq, Bool.not_eq_true', beq_iff_eq]
  tauto

theorem exec_mrExtendWrite_host {m r : Nat} (h : m < 65) : exec (.mrExtendWrite m r v) s = .next s :=
  congrArg Host.Outcome.next (if_neg (by omega))

theorem exec_mrExtendWrite {r : Nat} (hp : p < 32) : exec (.mrExtendWrite (65 + p) r v) s =
    .next (if extendRights s p = true ∧ r < 16 then extendMr s p r (leBytes 8 v.toNat) else s) := by
  have hm : 65 + p - 65 = p := by omega
  have hin : 65 ≤ 65 + p ∧ 65 + p < 97 := by omega
  have hexec : exec (.mrExtendWrite (65 + p) r v) s = execMrExtendWrite (65 + p) r v s := rfl
  simp only [hexec, execMrExtendWrite, hm, hin, true_and]

theorem padAt_modPad_other {g : Pad → Pad} {q : Nat} (h : q ≠ p) : padAt (modPad s p g) q = padAt s q := by rw [modPad, padAt_putPad, if_neg h]

end

/-- Settles O59: each command by the compare fields or the register it sets. -/
theorem compareAndMeasure : Obligations.CompareAndMeasure := by
  intro s fn p
  dsimp only
  refine ⟨fun h => ⟨fun v size hsize => ⟨fun hgo => ?go, fun hgo => ?ctrl⟩, fun v k hk hlen => ?expect⟩, fun hgo hp => ?done,
    fun m r v => ⟨exec_mrExtendWrite_host, fun hp hr hright => ?extend, fun hp hright => ?noRight⟩⟩
  case go =>
    refine ⟨_, exec_dgCmpGo h hsize hgo, ?_⟩
    rw [fnAt_modFn_self]
    exact ⟨rfl, rfl, rfl, rfl, rfl, rfl, fun n hn => fnAt_modFn_other hn⟩
  case ctrl =>
    refine ⟨_, exec_dgCmpReset_ctrl h hsize hgo, ?_⟩
    rw [fnAt_modFn_self]
    exact ⟨rfl, rfl, rfl, rfl⟩
  case expect =>
    refine ⟨_, exec_dgCmpReset_expect h hk, ?_⟩
    rw [fnAt_modFn_self]
    have hin : 8 * k + (leBytes 8 v.toNat).length ≤ (fnAt s fn).cmpExpect.length := by rw [length_leBytes, hlen]; omega
    have hself := slice_overlay_self hin
    rw [length_leBytes] at hself
    exact ⟨hself, fun m hm hmk => slice_overlay_other hin (by rw [length_leBytes]; omega), rfl, rfl⟩
  case done =>
    refine ⟨_, exec_dgCmpDone hgo hp, ?_⟩
    rw [fnAt_modFn_self]
    split
    next hmatch =>
      obtain ⟨hsame, hspoiled⟩ := cmpMatches_iff.mp hmatch
      refine ⟨rfl, fun _ => ⟨rfl, rfl⟩, fun hnot => ?_⟩
      rcases hnot with hnot | hnot
      · exact absurd hsame hnot
      · exact absurd hnot (by simp [hspoiled])
    next hno => exact ⟨rfl, fun hsame => absurd (cmpMatches_iff.mpr hsame) hno, fun _ => ⟨rfl, rfl⟩⟩
  case extend =>
    refine ⟨_, (exec_mrExtendWrite hp).trans (congrArg _ (if_pos ⟨hright, hr⟩)), ?_⟩
    rw [extendMr, padAt_modPad_self]
    exact ⟨smGet_smSet_self .., fun k hk => (smGet_smSet ..).trans (if_neg hk), fun q hq => padAt_modPad_other hq⟩
  case noRight => rw [exec_mrExtendWrite hp, if_neg (by simp [hright])]

end Sys2Proof.Compare
end

section
/-! SUPPORT. What becomes of the jobs: no operation that drains, aborts or releases one sets a job of a paddock running (R160, R179). -/

namespace Sys2Proof.Jobs

open Sys2Proof Sys2Proof.Machine Sys2Proof.Claims Sys2Proof.Frames

/-- `j'` belongs to the paddock of `j`, and runs for its host only where `j` did. -/
structure Later (j j' : Job) : Prop where
  paddock : j'.paddock = j.paddock
  runs : j'.phase = .running → j'.silent = false → j.phase = .running ∧ j.silent = false

theorem Later.refl (j : Job) : Later j j := ⟨rfl, fun hp hs => ⟨hp, hs⟩⟩

theorem Later.trans {a b c : Job} (h : Later a b) (g : Later b c) : Later a c :=
  ⟨g.paddock.trans h.paddock, fun hp hs => (g.runs hp hs).elim h.runs⟩

theorem Later.of_phase {j j' : Job} (hp : j'.paddock = j.paddock) (h : j'.phase ≠ .running) : Later j j' := ⟨hp, fun hr => absurd hr h⟩

/-- Every job of `t` comes from one of `s`, and none has been set running. -/
def NoneStarts (s t : State) : Prop := ∀ j' ∈ t.jobs, ∃ j ∈ s.jobs, Later j j'

section
variable {s t u : State}

theorem NoneStarts.of_jobs (h : t.jobs = s.jobs) : NoneStarts s t := fun j hj => ⟨j, h ▸ hj, Later.refl j⟩

theorem NoneStarts.refl (s : State) : NoneStarts s s := .of_jobs rfl

theorem NoneStarts.trans (h : NoneStarts s t) (g : NoneStarts t u) : NoneStarts s u := fun j'' hj'' =>
  let ⟨_, hj', hl'⟩ := g j'' hj''
  let ⟨j, hj, hl⟩ := h _ hj'
  ⟨j, hj, hl.trans hl'⟩

theorem NoneStarts.of_only {l : List Part} (h : Only l s t) (hl : Part.jobs ∉ l) : NoneStarts s t := .of_jobs (h.same .jobs hl)

theorem NoneStarts.foldl {α : Type} {f : State → α → State} (l : List α) (hf : ∀ t x, NoneStarts t (f t x)) (s : State) :
    NoneStarts s (l.foldl f s) := by
  induction l generalizing s with
  | nil => exact .refl s
  | cons x r ih => exact (hf s x).trans (ih _)

theorem NoneStarts.setJobs_map {g : Job → Job} (hg : ∀ j, Later j (g j)) : NoneStarts s (setJobs u (s.jobs.map g)) := by
  intro j' hj'
  obtain ⟨j, hj, rfl⟩ := List.mem_map.mp hj'
  exact ⟨j, hj, hg j⟩

theorem NoneStarts.setJobs_filter (p : Job → Bool) : NoneStarts s (setJobs s (s.jobs.filter p)) := fun j hj =>
  ⟨j, (List.mem_filter.mp hj).1, Later.refl j⟩

theorem NoneStarts.modJob {g : Job → Job} (seq : Nat) (hg : ∀ j, Later j (g j)) : NoneStarts s (modJob s seq g) := by
  refine .setJobs_map fun j => ?_
  split
  · exact hg j
  · exact Later.refl j

/-! ## Draining, aborting and releasing -/

theorem endJob_noneStarts (s : State) (seq : Nat) (r : Result) (completed : Bool) : NoneStarts s (endJob s seq r completed) := by
  unfold endJob
  split
  · exact .refl s
  next j _ =>
    dsimp only
    have hdraw : NoneStarts s (if j.stallId != 0xFFFF then (draw s).2 else s) := by
      split
      · exact .of_only (draw_only s) (by decide +kernel)
      · exact .refl s
    refine hdraw.trans ?_
    generalize (if j.stallId != 0xFFFF then (draw s).2 else s) = s1
    have hmod := NoneStarts.modJob (s := s1) seq (g := fun x =>
      { x with
        phase := .finished, status := (keepStatus j r).status, out0 := (keepStatus j r).out0, out1 := (keepStatus j r).out1,
        out0Len := (keepStatus j r).len0, out1Len := (keepStatus j r).len1, verdict := (keepStatus j r).verdict,
        digest := (keepStatus j r).digest, reason := (keepStatus j r).reason, reasonIndex := (keepStatus j r).index, tDone := s.time,
        energyUj := if j.stallId != 0xFFFF then energyOf j (draw s).1 else 0, drawn := x.cells, context := none, inOutput := false,
        committed := false, stopReq := false, dispatched := true, replaying := false, stall := none })
      fun x => Later.of_phase rfl (by simp)
    refine hmod.trans ?_
    generalize Machine.modJob s1 seq _ = s2
    have hrelease : NoneStarts s2 (if (keepStatus j r).status = 0 then s2 else releaseClaims s2 j) := by
      split
      · exact .refl s2
      · exact .of_only (releaseClaims_only ..) (by decide +kernel)
    refine hrelease.trans ?_
    generalize (if (keepStatus j r).status = 0 then s2 else releaseClaims s2 j) = s3
    split
    · split
      · exact .of_only (freeStall_only ..) (by decide +kernel)
      · exact .of_only (abandonOn_only ..) (by decide +kernel)
    · exact .refl _

theorem drainJob_noneStarts (s : State) (j : Job) : NoneStarts s (drainJob s j) := by
  unfold drainJob
  split
  · exact .refl s
  split
  · have hmod := NoneStarts.modJob (s := s) j.seq
      (g := fun x => { x with phase := .issued, silent := true, replaying := false, stall := none, cells := 0, drawn := 0 })
      fun x => Later.of_phase rfl (by simp)
    split
    · exact hmod.trans (.of_only (abandonOn_only ..) (by decide +kernel))
    · exact hmod
  split
  · exact .refl s
  split
  · split
    · exact (NoneStarts.modJob (s := s) j.seq (g := fun x => { x with stopReq := true }) fun x => ⟨rfl, fun hp hs => ⟨hp, hs⟩⟩).trans (.of_jobs rfl)
    · exact .refl s
  · exact endJob_noneStarts _ _ _ _

theorem retireHead_noneStarts (s : State) (q : Nat) : NoneStarts s (retireHead s q) := by
  unfold retireHead
  split
  · exact .refl s
  next j _ =>
    dsimp only
    refine NoneStarts.trans ?_ (.of_only (writeShadow_only ..) (by decide +kernel))
    refine NoneStarts.trans ?_ (.of_only (afterRetire_only ..) (by decide +kernel))
    exact (NoneStarts.setJobs_filter fun x => !(isLive x && x.seq == j.seq)).trans (.of_jobs rfl)

theorem retireEntry_noneStarts (s : State) (q : Nat) : NoneStarts s (retireEntry s q) := by
  unfold retireEntry
  split
  · exact .refl s
  next j _ =>
    split
    · exact .refl s
    split
    · exact (NoneStarts.modJob (s := s) j.seq (g := fun x => { x with sent := true }) fun x => ⟨rfl, fun hp hs => ⟨hp, hs⟩⟩).trans
        (.of_only (sendFrame_only ..) (by decide +kernel))
    · exact retireHead_noneStarts _ _

theorem retireSilent_noneStarts (q fuel : Nat) (s : State) : NoneStarts s (retireSilent s q fuel) := by
  induction fuel generalizing s with
  | zero => exact .refl s
  | succ k ih =>
    rw [retireSilent]
    split
    · exact .refl s
    split
    · exact (retireEntry_noneStarts s q).trans (ih _)
    · exact .refl s

theorem drainQueue_noneStarts (s : State) (q : Nat) : NoneStarts s (drainQueue s q) :=
  (NoneStarts.foldl _ drainJob_noneStarts s).trans (retireSilent_noneStarts _ _ _)

theorem redrain_noneStarts (s : State) : NoneStarts s (redrain s) := by
  refine NoneStarts.foldl _ (fun t q => ?_) s
  split
  · exact drainQueue_noneStarts _ _
  · exact .refl t

theorem sweepKind_noneStarts (s : State) (kind : Nat) : NoneStarts s (sweepKind s kind) := by
  unfold sweepKind
  split
  · exact .refl s
  dsimp only
  have hjobs : ((s.jobs.filter fun j => isLive j && j.phase == .staged && j.fixed == 0 && needKind s j == kind).foldl releaseClaims s).jobs = s.jobs :=
    (Only.foldl _ (fun t j => releaseClaims_only t j) (Only.refl _ s)).same .jobs (by decide +kernel)
  rw [hjobs]
  refine .setJobs_map fun j => ?_
  split
  · exact Later.refl j
  split
  · exact Later.of_phase rfl (by simp)
  · exact Later.of_phase rfl (by simp [fixJob])

end

/-! ## A replay -/

theorem replayJob_phase (now : Nat) (useCkpt : Bool) (j : Job) : (replayJob now useCkpt j).phase ≠ .running := by
  unfold replayJob
  dsimp only
  split
  · simp
  · simp

theorem replayJob_paddock (now : Nat) (useCkpt : Bool) (j : Job) : (replayJob now useCkpt j).paddock = j.paddock := by
  unfold replayJob
  dsimp only
  split <;> rfl

theorem replayJob_silent (now : Nat) (useCkpt : Bool) (j : Job) : (replayJob now useCkpt j).silent = j.silent := by
  unfold replayJob
  dsimp only
  split <;> rfl

/-- Behind a replay no job of the ones it takes runs for its host. -/
theorem not_running_of_replayAll {s : State} {sel : Job → Bool} {useCkpt : Bool} {j' : Job} (hj' : j' ∈ (replayAll s sel useCkpt).jobs)
    (hsel : ∀ j, j.paddock = j'.paddock → sel j = true) (hs : j'.silent = false) : j'.phase ≠ .running := by
  have hmem : j' ∈ s.jobs.map fun j => if isLive j && !j.silent && sel j then replayJob s.time useCkpt j else j := hj'
  obtain ⟨j, -, hj⟩ := List.mem_map.mp hmem
  split at hj
  next => exact hj ▸ replayJob_phase _ _ _
  next hkept =>
    subst hj
    intro hrun
    exact hkept (by simp [isLive, hrun, hs, hsel j rfl])

end Sys2Proof.Jobs
end

section
/-! PROOF. A paddock reset (R79 to R81; O11). -/

namespace Sys2Proof.PadReset

open Sys2Proof Sys2Proof.Machine Sys2Proof.Claims Sys2Proof.Frames Sys2Proof.ScalarOps Sys2Proof.Jobs

/-! ## What the end of a command serves -/

/-- With nothing due, the end of a command reports the replays that are over and does nothing else. -/
theorem settle_of_nothingDue {s : State} (h : NothingDue s) : settle s = if s.en.flushActive then s else replaysDone s := by
  obtain ⟨hesc, hretire⟩ := h
  have hloop : settleLoop (s.fc.escNow.length + s.fc.retireNow.length + 8) s = s := by
    simp [settleLoop, hesc, hretire, nextDue]
  rw [settle, hloop]

theorem settle_only_of_nothingDue {s : State} (h : NothingDue s) :
    Only [.sys .wakeDriven, .port .linkState, .fn .pmeStatus, .fn .vecs, .pad .replayOwed, .out] s (settle s) := by
  rw [settle_of_nothingDue h]
  split
  · exact Only.refl _ _
  · exact replaysDone_only s

theorem foldl_eq_self {α : Type} {f : State → α → State} {s : State} (hf : ∀ x, f s x = s) (l : List α) : l.foldl f s = s := by
  induction l with
  | nil => rfl
  | cons x r ih => rw [List.foldl_cons, hf, ih]

theorem replaysDone_of_none {s : State} (h : ∀ p, (padAt s p).replayOwed = false) : replaysDone s = s :=
  foldl_eq_self (fun p => by simp [h p]) _

/-- With nothing due or owed, the end of a command changes nothing. -/
theorem settle_of_calm {s : State} (h : Calm s) : settle s = s := by
  obtain ⟨hdue, howed⟩ := h
  rw [settle_of_nothingDue hdue, replaysDone_of_none howed, ite_self]

/-! ## The steps of a paddock reset -/

/-- The bit latched, the session ended, a transition and the paddock's plan change abandoned. -/
def latchedReset (s : State) (p : Nat) : State :=
  beforeReset { s with sys := { s.sys with paddockResets := setBit s.sys.paddockResets p } } p

/-- The paddock's cores stopped and wiped. -/
def stoppedCores (s : State) (p : Nat) : State := (coresOfPad s p).foldl (fun t n => wipeCore (stopCore t n) n) s

/-- Its jobs replayed, its stalls mucked out. -/
def replayedPad (s : State) (p : Nat) : State := (List.range 52).foldl (muckPadStall p) (replayPad s p)

/-- Its digest state and registers cleared. -/
def clearedPad (s : State) (p : Nat) : State :=
  let mucked := (List.range 52).filter fun n => (stAt s n).lastPaddock == p && (stAt s n).state == 3
  clearDigests (modPad s p fun x => { x with mrs := [], genDue := true, extendLost := false, waitFor := none, resetStalls := mucked }) p

/-- Its seed, keys and queues brought up again. -/
def renewedPad (s : State) (p : Nat) : State :=
  recheck (replaysDone (redrain ([1, 2, 3, 4].foldl sweepKind (lowAgain (drawGen (reseedReset s p) p) p)))) [2]

section
variable {s : State} {p : Nat}

theorem paddockReset_eq (h0 : p ≠ 0) (h32 : p < 32) (hpres : padPresent s p = true) :
    paddockReset s p = renewedPad (clearedPad (replayedPad (stoppedCores (latchedReset s p) p) p) p) p := by
  rw [paddockReset, if_neg (by simp [h0, hpres]; omega)]
  rfl

theorem latchedReset_only : Only [.sys .paddockResets, .pl .busy, .pl .phase, .pl .err, .pl .swap, .pl .applying, .lc .slots, .lc .busy, .lc .step,
    .lc .token, .dbg .scope, .dbg .padMask, .pad .paused] s (latchedReset s p) := by
  unfold latchedReset
  refine Only.then (beforeReset_only ..) (by decide +kernel) ?_
  refine put_sys ?_ (Only.refl _ _)
  exact Sys.set_paddockResets (by decide +kernel) (SysReg.refl _ _)

theorem stoppedCores_only : Only [.sys .wakeDriven, .port .linkState, .fn .pmeStatus, .fn .vecs, .pad .extendLost, .core .state, .core .w, .core .pc,
    .core .waiting, .core .loading, .core .mem, .core .rstack, .core .spill, .core .windows, .out] s (stoppedCores s p) := by
  refine Only.foldl _ (fun t x => ?_) (Only.refl _ _)
  exact Only.then (wipeCore_only ..) (by decide +kernel) (Only.mono (stopCore_only ..) (by decide +kernel))

theorem renewedPad_only : Only (Part.drainQueue ++ Part.request ++ ([.sys .wakeDriven, .port .linkState, .fn .pmeStatus, .fn .vecs, .pad .replayOwed] : List Part))
    s (renewedPad s p) := by
  unfold renewedPad
  refine Only.then (recheck_only ..) (by decide +kernel) ?_
  refine Only.then (replaysDone_only ..) (by decide +kernel) ?_
  refine Only.then (redrain_only ..) (by decide +kernel) ?_
  refine Only.foldl _ (fun t x => Only.mono (sweepKind_only ..) (by decide +kernel)) ?_
  refine Only.then (lowAgain_only ..) (by decide +kernel) ?_
  refine Only.then (drawGen_only ..) (by decide +kernel) ?_
  exact Only.mono (reseedReset_only ..) (by decide +kernel)

theorem muckPadStalls_only : Only [.stall .state, .stall .jobs, .stall .reqFault, .stall .reqStop, .stall .reqClaim, .stall .reqYield,
    .stall .muckFailed, .stall .muckThen, .stall .sequ, .stall .tree] s ((List.range 52).foldl (muckPadStall p) s) :=
  Only.foldl _ (fun t x => Only.mono (muckPadStall_only ..) (by decide +kernel)) (Only.refl _ _)

theorem replayedPad_only : Only (Part.allPad ++ ([.jobs, .yard, .stall .state, .stall .jobs, .stall .reqFault, .stall .reqStop, .stall .reqClaim,
    .stall .reqYield, .stall .muckFailed, .stall .muckThen, .stall .sequ, .stall .tree] : List Part)) s (replayedPad s p) := by
  unfold replayedPad
  refine Only.then muckPadStalls_only (by decide +kernel) ?_
  exact Only.mono (replayPad_only ..) (by decide +kernel)

theorem clearedPad_only : Only [.fn .cmpExpect, .fn .cmpSpoiled, .fn .cmpEq, .fn .cmpNe, .pad .results, .pad .mrs, .pad .genDue, .pad .extendLost,
    .pad .waitFor, .pad .resetStalls] s (clearedPad s p) := by
  unfold clearedPad
  refine Only.then (clearDigests_only ..) (by decide +kernel) ?_
  refine modPad_in ?_ (Only.refl _ _)
  exact Pad.set_genDue_mrs_extendLost_waitFor_resetStalls (by decide +kernel) (PadReg.refl _ _)

/-! ## The cores -/

theorem coreAt_stopCore_other {n m : Nat} (h : m ≠ n) : coreAt (stopCore s n) m = coreAt s m := by
  have rights (u : State) (q : Nat) : coreAt (restoreRights u q) m = coreAt u m := coreAt_of_only (restoreRights_only ..) (by decide +kernel) m
  have event (u : State) (q : Nat) : coreAt (raisePad u (32 + n) q) m = coreAt u m := coreAt_of_only (raisePad_only ..) (by decide +kernel) m
  have put (g : Core → Core) : coreAt (modCore s n g) m = coreAt s m := by rw [modCore, coreAt_putCore, if_neg h]
  unfold stopCore
  split
  · rfl
  dsimp only
  split
  · rw [rights, event, put]
  · exact put _

theorem coreAt_stopCore_state (n : Nat) : (coreAt (stopCore s n) n).state = 0 := by
  by_cases h : (coreAt s n).state = 0
  · rw [stopCore, if_pos h, h]
  · rw [coreAt_stopCore h]

theorem coreAt_wipeStop_self (n : Nat) : (coreAt (wipeCore (stopCore s n) n) n).state = 0 ∧ (coreAt (wipeCore (stopCore s n) n) n).mem = [] ∧
    (coreAt (wipeCore (stopCore s n) n) n).windows = [] := by
  rw [wipeCore, coreAt_modCore_self]
  exact ⟨coreAt_stopCore_state n, rfl, rfl⟩

theorem coreAt_wipeStop_other {n m : Nat} (h : m ≠ n) : coreAt (wipeCore (stopCore s n) n) m = coreAt s m := by
  rw [wipeCore, modCore, coreAt_putCore, if_neg h, coreAt_stopCore_other h]

theorem coreAt_stops_other {n : Nat} (l : List Nat) (h : n ∉ l) (s : State) :
    coreAt (l.foldl (fun t m => wipeCore (stopCore t m) m) s) n = coreAt s n := by
  induction l generalizing s with
  | nil => rfl
  | cons m r ih =>
    rw [List.mem_cons, not_or] at h
    rw [List.foldl_cons, ih h.2, coreAt_wipeStop_other h.1]

theorem coreAt_stops_mem {n : Nat} (l : List Nat) (h : n ∈ l) (s : State) :
    let t := l.foldl (fun t m => wipeCore (stopCore t m) m) s
    (coreAt t n).state = 0 ∧ (coreAt t n).mem = [] ∧ (coreAt t n).windows = [] := by
  induction l generalizing s with
  | nil => cases h
  | cons m r ih =>
    by_cases hr : n ∈ r
    · exact ih hr _
    · obtain rfl : n = m := (List.mem_cons.mp h).resolve_right hr
      dsimp only
      rw [List.foldl_cons, coreAt_stops_other r hr]
      exact coreAt_wipeStop_self n

/-! ## The measurement registers -/

theorem smGet_replayOwed_mrs (l : List Nat) (owed : Nat → Bool) (m : SMap Pad) (q : Nat) :
    (smGet {} (l.foldl (fun m p => if owed p then smMod {} m p fun x => { x with replayOwed := true } else m) m) q).mrs = (smGet {} m q).mrs := by
  induction l generalizing m with
  | nil => rfl
  | cons p r ih =>
    rw [List.foldl_cons, ih]
    split
    · rw [smMod, smGet_smSet]
      split
      next h => rw [h]
      next => rfl
    · rfl

theorem replayPad_mrs (q : Nat) : (padAt (replayPad s p) q).mrs = (padAt s q).mrs := by
  unfold replayPad
  split
  · exact smGet_replayOwed_mrs ..
  · rfl

theorem replayedPad_mrs (q : Nat) : (padAt (replayedPad s p) q).mrs = (padAt s q).mrs := by
  have h : Only _ _ (replayedPad s p) := muckPadStalls_only
  exact (h.same (.pad .mrs) (by decide +kernel) q).trans (replayPad_mrs q)

theorem clearedPad_mrs_self : (padAt (clearedPad s p) p).mrs = [] := by
  unfold clearedPad
  refine ((clearDigests_only ..).same (.pad .mrs) (by decide +kernel) p).trans ?_
  rw [padAt_modPad_self]

theorem clearedPad_mrs_other {q : Nat} (h : q ≠ p) : (padAt (clearedPad s p) q).mrs = (padAt s q).mrs := by
  unfold clearedPad
  refine ((clearDigests_only ..).same (.pad .mrs) (by decide +kernel) q).trans ?_
  rw [modPad, padAt_putPad, if_neg h]

/-! ## The jobs -/

theorem renewedPad_noneStarts : NoneStarts s (renewedPad s p) := by
  unfold renewedPad
  refine NoneStarts.trans ?_ (.of_only (recheck_only ..) (by decide +kernel))
  refine NoneStarts.trans ?_ (.of_only (replaysDone_only ..) (by decide +kernel))
  refine NoneStarts.trans ?_ (redrain_noneStarts _)
  refine NoneStarts.trans ?_ (NoneStarts.foldl _ sweepKind_noneStarts _)
  refine NoneStarts.trans ?_ (.of_only (lowAgain_only ..) (by decide +kernel))
  refine NoneStarts.trans ?_ (.of_only (drawGen_only ..) (by decide +kernel))
  exact .of_only (reseedReset_only ..) (by decide +kernel)

theorem not_running_of_replayedPad (hboot : s.sys.bootState = 1) {j : Job} (hj : j ∈ (replayedPad s p).jobs) (hp : j.paddock = p)
    (hs : j.silent = false) : j.phase ≠ .running := by
  have hmuck : Only _ _ (replayedPad s p) := muckPadStalls_only
  rw [hmuck.same .jobs (by decide +kernel), replayPad, if_pos hboot] at hj
  exact not_running_of_replayAll hj (fun j' hj' => by simp [hj', hp]) hs

end

theorem beforeReset_scope (s : State) (p : Nat) : (beforeReset s p).dbg.scope = 0 := by
  have hdbg : (abandonTransition (endSession s)).dbg.scope = 0 := (abandonTransition_only (endSession s)).same (.dbg .scope) (by decide +kernel)
  unfold beforeReset
  dsimp only
  split
  · split
    · exact ((abandonSwap_only ..).same (.dbg .scope) (by decide +kernel)).trans hdbg
    · exact hdbg
  · exact hdbg

theorem hasBit_setBit (v i : Nat) : hasBit (setBit v i) i = true := by simp [hasBit, setBit, Nat.testBit_two_pow_self]

theorem latchedReset_bit (s : State) (p : Nat) : hasBit (latchedReset s p).sys.paddockResets p = true := by
  have hsame : (latchedReset s p).sys.paddockResets = setBit s.sys.paddockResets p :=
    (beforeReset_only _ p).same (.sys .paddockResets) (by decide +kernel)
  rw [hsame, hasBit_setBit]

/-- The registers in which the reset of a paddock is seen, in `t` after `s`. -/
structure PadWasReset (s t : State) (p : Nat) : Prop where
  latched : hasBit t.sys.paddockResets p = true
  registers : (padAt t p).mrs = []
  session : t.dbg.scope = 0
  stopped : ∀ n ∈ coresOfPad s p, (coreAt t n).state = 0 ∧ (coreAt t n).mem = [] ∧ (coreAt t n).windows = []
  cores : ∀ n, n ∉ coresOfPad s p → coreAt t n = coreAt s n
  others : ∀ q, q ≠ p → (padAt t q).mrs = (padAt s q).mrs
  idle : s.sys.bootState = 1 → ∀ j ∈ t.jobs, j.paddock = p → j.silent = false → j.phase ≠ .running
  faults : t.fc = s.fc

/-- They stay through what changes neither cores nor jobs, nor any of these registers. -/
theorem PadWasReset.of_only {s t u : State} {p : Nat} {l : List Part} (h : PadWasReset s t p) (g : Only l t u)
    (hl : ([.sys .paddockResets, .pad .mrs, .dbg .scope, .jobs] ++ CoreReg.all.map .core ++ FcReg.all.map .fc : List Part).any l.contains = false) :
    PadWasReset s u p := by
  have hsame (r : Part) (hr : r ∈ ([.sys .paddockResets, .pad .mrs, .dbg .scope, .jobs] ++ CoreReg.all.map .core ++ FcReg.all.map .fc : List Part)) :
      r ∉ l := by simpa using List.any_eq_false.mp hl r hr
  have hcore (n : Nat) : coreAt u n = coreAt t n :=
    CoreReg.eq_of_same fun r => g.same (.core r) (hsame _ (by simp [r.mem_all])) n
  have hmrs (q : Nat) : (padAt u q).mrs = (padAt t q).mrs := g.same (.pad .mrs) (hsame _ (by simp)) q
  have hjobs : u.jobs = t.jobs := g.same .jobs (hsame _ (by simp))
  have hbits : u.sys.paddockResets = t.sys.paddockResets := g.same (.sys .paddockResets) (hsame _ (by simp))
  have hscope : u.dbg.scope = t.dbg.scope := g.same (.dbg .scope) (hsame _ (by simp))
  exact {
    latched := hbits ▸ h.latched
    registers := (hmrs p).trans h.registers
    session := hscope.trans h.session
    stopped := fun n hn => (hcore n).symm ▸ h.stopped n hn
    cores := fun n hn => (hcore n).trans (h.cores n hn)
    others := fun q hq => (hmrs q).trans (h.others q hq)
    idle := fun hb => hjobs ▸ h.idle hb
    faults := (FcReg.eq_of_same fun r => g.same (.fc r) (hsame _ (by simp [r.mem_all]))).trans h.faults }

/-- A paddock reset leaves them of a present paddock other than 0. -/
theorem paddockReset_resets {s : State} {p : Nat} (h0 : p ≠ 0) (h32 : p < 32) (hpres : padPresent s p = true) :
    PadWasReset s (paddockReset s p) p := by
  rw [paddockReset_eq h0 h32 hpres]
  have hbit := latchedReset_bit s p
  have hscope : (latchedReset s p).dbg.scope = 0 := beforeReset_scope _ p
  have hlatch : Only _ s (latchedReset s p) := latchedReset_only
  generalize latchedReset s p = s1 at *
  have hpads : coresOfPad s1 p = coresOfPad s p := by
    have hplan : s1.plan = s.plan := plan_of_only hlatch (by decide +kernel)
    simp only [coresOfPad, padRec, hplan]
  have hcore1 (n : Nat) : coreAt s1 n = coreAt s n := coreAt_of_only hlatch (by decide +kernel) n
  have hstop : Only _ s1 (stoppedCores s1 p) := stoppedCores_only
  have hstopped (n : Nat) (hn : n ∈ coresOfPad s p) : (coreAt (stoppedCores s1 p) n).state = 0 ∧ (coreAt (stoppedCores s1 p) n).mem = [] ∧
      (coreAt (stoppedCores s1 p) n).windows = [] := coreAt_stops_mem _ (hpads ▸ hn) s1
  have hkept (n : Nat) (hn : n ∉ coresOfPad s p) : coreAt (stoppedCores s1 p) n = coreAt s1 n := coreAt_stops_other _ (hpads ▸ hn) s1
  generalize stoppedCores s1 p = s2 at *
  have hreplay : Only _ s2 (replayedPad s2 p) := replayedPad_only
  have hmrs3 (q : Nat) := replayedPad_mrs (s := s2) (p := p) q
  have hidle (hb : s2.sys.bootState = 1) (j : Job) (hj : j ∈ (replayedPad s2 p).jobs) := not_running_of_replayedPad hb hj
  generalize replayedPad s2 p = s3 at *
  have hclear : Only _ s3 (clearedPad s3 p) := clearedPad_only
  have hmrs4 := clearedPad_mrs_self (s := s3) (p := p)
  have hmrs4' (q : Nat) (hq : q ≠ p) := clearedPad_mrs_other (s := s3) hq
  generalize clearedPad s3 p = s4 at *
  have hrenew : Only _ s4 (renewedPad s4 p) := renewedPad_only
  have hstarts : NoneStarts s4 (renewedPad s4 p) := renewedPad_noneStarts
  generalize renewedPad s4 p = t at *
  have hcore (n : Nat) : coreAt t n = coreAt s2 n :=
    (coreAt_of_only hrenew (by decide +kernel) n).trans
      ((coreAt_of_only hclear (by decide +kernel) n).trans (coreAt_of_only hreplay (by decide +kernel) n))
  have hmrs (q : Nat) : (padAt t q).mrs = (padAt s4 q).mrs := hrenew.same (.pad .mrs) (by decide +kernel) q
  exact {
    latched := by
      rw [hrenew.same (.sys .paddockResets) (by decide +kernel), hclear.same (.sys .paddockResets) (by decide +kernel),
        hreplay.same (.sys .paddockResets) (by decide +kernel), hstop.same (.sys .paddockResets) (by decide +kernel)]
      exact hbit
    registers := (hmrs p).trans hmrs4
    session := by
      rw [hrenew.same (.dbg .scope) (by decide +kernel), hclear.same (.dbg .scope) (by decide +kernel),
        hreplay.same (.dbg .scope) (by decide +kernel), hstop.same (.dbg .scope) (by decide +kernel)]
      exact hscope
    stopped := fun n hn => (hcore n).symm ▸ hstopped n hn
    cores := fun n hn => (hcore n).trans ((hkept n hn).trans (hcore1 n))
    others := fun q hq => by
      rw [hmrs, hmrs4' q hq, hmrs3, hstop.same (.pad .mrs) (by decide +kernel) q, hlatch.same (.pad .mrs) (by decide +kernel) q]
    idle := fun hb j hj hp hs hrun => by
      obtain ⟨j', hj', hlater⟩ := hstarts j hj
      rw [hclear.same .jobs (by decide +kernel)] at hj'
      have hb2 : s2.sys.bootState = 1 := by
        rw [hstop.same (.sys .bootState) (by decide +kernel), hlatch.same (.sys .bootState) (by decide +kernel)]
        exact hb
      obtain ⟨hrun', hs'⟩ := hlater.runs hrun hs
      exact hidle hb2 j' hj' (hlater.paddock.symm.trans hp) hs' hrun'
    faults := by
      rw [fc_of_only hrenew (by decide +kernel), fc_of_only hclear (by decide +kernel), fc_of_only hreplay (by decide +kernel),
        fc_of_only hstop (by decide +kernel), fc_of_only hlatch (by decide +kernel)] }

theorem paddockReset_none {s : State} {p : Nat} (h : p = 0 ∨ padPresent s p = false) : paddockReset s p = s :=
  if_pos (h.imp_right .inr)

/-- Settles O11: the reset's own steps, behind which the end of the command serves nothing that is seen. -/
theorem paddockReset : Obligations.PaddockReset := by
  intro s v p
  have h32 : p < 32 := by
    have h : bits v.toNat 0 5 = v.toNat / 2 ^ 0 % 2 ^ 5 := rfl
    simp only [p, h]
    omega
  refine ⟨fun hup hdue hkey h0 hpres => ?resets, fun hdue howed hup hkey hnone => ?noPaddock, fun fn hno => ?noKey⟩
  case resets =>
    have hreset := paddockReset_resets (s := s) h0 h32 hpres
    have hdue' : NothingDue (Machine.paddockReset s p) := by simpa [NothingDue, hreset.faults] using hdue
    refine ⟨_, congrArg Host.Outcome.next (if_pos ⟨rfl, hup, hkey⟩), ?_⟩
    obtain ⟨hbit, hmrs, hscope, hstopped, hkept, hothers, hidle, -⟩ := hreset.of_only (settle_only_of_nothingDue hdue') (by decide +kernel)
    exact ⟨hbit, hmrs, hscope, hstopped, hkept, hothers, hidle⟩
  case noPaddock =>
    have hexec : exec (.syPaddockReset 0 v) s = .next (settle (Machine.paddockReset s p)) := congrArg Host.Outcome.next (if_pos ⟨rfl, hup, hkey⟩)
    rw [hexec, paddockReset_none hnone, settle_of_calm ⟨hdue, howed⟩]
  case noKey =>
    refine congrArg Host.Outcome.next (if_neg ?_)
    rintro ⟨h0, -, hkey⟩
    exact hno.elim (· h0) (· hkey)

end Sys2Proof.PadReset
end

section
/-! SUPPORT. The execution of a job command: when it runs, what it reads from host memory, and what its end leaves in the record (R177, R220). -/

namespace Sys2Proof.JobRuns

open Sys2Proof Sys2Proof.Machine Sys2Proof.Claims Sys2Proof.Frames

/-! ## Records by their accept_seq -/

/-- A change of the record of one job is what its `jobOf` reads after. -/
theorem jobOf_modJob {s : State} {seq : Nat} {g : Job → Job} (hseq : ∀ x, (g x).seq = x.seq) (hlive : ∀ x, isLive x = true → isLive (g x) = true) :
    jobOf (modJob s seq g) seq = (jobOf s seq).map g := by
  have hmap : jobOf (modJob s seq g) seq =
      (s.jobs.map fun j => if j.seq == seq && isLive j then g j else j).find? fun j => j.seq == seq && isLive j := rfl
  have hpred : ((fun j : Job => j.seq == seq && isLive j) ∘ fun j => if j.seq == seq && isLive j then g j else j) =
      fun j => j.seq == seq && isLive j := by
    funext x
    simp only [Function.comp_apply]
    split
    next h =>
      obtain ⟨hx, hl⟩ := Bool.and_eq_true_iff.mp h
      rw [hseq, hx, hlive x hl, hl]
    next => rfl
  rw [hmap, List.find?_map, hpred]
  show Option.map _ (jobOf s seq) = Option.map g (jobOf s seq)
  cases h : jobOf s seq with
  | none => rfl
  | some j => simp only [Option.map_some, if_pos (List.find?_some h)]

theorem mem_modJob_of_other {s : State} {seq : Nat} {g : Job → Job} {x : Job} (hx : x ∈ s.jobs) (hne : x.seq ≠ seq) : x ∈ (modJob s seq g).jobs := by
  have hmem : x ∈ s.jobs.map fun j => if j.seq == seq && isLive j then g j else j :=
    List.mem_map.mpr ⟨x, hx, by simp [hne]⟩
  exact hmem

theorem seq_of_jobOf {s : State} {seq : Nat} {j : Job} (h : jobOf s seq = some j) : j.seq = seq := by
  have := List.find?_some h
  simp only [Bool.and_eq_true, beq_iff_eq] at this
  exact this.1

theorem jobOf_congr {s t : State} (h : t.jobs = s.jobs) (seq : Nat) : jobOf t seq = jobOf s seq := by unfold jobOf; rw [h]

/-! ## A state in which a job still runs -/

/-- What an execution leaves alone in the record `k` of the job `j`. -/
structure SameRecord (j k : Job) : Prop where
  seq : k.seq = j.seq
  queue : k.queue = j.queue
  paddock : k.paddock = j.paddock
  bx : k.bx = j.bx
  desc : k.desc = j.desc
  issued : k.issued = j.issued
  issuedStatus : k.issuedStatus = j.issuedStatus

theorem SameRecord.refl (j : Job) : SameRecord j j := ⟨rfl, rfl, rfl, rfl, rfl, rfl, rfl⟩

theorem SameRecord.trans {a b c : Job} (h : SameRecord a b) (g : SameRecord b c) : SameRecord a c :=
  ⟨g.seq.trans h.seq, g.queue.trans h.queue, g.paddock.trans h.paddock, g.bx.trans h.bx, g.desc.trans h.desc, g.issued.trans h.issued,
    g.issuedStatus.trans h.issuedStatus⟩

theorem keepStatus_of_same {j k : Job} (h : SameRecord j k) (r : Result) : keepStatus k r = keepStatus j r := by
  unfold keepStatus
  rw [h.issued, h.issuedStatus]

/-- `u` still holds the record of the job `j` of `s`, and every other one, at the same time. -/
structure StillRuns (s u : State) (j : Job) : Prop where
  record : ∃ k, jobOf u j.seq = some k ∧ SameRecord j k
  time : u.time = s.time
  others : ∀ x ∈ s.jobs, x.seq ≠ j.seq → x ∈ u.jobs

section
variable {s t u v : State} {j : Job} {r : Result}

theorem StillRuns.refl (h : jobOf s j.seq = some j) : StillRuns s s j := ⟨⟨j, h, .refl j⟩, rfl, fun _ hx _ => hx⟩

theorem StillRuns.of_fields (h : StillRuns s u j) (hj : v.jobs = u.jobs) (ht : v.time = u.time) : StillRuns s v j :=
  ⟨by rw [jobOf_congr hj]; exact h.record, ht.trans h.time, fun x hx hne => hj ▸ h.others x hx hne⟩

theorem StillRuns.of_only {l : List Part} (h : StillRuns s u j) (ho : Only l u v) (hj : Part.jobs ∉ l) (ht : Part.time ∉ l) : StillRuns s v j :=
  h.of_fields (ho.same .jobs hj) (ho.same .time ht)

theorem StillRuns.modJob {g : Job → Job} (h : StillRuns s u j) (hg : ∀ x, SameRecord x (g x)) (hlive : ∀ x, isLive x = true → isLive (g x) = true) :
    StillRuns s (modJob u j.seq g) j := by
  obtain ⟨⟨k, hk, hsame⟩, htime, hothers⟩ := h
  refine ⟨⟨g k, ?_, hsame.trans (hg k)⟩, htime, fun x hx hne => mem_modJob_of_other (hothers x hx hne) hne⟩
  rw [jobOf_modJob (fun x => (hg x).seq) hlive, hk]
  rfl

/-! ## The end of an execution -/

/-- The record of a job that ended with a result, already under the status its issued completion keeps. -/
def endedJob (k : Job) (r : Result) (now e : Nat) : Job :=
  { k with
    phase := .finished, status := r.status, out0 := r.out0, out1 := r.out1, out0Len := r.len0, out1Len := r.len1, verdict := r.verdict,
    digest := r.digest, reason := r.reason, reasonIndex := r.index, tDone := now, energyUj := e, drawn := k.cells, context := none, inOutput := false,
    committed := false, stopReq := false, dispatched := true, replaying := false, stall := none }

/-- Ending a job writes its record and no other: claims and stalls are registers of their own. -/
theorem endJob_jobs {seq : Nat} {k : Job} (hk : jobOf u seq = some k) (r : Result) (c : Bool) :
    ∃ e, (endJob u seq r c).jobs = (modJob u seq fun x => endedJob x (keepStatus k r) u.time e).jobs := by
  unfold endJob
  simp only [hk]
  refine ⟨if k.stallId != 0xFFFF then energyOf k (draw u).1 else 0, ?_⟩
  have hdraw : (if k.stallId != 0xFFFF then (draw u).2 else u).jobs = u.jobs := by split <;> rfl
  generalize (if k.stallId != 0xFFFF then (draw u).2 else u) = u1 at hdraw
  have hmod : ∀ g, (modJob u1 seq g).jobs = (modJob u seq g).jobs := fun g => by
    show List.map _ u1.jobs = List.map _ u.jobs
    rw [hdraw]
  have hclaims : ∀ v : State, (if (keepStatus k r).status = 0 then v else releaseClaims v k).jobs = v.jobs := fun v => by
    split
    · rfl
    · exact (releaseClaims_only v k).same .jobs (by decide +kernel)
  split
  · split
    · exact ((freeStall_only ..).same .jobs (by decide +kernel)).trans ((hclaims _).trans (hmod _))
    · exact ((abandonOn_only ..).same .jobs (by decide +kernel)).trans ((hclaims _).trans (hmod _))
  · exact (hclaims _).trans (hmod _)

/-- A job that ends with ST_OK gives back no claim: its end changes the jobs and its stall alone. -/
theorem endJob_only_of_ok {seq : Nat} {k : Job} (hk : jobOf u seq = some k) (hok : (keepStatus k r).status = 0) (c : Bool) :
    Only [.stall .state, .stall .jobs, .stall .reqFault, .stall .reqStop, .stall .reqClaim, .stall .reqYield, .stall .muckFailed, .stall .muckThen,
      .stall .scrubDue, .stall .cplRd, .stall .cplWr, .stall .sequ, .stall .tree, .jobs, .yard, .freeCtr] u (endJob u seq r c) := by
  unfold endJob
  simp only [hk, hok, if_true]
  have hdraw : Only [.freeCtr] u (if k.stallId != 0xFFFF then (draw u).2 else u) := by
    split
    · exact draw_only u
    · exact Only.refl _ u
  generalize (if k.stallId != 0xFFFF then (draw u).2 else u) = u1 at hdraw
  split
  · split
    · exact Only.then (freeStall_only ..) (by decide +kernel) (Only.then (modJob_only ..) (by decide +kernel) (hdraw.mono (by decide +kernel)))
    · exact Only.then (abandonOn_only ..) (by decide +kernel) (Only.then (modJob_only ..) (by decide +kernel) (hdraw.mono (by decide +kernel)))
  · exact Only.then (modJob_only ..) (by decide +kernel) (hdraw.mono (by decide +kernel))

theorem jobOf_endJob {seq : Nat} {k : Job} (hk : jobOf u seq = some k) (r : Result) (c : Bool) :
    ∃ e, jobOf (endJob u seq r c) seq = some (endedJob k (keepStatus k r) u.time e) := by
  obtain ⟨e, he⟩ := endJob_jobs hk r c
  refine ⟨e, ?_⟩
  rw [jobOf_congr he, jobOf_modJob (g := fun x => endedJob x (keepStatus k r) u.time e) (fun _ => rfl) (fun _ _ => rfl), hk]
  rfl

theorem mem_endJob_of_other {seq : Nat} {k x : Job} (hk : jobOf u seq = some k) (r : Result) (c : Bool) (hx : x ∈ u.jobs) (hne : x.seq ≠ seq) :
    x ∈ (endJob u seq r c).jobs := by
  obtain ⟨e, he⟩ := endJob_jobs hk r c
  rw [he]
  exact mem_modJob_of_other hx hne

/-- A job that still runs, ended: its record stands finished with the result. -/
theorem finished_of_endJob (h : StillRuns s u j) (r : Result) (c : Bool) : Finished s (endJob u j.seq r c) j r false := by
  obtain ⟨⟨k, hk, hsame⟩, htime, hothers⟩ := h
  obtain ⟨e, he⟩ := jobOf_endJob hk r c
  rw [keepStatus_of_same hsame] at he
  exact ⟨_, he, rfl, rfl, rfl, rfl, rfl, rfl, rfl, rfl, rfl, rfl, htime, hsame.desc, fun x hx hne => mem_endJob_of_other hk r c (hothers x hx hne) hne⟩

theorem finished_of_ends {k : Job} (h : StillRuns s u j) (hk : k.seq = j.seq) (r : Result) : Finished s (ends u k r) j r false := by
  unfold ends finishJob
  rw [hk]
  exact finished_of_endJob h r true

theorem finished_congr {o : Bool} (h : Finished s t j r o) (hj : v.jobs = t.jobs) : Finished s v j r o := by
  obtain ⟨k, hk, hrest⟩ := h
  exact ⟨k, (jobOf_congr hj _).trans hk, by rw [hj]; exact hrest⟩

/-! ## When a job command runs -/

theorem of_runningJob {seq op : Nat} (h : runningJob s seq op = some j) : jobOf s seq = some j ∧ j.desc.opcode = op ∧ j.fixed = 0 := by
  unfold runningJob at h
  split at h
  · exact absurd h (by simp)
  next k hk =>
    split at h
    · exact absurd h (by simp)
    next hgo =>
      have hkj : k = j := by
        split at h
        · split at h
          · exact Option.some.inj h
          · exact absurd h (by simp)
        · split at h
          · exact Option.some.inj h
          · exact absurd h (by simp)
      subst hkj
      simp only [ne_eq, not_or, not_not] at hgo
      exact ⟨hk, hgo.1, hgo.2.1⟩

theorem execute_none {seq op : Nat} (h : runningJob s seq op = none) (inp : OpInput) (need : State → Job → Nat × Nat)
    (f : State → Job → OpIn → State) : execute s seq op inp need f = s := by
  unfold execute
  rw [h]

theorem execute_capacity {seq op : Nat} {need : State → Job → Nat × Nat} (h : runningJob s seq op = some j) (hcap : capacityDetail j.desc (need s j) ≠ 0)
    (inp : OpInput) (f : State → Job → OpIn → State) :
    execute s seq op inp need f =
      finishJob s seq { status := 0x0300 + capacityDetail j.desc (need s j), len0 := (need s j).1, len1 := (need s j).2 } := by
  unfold execute
  simp only [h]
  exact if_pos hcap

end

end Sys2Proof.JobRuns
end

section
/-! PROOF. Every job command runs its job through `execute`: one for a job that does not run changes nothing, one whose outputs do not fit ends
the job ST_CAPACITY (R177, R220). -/

namespace Sys2Proof.JobRuns

open Sys2Proof Sys2Proof.Machine Sys2Proof.Claims

/-- Every job command is an execution of its opcode. -/
theorem exec_jobRow (row : Nat × (Nat → OpInput → Instr) × (State → Job → Nat × Nat)) (h : JobRow row) :
    ∀ seq inp s, ∃ f, exec (row.2.1 seq inp) s = .next (execute s seq row.1 inp row.2.2 f) := by
  revert row
  simp only [JobRow, List.mem_append, or_imp, forall_and, List.forall_mem_cons, List.not_mem_nil, false_imp_iff, implies_true, and_true]
  and_intros <;> exact fun _ _ _ => ⟨_, rfl⟩

/-- Settles O46: every job command is an execution of its opcode, which checks that the job runs and that its outputs fit before it reads. -/
theorem jobsRunOrLackRoom : Obligations.JobsRunOrLackRoom := by
  unfold Obligations.JobsRunOrLackRoom
  intro s j inp row hrow
  refine ⟨fun seq hnone => ?_, fun d n hrun hn hd hne => ?_⟩
  · obtain ⟨f, hf⟩ := exec_jobRow row hrow seq inp s
    rw [hf, execute_none hnone]
  · subst hn hd
    obtain ⟨f, hf⟩ := exec_jobRow row hrow j.seq inp s
    refine ⟨_, hf, ?_⟩
    rw [execute_capacity hrun hne]
    exact finished_of_endJob (.refl (of_runningJob hrun).1) _ true

end Sys2Proof.JobRuns
end

section
/-! SUPPORT. A job whose inputs lie in host memory: the state in which its execution ends reads as the one the command was given in all that an
operation asks for (R177, R205). -/

namespace Sys2Proof.JobRuns

open Sys2Proof Sys2Proof.Machine Sys2Proof.Claims Sys2Proof.Frames

/-- The record of a job whose inputs have been read from host memory. -/
def reading (j : Job) : Job := { j with retrying := false, readFailed := false }

/-- The state in which they have been read. -/
def readState (s : State) (j : Job) : State := modJob s j.seq reading

theorem reading_same (j : Job) : SameRecord j (reading j) := ⟨rfl, rfl, rfl, rfl, rfl, rfl, rfl⟩

section
variable {s t : State} {j : Job} {op : Nat} {need : State → Job → Nat × Nat} {f : State → Job → OpIn → State} {inp : OpInput} {r : Result} {c : Instr}

theorem jobOf_readState (h : jobOf s j.seq = some j) : jobOf (readState s j) j.seq = some (reading j) := by
  unfold readState
  rw [jobOf_modJob (g := reading) (fun _ => rfl) (fun _ h => h), h]
  rfl

theorem readState_runs (h : jobOf s j.seq = some j) : StillRuns s (readState s j) j := (StillRuns.refl h).modJob reading_same fun _ hl => hl

theorem feedOf_host (hbx : j.bx = false) : feedOf j = none := by simp [feedOf, hbx]

theorem takeInputs_host (hbx : j.bx = false) : takeInputs s j = readState s j := by
  unfold takeInputs
  simp only [feedOf_host hbx, inputSecret, hbx, Bool.false_and, Bool.and_false, Bool.or_false]
  rfl

theorem readInputs_host (hbx : j.bx = false) (u : State) : readInputs u (reading j) inp = .got (hostIn j inp) := by
  have hbx' : (reading j).bx = false := hbx
  unfold readInputs memInputs hostIn
  simp only [feedOf_host hbx', inputAt, hbx', Option.getD_none]
  rfl

/-! What an operation asks of the state and the record. -/

@[simp] theorem reading_desc : (reading j).desc = j.desc := rfl
@[simp] theorem reading_seq : (reading j).seq = j.seq := rfl
@[simp] theorem reading_paddock : (reading j).paddock = j.paddock := rfl
@[simp] theorem reading_extra : (reading j).extra = j.extra := rfl
@[simp] theorem reading_issued : (reading j).issued = j.issued := rfl
@[simp] theorem reading_stall : (reading j).stall = j.stall := rfl
@[simp] theorem reading_keyWord : (reading j).keyWord = j.keyWord := rfl
@[simp] theorem jobAlg_reading : jobAlg (readState s j) (reading j) = jobAlg s j := rfl
@[simp] theorem captured_reading (label i n : Nat) : captured (readState s j) (reading j) label i n = captured s j label i n := rfl
@[simp] theorem jobKey_reading : jobKey (readState s j) (reading j) = jobKey s j := rfl
@[simp] theorem heldKey_reading (h : Nat) : heldKey (readState s j) (reading j) h = heldKey s j h := rfl
@[simp] theorem cachedKey_reading : cachedKey (readState s j) (reading j) = cachedKey s j := rfl
@[simp] theorem cachedTr_reading : cachedTr (readState s j) (reading j) = cachedTr s j := rfl
@[simp] theorem keyPair_reading (cls alg : Nat) (pub priv : Bytes) : keyPair (readState s j) (reading j) cls alg pub priv = keyPair s j cls alg pub priv := rfl
@[simp] theorem made_reading (l : List Bytes) (i n : Nat) : made (reading j) l i n = made j l i n := rfl
@[simp] theorem sizesOf_reading : sizesOf (readState s j) (reading j) = sizesOf s j := rfl
@[simp] theorem slotAt_reading (n : Nat) : slotAt (readState s j) n = slotAt s n := rfl
@[simp] theorem hbsAt_reading (n : Nat) : hbsAt (readState s j) n = hbsAt s n := rfl
@[simp] theorem cacheAt_reading (n : Nat) : cacheAt (readState s j) n = cacheAt s n := rfl

/-! ## The operation of a job that runs -/

theorem execute_host (hx : Executes s op j) (hfit : capacityDetail j.desc (need s j) = 0) :
    execute s j.seq op inp need f = f (readState s j) (reading j) (hostIn j inp) := by
  obtain ⟨hrun, hbx, habs⟩ := hx
  obtain ⟨hjob, -, -⟩ := of_runningJob hrun
  have hphase : ¬(twoPhase (reading j).desc (jobAlg (readState s j) (reading j)) && !(reading j).absorbed) = true := by
    simp only [reading_desc, jobAlg_reading, Bool.and_eq_true, Bool.not_eq_true', not_and, Bool.not_eq_false]
    exact habs
  unfold execute
  simp only [hrun, hfit, ne_eq, not_true_eq_false, if_false, takeInputs_host hbx, jobOf_readState hjob, readInputs_host hbx]
  exact if_neg hphase

/-- Two phases: the first execution only absorbs, and the record goes back to wait for its second stall (R286). -/
theorem execute_absorbs (hrun : runningJob s j.seq op = some j) (hbx : j.bx = false) (htwo : twoPhase j.desc (jobAlg s j) = true)
    (habs : j.absorbed = false) (hfit : capacityDetail j.desc (need s j) = 0) :
    execute s j.seq op inp need f = nextPhase (readState s j) j.seq := by
  obtain ⟨hjob, -, -⟩ := of_runningJob hrun
  have hphase : (twoPhase (reading j).desc (jobAlg (readState s j) (reading j)) && !(reading j).absorbed) = true := by
    simp only [reading_desc, jobAlg_reading, htwo, Bool.true_and, Bool.not_eq_true']
    exact habs
  unfold execute
  simp only [hrun, hfit, ne_eq, not_true_eq_false, if_false, takeInputs_host hbx, jobOf_readState hjob, readInputs_host hbx]
  exact if_pos hphase

/-- The command of a job that runs ends it with what its operation ends it with. -/
theorem endsWith_of_execute (hx : Executes s op j) (hfit : capacityDetail j.desc (need s j) = 0)
    (hc : exec c s = .next (execute s j.seq op inp need f)) (hf : Finished s (f (readState s j) (reading j) (hostIn j inp)) j r false) :
    EndsWith s j c r := by
  refine ⟨_, hc, ?_⟩
  rw [execute_host hx hfit]
  exact hf

theorem jobOf_of_executes (hx : Executes s op j) : jobOf s j.seq = some j := (of_runningJob hx.1).1

theorem opcode_of_executes (hx : Executes s op j) : j.desc.opcode = op := (of_runningJob hx.1).2.1

theorem jobAlg_of_executes (hx : Executes s op j) (hop : op ≠ 0x0E10) : jobAlg s j = (algOf j.desc).getD 0 := by
  unfold jobAlg
  rw [if_neg (opcode_of_executes hx ▸ hop)]

theorem finished_of_executes (hx : Executes s op j) (r : Result) : Finished s (ends (readState s j) (reading j) r) j r false :=
  finished_of_ends (readState_runs (jobOf_of_executes hx)) rfl r

theorem sizesOf_of_executes (hx : Executes s op j) (hop : op ≠ 0x0E10) : sizesOf s j = outSizes j.desc ((algOf j.desc).getD 0) [] 0 := by
  unfold sizesOf
  rw [jobAlg_of_executes hx hop]

end

end Sys2Proof.JobRuns
end

section
/-! SUPPORT. Outputs streamed ahead of the completion, and hayloft writes awaited by one (R232, R258, R261, R334). -/

namespace Sys2Proof.JobRuns

open Sys2Proof Sys2Proof.Machine Sys2Proof.Claims Sys2Proof.Frames

section
variable {s t u v : State} {j k : Job} {op : Nat} {r : Result} {inp : OpInput} {c : Instr}

/-- What an execution may change before its first output goes out. -/
def quietParts : List Part := .scans :: Part.finishJob

theorem mayWrite_of_quiet (h : Only quietParts s t) (q : Nat) : mayWrite t q = mayWrite s q := by
  unfold mayWrite mayIssue frozen
  simp only [qAt_of_only h (by decide +kernel), fnAt_of_only h (by decide +kernel), sys_of_only h (by decide +kernel),
    port_of_only h (by decide +kernel), en_of_only h (by decide +kernel), jn_of_only h (by decide +kernel)]

theorem scanMove_runs (h : StillRuns s u j) (p n : Nat) : StillRuns s (scanMove u p n) j := h.of_only (scanMove_only u p n) (by decide +kernel) (by decide +kernel)

theorem out_hostWrite (s : State) (n addr : Nat) {d : Bytes} (hd : d ≠ []) : (hostWrite s n addr d).out = s.out ++ [.memWrite n addr d] := by
  unfold hostWrite
  rw [if_neg (by simpa using hd)]
  rfl

theorem okOut_out0_keepStatus (j : Job) (o0 o1 : Bytes) :
    (keepStatus j (okOut o0 o1)).out0 = some o0 ∨ (keepStatus j (okOut o0 o1)).out0 = none := by
  unfold keepStatus
  split
  · exact .inl rfl
  · split
    · exact .inl rfl
    · exact .inr rfl

/-- The record of a job that ended, its first output gone. -/
theorem finished_of_streamed (h : Finished s t j r false) (hj : v.jobs = t.jobs) :
    Finished s (modJob v j.seq fun x => { x with out0 := none }) j r true := by
  obtain ⟨k, hk, hphase, hstatus, -, hrest⟩ := h
  obtain ⟨h1, h2, h3, h4, h5, h6, h7, h8, h9, hmem⟩ := hrest
  refine ⟨{ k with out0 := none }, ?_, hphase, hstatus, rfl, h1, h2, h3, h4, h5, h6, h7, h8, h9,
    fun x hx hne => mem_modJob_of_other (hj ▸ hmem x hx hne) hne⟩
  rw [jobOf_modJob (g := fun x => { x with out0 := none }) (fun _ => rfl) (fun _ hl => hl), jobOf_congr hj, hk]
  rfl

/-- The first output of a job that ended goes out where its function may write, and then leaves the record. -/
theorem streamOut_of_ended (h : StillRuns s u j) (hbx : j.bx = false) (hq : Only quietParts s u) (hk : k.seq = j.seq) (o0 o1 : Bytes) :
    let t := streamOut (ends u k (okOut o0 o1)) j.seq
    Finished s t j (okOut o0 o1) (mayWrite s j.queue) ∧
      (mayWrite s j.queue = true → o0 ≠ [] → (keepStatus j (okOut o0 o1)).out0 = some o0 →
        t.out = s.out ++ [.memWrite (qAt s j.queue).fn j.desc.out0Addr o0]) := by
  obtain ⟨⟨x, hx, hsame⟩, htime, hothers⟩ := h
  have hends : ends u k (okOut o0 o1) = endJob u j.seq (okOut o0 o1) true := by
    unfold ends finishJob
    rw [hk]
  have hquiet : Only quietParts s (endJob u j.seq (okOut o0 o1) true) := Only.then (endJob_only ..) (by decide +kernel) hq
  obtain ⟨e, he⟩ := jobOf_endJob hx (okOut o0 o1) true
  rw [keepStatus_of_same hsame] at he
  rw [hends]
  have hdone := finished_of_endJob ⟨⟨x, hx, hsame⟩, htime, hothers⟩ (okOut o0 o1) true
  generalize endJob u j.seq (okOut o0 o1) true = w at hquiet he hdone
  dsimp only
  have hscan : ∀ n, Only quietParts s (scanMove w x.paddock n) := fun n => Only.then (scanMove_only ..) (by decide +kernel) hquiet
  have hjobs : ∀ n, (scanMove w x.paddock n).jobs = w.jobs := fun n => (scanMove_only w x.paddock n).same .jobs (by decide +kernel)
  unfold streamOut
  simp only [he]
  rcases okOut_out0_keepStatus j o0 o1 with hout | hout
  · simp only [endedJob, hout]
    rw [hsame.queue, mayWrite_of_quiet (hscan _)]
    split
    next hmay =>
      have hbx' : x.bx = false := hsame.bx.trans hbx
      simp only [writeOutput, hbx', Bool.false_eq_true, if_false]
      refine ⟨?_, fun _ hne _ => ?_⟩
      · rw [hmay]
        exact finished_of_streamed hdone (((hostWrite_only ..).same .jobs (by decide +kernel)).trans (hjobs _))
      · have hw := out_hostWrite (scanMove w x.paddock o0.length) (qAt (scanMove w x.paddock o0.length) j.queue).fn x.desc.out0Addr hne
        rw [(hscan _).same .out (by decide +kernel), qAt_of_only (hscan _) (by decide +kernel), hsame.desc] at hw
        simp only [hsame.desc, qAt_of_only (hscan _) (by decide +kernel)]
        exact hw
    next hmay =>
      refine ⟨?_, fun h => absurd h hmay⟩
      rw [Bool.eq_false_of_not_eq_true hmay]
      exact finished_congr hdone (hjobs _)
  · simp only [endedJob, hout]
    refine ⟨?_, fun _ _ h => by simp at h⟩
    obtain ⟨k', hk', hphase, hstatus, hout', hrest⟩ := hdone
    exact ⟨k', hk', hphase, hstatus, by rw [hout', if_neg Bool.false_ne_true, hout]; simp, hrest⟩

/-! ## A completion that waits for the hayloft -/

theorem finished_of_awaitWrite {o : Bool} (h : Finished s t j r o) (hk : k.seq = j.seq) : Finished s (awaitWrite t k) j r o := by
  unfold awaitWrite
  split
  · exact h
  next obj _ =>
    rw [hk]
    refine finished_congr ?_ ((startWrite_only ..).same .jobs (by decide +kernel))
    obtain ⟨x, hx, h1, h2, h3, h4, h5, h6, h7, h8, h9, h10, h11, h12, hmem⟩ := h
    refine ⟨{ x with waitHayloft := true }, ?_, h1, h2, h3, h4, h5, h6, h7, h8, h9, h10, h11, h12, fun y hy hne => mem_modJob_of_other (hmem y hy hne) hne⟩
    rw [jobOf_modJob (g := fun x => { x with waitHayloft := true }) (fun _ => rfl) (fun _ hl => hl), hx]
    rfl

theorem waits_of_awaitWrite {o : Bool} (h : Finished s t j r o) (hk : k.seq = j.seq) (hobj : objectOf k ≠ none) :
    ((jobOf (awaitWrite t k) j.seq).map (·.waitHayloft)) = some true := by
  obtain ⟨obj, hobj⟩ := Option.ne_none_iff_exists'.mp hobj
  obtain ⟨x, hx, -⟩ := h
  unfold awaitWrite
  simp only [hobj, hk]
  rw [jobOf_congr ((startWrite_only ..).same .jobs (by decide +kernel)),
    jobOf_modJob (g := fun x => { x with waitHayloft := true }) (fun _ => rfl) (fun _ hl => hl), hx]
  rfl

theorem keepStatus_of_not_issued (h : j.issued = false) (r : Result) : keepStatus j r = r := by simp [keepStatus, h]

/-- The registers that an end with ST_OK and the wait for a hayloft write leave as they are: tack room and cache among them. -/
theorem awaitWrite_ends_only (hk : jobOf u k.seq = some k) (hissued : k.issued = false) (hr : r.status = 0) :
    Only (.en .shed :: .hl .objs :: Part.finishJob.filter fun p => p != .tk .slots && p != .tk .blobs && p != .tk .hbs && p != .cache) u
      (awaitWrite (ends u k r) k) := by
  refine Only.then (awaitWrite_only ..) (by decide +kernel) ?_
  have hok : (keepStatus k r).status = 0 := by rw [keepStatus_of_not_issued hissued, hr]
  exact (endJob_only_of_ok hk hok true).mono (by decide +kernel)

end

end Sys2Proof.JobRuns
end

section
/-! PROOF. Key generation: what the jobs of the key-pair opcodes and of the stateful ones leave (R205, R206, R237, R254, R261, R275, R282). -/

namespace Sys2Proof.JobRuns

open Sys2Proof Sys2Proof.Machine Sys2Proof.Claims Sys2Proof.Frames

section
variable {s u : State} {j k : Job} {op : Nat} {inp : OpInput} {c : Instr} {f : State → Job → OpIn → State} {r : Result}

theorem sizesOf_keygen (hx : Executes s op j) (hop : isKeygen op = true) :
    sizesOf s j = (pkSize ((algOf j.desc).getD 0) j.desc.paramSet, heldLen ((algOf j.desc).getD 0) j.desc.paramSet + 80) := by
  have hquote : op ≠ 0x0E10 := fun h => absurd (h ▸ hop) (by decide)
  rw [sizesOf_of_executes hx hquote, outSizes, if_pos (by rw [opcode_of_executes hx]; exact hop)]

/-- A key-pair opcode ends its job with the pair it makes. -/
theorem keygen_ends (hx : Executes s op j) (hop : isKeygen op = true)
    (hfit : capacityDetail j.desc (pkSize ((algOf j.desc).getD 0) j.desc.paramSet, heldLen ((algOf j.desc).getD 0) j.desc.paramSet + 80) = 0)
    (hc : exec c s = .next (execute s j.seq op inp sizesOf f))
    (hf : jobAlg s j = (algOf j.desc).getD 0 → f (readState s j) (reading j) (hostIn j inp) = ends (readState s j) (reading j) r) :
    EndsWith s j c r := by
  have hquote : op ≠ 0x0E10 := fun h => absurd (h ▸ hop) (by decide)
  refine endsWith_of_execute hx (by rw [sizesOf_keygen hx hop]; exact hfit) hc ?_
  rw [hf (jobAlg_of_executes hx hquote)]
  exact finished_of_executes hx r

/-! ## Stateful keys -/

theorem sizesOf_stateful (hx : Executes s op j) (hop : op = 0x0210 ∨ op = 0x0220) :
    sizesOf s j = (pkSize ((algOf j.desc).getD 0) j.desc.paramSet, 0) := by
  have hquote : op ≠ 0x0E10 := by rintro rfl; simp at hop
  rw [sizesOf_of_executes hx hquote]
  unfold outSizes
  rw [opcode_of_executes hx]
  rcases hop with rfl | rfl
  · rfl
  · rfl

theorem slotAt_makeStateful (hissued : j.issued = false) (alg : Nat) (seeds : Bytes) :
    let x := slotAt (makeStateful s j alg seeds) (hIdx j.desc.keyRef)
    x.cls = 5 ∧ x.alg = alg ∧ x.material = seeds ∧ x.attrs = statefulAttrs j.paddock := by
  unfold makeStateful
  simp only [hissued, Bool.false_eq_true, if_false]
  have hx : ∀ (g : Slot → Slot) y l, slotAt { putHbs (modSlot s (hIdx j.desc.keyRef) g) (hIdx j.desc.keyRef) y with cache := l } (hIdx j.desc.keyRef) =
      g (slotAt s (hIdx j.desc.keyRef)) := fun g _ _ => slotAt_modSlot_self s _ g
  rw [hx]
  exact ⟨rfl, rfl, rfl, rfl⟩

theorem hbsAt_makeStateful (hissued : j.issued = false) (alg : Nat) (seeds : Bytes) :
    hbsAt (makeStateful s j alg seeds) (hIdx j.desc.keyRef) =
      { present := true, paramSet := j.desc.paramSet, levels := slice j.desc.inline 0 8, batchLog2 := inl8 j.desc 0x48, lowMark := inl32 j.desc 0x4C,
        h := min (2 ^ inl8 j.desc 0x48) (hbsTotal alg j.desc.paramSet (slice j.desc.inline 0 8)), paddock := j.paddock } := by
  unfold makeStateful
  simp only [hissued, Bool.false_eq_true, if_false]
  exact hbsAt_putHbs_self ..

theorem slotAt_congr {v : State} (h : v.tk = u.tk) (n : Nat) : slotAt v n = slotAt u n := by unfold slotAt; rw [h]

theorem hbsAt_congr {v : State} (h : v.tk = u.tk) (n : Nat) : hbsAt v n = hbsAt u n := by unfold hbsAt; rw [h]

/-- A stateful key generation: its public key, its slot and its reservation, and a completion that waits for the hayloft (R237, R258). -/
theorem hbsKeygen_leaves (hx : Executes s op j) (hop : op = 0x0210 ∨ op = 0x0220) (hissued : j.issued = false) (n : Nat) (pub : Bytes → Bytes) :
    let alg := (algOf j.desc).getD 0
    let seeds := captured s j 2 0 n
    let t := hbsKeygen (readState s j) (reading j) n pub
    Finished s t j (okOut (pub seeds) []) false ∧ ((jobOf t j.seq).map (·.waitHayloft)) = some true ∧
      slotAt t (hIdx j.desc.keyRef) = slotAt (makeStateful (readState s j) (reading j) alg seeds) (hIdx j.desc.keyRef) ∧
      hbsAt t (hIdx j.desc.keyRef) = hbsAt (makeStateful (readState s j) (reading j) alg seeds) (hIdx j.desc.keyRef) := by
  dsimp only
  have hquote : op ≠ 0x0E10 := by rintro rfl; simp at hop
  have hjob := jobOf_of_executes hx
  have hissued' : (reading j).issued = false := hissued
  unfold hbsKeygen
  simp only [hissued', Bool.false_eq_true, if_false, jobAlg_reading, jobAlg_of_executes hx hquote, captured_reading]
  have hmade := makeStateful_only (readState s j) (reading j) ((algOf j.desc).getD 0) (captured s j 2 0 n)
  generalize makeStateful (readState s j) (reading j) ((algOf j.desc).getD 0) (captured s j 2 0 n) = u at hmade
  have hruns : StillRuns s u j := (readState_runs hjob).of_only hmade (by decide +kernel) (by decide +kernel)
  have hrecord : jobOf u (reading j).seq = some (reading j) := (jobOf_congr (hmade.same .jobs (by decide +kernel)) _).trans (jobOf_readState hjob)
  have hdone := finished_of_ends (k := reading j) hruns rfl (okOut (pub (captured s j 2 0 n)) [])
  have hobj : objectOf (reading j) ≠ none := by
    unfold objectOf
    rw [reading_desc, opcode_of_executes hx]
    rcases hop with rfl | rfl
    · simp
    · simp
  have htk := tk_of_only (awaitWrite_ends_only (r := okOut (pub (captured s j 2 0 n)) []) hrecord hissued' rfl) (by decide +kernel)
  exact ⟨finished_of_awaitWrite hdone rfl, waits_of_awaitWrite hdone rfl hobj,
    slotAt_congr htk _, hbsAt_congr htk _⟩

/-- What O47 says of a stateful key generation. -/
theorem stateful_leaves (hx : Executes s op j) (hop : op = 0x0210 ∨ op = 0x0220) (hissued : j.issued = false) (n : Nat) (pub : Bytes → Bytes) :
    let alg := (algOf j.desc).getD 0
    let seeds := captured s j 2 0 n
    let t := hbsKeygen (readState s j) (reading j) n pub
    let i := hIdx j.desc.keyRef
    Finished s t j (okOut (pub seeds) []) false ∧ ((jobOf t j.seq).map (·.waitHayloft)) = some true ∧
      (slotAt t i).cls = 5 ∧ (slotAt t i).alg = alg ∧ (slotAt t i).material = seeds ∧ (slotAt t i).attrs = statefulAttrs j.paddock ∧
      hbsAt t i =
        { present := true, paramSet := j.desc.paramSet, levels := slice j.desc.inline 0 8, batchLog2 := inl8 j.desc 0x48, lowMark := inl32 j.desc 0x4C,
          h := min (2 ^ inl8 j.desc 0x48) (hbsTotal alg j.desc.paramSet (slice j.desc.inline 0 8)), paddock := j.paddock } := by
  obtain ⟨hdone, hwaits, hslot, hhbs⟩ := hbsKeygen_leaves hx hop hissued n pub
  have hissued' : (reading j).issued = false := hissued
  obtain ⟨hcls, halg, hmaterial, hattrs⟩ := slotAt_makeStateful (s := readState s j) hissued' ((algOf j.desc).getD 0) (captured s j 2 0 n)
  have hreserved := hbsAt_makeStateful (s := readState s j) hissued' ((algOf j.desc).getD 0) (captured s j 2 0 n)
  dsimp only
  rw [hslot, hhbs]
  exact ⟨hdone, hwaits, hcls, halg, hmaterial, hattrs, hreserved⟩

end

/-- Settles O47: a key generation runs its operation in the state that the command was given, and ends the job with the key it makes. -/
theorem keyGenerationJobs : Obligations.KeyGenerationJobs := by
  unfold Obligations.KeyGenerationJobs
  intro s j inp
  dsimp only
  refine ⟨?pairs, ?mceliece, ?stateful⟩
  case pairs =>
    simp only [List.forall_mem_cons, List.not_mem_nil, false_imp_iff, implies_true, and_true]
    refine ⟨?mlkem, ?mldsa, ?slhdsa, ?hqc, ?rsa, ?ecdsa, ?ecdh, ?eddsa, ?xdh⟩
    case mlkem | mldsa | slhdsa | ecdsa | ecdh | eddsa | xdh =>
      exact fun hx hfit => keygen_ends hx (by decide) hfit rfl fun halg => by
        simp only [nistKeygen, seedKeygen, jobAlg_reading, captured_reading, keyPair_reading, reading_desc, halg]
    case hqc =>
      exact fun hx hfit => keygen_ends hx (by decide) hfit rfl fun halg => by
        simp only [jobAlg_reading, captured_reading, keyPair_reading, made_reading, sizesOf_reading, sizesOf_keygen hx (by decide), halg]
    case rsa =>
      exact fun hx hfit => keygen_ends hx (by decide) hfit rfl fun halg => by
        simp only [jobAlg_reading, captured_reading, keyPair_reading, reading_desc, halg]
        rfl
  case mceliece =>
    intro pub held n hx hfit hgen
    refine ⟨_, rfl, ?_⟩
    rw [execute_host hx (by rw [sizesOf_keygen hx (by decide)]; exact hfit)]
    simp only [reading_desc, captured_reading, hgen, jobAlg_reading, keyPair_reading, jobAlg_of_executes hx (by decide), endsAfter]
    refine streamOut_of_ended ?_ hx.2.1 ?_ rfl _ _
    · exact (readState_runs (jobOf_of_executes hx)).modJob (fun _ => ⟨rfl, rfl, rfl, rfl, rfl, rfl, rfl⟩) fun _ hl => hl
    · exact Only.then (modJob_only ..) (by decide +kernel) ((modJob_only s j.seq reading).mono (by decide +kernel))
  case stateful =>
    simp only [List.forall_mem_cons, List.not_mem_nil, false_imp_iff, implies_true, and_true]
    refine ⟨?lms, ?xmss⟩
    case lms =>
      intro hx hfit hissued
      refine ⟨_, rfl, ?_⟩
      rw [execute_host hx (by rw [sizesOf_stateful hx (.inl rfl)]; exact hfit)]
      exact stateful_leaves hx (.inl rfl) hissued _ _
    case xmss =>
      intro hx hfit hissued
      refine ⟨_, rfl, ?_⟩
      rw [execute_host hx (by rw [sizesOf_stateful hx (.inr rfl)]; exact hfit)]
      exact stateful_leaves hx (.inr rfl) hissued _ _

end Sys2Proof.JobRuns
end

section
/-! PROOF. Encapsulation, agreement, encryption, signing and verification (R207, R208, R213, R216, R263, R279 to R283). -/

namespace Sys2Proof.JobRuns

open Sys2Proof Sys2Proof.Machine Sys2Proof.Claims Sys2Proof.Frames

section
variable {s u : State} {j k : Job} {op : Nat} {inp : OpInput} {c : Instr} {f : State → Job → OpIn → State} {r : Result}

/-- An opcode other than the quote's ends its job with what its operation says, where its outputs fit. -/
theorem op_ends (hx : Executes s op j) (hop : op ≠ 0x0E10) (hfit : capacityDetail j.desc (outSizes j.desc ((algOf j.desc).getD 0) [] 0) = 0)
    (hc : exec c s = .next (execute s j.seq op inp sizesOf f))
    (hf : jobAlg s j = (algOf j.desc).getD 0 → f (readState s j) (reading j) (hostIn j inp) = ends (readState s j) (reading j) r) :
    EndsWith s j c r := by
  refine endsWith_of_execute hx (by rw [sizesOf_of_executes hx hop]; exact hfit) hc ?_
  rw [hf (jobAlg_of_executes hx hop)]
  exact finished_of_executes hx r

/-! ## A public key, cached or inline -/

theorem publicKey_sound {alg : Nat} {inline : Bytes} (h : j.desc.keyRef ≠ 0 ∨ keyCheck alg j.desc.paramSet inline = none) (g : Bytes → State) :
    publicKey u j alg inline g = g (if j.desc.keyRef ≠ 0 then cachedKey u j else inline) := by
  unfold publicKey
  by_cases hkey : j.desc.keyRef ≠ 0
  · rw [if_pos hkey, if_pos hkey]
  · rw [if_neg hkey, if_neg hkey, h.resolve_left hkey]

theorem publicKey_refused {alg reason x : Nat} {inline : Bytes} (hkey : j.desc.keyRef = 0)
    (h : keyCheck alg j.desc.paramSet inline = some (reason, x)) (g : Bytes → State) :
    publicKey u j alg inline g = ends u j (refuseInput reason x) := by
  unfold publicKey
  rw [if_neg (not_not.mpr hkey), h]

/-- An operation with a public key: it ends with its result where the key is cached or passes its check, and else with the reason. -/
theorem keyed_ends (hx : Executes s op j) (hop : op ≠ 0x0E10) (hfit : capacityDetail j.desc (outSizes j.desc ((algOf j.desc).getD 0) [] 0) = 0)
    {alg : Nat} {inline : Bytes} {g : Bytes → State} {result : Bytes → Result}
    (hc : exec c s = .next (execute s j.seq op inp sizesOf f))
    (hf : jobAlg s j = (algOf j.desc).getD 0 → f (readState s j) (reading j) (hostIn j inp) = publicKey (readState s j) (reading j) alg inline g)
    (hg : ∀ key, jobAlg s j = (algOf j.desc).getD 0 → g key = ends (readState s j) (reading j) (result key)) :
    (j.desc.keyRef ≠ 0 ∨ keyCheck alg j.desc.paramSet inline = none → EndsWith s j c (result (if j.desc.keyRef ≠ 0 then cachedKey s j else inline))) ∧
    (∀ reason x, j.desc.keyRef = 0 → keyCheck alg j.desc.paramSet inline = some (reason, x) → EndsWith s j c (refuseInput reason x)) := by
  refine ⟨fun hsound => ?_, fun reason x hkey hbad => ?_⟩
  · refine op_ends hx hop hfit hc fun halg => ?_
    rw [hf halg, publicKey_sound (j := reading j) hsound, hg _ halg]
    rfl
  · refine op_ends hx hop hfit hc fun halg => ?_
    rw [hf halg, publicKey_refused (j := reading j) hkey hbad]

/-! ## Outputs in one piece, secret keys, two phases -/

theorem scanMove_eq (s : State) (p n : Nat) : scanMove s p n = s ∨ ∃ fc sc, scanMove s p n = { s with freeCtr := fc, scans := sc } := by
  unfold scanMove
  split
  · exact .inl rfl
  · exact .inr ⟨_, _, rfl⟩

theorem finished_of_endsAfter (hx : Executes s op j) (n : Nat) (r : Result) : Finished s (endsAfter (readState s j) (reading j) n r) j r false :=
  finished_of_ends ((readState_runs (jobOf_of_executes hx)).modJob (g := fun x => { x with attempts := n }) (fun _ => ⟨rfl, rfl, rfl, rfl, rfl, rfl, rfl⟩) fun _ hl => hl) rfl r

/-- The secret-key operation of a job, with the blinding captured for it (R282). -/
def rsaDoes (s : State) (j : Job) (c : Nat) : Option Nat :=
  rsaPrivate (rsaKeyOf j.desc.paramSet (jobKey s j)) (leNat (captured s j 4 0 (8 * j.desc.paramSet))) (u64 (captured s j 4 1 16) 0)
    (u64 (captured s j 4 1 16) 8) c

theorem withPrivate_some {c x : Nat} (h : rsaDoes s j c = some x) (g : Bytes → State) :
    withPrivate (readState s j) (reading j) c g = g (beBytes (8 * j.desc.paramSet) x) := by
  unfold rsaDoes at h
  unfold withPrivate
  simp only [reading_desc, captured_reading, jobKey_reading, h]

theorem withPrivate_none {c : Nat} (h : rsaDoes s j c = none) (g : Bytes → State) :
    withPrivate (readState s j) (reading j) c g = settle (raiseFault (readState s j) (j.stall.getD 0) 0x0C false 0 0) := by
  unfold rsaDoes at h
  unfold withPrivate
  simp only [reading_desc, captured_reading, jobKey_reading, reading_stall, h]

/-- An absorbed job waits for its second stall (R286). -/
theorem nextPhase_leaves (hk : jobOf u j.seq = some k) :
    ∃ x, jobOf (nextPhase u j.seq) j.seq = some x ∧ x.phase = .staged ∧ x.absorbed = true ∧ x.stall = none := by
  unfold nextPhase
  simp only [hk]
  refine ⟨{ k with phase := .staged, stall := none, absorbed := true, drawn := k.cells, committed := false }, ?_, rfl, rfl, rfl⟩
  have hmod := jobOf_modJob (s := u) (seq := j.seq)
    (g := fun x => { x with phase := .staged, stall := none, absorbed := true, drawn := x.cells, committed := false }) (fun _ => rfl) fun _ _ => rfl
  rw [hk] at hmod
  split
  · exact (jobOf_congr ((freeStall_only ..).same .jobs (by decide +kernel)) _).trans hmod
  · exact hmod

/-- The first execution of a pure EdDSA job, or of an identity quote, only absorbs. -/
theorem absorbs (hrun : runningJob s j.seq op = some j) (hbx : j.bx = false) (htwo : twoPhase j.desc (jobAlg s j) = true) (habs : j.absorbed = false)
    {need : State → Job → Nat × Nat} (hfit : capacityDetail j.desc (need s j) = 0) (hc : exec c s = .next (execute s j.seq op inp need f)) :
    ∃ t k, exec c s = .next t ∧ jobOf t j.seq = some k ∧ k.phase = .staged ∧ k.absorbed = true ∧ k.stall = none := by
  obtain ⟨x, hx⟩ := nextPhase_leaves (jobOf_readState (of_runningJob hrun).1)
  exact ⟨_, x, hc.trans (by rw [execute_absorbs hrun hbx htwo habs hfit]), hx⟩

/-! ## Classic McEliece encapsulation, whose key streams in (R261) -/

/-- The state in which a key has streamed in, read as the one before. -/
theorem streamed_reading (p n : Nat) :
    let u := scanMove (readState s j) p n
    jobAlg u (reading j) = jobAlg s j ∧ cachedKey u (reading j) = cachedKey s j ∧
      ∀ label i len, captured u (reading j) label i len = captured s j label i len := by
  rcases scanMove_eq (readState s j) p n with h | ⟨fc, sc, h⟩
  · rw [h]
    exact ⟨rfl, rfl, fun _ _ _ => rfl⟩
  · rw [h]
    exact ⟨rfl, rfl, fun _ _ _ => rfl⟩

theorem finished_of_streamedIn (hx : Executes s op j) (p n : Nat) (r : Result) :
    Finished s (ends (scanMove (readState s j) p n) (reading j) r) j r false :=
  finished_of_ends (scanMove_runs (readState_runs (jobOf_of_executes hx)) p n) rfl r

/-- OP_MCE_ENCAPS ends with the ciphertext and the secret of its captured error vector, or with the reason its key is refused. -/
theorem mceEncaps_ends (hx : Executes s 0x0301 j) (hfit : capacityDetail j.desc (outSizes j.desc ((algOf j.desc).getD 0) [] 0) = 0) :
    let key := if j.desc.keyRef ≠ 0 then cachedKey s j else (hostIn j inp).in0
    (∀ e, j.desc.keyRef ≠ 0 ∨ keyCheck ((algOf j.desc).getD 0) j.desc.paramSet (hostIn j inp).in0 = none →
      mceError j.desc.paramSet (captured s j 3 0 32) 65536 0 = some e → EndsWith s j (.opMceEncaps j.seq inp)
        (okOut (mceEncode j.desc.paramSet key e) (mceHash 1#8 (mceVector j.desc.paramSet e) (mceEncode j.desc.paramSet key e)))) ∧
    (∀ reason x, j.desc.keyRef = 0 → keyCheck ((algOf j.desc).getD 0) j.desc.paramSet (hostIn j inp).in0 = some (reason, x) →
      EndsWith s j (.opMceEncaps j.seq inp) (refuseInput reason x)) := by
  have hfit' : capacityDetail j.desc (sizesOf s j) = 0 := by rw [sizesOf_of_executes hx (by decide)]; exact hfit
  have halg := jobAlg_of_executes hx (by decide)
  obtain ⟨hstreamAlg, hstreamKey, hstreamCap⟩ := streamed_reading (s := s) (j := j) j.paddock (pkSize ((algOf j.desc).getD 0) j.desc.paramSet)
  refine ⟨fun e hsound herr => endsWith_of_execute hx hfit' rfl ?_, fun reason x hkey hbad => endsWith_of_execute hx hfit' rfl ?_⟩
  · simp only [reading_paddock, reading_desc, jobAlg_reading, hstreamAlg, hstreamCap, halg]
    rw [publicKey_sound (j := reading j) hsound, hstreamKey]
    simp only [herr, reading_desc]
    exact finished_of_streamedIn hx _ _ _
  · simp only [reading_paddock, reading_desc, jobAlg_reading, hstreamAlg, hstreamCap, halg]
    rw [publicKey_refused (j := reading j) hkey hbad]
    exact finished_of_streamedIn hx _ _ _

/-! ## RSA with the secret key (R277 to R283) -/

/-- OP_RSA_SIGN: a result that fails its self-check writes nothing and faults the stall (R283). -/
theorem rsaSign_ends (hx : Executes s 0x0401 j) (hfit : capacityDetail j.desc (outSizes j.desc ((algOf j.desc).getD 0) [] 0) = 0) :
    let salt := if inl8 j.desc 0x40 = 0 ∧ inl8 j.desc 0x42 ≠ 0 then captured s j 1 0 (inl8 j.desc 0x42) else []
    let c := beNat (rsaEncode j.desc.paramSet (inl8 j.desc 0x40) (inl8 j.desc 0x41) (hostIn j inp).in0 salt)
    (∀ x, rsaDoes s j c = some x → EndsWith s j (.opRsaSign j.seq inp) (okOut (beBytes (8 * j.desc.paramSet) x) [])) ∧
    (rsaDoes s j c = none → exec (.opRsaSign j.seq inp) s = .next (settle (raiseFault (takeInputs s j) (j.stall.getD 0) 0x0C false 0 0))) := by
  have hfit' : capacityDetail j.desc (sizesOf s j) = 0 := by rw [sizesOf_of_executes hx (by decide)]; exact hfit
  refine ⟨fun x hdoes => op_ends hx (by decide) hfit rfl fun _ => withPrivate_some hdoes _, fun hdoes => ?_⟩
  refine congrArg Host.Outcome.next ((execute_host hx hfit').trans ?_)
  rw [takeInputs_host hx.2.1]
  exact withPrivate_none hdoes _

theorem rsaDecrypt_ends (hx : Executes s 0x0404 j) (hfit : capacityDetail j.desc (outSizes j.desc ((algOf j.desc).getD 0) [] 0) = 0) :
    let in0 := (hostIn j inp).in0
    let check := oaepCheck (rsaModulus j.desc.paramSet (jobKey s j)) in0
    let decoded := fun em => oaepDecode (8 * j.desc.paramSet) (inl8 j.desc 0x41) (beBytes (8 * j.desc.paramSet) em)
    (∀ em out, check = none → rsaDoes s j (beNat in0) = some em → decoded em = some out → EndsWith s j (.opRsaDecrypt j.seq inp) (okOut out [])) ∧
    (∀ em, check = none → rsaDoes s j (beNat in0) = some em → decoded em = none → EndsWith s j (.opRsaDecrypt j.seq inp) (refuseInput 0x0406 0)) ∧
    (check = none → rsaDoes s j (beNat in0) = none →
      exec (.opRsaDecrypt j.seq inp) s = .next (settle (raiseFault (takeInputs s j) (j.stall.getD 0) 0x0C false 0 0))) ∧
    (∀ reason x, check = some (reason, x) → EndsWith s j (.opRsaDecrypt j.seq inp) (refuseInput reason x)) := by
  have hfit' : capacityDetail j.desc (sizesOf s j) = 0 := by rw [sizesOf_of_executes hx (by decide)]; exact hfit
  refine ⟨fun em out hok hdoes hdec => op_ends hx (by decide) hfit rfl fun _ => ?_, fun em hok hdoes hdec => op_ends hx (by decide) hfit rfl fun _ => ?_,
    fun hok hdoes => ?_, fun reason x hbad => op_ends hx (by decide) hfit rfl fun _ => ?_⟩
  · simp only [reading_desc, jobKey_reading, hok, withPrivate_some hdoes, hdec]
  · simp only [reading_desc, jobKey_reading, hok, withPrivate_some hdoes, hdec]
  · refine congrArg Host.Outcome.next ((execute_host hx hfit').trans ?_)
    rw [takeInputs_host hx.2.1]
    simp only [reading_desc, jobKey_reading, hok]
    exact withPrivate_none hdoes _
  · simp only [reading_desc, jobKey_reading, hbad]

/-! ## Stateful signatures -/

theorem withTree_eq (s : State) (pad n : Nat) : withTree s pad n = none ∨ withTree s pad n = some s ∨ ∃ k x, withTree s pad n = some (putCache s k x) := by
  unfold withTree
  dsimp only
  split
  · exact .inr (.inl rfl)
  split
  · exact .inl rfl
  · exact .inr (.inr ⟨_, _, rfl⟩)

theorem withTree_reading_none (pad n : Nat) : withTree (readState s j) pad n = none ↔ withTree s pad n = none := by
  unfold withTree
  simp only [slotAt_reading, hbsAt_reading]
  show (if treeResident s n then _ else if partBytes s pad (padRec s pad).cacheUnits < cacheUsed s pad + _ then _ else _) = none ↔ _
  split
  · simp
  split
  · simp
  · simp

/-- A stateful signature streams out, its leaf that of the record; without room for its tree the job ends with ST_KEY_ABSENT's detail (R239, R240). -/
theorem hbsSign_leaves (hx : Executes s op j) (sign : Bytes → Bytes → Nat → Bytes) :
    let n := hIdx j.desc.keyRef
    let t := hbsSign (readState s j) (reading j) sign
    let sig := sign (jobKey s j) (hbsAt s n).levels (j.extra.getD 0)
    ((withTree s j.paddock n).isSome = true → Finished s t j (okOut sig []) (mayWrite s j.queue) ∧
      (mayWrite s j.queue = true → sig ≠ [] → (keepStatus j (okOut sig [])).out0 = some sig →
        t.out = s.out ++ [.memWrite (qAt s j.queue).fn j.desc.out0Addr sig])) ∧
    (withTree s j.paddock n = none → Finished s t j (failWith 0x0403) false) := by
  have hread : Only quietParts s (readState s j) := (modJob_only s j.seq reading).mono (by decide +kernel)
  have hruns := readState_runs (jobOf_of_executes hx)
  refine ⟨fun hsome => ?_, fun hnone => ?_⟩
  · obtain ⟨u, htree⟩ : ∃ u, withTree (readState s j) j.paddock (hIdx j.desc.keyRef) = some u := by
      rw [← Option.ne_none_iff_exists', ne_eq, withTree_reading_none]
      exact Option.isSome_iff_ne_none.mp hsome
    have honly := (withTree_only (readState s j) j.paddock (hIdx j.desc.keyRef)).get htree
    have hkey : jobKey u (reading j) = jobKey s j ∧ hbsAt u (hIdx j.desc.keyRef) = hbsAt s (hIdx j.desc.keyRef) := by
      rcases withTree_eq (readState s j) j.paddock (hIdx j.desc.keyRef) with h | h | ⟨k, x, h⟩
      · exact absurd (h.symm.trans htree) (by simp)
      · rw [← Option.some.inj (h.symm.trans htree)]
        exact ⟨rfl, rfl⟩
      · rw [← Option.some.inj (h.symm.trans htree)]
        exact ⟨rfl, rfl⟩
    unfold hbsSign
    simp only [reading_paddock, reading_desc, htree, hkey, reading_extra, reading_seq]
    refine streamOut_of_ended ?_ hx.2.1 ?_ rfl _ _
    · exact (hruns.of_only honly (by decide +kernel) (by decide +kernel)).of_fields rfl rfl
    · exact Only.then (modHbs_only ..) (by decide +kernel) (Only.then honly (by decide +kernel) hread)
  · unfold hbsSign
    simp only [reading_paddock, reading_desc, (withTree_reading_none _ _).mpr hnone]
    exact finished_of_executes hx _

end

/-- Settles O48: each operation runs in the state that the command was given, on the key it names or carries, and ends the job with its result. -/
theorem publicKeyJobs : Obligations.PublicKeyJobs := by
  unfold Obligations.PublicKeyJobs
  intro s j inp
  dsimp only
  refine ⟨?keyed, ?mceEncaps, ?whole, ?mldsaSign, ?agree, ?rsaSign, ?rsaDecrypt, ?slhdsaSign, ?stateful, ?absorb⟩
  case keyed =>
    simp only [List.forall_mem_cons, List.not_mem_nil, false_imp_iff, implies_true, and_true]
    refine ⟨?kem, ?hqc, ?rsaVerify, ?rsaEncrypt, ?ecdsa, ?eddsa⟩
    case kem =>
      exact fun hx hfit => keyed_ends hx (by decide) hfit rfl (fun halg => by rw [jobAlg_reading, halg]; rfl)
        (result := fun key => okOut (mlkemEncaps j.desc.paramSet key (captured s j 3 0 32)).2 (mlkemEncaps j.desc.paramSet key (captured s j 3 0 32)).1)
        fun _ _ => rfl
    case hqc =>
      exact fun hx hfit => keyed_ends hx (by decide) hfit rfl (fun halg => by rw [jobAlg_reading, halg])
        (result := fun key => okOut (made j [key, captured s j 3 0 (8 * (j.desc.paramSet + 1) + 16)] 0 (outSizes j.desc ((algOf j.desc).getD 0) [] 0).1)
          (made j [key, captured s j 3 0 (8 * (j.desc.paramSet + 1) + 16)] 1 32))
        fun _ halg => by rw [sizesOf_reading, sizesOf_of_executes hx (by decide)]; rfl
    case rsaVerify =>
      exact fun hx hfit => keyed_ends hx (by decide) hfit rfl (fun halg => by rw [jobAlg_reading, halg]; rfl)
        (result := fun key => verdict (rsaVerify j.desc.paramSet key (inl8 j.desc 0x40) (inl8 j.desc 0x41) (inl8 j.desc 0x42) (hostIn j inp).in0
          ((hostIn j inp).in1.take (sigSize ((algOf j.desc).getD 0) j.desc.paramSet))))
        fun _ _ => rfl
    case rsaEncrypt =>
      exact fun hx hfit => keyed_ends hx (by decide) hfit rfl (fun halg => rfl)
        (result := fun key => okOut (rsaEncrypt j.desc.paramSet key (inl8 j.desc 0x41) (hostIn j inp).in0 (captured s j 3 0 (phLen (inl8 j.desc 0x41)))) [])
        fun _ _ => rfl
    case ecdsa =>
      exact fun hx hfit => keyed_ends hx (by decide) hfit rfl (fun halg => by rw [jobAlg_reading, halg]; rfl)
        (result := fun key => verdict (ecdsaVerify j.desc.paramSet key (hostIn j inp).in0
          ((hostIn j inp).in1.take (sigSize ((algOf j.desc).getD 0) j.desc.paramSet))))
        fun _ _ => rfl
    case eddsa =>
      exact fun hx hfit => keyed_ends hx (by decide) hfit rfl (fun halg => by rw [jobAlg_reading, halg]; rfl)
        (result := fun key => verdict (edVerify j.desc.paramSet (inl8 j.desc 0x40) key (hostIn j inp).ext (hostIn j inp).in0
          ((hostIn j inp).in1.take (sigSize ((algOf j.desc).getD 0) j.desc.paramSet))))
        fun _ _ => rfl
  case mceEncaps => exact mceEncaps_ends
  case whole =>
    simp only [List.forall_mem_cons, List.not_mem_nil, false_imp_iff, implies_true, and_true]
    refine ⟨?mlkem, ?mce, ?hqc, ?mldsa, ?slhdsa, ?lms, ?xmss, ?query, ?ecdsa, ?eddsa⟩
    case mlkem | mce | hqc | lms | query | ecdsa | eddsa => exact fun hx hfit => op_ends hx (by decide) hfit rfl fun _ => rfl
    case mldsa => exact fun hx hfit => op_ends hx (by decide) hfit rfl fun halg => by rw [jobAlg_reading, halg]; rfl
    case slhdsa => exact fun hx hfit => op_ends hx (by decide) hfit rfl fun halg => by unfold slhdsaVerify; rw [jobAlg_reading, halg]; rfl
    case xmss => exact fun hx hfit => op_ends hx (by decide) hfit rfl fun halg => by rw [jobAlg_reading, halg]; rfl
  case mldsaSign =>
    intro out n hx hfit hsign
    refine endsWith_of_execute hx (by rw [sizesOf_of_executes hx (by decide)]; exact hfit) rfl ?_
    have hdoes : mldsaSign (reading j).desc.paramSet (jobKey (readState s j) (reading j))
        (formatted (reading j).desc (hostIn j inp).ext (hostIn j inp).in0) (mldsaRnd (readState s j) (reading j)) = some (out, n) := hsign
    simp only [hdoes]
    exact finished_of_endsAfter hx n _
  case agree =>
    simp only [List.forall_mem_cons, List.not_mem_nil, false_imp_iff, implies_true, and_true]
    refine ⟨?ecdh, ?xdh, ?ecdhEphemeral, ?xdhEphemeral⟩
    case ecdh | xdh =>
      refine fun hx hfit => ⟨fun hgood => op_ends hx (by decide) hfit rfl fun halg => ?_, fun reason x hbad => op_ends hx (by decide) hfit rfl fun halg => ?_⟩
      · unfold derive
        simp only [jobAlg_reading, halg, reading_desc, hgood, jobKey_reading]
      · unfold derive
        simp only [jobAlg_reading, halg, reading_desc, hbad]
    case ecdhEphemeral | xdhEphemeral =>
      refine fun hx hfit => ⟨fun hgood => op_ends hx (by decide) hfit rfl fun halg => ?_, fun reason x hbad => op_ends hx (by decide) hfit rfl fun halg => ?_⟩
      · simp only [jobAlg_reading, halg, reading_desc, hgood, captured_reading]
      · simp only [jobAlg_reading, halg, reading_desc, hbad]
  case rsaSign => exact rsaSign_ends
  case rsaDecrypt => exact rsaDecrypt_ends
  case slhdsaSign =>
    intro hx hfit
    refine ⟨_, rfl, ?_⟩
    rw [execute_host hx (by rw [sizesOf_of_executes hx (by decide)]; exact hfit)]
    exact streamOut_of_ended (readState_runs (jobOf_of_executes hx)) hx.2.1 ((modJob_only s j.seq reading).mono (by decide +kernel)) rfl _ _
  case stateful =>
    simp only [List.forall_mem_cons, List.not_mem_nil, false_imp_iff, implies_true, and_true]
    refine ⟨?lms, ?xmss⟩
    case lms | xmss =>
      intro hx hfit
      obtain ⟨hroom, hnone⟩ := hbsSign_leaves hx _
      exact ⟨fun h => ⟨_, congrArg Host.Outcome.next (execute_host hx hfit), hroom h⟩,
        fun h => ⟨_, congrArg Host.Outcome.next (execute_host hx hfit), hnone h⟩⟩
  case absorb =>
    simp only [List.forall_mem_cons, List.not_mem_nil, false_imp_iff, implies_true, and_true]
    refine ⟨?sign, ?verify⟩
    case sign | verify =>
      intro hrun hbx hpure habs hfit
      obtain ⟨-, hop, -⟩ := of_runningJob hrun
      have halg : jobAlg s j = (algOf j.desc).getD 0 := if_neg (by rw [hop]; decide)
      refine absorbs hrun hbx ?_ habs ?_ rfl
      · simp [twoPhase, firstKind, lastKind, hop, hpure]
      · unfold sizesOf
        rw [halg]
        exact hfit

end Sys2Proof.JobRuns
end

section
/-! PROOF. Digests, MACs, check values, quotes, OP_NOP, and packets of a feed FIFO (R113, R150, R294 to R310, R368). -/

namespace Sys2Proof.JobRuns

open Sys2Proof Sys2Proof.Machine Sys2Proof.Claims Sys2Proof.Frames

section
variable {s u : State} {j k : Job} {op : Nat} {inp : OpInput} {c : Instr} {f : State → Job → OpIn → State} {r : Result}

/-- A job whose input streams in ends with its result (R303). -/
theorem streamIn_ends (hx : Executes s op j) (hop : op ≠ 0x0E10) (hfit : capacityDetail j.desc (outSizes j.desc ((algOf j.desc).getD 0) [] 0) = 0)
    (hc : exec c s = .next (execute s j.seq op inp sizesOf f))
    (hf : f (readState s j) (reading j) (hostIn j inp) = ends (streamIn (readState s j) (reading j)) (reading j) r) : EndsWith s j c r := by
  refine endsWith_of_execute hx (by rw [sizesOf_of_executes hx hop]; exact hfit) hc ?_
  rw [hf]
  exact finished_of_streamedIn hx _ _ r

theorem crc_ends (hx : Executes s 0x0520 j) (hfit : capacityDetail j.desc (outSizes j.desc ((algOf j.desc).getD 0) [] 0) = 0) {q : CrcParam}
    (hq : crcParam j.desc.paramSet = some q) :
    let v := crcOf j q (hostIn j inp).in0
    EndsWith s j (.opCrc j.seq inp) (if inl8 j.desc 0x40 = 0 then okOut (leBytes q.width v) [] else if v = inl64 j.desc 0x48 then {} else failWith 0x0900) := by
  refine streamIn_ends hx (by decide) hfit rfl ?_
  simp only [reading_desc, hq]
  rfl

/-! ## A packet of a feed FIFO (R368, R370) -/

/-- What a read of the FIFO leaves: the copy and its mismatch in the record, the rest in the FIFO. -/
def fedState (s : State) (j : Job) (f : Nat) (e : Eaten) : State :=
  let sec := inputSecret s j j.desc.in1Addr j.desc.in1Len || inputSecret s j j.desc.extAddr j.desc.extLen
  let read := modJob s j.seq fun x => { x with retrying := false, readFailed := false, secretIn := x.secretIn || sec }
  modJob (putFeed read f { feedAt s f with entries := e.left, stopped := e.bad != 0, atStart := e.atStart }) j.seq fun y =>
    { y with feedCopy := some e.data, feedBad := e.bad, secretIn := y.secretIn || e.secret }

theorem takeInputs_feed {fi : Nat} {e : FeedEntry} {l : List FeedEntry} (hfeed : feedOf j = some fi) (hentries : (feedAt s fi).entries = e :: l)
    (hstopped : (feedAt s fi).stopped = false) (hcopy : j.feedCopy = none) (hbad : j.feedBad = 0) :
    takeInputs s j = fedState s j fi (eatFeed j.desc.in0Len (e :: l)) := by
  have hread : ∀ g, feedAt (modJob s j.seq g) fi = feedAt s fi := fun _ => rfl
  unfold takeInputs takeFeed fedState
  simp only [hfeed, feedDone, hcopy, hbad, hread, hstopped, hentries, Option.isNone_some, Bool.false_and, Bool.false_or, List.isEmpty_cons,
    bne_self_eq_false, Bool.false_eq_true, if_false, Option.getD_none, List.length_nil, Nat.sub_zero, List.nil_append]

/-- The FIFO has been read, and the record not yet written. -/
theorem fed_runs (hjob : jobOf s j.seq = some j) (fi : Nat) (x : Feed) (sec : Bool) :
    StillRuns s (putFeed (modJob s j.seq fun y => { y with retrying := false, readFailed := false, secretIn := y.secretIn || sec }) fi x) j :=
  ((StillRuns.refl hjob).modJob (g := fun y => { y with retrying := false, readFailed := false, secretIn := y.secretIn || sec })
    (fun _ => ⟨rfl, rfl, rfl, rfl, rfl, rfl, rfl⟩) fun _ hl => hl).of_fields rfl rfl

theorem jobOf_fedState (hjob : jobOf s j.seq = some j) (fi : Nat) (e : Eaten) :
    ∃ k, jobOf (fedState s j fi e) j.seq = some k ∧ SameRecord j k ∧ k.feedCopy = some e.data ∧ k.feedBad = e.bad := by
  unfold fedState
  obtain ⟨k, hk, hsame⟩ := (fed_runs hjob fi { feedAt s fi with entries := e.left, stopped := e.bad != 0, atStart := e.atStart }
    (inputSecret s j j.desc.in1Addr j.desc.in1Len || inputSecret s j j.desc.extAddr j.desc.extLen)).record
  refine ⟨{ k with feedCopy := some e.data, feedBad := e.bad, secretIn := k.secretIn || e.secret }, ?_,
    ⟨hsame.seq, hsame.queue, hsame.paddock, hsame.bx, hsame.desc, hsame.issued, hsame.issuedStatus⟩, rfl, rfl⟩
  dsimp only
  rw [jobOf_modJob (g := fun y => { y with feedCopy := some e.data, feedBad := e.bad, secretIn := y.secretIn || e.secret }) (fun _ => rfl)
    (fun _ hl => hl), hk]
  rfl

theorem fedState_runs (hjob : jobOf s j.seq = some j) (fi : Nat) (e : Eaten) : StillRuns s (fedState s j fi e) j :=
  (fed_runs hjob fi _ _).modJob (g := fun y => { y with feedCopy := some e.data, feedBad := e.bad, secretIn := y.secretIn || e.secret })
    (fun _ => ⟨rfl, rfl, rfl, rfl, rfl, rfl, rfl⟩) fun _ hl => hl

theorem feedAt_fedState (fi : Nat) (e : Eaten) :
    feedAt (fedState s j fi e) fi = { feedAt s fi with entries := e.left, stopped := e.bad != 0, atStart := e.atStart } := by
  unfold fedState
  exact feedAt_putFeed_self ..

theorem feedOf_of_same (h : SameRecord j k) : feedOf k = feedOf j := by
  unfold feedOf
  rw [h.bx, h.desc, h.paddock]

theorem feedAt_ends (v : State) (r : Result) (fi : Nat) : feedAt (ends v k r) fi = feedAt v fi := by
  unfold feedAt
  rw [(ends_only v k r).same .feeds (by decide +kernel)]

/-- A digest of a packet that does not match its length ends with the detail of R368. -/
theorem feed_refused (hrun : runningJob s j.seq 0x0500 = some j) (hfit : capacityDetail j.desc (sizesOf s j) = 0) {fi : Nat} {e : Eaten}
    (hfeed : feedOf j = some fi) (htake : takeInputs s j = fedState s j fi e) (hbad : e.bad ≠ 0) (f : State → Job → OpIn → State) :
    let t := execute s j.seq 0x0500 inp sizesOf f
    Finished s t j (failWith (0x0200 + e.bad)) false ∧ (feedAt t fi).entries = e.left ∧ (feedAt t fi).stopped = true := by
  obtain ⟨hjob, -, -⟩ := of_runningJob hrun
  obtain ⟨k, hk, hsame, -, hkbad⟩ := jobOf_fedState hjob fi e
  have hread : readInputs (fedState s j fi e) k inp = .bad e.bad := by
    unfold readInputs
    simp only [feedOf_of_same hsame, hfeed, hkbad, ne_eq, hbad, not_false_eq_true, if_true]
  have hexec : execute s j.seq 0x0500 inp sizesOf f = finishJob (fedState s j fi e) j.seq (failWith (0x0200 + e.bad)) := by
    unfold execute
    simp only [hrun, hfit, ne_eq, not_true_eq_false, if_false, htake, hk, hread]
  dsimp only
  rw [hexec]
  have hends : finishJob (fedState s j fi e) j.seq (failWith (0x0200 + e.bad)) = ends (fedState s j fi e) j (failWith (0x0200 + e.bad)) := rfl
  refine ⟨finished_of_endJob (fedState_runs hjob fi e) _ true, ?_, ?_⟩
  · rw [hends, feedAt_ends, feedAt_fedState]
  · rw [hends, feedAt_ends, feedAt_fedState]
    simpa using hbad

/-- A digest of a whole packet is the digest of its bytes. -/
theorem feed_digested (hrun : runningJob s j.seq 0x0500 = some j) (hfit : capacityDetail j.desc (sizesOf s j) = 0) {fi : Nat} {e : Eaten}
    (hfeed : feedOf j = some fi) (htake : takeInputs s j = fedState s j fi e) (hbad : e.bad = 0) (hlen : e.data.length = j.desc.in0Len)
    (hdest : inl8 j.desc 0x40 = 0) :
    ∃ t, exec (.opDigest j.seq inp) s = .next t ∧ Finished s t j (okOut (digestOf j.desc.paramSet e.data (inl32 j.desc 0x44)) []) false ∧
      (feedAt t fi).entries = e.left ∧ (feedAt t fi).stopped = false := by
  obtain ⟨hjob, hop, -⟩ := of_runningJob hrun
  obtain ⟨k, hk, hsame, hcopy, hkbad⟩ := jobOf_fedState hjob fi e
  have hread : readInputs (fedState s j fi e) k inp = .got (memInputs (fedState s j fi e) k inp (some e.data)) := by
    unfold readInputs feedDone
    simp only [feedOf_of_same hsame, hfeed, hkbad, hbad, ne_eq, not_true_eq_false, if_false, hcopy, hsame.desc, hlen, beq_self_eq_true, Bool.or_true, if_true]
  have htwo : twoPhase j.desc (jobAlg (fedState s j fi e) k) = false := by
    simp [twoPhase, firstKind, hop]
  refine ⟨_, rfl, ?_⟩
  unfold execute
  simp only [hrun, hfit, ne_eq, not_true_eq_false, if_false, htake, hk, hread, htwo, Bool.false_and, Bool.false_eq_true, hsame.desc, hdest, if_true, memInputs,
    Option.getD_some]
  have hruns : StillRuns s (streamIn (fedState s j fi e) k) j := scanMove_runs (fedState_runs hjob fi e) _ _
  have hfeeds : feedAt (streamIn (fedState s j fi e) k) fi = feedAt (fedState s j fi e) fi := by
    unfold feedAt streamIn
    rw [(scanMove_only ..).same .feeds (by decide +kernel)]
  refine ⟨finished_of_ends hruns hsame.seq _, ?_, ?_⟩
  · rw [feedAt_ends, hfeeds, feedAt_fedState]
  · rw [feedAt_ends, hfeeds, feedAt_fedState]
    simp [hbad]

/-! What is taken from the FIFO. -/

theorem eatFeed_whole {n : Nat} {e : FeedEntry} {l : List FeedEntry} (heop : e.eop = true) (hlen : e.data.length = n) :
    (eatFeed n (e :: l)).data = e.data ∧ (eatFeed n (e :: l)).left = l ∧ (eatFeed n (e :: l)).bad = 0 := by
  have hnot : ¬e.data.length < n := by omega
  rw [eatFeed, if_neg hnot, if_pos ⟨hlen, heop⟩]
  exact ⟨rfl, rfl, rfl⟩

theorem eatFeed_short {n : Nat} {e : FeedEntry} {l : List FeedEntry} (heop : e.eop = true) (hlen : e.data.length < n) :
    (eatFeed n (e :: l)).left = l ∧ (eatFeed n (e :: l)).bad = 1 := by
  rw [eatFeed, if_pos hlen, if_pos heop]
  exact ⟨rfl, rfl⟩

theorem eatFeed_long {n : Nat} {e : FeedEntry} {l : List FeedEntry} (heop : e.eop = false) (hlen : n ≤ e.data.length) :
    (eatFeed n (e :: l)).left = e :: l ∧ (eatFeed n (e :: l)).bad = 2 := by
  rw [eatFeed, if_neg (not_lt.mpr hlen), if_neg (by simp [heop])]
  exact ⟨rfl, rfl⟩

end

/-- Settles O49: digests, MACs, check values and quotes are computed from the inputs read, a packet of a feed FIFO is taken whole or refused. -/
theorem digestJobs : Obligations.DigestJobs := by
  unfold Obligations.DigestJobs
  intro s j inp
  dsimp only
  refine ⟨?plain, ?crc, ?quote, ?absorb, ?feed⟩
  case plain =>
    simp only [List.forall_mem_cons, List.not_mem_nil, false_imp_iff, implies_true, and_true]
    refine ⟨?nop, ?digest, ?hmac, ?hmacVerify, ?kmac, ?kmacVerify⟩
    case nop => exact fun hx hfit => op_ends hx (by decide) hfit rfl fun _ => rfl
    case digest | hmac | hmacVerify | kmac | kmacVerify => exact fun hx hfit => streamIn_ends hx (by decide) hfit rfl rfl
  case crc =>
    intro q hx hfit hq
    have h := crc_ends (inp := inp) hx hfit hq
    dsimp only at h
    refine ⟨fun hdest => ?_, fun hdest hv => ?_, fun hdest hv => ?_⟩
    · rwa [if_pos hdest] at h
    · rwa [if_neg hdest, crcOf, if_pos hv] at h
    · rwa [if_neg hdest, crcOf, if_neg hv] at h
  case quote => exact fun hx hfit => endsWith_of_execute hx hfit rfl (finished_of_executes hx _)
  case absorb =>
    intro hrun hbx hkey habs hfit
    obtain ⟨-, hop, -⟩ := of_runningJob hrun
    exact absorbs hrun hbx (by simp [twoPhase, hop, hkey]) habs hfit rfl
  case feed =>
    intro f e l hrun hfeed hentries hstopped hcopy hbad hdest hfit
    have halg : jobAlg s j = (algOf j.desc).getD 0 := if_neg (by rw [(of_runningJob hrun).2.1]; decide)
    have hfit' : capacityDetail j.desc (sizesOf s j) = 0 := by
      unfold sizesOf
      rw [halg]
      exact hfit
    have htake := takeInputs_feed hfeed hentries hstopped hcopy hbad
    refine ⟨fun heop hlen => ?_, fun heop hlen => ?_, fun heop hlen => ?_⟩
    · obtain ⟨hdata, hleft, hzero⟩ := eatFeed_whole (l := l) heop hlen
      have h := feed_digested (inp := inp) hrun hfit' hfeed htake hzero (by rw [hdata, hlen]) hdest
      rwa [hdata, hleft] at h
    · obtain ⟨hleft, hone⟩ := eatFeed_short (l := l) heop hlen
      refine ⟨_, rfl, ?_⟩
      have h := feed_refused (inp := inp) hrun hfit' hfeed htake (by rw [hone]; decide)
      rw [hone, hleft] at h
      exact h _
    · obtain ⟨hleft, htwo⟩ := eatFeed_long (l := l) heop hlen
      refine ⟨_, rfl, ?_⟩
      have h := feed_refused (inp := inp) hrun hfit' hfeed htake (by rw [htwo]; decide)
      rw [htwo, hleft] at h
      exact h _

end Sys2Proof.JobRuns
end

section
/-! PROOF. Key management and the public-key cache: what creates, registers, loads and ends (R208, R255 to R259, R329, R333 to R345). -/

namespace Sys2Proof.JobRuns

open Sys2Proof Sys2Proof.Machine Sys2Proof.Claims Sys2Proof.Frames

section
variable {s u : State} {j k : Job} {op : Nat} {inp : OpInput} {c : Instr} {f : State → Job → OpIn → State} {r : Result}

/-- A job whose effect `u` is done ends, and its completion waits for the hayloft: what it leaves in tack room and cache is what `u` holds. -/
theorem waiting_end (hruns : StillRuns s u j) (hrecord : jobOf u (reading j).seq = some (reading j)) (hissued : j.issued = false) (hr : r.status = 0) :
    let t := awaitWrite (ends u (reading j) r) (reading j)
    Finished s t j r false ∧ (objectOf (reading j) ≠ none → ((jobOf t j.seq).map (·.waitHayloft)) = some true) ∧ t.tk = u.tk ∧ t.cache = u.cache := by
  have hdone := finished_of_ends (k := reading j) hruns rfl r
  have honly := awaitWrite_ends_only hrecord (show (reading j).issued = false from hissued) hr
  exact ⟨finished_of_awaitWrite hdone rfl, waits_of_awaitWrite hdone rfl, tk_of_only honly (by decide +kernel), honly.same .cache (by decide +kernel)⟩

/-- Only the record of the job may differ from the state of its command: it still runs, its inputs read. -/
theorem reading_of_jobs (hjob : jobOf s j.seq = some j) (hjobs : u.jobs = (readState s j).jobs) (htime : u.time = s.time) :
    StillRuns s u j ∧ jobOf u (reading j).seq = some (reading j) :=
  ⟨(readState_runs hjob).of_fields hjobs htime, (jobOf_congr hjobs _).trans (jobOf_readState hjob)⟩

/-! ## A key created -/

theorem createKey_blob (hn : inl32 j.desc 0x48 = 0xFFFFFFFF) (key : Bytes) :
    createKey (readState s j) (reading j) key = ends (readState s j) (reading j)
      (okOut (sealBlob s j (inl8 j.desc 0x4C) (inl8 j.desc 0x4D) j.desc.paramSet (inl64 j.desc 0x40) key) []) := by
  have hblob : toBlob (reading j).desc = true := by simp [toBlob, hn]
  unfold createKey
  rw [if_pos hblob]
  rfl

/-- The sealed copies of a created key are an object of their own. -/
theorem objectOf_of_create (hop : j.desc.opcode ∈ [0x0F00, 0x0F01, 0x0F02, 0x0F03]) (hn : inl32 j.desc 0x48 < 65536) : objectOf (reading j) ≠ none := by
  have htarget : targetOf j.desc = some (inl32 j.desc 0x48) := by
    unfold targetOf
    rw [if_pos hop, if_neg (by omega)]
  have hother : ∀ n ∉ [0x0F00, 0x0F01, 0x0F02, 0x0F03], j.desc.opcode ≠ n := fun n hn h => hn (h ▸ hop)
  unfold objectOf
  simp only [reading_desc, hother 0x0F05 (by decide), hother 0x0F07 (by decide), hother 0x0F06 (by decide), hother 0x0E00 (by decide),
    hother 0x0210 (by decide), hother 0x0220 (by decide), or_self, if_false, htarget]
  simp

/-- The slot of a created key (R333, R337, R342). -/
def createdSlot (s : State) (j : Job) (key : Bytes) (x : Slot) : Slot :=
  { x with
    cls := inl8 j.desc 0x4C, alg := inl8 j.desc 0x4D, paramSet := j.desc.paramSet, keyLen := key.length, attrs := inl64 j.desc 0x40,
    parent := (parentOf s j).slot, parentGen := (parentOf s j).gen, depth := (parentOf s j).depth + 1, revoked := (parentOf s j).revoked,
    material := key, sealState := s.lc.state, sealEpoch := s.lc.epoch }

theorem createKey_slot (hjob : jobOf s j.seq = some j) (hop : j.desc.opcode ∈ [0x0F00, 0x0F01, 0x0F02, 0x0F03]) (hn : inl32 j.desc 0x48 < 65536)
    (hissued : j.issued = false) (hstate : (slotAt s (inl32 j.desc 0x48)).state = 1) (key : Bytes) :
    let n := inl32 j.desc 0x48
    let t := createKey (readState s j) (reading j) key
    Finished s t j (okOut (leBytes 8 (mkHandle j.paddock (inl8 j.desc 0x4C) (slotAt s n).gen n)) []) false ∧
      ((jobOf t j.seq).map (·.waitHayloft)) = some true ∧
      slotAt t n = createdSlot s j key (slotAt s n) ∧ ∀ m, m ≠ n → slotAt t m = slotAt s m := by
  have hissued' : (reading j).issued = false := hissued
  have hslot : toBlob j.desc = false := by simp [toBlob]; omega
  have hstate' : (slotAt (readState s j) (inl32 j.desc 0x48)).state = 1 := hstate
  have hobj : objectOf (reading j) ≠ none := objectOf_of_create hop hn
  unfold createKey
  simp only [hslot, hissued', Bool.false_eq_true, if_false, reading_desc]
  have hfill : fillSlot (readState s j) (reading j) (inl32 j.desc 0x48) key = modSlot (readState s j) (inl32 j.desc 0x48) (createdSlot s j key) := by
    unfold fillSlot
    simp only [hissued', hstate', bne_self_eq_false, Bool.or_false, Bool.false_eq_true, if_false]
    rfl
  rw [hfill]
  obtain ⟨hruns, hrecord⟩ := reading_of_jobs (u := modSlot (readState s j) (inl32 j.desc 0x48) (createdSlot s j key)) hjob rfl rfl
  obtain ⟨hdone, hwaits, htk, -⟩ := waiting_end (r := okOut (slotHandle (readState s j) (reading j) (inl32 j.desc 0x48)) []) hruns hrecord hissued rfl
  refine ⟨hdone, hwaits hobj, ?_, fun m hm => ?_⟩
  · rw [slotAt_congr htk, slotAt_modSlot_self]
    rfl
  · rw [slotAt_congr htk, modSlot, slotAt_putSlot, if_neg hm]
    rfl

/-- An opcode that creates a key leaves a blob, or fills the PENDING slot its record claims (R334, R337). -/
theorem creates (hx : Executes s op j) (hop : op ∈ [0x0F00, 0x0F01, 0x0F02, 0x0F03])
    (hfit : capacityDetail j.desc (outSizes j.desc ((algOf j.desc).getD 0) [] 0) = 0) {key : Bytes}
    (hc : exec c s = .next (execute s j.seq op inp sizesOf f))
    (hf : f (readState s j) (reading j) (hostIn j inp) = createKey (readState s j) (reading j) key) :
    let n := inl32 j.desc 0x48
    (n = 0xFFFFFFFF → EndsWith s j c (okOut (sealBlob s j (inl8 j.desc 0x4C) (inl8 j.desc 0x4D) j.desc.paramSet (inl64 j.desc 0x40) key) [])) ∧
    (n < 65536 → j.issued = false → (slotAt s n).state = 1 → ∃ t, exec c s = .next t ∧
      Finished s t j (okOut (leBytes 8 (mkHandle j.paddock (inl8 j.desc 0x4C) (slotAt s n).gen n)) []) false ∧
      ((jobOf t j.seq).map (·.waitHayloft)) = some true ∧ slotAt t n = createdSlot s j key (slotAt s n) ∧ ∀ m, m ≠ n → slotAt t m = slotAt s m) := by
  have hquote : op ≠ 0x0E10 := by rintro rfl; simp at hop
  refine ⟨fun hn => op_ends hx hquote hfit hc fun _ => hf.trans (createKey_blob hn key), fun hn hissued hstate => ?_⟩
  have hfit' : capacityDetail j.desc (sizesOf s j) = 0 := by rw [sizesOf_of_executes hx hquote]; exact hfit
  refine ⟨_, hc.trans (congrArg Host.Outcome.next ((execute_host hx hfit').trans hf)), ?_⟩
  exact createKey_slot (jobOf_of_executes hx) (by rw [opcode_of_executes hx]; exact hop) hn hissued hstate key

/-- A job without outputs needs no room. -/
theorem no_outputs (hx : Executes s op j) (hop : op ∈ [0x0F06, 0x0F07, 0x0E01]) : capacityDetail j.desc (sizesOf s j) = 0 := by
  have hsizes : sizesOf s j = (0, 0) := by
    unfold sizesOf outSizes
    rw [opcode_of_executes hx]
    simp only [List.mem_cons, List.not_mem_nil, or_false] at hop
    rcases hop with rfl | rfl | rfl
    · rfl
    · rfl
    · rfl
  rw [hsizes]
  simp [capacityDetail, b1]

/-! ## Blobs, marks and the cache -/

theorem registered (hjob : jobOf s j.seq = some j) (hop : j.desc.opcode = 0x0F05) {h : Nat} (hextra : j.extra = some h) (hissued : j.issued = false)
    (b : Bytes) (r : Result) (hr : r.status = 0) :
    let n := hIdx h - 0x80000000
    let t := awaitWrite (ends (fillBlob (readState s j) (reading j) n b) (reading j) r) (reading j)
    ((jobOf t j.seq).map (·.waitHayloft)) = some true ∧ Finished s t j r false ∧ (blobAt t n).present = true ∧ (blobAt t n).bytes = b ∧
      (blobAt t n).attrs = u64 b 0x10 ∧ (blobAt t n).depth = (parentOf s j).depth + 1 := by
  have honly := fillBlob_only (readState s j) (reading j) (hIdx h - 0x80000000) b
  obtain ⟨hruns, hrecord⟩ := reading_of_jobs hjob (honly.same .jobs (by decide +kernel)) (honly.same .time (by decide +kernel))
  obtain ⟨hdone, hwaits, htk, -⟩ := waiting_end hruns hrecord hissued hr
  have hobj : objectOf (reading j) ≠ none := by
    unfold objectOf
    rw [reading_desc, if_pos hop, reading_extra, hextra]
    simp
  have hblob : blobAt (awaitWrite (ends (fillBlob (readState s j) (reading j) (hIdx h - 0x80000000) b) (reading j) r) (reading j)) (hIdx h - 0x80000000) =
      blobAt (fillBlob (readState s j) (reading j) (hIdx h - 0x80000000) b) (hIdx h - 0x80000000) := by
    unfold blobAt
    rw [htk]
  have hissued' : (reading j).issued = false := hissued
  dsimp only
  refine ⟨hwaits hobj, hdone, ?_⟩
  rw [hblob]
  unfold fillBlob
  simp only [hissued', Bool.false_eq_true, if_false, blobAt_modBlob_self]
  exact ⟨trivial, trivial, trivial, rfl⟩

theorem mark_leaves (hx : Executes s op j) :
    let t := markJob (readState s j) (reading j)
    Finished s t j {} false ∧ (j.issued = false → objectOf j ≠ none → ((jobOf t j.seq).map (·.waitHayloft)) = some true) := by
  have hdone := finished_of_executes hx {}
  unfold markJob
  cases hissued : j.issued with
  | true =>
    have hissued' : (reading j).issued = true := hissued
    simp only [hissued', if_true]
    exact ⟨hdone, fun h => absurd h (by simp)⟩
  | false =>
    have hissued' : (reading j).issued = false := hissued
    simp only [hissued', Bool.false_eq_true, if_false]
    exact ⟨finished_of_awaitWrite hdone rfl, fun _ hobj => waits_of_awaitWrite hdone rfl hobj⟩

/-- The claim of a load on a cache entry goes back only while the entry is its own and not complete. -/
theorem releaseClaims_load {v : State} (hop : j.desc.opcode = 0x0E00) {h : Nat} (hextra : j.extra = some h)
    (hkeep : ownEntry v (cacheKey j.paddock (hIdx h)) h = true → (cacheAt v (cacheKey j.paddock (hIdx h))).complete = true) : releaseClaims v j = v := by
  have hnot : ((cacheAt v (cacheKey j.paddock (hIdx h))).present && (cacheAt v (cacheKey j.paddock (hIdx h))).gen == hGen h &&
      !(cacheAt v (cacheKey j.paddock (hIdx h))).complete) = false := by
    cases hown : ownEntry v (cacheKey j.paddock (hIdx h)) h with
    | true => rw [hkeep hown, Bool.not_true, Bool.and_false]
    | false =>
      unfold ownEntry at hown
      rw [hown, Bool.false_and]
  have htarget : targetOf j.desc = none := by simp [targetOf, hop]
  unfold releaseClaims
  simp only [hop, hextra, hnot, Bool.false_eq_true, if_false, htarget]

theorem endJob_cache {seq : Nat} (hk : jobOf u seq = some k) (r : Result) (c : Bool) (hrel : ∀ v, v.cache = u.cache → (releaseClaims v k).cache = u.cache) :
    (endJob u seq r c).cache = u.cache := by
  unfold endJob
  simp only [hk]
  have hdraw : (if k.stallId != 0xFFFF then (draw u).2 else u).cache = u.cache := by split <;> rfl
  generalize (if k.stallId != 0xFFFF then (draw u).2 else u) = u1 at hdraw
  have hclaims : ∀ v : State, v.cache = u.cache → (if (keepStatus k r).status = 0 then v else releaseClaims v k).cache = u.cache := fun v hv => by
    split
    · exact hv
    · exact hrel v hv
  have hmod : ∀ g, (modJob u1 seq g).cache = u.cache := fun _ => hdraw
  split
  · split
    · exact ((freeStall_only ..).same .cache (by decide +kernel)).trans (hclaims _ (hmod _))
    · exact ((abandonOn_only ..).same .cache (by decide +kernel)).trans (hclaims _ (hmod _))
  · exact hclaims _ (hmod _)

/-- The entry a load leaves in the cache: filled where it is still its own and not complete (R256). -/
def loaded (s : State) (k h : Nat) (key : Bytes) : State := if !ownEntry s k h || (cacheAt s k).complete then s else placeKey s k key

theorem fillCache_eq (s : State) (j : Job) (k h : Nat) (key : Bytes) :
    fillCache s j k h key =
      if ownEntry (loaded s k h key) k h && (cacheAt (loaded s k h key) k).sticky && !j.issued then
        awaitWrite (ends (loaded s k h key) j (okOut (leBytes 8 h) [])) j
      else ends (loaded s k h key) j (okOut (leBytes 8 h) []) := rfl

theorem cacheAt_congr {v : State} (h : v.cache = u.cache) (n : Nat) : cacheAt v n = cacheAt u n := by unfold cacheAt; rw [h]

theorem loaded_only (s : State) (k h : Nat) (key : Bytes) : Only [.cache] s (loaded s k h key) := by
  unfold loaded
  split
  · exact Only.refl _ s
  · exact placeKey_only ..

theorem loaded_complete {k h : Nat} {key : Bytes} (hown : ownEntry (loaded u k h key) k h = true) : (cacheAt (loaded u k h key) k).complete = true := by
  unfold loaded at hown ⊢
  split at hown
  next hkeep =>
    rw [if_pos hkeep]
    rw [hown] at hkeep
    simpa using hkeep
  next hgo =>
    rw [if_neg hgo]
    unfold placeKey
    rw [cacheAt_modCache_self]

theorem cacheAt_loaded_own {k h : Nat} (hu : u.cache = s.cache) (hown : ownEntry s k h = true) (hc : (cacheAt s k).complete = false) (key : Bytes) :
    cacheAt (loaded u k h key) k =
      { cacheAt s k with complete := true, key := key, tr := if 20 ≤ (cacheAt s k).alg ∧ (cacheAt s k).alg ≤ 22 then mldsaTr key else [] } := by
  have hat := cacheAt_congr hu k
  have hown' : ownEntry u k h = true := by
    unfold ownEntry at hown ⊢
    rwa [hat]
  unfold loaded placeKey
  simp only [hown', hat, hc, Bool.not_true, Bool.or_false, Bool.false_eq_true, if_false, cacheAt_modCache_self]

theorem cacheAt_loaded_other {k h : Nat} (hu : u.cache = s.cache) (hown : ownEntry s k h = false) (key : Bytes) :
    cacheAt (loaded u k h key) k = cacheAt s k := by
  have hat := cacheAt_congr hu k
  have hown' : ownEntry u k h = false := by
    unfold ownEntry at hown ⊢
    rwa [hat]
  unfold loaded
  simp only [hown', Bool.not_false, Bool.true_or, if_true, hat]

/-- What the load of a key leaves: the handle, and the entry filled where it is still its own and not complete (R256, R258). -/
theorem fillCache_leaves (hx : Executes s 0x0E00 j) {h : Nat} (hextra : j.extra = some h)
    (hu : Only [.scans, .freeCtr] (readState s j) u) (key : Bytes) :
    let k := cacheKey j.paddock (hIdx h)
    let t := fillCache u (reading j) k h key
    Finished s t j (okOut (leBytes 8 h) []) false ∧ cacheAt t k = cacheAt (loaded u k h key) k ∧
      (ownEntry (loaded u k h key) k h = true → (cacheAt (loaded u k h key) k).sticky = true → j.issued = false → objectOf j ≠ none →
        ((jobOf t j.seq).map (·.waitHayloft)) = some true) := by
  have hjob := jobOf_of_executes hx
  have hfields : u.jobs = (readState s j).jobs ∧ u.time = s.time := ⟨hu.same .jobs (by decide +kernel), hu.same .time (by decide +kernel)⟩
  have honly := loaded_only u (cacheKey j.paddock (hIdx h)) h key
  have hcomplete := loaded_complete (u := u) (k := cacheKey j.paddock (hIdx h)) (h := h) (key := key)
  dsimp only
  rw [fillCache_eq]
  generalize loaded u (cacheKey j.paddock (hIdx h)) h key = v at honly hcomplete ⊢
  obtain ⟨hruns, hrecord⟩ := reading_of_jobs hjob ((honly.same .jobs (by decide +kernel)).trans hfields.1) ((honly.same .time (by decide +kernel)).trans hfields.2)
  have hdone := finished_of_ends (k := reading j) hruns rfl (okOut (leBytes 8 h) [])
  have hcache : (ends v (reading j) (okOut (leBytes 8 h) [])).cache = v.cache := by
    refine endJob_cache hrecord _ true fun w hw => ?_
    have hat : cacheAt w (cacheKey j.paddock (hIdx h)) = cacheAt v (cacheKey j.paddock (hIdx h)) := by unfold cacheAt; rw [hw]
    have hkept := releaseClaims_load (v := w) (j := reading j) (opcode_of_executes hx : j.desc.opcode = 0x0E00) hextra (by
      unfold ownEntry at hcomplete ⊢
      rw [reading_paddock, hat]
      exact hcomplete)
    rw [hkept, hw]
  split
  next hwait =>
    have hcache' := ((awaitWrite_only (ends v (reading j) (okOut (leBytes 8 h) [])) (reading j)).same .cache (by decide +kernel)).trans hcache
    exact ⟨finished_of_awaitWrite hdone rfl, cacheAt_congr hcache' _, fun _ _ _ hobj => waits_of_awaitWrite hdone rfl hobj⟩
  next hwait =>
    refine ⟨hdone, cacheAt_congr hcache _, fun hown hsticky hissued => absurd ?_ hwait⟩
    have hissued' : (reading j).issued = false := hissued
    rw [hown, hsticky, hissued']
    rfl

/-- A load whose entry stands is not read again; else the key is checked, and fills the entry or is refused (R256, R263, R279). -/
theorem pkcLoad_runs (hx : Executes s 0x0E00 j) (hfit : capacityDetail j.desc (outSizes j.desc ((algOf j.desc).getD 0) [] 0) = 0) {h : Nat}
    (hextra : j.extra = some h) :
    let k := cacheKey j.paddock (hIdx h)
    let alg := (algOf j.desc).getD 0
    let in0 := (hostIn j inp).in0
    let standing := ownEntry s k h = true ∧ (cacheAt s k).complete = true
    (standing → exec (.opPkcLoad j.seq inp) s = .next (fillCache (readState s j) (reading j) k h in0)) ∧
    (¬standing → keyCheck alg j.desc.paramSet in0 = none →
      ∃ n, exec (.opPkcLoad j.seq inp) s = .next (fillCache (scanMove (readState s j) j.paddock n) (reading j) k h in0)) ∧
    (∀ reason x, ¬standing → keyCheck alg j.desc.paramSet in0 = some (reason, x) →
      ∃ n, exec (.opPkcLoad j.seq inp) s = .next (ends (scanMove (readState s j) j.paddock n) (reading j) (refuseInput reason x))) := by
  have hfit' : capacityDetail j.desc (sizesOf s j) = 0 := by rw [sizesOf_of_executes hx (by decide)]; exact hfit
  have halg := jobAlg_of_executes hx (by decide)
  have hown : ∀ k, ownEntry (readState s j) k h = ownEntry s k h := fun _ => rfl
  have hscan : ∀ n, ∃ m, (if 56 ≤ (algOf j.desc).getD 0 ∧ (algOf j.desc).getD 0 ≤ 65 then scanMove (readState s j) j.paddock n else readState s j) =
      scanMove (readState s j) j.paddock m := fun n => by
    split
    · exact ⟨n, rfl⟩
    · exact ⟨0, rfl⟩
  obtain ⟨m, hm⟩ := hscan j.desc.in0Len
  dsimp only
  refine ⟨fun hs => ?_, fun hs hgood => ⟨m, ?_⟩, fun reason x hs hbad => ⟨m, ?_⟩⟩
  · refine congrArg Host.Outcome.next ((execute_host hx hfit').trans ?_)
    simp only [reading_extra, hextra, Option.getD_some, reading_paddock, hown, cacheAt_reading, hs, Bool.and_self, if_true]
  · refine congrArg Host.Outcome.next ((execute_host hx hfit').trans ?_)
    have hs' : ¬(ownEntry s (cacheKey j.paddock (hIdx h)) h && (cacheAt s (cacheKey j.paddock (hIdx h))).complete) = true := by simpa using hs
    simp only [reading_extra, hextra, Option.getD_some, reading_paddock, hown, cacheAt_reading, hs', Bool.false_eq_true, if_false, jobAlg_reading, halg,
      reading_desc, hgood, hm]
  · refine congrArg Host.Outcome.next ((execute_host hx hfit').trans ?_)
    have hs' : ¬(ownEntry s (cacheKey j.paddock (hIdx h)) h && (cacheAt s (cacheKey j.paddock (hIdx h))).complete) = true := by simpa using hs
    simp only [reading_extra, hextra, Option.getD_some, reading_paddock, hown, cacheAt_reading, hs', Bool.false_eq_true, if_false, jobAlg_reading, halg,
      reading_desc, hbad, hm]

end

/-- Settles O50: keys and entries stand where the record claims them, and completions that need the hayloft wait for it. -/
theorem keyAndCacheJobs : Obligations.KeyAndCacheJobs := by
  unfold Obligations.KeyAndCacheJobs
  intro s j inp
  dsimp only
  refine ⟨?create, ?unwrap, ?exported, ?register, ?mark, ?evict, ?load⟩
  case create =>
    simp only [List.forall_mem_cons, List.not_mem_nil, false_imp_iff, implies_true, and_true]
    refine ⟨?generate, ?imported, ?derived⟩
    case generate | imported | derived => exact fun hx hfit => creates hx (by decide) hfit rfl rfl
  case unwrap =>
    refine fun hx hfit => ⟨fun key hkey => creates hx (by decide) hfit rfl ?_, fun hkey => op_ends hx (by decide) hfit rfl fun _ => ?_⟩
    · simp only [reading_desc, jobKey_reading, hkey]
    · simp only [reading_desc, jobKey_reading, hkey]
  case exported => exact fun hx hfit => endsWith_of_execute hx hfit rfl (finished_of_executes hx _)
  case register =>
    intro h hx hfit hextra hissued
    have hfit' : capacityDetail j.desc (sizesOf s j) = 0 := by rw [sizesOf_of_executes hx (by decide)]; exact hfit
    have hblob : blobOk (readState s j) (reading j) (hostIn j inp).in0 = blobOk s j (hostIn j inp).in0 := rfl
    refine ⟨fun hbad => op_ends hx (by decide) hfit rfl fun _ => ?_, fun hok => ?_⟩
    · simp only [hblob, hbad, Bool.not_false, if_true]
    · refine ⟨_, congrArg Host.Outcome.next (execute_host hx hfit'), ?_⟩
      have h := registered (jobOf_of_executes hx) (opcode_of_executes hx) hextra hissued (hostIn j inp).in0
        (okOut (leBytes 8 (mkHandle j.paddock (u8 (hostIn j inp).in0 6) (hGen h) (hIdx h))) []) rfl
      simp only [hblob, hok, Bool.not_true, Bool.false_eq_true, if_false, reading_extra, hextra, Option.getD_some, reading_issued, hissued, reading_paddock]
      exact h
  case mark =>
    simp only [List.forall_mem_cons, List.not_mem_nil, false_imp_iff, implies_true, and_true]
    refine ⟨?restrict, ?revoke⟩
    case restrict | revoke =>
      exact fun hx => ⟨_, congrArg Host.Outcome.next (execute_host hx (no_outputs hx (by decide))), mark_leaves hx⟩
  case evict => exact fun hx => endsWith_of_execute hx (no_outputs hx (by decide)) rfl (finished_of_executes hx _)
  case load =>
    intro h hx hfit hextra
    obtain ⟨hstanding, hread, hrefused⟩ := pkcLoad_runs (inp := inp) hx hfit hextra
    refine ⟨fun hs => ?_, fun hs hgood => ?_, fun reason x hs hbad => ?_⟩
    · exact ⟨_, hstanding hs, (fillCache_leaves hx hextra (Only.refl _ _) _).1⟩
    · obtain ⟨n, hexec⟩ := hread hs hgood
      obtain ⟨hdone, hentry, hwaits⟩ := fillCache_leaves hx hextra (scanMove_only (readState s j) j.paddock n) (hostIn j inp).in0
      have hcache : (scanMove (readState s j) j.paddock n).cache = s.cache := (scanMove_only (readState s j) j.paddock n).same .cache (by decide +kernel)
      refine ⟨_, hexec, hdone, fun hown => ?_, fun hown => hentry.trans (cacheAt_loaded_other hcache hown _)⟩
      have hc : (cacheAt s (cacheKey j.paddock (hIdx h))).complete = false := by simpa [hown] using hs
      have hfilled := cacheAt_loaded_own hcache hown hc (hostIn j inp).in0
      refine ⟨hentry.trans hfilled, fun hsticky => hwaits ?_ (by rw [hfilled]; exact hsticky)⟩
      unfold ownEntry at hown ⊢
      rw [hfilled]
      exact hown
    · obtain ⟨n, hexec⟩ := hrefused reason x hs hbad
      exact ⟨_, hexec, finished_of_streamedIn hx _ _ _⟩

end Sys2Proof.JobRuns
end

section
/-! PROOF. Configuration requests: when they are answered, and what they read and set (R82, R117, R118, R138). -/

namespace Sys2Proof.ConfigRequests

open Sys2Proof Sys2Proof.Machine Sys2Proof.Claims

variable {s : State} {fn off v : Nat}

theorem of_cfgReaches (h : cfgReaches s fn = true) : linkServes s = true ∧ cfgUp s = true ∧ fnPresent s fn = true := by
  have hup : cfgUp s = true ∧ fnPresent s fn = true := by simpa [cfgReaches] using h
  refine ⟨?_, hup⟩
  have := hup.1
  unfold cfgUp at this
  simp only [Bool.and_eq_true] at this
  exact this.1

theorem exec_read (h : cfgReaches s fn = true) : exec (.configRequest fn false off v) s = .next (emit s (.cfgReply fn 0 (cfgRead s fn off))) := by
  obtain ⟨hlink, hup, hpresent⟩ := of_cfgReaches h
  show execConfigRequest fn false off v s = _
  unfold execConfigRequest
  simp only [hlink, hup, hpresent, Bool.not_true, Bool.false_eq_true, if_false]

theorem exec_write (h : cfgReaches s fn = true) :
    exec (.configRequest fn true off v) s = .next (emit (cfgWrite s fn off (v % 2 ^ 32)) (.cfgReply fn 0 0)) := by
  obtain ⟨hlink, hup, hpresent⟩ := of_cfgReaches h
  show execConfigRequest fn true off v s = _
  unfold execConfigRequest
  simp only [hlink, hup, hpresent, Bool.not_true, Bool.false_eq_true, if_false, if_true]

theorem linkUp_of_cfgReaches (h : cfgReaches s fn = true) : s.port.linkUp = true := by
  have hlink := (of_cfgReaches h).1
  unfold linkServes at hlink
  simp only [Bool.and_eq_true] at hlink
  exact hlink.1.1.2

/-- A write of all ones to the first BAR leaves the bits above its 16 MiB. -/
theorem bar0_after_ones (s : State) : cfgRead (cfgWrite s 0 0x10 0xFFFFFFFF) 0 0x10 = 0xFF000004 := by
  have hwrite : cfgWrite s 0 0x10 0xFFFFFFFF = modFn s 0 fun f => { f with cfg := { f.cfg with bars := writeBars false f.cfg.bars 0 0xFFFFFFFF } } := rfl
  have hread : ∀ t : State, cfgRead t 0 0x10 = readBars (fnAt t 0).cfg.bars 0 := fun _ => rfl
  rw [hwrite, hread, fnAt_modFn_self]
  show (smGet 0 (smSet 0 _ 0 ((smGet 0 (fnAt s 0).cfg.bars 0 / 2 ^ 32 * 2 ^ 32 + 0xFFFFFFFF) / 2 ^ 24 * 2 ^ 24)) 0) % 2 ^ 32 + 4 = _
  rw [smGet_smSet_self]
  omega

/-- Settles O14: each request goes through the three checks of `execConfigRequest`, and then reads or sets the one word it names. -/
theorem configurationRequests : Obligations.ConfigurationRequests := by
  unfold Obligations.ConfigurationRequests
  intro s fn off v wr
  dsimp only
  refine ⟨fun hlink => ?_, fun hlink hup => ?_, fun hup habsent => ?_, fun h => ⟨exec_read h, ?_, exec_read h, ?_, ?_, fun hbit => ?_, fun hbit => ?_, fun hd3 => ?_,
    fun hmask hmsix => ?_⟩⟩
  · exact congrArg Host.Outcome.next (if_pos (by rw [hlink]; rfl))
  · show execConfigRequest fn wr off v s = _
    unfold execConfigRequest
    simp only [hlink, hup, Bool.not_true, Bool.not_false, Bool.false_eq_true, if_false, if_true]
  · have hlink : linkServes s = true := by
      unfold cfgUp at hup
      simp only [Bool.and_eq_true] at hup
      exact hup.1
    show execConfigRequest fn wr off v s = _
    unfold execConfigRequest
    simp only [hlink, hup, habsent, Bool.not_true, Bool.not_false, Bool.false_eq_true, if_false, if_true]
  · rintro rfl
    exact exec_read h
  · rintro rfl
    rw [exec_read h]
    have hword : cfgRead s 0 0x80 = cfgLink s := rfl
    rw [hword, cfgLink, if_pos (linkUp_of_cfgReaches h)]
  · rintro rfl
    exact ⟨_, exec_write h, bar0_after_ones s⟩
  · rw [exec_write h]
    show Host.Outcome.next (emit (if _ then _ else _) _) = _
    rw [if_neg (by rw [hbit]; exact Bool.false_ne_true)]
  · rw [exec_write h]
    show Host.Outcome.next (emit (if _ then _ else _) _) = _
    rw [if_pos hbit]
  · refine ⟨_, exec_write h, ?_⟩
    have hsleep : cfgWrite s fn 0x44 (v % 2 ^ 32) = sleepFn (modFn s fn fun f =>
        { f with pmeEn := hasBit (v % 2 ^ 32) 8, pmeStatus := f.pmeStatus && !hasBit (v % 2 ^ 32) 15 }) fn := by
      show writePmcsr s fn (v % 2 ^ 32) = _
      unfold writePmcsr
      simp only [hd3]
    have hfn : fnAt (cfgWrite s fn 0x44 (v % 2 ^ 32)) fn =
        { fnAt s fn with pmeEn := hasBit (v % 2 ^ 32) 8, pmeStatus := (fnAt s fn).pmeStatus && !hasBit (v % 2 ^ 32) 15, dState := 3 } := by
      rw [hsleep, sleepFn, fnAt_modFn_self, fnAt_modFn_self]
    simp only [hfn]
    exact ⟨trivial, trivial, trivial⟩
  · refine ⟨_, exec_write h, ?_⟩
    have hfn : fnAt (cfgWrite s fn 0x50 (v % 2 ^ 32)) fn = { fnAt s fn with fnMask := true, msixEn := false } := by
      show fnAt (writeMsixCtl s fn (v % 2 ^ 32)) fn = _
      unfold writeMsixCtl
      simp only [hmask, hmsix, if_true, Bool.false_eq_true, if_false, fnAt_modFn_self]
    simp only [hfn]
    exact ⟨trivial, trivial⟩

end Sys2Proof.ConfigRequests
end

section
/-! SUPPORT. Folds over units, the registers of vectors, and queues that enter HELD (R80, R131, R143). -/

namespace Sys2Proof.Holding

open Sys2Proof Sys2Proof.Machine Sys2Proof.Claims Sys2Proof.Frames

/-! ## Folds -/

/-- What every step of a fold keeps. -/
theorem foldl_keeps {α : Type} {P : State → Prop} {f : State → α → State} (l : List α) (hf : ∀ t, ∀ x ∈ l, P t → P (f t x)) {s : State} (hs : P s) :
    P (l.foldl f s) := by
  induction l generalizing s with
  | nil => exact hs
  | cons x l ih => exact ih (fun t y hy => hf t y (List.mem_cons_of_mem _ hy)) (hf s x (List.mem_cons_self ..) hs)

/-- What one step of a fold reaches, where the steps before keep its premise and the steps after keep it. -/
theorem foldl_reaches {α : Type} {I P : State → Prop} {f : State → α → State} {l : List α} {a : α} (ha : a ∈ l) (hI : ∀ t, ∀ x ∈ l, I t → I (f t x))
    (hP : ∀ t, ∀ x ∈ l, P t → P (f t x)) (hreach : ∀ t, I t → P (f t a)) {s : State} (hs : I s) : P (l.foldl f s) := by
  induction l generalizing s with
  | nil => exact absurd ha List.not_mem_nil
  | cons x l ih =>
    have hI' := fun t y (hy : y ∈ l) => hI t y (List.mem_cons_of_mem _ hy)
    have hP' := fun t y (hy : y ∈ l) => hP t y (List.mem_cons_of_mem _ hy)
    rcases List.mem_cons.mp ha with rfl | hl
    · exact foldl_keeps l hP' (hreach s hs)
    · exact ih hl hI' hP' (hI s x (List.mem_cons_self ..) hs)

/-! ## Indexed collections -/

theorem mem_smKeys_of_smGet_ne {α : Type} {d : α} {m : SMap α} {k : Nat} (h : smGet d m k ≠ d) : k ∈ smKeys m := by
  induction m with
  | nil => exact absurd rfl h
  | cons e m ih =>
    obtain ⟨j, v⟩ := e
    unfold smKeys
    by_cases hk : j = k
    · simp [hk]
    · have hrest : smGet d m k ≠ d := by simpa [smGet, hk] using h
      exact List.mem_cons_of_mem _ (ih hrest)

/-- What holds of every value a change of a collection lists, and of the default, holds of every value read from it. -/
theorem smGet_smMap_of_all {α : Type} [DecidableEq α] {d : α} {P : α → Prop} {f : Nat → α → α} (hf : ∀ k v, P (f k v)) (hd : P d) (m : SMap α) (k : Nat) :
    P (smGet d (smMap d f m) k) := by
  induction m with
  | nil => exact hd
  | cons e m ih =>
    obtain ⟨j, v⟩ := e
    unfold smMap
    split
    · exact ih
    · unfold smGet
      split
      · exact hf j v
      · exact ih

section
variable {s t : State} {n v q : Nat}

/-! ## Vectors -/

theorem vecAt_modVec (s : State) (n v m w : Nat) (g : Vec → Vec) :
    vecAt (modVec s n v g) m w = if m = n ∧ w = v then g (vecAt s n v) else vecAt s m w := by
  unfold vecAt modVec
  by_cases hm : m = n
  · subst hm
    rw [fnAt_modFn_self]
    show smGet {} (smSet {} (fnAt s m).vecs v _) w = _
    rw [smGet_smSet]
    by_cases hw : w = v
    · simp [hw]
    · simp [hw]
  · rw [modFn, fnAt_putFn, if_neg hm, if_neg fun h => hm h.1]

theorem vecAt_modVec_self (s : State) (n v : Nat) (g : Vec → Vec) : vecAt (modVec s n v g) n v = g (vecAt s n v) := by
  rw [vecAt_modVec, if_pos ⟨rfl, rfl⟩]

theorem vecAt_of_fnAt (h : (fnAt t n).vecs = (fnAt s n).vecs) (v : Nat) : vecAt t n v = vecAt s n v := by
  unfold vecAt
  rw [h]

theorem vecAt_of_only {l : List Part} (h : Only l s t) (hl : Part.fn .vecs ∉ l) (n v : Nat) : vecAt t n v = vecAt s n v :=
  vecAt_of_fnAt (h.same (.fn .vecs) hl n) v

/-! ## HELD queues -/

theorem queue_listed (h : (qAt s q).state ≠ 0) : q ∈ queueNums s := by
  refine mem_smKeys_of_smGet_ne (d := ({} : Queue)) fun hd => h ?_
  unfold qAt
  rw [hd]

theorem state_holdQueue_self (s : State) (q : Nat) :
    (qAt (holdQueue s q) q).state = if 1 ≤ (qAt s q).state ∧ (qAt s q).state ≤ 4 then 5 else (qAt s q).state := by
  unfold holdQueue
  dsimp only
  split
  · rw [(writeShadow_only ..).same (.queue .state) (by decide +kernel) q, (journalWrite_only _).same (.queue .state) (by decide +kernel) q, qAt_modQ_self]
  · rfl

theorem state_holdQueue_other {m : Nat} (h : m ≠ q) : (qAt (holdQueue s q) m).state = (qAt s m).state := by
  unfold holdQueue
  dsimp only
  split
  · rw [(writeShadow_only ..).same (.queue .state) (by decide +kernel) m, (journalWrite_only _).same (.queue .state) (by decide +kernel) m, modQ, qAt_putQ,
      if_neg h]
  · rfl

theorem state_holdQueue_five {m : Nat} (h : (qAt s m).state = 5) : (qAt (holdQueue s q) m).state = 5 := by
  by_cases hm : m = q
  · subst hm
    rw [state_holdQueue_self, h]
    rfl
  · rw [state_holdQueue_other hm, h]

/-- A queue that is enabled, or HELD already. -/
def Open (q : Nat) (s : State) : Prop := 1 ≤ (qAt s q).state ∧ (qAt s q).state ≤ 5

theorem open_holdQueue {m : Nat} (h : Open q s) : Open q (holdQueue s m) := by
  unfold Open at *
  by_cases hm : q = m
  · subst hm
    rw [state_holdQueue_self]
    split <;> omega
  · rw [state_holdQueue_other hm]
    exact h

theorem held_of_open (h : Open q s) : (qAt (holdQueue s q) q).state = 5 := by
  rw [state_holdQueue_self]
  obtain ⟨hlow, hhigh⟩ := h
  split <;> omega

theorem owner_holdQueue (m : Nat) : (qAt (holdQueue s m) q).fn = (qAt s q).fn ∧ (qAt (holdQueue s m) q).bx = (qAt s q).bx :=
  ⟨(holdQueue_only s m).same (.queue .fn) (by decide +kernel) q, (holdQueue_only s m).same (.queue .bx) (by decide +kernel) q⟩

/-- Every open queue of the function is HELD. -/
theorem held_holdFnQueues (hfn : (qAt s q).fn = n) (hbx : (qAt s q).bx = false) (h : Open q s) : (qAt (holdFnQueues s n) q).state = 5 := by
  unfold holdFnQueues
  rw [(updateLtr_only _).same (.queue .state) (by decide +kernel) q]
  have hkeep : ∀ (P : State → Prop), (∀ t m, P t → P (holdQueue t m)) →
      ∀ t m, P t → P (if (qAt t m).fn == n && !(qAt t m).bx then holdQueue t m else t) := fun P hP t m ht => by
    split
    · exact hP t m ht
    · exact ht
  refine foldl_reaches (I := fun t => Open q t ∧ (qAt t q).fn = n ∧ (qAt t q).bx = false) (P := fun t => (qAt t q).state = 5)
    (queue_listed (q := q) (by unfold Open at h; omega)) (fun t m _ => ?_) (fun t m _ => ?_) (fun t ht => ?_) ⟨h, hfn, hbx⟩
  · refine hkeep (fun t => Open q t ∧ (qAt t q).fn = n ∧ (qAt t q).bx = false) (fun t m ht => ?_) t m
    obtain ⟨hown, hb⟩ := owner_holdQueue (s := t) (q := q) m
    exact ⟨open_holdQueue ht.1, hown.trans ht.2.1, hb.trans ht.2.2⟩
  · exact hkeep (fun t => (qAt t q).state = 5) (fun t m ht => state_holdQueue_five ht) t m
  · rw [if_pos (by simp [ht.2.1, ht.2.2])]
    exact held_of_open ht.1

/-- A HELD queue stays HELD, an open one open. -/
theorem five_holdFnQueues (h : (qAt s q).state = 5) : (qAt (holdFnQueues s n) q).state = 5 := by
  unfold holdFnQueues
  rw [(updateLtr_only _).same (.queue .state) (by decide +kernel) q]
  refine foldl_keeps (P := fun t => (qAt t q).state = 5) _ (fun t m _ ht => ?_) h
  split
  · exact state_holdQueue_five ht
  · exact ht

theorem open_holdFnQueues (h : Open q s) : Open q (holdFnQueues s n) := by
  have hfold : Open q ((queueNums s).foldl (fun t q => if (qAt t q).fn == n && !(qAt t q).bx then holdQueue t q else t) s) :=
    foldl_keeps (P := Open q) _ (fun t m _ ht => by
      split
      · exact open_holdQueue ht
      · exact ht) h
  unfold holdFnQueues Open at *
  rw [(updateLtr_only _).same (.queue .state) (by decide +kernel) q]
  exact hfold

end

end Sys2Proof.Holding
end

section
/-! PROOF. VF Enable, Bus Master Enable, D3hot and D0, MSI-X Enable (R119, R126, R128, R129, R132, R133, R136). -/

namespace Sys2Proof.FunctionsSleep

open Sys2Proof Sys2Proof.Machine Sys2Proof.Claims Sys2Proof.Frames Sys2Proof.Holding Sys2Proof.Compare

section
variable {s t : State} {fn n k q : Nat}

/-! ## VFs that appear -/

/-- Vectors of the VF that appears (R129). -/
def vfVectors (s : State) (n : Nat) : Nat := match padOfFn s n with
  | some p => (padRec s p).msixPerVf
  | none => 1

/-- One VF appears. -/
def addVf (t : State) (i : Nat) : State := modFn t (i + 1) fun f => { f with present := true, vecSize := vfVectors t (i + 1) }

theorem addVf_only (t : State) (i : Nat) : Only [.fn .present, .fn .vecSize] t (addVf t i) := by
  unfold addVf
  refine modFn_in ?_ (Only.refl _ t)
  exact Fn.set_present_vecSize (by decide +kernel) (FnReg.refl _ _)

theorem addVfs_only (l : List Nat) (s : State) : Only [.fn .present, .fn .vecSize] s (l.foldl addVf s) :=
  Only.foldl l addVf_only (Only.refl _ s)

theorem enableVfs_eq (hoff : s.port.vfEnable = false) (hboot : s.sys.bootState ≤ 1) :
    enableVfs s k = (List.range (min k 64)).foldl addVf { s with port := { s.port with vfEnable := true, numVfs := min k 64 } } := by
  have hnot : ¬(s.port.vfEnable || decide (2 ≤ s.sys.bootState)) = true := by simp [hoff]; omega
  unfold enableVfs
  rw [if_neg hnot]
  rfl

theorem vfVectors_of_only (h : Only [.fn .present, .fn .vecSize] s t) (n : Nat) : vfVectors t n = vfVectors s n := by
  unfold vfVectors padOfFn padPresent padRec
  rw [plan_of_only h (by decide +kernel)]

theorem fnAt_addVf (t : State) (i n : Nat) :
    fnAt (addVf t i) n = if n = i + 1 then { fnAt t n with present := true, vecSize := vfVectors t n } else fnAt t n := by
  by_cases hn : n = i + 1
  · subst hn
    rw [addVf, fnAt_modFn_self, if_pos rfl]
  · rw [addVf, fnAt_modFn_other hn, if_neg hn]

theorem fnAt_addVfs (m : Nat) (s : State) (n : Nat) :
    fnAt ((List.range m).foldl addVf s) n =
      if 1 ≤ n ∧ n ≤ m then { fnAt s n with present := true, vecSize := vfVectors s n } else fnAt s n := by
  induction m with
  | zero => rw [if_neg (by omega)]; rfl
  | succ m ih =>
    rw [List.range_succ, List.foldl_append]
    show fnAt (addVf ((List.range m).foldl addVf s) m) n = _
    rw [fnAt_addVf, ih, vfVectors_of_only (addVfs_only _ s)]
    by_cases hn : n = m + 1
    · rw [if_pos hn, if_neg (by omega), if_pos (by omega)]
    · rw [if_neg hn]
      by_cases hm : 1 ≤ n ∧ n ≤ m
      · rw [if_pos hm, if_pos (by omega)]
      · rw [if_neg hm, if_neg (by omega)]

/-! ## VFs that disappear -/

/-- One VF disappears, reset (R128). -/
def dropVf (t : State) (n : Nat) : State := modFn (resetFn t n) n fun f => { f with present := false }

theorem dropVfs_eq (s : State) (k : Nat) : dropVfs s k = ((List.range 65).filter fun n => k < n && (fnAt s n).present).foldl dropVf s := rfl

theorem mem_dropped : n ∈ (List.range 65).filter (fun n => k < n && (fnAt s n).present) ↔ n < 65 ∧ k < n ∧ (fnAt s n).present = true := by
  simp

theorem fnAt_dropVf_other {m : Nat} (h : n ≠ m) : fnAt (dropVf t m) n = fnAt t n := by
  unfold dropVf resetFn
  rw [fnAt_modFn_other h, fnAt_of_only (holdFnQueues_only _ _) (by decide +kernel), fnAt_modFn_other h]

theorem absent_dropVf {m : Nat} (h : n = m ∨ (fnAt t n).present = false) : (fnAt (dropVf t m) n).present = false := by
  by_cases hm : n = m
  · subst hm
    unfold dropVf
    rw [fnAt_modFn_self]
  · rw [fnAt_dropVf_other hm]
    exact h.resolve_left hm

theorem absent_dropVfs (hk : k < n) (hn : n < 65) : (fnAt (dropVfs s k) n).present = false := by
  rw [dropVfs_eq]
  by_cases hp : (fnAt s n).present = true
  · exact foldl_reaches (f := dropVf) (I := fun _ => True) (P := fun t => (fnAt t n).present = false) (mem_dropped.mpr ⟨hn, hk, hp⟩) (fun _ _ _ _ => trivial)
      (fun _ _ _ ht => absent_dropVf (.inr ht)) (fun _ _ => absent_dropVf (.inl rfl)) trivial
  · exact foldl_keeps (P := fun t => (fnAt t n).present = false) _ (fun _ _ _ ht => absent_dropVf (.inr ht)) (Bool.eq_false_of_not_eq_true hp)

theorem fnAt_dropVfs_kept (hn : n ≤ k) : fnAt (dropVfs s k) n = fnAt s n := by
  rw [dropVfs_eq]
  refine foldl_keeps (P := fun t => fnAt t n = fnAt s n) _ (fun t m hm ht => ?_) rfl
  have hkm := (mem_dropped.mp hm).2.1
  exact (fnAt_dropVf_other (by omega)).trans ht

theorem qAt_dropVf (t : State) (m q : Nat) : qAt (dropVf t m) q = qAt (holdFnQueues (modFn t m resetFnHif) m) q := rfl

theorem owner_holdFnQueues (t : State) (m q : Nat) : (qAt (holdFnQueues t m) q).fn = (qAt t q).fn ∧ (qAt (holdFnQueues t m) q).bx = (qAt t q).bx :=
  ⟨(holdFnQueues_only t m).same (.queue .fn) (by decide +kernel) q, (holdFnQueues_only t m).same (.queue .bx) (by decide +kernel) q⟩

theorem held_dropVfs (hk : k < (qAt s q).fn) (hn : (qAt s q).fn < 65) (hp : (fnAt s (qAt s q).fn).present = true) (hbx : (qAt s q).bx = false)
    (ho : Open q s) : (qAt (dropVfs s k) q).state = 5 := by
  rw [dropVfs_eq]
  refine foldl_reaches (I := fun t => Open q t ∧ (qAt t q).fn = (qAt s q).fn ∧ (qAt t q).bx = false) (P := fun t => (qAt t q).state = 5)
    (mem_dropped.mpr ⟨hn, hk, hp⟩) (fun t m _ ht => ?_) (fun t m _ ht => ?_) (fun t ht => ?_) ⟨ho, rfl, hbx⟩
  · obtain ⟨hown, hb⟩ := owner_holdFnQueues (modFn t m resetFnHif) m q
    exact ⟨open_holdFnQueues (s := modFn t m resetFnHif) ht.1, hown.trans ht.2.1, hb.trans ht.2.2⟩
  · rw [qAt_dropVf]
    exact five_holdFnQueues (s := modFn t m resetFnHif) ht
  · rw [qAt_dropVf]
    exact held_holdFnQueues (s := modFn t _ resetFnHif) ht.2.1 ht.2.2 ht.1

/-! ## Return to D0 -/

/-- The wake counts of a function's vectors are clear (R136). -/
def WakesClear (n : Nat) (s : State) : Prop := ∀ v, (vecAt s n v).wakeCount = 0 ∧ (vecAt s n v).wakeTimer = false ∧ (vecAt s n v).wakeEvent = false

theorem WakesClear.of_only {l : List Part} (h : WakesClear n s) (ho : Only l s t) (hl : Part.fn .vecs ∉ l) : WakesClear n t := fun v => by
  rw [vecAt_of_only ho hl]
  exact h v

theorem WakesClear.modVec {g : Vec → Vec} (h : WakesClear n s) (m v : Nat)
    (hg : ∀ x, (g x).wakeCount = x.wakeCount ∧ (g x).wakeTimer = x.wakeTimer ∧ (g x).wakeEvent = x.wakeEvent) : WakesClear n (modVec s m v g) := fun w => by
  rw [vecAt_modVec]
  split
  next hw =>
    obtain ⟨hcount, htimer, hevent⟩ := hg (vecAt s m v)
    rw [hcount, htimer, hevent, ← hw.1]
    exact h v
  next => exact h w

theorem wakesClear_dueVec {m v : Nat} (h : WakesClear n s) : WakesClear n (dueVec s m v) := by
  unfold dueVec
  dsimp only
  split
  · exact h
  split
  · exact h.modVec m v fun _ => ⟨rfl, rfl, rfl⟩
  split
  · exact h.modVec m v fun _ => ⟨rfl, rfl, rfl⟩
  · exact WakesClear.modVec (s := { s with port := { s.port with linkState := 0 } })
      (g := fun x => { x with pending := 0, timerRun := false, pba := false, due := false }) h m v fun _ => ⟨rfl, rfl, rfl⟩

/-- Issuing a held completion without its cause changes no vector. -/
theorem issueHead_held_only (s : State) (j : Job) :
    Only [.sys .timeJournal, .en .padEnergy, .port .linkState, .fn .cmpExpect, .fn .cmpSpoiled, .fn .cmpEq, .fn .cmpNe, .queue .ring, .queue .ringSecret,
      .pad .results, .pad .mrs, .pad .diags, .jn .seq, .tk .slots, .tk .blobs, .core .mem, .jobs, .yard, .out] s (issueHead s j false) := by
  unfold issueHead
  simp only [Bool.false_eq_true, if_false]
  have houtputs : Only [.port .linkState, .core .mem, .out] s (if j.status = 0 then writeOutputs s j else s) := by
    split
    · exact writeOutputs_only s j
    · exact Only.refl _ s
  generalize (if j.status = 0 then writeOutputs s j else s) = s1 at houtputs
  have hfirst : ∀ u, Only [.sys .timeJournal, .fn .cmpSpoiled, .fn .cmpEq, .fn .cmpNe, .pad .results, .pad .mrs, .pad .diags, .jn .seq, .tk .slots,
      .tk .blobs] u (if j.issued then u else firstIssue u j) := fun u => by
    split
    · exact Only.refl _ u
    · exact firstIssue_only u j
  have hclear : ∀ u, Only [.fn .cmpExpect, .fn .cmpSpoiled, .fn .cmpEq, .fn .cmpNe, .pad .results] u
      (if j.status / 256 = 0x0C then clearDigests u j.paddock else u) := fun u => by
    split
    · exact clearDigests_only u _
    · exact Only.refl _ u
  refine Only.then (hclear _) (by decide +kernel) (put_en ?_ ?_)
  · exact Energy.set_padEnergy (by decide +kernel) (EnReg.refl _ _)
  · exact Only.then (modJob_only ..) (by decide +kernel) (Only.then (hfirst _) (by decide +kernel)
      (Only.then (writeCompletion_only ..) (by decide +kernel) (houtputs.mono (by decide +kernel))))

theorem wakesClear_issueHeld {fuel : Nat} (h : WakesClear n s) : WakesClear n (issueHeld s q fuel) := by
  induction fuel generalizing s with
  | zero => exact h
  | succ fuel ih =>
    unfold issueHeld
    split
    · exact h
    split
    · exact ih (h.of_only (issueHead_held_only _ _) (by decide +kernel))
    · exact h

theorem wakesClear_countCause {j : Job} (h : WakesClear n s) : WakesClear n (countCause s j) := by
  unfold countCause
  dsimp only
  split
  · exact h
  · exact h.modVec _ _ fun _ => ⟨rfl, rfl, rfl⟩

theorem wakesClear_writeHeld {m : Nat} (h : WakesClear n s) : WakesClear n (writeHeld s m) := by
  unfold writeHeld
  refine foldl_keeps (P := WakesClear n) _ (fun t j _ ht => ?_) (foldl_keeps (P := WakesClear n) _ (fun t q _ ht => wakesClear_issueHeld ht) h)
  split
  · split
    · exact wakesClear_countCause ht
    · exact ht
  · exact ht

theorem wakesClear_wakeFn (h : (fnAt s n).dState ≠ 0) : WakesClear n (wakeFn s n) := by
  unfold wakeFn
  rw [if_neg h]
  refine foldl_keeps (P := WakesClear n) _ (fun t v _ ht => wakesClear_dueVec ht) (wakesClear_writeHeld ?_)
  refine WakesClear.of_only ?_ (payShadows_only _ _) (by decide +kernel)
  intro v
  unfold vecAt
  rw [fnAt_modFn_self]
  exact smGet_smMap_of_all (P := fun x : Vec => x.wakeCount = 0 ∧ x.wakeTimer = false ∧ x.wakeEvent = false) (fun _ _ => ⟨rfl, rfl, rfl⟩)
    ⟨rfl, rfl, rfl⟩ _ _

theorem awake_wakeFn (s : State) (n : Nat) : (fnAt (wakeFn s n) n).dState = 0 := by
  unfold wakeFn
  split
  next h => exact h
  next h =>
    rw [(dueVecs_only ..).same (.fn .dState) (by decide +kernel) n, (writeHeld_only ..).same (.fn .dState) (by decide +kernel) n,
      (payShadows_only ..).same (.fn .dState) (by decide +kernel) n, fnAt_modFn_self]

theorem bme_setBme (s : State) (n : Nat) : (fnAt (setBme s n) n).bme = true := by
  unfold setBme
  split
  next h => exact h
  next h =>
    rw [(dueVecs_only ..).same (.fn .bme) (by decide +kernel) n, (releaseHeld_only ..).same (.fn .bme) (by decide +kernel) n,
      (payShadows_only ..).same (.fn .bme) (by decide +kernel) n, fnAt_modFn_self]

theorem msixEn_setMsix (s : State) (n : Nat) : (fnAt (setMsix s n) n).msixEn = true := by
  unfold setMsix
  split
  next h => exact h
  next h => rw [(dueVecs_only ..).same (.fn .msixEn) (by decide +kernel) n, fnAt_modFn_self]

end

/-- Settles O15: the functions that appear and disappear one by one, and what each of the four bits sets. -/
theorem functionsComeAndSleep : Obligations.FunctionsComeAndSleep := by
  unfold Obligations.FunctionsComeAndSleep
  intro s fn
  refine ⟨fun k hreach hoff hboot => ?enable, fun k hreach hon hk => ?lower, fun hreach => ⟨?bme, ?sleep, ?wake, ?msix⟩⟩
  case enable =>
    refine ⟨_, congrArg Host.Outcome.next (if_pos hreach), ?_⟩
    rw [enableVfs_eq hoff hboot]
    refine ⟨port_of_only (addVfs_only _ _) (by decide +kernel), fun n h1 hn => ?_, fun n hn => ?_⟩
    · rw [fnAt_addVfs, if_pos ⟨h1, hn⟩]
      exact ⟨rfl, rfl⟩
    · rw [fnAt_addVfs, if_neg (by omega)]
      rfl
  case lower =>
    refine ⟨_, congrArg Host.Outcome.next (if_pos hreach), ?_⟩
    have hlower : lowerVfs s k = { dropVfs s k with port := { (dropVfs s k).port with vfEnable := k != 0, numVfs := k } } := by
      unfold lowerVfs
      rw [if_neg (by simp [hon]; omega)]
    rw [hlower]
    refine ⟨rfl, rfl, fun n hkn hn => absent_dropVfs hkn hn, fun n hn => fnAt_dropVfs_kept hn, fun q hkq hq hp hbx hstate => held_dropVfs hkq hq hp hbx ?_⟩
    simp only [List.mem_cons, List.not_mem_nil, or_false] at hstate
    unfold Open
    omega
  case bme => exact ⟨_, congrArg Host.Outcome.next (if_pos hreach), bme_setBme s fn⟩
  case sleep => exact congrArg Host.Outcome.next (if_pos hreach)
  case wake => exact ⟨_, congrArg Host.Outcome.next (if_pos hreach), awake_wakeFn s fn, fun hd _ v => wakesClear_wakeFn hd v⟩
  case msix => exact ⟨_, congrArg Host.Outcome.next (if_pos hreach), msixEn_setMsix s fn⟩

end Sys2Proof.FunctionsSleep
end

section
/-! PROOF. Masks, moderation and timers of the interrupt vectors (R131 to R136). -/

namespace Sys2Proof.Interrupts

open Sys2Proof Sys2Proof.Machine Sys2Proof.Claims Sys2Proof.Frames Sys2Proof.Holding

section
variable {s t : State} {fn v : Nat}

/-- A message of the vector went out, and what it counted is clear (R131). -/
def Sent (s t : State) (fn v : Nat) : Prop :=
  t.out = s.out ++ [.msix fn v] ∧ (vecAt t fn v).pending = 0 ∧ (vecAt t fn v).timerRun = false ∧ (vecAt t fn v).pba = false

theorem dueVec_sent (h : MayInterrupt s fn v) : Sent s (dueVec s fn v) fn v ∧ (vecAt (dueVec s fn v) fn v).cntMax = (vecAt s fn v).cntMax := by
  obtain ⟨hen, hfn, hmask, hmay⟩ := h
  have hdue : dueVec s fn v = emit (modVec { s with port := { s.port with linkState := 0 } } fn v fun x =>
      { x with pending := 0, timerRun := false, pba := false, due := false }) (.msix fn v) := by
    unfold dueVec
    simp only [hen, hfn, hmask, hmay, Bool.not_true, Bool.or_self, Bool.false_eq_true, if_false]
  have hvec : vecAt (dueVec s fn v) fn v = { vecAt s fn v with pending := 0, timerRun := false, pba := false, due := false } := by
    rw [hdue]
    exact vecAt_modVec_self { s with port := { s.port with linkState := 0 } } fn v fun x => { x with pending := 0, timerRun := false, pba := false, due := false }
  rw [Sent, hvec]
  exact ⟨⟨by rw [hdue]; rfl, rfl, rfl, rfl⟩, rfl⟩

theorem dueVec_masked (hen : (fnAt s fn).msixEn = true) (hmask : (vecAt s fn v).mask = true) :
    dueVec s fn v = modVec s fn v fun x => { x with pba := true, due := false } := by
  unfold dueVec
  simp only [hen, hmask, Bool.not_true, Bool.or_true, Bool.false_eq_true, if_false, if_true]

/-- A message that falls due masks nothing. -/
theorem mask_dueVec (s : State) (n w : Nat) : (vecAt (dueVec s n w) fn v).mask = (vecAt s fn v).mask := by
  have hmod : ∀ (u : State) (g : Vec → Vec), (∀ x, (g x).mask = x.mask) → (vecAt (modVec u n w g) fn v).mask = (vecAt u fn v).mask := fun u g hg => by
    rw [vecAt_modVec]
    split
    next h => rw [hg, h.1, h.2]
    next => rfl
  unfold dueVec
  dsimp only
  split
  · rfl
  split
  · exact hmod s (fun x => { x with pba := true, due := false }) fun _ => rfl
  split
  · exact hmod s (fun x => { x with due := true }) fun _ => rfl
  · exact hmod { s with port := { s.port with linkState := 0 } } (fun x => { x with pending := 0, timerRun := false, pba := false, due := false }) fun _ => rfl

/-! ## Unmasking -/

theorem keys_nodup {α : Type} [DecidableEq α] {d : α} {m : SMap α} {lo : Nat} (h : smWfFrom d lo m = true) :
    (smKeys m).Nodup ∧ ∀ k ∈ smKeys m, lo ≤ k := by
  induction m generalizing lo with
  | nil => exact ⟨List.nodup_nil, fun k hk => absurd hk List.not_mem_nil⟩
  | cons e m ih =>
    obtain ⟨k, x⟩ := e
    simp only [smWfFrom, Bool.and_eq_true, decide_eq_true_eq] at h
    obtain ⟨⟨hlo, -⟩, hrest⟩ := h
    obtain ⟨hnodup, hge⟩ := ih hrest
    refine ⟨List.nodup_cons.mpr ⟨fun hk => absurd (hge k hk) (by omega), hnodup⟩, fun j hj => ?_⟩
    rcases List.mem_cons.mp hj with rfl | hj
    · exact hlo
    · exact le_trans (by omega) (hge j hj)

theorem eq_singleton_of_nodup {l : List Nat} {a : Nat} (hl : l.Nodup) (ha : a ∈ l) (h : ∀ x ∈ l, x = a) : l = [a] := by
  match l, hl with
  | [x], _ => rw [h x (List.mem_singleton.mpr rfl)]
  | x :: y :: r, hl =>
    refine absurd hl ?_
    rw [h x (List.mem_cons_self ..), h y (List.mem_cons_of_mem _ (List.mem_cons_self ..))]
    simp

/-- Only the vector that has been unmasked holds a message: it alone falls due. -/
theorem dueVecs_single {f : Vec → Bool} (hwf : smWf {} (fnAt s fn).vecs = true) (hv : f (vecAt s fn v) = true) (hdefault : f {} = false)
    (hothers : ∀ w, w ≠ v → f (vecAt s fn w) = false) : dueVecs s fn f = dueVec s fn v := by
  have hlist : vecsWith s fn f = [v] := by
    refine eq_singleton_of_nodup (List.Nodup.filter _ (keys_nodup hwf).1) (List.mem_filter.mpr ⟨?_, hv⟩) fun w hw => ?_
    · refine mem_smKeys_of_smGet_ne (d := ({} : Vec)) fun hd => ?_
      have hnone : f (vecAt s fn v) = false := by
        unfold vecAt
        rw [hd]
        exact hdefault
      exact absurd (hv.symm.trans hnone) (by simp)
    · by_contra hne
      exact absurd ((List.mem_filter.mp hw).2.symm.trans (hothers w hne)) (by simp)
  unfold dueVecs
  rw [hlist]
  rfl

theorem mask_dueVecs (s : State) (n : Nat) (f : Vec → Bool) : (vecAt (dueVecs s n f) fn v).mask = (vecAt s fn v).mask :=
  foldl_keeps (P := fun t => (vecAt t fn v).mask = (vecAt s fn v).mask) _ (fun t w _ ht => (mask_dueVec t n w).trans ht) rfl

/-- An unmasked vector of an unmasked function that holds a message sends it (R132). -/
theorem unmask_vector (hfn : (fnAt s fn).fnMask = false) :
    (vecAt (unmask s fn (some v)) fn v).mask = false ∧
      (smWf {} (fnAt s fn).vecs = true → (∀ w, w ≠ v → (vecAt s fn w).pba = false) → (vecAt s fn v).pba = true → (fnAt s fn).msixEn = true →
        mayIssue s fn = true → Sent s (unmask s fn (some v)) fn v) := by
  have hfn1 : fnAt (modVec s fn v fun x => { x with mask := false }) fn =
      { fnAt s fn with vecs := smSet {} (fnAt s fn).vecs v { smGet {} (fnAt s fn).vecs v with mask := false } } := fnAt_modFn_self ..
  have hself := vecAt_modVec_self s fn v fun x => { x with mask := false }
  have hunmask : unmask s fn (some v) = dueVecs (modVec s fn v fun x => { x with mask := false }) fn fun x => x.pba && !x.mask := by
    unfold unmask
    dsimp only
    rw [if_neg (by rw [hfn1]; simp [hfn])]
  rw [hunmask]
  refine ⟨by rw [mask_dueVecs, hself], fun hwf hothers hpba hen hmay => ?_⟩
  rw [dueVecs_single (v := v) ?_ ?_ rfl fun w hw => ?_]
  · refine (dueVec_sent ⟨?_, ?_, ?_, ?_⟩).1
    · rw [hfn1]; exact hen
    · rw [hfn1]; exact hfn
    · rw [hself]
    · unfold mayIssue at hmay ⊢
      rw [hfn1]
      exact hmay
  · rw [hfn1]
    exact smWf_smSet _ v _ hwf
  · rw [hself]
    simp [hpba]
  · rw [vecAt_modVec, if_neg fun h => hw h.2, hothers w hw]
    rfl

/-! ## Moderation -/

/-- The vector with the count and the time of a HI_VEC_MOD write (Table 06.9). -/
def moderated (s : State) (fn v : Nat) (x : W64) : State :=
  modVec s fn v fun y => { y with cntMax := bits x.toNat 0 11, timeUs := bits x.toNat 16 10 }

theorem mayInterrupt_moderated (x : W64) (h : MayInterrupt s fn v) : MayInterrupt (moderated s fn v x) fn v := by
  obtain ⟨hen, hfn, hmask, hmay⟩ := h
  have hf : fnAt (moderated s fn v x) fn = { fnAt s fn with
      vecs := smSet {} (fnAt s fn).vecs v { smGet {} (fnAt s fn).vecs v with cntMax := bits x.toNat 0 11, timeUs := bits x.toNat 16 10 } } :=
    fnAt_modFn_self ..
  refine ⟨by rw [hf]; exact hen, by rw [hf]; exact hfn, by rw [moderated, vecAt_modVec_self]; exact hmask, ?_⟩
  unfold mayIssue at hmay ⊢
  rw [hf]
  exact hmay

/-! ## Wake counts -/

theorem dueWake_event (hperst : s.sys.perstN = true) (hevent : (vecAt s fn v).wakeEvent = true) (hpme : (fnAt s fn).pmeEn = true) :
    (dueWake s fn v).out = s.out ++ [.pme fn] ∧ (fnAt (dueWake s fn v) fn).pmeStatus = true ∧ (vecAt (dueWake s fn v) fn v).wakeCount = 0 ∧
      (vecAt (dueWake s fn v) fn v).wakeEvent = false := by
  have hdue : dueWake s fn v = emit (modFn (modVec s fn v fun x => { x with wakeCount := 0, wakeTimer := false, wakeEvent := false }) fn fun f =>
      { f with pmeStatus := true }) (.pme fn) := by
    unfold dueWake
    simp only [hevent, hperst, hpme, Bool.or_true, Bool.not_true, Bool.false_eq_true, if_false, if_true]
  have hvec : vecAt (dueWake s fn v) fn v = { vecAt s fn v with wakeCount := 0, wakeTimer := false, wakeEvent := false } := by
    rw [hdue]
    refine (vecAt_of_fnAt (s := modVec s fn v fun x => { x with wakeCount := 0, wakeTimer := false, wakeEvent := false }) ?_ v).trans
      (vecAt_modVec_self s fn v fun x => { x with wakeCount := 0, wakeTimer := false, wakeEvent := false })
    rw [fnAt_emit, fnAt_modFn_self]
  rw [hvec]
  refine ⟨by rw [hdue]; rfl, ?_, rfl, rfl⟩
  rw [hdue, fnAt_emit, fnAt_modFn_self]

end

/-- Settles O16: each command makes one vector's message due, or its wake count, where the registers and masks let it. -/
theorem interruptMessages : Obligations.InterruptMessages := by
  unfold Obligations.InterruptMessages
  intro s fn v
  dsimp only
  refine ⟨fun hup hpad hv hfn => ?vector, fun hreach => ?function, fun x size p hat hv hsize => ?moderate, fun x size p hat hv h4 h8 => ?denied,
    fun hrun hmay => ?timer, fun hrun hen hmask => ?masked, fun hwake hd hperst hevent hpme => ?wake, fun sub clk hup hl1 => ?aspm⟩
  case vector => exact ⟨_, congrArg Host.Outcome.next (if_pos (by simp [hup, hpad, hv])), unmask_vector hfn⟩
  case function =>
    refine ⟨_, congrArg Host.Outcome.next (if_pos hreach), ?_⟩
    unfold unmask
    dsimp only
    have hfn : (fnAt (modFn s fn fun f => { f with fnMask := false }) fn).fnMask = false := by rw [fnAt_modFn_self]
    rw [if_neg (by rw [hfn]; simp), (dueVecs_only ..).same (.fn .fnMask) (by decide +kernel) fn]
    exact hfn
  case moderate =>
    obtain ⟨hup, hpad⟩ := hat
    have hexec : exec (.hiVecModWrite fn v x size) s = .next (if thresholdMet (moderated s fn v x) (vecAt (moderated s fn v x) fn v) then
        dueVec (moderated s fn v x) fn v else moderated s fn v x) := by
      show execHiVecModWrite fn v x size s = _
      unfold execHiVecModWrite
      rw [if_neg (by simp [hup, hpad]; omega), if_neg (by omega)]
      rfl
    rw [hexec]
    refine ⟨fun hnot => congrArg Host.Outcome.next (if_neg (by unfold moderated; rw [hnot]; exact Bool.false_ne_true)), fun hmet hmay => ⟨_, congrArg Host.Outcome.next (if_pos hmet), ?_⟩⟩
    obtain ⟨hsent, hcnt⟩ := dueVec_sent (mayInterrupt_moderated x hmay)
    exact ⟨hsent, hcnt.trans (by rw [moderated, vecAt_modVec_self])⟩
  case denied =>
    obtain ⟨hup, hpad⟩ := hat
    show execHiVecModWrite fn v x size s = _
    unfold execHiVecModWrite
    rw [if_neg (by simp [hup, hpad]; omega), if_pos ⟨h4, h8⟩]
  case timer => exact ⟨_, congrArg Host.Outcome.next (if_pos hrun), (dueVec_sent hmay).1⟩
  case masked => exact congrArg Host.Outcome.next ((if_pos hrun).trans (dueVec_masked hen hmask))
  case wake => exact ⟨_, congrArg Host.Outcome.next (if_pos (by simp [hwake, fnSleeps, hd])), dueWake_event hperst hevent hpme⟩
  case aspm => exact congrArg Host.Outcome.next (if_pos (by rw [hup, hl1]; rfl))

end Sys2Proof.Interrupts
end

section
/-! PROOF. A read of host memory that fails once, and twice (R126, R138, R143, R191, R409). -/

namespace Sys2Proof.HostReads

open Sys2Proof Sys2Proof.Machine Sys2Proof.Claims Sys2Proof.Frames Sys2Proof.PadReset Sys2Proof.JobRuns Sys2Proof.ScalarOps

section
variable {s t : State} {n q kind seq : Nat} {j : Job}

/-- What is not due stays so where neither the collector nor a paddock's replay is touched. -/
theorem calm_of_only {l : List Part} (h : Calm s) (ho : Only l s t) (hesc : Part.fc .escNow ∉ l) (hretire : Part.fc .retireNow ∉ l)
    (howed : Part.pad .replayOwed ∉ l) : Calm t :=
  ⟨⟨(ho.same (.fc .escNow) hesc).trans h.1.1, (ho.same (.fc .retireNow) hretire).trans h.1.2⟩, fun p => (ho.same (.pad .replayOwed) howed p).trans (h.2 p)⟩

/-! ## The report of a failed read -/

theorem poisoned_readFails (h : 2 ≤ kind) : (fnAt (readFails s n kind) n).errPoisoned = true := by
  unfold readFails
  rw [if_pos h, (aer_only ..).same (.fn .errPoisoned) (by decide +kernel) n, fnAt_modFn_self]

theorem out_readFails (hm : aerMasked (fnAt s n).cfg (aerOf kind) = false) : (readFails s n kind).out = s.out ++ [.aer n (aerOf kind)] := by
  have hcfg : (fnAt (if 2 ≤ kind then modFn s n fun f => { f with errPoisoned := true } else s) n).cfg = (fnAt s n).cfg := by
    split
    · rw [fnAt_modFn_self]
    · rfl
  have hout : (if 2 ≤ kind then modFn s n fun f => { f with errPoisoned := true } else s).out = s.out := by split <;> rfl
  unfold readFails aer
  dsimp only
  rw [hcfg, hm, if_neg Bool.false_ne_true]
  exact congrArg (· ++ [Emission.aer n (aerOf kind)]) hout

theorem mayIssue_of_only {l : List Part} (ho : Only l s t) (hbme : Part.fn .bme ∉ l) (hd : Part.fn .dState ∉ l)
    (hsys : (SysReg.all.any fun r => l.contains (.sys r)) = false) (hport : Part.port .linkUp ∉ l)
    (hen : (EnReg.all.any fun r => l.contains (.en r)) = false) (hjn : (JnReg.all.any fun r => l.contains (.jn r)) = false) (m : Nat) :
    mayIssue t m = mayIssue s m := by
  unfold mayIssue frozen
  rw [ho.same (.fn .bme) hbme m, ho.same (.fn .dState) hd m, sys_of_only ho hsys, ho.same (.port .linkUp) hport, en_of_only ho hen, jn_of_only ho hjn]

theorem out_retryRead (addr len : Nat) : (retryRead s n addr len).out = s.out ++ (if mayIssue s n then [.readRequest n addr len] else []) := by
  unfold retryRead
  split
  · rfl
  · simp

theorem noted (s : State) (n q : Nat) (job : Bool) (kind : Nat) :
    let f := fnAt (noteFail s n q job kind) n
    f.errQueue = q ∧ f.errJob = job ∧ (kind = 0 → f.errTimeout = true) ∧ (kind = 1 → f.errUrCa = true) ∧ f.errPoisoned = (fnAt s n).errPoisoned := by
  unfold noteFail
  dsimp only
  rw [fnAt_modFn_self]
  refine ⟨rfl, rfl, fun h => ?_, fun h => ?_, rfl⟩
  · simp [h]
  · simp [h]

/-! ## The fetch of a descriptor -/

theorem fetchFails_eq (hstate : (qAt s q).state = 1) (hbx : (qAt s q).bx = false) (hfetch : (qAt s q).fetchFailed = none)
    (hcopies : (qAt s q).copies.length < dist (qAt s q).k (qAt s q).a (qAt s q).p) :
    fetchFails s q kind =
      if (qAt s q).fetchTried = some (nextFetch (qAt s q)) then
        noteFail (modQ (readFails s (qAt s q).fn kind) q fun y => { y with fetchTried := none, fetchFailed := some (nextFetch (qAt s q)) }) (qAt s q).fn q false kind
      else
        retryRead (modQ (readFails s (qAt s q).fn kind) q fun y => { y with fetchTried := some (nextFetch (qAt s q)) }) (qAt s q).fn
          (entryAddr (qAt s q) (nextFetch (qAt s q))) 128 := by
  unfold fetchFails
  rw [if_neg (by simp [hstate, hbx, hfetch]; omega)]

theorem fetch_first (hcalm : Calm s) (hstate : (qAt s q).state = 1) (hbx : (qAt s q).bx = false) (hfetch : (qAt s q).fetchFailed = none)
    (hcopies : (qAt s q).copies.length < dist (qAt s q).k (qAt s q).a (qAt s q).p)
    (htried : (qAt s q).fetchTried ≠ some (nextFetch (qAt s q))) :
    ∃ t, exec (.hostReadFail q none none kind) s = .next t ∧ qAt t q = { qAt s q with fetchTried := some (nextFetch (qAt s q)) } ∧
      (2 ≤ kind → (fnAt t (qAt s q).fn).errPoisoned = true) ∧
      (aerMasked (fnAt s (qAt s q).fn).cfg (aerOf kind) = false →
        t.out = s.out ++ [.aer (qAt s q).fn (aerOf kind)] ++
          (if mayIssue s (qAt s q).fn then [.readRequest (qAt s q).fn (entryAddr (qAt s q) (nextFetch (qAt s q))) 128] else [])) := by
  refine ⟨_, rfl, ?_⟩
  have hcalm' : Calm (fetchFails s q kind) := calm_of_only hcalm (fetchFails_only ..) (by decide +kernel) (by decide +kernel) (by decide +kernel)
  show qAt (settle (fetchFails s q kind)) q = _ ∧ _
  rw [settle_of_calm hcalm', fetchFails_eq hstate hbx hfetch hcopies, if_neg htried]
  refine ⟨?_, fun hk => ?_, fun hm => ?_⟩
  · rw [qAt_of_only (retryRead_only ..) (by decide +kernel), qAt_modQ_self, qAt_of_only (readFails_only ..) (by decide +kernel)]
  · rw [fnAt_of_only (retryRead_only ..) (by decide +kernel)]
    exact poisoned_readFails (s := s) hk
  · rw [out_retryRead]
    have hmay : mayIssue (modQ (readFails s (qAt s q).fn kind) q fun y => { y with fetchTried := some (nextFetch (qAt s q)) }) (qAt s q).fn =
        mayIssue s (qAt s q).fn := mayIssue_of_only (readFails_only s (qAt s q).fn kind) (by decide +kernel) (by decide +kernel) (by decide +kernel)
      (by decide +kernel) (by decide +kernel) (by decide +kernel) (qAt s q).fn
    rw [hmay]
    exact congrArg (· ++ _) (out_readFails (s := s) hm)

theorem fetch_second (hcalm : Calm s) (hstate : (qAt s q).state = 1) (hbx : (qAt s q).bx = false) (hfetch : (qAt s q).fetchFailed = none)
    (hcopies : (qAt s q).copies.length < dist (qAt s q).k (qAt s q).a (qAt s q).p)
    (htried : (qAt s q).fetchTried = some (nextFetch (qAt s q))) :
    ∃ t, exec (.hostReadFail q none none kind) s = .next t ∧
      qAt t q = { qAt s q with fetchTried := none, fetchFailed := some (nextFetch (qAt s q)) } ∧
      (aerMasked (fnAt s (qAt s q).fn).cfg (aerOf kind) = false → t.out = s.out ++ [.aer (qAt s q).fn (aerOf kind)]) ∧
      (fnAt t (qAt s q).fn).errQueue = q ∧ (fnAt t (qAt s q).fn).errJob = false ∧ (kind = 0 → (fnAt t (qAt s q).fn).errTimeout = true) ∧
      (kind = 1 → (fnAt t (qAt s q).fn).errUrCa = true) ∧ (2 ≤ kind → (fnAt t (qAt s q).fn).errPoisoned = true) := by
  refine ⟨_, rfl, ?_⟩
  have hcalm' : Calm (fetchFails s q kind) := calm_of_only hcalm (fetchFails_only ..) (by decide +kernel) (by decide +kernel) (by decide +kernel)
  show qAt (settle (fetchFails s q kind)) q = _ ∧ _
  rw [settle_of_calm hcalm', fetchFails_eq hstate hbx hfetch hcopies, if_pos htried]
  obtain ⟨hqueue, hjob, htime, hur, hpoison⟩ := noted
    (modQ (readFails s (qAt s q).fn kind) q fun y => { y with fetchTried := none, fetchFailed := some (nextFetch (qAt s q)) }) (qAt s q).fn q false kind
  refine ⟨?_, fun hm => out_readFails hm, hqueue, hjob, htime, hur, fun hk => hpoison.trans (poisoned_readFails (s := s) hk)⟩
  rw [qAt_of_only (noteFail_only ..) (by decide +kernel), qAt_modQ_self, qAt_of_only (readFails_only ..) (by decide +kernel)]

/-! ## An operand of a job -/

theorem operandFails_eq (hjob : jobOf s seq = some j) (hq : j.queue = q) (hbx : j.bx = false) (hfixed : j.fixed = 0)
    (hphase : j.phase = .running ∨ j.phase = .staged) (hretry : j.retrying = false) :
    operandFails s q seq kind =
      if !j.readFailed then
        retryRead (modJob (readFails s (qAt s q).fn kind) seq fun y => { y with readFailed := true }) (qAt s q).fn j.desc.in0Addr j.desc.in0Len
      else if j.issued then modJob (noteFail (readFails s (qAt s q).fn kind) (qAt s q).fn q true kind) seq fun y => { y with retrying := true }
      else finishJob (noteFail (readFails s (qAt s q).fn kind) (qAt s q).fn q true kind) seq (failWith 0x0C01) := by
  have hgo : ¬(j.queue ≠ q ∨ j.bx = true ∨ j.fixed ≠ 0 ∨ (j.phase ≠ .running ∧ j.phase ≠ .staged)) := by
    rintro (h | h | h | ⟨hrun, hstaged⟩)
    · exact h hq
    · simp [hbx] at h
    · exact h hfixed
    · exact hphase.elim hrun hstaged
  unfold operandFails
  simp only [hjob]
  rw [if_neg hgo, if_neg (by rw [hretry]; exact Bool.false_ne_true)]

theorem jobOf_noted (q' : Nat) (job : Bool) : jobOf (noteFail (readFails s n kind) n q' job kind) seq = jobOf s seq :=
  jobOf_congr (((noteFail_only ..).same .jobs (by decide +kernel)).trans ((readFails_only ..).same .jobs (by decide +kernel))) seq

theorem operand_issued (hjob : jobOf s seq = some j) :
    let t := modJob (noteFail (readFails s n kind) n q true kind) seq fun y => { y with retrying := true }
    jobOf t seq = some { j with retrying := true } ∧ (fnAt t n).errJob = true := by
  obtain ⟨-, herr, -⟩ := noted (readFails s n kind) n q true kind
  refine ⟨?_, herr⟩
  rw [jobOf_modJob (g := fun y => { y with retrying := true }) (fun _ => rfl) (fun _ hl => hl), jobOf_noted, hjob]
  rfl

theorem operand_ends (hjob : jobOf s seq = some j) (hissued : j.issued = false) :
    let t := finishJob (noteFail (readFails s n kind) n q true kind) seq (failWith 0x0C01)
    ∃ k, jobOf t seq = some k ∧ k.phase = .finished ∧ k.status = 0x0C01 ∧ k.out0 = none ∧ k.out1 = none ∧ (fnAt t n).errJob = true ∧ (fnAt t n).errQueue = q := by
  obtain ⟨hqueue, herr, -⟩ := noted (readFails s n kind) n q true kind
  obtain ⟨e, he⟩ := jobOf_endJob ((jobOf_noted q true).trans hjob) (failWith 0x0C01) true
  rw [keepStatus_of_not_issued hissued] at he
  dsimp only
  rw [fnAt_of_only (finishJob_only ..) (by decide +kernel)]
  exact ⟨_, he, rfl, rfl, rfl, rfl, herr, hqueue⟩

/-! ## The image of a core -/

theorem imageFails_eq {o : LoadOp} (hload : (coreAt s n).loading = some o) (hsource : o.source ≠ 2) :
    imageFails s n kind =
      if !o.tried then modCore (readFails s o.sender kind) n fun c => { c with loading := some { o with tried := true } }
      else modCore (stopCore (noteFail (readFails s o.sender kind) o.sender 0 true kind) n) n fun c => { c with cmdErr := 4 } := by
  unfold imageFails
  simp only [hload, hsource, if_false]

theorem image_second (sender : Nat) (hstate : (coreAt s n).state ≠ 0) :
    let t := modCore (stopCore (noteFail (readFails s sender kind) sender 0 true kind) n) n fun c => { c with cmdErr := 4 }
    (coreAt t n).state = 0 ∧ (coreAt t n).loading = none ∧ (coreAt t n).cmdErr = 4 := by
  have hkept : coreAt (noteFail (readFails s sender kind) sender 0 true kind) n = coreAt s n :=
    (coreAt_of_only (noteFail_only ..) (by decide +kernel) n).trans (coreAt_of_only (readFails_only ..) (by decide +kernel) n)
  dsimp only
  rw [coreAt_modCore_self, coreAt_stopCore (by rw [hkept]; exact hstate)]
  exact ⟨rfl, rfl, rfl⟩

theorem imageFails_calm (h : Calm s) : Calm (imageFails s n kind) :=
  calm_of_only h (imageFails_only ..) (by decide +kernel) (by decide +kernel) (by decide +kernel)

end

/-- Settles O18: each of the three reads goes through its first failure, a report and a retry, and its second, which is noted and ends what read. -/
theorem failedHostReads : Obligations.FailedHostReads := by
  unfold Obligations.FailedHostReads
  intro s q kind hcalm _
  dsimp only
  refine ⟨fun hstate hbx hfetch hcopies => ⟨fetch_first hcalm hstate hbx hfetch hcopies, fetch_second hcalm hstate hbx hfetch hcopies⟩,
    fun seq j hjob hq hbx hfixed hphase hretry => ?operand, fun n o hload hsource hstate => ?image⟩
  case operand =>
    have heq := operandFails_eq (kind := kind) hjob hq hbx hfixed hphase hretry
    have hdone : ∀ {l t}, Only l s t → Part.fc .escNow ∉ l → Part.fc .retireNow ∉ l → Part.pad .replayOwed ∉ l → operandFails s q seq kind = t →
        exec (.hostReadFail q (some seq) none kind) s = .next t := fun ho hesc hretire howed ht => by
      refine congrArg Host.Outcome.next ?_
      show settle (operandFails s q seq kind) = _
      rw [ht]
      exact settle_of_calm (calm_of_only hcalm ho hesc hretire howed)
    refine ⟨fun hread => ?_, fun hread hissued => ?_, fun hread hissued => ?_⟩
    · rw [hread] at heq
      exact hdone (l := [.fn .cfg, .fn .errPoisoned, .jobs, .yard, .out]) (Only.then (retryRead_only ..) (by decide +kernel)
        (Only.then (modJob_only ..) (by decide +kernel) ((readFails_only ..).mono (by decide +kernel)))) (by decide +kernel) (by decide +kernel)
        (by decide +kernel) heq
    · rw [hread, hissued] at heq
      obtain ⟨hrecord, herr⟩ := operand_issued (n := (qAt s q).fn) (kind := kind) (q := q) hjob
      exact ⟨_, hdone (l := [.fn .cfg, .fn .errPoisoned, .fn .errTimeout, .fn .errUrCa, .fn .errQueue, .fn .errJob, .jobs, .yard, .out])
        (Only.then (modJob_only ..) (by decide +kernel) (Only.then (noteFail_only ..) (by decide +kernel) ((readFails_only ..).mono (by decide +kernel))))
        (by decide +kernel) (by decide +kernel) (by decide +kernel) heq, hrecord, herr⟩
    · rw [hread, hissued] at heq
      obtain ⟨k, hk⟩ := operand_ends (n := (qAt s q).fn) (kind := kind) (q := q) hjob hissued
      exact ⟨_, k, hdone (l := Part.finishJob ++ [.fn .cfg, .fn .errPoisoned, .fn .errTimeout, .fn .errUrCa, .fn .errQueue, .fn .errJob, .out])
        (Only.then (finishJob_only ..) (by decide +kernel) (Only.then (noteFail_only ..) (by decide +kernel) ((readFails_only ..).mono (by decide +kernel))))
        (by decide +kernel) (by decide +kernel) (by decide +kernel) heq, hk⟩
  case image =>
    have heq := imageFails_eq (kind := kind) hload hsource
    have hexec : exec (.hostReadFail q none (some n) kind) s = .next (imageFails s n kind) :=
      congrArg Host.Outcome.next (settle_of_calm (imageFails_calm hcalm))
    refine ⟨fun htried => ?_, fun htried => ?_⟩
    · rw [hexec, heq, htried]
      rfl
    · rw [htried] at heq
      exact ⟨_, hexec.trans (congrArg Host.Outcome.next heq), image_second o.sender hstate⟩

end Sys2Proof.HostReads
end

section
/-! PROOF. Link tests and the test access port (R477 to R484; O58). -/

namespace Sys2Proof.LinkTap

open Sys2Proof Sys2Proof.Machine Sys2Proof.Claims Sys2Proof.Frames Sys2Proof.Holding Sys2Proof.PadReset

section
variable {s t : State} {n m v : Nat}

/-! ## The registers of a link test -/

theorem testAt_modTest (s : State) (n m : Nat) (f : LinkTest → LinkTest) : testAt (modTest s n f) m = if m = n then f (testAt s n) else testAt s m :=
  smGet_smMod ..

theorem testAt_modTest_self (s : State) (n : Nat) (f : LinkTest → LinkTest) : testAt (modTest s n f) n = f (testAt s n) := by
  rw [testAt_modTest, if_pos rfl]

theorem laneAt_modLane_self (s : State) (n : Nat) (f : Lane → Lane) : laneAt (modLane s n f) n = f (laneAt s n) :=
  (smGet_smMod ..).trans (if_pos rfl)

theorem lkUp_zero (h : regsUp s 0 = true) : lkUp s 0 = true := by simp [lkUp, h]

/-! ## Starting a test -/

theorem runTest_refused (hr : linkRefusal s s.lk.sel s.lk.selTarget ≠ 0) :
    runTest s v = modTest s s.lk.sel fun x => { x with err := linkRefusal s s.lk.sel s.lk.selTarget } := if_pos hr

theorem runTest_noPattern (hr : linkRefusal s s.lk.sel s.lk.selTarget = 0) (hp : patternOk s.lk.sel (bits v 0 3) = false) :
    runTest s v = modTest s s.lk.sel fun x => { x with err := 1 } := by
  rw [runTest, if_neg (by simp [hr]), if_pos (by simp [hp])]

theorem runTest_starts (hr : linkRefusal s s.lk.sel s.lk.selTarget = 0) (hp : patternOk s.lk.sel (bits v 0 3) = true) :
    runTest s v = startTest s s.lk.sel v := by
  rw [runTest, if_neg (by simp [hr]), if_neg (by simp [hp])]

theorem testAt_startTest (s : State) (n m v : Nat) : testAt (startTest s n v) m =
    if m = n then { pattern := bits v 0 3, fixed := bits v 16 16, target := s.lk.selTarget, running := true } else testAt s m := by
  unfold startTest
  dsimp only
  split
  · exact testAt_modTest ..
  · exact testAt_modTest ..

theorem sel_startTest (s : State) (n v : Nat) : (startTest s n v).lk.sel = s.lk.sel := by
  unfold startTest
  dsimp only
  split <;> rfl

theorem lane_startTest (hlo : 16 ≤ n) (hhi : n < 20) : (laneAt (startTest s n v) (n - 16)).state = 3 := by
  rw [startTest, if_pos ⟨hlo, hhi⟩, laneAt_modLane_self]

theorem testAt_injectBit (s : State) (m : Nat) : testAt (injectBit s) m =
    if m = s.lk.sel ∧ (testAt s s.lk.sel).running = true then { testAt s s.lk.sel with injected := (testAt s s.lk.sel).injected + 1 } else testAt s m := by
  rw [injectBit, testAt_modTest]
  by_cases hm : m = s.lk.sel
  · subst hm
    simp
  · simp [hm]

theorem linkTestStart_starts (w : W64) (hup : regsUp s 0 = true) (hrun : hasBit w.toNat 3 = true)
    (hr : linkRefusal s s.lk.sel s.lk.selTarget = 0) (hp : patternOk s.lk.sel (bits w.toNat 0 3) = true) :
    ∃ t, exec (.linkTestStart 0 w) s = .next t ∧ testAt t s.lk.sel = {
        pattern := bits w.toNat 0 3, fixed := bits w.toNat 16 16, target := s.lk.selTarget, running := true
        injected := if hasBit w.toNat 4 then 1 else 0 } ∧ (∀ m, m ≠ s.lk.sel → testAt t m = testAt s m) ∧
      (16 ≤ s.lk.sel → s.lk.sel < 20 → (laneAt t (s.lk.sel - 16)).state = 3) := by
  refine ⟨_, congrArg Host.Outcome.next (if_pos (by simp [lkUp_zero hup, hrun])), ?_⟩
  rw [runTest_starts hr hp]
  cases hinj : hasBit w.toNat 4 with
  | false => exact ⟨by simp [testAt_startTest], fun m hm => by simp [testAt_startTest, hm], fun hlo hhi => lane_startTest hlo hhi⟩
  | true =>
    exact ⟨by simp [testAt_injectBit, sel_startTest, testAt_startTest], fun m hm => by simp [testAt_injectBit, sel_startTest, testAt_startTest, hm],
      fun hlo hhi => lane_startTest hlo hhi⟩

theorem linkTestStart_refused (w : W64) (hup : regsUp s 0 = true) (hrun : hasBit w.toNat 3 = true) (hinj : hasBit w.toNat 4 = false) :
    exec (.linkTestStart 0 w) s = .next (runTest s w.toNat) := by
  refine congrArg Host.Outcome.next ((if_pos (by simp [lkUp_zero hup, hrun])).trans ?_)
  rw [if_neg (by simp [hinj])]

/-! ## Stopping a test -/

theorem testAt_stopTest_other (h : m ≠ n) (e : Nat) : testAt (stopTest s n e) m = testAt s m := by
  have hset : ∀ (r : State) (y : LinkTest), smGet {} (smSet {} r.lk.tests n y) m = testAt r m := fun r y => by
    rw [smGet_smSet, if_neg h]
    rfl
  unfold stopTest
  dsimp only
  split
  · rfl
  split
  · exact (hset _ _).trans (by split <;> rfl)
  · exact (hset _ _).trans (by split <;> rfl)

/-- A running test that stops: what its checker counted while locked is free (log entry 3). -/
theorem testAt_stopTest_running (h : (testAt s n).running = true) (e : Nat) : ∃ b c, testAt (stopTest s n e) n =
    { testAt s n with running := false, locked := false, err := e, bits := ((testAt s n).bits + b) % 2 ^ 64, errs := satAdd (2 ^ 48 - 1) (testAt s n).errs c } ∧
    ((testAt s n).locked = false → b = 0) := by
  have hrun : (smGet {} s.lk.tests n).running = true := h
  unfold stopTest
  dsimp only
  rw [if_neg (by simp [hrun])]
  refine ⟨if (testAt s n).locked then (draw s).1 else 0,
    if (testAt s n).locked then (draw (if (testAt s n).locked then (draw s).2 else s)).1 else 0, ?_, fun hl => by simp [hl]⟩
  split
  · exact smGet_smSet_self ..
  · exact smGet_smSet_self ..

theorem stopTest_idle (h : (testAt s n).running = false) (e : Nat) : stopTest s n e = s := by
  have hrun : (smGet {} s.lk.tests n).running = false := h
  rw [stopTest, if_pos (by simp [hrun])]

theorem running_stopTest (s : State) (n e : Nat) : (testAt (stopTest s n e) n).running = false := by
  cases h : (testAt s n).running with
  | false => rwa [stopTest_idle h]
  | true =>
    obtain ⟨b, c, hstop, -⟩ := testAt_stopTest_running h e
    rw [hstop]

theorem linkTestStop_halts (w : W64) (hup : regsUp s 0 = true) (hrun : hasBit w.toNat 3 = false) :
    ∃ t, exec (.linkTestStop 0 w) s = .next t ∧ (testAt t s.lk.sel).running = false ∧ (testAt t s.lk.sel).pattern = bits w.toNat 0 3 ∧
      ((testAt s s.lk.sel).running = true → (testAt s s.lk.sel).locked = false →
        (testAt t s.lk.sel).bits = (testAt s s.lk.sel).bits % 2 ^ 64 ∧ (testAt t s.lk.sel).err = 0) := by
  refine ⟨_, congrArg Host.Outcome.next (if_pos (by simp [lkUp_zero hup, hrun])), ?_⟩
  rw [haltTest, testAt_modTest_self]
  refine ⟨running_stopTest .., rfl, fun h hl => ?_⟩
  obtain ⟨b, c, hstop, hb⟩ := testAt_stopTest_running h 0
  simp [hstop, hb hl]

theorem linkTestInject_counts (w : W64) (hup : regsUp s 0 = true) (hinj : hasBit w.toNat 4 = true) (hrun : (testAt s s.lk.sel).running = true) :
    ∃ t, exec (.linkTestInject 0 w) s = .next t ∧ testAt t s.lk.sel = { testAt s s.lk.sel with injected := (testAt s s.lk.sel).injected + 1 } := by
  refine ⟨_, congrArg Host.Outcome.next (if_pos (by simp [lkUp_zero hup, hinj])), ?_⟩
  rw [testAt_injectBit, if_pos ⟨rfl, hrun⟩]

/-! ## The end of every test -/

theorem running_stopTest_le (k e : Nat) (h : (testAt s n).running = false) : (testAt (stopTest s k e) n).running = false := by
  by_cases hk : n = k
  · exact hk ▸ running_stopTest ..
  · rwa [testAt_stopTest_other hk]

/-- A test still runs, or has ended with the code `e`. -/
def EndsWith (n e : Nat) (t : State) : Prop := (testAt t n).running = true ∨ (testAt t n).err = e

theorem endsWith_stopTest (k e : Nat) (h : EndsWith n e s) : EndsWith n e (stopTest s k e) := by
  by_cases hk : n = k
  · subst hk
    cases hrun : (testAt s n).running with
    | false => rwa [stopTest_idle hrun]
    | true =>
      obtain ⟨b, c, hstop, -⟩ := testAt_stopTest_running hrun e
      exact .inr (by rw [hstop])
  · unfold EndsWith
    rwa [testAt_stopTest_other hk]

theorem running_endTests (s : State) (n : Nat) : (testAt (endTests s) n).running = false := by
  by_cases hn : n ∈ smKeys s.lk.tests
  · exact foldl_reaches (f := fun t k => stopTest t k 3) (I := fun _ => True) (P := fun t => (testAt t n).running = false) hn (fun _ _ _ _ => trivial)
      (fun t k _ h => running_stopTest_le k 3 h) (fun t _ => running_stopTest ..) trivial
  · refine foldl_keeps (f := fun t k => stopTest t k 3) (P := fun t => (testAt t n).running = false) _ (fun t k _ h => running_stopTest_le k 3 h) ?_
    have hdef : testAt s n = {} := by
      by_contra hne
      exact hn (mem_smKeys_of_smGet_ne hne)
    rw [hdef]

theorem err_endTests (h : (testAt s n).running = true) : (testAt (endTests s) n).err = 3 := by
  have hends : EndsWith n 3 (endTests s) :=
    foldl_keeps (f := fun t k => stopTest t k 3) (P := EndsWith n 3) _ (fun t k _ hk => endsWith_stopTest k 3 hk) (.inl h)
  rcases hends with hrun | herr
  · rw [running_endTests] at hrun
    exact absurd hrun (by decide)
  · exact herr

/-! ## The checker -/

theorem checkerLock_locks (h : (testAt s n).running = true) :
    ∃ t, exec (.checkerLock n) s = .next t ∧ testAt t n = { testAt s n with locked := true } :=
  ⟨_, congrArg Host.Outcome.next (if_pos h), testAt_modTest_self ..⟩

theorem checkerLockLost_counts (h : (testAt s n).running = true) (hl : (testAt s n).locked = true) (b e : Nat) :
    ∃ t, exec (.checkerLockLost n b e) s = .next t ∧ (testAt t n).locked = false ∧ (testAt t n).lost = true ∧
      (testAt t n).bits = ((testAt s n).bits + b) % 2 ^ 64 ∧ (testAt t n).errs = satAdd (2 ^ 48 - 1) (testAt s n).errs e := by
  refine ⟨_, congrArg Host.Outcome.next (if_pos (by simp [h, hl])), ?_⟩
  rw [testAt_modTest_self]
  exact ⟨rfl, rfl, rfl, rfl⟩

/-! ## The boundary instructions -/

/-- What a boundary instruction stops, before it takes the balls. -/
def stoppedPart (s : State) : State := stopStalls ((List.range 16).foldl stopCore s)

theorem takeBalls_open (code : Nat) (ho : boundaryOpen s = true) (hb : s.sys.boundary = false) : takeBalls s code =
    { stoppedPart s with sys := { (stoppedPart s).sys with boundary := true, tapIr := code }, jn := { (stoppedPart s).jn with opened := false } } := by
  unfold takeBalls stoppedPart
  exact if_neg (by simp [ho, hb])

theorem takeBalls_shut (code : Nat) (h : boundaryOpen s = false ∨ s.sys.boundary = true) : takeBalls s code = s := by
  rw [takeBalls, if_pos]
  simpa using h

theorem coreAt_stopStalls (s : State) (c : Nat) : coreAt (stopStalls s) c = coreAt s c := coreAt_of_only (stopStalls_only s) (by decide +kernel) c

theorem core_stopCores {c : Nat} {l : List Nat} (hc : c ∈ l) (s : State) : (coreAt (l.foldl stopCore s) c).state = 0 := by
  refine foldl_reaches (f := stopCore) (I := fun _ => True) (P := fun t => (coreAt t c).state = 0) hc (fun _ _ _ _ => trivial)
    (fun t x _ h => ?_) (fun t _ => coreAt_stopCore_state c) trivial
  by_cases hx : c = x
  · exact hx ▸ coreAt_stopCore_state c
  · rwa [coreAt_stopCore_other hx]

theorem core_stoppedPart {c : Nat} (hc : c < 16) : (coreAt (stoppedPart s) c).state = 0 := by
  rw [stoppedPart, coreAt_stopStalls]
  exact core_stopCores (List.mem_range.mpr hc) s

/-- The jobs of the part with its runs cut off. -/
theorem jobs_leaveStalls (l : List Nat) (s : State) : (l.foldl (fun t n => if (stAt t n).state = 2 then leaveStall t n else t) s).jobs = s.jobs := by
  refine foldl_keeps (P := fun t => t.jobs = s.jobs) l (fun t x _ h => ?_) rfl
  split
  · exact ((leaveStall_only t x).same .jobs (by decide +kernel)).trans h
  · exact h

theorem jobs_stopStalls (s : State) : (stopStalls s).jobs = s.jobs.map fun j => if isLive j && j.phase == .running then restartJob j else j :=
  jobs_leaveStalls ..

theorem job_stoppedPart {j : Job} (hj : j ∈ (stoppedPart s).jobs) (hl : isLive j = true) : j.phase ≠ .running := by
  rw [stoppedPart, jobs_stopStalls] at hj
  obtain ⟨k, -, rfl⟩ := List.mem_map.mp hj
  split at hl
  next => simp [restartJob, *]
  next hk => 
    rw [if_neg hk]
    exact fun hrun => hk (by simp [hl, hrun])

theorem takeBalls_stops (code : Nat) (ho : boundaryOpen s = true) (hb : s.sys.boundary = false) :
    (takeBalls s code).sys.boundary = true ∧ (takeBalls s code).sys.tapIr = code ∧ (takeBalls s code).jn.opened = false ∧
      (∀ c < 16, (coreAt (takeBalls s code) c).state = 0) ∧ (∀ j ∈ (takeBalls s code).jobs, isLive j = true → j.phase ≠ .running) := by
  rw [takeBalls_open code ho hb]
  have hcores := fun c (hc : c < 16) => core_stoppedPart (s := s) hc
  have hjobs := fun j (hj : j ∈ (stoppedPart s).jobs) => job_stoppedPart hj
  generalize stoppedPart s = u at hcores hjobs ⊢
  exact ⟨rfl, rfl, rfl, hcores, hjobs⟩

theorem boundary_instructions {e : Instr × Nat} (he : e ∈ [(Instr.tapExtest, 0x00), (Instr.tapClamp, 0x03), (Instr.tapHighz, 0x04)]) :
    exec e.1 s = .next (takeBalls s e.2) := by
  simp only [List.mem_cons, List.not_mem_nil, or_false] at he
  rcases he with rfl | rfl | rfl
  · rfl
  · rfl
  · rfl

/-! ## Other instructions of the port -/

theorem setIr_held (code : Nat) (h : s.sys.boundary = true) : setIr s code = s := if_pos h

theorem setIr_free (code : Nat) (h : s.sys.boundary = false) : setIr s code = { s with sys := { s.sys with tapIr := code } } :=
  if_neg (by simp [h])

theorem tap_held (h : s.sys.boundary = true) :
    exec .tapIdcode s = .next (emit s (.tdo 0xB7360A9F)) ∧ exec .tapBypass s = .next s ∧ exec .tapMbist s = .next s ∧
      ∀ pre cells, exec (.tapSamplePreload pre cells) s = .next s := by
  refine ⟨?_, ?_, ?_, fun pre cells => ?_⟩
  · show Host.Outcome.next (emit (setIr s 0x01) _) = _
    rw [setIr_held _ h]
  · exact congrArg Host.Outcome.next (setIr_held _ h)
  · exact congrArg Host.Outcome.next (if_neg (by simp [h]))
  · exact congrArg Host.Outcome.next ((if_pos h).trans (setIr_held _ h))

theorem tap_preload (cells : Nat) (h : s.sys.boundary = false) :
    exec (.tapSamplePreload true cells) s = .next { s with sys := { s.sys with tapIr := 0x02, boundaryReg := cells } } := by
  show Host.Outcome.next (if s.sys.boundary then _ else _) = _
  simp [h, setIr_free]

theorem tap_sample (cells : Nat) (h : s.sys.boundary = false) : exec (.tapSamplePreload false cells) s =
    .next (emit { drawn s 1 with sys := { s.sys with tapIr := 0x02 } } (.tdo (Config.freeValue s.freeCtr))) := by
  show Host.Outcome.next (if s.sys.boundary then _ else _) = _
  simp only [h, setIr_free]
  rfl

/-! ## The memory self-test -/

theorem spare_repairBank (s : State) (c b : Nat) : smGet 0 s.fc.spareRows b ≤ smGet 0 (repairBank s c).fc.spareRows b ∧
    (smGet 0 s.fc.spareRows b ≤ installedRows b → smGet 0 (repairBank s c).fc.spareRows b ≤ installedRows b) := by
  have hset : smGet 0 (repairBank s c).fc.spareRows b = if b = c then smGet 0 s.fc.spareRows c +
      (draw s).1 % (installedRows c - smGet 0 s.fc.spareRows c + 1) else smGet 0 s.fc.spareRows b := smGet_smSet ..
  by_cases hb : b = c
  · subst hb
    rw [hset, if_pos rfl]
    refine ⟨Nat.le_add_right .., fun hle => ?_⟩
    have hmod := Nat.mod_lt (draw s).1 (Nat.succ_pos (installedRows b - smGet 0 s.fc.spareRows b))
    exact (Nat.add_le_add_left (Nat.le_of_lt_succ hmod) _).trans (Nat.add_sub_cancel' hle).le
  · rw [hset, if_neg hb]
    exact ⟨le_rfl, id⟩

theorem spare_repairBanks (l : List Nat) (s : State) (b : Nat) : smGet 0 s.fc.spareRows b ≤ smGet 0 (l.foldl repairBank s).fc.spareRows b ∧
    (smGet 0 s.fc.spareRows b ≤ installedRows b → smGet 0 (l.foldl repairBank s).fc.spareRows b ≤ installedRows b) := by
  induction l generalizing s with
  | nil => exact ⟨le_rfl, id⟩
  | cons c l ih =>
    obtain ⟨hle, hcap⟩ := spare_repairBank s c b
    obtain ⟨hle', hcap'⟩ := ih (repairBank s c)
    exact ⟨hle.trans hle', fun h => hcap' (hcap h)⟩

/-- Repair takes spare rows and nothing else. -/
theorem repairBanks_eq (l : List Nat) (s : State) : l.foldl repairBank s =
    { s with fc := { s.fc with spareRows := (l.foldl repairBank s).fc.spareRows }, freeCtr := (l.foldl repairBank s).freeCtr } := by
  induction l generalizing s with
  | nil => rfl
  | cons c l ih =>
    rw [List.foldl_cons, ih]
    rfl

/-- The banks that the self-test repairs (Table 22.3). -/
def testedBanks : List Nat := [0x80, 0x81, 0x90, 0x91, 0x92, 0x93, 0x94, 0x95, 0x96, 0x97, 0xA0, 0xA8] ++ List.range 52 ++ (List.range 16).map (0x40 + ·) ++
  (List.range 52).map (0x400 + ·)

theorem mem_wipeArrays (s : State) (c : Nat) : (coreAt (wipeArrays s) c).mem = [] :=
  smGet_smMap_of_all (P := fun x : Core => x.mem = []) (fun _ _ => rfl) rfl s.cores c

theorem tapMbist_wipes (hp : s.sys.porstN = true) (ht : testMode s = true) (hb : s.sys.boundary = false) :
    ∃ t, exec .tapMbist s = .next t ∧ t.sys.mbistRan = true ∧ t.jobs = [] ∧ t.queues = [] ∧ t.cache = [] ∧ t.yard = [] ∧
      t.tk.slots = [] ∧ t.jn.opened = false ∧ (∀ c, (coreAt t c).mem = []) ∧
      (∀ b, smGet 0 s.fc.spareRows b ≤ smGet 0 t.fc.spareRows b ∧
        (smGet 0 s.fc.spareRows b ≤ installedRows b → smGet 0 t.fc.spareRows b ≤ installedRows b)) := by
  have hexec : exec .tapMbist s = .next (testedBanks.foldl repairBank (wipeArrays (setIr s 0x20))) :=
    congrArg Host.Outcome.next (if_pos (by simp [hp, ht, hb]))
  have hspare := spare_repairBanks testedBanks (wipeArrays (setIr s 0x20))
  have heq := repairBanks_eq testedBanks (wipeArrays (setIr s 0x20))
  rw [setIr_free _ hb] at hexec hspare heq
  have hmem := mem_wipeArrays { s with sys := { s.sys with tapIr := 0x20 } }
  generalize testedBanks.foldl repairBank (wipeArrays { s with sys := { s.sys with tapIr := 0x20 } }) = t at hexec hspare heq
  exact ⟨t, hexec, by rw [heq]; rfl, by rw [heq]; rfl, by rw [heq]; rfl, by rw [heq]; rfl, by rw [heq]; rfl, by rw [heq]; rfl, by rw [heq]; rfl,
    fun c => by rw [heq]; exact hmem c, hspare⟩

end

/-- Settles O58: link tests and the test access port, R477 to R484. -/
theorem linksAndTestPort : Obligations.LinksAndTestPort := by
  unfold Obligations.LinksAndTestPort
  dsimp only
  refine fun s => ⟨fun v hup => ⟨fun hrun hr hp => linkTestStart_starts v hup hrun hr hp, fun hrun hinj hr => ?_, fun hrun hinj hr hp => ?_,
    fun hrun => linkTestStop_halts v hup hrun, fun hinj hrun => linkTestInject_counts v hup hinj hrun⟩, fun l cause => ?_, fun l hl => ?_, fun e he => ?_,
    tap_held, fun hb => ⟨?_, ?_, fun cells => tap_preload cells hb, fun cells => tap_sample cells hb, fun hp ht => tapMbist_wipes hp ht hb⟩, fun ht => ?_⟩
  · refine ⟨_, linkTestStart_refused v hup hrun hinj, ?_⟩
    rw [runTest_refused hr, testAt_modTest_self]
  · refine ⟨_, linkTestStart_refused v hup hrun hinj, ?_⟩
    rw [runTest_noPattern hr hp, testAt_modTest_self]
  · exact ⟨_, rfl, running_endTests s, fun m hm => err_endTests hm, (endTests_only s).same .jobs (by decide +kernel)⟩
  · exact ⟨checkerLock_locks hl, fun b e hlock => checkerLockLost_counts hl hlock b e⟩
  · rw [boundary_instructions he]
    exact ⟨fun ho hb => ⟨_, rfl, takeBalls_stops e.2 ho hb⟩, fun h => congrArg Host.Outcome.next (takeBalls_shut e.2 h)⟩
  · show Host.Outcome.next (emit (setIr s 0x01) _) = _
    rw [setIr_free _ hb]
  · exact congrArg Host.Outcome.next (setIr_free _ hb)
  · exact congrArg Host.Outcome.next (if_neg (by simp [ht]))

end Sys2Proof.LinkTap
end

section
/-! PROOF. The restore of the tack room (R342; O60): a lost slot takes the seal epoch of the part beside its next generation, which the statement leaves out. -/

namespace Sys2Proof.TackRestore

open Sys2Proof Sys2Proof.Machine Sys2Proof.Claims

/-- A part in its second epoch, about to restore a slot of which no copy can be read. -/
def lostPart : State := { lc := { epoch := 1 }, tk := { restoring := true, unsealed := true, slots := [(0, { state := 5 })] } }

theorem lostPart_slot : slotAt (after lostPart (exec .tkRestore lostPart)) 0 = { state := 6, gen := 1, sealEpoch := 1 } := by decide +kernel

/-- Refutes O60: a slot lost by the restore in epoch 1 holds `sealEpoch := 1`, so that it is not `{ state := 6, gen := 1 }`. -/
theorem not_tackBackground : ¬ Obligations.TackBackground := by
  unfold Obligations.TackBackground
  intro h
  obtain ⟨-, hrestore, -⟩ := h lostPart ⟨rfl, rfl⟩ rfl
  obtain ⟨t, hexec, -, hslots, -⟩ := hrestore rfl rfl rfl (by decide)
  obtain ⟨-, hlost⟩ := hslots rfl 0 rfl
  have hslot := lostPart_slot
  rw [hexec] at hslot
  have heq : ({ state := 6, gen := 1, sealEpoch := 1 } : Slot) = { state := 6, gen := 1 } := hslot.symm.trans (hlost (by decide))
  exact absurd heq (by decide)

end Sys2Proof.TackRestore
end

section
/-! SUPPORT. A fault message that meets no other: its entry, its log message, its bucket (R440 to R448). -/

namespace Sys2Proof.Reports

open Sys2Proof Sys2Proof.Machine Sys2Proof.Claims Sys2Proof.Frames

section
variable {s : State} {c : Faults} {source kind pad detail : Nat} {charged : Bool}

/-- The entry that a message opens (R447, R448). -/
def entryOf (s : State) (source kind : Nat) (charged : Bool) (pad detail : Nat) : OutFault :=
  { source := source, kind := kind, cls := faultClass kind, charged := charged, paddock := pad, detail := detail
    live := persistKind source kind, holdsGate := faultClass kind == 2
    deadline := if kind == 0x18 then none else some (s.time + escalationNs s (faultClass kind) charged pad) }

/-- The collector's registers once a message has been logged and counted. -/
def counted (s : State) (source kind : Nat) (charged : Bool) (pad detail : Nat) : Faults :=
  countBucket (logMsg s.fc s.time (faultMsg source kind charged pad detail)) source kind detail

/-- The message stays below the threshold of its bucket. -/
def BelowBucket (s : State) (source kind detail : Nat) : Prop :=
  ∀ lim, bucketRule source kind = some lim → smGet 0 s.fc.buckets (bucketKey source detail) + (if faultClass kind == 0 then 1 else 8) < lim

theorem BelowBucket.of_none (h : bucketRule source kind = none) : BelowBucket s source kind detail := fun lim hl => by simp [h] at hl

/-! ## Logging and counting -/

theorem logOne_same (c : Faults) (time msg : Nat) : (logOne c time msg).out = c.out ∧ (logOne c time msg).escNow = c.escNow ∧
    (logOne c time msg).retireNow = c.retireNow ∧ (logOne c time msg).buckets = c.buckets ∧ (logOne c time msg).corrected = c.corrected := by
  unfold logOne
  dsimp only
  split
  · simp
  split
  · simp
  split
  · simp
  · simp

theorem logMsg_same (c : Faults) (time msg : Nat) : (logMsg c time msg).out = c.out ∧ (logMsg c time msg).escNow = c.escNow ∧
    (logMsg c time msg).retireNow = c.retireNow ∧ (logMsg c time msg).buckets = c.buckets ∧ (logMsg c time msg).corrected = c.corrected := by
  unfold logMsg
  dsimp only
  split
  · exact logOne_same ..
  · obtain ⟨ho, he, hr, hb, hc⟩ := logOne_same c time msg
    obtain ⟨ho', he', hr', hb', hc'⟩ := logOne_same { logOne c time msg with overflowed := true } time (faultMsg 0x3FF 0x27 false 0 0)
    exact ⟨ho'.trans ho, he'.trans he, hr'.trans hr, hb'.trans hb, hc'.trans hc⟩

theorem log_logMsg (hroom : c.log.length < 4096) (time msg : Nat) : (logMsg c time msg).log = c.log ++ [(time, msg)] := by
  simp [logMsg, logOne, hroom]

theorem countBucket_same (c : Faults) (source kind detail : Nat) : (countBucket c source kind detail).out = c.out ∧
    (countBucket c source kind detail).escNow = c.escNow ∧ (countBucket c source kind detail).log = c.log ∧
    (countBucket c source kind detail).corrected = c.corrected := by
  unfold countBucket
  split
  · simp
  dsimp only
  generalize (decide ((_ : Nat) ≤ _) && !_) = full
  cases full
  · exact ⟨rfl, rfl, rfl, rfl⟩
  · exact ⟨rfl, rfl, rfl, rfl⟩

theorem counted_same : (counted s source kind charged pad detail).out = s.fc.out ∧ (counted s source kind charged pad detail).escNow = s.fc.escNow ∧
    (counted s source kind charged pad detail).corrected = s.fc.corrected := by
  obtain ⟨ho, he, -, -, hc⟩ := logMsg_same s.fc s.time (faultMsg source kind charged pad detail)
  obtain ⟨ho', he', -, hc'⟩ := countBucket_same (logMsg s.fc s.time (faultMsg source kind charged pad detail)) source kind detail
  exact ⟨ho'.trans ho, he'.trans he, hc'.trans hc⟩

theorem log_counted (hroom : s.fc.log.length < 4096) :
    (counted s source kind charged pad detail).log = s.fc.log ++ [(s.time, faultMsg source kind charged pad detail)] :=
  (countBucket_same ..).2.2.1.trans (log_logMsg hroom ..)

theorem retireNow_counted (hb : BelowBucket s source kind detail) : (counted s source kind charged pad detail).retireNow = s.fc.retireNow := by
  obtain ⟨-, -, hr, hk, -⟩ := logMsg_same s.fc s.time (faultMsg source kind charged pad detail)
  unfold counted countBucket
  split
  · exact hr
  next lim hlim =>
    have hlow := hb lim hlim
    rw [if_neg]
    · exact hr
    · rw [hk]
      simp only [Bool.and_eq_true, decide_eq_true_eq, not_and]
      intro hle
      omega

/-! ## A corrected message -/

theorem report_corrected (hcls : faultClass kind = 0) (hk : kind ≠ 0x25) : report s source kind charged pad detail = { s with fc :=
    { counted s source kind charged pad detail with
      corrected := smMod 0 (counted s source kind charged pad detail).corrected source (· + 1) } } := by
  unfold report counted
  simp [hcls, hk]

/-! ## A message that opens an entry -/

theorem findOut_none (h : c.out = []) : findOut c source kind = none := by simp [findOut, outKeys, smKeys, h]

theorem freeOut_zero (h : c.out = []) (cls : Nat) : freeOut c cls = some 0 := by
  have hcount : countOut c 1 = 0 := by simp [countOut, outKeys, smKeys, h]
  rw [freeOut, hcount, if_neg (by simp), List.find?_eq_some_iff_append]
  refine ⟨by simp [outAt, h, smGet], [], (List.range 256).tail, by decide +kernel, by simp⟩

theorem openEntry_fc (h : s.fc.out = []) :
    (openEntry s source kind charged pad detail).fc = { s.fc with out := [(0, some (entryOf s source kind charged pad detail))] } := by
  unfold openEntry
  rw [findOut_none h]
  dsimp only
  rw [freeOut_zero h]
  dsimp only
  split
  · rw [fc_of_only (raisePad_only ..) (by decide +kernel), h]
    rfl
  · rw [fc_of_only (raisePart_only ..) (by decide +kernel), h]
    rfl

/-- What a contained or fatal message leaves in the collector, where no fault is outstanding. -/
theorem report_fc (hcls : faultClass kind ≠ 0) (h : s.fc.out = []) : (report s source kind charged pad detail).fc =
    { counted s source kind charged pad detail with
      toLog := (counted s source kind charged pad detail).toLog ++ [(s.time, 0, faultMsg source kind charged pad detail)]
      out := [(0, some (entryOf s source kind charged pad detail))] } := by
  have hopen : ∀ c : Faults, c.out = [] → (openEntry { s with fc := c } source kind charged pad detail).fc =
      { c with out := [(0, some (entryOf s source kind charged pad detail))] } := fun c hc => openEntry_fc (s := { s with fc := c }) hc
  have hout : (counted s source kind charged pad detail).out = [] := counted_same.1.trans h
  unfold report
  simp only [beq_iff_eq, hcls, if_false]
  split
  · rw [fc_of_only (clearAllDigests_only _) (by decide +kernel), fc_of_only (aer_only ..) (by decide +kernel)]
    exact hopen _ hout
  · exact hopen _ hout

theorem report_out (hcls : faultClass kind ≠ 0) (h : s.fc.out = []) :
    (report s source kind charged pad detail).fc.out = [(0, some (entryOf s source kind charged pad detail))] := by rw [report_fc hcls h]

theorem report_log (hcls : faultClass kind ≠ 0) (h : s.fc.out = []) (hroom : s.fc.log.length < 4096) :
    (report s source kind charged pad detail).fc.log = s.fc.log ++ [(s.time, faultMsg source kind charged pad detail)] := by
  rw [report_fc hcls h]
  exact log_counted hroom

theorem report_nothingDue (hcls : faultClass kind ≠ 0) (h : FaultsClear s) (hb : BelowBucket s source kind detail) :
    NothingDue (report s source kind charged pad detail) := by
  obtain ⟨hout, hesc, hretire⟩ := h
  unfold NothingDue
  rw [report_fc hcls hout]
  exact ⟨counted_same.2.1.trans hesc, (retireNow_counted hb).trans hretire⟩

/-- Kinds with an action of their own outside a stall and a row (Table 20.3). -/
def actingKinds : List Nat := [0x0E, 0x0F, 0x11, 0x15, 0x16, 0x1C, 0x1F, 0x20, 0x21]

theorem faultAction_none (hstall : ¬source < 0x34) (hrow : (rowSource source && (kind == 0x02 || kind == 0x03)) = false) (hk : kind ∉ actingKinds) :
    faultAction s source kind detail = s := by
  unfold faultAction
  rw [if_neg hstall, if_neg (by simp [hrow])]
  unfold actingKinds at hk
  split
  case h_10 => rfl
  all_goals exact absurd (by decide) hk

/-- A part whose only outstanding fault is the one reported. -/
theorem findOut_single {e : OutFault} (h : c.out = [(0, some e)]) (hs : e.source = source) (hk : e.kind = kind) : findOut c source kind = some 0 := by
  simp [findOut, outKeys, smKeys, outAt, smGet, h, hs, hk]

theorem report_findOut (hcls : faultClass kind ≠ 0) (h : s.fc.out = []) : findOut (report s source kind charged pad detail).fc source kind = some 0 :=
  findOut_single (report_out hcls h) rfl rfl

end

end Sys2Proof.Reports
end

section
/-! PROOF. The host interface and its functions reset (R35, R80, R127, R128, R137; O12). -/

namespace Sys2Proof.HostResets

open Sys2Proof Sys2Proof.Machine Sys2Proof.Claims Sys2Proof.Frames Sys2Proof.Holding Sys2Proof.FunctionsSleep Sys2Proof.PadReset Sys2Proof.Reports

section
variable {s t u : State} {q m n v : Nat}

/-! ## Queues that enter HELD -/

theorem qAt_writeShadow_other (h : q ≠ m) : qAt (writeShadow s m) q = qAt s q := by
  unfold writeShadow
  dsimp only
  split
  · rfl
  split
  · have hwrite := fun (t : State) (a b : Nat) (d : Bytes) => qAt_of_only (hostWrite_only t a b d) (by decide +kernel) q
    rw [hwrite, modQ, qAt_putQ, if_neg h]
  · rw [modQ, qAt_putQ, if_neg h]

theorem qAt_journalWrite (s : State) (q : Nat) : qAt (journalWrite s) q = qAt s q := rfl

theorem qAt_holdQueue_other (h : q ≠ m) : qAt (holdQueue s m) q = qAt s q := by
  unfold holdQueue
  dsimp only
  split
  · rw [qAt_writeShadow_other h, qAt_journalWrite, modQ, qAt_putQ, if_neg h]
  · rfl

theorem holdQueue_idle (h : ¬(1 ≤ (qAt s q).state ∧ (qAt s q).state ≤ 4)) : holdQueue s q = s := if_neg h

theorem remembered_holdQueue (h : 1 ≤ (qAt s q).state ∧ (qAt s q).state ≤ 4) : (qAt (holdQueue s q) q).remembered = (qAt s q).state := by
  unfold holdQueue
  dsimp only
  rw [if_pos h, (writeShadow_only ..).same (.queue .remembered) (by decide +kernel) q, (journalWrite_only _).same (.queue .remembered) (by decide +kernel) q,
    qAt_modQ_self]

/-- The queue is HELD and remembers the state `k`. -/
def HeldFrom (q k : Nat) (t : State) : Prop := (qAt t q).state = 5 ∧ (qAt t q).remembered = k

theorem heldFrom_holdQueue {k : Nat} (h : HeldFrom q k s) (m : Nat) : HeldFrom q k (holdQueue s m) := by
  by_cases hm : q = m
  · subst hm
    rwa [holdQueue_idle (by rw [h.1]; omega)]
  · unfold HeldFrom
    rwa [qAt_holdQueue_other hm]

theorem heldFrom_holdQueues (l : List Nat) (hq : q ∈ l) (h : 1 ≤ (qAt s q).state ∧ (qAt s q).state ≤ 4) :
    HeldFrom q (qAt s q).state (l.foldl holdQueue s) := by
  refine foldl_reaches (f := holdQueue) (I := fun t => qAt t q = qAt s q ∨ HeldFrom q (qAt s q).state t) (P := HeldFrom q (qAt s q).state) hq
    (fun t m _ ht => ?_) (fun t m _ ht => heldFrom_holdQueue ht m) (fun t ht => ?_) (.inl rfl)
  · rcases ht with ht | ht
    · by_cases hm : q = m
      · subst hm
        exact .inr ⟨held_of_open (by unfold Open; rw [ht]; omega), by rw [remembered_holdQueue (by rwa [ht]), ht]⟩
      · exact .inl ((qAt_holdQueue_other hm).trans ht)
    · exact .inr (heldFrom_holdQueue ht m)
  · rcases ht with ht | ht
    · exact ⟨held_of_open (by unfold Open; rw [ht]; omega), by rw [remembered_holdQueue (by rwa [ht]), ht]⟩
    · exact heldFrom_holdQueue ht q

theorem idle_holdQueues (l : List Nat) (h : (qAt s q).state = 0) : qAt (l.foldl holdQueue s) q = qAt s q := by
  refine foldl_keeps (f := holdQueue) (P := fun t => qAt t q = qAt s q) l (fun t m _ ht => ?_) rfl
  by_cases hm : q = m
  · subst hm
    rwa [holdQueue_idle (by rw [ht]; omega)]
  · exact (qAt_holdQueue_other hm).trans ht

/-! ## The host-interface reset -/

/-- What a changed collection reads for a key: the default, or the change of a value under that key. -/
theorem smGet_smMap_cases {α : Type} [DecidableEq α] {d : α} (f : Nat → α → α) (m : SMap α) (k : Nat) :
    smGet d (smMap d f m) k = d ∨ ∃ x, smGet d (smMap d f m) k = f k x := by
  induction m with
  | nil => exact .inl rfl
  | cons e m ih =>
    obtain ⟨j, x⟩ := e
    unfold smMap
    split
    · exact ih
    · unfold smGet
      split
      next h => exact .inr ⟨x, by rw [h]⟩
      next => exact ih

/-- The functions reset, the port's configuration lost, before the queues are HELD. -/
def resetFns (s : State) (perst : Bool) : State :=
  { endTests s with
    fns := smMap {} (fun n x => { hostResetFn perst x with present := x.present && n == 0 }) (endTests s).fns
    port := { doorbells := (endTests s).port.doorbells } }

/-- The queues HELD, in D3cold the shed off. -/
def heldFns (s : State) (perst : Bool) : State :=
  let u := (queueNums (resetFns s perst)).foldl holdQueue (resetFns s perst)
  if hifOff u then setShed u 21 0 else u

theorem hostReset_eq (s : State) (perst : Bool) : hostReset s perst = updateLtr
    { heldFns s perst with
      sys := { (heldFns s perst).sys with causeHif := true }, port := { (heldFns s perst).port with linkUp := linkTrains (heldFns s perst) } } := rfl

theorem sys_resetFns (s : State) (perst : Bool) : (resetFns s perst).sys = s.sys :=
  sys_of_only (t := endTests s) (endTests_only s) (by decide +kernel)

theorem holdQueues_only (l : List Nat) (s : State) : Only [.sys .timeJournal, .port .linkState, .queue .state, .queue .remembered, .queue .defer, .queue .copies,
    .queue .heldBell, .queue .shadowOwed, .queue .fetchFailed, .queue .fetchTried, .jn .seq, .out] s (l.foldl holdQueue s) :=
  Only.foldl _ (fun t x => (holdQueue_only t x).mono (by decide +kernel)) (Only.refl _ _)

theorem heldFns_only (s : State) (perst : Bool) : Only [.sys .timeJournal, .port .linkState, .queue .state, .queue .remembered, .queue .defer, .queue .copies,
    .queue .heldBell, .queue .shadowOwed, .queue .fetchFailed, .queue .fetchTried, .jn .seq, .out, .en .shed] (resetFns s perst) (heldFns s perst) := by
  unfold heldFns
  dsimp only
  split
  · exact Only.then (setShed_only ..) (by decide +kernel) ((holdQueues_only ..).mono (by decide +kernel))
  · exact (holdQueues_only ..).mono (by decide +kernel)

theorem linkTrains_of_only {l : List Part} (h : Only l s t) (hp : Part.sys .perstN ∉ l) (hr : Part.sys .refclk ∉ l) (ho : Part.sys .porstN ∉ l)
    (hs : Part.sys .stage ∉ l) (hb : Part.sys .bootState ∉ l) : linkTrains t = linkTrains s := by
  unfold linkTrains
  rw [h.same (.sys .perstN) hp, h.same (.sys .refclk) hr, h.same (.sys .porstN) ho, h.same (.sys .stage) hs, h.same (.sys .bootState) hb]

theorem linkTrains_heldFns (s : State) (perst : Bool) : linkTrains (heldFns s perst) = linkTrains s := by
  rw [linkTrains_of_only (heldFns_only s perst) (by decide +kernel) (by decide +kernel) (by decide +kernel) (by decide +kernel) (by decide +kernel)]
  exact linkTrains_of_only (t := endTests s) (endTests_only s) (by decide +kernel) (by decide +kernel) (by decide +kernel) (by decide +kernel) (by decide +kernel)

theorem linkUp_hostReset (s : State) (perst : Bool) : (hostReset s perst).port.linkUp = linkTrains s := by
  rw [hostReset_eq, (updateLtr_only _).same (.port .linkUp) (by decide +kernel)]
  exact linkTrains_heldFns s perst

theorem causeHif_hostReset (s : State) (perst : Bool) : (hostReset s perst).sys.causeHif = true := by
  rw [hostReset_eq, (updateLtr_only _).same (.sys .causeHif) (by decide +kernel)]

theorem vfs_hostReset (s : State) (perst : Bool) : (hostReset s perst).port.vfEnable = false ∧ (hostReset s perst).port.numVfs = 0 := by
  rw [hostReset_eq, (updateLtr_only _).same (.port .vfEnable) (by decide +kernel), (updateLtr_only _).same (.port .numVfs) (by decide +kernel)]
  exact ⟨(heldFns_only s perst).same (.port .vfEnable) (by decide +kernel), (heldFns_only s perst).same (.port .numVfs) (by decide +kernel)⟩

theorem shed_hostReset {perst : Bool} (hoff : hifOff s = true) : shedAt (hostReset s perst) 21 = 0 := by
  have hen := en_of_only (updateLtr_only { heldFns s perst with
    sys := { (heldFns s perst).sys with causeHif := true }, port := { (heldFns s perst).port with linkUp := linkTrains (heldFns s perst) } }) (by decide +kernel)
  rw [hostReset_eq]
  unfold shedAt
  rw [hen]
  have hplan : ((queueNums (resetFns s perst)).foldl holdQueue (resetFns s perst)).plan = s.plan :=
    (plan_of_only (holdQueues_only ..) (by decide +kernel)).trans (plan_of_only (t := endTests s) (endTests_only s) (by decide +kernel))
  have hperst : ((queueNums (resetFns s perst)).foldl holdQueue (resetFns s perst)).sys.perstN = s.sys.perstN :=
    ((holdQueues_only ..).same (.sys .perstN) (by decide +kernel)).trans ((endTests_only s).same (.sys .perstN) (by decide +kernel))
  have hheld : heldFns s perst = setShed ((queueNums (resetFns s perst)).foldl holdQueue (resetFns s perst)) 21 0 := by
    unfold heldFns
    refine if_pos ?_
    unfold hifOff
    rw [hplan, hperst]
    exact hoff
  rw [hheld]
  show smGet 0 (smSet 0 _ 21 0) 21 = 0
  exact smGet_smSet_self ..

theorem fn_hostReset (s : State) (perst : Bool) (n : Nat) : (fnAt (hostReset s perst) n).bme = false ∧ (fnAt (hostReset s perst) n).dState = 0 ∧
    (fnAt (hostReset s perst) n).msixEn = false ∧ (n ≠ 0 → (fnAt (hostReset s perst) n).present = false) := by
  have hkept : fnAt (hostReset s perst) n = fnAt (resetFns s perst) n := by
    rw [hostReset_eq, fnAt_of_only (updateLtr_only _) (by decide +kernel) n]
    exact fnAt_of_only (heldFns_only s perst) (by decide +kernel) n
  rw [hkept]
  rcases smGet_smMap_cases (fun n (x : Fn) => { hostResetFn perst x with present := x.present && n == 0 }) (endTests s).fns n with h | ⟨x, h⟩
  · have hn : fnAt (resetFns s perst) n = {} := h
    rw [hn]
    exact ⟨rfl, rfl, rfl, fun _ => rfl⟩
  · have hn : fnAt (resetFns s perst) n = { hostResetFn perst x with present := x.present && n == 0 } := h
    rw [hn]
    refine ⟨?_, ?_, ?_, fun h0 => by simp [h0]⟩
    · cases perst <;> rfl
    · cases perst <;> rfl
    · cases perst <;> rfl

theorem qAt_resetFns (s : State) (perst : Bool) (q : Nat) : qAt (resetFns s perst) q = qAt s q := qAt_of_only (endTests_only s) (by decide +kernel) q

theorem qAt_hostReset (s : State) (perst : Bool) (q : Nat) :
    qAt (hostReset s perst) q = qAt ((queueNums (resetFns s perst)).foldl holdQueue (resetFns s perst)) q := by
  rw [hostReset_eq, qAt_of_only (updateLtr_only _) (by decide +kernel) q]
  show qAt (heldFns s perst) q = _
  unfold heldFns
  dsimp only
  split
  · rfl
  · rfl

theorem idle_hostReset {perst : Bool} (h : (qAt s q).state = 0) : qAt (hostReset s perst) q = qAt s q := by
  have hq := qAt_resetFns s perst q
  rw [qAt_hostReset, idle_holdQueues _ (by rw [hq, h]), hq]

theorem held_hostReset {perst : Bool} (h : (qAt s q).state ∈ [1, 2, 3, 4]) : HeldFrom q (qAt s q).state (hostReset s perst) := by
  have hq := qAt_resetFns s perst q
  have hrange : 1 ≤ (qAt (resetFns s perst) q).state ∧ (qAt (resetFns s perst) q).state ≤ 4 := by
    simp only [List.mem_cons, List.not_mem_nil, or_false] at h
    rw [hq]
    omega
  unfold HeldFrom
  rw [qAt_hostReset, ← hq]
  exact heldFrom_holdQueues _ (queue_listed (by omega)) hrange

/-! ## Doorbells that come back with the host interface (R55) -/

/-- A step leaves a DISABLED queue as it is, and a HELD one HELD. -/
def Still (q : Nat) (s t : State) : Prop :=
  ((qAt s q).state = 0 → qAt t q = qAt s q) ∧ ((qAt s q).state = 5 → (qAt t q).state = 5 ∧ (qAt t q).remembered = (qAt s q).remembered)

theorem Still.of_qAt (h : qAt t q = qAt s q) : Still q s t := ⟨fun _ => h, fun h5 => by rw [h]; exact ⟨h5, rfl⟩⟩

theorem Still.trans (h : Still q s t) (g : Still q t u) : Still q s u := by
  refine ⟨fun h0 => ?_, fun h5 => ?_⟩
  · have ht := h.1 h0
    rw [g.1 (by rw [ht, h0]), ht]
  · obtain ⟨ht, hr⟩ := h.2 h5
    obtain ⟨hu, hr'⟩ := g.2 ht
    exact ⟨hu, hr'.trans hr⟩

theorem Still.of_only {l : List Part} (h : Only l s t) (hl : (QueueReg.all.any fun r => l.contains (.queue r)) = false) : Still q s t :=
  .of_qAt (qAt_of_only h hl q)

theorem deny_still (s : State) (n : Nat) : Still q s (deny s n) := .of_only (deny_only s n) (by decide +kernel)

theorem modQ_still {g : Queue → Queue} (hg : (qAt s m).state ≠ 0 ∧ (g (qAt s m)).state = (qAt s m).state ∧ (g (qAt s m)).remembered = (qAt s m).remembered) :
    Still q s (modQ s m g) := by
  obtain ⟨hne, hstate, hrem⟩ := hg
  by_cases hm : q = m
  · subst hm
    unfold Still
    rw [qAt_modQ_self]
    exact ⟨fun h => absurd h hne, fun h => ⟨hstate.trans h, hrem⟩⟩
  · exact .of_qAt (by rw [modQ, qAt_putQ, if_neg hm])

theorem qAt_haltQueue_other (h : q ≠ m) (reason detail index : Nat) : qAt (haltQueue s m reason detail index) q = qAt s q := by
  have hmod : ∀ g : Queue → Queue, qAt (journalWrite (modQ s m g)) q = qAt s q := fun g => by
    rw [qAt_journalWrite, modQ, qAt_putQ, if_neg h]
  have hevent : ∀ (t : State) (f : Pad → Pad) (p : Nat), qAt (raisePad (modPad t p f) 16 p) q = qAt t q := fun t f p =>
    qAt_of_only (raisePad_only (modPad t p f) 16 p) (by decide +kernel) q
  unfold haltQueue
  dsimp only
  rw [qAt_writeShadow_other h]
  split
  · exact hmod _
  · exact (hevent ..).trans (hmod _)

theorem ringRunning_still (h : (qAt s m).state = 1) (v : Nat) : Still q s (ringRunning s m v) := by
  unfold ringRunning
  split
  · by_cases hm : q = m
    · subst hm
      exact ⟨fun h0 => by omega, fun h5 => by omega⟩
    · exact .of_qAt (qAt_haltQueue_other hm ..)
  · exact Still.trans (modQ_still (m := m) (g := fun x => { x with p := v }) ⟨by omega, rfl, rfl⟩) (.of_qAt rfl)

theorem ringHalted_still (h : (qAt s m).state = 2) (v : Nat) : Still q s (ringHalted s m v) := by
  unfold ringHalted
  split
  · exact deny_still ..
  · exact Still.trans (modQ_still (m := m) (g := fun x => { x with p := v }) ⟨by omega, rfl, rfl⟩) (.of_qAt rfl)

theorem takeBell_still (s : State) (n m v : Nat) : Still q s (takeBell s n m v) := by
  unfold takeBell
  dsimp only
  split
  next h =>
    split
    · exact modQ_still ⟨by omega, rfl, rfl⟩
    · exact deny_still ..
  split
  next h =>
    split
    · split
      · exact modQ_still ⟨by omega, rfl, rfl⟩
      · exact deny_still ..
    · exact deny_still ..
  split
  · exact deny_still ..
  next hopen =>
    have hne : (qAt s m).state ≠ 0 := fun h => hopen (by simp [h])
    split
    · exact modQ_still ⟨hne, rfl, rfl⟩
    split
    next h1 => exact ringRunning_still h1 v
    split
    next h2 => exact ringHalted_still h2 v
    · exact modQ_still ⟨hne, rfl, rfl⟩

theorem bar2Write_still (s : State) (n o z v : Nat) : Still q s (bar2Write s n o z v) := by
  unfold bar2Write
  split
  · exact deny_still ..
  split
  · exact .of_qAt rfl
  split
  · exact deny_still ..
  · exact takeBell_still ..

theorem runBells_still (s : State) : Still q s (runBells s) := by
  refine Still.trans (t := { s with port := { s.port with doorbells := [] } }) (.of_qAt rfl) ?_
  exact foldl_keeps (P := Still q { s with port := { s.port with doorbells := [] } }) s.port.doorbells
    (fun t e _ h => h.trans (bar2Write_still ..)) (.of_qAt rfl)

end

end Sys2Proof.HostResets
end

section
/-! PROOF. PERST_N high, function resets, and the loss of the reference clock (R80, R82, R127, R137; O12). -/

namespace Sys2Proof.LinkResets

open Sys2Proof Sys2Proof.Machine Sys2Proof.Claims Sys2Proof.Frames Sys2Proof.Holding Sys2Proof.FunctionsSleep Sys2Proof.PadReset Sys2Proof.Reports
open Sys2Proof.HostResets

section
variable {s t u : State} {q m n v : Nat}

/-! ## WAKE_N stays released while PERST_N is high (Table 06.4) -/

/-- PERST_N is high and WAKE_N not driven. -/
def Released (t : State) : Prop := t.sys.perstN = true ∧ t.sys.wakeDriven = false

theorem Released.of_only {l : List Part} (h : Released s) (ho : Only l s t) (hp : Part.sys .perstN ∉ l) (hw : Part.sys .wakeDriven ∉ l) : Released t :=
  ⟨(ho.same (.sys .perstN) hp).trans h.1, (ho.same (.sys .wakeDriven) hw).trans h.2⟩

theorem released_dueWake (h : Released s) : Released (dueWake s n v) := by
  unfold dueWake
  dsimp only
  split
  · exact h
  rw [if_neg (by simp [h.1])]
  split
  · exact h
  · exact h

theorem released_addWake (h : Released s) (event : Bool) : Released (addWake s n v event) := by
  unfold addWake
  split
  · exact h
  dsimp only
  split
  · exact released_dueWake h
  · exact h

theorem released_raiseOn (h : Released s) (e : Nat) : Released (raiseOn s e n) := by
  unfold raiseOn
  dsimp only
  split
  · exact h
  split
  · exact released_addWake (h.of_only (addCause_only ..) (by decide +kernel) (by decide +kernel)) true
  · exact h.of_only (addCause_only ..) (by decide +kernel) (by decide +kernel)

theorem released_raisePad (h : Released s) (e p : Nat) : Released (raisePad s e p) :=
  foldl_keeps (f := fun t n => raiseOn t e n) (P := Released) _ (fun _ _ _ ht => released_raiseOn ht e) h

theorem released_haltQueue (h : Released s) (reason detail index : Nat) : Released (haltQueue s q reason detail index) := by
  have hj : ∀ g : Queue → Queue, Released (journalWrite (modQ s q g)) := fun _ => h
  have hp : ∀ (g : Queue → Queue) (f : Pad → Pad) (p : Nat), Released (raisePad (modPad (journalWrite (modQ s q g)) p f) 16 p) :=
    fun g f p => released_raisePad (s := modPad (journalWrite (modQ s q g)) p f) h 16 p
  unfold haltQueue
  dsimp only
  refine Released.of_only ?_ (writeShadow_only ..) (by decide +kernel) (by decide +kernel)
  split
  · exact hj _
  · exact hp ..

theorem released_takeBell (h : Released s) : Released (takeBell s n q v) := by
  have hdeny : ∀ k, Released (deny s k) := fun k => h.of_only (deny_only s k) (by decide +kernel) (by decide +kernel)
  unfold takeBell
  dsimp only
  split
  · split
    · exact h
    · exact hdeny n
  split
  · split
    · split
      · exact h
      · exact hdeny n
    · exact hdeny n
  split
  · exact hdeny n
  split
  · exact h
  split
  · unfold ringRunning
    split
    · exact released_haltQueue h ..
    · exact h
  split
  · exact h.of_only (ringHalted_only ..) (by decide +kernel) (by decide +kernel)
  · exact h

theorem released_runBells (h : Released s) : Released (runBells s) := by
  refine foldl_keeps (P := Released) s.port.doorbells (fun t e _ ht => ?_) (s := { s with port := { s.port with doorbells := [] } }) h
  unfold bar2Write
  split
  · exact ht.of_only (deny_only ..) (by decide +kernel) (by decide +kernel)
  split
  · exact ht
  split
  · exact ht.of_only (deny_only ..) (by decide +kernel) (by decide +kernel)
  · exact released_takeBell ht

/-! ## The host-interface reset -/

/-- The part under the reset: PERST_N low where it is the cause, and awake. -/
def underReset (s : State) (cause : Nat) : State :=
  if cause = 0 then endDeepSleep { s with sys := { s.sys with perstN := false } } else s

/-- The doorbells that came in deep sleep act when the host interface is back. -/
def bellsAfter (u t : State) : State := if u.sys.deepSleep then t else runBells t

theorem exec_hostInterfaceReset (cause : Nat) (hp : s.sys.porstN = true) (hf : s.en.flushActive = false) : exec (.hostInterfaceReset cause) s =
    .next (bellsAfter (underReset s cause) (hostReset (underReset s cause) (!(underReset s cause).sys.perstN))) := by
  by_cases hc : cause = 0
  · subst hc
    show Host.Outcome.next (if _ then _ else _) = _
    rw [if_neg (by simp [hp, hf])]
    rfl
  · show execHostInterfaceReset cause s = _
    unfold execHostInterfaceReset underReset
    simp only [hc, if_false]
    rw [if_neg (by simp [hp, hf])]
    rfl

theorem bellsAfter_only (u t : State) : Only [.sys .wakeDriven, .sys .timeJournal, .port .linkState, .port .doorbells, .fn .pmeStatus, .fn .denied, .fn .vecs,
    .fn .cmpExpect, .fn .cmpSpoiled, .fn .cmpEq, .fn .cmpNe, .queue .state, .queue .p, .queue .errReason, .queue .errDetail, .queue .errIndex, .queue .defer,
    .queue .copies, .queue .heldBell, .queue .shadowOwed, .queue .pend, .queue .fetchFailed, .queue .fetchTried, .queue .recordedP, .pad .results,
    .pad .haltLog, .pad .haltOverflow, .jn .seq, .out] t (bellsAfter u t) := by
  unfold bellsAfter
  split
  · exact Only.refl _ _
  · exact runBells_only t

theorem bellsAfter_still (u t : State) : Still q t (bellsAfter u t) := by
  unfold bellsAfter
  split
  · exact .of_qAt rfl
  · exact runBells_still t

theorem underReset_only (s : State) (cause : Nat) : Only [.sys .perstN, .sys .deepSleep, .en .shed, .tp .sleepScramble] s (underReset s cause) := by
  unfold underReset
  split
  · refine Only.then (endDeepSleep_only ..) (by decide +kernel) ?_
    exact put_sys (Sys.set_perstN (by decide +kernel) (SysReg.refl _ _)) (Only.refl _ _)
  · exact Only.refl _ _

theorem perstN_underReset (s : State) (cause : Nat) : (underReset s cause).sys.perstN = (cause != 0 && s.sys.perstN) := by
  unfold underReset
  split
  next h => 
    rw [(endDeepSleep_only _).same (.sys .perstN) (by decide +kernel)]
    simp [h]
  next h => simp [h]

theorem linkTrains_underReset (s : State) (cause : Nat) : linkTrains (underReset s cause) = (cause != 0 && linkTrains s) := by
  have hu := underReset_only s cause
  unfold linkTrains
  rw [perstN_underReset, hu.same (.sys .refclk) (by decide +kernel), hu.same (.sys .porstN) (by decide +kernel), hu.same (.sys .stage) (by decide +kernel),
    hu.same (.sys .bootState) (by decide +kernel)]
  simp only [Bool.and_assoc]

theorem hostInterfaceReset_resets (cause : Nat) (hp : s.sys.porstN = true) (hf : s.en.flushActive = false) :
    ∃ t, exec (.hostInterfaceReset cause) s = .next t ∧ t.sys.causeHif = true ∧ t.sys.perstN = (cause != 0 && s.sys.perstN) ∧
      t.port.linkUp = (cause != 0 && linkTrains s) ∧ t.port.vfEnable = false ∧ t.port.numVfs = 0 ∧
      (cause = 0 → s.plan.part.twin = false → shedAt t 21 = 0) ∧
      (∀ q, (qAt s q).state = 0 → qAt t q = qAt s q) ∧ (∀ q, (qAt s q).state ∈ [1, 2, 3, 4] → (qAt t q).state = 5 ∧ (qAt t q).remembered = (qAt s q).state) ∧
      (∀ n, (fnAt t n).bme = false ∧ (fnAt t n).dState = 0 ∧ (fnAt t n).msixEn = false ∧ (n ≠ 0 → (fnAt t n).present = false)) := by
  refine ⟨_, exec_hostInterfaceReset cause hp hf, ?_⟩
  have hu := underReset_only s cause
  have hq : ∀ q, qAt (underReset s cause) q = qAt s q := fun q => qAt_of_only hu (by decide +kernel) q
  have hplan : (underReset s cause).plan = s.plan := plan_of_only hu (by decide +kernel)
  have hperst := perstN_underReset s cause
  have hlink := linkTrains_underReset s cause
  generalize underReset s cause = u at hq hperst hplan hlink ⊢
  have hb := bellsAfter_only u (hostReset u (!u.sys.perstN))
  obtain ⟨hvf, hnum⟩ := vfs_hostReset u (!u.sys.perstN)
  refine ⟨(hb.same (.sys .causeHif) (by decide +kernel)).trans (causeHif_hostReset ..), ?_, (hb.same (.port .linkUp) (by decide +kernel)).trans ?_,
    (hb.same (.port .vfEnable) (by decide +kernel)).trans hvf, (hb.same (.port .numVfs) (by decide +kernel)).trans hnum, fun hc htwin => ?_, fun q h0 => ?_,
    fun q hq4 => ?_, fun n => ?_⟩
  · rw [hb.same (.sys .perstN) (by decide +kernel), (hostReset_only ..).same (.sys .perstN) (by decide +kernel), hperst]
  · rw [linkUp_hostReset, hlink]
  · unfold shedAt
    rw [en_of_only hb (by decide +kernel)]
    exact shed_hostReset (by simp [hifOff, hperst, hplan, hc, htwin])
  · have hidle := idle_hostReset (perst := !u.sys.perstN) (by rw [hq, h0])
    rw [(bellsAfter_still u _).1 (by rw [hidle, hq, h0]), hidle, hq]
  · obtain ⟨hstate, hrem⟩ := held_hostReset (perst := !u.sys.perstN) (by rwa [hq] : (qAt u q).state ∈ [1, 2, 3, 4])
    obtain ⟨hstate', hrem'⟩ := (bellsAfter_still (q := q) u _).2 hstate
    exact ⟨hstate', by rw [hrem', hrem, hq]⟩
  · rw [hb.same (.fn .bme) (by decide +kernel) n, hb.same (.fn .dState) (by decide +kernel) n, hb.same (.fn .msixEn) (by decide +kernel) n,
      hb.same (.fn .present) (by decide +kernel) n]
    exact fn_hostReset ..

/-! ## PERST_N high -/

theorem width_listed (k : Nat) : [16, 8, 4, 1].getD (k % 4) 16 ∈ [16, 8, 4, 1] := by
  have hk : k % 4 < 4 := Nat.mod_lt _ (by decide)
  interval_cases k % 4 <;> simp

theorem width_trainLanes (s : State) : (trainLanes s).sys.linkWidth ∈ [16, 8, 4, 1] := width_listed _

/-- PERST_N high and WAKE_N released, the link trained. -/
def raised (s : State) : State := { trainLanes s with sys := { (trainLanes s).sys with perstN := true, wakeDriven := false } }

/-- The part awake with its HIF shed on. -/
def switchedOn (s : State) : State := if s.sys.porstN && !s.en.flushActive then setShed (endDeepSleep s) 21 2 else s

/-- What the functions kept for a wake is cleared. -/
def wakesCleared (x : Fn) : Fn :=
  { x with pmeAtCold := false, vecs := smMap {} (fun _ (v : Vec) => { v with wakeCount := 0, wakeTimer := false, wakeEvent := false }) x.vecs }

/-- The link up where it trains. -/
def trained (s : State) : State := { s with port := { s.port with linkUp := linkTrains s }, fns := smMap {} (fun _ x => wakesCleared x) s.fns }

/-- The host told its latency tolerance again. -/
def relinked (s : State) : State := updateLtr (trained s)

/-- The doorbells that came in deep sleep act where the part is on. -/
def bellsServed (s : State) : State := if s.sys.porstN && !s.en.flushActive then runBells s else s

theorem exec_perstNDeassert (h : s.sys.perstN = false) : exec .perstNDeassert s = .next (bellsServed (relinked (switchedOn (raised s)))) := by
  show Host.Outcome.next (if _ then _ else _) = _
  rw [if_neg (by simp [h])]
  rfl

theorem switchedOn_only (s : State) : Only [.sys .deepSleep, .en .shed, .tp .sleepScramble] s (switchedOn s) := by
  unfold switchedOn
  split
  · exact Only.then (setShed_only ..) (by decide +kernel) ((endDeepSleep_only s).mono (by decide +kernel))
  · exact Only.refl _ _

theorem shed_switchedOn (hp : s.sys.porstN = true) (hf : s.en.flushActive = false) : shedAt (switchedOn s) 21 = 2 := by
  unfold switchedOn
  rw [if_pos (by simp [hp, hf])]
  show smGet 0 (smSet 0 _ 21 2) 21 = 2
  exact smGet_smSet_self ..

theorem sys_relinked (s : State) : (relinked s).sys = s.sys := sys_of_only (s := trained s) (updateLtr_only (trained s)) (by decide +kernel)

theorem en_relinked (s : State) : (relinked s).en = s.en := en_of_only (s := trained s) (updateLtr_only (trained s)) (by decide +kernel)

theorem linkUp_relinked (s : State) : (relinked s).port.linkUp = linkTrains s := (updateLtr_only (trained s)).same (.port .linkUp) (by decide +kernel)

theorem bellsServed_only (s : State) : Only [.sys .wakeDriven, .sys .timeJournal, .port .linkState, .port .doorbells, .fn .pmeStatus, .fn .denied, .fn .vecs,
    .fn .cmpExpect, .fn .cmpSpoiled, .fn .cmpEq, .fn .cmpNe, .queue .state, .queue .p, .queue .errReason, .queue .errDetail, .queue .errIndex, .queue .defer,
    .queue .copies, .queue .heldBell, .queue .shadowOwed, .queue .pend, .queue .fetchFailed, .queue .fetchTried, .queue .recordedP, .pad .results,
    .pad .haltLog, .pad .haltOverflow, .jn .seq, .out] s (bellsServed s) := by
  unfold bellsServed
  split
  · exact runBells_only s
  · exact Only.refl _ _

theorem released_bellsServed (h : Released s) : Released (bellsServed s) := by
  unfold bellsServed
  split
  · exact released_runBells h
  · exact h

theorem perstNDeassert_trains (h : s.sys.perstN = false) : ∃ t, exec .perstNDeassert s = .next t ∧ t.sys.perstN = true ∧ t.sys.wakeDriven = false ∧
    t.sys.linkWidth ∈ [16, 8, 4, 1] ∧ (s.sys.porstN = true → s.en.flushActive = false → shedAt t 21 = 2) ∧
    t.port.linkUp = (s.sys.refclk && s.sys.porstN && (decide (6 ≤ s.sys.stage) || decide (2 ≤ s.sys.bootState))) := by
  refine ⟨_, exec_perstNDeassert h, ?_⟩
  have hon := switchedOn_only (raised s)
  have hb := bellsServed_only (relinked (switchedOn (raised s)))
  have hreleased : Released (relinked (switchedOn (raised s))) := by
    unfold Released
    rw [sys_relinked, hon.same (.sys .perstN) (by decide +kernel), hon.same (.sys .wakeDriven) (by decide +kernel)]
    exact ⟨rfl, rfl⟩
  obtain ⟨hperst, hwake⟩ := released_bellsServed hreleased
  refine ⟨hperst, hwake, ?_, fun hp hf => ?_, ?_⟩
  · rw [hb.same (.sys .linkWidth) (by decide +kernel), sys_relinked, hon.same (.sys .linkWidth) (by decide +kernel)]
    exact width_trainLanes s
  · unfold shedAt
    rw [en_of_only hb (by decide +kernel), en_relinked]
    exact shed_switchedOn hp hf
  · rw [hb.same (.port .linkUp) (by decide +kernel), linkUp_relinked,
      linkTrains_of_only hon (by decide +kernel) (by decide +kernel) (by decide +kernel) (by decide +kernel) (by decide +kernel)]
    rfl

/-! ## Function-level reset -/

theorem fnAt_resetFn_self (s : State) (n : Nat) : fnAt (resetFn s n) n = resetFnHif (fnAt s n) := by
  rw [resetFn, fnAt_of_only (holdFnQueues_only ..) (by decide +kernel) n, fnAt_modFn_self]

theorem fnAt_resetFn_other (h : m ≠ n) : fnAt (resetFn s n) m = fnAt s m := by
  rw [resetFn, fnAt_of_only (holdFnQueues_only ..) (by decide +kernel) m, modFn, fnAt_putFn, if_neg h]

theorem held_resetFn (hfn : (qAt s q).fn = n) (hbx : (qAt s q).bx = false) (h : Open q s) : (qAt (resetFn s n) q).state = 5 :=
  held_holdFnQueues (s := modFn s n resetFnHif) hfn hbx h

theorem open_dropVfs (h : Open q s) (k : Nat) : Open q (dropVfs s k) := by
  rw [dropVfs_eq]
  exact foldl_keeps (f := dropVf) (P := Open q) _ (fun t m _ ht => by
    unfold Open
    rw [qAt_dropVf]
    exact open_holdFnQueues (s := modFn t m resetFnHif) ht) h

theorem owner_dropVfs (s : State) (k q : Nat) : (qAt (dropVfs s k) q).fn = (qAt s q).fn ∧ (qAt (dropVfs s k) q).bx = (qAt s q).bx := by
  rw [dropVfs_eq]
  exact foldl_keeps (f := dropVf) (P := fun t => (qAt t q).fn = (qAt s q).fn ∧ (qAt t q).bx = (qAt s q).bx) _ (fun t m _ ht => by
    rw [qAt_dropVf]
    obtain ⟨hf, hb⟩ := owner_holdFnQueues (q := q) (modFn t m resetFnHif) m
    exact ⟨hf.trans ht.1, hb.trans ht.2⟩) ⟨rfl, rfl⟩

/-- The PF's reset: its VFs removed, its port fields reset, then its own. -/
theorem functionReset_zero (s : State) : functionReset s 0 = resetFn { dropVfs s 0 with port := resetPort (dropVfs s 0).port } 0 := if_pos rfl

theorem functionReset_vf (h : n ≠ 0) : functionReset s n = resetFn s n := if_neg h

theorem fn_functionReset (s : State) (n : Nat) : ∃ x, fnAt (functionReset s n) n = resetFnHif x := by
  by_cases h : n = 0
  · subst h
    rw [functionReset_zero, fnAt_resetFn_self]
    exact ⟨_, rfl⟩
  · rw [functionReset_vf h, fnAt_resetFn_self]
    exact ⟨_, rfl⟩

theorem held_functionReset (hfn : (qAt s q).fn = n) (hbx : (qAt s q).bx = false) (h : Open q s) : (qAt (functionReset s n) q).state = 5 := by
  by_cases hn : n = 0
  · subst hn
    obtain ⟨hf, hb⟩ := owner_dropVfs s 0 q
    rw [functionReset_zero]
    exact held_resetFn (s := { dropVfs s 0 with port := resetPort (dropVfs s 0).port }) (hf.trans hfn) (hb.trans hbx) (open_dropVfs h 0)
  · rw [functionReset_vf hn]
    exact held_resetFn hfn hbx h

theorem resetFn_port (s : State) (n : Nat) : (resetFn s n).port.vfEnable = s.port.vfEnable ∧ (resetFn s n).port.aspmL1 = s.port.aspmL1 :=
  ⟨(resetFn_only s n).same (.port .vfEnable) (by decide +kernel), (resetFn_only s n).same (.port .aspmL1) (by decide +kernel)⟩

theorem functionLevelReset_resets (fn : Nat) (hc : cfgReaches s fn = true) :
    ∃ t, exec (.functionLevelReset fn) s = .next t ∧ (fnAt t fn).bme = false ∧ (fnAt t fn).dState = 0 ∧ (fnAt t fn).denied = 0 ∧
      (fnAt t fn).vecs = [] ∧ (fnAt t fn).evMap = [] ∧ (fnAt t fn).cmpEq = 0#32 ∧ (fnAt t fn).cfg = {} ∧
      (∀ q, (qAt s q).fn = fn → (qAt s q).bx = false → (qAt s q).state ∈ [1, 2, 3, 4] → (qAt t q).state = 5) ∧
      (fn = 0 → t.port.vfEnable = false ∧ t.port.aspmL1 = false ∧ ∀ n, 0 < n → n < 65 → (fnAt t n).present = false) ∧
      (fn ≠ 0 → ∀ n, n ≠ fn → fnAt t n = fnAt s n) := by
  refine ⟨_, congrArg Host.Outcome.next (if_pos hc), ?_⟩
  obtain ⟨x, hx⟩ := fn_functionReset s fn
  rw [hx]
  refine ⟨rfl, rfl, rfl, rfl, rfl, rfl, rfl, fun q hfn hbx hq => ?_, fun h0 => ?_, fun h0 n hn => ?_⟩
  · refine held_functionReset hfn hbx ?_
    simp only [List.mem_cons, List.not_mem_nil, or_false] at hq
    unfold Open
    omega
  · subst h0
    rw [functionReset_zero]
    obtain ⟨hvf, hl1⟩ := resetFn_port { dropVfs s 0 with port := resetPort (dropVfs s 0).port } 0
    refine ⟨hvf, hl1, fun n hn h65 => ?_⟩
    rw [fnAt_resetFn_other (by omega)]
    exact absent_dropVfs hn h65
  · rw [functionReset_vf h0, fnAt_resetFn_other hn]

/-! ## The reference clock -/

/-- The port without its reference clock. -/
def unclocked (s : State) : State := { s with sys := { s.sys with refclk := false }, port := { s.port with linkUp := false, linkState := 0 } }

theorem exec_refclkLoss (hp : s.sys.porstN = true) (hr : s.sys.refclk = true) : exec .refclkLoss s = .next (
    let d := if 2 ≤ s.port.linkState then draw s else (1, s)
    if d.1 % 2 == 0 then d.2
    else if (unclocked d.2).en.flushActive then unclocked d.2 else settle (raiseFault (unclocked d.2) 0x282 0x19 false 0 0)) := by
  show Host.Outcome.next (if _ then _ else _) = _
  rw [if_neg (by simp [hp, hr])]
  rfl

/-- A lost reference clock takes no unit out of use. -/
theorem raiseFault_refclk (s : State) : raiseFault s 0x282 0x19 false 0 0 = report s 0x282 0x19 false 0 0 :=
  faultAction_none (by decide) (by decide) (by decide)

theorem refclk_reported (hc : FaultsClear s) :
    let t := settle (raiseFault (unclocked s) 0x282 0x19 false 0 0)
    t.sys.refclk = false ∧ t.port.linkUp = false ∧ (findOut t.fc 0x282 0x19).isSome = true := by
  dsimp only
  rw [raiseFault_refclk]
  have hdue : NothingDue (report (unclocked s) 0x282 0x19 false 0 0) := report_nothingDue (by decide) hc (.of_none (by decide))
  have hsettle := settle_only_of_nothingDue hdue
  have hreport := report_only (unclocked s) 0x282 0x19 false 0 0
  refine ⟨(hsettle.same (.sys .refclk) (by decide +kernel)).trans (hreport.same (.sys .refclk) (by decide +kernel)),
    (hsettle.same (.port .linkUp) (by decide +kernel)).trans (hreport.same (.port .linkUp) (by decide +kernel)), ?_⟩
  rw [fc_of_only hsettle (by decide +kernel), report_findOut (s := unclocked s) (by decide) hc.1]
  rfl

theorem refclkLoss_loses (hp : s.sys.porstN = true) (hr : s.sys.refclk = true) (hl : s.port.linkState < 2 ∨ Config.freeValue s.freeCtr % 2 = 1)
    (hf : s.en.flushActive = false) (hc : FaultsClear s) :
    ∃ t, exec .refclkLoss s = .next t ∧ t.sys.refclk = false ∧ t.port.linkUp = false ∧ (findOut t.fc 0x282 0x19).isSome = true := by
  by_cases h2 : 2 ≤ s.port.linkState
  · have hodd : (draw s).1 % 2 = 1 := by
      rcases hl with h | h
      · omega
      · exact h
    refine ⟨_, (exec_refclkLoss hp hr).trans ?_, refclk_reported (s := (draw s).2) hc⟩
    simp only [h2, if_true, hodd]
    rw [if_neg (by decide), if_neg (by simp [unclocked, draw, hf])]
  · refine ⟨_, (exec_refclkLoss hp hr).trans ?_, refclk_reported hc⟩
    simp only [h2, if_false]
    rw [if_neg (by decide), if_neg (by simp [unclocked, hf])]

theorem refclkLoss_asleep (hp : s.sys.porstN = true) (hr : s.sys.refclk = true) (hl : 2 ≤ s.port.linkState) (hd : Config.freeValue s.freeCtr % 2 = 0) :
    exec .refclkLoss s = .next { s with freeCtr := s.freeCtr + 1 } := by
  have heven : (draw s).1 % 2 = 0 := hd
  rw [exec_refclkLoss hp hr]
  simp only [hl, if_true, heven]
  rfl

/-- The port with its reference clock back and its link trained. -/
def reclocked (s : State) : State := { trainLanes s with sys := { (trainLanes s).sys with refclk := true } }

theorem exec_linkReturn (hr : s.sys.refclk = false) (hp : s.sys.porstN = true) (hf : s.en.flushActive = false) :
    exec .linkReturn s = .next (causeEnds (hostReset (reclocked s) (!(reclocked s).sys.perstN)) 0x282 0x19) := by
  show Host.Outcome.next (if _ then _ else _) = _
  rw [if_neg (by simp [hr])]
  refine congrArg Host.Outcome.next (if_pos ?_)
  show (s.sys.porstN && !s.en.flushActive) = true
  simp [hp, hf]

theorem linkReturn_resets (hr : s.sys.refclk = false) (hp : s.sys.porstN = true) (hf : s.en.flushActive = false) :
    ∃ t, exec .linkReturn s = .next t ∧ t.sys.refclk = true ∧ t.sys.causeHif = true ∧ t.sys.linkWidth ∈ [16, 8, 4, 1] ∧
      t.port.linkUp = (s.sys.perstN && (decide (6 ≤ s.sys.stage) || decide (2 ≤ s.sys.bootState))) ∧
      (∀ q, (qAt s q).state ∈ [1, 2, 3, 4] → (qAt t q).state = 5) := by
  refine ⟨_, exec_linkReturn hr hp hf, ?_⟩
  have hends := causeEnds_only (hostReset (reclocked s) (!(reclocked s).sys.perstN)) 0x282 0x19
  have hreset := hostReset_only (reclocked s) (!(reclocked s).sys.perstN)
  refine ⟨?_, ?_, ?_, ?_, fun q hq => ?_⟩
  · rw [hends.same (.sys .refclk) (by decide +kernel), hreset.same (.sys .refclk) (by decide +kernel)]
    rfl
  · rw [hends.same (.sys .causeHif) (by decide +kernel), causeHif_hostReset]
  · rw [hends.same (.sys .linkWidth) (by decide +kernel), hreset.same (.sys .linkWidth) (by decide +kernel)]
    exact width_trainLanes s
  · rw [hends.same (.port .linkUp) (by decide +kernel), linkUp_hostReset]
    show (s.sys.perstN && true && s.sys.porstN && _) = _
    rw [hp, Bool.and_true, Bool.and_true]
    rfl
  · rw [hends.same (.queue .state) (by decide +kernel) q]
    have hq' : qAt (reclocked s) q = qAt s q := rfl
    exact (held_hostReset (s := reclocked s) (by rwa [hq'])).1

end

/-- Settles O12: the host-interface reset, PERST_N high, FLR, and the reference clock lost and back. -/
theorem hostInterfaceResets : Obligations.HostInterfaceResets := by
  unfold Obligations.HostInterfaceResets
  exact fun s => ⟨fun cause hp hf => hostInterfaceReset_resets cause hp hf, perstNDeassert_trains, functionLevelReset_resets, refclkLoss_loses,
    refclkLoss_asleep, linkReturn_resets⟩

end Sys2Proof.LinkResets
end

section
/-! SUPPORT. The last steps of cold boot: the gate opens (R78), the journal's banks are read (R26), the source's first tests (R316). -/

namespace Sys2Proof.Boot

open Sys2Proof Sys2Proof.Machine Sys2Proof.Claims Sys2Proof.Frames Sys2Proof.Holding Sys2Proof.PadReset Sys2Proof.Jobs

section
variable {s t : State} {b : BootIn}

/-! ## Step 16 -/

/-- The part in operation, its paddocks' generations due. -/
def opens (s : State) : State :=
  let u := { s with sys := { s.sys with stage := 16, bootState := 1, wait := .done }, jn := { s.jn with opened := gateMayOpen s } }
  { u with pads := (padsPresent u).foldl (fun m p => smMod {} m p fun x => { x with genDue := true }) u.pads }

/-- Step 16 without the warm reset that was held. -/
def gateOpens (s : State) : State :=
  updateLtr (runBells (replaysDone (redrain ([1, 2, 3, 4].foldl sweepKind
    (reloadBlobs (mirrorCopies (raiseFloors (replayAll (recreateLoads (opens s)) (fun _ => true) false))))))))

theorem opens_only (s : State) : Only (Part.allPad ++ [.sys .stage, .sys .bootState, .sys .wait, .jn .opened]) s (opens s) := by
  unfold opens
  refine put_pads (by decide +kernel) ?_
  refine put_sys_jn ?_ ?_ (Only.refl _ _)
  · exact Sys.set_stage_bootState_wait (by decide +kernel) (SysReg.refl _ _)
  · exact Journal.set_opened (by decide +kernel) (JnReg.refl _ _)

theorem opens_sys (s : State) : (opens s).sys.stage = 16 ∧ (opens s).sys.bootState = 1 ∧ (opens s).sys.wait = .done ∧
    (opens s).jn.opened = gateMayOpen s := ⟨rfl, rfl, rfl, rfl⟩

/-- What the opening of the gate may change beside the gate and the stage. -/
def opening : List Part := Part.drainQueue ++ Part.allPad ++ [.sys .wakeDriven, .sys .timeJournal, .lc .floorRecs, .port .doorbells, .fn .pmeStatus, .fn .denied,
  .fn .vecs, .fn .cmpExpect, .fn .cmpSpoiled, .fn .cmpEq, .fn .cmpNe, .hl .images]

theorem gateOpens_only (s : State) : Only opening (opens s) (gateOpens s) := by
  unfold gateOpens
  refine Only.then (updateLtr_only ..) (by decide +kernel) ?_
  refine Only.then (runBells_only ..) (by decide +kernel) ?_
  refine Only.then (replaysDone_only ..) (by decide +kernel) ?_
  refine Only.then (redrain_only ..) (by decide +kernel) ?_
  refine Only.foldl _ (fun t x => (sweepKind_only t x).mono (by decide +kernel)) ?_
  refine Only.then (reloadBlobs_only ..) (by decide +kernel) ?_
  refine Only.then (mirrorCopies_only ..) (by decide +kernel) ?_
  refine Only.then (raiseFloors_only ..) (by decide +kernel) ?_
  refine Only.then (replayAll_only ..) (by decide +kernel) ?_
  exact (recreateLoads_only _).mono (by decide +kernel)

/-- With no warm reset held the gate opens and no more. -/
theorem openGate_unheld (h : s.sys.heldWarm = none) : openGate s = gateOpens s := by
  have hgate : (gateOpens s).sys.heldWarm = (opens s).sys.heldWarm := (gateOpens_only s).same (.sys .heldWarm) (by decide +kernel)
  have hopens : (opens s).sys.heldWarm = s.sys.heldWarm := rfl
  have hheld : (gateOpens s).sys.heldWarm = none := hgate.trans (hopens.trans h)
  unfold gateOpens opens at hheld ⊢
  unfold openGate
  dsimp only at hheld ⊢
  rw [hheld]

theorem gateOpens_sys (s : State) : (gateOpens s).sys.stage = 16 ∧ (gateOpens s).sys.bootState = 1 ∧ (gateOpens s).sys.wait = .done ∧
    (gateOpens s).jn.opened = gateMayOpen s := by
  have h := gateOpens_only s
  have hstage : (gateOpens s).sys.stage = (opens s).sys.stage := h.same (.sys .stage) (by decide +kernel)
  have hstate : (gateOpens s).sys.bootState = (opens s).sys.bootState := h.same (.sys .bootState) (by decide +kernel)
  have hwait : (gateOpens s).sys.wait = (opens s).sys.wait := h.same (.sys .wait) (by decide +kernel)
  have hopened : (gateOpens s).jn.opened = (opens s).jn.opened := h.same (.jn .opened) (by decide +kernel)
  rw [hstage, hstate, hwait, hopened]
  exact opens_sys s

theorem opened_only (s : State) : Only (opening ++ [.sys .stage, .sys .bootState, .sys .wait, .jn .opened]) s (gateOpens s) :=
  Only.then (gateOpens_only s) (by decide +kernel) ((opens_only s).mono (by decide +kernel))

/-! ## A part without records stays without them -/

theorem NoneStarts.nil (h : NoneStarts s t) (hs : s.jobs = []) : t.jobs = [] :=
  List.eq_nil_iff_forall_not_mem.mpr fun j hj => by
    obtain ⟨x, hx, -⟩ := h j hj
    simp [hs] at hx

theorem jobs_setJobs (s : State) (l : List Job) : (setJobs s l).jobs = l := rfl

theorem replayAll_nil (hs : s.jobs = []) (sel : Job → Bool) (useCkpt : Bool) : (replayAll s sel useCkpt).jobs = [] := by
  show (setJobs s _).jobs = []
  rw [jobs_setJobs, hs]
  rfl

theorem reloadBlobs_nil (hs : s.jobs = []) : (reloadBlobs s).jobs = [] := by
  have hlive : liveJobs s = [] := by simp [liveJobs, hs]
  unfold reloadBlobs
  rw [hlive]
  exact hs

theorem gateOpens_nil (hs : s.jobs = []) : (gateOpens s).jobs = [] := by
  unfold gateOpens
  rw [(updateLtr_only _).same .jobs (by decide +kernel), (runBells_only _).same .jobs (by decide +kernel), (replaysDone_only _).same .jobs (by decide +kernel)]
  refine NoneStarts.nil (redrain_noneStarts _) (NoneStarts.nil (NoneStarts.foldl _ sweepKind_noneStarts _) (reloadBlobs_nil ?_))
  rw [(mirrorCopies_only _).same .jobs (by decide +kernel), (raiseFloors_only _).same .jobs (by decide +kernel)]
  refine replayAll_nil ?_ _ _
  rw [(recreateLoads_only _).same .jobs (by decide +kernel)]
  exact hs

/-! ## Step 13 -/

/-- Both banks hold the journal, from the next accept_seq on. -/
def banksRead (s : State) : State :=
  raiseBound { s with jn := { s.jn with nextSeq := ownSide s (resumeSeq s s.jn.nextSeq), held := true, bank0 := true, bank1 := true } }

/-- The banks hold a recovered journal, and no flush is newer: boot goes on with them. -/
def banksKept (s : State) : State := resumeHbs (banksRead s)

/-- The journal empty. -/
def voided (s : State) : State :=
  { s with
    jobs := [], queues := [], pads := smMap {} (fun _ (x : Pad) => { x with caps := [], snaps := [] }) s.pads
    jn := { s.jn with lost := true, nextSeq := s.hl.boundB * seqStep s + (if s.plan.part.twin then b1 s.sys.straps.twinSide else 0) } }

/-- The journal and the yard empty, before the loss is reported. -/
def emptied (s : State) : State := fitYard (voided s)

/-- Neither bank nor flush holds one: the journal is empty and lost. -/
def journalLost (s : State) : State := report (emptied s) 0x080 0x14 false 0 0

theorem recoverJournal_banks (hflush : s.hl.flush.present = false) (hheld : s.jn.held = true) (hb : b.banksOk = true) : recoverJournal s b = banksKept s := by
  unfold recoverJournal banksKept banksRead
  simp only [hflush, hheld, hb]
  rfl

theorem loseLapsed_nil (h : s.jobs = []) : loseLapsed s = s := by
  unfold loseLapsed
  rw [h]
  rfl

theorem banksRead_jobs (s : State) : (banksRead s).jobs = s.jobs := (raiseBound_only _).same .jobs (by decide +kernel)

theorem jobs_journalLost (s : State) : (journalLost s).jobs = [] := (report_only ..).same .jobs (by decide +kernel)

theorem recoverJournal_lost (hflush : s.hl.flush.present = false) (hb : (s.jn.held && b.banksOk) = false) :
    recoverJournal s b = banksKept (journalLost s) := by
  have hlapsed : loseLapsed (banksRead (journalLost s)) = banksRead (journalLost s) := loseLapsed_nil (by rw [banksRead_jobs, jobs_journalLost])
  unfold banksKept
  rw [← hlapsed]
  unfold recoverJournal banksRead journalLost emptied voided
  simp only [hflush, hb, Bool.false_and, Bool.false_eq_true, if_false]

theorem raiseBound_jn (s : State) : (raiseBound s).jn = s.jn := by
  unfold raiseBound
  dsimp only
  split
  · rfl
  · rfl

theorem banksKept_only (s : State) : Only [.sys .wakeDriven, .port .linkState, .fn .pmeStatus, .fn .vecs, .tk .hbs, .hl .boundB, .jn .nextSeq, .jn .held,
    .jn .bank0, .jn .bank1, .out] s (banksKept s) := by
  unfold banksKept banksRead
  refine Only.then (resumeHbs_only ..) (by decide +kernel) ?_
  refine Only.then (raiseBound_only ..) (by decide +kernel) ?_
  exact put_jn (Journal.set_bank0_bank1_nextSeq_held (by decide +kernel) (JnReg.refl _ _)) (Only.refl _ _)

theorem banksKept_jn (s : State) : (banksKept s).jn.held = true ∧ (banksKept s).jn.bank0 = true ∧ (banksKept s).jn.bank1 = true := by
  unfold banksKept banksRead
  rw [jn_of_only (resumeHbs_only _) (by decide +kernel), raiseBound_jn]
  exact ⟨rfl, rfl, rfl⟩

end

end Sys2Proof.Boot
end

section
/-! PROOF. The waits of boot end (R72, R83, R95, R200, R501; O13). -/

namespace Sys2Proof.BootWaits

open Sys2Proof Sys2Proof.Machine Sys2Proof.Claims Sys2Proof.Frames Sys2Proof.PadReset Sys2Proof.Boot

section
variable {s t : State} {b : BootIn}

theorem nothingDue_of_only {l : List Part} (h : NothingDue s) (ho : Only l s t) (hesc : Part.fc .escNow ∉ l) (hretire : Part.fc .retireNow ∉ l) :
    NothingDue t :=
  ⟨(ho.same (.fc .escNow) hesc).trans h.1, (ho.same (.fc .retireNow) hretire).trans h.2⟩

/-! ## The reserve -/

/-- The part waits for its bank, which is told (R72). -/
def shortOfReserve (s : State) : State := raisePart { s with sys := { s.sys with wait := .reserve } } 1

theorem shortOfReserve_only (s : State) : Only [.sys .wait, .sys .wakeDriven, .port .linkState, .fn .pmeStatus, .fn .vecs, .out] s (shortOfReserve s) := by
  refine Only.then (raisePart_only ..) (by decide +kernel) ?_
  exact put_sys (Sys.set_wait (by decide +kernel) (SysReg.refl _ _)) (Only.refl _ _)

theorem wait_shortOfReserve (s : State) : (shortOfReserve s).sys.wait = .reserve := (raisePart_only ..).same (.sys .wait) (by decide +kernel)

theorem reserveRecheck_waits (hdue : NothingDue s) (hw : s.sys.wait = .reserve) (hplan : s.plan.loaded = true) (hbank : bankSuffices s = false) :
    ∃ t, exec (.bootReserveRecheck b) s = .next t ∧ t.sys.wait = .reserve ∧ t.sys.bootState = s.sys.bootState ∧ t.sys.stage = s.sys.stage := by
  by_cases hstate : s.sys.bootState = 0
  · have hcheck : exec (.bootReserveRecheck b) s = .next (settle (shortOfReserve { s with sys := { s.sys with wait := .inReset } })) := by
      show Host.Outcome.next (if _ then _ else if _ then _ else _) = _
      rw [if_neg (by simp [hw]), if_pos hstate, bootReserve, if_pos]
      · rfl
      · rw [hplan]
        show (true && !bankSuffices s) = true
        rw [hbank]
        rfl
    have ho := shortOfReserve_only { s with sys := { s.sys with wait := .inReset } }
    have hs := settle_only_of_nothingDue (nothingDue_of_only (s := { s with sys := { s.sys with wait := .inReset } }) hdue ho (by decide +kernel) (by decide +kernel))
    exact ⟨_, hcheck, (hs.same (.sys .wait) (by decide +kernel)).trans (wait_shortOfReserve _),
      (hs.same (.sys .bootState) (by decide +kernel)).trans (ho.same (.sys .bootState) (by decide +kernel)),
      (hs.same (.sys .stage) (by decide +kernel)).trans (ho.same (.sys .stage) (by decide +kernel))⟩
  · refine ⟨s, ?_, hw, rfl, rfl⟩
    show Host.Outcome.next (if _ then _ else if _ then _ else if _ then _ else _) = _
    rw [if_neg (by simp [hw]), if_neg hstate, if_pos (by simp [hplan, hbank])]

/-- The first evaluation of the reserve at step 12, POWER_FAIL_N being low. -/
def heldForPower (s : State) : State :=
  let u := firstReserve { s with sys := { s.sys with wait := .inReset, stage := 12 } }
  { u with sys := { u.sys with wait := .powerFail } }

theorem reserveLow_firstReserve (s : State) : (firstReserve s).en.reserveLow = !reserveCovers s (nLive s) := by
  unfold firstReserve
  dsimp only
  split
  · exact (raisePart_only ..).same (.en .reserveLow) (by decide +kernel)
  · rfl

theorem bootReserve_enough (h : bankSuffices s = true) : bootReserve s b = bootJournal (firstReserve { s with sys := { s.sys with stage := 12 } }) b :=
  if_neg (by simp [h])

theorem bootJournal_waits (h : s.sys.powerFailN = false) : bootJournal s b = { s with sys := { s.sys with wait := .powerFail } } := if_pos (by simp [h])

theorem bootJournal_reads (h : s.sys.powerFailN = true) :
    bootJournal s b = bootUnseal { recoverJournal s b with sys := { (recoverJournal s b).sys with stage := 13 } } b := if_neg (by simp [h])

theorem reserveRecheck_goesOn (hdue : NothingDue s) (hw : s.sys.wait = .reserve) (hstate : s.sys.bootState = 0) (hbank : bankSuffices s = true)
    (hpf : s.sys.powerFailN = false) :
    ∃ t, exec (.bootReserveRecheck b) s = .next t ∧ t.sys.wait = .powerFail ∧ t.sys.stage = 12 ∧ t.en.reserveLow = !reserveCovers s (nLive s) := by
  have hfirst := firstReserve_only { s with sys := { s.sys with wait := .inReset, stage := 12 } }
  have hpf' : (firstReserve { s with sys := { s.sys with wait := .inReset, stage := 12 } }).sys.powerFailN = false :=
    (hfirst.same (.sys .powerFailN) (by decide +kernel)).trans hpf
  have hcheck : exec (.bootReserveRecheck b) s = .next (settle (heldForPower s)) := by
    show Host.Outcome.next (if _ then _ else if _ then _ else _) = _
    rw [if_neg (by simp [hw]), if_pos hstate, bootReserve_enough (s := { s with sys := { s.sys with wait := .inReset } }) hbank]
    exact congrArg (fun u => Host.Outcome.next (settle u)) (bootJournal_waits hpf')
  have hdue' : NothingDue (heldForPower s) :=
    nothingDue_of_only (s := { s with sys := { s.sys with wait := .inReset, stage := 12 } })
      (t := firstReserve { s with sys := { s.sys with wait := .inReset, stage := 12 } }) hdue hfirst (by decide +kernel) (by decide +kernel)
  have hs := settle_only_of_nothingDue hdue'
  have hstage : (heldForPower s).sys.stage = 12 := hfirst.same (.sys .stage) (by decide +kernel)
  refine ⟨_, hcheck, hs.same (.sys .wait) (by decide +kernel), (hs.same (.sys .stage) (by decide +kernel)).trans hstage,
    (hs.same (.en .reserveLow) (by decide +kernel)).trans ?_⟩
  exact reserveLow_firstReserve { s with sys := { s.sys with wait := .inReset, stage := 12 } }

theorem warmOpen_opened (s : State) : (warmOpen s).jn.opened = gateMayOpen s := by
  have hrel : ∀ u : State, (replaysDone (releaseGate u)).jn.opened = u.jn.opened := fun u => 
    ((replaysDone_only _).same (.jn .opened) (by decide +kernel)).trans ((releaseGate_only u).same (.jn .opened) (by decide +kernel))
  unfold warmOpen
  dsimp only
  rw [(runBells_only _).same (.jn .opened) (by decide +kernel)]
  split
  · rw [(mirrorCopies_only _).same (.jn .opened) (by decide +kernel), (raiseFloors_only _).same (.jn .opened) (by decide +kernel), hrel]
  · exact hrel _

theorem reserveRecheck_opens (hdue : NothingDue s) (hw : s.sys.wait = .reserve) (hstate : s.sys.bootState = 1) (hbank : bankSuffices s = true) :
    ∃ t, exec (.bootReserveRecheck b) s = .next t ∧ t.sys.wait = .done ∧ t.jn.opened = gateMayOpen s := by
  have hcheck : exec (.bootReserveRecheck b) s = .next (settle (warmOpen { s with sys := { s.sys with wait := .done } })) := by
    show Host.Outcome.next (if _ then _ else if _ then _ else if _ then _ else _) = _
    rw [if_neg (by simp [hw]), if_neg (by simp [hstate]), if_neg (by simp [hbank])]
  have ho := warmOpen_only { s with sys := { s.sys with wait := .done } }
  have hs := settle_only_of_nothingDue (nothingDue_of_only (s := { s with sys := { s.sys with wait := .done } }) hdue ho (by decide +kernel) (by decide +kernel))
  exact ⟨_, hcheck, (hs.same (.sys .wait) (by decide +kernel)).trans (ho.same (.sys .wait) (by decide +kernel)),
    (hs.same (.jn .opened) (by decide +kernel)).trans (warmOpen_opened _)⟩

/-! ## POWER_FAIL_N -/

/-- Step 14 done: the tack room unsealed where the life-cycle state derives keys. -/
def unsealed (s : State) : State :=
  let u := if 1 ≤ s.lc.state ∧ s.lc.state ≤ 4 then unsealTack s else s
  { u with sys := { u.sys with stage := 14 } }

theorem unsealed_only (s : State) : Only [.sys .stage, .tk .slots, .tk .blobs, .tk .unsealed, .tk .restoring, .tk .maskDraw, .tk .permDraw, .tk .ownerRoot,
    .tk .jseal, .tk .scrambled, .jobs, .yard, .freeCtr] s (unsealed s) := by
  unfold unsealed
  dsimp only
  refine put_sys (Sys.set_stage (by decide +kernel) (SysReg.refl _ _)) ?_
  split
  · exact (unsealTack_only s).mono (by decide +kernel)
  · exact Only.refl _ _

theorem bootUnseal_banks (h : s.jn.fromFlush = false) : bootUnseal s b = bootRandom (unsealed s) b := by
  unfold bootUnseal unsealed
  simp only [h]
  rfl

/-- The source's first tests have failed and wait to be repeated. -/
def failedTests (s : State) (kat : Bool) : State :=
  { s with rng := { s.rng with katOk := kat, attempts := s.rng.attempts + 1 }, sys := { s.sys with wait := .random } }

theorem bootRandom_fails (hr : s.rng = {}) (hk : b.kat = false) : bootRandom s b = failedTests s false := by
  have hrun : runStartup s b.rngPassed b.kat = { s with rng := { s.rng with katOk := b.kat, attempts := s.rng.attempts + 1 } } := by
    unfold runStartup
    dsimp only
    rw [if_neg (by simp [startupPasses, hk]), if_neg (by simp [hr]), if_neg (by simp [hr])]
  unfold bootRandom
  rw [hrun, hk]
  exact if_neg (by simp [hr])

/-- POWER_FAIL_N high, step 13 begun. -/
def powered (s : State) : State := { s with sys := { s.sys with wait := .inReset, powerFailN := true } }

/-- Step 13 with the journal's banks kept. -/
def keptAt13 (s : State) : State :=
  { banksKept (powered s) with sys := { (banksKept (powered s)).sys with stage := 13 } }

theorem keptAt13_only (s : State) : Only [.sys .stage, .sys .wakeDriven, .port .linkState, .fn .pmeStatus, .fn .vecs, .tk .hbs, .hl .boundB, .jn .nextSeq,
    .jn .held, .jn .bank0, .jn .bank1, .out] (powered s) (keptAt13 s) :=
  put_sys (Sys.set_stage (by decide +kernel) (SysReg.refl _ _)) ((banksKept_only (powered s)).mono (by decide +kernel))

/-- Boot held at step 15, its banks kept. -/
def awaitsRandom (s : State) : State := failedTests (unsealed (keptAt13 s)) false

theorem rng_unsealed (s : State) : (unsealed (keptAt13 s)).rng = s.rng :=
  (rng_of_only (unsealed_only _) (by decide +kernel)).trans (rng_of_only (s := powered s) (keptAt13_only s) (by decide +kernel))

theorem exec_powerFailWait (hw : s.sys.wait = .powerFail) (hheld : s.jn.held = true) (hff : s.jn.fromFlush = false) (hb : b.banksOk = true)
    (hflush : s.hl.flush.present = false) (hr : s.rng = {}) (hk : b.kat = false) : exec (.bootPowerFailWaitEnd b) s = .next (settle (awaitsRandom s)) := by
  have hff' : (keptAt13 s).jn.fromFlush = false := ((keptAt13_only s).same (.jn .fromFlush) (by decide +kernel)).trans hff
  have hjournal : bootJournal (powered s) b = awaitsRandom s := by
    rw [bootJournal_reads rfl, recoverJournal_banks (s := powered s) hflush hheld hb]
    exact (bootUnseal_banks hff').trans (bootRandom_fails ((rng_unsealed s).trans hr) hk)
  rw [← hjournal]
  exact congrArg Host.Outcome.next (if_pos hw)

theorem awaitsRandom_jn (s : State) : (awaitsRandom s).jn.held = true ∧ (awaitsRandom s).jn.bank0 = true ∧ (awaitsRandom s).jn.bank1 = true ∧
    (awaitsRandom s).jn.lost = s.jn.lost := by
  have hjn : (awaitsRandom s).jn = (banksKept (powered s)).jn :=
    jn_of_only (s := keptAt13 s) (t := unsealed (keptAt13 s)) (unsealed_only _) (by decide +kernel)
  rw [hjn]
  obtain ⟨hheld, hbank0, hbank1⟩ := banksKept_jn (powered s)
  exact ⟨hheld, hbank0, hbank1, (banksKept_only (powered s)).same (.jn .lost) (by decide +kernel)⟩

theorem awaitsRandom_sys (hr : s.rng = {}) : (awaitsRandom s).sys.powerFailN = true ∧ (awaitsRandom s).sys.stage = 14 ∧ (awaitsRandom s).sys.wait = .random ∧
    (awaitsRandom s).rng.attempts = 1 ∧ (awaitsRandom s).time = s.time := by
  have hseal := unsealed_only (keptAt13 s)
  have hkept := keptAt13_only s
  have hattempts : (awaitsRandom s).rng.attempts = (unsealed (keptAt13 s)).rng.attempts + 1 := rfl
  refine ⟨?_, rfl, rfl, by rw [hattempts, rng_unsealed, hr], ?_⟩
  · exact (hseal.same (.sys .powerFailN) (by decide +kernel)).trans (hkept.same (.sys .powerFailN) (by decide +kernel))
  · exact (hseal.same .time (by decide +kernel)).trans (hkept.same .time (by decide +kernel))

theorem awaitsRandom_nothingDue (hdue : NothingDue s) : NothingDue (awaitsRandom s) :=
  nothingDue_of_only (s := keptAt13 s) (t := unsealed (keptAt13 s))
    (nothingDue_of_only (s := powered s) hdue (keptAt13_only s) (by decide +kernel) (by decide +kernel)) (unsealed_only _) (by decide +kernel) (by decide +kernel)

theorem powerFailWait_ends (hdue : NothingDue s) (hw : s.sys.wait = .powerFail) (hheld : s.jn.held = true) (hff : s.jn.fromFlush = false) (hb : b.banksOk = true)
    (hflush : s.hl.flush.present = false) (hr : s.rng = {}) (hk : b.kat = false) :
    ∃ t, exec (.bootPowerFailWaitEnd b) s = .next t ∧ t.sys.powerFailN = true ∧ t.sys.stage = 14 ∧ t.sys.wait = .random ∧
      t.rng.attempts = 1 ∧ t.jn.held = true ∧ t.jn.bank0 = true ∧ t.jn.bank1 = true ∧ t.jn.lost = s.jn.lost ∧ t.time = s.time := by
  have hexec := exec_powerFailWait hw hheld hff hb hflush hr hk
  have hs := settle_only_of_nothingDue (awaitsRandom_nothingDue hdue)
  obtain ⟨hpower, hstage, hwait, hattempts, htime⟩ := awaitsRandom_sys hr
  obtain ⟨hheld', hbank0, hbank1, hlost⟩ := awaitsRandom_jn s
  generalize awaitsRandom s = u at hexec hs hpower hstage hwait hattempts htime hheld' hbank0 hbank1 hlost
  have hjn : (settle u).jn = u.jn := jn_of_only hs (by decide +kernel)
  rw [← hjn] at hheld' hbank0 hbank1 hlost
  exact ⟨_, hexec, (hs.same (.sys .powerFailN) (by decide +kernel)).trans hpower, (hs.same (.sys .stage) (by decide +kernel)).trans hstage,
    (hs.same (.sys .wait) (by decide +kernel)).trans hwait, (hs.same (.rng .attempts) (by decide +kernel)).trans hattempts, hheld', hbank0, hbank1, hlost,
    (hs.same .time (by decide +kernel)).trans htime⟩

/-! ## The partner -/

/-- What a gate that opens leaves, once the command has settled. -/
theorem settled_gate (hdue : NothingDue s) (hheld : s.sys.heldWarm = none) (ht : t = settle (openGate s)) :
    t.sys.bootState = 1 ∧ t.sys.stage = 16 ∧ t.jn.opened = gateMayOpen s ∧ t.jn.role = s.jn.role ∧ t.jn.term = s.jn.term ∧
      t.tt.partnerFailed = s.tt.partnerFailed ∧ t.tt.partnerPresent = s.tt.partnerPresent ∧ (s.jobs = [] → t.jobs = []) := by
  rw [openGate_unheld hheld] at ht
  have ho := opened_only s
  have hs := settle_only_of_nothingDue (nothingDue_of_only hdue ho (by decide +kernel) (by decide +kernel))
  rw [← ht] at hs
  obtain ⟨hstage, hstate, -, hopened⟩ := gateOpens_sys s
  exact ⟨(hs.same (.sys .bootState) (by decide +kernel)).trans hstate, (hs.same (.sys .stage) (by decide +kernel)).trans hstage,
    (hs.same (.jn .opened) (by decide +kernel)).trans hopened, (hs.same (.jn .role) (by decide +kernel)).trans (ho.same (.jn .role) (by decide +kernel)),
    (hs.same (.jn .term) (by decide +kernel)).trans (ho.same (.jn .term) (by decide +kernel)),
    (hs.same (.tt .partnerFailed) (by decide +kernel)).trans (ho.same (.tt .partnerFailed) (by decide +kernel)),
    (hs.same (.tt .partnerPresent) (by decide +kernel)).trans (ho.same (.tt .partnerPresent) (by decide +kernel)),
    fun h => (hs.same .jobs (by decide +kernel)).trans (gateOpens_nil h)⟩

/-- This side alone, which serves the queues of both. -/
def servesBoth (s : State) : State :=
  { serveBoth s with jn := { (serveBoth s).jn with role := 2 }, tt := { (serveBoth s).tt with partnerFailed := true } }

theorem twinWait_opens (hdue : NothingDue s) (hw : s.sys.wait = .twin) (hm : s.tt.mismatch = false) (hside : s.sys.straps.twinSide = false)
    (hheld : s.sys.heldWarm = none) :
    ∃ t, exec (.twinWaitTimeout b) s = .next t ∧ t.sys.bootState = 1 ∧ t.sys.stage = 16 ∧ t.jn.opened = gateMayOpen s ∧ t.jn.role = 2 ∧
      t.tt.partnerFailed = true := by
  have hexec : exec (.twinWaitTimeout b) s = .next (settle (openGate (servesBoth s))) := congrArg Host.Outcome.next (if_pos ⟨hw, hm, hside⟩)
  generalize ht : settle (openGate (servesBoth s)) = t at hexec
  obtain ⟨hstate, hstage, hopened, hrole, -, hfailed, -, -⟩ := settled_gate (s := servesBoth s) hdue hheld ht.symm
  exact ⟨t, hexec, hstate, hstage, hopened, hrole, hfailed⟩

/-- The partner has been met. -/
def met (s : State) (term : Nat) : State :=
  { s with tt := { s.tt with partnerPresent := true, partnerTerm := term, linkUp := true, partnerFailed := false } }

/-- The fault of the missing partner is over. -/
def partnered (s : State) (term : Nat) : State := causeEnds (met s term) 0x184 0x24

theorem partnered_only (s : State) (term : Nat) : Only [.fc .out] (met s term) (partnered s term) := causeEnds_only ..

/-- One of two, behind a partner of a higher term. -/
def paired (s : State) (term : Nat) : State := { yieldTerm (partnered s term) with jn := { (yieldTerm (partnered s term)).jn with role := 1 } }

theorem term_yieldTerm (h : s.plan.part.twin = true) (hl : s.tt.linkUp = true) : (yieldTerm s).jn.term = max s.jn.term s.tt.partnerTerm ∧
    (s.jn.term < s.tt.partnerTerm → (yieldTerm s).jobs = []) := by
  by_cases hterm : s.jn.term < s.tt.partnerTerm
  · have hy : yieldTerm s = _ := if_pos (by simp [h, hl, hterm])
    rw [hy]
    exact ⟨(Nat.max_eq_right hterm.le).symm, fun _ => rfl⟩
  · have hy : yieldTerm s = s := if_neg (by simp [hterm])
    rw [hy]
    exact ⟨(Nat.max_eq_left (Nat.le_of_not_lt hterm)).symm, fun h' => absurd h' hterm⟩

theorem twinPartner_opens (term : Nat) (side : Bool) (hdue : NothingDue s) (hw : s.sys.wait = .twin) (htwin : s.plan.part.twin = true)
    (hside : side ≠ s.sys.straps.twinSide) (hrole : s.jn.role ≠ 3) (hm : s.tt.mismatch = false) (hheld : s.sys.heldWarm = none) :
    ∃ t, exec (.twinPartnerPresent term side) s = .next t ∧ t.sys.bootState = 1 ∧ t.sys.stage = 16 ∧ t.jn.opened = gateMayOpen s ∧ t.jn.role = 1 ∧
      t.jn.term = max s.jn.term term ∧ t.tt.partnerPresent = true ∧ (s.jn.term < term → t.jobs = []) := by
  have hp := partnered_only s term
  have htt : (partnered s term).tt = { s.tt with partnerPresent := true, partnerTerm := term, linkUp := true, partnerFailed := false } :=
    tt_of_only hp (by decide +kernel)
  have hjn : (partnered s term).jn = s.jn := jn_of_only (s := met s term) hp (by decide +kernel)
  have hsys : (partnered s term).sys = s.sys := sys_of_only (s := met s term) hp (by decide +kernel)
  have hlc : (partnered s term).lc = s.lc := lc_of_only (s := met s term) hp (by decide +kernel)
  have hplan : (partnered s term).plan = s.plan := plan_of_only (s := met s term) hp (by decide +kernel)
  have hexec : exec (.twinPartnerPresent term side) s =
      .next (settle (openGate (paired s term))) := by
    show Host.Outcome.next (if _ then _ else _) = _
    rw [if_neg (by simp [htwin, hside, hrole, hm])]
    exact congrArg Host.Outcome.next (if_pos hw)
  have hy := yieldTerm_only (partnered s term)
  have hpDue : NothingDue (partnered s term) := nothingDue_of_only (s := met s term) hdue hp (by decide +kernel) (by decide +kernel)
  have hysys : (yieldTerm (partnered s term)).sys = s.sys := (sys_of_only hy (by decide +kernel)).trans hsys
  have hylc : (yieldTerm (partnered s term)).lc = s.lc := (lc_of_only hy (by decide +kernel)).trans hlc
  obtain ⟨hterm, hnil⟩ := term_yieldTerm (s := partnered s term) (by rw [hplan, htwin]) (by rw [htt])
  have hyDue : NothingDue (yieldTerm (partnered s term)) := nothingDue_of_only hpDue hy (by decide +kernel) (by decide +kernel)
  generalize ht : settle (openGate (paired s term)) = t at hexec
  obtain ⟨hstate, hstage, hopened, hrole', hterm', -, hpresent, hjobs⟩ := settled_gate (s := paired s term) hyDue
    ((congrArg Sys.heldWarm hysys).trans hheld) ht.symm
  refine ⟨t, hexec, hstate, hstage, hopened.trans ?_, hrole', hterm'.trans ?_, hpresent.trans ?_, fun h => hjobs (hnil ?_)⟩
  · show (!(yieldTerm (partnered s term)).sys.boundary && !(yieldTerm (partnered s term)).lc.resetRequired) = _
    rw [hysys, hylc]
    rfl
  · exact hterm.trans (by rw [hjn, htt])
  · exact (hy.same (.tt .partnerPresent) (by decide +kernel)).trans (by rw [htt])
  · rwa [hjn, htt]

end

/-- Settles O13: how the waits for the reserve, POWER_FAIL_N and the partner end. -/
theorem bootWaitsEnd : Obligations.BootWaitsEnd := by
  unfold Obligations.BootWaitsEnd
  exact fun b s _ hdue => ⟨reserveRecheck_waits hdue, reserveRecheck_goesOn hdue, reserveRecheck_opens hdue, powerFailWait_ends hdue, twinWait_opens hdue,
    fun term side => twinPartner_opens term side hdue⟩

end Sys2Proof.BootWaits
end

section
/-! PROOF. The boot of a RAW part with an empty hayloft (R50, R77, R81, R86, R500; O6). -/

namespace Sys2Proof.FirstBoot

open Sys2Proof Sys2Proof.Machine Sys2Proof.Claims Sys2Proof.Frames Sys2Proof.PadReset Sys2Proof.Reports Sys2Proof.Boot Sys2Proof.BootWaits

section
variable {s t : State} {b : BootIn}

/-! ## Steps 1 to 4 -/

/-- Step 1: the time base resumes, the meshes are driven. -/
def started (s : State) (b : BootIn) : State :=
  let u := resumeTime s (s.jn.held && b.banksOk)
  { u with
    sys := { u.sys with porstN := true, wait := .inReset, stage := 1 }, tp := { u.tp with meshOn := true, meshDraw := u.freeCtr }, freeCtr := u.freeCtr + 1 }

/-- Steps 2 and 3: the straps as sampled, the supplies as they should be. -/
def supplied (s : State) (b : BootIn) : State :=
  { started s b with
    sys := { (started s b).sys with
      straps := { nfv0 := majority b 0, nfv1 := majority b 1, i3cAddr := b1 (majority b 2) + 2 * b1 (majority b 3), twinSide := majority b 4
                  testEn := majority b 5, nf0Mismatch := false, nf1Mismatch := false }
      stage := 3 }
    tp := { (started s b).tp with meshPending := 0xF ^^^ (b.meshFollow % 16) } }

/-- Step 4: the life-cycle state as the ledger decodes. -/
def decodedPart (s : State) (b : BootIn) : State :=
  { decodeLedger (supplied s b) with sys := { (decodeLedger (supplied s b)).sys with stage := 4 } }

theorem coldBoot_clean (hb : CleanBoot b) : coldBoot s b = bootLedger (supplied s b) b := by
  obtain ⟨h0, h1, -⟩ := hb
  have hbad0 : (majority b 0 != b.vddq0Low) = false := h0
  have hbad1 : (majority b 1 != b.vddq1Low) = false := h1
  show bootSupply (started s b) b = _
  unfold bootSupply supplied
  simp only [hbad0, hbad1, Bool.false_and, Bool.false_eq_true, if_false]

theorem supplied_only (s : State) (b : BootIn) : Only [.sys .porstN, .sys .wait, .sys .stage, .sys .straps, .tp .meshOn, .tp .meshDraw, .tp .meshPending,
    .time, .freeCtr] s (supplied s b) := by
  refine put_sys_tp (Sys.set_straps_stage (by decide +kernel) (SysReg.refl _ _)) (Tamper.set_meshPending (by decide +kernel) (TpReg.refl _ _)) ?_
  refine put_sys_tp_freeCtr (Sys.set_porstN_stage_wait (by decide +kernel) (SysReg.refl _ _)) (Tamper.set_meshOn_meshDraw (by decide +kernel) (TpReg.refl _ _))
    (by decide +kernel) ?_
  exact (resumeTime_only ..).mono (by decide +kernel)

theorem decodedPart_only (s : State) (b : BootIn) : Only [.sys .porstN, .sys .wait, .sys .stage, .sys .straps, .tp .meshOn, .tp .meshDraw, .tp .meshPending,
    .time, .freeCtr, .lc .decoded, .lc .state, .lc .epoch, .lc .ownerDigest, .lc .seq] s (decodedPart s b) := by
  refine put_sys (Sys.set_stage (by decide +kernel) (SysReg.refl _ _)) ?_
  exact Only.then (decodeLedger_only ..) (by decide +kernel) ((supplied_only s b).mono (by decide +kernel))

/-- What the ledger decodes as depends on its slots alone. -/
theorem state_decodeLedger (h : t.lc = s.lc) : (decodeLedger t).lc.state = (decodeLedger s).lc.state := by
  have hslot : ∀ i, ledgerSlot t i = ledgerSlot s i := fun i => by unfold ledgerSlot; rw [h]
  have hof : ∀ c, slotsOf t c = slotsOf s c := fun c => by
    unfold slotsOf
    simp only [hslot]
  unfold decodeLedger
  rw [hof, hof]
  split
  · exact congrArg LedgerSlot.state (hslot _)
  · rfl
  · rfl

theorem state_decodedPart (h : (decodeLedger s).lc.state = 0) : (decodedPart s b).lc.state = 0 :=
  (state_decodeLedger (s := s) (t := supplied s b) (lc_of_only (supplied_only s b) (by decide +kernel))).trans h

theorem bootLedger_raw (h : (decodeLedger s).lc.state = 0) : bootLedger s b = bootSheds { decodeLedger s with sys := { (decodeLedger s).sys with stage := 4 } } b := by
  unfold bootLedger
  simp [h]

/-! ## Steps 5 to 9 -/

/-- Steps 5 to 7: clocks, sheds, link. -/
def linked (s : State) (b : BootIn) : State :=
  let u := { s with sys := { s.sys with stage := 8, linkWidth := b.linkWidth, linkReversed := b.linkReversed, wait := .inReset } }
  { u with port := { u.port with linkUp := linkTrains u } }

theorem bootSheds_clocked (hx : s.sys.xtal = true) (hp : s.sys.pllLocked = true) : bootSheds s b = bootFirmware (bootHayloft (linked s b) b) b :=
  if_neg (by simp [hx, hp])

theorem linked_only (s : State) (b : BootIn) : Only [.sys .stage, .sys .linkWidth, .sys .linkReversed, .sys .wait, .port .linkUp] s (linked s b) := by
  refine put_port (Port.set_linkUp (by decide +kernel) (PortReg.refl _ _)) ?_
  exact put_sys (Sys.set_linkWidth_linkReversed_stage_wait (by decide +kernel) (SysReg.refl _ _)) (Only.refl _ _)

theorem linkUp_linked (hp : s.sys.porstN = true) : (linked s b).port.linkUp = (s.sys.perstN && s.sys.refclk) := by
  show (s.sys.perstN && s.sys.refclk && s.sys.porstN && (decide (6 ≤ 8) || decide (2 ≤ s.sys.bootState))) = _
  simp [hp]

/-- No target fails to answer. -/
theorem bootTarget_answers (n : Nat) (h : b.targets.getD n 0 ≠ 4) : Only [.hl .targets] s (bootTarget s b n) := by
  have hcode : (b.targets.getD n 0 == 4) = false := by simpa using h
  unfold bootTarget
  dsimp -proj only
  rw [hcode, Bool.and_false, if_neg Bool.false_ne_true]
  exact put_hl (Hayloft.set_targets (by decide +kernel) (HlReg.refl _ _)) (Only.refl _ _)

theorem bootHayloft_answers (h : ∀ n, b.targets.getD n 0 ≠ 4) : Only [.hl .geo, .hl .targets, .hl .failed0, .hl .failed1, .hl .ready, .hl .flushReady] s
    (bootHayloft s b) := by
  unfold bootHayloft
  dsimp -proj only
  refine put_hl (Hayloft.set_failed0_failed1_ready_flushReady (by decide +kernel) (HlReg.refl _ _)) ?_
  refine Only.foldl _ (fun t n => (bootTarget_answers n (h n)).mono (by decide +kernel)) ?_
  exact put_hl (Hayloft.set_geo (by decide +kernel) (HlReg.refl _ _)) (Only.refl _ _)

/-- An empty hayloft holds no copy of any kind. -/
theorem chooseCopy_none (h : s.hl.images = []) (fw : Bytes) {k : Nat} (hk : k ≠ 0) : chooseCopy s fw k = none := by
  have hbytes : ∀ sl c, copyBytes s k sl c = [] := fun sl c => by
    unfold copyBytes
    rw [h]
    rfl
  have hkind : (imgKind [] == k) = false := by
    have hzero : imgKind [] = 0 := by decide
    rw [hzero]
    simpa using Ne.symm hk
  have hvalid : ∀ e : Nat × Nat, copyValid s fw k (copyBytes s k e.1 e.2) = false := fun e => by
    rw [hbytes, copyValid, hkind]
    rfl
  unfold chooseCopy
  rw [List.find?_eq_none.mpr fun e _ => by simp [hvalid e]]
  rfl

theorem bootFirmware_raw (h : s.hl.images = []) (hl : s.lc.state = 0) : bootFirmware s b = bootPlan { s with sys := { s.sys with stage := 9 } } b := by
  unfold bootFirmware
  rw [chooseCopy_none h [] (by decide)]
  exact if_pos hl

/-! ## Steps 10 and 11 -/

theorem bootRetired_only_of_nil (h : s.hl.retireMap = []) : Only [.sys .wakeDriven, .sys .degraded, .port .linkState, .fn .pmeStatus, .fn .vecs, .fc .retired,
    .out] s (bootRetired s) := by
  unfold bootRetired
  dsimp -proj only
  rw [h]
  refine Only.foldl _ (fun t x => (evalDegraded_only t x).mono (by decide +kernel)) ?_
  exact put_fc (Faults.set_retired (by decide +kernel) (FcReg.refl _ _)) (Only.refl _ _)

/-- Step 10 of a part without a plan: no mesh pair is present, write protection is released. -/
def unplanned (s : State) : State :=
  releaseWp { (bootMesh s).2 with sys := { (bootMesh s).2.sys with stage := 10 } }

theorem bootPartials_none (h : s.hl.partials = []) : bootPartials s = s := by
  unfold bootPartials
  rw [h]
  rfl

theorem bootMesh_absent (h : s.plan = {}) : (bootMesh s).1 = none := by
  show (List.range 4).find? (fun n => hasBit s.tp.meshPending n && hasBit s.plan.tamper.meshPresent n) = none
  refine List.find?_eq_none.mpr fun n _ => ?_
  rw [h]
  have hnone : hasBit ({} : Plan).tamper.meshPresent n = false := Nat.zero_testBit n
  simp [hnone]

theorem bootTwin_single (h : s.plan = {}) : bootTwin s b = s := by
  unfold bootTwin
  rw [h]
  rfl

theorem bootPlan_raw (himg : (bootRetired s).hl.images = []) (hlc : (bootRetired s).lc.state = 0) (hpart : (bootRetired s).hl.partials = [])
    (hplan : (bootRetired s).plan = {}) : bootPlan s b = bootMicrocode (unplanned (bootRetired s)) b := by
  unfold bootPlan
  dsimp only
  rw [chooseCopy_none himg _ (by decide)]
  dsimp only
  rw [if_pos hlc, bootPartials_none hpart, bootTwin_single hplan, bootMesh_absent hplan]
  rfl

theorem unplanned_only (s : State) : Only [.sys .stage, .tp .meshPending, .tp .meshOff, .hl .wpReleased, .hl .nf0, .hl .nf1] s (unplanned s) := by
  refine Only.then (releaseWp_only ..) (by decide +kernel) ?_
  refine put_sys (Sys.set_stage (by decide +kernel) (SysReg.refl _ _)) ?_
  exact (bootMesh_only s).mono (by decide +kernel)

/-- Step 11 of a part without microcode: no stall may run. -/
def uncoded (s : State) : State :=
  let ok := fun (k : Nat) => (chooseCopy s s.sys.firmware (k + 1)).isSome
  let u := (List.range 52).foldl (fun t n => modSt t n fun x => { x with ucodeOk := ok (stallKind n) }) s
  bootedDir { u with sys := { u.sys with stage := 11 } }

theorem bootMicrocode_raw (himg : s.hl.images = []) (hl : s.lc.state = 0) : bootMicrocode s b = bootCalibrate (uncoded s) b := by
  have hnone : (([2, 3, 4, 5] : List Nat).filter fun k => (chooseCopy s s.sys.firmware (k - 1 + 1)).isSome) = [] := by
    simp [chooseCopy_none himg]
  unfold bootMicrocode
  dsimp only
  rw [if_neg (by simp [hl]), hnone]
  rfl

theorem uncoded_only (s : State) : Only [.sys .stage, .stall .ucodeOk, .hl .dir0, .hl .dir1] s (uncoded s) := by
  refine Only.then (bootedDir_only ..) (by decide +kernel) ?_
  refine put_sys (Sys.set_stage (by decide +kernel) (SysReg.refl _ _)) ?_
  exact Only.foldl _ (fun t n => modSt_in (Stall.set_ucodeOk (by decide +kernel) (StallReg.refl _ _)) (Only.refl _ _)) (Only.refl _ _)

/-! ## Step 12 -/

/-- The calibration, the costs of a flush and the first reserve evaluation. -/
def evaluated (s : State) (b : BootIn) : State :=
  let u := computeCosts (convert (calibrate s b.zeroRaw b.refRaw) b.code)
  firstReserve { u with sys := { u.sys with stage := 12 } }

theorem calibrated_only (s : State) (b : BootIn) : Only [.en .offset, .en .gain, .en .calValid, .en .rawCode, .en .convs, .en .recNj, .en .fixedUj] s
    (computeCosts (convert (calibrate s b.zeroRaw b.refRaw) b.code)) := by
  refine Only.then (computeCosts_only ..) (by decide +kernel) ?_
  refine Only.then (convert_only ..) (by decide +kernel) ?_
  exact (calibrate_only ..).mono (by decide +kernel)

theorem evaluated_only (s : State) (b : BootIn) : Only [.en .offset, .en .gain, .en .calValid, .en .rawCode, .en .convs, .en .recNj, .en .fixedUj,
    .en .reserveLow, .sys .stage, .sys .wakeDriven, .port .linkState, .fn .pmeStatus, .fn .vecs, .out] s (evaluated s b) := by
  refine Only.then (firstReserve_only ..) (by decide +kernel) ?_
  refine put_sys (Sys.set_stage (by decide +kernel) (SysReg.refl _ _)) ?_
  exact (calibrated_only s b).mono (by decide +kernel)

theorem bootCalibrate_raw (h : s.plan = {}) : bootCalibrate s b = bootJournal (evaluated s b) b := by
  have hplan : (computeCosts (convert (calibrate s b.zeroRaw b.refRaw) b.code)).plan = {} := (plan_of_only (calibrated_only s b) (by decide +kernel)).trans h
  refine if_neg ?_
  rw [hplan]
  simp

theorem calValid_evaluated (s : State) (b : BootIn) : (evaluated s b).en.calValid = true := by
  refine ((firstReserve_only _).same (.en .calValid) (by decide +kernel)).trans ?_
  refine ((computeCosts_only _).same (.en .calValid) (by decide +kernel)).trans ?_
  exact (convert_only ..).same (.en .calValid) (by decide +kernel)

/-! ## From power-on to the journal -/

/-- The part as step 8 leaves it, step 9 passed. -/
def hayloftRead (s : State) (b : BootIn) : State :=
  { bootHayloft (linked (decodedPart s b) b) b with sys := { (bootHayloft (linked (decodedPart s b) b) b).sys with stage := 9 } }

theorem hayloftRead_only (h : ∀ n, b.targets.getD n 0 ≠ 4) : Only [.sys .porstN, .sys .wait, .sys .stage, .sys .straps, .sys .linkWidth, .sys .linkReversed,
    .tp .meshOn, .tp .meshDraw, .tp .meshPending, .time, .freeCtr, .lc .decoded, .lc .state, .lc .epoch, .lc .ownerDigest, .lc .seq, .port .linkUp, .hl .geo,
    .hl .targets, .hl .failed0, .hl .failed1, .hl .ready, .hl .flushReady] s (hayloftRead s b) := by
  refine put_sys (Sys.set_stage (by decide +kernel) (SysReg.refl _ _)) ?_
  refine Only.then (bootHayloft_answers h) (by decide +kernel) ?_
  exact Only.then (linked_only ..) (by decide +kernel) ((decodedPart_only s b).mono (by decide +kernel))

/-- The part before step 13. -/
def prepared (s : State) (b : BootIn) : State := evaluated (uncoded (unplanned (bootRetired (hayloftRead s b)))) b

/-- What steps 1 to 12 may change. -/
def preparing : List Part := [.sys .porstN, .sys .wait, .sys .stage, .sys .straps, .sys .linkWidth, .sys .linkReversed, .sys .wakeDriven, .sys .degraded,
  .tp .meshOn, .tp .meshDraw, .tp .meshPending, .tp .meshOff, .time, .freeCtr, .lc .decoded, .lc .state, .lc .epoch, .lc .ownerDigest, .lc .seq,
  .port .linkUp, .port .linkState, .fn .pmeStatus, .fn .vecs, .fc .retired, .hl .geo, .hl .targets, .hl .failed0, .hl .failed1, .hl .ready, .hl .flushReady,
  .hl .wpReleased, .hl .nf0, .hl .nf1, .hl .dir0, .hl .dir1, .stall .ucodeOk, .en .offset, .en .gain, .en .calValid, .en .rawCode, .en .convs, .en .recNj,
  .en .fixedUj, .en .reserveLow, .out]

section
variable (hb : CleanBoot b) (hs : BlankPart s)
include hb hs

theorem retired_only : Only preparing s (bootRetired (hayloftRead s b)) := by
  obtain ⟨-, -, htargets, -, -⟩ := hb
  obtain ⟨-, -, -, -, -, -, -, -, -, -, -, -, -, -, -, -, -, -, hmap, -⟩ := hs
  have hread := hayloftRead_only (s := s) htargets
  have hmap' : (hayloftRead s b).hl.retireMap = [] := (hread.same (.hl .retireMap) (by decide +kernel)).trans hmap
  exact Only.then (bootRetired_only_of_nil hmap') (by decide +kernel) (hread.mono (by decide +kernel))

theorem coded_only : Only preparing s (uncoded (unplanned (bootRetired (hayloftRead s b)))) :=
  Only.then (uncoded_only _) (by decide +kernel) (Only.then (unplanned_only _) (by decide +kernel) (retired_only hb hs))

theorem prepared_only : Only preparing s (prepared s b) := Only.then (evaluated_only _ b) (by decide +kernel) (coded_only hb hs)

end

end

end Sys2Proof.FirstBoot
end

section
/-! PROOF. The boot of a RAW part, from step 13 to the open gate (R77, R188, R316; O6). -/

namespace Sys2Proof.FirstBoot

open Sys2Proof Sys2Proof.Machine Sys2Proof.Claims Sys2Proof.Frames Sys2Proof.PadReset Sys2Proof.Reports Sys2Proof.Boot Sys2Proof.BootWaits

section
variable {s t : State} {b : BootIn}

/-! ## Step 13 -/

/-- What step 13 may change. -/
def recovering : List Part := Part.allQueue ++ Part.allPad ++ [.sys .wakeDriven, .port .linkState, .fn .cfg, .fn .pmeStatus, .fn .vecs, .fn .cmpExpect,
  .fn .cmpSpoiled, .fn .cmpEq, .fn .cmpNe, .jn .bank0, .jn .bank1, .jn .lost, .jn .nextSeq, .jn .held, .fc .log, .fc .dropped, .fc .severeLost,
  .fc .overflowed, .fc .out, .fc .buckets, .fc .corrected, .fc .toLog, .fc .escNow, .fc .retireNow, .hl .boundB, .tk .hbs, .jobs, .yard, .out]

theorem emptied_only (s : State) : Only recovering s (emptied s) := by
  refine Only.then (fitYard_only ..) (by decide +kernel) ?_
  exact put_queues_pads_jobs_jn (by decide +kernel) (by decide +kernel) (by decide +kernel)
    (Journal.set_lost_nextSeq (by decide +kernel) (JnReg.refl _ _)) (Only.refl _ _)

theorem journalLost_only (s : State) : Only recovering s (journalLost s) := Only.then (report_only ..) (by decide +kernel) (emptied_only s)

/-- What step 13 leaves where no flush is held: the faults outstanding are none, or the journal's loss alone. -/
structure Recovered (s t : State) (kept : Bool) : Prop where
  only : Only recovering s t
  lost : t.jn.lost = (s.jn.lost || !kept)
  none : kept = false → t.jobs = []
  due : NothingDue t
  out : t.fc.out = if kept then [] else [(0, some (entryOf (emptied s) 0x080 0x14 false 0 0))]

theorem recovered (hflush : s.hl.flush.present = false) (hclear : FaultsClear s) : Recovered s (recoverJournal s b) (s.jn.held && b.banksOk) := by
  cases hkept : (s.jn.held && b.banksOk) with
  | true =>
    obtain ⟨hheld, hb⟩ := Bool.and_eq_true_iff.mp hkept
    have ho := banksKept_only s
    rw [recoverJournal_banks hflush hheld hb]
    have hlost : (banksKept s).jn.lost = s.jn.lost := ho.same (.jn .lost) (by decide +kernel)
    exact ⟨ho.mono (by decide +kernel), by simp [hlost], fun h => by simp at h,
      nothingDue_of_only hclear.2 ho (by decide +kernel) (by decide +kernel), (ho.same (.fc .out) (by decide +kernel)).trans hclear.1⟩
  | false =>
    have ho := banksKept_only (journalLost s)
    have hreport := report_only (emptied s) 0x080 0x14 false 0 0
    have hempty : FaultsClear (emptied s) := by
      have he : (emptied s).fc = s.fc := rfl
      unfold FaultsClear
      rwa [he]
    have hlost : (banksKept (journalLost s)).jn.lost = (journalLost s).jn.lost := ho.same (.jn .lost) (by decide +kernel)
    have hlost' : (report (emptied s) 0x080 0x14 false 0 0).jn.lost = (emptied s).jn.lost := hreport.same (.jn .lost) (by decide +kernel)
    have hlost'' : (emptied s).jn.lost = (voided s).jn.lost := (fitYard_only (voided s)).same (.jn .lost) (by decide +kernel)
    have hdue : NothingDue (journalLost s) := report_nothingDue (by decide) hempty (.of_none (by decide))
    have hout : (journalLost s).fc.out = [(0, some (entryOf (emptied s) 0x080 0x14 false 0 0))] := by
      rw [journalLost]
      exact report_out (by decide) hempty.1
    have hfc : (banksKept (journalLost s)).fc = (journalLost s).fc := fc_of_only ho (by decide +kernel)
    rw [recoverJournal_lost hflush hkept]
    refine ⟨Only.then ho (by decide +kernel) (journalLost_only s), ?_, fun _ => (ho.same .jobs (by decide +kernel)).trans (jobs_journalLost s),
      nothingDue_of_only hdue ho (by decide +kernel) (by decide +kernel), ?_⟩
    · rw [hlost, journalLost, hlost', hlost'', Bool.not_false, Bool.or_true]
      rfl
    · rw [hfc, hout]
      rfl

/-! ## Steps 14 to 16 -/

theorem causeEnds_none {source kind : Nat} (h : findOut s.fc source kind = none) : causeEnds s source kind = s := by
  unfold causeEnds
  rw [h]

/-- What a source that becomes ready may change, where no fault of its own is outstanding. -/
def readying : List Part := Part.request ++ [.rng .ready, .rng .stopped, .rng .katOk, .rng .healthy, .rng .isolated, .rng .attempts, .rng .restarting]

theorem sourceReady_clear (passed : Nat) (h : findOut s.fc 0x0D0 0x17 = none) : Only readying s (sourceReady s passed) := by
  unfold sourceReady
  dsimp -proj only
  refine Only.then (serveStore_only ..) (by decide +kernel) ?_
  refine Only.then (recheck_only ..) (by decide +kernel) ?_
  rw [causeEnds_none]
  · refine Only.then (reseedAll_only ..) (by decide +kernel) ?_
    exact put_rng (Rng.set_ready_stopped_katOk_healthy_isolated_attempts_restarting (by decide +kernel) (RngReg.refl _ _)) (Only.refl _ _)
  · rw [fc_of_only (reseedAll_only _) (by decide +kernel)]
    exact h

theorem ready_sourceReady (s : State) (passed : Nat) : (sourceReady s passed).rng.ready = true := by
  unfold sourceReady
  dsimp only
  rw [(serveStore_only ..).same (.rng .ready) (by decide +kernel), (recheck_only ..).same (.rng .ready) (by decide +kernel),
    (causeEnds_only ..).same (.rng .ready) (by decide +kernel), (reseedAll_only _).same (.rng .ready) (by decide +kernel)]

theorem countBits_low (m k : Nat) (h : k ≤ 16) : countBits (m &&& 0xFFFF) k = countBits m k := by
  induction k with
  | zero => rfl
  | succ k ih =>
    have hbit : (m &&& 0xFFFF).testBit k = m.testBit k := by
      have hmask : (0xFFFF : Nat).testBit k = true := by
        have : (0xFFFF : Nat) = 2 ^ 16 - 1 := rfl
        rw [this, Nat.testBit_two_pow_sub_one]
        simpa using h
      rw [Nat.testBit_and, hmask, Bool.and_true]
    rw [countBits, countBits, ih (Nat.le_of_succ_le h), hbit]

theorem runStartup_passes (hr : s.rng.retired = 0) (hb : CleanBoot b) : runStartup s b.rngPassed b.kat = sourceReady s b.rngPassed := by
  obtain ⟨-, -, -, hkat, hcount⟩ := hb
  refine if_pos ?_
  have hpass : groupCount (b.rngPassed &&& (0xFFFF ^^^ 0)) = groupCount b.rngPassed := countBits_low _ 16 le_rfl
  unfold startupPasses
  rw [hr, hkat, hpass]
  simpa using hcount

/-- The source ready, the part alone. -/
def readied (s : State) (passed : Nat) : State := { sourceReady s passed with jn := { (sourceReady s passed).jn with role := 0 } }

theorem bootOpen_single (h : s.plan = {}) : bootOpen s = openGate { s with jn := { s.jn with role := 0 } } := by
  have hwait : waitsForPartner s = false := by
    unfold waitsForPartner
    rw [h]
    rfl
  have hyield : yieldTerm s = s := by
    unfold yieldTerm
    rw [h]
    rfl
  have hrole : (if s.plan.part.twin then 1 else 0) = 0 := by
    rw [h]
    rfl
  unfold bootOpen
  rw [if_neg (by simp [hwait]), hyield]
  dsimp only
  rw [hrole]

theorem bootRandom_passes (hr : s.rng.retired = 0) (hb : CleanBoot b) (hplan : (sourceReady s b.rngPassed).plan = {}) :
    bootRandom s b = openGate (readied s b.rngPassed) := by
  unfold bootRandom
  rw [runStartup_passes hr hb]
  dsimp only
  rw [if_pos (by rw [ready_sourceReady]; rfl)]
  exact bootOpen_single hplan

/-- Step 13 done, and step 14, which has nothing to unseal. -/
def atStep14 (s : State) : State := { s with sys := { s.sys with stage := 14 } }

theorem bootUnseal_raw (hl : s.lc.state = 0) (h : s.jn.fromFlush = false) : bootUnseal s b = bootRandom (atStep14 s) b := by
  unfold bootUnseal atStep14
  simp [hl, h]

section
variable {p r : State} {kept : Bool} (hrec : Recovered p r kept)
include hrec

theorem findOut_recovered : findOut r.fc 0x0D0 0x17 = none := by
  unfold findOut outKeys outAt
  rw [hrec.out]
  split
  · rfl
  · rfl

theorem findOut_atStep14 : findOut (atStep14 r).fc 0x0D0 0x17 = none := findOut_recovered (r := r) hrec

/-- From the journal's step to the gate. -/
theorem readied_only (passed : Nat) : Only (recovering ++ readying ++ [.sys .stage, .jn .role]) p (readied (atStep14 r) passed) := by
  refine put_jn (Journal.set_role (by decide +kernel) (JnReg.refl _ _)) ?_
  refine Only.then (sourceReady_clear (s := atStep14 r) passed (findOut_atStep14 hrec)) (by decide +kernel) ?_
  refine put_sys (Sys.set_stage (by decide +kernel) (SysReg.refl _ _)) ?_
  exact hrec.only.mono (by decide +kernel)

/-- The faults, the journal's loss and the records are as step 13 left them. -/
theorem readied_kept (passed : Nat) : (readied (atStep14 r) passed).fc = r.fc ∧ (readied (atStep14 r) passed).jn.lost = r.jn.lost ∧
    (readied (atStep14 r) passed).jobs = r.jobs := by
  have ho := sourceReady_clear (s := atStep14 r) passed (findOut_atStep14 hrec)
  exact ⟨fc_of_only (s := atStep14 r) (t := sourceReady (atStep14 r) passed) ho (by decide +kernel), ho.same (.jn .lost) (by decide +kernel), ho.same .jobs (by decide +kernel)⟩

theorem bootJournal_opens (hb : CleanBoot b) (hr : r = recoverJournal p b) (hpower : p.sys.powerFailN = true) (hl : p.lc.state = 0) (hff : p.jn.fromFlush = false)
    (hrng : p.rng = {}) (hplan : p.plan = {}) : bootJournal p b = openGate (readied (atStep14 r) b.rngPassed) := by
  have hlc : r.lc.state = 0 := (hrec.only.same (.lc .state) (by decide +kernel)).trans hl
  have hflush : r.jn.fromFlush = false := (hrec.only.same (.jn .fromFlush) (by decide +kernel)).trans hff
  have hretired : (atStep14 r).rng.retired = 0 := by
    have h : r.rng = p.rng := rng_of_only hrec.only (by decide +kernel)
    show r.rng.retired = 0
    rw [h, hrng]
  have hready := sourceReady_clear (s := atStep14 r) b.rngPassed (findOut_atStep14 hrec)
  have hplan' : (sourceReady (atStep14 r) b.rngPassed).plan = {} := by
    have h : r.plan = p.plan := plan_of_only hrec.only (by decide +kernel)
    have h' : (sourceReady (atStep14 r) b.rngPassed).plan = (atStep14 r).plan := plan_of_only hready (by decide +kernel)
    rw [h', ← hplan, ← h]
    rfl
  rw [bootJournal_reads hpower, ← hr]
  exact (bootUnseal_raw (s := { r with sys := { r.sys with stage := 13 } }) hlc hflush).trans (bootRandom_passes hretired hb hplan')

/-! ## The part in operation -/

/-- What the boot may change from step 13 to the end of its command. -/
def finishing : List Part := recovering ++ readying ++ opening ++ [.sys .stage, .sys .bootState, .sys .wait, .sys .wakeDriven, .jn .role, .jn .opened,
  .port .linkState, .fn .pmeStatus, .fn .vecs, .pad .replayOwed, .out]

/-- What the boot of a part whose step 13 left `r` ends in. -/
structure Boots (p t : State) (kept : Bool) : Prop where
  only : Only finishing p t
  sys : t.sys.bootState = 1 ∧ t.sys.stage = 16 ∧ t.sys.wait = .done
  opened : t.jn.opened = gateMayOpen p
  lost : t.jn.lost = (p.jn.lost || !kept)
  none : kept = false → t.jobs = []
  ready : t.rng.ready = true
  holds : fatalHolds t = !kept

theorem gateMayOpen_readied (passed : Nat) : gateMayOpen (readied (atStep14 r) passed) = gateMayOpen p := by
  have h := readied_only hrec passed
  unfold gateMayOpen
  rw [h.same (.sys .boundary) (by decide +kernel), h.same (.lc .resetRequired) (by decide +kernel)]

theorem fatalHolds_recovered (h : t.fc = r.fc) : fatalHolds t = !kept := by
  unfold fatalHolds
  rw [h, hrec.out]
  cases kept
  · rfl
  · rfl

theorem opened_boots (passed : Nat) (hheld : p.sys.heldWarm = none) (ht : t = settle (openGate (readied (atStep14 r) passed))) : Boots p t kept := by
  have hread := readied_only hrec passed
  obtain ⟨hfc, hlost, hjobs⟩ := readied_kept hrec passed
  have hmay := gateMayOpen_readied hrec passed
  have hready : (readied (atStep14 r) passed).rng.ready = true := ready_sourceReady _ _
  generalize readied (atStep14 r) passed = u at hread hfc hlost hjobs hmay hready ht
  have hdue : NothingDue u := by
    unfold NothingDue
    rw [hfc]
    exact hrec.due
  rw [openGate_unheld ((hread.same (.sys .heldWarm) (by decide +kernel)).trans hheld)] at ht
  have ho := opened_only u
  have hs := settle_only_of_nothingDue (nothingDue_of_only hdue ho (by decide +kernel) (by decide +kernel))
  rw [← ht] at hs
  have hout : Only (opening ++ [.sys .stage, .sys .bootState, .sys .wait, .jn .opened, .sys .wakeDriven, .port .linkState, .fn .pmeStatus, .fn .vecs,
      .pad .replayOwed, .out]) u t := Only.then hs (by decide +kernel) (ho.mono (by decide +kernel))
  obtain ⟨hstage, hstate, hwait, hopened⟩ := gateOpens_sys u
  exact {
    only := Only.then hout (by decide +kernel) (hread.mono (by decide +kernel))
    sys := ⟨(hs.same (.sys .bootState) (by decide +kernel)).trans hstate, (hs.same (.sys .stage) (by decide +kernel)).trans hstage,
      (hs.same (.sys .wait) (by decide +kernel)).trans hwait⟩
    opened := ((hs.same (.jn .opened) (by decide +kernel)).trans hopened).trans hmay
    lost := ((hout.same (.jn .lost) (by decide +kernel)).trans hlost).trans hrec.lost
    none := fun h => (hs.same .jobs (by decide +kernel)).trans (gateOpens_nil (hjobs.trans (hrec.none h)))
    ready := (hout.same (.rng .ready) (by decide +kernel)).trans hready
    holds := fatalHolds_recovered hrec ((fc_of_only hout (by decide +kernel)).trans hfc) }

end

/-- Boot from step 13 on, with POWER_FAIL_N high. -/
theorem bootJournal_boots {p : State} {kept : Bool} (hb : CleanBoot b) (hrec : Recovered p (recoverJournal p b) kept) (hpower : p.sys.powerFailN = true)
    (hl : p.lc.state = 0) (hff : p.jn.fromFlush = false) (hrng : p.rng = {}) (hplan : p.plan = {}) (hheld : p.sys.heldWarm = none)
    (ht : t = settle (bootJournal p b)) : Boots p t kept := by
  rw [bootJournal_opens hrec hb rfl hpower hl hff hrng hplan] at ht
  exact opened_boots hrec b.rngPassed hheld ht

end

end Sys2Proof.FirstBoot
end

section
/-! PROOF. The first boot of a RAW part, whole (O6). -/

namespace Sys2Proof.FirstBoot

open Sys2Proof Sys2Proof.Machine Sys2Proof.Claims Sys2Proof.Frames Sys2Proof.PadReset Sys2Proof.Reports Sys2Proof.Boot Sys2Proof.BootWaits

section
variable {s t : State} {b : BootIn}

theorem calValid_prepared (s : State) (b : BootIn) : (prepared s b).en.calValid = true := by
  unfold prepared
  exact calValid_evaluated _ b

section
variable (hb : CleanBoot b) (hs : BlankPart s)
include hb hs

theorem prepared_clear : FaultsClear (prepared s b) ∧ (prepared s b).hl.flush.present = false ∧ (prepared s b).plan = {} ∧ (prepared s b).rng = {} := by
  have ho := prepared_only hb hs
  obtain ⟨-, -, -, -, -, -, -, -, hplan, hrng, hout, hesc, hretire, -, -, -, -, -, -, hflush⟩ := hs
  exact ⟨⟨(ho.same (.fc .out) (by decide +kernel)).trans hout, (ho.same (.fc .escNow) (by decide +kernel)).trans hesc,
    (ho.same (.fc .retireNow) (by decide +kernel)).trans hretire⟩, (congrArg FlushImage.present (ho.same (.hl .flush) (by decide +kernel))).trans hflush,
    (plan_of_only ho (by decide +kernel)).trans hplan, (rng_of_only ho (by decide +kernel)).trans hrng⟩

theorem prepared_recovered : Recovered (prepared s b) (recoverJournal (prepared s b) b) (s.jn.held && b.banksOk) := by
  obtain ⟨hclear, hflush, -, -⟩ := prepared_clear hb hs
  have hheld : (prepared s b).jn.held = s.jn.held := (prepared_only hb hs).same (.jn .held) (by decide +kernel)
  rw [← hheld]
  exact recovered hflush hclear

theorem retireMap_hayloftRead : (hayloftRead s b).hl.retireMap = [] := by
  obtain ⟨-, -, -, -, -, -, -, -, -, -, -, -, -, -, -, -, -, -, hmap, -⟩ := hs
  have hread : (hayloftRead s b).hl.retireMap = s.hl.retireMap := (hayloftRead_only hb.2.2.1).same (.hl .retireMap) (by decide +kernel)
  rw [hread, hmap]

/-- No step from the hayloft's to the reserve's changes the life-cycle state or the link. -/
theorem late_only : Only [.sys .stage, .sys .wakeDriven, .sys .degraded, .tp .meshPending, .tp .meshOff, .port .linkState, .fn .pmeStatus, .fn .vecs,
    .fc .retired, .hl .geo, .hl .targets, .hl .failed0, .hl .failed1, .hl .ready, .hl .flushReady, .hl .wpReleased, .hl .nf0, .hl .nf1, .hl .dir0, .hl .dir1,
    .stall .ucodeOk, .en .offset, .en .gain, .en .calValid, .en .rawCode, .en .convs, .en .recNj, .en .fixedUj, .en .reserveLow, .out]
    (linked (decodedPart s b) b) (prepared s b) := by
  refine Only.then (evaluated_only _ b) (by decide +kernel) ?_
  refine Only.then (uncoded_only _) (by decide +kernel) ?_
  refine Only.then (unplanned_only _) (by decide +kernel) ?_
  refine Only.then (bootRetired_only_of_nil (retireMap_hayloftRead hb hs)) (by decide +kernel) ?_
  refine put_sys (Sys.set_stage (by decide +kernel) (SysReg.refl _ _)) ?_
  exact (bootHayloft_answers hb.2.2.1).mono (by decide +kernel)

theorem lc_prepared : (prepared s b).lc = (decodedPart s b).lc := by
  have hlate : (prepared s b).lc = (linked (decodedPart s b) b).lc := lc_of_only (late_only hb hs) (by decide +kernel)
  have hlinked : (linked (decodedPart s b) b).lc = (decodedPart s b).lc := lc_of_only (linked_only (decodedPart s b) b) (by decide +kernel)
  rw [hlate, hlinked]

theorem state_prepared : (prepared s b).lc.state = 0 := by
  rw [lc_prepared hb hs]
  obtain ⟨-, -, -, -, -, -, -, hraw, -⟩ := hs
  exact state_decodedPart hraw

theorem linkUp_prepared : (prepared s b).port.linkUp = (s.sys.perstN && s.sys.refclk) := by
  have hdec := decodedPart_only s b
  have hporst : (decodedPart s b).sys.porstN = (supplied s b).sys.porstN := (decodeLedger_only _).same (.sys .porstN) (by decide +kernel)
  have hlate : (prepared s b).port.linkUp = (linked (decodedPart s b) b).port.linkUp := (late_only hb hs).same (.port .linkUp) (by decide +kernel)
  have hperst : (decodedPart s b).sys.perstN = s.sys.perstN := hdec.same (.sys .perstN) (by decide +kernel)
  have hrefclk : (decodedPart s b).sys.refclk = s.sys.refclk := hdec.same (.sys .refclk) (by decide +kernel)
  rw [hlate, linkUp_linked (hporst.trans rfl), hperst, hrefclk]

/-! ## The sequence -/

theorem coldBoot_prepared (hx : s.sys.xtal = true) (hp : s.sys.pllLocked = true) : coldBoot s b = bootJournal (prepared s b) b := by
  have hret := retired_only hb hs
  have hcod := coded_only hb hs
  have hstate := state_prepared hb hs
  rw [lc_prepared hb hs] at hstate
  have hlcs : ∀ u, Only preparing s u → u.hl.images = [] ∧ u.hl.partials = [] ∧ u.plan = {} := fun u ho => by
    obtain ⟨-, -, -, -, -, -, -, -, hplan, -, -, -, -, -, -, -, himg, hpart, -, -⟩ := hs
    exact ⟨(ho.same (.hl .images) (by decide +kernel)).trans himg, (ho.same (.hl .partials) (by decide +kernel)).trans hpart,
      (plan_of_only ho (by decide +kernel)).trans hplan⟩
  obtain ⟨himg, hpart, hplan⟩ := hlcs _ hret
  obtain ⟨-, -, hplan'⟩ := hlcs _ hcod
  have htargets := hb.2.2.1
  have hraw : (decodeLedger s).lc.state = 0 := by
    obtain ⟨-, -, -, -, -, -, -, h, -⟩ := hs
    exact h
  have hmap : (hayloftRead s b).hl.retireMap = [] := by
    obtain ⟨-, -, -, -, -, -, -, -, -, -, -, -, -, -, -, -, -, -, h, -⟩ := hs
    exact ((hayloftRead_only (s := s) htargets).same (.hl .retireMap) (by decide +kernel)).trans h
  have hdec := decodedPart_only s b
  have hhay := bootHayloft_answers (s := linked (decodedPart s b) b) htargets
  have hhlc : (bootHayloft (linked (decodedPart s b) b) b).lc.state = 0 :=
    (hhay.same (.lc .state) (by decide +kernel)).trans (((linked_only ..).same (.lc .state) (by decide +kernel)).trans hstate)
  have hhimg : (bootHayloft (linked (decodedPart s b) b) b).hl.images = [] := by
    obtain ⟨-, -, -, -, -, -, -, -, -, -, -, -, -, -, -, -, h, -⟩ := hs
    exact (hhay.same (.hl .images) (by decide +kernel)).trans
      (((linked_only ..).same (.hl .images) (by decide +kernel)).trans ((hdec.same (.hl .images) (by decide +kernel)).trans h))
  have hrlc : (bootRetired (hayloftRead s b)).lc.state = 0 := ((bootRetired_only_of_nil hmap).same (.lc .state) (by decide +kernel)).trans hhlc
  have hulc : (unplanned (bootRetired (hayloftRead s b))).lc.state = 0 := ((unplanned_only _).same (.lc .state) (by decide +kernel)).trans hrlc
  have huimg : (unplanned (bootRetired (hayloftRead s b))).hl.images = [] := ((unplanned_only _).same (.hl .images) (by decide +kernel)).trans himg
  calc coldBoot s b = bootLedger (supplied s b) b := coldBoot_clean hb
    _ = bootSheds (decodedPart s b) b :=
        bootLedger_raw ((state_decodeLedger (s := s) (lc_of_only (supplied_only s b) (by decide +kernel))).trans hraw)
    _ = bootFirmware (bootHayloft (linked (decodedPart s b) b) b) b :=
        bootSheds_clocked ((hdec.same (.sys .xtal) (by decide +kernel)).trans hx) ((hdec.same (.sys .pllLocked) (by decide +kernel)).trans hp)
    _ = bootPlan (hayloftRead s b) b := bootFirmware_raw hhimg hhlc
    _ = bootMicrocode (unplanned (bootRetired (hayloftRead s b))) b := bootPlan_raw himg hrlc hpart hplan
    _ = bootCalibrate (uncoded (unplanned (bootRetired (hayloftRead s b)))) b := bootMicrocode_raw huimg hulc
    _ = bootJournal (prepared s b) b := bootCalibrate_raw hplan'

/-! ## The part in operation -/

theorem porstN_prepared : (prepared s b).sys.porstN = true := by
  have hlate : (prepared s b).sys.porstN = (linked (decodedPart s b) b).sys.porstN := (late_only hb hs).same (.sys .porstN) (by decide +kernel)
  have hdec : (decodedPart s b).sys.porstN = (supplied s b).sys.porstN := (decodeLedger_only _).same (.sys .porstN) (by decide +kernel)
  rw [hlate]
  exact hdec.trans rfl

theorem time_prepared : s.time ≤ (prepared s b).time := by
  have hlate : (prepared s b).time = (linked (decodedPart s b) b).time := (late_only hb hs).same .time (by decide +kernel)
  have hdec : (decodedPart s b).time = (supplied s b).time := (decodeLedger_only _).same .time (by decide +kernel)
  have hstart : (supplied s b).time = (resumeTime s (s.jn.held && b.banksOk)).time := rfl
  have hlink : (linked (decodedPart s b) b).time = (decodedPart s b).time := rfl
  rw [hlate, hlink, hdec, hstart]
  exact Nat.le_max_left ..

/-- The whole of boot, from the state that starts it. -/
theorem boots_of_coldBoot (hx : s.sys.xtal = true) (hp : s.sys.pllLocked = true) (ht : t = settle (coldBoot s b)) :
    Boots (prepared s b) t (s.jn.held && b.banksOk) := by
  have ho := prepared_only hb hs
  have hrec := prepared_recovered hb hs
  have hl := state_prepared hb hs
  obtain ⟨-, -, hplan, hrng⟩ := prepared_clear hb hs
  have hpower : (prepared s b).sys.powerFailN = true := (ho.same (.sys .powerFailN) (by decide +kernel)).trans hs.1
  have hheld : (prepared s b).sys.heldWarm = none := (ho.same (.sys .heldWarm) (by decide +kernel)).trans hs.2.1
  have hff : (prepared s b).jn.fromFlush = false := by
    obtain ⟨-, -, -, -, -, -, -, -, -, -, -, -, -, -, h, -⟩ := hs
    exact (ho.same (.jn .fromFlush) (by decide +kernel)).trans h
  rw [coldBoot_prepared hb hs hx hp] at ht
  exact bootJournal_boots hb hrec hpower hl hff hrng hplan hheld ht

end

/-- The registers of the physical function are served where the link is up and the function awake. -/
theorem regsUp_booted {p : State} {kept up : Bool} (h : Boots p t kept) (hporst : p.sys.porstN = true) (hlink : p.port.linkUp = up)
    (hawake : p.sys.deepSleep = false) (hflush : p.en.flushActive = false) (hreset : p.lc.resetRequired = false) :
    regsUp t 0 = (up && (fnAt p 0).dState == 0) := by
  obtain ⟨ho, ⟨hstate, hstage, -⟩, -, -, -, -, -⟩ := h
  have hd : (fnAt t 0).dState = (fnAt p 0).dState := ho.same (.fn .dState) (by decide +kernel) 0
  have hporst' : t.sys.porstN = true := (ho.same (.sys .porstN) (by decide +kernel)).trans hporst
  have hlink' : t.port.linkUp = up := (ho.same (.port .linkUp) (by decide +kernel)).trans hlink
  have hawake' : t.sys.deepSleep = false := (ho.same (.sys .deepSleep) (by decide +kernel)).trans hawake
  have hflush' : t.en.flushActive = false := (ho.same (.en .flushActive) (by decide +kernel)).trans hflush
  have hreset' : t.lc.resetRequired = false := (ho.same (.lc .resetRequired) (by decide +kernel)).trans hreset
  unfold regsUp reaches fnPresent
  rw [hd, hporst', hlink', hawake', hflush', hreset', hstate, hstage]
  simp

theorem gateMayOpen_of (h : s.sys.boundary = false) (h' : s.lc.resetRequired = false) : gateMayOpen s = true := by simp [gateMayOpen, h, h']

theorem lost_booted {p : State} {kept : Bool} (h : Boots p t kept) (hp : p.jn.lost = false) : t.jn.lost = !kept := by
  have hlost := h.lost
  rwa [hp, Bool.false_or] at hlost

/-- What the obligation asks of a state `t` the boot of `s` ends in. -/
def BootedFrom (s : State) (b : BootIn) (t : State) : Prop :=
  t.sys.porstN = true ∧ t.sys.bootState = 1 ∧ t.sys.stage = 16 ∧ t.sys.wait = .done ∧ t.lc.state = 0 ∧
    t.jn.opened = true ∧ t.jn.lost = !(s.jn.held && b.banksOk) ∧ (t.jn.lost = true → t.jobs = []) ∧ t.rng.ready = true ∧ t.en.calValid = true ∧
    t.port.linkUp = (s.sys.perstN && s.sys.refclk) ∧ fatalHolds t = t.jn.lost ∧
    regsUp t 0 = (s.sys.perstN && s.sys.refclk && (fnAt s 0).dState == 0) ∧ s.time ≤ t.time

section
variable (hb : CleanBoot b) (hs : BlankPart s)
include hb hs

theorem regsUp_firstBoot (h : Boots (prepared s b) t (s.jn.held && b.banksOk)) :
    regsUp t 0 = (s.sys.perstN && s.sys.refclk && (fnAt s 0).dState == 0) := by
  have ho := prepared_only hb hs
  have hd : (fnAt (prepared s b) 0).dState = (fnAt s 0).dState := ho.same (.fn .dState) (by decide +kernel) 0
  have hlink := linkUp_prepared hb hs
  have hporst := porstN_prepared hb hs
  obtain ⟨-, -, -, hawake, -, hflush, hreset, -⟩ := hs
  rw [regsUp_booted h hporst hlink ((ho.same (.sys .deepSleep) (by decide +kernel)).trans hawake)
    ((ho.same (.en .flushActive) (by decide +kernel)).trans hflush) ((ho.same (.lc .resetRequired) (by decide +kernel)).trans hreset), hd]

theorem lost_firstBoot (h : Boots (prepared s b) t (s.jn.held && b.banksOk)) : t.jn.lost = !(s.jn.held && b.banksOk) := by
  have ho := prepared_only hb hs
  obtain ⟨-, -, -, -, -, -, -, -, -, -, -, -, -, -, -, hkept, -⟩ := hs
  exact lost_booted h ((ho.same (.jn .lost) (by decide +kernel)).trans hkept)

theorem opened_firstBoot (h : Boots (prepared s b) t (s.jn.held && b.banksOk)) : t.jn.opened = true := by
  have ho := prepared_only hb hs
  have hopened := h.opened
  obtain ⟨-, -, hboundary, -, -, -, hreset, -⟩ := hs
  have hboundary' : (prepared s b).sys.boundary = false := (ho.same (.sys .boundary) (by decide +kernel)).trans hboundary
  have hreset' : (prepared s b).lc.resetRequired = false := (ho.same (.lc .resetRequired) (by decide +kernel)).trans hreset
  exact hopened.trans (gateMayOpen_of (s := prepared s b) hboundary' hreset')

theorem bootedFrom_coldBoot (hx : s.sys.xtal = true) (hp : s.sys.pllLocked = true) : BootedFrom s b (settle (coldBoot s b)) := by
  have h := boots_of_coldBoot hb hs hx hp rfl
  generalize settle (coldBoot s b) = t at h ⊢
  have hlost := lost_firstBoot hb hs h
  have hregs := regsUp_firstBoot hb hs h
  have hopened := opened_firstBoot hb hs h
  have hporst := porstN_prepared hb hs
  have hlc := state_prepared hb hs
  have hlink := linkUp_prepared hb hs
  have htime := time_prepared hb hs
  have hcal := calValid_prepared s b
  obtain ⟨ho, ⟨hstate, hstage, hwait⟩, -, -, hnone, hready, hholds⟩ := h
  refine ⟨(ho.same (.sys .porstN) (by decide +kernel)).trans hporst, hstate, hstage, hwait, (ho.same (.lc .state) (by decide +kernel)).trans hlc, hopened, hlost,
    fun hl => hnone ?_, hready, (ho.same (.en .calValid) (by decide +kernel)).trans hcal, (ho.same (.port .linkUp) (by decide +kernel)).trans hlink,
    hholds.trans hlost.symm, hregs, htime.trans_eq (ho.same .time (by decide +kernel)).symm⟩
  exact (Bool.not_eq_true' _).mp (hlost.symm.trans hl)

end

/-! ## The commands -/

/-- A part held for a clock, the clock back. -/
def clocked (s : State) : State := { s with sys := { s.sys with xtal := true, pllLocked := true, causeClock := true } }

theorem blank_clocked (hs : BlankPart s) : BlankPart (clocked s) := by
  obtain ⟨hpower, hheld, hboundary, hawake, hstate, hflush, hreset, hraw, hrest⟩ := hs
  exact ⟨hpower, hheld, hboundary, hawake, hstate, hflush, hreset, (state_decodeLedger (s := s) (t := clocked s) rfl).trans hraw, hrest⟩

theorem causes_firstBoot (hb : CleanBoot b) (hs : BlankPart s) (hx : s.sys.xtal = true) (hp : s.sys.pllLocked = true) :
    (settle (coldBoot s b)).sys.xtal = s.sys.xtal ∧ (settle (coldBoot s b)).sys.pllLocked = s.sys.pllLocked ∧
      (settle (coldBoot s b)).sys.causeClock = s.sys.causeClock := by
  have h := boots_of_coldBoot hb hs hx hp rfl
  have ho := prepared_only hb hs
  generalize settle (coldBoot s b) = t at h ⊢
  obtain ⟨hrun, -, -, -, -, -, -⟩ := h
  exact ⟨(hrun.same (.sys .xtal) (by decide +kernel)).trans (ho.same (.sys .xtal) (by decide +kernel)),
    (hrun.same (.sys .pllLocked) (by decide +kernel)).trans (ho.same (.sys .pllLocked) (by decide +kernel)),
    (hrun.same (.sys .causeClock) (by decide +kernel)).trans (ho.same (.sys .causeClock) (by decide +kernel))⟩

theorem exec_xtal25Restore_held (hx : s.sys.xtal = false) (hp : s.sys.pllLocked = true) (hw : s.sys.wait = .clock) (h0 : s.sys.stage = 0) :
    exec (.xtal25Restore b) s = .next (settle (coldBoot (clocked s) b)) := by
  have heq : ({ s with sys := { s.sys with xtal := true, causeClock := true } } : State) = clocked s := by
    unfold clocked
    rw [← hp]
  show Host.Outcome.next (if s.sys.xtal then s else clockBack _ b) = _
  rw [if_neg (by simp [hx]), ← heq]
  exact congrArg Host.Outcome.next ((if_pos hw).trans (if_pos h0))

theorem exec_pllRelock_held (hx : s.sys.xtal = true) (hp : s.sys.pllLocked = false) (hw : s.sys.wait = .clock) (h0 : s.sys.stage = 0) :
    exec (.pllRelock b) s = .next (settle (coldBoot (clocked s) b)) := by
  have heq : ({ s with sys := { s.sys with pllLocked := true, causeClock := true } } : State) = clocked s := by
    unfold clocked
    rw [← hx]
  show Host.Outcome.next (if s.sys.pllLocked then s else clockBack _ b) = _
  rw [if_neg (by simp [hp]), ← heq]
  exact congrArg Host.Outcome.next ((if_pos hw).trans (if_pos h0))

theorem exec_porstNRise (h : s.sys.porstN = false) : exec (.porstNRise b) s = .next (settle (coldBoot s b)) :=
  congrArg Host.Outcome.next (if_neg (by simp [h]))

theorem exec_vddAonPowerOn (h : s.sys.porstN = false) : exec (.vddAonPowerOn b) s = .next (settle (coldBoot s b)) :=
  congrArg Host.Outcome.next (if_neg (by simp [h]))

end

open Sys2Proof.FirstBoot in
/-- Settles O6: every step of Table 04.4 from step 1 on finds the part blank, so that none of them stops it. -/
theorem firstBootRuns : Obligations.FirstBootRuns := by
  unfold Obligations.FirstBootRuns
  intro b s hb hs boots
  refine ⟨fun hreset hx hp => ?_, fun _ hw h0 => ?_⟩
  · have h := bootedFrom_coldBoot hb hs hx hp
    exact ⟨⟨_, exec_porstNRise hreset, h⟩, ⟨_, exec_vddAonPowerOn hreset, h⟩⟩
  · have h := bootedFrom_coldBoot (s := clocked s) hb (blank_clocked hs) rfl rfl
    obtain ⟨hxtal, hpll, hcause⟩ := causes_firstBoot (s := clocked s) hb (blank_clocked hs) rfl rfl
    refine ⟨fun hx hp => ?_, fun hx hp => ?_⟩
    · have hexec := exec_xtal25Restore_held (b := b) hx hp hw h0
      exact ⟨⟨_, hexec, h⟩, _, hexec, hxtal, hcause⟩
    · have hexec := exec_pllRelock_held (b := b) hx hp hw h0
      exact ⟨⟨_, hexec, h⟩, _, hexec, hpll, hcause⟩

end Sys2Proof.FirstBoot
end

section
/-! SUPPORT. A ledger slot programmed into an erased sector reads as it was written (R106). -/

namespace Sys2Proof.Transitions

open Sys2Proof Sys2Proof.Machine Sys2Proof.Claims Sys2Proof.Frames Sys2Proof.Holding Sys2Proof.PadReset

/-! ## Widths -/

theorem and_ones {x n : Nat} (h : x < 2 ^ n) : (2 ^ n - 1) &&& x = x := by
  rw [Nat.and_comm]
  exact Nat.and_two_pow_sub_one_of_lt_two_pow h

theorem crcStep_lt {p : Nat} (hp : p < 2 ^ 32) : ∀ n {c : Nat}, c < 2 ^ 32 → crcStep p n c < 2 ^ 32
  | 0, _, h => h
  | n + 1, c, h => by
    have hhalf : c / 2 < 2 ^ 32 := Nat.lt_of_le_of_lt (Nat.div_le_self ..) h
    rw [crcStep]
    split
    · exact crcStep_lt hp n (Nat.xor_lt_two_pow hhalf hp)
    · exact crcStep_lt hp n hhalf

theorem crcRefl_lt {p : Nat} (hp : p < 2 ^ 32) : ∀ (b : Bytes) {c : Nat}, c < 2 ^ 32 → crcRefl p c b < 2 ^ 32
  | [], _, h => h
  | x :: r, _, h => crcRefl_lt hp r (crcStep_lt hp 8 (Nat.xor_lt_two_pow h (Nat.lt_trans x.isLt (by decide))))

theorem crc32c_lt (b : Bytes) : crc32c b < 2 ^ 32 := Nat.xor_lt_two_pow (crcRefl_lt (by decide) b (by decide)) (by decide)

theorem sum_bits_lt (f : Nat → Prop) [DecidablePred f] (n : Nat) : ((List.range n).map fun j => if f j then 2 ^ j else 0).sum < 2 ^ n := by
  induction n with
  | zero => simp
  | succ n ih =>
    have hlast : (if f n then 2 ^ n else 0) ≤ 2 ^ n := by split <;> omega
    rw [List.range_succ, List.map_append, List.sum_append, Nat.pow_succ]
    simp only [List.map_cons, List.map_nil, List.sum_cons, List.sum_nil, Nat.add_zero]
    omega

theorem codewordOf_lt (st : Nat) : codewordOf st < 2 ^ 256 := sum_bits_lt (fun j => countBits (codewordRow st &&& j) 8 % 2 = 0) 256

theorem length_slice_le (b : Bytes) (off len : Nat) : (slice b off len).length ≤ len := List.length_take_le ..

theorem u32_lt (b : Bytes) (off : Nat) : u32 b off < 2 ^ 32 :=
  Nat.lt_of_lt_of_le (ByteStrings.leNat_lt _) (Nat.pow_le_pow_right (n := 256) (by decide) (length_slice_le b off 4))

theorem u8_lt (b : Bytes) (off : Nat) : u8 b off < 2 ^ 8 :=
  Nat.lt_of_lt_of_le (ByteStrings.leNat_lt _) (Nat.pow_le_pow_right (n := 256) (by decide) (length_slice_le b off 1))

theorem clearBytes_erased {n : Nat} {b : Bytes} (h : b.length ≤ n) : clearBytes (List.replicate n 0xFF#8) b = b := by
  induction b generalizing n with
  | nil => simp [clearBytes]
  | cons x r ih =>
    obtain ⟨m, rfl⟩ := Nat.exists_eq_add_of_le' (Nat.lt_of_lt_of_le (Nat.zero_lt_succ _) h)
    have hx : 0xFF#8 &&& x = x := BitVec.allOnes_and
    rw [List.replicate_succ, clearBytes, List.zipWith_cons_cons, hx]
    exact congrArg _ (ih (Nat.le_of_succ_le_succ h))

/-! ## The slot a token writes -/

/-- Programming clears bits: what slot `o` holds once `x` is written into it. -/
def cleared (o x : LedgerSlot) : LedgerSlot :=
  { seq := o.seq &&& x.seq, epoch := o.epoch &&& x.epoch, state := o.state &&& x.state, ownerDigest := clearBytes o.ownerDigest x.ownerDigest,
    tokenDigest := clearBytes o.tokenDigest x.tokenDigest, crc := o.crc &&& x.crc, reserved := clearBytes o.reserved x.reserved,
    reserved2 := clearBytes o.reserved2 x.reserved2, codeword := o.codeword &&& x.codeword }

theorem ledgerSlot_programSlot (s : State) (i : Nat) (x : LedgerSlot) : ledgerSlot (programSlot s i x) i = cleared (ledgerSlot s i) x :=
  smGet_smSet_self ..

theorem ledgerSlot_programSlot_other (s : State) {i k : Nat} (x : LedgerSlot) (h : k ≠ i) : ledgerSlot (programSlot s i x) k = ledgerSlot s k :=
  (smGet_smSet ..).trans (if_neg h)

/-- An erased sector takes the slot as it is given. -/
theorem ledgerSlot_programSlot_erased {s : State} {i : Nat} {x : LedgerSlot} (h : ledgerSlot s i = {}) (hseq : x.seq < 2 ^ 32) (hepoch : x.epoch < 2 ^ 32)
    (hstate : x.state < 2 ^ 8) (hcrc : x.crc < 2 ^ 32) (hword : x.codeword < 2 ^ 256) (howner : x.ownerDigest.length ≤ 48) (htoken : x.tokenDigest.length ≤ 48)
    (hres : x.reserved.length ≤ 7) (hres2 : x.reserved2.length ≤ 12) : ledgerSlot (programSlot s i x) i = x := by
  rw [ledgerSlot_programSlot, h]
  have h1 := and_ones hseq
  have h2 := and_ones hepoch
  have h3 := and_ones hstate
  have h4 := and_ones hcrc
  have h5 := and_ones hword
  simp only [cleared, clearBytes_erased howner, clearBytes_erased htoken, clearBytes_erased hres, clearBytes_erased hres2]
  simp only [Nat.reducePow, Nat.reduceSub] at h1 h2 h3 h4 h5 ⊢
  rw [h1, h2, h3, h4, h5]

theorem ledgerSlot_programmed {s : State} {i : Nat} (t : Bytes) (h : ledgerSlot s i = {}) : ledgerSlot (programSlot s i (slotFor t)) i = slotFor t :=
  ledgerSlot_programSlot_erased h (u32_lt ..) (u32_lt ..) (u8_lt ..) (crc32c_lt _) (codewordOf_lt _) (length_slice_le ..) (List.length_take_le ..)
    (Nat.le_of_eq rfl) (Nat.le_of_eq rfl)

end Sys2Proof.Transitions
end

section
/-! PROOF. The steps of a life-cycle transition (R98 to R108; O52). -/

namespace Sys2Proof.Transitions

open Sys2Proof Sys2Proof.Machine Sys2Proof.Claims Sys2Proof.Frames Sys2Proof.Holding Sys2Proof.PadReset Sys2Proof.LinkTap

section
variable {s t : State} {tok : Bytes}

/-! ## A token's start -/

/-- Cores, session and raw-sample mode ended. -/
@[irreducible] def quieted (s : State) : State := (List.range 16).foldl stopCore (endRaw (endSession s))

/-- A transition at its drain. -/
def draining (s : State) (tok : Bytes) : State :=
  { quieted s with lc := { (quieted s).lc with err := 0, busy := true, step := 3, token := tok } }

theorem startTransition_busy (h : lcBusy s = true) : startTransition s tok = { s with lc := { s.lc with err := 6 } } := if_pos h

theorem startTransition_faulty (h : lcBusy s = false) (hf : tokenFault s tok ≠ 0) :
    startTransition s tok = { s with lc := { s.lc with err := tokenFault s tok } } := by
  rw [startTransition, if_neg (by simp [h]), if_pos hf]
  rfl

theorem startTransition_valid (h : lcBusy s = false) (hf : tokenFault s tok = 0) : startTransition s tok = draining s tok := by
  unfold draining quieted startTransition
  rw [if_neg (by simp [h]), if_neg (by simp [hf])]

theorem rawMode_endRaw (s : State) : (endRaw s).rng.rawMode = false := by
  unfold endRaw
  cases h : s.rng.rawMode
  · exact h
  · rfl

theorem limitOf_step (h : s.lc.step ≠ 0) (p : Nat) : limitOf s p = 0 := if_pos (by simp [acceptStopped, h])

theorem quieted_only (s : State) : Only [.sys .wakeDriven, .port .linkState, .fn .pmeStatus, .fn .vecs, .pad .extendLost, .core .state, .core .w, .core .pc,
    .core .waiting, .core .loading, .out] (endRaw (endSession s)) (quieted s) := by
  unfold quieted
  exact Only.foldl (List.range 16) (fun t n => stopCore_only t n) (Only.refl _ _)

theorem core_quieted {n : Nat} (h : n < 16) : (coreAt (quieted s) n).state = 0 := by
  unfold quieted
  exact core_stopCores (List.mem_range.mpr h) (endRaw (endSession s))

theorem draining_begun (s : State) (tok : Bytes) : (draining s tok).lc.step = 3 ∧ (draining s tok).lc.busy = true ∧ (draining s tok).lc.token = tok ∧
    (draining s tok).lc.err = 0 ∧ (draining s tok).dbg.scope = 0 ∧ (draining s tok).rng.rawMode = false ∧
    (∀ n < 16, (coreAt (draining s tok) n).state = 0) ∧ (draining s tok).lc.state = s.lc.state ∧ (draining s tok).lc.slots = s.lc.slots ∧
    ∀ p, limitOf (draining s tok) p = 0 := by
  have hstop := quieted_only s
  have hraw := endRaw_only (endSession s)
  refine ⟨rfl, rfl, rfl, rfl, ?_, ?_, fun n hn => core_quieted hn, ?_, ?_, limitOf_step (by simp [draining])⟩
  · exact (hstop.same (.dbg .scope) (by decide +kernel)).trans (hraw.same (.dbg .scope) (by decide +kernel))
  · exact (hstop.same (.rng .rawMode) (by decide +kernel)).trans (rawMode_endRaw _)
  · exact (hstop.same (.lc .state) (by decide +kernel)).trans (hraw.same (.lc .state) (by decide +kernel))
  · exact (hstop.same (.lc .slots) (by decide +kernel)).trans (hraw.same (.lc .slots) (by decide +kernel))

/-- What either command that brings a token does with it. -/
theorem transition_token {c : Instr} (hexec : exec c s = .next (startTransition s tok)) :
    (lcBusy s = false → tokenFault s tok = 0 → ∃ t, exec c s = .next t ∧ t = draining s tok) ∧
    (lcBusy s = false → tokenFault s tok ≠ 0 → exec c s = .next { s with lc := { s.lc with err := tokenFault s tok } }) ∧
    (lcBusy s = true → exec c s = .next { s with lc := { s.lc with err := 6 } }) :=
  ⟨fun h hf => ⟨_, hexec, startTransition_valid h hf⟩, fun h hf => hexec.trans (congrArg _ (startTransition_faulty h hf)),
    fun h => hexec.trans (congrArg _ (startTransition_busy h))⟩

theorem exec_lcTransition (h : regsUp s 0 = true) : exec (.lcTransition 0 tok) s = .next (startTransition s tok) :=
  congrArg Host.Outcome.next (if_pos (by simpa [lcCmdUp] using h))

theorem exec_i3cTransition (h : (s.sys.porstN && !s.lc.resetRequired && !s.en.flushActive && s.sys.bootState == 1 && decide (s.lc.state ∈ [0, 1, 4])) = true) :
    exec (.i3cTokenMailbox false tok) s = .next (startTransition s tok) := by
  simp only [Bool.and_eq_true, Bool.not_eq_true', beq_iff_eq, decide_eq_true_eq, List.mem_cons, List.not_mem_nil, or_false] at h
  obtain ⟨⟨⟨⟨hporst, hreset⟩, hflush⟩, hboot⟩, hstate⟩ := h
  refine congrArg Host.Outcome.next ((if_neg (by simp [hporst, hreset, hflush])).trans ((if_neg (by simp)).trans (if_pos ⟨hboot, hstate⟩)))

/-! ## The drain ends -/

/-- The stalls reset, and a device root programmed where the token leaves RAW for FACTORY. -/
def rooted (s : State) : State := programRoot ((List.range 52).foldl resetStall s) s.lc.token

/-- The next slot programmed. -/
def programmed (s : State) : State :=
  let u := programSlot (eraseSector (rooted s) (nextSlot (rooted s))) (nextSlot (rooted s)) (slotFor (rooted s).lc.token)
  { u with lc := { u.lc with step := 8 } }

theorem exec_lcDrained (hstep : s.lc.step = 3) (hjobs : s.jobs = []) : exec .lcDrained s = .next (programmed s) := congrArg Host.Outcome.next (if_pos ⟨hstep, hjobs⟩)

theorem reset_only (s : State) : Only [.stall .state, .stall .muckouts, .stall .jobs, .stall .reqFault, .stall .reqStop, .stall .reqClaim, .stall .reqYield,
    .stall .dirty, .stall .muckFailed, .stall .muckThen, .stall .prefEnded, .stall .scrubDue, .stall .reservedFor, .stall .operand, .stall .sequ, .stall .tree]
    s ((List.range 52).foldl resetStall s) := Only.foldl (List.range 52) (fun t n => resetStall_only t n) (Only.refl _ _)

theorem nextSlot_of_slots (h : t.lc.slots = s.lc.slots) : nextSlot t = nextSlot s := by
  unfold nextSlot slotsOf ledgerSlot
  rw [h]

theorem programRoot_kept (s : State) (tok : Bytes) : (programRoot s tok).lc.slots = s.lc.slots ∧ (programRoot s tok).lc.token = s.lc.token := by
  have h := programRoot_only s tok
  exact ⟨h.same (.lc .slots) (by decide +kernel), h.same (.lc .token) (by decide +kernel)⟩

theorem rooted_kept (s : State) : (rooted s).lc.slots = s.lc.slots ∧ (rooted s).lc.token = s.lc.token := by
  have h := programRoot_only ((List.range 52).foldl resetStall s) s.lc.token
  have hr := reset_only s
  exact ⟨(h.same (.lc .slots) (by decide +kernel)).trans (hr.same (.lc .slots) (by decide +kernel)),
    (h.same (.lc .token) (by decide +kernel)).trans (hr.same (.lc .token) (by decide +kernel))⟩

theorem rooted_leaves_raw (h : tokFrom s.lc.token = 0 ∧ tokTo s.lc.token = 1) : (rooted s).lc.rootPresent = true ∧
    (rooted s).lc.deviceNumber = tokDevice s.lc.token ∧ (rooted s).lc.deviceRoot = shake256 (leBytes 256 (Config.freeValue s.freeCtr)) 32 := by
  have hctr : ((List.range 52).foldl resetStall s).freeCtr = s.freeCtr := (reset_only s).same .freeCtr (by decide +kernel)
  have hroot : rooted s = { (conditioned ((List.range 52).foldl resetStall s)).2 with
      lc := { (conditioned ((List.range 52).foldl resetStall s)).2.lc with
        rootPresent := true, deviceRoot := (conditioned ((List.range 52).foldl resetStall s)).1, deviceNumber := tokDevice s.lc.token } } := if_pos h
  rw [hroot]
  refine ⟨rfl, rfl, ?_⟩
  show shake256 (leBytes 256 (Config.freeValue ((List.range 52).foldl resetStall s).freeCtr)) 32 = _
  rw [hctr]

theorem rooted_else (h : ¬(tokFrom s.lc.token = 0 ∧ tokTo s.lc.token = 1)) : (rooted s).lc = s.lc := by
  have hroot : rooted s = (List.range 52).foldl resetStall s := if_neg h
  rw [hroot]
  exact lc_of_only (reset_only s) (by decide +kernel)

theorem ledgerSlot_eraseSector (s : State) (i k : Nat) : ledgerSlot (eraseSector s i) k = if k = i then {} else ledgerSlot s k := smGet_smDel ..

theorem ledgerSlot_programmed_next (s : State) : ledgerSlot (programmed s) (nextSlot s) = slotFor s.lc.token := by
  obtain ⟨hslots, htok⟩ := rooted_kept s
  have herased := (ledgerSlot_eraseSector (rooted s) (nextSlot (rooted s)) (nextSlot (rooted s))).trans (if_pos rfl)
  have h := ledgerSlot_programmed (rooted s).lc.token herased
  rw [htok, nextSlot_of_slots hslots] at h
  have hprog : ledgerSlot (programmed s) (nextSlot s) =
      ledgerSlot (programSlot (eraseSector (rooted s) (nextSlot (rooted s))) (nextSlot (rooted s)) (slotFor (rooted s).lc.token)) (nextSlot s) := rfl
  rwa [hprog, htok, nextSlot_of_slots hslots]

theorem ledgerSlot_programmed_other {i : Nat} (h : i ≠ nextSlot s) : ledgerSlot (programmed s) i = ledgerSlot s i := by
  obtain ⟨hslots, -⟩ := rooted_kept s
  have hi : i ≠ nextSlot (rooted s) := by rwa [nextSlot_of_slots hslots]
  have hroot : ledgerSlot (rooted s) i = ledgerSlot s i := by
    unfold ledgerSlot
    rw [hslots]
  exact (ledgerSlot_programSlot_other _ _ hi).trans ((ledgerSlot_eraseSector ..).trans ((if_neg hi).trans hroot))

theorem programmed_root (s : State) : (programmed s).lc.rootPresent = (rooted s).lc.rootPresent ∧ (programmed s).lc.deviceNumber = (rooted s).lc.deviceNumber ∧
    (programmed s).lc.deviceRoot = (rooted s).lc.deviceRoot := ⟨rfl, rfl, rfl⟩

theorem lcDrained_programs (hstep : s.lc.step = 3) (hjobs : s.jobs = []) : ∃ t, exec .lcDrained s = .next t ∧ t.lc.step = 8 ∧
    ledgerSlot t (nextSlot s) = slotFor s.lc.token ∧ (∀ i, i ≠ nextSlot s → ledgerSlot t i = ledgerSlot s i) ∧
    (tokFrom s.lc.token = 0 ∧ tokTo s.lc.token = 1 → t.lc.rootPresent = true ∧ t.lc.deviceNumber = tokDevice s.lc.token ∧
      t.lc.deviceRoot = shake256 (leBytes 256 (Config.freeValue s.freeCtr)) 32) ∧
    (¬(tokFrom s.lc.token = 0 ∧ tokTo s.lc.token = 1) → t.lc.deviceRoot = s.lc.deviceRoot ∧ t.lc.deviceNumber = s.lc.deviceNumber) := by
  refine ⟨_, exec_lcDrained hstep hjobs, rfl, ledgerSlot_programmed_next s, fun i => ledgerSlot_programmed_other, fun h => rooted_leaves_raw h, fun h => ?_⟩
  obtain ⟨-, hnumber, hroot⟩ := programmed_root s
  rw [hnumber, hroot, rooted_else h]
  exact ⟨rfl, rfl⟩

/-! ## The drain does not end -/

theorem lcDrainTimeout_abandons (hstep : s.lc.step = 3) (hjobs : s.jobs ≠ []) : ∃ t, exec .lcDrainTimeout s = .next t ∧ t.lc.step = 0 ∧ t.lc.busy = false ∧
    t.lc.err = 5 ∧ t.lc.token = [] ∧ t.lc.slots = s.lc.slots ∧ t.lc.state = s.lc.state := by
  have hexec : exec .lcDrainTimeout s = .next (recheck (lcErr (abandonTransition s) 5) [2]) := congrArg Host.Outcome.next (if_pos ⟨hstep, hjobs⟩)
  have habandon : abandonTransition s = { s with lc := { s.lc with step := 0, busy := false, token := [], slots := s.lc.slots } } := by
    refine (if_neg (by simp [hstep])).trans ?_
    rw [if_neg (by simp [hstep])]
  have hlc : (recheck (lcErr (abandonTransition s) 5) [2]).lc = (lcErr (abandonTransition s) 5).lc := lc_of_only (recheck_only ..) (by decide +kernel)
  refine ⟨_, hexec, ?_⟩
  rw [hlc, habandon]
  exact ⟨rfl, rfl, rfl, rfl, rfl, rfl⟩

/-! ## The old slot is erased -/

/-- The audit log ends in the entry that was added. -/
theorem getLast_auditAdd (s : State) (event value : Nat) : (auditAdd s event value).hl.auditLog.getLast? = some (s.time, event, value) := by
  simp only [auditAdd]
  have hlen : (s.hl.auditLog ++ [(s.time, event, value)]).length = s.hl.auditLog.length + 1 := List.length_append
  rw [List.getLast?_drop, if_neg (by omega), List.getLast?_concat]

/-- The old slot erased: only the token's stays. -/
def erased (s : State) : State := { s with lc := { s.lc with slots := s.lc.slots.filter fun e => e.2.seq == tokSeq s.lc.token } }

theorem requireReset_shut (s : State) : (requireReset s).lc.step = 0 ∧ (requireReset s).lc.resetRequired = true ∧ (requireReset s).jn.opened = false ∧
    regsUp (requireReset s) 0 = false ∧ (requireReset s).lc.slots = s.lc.slots ∧ (requireReset s).hl = s.hl :=
  ⟨rfl, rfl, rfl, Bool.and_false _, rfl, rfl⟩

theorem ledgerProgramDone_resets (hstep : s.lc.step = 8) : ∃ t, exec .ledgerProgramDone s = .next t ∧ t.lc.step = 0 ∧ t.lc.resetRequired = true ∧
    t.jn.opened = false ∧ regsUp t 0 = false ∧ t.lc.slots = (s.lc.slots.filter fun e => e.2.seq == tokSeq s.lc.token) ∧
    t.hl.auditLog.getLast? = some (s.time, 1, tokTo s.lc.token) := by
  have hexec : exec .ledgerProgramDone s = .next (requireReset (auditAdd (erased s) 1 (tokTo s.lc.token))) := congrArg Host.Outcome.next (if_pos hstep)
  have hslots : (auditAdd (erased s) 1 (tokTo s.lc.token)).lc.slots = (erased s).lc.slots := (auditAdd_only ..).same (.lc .slots) (by decide +kernel)
  obtain ⟨hstep', hreset, hopened, hregs, hlc, hhl⟩ := requireReset_shut (auditAdd (erased s) 1 (tokTo s.lc.token))
  refine ⟨_, hexec, hstep', hreset, hopened, hregs, hlc.trans hslots, ?_⟩
  rw [hhl]
  exact getLast_auditAdd ..

/-! ## COMPLETE -/

theorem complete_busy (h : lcBusy s = true) : complete s tok = { s with lc := { s.lc with err := 6 } } := if_pos h

theorem complete_running (h : lcBusy s = false) (hl : s.lc.state ≠ 7) : complete s tok = { s with lc := { s.lc with err := 7 } } :=
  (if_neg (by simp [h])).trans (if_pos hl)

theorem complete_faulty (h : lcBusy s = false) (hl : s.lc.state = 7) (hf : completeFault s tok ≠ 0) :
    complete s tok = { s with lc := { s.lc with err := completeFault s tok } } :=
  (if_neg (by simp [h])).trans ((if_neg (by simp [hl])).trans (if_pos hf))

/-- A LOCKED part before its ledger is mended: the root present, the error cleared. -/
def mending (s : State) (tok : Bytes) : State := lcErr (if s.lc.rootPresent then s else programRoot s tok) 0

theorem slots_mending (s : State) (tok : Bytes) : (mending s tok).lc.slots = s.lc.slots := by
  unfold mending lcErr
  split
  · rfl
  · exact (programRoot_kept s tok).1

/-- The ledger after COMPLETE at slot `i`. -/
def mended (s : State) (tok : Bytes) (i : Nat) : State :=
  let u := mending s tok
  requireReset (auditAdd { u with lc := { u.lc with slots := smSet {} [] i (if slotClass (ledgerSlot u i) = 1 then ledgerSlot u i else slotFor tok) } } 1 (tokTo tok))

theorem completeTarget_of_slots (h : t.lc.slots = s.lc.slots) : completeTarget t tok = completeTarget s tok := by
  unfold completeTarget Machine.targetOk besideOk usedSlots ledgerSlot
  rw [h]

theorem complete_mends {i : Nat} (h : lcBusy s = false) (hl : s.lc.state = 7) (hf : completeFault s tok = 0) (hi : completeTarget s tok = some i) :
    complete s tok = mended s tok i := by
  have htarget : completeTarget (mending s tok) tok = some i := (completeTarget_of_slots (slots_mending s tok)).trans hi
  refine (if_neg (by simp [h])).trans ((if_neg (by simp [hl])).trans ((if_neg (by simp [hf])).trans ?_))
  show requireReset (auditAdd (completeLedger (mending s tok) tok) 1 (tokTo tok)) = _
  unfold completeLedger
  rw [htarget]
  rfl

theorem ledgerSlot_mended (s : State) (tok : Bytes) (i k : Nat) : ledgerSlot (mended s tok i) k =
    if k = i then (if slotClass (ledgerSlot s i) = 1 then ledgerSlot s i else slotFor tok) else {} := by
  have hold : ledgerSlot (mending s tok) i = ledgerSlot s i := by
    unfold ledgerSlot
    rw [slots_mending]
  have hget : ledgerSlot (mended s tok i) k = if k = i then (if slotClass (ledgerSlot (mending s tok) i) = 1 then ledgerSlot (mending s tok) i else slotFor tok) else {} :=
    smGet_smSet ..
  rwa [hold] at hget

/-- What either command that completes does in LOCKED. -/
theorem completes {c : Instr} (hexec : exec c s = .next (complete s tok)) :
    (lcBusy s = true → exec c s = .next { s with lc := { s.lc with err := 6 } }) ∧
    (lcBusy s = false → s.lc.state = 7 →
      (∀ i, completeFault s tok = 0 → completeTarget s tok = some i → ∃ t, exec c s = .next t ∧ t.lc.resetRequired = true ∧ t.lc.err = 0 ∧
        (∀ k, k ≠ i → ledgerSlot t k = {}) ∧ (slotClass (ledgerSlot s i) = 1 → ledgerSlot t i = ledgerSlot s i) ∧
        (slotClass (ledgerSlot s i) ≠ 1 → ledgerSlot t i = slotFor tok)) ∧
      (completeFault s tok ≠ 0 → exec c s = .next { s with lc := { s.lc with err := completeFault s tok } })) := by
  refine ⟨fun h => hexec.trans (congrArg _ (complete_busy h)), fun h hl => ⟨fun i hf hi => ?_, fun hf => hexec.trans (congrArg _ (complete_faulty h hl hf))⟩⟩
  have hself := (ledgerSlot_mended s tok i i).trans (if_pos rfl)
  exact ⟨_, hexec.trans (congrArg _ (complete_mends h hl hf hi)), rfl, rfl, fun k hk => (ledgerSlot_mended ..).trans (if_neg hk),
    fun h1 => hself.trans (if_pos h1), fun h1 => hself.trans (if_neg h1)⟩

theorem exec_lcComplete (h : regsUp s 0 = true ∨ (recoveryUp s 0 = true ∧ s.sys.bootState = 3 ∧ s.lc.resetRequired = false)) :
    exec (.lcComplete 0 tok) s = .next (complete s tok) := congrArg Host.Outcome.next (if_pos ⟨rfl, h⟩)

theorem exec_i3cComplete (h : (s.sys.porstN && !s.lc.resetRequired && !s.en.flushActive && s.sys.bootState == 3) = true) :
    exec (.i3cTokenMailbox true tok) s = .next (complete s tok) := by
  simp only [Bool.and_eq_true, Bool.not_eq_true', beq_iff_eq] at h
  obtain ⟨⟨⟨hporst, hreset⟩, hflush⟩, hboot⟩ := h
  exact congrArg Host.Outcome.next ((if_neg (by simp [hporst, hreset, hflush])).trans ((if_pos rfl).trans (if_pos (Or.inl hboot))))

end

/-- Settles O52: each step leaves the ledger's other slots alone, and what it programs into an erased sector reads back as it was written. -/
theorem lifeCycleTransitions : Obligations.LifeCycleTransitions := by
  unfold Obligations.LifeCycleTransitions
  intro s tok begun
  refine ⟨fun c hc hup => ?_, lcDrained_programs, lcDrainTimeout_abandons, ledgerProgramDone_resets, fun c hc hup => ?_, fun hup hb hl => ?_⟩
  · have hexec : exec c.1 s = .next (startTransition s tok) := by
      rcases List.mem_cons.mp hc with rfl | hc
      · exact exec_lcTransition hup
      · obtain rfl := List.mem_singleton.mp hc
        exact exec_i3cTransition hup
    obtain ⟨hvalid, hrest⟩ := transition_token hexec
    refine ⟨fun hb hf => ?_, hrest⟩
    obtain ⟨t, ht, rfl⟩ := hvalid hb hf
    exact ⟨_, ht, draining_begun s tok⟩
  · refine completes ?_
    rcases List.mem_cons.mp hc with rfl | hc
    · simp only [Bool.and_eq_true, Bool.not_eq_true', beq_iff_eq] at hup
      obtain ⟨⟨hrec, hboot⟩, hreset⟩ := hup
      exact exec_lcComplete (Or.inr ⟨hrec, hboot, hreset⟩)
    · obtain rfl := List.mem_singleton.mp hc
      exact exec_i3cComplete hup
  · exact (exec_lcComplete (Or.inl hup)).trans (congrArg _ (complete_running hb hl))

end Sys2Proof.Transitions
end

section
/-! PROOF. Identity keys, certificates and debug sessions (R95, R111 to R119; O53). -/

namespace Sys2Proof.Identity

open Sys2Proof Sys2Proof.Machine Sys2Proof.Claims Sys2Proof.Frames Sys2Proof.PadReset Sys2Proof.Transitions

section
variable {s t : State} {fn : Nat} {certs : List Bytes} {tok : Bytes}

/-! ## Identity keys and certificates -/

theorem hostWrite_of_ne {d : Bytes} (h : d ≠ []) (n addr : Nat) :
    hostWrite s n addr d = emit { s with port := { s.port with linkState := 0 } } (.memWrite n addr d) :=
  if_neg (by simpa using h)

theorem exec_genIdentity (hup : regsUp s 0 = true) (hl : s.lc.state = 1) (hb : lcBusy s = false) : exec (.genIdentity 0 3#64) s =
    .next (hostWrite (lcErr { s with lc := { s.lc with identity := true } } 0) 0 s.lc.tokenAddr ((identityPk s).1 ++ (identityPk s).2)) := by
  have hcmd : lcCmdUp s 0 = true ∧ cmdOf 3#64 = 3 ∧ s.lc.state = 1 := ⟨by simpa [lcCmdUp] using hup, by decide, hl⟩
  exact congrArg Host.Outcome.next ((if_pos hcmd).trans (if_neg (by simp [hb])))

theorem genIdentity_writes (hup : regsUp s 0 = true) (hl : s.lc.state = 1) (hb : lcBusy s = false) (hpk : (identityPk s).1 ++ (identityPk s).2 ≠ []) :
    ∃ t, exec (.genIdentity 0 3#64) s = .next t ∧ t.lc.identity = true ∧ t.lc.err = 0 ∧
      t.out = s.out ++ [.memWrite 0 s.lc.tokenAddr ((identityPk s).1 ++ (identityPk s).2)] := by
  rw [exec_genIdentity hup hl hb, hostWrite_of_ne hpk]
  exact ⟨_, rfl, rfl, rfl, rfl⟩

/-- The new certificates, before their write begins. -/
def offered (s : State) (certs : List Bytes) : State := lcErr { s with hl := { s.hl with certsNew := some certs } } 0

theorem writing_startWrite (s : State) (o : Nat) : (objAt (startWrite s o) o).writing.isSome = true := by
  unfold startWrite
  dsimp only
  split
  case isTrue h => exact h
  case isFalse => exact congrArg (fun x => (Obj.writing x).isSome) (smGet_smSet_self ..)

section
variable (hup : regsUp s 0 = true) (hl : s.lc.state = 1)
include hup hl

theorem exec_storeCerts : exec (.storeCerts 0 certs) s = .next (if lcBusy s then lcErr s 6
    else if s.lc.identity && certsMatch s certs && hayloftWrites s then startWrite (offered s certs) certsObj else s) :=
  congrArg Host.Outcome.next (if_pos ⟨by simpa [lcCmdUp] using hup, hl⟩)

theorem storeCerts_starts (hb : lcBusy s = false) (hid : s.lc.identity = true) (hmatch : certsMatch s certs = true) (hw : hayloftWrites s = true) :
    ∃ t, exec (.storeCerts 0 certs) s = .next t ∧ t.lc.err = 0 ∧ t.hl.certsNew = some certs ∧ t.hl.certs = s.hl.certs ∧
      (objAt t certsObj).writing.isSome = true := by
  have ho := startWrite_only (offered s certs) certsObj
  rw [exec_storeCerts hup hl, if_neg (by simp [hb]), if_pos (by simp [hid, hmatch, hw])]
  exact ⟨_, rfl, ho.same (.lc .err) (by decide +kernel), ho.same (.hl .certsNew) (by decide +kernel), ho.same (.hl .certs) (by decide +kernel),
    writing_startWrite ..⟩

theorem storeCerts_busy (hb : lcBusy s = true) : exec (.storeCerts 0 certs) s = .next { s with lc := { s.lc with err := 6 } } := by
  rw [exec_storeCerts hup hl, if_pos hb]
  rfl

theorem storeCerts_refused (hb : lcBusy s = false) (h : s.lc.identity = false ∨ certsMatch s certs = false ∨ hayloftWrites s = false) :
    exec (.storeCerts 0 certs) s = .next s := by
  rw [exec_storeCerts hup hl, if_neg (by simp [hb]), if_neg]
  rcases h with h | h | h <;> simp [h]

end

/-! ## LC_CERT_SEL and LC_CERT_DATA -/

theorem certSel_set {v : W64} (hup : lcUp s fn = true) (hp : (padOfFn s fn).isSome = true) : exec (.lcCertSelWrite fn v) s =
    .next (modFn s fn fun f => { f with certSel := bits v.toNat 0 3, certOff := 0 }) := congrArg Host.Outcome.next (if_pos (by simp [hup, hp]))

theorem certs_unheard {v : W64} (hup : lcUp s fn = true) (hp : padOfFn s fn = none) :
    exec (.lcCertSelWrite fn v) s = .next s ∧ exec (.certDataRead fn) s = .next (reply s fn (zeros 4)) :=
  ⟨congrArg Host.Outcome.next (if_neg (by simp [hp])), congrArg Host.Outcome.next ((if_neg (by simp [hup])).trans (if_pos (by simp [hp])))⟩

theorem certData_reads (hup : lcUp s fn = true) (hp : (padOfFn s fn).isSome = true) :
    ∃ t, exec (.certDataRead fn) s = .next t ∧ t.out = s.out ++ [.barReply fn (leBytes 4 (u32 (certOf s (fnAt s fn).certSel) (fnAt s fn).certOff))] ∧
      fnAt t fn = { fnAt s fn with
        certOff := if (fnAt s fn).certOff < (certOf s (fnAt s fn).certSel).length then (fnAt s fn).certOff + 4 else (fnAt s fn).certOff } := by
  have hnone : ¬(padOfFn s fn).isNone = true := by
    rw [Option.isNone_iff_eq_none]
    exact Option.isSome_iff_ne_none.mp hp
  refine ⟨_, congrArg Host.Outcome.next ((if_neg (by simp [hup])).trans (if_neg hnone)), rfl, ?_⟩
  exact smGet_smSet_self ..

/-! ## I3C -/

theorem i3cIdentity_reads (i : Nat) (hporst : s.sys.porstN = true) (hawake : s.sys.deepSleep = false) (hcalm : Calm s) :
    exec (.i3cIdentityRead i) s = .next (emit (if i = 6 then { s with freeCtr := s.freeCtr + 1 } else s) (.i3cReply
      (if i < 6 then (if s.lc.state = 0 then [] else smGet [] s.hl.certs i) else if i = 6 then leBytes 4 (Config.freeValue s.freeCtr)
       else leBytes 8 s.lc.deviceNumber ++ leBytes 8 (lcStatus s)))) := by
  refine (congrArg Host.Outcome.next (if_pos hporst)).trans ?_
  by_cases hi : i = 6
  · subst hi
    have hleave : leaveDeepSleep (draw s).2 = (draw s).2 := if_pos (by simp [draw, hawake])
    have hsettle : settle (draw s).2 = (draw s).2 := settle_of_calm (s := (draw s).2) hcalm
    show Host.Outcome.next (emit (settle (leaveDeepSleep (draw s).2)) _) = _
    rw [hleave, hsettle]
    rfl
  · have hleave : leaveDeepSleep s = s := if_pos (by simp [hawake])
    simp only [if_neg hi]
    rw [hleave, settle_of_calm hcalm]
    rfl

/-! ## Debug records -/

/-- A debug record the ledger reads as whole. -/
def debugAt (s : State) (i : Nat) (r : DebugRec) : Prop := smGet none s.lc.debugRecs i = some r ∧ r.crc = crc32c (debugBytes r)

/-- The newer of the record found so far and the one at `i`. -/
def newerDebug (s : State) (m : Option (Nat × DebugRec)) (i : Nat) : Option (Nat × DebugRec) :=
  match smGet none s.lc.debugRecs i with
  | some r => if r.crc = crc32c (debugBytes r) ∧ (m.all fun e => decide (e.2.seq < r.seq)) = true then some (i, r) else m
  | none => m

theorem newestDebug_eq (s : State) : newestDebug s = ([12, 13, 14, 15] : List Nat).foldl (newerDebug s) none := rfl

theorem newerDebug_takes {m : Option (Nat × DebugRec)} {i : Nat} {r : DebugRec} (h : debugAt s i r) (hm : ∀ e, m = some e → e.2.seq < r.seq) :
    newerDebug s m i = some (i, r) := by
  unfold newerDebug
  rw [h.1]
  refine if_pos ⟨h.2, ?_⟩
  cases m with
  | none => rfl
  | some e => exact decide_eq_true (hm e rfl)

theorem newerDebug_keeps {i : Nat} {e : Nat × DebugRec} (h : ∀ x, debugAt s i x → x.seq ≤ e.2.seq) : newerDebug s (some e) i = some e := by
  unfold newerDebug
  split
  case h_1 x hx =>
    refine if_neg fun hc => ?_
    have hlt : e.2.seq < x.seq := of_decide_eq_true hc.2
    exact absurd (h x ⟨hx, hc.1⟩) (Nat.not_le.mpr hlt)
  case h_2 => rfl

/-- What the fold finds is at least as new as every whole record it passes. -/
theorem newest_bound (l : List Nat) : ∀ m : Option (Nat × DebugRec),
    (∀ e, m = some e → ∃ e', l.foldl (newerDebug s) m = some e' ∧ e.2.seq ≤ e'.2.seq) ∧
      ∀ i ∈ l, ∀ x, debugAt s i x → ∃ e', l.foldl (newerDebug s) m = some e' ∧ x.seq ≤ e'.2.seq := by
  induction l with
  | nil => exact fun m => ⟨fun e he => ⟨e, he, Nat.le_refl _⟩, fun i hi => by simp at hi⟩
  | cons j l ih =>
    intro m
    obtain ⟨hkeep, hrest⟩ := ih (newerDebug s m j)
    have hstep : (∀ e, m = some e → ∃ e', newerDebug s m j = some e' ∧ e.2.seq ≤ e'.2.seq) ∧
        ∀ x, debugAt s j x → ∃ e', newerDebug s m j = some e' ∧ x.seq ≤ e'.2.seq := by
      by_cases hnew : ∃ r, debugAt s j r ∧ ∀ e, m = some e → e.2.seq < r.seq
      · obtain ⟨r, hr, hm⟩ := hnew
        have htake := newerDebug_takes hr hm
        refine ⟨fun e he => ⟨_, htake, Nat.le_of_lt (hm e he)⟩, fun x hx => ⟨_, htake, ?_⟩⟩
        rw [Option.some.inj (hx.1.symm.trans hr.1)]
      · have hold : ∀ x, debugAt s j x → ∃ e, m = some e ∧ x.seq ≤ e.2.seq := fun x hx => by
          by_contra hno
          exact hnew ⟨x, hx, fun e he => Nat.lt_of_not_le fun hle => hno ⟨e, he, hle⟩⟩
        cases m with
        | none =>
          refine ⟨fun e he => by simp at he, fun x hx => ?_⟩
          obtain ⟨e, he, -⟩ := hold x hx
          simp at he
        | some e =>
          have hmax : ∀ x, debugAt s j x → x.seq ≤ e.2.seq := fun x hx => by
            obtain ⟨e', he', hle⟩ := hold x hx
            rwa [Option.some.inj he']
          have hsame := newerDebug_keeps hmax
          exact ⟨fun e' he' => ⟨e, hsame, by rw [Option.some.inj he']⟩, fun x hx => ⟨e, hsame, hmax x hx⟩⟩
    refine ⟨fun e he => ?_, fun i hi x hx => ?_⟩
    · obtain ⟨e1, h1, hle1⟩ := hstep.1 e he
      obtain ⟨e2, h2, hle2⟩ := hkeep e1 h1
      exact ⟨e2, h2, Nat.le_trans hle1 hle2⟩
    · rcases List.mem_cons.mp hi with rfl | hi
      · obtain ⟨e1, h1, hle1⟩ := hstep.2 x hx
        obtain ⟨e2, h2, hle2⟩ := hkeep e1 h1
        exact ⟨e2, h2, Nat.le_trans hle1 hle2⟩
      · exact hrest i hi x hx

/-- A whole record newer than every other is the one found. -/
theorem newest_found {i : Nat} {r : DebugRec} (hr : debugAt s i r) : ∀ (l : List Nat) (m : Option (Nat × DebugRec)),
    (∀ k ∈ l, k ≠ i → ∀ x, debugAt s k x → x.seq < r.seq) → (m = some (i, r) ∨ (i ∈ l ∧ ∀ e, m = some e → e.2.seq < r.seq)) →
    l.foldl (newerDebug s) m = some (i, r)
  | [], m, _, h => by simpa using h
  | k :: l, m, hl, h => by
    refine newest_found hr l _ (fun k' hk' => hl k' (List.mem_cons_of_mem _ hk')) ?_
    by_cases hk : k = i
    · subst hk
      rcases h with rfl | ⟨-, h⟩
      · exact Or.inl (newerDebug_keeps fun x hx => by rw [Option.some.inj (hx.1.symm.trans hr.1)])
      · exact Or.inl (newerDebug_takes hr h)
    · have hlow := hl k List.mem_cons_self hk
      rcases h with rfl | ⟨hi, h⟩
      · exact Or.inl (newerDebug_keeps fun x hx => Nat.le_of_lt (hlow x hx))
      · refine Or.inr ⟨(List.mem_cons.mp hi).resolve_left (Ne.symm hk), fun e he => ?_⟩
        unfold newerDebug at he
        split at he
        case h_1 x hx =>
          split at he
          case isTrue hc =>
            obtain rfl := Option.some.inj he
            exact hlow x ⟨hx, hc.1⟩
          case isFalse => exact h e he
        case h_2 => exact h e he

/-- The record WRITE_DEBUG writes, and its place. -/
def nextDebug (s : State) (digest : Bytes) (count : Nat) : DebugRec :=
  { digest := digest, count := count, seq := (debugRec s).seq + 1
    crc := crc32c (debugBytes { digest := digest, count := count, seq := (debugRec s).seq + 1 }) }

def debugPlace (s : State) : Nat := (newestDebug s).elim 12 fun e => 12 + (e.1 - 12 + 1) % 4

theorem debugRecs_writeDebug (s : State) (digest : Bytes) (count : Nat) :
    (writeDebug s digest count).lc.debugRecs = smSet none s.lc.debugRecs (debugPlace s) (some (nextDebug s digest count)) := rfl

theorem debugAt_writeDebug (s : State) (digest : Bytes) (count : Nat) :
    debugAt (writeDebug s digest count) (debugPlace s) (nextDebug s digest count) := by
  refine ⟨?_, rfl⟩
  rw [debugRecs_writeDebug]
  exact smGet_smSet_self ..

theorem debugAt_writeDebug_other {digest : Bytes} {count k : Nat} {x : DebugRec} (hk : k ≠ debugPlace s) (h : debugAt (writeDebug s digest count) k x) :
    debugAt s k x := by
  obtain ⟨hget, hcrc⟩ := h
  have hsame : smGet none (writeDebug s digest count).lc.debugRecs k = smGet none s.lc.debugRecs k := by
    rw [debugRecs_writeDebug]
    exact (smGet_smSet ..).trans (if_neg hk)
  exact ⟨hsame.symm.trans hget, hcrc⟩

theorem debugPlace_mem (s : State) : debugPlace s ∈ ([12, 13, 14, 15] : List Nat) := by
  unfold debugPlace
  cases newestDebug s with
  | none => simp
  | some e =>
    simp only [Option.elim_some, List.mem_cons, List.not_mem_nil, or_false]
    omega

/-- Every whole record is older than the next. -/
theorem seq_lt_nextDebug {k : Nat} {x : DebugRec} {digest : Bytes} {count : Nat} (hk : k ∈ ([12, 13, 14, 15] : List Nat)) (h : debugAt s k x) :
    x.seq < (nextDebug s digest count).seq := by
  obtain ⟨e, he, hle⟩ := (newest_bound (s := s) [12, 13, 14, 15] none).2 k hk x h
  have hrec : debugRec s = e.2 := by
    rw [debugRec, newestDebug_eq, he]
    rfl
  show x.seq < (debugRec s).seq + 1
  rw [hrec]
  exact Nat.lt_succ_of_le hle

theorem debugRec_writeDebug (s : State) (digest : Bytes) (count : Nat) : debugRec (writeDebug s digest count) = nextDebug s digest count := by
  have h := newest_found (debugAt_writeDebug s digest count) [12, 13, 14, 15] none
    (fun k hk hne x hx => seq_lt_nextDebug hk (debugAt_writeDebug_other hne hx)) (Or.inr ⟨debugPlace_mem s, fun e he => by simp at he⟩)
  rw [debugRec, newestDebug_eq, h]
  rfl

/-! ## Debug sessions -/

/-- The session a token opens, counted and logged. -/
def counts (s : State) (tok : Bytes) : State :=
  auditAdd (extendYmr (writeDebug s (debugRec s).digest ((debugRec s).count + 1)) 15 (sha3_384 tok)) 2 (u8 tok 6)

def opensSession (s : State) (tok : Bytes) : State :=
  { counts s tok with
    sys := { (counts s tok).sys with tapIr := 0x10 }
    dbg := { challengeDraw := (counts s tok).freeCtr, scope := u8 tok 6, padMask := if u8 tok 6 = 2 then u32 tok 0x30 else 0 }
    freeCtr := (counts s tok).freeCtr + 1 }

theorem dbgToken_opens (hup : debugUp s = true) (hb : s.sys.boundary = false) (hok : debugTokenOk s tok = true) :
    exec (.dbgToken tok) s = .next (opensSession s tok) := congrArg Host.Outcome.next (if_pos (by simp [hup, hb, hok]))

theorem dbgToken_refused (hok : debugTokenOk s tok = false) : exec (.dbgToken tok) s = .next s := congrArg Host.Outcome.next (if_neg (by simp [hok]))

theorem debugRec_of_records (h : t.lc.debugRecs = s.lc.debugRecs) : debugRec t = debugRec s := by
  unfold debugRec newestDebug
  rw [h]

theorem opensSession_open (s : State) (tok : Bytes) : (opensSession s tok).dbg.scope = u8 tok 6 ∧ (opensSession s tok).dbg.challengeDraw = s.freeCtr ∧
    (opensSession s tok).dbg.padMask = (if u8 tok 6 = 2 then u32 tok 0x30 else 0) ∧
    (opensSession s tok).hl.auditLog.getLast? = some (s.time, 2, u8 tok 6) ∧
    (debugRec (opensSession s tok)).count = (debugRec s).count + 1 ∧ (debugRec (opensSession s tok)).digest = (debugRec s).digest ∧
    smGet (zeros 48) (opensSession s tok).rng.ymr 15 = sha3_384 (smGet (zeros 48) s.rng.ymr 15 ++ sha3_384 tok) := by
  have haudit : ∀ u : State, (auditAdd u 2 (u8 tok 6)).freeCtr = u.freeCtr ∧ (auditAdd u 2 (u8 tok 6)).lc = u.lc ∧ (auditAdd u 2 (u8 tok 6)).rng = u.rng :=
    fun u => ⟨(auditAdd_only ..).same .freeCtr (by decide +kernel), lc_of_only (auditAdd_only ..) (by decide +kernel),
      rng_of_only (auditAdd_only ..) (by decide +kernel)⟩
  obtain ⟨hctr, hlc, hrng⟩ := haudit (extendYmr (writeDebug s (debugRec s).digest ((debugRec s).count + 1)) 15 (sha3_384 tok))
  have hrec : debugRec (opensSession s tok) = nextDebug s (debugRec s).digest ((debugRec s).count + 1) :=
    (debugRec_of_records (congrArg LifeCycle.debugRecs hlc)).trans (debugRec_writeDebug ..)
  refine ⟨rfl, hctr, rfl, getLast_auditAdd .., ?_, ?_, ?_⟩
  · rw [hrec]
    rfl
  · rw [hrec]
    rfl
  · have hy : (opensSession s tok).rng.ymr = smSet (zeros 48) s.rng.ymr 15 (sha3_384 (smGet (zeros 48) s.rng.ymr 15 ++ sha3_384 tok)) := congrArg Rng.ymr hrng
    rw [hy]
    exact smGet_smSet_self ..

/-- Before PRODUCTION's successors only Habervo's scope has a key. -/
theorem scope_of_debugTokenOk (hok : debugTokenOk s tok = true) (hl : s.lc.state = 1 ∨ s.lc.state = 2 ∨ s.lc.state = 4) : u8 tok 6 = 1 := by
  have hkeys : (debugKeys s (u8 tok 6)).any (fun k => blockVerifies (ascii "DBG") k (tok.take 128) (tok.drop 128)) = true :=
    (Bool.and_eq_true_iff.mp hok).2
  by_contra hne
  have hnone : debugKeys s (u8 tok 6) = [] := by
    unfold debugKeys
    rw [if_neg (by simp [hne]), if_neg]
    rintro ⟨-, h3⟩
    omega
  rw [hnone] at hkeys
  simp at hkeys

theorem debugClose_ends (hup : regsUp s 0 = true) : exec (.debugClose 0 1#64) s = .next { s with dbg := { s.dbg with scope := 0, padMask := 0 } } :=
  congrArg Host.Outcome.next (if_pos ⟨rfl, hup, by decide⟩)

end

/-- Settles O53: the newest whole debug record is the one just written, as its sequence number passes every other. -/
theorem identityAndDebug : Obligations.IdentityAndDebug := by
  unfold Obligations.IdentityAndDebug
  intro s
  exact ⟨genIdentity_writes,
    fun certs hup hl => ⟨storeCerts_starts hup hl, storeCerts_busy hup hl, storeCerts_refused hup hl⟩,
    fun fn v hup => ⟨certSel_set hup, certs_unheard hup⟩,
    fun fn hup hp => certData_reads hup hp,
    fun i hporst hawake hcalm => i3cIdentity_reads i hporst hawake hcalm,
    fun tok hup hb => ⟨fun hok => ⟨_, dbgToken_opens hup hb hok, opensSession_open s tok⟩, dbgToken_refused⟩,
    fun tok hok hl => scope_of_debugTokenOk hok hl,
    debugClose_ends⟩

end Sys2Proof.Identity
end

section
/-! SUPPORT. Bits cleared and counted; draws and seeds of the random source (R302 to R326). -/

namespace Sys2Proof.Random

open Sys2Proof Sys2Proof.Machine Sys2Proof.Claims Sys2Proof.Frames Sys2Proof.Compare

/-! ## Bits -/

theorem testBit_clearBit (v i j : Nat) : (clearBit v i).testBit j = (v.testBit j && decide (j ≠ i)) := by
  unfold clearBit
  split
  case isFalse hi =>
    by_cases hj : j = i
    · subst hj
      simpa using hi
    · simp [hj]
  case isTrue hi =>
    have hodd : v / 2 ^ i % 2 = 1 := by
      rw [Nat.testBit_eq_decide_div_mod_eq] at hi
      exact of_decide_eq_true hi
    have hr : v % 2 ^ i < 2 ^ i := Nat.mod_lt _ (Nat.two_pow_pos i)
    have hv : v = 2 ^ i * (2 * (v / 2 ^ i / 2) + 1) + v % 2 ^ i := by
      conv => lhs; rw [← Nat.div_add_mod v (2 ^ i)]
      congr 2
      omega
    have hclear : v - 2 ^ i = 2 ^ i * (2 * (v / 2 ^ i / 2)) + v % 2 ^ i := by
      have hsplit : 2 ^ i * (2 * (v / 2 ^ i / 2) + 1) = 2 ^ i * (2 * (v / 2 ^ i / 2)) + 2 ^ i := Nat.mul_succ ..
      omega
    rw [hclear]
    generalize v % 2 ^ i = r at hv hr
    generalize v / 2 ^ i / 2 = m at hv
    subst hv
    rw [Nat.testBit_two_pow_mul_add _ hr, Nat.testBit_two_pow_mul_add _ hr]
    rcases Nat.lt_trichotomy j i with hj | rfl | hj
    · simp [hj, Nat.ne_of_lt hj]
    · simp
    · obtain ⟨k, rfl⟩ := Nat.exists_eq_add_of_lt hj
      have hk : i + k + 1 - i = k + 1 := by omega
      have hdiv : (2 * m + 1) / 2 = m := by omega
      rw [if_neg (by omega), if_neg (by omega), hk, Nat.testBit_succ, Nat.testBit_succ, hdiv]
      have hne : i + k + 1 ≠ i := by omega
      simp [hne]

theorem hasBit_clearBit (v i : Nat) : hasBit (clearBit v i) i = false := by simp [hasBit, testBit_clearBit]

theorem countBits_le_clearBit (v i : Nat) (n : Nat) : countBits v n ≤ countBits (clearBit v i) n + 1 ∧ (n ≤ i → countBits v n = countBits (clearBit v i) n) := by
  induction n with
  | zero => exact ⟨Nat.zero_le _, fun _ => rfl⟩
  | succ n ih =>
    obtain ⟨hle, heq⟩ := ih
    have hbit := testBit_clearBit v i n
    by_cases hn : n = i
    · subst hn
      have hbelow := heq (Nat.le_refl _)
      refine ⟨?_, fun h => by omega⟩
      simp only [countBits, ← hbelow]
      split <;> omega
    · have hsame : (clearBit v i).testBit n = v.testBit n := by simp [hbit, hn]
      refine ⟨?_, fun h => ?_⟩
      · simp only [countBits, hsame]
        omega
      · simp only [countBits, hsame, heq (Nat.le_of_succ_le h)]

theorem groupCount_clearBit {m g : Nat} (h : 8 < groupCount m) : 8 ≤ groupCount (clearBit m g) := by
  have hle := (countBits_le_clearBit m g 16).1
  unfold groupCount at h ⊢
  omega

/-! ## A seeded generator stays seeded -/

section
variable {s t u : State} {p : Nat}

/-- No paddock's generator stops being seeded. -/
def Seeded (s t : State) : Prop := ∀ p, (padAt s p).drbg.live = true → (padAt t p).drbg.live = true

theorem Seeded.refl (s : State) : Seeded s s := fun _ h => h

theorem Seeded.trans (h : Seeded s t) (g : Seeded t u) : Seeded s u := fun p hp => g p (h p hp)

theorem Seeded.of_pads (h : t.pads = s.pads) : Seeded s t := fun p hp => by rwa [padAt, h]

theorem Seeded.of_only {l : List Part} (h : Only l s t) (hl : Part.pad .drbg ∉ l) : Seeded s t := fun p hp => by rwa [h.same (.pad .drbg) hl p]

theorem Seeded.foldl {α : Type} {f : State → α → State} (hf : ∀ t x, Seeded t (f t x)) (l : List α) (s : State) : Seeded s (l.foldl f s) := by
  induction l generalizing s with
  | nil => exact .refl s
  | cons x l ih => exact (hf s x).trans (ih _)

theorem Seeded.modPad {g : Pad → Pad} (hg : ∀ x : Pad, x.drbg.live = true → (g x).drbg.live = true) (s : State) (p : Nat) : Seeded s (modPad s p g) :=
  fun q hq => by
    by_cases h : q = p
    · subst h
      rw [padAt_modPad_self]
      exact hg _ hq
    · rwa [padAt_modPad_other h]

theorem live_seedPad (s : State) (p : Nat) : (padAt (seedPad s p) p).drbg.live = true := by
  unfold seedPad
  rw [padAt_modPad_self]
  rfl

theorem seedPad_seeded (s : State) (p : Nat) : Seeded s (seedPad s p) :=
  Seeded.trans (.of_only (conditioned_only s) (by decide +kernel)) <| Seeded.trans (.of_only (conditioned_only (conditioned s).2) (by decide +kernel)) <|
    Seeded.modPad (g := fun x => { x with drbg := seeded s p x.drbg (seedMaterial s).1, resetSeed := false }) (fun _ _ => rfl) (seedMaterial s).2 p

theorem live_ctrUpdate (x : Drbg) (v : Nat) (d : Bytes) : (ctrUpdate x v d).live = x.live := by unfold ctrUpdate; rfl

theorem afterRequest_seeded (s : State) (p n : Nat) : Seeded s (afterRequest s p n) := by
  unfold afterRequest
  refine Seeded.modPad (fun x h => ?_) s p
  simp only [live_ctrUpdate]
  exact h

theorem drawNow_seeded (s : State) (p : Nat) : Seeded s (drawNow s p) := by
  unfold drawNow
  split
  · exact (seedPad_seeded s p).trans (Seeded.modPad (g := fun x => { x with genDue := true }) (fun _ h => h) _ p)
  next g _ =>
    refine ((seedPad_seeded s p).trans (afterRequest_seeded _ p 32)).trans ?_
    refine Seeded.trans (Seeded.modPad (g := fun x => { x with
      genDue := false, curGen := some g
      caps := smSet {} x.caps g { drawn := true, key := generated (seedPad s p) p 32, served := 0, drawnAt := s.time } }) (fun _ h => h) _ p) ?_
    exact Seeded.trans (.of_only (journalWrite_only _) (by decide +kernel)) (.of_only (recheck_only ..) (by decide +kernel))

theorem serveOne_seeded (s : State) (r : Nat) : Seeded s (serveOne s r) := by
  unfold serveOne
  split
  · exact (seedPad_seeded s r).trans (.of_only (recheck_only ..) (by decide +kernel))
  split
  · exact .of_only (seedYm_only s) (by decide +kernel)
  split
  · exact drawNow_seeded s (r - 256)
  split
  · exact .of_pads (s := s) rfl
  · exact .refl s

theorem serveStore_seeded (n : Nat) (s : State) : Seeded s (serveStore n s) := by
  induction n generalizing s with
  | zero => exact .refl s
  | succ n ih =>
    rw [serveStore]
    split
    · exact .refl s
    next r l _ =>
      split
      · refine Seeded.trans ?_ (ih _)
        have hone := serveOne_seeded { s with rng := { s.rng with waiting := l, store := s.rng.store - blocksFor r } } r
        exact Seeded.trans (.of_pads rfl) hone
      · exact .refl s

/-! ## The store serves at once -/

/-- The store with the blocks of request `r` taken out. -/
def taken (s : State) (r : Nat) : State := { s with rng := { s.rng with waiting := [], store := s.rng.store - blocksFor r } }

theorem serveStore_nil (n : Nat) (h : s.rng.waiting = []) : serveStore n s = s := by
  cases n with
  | zero => rfl
  | succ n =>
    rw [serveStore, h]

/-- With no one waiting a request takes its blocks and is served. -/
theorem request_served {r : Nat} (hserves : sourceServes s = true) (hw : s.rng.waiting = []) (hstore : blocksFor r ≤ s.rng.store)
    (hdone : (serveOne (taken s r) r).rng.waiting = []) : request s r = serveOne (taken s r) r := by
  have hwait : s.rng.waiting.contains r = false := by simp [hw]
  have hcond : (sourceServes { s with rng := { s.rng with waiting := s.rng.waiting ++ [r] } } && decide (blocksFor r ≤ s.rng.store)) = true :=
    Bool.and_eq_true_iff.mpr ⟨hserves, decide_eq_true hstore⟩
  unfold request
  rw [if_neg (by simp [hw]), serveStore]
  simp only [hw, List.nil_append] at hcond ⊢
  rw [if_pos hcond]
  exact serveStore_nil _ hdone

theorem waiting_serveOne (s : State) (r : Nat) : (serveOne s r).rng.waiting = s.rng.waiting := (serveOne_only s r).same (.rng .waiting) (by decide +kernel)

theorem request_serves {r : Nat} (hserves : sourceServes s = true) (hw : s.rng.waiting = []) (hstore : blocksFor r ≤ s.rng.store) :
    request s r = serveOne (taken s r) r := request_served hserves hw hstore ((waiting_serveOne (taken s r) r).trans rfl)

end

end Sys2Proof.Random
end

section
/-! PROOF. The random source (R302 to R326; O54). -/

namespace Sys2Proof.Random

open Sys2Proof Sys2Proof.Machine Sys2Proof.Claims Sys2Proof.Frames Sys2Proof.Holding Sys2Proof.PadReset Sys2Proof.Reports Sys2Proof.BootWaits Sys2Proof.FirstBoot Sys2Proof.Transitions

section
variable {s t : State} {p g passed : Nat} {kat apt : Bool}

/-! ## Start-up tests -/

/-- The groups that passed and are not retired. -/
def passing (s : State) (passed : Nat) : Nat := passed &&& (0xFFFF ^^^ s.rng.retired)

theorem endStartup_settles (hp : startupPending s = true) (hw : s.sys.wait ≠ .random) : endStartup s passed kat = settle (runStartup s passed kat) := by
  have hwait : (runStartup s passed kat).sys.wait = s.sys.wait := (runStartup_only ..).same (.sys .wait) (by decide +kernel)
  unfold endStartup
  rw [if_neg (by simp [hp])]
  dsimp only
  rw [if_neg]
  rintro ⟨h, -⟩
  exact hw (hwait.symm.trans h)

theorem startupPasses_iff : startupPasses s passed kat = true ↔ kat = true ∧ 8 ≤ groupCount (passing s passed) := by
  simp [startupPasses, passing]

theorem runStartup_ready (hk : kat = true) (hg : 8 ≤ groupCount (passing s passed)) : runStartup s passed kat = sourceReady s passed :=
  if_pos (startupPasses_iff.mpr ⟨hk, hg⟩)

/-- The source's own registers once its tests have passed. -/
def readyRng (s : State) (passed : Nat) : State :=
  { s with rng := { s.rng with
      healthy := passing s passed, isolated := 0xFFFF ^^^ passing s passed ^^^ (s.rng.retired % 2 ^ 16), ready := true
      stopped := false, katOk := true, attempts := 0, restarting := false } }

theorem sourceReady_eq (s : State) (passed : Nat) : sourceReady s passed =
    serveStore (recheck (causeEnds (reseedAll (readyRng s passed)) 0x0D0 0x17) [3]).rng.waiting.length
      (recheck (causeEnds (reseedAll (readyRng s passed)) 0x0D0 0x17) [3]) := rfl

/-- Readiness seeds the instances and ends the fault, and changes no more of the source than its store. -/
theorem sourceReady_from (s : State) (passed : Nat) : Only (Part.request ++ [.fc .out]) (readyRng s passed) (sourceReady s passed) := by
  rw [sourceReady_eq]
  refine Only.then (serveStore_only ..) (by decide +kernel) ?_
  refine Only.then (recheck_only ..) (by decide +kernel) ?_
  refine Only.then (causeEnds_only ..) (by decide +kernel) ?_
  exact (reseedAll_only _).mono (by decide +kernel)

theorem live_reseedAll (h : p ∈ padsPresent s) : (padAt (reseedAll s) p).drbg.live = true := by
  have hpads : (padAt ((padsPresent s).foldl seedPad s) p).drbg.live = true :=
    foldl_reaches (f := seedPad) (I := fun _ => True) (P := fun t => (padAt t p).drbg.live = true) h (fun _ _ _ _ => trivial)
      (fun t x _ hl => seedPad_seeded t x p hl) (fun t _ => live_seedPad t p) trivial
  exact (Seeded.of_only (seedYm_only _) (by decide +kernel)) p hpads

theorem live_sourceReady (hp : p < 32) (hpres : padPresent s p = true) : (padAt (sourceReady s passed) p).drbg.live = true := by
  have hmem : p ∈ padsPresent (readyRng s passed) := List.mem_filter.mpr ⟨List.mem_range.mpr hp, hpres⟩
  have hlive := live_reseedAll hmem
  rw [sourceReady_eq]
  refine serveStore_seeded _ _ p ?_
  refine Seeded.of_only (recheck_only ..) (by decide +kernel) p ?_
  exact Seeded.of_only (causeEnds_only ..) (by decide +kernel) p hlive

theorem sourceReady_settled (hdue : NothingDue s) (ht : t = settle (sourceReady s passed)) : t.rng.ready = true ∧ t.rng.healthy = passing s passed ∧
    t.rng.attempts = 0 ∧ t.rng.stopped = false ∧ ∀ p < 32, padPresent s p = true → (padAt t p).drbg.live = true := by
  have hfrom := sourceReady_from s passed
  have hdue' : NothingDue (sourceReady s passed) := nothingDue_of_only (s := readyRng s passed) hdue hfrom (by decide +kernel) (by decide +kernel)
  have hs := settle_only_of_nothingDue hdue'
  rw [← ht] at hs
  have hrng : t.rng = (sourceReady s passed).rng := rng_of_only hs (by decide +kernel)
  rw [hrng]
  exact ⟨ready_sourceReady s passed, hfrom.same (.rng .healthy) (by decide +kernel), hfrom.same (.rng .attempts) (by decide +kernel),
    hfrom.same (.rng .stopped) (by decide +kernel), fun p hp hpres => Seeded.of_only hs (by decide +kernel) p (live_sourceReady hp hpres)⟩

theorem startup_not_passed (h : kat = false ∨ groupCount (passing s passed) < 8) : startupPasses s passed kat ≠ true := fun hp => by
  obtain ⟨hk, hg⟩ := startupPasses_iff.mp hp
  rcases h with h | h
  · rw [h] at hk
    exact Bool.false_ne_true hk
  · omega

theorem runStartup_restarting (h : kat = false ∨ groupCount (passing s passed) < 8) (hr : s.rng.restarting = true) :
    runStartup s passed kat = { s with rng := { s.rng with katOk := kat, restarting := false, cmdErr := 3 } } :=
  (if_neg (startup_not_passed h)).trans (if_pos hr)

/-- The tests failed once more. -/
def failedAgain (s : State) (kat : Bool) : State := { s with rng := { s.rng with katOk := kat, attempts := s.rng.attempts + 1 } }

theorem runStartup_fails (h : kat = false ∨ groupCount (passing s passed) < 8) (hr : s.rng.restarting = false) :
    runStartup s passed kat = if 3 ≤ s.rng.attempts + 1 then stopSource (failedAgain s kat) else failedAgain s kat :=
  (if_neg (startup_not_passed h)).trans (if_neg (by simp [hr]))

theorem pending_not_ready (h : startupPending s = true) : s.rng.ready = false := by
  unfold startupPending at h
  cases hr : s.rng.ready
  · rfl
  · simp [hr] at h

theorem failedAgain_settled (hdue : NothingDue s) (hready : s.rng.ready = false) (ht : t = settle (failedAgain s kat)) :
    t.rng.attempts = s.rng.attempts + 1 ∧ t.rng.ready = false ∧ t.rng.stopped = s.rng.stopped := by
  have hs := settle_only_of_nothingDue (s := failedAgain s kat) hdue
  rw [← ht] at hs
  exact ⟨hs.same (.rng .attempts) (by decide +kernel), (hs.same (.rng .ready) (by decide +kernel)).trans hready, hs.same (.rng .stopped) (by decide +kernel)⟩

/-- A source that stops, its waiting stalls on their ratchets. -/
def sourceOff (s : State) : State :=
  (s.rng.waiting.filter fun r => decide (512 ≤ r) && decide (r < 1024)).foldl (fun t r => seedStall t (r - 512))
    { s with rng := { s.rng with ready := false, stopped := true, waiting := [], attempts := 0, restarting := false } }

theorem stopSource_eq (s : State) : stopSource s = recheck (raiseEach (report (sourceOff s) 0x0D0 0x17 false 0 0) 19) [3] := rfl

theorem sourceOff_only (s : State) : Only (Part.request ++ [.stall .ratchetCount, .rng .ready, .rng .stopped, .rng .attempts, .rng .restarting]) s (sourceOff s) := by
  unfold sourceOff
  refine Only.foldl _ (fun t r => (seedStall_only t (r - 512)).mono (by decide +kernel)) ?_
  exact put_rng (Rng.set_ready_stopped_attempts_waiting_restarting (by decide +kernel) (RngReg.refl _ _)) (Only.refl _ _)

theorem sourceOff_off (s : State) : (sourceOff s).rng.stopped = true ∧ (sourceOff s).rng.ready = false := by
  have ho : Only (Part.request ++ [.stall .ratchetCount]) { s with rng := { s.rng with ready := false, stopped := true, waiting := [], attempts := 0, restarting := false } }
      (sourceOff s) := Only.foldl _ (fun t r => seedStall_only t (r - 512)) (Only.refl _ _)
  exact ⟨ho.same (.rng .stopped) (by decide +kernel), ho.same (.rng .ready) (by decide +kernel)⟩

theorem stopSource_settled (hclear : FaultsClear s) (ht : t = settle (stopSource s)) : t.rng.stopped = true ∧ t.rng.ready = false ∧
    (findOut t.fc 0x0D0 0x17).isSome = true := by
  obtain ⟨hstopped, hready⟩ := sourceOff_off s
  have hfc : (sourceOff s).fc = s.fc := fc_of_only (sourceOff_only s) (by decide +kernel)
  have hclear' : FaultsClear (sourceOff s) := by
    unfold FaultsClear
    rwa [hfc]
  have hreport := report_only (sourceOff s) 0x0D0 0x17 false 0 0
  have hfind : findOut (report (sourceOff s) 0x0D0 0x17 false 0 0).fc 0x0D0 0x17 = some 0 := report_findOut (by decide) hclear'.1
  have hdue : NothingDue (report (sourceOff s) 0x0D0 0x17 false 0 0) := report_nothingDue (by decide) hclear' (.of_none (by decide))
  rw [stopSource_eq] at ht
  have hrest : Only (Part.allQueue ++ [.sys .wakeDriven, .port .linkState, .fn .pmeStatus, .fn .vecs, .out]) (report (sourceOff s) 0x0D0 0x17 false 0 0)
      (recheck (raiseEach (report (sourceOff s) 0x0D0 0x17 false 0 0) 19) [3]) :=
    Only.then (recheck_only ..) (by decide +kernel) ((raiseEach_only ..).mono (by decide +kernel))
  have hs := settle_only_of_nothingDue (nothingDue_of_only hdue hrest (by decide +kernel) (by decide +kernel))
  rw [← ht] at hs
  have hout : Only (Part.allQueue ++ [.sys .wakeDriven, .port .linkState, .fn .pmeStatus, .fn .vecs, .pad .replayOwed, .out])
      (report (sourceOff s) 0x0D0 0x17 false 0 0) t := Only.then hs (by decide +kernel) (hrest.mono (by decide +kernel))
  refine ⟨((hout.same (.rng .stopped) (by decide +kernel)).trans (hreport.same (.rng .stopped) (by decide +kernel))).trans hstopped,
    ((hout.same (.rng .ready) (by decide +kernel)).trans (hreport.same (.rng .ready) (by decide +kernel))).trans hready, ?_⟩
  rw [fc_of_only hout (by decide +kernel), hfind]
  rfl

/-- What either command that ends a start-up test does. -/
theorem startup_ends {c : Instr} (hpend : startupPending s = true) (hdue : NothingDue s) (hw : s.sys.wait ≠ .random)
    (hexec : exec c s = .next (endStartup s passed kat)) :
    (kat = true → 8 ≤ groupCount (passing s passed) → ∃ t, exec c s = .next t ∧ t.rng.ready = true ∧ t.rng.healthy = passing s passed ∧ t.rng.attempts = 0 ∧
      t.rng.stopped = false ∧ ∀ p < 32, padPresent s p = true → (padAt t p).drbg.live = true) ∧
    (kat = false ∨ groupCount (passing s passed) < 8 → s.rng.restarting = true →
      exec c s = .next (settle { s with rng := { s.rng with katOk := kat, restarting := false, cmdErr := 3 } })) ∧
    (kat = false ∨ groupCount (passing s passed) < 8 → s.rng.restarting = false → s.rng.attempts < 2 → ∃ t, exec c s = .next t ∧
      t.rng.attempts = s.rng.attempts + 1 ∧ t.rng.ready = false ∧ t.rng.stopped = s.rng.stopped) ∧
    (kat = false ∨ groupCount (passing s passed) < 8 → s.rng.restarting = false → 2 ≤ s.rng.attempts → FaultsClear s → ∃ t, exec c s = .next t ∧
      t.rng.stopped = true ∧ t.rng.ready = false ∧ (findOut t.fc 0x0D0 0x17).isSome = true) := by
  rw [endStartup_settles hpend hw] at hexec
  refine ⟨fun hk hg => ?_, fun h hr => ?_, fun h hr ha => ?_, fun h hr ha hclear => ?_⟩
  · rw [runStartup_ready hk hg] at hexec
    exact ⟨_, hexec, sourceReady_settled hdue rfl⟩
  · rw [hexec, runStartup_restarting h hr]
  · rw [runStartup_fails h hr, if_neg (by omega)] at hexec
    exact ⟨_, hexec, failedAgain_settled hdue (pending_not_ready hpend) rfl⟩
  · rw [runStartup_fails h hr, if_pos (by omega)] at hexec
    exact ⟨_, hexec, stopSource_settled (s := failedAgain s kat) hclear rfl⟩

/-! ## Health groups -/

/-- A failed test counted. -/
def healthCounted (s : State) (apt : Bool) : State :=
  { s with rng := if apt then { s.rng with apt := satAdd 0xFFFF s.rng.apt 1 } else { s.rng with rct := satAdd 0xFFFF s.rng.rct 1 } }

theorem healthCounted_same (s : State) (apt : Bool) : (healthCounted s apt).rng.ready = s.rng.ready ∧ (healthCounted s apt).rng.healthy = s.rng.healthy ∧
    (healthCounted s apt).rng.isolated = s.rng.isolated := by cases apt <;> exact ⟨rfl, rfl, rfl⟩

theorem healthFail_counts (hg : g < 16) (hruns : rngRuns s = true) (hret : hasBit s.rng.retired g = false) :
    exec (.rngHealthFail g apt) s = .next (if s.rng.ready && hasBit s.rng.healthy g then settle (raiseFault (healthCounted s apt) (0xC0 + g) 0x16 false 0 g)
      else healthCounted s apt) := by
  obtain ⟨hready, hhealthy, -⟩ := healthCounted_same s apt
  rw [← hready, ← hhealthy]
  exact congrArg Host.Outcome.next (if_neg (by simp [hruns, hret, Nat.not_le.mpr hg]))

/-- A group taken out of the mix, before the source stops for want of groups. -/
def groupOut (s : State) (g : Nat) : State :=
  { discardBlocks s with rng := { (discardBlocks s).rng with
      healthy := clearBit (discardBlocks s).rng.healthy g, isolated := setBit (discardBlocks s).rng.isolated g } }

theorem isolateGroup_enough (hready : s.rng.ready = true) (hg : hasBit s.rng.healthy g = true) (henough : 8 < healthyGroups s) :
    isolateGroup s g = groupOut s g := by
  have hhealthy : (discardBlocks s).rng.healthy = s.rng.healthy := (discardBlocks_only s).same (.rng .healthy) (by decide +kernel)
  have hleft : 8 ≤ healthyGroups (groupOut s g) := by
    show 8 ≤ groupCount (clearBit (discardBlocks s).rng.healthy g)
    rw [hhealthy]
    exact groupCount_clearBit henough
  refine (if_neg (by simp [hready, hg])).trans ?_
  refine if_neg fun h => ?_
  exact absurd (of_decide_eq_true (Bool.and_eq_true_iff.mp h).2) (Nat.not_lt.mpr hleft)

theorem groupOut_out (s : State) (g : Nat) : hasBit (groupOut s g).rng.healthy g = false ∧ hasBit (groupOut s g).rng.isolated g = true ∧
    (groupOut s g).rng.ready = s.rng.ready ∧ (groupOut s g).rng.apt = s.rng.apt ∧ (groupOut s g).rng.rct = s.rng.rct := by
  have h := discardBlocks_only s
  exact ⟨hasBit_clearBit .., hasBit_setBit .., h.same (.rng .ready) (by decide +kernel), h.same (.rng .apt) (by decide +kernel), h.same (.rng .rct) (by decide +kernel)⟩

theorem raiseFault_health (hg : g < 16) : raiseFault s (0xC0 + g) 0x16 false 0 g = isolateGroup (report s (0xC0 + g) 0x16 false 0 g) g := by
  have hrow : (rowSource (0xC0 + g) && (0x16 == 0x02 || 0x16 == 0x03)) = false := Bool.and_false _
  have hnum : 0xC0 + g - 0xC0 = g := Nat.add_sub_cancel_left ..
  refine (if_neg (by omega)).trans ((if_neg (by rw [hrow]; exact Bool.false_ne_true)).trans ((if_pos ⟨by omega, by omega⟩).trans ?_))
  rw [hnum]

theorem belowBucket_health (hg : g < 16) (h : smGet 0 s.fc.buckets (0xC0 + g) < 2) : BelowBucket s (0xC0 + g) 0x16 g := by
  have hkey : bucketKey (0xC0 + g) g = 0xC0 + g := by
    have hrow : rowSource (0xC0 + g) = false := by
      simp only [rowSource, List.mem_cons, List.not_mem_nil, or_false, Bool.or_eq_false_iff, decide_eq_false_iff_not, Bool.and_eq_false_iff]
      omega
    exact if_neg (by simp [hrow])
  have hrule : bucketRule (0xC0 + g) 0x16 = some 3 := by
    simp only [bucketRule, List.mem_cons, List.not_mem_nil, or_false]
    rw [if_neg (by omega), if_neg (by omega), if_neg (by omega), if_neg (by omega), if_pos (by omega)]
    rfl
  intro lim hlim
  obtain rfl := Option.some.inj (hrule.symm.trans hlim)
  rw [hkey]
  have hcls : (faultClass 0x16 == 0) = true := by decide
  rw [if_pos hcls]
  omega

/-- The failure reported, before its group is taken out. -/
theorem report_health (hcalm : NothingDue s) (hb : BelowBucket s (0xC0 + g) 0x16 g) : NothingDue (report s (0xC0 + g) 0x16 false 0 g) ∧
    (report s (0xC0 + g) 0x16 false 0 g).rng = s.rng := by
  obtain ⟨hesc, hretire⟩ := hcalm
  rw [report_corrected (by decide) (by decide)]
  exact ⟨⟨counted_same.2.1.trans hesc, (retireNow_counted hb).trans hretire⟩, rfl⟩

theorem groupOut_only (s : State) (g : Nat) : Only [.rng .discarded, .rng .healthy, .rng .isolated, .freeCtr] s (groupOut s g) :=
  put_rng (Rng.set_healthy_isolated (by decide +kernel) (RngReg.refl _ _)) ((discardBlocks_only s).mono (by decide +kernel))

theorem healthFail_isolates (hg : g < 16) (hruns : rngRuns s = true) (hret : hasBit s.rng.retired g = false) (hready : s.rng.ready = true)
    (hhealthy : hasBit s.rng.healthy g = true) (hcalm : Calm s) (hb : smGet 0 s.fc.buckets (0xC0 + g) < 2) (henough : 8 < healthyGroups s) :
    ∃ t, exec (.rngHealthFail g apt) s = .next t ∧ hasBit t.rng.healthy g = false ∧ hasBit t.rng.isolated g = true ∧ t.rng.ready = true ∧
      t.rng.apt = (healthCounted s apt).rng.apt ∧ t.rng.rct = (healthCounted s apt).rng.rct := by
  have hexec := healthFail_counts (apt := apt) hg hruns hret
  rw [if_pos (by simp [hready, hhealthy]), raiseFault_health hg] at hexec
  obtain ⟨hready', hhealthy', -⟩ := healthCounted_same s apt
  obtain ⟨hdue, hrng⟩ := report_health (s := healthCounted s apt) hcalm.1 (belowBucket_health (s := healthCounted s apt) hg hb)
  generalize report (healthCounted s apt) (0xC0 + g) 0x16 false 0 g = u at hexec hdue hrng
  have hgroups : 8 < healthyGroups u := by rwa [healthyGroups, hrng, hhealthy']
  rw [isolateGroup_enough (by rw [hrng, hready', hready]) (by rw [hrng, hhealthy', hhealthy]) hgroups] at hexec
  obtain ⟨hbit, hiso, hup, hapt, hrct⟩ := groupOut_out u g
  have hs := settle_only_of_nothingDue (nothingDue_of_only hdue (groupOut_only u g) (by decide +kernel) (by decide +kernel))
  have hsame : (settle (groupOut u g)).rng = (groupOut u g).rng := rng_of_only hs (by decide +kernel)
  refine ⟨_, hexec, ?_⟩
  rw [hsame, hup, hapt, hrct, hrng]
  exact ⟨hbit, hiso, hready'.trans hready, rfl, rfl⟩

theorem retest_ends (hruns : rngRuns s = true) (hraw : s.rng.rawMode = false) (hiso : hasBit s.rng.isolated g = true) (hret : hasBit s.rng.retired g = false) :
    exec (.rngRetest g true) s = .next { s with rng := { s.rng with isolated := clearBit s.rng.isolated g, healthy := setBit s.rng.healthy g } } ∧
      exec (.rngRetest g false) s = .next s :=
  ⟨congrArg Host.Outcome.next (if_pos (by simp [hruns, hraw, hiso, hret])), congrArg Host.Outcome.next (if_neg (by simp))⟩

/-! ## Blocks and reseeds -/

theorem blockRelease_stores {m : Nat} (hserves : sourceServes s = true) (hm : m &&& (0xFFFF ^^^ s.rng.healthy) = 0) (hw : s.rng.waiting = []) :
    exec (.rngBlockRelease m) s = .next { s with rng := { s.rng with store := min 64 (s.rng.store + 1) } } := by
  have hcond : (sourceServes s && decide (m &&& (0xFFFF ^^^ s.rng.healthy) = 0)) = true := Bool.and_eq_true_iff.mpr ⟨hserves, decide_eq_true hm⟩
  exact congrArg Host.Outcome.next ((if_pos hcond).trans (serveStore_nil (s := { s with rng := { s.rng with store := min 64 (s.rng.store + 1) } }) _ hw))

theorem exec_drbgReseed (hp : p < 32) (hlive : (padAt s p).drbg.live = true) : exec (.drbgReseed p) s = .next (reseedPad s p) :=
  congrArg Host.Outcome.next ((if_neg (by omega)).trans (if_pos hlive))

theorem drbg_seedPad (s : State) (p : Nat) : (padAt (seedPad s p) p).drbg = seeded s p (padAt s p).drbg (seedMaterial s).1 := by
  unfold seedPad
  rw [padAt_modPad_self]
  rfl

theorem drbgReseed_serves (hp : p < 32) (hlive : (padAt s p).drbg.live = true) (hserves : sourceServes s = true) (hstore : 2 ≤ s.rng.store)
    (hw : s.rng.waiting = []) : ∃ t, exec (.drbgReseed p) s = .next t ∧ (padAt t p).drbg = seeded s p (padAt s p).drbg (seedMaterial s).1 ∧
      t.rng.store = s.rng.store - 2 := by
  have hblocks : blocksFor p = 2 := if_pos (by omega)
  have hone : reseedPad s p = recheck (seedPad (taken s p) p) [3] := by
    refine (if_pos hserves).trans ((request_serves hserves hw (by omega)).trans ?_)
    exact if_pos hp
  have hre := recheck_only (seedPad (taken s p) p) [3]
  have hseed := seedPad_only (taken s p) p
  refine ⟨_, (exec_drbgReseed hp hlive).trans (congrArg _ hone), ?_, ?_⟩
  · rw [hre.same (.pad .drbg) (by decide +kernel) p, drbg_seedPad]
    rfl
  · rw [hre.same (.rng .store) (by decide +kernel), hseed.same (.rng .store) (by decide +kernel), ← hblocks]
    rfl

theorem drbgReseed_fails (hp : p < 32) (hlive : (padAt s p).drbg.live = true) (hserves : sourceServes s = false) :
    ∃ t, exec (.drbgReseed p) s = .next t ∧ (padAt t p).drbg = { (padAt s p).drbg with failed := true } := by
  refine ⟨_, (exec_drbgReseed hp hlive).trans (congrArg _ (if_neg (by simp [hserves]))), ?_⟩
  rw [padAt_modPad_self]

/-! ## RESTART and raw-sample mode -/

/-- Raw samples are taken from selection `sel` on. -/
theorem enterRaw_enters (s : State) (sel : Nat) : (enterRaw s sel).rng.rawMode = true ∧ (enterRaw s sel).rng.ready = false ∧ (enterRaw s sel).rng.sel = sel ∧
    (enterRaw s sel).rng.fifo = [] ∧ (enterRaw s sel).hl.auditLog.getLast? = some (s.time, 6, sel) ∧ (enterRaw s sel).dbg = s.dbg := by
  have hraw : enterRaw s sel = recheck (auditAdd { s with rng :=
      { s.rng with cmdErr := 0, rawMode := true, ready := false, sel := sel, fifo := [], rawFrom := s.time } } 6 sel) [3] := rfl
  have hlast := getLast_auditAdd { s with rng := { s.rng with cmdErr := 0, rawMode := true, ready := false, sel := sel, fifo := [], rawFrom := s.time } } 6 sel
  have haudit := auditAdd_only { s with rng := { s.rng with cmdErr := 0, rawMode := true, ready := false, sel := sel, fifo := [], rawFrom := s.time } } 6 sel
  rw [hraw]
  generalize auditAdd _ 6 sel = u at haudit hlast ⊢
  have hre := recheck_only u [3]
  rw [rng_of_only hre (by decide +kernel), hl_of_only hre (by decide +kernel), dbg_of_only hre (by decide +kernel)]
  rw [rng_of_only haudit (by decide +kernel), dbg_of_only haudit (by decide +kernel)]
  exact ⟨rfl, rfl, rfl, rfl, hlast, rfl⟩

section
variable {v : W64} {tok : Bytes} (hup : regsUp s 0 = true)
include hup

theorem rnUp_of_cmd {c : Nat} (h : bits v.toNat 0 4 = c) : rnUp s 0 v c = true := by
  have hcmd : (cmdOf v == c) = true := beq_iff_eq.mpr h
  unfold rnUp
  rw [hup, hcmd]
  rfl

theorem restart_raw (h : bits v.toNat 0 4 = 1) (hraw : s.rng.rawMode = true) : exec (.rngRestart 0 v) s = .next { s with rng := { s.rng with cmdErr := 1 } } :=
  congrArg Host.Outcome.next ((if_neg (by simp [rnUp_of_cmd hup h])).trans (if_pos hraw))

theorem restart_runs (h : bits v.toNat 0 4 = 1) (hraw : s.rng.rawMode = false) : exec (.rngRestart 0 v) s =
    .next { s with rng := { s.rng with cmdErr := 0, restarting := s.rng.stopped || s.rng.restarting } } := by
  refine congrArg Host.Outcome.next ((if_neg (by simp [rnUp_of_cmd hup h])).trans ((if_neg (by simp [hraw])).trans ?_))
  cases s.rng.stopped
  · rfl
  · rfl

section
variable (h : bits v.toNat 0 4 = 2) (hsel : bits v.toNat 4 5 ≤ 16) (hraw : s.rng.rawMode = false)
include h hsel hraw

theorem exec_rawEnter : exec (.rawEnter 0 v tok) s = .next (if s.lc.state = 1 ∨ s.lc.state = 4 then enterRaw s (bits v.toNat 4 5)
    else if s.lc.state = 3 then
      if rawAuthorised s tok then enterRaw { s with dbg := { s.dbg with challengeDraw := s.freeCtr }, freeCtr := s.freeCtr + 1 } (bits v.toNat 4 5)
      else rnErr s 2
    else rnErr s 1) := by
  refine congrArg Host.Outcome.next ((if_neg (by simp [rnUp_of_cmd hup h])).trans (if_neg ?_))
  simp [hraw, hsel]

theorem rawEnter_enters (hl : s.lc.state = 1 ∨ s.lc.state = 4 ∨ (s.lc.state = 3 ∧ rawAuthorised s tok = true)) :
    ∃ t, exec (.rawEnter 0 v tok) s = .next t ∧ t.rng.rawMode = true ∧ t.rng.ready = false ∧ t.rng.sel = bits v.toNat 4 5 ∧ t.rng.fifo = [] ∧
      t.hl.auditLog.getLast? = some (s.time, 6, bits v.toNat 4 5) ∧ (s.lc.state = 3 → t.dbg.challengeDraw = s.freeCtr) := by
  have hexec := exec_rawEnter (tok := tok) hup h hsel hraw
  by_cases hopen : s.lc.state = 1 ∨ s.lc.state = 4
  · rw [if_pos hopen] at hexec
    obtain ⟨h1, h2, h3, h4, h5, -⟩ := enterRaw_enters s (bits v.toNat 4 5)
    exact ⟨_, hexec, h1, h2, h3, h4, h5, fun h3 => by omega⟩
  · obtain ⟨h3, hauth⟩ : s.lc.state = 3 ∧ rawAuthorised s tok = true := by
      rcases hl with hl | hl | hl
      · exact absurd (Or.inl hl) hopen
      · exact absurd (Or.inr hl) hopen
      · exact hl
    rw [if_neg hopen, if_pos h3, if_pos hauth] at hexec
    obtain ⟨h1, h2, h3, h4, h5, h6⟩ :=
      enterRaw_enters { s with dbg := { s.dbg with challengeDraw := s.freeCtr }, freeCtr := s.freeCtr + 1 } (bits v.toNat 4 5)
    exact ⟨_, hexec, h1, h2, h3, h4, h5, fun _ => congrArg Debug.challengeDraw h6⟩

theorem rawEnter_unauthorised (hl : s.lc.state = 3) (hauth : rawAuthorised s tok = false) :
    exec (.rawEnter 0 v tok) s = .next { s with rng := { s.rng with cmdErr := 2 } } := by
  rw [exec_rawEnter hup h hsel hraw, if_neg (by omega), if_pos hl, if_neg (by simp [hauth])]
  rfl

theorem rawEnter_barred (hl : s.lc.state = 0 ∨ s.lc.state = 2) : exec (.rawEnter 0 v tok) s = .next { s with rng := { s.rng with cmdErr := 1 } } := by
  rw [exec_rawEnter hup h hsel hraw, if_neg (by omega), if_neg (by omega)]
  rfl

end

theorem rawExit_ends (h : bits v.toNat 0 4 = 3) (hraw : s.rng.rawMode = true) : ∃ t, exec (.rawExit 0 v) s = .next t ∧ t.rng.rawMode = false ∧
    t.rng.fifo = [] ∧ t.rng.ready = false ∧ t.rng.attempts = 0 ∧ t.rng.cmdErr = 0 := by
  have hend : endRaw (rnErr s 0) = { s with rng := { s.rng with cmdErr := 0, rawMode := false, fifo := [], ready := false, attempts := 0 } } :=
    if_neg (by simp [rnErr, hraw])
  have hexec : exec (.rawExit 0 v) s = .next (recheck (endRaw (rnErr s 0)) [3]) :=
    congrArg Host.Outcome.next ((if_neg (by simp [rnUp_of_cmd hup h])).trans (if_pos hraw))
  rw [hend] at hexec
  refine ⟨_, hexec, ?_⟩
  rw [rng_of_only (recheck_only ..) (by decide +kernel)]
  exact ⟨rfl, rfl, rfl, rfl, rfl⟩

end

/-! ## RN_WORD and RN_RAW_DATA -/

section
variable {fn : Nat}

theorem exec_rnWord (hat : HostAt s fn p) : exec (.rnWordRead fn) s = .next
    (if !drbgServes (if sourceServes s then dueReseed s p else s) p then reply (if sourceServes s then dueReseed s p else s) fn (zeros 8)
     else reply (afterRequest (if sourceServes s then dueReseed s p else s) p 7) fn (generated (if sourceServes s then dueReseed s p else s) p 7 ++ [0xA5#8])) := by
  obtain ⟨hup, hp⟩ := hat
  refine congrArg Host.Outcome.next ((if_neg (by simp [hup])).trans ?_)
  rw [hp]

theorem rnWord_served (hat : HostAt s fn p) (hserves : sourceServes s = true) (hd : drbgServes (dueReseed s p) p = true) :
    exec (.rnWordRead fn) s = .next (reply (afterRequest (dueReseed s p) p 7) fn
      ((ctrBlocks (aesKeys (padAt (dueReseed s p) p).drbg.key) 1 (beNat (padAt (dueReseed s p) p).drbg.v)).take 7 ++ [0xA5#8])) := by
  rw [exec_rnWord hat, if_pos hserves, hd, if_neg (by simp)]
  rfl

theorem rnWord_barred (hat : HostAt s fn p) (hserves : sourceServes s = true) (hd : drbgServes (dueReseed s p) p = false) :
    exec (.rnWordRead fn) s = .next (reply (dueReseed s p) fn (zeros 8)) := by
  rw [exec_rnWord hat, if_pos hserves, hd, if_pos (by simp)]

theorem rnWord_stopped (hat : HostAt s fn p) (hserves : sourceServes s = false) : exec (.rnWordRead fn) s = .next (reply s fn (zeros 8)) := by
  have hd : drbgServes s p = false := by
    unfold drbgServes
    rw [hserves]
    rfl
  rw [exec_rnWord hat, hserves, if_neg Bool.false_ne_true, hd, if_pos (by simp)]

theorem rawData_reads {w : BitVec 64} {r : List (BitVec 64)} (hup : regsUp s fn = true) (h0 : fn = 0) (hraw : s.rng.rawMode = true) (hf : s.rng.fifo = w :: r) :
    exec (.rnRawDataRead fn) s = .next (reply { s with rng := { s.rng with fifo := r } } fn (leBytes 8 w.toNat)) := by
  refine congrArg Host.Outcome.next ((if_neg (by simp [hup])).trans ?_)
  rw [if_pos ⟨h0, hraw⟩, hf]

theorem rawData_empty (hup : regsUp s fn = true) (h : fn ≠ 0 ∨ s.rng.rawMode = false ∨ s.rng.fifo = []) :
    exec (.rnRawDataRead fn) s = .next (reply s fn (zeros 8)) := by
  have hnone : (if fn = 0 ∧ s.rng.rawMode = true then s.rng.fifo else []) = [] := by
    rcases h with h | h | h <;> simp [h]
  refine congrArg Host.Outcome.next ((if_neg (by simp [hup])).trans ?_)
  rw [hnone]

end

end

/-- Settles O54: with no one waiting a block taken is served at once, and one group of more than eight may go before the source stops. -/
theorem randomSource : Obligations.RandomSource := by
  unfold Obligations.RandomSource
  intro s
  refine ⟨fun passed kat hpend hdue hw c hc hretry => startup_ends hpend hdue hw ?_,
    fun g apt hg hruns hret => ⟨fun h => ?_, fun hready hhealthy hcalm hb henough => ?_⟩,
    fun g _ hruns hraw hiso hret => retest_ends hruns hraw hiso hret,
    fun m hserves hm hw => blockRelease_stores hserves hm hw,
    fun p hp hlive => ⟨drbgReseed_serves hp hlive, drbgReseed_fails hp hlive⟩,
    fun v hup => ⟨restart_raw hup, restart_runs hup,
      fun tok h hsel hraw => ⟨rawEnter_enters hup h hsel hraw, rawEnter_unauthorised hup h hsel hraw, rawEnter_barred hup h hsel hraw⟩, rawExit_ends hup⟩,
    fun fn p hat => ⟨fun hserves => ⟨rnWord_served hat hserves, rnWord_barred hat hserves⟩, rnWord_stopped hat⟩,
    fun fn hup => ⟨fun w r => rawData_reads hup, rawData_empty hup⟩⟩
  · rcases List.mem_cons.mp hc with rfl | hc
    · rfl
    · obtain rfl := List.mem_singleton.mp hc
      exact congrArg Host.Outcome.next (if_neg (hretry rfl))
  · rw [healthFail_counts hg hruns hret, if_neg]
    · rfl
    · rcases h with h | h <;> simp [h]
  · obtain ⟨t, hexec, hbit, hiso, hup, hapt, hrct⟩ := healthFail_isolates (apt := apt) hg hruns hret hready hhealthy hcalm hb henough
    refine ⟨t, hexec, hbit, hiso, hup, fun h => ?_, fun h => ?_⟩
    · rw [hapt, h]
      rfl
    · rw [hrct, h]
      rfl

end Sys2Proof.Random
end

section
/-! SUPPORT. What an alarm stops and erases (R434 to R439, Table 19.6). -/

namespace Sys2Proof.Alarm

open Sys2Proof Sys2Proof.Machine Sys2Proof.Claims Sys2Proof.Frames Sys2Proof.Holding Sys2Proof.PadReset Sys2Proof.Compare

section
variable {s t u : State} {n p q : Nat}

/-! ## Events leave the cores alone -/

theorem cores_dueVec (s : State) (n v : Nat) : (dueVec s n v).cores = s.cores := by
  unfold dueVec
  dsimp only
  split
  · rfl
  split
  · rfl
  split
  · rfl
  · rfl

theorem cores_dueWake (s : State) (n v : Nat) : (dueWake s n v).cores = s.cores := by
  unfold dueWake
  dsimp only
  split
  · rfl
  split
  · split
    · rfl
    · rfl
  split
  · rfl
  · rfl

theorem cores_addCause (s : State) (n v : Nat) : (addCause s n v).cores = s.cores := by
  unfold addCause
  dsimp only
  split
  · exact cores_dueVec ..
  · rfl

theorem cores_addWake (s : State) (n v : Nat) (event : Bool) : (addWake s n v event).cores = s.cores := by
  unfold addWake
  split
  · rfl
  dsimp only
  split
  · exact cores_dueWake ..
  · rfl

theorem cores_raiseOn (s : State) (e n : Nat) : (raiseOn s e n).cores = s.cores := by
  unfold raiseOn
  dsimp only
  split
  · rfl
  split
  · exact (cores_addWake ..).trans (cores_addCause ..)
  · exact cores_addCause ..

theorem cores_foldl {α : Type} {f : State → α → State} (hf : ∀ t x, (f t x).cores = t.cores) (l : List α) (s : State) : (l.foldl f s).cores = s.cores := by
  induction l generalizing s with
  | nil => rfl
  | cons x l ih => exact (ih _).trans (hf s x)

theorem cores_raisePad (s : State) (e p : Nat) : (raisePad s e p).cores = s.cores := cores_foldl (fun t n => cores_raiseOn t e n) _ s

theorem cores_replaysDone (s : State) : (replaysDone s).cores = s.cores := by
  refine cores_foldl (fun t p => ?_) _ s
  split
  · exact cores_raisePad ..
  · rfl

theorem cores_settle (h : NothingDue s) : (settle s).cores = s.cores := by
  rw [settle_of_nothingDue h]
  split
  · rfl
  · exact cores_replaysDone s

/-! ## What is erased stays erased -/

/-- A slot without a key. -/
def Keyless (x : Slot) : Prop := x.state ∉ ([2, 3, 4, 5] : List Nat) ∧ x.material = []

def SlotsKeyless (s : State) : Prop := ∀ e ∈ s.tk.slots, Keyless e.2

def BlobsAbsent (s : State) : Prop := ∀ b, (blobAt s b).present = false

/-- Slots without keys stay so, and absent blobs stay absent. -/
def Wiped (s t : State) : Prop := (SlotsKeyless s → SlotsKeyless t) ∧ (BlobsAbsent s → BlobsAbsent t)

theorem Wiped.refl (s : State) : Wiped s s := ⟨id, id⟩

theorem Wiped.trans (h : Wiped s t) (g : Wiped t u) : Wiped s u := ⟨fun hs => g.1 (h.1 hs), fun hs => g.2 (h.2 hs)⟩

theorem Wiped.of_tack (hs : t.tk.slots = s.tk.slots) (hb : t.tk.blobs = s.tk.blobs) : Wiped s t :=
  ⟨fun h => by rwa [SlotsKeyless, hs], fun h b => by rw [blobAt, hb]; exact h b⟩

theorem Wiped.of_only {l : List Part} (h : Only l s t) (hs : Part.tk .slots ∉ l) (hb : Part.tk .blobs ∉ l) : Wiped s t :=
  .of_tack (h.same (.tk .slots) hs) (h.same (.tk .blobs) hb)

theorem Wiped.foldl {α : Type} {f : State → α → State} (hf : ∀ t x, Wiped t (f t x)) (l : List α) (s : State) : Wiped s (l.foldl f s) := by
  induction l generalizing s with
  | nil => exact .refl s
  | cons x l ih => exact (hf s x).trans (ih _)

theorem keyless_gen (g e : Nat) : Keyless { gen := g, sealEpoch := e } := by
  unfold Keyless
  simp

theorem mem_smIns {α : Type} {m : SMap α} {k : Nat} {v : α} {e : Nat × α} (h : e ∈ smIns m k v) : e ∈ m ∨ e = (k, v) := by
  induction m with
  | nil => simpa [smIns] using h
  | cons x m ih =>
    obtain ⟨j, w⟩ := x
    rw [smIns] at h
    split at h
    · rcases List.mem_cons.mp h with rfl | h
      · exact .inr rfl
      · exact .inl h
    split at h
    · rcases List.mem_cons.mp h with rfl | h
      · exact .inr rfl
      · exact .inl (List.mem_cons_of_mem _ h)
    · rcases List.mem_cons.mp h with rfl | h
      · exact .inl List.mem_cons_self
      · exact (ih h).imp (List.mem_cons_of_mem _) id

theorem mem_smDel {α : Type} {m : SMap α} {k : Nat} {e : Nat × α} (h : e ∈ smDel m k) : e ∈ m := by
  induction m with
  | nil => exact h
  | cons x m ih =>
    obtain ⟨j, w⟩ := x
    rw [smDel] at h
    split at h
    · exact List.mem_cons_of_mem _ (ih h)
    · rcases List.mem_cons.mp h with rfl | h
      · exact List.mem_cons_self
      · exact List.mem_cons_of_mem _ (ih h)

theorem mem_smSet {α : Type} [DecidableEq α] {d : α} {m : SMap α} {k : Nat} {v : α} {e : Nat × α} (h : e ∈ smSet d m k v) : e ∈ m ∨ e = (k, v) := by
  unfold smSet at h
  split at h
  · exact .inl (mem_smDel h)
  · exact mem_smIns h

theorem mem_smMap {α : Type} [DecidableEq α] {d : α} {f : Nat → α → α} {m : SMap α} {e : Nat × α} (h : e ∈ smMap d f m) :
    ∃ x ∈ m, e = (x.1, f x.1 x.2) := by
  induction m with
  | nil => simp [smMap] at h
  | cons x m ih =>
    obtain ⟨j, w⟩ := x
    rw [smMap] at h
    have htail : ∀ h : e ∈ smMap d f m, ∃ x ∈ (j, w) :: m, e = (x.1, f x.1 x.2) := fun h => by
      obtain ⟨x, hx, rfl⟩ := ih h
      exact ⟨x, List.mem_cons_of_mem _ hx, rfl⟩
    split at h
    · exact htail h
    · rcases List.mem_cons.mp h with rfl | h
      · exact ⟨_, List.mem_cons_self, rfl⟩
      · exact htail h

theorem smGet_of_all {α : Type} {P : α → Prop} {d : α} {m : SMap α} (hd : P d) (h : ∀ e ∈ m, P e.2) (k : Nat) : P (smGet d m k) := by
  induction m with
  | nil => exact hd
  | cons x m ih =>
    obtain ⟨j, w⟩ := x
    rw [smGet]
    split
    · exact h _ List.mem_cons_self
    · exact ih fun e he => h e (List.mem_cons_of_mem _ he)

theorem SlotsKeyless.at (h : SlotsKeyless s) (n : Nat) : Keyless (slotAt s n) := smGet_of_all (keyless_gen 0 0) h n

theorem putSlot_wiped {x : Slot} (hx : Keyless x) (s : State) (n : Nat) : Wiped s (putSlot s n x) :=
  ⟨fun h e he => (mem_smSet he).elim (h e) fun heq => by rw [heq]; exact hx, id⟩

theorem eraseSlot_wiped (s : State) (n : Nat) : Wiped s (eraseSlot s n) := putSlot_wiped (keyless_gen _ _) s n

theorem putBlob_wiped {x : BlobEntry} {b : Nat} (hx : (blobAt s b).present = false → x.present = false) : Wiped s (putBlob s b x) :=
  ⟨id, fun h c => by
    rw [blobAt_putBlob]
    split
    · exact hx (h b)
    · exact h c⟩

/-- The slots of a blob emptied. -/
def blobSlotsFreed (s : State) (b : Nat) : State :=
  { s with tk := { s.tk with slots := smMap {} (fun _ x => if x.blob == some b then { gen := x.gen } else x) s.tk.slots } }

theorem blobSlotsFreed_wiped (s : State) (b : Nat) : Wiped s (blobSlotsFreed s b) := by
  refine ⟨fun h e he => ?_, id⟩
  obtain ⟨x, hx, rfl⟩ := mem_smMap he
  dsimp only
  split
  · exact keyless_gen _ _
  · exact h x hx

theorem unloadBlob_wiped (s : State) (b : Nat) : Wiped s (unloadBlob s b) :=
  (blobSlotsFreed_wiped s b).trans (putBlob_wiped (s := blobSlotsFreed s b) (x := { blobAt (blobSlotsFreed s b) b with loadedAt := none, loaded := false }) id)

theorem removeBlob_wiped (s : State) (b : Nat) : Wiped s (removeBlob s b) := (unloadBlob_wiped s b).trans (putBlob_wiped fun _ => rfl)

theorem releaseRevoked_wiped (s : State) : Wiped s (releaseRevoked s) := by
  unfold releaseRevoked
  refine Wiped.trans (Wiped.foldl (fun t b => ?_) _ s) (Wiped.foldl (fun t n => ?_) _ _)
  · dsimp only
    split
    · exact .refl t
    split
    · exact unloadBlob_wiped t b
    · exact removeBlob_wiped t b
  · dsimp only
    split
    · exact Wiped.trans (t := { t with tk := { t.tk with hbs := smSet {} t.tk.hbs n {} } }) (.of_tack rfl rfl) (eraseSlot_wiped _ n)
    · exact .refl t

theorem afterRetire_wiped (s : State) (j : Job) : Wiped s (afterRetire s j) := by
  unfold afterRetire
  refine Wiped.trans ?_ (.of_only (updateLtr_only _) (by decide +kernel) (by decide +kernel))
  refine Wiped.trans ?_ (.of_only (recheck_only ..) (by decide +kernel) (by decide +kernel))
  refine Wiped.trans ?_ (.of_only (drawOnFree_only ..) (by decide +kernel) (by decide +kernel))
  refine Wiped.trans ?_ (releaseRevoked_wiped _)
  exact Wiped.trans (.of_only (freeSnapshots_only ..) (by decide +kernel) (by decide +kernel)) (.of_only (releaseEvicted_only _) (by decide +kernel) (by decide +kernel))

theorem retireHead_wiped (s : State) (q : Nat) : Wiped s (retireHead s q) := by
  unfold retireHead
  split
  · exact .refl s
  · dsimp only
    refine Wiped.trans (Wiped.trans ?_ (afterRetire_wiped _ _)) (.of_only (writeShadow_only ..) (by decide +kernel) (by decide +kernel))
    exact .of_tack rfl rfl

theorem retireEntry_wiped (s : State) (q : Nat) : Wiped s (retireEntry s q) := by
  unfold retireEntry
  split
  · exact .refl s
  split
  · exact .refl s
  split
  · exact .of_tack rfl rfl
  · exact retireHead_wiped s q

theorem retireSilent_wiped (q n : Nat) (s : State) : Wiped s (retireSilent s q n) := by
  induction n generalizing s with
  | zero => exact .refl s
  | succ n ih =>
    rw [retireSilent]
    split
    · exact .refl s
    split
    · exact (retireEntry_wiped s q).trans (ih _)
    · exact .refl s

theorem retireSilents_wiped (s : State) : Wiped s (retireSilents s) := Wiped.foldl (fun t q => retireSilent_wiped q (t.jobs.length + 1) t) _ s

/-! ## The erase of the tack room -/

theorem eraseWorking_keyless (s : State) : SlotsKeyless (eraseWorking s) := by
  unfold SlotsKeyless eraseWorking
  generalize 16384 = m
  intro e he
  obtain ⟨n, -, rfl⟩ := List.mem_map.mp he
  exact ⟨by simp [lostSlot], rfl⟩

/-- The paddocks' incarnations counted up. -/
def incremented (s : State) : State := (List.range 32).foldl (fun t p => modPad t p fun x => { x with inc := (x.inc + 1) % 2 ^ 32 }) s

theorem inc_foldl (l : List Nat) (hl : l.Nodup) (s : State) (p : Nat) :
    (padAt (l.foldl (fun t p => modPad t p fun x => { x with inc := (x.inc + 1) % 2 ^ 32 }) s) p).inc =
      if p ∈ l then ((padAt s p).inc + 1) % 2 ^ 32 else (padAt s p).inc := by
  induction l generalizing s with
  | nil => simp
  | cons k l ih =>
    obtain ⟨hk, hl⟩ := List.nodup_cons.mp hl
    rw [List.foldl_cons, ih hl]
    by_cases hp : p = k
    · subst hp
      rw [if_neg hk, if_pos List.mem_cons_self, padAt_modPad_self]
    · rw [padAt_modPad_other hp]
      simp [hp]

theorem inc_incremented (hp : p < 32) : (padAt (incremented s) p).inc = ((padAt s p).inc + 1) % 2 ^ 32 :=
  (inc_foldl (List.range 32) List.nodup_range s p).trans (if_pos (List.mem_range.mpr hp))

theorem incremented_only (s : State) : Only [.pad .inc] s (incremented s) :=
  Only.foldl _ (fun t p => modPad_in (Pad.set_inc (by decide +kernel) (PadReg.refl _ _)) (Only.refl _ _)) (Only.refl _ _)

/-- Every blob taken out. -/
def blobsRemoved (s : State) : State := (smKeys s.tk.blobs).foldl (fun t b => if (blobAt t b).present then removeBlob t b else t) s

theorem eraseRoots_eq (s : State) : eraseRoots s = blobsRemoved (incremented (eraseWorking s)) := rfl

theorem blobAt_removeBlob_other {b c : Nat} (h : c ≠ b) : blobAt (removeBlob s b) c = blobAt s c := by
  have hput : blobAt (removeBlob s b) c = blobAt (unloadBlob s b) c := (blobAt_putBlob ..).trans (if_neg h)
  have hunload : blobAt (unloadBlob s b) c = blobAt (blobSlotsFreed s b) c := (blobAt_putBlob ..).trans (if_neg h)
  rw [hput, hunload]
  rfl

theorem present_removeBlob (s : State) (b : Nat) : (blobAt (removeBlob s b) b).present = false := by
  unfold removeBlob
  rw [blobAt_putBlob_self]

theorem blobsRemoved_absent (s : State) : BlobsAbsent (blobsRemoved s) := fun b => by
  by_cases hb : b ∈ smKeys s.tk.blobs
  · refine foldl_reaches (I := fun _ => True) (P := fun t => (blobAt t b).present = false) hb (fun _ _ _ _ => trivial) (fun t c _ h => ?_) (fun t _ => ?_) trivial
    · split
      · by_cases hc : b = c
        · exact hc ▸ present_removeBlob t b
        · rwa [blobAt_removeBlob_other hc]
      · exact h
    · split
      · exact present_removeBlob t b
      case isFalse h => simpa using h
  · have hnone : (blobAt s b).present = false := by
      by_contra hne
      exact hb (mem_smKeys_of_smGet_ne fun h => hne (by rw [blobAt, h]))
    refine foldl_keeps (P := fun t => (blobAt t b).present = false) _ (fun t c _ h => ?_) hnone
    split
    · by_cases hc : b = c
      · exact hc ▸ present_removeBlob t b
      · rwa [blobAt_removeBlob_other hc]
    · exact h

theorem blobsRemoved_keyless (h : SlotsKeyless s) : SlotsKeyless (blobsRemoved s) :=
  (Wiped.foldl (fun t b => by split; exacts [removeBlob_wiped t b, .refl t]) _ s).1 h

theorem blobsRemoved_only (s : State) : Only [.tk .slots, .tk .blobs] s (blobsRemoved s) :=
  Only.foldl _ (fun t b => by split; exacts [removeBlob_only t b, Only.refl _ _]) (Only.refl _ _)

end

end Sys2Proof.Alarm
end

section
/-! PROOF. The tamper monitor (R429 to R439; O55). -/

namespace Sys2Proof.Alarm

open Sys2Proof Sys2Proof.Machine Sys2Proof.Claims Sys2Proof.Frames Sys2Proof.Holding Sys2Proof.PadReset Sys2Proof.BootWaits Sys2Proof.LinkTap
  Sys2Proof.Transitions

section
variable {s t u : State} {src resp : Nat} {high : Bool} {tok : Bytes}

/-! ## The alarm latched -/

/-- The alarm of a source latched, counted and live. -/
def latchedBy (s : State) (src resp : Nat) : State := setLive (latchAlarm s src resp) src

/-- What every trip leaves in the monitor. -/
def Latched (s : State) (src : Nat) (t : State) : Prop :=
  t.tp.latched = true ∧ hasBit t.tp.alarm src = true ∧ t.tp.count = satAdd 0xFFFFFFFF s.tp.count 1 ∧ (src ≠ 9 → hasBit t.tp.live src = true)

theorem latchedBy_only (s : State) (src resp : Nat) : Only [.sys .wakeDriven, .port .linkState, .fn .pmeStatus, .fn .vecs, .tp .latched, .tp .response,
    .tp .alarm, .tp .count, .tp .live, .hl .auditLog, .out] s (latchedBy s src resp) :=
  Only.then (setLive_only ..) (by decide +kernel) ((latchAlarm_only ..).mono (by decide +kernel))

/-- The monitor's registers after an alarm. -/
def latchedTp (x : Tamper) (src resp : Nat) : Tamper :=
  { x with latched := true, response := max x.response resp, alarm := setBit x.alarm src, count := satAdd 0xFFFFFFFF x.count 1 }

theorem tp_latchAlarm (s : State) (src resp : Nat) : (latchAlarm s src resp).tp = latchedTp s.tp src resp := by
  unfold latchAlarm
  dsimp only
  rw [tp_of_only (auditAdd_only ..) (by decide +kernel)]
  split
  · rfl
  · show ({ (raisePart s 4).tp with latched := true, response := _, alarm := _, count := _ } : Tamper) = _
    rw [tp_of_only (raisePart_only ..) (by decide +kernel)]
    rfl

theorem tp_latchedBy (s : State) (src resp : Nat) : (latchedBy s src resp).tp =
    if src = 9 then latchedTp s.tp src resp else { latchedTp s.tp src resp with live := setBit s.tp.live src } := by
  unfold latchedBy setLive
  split
  · exact tp_latchAlarm ..
  · show ({ (latchAlarm s src resp).tp with live := setBit (latchAlarm s src resp).tp.live src } : Tamper) = _
    rw [tp_latchAlarm]
    rfl

theorem latched_of_tp (h : t.tp.latched = (latchedBy s src resp).tp.latched) (h1 : t.tp.alarm = (latchedBy s src resp).tp.alarm)
    (h2 : t.tp.count = (latchedBy s src resp).tp.count) (h3 : t.tp.live = (latchedBy s src resp).tp.live) : Latched s src t := by
  unfold Latched
  rw [h, h1, h2, h3, tp_latchedBy]
  split
  case isTrue h9 => exact ⟨rfl, hasBit_setBit .., rfl, fun hne => absurd h9 hne⟩
  case isFalse => exact ⟨rfl, hasBit_setBit .., rfl, fun _ => hasBit_setBit ..⟩

theorem response_latchedBy (s : State) (src resp : Nat) : (latchedBy s src resp).tp.response = max s.tp.response resp := by
  rw [tp_latchedBy]
  split
  · rfl
  · rfl

/-! ## A trip in operation -/

theorem exec_tamperTrip (htrip : sourceTrips s src high = true) (hstage : 14 ≤ s.sys.stage) (hboot : s.sys.bootState ≤ 1) (hawake : s.sys.deepSleep = false) :
    exec (.tamperTrip src high) s =
      .next (settle (alarmActs (latchedBy s src (responseOf s src)) (if responseOf s src = 0 then 0 else max (responseOf s src) s.tp.response))) :=
  congrArg Host.Outcome.next (if_pos (by simp [htrip, hstage, hboot, hawake]))

theorem latchedBy_nothingDue (hdue : NothingDue s) : NothingDue (latchedBy s src resp) :=
  nothingDue_of_only hdue (latchedBy_only ..) (by decide +kernel) (by decide +kernel)

theorem cores_auditAdd (s : State) (event value : Nat) : (auditAdd s event value).cores = s.cores := by
  unfold auditAdd
  generalize 131072 = m
  rfl

theorem cores_latchAlarm (s : State) (src resp : Nat) : (latchAlarm s src resp).cores = s.cores := by
  unfold latchAlarm
  dsimp only
  rw [cores_auditAdd]
  split
  · rfl
  · exact cores_raiseOn ..

theorem cores_setLive (s : State) (src : Nat) : (setLive s src).cores = s.cores := by
  unfold setLive
  split
  · rfl
  · rfl

theorem cores_latchedBy (s : State) (src resp : Nat) : (latchedBy s src resp).cores = s.cores := (cores_setLive ..).trans (cores_latchAlarm ..)

theorem trip_logs (htrip : sourceTrips s src high = true) (hstage : 14 ≤ s.sys.stage) (hboot : s.sys.bootState ≤ 1) (hawake : s.sys.deepSleep = false)
    (hdue : NothingDue s) (h0 : responseOf s src = 0) :
    ∃ t, exec (.tamperTrip src high) s = .next t ∧ Latched s src t ∧ t.tk = s.tk ∧ t.jobs = s.jobs ∧ t.cores = s.cores := by
  have hexec := exec_tamperTrip htrip hstage hboot hawake
  rw [h0, if_pos rfl] at hexec
  have hdue' := latchedBy_nothingDue (src := src) (resp := 0) hdue
  have hl := latchedBy_only s src 0
  have hs := settle_only_of_nothingDue hdue'
  have htp : (settle (latchedBy s src 0)).tp = (latchedBy s src 0).tp := tp_of_only hs (by decide +kernel)
  refine ⟨settle (latchedBy s src 0), hexec, latched_of_tp (resp := 0) ?_ ?_ ?_ ?_,
    (tk_of_only hs (by decide +kernel)).trans (tk_of_only hl (by decide +kernel)),
    (hs.same .jobs (by decide +kernel)).trans (hl.same .jobs (by decide +kernel)), (cores_settle hdue').trans (cores_latchedBy s src 0)⟩ <;> rw [htp]

/-! ## What an alarm stops -/

/-- Running jobs ended and cores stopped. -/
@[irreducible] def haltedWork (s : State) : State :=
  (List.range 16).foldl stopCore ((s.jobs.filter fun j => isLive j && j.phase == .running).foldl (fun t j => loseJob t j 0x0B00) s)

theorem stopWork_eq (s : State) : stopWork s = clearAllDigests (abandonTransition (endTests (endSession (endRaw (haltedWork s))))) := by
  unfold stopWork haltedWork
  rfl

theorem core_haltedWork {n : Nat} (h : n < 16) : (coreAt (haltedWork s) n).state = 0 := by
  unfold haltedWork
  exact core_stopCores (List.mem_range.mpr h) _

theorem step_abandonTransition (s : State) : (abandonTransition s).lc.step = 0 := by
  unfold abandonTransition
  split
  · assumption
  · rfl

theorem stopWork_stops (s : State) : (∀ n < 16, (coreAt (stopWork s) n).state = 0) ∧ (stopWork s).dbg.scope = 0 ∧ (stopWork s).rng.rawMode = false ∧
    (stopWork s).lc.step = 0 := by
  have hraw := endRaw_only (haltedWork s)
  have hses := endSession_only (endRaw (haltedWork s))
  have htest := endTests_only (endSession (endRaw (haltedWork s)))
  have hab := abandonTransition_only (endTests (endSession (endRaw (haltedWork s))))
  have hclear := clearAllDigests_only (abandonTransition (endTests (endSession (endRaw (haltedWork s)))))
  have hrawMode := rawMode_endRaw (haltedWork s)
  have hcore : ∀ n < 16, (coreAt (haltedWork s) n).state = 0 := fun n hn => core_haltedWork hn
  rw [stopWork_eq]
  generalize haltedWork s = h at hraw hses htest hab hclear hrawMode hcore ⊢
  refine ⟨fun n hn => ?_, ?_, ?_, ?_⟩
  · rw [hclear.same (.core .state) (by decide +kernel) n, hab.same (.core .state) (by decide +kernel) n, htest.same (.core .state) (by decide +kernel) n,
      hses.same (.core .state) (by decide +kernel) n, hraw.same (.core .state) (by decide +kernel) n]
    exact hcore n hn
  · rw [hclear.same (.dbg .scope) (by decide +kernel), hab.same (.dbg .scope) (by decide +kernel), htest.same (.dbg .scope) (by decide +kernel)]
    rfl
  · rw [hclear.same (.rng .rawMode) (by decide +kernel), hab.same (.rng .rawMode) (by decide +kernel), htest.same (.rng .rawMode) (by decide +kernel),
      hses.same (.rng .rawMode) (by decide +kernel)]
    exact hrawMode
  · rw [hclear.same (.lc .step) (by decide +kernel)]
    exact step_abandonTransition _

/-! ## What an alarm does to the tack room -/

theorem tackAct_holds (s : State) : (tackAct s 1).tk.hold = true := rfl

theorem eraseWorking_sealed (s : State) : (eraseWorking s).tk.unsealed = false ∧ (eraseWorking s).tk.ownerRoot = [] := ⟨rfl, rfl⟩

theorem eraseRoots_sealed (s : State) : (eraseRoots s).tk.unsealed = false ∧ (eraseRoots s).tk.ownerRoot = [] ∧ SlotsKeyless (eraseRoots s) ∧
    BlobsAbsent (eraseRoots s) ∧ ∀ p < 32, (padAt (eraseRoots s) p).inc = ((padAt s p).inc + 1) % 2 ^ 32 := by
  have hinc := incremented_only (eraseWorking s)
  have hrem := blobsRemoved_only (incremented (eraseWorking s))
  have hkey : SlotsKeyless (incremented (eraseWorking s)) := by
    unfold SlotsKeyless
    rw [hinc.same (.tk .slots) (by decide +kernel)]
    exact eraseWorking_keyless s
  rw [eraseRoots_eq]
  refine ⟨?_, ?_, blobsRemoved_keyless hkey, blobsRemoved_absent _, fun p hp => ?_⟩
  · rw [hrem.same (.tk .unsealed) (by decide +kernel), hinc.same (.tk .unsealed) (by decide +kernel)]
    exact (eraseWorking_sealed s).1
  · rw [hrem.same (.tk .ownerRoot) (by decide +kernel), hinc.same (.tk .ownerRoot) (by decide +kernel)]
    exact (eraseWorking_sealed s).2
  · rw [hrem.same (.pad .inc) (by decide +kernel) p, inc_incremented hp]
    exact congrArg (fun n => (n + 1) % 2 ^ 32) ((eraseWorking_only s).same (.pad .inc) (by decide +kernel) p)

theorem tackAct_erases (h : 2 ≤ resp) : (tackAct s resp).tk.unsealed = false ∧ (tackAct s resp).tk.ownerRoot = [] ∧ SlotsKeyless (tackAct s resp) := by
  match resp, h with
  | 2, _ => exact ⟨(eraseWorking_sealed s).1, (eraseWorking_sealed s).2, eraseWorking_keyless s⟩
  | n + 3, _ =>
    obtain ⟨h1, h2, h3, -, -⟩ := eraseRoots_sealed s
    exact ⟨h1, h2, h3⟩

theorem tackAct_roots (h : 3 ≤ resp) : BlobsAbsent (tackAct s resp) ∧ ∀ p < 32, (padAt (tackAct s resp) p).inc = ((padAt s p).inc + 1) % 2 ^ 32 := by
  match resp, h with
  | n + 3, _ =>
    obtain ⟨-, -, -, h4, h5⟩ := eraseRoots_sealed s
    exact ⟨h4, h5⟩

/-! ## The effects of a response -/

theorem alarmActs_eq (h : resp ≠ 0) : alarmActs s resp = retireSilents (tackAct (stopWork s) resp) := if_neg h

theorem alarmActs_stops (h : resp ≠ 0) : (∀ n < 16, (coreAt (alarmActs s resp) n).state = 0) ∧ (alarmActs s resp).dbg.scope = 0 ∧
    (alarmActs s resp).rng.rawMode = false ∧ (alarmActs s resp).lc.step = 0 := by
  obtain ⟨hcore, hscope, hraw, hstep⟩ := stopWork_stops s
  rw [alarmActs_eq h]
  have htack := tackAct_only (stopWork s) resp
  have hret := retireSilents_only (tackAct (stopWork s) resp)
  generalize stopWork s = w at hcore hscope hraw hstep htack hret ⊢
  refine ⟨fun n hn => ?_, ?_, ?_, ?_⟩
  · rw [hret.same (.core .state) (by decide +kernel) n, htack.same (.core .state) (by decide +kernel) n]
    exact hcore n hn
  · rw [hret.same (.dbg .scope) (by decide +kernel), htack.same (.dbg .scope) (by decide +kernel), hscope]
  · rw [hret.same (.rng .rawMode) (by decide +kernel), htack.same (.rng .rawMode) (by decide +kernel), hraw]
  · rw [hret.same (.lc .step) (by decide +kernel), htack.same (.lc .step) (by decide +kernel), hstep]

theorem alarmActs_tack (h : resp ≠ 0) : (resp = 1 → (alarmActs s resp).tk.hold = true) ∧
    (2 ≤ resp → (alarmActs s resp).tk.unsealed = false ∧ (alarmActs s resp).tk.ownerRoot = [] ∧ SlotsKeyless (alarmActs s resp)) ∧
    (3 ≤ resp → BlobsAbsent (alarmActs s resp) ∧ ∀ p < 32, (padAt (alarmActs s resp) p).inc = ((padAt s p).inc + 1) % 2 ^ 32) := by
  have hwork := stopWork_only s
  have hret := retireSilents_only (tackAct (stopWork s) resp)
  have hwipe := retireSilents_wiped (tackAct (stopWork s) resp)
  rw [alarmActs_eq h]
  refine ⟨fun h1 => ?_, fun h2 => ?_, fun h3 => ?_⟩
  · rw [hret.same (.tk .hold) (by decide +kernel), h1]
    exact tackAct_holds _
  · obtain ⟨hun, hroot, hkey⟩ := tackAct_erases (s := stopWork s) h2
    rw [hret.same (.tk .unsealed) (by decide +kernel), hret.same (.tk .ownerRoot) (by decide +kernel)]
    exact ⟨hun, hroot, hwipe.1 hkey⟩
  · obtain ⟨habs, hinc⟩ := tackAct_roots (s := stopWork s) h3
    refine ⟨hwipe.2 habs, fun p hp => ?_⟩
    rw [hret.same (.pad .inc) (by decide +kernel) p, hinc p hp, hwork.same (.pad .inc) (by decide +kernel) p]

/-! ## A trip that acts -/

/-- The strongest response so far. -/
def strongest (s : State) (src : Nat) : Nat := max (responseOf s src) s.tp.response

/-- The part after a trip whose source has a response. -/
def alarmed (s : State) (src : Nat) : State := alarmActs (latchedBy s src (responseOf s src)) (strongest s src)

theorem alarmed_only (s : State) (src : Nat) : Only (Part.drainQueue ++ ([.sys .wakeDriven, .lc .slots, .lc .busy, .lc .step, .lc .token, .dbg .scope,
    .dbg .padMask, .fn .pmeStatus, .fn .vecs, .fn .cmpExpect, .fn .cmpSpoiled, .fn .cmpEq, .fn .cmpNe, .pad .results, .pad .inc, .pad .extendLost,
    .tk .unsealed, .tk .restoring, .tk .hold, .tk .lost, .tk .ownerRoot, .rng .ready, .rng .rawMode, .rng .attempts, .rng .fifo, .core .state, .core .w,
    .core .pc, .core .waiting, .core .loading, .tt .lanes, .lk .tests] : List Part)) (latchedBy s src (responseOf s src)) (alarmed s src) := alarmActs_only ..

theorem limitOf_alarm (h : s.tp.latched = true) (hr : s.tp.response ≠ 0) (p : Nat) : limitOf s p = 0 := if_pos (by simp [acceptStopped, h, hr])

theorem alarmed_settled (hdue : NothingDue s) (ht : t = settle (alarmed s src)) :
    Only [.sys .wakeDriven, .port .linkState, .fn .pmeStatus, .fn .vecs, .pad .replayOwed, .out] (alarmed s src) t ∧ t.tp = (latchedBy s src (responseOf s src)).tp := by
  have ho := alarmed_only s src
  have hs := settle_only_of_nothingDue (nothingDue_of_only (latchedBy_nothingDue hdue) ho (by decide +kernel) (by decide +kernel))
  rw [← ht] at hs
  exact ⟨hs, (tp_of_only hs (by decide +kernel)).trans (tp_of_only ho (by decide +kernel))⟩

theorem alarmed_acts (hdue : NothingDue s) (h0 : responseOf s src ≠ 0) (ht : t = settle (alarmed s src)) :
    Latched s src t ∧ t.tp.response = max s.tp.response (responseOf s src) ∧ (∀ p, limitOf t p = 0) ∧ (∀ n < 16, (coreAt t n).state = 0) ∧ t.dbg.scope = 0 ∧
      t.rng.rawMode = false ∧ t.lc.step = 0 := by
  obtain ⟨hs, htp⟩ := alarmed_settled hdue ht
  have hresp : t.tp.response = max s.tp.response (responseOf s src) := by rw [htp, response_latchedBy]
  have hlatched : Latched s src t := latched_of_tp (resp := responseOf s src) (congrArg Tamper.latched htp) (congrArg Tamper.alarm htp)
    (congrArg Tamper.count htp) (congrArg Tamper.live htp)
  have hne : strongest s src ≠ 0 := by
    unfold strongest
    omega
  obtain ⟨hcore, hscope, hraw, hstep⟩ := alarmActs_stops (s := latchedBy s src (responseOf s src)) hne
  exact ⟨hlatched, hresp, limitOf_alarm hlatched.1 (by rw [hresp]; omega), fun n hn => (hs.same (.core .state) (by decide +kernel) n).trans (hcore n hn),
    (hs.same (.dbg .scope) (by decide +kernel)).trans hscope, (hs.same (.rng .rawMode) (by decide +kernel)).trans hraw,
    (hs.same (.lc .step) (by decide +kernel)).trans hstep⟩

theorem alarmed_tack (hdue : NothingDue s) (h0 : responseOf s src ≠ 0) (ht : t = settle (alarmed s src)) :
    (t.tp.response = 1 → t.tk.hold = true) ∧ (2 ≤ t.tp.response → t.tk.unsealed = false ∧ t.tk.ownerRoot = [] ∧ ∀ n, Keyless (slotAt t n)) ∧
      (3 ≤ t.tp.response → (∀ b, (blobAt t b).present = false) ∧ ∀ p < 32, (padAt t p).inc = ((padAt s p).inc + 1) % 2 ^ 32) := by
  obtain ⟨hs, htp⟩ := alarmed_settled hdue ht
  have hresp : t.tp.response = strongest s src := by
    rw [htp, response_latchedBy]
    exact Nat.max_comm ..
  have hne : strongest s src ≠ 0 := by
    unfold strongest
    omega
  obtain ⟨hhold, herase, hroots⟩ := alarmActs_tack (s := latchedBy s src (responseOf s src)) hne
  have htk : t.tk = (alarmed s src).tk := tk_of_only hs (by decide +kernel)
  rw [hresp, htk]
  refine ⟨hhold, fun h2 => ?_, fun h3 => ?_⟩
  · obtain ⟨hun, hroot, hkey⟩ := herase h2
    refine ⟨hun, hroot, fun n => ?_⟩
    rw [slotAt, htk]
    exact SlotsKeyless.at hkey n
  · obtain ⟨habs, hinc⟩ := hroots h3
    refine ⟨fun b => ?_, fun p hp => ?_⟩
    · rw [blobAt, htk]
      exact habs b
    · rw [hs.same (.pad .inc) (by decide +kernel) p]
      exact (hinc p hp).trans (congrArg (fun n => (n + 1) % 2 ^ 32) ((latchedBy_only ..).same (.pad .inc) (by decide +kernel) p))

theorem exec_tamperTrip_acts (htrip : sourceTrips s src high = true) (hstage : 14 ≤ s.sys.stage) (hboot : s.sys.bootState ≤ 1) (hawake : s.sys.deepSleep = false)
    (h0 : responseOf s src ≠ 0) : exec (.tamperTrip src high) s = .next (settle (alarmed s src)) := by
  rw [exec_tamperTrip htrip hstage hboot hawake, if_neg h0]
  rfl

/-! ## A trip before step 14, and in a stopped part -/

theorem exec_tamperAtBoot (htrip : sourceTrips s src high = true) (h : s.sys.stage < 14 ∨ 2 ≤ s.sys.bootState) :
    exec (.tamperTripAtBoot src high) s = .next (setLive (bootTamper s src) src) := by
  refine congrArg Host.Outcome.next (if_pos ?_)
  rcases h with h | h <;> simp [htrip, h]

/-- A boot that an alarm stops. -/
def bootStopped (s : State) (src : Nat) : State :=
  bootStop { latchAlarm s src 1 with tp := { (latchAlarm s src 1).tp with tamperHold := true } } 2 0

theorem tamperAtBoot_stops (htrip : sourceTrips s src high = true) (hstage : s.sys.stage < 14) (hboot : s.sys.bootState ≤ 2) :
    ∃ t, exec (.tamperTripAtBoot src high) s = .next t ∧ Latched s src t ∧ t.sys.bootState = 2 ∧ t.tp.tamperHold = true ∧ t.tp.response = max s.tp.response 1 := by
  have hstop : bootTamper s src = bootStopped s src := (if_neg (by omega)).trans (if_neg (by omega))
  have htp : (setLive (bootStopped s src) src).tp = { (latchedBy s src 1).tp with tamperHold := true } := by
    unfold setLive latchedBy setLive bootStopped bootStop
    split
    · rfl
    · rfl
  have hboot' : (setLive (bootStopped s src) src).sys.bootState = (bootStopped s src).sys.bootState := (setLive_only ..).same (.sys .bootState) (by decide +kernel)
  have hexec := exec_tamperAtBoot htrip (Or.inl hstage)
  rw [hstop] at hexec
  refine ⟨_, hexec, latched_of_tp (resp := 1) ?_ ?_ ?_ ?_, hboot'.trans rfl, ?_, ?_⟩ <;> rw [htp]
  exact response_latchedBy s src 1

theorem tamperStopped_latches (htrip : sourceTrips s src high = true) (hboot : s.sys.bootState = 3 ∨ s.sys.bootState = 5) :
    ∃ t, exec (.tamperTripAtBoot src high) s = .next t ∧ Latched s src t ∧ t.sys.bootState = s.sys.bootState ∧ t.tp.response = s.tp.response := by
  have hlatch : bootTamper s src = latchAlarm s src 0 := if_pos hboot
  have hexec := exec_tamperAtBoot htrip (Or.inr (by omega))
  rw [hlatch] at hexec
  exact ⟨latchedBy s src 0, hexec, latched_of_tp (resp := 0) rfl rfl rfl rfl, (latchedBy_only ..).same (.sys .bootState) (by decide +kernel),
    (response_latchedBy s src 0).trans (Nat.max_eq_left (Nat.zero_le _))⟩

/-! ## A trip in deep sleep -/

/-- The tack room scrambled and the part awake. -/
def scrambled (s : State) (src : Nat) : State := leaveDeepSleep (scrambleTack (latchedBy s src (responseOf s src)))

/-- The part woken by an alarm, before the tack room is derived again. -/
def woken (s : State) (src : Nat) : State :=
  alarmActs { scrambled s src with tp := { (scrambled s src).tp with sleepScramble := true } } (if responseOf s src = 0 then 0 else strongest s src)

theorem exec_tamperAsleep (htrip : sourceTrips s src high = true) (hsleep : s.sys.deepSleep = true) :
    exec (.tamperTripDeepSleep src high) s = .next (settle (rederive (woken s src))) := congrArg Host.Outcome.next (if_pos (by simp [htrip, hsleep]))

theorem deepSleep_leaveDeepSleep (s : State) : (leaveDeepSleep s).sys.deepSleep = false := by
  unfold leaveDeepSleep
  cases h : s.sys.deepSleep
  · rw [if_pos (by simp)]
    exact h
  · rw [if_neg (by simp), (runBells_only _).same (.sys .deepSleep) (by decide +kernel), endDeepSleep, if_neg (by simp [h])]

theorem scrambled_only (s : State) (src : Nat) : Only (Part.allPad ++ [.sys .wakeDriven, .sys .deepSleep, .sys .timeJournal, .en .shed, .port .linkState,
    .port .doorbells, .fn .pmeStatus, .fn .denied, .fn .vecs, .fn .cmpExpect, .fn .cmpSpoiled, .fn .cmpEq, .fn .cmpNe, .queue .state, .queue .p,
    .queue .errReason, .queue .errDetail, .queue .errIndex, .queue .defer, .queue .copies, .queue .heldBell, .queue .shadowOwed, .queue .pend,
    .queue .fetchFailed, .queue .fetchTried, .queue .recordedP, .jn .seq, .tp .sleepScramble, .tk .slots, .tk .blobs, .tk .unsealed, .tk .maskDraw,
    .tk .ownerRoot, .tk .scrambled, .out]) (latchedBy s src (responseOf s src)) (scrambled s src) :=
  Only.then (leaveDeepSleep_only _) (by decide +kernel) ((scrambleTack_only _).mono (by decide +kernel))

theorem woken_only (s : State) (src : Nat) : Only (Part.drainQueue ++ ([.sys .wakeDriven, .lc .slots, .lc .busy, .lc .step, .lc .token, .dbg .scope,
    .dbg .padMask, .fn .pmeStatus, .fn .vecs, .fn .cmpExpect, .fn .cmpSpoiled, .fn .cmpEq, .fn .cmpNe, .pad .results, .pad .inc, .pad .extendLost,
    .tk .unsealed, .tk .restoring, .tk .hold, .tk .lost, .tk .ownerRoot, .rng .ready, .rng .rawMode, .rng .attempts, .rng .fifo, .core .state, .core .w,
    .core .pc, .core .waiting, .core .loading, .tt .lanes, .lk .tests, .tp .sleepScramble] : List Part)) (scrambled s src) (woken s src) := by
  refine Only.then (alarmActs_only ..) (by decide +kernel) ?_
  exact put_tp (Tamper.set_sleepScramble (by decide +kernel) (TpReg.refl _ _)) (Only.refl _ _)

theorem woken_logs (h0 : responseOf s src = 0) : woken s src = { scrambled s src with tp := { (scrambled s src).tp with sleepScramble := true } } := by
  unfold woken
  rw [if_pos h0]
  exact if_pos rfl

theorem scrambled_tack (s : State) (src : Nat) : (scrambled s src).tk.scrambled = true ∧ (scrambled s src).tk.maskDraw = s.tp.reserveDraw ∧
    (scrambled s src).tk.hold = s.tk.hold := by
  have htk : (scrambled s src).tk = (scrambleTack (latchedBy s src (responseOf s src))).tk := tk_of_only (leaveDeepSleep_only _) (by decide +kernel)
  have hl := latchedBy_only s src (responseOf s src)
  rw [htk]
  exact ⟨rfl, hl.same (.tp .reserveDraw) (by decide +kernel), hl.same (.tk .hold) (by decide +kernel)⟩

theorem rederive_derives (hsc : s.tk.scrambled = true) (hhold : s.tk.hold = false) (hr : s.tp.response ≤ 1) :
    (rederive s).tk.unsealed = true := by
  unfold rederive
  rw [if_pos (by simp [hsc, hhold, hr])]
  rfl

/-- Where the source only logs, the tack room is derived under the reserve mask at once. -/
theorem rederived_logs (h0 : responseOf s src = 0) (hresp : s.tp.response = 0) (hhold : s.tk.hold = false) :
    (rederive (woken s src)).tk.maskDraw = s.tp.reserveDraw ∧ (rederive (woken s src)).tk.unsealed = true := by
  obtain ⟨hsc, hmask, hheld⟩ := scrambled_tack s src
  have hr : (scrambled s src).tp.response = 0 := by
    rw [(scrambled_only s src).same (.tp .response) (by decide +kernel), response_latchedBy, hresp, h0]
    rfl
  rw [woken_logs h0]
  refine ⟨((rederive_only _).same (.tk .maskDraw) (by decide +kernel)).trans hmask, rederive_derives hsc (hheld.trans hhold) ?_⟩
  exact Nat.le_trans (Nat.le_of_eq hr) (Nat.zero_le _)

theorem tamperAsleep_wakes (htrip : sourceTrips s src high = true) (hsleep : s.sys.deepSleep = true) (hdue : NothingDue s) :
    ∃ t, exec (.tamperTripDeepSleep src high) s = .next t ∧ Latched s src t ∧ t.sys.deepSleep = false ∧
      (s.tp.response = 0 → responseOf s src = 0 → s.tk.hold = false → t.tk.maskDraw = s.tp.reserveDraw ∧ t.tk.unsealed = true) := by
  have hlogs := rederived_logs (s := s) (src := src)
  have hsc := scrambled_only s src
  have hwake : (scrambled s src).sys.deepSleep = false := deepSleep_leaveDeepSleep _
  have hw := woken_only s src
  have hre := rederive_only (woken s src)
  have hexec := exec_tamperAsleep htrip hsleep
  have hdue1 : NothingDue (scrambled s src) := nothingDue_of_only (latchedBy_nothingDue hdue) hsc (by decide +kernel) (by decide +kernel)
  have hdue2 : NothingDue (woken s src) := nothingDue_of_only hdue1 hw (by decide +kernel) (by decide +kernel)
  generalize rederive (woken s src) = r at hlogs hre hexec
  have hs := settle_only_of_nothingDue (nothingDue_of_only hdue2 hre (by decide +kernel) (by decide +kernel))
  have htp : (settle r).tp.latched = (latchedBy s src (responseOf s src)).tp.latched ∧ (settle r).tp.alarm = (latchedBy s src (responseOf s src)).tp.alarm ∧
      (settle r).tp.count = (latchedBy s src (responseOf s src)).tp.count ∧ (settle r).tp.live = (latchedBy s src (responseOf s src)).tp.live := by
    refine ⟨?_, ?_, ?_, ?_⟩
    · exact (hs.same (.tp .latched) (by decide +kernel)).trans ((hre.same (.tp .latched) (by decide +kernel)).trans
        ((hw.same (.tp .latched) (by decide +kernel)).trans (hsc.same (.tp .latched) (by decide +kernel))))
    · exact (hs.same (.tp .alarm) (by decide +kernel)).trans ((hre.same (.tp .alarm) (by decide +kernel)).trans
        ((hw.same (.tp .alarm) (by decide +kernel)).trans (hsc.same (.tp .alarm) (by decide +kernel))))
    · exact (hs.same (.tp .count) (by decide +kernel)).trans ((hre.same (.tp .count) (by decide +kernel)).trans
        ((hw.same (.tp .count) (by decide +kernel)).trans (hsc.same (.tp .count) (by decide +kernel))))
    · exact (hs.same (.tp .live) (by decide +kernel)).trans ((hre.same (.tp .live) (by decide +kernel)).trans
        ((hw.same (.tp .live) (by decide +kernel)).trans (hsc.same (.tp .live) (by decide +kernel))))
  obtain ⟨h1, h2, h3, h4⟩ := htp
  refine ⟨_, hexec, latched_of_tp h1 h2 h3 h4, ?_, fun hr h0 hhold => ?_⟩
  · exact (hs.same (.sys .deepSleep) (by decide +kernel)).trans ((hre.same (.sys .deepSleep) (by decide +kernel)).trans
      ((hw.same (.sys .deepSleep) (by decide +kernel)).trans hwake))
  · rw [tk_of_only hs (by decide +kernel)]
    exact hlogs h0 hr hhold

/-! ## CLEAR -/

section
variable (hup : tpUp s 0 = true)
include hup

theorem exec_tamperClear : exec (.tamperClear 0 1#64 tok) s = .next (if s.lc.state ≠ 0 ∧ clearFormed s tok = false then tpErr s 1
    else if s.lc.state ≠ 0 ∧ clearSigned s tok = false then tpErr s 2 else if s.tp.live ≠ 0 then tpErr s 3 else settle (takeClear s)) := by
  have hcmd : (cmdOf 1#64 == 1) = true := by decide
  exact congrArg Host.Outcome.next (if_neg (by simp [hup, hcmd]))

theorem tamperClear_unformed (hl : s.lc.state ≠ 0) (hf : clearFormed s tok = false) :
    exec (.tamperClear 0 1#64 tok) s = .next { s with tp := { s.tp with cmdErr := 1 } } := (exec_tamperClear hup).trans (congrArg _ (if_pos ⟨hl, hf⟩))

theorem tamperClear_unsigned (hl : s.lc.state ≠ 0) (hf : clearFormed s tok = true) (hg : clearSigned s tok = false) :
    exec (.tamperClear 0 1#64 tok) s = .next { s with tp := { s.tp with cmdErr := 2 } } := by
  rw [exec_tamperClear hup, if_neg (by simp [hf]), if_pos ⟨hl, hg⟩]
  rfl

theorem tamperClear_heard (h : s.lc.state = 0 ∨ (clearFormed s tok = true ∧ clearSigned s tok = true)) :
    exec (.tamperClear 0 1#64 tok) s = .next (if s.tp.live ≠ 0 then tpErr s 3 else settle (takeClear s)) := by
  have hf : ¬(s.lc.state ≠ 0 ∧ clearFormed s tok = false) := by
    rcases h with h | ⟨h, -⟩ <;> simp [h]
  have hg : ¬(s.lc.state ≠ 0 ∧ clearSigned s tok = false) := by
    rcases h with h | ⟨-, h⟩ <;> simp [h]
  rw [exec_tamperClear hup, if_neg hf, if_neg hg]

end

/-- The challenge drawn anew. -/
def challenged (s : State) : State := tpErr { s with dbg := { s.dbg with challengeDraw := s.freeCtr }, freeCtr := s.freeCtr + 1 } 0

theorem takeClear_eq (s : State) : takeClear s = if s.tp.latched then releaseAlarm (challenged s) else challenged s := rfl

/-- The monitor released and the release logged. -/
def released (s : State) : State :=
  auditAdd { dropFlush s with
    tp := { (dropFlush s).tp with
      latched := false, response := 0, alarm := 0, resetRequired := (dropFlush s).tp.resetRequired || (dropFlush s).tp.tamperHold }
    tk := { (dropFlush s).tk with hold := false } } 4 s.tp.alarm

/-- Keyless records lost where the tack room was erased. -/
def keylessLost (s : State) (erased : Bool) : State := if erased then loseKeyless s else s

theorem releaseAlarm_eq (s : State) : releaseAlarm s = rederive (recheck (keylessLost (released s) (decide (2 ≤ s.tp.response))) [2]) := rfl

theorem keylessLost_only (s : State) (erased : Bool) : Only Part.drainQueue s (keylessLost s erased) := by
  unfold keylessLost
  split
  · exact loseKeyless_only s
  · exact Only.refl _ _

theorem released_from (s : State) : Only (Part.drainQueue ++ [.tk .unsealed, .tk .restoring, .tk .ownerRoot, .tk .jseal, .tk .scrambled]) (released s)
    (releaseAlarm s) := by
  rw [releaseAlarm_eq]
  refine Only.then (rederive_only _) (by decide +kernel) ?_
  refine Only.then (recheck_only ..) (by decide +kernel) ?_
  exact (keylessLost_only ..).mono (by decide +kernel)

theorem released_facts (s : State) : (released s).tp.latched = false ∧ (released s).tp.response = 0 ∧ (released s).tp.alarm = 0 ∧
    (released s).tp.resetRequired = (s.tp.resetRequired || s.tp.tamperHold) ∧ (released s).tk.hold = false ∧
    (released s).hl.auditLog.getLast? = some (s.time, 4, s.tp.alarm) ∧ (released s).tp.cmdErr = s.tp.cmdErr ∧ (released s).dbg = s.dbg := by
  have hdrop := dropFlush_only s
  have htp : (dropFlush s).tp = s.tp := tp_of_only hdrop (by decide +kernel)
  have htime : (dropFlush s).time = s.time := hdrop.same .time (by decide +kernel)
  have hdbg : (dropFlush s).dbg = s.dbg := dbg_of_only hdrop (by decide +kernel)
  have hlast := getLast_auditAdd { dropFlush s with
    tp := { (dropFlush s).tp with
      latched := false, response := 0, alarm := 0, resetRequired := (dropFlush s).tp.resetRequired || (dropFlush s).tp.tamperHold }
    tk := { (dropFlush s).tk with hold := false } } 4 s.tp.alarm
  have haudit := auditAdd_only { dropFlush s with
    tp := { (dropFlush s).tp with
      latched := false, response := 0, alarm := 0, resetRequired := (dropFlush s).tp.resetRequired || (dropFlush s).tp.tamperHold }
    tk := { (dropFlush s).tk with hold := false } } 4 s.tp.alarm
  unfold released
  rw [tp_of_only haudit (by decide +kernel), tk_of_only haudit (by decide +kernel), dbg_of_only haudit (by decide +kernel)]
  refine ⟨rfl, rfl, rfl, ?_, rfl, ?_, ?_, hdbg⟩
  · rw [htp]
  · rw [hlast]
    exact congrArg (fun n => some (n, 4, s.tp.alarm)) htime
  · show (dropFlush s).tp.cmdErr = s.tp.cmdErr
    rw [htp]

theorem releaseAlarm_releases (s : State) : (releaseAlarm s).tp = (released s).tp ∧ (releaseAlarm s).tk.hold = false ∧
    (releaseAlarm s).hl = (released s).hl ∧ (releaseAlarm s).dbg = s.dbg := by
  have ho := released_from s
  obtain ⟨-, -, -, -, hhold, -, -, hdbg⟩ := released_facts s
  exact ⟨tp_of_only ho (by decide +kernel), (ho.same (.tk .hold) (by decide +kernel)).trans hhold, hl_of_only ho (by decide +kernel),
    (dbg_of_only ho (by decide +kernel)).trans hdbg⟩

/-- What CLEAR leaves. -/
theorem takeClear_clears (s : State) : (takeClear s).tp.cmdErr = 0 ∧ (takeClear s).tp.latched = false ∧ (takeClear s).dbg.challengeDraw = s.freeCtr ∧
    (s.tp.latched = true → (takeClear s).tp.response = 0 ∧ (takeClear s).tp.alarm = 0 ∧ (takeClear s).tk.hold = false ∧
      (takeClear s).tp.resetRequired = (s.tp.resetRequired || s.tp.tamperHold) ∧ (takeClear s).hl.auditLog.getLast? = some (s.time, 4, s.tp.alarm)) := by
  rw [takeClear_eq]
  cases hl : s.tp.latched with
  | false => exact ⟨rfl, hl, rfl, fun h => by simp at h⟩
  | true =>
    obtain ⟨htp, hhold, hhl, hdbg⟩ := releaseAlarm_releases (challenged s)
    obtain ⟨h1, h2, h3, h4, -, h5, h6, -⟩ := released_facts (challenged s)
    rw [if_pos rfl, htp, hhl, hdbg]
    exact ⟨h6, h1, rfl, fun _ => ⟨h2, h3, hhold, h4, h5⟩⟩

theorem tamperClear_clears (hup : tpUp s 0 = true) (h : s.lc.state = 0 ∨ (clearFormed s tok = true ∧ clearSigned s tok = true)) (hlive : s.tp.live = 0)
    (hdue : NothingDue s) : ∃ t, exec (.tamperClear 0 1#64 tok) s = .next t ∧ t.tp.cmdErr = 0 ∧ t.tp.latched = false ∧ t.dbg.challengeDraw = s.freeCtr ∧
      (s.tp.latched = true → t.tp.response = 0 ∧ t.tp.alarm = 0 ∧ t.tk.hold = false ∧ t.tp.resetRequired = (s.tp.resetRequired || s.tp.tamperHold) ∧
        t.hl.auditLog.getLast? = some (s.time, 4, s.tp.alarm)) := by
  have hexec := tamperClear_heard hup h
  rw [if_neg (by simp [hlive])] at hexec
  have hs := settle_only_of_nothingDue (nothingDue_of_only hdue (takeClear_only s) (by decide +kernel) (by decide +kernel))
  have hclear := takeClear_clears s
  refine ⟨_, hexec, ?_⟩
  rw [tp_of_only hs (by decide +kernel), dbg_of_only hs (by decide +kernel), tk_of_only hs (by decide +kernel), hl_of_only hs (by decide +kernel)]
  exact hclear

end

/-- Settles O55: the effects of a response follow the latch, and what is erased stays erased while silent records retire. -/
theorem tamperMonitor : Obligations.TamperMonitor := by
  unfold Obligations.TamperMonitor
  intro s
  refine ⟨fun src high htrip _ hdue => ⟨fun hstage hboot hawake => ⟨trip_logs htrip hstage hboot hawake hdue, fun h0 => ?_⟩,
      tamperAtBoot_stops htrip, tamperStopped_latches htrip, fun hsleep _ => tamperAsleep_wakes htrip hsleep hdue⟩,
    fun src => rfl, fun tok hup => ⟨tamperClear_unformed hup, tamperClear_unsigned hup, fun h => ⟨fun hlive => ?_, tamperClear_clears hup h⟩⟩⟩
  · obtain ⟨hlatched, hresp, hlimit, hcore, hscope, hraw, hstep⟩ := alarmed_acts hdue h0 rfl
    obtain ⟨hhold, herase, hroots⟩ := alarmed_tack hdue h0 rfl
    refine ⟨_, exec_tamperTrip_acts htrip hstage hboot hawake h0, hlatched, hresp, hlimit, hcore, hscope, hraw, hstep, hhold, fun h2 => ?_, hroots⟩
    obtain ⟨hun, hroot, hkey⟩ := herase h2
    exact ⟨hun, hroot, fun _ n _ => hkey n⟩
  · exact (tamperClear_heard hup h).trans (congrArg _ (if_pos hlive))

end Sys2Proof.Alarm
end

section
/-! PROOF. Fault messages from outside: what a corrected, a contained and a fatal one leave (R440 to R448; O56). -/

namespace Sys2Proof.FaultMessages

open Sys2Proof Sys2Proof.Machine Sys2Proof.Claims Sys2Proof.Frames Sys2Proof.Holding Sys2Proof.PadReset Sys2Proof.Compare Sys2Proof.Reports
  Sys2Proof.BootWaits

section
variable {s t u : State} {n p source kind pad detail : Nat} {charged : Bool}

/-! ## The message as it is sent -/

/-- The fields of a message put together again. -/
theorem faultMsg_fields {m : Nat} (hm : m < 2 ^ 64) (hsent : messageSent m = true) :
    faultMsg (bits m 54 10) (bits m 48 6) (hasBit m 45) (bits m 40 5) (bits m 0 40) = m := by
  have hcls : bits m 46 2 = faultClass (bits m 48 6) := by
    unfold messageSent at hsent
    exact beq_iff_eq.mp (Bool.and_eq_true_iff.mp hsent).2
  have hbit : b1 (hasBit m 45) = m / 2 ^ 45 % 2 := by
    unfold b1 hasBit
    rw [Nat.testBit_eq_decide_div_mod_eq]
    rcases Nat.mod_two_eq_zero_or_one (m / 2 ^ 45) with h | h
    · rw [h]
      rfl
    · rw [h]
      rfl
  unfold faultMsg
  rw [← hcls, hbit]
  simp only [bits, Nat.reducePow]
  omega

theorem messageKinds : [0x01, 0x04, 0x10, 0x1D, 0x27, 0x13, 0x14, 0x26].all (fun k => decide (k ∉ [0x17, 0x18, 0x19, 0x1A, 0x22, 0x23, 0x24] ∧
    k ∉ actingKinds)) = true := by decide

/-- A kind the collector takes by itself. -/
theorem takeFault_plain (hflush : s.en.flushActive = false) (hk : kind ∉ [0x17, 0x18, 0x19, 0x1A, 0x22, 0x23, 0x24]) :
    takeFault s source kind charged pad detail = raiseFault s source kind charged pad detail := by
  unfold takeFault
  rw [if_neg (by simp [hflush])]
  split
  case h_8 => rfl
  all_goals exact absurd (by decide) hk

/-- A kind that reaches nothing but the collector. -/
theorem faultAction_inert (hk : kind ∉ actingKinds) (hstall : source < 0x34 → unsoundKind kind = false ∧ kind ≠ 0x0A ∧ kind ≠ 0x0B) (hrow : kind ≠ 0x02 ∧ kind ≠ 0x03) :
    faultAction s source kind detail = s := by
  by_cases h : source < 0x34
  · obtain ⟨hun, ha, hb⟩ := hstall h
    unfold faultAction
    rw [if_pos h, if_neg (by simp [hun]), if_neg (by simp [ha, hb])]
  · obtain ⟨h2, h3⟩ := hrow
    exact faultAction_none h (by simp [h2, h3]) hk

theorem exec_faultReport {m : W64} (hporst : s.sys.porstN = true) (hawake : s.sys.deepSleep = false) (hsent : messageSent m.toNat = true) :
    exec (.faultReport m) s = .next (settle (takeFault s (bits m.toNat 54 10) (bits m.toNat 48 6) (hasBit m.toNat 45) (bits m.toNat 40 5) (bits m.toNat 0 40))) := by
  have hleave : leaveDeepSleep s = s := if_pos (by simp [hawake])
  refine (congrArg Host.Outcome.next (if_pos (by simp [hporst, hsent]))).trans ?_
  rw [hleave]

/-! ## A corrected message -/

theorem report_corrected_settled (hcls : faultClass kind = 0) (hk : kind ≠ 0x25) (hdue : NothingDue s) (hb : BelowBucket s source kind detail)
    (hroom : s.fc.log.length < 4096) (ht : t = settle (report s source kind charged pad detail)) :
    t.fc.log = s.fc.log ++ [(s.time, faultMsg source kind charged pad detail)] ∧ t.fc.out = s.fc.out ∧
      smGet 0 t.fc.corrected source = smGet 0 s.fc.corrected source + 1 ∧ t.jobs = s.jobs := by
  obtain ⟨hesc, hretire⟩ := hdue
  have hlog := log_counted (source := source) (kind := kind) (charged := charged) (pad := pad) (detail := detail) hroom
  obtain ⟨hout, hesc', hcor⟩ := counted_same (s := s) (source := source) (kind := kind) (charged := charged) (pad := pad) (detail := detail)
  have hdue' : NothingDue (report s source kind charged pad detail) := by
    rw [report_corrected hcls hk]
    exact ⟨hesc'.trans hesc, (retireNow_counted hb).trans hretire⟩
  have hs := settle_only_of_nothingDue hdue'
  rw [← ht] at hs
  rw [fc_of_only hs (by decide +kernel), hs.same .jobs (by decide +kernel), report_corrected hcls hk]
  refine ⟨hlog, hout, ?_, rfl⟩
  dsimp only
  rw [smMod, smGet_smSet_self, hcor]

/-! ## A message that opens an entry -/

theorem report_opens_settled (hcls : faultClass kind ≠ 0) (hclear : FaultsClear s) (hb : BelowBucket s source kind detail) (hroom : s.fc.log.length < 4096)
    {l : List Part} (ho : Only l (report s source kind charged pad detail) u) (hl : (FcReg.all.any fun r => l.contains (.fc r)) = false)
    (ht : t = settle u) :
    Only [.sys .wakeDriven, .port .linkState, .fn .pmeStatus, .fn .vecs, .pad .replayOwed, .out] u t ∧
      t.fc.log = s.fc.log ++ [(s.time, faultMsg source kind charged pad detail)] ∧
      t.fc.out = [(0, some (entryOf s source kind charged pad detail))] := by
  have hfc : u.fc = (report s source kind charged pad detail).fc := fc_of_only ho hl
  have hdue : NothingDue u := by
    unfold NothingDue
    rw [hfc]
    exact report_nothingDue hcls hclear hb
  have hs := settle_only_of_nothingDue hdue
  rw [← ht] at hs
  refine ⟨hs, ?_, ?_⟩
  · rw [fc_of_only hs (by decide +kernel), hfc, report_log hcls hclear.1 hroom]
  · rw [fc_of_only hs (by decide +kernel), hfc, report_out hcls hclear.1]

/-! ## What one entry means -/

section
variable {e : OutFault} (hout : t.fc.out = [(0, some e)])
include hout

theorem fatalHolds_single : fatalHolds t = e.holdsGate := by simp [fatalHolds, hout]

theorem outEntry_single (hs : e.source = source) (hk : e.kind = kind) : outEntry t source kind = some (0, e) := by
  have hat : outAt t.fc 0 = some e := by simp [outAt, hout, smGet]
  unfold outEntry
  rw [findOut_single hout hs hk]
  dsimp only
  rw [hat]
  rfl

theorem faultPin_single (hcls : e.cls = 2) : faultPin t = true := by
  have hcount : countOut t.fc 2 = 1 := by simp [countOut, outKeys, smKeys, outAt, smGet, hout, hcls]
  simp [faultPin, hcount]

end

/-! ## The digest state that a fatal fault clears -/

theorem cmpNe_resetCompares (l : List Nat) (s : State) (n : Nat) : (fnAt (l.foldl (fun t k => modFn t k resetCompare) s) n).cmpNe =
    if n ∈ l then 0xFFFFFFFF#32 else (fnAt s n).cmpNe := by
  induction l generalizing s with
  | nil => simp
  | cons k l ih =>
    rw [List.foldl_cons, ih]
    by_cases hl : n ∈ l
    · simp [hl]
    · by_cases hk : n = k
      · subst hk
        rw [if_neg hl, if_pos List.mem_cons_self, fnAt_modFn_self]
        rfl
      · rw [if_neg hl, if_neg (by simp [hl, hk]), fnAt_modFn_other hk]

theorem padOfFn_of_plan (h : t.plan = s.plan) (n : Nat) : padOfFn t n = padOfFn s n := by
  unfold padOfFn padPresent padRec
  rw [h]

theorem cmpNe_clearDigests (s : State) (p : Nat) (hn : n < 65) : (fnAt (clearDigests s p) n).cmpNe =
    if padOfFn s n = some p then 0xFFFFFFFF#32 else (fnAt s n).cmpNe := by
  have hmem : n ∈ fnsOfPad s p ↔ padOfFn s n = some p := by simp [fnsOfPad, hn]
  unfold clearDigests
  rw [cmpNe_resetCompares]
  by_cases h : padOfFn s n = some p
  · rw [if_pos (hmem.mpr h), if_pos h]
  · rw [if_neg (fun hl => h (hmem.mp hl)), if_neg h]
    rfl

theorem padOfFn_lt (h : padOfFn s n = some p) : p < 32 := by
  unfold padOfFn at h
  split at h
  · rw [← Option.some.inj h]
    decide
  · exact List.mem_range.mp (List.mem_of_find?_eq_some h)

theorem cmpNe_clearAllDigests (s : State) (hn : n < 65) : (fnAt (clearAllDigests s) n).cmpNe =
    if (padOfFn s n).isSome then 0xFFFFFFFF#32 else (fnAt s n).cmpNe := by
  have hplan : ∀ (t : State) (x : Nat), t.plan = s.plan → (clearDigests t x).plan = s.plan := fun t x h =>
    (plan_of_only (clearDigests_only t x) (by decide +kernel)).trans h
  cases hp : padOfFn s n with
  | some p =>
    rw [Option.isSome_some, if_pos rfl]
    refine foldl_reaches (f := clearDigests) (I := fun t => t.plan = s.plan) (P := fun t => t.plan = s.plan ∧ (fnAt t n).cmpNe = 0xFFFFFFFF#32)
      (List.mem_range.mpr (padOfFn_lt hp)) (fun t x _ h => hplan t x h) (fun t x _ h => ⟨hplan t x h.1, ?_⟩) (fun t h => ⟨hplan t p h, ?_⟩) rfl |>.2
    · rw [cmpNe_clearDigests _ _ hn, h.2, ite_self]
    · rw [cmpNe_clearDigests _ _ hn, padOfFn_of_plan h, if_pos hp]
  | none =>
    rw [Option.isSome_none, if_neg (by simp)]
    refine foldl_keeps (P := fun t => t.plan = s.plan ∧ (fnAt t n).cmpNe = (fnAt s n).cmpNe) (List.range 32) (f := clearDigests)
      (fun t x _ h => ⟨hplan t x h.1, ?_⟩) ⟨rfl, rfl⟩ |>.2
    rw [cmpNe_clearDigests _ _ hn, padOfFn_of_plan h.1, if_neg (by simp [hp]), h.2]

theorem cmpNe_report (hcls : faultClass kind = 2) (hn : n < 65) : (fnAt (report s source kind charged pad detail) n).cmpNe =
    if (padOfFn s n).isSome then 0xFFFFFFFF#32 else (fnAt s n).cmpNe := by
  have hcleared : ∀ c : Faults, (fnAt (clearAllDigests (aer (openEntry { s with fc := c } source kind charged pad detail) 0 2)) n).cmpNe =
      if (padOfFn s n).isSome then 0xFFFFFFFF#32 else (fnAt s n).cmpNe := fun c => by
    have ho : Only [.sys .wakeDriven, .port .linkState, .fn .pmeStatus, .fn .vecs, .fn .cfg, .fc .out, .fc .escNow, .out] { s with fc := c }
        (aer (openEntry { s with fc := c } source kind charged pad detail) 0 2) :=
      Only.then (aer_only ..) (by decide +kernel) ((openEntry_only ..).mono (by decide +kernel))
    have hplan : (aer (openEntry { s with fc := c } source kind charged pad detail) 0 2).plan = s.plan :=
      plan_of_only (s := { s with fc := c }) ho (by decide +kernel)
    rw [cmpNe_clearAllDigests _ hn, padOfFn_of_plan hplan, ho.same (.fn .cmpNe) (by decide +kernel) n]
    rfl
  have h0 : (2 == 0) = false := rfl
  have h2 : (2 == 2) = true := rfl
  unfold report
  dsimp only
  rw [hcls, h0, h2, if_neg Bool.false_ne_true, if_neg Bool.false_ne_true, if_pos rfl]
  exact hcleared _

end

end Sys2Proof.FaultMessages
end

section
/-! PROOF. The fault collector (R440 to R455, Tables 20.1 to 20.12; O56). -/

namespace Sys2Proof.FaultMessages

open Sys2Proof Sys2Proof.Machine Sys2Proof.Claims Sys2Proof.Frames Sys2Proof.Holding Sys2Proof.PadReset Sys2Proof.Compare Sys2Proof.Reports
  Sys2Proof.BootWaits Sys2Proof.Transitions

section
variable {s t u : State} {fn n p i source kind pad detail : Nat} {charged : Bool} {e : OutFault} {m : W64}

/-! ## Messages by kind -/

theorem correctedKinds : ∀ k ∈ ([0x01, 0x04, 0x10, 0x1D, 0x27] : List Nat), faultClass k = 0 ∧ k ≠ 0x25 ∧ k ∉ [0x17, 0x18, 0x19, 0x1A, 0x22, 0x23, 0x24] ∧
    k ∉ actingKinds ∧ unsoundKind k = false ∧ k ≠ 0x0A ∧ k ≠ 0x0B ∧ k ≠ 0x02 ∧ k ≠ 0x03 := by decide

theorem fatalKinds : ∀ k ∈ ([0x13, 0x14, 0x26] : List Nat), faultClass k = 2 ∧ k ≠ 0x18 ∧ k ∉ [0x17, 0x18, 0x19, 0x1A, 0x22, 0x23, 0x24] ∧
    k ∉ actingKinds ∧ unsoundKind k = false ∧ k ≠ 0x0A ∧ k ≠ 0x0B ∧ k ≠ 0x02 ∧ k ≠ 0x03 := by decide

theorem unsoundKinds (h : unsoundKind kind = true) : kind ∉ [0x17, 0x18, 0x19, 0x1A, 0x22, 0x23, 0x24] := by
  have hall : ∀ k ∈ ([0x02, 0x03, 0x05, 0x06, 0x07, 0x08, 0x09, 0x0C, 0x0D] : List Nat), k ∉ [0x17, 0x18, 0x19, 0x1A, 0x22, 0x23, 0x24] := by decide
  exact hall kind (of_decide_eq_true h)

theorem belowBucket_of_eight (h : ∀ lim, bucketRule source kind = some lim → smGet 0 s.fc.buckets (bucketKey source detail) + 8 < lim) :
    BelowBucket s source kind detail := fun lim hlim => by
  have hlt := h lim hlim
  split <;> omega

theorem faultReport_corrected (hflush : s.en.flushActive = false) (hdue : NothingDue s) (hb : BelowBucket s source kind detail) (hroom : s.fc.log.length < 4096)
    (hk : kind ∈ ([0x01, 0x04, 0x10, 0x1D, 0x27] : List Nat)) (ht : t = settle (takeFault s source kind charged pad detail)) :
    t.fc.log = s.fc.log ++ [(s.time, faultMsg source kind charged pad detail)] ∧ t.fc.out = s.fc.out ∧
      smGet 0 t.fc.corrected source = smGet 0 s.fc.corrected source + 1 ∧ t.jobs = s.jobs := by
  obtain ⟨hcls, h25, hplain, hact, hun, ha, hb', h2, h3⟩ := correctedKinds kind hk
  rw [takeFault_plain hflush hplain, raiseFault, faultAction_inert hact (fun _ => ⟨hun, ha, hb'⟩) ⟨h2, h3⟩] at ht
  exact report_corrected_settled hcls h25 hdue hb hroom ht

theorem faultReport_fatal (hflush : s.en.flushActive = false) (hclear : FaultsClear s) (hb : BelowBucket s source kind detail) (hroom : s.fc.log.length < 4096)
    (hk : kind ∈ ([0x13, 0x14, 0x26] : List Nat)) (ht : t = settle (takeFault s source kind charged pad detail)) :
    t.fc.log = s.fc.log ++ [(s.time, faultMsg source kind charged pad detail)] ∧ fatalHolds t = true ∧ faultPin t = true ∧
      (∃ e, outEntry t source kind = some (0, e) ∧ e.deadline = some (s.time + s.plan.esc.fatalUs * 1000) ∧ e.acked = false) ∧
      ∀ n < 65, (fnAt t n).cmpNe = if (padOfFn s n).isSome then 0xFFFFFFFF#32 else (fnAt s n).cmpNe := by
  obtain ⟨hcls, h18, hplain, hact, hun, ha, hb', h2, h3⟩ := fatalKinds kind hk
  rw [takeFault_plain hflush hplain, raiseFault, faultAction_inert hact (fun _ => ⟨hun, ha, hb'⟩) ⟨h2, h3⟩] at ht
  obtain ⟨hs, hlog, hout⟩ := report_opens_settled (by omega) hclear hb hroom (Only.refl [] _) rfl ht
  have hdeadline : (entryOf s source kind charged pad detail).deadline = some (s.time + s.plan.esc.fatalUs * 1000) := by
    have hne : (kind == 0x18) = false := beq_eq_false_iff_ne.mpr h18
    unfold entryOf escalationNs
    simp only [hne, hcls]
    rfl
  have hholds : (entryOf s source kind charged pad detail).holdsGate = true := by simp [entryOf, hcls]
  refine ⟨hlog, (fatalHolds_single hout).trans hholds, faultPin_single hout (by simp [entryOf, hcls]), ⟨_, outEntry_single hout rfl rfl, hdeadline, rfl⟩,
    fun n hn => ?_⟩
  rw [hs.same (.fn .cmpNe) (by decide +kernel) n]
  exact cmpNe_report hcls hn

theorem makeUnsound_only (s : State) (n : Nat) : Only (Part.finishJob ++ [.stall .unsound]) s (makeUnsound s n) :=
  modSt_in (Stall.set_unsound (by decide +kernel) (StallReg.refl _ _)) ((stallFail_only s n).mono (by decide +kernel))

theorem faultAction_unsound (hstall : source < 0x34) (hun : unsoundKind kind = true) :
    Only (Part.finishJob ++ [.stall .unsound, .stall .ucodeOk]) s (faultAction s source kind detail) ∧ (stAt (faultAction s source kind detail) source).unsound = true := by
  have hmark : (stAt (makeUnsound s source) source).unsound = true := by
    unfold makeUnsound
    rw [stAt_modSt_self]
  unfold faultAction
  rw [if_pos hstall, if_pos hun]
  dsimp only
  split
  · refine ⟨modSt_in (Stall.set_ucodeOk (by decide +kernel) (StallReg.refl _ _)) ((makeUnsound_only s source).mono (by decide +kernel)), ?_⟩
    rw [stAt_modSt_self]
    exact hmark
  · exact ⟨(makeUnsound_only s source).mono (by decide +kernel), hmark⟩

theorem faultReport_unsound (hflush : s.en.flushActive = false) (hclear : FaultsClear s) (hb : BelowBucket s source kind detail) (hroom : s.fc.log.length < 4096)
    (hstall : source < 0x34) (hun : unsoundKind kind = true) (hcls : faultClass kind = 1) (ht : t = settle (takeFault s source kind charged pad detail)) :
    (stAt t source).unsound = true ∧ (findOut t.fc source kind).isSome = true ∧ fatalHolds t = false := by
  rw [takeFault_plain hflush (unsoundKinds hun), raiseFault] at ht
  obtain ⟨ho, hmark⟩ := faultAction_unsound (s := report s source kind charged pad detail) (detail := detail) hstall hun
  obtain ⟨hs, -, hout⟩ := report_opens_settled (by omega) hclear hb hroom ho (by decide +kernel) ht
  refine ⟨(hs.same (.stall .unsound) (by decide +kernel) source).trans hmark, ?_, (fatalHolds_single hout).trans (by simp [entryOf, hcls])⟩
  rw [findOut_single (source := source) (kind := kind) hout rfl rfl]
  rfl

/-! ## Buckets leak -/

theorem bucketLeak_leaks (hwf : smWf 0 s.fc.buckets = true) : ∃ t, exec (.bucketLeak source) s = .next t ∧ t.fc.out = s.fc.out ∧
    ∀ k, smGet 0 t.fc.buckets k = if k % 1024 = source then smGet 0 s.fc.buckets k - 1 else smGet 0 s.fc.buckets k :=
  ⟨_, rfl, rfl, fun k => smGet_smMap (f := fun k n => if k % 1024 = source then n - 1 else n) (fun k => by simp) k hwf⟩

/-! ## Timers end -/

theorem timer_runs {e : OutFault} (hack : e.acked = false) (hesc : e.escalated = false) (hdl : e.deadline.isSome = true) :
    ¬(e.acked || e.escalated || e.deadline.isNone) = true := by
  obtain ⟨d, hd⟩ := Option.isSome_iff_exists.mp hdl
  simp [hack, hesc, hd]

section
variable (he : outEntry s source kind = some (i, e))
include he

theorem outAt_of_outEntry : outAt s.fc i = some e := by
  unfold outEntry at he
  split at he
  · simp at he
  next k hk =>
    cases hat : outAt s.fc k with
    | none => simp [hat] at he
    | some x =>
      rw [hat] at he
      obtain ⟨rfl, rfl⟩ := Prod.mk.inj (Option.some.inj he)
      exact hat

theorem exec_escalationExpiry : exec (.escalationExpiry source kind) s = .next (if e.acked || e.escalated || e.deadline.isNone then s
    else if s.en.flushActive then { s with fc := { s.fc with heldExpiry := s.fc.heldExpiry.filter (· != (source, kind)) ++ [(source, kind)] } }
    else settle (escalateUnit (modOut s i fun x => { x with escalated := true, deadline := none }) source kind e.charged e.paddock e.detail)) := by
  show Host.Outcome.next (match outEntry s source kind with
    | none => s
    | some (i, e) => _) = _
  rw [he]

theorem escalation_over (h : e.acked = true ∨ e.escalated = true ∨ e.deadline = none) : exec (.escalationExpiry source kind) s = .next s := by
  rw [exec_escalationExpiry he, if_pos]
  rcases h with h | h | h <;> simp [h]

section
variable (hack : e.acked = false) (hesc : e.escalated = false) (hdl : e.deadline.isSome = true)
include hack hesc hdl

theorem escalation_waits (hflush : s.en.flushActive = true) : ∃ t, exec (.escalationExpiry source kind) s = .next t ∧ (source, kind) ∈ t.fc.heldExpiry ∧
    t.fc.out = s.fc.out := by
  rw [exec_escalationExpiry he, if_neg (timer_runs hack hesc hdl), if_pos hflush]
  exact ⟨_, rfl, List.mem_append_right _ List.mem_cons_self, rfl⟩

theorem escalation_acts (hflush : s.en.flushActive = false) : exec (.escalationExpiry source kind) s =
    .next (settle (escalateUnit (modOut s i fun x => { x with escalated := true, deadline := none }) source kind e.charged e.paddock e.detail)) := by
  rw [exec_escalationExpiry he, if_neg (timer_runs hack hesc hdl), if_neg (by simp [hflush])]

end

end

/-- A stall as its retirement leaves it. -/
def retiredStall (x : Stall) : Stall :=
  { x with state := 5, jobs := [], tree := none, sequ := {}, operand := [], unsound := false, inPool := false, dedicated := none, reservedFor := none, reqClaim := false }

theorem state_retireStall (s : State) (n : Nat) : (stAt (retireStall s n) n).state = 5 := by
  unfold retireStall
  split
  · assumption
  dsimp only
  rw [(sweepKind_only ..).same (.stall .state) (by decide +kernel) n, (evalDegraded_only ..).same (.stall .state) (by decide +kernel) n]
  have hret : (stAt (sourceEnds (recordRetired (modSt (clearReset (stallFail s n) n) n retiredStall) n) n) n).state = 5 := by
    rw [(sourceEnds_only ..).same (.stall .state) (by decide +kernel) n, (recordRetired_only ..).same (.stall .state) (by decide +kernel) n, stAt_modSt_self]
    rfl
  have hspare : ∀ (v : State) (k p : Nat), (stAt v n).state = 5 →
      (stAt (modSt v k fun x => { x with inPool := false, dedicated := some p, spare := true, dirty := true, muckAtWake := true }) n).state = 5 := fun v k p h => by
    rw [modSt, stAt_putSt]
    split
    case isTrue hk => exact hk ▸ h
    case isFalse => exact h
  have hclaimed : ∀ v : State, (stAt v n).state = 5 →
      (stAt (if v.fc.claimed == some n then { v with fc := { v.fc with claimed := none, testing := false } } else v) n).state = 5 := fun v h => by
    split
    · exact h
    · exact h
  refine hclaimed _ ?_
  split
  · exact hret
  split
  · exact hret
  · exact hspare _ _ _ hret

theorem escalation_retires (he : outEntry s source kind = some (i, e)) (hack : e.acked = false) (hesc : e.escalated = false) (hdl : e.deadline.isSome = true)
    (hflush : s.en.flushActive = false) (hdue : NothingDue s) (hcls : faultClass kind ≠ 2) (hstall : source < 0x34) :
    ∃ t, exec (.escalationExpiry source kind) s = .next t ∧ (stAt t source).state = 5 := by
  have hexec := escalation_acts he hack hesc hdl hflush
  have hout := modOut_only s i fun x => { x with escalated := true, deadline := none }
  generalize modOut s i _ = v at hexec hout
  have hrow : rowSource source = false := by
    simp only [rowSource, List.mem_cons, List.not_mem_nil, or_false, Bool.or_eq_false_iff, decide_eq_false_iff_not, Bool.and_eq_false_iff]
    omega
  have hunit : escalateUnit v source kind e.charged e.paddock e.detail = retireStall v source := by
    refine (if_neg hcls).trans ((if_neg (by omega)).trans ((if_neg (by simp [hrow])).trans ?_))
    exact if_pos hstall
  rw [hunit] at hexec
  have hdue' : NothingDue v := nothingDue_of_only hdue hout (by decide +kernel) (by decide +kernel)
  have hs := settle_only_of_nothingDue (nothingDue_of_only hdue' (retireStall_only v source) (by decide +kernel) (by decide +kernel))
  exact ⟨_, hexec, (hs.same (.stall .state) (by decide +kernel) source).trans (state_retireStall v source)⟩

/-- The causes a warm reset records, before what it stops. -/
theorem warmStop_causes (s : State) : (warmStop s 1).sys.causeWarmFatal = true ∧ (warmStop s 1).sys.causeCold = false := by
  have hcause : (warmCause (dropWriting { s with jn := { s.jn with opened := false } }) 1).sys.causeWarmFatal = true ∧
      (warmCause (dropWriting { s with jn := { s.jn with opened := false } }) 1).sys.causeCold = false := ⟨Bool.or_true _, rfl⟩
  unfold warmStop
  dsimp only
  generalize warmCause _ 1 = w at hcause ⊢
  rw [if_neg (by decide)]
  have hswap := abandonSwap_only w 0x20
  have hab := abandonTransition_only (abandonSwap w 0x20)
  have hraw := endRaw_only (abandonTransition (abandonSwap w 0x20))
  have hses := endSession_only (endRaw (abandonTransition (abandonSwap w 0x20)))
  have htest := endTests_only (endSession (endRaw (abandonTransition (abandonSwap w 0x20))))
  have hclear := clearAllDigests_only (endTests (endSession (endRaw (abandonTransition (abandonSwap w 0x20)))))
  have hsys : (clearAllDigests (endTests (endSession (endRaw (abandonTransition (abandonSwap w 0x20)))))).sys = w.sys := by
    rw [sys_of_only hclear (by decide +kernel), sys_of_only htest (by decide +kernel), sys_of_only hses (by decide +kernel), sys_of_only hraw (by decide +kernel),
      sys_of_only hab (by decide +kernel), sys_of_only hswap (by decide +kernel)]
  generalize clearAllDigests _ = c at hsys ⊢
  have hstall := reset_only c
  generalize (List.range 52).foldl resetStall c = d at hstall ⊢
  have hcores : Only [.sys .wakeDriven, .port .linkState, .fn .pmeStatus, .fn .vecs, .pad .extendLost, .core .state, .core .w, .core .pc, .core .waiting,
      .core .loading, .out] d ((List.range 16).foldl stopCore d) := Only.foldl (List.range 16) (fun t n => stopCore_only t n) (Only.refl _ _)
  obtain ⟨hfatal, hcold⟩ := hcause
  refine ⟨?_, ?_⟩
  · rw [hcores.same (.sys .causeWarmFatal) (by decide +kernel), hstall.same (.sys .causeWarmFatal) (by decide +kernel), hsys]
    exact hfatal
  · rw [hcores.same (.sys .causeCold) (by decide +kernel), hstall.same (.sys .causeCold) (by decide +kernel), hsys]
    exact hcold

theorem escalation_warmResets (he : outEntry s source kind = some (i, e)) (hack : e.acked = false) (hesc : e.escalated = false) (hdl : e.deadline.isSome = true)
    (hflush : s.en.flushActive = false) (hdue : NothingDue s) (hcls : faultClass kind = 2) (h18 : kind ≠ 0x18) (hboot : s.sys.bootState = 1)
    (hawake : s.sys.deepSleep = false) :
    ∃ t, exec (.escalationExpiry source kind) s = .next t ∧ t.sys.causeWarmFatal = true ∧ t.sys.causeCold = false := by
  have hexec := escalation_acts he hack hesc hdl hflush
  have hout := modOut_only s i fun x => { x with escalated := true, deadline := none }
  generalize modOut s i _ = v at hexec hout
  have hv : v.sys = s.sys := sys_of_only hout (by decide +kernel)
  have hve : v.en = s.en := en_of_only hout (by decide +kernel)
  have hdue' : NothingDue v := nothingDue_of_only hdue hout (by decide +kernel) (by decide +kernel)
  have hreset : warmReset v 1 = warmRestart (warmStop v 1) 1 := by
    refine (if_pos (by rw [hv, hboot])).trans (if_neg ?_)
    rw [hv, hve, hawake, hflush]
    simp
  have hunit : escalateUnit v source kind e.charged e.paddock e.detail = warmReset v 1 := (if_pos hcls).trans (if_neg h18)
  rw [hunit] at hexec
  have hs := settle_only_of_nothingDue (nothingDue_of_only hdue' (warmReset_only v 1) (by decide +kernel) (by decide +kernel))
  have hrestart := warmRestart_only (warmStop v 1) 1
  obtain ⟨hfatal, hcold⟩ := warmStop_causes v
  refine ⟨_, hexec, ?_, ?_⟩
  · rw [hs.same (.sys .causeWarmFatal) (by decide +kernel), hreset, hrestart.same (.sys .causeWarmFatal) (by decide +kernel), hfatal]
  · rw [hs.same (.sys .causeCold) (by decide +kernel), hreset, hrestart.same (.sys .causeCold) (by decide +kernel), hcold]

/-! ## ACK and CLEAR -/

theorem fcValue_fields (hsrc : source < 1024) (hkind : kind < 64) {cmd : Nat} (hcmd : cmd < 16) :
    bits (BitVec.ofNat 64 (source + kind * 2 ^ 10 + cmd * 2 ^ 16)).toNat 16 4 = cmd ∧
      bits (BitVec.ofNat 64 (source + kind * 2 ^ 10 + cmd * 2 ^ 16)).toNat 0 10 = source ∧
      bits (BitVec.ofNat 64 (source + kind * 2 ^ 10 + cmd * 2 ^ 16)).toNat 10 6 = kind := by
  simp only [bits, BitVec.toNat_ofNat, Nat.reducePow]
  omega

theorem fcCommand_heard (hat : HostAt s fn p) (hsrc : source < 1024) (hkind : kind < 64) {cmd : Nat} (hcmd : cmd < 16)
    (f : State → Nat → Nat → Nat → Nat → State) : fcCommand s fn (BitVec.ofNat 64 (source + kind * 2 ^ 10 + cmd * 2 ^ 16)) cmd f = f s fn p source kind := by
  obtain ⟨hup, hp⟩ := hat
  obtain ⟨h1, h2, h3⟩ := fcValue_fields hsrc hkind hcmd
  unfold fcCommand
  rw [h1, h2, h3, if_pos (by simp [hup]), hp]

theorem acknowledge_none (h : outEntry s source kind = none) : acknowledge s fn p source kind = fcAnswer s fn 1 ∧ clearFault s fn p source kind = fcAnswer s fn 1 := by
  unfold acknowledge clearFault
  rw [h]
  exact ⟨rfl, rfl⟩

section
variable (he : outEntry s source kind = some (i, e))
include he

theorem acknowledge_eq : acknowledge s fn p source kind = if !mayAnswer p e then fcAnswer s fn 1
    else if timerPast s e then fcAnswer s fn 2
    else
      let s1 := fcAnswer (modOut s i fun x => { x with acked := true, deadline := none }) fn 0
      if source < 0x34 ∧ s1.fc.ahead.contains source = false then { s1 with fc := { s1.fc with ahead := s1.fc.ahead ++ [source] } } else s1 := by
  unfold acknowledge
  rw [he]

theorem clearFault_eq : clearFault s fn p source kind = if !mayAnswer p e then fcAnswer s fn 1
    else if !(e.acked || e.escalated) then fcAnswer s fn 4
    else if e.live then fcAnswer s fn 3
    else fcAnswer { s with fc := { s.fc with out := smSet none s.fc.out i none } } fn 0 := by
  unfold clearFault
  rw [he]

theorem acknowledge_barred (hm : mayAnswer p e = false) : acknowledge s fn p source kind = fcAnswer s fn 1 ∧ clearFault s fn p source kind = fcAnswer s fn 1 := by
  rw [acknowledge_eq he, clearFault_eq he, if_pos (by simp [hm]), if_pos (by simp [hm])]
  exact ⟨rfl, rfl⟩

theorem acknowledge_late (hm : mayAnswer p e = true) (ht : timerPast s e = true) : acknowledge s fn p source kind = fcAnswer s fn 2 := by
  rw [acknowledge_eq he, if_neg (by simp [hm]), if_pos ht]

/-- The entry acknowledged, its timer stopped. -/
theorem outAt_acked : outAt (modOut s i fun x => { x with acked := true, deadline := none }).fc i = some { e with acked := true, deadline := none } := by
  have hat := outAt_of_outEntry he
  show smGet none (smSet none s.fc.out i ((outAt s.fc i).map fun x => { x with acked := true, deadline := none })) i = _
  rw [smGet_smSet_self, hat]
  rfl

theorem acknowledge_answers (hm : mayAnswer p e = true) (ht : timerPast s e = false) : (fnAt (acknowledge s fn p source kind) fn).fcResult = 0 ∧
    outAt (acknowledge s fn p source kind).fc i = some { e with acked := true, deadline := none } ∧
    (source < 0x34 → source ∈ (acknowledge s fn p source kind).fc.ahead) := by
  have hacked := outAt_acked he
  have hanswer : ∀ v : State, (fnAt (fcAnswer v fn 0) fn).fcResult = 0 := fun v => by
    unfold fcAnswer
    rw [fnAt_modFn_self]
  rw [acknowledge_eq he, if_neg (by simp [hm]), if_neg (by simp [ht])]
  dsimp only
  split
  · exact ⟨hanswer _, hacked, fun _ => List.mem_append_right _ List.mem_cons_self⟩
  next hahead =>
    refine ⟨hanswer _, hacked, fun hstall => ?_⟩
    by_contra hno
    exact hahead ⟨hstall, by simpa using hno⟩

theorem clear_unanswered (hm : mayAnswer p e = true) (hack : e.acked = false) (hesc : e.escalated = false) : clearFault s fn p source kind = fcAnswer s fn 4 := by
  rw [clearFault_eq he, if_neg (by simp [hm]), if_pos (by simp [hack, hesc])]

theorem clear_live (hm : mayAnswer p e = true) (h : e.acked = true ∨ e.escalated = true) (hl : e.live = true) : clearFault s fn p source kind = fcAnswer s fn 3 := by
  rw [clearFault_eq he, if_neg (by simp [hm]), if_neg (by rcases h with h | h <;> simp [h]), if_pos hl]

theorem clear_clears (hm : mayAnswer p e = true) (h : e.acked = true ∨ e.escalated = true) (hl : e.live = false) :
    (fnAt (clearFault s fn p source kind) fn).fcResult = 0 ∧ outAt (clearFault s fn p source kind).fc i = none ∧
      ∀ k, k ≠ i → outAt (clearFault s fn p source kind).fc k = outAt s.fc k := by
  rw [clearFault_eq he, if_neg (by simp [hm]), if_neg (by rcases h with h | h <;> simp [h]), if_neg (by simp [hl])]
  refine ⟨?_, ?_, fun k hk => ?_⟩
  · unfold fcAnswer
    rw [fnAt_modFn_self]
  · show smGet none (smSet none s.fc.out i none) i = none
    exact smGet_smSet_self ..
  · show smGet none (smSet none s.fc.out i none) k = _
    exact (smGet_smSet ..).trans (if_neg hk)

end

/-! ## The logs -/

theorem faultLog_reads {x : Nat × Nat} {r : List (Nat × Nat)} (hup : regsUp s fn = true) (h0 : fn = 0) (hlog : s.fc.log = x :: r) : exec (.faultLogRead fn) s =
    .next (reply { s with fc := { s.fc with log := r, overflowed := s.fc.overflowed && !r.isEmpty } } fn (leBytes 8 x.2)) := by
  refine congrArg Host.Outcome.next ((if_neg (by simp [hup])).trans ?_)
  rw [if_pos h0, hlog]

theorem faultLog_empty (hup : regsUp s fn = true) (h : fn ≠ 0 ∨ s.fc.log = []) : exec (.faultLogRead fn) s = .next (reply s fn (zeros 8)) := by
  have hnone : (if fn = 0 then s.fc.log else []) = [] := by
    rcases h with h | h <;> simp [h]
  refine congrArg Host.Outcome.next ((if_neg (by simp [hup])).trans ?_)
  rw [hnone]

theorem faultLog_appends (hwp : s.hl.wpReleased = true) (hflush : s.en.flushActive = false) (hhl : s.hl.failed0 = false ∨ s.hl.failed1 = false)
    (hroom : s.hl.faultLog.length + s.fc.toLog.length + s.fc.corrected.length ≤ 262144) : ∃ t, exec .faultLogAppend s = .next t ∧ t.fc.toLog = [] ∧
      t.fc.corrected = [] ∧ t.hl.faultLog = s.hl.faultLog ++ s.fc.toLog ++ s.fc.corrected.map fun e => (s.time, 2, e.1 * 2 ^ 32 + e.2) := by
  have hcond : (s.hl.wpReleased && !s.en.flushActive && !(s.hl.failed0 && s.hl.failed1)) = true := by
    rcases hhl with h | h <;> simp [hwp, hflush, h]
  refine ⟨_, congrArg Host.Outcome.next (if_pos hcond), rfl, rfl, ?_⟩
  have hkeeps : ∀ (l : List (Nat × Nat × Nat)) (n : Nat), l.length ≤ n → l.drop (l.length - n) = l := fun l n h => by
    rw [Nat.sub_eq_zero_of_le h, List.drop_zero]
  have happ : (appendFaults s (s.fc.toLog ++ s.fc.corrected.map fun e => (s.time, 2, e.1 * 2 ^ 32 + e.2))).hl.faultLog =
      s.hl.faultLog ++ (s.fc.toLog ++ s.fc.corrected.map fun e => (s.time, 2, e.1 * 2 ^ 32 + e.2)) := by
    unfold appendFaults
    dsimp only
    refine hkeeps _ _ ?_
    simp only [List.length_append, List.length_map]
    omega
  exact happ.trans (List.append_assoc ..).symm

end

/-- Settles O56: below the thresholds of the buckets a message reaches its entry, its log and its unit, and nothing is due when the command settles. -/
theorem faultCollector : Obligations.FaultCollector := by
  unfold Obligations.FaultCollector
  intro s
  refine ⟨fun m hporst hawake hflush hsent hcalm hclear hroom => ?_, fun source hwf => bucketLeak_leaks hwf, fun source kind i e he => ?_,
    fun fn p source kind hat hsrc hkind => ?_, fun fn hup => ⟨fun e r => faultLog_reads hup, faultLog_empty hup⟩, faultLog_appends⟩
  · intro src kind hlim
    have hmsg := faultMsg_fields m.isLt hsent
    have hexec := exec_faultReport hporst hawake hsent
    have hb : BelowBucket s src kind (bits m.toNat 0 40) := belowBucket_of_eight hlim
    refine ⟨fun hk => ?_, fun hk => ?_, fun hstall hun hcls => ?_⟩
    · obtain ⟨h1, h2, h3, h4⟩ := faultReport_corrected hflush hcalm.1 hb hroom hk rfl
      rw [hmsg] at h1
      exact ⟨_, hexec, h1, h2.trans hclear.1, h3, h4⟩
    · obtain ⟨h1, h2⟩ := faultReport_fatal hflush hclear hb hroom hk rfl
      rw [hmsg] at h1
      exact ⟨_, hexec, h1, h2⟩
    · exact ⟨_, hexec, faultReport_unsound hflush hclear hb hroom hstall hun hcls rfl⟩
  · exact ⟨escalation_over he, fun hack hesc hdl => ⟨escalation_waits he hack hesc hdl, fun hflush hdue =>
      ⟨escalation_retires he hack hesc hdl hflush hdue, escalation_warmResets he hack hesc hdl hflush hdue⟩⟩⟩
  · have hack : exec (.fcAck fn (BitVec.ofNat 64 (source + kind * 2 ^ 10 + 1 * 2 ^ 16))) s = .next (acknowledge s fn p source kind) :=
      congrArg Host.Outcome.next (fcCommand_heard hat hsrc hkind (by decide) acknowledge)
    have hclear : exec (.fcClear fn (BitVec.ofNat 64 (source + kind * 2 ^ 10 + 2 * 2 ^ 16))) s = .next (clearFault s fn p source kind) :=
      congrArg Host.Outcome.next (fcCommand_heard hat hsrc hkind (by decide) clearFault)
    dsimp only
    rw [hack, hclear]
    refine ⟨fun h => ?_, fun i e he => ⟨fun hm => ?_, fun hm => ⟨fun ht => ?_, fun ht => ⟨_, rfl, acknowledge_answers he hm ht⟩, fun ha hesc => ?_, fun h hl => ?_,
      fun h hl => ⟨_, rfl, clear_clears he hm h hl⟩⟩⟩⟩
    · obtain ⟨h1, h2⟩ := acknowledge_none (fn := fn) (p := p) h
      rw [h1, h2]
      exact ⟨rfl, rfl⟩
    · obtain ⟨h1, h2⟩ := acknowledge_barred (fn := fn) he hm
      rw [h1, h2]
      exact ⟨rfl, rfl⟩
    · rw [acknowledge_late he hm ht]
    · rw [clear_unanswered he hm ha hesc]
    · rw [clear_live he hm h hl]

end Sys2Proof.FaultMessages
end

section
/-! PROOF. Blocks and targets of the hayloft: reads, retirement, wear, failure (R462, R471 to R474, Table 21.2; O57). -/

namespace Sys2Proof.HayloftBlocks

open Sys2Proof Sys2Proof.Machine Sys2Proof.Claims Sys2Proof.Frames Sys2Proof.Holding Sys2Proof.PadReset Sys2Proof.Reports Sys2Proof.BootWaits
  Sys2Proof.FaultMessages Sys2Proof.HostReads

section
variable {s t u : State} {n b c k cor kind detail : Nat} {bad : Bool} {lost : Option Nat}

/-! ## Blocks and targets as tables -/

theorem blockAt_modBlock (s : State) (k j : Nat) (f : NBlock → NBlock) :
    blockAt (modBlock s k f) j = if j = k then f (blockAt s k) else blockAt s j := smGet_smMod ..

theorem blockAt_modBlock_self (s : State) (k : Nat) (f : NBlock → NBlock) : blockAt (modBlock s k f) k = f (blockAt s k) :=
  (blockAt_modBlock ..).trans (if_pos rfl)

theorem targetAt_modTarget (s : State) (n m : Nat) (f : Target → Target) :
    targetAt (modTarget s n f) m = if m = n then f (targetAt s n) else targetAt s m := smGet_smMod ..

theorem targetAt_modTarget_self (s : State) (n : Nat) (f : Target → Target) : targetAt (modTarget s n f) n = f (targetAt s n) :=
  (targetAt_modTarget ..).trans (if_pos rfl)

theorem blockAt_of_only {l : List Part} (h : Only l s t) (hl : Part.hl .blocks ∉ l) (k : Nat) : blockAt t k = blockAt s k := by
  rw [blockAt, blockAt, h.same (.hl .blocks) hl]

theorem targetAt_of_only {l : List Part} (h : Only l s t) (hl : Part.hl .targets ∉ l) (n : Nat) : targetAt t n = targetAt s n := by
  rw [targetAt, targetAt, h.same (.hl .targets) hl]

theorem objAt_of_only {l : List Part} (h : Only l s t) (hl : Part.hl .objs ∉ l) (o : Nat) : objAt t o = objAt s o := by
  rw [objAt, objAt, h.same (.hl .objs) hl]

theorem target_blockKey (h : b < 65536) : blockKey n b / 65536 = n := by
  unfold blockKey
  omega

/-! ## The block the pool gives -/

theorem mem_of_leastWorn {l : List Nat} (h : leastWorn s l = some k) : k ∈ l := by
  cases l with
  | nil => simp [leastWorn] at h
  | cons a l =>
    have hfold : ∀ (r : List Nat) (m : Nat), r.foldl (fun m x => if (blockAt s x).erase < (blockAt s m).erase then x else m) m ∈ m :: r := fun r => by
      induction r with
      | nil => simp
      | cons x r ih =>
        intro m
        rw [List.foldl_cons]
        have hpick : (if (blockAt s x).erase < (blockAt s m).erase then x else m) ∈ [m, x] := by split <;> simp
        rcases List.mem_cons.mp (ih (if (blockAt s x).erase < (blockAt s m).erase then x else m)) with he | hr
        · rw [he]
          exact (List.sublist_append_left [m, x] r).mem hpick
        · exact List.mem_cons_of_mem _ (List.mem_cons_of_mem _ hr)
    exact Option.some.inj h ▸ hfold l a

theorem of_leastWorn {f : NBlock → Bool} (h : leastWorn s (channelBlocks s c f) = some k) : f (blockAt s k) = true := by
  have hk := mem_of_leastWorn h
  unfold channelBlocks at hk
  obtain ⟨_, -, hk⟩ := List.mem_flatMap.mp hk
  exact (Bool.and_eq_true_iff.mp (List.mem_filter.mp hk).2).2

/-- Only an erased block is filled. -/
theorem blockAt_fillFresh (h : (blockAt s k).erased = false) : blockAt (fillFresh s c) k = blockAt s k := by
  unfold fillFresh
  split
  · rfl
  next j hj =>
    have herased : (blockAt s j).erased = true := of_leastWorn hj
    refine (blockAt_modBlock ..).trans (if_neg fun hkj => ?_)
    rw [hkj, herased] at h
    exact absurd h (by decide)

theorem blockAt_moveBlock (h : (blockAt s k).erased = false) : blockAt (moveBlock s k) k = { erase := (blockAt s k).erase + 1 } := by
  show blockAt (modBlock (fillFresh s (k / 65536 / 4)) k fun _ => { erase := (blockAt (fillFresh s (k / 65536 / 4)) k).erase + 1 }) k = _
  rw [blockAt_modBlock_self, blockAt_fillFresh h]

/-! ## A block is retired -/

theorem retireBlock_eq (h : (blockAt s k).bad = false) : retireBlock s k = evalSpace (checkChannel (modTarget (modBlock s k fun x => { x with bad := true, erased := false })
    (k / 65536) fun t => { t with badBlocks := satAdd 0xFFFF t.badBlocks 1, spares := t.spares - 1 }) (k / 65536 / 4)) :=
  if_neg (by simp [h])

theorem blockAt_retireBlock (h : (blockAt s k).bad = false) : blockAt (retireBlock s k) k = { blockAt s k with bad := true, erased := false } := by
  rw [retireBlock_eq h, blockAt_of_only (evalSpace_only _) (by decide +kernel), blockAt_of_only (checkChannel_only ..) (by decide +kernel),
    blockAt_of_only (modTarget_only ..) (by decide +kernel), blockAt_modBlock_self]

theorem targetAt_retireBlock (h : (blockAt s k).bad = false) : targetAt (retireBlock s k) (k / 65536) =
    { targetAt s (k / 65536) with badBlocks := satAdd 0xFFFF (targetAt s (k / 65536)).badBlocks 1, spares := (targetAt s (k / 65536)).spares - 1 } := by
  rw [retireBlock_eq h, targetAt_of_only (evalSpace_only _) (by decide +kernel), targetAt_of_only (checkChannel_only ..) (by decide +kernel),
    targetAt_modTarget_self]
  rfl

/-! ## What a target reports -/

theorem targetSource (hn : n < 8) : ¬(0x200 + n < 0x34) ∧ rowSource (0x200 + n) = false := by
  refine ⟨by omega, ?_⟩
  simp only [rowSource, List.mem_cons, List.not_mem_nil, or_false, Bool.or_eq_false_iff, decide_eq_false_iff_not, Bool.and_eq_false_iff]
  omega

theorem belowTarget (hn : n < 8) (h : smGet 0 s.fc.buckets (0x200 + n) + (if faultClass kind == 0 then 1 else 8) < 64) : BelowBucket s (0x200 + n) kind detail := by
  intro lim hlim
  rw [bucketKey, if_neg (by simp [(targetSource hn).2])]
  have hno : ¬(0x200 + n < 0x34) ∧ ¬(0x40 ≤ 0x200 + n ∧ 0x200 + n < 0x50) ∧ ¬(0x180 ≤ 0x200 + n ∧ 0x200 + n < 0x184) ∧
      ¬(0xC0 ≤ 0x200 + n ∧ 0x200 + n < 0xD0) ∧ (0x200 ≤ 0x200 + n ∧ 0x200 + n < 0x208) := by omega
  have hrow : ¬(0x200 + n ∈ [0x80, 0x81] ∨ (0x90 ≤ 0x200 + n ∧ 0x200 + n < 0x98) ∨ 0x200 + n ∈ [0xA0, 0xA8]) := by
    simp only [List.mem_cons, List.not_mem_nil, or_false]
    omega
  obtain ⟨h1, h2, h3, h4, h5⟩ := hno
  unfold bucketRule at hlim
  rw [if_neg h1, if_neg h2, if_neg hrow, if_neg h3, if_neg h4, if_pos h5] at hlim
  split at hlim
  · exact Option.some.inj hlim ▸ h
  · simp at hlim

theorem raiseFault_inert (hn : n < 8) (hk : kind ∉ actingKinds) : raiseFault s (0x200 + n) kind false 0 detail = report s (0x200 + n) kind false 0 detail := by
  obtain ⟨hstall, hrow⟩ := targetSource hn
  exact faultAction_none hstall (by simp [hrow]) hk

theorem report_counts {source pad : Nat} {charged : Bool} (hcls : faultClass kind = 0) (hk : kind ≠ 0x25) (hdue : NothingDue s) (hb : BelowBucket s source kind detail) :
    Only [.sys .wakeDriven, .port .linkState, .fn .pmeStatus, .fn .vecs, .pad .replayOwed, .out] (report s source kind charged pad detail)
      (settle (report s source kind charged pad detail)) ∧
    smGet 0 (settle (report s source kind charged pad detail)).fc.corrected source = smGet 0 s.fc.corrected source + 1 := by
  obtain ⟨hesc, hretire⟩ := hdue
  obtain ⟨-, hesc', hcor⟩ := counted_same (s := s) (source := source) (kind := kind) (charged := charged) (pad := pad) (detail := detail)
  have hdue' : NothingDue (report s source kind charged pad detail) := by
    rw [report_corrected hcls hk]
    exact ⟨hesc'.trans hesc, (retireNow_counted hb).trans hretire⟩
  have hs := settle_only_of_nothingDue hdue'
  refine ⟨hs, ?_⟩
  rw [fc_of_only hs (by decide +kernel), report_corrected hcls hk]
  dsimp only
  rw [smMod, smGet_smSet_self, hcor]

theorem report_opens {source pad : Nat} {charged : Bool} {l : List Part} (hcls : faultClass kind ≠ 0) (hclear : FaultsClear s) (hb : BelowBucket s source kind detail)
    (ho : Only l (report s source kind charged pad detail) u) (hl : (FcReg.all.any fun r => l.contains (.fc r)) = false) :
    Only [.sys .wakeDriven, .port .linkState, .fn .pmeStatus, .fn .vecs, .pad .replayOwed, .out] u (settle u) ∧
      (findOut (settle u).fc source kind).isSome = true := by
  have hfc : u.fc = (report s source kind charged pad detail).fc := fc_of_only ho hl
  have hdue : NothingDue u := by
    unfold NothingDue
    rw [hfc]
    exact report_nothingDue hcls hclear hb
  have hs := settle_only_of_nothingDue hdue
  refine ⟨hs, ?_⟩
  rw [fc_of_only hs (by decide +kernel), hfc, report_findOut hcls hclear.1]
  rfl

/-! ## A read of a block (Table 21.2) -/

theorem blockServes_fields (h : blockServes s n b = true) : n < 8 ∧ (blockAt s (blockKey n b)).bad = false := by
  unfold blockServes at h
  simp only [Bool.and_eq_true, decide_eq_true_eq, Bool.not_eq_true'] at h
  obtain ⟨⟨⟨⟨⟨-, hn⟩, -⟩, hbad⟩, -⟩, -⟩ := h
  exact ⟨hn, hbad⟩

theorem exec_reads (hserves : blockServes s n b = true) (hidle : ∀ e ∈ s.hl.objs, e.2.writing = none) :
    ∀ c ∈ [Instr.nandReadDone n b cor bad lost, Instr.hayloftScrub n b cor bad lost], exec c s = .next (settle (readOutcome s n b cor bad lost)) := by
  intro c hc
  have hnone : (s.hl.objs.any fun e => e.2.writing.isSome) = false := by
    rw [List.any_eq_false]
    intro e he
    simp [hidle e he]
  rcases List.mem_cons.mp hc with rfl | hc
  · exact congrArg Host.Outcome.next (if_pos hserves)
  · obtain rfl := List.mem_singleton.mp hc
    exact congrArg Host.Outcome.next (if_pos (by rw [hserves, hnone]; rfl))

/-- A block as its read leaves it. -/
def readState (s : State) (n b : Nat) : State := modBlock s (blockKey n b) fun x => { x with reads := x.reads + 1, erased := false }

theorem blockAt_readState (s : State) (n b : Nat) : blockAt (readState s n b) (blockKey n b) =
    { blockAt s (blockKey n b) with reads := (blockAt s (blockKey n b)).reads + 1, erased := false } := blockAt_modBlock_self ..

theorem readState_only (s : State) (n b : Nat) : Only [.hl .blocks] s (readState s n b) := modBlock_only ..

theorem read_counted (hcalm : Calm s) (hbad : bad = false) (hcor : cor < 40) : settle (readOutcome s n b cor bad lost) = readState s n b := by
  have hread : readOutcome s n b cor bad lost = readState s n b := by
    unfold readOutcome
    dsimp only
    rw [if_neg (by simp [hbad]; omega), if_neg (by omega)]
    rfl
  rw [hread]
  exact settle_of_calm (calm_of_only hcalm (readState_only s n b) (by decide +kernel) (by decide +kernel) (by decide +kernel))

theorem read_moves (hdue : NothingDue s) (hn : n < 8) (hbad : bad = false) (hlo : 40 ≤ cor) (hhi : cor ≤ 72) (hbucket : smGet 0 s.fc.buckets (0x200 + n) < 63)
    (ht : t = settle (readOutcome s n b cor bad lost)) : blockAt t (blockKey n b) = { erase := (blockAt s (blockKey n b)).erase + 1 } ∧
      smGet 0 t.fc.corrected (0x200 + n) = smGet 0 s.fc.corrected (0x200 + n) + 1 ∧ t.jobs = s.jobs := by
  have hread : readOutcome s n b cor bad lost = raiseFault (moveBlock (readState s n b) (blockKey n b)) (0x200 + n) 0x1D false 0 b := by
    unfold readOutcome
    dsimp only
    rw [if_neg (by simp [hbad]; omega), if_pos hlo]
    rfl
  have hm : Only [.hl .targets, .hl .blocks] s (moveBlock (readState s n b) (blockKey n b)) :=
    Only.then (moveBlock_only ..) (by decide +kernel) ((readState_only s n b).mono (by decide +kernel))
  have hmoved : blockAt (moveBlock (readState s n b) (blockKey n b)) (blockKey n b) = { erase := (blockAt s (blockKey n b)).erase + 1 } := by
    have herased : (blockAt (readState s n b) (blockKey n b)).erased = false := by rw [blockAt_readState]
    rw [blockAt_moveBlock herased, blockAt_readState]
  rw [ht, hread, raiseFault_inert hn (by decide)]
  generalize moveBlock (readState s n b) (blockKey n b) = v at hm hmoved
  have hfc : v.fc = s.fc := fc_of_only hm (by decide +kernel)
  have hb : BelowBucket v (0x200 + n) 0x1D b := belowTarget hn (by rw [hfc]; show _ + 1 < 64; omega)
  obtain ⟨hs, hcor⟩ := report_counts (s := v) (source := 0x200 + n) (pad := 0) (charged := false) (by decide) (by decide)
    (nothingDue_of_only hdue hm (by decide +kernel) (by decide +kernel)) hb
  refine ⟨?_, ?_, ?_⟩
  · rw [blockAt_of_only hs (by decide +kernel), blockAt_of_only (report_only ..) (by decide +kernel), hmoved]
  · rw [hcor, hfc]
  · rw [hs.same .jobs (by decide +kernel), (report_only ..).same .jobs (by decide +kernel), hm.same .jobs (by decide +kernel)]

/-- The object whose copies are both lost, where there is one. -/
def loseLost (s : State) (lost : Option Nat) : State := match lost with
  | some o => loseObject s o
  | none => s

theorem loseLost_only (s : State) (lost : Option Nat) : Only [.tk .slots, .tk .blobs, .hl .objs, .hl .certs, .hl .images, .cache] s (loseLost s lost) := by
  cases lost with
  | none => exact Only.refl _ _
  | some o => exact loseObject_only s o

theorem objAt_loseObject (s : State) (o : Nat) : (objAt (loseObject s o) o).v0 = 0 ∧ (objAt (loseObject s o) o).v1 = 0 := by
  have hput : (objAt (putObj s o { objAt s o with v0 := 0, v1 := 0 }) o).v0 = 0 ∧ (objAt (putObj s o { objAt s o with v0 := 0, v1 := 0 }) o).v1 = 0 := by
    rw [show objAt (putObj s o { objAt s o with v0 := 0, v1 := 0 }) o = { objAt s o with v0 := 0, v1 := 0 } from smGet_smSet_self ..]
    exact ⟨rfl, rfl⟩
  have hsame : objAt (loseObject s o) o = objAt (putObj s o { objAt s o with v0 := 0, v1 := 0 }) o := by
    unfold loseObject
    dsimp only
    repeat' split
    all_goals rfl
  rw [hsame]
  exact hput

theorem read_retires (hclear : FaultsClear s) (hserves : blockServes s n b = true) (hb65 : b < 65536) (h : bad = true ∨ 72 < cor)
    (hbucket : smGet 0 s.fc.buckets (0x200 + n) < 56) (ht : t = settle (readOutcome s n b cor bad lost)) : (blockAt t (blockKey n b)).bad = true ∧
      (targetAt t n).badBlocks = satAdd 0xFFFF (targetAt s n).badBlocks 1 ∧ (findOut t.fc (0x200 + n) 0x1E).isSome = true ∧
      (∀ o, lost = some o → (objAt t o).v0 = 0 ∧ (objAt t o).v1 = 0) := by
  obtain ⟨hn, hgood⟩ := blockServes_fields hserves
  have hread : readOutcome s n b cor bad lost =
      loseLost (raiseFault (fillFresh (retireBlock (readState s n b) (blockKey n b)) (n / 4)) (0x200 + n) 0x1E false 0 b) lost := by
    unfold readOutcome loseLost
    dsimp only
    rw [if_pos (by rcases h with h | h <;> simp [h])]
    rfl
  have hgood' : (blockAt (readState s n b) (blockKey n b)).bad = false := by rw [blockAt_readState]; exact hgood
  have hm : Only [.sys .wakeDriven, .en .recNj, .en .fixedUj, .en .reserveLow, .port .linkState, .fn .pmeStatus, .fn .vecs, .hl .targets, .hl .blocks,
      .hl .failed0, .hl .failed1, .hl .spaceLow, .out] s (fillFresh (retireBlock (readState s n b) (blockKey n b)) (n / 4)) :=
    Only.then (fillFresh_only ..) (by decide +kernel) (Only.then (retireBlock_only ..) (by decide +kernel) ((readState_only s n b).mono (by decide +kernel)))
  have hblock : (blockAt (fillFresh (retireBlock (readState s n b) (blockKey n b)) (n / 4)) (blockKey n b)).bad = true := by
    have hret := blockAt_retireBlock hgood'
    rw [blockAt_fillFresh (by rw [hret]), hret]
  have htarget : (targetAt (fillFresh (retireBlock (readState s n b) (blockKey n b)) (n / 4)) n).badBlocks = satAdd 0xFFFF (targetAt s n).badBlocks 1 := by
    have hret := targetAt_retireBlock hgood'
    rw [target_blockKey hb65] at hret
    rw [targetAt_of_only (fillFresh_only ..) (by decide +kernel), hret, targetAt_of_only (readState_only s n b) (by decide +kernel)]
  rw [ht, hread, raiseFault_inert hn (by decide)]
  generalize fillFresh (retireBlock (readState s n b) (blockKey n b)) (n / 4) = v at hm hblock htarget
  have hfc : v.fc = s.fc := fc_of_only hm (by decide +kernel)
  have hb : BelowBucket v (0x200 + n) 0x1E b := belowTarget hn (by rw [hfc]; show _ + 8 < 64; omega)
  have hclear' : FaultsClear v := by
    unfold FaultsClear
    rw [hfc]
    exact hclear
  have hlost : ∀ o, lost = some o → (objAt (loseLost (report v (0x200 + n) 0x1E false 0 b) lost) o).v0 = 0 ∧
      (objAt (loseLost (report v (0x200 + n) 0x1E false 0 b) lost) o).v1 = 0 := fun o ho => by
    rw [ho]
    exact objAt_loseObject _ o
  have ho := loseLost_only (report v (0x200 + n) 0x1E false 0 b) lost
  generalize loseLost (report v (0x200 + n) 0x1E false 0 b) lost = u at ho hlost
  obtain ⟨hs, hfound⟩ := report_opens (by decide) hclear' hb ho (by decide +kernel)
  refine ⟨?_, ?_, hfound, fun o hl => ?_⟩
  · rw [blockAt_of_only hs (by decide +kernel), blockAt_of_only ho (by decide +kernel), blockAt_of_only (report_only ..) (by decide +kernel), hblock]
  · rw [targetAt_of_only hs (by decide +kernel), targetAt_of_only ho (by decide +kernel), targetAt_of_only (report_only ..) (by decide +kernel), htarget]
  · rw [objAt_of_only hs (by decide +kernel)]
    exact hlost o hl

/-! ## A failed status -/

theorem status_retires {erase : Bool} (hdue : NothingDue s) (hserves : blockServes s n b = true) (hb65 : b < 65536) (hbucket : smGet 0 s.fc.buckets (0x200 + n) < 63) :
    ∃ t, exec (.nandStatusFail n b erase) s = .next t ∧ (blockAt t (blockKey n b)).bad = true ∧ (targetAt t n).spares = (targetAt s n).spares - 1 ∧
      smGet 0 t.fc.corrected (0x200 + n) = smGet 0 s.fc.corrected (0x200 + n) + 1 := by
  obtain ⟨hn, hgood⟩ := blockServes_fields hserves
  refine ⟨_, congrArg Host.Outcome.next (if_pos hserves), ?_⟩
  dsimp only
  have hret := blockAt_retireBlock hgood
  have htar := targetAt_retireBlock hgood
  rw [target_blockKey hb65] at htar
  have ho := retireBlock_only s (blockKey n b)
  generalize retireBlock s (blockKey n b) = r at hret htar ho
  have hfill : Only [.hl .blocks] r (if erase then r else fillFresh r (n / 4)) ∧ blockAt (if erase then r else fillFresh r (n / 4)) (blockKey n b) = blockAt r (blockKey n b) := by
    split
    · exact ⟨Only.refl _ _, rfl⟩
    · exact ⟨fillFresh_only .., blockAt_fillFresh (by rw [hret])⟩
  generalize (if erase then r else fillFresh r (n / 4)) = v at hfill
  obtain ⟨hv, hblock⟩ := hfill
  have hfc : v.fc = s.fc := (fc_of_only hv (by decide +kernel)).trans (fc_of_only ho (by decide +kernel))
  have hb : BelowBucket v (0x200 + n) 0x1D b := belowTarget hn (by rw [hfc]; show _ + 1 < 64; omega)
  rw [raiseFault_inert hn (by decide)]
  have hdue' : NothingDue v := by
    unfold NothingDue
    rw [hfc]
    exact hdue
  obtain ⟨hs, hcor⟩ := report_counts (s := v) (source := 0x200 + n) (pad := 0) (charged := false) (by decide) (by decide) hdue' hb
  refine ⟨?_, ?_, ?_⟩
  · rw [blockAt_of_only hs (by decide +kernel), blockAt_of_only (report_only ..) (by decide +kernel), hblock, hret]
  · rw [targetAt_of_only hs (by decide +kernel), targetAt_of_only (report_only ..) (by decide +kernel), targetAt_of_only hv (by decide +kernel), htar]
  · rw [hcor, hfc]

/-! ## A target that does not answer -/

theorem targetAt_loseTarget (h : (targetAt s n).state = 1) : (targetAt (loseTarget s n) n).state = 2 ∧ ∀ m, m ≠ n → targetAt (loseTarget s n) m = targetAt s m := by
  have hat : ∀ m, targetAt (loseTarget s n) m = targetAt (modTarget s n fun x => { x with state := 2 }) m := fun m => by
    unfold loseTarget
    rw [if_neg (by simp [h])]
    exact targetAt_of_only (checkChannel_only ..) (by decide +kernel) m
  refine ⟨?_, fun m hm => ?_⟩
  · rw [hat, targetAt_modTarget_self]
  · rw [hat, targetAt_modTarget, if_neg hm]

theorem target_fails (hn : n < 8) (hclear : FaultsClear s) (hstate : (targetAt s n).state = 1) (ht : t = settle (raiseFault s (0x200 + n) 0x1F false 0 0)) :
    (targetAt t n).state = 2 ∧ (findOut t.fc (0x200 + n) 0x1F).isSome = true ∧ (∀ m, m ≠ n → targetAt t m = targetAt s m) := by
  obtain ⟨hstall, hrow⟩ := targetSource hn
  have hraise : raiseFault s (0x200 + n) 0x1F false 0 0 = loseTarget (report s (0x200 + n) 0x1F false 0 0) n := by
    unfold raiseFault faultAction
    rw [if_neg hstall, if_neg (by simp [hrow])]
    refine (if_pos (by omega)).trans ?_
    rw [Nat.add_sub_cancel_left]
  have hnone : bucketRule (0x200 + n) 0x1F = none := by
    have hrow' : ¬(0x200 + n ∈ [0x80, 0x81] ∨ (0x90 ≤ 0x200 + n ∧ 0x200 + n < 0x98) ∨ 0x200 + n ∈ [0xA0, 0xA8]) := by
      simp only [List.mem_cons, List.not_mem_nil, or_false]
      omega
    unfold bucketRule
    rw [if_neg hstall, if_neg (by omega), if_neg hrow', if_neg (by omega), if_neg (by omega), if_pos (by omega), if_neg (by decide)]
  have hsame : ∀ m, targetAt (report s (0x200 + n) 0x1F false 0 0) m = targetAt s m := targetAt_of_only (report_only ..) (by decide +kernel)
  obtain ⟨hlost, hother⟩ := targetAt_loseTarget ((congrArg Target.state (hsame n)).trans hstate)
  rw [ht, hraise]
  obtain ⟨hs, hfound⟩ := report_opens (by decide) hclear (BelowBucket.of_none hnone) (loseTarget_only (report s (0x200 + n) 0x1F false 0 0) n) (by decide +kernel)
  refine ⟨?_, hfound, fun m hm => ?_⟩
  · rw [targetAt_of_only hs (by decide +kernel), hlost]
  · rw [targetAt_of_only hs (by decide +kernel), hother m hm, hsame]

end

end Sys2Proof.HayloftBlocks
end

section
/-! PROOF. The upkeep of the hayloft: wear, commits, rebuild, FORMAT and the logs (R465 to R476, Table 21.7; O57). -/

namespace Sys2Proof.HayloftBlocks

open Sys2Proof Sys2Proof.Machine Sys2Proof.Claims Sys2Proof.Frames Sys2Proof.Holding Sys2Proof.PadReset Sys2Proof.Reports Sys2Proof.BootWaits
  Sys2Proof.FaultMessages

section
variable {s t : State} {n c k o fn p : Nat} {v : W64} {b : Bytes}

/-! ## Wear levelling -/

theorem wear_even (h : wearSpread s c ≤ 2000) : exec (.staticWearLevel c) s = .next s :=
  congrArg Host.Outcome.next (if_neg (by simp [h]))

theorem wear_moves (hporst : s.sys.porstN = true) (hflush : s.en.flushActive = false) (htest : channelTested s c = false) (h : 2000 < wearSpread s c)
    (hk : leastWorn s (channelBlocks s c fun x => !x.erased) = some k) :
    ∃ t, exec (.staticWearLevel c) s = .next t ∧ blockAt t k = { erase := (blockAt s k).erase + 1 } ∧ t.jobs = s.jobs := by
  have herased : (blockAt s k).erased = false := by simpa using of_leastWorn hk
  refine ⟨moveBlock s k, ?_, blockAt_moveBlock herased, (moveBlock_only s k).same .jobs (by decide +kernel)⟩
  refine congrArg Host.Outcome.next ((if_pos (by simp [hporst, hflush, htest, h])).trans ?_)
  rw [hk]

/-! ## Copies of an object read back -/

theorem objAt_putObj_self (s : State) (o : Nat) (x : Obj) : objAt (putObj s o x) o = x := smGet_smSet_self ..

/-- A write one of whose copies has been read back. -/
def readBack (x : Obj) (c : Nat) : Obj := if c = 0 then { x with ok0 := true } else { x with ok1 := true }

theorem version_readBack (x : Obj) (c : Nat) : (readBack x c).version = x.version ∧ (readBack x c).writing = x.writing := by
  unfold readBack
  split <;> exact ⟨rfl, rfl⟩

theorem bothStand {x : Obj} {f0 f1 : Bool} (hc : c < 2) : (((readBack x c).ok0 || f0) && ((readBack x c).ok1 || f1)) =
    (if c = 0 then x.ok1 || f1 else x.ok0 || f0) := by
  have hcase : c = 0 ∨ c = 1 := by omega
  rcases hcase with rfl | rfl <;> simp [readBack]

/-- A copy of an object read back. -/
def copyRead (s : State) (o c : Nat) : State := copyStands (putObj s o (readBack (objAt s o) c)) o c

theorem objAt_copyRead (s : State) (o c : Nat) : objAt (copyRead s o c) o = readBack (objAt s o) c := by
  unfold copyRead
  rw [objAt_of_only (copyStands_only ..) (by decide +kernel), objAt_putObj_self]

theorem jobs_copyRead (s : State) (o c : Nat) : (copyRead s o c).jobs = s.jobs := (copyStands_only ..).same .jobs (by decide +kernel)

theorem exec_objectWriteCommit (hw : (objAt s o).writing.isSome = true) (hc : c < 2) (hlive : (if c = 0 then s.hl.failed0 else s.hl.failed1) = false)
    (htest : channelTested s c = false) (hflush : s.en.flushActive = false) : exec (.objectWriteCommit o c) s = .next
      (if (if c = 0 then (objAt s o).ok1 || s.hl.failed1 else (objAt s o).ok0 || s.hl.failed0) then commitWrite (copyRead s o c) o else copyRead s o c) := by
  obtain ⟨w, hw⟩ := Option.isSome_iff_exists.mp hw
  rw [← bothStand hc]
  exact congrArg Host.Outcome.next (if_neg (by simp [hw, hlive, htest, hflush]; omega))

theorem objAt_commitWrite (h : waitersOf s o = []) : objAt (commitWrite s o) o = { version := (objAt s o).version + 1
                                                                                   v0 := if (objAt s o).ok0 then (objAt s o).version + 1 else (objAt s o).v0
                                                                                   v1 := if (objAt s o).ok1 then (objAt s o).version + 1 else (objAt s o).v1 } := by
  have hstored : Only [.hl .certs, .hl .certsNew] s (if o = certsObj then storeCerts s else s) := by
    split
    · exact storeCerts_only s
    · exact Only.refl _ _
  unfold commitWrite
  dsimp only
  generalize (if o = certsObj then storeCerts s else s) = s0 at hstored
  have hjobs : ∀ x : Obj, waitersOf (sendObject (putObj s0 o x) o) o = waitersOf s o := fun x => by
    unfold waitersOf
    rw [(sendObject_only ..).same .jobs (by decide +kernel), show (putObj s0 o x).jobs = s0.jobs from rfl, hstored.same .jobs (by decide +kernel)]
  rw [hjobs, h]
  exact (objAt_of_only (sendObject_only ..) (by decide +kernel) o).trans (objAt_putObj_self ..)

theorem commit_waits (hw : (objAt s o).writing.isSome = true) (hc : c < 2) (hlive : (if c = 0 then s.hl.failed0 else s.hl.failed1) = false)
    (htest : channelTested s c = false) (hflush : s.en.flushActive = false)
    (hother : (if c = 0 then (objAt s o).ok1 || s.hl.failed1 else (objAt s o).ok0 || s.hl.failed0) = false) :
    ∃ t, exec (.objectWriteCommit o c) s = .next t ∧ (objAt t o).version = (objAt s o).version ∧ (objAt t o).writing = (objAt s o).writing ∧ t.jobs = s.jobs := by
  rw [exec_objectWriteCommit hw hc hlive htest hflush, if_neg (by rw [hother]; decide)]
  refine ⟨_, rfl, ?_⟩
  rw [objAt_copyRead, jobs_copyRead]
  exact ⟨(version_readBack ..).1, (version_readBack ..).2, rfl⟩

theorem commit_commits (hw : (objAt s o).writing.isSome = true) (hc : c < 2) (hlive : (if c = 0 then s.hl.failed0 else s.hl.failed1) = false)
    (htest : channelTested s c = false) (hflush : s.en.flushActive = false)
    (hother : (if c = 0 then (objAt s o).ok1 || s.hl.failed1 else (objAt s o).ok0 || s.hl.failed0) = true) (hwait : waitersOf s o = []) :
    ∃ t, exec (.objectWriteCommit o c) s = .next t ∧ (objAt t o).version = (objAt s o).version + 1 ∧ (objAt t o).writing = none ∧
      (if c = 0 then (objAt t o).v0 else (objAt t o).v1) = (objAt s o).version + 1 := by
  have hwait' : waitersOf (copyRead s o c) o = [] := by
    unfold waitersOf
    rw [jobs_copyRead]
    exact hwait
  rw [exec_objectWriteCommit hw hc hlive htest hflush, if_pos hother]
  refine ⟨_, rfl, ?_⟩
  rw [objAt_commitWrite hwait', objAt_copyRead, (version_readBack ..).1]
  refine ⟨rfl, rfl, ?_⟩
  have hcase : c = 0 ∨ c = 1 := by omega
  rcases hcase with rfl | rfl <;> rfl

/-! ## Rebuild -/

theorem state_formatDone (s : State) (n m : Nat) : (targetAt (formatDone s n) m).state = if m = n ∧ (targetAt s n).state = 5 then 1 else (targetAt s m).state := by
  unfold formatDone
  split
  next h =>
    rw [targetAt_modTarget]
    by_cases hm : m = n
    · rw [if_pos hm, if_pos ⟨hm, h⟩]
    · rw [if_neg hm, if_neg (fun hx => hm hx.1)]
  next h => rw [if_neg fun hx => h hx.2]

/-- The targets formatted for a channel in service. -/
def formatted (s : State) (c : Nat) : State := (List.range 4).foldl (fun t i => formatDone t (4 * c + i)) s

theorem formatted_only (s : State) (c : Nat) : Only [.hl .targets] s (formatted s c) := 
  Only.foldl _ (fun t i => formatDone_only t (4 * c + i)) (Only.refl _ _)

theorem state_formatted (hn : n / 4 = c) (h : (targetAt s n).state = 5) : (targetAt (formatted s c) n).state = 1 := by
  have hreach : ∀ (l : List Nat) (t : State), (targetAt t n).state = 1 ∨ ((targetAt t n).state = 5 ∧ n ∈ l.map (4 * c + ·)) →
      (targetAt (l.foldl (fun t i => formatDone t (4 * c + i)) t) n).state = 1 := fun l => by
    induction l with
    | nil => simp
    | cons i l ih =>
      intro t ht
      refine ih _ ?_
      rw [state_formatDone]
      rcases ht with ht | ⟨ht, hmem⟩
      · exact .inl (by split <;> simp [ht])
      · by_cases hi : n = 4 * c + i
        · exact .inl (if_pos ⟨hi, hi ▸ ht⟩)
        · refine .inr ⟨(if_neg fun hx => hi hx.1).trans ht, ?_⟩
          rw [List.map_cons] at hmem
          exact (List.mem_cons.mp hmem).resolve_left hi
  refine hreach (List.range 4) s (.inr ⟨h, List.mem_map.mpr ⟨n % 4, List.mem_range.mpr (by omega), by omega⟩⟩)

/-- An object as the rebuild of a channel leaves it. -/
def rebuilt (c : Nat) (x : Obj) : Obj := if c = 0 then { x with v0 := x.version } else { x with v1 := x.version }

/-- The hayloft at the end of a rebuild, its channel not yet evaluated. -/
def rebuildEnded (c : Nat) (h : Hayloft) : Hayloft :=
  { h with objs := smMap {} (fun _ => rebuilt c) h.objs, rebuilding := false, singleCopy := 0, flushReady := true }

theorem objAt_rebuildEnded (hwf : smWf {} s.hl.objs = true) (c o : Nat) :
    objAt { s with hl := rebuildEnded c s.hl } o = rebuilt c (objAt s o) :=
  smGet_smMap (f := fun _ => rebuilt c) (fun _ => by unfold rebuilt; split <;> rfl) o hwf

theorem evaluated_only (s : State) (c : Nat) : Only [.sys .wakeDriven, .en .recNj, .en .fixedUj, .en .reserveLow, .port .linkState, .fn .pmeStatus, .fn .vecs, .hl .failed0,
    .hl .failed1, .hl .spaceLow, .out] s (evalSpace (checkChannel s c)) :=
  Only.then (evalSpace_only _) (by decide +kernel) ((checkChannel_only ..).mono (by decide +kernel))

theorem exec_hayloftRebuild (hc : c < 2) (hporst : s.sys.porstN = true) (hflush : s.en.flushActive = false) (hre : s.hl.rebuilding = true)
    (htest : channelTested s c = false) (hlive : (if c = 0 then s.hl.failed0 else s.hl.failed1) = false) :
    exec (.hayloftRebuild c) s = .next (evalSpace (checkChannel { formatted s c with hl := rebuildEnded c (formatted s c).hl } c)) := by
  show execHayloftRebuild c s = _
  unfold execHayloftRebuild formatted rebuildEnded rebuilt
  rw [if_neg (by simp [hporst, hflush, htest, hre, hlive]; omega)]

theorem rebuild_ends (hc : c < 2) (hporst : s.sys.porstN = true) (hflush : s.en.flushActive = false) (hre : s.hl.rebuilding = true)
    (htest : channelTested s c = false) (hlive : (if c = 0 then s.hl.failed0 else s.hl.failed1) = false) (hwf : smWf {} s.hl.objs = true) :
    ∃ t, exec (.hayloftRebuild c) s = .next t ∧ t.hl.rebuilding = false ∧ t.hl.singleCopy = 0 ∧ t.hl.flushReady = true ∧
      (∀ n, n / 4 = c → (targetAt s n).state = 5 → (targetAt t n).state = 1) ∧
      ∀ o, (if c = 0 then (objAt t o).v0 else (objAt t o).v1) = (objAt s o).version := by
  have hobjs : (formatted s c).hl.objs = s.hl.objs := (formatted_only s c).same (.hl .objs) (by decide +kernel)
  have hstate : ∀ n, n / 4 = c → (targetAt s n).state = 5 → (targetAt (formatted s c) n).state = 1 := fun n => state_formatted
  rw [exec_hayloftRebuild hc hporst hflush hre htest hlive]
  generalize formatted s c = u at hobjs hstate
  have hended : ∀ o, objAt { u with hl := rebuildEnded c u.hl } o = rebuilt c (objAt s o) := fun o => by
    rw [objAt_rebuildEnded (by rw [hobjs]; exact hwf), objAt, objAt, hobjs]
  have hhl : ({ u with hl := rebuildEnded c u.hl } : State).hl.rebuilding = false ∧ ({ u with hl := rebuildEnded c u.hl } : State).hl.singleCopy = 0 ∧
      ({ u with hl := rebuildEnded c u.hl } : State).hl.flushReady = true ∧ ∀ n, targetAt { u with hl := rebuildEnded c u.hl } n = targetAt u n :=
    ⟨rfl, rfl, rfl, fun _ => rfl⟩
  generalize ({ u with hl := rebuildEnded c u.hl } : State) = w at hended hhl
  obtain ⟨hre', hsingle, hready, htarget⟩ := hhl
  have ho := evaluated_only w c
  refine ⟨_, rfl, (ho.same (.hl .rebuilding) (by decide +kernel)).trans hre', (ho.same (.hl .singleCopy) (by decide +kernel)).trans hsingle,
    (ho.same (.hl .flushReady) (by decide +kernel)).trans hready, fun n hn h5 => ?_, fun o => ?_⟩
  · rw [targetAt_of_only ho (by decide +kernel), htarget]
    exact hstate n hn h5
  · rw [objAt_of_only ho (by decide +kernel), hended]
    unfold rebuilt
    split <;> rfl

/-! ## A channel under test -/

theorem tested_waits (h : channelTested s c = true) : exec (.objectWriteCommit o c) s = .next s ∧ exec (.hayloftRebuild c) s = .next s ∧
    exec (.staticWearLevel c) s = .next s ∧ ∀ n, n / 4 = c → ∀ b cor bad lost, exec (.nandReadDone n b cor bad lost) s = .next s := by
  refine ⟨congrArg Host.Outcome.next (if_pos (by simp [h])), congrArg Host.Outcome.next (if_pos (by simp [h])), congrArg Host.Outcome.next (if_neg (by simp [h])),
    fun n hn b cor bad lost => congrArg Host.Outcome.next (if_neg ?_)⟩
  unfold blockServes
  rw [hn, h]
  simp

/-! ## FORMAT -/

theorem format_refused (hup : regsUp s 0 = true) (hcmd : bits v.toNat 0 4 = 1) (h : (targetAt s (bits v.toNat 4 3)).state ≠ 4) :
    exec (.hlFormat 0 v) s = .next { s with hl := { s.hl with cmdErr := 2 } } :=
  congrArg Host.Outcome.next ((if_neg (by simp [hup, cmdOf, hcmd])).trans (if_pos h))

/-- The part whose link tests of a target to be formatted have ended. -/
def untested (s : State) (n : Nat) : State :=
  if (smGet {} (draw s).2.lk.tests (20 + n / 4)).running && (smGet {} (draw s).2.lk.tests (20 + n / 4)).target == n then endTests (draw s).2 else (draw s).2

theorem untested_only (s : State) (n : Nat) : Only [.tt .lanes, .lk .tests, .freeCtr] s (untested s n) := by
  have hdraw : Only [.freeCtr] s (draw s).2 := draw_only s
  unfold untested
  split
  · exact Only.then (endTests_only _) (by decide +kernel) (hdraw.mono (by decide +kernel))
  · exact hdraw.mono (by decide +kernel)

theorem format_formats (hup : regsUp s 0 = true) (hcmd : bits v.toNat 0 4 = 1) (h : (targetAt s (bits v.toNat 4 3)).state = 4) :
    ∃ t, exec (.hlFormat 0 v) s = .next t ∧ (targetAt t (bits v.toNat 4 3)).state = 5 ∧ t.hl.rebuilding = true ∧ t.hl.cmdErr = 0 ∧
      (targetAt t (bits v.toNat 4 3)).badBlocks ≤ s.hl.geo.blocks ∧ ∀ m, m ≠ bits v.toNat 4 3 → targetAt t m = targetAt s m := by
  generalize hn : bits v.toNat 4 3 = n at h
  have hexec : exec (.hlFormat 0 v) s = .next (formatTarget s n) := by
    refine congrArg Host.Outcome.next ((if_neg (by simp [hup, cmdOf, hcmd])).trans ?_)
    rw [hn]
    exact if_neg (by simp [h])
  have hformat : formatTarget s n = modTarget { untested s n with hl :=
      { (untested s n).hl with blocks := (untested s n).hl.blocks.filter (fun e => e.1 / 65536 != n), rebuilding := true, cmdErr := 0 } } n fun y =>
      { state := 5, nvDdr3 := y.nvDdr3, mode := y.mode, badBlocks := (draw s).1 % (s.hl.geo.blocks + 1), spares := max 16 ((s.hl.geo.blocks * 2 + 99) / 100) } := rfl
  have htarget : ∀ m, targetAt (untested s n) m = targetAt s m := targetAt_of_only (untested_only s n) (by decide +kernel)
  rw [hexec, hformat]
  generalize untested s n = u at htarget
  refine ⟨_, rfl, ?_, rfl, rfl, ?_, fun m hm => ?_⟩
  · rw [targetAt_modTarget_self]
  · rw [targetAt_modTarget_self]
    exact Nat.le_of_lt_succ (Nat.mod_lt _ (Nat.succ_pos _))
  · rw [targetAt_modTarget, if_neg hm]
    exact htarget m

/-! ## The logs -/

theorem diagLog_flushes (hwp : s.hl.wpReleased = true) (hflush : s.en.flushActive = false) (hhl : s.hl.failed0 = false ∨ s.hl.failed1 = false)
    (hwf : smWf {} s.pads = true) : ∃ t, exec .diagLogFlush s = .next t ∧ ∀ p, (padAt t p).diags = (padAt s p).diags.map fun d => { d with flushed := true } := by
  have hcond : (s.hl.wpReleased && !s.en.flushActive && !(s.hl.failed0 && s.hl.failed1)) = true := by
    rcases hhl with h | h <;> simp [hwp, hflush, h]
  refine ⟨_, congrArg Host.Outcome.next (if_pos hcond), fun p => ?_⟩
  exact congrArg Pad.diags (smGet_smMap (f := fun _ (x : Pad) => { x with diags := x.diags.map fun d => { d with flushed := true } }) (fun _ => rfl) p hwf)

theorem exec_hlLogDataRead (h : HostAt s fn p) : exec (.hlLogDataRead fn) s = .next (match logEntry s fn p with
    | none => reply s fn (zeros 8)
    | some b => reply (modFn s fn fun f => if (fnAt s fn).hlWord = 3 then { f with hlWord := 0, hlEntry := (f.hlEntry + 1) % 2 ^ 32 }
        else { f with hlWord := (fnAt s fn).hlWord + 1 }) fn (slice b (8 * (fnAt s fn).hlWord) 8)) := by
  obtain ⟨hup, hpad⟩ := h
  refine congrArg Host.Outcome.next ((if_neg (by simp [hup])).trans ?_)
  rw [hpad]
  rfl

theorem hlLog_empty (h : HostAt s fn p) (hnone : logEntry s fn p = none) : exec (.hlLogDataRead fn) s = .next (reply s fn (zeros 8)) := by
  rw [exec_hlLogDataRead h, hnone]

theorem hlLog_reads (h : HostAt s fn p) (hb : logEntry s fn p = some b) : ∃ t, exec (.hlLogDataRead fn) s = .next t ∧
    t.out = s.out ++ [.barReply fn (slice b (8 * (fnAt s fn).hlWord) 8)] ∧
    ((fnAt s fn).hlWord = 3 → (fnAt t fn).hlWord = 0 ∧ (fnAt t fn).hlEntry = ((fnAt s fn).hlEntry + 1) % 2 ^ 32) ∧
    ((fnAt s fn).hlWord ≠ 3 → (fnAt t fn).hlWord = (fnAt s fn).hlWord + 1 ∧ (fnAt t fn).hlEntry = (fnAt s fn).hlEntry) := by
  rw [exec_hlLogDataRead h, hb]
  have hat : ∀ (u : State) (d : Bytes) (g : Fn → Fn), fnAt (reply (modFn u fn g) fn d) fn = g (fnAt u fn) := fun u d g =>
    (fnAt_emit ..).trans (fnAt_modFn_self ..)
  refine ⟨_, rfl, rfl, fun h3 => ?_, fun h3 => ?_⟩
  · rw [hat, if_pos h3]
    exact ⟨rfl, rfl⟩
  · rw [hat, if_neg h3]
    exact ⟨rfl, rfl⟩

end

/-- Settles O57: the reads, retirements, failures, copies, rebuild, FORMAT and logs above, clause by clause. -/
theorem hayloftUpkeep : Obligations.HayloftUpkeep := by
  intro s hcalm hflush
  refine ⟨fun n b cor bad lost hserves hb65 hidle c hc => ?_, fun n b erase hserves hb65 hbucket => status_retires hcalm.1 hserves hb65 hbucket,
    fun n st hporst hn hstate htest => ⟨fun hst hfail => ?_, fun h hclear => ?_⟩, fun c _ h => wear_even h, fun c k hporst htest h hk => wear_moves hporst hflush htest h hk,
    fun o c hw hc hlive htest => ⟨commit_waits hw hc hlive htest hflush, commit_commits hw hc hlive htest hflush⟩,
    fun c hc hporst hre htest hlive hwf => rebuild_ends hc hporst hflush hre htest hlive hwf, fun o c h => tested_waits h,
    fun v hup hcmd => ⟨format_refused hup hcmd, format_formats hup hcmd⟩, fun hwp hhl hwf => diagLog_flushes hwp hflush hhl hwf,
    fun fn p h => ⟨hlLog_empty h, fun b hb => hlLog_reads h hb⟩⟩
  · rw [exec_reads hserves hidle c hc]
    obtain ⟨hn, -⟩ := blockServes_fields hserves
    exact ⟨fun hbad hcor => congrArg Host.Outcome.next (read_counted hcalm hbad hcor), fun hbad hlo hhi hbucket => ⟨_, rfl, read_moves hcalm.1 hn hbad hlo hhi hbucket rfl⟩,
      fun h hbucket hclear => ⟨_, rfl, read_retires hclear hserves hb65 h hbucket rfl⟩⟩
  · refine congrArg Host.Outcome.next ((if_neg (by simp [hporst, hstate, htest, hflush]; omega)).trans (if_pos (by simp [hst, hfail])))
  · refine ⟨_, congrArg Host.Outcome.next ((if_neg (by simp [hporst, hstate, htest, hflush]; omega)).trans (if_neg (by rcases h with h | h <;> simp [h]))), ?_⟩
    exact target_fails hn hclear hstate rfl

end Sys2Proof.HayloftBlocks
end

section
/-! PROOF. Partial plans: what LOAD_PARTIAL begins, what the switch leaves, and what a timeout or ABORT_SWAP leaves (R92, R93; O51). -/

namespace Sys2Proof.PlanChange

open Sys2Proof Sys2Proof.Machine Sys2Proof.Claims Sys2Proof.Frames Sys2Proof.Holding Sys2Proof.PadReset Sys2Proof.BootWaits Sys2Proof.Transitions

section
variable {s t : State} {p e o : Nat} {img : Bytes} {w x : PartialPlan}

/-! ## LOAD_PARTIAL -/

theorem limitOf_paused (h : (padAt s p).paused = true) : limitOf s p = 0 := if_pos (by simp [acceptStopped, h])

theorem limitOf_applying (h : s.pl.applying = true) (p : Nat) : limitOf s p = 0 := if_pos (by simp [acceptStopped, h])

theorem loadPartial_heard (hup : regsUp s 0 = true) : exec (.loadPartial 0 img) s = .next (if plBusy s then plErr s 0x22 0 else match partialFault s img with
    | some e => plErr s e.1 e.2
    | none => beginSwap s (partialOf img)) := congrArg Host.Outcome.next (if_neg (by simp [hup]))

theorem drains_only (s : State) : Only [.stall .state, .stall .jobs, .stall .reqFault, .stall .reqStop, .stall .reqClaim, .stall .reqYield, .stall .muckFailed,
    .stall .muckThen, .stall .sequ, .stall .tree] s ((List.range 52).foldl drainStall s) := Only.foldl _ (fun t n => drainStall_only t n) (Only.refl _ _)

/-- A part whose paddock is paused for its new record. -/
def pausedFor (s : State) (w : PartialPlan) : State :=
  modPad { s with pl := { s.pl with swap := some w, busy := true, phase := 2, err := 0, errOffset := 0 }, hl := { s.hl with swapImage := some (w.paddock, w.image) } }
    w.paddock fun x => { x with paused := true }

theorem beginSwap_begins (s : State) (w : PartialPlan) : (beginSwap s w).pl.swap = some w ∧ (beginSwap s w).pl.busy = true ∧ (beginSwap s w).pl.phase = 2 ∧
    (beginSwap s w).pl.err = 0 ∧ (padAt (beginSwap s w) w.paddock).paused = true ∧ (beginSwap s w).plan = s.plan ∧ limitOf (beginSwap s w) w.paddock = 0 := by
  have hbegin : beginSwap s w = (List.range 52).foldl drainStall (pausedFor s w) := rfl
  have hpl : (pausedFor s w).pl = { s.pl with swap := some w, busy := true, phase := 2, err := 0, errOffset := 0 } := rfl
  have hplan : (pausedFor s w).plan = s.plan := rfl
  have hpause : (padAt (pausedFor s w) w.paddock).paused = true := by
    unfold pausedFor
    rw [padAt_modPad_self]
  rw [hbegin]
  generalize pausedFor s w = u at hpl hplan hpause
  have ho := drains_only u
  have hpaused : (padAt ((List.range 52).foldl drainStall u) w.paddock).paused = true := by rw [ho.same (.pad .paused) (by decide +kernel), hpause]
  rw [pl_of_only ho (by decide +kernel), plan_of_only ho (by decide +kernel), hpl]
  exact ⟨rfl, rfl, rfl, rfl, hpaused, hplan, limitOf_paused hpaused⟩

/-! ## The switch -/

/-- A part in which the paddock's new record is in force, its new generation drawn where the paddock is new. -/
def installed (s : State) (w : PartialPlan) : State :=
  let s2 := installPartial (if w.removes then removePaddock s w.paddock else shrinkCache s w) w
  if !padPresent s w.paddock && !w.removes then drawGen (createPaddock s2 w.paddock) w.paddock else s2

/-- What the switch notes in the registers, the journal and the hayloft. -/
def noted (s : State) (w : PartialPlan) : State :=
  modPad (noteSerial { s with
      pl := { s.pl with swap := none, busy := false, phase := 0 }, jn := { s.jn with recDigests := smSet [] s.jn.recDigests w.paddock (recordDigest w) },
      hl := { s.hl with partials := smSet [] s.hl.partials w.paddock w.image, swapImage := none } } w.serial)
    w.paddock fun x => { x with paused := false }

theorem switchPartial_eq (s : State) (w : PartialPlan) : switchPartial s w =
    recheck (([1, 2, 3, 4] : List Nat).foldl sweepKind (raisePad (auditAdd (journalWrite (noted (installed s w) w)) 5 w.paddock) 17 w.paddock)) [2] := rfl

theorem pads_installPartial (s : State) (w : PartialPlan) : (installPartial s w).plan.pads = smSet {} s.plan.pads w.paddock w.record := by
  unfold installPartial
  dsimp only
  have hstalls : ∀ (l : List Nat) (u : State), (l.foldl (fun t n => modSt t n fun x =>
      if x.state = 5 then x
      else if hasBit w.record.stallMap n then { x with dedicated := some w.paddock }
      else if x.dedicated = some w.paddock then { x with dedicated := none, spare := false, reservedFor := none }
      else x) u).plan = u.plan := fun l => by
    induction l with
    | nil => exact fun _ => rfl
    | cons n l ih => exact fun u => ih _
  rw [hstalls]
  have hcores : ∀ (l : List Nat) (u : State), (l.foldl passCore u).plan = u.plan := fun l u =>
    plan_of_only (Only.foldl l (fun t n => passCore_only t n) (Only.refl _ _)) (by decide +kernel)
  split
  · exact congrArg Plan.pads (hcores _ _)
  · exact congrArg Plan.pads (hcores _ _)

/-- What the switch leaves of the plan, the life cycle, the clock and the plan serials until it notes them. -/
theorem installed_keeps (s : State) (w : PartialPlan) : (installed s w).plan.pads = smSet {} s.plan.pads w.paddock w.record ∧ (installed s w).lc = s.lc ∧
    (installed s w).time = s.time ∧ (installed s w).hl.serials = s.hl.serials := by
  have hfirst : ∀ u : State, u.plan = s.plan ∧ u.lc = s.lc ∧ u.time = s.time ∧ u.hl = s.hl → (installPartial u w).plan.pads = smSet {} s.plan.pads w.paddock w.record ∧
      (installPartial u w).lc = s.lc ∧ (installPartial u w).time = s.time ∧ (installPartial u w).hl.serials = s.hl.serials := fun u ⟨hp, hl, ht, hh⟩ => by
    have ho := installPartial_only u w
    rw [pads_installPartial, lc_of_only ho (by decide +kernel), ho.same .time (by decide +kernel), hl_of_only ho (by decide +kernel), hp, hl, ht, hh]
    exact ⟨rfl, rfl, rfl, rfl⟩
  have hmade : ∀ u : State, u.plan.pads = smSet {} s.plan.pads w.paddock w.record ∧ u.lc = s.lc ∧ u.time = s.time ∧ u.hl.serials = s.hl.serials →
      (drawGen (createPaddock u w.paddock) w.paddock).plan.pads = smSet {} s.plan.pads w.paddock w.record ∧ (drawGen (createPaddock u w.paddock) w.paddock).lc = s.lc ∧
      (drawGen (createPaddock u w.paddock) w.paddock).time = s.time ∧ (drawGen (createPaddock u w.paddock) w.paddock).hl.serials = s.hl.serials := fun u ⟨hp, hl, ht, hh⟩ => by
    have ho : Only (Part.request ++ ([.en .padEnergy, .pad .inc] : List Part)) u (drawGen (createPaddock u w.paddock) w.paddock) :=
      Only.then (drawGen_only ..) (by decide +kernel) (createPaddock_only ..)
    rw [plan_of_only ho (by decide +kernel), lc_of_only ho (by decide +kernel), ho.same .time (by decide +kernel), hl_of_only ho (by decide +kernel)]
    exact ⟨hp, hl, ht, hh⟩
  have hinstalled : (installPartial (if w.removes then removePaddock s w.paddock else shrinkCache s w) w).plan.pads = smSet {} s.plan.pads w.paddock w.record ∧
      (installPartial (if w.removes then removePaddock s w.paddock else shrinkCache s w) w).lc = s.lc ∧
      (installPartial (if w.removes then removePaddock s w.paddock else shrinkCache s w) w).time = s.time ∧
      (installPartial (if w.removes then removePaddock s w.paddock else shrinkCache s w) w).hl.serials = s.hl.serials := by
    refine hfirst _ ?_
    split
    · have ho := removePaddock_only s w.paddock
      exact ⟨plan_of_only ho (by decide +kernel), lc_of_only ho (by decide +kernel), ho.same .time (by decide +kernel), hl_of_only ho (by decide +kernel)⟩
    · have ho := shrinkCache_only s w
      exact ⟨plan_of_only ho (by decide +kernel), lc_of_only ho (by decide +kernel), ho.same .time (by decide +kernel), hl_of_only ho (by decide +kernel)⟩
  unfold installed
  dsimp only
  split
  · exact hmade _ hinstalled
  · exact hinstalled

theorem noted_notes (s : State) (w : PartialPlan) : (noted s w).pl.swap = none ∧ (noted s w).pl.busy = false ∧ (noted s w).plan = s.plan ∧
    (padAt (noted s w) w.paddock).paused = false ∧ smGet [] (noted s w).hl.partials w.paddock = w.image ∧
    smGet [] (noted s w).jn.recDigests w.paddock = recordDigest w ∧
    smGet 0 (noted s w).hl.serials s.lc.epoch = max (smGet 0 s.hl.serials s.lc.epoch) (w.serial + 1) ∧ (noted s w).time = s.time := by
  refine ⟨rfl, rfl, rfl, ?_, smGet_smSet_self .., smGet_smSet_self .., ?_, rfl⟩
  · unfold noted
    rw [padAt_modPad_self]
  · show smGet 0 (smMod 0 s.hl.serials s.lc.epoch fun x => max x (w.serial + 1)) s.lc.epoch = _
    rw [smGet_smMod, if_pos rfl]

theorem switch_leaves (hdue : NothingDue s) (ht : t = settle (switchPartial s x)) : t.pl.swap = none ∧ t.pl.busy = false ∧ smGet {} t.plan.pads x.paddock = x.record ∧
    (∀ q, q ≠ x.paddock → smGet {} t.plan.pads q = smGet {} s.plan.pads q) ∧ (padAt t x.paddock).paused = false ∧ smGet [] t.hl.partials x.paddock = x.image ∧
    smGet [] t.jn.recDigests x.paddock = recordDigest x ∧ smGet 0 t.hl.serials s.lc.epoch = max (smGet 0 s.hl.serials s.lc.epoch) (x.serial + 1) ∧
    t.hl.auditLog.getLast? = some (s.time, 5, x.paddock) := by
  have hsettle := settle_only_of_nothingDue (nothingDue_of_only hdue (switchPartial_only s x) (by decide +kernel) (by decide +kernel))
  obtain ⟨hpads, hlc, htime, hserials⟩ := installed_keeps s x
  obtain ⟨hswap, hbusy, hplan, hpause, hpart, hrec, hser, htime'⟩ := noted_notes (installed s x) x
  rw [switchPartial_eq] at ht hsettle
  rw [← ht] at hsettle
  rw [hplan.symm] at hpads
  rw [hlc, hserials] at hser
  rw [htime] at htime'
  generalize noted (installed s x) x = n at *
  have haudit : (auditAdd (journalWrite n) 5 x.paddock).hl.auditLog.getLast? = some (s.time, 5, x.paddock) := by
    rw [getLast_auditAdd, (journalWrite_only n).same .time (by decide +kernel), htime']
  have hj := journalWrite_only n
  have ha := auditAdd_only (journalWrite n) 5 x.paddock
  have hja : Only [.sys .timeJournal, .jn .seq, .hl .auditLog] n (auditAdd (journalWrite n) 5 x.paddock) := Only.then ha (by decide +kernel) (hj.mono (by decide +kernel))
  generalize auditAdd (journalWrite n) 5 x.paddock = a at *
  have hrest : Only (Part.allQueue ++ ([.tk .slots, .tk .blobs, .tk .hbs, .jobs, .yard, .cache, .sys .wakeDriven, .port .linkState, .fn .pmeStatus, .fn .vecs, .out,
      .pad .replayOwed] : List Part)) a t := by
    refine Only.then hsettle (by decide +kernel) (Only.then (recheck_only ..) (by decide +kernel) ?_)
    refine Only.foldl _ (fun t k => (sweepKind_only t k).mono (by decide +kernel)) ((raisePad_only ..).mono (by decide +kernel))
  refine ⟨?_, ?_, ?_, fun q hq => ?_, ?_, ?_, ?_, ?_, ?_⟩
  · rw [pl_of_only hrest (by decide +kernel), pl_of_only hja (by decide +kernel), hswap]
  · rw [pl_of_only hrest (by decide +kernel), pl_of_only hja (by decide +kernel), hbusy]
  · rw [plan_of_only hrest (by decide +kernel), plan_of_only hja (by decide +kernel), hpads, smGet_smSet_self]
  · rw [plan_of_only hrest (by decide +kernel), plan_of_only hja (by decide +kernel), hpads, smGet_smSet, if_neg hq]
  · rw [hrest.same (.pad .paused) (by decide +kernel), hja.same (.pad .paused) (by decide +kernel), hpause]
  · rw [hl_of_only hrest (by decide +kernel), hja.same (.hl .partials) (by decide +kernel), hpart]
  · rw [jn_of_only hrest (by decide +kernel), hja.same (.jn .recDigests) (by decide +kernel), hrec]
  · rw [hl_of_only hrest (by decide +kernel), hja.same (.hl .serials) (by decide +kernel), hser]
  · rw [hl_of_only hrest (by decide +kernel), haudit]

theorem partialSwitch_switches (hswap : s.pl.swap = some x) (hdrained : partialDrained s x = true) : exec .partialSwitch s = .next (settle (switchPartial s x)) := by
  show Host.Outcome.next (match s.pl.swap with
    | some w => if partialDrained s w then settle (switchPartial s w) else s
    | none => s) = _
  rw [hswap]
  exact congrArg Host.Outcome.next (if_pos hdrained)

theorem partialSwitch_waits (hswap : s.pl.swap = some x) (hdrained : partialDrained s x = false) : exec .partialSwitch s = .next s := by
  show Host.Outcome.next (match s.pl.swap with
    | some w => if partialDrained s w then settle (switchPartial s w) else s
    | none => s) = _
  rw [hswap]
  exact congrArg Host.Outcome.next (if_neg (by simp [hdrained]))

/-! ## A change abandoned -/

theorem swap_abandoned (hswap : s.pl.swap = some x) (ht : t = recheck (abandonSwap s 0x20) [2]) : t.pl.swap = none ∧ t.pl.busy = false ∧ t.pl.phase = 0 ∧
    t.pl.err = 0x20 ∧ (padAt t x.paddock).paused = false ∧ t.plan = s.plan := by
  have heq : abandonSwap s 0x20 = modPad { s with pl := { s.pl with swap := none, busy := false, phase := 0, err := 0x20 } } x.paddock fun x => { x with paused := false } := by
    unfold abandonSwap
    rw [hswap]
  rw [ht, heq]
  refine ⟨rfl, rfl, rfl, rfl, ?_, rfl⟩
  rw [padAt_of_only (recheck_only ..) (by decide +kernel), padAt_modPad_self]

theorem apply_abandoned (hswap : s.pl.swap = none) (happ : s.pl.applying = true) (ht : t = recheck (abandonSwap s 0x20) [2]) : t.pl.applying = false ∧
    t.pl.busy = false ∧ t.pl.err = 0x20 ∧ t.plan = s.plan ∧ t.jobs = s.jobs := by
  have heq : abandonSwap s 0x20 = { s with pl := { s.pl with applying := false, busy := false, phase := 0, err := 0x20 } } := by
    unfold abandonSwap
    rw [hswap]
    exact if_pos happ
  rw [ht, heq]
  exact ⟨rfl, rfl, rfl, rfl, rfl⟩

theorem exec_abortSwap (hup : regsUp s 0 = true) (h : s.pl.swap.isSome = true ∨ s.pl.applying = true) :
    exec (.abortSwap 0 4#64) s = .next (recheck (abandonSwap s 0x20) [2]) :=
  congrArg Host.Outcome.next (if_pos ⟨rfl, hup, by decide +kernel, h⟩)

end

end Sys2Proof.PlanChange
end

section
/-! PROOF. STORE_IMAGE and APPLY, and the plan changes as one obligation (R91, R466; O51). -/

namespace Sys2Proof.PlanChange

open Sys2Proof Sys2Proof.Machine Sys2Proof.Claims Sys2Proof.Frames Sys2Proof.Holding Sys2Proof.PadReset Sys2Proof.BootWaits Sys2Proof.Transitions

section
variable {s t : State} {k slot c e o : Nat} {img : Bytes} {partner i3c : Bool}

/-! ## The directory and its slots -/

theorem preferredSlot_lt (s : State) (k : Nat) : preferredSlot s k < 2 := Nat.mod_lt _ (by decide)

/-- The channels, the straps and what the directories prefer decide the preferred slot. -/
theorem preferredSlot_congr (hsys : t.sys.straps = s.sys.straps) (h0 : t.hl.failed0 = s.hl.failed0) (h1 : t.hl.failed1 = s.hl.failed1)
    (hd0 : t.hl.dir0.prefer = s.hl.dir0.prefer ∧ t.hl.dir0.version = s.hl.dir0.version)
    (hd1 : t.hl.dir1.prefer = s.hl.dir1.prefer ∧ t.hl.dir1.version = s.hl.dir1.version) (k : Nat) : preferredSlot t k = preferredSlot s k := by
  obtain ⟨hp0, hv0⟩ := hd0
  obtain ⟨hp1, hv1⟩ := hd1
  have hup : ∀ c, channelUp t c = channelUp s c := fun c => by
    unfold channelUp
    rw [hsys, h0, h1]
  have hdir : (dirNow t).prefer = (dirNow s).prefer := by
    unfold dirNow
    rw [hup, hup, hv0, hv1]
    split
    · exact hp1
    split
    · exact hp0
    split
    · exact hp1
    · exact hp0
  rw [preferredSlot, preferredSlot, hdir]

theorem channelUp_putDir (s : State) (d : Directory) (c : Nat) : channelUp (putDir s d) c = channelUp s c := rfl

theorem dirNow_putDir (h : channelUp s 0 = true ∨ channelUp s 1 = true) (d : Directory) : dirNow (putDir s d) = { d with version := (dirNow s).version + 1 } := by
  have hput : (putDir s d).hl.dir0 = (if channelUp s 0 then { d with version := (dirNow s).version + 1 } else s.hl.dir0) ∧
      (putDir s d).hl.dir1 = (if channelUp s 1 then { d with version := (dirNow s).version + 1 } else s.hl.dir1) := ⟨rfl, rfl⟩
  obtain ⟨hd0, hd1⟩ := hput
  unfold dirNow at *
  rw [channelUp_putDir, channelUp_putDir, hd0, hd1]
  cases h0 : channelUp s 0 <;> cases h1 : channelUp s 1 <;> simp_all

theorem preferredSlot_flipDir (h : channelUp s 0 = true ∨ channelUp s 1 = true) (k : Nat) : preferredSlot (flipDir s [k]) k = 1 - preferredSlot s k := by
  have hflip : flipDir s [k] = putDir s { dirNow s with prefer := smSet 0 (dirNow s).prefer k (1 - smGet 0 (dirNow s).prefer k % 2)
                                                        fresh := (dirNow s).fresh.filter (fun i => !([k] : List Nat).contains i) ++ [k] } := rfl
  rw [preferredSlot, hflip, dirNow_putDir h]
  dsimp only
  rw [smGet_smSet_self]
  unfold preferredSlot
  omega

/-! ## The copies of a slot -/

theorem copyKey_eq_iff {slot slot' c c' : Nat} (hc : c < 2) (hc' : c' < 2) :
    copyKey k slot c = copyKey k slot' c' ↔ slot = slot' ∧ c = c' := by
  unfold copyKey
  omega

theorem copyBytes_writeCopies {slot' : Nat} (hc : c < 2) :
    copyBytes (writeCopies s k slot img) k slot' c = if slot' = slot ∧ channelUp s c = true then img else copyBytes s k slot' c := by
  have hput : ∀ (m : SMap ImageCopy) (c' : Nat), c' < 2 → smGet {} (if channelUp s c' then smSet {} m (copyKey k slot c') { bytes := img } else m) (copyKey k slot' c) =
      if slot' = slot ∧ c = c' ∧ channelUp s c' = true then { bytes := img } else smGet {} m (copyKey k slot' c) := fun m c' hc' => by
    by_cases hup : channelUp s c' = true
    · rw [if_pos hup, smGet_smSet]
      simp [copyKey_eq_iff hc hc', hup]
    · rw [if_neg hup, if_neg fun h => hup h.2.2]
  show (smGet {} (if channelUp s 1 then smSet {} (if channelUp s 0 then smSet {} s.hl.images (copyKey k slot 0) { bytes := img } else s.hl.images)
    (copyKey k slot 1) { bytes := img } else (if channelUp s 0 then smSet {} s.hl.images (copyKey k slot 0) { bytes := img } else s.hl.images)) (copyKey k slot' c)).bytes = _
  rw [hput _ 1 (by decide), hput _ 0 (by decide)]
  have hcase : c = 0 ∨ c = 1 := by omega
  rcases hcase with rfl | rfl
  · by_cases hx : slot' = slot ∧ channelUp s 0 = true
    · rw [if_neg (by simp), if_pos ⟨hx.1, rfl, hx.2⟩, if_pos hx]
    · rw [if_neg (by simp), if_neg (fun h => hx ⟨h.1, h.2.2⟩), if_neg hx]
      rfl
  · by_cases hx : slot' = slot ∧ channelUp s 1 = true
    · rw [if_pos ⟨hx.1, rfl, hx.2⟩, if_pos hx]
    · rw [if_neg (fun h => hx ⟨h.1, h.2.2⟩), if_neg (by simp), if_neg hx]
      rfl

/-! ## STORE_IMAGE -/

/-- What was sent is written into the slot of its kind that is not preferred, and the other slot stays. -/
def Written (s t : State) (img : Bytes) : Prop :=
  (∀ c < 2, channelUp s c = true → copyBytes t (imgKind img) (1 - preferredSlot s (imgKind img)) c = img) ∧
    ∀ c < 2, copyBytes t (imgKind img) (1 - (1 - preferredSlot s (imgKind img))) c = copyBytes s (imgKind img) (1 - (1 - preferredSlot s (imgKind img))) c

theorem copyBytes_of_images (h : t.hl.images = s.hl.images) (k slot c : Nat) : copyBytes t k slot c = copyBytes s k slot c := by
  rw [copyBytes, copyBytes, h]

theorem Written.of_images {u : State} (h : Written s t img) (hu : u.hl.images = t.hl.images) : Written s u img :=
  ⟨fun c hc hup => (copyBytes_of_images hu ..).trans (h.1 c hc hup), fun c hc => (copyBytes_of_images hu ..).trans (h.2 c hc)⟩

theorem written_writeStored (s : State) (img : Bytes) : Written s (writeStored s img) img := by
  have hlt := preferredSlot_lt s (imgKind img)
  have hcopy : ∀ k slot c, copyBytes (writeStored s img) k slot c = copyBytes (writeCopies s (imgKind img) (1 - preferredSlot s (imgKind img)) img) k slot c :=
    fun _ _ _ => rfl
  refine ⟨fun c hc hup => ?_, fun c hc => ?_⟩
  · rw [hcopy, copyBytes_writeCopies hc, if_pos ⟨rfl, hup⟩]
  · rw [hcopy, copyBytes_writeCopies hc, if_neg]
    omega

/-- An image that its kind's slot can hold. -/
def Fits (img : Bytes) : Prop := imgKind img ∈ slotKinds ∧ img.length ≤ kindMax (imgKind img)

/-- The part with what was sent written where it fits, no error shown. -/
def storedAs (s : State) (img : Bytes) : State :=
  plErr (if slotKinds.contains (imgKind img) && decide (img.length ≤ kindMax (imgKind img)) then writeStored s img else s) 0 0

theorem storedAs_fits (h : Fits img) : storedAs s img = plErr (writeStored s img) 0 0 := by
  unfold storedAs
  rw [if_pos (by simpa [Fits] using h)]

theorem storedAs_misfit (h : ¬Fits img) : storedAs s img = plErr s 0 0 := by
  unfold storedAs
  rw [if_neg (by simpa [Fits] using h)]

theorem storedAs_only (s : State) (img : Bytes) : Only [.pl .err, .pl .errOffset, .pl .stored, .hl .images] s (storedAs s img) := by
  refine Only.then (plErr_only ..) (by decide +kernel) ?_
  split
  · exact (writeStored_only ..).mono (by decide +kernel)
  · exact Only.refl _ _

/-- The checks of an image lean on the life cycle, the channels and the plan serials alone. -/
theorem storeFault_congr (hlc : t.lc = s.lc) (hsys : t.sys = s.sys) (h0 : t.hl.failed0 = s.hl.failed0) (h1 : t.hl.failed1 = s.hl.failed1)
    (hser : t.hl.serials = s.hl.serials) (img : Bytes) (partner : Bool) : storeFault t img partner = storeFault s img partner := by
  have hcopy : copyFault t img = copyFault s img := by
    unfold copyFault signerKey floorOf newestFloor
    rw [hlc]
  have hup : ∀ c, channelUp t c = channelUp s c := fun c => by
    unfold channelUp
    rw [hsys, h0, h1]
  have hpart : ∀ p st, partFaults t img p st partner = partFaults s img p st partner := fun p st => by
    unfold partFaults dependencyGone serialUsed
    rw [hup, hup, hser, hlc]
  unfold storeFault planFault
  rw [hcopy, hpart]

theorem storeFault_storedAs (s : State) (img : Bytes) (partner : Bool) : storeFault (storedAs s img) img partner = storeFault s img partner := by
  have ho := storedAs_only s img
  exact storeFault_congr (lc_of_only ho (by decide +kernel)) (sys_of_only ho (by decide +kernel)) (ho.same (.hl .failed0) (by decide +kernel))
    (ho.same (.hl .failed1) (by decide +kernel)) (ho.same (.hl .serials) (by decide +kernel)) img partner

theorem exec_storeImage (h : plUp s 0 = true ∨ (i3c = true ∧ s.sys.porstN = true ∧ s.sys.bootState = 4)) :
    exec (.storeImage 0 { image := img, partner := partner, i3c := i3c }) s = .next (if plBusy s then plErr s 0x22 0 else storeImage s img partner) := by
  refine congrArg Host.Outcome.next (if_neg ?_)
  rcases h with h | ⟨h1, h2, h3⟩
  · simp [h]
  · simp [h1, h2, h3]

theorem storeImage_eq (s : State) (img : Bytes) (partner : Bool) : storeImage s img partner = match storeFault s img partner with
    | some e => plErr (storedAs s img) e.1 e.2
    | none => acceptStored (storedAs s img) (imgKind img) := by
  rw [← storeFault_storedAs]
  rfl

theorem store_refused (hf : storeFault s img partner = some (e, o)) (ht : t = storeImage s img partner) : t.pl.err = e ∧ t.pl.errOffset = o ∧
    t.hl.dir0 = s.hl.dir0 ∧ t.hl.dir1 = s.hl.dir1 ∧ (Fits img → Written s t img ∧ imgKind img ∉ t.pl.stored) ∧ (¬Fits img → t.hl = s.hl) := by
  rw [storeImage_eq, hf] at ht
  have ho := storedAs_only s img
  have hhl : t.hl = (storedAs s img).hl := by rw [ht]; rfl
  have hpl : t.pl = { (storedAs s img).pl with err := e, errOffset := o } := by rw [ht]; rfl
  refine ⟨by rw [hpl], by rw [hpl], ?_, ?_, fun hfit => ⟨?_, ?_⟩, fun hfit => ?_⟩
  · rw [hhl, ho.same (.hl .dir0) (by decide +kernel)]
  · rw [hhl, ho.same (.hl .dir1) (by decide +kernel)]
  · refine (written_writeStored s img).of_images ?_
    rw [hhl, storedAs_fits hfit]
    rfl
  · rw [hpl, storedAs_fits hfit]
    show imgKind img ∉ s.pl.stored.filter (· != imgKind img)
    simp
  · rw [hhl, storedAs_misfit hfit]
    rfl

theorem firstBad_none {l : List (Bool × Nat)} (h : firstBad l = none) : ∀ x ∈ l, x.1 = false := by
  induction l with
  | nil => simp
  | cons a l ih =>
    obtain ⟨bad, off⟩ := a
    unfold firstBad at h
    split at h
    · simp at h
    next hb =>
      intro x hx
      rcases List.mem_cons.mp hx with rfl | hx
      · simpa using hb
      · exact ih h x hx

theorem length_of_headerFault (h : headerFault img = none) : img.length ≤ kindMax (imgKind img) := by
  unfold headerFault at h
  have hlen := firstBad_none (Option.or_eq_none_iff.mp h).1 (u32 img 8 != img.length || decide (kindMax (imgKind img) < img.length), 0x008) (by simp)
  simp only [Bool.or_eq_false_iff, decide_eq_false_iff_not, Nat.not_lt] at hlen
  exact hlen.2

theorem fits_of_storeFault (h : storeFault s img partner = none) : Fits img := by
  unfold storeFault at h
  split at h
  next hk =>
    unfold planFault errAt at h
    have hcopy : copyFault s img = none := by simpa using (Option.or_eq_none_iff.mp h).1
    refine ⟨by rw [hk]; decide, length_of_headerFault ?_⟩
    unfold copyFault at hcopy
    exact (Option.or_eq_none_iff.mp hcopy).1
  next hk =>
    unfold errAt at h
    obtain ⟨hcopy, hslot⟩ := Option.or_eq_none_iff.mp (Option.map_eq_none_iff.mp h)
    refine ⟨by by_contra hno; simp [hno] at hslot, length_of_headerFault ?_⟩
    unfold copyFault at hcopy
    exact (Option.or_eq_none_iff.mp hcopy).1

theorem store_accepted (hf : storeFault s img partner = none) (ht : t = storeImage s img partner) : t.pl.err = 0 ∧ Written s t img ∧
    (s.sys.bootState = 4 → channelUp s 0 = true ∨ channelUp s 1 = true → preferredSlot t (imgKind img) = 1 - preferredSlot s (imgKind img)) ∧
    (s.sys.bootState ≠ 4 → t.hl.dir0 = s.hl.dir0 ∧ t.hl.dir1 = s.hl.dir1 ∧ imgKind img ∈ t.pl.stored) := by
  have hfit := fits_of_storeFault hf
  rw [storeImage_eq, hf] at ht
  have ho := storedAs_only s img
  have herr : (storedAs s img).pl.err = 0 := rfl
  have hwritten : Written s (storedAs s img) img := (written_writeStored s img).of_images (by rw [storedAs_fits hfit]; rfl)
  generalize storedAs s img = u at ht ho herr hwritten
  have hboot : u.sys = s.sys := sys_of_only ho (by decide +kernel)
  have hup : ∀ c, channelUp u c = channelUp s c := fun c => by
    unfold channelUp
    rw [hboot, ho.same (.hl .failed0) (by decide +kernel), ho.same (.hl .failed1) (by decide +kernel)]
  have hd0 : u.hl.dir0 = s.hl.dir0 := ho.same (.hl .dir0) (by decide +kernel)
  have hd1 : u.hl.dir1 = s.hl.dir1 := ho.same (.hl .dir1) (by decide +kernel)
  by_cases h4 : s.sys.bootState = 4
  · have heq : t = flipDir u [imgKind img] := ht.trans (if_pos (by rw [hboot, h4]))
    refine ⟨?_, hwritten.of_images ?_, fun _ hch => ?_, fun hne => absurd h4 hne⟩
    · rw [heq, pl_of_only (flipDir_only ..) (by decide +kernel), herr]
    · rw [heq, (flipDir_only ..).same (.hl .images) (by decide +kernel)]
    · rw [heq, preferredSlot_flipDir (by rw [hup, hup]; exact hch)]
      rw [preferredSlot_congr (t := u) (s := s) (by rw [hboot]) (ho.same (.hl .failed0) (by decide +kernel)) (ho.same (.hl .failed1) (by decide +kernel))
        (by rw [hd0]; exact ⟨rfl, rfl⟩) (by rw [hd1]; exact ⟨rfl, rfl⟩)]
  · have heq : t = { u with pl := { u.pl with stored := u.pl.stored ++ [imgKind img] } } := ht.trans (if_neg (by rw [hboot]; exact h4))
    refine ⟨by rw [heq]; exact herr, hwritten.of_images (by rw [heq]), fun h => absurd h h4, fun _ => ?_⟩
    rw [heq]
    exact ⟨hd0, hd1, List.mem_append_right _ List.mem_cons_self⟩

/-! ## APPLY -/

theorem apply_begins (hup : regsUp s 0 = true) (hbusy : plBusy s = false) : ∃ t, exec (.plApply 0 3#64) s = .next t ∧ t.pl.applying = true ∧ t.pl.busy = true ∧
    t.pl.phase = 2 ∧ t.pl.err = 0 ∧ (∀ p, limitOf t p = 0) := by
  have hcmd : cmdOf 3#64 = 3 := by decide +kernel
  have hexec : exec (.plApply 0 3#64) s = .next (auditAdd { s with pl := { s.pl with applying := true, busy := true, phase := 2, err := 0, errOffset := 0 } } 5 0) :=
    congrArg Host.Outcome.next ((if_neg (by simp [hup, hcmd])).trans (if_neg (by simp [hbusy])))
  have hpl : ({ s with pl := { s.pl with applying := true, busy := true, phase := 2, err := 0, errOffset := 0 } } : State).pl =
      { s.pl with applying := true, busy := true, phase := 2, err := 0, errOffset := 0 } := rfl
  rw [hexec]
  generalize ({ s with pl := { s.pl with applying := true, busy := true, phase := 2, err := 0, errOffset := 0 } } : State) = u at hpl ⊢
  have happ : (auditAdd u 5 0).pl = u.pl := pl_of_only (auditAdd_only u 5 0) (by decide +kernel)
  refine ⟨_, rfl, ?_, ?_, ?_, ?_, limitOf_applying ?_⟩ <;> rw [happ, hpl]

/-- The part stopped for an APPLY: its cause latched, its plan change over. -/
theorem warmStop_applied (s : State) : (warmStop s 2).sys.causeWarmApply = true ∧ (warmStop s 2).pl.applying = false ∧ (warmStop s 2).pl.busy = false := by
  have hcause : (warmCause (dropWriting { s with jn := { s.jn with opened := false } }) 2).sys.causeWarmApply = true := Bool.or_true _
  unfold warmStop
  dsimp only
  generalize warmCause _ 2 = w at hcause ⊢
  rw [if_pos rfl]
  have hended : ({ w with pl := { w.pl with applying := false, busy := false, phase := 0 } } : State).sys = w.sys ∧
      ({ w with pl := { w.pl with applying := false, busy := false, phase := 0 } } : State).pl.applying = false ∧
      ({ w with pl := { w.pl with applying := false, busy := false, phase := 0 } } : State).pl.busy = false := ⟨rfl, rfl, rfl⟩
  generalize ({ w with pl := { w.pl with applying := false, busy := false, phase := 0 } } : State) = v at hended ⊢
  obtain ⟨hsys, happ, hbusy⟩ := hended
  have ho : Only [.lc .slots, .lc .busy, .lc .step, .lc .token, .rng .ready, .rng .rawMode, .rng .attempts, .rng .fifo, .dbg .scope, .dbg .padMask, .tt .lanes,
      .lk .tests, .freeCtr, .fn .cmpExpect, .fn .cmpSpoiled, .fn .cmpEq, .fn .cmpNe, .pad .results] v (clearAllDigests (endTests (endSession (endRaw (abandonTransition v))))) := by
    refine Only.then (clearAllDigests_only ..) (by decide +kernel) (Only.then (endTests_only ..) (by decide +kernel) (Only.then (endSession_only ..) (by decide +kernel)
      (Only.then (endRaw_only ..) (by decide +kernel) ((abandonTransition_only v).mono (by decide +kernel)))))
  generalize clearAllDigests _ = c at ho ⊢
  have hstall := reset_only c
  generalize (List.range 52).foldl resetStall c = d at hstall ⊢
  have hcores : Only [.sys .wakeDriven, .port .linkState, .fn .pmeStatus, .fn .vecs, .pad .extendLost, .core .state, .core .w, .core .pc, .core .waiting,
      .core .loading, .out] d ((List.range 16).foldl stopCore d) := Only.foldl (List.range 16) (fun t n => stopCore_only t n) (Only.refl _ _)
  refine ⟨?_, ?_, ?_⟩
  · rw [hcores.same (.sys .causeWarmApply) (by decide +kernel), hstall.same (.sys .causeWarmApply) (by decide +kernel),
      ho.same (.sys .causeWarmApply) (by decide +kernel), hsys]
    exact hcause
  · show ((List.range 16).foldl stopCore d).pl.applying = false
    rw [pl_of_only hcores (by decide +kernel), hstall.same (.pl .applying) (by decide +kernel), ho.same (.pl .applying) (by decide +kernel), happ]
  · show ((List.range 16).foldl stopCore d).pl.busy = false
    rw [pl_of_only hcores (by decide +kernel), hstall.same (.pl .busy) (by decide +kernel), ho.same (.pl .busy) (by decide +kernel), hbusy]

/-- Step 4 of a warm reset behind the images: the measurement, the source and what replays. -/
def restaged (s : State) : State :=
  let s2 := extendYmr s 0 (smGet {} s.sys.loaded 0x01).digest
  warmReplay (if s2.rng.stopped then causeEnds { s2 with rng := { s2.rng with stopped := false, ready := false, attempts := 0, restarting := false } } 0x0D0 0x17
    else reseedWarm s2)

theorem restaged_only (s : State) : Only (Part.drainQueue ++ ([.pad .results, .pad .mrs, .pad .haltLog, .pad .haltOverflow, .pad .paused, .pad .inc, .pad .diags,
    .pad .extendLost, .pad .replayOwed, .pad .waitFor, .pad .containedUs, .pad .resetStalls, .pad .cacheLost, .rng .ready, .rng .stopped, .rng .attempts,
    .rng .restarting, .rng .ymr, .fc .out] : List Part)) s (restaged s) := by
  refine Only.then (warmReplay_only ..) (by decide +kernel) ?_
  split
  · refine Only.then (causeEnds_only ..) (by decide +kernel) (put_rng ?_ ((extendYmr_only ..).mono (by decide +kernel)))
    exact Rng.set_ready_stopped_attempts_restarting (by decide +kernel) (RngReg.refl _ _)
  · exact Only.then (reseedWarm_only ..) (by decide +kernel) ((extendYmr_only ..).mono (by decide +kernel))

theorem warmRestart_apply (s : State) : warmRestart s 2 = (if (restaged (returnQueues (loadImages s))).plan.loaded = true ∧ bankSuffices (restaged (returnQueues (loadImages s))) = false
    then raisePart { restaged (returnQueues (loadImages s)) with sys := { (restaged (returnQueues (loadImages s))).sys with wait := .reserve } } 1
    else warmOpen (restaged (returnQueues (loadImages s)))) := by
  unfold warmRestart restaged
  simp only [if_true, true_and]

/-- What APPLY has made preferred stays so as it is loaded. -/
theorem prefer_loadImages (s : State) (k : Nat) : preferredSlot (loadImages s) k = preferredSlot s k := by
  unfold loadImages
  dsimp only
  have hload := Only.foldl (slotKinds.filter (dirNow s).fresh.contains) (fun t k => loadKind_only t k) (Only.refl _ s)
  generalize (slotKinds.filter (dirNow s).fresh.contains).foldl loadKind s = u at hload
  refine preferredSlot_congr ?_ ?_ ?_ ?_ ?_ k
  · exact hload.same (.sys .straps) (by decide +kernel)
  · exact hload.same (.hl .failed0) (by decide +kernel)
  · exact hload.same (.hl .failed1) (by decide +kernel)
  · show u.hl.dir0.prefer = _ ∧ u.hl.dir0.version = _
    rw [hload.same (.hl .dir0) (by decide +kernel)]
    exact ⟨rfl, rfl⟩
  · show u.hl.dir1.prefer = _ ∧ u.hl.dir1.version = _
    rw [hload.same (.hl .dir1) (by decide +kernel)]
    exact ⟨rfl, rfl⟩

theorem preferredSlot_of_only {l : List Part} (h : Only l s t) (hs : Part.sys .straps ∉ l) (h0 : Part.hl .failed0 ∉ l) (h1 : Part.hl .failed1 ∉ l)
    (hd0 : Part.hl .dir0 ∉ l) (hd1 : Part.hl .dir1 ∉ l) (k : Nat) : preferredSlot t k = preferredSlot s k :=
  preferredSlot_congr (h.same (.sys .straps) hs) (h.same (.hl .failed0) h0) (h.same (.hl .failed1) h1) (by rw [h.same (.hl .dir0) hd0]; exact ⟨rfl, rfl⟩)
    (by rw [h.same (.hl .dir1) hd1]; exact ⟨rfl, rfl⟩) k

theorem prefer_warmRestart (s : State) (k : Nat) : preferredSlot (warmRestart s 2) k = preferredSlot s k := by
  have hstaged : preferredSlot (restaged (returnQueues (loadImages s))) k = preferredSlot s k := by
    rw [preferredSlot_of_only (restaged_only _) (by decide +kernel) (by decide +kernel) (by decide +kernel) (by decide +kernel) (by decide +kernel),
      preferredSlot_of_only (returnQueues_only _) (by decide +kernel) (by decide +kernel) (by decide +kernel) (by decide +kernel) (by decide +kernel), prefer_loadImages]
  rw [warmRestart_apply]
  generalize restaged (returnQueues (loadImages s)) = u at hstaged
  split
  · rw [preferredSlot_of_only (raisePart_only ..) (by decide +kernel) (by decide +kernel) (by decide +kernel) (by decide +kernel) (by decide +kernel)]
    exact hstaged
  · rw [preferredSlot_of_only (warmOpen_only ..) (by decide +kernel) (by decide +kernel) (by decide +kernel) (by decide +kernel) (by decide +kernel), hstaged]

theorem bankSuffices_congr (hen : t.en = s.en) (hplan : t.plan = s.plan) : bankSuffices t = bankSuffices s := by
  unfold bankSuffices coversWith usableFrac cEff needNj stopUj
  rw [hen, hplan]

/-- With nothing newly preferred, the images in use stay. -/
theorem loadImages_none (h : (dirNow s).fresh = []) : loadImages s = bootedDir s := by
  unfold loadImages
  rw [h]
  rfl

theorem opened_warmRestart (hfresh : (dirNow s).fresh = []) (hbank : s.plan.loaded = false ∨ bankSuffices s = true) :
    (warmRestart s 2).jn.opened = gateMayOpen s := by
  have ho : Only (Part.drainQueue ++ ([.pad .results, .pad .mrs, .pad .haltLog, .pad .haltOverflow, .pad .paused, .pad .inc, .pad .diags,
      .pad .extendLost, .pad .replayOwed, .pad .waitFor, .pad .containedUs, .pad .resetStalls, .pad .cacheLost, .rng .ready, .rng .stopped, .rng .attempts,
      .rng .restarting, .rng .ymr, .fc .out, .hl .dir0, .hl .dir1] : List Part)) s (restaged (returnQueues (loadImages s))) := by
    rw [loadImages_none hfresh]
    exact Only.then (restaged_only _) (by decide +kernel) (Only.then (returnQueues_only _) (by decide +kernel) ((bootedDir_only s).mono (by decide +kernel)))
  rw [warmRestart_apply]
  generalize restaged (returnQueues (loadImages s)) = u at ho
  have hplan : u.plan = s.plan := plan_of_only ho (by decide +kernel)
  have hen : u.en = s.en := en_of_only ho (by decide +kernel)
  rw [if_neg (by rw [hplan, bankSuffices_congr hen hplan]; rintro ⟨h1, h2⟩; rcases hbank with h | h <;> simp [h] at h1 h2), warmOpen_opened]
  unfold gateMayOpen
  rw [ho.same (.sys .boundary) (by decide +kernel), lc_of_only ho (by decide +kernel)]

theorem gateMayOpen_of_only {l : List Part} (h : Only l s t) (hb : Part.sys .boundary ∉ l) (hr : Part.lc .resetRequired ∉ l) : gateMayOpen t = gateMayOpen s := by
  unfold gateMayOpen
  rw [h.same (.sys .boundary) hb, h.same (.lc .resetRequired) hr]

/-- A part that stands still for an APPLY, and what the warm reset of its end leaves. -/
theorem warmReset_applied (hboot : s.sys.bootState = 1) (hawake : s.sys.deepSleep = false) (hflush : s.en.flushActive = false) :
    (warmReset s 2).pl.applying = false ∧ (warmReset s 2).pl.busy = false ∧ (warmReset s 2).sys.causeWarmApply = true ∧
    ((dirNow s).fresh = [] → s.plan.loaded = false ∨ bankSuffices s = true → (warmReset s 2).jn.opened = gateMayOpen s) ∧
    ∀ k, preferredSlot (warmReset s 2) k = preferredSlot s k := by
  have hreset : warmReset s 2 = warmRestart (warmStop s 2) 2 := (if_pos hboot).trans (if_neg (by simp [hawake, hflush]))
  obtain ⟨hcause, happ, hbusy⟩ := warmStop_applied s
  have hstop := warmStop_only s 2
  rw [hreset]
  generalize warmStop s 2 = v at *
  have ho := warmRestart_only v 2
  refine ⟨(ho.same (.pl .applying) (by decide +kernel)).trans happ, (ho.same (.pl .busy) (by decide +kernel)).trans hbusy,
    (ho.same (.sys .causeWarmApply) (by decide +kernel)).trans hcause, fun hfresh hbank => ?_, fun k => ?_⟩
  · have hplan : v.plan = s.plan := plan_of_only hstop (by decide +kernel)
    have hen : v.en = s.en := en_of_only hstop (by decide +kernel)
    have hhl : v.hl = s.hl := hl_of_only hstop (by decide +kernel)
    have hdir : dirNow v = dirNow s := by
      unfold dirNow channelUp
      rw [hhl, hstop.same (.sys .straps) (by decide +kernel)]
    rw [opened_warmRestart (by rw [hdir]; exact hfresh) (by rw [hplan, bankSuffices_congr hen hplan]; exact hbank)]
    exact gateMayOpen_of_only hstop (by decide +kernel) (by decide +kernel)
  · rw [prefer_warmRestart]
    exact preferredSlot_of_only hstop (by decide +kernel) (by decide +kernel) (by decide +kernel) (by decide +kernel) (by decide +kernel) k

theorem preferStored_none (h : s.pl.stored = []) : preferStored s = { s with pl := { s.pl with stored := [] } } := by
  unfold preferStored
  rw [h]
  rfl

theorem apply_ends (happ : s.pl.applying = true) (hjobs : s.jobs = []) (hboot : s.sys.bootState = 1) (hawake : s.sys.deepSleep = false)
    (hflush : s.en.flushActive = false) (hdue : NothingDue s) : ∃ t, exec .plApplyDrained s = .next t ∧ t.pl.applying = false ∧ t.pl.busy = false ∧
      t.sys.causeWarmApply = true ∧ t.pl.stored = [] ∧
      (s.pl.stored = [] → (dirNow s).fresh = [] → s.plan.loaded = false ∨ bankSuffices s = true → t.jn.opened = gateMayOpen s) ∧
      ∀ k, s.pl.stored = [k] → channelUp s 0 = true ∨ channelUp s 1 = true → preferredSlot t k = 1 - preferredSlot s k := by
  have hexec : exec .plApplyDrained s = .next (settle (warmReset (preferStored s) 2)) := congrArg Host.Outcome.next (if_pos (by simp [happ, hjobs]))
  have hp := preferStored_only s
  have hstored : (preferStored s).pl.stored = [] := rfl
  have hnone : s.pl.stored = [] → (dirNow (preferStored s)).fresh = (dirNow s).fresh := fun h => by
    rw [preferStored_none h]
    rfl
  have hflip : ∀ k, s.pl.stored = [k] → channelUp s 0 = true ∨ channelUp s 1 = true → preferredSlot (preferStored s) k = 1 - preferredSlot s k := fun k hk hch => by
    rw [← preferredSlot_flipDir hch k, ← hk]
    rfl
  rw [hexec]
  generalize preferStored s = v at *
  have hvdue : NothingDue v := nothingDue_of_only hdue hp (by decide +kernel) (by decide +kernel)
  have hsys : v.sys = s.sys := sys_of_only hp (by decide +kernel)
  have hen : v.en = s.en := en_of_only hp (by decide +kernel)
  have hplan : v.plan = s.plan := plan_of_only hp (by decide +kernel)
  obtain ⟨h1, h2, h3, h4, h5⟩ := warmReset_applied (s := v) (by rw [hsys, hboot]) (by rw [hsys, hawake]) (by rw [hen, hflush])
  have ho := warmReset_only v 2
  have hrdue : NothingDue (warmReset v 2) := nothingDue_of_only hvdue ho (by decide +kernel) (by decide +kernel)
  have hst : (warmReset v 2).pl.stored = [] := (ho.same (.pl .stored) (by decide +kernel)).trans hstored
  generalize warmReset v 2 = r at *
  have hs := settle_only_of_nothingDue hrdue
  refine ⟨_, rfl, ?_, ?_, ?_, ?_, fun hno hfresh hbank => ?_, fun k hk hch => ?_⟩
  · rw [pl_of_only hs (by decide +kernel), h1]
  · rw [pl_of_only hs (by decide +kernel), h2]
  · rw [hs.same (.sys .causeWarmApply) (by decide +kernel), h3]
  · rw [pl_of_only hs (by decide +kernel), hst]
  · rw [jn_of_only hs (by decide +kernel), h4 ((hnone hno).trans hfresh) (by rw [hplan, bankSuffices_congr hen hplan]; exact hbank)]
    exact gateMayOpen_of_only hp (by decide +kernel) (by decide +kernel)
  · rw [preferredSlot_of_only hs (by decide +kernel) (by decide +kernel) (by decide +kernel) (by decide +kernel) (by decide +kernel), h5, hflip k hk hch]

theorem exec_applyTimeout (happ : s.pl.applying = true) (hjobs : s.jobs ≠ []) : exec .plApplyDrainTimeout s = .next (recheck (abandonSwap s 0x20) [2]) :=
  congrArg Host.Outcome.next (if_pos (by simp [happ, hjobs]))

end

/-- Settles O51: partial plans, their switch and their abandonment, STORE_IMAGE, and APPLY from its begin to its end. -/
theorem planChanges : Obligations.PlanChanges := by
  intro s img w
  refine ⟨fun hup => ?_, fun x hswap hdrained hdue _ => ⟨_, partialSwitch_switches hswap hdrained, switch_leaves hdue rfl⟩,
    fun x hswap hdrained => partialSwitch_waits hswap hdrained, fun x hswap c hc hup => ?_, fun partner i3c hup => ?_, apply_begins, apply_ends, fun c hc hup hswap happ hjobs => ?_⟩
  · rw [loadPartial_heard hup]
    refine ⟨fun hb => ?_, fun e o hb hf => ?_, fun hb hf => ⟨_, ?_, beginSwap_begins s w⟩⟩
    · exact congrArg Host.Outcome.next (if_pos hb)
    · rw [if_neg (by simp [hb]), hf]
      rfl
    · rw [if_neg (by simp [hb]), hf]
  · refine ⟨recheck (abandonSwap s 0x20) [2], ?_, swap_abandoned hswap rfl⟩
    rcases List.mem_cons.mp hc with rfl | hc
    · exact congrArg Host.Outcome.next (if_pos (by rw [hswap]; rfl))
    · obtain rfl := List.mem_singleton.mp hc
      exact exec_abortSwap hup (.inl (by rw [hswap]; rfl))
  · dsimp only
    rw [exec_storeImage hup]
    refine ⟨fun hb => congrArg Host.Outcome.next (if_pos hb), fun e o hb hf => ⟨_, congrArg Host.Outcome.next (if_neg (by simp [hb])), store_refused hf rfl⟩,
      fun hb hf => ⟨_, congrArg Host.Outcome.next (if_neg (by simp [hb])), store_accepted hf rfl⟩⟩
  · have hleft := apply_abandoned hswap happ (t := recheck (abandonSwap s 0x20) [2]) rfl
    obtain ⟨h1, h2, h3, h4, h5⟩ := hleft
    refine ⟨recheck (abandonSwap s 0x20) [2], ?_, h1, h2, h3, h4, fun j hj => ⟨j, by rw [h5]; exact hj, rfl⟩⟩
    rcases List.mem_cons.mp hc with rfl | hc
    · exact exec_applyTimeout happ hjobs
    · obtain rfl := List.mem_singleton.mp hc
      exact exec_abortSwap hup (.inr happ)

end Sys2Proof.PlanChange
end

section
/-! PROOF. The power-fail flush and the records it finds being written (R183, Table 08.4; O8): each takes a time of its own before it becomes live, so that the
flush does not begin at the time the command found. -/

namespace Sys2Proof.FlushTime

open Sys2Proof Sys2Proof.Machine Sys2Proof.Claims

/-- A part with a recovered journal and one record being written, about to lose its power. -/
def writingPart : State := { sys := { porstN := true, stage := 16 }, jobs := [{ seq := 1, phase := .writing }] }

theorem writingPart_flush : (after writingPart (exec .powerFailFlush writingPart)).jn.flushFrom = 1 := by decide +kernel

/-- Refutes O8: with one record being written at time 0 the flush begins at time 1, the acceptance time that record took. -/
theorem not_powerFailFlush : ¬ Obligations.PowerFailFlush := by
  unfold Obligations.PowerFailFlush
  intro h
  obtain ⟨-, hflush, -⟩ := h writingPart
  obtain ⟨t, hexec, -, -, -, -, -, hfrom, -⟩ := hflush (by decide +kernel)
  have hone := writingPart_flush
  rw [hexec] at hone
  have heq : (1 : Nat) = 0 := hone.symm.trans hfrom
  exact absurd heq (by decide)

end Sys2Proof.FlushTime
end

section
/-! PROOF. The journal's upkeep: refills, next trees, generations, the time base, scrubbing and SHUTDOWN (R26, R175, R180, R187, R240 to R242; O28). -/

namespace Sys2Proof.JournalUpkeep

open Sys2Proof Sys2Proof.Machine Sys2Proof.Claims Sys2Proof.Frames Sys2Proof.Holding Sys2Proof.PadReset Sys2Proof.Compare Sys2Proof.BootWaits Sys2Proof.Reports
  Sys2Proof.FaultMessages Sys2Proof.Random

section
variable {s t : State} {n h k level x p g b row : Nat} {off : List Nat}

/-! ## Reservations -/

theorem hbsAt_modHbs (s : State) (n m : Nat) (f : HbsKey → HbsKey) : hbsAt (modHbs s n f) m = if m = n then f (hbsAt s n) else hbsAt s m := smGet_smSet ..

theorem hbsAt_of_only {l : List Part} (ho : Only l s t) (hl : Part.tk .hbs ∉ l) (m : Nat) : hbsAt t m = hbsAt s m := by
  rw [hbsAt, hbsAt, ho.same (.tk .hbs) hl]

/-- Starting the next refill leaves the committed index, and the other keys. -/
theorem hbsAt_startRefill (s : State) (n m : Nat) : (hbsAt (startRefill s n) m).h = (hbsAt s m).h ∧ (m ≠ n → hbsAt (startRefill s n) m = hbsAt s m) := by
  unfold startRefill
  dsimp only
  split
  · rw [hbsAt_modHbs]
    by_cases hm : m = n
    · subst hm
      rw [if_pos rfl]
      exact ⟨rfl, fun h => absurd rfl h⟩
    · rw [if_neg hm]
      exact ⟨rfl, fun _ => rfl⟩
  · exact ⟨rfl, fun _ => rfl⟩

theorem exec_refillCommit (hr : (hbsAt s n).refill = some h) :
    exec (.refillCommit n) s = .next (if mirrored s then sendFrame s 0x03 [n, h] else commitRefill s n h) := by
  show Host.Outcome.next (match (hbsAt s n).refill with
    | none => s
    | some h => if mirrored s then sendFrame s 0x03 [n, h] else commitRefill s n h) = _
  rw [hr]

theorem refill_commits (hr : (hbsAt s n).refill = some h) (hrole : s.jn.role ≠ 1) : ∃ t, exec (.refillCommit n) s = .next t ∧
    (hbsAt t n).h = max (hbsAt s n).h h ∧ t.jobs = s.jobs ∧ ∀ m, m ≠ n → hbsAt t m = hbsAt s m := by
  rw [exec_refillCommit hr, if_neg (by simp [mirrored, hrole])]
  refine ⟨_, rfl, ?_, ?_, fun m hm => ?_⟩
  · rw [commitRefill, hbsAt_of_only (recheck_only ..) (by decide +kernel), (hbsAt_startRefill ..).1, hbsAt_modHbs, if_pos rfl]
  · rw [commitRefill, (recheck_only ..).same .jobs (by decide +kernel), (startRefill_only ..).same .jobs (by decide +kernel)]
    rfl
  · rw [commitRefill, hbsAt_of_only (recheck_only ..) (by decide +kernel), (hbsAt_startRefill ..).2 hm, hbsAt_modHbs, if_neg hm]

theorem refill_sent (hr : (hbsAt s n).refill = some h) (hrole : s.jn.role = 1) : ∃ t, exec (.refillCommit n) s = .next t ∧ t.tk = s.tk ∧
    t.out = s.out ++ [.tether 0x03 s.tt.txSeq [n, h]] := by
  rw [exec_refillCommit hr, if_pos (by simp [mirrored, hrole])]
  exact ⟨_, rfl, rfl, rfl⟩

/-! ## Next trees -/

/-- The tree stands for its level. -/
def treeKept (s : State) (n level x : Nat) : State := modHbs (draw s).2 n fun y => { y with nextTrees := smSet 0 y.nextTrees level x }

/-- The stall that computed the tree is free, or goes to the farrier that claims it. -/
def treeLeaves (s : State) (k : Nat) : State := if (stAt s k).reqClaim then leaveStall s k else modSt s k fun x => { x with state := 1, tree := none }

theorem treeLeaves_only (s : State) (k : Nat) : Only [.stall .state, .stall .jobs, .stall .reqFault, .stall .reqStop, .stall .reqClaim, .stall .reqYield,
    .stall .muckFailed, .stall .muckThen, .stall .sequ, .stall .tree] s (treeLeaves s k) := by
  unfold treeLeaves
  split
  · exact leaveStall_only ..
  · exact modSt_in (Stall.set_state_tree (by decide +kernel) (StallReg.refl _ _)) (Only.refl _ _)

theorem stall_treeLeaves (s : State) (k : Nat) : (stAt (treeLeaves s k) k).tree = none ∧ ((stAt s k).reqClaim = false → (stAt (treeLeaves s k) k).state = 1) ∧
    ((stAt s k).reqClaim = true → (stAt (treeLeaves s k) k).state = 3) := by
  unfold treeLeaves
  split
  next hc =>
    unfold leaveStall startMuck
    rw [stAt_modSt_self]
    exact ⟨rfl, fun h => absurd (h.symm.trans hc) (by decide), fun _ => rfl⟩
  next hc =>
    rw [stAt_modSt_self]
    exact ⟨rfl, fun _ => rfl, fun h => absurd h hc⟩

/-- The energy a tree took, charged to a paddock. -/
def treeCharged (s : State) (p e : Nat) : State := { s with en := { s.en with padEnergy := smMod 0 s.en.padEnergy p fun x => (x + e) % 2 ^ 64 } }

theorem treeCharged_only (s : State) (p e : Nat) : Only [.en .padEnergy] s (treeCharged s p e) :=
  put_en (Energy.set_padEnergy (by decide +kernel) (EnReg.refl _ _)) (Only.refl _ _)

theorem exec_nextTreeReady (hk : ((List.range 52).find? fun k => (stAt s k).tree == some n) = some k) (hx : nextTree s n = some (level, x)) :
    exec (.nextTreeReady n) s = .next (recheck (treeCharged (treeLeaves (treeKept s n level x) k) (hbsAt s n).paddock ((draw s).1 % 2 ^ 32)) [2]) := by
  show Host.Outcome.next (match (List.range 52).find? (fun k => (stAt s k).tree == some n), nextTree s n with
    | some k, some (level, t) => _
    | some k, none => leaveStall s k
    | none, _ => s) = _
  rw [hk, hx]
  rfl

theorem nextTree_stands (hk : ((List.range 52).find? fun k => (stAt s k).tree == some n) = some k) (hx : nextTree s n = some (level, x)) :
    ∃ t, exec (.nextTreeReady n) s = .next t ∧ smGet 0 (hbsAt t n).nextTrees level = x ∧ (∀ m, m ≠ n → hbsAt t m = hbsAt s m) ∧ t.jobs = s.jobs ∧
      (stAt t k).tree = none ∧ ((stAt s k).reqClaim = false → (stAt t k).state = 1) ∧ ((stAt s k).reqClaim = true → (stAt t k).state = 3) := by
  rw [exec_nextTreeReady hk hx]
  generalize (hbsAt s n).paddock = p
  generalize (draw s).1 % 2 ^ 32 = e
  have hkept : ∀ m, hbsAt (treeKept s n level x) m = if m = n then { hbsAt s n with nextTrees := smSet 0 (hbsAt s n).nextTrees level x } else hbsAt s m :=
    fun m => hbsAt_modHbs (draw s).2 n m _
  have hjobs : (treeKept s n level x).jobs = s.jobs := rfl
  have hstall : stAt (treeKept s n level x) k = stAt s k := rfl
  generalize treeKept s n level x = u at hkept hjobs hstall
  obtain ⟨htree, hidle, hmuck⟩ := stall_treeLeaves u k
  rw [hstall] at hidle hmuck
  have ho : Only (Part.allQueue ++ ([.en .padEnergy, .stall .state, .stall .jobs, .stall .reqFault, .stall .reqStop, .stall .reqClaim, .stall .reqYield,
      .stall .muckFailed, .stall .muckThen, .stall .sequ, .stall .tree] : List Part)) u (recheck (treeCharged (treeLeaves u k) p e) [2]) :=
    Only.then (recheck_only ..) (by decide +kernel) (Only.then (treeCharged_only ..) (by decide +kernel) ((treeLeaves_only u k).mono (by decide +kernel)))
  have hst : ∀ m, stAt (recheck (treeCharged (treeLeaves u k) p e) [2]) m = stAt (treeLeaves u k) m := fun m => rfl
  refine ⟨_, rfl, ?_, fun m hm => ?_, ?_, ?_, fun h => ?_, fun h => ?_⟩
  · rw [hbsAt_of_only ho (by decide +kernel), hkept, if_pos rfl]
    exact smGet_smSet_self ..
  · rw [hbsAt_of_only ho (by decide +kernel), hkept, if_neg hm]
  · rw [ho.same .jobs (by decide +kernel), hjobs]
  · rw [hst, htree]
  · rw [hst, hidle h]
  · rw [hst, hmuck h]

theorem nextTree_idle (h : ((List.range 52).find? fun k => (stAt s k).tree == some n) = none) : exec (.nextTreeReady n) s = .next s := by
  show Host.Outcome.next (match (List.range 52).find? (fun k => (stAt s k).tree == some n), nextTree s n with
    | some k, some (level, t) => _
    | some k, none => leaveStall s k
    | none, _ => s) = _
  rw [h]

/-! ## Generations -/

/-- The capture slot that a drawn generation fills. -/
def drawnSlot (s : State) (p : Nat) : CapSlot := { drawn := true, key := generated (seedPad s p) p 32, served := 0, drawnAt := s.time }

theorem padAt_drawNow (hg : (List.range 16).find? (capFree s p) = some g) : padAt (drawNow s p) p =
    { padAt (afterRequest (seedPad s p) p 32) p with
      genDue := false, curGen := some g, caps := smSet {} (padAt (afterRequest (seedPad s p) p 32) p).caps g (drawnSlot s p) } := by
  have hdraw : drawNow s p = recheck (journalWrite (modPad (afterRequest (seedPad s p) p 32) p fun x =>
      { x with genDue := false, curGen := some g, caps := smSet {} x.caps g (drawnSlot s p) })) [3] := by
    unfold drawNow
    rw [hg]
    rfl
  rw [hdraw, padAt_of_only (recheck_only ..) (by decide +kernel), padAt_of_only (journalWrite_only _) (by decide +kernel), padAt_modPad_self]

theorem drbg_afterSeed (s : State) (p : Nat) : (padAt (afterRequest (seedPad s p) p 32) p).drbg.requests = 1 ∧ (padAt (afterRequest (seedPad s p) p 32) p).drbg.live = true := by
  refine ⟨?_, afterRequest_seeded (seedPad s p) p 32 p (live_seedPad s p)⟩
  unfold afterRequest
  rw [padAt_modPad_self]
  show (padAt (seedPad s p) p).drbg.requests + 1 = 1
  rw [drbg_seedPad]
  rfl

theorem caps_afterSeed (s : State) (p : Nat) : (padAt (afterRequest (seedPad s p) p 32) p).caps = (padAt s p).caps :=
  ((afterRequest_only ..).same (.pad .caps) (by decide +kernel) p).trans ((seedPad_only s p).same (.pad .caps) (by decide +kernel) p)

theorem exec_captureGenDraw (hopen : s.jn.opened = true) (hpres : padPresent s p = true) : exec (.captureGenDraw p) s = .next (drawGen s p) :=
  congrArg Host.Outcome.next (if_pos (by simp [hopen, hpres]))

theorem generation_waits (hnone : (List.range 16).find? (capFree s p) = none) : drawGen s p = modPad s p fun x => { x with genDue := true } := if_pos (by rw [hnone]; rfl)

theorem generation_drawn (hp : p < 32) (hg : (List.range 16).find? (capFree s p) = some g) (hserves : sourceServes s = true) (hstore : 2 ≤ s.rng.store)
    (hw : s.rng.waiting = []) (ht : t = drawGen s p) : ∃ key, (padAt t p).curGen = some g ∧ (padAt t p).genDue = false ∧ t.rng.store = s.rng.store - 2 ∧
      smGet {} (padAt t p).caps g = { drawn := true, key := key, served := 0, drawnAt := s.time } ∧ (padAt t p).drbg.requests = 1 ∧
      (padAt t p).drbg.live = true ∧ ∀ k, k ≠ g → smGet {} (padAt t p).caps k = smGet {} (padAt s p).caps k := by
  have hblocks : blocksFor (256 + p) = 2 := if_pos (by omega)
  have hdraw : drawGen s p = request (modPad s p fun x => { x with genDue := true }) (256 + p) := by
    unfold drawGen
    dsimp only
    rw [hg, if_neg (by simp), if_pos hserves]
  have hdue : ∀ f : Pad → Pad, sourceServes (modPad s p f) = sourceServes s ∧ (modPad s p f).rng = s.rng ∧ (modPad s p f).jobs = s.jobs ∧ (modPad s p f).time = s.time :=
    fun f => ⟨rfl, rfl, rfl, rfl⟩
  obtain ⟨hserves', hrng, hjobs, htime⟩ := hdue fun x => { x with genDue := true }
  have hcaps : (padAt (modPad s p fun x => { x with genDue := true }) p).caps = (padAt s p).caps := by rw [padAt_modPad_self]
  rw [hdraw] at ht
  generalize (modPad s p fun x => { x with genDue := true }) = v at *
  rw [request_serves (hserves'.trans hserves) (by rw [hrng, hw]) (by rw [hblocks, hrng]; exact hstore)] at ht
  have hserved : serveOne (taken v (256 + p)) (256 + p) = drawNow (taken v (256 + p)) p := by
    unfold serveOne
    rw [if_neg (by omega), if_neg (by omega), if_pos (by omega), Nat.add_sub_cancel_left]
  have htaken : (taken v (256 + p)).rng.store = s.rng.store - 2 := by
    show v.rng.store - blocksFor (256 + p) = _
    rw [hblocks, hrng]
  have hfree : (List.range 16).find? (capFree (taken v (256 + p)) p) = some g := by
    have hsame : capFree (taken v (256 + p)) p = capFree s p := by
      funext i
      unfold capFree
      rw [show (taken v (256 + p)).jobs = s.jobs from hjobs]
    rw [hsame, hg]
  have hcaps' : (padAt (taken v (256 + p)) p).caps = (padAt s p).caps := hcaps
  have htime' : (taken v (256 + p)).time = s.time := htime
  rw [hserved] at ht
  generalize taken v (256 + p) = w at *
  obtain ⟨hreq, hlive⟩ := drbg_afterSeed w p
  have hpad := padAt_drawNow hfree
  rw [← ht] at hpad
  refine ⟨generated (seedPad w p) p 32, ?_, ?_, ?_, ?_, ?_, ?_, fun k hk => ?_⟩
  · rw [hpad]
  · rw [hpad]
  · rw [ht, (drawNow_only ..).same (.rng .store) (by decide +kernel), htaken]
  · rw [hpad]
    dsimp only
    rw [smGet_smSet_self, drawnSlot, htime']
  · rw [hpad]
    exact hreq
  · rw [hpad]
    exact hlive
  · rw [hpad]
    dsimp only
    rw [smGet_smSet, if_neg hk, caps_afterSeed, hcaps']

/-! ## Scrubbing -/

theorem bankSource (hb : b < 2) : ¬(0x80 + b < 0x34) ∧ rowSource (0x80 + b) = true ∧ bucketRule (0x80 + b) 0x12 = some 4 ∧ 0x80 + b ∈ ([0x80, 0x81] : List Nat) ∧
    bucketKey (0x80 + b) row = 0x80 + b + 1024 * (row + 1) ∧ installedRows (0x80 + b) = 16 := by
  have hcase : b = 0 ∨ b = 1 := by omega
  rcases hcase with rfl | rfl
  · exact ⟨by decide, by decide, by decide, by decide, rfl, by decide⟩
  · exact ⟨by decide, by decide, by decide, by decide, rfl, by decide⟩

theorem scrub_raises (hb : b < 2) (hheld : s.jn.held = true) :
    exec (.journalScrub b (some row)) s = .next (settle (report (rowMended s (0x80 + b) row) (0x80 + b) 0x12 false 0 row)) := by
  obtain ⟨hstall, -⟩ := bankSource (row := row) hb
  have hraise : ∀ u : State, raiseFault u (0x80 + b) 0x12 false 0 row = report u (0x80 + b) 0x12 false 0 row := fun u =>
    faultAction_inert (by decide) (fun h => absurd h hstall) (by decide)
  refine congrArg Host.Outcome.next ((if_pos ⟨hb, hheld⟩).trans ?_)
  rw [hraise]

theorem buckets_counted {source kind detail pad lim : Nat} {charged : Bool} (hrule : bucketRule source kind = some lim) :
    (counted s source kind charged pad detail).buckets =
      smSet 0 s.fc.buckets (bucketKey source detail) (smGet 0 s.fc.buckets (bucketKey source detail) + (if faultClass kind == 0 then 1 else 8)) := by
  obtain ⟨-, -, -, hk, -⟩ := logMsg_same s.fc s.time (faultMsg source kind charged pad detail)
  unfold counted countBucket
  rw [hrule]
  generalize (if faultClass kind == 0 then 1 else 8) = w
  dsimp only
  rw [hk]
  split
  · rfl
  · rfl

theorem logOne_rows (c : Faults) (time msg : Nat) : (logOne c time msg).retired = c.retired ∧ (logOne c time msg).spareRows = c.spareRows := by
  unfold logOne
  dsimp only
  repeat' split
  all_goals exact ⟨rfl, rfl⟩

theorem logMsg_rows (c : Faults) (time msg : Nat) : (logMsg c time msg).retired = c.retired ∧ (logMsg c time msg).spareRows = c.spareRows := by
  unfold logMsg
  dsimp only
  split
  · exact logOne_rows ..
  · obtain ⟨hr, hs⟩ := logOne_rows c time msg
    obtain ⟨hr', hs'⟩ := logOne_rows { logOne c time msg with overflowed := true } time (faultMsg 0x3FF 0x27 false 0 0)
    exact ⟨hr'.trans hr, hs'.trans hs⟩

theorem counted_rows {source kind detail pad : Nat} {charged : Bool} : (counted s source kind charged pad detail).retired = s.fc.retired ∧
    (counted s source kind charged pad detail).spareRows = s.fc.spareRows := by
  obtain ⟨hr, hs⟩ := logMsg_rows s.fc s.time (faultMsg source kind charged pad detail)
  unfold counted countBucket
  split
  · exact ⟨hr, hs⟩
  · dsimp only
    generalize (decide ((_ : Nat) ≤ _) && !_) = full
    cases full
    · exact ⟨hr, hs⟩
    · exact ⟨hr, hs⟩

theorem scrub_counts (hb : b < 2) (hdue : NothingDue s) (hheld : s.jn.held = true) (hbelow : smGet 0 s.fc.buckets (0x80 + b + 1024 * (row + 1)) + 1 < 4) :
    ∃ t, exec (.journalScrub b (some row)) s = .next t ∧
      smGet 0 t.fc.buckets (0x80 + b + 1024 * (row + 1)) = smGet 0 s.fc.buckets (0x80 + b + 1024 * (row + 1)) + 1 ∧
      smGet 0 t.fc.corrected (0x80 + b) = smGet 0 s.fc.corrected (0x80 + b) + 1 ∧ t.jn = s.jn ∧ t.jobs = s.jobs := by
  obtain ⟨-, -, hrule, -, hkey, -⟩ := bankSource (row := row) hb
  rw [scrub_raises hb hheld]
  refine ⟨_, rfl, ?_⟩
  have hm := rowMended_only s (0x80 + b) row
  generalize rowMended s (0x80 + b) row = v at hm
  have hbk : v.fc.buckets = s.fc.buckets := hm.same (.fc .buckets) (by decide +kernel)
  have hb' : BelowBucket v (0x80 + b) 0x12 row := fun lim hlim => by
    rw [hkey, hbk, ← Option.some.inj (hrule.symm.trans hlim)]
    exact hbelow
  obtain ⟨hs, hcor⟩ := HayloftBlocks.report_counts (s := v) (source := 0x80 + b) (kind := 0x12) (pad := 0) (charged := false) (by decide) (by decide)
    (nothingDue_of_only hdue hm (by decide +kernel) (by decide +kernel)) hb'
  have hrep := report_only v (0x80 + b) 0x12 false 0 row
  refine ⟨?_, ?_, ?_, ?_⟩
  · rw [fc_of_only hs (by decide +kernel), report_corrected (by decide) (by decide)]
    show smGet 0 (counted v (0x80 + b) 0x12 false 0 row).buckets _ = _
    rw [buckets_counted hrule, hkey, smGet_smSet_self, hbk]
    rfl
  · rw [hcor, hm.same (.fc .corrected) (by decide +kernel)]
  · rw [jn_of_only hs (by decide +kernel), jn_of_only hrep (by decide +kernel), jn_of_only hm (by decide +kernel)]
  · rw [hs.same .jobs (by decide +kernel), hrep.same .jobs (by decide +kernel), hm.same .jobs (by decide +kernel)]

/-- The one thing due is the retirement of a row. -/
theorem settleLoop_one {source detail : Nat} (hesc : s.fc.escNow = []) (hret : s.fc.retireNow = [(source, detail)])
    (hdone : NothingDue (bucketFull { s with fc := { s.fc with retireNow := [] } } source detail)) (fuel : Nat) :
    settleLoop (fuel + 2) s = bucketFull { s with fc := { s.fc with retireNow := [] } } source detail := by
  obtain ⟨he, hr⟩ := hdone
  rw [settleLoop, hesc]
  show (match s.fc.retireNow with
    | [] => s
    | e :: r => settleLoop (fuel + 1) (bucketFull { s with fc := { s.fc with retireNow := r } } e.1 e.2)) = _
  rw [hret]
  show settleLoop (fuel + 1) (bucketFull { s with fc := { s.fc with retireNow := [] } } source detail) = _
  rw [settleLoop, he]
  show (match (bucketFull { s with fc := { s.fc with retireNow := [] } } source detail).fc.retireNow with
    | [] => _
    | e :: r => _) = _
  rw [hr]

theorem retireRow_bank (hb : b < 2) (hret : smGet false s.fc.retired (0x80 + b + 1024 * (row + 1)) = false) (hrows : smGet 0 s.fc.spareRows (0x80 + b) < 16) :
    retireRow s (0x80 + b) row = rowMended (recordRetired { s with fc := { s.fc with spareRows := smSet 0 s.fc.spareRows (0x80 + b) (smGet 0 s.fc.spareRows (0x80 + b) + 1) } }
      (0x80 + b + 1024 * (row + 1))) (0x80 + b) row := by
  obtain ⟨-, -, -, hmem, hkey, hinst⟩ := bankSource (row := row) hb
  unfold retireRow
  dsimp only
  rw [hkey, if_neg (by simp [hret]), hinst, if_pos hrows, if_pos hmem]

theorem fc_recordRetired (s : State) (k : Nat) : (recordRetired s k).fc = { s.fc with retired := smSet false s.fc.retired k true, toLog := s.fc.toLog ++ [(s.time, 1, k)] } :=
  fc_of_only (raisePart_only ..) (by decide +kernel)

theorem row_retired (hb : b < 2) (hdue : NothingDue s) (hret : smGet false s.fc.retired (0x80 + b + 1024 * (row + 1)) = false)
    (hrows : smGet 0 s.fc.spareRows (0x80 + b) < 16) (ht : t = retireRow s (0x80 + b) row) : NothingDue t ∧
      smGet false t.fc.retired (0x80 + b + 1024 * (row + 1)) = true ∧ smGet 0 t.fc.spareRows (0x80 + b) = smGet 0 s.fc.spareRows (0x80 + b) + 1 := by
  rw [retireRow_bank hb hret hrows] at ht
  have hfc := fc_recordRetired { s with fc := { s.fc with spareRows := smSet 0 s.fc.spareRows (0x80 + b) (smGet 0 s.fc.spareRows (0x80 + b) + 1) } } (0x80 + b + 1024 * (row + 1))
  generalize recordRetired _ (0x80 + b + 1024 * (row + 1)) = v at ht hfc
  have hm := rowMended_only v (0x80 + b) row
  rw [← ht] at hm
  refine ⟨⟨?_, ?_⟩, ?_, ?_⟩
  · rw [hm.same (.fc .escNow) (by decide +kernel), hfc]
    exact hdue.1
  · rw [hm.same (.fc .retireNow) (by decide +kernel), hfc]
    exact hdue.2
  · rw [hm.same (.fc .retired) (by decide +kernel), hfc]
    show smGet false (smSet false s.fc.retired (0x80 + b + 1024 * (row + 1)) true) _ = true
    rw [smGet_smSet_self]
  · rw [hm.same (.fc .spareRows) (by decide +kernel), hfc]
    show smGet 0 (smSet 0 s.fc.spareRows (0x80 + b) (smGet 0 s.fc.spareRows (0x80 + b) + 1)) (0x80 + b) = smGet 0 s.fc.spareRows (0x80 + b) + 1
    rw [smGet_smSet_self]

theorem retired_counted {source kind detail pad lim : Nat} {charged : Bool} (hrule : bucketRule source kind = some lim)
    (hfull : lim ≤ smGet 0 s.fc.buckets (bucketKey source detail) + (if faultClass kind == 0 then 1 else 8))
    (hret : smGet false s.fc.retired (bucketKey source detail) = false) :
    (counted s source kind charged pad detail).retireNow = s.fc.retireNow ++ [(source, detail)] := by
  obtain ⟨-, -, hr, hk, -⟩ := logMsg_same s.fc s.time (faultMsg source kind charged pad detail)
  unfold counted countBucket
  rw [hrule]
  generalize (if faultClass kind == 0 then 1 else 8) = w at hfull
  dsimp only
  rw [hk, (logMsg_rows ..).1, hret, if_pos (by simpa using hfull)]
  dsimp only
  rw [hr]

theorem scrub_retires (hb : b < 2) (hdue : NothingDue s) (hflush : s.en.flushActive = false) (hheld : s.jn.held = true)
    (hthree : smGet 0 s.fc.buckets (0x80 + b + 1024 * (row + 1)) = 3) (hret : smGet false s.fc.retired (0x80 + b + 1024 * (row + 1)) = false)
    (hrows : smGet 0 s.fc.spareRows (0x80 + b) < 16) : ∃ t, exec (.journalScrub b (some row)) s = .next t ∧
      smGet false t.fc.retired (0x80 + b + 1024 * (row + 1)) = true ∧ smGet 0 t.fc.spareRows (0x80 + b) = smGet 0 s.fc.spareRows (0x80 + b) + 1 := by
  obtain ⟨hstall, hrow, hrule, -, hkey, -⟩ := bankSource (row := row) hb
  rw [scrub_raises hb hheld]
  refine ⟨_, rfl, ?_⟩
  have hm := rowMended_only s (0x80 + b) row
  generalize rowMended s (0x80 + b) row = v at hm
  have hbk : v.fc.buckets = s.fc.buckets := hm.same (.fc .buckets) (by decide +kernel)
  have hvret : v.fc.retired = s.fc.retired := hm.same (.fc .retired) (by decide +kernel)
  have hvrows : v.fc.spareRows = s.fc.spareRows := hm.same (.fc .spareRows) (by decide +kernel)
  have hven : v.en = s.en := en_of_only hm (by decide +kernel)
  obtain ⟨hesc, hnow⟩ := nothingDue_of_only hdue hm (by decide +kernel) (by decide +kernel)
  have hfull : (counted v (0x80 + b) 0x12 false 0 row).retireNow = [(0x80 + b, row)] := by
    rw [retired_counted hrule (by rw [hkey, hbk, hthree]; decide) (by rw [hkey, hvret]; exact hret), hnow]
    rfl
  obtain ⟨hcret, hcrows⟩ := counted_rows (s := v) (source := 0x80 + b) (kind := 0x12) (charged := false) (pad := 0) (detail := row)
  have hcesc := (counted_same (s := v) (source := 0x80 + b) (kind := 0x12) (charged := false) (pad := 0) (detail := row)).2.1
  rw [report_corrected (by decide) (by decide)]
  generalize counted v (0x80 + b) 0x12 false 0 row = c at hfull hcret hcrows hcesc
  generalize hr : ({ v with fc := { c with corrected := smMod 0 c.corrected (0x80 + b) (· + 1) } } : State) = r
  have hres : r.fc.escNow = [] := by rw [← hr]; exact hcesc.trans hesc
  have hrnow : r.fc.retireNow = [(0x80 + b, row)] := by rw [← hr]; exact hfull
  have hrret : r.fc.retired = s.fc.retired := by rw [← hr]; exact hcret.trans hvret
  have hrrows : r.fc.spareRows = s.fc.spareRows := by rw [← hr]; exact hcrows.trans hvrows
  have hren : r.en = s.en := by rw [← hr]; exact hven
  have hbucket : bucketFull { r with fc := { r.fc with retireNow := [] } } (0x80 + b) row = retireRow { r with fc := { r.fc with retireNow := [] } } (0x80 + b) row := by
    unfold bucketFull retireUnit
    rw [if_neg (by omega), if_neg hstall, if_neg (by omega), if_pos hrow]
  obtain ⟨hdone, hret', hrows'⟩ := row_retired (s := { r with fc := { r.fc with retireNow := [] } }) (row := row) hb ⟨hres, rfl⟩
    (by show smGet false r.fc.retired _ = _; rw [hrret]; exact hret) (by show smGet 0 r.fc.spareRows _ < _; rw [hrrows]; exact hrows) rfl
  have hsettle : settle r = replaysDone (retireRow { r with fc := { r.fc with retireNow := [] } } (0x80 + b) row) := by
    unfold settle
    rw [if_neg (by simp [hren, hflush]), hres, hrnow, ← hbucket]
    exact congrArg replaysDone (settleLoop_one hres hrnow (by rw [hbucket]; exact hdone) 7)
  rw [hsettle, fc_of_only (replaysDone_only _) (by decide +kernel)]
  refine ⟨hret', hrows'.trans ?_⟩
  show smGet 0 r.fc.spareRows _ + 1 = _
  rw [hrrows]

/-! ## SHUTDOWN -/

theorem isLive_running {j : Job} (h : j.phase = .running) : isLive j = true := by
  unfold isLive
  rw [h]
  decide

/-- The jobs that run go back to wait. -/
def unrun (j : Job) : Job := if isLive j && j.phase == .running then { j with phase := .staged, stall := none } else j

theorem phase_unrun (j : Job) : (unrun j).phase ≠ .running := by
  unfold unrun
  split
  · simp
  next h =>
    intro hp
    exact h (by rw [isLive_running hp, hp]; rfl)

/-- A stall whose work is stopped. -/
def stoppedStall (x : Stall) : Stall :=
  if x.state = 5 then x else { x with state := 0, jobs := [], tree := none, sequ := {}, operand := [], reqFault := false, reqStop := false, reqClaim := false, reqYield := false }

/-- The sheds named switched off. -/
def shedsOff (m : SMap Nat) (off : List Nat) : SMap Nat := off.foldl (fun m i => smSet 0 m i 0) m

theorem smGet_shedsOff (off : List Nat) (m : SMap Nat) (i : Nat) : smGet 0 (shedsOff m off) i = if i ∈ off then 0 else smGet 0 m i := by
  induction off generalizing m with
  | nil => simp [shedsOff]
  | cons k off ih =>
    show smGet 0 (shedsOff (smSet 0 m k 0) off) i = _
    rw [ih, smGet_smSet]
    by_cases hi : i ∈ off <;> by_cases hk : i = k <;> simp [hi, hk]

/-- Steps 2 and 3 of Table 08.4 up to the stalls and the sheds. -/
def stoppedCores (s : State) : State :=
  let s1 := (s.jobs.filter fun j => !isLive j).foldl (fun t j => becomeLive (if j.sent then t else assign t j.queue) j.queue) s
  let s2 := { s1 with jn := { s1.jn with opened := false, flushFrom := s1.time } }
  (List.range 16).foldl stopCore (setJobs s2 (s2.jobs.map unrun))

theorem stopAll_eq (s : State) (off : List Nat) : stopAll s off = { stoppedCores s with
    stalls := smMap {} (fun _ => stoppedStall) (stoppedCores s).stalls, en := { (stoppedCores s).en with shed := shedsOff (stoppedCores s).en.shed off } } := by
  unfold stopAll stoppedCores unrun stoppedStall shedsOff
  dsimp only

theorem jobs_setJobs (s : State) (l : List Job) : (setJobs s l).jobs = l := rfl

theorem stoppedCores_stops (s : State) : (stoppedCores s).jn.opened = false ∧ ∀ j ∈ (stoppedCores s).jobs, j.phase ≠ .running := by
  unfold stoppedCores
  dsimp only
  generalize List.foldl _ s _ = v
  have hcores : ∀ u : State, Only [.sys .wakeDriven, .port .linkState, .fn .pmeStatus, .fn .vecs, .pad .extendLost, .core .state, .core .w, .core .pc, .core .waiting,
      .core .loading, .out] u ((List.range 16).foldl stopCore u) := fun u => Only.foldl (List.range 16) (fun t n => stopCore_only t n) (Only.refl _ _)
  refine ⟨(hcores _).same (.jn .opened) (by decide +kernel), fun j hj => ?_⟩
  rw [(hcores _).same .jobs (by decide +kernel), jobs_setJobs] at hj
  obtain ⟨i, -, rfl⟩ := List.mem_map.mp hj
  exact phase_unrun i

theorem stopAll_stops (s : State) (off : List Nat) : (stopAll s off).jn.opened = false ∧ (∀ j ∈ (stopAll s off).jobs, j.phase ≠ .running) ∧
    (∀ n, (stAt (stopAll s off) n).state = 0 ∨ (stAt (stopAll s off) n).state = 5) ∧ ∀ i ∈ off, shedAt (stopAll s off) i = 0 := by
  rw [stopAll_eq]
  obtain ⟨hopen, hjobs⟩ := stoppedCores_stops s
  generalize stoppedCores s = v at hopen hjobs
  refine ⟨hopen, hjobs, fun n => ?_, fun i hi => ?_⟩
  · refine smGet_smMap_of_all (P := fun x : Stall => x.state = 0 ∨ x.state = 5) (f := fun _ => stoppedStall) (fun _ x => ?_) (.inl rfl) v.stalls n
    unfold stoppedStall
    split
    next h => exact .inr h
    next => exact .inl rfl
  · show smGet 0 (shedsOff v.en.shed off) i = 0
    rw [smGet_shedsOff, if_pos hi]

/-- The part behind its shutdown flush. -/
def shutDown (s : State) : State := { s with jn := { s.jn with shutting := false, shutdownDone := true } }

theorem exec_shutdownFlush (hshut : s.jn.shutting = true) (hflush : s.en.flushActive = false) :
    exec .shutdownFlush s = .next (shutDown (commitFlush (stopAll s workSheds) (!s.hl.failed0) (!s.hl.failed1))) :=
  congrArg Host.Outcome.next (if_pos (by simp [hshut, hflush]))

theorem commitFlush_writes (s : State) (c0 c1 : Bool) : (commitFlush s c0 c1).jn.flushSeq = s.jn.flushSeq + 1 ∧
    (commitFlush s c0 c1).jn.flushResult = (if c0 && c1 then 1 else if c0 || c1 then 2 else 3) ∧
    (commitFlush s c0 c1).hl.flush = if c0 || c1 then flushImage s c0 c1 (drawBytes s 12).1 else s.hl.flush := by
  refine ⟨rfl, rfl, ?_⟩
  unfold commitFlush
  dsimp only
  split
  · rfl
  · rfl

theorem limitOf_shutDown (s : State) (p : Nat) : limitOf (shutDown s) p = 0 := if_pos (by simp [acceptStopped, shutDown])

theorem shutdown_flushes (hshut : s.jn.shutting = true) (hflush : s.en.flushActive = false) : ∃ t nonce, exec .shutdownFlush s = .next t ∧ t.jn.shutdownDone = true ∧
    t.jn.shutting = false ∧ t.jn.opened = false ∧ t.jn.flushSeq = s.jn.flushSeq + 1 ∧
    t.jn.flushResult = (if !s.hl.failed0 && !s.hl.failed1 then 1 else if !s.hl.failed0 || !s.hl.failed1 then 2 else 3) ∧ (∀ j ∈ t.jobs, j.phase ≠ .running) ∧
    (∀ n, (stAt t n).state = 0 ∨ (stAt t n).state = 5) ∧ (∀ i < 18, shedAt t i = 0) ∧ (∀ p, limitOf t p = 0) ∧
    t.hl.flush = (if !s.hl.failed0 || !s.hl.failed1 then flushImage (stopAll s workSheds) (!s.hl.failed0) (!s.hl.failed1) nonce else s.hl.flush) := by
  rw [exec_shutdownFlush hshut hflush]
  obtain ⟨hopen, hjobs, hstalls, hsheds⟩ := stopAll_stops s workSheds
  have hseq : (stopAll s workSheds).jn.flushSeq = s.jn.flushSeq := (stopAll_only s workSheds).same (.jn .flushSeq) (by decide +kernel)
  have hflushed : (stopAll s workSheds).hl.flush = s.hl.flush := (stopAll_only s workSheds).same (.hl .flush) (by decide +kernel)
  generalize (!s.hl.failed0) = c0
  generalize (!s.hl.failed1) = c1
  generalize stopAll s workSheds = v at *
  obtain ⟨hwseq, hwresult, hwflush⟩ := commitFlush_writes v c0 c1
  have hw := commitFlush_only v c0 c1
  generalize commitFlush v c0 c1 = w at *
  refine ⟨shutDown w, (drawBytes v 12).1, rfl, rfl, rfl, ?_, hwseq.trans (congrArg (· + 1) hseq), hwresult, fun j hj => hjobs j ?_, fun n => ?_, fun i hi => ?_,
    limitOf_shutDown w, ?_⟩
  · exact (hw.same (.jn .opened) (by decide +kernel)).trans hopen
  · exact (hw.same .jobs (by decide +kernel)) ▸ hj
  · rw [show stAt (shutDown w) n = stAt w n from rfl, stAt_of_only hw (by decide +kernel)]
    exact hstalls n
  · rw [show shedAt (shutDown w) i = shedAt w i from rfl, shedAt, en_of_only hw (by decide +kernel)]
    exact hsheds i (List.mem_append_left _ (List.mem_range.mpr hi))
  · rw [← hflushed]
    exact hwflush

end

/-- Settles O28: reservations, trees, generations, the time base, scrubbing and SHUTDOWN, each as its command leaves it. -/
theorem journalUpkeep : Obligations.JournalUpkeep := by
  intro s
  refine ⟨fun n h => refill_commits, fun n h => refill_sent, fun n k level x => nextTree_stands, fun n => nextTree_idle, fun p hopen hp hpres => ⟨fun g hg hserves hstore hw => ?_,
    fun hnone => ?_⟩, fun hstage hflush => ⟨?_, ?_⟩, fun b row hb hheld hcalm hflush => ⟨scrub_counts hb hcalm.1 hheld, scrub_retires hb hcalm.1 hflush hheld⟩, fun b => rfl,
    fun hup hdone => ?_, shutdown_flushes⟩
  · obtain ⟨key, hall⟩ := generation_drawn hp hg hserves hstore hw rfl
    exact ⟨_, key, exec_captureGenDraw hopen hpres, hall⟩
  · rw [exec_captureGenDraw hopen hpres, generation_waits hnone]
  · exact congrArg Host.Outcome.next (if_neg (by simp [hflush]; omega))
  · exact congrArg Host.Outcome.next (if_neg (by simp [hflush]; omega))
  · exact congrArg Host.Outcome.next (if_pos ⟨rfl, hup, by decide +kernel, hdone⟩)

end Sys2Proof.JournalUpkeep
end

section
/-! PROOF. Acceptance: the record whose writes have ended becomes live, and one that cannot be written is dropped (R164 to R167, R196; O21). -/

namespace Sys2Proof.Accepting

open Sys2Proof Sys2Proof.Machine Sys2Proof.Claims Sys2Proof.Frames Sys2Proof.Holding Sys2Proof.PadReset Sys2Proof.HostReads Sys2Proof.Reports
  Sys2Proof.FaultMessages Sys2Proof.BootWaits

/-! ## What becomes of the records at an acceptance -/

/-- A record as an acceptance or a sweep leaves it: its place and its times stay, a live one stays live, and one with a fixed status stays as it is. -/
structure Kept (j k : Job) : Prop where
  seq : k.seq = j.seq
  queue : k.queue = j.queue
  index : k.index = j.index
  desc : k.desc = j.desc
  tAccept : k.tAccept = j.tAccept
  live : isLive k = isLive j
  fixed : isLive j = true → j.fixed ≠ 0 → k = j

theorem Kept.refl (j : Job) : Kept j j := ⟨rfl, rfl, rfl, rfl, rfl, rfl, fun _ _ => rfl⟩

theorem Kept.trans {a b c : Job} (h : Kept a b) (g : Kept b c) : Kept a c where
  seq := g.seq.trans h.seq
  queue := g.queue.trans h.queue
  index := g.index.trans h.index
  desc := g.desc.trans h.desc
  tAccept := g.tAccept.trans h.tAccept
  live := g.live.trans h.live
  fixed := fun hl hf => by
    have hb := h.fixed hl hf
    rw [g.fixed (hb ▸ hl) (hb ▸ hf), hb]

/-- Every record of `s` is kept, and `t` has no others. -/
def Mapped (s t : State) : Prop := ∃ f : Job → Job, t.jobs = s.jobs.map f ∧ ∀ j, Kept j (f j)

section
variable {s t u : State} {q n : Nat} {j k : Job}

theorem Mapped.of_jobs (h : t.jobs = s.jobs) : Mapped s t := ⟨id, by simp [h], Kept.refl⟩

theorem Mapped.refl (s : State) : Mapped s s := .of_jobs rfl

theorem Mapped.trans (h : Mapped s t) (g : Mapped t u) : Mapped s u := by
  obtain ⟨f, hf, hfk⟩ := h
  obtain ⟨f', hf', hfk'⟩ := g
  exact ⟨f' ∘ f, by rw [hf', hf, List.map_map], fun j => (hfk j).trans (hfk' (f j))⟩

theorem Mapped.of_only {l : List Part} (h : Only l s t) (hl : Part.jobs ∉ l) : Mapped s t := .of_jobs (h.same .jobs hl)

theorem Mapped.foldl {α : Type} {f : State → α → State} (hf : ∀ t x, Mapped t (f t x)) (l : List α) (s : State) : Mapped s (l.foldl f s) := by
  induction l generalizing s with
  | nil => exact .refl s
  | cons x l ih => exact (hf s x).trans (ih _)

theorem Mapped.of_mem (h : Mapped s t) (hk : k ∈ t.jobs) : ∃ j ∈ s.jobs, Kept j k := by
  obtain ⟨f, hf, hfk⟩ := h
  rw [hf] at hk
  obtain ⟨j, hj, rfl⟩ := List.mem_map.mp hk
  exact ⟨j, hj, hfk j⟩

theorem Mapped.to_mem (h : Mapped s t) (hj : j ∈ s.jobs) : ∃ k ∈ t.jobs, Kept j k := by
  obtain ⟨f, hf, hfk⟩ := h
  exact ⟨f j, hf ▸ List.mem_map_of_mem hj, hfk j⟩

theorem isLive_iff : isLive j = true ↔ j.phase ≠ .writing := by simp [isLive]

theorem live_fixJob (status now : Nat) (j : Job) : isLive (fixJob status now j) = true := by simp [isLive, fixJob]

/-- A live record without a fixed status that is given one is kept. -/
theorem Kept.of_open (hlive : isLive j = true) (hopen : j.fixed = 0) (hk : isLive k = true)
    (h : k.seq = j.seq ∧ k.queue = j.queue ∧ k.index = j.index ∧ k.desc = j.desc ∧ k.tAccept = j.tAccept) : Kept j k := by
  obtain ⟨h1, h2, h3, h4, h5⟩ := h
  exact ⟨h1, h2, h3, h4, h5, hk.trans hlive.symm, fun _ hf => absurd hopen hf⟩

/-- A record being written whose claims end is kept. -/
theorem Kept.of_writing (hlive : isLive j = false) (hk : isLive k = false)
    (h : k.seq = j.seq ∧ k.queue = j.queue ∧ k.index = j.index ∧ k.desc = j.desc ∧ k.tAccept = j.tAccept) : Kept j k := by
  obtain ⟨h1, h2, h3, h4, h5⟩ := h
  exact ⟨h1, h2, h3, h4, h5, hk.trans hlive.symm, fun hl _ => absurd (hl.symm.trans hlive) (by decide)⟩

/-! ## The operations that touch the records -/

theorem releases_mapped (l : List Job) (s : State) : Mapped s (l.foldl releaseClaims s) :=
  Mapped.foldl (fun t j => .of_only (releaseClaims_only t j) (by decide +kernel)) l s

theorem sweepKind_mapped (s : State) (kind : Nat) : Mapped s (sweepKind s kind) := by
  unfold sweepKind
  split
  · exact .refl s
  dsimp only
  refine (releases_mapped _ s).trans ⟨_, rfl, fun j => ?_⟩
  split
  · exact .refl j
  next hit =>
    have hhit : (isLive j && j.phase == .staged && j.fixed == 0 && needKind s j == kind) = true := by simpa using hit
    simp only [Bool.and_eq_true, beq_iff_eq] at hhit
    obtain ⟨⟨⟨hlive, -⟩, hopen⟩, -⟩ := hhit
    split
    · exact .of_open hlive hopen rfl ⟨rfl, rfl, rfl, rfl, rfl⟩
    · exact .of_open hlive hopen rfl ⟨rfl, rfl, rfl, rfl, rfl⟩

theorem sweeps_mapped (s : State) : Mapped s (([1, 2, 3, 4] : List Nat).foldl sweepKind s) := Mapped.foldl sweepKind_mapped _ s

/-- A record being written that its checks now fail with a status. -/
theorem kept_recoded (hl : isLive j = false) (c : Nat) : Kept j (if c = 0 then j else { j with fixed := c, capGen := none, extra := none }) := by
  split
  · exact .refl j
  · exact .of_writing hl hl ⟨rfl, rfl, rfl, rfl, rfl⟩

theorem recheckWriting_mapped (s : State) : Mapped s (recheckWriting s) := by
  unfold recheckWriting
  dsimp only
  refine (releases_mapped _ s).trans ⟨_, rfl, fun j => ?_⟩
  by_cases hl : isLive j = true
  · rw [if_pos (if_pos (by simp [hl]))]
    exact .refl j
  · exact kept_recoded (by simpa using hl) _

theorem modSlots_mapped (g : Slot → Slot) (l : List Nat) (s : State) : Mapped s (l.foldl (fun t n => modSlot t n g) s) :=
  Mapped.foldl (f := fun t n => modSlot t n g) (fun _ _ => .of_jobs rfl) l s

theorem modBlobs_mapped (g : BlobEntry → BlobEntry) (l : List Nat) (s : State) : Mapped s (l.foldl (fun t b => modBlob t b g) s) :=
  Mapped.foldl (f := fun t b => modBlob t b g) (fun _ _ => .of_jobs rfl) l s

theorem recheckWriting_after (h : t.jobs = s.jobs) : Mapped s (recheckWriting t) := (Mapped.of_jobs h).trans (recheckWriting_mapped t)

theorem revoke_mapped (s : State) (j : Job) : Mapped s (revoke s j) := by
  unfold revoke
  split
  · exact .refl s
  dsimp only
  refine Mapped.trans ?_ (modBlobs_mapped ..)
  refine Mapped.trans ?_ (modSlots_mapped ..)
  refine (releases_mapped _ s).trans ⟨_, rfl, fun x => ?_⟩
  split
  next hcut =>
    simp only [Bool.and_eq_true, beq_iff_eq] at hcut
    obtain ⟨⟨⟨⟨⟨⟨⟨-, hlive⟩, -⟩, -⟩, -⟩, hopen⟩, -⟩, -⟩ := hcut
    exact .of_open hlive hopen (live_fixJob ..) ⟨rfl, rfl, rfl, rfl, rfl⟩
  · exact .refl x

theorem applyManagement_mapped (s : State) (j : Job) : Mapped s (applyManagement s j) := by
  unfold applyManagement
  split
  · split
    · exact recheckWriting_after rfl
    · exact recheckWriting_after rfl
    · exact .refl s
  · exact (revoke_mapped s j).trans (recheckWriting_mapped _)
  · split
    · dsimp only
      split
      · exact recheckWriting_after rfl
      · refine Mapped.trans ?_ (.of_only (removeCache_only ..) (by decide +kernel))
        exact recheckWriting_after rfl
    · exact .refl s
  · exact .refl s

/-- The slot a key is created in is pending. -/
def targetPending (s : State) (j : Job) : State := match targetOf j.desc with
  | some n => modSlot s n fun x => { x with state := 1 }
  | none => s

theorem targetPending_mapped (s : State) (j : Job) : Mapped s (targetPending s j) := by
  unfold targetPending
  split
  · exact .of_jobs rfl
  · exact .refl s

/-- The leaf a stateful signature takes. -/
def leafPlaced (s : State) (n : Nat) (i : Option Nat) : State :=
  lowLeaves (startRefill (modHbs s n fun h => { h with nNext := max h.nNext (i.getD h.nNext + 1) }) n) n

theorem leafPlaced_mapped (s : State) (n : Nat) (i : Option Nat) : Mapped s (leafPlaced s n i) := by
  unfold leafPlaced
  refine Mapped.trans ?_ (.of_only (lowLeaves_only ..) (by decide +kernel))
  refine Mapped.trans ?_ (.of_only (startRefill_only ..) (by decide +kernel))
  exact .of_jobs rfl

/-- The leaf of a signature, where the record is one. -/
def leafDrawn (s : State) (j : Job) : State := if j.desc.opcode ∈ [0x0211, 0x0221] then leafPlaced s (hIdx j.desc.keyRef) j.extra else s

theorem leafDrawn_mapped (s : State) (j : Job) : Mapped s (leafDrawn s j) := by
  unfold leafDrawn
  split
  · exact leafPlaced_mapped ..
  · exact .refl s

theorem acceptEffects_mapped (s : State) (j : Job) : Mapped s (acceptEffects s j) := by
  unfold acceptEffects
  split
  · exact .refl s
  have hmanaged := ((targetPending_mapped s j).trans (leafDrawn_mapped _ j)).trans (applyManagement_mapped _ j)
  unfold leafDrawn leafPlaced targetPending at hmanaged
  dsimp only
  generalize applyManagement _ j = m at hmanaged ⊢
  split
  · exact hmanaged.trans (.of_jobs rfl)
  · exact hmanaged

/-! ## A record becomes live -/

/-- The record of a queue that is being written. -/
def writingOf (s : State) (q : Nat) : Option Job := s.jobs.find? fun j => j.queue == q && !isLive j

/-- A record as it becomes live. -/
def livened (now : Nat) (j : Job) : Job := if j.fixed = 0 then { j with phase := .staged, sent := false } else fixJob j.fixed now { j with phase := .staged, sent := false }

/-- The journal holds a live record in the place of the one being written. -/
def journalled (s : State) (q : Nat) (j : Job) : State :=
  journalWrite (setJobs s ((s.jobs.filter fun x => !(x.queue == q && !isLive x)) ++ [livened s.time j]))

/-- A passes the entry of a record that has become live. -/
def passedEntry (s : State) (q i : Nat) : State :=
  modQ s q fun x => { x with a := nextIdx x.k x.a, copies := x.copies.filter fun c => c.1 != i, headDeferred := false }

theorem becomeLive_eq (hj : writingOf s q = some j) : becomeLive s q =
    evalReserve (updateLtr (writeShadow (raiseBound (acceptEffects (markUse (serveGen (passedEntry (journalled s q j) q j.index)
      { j with phase := .staged, sent := false }) { j with phase := .staged, sent := false }) { j with phase := .staged, sent := false })) q)) := by
  unfold writingOf at hj
  unfold becomeLive
  rw [hj]
  rfl

theorem jobs_journalled (s : State) (q : Nat) (j : Job) : (journalled s q j).jobs = (s.jobs.filter fun x => !(x.queue == q && !isLive x)) ++ [livened s.time j] := rfl

theorem becomeLive_mapped (hj : writingOf s q = some j) : Mapped (journalled s q j) (becomeLive s q) := by
  rw [becomeLive_eq hj]
  generalize journalled s q j = v
  generalize ({ j with phase := .staged, sent := false } : Job) = k
  refine Mapped.trans ?_ (.of_only (evalReserve_only _) (by decide +kernel))
  refine Mapped.trans ?_ (.of_only (updateLtr_only _) (by decide +kernel))
  refine Mapped.trans ?_ (.of_only (writeShadow_only ..) (by decide +kernel))
  refine Mapped.trans ?_ (.of_only (raiseBound_only _) (by decide +kernel))
  refine Mapped.trans ?_ (acceptEffects_mapped ..)
  refine Mapped.trans ?_ (.of_only (markUse_only ..) (by decide +kernel))
  refine Mapped.trans ?_ (.of_only (serveGen_only ..) (by decide +kernel))
  exact .of_jobs rfl

theorem qAt_passedEntry (s : State) (q i : Nat) : (qAt (passedEntry s q i) q).a = nextIdx (qAt s q).k (qAt s q).a := by
  unfold passedEntry
  rw [qAt_modQ_self]

theorem a_becomeLive (hj : writingOf s q = some j) : (qAt (becomeLive s q) q).a = nextIdx (qAt s q).k (qAt s q).a := by
  rw [becomeLive_eq hj]
  have hjournal : qAt (journalled s q j) q = qAt s q := rfl
  generalize journalled s q j = v at hjournal
  generalize ({ j with phase := .staged, sent := false } : Job) = k
  rw [(evalReserve_only _).same (.queue .a) (by decide +kernel) q, (updateLtr_only _).same (.queue .a) (by decide +kernel) q,
    (writeShadow_only ..).same (.queue .a) (by decide +kernel) q, (raiseBound_only _).same (.queue .a) (by decide +kernel) q,
    (acceptEffects_only ..).same (.queue .a) (by decide +kernel) q, (markUse_only ..).same (.queue .a) (by decide +kernel) q,
    (serveGen_only ..).same (.queue .a) (by decide +kernel) q, qAt_passedEntry, hjournal]

/-! ## ACCEPT -/

/-- A record as it is given its place and its time. -/
def assigned (s : State) (j : Job) : Job := { j with seq := s.jn.nextSeq, tAccept := s.time, extra := extraOf s j, keyWord := parentAttrs s j.desc j.paddock }

section
variable (hmem : j ∈ s.jobs) (hq : j.queue = q) (hwriting : j.phase = .writing) (hunique : ∀ k ∈ s.jobs, k.queue = q → k.phase = .writing → k = j)
include hmem hq hwriting hunique

theorem find_writing {f : Job → Bool} (hf : f j = true) : s.jobs.find? (fun k => k.queue == q && !isLive k && f k) = some j := by
  have hsome : (s.jobs.find? (fun k => k.queue == q && !isLive k && f k)).isSome = true :=
    List.find?_isSome.mpr ⟨j, hmem, by simp [hq, isLive, hwriting, hf]⟩
  obtain ⟨k, hk⟩ := Option.isSome_iff_exists.mp hsome
  have hp := List.find?_some hk
  simp only [Bool.and_eq_true, beq_iff_eq, Bool.not_eq_true', isLive, bne_eq_false_iff_eq] at hp
  rw [hk, hunique k (List.mem_of_find?_eq_some hk) hp.1.1 hp.1.2]

theorem exec_gateAccept (hsent : j.sent = false) (w : Bool) : exec (.gateAccept q w) s =
    .next (if s.jn.role = 3 then s else if w then afterAccept (acceptEntry s q) else settle (acceptFails s j)) := by
  have hfind := find_writing hmem hq hwriting hunique (f := fun k => !k.sent) (by simp [hsent])
  show Host.Outcome.next (match s.jobs.find? (fun j => j.queue == q && !isLive j && !j.sent) with
    | none => s
    | some j => if s.jn.role = 3 then s else if w then afterAccept (acceptEntry s q) else settle (acceptFails s j)) = _
  rw [hfind]

theorem writing_assign : writingOf (assign s q) q = some (assigned s j) := by
  have hjobs : (assign s q).jobs = s.jobs.map fun k => if k.queue == q && !isLive k then assigned s k else k := rfl
  have hlive : ∀ k : Job, isLive (assigned s k) = isLive k := fun _ => rfl
  have hpred : ∀ k : Job, ((if k.queue == q && !isLive k then assigned s k else k).queue == q && !isLive (if k.queue == q && !isLive k then assigned s k else k)) =
      (k.queue == q && !isLive k) := fun k => by split <;> rfl
  unfold writingOf
  rw [hjobs, List.find?_map]
  have hfind := find_writing hmem hq hwriting hunique (f := fun _ => true) rfl
  simp only [Bool.and_true] at hfind
  have hcomp : ((fun k : Job => k.queue == q && !isLive k) ∘ fun k : Job => if k.queue == q && !isLive k then assigned s k else k) = fun k : Job => k.queue == q && !isLive k :=
    funext hpred
  rw [hcomp, hfind]
  exact congrArg some (if_pos (by simp [hq, isLive, hwriting]))

end

theorem settle_swept (hcalm : Calm s) : afterAccept s = ([1, 2, 3, 4] : List Nat).foldl sweepKind s :=
  settle_of_calm (calm_of_only hcalm (Only.foldl _ (fun t k => sweepKind_only t k) (Only.refl _ _)) (by decide +kernel) (by decide +kernel) (by decide +kernel))

theorem sweeps_only (s : State) : Only [.tk .slots, .tk .blobs, .tk .hbs, .jobs, .yard, .cache] s (([1, 2, 3, 4] : List Nat).foldl sweepKind s) :=
  Only.foldl _ (fun t k => sweepKind_only t k) (Only.refl _ _)

theorem no_writing_journalled (hk : k ∈ (journalled s q j).jobs) (hq : k.queue = q) : isLive k = true := by
  rw [jobs_journalled] at hk
  rcases List.mem_append.mp hk with hk | hk
  · have hf := (List.mem_filter.mp hk).2
    simpa [hq] using hf
  · obtain rfl := List.mem_singleton.mp hk
    unfold livened
    split
    · rfl
    · exact live_fixJob ..

theorem accept_becomesLive (hcalm : Calm s) (hmem : j ∈ s.jobs) (hq : j.queue = q) (hwriting : j.phase = .writing)
    (hunique : ∀ k ∈ s.jobs, k.queue = q → k.phase = .writing → k = j) (hrole : s.jn.role ≠ 1) (ht : t = afterAccept (acceptEntry s q)) :
    t.jn.nextSeq = s.jn.nextSeq + seqStep s ∧ t.time = s.time + 1 ∧ (qAt t q).a = nextIdx (qAt s q).k (qAt s q).a ∧
      (∀ k ∈ t.jobs, k.queue = q → k.phase ≠ .writing) ∧
      ∃ k ∈ t.jobs, k.seq = s.jn.nextSeq ∧ k.tAccept = s.time ∧ k.queue = q ∧ k.index = j.index ∧ k.desc = j.desc ∧ k.phase ≠ .writing ∧
        (j.fixed ≠ 0 → k.phase = .finished ∧ k.status = j.fixed ∧ k.stallId = 0xFFFF ∧ k.tDone = s.time + 1) := by
  have hassign : acceptEntry s q = becomeLive (assign s q) q := if_neg (by simp [mirrored, hrole])
  have hw := writing_assign hmem hq hwriting hunique
  have hao := assign_only s q
  have hseq : (assign s q).jn.nextSeq = s.jn.nextSeq + seqStep s := rfl
  have htime : (assign s q).time = s.time + 1 := rfl
  have hqa : qAt (assign s q) q = qAt s q := rfl
  rw [hassign] at ht
  generalize assign s q = v at *
  have hbo := becomeLive_only v q
  have hmap := (becomeLive_mapped hw).trans (sweeps_mapped (becomeLive v q))
  rw [settle_swept (calm_of_only (calm_of_only hcalm hao (by decide +kernel) (by decide +kernel) (by decide +kernel)) hbo (by decide +kernel) (by decide +kernel)
    (by decide +kernel))] at ht
  have ha := a_becomeLive hw
  generalize becomeLive v q = b at *
  have hso := sweeps_only b
  rw [← ht] at hso hmap
  refine ⟨?_, ?_, ?_, fun k hk hkq => ?_, ?_⟩
  · rw [jn_of_only hso (by decide +kernel), hbo.same (.jn .nextSeq) (by decide +kernel), hseq]
  · rw [hso.same .time (by decide +kernel), hbo.same .time (by decide +kernel), htime]
  · rw [hso.same (.queue .a) (by decide +kernel) q, ha, hqa]
  · obtain ⟨i, hi, hkept⟩ := hmap.of_mem hk
    exact isLive_iff.mp (hkept.live.trans (no_writing_journalled hi (hkept.queue.symm.trans hkq)))
  · have hin : livened v.time (assigned s j) ∈ (journalled v q (assigned s j)).jobs := by
      rw [jobs_journalled]
      exact List.mem_append_right _ List.mem_cons_self
    obtain ⟨k, hk, hkept⟩ := hmap.to_mem hin
    have hplace : (livened v.time (assigned s j)).seq = s.jn.nextSeq ∧ (livened v.time (assigned s j)).tAccept = s.time ∧
        (livened v.time (assigned s j)).queue = q ∧ (livened v.time (assigned s j)).index = j.index ∧ (livened v.time (assigned s j)).desc = j.desc := by
      unfold livened
      split
      · exact ⟨rfl, rfl, hq, rfl, rfl⟩
      · exact ⟨rfl, rfl, hq, rfl, rfl⟩
    obtain ⟨h1, h2, h3, h4, h5⟩ := hplace
    have hlive := no_writing_journalled hin h3
    refine ⟨k, hk, hkept.seq.trans h1, hkept.tAccept.trans h2, hkept.queue.trans h3, hkept.index.trans h4, hkept.desc.trans h5, isLive_iff.mp (hkept.live.trans hlive),
      fun hf => ?_⟩
    have hfix : livened v.time (assigned s j) = fixJob j.fixed v.time { assigned s j with phase := .staged, sent := false } := if_neg hf
    have hsame : k = livened v.time (assigned s j) := hkept.fixed hlive (by rw [hfix]; exact hf)
    rw [hsame, hfix, ← htime]
    exact ⟨rfl, rfl, rfl, rfl⟩

theorem accept_sends (hcalm : Calm s) (hmem : j ∈ s.jobs) (hq : j.queue = q) (hwriting : j.phase = .writing)
    (hunique : ∀ k ∈ s.jobs, k.queue = q → k.phase = .writing → k = j) (hrole : s.jn.role = 1) (ht : t = afterAccept (acceptEntry s q)) :
    (qAt t q).a = (qAt s q).a ∧ t.jn.nextSeq = s.jn.nextSeq + seqStep s ∧ t.out = s.out ++ [.tether 0x01 s.tt.txSeq (recordFrame s (assigned s j))] := by
  have hw := writing_assign hmem hq hwriting hunique
  have hentry : acceptEntry s q = sendFrame { assign s q with jobs := (assign s q).jobs.map fun x => if x.queue == q && !isLive x then { x with sent := true } else x } 0x01
      (recordFrame (assign s q) (assigned s j)) := by
    unfold writingOf at hw
    unfold acceptEntry
    dsimp only
    rw [if_pos (by simp [mirrored, hrole]), hw]
  have heo := acceptEntry_only s q
  rw [settle_swept (calm_of_only hcalm heo (by decide +kernel) (by decide +kernel) (by decide +kernel))] at ht
  have hout : (acceptEntry s q).out = s.out ++ [.tether 0x01 s.tt.txSeq (recordFrame s (assigned s j))] := by
    rw [hentry]
    rfl
  have hseq : (acceptEntry s q).jn.nextSeq = s.jn.nextSeq + seqStep s := by
    rw [hentry]
    rfl
  have ha : (qAt (acceptEntry s q) q).a = (qAt s q).a := by
    rw [hentry]
    rfl
  generalize acceptEntry s q = b at *
  have hso := sweeps_only b
  rw [← ht] at hso
  refine ⟨?_, ?_, ?_⟩
  · rw [hso.same (.queue .a) (by decide +kernel) q, ha]
  · rw [jn_of_only hso (by decide +kernel), hseq]
  · rw [hso.same .out (by decide +kernel), hout]

/-- The bank a failed write is charged to, and its row. -/
theorem acceptFails_eq (s : State) (j : Job) : ∃ b < 2, ∃ row, acceptFails s j = report (draw (dropEntry s j)).2 (0x80 + b) 0x13 false 0 row := by
  refine ⟨(draw (dropEntry s j)).1 % 2, Nat.mod_lt _ (by decide), (draw (dropEntry s j)).1 / 2 % 2 ^ 40, ?_⟩
  have hstall : ¬(0x80 + (draw (dropEntry s j)).1 % 2 < 0x34) := by omega
  exact faultAction_inert (by decide) (fun h => absurd h hstall) (by decide)

theorem accept_fails (hclear : FaultsClear s) (hq : j.queue = q) (ht : t = settle (acceptFails s j)) : (qAt t q).a = (qAt s q).a ∧ t.jn.nextSeq = s.jn.nextSeq ∧
    (∀ k ∈ t.jobs, k.queue = q → k.phase ≠ .writing) ∧ fatalHolds t = true ∧ (∃ b < 2, (findOut t.fc (0x80 + b) 0x13).isSome = true) := by
  obtain ⟨b, hb, row, hfails⟩ := acceptFails_eq s j
  have hd : Only [.tk .slots, .tk .blobs, .tk .hbs, .tt .txSeq, .tt .unacked, .jobs, .cache, .out, .freeCtr] s (draw (dropEntry s j)).2 :=
    Only.then (draw_only _) (by decide +kernel) ((dropEntry_only s j).mono (by decide +kernel))
  have hjobs : ∀ k ∈ (draw (dropEntry s j)).2.jobs, k.queue = q → k.phase ≠ .writing := fun k hk hkq => by
    have hdrop : (draw (dropEntry s j)).2.jobs = s.jobs.filter fun x => !(x.queue == j.queue && !isLive x) := by
      show (dropEntry s j).jobs = _
      unfold dropEntry
      dsimp only
      have hrel := (releaseClaims_only { s with jobs := s.jobs.filter fun x => !(x.queue == j.queue && !isLive x) } j).same .jobs (by decide +kernel)
      split
      · exact ((sendFrame_only ..).same .jobs (by decide +kernel)).trans hrel
      · exact hrel
    rw [hdrop] at hk
    have hf := (List.mem_filter.mp hk).2
    refine isLive_iff.mp ?_
    simpa [hkq, hq] using hf
  rw [hfails] at ht
  generalize (draw (dropEntry s j)).2 = v at *
  have hclear' : FaultsClear v := by
    unfold FaultsClear
    rw [fc_of_only hd (by decide +kernel)]
    exact hclear
  have hnone : bucketRule (0x80 + b) 0x13 = none := by
    have hcase : b = 0 ∨ b = 1 := by omega
    rcases hcase with rfl | rfl
    · decide
    · decide
  have hr := report_only v (0x80 + b) 0x13 false 0 row
  have hs := settle_only_of_nothingDue (report_nothingDue (source := 0x80 + b) (kind := 0x13) (charged := false) (pad := 0) (detail := row) (by decide) hclear'
    (BelowBucket.of_none hnone))
  rw [← ht] at hs
  have hout : t.fc.out = [(0, some (entryOf v (0x80 + b) 0x13 false 0 row))] := by rw [fc_of_only hs (by decide +kernel), report_out (by decide) hclear'.1]
  refine ⟨?_, ?_, fun k hk => ?_, ?_, b, hb, ?_⟩
  · rw [hs.same (.queue .a) (by decide +kernel) q, hr.same (.queue .a) (by decide +kernel) q, hd.same (.queue .a) (by decide +kernel) q]
  · rw [jn_of_only hs (by decide +kernel), jn_of_only hr (by decide +kernel), jn_of_only hd (by decide +kernel)]
  · rw [hs.same .jobs (by decide +kernel), hr.same .jobs (by decide +kernel)] at hk
    exact hjobs k hk
  · rw [fatalHolds_single hout]
    rfl
  · rw [findOut_single (source := 0x80 + b) (kind := 0x13) hout rfl rfl]
    rfl

end

/-- Settles O21: a fenced side, an accepted record, a record sent to the partner, and one that cannot be written. -/
theorem acceptanceIsTheJournalWrite : Obligations.AcceptanceIsTheJournalWrite := by
  intro s q j hcalm hflush hmem hq hwriting hsent _ hunique
  have hexec := exec_gateAccept hmem hq hwriting hunique hsent
  refine ⟨fun hrole w => ?_, fun h1 h3 => ⟨_, ?_, accept_becomesLive hcalm hmem hq hwriting hunique h1 rfl⟩,
    fun h1 => ⟨_, ?_, accept_sends hcalm hmem hq hwriting hunique h1 rfl⟩, fun hclear h3 => ⟨_, ?_, accept_fails hclear hq rfl⟩⟩
  · rw [hexec, if_pos hrole]
  · rw [hexec, if_neg h3, if_pos rfl]
  · rw [hexec, if_neg (by rw [h1]; decide), if_pos rfl]
  · rw [hexec, if_neg h3, if_neg (by decide)]

end Sys2Proof.Accepting
end

section
/-! PROOF. Frames of the tether: what is answered, what is taken, and what an acknowledgement frees (R486, R487, Table 22.6; O29). -/

namespace Sys2Proof.Tether

open Sys2Proof Sys2Proof.Machine Sys2Proof.Claims Sys2Proof.Frames Sys2Proof.Holding Sys2Proof.PadReset Sys2Proof.HostReads Sys2Proof.Reports
  Sys2Proof.FaultMessages Sys2Proof.BootWaits Sys2Proof.JournalUpkeep

section
variable {s t u v : State} {f g : Frame} {j : Job} {n h o w q a term : Nat} {l d : List Nat}

/-! ## What is answered -/

theorem flush_of_tether (hr : tetherRuns s = true) : s.en.flushActive = false := by
  unfold tetherRuns at hr
  simpa using (Bool.and_eq_true_iff.mp hr).2

theorem frame_failed (hr : tetherRuns s = true) (hcrc : f.crcOk = false) :
    exec (.tetherFrameReceive f) s = .next (emit s (.tether 0x07 s.tt.rxSeq [0, f.lane])) :=
  congrArg Host.Outcome.next ((if_neg (by simp [hr])).trans (if_pos (by simp [hcrc])))

theorem frame_outOfOrder (hr : tetherRuns s = true) (hcrc : f.crcOk = true) (hk : f.kind ≠ 0x07) (hseq : f.seq ≠ s.tt.rxSeq) :
    exec (.tetherFrameReceive f) s = .next (emit s (.tether 0x07 s.tt.rxSeq [1])) :=
  congrArg Host.Outcome.next ((if_neg (by simp [hr])).trans ((if_neg (by simp [hcrc])).trans ((if_neg hk).trans (if_pos hseq))))

/-- The next frame is expected. -/
def expecting (s : State) : State := { s with tt := { s.tt with rxSeq := (s.tt.rxSeq + 1) % 2 ^ 32 } }

theorem frame_delivered (hr : tetherRuns s = true) (hcrc : f.crcOk = true) (hk : f.kind ≠ 0x07) (hseq : f.seq = s.tt.rxSeq) :
    exec (.tetherFrameReceive f) s = .next (settle (sendAck (deliver (expecting s) f))) :=
  congrArg Host.Outcome.next ((if_neg (by simp [hr])).trans ((if_neg (by simp [hcrc])).trans ((if_neg hk).trans (if_neg (by simp [hseq])))))

theorem frame_acknowledges (hr : tetherRuns s = true) (hcrc : f.crcOk = true) (hk : f.kind = 0x07) :
    exec (.tetherFrameReceive f) s = .next (settle (takeAck s f)) :=
  congrArg Host.Outcome.next ((if_neg (by simp [hr])).trans ((if_neg (by simp [hcrc])).trans (if_pos hk)))

/-! ## What a delivered frame does -/

/-- A frame taken in a calm part: the count rises and the acknowledgement goes out, with nothing else due. -/
theorem frame_got {l : List Part} (hcalm : Calm s) (ho : Only l (expecting s) v)
    (hl : Part.out ∉ l ∧ Part.tt .rxSeq ∉ l ∧ Part.fc .escNow ∉ l ∧ Part.fc .retireNow ∉ l ∧ Part.pad .replayOwed ∉ l) : settle (sendAck v) = sendAck v ∧
    (sendAck v).tt.rxSeq = (s.tt.rxSeq + 1) % 2 ^ 32 ∧ (sendAck v).out = s.out ++ [.tether 0x07 ((s.tt.rxSeq + 1) % 2 ^ 32) [1]] := by
  obtain ⟨hout, hrx, hesc, hret, howed⟩ := hl
  have hrx' : v.tt.rxSeq = (s.tt.rxSeq + 1) % 2 ^ 32 := ho.same (.tt .rxSeq) hrx
  have hout' : v.out = s.out := ho.same .out hout
  have hcalm' : Calm v := calm_of_only (s := expecting s) hcalm ho hesc hret howed
  refine ⟨settle_of_calm (calm_of_only hcalm' (sendAck_only v) (by decide +kernel) (by decide +kernel) (by decide +kernel)), hrx', ?_⟩
  show v.out ++ [.tether 0x07 v.tt.rxSeq [1]] = _
  rw [hout', hrx']

theorem nextSeq_raiseBound (s : State) : (raiseBound s).jn.nextSeq = s.jn.nextSeq := congrArg _ (jn_of_only (raiseBound_only s) (by decide +kernel))

/-- The counts given from now on lie above the partner's. -/
theorem lt_raiseCount (s : State) (n : Nat) : n < (raiseCount s n).jn.nextSeq := by
  unfold raiseCount
  split
  · rw [nextSeq_raiseBound]
    show n < ownSide s (n / 2 * 2 + 2)
    unfold ownSide
    split
    · omega
    · omega
  · omega

theorem takeRecord_eq (hj : readRecord (bytesOfWords (l.take 12)) = some j) : takeRecord s l = { journalWrite (raiseCount s j.seq) with
    tt := { (journalWrite (raiseCount s j.seq)).tt with
      mirror := ((journalWrite (raiseCount s j.seq)).tt.mirror.filter fun x => x.seq != j.seq) ++ [j]
      mirrorA := smSet 0 (journalWrite (raiseCount s j.seq)).tt.mirrorA j.queue (nextIdx (qAt (journalWrite (raiseCount s j.seq)) j.queue).k j.index)
      mirrorCaps := takeCap (journalWrite (raiseCount s j.seq)).tt.mirrorCaps j (l.drop 12) } } := by
  unfold takeRecord
  rw [hj]

theorem record_taken (hj : readRecord (bytesOfWords (l.take 12)) = some j) : j ∈ (takeRecord s l).tt.mirror ∧ (∀ x ∈ (takeRecord s l).tt.mirror, x.seq = j.seq → x = j) ∧
    j.seq < (takeRecord s l).jn.nextSeq := by
  rw [takeRecord_eq hj]
  have hlt : j.seq < (journalWrite (raiseCount s j.seq)).jn.nextSeq := lt_raiseCount s j.seq
  generalize journalWrite (raiseCount s j.seq) = v at hlt
  refine ⟨List.mem_append_right _ List.mem_cons_self, fun x hx hseq => ?_, hlt⟩
  rcases List.mem_append.mp hx with hx | hx
  · have hne := (List.mem_filter.mp hx).2
    simp [hseq] at hne
  · exact List.mem_singleton.mp hx

theorem deliver_record (hk : f.kind = 0x01 ∨ f.kind = 0x06) : deliver s f = takeRecord s f.payload := by
  unfold deliver
  rcases hk with hk | hk
  · rw [hk]; rfl
  · rw [hk]; rfl

theorem frame_record (hr : tetherRuns s = true) (hcrc : f.crcOk = true) (hseq : f.seq = s.tt.rxSeq) (hcalm : Calm s) (hk : f.kind = 0x01 ∨ f.kind = 0x06)
    (hj : readRecord (bytesOfWords (f.payload.take 12)) = some j) : ∃ t, exec (.tetherFrameReceive f) s = .next t ∧
      (t.tt.rxSeq = (s.tt.rxSeq + 1) % 2 ^ 32 ∧ t.out = s.out ++ [.tether 0x07 ((s.tt.rxSeq + 1) % 2 ^ 32) [1]]) ∧
      j ∈ t.tt.mirror ∧ (∀ x ∈ t.tt.mirror, x.seq = j.seq → x = j) ∧ j.seq < t.jn.nextSeq ∧ t.jobs = s.jobs := by
  rw [frame_delivered hr hcrc (by rcases hk with hk | hk <;> simp [hk]) hseq, deliver_record hk]
  have ho := takeRecord_only (expecting s) f.payload
  obtain ⟨hmem, hone, hlt⟩ := record_taken (s := expecting s) hj
  generalize takeRecord (expecting s) f.payload = v at *
  obtain ⟨hsettle, hrx, hout⟩ := frame_got hcalm ho (by decide +kernel)
  rw [hsettle]
  exact ⟨_, rfl, ⟨hrx, hout⟩, hmem, hone, hlt, ho.same .jobs (by decide +kernel)⟩

theorem frame_retirement (hr : tetherRuns s = true) (hcrc : f.crcOk = true) (hseq : f.seq = s.tt.rxSeq) (hcalm : Calm s) (hk : f.kind = 0x02)
    (hp : f.payload = [w, q, a]) : ∃ t, exec (.tetherFrameReceive f) s = .next t ∧
      (t.tt.rxSeq = (s.tt.rxSeq + 1) % 2 ^ 32 ∧ t.out = s.out ++ [.tether 0x07 ((s.tt.rxSeq + 1) % 2 ^ 32) [1]]) ∧
      (∀ x ∈ t.tt.mirror, x.seq ≠ w) ∧ ((qAt s q).standby = true → (qAt t q).t = a) := by
  have hdel : deliver (expecting s) f = takeRetirement (expecting s) w q a := by
    unfold deliver
    rw [hk, hp]
    rfl
  rw [frame_delivered hr hcrc (by simp [hk]) hseq, hdel]
  have ho := takeRetirement_only (expecting s) w q a
  have hmirror : ∀ x ∈ (takeRetirement (expecting s) w q a).tt.mirror, x.seq ≠ w := fun x hx => by
    have hfilter : (takeRetirement (expecting s) w q a).tt.mirror = s.tt.mirror.filter fun x => x.seq != w := by
      unfold takeRetirement
      dsimp only
      split
      · rfl
      · rfl
    rw [hfilter] at hx
    simpa using (List.mem_filter.mp hx).2
  have hstand : (qAt s q).standby = true → (qAt (takeRetirement (expecting s) w q a) q).t = a := fun hst => by
    have hmod : takeRetirement (expecting s) w q a = modQ (journalWrite { expecting s with
        tt := { (expecting s).tt with mirror := (expecting s).tt.mirror.filter fun x => x.seq != w } }) q fun x => { x with t := a } := if_pos hst
    rw [hmod, qAt_modQ_self]
  generalize takeRetirement (expecting s) w q a = v at *
  obtain ⟨hsettle, hrx, hout⟩ := frame_got hcalm ho (by decide +kernel)
  rw [hsettle]
  exact ⟨_, rfl, ⟨hrx, hout⟩, hmirror, hstand⟩

theorem frame_stateful (hr : tetherRuns s = true) (hcrc : f.crcOk = true) (hseq : f.seq = s.tt.rxSeq) (hcalm : Calm s) (hk : f.kind = 0x03)
    (hp : f.payload = [n, h]) : ∃ t, exec (.tetherFrameReceive f) s = .next t ∧
      (t.tt.rxSeq = (s.tt.rxSeq + 1) % 2 ^ 32 ∧ t.out = s.out ++ [.tether 0x07 ((s.tt.rxSeq + 1) % 2 ^ 32) [1]]) ∧
      smGet 0 t.tt.mirrorH n = max (smGet 0 s.tt.mirrorH n) h := by
  have hdel : deliver (expecting s) f = takeStateful (expecting s) n h [] := by
    unfold deliver
    rw [hk, hp]
    rfl
  rw [frame_delivered hr hcrc (by simp [hk]) hseq, hdel]
  have ho := takeStateful_only (expecting s) n h []
  have hmirror : smGet 0 (takeStateful (expecting s) n h []).tt.mirrorH n = max (smGet 0 s.tt.mirrorH n) h := by
    show smGet 0 (smMod 0 s.tt.mirrorH n fun x => max x h) n = _
    rw [smGet_smMod, if_pos rfl]
  generalize takeStateful (expecting s) n h [] = v at *
  obtain ⟨hsettle, hrx, hout⟩ := frame_got hcalm ho (by decide +kernel)
  rw [hsettle]
  exact ⟨_, rfl, ⟨hrx, hout⟩, hmirror⟩

theorem frame_object {x : Nat} (hr : tetherRuns s = true) (hcrc : f.crcOk = true) (hseq : f.seq = s.tt.rxSeq) (hcalm : Calm s) (hk : f.kind = 0x04)
    (hp : f.payload = o :: x :: l) : ∃ t, exec (.tetherFrameReceive f) s = .next t ∧
      (t.tt.rxSeq = (s.tt.rxSeq + 1) % 2 ^ 32 ∧ t.out = s.out ++ [.tether 0x07 ((s.tt.rxSeq + 1) % 2 ^ 32) [1]]) ∧ (o, x) ∈ t.tt.mirrorObjs := by
  have hdel : deliver (expecting s) f = takeObject (expecting s) o x l := by
    unfold deliver
    rw [hk, hp]
    rfl
  rw [frame_delivered hr hcrc (by simp [hk]) hseq, hdel]
  have ho := takeObject_only (expecting s) o x l
  have hmem : (o, x) ∈ (takeObject (expecting s) o x l).tt.mirrorObjs := List.mem_append_right _ List.mem_cons_self
  generalize takeObject (expecting s) o x l = v at *
  obtain ⟨hsettle, hrx, hout⟩ := frame_got hcalm ho (by decide +kernel)
  rw [hsettle]
  exact ⟨_, rfl, ⟨hrx, hout⟩, hmem⟩

theorem deliver_digest (hk : f.kind = 0x05) (hp : f.payload = term :: n :: d) : deliver s f = takeDigest s term n d := by
  unfold deliver
  rw [hk, hp]
  rfl

/-- The partner has told its digest and its term. -/
def met (s : State) (term n : Nat) : State := { s with tt := { s.tt with partnerTerm := term, partnerSerial := n, partnerPresent := true } }

theorem frame_digestAgrees (hr : tetherRuns s = true) (hcrc : f.crcOk = true) (hseq : f.seq = s.tt.rxSeq) (hcalm : Calm s) (hk : f.kind = 0x05)
    (hp : f.payload = term :: n :: d) (hd : bytesOfWords d = padTo 48 s.plan.digest) : ∃ t, exec (.tetherFrameReceive f) s = .next t ∧
      (t.tt.rxSeq = (s.tt.rxSeq + 1) % 2 ^ 32 ∧ t.out = s.out ++ [.tether 0x07 ((s.tt.rxSeq + 1) % 2 ^ 32) [1]]) ∧
      t.tt.partnerTerm = term ∧ t.tt.partnerPresent = true ∧ t.jn = s.jn := by
  have htaken : takeDigest (expecting s) term n d = met (expecting s) term n := if_pos hd
  rw [frame_delivered hr hcrc (by simp [hk]) hseq, deliver_digest hk hp, htaken]
  have ho : Only [.tt .partnerTerm, .tt .partnerSerial, .tt .partnerPresent] (expecting s) (met (expecting s) term n) :=
    put_tt (Tether.set_partnerTerm_partnerSerial_partnerPresent (by decide +kernel) (TtReg.refl _ _)) (Only.refl _ _)
  obtain ⟨hsettle, hrx, hout⟩ := frame_got hcalm ho (by decide +kernel)
  rw [hsettle]
  exact ⟨_, rfl, ⟨hrx, hout⟩, rfl, rfl, rfl⟩

/-- The partner's plan is another: the gate stays closed. -/
def mismatched (s : State) : State := { s with pl := { s.pl with err := 0x0D }, tt := { s.tt with mismatch := true }, jn := { s.jn with opened := false } }

theorem frame_digestDiffers (hr : tetherRuns s = true) (hcrc : f.crcOk = true) (hseq : f.seq = s.tt.rxSeq) (hclear : FaultsClear s) (hk : f.kind = 0x05)
    (hp : f.payload = term :: n :: d) (hd : bytesOfWords d ≠ padTo 48 s.plan.digest) : ∃ t, exec (.tetherFrameReceive f) s = .next t ∧ t.tt.mismatch = true ∧
      t.jn.opened = false ∧ t.pl.err = 0x0D ∧ (findOut t.fc 0x184 0x22).isSome = true := by
  have htaken : takeDigest (expecting s) term n d = report (mismatched (met (expecting s) term n)) 0x184 0x22 false 0 0 := if_neg hd
  rw [frame_delivered hr hcrc (by simp [hk]) hseq, deliver_digest hk hp, htaken]
  have hfields : (mismatched (met (expecting s) term n)).tt.mismatch = true ∧ (mismatched (met (expecting s) term n)).jn.opened = false ∧
      (mismatched (met (expecting s) term n)).pl.err = 0x0D ∧ FaultsClear (mismatched (met (expecting s) term n)) := ⟨rfl, rfl, rfl, hclear⟩
  generalize mismatched (met (expecting s) term n) = v at hfields
  obtain ⟨hmis, hopen, herr, hclear'⟩ := hfields
  have hrep := report_only v 0x184 0x22 false 0 0
  have ha := sendAck_only (report v 0x184 0x22 false 0 0)
  obtain ⟨hs, hfound⟩ := HayloftBlocks.report_opens (by decide) hclear' (BelowBucket.of_none (by decide)) ha (by decide +kernel)
  refine ⟨_, rfl, ?_, ?_, ?_, hfound⟩
  · rw [tt_of_only hs (by decide +kernel), tt_of_only ha (by decide +kernel), tt_of_only hrep (by decide +kernel), hmis]
  · rw [jn_of_only hs (by decide +kernel), jn_of_only ha (by decide +kernel), jn_of_only hrep (by decide +kernel), hopen]
  · rw [pl_of_only hs (by decide +kernel), pl_of_only ha (by decide +kernel), pl_of_only hrep (by decide +kernel), herr]

/-! ## Acknowledgements -/

theorem ack_commits (hr : tetherRuns s = true) (hcrc : f.crcOk = true) (hk : f.kind = 0x07) (hp : f.payload = [1]) (hun : s.tt.unacked = [g])
    (hb : seqBefore g.seq f.seq = true) (hgk : g.kind = 0x03) (hgp : g.payload = [n, h]) (href : (hbsAt s n).refill = some h) (hcalm : Calm s) :
    ∃ t, exec (.tetherFrameReceive f) s = .next t ∧ t.tt.unacked = [] ∧ (hbsAt t n).h = max (hbsAt s n).h h := by
  have htake : takeAck s f = commitRefill { s with tt := { s.tt with unacked := [] } } n h := by
    have hack : ackUpTo s f.seq = frameAcked { s with tt := { s.tt with unacked := [] } } g := by
      unfold ackUpTo
      dsimp only
      rw [hun, List.takeWhile_cons_of_pos (by exact hb)]
      rfl
    unfold takeAck
    dsimp only
    rw [hp, if_neg (by decide), hack]
    unfold frameAcked
    rw [hgk, hgp]
    exact if_pos href
  have hpend : ({ s with tt := { s.tt with unacked := [] } } : State).tt.unacked = [] ∧ (∀ m, hbsAt { s with tt := { s.tt with unacked := [] } } m = hbsAt s m) ∧
      Calm { s with tt := { s.tt with unacked := [] } } := ⟨rfl, fun _ => rfl, hcalm⟩
  rw [frame_acknowledges hr hcrc hk, htake]
  generalize ({ s with tt := { s.tt with unacked := [] } } : State) = v at hpend
  obtain ⟨hnone, hkey, hcalm'⟩ := hpend
  have ho := commitRefill_only v n h
  rw [settle_of_calm (calm_of_only hcalm' ho (by decide +kernel) (by decide +kernel) (by decide +kernel))]
  refine ⟨_, rfl, ?_, ?_⟩
  · rw [tt_of_only ho (by decide +kernel), hnone]
  · rw [commitRefill, hbsAt_of_only (recheck_only ..) (by decide +kernel), (hbsAt_startRefill ..).1, hbsAt_modHbs, if_pos rfl, hkey]

end

end Sys2Proof.Tether
end

section
/-! PROOF. Lanes of the tether: what is sent again, a lane that fails, too few lanes, the heartbeat (R486 to R489; O29). -/

namespace Sys2Proof.Tether

open Sys2Proof Sys2Proof.Machine Sys2Proof.Claims Sys2Proof.Frames Sys2Proof.PadReset Sys2Proof.HostReads Sys2Proof.Reports

section
variable {s t u v : State} {n m lane source kind pad detail : Nat} {e : OutFault} {c : Faults}

/-! ## Sending again -/

theorem foldl_emit {α : Type} (f : α → Emission) (l : List α) (s : State) : l.foldl (fun t x => emit t (f x)) s = { s with out := s.out ++ l.map f } := by
  induction l generalizing s with
  | nil => simp
  | cons x xs ih =>
    rw [List.foldl_cons, ih]
    simp [emit, List.append_assoc]

theorem retransmit_eq (s : State) : retransmit s = { s with
    tt := { s.tt with retransmits := satAdd 0xFFFFFFFF s.tt.retransmits s.tt.unacked.length }
    out := s.out ++ s.tt.unacked.map fun f => .tether f.kind f.seq f.payload } := foldl_emit ..

/-- A lane has one correctable event more. -/
def laneEvent (s : State) (n : Nat) : State := modLane s n fun x => { x with ce := satAdd 0xFFFFFFFF x.ce 1 }

theorem laneEvent_only (s : State) (n : Nat) : Only [.tt .lanes] s (laneEvent s n) := modLane_only ..

theorem lane_charged (hn : n < 4) : raiseFault s (0x180 + n) 0x20 false 0 0 = laneEvent (report s (0x180 + n) 0x20 false 0 0) n := by
  unfold raiseFault faultAction
  rw [if_neg (by omega), if_neg (by simp)]
  show (if _ then _ else _) = _
  rw [if_pos (by omega), Nat.add_sub_cancel_left]
  rfl

theorem bucketRule_lane (hn : n < 4) (kind : Nat) : bucketRule (0x180 + n) kind = if kind = 0x20 then some 8 else none := by
  have h : n = 0 ∨ n = 1 ∨ n = 2 ∨ n = 3 := by omega
  rcases h with rfl | rfl | rfl | rfl
  all_goals rfl

theorem bucketKey_lane (hn : n < 4) : bucketKey (0x180 + n) 0 = 0x180 + n := by
  have h : n = 0 ∨ n = 1 ∨ n = 2 ∨ n = 3 := by omega
  rcases h with rfl | rfl | rfl | rfl
  all_goals rfl

/-- A corrected event of a lane below its threshold leaves the collector with nothing due. -/
theorem laneEvent_calm (hn : n < 4) (hcalm : Calm s) (hb : smGet 0 s.fc.buckets (0x180 + n) < 7) : Calm (report s (0x180 + n) 0x20 false 0 0) ∧
    (report s (0x180 + n) 0x20 false 0 0).out = s.out ∧ (report s (0x180 + n) 0x20 false 0 0).tt = s.tt := by
  obtain ⟨⟨hesc, hret⟩, howed⟩ := hcalm
  have hbelow : BelowBucket s (0x180 + n) 0x20 0 := fun lim hl => by
    rw [bucketRule_lane hn, if_pos rfl, Option.some.injEq] at hl
    rw [bucketKey_lane hn, if_pos (by decide), ← hl]
    omega
  rw [report_corrected (by decide) (by decide)]
  exact ⟨⟨⟨counted_same.2.1.trans hesc, (retireNow_counted hbelow).trans hret⟩, howed⟩, rfl, rfl⟩

theorem resend_sends (hun : s.tt.unacked ≠ []) (hcalm : Calm s) (hb : ∀ n < 4, smGet 0 s.fc.buckets (0x180 + n) < 7) (lane : Nat) :
    (settle (resend s lane)).out = s.out ++ s.tt.unacked.map (fun f => .tether f.kind f.seq f.payload) ∧
      (settle (resend s lane)).tt.unacked = s.tt.unacked ∧
      (settle (resend s lane)).tt.retransmits = satAdd 0xFFFFFFFF s.tt.retransmits s.tt.unacked.length := by
  have hlane : lane % 4 < 4 := Nat.mod_lt _ (by decide)
  have heq : resend s lane = laneEvent (report (retransmit s) (0x180 + lane % 4) 0x20 false 0 0) (lane % 4) :=
    (if_neg (by simp [hun])).trans (lane_charged hlane)
  obtain ⟨hcalm', hout, htt⟩ := laneEvent_calm (s := retransmit s) hlane (calm_of_only hcalm (retransmit_only s) (by decide +kernel) (by decide +kernel) (by decide +kernel))
    (by rw [fc_of_only (retransmit_only s) (by decide +kernel)]; exact hb _ hlane)
  rw [heq]
  generalize report (retransmit s) (0x180 + lane % 4) 0x20 false 0 0 = v at *
  rw [retransmit_eq] at hout htt
  have hun' : v.tt.unacked = s.tt.unacked := (congrArg (fun x : Machine.Tether => x.unacked) htt :)
  have hre : v.tt.retransmits = satAdd 0xFFFFFFFF s.tt.retransmits s.tt.unacked.length := (congrArg (fun x : Machine.Tether => x.retransmits) htt :)
  rw [settle_of_calm (calm_of_only hcalm' (laneEvent_only v _) (by decide +kernel) (by decide +kernel) (by decide +kernel))]
  exact ⟨hout, hun', hre⟩

theorem timeout_resends (hr : tetherRuns s = true) (hun : s.tt.unacked ≠ []) (hcalm : Calm s) (hb : ∀ n < 4, smGet 0 s.fc.buckets (0x180 + n) < 7) :
    ∃ t, exec .tetherRetransmitTimeout s = .next t ∧ t.out = s.out ++ s.tt.unacked.map (fun f => .tether f.kind f.seq f.payload) ∧
        t.tt.unacked = s.tt.unacked ∧ t.tt.retransmits = satAdd 0xFFFFFFFF s.tt.retransmits s.tt.unacked.length := by
  obtain ⟨lane, hexec⟩ : ∃ lane, exec .tetherRetransmitTimeout s = .next (settle (resend (draw s).2 lane)) :=
    ⟨_, congrArg Host.Outcome.next (if_pos (by simp [hr, hun]))⟩
  exact ⟨_, hexec, resend_sends (s := (draw s).2) hun hcalm hb lane⟩

/-! ## A lane that fails -/

theorem laneAt_modLane (f : Lane → Lane) : laneAt (modLane s n f) m = if m = n then f (laneAt s n) else laneAt s m := smGet_smMod ..

/-- The part with one lane marked failed. -/
def withoutLane (s : State) (n : Nat) : State := modLane s n fun x => { x with state := 2 }

theorem soundLanes_withoutLane (hn : n < 4) (h : (laneAt s n).state = 1) : soundLanes (withoutLane s n) = soundLanes s - 1 := by
  have hnodup : ((List.range 4).filter fun m => (laneAt s m).state == 1).Nodup := List.nodup_range.filter _
  have hmem : n ∈ (List.range 4).filter fun m => (laneAt s m).state == 1 := by simp [h, hn]
  unfold soundLanes
  rw [← List.length_erase_of_mem hmem, hnodup.erase_eq_filter, List.filter_filter]
  congr 1
  apply List.filter_congr
  intro m _
  rw [withoutLane, laneAt_modLane]
  by_cases hm : m = n
  · simp [hm]
  · simp [hm]

/-! ## Two faults outstanding at once -/

theorem freeOut_one (h : c.out = [(0, some e)]) (cls : Nat) : freeOut c cls = some 1 := by
  have hcount : countOut c 1 ≤ 1 := by
    unfold countOut outKeys
    refine (List.length_filter_le ..).trans ?_
    simp [smKeys, h]
  rw [freeOut, if_neg (by simp; omega), List.find?_eq_some_iff_append]
  refine ⟨by simp [outAt, h, smGet], [0], (List.range 256).drop 2, by decide +kernel, by simp [outAt, h, smGet]⟩

/-- A second report of another kind leaves the first entry where it is. -/
theorem report_second (hout : s.fc.out = [(0, some e)]) (hkind : e.kind ≠ kind) (hdue : NothingDue s) (hcls : faultClass kind = 1) (hb : BelowBucket s source kind detail) :
    NothingDue (report s source kind false pad detail) ∧ findOut (report s source kind false pad detail).fc e.source e.kind = some 0 := by
  obtain ⟨hesc, hret⟩ := hdue
  have hopen : ∀ c : Faults, c.out = [(0, some e)] → ∃ e', (openEntry { s with fc := c } source kind false pad detail).fc =
      { c with out := [(0, some e), (1, some e')] } := fun c hc => by
    have hnone : findOut c source kind = none := by simp [findOut, outKeys, smKeys, outAt, smGet, hc, hkind]
    unfold openEntry
    dsimp only
    rw [hnone]
    dsimp only
    rw [freeOut_one hc]
    dsimp only
    rw [if_neg (by decide), fc_of_only (raisePart_only ..) (by decide +kernel), hc]
    exact ⟨_, rfl⟩
  obtain ⟨e', he'⟩ := hopen { counted s source kind false pad detail with
    toLog := (counted s source kind false pad detail).toLog ++ [(s.time, 0, faultMsg source kind false pad detail)] } (counted_same.1.trans hout)
  have hfc : (report s source kind false pad detail).fc = { counted s source kind false pad detail with
      toLog := (counted s source kind false pad detail).toLog ++ [(s.time, 0, faultMsg source kind false pad detail)]
      out := [(0, some e), (1, some e')] } := by
    unfold report
    simp only [hcls]
    exact he'
  unfold NothingDue
  rw [hfc]
  refine ⟨⟨counted_same.2.1.trans hesc, (retireNow_counted hb).trans hret⟩, ?_⟩
  simp [findOut, outKeys, smKeys, outAt, smGet]

/-! ## Too few lanes -/

theorem nothingDue_of_fc (h : t.fc = s.fc) (hd : NothingDue s) : NothingDue t := by
  unfold NothingDue
  rw [h]
  exact hd

theorem phase_stopStalls {j : Job} (hj : j ∈ (stopStalls s).jobs) : j.phase ≠ .running := by
  rw [LinkTap.jobs_stopStalls] at hj
  obtain ⟨i, -, rfl⟩ := List.mem_map.mp hj
  split
  next => simp [restartJob]
  next h => exact fun hrun => h (by simp [isLive, hrun])

/-- Side B without its lanes: fenced, the link down. -/
def fenced (s : State) : State := { s with jn := { s.jn with role := 3 }, tt := { s.tt with linkUp := false, retraining := false } }

/-- Side B stops what runs and drops what it writes; nothing reaches the collector. -/
theorem fenced_stops (s : State) : ∃ v, v = stopStalls (dropWriting (fenced s)) ∧ v.jn.role = 3 ∧ v.tt.linkUp = false ∧ v.fc = s.fc ∧ v.tt.lanes = s.tt.lanes ∧
    ∀ j ∈ v.jobs, j.phase ≠ .running := by
  have hstart : (fenced s).jn.role = 3 ∧ (fenced s).tt.linkUp = false ∧ (fenced s).fc = s.fc ∧ (fenced s).tt.lanes = s.tt.lanes := ⟨rfl, rfl, rfl, rfl⟩
  generalize fenced s = u at hstart
  obtain ⟨hrole, hlink, hfc, hlanes⟩ := hstart
  have hdrop := dropWriting_only u
  have hstop := stopStalls_only (dropWriting u)
  refine ⟨_, rfl, ?_, ?_, ?_, ?_, fun j => phase_stopStalls⟩
  · rw [jn_of_only hstop (by decide +kernel), jn_of_only hdrop (by decide +kernel), hrole]
  · rw [tt_of_only hstop (by decide +kernel), show (dropWriting u).tt.linkUp = u.tt.linkUp from hdrop.same (.tt .linkUp) (by decide +kernel), hlink]
  · rw [fc_of_only hstop (by decide +kernel), fc_of_only hdrop (by decide +kernel), hfc]
  · rw [tt_of_only hstop (by decide +kernel), show (dropWriting u).tt.lanes = u.tt.lanes from hdrop.same (.tt .lanes) (by decide +kernel), hlanes]

/-- A lane in use is out of use; a failed one stays failed. -/
def laneOut (x : Lane) : Lane := { x with state := if x.state = 1 then 0 else x.state }

theorem lanesLost_sideB (htwin : s.plan.part.twin = true) (hside : s.sys.straps.twinSide = true) : (lanesLost s).jn.role = 3 ∧ (lanesLost s).sys.ttHbo = false ∧
    (lanesLost s).tt.linkUp = false ∧ (lanesLost s).fc = s.fc ∧ (∀ j ∈ (lanesLost s).jobs, j.phase ≠ .running) ∧
    (lanesLost s).tt.lanes = smMap {} (fun _ => laneOut) s.tt.lanes := by
  obtain ⟨v, hv, hrole, hlink, hfc, hlanes, hjobs⟩ := fenced_stops s
  have heq : lanesLost s = { v with sys := { v.sys with ttHbo := false }, tt := { v.tt with lanes := smMap {} (fun _ => laneOut) v.tt.lanes } } := by
    unfold lanesLost
    rw [if_neg (by simp [htwin]), if_pos hside, hv]
    unfold fenced laneOut
    dsimp only
  rw [heq]
  exact ⟨hrole, rfl, hlink, hfc, hjobs, by rw [← hlanes]⟩

/-- The lost lanes of side A: it accepts nothing more, and says so once its partner is known to beat. -/
def splitOff (s : State) : State := { s with tt := { s.tt with split := true, linkUp := false, retraining := false } }

theorem lanesLost_sideA (htwin : s.plan.part.twin = true) (hside : s.sys.straps.twinSide = false) :
    lanesLost s = if s.tt.hbIn then report (splitOff s) 0x184 0x23 false 0 0 else splitOff s := by
  unfold lanesLost
  rw [if_neg (by simp [htwin]), if_neg (by simp [hside])]
  rfl

theorem lanesLost_alone (htwin : s.plan.part.twin = false) : lanesLost s = s := if_pos (by simp [htwin])

/-- With a fault other than 0x23 outstanding, the loss of the lanes leaves it where it is, and a failed lane failed. -/
theorem lanesLost_keeps (hout : s.fc.out = [(0, some e)]) (hkind : e.kind ≠ 0x23) (hdue : NothingDue s) (hwf : smWf {} s.tt.lanes = true) (hlane : (laneAt s n).state = 2) :
    NothingDue (lanesLost s) ∧ findOut (lanesLost s).fc e.source e.kind = some 0 ∧ (laneAt (lanesLost s) n).state = 2 := by
  have hfound : findOut s.fc e.source e.kind = some 0 := findOut_single hout rfl rfl
  cases htwin : s.plan.part.twin
  · rw [lanesLost_alone htwin]
    exact ⟨hdue, hfound, hlane⟩
  cases hside : s.sys.straps.twinSide
  · rw [lanesLost_sideA htwin hside]
    split
    next =>
      obtain ⟨hdue', hfound'⟩ := report_second (s := splitOff s) (source := 0x184) (kind := 0x23) (pad := 0) (detail := 0) hout hkind hdue (by decide)
        (BelowBucket.of_none (by decide))
      refine ⟨hdue', hfound', ?_⟩
      have htt : (report (splitOff s) 0x184 0x23 false 0 0).tt = (splitOff s).tt := tt_of_only (report_only ..) (by decide +kernel)
      exact (congrArg (fun x : Machine.Tether => (smGet ({} : Lane) x.lanes n).state) htt).trans hlane
    next => exact ⟨hdue, hfound, hlane⟩
  · obtain ⟨-, -, -, hfc, -, hlanes⟩ := lanesLost_sideB htwin hside
    refine ⟨nothingDue_of_fc hfc hdue, by rw [hfc]; exact hfound, ?_⟩
    show (smGet {} (lanesLost s).tt.lanes n).state = 2
    rw [hlanes, smGet_smMap (f := fun _ => laneOut) (fun _ => rfl) n hwf]
    show (laneOut (laneAt s n)).state = 2
    simp [laneOut, hlane]

/-! ## The failure of one lane -/

theorem dropLane_lost (hn : n < 4) (h : (laneAt s n).state = 1) (hfew : soundLanes (withoutLane s n) = 0 ∨ soundLanes (withoutLane s n) < lanesMin s) :
    dropLane s n = lanesLost { withoutLane s n with tt := { (withoutLane s n).tt with linkUp := decide (soundLanes (withoutLane s n) ≠ 0) } } :=
  (if_neg (by omega)).trans (if_pos hfew)

theorem dropLane_retrains (hn : n < 4) (h : (laneAt s n).state = 1) (hfew : ¬(soundLanes (withoutLane s n) = 0 ∨ soundLanes (withoutLane s n) < lanesMin s)) :
    dropLane s n = retransmit { withoutLane s n with tt := { (withoutLane s n).tt with retrains := satAdd 0xFFFF s.tt.retrains 1 } } :=
  (if_neg (by omega)).trans (if_neg hfew)

theorem dropLane_keeps (hn : n < 4) (h : (laneAt s n).state = 1) (hout : s.fc.out = [(0, some e)]) (hkind : e.kind ≠ 0x23) (hdue : NothingDue s)
    (hwf : smWf {} s.tt.lanes = true) : NothingDue (dropLane s n) ∧ findOut (dropLane s n).fc e.source e.kind = some 0 ∧ (laneAt (dropLane s n) n).state = 2 ∧
      (2 ≤ soundLanes s → lanesMin s < soundLanes s → (dropLane s n).tt.retrains = satAdd 0xFFFF s.tt.retrains 1 ∧ (dropLane s n).jn = s.jn) := by
  have hfailed : (laneAt (withoutLane s n) n).state = 2 := by rw [withoutLane, laneAt_modLane, if_pos rfl]
  have hsound := soundLanes_withoutLane hn h
  by_cases hfew : soundLanes (withoutLane s n) = 0 ∨ soundLanes (withoutLane s n) < lanesMin s
  · rw [dropLane_lost hn h hfew]
    obtain ⟨hdue', hfound, hlane⟩ := lanesLost_keeps (s := { withoutLane s n with tt := { (withoutLane s n).tt with linkUp := decide (soundLanes (withoutLane s n) ≠ 0) } })
      hout hkind hdue (smWf_smMod ({} : Lane) n (fun x => { x with state := 2 }) hwf) hfailed
    exact ⟨hdue', hfound, hlane, fun h2 hmin => by omega⟩
  · rw [dropLane_retrains hn h hfew, retransmit_eq]
    exact ⟨hdue, findOut_single hout rfl rfl, hfailed, fun _ _ => ⟨rfl, rfl⟩⟩

theorem lane_fails (hn : n < 4) (hp : s.sys.porstN = true) (h : (laneAt s n).state = 1) (hclear : FaultsClear s) (hwf : smWf {} s.tt.lanes = true) :
    ∃ t, exec (.tetherLaneFail n) s = .next t ∧ (laneAt t n).state = 2 ∧ (findOut t.fc (0x180 + n) 0x21).isSome = true ∧
        (2 ≤ soundLanes s → lanesMin s < soundLanes s → t.tt.retrains = satAdd 0xFFFF s.tt.retrains 1 ∧ t.jn = s.jn) := by
  have hraise : raiseFault s (0x180 + n) 0x21 false 0 0 = dropLane (report s (0x180 + n) 0x21 false 0 0) n := by
    unfold raiseFault faultAction
    rw [if_neg (by omega), if_neg (by simp)]
    show (if _ then _ else _) = _
    rw [if_pos (by omega), Nat.add_sub_cancel_left]
  have hrep := report_only s (0x180 + n) 0x21 false 0 0
  have hout := report_out (s := s) (source := 0x180 + n) (kind := 0x21) (charged := false) (pad := 0) (detail := 0) (by decide) hclear.1
  have hdue := report_nothingDue (s := s) (source := 0x180 + n) (kind := 0x21) (charged := false) (pad := 0) (detail := 0) (by decide) hclear
    (BelowBucket.of_none (by rw [bucketRule_lane hn]; rfl))
  have hexec : exec (.tetherLaneFail n) s = .next (settle (dropLane (report s (0x180 + n) 0x21 false 0 0) n)) := by
    rw [← hraise]
    exact congrArg Host.Outcome.next (if_pos ⟨hp, h, hn⟩)
  have htt := tt_of_only hrep (by decide +kernel)
  have hjn := jn_of_only hrep (by decide +kernel)
  have hmin : lanesMin (report s (0x180 + n) 0x21 false 0 0) = lanesMin s := congrArg (fun p : Plan => match p.twin with
    | some t => t.lanesMin
    | none => 0) (plan_of_only hrep (by decide +kernel))
  generalize report s (0x180 + n) 0x21 false 0 0 = v at *
  have hlanes : ∀ m, laneAt v m = laneAt s m := fun m => congrArg (fun x : Machine.Tether => smGet ({} : Lane) x.lanes m) htt
  have hcount : soundLanes v = soundLanes s := by simp [soundLanes, hlanes]
  obtain ⟨hdue', hfound, hlane, hretrain⟩ := dropLane_keeps hn (by rw [hlanes]; exact h) hout (show (0x21 : Nat) ≠ 0x23 by decide) hdue (by rw [htt]; exact hwf)
  have hs := settle_only_of_nothingDue hdue'
  refine ⟨_, hexec, ?_, ?_, fun h2 hlow => ?_⟩
  · show (smGet {} (settle (dropLane v n)).tt.lanes n).state = 2
    rw [tt_of_only hs (by decide +kernel)]
    exact hlane
  · rw [fc_of_only hs (by decide +kernel)]
    exact congrArg Option.isSome hfound
  · rw [tt_of_only hs (by decide +kernel), jn_of_only hs (by decide +kernel), ← htt, ← hjn]
    exact hretrain (by rw [hcount]; exact h2) (by rw [hcount, hmin]; exact hlow)

theorem heartbeat_toggles (hp : s.sys.porstN = true) (hst : 10 ≤ s.sys.stage) (hrole : s.jn.role ≠ 3) :
    exec .heartbeatToggle s = .next { s with sys := { s.sys with ttHbo := !s.sys.ttHbo } } := congrArg Host.Outcome.next (if_pos ⟨hp, hst, hrole⟩)

/-! ## Too few lanes, found later -/

theorem limitOf_split (h : s.tt.split = true) (p : Nat) : limitOf s p = 0 := if_pos (by simp [acceptStopped, h])

theorem lanes_lost (htwin : s.plan.part.twin = true) (hp : s.sys.porstN = true) (hrole : s.jn.role ≠ 3) (hfew : soundLanes s < lanesMin s) (hclear : FaultsClear s) :
    ∃ t, exec .twinLanesLost s = .next t ∧ t.tt.linkUp = false ∧
        (s.sys.straps.twinSide = false → t.tt.split = true ∧ ∀ p, limitOf t p = 0) ∧
        (s.sys.straps.twinSide = true → t.jn.role = 3 ∧ t.sys.ttHbo = false ∧ ∀ j ∈ t.jobs, j.phase ≠ .running) := by
  refine ⟨_, congrArg Host.Outcome.next (if_pos ⟨htwin, hp, hrole, hfew⟩), ?_⟩
  cases hside : s.sys.straps.twinSide
  · have hdue : NothingDue (lanesLost s) ∧ (lanesLost s).tt = (splitOff s).tt := by
      rw [lanesLost_sideA htwin hside]
      split
      next =>
        have hrep := report_only (splitOff s) 0x184 0x23 false 0 0
        exact ⟨report_nothingDue (s := splitOff s) (source := 0x184) (kind := 0x23) (by decide) hclear (BelowBucket.of_none (by decide)), tt_of_only hrep (by decide +kernel)⟩
      next => exact ⟨hclear.2, rfl⟩
    obtain ⟨hdue, htt⟩ := hdue
    have hs := (tt_of_only (settle_only_of_nothingDue hdue) (by decide +kernel)).trans htt
    have hsplit : (settle (lanesLost s)).tt.split = true := (congrArg (fun x : Machine.Tether => x.split) hs :)
    exact ⟨(congrArg (fun x : Machine.Tether => x.linkUp) hs :), fun _ => ⟨hsplit, limitOf_split hsplit⟩, nofun⟩
  · obtain ⟨hrole', hhb, hlink, hfc, hjobs, -⟩ := lanesLost_sideB htwin hside
    have hs := settle_only_of_nothingDue (nothingDue_of_fc hfc hclear.2)
    generalize lanesLost s = v at *
    refine ⟨?_, nofun, fun _ => ⟨?_, ?_, ?_⟩⟩
    · rw [tt_of_only hs (by decide +kernel), hlink]
    · rw [jn_of_only hs (by decide +kernel), hrole']
    · exact (hs.same (.sys .ttHbo) (by decide +kernel)).trans hhb
    · rw [show (settle v).jobs = v.jobs from hs.same .jobs (by decide +kernel)]
      exact hjobs

end

end Sys2Proof.Tether
end

section
/-! SUPPORT. What the retirement of records leaves of the queues: a draw of randomness rechecks deferred heads and does nothing else to them (R170). -/

namespace Sys2Proof.QueueFrames

open Sys2Proof Sys2Proof.Machine Sys2Proof.Claims Sys2Proof.Frames Sys2Proof.Holding Sys2Proof.JobRuns

section
variable {s t u : State} {q p : Nat}

/-- Every queue in use is as before, but that its deferred head may be due again; the others stay unused. -/
structure Rechecks (s t : State) : Prop where
  inUse : ∀ q, qAt s q ≠ {} → ∃ b, qAt t q = { qAt s q with recheck := (qAt s q).recheck || b }
  idle : smWf {} s.queues = true → smWf {} t.queues = true ∧ ∀ q, qAt s q = {} → qAt t q = {}

theorem Rechecks.of_queues (h : t.queues = s.queues) : Rechecks s t := by
  have hq : ∀ q, qAt t q = qAt s q := fun q => by
    unfold qAt
    rw [h]
  exact ⟨fun q _ => ⟨false, by rw [hq, Bool.or_false]⟩, fun hwf => ⟨by rw [h]; exact hwf, fun q hd => by rw [hq]; exact hd⟩⟩

theorem Rechecks.refl (s : State) : Rechecks s s := .of_queues rfl

theorem rechecked_ne {x : Queue} (hx : x ≠ {}) (b : Bool) : { x with recheck := x.recheck || b } ≠ ({} : Queue) := fun h => hx (by
  have hr : (x.recheck || b) = false := congrArg Queue.recheck h
  rw [hr] at h
  have hx' : x.recheck = false := (Bool.or_eq_false_iff.mp hr).1
  cases x
  simp only at hx'
  subst hx'
  exact h)

theorem Rechecks.trans (h : Rechecks s t) (g : Rechecks t u) : Rechecks s u where
  inUse q hq := by
    obtain ⟨b, hb⟩ := h.inUse q hq
    obtain ⟨c, hc⟩ := g.inUse q (by rw [hb]; exact rechecked_ne hq b)
    exact ⟨b || c, by rw [hc, hb, Bool.or_assoc]⟩
  idle hwf := by
    obtain ⟨hwf', hidle⟩ := h.idle hwf
    obtain ⟨hwf'', hidle'⟩ := g.idle hwf'
    exact ⟨hwf'', fun q hq => hidle' q (hidle q hq)⟩

theorem Rechecks.foldl {α : Type} {f : State → α → State} (l : List α) (hf : ∀ t x, Rechecks t (f t x)) (s : State) : Rechecks s (l.foldl f s) := by
  induction l generalizing s with
  | nil => exact .refl s
  | cons x l ih => exact (hf s x).trans (ih _)

/-- A value read from a collection, after a change of every value that makes none of them the default. -/
theorem smGet_smMap_of_ne {α : Type} [DecidableEq α] {d : α} {f : Nat → α → α} {m : SMap α} {k : Nat} (h : smGet d m k ≠ d) (hf : f k (smGet d m k) ≠ d) :
    smGet d (smMap d f m) k = f k (smGet d m k) := by
  induction m with
  | nil => exact absurd rfl h
  | cons e m ih =>
    obtain ⟨j, v⟩ := e
    by_cases hk : j = k
    · subst hk
      simp only [smGet, if_true] at h hf ⊢
      rw [smMap, if_neg hf]
      simp [smGet]
    · simp only [smGet, hk, if_false] at h hf ⊢
      rw [smMap]
      split
      · exact ih h hf
      · simp only [smGet, hk, if_false]
        exact ih h hf

/-- One queue whose head, deferred with one of the codes, is due again. -/
def dueAgain (codes : List Nat) (x : Queue) : Queue := if codes.contains x.defer then { x with recheck := true } else x

theorem recheck_eq (s : State) (codes : List Nat) : recheck s codes = { s with queues := smMap {} (fun _ => dueAgain codes) s.queues } := rfl

theorem dueAgain_eq (codes : List Nat) (x : Queue) : dueAgain codes x = { x with recheck := x.recheck || codes.contains x.defer } := by
  unfold dueAgain
  cases codes.contains x.defer
  · simp
  · simp

/-- The deferred heads waiting for one of the codes are due again; code 0 is no deferral. -/
theorem rechecks_recheck (s : State) {codes : List Nat} (hcodes : codes.contains 0 = false) : Rechecks s (recheck s codes) where
  inUse q hq := by
    refine ⟨codes.contains (qAt s q).defer, ?_⟩
    rw [← dueAgain_eq]
    exact smGet_smMap_of_ne (f := fun _ => dueAgain codes) hq (by
      show dueAgain codes (qAt s q) ≠ _
      rw [dueAgain_eq]
      exact rechecked_ne hq _)
  idle hwf := by
    have hd : ∀ _ : Nat, dueAgain codes {} = {} := fun _ => if_neg (by rw [hcodes]; decide)
    have hmap : ∀ q, smGet {} (smMap {} (fun _ => dueAgain codes) s.queues) q = dueAgain codes (smGet {} s.queues q) := fun q => smGet_smMap hd q hwf
    rw [recheck_eq]
    refine ⟨smWf_smMap ({} : Queue) _ hwf, fun q hq => (hmap q).trans ?_⟩
    rw [show smGet {} s.queues q = {} from hq]
    exact hd 0

/-! ## Requests of the random source -/

theorem generation_rechecks (s : State) (p : Nat) (g : Pad → Pad) : Rechecks s (recheck (journalWrite (modPad (afterRequest s p 32) p g)) [3]) :=
  Rechecks.trans (t := journalWrite (modPad (afterRequest s p 32) p g)) (.of_queues rfl) (rechecks_recheck _ (by decide))

theorem seedPad_rechecks (s : State) (p : Nat) : Rechecks s (seedPad s p) := .of_queues rfl

theorem drawNow_rechecks (s : State) (p : Nat) : Rechecks s (drawNow s p) := by
  unfold drawNow
  split
  · exact .of_queues rfl
  · exact (seedPad_rechecks s p).trans (generation_rechecks _ p _)

end

end Sys2Proof.QueueFrames
end

section
/-! PROOF. The partner fails: its records, queues and keys are this side's (R492 to R495; O29). -/

namespace Sys2Proof.Tether

open Sys2Proof Sys2Proof.Machine Sys2Proof.Claims Sys2Proof.Frames Sys2Proof.PadReset Sys2Proof.Holding Sys2Proof.Reports Sys2Proof.Accepting
  Sys2Proof.QueueFrames

section
variable {s t u v : State} {q : Nat} {j : Job}

/-- This side alone, under a new term. -/
def alone (s : State) : State := { s with
  jn := { s.jn with role := 2, term := (s.jn.term + 1) % 2 ^ 32 }
  tt := { s.tt with partnerFailed := true, partnerPresent := false, hbIn := false, linkUp := false, split := false, unacked := [] } }

/-- The loss of the partner reported, its link's fault over. -/
def announced (s : State) : State := kindEnds (raiseEach (report (journalWrite s) 0x184 0x24 false 0 0) 18) 0x23

theorem failover_eq (hun : s.tt.unacked = []) : failover s = recheck (adoptQueues (adoptKeys (adoptRecords (announced (alone s))))) [2] := by
  unfold failover dropPartner
  dsimp only
  rw [hun]
  rfl

theorem kindEnds_only (s : State) (kind : Nat) : Only [.fc .out] s (kindEnds s kind) :=
  put_fc (Faults.set_out (by decide +kernel) (FcReg.refl _ _)) (Only.refl _ _)

theorem smMap_single {α : Type} [DecidableEq α] {d x : α} {f : Nat → α → α} {k : Nat} (h : f k x ≠ d) : smMap d f [(k, x)] = [(k, f k x)] := by
  rw [smMap, if_neg h, smMap]

/-- What the announcement leaves in the collector. -/
theorem announced_found (hclear : FaultsClear s) : NothingDue (announced s) ∧ (findOut (announced s).fc 0x184 0x24).isSome = true := by
  have hout := report_out (s := journalWrite s) (source := 0x184) (kind := 0x24) (charged := false) (pad := 0) (detail := 0) (by decide) hclear.1
  have hdue := report_nothingDue (s := journalWrite s) (source := 0x184) (kind := 0x24) (charged := false) (pad := 0) (detail := 0) (by decide) hclear
    (BelowBucket.of_none (by decide))
  unfold announced
  generalize report (journalWrite s) 0x184 0x24 false 0 0 = v at *
  have hraise := raiseEach_only v 18
  generalize raiseEach v 18 = u at *
  have hfc := fc_of_only hraise (by decide +kernel)
  refine ⟨(nothingDue_of_fc hfc hdue : NothingDue u), ?_⟩
  rw [← hfc] at hout
  have hkept : (kindEnds u 0x23).fc.out = [(0, some (entryOf (journalWrite s) 0x184 0x24 false 0 0))] := by
    show smMap none _ u.fc.out = _
    rw [hout, smMap_single (by simp)]
    rfl
  exact congrArg Option.isSome (findOut_single (source := 0x184) (kind := 0x24) hkept rfl rfl)

theorem announced_only (s : State) : Only [.sys .wakeDriven, .sys .timeJournal, .port .linkState, .fn .cfg, .fn .pmeStatus, .fn .vecs, .fn .cmpExpect, .fn .cmpSpoiled,
    .fn .cmpEq, .fn .cmpNe, .pad .results, .jn .seq, .fc .log, .fc .dropped, .fc .severeLost, .fc .overflowed, .fc .out, .fc .buckets, .fc .corrected, .fc .toLog,
    .fc .escNow, .fc .retireNow, .out] s (announced s) :=
  Only.then (kindEnds_only ..) (by decide +kernel) (Only.then (raiseEach_only ..) (by decide +kernel) (Only.then (report_only ..) (by decide +kernel)
    ((journalWrite_only s).mono (by decide +kernel))))

/-! ## Records -/

/-- One record of the partner as this side takes it up. -/
def adopted (s : State) (j : Job) : Job :=
  if j.fixed = 0 then replayJob s.time false { j with gen := (qAt s j.queue).gen, capGen := j.capGen.map (capPlace s j.paddock) }
  else fixJob j.fixed s.time { j with gen := (qAt s j.queue).gen, capGen := j.capGen.map (capPlace s j.paddock), replay := j.replay + 1 }

theorem adopted_keeps (s : State) (j : Job) : (adopted s j).seq = j.seq ∧ (adopted s j).queue = j.queue ∧ (adopted s j).desc = j.desc := by
  unfold adopted
  split
  · unfold replayJob
    dsimp only
    split
    · exact ⟨rfl, rfl, rfl⟩
    · exact ⟨rfl, rfl, rfl⟩
  · exact ⟨rfl, rfl, rfl⟩

theorem records_adopted (s : State) : (adoptRecords s).jobs = s.jobs ++ s.tt.mirror.map (adopted s) ∧ (adoptRecords s).tt.mirror = [] := by
  have hcaps : (adoptCaps s).jobs = s.jobs := (adoptCaps_only s).same .jobs (by decide +kernel)
  constructor
  · show ((adoptCaps s).jobs ++ s.tt.mirror.map (adopted s)).map (fun j => if isLive j && !j.silent && false then replayJob _ false j else j) = _
    rw [hcaps]
    exact (List.map_congr_left fun j _ => if_neg (by simp)).trans (List.map_id _)
  · rfl

/-! ## Queues -/

/-- The queue is this side's own from now on. -/
def TakenOver (q : Nat) (t : State) : Prop := (qAt t q).standby = false ∧ (qAt t q).takenOver = true

theorem takenOver_of_only {l : List Part} (h : Only l s t) (hst : Part.queue .standby ∉ l) (hto : Part.queue .takenOver ∉ l) (hq : TakenOver q s) : TakenOver q t :=
  ⟨(h.same (.queue .standby) hst q).trans hq.1, (h.same (.queue .takenOver) hto q).trans hq.2⟩

theorem qAt_modQ_other (s : State) (g : Queue → Queue) {p q : Nat} (h : p ≠ q) : qAt (modQ s q g) p = qAt s p := by
  rw [modQ, qAt_putQ, if_neg h]

/-- One queue of the partner as this side takes it up (R494). -/
def adoptQueue (s t : State) (q : Nat) : State :=
  let x := qAt t q
  let a := if (s.tt.mirrorA.any fun e => e.1 == q) then smGet 0 s.tt.mirrorA q else x.a
  let t1 := modQ t q fun y => { y with standby := false, takenOver := true, a := a, p := a, heldBell := if x.state = 5 then y.heldBell.or x.recordedP else y.heldBell }
  match x.recordedP with
  | some v => if x.state = 1 then ringRunning t1 q v else t1
  | none => t1

theorem takenOver_adoptQueue (s t : State) (q p : Nat) (h : TakenOver p t ∨ p = q) : TakenOver p (adoptQueue s t q) := by
  have hmod : ∀ g : Queue → Queue, (∀ y, (g y).standby = false ∧ (g y).takenOver = true) → TakenOver p (modQ t q g) := fun g hg => by
    by_cases hp : p = q
    · subst hp
      unfold TakenOver
      rw [qAt_modQ_self]
      exact hg _
    · unfold TakenOver
      rw [qAt_modQ_other _ _ hp]
      exact h.resolve_right hp
  unfold adoptQueue
  dsimp only
  split
  · split
    · exact takenOver_of_only (ringRunning_only ..) (by decide +kernel) (by decide +kernel) (hmod _ fun y => ⟨rfl, rfl⟩)
    · exact hmod _ fun y => ⟨rfl, rfl⟩
  · exact hmod _ fun y => ⟨rfl, rfl⟩

theorem adoptQueues_eq (s : State) : adoptQueues s = (queueNums s).foldl (fun t q => if !(qAt t q).standby then t else adoptQueue s t q) s := rfl

theorem standby_adoptQueue (s t : State) {p q : Nat} (hp : p ≠ q) : (qAt (adoptQueue s t q) p).standby = (qAt t p).standby := by
  have hmod : ∀ g : Queue → Queue, (qAt (modQ t q g) p).standby = (qAt t p).standby := fun g => by rw [qAt_modQ_other _ _ hp]
  unfold adoptQueue
  dsimp only
  split
  · split
    · exact ((ringRunning_only ..).same (.queue .standby) (by decide +kernel) p).trans (hmod _)
    · exact hmod _
  · exact hmod _

theorem queues_adopted (h : (qAt s q).standby = true) : TakenOver q (adoptQueues s) := by
  have hmem : q ∈ queueNums s := mem_smKeys_of_smGet_ne (d := ({} : Queue)) fun hd => by
    unfold qAt at h
    rw [hd] at h
    exact absurd h (by decide)
  have hkeep : ∀ t : State, ∀ p ∈ queueNums s, TakenOver q t → TakenOver q (if !(qAt t p).standby then t else adoptQueue s t p) := fun t p _ ht => by
    split
    · exact ht
    · exact takenOver_adoptQueue s t p q (.inl ht)
  have hreach : ∀ t : State, (qAt t q).standby = true → TakenOver q (if !(qAt t q).standby then t else adoptQueue s t q) := fun t ht => by
    rw [if_neg (by simp [ht])]
    exact takenOver_adoptQueue s t q q (.inr rfl)
  rw [adoptQueues_eq]
  refine foldl_reaches (I := fun t => (qAt t q).standby = true ∨ TakenOver q t) hmem (fun t p hp ht => ?_) hkeep (fun t ht => ?_) (.inl h)
  · rcases ht with ht | ht
    · by_cases hpq : p = q
      · subst hpq
        exact .inr (hreach t ht)
      · refine .inl ?_
        split
        · exact ht
        · exact (standby_adoptQueue s t (Ne.symm hpq)).trans ht
    · exact .inr (hkeep t p hp ht)
  · rcases ht with ht | ht
    · exact hreach t ht
    · exact hkeep t q hmem ht

theorem takenOver_recheck (h : TakenOver q s) {codes : List Nat} (hcodes : codes.contains 0 = false) : TakenOver q (recheck s codes) := by
  obtain ⟨b, hb⟩ := (rechecks_recheck s hcodes).inUse q fun hd => by
    unfold TakenOver at h
    rw [hd] at h
    exact absurd h.2 (by decide)
  unfold TakenOver
  rw [hb]
  exact h

/-! ## The failover as a whole -/

theorem failover_adopts (hun : s.tt.unacked = []) (hclear : FaultsClear s) : NothingDue (failover s) ∧ (findOut (failover s).fc 0x184 0x24).isSome = true ∧
    (failover s).jn.role = 2 ∧ (failover s).jn.term = (s.jn.term + 1) % 2 ^ 32 ∧ (failover s).tt.partnerFailed = true ∧ (failover s).tt.mirror = [] ∧
    (∀ j ∈ s.tt.mirror, ∃ k ∈ (failover s).jobs, k.seq = j.seq ∧ k.queue = j.queue ∧ k.desc = j.desc) ∧
    (∀ q, (qAt s q).standby = true → TakenOver q (failover s)) := by
  rw [failover_eq hun]
  obtain ⟨hdue, hfound⟩ := announced_found (s := alone s) hclear
  have hann := announced_only (alone s)
  have hrole : (announced (alone s)).jn.role = 2 := hann.same (.jn .role) (by decide +kernel)
  have hterm : (announced (alone s)).jn.term = (s.jn.term + 1) % 2 ^ 32 := hann.same (.jn .term) (by decide +kernel)
  have hfailed : (announced (alone s)).tt.partnerFailed = true := hann.same (.tt .partnerFailed) (by decide +kernel)
  have hmirror : (announced (alone s)).tt.mirror = s.tt.mirror := hann.same (.tt .mirror) (by decide +kernel)
  have hqueue : ∀ q, qAt (announced (alone s)) q = qAt s q := fun q => qAt_of_only (s := alone s) hann (by decide +kernel) q
  generalize announced (alone s) = v at *
  have hrec := adoptRecords_only v
  obtain ⟨hjobs, hempty⟩ := records_adopted v
  generalize adoptRecords v = u at *
  have hdue' : NothingDue u := nothingDue_of_fc (fc_of_only hrec (by decide +kernel)) hdue
  have hfound' : (findOut u.fc 0x184 0x24).isSome = true := by rw [fc_of_only hrec (by decide +kernel)]; exact hfound
  have hjn : u.jn = v.jn := jn_of_only hrec (by decide +kernel)
  have hfailed' : u.tt.partnerFailed = true := (hrec.same (.tt .partnerFailed) (by decide +kernel)).trans hfailed
  have hmem : ∀ j ∈ s.tt.mirror, ∃ k ∈ u.jobs, k.seq = j.seq ∧ k.queue = j.queue ∧ k.desc = j.desc := fun j hj =>
    ⟨adopted v j, by rw [hjobs, hmirror]; exact List.mem_append_right _ (List.mem_map_of_mem hj), adopted_keeps v j⟩
  have hqueue' : ∀ q, qAt (adoptKeys u) q = qAt s q := fun q => by
    rw [qAt_of_only (adoptKeys_only u) (by decide +kernel), qAt_of_only hrec (by decide +kernel), hqueue]
  have hkeys := adoptKeys_only u
  generalize adoptKeys u = w at *
  have hqs := adoptQueues_only w
  have hrc := recheck_only (adoptQueues w) [2]
  have htaken : ∀ q, (qAt s q).standby = true → TakenOver q (recheck (adoptQueues w) [2]) := fun q hq =>
    takenOver_recheck (queues_adopted (by rw [hqueue']; exact hq)) (by decide)
  generalize adoptQueues w = x at *
  have hfc : (recheck x [2]).fc = u.fc := by
    rw [fc_of_only hrc (by decide +kernel), fc_of_only hqs (by decide +kernel), fc_of_only hkeys (by decide +kernel)]
  have htt : (recheck x [2]).tt = u.tt := by
    rw [tt_of_only hrc (by decide +kernel), tt_of_only hqs (by decide +kernel), tt_of_only hkeys (by decide +kernel)]
  have hjn' : (recheck x [2]).jn.role = v.jn.role ∧ (recheck x [2]).jn.term = v.jn.term := by
    rw [jn_of_only hrc (by decide +kernel), ← hjn, ← jn_of_only hkeys (by decide +kernel)]
    exact ⟨hqs.same (.jn .role) (by decide +kernel), hqs.same (.jn .term) (by decide +kernel)⟩
  have hjobs' : (recheck x [2]).jobs = u.jobs :=
    (hrc.same .jobs (by decide +kernel)).trans ((hqs.same .jobs (by decide +kernel)).trans (hkeys.same .jobs (by decide +kernel)))
  exact ⟨nothingDue_of_fc hfc hdue', by rw [hfc]; exact hfound', hjn'.1.trans hrole, hjn'.2.trans hterm, by rw [htt]; exact hfailed', by rw [htt]; exact hempty,
    by rw [hjobs']; exact hmem, htaken⟩

theorem partner_failed (hrole : s.jn.role = 1) (hboot : s.sys.bootState = 1) (hflush : s.en.flushActive = false) (hclear : FaultsClear s) (hun : s.tt.unacked = []) :
    ∃ t, exec .twinPartnerFailed s = .next t ∧ t.jn.role = 2 ∧ t.jn.term = (s.jn.term + 1) % 2 ^ 32 ∧ t.tt.partnerFailed = true ∧
        (findOut t.fc 0x184 0x24).isSome = true ∧ t.tt.mirror = [] ∧
        (∀ j ∈ s.tt.mirror, ∃ k ∈ t.jobs, k.seq = j.seq ∧ k.queue = j.queue ∧ k.desc = j.desc) ∧
        (∀ q, (qAt s q).standby = true → (qAt t q).standby = false ∧ (qAt t q).takenOver = true) := by
  refine ⟨_, congrArg Host.Outcome.next (if_pos ⟨hrole, hboot, hflush⟩), ?_⟩
  obtain ⟨hdue, hfound, hrole', hterm, hfailed, hmirror, hadopt, htaken⟩ := failover_adopts hun hclear
  generalize failover s = v at *
  have hsw := sweeps_only v
  have hmap := sweeps_mapped v
  generalize ([1, 2, 3, 4] : List Nat).foldl sweepKind v = u at *
  have hfc := fc_of_only hsw (by decide +kernel)
  have hs := settle_only_of_nothingDue (nothingDue_of_fc hfc hdue)
  have hmap' : Mapped v (settle u) := hmap.trans (.of_only hs (by decide +kernel))
  generalize settle u = t at *
  have hjn : t.jn = v.jn := (jn_of_only hs (by decide +kernel)).trans (jn_of_only hsw (by decide +kernel))
  have htt : t.tt = v.tt := (tt_of_only hs (by decide +kernel)).trans (tt_of_only hsw (by decide +kernel))
  refine ⟨by rw [hjn]; exact hrole', by rw [hjn]; exact hterm, by rw [htt]; exact hfailed, ?_, by rw [htt]; exact hmirror, fun j hj => ?_, fun q hq => ?_⟩
  · rw [fc_of_only hs (by decide +kernel), hfc]
    exact hfound
  · obtain ⟨k, hk, hseq, hqu, hdesc⟩ := hadopt j hj
    obtain ⟨k', hk', hkept⟩ := hmap'.to_mem hk
    exact ⟨k', hk', hkept.seq.trans hseq, hkept.queue.trans hqu, hkept.desc.trans hdesc⟩
  · exact takenOver_of_only hs (by decide +kernel) (by decide +kernel) (takenOver_of_only hsw (by decide +kernel) (by decide +kernel) (htaken q hq))

end

/-- Settles O29: the frames, the lanes and the failover, each from its own lemma. -/
theorem twinAndTether : Obligations.TwinAndTether := fun s => by
  refine ⟨fun hr f => ⟨frame_failed hr, frame_outOfOrder hr, fun hcrc hseq hcalm hclear => ?_, fun g n h hcrc hk hp hun hb hgk hgp href hcalm =>
    ack_commits hr hcrc hk hp hun hb hgk hgp href hcalm⟩, timeout_resends, fun n hn hp h hclear hwf => lane_fails hn hp h hclear hwf, lanes_lost, heartbeat_toggles,
    fun hrole hboot hflush hclear hun _ => partner_failed hrole hboot hflush hclear hun⟩
  exact ⟨fun j hk hj => frame_record hr hcrc hseq hcalm hk hj, fun w q a hk hp => frame_retirement hr hcrc hseq hcalm hk hp,
    fun n h hk hp => frame_stateful hr hcrc hseq hcalm hk hp, fun o v l hk hp => frame_object hr hcrc hseq hcalm hk hp,
    fun term n d hk hp hd => frame_digestAgrees hr hcrc hseq hcalm hk hp hd, fun term n d hk hp hd => frame_digestDiffers hr hcrc hseq hclear hk hp hd⟩

end Sys2Proof.Tether
end

section
/-! SUPPORT. A record that retires: what its queue and the other records keep (R14, R170, R175). -/

namespace Sys2Proof.QueueFrames

open Sys2Proof Sys2Proof.Machine Sys2Proof.Claims Sys2Proof.Frames Sys2Proof.Holding

section
variable {s t u : State} {q p r n : Nat} {j : Job} {l : List Job}

/-! ## Requests -/

theorem serveOne_rechecks (s : State) (r : Nat) : Rechecks s (serveOne s r) := by
  unfold serveOne
  split
  · exact (seedPad_rechecks s r).trans (rechecks_recheck _ (by decide))
  split
  · exact .of_queues rfl
  split
  · exact drawNow_rechecks s _
  split
  · exact .of_queues rfl
  · exact .of_queues rfl

theorem serveStore_rechecks (fuel : Nat) (s : State) : Rechecks s (serveStore fuel s) := by
  induction fuel generalizing s with
  | zero => exact .refl s
  | succ fuel ih =>
    unfold serveStore
    split
    · exact .refl s
    · split
      · refine Rechecks.trans ?_ (ih _)
        refine Rechecks.trans ?_ (serveOne_rechecks _ _)
        exact .of_queues rfl
      · exact .refl s

theorem request_rechecks (s : State) (r : Nat) : Rechecks s (request s r) := by
  unfold request
  split
  · exact .refl s
  · refine Rechecks.trans ?_ (serveStore_rechecks _ _)
    exact .of_queues rfl

theorem drawGen_rechecks (s : State) (p : Nat) : Rechecks s (drawGen s p) := by
  unfold drawGen
  dsimp only
  split
  · exact .of_queues rfl
  split
  · refine Rechecks.trans ?_ (request_rechecks _ _)
    exact .of_queues rfl
  · exact .of_queues rfl

theorem drawOnFree_rechecks (s : State) (j : Job) : Rechecks s (drawOnFree s j) := by
  unfold drawOnFree
  split
  · exact .refl s
  · split
    · exact drawGen_rechecks s _
    · exact .refl s

theorem queues_foldl {α : Type} {f : State → α → State} (hf : ∀ t x, (f t x).queues = t.queues) (l : List α) (s : State) : (l.foldl f s).queues = s.queues :=
  foldl_keeps (P := fun t => t.queues = s.queues) l (fun t x _ ht => (hf t x).trans ht) rfl

theorem queues_releaseEvicted (s : State) : (releaseEvicted s).queues = s.queues := queues_foldl (fun t k => by
  split
  · rfl
  · rfl) _ s

theorem queues_releaseRevoked (s : State) : (releaseRevoked s).queues = s.queues := by
  refine (queues_foldl (fun t n => ?_) _ _).trans (queues_foldl (fun t b => ?_) _ s)
  · dsimp only
    split
    · rfl
    · rfl
  · dsimp only
    split
    · rfl
    split
    · rfl
    · rfl

theorem queues_updateLtr (s : State) : (updateLtr s).queues = s.queues := by
  unfold updateLtr
  split
  · rfl
  · rfl

theorem afterRetire_rechecks (s : State) (j : Job) : Rechecks s (afterRetire s j) := by
  have hfree : (releaseRevoked (releaseEvicted (freeSnapshots s j.paddock j.seq))).queues = s.queues :=
    (queues_releaseRevoked _).trans (queues_releaseEvicted _)
  exact (((Rechecks.of_queues hfree).trans (drawOnFree_rechecks _ j)).trans (rechecks_recheck _ (by decide))).trans (.of_queues (queues_updateLtr _))

/-! ## One record retires -/

/-- The index moves on; the deferred head may be due again, the shadow may be owed. -/
def retiredQueue (x : Queue) (again owed : Bool) : Queue := { x with t := nextIdx x.k x.t, recheck := x.recheck || again, shadowOwed := owed }

theorem qAt_writeShadow (s : State) (q : Nat) : ∃ b, qAt (writeShadow s q) q = { qAt s q with shadowOwed := b } := by
  unfold writeShadow
  dsimp only
  split
  · exact ⟨_, rfl⟩
  split
  · exact ⟨false, by rw [qAt_of_only (hostWrite_only ..) (by decide +kernel), qAt_modQ_self]⟩
  · exact ⟨true, qAt_modQ_self ..⟩

theorem qAt_retireHead (hq : (qAt s q).state ≠ 0 ∨ smWf {} s.queues = true) (hhead : (queueJobs s q).head? = some j) :
    ∃ b c, qAt (retireHead s q) q = retiredQueue (qAt s q) b c := by
  have hexec : retireHead s q = writeShadow (afterRetire (modQ (journalWrite (setJobs s (s.jobs.filter fun x => !(isLive x && x.seq == j.seq)))) q fun x =>
      { x with t := nextIdx x.k x.t }) j) q := by
    unfold retireHead
    rw [hhead]
  have hqueues : (journalWrite (setJobs s (s.jobs.filter fun x => !(isLive x && x.seq == j.seq)))).queues = s.queues := rfl
  rw [hexec]
  generalize journalWrite (setJobs s (s.jobs.filter fun x => !(isLive x && x.seq == j.seq))) = v at *
  have hsame : qAt v q = qAt s q := congrArg (fun m : SMap Queue => smGet ({} : Queue) m q) hqueues
  have hmod : qAt (modQ v q fun x => { x with t := nextIdx x.k x.t }) q = { qAt s q with t := nextIdx (qAt s q).k (qAt s q).t } := by rw [qAt_modQ_self, hsame]
  have hwf : smWf {} s.queues = true → smWf {} (modQ v q fun x => { x with t := nextIdx x.k x.t }).queues = true := fun h =>
    smWf_smSet ({} : Queue) q _ (by rw [hqueues]; exact h)
  generalize (modQ v q fun x => { x with t := nextIdx x.k x.t }) = w at *
  have hafter := afterRetire_rechecks w j
  obtain ⟨c, hc⟩ := qAt_writeShadow (afterRetire w j) q
  by_cases hnew : qAt w q = {}
  · have hwf' : smWf {} s.queues = true := hq.resolve_left fun h => h (by
      rw [hmod] at hnew
      exact congrArg Queue.state hnew)
    obtain ⟨-, hidle⟩ := hafter.idle (hwf hwf')
    refine ⟨false, c, ?_⟩
    rw [hc, hidle q hnew, ← hnew, hmod]
    unfold retiredQueue
    rw [Bool.or_false]
  · obtain ⟨b, hb⟩ := hafter.inUse q hnew
    exact ⟨b, c, by rw [hc, hb, hmod]; rfl⟩

theorem jobs_retireHead (hhead : (queueJobs s q).head? = some j) : (retireHead s q).jobs = s.jobs.filter fun x => !(isLive x && x.seq == j.seq) := by
  have hexec : retireHead s q = writeShadow (afterRetire (modQ (journalWrite (setJobs s (s.jobs.filter fun x => !(isLive x && x.seq == j.seq)))) q fun x =>
      { x with t := nextIdx x.k x.t }) j) q := by
    unfold retireHead
    rw [hhead]
  rw [hexec, (writeShadow_only ..).same .jobs (by decide +kernel), (afterRetire_only ..).same .jobs (by decide +kernel)]
  exact (journalWrite_only _).same .jobs (by decide +kernel)

/-! ## A draining queue -/

/-- The queue drains, and holds no copies. -/
def Drains (q : Nat) (s : State) : Prop := (qAt s q).state = 3 ∧ (qAt s q).copies = []

theorem Drains.of_only {l : List Part} (hd : Drains q s) (h : Only l s t) (hl : (QueueReg.all.any fun r => l.contains (.queue r)) = false) : Drains q t := by
  unfold Drains
  rw [qAt_of_only h hl]
  exact hd

theorem Drains.retireHead (hd : Drains q s) : Drains q (retireHead s q) := by
  obtain ⟨hst, hc⟩ := hd
  cases hhead : (queueJobs s q).head? with
  | none =>
    unfold Machine.retireHead
    rw [hhead]
    exact ⟨hst, hc⟩
  | some j =>
    obtain ⟨b, c, h⟩ := qAt_retireHead (.inl (by rw [hst]; decide)) hhead
    unfold Drains
    rw [h]
    exact ⟨hst, hc⟩

theorem Drains.retireEntry (hd : Drains q s) : Drains q (retireEntry s q) := by
  unfold Machine.retireEntry
  split
  · exact hd
  · split
    · exact hd
    split
    · exact (hd.of_only (modJob_only ..) (by decide +kernel)).of_only (sendFrame_only ..) (by decide +kernel)
    · exact hd.retireHead

theorem Drains.retireSilent (hd : Drains q s) (fuel : Nat) : Drains q (retireSilent s q fuel) := by
  induction fuel generalizing s with
  | zero => exact hd
  | succ fuel ih =>
    unfold Machine.retireSilent
    split
    · exact hd
    · split
      · exact ih hd.retireEntry
      · exact hd

theorem Drains.drainQueue (hd : Drains q s) : Drains q (drainQueue s q) :=
  Drains.retireSilent (foldl_keeps _ (fun _ j _ ht => ht.of_only (drainJob_only _ j) (by decide +kernel)) hd) _

end

end Sys2Proof.QueueFrames
end

section
/-! PROOF. ENABLE, DISABLE, CONTINUE, RESUME and FORGET through a function (R80, R157 to R160, Tables 07.11 and 07.13; O22). -/

namespace Sys2Proof.QueueCommands

open Sys2Proof Sys2Proof.Machine Sys2Proof.Claims Sys2Proof.Frames Sys2Proof.Holding Sys2Proof.QueueFrames Sys2Proof.ScalarOps

section
variable {s t u : State} {fn p q n cmd r idx : Nat} {v : W64} {j : Job} {act : State → Nat → Nat × State} {x : Queue}

/-! ## The command register -/

theorem queueCommand_acts (hat : HostAt s fn p) (hbusy : (fnAt s fn).cmdBusy = false) (hq : bits v.toNat 0 16 = q) (hpad : padOfQueue s q = some p)
    (hact : act s q = (r, u)) : queueCommand s fn v cmd act = setResult u fn q cmd r := by
  obtain ⟨hregs, hfn⟩ := hat
  unfold queueCommand
  dsimp only
  rw [hfn]
  dsimp only
  rw [if_neg (by simp [hregs]), if_neg (by simp [hbusy]), hq, if_neg (by simp [hpad]), hact]

theorem queueCommand_foreign (hat : HostAt s fn p) (hbusy : (fnAt s fn).cmdBusy = false) (hq : bits v.toNat 0 16 = q) (hpad : padOfQueue s q ≠ some p) :
    queueCommand s fn v cmd act = setResult s fn q cmd 1 := by
  obtain ⟨hregs, hfn⟩ := hat
  unfold queueCommand
  dsimp only
  rw [hfn]
  dsimp only
  rw [if_neg (by simp [hregs]), if_neg (by simp [hbusy]), hq, if_pos hpad]

/-- The registers that answer a command. -/
def Answered (t : State) (fn q cmd r : Nat) : Prop := (fnAt t fn).cmdQueue = q ∧ (fnAt t fn).cmdCmd = cmd ∧ (fnAt t fn).cmdResult = r

theorem answered_setResult (s : State) (fn q cmd r : Nat) : Answered (setResult s fn q cmd r) fn q cmd r := by
  unfold Answered setResult
  rw [fnAt_modFn_self]
  exact ⟨rfl, rfl, rfl⟩

theorem answered_replaysDone (h : Answered s fn q cmd r) : Answered (replaysDone s) fn q cmd r := by
  have ho := replaysDone_only s
  obtain ⟨hq, hc, hr⟩ := h
  exact ⟨(ho.same (.fn .cmdQueue) (by decide +kernel) fn).trans hq, (ho.same (.fn .cmdCmd) (by decide +kernel) fn).trans hc,
    (ho.same (.fn .cmdResult) (by decide +kernel) fn).trans hr⟩

theorem qAt_replaysDone (s : State) (q : Nat) : qAt (replaysDone s) q = qAt s q := qAt_of_only (replaysDone_only s) (by decide +kernel) q

/-! ## ENABLE -/

theorem qAt_startQueue (s : State) (q : Nat) (c : PendEnable) : ∃ b, qAt (startQueue s q c) q = { startedQueue s q c with shadowOwed := b } := by
  obtain ⟨b, hb⟩ := qAt_writeShadow (journalWrite (putQ s q (startedQueue s q c))) q
  refine ⟨b, ?_⟩
  rw [startQueue_eq, qAt_of_only (updateLtr_only _) (by decide +kernel), hb, qAt_of_only (journalWrite_only _) (by decide +kernel), qAt_putQ_self]

theorem cmdEnable_starts (hbx : (qAt s q).bx = false) (hst : (qAt s q).state = 0) (hok : stagedOk s n idx = true) :
    cmdEnable s n q idx = (0, startQueue s q (snapshotOf s n idx)) :=
  (if_neg (by simp [hbx, hst])).trans ((if_neg (by simp [hok])).trans (if_pos hst))

/-- The queue that drains, with an ENABLE pending behind it (R159). -/
def pending (s : State) (n q idx : Nat) : State := writeShadow (journalWrite (modQ s q fun y => { y with state := 4, pend := some (snapshotOf s n idx) })) q

theorem cmdEnable_pends (hbx : (qAt s q).bx = false) (hst : (qAt s q).state = 3) (hok : stagedOk s n idx = true) : cmdEnable s n q idx = (0, pending s n q idx) :=
  (if_neg (by simp [hbx, hst])).trans ((if_neg (by simp [hok])).trans (if_neg (by simp [hst])))

theorem cmdEnable_unstaged (hbx : (qAt s q).bx = false) (hst : (qAt s q).state = 0 ∨ (qAt s q).state = 3) (hok : stagedOk s n idx = false) :
    cmdEnable s n q idx = (3, s) :=
  (if_neg (by rcases hst with h | h <;> simp [hbx, h])).trans (if_pos (by simp [hok]))

theorem cmdEnable_refused (h0 : (qAt s q).state ≠ 0) (h3 : (qAt s q).state ≠ 3) : cmdEnable s n q idx = (2, s) := if_pos (by simp [h0, h3])

theorem qAt_pending (s : State) (n q idx : Nat) : (qAt (pending s n q idx) q).state = 4 ∧ (qAt (pending s n q idx) q).pend = some (snapshotOf s n idx) := by
  obtain ⟨b, hb⟩ := qAt_writeShadow (journalWrite (modQ s q fun y => { y with state := 4, pend := some (snapshotOf s n idx) })) q
  unfold pending
  rw [hb, qAt_of_only (journalWrite_only _) (by decide +kernel), qAt_modQ_self]
  exact ⟨rfl, rfl⟩

/-! ## DISABLE and CONTINUE -/

theorem cmdDisable_drains (hbx : (qAt s q).bx = false) (hst : (qAt s q).state = 1 ∨ (qAt s q).state = 2) (hfn : (qAt s q).fn = n) :
    cmdDisable s n q = (0, beginDrain s q) :=
  (if_neg (by simp [hbx])).trans ((if_pos hst).trans (if_pos hfn))

theorem drains_beginDrain (s : State) (q : Nat) : Drains q (beginDrain s q) := by
  have hstart : Drains q (modQ (dropHead s q) q fun y => { dropCopies y with state := 3, pend := none, errReason := 0, errDetail := 0, errIndex := 0 }) := by
    unfold Drains
    rw [qAt_modQ_self]
    exact ⟨rfl, rfl⟩
  have hjournal := hstart.of_only (journalWrite_only _) (by decide +kernel)
  obtain ⟨b, hb⟩ := qAt_writeShadow (journalWrite (modQ (dropHead s q) q fun y =>
    { dropCopies y with state := 3, pend := none, errReason := 0, errDetail := 0, errIndex := 0 })) q
  refine Drains.drainQueue ?_
  unfold Drains
  rw [hb]
  exact hjournal

theorem cmdContinue_continues (hbx : (qAt s q).bx = false) (hst : (qAt s q).state = 2) (hfn : (qAt s q).fn = n) : cmdContinue s n q = (0, continueQueue s q) :=
  if_neg (by simp [hbx, hst, hfn])

theorem cmdContinue_refused (h : (qAt s q).state ≠ 2 ∨ (qAt s q).fn ≠ n) : cmdContinue s n q = (2, s) := if_pos (by rcases h with h | h <;> simp [h])

theorem qAt_continueQueue (s : State) (q : Nat) : ∃ b, qAt (continueQueue s q) q =
    { dropCopies (qAt s q) with state := 1, errReason := 0, errDetail := 0, errIndex := 0, shadowOwed := b } := by
  obtain ⟨b, hb⟩ := qAt_writeShadow (journalWrite (modQ s q fun y => { dropCopies y with state := 1, errReason := 0, errDetail := 0, errIndex := 0 })) q
  refine ⟨b, ?_⟩
  unfold continueQueue
  rw [hb, qAt_of_only (journalWrite_only _) (by decide +kernel), qAt_modQ_self]

/-! ## RESUME -/

theorem cmdResume_forgetting (hf : (qAt s q).forgetting = true) : cmdResume s n q = (2, s) := by
  unfold cmdResume
  dsimp only
  split
  · rfl
  · rfl

theorem cmdResume_masterless (hbx : (qAt s q).bx = false) (hst : (qAt s q).state = 5) (hfn : (qAt s q).fn = n) (hf : (qAt s q).forgetting = false)
    (hbme : (fnAt s n).bme = false) : cmdResume s n q = (4, s) :=
  (if_neg (by simp [hbx, hst, hfn])).trans ((if_neg (by simp [hf])).trans (if_pos (by simp [hbme])))

theorem cmdResume_resumes (hbx : (qAt s q).bx = false) (hst : (qAt s q).state = 5) (hfn : (qAt s q).fn = n) (hf : (qAt s q).forgetting = false)
    (hbme : (fnAt s n).bme = true) : cmdResume s n q = (0, resumeQueue s q) :=
  (if_neg (by simp [hbx, hst, hfn])).trans ((if_neg (by simp [hf])).trans (if_neg (by simp [hbme])))

theorem resumeQueue_eq (hbell : (qAt s q).heldBell = none) (hrem : (qAt s q).remembered = 1 ∨ (qAt s q).remembered = 2) : resumeQueue s q =
    updateLtr (releaseHeld (writeShadow (journalWrite (modQ s q fun y => { y with state := y.remembered, remembered := 0, heldBell := none })) q) [q]) := by
  have hno : ¬((qAt s q).remembered = 3 ∨ (qAt s q).remembered = 4) := by omega
  unfold resumeQueue
  dsimp only
  rw [hbell]
  dsimp only
  rw [if_neg hno]

theorem qAt_resumeQueue (hbell : (qAt s q).heldBell = none) (hrem : (qAt s q).remembered = 1 ∨ (qAt s q).remembered = 2) :
    (qAt (resumeQueue s q) q).state = (qAt s q).remembered ∧ (qAt (resumeQueue s q) q).remembered = 0 := by
  obtain ⟨b, hb⟩ := qAt_writeShadow (journalWrite (modQ s q fun y => { y with state := y.remembered, remembered := 0, heldBell := none })) q
  rw [qAt_of_only (journalWrite_only _) (by decide +kernel), qAt_modQ_self] at hb
  rw [resumeQueue_eq hbell hrem, qAt_of_only (updateLtr_only _) (by decide +kernel)]
  generalize writeShadow _ q = w at *
  have ho := releaseHeld_only w [q]
  exact ⟨(ho.same (.queue .state) (by decide +kernel) q).trans (by rw [hb]), (ho.same (.queue .remembered) (by decide +kernel) q).trans (by rw [hb])⟩

end

end Sys2Proof.QueueCommands
end

section
/-! PROOF. FORGET: the live records of a HELD queue retire without a write, and the queue is disabled with the last of them (R80, R196; O22). -/

namespace Sys2Proof.QueueCommands

open Sys2Proof Sys2Proof.Machine Sys2Proof.Claims Sys2Proof.Frames Sys2Proof.Holding Sys2Proof.QueueFrames

section
variable {s t u : State} {q n fuel : Nat} {j k : Job} {l : List Job}

/-! ## Records forgotten -/

/-- A record that will retire without a write. -/
def silenced (x : Job) : Job := { x with phase := .issued, silent := true, replaying := false, heldCpl := false, stall := none, cells := 0, drawn := 0 }

theorem jobs_forgetJob (s : State) (j : Job) : (forgetJob s j).jobs = s.jobs.map fun x => if x.seq == j.seq && isLive x then silenced x else x := by
  have hclaims : (releaseClaims (modJob s j.seq silenced) j).jobs = s.jobs.map fun x => if x.seq == j.seq && isLive x then silenced x else x :=
    (releaseClaims_only ..).same .jobs (by decide +kernel)
  have hexec : forgetJob s j = match j.stall with
      | some n => abandonOn (releaseClaims (modJob s j.seq silenced) j) n j.seq
      | none => releaseClaims (modJob s j.seq silenced) j := rfl
  rw [hexec]
  split
  · exact ((abandonOn_only ..).same .jobs (by decide +kernel)).trans hclaims
  · exact hclaims

theorem jobs_forgetJobs (l : List Job) (s : State) : (l.foldl forgetJob s).jobs =
    s.jobs.map fun x => if (l.any fun j => x.seq == j.seq) && isLive x then silenced x else x := by
  induction l generalizing s with
  | nil => simp
  | cons j l ih =>
    rw [List.foldl_cons, ih, jobs_forgetJob, List.map_map]
    refine List.map_congr_left fun x _ => ?_
    rw [Function.comp_apply]
    cases hlive : isLive x
    · simp [hlive]
    · cases hseq : x.seq == j.seq
      · simp [hseq, hlive]
      · have htwice : silenced (silenced x) = silenced x := rfl
        rw [Bool.and_self, if_pos rfl, htwice, ite_self, List.any_cons, hseq, Bool.true_or, Bool.and_self, if_pos rfl]

/-- The queue's records, each of them silent, stand ready to retire. -/
structure Silent (q : Nat) (s : State) : Prop where
  running : frozen s = false
  alone : s.jn.role ≠ 1 ∧ s.jn.role ≠ 3
  silent : ∀ j ∈ s.jobs, j.queue = q → j.phase = .issued ∧ j.silent = true ∧ j.sent = false
  nodup : ((queueJobs s q).map (·.seq)).Nodup
  forgetting : (qAt s q).state = 5 ∧ (qAt s q).forgetting = true

theorem mem_queueJobs : j ∈ queueJobs s q ↔ j ∈ s.jobs ∧ j.queue = q ∧ isLive j = true := by simp [queueJobs]

/-- Forgotten, every record of the queue is silent, and the order of the records stays. -/
theorem queueJobs_forgotten (hwrite : ∀ j ∈ s.jobs, j.queue = q → j.phase ≠ .writing ∧ j.sent = false) (ht : t.jobs = s.jobs) :
    (∀ j ∈ ((queueJobs s q).foldl forgetJob t).jobs, j.queue = q → j.phase = .issued ∧ j.silent = true ∧ j.sent = false) ∧
      queueJobs ((queueJobs s q).foldl forgetJob t) q = (queueJobs s q).map silenced := by
  have hlive : ∀ j ∈ s.jobs, j.queue = q → isLive j = true := fun j hj hq => by simpa [isLive] using (hwrite j hj hq).1
  have hhit : ∀ j ∈ s.jobs, j.queue = q → ((queueJobs s q).any fun i => j.seq == i.seq) = true := fun j hj hq =>
    List.any_eq_true.mpr ⟨j, mem_queueJobs.mpr ⟨hj, hq, hlive j hj hq⟩, by simp⟩
  have hjobs := jobs_forgetJobs (queueJobs s q) t
  rw [ht] at hjobs
  have hqueue : ∀ x : Job, (if ((queueJobs s q).any fun i => x.seq == i.seq) && isLive x then silenced x else x).queue = x.queue := fun x => by
    split
    · rfl
    · rfl
  constructor
  · intro j hj hq
    rw [hjobs] at hj
    obtain ⟨x, hx, rfl⟩ := List.mem_map.mp hj
    rw [hqueue] at hq
    rw [if_pos (by rw [hhit x hx hq, hlive x hx hq]; rfl)]
    exact ⟨rfl, rfl, (hwrite x hx hq).2⟩
  · conv_lhs => rw [queueJobs, hjobs, List.filter_map]
    have hfilter : s.jobs.filter ((fun j => j.queue == q && isLive j) ∘ fun x => if ((queueJobs s q).any fun i => x.seq == i.seq) && isLive x then silenced x else x) =
        queueJobs s q := List.filter_congr fun x hx => by
      simp only [Function.comp_apply, hqueue]
      by_cases hq : x.queue = q
      · rw [if_pos (by rw [hhit x hx hq, hlive x hx hq]; rfl), hlive x hx hq]
        rfl
      · have hno : (x.queue == q) = false := by simp [hq]
        rw [hno, Bool.false_and, Bool.false_and]
    rw [hfilter]
    refine List.map_congr_left fun x hx => ?_
    obtain ⟨hx, hq, hl⟩ := mem_queueJobs.mp hx
    rw [if_pos (by rw [hhit x hx hq, hl]; rfl)]

/-! ## Records retired -/

theorem retireEntry_retires (h : Silent q s) (hhead : (queueJobs s q).head? = some j) : retireEntry s q = retireHead s q := by
  obtain ⟨hj, hq, -⟩ := mem_queueJobs.mp (List.mem_of_mem_head? hhead)
  obtain ⟨hphase, -, hsent⟩ := h.silent j hj hq
  unfold retireEntry
  rw [hhead]
  dsimp only
  rw [if_neg (by simp [hphase, hsent, h.running, h.alone.2]), if_neg (by simp [mirrored, h.alone.1])]

theorem queueJobs_retireHead (h : Silent q s) (hl : queueJobs s q = j :: l) : queueJobs (retireHead s q) q = l := by
  have hjobs := jobs_retireHead (s := s) (q := q) (j := j) (by rw [hl]; rfl)
  have hswap : queueJobs (retireHead s q) q = (queueJobs s q).filter fun x => !(x.seq == j.seq) := by
    unfold queueJobs
    rw [hjobs, List.filter_filter, List.filter_filter]
    refine List.filter_congr fun x _ => ?_
    cases isLive x
    · simp
    · simp [Bool.and_comm]
  have hnodup := h.nodup
  rw [hl, List.map_cons, List.nodup_cons] at hnodup
  rw [hswap, hl, List.filter_cons_of_neg (by simp), List.filter_eq_self]
  intro x hx
  have hne : x.seq ≠ j.seq := fun he => hnodup.1 (he ▸ List.mem_map_of_mem hx)
  simpa using hne

theorem Silent.retireHead (h : Silent q s) (hl : queueJobs s q = j :: l) : Silent q (retireHead s q) := by
  have hhead : (queueJobs s q).head? = some j := by rw [hl]; rfl
  obtain ⟨hst, hf⟩ := h.forgetting
  obtain ⟨b, c, hq⟩ := qAt_retireHead (.inl (by rw [hst]; decide)) hhead
  have ho := retireHead_only s q
  refine ⟨?_, ?_, fun k hk hkq => ?_, ?_, by rw [hq]; exact ⟨hst, hf⟩⟩
  · have hflush : (Machine.retireHead s q).en.flushActive = s.en.flushActive := ho.same (.en .flushActive) (by decide +kernel)
    have hshut : (Machine.retireHead s q).jn.shutdownDone = s.jn.shutdownDone := ho.same (.jn .shutdownDone) (by decide +kernel)
    unfold frozen
    rw [hflush, hshut]
    exact h.running
  · rw [show (Machine.retireHead s q).jn.role = s.jn.role from ho.same (.jn .role) (by decide +kernel)]
    exact h.alone
  · rw [jobs_retireHead hhead] at hk
    exact h.silent k (List.mem_of_mem_filter hk) hkq
  · have hnodup := h.nodup
    rw [hl, List.map_cons, List.nodup_cons] at hnodup
    rw [queueJobs_retireHead h hl]
    exact hnodup.2

/-- What the retirement of every record leaves of the queue. -/
theorem retireSilent_all (fuel : Nat) (s : State) (h : Silent q s) (hfuel : (queueJobs s q).length < fuel) (hlow : (qAt s q).t < 2 ^ ((qAt s q).k + 1)) :
    Silent q (retireSilent s q fuel) ∧ queueJobs (retireSilent s q fuel) q = [] ∧
      (qAt (retireSilent s q fuel) q).t = ((qAt s q).t + (queueJobs s q).length) % 2 ^ ((qAt s q).k + 1) ∧
      (qAt (retireSilent s q fuel) q).a = (qAt s q).a ∧ (qAt (retireSilent s q fuel) q).forgotten = (qAt s q).forgotten := by
  induction fuel generalizing s with
  | zero => exact absurd hfuel (Nat.not_lt_zero _)
  | succ fuel ih =>
    cases hl : queueJobs s q with
    | nil =>
      have hstay : retireSilent s q (fuel + 1) = s := by
        unfold retireSilent
        rw [hl]
        rfl
      rw [hstay]
      exact ⟨h, hl, by rw [List.length_nil, Nat.add_zero, Nat.mod_eq_of_lt hlow], rfl, rfl⟩
    | cons j l =>
      obtain ⟨hj, hq, -⟩ := mem_queueJobs.mp (hl ▸ List.mem_cons_self : j ∈ queueJobs s q)
      obtain ⟨hphase, hsilent, hsent⟩ := h.silent j hj hq
      have hhead : (queueJobs s q).head? = some j := by rw [hl]; rfl
      obtain ⟨b, c, hqueue⟩ := qAt_retireHead (.inl (by rw [h.forgetting.1]; decide)) hhead
      have hstep : retireSilent s q (fuel + 1) = retireSilent (retireHead s q) q fuel := by
        conv_lhs => unfold retireSilent
        rw [hhead]
        exact (if_pos (by simp [hphase, hsilent, hsent])).trans (by rw [retireEntry_retires h hhead])
      rw [hstep]
      have hrest := queueJobs_retireHead h hl
      rw [hl, List.length_cons] at hfuel
      obtain ⟨hs, hnone, ht, ha, hforg⟩ := ih (retireHead s q) (h.retireHead hl) (by rw [hrest]; omega) (by
        rw [hqueue]
        exact Nat.mod_lt _ (by positivity))
      rw [hqueue, hrest] at ht
      rw [hqueue] at ha hforg
      refine ⟨hs, hnone, ht.trans ?_, ha, hforg⟩
      show (((qAt s q).t + 1) % 2 ^ ((qAt s q).k + 1) + l.length) % 2 ^ ((qAt s q).k + 1) = ((qAt s q).t + (l.length + 1)) % 2 ^ ((qAt s q).k + 1)
      rw [Nat.mod_add_mod, Nat.add_assoc, Nat.add_comm 1]

/-! ## The queue disabled -/

theorem qAt_disableQueue (s : State) (q : Nat) : (qAt (disableQueue s q) q).state = 0 ∧ (qAt (disableQueue s q) q).forgotten = (qAt s q).forgotten := by
  obtain ⟨b, hb⟩ := qAt_writeShadow (modQ s q fun y => { dropCopies y with state := 0, errReason := 0, errDetail := 0, errIndex := 0 }) q
  rw [qAt_modQ_self] at hb
  unfold disableQueue
  dsimp only
  rw [qAt_of_only (updateLtr_only _) (by decide +kernel), qAt_of_only (journalWrite_only _) (by decide +kernel), qAt_of_only (fitYard_only _) (by decide +kernel),
    qAt_putQ_self, hb]
  unfold disabledQueue
  dsimp only
  split
  · exact ⟨rfl, rfl⟩
  · exact ⟨rfl, rfl⟩

theorem forgetDone_disables (h : Silent q s) (hnone : queueJobs s q = []) (hta : (qAt s q).t = (qAt s q).a) : forgetDone s q = disableQueue s q := by
  have hdrained : drained s q = true := by
    unfold drained
    rw [hta]
    simp only [beq_self_eq_true, Bool.true_and, Bool.not_eq_true', List.any_eq_false, beq_iff_eq]
    intro j hj hq
    obtain ⟨hphase, -, -⟩ := h.silent j hj hq
    have hmem : j ∈ queueJobs s q := mem_queueJobs.mpr ⟨hj, hq, by simp [isLive, hphase]⟩
    rw [hnone] at hmem
    exact absurd hmem List.not_mem_nil
  exact if_pos (by simp [h.forgetting.2, hdrained])

/-- A queue of silent records is disabled by their retirement, its count of forgotten records kept. -/
theorem forgetQueue_empties (hrun : frozen s = false) (hrole : s.jn.role ≠ 1 ∧ s.jn.role ≠ 3) (hst : (qAt s q).state = 5)
    (hwrite : ∀ j ∈ s.jobs, j.queue = q → j.phase ≠ .writing ∧ j.sent = false) (hnodup : ((queueJobs s q).map (·.seq)).Nodup)
    (hlow : (qAt s q).t < 2 ^ ((qAt s q).k + 1)) (ha : (qAt s q).a = ((qAt s q).t + (queueJobs s q).length) % 2 ^ ((qAt s q).k + 1)) :
    (qAt (forgetQueue s q) q).state = 0 ∧ (qAt (forgetQueue s q) q).forgotten = satAdd 0xFFFFFFFF (qAt s q).forgotten (queueJobs s q).length ∧
      ∀ j ∈ (forgetQueue s q).jobs, j.queue ≠ q := by
  have hdrop : dropHead s q = s := by
    unfold dropHead
    rw [List.find?_eq_none.mpr]
    intro j hj
    by_cases hq : j.queue = q
    · simp [isLive, (hwrite j hj hq).1]
    · simp [hq]
  have hqueue : qAt (modQ s q fun x => { x with forgotten := satAdd 0xFFFFFFFF x.forgotten (queueJobs s q).length, pend := none, forgetting := true }) q =
      { qAt s q with forgotten := satAdd 0xFFFFFFFF (qAt s q).forgotten (queueJobs s q).length, pend := none, forgetting := true } := qAt_modQ_self ..
  have hframe : Only [.queue .forgotten, .queue .pend, .queue .forgetting] s
      (modQ s q fun x => { x with forgotten := satAdd 0xFFFFFFFF x.forgotten (queueJobs s q).length, pend := none, forgetting := true }) :=
    modQ_in (Queue.set_forgotten_pend_forgetting (by decide +kernel) (QueueReg.refl _ _)) (Only.refl _ _)
  unfold forgetQueue
  rw [hdrop]
  dsimp only
  generalize (modQ s q fun x => { x with forgotten := satAdd 0xFFFFFFFF x.forgotten (queueJobs s q).length, pend := none, forgetting := true }) = u at *
  obtain ⟨hsilent, hjobs⟩ := queueJobs_forgotten hwrite (hframe.same .jobs (by decide +kernel) : u.jobs = s.jobs)
  have hfold : Only _ u ((queueJobs s q).foldl forgetJob u) := Only.foldl _ (fun t j => forgetJob_only t j) (Only.refl _ _)
  have hqueue' : qAt ((queueJobs s q).foldl forgetJob u) q = _ := (qAt_of_only hfold (by decide +kernel) q).trans hqueue
  have hready : Silent q ((queueJobs s q).foldl forgetJob u) := by
    refine ⟨?_, ?_, hsilent, ?_, ?_⟩
    · unfold frozen
      rw [en_of_only hfold (by decide +kernel), jn_of_only hfold (by decide +kernel), en_of_only hframe (by decide +kernel), jn_of_only hframe (by decide +kernel)]
      exact hrun
    · rw [jn_of_only hfold (by decide +kernel), jn_of_only hframe (by decide +kernel)]
      exact hrole
    · rw [hjobs, List.map_map]
      exact hnodup
    · rw [hqueue']
      exact ⟨hst, rfl⟩
  generalize (queueJobs s q).foldl forgetJob u = w at *
  have hlen : (queueJobs w q).length = (queueJobs s q).length := by rw [hjobs, List.length_map]
  have hfuel : (queueJobs w q).length < w.jobs.length + 1 := Nat.lt_succ_of_le (List.length_filter_le ..)
  obtain ⟨hlast, hnone, ht, ha', hforg⟩ := retireSilent_all (w.jobs.length + 1) w hready hfuel (by rw [hqueue']; exact hlow)
  rw [hlen, hqueue'] at ht
  rw [hqueue'] at ha' hforg
  rw [forgetDone_disables hlast hnone (ht.trans (ha.symm.trans ha'.symm))]
  obtain ⟨hzero, hkept⟩ := qAt_disableQueue (retireSilent w q (w.jobs.length + 1)) q
  refine ⟨hzero, hkept.trans hforg, fun j hj hq => ?_⟩
  rw [(disableQueue_only ..).same .jobs (by decide +kernel)] at hj
  obtain ⟨hphase, -, -⟩ := hlast.silent j hj hq
  have hmem : j ∈ queueJobs (retireSilent w q (w.jobs.length + 1)) q := mem_queueJobs.mpr ⟨hj, hq, by simp [isLive, hphase]⟩
  rw [hnone] at hmem
  exact absurd hmem List.not_mem_nil

theorem cmdForget_forgets (hbx : (qAt s q).bx = false) (hst : (qAt s q).state = 5) (hfn : (qAt s q).fn = n) (hf : (qAt s q).forgetting = false)
    (hbme : (fnAt s n).bme = true) : cmdForget s n q = (0, forgetQueue s q) :=
  (if_neg (by simp [hbx, hst, hfn])).trans ((if_neg (by simp [hbme])).trans (if_neg (by simp [hf])))

end

/-! ## The commands -/

section
variable {s : State} {fn p q idx : Nat} {v : W64}

theorem frozen_of_host (hat : HostAt s fn p) (hdown : s.jn.shutdownDone = false) : frozen s = false := by
  obtain ⟨hregs, -⟩ := hat
  have hflush : s.en.flushActive = false := by
    simp only [regsUp, reaches, Bool.and_eq_true] at hregs
    simpa using hregs.1.1.1.2
  simp [frozen, hflush, hdown]

theorem enable_starts (hat : HostAt s fn p) (hbusy : (fnAt s fn).cmdBusy = false) (hq : bits v.toNat 0 16 = q) (hidx : bits v.toNat 20 17 = idx)
    (hpad : padOfQueue s q = some p) (hbx : (qAt s q).bx = false) (hst : (qAt s q).state = 0) (hok : stagedOk s fn idx = true) :
    ∃ t, exec (.qEnable fn v) s = .next t ∧ Answered t fn q 1 0 ∧ (qAt t q).state = 1 ∧ (qAt t q).base = (fnAt s fn).qcRing ∧
        (qAt t q).k = (fnAt s fn).qcLog2 ∧ (qAt t q).vector = (fnAt s fn).qcVector ∧ (qAt t q).wake = (fnAt s fn).qcWake ∧ (qAt t q).crcReq = (fnAt s fn).qcCrcReq ∧
        (qAt t q).irqEn = (fnAt s fn).qcIrqEn ∧
        (qAt t q).fn = fn ∧ (qAt t q).p = idx ∧ (qAt t q).a = idx ∧ (qAt t q).t = idx ∧ (qAt t q).gen = ((qAt s q).gen + 1) % 65536 := by
  refine ⟨_, congrArg Host.Outcome.next (queueCommand_acts hat hbusy hq hpad (by rw [hidx]; exact cmdEnable_starts hbx hst hok)), answered_setResult .., ?_⟩
  obtain ⟨b, hb⟩ := qAt_startQueue s q (snapshotOf s fn idx)
  rw [setResult, qAt_modFn, hb]
  exact ⟨rfl, rfl, rfl, rfl, rfl, rfl, rfl, rfl, rfl, rfl, rfl, rfl⟩

theorem disable_drains (hat : HostAt s fn p) (hbusy : (fnAt s fn).cmdBusy = false) (hq : bits v.toNat 0 16 = q) (hpad : padOfQueue s q = some p)
    (hbx : (qAt s q).bx = false) (hst : (qAt s q).state = 1 ∨ (qAt s q).state = 2) (hfn : (qAt s q).fn = fn) :
    ∃ t, exec (.qDisable fn v) s = .next t ∧ Answered t fn q 2 0 ∧ (qAt t q).state = 3 ∧ (qAt t q).copies = [] := by
  refine ⟨_, congrArg Host.Outcome.next (congrArg replaysDone (queueCommand_acts hat hbusy hq hpad (cmdDisable_drains hbx hst hfn))),
    answered_replaysDone (answered_setResult ..), ?_⟩
  rw [qAt_replaysDone, setResult, qAt_modFn]
  exact drains_beginDrain s q

theorem continue_continues (hat : HostAt s fn p) (hbusy : (fnAt s fn).cmdBusy = false) (hq : bits v.toNat 0 16 = q) (hpad : padOfQueue s q = some p)
    (hbx : (qAt s q).bx = false) (hst : (qAt s q).state = 2) (hfn : (qAt s q).fn = fn) : ∃ t, exec (.qContinue fn v) s = .next t ∧ Answered t fn q 3 0 ∧
      (qAt t q).state = 1 ∧ (qAt t q).errReason = 0 ∧ (qAt t q).copies = [] ∧ (qAt t q).a = (qAt s q).a := by
  refine ⟨_, congrArg Host.Outcome.next (queueCommand_acts hat hbusy hq hpad (cmdContinue_continues hbx hst hfn)), answered_setResult .., ?_⟩
  obtain ⟨b, hb⟩ := qAt_continueQueue s q
  rw [setResult, qAt_modFn, hb]
  exact ⟨rfl, rfl, rfl, rfl⟩

theorem resume_resumes (hat : HostAt s fn p) (hbusy : (fnAt s fn).cmdBusy = false) (hq : bits v.toNat 0 16 = q) (hpad : padOfQueue s q = some p)
    (hbx : (qAt s q).bx = false) (hst : (qAt s q).state = 5) (hfn : (qAt s q).fn = fn) (hf : (qAt s q).forgetting = false) (hbme : (fnAt s fn).bme = true)
    (hbell : (qAt s q).heldBell = none) (hrem : (qAt s q).remembered = 1 ∨ (qAt s q).remembered = 2) : ∃ t, exec (.qResume fn v) s = .next t ∧ Answered t fn q 4 0 ∧
      (qAt t q).state = (qAt s q).remembered ∧ (qAt t q).remembered = 0 := by
  refine ⟨_, congrArg Host.Outcome.next (queueCommand_acts hat hbusy hq hpad (cmdResume_resumes hbx hst hfn hf hbme)), answered_setResult .., ?_⟩
  rw [setResult, qAt_modFn]
  exact qAt_resumeQueue hbell hrem

theorem forget_forgets (hat : HostAt s fn p) (hbusy : (fnAt s fn).cmdBusy = false) (hq : bits v.toNat 0 16 = q) (hpad : padOfQueue s q = some p)
    (hbx : (qAt s q).bx = false) (hst : (qAt s q).state = 5) (hfn : (qAt s q).fn = fn) (hf : (qAt s q).forgetting = false) (hbme : (fnAt s fn).bme = true)
    (hrole : s.jn.role ≠ 1 ∧ s.jn.role ≠ 3) (hdown : s.jn.shutdownDone = false) (hwrite : ∀ j ∈ s.jobs, j.queue = q → j.phase ≠ .writing ∧ j.sent = false)
    (hnodup : ((queueJobs s q).map (·.seq)).Nodup) (hlow : (qAt s q).t < 2 ^ ((qAt s q).k + 1))
    (ha : (qAt s q).a = ((qAt s q).t + (queueJobs s q).length) % 2 ^ ((qAt s q).k + 1)) : ∃ t, exec (.qForget fn v) s = .next t ∧ Answered t fn q 5 0 ∧
      (qAt t q).state = 0 ∧ (qAt t q).forgotten = satAdd 0xFFFFFFFF (qAt s q).forgotten (queueJobs s q).length ∧ ∀ j ∈ t.jobs, j.queue ≠ q := by
  refine ⟨_, congrArg Host.Outcome.next (congrArg replaysDone (queueCommand_acts hat hbusy hq hpad (cmdForget_forgets hbx hst hfn hf hbme))),
    answered_replaysDone (answered_setResult ..), ?_⟩
  have hjobs : (replaysDone (setResult (forgetQueue s q) fn q 5 0)).jobs = (forgetQueue s q).jobs := (replaysDone_only _).same .jobs (by decide +kernel)
  rw [qAt_replaysDone, setResult, qAt_modFn, ← setResult, hjobs]
  exact forgetQueue_empties (frozen_of_host hat hdown) hrole hst hwrite hnodup hlow ha

end

/-- Settles O22: each command reduces to its action on the queue, and the action keeps or sets what its row names. -/
theorem queueCommands : Obligations.QueueCommands := fun s fn p v hat hbusy => by
  dsimp only
  refine ⟨fun hpad => ⟨?_, ?_, ?_⟩, fun hpad hbx => ⟨?_, ?_, ?_, ?_, ?_, ?_, ?_, ?_, ?_, ?_, ?_⟩⟩
  · exact congrArg Host.Outcome.next (queueCommand_foreign hat hbusy rfl hpad)
  · exact congrArg Host.Outcome.next (queueCommand_foreign hat hbusy rfl hpad)
  · exact congrArg Host.Outcome.next (queueCommand_foreign hat hbusy rfl hpad)
  · exact fun hst hok => enable_starts hat hbusy rfl rfl hpad hbx hst hok
  · intro hst hok
    refine ⟨_, congrArg Host.Outcome.next (queueCommand_acts hat hbusy rfl hpad (cmdEnable_pends hbx hst hok)), answered_setResult .., ?_⟩
    rw [setResult, qAt_modFn]
    exact qAt_pending ..
  · exact fun hst hok => congrArg Host.Outcome.next (queueCommand_acts hat hbusy rfl hpad (cmdEnable_unstaged hbx hst hok))
  · exact fun h0 h3 => congrArg Host.Outcome.next (queueCommand_acts hat hbusy rfl hpad (cmdEnable_refused h0 h3))
  · exact fun hst hfn => disable_drains hat hbusy rfl hpad hbx hst hfn
  · exact fun hst hfn => continue_continues hat hbusy rfl hpad hbx hst hfn
  · exact fun h => congrArg Host.Outcome.next (queueCommand_acts hat hbusy rfl hpad (cmdContinue_refused h))
  · exact fun hst hfn hf hbme => congrArg Host.Outcome.next (queueCommand_acts hat hbusy rfl hpad (cmdResume_masterless hbx hst hfn hf hbme))
  · exact fun hst hfn hf hbme hbell hrem => resume_resumes hat hbusy rfl hpad hbx hst hfn hf hbme hbell hrem
  · exact fun _ _ hf => congrArg Host.Outcome.next (queueCommand_acts hat hbusy rfl hpad (cmdResume_forgetting hf))
  · exact fun hst hfn hf hbme _ h1 h3 hdown hwrite hnodup hlow ha => forget_forgets hat hbusy rfl hpad hbx hst hfn hf hbme ⟨h1, h3⟩ hdown hwrite hnodup hlow ha

end Sys2Proof.QueueCommands
end

section
/-! PROOF. What the completion of a job writes, and what a held completion leaves (R126, R153, R295 to R297, R363; O23). -/

namespace Sys2Proof.Completions

open Sys2Proof Sys2Proof.Machine Sys2Proof.Claims Sys2Proof.Frames Sys2Proof.Holding Sys2Proof.PadReset Sys2Proof.HostReads Sys2Proof.JobRuns

section
variable {s t u : State} {n v q e p i : Nat} {j : Job} {x : Queue}

/-! ## Emissions follow one another -/

/-- What has gone out stays, and more may follow. -/
def Appends (s t : State) : Prop := ∃ more, t.out = s.out ++ more

theorem Appends.of_out (h : t.out = s.out) : Appends s t := ⟨[], by rw [h, List.append_nil]⟩

theorem Appends.refl (s : State) : Appends s s := .of_out rfl

theorem Appends.trans (h : Appends s t) (g : Appends t u) : Appends s u := by
  obtain ⟨a, ha⟩ := h
  obtain ⟨b, hb⟩ := g
  exact ⟨a ++ b, by rw [hb, ha, List.append_assoc]⟩

theorem Appends.emit (h : Appends s t) (e : Emission) : Appends s (emit t e) := h.trans ⟨[e], rfl⟩

theorem Appends.foldl {α : Type} {f : State → α → State} (l : List α) (hf : ∀ t x, Appends t (f t x)) (s : State) : Appends s (l.foldl f s) := by
  induction l generalizing s with
  | nil => exact .refl s
  | cons x l ih => exact (hf s x).trans (ih _)

theorem appends_dueVec (s : State) (n v : Nat) : Appends s (dueVec s n v) := by
  unfold dueVec
  dsimp only
  split
  · exact .refl s
  split
  · exact .of_out rfl
  split
  · exact .of_out rfl
  · exact Appends.emit (.of_out rfl) _

theorem appends_addCause (s : State) (n v : Nat) : Appends s (addCause s n v) := by
  unfold addCause
  dsimp only
  split
  · exact Appends.trans (.of_out rfl) (appends_dueVec _ n v)
  · exact .of_out rfl

theorem appends_dueWake (s : State) (n v : Nat) : Appends s (dueWake s n v) := by
  unfold dueWake
  dsimp only
  split
  · exact .of_out rfl
  split
  · split
    · exact .of_out rfl
    · exact .of_out rfl
  split
  · exact Appends.emit (.of_out rfl) _
  · exact .of_out rfl

theorem appends_addWake (s : State) (n v : Nat) (event : Bool) : Appends s (addWake s n v event) := by
  unfold addWake
  split
  · exact .refl s
  · dsimp only
    split
    · exact Appends.trans (.of_out rfl) (appends_dueWake _ n v)
    · exact .of_out rfl

theorem appends_raiseOn (s : State) (e n : Nat) : Appends s (raiseOn s e n) := by
  unfold raiseOn
  dsimp only
  split
  · exact .refl s
  split
  · exact (appends_addCause s n _).trans (appends_addWake _ n _ true)
  · exact appends_addCause s n _

theorem appends_raisePad (s : State) (e p : Nat) : Appends s (raisePad s e p) := Appends.foldl _ (fun t n => appends_raiseOn t e n) s

theorem appends_replaysDone (s : State) : Appends s (replaysDone s) := Appends.foldl _ (fun t p => by
  split
  · exact Appends.trans (.of_out rfl) (appends_raisePad _ 22 p)
  · exact .refl t) s

theorem appends_completionCause (s : State) (j : Job) : Appends s (completionCause s j) := by
  unfold completionCause
  dsimp only
  split
  · exact .refl s
  · exact appends_addCause s _ _

/-! ## What is written -/

theorem hostWrite_out {d : Bytes} (h : d.length ≠ 0) (a : Nat) : (hostWrite s n a d).out = s.out ++ [.memWrite n a d] := by
  unfold hostWrite
  rw [if_neg h]
  rfl

/-- The write of one output, if it has any bytes. -/
def outputWrite (fn a : Nat) (o : Option Bytes) : List Emission := match o with
  | some (b :: d) => [.memWrite fn a (b :: d)]
  | _ => []

theorem outputWrites_eq (fn : Nat) (j : Job) : outputWrites fn j =
    if j.status = 0 then outputWrite fn j.desc.out0Addr j.out0 ++ outputWrite fn j.desc.out1Addr j.out1 else [] := rfl

theorem out_writeOutput (hbx : j.bx = false) (fn a : Nat) (second : Bool) (o : Option Bytes) : (writeOutput s j fn a second o).out = s.out ++ outputWrite fn a o := by
  unfold writeOutput outputWrite
  match o with
  | none => simp
  | some [] => simp [hbx, hostWrite]
  | some (b :: d) =>
    simp only [hbx, Bool.false_eq_true, if_false]
    exact hostWrite_out (by simp) a

theorem out_writeOutputs (hbx : j.bx = false) : (writeOutputs s j).out = s.out ++ (outputWrite (qAt s j.queue).fn j.desc.out0Addr j.out0 ++
    outputWrite (qAt s j.queue).fn j.desc.out1Addr j.out1) := by
  unfold writeOutputs
  dsimp only
  rw [out_writeOutput hbx, out_writeOutput hbx, List.append_assoc]

/-- The outputs of a completion. -/
def outputsWritten (s : State) (j : Job) : State := if j.status = 0 then writeOutputs s j else s

theorem outputsWritten_only (s : State) (j : Job) : Only [.port .linkState, .core .mem, .out] s (outputsWritten s j) := by
  unfold outputsWritten
  split
  · exact writeOutputs_only s j
  · exact Only.refl _ _

theorem out_outputsWritten (hbx : j.bx = false) : (outputsWritten s j).out = s.out ++ outputWrites (qAt s j.queue).fn j := by
  unfold outputsWritten
  rw [outputWrites_eq]
  split
  · exact out_writeOutputs hbx
  · rw [List.append_nil]

/-- The three emissions that make a completion visible (R153). -/
def completionWrites (s : State) (x : Queue) (j : Job) : List Emission :=
  [.memWrite x.fn (entryAddr x j.index + 4) (cplRest j), .memWrite x.fn (entryAddr x j.index) (cplWord x.k j),
    .confirmRead x.fn (entryAddr x j.index) (if !(fnAt s x.fn).relaxed && (fnAt s x.fn).idOrder then 4 else 0)]

theorem out_writeCompletion (hx : qAt s j.queue = x) (hbx : x.bx = false) : (writeCompletion s j).out = s.out ++ completionWrites s x j := by
  have hrest : (cplRest j).length ≠ 0 := by simp [cplRest, leBytes]
  have hword : (cplWord x.k j).length ≠ 0 := by simp [cplWord, leBytes]
  unfold writeCompletion
  dsimp only
  rw [hx, if_neg (by simp [hbx])]
  show (hostWrite (hostWrite s x.fn (entryAddr x j.index + 4) (cplRest j)) x.fn (entryAddr x j.index) (cplWord x.k j)).out ++ _ = _
  rw [hostWrite_out hword, hostWrite_out hrest]
  simp [completionWrites]

/-! ## What takes effect with the first issue -/

/-- A digest's first issue writes its slot or extends its register, and nothing else of its paddock. -/
theorem firstIssue_digest (hop : j.desc.opcode = 0x0500) (hst : j.status = 0) : firstIssue s j = journalWrite
    (if inl8 j.desc 0x40 = 1 then writeResult s j.paddock (inl8 j.desc 0x41) j.digest j.desc.paramSet j.seq
      else if inl8 j.desc 0x40 = 2 then extendMr s j.paddock (inl8 j.desc 0x41) j.digest else s) := by
  have htarget : targetOf j.desc = none := by simp [targetOf, hop]
  unfold firstIssue
  rw [htarget, hop, hst]
  simp

theorem results_writeResult (s : State) (p i : Nat) (d : Bytes) (ps seq : Nat) : smGet {} (padAt (writeResult s p i d ps seq) p).results i =
    { data := d, len := d.length, valid := true, paramSet := ps, seqLo := seq % 2 ^ 48 } := by
  have hpads : ∀ (l : List Nat) (t : State), (l.foldl (fun t n => modFn t n fun f => if f.cmpSlot == i then spoilCompare f else f) t).pads = t.pads :=
    fun l t => foldl_keeps (P := fun u => u.pads = t.pads) (f := fun t n => modFn t n fun f => if f.cmpSlot == i then spoilCompare f else f) l (fun u n _ hu => hu) rfl
  unfold writeResult
  dsimp only
  unfold padAt
  rw [hpads]
  show smGet {} (padAt (modPad s p _) p).results i = _
  rw [padAt_modPad_self, smGet_smSet_self]

theorem mrs_extendMr (s : State) (p r : Nat) (d : Bytes) : smGet (zeros 48) (padAt (extendMr s p r d) p).mrs r = sha3_384 (smGet (zeros 48) (padAt s p).mrs r ++ d) := by
  rw [extendMr, padAt_modPad_self, smGet_smSet_self]

/-! ## The completion of the reorder list's head -/

/-- The record of a job whose completion is out. -/
def issuedJob (j y : Job) : Job :=
  { y with phase := .issued, issued := true, issuedStatus := some j.status, cells := 0, drawn := 0, checkpoint := none, heldCpl := false }

/-- The completion written, with what takes effect at the first issue. -/
def written (s : State) (j : Job) : State :=
  if j.issued then writeCompletion (outputsWritten s j) j else firstIssue (writeCompletion (outputsWritten s j) j) j

/-- The record issued and its energy counted. -/
def settled (s : State) (j : Job) : State :=
  { modJob s j.seq (issuedJob j) with en := { s.en with padEnergy := smMod 0 s.en.padEnergy j.paddock (fun e => (e + j.energyUj) % 2 ^ 64) } }

/-- A device fault clears the digests of its paddock. -/
def afterFault (s : State) (j : Job) : State := if j.status / 256 = 0x0C then clearDigests s j.paddock else s

theorem issueHead_eq (s : State) (j : Job) : issueHead s j true = completionCause (afterFault (settled (written s j) j) j) j := rfl

theorem written_only (s : State) (j : Job) : Only [.sys .timeJournal, .port .linkState, .fn .cmpSpoiled, .fn .cmpEq, .fn .cmpNe, .queue .ring, .queue .ringSecret,
    .pad .results, .pad .mrs, .pad .diags, .jn .seq, .tk .slots, .tk .blobs, .core .mem, .out] s (written s j) := by
  unfold written
  have hcpl := Only.then (writeCompletion_only (outputsWritten s j) j) (by decide +kernel) ((outputsWritten_only s j).mono (by decide +kernel) : Only [.sys .timeJournal, .port .linkState, .fn .cmpSpoiled, .fn .cmpEq, .fn .cmpNe, .queue .ring, .queue .ringSecret,
    .pad .results, .pad .mrs, .pad .diags, .jn .seq, .tk .slots, .tk .blobs, .core .mem, .out] s (outputsWritten s j))
  split
  · exact hcpl
  · exact Only.then (firstIssue_only ..) (by decide +kernel) hcpl

theorem out_written (hx : qAt s j.queue = x) (hbx : x.bx = false) (hj : j.bx = false) : (written s j).out = s.out ++ outputWrites x.fn j ++ completionWrites s x j := by
  have ho := outputsWritten_only s j
  have hout : (writeCompletion (outputsWritten s j) j).out = s.out ++ outputWrites x.fn j ++ completionWrites s x j := by
    rw [out_writeCompletion (x := x) ((qAt_of_only ho (by decide +kernel) _).trans hx) hbx, out_outputsWritten hj, hx]
    unfold completionWrites
    rw [fnAt_of_only ho (by decide +kernel)]
  unfold written
  split
  · exact hout
  · exact ((firstIssue_only ..).same .out (by decide +kernel)).trans hout

/-- What the settled completion changes besides: no paddock's registers, but for a device fault. -/
theorem padAt_afterFault (hst : j.status = 0) (p : Nat) : padAt (afterFault (settled s j) j) p = padAt s p := by
  unfold afterFault
  rw [if_neg (by rw [hst]; decide)]
  rfl

theorem completeHead_issues (hw : mayWrite s q = true) (hhead : reorderHead s q = some j) (hphase : j.phase = .finished) (hwait : j.waitHayloft = false) :
    completeHead s q = issueHead s j true := by
  have hfrozen : frozen s = false := by
    simp only [mayWrite, Bool.and_eq_true] at hw
    simpa using hw.1.1.2
  unfold completeHead
  rw [if_neg (by simp [hfrozen]), if_pos hw, hhead]
  exact if_pos (by simp [cplReady, hphase, hwait])

theorem afterFault_only (s : State) (j : Job) : Only [.fn .cmpExpect, .fn .cmpSpoiled, .fn .cmpEq, .fn .cmpNe, .pad .results] s (afterFault s j) := by
  unfold afterFault
  split
  · exact clearDigests_only ..
  · exact Only.refl _ _

/-- After the record is settled, the cause and the end of the command: the paddock's digests stay, and more may go out. -/
theorem ended (s : State) (j : Job) : Appends s (replaysDone (completionCause s j)) ∧ (replaysDone (completionCause s j)).jobs = s.jobs ∧
    ∀ p, (padAt (replaysDone (completionCause s j)) p).results = (padAt s p).results ∧ (padAt (replaysDone (completionCause s j)) p).mrs = (padAt s p).mrs := by
  have hc := completionCause_only s j
  have ha := appends_completionCause s j
  generalize completionCause s j = u at *
  have hr := replaysDone_only u
  refine ⟨ha.trans (appends_replaysDone u), (hr.same .jobs (by decide +kernel)).trans (hc.same .jobs (by decide +kernel)), fun p => ⟨?_, ?_⟩⟩
  · exact (hr.same (.pad .results) (by decide +kernel) p).trans (congrArg Pad.results (padAt_of_only hc (by decide +kernel) p))
  · exact (hr.same (.pad .mrs) (by decide +kernel) p).trans (congrArg Pad.mrs (padAt_of_only hc (by decide +kernel) p))

theorem jobOf_settled (hjob : jobOf s j.seq = some j) : jobOf (settled s j) j.seq = some (issuedJob j j) := by
  have hmod : jobOf (modJob s j.seq (issuedJob j)) j.seq = some (issuedJob j j) := by
    rw [jobOf_modJob (g := issuedJob j) (fun _ => rfl) (fun _ _ => rfl), hjob]
    rfl
  exact hmod

theorem completion_written (hhead : reorderHead s q = some j) (hjob : jobOf s j.seq = some j) (hq : j.queue = q) (hphase : j.phase = .finished)
    (hwait : j.waitHayloft = false) (hw : mayWrite s q = true) (hx : qAt s q = x) (hbx : x.bx = false) (hj : j.bx = false) :
    ∃ t k more, exec (.completionWrite q) s = .next t ∧ jobOf t j.seq = some k ∧ k.phase = .issued ∧ k.issued = true ∧
        t.out = s.out ++ outputWrites x.fn j ++ completionWrites s x j ++ more ∧
        (j.status = 0 → ∀ p, (padAt t p).results = (padAt (written s j) p).results ∧ (padAt t p).mrs = (padAt (written s j) p).mrs) := by
  subst hq
  have hexec : exec (.completionWrite j.queue) s = .next (replaysDone (completionCause (afterFault (settled (written s j) j) j) j)) := by
    rw [← issueHead_eq, ← completeHead_issues hw hhead hphase hwait]
    rfl
  have hwjobs : jobOf (written s j) j.seq = some j := (jobOf_congr ((written_only s j).same .jobs (by decide +kernel)) _).trans hjob
  have hwout := out_written hx hbx hj
  have hpad := fun hst => padAt_afterFault (s := written s j) (j := j) hst
  have hset := jobOf_settled hwjobs
  have hsout : (settled (written s j) j).out = (written s j).out := (modJob_only (written s j) j.seq (issuedJob j)).same .out (by decide +kernel)
  generalize settled (written s j) j = w at *
  have hfault := afterFault_only w j
  have hfjobs := hfault.same .jobs (by decide +kernel)
  have hfout := hfault.same .out (by decide +kernel)
  generalize afterFault w j = a at *
  obtain ⟨⟨more, hmore⟩, hjobs, hpads⟩ := ended a j
  refine ⟨_, _, more, hexec, (jobOf_congr (hjobs.trans hfjobs) _).trans hset, rfl, rfl, ?_, fun hst p => ?_⟩
  · rw [hmore, hfout, hsout, hwout]
  · rw [← hpad hst p]
    exact hpads p

theorem written_first (hi : j.issued = false) (hop : j.desc.opcode = 0x0500) (hst : j.status = 0) : ∃ v, (∀ p, padAt v p = padAt s p) ∧ written s j = journalWrite
    (if inl8 j.desc 0x40 = 1 then writeResult v j.paddock (inl8 j.desc 0x41) j.digest j.desc.paramSet j.seq
      else if inl8 j.desc 0x40 = 2 then extendMr v j.paddock (inl8 j.desc 0x41) j.digest else v) := by
  refine ⟨writeCompletion (outputsWritten s j) j, fun p => ?_, (if_neg (by simp [hi])).trans (firstIssue_digest hop hst)⟩
  rw [padAt_of_only (writeCompletion_only ..) (by decide +kernel), padAt_of_only (outputsWritten_only ..) (by decide +kernel)]

theorem result_written (hi : j.issued = false) (hop : j.desc.opcode = 0x0500) (hst : j.status = 0) (hto : inl8 j.desc 0x40 = 1) :
    (smGet {} (padAt (written s j) j.paddock).results (inl8 j.desc 0x41)).data = j.digest ∧
      (smGet {} (padAt (written s j) j.paddock).results (inl8 j.desc 0x41)).valid = true := by
  obtain ⟨v, -, hw⟩ := written_first (s := s) hi hop hst
  rw [if_pos hto] at hw
  rw [hw, padAt_of_only (journalWrite_only _) (by decide +kernel), results_writeResult]
  exact ⟨rfl, rfl⟩

theorem register_extended (hi : j.issued = false) (hop : j.desc.opcode = 0x0500) (hst : j.status = 0) (hto : inl8 j.desc 0x40 = 2) :
    smGet (zeros 48) (padAt (written s j) j.paddock).mrs (inl8 j.desc 0x41) =
      sha3_384 (smGet (zeros 48) (padAt s j.paddock).mrs (inl8 j.desc 0x41) ++ j.digest) := by
  obtain ⟨v, hv, hw⟩ := written_first (s := s) hi hop hst
  rw [if_neg (by rw [hto]; decide), if_pos hto] at hw
  rw [hw, padAt_of_only (journalWrite_only _) (by decide +kernel), mrs_extendMr, hv]

/-! ## A completion held -/

theorem nextToHold_head (hhead : reorderHead s q = some j) (hheld : j.heldCpl = false) : nextToHold s q = some j := by
  obtain ⟨hp, before, behind, hl, hbefore⟩ := List.find?_eq_some_iff_append.mp hhead
  refine List.find?_eq_some_iff_append.mpr ⟨by simp [hp, hheld], before, behind, hl, fun k hk => ?_⟩
  have hk' := hbefore k hk
  simp only [Bool.not_eq_true'] at hk' ⊢
  rw [hk', Bool.false_and]

theorem completion_held (hhead : reorderHead s q = some j) (hq : j.queue = q) (hphase : j.phase = .finished) (hwait : j.waitHayloft = false)
    (hw : mayWrite s q = false) (hfrozen : frozen s = false) (hcalm : Calm s) (hheld : j.heldCpl = false) (hsleep : fnSleeps s (qAt s q).fn = false) :
    exec (.completionWrite q) s = .next (modJob s j.seq fun y => { y with heldCpl := true }) := by
  have hmod := modJob_only s j.seq fun y => { y with heldCpl := true }
  have hhold : holdCompletion s j = modJob s j.seq fun y => { y with heldCpl := true } := by
    unfold holdCompletion
    dsimp only
    split
    · rfl
    · refine if_pos ?_
      have hsame : fnSleeps (modJob s j.seq fun y => { y with heldCpl := true }) (qAt s j.queue).fn = fnSleeps s (qAt s j.queue).fn := by
        unfold fnSleeps
        rw [fnAt_of_only hmod (by decide +kernel), sys_of_only hmod (by decide +kernel)]
      rw [hsame, hq, hsleep]
      rfl
  have hcomplete : completeHead s q = modJob s j.seq fun y => { y with heldCpl := true } := by
    unfold completeHead
    rw [if_neg (by simp [hfrozen]), if_neg (by simp [hw]), nextToHold_head hhead hheld, ← hhold]
    exact if_pos (by simp [cplReady, hphase, hwait])
  show Host.Outcome.next (replaysDone (completeHead s q)) = _
  rw [hcomplete, replaysDone_of_none fun p => by rw [padAt_of_only hmod (by decide +kernel)]; exact hcalm.2 p]

end

end Sys2Proof.Completions
end

section
/-! PROOF. Records retire, drained queues end, and the halt log is read (R14, R158 to R160, R196; O23). -/

namespace Sys2Proof.Completions

open Sys2Proof Sys2Proof.Machine Sys2Proof.Claims Sys2Proof.Frames Sys2Proof.Holding Sys2Proof.PadReset Sys2Proof.HostReads Sys2Proof.JobRuns
  Sys2Proof.QueueFrames Sys2Proof.QueueCommands Sys2Proof.ScalarOps

section
variable {s t u : State} {n v q p fn fuel : Nat} {j k : Job} {x : Queue} {e : PendEnable}

/-! ## One record retires -/

theorem retireSilent_stays (h : ∀ k, (queueJobs s q).head? = some k → (k.phase == .issued && k.silent && !k.sent) = false) (fuel : Nat) : retireSilent s q fuel = s := by
  cases fuel with
  | zero => rfl
  | succ fuel =>
    unfold retireSilent
    split
    · rfl
    next k hk => exact if_neg (by rw [h k hk]; decide)

theorem qAt_disableQueue_kept (s : State) (q : Nat) : (qAt (disableQueue s q) q).t = (qAt s q).t ∧ (qAt (disableQueue s q) q).gen = (qAt s q).gen ∧
    (qAt (disableQueue s q) q).base = 0 := by
  obtain ⟨b, hb⟩ := qAt_writeShadow (modQ s q fun y => { dropCopies y with state := 0, errReason := 0, errDetail := 0, errIndex := 0 }) q
  rw [qAt_modQ_self] at hb
  unfold disableQueue
  dsimp only
  rw [qAt_of_only (updateLtr_only _) (by decide +kernel), qAt_of_only (journalWrite_only _) (by decide +kernel), qAt_of_only (fitYard_only _) (by decide +kernel),
    qAt_putQ_self, hb]
  unfold disabledQueue
  dsimp only
  split
  · exact ⟨rfl, rfl, rfl⟩
  · exact ⟨rfl, rfl, rfl⟩

theorem forgetDone_keeps (s : State) (q : Nat) : (qAt (forgetDone s q) q).t = (qAt s q).t ∧ (forgetDone s q).jobs = s.jobs := by
  unfold forgetDone
  split
  · exact ⟨(qAt_disableQueue_kept s q).1, (disableQueue_only s q).same .jobs (by decide +kernel)⟩
  · exact ⟨rfl, rfl⟩

theorem retireEntry_head (hhead : (queueJobs s q).head? = some j) (hphase : j.phase = .issued) (hsent : j.sent = false) (hfrozen : frozen s = false)
    (h1 : s.jn.role ≠ 1) (h3 : s.jn.role ≠ 3) : retireEntry s q = retireHead s q := by
  unfold retireEntry
  rw [hhead]
  dsimp only
  rw [if_neg (by simp [hphase, hsent, hfrozen, h3]), if_neg (by simp [mirrored, h1])]

theorem record_retires (hhead : (queueJobs s q).head? = some j) (hphase : j.phase = .issued) (hsent : j.sent = false) (hfrozen : frozen s = false)
    (hwf : smWf {} s.queues = true) (h1 : s.jn.role ≠ 1) (h3 : s.jn.role ≠ 3) (hloud : ∀ k ∈ queueJobs s q, k.silent = false) :
    ∃ t, exec (.recordRetire q) s = .next t ∧ (qAt t q).t = nextIdx (qAt s q).k (qAt s q).t ∧
        (∀ k ∈ t.jobs, isLive k = true → k.seq ≠ j.seq) ∧ (∀ k ∈ s.jobs, k.seq ≠ j.seq → k ∈ t.jobs) := by
  have hjobs := jobs_retireHead hhead
  obtain ⟨b, c, hqueue⟩ := qAt_retireHead (.inr hwf) hhead
  have hstay : ∀ fuel, retireSilent (retireHead s q) q fuel = retireHead s q := fun fuel => retireSilent_stays (fun k hk => by
    have hmem := mem_queueJobs.mp (List.mem_of_mem_head? hk)
    rw [hjobs] at hmem
    obtain ⟨hk', hq, hl⟩ := hmem
    rw [hloud k (mem_queueJobs.mpr ⟨List.mem_of_mem_filter hk', hq, hl⟩), Bool.and_false, Bool.false_and]) fuel
  have hexec : exec (.recordRetire q) s = .next (replaysDone (forgetDone (retireHead s q) q)) := by
    show Host.Outcome.next (replaysDone (forgetDone (retireSilent (retireEntry s q) q _) q)) = _
    rw [retireEntry_head hhead hphase hsent hfrozen h1 h3, hstay]
  obtain ⟨ht, hkept⟩ := forgetDone_keeps (retireHead s q) q
  have hend : (replaysDone (forgetDone (retireHead s q) q)).jobs = s.jobs.filter fun x => !(isLive x && x.seq == j.seq) :=
    ((replaysDone_only _).same .jobs (by decide +kernel)).trans (hkept.trans hjobs)
  refine ⟨_, hexec, ?_, fun k hk hl hseq => ?_, fun k hk hseq => ?_⟩
  · rw [qAt_replaysDone, ht, hqueue]
    rfl
  · rw [hend] at hk
    simpa [hl, hseq] using (List.mem_filter.mp hk).2
  · rw [hend]
    exact List.mem_filter.mpr ⟨hk, by simp [hseq]⟩

/-- A record whose retirement the partner has been told. -/
def sentJob (x : Job) : Job := { x with sent := true }

theorem retireEntry_mirrored (hhead : (queueJobs s q).head? = some j) (hphase : j.phase = .issued) (hsent : j.sent = false) (hfrozen : frozen s = false)
    (h1 : s.jn.role = 1) : retireEntry s q = sendFrame (modJob s j.seq sentJob) 0x02 [j.seq, q, nextIdx (qAt s q).k (qAt s q).t] := by
  unfold retireEntry
  rw [hhead]
  dsimp only
  rw [if_neg (by simp [hphase, hsent, hfrozen, h1]), if_pos (by simp [mirrored, h1])]
  rfl

theorem queueJobs_sent (hhead : (queueJobs s q).head? = some j) (ht : t.jobs = (modJob s j.seq sentJob).jobs) : (queueJobs t q).head? = some (sentJob j) := by
  have hkeep : ∀ x : Job, (if x.seq == j.seq && isLive x then sentJob x else x).queue = x.queue ∧
      isLive (if x.seq == j.seq && isLive x then sentJob x else x) = isLive x := fun x => by
    split
    · exact ⟨rfl, rfl⟩
    · exact ⟨rfl, rfl⟩
  have hq : queueJobs t q = (queueJobs s q).map fun x => if x.seq == j.seq && isLive x then sentJob x else x := by
    unfold queueJobs
    rw [ht]
    show (s.jobs.map fun x => if x.seq == j.seq && isLive x then sentJob x else x).filter _ = _
    rw [List.filter_map]
    congr 1
    refine List.filter_congr fun x _ => ?_
    rw [Function.comp_apply, (hkeep x).1, (hkeep x).2]
  obtain ⟨-, -, hl⟩ := mem_queueJobs.mp (List.mem_of_mem_head? hhead)
  rw [hq, List.head?_map, hhead, Option.map_some, if_pos (by simp [hl])]

theorem record_told (hhead : (queueJobs s q).head? = some j) (hphase : j.phase = .issued) (hsent : j.sent = false) (hfrozen : frozen s = false)
    (h1 : s.jn.role = 1) (hcalm : Calm s) : ∃ t, exec (.recordRetire q) s = .next t ∧ (qAt t q).t = (qAt s q).t ∧
        t.out = s.out ++ [.tether 0x02 s.tt.txSeq [j.seq, q, nextIdx (qAt s q).k (qAt s q).t]] := by
  have hentry := retireEntry_mirrored hhead hphase hsent hfrozen h1
  have hmod := modJob_only s j.seq sentJob
  have hout : (sendFrame (modJob s j.seq sentJob) 0x02 [j.seq, q, nextIdx (qAt s q).k (qAt s q).t]).out =
      s.out ++ [.tether 0x02 s.tt.txSeq [j.seq, q, nextIdx (qAt s q).k (qAt s q).t]] := rfl
  have hframe : Only [.jobs, .yard, .tt .txSeq, .tt .unacked, .out] s (sendFrame (modJob s j.seq sentJob) 0x02 [j.seq, q, nextIdx (qAt s q).k (qAt s q).t]) :=
    Only.then (sendFrame_only ..) (by decide +kernel) (hmod.mono (by decide +kernel))
  have hfirst := queueJobs_sent (t := sendFrame (modJob s j.seq sentJob) 0x02 [j.seq, q, nextIdx (qAt s q).k (qAt s q).t]) hhead rfl
  generalize sendFrame (modJob s j.seq sentJob) 0x02 [j.seq, q, nextIdx (qAt s q).k (qAt s q).t] = t at *
  have hstay : ∀ fuel, retireSilent t q fuel = t := retireSilent_stays fun k hk => by
    rw [hfirst] at hk
    obtain rfl := Option.some.inj hk
    exact Bool.and_false _
  have hundone : forgetDone t q = t := by
    refine if_neg fun h => ?_
    have hdrained : drained t q = true := (Bool.and_eq_true_iff.mp h).2
    obtain ⟨hj, hq, -⟩ := mem_queueJobs.mp (List.mem_of_mem_head? hfirst)
    have hnone := (Bool.and_eq_true_iff.mp hdrained).2
    simp only [Bool.not_eq_true', List.any_eq_false, beq_iff_eq] at hnone
    exact hnone _ hj hq
  refine ⟨t, ?_, by rw [qAt_of_only hframe (by decide +kernel)], hout⟩
  show Host.Outcome.next (replaysDone (forgetDone (retireSilent (retireEntry s q) q _) q)) = _
  rw [hentry, hstay, hundone, replaysDone_of_none (calm_of_only hcalm hframe (by decide +kernel) (by decide +kernel) (by decide +kernel)).2]

/-! ## A drained queue -/

theorem drained_of (hta : (qAt s q).t = (qAt s q).a) (hnone : ∀ j ∈ s.jobs, j.queue ≠ q) : drained s q = true := by
  unfold drained
  simp only [hta, beq_self_eq_true, Bool.true_and, Bool.not_eq_true', List.any_eq_false, beq_iff_eq]
  exact hnone

theorem drain_completes (hst : (qAt s q).state = 3) (hta : (qAt s q).t = (qAt s q).a) (hnone : ∀ j ∈ s.jobs, j.queue ≠ q) :
    ∃ t, exec (.queueDrainComplete q) s = .next t ∧ (qAt t q).state = 0 ∧ (qAt t q).gen = (qAt s q).gen ∧
      (qAt t q).forgotten = (qAt s q).forgotten ∧ (qAt t q).base = 0 := by
  obtain ⟨hzero, hforg⟩ := qAt_disableQueue s q
  obtain ⟨-, hgen, hbase⟩ := qAt_disableQueue_kept s q
  exact ⟨_, congrArg Host.Outcome.next (if_pos ⟨hst, drained_of hta hnone⟩), hzero, hgen, hforg, hbase⟩

theorem ringRunning_moves (h : BellValid (qAt s q) v) : (qAt (ringRunning s q v) q).state = (qAt s q).state ∧ (qAt (ringRunning s q v) q).p = v := by
  rw [Doorbell.ringRunning_valid h, qAt_of_only (journalWrite_only _) (by decide +kernel), qAt_modQ_self]
  exact ⟨rfl, rfl⟩

theorem ringRunning_halts (h : ¬BellValid (qAt s q) v) : (qAt (ringRunning s q v) q).state = 2 ∧ (qAt (ringRunning s q v) q).errReason = 0x81 := by
  rw [Doorbell.ringRunning_not_valid h]
  obtain ⟨hst, hreason, -⟩ := Doorbell.haltQueue_latches s q 0x81
    (if 2 ^ ((qAt s q).k + 1) ≤ v then 2 else if 2 ^ (qAt s q).k < dist (qAt s q).k (qAt s q).t v then 1 else 3) (v % 2 ^ 17)
  exact ⟨hst, hreason⟩

theorem pending_switches (hst : (qAt s q).state = 4) (hpend : (qAt s q).pend = some e) (hta : (qAt s q).t = (qAt s q).a) (hnone : ∀ j ∈ s.jobs, j.queue ≠ q) :
    ∃ t, exec (.pendingEnableSwitch q) s = .next t ∧
      (qAt t q).base = e.base ∧ (qAt t q).k = e.k ∧ (qAt t q).fn = e.fn ∧ (qAt t q).a = e.index ∧ (qAt t q).t = e.index ∧ (qAt t q).gen = ((qAt s q).gen + 1) % 65536 ∧
      (BellValid { k := e.k, t := e.index, p := e.index } (e.doorbell.getD e.index) → (qAt t q).state = 1 ∧ (qAt t q).p = e.doorbell.getD e.index) ∧
      (¬BellValid { k := e.k, t := e.index, p := e.index } (e.doorbell.getD e.index) → (qAt t q).state = 2 ∧ (qAt t q).errReason = 0x81) := by
  obtain ⟨b, hb⟩ := qAt_startQueue s q e
  have hexec : exec (.pendingEnableSwitch q) s = .next (ringRunning (startQueue s q e) q (e.doorbell.getD e.index)) := by
    show Host.Outcome.next (match (qAt s q).pend with
      | some e => if (qAt s q).state = 4 ∧ drained s q = true then ringRunning (startQueue s q e) q (e.doorbell.getD e.index) else s
      | none => s) = _
    rw [hpend]
    exact congrArg Host.Outcome.next (if_pos ⟨hst, drained_of hta hnone⟩)
  have hbell : BellValid { k := e.k, t := e.index, p := e.index } (e.doorbell.getD e.index) ↔ BellValid (qAt (startQueue s q e) q) (e.doorbell.getD e.index) := by
    rw [hb]
    exact Iff.rfl
  have hring := ringRunning_only (startQueue s q e) q (e.doorbell.getD e.index)
  refine ⟨_, hexec, ?_, ?_, ?_, ?_, ?_, ?_, fun hv => ?_, fun hv => ringRunning_halts fun h => hv (hbell.mpr h)⟩
  · exact (hring.same (.queue .base) (by decide +kernel) q).trans (congrArg Queue.base hb)
  · exact (hring.same (.queue .k) (by decide +kernel) q).trans (congrArg Queue.k hb)
  · exact (hring.same (.queue .fn) (by decide +kernel) q).trans (congrArg Queue.fn hb)
  · exact (hring.same (.queue .a) (by decide +kernel) q).trans (congrArg Queue.a hb)
  · exact (hring.same (.queue .t) (by decide +kernel) q).trans (congrArg Queue.t hb)
  · exact (hring.same (.queue .gen) (by decide +kernel) q).trans (congrArg Queue.gen hb)
  · obtain ⟨hstate, hp⟩ := ringRunning_moves (hbell.mp hv)
    exact ⟨hstate.trans (congrArg Queue.state hb), hp⟩

/-! ## The halt log -/

theorem haltLog_entry (hat : HostAt s fn p) {e : Nat × Nat} {r : List (Nat × Nat)} (hlog : (padAt s p).haltLog = e :: r) :
    exec (.haltLogRead fn) s = .next (reply (modPad s p fun y => { y with haltLog := r }) fn
        (leBytes 8 (e.1 + e.2 * 2 ^ 16 + 2 ^ 24 + b1 (padAt s p).haltOverflow * 2 ^ 25))) := by
  obtain ⟨hregs, hfn⟩ := hat
  show execHaltLogRead fn s = _
  unfold execHaltLogRead
  rw [if_neg (by simp [hregs]), hfn]
  dsimp only
  rw [hlog]

theorem haltLog_empty (hat : HostAt s fn p) (hlog : (padAt s p).haltLog = []) :
    exec (.haltLogRead fn) s = .next (reply s fn (leBytes 8 (b1 (padAt s p).haltOverflow * 2 ^ 25))) := by
  obtain ⟨hregs, hfn⟩ := hat
  show execHaltLogRead fn s = _
  unfold execHaltLogRead
  rw [if_neg (by simp [hregs]), hfn]
  dsimp only
  rw [hlog]

end

/-- Settles O23: completions in reorder order, retirement from the head, the end of a drain, and the halt log. -/
theorem completionRetirementAndDrain : Obligations.CompletionRetirementAndDrain := fun s q => by
  dsimp only
  refine ⟨fun j hhead hjob hq hphase hwait => ⟨fun hw hbx hj => ?_, fun hw hfrozen hcalm hheld hsleep => completion_held hhead hq hphase hwait hw hfrozen hcalm hheld hsleep⟩,
    fun j hhead hphase hsent hfrozen hwf => ⟨fun h1 h3 hloud => record_retires hhead hphase hsent hfrozen hwf h1 h3 hloud,
      fun h1 hcalm => record_told hhead hphase hsent hfrozen h1 hcalm⟩,
    drain_completes, fun e => pending_switches, fun fn p hat => ⟨fun e r => haltLog_entry hat, haltLog_empty hat⟩⟩
  obtain ⟨t, k, more, hexec, hk, hphase', hissued, hout, hpads⟩ := completion_written hhead hjob hq hphase hwait hw rfl hbx hj
  refine ⟨t, k, more, hexec, hk, hphase', hissued, hout, fun hi hop hst hto => ?_, fun hi hop hst hto => ?_⟩
  · rw [(hpads hst j.paddock).1]
    exact result_written hi hop hst hto
  · rw [(hpads hst j.paddock).2]
    exact register_extended hi hop hst hto

end Sys2Proof.Completions
end

section
/-! PROOF. The dispatcher: a job or a tree given to a stall, the muck-out before it, the wait for cells, promotion, preference and yields
(R16, R53, R240, R353 to R360; O24). -/

namespace Sys2Proof.Dispatching

open Sys2Proof Sys2Proof.Machine Sys2Proof.Claims Sys2Proof.Frames Sys2Proof.JobRuns

section
variable {s t : State} {n i k p seq : Nat} {j w : Job} {l : List Job} {ok : Job → Job → Bool}

/-! ## Who is next -/

theorem mem_of_firstJob (h : firstJob l = some j) : j ∈ l := by
  induction l generalizing j with
  | nil => exact nomatch h
  | cons x l ih =>
    unfold firstJob at h
    split at h
    · obtain rfl := Option.some.inj h
      exact List.mem_cons_self
    next m hm =>
      split at h
      · obtain rfl := Option.some.inj h
        exact List.mem_cons_of_mem _ (ih hm)
      · obtain rfl := Option.some.inj h
        exact List.mem_cons_self

theorem mem_of_preferred (h : j ∈ preferred s n l) : j ∈ l := by
  unfold preferred at h
  split at h
  · exact nomatch h
  · dsimp only at h
    split at h
    · exact List.mem_of_mem_filter h
    · exact h

theorem eligible_of_nextJob (h : nextJob s n = some j) : eligible s n j = true := by
  have hmem : j ∈ candidates s n := by
    unfold nextJob at h
    dsimp only at h
    split at h
    · split at h
      next hfind =>
        obtain rfl := Option.some.inj h
        exact List.mem_of_find?_eq_some hfind
      · split at h
        · exact nomatch h
        · exact mem_of_preferred (mem_of_firstJob h)
    · exact mem_of_preferred (mem_of_firstJob h)
  exact (List.mem_filter.mp hmem).2

/-- An idle stall is given a job only while its shed is ON or can be had back. -/
theorem stallFree_of_nextJob (h : nextJob s n = some j) (hst : (stAt s n).state = 1) : stallFree s n = true := by
  have hroom : roomOn s n j = true := by
    have hel := eligible_of_nextJob h
    simp only [eligible, Bool.and_eq_true] at hel
    exact hel.1.1.1.2
  simpa [roomOn, hst] using hroom

/-! ## The shed of the stall -/

theorem cellsFit_workFor (s : State) (i : Nat) (j : Job) : cellsFit (workFor s i) j = cellsFit s j := by
  unfold workFor
  split
  · rfl
  · rfl

theorem cellsNeeded_workFor (s : State) (i : Nat) (j : Job) : cellsNeeded (workFor s i) j = cellsNeeded s j := by
  unfold workFor
  split
  · rfl
  · rfl

theorem stalls_workFor (s : State) (i : Nat) : (workFor s i).stalls = s.stalls := by
  unfold workFor
  split
  · rfl
  · rfl

theorem jobs_workFor (s : State) (i : Nat) : (workFor s i).jobs = s.jobs := (workFor_only s i).same .jobs (by decide +kernel)

theorem stAt_workFor (s : State) (i n : Nat) : stAt (workFor s i) n = stAt s n := stAt_of_only (workFor_only s i) (by decide +kernel) n

/-- The shed of a free stall is ON once it has work. -/
theorem shedAt_workFor (h : stallFree s n = true) : shedAt (workFor s (stallShed n)) (stallShed n) = 2 := by
  unfold workFor
  split
  · exact smGet_smSet_self (0 : Nat) s.en.shed (stallShed n) 2
  next hno =>
    simp only [stallFree, Bool.and_eq_true, Bool.or_eq_true, beq_iff_eq] at h
    exact h.2.resolve_right hno

/-! ## A job started -/

/-- A job on the stall it was given. -/
def startedJob (s : State) (n : Nat) (j x : Job) : Job :=
  { x with phase := .running, stall := some n, stallId := stallId n, dispatched := true,
           resumed := if x.context.isSome then x.resumed else x.checkpoint.isSome,
           context := none, cells := x.cells + cellsNeeded s j, legs := x.legs + 1 }

/-- The stall that was given a job. -/
def startedStall (s : State) (n : Nat) (j : Job) (x : Stall) : Stall :=
  { x with state := 2, jobs := x.jobs ++ [j.seq], lastPaddock := j.paddock, runs := if j.context.isSome then x.runs else (x.runs + 1) % 2 ^ 32,
           operand := (if x.scrubDue then [] else x.operand) ++ stallOperands s j, sequ := startSequencer s n j, prefEnded := false,
           dirty := true, scrubDue := false, cmdWr := (x.cmdWr + 1) % 32, cmdRd := (x.cmdRd + 1) % 32, reservedFor := none }

theorem startJob_eq (h : entryValid s n j.desc = true) : startJob s n j = modSt (modJob s j.seq (startedJob s n j)) n (startedStall s n j) := if_pos h

theorem dispatch_some (h : nextJob s n = some j) : dispatch s n =
    if !cellsFit (workFor s (stallShed n)) j then
      modPad (workFor s (stallShed n)) j.paddock fun x => { x with waitFor := some (match waitingJob (workFor s (stallShed n)) j.paddock with
        | some w => min w j.seq
        | none => j.seq) }
    else if (stAt (workFor s (stallShed n)) n).state = 1 ∧ muckBefore (stAt (workFor s (stallShed n)) n) j = true then
      modSt (startMuck (workFor s (stallShed n)) n 0) n fun x => { x with reservedFor := some j.seq, muckAtWake := false }
    else startJob (workFor s (stallShed n)) n j := by
  unfold dispatch
  rw [h] <;> rfl

theorem exec_dispatch (hrun : dispatchRuns s = true) (hn : n < 52) : exec (.dispatch n) s = .next (dispatch s n) :=
  congrArg Host.Outcome.next (if_pos (by simp [hrun, hn]))

theorem dispatch_starts (hrun : dispatchRuns s = true) (hn : n < 52) (hnext : nextJob s n = some j) (hjob : jobOf s j.seq = some j)
    (hfit : cellsFit s j = true) (hentry : entryValid s n j.desc = true) (hclean : ¬((stAt s n).state = 1 ∧ muckBefore (stAt s n) j = true)) :
    ∃ t k, exec (.dispatch n) s = .next t ∧ jobOf t j.seq = some k ∧
        k.phase = .running ∧ k.stall = some n ∧ k.stallId = stallId n ∧ k.dispatched = true ∧ k.cells = j.cells + cellsNeeded s j ∧
        (stAt t n).state = 2 ∧ (stAt t n).jobs = (stAt s n).jobs ++ [j.seq] ∧ (stAt t n).lastPaddock = j.paddock ∧ (stAt t n).dirty = true ∧
        ((stAt s n).state = 1 → shedAt t (stallShed n) = 2) ∧ (∀ m, m ≠ n → stAt t m = stAt s m) := by
  have hentry' : entryValid (workFor s (stallShed n)) n j.desc = true := by
    unfold entryValid storeOf
    rw [sys_of_only (workFor_only ..) (by decide +kernel)]
    exact hentry
  have hdispatch : dispatch s n = modSt (modJob (workFor s (stallShed n)) j.seq (startedJob (workFor s (stallShed n)) n j)) n
      (startedStall (workFor s (stallShed n)) n j) := by
    rw [dispatch_some hnext, cellsFit_workFor, if_neg (by simp [hfit]), stAt_workFor, if_neg hclean, startJob_eq hentry']
  have hcells := cellsNeeded_workFor s (stallShed n) j
  have hshed : (stAt s n).state = 1 → shedAt (workFor s (stallShed n)) (stallShed n) = 2 := fun hst => shedAt_workFor (stallFree_of_nextJob hnext hst)
  have hstall : ∀ m, stAt (workFor s (stallShed n)) m = stAt s m := stAt_workFor s _
  have hjob' : jobOf (workFor s (stallShed n)) j.seq = some j := (jobOf_congr (jobs_workFor ..) _).trans hjob
  rw [exec_dispatch hrun hn, hdispatch]
  generalize workFor s (stallShed n) = w at *
  have hmod := modJob_only w j.seq (startedJob w n j)
  have hst : ∀ m, stAt (modJob w j.seq (startedJob w n j)) m = stAt s m := fun m => (stAt_of_only hmod (by decide +kernel) m).trans (hstall m)
  have hk : jobOf (modJob w j.seq (startedJob w n j)) j.seq = some (startedJob w n j j) := by
    rw [jobOf_modJob (g := startedJob w n j) (fun _ => rfl) (fun _ _ => rfl), hjob']
    rfl
  refine ⟨_, _, rfl, hk, rfl, rfl, rfl, rfl, congrArg (j.cells + ·) hcells, ?_, ?_, ?_, ?_, fun h1 => ?_, fun m hm => ?_⟩
  · rw [stAt_modSt_self]
    rfl
  · rw [stAt_modSt_self, hst]
    rfl
  · rw [stAt_modSt_self]
    rfl
  · rw [stAt_modSt_self]
    rfl
  · have hen := en_of_only hmod (by decide +kernel)
    exact (congrArg (fun e : Energy => smGet 0 e.shed (stallShed n)) hen).trans (hshed h1)
  · rw [modSt, stAt_putSt, if_neg hm, hst]

theorem dispatch_mucks (hrun : dispatchRuns s = true) (hn : n < 52) (hnext : nextJob s n = some j) (hfit : cellsFit s j = true)
    (hst : (stAt s n).state = 1) (hmuck : muckBefore (stAt s n) j = true) : ∃ t, exec (.dispatch n) s = .next t ∧ (stAt t n).state = 3 ∧
        (stAt t n).reservedFor = some j.seq ∧ t.jobs = s.jobs := by
  refine ⟨_, exec_dispatch hrun hn, ?_⟩
  rw [dispatch_some hnext, cellsFit_workFor, if_neg (by simp [hfit]), stAt_workFor, if_pos ⟨hst, hmuck⟩]
  refine ⟨?_, ?_, jobs_workFor ..⟩
  · rw [stAt_modSt_self, startMuck, stAt_modSt_self]
  · rw [stAt_modSt_self]

theorem dispatch_waits (hrun : dispatchRuns s = true) (hn : n < 52) (hnext : nextJob s n = some j) (hfit : cellsFit s j = false) :
    ∃ t, exec (.dispatch n) s = .next t ∧ (padAt t j.paddock).waitFor.isSome = true ∧ t.jobs = s.jobs ∧ t.stalls = s.stalls := by
  refine ⟨_, exec_dispatch hrun hn, ?_⟩
  rw [dispatch_some hnext, cellsFit_workFor, if_pos (by simp [hfit])]
  refine ⟨?_, jobs_workFor .., stalls_workFor ..⟩
  rw [padAt_modPad_self]
  rfl

/-! ## A tree started -/

theorem dispatch_tree (hrun : dispatchRuns s = true) (hn : n < 52) (hnext : nextJob s n = none) (hfree : (stAt s n).reservedFor = none)
    (htree : treeFor s n = some k) (hwake : (stAt s n).muckAtWake = false) (hclean : (stAt s n).dirty = false ∨ (stAt s n).lastPaddock = (hbsAt s k).paddock) :
    ∃ t, exec (.dispatch n) s = .next t ∧ (stAt t n).state = 2 ∧ (stAt t n).tree = some k ∧ (stAt t n).dirty = true ∧ t.jobs = s.jobs := by
  have hdispatch : dispatch s n = startTree s n k := by
    unfold dispatch
    rw [hnext]
    show (match (if (stAt s n).reservedFor.isNone then treeFor s n else none) with
      | some k => startTree s n k
      | none => s) = _
    rw [hfree, if_pos (by rfl), htree]
  have hhbs : hbsAt (workFor s (stallShed n)) k = hbsAt s k := by
    unfold hbsAt
    rw [tk_of_only (workFor_only ..) (by decide +kernel)]
  have hstart : startTree s n k = modSt (workFor s (stallShed n)) n fun x =>
      { x with state := 2, tree := some k, lastPaddock := (hbsAt (workFor s (stallShed n)) k).paddock, dirty := true, prefEnded := false } := by
    refine if_neg ?_
    rw [stAt_workFor, hhbs, hwake]
    rcases hclean with h | h
    · simp [h]
    · simp [h]
  rw [exec_dispatch hrun hn, hdispatch, hstart]
  refine ⟨_, rfl, ?_, ?_, ?_, jobs_workFor ..⟩
  · rw [stAt_modSt_self]
  · rw [stAt_modSt_self]
  · rw [stAt_modSt_self]

/-! ## Promotion, preference and yields -/

/-- A waiting low-priority job promoted. -/
def promotedJob (j : Job) : Job := if j.phase == .staged && bits j.desc.flags 1 2 == 2 then { j with promoted := true } else j

theorem promotedJob_keeps (j : Job) : (promotedJob j).seq = j.seq ∧ isLive (promotedJob j) = isLive j := by
  unfold promotedJob
  split
  · exact ⟨rfl, rfl⟩
  · exact ⟨rfl, rfl⟩

theorem job_promoted (hjob : jobOf s seq = some j) : ∃ t, exec (.lowPrioPromote seq) s = .next t ∧
      jobOf t seq = some (if j.phase = .staged ∧ bits j.desc.flags 1 2 = 2 then { j with promoted := true } else j) := by
  have hmod : jobOf (modJob s seq promotedJob) seq = some (promotedJob j) := by
    rw [jobOf_modJob (fun x => (promotedJob_keeps x).1) (fun x hx => (promotedJob_keeps x).2.trans hx), hjob]
    rfl
  refine ⟨_, rfl, hmod.trans ?_⟩
  simp [promotedJob]

theorem preference_ends (hpool : (stAt s n).inPool = true) (hw : ∃ j ∈ waitingFor s n, j.paddock ≠ (stAt s n).lastPaddock) :
    exec (.poolPreferenceExpiry n) s = .next (modSt s n fun x => { x with prefEnded := true }) := by
  obtain ⟨j, hj, hp⟩ := hw
  have hany : (waitingFor s n).any (fun j => j.paddock != (stAt s n).lastPaddock) = true := List.any_eq_true.mpr ⟨j, hj, by simpa using hp⟩
  exact congrArg Host.Outcome.next (if_pos (by rw [hpool, hany]; rfl))

theorem askYield_asks (hst : (stAt s n).state = 2) (hrun : (stAt s n).jobs.filterMap (jobOf s) ≠ [])
    (hfirst : firstJob ((waitingFor s n).filter fun w => ((stAt s n).jobs.filterMap (jobOf s)).all fun r => decide (prioRank w ≤ prioRank r) && ok r w) = some w) :
    askYield s n ok = modSt s n fun x => { x with reqYield := true, reservedFor := some w.seq } := by
  unfold askYield
  dsimp only
  rw [hfirst]
  exact if_pos ⟨hst, hrun⟩

end

/-- Settles O24: the four ways of a dispatch, the promotion, the end of a preference, and the yields. -/
theorem dispatchPromotesAndYields : Obligations.DispatchPromotesAndYields := fun s n => by
  refine ⟨fun j hrun hn hnext hjob => ⟨fun hfit hentry hclean => dispatch_starts hrun hn hnext hjob hfit hentry hclean,
      fun hfit hst hmuck => dispatch_mucks hrun hn hnext hfit hst hmuck, fun hfit => dispatch_waits hrun hn hnext hfit⟩,
    fun k hrun hn hnext hfree htree hwake hclean => dispatch_tree hrun hn hnext hfree htree hwake hclean,
    fun seq j hjob => job_promoted hjob, preference_ends, fun r hr => ?_⟩
  rcases List.mem_cons.mp hr with rfl | hr
  · exact fun w hk hst hrun hfirst => congrArg Host.Outcome.next ((if_pos hk).trans (askYield_asks hst hrun hfirst))
  rcases List.mem_cons.mp hr with rfl | hr
  · exact fun w hk hst hrun hfirst => congrArg Host.Outcome.next ((if_pos hk).trans (askYield_asks hst hrun hfirst))
  obtain rfl := List.mem_singleton.mp hr
  exact fun w hk hst hrun hfirst => congrArg Host.Outcome.next ((if_pos hk).trans (askYield_asks hst hrun hfirst))

end Sys2Proof.Dispatching
end

section
/-! PROOF. Safe points: what a stall's pending requests do to its jobs (R353 to R356, Table 16.2; O25). -/

namespace Sys2Proof.Stalls

open Sys2Proof Sys2Proof.Machine Sys2Proof.Claims Sys2Proof.Frames Sys2Proof.Holding Sys2Proof.PadReset Sys2Proof.HostReads Sys2Proof.JobRuns

section
variable {s t u : State} {n q pos : Nat} {cm ck op : Bool} {j : Job} {f g : Job → Job} {c : Context}

/-! ## Jobs changed in place -/

/-- A change that keeps what a record is found by. -/
def Finds (g : Job → Job) : Prop := ∀ x, (g x).seq = x.seq ∧ isLive (g x) = isLive x

theorem jobOf_mapped (hg : Finds g) (ht : t.jobs = s.jobs.map g) (q : Nat) : jobOf t q = (jobOf s q).map g := by
  have hpred : ((fun j : Job => j.seq == q && isLive j) ∘ g) = fun j => j.seq == q && isLive j := by
    funext x
    rw [Function.comp_apply, (hg x).1, (hg x).2]
  unfold jobOf
  rw [ht, List.find?_map, hpred]

theorem live_of_jobOf (h : jobOf s q = some j) : isLive j = true := by
  unfold jobOf at h
  have hfound := List.find?_some h
  exact (Bool.and_eq_true_iff.mp hfound).2

/-- The jobs of a stall. -/
def mineOf (x : Stall) (j : Job) : Bool := isLive j && x.jobs.contains j.seq

theorem finds_mine (x : Stall) (hg : Finds g) : Finds fun j => if mineOf x j then g j else j := fun j => by
  dsimp only
  split
  · exact hg j
  · exact ⟨rfl, rfl⟩

theorem finds_markedJob (cm ck op : Bool) (pos : Nat) : Finds (markedJob cm ck op pos) := fun _ => ⟨rfl, rfl⟩

/-- The stall's jobs, marked at their safe point. -/
def marked (s : State) (n : Nat) (cm ck op : Bool) (pos : Nat) : State :=
  setJobs s (s.jobs.map fun j => if mineOf (stAt s n) j then markedJob cm ck op pos j else j)

theorem marked_only (s : State) (n : Nat) (cm ck op : Bool) (pos : Nat) : Only [.jobs, .yard] s (marked s n cm ck op pos) := setJobs_only ..

theorem exec_safePoint (h : atSafePoint s n op = true) : exec (.stallSafePoint n cm ck op pos) s = .next (settle (sample (marked s n cm ck op pos) n pos)) :=
  congrArg Host.Outcome.next (if_pos h)

theorem safePoint_elsewhere (h : atSafePoint s n op = false) : exec (.stallSafePoint n cm ck op pos) s = .next s :=
  congrArg Host.Outcome.next (if_neg (by simp [h]))

theorem jobOf_marked (q : Nat) : jobOf (marked s n cm ck op pos) q = (jobOf s q).map fun j => if mineOf (stAt s n) j then markedJob cm ck op pos j else j :=
  jobOf_mapped (finds_mine _ (finds_markedJob cm ck op pos)) rfl q

/-! ## With nothing pending -/

theorem sample_idle (h1 : (stAt s n).reqFault = false) (h2 : (stAt s n).reqStop = false) (h3 : (stAt s n).reqClaim = false) (h4 : (stAt s n).reqYield = false) :
    sample s n pos = s := by
  unfold sample
  dsimp only
  rw [if_neg (by simp [h1]), if_neg (by simp [h2]), if_neg (by simp [h3, h4])]

theorem safePoint_idle (hcalm : Calm s) (h : atSafePoint s n op = true) (h1 : (stAt s n).reqFault = false) (h2 : (stAt s n).reqStop = false)
    (h3 : (stAt s n).reqClaim = false) (h4 : (stAt s n).reqYield = false) :
    exec (.stallSafePoint n cm ck op pos) s = .next (marked s n cm ck op pos) := by
  have ho := marked_only s n cm ck op pos
  have hst : stAt (marked s n cm ck op pos) n = stAt s n := stAt_of_only ho (by decide +kernel) n
  rw [exec_safePoint h, sample_idle (by rw [hst]; exact h1) (by rw [hst]; exact h2) (by rw [hst]; exact h3) (by rw [hst]; exact h4),
    settle_of_calm (calm_of_only hcalm ho (by decide +kernel) (by decide +kernel) (by decide +kernel))]

/-! ## A move -/

theorem stopsHere_marked (hno : ∀ j ∈ s.jobs, mineOf (stAt s n) j = true → j.stopReq = false) (hq : q ∈ (stAt s n).jobs) :
    stopsHere (marked s n cm ck op pos) q = false := by
  unfold stopsHere
  rw [jobOf_marked]
  cases hj : jobOf s q with
  | none => rfl
  | some j =>
    have hseq := seq_of_jobOf hj
    have hlive : isLive j = true := live_of_jobOf hj
    have hmine : mineOf (stAt s n) j = true := by simp [mineOf, hlive, hseq, hq]
    show (if mineOf (stAt s n) j then markedJob cm ck op pos j else j).stopReq = false
    rw [if_pos hmine]
    exact hno j (List.mem_of_find?_eq_some hj) hmine

theorem clearStall_moves (hno : ∀ q ∈ (stAt s n).jobs, stopsHere s q = false) (f : Job → Job) : clearStall s n f =
    leaveStall (setJobs s (s.jobs.map fun j => if mineOf (stAt s n) j then f j else j)) n := by
  have hnone : (stAt s n).jobs.filter (stopsHere s) = [] := List.filter_eq_nil_iff.mpr fun q hq => by rw [hno q hq]; decide
  unfold clearStall
  dsimp only
  rw [hnone]
  rfl

/-- The jobs of a stall under way to the yard, the stall to its muck-out. -/
theorem moveAway_moves (hno : ∀ q ∈ (stAt s n).jobs, stopsHere s q = false) :
    (moveAway s n pos).jobs = (s.jobs.map fun j => if mineOf (stAt s n) j then
      moveJob { resumeAt := (stAt s n).sequ.upc, position := pos, maskDraw := s.freeCtr } j else j) ∧
      (stAt (moveAway s n pos) n).state = 3 ∧ (stAt (moveAway s n pos) n).jobs = [] ∧ (stAt (moveAway s n pos) n).reqClaim = false ∧
      (stAt (moveAway s n pos) n).muckThen = b1 (stAt s n).reqClaim := by
  have hmove : moveAway s n pos = leaveStall (setJobs (draw s).2 ((draw s).2.jobs.map fun j => if mineOf (stAt (draw s).2 n) j then
      moveJob { resumeAt := (stAt s n).sequ.upc, position := pos, maskDraw := s.freeCtr } j else j)) n := clearStall_moves (s := (draw s).2) hno (moveJob { resumeAt := (stAt s n).sequ.upc, position := pos, maskDraw := s.freeCtr })
  rw [hmove]
  refine ⟨(leaveStall_only ..).same .jobs (by decide +kernel), ?_, ?_, ?_, ?_⟩
  · rw [leaveStall, startMuck, stAt_modSt_self]
  · rw [leaveStall, startMuck, stAt_modSt_self]
  · rw [leaveStall, startMuck, stAt_modSt_self, stAt_modSt_self]
  · rw [leaveStall, startMuck, stAt_modSt_self]
    rfl

theorem moveAway_only (s : State) (n pos : Nat) : Only Part.finishJob s (moveAway s n pos) :=
  Only.then (clearStall_only ..) (by decide +kernel) ((draw_only s).mono (by decide +kernel))

theorem sample_moves (hno : ∀ q ∈ (stAt s n).jobs, stopsHere s q = false)
    (h : (stAt s n).reqFault = true ∨ (stAt s n).reqClaim = true ∨ (stAt s n).reqYield = true) : sample s n pos =
    { moveAway s n pos with fc := { s.fc with ahead := if (stAt s n).reqFault then s.fc.ahead ++ [n] else s.fc.ahead } } := by
  have hfc : (moveAway s n pos).fc = s.fc := fc_of_only (moveAway_only s n pos) (by decide +kernel)
  have hnone : (stAt s n).jobs.filter (stopsHere s) = [] := List.filter_eq_nil_iff.mpr fun q hq => by rw [hno q hq]; decide
  unfold sample
  dsimp only
  rw [hfc]
  cases hf : (stAt s n).reqFault
  · rw [if_neg (by decide), if_neg (by simp [hnone]), if_pos (by
      rcases h with h | h | h
      · exact absurd (h.symm.trans hf) (by decide)
      · simp [h]
      · simp [h]), if_neg (by decide), ← hfc]
  · rw [if_pos rfl, if_pos rfl]

theorem mineOf_marked (x : Stall) (j : Job) : mineOf x (markedJob cm ck op pos j) = mineOf x j := rfl

theorem safePoint_moves (hcalm : Calm s) (h : atSafePoint s n op = true)
    (hreq : (stAt s n).reqFault = true ∨ (stAt s n).reqClaim = true ∨ (stAt s n).reqYield = true)
    (hno : ∀ j ∈ s.jobs, mineOf (stAt s n) j = true → j.stopReq = false) :
    ∃ t, exec (.stallSafePoint n cm ck op pos) s = .next t ∧ t.jobs = (s.jobs.map fun j => if mineOf (stAt s n) j then
      moveJob { resumeAt := (stAt s n).sequ.upc, position := pos, maskDraw := s.freeCtr } (markedJob cm ck op pos j) else j) ∧
          (stAt t n).state = 3 ∧ (stAt t n).jobs = [] ∧ (stAt t n).reqClaim = false ∧ (stAt t n).muckThen = b1 (stAt s n).reqClaim ∧
          t.fc.ahead = (if (stAt s n).reqFault then s.fc.ahead ++ [n] else s.fc.ahead) := by
  have ho := marked_only s n cm ck op pos
  have hst : stAt (marked s n cm ck op pos) n = stAt s n := stAt_of_only ho (by decide +kernel) n
  have hstops : ∀ q ∈ (stAt (marked s n cm ck op pos) n).jobs, stopsHere (marked s n cm ck op pos) q = false := fun q hq => by
    rw [hst] at hq
    exact stopsHere_marked hno hq
  have hjobs : (marked s n cm ck op pos).jobs = s.jobs.map fun j => if mineOf (stAt s n) j then markedJob cm ck op pos j else j := rfl
  have hctr : (marked s n cm ck op pos).freeCtr = s.freeCtr := ho.same .freeCtr (by decide +kernel)
  have hfc := fc_of_only ho (by decide +kernel)
  have hcalm' := calm_of_only hcalm ho (by decide +kernel) (by decide +kernel) (by decide +kernel)
  rw [exec_safePoint h]
  generalize marked s n cm ck op pos = w at *
  obtain ⟨hmoved, hstate, hnone, hclaim, hthen⟩ := moveAway_moves (pos := pos) hstops
  have hmove := moveAway_only w n pos
  have hcalm'' : Calm { moveAway w n pos with fc := { w.fc with ahead := if (stAt w n).reqFault then w.fc.ahead ++ [n] else w.fc.ahead } } :=
    ⟨hcalm'.1, (calm_of_only hcalm' hmove (by decide +kernel) (by decide +kernel) (by decide +kernel)).2⟩
  rw [sample_moves hstops (by rw [hst]; exact hreq), settle_of_calm hcalm'']
  refine ⟨_, rfl, ?_, hstate, hnone, hclaim, by rw [hst] at hthen; exact hthen, by rw [hst, hfc]⟩
  show (moveAway w n pos).jobs = _
  rw [hmoved, hjobs, hst, hctr, List.map_map]
  refine List.map_congr_left fun j _ => ?_
  rw [Function.comp_apply]
  cases hmine : mineOf (stAt s n) j
  · simp [hmine]
  · simp [hmine, mineOf_marked]

/-! ## A stop -/

theorem sample_stops (hf : (stAt s n).reqFault = false) (hs : (stAt s n).reqStop = true) (hjobs : (stAt s n).jobs = [q]) (hstop : stopsHere s q = true) :
    sample s n pos = abortJob s q 0x0A01 := by
  have hone : (stAt s n).jobs.filter (stopsHere s) = [q] := by rw [hjobs]; simp [hstop]
  unfold sample
  dsimp only
  rw [hone, if_neg (by simp [hf]), if_pos (by simp [hs])]
  rfl

theorem safePoint_stops (hcalm : Calm s) (h : atSafePoint s n op = true) (hf : (stAt s n).reqFault = false) (hs : (stAt s n).reqStop = true)
    (hjobs : (stAt s n).jobs = [j.seq]) (hjob : jobOf s j.seq = some j) (hreq : j.stopReq = true) (hst : j.issuedStatus = none) :
    ∃ t k, exec (.stallSafePoint n cm ck op pos) s = .next t ∧ jobOf t j.seq = some k ∧ k.phase = .finished ∧ k.status = 0x0A01 := by
  have ho := marked_only s n cm ck op pos
  have hstall : stAt (marked s n cm ck op pos) n = stAt s n := stAt_of_only ho (by decide +kernel) n
  have hmine : mineOf (stAt s n) j = true := by
    have hlive : isLive j = true := live_of_jobOf hjob
    simp [mineOf, hlive, hjobs]
  have hmark : jobOf (marked s n cm ck op pos) j.seq = some (markedJob cm ck op pos j) := by
    rw [jobOf_marked, hjob, Option.map_some, if_pos hmine]
  have hstops : stopsHere (marked s n cm ck op pos) j.seq = true := by
    unfold stopsHere
    rw [hmark]
    exact hreq
  have hcalm' := calm_of_only hcalm ho (by decide +kernel) (by decide +kernel) (by decide +kernel)
  obtain ⟨e, he⟩ := jobOf_endJob hmark (failWith 0x0A01) false
  have hkeep : keepStatus (markedJob cm ck op pos j) (failWith 0x0A01) = failWith 0x0A01 := by
    unfold keepStatus
    rw [show (markedJob cm ck op pos j).issuedStatus = none from hst, ite_self]
  rw [hkeep] at he
  rw [exec_safePoint h, sample_stops (by rw [hstall]; exact hf) (by rw [hstall]; exact hs) (by rw [hstall]; exact hjobs) hstops,
    settle_of_calm (calm_of_only hcalm' (abortJob_only ..) (by decide +kernel) (by decide +kernel) (by decide +kernel))]
  exact ⟨_, _, rfl, he, rfl, rfl⟩

end

end Sys2Proof.Stalls
end

section
/-! PROOF. Muck-outs, the farrier's claims and tests, and the reseed of a stall's own source (R371 to R373, R424, R453 to R455; O25). -/

namespace Sys2Proof.Stalls

open Sys2Proof Sys2Proof.Machine Sys2Proof.Claims Sys2Proof.Frames Sys2Proof.Holding Sys2Proof.PadReset Sys2Proof.HostReads Sys2Proof.Reports
  Sys2Proof.FaultMessages Sys2Proof.BootWaits

section
variable {s t u : State} {n kind : Nat}

/-! ## Retirement -/

theorem fc_retireStall (h : (stAt s n).state ≠ 5) : smGet false (retireStall s n).fc.retired n = true ∧ (s.fc.claimed = none → (retireStall s n).fc.claimed = none) := by
  have hfail : (recordRetired (modSt (clearReset (stallFail s n) n) n retiredStall) n).fc.claimed = s.fc.claimed ∧
      smGet false (recordRetired (modSt (clearReset (stallFail s n) n) n retiredStall) n).fc.retired n = true := by
    have hfc : (modSt (clearReset (stallFail s n) n) n retiredStall).fc = s.fc :=
      (fc_of_only (stallFail_only s n) (by decide +kernel) : (stallFail s n).fc = s.fc)
    generalize modSt (clearReset (stallFail s n) n) n retiredStall = v at *
    refine ⟨((recordRetired_only v n).same (.fc .claimed) (by decide +kernel)).trans (congrArg Faults.claimed hfc), ?_⟩
    unfold recordRetired
    rw [fc_of_only (raisePart_only ..) (by decide +kernel)]
    exact smGet_smSet_self false v.fc.retired n true
  have hend : ∀ v : State, smGet false v.fc.retired n = true → (s.fc.claimed = none → v.fc.claimed = none) →
      smGet false (sweepKind (evalDegraded (if v.fc.claimed == some n then { v with fc := { v.fc with claimed := none, testing := false } } else v) (stallKind n)) (stallKind n)).fc.retired n = true ∧
      (s.fc.claimed = none → (sweepKind (evalDegraded (if v.fc.claimed == some n then { v with fc := { v.fc with claimed := none, testing := false } } else v) (stallKind n)) (stallKind n)).fc.claimed = none) := by
    intro v hret hclaim
    rw [fc_of_only (sweepKind_only ..) (by decide +kernel), fc_of_only (evalDegraded_only ..) (by decide +kernel)]
    split
    · exact ⟨hret, fun _ => rfl⟩
    · exact ⟨hret, hclaim⟩
  have hsource : smGet false (sourceEnds (recordRetired (modSt (clearReset (stallFail s n) n) n retiredStall) n) n).fc.retired n = true ∧
      (s.fc.claimed = none → (sourceEnds (recordRetired (modSt (clearReset (stallFail s n) n) n retiredStall) n) n).fc.claimed = none) :=
    ⟨hfail.2, fun hc => hfail.1.trans hc⟩
  unfold retireStall
  rw [if_neg h]
  show smGet false (sweepKind (evalDegraded _ _) _).fc.retired n = true ∧ (s.fc.claimed = none → (sweepKind (evalDegraded _ _) _).fc.claimed = none)
  refine hend _ ?_ ?_
  · split
    · exact hsource.1
    · split
      · exact hsource.1
      · exact hsource.1
  · split
    · exact hsource.2
    · split
      · exact hsource.2
      · exact hsource.2

/-- A stall's contained fault that retires it. -/
theorem retiring_fault (hn : n < 52) (hkind : kind = 0x0A ∨ kind = 0x0B) (hclear : FaultsClear s) (hst : (stAt s n).state ≠ 5) :
    (raiseFault s n kind false 0 0).fc.fails = s.fc.fails ∧
      NothingDue (raiseFault s n kind false 0 0) ∧ (stAt (raiseFault s n kind false 0 0) n).state = 5 ∧ smGet false (raiseFault s n kind false 0 0).fc.retired n = true ∧
      (s.fc.claimed = none → (raiseFault s n kind false 0 0).fc.claimed = none) := by
  have hlow : n < 0x34 := by omega
  have hraise : raiseFault s n kind false 0 0 = retireStall (report s n kind false 0 0) n := by
    unfold raiseFault faultAction
    rw [if_pos hlow, if_neg (by rcases hkind with rfl | rfl <;> decide), if_pos hkind]
  have hcls : faultClass kind ≠ 0 := by rcases hkind with rfl | rfl <;> decide
  have hrule : bucketRule n kind = none := by
    unfold bucketRule
    rw [if_pos hlow, if_neg (by rcases hkind with rfl | rfl <;> decide)]
  have hdue := report_nothingDue (s := s) (source := n) (kind := kind) (charged := false) (pad := 0) (detail := 0) hcls hclear (BelowBucket.of_none hrule)
  have hrep := report_only s n kind false 0 0
  have hstall : (stAt (report s n kind false 0 0) n).state ≠ 5 := by rw [stAt_of_only hrep (by decide +kernel)]; exact hst
  have hclaim : (report s n kind false 0 0).fc.claimed = s.fc.claimed := hrep.same (.fc .claimed) (by decide +kernel)
  have hfails : (report s n kind false 0 0).fc.fails = s.fc.fails := hrep.same (.fc .fails) (by decide +kernel)
  rw [hraise]
  generalize report s n kind false 0 0 = v at *
  obtain ⟨hret, hnone⟩ := fc_retireStall hstall
  exact ⟨((retireStall_only v n).same (.fc .fails) (by decide +kernel)).trans hfails,
    nothingDue_of_only hdue (retireStall_only v n) (by decide +kernel) (by decide +kernel), state_retireStall v n, hret, fun hc => hnone (hclaim.trans hc)⟩

/-! ## Muck-outs -/

/-- The stall cleaned, before it is led on. -/
def cleaned (s : State) (n : Nat) : State :=
  clearReset (modSt s n fun x => { x with muckouts := satAdd 0xFFFF x.muckouts 1, dirty := false, operand := [], muckFailed := false, muckThen := 0 }) n

theorem stAt_cleaned (s : State) (n : Nat) : stAt (cleaned s n) n =
    { stAt s n with muckouts := satAdd 0xFFFF (stAt s n).muckouts 1, dirty := false, operand := [], muckFailed := false, muckThen := 0 } := by
  rw [cleaned, stAt_of_only (clearReset_only ..) (by decide +kernel), stAt_modSt_self]

theorem fc_cleaned (s : State) (n : Nat) : (cleaned s n).fc = s.fc := rfl

theorem exec_muckout (h3 : (stAt s n).state = 3) : exec (.muckoutDone n true) s = .next (settle (muckPassed s n)) :=
  congrArg Host.Outcome.next (if_pos h3)

/-- A passed muck-out leaves nothing due. -/
theorem muckPassed_settles (hdue : NothingDue s) :
    Only [.sys .wakeDriven, .port .linkState, .fn .pmeStatus, .fn .vecs, .pad .replayOwed, .out] (muckPassed s n) (settle (muckPassed s n)) :=
  settle_only_of_nothingDue (nothingDue_of_only hdue (muckPassed_only s n) (by decide +kernel) (by decide +kernel))

theorem muckout_frees (hdue : NothingDue s) (h3 : (stAt s n).state = 3) (h0 : (stAt s n).muckThen = 0) : ∃ t, exec (.muckoutDone n true) s = .next t ∧
      (stAt t n).state = 1 ∧ (stAt t n).dirty = false ∧ (stAt t n).muckFailed = false ∧ (stAt t n).muckouts = satAdd 0xFFFF (stAt s n).muckouts 1 ∧ t.jobs = s.jobs := by
  have hpass : muckPassed s n = modSt (cleaned s n) n fun x => { x with state := 1 } := by
    unfold muckPassed
    rw [h0]
    rfl
  have hs := muckPassed_settles (n := n) hdue
  have hst : stAt (muckPassed s n) n = { stAt s n with muckouts := satAdd 0xFFFF (stAt s n).muckouts 1, dirty := false, operand := [], muckFailed := false, muckThen := 0, state := 1 } := by
    rw [hpass, stAt_modSt_self, stAt_cleaned]
  have hjobs : (muckPassed s n).jobs = s.jobs := (muckPassed_only s n).same .jobs (by decide +kernel)
  rw [exec_muckout h3]
  generalize muckPassed s n = v at *
  refine ⟨_, rfl, ?_, ?_, ?_, ?_, (hs.same .jobs (by decide +kernel)).trans hjobs⟩
  · rw [stAt_of_only hs (by decide +kernel), hst]
  · rw [stAt_of_only hs (by decide +kernel), hst]
  · rw [stAt_of_only hs (by decide +kernel), hst]
  · rw [stAt_of_only hs (by decide +kernel), hst]

theorem muckout_tests (hdue : NothingDue s) (h3 : (stAt s n).state = 3) (h1 : (stAt s n).muckThen = 1) (hclaim : s.fc.claimed = some n) :
    ∃ t, exec (.muckoutDone n true) s = .next t ∧ (stAt t n).state = 4 ∧ t.fc.testing = true := by
  have hpass : muckPassed s n = { modSt (cleaned s n) n (fun x => { x with state := 4 }) with fc := { (cleaned s n).fc with testing := true } } := by
    unfold muckPassed
    rw [h1]
    exact if_pos (by rw [← cleaned, fc_cleaned, hclaim]; exact beq_self_eq_true _)
  have hs := muckPassed_settles (n := n) hdue
  have hst : (stAt (muckPassed s n) n).state = 4 ∧ (muckPassed s n).fc.testing = true := by
    rw [hpass]
    refine ⟨?_, rfl⟩
    show (stAt (modSt (cleaned s n) n fun x => { x with state := 4 }) n).state = 4
    rw [stAt_modSt_self]
  rw [exec_muckout h3]
  generalize muckPassed s n = v at *
  refine ⟨_, rfl, ?_, ?_⟩
  · rw [stAt_of_only hs (by decide +kernel)]
    exact hst.1
  · rw [fc_of_only hs (by decide +kernel)]
    exact hst.2

theorem muckout_returns (hdue : NothingDue s) (h3 : (stAt s n).state = 3) (h2 : (stAt s n).muckThen = 2) (hclaim : s.fc.claimed = some n) :
    ∃ t, exec (.muckoutDone n true) s = .next t ∧ (stAt t n).state = 1 ∧ t.fc.claimed = none := by
  have hpass : muckPassed s n = { modSt (cleaned s n) n (fun x => { x with state := 1 }) with
      fc := if (cleaned s n).fc.claimed == some n then { (cleaned s n).fc with claimed := none, testing := false } else (cleaned s n).fc } := by
    unfold muckPassed
    rw [h2]
    rfl
  have hs := muckPassed_settles (n := n) hdue
  have hst : (stAt (muckPassed s n) n).state = 1 ∧ (muckPassed s n).fc.claimed = none := by
    rw [hpass]
    refine ⟨?_, ?_⟩
    · show (stAt (modSt (cleaned s n) n fun x => { x with state := 1 }) n).state = 1
      rw [stAt_modSt_self]
    · show (if (cleaned s n).fc.claimed == some n then _ else _ : Faults).claimed = none
      rw [if_pos (by rw [fc_cleaned, hclaim]; exact beq_self_eq_true _)]
  rw [exec_muckout h3]
  generalize muckPassed s n = v at *
  refine ⟨_, rfl, ?_, ?_⟩
  · rw [stAt_of_only hs (by decide +kernel)]
    exact hst.1
  · rw [fc_of_only hs (by decide +kernel)]
    exact hst.2

theorem muckout_fails (hcalm : Calm s) (h3 : (stAt s n).state = 3) (hfirst : (stAt s n).muckFailed = false) :
    exec (.muckoutDone n false) s = .next (modSt s n fun y => { y with muckFailed := true }) := by
  have hexec : exec (.muckoutDone n false) s = .next (settle (modSt s n fun y => { y with muckFailed := true })) :=
    congrArg Host.Outcome.next ((if_pos h3).trans (congrArg settle ((if_neg (by decide)).trans (if_neg (by simp [hfirst])))))
  have hcalm' : Calm (modSt s n fun y => { y with muckFailed := true }) := ⟨hcalm.1, hcalm.2⟩
  rw [hexec, settle_of_calm hcalm']

theorem muckout_retires (hn : n < 52) (hclear : FaultsClear s) (h3 : (stAt s n).state = 3) (hsecond : (stAt s n).muckFailed = true) :
    ∃ t, exec (.muckoutDone n false) s = .next t ∧ (stAt t n).state = 5 ∧ smGet false t.fc.retired n = true := by
  have hexec : exec (.muckoutDone n false) s = .next (settle (raiseFault s n 0x0A false 0 0)) :=
    congrArg Host.Outcome.next ((if_pos h3).trans (congrArg settle ((if_neg (by decide)).trans (if_pos hsecond))))
  obtain ⟨-, hdue, hst, hret, -⟩ := retiring_fault hn (.inl rfl) hclear (by rw [h3]; decide)
  rw [hexec]
  generalize raiseFault s n 0x0A false 0 0 = v at *
  have hs := settle_only_of_nothingDue hdue
  refine ⟨_, rfl, ?_, ?_⟩
  · rw [stAt_of_only hs (by decide +kernel), hst]
  · rw [fc_of_only hs (by decide +kernel), hret]

theorem ucode_reloaded (hun : (stAt s n).unsound = true) (hno : (stAt s n).ucodeOk = false) : ∃ t, exec (.ucodeReloadDone n) s = .next t ∧
      stAt t n = { stAt s n with ucodeOk := true } ∧ t.fc.ahead = s.fc.ahead ++ [n] :=
  ⟨_, congrArg Host.Outcome.next (if_pos (by simp [hun, hno])), (stAt_modSt_self s n fun x => { x with ucodeOk := true} : _), rfl⟩

/-! ## Claims of the farrier -/

/-- What the collector notes of a claim. -/
def claims (s : State) (n : Nat) : State :=
  { s with fc := { s.fc with claimed := some n, overdue := s.fc.overdue.filter (· != n), ahead := s.fc.ahead.filter (· != n) } }

theorem claimStall_idle (h : (stAt s n).state = 1) : claimStall s n = startMuck (claims s n) n 1 := by
  unfold claimStall
  dsimp only
  rw [h]
  rfl

theorem claimStall_busy (h : (stAt s n).state = 2) : claimStall s n = modSt (claims s n) n fun x => { x with reqClaim := true } := by
  unfold claimStall
  dsimp only
  rw [h]
  rfl

/-- The farrier may claim a stall now. -/
structure MayClaim (s : State) : Prop where
  unclaimed : s.fc.claimed = none
  running : s.sys.bootState = 1
  awake : s.sys.deepSleep = false
  powered : s.en.flushActive = false

theorem exec_farrierClaim (h : MayClaim s) : exec .farrierClaim s = .next
    (match (s.fc.ahead.find? fun n => (stAt s n).state != 5 && (stAt s n).ucodeOk && !farrierWaits s n).or
        (s.fc.overdue.find? fun n => !skipped s n && !farrierWaits s n) with
    | some n => claimStall s n
    | none => match (rotation s).find? (fun n => !skipped s n) with
      | none => s
      | some n =>
        let s1 := { s with fc := { s.fc with nextStall := (n + 1) % 52 } }
        if farrierWaits s n then
          { s1 with fc := { s1.fc with overdue := if s1.fc.overdue.contains n then s1.fc.overdue else s1.fc.overdue ++ [n] },
                    en := { s1.en with wakes := if s1.en.wakes.contains (stallShed n) then s1.en.wakes else s1.en.wakes ++ [stallShed n] } }
        else claimStall s1 n) :=
  congrArg Host.Outcome.next (if_neg (by simp [h.unclaimed, h.running, h.awake, h.powered]))

/-- A stall ahead of the rotation is claimed first. -/
theorem claim_ahead (h : MayClaim s) (hahead : s.fc.ahead = [n]) (hcode : (stAt s n).ucodeOk = true) (hshed : shedAt s (stallShed n) = 2) (hst : (stAt s n).state ≠ 5) :
    exec .farrierClaim s = .next (claimStall s n) := by
  have hfind : (s.fc.ahead.find? fun n => (stAt s n).state != 5 && (stAt s n).ucodeOk && !farrierWaits s n) = some n := by
    rw [hahead, List.find?_cons_of_pos (by simp [hst, hcode, farrierWaits, hshed])]
  rw [exec_farrierClaim h, hfind]
  rfl

theorem ahead_claims (hahead : s.fc.ahead = [n]) : (claims s n).fc.ahead = [] := by
  show s.fc.ahead.filter (· != n) = []
  rw [hahead]
  simp

theorem claim_idle (h : MayClaim s) (hahead : s.fc.ahead = [n]) (hcode : (stAt s n).ucodeOk = true) (hshed : shedAt s (stallShed n) = 2) (hst : (stAt s n).state = 1) :
    ∃ t, exec .farrierClaim s = .next t ∧ t.fc.claimed = some n ∧ t.fc.ahead = [] ∧ (stAt t n).state = 3 ∧ (stAt t n).muckThen = 1 := by
  refine ⟨_, claim_ahead h hahead hcode hshed (by rw [hst]; decide), ?_⟩
  rw [claimStall_idle hst]
  exact ⟨rfl, ahead_claims hahead, by rw [startMuck, stAt_modSt_self], by rw [startMuck, stAt_modSt_self]⟩

theorem claim_busy (h : MayClaim s) (hahead : s.fc.ahead = [n]) (hcode : (stAt s n).ucodeOk = true) (hshed : shedAt s (stallShed n) = 2) (hst : (stAt s n).state = 2) :
    ∃ t, exec .farrierClaim s = .next t ∧ t.fc.claimed = some n ∧ stAt t n = { stAt s n with reqClaim := true } := by
  refine ⟨_, claim_ahead h hahead hcode hshed (by rw [hst]; decide), ?_⟩
  rw [claimStall_busy hst]
  exact ⟨rfl, stAt_modSt_self ..⟩

/-- With none ahead and none overdue, the rotation goes on. -/
theorem claim_next (h : MayClaim s) (hahead : s.fc.ahead = []) (hover : s.fc.overdue = []) (hnext : s.fc.nextStall = n) (hn : n < 52)
    (hskip : skipped s n = false) (hwait : farrierWaits s n = false) (hst : (stAt s n).state = 1) :
    ∃ t, exec .farrierClaim s = .next t ∧ t.fc.claimed = some n ∧ t.fc.nextStall = (n + 1) % 52 ∧ (stAt t n).state = 3 ∧ (stAt t n).muckThen = 1 := by
  have hrot : (rotation s).find? (fun n => !skipped s n) = some n := by
    have hfirst : rotation s = n :: ((List.range 51).map fun i => (n + (i + 1)) % 52) := by
      unfold Machine.rotation
      rw [hnext, List.range_succ_eq_map, List.map_cons, Nat.add_zero, Nat.mod_eq_of_lt hn, List.map_map]
      rfl
    rw [hfirst, List.find?_cons_of_pos (by simp [hskip])]
  have hexec : exec .farrierClaim s = .next (claimStall { s with fc := { s.fc with nextStall := (n + 1) % 52 } } n) := by
    rw [exec_farrierClaim h, hahead, hover]
    show Host.Outcome.next (match (rotation s).find? (fun n => !skipped s n) with
      | none => s
      | some n =>
        if farrierWaits s n then _ else claimStall { s with fc := { s.fc with nextStall := (n + 1) % 52 } } n) = _
    rw [hrot]
    exact congrArg Host.Outcome.next (if_neg (by simp [hwait]))
  refine ⟨_, hexec, ?_⟩
  rw [claimStall_idle (s := { s with fc := { s.fc with nextStall := (n + 1) % 52 } }) hst]
  exact ⟨rfl, rfl, by rw [startMuck, stAt_modSt_self], by rw [startMuck, stAt_modSt_self]⟩

/-! ## Self-tests -/

theorem exec_selftest (pass : Bool) (hclaim : s.fc.claimed = some n) (htest : s.fc.testing = true) (hlink : (smGet {} s.lk.tests (32 + n)).running = false) :
    exec (.selftestDone pass) s = .next (if pass then
      startMuck { sourceEnds (modSt { s with fc := { s.fc with testing := false } } n fun x => { x with unsound := false }) n with
        fc := { (sourceEnds (modSt { s with fc := { s.fc with testing := false } } n fun x => { x with unsound := false }) n).fc with
          passes := satAdd 0xFFFFFF (sourceEnds (modSt { s with fc := { s.fc with testing := false } } n fun x => { x with unsound := false }) n).fc.passes 1 } } n 2
      else settle (raiseFault { s with fc := { s.fc with testing := false, fails := satAdd 0xFFFF s.fc.fails 1, claimed := none } } n 0x0B false 0 0)) := by
  have hguard : ¬(!s.fc.testing || (smGet {} s.lk.tests (32 + n)).running) = true := by simp [htest, hlink]
  show execSelftestDone pass s = _
  unfold execSelftestDone
  rw [hclaim]
  exact congrArg Host.Outcome.next (if_neg hguard)

theorem selftest_passes (hclaim : s.fc.claimed = some n) (htest : s.fc.testing = true) (hlink : (smGet {} s.lk.tests (32 + n)).running = false) :
    ∃ t, exec (.selftestDone true) s = .next t ∧ (stAt t n).unsound = false ∧ (stAt t n).state = 3 ∧ (stAt t n).muckThen = 2 ∧
        t.fc.passes = satAdd 0xFFFFFF s.fc.passes 1 ∧ t.fc.testing = false := by
  refine ⟨_, (exec_selftest true hclaim htest hlink).trans (congrArg Host.Outcome.next (if_pos rfl)), ?_, ?_, ?_, rfl, rfl⟩
  · rw [startMuck, stAt_modSt_self]
    show (stAt (modSt { s with fc := { s.fc with testing := false } } n fun x => { x with unsound := false }) n).unsound = false
    rw [stAt_modSt_self]
  · rw [startMuck, stAt_modSt_self]
  · rw [startMuck, stAt_modSt_self]

theorem selftest_fails (hclaim : s.fc.claimed = some n) (htest : s.fc.testing = true) (hlink : (smGet {} s.lk.tests (32 + n)).running = false) (hn : n < 52)
    (hclear : FaultsClear s) (hst : (stAt s n).state ≠ 5) : ∃ t, exec (.selftestDone false) s = .next t ∧ (stAt t n).state = 5 ∧
      t.fc.fails = satAdd 0xFFFF s.fc.fails 1 ∧ t.fc.claimed = none := by
  have hexec := (exec_selftest false hclaim htest hlink).trans (congrArg Host.Outcome.next (if_neg (by decide)))
  obtain ⟨hfails, hdue, hfive, -, hnone⟩ := retiring_fault (s := { s with fc := { s.fc with testing := false, fails := satAdd 0xFFFF s.fc.fails 1, claimed := none } })
    (kind := 0x0B) hn (.inr rfl) hclear hst
  have hnone' := hnone rfl
  have hcount : (raiseFault { s with fc := { s.fc with testing := false, fails := satAdd 0xFFFF s.fc.fails 1, claimed := none } } n 0x0B false 0 0).fc.fails =
      satAdd 0xFFFF s.fc.fails 1 := hfails
  generalize raiseFault { s with fc := { s.fc with testing := false, fails := satAdd 0xFFFF s.fc.fails 1, claimed := none } } n 0x0B false 0 0 = v at *
  have hs := settle_only_of_nothingDue hdue
  refine ⟨_, hexec, ?_, ?_, ?_⟩
  · rw [stAt_of_only hs (by decide +kernel), hfive]
  · rw [fc_of_only hs (by decide +kernel), hcount]
  · rw [fc_of_only hs (by decide +kernel), hnone']

/-! ## The stall's own source -/

theorem exec_reseed (hn : n < 52) : exec (.stallSourceReseed n) s = .next (seedStall s n) := congrArg Host.Outcome.next (if_pos hn)

theorem seed_ratchets (h : s.rng.stopped = true ∨ s.rng.rawMode = true) : seedStall s n = modSt s n fun y =>
    { y with ratchet := true, source := shake128 (y.source ++ leBytes 8 y.ratchetCount) 32, ratchetCount := (y.ratchetCount + 1) % 2 ^ 64 } :=
  if_pos (by rcases h with h | h <;> simp [h])

theorem seed_requests (h1 : s.rng.stopped = false) (h2 : s.rng.rawMode = false) (hw : s.rng.waiting = []) :
    seedStall s n = serveStore 1 { s with rng := { s.rng with waiting := [512 + n] } } := by
  have hreq : seedStall s n = request s (512 + n) := if_neg (by simp [h1, h2])
  rw [hreq, request, if_neg (by simp [hw]), hw]
  rfl

theorem blocksFor_stall (n : Nat) : blocksFor (512 + n) = 1 := if_neg (by omega)

theorem seed_waits (h1 : s.rng.stopped = false) (h2 : s.rng.rawMode = false) (hw : s.rng.waiting = []) (h0 : s.rng.store = 0) :
    seedStall s n = { s with rng := { s.rng with waiting := [512 + n] } } := by
  rw [seed_requests h1 h2 hw]
  exact if_neg (by simp [blocksFor_stall, h0])

/-- The part after one block of the store is taken. -/
def blockTaken (s : State) : State := { s with rng := { s.rng with waiting := [], store := s.rng.store - 1 } }

theorem seed_serves (hn : n < 52) (hserve : sourceServes s = true) (hw : s.rng.waiting = []) (hstore : 1 ≤ s.rng.store) :
    seedStall s n = modSt (conditioned (blockTaken s)).2 n fun x => { x with ratchet := false, source := (conditioned (blockTaken s)).1 } := by
  have hoff : s.rng.stopped = false ∧ s.rng.rawMode = false := by
    simp only [sourceServes, Bool.and_eq_true] at hserve
    exact ⟨by simpa using hserve.1.1.2, by simpa using hserve.1.2⟩
  have hone : serveStore 1 { s with rng := { s.rng with waiting := [512 + n] } } = serveOne (blockTaken s) (512 + n) := by
    have hgo : sourceServes { s with rng := { s.rng with waiting := [512 + n] } } = true := hserve
    refine (if_pos ?_).trans ?_
    · rw [hgo, blocksFor_stall]
      simpa using hstore
    · unfold serveStore
      rw [blocksFor_stall]
      rfl
  rw [seed_requests hoff.1 hoff.2 hw, hone]
  unfold serveOne
  rw [if_neg (by omega), if_neg (by omega), if_neg (by omega), if_pos (by omega), Nat.add_sub_cancel_left]

theorem reseed_serves (hn : n < 52) (hserve : sourceServes s = true) (hw : s.rng.waiting = []) (hstore : 1 ≤ s.rng.store) :
    ∃ t, exec (.stallSourceReseed n) s = .next t ∧ (stAt t n).ratchet = false ∧
        (stAt t n).source = shake256 (drawBytes s 256).1 32 ∧ t.rng.store = s.rng.store - 1 := by
  refine ⟨_, exec_reseed hn, ?_⟩
  rw [seed_serves hn hserve hw hstore]
  refine ⟨by rw [stAt_modSt_self], ?_, rfl⟩
  rw [stAt_modSt_self]
  rfl

end

/-- Settles O25: a safe point serves the pending requests in order; a muck-out leads on by what it was started for; claims, tests and reseeds. -/
theorem stallsServeRequestsAndAreTested : Obligations.StallsServeRequestsAndAreTested := fun s n hcalm hflush => by
  refine ⟨fun cm ck op pos h => ⟨fun h1 h2 h3 h4 => safePoint_idle hcalm h h1 h2 h3 h4, fun hreq hno => safePoint_moves hcalm h hreq hno,
      fun j hf hs hjobs hjob hreq _ _ hst => safePoint_stops hcalm h hf hs hjobs hjob hreq hst⟩,
    fun h cm ck pos => safePoint_elsewhere h, fun h3 => ⟨muckout_frees hcalm.1 h3, muckout_tests hcalm.1 h3, muckout_returns hcalm.1 h3, muckout_fails hcalm h3,
      fun hsecond hn hclear => muckout_retires hn hclear h3 hsecond⟩,
    ucode_reloaded, fun hc hb hd hahead hcode hshed => ?_, fun hc hb hd hahead hover hnext hn hskip hwait hst =>
      claim_next ⟨hc, hb, hd, hflush⟩ hahead hover hnext hn hskip hwait hst,
    fun hclaim htest hn hlink => ⟨selftest_passes hclaim htest hlink, fun hclear hst => selftest_fails hclaim htest hlink hn hclear hst⟩,
    fun hn => ⟨fun h => (exec_reseed hn).trans (congrArg Host.Outcome.next (seed_ratchets h)), reseed_serves hn,
      fun h1 h2 hw h0 => (exec_reseed hn).trans (congrArg Host.Outcome.next (seed_waits h1 h2 hw h0))⟩⟩
  exact ⟨claim_idle ⟨hc, hb, hd, hflush⟩ hahead hcode hshed, claim_busy ⟨hc, hb, hd, hflush⟩ hahead hcode hshed⟩

end Sys2Proof.Stalls
end

section
/-! PROOF. Descriptor copies and one evaluation at the gate (R11, R12, R143, R165, R168, R170; O20). -/

namespace Sys2Proof.Gate

open Sys2Proof Sys2Proof.Machine Sys2Proof.Claims Sys2Proof.Frames

section
variable {s t u v : State} {q p i code detail alg key fixed : Nat} {c : Instr} {d : Desc} {b data : Bytes} {x : Queue} {extra cap : Option Nat} {wait wants : Bool}

/-! ## Descriptor copies -/

theorem fetch_kept (hx : qAt s q = x) (hst : x.state = 1) (hbx : x.bx = false) (hmay : mayIssue s x.fn = true) (hstand : x.standby = false)
    (hdist : x.copies.length < dist x.k x.a x.p) (hroom : x.copies.length < 64) (hfetch : x.fetchFailed = none)
    (hi : i = (x.a + x.copies.length) % 2 ^ (x.k + 1)) :
    exec (.descriptorFetchDone q i data) s = .next (modQ s q fun y => { y with fetchTried := none, copies := y.copies ++ [(i, data)] }) := by
  have hrun : frozen s = false := by
    simp only [mayIssue, Bool.and_eq_true] at hmay
    simpa using hmay.1.2
  have hwant : fetches s (qAt s q) = true := by simp [fetches, hx, hst, hstand, hdist, hroom, hfetch, hmay, hrun]
  show Host.Outcome.next (if _ then _ else _) = _
  rw [if_pos ⟨hwant, by rw [hx]; exact hi⟩, hx, if_neg (by simp [hbx])]

theorem fetch_ignored (hi : i ≠ ((qAt s q).a + (qAt s q).copies.length) % 2 ^ ((qAt s q).k + 1)) : exec (.descriptorFetchDone q i data) s = .next s :=
  congrArg Host.Outcome.next (if_neg fun h => hi h.2)

/-! ## The head that is evaluated -/

theorem exec_evaluates (h : EvaluatesAt c s u q) : exec c s = .next (evaluate u q) := by
  obtain ⟨hrun, ⟨rfl, hdef, hturn, rfl⟩ | ⟨rfl, hdef, rfl⟩⟩ := h
  · exact congrArg Host.Outcome.next (if_pos (by simp [hrun, hdef, hturn]))
  · show Host.Outcome.next (match nextDeferred u with
      | some q => if gateRuns u then evaluate u q else u
      | none => u) = _
    rw [hdef]
    exact congrArg Host.Outcome.next (if_pos hrun)

/-- The state at the gate is the state of the command but for the round-robin order. -/
theorem at_gate (h : EvaluatesAt c s u q) : qAt u q = qAt s q ∧ u.jobs = s.jobs ∧ u.rng = s.rng ∧ padOfQueue u q = padOfQueue s q := by
  obtain ⟨-, ⟨-, -, -, rfl⟩ | ⟨-, -, rfl⟩⟩ := h
  · exact ⟨rfl, rfl, rfl, rfl⟩
  · exact ⟨rfl, rfl, rfl, rfl⟩

theorem evaluate_unread (hpad : padOfQueue u q = some p) (hfail : (qAt u q).fetchFailed = some (qAt u q).a) :
    evaluate u q = haltQueue u q 0x80 0x01 (qAt u q).a := by
  unfold evaluate
  rw [hpad]
  exact if_pos hfail

theorem evaluate_copy (hpad : padOfQueue u q = some p) (hfail : (qAt u q).fetchFailed ≠ some (qAt u q).a)
    (hcopy : ((qAt u q).copies.find? fun k => k.1 == (qAt u q).a) = some ((qAt u q).a, b)) : evaluate u q =
    if formCheck u (qAt u q) p b ≠ 0 then haltQueue u q 0x80 (formCheck u (qAt u q) p b) (qAt u q).a
    else gateTail u q p (parseDesc b) ((algOf (parseDesc b)).getD 0) (gateKey u (parseDesc b) ((algOf (parseDesc b)).getD 0) p (qAt u q).bx) := by
  unfold evaluate
  rw [hpad]
  dsimp only
  rw [if_neg hfail, hcopy]

/-! ## What an evaluation leaves -/

/-- The queue is halted at its head, nothing accepted. -/
theorem haltQueue_halts (s : State) (q detail : Nat) : (qAt (haltQueue s q 0x80 detail (qAt s q).a) q).state = 2 ∧
    (qAt (haltQueue s q 0x80 detail (qAt s q).a) q).errReason = 0x80 ∧ (qAt (haltQueue s q 0x80 detail (qAt s q).a) q).errDetail = detail ∧
    (qAt (haltQueue s q 0x80 detail (qAt s q).a) q).errIndex = (qAt s q).a ∧ (qAt (haltQueue s q 0x80 detail (qAt s q).a) q).a = (qAt s q).a ∧
    (haltQueue s q 0x80 detail (qAt s q).a).jobs = s.jobs := by
  obtain ⟨hst, hreason, hdetail, hindex, -, -, hjobs⟩ := Doorbell.haltQueue_latches s q 0x80 detail (qAt s q).a
  exact ⟨hst, hreason, hdetail, hindex, (haltQueue_only ..).same (.queue .a) (by decide +kernel) q, hjobs⟩

/-- The head is deferred and stays where it is. -/
theorem deferHead_defers (s : State) (q code : Nat) : (qAt (deferHead s q code) q).defer = code ∧ (qAt (deferHead s q code) q).headDeferred = true ∧
    (qAt (deferHead s q code) q).a = (qAt s q).a ∧ (deferHead s q code).jobs = s.jobs := by
  refine ⟨?_, ?_, (deferHead_only s q code).same (.queue .a) (by decide +kernel) q, (deferHead_only s q code).same .jobs (by decide +kernel)⟩
  · unfold deferHead
    split
    · rw [qAt_modQ_self]
    · rw [qAt_modQ_self]
  · unfold deferHead
    split
    · rw [qAt_modQ_self]
    · rw [qAt_modQ_self]

/-- The record of the entry at the head of a queue. -/
def recordOf (x : Queue) (q p : Nat) (d : Desc) (cap : Option Nat) (fixed : Nat) (extra : Option Nat) (wait : Bool) : Job :=
  { queue := q, index := x.a, gen := x.gen, paddock := p, bx := x.bx, desc := d, capGen := cap, fixed := fixed, deferred := x.headDeferred, extra := extra,
    phase := .writing, waitKey := wait }

theorem passEntry_passes (s : State) (q p : Nat) (d : Desc) (cap : Option Nat) (fixed : Nat) (extra : Option Nat) (wait : Bool) :
    (passEntry s q p d cap fixed extra wait).jobs = s.jobs ++ [recordOf (qAt s q) q p d cap fixed extra wait] ∧
      (qAt (passEntry s q p d cap fixed extra wait) q).defer = 0 ∧ (qAt (passEntry s q p d cap fixed extra wait) q).a = (qAt s q).a := by
  unfold passEntry
  dsimp only
  rw [qAt_modQ_self]
  exact ⟨rfl, rfl, rfl⟩

/-! ## The checks after the key steps -/

/-- The entry draws random bytes. -/
def wantsOf (d : Desc) (alg key : Nat) : Bool := key == 0 && needsRandom d alg

/-- The status that the key steps or a stopped source have settled. -/
def fixedOf (s : State) (d : Desc) (alg key : Nat) : Nat := if wantsOf d alg key && s.rng.stopped then 0x0800 else key

theorem gateTail_entropy (hw : wantsOf d alg key = true) (hstop : s.rng.stopped = false) (hno : s.rng.ready = false ∨ servingGen s p = none) :
    gateTail s q p d alg key = deferHead s q 3 := by
  have hwait : (wantsOf d alg key && !s.rng.stopped && (!s.rng.ready || (servingGen s p).isNone)) = true := by
    rcases hno with h | h
    · simp [hw, hstop, h]
    · simp [hw, hstop, h]
  exact if_pos hwait

/-- With entropy enough, or none wanted, the limit decides, then the reservations, then the energy. -/
theorem gateTail_goes (hent : wantsOf d alg key = true → s.rng.stopped = true ∨ (s.rng.ready = true ∧ servingGen s p ≠ none)) : gateTail s q p d alg key =
    if !limitPasses s p then deferHead s q 2
    else match (if fixedOf s d alg key = 0 then reserve s d alg p else .fixed (fixedOf s d alg key)) with
      | .full => deferHead s q 2
      | .fixed st => if energyPasses s then passEntry s q p d none st none false else deferHead s q 1
      | .taken extra wait s1 =>
        if energyPasses s then passEntry s1 q p d (if wantsOf d alg key then servingGen s p else none) 0 extra wait else deferHead s q 1 := by
  have hgo : ¬(wantsOf d alg key && !s.rng.stopped && (!s.rng.ready || (servingGen s p).isNone)) = true := fun h => by
    simp only [Bool.and_eq_true, Bool.not_eq_true', Bool.or_eq_true, Option.isNone_iff_eq_none] at h
    obtain ⟨⟨hw, hstop⟩, hno⟩ := h
    rcases hent hw with h | ⟨hr, hg⟩
    · exact absurd (h.symm.trans hstop) (by decide)
    · rcases hno with h | h
      · exact absurd (hr.symm.trans h) (by decide)
      · exact hg h
  exact if_neg hgo

theorem gateTail_limit (hent : wantsOf d alg key = true → s.rng.stopped = true ∨ (s.rng.ready = true ∧ servingGen s p ≠ none)) (hl : limitPasses s p = false) :
    gateTail s q p d alg key = deferHead s q 2 := by
  rw [gateTail_goes hent, if_pos (by simp [hl])]

theorem gateTail_fixed (hent : wantsOf d alg key = true → s.rng.stopped = true ∨ (s.rng.ready = true ∧ servingGen s p ≠ none)) (hl : limitPasses s p = true)
    (hf : fixedOf s d alg key ≠ 0) : gateTail s q p d alg key =
      if energyPasses s then passEntry s q p d none (fixedOf s d alg key) none false else deferHead s q 1 := by
  rw [gateTail_goes hent, if_neg (by simp [hl]), if_neg hf]

theorem gateTail_taken (hent : wantsOf d alg key = true → s.rng.stopped = true ∨ (s.rng.ready = true ∧ servingGen s p ≠ none)) (hl : limitPasses s p = true)
    (hf : fixedOf s d alg key = 0) (hres : reserve s d alg p = .taken extra wait v) (he : energyPasses s = true) : gateTail s q p d alg key =
      passEntry v q p d (if wantsOf d alg key then servingGen s p else none) 0 extra wait := by
  rw [gateTail_goes hent, if_neg (by simp [hl]), if_pos hf, hres]
  exact if_pos he

/-! ## One evaluation -/

/-- The command halts the queue at its head with a detail. -/
def Halts (c : Instr) (s : State) (q detail : Nat) : Prop := ∃ t, exec c s = .next t ∧ (qAt t q).state = 2 ∧ (qAt t q).errReason = 0x80 ∧
  (qAt t q).errDetail = detail ∧ (qAt t q).errIndex = (qAt s q).a ∧ (qAt t q).a = (qAt s q).a ∧ t.jobs = s.jobs

/-- The command defers the head with a code. -/
def Defers (c : Instr) (s : State) (q code : Nat) : Prop := ∃ t, exec c s = .next t ∧ (qAt t q).defer = code ∧ (qAt t q).headDeferred = true ∧
  (qAt t q).a = (qAt s q).a ∧ t.jobs = s.jobs

/-- The command composes a record of the head. -/
def Records (c : Instr) (s : State) (q : Nat) (j : Job) : Prop := ∃ t, exec c s = .next t ∧ t.jobs = s.jobs ++ [j] ∧ (qAt t q).defer = 0 ∧ (qAt t q).a = (qAt s q).a

theorem halts_of (h : EvaluatesAt c s u q) (he : evaluate u q = haltQueue u q 0x80 detail (qAt u q).a) : Halts c s q detail := by
  obtain ⟨hq, hjobs, -, -⟩ := at_gate h
  have hhalt := haltQueue_halts u q detail
  rw [hq, hjobs] at hhalt
  exact ⟨_, exec_evaluates h, by rw [he, hq]; exact hhalt⟩

theorem defers_of (h : EvaluatesAt c s u q) (he : evaluate u q = deferHead u q code) : Defers c s q code := by
  obtain ⟨hq, hjobs, -, -⟩ := at_gate h
  have hdefer := deferHead_defers u q code
  rw [hq, hjobs] at hdefer
  exact ⟨_, exec_evaluates h, by rw [he]; exact hdefer⟩

theorem records_of (h : EvaluatesAt c s u q) (hv : v.jobs = s.jobs) (hvq : qAt v q = qAt s q) (he : evaluate u q = passEntry v q p d cap fixed extra wait) :
    Records c s q (recordOf (qAt s q) q p d cap fixed extra wait) := by
  have hpass := passEntry_passes v q p d cap fixed extra wait
  rw [hv, hvq] at hpass
  exact ⟨_, exec_evaluates h, by rw [he]; exact hpass⟩

/-- The head's copy passes the form and plan check: the rest decides. -/
theorem evaluate_formed (h : EvaluatesAt c s u q) (hpad : padOfQueue s q = some p) (hfail : (qAt s q).fetchFailed ≠ some (qAt s q).a)
    (hcopy : ((qAt s q).copies.find? fun k => k.1 == (qAt s q).a) = some ((qAt s q).a, b)) (hform : formCheck u (qAt s q) p b = 0) : evaluate u q =
    gateTail u q p (parseDesc b) ((algOf (parseDesc b)).getD 0) (gateKey u (parseDesc b) ((algOf (parseDesc b)).getD 0) p (qAt s q).bx) := by
  obtain ⟨hq, -, -, hp⟩ := at_gate h
  have he := evaluate_copy (hp.trans hpad) (by rw [hq]; exact hfail) (by rw [hq]; exact hcopy)
  rw [hq, if_neg (by simp [hform])] at he
  exact he

end

/-- Settles O20: the copies in index order, and the checks of one evaluation, each deciding before the next. -/
theorem gateEvaluatesInOrder : Obligations.GateEvaluatesInOrder := by
  refine ⟨fun s q i d => ⟨fun hst hbx hmay hstand hdist hroom hfetch hi => fetch_kept rfl hst hbx hmay hstand hdist hroom hfetch hi, fetch_ignored⟩,
    fun s u q p c h hpad => ?_⟩
  obtain ⟨hq, hjobs, hrng, hp⟩ := at_gate h
  refine ⟨fun hfail => halts_of h (evaluate_unread (hp.trans hpad) (by rw [hq]; exact hfail)), fun b hfail hcopy => ⟨fun hform => ?_, fun hform => ?_⟩⟩
  · have he := evaluate_copy (hp.trans hpad) (by rw [hq]; exact hfail) (by rw [hq]; exact hcopy)
    rw [if_pos (by rw [hq]; exact hform)] at he
    have hhalts := halts_of h he
    rw [hq] at hhalts
    exact hhalts
  · have he := evaluate_formed h hpad hfail hcopy hform
    refine ⟨fun hw hstop hno => defers_of h (he.trans (gateTail_entropy hw (by rw [hrng]; exact hstop) (by rw [hrng]; exact hno))), fun hent => ?_⟩
    have hent' : wantsOf (parseDesc b) ((algOf (parseDesc b)).getD 0) (gateKey u (parseDesc b) ((algOf (parseDesc b)).getD 0) p (qAt s q).bx) = true →
        u.rng.stopped = true ∨ (u.rng.ready = true ∧ servingGen u p ≠ none) := by
      rw [hrng]
      exact hent
    have hfix : fixedOf u (parseDesc b) ((algOf (parseDesc b)).getD 0) (gateKey u (parseDesc b) ((algOf (parseDesc b)).getD 0) p (qAt s q).bx) =
        fixedOf s (parseDesc b) ((algOf (parseDesc b)).getD 0) (gateKey u (parseDesc b) ((algOf (parseDesc b)).getD 0) p (qAt s q).bx) := by
      unfold fixedOf
      rw [hrng]
    refine ⟨fun hl => defers_of h (he.trans (gateTail_limit hent' hl)), fun hl hf hen => ?_, fun hl hf hen => ?_, fun extra wait v hl hf hres hen hv hvq => ?_⟩
    · exact defers_of h (he.trans ((gateTail_fixed hent' hl (by rw [hfix]; exact hf)).trans (if_neg (by simp [hen]))))
    · have hrec := records_of h hjobs hq (he.trans ((gateTail_fixed hent' hl (by rw [hfix]; exact hf)).trans (if_pos hen)))
      rw [hfix] at hrec
      rw [if_neg (fun hc => hf (by simpa using (Bool.and_eq_true_iff.mp hc).2))]
      exact hrec
    · have hrec := records_of h hv hvq (he.trans (gateTail_taken hent' hl (by rw [hfix]; exact hf) hres hen))
      rw [hf, beq_self_eq_true, Bool.and_true]
      exact hrec

end Sys2Proof.Gate
end

end
